-- ==== Sys2Proof/Word.lean ====
section
/-! DEFINITION. The plain words of the complex: bytes, register words, and the index types of its objects
(00_scope.md R1: 96 trees, 4,096 rings, 64 engines, 57 switched domains, 2,048 vectors, 256 event queues). -/

namespace Sys2Proof

/-- One byte. -/
abbrev Byte := BitVec 8

/-- A tree T0 to T95. -/
abbrev TreeId := Fin 96
/-- A terminal index, 1,023 being the broadcast index. -/
abbrev TermId := Fin 1024
/-- A host ring. -/
abbrev RingId := Fin 4096
/-- A pan engine PE0 to PE63. -/
abbrev EngId := Fin 64
/-- A switched power domain 0 to 56. -/
abbrev DomId := Fin 57
/-- A rake channel. -/
abbrev ChId := Fin 64
/-- An interrupt vector. -/
abbrev VecId := Fin 2048
/-- An event queue. -/
abbrev EvqId := Fin 256
/-- A trunk lane. -/
abbrev LaneId := Fin 8
/-- A fabric link. -/
abbrev LinkId := Fin 8
/-- A mailbox. -/
abbrev MbxId := Fin 16
/-- A host port. -/
abbrev PortId := Fin 2
/-- A key slot handle (R87). -/
abbrev SlotId := Fin 131072

end Sys2Proof
end

