-- ==== Sys2Proof/Syntax.lean ====
section
/-! DEFINITION. The commands of the complex: one constructor of `Instr` per row of spec/opcode_table.json, with the
operands the sender or the outside world gives. What the complex itself holds (a request in a mailbox, a descriptor in
host memory, an armed instant) is no operand: the meaning fetches it from the state. Where an event brings something
in from outside the boundary (a burst off the fibre, a frame off the trunk, a cell off a fabric link, a measured
voltage), the operand is what comes in. -/

namespace Sys2Proof

/-- Where a Calvan command comes from (R338, R343): a mailbox, or the ADMIN ring. -/
inductive Src where
  | mbx (n : MbxId)
  | admin
  deriving DecidableEq, Repr

/-- What a firmware poll reads from a module (R22, R465), in the module's own units. -/
structure Optics where
  /-- 1 SFF-8472, 2 CMIS -/
  std : Fin 3
  /-- alarm and warning flags -/
  flags : BitVec 16
  temp : BitVec 16
  volt : BitVec 16
  bias : BitVec 16
  txPower : BitVec 16
  rxPower : BitVec 16
  deriving DecidableEq, Repr

/-- One XGEM fragment of a burst: flow port, key index, whether it begins and ends a frame, the arrival of its header's
first bit after the burst's delimiter in 1/256 ns, whether a byte lay in an uncorrectable codeword, and its payload as
the bank its key index names decrypts it (log entry 13). -/
structure FragSeen where
  port : Nat
  keyIndex : Nat
  first : Bool
  last : Bool
  at_ : Nat
  bad : Bool
  bytes : List Byte
  deriving DecidableEq, Repr

/-- One allocation's portion of a burst: whether its DBRu's check field holds and the bytes it reports, its fragments, and
whether an uncorrectable XGEM header ends the portion after them (R118, R119). -/
structure AllocSeen where
  dbruOk : Bool
  dbru : Nat
  frags : List FragSeen
  hecLoss : Bool
  deriving DecidableEq, Repr

/-- A burst whose delimiter was found (R115 to R119): found instant less expected instant in 1/256 ns, the ONU-ID of its
header, symbols corrected, codewords corrected and uncorrectable, BIP bits in error, and a portion per allocation of the grant. -/
structure BurstSeen where
  drift : Int
  onuId : Nat
  fecCorr : Nat
  fecWords : Nat
  fecUncorr : Nat
  bip : Nat
  parts : List AllocSeen
  deriving DecidableEq, Repr


/-- One allocation structure of a bandwidth map (R159, R164): the allocation's index (4,096 for the broadcast Alloc-ID),
its Alloc-ID and terminal, the StartTime of its burst and its bytes, the DBRu and PLOAMu flags, burst profile and rate
code, and what the grant is for (0 data, 1 ranging, 2 discovery). Grants of one burst follow one another with the same
terminal and StartTime. -/
structure Grant where
  alloc : Nat
  allocId : Nat
  term : Nat
  start : Nat
  size : Nat
  dbru : Bool
  ploamu : Bool
  bprof : Nat
  rate : Nat
  kind : Nat
  deriving DecidableEq, Repr


/-- A protected word that holds errors (R248, R249): its memory by the code of R251, the instance and word address in it, the
symbols in error with what was added to them, and whether it fails again once rewritten. -/
structure Upset where
  mem : Nat
  inst : Nat
  addr : Nat
  errs : List (Fin 36 × Byte)
  stuck : Bool
  deriving DecidableEq, Repr

/-- What an engine meets as it executes a microword: words that hold errors by now (R189, R214), whether the PORT named by
COND 12 or 13 has data or room (R193), and whether an operand had a parity error (R189). -/
structure PeObs where
  errs : List Upset
  port : Bool
  parity : Bool
  deriving DecidableEq, Repr


/-- A hello (R374): the sender's serial, address (127 none) and link number, and the serial it has heard on that link. -/
structure Hello where
  serial : Nat
  addr : Nat
  link : Nat
  heard : Option Nat
  deriving DecidableEq, Repr

/-- A TIDE cell (R385): its departure tide; the arrival and departure tide of the last cell its sender received; the
address it queries; and an answer: an address, the offset to it and the hop count, none for unknown. Tides in 1/256 ns. -/
structure TideCell where
  dep : Int
  last : Option (Int × Int)
  query : Nat
  answer : Option (Nat × Int × Nat)
  deriving DecidableEq, Repr

/-- A lease request (R384): the pair, the requester, and whether it carries an unexpired lease of the pair. -/
structure LeaseReq where
  pair : Nat
  from_ : Nat
  holds : Bool
  deriving DecidableEq, Repr

/-- A lease answer (R384): the pair, granted or refused, and the remaining time a refusal carries in µs. -/
structure LeaseAns where
  pair : Nat
  granted : Bool
  left : Nat
  deriving DecidableEq, Repr

/-- A remote access (R387): read or write, the rake channel that asked, the remote space and offset, the bytes to write,
and the length. -/
structure RemoteReq where
  write : Bool
  tag : Nat
  from_ : Nat
  ch : Nat
  space : Nat
  off : Nat
  len : Nat
  data : List Byte
  deriving DecidableEq, Repr

/-- The answer to a remote access: of a write or a read, refused, or the bytes read. -/
structure RemoteRsp where
  ch : Nat
  tag : Nat
  write : Bool
  refused : Bool
  data : List Byte
  deriving DecidableEq, Repr

/-- A 64b/66b block as a fabric lane receives or sends it (R368): its sync header as R368 writes it (1 for 01, 2 for 10), and
its 64 payload bits, scrambled. -/
structure LaneBlock where
  hdr : Fin 4
  payload : BitVec 64
  deriving DecidableEq, Repr

/-- A defined burst profile as a HANDSHAKE compares it (R393): rate x 4 + index, FEC, preamble and delimiter. -/
structure ProfContents where
  place : Nat
  fec : Bool
  preLen : Nat
  preRepeat : Nat
  prePattern : Nat
  delimLen : Nat
  delimPattern : Nat
  deriving DecidableEq, Repr

/-- A HANDSHAKE message (R393): the pair's identifier, the sender's address and the partner it names, role, key check
value, the settings compared, and the defined burst profiles in rising place. -/
structure Handshake where
  pairId : Nat
  from_ : Nat
  to_ : Nat
  role : Nat
  kcv : Nat
  profile : Nat
  usRates : Nat
  maxFrame : Nat
  ploamMax : Nat
  ponId : Nat
  teqd : Nat
  profs : List ProfContents
  deriving DecidableEq, Repr

/-- A cell as the transmitter queues it: 256 bytes where the spec gives every byte of the payload (CLAIM, ROUTE, MIRROR,
TABLE_SYNC and cells passed on), else its content by name. -/
inductive TxCell where
  | raw (bytes : List Byte)
  | hello (h : Hello)
  | tide (c : TideCell)
  | leaseReq (dst : Nat) (m : LeaseReq)
  | leaseAns (dst : Nat) (m : LeaseAns)
  | remoteReq (dst : Nat) (m : RemoteReq)
  | remoteRsp (dst : Nat) (m : RemoteRsp)
  | handshake (dst : Nat) (m : Handshake)
  deriving DecidableEq, Repr


/-- The commands: one constructor per row of spec/opcode_table.json. -/
inductive Instr where
  /-- DEV_INFO (R363): Command that returns part number, step, service state, serial, key revocation bits and image versions. -/
  | devInfo (src : Src)
  /-- HOST_SLEEP_NOTICE (R306): Command that tells the complex the host is entering or leaving sleep; while the host sleeps, moderation of WAKE vectors is collapsed. -/
  | hostSleepNotice (src : Src)
  /-- RING_CREATE (R309): Command that creates one ring, with its type, size, buffers, event queue and bindings. -/
  | ringCreate (src : Src)
  /-- RING_DESTROY (R310): Command that returns a ring in READY, IDLE or ERROR to UNCREATED and releases its bindings. -/
  | ringDestroy (src : Src)
  /-- RING_DISABLE (R282): Command that disables a ring into DRAINING or IDLE, or starts or resumes it into RUNNING. -/
  | ringDisable (src : Src)
  /-- EVQ_CREATE (R308): Command that creates or destroys one event queue bound to an interrupt vector. -/
  | evqCreate (src : Src)
  /-- BUFFER_CONFIG (R276): Command that sets brine regions, spill, shrink, credit and staging parameters. -/
  | bufferConfig (src : Src)
  /-- BUFFER_STATUS (R277): Command that returns free cells, pages, reserve, spill and lane back-pressure states. -/
  | bufferStatus (src : Src)
  /-- QUEUE_PROFILE (R261): Command that sets one of the 64 admission profiles, subject to the reserve check. -/
  | queueProfile (src : Src)
  /-- QUEUE_SET (R262): Command that binds a range of downstream queues of one tree to a profile. -/
  | queueSet (src : Src)
  /-- QUEUE_STATUS (R277): Command that returns depth, pages, drops, staged bytes and profile of one queue. -/
  | queueStatus (src : Src)
  /-- TREE_CONFIG (R106): Command that configures a DISABLED tree, or changes its modifiable fields with MODIFY. -/
  | treeConfig (src : Src)
  /-- TREE_ENABLE (R102): Command that enables a tree toward ACTIVE at a start frame, or disables it to DISABLED. -/
  | treeEnable (src : Src)
  /-- BURST_PROFILE (R114): Command that sets or deletes one upstream burst profile of a tree, effective from FROM_F. -/
  | burstProfile (src : Src)
  /-- TERMINAL_ADD (R140): Command that creates a terminal record in EXPECTED together with its default allocation. -/
  | terminalAdd (src : Src)
  /-- TERMINAL_SET (R141): Command that changes a terminal's sleep settings and, optionally, its unicast key slot. -/
  | terminalSet (src : Src)
  /-- TERMINAL_REMOVE (R143): Command that removes grants, flows, reassemblies and staged frames of a terminal and releases its record. -/
  | terminalRemove (src : Src)
  /-- TERMINAL_STATUS (R146): Command that returns a terminal record's state and counts. -/
  | terminalStatus (src : Src)
  /-- FLOW_SET (R144): Command that adds, changes or deletes one flow port of a terminal. -/
  | flowSet (src : Src)
  /-- QUENCH (R145): Command that stops a terminal (or all terminals) into STOPPED, or releases it to EXPECTED. -/
  | quench (src : Src)
  /-- ALLOC_SET (R183): Command that creates, changes or deletes an allocation and posts the edit to both Sluice units. -/
  | allocSet (src : Src)
  /-- TABLE_INSERT (R243): Command that inserts or replaces one table entry, or starts a bulk insert through a rake channel. -/
  | tableInsert (src : Src)
  /-- TABLE_DELETE (R244): Command that deletes one key or starts a pattern delete over the whole table. -/
  | tableDelete (src : Src)
  /-- TABLE_DUMP (R245): Command that starts writing matching entries to host memory from a cursor. -/
  | tableDump (src : Src)
  /-- TABLE_PROFILE (R222): Command that sets or deletes a key profile of a DISABLED tree and direction. -/
  | tableProfile (src : Src)
  /-- TABLE_CONFIG (R246): Command that sets learning enable, age limit and sweep period. -/
  | tableConfig (src : Src)
  /-- TABLE_STATUS (R247): Command that returns table engine state and counts, optionally clearing them. -/
  | tableStatus (src : Src)
  /-- FILTER_SET (R224): Command that writes one perfect-match filter slot of a tree. -/
  | filterSet (src : Src)
  /-- TIME_SELECT (R47): Command that selects time domain A or B for timestamps and the tide target. -/
  | timeSelect (src : Src)
  /-- PWR_REQUEST (R423): Command that requests a power state for a domain, schedules it at an instant, or cancels the schedule. -/
  | pwrRequest (src : Src)
  /-- PWR_STATUS (R440): Command that returns a domain's power state, transition, pending request and counts. -/
  | pwrStatus (src : Src)
  /-- PROT_PAIR (R393): Command that forms, resumes or dissolves a protection pair and starts the handshake. -/
  | protPair (src : Src)
  /-- PROT_SWITCH (R413): Command that starts a planned switch on the sender or a forced takeover on the standby. -/
  | protSwitch (src : Src)
  /-- PROT_STATUS (R417): Command that returns a tree's protection state, partner, delta and counts. -/
  | protStatus (src : Src)
  /-- FAB_STATUS (R389): Command that returns fabric address, device state, keeper, members and link states. -/
  | fabStatus (src : Src)
  /-- FW_LOAD (R360): Command that starts reading an image into the staged slot of its kind, or discards the staged slot. -/
  | fwLoad (src : Src)
  /-- FW_START (R361): Command that makes a staged image current after compatibility checks. -/
  | fwStart (src : Src)
  /-- FW_STATUS (R362): Command that returns the image slots of a kind and the trees running them. -/
  | fwStatus (src : Src)
  /-- HEALTH_REPORT (R465): Command that returns the health summary, domain wear, error log records or module optics. -/
  | healthReport (src : Src)
  /-- COUNTER_SNAPSHOT (R455): Command that takes or arms a snapshot, or starts a flow counter harvest. -/
  | counterSnapshot (src : Src)
  /-- DEBUG_UNLOCK (R468): Command that issues a challenge, checks a signed token to unlock the test multiplexer, or relocks it. -/
  | debugUnlock (src : Src) (timely : Bool)
  /-- KEY_STAGE (R89): Command that writes one bank of a key slot, optionally binding the slot to an owner. -/
  | keyStage (src : Src)
  /-- KEY_SWITCH_AT (R91): Command that schedules the swap of a slot's banks at a tree frame boundary. -/
  | keySwitchAt (src : Src)
  /-- KEY_ERASE (R93): Command that erases both banks of a slot, cancels its switch and optionally frees it. -/
  | keyErase (src : Src)
  /-- TABLE_BULK_INSERT_DONE (R243): End of a bulk insert: the last status byte has arrived and the response is written. -/
  | tableBulkInsertDone
  /-- TABLE_DUMP_DONE (R245): End of a dump after MAX records or the table end, with the next cursor in the response. -/
  | tableDumpDone
  /-- PATTERN_DELETE_DONE (R244): End of the walk of a pattern delete and writing of its response. -/
  | patternDeleteDone
  /-- FW_LOAD_READ_DONE (R360): Image read completes or times out; header, signature and body are checked and the image is staged or refused. -/
  | fwLoadReadDone (src : Src) (timedOut : Bool)
  /-- FLOW_HARVEST_DONE (R455): End of a flow counter pair harvest through a rake channel. -/
  | flowHarvestDone
  /-- PROT_HANDSHAKE_DONE (R393): Pair handshake ends in agreement, mismatch or timeout and the PROT_PAIR response is written. -/
  | protHandshakeDone (t : TreeId) (timedOut : Bool)
  /-- ENGINE_RECOVERY_DONE (R209): Recovery of a faulted tree engine (reload, tests, start) ends and the TREE_ENABLE response is written. -/
  | engineRecoveryDone (e : Fin 48) (pass : Bool)
  /-- MBX_GO (R339): Write of MBX_n_CTL.GO that latches the request and sets BUSY, or is rejected. -/
  | mbxGo (port : PortId) (n : MbxId) (errs : List Upset)
  /-- SOFT_RESET (R35): GLB_CTL write with SOFT_RESET and key 0xA5 that starts a soft reset. -/
  | softReset (port : PortId) (v : BitVec 32)
  /-- TXDIS_ALL (R14): GLB_CTL write of TXDIS_ALL that drives every TXDIS ball high or releases it. -/
  | txdisAll (port : PortId) (v : BitVec 32)
  /-- TRE_MOD_CMD_START (R21): Write of START that queues a module management transaction. -/
  | treModCmdStart (port : PortId) (t : TreeId) (v : BitVec 32)
  /-- MOD_TRANSACTION_DONE (R20): A module two-wire transaction ends; read data lands and BUSY falls, with ERR on a missing acknowledge. -/
  | modTransactionDone (bus : Fin 12) (ack : Bool) (data : BitVec 32) (optics : Optics)
  /-- CLOCK_STRETCH_TIMEOUT (R20): A module holds SCL past STRETCH_MAX; the transaction is abandoned and the bus freed. -/
  | clockStretchTimeout (bus : Fin 12)
  /-- MODULE_POLL (R22): Every second, firmware polls the diagnostics of each module of a tree not DISABLED whose pair domain is ON. -/
  | modulePoll
  /-- TRE_US_SN_POP (R129): Write of POP that removes the head of the tree's discovery queue. -/
  | treUsSnPop (port : PortId) (t : TreeId) (v : BitVec 32)
  /-- TB_SET (R44): Write of TB_x_SET that sets a domain's time and its VALID bit. -/
  | tbSet (port : PortId) (x : Fin 2) (v : BitVec 64)
  /-- TB_ADJ (R44): Write of TB_x_ADJ that adds a signed value to a domain's time. -/
  | tbAdj (port : PortId) (x : Fin 2) (v : BitVec 64)
  /-- TB_RATE_WRITE (R43): Write of TB_x_RATE that rebases the domain and applies a new rate. -/
  | tbRateWrite (port : PortId) (x : Fin 2) (v : BitVec 32)
  /-- TIDE_ORIGIN_WRITE (R52): Write of TIDE_ORIGIN, ignored with ORIGIN_REFUSED while any tree is ACTIVE or PROT_STANDBY. -/
  | tideOriginWrite (port : PortId) (v : BitVec 64)
  /-- TOD_ARM (R69): Write of ARM that arms a time-of-day capture slot for a tree frame. -/
  | todArm (port : PortId) (slot : Fin 4) (v : BitVec 32)
  /-- DOORBELL (R286): Write of DB_TAIL that records a ring's new tail, waking the host rings domain if it is not ON. -/
  | doorbell (port : PortId) (ring : RingId) (v : BitVec 32) (bus : Fin 4)
  /-- DMA_START (R319): Write of CTL.START that checks and loads a channel program, arming or running it. -/
  | dmaStart (port : PortId) (ch : ChId) (v : BitVec 32)
  /-- DMA_RESUME (R332): Write of CTL.RESUME that restarts a HALTED channel from the failing burst. -/
  | dmaResume (port : PortId) (ch : ChId) (v : BitVec 32)
  /-- DMA_FENCE (R331): Write of CTL.FENCE that opens a fence over the channel's issued writes. -/
  | dmaFence (port : PortId) (ch : ChId) (v : BitVec 32)
  /-- DMA_DISABLE (R333): Write of CTL.DISABLE that ends the channel at once and returns it to IDLE. -/
  | dmaDisable (port : PortId) (ch : ChId) (v : BitVec 32)
  /-- DMA_KICK (R328): Write of DMA_CHn_KICK that re-reads the tail's LINK in AT_END, or is counted as ignored. -/
  | dmaKick (port : PortId) (ch : ChId) (v : BitVec 32)
  /-- SLU_SWAP (R177): Write of SLU_CTL.SWAP that switches over to a HOT_STANDBY unit, or is refused. -/
  | sluSwap (port : PortId) (v : BitVec 32)
  /-- SLU_RETEST (R177): Write of SLU_CTL.RETEST that moves every FAILED Sluice unit to TESTING. -/
  | sluRetest (port : PortId) (v : BitVec 32)
  /-- FAB_RECLAIM (R380): Write of FAB_CTL.RECLAIM that releases the fabric address and claims afresh. -/
  | fabReclaim (port : PortId) (v : BitVec 32)
  /-- PWR_WAKE (R431): Write of PWR_WAKE.GO that wakes the named domain with source 8. -/
  | pwrWake (port : PortId) (v : BitVec 32)
  /-- SNAP_NOW (R453): Write of PMC_SNAP_CTL.NOW that takes a global counter snapshot. -/
  | snapNow (port : PortId) (v : BitVec 32)
  /-- SNAP_ARM (R453): Write of PMC_SNAP_CTL.ARM that arms the snapshot instant in PMC_SNAP_AT. -/
  | snapArm (port : PortId) (v : BitVec 32)
  /-- SNAP_DISARM (R453): Write of PMC_SNAP_CTL.DISARM that disarms the snapshot instant. -/
  | snapDisarm (port : PortId) (v : BitVec 32)
  /-- VECTOR_UNMASK (R305): Write of IRQ_VEC_CFG that clears MASK, sending a message at once if PEND is set. -/
  | vectorUnmask (port : PortId) (vec : VecId) (v : BitVec 32)
  /-- EQ_OVERFLOW_CLEAR (R302): Write of 1 to IRQ_EQ_STATUS.OVERFLOW that clears it so posting resumes. -/
  | eqOverflowClear (port : PortId) (q : EvqId) (v : BitVec 32)
  /-- REGISTER_WRITE (R31): Write to a register without behaviour of its own, including W1C bits and plain RW fields. -/
  | registerWrite (port : PortId) (off width : Nat) (v : BitVec 64) (user : Bool)
  /-- HALF_READ_LATCH (R31): Low-half read of a 64-bit register that latches the high half (or a linked field) for the port. -/
  | halfReadLatch (port : PortId) (off : Nat) (user : Bool)
  /-- READ_CLEAR (R8): Read of an RC register that returns and then clears it. -/
  | readClear (port : PortId) (off width : Nat) (user : Bool)
  /-- LEGACY_READ (R462): Read of PMC_LEG_DATA that returns and restarts the addressed legacy counter. -/
  | legacyRead (port : PortId)
  /-- CS_WINDOW_READ (R216): Read of an engine's control-store window that takes one fetch slot and stalls the engine a cycle. -/
  | csWindowRead (port : PortId) (e : EngId) (off : Nat) (errs : List Upset)
  /-- ISLAND_COLD_RESET (R35): Island supply below limit or AON_RST_N low resets everything including the island. -/
  | islandColdReset (byPin : Bool)
  /-- ISLAND_RESET_RELEASE (R37): Island reset ends 2 ms after supply valid or at the AON_RST_N rise; the crystal oscillator is enabled. -/
  | islandResetRelease
  /-- OSCILLATOR_STABLE (R37): After 1,024 cycles the oscillator is stable; straps are sampled, TXDIS is driven high and PWR_GOOD_OUT rises. -/
  | oscillatorStable (bus : BitVec 2) (dbgLock : Bool)
  /-- COMPLEX_RESET (R35): Assertion of the complex reset from the reset controller. -/
  | complexReset
  /-- COMPLEX_RESET_RELEASE (R37): Release of the complex reset: the first domains rise, trees are DISABLED and the boot code runs. -/
  | complexResetRelease
  /-- MBX_READY (R37): Boot code running; every key slot is erased and MBX_READY rises. -/
  | mbxReady
  /-- SITE_TRAINED (R29): A stack controller completes training its site and sets its SITE_OK bit. -/
  | siteTrained (site : Fin 4)
  /-- TABLE_ENGINE_INIT_DONE (R242): The table engine finishes clearing both copies and enters READY. -/
  | tableEngineInitDone
  /-- PPS_IN_EDGE (R45): Rising edge on PPS_A_IN or PPS_B_IN captures domain time and CTC. -/
  | ppsInEdge (x : Fin 2)
  /-- PPS_OUT_EDGE (R68): The selected domain's time, less the offset, crosses a whole second and PPS_OUT rises. -/
  | ppsOutEdge
  /-- CORE_CLOCK_CHANGE (R42): The clock block signals a core clock change; TB_STEP takes the new value. -/
  | coreClockChange (code : Fin 4)
  /-- FREQ_HOLDOVER_CHANGE (R40): The clock block enters or leaves holdover and FREQ_HOLDOVER follows. -/
  | freqHoldoverChange (on : Bool)
  /-- TIDE_JUMP (R50): With no tree ACTIVE or PROT_STANDBY, the tide is set to its target and passed events fire. -/
  | tideJump
  /-- LEDGER_CALIBRATION (R70): End of a 2^24-tick window: the CTC is compared with the ledger and the ratio is written. -/
  | ledgerCalibration
  /-- LIGHT_ACCEPTED (R432): The light sentinel accepts 5 consecutive light samples on a DORMANT tree and wakes its pair. -/
  | lightAccepted (t : TreeId)
  /-- SENTINEL_REARM (R432): SD has been dark for 1 ms after the tree's return to DORMANT and the sentinel re-arms. -/
  | sentinelRearm (t : TreeId)
  /-- WAKE_DELIMITER_MATCH (R433): The listen-mode correlator matches the wake delimiter and wakes the pair domain. -/
  | wakeDelimiterMatch (t : TreeId) (rx : BitVec 64)
  /-- FABRIC_ACTIVITY_WAKE (R388): A non-idle signal held 1 µs on a FAB_RX lane while the fabric domain is RET or OFF wakes it. -/
  | fabricActivityWake
  /-- BROWN_OUT_WARNING (R438): Board bus below WARN for 100 samples: lasers off, trees into FAULT, forced interrupt. -/
  | brownOutWarning (mv : Nat)
  /-- BROWN_OUT_CLEAR (R437): Board bus above WARN plus 3 % for 10 ms clears the warning and sets BB_OK. -/
  | brownOutClear (mv : Nat)
  /-- BB_OVER (R437): The board bus exceeds 63.0 V and BB_OVER sets. -/
  | bbOver (mv : Nat)
  /-- LANE_LOCK_LOST (R103): The downstream lane macro of a tree loses lock. -/
  | laneLockLost (t : TreeId)
  /-- DOMAIN_POWER_LOSS (R430): A domain loses power without a request and passes to OFF. -/
  | domainPowerLoss (d : DomId)
  /-- POL_RAIL_READY (R439): A linked point-of-load rail reports ready during a rise from OFF. -/
  | polRailReady (k : Fin 16)
  /-- POL_RAIL_TIMEOUT (R439): A rail not ready within 5 ms sets FAULT and returns its domain to OFF. -/
  | polRailTimeout (d : DomId)
  /-- LOCKSTEP_MISMATCH (R366): The control processor cores differ; both are reset, or a second mismatch halts them. -/
  | lockstepMismatch
  /-- CP_RESTART_DONE (R366): The restart completes after the digest check and command service resumes, or the processor halts. -/
  | cpRestartDone (digestOk : Bool)
  /-- CIPHER_ERASE_NOTICE (R93): The cipher engine reports slots erased by a tamper or voltage alarm. -/
  | cipherEraseNotice (slots : List SlotId)
  /-- DS_FRAME_START (R77): At a tree's boundary the tree begins its downstream frame with PSBd, map, PLOAM and XGEM. -/
  | dsFrameStart (t : TreeId)
  /-- MAP_LATCH (R78): 500 ns before the boundary the tree latches the released map, or sends the hold or empty map. -/
  | mapLatch (t : TreeId)
  /-- DRAW_FRAME (R82): When XGEM space is free, the tree draws a launch frame, a round-robin frame, or an idle frame. -/
  | drawFrame (t : TreeId) (errs : List Upset)
  /-- KEY_SWAP (R91): At the boundary of F_s the slot's banks swap and the former current bank becomes RETIRED. -/
  | keySwap (slot : SlotId)
  /-- RETIRED_BANK_EXPIRE (R124): RETIRE_HOLD frames after a switch the RETIRED bank becomes EMPTY. -/
  | retiredBankExpire (slot : SlotId)
  /-- TREE_START (R104): At the start frame a scheduled enable makes the tree ACTIVE and it sends its first frame. -/
  | treeStart (t : TreeId)
  /-- TREE_DORMANT (R102): No terminal in OPERATION for DORMANT_FRAMES frames; the tree passes to DORMANT. -/
  | treeDormant (t : TreeId)
  /-- SURVEY_WAKE (R105): At each SURVEY_PERIOD frame a DORMANT tree is woken at its boundary. -/
  | surveyWake (t : TreeId)
  /-- SURVEY_END (R102): The SURVEY_LEN stay ends with no terminal in OPERATION and the tree returns to DORMANT. -/
  | surveyEnd (t : TreeId)
  /-- PLOAM_HELD_QUEUED (R81): A message held by the control processor is queued when a frame frees room. -/
  | ploamHeldQueued (t : TreeId)
  /-- BURST_PROFILE_ANNOUNCE (R113): Every 1,000 frames the image announces each defined burst profile in a PLOAM message. -/
  | burstProfileAnnounce (t : TreeId)
  /-- STAGING_REFILL (R264): The queue manager moves whole frames from a deep queue into a tree's staging when the share is half empty. -/
  | stagingRefill (t : TreeId) (term : TermId) (cls : Fin 8) (errs : List Upset)
  /-- ORPHAN_RECLAIM (R259): The walk of the link regions returns a cut queue's orphan pages to the free lists. -/
  | orphanReclaim
  /-- RXRST_PULSE (R16): Before each granted burst the RXRST pulse is placed, shortened or skipped. -/
  | rxrstPulse (t : TreeId)
  /-- BURST_HUNT (R115): The delimiter of an expected burst is found or the hunt window ends; the burst is decoded or missed. -/
  | burstHunt (t : TreeId) (seen : Option BurstSeen)
  /-- REASSEMBLY_TIMEOUT (R120): An open reassembly receives no fragment for REASM_TIMEOUT frames and is discarded. -/
  | reassemblyTimeout (t : TreeId) (alloc : Fin 4096)
  /-- SERIAL_NUMBER_RECEIVED (R129): A discovery serial number matches a record into RANGING, or is queued, ignored or lost. -/
  | serialNumberReceived (t : TreeId) (serial : BitVec 64) (rates : BitVec 3)
  /-- RANGING_RESPONSE (R131): A ranging burst gives an RTD; if valid, the equalisation delay is sent. -/
  | rangingResponse (t : TreeId) (term : TermId) (rtd : Nat)
  /-- RANGING_FAILED (R128): RANGE_TRIES ranging grants pass without a valid response; the record returns to EXPECTED. -/
  | rangingFailed (t : TreeId) (term : TermId)
  /-- TERMINAL_OPERATION (R128): At the end of the frame carrying the ranging time the record enters OPERATION. -/
  | terminalOperation (t : TreeId) (term : TermId)
  /-- REGISTRATION_ID_RECEIVED (R132): The registration ID after ranging is compared, or passed to the host. -/
  | registrationIdReceived (t : TreeId) (term : TermId) (regId : List Byte)
  /-- TERMINAL_LOST (R133): Every granted burst is missed for LOB_FRAMES frames; the record enters LOST. -/
  | terminalLost (t : TreeId) (term : TermId)
  /-- LOST_LIMIT (R128): LIMIT frames in LOST without a burst; a deregistration is queued and the record enters EXPECTED. -/
  | lostLimit (t : TreeId) (term : TermId)
  /-- RECORD_UNUSED (R143): A removed record becomes UNUSED at the end of the frame carrying its deregistration. -/
  | recordUnused (t : TreeId) (term : TermId)
  /-- UPSTREAM_PLOAM_RECEIVED (R127): An upstream PLOAM message is taken and its MIC checked through the cipher engine. -/
  | upstreamPloamReceived (t : TreeId) (term : TermId) (msg : List Byte) (micOk : Bool)
  /-- SLEEP_REQUEST (R137): A terminal's sleep request is answered and its windows are scheduled from F_r + 2. -/
  | sleepRequest (t : TreeId) (term : TermId) (mode : Fin 4)
  /-- SLEEP_WINDOW_BOUNDARY (R137): At a tree boundary a terminal's asleep or aware interval begins or its windows close. -/
  | sleepWindowBoundary (t : TreeId) (term : TermId)
  /-- ROGUE_FRAME (R134): At the end of a frame, light outside the expected set is judged; rogue frames are counted and ROGUE raised. -/
  | rogueFrame (t : TreeId) (light : List (Int × Int))
  /-- ISOLATION_SWEEP_STEP (R136): After FRAMES frames of withheld grants the sweep judges the terminal and moves to the next. -/
  | isolationSweepStep (t : TreeId)
  /-- MAP_BUILD (R155): At a tree's cutoff the credit array updates accounts and the units compose the map. -/
  | mapBuild (t : TreeId) (wrong : List (Fin 2 × List Grant))
  /-- MAP_RELEASE (R169): After the slot the two maps' CRCs are compared, self-checked if needed, and the map is released. -/
  | mapRelease (t : TreeId)
  /-- SLUICE_UNIT_FAULT (R177): A Sluice unit meets an engine fault or loses its domain and enters FAILED. -/
  | sluiceUnitFault (u : Fin 2) (fault : Option (Fin 8 × Fin 16))
  /-- SLUICE_SELF_TEST_DONE (R177): A TESTING unit's self-test passes or fails. -/
  | sluiceSelfTestDone (u : Fin 2) (pass : Bool)
  /-- SLUICE_RETEST_TIMER (R177): RETEST_MS after entry into FAILED a unit moves to TESTING. -/
  | sluiceRetestTimer (u : Fin 2)
  /-- SLUICE_HOT (R177): 64 clean tide frames after the copy completes a RESYNC unit becomes HOT_STANDBY. -/
  | sluiceHot (u : Fin 2)
  /-- FORECAST_RECORD (R172): A forecast record delivered by the rake is checked and installed, cancelled or refused. -/
  | forecastRecord (ring : RingId)
  /-- TRUNK_INGRESS (R267): A downstream frame with its trunk header arrives and is checked before lookup. -/
  | trunkIngress (lane : LaneId) (hdr frame : List Byte)
  /-- LOOKUP_DOWNSTREAM (R233): The downstream key is looked up and the frame resolved to terminal, port and class. -/
  | lookupDownstream (errs : List Upset)
  /-- LOOKUP_UPSTREAM (R234): An upstream frame is filtered, looked up and placed in its trunk egress queue. -/
  | lookupUpstream (errs : List Upset)
  /-- LEARN_APPLY (R237): A queued learn or move is written to the table with at most one displacement. -/
  | learnApply
  /-- AGEING_SWEEP (R238): The sweeper visits a bucket, refreshes or ages its dynamic entries, deleting expired ones. -/
  | ageingSweep
  /-- TABLE_SCRUB (R253): The background scrubber reads a word of the cache or a table copy and corrects it. -/
  | tableScrub (mem : Fin 3) (bucket : Fin 8388608) (slot : Fin 2) (errs : List Upset)
  /-- TRUNK_SEND (R269): A free lane sends the head frame of the highest class with enough credit. -/
  | trunkSend (lane : LaneId)
  /-- CREDIT_RETURN (R268): A credit return message from the forwarding engine adds to a (lane, class) counter. -/
  | creditReturn (lane : LaneId) (cls : Fin 8) (count : Nat)
  /-- FE_NOT_READY (R270): The forwarding engine reports its upstream side not ready; sending stops. -/
  | feNotReady
  /-- FE_READY (R270): The forwarding engine reports ready again; counters restart at 0. -/
  | feReady
  /-- SPILL_WRITE (R273): A frame waiting in brine is written, within the pace, to the tail of its spill queue. -/
  | spillWrite (lane : LaneId) (cls : Fin 8)
  /-- SPILL_READBACK (R272): The queue manager reads a spill frame back into brine in order. -/
  | spillReadback (lane : LaneId) (cls : Fin 8)
  /-- TX_DESCRIPTOR (R287): A TX descriptor is read and its frame sent to its destination or completed at once. -/
  | txDescriptor (ring : RingId) (bus : Fin 4) (errs : List Upset)
  /-- TX_WAIT_RESUME (R299): A TX entry waiting for host cells or launch room proceeds once room frees. -/
  | txWaitResume (ring : RingId) (busErr : Bool)
  /-- RX_DELIVER (R298): A frame ready for an RX or BITTERN ring is claimed and written, waits, or is dropped. -/
  | rxDeliver (ring : RingId) (busErr : Bool) (errs : List Upset)
  /-- RX_HOLD_EXPIRE (R298): A waiting frame still not claimable RX_HOLD µs after its first try is dropped. -/
  | rxHoldExpire (ring : RingId)
  /-- RING_IDLE (R282): A DRAINING ring completes its last outstanding work and enters IDLE. -/
  | ringIdle (ring : RingId)
  /-- EVENT_POST (R301): An event queue entry covering merged completions or a ring state change is written. -/
  | eventPost (q : EvqId) (busErr : Bool)
  /-- VECTOR_TIMER (R305): A vector's moderation timer expires and the fire condition is met. -/
  | vectorTimer (vec : VecId)
  /-- RAKE_BURST (R321): Arbitration issues one channel burst from source to destination. -/
  | rakeBurst (port : PortId)
  /-- RAKE_BURST_ERROR (R332): A burst ends in error; it is retried or the channel halts. -/
  | rakeBurstError (ch : ChId) (cause : Fin 3)
  /-- RAKE_ARMED_START (R323): The tide reaches START_AT and an ARMED channel runs. -/
  | rakeArmedStart (ch : ChId)
  /-- PERIPHERAL_REQUEST_RISE (R325): A requester raises its request and a WAIT_REQ channel resumes. -/
  | peripheralRequestRise (ch : ChId)
  /-- FENCE_DONE (R331): Every write before the fence is acknowledged and FENCED sets. -/
  | fenceDone (ch : ChId)
  /-- FENCE_TIMEOUT (R331): A fence not completed within FENCE_TMO halts the channel. -/
  | fenceTimeout (ch : ChId) (acked : Nat)
  /-- ENGINE_EVENT (R197): An event arrives on an engine line and is queued, discarded or interrupts a routine. -/
  | engineEvent (e : EngId) (line : Fin 64) (payload : BitVec 64)
  /-- ROUTINE_ENTRY (R197): The free engine starts the highest pending line's routine with payload and tide in g0 and g1. -/
  | routineEntry (e : EngId)
  /-- NEXT (R191): A microword that continues at the next address after its ALU and memory operations. -/
  | next (e : EngId) (obs : PeObs)
  /-- JUMP (R191): A microword that continues at TARGET. -/
  | jump (e : EngId) (obs : PeObs)
  /-- BRT (R191): A microword that branches to TARGET when COND holds. -/
  | brt (e : EngId) (obs : PeObs)
  /-- BRF (R191): A microword that branches to TARGET when COND does not hold. -/
  | brf (e : EngId) (obs : PeObs)
  /-- CALL (R191): A microword that pushes the return address and jumps to TARGET. -/
  | call (e : EngId) (obs : PeObs)
  /-- RET (R191): A microword that continues at the popped address. -/
  | ret (e : EngId) (obs : PeObs)
  /-- WAIT (R191): A microword that repeats until COND holds, then acts once. -/
  | wait (e : EngId) (obs : PeObs)
  /-- COMMIT (R199): A microword that applies every staged effect in order and enters the tail. -/
  | commit (e : EngId) (obs : PeObs)
  /-- END (R191): A microword that commits any staged effects and returns the routine. -/
  | end_ (e : EngId) (obs : PeObs)
  /-- HALT (R191): A microword that puts a dispatch-mode engine into HALTED. -/
  | halt (e : EngId) (obs : PeObs)
  /-- MOP_RESULT (R194): The result of an LD, PRD or PPOP lands in its register and the busy mark clears. -/
  | mopResult (e : EngId) (reg : Fin 32) (value : BitVec 64) (errs : List Upset) (err : Bool)
  /-- PORT_TIMEOUT (R195): A port does not answer within 1,024 cycles; the routine is abandoned and restarted, or faults. -/
  | portTimeout (e : EngId)
  /-- ROUTINE_WATCHDOG (R200): The commit-distance count reaches 4,096 and the routine faults. -/
  | routineWatchdog (e : EngId)
  /-- DISPATCH_OPCODE (R207): The engine takes an opcode from its dispatch queue and starts its routine or a test ROM routine. -/
  | dispatchOpcode (e : EngId)
  /-- ENGINE_START (R208): Opcode 0xFE moves a DISPATCH engine with a valid control store into SERVICE. -/
  | engineStart (e : EngId)
  /-- ENGINE_STOP (R208): Opcode 0xFF stops the engine into HALTED after its running routine. -/
  | engineStop (e : EngId)
  /-- ENGINE_LOAD_DONE (R212): A control-store load completes and its verify passes or fails. -/
  | engineLoadDone (e : EngId) (ok : Bool)
  /-- CS_SCRUB (R214): The scrubber reads one control-store word, correcting or faulting. -/
  | csScrub (e : EngId) (word : Fin 4096) (errs : List Upset)
  /-- SAMPLER_FIRE (R460): The engine's periodic sampler fires and writes a sampling record or counts a skip. -/
  | samplerFire (e : EngId)
  /-- DOMAIN_ENTRY_DONE (R428): A FALLING domain completes its entry into RET or OFF; a latched wake or pending request is applied. -/
  | domainEntryDone (d : DomId)
  /-- DOMAIN_STAGE_READY (R429): A rise stage's ready signal is asserted; the next stage begins or the domain is ON. -/
  | domainStageReady (d : DomId)
  /-- IDLE_TIMER (R427): A domain's idle timer expires and a request for IDLE_TARGET is made. -/
  | idleTimer (d : DomId)
  /-- SCHEDULED_REQUEST (R426): A domain's scheduled request reaches its instant or ledger count and is applied. -/
  | scheduledRequest (d : DomId)
  /-- STARTUP_POWER_REQUEST (R434): With the control image running and all sites trained, ON is requested for the table engine, trunk and brine domains. -/
  | startupPowerRequest
  /-- BLOCK_LOCK_CHANGE (R371): A fabric lane gains or loses block lock. -/
  | blockLockChange (lane : Fin 16) (blocks : List LaneBlock) (los : Bool)
  /-- CODEWORD_LOCK (R371): Both lanes meet matching START blocks for 4 codewords and the link gains codeword lock. -/
  | codewordLock (link : LinkId) (skew : Nat) (words : List (List LaneBlock))
  /-- CODEWORD_RECEIVED (R372): A codeword is FEC-decoded; uncorrectable ones drop cells and may breach UE_LIMIT. -/
  | codewordReceived (link : LinkId) (blocks : List LaneBlock)
  /-- HELLO_SEND (R374): At each hello interval a hello is sent on an ALIGNED or ADJACENT link. -/
  | helloSend (link : LinkId)
  /-- HELLO_RECEIVED (R374): A hello forms, replaces or confirms an adjacency, or reveals a loop. -/
  | helloReceived (link : LinkId) (h : Hello)
  /-- HELLO_DEAD (R374): No hello for HELLO_DEAD intervals and the adjacency is removed. -/
  | helloDead (link : LinkId)
  /-- CELL_RECEIVED (R377): A fabric cell is checked and delivered, forwarded or dropped. -/
  | cellReceived (link : LinkId) (cell : List Byte)
  /-- CLAIM_RECEIVED (R380): A CLAIM cell is flooded onward and judged against the device's own claim or address. -/
  | claimReceived (link : LinkId) (cell : List Byte)
  /-- CLAIM_REPEAT (R380): Every 500 µs a CLAIMING device floods its CLAIM again. -/
  | claimRepeat
  /-- CLAIM_TIMER (R380): 2 ms pass with no lower-serial CLAIM; the device holds its address. -/
  | claimTimer
  /-- UNADDRESSED_TIMER (R380): 10 ms pass in UNADDRESSED and the device starts claiming or retries. -/
  | unaddressedTimer
  /-- ROUTE_RECEIVED (R381): A ROUTE cell updates the database and is flooded onward. -/
  | routeReceived (link : LinkId) (cell : List Byte)
  /-- ROUTE_PERIODIC (R381): Every 10 ms an ADDRESSED device floods its ROUTE. -/
  | routePeriodic
  /-- ROUTE_AGE_OUT (R381): A ROUTE held 40 ms is dropped from the database. -/
  | routeAgeOut
  /-- ROUTE_RECOMPUTE (R382): The control processor computes and installs a new routing table and re-evaluates the keeper. -/
  | routeRecompute
  /-- LEASE_REQUEST_RECEIVED (R384): The keeper grants, renews or refuses a pair's lease. -/
  | leaseRequestReceived (m : LeaseReq)
  /-- LEASE_ANSWER_RECEIVED (R409): A LEASE answer grants or refuses the lease to a paired tree. -/
  | leaseAnswerReceived (t : TreeId) (m : LeaseAns)
  /-- TIDE_CELL_SEND (R385): Every 1 ms a TIDE cell is sent on each ADJACENT link. -/
  | tideCellSend (link : LinkId)
  /-- TIDE_CELL_RECEIVED (R385): A TIDE cell updates the link offset and delay and answers a query. -/
  | tideCellReceived (link : LinkId) (c : TideCell)
  /-- REMOTE_ACCESS_RECEIVED (R387): A REMOTE_RD or REMOTE_WR cell is served or refused, with REMOTE_RSP cells in answer. -/
  | remoteAccessReceived (m : RemoteReq)
  /-- REMOTE_RSP_RECEIVED (R387): A REMOTE_RSP cell completes a rake channel's remote access. -/
  | remoteRspReceived (m : RemoteRsp)
  /-- DIGEST_RECEIVED (R399): A DIGEST message from the transmitting side is taken whole for clean-frame and delta measurement. -/
  | digestReceived (t : TreeId) (f : BitVec 64) (body : List Byte)
  /-- STATUS_RECEIVED (R407): A partner STATUS message moves the protection state as the tables decide. -/
  | statusReceived (t : TreeId) (f : BitVec 64) (body : List Byte)
  /-- DELTA_RECEIVED (R397): A DELTA message's mirror records are applied by the standby. -/
  | deltaReceived (t : TreeId) (f : BitVec 64) (body : List Byte) (gap : Bool)
  /-- COPY_RECEIVED (R399): A COPY message's records are applied, ending with END. -/
  | copyReceived (t : TreeId) (f : BitVec 64) (body : List Byte) (gap : Bool)
  /-- HANDSHAKE_RECEIVED (R393): A HANDSHAKE message from the partner is compared with the own pair settings. -/
  | handshakeReceived (t : TreeId) (h : Handshake)
  /-- LEAVE_RECEIVED (R395): A LEAVE message makes the partner dissolve or keep the pair alone. -/
  | leaveReceived (t : TreeId) (f : BitVec 64) (dissolve : Bool)
  /-- TABLE_SYNC_RECEIVED (R400): A TABLE_SYNC cell's entries are inserted or deleted by the standby. -/
  | tableSyncReceived (pair : BitVec 16) (payload : List Byte) (gap : Bool)
  /-- LEASE_REQUEST_TIMER (R409): Every 1 ms or at each boundary a paired side requests the pair's lease. -/
  | leaseRequestTimer (t : TreeId)
  /-- LEASE_EXPIRE (R409): An ALONE side's lease count runs out; the laser goes off and it enters HELD. -/
  | leaseExpire (t : TreeId)
  /-- TAKING_TIMEOUT (R408): Two frames in TAKING without confirmation or lease; the tree goes dark into CLAIMING. -/
  | takingTimeout (t : TreeId)
  /-- SNAPSHOT_AT (R453): The armed snapshot instant is reached and a global snapshot is taken. -/
  | snapshotAt
  /-- WEAR_MEASURE (R463): Once a second the island measures each ON domain's ring oscillator ratio and wear index. -/
  | wearMeasure (ratios : List Nat)
  /-- HEALTH_POINT (R464): Every 24 h a wear point is kept per domain and the predictions are refitted. -/
  | healthPoint
  /-- NONCE_EXPIRY (R468): A debug challenge's nonce expires after 60 s. -/
  | nonceExpiry
  /-- TMX_UNLOCK_EXPIRY (R468): The test multiplexer unlock reaches its ledger expiry and relocks. -/
  | tmxUnlockExpiry
  /-- FAB_LINK_EN_WRITE (R374): A write of FAB_LINKn_CFG.EN drops the link to DOWN at once when 0, or starts LOCKING from DOWN when 1 with the fabric domain ON. -/
  | fabLinkEnWrite (port : PortId) (link : LinkId) (v : BitVec 32)
  /-- POL_RAIL_WRITE (R439): A write of PWR_POLk enables or disables an unlinked rail through EN, and sends a changed SETPOINT to the rail at once. -/
  | polRailWrite (port : PortId) (k : Fin 16) (v : BitVec 32)
  /-- BW_FRAMES_WRITE (R458): A write of PMC_BW_CFG.FRAMES discards every bandwidth window in progress and restarts windows at the next multiple of the new N. -/
  | bwFramesWrite (port : PortId) (v : BitVec 32)
  /-- TELEMETRY_EN_WRITE (R461): A write of PMC_TEL_Tt.EN starts per-burst telemetry records, or when cleared discards the tree's record buffer. -/
  | telemetryEnWrite (port : PortId) (t : TreeId) (v : BitVec 32)
  /-- QUENCH_FROM_PARTNER (R396): A QUENCH passed over the fabric from the standby partner arrives and is applied on the transmitting device as if written there, and the standby's response is then written. -/
  | quenchFromPartner (t : TreeId) (body : List Byte)
  deriving DecidableEq, Repr

end Sys2Proof
end

