-- ==== Sys2Proof/Config.lean ====
section
/-! DEFINITION. What the spec leaves open and a device fixes: constants without a value. Nothing in Lean can evaluate
them, so that a statement about them holds for every value (log entries 2 and 6). -/

namespace Sys2Proof.Config

/-- The free values: the n-th value the complex produces where the spec does not say which (log entry 2). -/
opaque freeNat : Nat → Nat

/-- The chip serial, fixed at manufacture (R363, R380). -/
opaque serial : Nat
/-- The boot code's version (R340, R363). -/
opaque bootVer : Nat
/-- The key revocation bits fused (R357). -/
opaque revoked : Nat
/-- The four fused digests of public keys (R357). -/
opaque keyDigest : Nat → Nat

/-! What the rules leave to the profiles' standards and to the tree image (log entry 6); the first argument says F50. -/

/-- FS frame size of the F50 profile in bytes (R77). -/
opaque fsCapF50 : Nat
/-- HLend and FS trailer of the F50 profile in bytes (R77). -/
opaque fsHeadF50 : Nat
/-- Bytes of an XGEM header (R84). -/
opaque xgemHeader : Bool → Nat
/-- Bytes an XGEM payload takes once padded (R84). -/
opaque xgemPad : Bool → Nat → Nat
/-- Bytes of an FS burst header, a PLOAMu, a DBRu and an FS trailer (R159). -/
opaque burstHeader : Bool → Nat
opaque ploamuBytes : Bool → Nat
opaque dbruBytes : Bool → Nat
opaque fsTrailer : Bool → Nat
/-- Parity bytes the LDPC code of F50 adds, by rate code and bytes (R113). -/
opaque ldpcParity : Nat → Nat → Nat
/-- The 8 bytes of an allocation structure of the BWmap as a number (R169): Alloc-ID, StartTime, first of its burst,
bytes, flags, burst profile. -/
opaque grantWord : Bool → Nat → Nat → Bool → Nat → Nat → Nat → Nat
/-- Burst profile 0 as the tree image of a build carries it for a rate (R113): 0 FEC, 1 PRE_LEN, 2 PRE_REPEAT,
3 PRE_PATTERN, 4 DELIM_LEN, 5 DELIM_PATTERN. -/
opaque imageProfile : Bool → Nat → Nat → Nat
/-- An equalisation delay in 1/256 ns in the unit of the F50 ranging-time message (R131). -/
opaque rangeUnitsF50 : Int → Int
/-- The OMCC flow port of a terminal, the standards' own (R300). -/
opaque omccPort : Nat → Nat

/-! Cryptography by other standards' names: values the spec names but does not compute (log entry 6). -/

/-- AES key wrap of RFC 3394 (R398): a 128-bit key under a 128-bit key as 192 bits, and its unwrapping, none where the
integrity check fails. -/
opaque keyWrap : Nat → Nat → Nat
opaque keyUnwrap : Nat → Nat → Option Nat
/-- The key check value of a pair key (R393): the first 8 bytes of the AES-128 encryption of the all-zero block. -/
opaque keyCheck : Nat → Nat

/-- SHA-384 of bytes, and whether an ECDSA P-384 signature (97 key bytes, signed bytes, 96 signature bytes) is valid
(R357, FIPS 186-5). -/
opaque sha384 : List Byte → Nat
opaque ecdsaOk : List Byte → List Byte → List Byte → Bool

/-- The 256 bytes of a cell that a device of an address sends where the spec names the payload's content and not the place
of every byte of it (R375, R381 to R387, R393, log entry 66). -/
opaque cellImage : Nat → TxCell → List Byte

end Sys2Proof.Config
end

