-- ==== Sys2Proof/Machine/Bytes.lean ====
section
/-! DEFINITION. Bytes and codes: little-endian fields (R345), bit fields, two's complement, the CRC-32 of IEEE 802.3
(R169, R211, R375), the CRC-32C of RFC 3720 (R228) and the 36/32 symbol code over GF(2^8) (R248, R249). -/

namespace Sys2Proof.Machine

/-- Bits [lo+w-1 : lo] of a number. -/
def bits (x lo w : Nat) : Nat := (x >>> lo) % 2 ^ w

/-- One bit of a number. -/
def bit (x i : Nat) : Bool := bits x i 1 == 1

/-- A Boolean as a bit. -/
def b2n (b : Bool) : Nat := if b then 1 else 0

/-- Two's complement of width `w` read as an integer. -/
def toSigned (w x : Nat) : Int := if x % 2 ^ w < 2 ^ (w - 1) then (x % 2 ^ w : Nat) else (x % 2 ^ w : Nat) - (2 ^ w : Nat)

/-- An integer as a two's complement field of width `w`. -/
def ofSigned (w : Nat) (x : Int) : Nat := (x % (2 ^ w : Nat)).toNat

/-- An integer limited to the signed range of `w` bits. -/
def satSigned (w : Nat) (x : Int) : Int :=
  max (-(2 ^ (w - 1) : Nat)) (min ((2 ^ (w - 1) : Nat) - 1) x)

/-- A count that saturates at the largest value of `w` bits. -/
def satAdd (w x n : Nat) : Nat := min (2 ^ w - 1) (x + n)

/-- Quotient rounded up. -/
def ceilDiv (a b : Nat) : Nat := (a + b - 1) / b

/-- The byte at an offset, 0 past the end (R345). -/
def byteAt (p : List Byte) (i : Nat) : Nat := (p.getD i 0#8).toNat

/-- `n` bytes from an offset, 0 past the end. -/
def slice (p : List Byte) (i n : Nat) : List Byte := (List.range n).map (fun j => p.getD (i + j) 0#8)

/-- A little-endian field of `n` bytes at an offset. -/
def leAt (p : List Byte) (i : Nat) : Nat → Nat
  | 0 => 0
  | n + 1 => byteAt p i + 256 * leAt p (i + 1) n

/-- A big-endian field of `n` bytes at an offset. -/
def beAt (p : List Byte) (i n : Nat) : Nat := (slice p i n).foldl (fun a b => a * 256 + b.toNat) 0

/-- `n` bytes, least significant first. -/
def leBytes : Nat → Nat → List Byte
  | 0, _ => []
  | n + 1, v => BitVec.ofNat 8 v :: leBytes n (v / 256)

/-- Place bytes into a list at an offset (the list keeps its length). -/
def placeAt (p : List Byte) (i : Nat) (q : List Byte) : List Byte :=
  (p.zipIdx).map (fun (b, j) => if i ≤ j ∧ j < i + q.length then q.getD (j - i) 0#8 else b)

/-- Whether `n` bytes at an offset are all zero. -/
def zeroAt (p : List Byte) (i n : Nat) : Bool := (slice p i n).all (· == 0#8)

/-- The first offset of a range whose byte is not zero. -/
def firstNonzero (p : List Byte) (i : Nat) : Nat → Option Nat
  | 0 => none
  | n + 1 => if byteAt p i ≠ 0 then some i else firstNonzero p (i + 1) n

/-- `n` bytes of 0. -/
def zeros (n : Nat) : List Byte := List.replicate n 0#8

/-! ### CRCs -/

/-- One bit of a reflected CRC-32. -/
def crcBit (poly r : Nat) : Nat := if r % 2 = 1 then (r / 2) ^^^ poly else r / 2

/-- One byte of a reflected CRC-32. -/
def crcByte (poly r : Nat) (b : Byte) : Nat :=
  let x := r ^^^ b.toNat
  crcBit poly (crcBit poly (crcBit poly (crcBit poly (crcBit poly (crcBit poly (crcBit poly (crcBit poly x)))))))

/-- The CRC-32 of IEEE 802.3. -/
def crc32 (p : List Byte) : Nat := (p.foldl (crcByte 0xEDB88320) 0xFFFFFFFF) ^^^ 0xFFFFFFFF

/-- The CRC-32C of RFC 3720 (polynomial 0x1EDC_6F41, reflected, final complement) from an initial register value (R228). -/
def crc32c (init : Nat) (p : List Byte) : Nat := (p.foldl (crcByte 0x82F63B78) init) ^^^ 0xFFFFFFFF

/-! ### The 36/32 symbol code -/

/-- Multiplication by α in GF(2^8) with x^8 + x^4 + x^3 + x^2 + 1 (R248). -/
def gfDouble (a : Nat) : Nat := if a < 128 then 2 * a else (2 * a) ^^^ 0x11D

/-- Multiplication in GF(2^8), by the bits of the second factor. -/
def gfMulAux : Nat → Nat → Nat → Nat
  | 0, _, _ => 0
  | n + 1, a, b => (if b % 2 = 1 then a else 0) ^^^ gfMulAux n (gfDouble a) (b / 2)

/-- Multiplication in GF(2^8). -/
def gfMul (a b : Nat) : Nat := gfMulAux 8 a b

/-- α to a power. -/
def gfPow : Nat → Nat
  | 0 => 1
  | n + 1 => gfDouble (gfPow n)

/-- The syndrome S_k = c(α^k) of a code word given as its symbols, position 0 first (R249). -/
def syndrome (c : List Nat) (k : Nat) : Nat := c.reverse.foldl (fun acc x => gfMul acc (gfPow k) ^^^ x) 0

/-- What a read of a protection word finds (R249). -/
inductive WordCheck where
  | clean
  /-- a correctable error: the position and the value to add -/
  | correctable (pos val : Nat)
  | uncorrectable
  deriving DecidableEq, Repr

/-- The outcome of R249 for a word of 36 symbols, check symbols at positions 0 to 3. -/
def checkWord (c : List Nat) : WordCheck :=
  let s0 := syndrome c 0
  let s1 := syndrome c 1
  let s2 := syndrome c 2
  let s3 := syndrome c 3
  if s0 = 0 ∧ s1 = 0 ∧ s2 = 0 ∧ s3 = 0 then .clean
  else if s0 ≠ 0 ∧ s1 ≠ 0 ∧ s2 ≠ 0 ∧ s3 ≠ 0 then
    match (List.range 36).find? (fun p =>
      gfMul s0 (gfPow p) == s1 && gfMul s1 (gfPow p) == s2 && gfMul s2 (gfPow p) == s3) with
    | some p => .correctable p s0
    | none => .uncorrectable
  else .uncorrectable

/-- One step of the division by g(x): the four check symbols after one more data symbol (R248). -/
def rsStep (c : Nat × Nat × Nat × Nat) (d : Nat) : Nat × Nat × Nat × Nat :=
  let (c0, c1, c2, c3) := c
  let f := d ^^^ c3
  -- g(x) = (x - 1)(x - α)(x - α^2)(x - α^3) = x^4 + 15 x^3 + 54 x^2 + 120 x + 64
  (gfMul f 64, c0 ^^^ gfMul f 120, c1 ^^^ gfMul f 54, c2 ^^^ gfMul f 15)

/-- The check symbols c0 to c3 of 32 data symbols (R248). -/
def checkSymbols (d : List Nat) : List Nat :=
  let (c0, c1, c2, c3) := d.reverse.foldl rsStep (0, 0, 0, 0)
  [c0, c1, c2, c3]

/-- The code word of 32 data symbols: check symbols at positions 0 to 3, data symbol i at position i + 4. -/
def codeWord (d : List Nat) : List Nat := checkSymbols d ++ d

end Sys2Proof.Machine
end

