-- ==== Sys2Proof/Machine/RegTable.lean ====
section
/-! DEFINITION. The register window's registers and fields (00_scope.md R8, 01_boundary.md R30): every field of the
spec's register tables with its bits, access code and reset value, and where each register lies. A field is named
F.<register>.<field> as the manual names it; registers that repeat are one entry with an index (TB_x: 0 domain A,
1 domain B; TRE_: tree; DB_: ring; PE_: engine, with the counter number below it; PWR_Dd: domain; and so on). -/

namespace Sys2Proof.Machine

/-- Access codes of R8. -/
inductive Acc where
  | rw | ro | wo | w1c | w1s | rc
  deriving DecidableEq, Repr

/-- A register field: its number in the field store, its low bit and width in its register, its access code and its
reset value. -/
structure Fld where
  num : Nat
  lo : Nat
  w : Nat
  acc : Acc
  reset : Nat
  deriving DecidableEq, Repr

/-- The power domain that answers for a register (R32). -/
inductive RegDom where
  | island
  | fixed (d : Nat)
  | pair
  | engine
  | block
  deriving DecidableEq, Repr

/-- A register or an array of them: window offset of the first, bytes, counts and strides of up to two indices. -/
structure RegInfo where
  base : Nat
  bytes : Nat
  n1 : Nat
  s1 : Nat
  n2 : Nat
  s2 : Nat
  dom : RegDom
  flds : List Fld
  deriving DecidableEq, Repr

def F.TRE_OPTIC.RXRST_LEAD : Fld := ⟨0, 0, 8, .rw, 0x80⟩
def F.TRE_OPTIC.RXRST_WIDTH : Fld := ⟨1, 8, 6, .rw, 0x10⟩
def F.TRE_OPTIC.SD_POL : Fld := ⟨2, 14, 1, .rw, 0⟩
def F.TRE_OPTIC.RXRST_POL : Fld := ⟨3, 15, 1, .rw, 0⟩
def F.TRE_OPTIC.SD_LEVEL : Fld := ⟨4, 16, 1, .ro, 0⟩
def F.TRE_OPTIC.TXDIS_LEVEL : Fld := ⟨5, 17, 1, .ro, 1⟩
def F.TRE_OPTIC.RXRST_SKIP : Fld := ⟨6, 24, 8, .rc, 0⟩
def F.TRE_MOD_CMD.OFFSET : Fld := ⟨7, 0, 8, .rw, 0⟩
def F.TRE_MOD_CMD.DEVADDR : Fld := ⟨8, 8, 7, .rw, 0x50⟩
def F.TRE_MOD_CMD.WRITE : Fld := ⟨9, 15, 1, .rw, 0⟩
def F.TRE_MOD_CMD.COUNT : Fld := ⟨10, 16, 2, .rw, 0⟩
def F.TRE_MOD_CMD.FAST : Fld := ⟨11, 18, 1, .rw, 1⟩
def F.TRE_MOD_CMD.START : Fld := ⟨12, 29, 1, .wo, 0⟩
def F.TRE_MOD_CMD.BUSY : Fld := ⟨13, 30, 1, .ro, 0⟩
def F.TRE_MOD_CMD.ERR : Fld := ⟨14, 31, 1, .ro, 0⟩
def F.TRE_MOD_DATA.DATA : Fld := ⟨15, 0, 32, .rw, 0⟩
def F.GLB_ID.PART : Fld := ⟨16, 16, 16, .ro, 0x4b60⟩
def F.GLB_ID.STEP : Fld := ⟨17, 8, 8, .ro, 0x10⟩
def F.GLB_STATUS.ISLAND_OK : Fld := ⟨18, 0, 1, .ro, 1⟩
def F.GLB_STATUS.MBX_READY : Fld := ⟨19, 1, 1, .ro, 0⟩
def F.GLB_STATUS.RESTRICTED : Fld := ⟨20, 2, 1, .ro, 1⟩
def F.GLB_STATUS.UNTESTED : Fld := ⟨21, 3, 1, .ro, 0⟩
def F.GLB_STATUS.STRAY : Fld := ⟨22, 4, 1, .w1c, 0⟩
def F.GLB_STATUS.BADACC : Fld := ⟨23, 5, 1, .w1c, 0⟩
def F.GLB_STATUS.DOMACC : Fld := ⟨24, 6, 1, .w1c, 0⟩
def F.GLB_STATUS.DBGLOCKED : Fld := ⟨25, 7, 1, .ro, 0⟩
def F.GLB_STATUS.SITE_OK : Fld := ⟨26, 8, 4, .ro, 0⟩
def F.GLB_CTL.RESET_KEY : Fld := ⟨27, 0, 8, .wo, 0⟩
def F.GLB_CTL.SOFT_RESET : Fld := ⟨28, 8, 1, .wo, 0⟩
def F.GLB_CTL.TXDIS_ALL : Fld := ⟨29, 16, 1, .rw, 0⟩
def F.GLB_STRAP.BUS : Fld := ⟨30, 0, 2, .ro, 0⟩
def F.GLB_STRAP.DBGLOCK : Fld := ⟨31, 2, 1, .ro, 0⟩
def F.GLB_RST_CAUSE.COLD : Fld := ⟨32, 0, 1, .w1c, 1⟩
def F.GLB_RST_CAUSE.AON_PIN : Fld := ⟨33, 1, 1, .w1c, 0⟩
def F.GLB_RST_CAUSE.COMPLEX : Fld := ⟨34, 2, 1, .w1c, 0⟩
def F.GLB_RST_CAUSE.SOFT : Fld := ⟨35, 3, 1, .w1c, 0⟩
def F.GLB_WIN_ERR.OFFSET : Fld := ⟨36, 0, 26, .ro, 0⟩
def F.GLB_WIN_ERR.KIND : Fld := ⟨37, 26, 2, .ro, 0⟩
def F.GLB_WIN_ERR.PORT : Fld := ⟨38, 28, 1, .ro, 0⟩
def F.GLB_WIN_ERR.VALID : Fld := ⟨39, 31, 1, .w1c, 0⟩
def F.GLB_MM_CFG.SWADDR : Fld := ⟨40, 0, 7, .rw, 0x70⟩
def F.GLB_MM_CFG.STRETCH_MAX : Fld := ⟨41, 8, 8, .rw, 0x19⟩
def F.TB_CTC.NS : Fld := ⟨42, 0, 64, .ro, 0⟩
def F.TB_STEP.NS : Fld := ⟨43, 32, 32, .ro, 0⟩
def F.TB_STEP.FRAC : Fld := ⟨44, 0, 32, .ro, 0xcccccccd⟩
def F.TB_CLK.CODE : Fld := ⟨45, 0, 2, .ro, 0⟩
def F.TB_STATUS.SEL : Fld := ⟨46, 0, 1, .ro, 0⟩
def F.TB_STATUS.A_VALID : Fld := ⟨47, 1, 1, .ro, 0⟩
def F.TB_STATUS.B_VALID : Fld := ⟨48, 2, 1, .ro, 0⟩
def F.TB_STATUS.A_HOLDOVER : Fld := ⟨49, 3, 1, .w1c, 0⟩
def F.TB_STATUS.B_HOLDOVER : Fld := ⟨50, 4, 1, .w1c, 0⟩
def F.TB_STATUS.FREQ_HOLDOVER : Fld := ⟨51, 5, 1, .ro, 0⟩
def F.TB_STATUS.A_PPS : Fld := ⟨52, 6, 1, .w1c, 0⟩
def F.TB_STATUS.B_PPS : Fld := ⟨53, 7, 1, .w1c, 0⟩
def F.TB_EPOCH.COUNT : Fld := ⟨54, 0, 32, .ro, 0⟩
def F.TB_PPS_OUT.OFFSET : Fld := ⟨55, 0, 32, .rw, 0⟩
def F.TB_LEDGER.TICKS : Fld := ⟨56, 0, 64, .ro, 0⟩
def F.TB_LEDGER_RATIO.RATIO : Fld := ⟨57, 0, 64, .ro, 0x2800000000⟩
def F.TB_LAST_SLEEP.TICKS : Fld := ⟨58, 0, 64, .ro, 0⟩
def F.TB_LAUNCH.LATE_TOL : Fld := ⟨59, 0, 16, .rw, 0x3e8⟩
def F.TB_LAUNCH.HORIZON : Fld := ⟨60, 16, 11, .rw, 0x400⟩
def F.TB_LAUNCH.LATE_POLICY : Fld := ⟨61, 27, 1, .rw, 0⟩
def F.TB_x_TIME.NS : Fld := ⟨62, 0, 64, .ro, 0⟩
def F.TB_x_FRAC.FRAC : Fld := ⟨63, 0, 16, .ro, 0⟩
def F.TB_x_NS32.NS : Fld := ⟨64, 0, 32, .ro, 0⟩
def F.TB_x_SET.NS : Fld := ⟨65, 0, 64, .wo, 0⟩
def F.TB_x_ADJ.NS : Fld := ⟨66, 16, 48, .wo, 0⟩
def F.TB_x_ADJ.FRAC : Fld := ⟨67, 0, 16, .wo, 0⟩
def F.TB_x_RATE.RATE : Fld := ⟨68, 0, 32, .rw, 0⟩
def F.TB_x_PPS_TIME.NS : Fld := ⟨69, 0, 64, .ro, 0⟩
def F.TB_x_PPS_CTC.NS : Fld := ⟨70, 0, 64, .ro, 0⟩
def F.TB_x_PPS_CNT.COUNT : Fld := ⟨71, 0, 32, .ro, 0⟩
def F.TIDE_ORIGIN.NS : Fld := ⟨72, 0, 64, .rw, 0⟩
def F.TIDE_NOW_F.F : Fld := ⟨73, 0, 51, .ro, 0⟩
def F.TIDE_NOW_P.P : Fld := ⟨74, 0, 25, .ro, 0⟩
def F.TIDE_DIFF.DIFF : Fld := ⟨75, 0, 32, .ro, 0⟩
def F.TIDE_CTL.SRC : Fld := ⟨76, 0, 1, .rw, 0⟩
def F.TIDE_CTL.PEER : Fld := ⟨77, 1, 7, .rw, 0⟩
def F.TIDE_CTL.FAR_LIMIT : Fld := ⟨78, 16, 16, .rw, 0x3e8⟩
def F.TIDE_STATUS.SLEWING : Fld := ⟨79, 0, 1, .ro, 0⟩
def F.TIDE_STATUS.FAR : Fld := ⟨80, 1, 1, .w1c, 0⟩
def F.TIDE_STATUS.JUMPED : Fld := ⟨81, 2, 1, .w1c, 0⟩
def F.TIDE_STATUS.ORIGIN_REFUSED : Fld := ⟨82, 3, 1, .w1c, 0⟩
def F.TIDE_STATUS.RATE_CLAMP : Fld := ⟨83, 4, 1, .ro, 0⟩
def F.TIDE_STATUS.PEER_LOST : Fld := ⟨84, 5, 1, .w1c, 0⟩
def F.TIDE_TODn_F.F : Fld := ⟨85, 0, 51, .rw, 0⟩
def F.TIDE_TODn_CTL.TREE : Fld := ⟨86, 0, 7, .rw, 0⟩
def F.TIDE_TODn_CTL.ARM : Fld := ⟨87, 8, 1, .wo, 0⟩
def F.TIDE_TODn_CTL.STATE : Fld := ⟨88, 9, 2, .ro, 0⟩
def F.TIDE_TODn_CTL.DOM : Fld := ⟨89, 11, 1, .ro, 0⟩
def F.TIDE_TODn_CTL.EPOCH : Fld := ⟨90, 12, 4, .ro, 0⟩
def F.TIDE_TODn_TIME.NS : Fld := ⟨91, 0, 64, .ro, 0⟩
def F.TIDE_TODn_FRAC.FRAC : Fld := ⟨92, 0, 16, .ro, 0⟩
def F.TRE_STATE.STATE : Fld := ⟨93, 0, 3, .ro, 0⟩
def F.TRE_STATE.FAULT_CAUSE : Fld := ⟨94, 4, 4, .ro, 0⟩
def F.TRE_STATE.CONFIGURED : Fld := ⟨95, 8, 1, .ro, 0⟩
def F.TRE_STATE.PROFILE : Fld := ⟨96, 9, 1, .ro, 0⟩
def F.TRE_STATE.OPER_TERMS : Fld := ⟨97, 16, 10, .ro, 0⟩
def F.TRE_CFG.MAX_FRAME : Fld := ⟨98, 0, 14, .ro, 0x2580⟩
def F.TRE_CFG.PLOAM_MAX : Fld := ⟨99, 16, 5, .ro, 4⟩
def F.TRE_CFG.WARM_FRAMES : Fld := ⟨100, 24, 4, .ro, 1⟩
def F.TRE_PON_ID.PON_ID : Fld := ⟨101, 0, 32, .ro, 0⟩
def F.TRE_DS_CAP.BYTES : Fld := ⟨102, 0, 20, .ro, 0⟩
def F.TRE_DS_FRAME.F : Fld := ⟨103, 0, 51, .ro, 0⟩
def F.TRE_DS_CTL.QUANTUM : Fld := ⟨104, 0, 8, .rw, 0x18⟩
def F.TRE_BCAST_SLOT.SLOT : Fld := ⟨105, 0, 17, .ro, 0⟩
def F.TRE_BCAST_SLOT.VALID : Fld := ⟨106, 31, 1, .ro, 0⟩
def F.TRE_PLOAM_Q.NORMAL : Fld := ⟨107, 0, 6, .ro, 0⟩
def F.TRE_PLOAM_Q.URGENT : Fld := ⟨108, 8, 5, .ro, 0⟩
def F.TRE_EVENT.STATE_CHANGE : Fld := ⟨109, 0, 1, .w1c, 0⟩
def F.TRE_EVENT.FAULT : Fld := ⟨110, 1, 1, .w1c, 0⟩
def F.TRE_EVENT.MAP_HOLD : Fld := ⟨111, 2, 1, .w1c, 0⟩
def F.TRE_EVENT.MAP_EMPTY : Fld := ⟨112, 3, 1, .w1c, 0⟩
def F.TRE_EVENT.KEY_ERASED : Fld := ⟨113, 4, 1, .w1c, 0⟩
def F.TRE_EVENT.DORMANT : Fld := ⟨114, 5, 1, .w1c, 0⟩
def F.TRE_EVENT.WAKE : Fld := ⟨115, 6, 1, .w1c, 0⟩
def F.TRE_EVENT_EN.EN : Fld := ⟨116, 0, 7, .rw, 0⟩
def F.TRE_DS_RUNT.COUNT : Fld := ⟨117, 0, 32, .rc, 0⟩
def F.TRE_DS_OVERSIZE.COUNT : Fld := ⟨118, 0, 32, .rc, 0⟩
def F.TRE_DS_KEYDROP.COUNT : Fld := ⟨119, 0, 32, .rc, 0⟩
def F.TRE_DS_NOTERM.COUNT : Fld := ⟨120, 0, 32, .rc, 0⟩
def F.TRE_DS_HOLDMAP.COUNT : Fld := ⟨121, 0, 32, .rc, 0⟩
def F.TRE_DS_ABORT.COUNT : Fld := ⟨122, 0, 32, .rc, 0⟩
def F.TRE_US_CTL.FCS_PASS : Fld := ⟨123, 0, 1, .rw, 0⟩
def F.TRE_US_CTL.ROGUE_POLICY : Fld := ⟨124, 1, 2, .rw, 0⟩
def F.TRE_US_CTL.REASM_TIMEOUT : Fld := ⟨125, 4, 4, .rw, 8⟩
def F.TRE_US_CTL.LOB_FRAMES : Fld := ⟨126, 8, 4, .rw, 4⟩
def F.TRE_US_CTL.RANGE_TRIES : Fld := ⟨127, 12, 4, .rw, 3⟩
def F.TRE_US_CTL.RETIRE_HOLD : Fld := ⟨128, 16, 8, .rw, 0x10⟩
def F.TRE_US_REACH.MIN_KM : Fld := ⟨129, 0, 5, .rw, 0⟩
def F.TRE_US_REACH.DIFF_KM : Fld := ⟨130, 8, 6, .rw, 0x14⟩
def F.TRE_US_TEQD.NS : Fld := ⟨131, 0, 20, .ro, 0x3a980⟩
def F.TRE_US_ROGUE.MIN_NS : Fld := ⟨132, 0, 16, .rw, 0x64⟩
def F.TRE_US_ROGUE.FRAMES : Fld := ⟨133, 16, 8, .rw, 3⟩
def F.TRE_US_ROGUE.TOL_NS : Fld := ⟨134, 24, 8, .rw, 0x10⟩
def F.TRE_US_LOST.LIMIT : Fld := ⟨135, 0, 16, .rw, 0x320⟩
def F.TRE_US_DRIFT.ADJ_NS : Fld := ⟨136, 0, 8, .rw, 4⟩
def F.TRE_US_DRIFT.MAX_NS : Fld := ⟨137, 8, 8, .rw, 0x40⟩
def F.TRE_US_EVENT.SN_NEW : Fld := ⟨138, 0, 1, .w1c, 0⟩
def F.TRE_US_EVENT.SN_OVERFLOW : Fld := ⟨139, 1, 1, .w1c, 0⟩
def F.TRE_US_EVENT.TERM_STATE : Fld := ⟨140, 2, 1, .w1c, 0⟩
def F.TRE_US_EVENT.RANGE_FAIL : Fld := ⟨141, 3, 1, .w1c, 0⟩
def F.TRE_US_EVENT.REG_FAIL : Fld := ⟨142, 4, 1, .w1c, 0⟩
def F.TRE_US_EVENT.TERM_LOST : Fld := ⟨143, 5, 1, .w1c, 0⟩
def F.TRE_US_EVENT.DRIFT : Fld := ⟨144, 6, 1, .w1c, 0⟩
def F.TRE_US_EVENT.ROGUE : Fld := ⟨145, 7, 1, .w1c, 0⟩
def F.TRE_US_EVENT.ROGUE_QUENCH : Fld := ⟨146, 8, 1, .w1c, 0⟩
def F.TRE_US_EVENT.SN_DUP : Fld := ⟨147, 9, 1, .w1c, 0⟩
def F.TRE_US_EVENT_EN.EN : Fld := ⟨148, 0, 10, .rw, 0⟩
def F.TRE_US_SN.SERIAL : Fld := ⟨149, 0, 64, .ro, 0⟩
def F.TRE_US_SN_INFO.RATES : Fld := ⟨150, 0, 3, .ro, 0⟩
def F.TRE_US_SN_INFO.COUNT : Fld := ⟨151, 4, 5, .ro, 0⟩
def F.TRE_US_SN_INFO.OVERFLOW : Fld := ⟨152, 9, 1, .w1c, 0⟩
def F.TRE_US_SN_INFO.POP : Fld := ⟨153, 31, 1, .wo, 0⟩
def F.TRE_US_RUNT.COUNT : Fld := ⟨154, 0, 32, .rc, 0⟩
def F.TRE_US_OVERSIZE.COUNT : Fld := ⟨155, 0, 32, .rc, 0⟩
def F.TRE_US_FCS_ERR.COUNT : Fld := ⟨156, 0, 32, .rc, 0⟩
def F.TRE_US_HEC_LOSS.COUNT : Fld := ⟨157, 0, 32, .rc, 0⟩
def F.TRE_US_REASM_ABORT.COUNT : Fld := ⟨158, 0, 32, .rc, 0⟩
def F.TRE_US_KEYMISS.COUNT : Fld := ⟨159, 0, 32, .rc, 0⟩
def F.TRE_US_KEYLOST.COUNT : Fld := ⟨160, 0, 32, .rc, 0⟩
def F.TRE_US_MIC_FAIL.COUNT : Fld := ⟨161, 0, 32, .rc, 0⟩
def F.TRE_US_BURST_MISS.COUNT : Fld := ⟨162, 0, 32, .rc, 0⟩
def F.TRE_US_ROGUE_CNT.COUNT : Fld := ⟨163, 0, 32, .rc, 0⟩
def F.TRE_US_SN_DUP.COUNT : Fld := ⟨164, 0, 32, .rc, 0⟩
def F.TRE_US_REPORT_BAD.COUNT : Fld := ⟨165, 0, 32, .rc, 0⟩
def F.TRE_US_NOCELL.COUNT : Fld := ⟨166, 0, 32, .rc, 0⟩
def F.TRE_US_FRAME.F : Fld := ⟨167, 0, 51, .ro, 0⟩
def F.SLU_STATUS.A_STATE : Fld := ⟨168, 0, 3, .ro, 4⟩
def F.SLU_STATUS.B_STATE : Fld := ⟨169, 4, 3, .ro, 4⟩
def F.SLU_STATUS.ACTIVE : Fld := ⟨170, 8, 1, .ro, 0⟩
def F.SLU_STATUS.NONE : Fld := ⟨171, 9, 1, .ro, 1⟩
def F.SLU_STATUS.MISMATCH_RUN : Fld := ⟨172, 16, 8, .ro, 0⟩
def F.SLU_STATUS.CLEAN : Fld := ⟨173, 24, 7, .ro, 0⟩
def F.SLU_CTL.SWAP : Fld := ⟨174, 0, 1, .wo, 0⟩
def F.SLU_CTL.RETEST : Fld := ⟨175, 1, 1, .wo, 0⟩
def F.SLU_CTL.RETEST_MS : Fld := ⟨176, 16, 16, .rw, 0x3e8⟩
def F.SLU_EVENT.SWITCHOVER : Fld := ⟨177, 0, 1, .w1c, 0⟩
def F.SLU_EVENT.MISMATCH : Fld := ⟨178, 1, 1, .w1c, 0⟩
def F.SLU_EVENT.UNIT_FAILED : Fld := ⟨179, 2, 1, .w1c, 0⟩
def F.SLU_EVENT.HOT : Fld := ⟨180, 3, 1, .w1c, 0⟩
def F.SLU_EVENT.NO_SCHEDULER : Fld := ⟨181, 4, 1, .w1c, 0⟩
def F.SLU_EVENT.SELFCHECK_FAIL : Fld := ⟨182, 5, 1, .w1c, 0⟩
def F.SLU_EVENT.GRANT_LIMIT : Fld := ⟨183, 6, 1, .w1c, 0⟩
def F.SLU_EVENT.FC_DROP : Fld := ⟨184, 7, 1, .w1c, 0⟩
def F.SLU_EVENT.SWAP_REFUSED : Fld := ⟨185, 8, 1, .w1c, 0⟩
def F.SLU_EVENT.UNCHECKED : Fld := ⟨186, 9, 1, .w1c, 0⟩
def F.SLU_EVENT_EN.EN : Fld := ⟨187, 0, 10, .rw, 0⟩
def F.SLU_MISMATCH.COUNT : Fld := ⟨188, 0, 32, .rc, 0⟩
def F.SLU_UNCHECKED.COUNT : Fld := ⟨189, 0, 32, .rc, 0⟩
def F.SLU_FC_CFG.HORIZON : Fld := ⟨190, 0, 11, .rw, 0x400⟩
def F.SLU_FC_CFG.CAP : Fld := ⟨191, 16, 8, .rw, 0x80⟩
def F.SLU_FC_USED.ENTRIES : Fld := ⟨192, 0, 17, .ro, 0⟩
def F.SLU_FC_DROP.COUNT : Fld := ⟨193, 0, 32, .rc, 0⟩
def F.SLU_FAIL_CAUSE.A_CAUSE : Fld := ⟨194, 0, 4, .ro, 0⟩
def F.SLU_FAIL_CAUSE.B_CAUSE : Fld := ⟨195, 4, 4, .ro, 0⟩
def F.SLU_TREE_CTL.GUARD_NS : Fld := ⟨196, 0, 8, .rw, 0x40⟩
def F.SLU_TREE_CTL.POLL : Fld := ⟨197, 8, 8, .rw, 8⟩
def F.SLU_TREE_CTL.DISC_PERIOD : Fld := ⟨198, 16, 16, .rw, 0x1f40⟩
def F.SLU_TREE_MAP.GRANTS : Fld := ⟨199, 0, 10, .ro, 0⟩
def F.SLU_TREE_MAP.IDLE_UNITS : Fld := ⟨200, 16, 16, .ro, 0⟩
def F.SLU_TREE_CRC.CRC : Fld := ⟨201, 0, 32, .ro, 0⟩
def F.SLU_TREE_OVER.COUNT : Fld := ⟨202, 0, 32, .rc, 0⟩
def F.SLU_TREE_COMMIT.PERMILLE : Fld := ⟨203, 0, 10, .ro, 0⟩
def F.SLU_TREE_QUIET.OPEN : Fld := ⟨204, 0, 1, .ro, 0⟩
def F.SLU_TREE_QUIET.KIND : Fld := ⟨205, 1, 1, .ro, 0⟩
def F.SLU_TREE_QUIET.RANGE_Q : Fld := ⟨206, 4, 5, .ro, 0⟩
def F.PE_STATUS.STATE : Fld := ⟨207, 0, 3, .ro, 1⟩
def F.PE_STATUS.CS_VALID : Fld := ⟨208, 3, 1, .ro, 0⟩
def F.PE_STATUS.TAIL : Fld := ⟨209, 4, 1, .ro, 0⟩
def F.PE_STATUS.PROTECTED : Fld := ⟨210, 5, 1, .ro, 0⟩
def F.PE_STATUS.LINE : Fld := ⟨211, 6, 6, .ro, 0⟩
def F.PE_STATUS.BUSY : Fld := ⟨212, 12, 1, .ro, 0⟩
def F.PE_STATUS.UADDR : Fld := ⟨213, 16, 13, .ro, 0⟩
def F.PE_CTL.RESTART_MAX : Fld := ⟨214, 0, 4, .rw, 3⟩
def F.PE_FAULT.CAUSE : Fld := ⟨215, 0, 4, .ro, 0⟩
def F.PE_FAULT.UADDR : Fld := ⟨216, 16, 13, .ro, 0⟩
def F.PE_FAULT.VALID : Fld := ⟨217, 31, 1, .w1c, 0⟩
def F.PE_EVENT.FAULT : Fld := ⟨218, 0, 1, .w1c, 0⟩
def F.PE_EVENT.EVT_LOST : Fld := ⟨219, 1, 1, .w1c, 0⟩
def F.PE_EVENT.CS_CORR : Fld := ⟨220, 2, 1, .w1c, 0⟩
def F.PE_EVENT.WM_CORR : Fld := ⟨221, 3, 1, .w1c, 0⟩
def F.PE_EVENT_EN.EN : Fld := ⟨222, 0, 4, .rw, 0⟩
def F.PE_CS_CORR.COUNT : Fld := ⟨223, 0, 32, .rc, 0⟩
def F.PE_WM_CORR.COUNT : Fld := ⟨224, 0, 32, .rc, 0⟩
def F.PE_ABANDON.COUNT : Fld := ⟨225, 0, 32, .rc, 0⟩
def F.PE_RESTART.COUNT : Fld := ⟨226, 0, 32, .rc, 0⟩
def F.PE_EVT_LOST.COUNT : Fld := ⟨227, 0, 32, .rc, 0⟩
def F.PE_MAX_WAIT.CYCLES : Fld := ⟨228, 0, 16, .rc, 0⟩
def F.PE_SAMPLE_PTR.NEXT : Fld := ⟨229, 0, 8, .ro, 0⟩
def F.PE_SAMPLE_PTR.WRAPPED : Fld := ⟨230, 8, 1, .w1c, 0⟩
def F.PE_LINE_PEND.PEND : Fld := ⟨231, 0, 64, .ro, 0⟩
def F.PE_LINE_EN.EN : Fld := ⟨232, 0, 64, .ro, 0⟩
def F.PE_BUILD0.ID : Fld := ⟨233, 0, 64, .ro, 0⟩
def F.PE_BUILD1.ID : Fld := ⟨234, 0, 64, .ro, 0⟩
def F.PE_DQ.COUNT : Fld := ⟨235, 0, 5, .ro, 0⟩
def F.DB_TAIL.TAIL : Fld := ⟨236, 0, 16, .wo, 0⟩
def F.DB_HEAD.HEAD : Fld := ⟨237, 0, 16, .ro, 0⟩
def F.DB_HEAD.TAIL : Fld := ⟨238, 16, 16, .ro, 0⟩
def F.DB_STATUS.STATE : Fld := ⟨239, 0, 3, .ro, 0⟩
def F.DB_STATUS.IDLE : Fld := ⟨240, 3, 1, .ro, 0⟩
def F.DB_STATUS.ERR_CAUSE : Fld := ⟨241, 4, 4, .ro, 0⟩
def F.DB_STATUS.HOLDING : Fld := ⟨242, 8, 1, .ro, 0⟩
def F.DB_NO_DESC.COUNT : Fld := ⟨243, 0, 32, .ro, 0⟩
def F.DB_NO_FIT.COUNT : Fld := ⟨244, 0, 32, .ro, 0⟩
def F.DB_PARTIAL.COUNT : Fld := ⟨245, 0, 32, .ro, 0⟩
def F.DB_NOCELL.COUNT : Fld := ⟨246, 0, 32, .ro, 0⟩
def F.DB_DISABLE_DROP.COUNT : Fld := ⟨247, 0, 32, .ro, 0⟩
def F.DB_EARLY.COUNT : Fld := ⟨248, 0, 32, .ro, 0⟩
def F.DB_DONE.COUNT : Fld := ⟨249, 0, 32, .ro, 0⟩
def F.IRQ_STATUS.DB_STRAY : Fld := ⟨250, 0, 1, .w1c, 0⟩
def F.IRQ_STATUS.EQ_OVERFLOW : Fld := ⟨251, 1, 1, .ro, 0⟩
def F.IRQ_STATUS.RING_ERROR : Fld := ⟨252, 2, 1, .w1c, 0⟩
def F.IRQ_RING_DROP.COUNT : Fld := ⟨253, 0, 32, .rc, 0⟩
def F.IRQ_SRC_MAP.VECTOR : Fld := ⟨254, 0, 11, .rw, 0⟩
def F.IRQ_SRC_MAP.EN : Fld := ⟨255, 15, 1, .rw, 0⟩
def F.IRQ_SRC_PEND.PEND : Fld := ⟨256, 0, 32, .ro, 0⟩
def F.IRQ_EQ_HEAD.HEAD : Fld := ⟨257, 0, 16, .rw, 0⟩
def F.IRQ_EQ_TAIL.TAIL : Fld := ⟨258, 0, 16, .ro, 0⟩
def F.IRQ_EQ_TAIL.PHASE : Fld := ⟨259, 16, 1, .ro, 1⟩
def F.IRQ_EQ_STATUS.OVERFLOW : Fld := ⟨260, 0, 1, .w1c, 0⟩
def F.IRQ_EQ_STATUS.CREATED : Fld := ⟨261, 1, 1, .ro, 0⟩
def F.IRQ_RING_SUMMARY.RINGS : Fld := ⟨262, 0, 32, .w1c, 0⟩
def F.IRQ_VEC_CFG.CNT : Fld := ⟨263, 0, 8, .rw, 1⟩
def F.IRQ_VEC_CFG.TMR : Fld := ⟨264, 8, 16, .rw, 0⟩
def F.IRQ_VEC_CFG.MASK : Fld := ⟨265, 24, 1, .rw, 1⟩
def F.IRQ_VEC_CFG.AUTOMASK : Fld := ⟨266, 25, 1, .rw, 0⟩
def F.IRQ_VEC_CFG.WAKE : Fld := ⟨267, 26, 1, .rw, 0⟩
def F.IRQ_VEC_STATE.EVENTS : Fld := ⟨268, 0, 8, .ro, 0⟩
def F.IRQ_VEC_STATE.PEND : Fld := ⟨269, 8, 1, .w1c, 0⟩
def F.IRQ_VEC_STATE.TIMING : Fld := ⟨270, 9, 1, .ro, 0⟩
def F.DMA_CHn_CTL.PRIO : Fld := ⟨271, 0, 2, .rw, 0⟩
def F.DMA_CHn_CTL.PORT : Fld := ⟨272, 2, 1, .rw, 0⟩
def F.DMA_CHn_CTL.CHAIN : Fld := ⟨273, 3, 1, .rw, 0⟩
def F.DMA_CHn_CTL.AT : Fld := ⟨274, 4, 1, .rw, 0⟩
def F.DMA_CHn_CTL.REQ : Fld := ⟨275, 8, 8, .rw, 0⟩
def F.DMA_CHn_CTL.RATE : Fld := ⟨276, 16, 8, .rw, 0⟩
def F.DMA_CHn_CTL.START : Fld := ⟨277, 28, 1, .wo, 0⟩
def F.DMA_CHn_CTL.RESUME : Fld := ⟨278, 29, 1, .wo, 0⟩
def F.DMA_CHn_CTL.FENCE : Fld := ⟨279, 30, 1, .wo, 0⟩
def F.DMA_CHn_CTL.DISABLE : Fld := ⟨280, 31, 1, .wo, 0⟩
def F.DMA_CHn_STATUS.STATE : Fld := ⟨281, 0, 3, .ro, 0⟩
def F.DMA_CHn_STATUS.OWNED : Fld := ⟨282, 3, 1, .ro, 0⟩
def F.DMA_CHn_STATUS.CFG_ERR : Fld := ⟨283, 4, 4, .ro, 0⟩
def F.DMA_CHn_STATUS.ERR_CAUSE : Fld := ⟨284, 8, 4, .ro, 0⟩
def F.DMA_CHn_STATUS.LATE : Fld := ⟨285, 12, 1, .ro, 0⟩
def F.DMA_CHn_STATUS.RETRIES : Fld := ⟨286, 16, 8, .ro, 0⟩
def F.DMA_CHn_EVENT.DONE : Fld := ⟨287, 0, 1, .w1c, 0⟩
def F.DMA_CHn_EVENT.DESC : Fld := ⟨288, 1, 1, .w1c, 0⟩
def F.DMA_CHn_EVENT.FENCED : Fld := ⟨289, 2, 1, .w1c, 0⟩
def F.DMA_CHn_EVENT.HALTED : Fld := ⟨290, 3, 1, .w1c, 0⟩
def F.DMA_CHn_EVENT.START_REFUSED : Fld := ⟨291, 4, 1, .w1c, 0⟩
def F.DMA_CHn_EVENT_EN.EN : Fld := ⟨292, 0, 5, .rw, 0⟩
def F.DMA_CHn_REMAIN.BYTES : Fld := ⟨293, 0, 64, .ro, 0⟩
def F.DMA_CHn_IDX.IDX : Fld := ⟨294, 0, 48, .ro, 0⟩
def F.DMA_CHn_START_AT.TUPLE : Fld := ⟨295, 0, 64, .rw, 0⟩
def F.DMA_CHn_FIRST.ADDR : Fld := ⟨296, 0, 64, .rw, 0⟩
def F.DMA_CHn_TAIL.ADDR : Fld := ⟨297, 0, 64, .ro, 0⟩
def F.DMA_CHn_ERR_ADDR.ADDR : Fld := ⟨298, 0, 64, .ro, 0⟩
def F.DMA_CHn_KICK.KICK : Fld := ⟨299, 0, 32, .wo, 0⟩
def F.DMA_CHn_KICK_IGN.COUNT : Fld := ⟨300, 0, 32, .rc, 0⟩
def F.DMA_CHn_BYTES.BYTES : Fld := ⟨301, 0, 64, .ro, 0⟩
def F.DMA_CHn_DESCS.COUNT : Fld := ⟨302, 0, 32, .ro, 0⟩
def F.DMA_RETRY.COUNT : Fld := ⟨303, 0, 4, .rw, 3⟩
def F.DMA_GLB_CFG.RING_SHARE : Fld := ⟨304, 0, 8, .rw, 0x80⟩
def F.DMA_GLB_CFG.FENCE_TMO : Fld := ⟨305, 16, 16, .rw, 0x64⟩
def F.DMA_BUSY.CH : Fld := ⟨306, 0, 64, .ro, 0⟩
def F.MBX_n_REQ.DATA : Fld := ⟨307, 0, 32, .rw, 0⟩
def F.MBX_n_RSP.DATA : Fld := ⟨308, 0, 32, .ro, 0⟩
def F.MBX_n_CTL.GO : Fld := ⟨309, 0, 1, .wo, 0⟩
def F.MBX_n_STATUS.BUSY : Fld := ⟨310, 0, 1, .ro, 0⟩
def F.MBX_n_STATUS.DONE : Fld := ⟨311, 1, 1, .w1c, 0⟩
def F.MBX_n_STATUS.REJECTED : Fld := ⟨312, 2, 1, .w1c, 0⟩
def F.MBX_n_STATUS.REPLAYED : Fld := ⟨313, 3, 1, .ro, 0⟩
def F.MBX_DEVSTATE.STATE : Fld := ⟨314, 0, 3, .ro, 0⟩
def F.MBX_DEVSTATE.UNTESTED_HELD : Fld := ⟨315, 3, 1, .ro, 0⟩
def F.MBX_DEVSTATE.RESTARTS : Fld := ⟨316, 8, 8, .ro, 0⟩
def F.MBX_DEVSTATE.BOOT_VER : Fld := ⟨317, 16, 16, .ro, 0⟩
def F.MBX_EVENT.DONE : Fld := ⟨318, 0, 16, .w1c, 0⟩
def F.MBX_EVENT.STATE : Fld := ⟨319, 16, 1, .w1c, 0⟩
def F.MBX_EVENT.UNTESTED : Fld := ⟨320, 17, 1, .w1c, 0⟩
def F.MBX_EVENT.CP_RESTART : Fld := ⟨321, 18, 1, .w1c, 0⟩
def F.MBX_EVENT_EN.EN : Fld := ⟨322, 0, 19, .rw, 0⟩
def F.FAB_CFG.ADDR_PREF : Fld := ⟨323, 0, 7, .rw, 0x7f⟩
def F.FAB_CFG.KEEPER_EN : Fld := ⟨324, 7, 1, .rw, 0⟩
def F.FAB_CFG.REMOTE_RD_EN : Fld := ⟨325, 8, 1, .rw, 1⟩
def F.FAB_CFG.REMOTE_WR_EN : Fld := ⟨326, 9, 1, .rw, 0⟩
def F.FAB_CFG.VOTERS : Fld := ⟨327, 16, 7, .rw, 1⟩
def F.FAB_TIMING.HELLO : Fld := ⟨328, 0, 8, .rw, 0xa⟩
def F.FAB_TIMING.HELLO_DEAD : Fld := ⟨329, 8, 4, .rw, 3⟩
def F.FAB_TIMING.UE_LIMIT : Fld := ⟨330, 16, 8, .rw, 0x10⟩
def F.FAB_TIMING.REMOTE_TMO : Fld := ⟨331, 24, 8, .rw, 0x64⟩
def F.FAB_CTL.RECLAIM : Fld := ⟨332, 0, 1, .wo, 0⟩
def F.FAB_STATE.ADDR : Fld := ⟨333, 0, 7, .ro, 0x7f⟩
def F.FAB_STATE.DSTATE : Fld := ⟨334, 8, 2, .ro, 0⟩
def F.FAB_STATE.KEEPER : Fld := ⟨335, 16, 7, .ro, 0x7f⟩
def F.FAB_STATE.QUORUM : Fld := ⟨336, 23, 1, .ro, 0⟩
def F.FAB_STATE.MEMBERS_N : Fld := ⟨337, 24, 7, .ro, 0⟩
def F.FAB_SERIAL.SERIAL : Fld := ⟨338, 0, 64, .ro, 0⟩
def F.FAB_MEMBERS.MEMBERS : Fld := ⟨339, 0, 64, .ro, 0⟩
def F.FAB_EVENT.LINK_CHANGE : Fld := ⟨340, 0, 1, .w1c, 0⟩
def F.FAB_EVENT.ADJ_CHANGE : Fld := ⟨341, 1, 1, .w1c, 0⟩
def F.FAB_EVENT.ADDR_GAINED : Fld := ⟨342, 2, 1, .w1c, 0⟩
def F.FAB_EVENT.ADDR_LOST : Fld := ⟨343, 3, 1, .w1c, 0⟩
def F.FAB_EVENT.NO_ADDR : Fld := ⟨344, 4, 1, .w1c, 0⟩
def F.FAB_EVENT.KEEPER_CHANGE : Fld := ⟨345, 5, 1, .w1c, 0⟩
def F.FAB_EVENT.QUORUM_LOST : Fld := ⟨346, 6, 1, .w1c, 0⟩
def F.FAB_EVENT.ROUTE_CHANGE : Fld := ⟨347, 7, 1, .w1c, 0⟩
def F.FAB_EVENT.LOOP : Fld := ⟨348, 8, 1, .w1c, 0⟩
def F.FAB_EVENT.UE_LIMIT : Fld := ⟨349, 9, 1, .w1c, 0⟩
def F.FAB_EVENT_EN.EN : Fld := ⟨350, 0, 10, .rw, 0⟩
def F.FAB_ROUTE_GEN.COUNT : Fld := ⟨351, 0, 32, .ro, 0⟩
def F.FAB_DROP_ROUTE.COUNT : Fld := ⟨352, 0, 32, .rc, 0⟩
def F.FAB_DROP_HOPS.COUNT : Fld := ⟨353, 0, 32, .rc, 0⟩
def F.FAB_DROP_CRC.COUNT : Fld := ⟨354, 0, 32, .rc, 0⟩
def F.FAB_LINKn_CFG.EN : Fld := ⟨355, 0, 1, .rw, 1⟩
def F.FAB_LINKn_STATUS.STATE : Fld := ⟨356, 0, 2, .ro, 0⟩
def F.FAB_LINKn_STATUS.LOCK0 : Fld := ⟨357, 2, 1, .ro, 0⟩
def F.FAB_LINKn_STATUS.LOCK1 : Fld := ⟨358, 3, 1, .ro, 0⟩
def F.FAB_LINKn_STATUS.LOOP : Fld := ⟨359, 4, 1, .ro, 0⟩
def F.FAB_LINKn_STATUS.SKEW : Fld := ⟨360, 6, 6, .ro, 0⟩
def F.FAB_LINKn_STATUS.NEIGHBOUR : Fld := ⟨361, 16, 7, .ro, 0x7f⟩
def F.FAB_LINKn_STATUS.NLINK : Fld := ⟨362, 24, 3, .ro, 0⟩
def F.FAB_LINKn_FEC_CORR.COUNT : Fld := ⟨363, 0, 32, .rc, 0⟩
def F.FAB_LINKn_FEC_UNCORR.COUNT : Fld := ⟨364, 0, 32, .rc, 0⟩
def F.FAB_LINKn_CELLS_TX.COUNT : Fld := ⟨365, 0, 32, .ro, 0⟩
def F.FAB_LINKn_CELLS_RX.COUNT : Fld := ⟨366, 0, 32, .ro, 0⟩
def F.FAB_LINKn_TIDE_OFS.THETA : Fld := ⟨367, 0, 32, .ro, 0⟩
def F.FAB_LINKn_TIDE_DLY.DELAY : Fld := ⟨368, 0, 32, .ro, 0⟩
def F.FAB_ROUTEd.NH0 : Fld := ⟨369, 0, 3, .ro, 0⟩
def F.FAB_ROUTEd.V0 : Fld := ⟨370, 3, 1, .ro, 0⟩
def F.FAB_ROUTEd.NH1 : Fld := ⟨371, 4, 3, .ro, 0⟩
def F.FAB_ROUTEd.V1 : Fld := ⟨372, 7, 1, .ro, 0⟩
def F.FAB_ROUTEd.NH2 : Fld := ⟨373, 8, 3, .ro, 0⟩
def F.FAB_ROUTEd.V2 : Fld := ⟨374, 11, 1, .ro, 0⟩
def F.FAB_ROUTEd.NH3 : Fld := ⟨375, 12, 3, .ro, 0⟩
def F.FAB_ROUTEd.V3 : Fld := ⟨376, 15, 1, .ro, 0⟩
def F.FAB_ROUTEd.HOPS : Fld := ⟨377, 16, 6, .ro, 0⟩
def F.PROT_EVENT.TAKEOVER : Fld := ⟨378, 0, 1, .w1c, 0⟩
def F.PROT_EVENT.YIELDED : Fld := ⟨379, 1, 1, .w1c, 0⟩
def F.PROT_EVENT.HELD : Fld := ⟨380, 2, 1, .w1c, 0⟩
def F.PROT_EVENT.READY : Fld := ⟨381, 3, 1, .w1c, 0⟩
def F.PROT_EVENT.SYNC_LOST : Fld := ⟨382, 4, 1, .w1c, 0⟩
def F.PROT_EVENT.LEASE_LOST : Fld := ⟨383, 5, 1, .w1c, 0⟩
def F.PROT_EVENT.DUAL : Fld := ⟨384, 6, 1, .w1c, 0⟩
def F.PROT_EVENT.SWITCHED : Fld := ⟨385, 7, 1, .w1c, 0⟩
def F.PROT_EVENT.PAIR_LEFT : Fld := ⟨386, 8, 1, .w1c, 0⟩
def F.PROT_EVENT_EN.EN : Fld := ⟨387, 0, 9, .rw, 0⟩
def F.PROT_PAIRED.TREES : Fld := ⟨388, 0, 32, .ro, 0⟩
def F.PROT_Tt_STATE.PSTATE : Fld := ⟨389, 0, 4, .ro, 0⟩
def F.PROT_Tt_STATE.CAUSE : Fld := ⟨390, 4, 4, .ro, 0⟩
def F.PROT_Tt_STATE.PARTNER : Fld := ⟨391, 8, 7, .ro, 0x7f⟩
def F.PROT_Tt_STATE.LEASE : Fld := ⟨392, 15, 1, .ro, 0⟩
def F.PROT_Tt_STATE.PAIR_ID : Fld := ⟨393, 16, 16, .ro, 0⟩
def F.PROT_Tt_DELTA.DELTA : Fld := ⟨394, 0, 32, .ro, 0⟩
def F.PROT_Tt_TIDE_ERR.ERR : Fld := ⟨395, 0, 32, .ro, 0⟩
def F.PROT_Tt_OBS.CLEAN : Fld := ⟨396, 0, 8, .ro, 0⟩
def F.PROT_Tt_OBS.DIGEST_GAP : Fld := ⟨397, 8, 8, .ro, 0⟩
def F.PROT_Tt_OBS.ACK_GAP : Fld := ⟨398, 16, 8, .ro, 0⟩
def F.PROT_Tt_OBS.MISS_PCT : Fld := ⟨399, 24, 8, .ro, 0⟩
def F.PROT_Tt_SINCE_F.F : Fld := ⟨400, 0, 51, .ro, 0⟩
def F.PROT_Tt_DIGEST_LOST.COUNT : Fld := ⟨401, 0, 32, .rc, 0⟩
def F.PROT_Tt_MISS_FRAMES.COUNT : Fld := ⟨402, 0, 32, .rc, 0⟩
def F.PROT_Tt_TAKEOVERS.COUNT : Fld := ⟨403, 0, 32, .ro, 0⟩
def F.PROT_Tt_LEASE_REFUSED.COUNT : Fld := ⟨404, 0, 32, .rc, 0⟩
def F.PROT_Tt_MIRROR_ERR.COUNT : Fld := ⟨405, 0, 32, .rc, 0⟩
def F.PWR_EVENT.STATE_CHANGE : Fld := ⟨406, 0, 1, .w1c, 0⟩
def F.PWR_EVENT.WAKE : Fld := ⟨407, 1, 1, .w1c, 0⟩
def F.PWR_EVENT.REQ_DROPPED : Fld := ⟨408, 2, 1, .w1c, 0⟩
def F.PWR_EVENT.LOSS : Fld := ⟨409, 3, 1, .w1c, 0⟩
def F.PWR_EVENT.BROWNOUT : Fld := ⟨410, 4, 1, .w1c, 0⟩
def F.PWR_EVENT.BB_OK : Fld := ⟨411, 5, 1, .w1c, 0⟩
def F.PWR_EVENT.BB_OVER : Fld := ⟨412, 6, 1, .w1c, 0⟩
def F.PWR_EVENT.POL_FAULT : Fld := ⟨413, 7, 1, .w1c, 0⟩
def F.PWR_EVENT_EN.EN : Fld := ⟨414, 0, 8, .rw, 0⟩
def F.PWR_WAKE.DOMAIN : Fld := ⟨415, 0, 6, .wo, 0⟩
def F.PWR_WAKE.GO : Fld := ⟨416, 31, 1, .wo, 0⟩
def F.PWR_LAST_WAKE.DOMAIN : Fld := ⟨417, 0, 6, .ro, 0⟩
def F.PWR_LAST_WAKE.SOURCE : Fld := ⟨418, 8, 4, .ro, 0⟩
def F.PWR_LAST_WAKE.TREE : Fld := ⟨419, 12, 7, .ro, 0x7f⟩
def F.PWR_LAST_WAKE.TIDE_VALID : Fld := ⟨420, 19, 1, .ro, 0⟩
def F.PWR_LAST_WAKE_AT.TUPLE : Fld := ⟨421, 0, 64, .ro, 0⟩
def F.PWR_LAST_WAKE_LEDGER.TICKS : Fld := ⟨422, 0, 64, .ro, 0⟩
def F.PWR_BB_CFG.WARN : Fld := ⟨423, 0, 16, .rw, 1020⟩
def F.PWR_BB_STATUS.MV : Fld := ⟨424, 0, 16, .ro, 0⟩
def F.PWR_BB_STATUS.WARN : Fld := ⟨425, 16, 1, .ro, 0⟩
def F.PWR_BB_STATUS.OVER : Fld := ⟨426, 17, 1, .ro, 0⟩
def F.PWR_ON_MASK.ON : Fld := ⟨427, 0, 57, .ro, 0⟩
def F.PWR_Dd_STATE.STATE : Fld := ⟨428, 0, 3, .ro, 2⟩
def F.PWR_Dd_STATE.TARGET : Fld := ⟨429, 3, 2, .ro, 2⟩
def F.PWR_Dd_STATE.PENDING : Fld := ⟨430, 5, 1, .ro, 0⟩
def F.PWR_Dd_STATE.PEND_TARGET : Fld := ⟨431, 6, 2, .ro, 0⟩
def F.PWR_Dd_STATE.STAGE : Fld := ⟨432, 8, 3, .ro, 0⟩
def F.PWR_Dd_SEQ.DONE_SEQ : Fld := ⟨433, 0, 16, .ro, 0⟩
def F.PWR_Dd_SEQ.PEND_SEQ : Fld := ⟨434, 16, 16, .ro, 0⟩
def F.PWR_Dd_IDLE.IDLE_US : Fld := ⟨435, 0, 20, .rw, 0⟩
def F.PWR_Dd_IDLE.IDLE_TARGET : Fld := ⟨436, 20, 2, .rw, 1⟩
def F.PWR_Dd_WAKES.COUNT : Fld := ⟨437, 0, 32, .rc, 0⟩
def F.PWR_Dd_SCHED.TUPLE : Fld := ⟨438, 0, 64, .ro, 0⟩
def F.PWR_Dd_REFUSED.COUNT : Fld := ⟨439, 0, 32, .rc, 0⟩
def F.PWR_Tt_WAKE.SD_EN : Fld := ⟨440, 0, 1, .rw, 1⟩
def F.PWR_Tt_WAKE.DELIM_EN : Fld := ⟨441, 1, 1, .rw, 0⟩
def F.PWR_Tt_WAKE.LISTEN_RATE : Fld := ⟨442, 2, 2, .rw, 0⟩
def F.PWR_Tt_WAKE.MAX_ERR : Fld := ⟨443, 4, 3, .rw, 0⟩
def F.PWR_Tt_WAKE.DELIM_LEN : Fld := ⟨444, 8, 7, .rw, 0x20⟩
def F.PWR_Tt_WAKE.ARMED : Fld := ⟨445, 16, 1, .ro, 0⟩
def F.PWR_Tt_WAKE.LISTENING : Fld := ⟨446, 17, 1, .ro, 0⟩
def F.PWR_Tt_DELIM.PATTERN : Fld := ⟨447, 0, 64, .rw, 0⟩
def F.PWR_POLk.BUS_ADDR : Fld := ⟨448, 0, 7, .rw, 0⟩
def F.PWR_POLk.EN : Fld := ⟨449, 7, 1, .rw, 0⟩
def F.PWR_POLk.DOMAIN : Fld := ⟨450, 8, 7, .rw, 0x7f⟩
def F.PWR_POLk.SETPOINT : Fld := ⟨451, 16, 10, .rw, 0⟩
def F.PWR_POLk.FAULT : Fld := ⟨452, 30, 1, .w1c, 0⟩
def F.PWR_POLk.READY : Fld := ⟨453, 31, 1, .ro, 0⟩
def F.PE_CYCLES.COUNT : Fld := ⟨454, 0, 64, .ro, 0⟩
def F.PE_SAMPLE_CFG.MODE : Fld := ⟨455, 0, 2, .rw, 0⟩
def F.PE_SAMPLE_CFG.FREEZE : Fld := ⟨456, 2, 1, .rw, 0⟩
def F.PE_SAMPLE_CFG.CODE : Fld := ⟨457, 4, 8, .rw, 0⟩
def F.PE_SAMPLE_CFG.PERIOD : Fld := ⟨458, 12, 16, .rw, 1⟩
def F.PE_SAMPLE_SKIP.COUNT : Fld := ⟨459, 0, 32, .rc, 0⟩
def F.PE_CNTk.COUNT : Fld := ⟨460, 0, 32, .rw, 0⟩
def F.PE_CYCLES_SH.COUNT : Fld := ⟨461, 0, 64, .ro, 0⟩
def F.PE_CNTk_SH.COUNT : Fld := ⟨462, 0, 32, .ro, 0⟩
def F.PMC_STATUS.DENIED : Fld := ⟨463, 0, 1, .w1c, 0⟩
def F.PMC_STATUS.SNAP_ARMED : Fld := ⟨464, 1, 1, .ro, 0⟩
def F.PMC_DENY_ADDR.OFFSET : Fld := ⟨465, 0, 24, .ro, 0⟩
def F.PMC_DENY_ADDR.VALID : Fld := ⟨466, 31, 1, .w1c, 0⟩
def F.PMC_EVENT.ERRLOG : Fld := ⟨467, 0, 1, .w1c, 0⟩
def F.PMC_EVENT.ERRLOG_OVF : Fld := ⟨468, 1, 1, .w1c, 0⟩
def F.PMC_EVENT.WEAR : Fld := ⟨469, 2, 1, .w1c, 0⟩
def F.PMC_EVENT.HEALTH : Fld := ⟨470, 3, 1, .w1c, 0⟩
def F.PMC_EVENT.SNAPSHOT : Fld := ⟨471, 4, 1, .w1c, 0⟩
def F.PMC_EVENT.DENIED : Fld := ⟨472, 5, 1, .w1c, 0⟩
def F.PMC_EVENT.CNT_OVF : Fld := ⟨473, 6, 1, .w1c, 0⟩
def F.PMC_EVENT.TMX : Fld := ⟨474, 7, 1, .w1c, 0⟩
def F.PMC_EVENT_EN.EN : Fld := ⟨475, 0, 8, .rw, 0⟩
def F.PMC_SNAP_CTL.NOW : Fld := ⟨476, 0, 1, .wo, 0⟩
def F.PMC_SNAP_CTL.ARM : Fld := ⟨477, 1, 1, .wo, 0⟩
def F.PMC_SNAP_CTL.DISARM : Fld := ⟨478, 2, 1, .wo, 0⟩
def F.PMC_SNAP_SEQ.SEQ : Fld := ⟨479, 0, 32, .ro, 0⟩
def F.PMC_SNAP_AT.TUPLE : Fld := ⟨480, 0, 64, .rw, 0⟩
def F.PMC_BW_CFG.FRAMES : Fld := ⟨481, 0, 16, .rw, 0x1f40⟩
def F.PMC_LEG_BANK.BANK : Fld := ⟨482, 0, 2, .rw, 0⟩
def F.PMC_LEG_ADDR.ADDR : Fld := ⟨483, 0, 16, .rw, 0⟩
def F.PMC_LEG_DATA.COUNT : Fld := ⟨484, 0, 32, .rc, 0⟩
def F.PMC_HEALTH_CFG.WEAR_WARN : Fld := ⟨485, 0, 12, .rw, 0x640⟩
def F.PMC_HEALTH_CFG.HOURS_WARN : Fld := ⟨486, 16, 16, .rw, 0xaf⟩
def F.PMC_GRANT.PAGES : Fld := ⟨487, 0, 32, .rw, 0⟩
def F.PMC_WEAR_d.INDEX : Fld := ⟨488, 0, 12, .ro, 0⟩
def F.PMC_WEAR_d.VALID : Fld := ⟨489, 12, 1, .ro, 0⟩
def F.PMC_TEL_Tt.EN : Fld := ⟨490, 0, 1, .rw, 0⟩
def F.PMC_TEL_Tt.FILL : Fld := ⟨491, 8, 9, .ro, 0⟩
def F.PMC_TEL_Tt.LOST : Fld := ⟨492, 24, 8, .rc, 0⟩
def F.TMX_CTL.BLOCK : Fld := ⟨493, 0, 6, .rw, 0⟩
def F.TMX_CTL.GROUP : Fld := ⟨494, 6, 8, .rw, 0⟩
def F.TMX_CTL.DIV : Fld := ⟨495, 14, 2, .rw, 0⟩
def F.TMX_CTL.EN : Fld := ⟨496, 16, 1, .rw, 0⟩
def F.TMX_STATUS.UNLOCKED : Fld := ⟨497, 0, 1, .ro, 0⟩
def F.TMX_STATUS.STRAP_LOCKED : Fld := ⟨498, 1, 1, .ro, 0⟩
def F.TMX_STATUS.DRIVING : Fld := ⟨499, 2, 1, .ro, 0⟩
def F.TMX_STATUS.FAILS : Fld := ⟨500, 8, 8, .ro, 0⟩
def F.TMX_EXPIRY.TICKS : Fld := ⟨501, 0, 64, .ro, 0⟩
def F.DMA_CHn_SRC.ADDR : Fld := ⟨502, 0, 64, .rw, 0⟩
def F.DMA_CHn_DST.ADDR : Fld := ⟨503, 0, 64, .rw, 0⟩
def F.DMA_CHn_S0.STEP : Fld := ⟨504, 0, 32, .rw, 0⟩
def F.DMA_CHn_D0.STEP : Fld := ⟨505, 0, 32, .rw, 0⟩
def F.DMA_CHn_S1.STEP : Fld := ⟨506, 0, 32, .rw, 0⟩
def F.DMA_CHn_D1.STEP : Fld := ⟨507, 0, 32, .rw, 0⟩
def F.DMA_CHn_S2.STEP : Fld := ⟨508, 0, 32, .rw, 0⟩
def F.DMA_CHn_D2.STEP : Fld := ⟨509, 0, 32, .rw, 0⟩
def F.DMA_CHn_CNT01.C0 : Fld := ⟨510, 0, 16, .rw, 0⟩
def F.DMA_CHn_CNT01.C1 : Fld := ⟨511, 16, 16, .rw, 0⟩
def F.DMA_CHn_CNT2.C2 : Fld := ⟨512, 0, 16, .rw, 0⟩
def F.DMA_CHn_CNT2.DCTL : Fld := ⟨513, 16, 16, .rw, 0⟩
def F.DMA_CHn_LINK.LINK : Fld := ⟨514, 0, 64, .rw, 0⟩
def F.PE_SELk.EVENT : Fld := ⟨515, 0, 9, .rw, 0⟩
def F.PE_SELk.EN : Fld := ⟨516, 12, 1, .rw, 0⟩
def F.PE_SELk.CHAIN : Fld := ⟨517, 13, 1, .rw, 0⟩
def F.PE_SELk.OVF : Fld := ⟨518, 14, 1, .w1c, 0⟩
def F.PMC_SELk.EVENT : Fld := ⟨519, 0, 9, .rw, 0⟩
def F.PMC_SELk.EN : Fld := ⟨520, 12, 1, .rw, 0⟩
def F.PMC_SELk.CHAIN : Fld := ⟨521, 13, 1, .rw, 0⟩
def F.PMC_SELk.OVF : Fld := ⟨522, 14, 1, .w1c, 0⟩
def F.PMC_CNTk.COUNT : Fld := ⟨523, 0, 32, .rw, 0⟩

/-- The GLB_ block (R34). -/
def glbRegs : List RegInfo :=
  [⟨0x0, 4, 1, 0x0, 1, 0, .island, [F.GLB_ID.PART, F.GLB_ID.STEP]⟩,
   ⟨0x4, 4, 1, 0x0, 1, 0, .island, [F.GLB_STATUS.ISLAND_OK, F.GLB_STATUS.MBX_READY, F.GLB_STATUS.RESTRICTED, F.GLB_STATUS.UNTESTED, F.GLB_STATUS.STRAY, F.GLB_STATUS.BADACC, F.GLB_STATUS.DOMACC, F.GLB_STATUS.DBGLOCKED, F.GLB_STATUS.SITE_OK]⟩,
   ⟨0x8, 4, 1, 0x0, 1, 0, .island, [F.GLB_CTL.RESET_KEY, F.GLB_CTL.SOFT_RESET, F.GLB_CTL.TXDIS_ALL]⟩,
   ⟨0xc, 4, 1, 0x0, 1, 0, .island, [F.GLB_STRAP.BUS, F.GLB_STRAP.DBGLOCK]⟩,
   ⟨0x10, 4, 1, 0x0, 1, 0, .island, [F.GLB_RST_CAUSE.COLD, F.GLB_RST_CAUSE.AON_PIN, F.GLB_RST_CAUSE.COMPLEX, F.GLB_RST_CAUSE.SOFT]⟩,
   ⟨0x14, 4, 1, 0x0, 1, 0, .island, [F.GLB_WIN_ERR.OFFSET, F.GLB_WIN_ERR.KIND, F.GLB_WIN_ERR.PORT, F.GLB_WIN_ERR.VALID]⟩,
   ⟨0x18, 4, 1, 0x0, 1, 0, .island, [F.GLB_MM_CFG.SWADDR, F.GLB_MM_CFG.STRETCH_MAX]⟩]

/-- The timebase block (R73). -/
def tbRegs : List RegInfo :=
  [⟨0x10000, 8, 1, 0x0, 1, 0, .fixed 56, [F.TB_CTC.NS]⟩,
   ⟨0x10008, 8, 1, 0x0, 1, 0, .fixed 56, [F.TB_STEP.NS, F.TB_STEP.FRAC]⟩,
   ⟨0x10010, 4, 1, 0x0, 1, 0, .fixed 56, [F.TB_CLK.CODE]⟩,
   ⟨0x10014, 4, 1, 0x0, 1, 0, .fixed 56, [F.TB_STATUS.SEL, F.TB_STATUS.A_VALID, F.TB_STATUS.B_VALID, F.TB_STATUS.A_HOLDOVER, F.TB_STATUS.B_HOLDOVER, F.TB_STATUS.FREQ_HOLDOVER, F.TB_STATUS.A_PPS, F.TB_STATUS.B_PPS]⟩,
   ⟨0x10018, 4, 1, 0x0, 1, 0, .island, [F.TB_EPOCH.COUNT]⟩,
   ⟨0x1001c, 4, 1, 0x0, 1, 0, .fixed 56, [F.TB_PPS_OUT.OFFSET]⟩,
   ⟨0x10020, 8, 1, 0x0, 1, 0, .island, [F.TB_LEDGER.TICKS]⟩,
   ⟨0x10028, 8, 1, 0x0, 1, 0, .island, [F.TB_LEDGER_RATIO.RATIO]⟩,
   ⟨0x10030, 8, 1, 0x0, 1, 0, .island, [F.TB_LAST_SLEEP.TICKS]⟩,
   ⟨0x10038, 4, 1, 0x0, 1, 0, .fixed 56, [F.TB_LAUNCH.LATE_TOL, F.TB_LAUNCH.HORIZON, F.TB_LAUNCH.LATE_POLICY]⟩,
   ⟨0x10040, 8, 2, 0x40, 1, 0, .fixed 56, [F.TB_x_TIME.NS]⟩,
   ⟨0x10048, 4, 2, 0x40, 1, 0, .fixed 56, [F.TB_x_FRAC.FRAC]⟩,
   ⟨0x1004c, 4, 2, 0x40, 1, 0, .fixed 56, [F.TB_x_NS32.NS]⟩,
   ⟨0x10050, 8, 2, 0x40, 1, 0, .fixed 56, [F.TB_x_SET.NS]⟩,
   ⟨0x10058, 8, 2, 0x40, 1, 0, .fixed 56, [F.TB_x_ADJ.NS, F.TB_x_ADJ.FRAC]⟩,
   ⟨0x10060, 4, 2, 0x40, 1, 0, .fixed 56, [F.TB_x_RATE.RATE]⟩,
   ⟨0x10068, 8, 2, 0x40, 1, 0, .fixed 56, [F.TB_x_PPS_TIME.NS]⟩,
   ⟨0x10070, 8, 2, 0x40, 1, 0, .fixed 56, [F.TB_x_PPS_CTC.NS]⟩,
   ⟨0x10078, 4, 2, 0x40, 1, 0, .fixed 56, [F.TB_x_PPS_CNT.COUNT]⟩,
   ⟨0x10100, 8, 1, 0x0, 1, 0, .fixed 56, [F.TIDE_ORIGIN.NS]⟩,
   ⟨0x10108, 8, 1, 0x0, 1, 0, .fixed 56, [F.TIDE_NOW_F.F]⟩,
   ⟨0x10110, 4, 1, 0x0, 1, 0, .fixed 56, [F.TIDE_NOW_P.P]⟩,
   ⟨0x10114, 4, 1, 0x0, 1, 0, .fixed 56, [F.TIDE_DIFF.DIFF]⟩,
   ⟨0x10118, 4, 1, 0x0, 1, 0, .fixed 56, [F.TIDE_CTL.SRC, F.TIDE_CTL.PEER, F.TIDE_CTL.FAR_LIMIT]⟩,
   ⟨0x1011c, 4, 1, 0x0, 1, 0, .fixed 56, [F.TIDE_STATUS.SLEWING, F.TIDE_STATUS.FAR, F.TIDE_STATUS.JUMPED, F.TIDE_STATUS.ORIGIN_REFUSED, F.TIDE_STATUS.RATE_CLAMP, F.TIDE_STATUS.PEER_LOST]⟩,
   ⟨0x10140, 8, 4, 0x20, 1, 0, .fixed 56, [F.TIDE_TODn_F.F]⟩,
   ⟨0x10148, 4, 4, 0x20, 1, 0, .fixed 56, [F.TIDE_TODn_CTL.TREE, F.TIDE_TODn_CTL.ARM, F.TIDE_TODn_CTL.STATE, F.TIDE_TODn_CTL.DOM, F.TIDE_TODn_CTL.EPOCH]⟩,
   ⟨0x10150, 8, 4, 0x20, 1, 0, .fixed 56, [F.TIDE_TODn_TIME.NS]⟩,
   ⟨0x10158, 4, 4, 0x20, 1, 0, .fixed 56, [F.TIDE_TODn_FRAC.FRAC]⟩]

/-- The MBX_ block (R340). -/
def mbxRegs : List RegInfo :=
  [⟨0x20000, 4, 16, 0x100, 16, 4, .fixed 54, [F.MBX_n_REQ.DATA]⟩,
   ⟨0x20040, 4, 16, 0x100, 16, 4, .fixed 54, [F.MBX_n_RSP.DATA]⟩,
   ⟨0x20080, 4, 16, 0x100, 1, 0, .fixed 54, [F.MBX_n_CTL.GO]⟩,
   ⟨0x20084, 4, 16, 0x100, 1, 0, .fixed 54, [F.MBX_n_STATUS.BUSY, F.MBX_n_STATUS.DONE, F.MBX_n_STATUS.REJECTED, F.MBX_n_STATUS.REPLAYED]⟩,
   ⟨0x21000, 4, 1, 0x0, 1, 0, .fixed 54, [F.MBX_DEVSTATE.STATE, F.MBX_DEVSTATE.UNTESTED_HELD, F.MBX_DEVSTATE.RESTARTS, F.MBX_DEVSTATE.BOOT_VER]⟩,
   ⟨0x21004, 4, 1, 0x0, 1, 0, .fixed 54, [F.MBX_EVENT.DONE, F.MBX_EVENT.STATE, F.MBX_EVENT.UNTESTED, F.MBX_EVENT.CP_RESTART]⟩,
   ⟨0x21008, 4, 1, 0x0, 1, 0, .fixed 54, [F.MBX_EVENT_EN.EN]⟩]

/-- The IRQ_ block (R313). -/
def irqRegs : List RegInfo :=
  [⟨0x30000, 4, 1, 0x0, 1, 0, .fixed 53, [F.IRQ_STATUS.DB_STRAY, F.IRQ_STATUS.EQ_OVERFLOW, F.IRQ_STATUS.RING_ERROR]⟩,
   ⟨0x30004, 4, 1, 0x0, 1, 0, .fixed 53, [F.IRQ_RING_DROP.COUNT]⟩,
   ⟨0x30100, 4, 256, 0x4, 1, 0, .fixed 53, [F.IRQ_SRC_MAP.VECTOR, F.IRQ_SRC_MAP.EN]⟩,
   ⟨0x30800, 4, 8, 0x4, 1, 0, .fixed 53, [F.IRQ_SRC_PEND.PEND]⟩,
   ⟨0x31000, 4, 256, 0x10, 1, 0, .fixed 53, [F.IRQ_EQ_HEAD.HEAD]⟩,
   ⟨0x31004, 4, 256, 0x10, 1, 0, .fixed 53, [F.IRQ_EQ_TAIL.TAIL, F.IRQ_EQ_TAIL.PHASE]⟩,
   ⟨0x31008, 4, 256, 0x10, 1, 0, .fixed 53, [F.IRQ_EQ_STATUS.OVERFLOW, F.IRQ_EQ_STATUS.CREATED]⟩,
   ⟨0x32000, 4, 128, 0x4, 1, 0, .fixed 53, [F.IRQ_RING_SUMMARY.RINGS]⟩,
   ⟨0x38000, 4, 2048, 0x8, 1, 0, .island, [F.IRQ_VEC_CFG.CNT, F.IRQ_VEC_CFG.TMR, F.IRQ_VEC_CFG.MASK, F.IRQ_VEC_CFG.AUTOMASK, F.IRQ_VEC_CFG.WAKE]⟩,
   ⟨0x38004, 4, 2048, 0x8, 1, 0, .island, [F.IRQ_VEC_STATE.EVENTS, F.IRQ_VEC_STATE.PEND, F.IRQ_VEC_STATE.TIMING]⟩]

/-- The PWR_ block (R441, R442). -/
def pwrRegs : List RegInfo :=
  [⟨0x40000, 4, 1, 0x0, 1, 0, .island, [F.PWR_EVENT.STATE_CHANGE, F.PWR_EVENT.WAKE, F.PWR_EVENT.REQ_DROPPED, F.PWR_EVENT.LOSS, F.PWR_EVENT.BROWNOUT, F.PWR_EVENT.BB_OK, F.PWR_EVENT.BB_OVER, F.PWR_EVENT.POL_FAULT]⟩,
   ⟨0x40004, 4, 1, 0x0, 1, 0, .island, [F.PWR_EVENT_EN.EN]⟩,
   ⟨0x40008, 4, 1, 0x0, 1, 0, .island, [F.PWR_WAKE.DOMAIN, F.PWR_WAKE.GO]⟩,
   ⟨0x4000c, 4, 1, 0x0, 1, 0, .island, [F.PWR_LAST_WAKE.DOMAIN, F.PWR_LAST_WAKE.SOURCE, F.PWR_LAST_WAKE.TREE, F.PWR_LAST_WAKE.TIDE_VALID]⟩,
   ⟨0x40010, 8, 1, 0x0, 1, 0, .island, [F.PWR_LAST_WAKE_AT.TUPLE]⟩,
   ⟨0x40018, 8, 1, 0x0, 1, 0, .island, [F.PWR_LAST_WAKE_LEDGER.TICKS]⟩,
   ⟨0x40020, 4, 1, 0x0, 1, 0, .island, [F.PWR_BB_CFG.WARN]⟩,
   ⟨0x40024, 4, 1, 0x0, 1, 0, .island, [F.PWR_BB_STATUS.MV, F.PWR_BB_STATUS.WARN, F.PWR_BB_STATUS.OVER]⟩,
   ⟨0x40028, 8, 1, 0x0, 1, 0, .island, [F.PWR_ON_MASK.ON]⟩,
   ⟨0x40100, 4, 57, 0x20, 1, 0, .island, [F.PWR_Dd_STATE.STATE, F.PWR_Dd_STATE.TARGET, F.PWR_Dd_STATE.PENDING, F.PWR_Dd_STATE.PEND_TARGET, F.PWR_Dd_STATE.STAGE]⟩,
   ⟨0x40104, 4, 57, 0x20, 1, 0, .island, [F.PWR_Dd_SEQ.DONE_SEQ, F.PWR_Dd_SEQ.PEND_SEQ]⟩,
   ⟨0x40108, 4, 57, 0x20, 1, 0, .island, [F.PWR_Dd_IDLE.IDLE_US, F.PWR_Dd_IDLE.IDLE_TARGET]⟩,
   ⟨0x4010c, 4, 57, 0x20, 1, 0, .island, [F.PWR_Dd_WAKES.COUNT]⟩,
   ⟨0x40110, 8, 57, 0x20, 1, 0, .island, [F.PWR_Dd_SCHED.TUPLE]⟩,
   ⟨0x40118, 4, 57, 0x20, 1, 0, .island, [F.PWR_Dd_REFUSED.COUNT]⟩,
   ⟨0x40900, 4, 96, 0x10, 1, 0, .island, [F.PWR_Tt_WAKE.SD_EN, F.PWR_Tt_WAKE.DELIM_EN, F.PWR_Tt_WAKE.LISTEN_RATE, F.PWR_Tt_WAKE.MAX_ERR, F.PWR_Tt_WAKE.DELIM_LEN, F.PWR_Tt_WAKE.ARMED, F.PWR_Tt_WAKE.LISTENING]⟩,
   ⟨0x40908, 8, 96, 0x10, 1, 0, .island, [F.PWR_Tt_DELIM.PATTERN]⟩,
   ⟨0x40f00, 4, 16, 0x4, 1, 0, .island, [F.PWR_POLk.BUS_ADDR, F.PWR_POLk.EN, F.PWR_POLk.DOMAIN, F.PWR_POLk.SETPOINT, F.PWR_POLk.FAULT, F.PWR_POLk.READY]⟩]

/-- The DMA_ block (R327, R336, R337). -/
def dmaRegs : List RegInfo :=
  [⟨0x50040, 4, 64, 0x100, 1, 0, .fixed 53, [F.DMA_CHn_CTL.PRIO, F.DMA_CHn_CTL.PORT, F.DMA_CHn_CTL.CHAIN, F.DMA_CHn_CTL.AT, F.DMA_CHn_CTL.REQ, F.DMA_CHn_CTL.RATE, F.DMA_CHn_CTL.START, F.DMA_CHn_CTL.RESUME, F.DMA_CHn_CTL.FENCE, F.DMA_CHn_CTL.DISABLE]⟩,
   ⟨0x50044, 4, 64, 0x100, 1, 0, .fixed 53, [F.DMA_CHn_STATUS.STATE, F.DMA_CHn_STATUS.OWNED, F.DMA_CHn_STATUS.CFG_ERR, F.DMA_CHn_STATUS.ERR_CAUSE, F.DMA_CHn_STATUS.LATE, F.DMA_CHn_STATUS.RETRIES]⟩,
   ⟨0x50048, 4, 64, 0x100, 1, 0, .fixed 53, [F.DMA_CHn_EVENT.DONE, F.DMA_CHn_EVENT.DESC, F.DMA_CHn_EVENT.FENCED, F.DMA_CHn_EVENT.HALTED, F.DMA_CHn_EVENT.START_REFUSED]⟩,
   ⟨0x5004c, 4, 64, 0x100, 1, 0, .fixed 53, [F.DMA_CHn_EVENT_EN.EN]⟩,
   ⟨0x50050, 8, 64, 0x100, 1, 0, .fixed 53, [F.DMA_CHn_REMAIN.BYTES]⟩,
   ⟨0x50058, 8, 64, 0x100, 1, 0, .fixed 53, [F.DMA_CHn_IDX.IDX]⟩,
   ⟨0x50060, 8, 64, 0x100, 1, 0, .fixed 53, [F.DMA_CHn_START_AT.TUPLE]⟩,
   ⟨0x50068, 8, 64, 0x100, 1, 0, .fixed 53, [F.DMA_CHn_FIRST.ADDR]⟩,
   ⟨0x50070, 8, 64, 0x100, 1, 0, .fixed 53, [F.DMA_CHn_TAIL.ADDR]⟩,
   ⟨0x50078, 8, 64, 0x100, 1, 0, .fixed 53, [F.DMA_CHn_ERR_ADDR.ADDR]⟩,
   ⟨0x50080, 4, 64, 0x100, 1, 0, .fixed 53, [F.DMA_CHn_KICK.KICK]⟩,
   ⟨0x50084, 4, 64, 0x100, 1, 0, .fixed 53, [F.DMA_CHn_KICK_IGN.COUNT]⟩,
   ⟨0x50088, 8, 64, 0x100, 1, 0, .fixed 53, [F.DMA_CHn_BYTES.BYTES]⟩,
   ⟨0x50090, 4, 64, 0x100, 1, 0, .fixed 53, [F.DMA_CHn_DESCS.COUNT]⟩,
   ⟨0x54000, 4, 1, 0x0, 1, 0, .fixed 53, [F.DMA_RETRY.COUNT]⟩,
   ⟨0x54004, 4, 1, 0x0, 1, 0, .fixed 53, [F.DMA_GLB_CFG.RING_SHARE, F.DMA_GLB_CFG.FENCE_TMO]⟩,
   ⟨0x54008, 8, 1, 0x0, 1, 0, .fixed 53, [F.DMA_BUSY.CH]⟩,
   ⟨0x50000, 8, 64, 0x100, 1, 0, .fixed 53, [F.DMA_CHn_SRC.ADDR]⟩,
   ⟨0x50008, 8, 64, 0x100, 1, 0, .fixed 53, [F.DMA_CHn_DST.ADDR]⟩,
   ⟨0x50010, 4, 64, 0x100, 1, 0, .fixed 53, [F.DMA_CHn_S0.STEP]⟩,
   ⟨0x50014, 4, 64, 0x100, 1, 0, .fixed 53, [F.DMA_CHn_D0.STEP]⟩,
   ⟨0x50018, 4, 64, 0x100, 1, 0, .fixed 53, [F.DMA_CHn_S1.STEP]⟩,
   ⟨0x5001c, 4, 64, 0x100, 1, 0, .fixed 53, [F.DMA_CHn_D1.STEP]⟩,
   ⟨0x50020, 4, 64, 0x100, 1, 0, .fixed 53, [F.DMA_CHn_S2.STEP]⟩,
   ⟨0x50024, 4, 64, 0x100, 1, 0, .fixed 53, [F.DMA_CHn_D2.STEP]⟩,
   ⟨0x50028, 4, 64, 0x100, 1, 0, .fixed 53, [F.DMA_CHn_CNT01.C0, F.DMA_CHn_CNT01.C1]⟩,
   ⟨0x5002c, 4, 64, 0x100, 1, 0, .fixed 53, [F.DMA_CHn_CNT2.C2, F.DMA_CHn_CNT2.DCTL]⟩,
   ⟨0x50038, 8, 64, 0x100, 1, 0, .fixed 53, [F.DMA_CHn_LINK.LINK]⟩]

/-- The FAB_ registers (R390). -/
def fabRegs : List RegInfo :=
  [⟨0x60000, 4, 1, 0x0, 1, 0, .fixed 55, [F.FAB_CFG.ADDR_PREF, F.FAB_CFG.KEEPER_EN, F.FAB_CFG.REMOTE_RD_EN, F.FAB_CFG.REMOTE_WR_EN, F.FAB_CFG.VOTERS]⟩,
   ⟨0x60004, 4, 1, 0x0, 1, 0, .fixed 55, [F.FAB_TIMING.HELLO, F.FAB_TIMING.HELLO_DEAD, F.FAB_TIMING.UE_LIMIT, F.FAB_TIMING.REMOTE_TMO]⟩,
   ⟨0x60008, 4, 1, 0x0, 1, 0, .fixed 55, [F.FAB_CTL.RECLAIM]⟩,
   ⟨0x6000c, 4, 1, 0x0, 1, 0, .fixed 55, [F.FAB_STATE.ADDR, F.FAB_STATE.DSTATE, F.FAB_STATE.KEEPER, F.FAB_STATE.QUORUM, F.FAB_STATE.MEMBERS_N]⟩,
   ⟨0x60010, 8, 1, 0x0, 1, 0, .fixed 55, [F.FAB_SERIAL.SERIAL]⟩,
   ⟨0x60018, 8, 1, 0x0, 1, 0, .fixed 55, [F.FAB_MEMBERS.MEMBERS]⟩,
   ⟨0x60020, 4, 1, 0x0, 1, 0, .fixed 55, [F.FAB_EVENT.LINK_CHANGE, F.FAB_EVENT.ADJ_CHANGE, F.FAB_EVENT.ADDR_GAINED, F.FAB_EVENT.ADDR_LOST, F.FAB_EVENT.NO_ADDR, F.FAB_EVENT.KEEPER_CHANGE, F.FAB_EVENT.QUORUM_LOST, F.FAB_EVENT.ROUTE_CHANGE, F.FAB_EVENT.LOOP, F.FAB_EVENT.UE_LIMIT]⟩,
   ⟨0x60024, 4, 1, 0x0, 1, 0, .fixed 55, [F.FAB_EVENT_EN.EN]⟩,
   ⟨0x60028, 4, 1, 0x0, 1, 0, .fixed 55, [F.FAB_ROUTE_GEN.COUNT]⟩,
   ⟨0x6002c, 4, 1, 0x0, 1, 0, .fixed 55, [F.FAB_DROP_ROUTE.COUNT]⟩,
   ⟨0x60030, 4, 1, 0x0, 1, 0, .fixed 55, [F.FAB_DROP_HOPS.COUNT]⟩,
   ⟨0x60034, 4, 1, 0x0, 1, 0, .fixed 55, [F.FAB_DROP_CRC.COUNT]⟩,
   ⟨0x60100, 4, 8, 0x20, 1, 0, .fixed 55, [F.FAB_LINKn_CFG.EN]⟩,
   ⟨0x60104, 4, 8, 0x20, 1, 0, .fixed 55, [F.FAB_LINKn_STATUS.STATE, F.FAB_LINKn_STATUS.LOCK0, F.FAB_LINKn_STATUS.LOCK1, F.FAB_LINKn_STATUS.LOOP, F.FAB_LINKn_STATUS.SKEW, F.FAB_LINKn_STATUS.NEIGHBOUR, F.FAB_LINKn_STATUS.NLINK]⟩,
   ⟨0x60108, 4, 8, 0x20, 1, 0, .fixed 55, [F.FAB_LINKn_FEC_CORR.COUNT]⟩,
   ⟨0x6010c, 4, 8, 0x20, 1, 0, .fixed 55, [F.FAB_LINKn_FEC_UNCORR.COUNT]⟩,
   ⟨0x60110, 4, 8, 0x20, 1, 0, .fixed 55, [F.FAB_LINKn_CELLS_TX.COUNT]⟩,
   ⟨0x60114, 4, 8, 0x20, 1, 0, .fixed 55, [F.FAB_LINKn_CELLS_RX.COUNT]⟩,
   ⟨0x60118, 4, 8, 0x20, 1, 0, .fixed 55, [F.FAB_LINKn_TIDE_OFS.THETA]⟩,
   ⟨0x6011c, 4, 8, 0x20, 1, 0, .fixed 55, [F.FAB_LINKn_TIDE_DLY.DELAY]⟩,
   ⟨0x60400, 4, 64, 0x4, 1, 0, .fixed 55, [F.FAB_ROUTEd.NH0, F.FAB_ROUTEd.V0, F.FAB_ROUTEd.NH1, F.FAB_ROUTEd.V1, F.FAB_ROUTEd.NH2, F.FAB_ROUTEd.V2, F.FAB_ROUTEd.NH3, F.FAB_ROUTEd.V3, F.FAB_ROUTEd.HOPS]⟩]

/-- The PROT_ registers (R418). -/
def protRegs : List RegInfo :=
  [⟨0x60500, 4, 1, 0x0, 1, 0, .fixed 54, [F.PROT_EVENT.TAKEOVER, F.PROT_EVENT.YIELDED, F.PROT_EVENT.HELD, F.PROT_EVENT.READY, F.PROT_EVENT.SYNC_LOST, F.PROT_EVENT.LEASE_LOST, F.PROT_EVENT.DUAL, F.PROT_EVENT.SWITCHED, F.PROT_EVENT.PAIR_LEFT]⟩,
   ⟨0x60504, 4, 1, 0x0, 1, 0, .fixed 54, [F.PROT_EVENT_EN.EN]⟩,
   ⟨0x60508, 4, 3, 0x4, 1, 0, .fixed 54, [F.PROT_PAIRED.TREES]⟩,
   ⟨0x61000, 4, 96, 0x40, 1, 0, .fixed 54, [F.PROT_Tt_STATE.PSTATE, F.PROT_Tt_STATE.CAUSE, F.PROT_Tt_STATE.PARTNER, F.PROT_Tt_STATE.LEASE, F.PROT_Tt_STATE.PAIR_ID]⟩,
   ⟨0x61004, 4, 96, 0x40, 1, 0, .fixed 54, [F.PROT_Tt_DELTA.DELTA]⟩,
   ⟨0x61008, 4, 96, 0x40, 1, 0, .fixed 54, [F.PROT_Tt_TIDE_ERR.ERR]⟩,
   ⟨0x6100c, 4, 96, 0x40, 1, 0, .fixed 54, [F.PROT_Tt_OBS.CLEAN, F.PROT_Tt_OBS.DIGEST_GAP, F.PROT_Tt_OBS.ACK_GAP, F.PROT_Tt_OBS.MISS_PCT]⟩,
   ⟨0x61010, 8, 96, 0x40, 1, 0, .fixed 54, [F.PROT_Tt_SINCE_F.F]⟩,
   ⟨0x61018, 4, 96, 0x40, 1, 0, .fixed 54, [F.PROT_Tt_DIGEST_LOST.COUNT]⟩,
   ⟨0x6101c, 4, 96, 0x40, 1, 0, .fixed 54, [F.PROT_Tt_MISS_FRAMES.COUNT]⟩,
   ⟨0x61020, 4, 96, 0x40, 1, 0, .fixed 54, [F.PROT_Tt_TAKEOVERS.COUNT]⟩,
   ⟨0x61024, 4, 96, 0x40, 1, 0, .fixed 54, [F.PROT_Tt_LEASE_REFUSED.COUNT]⟩,
   ⟨0x61028, 4, 96, 0x40, 1, 0, .fixed 54, [F.PROT_Tt_MIRROR_ERR.COUNT]⟩]

/-- The SLU_ registers (R185). -/
def sluRegs : List RegInfo :=
  [⟨0x68000, 4, 1, 0x0, 1, 0, .fixed 54, [F.SLU_STATUS.A_STATE, F.SLU_STATUS.B_STATE, F.SLU_STATUS.ACTIVE, F.SLU_STATUS.NONE, F.SLU_STATUS.MISMATCH_RUN, F.SLU_STATUS.CLEAN]⟩,
   ⟨0x68004, 4, 1, 0x0, 1, 0, .fixed 54, [F.SLU_CTL.SWAP, F.SLU_CTL.RETEST, F.SLU_CTL.RETEST_MS]⟩,
   ⟨0x68008, 4, 1, 0x0, 1, 0, .fixed 54, [F.SLU_EVENT.SWITCHOVER, F.SLU_EVENT.MISMATCH, F.SLU_EVENT.UNIT_FAILED, F.SLU_EVENT.HOT, F.SLU_EVENT.NO_SCHEDULER, F.SLU_EVENT.SELFCHECK_FAIL, F.SLU_EVENT.GRANT_LIMIT, F.SLU_EVENT.FC_DROP, F.SLU_EVENT.SWAP_REFUSED, F.SLU_EVENT.UNCHECKED]⟩,
   ⟨0x6800c, 4, 1, 0x0, 1, 0, .fixed 54, [F.SLU_EVENT_EN.EN]⟩,
   ⟨0x68010, 4, 1, 0x0, 1, 0, .fixed 54, [F.SLU_MISMATCH.COUNT]⟩,
   ⟨0x68014, 4, 1, 0x0, 1, 0, .fixed 54, [F.SLU_UNCHECKED.COUNT]⟩,
   ⟨0x68018, 4, 1, 0x0, 1, 0, .fixed 54, [F.SLU_FC_CFG.HORIZON, F.SLU_FC_CFG.CAP]⟩,
   ⟨0x6801c, 4, 1, 0x0, 1, 0, .fixed 54, [F.SLU_FC_USED.ENTRIES]⟩,
   ⟨0x68020, 4, 1, 0x0, 1, 0, .fixed 54, [F.SLU_FC_DROP.COUNT]⟩,
   ⟨0x68024, 4, 1, 0x0, 1, 0, .fixed 54, [F.SLU_FAIL_CAUSE.A_CAUSE, F.SLU_FAIL_CAUSE.B_CAUSE]⟩,
   ⟨0x69000, 4, 96, 0x20, 1, 0, .fixed 54, [F.SLU_TREE_CTL.GUARD_NS, F.SLU_TREE_CTL.POLL, F.SLU_TREE_CTL.DISC_PERIOD]⟩,
   ⟨0x69004, 4, 96, 0x20, 1, 0, .fixed 54, [F.SLU_TREE_MAP.GRANTS, F.SLU_TREE_MAP.IDLE_UNITS]⟩,
   ⟨0x69008, 4, 96, 0x20, 1, 0, .fixed 54, [F.SLU_TREE_CRC.CRC]⟩,
   ⟨0x6900c, 4, 96, 0x20, 1, 0, .fixed 54, [F.SLU_TREE_OVER.COUNT]⟩,
   ⟨0x69010, 4, 96, 0x20, 1, 0, .fixed 54, [F.SLU_TREE_COMMIT.PERMILLE]⟩,
   ⟨0x69014, 4, 96, 0x20, 1, 0, .fixed 54, [F.SLU_TREE_QUIET.OPEN, F.SLU_TREE_QUIET.KIND, F.SLU_TREE_QUIET.RANGE_Q]⟩]

/-- The tree blocks (R18, R21, R109, R147). -/
def treRegs : List RegInfo :=
  [⟨0x80380, 4, 96, 0x400, 1, 0, .island, [F.TRE_OPTIC.RXRST_LEAD, F.TRE_OPTIC.RXRST_WIDTH, F.TRE_OPTIC.SD_POL, F.TRE_OPTIC.RXRST_POL, F.TRE_OPTIC.SD_LEVEL, F.TRE_OPTIC.TXDIS_LEVEL, F.TRE_OPTIC.RXRST_SKIP]⟩,
   ⟨0x80384, 4, 96, 0x400, 1, 0, .island, [F.TRE_MOD_CMD.OFFSET, F.TRE_MOD_CMD.DEVADDR, F.TRE_MOD_CMD.WRITE, F.TRE_MOD_CMD.COUNT, F.TRE_MOD_CMD.FAST, F.TRE_MOD_CMD.START, F.TRE_MOD_CMD.BUSY, F.TRE_MOD_CMD.ERR]⟩,
   ⟨0x80388, 4, 96, 0x400, 1, 0, .island, [F.TRE_MOD_DATA.DATA]⟩,
   ⟨0x80000, 4, 96, 0x400, 1, 0, .island, [F.TRE_STATE.STATE, F.TRE_STATE.FAULT_CAUSE, F.TRE_STATE.CONFIGURED, F.TRE_STATE.PROFILE, F.TRE_STATE.OPER_TERMS]⟩,
   ⟨0x80004, 4, 96, 0x400, 1, 0, .pair, [F.TRE_CFG.MAX_FRAME, F.TRE_CFG.PLOAM_MAX, F.TRE_CFG.WARM_FRAMES]⟩,
   ⟨0x80008, 4, 96, 0x400, 1, 0, .pair, [F.TRE_PON_ID.PON_ID]⟩,
   ⟨0x8000c, 4, 96, 0x400, 1, 0, .pair, [F.TRE_DS_CAP.BYTES]⟩,
   ⟨0x80010, 8, 96, 0x400, 1, 0, .pair, [F.TRE_DS_FRAME.F]⟩,
   ⟨0x80018, 4, 96, 0x400, 1, 0, .pair, [F.TRE_DS_CTL.QUANTUM]⟩,
   ⟨0x8001c, 4, 96, 0x400, 1, 0, .pair, [F.TRE_BCAST_SLOT.SLOT, F.TRE_BCAST_SLOT.VALID]⟩,
   ⟨0x80020, 4, 96, 0x400, 1, 0, .pair, [F.TRE_PLOAM_Q.NORMAL, F.TRE_PLOAM_Q.URGENT]⟩,
   ⟨0x80024, 4, 96, 0x400, 1, 0, .pair, [F.TRE_EVENT.STATE_CHANGE, F.TRE_EVENT.FAULT, F.TRE_EVENT.MAP_HOLD, F.TRE_EVENT.MAP_EMPTY, F.TRE_EVENT.KEY_ERASED, F.TRE_EVENT.DORMANT, F.TRE_EVENT.WAKE]⟩,
   ⟨0x80028, 4, 96, 0x400, 1, 0, .pair, [F.TRE_EVENT_EN.EN]⟩,
   ⟨0x80030, 4, 96, 0x400, 1, 0, .pair, [F.TRE_DS_RUNT.COUNT]⟩,
   ⟨0x80034, 4, 96, 0x400, 1, 0, .pair, [F.TRE_DS_OVERSIZE.COUNT]⟩,
   ⟨0x80038, 4, 96, 0x400, 1, 0, .pair, [F.TRE_DS_KEYDROP.COUNT]⟩,
   ⟨0x8003c, 4, 96, 0x400, 1, 0, .pair, [F.TRE_DS_NOTERM.COUNT]⟩,
   ⟨0x80040, 4, 96, 0x400, 1, 0, .pair, [F.TRE_DS_HOLDMAP.COUNT]⟩,
   ⟨0x80044, 4, 96, 0x400, 1, 0, .pair, [F.TRE_DS_ABORT.COUNT]⟩,
   ⟨0x80100, 4, 96, 0x400, 1, 0, .pair, [F.TRE_US_CTL.FCS_PASS, F.TRE_US_CTL.ROGUE_POLICY, F.TRE_US_CTL.REASM_TIMEOUT, F.TRE_US_CTL.LOB_FRAMES, F.TRE_US_CTL.RANGE_TRIES, F.TRE_US_CTL.RETIRE_HOLD]⟩,
   ⟨0x80104, 4, 96, 0x400, 1, 0, .pair, [F.TRE_US_REACH.MIN_KM, F.TRE_US_REACH.DIFF_KM]⟩,
   ⟨0x80108, 4, 96, 0x400, 1, 0, .pair, [F.TRE_US_TEQD.NS]⟩,
   ⟨0x8010c, 4, 96, 0x400, 1, 0, .pair, [F.TRE_US_ROGUE.MIN_NS, F.TRE_US_ROGUE.FRAMES, F.TRE_US_ROGUE.TOL_NS]⟩,
   ⟨0x80110, 4, 96, 0x400, 1, 0, .pair, [F.TRE_US_LOST.LIMIT]⟩,
   ⟨0x80114, 4, 96, 0x400, 1, 0, .pair, [F.TRE_US_DRIFT.ADJ_NS, F.TRE_US_DRIFT.MAX_NS]⟩,
   ⟨0x80118, 4, 96, 0x400, 1, 0, .pair, [F.TRE_US_EVENT.SN_NEW, F.TRE_US_EVENT.SN_OVERFLOW, F.TRE_US_EVENT.TERM_STATE, F.TRE_US_EVENT.RANGE_FAIL, F.TRE_US_EVENT.REG_FAIL, F.TRE_US_EVENT.TERM_LOST, F.TRE_US_EVENT.DRIFT, F.TRE_US_EVENT.ROGUE, F.TRE_US_EVENT.ROGUE_QUENCH, F.TRE_US_EVENT.SN_DUP]⟩,
   ⟨0x8011c, 4, 96, 0x400, 1, 0, .pair, [F.TRE_US_EVENT_EN.EN]⟩,
   ⟨0x80120, 8, 96, 0x400, 1, 0, .pair, [F.TRE_US_SN.SERIAL]⟩,
   ⟨0x80128, 4, 96, 0x400, 1, 0, .pair, [F.TRE_US_SN_INFO.RATES, F.TRE_US_SN_INFO.COUNT, F.TRE_US_SN_INFO.OVERFLOW, F.TRE_US_SN_INFO.POP]⟩,
   ⟨0x80130, 4, 96, 0x400, 1, 0, .pair, [F.TRE_US_RUNT.COUNT]⟩,
   ⟨0x80134, 4, 96, 0x400, 1, 0, .pair, [F.TRE_US_OVERSIZE.COUNT]⟩,
   ⟨0x80138, 4, 96, 0x400, 1, 0, .pair, [F.TRE_US_FCS_ERR.COUNT]⟩,
   ⟨0x8013c, 4, 96, 0x400, 1, 0, .pair, [F.TRE_US_HEC_LOSS.COUNT]⟩,
   ⟨0x80140, 4, 96, 0x400, 1, 0, .pair, [F.TRE_US_REASM_ABORT.COUNT]⟩,
   ⟨0x80144, 4, 96, 0x400, 1, 0, .pair, [F.TRE_US_KEYMISS.COUNT]⟩,
   ⟨0x80148, 4, 96, 0x400, 1, 0, .pair, [F.TRE_US_KEYLOST.COUNT]⟩,
   ⟨0x8014c, 4, 96, 0x400, 1, 0, .pair, [F.TRE_US_MIC_FAIL.COUNT]⟩,
   ⟨0x80150, 4, 96, 0x400, 1, 0, .pair, [F.TRE_US_BURST_MISS.COUNT]⟩,
   ⟨0x80154, 4, 96, 0x400, 1, 0, .pair, [F.TRE_US_ROGUE_CNT.COUNT]⟩,
   ⟨0x80158, 4, 96, 0x400, 1, 0, .pair, [F.TRE_US_SN_DUP.COUNT]⟩,
   ⟨0x8015c, 4, 96, 0x400, 1, 0, .pair, [F.TRE_US_REPORT_BAD.COUNT]⟩,
   ⟨0x80160, 4, 96, 0x400, 1, 0, .pair, [F.TRE_US_NOCELL.COUNT]⟩,
   ⟨0x80168, 8, 96, 0x400, 1, 0, .pair, [F.TRE_US_FRAME.F]⟩]

/-- The doorbell slots (R312). -/
def dbRegs : List RegInfo :=
  [⟨0x100000, 4, 64, 0x1000, 64, 64, .fixed 53, [F.DB_TAIL.TAIL]⟩,
   ⟨0x100004, 4, 64, 0x1000, 64, 64, .fixed 53, [F.DB_HEAD.HEAD, F.DB_HEAD.TAIL]⟩,
   ⟨0x100008, 4, 64, 0x1000, 64, 64, .fixed 53, [F.DB_STATUS.STATE, F.DB_STATUS.IDLE, F.DB_STATUS.ERR_CAUSE, F.DB_STATUS.HOLDING]⟩,
   ⟨0x10000c, 4, 64, 0x1000, 64, 64, .fixed 53, [F.DB_NO_DESC.COUNT]⟩,
   ⟨0x100010, 4, 64, 0x1000, 64, 64, .fixed 53, [F.DB_NO_FIT.COUNT]⟩,
   ⟨0x100014, 4, 64, 0x1000, 64, 64, .fixed 53, [F.DB_PARTIAL.COUNT]⟩,
   ⟨0x100018, 4, 64, 0x1000, 64, 64, .fixed 53, [F.DB_NOCELL.COUNT]⟩,
   ⟨0x10001c, 4, 64, 0x1000, 64, 64, .fixed 53, [F.DB_DISABLE_DROP.COUNT]⟩,
   ⟨0x100020, 4, 64, 0x1000, 64, 64, .fixed 53, [F.DB_EARLY.COUNT]⟩,
   ⟨0x100024, 4, 64, 0x1000, 64, 64, .fixed 53, [F.DB_DONE.COUNT]⟩]

/-- The control pages of PMC_ and the block counters (R448, R466). -/
def pmcRegs : List RegInfo :=
  [⟨0x200000, 4, 1, 0x0, 1, 0, .fixed 54, [F.PMC_STATUS.DENIED, F.PMC_STATUS.SNAP_ARMED]⟩,
   ⟨0x200004, 4, 1, 0x0, 1, 0, .fixed 54, [F.PMC_DENY_ADDR.OFFSET, F.PMC_DENY_ADDR.VALID]⟩,
   ⟨0x200008, 4, 1, 0x0, 1, 0, .fixed 54, [F.PMC_EVENT.ERRLOG, F.PMC_EVENT.ERRLOG_OVF, F.PMC_EVENT.WEAR, F.PMC_EVENT.HEALTH, F.PMC_EVENT.SNAPSHOT, F.PMC_EVENT.DENIED, F.PMC_EVENT.CNT_OVF, F.PMC_EVENT.TMX]⟩,
   ⟨0x20000c, 4, 1, 0x0, 1, 0, .fixed 54, [F.PMC_EVENT_EN.EN]⟩,
   ⟨0x200010, 4, 1, 0x0, 1, 0, .fixed 54, [F.PMC_SNAP_CTL.NOW, F.PMC_SNAP_CTL.ARM, F.PMC_SNAP_CTL.DISARM]⟩,
   ⟨0x200014, 4, 1, 0x0, 1, 0, .fixed 54, [F.PMC_SNAP_SEQ.SEQ]⟩,
   ⟨0x200018, 8, 1, 0x0, 1, 0, .fixed 54, [F.PMC_SNAP_AT.TUPLE]⟩,
   ⟨0x200020, 4, 1, 0x0, 1, 0, .fixed 54, [F.PMC_BW_CFG.FRAMES]⟩,
   ⟨0x200024, 4, 1, 0x0, 1, 0, .fixed 54, [F.PMC_LEG_BANK.BANK]⟩,
   ⟨0x200028, 4, 1, 0x0, 1, 0, .fixed 54, [F.PMC_LEG_ADDR.ADDR]⟩,
   ⟨0x20002c, 4, 1, 0x0, 1, 0, .fixed 54, [F.PMC_LEG_DATA.COUNT]⟩,
   ⟨0x200030, 4, 1, 0x0, 1, 0, .fixed 54, [F.PMC_HEALTH_CFG.WEAR_WARN, F.PMC_HEALTH_CFG.HOURS_WARN]⟩,
   ⟨0x200040, 4, 8, 0x4, 1, 0, .fixed 54, [F.PMC_GRANT.PAGES]⟩,
   ⟨0x200200, 4, 58, 0x4, 1, 0, .island, [F.PMC_WEAR_d.INDEX, F.PMC_WEAR_d.VALID]⟩,
   ⟨0x201e00, 4, 96, 0x4, 1, 0, .pair, [F.PMC_TEL_Tt.EN, F.PMC_TEL_Tt.FILL, F.PMC_TEL_Tt.LOST]⟩,
   ⟨0x200400, 4, 104, 0x40, 8, 4, .block, [F.PMC_SELk.EVENT, F.PMC_SELk.EN, F.PMC_SELk.CHAIN, F.PMC_SELk.OVF]⟩,
   ⟨0x200420, 4, 104, 0x40, 8, 4, .block, [F.PMC_CNTk.COUNT]⟩]

/-- The registers of the engine windows (R217, R448, R450). -/
def peRegs : List RegInfo :=
  [⟨0x1031000, 4, 64, 0x40000, 1, 0, .engine, [F.PE_STATUS.STATE, F.PE_STATUS.CS_VALID, F.PE_STATUS.TAIL, F.PE_STATUS.PROTECTED, F.PE_STATUS.LINE, F.PE_STATUS.BUSY, F.PE_STATUS.UADDR]⟩,
   ⟨0x1031004, 4, 64, 0x40000, 1, 0, .engine, [F.PE_CTL.RESTART_MAX]⟩,
   ⟨0x1031008, 4, 64, 0x40000, 1, 0, .engine, [F.PE_FAULT.CAUSE, F.PE_FAULT.UADDR, F.PE_FAULT.VALID]⟩,
   ⟨0x103100c, 4, 64, 0x40000, 1, 0, .engine, [F.PE_EVENT.FAULT, F.PE_EVENT.EVT_LOST, F.PE_EVENT.CS_CORR, F.PE_EVENT.WM_CORR]⟩,
   ⟨0x1031010, 4, 64, 0x40000, 1, 0, .engine, [F.PE_EVENT_EN.EN]⟩,
   ⟨0x1031014, 4, 64, 0x40000, 1, 0, .engine, [F.PE_CS_CORR.COUNT]⟩,
   ⟨0x1031018, 4, 64, 0x40000, 1, 0, .engine, [F.PE_WM_CORR.COUNT]⟩,
   ⟨0x103101c, 4, 64, 0x40000, 1, 0, .engine, [F.PE_ABANDON.COUNT]⟩,
   ⟨0x1031020, 4, 64, 0x40000, 1, 0, .engine, [F.PE_RESTART.COUNT]⟩,
   ⟨0x1031024, 4, 64, 0x40000, 1, 0, .engine, [F.PE_EVT_LOST.COUNT]⟩,
   ⟨0x1031028, 4, 64, 0x40000, 1, 0, .engine, [F.PE_MAX_WAIT.CYCLES]⟩,
   ⟨0x103102c, 4, 64, 0x40000, 1, 0, .engine, [F.PE_SAMPLE_PTR.NEXT, F.PE_SAMPLE_PTR.WRAPPED]⟩,
   ⟨0x1031030, 8, 64, 0x40000, 1, 0, .engine, [F.PE_LINE_PEND.PEND]⟩,
   ⟨0x1031038, 8, 64, 0x40000, 1, 0, .engine, [F.PE_LINE_EN.EN]⟩,
   ⟨0x1031040, 8, 64, 0x40000, 1, 0, .engine, [F.PE_BUILD0.ID]⟩,
   ⟨0x1031048, 8, 64, 0x40000, 1, 0, .engine, [F.PE_BUILD1.ID]⟩,
   ⟨0x1031050, 4, 64, 0x40000, 1, 0, .engine, [F.PE_DQ.COUNT]⟩,
   ⟨0x1034000, 8, 64, 0x40000, 1, 0, .engine, [F.PE_CYCLES.COUNT]⟩,
   ⟨0x1034008, 4, 64, 0x40000, 1, 0, .engine, [F.PE_SAMPLE_CFG.MODE, F.PE_SAMPLE_CFG.FREEZE, F.PE_SAMPLE_CFG.CODE, F.PE_SAMPLE_CFG.PERIOD]⟩,
   ⟨0x103400c, 4, 64, 0x40000, 1, 0, .engine, [F.PE_SAMPLE_SKIP.COUNT]⟩,
   ⟨0x1034040, 4, 64, 0x40000, 8, 4, .engine, [F.PE_CNTk.COUNT]⟩,
   ⟨0x1034080, 8, 64, 0x40000, 1, 0, .engine, [F.PE_CYCLES_SH.COUNT]⟩,
   ⟨0x10340c0, 4, 64, 0x40000, 8, 4, .engine, [F.PE_CNTk_SH.COUNT]⟩,
   ⟨0x1034020, 4, 64, 0x40000, 8, 4, .engine, [F.PE_SELk.EVENT, F.PE_SELk.EN, F.PE_SELk.CHAIN, F.PE_SELk.OVF]⟩]

/-- The TMX_ registers (R470). -/
def tmxRegs : List RegInfo :=
  [⟨0x2000000, 4, 1, 0x0, 1, 0, .island, [F.TMX_CTL.BLOCK, F.TMX_CTL.GROUP, F.TMX_CTL.DIV, F.TMX_CTL.EN]⟩,
   ⟨0x2000004, 4, 1, 0x0, 1, 0, .island, [F.TMX_STATUS.UNLOCKED, F.TMX_STATUS.STRAP_LOCKED, F.TMX_STATUS.DRIVING, F.TMX_STATUS.FAILS]⟩,
   ⟨0x2000008, 8, 1, 0x0, 1, 0, .island, [F.TMX_EXPIRY.TICKS]⟩]

/-- The registers of the block an offset lies in (R30). -/
def blockRegs (off : Nat) : List RegInfo :=
  if off < 0x10000 then glbRegs
  else if off < 0x20000 then tbRegs
  else if off < 0x30000 then mbxRegs
  else if off < 0x40000 then irqRegs
  else if off < 0x50000 then pwrRegs
  else if off < 0x60000 then dmaRegs
  else if off < 0x60500 then fabRegs
  else if off < 0x68000 then protRegs
  else if off < 0x80000 then sluRegs
  else if off < 0x100000 then treRegs
  else if off < 0x200000 then dbRegs
  else if off < 0x1000000 then pmcRegs
  else if off < 0x2000000 then peRegs
  else tmxRegs

/-- The index of an offset in a register array, if the register begins there. -/
def RegInfo.indexAt (r : RegInfo) (off : Nat) : Option Nat :=
  if off < r.base then none
  else
    let d := off - r.base
    let i := if r.n1 ≤ 1 then 0 else d / r.s1
    let e := if r.n1 ≤ 1 then d else d % r.s1
    let j := if r.n2 ≤ 1 then 0 else e / r.s2
    let f := if r.n2 ≤ 1 then e else e % r.s2
    if i < r.n1 ∧ j < r.n2 ∧ f = 0 then some (i * r.n2 + j) else none

/-- Search a list of registers for the one that begins at an offset. -/
def findReg : List RegInfo → Nat → Option (RegInfo × Nat)
  | [], _ => none
  | r :: rs, off =>
    match r.indexAt off with
    | some i => some (r, i)
    | none => findReg rs off

/-- The register that begins at a window offset, with its index. -/
def regAt (off : Nat) : Option (RegInfo × Nat) := findReg (blockRegs off) off

/-- The reset value of a field: the tables' values, with the two that depend on the index (R336: PORT is n[0];
R441: IDLE_US is 10,000 for domains 0 to 47). -/
def Fld.resetAt (f : Fld) (i : Nat) : Nat :=
  if f.num = F.DMA_CHn_CTL.PORT.num then i % 2
  else if f.num = F.PWR_Dd_IDLE.IDLE_US.num then (if i < 48 then 10000 else 0)
  else f.reset

end Sys2Proof.Machine
end

