-- ==== Sys2Proof/Machine/SMap.lean ====
section
/-! DEFINITION. Sparse maps as plain data: a list of key and value pairs with rising keys, holding no entry equal to the
value an unlisted key reads as. Every numbered collection of the complex (terminals, rings, key slots, register fields …)
is held this way, so that equal contents are equal data. -/

namespace Sys2Proof.Machine

/-- A key: the object's number, or a pair of numbers such as (tree, terminal). -/
abbrev Key := Nat × Nat

/-- Keys in rising order. -/
def keyLt (a b : Key) : Bool := a.1 < b.1 || (a.1 == b.1 && a.2 < b.2)

/-- A sparse map. -/
abbrev SMap (α : Type) := List (Key × α)

/-- The entry listed for a key. -/
def smFind {α : Type} : SMap α → Key → Option α
  | [], _ => none
  | (k', v) :: r, k => if k' = k then some v else smFind r k

/-- The value at a key, `d` where none is listed. -/
def smGet {α : Type} (d : α) (m : SMap α) (k : Key) : α := (smFind m k).getD d

/-- List a value at its place in the order. -/
def smPut {α : Type} : SMap α → Key → α → SMap α
  | [], k, v => [(k, v)]
  | (k', v') :: r, k, v =>
    if k' = k then (k, v) :: r
    else if keyLt k k' then (k, v) :: (k', v') :: r
    else (k', v') :: smPut r k v

/-- Take a key out. -/
def smDel {α : Type} (m : SMap α) (k : Key) : SMap α := m.filter (fun e => decide (e.1 ≠ k))

/-- Write a value; writing what an unlisted key reads as takes the entry out. -/
def smSet {α : Type} [DecidableEq α] (d : α) (m : SMap α) (k : Key) (v : α) : SMap α :=
  if v = d then smDel m k else smPut m k v

/-- Change the value at a key. -/
def smMod {α : Type} [DecidableEq α] (d : α) (m : SMap α) (k : Key) (f : α → α) : SMap α :=
  smSet d m k (f (smGet d m k))

/-- Keys strictly rise. -/
def smSorted {α : Type} : SMap α → Bool
  | [] => true
  | [_] => true
  | a :: b :: r => keyLt a.1 b.1 && smSorted (b :: r)

/-- The canonical form: rising keys, no entry equal to the unlisted value. -/
def smWf {α : Type} [DecidableEq α] (d : α) (m : SMap α) : Bool :=
  smSorted m && m.all (fun e => decide (e.2 ≠ d))

end Sys2Proof.Machine
end

