-- ==== Sys2Proof/Machine/State.lean ====
section
/-! DEFINITION. The state of the complex as plain data: every register field, queue, record, buffer and counter the spec
gives it, the queue of waiting commands, and the model's own fields (`pending`, `freeCtr`, `out`). Collections are sparse
maps in one canonical form; a register field's value stands in `fields` under its number and index, its reset value
being what an unlisted field reads as. -/

namespace Sys2Proof.Machine

/-- Why a step stops with a fault. The complex has no such stop (INVENTORY, Faults): no meaning raises it. -/
inductive Fault where
  /-- No command raises this; it stands because the interface asks for a type of faults. Safe: nothing rests on it. -/
  | none_
  deriving DecidableEq, Repr

/-- Why a command is refused. -/
inductive Refusal where
  /-- A command without a meaning in this model, by its mnemonic. Raised by no arm of `exec` that calls a meaning.
  Safe: a refused command proves nothing about the complex. -/
  | notModelled (mnemonic : String)
  deriving DecidableEq, Repr

/-- Byte-addressed memory: addresses strictly rising, no byte equal to what an unlisted address reads as (0). -/
abbrev Mem := List Host.Cell

/-! ### Shared -/

/-- A tide instant: N in 1/256 ns (R48), so that instants compare as numbers. -/
abbrev Tide := Nat

/-- A bandwidth map for one frame. -/
structure BwMap where
  f : Int
  grants : List Grant
  deriving DecidableEq, Repr

/-- The downstream PLOAM messages the rules name; their 48 bytes are the profile standard's (R80, R113, R128, R137). -/
inductive PloamMsg where
  | assignOnuId (serial : Nat)
  | rangingTime (units : Int)
  | deregister
  | disable
  | enable
  | sleepAllow (allowed : Bool)
  | burstProfile (rate index : Nat) (defined : Bool)
  | firmware (kind : Nat)
  deriving DecidableEq, Repr

/-- A downstream PLOAM message: its terminal (1,023 all), what it says, the instant it was queued, and whether it is for the
URGENT queue (R80, R81). -/
structure Ploam where
  term : Nat
  msg : PloamMsg
  at_ : Int
  urgent : Bool
  deriving DecidableEq, Repr

/-- What an engine drives on one of its ports (R194, R195): a read of a register, a read of the queue's head, a write of a
register, an append, the removal of the head. -/
inductive PortAct where
  | read (reg : Nat)
  | head
  | write (reg val : Nat)
  | push (val : Nat)
  | remove
  deriving DecidableEq, Repr

/-- What a read of a word under the 36/32 symbol code finds (R249). -/
inductive WordObs where
  | clean | corrected | uncorrectable
  deriving DecidableEq, Repr

/-- What leaves the complex through its boundary: the model's own record of it, newest first (log entry 8). -/
inductive Output where
  /-- an interrupt message (R28, R303) -/
  | irq (vec : Nat)
  /-- the data a window read returned (R31) -/
  | readData (port val : Nat)
  /-- a transaction begins on a management bus: first the switch's address and control byte, then the module's address,
  the offset, how many bytes, and those written (R19) -/
  | modBus (bus sw ctrl tree dev off count : Nat) (write : Bool) (bytes : List Byte)
  /-- nine clocks and a stop free a bus (R20) -/
  | modBusFree (bus : Nat)
  /-- an RXRST pulse: leading and trailing edge in 1/256 ns of tide, and the level between them (R16, R18) -/
  | rxrst (tree : Nat) (lead trail : Int) (level : Bool)
  /-- a rising edge on PPS_OUT (R68) -/
  | ppsOut
  /-- a rising edge on FSTROBE_OUT, with the frame it begins (R13, R68) -/
  | fstrobe (f : Int)
  /-- a downstream frame's head: the PSBd with superframe count and PON-ID, the HLend with the numbers of allocation structures
  and PLOAM messages, the map and its kind, the PLOAM messages (R76, R77) -/
  | dsFrame (tree f pon structs msgs kind : Nat) (map : List Grant) (ploam : List Ploam)
  /-- a fragment downstream: port, key slot (slot, bank, key index) where encrypted, whether it begins and ends its frame,
  plain bytes (R82, R84, R88) -/
  | xgem (tree port : Nat) (key : Option (Nat × Nat × Nat)) (first last : Bool) (bytes : List Byte)
  /-- the last bytes of the fragment sent last go out as zeros (R93) -/
  | xgemCut (tree zeros : Nat)
  /-- an idle XGEM frame of so many bytes, its header among them (R77, R82) -/
  | xgemIdle (tree bytes : Nat)
  /-- the FS trailer that ends a downstream frame (R77) -/
  | dsTrailer (tree : Nat)
  /-- a PLOAM message with a registration ID passed to host software (R132): tree, terminal, the ID -/
  | hostPloam (tree term : Nat) (regId : List Byte)
  /-- a frame on a trunk lane upstream with its 16-byte header (R266) -/
  | trunk (lane cls : Nat) (hdr bytes : List Byte)
  /-- downstream credit returned to the forwarding engine (R271) -/
  | credit (lane cls n : Nat)
  /-- a cell's turn on a fabric link (R375, R376) -/
  | cell (link : Nat) (c : TxCell)
  /-- a codeword on the two lanes of a fabric link, its blocks scrambled and in block order (R369) -/
  | codeword (link : Nat) (blocks : List LaneBlock)
  /-- a value an engine drives on one of its ports: engine, port, register, value (R195) -/
  | pePort (eng port : Nat) (act : PortAct)
  /-- a rail command on the power bus: address, enable, setpoint (R439) -/
  | rail (addr : Nat) (en : Bool) (setpoint : Nat)
  /-- the cipher engine is told to erase, load or switch a slot's bank (R28) -/
  | cipher (op slot bank : Nat)
  deriving DecidableEq, Repr

/-! ### Boundary (01_boundary.md) -/

/-- A module transaction waiting on a management bus (R19 to R22); `poll` marks one of the sequence a firmware poll is,
with the standard its module was found to follow (0 not known yet) and its place in the sequence. -/
structure ModTx where
  tree : Nat
  poll : Bool
  dev : Nat
  off : Nat
  write : Bool
  count : Nat
  data : Nat
  /-- it runs on the bus now -/
  started : Bool
  std : Nat
  place : Nat
  deriving DecidableEq, Repr

/-- What a low-half read latched for one host port (R31, R73). -/
structure PortHold where
  high : Nat
  fracA : Nat
  fracB : Nat
  tideP : Nat
  deriving DecidableEq, Repr

/-- Island, resets, window ports and management buses. -/
structure Boundary where
  supplyOk : Bool
  aonRstN : Bool
  islandUp : Bool
  oscOk : Bool
  cplxRst : Bool
  softRst : Bool
  holds : SMap PortHold
  modQ : SMap (List ModTx)
  wakeOut : List Nat
  /-- the level at each SD ball (R17) -/
  sd : SMap Bool
  deriving DecidableEq, Repr

/-- Right after the island's start-up: supply good, oscillator stable, complex reset still asserted (R37 steps 3 and 4). -/
def Boundary.reset : Boundary :=
  { supplyOk := true, aonRstN := true, islandUp := true, oscOk := true, cplxRst := true, softRst := false,
    holds := [], modQ := [], wakeOut := [], sd := [] }
def PortHold.reset : PortHold := ⟨0, 0, 0, 0⟩

/-! ### Timebase (02_tide_timebase.md) -/

/-- A time domain: its base time in 2^-16 ns and its base count, the CTC in 2^-32 ns (R43). -/
structure DomainBase where
  base : Nat
  cnt : Nat
  deriving DecidableEq, Repr

/-- The timebase: the CTC in 2^-32 ns (R41), the bases of domains A and B, the tide count N in 2^-76 ns, the unit in
which every product of a step and a rate is whole (R48, R49), the fabric peer's tide as last measured with the CTC of
that measurement (R48, R386), the CTC at the last PPS_OUT edge and the whole second PPS_OUT has reached (R68), the phase
of the core clock against the 25 MHz reference in 2^-32 ns, the start of the calibration window (ledger and CTC) with the
CTCs at the ends of windows not compared yet (R70), and the ledger at the timebase's leaving ON (R71). -/
structure Timebase where
  ctc : Nat
  baseA : DomainBase
  baseB : DomainBase
  tideQ : Int
  peer : Option (Int × Nat)
  peerLost : Bool
  lastDiff : Int
  /-- the rate the tide last took, in 2^-44, 1 included (R53) -/
  tideRate : Int
  lastPps : Option Int
  ppsSec : Int
  ledgerSub : Nat
  calStart : Option (Nat × Nat)
  calEnds : List Nat
  sleptAt : Option Nat
  deriving DecidableEq, Repr

def Timebase.reset : Timebase :=
  { ctc := 0, baseA := ⟨0, 0⟩, baseB := ⟨0, 0⟩, tideQ := 0, peer := none, peerLost := false, lastDiff := 0, tideRate := 2 ^ 44,
    lastPps := none, ppsSec := 0, ledgerSub := 0, calStart := none, calEnds := [], sleptAt := none }

/-! ### Trees and key slots (03_tree_downstream.md) -/

/-- Where a staged frame came from: the trunk, or an entry of a host TX ring. -/
inductive Origin where
  | trunk
  | host (ring idx : Nat)
  deriving DecidableEq, Repr

/-- A frame in a tree's egress staging (R82, R264, R288): its terminal, class, flow port, bytes with FCS, origin, the
host descriptor's flags and its launch instant; `omci` marks a DEST 3 message. -/
structure Staged where
  term : Nat
  cls : Nat
  port : Nat
  bytes : List Byte
  origin : Origin
  flags : Nat
  launch : Option Int
  omci : Bool
  /-- its cells in the brine pool -/
  cell : Nat
  /-- its timestamp at trunk ingress (R291) -/
  tsNs : Nat
  tsInfo : Nat
  deriving DecidableEq, Repr

/-- The frame partly sent across an FS frame boundary (R84, R92): what is left, the slot, bank and key index of its first
fragment, and the FS frame and length of the fragment sent last. -/
structure InFlight where
  frame : Staged
  left : Nat
  slot : Option Nat
  bank : Bool
  keyIndex : Nat
  fragF : Int
  frag : Nat
  /-- all bytes have entered the cipher engine (R93) -/
  whole : Bool
  /-- the completion a host frame gets once it has left -/
  done : List Byte
  deriving DecidableEq, Repr

/-- A pending TREE_ENABLE start (R104, R108): the frame asked for, and the source still owed a response. -/
structure Start where
  at_ : Option Int
  notBefore : Int
  src : Option Src
  deriving DecidableEq, Repr

/-- What a tree engine holds beside its registers. -/
structure Tree where
  usRates : Nat
  dormantFrames : Nat
  surveyPeriod : Nat
  surveyLen : Nat
  /-- the three settings above as they apply until a frame (R106): the frame from which the new ones do, and the old -/
  oldTimes : Option (Int × Nat × Nat × Nat)
  start : Option Start
  /-- a DORMANT tree has been woken and enters ACTIVE at its first boundary after its domain is ON, `firstF` (R102) -/
  woken : Bool
  /-- that wake brings the minimum stay of R105 -/
  survey : Bool
  firstF : Option Int
  stayUntil : Option Int
  emptyRun : Nat
  /-- state code taken at the boundary that ends the last frame (R100, R102) -/
  leaving : Option Nat
  /-- warm frames still to send (R79) -/
  warm : Nat
  txOn : Bool
  urgent : List Ploam
  normal : List Ploam
  held : List Ploam
  relMap : Option BwMap
  latched : Option BwMap
  /-- kind of the map latched for the present or coming frame: 0 released, 1 hold, 2 empty (R78) -/
  mapKind : Nat
  /-- PLOAM_MAX as the latch took it (R106) -/
  ploamMax : Option Nat
  /-- the broadcast slot in force until the next frame, where TREE_CONFIG changed it (R106) -/
  bcastOld : Option (Option Nat)
  /-- the frame being sent is a warm frame (R79) -/
  warmNow : Bool
  xgemLeft : Nat
  staged : List Staged
  inFlight : Option InFlight
  deficit : SMap Nat
  rrLast : Nat
  /-- the image the tree runs: kind and build (R364) -/
  image : Option (Nat × Nat)
  /-- the frame most recently begun by DS_FRAME_START, so that one boundary is met once (log entry 7) -/
  begun : Option Int
  /-- end of the burst granted before the next one, for R16 -/
  lastBurstEnd : Option Int
  deriving DecidableEq, Repr

def Tree.reset : Tree :=
  { usRates := 0, dormantFrames := 0, surveyPeriod := 0, surveyLen := 0, oldTimes := none, start := none, woken := false, survey := false,
    firstF := none, stayUntil := none, emptyRun := 0, leaving := none, warm := 0, txOn := false, urgent := [], normal := [],
    held := [], relMap := none, latched := none, mapKind := 2, ploamMax := none, bcastOld := none, warmNow := false, xgemLeft := 0, staged := [],
    inFlight := none, deficit := [], rrLast := 0, image := none, begun := none, lastBurstEnd := none }

/-- A bank of a key slot: key, key index, state (0 EMPTY, 1 VALID, 2 RETIRED) and the frame it retired in (R88, R124). -/
structure Bank where
  key : Nat
  index : Nat
  state : Nat
  retiredF : Int
  deriving DecidableEq, Repr

def Bank.empty : Bank := ⟨0, 0, 0, 0⟩

/-- A key slot (R87): bound or not, its owner, its banks, which of the two physical banks is current, and a pending switch
frame (R91). -/
structure KeySlot where
  bound : Bool
  kind : Nat
  tree : Nat
  term : Nat
  cur : Bank
  next : Bank
  phys : Bool
  switchF : Option Int
  deriving DecidableEq, Repr

def KeySlot.free : KeySlot := ⟨false, 0, 0, 0, Bank.empty, Bank.empty, false, none⟩

/-! ### Upstream and terminals (04_tree_upstream.md) -/

/-- A terminal's sleep windows (R137): the mode, the frame from which its first asleep interval runs, whether it has
asked to be awake, and the interval it is in (asleep or aware) with the frame that interval began. -/
structure SleepWin where
  mode : Nat
  fromF : Int
  opened : Bool
  asleep : Bool
  sinceF : Int
  closing : Bool
  /-- the asleep and the aware interval in frames, as they stood at the request (R141) -/
  lp : Nat
  aw : Nat
  deriving DecidableEq, Repr

/-- A terminal record (R128, R140, R141, R146). -/
structure Term where
  state : Nat
  serial : Nat
  rates : Nat
  regCheck : Bool
  regId : List Byte
  slot : Option Nat
  /-- equalisation delay and last valid RTD, 1/256 ns -/
  eqd : Int
  rtd : Int
  sleepModes : Nat
  lowpower : Nat
  aware : Nat
  wakeKib : Nat
  win : Option SleepWin
  /-- sleep is not allowed: treated as awake after the next aware interval begins (R138) -/
  forceAwake : Bool
  cause : Nat
  sinceF : Int
  bursts : Nat
  missed : Nat
  fecCorr : Nat
  fecUncorr : Nat
  bipErr : Nat
  drifts : List Int
  tries : Nat
  /-- the frame that carried its ranging-time or deregistration message (R128, R143) -/
  rangedF : Option Int
  ranged : Bool
  lob : Nat
  lostF : Int
  /-- removed, its deregistration not sent yet (R143) -/
  removing : Bool
  /-- a ranging request waits to enter Sluice's queue (R161) -/
  wantsRange : Bool
  /-- the last instant at which a burst named this terminal in another's grant, or light ran past its burst (R116, R135) -/
  evidence : Option Int
  lightRun : Nat
  /-- bursts granted and missed in the frame being received (R133) -/
  gotF : Nat
  missF : Nat
  deriving DecidableEq, Repr

def Term.unused : Term :=
  { state := 0, serial := 0, rates := 0, regCheck := false, regId := [], slot := none, eqd := 0, rtd := 0,
    sleepModes := 0, lowpower := 0, aware := 0, wakeKib := 0, win := none, forceAwake := false, cause := 0, sinceF := 0,
    bursts := 0, missed := 0, fecCorr := 0, fecUncorr := 0, bipErr := 0, drifts := [], tries := 0, rangedF := none,
    ranged := false, lob := 0, lostF := 0, removing := false, wantsRange := false, evidence := none, lightRun := 0,
    gotF := 0, missF := 0 }

/-- A flow port (R144). -/
structure Flow where
  term : Nat
  alloc : Option Nat
  dsEnc : Bool
  usEnc : Bool
  deriving DecidableEq, Repr

def Flow.none_ : Flow := ⟨0, none, false, false⟩

/-- An open reassembly (R120): its flow port and terminal, key index, slot and bank of its first fragment, the bytes so far, the MAX_FRAME
of its first fragment, whether bytes past it were discarded, whether a byte lay in an uncorrectable codeword, its
timestamp and the frame of its last fragment. -/
structure Reasm where
  port : Nat
  term : Nat
  keyIndex : Nat
  slot : Option Nat
  bank : Bool
  bytes : List Byte
  maxFrame : Nat
  oversz : Bool
  bad : Bool
  tsNs : Nat
  tsInfo : Nat
  lastF : Int
  cell : Nat
  deriving DecidableEq, Repr

/-- A burst profile (R113, R114): defined or not, FEC, preamble and delimiter. -/
structure BurstProf where
  defined : Bool
  fec : Bool
  preLen : Nat
  preRepeat : Nat
  prePattern : Nat
  delimLen : Nat
  delimPattern : Nat
  deriving DecidableEq, Repr

def BurstProf.none_ : BurstProf := ⟨false, false, 0, 0, 0, 0, 0⟩

/-- A burst profile's place (R113): the contents set last, the frame from which they apply once their announcement has
been carried, the contents until then, and whether the announcement is still owed. -/
structure BurstSlot where
  now : BurstProf
  old : BurstProf
  fromF : Option Int
  announce : Bool
  deriving DecidableEq, Repr

def BurstSlot.none_ : BurstSlot := ⟨BurstProf.none_, BurstProf.none_, none, false⟩

/-- A burst the latched maps make expected (R112, R115): its terminal, the allocations of its grant in order, its rate
and profile, its frame, and its start and end as tide instants in 1/256 ns. -/
structure Expected where
  term : Nat
  grants : List Grant
  rate : Nat
  bprof : Nat
  f : Int
  start : Int
  stop : Int
  pulsed : Bool
  hunted : Bool
  deriving DecidableEq, Repr

/-- An isolation sweep (R136): the terminal silenced, those still to come, the frame from which it is silent, and whether
the last frame judged was a rogue frame. -/
structure Sweep where
  term : Nat
  rest : List Nat
  fromF : Int
  rogue : Bool
  deriving DecidableEq, Repr

/-- What the upstream half of a tree engine holds. -/
structure TreeUs where
  discovery : List (Nat × Nat)
  expected : List Expected
  rogueRun : Nat
  sweep : Option Sweep
  announceF : Int
  /-- drifts by terminal while the tree listens (R402) -/
  drifts : SMap (List Int)
  /-- allocation and flow port of frames dropped under R125 whose later fragments may still come -/
  dead : List (Nat × Nat)
  /-- spans of discovery windows opened, for R134 -/
  windows : List (Int × Int)
  deriving DecidableEq, Repr

def TreeUs.reset : TreeUs := ⟨[], [], 0, none, 0, [], [], []⟩

/-! ### Sluice (05_sluice.md) -/

/-- An allocation (R150 to R153, R183). -/
structure Alloc where
  allocId : Nat
  term : Nat
  cls : Nat
  dbru : Bool
  bprof : Nat
  rate : Nat
  weight : Nat
  fixed : Nat
  assured : Nat
  max : Nat
  bucket : Nat
  anchor : Nat
  deriving DecidableEq, Repr

/-- An allocation's last valid report, with the frame of the map whose burst carried it (none before the first), and the
bytes granted in released maps by frame (R155). -/
structure Report where
  q : Option (Nat × Int)
  granted : List (Int × Nat)
  deriving DecidableEq, Repr

def Report.none_ : Report := ⟨none, []⟩

/-- One unit's data of one tree: accounts in 1/256 byte, reports, frames since an allocation's last grant and since a
terminal's last PLOAMu, the positions of passes 6 and 7, the first terminal last laid out (R155, R160, R165). -/
structure SluTree where
  acct : SMap Int
  reports : SMap Report
  since : SMap Nat
  ploamuSince : SMap Nat
  pos6 : Nat
  pos7 : Nat
  firstTerm : Nat
  /-- a RESYNC unit's copy of the tree: 0 not begun, 1 its interval runs, 2 complete (R178) -/
  copy : Nat
  /-- the map built for the coming frame, whether it meets R166 by the inputs of its cutoff, and the allocations that the limit
  of R164 left out of it -/
  built : Option BwMap
  ok : Bool
  cutTo512 : Nat
  deriving DecidableEq, Repr

def SluTree.reset : SluTree :=
  { acct := [], reports := [], since := [], ploamuSince := [], pos6 := 0, pos7 := 0, firstTerm := 0, copy := 0,
    built := none, ok := false, cutTo512 := 0 }

/-- A Sluice unit beside its state code: forecast records (tree x 4,096 + allocation, frame) to bytes, the run of R179,
consecutive failed tests, a held retest, the frame its copy completed, and the decision instant of a switch-over that
keeps maps back (R176). -/
structure SluUnit where
  forecasts : SMap Nat
  passed : Bool
  ownRun : Nat
  failedTests : Nat
  heldRetest : Bool
  cleanFrom : Option Int
  deriving DecidableEq, Repr

def SluUnit.reset : SluUnit := ⟨[], false, 0, 0, false, none⟩

/-- A tree's quiet window (R161, R471): discovery or ranging with its terminal, the frame whose map was being built as it was
decided, the frame of its grant, its span as tide instants. -/
structure Quiet where
  ranging : Bool
  term : Nat
  decided : Int
  grantF : Int
  rate : Nat
  lo : Int
  hi : Int
  deriving DecidableEq, Repr

/-- What Sluice holds per tree for both units: the quiet window, the ranging queue, the frame in which the last window
that ended was decided, and whether a discovery window falls due. -/
structure SluShared where
  quiet : Option Quiet
  rangeQ : List Nat
  lastWin : Int
  due : Bool
  /-- terminals of which firmware asks a PLOAMu (R160) -/
  askPloamu : List Nat
  deriving DecidableEq, Repr

def SluShared.reset : SluShared := ⟨none, [], 0, false, []⟩

/-- Sluice as a whole: whether an image has been started (R180), the instant of the last switch-over (R176), whether the
last map released was a compared one (R175), and whether maps go unchecked until the other unit is HOT_STANDBY (R179). -/
structure Sluice where
  started : Bool
  switchAt : Option Int
  compared : Bool
  untilHot : Bool
  deriving DecidableEq, Repr

def Sluice.reset : Sluice := ⟨false, none, false, false⟩

/-! ### Pan engines (06_pan_engines.md) -/

/-- An event queued on a line (R197): payload, short tuple of the tide at its arrival, the CTC then (2^-32 ns), whether it
is an abandoned routine put back at the head (R202), the restarts by recoverable faults so far (R203) and by either cause
(R215). -/
structure PendEvent where
  payload : Nat
  tuple : Nat
  arrived : Nat
  rearmed : Bool
  restarts : Nat
  again : Nat
  deriving DecidableEq, Repr

/-- A staged effect (R198). -/
inductive Effect where
  | st (addr val : Nat)
  | pwr (port reg val : Nat)
  | ppush (port val : Nat)
  | ppop (port : Nat)
  deriving DecidableEq, Repr

/-- A register awaiting an LD, PRD or PPOP result (R194): the register, the operation, the port (an LD's address), and the word an LD read. -/
structure MopPend where
  reg : Nat
  op : Nat
  port : Nat
  val : Nat
  deriving DecidableEq, Repr

/-- A running routine (R197 to R203): mode (0 SERVICE, 1 DISPATCH, 2 test ROM), line or opcode, priority, half, its event,
the checkpoint of registers and flags, tail, protected, restarts by recoverable faults and by either cause, the
commit-distance count and the cycles since entry as the next microword executes, return stack, microaddress, staged
effects. -/
structure Routine where
  mode : Nat
  line : Nat
  prio : Nat
  half : Option Nat
  entry : Nat
  ev : PendEvent
  ckRegs : List Nat
  ckFlags : Nat
  tail : Bool
  prot : Bool
  restarts : Nat
  again : Nat
  dist : Nat
  cyc : Nat
  stack : List Nat
  uaddr : Nat
  staged : List Effect
  deriving DecidableEq, Repr

/-- An image being loaded into an engine (R212): the half or none for a Sluice image, its build and body. -/
structure EngLoad where
  half : Option Nat
  build : Nat
  body : List Byte
  deriving DecidableEq, Repr

/-- A pan engine beside its registers: control store, work memory, entry table, dispatch table, general registers, flags
(bit 0 Z, 1 N, 2 C, 3 V), line queues, dispatch queue of (opcode, operand), running routine, registers awaiting results,
sampling buffer and the matching microwords counted by the sampler, a STOP that waits for END, events that arrived after
the engine stopped fetching, loads under way, and the TREE_ENABLE owed the end of recovery (R209); the opcodes the control
processor has still to queue, the loads that recovery repeats at its end, and the memories whose contents are undefined: 0 and
1 the control store's halves, 2 and 3 the work memory's (R207, R208). -/
structure Engine where
  cs : SMap Nat
  wm : SMap Nat
  entries : SMap Nat
  disp : SMap Nat
  regs : List Nat
  flags : Nat
  lines : SMap (List PendEvent)
  dq : List (Nat × Nat)
  run : Option Routine
  busy : List MopPend
  samples : SMap Nat
  sampCnt : Nat
  stop : Bool
  lost : Nat
  loads : List EngLoad
  recovering : Bool
  recover : Option Src
  todo : List (Nat × Nat)
  reload : List EngLoad
  undef : List Nat
  deriving DecidableEq, Repr

def Engine.reset : Engine :=
  { cs := [], wm := [], entries := [], disp := [], regs := [], flags := 0, lines := [], dq := [], run := none, busy := [],
    samples := [], sampCnt := 0, stop := false, lost := 0, loads := [], recovering := false, recover := none, todo := [],
    reload := [], undef := [] }


/-! ### Tables (07_tables.md) -/

/-- A table entry (R225): bits [111:0] of its word (key, tree, direction, profile, number of atoms) as one number, then the
other fields. -/
structure TblEntry where
  tkey : Nat
  kind : Nat
  hit : Bool
  cls : Nat
  age : Nat
  term : Nat
  port : Nat
  handle : Nat
  counter : Nat
  alloc : Nat
  drop : Bool
  host : Bool
  copy : Bool
  ring : Nat
  deriving DecidableEq, Repr

/-- A key profile (R222). -/
structure KeyProfile where
  learn : Bool
  natoms : Nat
  miss : Nat
  partner : Nat
  defCls : Nat
  atoms : List Nat
  select : Nat
  missRing : Nat
  defHandle : Nat
  bcastPort : Nat
  deriving DecidableEq, Repr

/-- A perfect-match filter slot (R224). -/
structure Filter where
  action : Nat
  ring : Nat
  vid : Nat
  mac : Nat
  macMask : Nat
  vidMask : Nat
  deriving DecidableEq, Repr

def Filter.off : Filter := ⟨0, 0, 0, 0, 0, 0⟩

/-- A learn or a station move waiting to be written (R236, R237). -/
structure LearnReq where
  tkey : Nat
  term : Nat
  port : Nat
  alloc : Nat
  cls : Nat
  handle : Nat
  move : Bool
  deriving DecidableEq, Repr

/-- A table command in the engine's queue (R242): its source, code and payload; of the one begun, what it will answer. -/
structure TblCmd where
  src : Src
  code : Nat
  p : List Byte
  begun : Bool
  deleted : Nat
  deriving DecidableEq, Repr

/-- A flow counter pair (R454). -/
structure FlowPair where
  bytes : Nat
  frames : Nat
  deriving DecidableEq, Repr

/-- A line of the lookup cache (R230): the key it holds, its way, and its HIT. -/
structure CacheLine where
  tkey : Nat
  way : Nat
  hit : Bool
  deriving DecidableEq, Repr

/-- The table engine: state (0 OFF, 1 INIT, 2 READY), entries by (bucket, slot), the cache's lines per set with the most
recently used first, the key a refreshing hit last set HIT of with the core cycle it did (R239), profiles by (tree x 2 + direction, profile), filters by (tree, slot), the learn queue, the command
queue, settings, the sweeper's next bucket, counts of TABLE_STATUS and the flow counter pairs. -/
structure Tables where
  st : Nat
  entries : SMap TblEntry
  cache : SMap (List CacheLine)
  lastHit : Option (Nat × Nat)
  profiles : SMap KeyProfile
  filters : SMap Filter
  learnQ : List LearnReq
  cmds : List TblCmd
  learnEn : Bool
  ageLimit : Nat
  sweepMs : Nat
  sweepPos : Nat
  learned : Nat
  learnDrop : Nat
  aged : Nat
  moved : Nat
  conflicts : Nat
  hits : Nat
  misses : Nat
  ueOne : Nat
  ueBoth : Nat
  noProfile : Nat
  noPort : Nat
  pairs : SMap FlowPair
  deriving DecidableEq, Repr

def Tables.reset : Tables :=
  { st := 0, entries := [], cache := [], lastHit := none, profiles := [], filters := [], learnQ := [], cmds := [], learnEn := true,
    ageLimit := 3, sweepMs := 100000, sweepPos := 0, learned := 0, learnDrop := 0, aged := 0, moved := 0, conflicts := 0,
    hits := 0, misses := 0, ueOne := 0, ueBoth := 0, noProfile := 0, noPort := 0, pairs := [] }


/-! ### Brine pool, buffer stacks, trunk (08_buffers_trunk.md) -/

/-- The cells of one frame (R254 to R256): the region charged (0 upstream, 1 downstream, 2 host), how many are the
region's own and how many the shared region lent, how many holders they have, and whether a cell of the frame was lost (R251). -/
structure BrineObj where
  region : Nat
  own : Nat
  lent : Nat
  holders : Nat
  lost : Bool
  deriving DecidableEq, Repr

def BrineObj.none_ : BrineObj := ⟨0, 0, 0, 0, false⟩

/-- A region's cells in use: of its own, and lent by the shared region. -/
structure RegionUse where
  own : Nat
  lent : Nat
  deriving DecidableEq, Repr

/-- A frame in a downstream queue: flow port, bytes with FCS, origin, host descriptor flags. -/
structure DeepFrame where
  port : Nat
  bytes : List Byte
  origin : Origin
  flags : Nat
  tsNs : Nat
  tsInfo : Nat
  deriving DecidableEq, Repr

/-- A downstream queue (R257, R258): frames in order of admission, the offset of its first byte in its first page, the numbers
of the pages it holds, its head first and its tail last, the SEQ of the next page, drops, and its profile. -/
structure DeepQ where
  frames : List DeepFrame
  headOff : Nat
  pages : List Nat
  seq : Nat
  drops : Nat
  profile : Nat
  deriving DecidableEq, Repr

def DeepQ.reset : DeepQ := ⟨[], 0, [], 0, 0, 0⟩

/-- An admission profile (R261). -/
structure QProf where
  early : Bool
  alpha : Nat
  earlyProb : Nat
  minBytes : Nat
  maxBytes : Nat
  earlyBytes : Nat
  deriving DecidableEq, Repr

def QProf.reset : QProf := ⟨false, 4, 0, 0, 67108864, 0⟩

/-- An upstream frame from reassembly on: trunk header fields (R266), bytes, cells, and the host entry it came from. -/
structure UsFrame where
  tree : Nat
  term : Nat
  alloc : Nat
  port : Nat
  flow : Nat
  cls : Nat
  trunc : Bool
  fcsBad : Bool
  tsValid : Bool
  ts : Nat
  tsInfo : Nat
  bytes : List Byte
  cell : Nat
  origin : Origin
  deriving DecidableEq, Repr

/-- A (lane, class) of the trunk upstream (R269, R272): the brine egress queue, the spill queue with its pages, the SEQ of its
next page and the offset of its first byte, and its back-pressure state (0 OPEN, 1 SPILL, 2 FULL). -/
structure EgressQ where
  brine : List UsFrame
  /-- frames waiting in brine for their spill write (R273) -/
  toSpill : List UsFrame
  spill : List UsFrame
  pages : List Nat
  seq : Nat
  headOff : Nat
  st : Nat
  deriving DecidableEq, Repr

def EgressQ.reset : EgressQ := ⟨[], [], [], [], 0, 0, 0⟩

/-- A downstream frame in ingress awaiting its lookup (R231, R267): lane and class of its credits, segments, tree, bytes,
cells, origin with descriptor flags and launch instant. -/
structure Ingress where
  lane : Nat
  cls : Nat
  segs : Nat
  tree : Nat
  bytes : List Byte
  cell : Nat
  origin : Origin
  flags : Nat
  launch : Option Int
  tsNs : Nat
  tsInfo : Nat
  deriving DecidableEq, Repr

/-- A cut of a queue (R259): the queue's number, the sequence of the last page it kept, and the sequence its tail held. -/
structure Cut where
  queue : Nat
  kept : Nat
  tail : Nat
  deriving DecidableEq, Repr

/-- The settings of BUFFER_CONFIG (R276). -/
structure BufConfig where
  spillEn : Bool
  shrinkEn : Bool
  shrink : Nat
  shrinkMask : Nat
  usCells : Nat
  dsCells : Nat
  hostCells : Nat
  spillOn : Nat
  spillMax : Nat
  dsCredit : Nat
  stageTree : Nat
  stageQ : Nat
  deriving DecidableEq, Repr

def BufConfig.reset : BufConfig :=
  ⟨true, true, 128, 0xFF, 131072, 163840, 65536, 4096, 786432, 4096, 1024, 16384⟩

/-- The queue manager and the trunk port. -/
structure Buffers where
  cfg : BufConfig
  brine : SMap BrineObj
  nextCell : Nat
  use : SMap RegionUse
  retired : Nat
  /-- retired cells taken from a region of their own, the shared region having none free (R255) -/
  retiredOwn : SMap Nat
  queues : SMap DeepQ
  profiles : SMap QProf
  lfsr : Nat
  /-- the free pages of each stack: those given back, the next to be taken first, and the first of those never taken (R258) -/
  freed0 : List Nat
  freed1 : List Nat
  fresh0 : Nat
  fresh1 : Nat
  /-- the link entry of each page (R259) -/
  links : SMap Nat
  cuts : List Cut
  /-- refills asked for and not yet met, by (tree, terminal x 8 + class), oldest first, and the tree served last (R264) -/
  refills : List Key
  lastRefill : Nat
  credits : SMap Nat
  egress : SMap EgressQ
  feReady : Bool
  /-- credits the forwarding engine holds downstream, per (lane, class), and credits not returned while R231 stops it -/
  dsGiven : SMap Nat
  dsOwed : SMap Nat
  dsStarted : Bool
  ingress : List Ingress
  lookupUs : List UsFrame
  /-- lanes whose shrink is posted (R274) -/
  shrunk : List Nat
  deriving DecidableEq, Repr

def Buffers.reset : Buffers :=
  { cfg := BufConfig.reset, brine := [], nextCell := 1, use := [], retired := 0, retiredOwn := [], queues := [], profiles := [],
    lfsr := 0x6C5B, freed0 := [], freed1 := [], fresh0 := 0, fresh1 := 0, links := [], cuts := [], refills := [], lastRefill := 95,
    credits := [], egress := [], feReady := true,
    dsGiven := [], dsOwed := [], dsStarted := false, ingress := [], lookupUs := [], shrunk := [] }

/-! ### Host rings (09_host_rings.md) -/

/-- A frame on its way to an RX or BITTERN ring, with the completion fields of R291. -/
structure RxFrame where
  bytes : List Byte
  reason : Nat
  rxflags : Nat
  tree : Nat
  cls : Nat
  dir : Nat
  term : Nat
  port : Nat
  alloc : Nat
  flow : Nat
  tsNs : Nat
  tsInfo : Nat
  fseq : Nat
  /-- the CTC, in 2^-32 ns, at which the frame was first tried (R298) -/
  tried : Option Nat
  /-- its cells in the brine pool -/
  cell : Nat
  deriving DecidableEq, Repr

/-- An entry a TX ring has taken and not completed in place yet (R295): its index, and its completion once known. -/
structure TxOut where
  idx : Nat
  done : Option (List Byte)
  /-- it waits for host cells or launch room and holds the later entries (R67, R299) -/
  waits : Bool
  /-- it is a launch frame under way, which holds the later entries too (R67) -/
  held : Bool
  deriving DecidableEq, Repr

/-- A ring beside its doorbell slot (R280, R309). -/
structure Ring where
  typ : Nat
  cutThrough : Bool
  eventAll : Bool
  omci : Bool
  sizeLog2 : Nat
  bufCode : Nat
  evq : Nat
  base : Nat
  rxHold : Nat
  reasons : Nat
  trees : Nat
  /-- the tail when the ring was disabled: entries given later are no outstanding work (R311) -/
  drainTail : Option Nat
  /-- the entry found with OWN 0: it is read again at the next doorbell (R285) -/
  early : Option Nat
  /-- the host does not answer the next read of an entry, or the next write of a completion or response (R283) -/
  badRead : Bool
  badWrite : Bool
  /-- the entry whose read failed, and whether it was its fragment table that did (R283, R311) -/
  failed : Option (Nat × Bool)
  /-- the last entry completed (R301) -/
  lastDone : Nat
  fseq : Nat
  rx : List RxFrame
  tx : List TxOut
  deriving DecidableEq, Repr

def Ring.reset : Ring :=
  { typ := 0, cutThrough := false, eventAll := false, omci := false, sizeLog2 := 0, bufCode := 0, evq := 0xFFFF,
    base := 0, rxHold := 0, reasons := 0, trees := 0, drainTail := none, early := none, badRead := false, badWrite := false, failed := none,
    lastDone := 0, fseq := 0, rx := [], tx := [] }

/-- An event queue entry not written yet (R301): completions merged, or a ring state change. -/
structure EvEntry where
  ring : Nat
  index : Nat
  count : Nat
  state : Option Nat
  deriving DecidableEq, Repr

/-- An event queue beside its registers. -/
structure EvQueue where
  sizeLog2 : Nat
  vector : Nat
  base : Nat
  waiting : List EvEntry
  deriving DecidableEq, Repr

def EvQueue.reset : EvQueue := ⟨0, 0, 0, []⟩

/-- A doorbell written while the host rings domain was not ON (R286). -/
structure PendingDb where
  ring : Nat
  tail : Nat
  badRead : Bool
  badWrite : Bool
  deriving DecidableEq, Repr

/-! ### Rake (10_rake_dma.md) -/

/-- A channel program as START or a chain loaded it (R316, R327): addresses with their space bits, signed steps, counts,
DCTL and LINK. -/
structure RakeProg where
  src : Nat
  dst : Nat
  s0 : Int
  d0 : Int
  s1 : Int
  d1 : Int
  s2 : Int
  d2 : Int
  c0 : Nat
  c1 : Nat
  c2 : Nat
  dctl : Nat
  link : Nat
  deriving DecidableEq, Repr

def RakeProg.none_ : RakeProg := ⟨0, 0, 0, 0, 0, 0, 0, 0, 0, 0, 0, 0, 0⟩

/-- A burst whose write has not been fenced or answered (R331): its number on the channel, the destination of its first byte, its
position in the program loaded by its number, and its data where they come from a peripheral (R332). -/
structure RakeIssued where
  serial : Nat
  addr : Nat
  pos : Nat
  run : Nat
  data : List Byte
  deriving DecidableEq, Repr

/-- A fence under way (R331): it covers the bursts numbered below a number; and whether it ends a descriptor. -/
structure RakeFence where
  below : Nat
  desc : Bool
  deriving DecidableEq, Repr

/-- A remote write not answered yet (R387): its tag, the burst it belongs to, address and data, and its failures (R332). -/
structure RemoteWrite where
  tag : Nat
  serial : Nat
  addr : Nat
  data : List Byte
  fails : Nat
  deriving DecidableEq, Repr

/-- A part of a remote read under way (R387): its tag, and its bytes once answered. -/
structure RemotePart where
  tag : Nat
  got : Option (List Byte)
  deriving DecidableEq, Repr

/-- A rake channel beside its registers: the loaded program and its number; CHAIN, REQ and PORT as START sampled them; bytes done
in the program; the instant it is armed for; failures of the present burst; core cycle and length of the burst begun last
(R322); bursts not yet fenced, oldest first, and the fences over them; the parts of a remote read under way and the remote
writes not answered yet (R387); data read and not written yet: the rest of a window element, or a peripheral's data to be written
again (R332); the number of the next burst and the tag of the next remote access; errors the reads of the next link meet. -/
structure RakeChan where
  prog : RakeProg
  run : Nat
  chain : Bool
  req : Nat
  port : Nat
  pos : Nat
  startAt : Option Int
  fails : Nat
  lastBurst : Option (Nat × Nat)
  unfenced : List RakeIssued
  fences : List RakeFence
  remoteRead : List RemotePart
  remoteWrites : List RemoteWrite
  kept : List Byte
  serial : Nat
  tag : Nat
  badLinks : Nat
  deriving DecidableEq, Repr

def RakeChan.reset : RakeChan :=
  { prog := RakeProg.none_, run := 0, chain := false, req := 0, port := 0, pos := 0, startAt := none, fails := 0, lastBurst := none,
    unfenced := [], fences := [], remoteRead := [], remoteWrites := [], kept := [], serial := 0, tag := 1, badLinks := 0 }

/-! ### Control processor (11_calvan_firmware.md) -/

/-- A record of a command for replay (R350). -/
structure TagRec where
  tag : Nat
  req : List Byte
  rsp : List Byte
  deriving DecidableEq, Repr

/-- A tested-with entry (R356). -/
structure TwEntry where
  kind : Nat
  major : Nat
  lo : Nat
  hi : Nat
  deriving DecidableEq, Repr

/-- An image in a slot (R354, R355); `untested` marks one started under ALLOW_UNTESTED (R359). -/
structure Image where
  kind : Nat
  major : Nat
  minor : Nat
  build : Nat
  tw : List TwEntry
  body : List Byte
  untested : Bool
  deriving DecidableEq, Repr

/-- The slots of one image kind (R354). -/
structure ImageSlots where
  staged : Option Image
  current : Option Image
  retained : Option Image
  deriving DecidableEq, Repr

def ImageSlots.empty : ImageSlots := ⟨none, none, none⟩

/-- A response that a command's source is still owed, given while the control processor was restarting (R366). -/
structure Resp where
  status : Nat
  detail : Nat
  payload : List Byte
  deriving DecidableEq, Repr

/-- An image read in progress (R360). -/
structure FwLoad where
  src : Src
  kind : Nat
  length : Nat
  addr : Nat
  deriving DecidableEq, Repr

/-- The control processor's own state. -/
structure CpState where
  /-- sources whose command was taken and continues (R343) -/
  taken : List Src
  /-- the source served last after mailbox 0 (R342): 0 none yet, 1 to 15 mailboxes, 16 the ADMIN ring -/
  lastSrc : Nat
  tags : SMap (List TagRec)
  slots : SMap ImageSlots
  loads : List FwLoad
  /-- image kinds whose untested refusal is held (R359) -/
  heldKinds : List Nat
  /-- sleep ledger count of the first mismatch and the service state before it (R366) -/
  mismatch : Option (Nat × Nat)
  owed : List (Src × Resp)
  deriving DecidableEq, Repr

def CpState.reset : CpState :=
  { taken := [], lastSrc := 0, tags := [], slots := [], loads := [], heldKinds := [], mismatch := none, owed := [] }

/-! ### Deleth fabric (12_deleth_fabric.md) -/

/-- A link beside its registers: the neighbour's serial, the CTC (2^-32 ns) of its last hello, transmit credits per class
(R376), cells waiting for credit, cells of other classes sent since one of class 3 while one waits, the CTCs of
uncorrectable codewords within 1 ms (R372), TIDE exchanges, the arrival and departure tide of the last TIDE cell
received, the address the neighbour queries, and its answers by address: offset and hops (R385, R386). -/
structure FabLink where
  serial : Option Nat
  lastHello : Nat
  credits : List Nat
  txq : List TxCell
  since3 : Nat
  ues : List Nat
  exch : Nat
  lastRx : Option (Int × Int)
  asked : Option Nat
  answers : SMap (Int × Nat)
  hunt0 : List Bool
  hunt1 : List Bool
  prev0 : Nat
  prev1 : Nat
  rx : List (List Byte)
  owed : List Nat
  wire : List TxCell
  helloAt : Nat
  tideAt : Option Nat
  txSeq : Nat
  sinceFill : Nat
  txPrev0 : Nat
  txPrev1 : Nat
  deriving DecidableEq, Repr

def FabLink.reset : FabLink :=
  { serial := none, lastHello := 0, credits := [0, 0, 0, 0], txq := [], since3 := 0, ues := [], exch := 0, lastRx := none,
    asked := none, answers := [], hunt0 := [], hunt1 := [], prev0 := 0, prev1 := 0, rx := [], owed := [0, 0, 0, 0], wire := [],
    helloAt := 0, tideAt := none, txSeq := 0, sinceFill := 0, txPrev0 := 0, txPrev1 := 0 }

/-- A ROUTE held (R381): origin's serial, address and keeper flag, its SEQ, its adjacencies (link, neighbour's address),
and the CTC of its arrival. -/
structure RouteRec where
  serial : Nat
  addr : Nat
  keeper : Bool
  seq : Nat
  adj : List (Nat × Nat)
  at_ : Nat
  deriving DecidableEq, Repr

/-- A CLAIM heard (R380). -/
structure ClaimRec where
  serial : Nat
  addr : Nat
  at_ : Nat
  deriving DecidableEq, Repr

/-- A lease held at the keeper (R384): the holder's address and the CTC of its end. -/
structure LeaseRec where
  holder : Nat
  ends : Nat
  deriving DecidableEq, Repr

/-- The fabric as a whole: the ROUTE database, CLAIMs heard, the candidate address, the CTC of the last state entry or
restart, of the last CLAIM and of the last ROUTE flooded, own CLAIM and ROUTE SEQ, the newest SEQ seen per (serial,
type), leases by pair, the CTC at which this device became keeper, message SEQ per (destination, type), the CTC from
which the domain's leaving waits (R388), and a recomputation owed (R382). -/
structure Fabric where
  db : List RouteRec
  claims : List ClaimRec
  cand : Option Nat
  since : Nat
  lastClaim : Nat
  lastRoute : Nat
  claimSeq : Nat
  routeSeq : Nat
  seen : SMap Nat
  leases : SMap LeaseRec
  keeperSince : Option Nat
  seqs : SMap Nat
  leaveAt : Option Nat
  dirty : Bool
  deriving DecidableEq, Repr

def Fabric.reset : Fabric :=
  { db := [], claims := [], cand := none, since := 0, lastClaim := 0, lastRoute := 0, claimSeq := 0, routeSeq := 0,
    seen := [], leases := [], keeperSince := none, seqs := [], leaveAt := none, dirty := false }


/-! ### Protection (13_protection.md) -/

/-- Bursts granted and found in one upstream frame, by the frame of its map (R399, R404). -/
structure UsCount where
  f : Int
  granted : Nat
  found : Nat
  deriving DecidableEq, Repr

/-- A PROT_PAIR command under way (R393): its source, its fields, the CTC at which it began, and the partner's
announcement once it has come. -/
structure ProtHs where
  src : Option Src
  role : Nat
  pairId : Nat
  partner : Nat
  tableSync : Bool
  slotBase : Nat
  deltaEst : Int
  key : Nat
  at_ : Nat
  theirs : Option Handshake
  deriving DecidableEq, Repr

/-- A switch under way (R413): its frame, the source owed the response, whether the standby has echoed it, and whether it
was forced. -/
structure ProtSwitch where
  at_ : Int
  src : Option Src
  echoed : Bool
  forced : Bool
  deriving DecidableEq, Repr

/-- What was last mirrored to the partner (R397): each record's type, number and body, and the static and pinned table
entries; a changed part is sent with the next frame's records. -/
structure MirrorSnap where
  recs : List (Nat × Nat × List Byte)
  statics : List (List Byte)
  deriving DecidableEq, Repr

/-- A tree's protection beside its PROT_ registers: role (0 none, 1 sender, 2 standby), pair key, TABLE_SYNC, first
standby slot, estimate of δ; the command under way; the partner's last STATUS (state code, lease, tide instant of
arrival); whether the last STATUS sent carried LEASE; a switch under way; going dark at the next boundary;
the frame of a HELD side's silencing, a lease granted since, a STATUS heard since; the CTC at which the own count of the
lease ends, that of the last request, and the earliest next; the frame in which TAKING began; DIGESTs held by frame; the
copy's END; delimiters found against the partner's DIGESTs with the frames hunted (R401); frames of tide difference;
upstream frames observed; the partner's reports; what was mirrored; a QUENCH passed to the partner. -/
structure ProtTree where
  role : Nat
  key : Nat
  tableSync : Bool
  slotBase : Option Nat
  deltaEst : Int
  hs : Option ProtHs
  pState : Nat
  /-- the frame in the header of the partner's last STATUS -/
  pF : Option Int
  pLease : Bool
  /-- the partner's δ as its last STATUS gave it -/
  pDelta : Int
  statusAt : Option Int
  sentLease : Bool
  sw : Option ProtSwitch
  /-- the tree passes to PROT_STANDBY at its next boundary -/
  yielding : Bool
  silenced : Option Int
  silentLease : Bool
  heard : Bool
  leaseEnds : Option Nat
  asked : Option Nat
  askFrom : Nat
  takeF : Int
  digests : List (Int × List Byte)
  copyEnd : Bool
  copied : Nat
  samples : List Int
  huntFrames : Nat
  deltaOk : Bool
  tideBad : Nat
  cur : UsCount
  ups : List UsCount
  reps : List UsCount
  snap : Option MirrorSnap
  /-- sources whose QUENCH was passed to the partner, in order -/
  quench : List Src
  deriving DecidableEq, Repr

def UsCount.zero : UsCount := ⟨0, 0, 0⟩

def ProtTree.reset : ProtTree :=
  { role := 0, key := 0, tableSync := false, slotBase := none, deltaEst := 0, hs := none, pState := 0, pF := none, pLease := false, pDelta := 0,
    statusAt := none, sentLease := false, sw := none, yielding := false, silenced := none, silentLease := false,
    heard := false, leaseEnds := none, asked := none, askFrom := 0, takeF := 0, digests := [], copyEnd := false,
    copied := 0, samples := [], huntFrames := 0, deltaOk := false, tideBad := 0, cur := UsCount.zero, ups := [], reps := [],
    snap := none, quench := [] }


/-! ### Power domains (14_power_domains.md) -/

/-- A domain's sequencing beside its PWR_Dd registers: the current transition's number, the last number given (R425),
the state a rise began from (R429), the lower-layer domains a rise still waits for (R420), the scheduled request with
its instant (R426) and its ledger count (R72), and the counts PWR_STATUS reports uncleared (R440). -/
structure PowerDom where
  curSeq : Nat
  lastSeq : Nat
  from_ : Nat
  waitFor : List Nat
  sched : Option (Nat × Tide)
  schedLedger : Option Nat
  wakes : Nat
  refused : Nat
  /-- the pending request is a latched wake (R435) -/
  latched : Bool
  deriving DecidableEq, Repr

def PowerDom.reset : PowerDom := ⟨0, 0, 2, [], none, none, 0, 0, false⟩

/-- A tree's wake settings in force, taken at entry to RET, and its sentinel's rest (R432, R433). -/
structure Sentinel where
  /-- SD_Tt must be dark for 1 ms before the sentinel arms -/
  mustBeDark : Bool
  sdEn : Bool
  delimEn : Bool
  rate : Nat
  maxErr : Nat
  len : Nat
  pattern : Nat
  deriving DecidableEq, Repr

def Sentinel.reset : Sentinel := ⟨false, true, false, 0, 0, 32, 0⟩

/-! ### Counters, health and debug (15_monitoring_debug.md) -/

/-- A harvest of flow counters through a rake channel (R455): its source and payload. -/
structure Harvest where
  src : Src
  p : List Byte
  deriving DecidableEq, Repr

/-- The monitors of a polled module (R22, R465): standard (0 not polled), alarm and warning flags, temperature, supply,
bias, transmit and receive power, the frame of the last poll, the first daily point of the bias and the last 64 (R464). -/
structure Optic where
  std : Nat
  flags : Nat
  temp : Nat
  supply : Nat
  bias : Nat
  tx : Nat
  rx : Nat
  lastF : Int
  first : Option Nat
  points : List Nat
  deriving DecidableEq, Repr

def Optic.none_ : Optic := ⟨0, 0, 0, 0, 0, 0, 0, 0, none, []⟩

/-- A challenge (R468): its nonce, whether it has expired, and the ledger count at which it was given. -/
structure Challenge where
  nonce : Nat
  expired : Bool
  at_ : Nat
  deriving DecidableEq, Repr

/-- Counters, health and debug: core cycles passed and, per engine domain, the cycle at which it came ON (R450); the
snapshot shadows of named counts, of programmable counters and PE_CYCLES, and the sequence each page's shadows hold, by
(page, offset) (R444, R451); the armed instant (R453); harvests under way; the totals legacy counters count from (R462);
daily wear points by domain (R464); corrected errors of the stacks with their ledger counts, oldest first (R465); modules'
monitors by tree; the outstanding challenge and the ledger count of the fourth failed unlock (R468). -/
structure Monitor where
  cycles : Nat
  onAt : SMap Nat
  namedSh : SMap Nat
  countSh : SMap Nat
  seqSh : SMap Nat
  snapAt : Option Int
  harvests : List Harvest
  legBase : SMap Nat
  wear : SMap (List Nat)
  corrAt : List (Nat × Nat)
  optics : SMap Optic
  challenge : Option Challenge
  failAt : Option Nat
  deriving DecidableEq, Repr

def Monitor.reset : Monitor :=
  { cycles := 0, onAt := [], namedSh := [], countSh := [], seqSh := [], snapAt := none, harvests := [], legBase := [],
    wear := [], corrAt := [], optics := [], challenge := none, failAt := none }


/-! ### The whole machine -/

/-- The state. -/
structure State where
  /-- the commands waiting, first in first out (the task's queue) -/
  pending : List Instr
  /-- the counter behind free values (log entry 2) -/
  freeCtr : Nat
  /-- what has left the complex, newest first (log entry 8) -/
  out : List Output
  /-- host memory (R281, R315 space 0) -/
  hostMem : Mem
  /-- the two scratch areas of the table stacks (R315 space 3), site 1 above site 0 -/
  scratch : Mem
  /-- every register field (R8), by field number and index -/
  fields : SMap Nat
  /-- island, resets, window ports, management buses -/
  bnd : Boundary
  /-- timebase -/
  tb : Timebase
  /-- power domains, by domain -/
  doms : SMap PowerDom
  /-- light sentinels, by tree -/
  sents : SMap Sentinel
  /-- the host has announced sleep (R306) -/
  hostSleep : Bool
  /-- tree engines, by tree -/
  trees : SMap Tree
  /-- key slots of the cipher engine, by handle -/
  slots : SMap KeySlot
  /-- host rings, by number -/
  rings : SMap Ring
  /-- event queues, by number -/
  evqs : SMap EvQueue
  /-- doorbells waiting for their domain (R286) -/
  doorbells : List PendingDb
  /-- control processor -/
  cp : CpState
  /-- terminal records, by (tree, index) -/
  terms : SMap Term
  /-- flow ports, by (tree, port); listed ports exist -/
  flows : SMap Flow
  /-- open reassemblies, by (tree, allocation); listed ones are open -/
  reasms : SMap Reasm
  /-- burst profiles, by (tree, rate x 4 + index) -/
  bprofs : SMap BurstSlot
  /-- upstream halves of the tree engines, by tree -/
  treeUs : SMap TreeUs
  /-- allocations, by (tree, index); listed ones are in use -/
  allocs : SMap Alloc
  /-- the units' data of trees, by (unit, tree) -/
  sluTrees : SMap SluTree
  /-- Sluice units, by unit -/
  sluUnits : SMap SluUnit
  /-- quiet windows and ranging queues, by tree -/
  sluShared : SMap SluShared
  /-- Sluice as a whole -/
  slu : Sluice
  /-- queue manager, brine pool and trunk port -/
  buf : Buffers
  /-- table engine -/
  tabs : Tables
  /-- named counts that have no register (R278, R456, R457), by group and place -/
  counts : SMap Nat
  /-- fabric links, by link -/
  fabLinks : SMap FabLink
  /-- Deleth fabric -/
  fab : Fabric
  /-- protection, by tree -/
  prots : SMap ProtTree
  /-- pan engines, by engine -/
  engs : SMap Engine
  /-- telemetry buffers, by tree, oldest record first (R461) -/
  tel : SMap (List (List Byte))
  /-- the error log, oldest record first (R252) -/
  errLog : List (List Byte)
  /-- the error log overwrote a record (R252) -/
  errOvf : Bool
  /-- protected words that hold errors (R249 to R252; log entry 9) -/
  upsets : List Upset
  /-- rake channels, by channel -/
  chans : SMap RakeChan
  /-- the channel served last plus one, by (host port, priority) (R321) -/
  rakeLast : SMap Nat
  /-- counters, health and debug -/
  mon : Monitor
  deriving DecidableEq, Repr

/-- The machine right after reset: island out of reset with the oscillator stable, the complex reset still asserted and
every switched domain OFF (R37 steps 3 and 4); every register at its reset value, every queue empty. -/
def State.reset : State where
  pending := []
  freeCtr := 0
  out := []
  hostMem := []
  scratch := []
  fields := []
  bnd := Boundary.reset
  tb := Timebase.reset
  doms := []
  sents := []
  hostSleep := false
  trees := []
  slots := []
  rings := []
  evqs := []
  doorbells := []
  cp := CpState.reset
  terms := []
  flows := []
  reasms := []
  bprofs := []
  treeUs := []
  allocs := []
  sluTrees := []
  sluUnits := []
  sluShared := []
  slu := Sluice.reset
  buf := Buffers.reset
  tabs := Tables.reset
  counts := []
  fabLinks := []
  fab := Fabric.reset
  prots := []
  engs := []
  tel := []
  errLog := []
  errOvf := false
  upsets := []
  chans := []
  rakeLast := []
  mon := Monitor.reset

end Sys2Proof.Machine
end

