-- ==== Sys2Proof/Machine/Ops.lean ====
section
/-! DEFINITION. The named operations over the state that every meaning uses: register fields, counters, outputs, free
values, memory, domain states and tree states. -/

namespace Sys2Proof.Machine

/-- What a command answers. -/
abbrev Res := Host.Outcome State Fault Refusal

/-! ### Register fields (R8) -/

/-- The value a register field holds. -/
def State.rd (s : State) (f : Fld) (i : Nat) : Nat := smGet (f.resetAt i) s.fields (f.num, i)

/-- Store a register field, cut to its width. -/
def State.wr (s : State) (f : Fld) (i v : Nat) : State :=
  { s with fields := smSet (f.resetAt i) s.fields (f.num, i) (v % 2 ^ f.w) }

/-- A one-bit field as a Boolean. -/
def State.flag (s : State) (f : Fld) (i : Nat) : Bool := s.rd f i == 1

/-- Set or clear a one-bit field. -/
def State.wrB (s : State) (f : Fld) (i : Nat) (b : Bool) : State := s.wr f i (b2n b)

/-- A counter that saturates. -/
def State.incSat (s : State) (f : Fld) (i n : Nat) : State := s.wr f i (satAdd f.w (s.rd f i) n)

/-- A counter that wraps. -/
def State.incWrap (s : State) (f : Fld) (i n : Nat) : State := s.wr f i (s.rd f i + n)

/-- A signed field. -/
def State.rdS (s : State) (f : Fld) (i : Nat) : Int := toSigned f.w (s.rd f i)

/-! ### One field of the state replaced -/

def State.putBnd (s : State) (x : Boundary) : State := { s with bnd := x }
def State.putTb (s : State) (x : Timebase) : State := { s with tb := x }
def State.putDoms (s : State) (x : SMap PowerDom) : State := { s with doms := x }
def State.putSents (s : State) (x : SMap Sentinel) : State := { s with sents := x }
def State.putDoorbells (s : State) (x : List PendingDb) : State := { s with doorbells := x }
def State.putCp (s : State) (x : CpState) : State := { s with cp := x }
def State.putTerms (s : State) (x : SMap Term) : State := { s with terms := x }
def State.putFlows (s : State) (x : SMap Flow) : State := { s with flows := x }
def State.putReasms (s : State) (x : SMap Reasm) : State := { s with reasms := x }
def State.putBprofs (s : State) (x : SMap BurstSlot) : State := { s with bprofs := x }
def State.putAllocs (s : State) (x : SMap Alloc) : State := { s with allocs := x }
def State.putSluTrees (s : State) (x : SMap SluTree) : State := { s with sluTrees := x }
def State.putSluUnits (s : State) (x : SMap SluUnit) : State := { s with sluUnits := x }
def State.putSlu (s : State) (x : Sluice) : State := { s with slu := x }
def State.putBuf (s : State) (x : Buffers) : State := { s with buf := x }
def State.putTabs (s : State) (x : Tables) : State := { s with tabs := x }
def State.putFab (s : State) (x : Fabric) : State := { s with fab := x }
def State.putTel (s : State) (x : SMap (List (List Byte))) : State := { s with tel := x }
def State.putMon (s : State) (x : Monitor) : State := { s with mon := x }

/-! ### Outputs and free values -/

/-- Something leaves the complex. -/
def State.emit (s : State) (o : Output) : State := { s with out := o :: s.out }

/-- A value the spec does not fix, of `w` bits (log entry 2). -/
def State.free (s : State) (w : Nat) : Nat := Config.freeNat s.freeCtr % 2 ^ w

/-- The free value just read is used up. -/
def State.tickFree (s : State) : State := { s with freeCtr := s.freeCtr + 1 }

/-! ### Memory: host memory and the scratch areas -/

/-- The byte at an address, 0 where none is listed (log entry 3). -/
def memByte : Mem → Nat → Byte
  | [], _ => 0#8
  | (a', b) :: r, a => if a' = a then b else memByte r a

/-- Write a byte, keeping addresses rising and no byte 0 listed. -/
def memPut : Mem → Nat → Byte → Mem
  | [], a, b => if b = 0#8 then [] else [(a, b)]
  | (a', b') :: r, a, b =>
    if a' = a then (if b = 0#8 then r else (a, b) :: r)
    else if a < a' then (if b = 0#8 then (a', b') :: r else (a, b) :: (a', b') :: r)
    else (a', b') :: memPut r a b

/-- Write bytes from an address on. -/
def memPutAll : Mem → Nat → List Byte → Mem
  | m, _, [] => m
  | m, a, b :: r => memPutAll (memPut m a b) (a + 1) r

/-- Bytes from an address on. -/
def memBytes (m : Mem) (a n : Nat) : List Byte := (List.range n).map (fun i => memByte m (a + i))

/-- The canonical form: addresses strictly rising, no byte 0 listed. -/
def memWf : Mem → Bool
  | [] => true
  | [(_, b)] => b != 0#8
  | (a, b) :: (a', b') :: r => b != 0#8 && decide (a < a') && memWf ((a', b') :: r)

/-- Host memory holds its canonical form, and so does the scratch memory. -/
def Memory.wf (s : State) : Bool := memWf s.hostMem && memWf s.scratch

/-- Write host memory. -/
def State.hostWrite (s : State) (a : Nat) (p : List Byte) : State := { s with hostMem := memPutAll s.hostMem a p }

/-- Read host memory. -/
def State.hostRead (s : State) (a n : Nat) : List Byte := memBytes s.hostMem a n

/-! ### Words that hold errors (R248 to R251) -/

/-- The symbols added to a word in error: the code is linear, so the syndromes of R249 are those of what was added. -/
def upsetSymbols (u : Upset) : List Nat :=
  (List.range 36).map (fun p => u.errs.foldl (fun x e => if e.1.val = p then x ^^^ e.2.toNat else x) 0)

/-- What a read of the word finds (R249). -/
def upsetSeen (u : Upset) : WordObs :=
  match checkWord (upsetSymbols u) with
  | .clean => .clean
  | .correctable _ _ => .corrected
  | .uncorrectable => .uncorrectable

/-- Whether an upset is of a word of a memory. -/
def upsetAt (u : Upset) (mem inst addr : Nat) : Bool := u.mem == mem && u.inst == inst && u.addr == addr

def State.putUpsets (s : State) (x : List Upset) : State := { s with upsets := x }

/-- Words hold errors from now on. -/
def State.upset (s : State) (l : List Upset) : State :=
  s.putUpsets (l ++ s.upsets.filter (fun u => !l.any (fun v => upsetAt u v.mem v.inst v.addr)))

/-- What a read of a word finds. -/
def State.wordSeen (s : State) (mem inst addr : Nat) : WordObs :=
  match s.upsets.find? (fun u => upsetAt u mem inst addr) with
  | some u => upsetSeen u
  | none => .clean

/-- Words a test names are rewritten; a stuck one fails again (R251). -/
def State.rewrite (s : State) (which : Upset → Bool) : State := s.putUpsets (s.upsets.filter (fun u => u.stuck || !which u))

/-- A word is rewritten. -/
def State.rewriteWord (s : State) (mem inst addr : Nat) : State := s.rewrite (fun u => upsetAt u mem inst addr)

/-! ### Domains and trees -/

/-- Power state codes of R421. -/
def pwON : Nat := 0
def pwRET : Nat := 1
def pwOFF : Nat := 2
def pwRISING : Nat := 3
def pwFALLING : Nat := 4

/-- A domain's power state; the always-on island (57) is always ON (R419). -/
def State.pw (s : State) (d : Nat) : Nat := if d < 57 then s.rd F.PWR_Dd_STATE.STATE d else pwON

/-- Whether a domain is ON. -/
def State.on (s : State) (d : Nat) : Bool := s.pw d == pwON

/-- The pair domain of a tree (R419). -/
def pairOf (t : Nat) : Nat := t / 2

/-- Tree state codes of TRE_STATE (R109). -/
def trDISABLED : Nat := 0
def trDORMANT : Nat := 1
def trACTIVE : Nat := 2
def trSTANDBY : Nat := 3
def trFAULT : Nat := 4

/-- A tree's state. -/
def State.tstate (s : State) (t : Nat) : Nat := s.rd F.TRE_STATE.STATE t

/-- Whether a tree is ACTIVE or PROT_STANDBY. -/
def State.running (s : State) (t : Nat) : Bool := s.tstate t == trACTIVE || s.tstate t == trSTANDBY

/-- Whether any tree is ACTIVE or PROT_STANDBY. -/
def State.anyRunning (s : State) : Bool := (List.range 96).any (fun t => s.running t)

end Sys2Proof.Machine
end

