-- ==== Sys2Proof/Machine/Flags.lean ====
section
/-! DEFINITION. Event flags: how an event bit sets, when its source counts on an interrupt vector, and when a vector
fires (09_host_rings.md R303 to R306). -/

namespace Sys2Proof.Machine

/-! ### Interrupt vectors (R303 to R306) -/

/-- A vector fire in the counters of block 101 (R446, R447, R449). A wrap sets OVF and the event bit CNT_OVF; what that
event does in turn is `State.overflowEvent`. -/
def State.countFire (s : State) : State :=
  if !s.on 53 then s
  else
    (List.range 8).foldl
      (fun s k =>
        let i := 101 * 8 + k
        if s.flag F.PMC_SELk.EN i ∧ s.rd F.PMC_SELk.EVENT i = 4 ∧ !(k % 2 = 1 && s.flag F.PMC_SELk.CHAIN i) then
          let x := s.rd F.PMC_CNTk.COUNT i + 1
          let s1 := s.wr F.PMC_CNTk.COUNT i x
          if x < 2 ^ 32 then s1
          else
            let s2 := (s1.wr F.PMC_SELk.OVF i 1).wr F.PMC_EVENT.CNT_OVF 0 1
            if k % 2 = 0 ∧ s2.flag F.PMC_SELk.EN (i + 1) ∧ s2.flag F.PMC_SELk.CHAIN (i + 1) then
              let y := s2.rd F.PMC_CNTk.COUNT (i + 1) + 1
              let s3 := s2.wr F.PMC_CNTk.COUNT (i + 1) y
              if y < 2 ^ 32 then s3 else s3.wr F.PMC_SELk.OVF (i + 1) 1
            else s2
        else s) s

/-- The message of vector v is sent: it counts, and AUTOMASK masks the vector (R305). -/
def State.fired (s : State) (v : Nat) : State :=
  let s2 := s.countFire.emit (.irq v)
  if s.flag F.IRQ_VEC_CFG.AUTOMASK v then s2.wr F.IRQ_VEC_CFG.MASK v 1 else s2

/-- A vector's fire condition is met: the message is sent, or PEND sets while the vector is masked; the count returns
to 0 and the timer stops (R305). -/
def State.fireOnly (s : State) (v : Nat) : State :=
  let s1 := (s.wr F.IRQ_VEC_STATE.EVENTS v 0).wr F.IRQ_VEC_STATE.TIMING v 0
  if s.flag F.IRQ_VEC_CFG.MASK v then s1.wr F.IRQ_VEC_STATE.PEND v 1 else s1.fired v

/-- An event of a vector under `fire` as what it does once its condition is met (R305, R306): the event starts the timer
when it is the first, and the condition is met when the count is reached, when the timer is 0, or at each event of a WAKE
vector while the host sleeps. -/
def State.eventBy (fire : State → Nat → State) (s : State) (v : Nat) : State :=
  let n := s.rd F.IRQ_VEC_STATE.EVENTS v + 1
  if n ≥ max 1 (s.rd F.IRQ_VEC_CFG.CNT v) ∨ s.rd F.IRQ_VEC_CFG.TMR v = 0
      ∨ (s.hostSleep ∧ s.flag F.IRQ_VEC_CFG.WAKE v) then fire s v
  else (s.wr F.IRQ_VEC_STATE.EVENTS v n).wr F.IRQ_VEC_STATE.TIMING v 1

/-- A counter of vector fires that wrapped set CNT_OVF, where it was `was` before: newly set and enabled it counts one
event on source 229 (R304, R466). That event's own fire finds CNT_OVF set, so it ends there. -/
def State.overflowEvent (s : State) (was : Bool) : State :=
  if !was ∧ s.flag F.PMC_EVENT.CNT_OVF 0 ∧ bit (s.rd F.PMC_EVENT_EN.EN 0) F.PMC_EVENT.CNT_OVF.lo ∧ s.flag F.IRQ_SRC_MAP.EN 229 then
    s.eventBy State.fireOnly (s.rd F.IRQ_SRC_MAP.VECTOR 229)
  else s

/-- A vector's fire condition is met (R305), with the overflow event that counting its message may raise. -/
def State.fire (s : State) (v : Nat) : State := (s.fireOnly v).overflowEvent (s.flag F.PMC_EVENT.CNT_OVF 0)

/-- One event on a vector (R305, R306). -/
def State.vecEvent (s : State) (v : Nat) : State := s.eventBy State.fire v

/-- A source counts one event on its vector, if it is mapped and enabled (R304). -/
def State.srcEvent (s : State) (src : Nat) : State :=
  if s.flag F.IRQ_SRC_MAP.EN src then s.vecEvent (s.rd F.IRQ_SRC_MAP.VECTOR src) else s

/-- An event bit of source `src` sets; the source counts when the bit was 0 and its enable is on (R304). -/
def State.raise (s : State) (f : Fld) (i : Nat) (enabled : Bool) (src : Nat) : State :=
  if s.flag f i then s
  else
    let s1 := s.wr f i 1
    if enabled then s1.srcEvent src else s1

/-- An event bit whose enable is the bit of the same place in an enable field. -/
def State.raiseEn (s : State) (f : Fld) (i : Nat) (en : Fld) (src : Nat) : State :=
  s.raise f i (bit (s.rd en i) f.lo) src

/-- Events by block: tree (sources 0 to 95, R304). -/
def State.treEvent (s : State) (t : Nat) (f : Fld) : State := s.raiseEn f t F.TRE_EVENT_EN.EN t
def State.treUsEvent (s : State) (t : Nat) (f : Fld) : State := s.raiseEn f t F.TRE_US_EVENT_EN.EN t
/-- Timebase (source 224): the bits named in R304 have no enable register of their own. -/
def State.tbEvent (s : State) (f : Fld) : State := s.raise f 0 true 224
def State.sluEvent (s : State) (f : Fld) : State := s.raiseEn f 0 F.SLU_EVENT_EN.EN 225
def State.pwrEvent (s : State) (f : Fld) : State := s.raiseEn f 0 F.PWR_EVENT_EN.EN 226
def State.fabEvent (s : State) (f : Fld) : State := s.raiseEn f 0 F.FAB_EVENT_EN.EN 227
def State.protEvent (s : State) (f : Fld) : State := s.raiseEn f 0 F.PROT_EVENT_EN.EN 228
def State.pmcEvent (s : State) (f : Fld) : State := s.raiseEn f 0 F.PMC_EVENT_EN.EN 229
def State.mbxEvent (s : State) (f : Fld) : State := s.raiseEn f 0 F.MBX_EVENT_EN.EN 230
/-- IRQ_STATUS bits (source 231, R304). -/
def State.irqStatus (s : State) (f : Fld) : State := s.raise f 0 true 231

end Sys2Proof.Machine
end

