-- ==== Sys2Proof/Machine/Operands.lean ====
section
/-! DEFINITION. The operand forms that commands, descriptors and registers share: tide instants, full and short tide
tuples (02_tide_timebase.md R48, R54 to R57). -/

namespace Sys2Proof.Machine

/-! ### Tide (R48, R54, R56, R57) -/

/-- 1/256 ns in a frame. -/
def frameTicks : Int := 125000 * 256

/-- The tide count N in 1/256 ns (R48). -/
def State.tide (s : State) : Int := s.tb.tideQ / (2 ^ 68 : Nat)

/-- Tree t's stagger phase in 1/256 ns (R54). -/
def treePhase (t : Nat) : Int := (t * 1302 * 256 : Nat)

/-- The tide frame an instant lies in (R48). -/
def frameOf (n : Int) : Int := n / frameTicks

/-- The phase of an instant in 1/256 ns. -/
def phaseOf (n : Int) : Nat := (n % frameTicks).toNat

/-- The boundary of tree t's frame F. -/
def boundary (t : Nat) (F : Int) : Int := F * frameTicks + treePhase t

/-- The frame tree t is in: the last whose boundary is not after now (R6). -/
def State.frame (s : State) (t : Nat) : Int := (s.tide - treePhase t) / frameTicks

/-- A frame number as the 51-bit field registers and commands carry (R56). -/
def f51 (F : Int) : Nat := ofSigned 51 F

/-- A phase word of R56 as 1/256 ns, none where its whole ns exceed 124,999. -/
def phaseWord (p : Nat) : Option Nat := if bits p 8 17 > 124999 then none else some (bits p 0 25)

/-- The 51-bit frame count with given low 39 bits nearest the present, the later on a tie, 0 or more (R57). -/
def nearestFrame (now : Int) (low : Nat) : Int :=
  let span : Int := (2 ^ 39 : Nat)
  let base := (now / span) * span + low
  let c1 := if base - now > span / 2 then base - span else if now - base ≥ span / 2 then base + span else base
  if c1 < 0 then low else c1

/-- A short tuple as an instant, none where its phase is invalid (R57). -/
def State.shortTuple (s : State) (w : Nat) : Option Int :=
  match phaseWord (bits w 0 25) with
  | none => none
  | some p => some (nearestFrame (frameOf s.tide) (bits w 25 39) * frameTicks + p)

/-- An instant as a short tuple (R57). -/
def toShort (n : Int) : Nat := ofSigned 39 (frameOf n) * 2 ^ 25 + phaseOf n

end Sys2Proof.Machine
end

