-- ==== Sys2Proof/Machine/PowerSeq.lean ====
section
/-! DEFINITION. The power-domain controller's shared operations (14_power_domains.md): which domains a domain needs and
the layers of a wake (R419, R420), sequence numbers and pending requests (R425), the start of a rise, wakes with their
latch and record (R431, R435, R436), and the refusals of R424. -/

namespace Sys2Proof.Machine

/-- Every domain that must be ON before domain d can rise, the needs of its needs among them (R419). -/
def needs (d : Nat) : List Nat :=
  if d < 48 then [54, 56, 50, 51, 52]
  else if d = 48 ∨ d = 49 ∨ d = 55 then [54, 56]
  else if d = 50 ∨ d = 51 then [54]
  else if d = 52 then [54, 51]
  else if d = 53 then [54, 51]
  else []

/-- The layer of a domain in a wake (R420). -/
def layer (d : Nat) : Nat :=
  if d < 48 then 3
  else if d = 52 ∨ d = 53 then 2
  else if d = 54 ∨ d = 56 then 0
  else 1

/-- A domain's sequencing record. -/
def State.dom (s : State) (d : Nat) : PowerDom := smGet PowerDom.reset s.doms (d, 0)

def State.setDom (s : State) (d : Nat) (p : PowerDom) : State := { s with doms := smSet PowerDom.reset s.doms (d, 0) p }

/-- The next sequence number: 1 to 65,535, then 1 again (R425). -/
def nextSeq (n : Nat) : Nat := if n ≥ 65535 then 1 else n + 1

/-- Whether a transition runs in a domain. -/
def State.moving (s : State) (d : Nat) : Bool := s.pw d == pwRISING || s.pw d == pwFALLING

/-- A domain's request is pending: replaces any pending request, whose number never takes effect (R425). -/
def State.pend (s : State) (d target : Nat) (latched : Bool) : State :=
  let p := s.dom d
  let n := nextSeq p.lastSeq
  let s := s.setDom d { p with lastSeq := n, latched := latched }
  ((s.wr F.PWR_Dd_STATE.PENDING d 1).wr F.PWR_Dd_STATE.PEND_TARGET d target).wr F.PWR_Dd_SEQ.PEND_SEQ d n

/-- A pending request is dropped; the number shown is the current transition's again. -/
def State.unpend (s : State) (d : Nat) : State :=
  ((s.wr F.PWR_Dd_STATE.PENDING d 0).wr F.PWR_Dd_STATE.PEND_TARGET d 0).wr F.PWR_Dd_SEQ.PEND_SEQ d
    (if s.moving d then (s.dom d).curSeq else 0)

/-- The rails linked to a domain (R439, R442). -/
def State.railsOf (s : State) (d : Nat) : List Nat :=
  (List.range 16).filter (fun k => s.rd F.PWR_POLk.DOMAIN k == d)

/-- A rail is switched on or off over the power bus; a rail switched off is no longer ready (R439). -/
def State.railSet (s : State) (k : Nat) (on : Bool) : State :=
  let s1 := s.emit (.rail (s.rd F.PWR_POLk.BUS_ADDR k) on (s.rd F.PWR_POLk.SETPOINT k))
  if on then s1 else s1.wr F.PWR_POLk.READY k 0

/-- Step 1 of a rise begins: from OFF the linked rails are enabled (R429, R439). -/
def State.beginRegulator (s : State) (d : Nat) : State :=
  let s1 := s.wr F.PWR_Dd_STATE.STAGE d 1
  if (s.dom d).from_ = pwOFF then (s.railsOf d).foldl (fun s k => s.railSet k true) s1 else s1

/-- Whether the layers below a rising domain that its wake named are ON (R420). -/
def State.layersOn (s : State) (d : Nat) : Bool := (s.dom d).waitFor.all (fun e => s.on e)

/-- Rising domains whose lower layers are ON begin step 1 (R420). -/
def State.advanceRises (s : State) : State :=
  (List.range 57).foldl
    (fun s d =>
      if s.pw d = pwRISING ∧ s.rd F.PWR_Dd_STATE.STAGE d = 0 ∧ s.layersOn d then s.beginRegulator d else s) s

/-- A rise of domain d starts with number n, after the domains of `lower` (R420, R425, R440). -/
def State.startRise (s : State) (d n : Nat) (lower : List Nat) : State :=
  let p := s.dom d
  let s1 := s.setDom d { p with curSeq := n, from_ := s.pw d, waitFor := lower, wakes := satAdd 32 p.wakes 1 }
  let s2 := (((s1.wr F.PWR_Dd_STATE.STATE d pwRISING).wr F.PWR_Dd_STATE.TARGET d pwON).wr
    F.PWR_Dd_STATE.STAGE d 0).wr F.PWR_Dd_SEQ.PEND_SEQ d n
  s2.incSat F.PWR_Dd_WAKES.COUNT d 1

/-- One domain of a wake: RET or OFF rises; FALLING latches the wake as the pending request ON (R435); RISING merges,
discarding any pending request (R425); ON is left alone. -/
def State.wakeOne (s : State) (event : List Nat) (d : Nat) : State :=
  if s.pw d = pwON then s
  else if s.pw d = pwRISING then (if s.flag F.PWR_Dd_STATE.PENDING d then s.unpend d else s)
  else if s.pw d = pwFALLING then (s.pend d pwON true).pwrEvent F.PWR_EVENT.WAKE
  else
    let n := nextSeq (s.dom d).lastSeq
    let s1 := s.setDom d { s.dom d with lastSeq := n }
    s1.startRise d n (event.filter (fun e => layer e < layer d))

/-- The domains a wake of d names that are not ON, lower layers first (R420). -/
def State.wakeSet (s : State) (d : Nat) : List Nat :=
  let ev := (needs d ++ [d]).filter (fun e => !s.on e)
  [0, 1, 2, 3].flatMap (fun l => ev.filter (fun e => layer e == l))

/-- A request for ON: every domain of the wake acts in layer order (R420, R425). -/
def State.requestOn (s : State) (d : Nat) : State :=
  let ev := s.wakeSet d
  (ev.foldl (fun s e => s.wakeOne ev e) s).advanceRises

/-- The last-wake record and WAKE_OUT (R25, R436). -/
def State.recordWake (s : State) (d src tree : Nat) : State :=
  let v := s.on 56
  let s1 := (((s.wr F.PWR_LAST_WAKE.DOMAIN 0 d).wr F.PWR_LAST_WAKE.SOURCE 0 src).wr F.PWR_LAST_WAKE.TREE 0 tree).wr
    F.PWR_LAST_WAKE.TIDE_VALID 0 (b2n v)
  let s2 := (s1.wr F.PWR_LAST_WAKE_AT.TUPLE 0 (if v then toShort s.tide else 0)).wr
    F.PWR_LAST_WAKE_LEDGER.TICKS 0 (s.rd F.TB_LEDGER.TICKS 0)
  (s2.putBnd { s2.bnd with wakeOut := s2.bnd.wakeOut ++ (s.wakeSet d).filter (fun e => !s2.bnd.wakeOut.contains e) })

/-- A wake of a domain with its source code and tree (R431, R435): recorded when it starts a rise or is latched; while
the domain is ON with no transition, or RISING, it changes nothing more. While a reset is held every switched domain stays
OFF (R37 step 4). -/
def State.wake (s : State) (d src tree : Nat) : State :=
  if s.bnd.cplxRst ∨ s.bnd.softRst ∨ !s.bnd.oscOk ∨ s.pw d = pwON then s
  else if s.pw d = pwRISING then s.requestOn d
  else (s.recordWake d src tree).requestOn d

/-- Whether a rake channel is ARMED, RUNNING or WAIT_REQ (R319, R335). -/
def State.rakeBusy (s : State) : Bool :=
  (List.range 64).any (fun c => let st := s.rd F.DMA_CHn_STATUS.STATE c; st == 1 || st == 2 || st == 3)

/-- Whether a tree is in a protection pair (R392). -/
def State.paired (s : State) (t : Nat) : Bool := s.rd F.PROT_Tt_STATE.PSTATE t != 0

/-- The detail byte with which a request that would take a domain out of ON, or keep it out, is refused (R424). -/
def State.pwrRefusal (s : State) (d target : Nat) : Option Nat :=
  if d < 48 ∧ (s.running (2 * d) ∨ s.running (2 * d + 1)) then some 0x01
  else if d ∈ [50, 51, 52, 54, 56] ∧ s.anyRunning then some 0x02
  else if (d = 48 ∧ s.rd F.SLU_STATUS.A_STATE 0 = 0) ∨ (d = 49 ∧ s.rd F.SLU_STATUS.B_STATE 0 = 0) then some 0x03
  else if d = 53 ∧ s.rakeBusy then some 0x04
  else if (d < 48 ∧ (s.paired (2 * d) ∨ s.paired (2 * d + 1))) ∨ (d = 55 ∧ (List.range 96).any (fun t => s.paired t))
    then some 0x05
  else if d = 54 ∧ target = pwOFF then some 0x06
  else if (List.range 57).any (fun e => (needs e).contains d && (s.on e || s.moving e)) then some 0x07
  else none

/-- A refused or dropped request counts and is reported (R425 to R427, R430). -/
def State.countRefused (s : State) (d : Nat) : State :=
  let p := s.dom d
  (s.setDom d { p with refused := satAdd 32 p.refused 1 }).incSat F.PWR_Dd_REFUSED.COUNT d 1

/-! ### Sentinels (R432, R433) -/

def State.sent (s : State) (t : Nat) : Sentinel := smGet Sentinel.reset s.sents (t, 0)

/-- The light sentinel of a tree is armed (R432). -/
def State.armed (s : State) (t : Nat) : Bool :=
  (s.sent t).sdEn && decide (s.tstate t = trDORMANT) && !s.on (pairOf t) && !(s.sent t).mustBeDark

/-- A tree's receiver listens in retention (R433). -/
def State.listens (s : State) (t : Nat) : Bool :=
  (s.sent t).delimEn && decide (s.tstate t = trDORMANT) && decide (s.pw (pairOf t) = pwRET)

end Sys2Proof.Machine
end

