-- ==== Sys2Proof/Machine/WindowOps.lean ====
section
/-! DEFINITION. The rules every access to the register window obeys (01_boundary.md R31, R32, R34): the errors it
records and the domain that must be ON. -/

namespace Sys2Proof.Machine

/-- The domain that answers for debug block b (R446): tree engines share their pair's domain. -/
def blockDom (b : Nat) : Nat :=
  if b < 96 then b / 2
  else if b < 102 then b - 48
  else b - 47

/-- The domain that answers for pan engine e (R419). -/
def engDom (e : Nat) : Nat := if e < 48 then e else if e < 56 then 48 else 49

/-- Whether the domain of a register is ON (R32). -/
def State.regOn (s : State) (r : RegInfo) (i : Nat) : Bool :=
  match r.dom with
  | .island => true
  | .fixed d => s.on d
  | .pair => s.on (pairOf i)
  | .engine => s.on (engDom (i / r.n2))
  | .block => s.on (blockDom (i / r.n2))

/-- An erroneous access: its GLB_STATUS bit sets, and GLB_WIN_ERR captures it unless a capture is held (R31, R32, R34).
Kinds: 0 reserved offset, 1 width or alignment, 2 domain not ON. -/
def State.accessErr (s : State) (kind off port : Nat) : State :=
  let f := if kind = 0 then F.GLB_STATUS.STRAY else if kind = 1 then F.GLB_STATUS.BADACC else F.GLB_STATUS.DOMACC
  let s1 := s.wr f 0 1
  if s.flag F.GLB_WIN_ERR.VALID 0 then s1
  else
    (((s1.wr F.GLB_WIN_ERR.OFFSET 0 off).wr F.GLB_WIN_ERR.KIND 0 kind).wr F.GLB_WIN_ERR.PORT 0 port).wr
      F.GLB_WIN_ERR.VALID 0 1

/-- A write to a register with behaviour of its own, at an offset of the right width: it acts while the register's
domain is ON, else it is ignored and recorded (R32). While the island itself is in reset no access is made (R37). -/
def State.winWrite (s : State) (port off : Nat) (on : Bool) (act : State → State) : State :=
  if !s.bnd.oscOk then s else if on then act s else s.accessErr 2 off port

/-- The new value of a register field under a write (R8). -/
def Fld.written (f : Fld) (old v : Nat) : Nat :=
  let x := bits v f.lo f.w
  match f.acc with
  | .rw => x
  | .w1c => old &&& (2 ^ f.w - 1 - x)
  | .w1s => old ||| x
  | _ => old

/-- A plain write to a register: every RW, W1C and W1S field of it takes its part (R8). -/
def State.writeFields (s : State) (fs : List Fld) (i v : Nat) : State :=
  fs.foldl (fun s f => s.wr f i (f.written (s.rd f i) v)) s

end Sys2Proof.Machine
end

