-- ==== Sys2Proof/Machine/CountOps.lean ====
section
/-! DEFINITION. Counting: the named counts of the group pages (15_monitoring_debug.md R445, R456, R457) and the
programmable counters (R446 to R449). -/

namespace Sys2Proof.Machine

/-- A named count of a page, at its offset (R444). -/
def State.cnt (s : State) (page off : Nat) : Nat := smGet 0 s.counts (page, off)

/-- A named count saturates at 2^64 - 1 (R445). -/
def State.addCnt (s : State) (page off n : Nat) : State :=
  { s with counts := smSet 0 s.counts (page, off) (satAdd 64 (s.cnt page off) n) }

/-- Pages of a tree and of a trunk lane (R443). -/
def pageTree (t : Nat) : Nat := t + 2
def pageEngine (n : Nat) : Nat := n + 98
def pageLane (l : Nat) : Nat := l + 162
def pageBlock (b : Nat) : Nat := b + 74
def pageMemory : Nat := 178
/-- Totals the legacy view needs and no page holds (R462), in groups of the model's own: by tree the upstream FCS errors,
runts and oversize frames at 7 to 9; completions, frames dropped under R299, lookups, cache misses and learns at 0 to 4. -/
def legTree (t : Nat) : Nat := t + 3000
def legHost : Nat := 3100

/-- A pair of named counts: frames and bytes. -/
def State.addFrames (s : State) (page off bytes : Nat) : State := (s.addCnt page off 1).addCnt page (off + 8) bytes

/-- Add to one programmable counter of a block (R446): it wraps and sets OVF, which is an event bit of health when
newly set (R466). The wraps of an even counter count in its odd neighbour when that is enabled and under CHAIN
(R447). -/
def State.addPc (s : State) (sel : List Fld) (cnt_ ovf : Fld) (i k n : Nat) : State :=
  let x := s.rd cnt_ (i * 8 + k) + n
  let s1 := s.wr cnt_ (i * 8 + k) x
  if x < 2 ^ 32 then s1
  else
    let s2 := (s1.wr ovf (i * 8 + k) 1).pmcEvent F.PMC_EVENT.CNT_OVF
    if k % 2 = 0 ∧ sel.all (fun f => s2.flag f (i * 8 + k + 1)) then
      let y := s2.rd cnt_ (i * 8 + k + 1) + x / 2 ^ 32
      let s3 := s2.wr cnt_ (i * 8 + k + 1) y
      if y < 2 ^ 32 then s3 else (s3.wr ovf (i * 8 + k + 1) 1).pmcEvent F.PMC_EVENT.CNT_OVF
    else s2

/-- `n` events of a code in block b: every enabled counter that selects the code counts them while the block's domain
is ON (R446, R449). An odd counter under CHAIN ignores its EVENT. -/
def State.blockEvent (s : State) (b code n : Nat) : State :=
  if !s.on (blockDom b) then s
  else
    let s0 := match b, code with
      | 101, 0x02 => s.addCnt legHost 0 n
      | 98, 0x01 => s.addCnt legHost 2 n
      | 98, 0x03 => s.addCnt legHost 3 n
      | 98, 0x05 => s.addCnt legHost 4 n
      | _, _ => s
    (List.range 8).foldl
      (fun s k =>
        if s.flag F.PMC_SELk.EN (b * 8 + k) ∧ s.rd F.PMC_SELk.EVENT (b * 8 + k) = code
            ∧ !(k % 2 = 1 && s.flag F.PMC_SELk.CHAIN (b * 8 + k)) then
          s.addPc [F.PMC_SELk.EN, F.PMC_SELk.CHAIN] F.PMC_CNTk.COUNT F.PMC_SELk.OVF b k n
        else s) s0

/-- The same for pan engine e. -/
def State.engCount (s : State) (e code n : Nat) : State :=
  if !s.on (engDom e) then s
  else
    (List.range 8).foldl
      (fun s k =>
        if s.flag F.PE_SELk.EN (e * 8 + k) ∧ s.rd F.PE_SELk.EVENT (e * 8 + k) = code
            ∧ !(k % 2 = 1 && s.flag F.PE_SELk.CHAIN (e * 8 + k)) then
          s.addPc [F.PE_SELk.EN, F.PE_SELk.CHAIN] F.PE_CNTk.COUNT F.PE_SELk.OVF e k n
        else s) s

/-! ### Memory errors (R250, R252) -/

/-- A corrected word adds to the count of its memory, at its place in the memory page (R252, R457); of the four stacks
the ledger count is kept as well, those of the last 24 h (R465). -/
def State.corrected (s : State) (i : Nat) : State :=
  let s1 := s.addCnt pageMemory (0x80 + i * 8) 1
  if 2 ≤ i ∧ i ≤ 5 then
    let now := s.rd F.TB_LEDGER.TICKS 0
    (s1.putMon { s1.mon with corrAt := s1.mon.corrAt.filter (fun e => decide (now < e.2 + 86400 * 25000000)) ++ [(i, now)] })
  else s1

/-- An uncorrectable error is logged: memory code, instance, outcome, word address, tide; the oldest of 64 records is
overwritten when the log is full (R252). -/
def State.logUe (s : State) (mem inst outcome addr : Nat) : State :=
  let rec_ := leBytes 1 mem ++ leBytes 1 inst ++ leBytes 1 outcome ++ zeros 1 ++ leBytes 4 addr ++ leBytes 8 (toShort s.tide)
  let full := decide (s.errLog.length ≥ 64)
  let s1 := { s with errLog := s.errLog.drop (s.errLog.length - 63) ++ [rec_], errOvf := s.errOvf || full }
  let s2 := s1.pmcEvent F.PMC_EVENT.ERRLOG
  if full then s2.pmcEvent F.PMC_EVENT.ERRLOG_OVF else s2

end Sys2Proof.Machine
end

