-- ==== Sys2Proof/Machine/Timebase.lean ====
section
/-! DEFINITION. Tide and timebase (02_tide_timebase.md): the core time counter, the two time domains, the tide and its
slew, pulses, capture slots, the sleep ledger, and the rows that act on them. -/

namespace Sys2Proof.Machine

/-! ### The counters -/

/-- TB_STEP in 2^-32 ns (R42). -/
def State.tbStep (s : State) : Nat := s.rd F.TB_STEP.NS 0 * 2 ^ 32 + s.rd F.TB_STEP.FRAC 0

/-- A time domain's base (0 A, 1 B). -/
def State.base (s : State) (x : Nat) : DomainBase := if x = 0 then s.tb.baseA else s.tb.baseB

def State.setBase (s : State) (x : Nat) (b : DomainBase) : State :=
  if x = 0 then { s with tb := { s.tb with baseA := b } } else { s with tb := { s.tb with baseB := b } }

/-- 1 + RATE of a domain in 2^-44 (R43). -/
def State.rate44 (s : State) (x : Nat) : Int := (2 ^ 44 : Nat) + s.rdS F.TB_x_RATE.RATE x

/-- D_x in 2^-76 ns: B_x + (CTC - C_x) (1 + RATE) (R43). -/
def State.domQ (s : State) (x : Nat) : Int :=
  ((s.base x).base * 2 ^ 60 : Nat) + (((s.tb.ctc + 2 ^ 96 - (s.base x).cnt) % 2 ^ 96 : Nat) : Int) * s.rate44 x

/-- D_x in 2^-16 ns, 64 bits of whole ns (R43). -/
def State.domTime (s : State) (x : Nat) : Nat := ofSigned 80 (s.domQ x / (2 ^ 60 : Nat))

/-- D_x in whole ns. -/
def State.domNs (s : State) (x : Nat) : Nat := s.domTime x / 2 ^ 16

/-- The selected domain (R46). -/
def State.sel (s : State) : Nat := s.rd F.TB_STATUS.SEL 0

/-- Whether the selected domain is valid and the timebase ON, so that a timestamp can be taken (R61). -/
def State.stampOk (s : State) : Bool :=
  s.on 56 && (if s.sel = 0 then s.flag F.TB_STATUS.A_VALID 0 else s.flag F.TB_STATUS.B_VALID 0)

/-- A timestamp as host software gets it (R60): low 32 bits of ns, domain bit, low 4 bits of the epoch. -/
structure Stamp where
  ns : Nat
  frac : Nat
  dom : Nat
  epoch : Nat
  valid : Bool
  deriving DecidableEq, Repr

/-- The timestamp of this instant, marked invalid under R61. -/
def State.stamp (s : State) : Stamp :=
  if s.stampOk then
    ⟨s.domNs s.sel % 2 ^ 32, s.domTime s.sel % 2 ^ 16, s.sel, s.rd F.TB_EPOCH.COUNT 0 % 16, true⟩
  else ⟨0, 0, 0, 0, false⟩

/-- Set D_x to a value in 2^-16 ns by rebasing at the CTC (R43, R44). -/
def State.setDomTime (s : State) (x d : Nat) : State := s.setBase x ⟨d % 2 ^ 80, s.tb.ctc⟩

/-! ### The tide -/

/-- The tide's target N* in 2^-76 ns; none while the fabric peer is not measured or lost (R48, R53). Between two
measurements the peer's tide runs on with the CTC at the nominal rate (DESIGN CHOICE, log entry 56: the spec gives N* only
as measured). -/
def State.tideTarget (s : State) : Option Int :=
  if s.flag F.TIDE_CTL.SRC 0 then
    if s.tb.peerLost then none
    else s.tb.peer.map (fun p => p.1 + (((s.tb.ctc + 2 ^ 96 - p.2) % 2 ^ 96 : Nat) : Int) * (2 ^ 44 : Nat))
  else some (s.domQ s.sel - (s.rd F.TIDE_ORIGIN.NS 0 * 2 ^ 76 : Nat))

/-- N - N* in 1/256 ns, each read to 1/256 ns; the last value while there is no target (R48, R53). -/
def State.tideDiff (s : State) : Int :=
  match s.tideTarget with
  | some t => s.tide - t / (2 ^ 68 : Nat)
  | none => s.tb.lastDiff

/-- TIDE_DIFF as its register reads: signed, saturating (R73). -/
def State.tideDiffReg (s : State) : Nat := ofSigned 32 (satSigned 32 s.tideDiff)

/-- FAR sets when |TIDE_DIFF| exceeds FAR_LIMIT, and the timebase event is raised (R51). With no tree ACTIVE or
PROT_STANDBY the tide is N* at once (R50), so that no difference stands. It is judged in every core cycle, so that FAR
cleared under a difference still too large sets again (DESIGN CHOICE, log entry 56). -/
def State.checkFar (s : State) : State :=
  if s.anyRunning ∧ s.tideDiff.natAbs > s.rd F.TIDE_CTL.FAR_LIMIT 0 * 256 then s.tbEvent F.TIDE_STATUS.FAR else s

/-- An armed capture slot whose boundary the tide passed at `from_` or later without a frame becomes MISSED: no tree was
ACTIVE there (R50, R69, R72). -/
def State.missSlots (s : State) : State :=
  (List.range 4).foldl
    (fun s n =>
      if s.rd F.TIDE_TODn_CTL.STATE n = 1 ∧ boundary (s.rd F.TIDE_TODn_CTL.TREE n) (s.rd F.TIDE_TODn_F.F n) < s.tide
      then s.wr F.TIDE_TODn_CTL.STATE n 3 else s) s

/-- FSTROBE_OUT rises when the tide passes ⟨F, 0⟩ (R13, R68); several frames passed at once make one edge (log entry 57). -/
def State.strobe (s : State) (was : Int) : State :=
  if frameOf was < frameOf s.tide then s.emit (.fstrobe (frameOf s.tide)) else s

/-- What a change of the tide by a jump or a sleep does, from the tide it was (R50, R72): forward, the boundaries passed are
met without a frame; backward, frames already begun are to come again. -/
def State.tideMoved (s : State) (was : Int) : State :=
  if was ≤ s.tide then s.missSlots
  else { s with trees := s.trees.map (fun (e : Key × Tree) => (e.1, { e.2 with begun := e.2.begun.filter (fun f => decide (f ≤ s.frame e.1.1)) })) }

/-- N is set to N* at once; JUMPED sets if that changes N from what it would be (R50). With no target N goes on as it
would. No clamp acts (R49). -/
def State.jumpFrom (s : State) (was : Int) : State :=
  match s.tideTarget with
  | none => (s.putTb { s.tb with tideQ := was }).wr F.TIDE_STATUS.RATE_CLAMP 0 0
  | some t =>
    let old := was / (2 ^ 68 : Nat)
    let s1 := (s.putTb { s.tb with tideQ := t, lastDiff := 0, tideRate := s.rate44 s.sel }).wr F.TIDE_STATUS.RATE_CLAMP 0 0
    if old = t / (2 ^ 68 : Nat) then s1 else (s1.tideMoved old).tbEvent F.TIDE_STATUS.JUMPED

/-- One core cycle of the tide (R49, R50, R53), the CTC having advanced: N advances by TB_STEP x (1 + RATE), with a
correction of at most 50 ns per second toward N* and the total clamped to 2 ppm; with no tree ACTIVE or PROT_STANDBY
it is set to N*; with the peer lost it keeps its last rate. -/
def State.tideCycle (s : State) : State :=
  let st : Int := s.tbStep
  let adv := st * s.rate44 s.sel
  if !s.anyRunning then s.jumpFrom (s.tb.tideQ + (if s.tideTarget.isSome then adv else st * s.tb.tideRate))
  else
    match s.tideTarget with
    | none => (s.putTb { s.tb with tideQ := s.tb.tideQ + st * s.tb.tideRate }).wr F.TIDE_STATUS.RATE_CLAMP 0 0
    | some t =>
      let flat := st * (2 ^ 44 : Nat)
      let lim := flat * 50 / 1000000000
      let d := s.tb.tideQ + adv - t
      let corr := max (-lim) (min lim (-d))
      let ppm := flat * 2 / 1000000
      let tot := max (flat - ppm) (min (flat + ppm) (adv + corr))
      let s1 := s.putTb { s.tb with tideQ := s.tb.tideQ + tot, tideRate := if st = 0 then s.tb.tideRate else tot / st }
      let s2 := s1.wrB F.TIDE_STATUS.RATE_CLAMP 0 (decide (tot ≠ adv + corr))
      (s2.putTb { s2.tb with lastDiff := s2.tideDiff })

/-- The sleep ledger counts its 25 MHz reference at all times (R70), 40 ns of core cycles a tick: the crystal's deviation
from 25 MHz is not modelled (DESIGN CHOICE, log entry 56). -/
def State.ledgerCycle (s : State) : State :=
  let p := s.tb.ledgerSub + s.tbStep
  let n := p / (40 * 2 ^ 32)
  (s.putTb { s.tb with ledgerSub := p % (40 * 2 ^ 32) }).incWrap F.TB_LEDGER.TICKS 0 n

/-- A core cycle counts: the ledger, and the cycles the model keeps for PE_CYCLES (R217, R450). -/
def State.coreCycle (s : State) : State :=
  let s0 := s.ledgerCycle
  s0.putMon { s0.mon with cycles := s0.mon.cycles + 1 }

/-- The CTC advances by TB_STEP (R41). -/
def State.advanceCtc (s : State) : State := s.putTb { s.tb with ctc := (s.tb.ctc + s.tbStep) % 2 ^ 96 }

/-- The CTC at the end of a calibration window is kept as the ledger reaches that end (R70). -/
def State.calTick (s : State) : State :=
  match s.tb.calStart with
  | some (l0, _) =>
    if s.rd F.TB_LEDGER.TICKS 0 < l0 + 2 ^ 24 * (s.tb.calEnds.length + 1) then s
    else s.putTb { s.tb with calEnds := s.tb.calEnds ++ [s.tb.ctc] }
  | none => s

/-- A core cycle of the timebase: the CTC, the tide with its strobe, FAR, and the count of cycles in which the tide slews
(R41, R49, R51, R68, R449). -/
def State.tideTick (s : State) : State :=
  let s1 := ((s.advanceCtc.tideCycle).strobe s.tide).checkFar.calTick
  if s1.tideDiff = 0 then s1 else s1.blockEvent 103 0x01 1

/-- Cycles in which the lookup queue is full, and in which a fabric link holds cells without credit (R449). -/
def State.backlogCycles (s : State) : State :=
  let s1 := if s.buf.ingress.length ≥ 16384 then s.blockEvent 98 0x08 1 else s
  if s1.fabLinks.any (fun e => decide (e.2.txq ≠ [])) then s1.blockEvent 102 0x05 1 else s1

/-- One core cycle (log entry 5): the ledger counts while the oscillator runs; the CTC and the tide advance while the
timebase domain is ON (R41, R49, R70). -/
def State.tick (s : State) : State :=
  if !s.bnd.oscOk then s
  else if s.on 56 then s.backlogCycles.coreCycle.tideTick
  else s.backlogCycles.coreCycle

/-! ### Sleep of the timebase (R71, R72) -/

/-- Ledger ticks until a tide instant, at TB_LEDGER_RATIO (R72). -/
def State.ticksUntil (s : State) (at_ : Int) : Nat :=
  let gap := (at_ - s.tide).toNat
  if s.rd F.TB_LEDGER_RATIO.RATIO 0 = 0 then 0 else ceilDiv (gap * 2 ^ 24) (s.rd F.TB_LEDGER_RATIO.RATIO 0)

/-- Scheduled requests are given a ledger count as the timebase leaves ON (R72). -/
def State.convertScheds (s : State) : State :=
  s.putDoms (s.doms.map (fun e =>
      match e.2.sched with
      | some (_, at_) => (e.1, { e.2 with schedLedger := some (s.rd F.TB_LEDGER.TICKS 0 + s.ticksUntil at_) })
      | none => e))

/-- A calibration window that has ended is compared: the measured ns per tick is written, and the next window begins where
it ended (R70). -/
def State.calibrate (s : State) : State :=
  match s.tb.calStart, s.tb.calEnds with
  | some (l0, c0), c :: rest =>
    (s.putTb { s.tb with calStart := some (l0 + 2 ^ 24, c), calEnds := rest }).wr F.TB_LEDGER_RATIO.RATIO 0
      ((c + 2 ^ 96 - c0) % 2 ^ 96 / 2 ^ 24)
  | _, _ => s

/-- The timebase leaves ON: windows that have ended are compared, the island keeps the ledger value, and the window begun
ends without a ratio (R70, R71). -/
def State.tbLeave (s : State) : State :=
  let s1 := (s.tb.calEnds.foldl (fun s _ => s.calibrate) s).convertScheds
  (s1.putTb { s1.tb with sleptAt := some (s.rd F.TB_LEDGER.TICKS 0), calStart := none, calEnds := [] })

/-- The timebase returns to ON (R71): the interval is written, the CTC advances by it at the measured ratio, the epoch
increments, both HOLDOVER bits set and the tide is computed afresh; a calibration window begins (R70). With no target to
compute it from, N moves on by the slept time at the nominal rate and the difference kept becomes 0 (DESIGN CHOICE, log
entry 56). -/
def State.tbResume (s : State) : State :=
  let led := s.rd F.TB_LEDGER.TICKS 0
  match s.tb.sleptAt with
  | none => s.putTb { s.tb with calStart := some (led, s.tb.ctc) }
  | some l0 =>
    let gap := (led + 2 ^ 64 - l0) % 2 ^ 64
    let add := gap * s.rd F.TB_LEDGER_RATIO.RATIO 0
    let s1 := s.wr F.TB_LAST_SLEEP.TICKS 0 gap
    let s2 := s1.putTb { s1.tb with ctc := (s1.tb.ctc + add) % 2 ^ 96, sleptAt := none }
    let s3 := ((s2.incWrap F.TB_EPOCH.COUNT 0 1).wr F.TB_STATUS.A_HOLDOVER 0 1).wr F.TB_STATUS.B_HOLDOVER 0 1
    let n := match s3.tideTarget with
      | some t => t
      | none => s3.tb.tideQ + (add * 2 ^ 44 : Nat)
    let s4 : State := { s3 with
      tb := { s3.tb with tideQ := n, lastDiff := 0, calStart := some (led, s3.tb.ctc) },
      doms := s3.doms.map (fun (e : Key × PowerDom) => if e.2.schedLedger.isSome then (e.1, { e.2 with schedLedger := none }) else e) }
    s4.tideMoved s.tide

/-! ### Tide instants that wait (R50, R72) -/

/-- The instants that wait for the tide and could act now: scheduled power requests, the armed snapshot (R453) and armed
rake channels (R323). -/
def State.armedInstants (s : State) : List Int :=
  s.doms.filterMap (fun (e : Key × PowerDom) => e.2.sched.map (fun x => (x.2 : Int))) ++
  (if s.on 54 then s.mon.snapAt.toList else []) ++
  (if s.on 53 then s.chans.filterMap (fun (e : Key × RakeChan) => if s.rd F.DMA_CHn_STATUS.STATE e.1.1 = 1 then e.2.startAt else none) else [])

/-- An instant is reached and its event is next: the tide is ON and has come to it, and no earlier one still waits, so that
instants passed at once act in their order (R50, R72). -/
def State.tideDue (s : State) (at_ : Int) : Bool :=
  s.on 56 && decide (at_ ≤ s.tide) && s.armedInstants.all (fun x => decide (at_ ≤ x))

/-! ### PPS_OUT (R46, R68) -/

/-- The whole second of the selected domain's time less the offset of TB_PPS_OUT. -/
def State.ppsSecond (s : State) : Int :=
  ((s.domNs s.sel : Int) - s.rdS F.TB_PPS_OUT.OFFSET 0) / 1000000000

/-- A step, an adjustment, a domain switch or an offset that takes PPS_OUT's time back lets its seconds be crossed again. -/
def State.ppsBack (s : State) : State :=
  if s.ppsSecond < s.tb.ppsSec then s.putTb { s.tb with ppsSec := s.ppsSecond } else s

/-! ### Rows -/

/-- TB_SET: D_x takes the written whole ns with a zero fraction, x_VALID sets (R44); FAR is judged (R51). -/
def State.tbSet (s : State) (x v : Nat) : State :=
  ((s.setDomTime x (v * 2 ^ 16)).wr (if x = 0 then F.TB_STATUS.A_VALID else F.TB_STATUS.B_VALID) 0 1).checkFar.ppsBack

/-- TB_ADJ: the signed value, in 2^-16 ns, is added to D_x in this cycle (R44). -/
def State.tbAdj (s : State) (x v : Nat) : State :=
  (s.setDomTime x (ofSigned 80 ((s.domTime x : Int) + toSigned 64 v))).checkFar.ppsBack

/-- TB_RATE: B_x and C_x are set to the present, then the new rate applies (R43). -/
def State.tbRate (s : State) (x v : Nat) : State := (s.setDomTime x (s.domTime x)).wr F.TB_x_RATE.RATE x v

/-- TIDE_ORIGIN is ignored while any tree is ACTIVE or PROT_STANDBY (R52). -/
def State.tideOrigin (s : State) (v : Nat) : State :=
  if s.anyRunning then s.wr F.TIDE_STATUS.ORIGIN_REFUSED 0 1 else s.wr F.TIDE_ORIGIN.NS 0 v

/-- TIDE_TODn_CTL: TREE is stored; ARM arms the slot, or marks it MISSED when the boundary has passed (R69). A TREE
above 95 names no tree: its boundary finds no ACTIVE tree (DEDUCED, log entry 10). TREE written without ARM to an ARMED
slot, as F written to one, changes what is armed (DESIGN CHOICE, log entry 56). -/
def State.todCtl (s : State) (n v : Nat) : State :=
  let s1 := s.wr F.TIDE_TODn_CTL.TREE n v
  if bit v 8 then
    let t := bits v 0 7
    let late : Bool := decide (t > 95) || decide (boundary t (s.rd F.TIDE_TODn_F.F n) < s.tide)
    s1.wr F.TIDE_TODn_CTL.STATE n (if late then 3 else 1)
  else s1

/-- At a tree's boundary the armed capture slots of its frame record the send instant, or are marked MISSED (R69). The
capture is taken whether or not the selected domain is VALID: the slot has no mark for an invalid one (DESIGN CHOICE, log
entry 56). -/
def State.todCapture (s : State) (t : Nat) (F_ : Int) (active : Bool) : State :=
  (List.range 4).foldl
    (fun s n =>
      if s.rd F.TIDE_TODn_CTL.STATE n = 1 ∧ s.rd F.TIDE_TODn_CTL.TREE n = t ∧ s.rd F.TIDE_TODn_F.F n = f51 F_ then
        if active then
          ((((s.wr F.TIDE_TODn_CTL.STATE n 2).wr F.TIDE_TODn_CTL.DOM n s.sel).wr F.TIDE_TODn_CTL.EPOCH n
            (s.rd F.TB_EPOCH.COUNT 0)).wr F.TIDE_TODn_TIME.NS n (s.domNs s.sel)).wr F.TIDE_TODn_FRAC.FRAC n
            (s.domTime s.sel) |>.blockEvent 103 0x03 1
        else s.wr F.TIDE_TODn_CTL.STATE n 3
      else s) s

/-- TB_SET (R44). -/
def execTbSet (port : PortId) (x : Fin 2) (v : BitVec 64) (s : State) : Res :=
  .next (s.winWrite port (0x10050 + x * 0x40) (s.on 56) (fun s => s.tbSet x v.toNat))

/-- TB_ADJ (R44). -/
def execTbAdj (port : PortId) (x : Fin 2) (v : BitVec 64) (s : State) : Res :=
  .next (s.winWrite port (0x10058 + x * 0x40) (s.on 56) (fun s => s.tbAdj x v.toNat))

/-- TB_RATE_WRITE (R43). -/
def execTbRateWrite (port : PortId) (x : Fin 2) (v : BitVec 32) (s : State) : Res :=
  .next (s.winWrite port (0x10060 + x * 0x40) (s.on 56) (fun s => s.tbRate x v.toNat))

/-- TIDE_ORIGIN_WRITE (R52). -/
def execTideOriginWrite (port : PortId) (v : BitVec 64) (s : State) : Res :=
  .next (s.winWrite port 0x10100 (s.on 56) (fun s => s.tideOrigin v.toNat))

/-- TOD_ARM (R69). -/
def execTodArm (port : PortId) (slot : Fin 4) (v : BitVec 32) (s : State) : Res :=
  .next (s.winWrite port (0x10148 + slot * 0x20) (s.on 56) (fun s => s.todCtl slot v.toNat))

/-- PPS_IN_EDGE (R45): D_x and the CTC are captured, the edge counted and the status bit set, which is an event of
source 224; an edge while the timebase is not ON is ignored (R39). -/
def execPpsInEdge (x : Fin 2) (s : State) : Res :=
  .next (if s.on 56 then
    (((s.wr F.TB_x_PPS_TIME.NS x (s.domNs x)).wr F.TB_x_PPS_CTC.NS x (s.tb.ctc / 2 ^ 32)).incWrap
      F.TB_x_PPS_CNT.COUNT x 1).tbEvent (if x = 0 then F.TB_STATUS.A_PPS else F.TB_STATUS.B_PPS) |>.blockEvent 103 0x02 1
  else s)

/-- Less than 500 ms have passed since the last rising edge of PPS_OUT (R68), measured on the CTC (DESIGN CHOICE, log entry
56). -/
def State.ppsRecent (s : State) : Bool := s.tb.lastPps.any (fun c => decide ((s.tb.ctc : Int) - c < 500000000 * 2 ^ 32))

/-- PPS_OUT_EDGE (R46, R68): the selected domain's time less the offset has crossed a whole second since the last one it
crossed; a crossing within 500 ms of the last rising edge produces no edge; the output is low while the timebase is not ON
(R23). -/
def execPpsOutEdge (s : State) : Res :=
  .next (if !s.on 56 ∨ s.ppsSecond ≤ s.tb.ppsSec then s
  else
    let s1 := s.putTb { s.tb with ppsSec := s.ppsSecond }
    if s.ppsRecent then s1 else (s1.putTb { s1.tb with lastPps := some s.tb.ctc }).emit .ppsOut)

/-- TB_STEP of a core clock code (R42). -/
def stepOf (code : Nat) : Nat :=
  match code with
  | 0 => 0x00000000CCCCCCCD
  | 1 => 0x0000000100000000
  | 2 => 0x000000019999999A
  | _ => 0x0000000333333333

/-- CORE_CLOCK_CHANGE (R42). -/
def execCoreClockChange (code : Fin 4) (s : State) : Res :=
  .next (((s.wr F.TB_CLK.CODE 0 code).wr F.TB_STEP.NS 0 (stepOf code / 2 ^ 32)).wr F.TB_STEP.FRAC 0 (stepOf code))

/-- FREQ_HOLDOVER_CHANGE (R40). -/
def execFreqHoldoverChange (on : Bool) (s : State) : Res := .next (s.wrB F.TB_STATUS.FREQ_HOLDOVER 0 on)

/-- TIDE_JUMP (R50): with no tree ACTIVE or PROT_STANDBY, N is set to N*. Events whose instants a forward jump passes
are due from then on, the earliest first (`State.tideDue`); each fires as its own row. -/
def execTideJump (s : State) : Res :=
  .next (if s.on 56 ∧ !s.anyRunning then (s.jumpFrom s.tb.tideQ).strobe s.tide else s)

/-- LEDGER_CALIBRATION (R70): a window of 2^24 ledger ticks has ended, and the measured ns per tick is written. -/
def execLedgerCalibration (s : State) : Res := .next (if s.on 56 then s.calibrate else s)

end Sys2Proof.Machine
end

