-- ==== Sys2Proof/Machine/RingOps.lean ====
section
/-! DEFINITION. Host rings' shared operations (09_host_rings.md): a ring's entries, completions written in place and in
order (R295), event entries that merge (R301, R302), and ring errors (R283). -/

namespace Sys2Proof.Machine

/-- Ring state codes of R282. -/
def rgUNCREATED : Nat := 0
def rgREADY : Nat := 1
def rgRUNNING : Nat := 2
def rgDRAINING : Nat := 3
def rgIDLE : Nat := 4
def rgERROR : Nat := 5

/-- Completion status codes of R296. -/
def txOK : Nat := 0x00
def txRUNT : Nat := 0x01
def txOVERSIZE : Nat := 0x02
def txNO_TERMINAL : Nat := 0x03
def txKEY_LOST : Nat := 0x04
def txTREE_DOWN : Nat := 0x05
def txLAUNCH_LATE : Nat := 0x06
def txLAUNCH_DROP : Nat := 0x07
def txLAUNCH_FAR : Nat := 0x08
def txONESTEP_SKIP : Nat := 0x09
def txBAD_TIME : Nat := 0x0A
def txMEM_ERR : Nat := 0x0B
def txBAD_DESC : Nat := 0x0C
def txBUS_ERR : Nat := 0x0D
def txNO_PORT : Nat := 0x0E
def txCSUM_SKIP : Nat := 0x0F
def txPARTIAL_ABORT : Nat := 0x10
def txTREE_IDLE : Nat := 0x11

def State.ring (s : State) (r : Nat) : Ring := smGet Ring.reset s.rings (r, 0)
def State.setRing (s : State) (r : Nat) (x : Ring) : State := { s with rings := smSet Ring.reset s.rings (r, 0) x }
def State.evq (s : State) (q : Nat) : EvQueue := smGet EvQueue.reset s.evqs (q, 0)
def State.setEvq (s : State) (q : Nat) (x : EvQueue) : State := { s with evqs := smSet EvQueue.reset s.evqs (q, 0) x }

/-- A ring's state code. -/
def State.rstate (s : State) (r : Nat) : Nat := s.rd F.DB_STATUS.STATE r

/-- The number of entries of a ring (R281). -/
def State.rsize (s : State) (r : Nat) : Nat := 2 ^ (s.ring r).sizeLog2

/-- The host address of entry i (R281). -/
def State.entryAddr (s : State) (r i : Nat) : Nat := (s.ring r).base + i * 32

/-- Where the entries given end: the recorded tail, or the tail at the disable while DRAINING (R284, R311). -/
def State.ringEnd (s : State) (r : Nat) : Nat :=
  if s.rstate r = rgDRAINING then (s.ring r).drainTail.getD (s.rd F.DB_HEAD.TAIL r) else s.rd F.DB_HEAD.TAIL r

/-- The next entry the ring may take: it is RUNNING or DRAINING, entries are given, and it was not found early (R285). -/
def State.nextEntry (s : State) (r : Nat) : Option Nat :=
  if (s.rstate r = rgRUNNING ∨ s.rstate r = rgDRAINING) ∧ s.rd F.DB_HEAD.HEAD r ≠ s.ringEnd r ∧
      (s.ring r).early ≠ some (s.rd F.DB_HEAD.HEAD r) then
    some (s.rd F.DB_HEAD.HEAD r)
  else none

/-- The complex takes an entry: the head moves on (R281). -/
def State.advanceHead (s : State) (r : Nat) : State :=
  s.wr F.DB_HEAD.HEAD r ((s.rd F.DB_HEAD.HEAD r + 1) % s.rsize r)

/-- An entry i between head and tail with OWN 0 stops the ring at that entry (R285). -/
def State.foundEarly (s : State) (r i : Nat) : State :=
  (s.setRing r { s.ring r with early := some i }).incWrap F.DB_EARLY.COUNT r 1

/-- A ring's bit in the summary words (R302). -/
def State.setSummary (s : State) (r : Nat) : State :=
  s.wr F.IRQ_RING_SUMMARY.RINGS (r / 32) (s.rd F.IRQ_RING_SUMMARY.RINGS (r / 32) ||| 2 ^ (r % 32))

/-- An event entry joins those waiting; a completion merges with a waiting one of its ring (R301). -/
def mergeEvent : List EvEntry → EvEntry → List EvEntry
  | [], e => [e]
  | x :: r, e =>
    if x.ring = e.ring ∧ x.state = none ∧ e.state = none ∧ x.count + e.count ≤ 65535 then { x with index := e.index, count := x.count + e.count } :: r
    else x :: mergeEvent r e

/-- A ring has an event for its queue; while the queue is in OVERFLOW only the summary bit sets (R301, R302). -/
def State.ringEvent (s : State) (r : Nat) (e : EvEntry) : State :=
  let q := (s.ring r).evq
  if q = 0xFFFF ∨ !s.flag F.IRQ_EQ_STATUS.CREATED q then s
  else if s.flag F.IRQ_EQ_STATUS.OVERFLOW q then s.setSummary r
  else s.setEvq q { s.evq q with waiting := mergeEvent (s.evq q).waiting e }

/-- A ring enters a state; IDLE and ERROR post a state entry, which names the last entry completed (R301). -/
def State.ringState (s : State) (r st : Nat) : State :=
  let s1 := s.wr F.DB_STATUS.STATE r st
  if st = rgIDLE ∨ st = rgERROR then s1.ringEvent r ⟨r, (s.ring r).lastDone, 0, some st⟩ else s1

/-- A ring error of a RUNNING or DRAINING ring: ERROR with its cause, no further entry taken (R282, R283). -/
def State.ringError (s : State) (r cause : Nat) : State :=
  if s.rstate r = rgRUNNING ∨ s.rstate r = rgDRAINING then
    ((s.wr F.DB_STATUS.ERR_CAUSE r cause).ringState r rgERROR).irqStatus F.IRQ_STATUS.RING_ERROR
  else s

/-- The entry at the head could not be read, or, with `table`, its fragment table (R283, cause 2). -/
def State.readFailed (s : State) (r : Nat) (table : Bool) : State :=
  (s.setRing r { s.ring r with badRead := false, failed := some (s.rd F.DB_HEAD.HEAD r, table) }).ringError r 2

/-- A completion, response or payload could not be written (R283, cause 3). -/
def State.writeFailed (s : State) (r : Nat) : State := (s.setRing r { s.ring r with badWrite := false }).ringError r 3

/-- A ring has completed an entry: its queue gets an event when one is asked for, and while the queue is in OVERFLOW the ring's
summary bit sets whether one is or not (R301, R302); a queue found destroyed is a ring error (R283, cause 4). -/
def State.completed (s : State) (r idx : Nat) (event : Bool) : State :=
  let q := (s.ring r).evq
  let s1 := s.setRing r { s.ring r with lastDone := idx }
  if q ≠ 0xFFFF ∧ !s.flag F.IRQ_EQ_STATUS.CREATED q then s1.ringError r 4
  else if event || (s.ring r).eventAll then s1.ringEvent r ⟨r, idx, 1, none⟩
  else if q ≠ 0xFFFF ∧ s.flag F.IRQ_EQ_STATUS.OVERFLOW q then s1.setSummary r
  else s1

/-- One completion is written in place and counted (R285, R295); one that the host does not take is a ring error (R283). -/
def State.writeCompletion (s : State) (r idx : Nat) (bytes : List Byte) (event : Bool) : State :=
  if (s.ring r).badWrite then s.writeFailed r
  else (((s.hostWrite (s.entryAddr r idx) bytes).incWrap F.DB_DONE.COUNT r 1).blockEvent 101 0x02 1).completed r idx event

/-- The completions known at the front of a TX ring's entries are written, in the order the entries were given (R295). -/
def State.flushTx (s : State) (r : Nat) : List TxOut → State
  | [] => s.setRing r { s.ring r with tx := [] }
  | x :: rest =>
    match x.done with
    | none => s.setRing r { s.ring r with tx := x :: rest }
    | some b => State.flushTx (s.writeCompletion r x.idx b (bit (leAt b 12 2) 6)) r rest

/-- The completion of a TX entry is known (R290, R295). -/
def State.finishTx (s : State) (r idx : Nat) (bytes : List Byte) : State :=
  s.flushTx r ((s.ring r).tx.map (fun x => if x.idx = idx ∧ x.done = none then { x with done := some bytes, waits := false, held := false } else x))

/-- A TX completion (R290): the timestamp, the status, the length as sent, the departure tuple; FLAGS and bytes 24 to 30
as given. -/
def txCompletion (desc : List Byte) (st : Stamp) (status len depart : Nat) : List Byte :=
  leBytes 4 st.ns ++ leBytes 2 st.frac ++ [BitVec.ofNat 8 (st.epoch + st.dom * 16 + b2n st.valid * 32)] ++
  leBytes 1 status ++ leBytes 4 len ++ slice desc 14 2 ++ zeros 2 ++ leBytes 8 depart ++ slice desc 24 7 ++ [0x40#8]

/-- The timestamp of a frame that is not sent (R290). -/
def noStamp : Stamp := ⟨0, 0, 0, 0, false⟩

/-- A TX entry completes without its frame having been sent (R290). -/
def State.txFail (s : State) (r idx status : Nat) : State :=
  s.finishTx r idx (txCompletion (s.hostRead (s.entryAddr r idx) 32) noStamp status 0 0)

end Sys2Proof.Machine
end

