-- ==== Sys2Proof/Machine/CalvanOps.lean ====
section
/-! DEFINITION. How every Calvan command is taken and answered (11_calvan_firmware.md R338 to R350): where a request
stands, which source is served next, the checks before a command's own, replay, and the response. -/

namespace Sys2Proof.Machine

/-- Status codes of R347. -/
def stOK : Nat := 0x00
def stBAD_ARG : Nat := 0x01
def stSTATE_CONFLICT : Nat := 0x02
def stBUSY : Nat := 0x03
def stNO_RESOURCE : Nat := 0x04
def stUNSUPPORTED : Nat := 0x05
def stVERSION_UNTESTED : Nat := 0x06
def stDENIED : Nat := 0x07
def stTIMEOUT : Nat := 0x08
def stINTERNAL : Nat := 0x0F

/-- Service state codes of R352. -/
def svBOOT : Nat := 0
def svRESTRICTED : Nat := 1
def svSERVICE : Nat := 2
def svRESTARTING : Nat := 3
def svHALTED : Nat := 4

/-- The service state (R352). -/
def State.service (s : State) : Nat := s.rd F.MBX_DEVSTATE.STATE 0

/-- The control processor takes commands: its domain is ON, the boot code runs, and it is not restarting or halted. -/
def State.cpRuns (s : State) : Bool :=
  s.on 54 && s.flag F.GLB_STATUS.MBX_READY 0 && decide (s.service < svRESTARTING)

/-- A source's number in the order of service: mailbox n, or 16 for the ADMIN ring (R342). -/
def srcNum : Src → Nat
  | .mbx n => n
  | .admin => 16

/-- The latched request of a mailbox (R339). -/
def State.mbxRequest (s : State) (n : Nat) : List Byte :=
  (List.range 16).flatMap (fun k => leBytes 4 (s.rd F.MBX_n_REQ.DATA (n * 16 + k)))

/-- The ADMIN entry the ring may take next: its 32 bytes, with OWN 1 (R285, R293, R344). -/
def State.adminEntry (s : State) : Option (List Byte) :=
  if (s.ring 0).typ = 2 ∧ (s.ring 0).tx = [] then
    match s.nextEntry 0 with
    | some i => some (s.hostRead (s.entryAddr 0 i) 32)
    | none => none
  else none

/-- A request waiting at a source and not taken yet. -/
def State.waiting (s : State) (src : Src) : Option (List Byte) :=
  if s.cp.taken.contains src then none
  else
    match src with
    | .mbx n => if s.flag F.MBX_n_STATUS.BUSY n then some (s.mbxRequest n) else none
    | .admin =>
      match s.adminEntry with
      | some d => if bit (byteAt d 31) 7 then some (s.hostRead (leAt d 0 8) 64) else none
      | none => none

/-- The sources in the order of service after the one served last: mailboxes 1 to 15, then the ADMIN ring (R342). -/
def turnOrder (last : Nat) : List Src :=
  let all : List Src := ((List.range 15).map (fun k => Src.mbx (Fin.ofNat 16 (k + 1)))) ++ [.admin]
  all.filter (fun x => last < srcNum x) ++ all.filter (fun x => srcNum x ≤ last)

/-- The source whose command is taken next: mailbox 0 first, then the others in turn (R342). -/
def State.nextSrc (s : State) : Option Src :=
  if (s.waiting (.mbx 0)).isSome then some (.mbx 0)
  else (turnOrder s.cp.lastSrc).find? (fun x => (s.waiting x).isSome)

/-- A command of this code is taken from this source now. -/
def State.takes (s : State) (src : Src) (code : Nat) (req : List Byte) : Bool :=
  s.cpRuns && decide (s.nextSrc = some src) && decide (s.waiting src = some req) && decide (leAt req 0 2 = code)

/-- A response (R346). -/
def response (req : List Byte) (r : Resp) (replayed : Bool) : List Byte :=
  [BitVec.ofNat 8 r.status, BitVec.ofNat 8 r.detail] ++ slice req 2 2 ++ slice req 0 2 ++
  [BitVec.ofNat 8 r.payload.length] ++ [BitVec.ofNat 8 (b2n replayed)] ++ r.payload ++ zeros (56 - r.payload.length)

/-- How many records a source keeps (R350). -/
def tagDepth (src : Src) : Nat :=
  match src with
  | .mbx _ => 16
  | .admin => 64

/-- Record a command: it replaces the record of the same tag, or else the oldest (R350); newest last. -/
def addTag (depth : Nat) (l : List TagRec) (t : TagRec) : List TagRec :=
  let l1 := l.filter (fun x => x.tag ≠ t.tag)
  (if l1.length < depth then l1 else l1.drop (l1.length + 1 - depth)) ++ [t]

def State.tagsOf (s : State) (src : Src) : List TagRec := smGet [] s.cp.tags (srcNum src, 0)

/-- The record a request replays: TAG not 0, FRESH 0, all 64 bytes equal (R350). -/
def State.replayOf (s : State) (src : Src) (req : List Byte) : Option TagRec :=
  if leAt req 2 2 = 0 ∨ bit (leAt req 4 2) 0 then none else (s.tagsOf src).find? (fun t => t.req == req)

/-- The 64-byte response words of a mailbox. -/
def State.writeRsp (s : State) (n : Nat) (b : List Byte) : State :=
  (List.range 16).foldl (fun s k => s.wr F.MBX_n_RSP.DATA (n * 16 + k) (leAt b (4 * k) 4)) s

/-- Bit n of MBX_EVENT.DONE sets; a bit newly set and enabled counts on source 230 (R304, R339). -/
def State.mbxDone (s : State) (n : Nat) : State :=
  let old := s.rd F.MBX_EVENT.DONE 0
  let s1 := s.wr F.MBX_EVENT.DONE 0 (old ||| 2 ^ n)
  if !bit old n && bit (s.rd F.MBX_EVENT_EN.EN 0) n then s1.srcEvent 230 else s1

/-- The response bytes go to the source (R293, R339): a mailbox's RSP words with BUSY 0 and DONE 1, or the ADMIN
entry's response buffer and then its completion. -/
def State.deliver (s : State) (src : Src) (b : List Byte) : State :=
  match src with
  | .mbx n =>
    let s1 := (s.writeRsp n b).wr F.MBX_n_STATUS.BUSY n 0
    ((s1.wr F.MBX_n_STATUS.DONE n 1).wr F.MBX_n_STATUS.REPLAYED n (bits (byteAt b 7) 0 1)).mbxDone n
  | .admin =>
    match (s.ring 0).tx with
    | x :: _ =>
      let d := s.hostRead (s.entryAddr 0 x.idx) 32
      let s2 := (if (s.ring 0).badWrite then s else s.hostWrite (leAt d 8 8) b).setRing 0 { s.ring 0 with tx := [] }
      s2.writeCompletion 0 x.idx (slice d 0 16 ++ slice b 0 1 ++ zeros 14 ++ [0x40#8]) false
    | [] => s

/-- The request of a source whose command is being answered: a mailbox's words, or the ADMIN entry's request. -/
def State.requestOf (s : State) (src : Src) : List Byte :=
  match src with
  | .mbx n => s.mbxRequest n
  | .admin =>
    match (s.ring 0).tx with
    | x :: _ => s.hostRead (leAt (s.hostRead (s.entryAddr 0 x.idx) 32) 0 8) 64
    | [] => []

/-- A command is answered and, unless its TAG is 0 or its status BUSY or INTERNAL, recorded (R346, R350). -/
def State.answer (s : State) (src : Src) (r : Resp) : State :=
  let req := s.requestOf src
  let b := response req r false
  let s1 := s.putCp { s.cp with taken := s.cp.taken.filter (fun x => x ≠ src) }
  let s2 := s1.deliver src b
  if leAt req 2 2 = 0 ∨ r.status = stBUSY ∨ r.status = stINTERNAL then s2
  else
    let l := addTag (tagDepth src) (s2.tagsOf src) ⟨leAt req 2 2, req, b⟩
    (s2.putCp { s2.cp with tags := smSet [] s2.cp.tags (srcNum src, 0) l })

/-- What the control processor finds as it reads the words of a mailbox's latched request (R251, R341). -/
def State.mbxSeen (s : State) (n : Nat) (o : WordObs) : Bool := [0, 1].any (fun k => s.wordSeen 11 n k == o)

/-- The request of a mailbox is read: a corrected error is counted for it (R250, R252). -/
def State.mbxRead (s : State) (n : Nat) : State :=
  if s.mbxSeen n .corrected then (s.rewrite (fun u => u.mem == 11 && u.inst == n)).corrected (138 + n) else s

/-- A source's command is taken (R342 to R344): the ADMIN ring's head moves past it. -/
def State.take (s : State) (src : Src) : State :=
  let s1 := s.putCp { s.cp with taken := s.cp.taken ++ [src],
                                       lastSrc := if src = .mbx 0 then s.cp.lastSrc else srcNum src }
  match src with
  | .mbx n => s1.mbxRead n
  | .admin =>
    let i := s1.rd F.DB_HEAD.HEAD 0
    (s1.setRing 0 { s1.ring 0 with tx := [⟨i, none, false, false⟩] }).advanceHead 0

/-- A refusal: the payload is all zeros (R346). -/
def refuse (status detail : Nat) : Resp := ⟨status, detail, []⟩

/-- OK with a response payload. -/
def okWith (payload : List Byte) : Resp := ⟨stOK, 0, payload⟩

/-- The payload supplied, bytes past LENGTH taken as 0 (R345). -/
def payloadOf (req : List Byte) : List Byte :=
  let n := min 56 (leAt req 6 2)
  slice req 8 n ++ zeros (56 - n)

/-- The checks before a command's own (R348): `boot` and `restricted` say whether R351 marks the command for those
service states. -/
def State.headerCheck (s : State) (req : List Byte) (boot restricted : Bool) : Option Resp :=
  if leAt req 4 2 ≥ 2 then some (refuse stBAD_ARG 0xF4)
  else if leAt req 6 2 > 56 then some (refuse stBAD_ARG 0xF6)
  else if (s.service = svBOOT ∧ !boot) ∨ (s.service = svRESTRICTED ∧ !restricted) then
    some (refuse stSTATE_CONFLICT (0xE0 + s.service))
  else none

/-- The answer to a pump's request that no command row takes: an unknown code (R348). -/
def unknownCode : Resp := refuse stUNSUPPORTED 0

/-- The command codes of R351. -/
def commandCodes : List Nat :=
  [0x0001, 0x0002, 0x0101, 0x0102, 0x0103, 0x0104, 0x0110, 0x0111, 0x0112, 0x0113, 0x0114, 0x0201, 0x0202, 0x0203,
   0x0301, 0x0302, 0x0303, 0x0304, 0x0305, 0x0306, 0x0307, 0x0401, 0x0402, 0x0403, 0x0404, 0x0405, 0x0406, 0x0407,
   0x0501, 0x0601, 0x0602, 0x0701, 0x0702, 0x0703, 0x0710, 0x0801, 0x0802, 0x0803, 0x0901, 0x0902, 0x0903,
   0x0A01, 0x0A02, 0x0A03]

/-- A recorded command is answered again (R350). -/
def State.replayed (s : State) (src : Src) (t : TagRec) : State :=
  (s.putCp { s.cp with taken := s.cp.taken.filter (fun x => x ≠ src) }).deliver src
    (slice t.rsp 0 7 ++ [BitVec.ofNat 8 (byteAt t.rsp 7 ||| 1)] ++ slice t.rsp 8 56)

/-- A request that names no command is taken and answered (R348, R350). -/
def State.serveUnknown (s : State) (src : Src) : State :=
  match s.replayOf src ((s.waiting src).getD []) with
  | some t => (s.take src).replayed src t
  | none => (s.take src).answer src unknownCode

/-- The mailbox whose latched request cannot be corrected: its command is not executed, and its response is INTERNAL with detail
0x36 (R251, R341). -/
def State.mbxLost (s : State) (src : Src) : Option State :=
  match src with
  | .mbx n =>
    if s.mbxSeen n .uncorrectable then
      some ((((s.take src).logUe 11 n 1 ((s.upsets.find? (fun u => u.mem == 11 && u.inst == n.val)).elim 0 Upset.addr)).rewrite
        (fun u => u.mem == 11 && u.inst == n)).answer src (refuse stINTERNAL 0x36))
    else none
  | .admin => none

/-- The next request in turn, where it is one that no row takes: it names no command, or could not be read. -/
def State.pumpTurn (s : State) : Option State :=
  match s.nextSrc with
  | none => none
  | some src =>
    match s.mbxLost src with
    | some s1 => some s1
    | none => if commandCodes.contains (leAt ((s.waiting src).getD []) 0 2) then none else some (s.serveUnknown src)

/-- Requests at the head of their turn that name no command are answered UNSUPPORTED, those not to be read INTERNAL; ADMIN entries
found with OWN 0 or malformed are dealt with, until a command that has a row of its own, or nothing, waits (R285, R293, R341,
R348). -/
def State.pump : Nat → State → State
  | 0, s => s
  | n + 1, s =>
    if !s.cpRuns then s
    else
      match s.adminEntry with
      | some d =>
        let i := s.rd F.DB_HEAD.HEAD 0
        if (s.ring 0).badRead then (s.readFailed 0 false).pump n
        else if !bit (byteAt d 31) 7 then (s.foundEarly 0 i).pump n
        else if leAt d 0 8 % 64 ≠ 0 ∨ leAt d 8 8 % 64 ≠ 0 ∨ !zeroAt d 16 15 ∨ byteAt d 31 ≠ 0x80 then
          ((s.advanceHead 0).writeCompletion 0 i (slice d 0 16 ++ [0#8, 0x0C#8] ++ zeros 13 ++ [0x40#8]) false).pump n
        else
          match s.pumpTurn with
          | some s1 => s1.pump n
          | none => s
      | none =>
        match s.pumpTurn with
        | some s1 => s1.pump n
        | none => s

/-- As many turns as there are requests and ADMIN entries given, and what stops the ring. -/
def State.pumpTurns (s : State) : Nat := 20 + (s.rd F.DB_HEAD.TAIL 0 + s.rsize 0 - s.rd F.DB_HEAD.HEAD 0) % s.rsize 0

/-- Every such request is dealt with. -/
def State.pumpAll (s : State) : State := s.pump s.pumpTurns

/-- Continued work ends: its response is written, later when the processor is restarting or its domain not ON, never when
it is HALTED (R343, R366, R367). -/
def State.answerLater (s : State) (src : Src) (r : Resp) : State :=
  if s.cpRuns then (s.answer src r).pumpAll
  else if s.service = svHALTED then s
  else s.putCp { s.cp with owed := s.cp.owed ++ [(src, r)] }

/-- An accepted command that the complex could not carry out, for a cause to which the rules give no detail byte: INTERNAL
with a free detail (R347, log entry 2). -/
def State.answerFailed (s : State) (src : Src) : State := s.tickFree.answerLater src (refuse stINTERNAL (s.free 8))

/-- Responses owed while the processor could not write them (R366). -/
def State.payOwed (s : State) : State :=
  (s.cp.owed.foldl (fun (s : State) (o : Src × Resp) => s.answerLater o.1 o.2) (s.putCp { s.cp with owed := [] })).pumpAll

/-- What a command's own rule decides at its validation step: the new state, and the response unless work continues. -/
abbrev Body := State → Src → List Byte → State × Option Resp

/-- Take a command of a code from a source and run its rule (R342, R343, R348, R350). Nothing happens when no request of
that code is next at that source. -/
def State.calvan (s : State) (src : Src) (code : Nat) (boot restricted : Bool) (body : Body) : State :=
  let req := (s.waiting src).getD []
  if !s.takes src code req then s
  else
    let s1 := s.take src
    let s2 :=
      match s.replayOf src req with
      | some t => s1.replayed src t
      | none =>
        match s.headerCheck req boot restricted with
        | some r => s1.answer src r
        | none =>
          match body s1 src (payloadOf req) with
          | (s', some r) => s'.answer src r
          | (s', none) => s'
    s2.pumpAll

/-- A body that answers at once. -/
def atOnce (f : State → List Byte → State × Resp) : Body := fun s _ p => let (s', r) := f s p; (s', some r)

/-- The first check that fails, in the order given. -/
def firstFault : List (Bool × Resp) → Option Resp
  | [] => none
  | (bad, r) :: rest => if bad then some r else firstFault rest

/-- BAD_ARG at a payload offset. -/
def badArg (off : Nat) : Resp := refuse stBAD_ARG off

/-- STATE_CONFLICT with a detail. -/
def conflict (detail : Nat) : Resp := refuse stSTATE_CONFLICT detail

/-- Reserved bytes of a payload that are not 0: BAD_ARG at the first of them. -/
def resv (p : List Byte) (off n : Nat) : Bool × Resp := ((firstNonzero p off n).isSome, badArg ((firstNonzero p off n).getD off))

/-! ### Signed objects (R357) -/

/-- The detail with which a signed object is not authentic: 1 the key's digest does not match, 2 it is revoked, 3 the
signature is invalid (R357, R360, R468). -/
def notAuthentic (keyId : Nat) (pubkey body sig : List Byte) : Option Nat :=
  if Config.sha384 pubkey ≠ Config.keyDigest keyId then some 1
  else if bit Config.revoked keyId then some 2
  else if !Config.ecdsaOk pubkey body sig then some 3
  else none

end Sys2Proof.Machine
end

