-- ==== Sys2Proof/Machine/BrineOps.lean ====
section
/-! DEFINITION. Cells of the brine pool and pages of the buffer stacks (08_buffers_trunk.md R254 to R260): how frames take
them, share them and give them back; the reserve, and the egress queues with their back-pressure (R272 to R274). -/

namespace Sys2Proof.Machine

/-- ⌈length / 256⌉ cells (R254). -/
def cellsOf (len : Nat) : Nat := ceilDiv len 256

/-- A region's size (R254, R276), less cells retired from it (R255). -/
def State.regionSize (s : State) (r : Nat) : Nat :=
  (if r = 0 then s.buf.cfg.usCells else if r = 1 then s.buf.cfg.dsCells else s.buf.cfg.hostCells) -
    smGet 0 s.buf.retiredOwn (r, 0)

def State.regionUse (s : State) (r : Nat) : RegionUse := smGet ⟨0, 0⟩ s.buf.use (r, 0)

/-- The shared region's size, less the retired cells (R254, R255). -/
def State.sharedSize (s : State) : Nat :=
  393216 - s.buf.cfg.usCells - s.buf.cfg.dsCells - s.buf.cfg.hostCells -
    (s.buf.retired - s.buf.retiredOwn.foldl (fun n e => n + e.2) 0)

/-- Cells the shared region has lent. -/
def State.sharedLent (s : State) : Nat := (s.regionUse 0).lent + (s.regionUse 1).lent + (s.regionUse 2).lent

def State.sharedFree (s : State) : Nat := s.sharedSize - s.sharedLent

/-- Take n cells for a region: its own first, then shared; none when neither kind suffices (R255). -/
def State.takeCells (s : State) (r n : Nat) : Option (Nat × State) :=
  let u := s.regionUse r
  let own := min n (s.regionSize r - u.own)
  let lent := n - own
  if lent > s.sharedFree then none
  else
    let id := s.buf.nextCell
    let s1 := s.putBuf { s.buf with
      brine := smPut s.buf.brine (id, 0) ⟨r, own, lent, 1, false⟩, nextCell := id + 1,
      use := smSet ⟨0, 0⟩ s.buf.use (r, 0) ⟨u.own + own, u.lent + lent⟩ }
    some (id, if lent = 0 then s1 else s1.blockEvent 99 0x06 lent)

/-- A frame's cells grow by n (a reassembly, R120). -/
def State.growCells (s : State) (id n : Nat) : Option State :=
  match smFind s.buf.brine (id, 0) with
  | none => none
  | some o =>
    let u := s.regionUse o.region
    let own := min n (s.regionSize o.region - u.own)
    let lent := n - own
    if lent > s.sharedFree then none
    else some (s.putBuf { s.buf with
      brine := smPut s.buf.brine (id, 0) { o with own := o.own + own, lent := o.lent + lent },
      use := smSet ⟨0, 0⟩ s.buf.use (o.region, 0) ⟨u.own + own, u.lent + lent⟩ })

/-- One more holder of a frame's cells (R256). -/
def State.holdCells (s : State) (id : Nat) : State :=
  match smFind s.buf.brine (id, 0) with
  | none => s
  | some o => s.putBuf { s.buf with brine := smPut s.buf.brine (id, 0) { o with holders := o.holders + 1 } }

/-- A holder releases a frame's cells; they are freed with the last holder, each to the region that lent it (R255, R256). -/
def State.freeCells (s : State) (id : Nat) : State :=
  match smFind s.buf.brine (id, 0) with
  | none => s
  | some o =>
    if o.holders > 1 then
      s.putBuf { s.buf with brine := smPut s.buf.brine (id, 0) { o with holders := o.holders - 1 } }
    else
      let u := s.regionUse o.region
      s.putBuf { s.buf with
          brine := smDel s.buf.brine (id, 0),
          use := smSet ⟨0, 0⟩ s.buf.use (o.region, 0) ⟨u.own - o.own, u.lent - o.lent⟩ }

/-- A frame's cells are read (R250, R251): a corrected one counts; one that cannot be corrected loses the frame for every
holder of its cells, and is retired when it fails again once rewritten, up to 1,024 cells, from the shared region while that has
a free cell, else from its own (R255). The Boolean says that the frame is lost. -/
def State.cellRead (s : State) (id : Nat) : Bool × State :=
  match smFind s.buf.brine (id, 0) with
  | none => (false, s)
  | some o =>
    let here := s.upsets.filter (fun u => u.mem == 1 && u.inst == id)
    let s1 := (here.filter (fun u => upsetSeen u == .corrected)).foldl (fun s u => (s.rewriteWord 1 id u.addr).corrected 0) s
    match here.find? (fun u => upsetSeen u == .uncorrectable) with
    | none => (o.lost, s1)
    | some u =>
      let again := u.stuck && decide (s1.buf.retired < 1024)
      let own := if s1.sharedFree > 0 then s1.buf.retiredOwn else smMod 0 s1.buf.retiredOwn (o.region, 0) (· + 1)
      let s2 := if again then s1.putBuf { s1.buf with retired := s1.buf.retired + 1, retiredOwn := own } else s1
      let s3 := (s2.putUpsets (s2.upsets.filter (fun v => !upsetAt v 1 id u.addr))).logUe 1 0 (if again then 3 else 1) u.addr
      (true, s3.putBuf { s3.buf with brine := smPut s3.buf.brine (id, 0) { o with lost := true } })

/-! ### Queues, pages and their links (R257 to R259) -/

/-- The number of a downstream queue (R257). -/
def queueNo (t term cls : Nat) : Nat := t * 8192 + term * 8 + cls

/-- The number of an upstream spill queue (R257). -/
def spillNo (lane cls : Nat) : Nat := 0xC0000 + lane * 8 + cls

/-- The queue a number names (R257): a downstream queue as (tree, terminal, class), a spill queue as (lane, class), or nothing. -/
def queueOf (q : Nat) : Option ((Nat × Nat × Nat) ⊕ (Nat × Nat)) :=
  if q < 0xC0000 then some (.inl (q / 8192, q / 8 % 1024, q % 8))
  else if q < 0xC0040 then some (.inr (q % 64 / 8, q % 8))
  else none

/-- The stack a page lies in, and its first byte there (R258). -/
def pageStack (p : Nat) : Nat := p % 2
def pageByte (p : Nat) : Nat := p / 2 * 4096

/-- A page's link entry: its byte in table stack p[0], and the protection word that byte lies in (R247, R259). -/
def linkByte (p : Nat) : Nat := 2 ^ 29 + p / 2 * 8
def linkWord (p : Nat) : Nat := linkByte p / 32

/-- A link entry (R259). -/
def linkEntry (next queue seq : Nat) : Nat := next % 2 ^ 24 + queue % 2 ^ 20 * 2 ^ 24 + seq % 2 ^ 20 * 2 ^ 44
def linkNext (l : Nat) : Nat := bits l 0 24
def linkQueue (l : Nat) : Nat := bits l 24 20
def linkSeq (l : Nat) : Nat := bits l 44 20

def State.pageLink (s : State) (p : Nat) : Nat := smGet 0 s.buf.links (p, 0)

/-- Free pages of a stack. -/
def State.freeIn (s : State) (k : Nat) : Nat :=
  if k = 0 then s.buf.freed0.length + (6291456 - s.buf.fresh0) else s.buf.freed1.length + (6291456 - s.buf.fresh1)

/-- Take a page of a stack that has one free: the one last given back, else the lowest never taken (log entry 62). -/
def State.popPage (s : State) (k : Nat) : Nat × State :=
  if k = 0 then
    match s.buf.freed0 with
    | p :: r => (p, s.putBuf { s.buf with freed0 := r })
    | [] => (2 * s.buf.fresh0, s.putBuf { s.buf with fresh0 := s.buf.fresh0 + 1 })
  else
    match s.buf.freed1 with
    | p :: r => (p, s.putBuf { s.buf with freed1 := r })
    | [] => (2 * s.buf.fresh1 + 1, s.putBuf { s.buf with fresh1 := s.buf.fresh1 + 1 })

/-- A page joins a queue behind its tail: its own link entry, and the tail's NEXT, are written (R259). -/
def State.linkPage (s : State) (q seq p : Nat) (tail : Option Nat) : State :=
  let m := smSet 0 s.buf.links (p, 0) (linkEntry 0 q seq)
  s.putBuf { s.buf with links := match tail with
    | some t => smMod 0 m (t, 0) (fun l => linkEntry p (linkQueue l) (linkSeq l))
    | none => m }

/-- Take the next page of queue number q: from the other stack than its last, else from the same (R258). -/
def State.takePage (s : State) (q seq : Nat) (pages : List Nat) : Option (Nat × State) :=
  let want := match pages.getLast? with
    | some p => 1 - pageStack p
    | none => 0
  let k := if s.freeIn want > 0 then want else 1 - want
  if s.freeIn k = 0 then none
  else
    let r := s.popPage k
    some (r.1, r.2.linkPage q seq r.1 pages.getLast?)

/-- Give pages back to the free lists of their stacks. -/
def State.givePages (s : State) (pages : List Nat) : State :=
  s.putBuf { s.buf with freed0 := pages.filter (fun p => pageStack p == 0) ++ s.buf.freed0,
                        freed1 := pages.filter (fun p => pageStack p != 0) ++ s.buf.freed1 }

/-- Take n pages one after the other for queue number q, from sequence seq on; none when they cannot all be had. -/
def State.takePages (q : Nat) : Nat → Nat → State → List Nat → Option (List Nat × State)
  | 0, _, s, pages => some (pages, s)
  | n + 1, seq, s, pages =>
    match s.takePage q seq pages with
    | none => none
    | some (p, s') => State.takePages q n ((seq + 1) % 2 ^ 20) s' (pages ++ [p])

/-- Bytes of a queue's pages in use: every frame with its 8-byte record (R258). -/
def packedBytes (headOff : Nat) (lens : List Nat) : Nat := lens.foldl (fun a l => a + l + 8) headOff

/-- The pages a queue needs for its packed bytes. -/
def pagesNeeded (headOff : Nat) (lens : List Nat) : Nat := if lens = [] then 0 else ceilDiv (packedBytes headOff lens) 4096

def State.deepQ (s : State) (t term cls : Nat) : DeepQ := smGet DeepQ.reset s.buf.queues (t, term * 8 + cls)
def State.setDeepQ (s : State) (t term cls : Nat) (q : DeepQ) : State :=
  { s with buf := { s.buf with queues := smSet DeepQ.reset s.buf.queues (t, term * 8 + cls) q } }

/-- A queue's depth: frame lengths under R7 (R258). -/
def DeepQ.depth (q : DeepQ) : Nat := q.frames.foldl (fun a f => a + f.bytes.length) 0

def State.setBuf (s : State) (f : Buffers → Buffers) : State := { s with buf := f s.buf }

/-! ### Pages and the reserve (R258, R260) -/

/-- An admission profile. -/
def State.qprof (s : State) (p : Nat) : QProf := smGet QProf.reset s.buf.profiles (p, 0)

/-- Bytes of a guarantee that a queue's own pages do not yet cover. -/
def uncovered (minBytes pages : Nat) : Nat := minBytes - 4096 * pages

/-- The reserve in bytes, each profile's guarantee given by a function (R260): queues that hold their reset settings use
profile 0. -/
def State.reserveWith (s : State) (minOf : Nat → Nat) : Nat :=
  s.buf.queues.foldl (fun n e => n + uncovered (minOf e.2.profile) e.2.pages.length)
    ((786432 - s.buf.queues.length) * uncovered (minOf 0) 0)

def State.reserveBytes (s : State) : Nat := s.reserveWith (fun p => (s.qprof p).minBytes)

/-- The reserve in whole pages (R277). -/
def State.reservePages (s : State) : Nat := ceilDiv s.reserveBytes 4096

def State.freePages (s : State) : Nat := s.freeIn 0 + s.freeIn 1

/-- Bytes of free pages not reserved for guarantees (R260). -/
def State.sharedBytes (s : State) : Nat := 4096 * s.freePages - s.reserveBytes

/-- Pages the spill queues hold. -/
def State.spillPages (s : State) : Nat := s.buf.egress.foldl (fun n e => n + e.2.pages.length) 0

/-- Pages every queue holds. -/
def State.heldPages (s : State) : Nat := s.buf.queues.foldl (fun n e => n + e.2.pages.length) s.spillPages

/-- Whether a reserve in bytes fits (R261). -/
def State.reserveFits (s : State) (r : Nat) : Bool :=
  decide (ceilDiv r 4096 ≤ s.freePages + s.heldPages - s.buf.cfg.spillMax)

/-- Spill room (R272): for `n` further pages. -/
def State.spillRoom (s : State) (n : Nat) : Bool :=
  decide (s.spillPages + n ≤ s.buf.cfg.spillMax) && decide (s.reservePages + n ≤ s.freePages)

/-- A queue's first frames are taken out: the pages passed go back, all of them when the queue empties (R258). -/
def dropHead (headOff : Nat) (pages : List Nat) (lens : List Nat) (k : Nat) : Nat × List Nat × List Nat :=
  let off := packedBytes headOff (lens.take k)
  if k ≥ lens.length then (0, [], pages) else (off % 4096, pages.drop (off / 4096), pages.take (off / 4096))

/-- A tree's lane (R265). -/
def laneOf (t : Nat) : Nat := t / 12

/-! ### Trunk egress queues (R269, R272 to R274) -/

def State.egressQ (s : State) (lane cls : Nat) : EgressQ := smGet EgressQ.reset s.buf.egress (lane, cls)
def State.setEgressQ (s : State) (lane cls : Nat) (q : EgressQ) : State :=
  s.setBuf (fun b => { b with egress := smSet EgressQ.reset b.egress (lane, cls) q })

/-- The upstream cells a (lane, class) holds (R272). -/
def State.heldCells (s : State) (q : EgressQ) : Nat :=
  (q.brine ++ q.toSpill).foldl
    (fun n f => match smFind s.buf.brine (f.cell, 0) with
      | some o => if o.region = 0 then n + o.own + o.lent else n
      | none => n) 0

/-- The next state of a (lane, class) (R272). -/
def State.egressNext (s : State) (q : EgressQ) : Nat :=
  let held := s.heldCells q
  let calm := q.spill.isEmpty && decide (held ≤ s.buf.cfg.spillOn / 2)
  if q.st = 0 then (if held > s.buf.cfg.spillOn then (if s.buf.cfg.spillEn ∧ s.spillRoom 1 then 1 else 2) else 0)
  else if calm then 0
  else if q.st = 1 then (if s.spillRoom 1 then 1 else 2)
  else if s.buf.cfg.spillEn ∧ s.spillRoom 1 then 1
  else 2

/-- A shrink is posted when a class that shrinks enters SPILL or FULL, and released when no class of the lane is left in
either (R274). -/
def State.postShrink (s : State) (lane cls st : Nat) : State :=
  if st ≠ 0 then
    (if s.buf.cfg.shrinkEn ∧ bit s.buf.cfg.shrinkMask cls ∧ !s.buf.shrunk.contains lane then
      s.setBuf (fun b => { b with shrunk := b.shrunk ++ [lane] }) else s)
  else if (List.range 8).any (fun c => (s.egressQ lane c).st ≠ 0) then s
  else s.setBuf (fun b => { b with shrunk := b.shrunk.filter (· ≠ lane) })

/-- A (lane, class) takes the state its queues bring (R272); frames waiting for a spill write go to the brine queue when
nothing spilled is ahead of them and the state is not SPILL. -/
def State.egressSettle (s : State) (lane cls : Nat) : State :=
  let q := s.egressQ lane cls
  let st := s.egressNext q
  let q1 := if st ≠ 1 ∧ q.spill = [] then { q with st := st, brine := q.brine ++ q.toSpill, toSpill := [] } else { q with st := st }
  let s1 := s.setEgressQ lane cls q1
  if st = q.st then s1 else s1.postShrink lane cls st

/-- Every (lane, class) takes the state that pages and settings bring (R272), in rising lane and class. -/
def State.settleAll (s : State) : State :=
  (s.buf.egress.map (fun e => e.1)).foldl (fun s k => s.egressSettle k.1 k.2) s

/-- A frame enters its trunk egress queue: the brine queue, or behind the frames spilled (R272). -/
def State.toEgress (s : State) (f : UsFrame) : State :=
  let lane := laneOf f.tree
  let q := s.egressQ lane f.cls
  let q1 := if q.st = 1 ∨ q.spill ≠ [] ∨ q.toSpill ≠ [] then { q with toSpill := q.toSpill ++ [f] } else { q with brine := q.brine ++ [f] }
  (s.setEgressQ lane f.cls q1).egressSettle lane f.cls

/-- A queue is emptied and its pages freed. -/
def State.clearQ (s : State) (t term cls : Nat) : State :=
  let q := s.deepQ t term cls
  (s.givePages q.pages).setDeepQ t term cls { q with frames := [], pages := [], headOff := 0 }

/-- A frame that came from a host TX ring completes with a status; a frame from the trunk has no completion. -/
def State.endFrame (s : State) (o : Origin) (status : Nat) : State :=
  match o with
  | .trunk => s
  | .host r i => s.txFail r i status

/-- Flush the queues a test names: their frames count DS_FLUSH on their tree, their pages are freed (R263), and frames of
host rings among them complete with a status. -/
def State.flushQueues (s : State) (which : Key → Bool) (status : Nat) : State :=
  ((s.buf.queues.filter (fun e => which e.1)).foldl
    (fun s e =>
      let s1 := (s.clearQ e.1.1 (e.1.2 / 8) (e.1.2 % 8)).addCnt (pageTree e.1.1) 0xD8 e.2.frames.length
      e.2.frames.foldl (fun s f => s.endFrame f.origin status) s1) s).settleAll

end Sys2Proof.Machine
end

