-- ==== Sys2Proof/Machine/TreeOps.lean ====
section
/-! DEFINITION. What the rows of both halves of a tree engine share (03_tree_downstream.md, 04_tree_upstream.md): records
of trees, terminals, slots and reassemblies, PLOAM queues (R80, R81), tree and terminal state changes (R102, R103,
R128), staged frames, key slots and their erasing (R93, R99, R126). -/

namespace Sys2Proof.Machine

/-! ### Records -/

def State.tree (s : State) (t : Nat) : Tree := smGet Tree.reset s.trees (t, 0)
def State.setTree (s : State) (t : Nat) (x : Tree) : State := { s with trees := smSet Tree.reset s.trees (t, 0) x }
def State.treeU (s : State) (t : Nat) : TreeUs := smGet TreeUs.reset s.treeUs (t, 0)
def State.setTreeU (s : State) (t : Nat) (x : TreeUs) : State := { s with treeUs := smSet TreeUs.reset s.treeUs (t, 0) x }
def State.term (s : State) (t k : Nat) : Term := smGet Term.unused s.terms (t, k)
def State.setTerm (s : State) (t k : Nat) (x : Term) : State := s.putTerms (smSet Term.unused s.terms (t, k) x)
def State.flow (s : State) (t p : Nat) : Option Flow := smFind s.flows (t, p)
def State.alloc (s : State) (t a : Nat) : Option Alloc := smFind s.allocs (t, a)
def State.slot (s : State) (h : Nat) : KeySlot := smGet KeySlot.free s.slots (h, 0)
def State.setSlot (s : State) (h : Nat) (x : KeySlot) : State := { s with slots := smSet KeySlot.free s.slots (h, 0) x }
def State.shared (s : State) (t : Nat) : SluShared := smGet SluShared.reset s.sluShared (t, 0)
def State.setShared (s : State) (t : Nat) (x : SluShared) : State := { s with sluShared := smSet SluShared.reset s.sluShared (t, 0) x }
def State.sluTree (s : State) (u t : Nat) : SluTree := smGet SluTree.reset s.sluTrees (u, t)
def State.setSluTree (s : State) (u t : Nat) (x : SluTree) : State := { s with sluTrees := smSet SluTree.reset s.sluTrees (u, t) x }
def State.sluUnit (s : State) (u : Nat) : SluUnit := smGet SluUnit.reset s.sluUnits (u, 0)
def State.setSluUnit (s : State) (u : Nat) (x : SluUnit) : State := { s with sluUnits := smSet SluUnit.reset s.sluUnits (u, 0) x }

/-- Terminal state codes of R128. -/
def tmUNUSED : Nat := 0
def tmEXPECTED : Nat := 1
def tmRANGING : Nat := 2
def tmOPERATION : Nat := 3
def tmLOST : Nat := 4
def tmSTOPPED : Nat := 5

/-- The records listed for a tree, with their indices. -/
def State.termsOf (s : State) (t : Nat) : List (Nat × Term) :=
  (s.terms.filter (fun e => e.1.1 == t)).map (fun e => (e.1.2, e.2))

/-- The allocations of a tree, in rising index. -/
def State.allocsOf (s : State) (t : Nat) : List (Nat × Alloc) :=
  (s.allocs.filter (fun e => e.1.1 == t)).map (fun e => (e.1.2, e.2))

/-- Whether a tree's profile is F50 (R74). -/
def State.f50 (s : State) (t : Nat) : Bool := s.flag F.TRE_STATE.PROFILE t

/-- Forecast records installed, as the register counts them: those of the unit that is ACTIVE or was last (R185). -/
def State.countForecasts (s : State) : State :=
  s.wr F.SLU_FC_USED.ENTRIES 0 (s.sluUnit (s.rd F.SLU_STATUS.ACTIVE 0)).forecasts.length

/-! ### PLOAM queues -/

/-- Whether a message finds room in a queue of its own: the URGENT one where it is for that, or the NORMAL one (R81). -/
def Tree.ploamRoom (x : Tree) (p : Ploam) : Bool := (p.urgent && decide (x.urgent.length < 16)) || decide (x.normal.length < 48)

/-- A message joins the URGENT queue where it is for that and finds room, else the tail of the NORMAL queue, or is held by the
control processor when that is full too (R80, R81). -/
def State.ploamPut (s : State) (t : Nat) (p : Ploam) : State :=
  let x := s.tree t
  if p.urgent ∧ x.urgent.length < 16 then s.setTree t { x with urgent := x.urgent ++ [p] }
  else if x.normal.length < 48 then s.setTree t { x with normal := x.normal ++ [p] }
  else s.setTree t { x with held := x.held ++ [p] }

/-- A message for the NORMAL queue. -/
def State.ploamNormal (s : State) (t term : Nat) (m : PloamMsg) : State := s.ploamPut t ⟨term, m, s.tide, false⟩

/-- A message for the URGENT queue. -/
def State.ploamUrgent (s : State) (t term : Nat) (m : PloamMsg) : State := s.ploamPut t ⟨term, m, s.tide, true⟩

/-- A terminal's receive window is open: its PLOAM messages are held for its next aware interval (R137). -/
def Term.rxClosed (x : Term) : Bool :=
  match x.win with
  | some w => w.opened && w.asleep && decide (w.mode ≥ 2)
  | none => false

/-- The terminal is to be awake: while its receive window is open, the sleep-allow message with sleep not allowed is held
for its next aware interval, from which it is treated as awake (R137, R138). -/
def State.forceAwake (s : State) (t k : Nat) : State :=
  let x := s.term t k
  if !x.rxClosed || x.forceAwake then s
  else
    let s1 := s.setTerm t k { x with forceAwake := true }
    s1.setTree t { s1.tree t with held := (s1.tree t).held ++ [⟨k, .sleepAllow false, s.tide, false⟩] }

/-- A terminal whose staged unicast bytes exceed its WAKE_KIB while its receive window is open is to be awake (R138). -/
def State.wakeStaged (s : State) (t term : Nat) : State :=
  let n := ((s.tree t).staged.filter (fun f => f.term == term)).foldl (fun a f => a + f.bytes.length) 0
  if term < 1023 ∧ n > (s.term t term).wakeKib * 1024 then s.forceAwake t term else s

/-- Burst profiles whose announcement is still owed are queued for the first frame the tree sends (R113, R114), as placed
before its map's latch instant (R78, R80). -/
def State.reannounce (s : State) (t : Nat) : State :=
  (s.bprofs.filter (fun e => e.1.1 == t && e.2.announce)).foldl
    (fun s e =>
      let m := PloamMsg.burstProfile (e.1.2 / 4) (e.1.2 % 4) e.2.now.defined
      if ((s.tree t).normal ++ (s.tree t).held).any (fun p => p.msg == m) then s
      else
        let s1 := s.ploamNormal t 1023 m
        let early := min s.tide (boundary t (s.treeU t).announceF - 501 * 256)
        s1.setTree t { s1.tree t with normal := (s1.tree t).normal.map (fun p => if p.msg == m then { p with at_ := early } else p) }) s

/-- Firmware asks a terminal for an upstream PLOAM message until one arrives (R160); when it asks is the model's choice: with
each message of its own to a terminal in OPERATION, and as a terminal enters OPERATION (log entry 60). -/
def State.askPloamu (s : State) (t k : Nat) : State :=
  let h := s.shared t
  if (s.term t k).state ≠ tmOPERATION ∨ h.askPloamu.contains k then s
  else s.setShared t { h with askPloamu := h.askPloamu ++ [k] }

/-- A message for one terminal: held while its receive window is open, which ends the terminal's sleep, else queued (R80,
R137, R138). -/
def State.ploamTo (s : State) (t term : Nat) (m : PloamMsg) : State :=
  (if (s.term t term).rxClosed then
    (s.setTree t { s.tree t with held := (s.tree t).held ++ [⟨term, m, s.tide, false⟩] }).forceAwake t term
  else s.ploamNormal t term m).askPloamu t term

/-- Every message queued or held for a tree is discarded (R81). -/
def State.ploamClear (s : State) (t : Nat) : State := s.setTree t { s.tree t with urgent := [], normal := [], held := [] }

/-! ### Terminals -/

/-- Flow ports of a tree. -/
def State.portsUsed (s : State) (t : Nat) : Nat := (s.flows.filter (fun e => e.1.1 == t)).length

/-- OPER_TERMS follows the records in OPERATION (R109). -/
def State.countOper (s : State) (t : Nat) : State :=
  s.wr F.TRE_STATE.OPER_TERMS t ((s.termsOf t).filter (fun e => e.2.state == tmOPERATION)).length

/-- The accounts of a terminal's allocations are set to 0 in both units (R152). -/
def State.zeroAccounts (s : State) (t k : Nat) : State :=
  let own := (s.allocsOf t).filter (fun e => e.2.term == k)
  [0, 1].foldl (fun s u =>
    s.setSluTree u t { s.sluTree u t with acct := (s.sluTree u t).acct.filter (fun e => !own.any (fun a => a.1 == e.1.1)) }) s

/-- A record changes state (R128): the frame of the change is kept and TERM_STATE sets. -/
def State.termState (s : State) (t k st : Nat) : State :=
  let x := s.term t k
  if x.state = st then s
  else
    let s1 := s.setTerm t k { x with state := st, sinceF := s.frame t }
    (s1.countOper t).treUsEvent t F.TRE_US_EVENT.TERM_STATE

/-- Open reassemblies a test names are discarded, their cells freed; `count` says whether TRE_US_REASM_ABORT counts them
(R120). -/
def State.dropReasm (s : State) (t : Nat) (which : Nat → Reasm → Bool) (count : Bool) : State :=
  (s.reasms.filter (fun e => e.1.1 == t && which e.1.2 e.2)).foldl
    (fun s e =>
      let s1 := (s.putReasms (smDel s.reasms e.1)).freeCells e.2.cell
      if count then s1.incSat F.TRE_US_REASM_ABORT.COUNT t 1 else s1) s

/-- A ranging request of a terminal (R161): it joins the tree's queue of 16, or stays with the record. -/
def State.askRanging (s : State) (t k : Nat) : State :=
  let h := s.shared t
  if h.rangeQ.contains k then s
  else if h.rangeQ.length < 16 then s.setShared t { h with rangeQ := h.rangeQ ++ [k] }
  else s.setTerm t k { s.term t k with wantsRange := true }

/-- Requests that stayed with their records enter the queue as it frees (R161), in rising index (log entry 60). -/
def State.fillRanging (s : State) (t : Nat) : State :=
  ((s.termsOf t).filter (fun e => e.2.wantsRange && e.2.state == tmRANGING)).foldl
    (fun s e =>
      if (s.shared t).rangeQ.length < 16 then
        (s.setTerm t e.1 { s.term t e.1 with wantsRange := false }).askRanging t e.1
      else s) s

/-- A ranging request of a terminal is gone (R170). -/
def State.dropRanging (s : State) (t k : Nat) : State :=
  let h := s.shared t
  (s.setShared t { h with rangeQ := h.rangeQ.filter (· ≠ k), askPloamu := h.askPloamu.filter (· ≠ k) }).fillRanging t

/-- A removed record becomes UNUSED (R128, R143). -/
def State.recordUnused (s : State) (t k : Nat) : State :=
  ((s.setTerm t k Term.unused).countOper t).treUsEvent t F.TRE_US_EVENT.TERM_STATE

/-- A tree enters DISABLED, DORMANT or FAULT: RANGING, OPERATION and LOST records return to EXPECTED, open reassemblies
are discarded, and a record whose deregistration can no longer be sent becomes UNUSED (R128, R143). -/
def State.termsLeave (s : State) (t : Nat) : State :=
  let s1 := s.dropReasm t (fun _ _ => true) false
  let s2 := (s1.termsOf t).foldl
    (fun s e =>
      let k := e.1
      let x := e.2
      if x.removing then s.recordUnused t k
      else if x.state = tmRANGING ∨ x.state = tmOPERATION ∨ x.state = tmLOST then
        (s.setTerm t k { x with win := none, forceAwake := false, ranged := false, rangedF := none, tries := 0, lob := 0, wantsRange := false }).termState t k tmEXPECTED
      else s) s1
  s2.setShared t { s2.shared t with rangeQ := [], quiet := none, askPloamu := [], due := false }

/-! ### Staged frames -/

/-- Staged bytes of a (terminal, class) (R264, R277). -/
def State.stagedBytes (s : State) (t term cls : Nat) : Nat :=
  ((s.tree t).staged.filter (fun f => f.term == term && f.cls == cls && !f.omci && f.launch.isNone)).foldl
    (fun a f => a + f.bytes.length) 0

/-- Staged frames a test names leave staging: their cells are freed, and host frames complete with a status. -/
def State.dropStaged (s : State) (t : Nat) (which : Staged → Bool) (status : Nat) : State :=
  let gone := (s.tree t).staged.filter which
  let s1 := s.setTree t { s.tree t with staged := (s.tree t).staged.filter (fun f => !which f) }
  gone.foldl (fun s f => (s.freeCells f.cell).endFrame f.origin status) s1

/-- The frame partly sent is given up: its cells are freed and a host frame completes with a status. -/
def State.dropInFlight (s : State) (t status : Nat) : State :=
  match (s.tree t).inFlight with
  | none => s
  | some x => ((s.setTree t { s.tree t with inFlight := none }).freeCells x.frame.cell).endFrame x.frame.origin status

/-- Host-ring frames held for a tree complete with a status; frames from the trunk stay (R289). -/
def Staged.ofHost (f : Staged) : Bool :=
  match f.origin with
  | .trunk => false
  | .host _ _ => true

/-! ### Tree states -/

/-- A tree changes state (R101, R102): TRE_EVENT reports the change, entry into DORMANT and exit from it. -/
def State.treeState (s : State) (t st : Nat) : State :=
  let old := s.tstate t
  if old = st then s
  else
    let s1 := (s.wr F.TRE_STATE.STATE t st).treEvent t F.TRE_EVENT.STATE_CHANGE
    let s2 := if st = trDORMANT then s1.treEvent t F.TRE_EVENT.DORMANT else s1
    if old = trDORMANT then s2.treEvent t F.TRE_EVENT.WAKE else s2

/-- The response payload of TREE_ENABLE (R108). -/
def enablePayload (state reason : Nat) (startF : Int) : List Byte :=
  leBytes 1 state ++ leBytes 1 reason ++ zeros 6 ++ leBytes 8 (f51 startF)

/-- GLB_STATUS.UNTESTED is 1 while an image started untested is current, retained or the running control image (R359). -/
def State.flagUntested (s : State) : State :=
  s.wrB F.GLB_STATUS.UNTESTED 0 (s.cp.slots.any (fun (e : Key × ImageSlots) => e.2.current.any (fun i => i.untested) || e.2.retained.any (fun i => i.untested)))

/-- Whether a tree runs an image of a kind and build (R364). -/
def State.imageRuns (s : State) (kind build : Nat) : Bool := s.trees.any (fun (e : Key × Tree) => e.2.image == some (kind, build))

/-- A retained image that no tree runs is freed (R364). -/
def State.freeRetained (s : State) : State :=
  (s.putCp { s.cp with slots := s.cp.slots.map (fun (e : Key × ImageSlots) =>
      (e.1, { e.2 with retained := e.2.retained.filter (fun i => s.imageRuns e.1.1 i.build) })) }).flagUntested

/-- A pending scheduled start ends without a frame, and the image its tree would have run is no longer taken (R364); if its
response is still owed it answers OK with STATE 0 and START_F 0 (R102, R108). -/
def State.cancelStart (s : State) (t : Nat) : State :=
  match (s.tree t).start with
  | none => s
  | some x =>
    let s1 := (s.setTree t { s.tree t with start := none, image := none }).freeRetained
    match x.src with
    | some src => s1.answerLater src (okWith (enablePayload trDISABLED 0 0))
    | none => s1

/-- An idle XGEM frame of `n` bytes fills space of the frame being sent (R77, R82, R84). -/
def State.idleFill (s : State) (t n : Nat) : State :=
  ((s.setTree t { s.tree t with xgemLeft := (s.tree t).xgemLeft - n }).emit (.xgemIdle t n)).blockEvent t 0x02 1

/-- The downstream frame being sent ends at a boundary: an idle XGEM frame in the space left, then the FS trailer (R77). -/
def State.endFsFrame (s : State) (t : Nat) : State :=
  if !(s.tree t).txOn then s
  else
    let n := (s.tree t).xgemLeft
    (if n = 0 then s else s.idleFill t n).emit (.dsTrailer t)

/-- What ends when a tree stops sending at once (FAULT, DISABLED): laser decision, maps, PLOAM messages (R81, R100, R102). -/
def State.treeStop (s : State) (t : Nat) : State :=
  let s1 := s.ploamClear t
  let x := s1.tree t
  s1.setTree t { x with txOn := false, leaving := none, firstF := none, stayUntil := none, emptyRun := 0, woken := false,
                        survey := false, relMap := none, latched := none, mapKind := 2, ploamMax := none, warmNow := false, xgemLeft := 0 }

/-- A fault reaches a tree (R102, R103): DORMANT, ACTIVE and PROT_STANDBY go to FAULT with the cause; a tree in DISABLED
keeps its state and only a pending start is cancelled. -/
def State.treeFault (s : State) (t cause : Nat) : State :=
  if s.tstate t = trDISABLED then s.cancelStart t
  else if s.tstate t = trFAULT then s
  else
    let s1 := (s.treeStop t).wr F.TRE_STATE.FAULT_CAUSE t cause
    let s2 := (s1.treeState t trFAULT).treEvent t F.TRE_EVENT.FAULT
    let s3 := s2.termsLeave t
    s3.setTreeU t { s3.treeU t with expected := [], sweep := none, rogueRun := 0 }

/-- TXDIS of a tree: low only while it is ACTIVE, its pair domain is ON, TXDIS_ALL is 0 and the engine has decided to
transmit (R14). -/
def State.txdis (s : State) (t : Nat) : Bool :=
  !(s.bnd.islandUp && decide (s.tstate t = trACTIVE) && s.on (pairOf t) && !s.flag F.GLB_CTL.TXDIS_ALL 0 && (s.tree t).txOn)

/-- Light at SD of a tree as both samplers see it, after SD_POL (R17). -/
def State.seesLight (s : State) (t : Nat) : Bool := smGet false s.bnd.sd (t, 0) != s.flag F.TRE_OPTIC.SD_POL t

/-- SD of a tree shows light or dark from now on: the ball takes the level that says so (R17). -/
def State.sdShows (s : State) (t : Nat) (light : Bool) : State :=
  s.putBnd { s.bnd with sd := smSet false s.bnd.sd (t, 0) (light != s.flag F.TRE_OPTIC.SD_POL t) }

/-! ### Key slots -/

/-- Whether a slot is in use: BOUND and its tree not DISABLED (R87). -/
def State.slotInUse (s : State) (h : Nat) : Bool := (s.slot h).bound && decide (s.tstate (s.slot h).tree ≠ trDISABLED)

/-- A slot is bound as a terminal's unicast slot (R87). -/
def State.unicastBound (s : State) (h t k : Nat) : Bool :=
  let x := s.slot h
  x.bound && x.kind == 0 && x.tree == t && x.term == k

/-- A slot is bound as a tree's broadcast slot (R87). -/
def State.bcastBound (s : State) (h t : Nat) : Bool :=
  let x := s.slot h
  x.bound && x.kind == 1 && x.tree == t

/-- The slot that serves a downstream frame of a terminal: its unicast slot, or the tree's broadcast slot (R85, R99). -/
def State.dsSlot (s : State) (t term : Nat) : Option Nat :=
  if term = 1023 then
    match (s.tree t).bcastOld with
    | some h => h.filter (fun h => s.bcastBound h t)
    | none => if s.flag F.TRE_BCAST_SLOT.VALID t then some (s.rd F.TRE_BCAST_SLOT.SLOT t) else none
  else (s.term t term).slot

/-- The fragment of a tree's frame sent last is cut at a 64-byte block of its payload while its FS frame is still going out:
the rest of its declared length goes out as zeros (R93). How far its bytes had come is the cipher engine's (log entry 58). -/
def State.zeroTail (s : State) (t : Nat) (x : InFlight) : State :=
  if x.fragF < s.frame t then s
  else
    let kept := 64 * (s.free 32 % (x.frag / 64 + 1))
    s.tickFree.emit (.xgemCut t (x.frag - kept))

/-- A frame being sent under a slot, in the banks a test names, is cut: its fragment ends in zeros, no further fragment of it
is sent, TRE_DS_ABORT increments and a host frame completes KEY_LOST; a frame whose last byte had entered the cipher engine is
sent whole (R89, R93). -/
def State.cutInFlight (s : State) (h : Nat) (which : Bool → Bool) : State :=
  (List.range 96).foldl
    (fun s t =>
      match (s.tree t).inFlight with
      | some x =>
        if x.slot = some h ∧ which x.bank ∧ !x.whole then
          ((s.zeroTail t x).dropInFlight t txKEY_LOST).incSat F.TRE_DS_ABORT.COUNT t 1
        else s
      | none => s) s

/-- Upstream frames with a byte decrypted under a slot that have not left reassembly are zero-filled and dropped
(R126). -/
def State.dropDecrypted (s : State) (h : Nat) : State :=
  (s.reasms.filter (fun e => e.2.slot == some h)).foldl
    (fun s e => ((s.putReasms (smDel s.reasms e.1)).freeCells e.2.cell).incSat F.TRE_US_KEYLOST.COUNT e.1.1 1) s

/-- Both banks of a slot become EMPTY and its pending switch is cancelled; the frames under it are cut and dropped, and
KEY_ERASED sets on its tree (R93, R126). A slot with nothing to erase is left as it is (R98). -/
def State.eraseSlot (s : State) (h : Nat) : State :=
  let x := s.slot h
  if x.cur.state = 0 ∧ x.next.state = 0 ∧ x.switchF = none then s
  else
    let s1 := (s.setSlot h { x with cur := Bank.empty, next := Bank.empty, switchF := none }).emit (.cipher 0 h 2)
    let s2 := (s1.cutInFlight h (fun _ => true)).dropDecrypted h
    if x.bound then s2.treEvent x.tree F.TRE_EVENT.KEY_ERASED else s2

/-- A slot returns to FREE; the reference its owner held is cleared in the same cycle (R93, R99). -/
def State.unbindSlot (s : State) (h : Nat) : State :=
  let x := s.slot h
  if !x.bound then s
  else
    let s1 := s.setSlot h { x with bound := false, kind := 0, tree := 0, term := 0 }
    if x.kind = 1 then
      if s1.flag F.TRE_BCAST_SLOT.VALID x.tree ∧ s1.rd F.TRE_BCAST_SLOT.SLOT x.tree = h then
        s1.wr F.TRE_BCAST_SLOT.VALID x.tree 0
      else s1
    else if (s1.term x.tree x.term).slot = some h then
      s1.setTerm x.tree x.term { s1.term x.tree x.term with slot := none }
    else s1

end Sys2Proof.Machine
end

