-- ==== Sys2Proof/Machine/BufOps.lean ====
section
/-! DEFINITION. The queue manager's and the trunk's shared operations (08_buffers_trunk.md): admission (R260, R263), reads of
the stacks and of their links with the cutting of a queue (R250, R251, R259), credits (R268, R271) and the trunk header (R266). -/

namespace Sys2Proof.Machine

/-! ### Admission (R260) -/

/-- One step of the queue manager's generator. -/
def lfsrNext (x : Nat) : Nat :=
  let fb := (x ^^^ (x >>> 2) ^^^ (x >>> 3) ^^^ (x >>> 5)) % 2
  (x >>> 1) ||| (fb * 2 ^ 15)

/-- A drop at admission counts at an offset of the tree's page and in the queue's drops. -/
def State.admitDrop (s : State) (t term cls off : Nat) : State :=
  let q := s.deepQ t term cls
  ((s.setDeepQ t term cls { q with drops := satAdd 32 q.drops 1 }).addCnt (pageTree t) off 1).blockEvent 99 0x02 1

/-- Why R260 and R263 drop a frame of a length offered to a queue: the offset of its count; `x` is the generator's state
after its step. -/
def State.admitFault (s : State) (t term cls len x : Nat) : Option Nat :=
  let q := s.deepQ t term cls
  let p := s.qprof q.profile
  let d := q.depth + len
  let need := pagesNeeded q.headOff (q.frames.map (fun f => f.bytes.length) ++ [len]) - q.pages.length
  let room := s.freePages - s.reservePages
  if s.tstate t = trDISABLED ∨ s.tstate t = trFAULT then some 0xD0
  else if d ≤ p.minBytes then (if need ≤ s.freePages then none else some 0xC8)
  else if d > p.maxBytes then some 0xB0
  else if p.alpha ≠ 0xFF ∧ d - p.minBytes > (s.sharedBytes * 2 ^ p.alpha) / 64 then some 0xB8
  else if p.early ∧ d > p.earlyBytes ∧ x < p.earlyProb * 256 * (d - p.earlyBytes) / (p.maxBytes - p.earlyBytes) then some 0xC0
  else if need ≤ room then none
  else some 0xC8

/-- A frame is admitted to its queue, or dropped; the Boolean says which. Its cells are released either way. -/
def State.admitDeep (s : State) (t term cls cell : Nat) (f : DeepFrame) : Bool × State :=
  let x := lfsrNext s.buf.lfsr
  let s1 := s.setBuf (fun b => { b with lfsr := x })
  match s1.admitFault t term cls f.bytes.length x with
  | some off => (false, (s1.admitDrop t term cls off).freeCells cell)
  | none =>
    let q := s1.deepQ t term cls
    let need := pagesNeeded q.headOff ((q.frames ++ [f]).map (fun f => f.bytes.length)) - q.pages.length
    match State.takePages (queueNo t term cls) need q.seq s1 q.pages with
    | none => (false, (s1.admitDrop t term cls 0xC8).freeCells cell)
    | some (pages, s2) =>
      (true, (((s2.setDeepQ t term cls { q with frames := q.frames ++ [f], pages := pages, seq := (q.seq + need) % 2 ^ 20 }).blockEvent
        99 0x01 1).freeCells cell).settleAll)

/-! ### Reads of the stacks and of their links (R250, R251, R259) -/

/-- How many frames lie whole in the first `size` packed bytes. -/
def framesWithin (size : Nat) : Nat → List Nat → Nat
  | _, [] => 0
  | off, l :: r => if off + l + 8 ≤ size then 1 + framesWithin size (off + l + 8) r else 0

/-- The words of the buffer stacks that hold errors among a span of a queue's packed bytes. -/
def State.stackHits (s : State) (pages : List Nat) (off len : Nat) : List Upset :=
  s.upsets.filter (fun u => (u.mem == 5 || u.mem == 6) && (pages.zipIdx).any (fun p =>
    u.mem == 5 + pageStack p.1 && u.inst == pageStack p.1 && u.addr / 128 == p.1 / 2 &&
    decide (p.2 * 4096 + u.addr % 128 * 32 < off + len) && decide (off < p.2 * 4096 + u.addr % 128 * 32 + 32)))

/-- A frame is read from the stacks: corrected words count; the Boolean says that a word could not be corrected. -/
def State.stackRead (s : State) (pages : List Nat) (off len : Nat) : Bool × State :=
  let hits := s.stackHits pages off (len + 8)
  let s1 := (hits.filter (fun u => upsetSeen u == .corrected)).foldl (fun s u => (s.rewriteWord u.mem u.inst u.addr).corrected (4 + u.inst)) s
  match hits.find? (fun u => upsetSeen u == .uncorrectable) with
  | none => (false, s1)
  | some u => (true, (s1.rewriteWord u.mem u.inst u.addr).logUe u.mem u.inst 1 u.addr)

/-- The on-die state of a queue and the links of its pages are read (R251, R259): corrected words count; answers how many pages
stand before the cut, where a word could not be corrected. -/
def State.linkRead (s : State) (q : Nat) (pages : List Nat) : Option Nat × State :=
  let words : List (Nat × Nat × Nat) := (0, 2, q) :: (pages.dropLast.zipIdx).map (fun p => (p.2 + 1, pageStack p.1, linkWord p.1))
  let s1 := words.foldl (fun s w => if s.wordSeen 7 w.2.1 w.2.2 = .corrected then (s.rewriteWord 7 w.2.1 w.2.2).corrected (6 + w.2.1) else s) s
  match words.find? (fun w => s.wordSeen 7 w.2.1 w.2.2 == .uncorrectable) with
  | none => (none, s1)
  | some w => (some w.1, (s1.rewriteWord 7 w.2.1 w.2.2).logUe 7 w.2.1 1 w.2.2)

/-- The sequence of the page at a place of a queue's pages, whose next page takes `seq`. -/
def pageSeq (seq n i : Nat) : Nat := (seq + 2 ^ 20 - n + i) % 2 ^ 20

/-- The pages past a cut belong to no list until they are reclaimed (R259). -/
def State.cutPages (s : State) (q seq n keep : Nat) : State :=
  if keep ≥ n then s else s.putBuf { s.buf with cuts := s.buf.cuts ++ [⟨q, pageSeq seq n (keep + 2 ^ 20 - 1), pageSeq seq n (n - 1)⟩] }

/-- The pages a cut left (R259): those whose link entries carry the cut queue and a sequence after the cut, up to the tail's. -/
def State.cutLost (s : State) (c : Cut) : List Nat :=
  let n := (c.tail + 2 ^ 20 - c.kept) % 2 ^ 20
  (s.buf.links.filter (fun e =>
    let d := (linkSeq e.2 + 2 ^ 20 - c.kept) % 2 ^ 20
    linkQueue e.2 == c.queue && decide (0 < d) && decide (d ≤ n) &&
    !s.buf.freed0.contains e.1.1 && !s.buf.freed1.contains e.1.1)).map (fun e => e.1.1)

/-! ### Credits and the trunk header (R265, R266, R271) -/

/-- Segments of a frame (R265). -/
def segsOf (len : Nat) : Nat := ceilDiv (16 + len) 16

def creditKey (lane cls : Nat) : Key := (lane * 8 + cls, 0)

/-- Downstream credits the lookup queue has held back are returned while it has room (R231, R271). -/
def State.payCredits (s : State) : State :=
  if s.buf.ingress.length ≥ 16384 then s
  else
    s.buf.dsOwed.foldl
      (fun s e => (s.setBuf (fun b => { b with dsGiven := smMod 0 b.dsGiven e.1 (· + e.2), dsOwed := smDel b.dsOwed e.1 })).emit
        (.credit (e.1.1 / 8) (e.1.1 % 8) e.2)) s

/-- A frame leaves ingress: its segments' credits return (R271). -/
def State.returnCredit (s : State) (lane cls n : Nat) : State :=
  if n = 0 then s.payCredits
  else (s.setBuf (fun b => { b with dsOwed := smMod 0 b.dsOwed (creditKey lane cls) (· + n) })).payCredits

/-- DS_CREDIT segments are given to each (lane, class) once the queue manager and the trunk port are ON (R271, R434). -/
def State.startCredits (s : State) : State :=
  if s.buf.dsStarted ∨ !s.on 51 ∨ !s.on 52 then s
  else
    (List.range 64).foldl
      (fun s i => (s.setBuf (fun b => { b with dsGiven := smSet 0 b.dsGiven (i, 0) b.cfg.dsCredit })).emit
        (.credit (i / 8) (i % 8) s.buf.cfg.dsCredit)) (s.setBuf (fun b => { b with dsStarted := true }))

/-- The upstream trunk header of a frame (R266). -/
def UsFrame.header (f : UsFrame) : List Byte :=
  leBytes 16 (f.tree + f.term * 2 ^ 8 + f.alloc * 2 ^ 20 + f.flow * 2 ^ 32 + f.cls * 2 ^ 56 + b2n f.trunc * 2 ^ 59 +
    b2n f.fcsBad * 2 ^ 60 + b2n f.tsValid * 2 ^ 61 + (if f.tsValid then f.ts else 0) * 2 ^ 64)

end Sys2Proof.Machine
end

