-- ==== Sys2Proof/Machine/Buffers.lean ====
section
/-! DEFINITION. Brine pool, buffer stacks and the trunk stream (08_buffers_trunk.md): the buffer and queue commands, trunk
ingress and sending, credits, egress staging, cuts and their reclaim, spill. -/

namespace Sys2Proof.Machine

/-! ### Commands (R261, R262, R276, R277) -/

/-- Credit cells of a DS_CREDIT (R271). -/
def creditCells (c : Nat) : Nat := 4 * c

/-- The lowest tree that is not DISABLED. -/
def State.firstEnabled (s : State) : Option Nat := (List.range 96).find? (fun t => s.tstate t ≠ trDISABLED)

/-- Whether a host ring is RUNNING or DRAINING. -/
def State.ringActive (s : State) : Bool :=
  s.rings.any (fun e => s.rstate e.1.1 == rgRUNNING || s.rstate e.1.1 == rgDRAINING)

/-- The settings of BUFFER_CONFIG at the request's offsets; the regions only with REGIONS (R276). -/
def BufConfig.ofBytes (old : BufConfig) (p : List Byte) : BufConfig :=
  let regions := bit (byteAt p 0) 0
  { spillEn := bit (byteAt p 0) 1, shrinkEn := bit (byteAt p 0) 2, shrink := byteAt p 1, shrinkMask := byteAt p 2,
    usCells := if regions then leAt p 4 4 else old.usCells,
    dsCells := if regions then leAt p 8 4 else old.dsCells,
    hostCells := if regions then leAt p 12 4 else old.hostCells,
    spillOn := leAt p 16 4, spillMax := leAt p 20 4, dsCredit := leAt p 24 4, stageTree := leAt p 28 4, stageQ := leAt p 32 4 }

/-- The settings in force as response bytes. -/
def State.configBytes (s : State) (regions : Bool) : List Byte :=
  let c := s.buf.cfg
  leBytes 1 (b2n regions + 2 * b2n c.spillEn + 4 * b2n c.shrinkEn) ++ leBytes 1 c.shrink ++ leBytes 1 c.shrinkMask ++ zeros 1 ++
  leBytes 4 c.usCells ++ leBytes 4 c.dsCells ++ leBytes 4 c.hostCells ++ leBytes 4 c.spillOn ++ leBytes 4 c.spillMax ++
  leBytes 4 c.dsCredit ++ leBytes 4 c.stageTree ++ leBytes 4 c.stageQ ++ leBytes 4 s.sharedSize ++ leBytes 2 s.buf.retired

def State.bufferConfig (s : State) (p : List Byte) : State × Resp :=
  let regions := bit (byteAt p 0) 0
  let c := BufConfig.ofBytes s.buf.cfg p
  let out := fun (x lo hi : Nat) => decide (x < lo) || decide (x > hi)
  match firstFault [
    (decide (byteAt p 0 > 7), badArg 0), resv p 3 1,
    (regions && (decide (c.usCells < 16384) || decide (c.usCells + c.dsCells + c.hostCells + s.buf.retired > 393216)), badArg 4),
    (regions && decide (c.dsCells < 16384), badArg 8), (regions && decide (c.hostCells < 4096), badArg 12),
    (out c.spillOn 256 65536, badArg 16), (decide (c.spillMax > 4194304), badArg 20),
    (out c.dsCredit 256 65535 || decide (2 * creditCells c.dsCredit > c.dsCells), badArg 24),
    (out c.stageTree 64 4096 || decide (c.stageTree * 96 > c.dsCells - creditCells c.dsCredit), badArg 28),
    (out c.stageQ 2048 262144, badArg 32), resv p 36 20,
    (regions && s.firstEnabled.isSome, conflict (0x80 + s.tstate (s.firstEnabled.getD 0))),
    (regions && s.ringActive, conflict 0x40)] with
  | some r => (s, r)
  | none =>
    let s1 := (s.setBuf (fun b => { b with cfg := c })).settleAll
    (s1, okWith (s1.configBytes regions))

/-- BUFFER_CONFIG (R276). -/
def execBufferConfig (src : Src) (s : State) : Res := .next (s.calvan src 0x0110 false false (atOnce State.bufferConfig))

/-- Orphan pages awaiting reclaim (R259). -/
def State.orphans (s : State) : Nat := s.buf.cuts.foldl (fun n c => n + (c.tail + 2 ^ 20 - c.kept) % 2 ^ 20) 0

/-- Free cells of all regions (R277). -/
def State.freeCellsAll (s : State) : Nat :=
  ([0, 1, 2].foldl (fun n r => n + (s.regionSize r - (s.regionUse r).own)) 0) + s.sharedFree

/-- LANE_STATE (R277). -/
def State.laneStates (s : State) : Nat :=
  (List.range 64).foldl (fun n i => n + (s.egressQ (i / 8) (i % 8)).st * 2 ^ (2 * i)) 0

def State.bufferStatus (s : State) (_ : List Byte) : State × Resp :=
  (s, okWith (leBytes 4 s.freeCellsAll ++ leBytes 4 s.sharedFree ++ leBytes 4 s.freePages ++ leBytes 4 s.reservePages ++
    leBytes 4 s.spillPages ++ leBytes 4 s.orphans ++ leBytes 16 s.laneStates ++ leBytes 2 s.buf.retired ++ zeros 6))

/-- BUFFER_STATUS (R277). -/
def execBufferStatus (src : Src) (s : State) : Res := .next (s.calvan src 0x0111 true true (atOnce State.bufferStatus))

def State.queueProfile (s : State) (p : List Byte) : State × Resp :=
  let n := byteAt p 0
  let q : QProf := ⟨bit (byteAt p 1) 0, byteAt p 2, byteAt p 3, leAt p 4 4, leAt p 8 4, leAt p 12 4⟩
  match firstFault [
    (decide (n > 63), badArg 0), (decide (byteAt p 1 > 1), badArg 1), (decide (q.alpha > 7 ∧ q.alpha ≠ 0xFF), badArg 2),
    (decide (q.minBytes > 16777216), badArg 4),
    (decide (q.maxBytes < 16384) || decide (q.maxBytes > 2147483648) || decide (q.maxBytes < q.minBytes), badArg 8),
    (q.early && decide (q.earlyBytes ≥ q.maxBytes), badArg 12), resv p 16 40,
    (!s.reserveFits (s.reserveWith (fun i => if i = n then q.minBytes else (s.qprof i).minBytes)), refuse stNO_RESOURCE 0)] with
  | some r => (s, r)
  | none => ((s.setBuf (fun b => { b with profiles := smSet QProf.reset b.profiles (n, 0) q })).settleAll, okWith (slice p 0 16))

/-- QUEUE_PROFILE (R261). -/
def execQueueProfile (src : Src) (s : State) : Res := .next (s.calvan src 0x0112 false false (atOnce State.queueProfile))

/-- The queues of a range take a profile (R262). -/
def State.bindQueues (s : State) (t classes first n prof : Nat) : State :=
  (List.range n).foldl (fun s k => (List.range 8).foldl (fun s c =>
    if bit classes c then s.setDeepQ t (first + k) c { s.deepQ t (first + k) c with profile := prof } else s) s) s

def State.queueSet (s : State) (p : List Byte) : State × Resp :=
  let t := byteAt p 0
  let first := leAt p 2 2
  let last := leAt p 4 2
  let prof := byteAt p 6
  let s1 := s.bindQueues t (byteAt p 1) first (last + 1 - first) prof
  let n := (last + 1 - first) * ((List.range 8).filter (fun c => bit (byteAt p 1) c)).length
  match firstFault [
    (decide (t > 95), badArg 0), (decide (first > 1023), badArg 2), (decide (last > 1023 ∨ last < first), badArg 4),
    (decide (prof > 63), badArg 6), resv p 7 49, (decide (s.tstate t = trFAULT), conflict 0x84),
    (!s1.reserveFits s1.reserveBytes, refuse stNO_RESOURCE 0)] with
  | some r => (s, r)
  | none => (s1.settleAll, okWith (leBytes 4 n))

/-- QUEUE_SET (R262). -/
def execQueueSet (src : Src) (s : State) : Res := .next (s.calvan src 0x0113 false false (atOnce State.queueSet))

def State.queueStatus (s : State) (p : List Byte) : State × Resp :=
  let t := byteAt p 0
  let cls := byteAt p 1
  let term := leAt p 2 2
  match firstFault [(decide (t > 95), badArg 0), (decide (cls > 7), badArg 1), (decide (term > 1023), badArg 2)] with
  | some r => (s, r)
  | none =>
    let q := s.deepQ t term cls
    (s, okWith (leBytes 4 q.depth ++ leBytes 4 q.pages.length ++ leBytes 4 q.drops ++ leBytes 4 (s.stagedBytes t term cls) ++
      leBytes 1 q.profile ++ zeros 31))

/-- QUEUE_STATUS (R277). -/
def execQueueStatus (src : Src) (s : State) : Res := .next (s.calvan src 0x0114 false true (atOnce State.queueStatus))

/-! ### Trunk ingress (R265 to R267, R271) -/

/-- A frame dropped at ingress: a count of its lane, its credits returned. -/
def State.ingressDrop (s : State) (lane cls segs off : Nat) : State := (s.addCnt (pageLane lane) off 1).returnCredit lane cls segs

/-- TRUNK_INGRESS (R267): a frame and its 16-byte header on a lane. -/
def execTrunkIngress (lane : LaneId) (hdr frame : List Byte) (s : State) : Res :=
  .next (if !s.on 52 then s
  else
    let tree := bits (byteAt hdr 0) 0 7
    let cls := bits (byteAt hdr 7) 0 3
    let marked := bit (byteAt hdr 7) 3 || bit (byteAt hdr 7) 4
    let segs := segsOf frame.length
    let s0 := (s.addCnt (pageLane lane) 0xB0 segs).blockEvent 100 0x02 1
    let given := smGet 0 s0.buf.dsGiven (creditKey lane cls)
    if given < segs then s0.addCnt (pageLane lane) 0x98 1
    else
      let s1 := s0.setBuf (fun b => { b with dsGiven := smSet 0 b.dsGiven (creditKey lane cls) (given - segs) })
      if tree > 95 then s1.ingressDrop lane cls segs 0x80
      else
        let bytes := frame.take 16384
        let s2 := if frame.length > 16384 then s1.addCnt (pageLane lane) 0x90 1 else s1
        if marked then s2.ingressDrop lane cls segs 0x88
        else
          let st := s.stamp
          match s2.takeCells 1 (cellsOf bytes.length) with
          | none => s2.returnCredit lane cls segs
          | some (id, s3) =>
            s3.setBuf (fun b => { b with
              ingress := b.ingress ++ [⟨lane, cls, segs, tree, bytes, id, .trunk, 0, none, st.ns, if st.valid then st.epoch + st.dom * 16 + 32 else 0⟩] }))

/-! ### Trunk sending and credits (R268 to R270) -/

/-- The class a lane sends from: the highest whose head frame's segments its counter covers (R269). -/
def State.sendClass (s : State) (lane : Nat) : Option (Nat × UsFrame) :=
  ([7, 6, 5, 4, 3, 2, 1, 0].filterMap (fun c =>
    match (s.egressQ lane c).brine with
    | f :: _ => if segsOf f.bytes.length ≤ smGet 0 s.buf.credits (creditKey lane c) then some (c, f) else none
    | [] => none)).head?

/-- The frame at the head of a brine egress queue is lost with a cell of its own (R251). -/
def State.loseHead (s : State) (lane cls : Nat) (f : UsFrame) : State :=
  let q := s.egressQ lane cls
  (((s.setEgressQ lane cls { q with brine := q.brine.drop 1 }).freeCells f.cell).endFrame f.origin txMEM_ERR).egressSettle lane cls

/-- TRUNK_SEND (R269): a lane free to begin a frame takes it whole. -/
def execTrunkSend (lane : LaneId) (s : State) : Res :=
  .next (if !s.on 52 ∨ !s.buf.feReady then s
  else
    match s.sendClass lane with
    | none => if (List.range 8).any (fun c => (s.egressQ lane c).brine ≠ []) then s.blockEvent 100 0x03 1 else s
    | some (c, f) =>
      match s.cellRead f.cell with
      | (true, s0) => s0.loseHead lane c f
      | (false, s0) =>
        let n := segsOf f.bytes.length
        let q := s0.egressQ lane c
        let s1 := (s0.setEgressQ lane c { q with brine := q.brine.drop 1 }).setBuf
          (fun b => { b with credits := smMod 0 b.credits (creditKey lane c) (· - n) })
        let s2 := (((s1.emit (.trunk lane c f.header f.bytes)).addCnt (pageLane lane) 0xA8 n).blockEvent 100 0x01 1).freeCells f.cell
        let s3 := match f.origin with
          | .trunk => s2
          | .host r i => s2.finishTx r i (txCompletion (s.hostRead (s.entryAddr r i) 32) s.stamp
              (if bit f.port 16 then txCSUM_SKIP else txOK) f.bytes.length 0)
        s3.egressSettle lane c)

/-- CREDIT_RETURN (R268): credits of the forwarding engine for a (lane, class). -/
def execCreditReturn (lane : LaneId) (cls : Fin 8) (count : Nat) (s : State) : Res :=
  .next (if !s.on 52 ∨ !s.buf.feReady then s
  else
    let x := smGet 0 s.buf.credits (creditKey lane cls) + count
    let s1 := (s.setBuf (fun b => { b with credits := smSet 0 b.credits (creditKey lane cls) (min 1048575 x) })).blockEvent 100 0x04 1
    if x > 1048575 then s1.addCnt (pageLane lane) 0xA0 1 else s1)

/-- FE_NOT_READY (R270). -/
def execFeNotReady (s : State) : Res := .next (s.setBuf (fun b => { b with feReady := false }))

/-- FE_READY (R270): the counters restart at 0. -/
def execFeReady (s : State) : Res :=
  .next (if s.buf.feReady then s else s.setBuf (fun b => { b with feReady := true, credits := [] }))

/-! ### Egress staging and cuts (R251, R259, R264) -/

/-- The cells of a tree's staging (R264). -/
def State.stageCells (s : State) (t : Nat) : Nat := (s.tree t).staged.foldl (fun n f => n + cellsOf f.bytes.length) 0

/-- The frame at a queue's head leaves it, with the pages it frees. -/
def State.popDeep (s : State) (t term cls : Nat) : State :=
  let q := s.deepQ t term cls
  let (off, pages, gone) := dropHead q.headOff q.pages (q.frames.map (fun f => f.bytes.length)) 1
  (s.givePages gone).setDeepQ t term cls { q with frames := q.frames.drop 1, headOff := off, pages := pages }

/-- The head frame of a queue is lost with a word of its own (R251): it counts DS_CUT, and the queue continues. -/
def State.loseDeep (s : State) (t term cls : Nat) (f : DeepFrame) : State :=
  ((s.popDeep t term cls).addCnt (pageTree t) 0xE0 1).endFrame f.origin txMEM_ERR

/-- Whether a frame's cells have no room in a tree's staging now (R264). -/
def State.stageFull (s : State) (t len : Nat) : Bool := decide (s.stageCells t + cellsOf len > s.buf.cfg.stageTree)

/-- Whole frames move from a queue into staging until the share is met, staging is full, or cells lack (R264). -/
def State.refillLoop (s : State) (t term cls : Nat) : Nat → State
  | 0 => s
  | n + 1 =>
    match (s.deepQ t term cls).frames with
    | [] => s
    | f :: _ =>
      if s.stagedBytes t term cls ≥ s.buf.cfg.stageQ ∨ s.stageFull t f.bytes.length then s
      else
        let q := s.deepQ t term cls
        match s.stackRead q.pages q.headOff f.bytes.length with
        | (true, s0) => (s0.loseDeep t term cls f).refillLoop t term cls n
        | (false, s0) =>
          match s0.takeCells 1 (cellsOf f.bytes.length) with
          | none => s0
          | some (id, s1) =>
            let s2 := s1.popDeep t term cls
            let x := s2.tree t
            let s3 := s2.setTree t { x with staged := x.staged ++ [⟨term, cls, f.port, f.bytes, f.origin, f.flags, none, false, id, f.tsNs, f.tsInfo⟩] }
            (s3.blockEvent 99 0x03 1).refillLoop t term cls n

/-- A queue is cut (R251, R259): it keeps its first `keep` pages and the frames whole in them; the pages past the cut are
orphans, their frames count DS_CUT. -/
def State.cutQueue (s : State) (t term cls keep : Nat) : State :=
  let q := s.deepQ t term cls
  let pages := q.pages.take keep
  let k := framesWithin (4096 * pages.length) q.headOff (q.frames.map (fun f => f.bytes.length))
  let gone := q.frames.drop k
  let s1 := s.cutPages (queueNo t term cls) q.seq q.pages.length keep
  let q1 := if k = 0 then { q with frames := [], pages := [], headOff := 0 } else { q with frames := q.frames.take k, pages := pages }
  let s2 := (if k = 0 then s1.givePages pages else s1).setDeepQ t term cls q1
  gone.foldl (fun s f => s.endFrame f.origin txMEM_ERR) (s2.addCnt (pageTree t) 0xE0 gone.length)

/-- A queue's state and links are read, and the queue is cut where a word of them is bad. -/
def State.readDeep (s : State) (t term cls : Nat) : State :=
  match s.linkRead (queueNo t term cls) (s.deepQ t term cls).pages with
  | (none, s1) => s1
  | (some keep, s1) => s1.cutQueue t term cls keep

/-- A (terminal, class) asks for a refill: an ACTIVE tree, its share half empty or less, its queue not empty (R264). -/
def State.wantsRefill (s : State) (t term cls : Nat) : Bool :=
  decide (s.tstate t = trACTIVE) && (s.deepQ t term cls).frames != [] && decide (s.stagedBytes t term cls ≤ s.buf.cfg.stageQ / 2)

/-- The refill to serve (R264): round robin over trees, in a tree the oldest request, which waits while staging has no room for
its queue's head frame. -/
def State.nextRefill (s : State) : Option Key :=
  let trees := (List.range 96).filter (· > s.buf.lastRefill) ++ (List.range 96).filter (· ≤ s.buf.lastRefill)
  trees.findSome? (fun t => (s.buf.refills.find? (fun k => k.1 == t)).filter (fun k =>
    match (s.deepQ k.1 (k.2 / 8) (k.2 % 8)).frames with
    | [] => true
    | f :: _ => !s.stageFull k.1 f.bytes.length))

/-- A request is served; it stands while its share is not met and its queue is not empty (R264). -/
def State.serveRefill (s : State) (k : Key) : State :=
  let t := k.1
  let term := k.2 / 8
  let cls := k.2 % 8
  let s1 := s.readDeep t term cls
  let s2 := s1.refillLoop t term cls (s1.deepQ t term cls).frames.length
  let stands := (s2.deepQ t term cls).frames != [] && decide (s2.stagedBytes t term cls < s2.buf.cfg.stageQ)
  let s3 := s2.setBuf (fun b => { b with lastRefill := t, refills := if stands then b.refills else b.refills.filter (· ≠ k) })
  (s3.wakeStaged t term).settleAll

/-- STAGING_REFILL (R264): a (terminal, class) whose share is half empty asks, and the request that is next is served. -/
def execStagingRefill (t : TreeId) (term : TermId) (cls : Fin 8) (errs : List Upset) (s : State) : Res :=
  .next (if !s.on 51 then s
  else
    let s0 := s.upset errs
    let k : Key := (t, term * 8 + cls)
    let live := s0.buf.refills.filter (fun x => decide (s0.tstate x.1 = trACTIVE))
    let s1 := s0.setBuf (fun b => { b with refills := if s0.wantsRefill t term cls && !live.contains k then live ++ [k] else live })
    match s1.nextRefill with
    | none => s1
    | some x => s1.serveRefill x)

/-- ORPHAN_RECLAIM (R259): the link regions are walked, and the pages of the cut first in line return to the free lists. -/
def execOrphanReclaim (s : State) : Res :=
  .next (match s.buf.cuts with
  | [] => s
  | c :: rest => ((s.setBuf (fun b => { b with cuts := rest })).givePages (s.cutLost c)).settleAll)

/-! ### Spill (R272, R273) -/

/-- SPILL_WRITE (R273): the frame first in line is written to the tail of its spill queue, and its cells are freed. -/
def execSpillWrite (lane : LaneId) (cls : Fin 8) (s : State) : Res :=
  .next (let q := s.egressQ lane cls
  match q.toSpill with
  | [] => s
  | f :: rest =>
    if q.st ≠ 1 ∨ !s.on 51 then s
    else
      match s.cellRead f.cell with
      | (true, s0) =>
        (((s0.setEgressQ lane cls { q with toSpill := rest }).freeCells f.cell).endFrame f.origin txMEM_ERR).egressSettle lane cls
      | (false, s0) =>
        let need := pagesNeeded q.headOff ((q.spill ++ [f]).map (fun g => g.bytes.length)) - q.pages.length
        if !s0.spillRoom need then s0.egressSettle lane cls
        else
          match State.takePages (spillNo lane cls) need q.seq s0 q.pages with
          | none => s0.egressSettle lane cls
          | some (pages, s1) =>
            let s2 := s1.setEgressQ lane cls { q with toSpill := rest, spill := q.spill ++ [{ f with cell := 0 }], pages := pages,
                                                      seq := (q.seq + need) % 2 ^ 20 }
            (((s2.freeCells f.cell).addCnt (pageLane lane) (0xC0 + 8 * cls) 1).blockEvent 99 0x04 1).settleAll)

/-- The head frame of a spill queue leaves it, with the pages it frees. -/
def State.popSpill (s : State) (lane cls : Nat) (brine : List UsFrame) : State :=
  let q := s.egressQ lane cls
  let (off, pages, gone) := dropHead q.headOff q.pages (q.spill.map (fun g => g.bytes.length)) 1
  (s.givePages gone).setEgressQ lane cls { q with brine := brine, spill := q.spill.drop 1, pages := pages, headOff := off }

/-- A spill queue is cut (R251, R259). -/
def State.cutSpill (s : State) (lane cls keep : Nat) : State :=
  let q := s.egressQ lane cls
  let pages := q.pages.take keep
  let k := framesWithin (4096 * pages.length) q.headOff (q.spill.map (fun f => f.bytes.length))
  let gone := q.spill.drop k
  let s1 := s.cutPages (spillNo lane cls) q.seq q.pages.length keep
  let q1 := if k = 0 then { q with spill := [], pages := [], headOff := 0 } else { q with spill := q.spill.take k, pages := pages }
  let s2 := (if k = 0 then s1.givePages pages else s1).setEgressQ lane cls q1
  gone.foldl (fun s f => (s.addCnt (pageTree f.tree) 0xE0 1).endFrame f.origin txMEM_ERR) s2

/-- SPILL_READBACK (R272): once the brine egress queue has been sent, the spill queue's head is read back into brine. -/
def execSpillReadback (lane : LaneId) (cls : Fin 8) (s : State) : Res :=
  .next (if !s.on 51 ∨ (s.egressQ lane cls).brine ≠ [] ∨ (s.egressQ lane cls).spill = [] then s
  else
    match s.linkRead (spillNo lane cls) (s.egressQ lane cls).pages with
    | (some keep, s1) => (s1.cutSpill lane cls keep).settleAll
    | (none, s1) =>
      match (s1.egressQ lane cls).spill with
      | [] => s1
      | f :: _ =>
        match s1.stackRead (s1.egressQ lane cls).pages (s1.egressQ lane cls).headOff f.bytes.length with
        | (true, s2) => (((s2.popSpill lane cls []).addCnt (pageTree f.tree) 0xE0 1).endFrame f.origin txMEM_ERR).settleAll
        | (false, s2) =>
          match s2.takeCells 0 (cellsOf f.bytes.length) with
          | none => s2
          | some (id, s3) => ((s3.popSpill lane cls [{ f with cell := id }]).blockEvent 99 0x05 1).settleAll)

end Sys2Proof.Machine
end

