-- ==== Sys2Proof/Machine/FecOps.lean ====
section
/-! DEFINITION. The block and codeword layers of the fabric lanes (12_deleth_fabric.md): 64b/66b blocks and their
scrambler, the code RS(544,514) shortened to 525 symbols (R368), the codeword of 80 blocks (R369), the control blocks
(R370), block lock (R371) and the START blocks of codeword lock (R371). -/

namespace Sys2Proof.Machine

/-! ### 64b/66b (R368) -/

/-- The payload's bits scrambled with x^58 + x^39 + 1; `prev` is the lane's last scrambled payload. -/
def scramble (prev p : Nat) : Nat :=
  let low := (p ^^^ (prev >>> 25) ^^^ (prev >>> 6)) % 2 ^ 39
  let x := prev % 2 ^ 64 + low * 2 ^ 64
  (p ^^^ (x >>> 25) ^^^ (x >>> 6)) % 2 ^ 64

/-- The bits of a scrambled payload restored. -/
def descramble (prev c : Nat) : Nat :=
  let x := prev % 2 ^ 64 + c * 2 ^ 64
  (c ^^^ (x >>> 25) ^^^ (x >>> 6)) % 2 ^ 64

/-- A block with its payload as a number replaced. -/
def withPayload (b : LaneBlock) (p : Nat) : LaneBlock := ⟨b.hdr, BitVec.ofNat 64 p⟩

/-- A data block: sync header 01 (R368). -/
def dataBlock (p : Nat) : LaneBlock := ⟨1, BitVec.ofNat 64 p⟩
/-- A control block: sync header 10 (R368). -/
def ctlBlock (p : Nat) : LaneBlock := ⟨2, BitVec.ofNat 64 p⟩

def blkData (b : LaneBlock) : Bool := b.hdr == 1
def blkCtl (b : LaneBlock) : Bool := b.hdr == 2

/-- The 66 bits of a block in the order sent: the sync header's left digit, its right digit, the payload from bit 0. -/
def blkLine (b : LaneBlock) : Nat := b.hdr.val / 2 + b.hdr.val % 2 * 2 + b.payload.toNat * 4

/-- The block of 66 bits. -/
def blockOf (x : Nat) : LaneBlock :=
  ⟨⟨x % 2 * 2 + x / 2 % 2, by omega⟩, BitVec.ofNat 64 (x / 4)⟩

/-- The scrambled blocks of a lane restored in order, and the lane's last scrambled payload. -/
def descrambleAll (prev : Nat) : List LaneBlock → List LaneBlock × Nat
  | [] => ([], prev)
  | b :: r =>
    let (bs, last) := descrambleAll b.payload.toNat r
    (withPayload b (descramble prev b.payload.toNat) :: bs, last)

/-- A lane's blocks scrambled in order, and the lane's last scrambled payload. -/
def scrambleAll (prev : Nat) : List LaneBlock → List LaneBlock × Nat
  | [] => ([], prev)
  | b :: r =>
    let c := scramble prev b.payload.toNat
    let (bs, last) := scrambleAll c r
    (withPayload b c :: bs, last)

/-! ### RS(544,514) over GF(2^10), shortened to 525 symbols (R368) -/

/-- Multiply by α in GF(2^10), field polynomial x^10 + x^3 + 1. -/
def fecDouble (a : Nat) : Nat := if a < 512 then 2 * a else (2 * a) ^^^ 0x409

def fecMulAux : Nat → Nat → Nat → Nat
  | 0, _, _ => 0
  | n + 1, a, b => (if b % 2 = 1 then a else 0) ^^^ fecMulAux n (fecDouble a) (b / 2)

/-- Product in GF(2^10). -/
def fecMul (a b : Nat) : Nat := fecMulAux 10 a b

/-- A power of α. -/
def fecPow : Nat → Nat
  | 0 => 1
  | n + 1 => fecDouble (fecPow n)

/-- b to the power 2^n - 2, the inverse for n = 10: the product of b^2, b^4 … b^(2^(n-1)). -/
def fecInvAux : Nat → Nat → Nat
  | 0, _ => 1
  | n + 1, b => let q := fecMul b b; fecMul q (fecInvAux n q)

/-- The inverse in GF(2^10). -/
def fecInv (b : Nat) : Nat := fecInvAux 9 b

/-- A polynomial's value, its coefficients from the constant on. -/
def fecEval (p : List Nat) (x : Nat) : Nat := p.foldr (fun c acc => fecMul acc x ^^^ c) 0

/-- Coefficients added place by place. -/
def fecAdd : List Nat → List Nat → List Nat
  | [], q => q
  | p, [] => p
  | a :: p, b :: q => (a ^^^ b) :: fecAdd p q

/-- The generator (x - 1)(x - α) … (x - α^29), coefficients from the constant on. -/
def fecGen : List Nat :=
  (List.range 30).foldl (fun g j => fecAdd (0 :: g) (g.map (fecMul (fecPow j)))) [1]

/-- Symbols in one number, the first in the lowest 10 bits. -/
def packSyms (l : List Nat) : Nat := l.foldr (fun c acc => c % 1024 + acc * 1024) 0

/-- The symbols of a number. -/
def symsOf : Nat → Nat → List Nat
  | 0, _ => []
  | n + 1, x => x % 1024 :: symsOf n (x / 1024)

/-- x^30 mod g, times α^k, for k from 0 to 9, as numbers of 30 symbols. -/
def fecRows : List Nat := (List.range 10).map (fun k => packSyms ((fecGen.take 30).map (fecMul (fecPow k))))

/-- One more symbol, of the highest power first, into the remainder of the division by g. -/
def fecStep (rows : List Nat) (r c : Nat) : Nat :=
  let f := r / 2 ^ 290 ^^^ c
  rows.zipIdx.foldl (fun acc x => if bit f x.2 then acc ^^^ x.1 else acc) (r % 2 ^ 290 * 1024)

/-- The parity of the message: the remainder of message · x^30 by g, as a number of 30 symbols, the highest power in the
highest place. -/
def fecParity (msg : List Nat) : Nat := msg.foldl (fecStep fecRows) 0

/-- The 30 parity symbols in order: that of x^29 first. -/
def paritySyms (r : Nat) : List Nat := (symsOf 30 r).reverse

/-- One step of the search for the error locator: the locator, the last one, the shift since, its discrepancy, the length. -/
def bmStep (synd : List Nat) (a : List Nat × List Nat × Nat × Nat × Nat) (n : Nat) : List Nat × List Nat × Nat × Nat × Nat :=
  let (c, b, m, d0, len) := a
  let d := (List.range (len + 1)).foldl (fun acc i => acc ^^^ fecMul (c.getD i 0) (synd.getD (n - i) 0)) 0
  if d = 0 then (c, b, m + 1, d0, len)
  else
    let k := fecMul d (fecInv d0)
    let c1 := fecAdd c (List.replicate m 0 ++ b.map (fecMul k))
    if 2 * len ≤ n then (c1, c, 1, d, n + 1 - len) else (c1, b, m + 1, d0, len)

/-- The errors a word of 525 symbols seems to hold, from its 30 syndromes: power and value of each. -/
def fecErrors (synd : List Nat) : List (Nat × Nat) :=
  let (c, _, _, _, _) := (List.range 30).foldl (bmStep synd) ([1], [1], 1, 1, 0)
  let omega := (List.range 30).map (fun i =>
    (List.range (i + 1)).foldl (fun acc j => acc ^^^ fecMul (c.getD j 0) (synd.getD (i - j) 0)) 0)
  let deriv := (List.range 30).map (fun i => if i % 2 = 0 then c.getD (i + 1) 0 else 0)
  ((List.range 525).filter (fun i => fecEval c (fecPow (1023 - i)) == 0)).map (fun i =>
    let x := fecPow (1023 - i)
    (i, fecMul (fecPow i) (fecMul (fecEval omega x) (fecInv (fecEval deriv x)))))

/-- A word of 525 symbols, that of x^524 first, corrected: the symbols corrected and the word; none where no codeword lies
within 15 symbols (R368, R372). -/
def fecDecode (w : List Nat) : Option (Nat × List Nat) :=
  let r := fecParity (w.take 495) ^^^ packSyms (w.drop 495).reverse
  if r = 0 then some (0, w)
  else
    let rs := symsOf 30 r
    let errs := fecErrors ((List.range 30).map (fun j => fecEval rs (fecPow j)))
    let v := errs.foldl (fun v e => v.set (524 - e.1) (v.getD (524 - e.1) 0 ^^^ e.2)) w
    if errs.length ≤ 15 ∧ fecParity (v.take 495) = packSyms (v.drop 495).reverse then some (errs.length, v) else none

/-! ### The codeword (R369) -/

/-- Blocks as one number, the first in the lowest 66 bits. -/
def packLines (bs : List LaneBlock) : Nat := bs.foldr (fun b acc => blkLine b + acc * 2 ^ 66) 0

/-- The blocks of a number. -/
def blocksOf : Nat → Nat → List LaneBlock
  | 0, _ => []
  | n + 1, x => blockOf (x % 2 ^ 66) :: blocksOf n (x / 2 ^ 66)

/-- The 495 message symbols of blocks 0 to 74. -/
def messageSyms (bs : List LaneBlock) : List Nat := symsOf 495 (packLines (bs.take 75))

/-- The five parity blocks of 30 parity symbols: sync header 10, bits 59 to 0 parity, bits 63 to 60 zero. -/
def parityBlocks (p : List Nat) : List LaneBlock := (List.range 5).map (fun i => ctlBlock (packSyms ((p.drop (6 * i)).take 6)))

/-- The parity symbols the five parity blocks carry. -/
def parityOf (bs : List LaneBlock) : List Nat := (bs.drop 75).flatMap (fun b => symsOf 6 b.payload.toNat)

/-- Blocks 0 to 74 with their parity blocks: the codeword of 80 blocks. -/
def codewordOf (bs : List LaneBlock) : List LaneBlock := bs.take 75 ++ parityBlocks (paritySyms (fecParity (messageSyms bs)))

/-- The receiver decodes a codeword (R372): the symbols corrected and blocks 0 to 74. -/
def codewordRead (bs : List LaneBlock) : Option (Nat × List LaneBlock) :=
  (fecDecode (messageSyms bs ++ parityOf bs)).map (fun x => (x.1, blocksOf 75 (packSyms (x.2.take 495))))

/-- A lane's own blocks of a codeword: the even ones on lane 2n, the odd ones on lane 2n + 1 (R369). -/
def laneBlocks {α : Type} (role : Nat) : List α → List α
  | [] => []
  | b :: r => if role = 0 then b :: laneBlocks 1 r else laneBlocks 0 r

/-- The blocks of two lanes in block order. -/
def interleave : List LaneBlock → List LaneBlock → List LaneBlock
  | a :: r, b :: t => a :: b :: interleave r t
  | _, _ => []

/-- Exactly 80 blocks: further ones fall away, and missing ones count as blocks with an invalid header. -/
def eighty (bs : List LaneBlock) : List LaneBlock := (List.range 80).map (fun i => bs.getD i ⟨0, 0#64⟩)

/-- The two lanes' blocks scrambled, in block order, and each lane's last scrambled payload. -/
def scrambleWord (prev : Nat × Nat) (bs : List LaneBlock) : List LaneBlock × Nat × Nat :=
  let a := scrambleAll prev.1 (laneBlocks 0 bs)
  let b := scrambleAll prev.2 (laneBlocks 1 bs)
  (interleave a.1 b.1, a.2, b.2)

/-- The two lanes' blocks restored, in block order. -/
def descrambleWord (prev : Nat × Nat) (bs : List LaneBlock) : List LaneBlock :=
  interleave (descrambleAll prev.1 (laneBlocks 0 bs)).1 (descrambleAll prev.2 (laneBlocks 1 bs)).1

/-! ### Control blocks (R370) -/

def ctSTART : Nat := 0xE1
def ctCELL : Nat := 0x78
def ctIDLE : Nat := 0x1E
def ctFILLER : Nat := 0x4B

/-- A control block's type byte. -/
def blkType (b : LaneBlock) : Nat := bits b.payload.toNat 0 8

/-- START: SEQ, its complement, the lane's role. -/
def startBlock (seq role : Nat) : LaneBlock := ctlBlock (ctSTART + seq % 256 * 2 ^ 8 + (255 - seq % 256) * 2 ^ 16 + role % 2 * 2 ^ 24)

/-- CELL_START or IDLE with the credits it returns. -/
def creditBlock (ty : Nat) (c : Nat × Nat) : LaneBlock := ctlBlock (ty + c.1 % 4 * 2 ^ 8 + c.2 % 256 * 2 ^ 16)

/-- The class and number of the credits a CELL_START or IDLE block returns. -/
def blkCredit (b : LaneBlock) : Nat × Nat := (bits b.payload.toNat 8 2, bits b.payload.toNat 16 8)

/-- The SEQ of a START block with a correct complement and the role given. -/
def startSeq (role : Nat) (b : LaneBlock) : Option Nat :=
  let p := b.payload.toNat
  if blkCtl b ∧ blkType b = ctSTART ∧ bits p 16 8 = 255 - bits p 8 8 ∧ bits p 24 1 = role then some (bits p 8 8) else none

/-- Both START blocks of a codeword carry one SEQ (R371). -/
def startsAgree (bs : List LaneBlock) : Option Nat :=
  match bs with
  | a :: b :: _ => if startSeq 0 a = startSeq 1 b then startSeq 0 a else none
  | _ => none

/-! ### Block lock (R371) -/

/-- A block's sync header is valid; where its place in the codeword is known (`typed`), a control block's type too. -/
def blkValid (typed : Bool) (b : LaneBlock) : Bool :=
  blkData b || (blkCtl b && (!typed || blkType b == ctSTART || blkType b == ctCELL || blkType b == ctIDLE || blkType b == ctFILLER))

/-- One more header: locked after 64 consecutive valid ones; lock lost when 16 of the last 64 are invalid. -/
def huntStep (h : Bool × List Bool) (v : Bool) : Bool × List Bool :=
  let last := (v :: h.2).take 64
  if h.1 then (decide ((last.filter (fun x => !x)).length < 16), last)
  else (decide (last.length = 64) && last.all id, last)

/-- The headers of a lane in order: whether it is locked after them, whether it was unlocked anywhere on the way, and its
last 64. -/
def hunt : Bool × Bool × List Bool → List Bool → Bool × Bool × List Bool
  | h, [] => h
  | (k, lost, last), v :: r => let n := huntStep (k, last) v; hunt (n.1, lost || (k && !n.1), n.2) r

/-- The headers of a codeword's 80 blocks, restored: valid or not; parity blocks hold no type (R369, log entry 66). -/
def wordValid (typed : Bool) (bs : List LaneBlock) : List Bool :=
  (bs.take 75).map (blkValid typed) ++ (bs.drop 75).map (blkValid false)

/-- A lane's last payload as received. -/
def lastPayload (prev : Nat) (bs : List LaneBlock) : Nat := bs.foldl (fun _ b => b.payload.toNat) prev

/-! ### Cells in payload blocks (R370) -/

/-- The 8 bytes of a data block, byte 0 in bits 7 to 0. -/
def blkBytes (b : LaneBlock) : List Byte := leBytes 8 b.payload.toNat

/-- A cell's 32 data blocks. -/
def cellBlocks : Nat → List Byte → List LaneBlock
  | 0, _ => []
  | n + 1, c => dataBlock (leAt c 0 8) :: cellBlocks n (c.drop 8)

/-- Payload blocks read in order: the cell under way, the cells complete, the credits returned by class. FILLER and IDLE
go no further (R373); a cell is a CELL_START and the 32 data blocks after it. -/
def payloadRead : Option (List Byte) → List LaneBlock → List (List Byte) × List (Nat × Nat)
  | _, [] => ([], [])
  | cur, b :: r =>
    if blkData b then
      match cur with
      | some got =>
        let c := got ++ blkBytes b
        if c.length = 256 then let (cs, k) := payloadRead none r; (c :: cs, k) else payloadRead (some c) r
      | none => payloadRead none r
    else if blkCtl b ∧ blkType b = ctCELL then let (cs, k) := payloadRead (some []) r; (cs, blkCredit b :: k)
    else if blkCtl b ∧ blkType b = ctIDLE then let (cs, k) := payloadRead none r; (cs, blkCredit b :: k)
    else payloadRead none r

/-- The next class with credits owed, and up to 255 of them, taken. -/
def takeOwed (owed : List Nat) : (Nat × Nat) × List Nat :=
  match (List.range 4).find? (fun k => decide (owed.getD k 0 > 0)) with
  | some k => let n := min 255 (owed.getD k 0); ((k, n), owed.set k (owed.getD k 0 - n))
  | none => ((0, 0), owed)

/-- The payload blocks of cells, each after its CELL_START with credits owed. -/
def cellsOut : List Nat → List (List Byte) → List LaneBlock × List Nat
  | owed, [] => ([], owed)
  | owed, c :: r =>
    let (k, o1) := takeOwed owed
    let (bs, o2) := cellsOut o1 r
    (creditBlock ctCELL k :: (cellBlocks 32 c ++ bs), o2)

/-- IDLE blocks with credits owed. -/
def idlesOut : Nat → List Nat → List LaneBlock × List Nat
  | 0, owed => ([], owed)
  | n + 1, owed =>
    let (k, o1) := takeOwed owed
    let (bs, o2) := idlesOut n o1
    (creditBlock ctIDLE k :: bs, o2)

end Sys2Proof.Machine
end

