-- ==== Sys2Proof/Machine/FabOps.lean ====
section
/-! DEFINITION. The fabric's shared operations (12_deleth_fabric.md): cells and credits (R375, R376), next hops and
flooding (R378, R379), routes, members and the keeper (R381 to R383), adjacencies (R374), addresses (R380), and the
tide of distant devices (R386). -/

namespace Sys2Proof.Machine

def State.link (s : State) (n : Nat) : FabLink := smGet FabLink.reset s.fabLinks (n, 0)
def State.setLink (s : State) (n : Nat) (x : FabLink) : State := { s with fabLinks := smSet FabLink.reset s.fabLinks (n, 0) x }

/-- µs as CTC (2^-32 ns). -/
def usCtc (n : Nat) : Nat := n * 1000 * 2 ^ 32

/-- CTC passed since an earlier reading. -/
def State.since (s : State) (c : Nat) : Nat := (s.tb.ctc + 2 ^ 96 - c) % 2 ^ 96

/-- Link states of R374. -/
def lkDOWN : Nat := 0
def lkLOCKING : Nat := 1
def lkALIGNED : Nat := 2
def lkADJACENT : Nat := 3
def State.lkState (s : State) (n : Nat) : Nat := s.rd F.FAB_LINKn_STATUS.STATE n
def State.adjacent (s : State) (n : Nat) : Bool := s.lkState n == lkADJACENT

/-- Device states of R380. -/
def fdDOWN : Nat := 0
def fdUNADDRESSED : Nat := 1
def fdCLAIMING : Nat := 2
def fdADDRESSED : Nat := 3
def State.fdState (s : State) : Nat := s.rd F.FAB_STATE.DSTATE 0
/-- The address held, 0x7F none. -/
def State.fabAddr (s : State) : Nat := s.rd F.FAB_STATE.ADDR 0

/-! ### Cells -/

/-- A cell's 256 bytes (R375): header, payload, CRC-32. -/
def cellBytes (dst src : Nat) (localOnly : Bool) (cls ty hops len : Nat) (first last : Bool) (seq aux : Nat) (payload : List Byte) : List Byte :=
  let h := dst + src * 2 ^ 8 + b2n localOnly * 2 ^ 15 + cls * 2 ^ 16 + ty * 2 ^ 18 + hops * 2 ^ 22 + len * 2 ^ 32 +
    b2n first * 2 ^ 40 + b2n last * 2 ^ 41 + (seq % 2 ^ 16) * 2 ^ 48 + (aux % 2 ^ 32) * 2 ^ 64
  let b := leBytes 16 h ++ payload ++ zeros (236 - payload.length)
  b ++ leBytes 4 (crc32 b)

/-- The fixed class of a cell type (R375). -/
def classOfType (ty : Nat) : Nat := if ty ≤ 4 then 0 else if ty = 5 then 1 else if ty = 6 ∨ ty = 9 then 2 else 3

/-- The class of a queued cell. -/
def txCls : TxCell → Nat
  | .raw b => bits (leAt b 0 4) 16 2
  | .hello _ => 0
  | .tide _ => 0
  | .leaseReq _ _ => 0
  | .leaseAns _ _ => 0
  | .remoteReq _ _ => 3
  | .remoteRsp _ _ => 2
  | .handshake _ _ => 1

/-- Take the first element a test holds of out of a list. -/
def takeFirst {α : Type} (f : α → Bool) : List α → Option (α × List α)
  | [] => none
  | x :: r => if f x then some (x, r) else (takeFirst f r).map (fun p => (p.1, x :: p.2))

/-- The class sent next among waiting cells with credit: class 3 once 7 cells of other classes have gone before it, else
the lowest (R376). -/
def FabLink.nextClass (x : FabLink) : Option Nat :=
  let ok := fun k => decide (x.credits.getD k 0 > 0) && x.txq.any (fun c => txCls c == k)
  if x.since3 ≥ 7 ∧ ok 3 then some 3 else [0, 1, 2, 3].find? ok

/-- Cells waiting on a link take their turns while they hold credit (R376); the next codewords carry them. -/
def State.linkPump : Nat → State → Nat → State
  | 0, s, _ => s
  | n + 1, s, l =>
    let x := s.link l
    if s.lkState l < lkALIGNED then s
    else
      match x.nextClass with
      | none => s
      | some k =>
        match takeFirst (fun c => txCls c == k) x.txq with
        | none => s
        | some (c, rest) =>
          let s1 := s.setLink l { x with txq := rest, wire := x.wire ++ [c], credits := x.credits.set k (x.credits.getD k 0 - 1),
                                         since3 := if k = 3 ∨ !(x.txq.any (fun c => txCls c == 3)) then 0 else x.since3 + 1 }
          State.linkPump n (((s1.incWrap F.FAB_LINKn_CELLS_TX.COUNT l 1).blockEvent 102 0x01 1).emit (.cell l c)) l

/-- A cell joins a link's queue and goes once it holds a credit. -/
def State.linkSend (s : State) (l : Nat) (c : TxCell) : State :=
  let s1 := s.setLink l { s.link l with txq := (s.link l).txq ++ [c] }
  State.linkPump ((s1.link l).txq.length) s1 l

/-- The valid next hops of a routing entry (R382). -/
def State.nextHops (s : State) (d : Nat) : List Nat :=
  [(F.FAB_ROUTEd.V0, F.FAB_ROUTEd.NH0), (F.FAB_ROUTEd.V1, F.FAB_ROUTEd.NH1), (F.FAB_ROUTEd.V2, F.FAB_ROUTEd.NH2),
   (F.FAB_ROUTEd.V3, F.FAB_ROUTEd.NH3)].filterMap (fun p => if s.flag p.1 d then some (s.rd p.2 d) else none)

/-- The link a cell leaves on (R378). -/
def State.hopFor (s : State) (dst src cls : Nat) : Option Nat :=
  let v := s.nextHops dst
  if v = [] then none
  else v[crc32c 0xFFFFFFFF [BitVec.ofNat 8 src, BitVec.ofNat 8 dst, BitVec.ofNat 8 cls] % v.length]?

/-- A cell goes towards a device, or is dropped and counted (R378). -/
def State.sendTo (s : State) (dst src : Nat) (c : TxCell) : State :=
  match s.hopFor dst src (txCls c) with
  | some l => s.linkSend l c
  | none => (s.incSat F.FAB_DROP_ROUTE.COUNT 0 1).blockEvent 102 0x04 1

/-- Send a message in cells of up to 236 bytes from FIRST to LAST (R375, R399). -/
def State.sendChunks : Nat → State → Nat → Nat → Nat → Nat → Bool → List Byte → State
  | 0, s, _, _, _, _, _, _ => s
  | n + 1, s, dst, ty, seq, aux, first, p =>
    let c := cellBytes dst s.fabAddr false (classOfType ty) ty 63 (min 236 p.length) first (decide (p.length ≤ 236)) seq aux (p.take 236)
    let s1 := s.sendTo dst s.fabAddr (.raw c)
    if p.length ≤ 236 then s1 else State.sendChunks n s1 dst ty seq aux false (p.drop 236)

/-- Send one message of a type to a device; its SEQ counts per destination and type (R375). -/
def State.sendMessage (s : State) (dst ty aux : Nat) (p : List Byte) : State :=
  let q := smGet 0 s.fab.seqs (dst, ty)
  let s1 := s.putFab { s.fab with seqs := smSet 0 s.fab.seqs (dst, ty) ((q + 1) % 2 ^ 16) }
  s1.sendChunks (p.length / 236 + 1) dst ty q aux true p

/-- The links on which a flooded cell leaves (R379). -/
def State.floodLinks (s : State) (from_ : Option Nat) : List Nat :=
  (List.range 8).filter (fun l => s.adjacent l && decide (from_ ≠ some l))

/-- Flood a cell on every ADJACENT link but one (R379). -/
def State.flood (s : State) (from_ : Option Nat) (c : TxCell) : State :=
  (s.floodLinks from_).foldl (fun s l => s.linkSend l c) s

/-! ### Own CLAIM and ROUTE -/

/-- Flood the CLAIM of the candidate or held address (R380). -/
def State.floodClaim (s : State) (addr : Nat) : State :=
  let q := s.fab.claimSeq + 1
  let s1 := s.putFab { s.fab with claimSeq := q % 2 ^ 32, lastClaim := s.tb.ctc }
  let p := leBytes 8 Config.serial ++ leBytes 1 addr ++ leBytes 4 q
  s1.flood none (.raw (cellBytes 127 s.fabAddr false 0 1 63 p.length true true q 0 p))

/-- The device's adjacencies: ADJACENT link and neighbour's address. -/
def State.ownAdj (s : State) : List (Nat × Nat) :=
  ((List.range 8).filter s.adjacent).map (fun l => (l, s.rd F.FAB_LINKn_STATUS.NEIGHBOUR l))

/-- Flood a ROUTE with given adjacencies (R381); none once the domain is leaving ON (R388). -/
def State.floodRouteOf (s : State) (adj0 : List (Nat × Nat)) : State :=
  let adj := if s.fab.leaveAt.isSome then [] else adj0
  let q := s.fab.routeSeq + 1
  let s1 := s.putFab { s.fab with routeSeq := q % 2 ^ 32, lastRoute := s.tb.ctc }
  let p := leBytes 8 Config.serial ++ leBytes 1 s.fabAddr ++ leBytes 1 (s.rd F.FAB_CFG.KEEPER_EN 0) ++ leBytes 4 q ++
    adj.flatMap (fun a => leBytes 1 a.1 ++ leBytes 1 a.2)
  s1.flood none (.raw (cellBytes 127 s.fabAddr false 0 2 63 p.length true true q 0 p))

/-- An ADDRESSED device floods its ROUTE; a recomputation is owed (R381, R382). -/
def State.adjChanged (s : State) : State :=
  let s1 := s.putFab { s.fab with dirty := true }
  if s.fdState = fdADDRESSED then s1.floodRouteOf s1.ownAdj else s1

/-! ### Routing (R382, R383) -/

/-- Nodes reached in one more hop. -/
def bfsStep (edges : List (Nat × Nat)) (seen : List (Nat × Nat)) (front : List Nat) (k : Nat) : List (Nat × Nat) :=
  (front.flatMap (fun x => (edges.filter (fun e => e.1 == x)).map (fun e => e.2))).foldl
    (fun acc y => if (seen ++ acc).any (fun p => p.1 == y) then acc else acc ++ [(y, k)]) []

/-- Hop counts from a node: `front` was reached in k hops. -/
def bfs (edges : List (Nat × Nat)) : Nat → List (Nat × Nat) → List Nat → Nat → List (Nat × Nat)
  | 0, seen, _, _ => seen
  | n + 1, seen, front, k =>
    match bfsStep edges seen front (k + 1) with
    | [] => seen
    | new => bfs edges n (seen ++ new) (new.map (fun p => p.1)) (k + 1)

/-- Hop counts from a node to every node reached. -/
def hopsFrom (edges : List (Nat × Nat)) (a : Nat) : List (Nat × Nat) := bfs edges 64 [(a, 0)] [a] 0

/-- The links both of whose ends report them, as directed pairs of addresses: those of the database and the device's
own (R382). -/
def State.fabEdges (s : State) : List (Nat × Nat) :=
  let own := (s.ownAdj).filter (fun a => s.fab.db.any (fun r => r.addr == a.2 && r.adj.any (fun x => x.2 == s.fabAddr)))
  let ownE := own.flatMap (fun a => [(s.fabAddr, a.2), (a.2, s.fabAddr)])
  let dbE := s.fab.db.flatMap (fun r => (r.adj.filter (fun x => x.2 ≠ s.fabAddr && r.addr ≠ s.fabAddr &&
    s.fab.db.any (fun q => q.addr == x.2 && q.adj.any (fun y => y.2 == r.addr)))).map (fun x => (r.addr, x.2)))
  ownE ++ dbE

/-- The own links usable towards a neighbour: ADJACENT, and reported by the other end for that link (R382). -/
def State.ownUsable (s : State) : List (Nat × Nat) :=
  s.ownAdj.filter (fun a => s.fab.db.any (fun r =>
    r.addr == a.2 && r.adj.any (fun x => x.1 == s.rd F.FAB_LINKn_STATUS.NLINK a.1 && x.2 == s.fabAddr)))

/-- Write routing entry d. -/
def State.setRoute (s : State) (d : Nat) (nh : List Nat) (hops : Nat) : State :=
  let put := fun (s : State) (v n : Fld) (i : Nat) =>
    match nh[i]? with
    | some l => (s.wr v d 1).wr n d l
    | none => (s.wr v d 0).wr n d 0
  (put (put (put (put s F.FAB_ROUTEd.V0 F.FAB_ROUTEd.NH0 0) F.FAB_ROUTEd.V1 F.FAB_ROUTEd.NH1 1) F.FAB_ROUTEd.V2
    F.FAB_ROUTEd.NH2 2) F.FAB_ROUTEd.V3 F.FAB_ROUTEd.NH3 3).wr F.FAB_ROUTEd.HOPS d hops

/-- A link leaves every routing entry in the same core cycle (R381). -/
def State.dropLinkRoutes (s : State) (l : Nat) : State :=
  (List.range 64).foldl
    (fun s d => if (s.nextHops d).contains l then s.setRoute d ((s.nextHops d).filter (· ≠ l)) (s.rd F.FAB_ROUTEd.HOPS d) else s) s

/-- Whether a device is a member (R382). -/
def State.member (s : State) (d : Nat) : Bool := d < 64 && bit (s.rd F.FAB_MEMBERS.MEMBERS 0) d

/-- Whether a member may be keeper: its own setting, or the flag of its ROUTE (R383). -/
def State.keeperEn (s : State) (d : Nat) : Bool :=
  if d = s.fabAddr then s.flag F.FAB_CFG.KEEPER_EN 0 else s.fab.db.any (fun r => r.addr == d && r.keeper)

/-- The keeper is re-evaluated (R383). -/
def State.electKeeper (s : State) : State :=
  let can := (List.range 64).filter (fun d => s.member d && s.keeperEn d)
  let quorum := decide (can.length ≥ max 1 (s.rd F.FAB_CFG.VOTERS 0) / 2 + 1)
  let keeper := if quorum then can.headD 0x7F else 0x7F
  let old := s.rd F.FAB_STATE.KEEPER 0
  let s1 := (s.wr F.FAB_STATE.KEEPER 0 keeper).wrB F.FAB_STATE.QUORUM 0 quorum
  let s2 := if keeper ≠ old then s1.fabEvent F.FAB_EVENT.KEEPER_CHANGE else s1
  let s3 := if s.flag F.FAB_STATE.QUORUM 0 ∧ !quorum then s2.fabEvent F.FAB_EVENT.QUORUM_LOST else s2
  let mine := decide (keeper = s.fabAddr ∧ keeper < 64)
  if mine ∧ s.fab.keeperSince.isSome then s3
  else s3.putFab { s3.fab with keeperSince := if mine then some s.tb.ctc else none, leases := [] }

/-! ### Tide (R386) -/

/-- The offset of device d's tide from this device's, in 1/256 ns: along the first next hop, within 4 hops. -/
def State.tideOffset (s : State) (d : Nat) : Option Int :=
  if !s.member d ∨ s.rd F.FAB_ROUTEd.HOPS d > 4 then none
  else
    match s.nextHops d with
    | [] => none
    | l :: _ =>
      if (s.link l).exch < 4 then none
      else
        let th := toSigned 32 (s.rd F.FAB_LINKn_TIDE_OFS.THETA l)
        if s.rd F.FAB_LINKn_STATUS.NEIGHBOUR l = d then some th
        else (smFind (s.link l).answers (d, 0)).map (fun a => th + a.1)

/-- The fabric source of the tide (R48, R53, R386): the named peer's tide is measured afresh, or the peer is lost. -/
def State.peerTide (s : State) : State :=
  match s.tideOffset (s.rd F.TIDE_CTL.PEER 0) with
  | some o => s.putTb { s.tb with peer := some (s.tb.tideQ + o * (2 ^ 68 : Nat), s.tb.ctc), peerLost := false }
  | none =>
    let s1 := s.putTb { s.tb with peerLost := true }
    if s.flag F.TIDE_CTL.SRC 0 then s1.tbEvent F.TIDE_STATUS.PEER_LOST else s1

/-- The new table replaces the old in one core cycle (R382): entries, members, generation; then the keeper (R383) and the
tide's peer (R386). -/
def State.recompute (s : State) : State :=
  let edges := s.fabEdges
  let addressed := decide (s.fdState = fdADDRESSED)
  let dist := if addressed then hopsFrom edges s.fabAddr else []
  let near := s.ownUsable.map (fun a => (a.1, hopsFrom (edges.filter (fun e => e.1 ≠ s.fabAddr && e.2 ≠ s.fabAddr)) a.2))
  let s1 := (List.range 64).foldl
    (fun s1 d =>
      match dist.find? (fun p => p.1 == d) with
      | some (_, k) =>
        if k = 0 then s1.setRoute d [] 0
        else s1.setRoute d (((near.filter (fun n => n.2.any (fun p => p.1 == d && p.2 + 1 == k))).map (fun n => n.1)).take 4) k
      | none => s1.setRoute d [] 0) s
  let members := (dist.filter (fun p => p.1 < 64)).foldl (fun a p => a ||| 2 ^ p.1) 0
  let old := s.rd F.FAB_MEMBERS.MEMBERS 0
  let s2 := ((s1.wr F.FAB_MEMBERS.MEMBERS 0 members).wr F.FAB_STATE.MEMBERS_N 0 (dist.filter (fun p => p.1 < 64)).length).incWrap
    F.FAB_ROUTE_GEN.COUNT 0 1
  let s3 := if members ≠ old then s2.fabEvent F.FAB_EVENT.ROUTE_CHANGE else s2
  let s4 := s3.electKeeper
  (s4.putFab { s4.fab with dirty := false }).peerTide

/-! ### Links (R374) -/

/-- A link changes state (R374). -/
def State.linkState (s : State) (l st : Nat) : State :=
  let old := s.lkState l
  if old = st then s
  else
    let s1 := (s.wr F.FAB_LINKn_STATUS.STATE l st).fabEvent F.FAB_EVENT.LINK_CHANGE
    if old = lkADJACENT ∨ st = lkADJACENT then s1.fabEvent F.FAB_EVENT.ADJ_CHANGE else s1

/-- An adjacency ends (R374, R381): the link leaves every routing entry, the ROUTE is flooded, its tide is unknown. -/
def State.adjRemove (s : State) (l st : Nat) : State :=
  let was := s.adjacent l
  let s1 := s.linkState l st
  if !was then s1
  else
    let s2 := ((s1.dropLinkRoutes l).wr F.FAB_LINKn_STATUS.NEIGHBOUR l 0x7F).wr F.FAB_LINKn_STATUS.NLINK l 0
    let s3 := s2.setLink l { s2.link l with serial := none, exch := 0, lastRx := none, answers := [], asked := none }
    s3.adjChanged

/-- Credits, and cells waiting on either side, are discarded (R374). -/
def State.clearLink (s : State) (l : Nat) : State :=
  s.setLink l { s.link l with credits := [0, 0, 0, 0], txq := [], ues := [], since3 := 0, wire := [], rx := [], owed := [0, 0, 0, 0] }

/-- The bytes of a cell on a link. -/
def State.cellImage (s : State) : TxCell → List Byte
  | .raw b => b
  | c => Config.cellImage s.fabAddr c

/-- The link's next codeword (R369, R370, R373): START, a FILLER once 4,096 payload blocks would pass without one, up to two
cells, IDLE in the blocks left; the credits owed go in the CELL_START and IDLE blocks (R376). -/
def State.sendCodeword (s : State) (l : Nat) : State :=
  if s.lkState l = lkDOWN then s
  else
    let x := s.link l
    let fill := decide (x.sinceFill + 73 > 4095)
    let cells := cellsOut x.owed ((x.wire.take 2).map s.cellImage)
    let idles := idlesOut (73 - b2n fill - cells.1.length) cells.2
    let word := codewordOf ([startBlock x.txSeq 0, startBlock x.txSeq 1] ++ (if fill then [ctlBlock ctFILLER] else []) ++ cells.1 ++ idles.1)
    let sent := scrambleWord (x.txPrev0, x.txPrev1) word
    (s.setLink l { x with wire := x.wire.drop 2, owed := idles.2, txSeq := (x.txSeq + 1) % 256,
                          sinceFill := if fill then 72 else x.sinceFill + 73, txPrev0 := sent.2.1, txPrev1 := sent.2.2 }).emit
      (.codeword l sent.1)

/-- The hello interval in CTC (R374, R390). -/
def State.helloTicks (s : State) : Nat := max 1 (s.rd F.FAB_TIMING.HELLO 0) * usCtc 10

/-- Codeword lock is lost (R371, R372, R374): credits and waiting cells are discarded. -/
def State.lockLost (s : State) (l : Nat) : State :=
  if s.lkState l < lkLOCKING then s
  else
    let s1 := (s.adjRemove l lkLOCKING).wr F.FAB_LINKn_STATUS.LOOP l 0
    s1.clearLink l

/-- The link goes DOWN, its lanes electrically idle (R374). -/
def State.linkDown (s : State) (l : Nat) : State :=
  if s.lkState l = lkDOWN then s
  else
    let s1 := (s.adjRemove l lkDOWN).wr F.FAB_LINKn_STATUS.LOOP l 0
    let s2 := s1.clearLink l
    let s3 := s2.setLink l { s2.link l with hunt0 := [], hunt1 := [] }
    (s3.wr F.FAB_LINKn_STATUS.LOCK0 l 0).wr F.FAB_LINKn_STATUS.LOCK1 l 0

/-- DOWN to LOCKING while the domain is ON and EN is 1 (R374): the transmitter starts. -/
def State.linkUp (s : State) (l : Nat) : State :=
  if s.lkState l = lkDOWN ∧ s.on 55 ∧ s.flag F.FAB_LINKn_CFG.EN l then (s.linkState l lkLOCKING).sendCodeword l else s

/-! ### Addresses (R380) -/

/-- Whether an address is known in use: held in the ROUTE database, or claimed by another within the last 2 ms. -/
def State.addrUsed (s : State) (a : Nat) : Bool :=
  s.fab.db.any (fun r => r.addr == a && r.serial ≠ Config.serial) ||
  s.fab.claims.any (fun c => c.addr == a && c.serial ≠ Config.serial && decide (s.since c.at_ ≤ usCtc 2000))

/-- The candidate address (R380). -/
def State.candidate (s : State) : Option Nat :=
  let p := s.rd F.FAB_CFG.ADDR_PREF 0
  if p < 64 ∧ !s.addrUsed p then some p else (List.range 64).find? (fun a => !s.addrUsed a)

/-- A device claims its candidate, or without one stays UNADDRESSED and retries (R380). -/
def State.claim (s : State) : State :=
  match s.candidate with
  | none =>
    let s1 := (s.putFab { s.fab with cand := none, since := s.tb.ctc }).fabEvent F.FAB_EVENT.NO_ADDR
    s1.wr F.FAB_STATE.DSTATE 0 fdUNADDRESSED
  | some a =>
    ((s.putFab { s.fab with cand := some a, since := s.tb.ctc }).wr F.FAB_STATE.DSTATE 0 fdCLAIMING).floodClaim a

/-- An ADDRESSED device releases its address and claims again (R380). -/
def State.releaseAddr (s : State) (lost : Bool) : State :=
  let s1 := s.wr F.FAB_STATE.ADDR 0 0x7F
  let s2 := if lost then s1.fabEvent F.FAB_EVENT.ADDR_LOST else s1
  (s2.putFab { s2.fab with dirty := true }).claim

/-- A CLAIM or ROUTE from another serial for an address this device claims or holds (R380). -/
def State.rivalClaim (s : State) (serial addr : Nat) : State :=
  if serial = Config.serial then s
  else if s.fdState = fdCLAIMING ∧ s.fab.cand = some addr ∧ serial < Config.serial then s.claim
  else if s.fdState = fdADDRESSED ∧ s.fabAddr = addr then
    if serial > Config.serial then s.floodClaim addr else s.releaseAddr true
  else s

/-- An adjacency forms (R374): an UNADDRESSED device starts claiming (R380). -/
def State.adjForm (s : State) (l : Nat) (h : Hello) : State :=
  let s1 := ((s.linkState l lkADJACENT).wr F.FAB_LINKn_STATUS.NEIGHBOUR l h.addr).wr F.FAB_LINKn_STATUS.NLINK l h.link
  let s2 := (s1.setLink l { s1.link l with serial := some h.serial, lastHello := s.tb.ctc, exch := 0, lastRx := none, answers := [], tideAt := none }).adjChanged
  if s2.fdState = fdUNADDRESSED then s2.claim else s2

/-- SEQ b is newer than a (32 bits, wrapping). -/
def seqNewer (a b : Nat) : Bool := let d := (b + 2 ^ 32 - a) % 2 ^ 32; decide (0 < d ∧ d < 2 ^ 31)

/-- A flooded cell is newer than any held of its origin, and is held from now on (R379). -/
def State.floodNew (s : State) (serial ty seq : Nat) : Option State :=
  let put := s.putFab { s.fab with seen := smPut s.fab.seen (serial, ty) seq }
  match smFind s.fab.seen (serial, ty) with
  | none => some put
  | some q => if seqNewer q seq then some put else none

end Sys2Proof.Machine
end

