-- ==== Sys2Proof/Machine/ProtOps.lean ====
section
/-! DEFINITION. Protection's shared operations (13_protection.md): messages to the partner (R399), changes of protection
state (R412), takeover and going dark (R405, R407, R409), leaving a pair (R395), the faults of a paired tree (R103,
R412), and what the end of an upstream frame decides (R401 to R404). -/

namespace Sys2Proof.Machine

def State.prot (s : State) (t : Nat) : ProtTree := smGet ProtTree.reset s.prots (t, 0)
def State.setProt (s : State) (t : Nat) (x : ProtTree) : State := { s with prots := smSet ProtTree.reset s.prots (t, 0) x }

/-- Protection state codes of R412. -/
def psNONE : Nat := 0
def psSENDING : Nat := 1
def psALONE : Nat := 2
def psHELD : Nat := 3
def psYIELDED : Nat := 4
def psSYNCING : Nat := 5
def psREADY : Nat := 6
def psTAKING : Nat := 7
def psCLAIMING : Nat := 8
def State.ps (s : State) (t : Nat) : Nat := s.rd F.PROT_Tt_STATE.PSTATE t

/-- The states in which the device transmits (R392). -/
def psSends (p : Nat) : Bool := p == psSENDING || p == psALONE || p == psTAKING

/-- The states in which the tree listens (R402). -/
def psListens (p : Nat) : Bool := p == psSYNCING || p == psREADY || p == psCLAIMING

/-- δ in 1/256 ns (R401). -/
def State.delta (s : State) (t : Nat) : Int := toSigned 32 (s.rd F.PROT_Tt_DELTA.DELTA t)

/-- TRE_US_TEQD as the tree uses it, in 1/256 ns (R402). -/
def State.teqd (s : State) (t : Nat) : Int := (s.rd F.TRE_US_TEQD.NS t * 256 : Nat) + 2 * s.delta t

/-- A lease is held now by this device's own count (R384, R409). -/
def State.leaseHeld (s : State) (t : Nat) : Bool := s.flag F.PROT_Tt_STATE.LEASE t

/-! ### Messages (R399) -/

/-- A protection message of a kind to the partner, its header holding frame f. -/
def State.protMsg (s : State) (t kind : Nat) (f : Int) (body : List Byte) : State :=
  s.sendMessage (s.rd F.PROT_Tt_STATE.PARTNER t) 5 (s.rd F.PROT_Tt_STATE.PAIR_ID t + kind * 2 ^ 16) (leBytes 8 (f51 f) ++ body)

/-- The STATUS body (R399). -/
def State.statusBody (s : State) (t : Nat) : List Byte :=
  let p := s.prot t
  let u := p.ups.headD UsCount.zero
  let flags := b2n (s.ps t == psTAKING) + b2n (s.leaseHeld t) * 2 + b2n (s.tstate t == trFAULT) * 4 +
    b2n (p.sw.any (fun w => !w.forced)) * 8
  leBytes 1 (s.ps t) ++ leBytes 1 (s.tstate t) ++ leBytes 1 flags ++ leBytes 1 (s.rd F.PROT_Tt_STATE.CAUSE t) ++
  leBytes 4 (s.rd F.PROT_Tt_DELTA.DELTA t) ++ leBytes 2 u.found ++ leBytes 2 u.granted ++ zeros 4 ++
  leBytes 8 (match p.sw with
    | some w => if w.forced then 0 else f51 w.at_
    | none => 0)

/-- Send STATUS: at each boundary and at once on a change of state (R399). -/
def State.sendStatus (s : State) (t : Nat) : State :=
  let s1 := s.protMsg t 2 (s.frame t) (s.statusBody t)
  s1.setProt t { s1.prot t with sentLease := s.leaseHeld t }

/-! ### State changes -/

/-- Set a tree's bit in PROT_PAIRED (R418). -/
def State.setPaired (s : State) (t : Nat) (on : Bool) : State :=
  let old := s.rd F.PROT_PAIRED.TREES (t / 32)
  let b := 2 ^ (t % 32)
  s.wr F.PROT_PAIRED.TREES (t / 32) (if on then old ||| b else old - (old &&& b))

/-- A protection state change (R412): CAUSE and its frame are written, its event bit sets, a STATUS is sent. -/
def State.protSet (s : State) (t ps cause : Nat) : State :=
  let old := s.ps t
  let s1 := ((s.wr F.PROT_Tt_STATE.PSTATE t ps).wr F.PROT_Tt_STATE.CAUSE t cause).wr F.PROT_Tt_SINCE_F.F t (f51 (s.frame t))
  let s2 := s1.setPaired t (decide (ps ≠ psNONE))
  let s3 :=
    if ps = psTAKING then (s2.incWrap F.PROT_Tt_TAKEOVERS.COUNT t 1).protEvent F.PROT_EVENT.TAKEOVER
    else if ps = psYIELDED then s2.protEvent F.PROT_EVENT.YIELDED
    else if ps = psHELD then s2.protEvent F.PROT_EVENT.HELD
    else if ps = psREADY then s2.protEvent F.PROT_EVENT.READY
    else if ps = psSYNCING ∧ (old = psREADY ∨ old = psCLAIMING) then s2.protEvent F.PROT_EVENT.SYNC_LOST
    else s2
  if ps = psNONE then s3 else s3.sendStatus t

/-- Entry to SYNCING: the copy, δ and the clean frames are counted afresh (R401, R403, R412). -/
def State.enterSyncing (s : State) (t cause : Nat) : State :=
  let s1 := (s.wr F.PROT_Tt_OBS.CLEAN t 0).protSet t psSYNCING cause
  s1.setProt t { s1.prot t with copyEnd := false, copied := 0, samples := [], huntFrames := 0, deltaOk := false, tideBad := 0 }

/-- The tree passes to PROT_STANDBY (R407, R409): laser, maps and PLOAM messages end; host frames held for it complete
TREE_IDLE (R289); frames from the trunk stay staged. -/
def State.goStandby (s : State) (t : Nat) : State :=
  let s1 := ((((s.endFsFrame t).treeStop t).dropInFlight t txTREE_IDLE).dropStaged t Staged.ofHost txTREE_IDLE).treeState t trSTANDBY
  let s2 := s1.setTreeU t { s1.treeU t with expected := [], sweep := none, rogueRun := 0 }
  ((s2.termsOf t).filter (fun e => e.2.removing)).foldl (fun s e => s.recordUnused t e.1) s2

/-- The tree passes to ACTIVE and sends its first frame at the boundary of frame f, with no warm frames; every terminal's
LOB_FRAMES count starts at 0 (R405). -/
def State.goActive (s : State) (t : Nat) (f : Int) : State :=
  let s1 := s.treeState t trACTIVE
  let s2 := s1.setTree t { s1.tree t with firstF := some f, warm := 0, leaving := none, emptyRun := 0, txOn := false }
  let s3 := s2.putTerms (s2.terms.map (fun (e : Key × Term) => if e.1.1 = t then (e.1, { e.2 with lob := 0 }) else e))
  (s3.setTreeU t { s3.treeU t with expected := [], rogueRun := 0, sweep := none, announceF := f }).reannounce t

/-- The frame of the first cutoff at least 3 µs ahead (R405): a cutoff lies 4 µs before its boundary (R167). -/
def State.takeFrame (s : State) (t : Nat) : Int :=
  let x := s.tide + 7000 * 256 - treePhase t
  0 - (0 - x) / frameTicks

/-- A switch under way ends with a response to its source (R413). -/
def State.switchAnswer (s : State) (t : Nat) (r : Resp) : State :=
  match (s.prot t).sw with
  | none => s
  | some w =>
    let s1 := s.setProt t { s.prot t with sw := none }
    match w.src with
    | some src => s1.answerLater src r
    | none => s1

/-- The response payload of PROT_SWITCH (R413). -/
def State.switchPayload (s : State) (t : Nat) (f : Int) : List Byte :=
  leBytes 1 t ++ leBytes 1 (s.ps t) ++ zeros 6 ++ leBytes 8 (f51 f)

/-- The lease is no longer held, or is held until a CTC (R409). -/
def State.setLease (s : State) (t : Nat) (ends : Option Nat) : State :=
  (s.setProt t { s.prot t with leaseEnds := ends }).wrB F.PROT_Tt_STATE.LEASE t ends.isSome

/-- A takeover (R404, R405, R412): a planned switch is cancelled, TAKING is entered, the tree passes to ACTIVE. -/
def State.takeover (s : State) (t cause : Nat) : State :=
  if s.tstate t ≠ trSTANDBY then s
  else
    let s1 := if (s.prot t).sw.any (fun w => w.forced) then s else s.setProt t { s.prot t with sw := none }
    let f := s1.takeFrame t
    let s2 := (s1.protSet t psTAKING cause).goActive t f
    s2.setProt t { s2.prot t with takeF := f, digests := [], cur := UsCount.zero, ups := [], reps := [] }

/-- What a tree's protection forgets when it stops transmitting. -/
def State.forgetSent (s : State) (t : Nat) : State :=
  s.setProt t { s.prot t with silenced := some (s.frame t), silentLease := false, heard := false, yielding := false,
                              digests := [], ups := [], cur := UsCount.zero, reps := [], snap := none }

/-- A side stops transmitting and enters a state with a cause (R407 to R409). -/
def State.enterDark (s : State) (t ps cause : Nat) : State := (s.protSet t ps cause).forgetSent t

/-- The side enters YIELDED; its tree passes to PROT_STANDBY at its next boundary (R407, R411). -/
def State.yieldNext (s : State) (t cause : Nat) : State :=
  let s1 := (s.protSet t psYIELDED cause).setTree t { s.tree t with leaving := some trSTANDBY }
  s1.setProt t { s1.prot t with yielding := true }

/-! ### Leaving a pair (R395) -/

/-- The standby slots of a tree are erased and freed as by KEY_ERASE with UNBIND (R395). -/
def State.freeStandbySlots (s : State) (t : Nat) : State :=
  match (s.prot t).slotBase with
  | none => s
  | some b => (List.range 1024).foldl (fun s n => (s.eraseSlot (b + n)).unbindSlot (b + n)) s

/-- Work of the pair that still owes a response ends: a switch with INTERNAL 0x41 (R413), a passed QUENCH with INTERNAL. -/
def State.endPairWork (s : State) (t : Nat) : State :=
  let s1 := s.switchAnswer t (refuse stINTERNAL 0x41)
  (s1.prot t).quench.foldl (fun s src => s.answerFailed src) (s1.setProt t { s1.prot t with quench := [] })

/-- The tree leaves its pair (R395): NONE with its cause, standby slots freed, PAIR_LEFT. -/
def State.leavePair (s : State) (t cause : Nat) : State :=
  if s.ps t = psNONE then s
  else
    let s1 := (s.endPairWork t).freeStandbySlots t
    let s2 := (s1.setLease t none).protSet t psNONE cause
    let s3 := ((s2.wr F.PROT_Tt_STATE.PARTNER t 0x7F).wr F.PROT_Tt_STATE.PAIR_ID t 0).protEvent F.PROT_EVENT.PAIR_LEFT
    let s4 := ((s3.wr F.PROT_Tt_OBS.CLEAN t 0).wr F.PROT_Tt_OBS.DIGEST_GAP t 0).wr F.PROT_Tt_OBS.ACK_GAP t 0
    s4.setProt t ProtTree.reset

/-- A tree goes DISABLED (R102): laser off at once, a pending start cancelled, staged frames dropped with TREE_DOWN,
records back to EXPECTED, the deep queues flushed (R263), forecast records freed (R173). FAULT_CAUSE returns to 0 with it
(DESIGN CHOICE, log entry 59: R102 does not say what it shows then). -/
def State.treeDisable (s : State) (t : Nat) : State :=
  let s1 := (s.cancelStart t).treeStop t
  let s2 := ((s1.dropInFlight t txTREE_DOWN).dropStaged t (fun _ => true) txTREE_DOWN).flushQueues (fun k => k.1 == t) txTREE_DOWN
  let s3 := (s2.wr F.TRE_STATE.FAULT_CAUSE t 0).treeState t trDISABLED
  let s4 := (s3.termsLeave t).setTreeU t { s3.treeU t with expected := [], sweep := none, rogueRun := 0 }
  let s5 := s4.setTree t { s4.tree t with image := none, deficit := [], rrLast := 0 }
  (s5.putSluUnits (s5.sluUnits.map (fun (e : Key × SluUnit) => (e.1, { e.2 with forecasts := e.2.forecasts.filter (fun r => r.1.1 / 4096 ≠ t) })))).countForecasts.freeRetained

/-- The pair is dissolved on this device: a PROT_STANDBY tree passes to DISABLED (R395). -/
def State.dissolve (s : State) (t cause : Nat) : State :=
  let s1 := s.leavePair t cause
  if s1.tstate t = trSTANDBY then (s1.treeDisable t).wr F.PROT_Tt_DELTA.DELTA t 0 else s1

/-! ### Faults -/

/-- A fault of R103 reaches a tree: FAULT, and on a transmitting side of a pair a STATUS with FAULT and YIELDED (R412). A
planned switch it overtakes answers INTERNAL 0x41 (R413). -/
def State.faultTree (s : State) (t cause : Nat) : State :=
  let was := s.tstate t
  let s1 := s.treeFault t cause
  if psSends (s.ps t) ∧ was ≠ trFAULT ∧ s1.tstate t = trFAULT then
    (s1.switchAnswer t (refuse stINTERNAL 0x41)).enterDark t psYIELDED 0
  else s1

/-! ### Observing (R401 to R404) -/

/-- READY once the copy is complete, δ valid, the tide within 8 ns and 64 clean frames counted (R403). -/
def State.tryReady (s : State) (t : Nat) : State :=
  let p := s.prot t
  if s.ps t = psSYNCING ∧ s.tstate t = trSTANDBY ∧ p.copyEnd ∧ p.deltaOk
      ∧ (s.tideOffset (s.rd F.PROT_Tt_STATE.PARTNER t)).any (fun d => decide (d.natAbs ≤ 8 * 256)) ∧ s.rd F.PROT_Tt_OBS.CLEAN t ≥ 64 then
    s.protSet t psREADY 0
  else s

/-- Clean frames are counted up to 64 towards READY, or start again (R403). -/
def State.countClean (s : State) (t : Nat) (clean : Bool) : State :=
  if !psListens (s.ps t) then s
  else if clean then (s.wr F.PROT_Tt_OBS.CLEAN t (min 64 (s.rd F.PROT_Tt_OBS.CLEAN t + 1))).tryReady t
  else s.wr F.PROT_Tt_OBS.CLEAN t 0

/-- The mean of the last 64 delimiters found (R401). -/
def meanOf (l : List Int) : Int := if l = [] then 0 else (l.foldl (· + ·) 0) / (l.length : Int)

/-- δ at the end of a hunted frame (R401): its first value once 64 delimiters are found, updated each frame after that;
not within 64 frames, or out of range, the standby stays in SYNCING with cause 14. -/
def State.deltaFrame (s : State) (t : Nat) : State :=
  let p := s.prot t
  if !p.copyEnd then s
  else
    let n := p.huntFrames + 1
    let m := meanOf (p.samples.drop (p.samples.length - 64))
    let full := decide (p.samples.length ≥ 64)
    let ok := full && decide (m.natAbs ≤ 50000 * 256)
    let s1 := s.setProt t { p with huntFrames := n, deltaOk := ok || p.deltaOk && !full,
                                   samples := p.samples.drop (p.samples.length - 64) }
    let s2 := if full then s1.wr F.PROT_Tt_DELTA.DELTA t (ofSigned 32 m) else s1
    if !(ok || p.deltaOk && !full) ∧ n ≥ 64 ∧ s2.ps t = psSYNCING then
      (s2.wr F.PROT_Tt_STATE.CAUSE t 14).setProt t { s2.prot t with huntFrames := 0, samples := if full then [] else (s2.prot t).samples }
    else s2

/-- Whether at least 4 bursts were granted over two frames and at most a quarter of them found, no report of the partner
contradicting (R404 A). -/
def ProtTree.conditionA (p : ProtTree) : Bool :=
  match p.ups with
  | a :: b :: _ =>
    decide (a.f = b.f + 1) && decide (a.granted + b.granted ≥ 4) && decide (4 * (a.found + b.found) ≤ a.granted + b.granted) &&
    p.reps.all (fun r => !(r.f == a.f || r.f == b.f) || decide (4 * r.found ≤ r.granted))
  | _ => false

/-- An upstream frame's last hunt window has ended (R401, R403, R404, R418). -/
def State.usFrameEnd (s : State) (t : Nat) (c : UsCount) : State :=
  if s.ps t = psNONE then s
  else
    let miss := if c.granted = 0 then 0 else (c.granted - c.found) * 100 / c.granted
    let s1 := s.wr F.PROT_Tt_OBS.MISS_PCT t miss
    let s2 := if c.granted > 0 ∧ 4 * (c.granted - c.found) ≥ 3 * c.granted then s1.incSat F.PROT_Tt_MISS_FRAMES.COUNT t 1 else s1
    let s3 := s2.setProt t { s2.prot t with ups := (c :: (s2.prot t).ups).take 2, cur := UsCount.zero }
    if !psListens (s.ps t) then s3
    else
      let s4 := s3.deltaFrame t
      let arrived := (s4.prot t).digests.any (fun d => d.1 == c.f)
      let s5 := s4.setProt t { s4.prot t with digests := (s4.prot t).digests.filter (fun d => d.1 > c.f) }
      let s6 := s5.countClean t (arrived && (decide (c.granted < 4) || decide (4 * c.found ≥ 3 * c.granted)))
      if s6.ps t = psREADY ∧ (s6.prot t).conditionA then s6.takeover t 2 else s6

/-- A lease request to the keeper (R384, R409). -/
def State.askLease (s : State) (t : Nat) : State :=
  let s1 := s.setProt t { s.prot t with asked := some s.tb.ctc }
  let m : LeaseReq := ⟨s.rd F.PROT_Tt_STATE.PAIR_ID t, s.fabAddr, s.leaseHeld t⟩
  let k := s.rd F.FAB_STATE.KEEPER 0
  if k < 64 then s1.sendTo k s.fabAddr (.leaseReq k m) else s1

end Sys2Proof.Machine
end

