-- ==== Sys2Proof/Machine/SluOps.lean ====
section
/-! DEFINITION. Sluice's shared operations (05_sluice.md, and R111 to R113): StartTime units, burst profiles and burst
lengths, rates, accounts and demand, quiet windows, the composing of a map, the self-check, and changes of unit state. -/

namespace Sys2Proof.Machine

/-! ### Units, rates and burst profiles -/

/-- StartTime units in an upstream frame (R157). -/
def capacity (f50 : Bool) : Nat := if f50 then 48600 else 38880

/-- Bits in a StartTime unit at a rate code (R111, R158). -/
def unitBits (f50 : Bool) (rate : Nat) : Nat := if f50 then 128 / 2 ^ rate else 32

/-- Bytes in a granule (R158): every granule is one StartTime unit. -/
def granule (f50 : Bool) (rate : Nat) : Nat := unitBits f50 rate / 8

/-- StartTime units and bits at a rate, in 1/256 ns rounded down (R111, R112). -/
def bitTicks (f50 : Bool) (rate : Nat) (units bits : Int) : Int :=
  if f50 then (units * 128 + bits * (2 ^ rate : Nat)) * 2560000 / 497664
  else (units * 32 + bits) * 25600000 / 995328

/-- StartTime units less a PSBu of `psbu` bits at a rate, in 1/256 ns rounded down (R111, R112). -/
def unitTicks (f50 : Bool) (rate : Nat) (units : Int) (psbu : Nat) : Int := bitTicks f50 rate units (-(psbu : Int))

/-- A span of 1/256 ns in whole units, rounded down. -/
def unitsFloor (f50 : Bool) (x : Int) : Int := if f50 then x * 497664 / 327680000 else x * 995328 / 819200000

/-- A span of 1/256 ns in whole units, rounded up. -/
def unitsCeil (f50 : Bool) (x : Int) : Int := -unitsFloor f50 (-x)

/-- The upstream frame reference of frame F (R111, R402), in 1/256 ns. -/
def State.usRef (s : State) (t : Nat) (fr : Int) : Int := boundary t fr + s.teqd t

/-- The contents of a burst profile for the map of frame F (R114). -/
def State.profAt (s : State) (t rate idx : Nat) (fr : Int) : BurstProf :=
  let b := smGet BurstSlot.none_ s.bprofs (t, rate * 4 + idx)
  if b.announce then b.old
  else
    match b.fromF with
    | some f => if fr ≥ f then b.now else b.old
    | none => b.now

/-- The profile a grant uses: the one named, or profile 0 where that is not defined (R113). -/
def State.profFor (s : State) (t rate idx : Nat) (fr : Int) : Nat := if (s.profAt t rate idx fr).defined then idx else 0

/-- PSBu length in bits (R113). -/
def BurstProf.psbu (p : BurstProf) : Nat := p.preLen * p.preRepeat + p.delimLen

/-- Bytes of a burst after its PSBu: header, the bytes it carries, FS trailer and FEC parity (R112, R159). -/
def burstBytes (f50 : Bool) (rate : Nat) (p : BurstProf) (bytes : Nat) : Nat :=
  let n := Config.burstHeader f50 + Config.fsTrailer f50 + bytes
  n + (if p.fec then (if f50 then Config.ldpcParity rate n else 16 * ceilDiv n 232) else 0)

/-- Length in units of a burst that carries `bytes` bytes of PLOAMu, DBRus and grants (R159). -/
def burstUnits (f50 : Bool) (rate : Nat) (p : BurstProf) (bytes : Nat) : Nat :=
  ceilDiv p.psbu (unitBits f50 rate) + ceilDiv (burstBytes f50 rate p bytes) (granule f50 rate)

/-- The mask bit of a rate code (R106): code 0 is 49.7664 Gbit/s. -/
def rateBit (rate : Nat) : Nat := 2 - rate

/-- The highest rate of a mask, as a code. -/
def topRate (mask : Nat) : Option Nat :=
  if bit mask 2 then some 0 else if bit mask 1 then some 1 else if bit mask 0 then some 2 else none

/-- The rate that R158 gives an allocation of a terminal; none when the two masks share no rate. -/
def State.rateFor (s : State) (t : Nat) (termRates rateField : Nat) : Option Nat :=
  if !s.f50 t then some 0
  else
    let both := (s.tree t).usRates &&& termRates
    if rateField ≠ 0 ∧ bit both (rateField - 1) then some (3 - rateField) else topRate both

def State.allocRate (s : State) (t : Nat) (a : Alloc) : Option Nat := s.rateFor t (s.term t a.term).rates a.rate

/-- The guard of R159 in units. -/
def State.guard (s : State) (t : Nat) : Nat :=
  let tenths := max (s.rd F.SLU_TREE_CTL.GUARD_NS t * 10)
    (s.rd F.TRE_OPTIC.RXRST_LEAD t * 2 + max (s.rd F.TRE_OPTIC.RXRST_WIDTH t) 4 * 8)
  if s.f50 t then ceilDiv (tenths * 497664) 12800000 else ceilDiv (tenths * 995328) 32000000

/-- The frame whose cutoff, ⟨F, phase⟩ - 4,000 ns, was the last to pass (R167). -/
def State.cutFrame (s : State) (t : Nat) : Int := (s.tide + 4000 * 256 - treePhase t) / frameTicks

/-! ### Committed occupancy and anchors (R154, R163) -/

/-- An allocation's committed bit rate times 2^rate code, so that all count against the profile's highest rate. -/
def State.commitOf (s : State) (t : Nat) (a : Alloc) : Nat :=
  let bps := if a.cls = 0 ∨ a.cls = 4 then a.fixed * 64000 else if a.cls = 1 then a.assured * 1000 else 0
  bps * 2 ^ ((s.allocRate t a).getD ((topRate (s.tree t).usRates).getD 0))

/-- The sum of R154 over a list of allocations. -/
def State.commitSum (s : State) (t : Nat) (l : List (Nat × Alloc)) : Nat := l.foldl (fun x a => x + s.commitOf t a.2) 0

/-- The rate against which the sum counts, bit/s. -/
def State.topBps (s : State) (t : Nat) : Nat := if s.f50 t then 49766400000 else 9953280000

/-- Committed occupancy in ‰, and its register (R154, R185). -/
def State.setCommit (s : State) (t : Nat) : State :=
  s.wr F.SLU_TREE_COMMIT.PERMILLE t (min 1023 (s.commitSum t (s.allocsOf t) * 1000 / s.topBps t))

/-- The span of a LOW_LATENCY burst in its longest form, from its first PSBu bit (R163). -/
def State.llSpan (s : State) (t : Nat) (a : Alloc) (fr : Int) : Int × Int :=
  let r := (s.allocRate t a).getD 0
  let p := s.profAt t r (s.profFor t r a.bprof fr) fr
  let g := granule (s.f50 t) r
  let bytes := ceilDiv a.fixed g * g + (if a.dbru then Config.dbruBytes (s.f50 t) else 0) + Config.ploamuBytes (s.f50 t)
  let lo : Int := (a.anchor : Int) - ceilDiv p.psbu (unitBits (s.f50 t) r)
  (lo, lo + burstUnits (s.f50 t) r p bytes)

/-- Whether two spans come closer than G. -/
def tooClose (g : Nat) (a b : Int × Int) : Bool := decide (a.1 < b.2 + g) && decide (b.1 < a.2 + g)

/-! ### Posted inputs (R149, R155) -/

/-- A unit's state code (R177). -/
def State.unitState (s : State) (u : Nat) : Nat := if u = 0 then s.rd F.SLU_STATUS.A_STATE 0 else s.rd F.SLU_STATUS.B_STATE 0

/-- A unit takes inputs for a tree: FAILED and TESTING discard them, RESYNC takes them once the tree's copy began. -/
def State.unitHears (s : State) (u t : Nat) : Bool :=
  s.unitState u ≤ 1 || (s.unitState u == 2 && decide ((s.sluTree u t).copy ≥ 1))

/-- Change a tree's data in every unit that takes inputs. -/
def State.postSlu (s : State) (t : Nat) (f : SluTree → SluTree) : State :=
  [0, 1].foldl (fun s u => if s.unitHears u t then s.setSluTree u t (f (s.sluTree u t)) else s) s

/-- A valid DBRu is posted to both units with its allocation and the frame of the map whose burst carried it (R118). -/
def State.postReport (s : State) (t a bytes : Nat) (mapF : Int) : State :=
  let upd := fun (r : Report) => (⟨some (bytes, mapF), r.granted.filter (fun g => decide (g.1 > mapF))⟩ : Report)
  s.postSlu t (fun x => { x with reports := smMod Report.none_ x.reports (a, 0) upd })

/-- An allocation's account, report and forecast records are discarded in both units (R183). -/
def State.forgetAlloc (s : State) (t a : Nat) : State :=
  let s1 := [0, 1].foldl (fun s u =>
    let x := s.sluTree u t
    s.setSluTree u t { x with acct := smDel x.acct (a, 0), reports := smDel x.reports (a, 0), since := smDel x.since (a, 0) }) s
  (s1.putSluUnits (s1.sluUnits.map (fun e => (e.1, { e.2 with forecasts := e.2.forecasts.filter (fun r => r.1.1 ≠ t * 4096 + a) }))))

/-- Installed records that are not granted count (R173). -/
def State.forecastsLost (s : State) (n : Nat) : State :=
  if n = 0 then s else (s.incSat F.SLU_FC_DROP.COUNT 0 n).sluEvent F.SLU_EVENT.FC_DROP

/-- A deleted allocation is forgotten, and its forecast records count as not granted (R173, R183). -/
def State.dropAlloc (s : State) (t a : Nat) : State :=
  let lost := (s.sluUnit (s.rd F.SLU_STATUS.ACTIVE 0)).forecasts.filter (fun r => r.1.1 == t * 4096 + a)
  ((s.forecastsLost lost.length).forgetAlloc t a).countForecasts

/-! ### Quiet windows (R161, R471) -/

/-- `MIN_KM` and `DIFF_KM` as they act (R147). -/
def State.minKm (s : State) (t : Nat) : Nat := min 20 (s.rd F.TRE_US_REACH.MIN_KM t)
def State.diffKm (s : State) (t : Nat) : Nat := max 1 (min 40 (s.rd F.TRE_US_REACH.DIFF_KM t))

/-- The quiet window decided while the map of F is built (R471). -/
def State.quietFor (s : State) (t : Nat) (fr : Int) (ranging : Bool) (k : Nat) : Quiet :=
  let f50 := s.f50 t
  let rate := if ranging then ((s.alloc t k).bind (fun a => s.allocRate t a)).getD 0
    else if f50 then (if bit (s.tree t).usRates 0 then 2 else if bit (s.tree t).usRates 1 then 1 else 0) else 0
  let need := s.teqd t - ((10000 * s.minKm t + 34000) * 256 : Nat)
  let d := max 0 (-((-need) / frameTicks))
  let z := boundary t (fr + d)
  let len := unitTicks f50 0 (burstUnits f50 rate (s.profAt t rate 0 (fr + d)) (Config.ploamuBytes f50)) 0
  { ranging := ranging, term := if ranging then k else 1023, decided := fr, grantF := fr + d, rate := rate,
    lo := z + ((10000 * s.minKm t + 34000) * 256 : Nat),
    hi := z + ((10000 * (s.minKm t + s.diffKm t) + 36000) * 256 : Nat) + len }

/-- A quiet window whose interval has ended closes; a ranging grant without a valid response counts a try, and is asked
for again while tries remain (R128, R161). -/
def State.quietClose (s : State) (t : Nat) : State :=
  let h := s.shared t
  match h.quiet with
  | none => s
  | some q =>
    if s.tide < q.hi then s
    else
      let s1 := s.setShared t { h with quiet := none, lastWin := q.decided }
      let x := s1.term t q.term
      if q.ranging ∧ x.state = tmRANGING ∧ !x.ranged then
        let s2 := s1.setTerm t q.term { x with tries := x.tries + 1 }
        if x.tries + 1 < max 1 (s.rd F.TRE_US_CTL.RANGE_TRIES t) then s2.askRanging t q.term else s2
      else s1

/-- The quiet window of a tree as the map of frame F is built (R161): one open at a time; ranging first, else discovery
when due; none in a warm frame. A discovery window that falls due meanwhile waits its turn. -/
def State.quietStep (s : State) (t : Nat) (fr : Int) : State :=
  let s1 := s.quietClose t
  let x := s1.tree t
  let h := s1.shared t
  let first := x.firstF.getD fr
  let dp := s.rd F.SLU_TREE_CTL.DISC_PERIOD t
  let noneOper := decide (s.rd F.TRE_STATE.OPER_TERMS t = 0)
  let warmEnd := first + s.rd F.TRE_CFG.WARM_FRAMES t
  let stay := x.stayUntil.any (fun f => fr < f)
  let due := h.due || (decide (dp ≠ 0) && decide ((fr - first) % (dp : Int) = 0)) ||
    (stay && (decide (fr = warmEnd) || (noneOper && h.quiet.isNone && decide (h.lastWin ≥ first))))
  if fr < warmEnd ∨ h.quiet.isSome then s1.setShared t { h with due := due }
  else
    match h.rangeQ with
    | k :: rest => (s1.setShared t { h with rangeQ := rest, quiet := some (s1.quietFor t fr true k), due := due }).fillRanging t
    | [] =>
      if due then
        let q := s1.quietFor t fr false 0
        let s2 := s1.setTreeU t { s1.treeU t with windows := (s1.treeU t).windows ++ [(q.lo, q.hi)] }
        s2.setShared t { h with quiet := some q, due := false }
      else s1.setShared t { h with due := due }

/-- The span of units the quiet window reserves in the map of F (R471 step 5). -/
def State.quietSpan (s : State) (t : Nat) (fr : Int) : Option (Int × Int) :=
  match (s.shared t).quiet with
  | none => none
  | some q =>
    let r := s.usRef t fr
    let lo := max 0 (unitsFloor (s.f50 t) (q.lo - r))
    let hi := min (capacity (s.f50 t) : Int) (unitsCeil (s.f50 t) (q.hi - r))
    if lo < hi then some (lo, hi) else none

/-! ### Sleep windows as intervals (R137, R162) -/

/-- The next upstream sleep windows of a terminal as tide intervals. -/
def State.sleepSpans (s : State) (t k : Nat) : List (Int × Int) :=
  let x := s.term t k
  match x.win with
  | none => []
  | some w =>
    let lp : Int := max 1 w.lp
    let aw : Int := max 1 w.aw
    let first := if !w.opened then w.fromF else if w.asleep then w.sinceF else w.sinceF + aw
    if w.opened ∧ w.closing then (if w.asleep then [(boundary t w.sinceF, boundary t (s.frame t + 1))] else [])
    else if x.forceAwake then (if w.opened ∧ !w.asleep then [] else [(boundary t first, boundary t (first + lp))])
    else (List.range 8).map (fun (n : Nat) => (boundary t (first + (n : Int) * (lp + aw)), boundary t (first + (n : Int) * (lp + aw) + lp)))

/-! ### Accounts and demand (R153, R155, R156) -/

def SluTree.account (x : SluTree) (a : Nat) : Int := smGet 0 x.acct (a, 0)

/-- A class with an account. -/
def Alloc.hasAccount (a : Alloc) : Bool := a.cls == 1 || a.cls == 2 || a.cls == 3

/-- Steps 1 and 2 of R155 for one allocation. -/
def Alloc.credited (a : Alloc) (x : Int) : Int :=
  let inc : Int := if a.cls = 1 then 4 * a.assured else if a.cls = 2 ∨ a.cls = 3 then 4 * a.max else 0
  min (x + inc) (256 * a.bucket)

/-- Demand (R155 step 3). -/
def SluTree.demand (x : SluTree) (a : Nat) : Nat :=
  let r := smGet Report.none_ x.reports (a, 0)
  match r.q with
  | none => 0
  | some (q, f) => q - (r.granted.filter (fun g => g.1 > f)).foldl (fun n g => n + g.2) 0

/-! ### Composing a map (R160, R165) -/

/-- A grant being composed: allocation, bytes in whole granules, the pass that last added to it, DBRu. -/
structure BGrant where
  alloc : Nat
  bytes : Nat
  pass : Nat
  dbru : Bool
  deriving DecidableEq, Repr

/-- A burst being composed: terminal, rate, profile index, the anchor of a LOW_LATENCY burst, PLOAMu, its grants, and the
unit its first PSBu bit takes once laid out. -/
structure BBurst where
  term : Nat
  rate : Nat
  bprof : Nat
  anchor : Option Nat
  ploamu : Bool
  grants : List BGrant
  place : Option Int
  deriving DecidableEq, Repr

/-- A map being composed: bursts, capacity left, structures, accounts, the last allocation granted in passes 6 and 7, and
whether the limit of R164 stopped a pass. -/
structure Build where
  bursts : List BBurst
  left : Nat
  count : Nat
  acct : SMap Int
  last6 : Option Nat
  last7 : Option Nat

/-- Bytes a burst carries. -/
def BBurst.bytes (b : BBurst) (f50 : Bool) : Nat :=
  (if b.ploamu then Config.ploamuBytes f50 else 0) +
  b.grants.foldl (fun n g => n + g.bytes + (if g.dbru then Config.dbruBytes f50 else 0)) 0

/-- A burst's length in units (R159). -/
def State.burstLen (s : State) (t : Nat) (fr : Int) (b : BBurst) : Nat :=
  burstUnits (s.f50 t) b.rate (s.profAt t b.rate b.bprof fr) (b.bytes (s.f50 t))

/-- The most granules, at most `hi`, for which `ok` holds; `ok` holds of `lo` and is monotone. -/
def maxFit (ok : Nat → Bool) : Nat → Nat → Nat → Nat
  | 0, lo, _ => lo
  | n + 1, lo, hi =>
    if lo ≥ hi then lo
    else
      let mid := (lo + hi + 1) / 2
      if ok mid then maxFit ok n mid hi else maxFit ok n lo (mid - 1)

/-- Bytes granted to an allocation so far in this map. -/
def Build.granted (b : Build) (a : Nat) : Nat :=
  (b.bursts.flatMap (fun x => x.grants)).foldl (fun n g => if g.alloc = a then n + g.bytes else n) 0

def Build.has (b : Build) (a : Nat) : Bool := b.bursts.any (fun x => x.grants.any (fun g => g.alloc == a))

/-- A burst with more bytes for an allocation. -/
def BBurst.grow (b : BBurst) (a bytes pass : Nat) (dbru : Bool) : BBurst :=
  if b.grants.any (fun g => g.alloc == a) then
    { b with grants := b.grants.map (fun g => if g.alloc = a then { g with bytes := g.bytes + bytes, pass := pass } else g) }
  else { b with grants := b.grants ++ [⟨a, bytes, pass, dbru⟩] }

/-- Add a grant of up to `want` bytes (`poll`: of zero bytes) in a pass, as far as capacity, the account's floor and the
limit of R164 allow (R156, R158, R160). -/
def State.addGrant (s : State) (t : Nat) (fr : Int) (due : Nat → Bool) (b : Build) (a want pass : Nat) (poll : Bool) : Build :=
  match s.alloc t a with
  | none => b
  | some al =>
    match s.allocRate t al with
    | none => b
    | some r =>
      if b.count ≥ 512 then b
      else
        let f50 := s.f50 t
        let g := granule f50 r
        let idx := s.profFor t r al.bprof fr
        let here := fun (x : BBurst) => x.term == al.term && x.rate == r && x.bprof == idx && x.anchor.isNone
        let old := (b.bursts.find? here)
        let base : BBurst := old.getD ⟨al.term, r, idx, none, due al.term && !b.bursts.any (fun x => x.term == al.term), [], none⟩
        let oldCost := match old with
          | some x => s.burstLen t fr x
          | none => 0
        let guardCost := if old.isSome then 0 else s.guard t
        let fits := fun (n : Nat) => decide (s.burstLen t fr (base.grow a (n * g) pass al.dbru) + guardCost - oldCost ≤ b.left)
        let room := if al.hasAccount then ((smGet 0 b.acct (a, 0) + 256 * al.bucket) / 256).toNat / g else want
        let n := if poll then 0 else maxFit fits 32 0 (min (ceilDiv want g) room)
        if (n = 0 ∧ !poll) ∨ !fits n then b
        else
          let x := base.grow a (n * g) pass al.dbru
          { b with
            bursts := if old.isSome then b.bursts.map (fun y => if here y then x else y) else b.bursts ++ [x]
            left := b.left + oldCost - s.burstLen t fr x - guardCost
            count := if b.has a then b.count else b.count + 1
            acct := if al.hasAccount then smMod 0 b.acct (a, 0) (fun z => z - 256 * (n * g : Nat)) else b.acct
            last6 := if pass = 6 then some a else b.last6
            last7 := if pass = 7 then some a else b.last7 }

/-- Passes 6 and 7: weighted round robin over a queue of allocations (R160). -/
def State.wrr (s : State) (t : Nat) (fr : Int) (due : Nat → Bool) (dem : Nat → Nat) (pass : Nat) : Nat → List Nat → Build → Build
  | 0, _, b => b
  | _, [], b => b
  | n + 1, a :: rest, b =>
    if b.left = 0 ∨ b.count ≥ 512 then b
    else
      match s.alloc t a with
      | none => s.wrr t fr due dem pass n rest b
      | some al =>
        let d := dem a - b.granted a
        let cr := (smGet 0 b.acct (a, 0) / 256).toNat
        let want := min (al.weight * 64) (min d cr)
        if want = 0 then s.wrr t fr due dem pass n rest b
        else
          let b' := s.addGrant t fr due b a want pass false
          if b'.granted a = b.granted a then s.wrr t fr due dem pass n rest b
          else s.wrr t fr due dem pass n (rest ++ [a]) b'

/-- The allocations after a position in rising index with wrap-around. -/
def rotate (l : List Nat) (after : Nat) : List Nat := l.filter (· > after) ++ l.filter (· ≤ after)

/-- Drop or cut the grants of the latest pass until a burst is at most `room` units long or empty (R165). -/
def State.cutBurst (s : State) (t : Nat) (fr : Int) (room : Nat) : Nat → BBurst → BBurst
  | 0, b => b
  | n + 1, b =>
    if b.grants = [] ∨ s.burstLen t fr b ≤ room then b
    else
      let g := granule (s.f50 t) b.rate
      let p := b.grants.foldl (fun m x => max m x.pass) 0
      match (b.grants.filter (fun x => x.pass == p)).getLast? with
      | none => b
      | some x =>
        let put := fun (k : Nat) => { b with grants := b.grants.map (fun y => if y.alloc = x.alloc then { y with bytes := k * g } else y) }
        let k := maxFit (fun k => decide (s.burstLen t fr (put k) ≤ room)) 32 0 (x.bytes / g)
        if k > 0 ∧ s.burstLen t fr (put k) ≤ room then put k
        else s.cutBurst t fr room n { b with grants := b.grants.filter (fun y => y.alloc ≠ x.alloc) }

/-- Spans taken, with the earliest place for a burst of `len` units (R165). -/
def earliest (cap : Int) (g : Nat) (taken : List (Int × Int)) (len : Int) : Option Int :=
  let cands := (0 : Int) :: taken.map (fun x => x.2 + g)
  let ok := cands.filter (fun p => decide (0 ≤ p) && decide (p + len ≤ cap) && taken.all (fun x => decide (p ≥ x.2 + g) || decide (p + len + g ≤ x.1)))
  match ok with
  | [] => none
  | p :: r => some (r.foldl min p)

/-- The largest free span (R165). -/
def largestFree (cap : Int) (g : Nat) (taken : List (Int × Int)) : Nat :=
  let starts := (0 : Int) :: taken.map (fun x => x.2 + g)
  let free := starts.map (fun p =>
    if taken.any (fun x => decide (p < x.2 + g) && decide (p + g > x.1)) then (0 : Int)
    else (taken.foldl (fun (m : Int) (x : Int × Int) => if x.1 ≥ p then min m (x.1 - g) else m) cap) - p)
  (free.foldl max 0).toNat

/-- Lay bursts out in the order given; a burst that fits nowhere is cut down (R165). -/
def State.layOut (s : State) (t : Nat) (fr : Int) : List BBurst → List (Int × Int) → List BBurst
  | [], _ => []
  | b :: rest, taken =>
    let cap : Int := capacity (s.f50 t)
    let g := s.guard t
    let b1 := match earliest cap g taken (s.burstLen t fr b) with
      | some _ => b
      | none => s.cutBurst t fr (largestFree cap g taken) (b.grants.length + 1) b
    if b1.grants = [] then s.layOut t fr rest taken
    else
      let len : Int := s.burstLen t fr b1
      match earliest cap g taken len with
      | some p => { b1 with place := some p } :: s.layOut t fr rest ((p, p + len) :: taken)
      | none => s.layOut t fr rest taken

/-- A burst's span as tide instants (R112): its first PSBu bit, and its last bit, parity and trailer included. -/
def State.burstSpan (s : State) (t : Nat) (fr : Int) (b : BBurst) : Int × Int :=
  let f50 := s.f50 t
  let p := s.profAt t b.rate b.bprof fr
  let u := ceilDiv p.psbu (unitBits f50 b.rate)
  let at_ := b.place.getD 0
  (s.usRef t fr + unitTicks f50 b.rate (at_ + u) p.psbu, 
    s.usRef t fr + bitTicks f50 b.rate (at_ + u) (8 * burstBytes f50 b.rate p (b.bytes f50) : Nat))

/-- A burst that meets its terminal's upstream sleep window is trimmed to end G before it, or withheld (R162). -/
def State.sleepTrim (s : State) (t : Nat) (fr : Int) (b : BBurst) : Option BBurst :=
  let meets := fun (x : BBurst) => (s.sleepSpans t x.term).find? (fun w => decide ((s.burstSpan t fr x).1 < w.2) && decide ((s.burstSpan t fr x).2 > w.1))
  match meets b with
  | none => some b
  | some w =>
    if b.anchor.isSome ∨ (s.burstSpan t fr b).1 ≥ w.1 then none
    else
      let room := (unitsFloor (s.f50 t) (w.1 - s.usRef t fr) - s.guard t - b.place.getD 0).toNat
      let c := s.cutBurst t fr room (b.grants.length + 1) b
      if c.grants.any (fun g => g.bytes > 0) ∧ (meets c).isNone then some c else none

/-- Insert a burst by its place. -/
def insertBurst (b : BBurst) : List BBurst → List BBurst
  | [] => [b]
  | x :: r => if b.place.getD 0 < x.place.getD 0 then b :: x :: r else x :: insertBurst b r

/-- The lowest allocation index of a burst. -/
def BBurst.lowest (b : BBurst) : Nat := b.grants.foldl (fun m g => min m g.alloc) 4096

/-- The bursts of a map, laid out, as its allocation structures (R159, R160): PLOAMu on the first grant of the burst with
the terminal's lowest index. -/
def State.toGrants (s : State) (t : Nat) (fr : Int) (l : List BBurst) : List Grant :=
  l.flatMap (fun b =>
    let u := ceilDiv (s.profAt t b.rate b.bprof fr).psbu (unitBits (s.f50 t) b.rate)
    let st := (b.place.getD 0 + (u : Int)).toNat
    b.grants.zipIdx.map (fun (g, i) =>
      ⟨g.alloc, ((s.alloc t g.alloc).map (fun a => a.allocId)).getD 0, b.term, st, g.bytes, g.dbru, b.ploamu && i == 0, b.bprof, b.rate, 0⟩))

/-- The quiet window's own grant in the map of its frame (R471 step 1). -/
def State.quietGrant (s : State) (t : Nat) (fr : Int) : List Grant :=
  match (s.shared t).quiet with
  | none => []
  | some q =>
    if q.grantF ≠ fr then []
    else if q.ranging then
      (if (s.term t q.term).state = tmRANGING ∧ !(s.term t q.term).removing ∧ ((s.alloc t q.term).bind (fun a => s.allocRate t a)).isSome then [⟨q.term, q.term, q.term, 0, 0, false, true, 0, q.rate, 1⟩] else [])
    else [⟨4096, 1023, 1023, 0, 0, false, true, 0, q.rate, 2⟩]

/-- The span in units of a LOW_LATENCY burst at its anchor. -/
def State.anchorSpan (s : State) (t : Nat) (fr : Int) (b : BBurst) : Int × Int :=
  (b.place.getD 0, b.place.getD 0 + (s.burstLen t fr b : Int))

/-- Whether a LOW_LATENCY burst has its place in the map of F (R163, R166): inside the frame, at least G from the quiet
window and from the bursts kept before it, outside its terminal's sleep window. Of two that come closer than G after a change
of the guard or of a profile, the later in allocation index is withheld (log entry 60). -/
def State.anchorOk (s : State) (t : Nat) (fr : Int) (kept : List BBurst) (b : BBurst) : Bool :=
  let sp := s.anchorSpan t fr b
  decide (0 ≤ sp.1) && decide (sp.2 ≤ capacity (s.f50 t)) && (s.quietSpan t fr).toList.all (fun q => !tooClose (s.guard t) q sp) &&
  (s.sleepTrim t fr b).isSome && kept.all (fun x => !tooClose (s.guard t) (s.anchorSpan t fr x) sp)

/-- The LOW_LATENCY bursts of a list that have their places. -/
def State.anchored (s : State) (t : Nat) (fr : Int) (l : List BBurst) : List BBurst :=
  l.foldl (fun kept b => if s.anchorOk t fr kept b then kept ++ [b] else kept) []

/-- PLOAMu on the burst of a terminal that holds its lowest allocation index in the map (R160). -/
def flagPloamu (due : Nat → Bool) (l : List BBurst) : List BBurst :=
  l.map (fun b => { b with ploamu := due b.term && l.all (fun y => decide (y.term ≠ b.term) || decide (b.lowest ≤ y.lowest)) })

/-- The bursts of the shared part of the frame in the order of R165. -/
def layOrder (firstTerm : Nat) (l : List BBurst) : List BBurst :=
  let terms := rotate ((List.range 1023).filter (fun k => l.any (fun b => b.term == k))) firstTerm
  terms.flatMap (fun k => (List.range 4096).flatMap (fun i => l.filter (fun b => b.term == k && b.lowest == i)))

/-- The bursts of a map flagged and laid out (R160, R162, R163, R165): those laid out, and those left in the map. Where what
is cut or dropped carried a terminal's lowest allocation index, the PLOAMu moves to the burst that now does, and the bursts
left are laid out again. -/
def State.settleBursts (s : State) (t : Nat) (fr : Int) (due : Nat → Bool) (firstTerm : Nat) : Nat → List BBurst → List BBurst × List BBurst
  | n, l =>
    let flagged := flagPloamu due l
    let anch := s.anchored t fr (flagged.filter (fun b => b.anchor.isSome))
    let reserved := (s.quietSpan t fr).toList ++ anch.map (s.anchorSpan t fr)
    let laid := s.layOut t fr (layOrder firstTerm (flagged.filter (fun b => b.anchor.isNone))) reserved
    let left := (laid ++ anch).filterMap (fun b => s.sleepTrim t fr b)
    match n with
    | 0 => (laid, left)
    | n + 1 =>
      if (flagPloamu due left).map (fun b => b.ploamu) = left.map (fun b => b.ploamu) then (laid, left)
      else s.settleBursts t fr due firstTerm n left

/-- What one unit builds for frame F (R155 to R165): the map, accounts, positions, and allocations left by the limit. -/
structure Built where
  map : BwMap
  acct : SMap Int
  bursts : List BBurst
  pos6 : Nat
  pos7 : Nat
  firstTerm : Nat
  cutTo512 : Nat
  /-- grants cut under R165 -/
  cut : Nat

def State.compose (s : State) (u t : Nat) (fr : Int) : Built :=
  let x := s.sluTree u t
  let f50 := s.f50 t
  let g := s.guard t
  let cap := capacity f50
  let poll := s.rd F.SLU_TREE_CTL.POLL t
  let all := s.allocsOf t
  let stOf := fun (k : Nat) => (s.term t k).state
  let swept := fun (k : Nat) => (s.treeU t).sweep.any (fun w => w.term == k && decide (fr ≥ w.fromF))
  let gone := fun (k : Nat) => (s.term t k).removing
  let oper := fun (k : Nat) => stOf k == tmOPERATION && !swept k && !gone k
  let pollable := fun (k : Nat) => oper k || (stOf k == tmLOST && !gone k && !swept k)
  let due := fun (k : Nat) => (s.shared t).askPloamu.contains k ||
    (decide (poll ≠ 0) && decide (smGet 0 x.ploamuSince (k, 0) ≥ poll))
  -- R155 steps 1 and 2
  let acct := all.foldl (fun m a =>
    if a.2.hasAccount ∧ (stOf a.2.term = tmRANGING ∨ stOf a.2.term = tmOPERATION) then
      smMod 0 m (a.1, 0) (fun z => a.2.credited z) else m) x.acct
  let dem := fun (a : Nat) => x.demand a
  -- pass 1
  let quiet := (s.quietSpan t fr).toList
  let qg := s.quietGrant t fr
  let cand := (all.filter (fun a => a.2.cls == 4 && oper a.2.term && (s.allocRate t a.2).isSome)).foldl
    (fun (l : List BBurst) a =>
      let r := (s.allocRate t a.2).getD 0
      let idx := s.profFor t r a.2.bprof fr
      let gr := granule f50 r
      let b : BBurst := ⟨a.2.term, r, idx, some a.2.anchor, due a.2.term && !l.any (fun y => y.term == a.2.term),
        [⟨a.1, ceilDiv a.2.fixed gr * gr, 1, a.2.dbru⟩], some ((a.2.anchor : Int) - ceilDiv (s.profAt t r idx fr).psbu (unitBits f50 r))⟩
      if s.anchorOk t fr l b then l ++ [b] else l) []
  let lls := cand.take (512 - qg.length)
  let reserved := quiet ++ lls.map (s.anchorSpan t fr)
  let used := reserved.foldl (fun n r => n + (r.2 - r.1).toNat + g) 0
  let b0 : Build := ⟨lls, cap - used, lls.length + qg.length, acct, none, none⟩
  let step := fun (pass : Nat) (want : Nat → Alloc → Nat) (b : Build) =>
    all.foldl (fun b a => if oper a.2.term ∧ want a.1 a.2 > 0 ∧ b.left > 0 then s.addGrant t fr due b a.1 (want a.1 a.2) pass false else b) b
  let fc := fun (a : Nat) => smGet 0 (s.sluUnit u).forecasts (t * 4096 + a, fr.toNat)
  let b2 := step 2 (fun _ a => if a.cls = 0 then a.fixed else 0) b0
  let b3 := step 3 (fun i a => if a.cls = 5 then fc i else 0) b2
  let b4 := step 4 (fun i a => if a.cls = 1 then min (dem i) (smGet 0 b3.acct (i, 0) / 256).toNat else 0) b3
  let pollDue := fun (i : Nat) (a : Alloc) => a.dbru && decide (poll ≠ 0) && pollable a.term && decide (smGet 0 x.since (i, 0) ≥ poll)
  let b5 := all.foldl (fun b a => if pollDue a.1 a.2 ∧ !b.has a.1 then s.addGrant t fr due b a.1 0 5 true else b) b4
  let shareable := fun (cls : Nat) => (all.filter (fun a => a.2.cls == cls && oper a.2.term && decide (dem a.1 > 0) && decide (smGet 0 acct (a.1, 0) > 0))).map (fun a => a.1)
  -- R274
  let b5s := if s.buf.shrunk.contains (t / 12) then { b5 with left := b5.left * max 1 s.buf.cfg.shrink / 256 } else b5
  let b6 := s.wrr t fr due dem 6 65536 (rotate (shareable 2) x.pos6) b5s
  let b7 := s.wrr t fr due dem 7 65536 (rotate (shareable 3) x.pos7) b6
  let cutTo512 := if b7.count < 512 then 0 else
    (cand.length - lls.length) + (all.filter (fun a => !b7.has a.1 && (pollDue a.1 a.2 || (oper a.2.term &&
      (a.2.cls == 0 || (a.2.cls == 5 && decide (fc a.1 > 0)) || (a.2.hasAccount && decide (dem a.1 > 0) && decide (smGet 0 acct (a.1, 0) > 0))))))).length
  let (laid, final) := s.settleBursts t fr due x.firstTerm b7.count b7.bursts
  let sorted := final.foldr insertBurst []
  -- R156: bytes cut or withheld go back to the accounts
  let gotOf := fun (i : Nat) => (sorted.flatMap (fun b => b.grants)).foldl (fun n y => if y.alloc = i then n + y.bytes else n) 0
  let acct2 := all.foldl (fun m a => if a.2.hasAccount then smMod 0 m (a.1, 0) (fun z => z + 256 * ((b7.granted a.1 - gotOf a.1 : Nat) : Int)) else m) b7.acct
  { map := ⟨fr, qg ++ s.toGrants t fr sorted⟩, acct := acct2, bursts := sorted,
    pos6 := b7.last6.getD x.pos6, pos7 := b7.last7.getD x.pos7,
    firstTerm := match laid with
      | b :: _ => b.term
      | [] => x.firstTerm,
    cutTo512 := cutTo512,
    cut := (((b7.bursts.filter (fun b => b.anchor.isNone)).flatMap (fun b => b.grants)).filter (fun g =>
      !(laid.flatMap (fun b => b.grants)).any (fun y => y.alloc == g.alloc && decide (y.bytes ≥ g.bytes)))).length }

/-! ### Self-check (R166) and CRC (R169) -/

/-- Bursts of a map: consecutive grants with the same terminal and StartTime. -/
def groupBursts : List Grant → List (List Grant)
  | [] => []
  | g :: r =>
    match groupBursts r with
    | [] => [[g]]
    | (h :: t) :: rest => if h.term = g.term ∧ h.start = g.start ∧ h.kind = g.kind then (g :: h :: t) :: rest else [g] :: (h :: t) :: rest
    | [] :: rest => [g] :: rest

/-- A burst read back from its grants. -/
def State.ofGrants (s : State) (t : Nat) (fr : Int) (l : List Grant) : BBurst :=
  match l with
  | [] => ⟨0, 0, 0, none, false, [], none⟩
  | g :: _ =>
    let u := ceilDiv (s.profAt t g.rate g.bprof fr).psbu (unitBits (s.f50 t) g.rate)
    ⟨g.term, g.rate, g.bprof, none, g.ploamu, l.map (fun x => ⟨x.alloc, x.size, 0, x.dbru⟩), some ((g.start : Int) - u)⟩

/-- The units a burst of a map takes. -/
def State.spanOf (s : State) (t : Nat) (fr : Int) (l : List Grant) : Int × Int :=
  let b := s.ofGrants t fr l
  (b.place.getD 0, b.place.getD 0 + s.burstLen t fr b)

/-- Every two of a list come no closer than `ok` allows. -/
def pairwiseOk {α : Type} (ok : α → α → Bool) : List α → Bool
  | [] => true
  | a :: r => r.all (ok a) && pairwiseOk ok r

/-- The self-check of R166, on the state at the map's cutoff. -/
def State.mapOk (s : State) (t : Nat) (m : BwMap) : Bool :=
  let data := m.grants.filter (fun g => g.kind == 0)
  let bursts := groupBursts data
  let spans := bursts.map (fun b => s.spanOf t m.f b)
  let g := s.guard t
  let cap : Int := capacity (s.f50 t)
  decide (m.grants.length ≤ 512) &&
  spans.all (fun p => decide (0 ≤ p.1) && decide (p.2 ≤ cap)) &&
  pairwiseOk (fun a b => !tooClose g a b) spans &&
  (s.quietSpan t m.f).toList.all (fun q => spans.all (fun p => !tooClose g q p)) &&
  m.grants.all (fun x => x.allocId == 1023 || (s.allocsOf t).any (fun a => a.2.allocId == x.allocId)) &&
  m.grants.all (fun x => x.kind == 2 ||
    (let st := (s.term t x.term).state
     st == tmRANGING || st == tmOPERATION || (st == tmLOST && x.kind == 0 && x.size == 0 && x.dbru))) &&
  bursts.all (fun b => (s.sleepSpans t (s.ofGrants t m.f b).term).all (fun w =>
    let p := s.burstSpan t m.f (s.ofGrants t m.f b)
    !(decide (p.1 < w.2) && decide (p.2 > w.1)))) &&
  data.all (fun x => (s.alloc t x.alloc).any (fun a => s.allocRate t a == some x.rate && x.bprof == s.profFor t x.rate a.bprof m.f))

/-- The allocation structures of a map as bytes. -/
def State.mapBytes (s : State) (t : Nat) (l : List Grant) : List Byte :=
  (groupBursts l).flatMap (fun b => b.zipIdx.flatMap (fun (g, i) =>
    leBytes 8 (Config.grantWord (s.f50 t) g.allocId g.start (i == 0) g.size (b2n g.dbru + 2 * b2n g.ploamu) g.bprof)))

def State.mapCrc (s : State) (t : Nat) (l : List Grant) : Nat := crc32 (s.mapBytes t l)

/-- StartTime units of a map left ungranted (R185). -/
def State.idleUnits (s : State) (t : Nat) (m : BwMap) : Nat :=
  capacity (s.f50 t) - (groupBursts (m.grants.filter (fun g => g.kind == 0))).foldl (fun n b => n + (s.burstLen t m.f (s.ofGrants t m.f b))) 0

/-! ### Unit states (R176 to R180) -/

/-- A unit's state code changes; ACTIVE names the unit that became ACTIVE last, also while none is (R177, R185). -/
def State.setUnit (s : State) (u st : Nat) : State :=
  let s1 := if u = 0 then s.wr F.SLU_STATUS.A_STATE 0 st else s.wr F.SLU_STATUS.B_STATE 0 st
  let a := s1.rd F.SLU_STATUS.A_STATE 0
  let b := s1.rd F.SLU_STATUS.B_STATE 0
  let s2 := if st = 0 then s1.wr F.SLU_STATUS.ACTIVE 0 u else s1
  s2.wrB F.SLU_STATUS.NONE 0 (a != 0 && b != 0)

def State.activeUnit (s : State) : Option Nat :=
  if s.unitState 0 = 0 then some 0 else if s.unitState 1 = 0 then some 1 else none

/-- A RESYNC unit's copy of every tree is complete (R178). -/
def State.copyDone (s : State) (u : Nat) : Bool := (List.range 96).all (fun t => (s.sluTree u t).copy == 2)

/-- A unit enters RESYNC: its copies are all still to come (R178). -/
def State.enterResync (s : State) (u : Nat) (passed : Bool) : State :=
  let s1 := (List.range 96).foldl (fun s t => s.setSluTree u t { s.sluTree u t with copy := 0 }) s
  (s1.setSluUnit u { s1.sluUnit u with passed := passed, ownRun := 0, cleanFrom := none }).setUnit u 2

/-- A switch-over is decided (R176): the maps whose slot runs or whose cutoff falls within 1,600 ns are held back. -/
def State.switchOver (s : State) (unit : Nat) : State :=
  (s.putSlu { s.slu with switchAt := some s.tide }).sluEvent F.SLU_EVENT.SWITCHOVER |>.setUnit unit 0

/-- A unit becomes FAILED with a cause; cause 4 is a failed test; an ACTIVE one hands over when the other can take it (R177). -/
def State.unitFail (s : State) (u cause : Nat) : State :=
  let st := s.unitState u
  if st = 4 then s
  else
    let o := 1 - u
    let s1 := (s.setUnit u 4).wr (if u = 0 then F.SLU_FAIL_CAUSE.A_CAUSE else F.SLU_FAIL_CAUSE.B_CAUSE) 0 cause
    let s2 := s1.sluEvent F.SLU_EVENT.UNIT_FAILED
    let x := s2.sluUnit u
    let s3 := s2.setSluUnit u { x with passed := false, ownRun := 0, cleanFrom := none,
                                       failedTests := if cause = 4 then x.failedTests + 1 else x.failedTests }
    if st = 0 then
      (if s.unitState o = 1 ∨ (s.unitState o = 2 ∧ s.copyDone o) then s3.switchOver o
       else s3.sluEvent F.SLU_EVENT.NO_SCHEDULER)
    else s3

/-- A unit's domain leaves ON: FAILED with cause 5, also where it was FAILED before; the retest waits for its return (R180). -/
def State.sluDomainLeft (s : State) (u : Nat) : State :=
  let s1 := (s.unitFail u 5).wr (if u = 0 then F.SLU_FAIL_CAUSE.A_CAUSE else F.SLU_FAIL_CAUSE.B_CAUSE) 0 5
  s1.setSluUnit u { s1.sluUnit u with heldRetest := true }

end Sys2Proof.Machine
end

