-- ==== Sys2Proof/Machine/FrameOps.lean ====
section
/-! DEFINITION. Ethernet frames as bytes: tags (R218), the FCS (R7), IPv4 and L4 checksums (R307), and the PTP Sync
message of one-step transmission (R62 to R64). The layouts of IPv4, IPv6, TCP, UDP and IEEE 1588 are those standards'
own (log entry 12). -/

namespace Sys2Proof.Machine

/-- The FCS of a frame body, as its 4 bytes. -/
def fcsOf (body : List Byte) : List Byte := leBytes 4 (crc32 body)

/-- A frame without its last 4 bytes. -/
def bodyOf (f : List Byte) : List Byte := f.take (f.length - 4)

/-- A frame with its FCS recomputed (R297). -/
def refcs (f : List Byte) : List Byte := bodyOf f ++ fcsOf (bodyOf f)

/-- Whether a frame's last 4 bytes are its FCS (R123). -/
def fcsGood (f : List Byte) : Bool := decide (f.length ≥ 4) && (f.drop (f.length - 4) == fcsOf (bodyOf f))

/-- The tags of a frame under R218: how many, the first two bytes of the outer and of the inner tag, and the EtherType
after them with its place. -/
structure Tags where
  count : Nat
  outer : Nat
  inner : Nat
  ty : Nat
  off : Nat
  deriving DecidableEq, Repr

def tagsOf (f : List Byte) : Tags :=
  let t0 := beAt f 12 2
  if t0 = 0x8100 ∨ t0 = 0x88A8 then
    if beAt f 16 2 = 0x8100 then ⟨2, beAt f 14 2, beAt f 18 2, beAt f 20 2, 20⟩ else ⟨1, beAt f 14 2, 0, beAt f 16 2, 16⟩
  else ⟨0, 0, 0, t0, 12⟩

/-- The EtherType after 0, 1 or 2 tags of either kind, and where it stands (R64). -/
def etherType (f : List Byte) : Nat × Nat :=
  let tagged := fun o => beAt f o 2 == 0x8100 || beAt f o 2 == 0x88A8
  if tagged 12 then (if tagged 16 then (beAt f 20 2, 20) else (beAt f 16 2, 16)) else (beAt f 12 2, 12)

/-- Sum of big-endian 16-bit words, a last odd byte padded with 0. -/
def sum16 : List Byte → Nat
  | [] => 0
  | [a] => a.toNat * 256
  | a :: b :: r => a.toNat * 256 + b.toNat + sum16 r

/-- A sum folded to 16 bits, end-around. -/
def fold16 (x : Nat) : Nat :=
  let y := x % 65536 + x / 65536
  let z := y % 65536 + y / 65536
  z % 65536 + z / 65536

/-- Big-endian bytes of a 16-bit number. -/
def be16 (x : Nat) : List Byte := [BitVec.ofNat 8 (x / 256), BitVec.ofNat 8 x]

/-- `n` bytes of a number, most significant first. -/
def beBytes (n v : Nat) : List Byte := (leBytes n v).reverse

/-- An IPv4 or IPv6 packet in a frame: version, offset of its header, header length, protocol, offset and length of its
payload, and whether it is a fragment. -/
structure IpInfo where
  v6 : Bool
  off : Nat
  hlen : Nat
  proto : Nat
  frag : Bool
  plen : Nat
  deriving DecidableEq, Repr

/-- Read the IP header behind an EtherType; `whole` asks that the frame hold the packet's whole length (FCS apart). -/
def ipInfoAt (whole : Bool) (f : List Byte) (ty o : Nat) : Option IpInfo :=
  let h := o + 2
  let room := f.length - 4 - h
  if ty = 0x0800 ∧ byteAt f h / 16 = 4 then
    let hl := 4 * (byteAt f h % 16)
    let tot := beAt f (h + 2) 2
    if hl < 20 ∨ hl > room ∨ tot < hl ∨ (whole ∧ tot > room) then none
    else some ⟨false, h, hl, byteAt f (h + 9), decide (beAt f (h + 6) 2 % 16384 ≠ 0 ∧ beAt f (h + 6) 2 % 8192 + (beAt f (h + 6) 2 / 8192 % 2) ≠ 0), tot - hl⟩
  else if ty = 0x86DD ∧ byteAt f h / 16 = 6 then
    let pl := beAt f (h + 4) 2
    if 40 > room ∨ (whole ∧ 40 + pl > room) then none else some ⟨true, h, 40, byteAt f (h + 6), false, pl⟩
  else none

/-- The IP packet after the tags of R218 (R307). -/
def ipInfo (f : List Byte) : Option IpInfo := ipInfoAt true f (tagsOf f).ty (tagsOf f).off

/-- The sum of the pseudo-header (R307). -/
def pseudoSum (f : List Byte) (p : IpInfo) : Nat :=
  (if p.v6 then sum16 (slice f (p.off + 8) 32) else sum16 (slice f (p.off + 12) 8)) + p.proto + p.plen

/-- Where the L4 checksum stands in the L4 header: 16 for TCP, 6 for UDP; none for another protocol, a fragment, or a
packet too short for it. -/
def l4Place (p : IpInfo) : Option Nat :=
  if p.frag then none
  else if p.proto = 6 ∧ p.plen ≥ 20 then some 16
  else if p.proto = 17 ∧ p.plen ≥ 8 then some 6
  else none

/-- The L4 segment of a packet. -/
def l4Bytes (f : List Byte) (p : IpInfo) : List Byte := slice f (p.off + p.hlen) p.plen

/-- TX: insert the IPv4 header checksum (R307). -/
def insertIp4 (f : List Byte) : Option (List Byte) :=
  match ipInfo f with
  | some p =>
    if p.v6 then none
    else
      let g := placeAt f (p.off + 10) [0#8, 0#8]
      some (placeAt g (p.off + 10) (be16 (65535 - fold16 (sum16 (slice g p.off p.hlen)))))
  | none => none

/-- TX: insert the TCP or UDP checksum; a UDP result of 0 is sent as 0xFFFF (R307). -/
def insertL4 (f : List Byte) : Option (List Byte) :=
  match ipInfo f with
  | some p =>
    match l4Place p with
    | some c =>
      let at_ := p.off + p.hlen + c
      let g := placeAt f at_ [0#8, 0#8]
      let x := 65535 - fold16 (sum16 (l4Bytes g p) + pseudoSum g p)
      some (placeAt g at_ (be16 (if p.proto = 17 ∧ x = 0 then 65535 else x)))
    | none => none
  | none => none

/-- RX checksum flags [2] IP4_OK, [3] IP4_BAD, [4] L4_OK, [5] L4_BAD (R291, R307). An IPv4 header that cannot be read has no
good checksum, nor has an L4 segment that the frame does not hold whole (DEDUCED, log entry 63). -/
def rxFlags (f : List Byte) : Nat :=
  let tg := tagsOf f
  match ipInfoAt false f tg.ty tg.off with
  | none => if tg.ty = 0x0800 then 8 else 0
  | some p =>
    let ip := if p.v6 then 0 else if fold16 (sum16 (slice f p.off p.hlen)) = 65535 then 4 else 8
    let l4 := match l4Place p with
      | none => 0
      | some c =>
        if p.proto = 17 ∧ !p.v6 ∧ beAt f (p.off + p.hlen + c) 2 = 0 then 16
        else if (ipInfo f).isSome ∧ fold16 (sum16 (l4Bytes f p) + pseudoSum f p) = 65535 then 16 else 32
    ip + l4

/-- Where the PTP message of a recognised Sync begins, and the UDP packet that carries it (R62, R64). -/
def ptpSync (f : List Byte) : Option (Nat × Option IpInfo) :=
  let sync := fun o => byteAt f o % 16 == 0 && byteAt f (o + 1) % 16 == 2 && !bit (byteAt f (o + 6)) 1 && decide (o + 44 + 4 ≤ f.length)
  let (ty, o) := etherType f
  if ty = 0x88F7 then (if sync (o + 2) then some (o + 2, none) else none)
  else
    match ipInfoAt true f ty o with
    | some p =>
      let u := p.off + p.hlen
      if p.proto = 17 ∧ !p.frag ∧ p.plen ≥ 8 + 44 ∧ beAt f (u + 2) 2 = 319 ∧ sync (u + 8) then some (u + 8, some p) else none
    | none => none

/-- One-step transmission (R62, R63): the frame with T written, its UDP checksum dealt with and its FCS recomputed; none
when it is no recognised Sync or lacks the IPv6 trailer. T is whole ns and 1/65,536 ns. -/
def oneStep (f : List Byte) (ns frac : Nat) : Option (List Byte) :=
  match ptpSync f with
  | none => none
  | some (o, ip) =>
    let corr := ofSigned 64 (toSigned 64 (beAt f (o + 8) 8) + frac)
    let g := placeAt (placeAt f (o + 34) (beBytes 6 (ns / 1000000000) ++ beBytes 4 (ns % 1000000000))) (o + 8) (beBytes 8 corr)
    match ip with
    | none => some (refcs g)
    | some p =>
      let u := p.off + p.hlen
      if !p.v6 then some (refcs (placeAt g (u + 6) [0#8, 0#8]))
      else
        let len := beAt f (u + 4) 2
        if len < 8 + beAt f (o + 2) 2 + 2 ∨ len > p.plen then none
        else
          let tr := u + len - 2
          let h := placeAt g tr [0#8, 0#8]
          let seg := fun (x : List Byte) => fold16 (sum16 (slice x u len))
          let d := fold16 (seg f + (65535 - seg h))
          some (refcs (placeAt h tr (if len % 2 = 0 then be16 d else (be16 d).reverse)))

end Sys2Proof.Machine
end

