-- ==== Sys2Proof/Machine/RxOps.lean ====
section
/-! DEFINITION. Receiving rings (09_host_rings.md R291 to R300): which entries can be claimed, how a frame and its
completions are written, frames that wait, and BITTERN copies. -/

namespace Sys2Proof.Machine

/-- Ring types of R280. -/
def rtTX : Nat := 0
def rtRX : Nat := 1
def rtADMIN : Nat := 2
def rtFORECAST : Nat := 3
def rtBITTERN : Nat := 4

/-- Whether entry i of a ring has OWN 1. -/
def State.owned (s : State) (r i : Nat) : Bool := bit (memByte s.hostMem (s.entryAddr r i + 31)).toNat 7

/-- Entries with OWN 1 from entry i on, among those given, up to a number (R285, R298), and the one that was found with OWN 0
there and not before. -/
def State.claimable (s : State) (r : Nat) : Nat → Nat → Nat × Option Nat
  | 0, _ => (0, none)
  | n + 1, i =>
    if i = s.ringEnd r ∨ (s.ring r).early = some i then (0, none)
    else if !s.owned r i then (0, some i)
    else
      let (k, e) := s.claimable r n ((i + 1) % s.rsize r)
      (k + 1, e)

/-- Buffer size of an RX or BITTERN ring (R291). -/
def Ring.bufSize (x : Ring) : Nat := 256 * max 1 x.bufCode

/-- The RX completion (R291). -/
def rxCompletion (f : RxFrame) (bytes status : Nat) (sop eop : Bool) : List Byte :=
  leBytes 4 f.tsNs ++ leBytes 2 bytes ++ leBytes 1 f.tsInfo ++ leBytes 1 status ++ leBytes 2 f.bytes.length ++
  leBytes 1 f.reason ++ leBytes 1 f.rxflags ++ leBytes 1 f.tree ++ leBytes 1 (f.cls + 8 * f.dir) ++ leBytes 2 f.term ++
  leBytes 2 f.port ++ leBytes 2 f.alloc ++ leBytes 4 f.flow ++ leBytes 4 f.fseq ++ zeros 3 ++
  [BitVec.ofNat 8 (0x40 + 0x20 * b2n sop + 0x10 * b2n eop)]

/-- The buffers of a claimed frame take its bytes, then the completions are written in index order (R298). -/
def State.rxWriteFrom (s : State) (r : Nat) (f : RxFrame) (size : Nat) : Nat → Nat → State
  | 0, _ => s
  | n + 1, k =>
    let i := (s.rd F.DB_HEAD.HEAD r)
    let part := (f.bytes.drop (k * size)).take size
    let s1 := s.hostWrite (leAt (s.hostRead (s.entryAddr r i) 8) 0 8) part
    let s2 := (s1.advanceHead r).writeCompletion r i (rxCompletion f part.length txOK (k == 0) (n == 0)) false
    s2.rxWriteFrom r f size n (k + 1)

/-- Buffers a frame needs. -/
def State.rxNeeds (s : State) (r len : Nat) : Nat := max 1 (ceilDiv len (s.ring r).bufSize)

/-- A frame is written whole into buffers it has claimed, and its cells are released (R298); a host that does not take it is a
ring error (R283). -/
def State.rxWrite (s : State) (r : Nat) (f : RxFrame) : State :=
  (if (s.ring r).badWrite then s.writeFailed r
   else s.rxWriteFrom r f (s.ring r).bufSize (s.rxNeeds r f.bytes.length) 0).freeCells f.cell

/-- The buffers found for a frame, up to those it needs, noting an entry found early (R285, R298). -/
def State.rxFind (s : State) (r need : Nat) : Nat × State :=
  match s.claimable r need (s.rd F.DB_HEAD.HEAD r) with
  | (n, some i) => (n, s.foundEarly r i)
  | (n, none) => (n, s)

/-- The claim of all a frame's buffers (R298). -/
def State.rxClaim (s : State) (r need : Nat) : Bool × State :=
  let (n, s1) := s.rxFind r need
  (decide (n ≥ need), s1)

/-- The next frame sequence of a ring (R294). -/
def State.nextFseq (s : State) (r : Nat) : Nat × State :=
  let n := ((s.ring r).fseq + 1) % 2 ^ 32
  (n, s.setRing r { s.ring r with fseq := n })

/-- The cells of a copy: the frame's own, with one more holder; where the frame holds none, cells of the host region (R255,
R256). -/
def State.copyCells (s : State) (f : RxFrame) : Option (Nat × State) :=
  match smFind s.buf.brine (f.cell, 0) with
  | some _ => some (f.cell, s.holdCells f.cell)
  | none => s.takeCells 2 (cellsOf f.bytes.length)

/-- A frame named for an RX ring joins those ready, sharing its cells with its other holders; it is dropped when the ring
is not RUNNING or cannot take it, or when no host cell is found for the copy (R256, R294, R299). -/
def State.rxOffer (s : State) (r : Nat) (f : RxFrame) : State :=
  if s.rstate r ≠ rgRUNNING ∨ (s.ring r).typ ≠ rtRX then (s.incSat F.IRQ_RING_DROP.COUNT 0 1).addCnt legHost 1 1
  else
    let (n, s1) := s.nextFseq r
    match s1.copyCells f with
    | some (id, s2) => s2.setRing r { s2.ring r with rx := (s2.ring r).rx ++ [{ f with fseq := n, cell := id }] }
    | none => s1.incWrap F.DB_NOCELL.COUNT r 1

/-- The BITTERN ring that takes a reason from a tree (R300). -/
def State.bitternRing (s : State) (t reason : Nat) : Option Nat :=
  ((s.rings.filter (fun e => e.2.typ == rtBITTERN && bit e.2.trees t && bit e.2.reasons (reason - 6) && s.rstate e.1.1 == rgRUNNING)).head?).map
    (fun e => e.1.1)

/-- A BITTERN copy is written when it can be claimed at once, or dropped and counted (R298, R300). -/
def State.bittern (s : State) (t : Nat) (f : RxFrame) : State :=
  match s.bitternRing t f.reason with
  | none => s
  | some r =>
    let (n, s1) := s.nextFseq r
    let need := s1.rxNeeds r f.bytes.length
    if need > s1.rsize r - 1 then s1.incWrap F.DB_NO_FIT.COUNT r 1
    else
      match s1.rxClaim r need with
      | (true, s2) =>
        match s2.cellRead f.cell with
        | (true, s3) => s3
        | (false, s3) => (s3.holdCells f.cell).rxWrite r { f with fseq := n }
      | (false, s2) => s2.incWrap F.DB_NO_DESC.COUNT r 1

/-- The RX ring a tree's OMCI goes to (R300). -/
def State.omciRing (s : State) (t : Nat) : Option Nat :=
  ((s.rings.filter (fun e => e.2.typ == rtRX && e.2.omci && bit e.2.trees t)).head?).map (fun e => e.1.1)

/-- TS_INFO of a stamp (R290). -/
def Stamp.info (x : Stamp) : Nat := x.epoch + x.dom * 16 + b2n x.valid * 32

end Sys2Proof.Machine
end

