-- ==== Sys2Proof/Machine/TableOps.lean ====
section
/-! DEFINITION. The terminal-resolution table's shared operations (07_tables.md): tag atoms and keys, entries as words,
hashing, the cache, lookups, inserts with displacement, deletes, and flow counters (R454). -/

namespace Sys2Proof.Machine

/-! ### Entries as words (R225) -/

/-- The identity of a key: bits [111:0] of its entry (R220). -/
def tkeyOf (key tree dir profile natoms : Nat) : Nat := key + tree * 2 ^ 96 + dir * 2 ^ 103 + profile * 2 ^ 104 + natoms * 2 ^ 108

def tkTree (k : Nat) : Nat := bits k 96 7
def tkDir (k : Nat) : Nat := bits k 103 1
def tkProfile (k : Nat) : Nat := bits k 104 4
def tkNatoms (k : Nat) : Nat := bits k 108 4

/-- An entry's 32 bytes. -/
def TblEntry.bytes (e : TblEntry) : List Byte :=
  leBytes 32 (e.tkey + 2 ^ 112 + e.kind * 2 ^ 113 + b2n e.hit * 2 ^ 115 + e.cls * 2 ^ 116 + e.age * 2 ^ 120 + e.term * 2 ^ 128 +
    e.port * 2 ^ 140 + e.handle * 2 ^ 156 + e.counter * 2 ^ 180 + e.alloc * 2 ^ 204 + b2n e.drop * 2 ^ 216 + b2n e.host * 2 ^ 217 +
    b2n e.copy * 2 ^ 218 + e.ring * 2 ^ 224)

/-- An entry from its word; HIT and AGE are stored as 0 (R243). -/
def TblEntry.ofWord (w : Nat) : TblEntry :=
  ⟨bits w 0 112, bits w 113 2, false, bits w 116 3, 0, bits w 128 12, bits w 140 16, bits w 156 24, bits w 180 24, bits w 204 12,
   bit w 216, bit w 217, bit w 218, bits w 224 12⟩

/-- A malformed entry: the first byte of a field at fault (R225, R243). -/
def entryFault (w : Nat) : Option Nat :=
  if bits w 96 7 > 95 then some 12
  else if bits w 108 4 = 0 ∨ bits w 108 4 > 8 then some 13
  else if bits w 0 96 ≥ 2 ^ (12 * bits w 108 4) then some (12 * bits w 108 4 / 8)
  else if !bit w 112 ∨ bits w 113 2 = 3 ∨ bit w 119 then some 14
  else if bits w 128 12 > 1023 then some 16
  else if bits w 219 5 ≠ 0 then some 27
  else if bits w 236 20 ≠ 0 then some 29
  else none

/-! ### Atoms and keys (R219 to R221) -/

/-- What a key is taken from: the frame, the direction, and where it was received. -/
structure KeySrc where
  bytes : List Byte
  dir : Nat
  term : Nat
  alloc : Nat
  port : Nat

/-- The atom of a source code (R219). -/
def KeySrc.atom (k : KeySrc) (c : Nat) : Nat :=
  let f := k.bytes
  let tg := tagsOf f
  let da := beAt f 0 6
  let sa := beAt f 6 6
  let h := tg.off + 2
  let v4 := decide (tg.ty = 0x0800)
  let v6 := decide (tg.ty = 0x86DD)
  let up := decide (k.dir = 0)
  let v6atom := fun (o i : Nat) => if !v6 then 0 else if i = 10 then byteAt f (o + 15) else bits (beAt f o 16) (116 - 12 * i) 12
  if c = 1 then (if tg.count = 0 then 0xFFF else bits tg.outer 0 12)
  else if c = 2 then (if tg.count < 2 then 0xFFF else bits tg.inner 0 12)
  else if c = 3 then bits tg.outer 13 3 * 2 + bits tg.outer 12 1
  else if c = 4 then (if up then k.term else 0)
  else if c = 5 then (if up then k.alloc else 0)
  else if c = 6 then (if up then bits k.port 0 12 else 0)
  else if c = 7 then (if up then bits k.port 12 4 else 0)
  else if 8 ≤ c ∧ c ≤ 11 then bits da (36 - 12 * (c - 8)) 12
  else if 12 ≤ c ∧ c ≤ 15 then bits sa (36 - 12 * (c - 12)) 12
  else if c = 16 then bits tg.ty 0 12
  else if c = 17 then bits tg.ty 12 4
  else if 18 ≤ c ∧ c ≤ 20 then (if !v4 then 0 else if c = 20 then byteAt f (h + 19) else bits (beAt f (h + 16) 4) (20 - 12 * (c - 18)) 12)
  else if 21 ≤ c ∧ c ≤ 23 then (if !v4 then 0 else if c = 23 then byteAt f (h + 15) else bits (beAt f (h + 12) 4) (20 - 12 * (c - 21)) 12)
  else if c = 24 then (if v4 then byteAt f (h + 9) else if v6 then byteAt f (h + 6) else 0)
  else if c = 25 then (if v4 then byteAt f (h + 1) / 4 else if v6 then bits (beAt f h 2) 6 6 else 0)
  else if 32 ≤ c ∧ c ≤ 42 then v6atom (h + 24) (c - 32)
  else if 48 ≤ c ∧ c ≤ 58 then v6atom (h + 8) (c - 48)
  else 0

/-- Whether a source code exists (R219). -/
def atomKnown (c : Nat) : Bool := decide (c ≤ 25) || (decide (32 ≤ c) && decide (c ≤ 42)) || (decide (48 ≤ c) && decide (c ≤ 58))

/-- A key from a list of source codes: list position k at bits [12k+11:12k] (R220). -/
def KeySrc.key (k : KeySrc) (codes : List Nat) : Nat :=
  (codes.zipIdx).foldl (fun n (c, i) => n + k.atom c * 2 ^ (12 * i)) 0

/-- The shape of a frame (R221). -/
def shapeOf (f : List Byte) : Nat :=
  let tg := tagsOf f
  3 * tg.count + (if tg.ty = 0x0800 then 0 else if tg.ty = 0x86DD then 1 else 2)

def State.setTabs (s : State) (f : Tables → Tables) : State := { s with tabs := f s.tabs }

/-- The profile of a tree and direction that selects a shape (R221), with its number. -/
def State.profileFor (s : State) (t dir shape : Nat) : Option (Nat × KeyProfile) :=
  ((s.tabs.profiles.filter (fun e => e.1.1 == t * 2 + dir && bit e.2.select shape)).head?).map (fun e => (e.1.2, e.2))

/-! ### Hashing (R228) and the cache (R229, R230) -/

/-- The 14 bytes of the hash input. -/
def hashInput (k : Nat) : List Byte :=
  leBytes 1 (tkTree k) ++ leBytes 1 (tkProfile k + tkDir k * 16 + (tkNatoms k - 1) * 32) ++ leBytes 12 (bits k 0 96)

def hash0 (k : Nat) : Nat := crc32c 0xFFFFFFFF (hashInput k) % 2 ^ 23
def hash1 (k : Nat) : Nat :=
  let h := crc32c 0x5EED0001 (hashInput k) % 2 ^ 23
  if h = hash0 k then h ^^^ 1 else h

def cacheSet (k : Nat) : Nat := hash0 k % 2 ^ 15

def State.entryAt (s : State) (b k : Nat) : Option TblEntry := smFind s.tabs.entries (b, k)

/-- The cache lines of a key's set, the most recently used first (R230). -/
def State.linesOf (s : State) (k : Nat) : List CacheLine := smGet [] s.tabs.cache (cacheSet k, 0)

/-- The cache line that holds a key. -/
def State.lineOf (s : State) (k : Nat) : Option CacheLine := (s.linesOf k).find? (fun l => l.tkey == k)

def State.cached (s : State) (k : Nat) : Bool := (s.lineOf k).isSome

/-- The word address of a cache line. -/
def CacheLine.addr (l : CacheLine) : Nat := cacheSet l.tkey * 16 + l.way

/-- An entry as it stands: a cached entry's HIT is its line's (R230). -/
def State.entryNow (s : State) (e : TblEntry) : TblEntry :=
  match s.lineOf e.tkey with
  | some l => { e with hit := l.hit }
  | none => e

/-- Where a key's entry stands, and the entry. -/
def State.findKey (s : State) (k : Nat) : Option (Key × TblEntry) :=
  ([(hash0 k, 0), (hash0 k, 1), (hash1 k, 0), (hash1 k, 1)].filterMap
    (fun p => (smFind s.tabs.entries p).bind (fun e => if e.tkey = k then some (p, s.entryNow e) else none))).head?

def State.pinnedKey (s : State) (k : Nat) : Bool := (s.findKey k).any (fun p => p.2.kind == 2)

def State.putLines (s : State) (k : Nat) (l : List CacheLine) : State :=
  s.setTabs (fun x => { x with cache := smSet [] x.cache (cacheSet k, 0) l })

/-- A key's HIT as its cache line has it is written to both copies (R230). -/
def State.storeHit (s : State) (l : CacheLine) : State :=
  match s.findKey l.tkey with
  | some (p, e) => (s.setTabs (fun x => { x with entries := smPut x.entries p { e with hit := l.hit } })).rewrite
      (fun u => (u.mem == 3 || u.mem == 4) && u.addr == 2 * p.1 + p.2)
  | none => s

/-- The way a new line takes: the lowest free one, else that of the least recently used line that is not pinned (R230). -/
def State.cacheVictim (s : State) (k : Nat) : Option CacheLine :=
  let l := s.linesOf k
  if l.length < 16 then none else l.reverse.find? (fun x => !s.pinnedKey x.tkey)

/-- The lowest way a set's lines leave free. -/
def freeWay (l : List CacheLine) : Nat := ((List.range 16).find? (fun w => !l.any (fun x => x.way == w))).getD 0

/-- A key becomes the most recently used of its set. One not yet cached takes a way there with its entry's HIT; the line that
leaves for it has its HIT written back (R229, R230). -/
def State.cacheTouch (s : State) (k : Nat) : State :=
  match s.lineOf k with
  | some x => s.putLines k (x :: (s.linesOf k).filter (fun y => y.tkey != k))
  | none =>
    let hit := (s.findKey k).any (fun p => p.2.hit)
    let s1 := match s.cacheVictim k with
      | some v => (s.storeHit v).putLines k ((s.linesOf k).filter (fun y => y.tkey != v.tkey))
      | none => s
    let w := freeWay (s1.linesOf k)
    (s1.putLines k (⟨k, w, hit⟩ :: s1.linesOf k)).rewriteWord 2 0 (cacheSet k * 16 + w)

/-- A key's line is no longer held; its HIT goes with it. -/
def State.cacheDrop (s : State) (k : Nat) : State := s.putLines k ((s.linesOf k).filter (fun y => y.tkey != k))

/-- A key's line takes a HIT, which is kept in it alone (R230). -/
def State.lineHit (s : State) (k : Nat) (h : Bool) : State :=
  s.putLines k ((s.linesOf k).map (fun y => if y.tkey = k then { y with hit := h } else y))

/-- A word of a bucket is written in both copies. -/
def State.wordWritten (s : State) (p : Key) : State := s.rewrite (fun u => (u.mem == 3 || u.mem == 4) && u.addr == 2 * p.1 + p.2)

/-- Write an entry at its place in both copies and in its line; a pinned entry is held in the cache (R226, R230). -/
def State.putEntry (s : State) (p : Key) (e : TblEntry) : State :=
  let s1 := ((s.setTabs (fun x => { x with entries := smPut x.entries p e })).wordWritten p).lineHit e.tkey e.hit
  if e.kind = 2 ∧ !s1.cached e.tkey then s1.cacheTouch e.tkey else s1

/-- Erase an entry. -/
def State.delEntry (s : State) (p : Key) : State :=
  match smFind s.tabs.entries p with
  | none => s
  | some e => ((s.cacheDrop e.tkey).setTabs (fun x => { x with entries := smDel x.entries p })).wordWritten p

/-! ### Reads of the table copies (R227, R250, R251) -/

/-- The words of a bucket in a copy that cannot be corrected. -/
def State.badWords (s : State) (c b : Nat) (slots : List Nat) : List Nat :=
  slots.filter (fun k => s.wordSeen (3 + c) c (2 * b + k) == .uncorrectable)

/-- Words of a bucket are read in a copy: corrected ones are written back and counted (R250). -/
def State.correctWords (s : State) (c b : Nat) (slots : List Nat) : State :=
  slots.foldl (fun s k => if s.wordSeen (3 + c) c (2 * b + k) = .corrected
    then (s.rewriteWord (3 + c) c (2 * b + k)).corrected (2 + c) else s) s

/-- Words in error are logged with an outcome, and written again. -/
def State.logWords (s : State) (c b outcome : Nat) (bad : List Nat) : State :=
  bad.foldl (fun s k => (s.logUe (3 + c) c outcome (2 * b + k)).rewriteWord (3 + c) c (2 * b + k)) s

/-- A read of slots of bucket b from copy c: a corrected word counts; where one cannot be corrected the bucket is served from
the other copy and written back; bad in both copies, it is cleared but for its pinned entries. The Boolean says the bucket was
lost (R251). -/
def State.copyRead (s : State) (c b : Nat) (slots : List Nat) : Bool × State :=
  let s1 := s.correctWords c b slots
  let bad := s1.badWords c b slots
  if bad = [] then (false, s1)
  else
    let s2 := s1.correctWords (1 - c) b [0, 1]
    let bad' := s2.badWords (1 - c) b [0, 1]
    if bad' = [] then (false, (s2.logWords c b 0 bad).setTabs (fun y => { y with ueOne := satAdd 32 y.ueOne 1 }))
    else
      let s3 := ((s2.logWords c b 2 bad).logWords (1 - c) b 2 bad').setTabs (fun x => { x with ueBoth := satAdd 32 x.ueBoth 1 })
      (true, [0, 1].foldl (fun s k => match s.entryAt b k with
        | some e => if e.kind = 2 then s.wordWritten (b, k) else s.delEntry (b, k)
        | none => s.wordWritten (b, k)) s3)

/-- A read of bucket b goes to copy b[0] (R227). -/
def State.bucketRead (s : State) (b : Nat) : Bool × State := s.copyRead (b % 2) b [0, 1]

/-- Whether a bucket holds a key's entry. -/
def State.keyIn (s : State) (k b : Nat) : Bool :=
  [(b, 0), (b, 1)].any (fun p => (smFind s.tabs.entries p).any (fun e => e.tkey == k))

/-- A key's buckets are read: h1 only if the key is not in h0 (R229, R240). The Boolean says that h0, or h1, was lost. -/
def State.readKey (s : State) (k : Nat) : Bool × State :=
  let (lost0, s1) := s.bucketRead (hash0 k)
  if lost0 || s1.keyIn k (hash0 k) then (lost0, s1)
  else (s1.blockEvent 98 0x04 1).bucketRead (hash1 k)

/-- A number placed in a rising list without repeats. -/
def addRising : List Nat → Nat → List Nat
  | [], a => [a]
  | b :: r, a => if a = b then b :: r else if a < b then a :: b :: r else b :: addRising r a

/-- The buckets with words in error that a walk of the table finds, in rising order. -/
def State.badBuckets (s : State) : List Nat :=
  (s.upsets.filter (fun u => u.mem == 3 || u.mem == 4)).foldl (fun l u => addRising l (u.addr / 2)) []

/-- Every bucket from one on is read, in rising order (R244, R245). -/
def State.readFrom (s : State) (b : Nat) : State :=
  (s.badBuckets.filter (fun x => decide (b ≤ x))).foldl (fun s x => (s.bucketRead x).2) s

/-- The key's line is read: a corrected word counts; one that cannot be corrected is invalidated, or rewritten from its bucket
where its entry is pinned (R251). The Boolean says whether the line serves. -/
def State.lineRead (s : State) (l : CacheLine) : Bool × State :=
  match s.wordSeen 2 0 l.addr with
  | .clean => (true, s)
  | .corrected => (true, (s.rewriteWord 2 0 l.addr).corrected 1)
  | .uncorrectable =>
    let s1 := (s.logUe 2 0 0 l.addr).rewriteWord 2 0 l.addr
    (false, if s1.pinnedKey l.tkey then s1 else s1.cacheDrop l.tkey)

/-- A lookup that the cache does not serve: it reads the key's buckets, and caches a key found there; a bucket lost is a miss
(R229, R251). -/
def State.stackLookup (s : State) (k : Nat) : Option (Key × TblEntry) × Bool × State :=
  let (lost, s1) := ((s.setTabs (fun x => { x with misses := x.misses + 1 })).blockEvent 98 0x03 1).readKey k
  if lost then (none, true, s1)
  else
    match s1.findKey k with
    | some p => (some p, false, s1.cacheTouch k)
    | none => (none, false, s1)

/-- One lookup (R229): the cache, then h0, then h1. The Boolean says a bucket read was lost, so that the miss brings no
learning (R251). -/
def State.lookup (s : State) (k : Nat) : Option (Key × TblEntry) × Bool × State :=
  let s0 := s.blockEvent 98 0x01 1
  match s0.lineOf k with
  | none => s0.stackLookup k
  | some l =>
    let (ok, s1) := s0.lineRead l
    if ok then
      let s2 := (s1.cacheTouch k).setTabs (fun x => { x with hits := x.hits + 1 })
      (s2.findKey k, false, s2.blockEvent 98 0x02 1)
    else s1.stackLookup k

/-! ### Inserting (R240, R241) -/

/-- The bucket other than b of an entry's two. -/
def TblEntry.other (e : TblEntry) (b : Nat) : Nat := if hash0 e.tkey = b then hash1 e.tkey else hash0 e.tkey

/-- Moves that free a slot with exactly n displacements, first in slot order at each level: each move's slot and where
its entry goes, the nearest first (R240). -/
def State.freeSlot (s : State) : Nat → Key → List Key → Option (List (Key × Key))
  | 0, p, _ => if smFind s.tabs.entries p = none then some [] else none
  | n + 1, p, seen =>
    match smFind s.tabs.entries p with
    | none => none
    | some e =>
      if e.kind = 2 ∨ seen.contains p then none
      else
        let alt := e.other p.1
        match s.freeSlot n (alt, 0) (p :: seen) with
        | some l => some ((p, (alt, 0)) :: l)
        | none => (s.freeSlot n (alt, 1) (p :: seen)).map (fun l => (p, (alt, 1)) :: l)

/-- The shortest chain of at most `most` displacements that frees a slot of a key's buckets. -/
def State.findPlace (s : State) (k most : Nat) : Option (Key × List (Key × Key)) :=
  let slots := [(hash0 k, 0), (hash0 k, 1), (hash1 k, 0), (hash1 k, 1)]
  ((List.range (most + 1)).flatMap (fun n => slots.filterMap (fun p => (s.freeSlot n p []).map (fun l => (p, l))))).head?

/-- A chain is carried out from its far end backwards: each entry is locked into its cache set, written to its new bucket and
erased from its old one (R241). -/
def State.displace (s : State) (l : List (Key × Key)) : State :=
  l.reverse.foldl (fun s m => match smFind s.tabs.entries m.1 with
    | some e => (((s.cacheTouch e.tkey).setTabs (fun x => { x with entries := smPut (smDel x.entries m.1) m.2 e })).wordWritten m.1).wordWritten m.2
    | none => s) s

/-- The buckets an entry of one of these may move to. -/
def State.nextBuckets (s : State) (bs : List Nat) : List Nat :=
  bs.flatMap (fun b => [(b, 0), (b, 1)].filterMap (fun p => (smFind s.tabs.entries p).bind
    (fun e => if e.kind = 2 then none else some (e.other b))))

/-- The buckets the search for a chain reads, a level at a time, until one has a free slot (R240). -/
def State.readChain : Nat → List Nat → State → State
  | 0, _, s => s
  | n + 1, bs, s =>
    if bs.any (fun b => (s.entryAt b 0).isNone || (s.entryAt b 1).isNone) then s
    else
      let next := s.nextBuckets bs
      State.readChain n next (next.foldl (fun s b => (s.bucketRead b).2) s)

/-- What an insert reads: the key's line, its two buckets and those of the search (R240). -/
def State.readPlaces (s : State) (k most : Nat) : State :=
  let s0 := match s.lineOf k with
    | some l => (s.lineRead l).2
    | none => s
  let s1 := (s0.bucketRead (hash0 k)).2
  if s1.keyIn k (hash0 k) then s1
  else
    let s2 := (s1.bucketRead (hash1 k)).2
    if s2.keyIn k (hash1 k) then s2 else State.readChain most [hash0 k, hash1 k] s2

/-- Whether a pinned entry passes the limits of R226. -/
def State.pinRoom (s : State) (k : Nat) : Bool :=
  let pins := s.tabs.entries.filter (fun e => e.2.kind == 2 && decide (e.2.tkey ≠ k))
  decide (pins.length < 32768) && decide ((pins.filter (fun e => cacheSet e.2.tkey == cacheSet k)).length < 4)

/-- What an insert came to: the codes of R243's status bytes, the bucket and the displacements. -/
structure InsertRes where
  code : Nat
  kind : Nat
  bucket : Nat
  moves : Nat

/-- Insert or replace one entry with at most `most` displacements (R240, R243). -/
def State.insert (u : State) (e : TblEntry) (replace : Bool) (most : Nat) : InsertRes × State :=
  let s := u.readPlaces e.tkey most
  match s.findKey e.tkey with
  | some (p, old) =>
    if !replace then (⟨2, old.kind, p.1, 0⟩, s)
    else if e.kind = 2 ∧ old.kind ≠ 2 ∧ !s.pinRoom e.tkey then (⟨4, 0, p.1, 0⟩, s)
    else (⟨1, old.kind, p.1, 0⟩, s.putEntry p e)
  | none =>
    if e.kind = 2 ∧ !s.pinRoom e.tkey then (⟨4, 0, 0, 0⟩, s)
    else
      match s.findPlace e.tkey most with
      | none => (⟨3, 0, 0, 0⟩, s)
      | some (p, l) => (⟨0, 0, p.1, l.length⟩, (s.displace l).putEntry p e)

/-- Static and pinned entries of a tree, as their words with HIT and AGE 0 (R397, R400). -/
def State.staticEntries (s : State) (t : Nat) : List (List Byte) :=
  (s.tabs.entries.filter (fun e => tkTree e.2.tkey == t && decide (e.2.kind ≥ 1))).map (fun e => { e.2 with hit := false, age := 0 }.bytes)

/-! ### Flow counters (R454) -/

/-- A frame hit an entry with a counter. -/
def State.countFlow (s : State) (c len : Nat) : State :=
  if c = 0 then s
  else s.setTabs (fun x => { x with pairs := smMod ⟨0, 0⟩ x.pairs (c, 0) (fun (p : FlowPair) => ⟨(p.bytes + len) % 2 ^ 64, (p.frames + 1) % 2 ^ 64⟩) })

end Sys2Proof.Machine
end

