-- ==== Sys2Proof/Machine/MirrorOps.lean ====
section
/-! DEFINITION. Records as bytes: the responses of terminal and key commands (R96, R139), and the records with which a
transmitting side mirrors a tree to its partner and a standby applies them (13_protection.md R397 to R400). -/

namespace Sys2Proof.Machine

/-! ### Layouts -/

/-- A list's mean of drifts in 1/16 ns (R139). -/
def meanDrift (l : List Int) : Int := meanOf l / 16

/-- The SLEEP byte (R139). -/
def Term.sleepCode (x : Term) : Nat :=
  match x.win with
  | some w => if !w.opened then 0 else if w.asleep then min 3 w.mode else 4
  | none => 0

/-- δ as the reported RTD takes it (R402): the side's own, or the partner's while it listens. -/
def State.rtdDelta (s : State) (t : Nat) : Int := if psListens (s.ps t) then (s.prot t).pDelta else s.delta t

/-- Bytes 0 to 23 of the response of the terminal commands (R139). -/
def State.termHead (s : State) (t k : Nat) : List Byte :=
  let x := s.term t k
  leBytes 1 t ++ leBytes 1 x.state ++ leBytes 2 k ++ leBytes 4 (ofSigned 32 (x.eqd / 256)) ++
  leBytes 4 (if x.rtd = 0 then 0 else ofSigned 32 ((x.rtd + 2 * s.rtdDelta t) / 256)) ++ leBytes 1 x.sleepCode ++
  leBytes 1 x.cause ++ zeros 2 ++ leBytes 8 (f51 x.sinceF)

/-- Bytes 24 to 45 of TERMINAL_STATUS (R139). -/
def Term.countBytes (x : Term) : List Byte :=
  leBytes 4 x.bursts ++ leBytes 4 x.missed ++ leBytes 4 x.fecCorr ++ leBytes 4 x.fecUncorr ++ leBytes 4 x.bipErr ++
  leBytes 2 (ofSigned 16 (satSigned 16 (meanDrift x.drifts)))

/-- A bank's byte of R96. -/
def Bank.byte (b : Bank) : List Byte := leBytes 1 (b.state + b.index * 4)

/-- The response payload of the key commands (R96). -/
def State.keyPayload (s : State) (h : Nat) (f : Int) : List Byte :=
  let x := s.slot h
  leBytes 4 h ++ leBytes 1 (b2n x.bound) ++ x.cur.byte ++ x.next.byte ++ leBytes 1 (b2n x.switchF.isSome) ++ leBytes 8 (f51 f)

/-! ### Mirror records (R399) -/

/-- TERMINAL: the frame of the next sleep-window boundary and the window's phase. -/
def Term.nextWindow (x : Term) : Int × Nat :=
  match x.win with
  | none => (0, 0)
  | some w => if !w.opened then (w.fromF, 0) else if w.asleep then (w.sinceF + w.lp, 1) else (w.sinceF + w.aw, 2)

def State.termRecord (s : State) (t k : Nat) : List Byte :=
  let x := s.term t k
  leBytes 1 t ++ leBytes 1 (b2n x.regCheck) ++ leBytes 2 k ++ beBytes 8 x.serial ++ leBytes 1 x.rates ++ zeros 3 ++
  leBytes 4 0xFFFFFFFF ++ slice x.regId 0 36 ++ leBytes 1 x.sleepModes ++ leBytes 2 k ++ leBytes 2 x.lowpower ++
  leBytes 2 x.aware ++ leBytes 2 x.wakeKib ++ zeros 3 ++ s.termHead t k ++ leBytes 8 (f51 x.nextWindow.1) ++
  leBytes 1 x.nextWindow.2 ++ zeros 3

def flowRecord (t p : Nat) (f : Option Flow) : List Byte :=
  match f with
  | some x => leBytes 1 t ++ leBytes 1 (2 * b2n x.dsEnc + 4 * b2n x.usEnc) ++ leBytes 2 p ++ leBytes 2 x.term ++
      leBytes 2 (x.alloc.getD 0xFFFF)
  | none => leBytes 1 t ++ leBytes 1 1 ++ leBytes 2 p ++ zeros 4

def allocRecord (t i : Nat) (a : Option Alloc) : List Byte :=
  match a with
  | some a => leBytes 1 t ++ leBytes 1 (2 * b2n a.dbru) ++ leBytes 2 i ++ leBytes 2 a.allocId ++ leBytes 2 a.term ++
      leBytes 1 a.cls ++ leBytes 1 (a.bprof + a.rate * 16) ++ leBytes 1 a.weight ++ zeros 1 ++ leBytes 4 a.fixed ++
      leBytes 4 a.assured ++ leBytes 4 a.max ++ leBytes 4 a.bucket ++ leBytes 2 a.anchor ++ zeros 2
  | none => leBytes 1 t ++ leBytes 1 1 ++ leBytes 2 i ++ zeros 28

/-- A bank wrapped under the pair key (R398). -/
def wrapBank (key : Nat) (b : Bank) : List Byte := if b.state = 0 then zeros 24 else leBytes 24 (Config.keyWrap key b.key)

def keyRecord (key k : Nat) (x : KeySlot) : List Byte :=
  leBytes 2 k ++ x.cur.byte ++ x.next.byte ++ leBytes 1 (b2n x.switchF.isSome) ++ zeros 3 ++
  leBytes 8 (f51 (x.switchF.getD 0)) ++ wrapBank key x.cur ++ wrapBank key x.next

/-- TREE: the request that would set a tree's fields (R106). -/
def State.treeRecord (s : State) (t : Nat) : List Byte :=
  let x := s.tree t
  leBytes 1 t ++ leBytes 1 1 ++ leBytes 1 (s.rd F.TRE_STATE.PROFILE t) ++ leBytes 1 x.usRates ++
  leBytes 2 (s.rd F.TRE_CFG.MAX_FRAME t) ++ leBytes 1 (s.rd F.TRE_CFG.PLOAM_MAX t) ++ leBytes 1 (s.rd F.TRE_CFG.WARM_FRAMES t) ++
  leBytes 2 x.dormantFrames ++ leBytes 2 x.surveyPeriod ++ leBytes 2 x.surveyLen ++ zeros 2 ++
  leBytes 4 (s.rd F.TRE_PON_ID.PON_ID t) ++
  leBytes 4 (if s.flag F.TRE_BCAST_SLOT.VALID t then s.rd F.TRE_BCAST_SLOT.SLOT t else 0xFFFFFFFF)

/-- Every record of a tree but accounts: type, number and body. -/
def State.mirrorRecs (s : State) (t : Nat) : List (Nat × Nat × List Byte) :=
  let key := (s.prot t).key
  (s.termsOf t).map (fun e => (1, e.1, s.termRecord t e.1)) ++
  ((s.flows.filter (fun e => e.1.1 == t)).map (fun e => (2, e.1.2, flowRecord t e.1.2 (some e.2)))) ++
  (s.allocsOf t).map (fun e => (3, e.1, allocRecord t e.1 (some e.2))) ++
  ((s.termsOf t).filterMap (fun e => e.2.slot.map (fun h => (5, e.1, keyRecord key e.1 (s.slot h))))) ++
  ((s.dsSlot t 1023).map (fun h => (5, 1023, keyRecord key 1023 (s.slot h)))).toList ++
  [(6, 0, s.treeRecord t)]

/-- The record that undoes one no longer held. -/
def goneRecord (t key ty n : Nat) : List Byte :=
  if ty = 1 then State.reset.termRecord t n
  else if ty = 2 then flowRecord t n none
  else if ty = 3 then allocRecord t n none
  else keyRecord key n KeySlot.free

/-- A record with its type and length. -/
def recBytes (ty : Nat) (body : List Byte) : List Byte := leBytes 1 ty ++ zeros 1 ++ leBytes 2 body.length ++ body

/-- ACCOUNTS of the allocations a test names (R397), from the ACTIVE unit's data (R415). -/
def State.accountsRecord (s : State) (t : Nat) (which : Nat → Bool) : List Byte :=
  let x := s.sluTree (s.activeUnit.getD 0) t
  let l := (s.allocsOf t).filter (fun a => a.2.hasAccount && which a.1)
  if l = [] then [] else recBytes 4 (l.flatMap (fun a => leBytes 8 (a.1 + ofSigned 40 (x.account a.1) * 2 ^ 16)))

/-- TABLE_SYNC cells of an operation, up to 7 entries each (R400). -/
def State.syncCells (s : State) (t op : Nat) : Nat → List (List Byte) → State
  | 0, _ => s
  | n + 1, l =>
    if l = [] then s
    else
      let c := l.take 7
      (s.sendMessage (s.rd F.PROT_Tt_STATE.PARTNER t) 6 (s.rd F.PROT_Tt_STATE.PAIR_ID t)
        (leBytes 1 c.length ++ leBytes 1 op ++ zeros 10 ++ c.flatten)).syncCells t op n (l.drop 7)

/-- The key of an entry's word (R225). -/
def wordKey (b : List Byte) : Nat := bits (leAt b 0 14) 0 112

/-- What the transmitting side mirrors at the boundary of frame f (R397, R399): the copy while the partner is SYNCING and
none has been sent since, else the records changed, the accounts of the frame, and the table entries changed. -/
def State.mirrorFrame (s : State) (t : Nat) (f : Int) : State :=
  let p := s.prot t
  if !psSends (s.ps t) || !psListens p.pState then s
  else
    let now := s.mirrorRecs t
    let st := if p.tableSync then s.staticEntries t else []
    let keep := fun (s : State) => s.setProt t { s.prot t with snap := some ⟨now, st⟩ }
    match p.snap with
    | none =>
      if p.pState ≠ psSYNCING then s
      else
        let acc := s.accountsRecord t (fun _ => true)
        let n := now.length + (if acc = [] then 0 else 1)
        let body := now.flatMap (fun r => recBytes r.1 r.2.2) ++ acc ++ recBytes 7 (leBytes 4 n)
        keep ((s.protMsg t 4 f body).syncCells t 0 (st.length / 7 + 1) st)
    | some o =>
      let new := now.filter (fun r => !o.recs.contains r)
      let gone := o.recs.filter (fun r => !now.any (fun q => q.1 == r.1 && q.2.1 == r.2.1))
      let granted : List Nat := match (s.tree t).latched with
        | some m => if m.f = f then m.grants.map (fun (g : Grant) => g.alloc) else []
        | none => []
      let acc := s.accountsRecord t (fun i => granted.contains i || decide ((i : Int) % 8 = f % 8))
      let body := gone.flatMap (fun r => recBytes r.1 (goneRecord t p.key r.1 r.2.1)) ++ new.flatMap (fun r => recBytes r.1 r.2.2) ++ acc
      let s1 := if body = [] then s else s.protMsg t 3 f body
      let ins := st.filter (fun b => !o.statics.contains b)
      let del := o.statics.filter (fun b => !st.any (fun c => wordKey c == wordKey b))
      keep ((s1.syncCells t 1 (del.length / 7 + 1) del).syncCells t 0 (ins.length / 7 + 1) ins)

/-! ### Applying records (R397, R398) -/

/-- A record the standby cannot take is discarded, counted, and sends it back to SYNCING with cause 12 (R398). -/
def State.mirrorError (s : State) (t : Nat) : State :=
  let s1 := s.incSat F.PROT_Tt_MIRROR_ERR.COUNT t 1
  if psListens (s.ps t) then s1.enterSyncing t 12 else s1

/-- A record with a field out of its range, or of an object beyond R1's counts, is refused and counted (R1, R418). -/
def State.mirrorRefused (s : State) (t : Nat) : State := s.incSat F.PROT_Tt_MIRROR_ERR.COUNT t 1

/-- The slot that holds a terminal's keys on a listening side: of SLOT_BASE, or the terminal's own on a former sender (R397,
R413, log entry 67). -/
def State.mirrorSlot (s : State) (t k : Nat) : Option Nat :=
  match (s.prot t).slotBase with
  | some n => some (n + k)
  | none => s.dsSlot t k

/-- A sleep window as a TERMINAL record gives it; the mode is told only while the terminal is asleep. -/
def mirroredWin (old : Option SleepWin) (x : Term) (sleep phase : Nat) (next : Int) : Option SleepWin :=
  let mode := if 1 ≤ sleep ∧ sleep ≤ 3 then sleep else (old.map (fun w => w.mode)).getD 2
  if phase = 1 then some ⟨mode, next, true, true, next - x.lowpower, false, x.lowpower, x.aware⟩
  else if phase = 2 then some ⟨mode, next, true, false, next - x.aware, false, x.lowpower, x.aware⟩
  else if next = 0 then none
  else some ⟨mode, next, false, false, 0, false, x.lowpower, x.aware⟩

def State.applyTerm (s : State) (t : Nat) (b : List Byte) : State :=
  let k := leAt b 2 2
  let st := byteAt b 69
  if k > 1022 then s.mirrorRefused t
  else if st = tmUNUSED then (s.setTerm t k Term.unused).countOper t
  else
    let o := s.term t k
    let rtd := toSigned 32 (leAt b 76 4)
    let x : Term := { o with
      state := st, serial := beAt b 4 8, rates := byteAt b 12, regCheck := bit (byteAt b 1) 0, regId := slice b 20 36,
      slot := s.mirrorSlot t k, eqd := toSigned 32 (leAt b 72 4) * 256,
      rtd := if rtd = 0 then 0 else rtd * 256 - 2 * (s.prot t).pDelta, sleepModes := byteAt b 56, lowpower := leAt b 59 2,
      aware := leAt b 61 2, wakeKib := leAt b 63 2, cause := byteAt b 81, sinceF := (leAt b 84 8 : Nat) }
    (s.setTerm t k { x with win := mirroredWin o.win x (byteAt b 80) (byteAt b 100) (leAt b 92 8 : Nat) }).countOper t

def State.applyFlow (s : State) (t : Nat) (b : List Byte) : State :=
  let p := leAt b 2 2
  let a := leAt b 6 2
  if p > 65534 ∨ leAt b 4 2 > 1023 ∨ (a > 4095 ∧ a ≠ 0xFFFF) then s.mirrorRefused t
  else if bit (byteAt b 1) 0 then s.putFlows (smDel s.flows (t, p))
  else if (smFind s.flows (t, p)).isNone ∧ s.portsUsed t ≥ 16384 then s.mirrorRefused t
  else s.putFlows (smPut s.flows (t, p) ⟨leAt b 4 2, if a = 0xFFFF then none else some a, bit (byteAt b 1) 1, bit (byteAt b 1) 2⟩)

def allocOfBytes (b : List Byte) : Alloc :=
  { allocId := leAt b 4 2, term := leAt b 6 2, cls := byteAt b 8, dbru := bit (byteAt b 1) 1, bprof := bits (byteAt b 9) 0 2,
    rate := bits (byteAt b 9) 4 3, weight := byteAt b 10, fixed := leAt b 12 4, assured := leAt b 16 4, max := leAt b 20 4,
    bucket := leAt b 24 4, anchor := leAt b 28 2 }

def State.applyAlloc (s : State) (t : Nat) (b : List Byte) : State :=
  let i := leAt b 2 2
  if i > 4095 ∨ leAt b 6 2 > 1022 then s.mirrorRefused t
  else if bit (byteAt b 1) 0 then ((s.putAllocs (smDel s.allocs (t, i))).dropAlloc t i).setCommit t
  else (s.putAllocs (smPut s.allocs (t, i) (allocOfBytes b))).setCommit t

def State.applyAccounts (s : State) (t : Nat) (b : List Byte) : State :=
  (List.range (b.length / 8)).foldl
    (fun s n =>
      let w := leAt b (8 * n) 8
      [0, 1].foldl (fun s u => s.setSluTree u t { s.sluTree u t with
        acct := smSet 0 (s.sluTree u t).acct (bits w 0 16, 0) (toSigned 40 (bits w 16 40)) }) s) s

/-- A bank of a KEY record; none where its integrity check fails. -/
def unwrapBank (key byte : Nat) (w : List Byte) (f : Int) : Option Bank :=
  if byte % 4 = 0 then some Bank.empty
  else (Config.keyUnwrap key (leAt w 0 24)).map (fun k => ⟨k, bits byte 2 2, byte % 4, f⟩)

def State.applyKey (s : State) (t : Nat) (f : Int) (b : List Byte) : State :=
  match s.mirrorSlot t (leAt b 0 2) with
  | none => s
  | some h =>
    match unwrapBank (s.prot t).key (byteAt b 2) (slice b 16 24) f, unwrapBank (s.prot t).key (byteAt b 3) (slice b 40 24) f with
    | some c, some n =>
      (s.setSlot h { s.slot h with cur := c, next := n, switchF := if byteAt b 4 = 1 then some (leAt b 8 8 : Nat) else none }).emit
        (.cipher (if c.state = 0 ∧ n.state = 0 then 0 else 1) h 2)
    | _, _ => s.mirrorError t

/-- TREE: the standby keeps its own broadcast slot (R106). -/
def State.applyTree (s : State) (t : Nat) (b : List Byte) : State :=
  let s1 := (s.wr F.TRE_CFG.MAX_FRAME t (leAt b 4 2)).wr F.TRE_CFG.PLOAM_MAX t (byteAt b 6)
  s1.setTree t { s1.tree t with dormantFrames := leAt b 8 2, surveyPeriod := leAt b 10 2, surveyLen := leAt b 12 2, oldTimes := none }

/-- One record. -/
def State.applyRecord (s : State) (t : Nat) (f : Int) (ty : Nat) (b : List Byte) : State :=
  if ty = 1 then s.applyTerm t b
  else if ty = 2 then s.applyFlow t b
  else if ty = 3 then s.applyAlloc t b
  else if ty = 4 then s.applyAccounts t b
  else if ty = 5 then s.applyKey t f b
  else if ty = 6 then s.applyTree t b
  else if ty = 7 then (s.setProt t { s.prot t with copyEnd := true }).tryReady t
  else s.mirrorRefused t

/-- What a copy names: the type and number of each of its records (R399). -/
def copyNames : Nat → List Byte → List (Nat × Nat)
  | 0, _ => []
  | n + 1, b => if b.length < 4 then [] else (byteAt b 0, leAt b 6 2) :: copyNames n (b.drop (4 + leAt b 2 2))

/-- A copy holds every record of every kind (R399): terminals, flow ports and allocations that it does not name are no
longer the tree's. -/
def State.copyDrop (s : State) (t : Nat) (body : List Byte) : State :=
  let names := copyNames body.length body
  let keep := fun (ty : Nat) (k : Nat) => names.contains (ty, k)
  let s1 := (s.putFlows (s.flows.filter (fun e => e.1.1 ≠ t || keep 2 e.1.2))).putTerms
    (s.terms.filter (fun e => e.1.1 ≠ t || keep 1 e.1.2))
  ((((s1.allocsOf t).filter (fun a => !keep 3 a.1)).foldl (fun s a => (s.putAllocs (smDel s.allocs (t, a.1))).dropAlloc t a.1) s1).setCommit
    t).countOper t

/-- The records of a message in the order sent. -/
def State.applyRecords (s : State) (t : Nat) (f : Int) : Nat → List Byte → State
  | 0, _ => s
  | n + 1, b =>
    if b.length < 4 then s
    else
      let len := leAt b 2 2
      (s.applyRecord t f (byteAt b 0) (slice b 4 len)).applyRecords t f n (b.drop (4 + len))

end Sys2Proof.Machine
end

