-- ==== Sys2Proof/Machine/RakeOps.lean ====
section
/-! DEFINITION. Rake channels as other parts of the complex see them (10_rake_dma.md R319, R326): their state, their events
and the hold a command of the control processor takes on one. -/

namespace Sys2Proof.Machine

/-- Channel state codes of R319. -/
def chIDLE : Nat := 0
def chARMED : Nat := 1
def chRUNNING : Nat := 2
def chWAIT : Nat := 3
def chAT_END : Nat := 4
def chHALTED : Nat := 5

def State.chState (s : State) (c : Nat) : Nat := s.rd F.DMA_CHn_STATUS.STATE c

/-- An event bit of a channel sets (source 160 + n, R304, R336). -/
def State.chEvent (s : State) (c : Nat) (f : Fld) : State := s.raiseEn f c F.DMA_CHn_EVENT_EN.EN (160 + c)

/-- Whether a command may take a channel (R326): the rake's domain is ON and the channel is IDLE. -/
def State.chFree (s : State) (c : Nat) : Bool := s.on 53 && decide (s.chState c = chIDLE)

/-- A register of a held channel that the control processor writes and the rules do not give takes a free value. -/
def State.wrFree (s : State) (f : Fld) (c : Nat) : State := (s.wr f c (s.free f.w)).tickFree

/-- The control processor holds a channel for a command and writes its program, with REQ 97 (R326). -/
def State.holdChannel (s : State) (c src dst elemLog2 total : Nat) : State :=
  let s1 := [F.DMA_CHn_S0.STEP, F.DMA_CHn_D0.STEP, F.DMA_CHn_S1.STEP, F.DMA_CHn_D1.STEP, F.DMA_CHn_S2.STEP, F.DMA_CHn_D2.STEP,
    F.DMA_CHn_CNT01.C0, F.DMA_CHn_CNT01.C1, F.DMA_CHn_CNT2.C2].foldl (fun s f => s.wrFree f c) s
  let s2 := (((s1.wr F.DMA_CHn_SRC.ADDR c src).wr F.DMA_CHn_DST.ADDR c dst).wr F.DMA_CHn_CNT2.DCTL c elemLog2).wr F.DMA_CHn_CTL.REQ c 97
  let s3 := ((s2.wr F.DMA_CHn_STATUS.STATE c chRUNNING).wr F.DMA_CHn_STATUS.OWNED c 1).wr F.DMA_CHn_STATUS.CFG_ERR c 0
  ((s3.wr F.DMA_CHn_BYTES.BYTES c 0).wr F.DMA_CHn_REMAIN.BYTES c total).wr F.DMA_CHn_IDX.IDX c 0

/-- The command ends: its run and its fence are done, the channel is IDLE and no longer held (R326, R330, R331). -/
def State.releaseChannel (s : State) (c total : Nat) : State :=
  let s1 := ((s.wr F.DMA_CHn_STATUS.STATE c chIDLE).wr F.DMA_CHn_STATUS.OWNED c 0).wr F.DMA_CHn_REMAIN.BYTES c 0
  ((s1.wr F.DMA_CHn_BYTES.BYTES c total).chEvent c F.DMA_CHn_EVENT.DONE).chEvent c F.DMA_CHn_EVENT.FENCED

end Sys2Proof.Machine
end

