-- ==== Sys2Proof/Machine/Tables.lean ====
section
/-! DEFINITION. Classification, filters and the terminal-resolution table (07_tables.md): the table engine's commands with
their queue, lookups in both directions, learning, ageing and scrubbing. -/

namespace Sys2Proof.Machine

/-! ### The table engine's state and its command queue (R242) -/

/-- The state code commands are refused with: OFF while the engine's domain is not ON. -/
def State.tblState (s : State) : Nat := if s.on 50 then s.tabs.st else 0

def State.tblEntries (s : State) : Nat := s.tabs.entries.length

/-- Whether a command's work continues after it is begun: a bulk insert, a pattern delete, a dump. -/
def TblCmd.long (c : TblCmd) : Bool :=
  (c.code == 0x0401 && bit (byteAt c.p 0) 1) || (c.code == 0x0402 && bit (byteAt c.p 0) 0) || c.code == 0x0403

/-- The rake channel a command names. -/
def TblCmd.channel (c : TblCmd) : Option Nat :=
  if c.code = 0x0401 ∧ bit (byteAt c.p 0) 1 then some (byteAt c.p 1)
  else if c.code = 0x0403 then some (byteAt c.p 3)
  else none

/-- Entries a pattern names (R244, R245). -/
def kindMatch (tree kinds : Nat) (e : TblEntry) : Bool := (tree == 0xFF || tkTree e.tkey == tree) && bit kinds e.kind

def patternMatch (p : List Byte) (e : TblEntry) : Bool :=
  let pr := byteAt p 3
  let term := leAt p 4 2
  kindMatch (byteAt p 1) (byteAt p 2) e && tkDir e.tkey == bits pr 4 1 && (bit pr 7 || tkProfile e.tkey == bits pr 0 4) &&
    (term == 0xFFFF || e.term == term)

/-- Response bytes of TABLE_INSERT (R243). -/
def insertPayload (done failed bucket result moves entries : Nat) : List Byte :=
  leBytes 4 done ++ leBytes 4 failed ++ leBytes 4 bucket ++ leBytes 1 result ++ leBytes 1 moves ++ zeros 2 ++ leBytes 4 entries

/-- A single insert (R240, R243). -/
def State.insertOne (s : State) (p : List Byte) : State × Resp :=
  let (r, s1) := s.insert (TblEntry.ofWord (leAt p 8 32)) (bit (byteAt p 0) 0) 3
  if r.code = 2 then (s1, conflict (1 + r.kind))
  else if r.code = 3 then (s1, refuse stNO_RESOURCE 1)
  else if r.code = 4 then (s1, refuse stNO_RESOURCE 2)
  else (s1, okWith (insertPayload 1 0 r.bucket r.code r.moves s1.tblEntries))

/-- A delete of one key (R244). -/
def State.deleteOne (u : State) (p : List Byte) : State × Resp :=
  let k := leAt p 8 14
  let s := u.readPlaces k 0
  match s.findKey k with
  | none => (s, okWith (leBytes 4 0 ++ leBytes 4 s.tblEntries))
  | some (at_, _) =>
    let s1 := s.delEntry at_
    (s1, okWith (leBytes 4 1 ++ leBytes 4 s1.tblEntries))

/-- The profiles with one set or deleted (R222). -/
def profileSet (m : SMap KeyProfile) (p : List Byte) : SMap KeyProfile :=
  let key : Key := (byteAt p 0 * 2 + byteAt p 1, byteAt p 2)
  if bit (byteAt p 3) 1 then smDel m key
  else smPut m key
    { learn := bit (byteAt p 3) 0, natoms := byteAt p 4, miss := byteAt p 5, partner := byteAt p 6, defCls := byteAt p 7,
      atoms := (slice p 8 8).map (fun b => b.toNat), select := leAt p 16 2, missRing := leAt p 18 2,
      defHandle := leAt p 20 4, bcastPort := leAt p 24 2 }

/-- The profiles once the commands in the queue have run (R242). -/
def State.profilesDue (s : State) : SMap KeyProfile :=
  (s.tabs.cmds.filter (fun c => c.code == 0x0404)).foldl (fun m c => profileSet m c.p) s.tabs.profiles

/-- A key profile is set or deleted (R222). -/
def State.profileRun (s : State) (p : List Byte) : State × Resp :=
  (s.setTabs (fun x => { x with profiles := profileSet x.profiles p }), okWith [])

/-- Table-wide values (R246). -/
def State.configRun (s : State) (p : List Byte) : State × Resp :=
  let s1 := s.setTabs (fun x => { x with learnEn := bit (byteAt p 0) 0, ageLimit := byteAt p 1, sweepMs := leAt p 4 4 })
  (s1, okWith (leBytes 1 (b2n s1.tabs.learnEn) ++ leBytes 1 s1.tabs.ageLimit ++ zeros 2 ++ leBytes 4 s1.tabs.sweepMs))

/-- A command that ends at once. -/
def State.tblRun (s : State) (c : TblCmd) : State × Resp :=
  if c.code = 0x0401 then s.insertOne c.p
  else if c.code = 0x0402 then s.deleteOne c.p
  else if c.code = 0x0404 then s.profileRun c.p
  else s.configRun c.p

/-- A long command begins: its channel is held, or a pattern's entries are deleted. -/
def State.tblBegin (s : State) (c : TblCmd) : State × TblCmd :=
  if c.code = 0x0401 then
    (s.holdChannel (byteAt c.p 1) (leAt c.p 8 8) (4 * 2 ^ 60) 5 (32 * leAt c.p 4 4), { c with begun := true })
  else if c.code = 0x0403 then
    (s.holdChannel (byteAt c.p 3) (4 * 2 ^ 60) (leAt c.p 8 8) 5 (32 * leAt c.p 4 4), { c with begun := true })
  else
    let s1 := s.readFrom 0
    let gone := s1.tabs.entries.filter (fun e => patternMatch c.p e.2)
    (gone.foldl (fun s e => s.delEntry e.1) s1, { c with begun := true, deleted := gone.length })

/-- Commands at the front of the queue run until one is under way (R242). -/
def State.tblNext : Nat → State → State
  | 0, s => s
  | n + 1, s =>
    match s.tabs.cmds with
    | [] => s
    | c :: rest =>
      if c.begun then s
      else if c.long then
        if c.channel.any (fun ch => !s.chFree ch) then
          State.tblNext n ((s.setTabs (fun x => { x with cmds := rest })).answerLater c.src (refuse stBUSY 0))
        else
          let (s1, c1) := s.tblBegin c
          s1.setTabs (fun x => { x with cmds := c1 :: rest })
      else
        let (s1, r) := (s.setTabs (fun x => { x with cmds := rest })).tblRun c
        State.tblNext n (s1.answerLater c.src r)

/-- The command under way ends with a response; the next begin. -/
def State.tblEnd (s : State) (src : Src) (r : Resp) : State :=
  State.tblNext 64 ((s.setTabs (fun x => { x with cmds := x.cmds.drop 1 })).answerLater src r)

/-- A table command of a code whose own checks are given (R242): accepted in READY, executed in order of arrival. -/
def tableCommand (code : Nat) (check : State → List Byte → Option Resp) (state : State → List Byte → Option Resp) : Body := fun s src p =>
  match check s p with
  | some r => (s, some r)
  | none =>
    if s.tblState ≠ 2 then (s, some (conflict s.tblState))
    else
      match state s p with
      | some r => (s, some r)
      | none =>
        let c : TblCmd := ⟨src, code, p, false, 0⟩
        if s.tabs.cmds.length ≥ 64 ∨ c.channel.any (fun ch => !s.chFree ch) then (s, some (refuse stBUSY 0))
        else if s.tabs.cmds = [] ∧ !c.long then
          let (s1, r) := s.tblRun c
          (s1, some r)
        else (State.tblNext 64 (s.setTabs (fun x => { x with cmds := x.cmds ++ [c] })), none)

/-! ### The commands -/

/-- Checks of TABLE_INSERT (R243). -/
def insertFault (_ : State) (p : List Byte) : Option Resp :=
  let fl := byteAt p 0
  let bulk := bit fl 1
  let count := leAt p 4 4
  match firstFault [
    (decide (fl > 3), badArg 0), (bulk && decide (byteAt p 1 > 63), badArg 1), resv p 2 2,
    (if bulk then decide (count = 0 ∨ count > 1048576) else decide (count ≠ 0), badArg 4),
    (bulk && decide (leAt p 8 8 % 32 ≠ 0), badArg 8)] with
  | some r => some r
  | none => if bulk then firstFault [resv p 24 32] else (entryFault (leAt p 8 32)).map (fun o => badArg (8 + o))

/-- TABLE_INSERT (R243). -/
def execTableInsert (src : Src) (s : State) : Res :=
  .next (s.calvan src 0x0401 false false (tableCommand 0x0401 insertFault (fun _ _ => none)))

/-- Checks of TABLE_DELETE (R244). -/
def deleteFault (_ : State) (p : List Byte) : Option Resp :=
  let fl := byteAt p 0
  let by_ := bit fl 0
  let w := leAt p 8 32
  let tree := byteAt p 1
  let term := leAt p 4 2
  firstFault [
    (decide (fl > 1), badArg 0), (by_ && decide (tree > 95 ∧ tree ≠ 0xFF), badArg 1), (by_ && decide (byteAt p 2 > 7), badArg 2),
    (by_ && decide (bits (byteAt p 3) 5 2 ≠ 0), badArg 3), (by_ && decide (term > 1023 ∧ term ≠ 0xFFFF), badArg 4), resv p 6 2,
    (!by_ && decide (bits w 96 7 > 95), badArg 20), (!by_ && decide (bits w 108 4 = 0 ∨ bits w 108 4 > 8), badArg 21), resv p 40 16]

/-- TABLE_DELETE (R244). -/
def execTableDelete (src : Src) (s : State) : Res :=
  .next (s.calvan src 0x0402 false false (tableCommand 0x0402 deleteFault (fun _ _ => none)))

/-- Checks of TABLE_DUMP (R245). -/
def dumpFault (_ : State) (p : List Byte) : Option Resp :=
  let tree := byteAt p 1
  let n := leAt p 4 4
  firstFault [
    resv p 0 1, (decide (tree > 95 ∧ tree ≠ 0xFF), badArg 1), (decide (byteAt p 2 > 7), badArg 2), (decide (byteAt p 3 > 63), badArg 3),
    (decide (n = 0 ∨ n > 16777216), badArg 4), (decide (leAt p 8 8 % 32 ≠ 0), badArg 8), (decide (leAt p 16 8 > 8388607), badArg 16),
    resv p 24 32]

/-- TABLE_DUMP (R245). -/
def execTableDump (src : Src) (s : State) : Res :=
  .next (s.calvan src 0x0403 false false (tableCommand 0x0403 dumpFault (fun _ _ => none)))

/-- SELECT bits claimed by the other profiles of a tree and direction, those of commands still queued among them (R222). -/
def State.selectTaken (s : State) (key : Key) : Nat :=
  (s.profilesDue.filter (fun e => e.1.1 == key.1 && decide (e.1 ≠ key))).foldl (fun m e => m ||| e.2.select) 0

/-- Checks of TABLE_PROFILE (R222). -/
def profileFault (s : State) (p : List Byte) : Option Resp :=
  let t := byteAt p 0
  let fl := byteAt p 3
  let learn := bit fl 0
  let set := !bit fl 1
  let atoms := (slice p 8 8).map (fun b => b.toNat)
  let sel := leAt p 16 2
  firstFault [
    (decide (t > 95), badArg 0), (decide (byteAt p 1 > 1), badArg 1), (decide (byteAt p 2 > 15), badArg 2),
    (decide (fl > 3) || set && learn && decide (byteAt p 1 = 1), badArg 3),
    (set && (if learn then decide (byteAt p 4 ≠ 0) else decide (byteAt p 4 = 0 ∨ byteAt p 4 > 8)), badArg 4),
    (set && decide (byteAt p 5 > 2), badArg 5),
    (set && learn && (smFind s.profilesDue (t * 2 + 1, byteAt p 6)).isNone, badArg 6),
    (set && decide (byteAt p 7 > 7), badArg 7),
    (set && (if learn then atoms.any (fun a => a != 0) else atoms.any (fun a => !atomKnown a)), badArg 8),
    (set && (decide (sel ≥ 512) || decide (sel &&& s.selectTaken (t * 2 + byteAt p 1, byteAt p 2) ≠ 0)), badArg 16),
    (set && decide (leAt p 18 2 > 4095), badArg 18), (set && decide (leAt p 20 4 ≥ 2 ^ 24), badArg 20), resv p 26 30]

/-- A tree that is not DISABLED refuses TABLE_PROFILE (R222). -/
def profileState (s : State) (p : List Byte) : Option Resp :=
  let t := byteAt p 0
  if s.tstate t ≠ trDISABLED then some (conflict (0x80 + s.tstate t)) else none

/-- TABLE_PROFILE (R222). -/
def execTableProfile (src : Src) (s : State) : Res :=
  .next (s.calvan src 0x0404 false false (tableCommand 0x0404 profileFault profileState))

/-- Checks of TABLE_CONFIG (R246). -/
def configFault (_ : State) (p : List Byte) : Option Resp :=
  let ms := leAt p 4 4
  firstFault [
    (decide (byteAt p 0 > 1), badArg 0), (decide (byteAt p 1 = 0), badArg 1), resv p 2 2,
    (decide (ms ≠ 0 ∧ (ms < 1000 ∨ ms > 3600000)), badArg 4), resv p 8 48]

/-- TABLE_CONFIG (R246). -/
def execTableConfig (src : Src) (s : State) : Res :=
  .next (s.calvan src 0x0405 false false (tableCommand 0x0405 configFault (fun _ _ => none)))

/-- TABLE_STATUS (R247). -/
def State.tableStatus (s : State) (p : List Byte) : State × Resp :=
  if byteAt p 0 > 1 then (s, badArg 0)
  else
    let x := s.tabs
    let sat := fun (n : Nat) => leBytes 4 (min (2 ^ 32 - 1) n)
    let pinned := (x.entries.filter (fun e => e.2.kind == 2)).length
    let b := leBytes 1 s.tblState ++ zeros 3 ++ leBytes 4 s.tblEntries ++ leBytes 4 pinned ++ sat x.learned ++ sat x.learnDrop ++
      sat x.aged ++ sat x.moved ++ sat x.conflicts ++ sat (x.hits / 1024) ++ sat (x.misses / 1024) ++ sat x.ueOne ++
      sat x.ueBoth ++ sat x.noProfile ++ sat x.noPort
    let s1 := if byteAt p 0 = 1 then
        s.setTabs (fun x => { x with learned := 0, learnDrop := 0, aged := 0, moved := 0, conflicts := 0, hits := 0, misses := 0,
                                     ueOne := 0, ueBoth := 0, noProfile := 0, noPort := 0 })
      else s
    (s1, okWith b)

def execTableStatus (src : Src) (s : State) : Res := .next (s.calvan src 0x0406 false true (atOnce State.tableStatus))

/-- FILTER_SET (R224). -/
def State.filterSet (s : State) (p : List Byte) : State × Resp :=
  let t := byteAt p 0
  match firstFault [
    (decide (t > 95), badArg 0), (decide (byteAt p 1 > 15), badArg 1), (decide (byteAt p 2 > 3), badArg 2), resv p 3 1,
    (decide (leAt p 4 2 > 4095), badArg 4), (decide (leAt p 6 2 > 4095), badArg 6), resv p 14 2, (decide (leAt p 22 2 > 4095), badArg 22),
    resv p 24 32, (decide (s.tstate t = trFAULT), conflict 0x84)] with
  | some r => (s, r)
  | none =>
    let f : Filter := ⟨byteAt p 2, leAt p 4 2, leAt p 6 2, beAt p 8 6, beAt p 16 6, leAt p 22 2⟩
    (s.setTabs (fun x => { x with filters := smSet Filter.off x.filters (t, byteAt p 1) f }), okWith (slice p 0 24))

def execFilterSet (src : Src) (s : State) : Res := .next (s.calvan src 0x0407 false false (atOnce State.filterSet))

/-! ### Ends of long commands -/

/-- One record of a bulk insert: its result code, and the state with the record inserted and its status byte written (R243). -/
def State.bulkOne (s : State) (src status : Nat) (replace : Bool) (i : Nat) : Nat × State :=
  let w := leAt (s.hostRead (src + 32 * i) 32) 0 32
  let (code, s1) := match entryFault w with
    | some _ => (5, s)
    | none =>
      let (r, s1) := s.insert (TblEntry.ofWord w) replace 3
      (r.code, s1)
  (code, if status = 0 then s1 else s1.hostWrite (status + i) (leBytes 1 code))

/-- The records of a bulk insert from the i-th on, in order (R243): how many were placed, and the state after them. -/
def State.bulkInsert (s : State) (src status : Nat) (replace : Bool) : Nat → Nat → Nat × State
  | 0, _ => (0, s)
  | n + 1, i =>
    let r := s.bulkOne src status replace i
    let q := r.2.bulkInsert src status replace n (i + 1)
    (q.1 + b2n (decide (r.1 ≤ 1)), q.2)

/-- TABLE_BULK_INSERT_DONE (R243): the last status byte has arrived. -/
def execTableBulkInsertDone (s : State) : Res :=
  .next (match s.tabs.cmds with
  | c :: _ =>
    if c.begun ∧ c.code = 0x0401 then
      let n := leAt c.p 4 4
      let (k, s1) := s.bulkInsert (leAt c.p 8 8) (leAt c.p 16 8) (bit (byteAt c.p 0) 0) n 0
      let s2 := s1.releaseChannel (byteAt c.p 1) (32 * n)
      s2.tblEnd c.src (okWith (insertPayload k (n - k) 0 0 0 s2.tblEntries))
    else s
  | [] => s)

/-- TABLE_DUMP_DONE (R245): at MAX records or at the table's end. -/
def execTableDumpDone (s : State) : Res :=
  .next (match s.tabs.cmds with
  | c :: _ =>
    if c.begun ∧ c.code = 0x0403 then
      let s0 := s.readFrom (leAt c.p 16 8)
      let all := s0.tabs.entries.filter (fun e => decide (e.1.1 ≥ leAt c.p 16 8) && kindMatch (byteAt c.p 1) (byteAt c.p 2) e.2)
      let part := all.take (leAt c.p 4 4)
      let next := match all.drop (leAt c.p 4 4) with
        | e :: _ => e.1.1
        | [] => 2 ^ 64 - 1
      let s1 := s0.hostWrite (leAt c.p 8 8) (part.flatMap (fun e => (s0.entryNow e.2).bytes))
      let s2 := s1.releaseChannel (byteAt c.p 3) (32 * part.length)
      s2.tblEnd c.src (okWith (leBytes 4 part.length ++ zeros 4 ++ leBytes 8 next))
    else s
  | [] => s)

/-- PATTERN_DELETE_DONE (R244): the walk ends. -/
def execPatternDeleteDone (s : State) : Res :=
  .next (match s.tabs.cmds with
  | c :: _ =>
    if c.begun ∧ c.code = 0x0402 then s.tblEnd c.src (okWith (leBytes 4 c.deleted ++ leBytes 4 s.tblEntries)) else s
  | [] => s)

/-- DISABLE ends a held channel's command before its end (R326). -/
def State.abortHeld (s : State) (ch : Nat) : State :=
  match s.tabs.cmds with
  | c :: _ => if c.begun ∧ c.channel = some ch then s.tblEnd c.src (refuse stINTERNAL 0x40) else s
  | [] => s

/-- TABLE_ENGINE_INIT_DONE (R242). -/
def execTableEngineInitDone (s : State) : Res :=
  .next (if s.on 50 ∧ s.tabs.st = 1 then s.setTabs (fun x => { x with st := 2 }) else s)

/-! ### Downstream lookups (R221, R229, R233) -/

/-- A downstream frame on its way to a host ring. -/
def Ingress.rx (i : Ingress) (reason cls term port : Nat) : RxFrame :=
  ⟨i.bytes, reason, rxFlags i.bytes, i.tree, cls, 1, term, port, 0xFFFF, 0, i.tsNs, i.tsInfo, 0, none, i.cell⟩

/-- A downstream frame leaves ingress without being queued: its cells are released, a host frame completes OK with length
0 (R288). -/
def State.endIngress (s : State) (i : Ingress) (status : Nat) : State := (s.freeCells i.cell).endFrame i.origin status

/-- A resolved downstream frame is queued; a launch frame goes to the tree's egress staging (R65, R260). The write into a buffer
stack reads the frame's cells (R251). -/
def State.queueDown (s : State) (i : Ingress) (term port cls : Nat) : State :=
  match i.launch with
  | some l =>
    let x := s.tree i.tree
    if s.tstate i.tree ≠ trACTIVE then s.endIngress i (if s.tstate i.tree = trDISABLED ∨ s.tstate i.tree = trFAULT then txTREE_DOWN else txTREE_IDLE)
    else s.setTree i.tree { x with staged := x.staged ++ [⟨term, cls, port, i.bytes, i.origin, i.flags, some l, false, i.cell, i.tsNs, i.tsInfo⟩] }
  | none =>
    let (bad, s0) := s.cellRead i.cell
    if bad then s0.endIngress i txMEM_ERR
    else
      match s0.admitDeep i.tree term cls i.cell ⟨port, i.bytes, i.origin, i.flags, i.tsNs, i.tsInfo⟩ with
      | (true, s1) => s1
      | (false, s1) => s1.endFrame i.origin (if s.tstate i.tree = trDISABLED ∨ s.tstate i.tree = trFAULT then txTREE_DOWN else txOK)

/-- What a hit decides downstream (R233). -/
def State.hitDown (s : State) (i : Ingress) (e : TblEntry) : State :=
  let s1 := s.countFlow e.counter i.bytes.length
  if e.drop then s1.endIngress i txOK
  else if e.host then (s1.rxOffer e.ring (i.rx 0 e.cls e.term e.port)).endIngress i txOK
  else if !(s1.flow i.tree e.port).any (fun f => f.term == e.term) then
    (s1.setTabs (fun x => { x with noPort := satAdd 32 x.noPort 1 })).endIngress i txOK
  else
    let s2 := if e.copy then s1.rxOffer e.ring (i.rx 1 e.cls e.term e.port) else s1
    s2.queueDown i e.term e.port e.cls

/-- What a miss decides downstream (R233). -/
def State.missDown (s : State) (i : Ingress) (q : KeyProfile) : State :=
  if q.miss = 0 then s.endIngress i txOK
  else if q.miss = 1 then (s.rxOffer q.missRing (i.rx 2 0 0xFFFF 0xFFFF)).endIngress i txOK
  else s.queueDown i 1023 q.bcastPort 0

/-- LOOKUP_DOWNSTREAM (R233): the frame at the head of the downstream lookup queue is resolved; its credits return. -/
def execLookupDownstream (errs : List Upset) (s : State) : Res :=
  .next (let s := s.upset errs
  match s.buf.ingress with
  | [] => s
  | i :: rest =>
    if s.tblState ≠ 2 then s
    else
      let s0 := (s.setBuf (fun b => { b with ingress := rest })).returnCredit i.lane i.cls i.segs
      match s0.profileFor i.tree 1 (shapeOf i.bytes) with
      | none => (s0.setTabs (fun x => { x with noProfile := satAdd 32 x.noProfile 1 })).endIngress i txOK
      | some (n, q) =>
        let k := (KeySrc.mk i.bytes 1 0 0 0).key (q.atoms.take q.natoms)
        match s0.lookup (tkeyOf k i.tree 1 n q.natoms) with
        | (some (_, e), _, s1) => s1.hitDown i e
        | (none, _, s1) => s1.missDown i q)

/-! ### Upstream lookups (R221, R223, R234 to R237) -/

/-- An upstream frame on its way to a host ring. -/
def UsFrame.rx (f : UsFrame) (reason : Nat) : RxFrame :=
  ⟨f.bytes, reason, rxFlags f.bytes + b2n f.trunc + 2 * b2n f.fcsBad, f.tree, f.cls, 0, f.term, f.port, f.alloc, f.flow, f.ts, f.tsInfo, 0,
   none, f.cell⟩

/-- Whether a filter slot matches a frame (R223). -/
def Filter.matches (x : Filter) (f : List Byte) : Bool :=
  let tg := tagsOf f
  let vid := if tg.count = 0 then 0xFFF else bits tg.outer 0 12
  decide (x.action ≠ 0) && ((beAt f 0 6 ^^^ x.mac) &&& x.macMask) == 0 && ((vid ^^^ x.vid) &&& x.vidMask) == 0

/-- The slots of a tree that match, lowest first. -/
def State.filtersHit (s : State) (t : Nat) (f : List Byte) : List (Nat × Filter) :=
  ((s.tabs.filters.filter (fun e => e.1.1 == t && e.2.matches f)).map (fun e => (e.1.2, e.2)))

/-- A request joins the learn queue, one per key; it is dropped and counted when the queue is full (R237). -/
def State.queueLearn (s : State) (r : LearnReq) : State :=
  if s.tabs.learnQ.any (fun x => x.tkey == r.tkey) then s
  else if s.tabs.learnQ.length ≥ 4096 then s.setTabs (fun x => { x with learnDrop := satAdd 32 x.learnDrop 1 })
  else s.setTabs (fun x => { x with learnQ := x.learnQ ++ [r] })

/-- What classification gives an upstream frame: pass on with a handle and class, drop, or a ring with a reason; and a ring
for a copy. -/
structure UsVerdict where
  flow : Nat
  cls : Nat
  drop : Bool
  ring : Option (Nat × Nat)
  copy : Option Nat

/-- What a hit gives (R234). -/
def TblEntry.verdict (e : TblEntry) : UsVerdict :=
  ⟨e.handle, e.cls, e.drop, if e.host ∧ !e.drop then some (e.ring, 0) else none, if e.copy ∧ !e.drop ∧ !e.host then some e.ring else none⟩

/-- What a miss gives (R234). -/
def KeyProfile.missVerdict (q : KeyProfile) : UsVerdict :=
  if q.miss = 0 then ⟨0, 0, true, none, none⟩
  else if q.miss = 1 then ⟨0, 0, false, some (q.missRing, 2), none⟩
  else ⟨q.defHandle, q.defCls, false, none, none⟩

/-- The handle a learn gives (R236). -/
def KeyProfile.learnHandle (q : KeyProfile) (term : Nat) : Nat := q.defHandle / 4096 * 4096 + term

/-- A refreshing hit sets HIT, in the entry's line alone (R230, R235); the cycle of a hit that found it 0 is kept (R239). -/
def State.refresh (s : State) (e : TblEntry) : State :=
  if e.hit then s else (s.lineHit e.tkey true).setTabs (fun x => { x with lastHit := some (e.tkey, s.tb.ctc) })

/-- A lookup under a LEARN profile (R235); `keep` says the frame may learn and refresh. -/
def State.learnLookup (s : State) (f : UsFrame) (q pq : KeyProfile) (keep : Bool) : UsVerdict × State :=
  let codes := (pq.atoms.take pq.natoms).map (fun c => if 8 ≤ c ∧ c ≤ 11 then c + 4 else c)
  let tk := tkeyOf ((KeySrc.mk f.bytes 1 f.term f.alloc f.port).key codes) f.tree 1 q.partner pq.natoms
  let req : LearnReq := ⟨tk, f.term, f.port, f.alloc, q.defCls, q.learnHandle f.term, false⟩
  let pass : UsVerdict := ⟨req.handle, req.cls, false, none, none⟩
  match s.lookup tk with
  | (some (_, e), _, s1) =>
    let s2 := s1.countFlow e.counter f.bytes.length
    if e.term = f.term then (e.verdict, if keep then s2.refresh e else s2)
    else if e.kind = 0 then (pass, if keep then s2.queueLearn { req with move := true } else s2)
    else (pass, s2.setTabs (fun x => { x with conflicts := satAdd 32 x.conflicts 1 }))
  | (none, lost, s1) =>
    if keep ∧ s1.tabs.learnEn ∧ !lost then (pass, s1.queueLearn req) else (q.missVerdict, s1)

/-- Classification of an upstream frame (R221, R234, R235). -/
def State.classify (s : State) (f : UsFrame) (keep : Bool) : UsVerdict × State :=
  match s.profileFor f.tree 0 (shapeOf f.bytes) with
  | none => (⟨0, 0, false, none, none⟩, s.setTabs (fun x => { x with noProfile := satAdd 32 x.noProfile 1 }))
  | some (n, q) =>
    if q.learn then
      match smFind s.tabs.profiles (f.tree * 2 + 1, q.partner) with
      | some pq => s.learnLookup f q pq keep
      | none => (q.missVerdict, s)
    else
      let k := (KeySrc.mk f.bytes 0 f.term f.alloc f.port).key (q.atoms.take q.natoms)
      match s.lookup (tkeyOf k f.tree 0 n q.natoms) with
      | (some (_, e), _, s1) => (e.verdict, s1.countFlow e.counter f.bytes.length)
      | (none, _, s1) => (q.missVerdict, s1)

/-- A classified frame goes where its verdict says (R234, R272). -/
def State.disposeUp (s : State) (f : UsFrame) (v : UsVerdict) : State :=
  let g := { f with flow := v.flow, cls := v.cls }
  let s1 := match v.copy with
    | some r => s.rxOffer r (g.rx 1)
    | none => s
  match v.ring with
  | some (r, reason) => (s1.rxOffer r (g.rx reason)).freeCells f.cell
  | none => if v.drop then s1.freeCells f.cell else s1.toEgress g

/-- The lookup runs beside the filter check; a redirect or drop discards its result, and nothing is learned (R223). -/
def State.lookupOnly (s : State) (f : UsFrame) : State := (s.classify f false).2

/-- LOOKUP_UPSTREAM (R223, R234): the frame at the head of the upstream lookup queue is filtered and classified. -/
def execLookupUpstream (errs : List Upset) (s : State) : Res :=
  .next (let s := s.upset errs
  match s.buf.lookupUs with
  | [] => s
  | f :: rest =>
    if s.tblState ≠ 2 then s
    else
      let s0 := s.setBuf (fun b => { b with lookupUs := rest })
      let hits := s0.filtersHit f.tree f.bytes
      let s1 := hits.foldl (fun s h => s.addCnt (pageTree f.tree) (0x100 + 8 * h.1) 1) s0
      let keep := !f.fcsBad && !f.trunc && !bit (byteAt f.bytes 6) 0
      match hits.head? with
      | some (_, x) =>
        if x.action = 1 then
          ((s1.lookupOnly f).rxOffer x.ring (f.rx 3)).freeCells f.cell
        else if x.action = 3 then (s1.lookupOnly f).freeCells f.cell
        else
          let (v, s2) := s1.classify f keep
          (s2.rxOffer x.ring ({ f with flow := v.flow, cls := v.cls }.rx 4)).disposeUp f v
      | none =>
        let (v, s2) := s1.classify f keep
        s2.disposeUp f v)
/-! ### Learning, ageing, scrubbing (R236 to R238, R253) -/

/-- The entry a learn or move writes (R236). -/
def LearnReq.entry (r : LearnReq) : TblEntry :=
  ⟨r.tkey, 0, true, r.cls, 0, r.term, r.port, r.handle, 0, r.alloc, false, false, false, 0⟩

/-- LEARN_APPLY (R237): the request at the head of the learn queue is written, with at most one displacement. -/
def execLearnApply (s : State) : Res :=
  .next (match s.tabs.learnQ with
  | [] => s
  | r :: rest =>
    if s.tblState ≠ 2 then s
    else
      let s0 := (s.setTabs (fun x => { x with learnQ := rest })).readPlaces r.tkey 1
      match s0.findKey r.tkey with
      | some (p, e) =>
        if e.kind ≠ 0 then s0
        else
          let s1 := s0.putEntry p r.entry
          if r.move then (s1.setTabs (fun x => { x with moved := satAdd 32 x.moved 1 })).blockEvent 98 0x06 1 else s1
      | none =>
        if r.move then s0
        else
          let (res, s1) := s0.insert r.entry false 1
          if res.code = 0 then (s1.setTabs (fun x => { x with learned := satAdd 32 x.learned 1 })).blockEvent 98 0x05 1
          else s1.setTabs (fun x => { x with learnDrop := satAdd 32 x.learnDrop 1 }))

/-- One slot of a swept bucket: the cache line is swept where the entry is cached (R238). An age deletion that a refreshing hit
of the same core cycle meets does not happen (R239). -/
def State.ageSlot (s : State) (p : Key) : State :=
  match smFind s.tabs.entries p with
  | none => s
  | some e0 =>
    let e := s.entryNow e0
    let last := decide (e.age + 1 ≥ s.tabs.ageLimit)
    if e.kind ≠ 0 ∨ (e.hit ∧ last ∧ s.tabs.lastHit = some (e.tkey, s.tb.ctc)) then s
    else if e.hit then s.putEntry p { e with hit := false, age := 0 }
    else if last then ((s.delEntry p).setTabs (fun x => { x with aged := satAdd 32 x.aged 1 })).blockEvent 98 0x07 1
    else s.putEntry p { e with age := e.age + 1 }

/-- AGEING_SWEEP (R238): the sweeper visits its next bucket. -/
def execAgeingSweep (s : State) : Res :=
  .next (if s.tblState ≠ 2 ∨ s.tabs.sweepMs = 0 then s
  else
    let b := s.tabs.sweepPos
    (((s.bucketRead b).2.ageSlot (b, 0)).ageSlot (b, 1)).setTabs (fun x => { x with sweepPos := (b + 1) % 8388608 }))

/-- A scrubbed word of the lookup cache (R251, R253): a bad line is invalidated, a pinned one rewritten from its bucket. -/
def State.scrubCache (s : State) (line : Nat) : State :=
  match (smGet [] s.tabs.cache (line / 16, 0)).find? (fun l => l.way == line % 16) with
  | some l => (s.lineRead l).2
  | none =>
    match s.wordSeen 2 0 line with
    | .clean => s
    | .corrected => (s.rewriteWord 2 0 line).corrected 1
    | .uncorrectable => (s.logUe 2 0 0 line).rewriteWord 2 0 line

/-- TABLE_SCRUB (R253): a word of the lookup cache (0) or of a table copy (1, 2), with words that hold errors by now. -/
def execTableScrub (mem : Fin 3) (bucket : Fin 8388608) (slot : Fin 2) (errs : List Upset) (s : State) : Res :=
  .next (let s := s.upset errs
  if !s.on 50 then s
  else if mem = 0 then s.scrubCache (bucket % 524288)
  else (s.copyRead (mem - 1) bucket [slot.val]).2)

end Sys2Proof.Machine
end

