-- ==== Sys2Proof/Machine/MonOps.lean ====
section
/-! DEFINITION. Counters, health and debug: shared operations (15_monitoring_debug.md): the words of the counter pages
(R443, R444), PE_CYCLES (R450), the global snapshot (R451 to R453), the legacy view (R462), predictions (R464), and the
test multiplexer's lock (R467, R468). -/

namespace Sys2Proof.Machine

/-- Ledger ticks of a second: 25 MHz. -/
def ledgerSec : Nat := 25000000

def State.setMon (s : State) (f : Monitor → Monitor) : State := { s with mon := f s.mon }

/-! ### Words of the counter pages -/

/-- The kind of a group page (R444), none for a page that is no group page. -/
def pageKind (p : Nat) : Option Nat :=
  if p < 2 then none
  else if p < 98 then some 1
  else if p < 162 then some 2
  else if p < 170 then some 3
  else if p < 178 then some 4
  else if p = 178 then some 5
  else none

/-- PE_CYCLES (R450): the cycles kept, and those since the engine's domain came ON. -/
def State.peCycles (s : State) (e : Nat) : Nat :=
  (s.rd F.PE_CYCLES.COUNT e + (if s.on (engDom e) then s.mon.cycles - smGet 0 s.mon.onAt (engDom e, 0) else 0)) % 2 ^ 64

/-- Whether a page holds a named count at an offset (R450, R456, R457). -/
def namedAt (p off : Nat) : Bool :=
  off % 8 == 0 &&
  match pageKind p with
  | some 1 => (decide (0x080 ≤ off ∧ off ≤ 0x0E0)) || (decide (0x100 ≤ off ∧ off ≤ 0x1B0))
  | some 2 => off == 0x080
  | some 3 => (decide (0x080 ≤ off ∧ off ≤ 0x0B0)) || (decide (0x0C0 ≤ off ∧ off ≤ 0x0F8))
  | some 5 => decide (0x080 ≤ off ∧ off < 0x080 + 154 * 8)
  | _ => false

/-- The domain of a page's programmable counters, none where it has none (R443). -/
def pageDom (p : Nat) : Option Nat :=
  match pageKind p with
  | some 1 => some (blockDom (p - 2))
  | some 2 => some (engDom (p - 98))
  | some 4 => some (blockDom (p - 74))
  | _ => none

/-- A page's programmable counter k, live. -/
def State.pageCounter (s : State) (p k : Nat) : Nat :=
  match pageKind p with
  | some 1 => s.rd F.PMC_CNTk.COUNT ((p - 2) * 8 + k)
  | some 2 => s.rd F.PE_CNTk.COUNT ((p - 98) * 8 + k)
  | some 4 => s.rd F.PMC_CNTk.COUNT ((p - 74) * 8 + k)
  | _ => 0

/-- Whether odd counter k of a page has CHAIN (R447). -/
def State.pageChain (s : State) (p k : Nat) : Bool :=
  match pageKind p with
  | some 1 => s.flag F.PMC_SELk.CHAIN ((p - 2) * 8 + k)
  | some 2 => s.flag F.PE_SELk.CHAIN ((p - 98) * 8 + k)
  | some 4 => s.flag F.PMC_SELk.CHAIN ((p - 74) * 8 + k)
  | _ => false

/-- GRP_ID (R444). -/
def grpId (p k : Nat) : Nat := p + k * 2 ^ 16 + 2 ^ 24

/-- A shadow of a programmable counter or of PE_CYCLES. -/
def State.countShadow (s : State) (p off : Nat) : Nat := smGet 0 s.mon.countSh (p, off)

/-- A word of a group page: its width in bytes and its value; none for a reserved offset. `sh` asks for the shadow. A
pair under CHAIN reads as one 64-bit register (R447). -/
def State.pageWord (s : State) (p off : Nat) (sh : Bool) : Option (Nat × Nat) :=
  match pageKind p with
  | none => none
  | some kind =>
    if off = 0 then some (4, grpId p kind)
    else if off = 8 then some (4, if sh then smGet 0 s.mon.seqSh (p, 0) else s.rd F.PMC_SNAP_SEQ.SEQ 0)
    else if 0x40 ≤ off ∧ off < 0x60 ∧ off % 4 = 0 ∧ (pageDom p).isSome then
      let k := (off - 0x40) / 4
      let v := fun j => if sh then s.countShadow p (0x40 + 4 * j) else s.pageCounter p j
      if k % 2 = 1 ∧ s.pageChain p k then none
      else if k % 2 = 0 ∧ s.pageChain p (k + 1) then some (8, v k + v (k + 1) * 2 ^ 32) else some (4, v k)
    else if namedAt p off then
      some (8, if kind = 2 then (if sh then s.countShadow p 0x80 else s.peCycles (p - 98))
        else if sh then smGet 0 s.mon.namedSh (p, off) else s.cnt p off)
    else none

/-! ### The global snapshot (R451 to R453) -/

/-- A page's programmable counters, and an engine's PE_CYCLES, go to their shadows, with its sequence. -/
def State.snapPage (s : State) (seq p : Nat) : State :=
  let s1 := (List.range 8).foldl
    (fun (s1 : State) k => s1.setMon (fun m => { m with countSh := smSet 0 m.countSh (p, 0x40 + 4 * k) (s.pageCounter p k) })) s
  let s2 := if pageKind p = some 2 then
    s1.setMon (fun m => { m with countSh := smSet 0 m.countSh (p, 0x80) (s.peCycles (p - 98)) }) else s1
  s2.setMon (fun m => { m with seqSh := smSet 0 m.seqSh (p, 0) seq })

/-- A snapshot is taken (R451); the instant is disarmed when it falls with it (R453). -/
def State.snapshot (s : State) : State :=
  let seq := (s.rd F.PMC_SNAP_SEQ.SEQ 0 + 1) % 2 ^ 32
  let s1 := (s.wr F.PMC_SNAP_SEQ.SEQ 0 seq).setMon (fun m => { m with namedSh := s.counts.filter (fun e => decide (e.1.1 < 179)) })
  let s2 := (List.range 179).foldl
    (fun s p =>
      match pageKind p, pageDom p with
      | none, _ => s
      | some _, none => s.setMon (fun m => { m with seqSh := smSet 0 m.seqSh (p, 0) seq })
      | some _, some d => if s.on d then s.snapPage seq p else s) s1
  s2.pmcEvent F.PMC_EVENT.SNAPSHOT

/-- Arm the instant; one already passed takes the snapshot at once (R453). -/
def State.armSnap (s : State) (at_ : Int) : State :=
  if at_ ≤ s.tide then (s.setMon (fun m => { m with snapAt := none })).snapshot
  else s.setMon (fun m => { m with snapAt := some at_ })

/-- A write of PMC_SNAP_CTL (R453): NOW takes a snapshot, DISARM disarms, ARM arms PMC_SNAP_AT; an instant with an
invalid phase names none and arms nothing. A snapshot and an arming or disarming in one write take one snapshot. -/
def State.writeSnapCtl (s : State) (v : Nat) : State :=
  let s1 := if bit v 0 then s.snapshot else s
  let s2 := if bit v 2 then s1.setMon (fun m => { m with snapAt := none }) else s1
  if bit v 1 then
    match s2.shortTuple (s2.rd F.PMC_SNAP_AT.TUPLE 0) with
    | some a => if bit v 0 ∧ a ≤ s2.tide then s2.setMon (fun m => { m with snapAt := none }) else s2.armSnap a
    | none => s2
  else s2

/-! ### The legacy view (R462) -/

/-- The total behind a legacy counter and the domain it belongs to; none for an address with no counter. Block 0 to 31
counts tree 32 x BANK + block. -/
def State.legTotal (s : State) (bank block index : Nat) : Option (Nat × Nat) :=
  let lanes := fun (off : Nat) => (List.range 8).foldl (fun n l => n + s.cnt (pageLane l) off) 0
  if block < 32 then
    let t := 32 * min 2 bank + block
    let p := pageTree t
    let v := match index with
      | 0 => some (s.cnt p 0x80)
      | 1 => some (s.cnt p 0x88 / 64)
      | 2 => some (s.cnt p 0x90)
      | 3 => some (s.cnt p 0x98 / 64)
      | 4 => some (s.cnt p 0xA0)
      | 5 => some (s.cnt p 0xA8)
      | 6 => some (s.cnt p 0xB0 + s.cnt p 0xB8 + s.cnt p 0xC0 + s.cnt p 0xC8)
      | 7 => some (s.cnt (legTree t) 7)
      | 8 => some (s.cnt (legTree t) 8)
      | 9 => some (s.cnt (legTree t) 9)
      | _ => none
    v.map (fun x => (x, pairOf t))
  else
    match block, index with
    | 32, 0 => some (lanes 0xA8, 52)
    | 32, 1 => some (lanes 0xB0, 52)
    | 32, 2 => some (lanes 0x80 + lanes 0x88 + lanes 0x98, 52)
    | 33, 0 => some (s.cnt legHost 0, 53)
    | 33, 1 => some (s.cnt legHost 1, 53)
    | 34, 0 => some (s.cnt legHost 2, 50)
    | 34, 1 => some (s.cnt legHost 3, 50)
    | 34, 2 => some (s.cnt legHost 4, 50)
    | _, _ => none

/-- A read of PMC_LEG_DATA: the count since the counter's last legacy read, saturating, which the read restarts. -/
def State.legRead (s : State) : Nat × State :=
  let bank := s.rd F.PMC_LEG_BANK.BANK 0
  let a := s.rd F.PMC_LEG_ADDR.ADDR 0
  let block := bits a 10 6
  let index := bits a 2 8
  match s.legTotal bank block index with
  | none => (0, s)
  | some (n, d) =>
    if !s.on d then (0, s)
    else
      let k : Key := (block + (if block < 32 then 64 * min 2 bank else 0), index)
      (min (2 ^ 32 - 1) (n - smGet 0 s.mon.legBase k), s.setMon (fun m => { m with legBase := smSet 0 m.legBase k n }))

/-! ### Wear and health (R463 to R465) -/

/-- Sums over points (x, y), x = 0, 1, 2 …: n, Σx, Σy, Σxx, Σxy, Σyy. -/
def fitSums (p : List Nat) : Int × Int × Int × Int × Int × Int :=
  (p.zipIdx).foldl (fun (a : Int × Int × Int × Int × Int × Int) (e : Nat × Nat) =>
    let x : Int := e.2
    let y : Int := e.1
    (a.1 + 1, a.2.1 + x, a.2.2.1 + y, a.2.2.2.1 + x * x, a.2.2.2.2.1 + x * y, a.2.2.2.2.2 + y * y)) (0, 0, 0, 0, 0, 0)

/-- A prediction over daily points toward an end of life: remaining hours and confidence (R464). The line is the
least-squares line and time counts from the last point, whole hours (log entry 33); R² of points that do not vary is a
free value. -/
def predict (p : List Nat) (end_ : Int) (freeR : Nat) : Nat × Nat :=
  if p.length < 3 then (0xFFFFFFFF, 0)
  else
    let (n, sx, sy, sxx, sxy, syy) := fitSums p
    let num := n * sxy - sx * sy
    let dx := n * sxx - sx * sx
    let dy := n * syy - sy * sy
    let days := min p.length 30
    let conf := if dy = 0 then min (freeR % 101) (days * 100 / 30)
      else ((days * 100 : Nat) * (num * num) / (30 * (dx * dy))).toNat
    -- y = (sy - b sx) / n + b x with b = num / dx; it reaches `end_` at x = (n dx end_ - (sy dx - num sx)) / (n num)
    let hours := if num ≤ 0 then 1000000
      else
        let at_ := n * dx * end_ - (sy * dx - num * sx)
        let left := 24 * (at_ - (n - 1) * (n * num))
        (max 0 (min 1000000 (left / (n * num)))).toNat
    (hours, conf)

/-- A domain's prediction: index 2,500 is the end of rated life (R463). -/
def State.wearPredict (s : State) (d : Nat) : Nat × Nat :=
  predict (smGet [] s.mon.wear (d, 0)) 2500 (Config.freeNat (s.freeCtr + d))

/-- A module's monitors. -/
def State.optic (s : State) (t : Nat) : Optic := smGet Optic.none_ s.mon.optics (t, 0)

/-- A module's prediction: 150 % of its first daily bias is its end of life (R464). -/
def State.opticPredict (s : State) (t : Nat) : Nat × Nat :=
  let x := s.optic t
  predict (x.points.map (fun b => 2 * b)) ((3 * x.first.getD 0 : Nat) : Int) (Config.freeNat (s.freeCtr + 58 + t))

/-- The free values of the predictions are used up. -/
def State.tickPredict (s : State) : State := { s with freeCtr := s.freeCtr + 154 }

/-- A prediction that warns: confidence of at least 50 and fewer hours than HOURS_WARN x 100 (R464). -/
def State.warns (s : State) (x : Nat × Nat) : Bool := decide (x.2 ≥ 50 ∧ x.1 < s.rd F.PMC_HEALTH_CFG.HOURS_WARN 0 * 100)

/-! ### The test multiplexer (R467, R468) -/

/-- The strap of DEBUG_UNLOCK (R26). -/
def State.dbgLock (s : State) : Bool := s.flag F.GLB_STRAP.DBGLOCK 0

/-- The unlock ends (R468). -/
def State.tmxLock (s : State) : State :=
  if s.flag F.TMX_STATUS.UNLOCKED 0 then (s.wr F.TMX_STATUS.UNLOCKED 0 0).pmcEvent F.PMC_EVENT.TMX else s

/-- Whether the TMX_ balls are driven (R467). -/
def State.tmxDriving (s : State) : Bool := s.flag F.TMX_STATUS.UNLOCKED 0 && s.flag F.TMX_CTL.EN 0

/-- The 16 data signals of group 0 of the selected block (R467): 0 from blocks 58 to 63 and from a domain not ON; none
while nothing is driven, and none for a group whose assignment is internal. -/
def State.tmxData (s : State) : Option Nat :=
  let b := s.rd F.TMX_CTL.BLOCK 0
  if !s.tmxDriving then none
  else if b ≥ 58 ∨ !s.on b then some 0
  else if s.rd F.TMX_CTL.GROUP 0 = 0 then some (b + 0xA500)
  else none

end Sys2Proof.Machine
end

