-- ==== Sys2Proof/Machine/Rings.lean ====
section
/-! DEFINITION. Host rings, completions and interrupts (09_host_rings.md): ring and queue commands, doorbells, TX
descriptors and their destinations, delivery to RX rings, event queues and vectors. -/

namespace Sys2Proof.Machine

/-! ### Ring and queue commands (R306, R308 to R311) -/

/-- The ring and queue commands need the host rings and rake domain ON. -/
def State.ringsOff (s : State) : Bool × Resp := (!s.on 53, conflict (0xC0 + s.pw 53))

def State.evqCreate (s : State) (p : List Byte) : State × Resp :=
  let q := byteAt p 0
  let del := bit (byteAt p 1) 0
  let sz := byteAt p 2
  let vec := leAt p 4 2
  let bound := s.rings.any (fun e => s.rstate e.1.1 != rgUNCREATED && e.2.evq == q)
  match firstFault [
    (decide (byteAt p 1 > 1), badArg 1), (!del && decide (sz < 4 ∨ sz > 16), badArg 2), resv p 3 1,
    (!del && decide (vec > 2047), badArg 4), resv p 6 2, (!del && decide (leAt p 8 8 % 4096 ≠ 0), badArg 8), resv p 16 40,
    s.ringsOff, (del && bound, conflict 0xFC), (!del && s.flag F.IRQ_EQ_STATUS.CREATED q, conflict 1)] with
  | some r => (s, r)
  | none =>
    let rsp := okWith (leBytes 1 q ++ zeros 3 ++ leBytes 2 vec)
    if del then ((s.wr F.IRQ_EQ_STATUS.CREATED q 0).setEvq q EvQueue.reset, rsp)
    else
      let s1 := ((s.wr F.IRQ_EQ_HEAD.HEAD q 0).wr F.IRQ_EQ_TAIL.TAIL q 0).wr F.IRQ_EQ_TAIL.PHASE q 1
      (((s1.wr F.IRQ_EQ_STATUS.OVERFLOW q 0).wr F.IRQ_EQ_STATUS.CREATED q 1).setEvq q ⟨sz, vec, leAt p 8 8, []⟩, rsp)

/-- EVQ_CREATE (R308). -/
def execEvqCreate (src : Src) (s : State) : Res := .next (s.calvan src 0x0104 false false (atOnce State.evqCreate))

/-- The doorbell slot of a ring (R284). -/
def dbOffset (r : Nat) : Nat := 0x100000 + r / 64 * 0x1000 + r % 64 * 0x40

/-- A field out of range in RING_CREATE, or not used by the type and not 0 (R309). -/
def ringCreateFault (p : List Byte) : Option Resp :=
  let r := leAt p 0 2
  let ty := byteAt p 2
  let fl := byteAt p 3
  let rx := decide (ty = rtRX)
  let bt := decide (ty = rtBITTERN)
  let trees := leAt p 20 12
  let buf := byteAt p 5
  let q := leAt p 6 2
  firstFault [
    (decide (r > 4095) || decide (ty ≤ 4) && (decide (r = 0) != decide (ty = rtADMIN)), badArg 0), (decide (ty > 4), badArg 2),
    (decide (fl > 15) || (bit fl 1 || bit fl 3) && !rx, badArg 3), (decide (byteAt p 4 < 4 ∨ byteAt p 4 > 16), badArg 4),
    (if rx || bt then decide (buf < 1 ∨ buf > 64) else decide (buf ≠ 0), badArg 5), (decide (q > 255 ∧ q ≠ 0xFFFF), badArg 6),
    (decide (leAt p 8 8 % 4096 ≠ 0), badArg 8), (decide (leAt p 16 2 > 1000) || !rx && decide (leAt p 16 2 ≠ 0), badArg 16),
    (decide (leAt p 18 2 > 15) || !bt && decide (leAt p 18 2 ≠ 0), badArg 18), (!bt && !bit fl 3 && decide (trees ≠ 0), badArg 20),
    resv p 32 24]

/-- A binding of R300 is already held. -/
def State.bindingHeld (s : State) (bt : Bool) (trees : Nat) : Bool :=
  s.rings.any (fun e => decide (e.2.trees &&& trees ≠ 0) && (if bt then e.2.typ == rtBITTERN else e.2.typ == rtRX && e.2.omci))

def State.ringCreate (s : State) (p : List Byte) : State × Resp :=
  let r := leAt p 0 2
  let ty := byteAt p 2
  let fl := byteAt p 3
  let q := leAt p 6 2
  let trees := leAt p 20 12
  match ringCreateFault p with
  | some x => (s, x)
  | none =>
    match firstFault [
      s.ringsOff, (decide (s.rstate r ≠ rgUNCREATED), conflict (s.rstate r)),
      (decide (q ≠ 0xFFFF) && !s.flag F.IRQ_EQ_STATUS.CREATED q, conflict 0xFB),
      ((decide (ty = rtBITTERN) || bit fl 3) && s.bindingHeld (decide (ty = rtBITTERN)) trees, conflict 0xFD)] with
    | some x => (s, x)
    | none =>
      let ring : Ring := { Ring.reset with
        typ := ty, cutThrough := bit fl 1, eventAll := bit fl 2, omci := bit fl 3, sizeLog2 := byteAt p 4, bufCode := byteAt p 5,
        evq := q, base := leAt p 8 8, rxHold := leAt p 16 2, reasons := leAt p 18 2, trees := trees, lastDone := 2 ^ byteAt p 4 - 1 }
      let s1 := [F.DB_HEAD.HEAD, F.DB_HEAD.TAIL, F.DB_STATUS.IDLE, F.DB_STATUS.ERR_CAUSE, F.DB_STATUS.HOLDING, F.DB_NO_DESC.COUNT,
        F.DB_NO_FIT.COUNT, F.DB_PARTIAL.COUNT, F.DB_NOCELL.COUNT, F.DB_DISABLE_DROP.COUNT, F.DB_EARLY.COUNT, F.DB_DONE.COUNT].foldl
        (fun s f => s.wr f r 0) (s.setRing r ring)
      let s2 := s1.ringState r (if bit fl 0 then rgRUNNING else rgREADY)
      (s2, okWith (leBytes 2 r ++ leBytes 1 (s2.rstate r) ++ zeros 1 ++ leBytes 4 (dbOffset r)))

/-- RING_CREATE (R309). -/
def execRingCreate (src : Src) (s : State) : Res := .next (s.calvan src 0x0101 false false (atOnce State.ringCreate))

/-- Frames waiting for a ring are dropped, their cells released. -/
def State.dropWaiting (s : State) (r : Nat) (count : Bool) : State :=
  let l := (s.ring r).rx
  let s1 := (l.foldl (fun s f => s.freeCells f.cell) (s.setRing r { s.ring r with rx := [] })).wr F.DB_STATUS.HOLDING r 0
  if count then s1.incWrap F.DB_DISABLE_DROP.COUNT r l.length else s1

/-- A ring enters IDLE and shows it (R311). -/
def State.ringIdle (s : State) (r : Nat) : State := (s.wr F.DB_STATUS.IDLE r 1).ringState r rgIDLE

/-- The entry a failed read stopped (R311): without its fragment table it completes BUS_ERR; one not read at all is passed by
with OWN 1. -/
def State.settleFailed (s : State) (r : Nat) : State :=
  let x := s.ring r
  match x.failed with
  | none => s
  | some (i, true) =>
    ((s.setRing r { x with failed := none, tx := x.tx ++ [⟨i, none, false, false⟩] }).advanceHead r).txFail r i txBUS_ERR
  | some (_, false) => (s.setRing r { x with failed := none }).advanceHead r

/-- RING_DISABLE MODE 0 on a RUNNING or ERROR ring (R282, R311): the entries given are outstanding work. -/
def State.drain (s : State) (r : Nat) : State :=
  let s1 := (s.setRing r { s.ring r with drainTail := some (s.rd F.DB_HEAD.TAIL r) }).ringState r rgDRAINING
  let s2 := s1.settleFailed r
  if (s.ring r).typ = rtRX ∨ (s.ring r).typ = rtBITTERN then s2.dropWaiting r true else s2

/-- The ring starts or resumes (R282). -/
def State.resume (s : State) (r : Nat) : State :=
  ((s.setRing r { s.ring r with drainTail := none, early := none }).wr F.DB_STATUS.IDLE r 0).ringState r rgRUNNING

/-- The response of RING_DISABLE and RING_DESTROY (R310). -/
def State.ringRsp (s : State) (r : Nat) : Resp := okWith (leBytes 1 (s.rstate r) ++ zeros 1 ++ leBytes 2 (s.rd F.DB_HEAD.HEAD r))

def State.ringDisable : Body := fun s src p =>
  let r := leAt p 0 2
  let on := byteAt p 2 == 1
  let st := s.rstate r
  match firstFault [
    (decide (r > 4095), badArg 0), (decide (byteAt p 2 > 1), badArg 2), resv p 3 53, s.ringsOff,
    (decide (r = 0 ∧ src = .admin) && !on, conflict 0xFE),
    (if on then decide (st = rgUNCREATED ∨ st = rgDRAINING ∨ st = rgERROR) else decide (st = rgUNCREATED), conflict st)] with
  | some x => (s, some x)
  | none =>
    let s1 := if on then (if st = rgRUNNING then s else s.resume r)
      else if st = rgREADY then s.ringIdle r
      else if st = rgRUNNING ∨ st = rgERROR then s.drain r
      else s
    (s1, some (s1.ringRsp r))

/-- RING_DISABLE (R282, R310, R311). -/
def execRingDisable (src : Src) (s : State) : Res := .next (s.calvan src 0x0103 false false State.ringDisable)

/-- Frames a destroyed ring gave have no completion any more. -/
def State.disown (s : State) (r : Nat) : State :=
  let o : Origin → Origin := fun x => match x with
    | .host r' i => if r' = r then .trunk else .host r' i
    | .trunk => .trunk
  let us := fun (f : UsFrame) => { f with origin := o f.origin }
  { s with
    trees := s.trees.map (fun e => (e.1, { e.2 with
      staged := e.2.staged.map (fun (f : Staged) => { f with origin := o f.origin }),
      inFlight := e.2.inFlight.map (fun w => { w with frame := { w.frame with origin := o w.frame.origin } }) })),
    buf := { s.buf with
      queues := s.buf.queues.map (fun e => (e.1, { e.2 with frames := e.2.frames.map (fun (f : DeepFrame) => { f with origin := o f.origin }) })),
      ingress := s.buf.ingress.map (fun i => { i with origin := o i.origin }),
      egress := s.buf.egress.map (fun e => (e.1, { e.2 with brine := e.2.brine.map us, toSpill := e.2.toSpill.map us, spill := e.2.spill.map us })) } }

def State.ringDestroy : Body := fun s src p =>
  let r := leAt p 0 2
  let st := s.rstate r
  match firstFault [
    (decide (r > 4095), badArg 0), resv p 2 54, s.ringsOff, (decide (r = 0 ∧ src = .admin), conflict 0xFE),
    (decide (st ≠ rgREADY ∧ st ≠ rgIDLE ∧ st ≠ rgERROR), conflict st)] with
  | some x => (s, some x)
  | none =>
    let s1 := ((s.dropWaiting r false).disown r).setRing r Ring.reset
    let s2 := ((s1.wr F.DB_STATUS.IDLE r 0).wr F.DB_STATUS.ERR_CAUSE r 0).ringState r rgUNCREATED
    (s2, some (s2.ringRsp r))

/-- RING_DESTROY (R310). -/
def execRingDestroy (src : Src) (s : State) : Res := .next (s.calvan src 0x0102 false false State.ringDestroy)

def State.hostSleepNotice (s : State) (p : List Byte) : State × Resp :=
  match firstFault [(decide (byteAt p 0 > 1), badArg 0), resv p 1 55] with
  | some r => (s, r)
  | none =>
    let wake := (List.range 2048).filter (fun v => s.flag F.IRQ_VEC_CFG.WAKE v)
    let s1 := { s with hostSleep := decide (byteAt p 0 = 1) }
    let s2 := if s1.hostSleep then wake.foldl (fun s v => if s.flag F.IRQ_VEC_STATE.TIMING v then s.fire v else s) s1 else s1
    (s2, okWith (leBytes 2 wake.length))

/-- HOST_SLEEP_NOTICE (R306). -/
def execHostSleepNotice (src : Src) (s : State) : Res := .next (s.calvan src 0x0002 false false (atOnce State.hostSleepNotice))

/-! ### Doorbells (R284 to R286) -/

/-- A doorbell is applied (R283, R286). -/
def State.applyDoorbell (s : State) (d : PendingDb) : State :=
  let r := d.ring
  let st := s.rstate r
  if st = rgUNCREATED then s.irqStatus F.IRQ_STATUS.DB_STRAY
  else if d.tail ≥ s.rsize r then s.ringError r 1
  else
    let s1 := (s.wr F.DB_HEAD.TAIL r d.tail).setRing r
      { s.ring r with early := none, badRead := (s.ring r).badRead || d.badRead, badWrite := (s.ring r).badWrite || d.badWrite }
    if r = 0 then s1.pumpAll else s1

/-- A write of DB_TAIL (R286): while the host rings domain is not ON the write waits, and wakes it. -/
def State.writeDoorbell (s : State) (r v : Nat) (bus : Nat) : State :=
  let d : PendingDb := ⟨r, bits v 0 16, bit bus 0, bit bus 1⟩
  if s.on 53 then s.applyDoorbell d
  else (s.putDoorbells (s.doorbells ++ [d])).wake 53 4 127

/-- DOORBELL (R286): never recorded as an access to a domain not ON (R32). `bus` [0]: the host does not answer the next read of
an entry of the ring after its retries; [1]: nor the next write of a completion or response (R283). -/
def execDoorbell (port : PortId) (ring : RingId) (v : BitVec 32) (bus : Fin 4) (s : State) : Res :=
  .next (s.winWrite port (dbOffset ring) true (fun s => s.writeDoorbell ring v.toNat bus))

/-- Doorbells that waited are applied in order of writing (R286). -/
def State.replayDoorbells (s : State) : State :=
  s.doorbells.foldl (fun s d => s.applyDoorbell d) (s.putDoorbells [])

/-! ### TX descriptors (R287 to R290, R295 to R297, R299) -/

/-- A TX descriptor's fields (R287). -/
structure TxDesc where
  addr : Nat
  len : Nat
  nfrag : Nat
  flags : Nat
  aux : Nat
  tree : Nat
  dest : Nat
  cls : Nat
  term : Nat
  port : Nat

def txDesc (d : List Byte) : TxDesc :=
  ⟨leAt d 0 8, leAt d 8 4, leAt d 12 2, leAt d 14 2, leAt d 16 8, byteAt d 24, bits (byteAt d 25) 0 2, bits (byteAt d 25) 2 3, leAt d 26 2, leAt d 28 2⟩

/-- The flags of a descriptor. -/
def TxDesc.indirect (x : TxDesc) : Bool := bit x.flags 0
def TxDesc.addFcs (x : TxDesc) : Bool := bit x.flags 1
def TxDesc.oneStep (x : TxDesc) : Bool := bit x.flags 2
def TxDesc.launch (x : TxDesc) : Bool := bit x.flags 3

/-- The fragments of an entry: address and length (R287). -/
def State.fragments (s : State) (x : TxDesc) : List (Nat × Nat) :=
  if x.indirect then (List.range x.nfrag).map (fun k => (leAt (s.hostRead (x.addr + 16 * k) 8) 0 8, leAt (s.hostRead (x.addr + 16 * k + 8) 4) 0 4))
  else [(x.addr, x.len)]

/-- Length under R7 with the FCS the complex adds. -/
def TxDesc.frameLen (x : TxDesc) : Nat := x.len + (if x.addFcs ∧ x.dest ≠ 3 then 4 else 0)

/-- A reserved bit set or a field out of range (R287, R288, R296, R297). -/
def State.badDesc (s : State) (d : List Byte) (x : TxDesc) : Bool :=
  decide (x.len = 0 ∨ x.len > 16384) || decide (x.flags ≥ 128) ||
  (if x.indirect then decide (x.nfrag = 0 ∨ x.nfrag > 256 ∨ x.addr % 16 ≠ 0) else decide (x.nfrag ≠ 0)) ||
  (if x.launch then decide (x.dest ≥ 2) else if x.dest = 2 then decide (x.aux ≥ 2 ^ 36) else decide (x.aux ≠ 0)) ||
  decide (x.tree > 95) || decide (byteAt d 25 > 31) || (x.dest != 1 && decide (x.term > if x.dest = 3 then 1022 else 1023)) ||
  decide (byteAt d 30 ≠ 0 ∨ byteAt d 31 ≠ 0x80) || (x.dest == 3 && decide (x.len < 16 ∨ x.len > 2048)) ||
  (x.indirect && ((s.fragments x).any (fun g => decide (g.2 = 0 ∨ g.2 > 16384)) ||
    decide ((s.fragments x).foldl (fun n g => n + g.2) 0 ≠ x.len) ||
    (List.range x.nfrag).any (fun k => !(s.hostRead (x.addr + 16 * k + 12) 4).all (· == 0#8))))

/-- The status with which an entry completes at once when it is read (R66, R287 to R289, R296, R297). -/
def State.txRefusal (s : State) (d : List Byte) (x : TxDesc) : Option Nat :=
  let st := s.tstate x.tree
  let at_ := s.shortTuple x.aux
  if s.badDesc d x then some txBAD_DESC
  else if x.dest ≠ 2 ∧ (st = trDORMANT ∨ st = trSTANDBY) then some txTREE_IDLE
  else if x.dest ≠ 2 ∧ (st = trDISABLED ∨ st = trFAULT) then some txTREE_DOWN
  else if x.launch ∧ at_.isNone then some txBAD_TIME
  else if x.launch ∧ at_.any (fun l => decide (l > s.tide + (max 1 (s.rd F.TB_LAUNCH.HORIZON 0) : Nat) * frameTicks)) then some txLAUNCH_FAR
  else if x.dest = 0 ∧ !(s.flow x.tree x.port).any (fun f => f.term == x.term) then some txNO_PORT
  else if x.dest = 2 ∧ x.frameLen ≤ 63 then some txRUNT
  else if x.dest = 2 ∧ x.frameLen ≥ 16001 then some txOVERSIZE
  else none

/-- The frame an entry carries, with its FCS and the checksums asked for (R297, R307); the Boolean says that a checksum
could not be inserted. -/
def State.txFrame (s : State) (x : TxDesc) : List Byte × Bool :=
  let raw := (s.fragments x).flatMap (fun g => s.hostRead g.1 g.2)
  if x.dest = 3 then (raw, false)
  else
    let f := if x.addFcs then raw ++ fcsOf raw else raw
    let want4 := bit x.flags 4
    let wantL4 := bit x.flags 5 && !(x.oneStep && (ptpSync f).isSome)
    let a := if want4 then insertIp4 f else some f
    let b := a.bind (fun g => if wantL4 then insertL4 g else some g)
    match b with
    | some g => (if want4 ∨ wantL4 then refcs g else g, false)
    | none => (f, true)

/-- Launch frames a tree holds (R67). -/
def State.launchHeld (s : State) (t : Nat) : Nat :=
  ((s.tree t).staged.filter (fun f => f.launch.isSome)).length + (s.buf.ingress.filter (fun i => i.tree == t && i.launch.isSome)).length

/-- An entry already taken goes to its destination (R288); none while it must wait for host cells or launch room (R67,
R299). A UsFrame of a host ring has no flow port: bit 16 of the field says CSUM_SKIP. -/
def State.txGo (s : State) (r i : Nat) (x : TxDesc) : Option State :=
  if x.launch ∧ s.launchHeld x.tree ≥ 256 then none
  else
    let (bytes, skip) := s.txFrame x
    match s.takeCells 2 (cellsOf bytes.length) with
    | none => none
    | some (id, s1) =>
      let st := s.stamp
      let info := if st.valid then st.epoch + st.dom * 16 + 32 else 0
      let launch := if x.launch then s.shortTuple x.aux else none
      let flags := x.flags + (if skip then 2 ^ 15 else 0)
      let s2 := s1.setRing r { s1.ring r with tx := (s1.ring r).tx.map (fun y => if y.idx = i ∧ y.done = none then { y with waits := false, held := x.launch } else y) }
      let origin := Origin.host r i
      let tr := s2.tree x.tree
      some (
        if x.dest = 1 then
          s2.setBuf (fun b => { b with ingress := b.ingress ++ [⟨0, 0, 0, x.tree, bytes, id, origin, flags, launch, st.ns, info⟩] })
        else if x.dest = 2 then
          s2.toEgress ⟨x.tree, x.term, bits x.aux 24 12, if skip then 2 ^ 16 else 0, bits x.aux 0 24, x.cls, false, false, st.valid, st.ns, info, bytes, id, origin⟩
        else s2.setTree x.tree { tr with staged := tr.staged ++ [⟨x.term, x.cls, x.port, bytes, origin, flags, launch, x.dest == 3, id, st.ns, info⟩] })

/-- An entry taken is sent on, or waits. -/
def State.txTry (s : State) (r i : Nat) (busErr : Bool) : State :=
  let x := txDesc (s.hostRead (s.entryAddr r i) 32)
  if busErr then s.txFail r i txBUS_ERR
  else
    match s.txGo r i x with
    | some s' => s'
    | none => s.setRing r { s.ring r with tx := (s.ring r).tx.map (fun y => if y.idx = i ∧ y.done = none then { y with waits := true } else y) }

/-- A descriptor cache word is read (R250, R251): one that cannot be corrected is read again from host memory. -/
def State.descRead (s : State) : State :=
  let here := s.upsets.filter (fun u => u.mem == 10)
  (here.foldl (fun s u => if upsetSeen u = .corrected then s.corrected 137
    else if upsetSeen u = .uncorrectable then s.logUe 10 u.inst 0 u.addr else s) s).rewrite (fun u => u.mem == 10)

/-- TX_DESCRIPTOR (R287 to R289): the next entry of a TX ring is read, with words of the descriptor cache that hold errors by
now. `bus` 1: it could not be read, 3: its fragment table could not (R283); 2: its payload could not (R296). -/
def execTxDescriptor (ring : RingId) (bus : Fin 4) (errs : List Upset) (s : State) : Res :=
  .next (let s := s.upset errs
  if (s.ring ring).typ ≠ rtTX ∨ !s.on 53 ∨ (s.ring ring).tx.any (fun y => y.waits || y.held) then s
  else
    match s.nextEntry ring with
    | none => s
    | some i =>
      if bus = 1 ∨ (s.ring ring).badRead then s.readFailed ring false
      else
        let d := s.hostRead (s.entryAddr ring i) 32
        let s0 := s.descRead.blockEvent 101 0x01 1
        if !bit (byteAt d 31) 7 then s0.foundEarly ring i
        else if bus = 3 ∧ (txDesc d).indirect then s0.readFailed ring true
        else
          let s1 := (s0.setRing ring { s0.ring ring with tx := (s0.ring ring).tx ++ [⟨i, none, false, false⟩] }).advanceHead ring
          match s1.txRefusal d (txDesc d) with
          | some status => s1.txFail ring i status
          | none => s1.txTry ring i (bus == 2))

/-- TX_WAIT_RESUME (R67, R299): the entry that waits is tried again. -/
def execTxWaitResume (ring : RingId) (busErr : Bool) (s : State) : Res :=
  .next (match (s.ring ring).tx.find? (fun y => y.waits) with
  | none => s
  | some y => if s.on 53 then s.txTry ring y.idx busErr else s)

/-! ### Receive (R298, R299) -/

/-- The frame at the head of a ring's waiting frames leaves them. -/
def State.popRx (s : State) (r : Nat) : State := (s.setRing r { s.ring r with rx := (s.ring r).rx.drop 1 }).wr F.DB_STATUS.HOLDING r 0

/-- A cut-through ring writes what buffers it has and ends the frame with PARTIAL_ABORT (R298). -/
def State.rxPartial (s : State) (r : Nat) (f : RxFrame) : Nat → Nat → State
  | 0, _ => s
  | n + 1, k =>
    let size := (s.ring r).bufSize
    let i := s.rd F.DB_HEAD.HEAD r
    let part := (f.bytes.drop (k * size)).take size
    let s1 := (s.hostWrite (leAt (s.hostRead (s.entryAddr r i) 8) 0 8) part).advanceHead r
    (s1.writeCompletion r i (rxCompletion f part.length txPARTIAL_ABORT (k == 0) (n == 0)) false).rxPartial r f n (k + 1)

/-- A frame is delivered by a cut-through ring (R298): the buffers it finds decide; an uncorrectable cell ends it after the
first buffer. -/
def State.cutThrough (s : State) (r : Nat) (f : RxFrame) (bad : Bool) : State :=
  let need := s.rxNeeds r f.bytes.length
  let (n, s1) := s.rxFind r need
  if n = 0 then ((s1.popRx r).freeCells f.cell).incWrap F.DB_NO_DESC.COUNT r 1
  else if bad then (((s1.popRx r).rxPartial r f 1 0).freeCells f.cell)
  else if n < need then (((s1.popRx r).rxPartial r f n 0).freeCells f.cell).incWrap F.DB_PARTIAL.COUNT r 1
  else (s1.popRx r).rxWrite r f

/-- RX_DELIVER (R298): the frame ready longest is claimed and written, waits, or is dropped; with words of the brine pool that
hold errors by now. -/
def execRxDeliver (ring : RingId) (busErr : Bool) (errs : List Upset) (s : State) : Res :=
  .next (let s := s.upset errs
  match (s.ring ring).rx with
  | [] => s
  | f :: rest =>
    if !s.on 53 ∨ s.rstate ring ≠ rgRUNNING then s
    else if busErr then (((s.popRx ring).freeCells f.cell)).ringError ring 3
    else
      match s.cellRead f.cell with
      | (bad, s0) =>
        if (s.ring ring).cutThrough then s0.cutThrough ring f bad
        else if bad then (s0.popRx ring).freeCells f.cell
        else
          let need := s0.rxNeeds ring f.bytes.length
          if need > s0.rsize ring - 1 then ((s0.popRx ring).freeCells f.cell).incWrap F.DB_NO_FIT.COUNT ring 1
          else
            match s0.rxClaim ring need with
            | (true, s1) => (s1.popRx ring).rxWrite ring f
            | (false, s1) =>
              (s1.setRing ring { s1.ring ring with rx := { f with tried := some (f.tried.getD s.tb.ctc) } :: rest }).wr F.DB_STATUS.HOLDING ring 1)

/-- Whether a frame was first tried RX_HOLD µs ago (R298), by the CTC in 2^-32 ns. -/
def State.heldLong (s : State) (ring : Nat) (f : RxFrame) : Bool :=
  f.tried.any (fun c => decide ((s.tb.ctc + 2 ^ 96 - c) % 2 ^ 96 ≥ (s.ring ring).rxHold * 1000 * 2 ^ 32))

/-- RX_HOLD_EXPIRE (R298): the frame that waits still cannot be claimed RX_HOLD µs after its first try. -/
def execRxHoldExpire (ring : RingId) (s : State) : Res :=
  .next (match (s.ring ring).rx with
  | f :: _ =>
    if !s.heldLong ring f ∨ (s.rxClaim ring (s.rxNeeds ring f.bytes.length)).1 then s
    else ((s.popRx ring).freeCells f.cell).incWrap F.DB_NO_DESC.COUNT ring 1
  | [] => s)

/-- RING_IDLE (R282, R311): a DRAINING ring has no outstanding work left. -/
def execRingIdle (ring : RingId) (s : State) : Res :=
  .next (let x := s.ring ring
  let given := decide (x.typ = rtTX ∨ x.typ = rtADMIN ∨ x.typ = rtFORECAST) && decide (s.rd F.DB_HEAD.HEAD ring ≠ s.ringEnd ring)
  if s.on 53 ∧ s.rstate ring = rgDRAINING ∧ x.tx = [] ∧ x.rx = [] ∧ !given then s.ringIdle ring else s)

/-! ### Event queues and vectors (R301 to R305) -/

/-- The 16 bytes of an event entry (R301). -/
def EvEntry.bytes (e : EvEntry) (phase : Nat) (st : Stamp) : List Byte :=
  leBytes 2 e.ring ++ leBytes 2 e.index ++ leBytes 2 e.count ++ leBytes 1 (b2n e.state.isSome) ++
  leBytes 1 (phase + e.state.getD 0 * 2) ++ leBytes 4 st.ns ++ leBytes 1 (st.epoch + st.dom * 16) ++ zeros 3

/-- Whether some queue is in OVERFLOW (R313). -/
def State.anyOverflow (s : State) : Bool := (List.range 256).any (fun q => s.flag F.IRQ_EQ_STATUS.OVERFLOW q)

/-- A posting finds the queue full (R302). -/
def State.evOverflow (s : State) (q ring : Nat) : State :=
  let s1 := ((s.wr F.IRQ_EQ_STATUS.OVERFLOW q 1).setSummary ring).fire (s.evq q).vector
  if s.anyOverflow then s1 else s1.srcEvent 231

/-- EVENT_POST (R301, R302): the entry waiting longest is written, or the queue overflows. -/
def execEventPost (q : EvqId) (busErr : Bool) (s : State) : Res :=
  .next (match (s.evq q).waiting with
  | [] => s
  | e :: rest =>
    if !s.on 53 then s
    else
      let s0 := s.setEvq q { s.evq q with waiting := rest }
      let size := 2 ^ (s.evq q).sizeLog2
      let tail := s.rd F.IRQ_EQ_TAIL.TAIL q
      if s.flag F.IRQ_EQ_STATUS.OVERFLOW q then s0.setSummary e.ring
      else if (tail + 1) % size = s.rd F.IRQ_EQ_HEAD.HEAD q then s0.evOverflow q e.ring
      else if busErr then s0
      else
        let phase := s.rd F.IRQ_EQ_TAIL.PHASE q
        let s1 := s0.hostWrite ((s.evq q).base + tail * 16) (e.bytes phase s.stamp)
        let s2 := s1.wr F.IRQ_EQ_TAIL.TAIL q ((tail + 1) % size)
        let s3 := if tail + 1 = size then s2.wr F.IRQ_EQ_TAIL.PHASE q (1 - phase) else s2
        (s3.blockEvent 101 0x03 1).vecEvent (s.evq q).vector)

/-- EQ_OVERFLOW_CLEAR (R302): a write of IRQ_EQ_STATUS. -/
def execEqOverflowClear (port : PortId) (q : EvqId) (v : BitVec 32) (s : State) : Res :=
  .next (s.winWrite port (0x31008 + q * 0x10) (s.on 53) (fun s => s.writeFields [F.IRQ_EQ_STATUS.OVERFLOW] q v.toNat))

/-- VECTOR_TIMER (R305): a running timer expires. -/
def execVectorTimer (vec : VecId) (s : State) : Res := .next (if s.flag F.IRQ_VEC_STATE.TIMING vec then s.fire vec else s)

/-- A write of IRQ_VEC_CFG (R305, R313): an unmask with PEND set sends the message at once. -/
def State.writeVecCfg (s : State) (v x : Nat) : State :=
  let s1 := s.writeFields [F.IRQ_VEC_CFG.CNT, F.IRQ_VEC_CFG.TMR, F.IRQ_VEC_CFG.MASK, F.IRQ_VEC_CFG.AUTOMASK, F.IRQ_VEC_CFG.WAKE] v x
  if s.flag F.IRQ_VEC_CFG.MASK v ∧ !s1.flag F.IRQ_VEC_CFG.MASK v ∧ s1.flag F.IRQ_VEC_STATE.PEND v then
    ((s1.wr F.IRQ_VEC_STATE.PEND v 0).fired v).overflowEvent (s.flag F.PMC_EVENT.CNT_OVF 0)
  else s1

/-- VECTOR_UNMASK (R305). -/
def execVectorUnmask (port : PortId) (vec : VecId) (v : BitVec 32) (s : State) : Res :=
  .next (s.winWrite port (0x38000 + vec * 8) true (fun s => s.writeVecCfg vec v.toNat))

end Sys2Proof.Machine
end

