-- ==== Sys2Proof/Machine/PanOps.lean ====
section
/-! DEFINITION. Pan engines' shared operations (06_pan_engines.md): microword fields (R190), the ALU (R192), conditions
(R193), image bodies and their checks (R211, R212), engine states (R208), faults (R206), routines, staging, abandon and
restart (R197 to R204), and the sampler (R215, R460). -/

namespace Sys2Proof.Machine

def State.eng (s : State) (e : Nat) : Engine := smGet Engine.reset s.engs (e, 0)
def State.setEng (s : State) (e : Nat) (x : Engine) : State := { s with engs := smSet Engine.reset s.engs (e, 0) x }

/-- Engine state codes of R208. -/
def esOFF : Nat := 0
def esHALTED : Nat := 1
def esLOADING : Nat := 2
def esDISPATCH : Nat := 3
def esSERVICE : Nat := 4
def esFAULTED : Nat := 5
def State.est (s : State) (e : Nat) : Nat := s.rd F.PE_STATUS.STATE e

/-- PE_EVENT bits count on source 96 + e (R304). -/
def State.peEvent (s : State) (e : Nat) (f : Fld) : State := s.raiseEn f e F.PE_EVENT_EN.EN (96 + e)

/-! ### Microword fields (R190) -/

def mwSEQ (w : Nat) : Nat := bits w 124 4
def mwCOND (w : Nat) : Nat := bits w 119 5
def mwTARGET (w : Nat) : Nat := bits w 106 13
def mwALU (w : Nat) : Nat := bits w 100 6
def mwDST (w : Nat) : Nat := bits w 95 5
def mwSRCA (w : Nat) : Nat := bits w 90 5
def mwSRCB (w : Nat) : Nat := bits w 85 5
def mwBIMM (w : Nat) : Bool := bit w 84
def mwWB (w : Nat) : Bool := bit w 83
def mwFLAGS (w : Nat) : Bool := bit w 82
def mwAPOS (w : Nat) : Nat := bits w 79 3
def mwMOP (w : Nat) : Nat := bits w 72 4
def mwPORT (w : Nat) : Nat := bits w 68 4
def mwMREG (w : Nat) : Nat := bits w 63 5
def mwMOFF (w : Nat) : Nat := bits w 48 15
def mwEVT (w : Nat) : Nat := bits w 40 8
def mwIMM (w : Nat) : Nat := bits w 0 32

/-- A microword with a code that R191 to R194 make a routine fault, in any engine state (check 0x23 of R212). -/
def mwBadCode (w : Nat) : Bool :=
  decide (mwSEQ w ≥ 10) || decide (mwALU w ≥ 0x18) || decide (mwMOP w ≥ 7) ||
  (decide (0x10 ≤ mwALU w ∧ mwALU w ≤ 0x12) && decide (mwAPOS w > 4)) ||
  ((mwSEQ w == 2 || mwSEQ w == 3 || mwSEQ w == 6) &&
    (decide (mwCOND w ≥ 15) || ((mwCOND w == 12 || mwCOND w == 13) && decide (mwPORT w ≥ 11))))

/-- A microword that is a routine fault where it executes: a bad code, or a MOP on a reserved port (R195). -/
def mwIllegal (w : Nat) : Bool := mwBadCode w || (decide (3 ≤ mwMOP w ∧ mwMOP w ≤ 6) && decide (mwPORT w ≥ 11))

/-! ### The ALU (R188, R192) -/

def w64 : Nat := 2 ^ 64

/-- Z, N, C and V as a flag word. -/
def flagWord (z n c v : Bool) : Nat := b2n z + 2 * b2n n + 4 * b2n c + 8 * b2n v

/-- Flags of a logical result: Z and N from it, C and V clear. -/
def logicFlags (r : Nat) : Nat := flagWord (r == 0) (bit r 63) false false

/-- Flags of A - B: borrow and signed overflow. -/
def subFlags (a b : Nat) : Nat :=
  let r := (a + w64 - b) % w64
  flagWord (r == 0) (bit r 63) (decide (a < b)) (bit a 63 != bit b 63 && bit r 63 != bit a 63)

/-- Atom k of a register (R188). -/
def atom (x k : Nat) : Nat := bits x (12 * k) 12

/-- A number with bits [lo+w-1:lo] replaced. -/
def putBits (x lo w v : Nat) : Nat := x - (bits x lo w) * 2 ^ lo + (v % 2 ^ w) * 2 ^ lo

/-- Count of 1 bits. -/
def popCount (x n : Nat) : Nat := ((List.range n).filter (fun i => bit x i)).length

/-- Leading zeros of 64 bits. -/
def leadZeros (x : Nat) : Nat := if x = 0 then 64 else 63 - Nat.log2 x

/-- The width of a BFX or BFI field: w = B[13:8], 0 meaning 64, cut at bit 63. -/
def fieldWidth (b : Nat) : Nat := min (if bits b 8 6 = 0 then 64 else bits b 8 6) (64 - bits b 0 6)

/-- What an ALU operation gives: the result where one is written, and the flags. -/
structure AluOut where
  val : Option Nat
  flags : Nat
  deriving DecidableEq, Repr

/-- The ALU (R192). `old` is DST's old value; `c` the C flag that SADD40 leaves, which the spec does not state. -/
def alu (op apos a b old c : Nat) : AluOut :=
  let log := fun r => (⟨some r, logicFlags r⟩ : AluOut)
  match op with
  | 0x01 => log b
  | 0x02 =>
    let r := (a + b) % w64
    ⟨some r, flagWord (r == 0) (bit r 63) (decide (a + b ≥ w64)) (bit a 63 == bit b 63 && bit r 63 != bit a 63)⟩
  | 0x03 => ⟨some ((a + w64 - b) % w64), subFlags a b⟩
  | 0x04 => log (a &&& b)
  | 0x05 => log (a ||| b)
  | 0x06 => log (a ^^^ b)
  | 0x07 => log (a &&& (b ^^^ (w64 - 1)))
  | 0x08 => log ((a <<< (b % 64)) % w64)
  | 0x09 => log (a >>> (b % 64))
  | 0x0A => log (ofSigned 64 (toSigned 64 a / (2 ^ (b % 64) : Nat)))
  | 0x0B => log ((a <<< (b % 64)) % w64 + a >>> (64 - b % 64))
  | 0x0C => ⟨none, subFlags a b⟩
  | 0x0D => log (if toSigned 64 a ≤ toSigned 64 b then a else b)
  | 0x0E => log (if toSigned 64 a ≥ toSigned 64 b then a else b)
  | 0x0F => log (bits a 0 32 * bits b 0 32)
  | 0x10 => log (atom a apos)
  | 0x11 => log (putBits a (12 * apos) 12 (bits b 0 12))
  | 0x12 => ⟨none, subFlags (atom a apos) (bits b 0 12)⟩
  | 0x13 => log (popCount a 64)
  | 0x14 => log (leadZeros a)
  | 0x15 => log (bits a (bits b 0 6) (fieldWidth b))
  | 0x16 => log (putBits a (bits b 0 6) (fieldWidth b) old)
  | 0x17 =>
    let x := toSigned 64 a + toSigned 64 b
    let r := ofSigned 64 (satSigned 40 x)
    ⟨some r, flagWord (r == 0) (bit r 63) (c % 2 == 1) (decide (satSigned 40 x ≠ x))⟩
  | _ => ⟨none, 0⟩

/-- Whether a condition holds (R193): flags, the port observed, and the number of staged effects. -/
def condHolds (cond flags staged : Nat) (port : Bool) : Bool :=
  let z := bit flags 0
  let n := bit flags 1
  let c := bit flags 2
  let v := bit flags 3
  match cond with
  | 0 => true
  | 1 => z
  | 2 => !z
  | 3 => n
  | 4 => !n
  | 5 => c
  | 6 => !c
  | 7 => v
  | 8 => n != v
  | 9 => n == v
  | 10 => z || n != v
  | 11 => !z && n == v
  | 12 => port
  | 13 => port
  | 14 => staged == 16
  | _ => false

/-! ### Image bodies (R211, R212) -/

/-- A directory entry of an image body. -/
structure Section where
  typ : Nat
  flags : Nat
  off : Nat
  len : Nat
  crc : Nat
  deriving DecidableEq, Repr

/-- The directory of a body. -/
def sections (body : List Byte) : List Section :=
  (List.range (leAt body 0 4)).map (fun i =>
    let o := 4 + 16 * i
    ⟨leAt body o 2, leAt body (o + 2) 2, leAt body (o + 4) 4, leAt body (o + 8) 4, leAt body (o + 12) 4⟩)

/-- The bytes of a section type, none where the body has no such section. -/
def sectionOf (body : List Byte) (t : Nat) : Option (List Byte) :=
  ((sections body).find? (fun x => x.typ == t)).map (fun x => (body.drop x.off).take x.len)

/-- Little-endian words of n bytes. -/
def leWords (n : Nat) (p : List Byte) : List Nat := (List.range (p.length / n)).map (fun i => leAt p (n * i) n)

/-- The microaddresses that may follow one on a path, with whether the path is then in its tail; none from END, HALT, or
a COMMIT in a tail (R212). -/
def mwNext (words rets : List Nat) (a : Nat) (tail : Bool) : List (Nat × Bool) :=
  let w := words.getD a 0
  match mwSEQ w with
  | 0 => [(a + 1, tail)]
  | 1 => [(mwTARGET w, tail)]
  | 2 => [(mwTARGET w, tail), (a + 1, tail)]
  | 3 => [(mwTARGET w, tail), (a + 1, tail)]
  | 4 => [(mwTARGET w, tail)]
  | 5 => rets.map (fun r => (r, tail))
  | 6 => [(a + 1, tail)]
  | 7 => if tail then [] else [(a + 1, true)]
  | _ => []

/-- The (microaddress, tail) pairs that paths from some starts reach (R212). -/
def reach (words rets : List Nat) : Nat → List (Nat × Bool) → List (Nat × Bool) → List (Nat × Bool)
  | 0, seen, _ => seen
  | n + 1, seen, front =>
    let new := (front.flatMap (fun x => mwNext words rets x.1 x.2)).foldl
      (fun acc x => if x.1 < words.length && !seen.contains x && !acc.contains x then acc ++ [x] else acc) []
    if new = [] then seen else reach words rets n (seen ++ new) new

/-- The first check of R212 that refuses a pan-engine image body of a kind (2 and 3 tree images, 4 Sluice image). The
length of a LATENCY section is the image ABI's, which the spec withholds: any is taken. -/
def imageCheck (kind : Nat) (body : List Byte) : Option Nat :=
  let treeImg := decide (kind ≠ 4)
  let slots := if treeImg then 32 else 64
  let dn := if treeImg then 120 else 240
  let secs := sections body
  let allowed : List Nat := [1, 2, 3, 4, 5, 7] ++ (if treeImg then [6] else [])
  let needed : List Nat := [1, 2, 3, 5] ++ (if treeImg then [6] else [])
  let lenOk := fun (x : Section) =>
    match x.typ with
    | 1 => x.len % 16 == 0
    | 2 => x.len == 4 * slots
    | 3 => x.len == 2 * dn
    | 4 => x.len % 12 == 0
    | 5 => x.len == 16 * slots
    | _ => true
  if body.length < 4 ∨ 4 + 16 * leAt body 0 4 > body.length then some 0x20
  else if needed.any (fun t => !secs.any (fun x => x.typ == t)) ∨ !decide (secs.map (fun x => x.typ)).Nodup
      ∨ secs.any (fun x => !allowed.contains x.typ || x.flags ≠ 0 || x.off % 16 ≠ 0 || decide (x.off + x.len > body.length) || !lenOk x)
    then some 0x20
  else if secs.any (fun x => crc32 ((body.drop x.off).take x.len) ≠ x.crc) then some 0x21
  else
    let words := leWords 16 ((sectionOf body 1).getD [])
    let ents := ((leWords 4 ((sectionOf body 2).getD [])).filter (fun x => bit x 15)).map (fun x => bits x 0 13)
    let disps := ((leWords 2 ((sectionOf body 3).getD [])).filter (fun x => bit x 15)).map (fun x => bits x 0 13)
    let rets := ((List.range words.length).filter (fun a => mwSEQ (words.getD a 0) == 4)).map (· + 1)
    let start := fun (l : List Nat) => ((l.filter (fun a => decide (a < words.length))).map (fun a => (a, false))).eraseDups
    let ev := reach words rets (2 * words.length + 1) (start ents) (start ents)
    let dp := reach words rets (2 * words.length + 1) (start disps) (start disps)
    let bounds := leWords 16 ((sectionOf body 5).getD [])
    if words.length > (if treeImg then 4096 else 8192) then some 0x22
    else if words.any (fun w => mwBadCode w || bits w 76 3 ≠ 0 || bits w 32 8 ≠ 0)
        ∨ ev.any (fun x => mwSEQ (words.getD x.1 0) == 9) then some 0x23
    else if (ents ++ disps).any (fun a => decide (a ≥ words.length))
        ∨ words.any (fun w => decide (1 ≤ mwSEQ w ∧ mwSEQ w ≤ 4) && decide (mwTARGET w ≥ words.length)) then some 0x24
    else if bounds.any (fun b => decide (bits b 0 16 > 16) || decide (bits b 16 16 > 4095) || decide (bits b 32 16 > 4095)
        || decide (bits b 48 16 > 8)) then some 0x25
    else if (ev ++ dp).any (fun x => x.2 && mwSEQ (words.getD x.1 0) == 7) then some 0x26
    else none

/-- Keys of a map below, or from, a limit are kept. -/
def keepKeys {α : Type} (m : SMap α) (f : Nat → Bool) : SMap α := m.filter (fun x => f x.1.1)

/-- Write a list of numbers into a map from an address on. -/
def putList (m : SMap Nat) (a : Nat) (l : List Nat) : SMap Nat :=
  (l.zipIdx).foldl (fun m p => smSet 0 m (a + p.2, 0) p.1) m

/-- The loader writes an image into a half of an engine, or a Sluice image into all of it (R187, R212). -/
def Engine.load (x : Engine) (half : Option Nat) (body : List Byte) : Engine :=
  let base := 4096 * half.getD 0
  let mine := fun a => match half with
    | some h => decide (a / 4096 = h)
    | none => true
  let words := leWords 16 ((sectionOf body 1).getD [])
  let ents := leWords 4 ((sectionOf body 2).getD [])
  let disps := leWords 2 ((sectionOf body 3).getD [])
  let init := (sectionOf body 4).getD []
  let wm := (List.range (init.length / 12)).foldl
    (fun m i => smSet 0 m (base + leAt init (12 * i) 4 % (if half.isSome then 4096 else 8192), 0) (leAt init (12 * i + 4) 8))
    (keepKeys x.wm (fun a => !mine a))
  { x with
    cs := putList (keepKeys x.cs (fun a => !mine a)) base words
    wm := wm
    entries := putList x.entries (32 * half.getD 0) ents
    disp := putList x.disp (0x78 * half.getD 0) disps }

/-! ### Engine states and faults -/

/-- A correctable control-store word (R214, R252): counted and written back. -/
def State.csCorrected (s : State) (e word : Nat) : State :=
  (((s.rewriteWord 8 e word).incSat F.PE_CS_CORR.COUNT e 1).peEvent e F.PE_EVENT.CS_CORR).corrected (9 + e)

/-- A correctable work-memory row (R189, R252): counted and written back. -/
def State.wmCorrected (s : State) (e row : Nat) : State :=
  (((s.rewriteWord 9 e row).incSat F.PE_WM_CORR.COUNT e 1).peEvent e F.PE_EVENT.WM_CORR).corrected (73 + e)

/-- An uncorrectable word of an engine's memory is logged; the rules give its record no outcome code, which is free
(log entry 15). -/
def State.logEng (s : State) (mem e addr : Nat) : State := s.tickFree.logUe mem e (s.free 2) addr

/-- An engine's running routine, pending lines and dispatch queue end. -/
def Engine.clear (x : Engine) : Engine :=
  { x with run := none, busy := [], lines := [], dq := [], todo := [], stop := false }

/-- An engine fault (R206): FAULTED, staged effects discarded, PE_FAULT recorded unless a record is held. On PE0 to PE47
both trees of the pair go into FAULT (R103). On PE48 to PE63 the unit fails with the control-store cause or, for every other
fault, the watchdog's; during its self-test that is a failed test (R177). -/
def State.engFault (s : State) (e cause uaddr : Nat) : State :=
  let s1 := s.setEng e { s.eng e with run := none, busy := [], stop := false }
  let s2 := s1.wr F.PE_STATUS.STATE e esFAULTED
  let s3 := if s.flag F.PE_FAULT.VALID e then s2
    else ((s2.wr F.PE_FAULT.CAUSE e cause).wr F.PE_FAULT.UADDR e uaddr).wr F.PE_FAULT.VALID e 1
  let s4 := s3.peEvent e F.PE_EVENT.FAULT
  if e < 48 then (s4.faultTree (2 * e) 2).faultTree (2 * e + 1) 2
  else
    let u := (e - 48) / 8
    s4.unitFail u (if s4.unitState u = 3 then 4 else if cause = 1 ∨ cause = 8 then 1 else 2)

/-- Opcodes the control processor queues as the dispatch queue has room (R207). -/
def Engine.refill (x : Engine) : Engine :=
  { x with dq := x.dq ++ x.todo.take (16 - x.dq.length), todo := x.todo.drop (16 - x.dq.length) }

/-- The test-ROM opcodes, each with operand 0. -/
def romTests : List (Nat × Nat) := [(0xF0, 0), (0xF1, 0), (0xF2, 0), (0xF3, 0)]

/-- The dispatch routines of an engine's image: the opcodes whose entries are valid (R207). -/
def Engine.dispatchTests (x : Engine) : List (Nat × Nat) :=
  ((List.range 0xF0).filter (fun op => bit (smGet 0 x.disp (op, 0)) 15)).map (fun op => (op, 0))

/-- A load of an image into an engine begins (R208, R212): a HALTED engine is LOADING; one in SERVICE goes on running its
other half's routines. -/
def State.beginLoad (s : State) (e : Nat) (l : EngLoad) : State :=
  let s1 := s.setEng e { s.eng e with loads := (s.eng e).loads ++ [l] }
  if s.est e = esHALTED then s1.wr F.PE_STATUS.STATE e esLOADING else s1

/-- The control processor takes an engine out of what it does and reloads it, for recovery and for a unit's self-test (R177,
R208, R209): LOADING, or HALTED where there is nothing to load. -/
def State.engReload (s : State) (e : Nat) (loads : List EngLoad) : State :=
  (s.setEng e { (s.eng e).clear with loads := loads, reload := loads }).wr F.PE_STATUS.STATE e
    (if loads = [] then esHALTED else esLOADING)

/-- The memories a load writes: the half of its tree, or all of them (R187, R212). -/
def EngLoad.places (l : EngLoad) : List Nat :=
  match l.half with
  | some h => [h, 2 + h]
  | none => [0, 1, 2, 3]

/-- An engine's memories written by a load; where the verify fails the control store it wrote is not what was loaded. -/
def Engine.written (x : Engine) (l : EngLoad) (ok : Bool) : Engine :=
  { x.load l.half l.body with
    undef := x.undef.filter (fun p => !l.places.contains p) ++ (if ok then [] else l.places.filter (· < 2)) }

/-- A load completes (R208, R212): the engine's memories are written, then compared. Verified, CS_VALID is 1, and the control
processor queues opcodes for an engine that is not in SERVICE: the tests of a recovery or of a unit's self-test, else START;
where the verify fails, CS_VALID is 0. -/
def State.endLoad (s : State) (e : Nat) (ok : Bool) : State :=
  match (s.eng e).loads with
  | [] => s
  | l :: rest =>
    let x := { s.eng e with loads := rest }
    let halt := fun (s : State) => if s.est e = esLOADING ∧ rest = [] then s.wr F.PE_STATUS.STATE e esHALTED else s
    let y := x.written l ok
    let s1 := s.rewrite (fun u => (u.mem == 8 || u.mem == 9) && u.inst == e)
    if ok then
      let testing := decide (e ≥ 48) && s.unitState ((e - 48) / 8) == 3
      let ops := if x.recovering then romTests else if testing then y.dispatchTests ++ romTests else [(0xFE, 0)]
      let y' := if s.est e = esSERVICE ∨ rest ≠ [] then y else ({ y with todo := y.todo ++ ops } : Engine).refill
      halt (((s1.setEng e y').wr F.PE_STATUS.CS_VALID e 1).wr
        (if l.half = some 1 then F.PE_BUILD1.ID else F.PE_BUILD0.ID) e l.build)
    else halt ((s1.setEng e y).wr F.PE_STATUS.CS_VALID e 0)

/-- A tree's half holds a started image (R104, R196). -/
def State.halfStarted (s : State) (t : Nat) : Bool := (s.tree t).image.isSome

/-- Whether a line is enabled and not masked (R196). -/
def State.lineEn (s : State) (e l : Nat) : Bool :=
  bit (smGet 0 (s.eng e).entries (l, 0)) 15 &&
  (if e < 48 then
    let t := 2 * e + l / 32
    decide (s.tstate t ≠ trFAULT) && s.halfStarted t && !(s.eng e).loads.any (fun x => x.half == some (l / 32))
  else true)

/-! ### The sampler (R215, R460) -/

/-- The tree whose slot runs, and whose map Sluice builds (R167); 127 in the 8 ns between the last slot and the first. -/
def State.slotTree (s : State) : Nat :=
  let p := ((s.tide + 4000 * 256) % frameTicks / (1302 * 256)).toNat
  if p < 96 then p else 127

/-- The record of the engine's current microword. -/
def State.sampleRec (s : State) (e evt : Nat) (r : Routine) : Nat :=
  let t := if e < 48 then (match r.half with
    | some h => 2 * e + h
    | none => 127) else s.slotTree
  r.uaddr + t * 2 ^ 16 + b2n r.tail * 2 ^ 23 + evt * 2 ^ 24 + min 65535 r.cyc * 2 ^ 32 + (r.line % 64) * 2 ^ 48 + r.mode * 2 ^ 54 +
  min 15 r.again * 2 ^ 56 + (s.tb.ctc / 2 ^ 32 % 2 ^ 64) * 2 ^ 64

/-- The sampler fires: a record, or a skip (R460). -/
def State.sample (s : State) (e evt : Nat) : State :=
  let skip := s.incSat F.PE_SAMPLE_SKIP.COUNT e 1
  match (s.eng e).run with
  | none => skip
  | some r =>
    if s.flag F.PE_SAMPLE_CFG.FREEZE e ∧ s.flag F.PE_SAMPLE_PTR.WRAPPED e then skip
    else
      let n := s.rd F.PE_SAMPLE_PTR.NEXT e
      let s1 := s.setEng e { s.eng e with samples := smSet 0 (s.eng e).samples (n, 0) (s.sampleRec e evt r) }
      let s2 := s1.wr F.PE_SAMPLE_PTR.NEXT e (n + 1)
      if n = 255 then s2.wr F.PE_SAMPLE_PTR.WRAPPED e 1 else s2

/-- A microword's EVT pulse: counters (R449) and the sampler in modes 2 and 3 (R460). -/
def State.evtPulse (s : State) (e evt : Nat) : State :=
  if evt = 0 then s
  else
    let s1 := s.engCount e evt 1
    if s.rd F.PE_SAMPLE_CFG.CODE e ≠ evt then s1
    else if s.rd F.PE_SAMPLE_CFG.MODE e = 2 then s1.sample e evt
    else if s.rd F.PE_SAMPLE_CFG.MODE e = 3 then
      let n := (s1.eng e).sampCnt + 1
      if n ≥ max 1 (s.rd F.PE_SAMPLE_CFG.PERIOD e) then (s1.setEng e { s1.eng e with sampCnt := 0 }).sample e evt
      else s1.setEng e { s1.eng e with sampCnt := n }
    else s1

/-! ### Routines -/

/-- The event lines' order: highest priority, then lowest line (R197). -/
def State.nextLine (s : State) (e : Nat) : Option Nat :=
  let pend := (List.range 64).filter (fun l => smGet [] (s.eng e).lines (l, 0) ≠ [] && s.lineEn e l)
  let prio := fun l => bits (smGet 0 (s.eng e).entries (l, 0)) 13 2
  [3, 2, 1, 0].findSome? (fun p => pend.find? (fun l => prio l == p))

/-- The engine executes: its domain ON, or leaving ON with the engine still finishing its running routine and pending lines
(R209). -/
def State.engAwake (s : State) (e : Nat) : Bool :=
  s.on (engDom e) || (s.pw (engDom e) == pwFALLING && (s.dom (engDom e)).from_ == pwON && s.est e == esSERVICE &&
    ((s.eng e).run.isSome || (s.nextLine e).isSome))

/-- Where a microaddress of a routine lies in the control store (R187). -/
def placeOf (half : Option Nat) (a : Nat) : Nat :=
  match half with
  | some h => a % 4096 + 4096 * h
  | none => a % 8192

/-- Start a routine: the entry's one cycle, at commit distance 0; the first microword executes 3 cycles later (R197). -/
def State.startRoutine (s : State) (e mode line prio : Nat) (half : Option Nat) (entry : Nat) (ev : PendEvent) (service : Bool) : State :=
  let x := s.eng e
  let pad := x.regs ++ List.replicate (32 - x.regs.length) 0
  let regs := if service then (pad.set 0 ev.payload).set 1 ev.tuple else pad.set 0 ev.payload
  let r : Routine :=
    { mode := mode, line := line, prio := prio, half := half, entry := entry, ev := ev, ckRegs := regs, ckFlags := x.flags,
      tail := false, prot := ev.rearmed, restarts := ev.restarts, again := ev.again, dist := 3, cyc := 3, stack := [],
      uaddr := placeOf half entry, staged := [] }
  (s.setEng e { x with regs := regs, run := some r, busy := [] }).engCount e 0x101 1

/-- A routine in its staged part is abandoned (R202): effects discarded, the checkpoint restored, the event back at the
head of its line, marked as restarted. -/
def State.abandon (s : State) (e : Nat) (r : Routine) (restarts : Nat) : State :=
  let x := s.eng e
  let ev := { r.ev with rearmed := true, restarts := restarts, again := r.again + 1 }
  let lines := if r.mode = 0 then smSet [] x.lines (r.line, 0) (ev :: smGet [] x.lines (r.line, 0)) else x.lines
  (s.setEng e { x with regs := r.ckRegs, flags := r.ckFlags, run := none, busy := [], lines := lines }).engCount e 0x102 1

/-- A recoverable fault (R202, R203): the routine restarts at once; past RESTART_MAX it is a routine fault; in the tail it
is a routine fault whose cause code the spec does not name. -/
def State.recoverable (s : State) (e : Nat) (r : Routine) : State :=
  if r.tail then s.tickFree.engFault e (s.free 4) r.uaddr
  else if r.restarts + 1 > max 1 (s.rd F.PE_CTL.RESTART_MAX e) then s.engFault e 7 r.uaddr
  else
    let x := s.eng e
    let r' := { r with prot := true, restarts := r.restarts + 1, again := r.again + 1, dist := 3, cyc := 3, stack := [],
                       uaddr := placeOf r.half r.entry, staged := [], tail := false }
    ((((s.setEng e { x with regs := r.ckRegs, flags := r.ckFlags, run := some r', busy := [] }).incSat
      F.PE_RESTART.COUNT e 1).engCount e 0x102 1).engCount e 0x103 1)

/-- An effect acts: on work memory, or out of a port (R194, R195, R199). -/
def State.effect (s : State) (e : Nat) : Effect → State
  | .st a v => s.setEng e { s.eng e with wm := smSet 0 (s.eng e).wm (a, 0) v }
  | .pwr p r v => s.emit (.pePort e p (.write r v))
  | .ppush p v => s.emit (.pePort e p (.push v))
  | .ppop p => s.emit (.pePort e p .remove)

/-- The rows that a list of effects stores to, read and written back inside the engine (R189). -/
def storeRows (l : List Effect) : List Nat :=
  l.filterMap (fun f => match f with
    | .st a _ => some (a / 4)
    | _ => none)

/-- The rows that stores read are checked (R189): the first that cannot be corrected, none where every one can; corrected ones
count and are written back. -/
def State.readRows (s : State) (e : Nat) (rows : List Nat) : Option Nat × State :=
  (rows.find? (fun r => s.wordSeen 9 e r == .uncorrectable),
    rows.foldl (fun s r => if s.wordSeen 9 e r = .corrected then s.wmCorrected e r else s) s)

/-- Every staged effect is applied in order of staging (R199). -/
def State.commitStaged (s : State) (e : Nat) (l : List Effect) : State :=
  ((l.foldl (fun s x => s.effect e x) s).engCount e 0x106 1).engCount e 0x107 l.length

/-- The routine returns (R191, R208): a waiting STOP then halts the engine. -/
def State.endRoutine (s : State) (e : Nat) : State :=
  let x := s.eng e
  let s1 := s.setEng e { x with run := none, busy := [], stop := false }
  if x.stop then s1.wr F.PE_STATUS.STATE e esHALTED else s1

/-! ### The window (R216) -/

/-- The memory of an engine that a window offset lies in, as `undef` names it. -/
def windowPlace (off : Nat) : Nat := if off < 0x20000 then off / 0x10000 else 2 + (off - 0x20000) / 0x8000

/-- Whether a window read returns a value the spec does not fix: memory whose contents are undefined (R208), or a word with
an error that is not corrected (R250). -/
def State.windowOpen (s : State) (e off : Nat) : Bool :=
  decide (off < 0x30000) && ((s.eng e).undef.contains (windowPlace off) ||
    (if off < 0x20000 then s.wordSeen 8 e (off / 32) == .uncorrectable else s.wordSeen 9 e ((off - 0x20000) / 32) == .uncorrectable))

/-- What a read of an engine's memories, tables and sampling buffer returns (R216), by window offset. -/
def State.csWindow (s : State) (e off : Nat) : Nat :=
  let x := s.eng e
  if s.windowOpen e off then s.free 32
  else if off < 0x20000 then bits (smGet 0 x.cs (off / 16, 0)) (32 * (off / 4 % 4)) 32
  else if off < 0x30000 then bits (smGet 0 x.wm ((off - 0x20000) / 8, 0)) (32 * (off / 4 % 2)) 32
  else if off < 0x30400 then bits (smGet 0 x.disp ((off - 0x30000) / 4, 0)) 0 16
  else if off < 0x30500 then bits (smGet 0 x.entries ((off - 0x30400) / 4, 0)) 0 32
  else if 0x32000 ≤ off ∧ off < 0x33000 then bits (smGet 0 x.samples ((off - 0x32000) / 16, 0)) (32 * (off / 4 % 4)) 32
  else 0

/-- Offsets of an engine's window that hold memories, tables and the sampling buffer (R216). -/
def inEngWindow (off : Nat) : Bool :=
  decide (off < 0x30500) || (decide (0x32000 ≤ off) && decide (off < 0x33000))

/-- A window read takes a fetch slot of the control store and stalls the engine, and its running routine, one cycle (R200,
R216). -/
def State.fetchStall (s : State) (e : Nat) : State :=
  let x := s.eng e
  (s.setEng e { x with run := x.run.map (fun r => { r with dist := r.dist + 1, cyc := r.cyc + 1 }) }).engCount e 0x104 1

/-- The check of the word that a window read finds (R189, R214, R250): a corrected word counts and is written back; an
uncorrectable one of the control store is an engine fault, one of the work memory a recoverable fault of the running routine
(log entry 61). -/
def State.windowCheck (s : State) (e off : Nat) : State :=
  if off < 0x20000 then
    match s.wordSeen 8 e (off / 32) with
    | .clean => s
    | .corrected => s.csCorrected e (off / 32)
    | .uncorrectable =>
      let s1 := s.logEng 8 e (off / 32)
      if s1.est e = esFAULTED then s1 else s1.engFault e 1 (off / 16)
  else if off < 0x30000 then
    let row := (off - 0x20000) / 32
    match s.wordSeen 9 e row with
    | .clean => s
    | .corrected => s.wmCorrected e row
    | .uncorrectable =>
      let s1 := s.logEng 9 e row
      match (s1.eng e).run with
      | some r => s1.recoverable e r
      | none => s1
  else s

/-- A 32-bit read of an engine's window (R32, R216): a control-store read stalls the engine one cycle. -/
def State.engWindowRead (s : State) (port e off : Nat) : Nat × State :=
  let abs := 0x1000000 + e * 0x40000 + off
  if off % 4 ≠ 0 then (0, s.accessErr 1 abs port)
  else if !inEngWindow off then (0, s.accessErr 0 abs port)
  else if !s.on (engDom e) then (0xFFFFFFFF, s.accessErr 2 abs port)
  else
    let s1 := if s.windowOpen e off then s.tickFree else s
    (s.csWindow e off, (if off < 0x20000 then s1.fetchStall e else s1).windowCheck e off)

end Sys2Proof.Machine
end

