-- ==== Sys2Proof/Machine/Pan.lean ====
section
/-! DEFINITION. The rows of the pan engines (06_pan_engines.md): events and routine entry (R197), the microword's ten
sequencing operations (R191), memory and port results, dispatch sequencing (R207, R208), loading, scrubbing and the
sampler. A port's registers and messages are withheld (R195): what an engine drives there leaves as an output, what a
port answers comes in as an operand. -/

namespace Sys2Proof.Machine

/-- The engine executes microwords: awake, in SERVICE or DISPATCH (R208, R209). -/
def State.engRuns (s : State) (e : Nat) : Bool := s.engAwake e && (s.est e == esSERVICE || s.est e == esDISPATCH)

/-- A general register. -/
def Engine.reg (x : Engine) (k : Nat) : Nat := x.regs.getD k 0

/-- Write a general register. -/
def Engine.setReg (x : Engine) (k v : Nat) : Engine :=
  { x with regs := (x.regs ++ List.replicate (32 - x.regs.length) 0).set k (v % w64) }

/-- Registers a microword reads or writes (R194). -/
def mwUses (w : Nat) : List Nat :=
  (if mwALU w ≠ 0 then [mwSRCA w] else []) ++
  (if (mwALU w ≠ 0 ∨ mwMOP w ≠ 0) ∧ !mwBIMM w then [mwSRCB w] else []) ++
  (if mwALU w ≠ 0 ∧ (mwWB w ∨ mwALU w = 0x16) then [mwDST w] else []) ++
  (if mwMOP w ≠ 0 then [mwMREG w] else [])

/-- The effective work-memory address of a MOP (R187, R194). -/
def memAddr (half : Option Nat) (a : Nat) : Nat := placeOf half a

/-- The word an LD returns: the routine's latest staged store to the address, else the work memory (R194). -/
def loadWord (x : Engine) (staged : List Effect) (a : Nat) : Nat :=
  staged.foldl (fun v f => match f with
    | .st b u => if b = a then u else v
    | _ => v) (smGet 0 x.wm (a, 0))

/-- The effect a MOP makes or stages (R194). -/
def mopEffect (w half_a portReg v : Nat) : Option Effect :=
  match mwMOP w with
  | 2 => some (.st half_a v)
  | 4 => some (.pwr (mwPORT w) portReg v)
  | 5 => some (.ppop (mwPORT w))
  | 6 => some (.ppush (mwPORT w) v)
  | _ => none

/-- The address after a microword's own; none past the end of the half or of the store (R191). -/
def addrAfter (half : Option Nat) (u : Nat) : Option Nat :=
  match half with
  | some _ => if u % 4096 = 4095 then none else some (u + 1)
  | none => if u = 8191 then none else some (u + 1)

/-- Where sequencing goes next (R191): a next address with a new return stack, a return of the routine, a halt, or a
routine fault with its cause. -/
inductive SeqOut where
  | go (a : Nat) (stack : List Nat)
  | done
  | halted
  | bad (cause : Nat)
  deriving DecidableEq, Repr

/-- Sequencing (R191). `holds` is the condition; `service` whether the engine is in SERVICE. -/
def sequence (w : Nat) (r : Routine) (holds service : Bool) : SeqOut :=
  let tgt := placeOf r.half (mwTARGET w)
  let inc := match addrAfter r.half r.uaddr with
    | some a => SeqOut.go a r.stack
    | none => .bad 6
  match mwSEQ w with
  | 0 => inc
  | 1 => .go tgt r.stack
  | 2 => if holds then .go tgt r.stack else inc
  | 3 => if holds then inc else .go tgt r.stack
  | 4 =>
    if r.stack.length ≥ 8 then .bad 5
    else
      match addrAfter r.half r.uaddr with
      | some a => .go tgt (a :: r.stack)
      | none => .bad 6
  | 5 =>
    match r.stack with
    | a :: rest => .go a rest
    | [] => .bad 5
  | 6 => inc
  | 7 => if r.tail then .bad 4 else inc
  | 8 => .done
  | 9 => if service then .bad 4 else .halted
  | _ => .bad 4

/-- The rows that a microword's stores read: its own ST in the tail, or what COMMIT and END apply (R189, R199). -/
def State.mwRows (s : State) (e : Nat) (r : Routine) (w : Nat) : List Nat :=
  let x := s.eng e
  let b := if mwBIMM w then mwIMM w else x.reg (mwSRCB w)
  let own := (mopEffect w (memAddr r.half (mwMOFF w + bits b 0 15)) 0 0).toList
  storeRows (if r.tail then own else if mwSEQ w = 7 ∨ mwSEQ w = 8 then r.staged ++ own else [])

/-- What a MOP asks of its port at once: PRD a register, PPOP the head of the queue (R194). -/
def mopAsks (w portReg : Nat) : Option PortAct :=
  match mwMOP w with
  | 3 => some (.read portReg)
  | 5 => some .head
  | _ => none

/-- The microword's ALU, memory and port operations, and its next address (R191 to R194, R198, R199), its condition and
operands being good. -/
def State.microAct (s : State) (e : Nat) (r : Routine) (w : Nat) (holds : Bool) : State :=
  let x := s.eng e
  let a := x.reg (mwSRCA w)
  let b := if mwBIMM w then mwIMM w else x.reg (mwSRCB w)
  let out := alu (mwALU w) (mwAPOS w) a b (x.reg (mwDST w)) (s.free 1)
  let s := if mwALU w = 0x17 ∧ mwFLAGS w then s.tickFree else s
  match sequence w r holds (decide (s.est e = esSERVICE)) with
  | .bad c => s.engFault e c r.uaddr
  | q =>
    let sum := mwMOFF w + bits b 0 15
    let addr := memAddr r.half sum
    let eff := mopEffect w addr sum (x.reg (mwMREG w))
    if eff.isSome ∧ !r.tail ∧ r.staged.length ≥ 16 then s.engFault e 3 r.uaddr
    else
      let x1 := if mwALU w ≠ 0 ∧ mwWB w then (match out.val with
        | some v => x.setReg (mwDST w) v
        | none => x) else x
      let x2 := if mwALU w ≠ 0 ∧ mwFLAGS w then { x1 with flags := out.flags } else x1
      let x3 := if mwMOP w = 1 ∨ mwMOP w = 3 ∨ mwMOP w = 5 then
        { x2 with busy := x2.busy ++ [⟨mwMREG w, mwMOP w, if mwMOP w = 1 then addr else mwPORT w, loadWord x r.staged addr⟩] } else x2
      let s0 := s.setEng e x3
      let s1 := match mopAsks w sum with
        | some a => s0.emit (.pePort e (mwPORT w) a)
        | none => s0
      let s2 := if r.tail then (match eff with
        | some f => s1.effect e f
        | none => s1) else s1
      let staged := if r.tail then r.staged else r.staged ++ eff.toList
      let s3 := s2.evtPulse e (mwEVT w)
      match q with
      | .go a' st =>
        if mwSEQ w = 7 then
          let s4 := s3.commitStaged e staged
          s4.setEng e { s4.eng e with run := some { r with uaddr := a', stack := st, staged := [], tail := true, dist := 1 } }
        else s3.setEng e { s3.eng e with run := some { r with uaddr := a', stack := st, staged := staged } }
      | .done => (if r.tail then s3 else s3.commitStaged e staged).endRoutine e
      | .halted => (s3.endRoutine e).wr F.PE_STATUS.STATE e esHALTED
      | .bad c => s3.engFault e c r.uaddr

/-- The control store's contents are lost, and the work memory is cleared: what the march tests of the test ROM leave (R207). -/
def State.romEffect (s : State) (e op : Nat) : State :=
  if op = 0xF1 then (s.setEng e { s.eng e with cs := [], undef := (s.eng e).undef.filter (· ≥ 2) ++ [0, 1] }).wr F.PE_STATUS.CS_VALID e 0
  else if op = 0xF2 then s.setEng e { s.eng e with wm := [], undef := (s.eng e).undef.filter (· < 2) }
  else s

/-- One cycle of a test-ROM routine, whose microwords the spec does not give: at END it has had its effect (R207, log entry
31). -/
def State.romCycle (s : State) (e : Nat) (codes : List Nat) (r : Routine) : State :=
  let s1 := (s.setEng e { s.eng e with run := some { r with cyc := r.cyc + 1 } }).engCount e 0x100 1
  if codes = [8] then (s1.romEffect e r.line).endRoutine e else s1

/-- One cycle of the running routine at a microword whose SEQ is one of `codes` (R191 to R200, R214): the watchdog, the
fetch's check, a stall on a busy register, the codes that are routine faults, an operand's parity, the wait of WAIT, the rows
that stores read, then the microword acts. -/
def State.micro (s : State) (e : Nat) (codes : List Nat) (obs : PeObs) : State :=
  match (s.eng e).run with
  | none => s
  | some r0 =>
    let w := smGet 0 (s.eng e).cs (r0.uaddr, 0)
    if !s.engRuns e then s
    else if r0.mode = 2 then s.romCycle e codes r0
    else if !codes.contains (mwSEQ w) then s
    else
      let s := s.upset obs.errs
      let fetch := s.wordSeen 8 e (r0.uaddr / 2)
      if r0.dist ≥ 4096 then s.engFault e 2 r0.uaddr
      else if fetch = .uncorrectable then (s.logEng 8 e (r0.uaddr / 2)).engFault e 1 r0.uaddr
      else
        let n := if fetch = .corrected then 2 else 1
        let r := { r0 with dist := r0.dist + n, cyc := r0.cyc + n }
        let s1 := (s.setEng e { s.eng e with run := some r }).engCount e 0x100 1
        let s2 := if r.tail then s1.engCount e 0x109 1 else s1
        let s3 := if fetch = .corrected then (s2.csCorrected e (r0.uaddr / 2)).engCount e 0x104 1 else s2
        let holds := condHolds (mwCOND w) (s.eng e).flags r.staged.length obs.port
        if (mwUses w).any (fun k => (s.eng e).busy.any (fun m => m.reg == k)) then s3.engCount e 0x104 1
        else if mwIllegal w then s3.engFault e 4 r.uaddr
        else if obs.parity then s3.recoverable e r
        else if mwSEQ w = 6 ∧ !holds then s3.engCount e 0x105 1
        else
          match s3.readRows e (s.mwRows e r w) with
          | (some row, s4) => (s4.logEng 9 e row).recoverable e r
          | (none, s4) => s4.microAct e r w holds

/-- NEXT (R191); a microword whose SEQ code is 10 to 15 is met here too, and is a routine fault. -/
def execNext (e : EngId) (obs : PeObs) (s : State) : Res := .next (s.micro e [0, 10, 11, 12, 13, 14, 15] obs)
/-- JUMP (R191). -/
def execJump (e : EngId) (obs : PeObs) (s : State) : Res := .next (s.micro e [1] obs)
/-- BRT (R191, R193). -/
def execBrt (e : EngId) (obs : PeObs) (s : State) : Res := .next (s.micro e [2] obs)
/-- BRF (R191, R193). -/
def execBrf (e : EngId) (obs : PeObs) (s : State) : Res := .next (s.micro e [3] obs)
/-- CALL (R191). -/
def execCall (e : EngId) (obs : PeObs) (s : State) : Res := .next (s.micro e [4] obs)
/-- RET (R191). -/
def execRet (e : EngId) (obs : PeObs) (s : State) : Res := .next (s.micro e [5] obs)
/-- WAIT (R191, R193). -/
def execWait (e : EngId) (obs : PeObs) (s : State) : Res := .next (s.micro e [6] obs)
/-- COMMIT (R199). -/
def execCommit (e : EngId) (obs : PeObs) (s : State) : Res := .next (s.micro e [7] obs)
/-- END (R191, R199). -/
def execEnd (e : EngId) (obs : PeObs) (s : State) : Res := .next (s.micro e [8] obs)
/-- HALT (R191): legal only in DISPATCH. -/
def execHalt (e : EngId) (obs : PeObs) (s : State) : Res := .next (s.micro e [9] obs)

/-- An event reaches an engine that has stopped fetching (R210): counted until the domain is ON again, not at all while it
is OFF. -/
def State.lateEvent (s : State) (e : Nat) : State :=
  if s.pw (engDom e) = pwOFF then s else s.setEng e { s.eng e with lost := (s.eng e).lost + 1 }

/-- ENGINE_EVENT (R196, R197, R202, R210): queued on its line, discarded when the line is masked or disabled, lost and
counted when its queue is full; it interrupts a running routine of lower priority in its staged part, unless a STOP waits
for that routine's END (R208). -/
def execEngineEvent (e : EngId) (line : Fin 64) (payload : BitVec 64) (s : State) : Res :=
  .next (if !s.engAwake e then s.lateEvent e
  else if s.est e ≠ esSERVICE ∨ !s.lineEn e line then s
  else
    let x := s.eng e
    let q := smGet [] x.lines (line.val, 0)
    if (q.filter (fun v => !v.rearmed)).length ≥ 8 then
      ((s.incSat F.PE_EVT_LOST.COUNT e 1).peEvent e F.PE_EVENT.EVT_LOST).engCount e 0x108 1
    else
      let s1 := s.setEng e { x with lines := smSet [] x.lines (line.val, 0) (q ++ [⟨payload.toNat, toShort s.tide, s.tb.ctc, false, 0, 0⟩]) }
      match x.run with
      | some r =>
        if r.mode = 0 ∧ !r.tail ∧ !r.prot ∧ !x.stop ∧ bits (smGet 0 x.entries (line.val, 0)) 13 2 > r.prio then
          (s1.abandon e r r.restarts).incSat F.PE_ABANDON.COUNT e 1
        else s1
      | none => s1)

/-- Core cycles since an event's arrival (R205). -/
def State.waitCycles (s : State) (c : Nat) : Nat := if s.tbStep = 0 then 0 else s.since c / s.tbStep

/-- ROUTINE_ENTRY (R197): the free engine starts its highest pending line's routine; the first microword follows 3 cycles
later, and the longest wait, to the first microword of an event's first run, is kept (R205). -/
def execRoutineEntry (e : EngId) (s : State) : Res :=
  .next (if !s.engAwake e ∨ s.est e ≠ esSERVICE ∨ (s.eng e).run.isSome ∨ (s.eng e).stop then s
  else
    match s.nextLine e with
    | none => s
    | some l =>
      let x := s.eng e
      match smGet [] x.lines (l, 0) with
      | [] => s
      | ev :: rest =>
        let w := smGet 0 x.entries (l, 0)
        let s1 := s.setEng e { x with lines := smSet [] x.lines (l, 0) rest }
        let wait := min 65535 (s.waitCycles ev.arrived + 3)
        let s2 := if !ev.rearmed ∧ wait > s1.rd F.PE_MAX_WAIT.CYCLES e then s1.wr F.PE_MAX_WAIT.CYCLES e wait else s1
        s2.startRoutine e 0 l (bits w 13 2) (if e.val < 48 then some (l / 32) else none) (bits w 0 13) ev true)

/-- MOP_RESULT (R194, R195, R189): the result that a register awaits lands, each in its own time. `value` is what a port
answered, `err` a port's error. -/
def execMopResult (e : EngId) (reg : Fin 32) (value : BitVec 64) (errs : List Upset) (err : Bool) (s : State) : Res :=
  .next (match (s.eng e).busy.find? (fun m => m.reg == reg.val), (s.eng e).run with
  | some m, some r =>
    if !s.engRuns e then s
    else
      let s0 := s.upset errs
      let seen := if m.op = 1 then s0.wordSeen 9 e (m.port / 4) else .clean
      if seen = .uncorrectable then (s0.logEng 9 e (m.port / 4)).recoverable e r
      else if m.op ≠ 1 ∧ err then s0.recoverable e r
      else
        let s1 := if seen = .corrected then s0.wmCorrected e (m.port / 4) else s0
        s1.setEng e { (s1.eng e).setReg m.reg (if m.op = 1 then m.val else value.toNat) with
          busy := (s1.eng e).busy.filter (fun y => y.reg != m.reg) }
  | _, _ => s)

/-- PORT_TIMEOUT (R195, R202): an outstanding PRD or PPOP is not answered. -/
def execPortTimeout (e : EngId) (s : State) : Res :=
  .next (match (s.eng e).run with
  | some r => if s.engRuns e && (s.eng e).busy.any (fun m => m.op ≠ 1) then s.recoverable e r else s
  | none => s)

/-- ROUTINE_WATCHDOG (R200): the commit-distance count, stalls and waits included, reaches 4,096. -/
def execRoutineWatchdog (e : EngId) (s : State) : Res :=
  .next (match (s.eng e).run with
  | some r => if s.engRuns e ∧ r.mode ≠ 2 ∧ r.dist ≥ 4096 then s.engFault e 2 r.uaddr else s
  | none => s)

/-- The head of the dispatch queue is taken, and the control processor queues the next opcode it has (R207). -/
def State.popDq (s : State) (e : Nat) : State := s.setEng e ({ s.eng e with dq := (s.eng e).dq.drop 1 } : Engine).refill

/-- An opcode comes behind those queued before it (R207). -/
def State.queueOp (s : State) (e op : Nat) : State := s.setEng e ({ s.eng e with todo := (s.eng e).todo ++ [(op, 0)] } : Engine).refill

/-- An engine free to take an opcode: HALTED or DISPATCH, no routine running (R207, R208). -/
def State.takesOps (s : State) (e : Nat) : Bool :=
  s.on (engDom e) && (s.est e == esHALTED || s.est e == esDISPATCH) && (s.eng e).run.isNone

/-- DISPATCH_OPCODE (R207): a free engine takes the head of its dispatch queue and starts its routine, an image's own or one of
the test ROM's. -/
def execDispatchOpcode (e : EngId) (s : State) : Res :=
  .next (if !s.takesOps e then s
  else
    match (s.eng e).dq with
    | [] => s
    | (op, arg) :: _ =>
      if op = 0xFE ∨ op = 0xFF then s
      else
        let s1 := (s.popDq e).wr F.PE_STATUS.STATE e esDISPATCH
        let ev : PendEvent := ⟨arg, toShort s.tide, s.tb.ctc, false, 0, 0⟩
        if op < 0xF0 then
          let w := smGet 0 (s.eng e).disp (op, 0)
          if !bit w 15 then s1.engFault e 4 0
          else s1.startRoutine e 1 op 0 (if e.val < 48 then some (op / 0x78) else none) (bits w 0 13) ev false
        else if op ≤ 0xF3 then s1.startRoutine e 2 op 0 none 0 ev false
        else s1.engFault e 4 0)

/-- ENGINE_START (R208): opcode 0xFE, taken in its turn; refused unless CS_VALID is 1. -/
def execEngineStart (e : EngId) (s : State) : Res :=
  .next (if !s.takesOps e then s
  else
    match (s.eng e).dq.head? with
    | some (op, _) =>
      if op ≠ 0xFE then s.queueOp e 0xFE
      else if s.flag F.PE_STATUS.CS_VALID e then
        let s1 := s.popDq e
        (s1.setEng e { s1.eng e with lines := [] }).wr F.PE_STATUS.STATE e esSERVICE
      else (s.popDq e).wr F.PE_STATUS.STATE e esDISPATCH
    | none =>
      if s.flag F.PE_STATUS.CS_VALID e then (s.setEng e { s.eng e with lines := [] }).wr F.PE_STATUS.STATE e esSERVICE
      else s.wr F.PE_STATUS.STATE e esDISPATCH)

/-- ENGINE_STOP (R208): opcode 0xFF in DISPATCH, taken in its turn; in SERVICE, ahead of every event, the running routine
completes first. -/
def execEngineStop (e : EngId) (s : State) : Res :=
  .next (if !s.on (engDom e) then s
  else if s.est e = esDISPATCH ∧ (s.eng e).run = none then
    (match (s.eng e).dq.head? with
    | some (op, _) => if op ≠ 0xFF then s.queueOp e 0xFF else (s.popDq e).wr F.PE_STATUS.STATE e esHALTED
    | none => s.wr F.PE_STATUS.STATE e esHALTED)
  else if s.est e = esSERVICE then
    (if (s.eng e).run = none then s.wr F.PE_STATUS.STATE e esHALTED else s.setEng e { s.eng e with stop := true })
  else s)

/-- ENGINE_LOAD_DONE (R208, R212). -/
def execEngineLoadDone (e : EngId) (ok : Bool) (s : State) : Res :=
  .next (if s.on (engDom e) then s.endLoad e ok else s)

/-- CS_SCRUB (R214): one control-store word of two microwords. -/
def execCsScrub (e : EngId) (word : Fin 4096) (errs : List Upset) (s : State) : Res :=
  .next (if !s.on (engDom e) then s
  else
    let s0 := s.upset errs
    match s0.wordSeen 8 e word with
    | .clean => s0
    | .corrected => s0.csCorrected e word
    | .uncorrectable => let s1 := s0.logEng 8 e word
      if s1.est e = esFAULTED then s1 else s1.engFault e 8 (2 * word.val))

/-- SAMPLER_FIRE (R460): the periodic sampler of mode 1. -/
def execSamplerFire (e : EngId) (s : State) : Res :=
  .next (if s.on (engDom e) ∧ s.rd F.PE_SAMPLE_CFG.MODE e = 1 then s.sample e 0 else s)

/-- CS_WINDOW_READ (R32, R216): a 32-bit read of an engine's window; a control-store read stalls the engine one cycle. -/
def execCsWindowRead (port : PortId) (e : EngId) (off : Nat) (errs : List Upset) (s : State) : Res :=
  .next (if !s.bnd.oscOk then s.tickFree.emit (.readData port (s.free 32))
  else
    let r := (s.upset errs).engWindowRead port e off
    r.2.emit (.readData port r.1))

/-- ENGINE_RECOVERY_DONE (R208, R209): the recovery that a TREE_ENABLE MODE 0 began ends; its response is written. Passed, what
the tests destroyed is reloaded and START is taken, which needs a verified control store; failed, the engine stays FAULTED, and
a tree of the pair finds no started image. -/
def execEngineRecoveryDone (e : Fin 48) (pass : Bool) (s : State) : Res :=
  .next (let x := s.eng e
  if !x.recovering then s
  else
    let y := x.reload.foldl (fun (x : Engine) l => x.written l true) x.clear
    let z : Engine := { y with recovering := false, recover := none, reload := [], loads := [] }
    let s1 := s.setEng e z
    let s2 := if !pass then s1.wr F.PE_STATUS.STATE e esFAULTED
      else if x.reload = [] then (s1.wr F.PE_STATUS.STATE e esDISPATCH).wr F.PE_STATUS.CS_VALID e 0
      else (s1.wr F.PE_STATUS.STATE e esSERVICE).wr F.PE_STATUS.CS_VALID e 1
    match x.recover with
    | some src => (s2.answerLater src (okWith (enablePayload trDISABLED 0 0))).pumpAll
    | none => s2)

end Sys2Proof.Machine
end

