-- ==== Sys2Proof/Machine/TreeDown.lean ====
section
/-! DEFINITION. Tree engines, downstream (03_tree_downstream.md): the tree and key commands, starts, wakes and dormancy, the
map latch, frames and their PLOAM messages, the drawing of XGEM frames, and the swap and expiry of key banks. -/

namespace Sys2Proof.Machine

/-! ### Starts, wakes, dormancy (R102 to R105) -/

/-- The first frame whose boundary lies at or after an instant. -/
def frameFrom (t : Nat) (x : Int) : Int := -((treePhase t - x) / frameTicks)

/-- DORMANT_FRAMES, SURVEY_PERIOD and SURVEY_LEN in force: changed ones apply from the next frame (R106). -/
def State.times (s : State) (t : Nat) : Nat × Nat × Nat :=
  let x := s.tree t
  match x.oldTimes.filter (fun o => decide (s.frame t < o.1)) with
  | some (_, o) => o
  | none => (x.dormantFrames, x.surveyPeriod, x.surveyLen)

/-- The tree enters ACTIVE with its first frame, warm frames first (R79, R104, R105); that frame is the first of those in
which a discovery window falls due (R161). -/
def State.treeActive (s : State) (t : Nat) (f : Int) (survey : Bool) : State :=
  let s0 := s.treeState t trACTIVE
  let s1 := s0.setShared t { s0.shared t with due := decide (s.rd F.SLU_TREE_CTL.DISC_PERIOD t ≠ 0) }
  let x := s1.tree t
  (s1.setTree t { x with firstF := some f, warm := s.rd F.TRE_CFG.WARM_FRAMES t, warmNow := false, woken := false, survey := false,
                         stayUntil := if survey then some (f + (s.times t).2.2) else none, emptyRun := 0, mapKind := 2,
                         start := none, latched := none, relMap := none })
    |>.setTreeU t { s1.treeU t with announceF := f } |>.reannounce t

/-- A DORMANT tree that has been woken sends from the first boundary after its pair domain is ON (R102, R105). -/
def State.riseTree (s : State) (t : Nat) : State :=
  let x := s.tree t
  if s.tstate t = trDORMANT ∧ x.woken ∧ s.on (pairOf t) then s.setTree t { x with firstF := some (frameFrom t (s.tide + 1)) } else s

/-- At that boundary the woken tree enters ACTIVE (R102, R105). -/
def State.wokenActive (s : State) (t : Nat) (fr : Int) : State :=
  let x := s.tree t
  if s.tstate t = trDORMANT ∧ x.woken ∧ s.on (pairOf t) ∧ x.firstF.any (fun f => decide (f ≤ fr)) then s.treeActive t fr x.survey
  else s

/-- A wake of a DORMANT tree by a source that names it (R102, R105, R431): light and survey wakes bring the minimum stay. -/
def State.wakeTree (s : State) (t source : Nat) : State :=
  if s.tstate t ≠ trDORMANT then s
  else
    let x := s.tree t
    let s1 := s.setTree t { x with woken := true, survey := x.survey || decide (source = 1) || decide (source = 7) }
    if s1.on (pairOf t) then s1.riseTree t else s1.wake (pairOf t) source t

/-- The tree passes to DORMANT at the boundary that ends its last frame (R81, R102, R289); its sentinel waits for 1 ms of
darkness (R432). -/
def State.treeDormant (s : State) (t : Nat) : State :=
  let s1 := ((((s.endFsFrame t).treeStop t).dropInFlight t txTREE_IDLE).dropStaged t Staged.ofHost txTREE_IDLE).treeState t trDORMANT
  let s2 := s1.termsLeave t
  let s3 := s2.setTreeU t { s2.treeU t with expected := [], sweep := none, rogueRun := 0 }
  (s3.putSents (smMod Sentinel.reset s3.sents (t, 0) (fun (x : Sentinel) => { x with mustBeDark := true })))

/-- The image kind of a tree's profile (R354). -/
def State.imageKind (s : State) (t : Nat) : Nat := if s.f50 t then 3 else 2

/-- The body of an image a tree runs, from the slots that hold it (R364). -/
def State.imageBody (s : State) (kind build : Nat) : Option (List Byte) :=
  let x := smGet ImageSlots.empty s.cp.slots (kind, 0)
  (([x.current, x.retained].filterMap id).find? (fun i => i.build == build)).map (fun i => i.body)

/-- The tree's half of its engine is loaded with the image it runs, unless it holds that build already (R364). -/
def State.loadHalf (s : State) (t : Nat) : State :=
  match (s.tree t).image with
  | none => s
  | some (kind, build) =>
    let e := pairOf t
    let here := if t % 2 = 0 then s.rd F.PE_BUILD0.ID e else s.rd F.PE_BUILD1.ID e
    if s.flag F.PE_STATUS.CS_VALID e ∧ here = build then s
    else
      match s.imageBody kind build with
      | some body => s.beginLoad e ⟨some (t % 2), build, body⟩
      | none => s

/-- A tree that does not transmit takes the current image of its profile, and the image it ran is freed when it is retained and no
other tree runs it: at its entry into PROT_STANDBY from DISABLED or as it rejoins its pair, and as a planned switch hands it to
the partner, so that it comes back with that image (R364; DEDUCED, log entry 64). -/
def State.takeImage (s : State) (t : Nat) : State :=
  match (smGet ImageSlots.empty s.cp.slots (s.imageKind t, 0)).current with
  | some i =>
    let s1 := (s.setTree t { s.tree t with image := some (s.imageKind t, i.build) }).freeRetained
    if s1.on (pairOf t) then s1.loadHalf t else s1
  | none => s

/-- The start frame is fixed once the pair domain is ON, the half is loaded and the response written (R104, R108, R364). -/
def State.fixStart (s : State) (t : Nat) : State :=
  match (s.tree t).start with
  | none => s
  | some x =>
    if !s.on (pairOf t) then s
    else
      let now := frameFrom t s.tide
      let f := match x.at_ with
        | some f => if f < now then now else f
        | none => frameFrom t (max x.notBefore s.tide)
      let s1 := (s.setTree t { s.tree t with start := some { x with at_ := some f, src := none } }).loadHalf t
      match x.src with
      | some src => s1.answerLater src (okWith (enablePayload trDISABLED 0 f))
      | none => s1

/-! ### TREE_CONFIG (R106, R107) -/

/-- The profile 0 a tree image carries for a rate (R113). -/
def imageProf (f50 : Bool) (rate : Nat) : BurstProf :=
  let v := Config.imageProfile f50 rate
  ⟨true, f50 || v 0 == 1, v 1, v 2, v 3, v 4, v 5⟩

/-- Burst profiles after TREE_CONFIG without MODIFY (R113). -/
def State.resetProfiles (s : State) (t : Nat) : State :=
  let f50 := s.f50 t
  let m := s.bprofs.filter (fun e => e.1.1 ≠ t)
  let rates := [0, 1, 2].filter (fun r => if f50 then bit (s.tree t).usRates (rateBit r) else r == 0)
  (s.putBprofs (rates.foldl (fun m r => smPut m (t, r * 4) ⟨imageProf f50 r, imageProf f50 r, none, true⟩) m))

/-- FS frame size of a profile (R77). -/
def fsCap (f50 : Bool) : Nat := if f50 then Config.fsCapF50 % 2 ^ 20 else 135432

/-- Set the fields that MODIFY may change; DORMANT_FRAMES, SURVEY_PERIOD and SURVEY_LEN apply from the next frame, at once in
DISABLED (R106). -/
def State.setModifiable (s : State) (t : Nat) (p : List Byte) : State :=
  let b := leAt p 20 4
  let old : Option Nat := if s.flag F.TRE_BCAST_SLOT.VALID t then some (s.rd F.TRE_BCAST_SLOT.SLOT t) else none
  let new : Option Nat := if b = 0xFFFFFFFF then none else some b
  let s1 := (s.wr F.TRE_CFG.MAX_FRAME t (leAt p 4 2)).wr F.TRE_CFG.PLOAM_MAX t (byteAt p 6)
  let x := s1.tree t
  let keepOld : Option (Option Nat) :=
    if old = new ∨ s.tstate t ≠ trACTIVE then x.bcastOld else some (x.bcastOld.getD old)
  let s2 := s1.setTree t { x with
    dormantFrames := leAt p 8 2, surveyPeriod := leAt p 10 2, surveyLen := leAt p 12 2, bcastOld := keepOld,
    oldTimes := if s.tstate t = trDISABLED then none else some (s.frame t + 1, s.times t) }
  (s2.wrB F.TRE_BCAST_SLOT.VALID t new.isSome).wr F.TRE_BCAST_SLOT.SLOT t (new.getD 0)

/-- TREE_CONFIG's own rule (R102, R106). With MODIFY a tree never configured keeps CONFIGURED 0: its stored fields are not
set (DESIGN CHOICE, log entry 59: R109 says only that TREE_CONFIG has been accepted). -/
def State.treeConfig (s : State) (p : List Byte) : State × Resp :=
  let t := byteAt p 0
  let modify := bit (byteAt p 1) 0
  let prof := byteAt p 2
  let rates := byteAt p 3
  let b := leAt p 20 4
  let st := s.tstate t
  let x := s.tree t
  let bad := firstFault [
    (decide (t > 95), badArg 0), (decide (byteAt p 1 > 1), badArg 1), (decide (prof > 1), badArg 2),
    (if prof = 1 then decide (rates = 0 ∨ rates > 7) else decide (rates ≠ 0), badArg 3),
    (decide (leAt p 4 2 < 1518 ∨ leAt p 4 2 > 16000), badArg 4),
    (decide (byteAt p 6 = 0 ∨ byteAt p 6 > 16), badArg 6), (decide (byteAt p 7 > 8), badArg 7),
    (decide (leAt p 10 2 ≠ 0 ∧ leAt p 10 2 < 8), badArg 10),
    (decide (leAt p 12 2 = 0 ∨ leAt p 12 2 > 1024), badArg 12), resv p 14 2,
    (decide (b ≥ 2 ^ 17 ∧ b ≠ 0xFFFFFFFF), badArg 20), resv p 24 32,
    (decide (st = trFAULT ∨ (!modify ∧ st ≠ trDISABLED)), conflict st),
    (decide (st = trSTANDBY ∧ s.paired t), conflict 0x83),
    (modify && (decide (prof ≠ s.rd F.TRE_STATE.PROFILE t) || decide (rates ≠ x.usRates) ||
      decide (byteAt p 7 ≠ s.rd F.TRE_CFG.WARM_FRAMES t) || decide (leAt p 16 4 ≠ s.rd F.TRE_PON_ID.PON_ID t)), conflict st),
    (decide (b ≠ 0xFFFFFFFF) && !s.bcastBound b t, conflict 0)]
  match bad with
  | some r => (s, r)
  | none =>
    let s1 := if modify then s
      else
        let s2 := ((s.wr F.TRE_STATE.PROFILE t prof).wr F.TRE_STATE.CONFIGURED t 1).wr F.TRE_CFG.WARM_FRAMES t (byteAt p 7)
        let s3 := (s2.wr F.TRE_PON_ID.PON_ID t (leAt p 16 4)).wr F.TRE_DS_CAP.BYTES t (fsCap (prof == 1))
        (s3.setTree t { s3.tree t with usRates := rates }).resetProfiles t
    let s4 := (s1.setModifiable t p).setCommit t
    (s4, okWith (leBytes 1 t ++ leBytes 1 st ++ zeros 2 ++ leBytes 4 (fsCap (prof == 1))))

/-- TREE_CONFIG (R106). -/
def execTreeConfig (src : Src) (s : State) : Res := .next (s.calvan src 0x0201 false false (atOnce State.treeConfig))

/-! ### TREE_ENABLE (R102, R104, R108) -/

/-- What MODE 1 needs beyond the state (R104): the refusal, if any. -/
def State.enableLack (s : State) (t : Nat) : Option Resp :=
  let lack := fun (n : Nat) => (⟨stSTATE_CONFLICT, 0, enablePayload trDISABLED n 0⟩ : Resp)
  firstFault [
    (!s.flag F.TRE_STATE.CONFIGURED t, lack 1),
    ((smGet ImageSlots.empty s.cp.slots (s.imageKind t, 0)).current.isNone || s.est (pairOf t) == esFAULTED, refuse stNO_RESOURCE 0),
    (decide (s.rd F.GLB_STATUS.SITE_OK 0 ≠ 15), lack 2),
    (s.flag F.GLB_STATUS.RESTRICTED 0, lack 3),
    (!(if s.sel = 0 then s.flag F.TB_STATUS.A_VALID 0 else s.flag F.TB_STATUS.B_VALID 0), lack 4)]

/-- An accepted MODE 1: an earlier start is replaced, the domain woken, the image chosen (R102, R104, R108, R364). -/
def State.scheduleStart (s : State) (t : Nat) (src : Src) (at_ : Nat) : State :=
  let s1 := s.cancelStart t
  let img := (smGet ImageSlots.empty s1.cp.slots (s1.imageKind t, 0)).current
  let s2 := s1.setTree t { s1.tree t with
    start := some ⟨if at_ = 0 then none else some at_, s1.tide + 20000 * 256, some src⟩,
    image := img.map (fun i => (s1.imageKind t, i.build)) }
  if s2.on (pairOf t) then s2 else s2.wake (pairOf t) 5 127

/-- The loads of a pair's engine from the control processor's copies: each half's image, the one its tree runs or else the
started one of its profile (R209, R212). -/
def State.pairLoads (s : State) (e : Nat) : List EngLoad :=
  [0, 1].filterMap (fun h =>
    let t := 2 * e + h
    let slots := smGet ImageSlots.empty s.cp.slots (s.imageKind t, 0)
    match (s.tree t).image with
    | some (kind, build) => (s.imageBody kind build).map (fun b => ⟨some h, build, b⟩)
    | none => slots.current.map (fun i => ⟨some h, i.build, i.body⟩))

/-- With the pair's engine FAULTED its recovery begins, and the response of MODE 0 waits for its end (R208, R209). -/
def State.recoverPair (s : State) (t : Nat) (src : Src) : State × Option Resp :=
  let e := pairOf t
  if s.est e = esFAULTED ∧ s.on e ∧ !(s.eng e).recovering then
    let s1 := s.engReload e (s.pairLoads e)
    let y := s1.eng e
    let ops := if y.loads = [] then romTests else []
    (s1.setEng e ({ y with recovering := true, recover := some src, todo := ops } : Engine).refill, none)
  else (s, some (okWith (enablePayload trDISABLED 0 0)))

/-- MODE 0 (R102, R209, R395): the tree leaves its pair and goes DISABLED; recovery begins where the engine is FAULTED. -/
def State.disableTree (s : State) (t : Nat) (src : Src) : State × Option Resp :=
  let ps := s.ps t
  let s1 := if ps = psNONE then s
    else (s.protMsg t 6 (s.frame t) (leBytes 1 (b2n (psSends ps)))).leavePair t 0
  (s1.treeDisable t).recoverPair t src

def State.treeEnable : Body := fun s src p =>
  let t := byteAt p 0
  let mode := byteAt p 1
  let at_ := leAt p 8 8
  let st := s.tstate t
  let bad := firstFault [
    (decide (t > 95), badArg 0), (decide (mode > 1), badArg 1), resv p 2 6, (decide (at_ ≥ 2 ^ 51), badArg 8)]
  match bad with
  | some r => (s, some r)
  | none =>
    if mode = 0 then
      if st = trDISABLED then (s.cancelStart t).recoverPair t src else s.disableTree t src
    else if st = trACTIVE then (s, some (okWith (enablePayload trACTIVE 0 0)))
    else if st ≠ trDISABLED then (s, some (conflict st))
    else
      match s.enableLack t with
      | some r => (s, some r)
      | none =>
        if at_ ≠ 0 ∧ boundary t at_ < s.tide + 20000 * 256 then (s, some (badArg 8))
        else
          let s1 := s.scheduleStart t src at_
          if s1.on (pairOf t) then
            match (s1.tree t).start with
            | some x =>
              let f := (x.at_).getD (frameFrom t x.notBefore)
              ((s1.setTree t { s1.tree t with start := some { x with at_ := some f, src := none } }).loadHalf t,
                some (okWith (enablePayload trDISABLED 0 f)))
            | none => (s1, none)
          else (s1, none)

/-- TREE_ENABLE (R102, R108). -/
def execTreeEnable (src : Src) (s : State) : Res := .next (s.calvan src 0x0202 false false State.treeEnable)

/-- TREE_START (R104): at the start frame a scheduled enable makes the tree ACTIVE. -/
def execTreeStart (t : TreeId) (s : State) : Res :=
  .next (match (s.tree t).start with
  | some x =>
    match x.at_ with
    | some f => if s.tstate t = trDISABLED ∧ s.on (pairOf t) ∧ f ≤ s.frame t then s.treeActive t (s.frame t) false else s
    | none => s
  | none => s)

/-- TREE_DORMANT (R102): DORMANT_FRAMES frames without a terminal in OPERATION; not in a pair (R393), not within the
minimum stay of R105. -/
def execTreeDormant (t : TreeId) (s : State) : Res :=
  .next (let x := s.tree t
  let n := (s.times t).1
  if s.tstate t = trACTIVE ∧ n ≠ 0 ∧ !s.paired t ∧ s.rd F.TRE_STATE.OPER_TERMS t = 0 ∧ x.emptyRun ≥ n
      ∧ !x.stayUntil.any (fun f => decide (s.frame t < f)) then s.treeDormant t
  else s)

/-- SURVEY_WAKE (R105): at the tree's boundary of a frame that SURVEY_PERIOD divides. -/
def execSurveyWake (t : TreeId) (s : State) : Res :=
  .next (let n := (s.times t).2.1
  if n ≠ 0 ∧ s.frame t % (n : Int) = 0 then s.wakeTree t 7 else s)

/-- SURVEY_END (R102, R105): the stay ends; with no terminal in OPERATION the tree returns to DORMANT. -/
def execSurveyEnd (t : TreeId) (s : State) : Res :=
  .next (match (s.tree t).stayUntil with
  | some f =>
    if s.tstate t ≠ trACTIVE ∨ s.frame t < f then s
    else if s.rd F.TRE_STATE.OPER_TERMS t = 0 ∧ !s.paired t then s.treeDormant t
    else s.setTree t { s.tree t with stayUntil := none }
  | none => s)

/-- LANE_LOCK_LOST (R103): fault cause 1. -/
def execLaneLockLost (t : TreeId) (s : State) : Res := .next (s.faultTree t 1)

/-! ### Key slots (R87 to R99) -/

/-- The host address of the request at the head of the ADMIN ring. -/
def State.admReq (s : State) : Nat := match s.adminEntry with
  | some d => leAt d 0 8
  | none => 0

/-- The 16 key bytes at payload offset 16 of a request are zeroed (R89, R393). -/
def State.scrubKey (s : State) (src : Src) (addr : Nat) : State :=
  match src with
  | .mbx n => [6, 7, 8, 9].foldl (fun s k => s.wr F.MBX_n_REQ.DATA (n * 16 + k) 0) s
  | .admin => s.hostWrite (addr + 24) (zeros 16)

/-- A command that carries a key: once it is answered its key bytes are zeroed. -/
def State.calvanKey (s : State) (src : Src) (code : Nat) (boot restricted : Bool) (body : Body) : State :=
  let a := s.admReq
  let took := s.takes src code ((s.waiting src).getD [])
  let s1 := s.calvan src code boot restricted body
  if took && !s1.cp.taken.contains src then s1.scrubKey src a else s1

/-- A slot is a standby slot of a tree in PROT_STANDBY (R396). -/
def State.standbySlot (s : State) (h : Nat) : Bool :=
  s.prots.any (fun e => e.2.slotBase.any (fun b => decide (b ≤ h) && decide (h < b + 1024)) && s.tstate e.1.1 == trSTANDBY)

/-- The next bank of a slot, RETIRED until now, is written and stops serving what it served (R89): a downstream frame being
sent under it is cut, and open reassemblies under it find no serving bank. -/
def State.retireCut (s : State) (h : Nat) : State :=
  let b := !(s.slot h).phys
  let s1 := s.cutInFlight h (fun x => x == b)
  (s1.putReasms (s1.reasms.map (fun e => if e.2.slot = some h ∧ e.2.bank = b then (e.1, { e.2 with keyIndex := 7 }) else e)))

def State.keyStage (s : State) (p : List Byte) : State × Resp :=
  let h := leAt p 0 4
  let fl := byteAt p 4
  let cur := bit fl 0
  let bind := bit fl 1
  let idx := byteAt p 5
  let t := byteAt p 6
  let kind := byteAt p 7
  let k := leAt p 8 2
  let x := s.slot h
  let mine := x.bound && x.kind == kind && x.tree == t && (kind == 1 || x.term == k)
  let other := if cur then x.next else x.cur
  let bad := firstFault [
    (decide (h ≥ 2 ^ 17), badArg 0), (decide (fl > 3), badArg 4), (decide (idx ≠ 1 ∧ idx ≠ 2), badArg 5),
    (bind && decide (t > 95), badArg 6), (bind && decide (kind > 1), badArg 7), (bind && kind == 0 && decide (k > 1022), badArg 8),
    resv p 10 6, resv p 32 24,
    (s.standbySlot h, conflict 0x83),
    (bind && x.bound && !mine, conflict 1), (!bind && !x.bound, conflict 0),
    (cur && s.slotInUse h, conflict 2), (x.switchF.isSome, conflict 3),
    (other.state == 1 && other.index == idx, conflict 4)]
  match bad with
  | some r => (s, r)
  | none =>
    let old := if cur then x.cur else x.next
    let s1 := if !cur ∧ old.state = 2 then s.retireCut h else s
    let b : Bank := ⟨beAt p 16 16, idx, 1, 0⟩
    let y := if bind ∧ !x.bound then { x with bound := true, kind := kind, tree := t, term := if kind = 0 then k else 0 } else x
    let s2 := (s1.setSlot h (if cur then { y with cur := b } else { y with next := b })).emit (.cipher 1 h (if cur then 0 else 1))
    (s2, okWith (s2.keyPayload h 0))

/-- KEY_STAGE (R89). -/
def execKeyStage (src : Src) (s : State) : Res := .next (s.calvanKey src 0x0A01 false false (atOnce State.keyStage))

def State.keySwitchAt (s : State) (p : List Byte) : State × Resp :=
  let h := leAt p 0 4
  let f := leAt p 8 8
  let x := s.slot h
  let bad := firstFault [
    (decide (h ≥ 2 ^ 17), badArg 0), resv p 4 4, (decide (f ≥ 2 ^ 51), badArg 8),
    (s.standbySlot h, conflict 0x83), (!x.bound, conflict 0), (decide (x.next.state ≠ 1), conflict 5),
    (decide ((f : Int) < s.frame x.tree + 2), badArg 8)]
  match bad with
  | some r => (s, r)
  | none =>
    let s1 := s.setSlot h { x with switchF := some (f : Int) }
    (s1, okWith (s1.keyPayload h (x.switchF.getD 0)))

/-- KEY_SWITCH_AT (R91). -/
def execKeySwitchAt (src : Src) (s : State) : Res := .next (s.calvan src 0x0A02 false false (atOnce State.keySwitchAt))

def State.keyErase (s : State) (p : List Byte) : State × Resp :=
  let h := leAt p 0 4
  match firstFault [(decide (h ≥ 2 ^ 17), badArg 0), (decide (byteAt p 4 > 1), badArg 4), resv p 5 3] with
  | some r => (s, r)
  | none =>
    let s1 := s.eraseSlot h
    let s2 := if bit (byteAt p 4) 0 then s1.unbindSlot h else s1
    (s2, okWith (s2.keyPayload h 0))

/-- KEY_ERASE (R93). -/
def execKeyErase (src : Src) (s : State) : Res := .next (s.calvan src 0x0A03 true true (atOnce State.keyErase))

/-- An erased standby slot sends its listening tree back to SYNCING with cause 12 (R398). -/
def State.alarmErase (s : State) (h : Nat) : State :=
  s.prots.foldl
    (fun s e => if e.2.slotBase.any (fun b => decide (b ≤ h) && decide (h < b + 1024)) && psListens (s.ps e.1.1) then s.enterSyncing e.1.1 12 else s)
    (s.eraseSlot h)

/-- CIPHER_ERASE_NOTICE (R93). -/
def execCipherEraseNotice (slots : List SlotId) (s : State) : Res := .next (slots.foldl (fun s (h : SlotId) => s.alarmErase h) s)

/-- KEY_SWAP (R91): at the boundary of F_s the banks swap; the former current bank becomes RETIRED, an EMPTY one stays
EMPTY. -/
def execKeySwap (slot : SlotId) (s : State) : Res :=
  .next (let x := s.slot slot
  match x.switchF with
  | some f =>
    if f ≤ s.frame x.tree then
      (s.setSlot slot { x with cur := x.next, next := if x.cur.state = 0 then x.cur else { x.cur with state := 2, retiredF := f },
                               phys := !x.phys, switchF := none }).emit (.cipher 2 slot 0)
    else s
  | none => s)

/-- RETIRED_BANK_EXPIRE (R124): RETIRE_HOLD frames after the switch the RETIRED bank becomes EMPTY. -/
def execRetiredBankExpire (slot : SlotId) (s : State) : Res :=
  .next (let x := s.slot slot
  if x.next.state = 2 ∧ x.next.retiredF + (max 1 (s.rd F.TRE_US_CTL.RETIRE_HOLD x.tree) : Nat) ≤ s.frame x.tree then
    (s.setSlot slot { x with next := Bank.empty }).emit (.cipher 0 slot 1)
  else s)

/-! ### The map latch (R78) -/

/-- A DIGEST of a map to the partner (R399). -/
def State.sendDigest (s : State) (t : Nat) (fr : Int) (grants : List Grant) (crc flags : Nat) : State :=
  if !psSends (s.ps t) then s
  else
    let bursts := groupBursts (grants.filter (fun g => g.kind == 0))
    let u := (s.prot t).ups.headD UsCount.zero
    let one := fun (b : List Grant) =>
      let g := b.headD ⟨0, 0, 0, 0, 0, false, false, 0, 0, 0⟩
      leBytes 8 (g.start + ((s.spanOf t fr b).2).toNat * 2 ^ 16 + g.term * 2 ^ 32 + g.rate * 2 ^ 42 + g.bprof * 2 ^ 44)
    s.protMsg t 1 fr (leBytes 4 crc ++ leBytes 2 bursts.length ++ leBytes 1 flags ++ zeros 1 ++ leBytes 2 u.found ++
      leBytes 2 u.granted ++ zeros 4 ++ leBytes 8 (f51 u.f) ++ bursts.flatMap one)

/-- The frame whose latch instant, 500 ns before its boundary, was the last to pass. -/
def State.latchFrame (s : State) (t : Nat) : Int := (s.tide + 500 * 256 - treePhase t) / frameTicks

/-- The latch on a sending tree: the released map, else the hold map, else an empty map (R78, R79, R415). -/
def State.latchMap (s : State) (t : Nat) (fr : Int) : State :=
  let x := s.tree t
  let put := fun (s : State) (m : BwMap) (k : Nat) =>
    s.setTree t { s.tree t with latched := some m, mapKind := k, relMap := none, ploamMax := some (s.rd F.TRE_CFG.PLOAM_MAX t) }
  if x.warm > 0 then put s ⟨fr, []⟩ 2
  else
    let held : Option BwMap := x.latched.filter (fun m => m.f == fr - 1 && x.mapKind == 0)
    match x.relMap.filter (fun m => m.f == fr), held with
    | some m, _ => put s m 0
    | none, some m =>
      let g := m.grants.filter (fun g => g.kind == 0)
      let s1 := (((put s ⟨fr, g⟩ 1).incSat F.TRE_DS_HOLDMAP.COUNT t 1).treEvent t F.TRE_EVENT.MAP_HOLD).blockEvent t 0x0A 1
      s1.sendDigest t fr g (s1.mapCrc t g) 2
    | none, none =>
      let s1 := (put s ⟨fr, []⟩ 2).treEvent t F.TRE_EVENT.MAP_EMPTY
      if s1.activeUnit.isNone then s1.sendDigest t fr [] (s1.mapCrc t []) 1 else s1

/-- The latch on a listening tree: whether the DIGEST has arrived, and condition B (R403, R404). -/
def State.latchListen (s : State) (t : Nat) (fr : Int) : State :=
  let p := s.prot t
  let s0 := s.setTree t { s.tree t with latched := some ⟨fr, []⟩ }
  if p.digests.any (fun d => d.1 == fr) then s0.wr F.PROT_Tt_OBS.DIGEST_GAP t 0
  else
    let gap := satAdd 8 (s0.rd F.PROT_Tt_OBS.DIGEST_GAP t) 1
    let s1 := (s0.wr F.PROT_Tt_OBS.DIGEST_GAP t gap).incSat F.PROT_Tt_DIGEST_LOST.COUNT t 1
    if s1.ps t = psREADY ∧ gap ≥ 3 then
      (if s1.member (s1.rd F.PROT_Tt_STATE.PARTNER t) then s1.takeover t 3 else s1.protSet t psCLAIMING 3)
    else s1

/-- MAP_LATCH (R78). -/
def execMapLatch (t : TreeId) (s : State) : Res :=
  .next (let fr := s.latchFrame t
  let x := s.tree t
  if x.latched.any (fun m => decide (m.f ≥ fr)) then s
  else if s.tstate t = trACTIVE ∧ x.firstF.any (fun f => decide (f ≤ fr)) then s.latchMap t fr
  else if psListens (s.ps t) then s.latchListen t fr
  else s)

/-! ### The boundary (R77) -/

/-- Bandwidth windows (R458): running totals stand in group 1,000 + t: 0 the window's first frame plus one, 1 to 6 the
totals in the order of R456. -/
def bwGroup (t : Nat) : Nat := 1000 + t

def State.bwAdd (s : State) (t i n : Nat) : State := if s.cnt (bwGroup t) 0 = 0 then s else s.addCnt (bwGroup t) i n

def State.setCnt (s : State) (page off n : Nat) : State := { s with counts := smSet 0 s.counts (page, off) n }

/-- At the boundary that begins a window, the totals of the one before replace the BW_ counts. -/
def State.bwFrame (s : State) (t : Nat) (fr : Nat) : State :=
  let n := max 1 (s.rd F.PMC_BW_CFG.FRAMES 0)
  let w := fr - fr % n
  let st := s.cnt (bwGroup t) 0
  if st = w + 1 ∨ (st = 0 ∧ fr % n ≠ 0) then s
  else
    let s1 := if st = 0 then s
      else
        let full := decide (st - 1 + n = w)
        ([1, 2, 3, 4, 5, 6].foldl (fun s i => s.setCnt (pageTree t) (0x180 + 8 * i) (if full then s.cnt (bwGroup t) i else 0)) s).setCnt
          (pageTree t) 0x180 (w - n)
    ([1, 2, 3, 4, 5, 6].foldl (fun s i => s.setCnt (bwGroup t) i 0) s1).setCnt (bwGroup t) 0 (w + 1)

/-- Messages chosen for a frame: up to `n`, URGENT first, each placed before the latch instant (R80). -/
def pickPloam (n : Nat) (latch : Int) (urgent normal : List Ploam) : List Ploam × List Ploam × List Ploam :=
  let u := (urgent.takeWhile (fun p => decide (p.at_ < latch))).take n
  let m := (normal.takeWhile (fun p => decide (p.at_ < latch))).take (n - u.length)
  (u ++ m, urgent.drop u.length, normal.drop m.length)

/-- A message carried by frame F takes its effect on what waits for it (R114, R128, R143). -/
def State.carried (s : State) (t : Nat) (fr : Int) (p : Ploam) : State :=
  let mark := fun (s : State) => if p.term = 1023 then s else s.setTerm t p.term { s.term t p.term with rangedF := some fr }
  match p.msg with
  | .rangingTime _ => if (s.term t p.term).state = tmRANGING then mark s else s
  | .deregister => if (s.term t p.term).removing then mark s else s
  | .burstProfile rate index _ =>
    let b := smGet BurstSlot.none_ s.bprofs (t, rate * 4 + index)
    if b.announce then s.putBprofs (smSet BurstSlot.none_ s.bprofs (t, rate * 4 + index) { b with announce := false, fromF := some (fr + 2) })
    else s
  | _ => s

/-- The bursts a map makes expected (R112, R115). -/
def State.expectedOf (s : State) (t : Nat) (m : BwMap) : List Expected :=
  (groupBursts (m.grants.filter (fun g => g.kind == 0))).map (fun b =>
    let x := s.ofGrants t m.f b
    let sp := s.burstSpan t m.f x
    ⟨x.term, b, x.rate, x.bprof, m.f, sp.1, sp.2, false, false⟩)

/-- Messages held by the control processor are queued as room frees (R81), each once its terminal's receive window is
closed (R137). -/
def State.queueHeld (s : State) (t : Nat) : State :=
  (s.tree t).held.foldl
    (fun s p =>
      let x := s.tree t
      if x.ploamRoom p ∧ !(decide (p.term < 1023) && (s.term t p.term).rxClosed) then
        (s.setTree t { x with held := x.held.erase p }).ploamPut t { p with at_ := s.tide }
      else s) s

/-- The head of frame F (R77, R79, R80), after the frame before it has ended: map, PLOAM messages, the space left for XGEM
frames. -/
def State.beginFrame (before : State) (t : Nat) (fr : Int) : State :=
  let s := before.endFsFrame t
  let x := s.tree t
  let warm := decide (x.warm > 0)
  let map := if warm then [] else ((x.latched.filter (fun m => m.f == fr)).map (fun m => m.grants)).getD []
  let kind := if warm ∨ !(x.latched.any (fun m => m.f == fr)) then 2 else x.mapKind
  let n := if warm then 0 else x.ploamMax.getD (s.rd F.TRE_CFG.PLOAM_MAX t)
  let (ploam, urgent, normal) := pickPloam n (boundary t fr - 500 * 256) x.urgent x.normal
  let f50 := s.f50 t
  let head := if f50 then Config.fsHeadF50 else 8
  let noTerm := decide (s.rd F.TRE_STATE.OPER_TERMS t = 0)
  let s1 := (s.wr F.TRE_DS_FRAME.F t (f51 fr)).setTree t { x with
    warm := x.warm - 1, warmNow := warm, ploamMax := none, bcastOld := none, urgent := urgent, normal := normal, txOn := true,
    mapKind := kind, latched := some ⟨fr, map⟩, xgemLeft := fsCap f50 - head - 8 * map.length - 48 * ploam.length,
    emptyRun := if noTerm then x.emptyRun + 1 else 0 }
  let s2 := ploam.foldl (fun s p => s.carried t fr p) 
    (s1.emit (.dsFrame t (f51 fr) (s.rd F.TRE_PON_ID.PON_ID t) map.length ploam.length kind map ploam))
  let s3 := if ploam = [] then s2 else s2.blockEvent t 0x08 ploam.length
  let s4 := s3.setTreeU t { s3.treeU t with expected := (s3.treeU t).expected ++ s3.expectedOf t ⟨fr, map⟩ }
  let s5 := if kind = 0 then
      (s4.bwAdd t 3 (map.foldl (fun a g => a + g.size) 0)).bwAdd t 6 (s4.idleUnits t ⟨fr, map⟩)
    else s4
  s5.queueHeld t

/-- The partner's tide less the own, each frame of a pair (R403, R418). -/
def State.tideCheck (s : State) (t : Nat) : State :=
  match s.tideOffset (s.rd F.PROT_Tt_STATE.PARTNER t) with
  | none => s
  | some d =>
    let s1 := s.wr F.PROT_Tt_TIDE_ERR.ERR t (ofSigned 32 (satSigned 32 d))
    if d.natAbs ≤ 8 * 256 then (s1.setProt t { s1.prot t with tideBad := 0 }).tryReady t
    else
      let n := (s1.prot t).tideBad + 1
      let s2 := s1.setProt t { s1.prot t with tideBad := n }
      if s2.ps t = psREADY ∧ n ≥ 8 then s2.enterSyncing t 13 else s2

/-- SENDING at a boundary: the planned switch and the partner's STATUS (R407, R413). -/
def State.sendingBoundary (s : State) (t : Nat) (fr : Int) : State :=
  let planned := (s.prot t).sw.filter (fun w => !w.forced)
  match planned.filter (fun w => w.echoed && decide (w.at_ ≤ fr)) with
  | some w =>
    let s1 := (((s.goStandby t).takeImage t).enterSyncing t 10).forgetSent t
    (s1.switchAnswer t (okWith (s1.switchPayload t w.at_))).protEvent F.PROT_EVENT.SWITCHED
  | none =>
    let s0 := if planned.any (fun w => !w.echoed && decide (w.at_ - 2 ≤ fr)) then s.switchAnswer t (refuse stTIMEOUT 0) else s
    let p := s0.prot t
    if p.statusAt.any (fun x => decide (s0.tide - x ≤ 250000 * 256)) then s0
    else if p.pState = psREADY ∨ p.pState = psCLAIMING ∨ p.pState = psTAKING then
      ((s0.switchAnswer t (refuse stINTERNAL 0x41)).goStandby t).enterDark t psHELD 6
    else if p.pState = psSYNCING then (s0.switchAnswer t (refuse stINTERNAL 0x41)).protSet t psALONE 6
    else s0

/-- Where the upstream frame of a partner's map begins at a listening tree (R401, R406). -/
def State.listenRef (s : State) (t : Nat) (fr : Int) : Int := boundary t fr + (s.rd F.TRE_US_TEQD.NS t * 256 : Nat) + s.delta t

/-- Upstream frames of DIGESTs none of whose bursts is hunted end with their frame (R403, R404). -/
def State.emptyUsFrames (s : State) (t : Nat) : State :=
  if !psListens (s.ps t) then s
  else
    ((s.prot t).digests.filter (fun d => decide (s.listenRef t d.1 + frameTicks ≤ s.tide) && !(s.treeU t).expected.any (fun e => decide (e.f = d.1)))).foldl
      (fun s d => s.usFrameEnd t ⟨d.1, leAt d.2 4 2, 0⟩) s

/-- A pair's steps at its tree's boundary of frame F (R405, R407, R409, R411, R413). -/
def State.protBoundary (s : State) (t : Nat) (fr : Int) : State :=
  if s.ps t = psNONE then s
  else
    let s0 := ((s.wr F.PROT_Tt_OBS.ACK_GAP t (satAdd 8 (s.rd F.PROT_Tt_OBS.ACK_GAP t) 1)).tideCheck t).emptyUsFrames t
    let p := s0.prot t
    let ps := s0.ps t
    let s1 := if psSends ps ∧ p.sw.any (fun w => w.forced) ∧ p.takeF ≤ fr then
        (s0.switchAnswer t (okWith (s0.switchPayload t p.takeF))).protEvent F.PROT_EVENT.SWITCHED
      else s0
    let dark := decide (s1.tstate t = trSTANDBY)
    if p.yielding ∧ s1.tstate t = trACTIVE then ((s1.switchAnswer t (refuse stINTERNAL 0x41)).goStandby t).forgetSent t
    else
      if ps = psSENDING then s1.sendingBoundary t fr
      else if dark ∧ ps = psHELD then
        if p.heard ∧ (p.pState = psREADY ∨ p.pState = psSYNCING) then
          (s1.protSet t psSENDING 0).goActive t fr
        else if p.silentLease ∧ s1.leaseHeld t ∧ !p.heard ∧ p.silenced.any (fun f => decide (f + 8 ≤ fr)) then
          (s1.protSet t psALONE 7).goActive t fr
        else s1
      else if dark ∧ ps = psCLAIMING ∧ s1.leaseHeld t then (s1.protSet t psALONE 7).goActive t fr
      else if ps = psREADY ∧ p.sw.any (fun w => !w.forced && w.echoed && decide (w.at_ - 1 ≤ fr)) then s1.takeover t 10
      else if ps = psTAKING ∧ p.takeF + 2 ≤ fr then (s1.goStandby t).enterDark t psCLAIMING 9
      else s1

/-- DS_FRAME_START (R77): at the tree's boundary. -/
def execDsFrameStart (t : TreeId) (s : State) : Res :=
  .next (let fr := s.frame t
  if (s.tree t).begun.any (fun f => decide (f ≥ fr)) then s
  else
    let s1 := ((s.setTree t { s.tree t with begun := some fr }).wokenActive t fr).protBoundary t fr
    let sends := decide (s1.tstate t = trACTIVE) && s1.on (pairOf t) && (s1.tree t).firstF.any (fun f => decide (f ≤ fr))
    let s2 := (s1.todCapture t fr sends).bwFrame t fr.toNat
    let s3 := if sends then s2.beginFrame t fr else s2
    if s3.ps t = psNONE then s3 else (s3.mirrorFrame t fr).sendStatus t)

/-- PLOAM_HELD_QUEUED (R81). -/
def execPloamHeldQueued (t : TreeId) (s : State) : Res := .next (s.queueHeld t)

/-! ### Drawing frames (R82 to R86) -/

/-- A staged frame whose terminal is not in the operation state (R83). -/
def State.noTerm (s : State) (t : Nat) (f : Staged) : Bool := f.term != 1023 && (s.term t f.term).state != tmOPERATION

/-- A terminal takes part in the round robin (R83). -/
def State.eligible (s : State) (t k : Nat) : Bool := k == 1023 || ((s.term t k).state == tmOPERATION && !(s.term t k).rxClosed)

/-- The frame at the head of a terminal: its highest class, in the order staged (R82). -/
def headOf (l : List Staged) (k : Nat) : Option Staged :=
  [7, 6, 5, 4, 3, 2, 1, 0].findSome? (fun c => l.find? (fun f => f.term == k && f.cls == c))

/-- Deficit round robin over (terminal, head length, deficit) in the order after the terminal served last: the first whose
deficit suffices after the fewest quanta, and the deficits then. -/
def drrPick (q : Nat) (l : List (Nat × Nat × Nat)) : Option (Nat × List (Nat × Nat)) :=
  let rounds := fun (x : Nat × Nat × Nat) => max 1 (ceilDiv (x.2.1 - x.2.2) q)
  match l with
  | [] => none
  | a :: rest =>
    let best := rest.foldl (fun m x => if rounds x < rounds m then x else m) a
    let r := rounds best
    let before := (l.takeWhile (fun x => decide (x.1 ≠ best.1))).map (fun x => (x.1, x.2.2 + r * q))
    let after := (l.dropWhile (fun x => decide (x.1 ≠ best.1))).drop 1
    some (best.1, before ++ (best.1, best.2.2 + r * q) :: after.map (fun x => (x.1, x.2.2 + (r - 1) * q)))

/-- What R85 gives a frame's port: none for clear, else the slot, none where there is none. -/
def State.portKey (s : State) (t : Nat) (f : Staged) : Option (Option Nat) :=
  if ((s.flow t f.port).map (fun x => x.dsEnc)).getD false then some (s.dsSlot t f.term) else none

/-- The frame's flow port is encrypted and its slot's current bank holds no VALID key (R85, R93). -/
def State.keyGone (s : State) (t : Nat) (f : Staged) : Bool :=
  match s.portKey t f with
  | none => false
  | some none => true
  | some (some h) => decide ((s.slot h).cur.state ≠ 1)

/-- A staged frame at the head of its class that is dropped there: its terminal is not in the operation state, or its key is
gone (R83, R93). -/
def State.headDrop (s : State) (t : Nat) (l : List Staged) (f : Staged) : Bool :=
  (s.noTerm t f || s.keyGone t f) && l.find? (fun g => g.term == f.term && g.cls == f.cls) == some f

/-- The launch frame due first, OMCI messages, frames dropped at the head of their class, then the round robin (R82, R83, R93,
R288). -/
def State.nextDraw (s : State) (t : Nat) : Option (Staged × State) :=
  let x := s.tree t
  let ok := fun (f : Staged) => s.noTerm t f || s.eligible t f.term
  let due := x.staged.filter (fun f => f.launch.any (fun l => decide (l ≤ s.tide)) && ok f)
  let first := due.foldl (fun (m : Option Staged) f => match m with
    | some g => if f.launch.getD 0 < g.launch.getD 0 then some f else m
    | none => some f) none
  match first with
  | some f => some (f, s)
  | none =>
    let plain := x.staged.filter (fun f => f.launch.isNone && ok f)
    match plain.find? (fun f => f.omci) with
    | some f => some (f, s)
    | none =>
      match x.staged.find? (fun f => f.launch.isNone && s.headDrop t (x.staged.filter (fun g => g.launch.isNone)) f) with
      | some f => some (f, s)
      | none =>
        let q := 64 * max 1 (s.rd F.TRE_DS_CTL.QUANTUM t)
        let terms := (List.range 1024).filter (fun k => plain.any (fun f => f.term == k))
        let info := fun (k : Nat) => (k, ((headOf plain k).map (fun f => f.bytes.length)).getD 0, smGet 0 x.deficit (k, 0))
        let cur := info x.rrLast
        if terms.contains x.rrLast ∧ cur.2.1 ≤ cur.2.2 then (headOf plain x.rrLast).map (fun f => (f, s))
        else
          match drrPick q ((rotate terms x.rrLast).map info) with
          | none => none
          | some (k, d) =>
            let s1 := s.setTree t { x with deficit := d.foldl (fun m e => smSet 0 m (e.1, 0) e.2) x.deficit, rrLast := k }
            (headOf plain k).map (fun f => (f, s1))

/-- A frame leaves staging. -/
def State.unstage (s : State) (t : Nat) (f : Staged) : State := s.setTree t { s.tree t with staged := (s.tree t).staged.erase f }

/-- A frame that is not sent: its cells are freed, a host frame completes with a status, a count increments. -/
def State.notSent (s : State) (t : Nat) (f : Staged) (status : Nat) (count : Option Fld) : State :=
  let s1 := ((s.unstage t f).freeCells f.cell).endFrame f.origin status
  match count with
  | some c => s1.incSat c t 1
  | none => s1

/-- A drawn frame that the checks of R66, R83, R86, R93 and R251 refuse is dealt with; else none. -/
def State.refuseDraw (s : State) (t : Nat) (f : Staged) : Option State :=
  let len := f.bytes.length
  let late := f.launch.any (fun l => decide (s.tide > l + s.rd F.TB_LAUNCH.LATE_TOL 0 * 256))
  let maxF := s.rd F.TRE_CFG.MAX_FRAME t
  if s.noTerm t f then some (s.notSent t f txNO_TERMINAL (some F.TRE_DS_NOTERM.COUNT))
  else if late ∧ s.flag F.TB_LAUNCH.LATE_POLICY 0 then some (s.notSent t f txLAUNCH_DROP none)
  else if !f.omci ∧ len < 64 then some (s.notSent t f txRUNT (some F.TRE_DS_RUNT.COUNT))
  else if !f.omci ∧ len > maxF then
    let cut := f.bytes.take maxF
    let copy : RxFrame := ⟨cut, 9, 1 + rxFlags cut, t, f.cls, 1, f.term, f.port, 0xFFFF, 0, f.tsNs, f.tsInfo, 0, none, f.cell⟩
    some ((s.bittern t copy).notSent t f txOVERSIZE (some F.TRE_DS_OVERSIZE.COUNT))
  else if s.keyGone t f then some (s.notSent t f txKEY_LOST (some F.TRE_DS_KEYDROP.COUNT))
  else none

/-- The next fragment of a frame leaves, `n` bytes of it (R82, R84, R88). -/
def State.emitFragment (s : State) (t : Nat) (w : InFlight) (n : Nat) : State :=
  let sent := w.frame.bytes.length - w.left
  s.emit (.xgem t w.frame.port (w.slot.map (fun h => (h, b2n (w.bank != (s.slot h).phys), w.keyIndex)))
    (sent == 0) (n == w.left) ((w.frame.bytes.drop sent).take n))

/-- The XGEM frame partly sent goes on, or an idle frame fills the space (R84). -/
def State.sendFragment (s : State) (t : Nat) : State :=
  let x := s.tree t
  let f50 := s.f50 t
  let h := Config.xgemHeader f50
  match x.inFlight with
  | none => s
  | some w =>
    if x.xgemLeft < h + 8 then s.idleFill t x.xgemLeft
    else if h + Config.xgemPad f50 w.left ≤ x.xgemLeft then
      let f := w.frame
      let s1 := (s.setTree t { x with inFlight := none, xgemLeft := x.xgemLeft - h - Config.xgemPad f50 w.left }).emitFragment t w w.left
      let s2 := ((s1.blockEvent t 0x03 1).blockEvent t 0x01 1).freeCells f.cell
      let s3 := if f.omci then s2
        else ((s2.addFrames (pageTree t) 0x80 f.bytes.length).bwAdd t 1 f.bytes.length).bwAdd t 4 1
      match f.origin with
      | .trunk => s3
      | .host r i => s3.finishTx r i w.done
    else
      let n := x.xgemLeft - h
      ((s.setTree t { x with inFlight := some { w with left := w.left - n, fragF := s.frame t, frag := n }, xgemLeft := 0 }).emitFragment t w n).blockEvent
        t 0x03 1

/-- A frame's first fragment begins (R62, R66, R84, R85, R92): its timestamp is taken, a one-step Sync is rewritten, its bank
is chosen. A launch frame both late and skipped by one-step handling reports LAUNCH_LATE, and an OMCI message takes no one-step
handling and reports no ONESTEP_SKIP (DESIGN CHOICE, log entry 59: the spec names no order of the two, and no one-step of
OMCI). -/
def State.startFrame (s : State) (t : Nat) (f : Staged) : State :=
  let st := s.stamp
  let late := f.launch.any (fun l => decide (s.tide > l + s.rd F.TB_LAUNCH.LATE_TOL 0 * 256))
  let want := f.ofHost && bit f.flags 2 && !f.omci
  let stepped := if want ∧ st.valid then oneStep f.bytes (s.domNs s.sel) (s.domTime s.sel % 2 ^ 16) else none
  let bytes := stepped.getD f.bytes
  let status := if late then txLAUNCH_LATE else if want ∧ stepped.isNone then txONESTEP_SKIP
    else if bit f.flags 15 then txCSUM_SKIP else txOK
  let slot := (s.portKey t f).bind id
  let idx := (slot.map (fun h => (s.slot h).cur.index)).getD 0
  let bank := (slot.map (fun h => (s.slot h).phys)).getD false
  let done := match f.origin with
    | .trunk => []
    | .host r i => txCompletion (s.hostRead (s.entryAddr r i) 32) st status bytes.length (toShort s.tide)
  let s1 := s.unstage t f
  let x := s1.tree t
  let left := x.staged.any (fun g => g.term == f.term && g.launch.isNone && !g.omci)
  let d := if f.launch.isSome ∨ f.omci then x.deficit
    else if left then smSet 0 x.deficit (f.term, 0) (smGet 0 x.deficit (f.term, 0) - f.bytes.length)
    else smDel x.deficit (f.term, 0)
  (s1.setTree t { x with deficit := d, inFlight := some ⟨{ f with bytes := bytes }, bytes.length, slot, bank, idx, s.frame t, 0, false, done⟩ }).sendFragment t

/-- Frames at their heads that may not be sent are dealt with, until one is sent or none is left (R82, R86). -/
def State.drawLoop (t : Nat) : Nat → State → State
  | 0, s => s
  | n + 1, s =>
    match s.nextDraw t with
    | none => s.idleFill t (Config.xgemHeader (s.f50 t))
    | some (f, s1) =>
      match s1.refuseDraw t f with
      | some s2 => State.drawLoop t n s2
      | none =>
        match s1.cellRead f.cell with
        | (true, s2) => State.drawLoop t n (s2.notSent t f txMEM_ERR none)
        | (false, s2) => s2.startFrame t f

/-- DRAW_FRAME (R82): XGEM space is free in the frame being sent. -/
def execDrawFrame (t : TreeId) (errs : List Upset) (s : State) : Res :=
  .next (let s := s.upset errs
  let x := s.tree t
  if s.tstate t ≠ trACTIVE ∨ !s.on (pairOf t) ∨ x.xgemLeft = 0 then s
  else if x.warmNow ∨ x.xgemLeft < Config.xgemHeader (s.f50 t) + 8 then
    s.idleFill t x.xgemLeft
  else if x.inFlight.isSome then s.sendFragment t
  else s.drawLoop t (x.staged.length + 1))

end Sys2Proof.Machine
end

