-- ==== Sys2Proof/Machine/TermOps.lean ====
section
/-! DEFINITION. Terminals' and bursts' shared operations (04_tree_upstream.md): quenching (R145), equalisation delays
(R131), telemetry (R461), reassembly and decryption (R119 to R126), and what a burst does to its terminal's counts
(R115 to R118, R133). -/

namespace Sys2Proof.Machine

/-- The tree receives as a transmitting side: it is ACTIVE and its pair domain is ON. -/
def State.receives (s : State) (t : Nat) : Bool := s.tstate t == trACTIVE && s.on (pairOf t)

/-! ### Quench (R128, R145) -/

/-- What a record forgets when it goes to EXPECTED or STOPPED: windows, ranging, counts of lost frames. -/
def Term.settled (x : Term) : Term :=
  { x with win := none, forceAwake := false, ranged := false, rangedF := if x.removing then x.rangedF else none, tries := 0,
           lob := 0, wantsRange := false }

/-- Whether a record can be stopped (R128). -/
def Term.stoppable (x : Term) : Bool :=
  x.state == tmEXPECTED || x.state == tmRANGING || x.state == tmOPERATION || x.state == tmLOST

/-- A record goes to STOPPED with its cause: windows closed, accounts 0, ranging requests removed (R128, R138, R152,
R170). The disable message is queued by the caller. -/
def State.stopTerm (s : State) (t k cause : Nat) : State :=
  let s1 := s.setTerm t k { (s.term t k).settled with cause := cause, evidence := none, lightRun := 0 }
  ((s1.termState t k tmSTOPPED).zeroAccounts t k).dropRanging t k

/-- A message that goes only while the tree is ACTIVE (R145). -/
def State.whileActive (s : State) (t : Nat) (f : State → State) : State := if s.tstate t = trACTIVE then f s else s

/-- One terminal is quenched (R145, R136). -/
def State.quenchOne (s : State) (t k cause : Nat) : State :=
  (s.stopTerm t k cause).whileActive t (fun s => s.ploamUrgent t k .disable)

/-- The records of a tree a test names. -/
def State.termsThat (s : State) (t : Nat) (p : Term → Bool) : List Nat := ((s.termsOf t).filter (fun e => p e.2)).map (fun e => e.1)

/-- A STOPPED record is released (R128). -/
def State.releaseTerm (s : State) (t k : Nat) : State := (s.setTerm t k { s.term t k with cause := 0 }).termState t k tmEXPECTED

/-- The response of a QUENCH of all terminals (R145). -/
def quenchAll (t st : Nat) : Resp := okWith (leBytes 1 t ++ leBytes 1 st ++ leBytes 2 1023 ++ zeros 44)

/-- QUENCH as the transmitting or unpaired device applies it, its fields being good (R145). -/
def State.applyQuench (s : State) (p : List Byte) : State × Resp :=
  let t := byteAt p 0
  let k := leAt p 2 2
  let st := (s.term t k).state
  if bit (byteAt p 1) 0 then
    if k = 1023 then
      let s1 := (s.termsThat t (fun x => x.state == tmSTOPPED)).foldl (fun s k => s.releaseTerm t k) s
      (s1.whileActive t (fun s => s.ploamNormal t 1023 .enable), quenchAll t tmEXPECTED)
    else if st ≠ tmSTOPPED then (s, conflict st)
    else
      let s1 := (s.whileActive t (fun s => s.ploamTo t k .enable)).releaseTerm t k
      (s1, okWith (s1.termHead t k ++ zeros 24))
  else if k = 1023 then
    let s1 := (s.termsThat t Term.stoppable).foldl (fun s k => s.stopTerm t k 0) s
    (s1.whileActive t (fun s => s.ploamUrgent t 1023 .disable), quenchAll t tmSTOPPED)
  else if st = tmUNUSED then (s, conflict 0)
  else
    let s1 := if st = tmSTOPPED then s else s.quenchOne t k 0
    (s1, okWith (s1.termHead t k ++ zeros 24))

/-! ### Ranging (R131) -/

/-- An equalisation delay in the unit of the ranging-time message: bits at the XGS rate, rounded to nearest (R131). -/
def rangeUnits (f50 : Bool) (eqd : Int) : Int :=
  if f50 then Config.rangeUnitsF50 eqd else (2 * eqd * 995328 + 25600000) / 51200000

/-- A ranging-time message with a terminal's equalisation delay. -/
def State.sendRanging (s : State) (t k : Nat) : State :=
  s.ploamTo t k (.rangingTime (rangeUnits (s.f50 t) (s.term t k).eqd))

/-! ### Telemetry (R461) -/

def State.telOf (s : State) (t : Nat) : List (List Byte) := smGet [] s.tel (t, 0)

/-- A tree's buffer of telemetry records, its FILL with it. -/
def State.setTel (s : State) (t : Nat) (l : List (List Byte)) : State :=
  ({ s with tel := smSet [] s.tel (t, 0) l }).wr F.PMC_TEL_Tt.FILL t l.length

/-- A granted burst's record: whether it was found, and whether its header named another terminal. -/
def State.telRecord (s : State) (t : Nat) (e : Expected) (seen : Option BurstSeen) : State :=
  if !s.flag F.PMC_TEL_Tt.EN t then s
  else if (s.telOf t).length ≥ 256 then s.incSat F.PMC_TEL_Tt.LOST t 1
  else
    let missed := b2n seen.isNone
    let foreign := b2n (seen.any (fun b => b.onuId != e.term))
    let b := seen.getD ⟨0, 0, 0, 0, 0, 0, []⟩
    let w := e.term + e.rate * 2 ^ 12 + missed * 2 ^ 14 + foreign * 2 ^ 15 + ofSigned 16 (satSigned 16 (b.drift / 16)) * 2 ^ 16 +
      min 65535 b.fecCorr * 2 ^ 32 + min 255 b.fecUncorr * 2 ^ 48 + min 255 b.bip * 2 ^ 56 + toShort e.start * 2 ^ 64
    s.setTel t (s.telOf t ++ [leBytes 16 w])

/-! ### Keys (R124, R125) -/

/-- One of the two physical banks of a slot. -/
def KeySlot.bankAt (x : KeySlot) (b : Bool) : Bank := if b = x.phys then x.cur else x.next

/-- The physical bank that carries a key index: the current one where both do. -/
def KeySlot.bankOf (x : KeySlot) (idx : Nat) : Bool := if x.cur.state ≠ 0 ∧ x.cur.index = idx then x.phys else !x.phys

/-- Whether the bank an open reassembly began under still serves it (R124). -/
def State.reasmServed (s : State) (r : Reasm) : Bool :=
  decide (r.keyIndex = 0) || r.slot.any (fun h =>
    let b := (s.slot h).bankAt r.bank
    decide (b.state ≠ 0 ∧ b.index = r.keyIndex))

/-- The bank of a slot that serves a key index upstream: VALID, or RETIRED and still serving. -/
def KeySlot.bankFor (x : KeySlot) (idx : Nat) : Option Bank :=
  if x.cur.state ≠ 0 ∧ x.cur.index = idx then some x.cur
  else if x.next.state ≠ 0 ∧ x.next.index = idx then some x.next
  else none

/-- Whether the key index of a fragment can be served on a flow port (R125). -/
def State.keyServes (s : State) (t k : Nat) (usEnc : Bool) (idx : Nat) : Bool :=
  if idx = 0 then !usEnc
  else usEnc && decide (idx ≤ 2) && ((s.term t k).slot.any (fun h => ((s.slot h).bankFor idx).isSome))

/-! ### Reassembly (R120 to R126) -/

/-- A frame that ended in reassembly as it goes to an RX ring. -/
def Reasm.rx (r : Reasm) (t a reason flags : Nat) (bytes : List Byte) : RxFrame :=
  ⟨bytes, reason, flags, t, 0, 0, r.term, r.port, a, 0, r.tsNs, r.tsInfo, 0, none, r.cell⟩

/-- A frame passed on to classification, counted (R122, R456, R458). -/
def State.passOn (s : State) (t a : Nat) (r : Reasm) (bytes : List Byte) (trunc bad : Bool) : State :=
  let f : UsFrame := ⟨t, r.term, a, r.port, 0, 0, trunc, bad, bit r.tsInfo 5, r.tsNs, r.tsInfo, bytes, r.cell, .trunk⟩
  let s1 := ((s.addFrames (pageTree t) 0x90 bytes.length).bwAdd t 2 bytes.length).bwAdd t 5 1
  (s1.putBuf { s1.buf with lookupUs := s1.buf.lookupUs ++ [f] })

/-- A frame has its last fragment (R121 to R123, R300). -/
def State.endReasm (s : State) (t a : Nat) (r : Reasm) : State :=
  let s1 := (s.putReasms (smDel s.reasms (t, a))).blockEvent t 0x07 1
  let drop := fun (s : State) => s.freeCells r.cell
  if r.port = Config.omccPort r.term then
    drop (match s1.omciRing t with
      | some ring => s1.rxOffer ring (r.rx t a 5 0 r.bytes)
      | none => (s1.incSat F.IRQ_RING_DROP.COUNT 0 1).addCnt legHost 1 1)
  else if r.bytes.length ≤ 63 then drop (((s1.incSat F.TRE_US_RUNT.COUNT t 1).addCnt (legTree t) 8 1).bittern t (r.rx t a 6 (rxFlags r.bytes) r.bytes))
  else if r.oversz then
    (((s1.incSat F.TRE_US_OVERSIZE.COUNT t 1).addCnt (legTree t) 9 1).bittern t (r.rx t a 7 (3 + rxFlags r.bytes) r.bytes)).passOn t a r r.bytes true true
  else if r.bad ∨ !fcsGood r.bytes then
    let s2 := ((s1.incSat F.TRE_US_FCS_ERR.COUNT t 1).addCnt (legTree t) 7 1).bittern t (r.rx t a 8 (2 + rxFlags r.bytes) r.bytes)
    if s2.flag F.TRE_US_CTL.FCS_PASS t then s2.passOn t a r r.bytes false true else drop s2
  else s1.passOn t a r r.bytes false false

/-- A frame under R125 is dropped; its later fragments are ignored with it. -/
def State.keyMiss (s : State) (t a port : Nat) (last : Bool) : State :=
  let u := s.treeU t
  (s.incSat F.TRE_US_KEYMISS.COUNT t 1).setTreeU t { u with dead := u.dead.filter (fun d => d.1 ≠ a) ++ (if last then [] else [(a, port)]) }

/-- An open reassembly takes a fragment (R120, R121): cells for the bytes kept, none past MAX_FRAME. -/
def State.addFragment (s : State) (t a : Nat) (r : Reasm) (g : FragSeen) : State :=
  let all := r.bytes ++ g.bytes
  let kept := all.take r.maxFrame
  let r1 : Reasm := { r with bytes := kept, oversz := r.oversz || decide (all.length > r.maxFrame), bad := r.bad || g.bad, lastF := s.frame t }
  match s.growCells r.cell (cellsOf kept.length - cellsOf r.bytes.length) with
  | none => ((s.putReasms (smDel s.reasms (t, a))).freeCells r.cell).incSat F.TRE_US_NOCELL.COUNT t 1
  | some s1 =>
    if g.last then s1.endReasm t a r1 else s1.putReasms (smPut s1.reasms (t, a) r1)

/-- The timestamp of a fragment whose header's first bit comes `at_` after the burst's delimiter (R59 to R61). -/
def State.usStamp (s : State) (at_ : Nat) : Nat × Nat :=
  let st := s.stamp
  if st.valid then ((s.domTime s.sel + at_ * 256) / 2 ^ 16 % 2 ^ 32, st.info) else (0, 0)

/-- A first fragment opens a reassembly (R120, R124, R125); an OMCI message is no Ethernet frame and is not cut at MAX_FRAME (R288,
R297). -/
def State.openReasm (s : State) (t a k : Nat) (usEnc : Bool) (g : FragSeen) : State :=
  if !s.keyServes t k usEnc g.keyIndex then s.keyMiss t a g.port g.last
  else
    match s.takeCells 0 0 with
    | none => s.incSat F.TRE_US_NOCELL.COUNT t 1
    | some (id, s1) =>
      let (ns, info) := s.usStamp g.at_
      s1.addFragment t a ⟨g.port, k, g.keyIndex, if g.keyIndex = 0 then none else (s.term t k).slot,
        ((s.term t k).slot.map (fun h => (s.slot h).bankOf g.keyIndex)).getD false, [],
        if g.port = Config.omccPort k then 16384 else s.rd F.TRE_CFG.MAX_FRAME t, false, false, ns, info, s.frame t, id⟩ g

/-- One fragment of an allocation's portion (R119 to R126): it ends an open reassembly of another port or, where it begins a
frame, of any (R120); on no flow port of the terminal that the allocation carries it is then dropped (R144). -/
def State.fragment (s : State) (t a k : Nat) (g : FragSeen) : State :=
  let flow := s.flow t g.port
  let omcc := decide (g.port = Config.omccPort k)
  let s1 := s.dropReasm t (fun b r => b == a && (decide (r.port ≠ g.port) || g.first)) true
  if !(omcc || flow.any (fun x => x.term == k && x.alloc == some a)) then s1
  else
    let usEnc := flow.any (fun x => x.usEnc)
    match smFind s1.reasms (t, a) with
    | some r =>
      if !s1.reasmServed r then
        ((s1.putReasms (smDel s1.reasms (t, a))).freeCells r.cell).keyMiss t a g.port g.last
      else s1.addFragment t a r g
    | none =>
      let u := s1.treeU t
      if g.first then (s1.setTreeU t { u with dead := u.dead.filter (fun d => d.1 ≠ a) }).openReasm t a k usEnc g
      else if u.dead.contains (a, g.port) then
        (if g.last then s1.setTreeU t { u with dead := u.dead.filter (fun d => d.1 ≠ a) } else s1)
      else if s1.keyServes t k usEnc g.keyIndex then s1
      else s1.incSat F.TRE_US_KEYMISS.COUNT t 1

/-- One allocation's portion of a burst (R118, R119). -/
def State.portion (s : State) (t : Nat) (e : Expected) (g : Grant) (x : AllocSeen) : State :=
  let s1 := if !g.dbru then s
    else if x.dbruOk then s.postReport t g.alloc x.dbru e.f
    else s.incSat F.TRE_US_REPORT_BAD.COUNT t 1
  let s2 := x.frags.foldl (fun s f => s.fragment t g.alloc e.term f) s1
  if x.hecLoss then (s2.incSat F.TRE_US_HEC_LOSS.COUNT t 1).dropReasm t (fun a _ => a == g.alloc) true else s2

/-! ### Bursts (R115 to R117) -/

/-- The last 16 of a list of drifts with one more. -/
def addDrift (l : List Int) (d : Int) : List Int := (l ++ [d]).drop (l.length + 1 - 16)

/-- Whether 16 drifts have a mean beyond ADJ_NS (R115). -/
def State.driftOver (s : State) (t : Nat) (l : List Int) : Bool :=
  decide (l.length ≥ 16) && decide ((meanOf l).natAbs > s.rd F.TRE_US_DRIFT.ADJ_NS t * 256)

/-- The drift of a received burst counts; a mean beyond ADJ_NS corrects the equalisation delay (R115). -/
def State.takeDrift (s : State) (t k : Nat) (d : Int) : State :=
  let l := addDrift (s.term t k).drifts d
  let s1 := s.setTerm t k { s.term t k with drifts := l }
  if s1.driftOver t l then
    ((s1.setTerm t k { s1.term t k with eqd := (s1.term t k).eqd - meanOf l, drifts := [] }).sendRanging t k).treUsEvent t F.TRE_US_EVENT.DRIFT
  else s1

/-- A burst missed under R115 or R116. -/
def State.missBurst (s : State) (t k : Nat) : State :=
  let x := s.term t k
  let s1 := s.setTerm t k { x with missed := satAdd 32 x.missed 1, missF := x.missF + 1 }
  ((s1.incSat F.TRE_US_BURST_MISS.COUNT t 1).addCnt (pageTree t) 0xA8 1).blockEvent t 0x05 1

/-- A burst of a transmitting tree whose delimiter was found and whose header names its terminal (R115 to R119). -/
def State.gotBurst (s : State) (t : Nat) (e : Expected) (b : BurstSeen) : State :=
  let k := e.term
  let x := s.term t k
  let s1 := s.setTerm t k { x with
    bursts := satAdd 32 x.bursts 1, fecCorr := satAdd 32 x.fecCorr b.fecCorr, fecUncorr := satAdd 32 x.fecUncorr b.fecUncorr,
    bipErr := satAdd 32 x.bipErr b.bip, gotF := x.gotF + 1, lob := if x.state = tmLOST then 0 else x.lob }
  let s2 := if x.state = tmLOST then s1.termState t k tmOPERATION else s1
  let s3 := ((s2.addCnt (pageTree t) 0xA0 1).blockEvent t 0x04 1).blockEvent t 0x06 b.fecWords
  (e.grants.zip b.parts).foldl (fun s p => s.portion t e p.1 p.2) (s3.takeDrift t k b.drift)

/-- The evidence of R116 against a terminal with a record. -/
def State.evidence (s : State) (t k : Nat) : State :=
  if k < 1023 ∧ (s.term t k).state ≠ tmUNUSED then s.setTerm t k { s.term t k with evidence := some s.tide } else s

/-- All bursts granted to a terminal in a frame have been hunted: the frame counts towards LOB_FRAMES, or ends the run
(R133). -/
def State.lobFrame (s : State) (t k : Nat) : State :=
  let x := s.term t k
  if x.state ≠ tmOPERATION then s.setTerm t k { x with gotF := 0, missF := 0 }
  else s.setTerm t k { x with gotF := 0, missF := 0, lob := if x.gotF = 0 ∧ x.missF > 0 then x.lob + 1 else 0 }

/-- Half the hunt window of a burst (R115, R401). -/
def State.huntHalf (s : State) (t : Nat) : Nat :=
  if psListens (s.ps t) ∧ !(s.prot t).deltaOk then 4000 * 256 else max 1 (s.rd F.TRE_US_DRIFT.MAX_NS t) * 256

/-- What a listening tree adds to the sender's expected instants (R401). -/
def State.huntShift (s : State) (t : Nat) : Int :=
  if !psListens (s.ps t) then 0 else if (s.prot t).deltaOk then s.delta t else (s.prot t).deltaEst

/-- A burst heard by a listening tree: counted, its drift a sample of δ, no record changed (R401, R402). -/
def State.listenBurst (s : State) (t : Nat) (e : Expected) (seen : Option BurstSeen) : State :=
  match seen with
  | none => ((s.incSat F.TRE_US_BURST_MISS.COUNT t 1).addCnt (pageTree t) 0xA8 1).blockEvent t 0x05 1
  | some b =>
    let s1 := ((s.addCnt (pageTree t) 0xA0 1).blockEvent t 0x04 1).blockEvent t 0x06 b.fecWords
    let s2 := s1.setProt t { s1.prot t with samples := (s1.prot t).samples ++ [b.drift + s.huntShift t] }
    let l := addDrift (smGet [] (s2.treeU t).drifts (e.term, 0)) b.drift
    let drifting := s2.driftOver t l
    let s3 := s2.setTreeU t { s2.treeU t with drifts := smSet [] (s2.treeU t).drifts (e.term, 0) (if drifting then [] else l) }
    if drifting then s3.treUsEvent t F.TRE_US_EVENT.DRIFT else s3

/-- Bursts granted and found are counted by the frame of their map (R404). -/
def State.protCount (s : State) (t : Nat) (fr : Int) (found : Bool) : State :=
  if s.ps t = psNONE then s
  else
    let c := (s.prot t).cur
    let c1 : UsCount := if c.f = fr then c else ⟨fr, 0, 0⟩
    s.setProt t { s.prot t with cur := ⟨fr, c1.granted + 1, c1.found + b2n found⟩ }

end Sys2Proof.Machine
end

