-- ==== Sys2Proof/Machine/TreeUp.lean ====
section
/-! DEFINITION. Tree engines, upstream (04_tree_upstream.md): burst profiles, the terminal and flow commands, bursts and
their reset pulses, the life of a terminal record, sleep windows and rogue light. -/

namespace Sys2Proof.Machine

/-! ### Burst profiles (R113, R114) -/

/-- The detail of a field of BURST_PROFILE at fault, apart from its reserved bytes. -/
def burstProfileFault (f50 : Bool) (p : List Byte) : Option Resp :=
  let fl := byteAt p 1
  let del := bit fl 0
  let pre := leAt p 4 2
  let rep := leAt p 6 2
  let dl := byteAt p 16
  firstFault [
    (decide (byteAt p 0 > 95), badArg 0),
    (decide (fl > 3) || del && decide (byteAt p 3 = 0) || f50 && !del && !bit fl 1, badArg 1),
    (decide (byteAt p 2 > 2), badArg 2), (decide (byteAt p 3 > 3), badArg 3),
    (!del && decide (pre < 8 ∨ pre > 64 ∨ pre % 8 ≠ 0), badArg 4),
    (!del && decide (rep < 1 ∨ rep > 1024 ∨ pre * rep + dl > 8192), badArg 6),
    (!del && decide (dl < 16 ∨ dl > 64 ∨ dl % 8 ≠ 0), badArg 16), resv p 17 7, resv p 32 24]

/-- Whether a rate code is permitted on a tree (R113, R114). -/
def State.rateOk (s : State) (t rate : Nat) : Bool :=
  if s.f50 t then bit (s.tree t).usRates (rateBit rate) else rate == 0

/-- FROM_F: 2 frames after the frame that will carry the announcement, 0 while the tree does not send (R114). -/
def State.profileFrom (s : State) (t : Nat) : Int :=
  let x := s.tree t
  if s.tstate t ≠ trACTIVE then 0
  else s.latchFrame t + 1 + (x.warm : Int) + (((x.urgent.length + x.normal.length + x.held.length) / max 1 (s.rd F.TRE_CFG.PLOAM_MAX t) : Nat) : Int) + 2

def State.burstProfile (s : State) (p : List Byte) : State × Resp :=
  let t := byteAt p 0
  let rate := byteAt p 2
  let idx := byteAt p 3
  match burstProfileFault (s.f50 t) p with
  | some r => (s, r)
  | none =>
    if s.tstate t = trFAULT then (s, conflict 0x84)
    else if !s.rateOk t rate then (s, conflict 0xFE)
    else
      let del := bit (byteAt p 1) 0
      let b := smGet BurstSlot.none_ s.bprofs (t, rate * 4 + idx)
      let new : BurstProf := if del then BurstProf.none_
        else ⟨true, bit (byteAt p 1) 1, leAt p 4 2, leAt p 6 2, leAt p 8 8, byteAt p 16, leAt p 24 8⟩
      let allocs := ((s.allocsOf t).filter (fun a => a.2.bprof == idx && s.allocRate t a.2 == some rate)).length
      let from_ := s.profileFrom t
      let rsp := okWith (leBytes 1 t ++ leBytes 1 (b2n new.defined + 2 * b2n new.fec) ++ leBytes 1 rate ++ leBytes 1 idx ++
        leBytes 4 new.psbu ++ leBytes 8 (f51 from_) ++ leBytes 2 allocs)
      if del ∧ !b.now.defined then (s, rsp)
      else
        let old := s.profAt t rate idx (s.cutFrame t + 1)
        let s1 := s.putBprofs (smSet BurstSlot.none_ s.bprofs (t, rate * 4 + idx) ⟨new, old, none, true⟩)
        (if s.tstate t = trACTIVE then s1.ploamNormal t 1023 (.burstProfile rate idx new.defined) else s1, rsp)

/-- BURST_PROFILE (R114). -/
def execBurstProfile (src : Src) (s : State) : Res := .next (s.calvan src 0x0203 false false (atOnce State.burstProfile))

/-- BURST_PROFILE_ANNOUNCE (R113): each defined profile again, 1,000 frames after the last time. -/
def execBurstProfileAnnounce (t : TreeId) (s : State) : Res :=
  .next (if s.tstate t = trACTIVE ∧ s.frame t ≥ (s.treeU t).announceF + 1000 then
    let s1 := (s.bprofs.filter (fun e => e.1.1 == t.val && e.2.now.defined)).foldl
      (fun s e => s.ploamNormal t 1023 (.burstProfile (e.1.2 / 4) (e.1.2 % 4) true)) s
    s1.setTreeU t { s1.treeU t with announceF := s.frame t }
  else s)

/-! ### Terminal commands (R139 to R146) -/

/-- What refuses a command that changes a terminal or flow port, by the tree's state (R140, R141, R144, R396). -/
def State.treeRefuses (s : State) (t : Nat) : Bool × Resp :=
  if s.tstate t = trFAULT then (true, conflict 0x84)
  else if s.tstate t = trSTANDBY ∧ s.paired t then (true, conflict 0x83)
  else (false, conflict 0)

/-- A unicast slot field: none, or a slot number. -/
def slotField (v : Nat) : Option Nat := if v = 0xFFFFFFFF then none else some v

/-- The default allocation of terminal k (R151). -/
def defaultAlloc (k : Nat) : Alloc :=
  { allocId := k, term := k, cls := 3, dbru := true, bprof := 0, rate := 0, weight := 1, fixed := 0, assured := 0, max := 1024,
    bucket := 2048, anchor := 0 }

def State.terminalAdd (s : State) (p : List Byte) : State × Resp :=
  let t := byteAt p 0
  let k0 := leAt p 2 2
  let serial := beAt p 4 8
  let rates := byteAt p 12
  let slot := leAt p 16 4
  let held := (s.termsOf t).any (fun e => e.2.state != tmUNUSED && e.2.serial == serial)
  let k := if k0 = 0xFFFF then ((List.range 1023).find? (fun i => (s.term t i).state == tmUNUSED)).getD 0xFFFF else k0
  let st := (s.term t k).state
  let bad := firstFault [
    (decide (t > 95), badArg 0), (decide (byteAt p 1 > 1), badArg 1), (decide (k0 > 1022 ∧ k0 ≠ 0xFFFF), badArg 2),
    (held, badArg 4),
    (if s.f50 t then decide (rates > 7) || decide (rates &&& (s.tree t).usRates = 0) else decide (rates ≠ 0), badArg 12),
    resv p 13 3, (decide (slot ≥ 2 ^ 17 ∧ slot ≠ 0xFFFFFFFF), badArg 16),
    s.treeRefuses t, (decide (k ≠ 0xFFFF ∧ st ≠ tmUNUSED), conflict st),
    (decide (k = 0xFFFF), refuse stNO_RESOURCE 0),
    ((slotField slot).any (fun h => !s.unicastBound h t k), conflict 0)]
  match bad with
  | some r => (s, r)
  | none =>
    let x : Term := { Term.unused with serial := serial, rates := rates, regCheck := bit (byteAt p 1) 0, regId := slice p 20 36,
                                       slot := slotField slot }
    let s1 := (s.setTerm t k x).termState t k tmEXPECTED
    let s2 := s1.putAllocs (smPut s1.allocs (t, k) (defaultAlloc k))
    (s2, okWith (s2.termHead t k ++ zeros 24))

/-- TERMINAL_ADD (R140). -/
def execTerminalAdd (src : Src) (s : State) : Res := .next (s.calvan src 0x0301 false false (atOnce State.terminalAdd))

def State.terminalSet (s : State) (p : List Byte) : State × Resp :=
  let t := byteAt p 0
  let modes := byteAt p 1
  let k := leAt p 2 2
  let setSlot := bit (byteAt p 10) 0
  let slot := leAt p 12 4
  let bad := firstFault [
    (decide (t > 95), badArg 0), (decide (modes > 7), badArg 1), (decide (k > 1022), badArg 2), (decide (leAt p 4 2 = 0), badArg 4),
    (decide (leAt p 6 2 = 0 ∨ leAt p 6 2 > 1024), badArg 6), (decide (leAt p 8 2 = 0), badArg 8),
    (decide (byteAt p 10 > 1), badArg 10), resv p 11 1,
    (setSlot && decide (slot ≥ 2 ^ 17 ∧ slot ≠ 0xFFFFFFFF), badArg 12), resv p 16 40,
    s.treeRefuses t, (decide ((s.term t k).state = tmUNUSED), conflict tmUNUSED),
    (setSlot && (slotField slot).any (fun h => !s.unicastBound h t k), conflict 0xFE)]
  match bad with
  | some r => (s, r)
  | none =>
    let x := s.term t k
    let win := x.win.map (fun w => if 1 ≤ w.mode ∧ !bit modes (w.mode - 1) then { w with closing := true } else w)
    let s1 := s.setTerm t k { x with
      sleepModes := modes, lowpower := leAt p 4 2, aware := leAt p 6 2, wakeKib := leAt p 8 2, win := win,
      slot := if setSlot then slotField slot else x.slot }
    (s1, okWith (s1.termHead t k ++ zeros 24))

/-- TERMINAL_SET (R141). -/
def execTerminalSet (src : Src) (s : State) : Res := .next (s.calvan src 0x0302 false false (atOnce State.terminalSet))

/-- What TERMINAL_REMOVE takes away at once (R120, R143, R151, R173, R263). -/
def State.stripTerm (s : State) (t k : Nat) : State :=
  let s1 := (s.setTerm t k { (s.term t k).settled with wantsRange := false }).dropRanging t k
  let s2 := s1.dropReasm t (fun _ r => r.term == k) true
  let n := ((s2.tree t).staged.filter (fun f => f.term == k)).length
  let s3 := (s2.incSat F.TRE_DS_NOTERM.COUNT t n).dropStaged t (fun f => f.term == k) txNO_TERMINAL
  let s4 := s3.flushQueues (fun q => q.1 == t && q.2 / 8 == k) txNO_TERMINAL
  let s5 := s4.putFlows (s4.flows.filter (fun e => !(e.1.1 == t && e.2.term == k)))
  let own := (s5.allocsOf t).filter (fun a => a.2.term == k)
  (own.foldl (fun s a => (s.putAllocs (smDel s.allocs (t, a.1))).forgetAlloc t a.1) s5).countForecasts.setCommit t

def State.terminalRemove (s : State) (p : List Byte) : State × Resp :=
  let t := byteAt p 0
  let k := leAt p 2 2
  let x := s.term t k
  let bad := firstFault [
    (decide (t > 95), badArg 0), (decide (byteAt p 1 > 1), badArg 1), (decide (k > 1022), badArg 2), resv p 4 52,
    (decide (s.tstate t = trSTANDBY) && s.paired t, conflict 0x83), (decide (x.state = tmUNUSED), conflict tmUNUSED)]
  match bad with
  | some r => (s, r)
  | none =>
    let tell := decide (s.tstate t = trACTIVE ∧ (x.state = tmRANGING ∨ x.state = tmOPERATION ∨ x.state = tmLOST))
    let s1 := s.stripTerm t k
    let s2 := match x.slot with
      | some h => if bit (byteAt p 1) 0 then (s1.eraseSlot h).unbindSlot h else s1
      | none => s1
    let s3 := if tell then
        (if x.removing then s2 else (s2.setTerm t k { s2.term t k with removing := true, rangedF := none }).ploamNormal t k .deregister)
      else s2.recordUnused t k
    (s3, okWith (s3.termHead t k ++ zeros 24))

/-- TERMINAL_REMOVE (R143). -/
def execTerminalRemove (src : Src) (s : State) : Res := .next (s.calvan src 0x0303 false false (atOnce State.terminalRemove))

def State.terminalStatus (s : State) (p : List Byte) : State × Resp :=
  let t := byteAt p 0
  let k := leAt p 2 2
  match firstFault [(decide (t > 95), badArg 0), (decide (k > 1022), badArg 2)] with
  | some r => (s, r)
  | none => (s, okWith (s.termHead t k ++ (s.term t k).countBytes ++ zeros 2))

/-- TERMINAL_STATUS (R146). -/
def execTerminalStatus (src : Src) (s : State) : Res := .next (s.calvan src 0x0304 true true (atOnce State.terminalStatus))

def State.flowSet (s : State) (p : List Byte) : State × Resp :=
  let t := byteAt p 0
  let fl := byteAt p 1
  let del := bit fl 0
  let port := leAt p 2 2
  let k := leAt p 4 2
  let a := leAt p 6 2
  let old := s.flow t port
  let bad := firstFault [
    (decide (t > 95), badArg 0), (decide (fl > 7), badArg 1), (decide (port = 0xFFFF), badArg 2),
    (decide (k > 1023), badArg 4), (decide (a ≠ 0xFFFF ∧ (a > 4095 ∨ (!del ∧ k = 1023))), badArg 6), resv p 8 48,
    s.treeRefuses t,
    (!del && decide (k ≠ 1023) && decide ((s.term t k).state = tmUNUSED), conflict tmUNUSED),
    (!del && old.any (fun x => x.term != k), conflict 0xFF),
    (!del && old.isNone && decide (s.portsUsed t ≥ 16384), refuse stNO_RESOURCE 0)]
  let rsp := fun (s : State) (f : Nat) => okWith (leBytes 1 t ++ leBytes 1 f ++ leBytes 2 port ++ leBytes 2 (s.portsUsed t))
  match bad with
  | some r => (s, r)
  | none =>
    if del then
      let s1 := (s.putFlows (smDel s.flows (t, port))).dropReasm t (fun _ r => r.port == port) true
      (s1, rsp s1 0)
    else
      let s1 := s.putFlows (smPut s.flows (t, port) ⟨k, if a = 0xFFFF then none else some a, bit fl 1, bit fl 2⟩)
      (s1, rsp s1 fl)

/-- FLOW_SET (R144). -/
def execFlowSet (src : Src) (s : State) : Res := .next (s.calvan src 0x0305 false false (atOnce State.flowSet))

/-- QUENCH (R145): on a listening tree it is passed to the partner, which applies it (R396). -/
def State.quench : Body := fun s src p =>
  let t := byteAt p 0
  match firstFault [(decide (t > 95), badArg 0), (decide (byteAt p 1 > 1), badArg 1), (decide (leAt p 2 2 > 1023), badArg 2), resv p 4 52] with
  | some r => (s, some r)
  | none =>
    if s.tstate t = trSTANDBY ∧ s.paired t then
      let s1 := s.setProt t { s.prot t with quench := (s.prot t).quench ++ [src] }
      (s1.protMsg t 7 (s.frame t) p, none)
    else
      let (s1, r) := s.applyQuench p
      (s1, some r)

def execQuench (src : Src) (s : State) : Res := .next (s.calvan src 0x0306 true true State.quench)

/-- A write of TRE_US_SN_INFO (R129): POP removes the head, 1 clears OVERFLOW. -/
def State.writeSnInfo (s : State) (t v : Nat) : State :=
  let s1 := s.writeFields [F.TRE_US_SN_INFO.OVERFLOW] t v
  if bit v 31 then s1.setTreeU t { s1.treeU t with discovery := (s1.treeU t).discovery.drop 1 } else s1

/-- TRE_US_SN_POP (R129). -/
def execTreUsSnPop (port : PortId) (t : TreeId) (v : BitVec 32) (s : State) : Res :=
  .next (s.winWrite port (0x80128 + t * 0x400) (s.on (pairOf t)) (fun s => s.writeSnInfo t v.toNat))

/-! ### Bursts (R16, R115) -/

/-- Replace the first expected burst that a test finds. -/
def markFirst (p : Expected → Bool) (f : Expected → Expected) : List Expected → List Expected
  | [] => []
  | e :: r => if p e then f e :: r else e :: markFirst p f r

/-- RXRST_PULSE (R16): the next burst's pulse is placed, shortened, or skipped below 3.2 ns. Edges in 1/1,280 ns. -/
def execRxrstPulse (t : TreeId) (s : State) : Res :=
  .next (match (s.treeU t).expected.find? (fun e => !e.pulsed) with
  | none => s
  | some e =>
    if !s.on (pairOf t) then s
    else
      let shift := s.huntShift t
      let trail := 5 * (e.start + shift) - (s.rd F.TRE_OPTIC.RXRST_LEAD t * 256 : Nat)
      let lead := trail - (max 4 (s.rd F.TRE_OPTIC.RXRST_WIDTH t) * 1024 : Nat)
      let lead1 := match (s.tree t).lastBurstEnd with
        | some b => max lead (5 * b)
        | none => lead
      let s1 := s.setTreeU t { s.treeU t with expected := markFirst (fun e => !e.pulsed) (fun e => { e with pulsed := true }) (s.treeU t).expected }
      let s2 := s1.setTree t { s1.tree t with lastBurstEnd := some (e.stop + shift) }
      if trail - lead1 < 4096 then s2.incSat F.TRE_OPTIC.RXRST_SKIP t 1 else s2.emit (.rxrst t (lead1 / 5) (trail / 5) (!s.flag F.TRE_OPTIC.RXRST_POL t)))

/-- What follows once every burst of a terminal, or of the tree, in a frame has been hunted (R133, R401 to R404). -/
def State.afterHunt (s : State) (t : Nat) (e : Expected) : State :=
  let left := fun (p : Expected → Bool) => (s.treeU t).expected.any (fun x => !x.hunted && decide (x.f = e.f) && p x)
  let s1 := if psListens (s.ps t) || left (fun x => x.term == e.term) then s else s.lobFrame t e.term
  let s2 := if left (fun _ => true) then s1 else s1.usFrameEnd t (s1.prot t).cur
  s2.setTreeU t { s2.treeU t with expected := (s2.treeU t).expected.filter (fun x => !x.hunted || decide (x.f ≥ e.f - 8)) }

/-- BURST_HUNT (R115 to R126, R461): the next expected burst is found within its hunt window, or missed. -/
def execBurstHunt (t : TreeId) (seen : Option BurstSeen) (s : State) : Res :=
  .next (match (s.treeU t).expected.find? (fun e => !e.hunted) with
  | none => s
  | some e =>
    if !s.on (pairOf t) ∨ !(s.tstate t == trACTIVE || psListens (s.ps t)) then s
    else
      let found := seen.filter (fun b => decide (b.drift.natAbs ≤ s.huntHalf t))
      let s1 := s.setTreeU t { s.treeU t with expected := markFirst (fun e => !e.hunted) (fun e => { e with hunted := true }) (s.treeU t).expected }
      let s2 := s1.telRecord t e found
      let s3 := if psListens (s.ps t) then s2.listenBurst t e found
        else
          match found with
          | none => s2.missBurst t e.term
          | some b => if b.onuId = e.term then s2.gotBurst t e b else (s2.missBurst t e.term).evidence t b.onuId
      (s3.protCount t e.f found.isSome).afterHunt t e)

/-- REASSEMBLY_TIMEOUT (R120). -/
def execReassemblyTimeout (t : TreeId) (alloc : Fin 4096) (s : State) : Res :=
  .next (match smFind s.reasms (t, alloc) with
  | some r =>
    if s.frame t ≥ r.lastF + (max 1 (s.rd F.TRE_US_CTL.REASM_TIMEOUT t) : Nat) then s.dropReasm t (fun a _ => a == alloc.val) true else s
  | none => s)

/-! ### The life of a record (R128 to R133) -/

/-- Whether a serial number's record takes it (R129). -/
def State.serialMeets (s : State) (t : Nat) (x : Term) (rates : Nat) : Bool :=
  !s.f50 t || (decide (rates &&& x.rates ≠ 0) && decide (x.rates &&& (s.tree t).usRates ≠ 0))

/-- SERIAL_NUMBER_RECEIVED (R129). -/
def execSerialNumberReceived (t : TreeId) (serial : BitVec 64) (rates : BitVec 3) (s : State) : Res :=
  .next (if !s.receives t then s
  else
    let u := s.treeU t
    let queue := fun (s : State) =>
      if u.discovery.any (fun d => d.1 == serial.toNat) then s
      else if u.discovery.length ≥ 16 then (s.wr F.TRE_US_SN_INFO.OVERFLOW t 1).treUsEvent t F.TRE_US_EVENT.SN_OVERFLOW
      else (s.setTreeU t { u with discovery := u.discovery ++ [(serial.toNat, rates.toNat)] }).treUsEvent t F.TRE_US_EVENT.SN_NEW
    match (s.termsOf t).find? (fun e => e.2.state != tmUNUSED && e.2.serial == serial.toNat) with
    | none => queue s
    | some (k, x) =>
      if x.state = tmSTOPPED then s
      else if x.state = tmEXPECTED then
        (if s.serialMeets t x rates.toNat then
          ((((s.setTerm t k x.settled).termState t k tmRANGING).ploamTo t k (.assignOnuId x.serial)).quietClose t).askRanging t k
        else queue s)
      else (s.incSat F.TRE_US_SN_DUP.COUNT t 1).treUsEvent t F.TRE_US_EVENT.SN_DUP)

/-- RANGING_RESPONSE (R131): a valid RTD, in 1/256 ns, gives the equalisation delay, which is sent. -/
def execRangingResponse (t : TreeId) (term : TermId) (rtd : Nat) (s : State) : Res :=
  .next (let x := s.term t term
  let lo := (10000 * s.minKm t + 34000) * 256
  let hi := (10000 * (s.minKm t + s.diffKm t) + 36000) * 256
  if s.receives t ∧ x.state = tmRANGING ∧ !x.ranged ∧ !x.removing ∧ lo ≤ rtd ∧ rtd ≤ hi then
    let s1 := s.setTerm t term { x with rtd := (rtd : Int) - 2 * s.delta t, eqd := s.teqd t - rtd, ranged := true, rangedF := none }
    (s1.dropRanging t term).sendRanging t term
  else s)

/-- RANGING_FAILED (R128). -/
def execRangingFailed (t : TreeId) (term : TermId) (s : State) : Res :=
  .next (let s := s.quietClose t
  let x := s.term t term
  if x.state = tmRANGING ∧ !x.ranged ∧ x.tries ≥ max 1 (s.rd F.TRE_US_CTL.RANGE_TRIES t) then
    (((s.setTerm t term x.settled).termState t term tmEXPECTED).dropRanging t term).treUsEvent t F.TRE_US_EVENT.RANGE_FAIL
  else s)

/-- TERMINAL_OPERATION (R128): at the end of the frame that carries the ranging-time message. -/
def execTerminalOperation (t : TreeId) (term : TermId) (s : State) : Res :=
  .next (let x := s.term t term
  if x.state = tmRANGING ∧ x.ranged ∧ !x.removing ∧ x.rangedF.any (fun f => decide (s.frame t > f)) then
    ((s.setTerm t term { x.settled with gotF := 0, missF := 0 }).termState t term tmOPERATION).askPloamu t term
  else s)

/-- A terminal is deregistered: the message is queued and the record returns to EXPECTED (R128). -/
def State.deregister (s : State) (t k : Nat) : State :=
  let s1 := s.setTerm t k (s.term t k).settled
  ((s1.ploamNormal t k .deregister).termState t k tmEXPECTED).dropRanging t k

/-- REGISTRATION_ID_RECEIVED (R132): compared where the record asks for it, else passed to host software (by which path the
spec does not say: log entry 58). -/
def execRegistrationIdReceived (t : TreeId) (term : TermId) (regId : List Byte) (s : State) : Res :=
  .next (let x := s.term t term
  if s.receives t ∧ x.state ≠ tmUNUSED ∧ !x.regCheck then s.emit (.hostPloam t term (slice regId 0 36))
  else if s.receives t ∧ x.state = tmOPERATION ∧ x.regCheck ∧ slice regId 0 36 ≠ slice x.regId 0 36 then
    (s.deregister t term).treUsEvent t F.TRE_US_EVENT.REG_FAIL
  else s)

/-- TERMINAL_LOST (R133). -/
def execTerminalLost (t : TreeId) (term : TermId) (s : State) : Res :=
  .next (let x := s.term t term
  if s.tstate t = trACTIVE ∧ x.state = tmOPERATION ∧ x.lob ≥ max 1 (s.rd F.TRE_US_CTL.LOB_FRAMES t) then
    ((s.setTerm t term { x with lob := 0, lostF := s.frame t }).termState t term tmLOST).treUsEvent t F.TRE_US_EVENT.TERM_LOST
  else s)

/-- LOST_LIMIT (R128). -/
def execLostLimit (t : TreeId) (term : TermId) (s : State) : Res :=
  .next (let x := s.term t term
  if s.tstate t = trACTIVE ∧ x.state = tmLOST ∧ s.frame t ≥ x.lostF + (max 1 (s.rd F.TRE_US_LOST.LIMIT t) : Nat) then
    (s.deregister t term).treUsEvent t F.TRE_US_EVENT.TERM_LOST
  else s)

/-- RECORD_UNUSED (R143): at the end of the frame that carries the deregistration message. -/
def execRecordUnused (t : TreeId) (term : TermId) (s : State) : Res :=
  .next (let x := s.term t term
  if x.removing ∧ x.rangedF.any (fun f => decide (s.frame t > f)) then s.recordUnused t term else s)

/-- UPSTREAM_PLOAM_RECEIVED (R127): a message whose MIC fails is zero-filled and discarded; a good one answers what firmware
asked of the terminal (R160). The messages with an effect of their own arrive as their own rows. -/
def execUpstreamPloamReceived (t : TreeId) (term : TermId) (_msg : List Byte) (micOk : Bool) (s : State) : Res :=
  .next (if !s.receives t then s
  else
    let s1 := s.blockEvent t 0x09 1
    if micOk then s1.setShared t { s1.shared t with askPloamu := (s1.shared t).askPloamu.filter (· ≠ term.val) }
    else s1.incSat F.TRE_US_MIC_FAIL.COUNT t 1)

/-! ### Sleep (R137, R138) -/

/-- SLEEP_REQUEST (R137): mode 0 asks to be awake; a mode of SLEEP_MODES is granted, its windows open at the boundary of
F_r + 2. -/
def execSleepRequest (t : TreeId) (term : TermId) (mode : Fin 4) (s : State) : Res :=
  .next (let x := s.term t term
  if !s.receives t ∨ x.state ≠ tmOPERATION ∨ x.removing then s
  else if mode = 0 then
    s.setTerm t term { x with win := (x.win.filter (fun w => w.opened)).map (fun w => { w with closing := true }) }
  else if bit x.sleepModes (mode - 1) then
    let s1 := s.setTerm t term { x with
      win := some ⟨mode, s.frame t + 2, false, false, 0, false, x.lowpower, x.aware⟩, forceAwake := false }
    s1.ploamTo t term (.sleepAllow true)
  else s)

/-- SLEEP_WINDOW_BOUNDARY (R137, R138): at a tree boundary an interval begins or the windows close. -/
def execSleepWindowBoundary (t : TreeId) (term : TermId) (s : State) : Res :=
  .next (let x := s.term t term
  let fr := s.frame t
  let put := fun (w : Option SleepWin) (fa : Bool) => (s.setTerm t term { x with win := w, forceAwake := fa })
  match x.win with
  | none => s
  | some w =>
    if w.closing then (put none false).queueHeld t
    else if !w.opened then (if fr ≥ w.fromF then (put (some { w with opened := true, asleep := true, sinceF := fr }) x.forceAwake).wakeStaged t term else s)
    else if w.asleep then
      (if fr ≥ w.sinceF + w.lp then
        (if x.forceAwake then (put none false).queueHeld t
         else (put (some { w with asleep := false, sinceF := fr }) false).queueHeld t)
       else s)
    else if fr ≥ w.sinceF + w.aw then (put (some { w with asleep := true, sinceF := fr }) x.forceAwake).wakeStaged t term
    else s)

/-! ### Rogue light (R134 to R136) -/

/-- Take a span out of a list of spans. -/
def cutSpan (c : Int × Int) (l : List (Int × Int)) : List (Int × Int) :=
  l.flatMap (fun x => [(x.1, min x.2 c.1), (max x.1 c.2, x.2)].filter (fun y => decide (y.1 < y.2)))

/-- The expected-light set of R134. -/
def State.expectedLight (s : State) (t : Nat) : List (Int × Int) :=
  let tol : Int := (s.rd F.TRE_US_ROGUE.TOL_NS t * 256 : Nat)
  (s.treeU t).expected.map (fun e => (e.start - tol, e.stop + tol)) ++ (s.treeU t).windows

/-- The suspect with the most recent evidence that can be stopped (R135). -/
def State.suspect (s : State) (t : Nat) : Option Nat :=
  (((s.termsOf t).filter (fun e => e.2.stoppable && e.2.evidence.isSome)).foldl
    (fun (m : Option (Nat × Int)) e =>
      let v := e.2.evidence.getD 0
      match m with
      | some b => if v > b.2 then some (e.1, v) else m
      | none => some (e.1, v)) none).map (fun b => b.1)

/-- A rogue quench (R136). -/
def State.rogueQuench (s : State) (t k : Nat) : State :=
  let s1 := (s.quenchOne t k 1).treUsEvent t F.TRE_US_EVENT.ROGUE_QUENCH
  s1.setTreeU t { s1.treeU t with sweep := none }

/-- An isolation sweep goes on with the next terminals, or ends (R136). -/
def State.sweepFrom (s : State) (t : Nat) (l : List Nat) : State :=
  s.setTreeU t { s.treeU t with sweep := match l with
    | k :: rest => some ⟨k, rest, s.cutFrame t + 1, true⟩
    | [] => none }

/-- What the ROGUE event brings (R136). -/
def State.rogueEvent (s : State) (t : Nat) : State :=
  let s1 := s.treUsEvent t F.TRE_US_EVENT.ROGUE
  let pol := s.rd F.TRE_US_CTL.ROGUE_POLICY t
  if pol = 1 ∨ pol = 2 then
    match s1.suspect t with
    | some k => s1.rogueQuench t k
    | none =>
      if pol = 2 ∧ (s1.treeU t).sweep.isNone then s1.sweepFrom t (s1.termsThat t (fun x => x.state == tmOPERATION)) else s1
  else s1

/-- Terminals whose light ran on past the end of their burst by MIN_NS in this frame; their runs of such frames (R135). -/
def State.lightRuns (s : State) (t : Nat) (rogue : Bool) (light : List (Int × Int)) : State :=
  let min_ : Int := (s.rd F.TRE_US_ROGUE.MIN_NS t * 256 : Nat)
  let runs := fun (k : Nat) => (s.treeU t).expected.any (fun e => e.term == k && light.any (fun l => decide (l.1 ≤ e.stop) && decide (l.2 ≥ e.stop + min_)))
  (s.termsOf t).foldl
    (fun s e =>
      let n := if rogue ∧ runs e.1 then e.2.lightRun + 1 else 0
      let x := s.term t e.1
      s.setTerm t e.1 { x with lightRun := n, evidence := if n ≥ max 1 (s.rd F.TRE_US_ROGUE.FRAMES t) then some s.tide else x.evidence }) s

/-- A frame of the tree has ended and its light is judged (R134). -/
def State.judgeFrame (s : State) (t : Nat) (light : List (Int × Int)) : State :=
  if !s.receives t then s
  else
    let fr := s.frame t - 1
    let here := light.map (fun x => (max x.1 (boundary t fr), min x.2 (boundary t (fr + 1)))) |>.filter (fun x => decide (x.1 < x.2))
    let out := (s.expectedLight t).foldl (fun l c => cutSpan c l) here
    let total := out.foldl (fun n x => n + (x.2 - x.1)) 0
    let rogue := decide (total ≥ ((s.rd F.TRE_US_ROGUE.MIN_NS t * 256 : Nat) : Int) ∧ 0 < total)
    let s1 := s.lightRuns t rogue here
    let u := s1.treeU t
    let n := if rogue then u.rogueRun + 1 else 0
    let met := decide (n ≥ max 1 (s.rd F.TRE_US_ROGUE.FRAMES t)) && rogue
    let s2 := s1.setTreeU t { u with
      rogueRun := if met then 0 else n, sweep := u.sweep.map (fun w => { w with rogue := rogue }),
      windows := u.windows.filter (fun w => decide (w.2 > boundary t (fr + 1))),
      expected := u.expected.filter (fun e => !e.hunted || decide (e.stop + (s.rd F.TRE_US_ROGUE.TOL_NS t * 256 : Nat) > boundary t (fr + 1))) }
    let s3 := if rogue then s2.incSat F.TRE_US_ROGUE_CNT.COUNT t 1 else s2
    if met then s3.rogueEvent t else s3

/-- ROGUE_FRAME (R134): at the end of a frame of the tree; `light` is when SD_Tt showed light, as tide instants. The ball
shows light now if one of these spans has begun and not ended (R17). -/
def execRogueFrame (t : TreeId) (light : List (Int × Int)) (s : State) : Res :=
  .next ((s.sdShows t (light.any (fun x => decide (x.1 ≤ s.tide ∧ s.tide < x.2)))).judgeFrame t light)

/-- ISOLATION_SWEEP_STEP (R136): once the upstream frames of FRAMES silent maps have ended. -/
def execIsolationSweepStep (t : TreeId) (s : State) : Res :=
  .next (match (s.treeU t).sweep with
  | none => s
  | some w =>
    if s.tide < s.usRef t (w.fromF + (max 1 (s.rd F.TRE_US_ROGUE.FRAMES t) : Nat)) then s
    else if !w.rogue ∧ (s.term t w.term).stoppable then s.rogueQuench t w.term
    else s.sweepFrom t (w.rest.filter (fun k => (s.term t k).state == tmOPERATION)))

end Sys2Proof.Machine
end

