-- ==== Sys2Proof/Machine/Sluice.lean ====
section
/-! DEFINITION. Sluice (05_sluice.md): ALLOC_SET, the building and releasing of maps, the states of the two units, and
forecast records. -/

namespace Sys2Proof.Machine

/-! ### ALLOC_SET (R183, R184) -/

/-- A field that a class uses within its range, or must be 0. -/
def usedField (used : Bool) (lo hi v : Nat) : Bool := if used then decide (v < lo ∨ v > hi) else decide (v ≠ 0)

/-- The first field of ALLOC_SET at fault. -/
def allocFault (f50 : Bool) (p : List Byte) : Option Resp :=
  let fl := byteAt p 1
  let a := leAt p 2 2
  let id := leAt p 4 2
  let k := leAt p 6 2
  let c := byteAt p 8
  let bp := byteAt p 9
  let head := firstFault [(decide (byteAt p 0 > 95), badArg 0), (decide (fl > 3) || bit fl 0 && decide (a ≤ 1022), badArg 1),
    (decide (a > 4095), badArg 2)]
  if head.isSome ∨ bit fl 0 then head
  else firstFault [
    (if a ≤ 1022 then decide (id ≠ a) else decide (id < 1024 ∨ id > 16383), badArg 4),
    (decide (k > 1022) || decide (a ≤ 1022 ∧ k ≠ a), badArg 6), (decide (c > 5), badArg 8),
    (decide (bits bp 2 2 ≠ 0) || bit bp 7 || decide (bits bp 4 3 > 3) || (!f50 && decide (bits bp 4 3 ≠ 0)), badArg 9),
    (usedField (c == 2 || c == 3) 1 255 (byteAt p 10), badArg 10), resv p 11 1,
    (usedField (c == 0 || c == 4) 1 1048575 (leAt p 12 4), badArg 12),
    (usedField (c == 1) 1 50000000 (leAt p 16 4), badArg 16),
    (usedField (c == 2 || c == 3) 0 50000000 (leAt p 20 4), badArg 20),
    (usedField (c == 1 || c == 2 || c == 3) 64 8388607 (leAt p 24 4), badArg 24),
    (usedField (c == 4) 0 (capacity f50 - 1) (leAt p 28 2), badArg 28), resv p 30 26]

/-- Committed occupancy in ‰ (R154). -/
def State.permille (s : State) (t : Nat) (l : List (Nat × Alloc)) : Nat := s.commitSum t l * 1000 / s.topBps t

/-- Whether R154 or R163 refuses an allocation's new settings. -/
def State.allocLack (s : State) (t i : Nat) (a : Alloc) : Bool :=
  let others := (s.allocsOf t).filter (fun e => e.1 != i)
  let now := s.commitSum t (s.allocsOf t)
  let new := s.commitSum t (others ++ [(i, a)])
  let fr := s.cutFrame t + 1
  (decide (new > now) && decide (new * 1000 > 900 * s.topBps t)) ||
  (a.cls == 4 && others.any (fun e => e.2.cls == 4 && tooClose (s.guard t) (s.llSpan t a fr) (s.llSpan t e.2 fr)))

/-- The response of ALLOC_SET (R184). -/
def State.allocResponse (s : State) (t i : Nat) : Resp :=
  let a := s.alloc t i
  okWith (leBytes 1 t ++ leBytes 1 ((a.map (fun a => a.cls)).getD 0xFF) ++ leBytes 2 i ++
    leBytes 2 ((a.map (fun a => a.allocId)).getD 0) ++ leBytes 2 (s.allocsOf t).length ++
    leBytes 2 (min 65535 (s.permille t (s.allocsOf t))) ++ zeros 6 ++ leBytes 8 (f51 (s.cutFrame t + 1)))

/-- An allocation is deleted with its account, report, forecast records and open reassembly; its flow ports no longer
carry traffic upstream (R183). -/
def State.deleteAlloc (s : State) (t i : Nat) : State :=
  let s1 := ((s.putAllocs (smDel s.allocs (t, i))).dropAlloc t i).dropReasm t (fun a _ => a == i) true
  let s2 := s1.putFlows (s1.flows.map (fun (e : Key × Flow) => if e.1.1 = t ∧ e.2.alloc = some i then (e.1, { e.2 with alloc := none }) else e))
  s2.setCommit t

def State.allocSet (s : State) (p : List Byte) : State × Resp :=
  let t := byteAt p 0
  let i := leAt p 2 2
  let del := bit (byteAt p 1) 0
  let a := allocOfBytes p
  let old := s.alloc t i
  let k := if del then (old.map (fun x => x.term)).getD 0 else a.term
  let st := (s.term t k).state
  match allocFault (s.f50 t) p with
  | some r => (s, r)
  | none =>
    match firstFault [
      s.treeRefuses t, ((!del || old.isSome) && decide (st = tmUNUSED ∨ st = tmSTOPPED), conflict st),
      (!del && (s.allocsOf t).any (fun e => e.1 != i && e.2.allocId == a.allocId), conflict 0xFF),
      (!del && s.allocLack t i a, refuse stNO_RESOURCE 0)] with
    | some r => (s, r)
    | none =>
      if del then
        let s1 := s.deleteAlloc t i
        (s1, s1.allocResponse t i)
      else
        let s1 := s.putAllocs (smPut s.allocs (t, i) a)
        let s2 := if old.any (fun x => x.cls == a.cls) then s1
          else [0, 1].foldl (fun s u => s.setSluTree u t { s.sluTree u t with acct := smDel (s.sluTree u t).acct (i, 0) }) s1
        let s3 := s2.setCommit t
        (s3, s3.allocResponse t i)

/-- ALLOC_SET (R183). -/
def execAllocSet (src : Src) (s : State) : Res := .next (s.calvan src 0x0307 false false (atOnce State.allocSet))

/-! ### Building maps (R155, R160, R173, R178) -/

/-- A unit that builds tree t's maps. -/
def State.unitBuilds (s : State) (u t : Nat) : Bool :=
  s.on (48 + u) && (s.unitState u == 0 || s.unitState u == 1 || (s.unitState u == 2 && (s.sluTree u t).copy == 2))

/-- A RESYNC unit's copy of a tree completes at the cutoff that ends its interval (R178): it takes the ACTIVE unit's
accounts, reports and forecast records of the tree. Its 64 frames count from the first tide frame after the copy of
every tree is complete (R177). -/
def State.finishCopy (s : State) (u t : Nat) : State :=
  if s.unitState u ≠ 2 ∨ (s.sluTree u t).copy ≠ 1 then s
  else
    match s.activeUnit with
    | none => s
    | some a =>
      let mine := fun (r : Key × Nat) => r.1.1 / 4096 == t
      let s1 := s.setSluTree u t { s.sluTree a t with copy := 2, built := none }
      let x := s1.sluUnit u
      let fc := (s1.sluUnit a).forecasts.foldl (fun m r => if mine r then smPut m r.1 r.2 else m) (x.forecasts.filter (fun r => !mine r))
      let s2 := s1.setSluUnit u { x with forecasts := fc }
      if s2.copyDone u ∧ x.cleanFrom.isNone then s2.setSluUnit u { s2.sluUnit u with cleanFrom := some (frameOf s2.tide + 1) } else s2

/-- Records of a tree due by frame F are freed in a unit; how many of them the map of F did not grant (R173). -/
def State.freeForecasts (s : State) (u t : Nat) (fr : Int) (granted : Nat → Nat) : State × Nat :=
  let x := s.sluUnit u
  let due := fun (r : Key × Nat) => r.1.1 / 4096 == t && decide ((r.1.2 : Int) ≤ fr)
  let lost := (x.forecasts.filter due).filter (fun r => decide ((r.1.2 : Int) < fr) || granted (r.1.1 % 4096) == 0)
  (s.setSluUnit u { x with forecasts := x.forecasts.filter (fun r => !due r) }, lost.length)

/-- Frames from the last grant, and from the last PLOAMu, to the tree's next map, so that `POLL` is the interval between
two polls (R160, R185). -/
def SluTree.aged (x : SluTree) (allocs : List (Nat × Alloc)) (terms : List Nat) (g : List Grant) : SluTree :=
  { x with
    since := allocs.foldl (fun m a => smSet 0 m (a.1, 0) (if g.any (fun y => y.alloc == a.1) then 1 else smGet 0 m (a.1, 0) + 1)) x.since,
    ploamuSince := terms.foldl (fun m k => smSet 0 m (k, 0) (if g.any (fun y => y.term == k && y.ploamu) then 1 else smGet 0 m (k, 0) + 1)) x.ploamuSince }

/-- One unit builds its map of frame F (R155 to R165), where it is faulty the one `wrong` says, and checks it against R166 by
the inputs that map uses (R168). -/
def State.buildUnit (s : State) (t : Nat) (fr : Int) (wrong : List (Fin 2 × List Grant)) (u : Nat) : State :=
  if !s.unitBuilds u t then s
  else
    let b := s.compose u t fr
    let m := match wrong.find? (fun w => w.1.val == u) with
      | some w => (⟨fr, w.2⟩ : BwMap)
      | none => b.map
    let g := m.grants
    let x := s.sluTree u t
    let got := fun (i : Nat) => (g.filter (fun y => y.alloc == i)).foldl (fun n y => n + y.size) 0
    let y := { x with acct := b.acct, pos6 := b.pos6, pos7 := b.pos7, firstTerm := b.firstTerm, built := some m, ok := s.mapOk t m, cutTo512 := b.cutTo512 }
    let s1 := s.setSluTree u t (y.aged (s.allocsOf t) ((s.termsOf t).map (fun e => e.1)) g)
    let (s2, lost) := s1.freeForecasts u t fr got
    let s3 := (((s2.blockEvent (96 + u) 0x02 g.length).blockEvent (96 + u) 0x03 b.bursts.length).blockEvent (96 + u) 0x04 b.cut).blockEvent (96 + u) 0x05 b.cutTo512
    if s.activeUnit ≠ some u then s3
    else
      let s4 := if b.cutTo512 > 0 then (s3.incSat F.SLU_TREE_OVER.COUNT t b.cutTo512).sluEvent F.SLU_EVENT.GRANT_LIMIT else s3
      s4.forecastsLost lost

/-- On a tree whose maps are not built, the records due are freed and counted once (R152, R173). -/
def State.dropForecasts (s : State) (t : Nat) (fr : Int) : State :=
  match s.activeUnit with
  | none => s
  | some a =>
    let (s1, lost) := s.freeForecasts a t fr (fun _ => 0)
    let (s2, _) := s1.freeForecasts (1 - a) t fr (fun _ => 0)
    s2.forecastsLost lost

/-- MAP_BUILD (R155, R160): at the tree's cutoff of frame F; `wrong` says what a faulty unit builds instead (log entry 60). -/
def execMapBuild (t : TreeId) (wrong : List (Fin 2 × List Grant)) (s : State) : Res :=
  .next (let fr := s.cutFrame t
  let s1 := [0, 1].foldl (fun s u => s.finishCopy u t) s
  if [0, 1].any (fun u => (s1.sluTree u t).built.any (fun m => decide (m.f ≥ fr))) then s1
  else if s.tstate t = trACTIVE ∨ s.ps t = psCLAIMING then
    let s2 := s1.quietStep t fr
    ([0, 1].foldl (fun s u => s.buildUnit t fr wrong u) s2).countForecasts
  else (s1.dropForecasts t fr).countForecasts)

/-! ### Self-tests and recovery (R177, R180, R209) -/

/-- A unit enters TESTING: its self-test reloads the control stores of its eight engines from the control processor's copy of
the Sluice image, then runs the dispatch-table test routines (R177). -/
def State.beginTest (s : State) (u : Nat) : State :=
  let loads := ((smGet ImageSlots.empty s.cp.slots (4, 0)).current.map (fun i => (⟨none, i.build, i.body⟩ : EngLoad))).toList
  (List.range 8).foldl (fun s n => s.engReload (48 + 8 * u + n) loads) (s.setUnit u 3)

/-- A FAILED unit moves to TESTING when an image has been started and its domain is ON; a retest that falls due while the
domain is not ON is held (R177, R180). -/
def State.retest (s : State) (u : Nat) : State :=
  if s.unitState u ≠ 4 ∨ !s.slu.started then s
  else if s.on (48 + u) then s.beginTest u
  else s.setSluUnit u { s.sluUnit u with heldRetest := true }

/-- A unit's domain returned to ON: a held retest begins (R180). -/
def State.sluDomainOn (s : State) (u : Nat) : State :=
  if (s.sluUnit u).heldRetest then (s.setSluUnit u { s.sluUnit u with heldRetest := false }).retest u else s

/-- A passed self-test leaves every engine of the unit reloaded and in SERVICE; after a failed one an engine that did not get
through its tests is FAULTED (R177, R209). -/
def State.endTest (s : State) (u : Nat) (pass : Bool) : State :=
  (List.range 8).foldl (fun s n =>
    let e := 48 + 8 * u + n
    let x := s.eng e
    if x.reload = [] ∧ s.est e ≠ esLOADING then s
    else if pass then
      ((s.setEng e { x.reload.foldl (fun (x : Engine) l => x.written l true) x.clear with loads := [], reload := [] }).wr
        F.PE_STATUS.STATE e esSERVICE).wr F.PE_STATUS.CS_VALID e 1
    else (s.setEng e { x.clear with loads := [], reload := [] }).wr F.PE_STATUS.STATE e esFAULTED) s

/-! ### Releasing maps (R169, R174 to R179) -/

/-- Maps held back by a switch-over: those whose slot ran at its decision, or whose cutoff fell within 1,600 ns after it
(R176). -/
def State.heldBack (s : State) (t : Nat) (fr : Int) : Bool :=
  let c := boundary t fr - 4000 * 256
  s.slu.switchAt.any (fun d => decide (d < c + 1302 * 256) && decide (c < d + 1600 * 256))

/-- A map is released to the tree (R155, R169, R185). -/
def State.releaseMap (s : State) (u t : Nat) (m : BwMap) : State :=
  if (s.tree t).latched.any (fun l => decide (l.f ≥ m.f)) ∨ s.tstate t ≠ trACTIVE then s
  else
    let crc := s.mapCrc t m.grants
    let s1 := s.setTree t { s.tree t with relMap := some m }
    let s2 := ((s1.wr F.SLU_TREE_MAP.GRANTS t m.grants.length).wr F.SLU_TREE_MAP.IDLE_UNITS t (s.idleUnits t m)).wr F.SLU_TREE_CRC.CRC t crc
    let add := fun (x : SluTree) => { x with reports := m.grants.foldl (fun r (g : Grant) =>
      if g.kind = 0 ∧ g.size > 0 then smMod Report.none_ r (g.alloc, 0) (fun (y : Report) => ⟨y.q, y.granted ++ [(m.f, g.size)]⟩) else r) x.reports }
    ((s2.postSlu t add).blockEvent (96 + u) 0x01 1).sendDigest t m.f m.grants crc 0

/-- The two CRCs differ: each unit's check of its own map decides (R174, R177, R179). -/
def State.mapsDiffer (s : State) (a t : Nat) (mine : BwMap) : State :=
  let o := 1 - a
  let s0 := (s.incSat F.SLU_MISMATCH.COUNT 0 1).sluEvent F.SLU_EVENT.MISMATCH
  let okA := (s.sluTree a t).ok
  let okO := (s.sluTree o t).ok
  let fail := fun (s : State) (u : Nat) => (s.sluEvent F.SLU_EVENT.SELFCHECK_FAIL).unitFail u 3
  if okA ∧ okO then
    let run := satAdd 8 (s.rd F.SLU_STATUS.MISMATCH_RUN 0) 1
    let s1 := (s0.wr F.SLU_STATUS.MISMATCH_RUN 0 run).releaseMap a t mine
    if s.unitState o = 1 then (if run ≥ 4 then s1.beginTest o else s1)
    else
      let x := s1.sluUnit o
      let own := if x.passed then x.ownRun + 1 else 0
      let s2 := s1.setSluUnit o { x with ownRun := own, cleanFrom := x.cleanFrom.map (fun _ => frameOf s.tide + 1) }
      if own ≥ 4 then ((s2.putSlu { s2.slu with untilHot := true }).switchOver o).beginTest a else s2
  else if okA then fail (s0.releaseMap a t mine) o
  else if okO then fail s0 a
  else fail (fail s0 o) a

/-- The two CRCs agree: the mismatch runs are 0 and the map is released (R174, R179). -/
def State.mapsAgree (s : State) (a t : Nat) (mine : BwMap) : State :=
  let s1 := s.wr F.SLU_STATUS.MISMATCH_RUN 0 0
  (s1.setSluUnit (1 - a) { s1.sluUnit (1 - a) with ownRun := 0 }).releaseMap a t mine

/-- Whether unit o's map of a tree is compared with the ACTIVE unit's (R175): HOT_STANDBY, or RESYNC with its copy of the tree
complete, but for the RESYNC unit that follows a switch-over of R179. -/
def State.comparesMaps (s : State) (o t : Nat) : Bool :=
  s.unitState o == 1 || (s.unitState o == 2 && (s.sluTree o t).copy == 2 && !s.slu.untilHot)

/-- MAP_RELEASE (R169): the ACTIVE unit's map of frame F is compared where the other unit can be, and released. -/
def execMapRelease (t : TreeId) (s : State) : Res :=
  .next (
  let fr := s.cutFrame t
  let mapOf := fun (u : Nat) => (s.sluTree u t).built.filter (fun (m : BwMap) => decide (m.f = fr))
  let start := fun (s : State) => [0, 1].foldl (fun s u =>
    if s.unitState u = 2 ∧ (s.sluTree u t).copy = 0 ∧ s.activeUnit.isSome then s.setSluTree u t { s.sluTree u t with copy := 1 } else s) s
  match s.activeUnit with
  | none => s
  | some a =>
    match mapOf a with
    | none => start s
    | some m =>
      let again := (s.tree t).relMap.any (fun r => decide (r.f ≥ fr)) || (s.tree t).latched.any (fun l => decide (l.f ≥ fr))
      if again ∨ s.tstate t ≠ trACTIVE ∨ s.heldBack t fr then start s
      else
        match (if s.comparesMaps (1 - a) t then mapOf (1 - a) else none) with
        | none =>
          let s1 := s.incSat F.SLU_UNCHECKED.COUNT 0 1
          let s2 := if s.slu.compared then (s1.putSlu { s1.slu with compared := false }).sluEvent F.SLU_EVENT.UNCHECKED else s1
          start (s2.releaseMap a t m)
        | some m2 =>
          let s1 := ((s.putSlu { s.slu with compared := true }).blockEvent 96 0x07 1).blockEvent 97 0x07 1
          start (if s.mapCrc t m.grants = s.mapCrc t m2.grants then s1.mapsAgree a t m else s1.mapsDiffer a t m))

/-! ### Units (R176 to R180, R185) -/

/-- A write of SLU_CTL: RETEST_MS takes its value; SWAP switches over or is refused; RETEST tests every FAILED unit
(R177, R180, R185). -/
def State.writeSluCtl (s : State) (v : Nat) : State :=
  let s1 := s.writeFields [F.SLU_CTL.RETEST_MS] 0 v
  let s2 := if !bit v 0 then s1
    else
      match s1.activeUnit with
      | some a => if s1.unitState (1 - a) = 1 then (s1.switchOver (1 - a)).setUnit a 1 else s1.sluEvent F.SLU_EVENT.SWAP_REFUSED
      | none => s1.sluEvent F.SLU_EVENT.SWAP_REFUSED
  if bit v 1 then (s2.retest 0).retest 1 else s2

/-- SLU_SWAP (R177). -/
def execSluSwap (port : PortId) (v : BitVec 32) (s : State) : Res :=
  .next (s.winWrite port 0x68004 (s.on 54) (fun s => s.writeSluCtl v.toNat))

/-- SLU_RETEST (R177). -/
def execSluRetest (port : PortId) (v : BitVec 32) (s : State) : Res :=
  .next (s.winWrite port 0x68004 (s.on 54) (fun s => s.writeSluCtl v.toNat))

/-- SLUICE_UNIT_FAULT (R177): one of the unit's engines meets a fault, by the cause codes of PE_FAULT, or (none) the unit's
domain leaves ON without a request. -/
def execSluiceUnitFault (u : Fin 2) (fault : Option (Fin 8 × Fin 16)) (s : State) : Res :=
  .next (match fault with
  | some (n, cause) =>
    let e := 48 + 8 * u.val + n.val
    if s.on (48 + u.val) then s.engFault e cause (match (s.eng e).run with
      | some r => r.uaddr
      | none => 0) else s
  | none => s.sluDomainLeft u)

/-- A unit starts from the control processor's copy of the allocation table: accounts 0, queue reports lost, the installed
forecast records lost and counted (R177, R361). -/
def State.freshUnit (s : State) (u : Nat) : State :=
  let lost := (s.sluUnit (s.rd F.SLU_STATUS.ACTIVE 0)).forecasts.length
  let s1 := (List.range 96).foldl (fun s t => s.setSluTree u t SluTree.reset) s
  let s2 := [0, 1].foldl (fun s w => s.setSluUnit w { s.sluUnit w with forecasts := [] }) s1
  (s2.incSat F.SLU_FC_DROP.COUNT 0 lost).countForecasts

/-- FW_START starts the Sluice image: unit A becomes ACTIVE and unit B enters RESYNC (R180, R361). -/
def State.sluiceStart (s : State) : State :=
  let s1 := (s.putSlu { s.slu with started := true, untilHot := false }).freshUnit 0
  let s2 := [0, 1].foldl (fun s u => s.setSluUnit u { s.sluUnit u with heldRetest := false, failedTests := 0 }) s1
  (s2.setUnit 0 0).enterResync 1 false

/-- SLUICE_SELF_TEST_DONE (R177). -/
def execSluiceSelfTestDone (u : Fin 2) (pass : Bool) (s : State) : Res :=
  .next (if s.unitState u ≠ 3 then s
  else if !pass then (s.endTest u false).unitFail u 4
  else
    let s0 := s.endTest u true
    let s1 := s0.setSluUnit u { s0.sluUnit u with failedTests := 0 }
    if s1.activeUnit.isSome then s1.enterResync u true
    else
      ((s1.freshUnit u).wr F.SLU_EVENT.NO_SCHEDULER 0 0).setUnit u 0)

/-- SLUICE_RETEST_TIMER (R177): RETEST_MS after entry into FAILED, unless three tests in a row have failed. -/
def execSluiceRetestTimer (u : Fin 2) (s : State) : Res :=
  .next (if s.rd F.SLU_CTL.RETEST_MS 0 = 0 ∨ (s.sluUnit u).failedTests ≥ 3 then s else s.retest u)

/-- SLUICE_HOT (R177): 64 tide frames after the copy of every tree, every compared map equal. -/
def execSluiceHot (u : Fin 2) (s : State) : Res :=
  .next (if s.unitState u = 2 ∧ (s.sluUnit u).cleanFrom.any (fun f => decide ((f + 64) * frameTicks ≤ s.tide)) then
    ((s.putSlu { s.slu with untilHot := false }).setUnit u 1).sluEvent F.SLU_EVENT.HOT
  else s)

/-! ### Forecast records (R171 to R173, R293) -/

/-- The units a forecast record takes with its burst's overhead (R159, R172). -/
def State.forecastUnits (s : State) (t i : Nat) (fr : Int) (bytes : Nat) : Nat :=
  match s.alloc t i with
  | none => 0
  | some a =>
    let f50 := s.f50 t
    let r := (s.allocRate t a).getD 0
    let g := granule f50 r
    burstUnits f50 r (s.profAt t r (s.profFor t r a.bprof fr) fr) (ceilDiv bytes g * g + (if a.dbru then Config.dbruBytes f50 else 0))

/-- The unit whose table the checks of R172 use. -/
def State.fcUnit (s : State) (t : Nat) : Nat := s.activeUnit.getD (if s.unitHears 0 t then 0 else 1)

/-- The outcome of a forecast record's checks (R172). -/
def State.forecastOutcome (s : State) (b : List Byte) : Nat :=
  let t := byteAt b 0
  let cancel := bit (byteAt b 1) 0
  let i := leAt b 2 2
  let n := leAt b 4 4
  let fr := leAt b 8 8
  let key : Key := (t * 4096 + i, fr)
  let tbl := (s.sluUnit (s.fcUnit t)).forecasts
  let others := (smDel tbl key).filter (fun r => r.1.1 / 4096 == t && r.1.2 == fr)
  let units := others.foldl (fun u r => u + s.forecastUnits t (r.1.1 % 4096) fr r.2) (s.forecastUnits t i fr n)
  if t > 95 ∨ byteAt b 1 > 1 ∨ i > 4095 ∨ n = 0 ∨ n > 1048575 ∨ fr ≥ 2 ^ 51 ∨ !zeroAt b 16 15 ∨ !(s.alloc t i).any (fun a => a.cls == 5) then 4
  else if (fr : Int) ≤ s.cutFrame t then 1
  else if (fr : Int) > s.frame t + (max 1 (s.rd F.SLU_FC_CFG.HORIZON 0) : Nat) then 2
  else if cancel then (if (smFind tbl key).isNone then 5 else 0)
  else if (smDel tbl key).length ≥ 65536 ∨ units * 256 > s.rd F.SLU_FC_CFG.CAP 0 * capacity (s.f50 t) then 3
  else 0

/-- An accepted record is installed or cancelled in both units alike (R172). -/
def State.applyForecast (s : State) (b : List Byte) : State :=
  let t := byteAt b 0
  let key : Key := (t * 4096 + leAt b 2 2, leAt b 8 8)
  ([0, 1].foldl (fun s u =>
    if !s.unitHears u t then s
    else
      let x := s.sluUnit u
      if bit (byteAt b 1) 0 then s.setSluUnit u { x with forecasts := smDel x.forecasts key }
      else (s.setSluUnit u { x with forecasts := smPut x.forecasts key (leAt b 4 4) }).blockEvent (96 + u) 0x06 1) s).countForecasts

/-- FORECAST_RECORD (R172, R293): the next entry of a FORECAST ring. -/
def execForecastRecord (ring : RingId) (s : State) : Res :=
  .next (if (s.ring ring).typ ≠ 3 ∨ !s.on 53 then s
  else
    match s.nextEntry ring with
    | none => s
    | some i =>
      let b := s.hostRead (s.entryAddr ring i) 32
      let s0 := s.blockEvent 101 0x01 1
      if (s.ring ring).badRead then s.readFailed ring false
      else if !bit (byteAt b 31) 7 then s0.foundEarly ring i
      else
        let code := s.forecastOutcome b
        let s1 := if code = 0 then s0.applyForecast b else s0
        (s1.advanceHead ring).writeCompletion ring i (slice b 0 16 ++ leBytes 1 code ++ zeros 14 ++ [0x40#8]) false)

end Sys2Proof.Machine
end

