-- ==== Sys2Proof/Machine/WinRead.lean ====
section
/-! DEFINITION. Reads of the register window (01_boundary.md R31, R32): the fields that show state kept elsewhere, the
value a register reads as, what a read latches and clears, reads of the counter pages by user processes (R459), and the
shadow space of the rake (R452). -/

namespace Sys2Proof.Machine

/-! ### Fields that show other state -/

/-- The raw value of the event register at an offset under the enable register after it: whether an enabled bit is set. -/
def State.evPending (s : State) (ev en : Nat) : Bool :=
  match regAt ev, regAt en with
  | some (r, i), some (q, _) =>
    r.flds.any (fun f => (List.range f.w).any (fun k =>
      bit (s.rd f i) k && q.flds.any (fun g => bit (s.rd g i) (f.lo + k))))
  | _, _ => false

/-- Whether a device source has an enabled event bit set (R304). -/
def State.srcPending (s : State) (k : Nat) : Bool :=
  if k < 96 then s.evPending (0x80024 + k * 0x400) (0x80028 + k * 0x400) || s.evPending (0x80118 + k * 0x400) (0x8011C + k * 0x400)
  else if k < 160 then s.evPending (0x103100C + (k - 96) * 0x40000) (0x1031010 + (k - 96) * 0x40000)
  else if k < 224 then s.evPending (0x50048 + (k - 160) * 0x100) (0x5004C + (k - 160) * 0x100)
  else if k = 224 then
    [F.TIDE_STATUS.FAR, F.TIDE_STATUS.JUMPED, F.TIDE_STATUS.PEER_LOST, F.TB_STATUS.A_PPS, F.TB_STATUS.B_PPS].any (fun f => s.flag f 0)
  else if k = 225 then s.evPending 0x68008 0x6800C
  else if k = 226 then s.evPending 0x40000 0x40004
  else if k = 227 then s.evPending 0x60020 0x60024
  else if k = 228 then s.evPending 0x60500 0x60504
  else if k = 229 then s.evPending 0x200008 0x20000C
  else if k = 230 then s.evPending 0x21004 0x21008
  else if k = 231 then s.anyOverflow || s.flag F.IRQ_STATUS.RING_ERROR 0 || s.flag F.IRQ_STATUS.DB_STRAY 0
  else false

/-- Clean frames counted by a unit in RESYNC, up to 64 (R178). -/
def State.cleanCount (s : State) : Nat :=
  let of_ := fun (u : Nat) => if s.unitState u = 2 then
      (match (s.sluUnit u).cleanFrom with
      | some f => min 64 (frameOf s.tide - f).toNat
      | none => 0) else 0
  max (of_ 0) (of_ 1)

/-- A number whose bit k says whether something holds of k. -/
def maskOf (n : Nat) (p : Nat → Bool) : Nat := (List.range n).foldl (fun a k => if p k then a ||| 2 ^ k else a) 0

/-- A field of the timebase that a read computes (R73). -/
def State.liveTb (s : State) (f : Fld) (i port : Nat) : Option Nat :=
  if f = F.TB_CTC.NS then some (s.tb.ctc / 2 ^ 32)
  else if f = F.TB_x_TIME.NS then some (s.domNs i)
  else if f = F.TB_x_FRAC.FRAC then
    let h := smGet PortHold.reset s.bnd.holds (port, 0)
    some (if i = 0 then h.fracA else h.fracB)
  else if f = F.TB_x_NS32.NS then some (s.domNs i)
  else if f = F.TIDE_NOW_F.F then some (f51 (frameOf s.tide))
  else if f = F.TIDE_NOW_P.P then some (smGet PortHold.reset s.bnd.holds (port, 0)).tideP
  else if f = F.TIDE_DIFF.DIFF then some s.tideDiffReg
  else if f = F.TIDE_STATUS.SLEWING then some (b2n (decide (s.tideDiff ≠ 0)))
  else none

/-- A field of the tree engines and Sluice that a read computes. -/
def State.liveTree (s : State) (f : Fld) (i : Nat) : Option Nat :=
  if f = F.TRE_OPTIC.TXDIS_LEVEL then some (b2n (s.txdis i))
  else if f = F.TRE_OPTIC.SD_LEVEL then some (b2n (s.seesLight i))
  else if f = F.TRE_PLOAM_Q.NORMAL then some (s.tree i).normal.length
  else if f = F.TRE_PLOAM_Q.URGENT then some (s.tree i).urgent.length
  else if f = F.TRE_US_SN.SERIAL then some (((s.treeU i).discovery.head?).map (fun d => d.1) |>.getD 0)
  else if f = F.TRE_US_SN_INFO.RATES then some (((s.treeU i).discovery.head?).map (fun d => d.2) |>.getD 0)
  else if f = F.TRE_US_SN_INFO.COUNT then some (s.treeU i).discovery.length
  else if f = F.TRE_US_FRAME.F then some (f51 ((s.tide - treePhase i - s.teqd i) / frameTicks))
  else if f = F.SLU_TREE_QUIET.OPEN then some (b2n ((s.quietClose i).shared i).quiet.isSome)
  else if f = F.SLU_TREE_QUIET.KIND then some (b2n (((s.quietClose i).shared i).quiet.any (fun q => q.ranging)))
  else if f = F.SLU_TREE_QUIET.RANGE_Q then some ((s.quietClose i).shared i).rangeQ.length
  else if f = F.SLU_STATUS.CLEAN then some s.cleanCount
  else none

/-- A field of a pan engine that a read computes (R217, R450). -/
def State.livePe (s : State) (f : Fld) (i : Nat) : Option Nat :=
  let run := (s.eng i).run
  if f = F.PE_STATUS.TAIL then some (b2n (run.any (fun r => r.tail)))
  else if f = F.PE_STATUS.PROTECTED then some (b2n (run.any (fun r => r.prot)))
  else if f = F.PE_STATUS.LINE then some ((run.map (fun r => r.line)).getD 0)
  else if f = F.PE_STATUS.BUSY then some (b2n run.isSome)
  else if f = F.PE_STATUS.UADDR then some ((run.map (fun r => r.uaddr)).getD 0)
  else if f = F.PE_LINE_PEND.PEND then some (maskOf 64 (fun l => decide (smGet [] (s.eng i).lines (l, 0) ≠ [])))
  else if f = F.PE_LINE_EN.EN then some (maskOf 64 (fun l => s.lineEn i l))
  else if f = F.PE_DQ.COUNT then some (s.eng i).dq.length
  else if f = F.PE_CYCLES.COUNT then some (s.peCycles i)
  else if f = F.PE_CYCLES_SH.COUNT then some (s.countShadow (pageEngine i) 0x80)
  else if f = F.PE_CNTk_SH.COUNT then some (s.countShadow (pageEngine (i / 8)) (0x40 + 4 * (i % 8)))
  else none

/-- A field of the other blocks that a read computes. -/
def State.liveMisc (s : State) (f : Fld) (i : Nat) : Option Nat :=
  if f = F.GLB_STATUS.DBGLOCKED then some (b2n s.dbgLock)
  else if f = F.IRQ_STATUS.EQ_OVERFLOW then some (b2n s.anyOverflow)
  else if f = F.IRQ_SRC_PEND.PEND then some (maskOf 32 (fun k => s.srcPending (32 * i + k)))
  else if f = F.DMA_BUSY.CH then some (maskOf 64 (fun c => decide (s.chState c ≠ chIDLE)))
  else if f = F.MBX_DEVSTATE.BOOT_VER then some Config.bootVer
  else if f = F.FAB_SERIAL.SERIAL then some Config.serial
  else if f = F.PWR_Tt_WAKE.ARMED then some (b2n (s.armed i))
  else if f = F.PWR_Tt_WAKE.LISTENING then some (b2n (s.listens i))
  else if f = F.PWR_ON_MASK.ON then some (maskOf 57 (fun d => s.on d))
  else if f = F.PWR_Dd_SCHED.TUPLE then some (((s.dom i).sched.map (fun x => toShort x.2)).getD 0)
  else if f = F.PMC_STATUS.SNAP_ARMED then some (b2n s.mon.snapAt.isSome)
  else if f = F.TMX_STATUS.STRAP_LOCKED then some (b2n s.dbgLock)
  else if f = F.TMX_STATUS.DRIVING then some (b2n s.tmxDriving)
  else none

/-- What a field reads as: 0 where it is write-only, the state it shows, or the value it holds. -/
def State.fieldRead (s : State) (f : Fld) (i port : Nat) : Nat :=
  if f.acc = .wo then 0
  else
    (match s.liveTb f i port with
    | some v => v
    | none =>
      match s.liveTree f i with
      | some v => v
      | none =>
        match s.livePe f i with
        | some v => v
        | none => (s.liveMisc f i).getD (s.rd f i)) % 2 ^ f.w

/-- What a register reads as. -/
def State.regValue (s : State) (r : RegInfo) (i port : Nat) : Nat :=
  r.flds.foldl (fun a f => a + s.fieldRead f i port * 2 ^ f.lo) 0

/-! ### A read's effects -/

def State.setHold (s : State) (port : Nat) (f : PortHold → PortHold) : State :=
  { s with bnd := { s.bnd with holds := smMod PortHold.reset s.bnd.holds (port, 0) f } }

/-- What a read of a register latches for the port (R73). -/
def State.readLatch (s : State) (r : RegInfo) (i port : Nat) : State :=
  if r.flds.contains F.TB_x_TIME.NS then
    s.setHold port (fun h => if i = 0 then { h with fracA := s.domTime 0 % 2 ^ 16 } else { h with fracB := s.domTime 1 % 2 ^ 16 })
  else if r.flds.contains F.TIDE_NOW_F.F then s.setHold port (fun h => { h with tideP := phaseOf s.tide })
  else s

/-- A read clears the register's RC fields (R8). -/
def State.readClearFields (s : State) (r : RegInfo) (i : Nat) : State :=
  r.flds.foldl (fun s f => if f.acc = .rc then s.wr f i 0 else s) s

/-- A read of a register that answers, at its own width or the low half of 64 bits (R31, R462). -/
def State.regReadAt (s : State) (r : RegInfo) (i port : Nat) : Nat × State :=
  if r.flds.contains F.PMC_LEG_DATA.COUNT then s.legRead
  else
    (s.regValue r i port, (s.readLatch r i port).readClearFields r i)

/-- The low half of a 64-bit value is returned, its high half latched for the port (R31). -/
def State.latchHigh (s : State) (port v : Nat) : Nat × State :=
  (v % 2 ^ 32, s.setHold port (fun h => { h with high := v / 2 ^ 32 % 2 ^ 32 }))

/-- A read of a domain not ON (R32): ones; `quiet` is the rake's read, which sets no DOMACC (R315). -/
def State.readOff (s : State) (off port width : Nat) (half quiet : Bool) : Nat × State :=
  let s1 := if quiet then s else s.accessErr 2 off port
  (2 ^ (8 * width) - 1, if half then s1.setHold port (fun h => { h with high := 0xFFFFFFFF }) else s1)

/-- An erroneous read returns 0 (R31). -/
def State.readErr (s : State) (kind off port : Nat) : Nat × State := (0, s.accessErr kind off port)

/-- A register of 4 or 8 bytes answers a read of a width at its first byte (R31, R32). -/
def State.readWidth (s : State) (off port width bytes : Nat) (on quiet : Bool) (act : State → Nat × State) : Nat × State :=
  if width > bytes then s.readErr 1 off port
  else if !on then s.readOff off port width (decide (width < bytes)) quiet
  else
    let (v, s1) := act s
    if width < bytes then s1.latchHigh port v else (v, s1)

/-- The high half of a 64-bit register is read: the holding register's value (R31). -/
def State.readHigh (s : State) (off port : Nat) (on quiet : Bool) : Nat × State :=
  if !on then s.readOff off port 4 false quiet else ((smGet PortHold.reset s.bnd.holds (port, 0)).high, s)

/-! ### Counter pages (R443, R444, R459) -/

/-- The word of a group page at an offset within the page, shadows from 0x800 up: bytes, value, whether its domain is ON. -/
def State.groupWord (s : State) (p o : Nat) : Option (Nat × Nat × Bool) :=
  if o < 0x800 then
    (s.pageWord p o false).map (fun w =>
      (w.1, w.2, if 0x40 ≤ o ∧ o < 0x60 then (pageDom p).all (fun d => s.on d) else s.on 54))
  else (s.pageWord p (o - 0x800) true).map (fun w => (w.1, w.2, s.on 54))

/-- A read of a group page. -/
def State.readGroup (s : State) (off port width : Nat) (quiet : Bool) : Nat × State :=
  let p := (off - 0x200000) / 0x1000
  let o := off % 0x1000
  match s.groupWord p o with
  | some (bytes, v, on) => s.readWidth off port width bytes on quiet (fun s => (v, s))
  | none =>
    if width = 4 ∧ o % 8 = 4 then
      match s.groupWord p (o - 4) with
      | some (8, _, on) => s.readHigh off port on quiet
      | _ => s.readErr 0 off port
    else s.readErr 0 off port

/-- Whether a user read of PMC_ is served: bit p of the grant words, never the control pages (R459). -/
def State.granted (s : State) (off : Nat) : Bool :=
  let p := (off - 0x200000) / 0x1000
  decide (2 ≤ p ∧ p < 256) && bit (s.rd F.PMC_GRANT.PAGES (p / 32)) (p % 32)

/-- A user access to PMC_ is refused: counted, and the first captured (R459). -/
def State.denyUser (s : State) (off : Nat) : State :=
  let s1 := (s.wr F.PMC_STATUS.DENIED 0 1).pmcEvent F.PMC_EVENT.DENIED
  if s1.flag F.PMC_DENY_ADDR.VALID 0 then s1
  else (s1.wr F.PMC_DENY_ADDR.OFFSET 0 (off - 0x200000)).wr F.PMC_DENY_ADDR.VALID 0 1

def inPmc (off : Nat) : Bool := decide (0x200000 ≤ off ∧ off < 0x1000000)

/-! ### A read of the window -/

/-- A read at an offset by a port: the value it returns, and the state after it (R31, R32, R459). -/
def State.windowRead (s : State) (port off width : Nat) (user quiet : Bool) : Nat × State :=
  if (width ≠ 4 ∧ width ≠ 8) ∨ off % width ≠ 0 then s.readErr 1 off port
  else if off ≥ 0x4000000 then s.readErr 0 off port
  else if user && inPmc off && s.on 54 && !s.granted off then (0, s.denyUser off)
  else if 0x202000 ≤ off ∧ off < 0x2B3000 then s.readGroup off port width quiet
  else if 0x1000000 ≤ off ∧ off < 0x2000000 ∧ inEngWindow (off % 0x40000) then
    let e := (off - 0x1000000) / 0x40000
    if width = 8 then s.readErr 1 off port
    else if quiet && !s.on (engDom e) then (0xFFFFFFFF, s)
    else s.engWindowRead port e (off % 0x40000)
  else
    match regAt off with
    | some (r, i) =>
      -- a pair of programmable counters under CHAIN reads as one 64-bit register (R447)
      let pair := (r.flds.contains F.PMC_CNTk.COUNT && i % 2 == 0 && s.flag F.PMC_SELk.CHAIN (i + 1)) ||
        (r.flds.contains F.PE_CNTk.COUNT && i % 2 == 0 && s.flag F.PE_SELk.CHAIN (i + 1))
      let odd := (r.flds.contains F.PMC_CNTk.COUNT && i % 2 == 1 && s.flag F.PMC_SELk.CHAIN i) ||
        (r.flds.contains F.PE_CNTk.COUNT && i % 2 == 1 && s.flag F.PE_SELk.CHAIN i)
      if odd then (if width = 4 then s.readHigh off port (s.regOn r i) quiet else s.readErr 1 off port)
      else if pair then
        s.readWidth off port width 8 (s.regOn r i) quiet (fun s => (s.regValue r i port + s.regValue r (i + 1) port * 2 ^ 32, s))
      else s.readWidth off port width r.bytes (s.regOn r i) quiet (fun s => s.regReadAt r i port)
    | none =>
      if width = 4 ∧ off % 8 = 4 then
        match regAt (off - 4) with
        | some (r, i) => if r.bytes = 8 then s.readHigh off port (s.regOn r i) quiet else s.readErr 0 off port
        | none => s.readErr 0 off port
      else s.readErr 0 off port

/-- A read from a host port: the data goes back to it. While the island itself is in reset nothing answers, and what the
port sees is free. -/
def State.hostReadWindow (s : State) (port off width : Nat) (user : Bool) : State :=
  if !s.bnd.oscOk then s.tickFree.emit (.readData port (s.free (8 * width)))
  else
    let r := s.windowRead port off width user false
    r.2.emit (.readData port r.1)

/-- A read of rake space 2 (R452): the shadow of a counter's live offset, 0 for any other offset. -/
def State.shadowRead (s : State) (off width : Nat) : Nat :=
  let page := fun (p o : Nat) =>
    match s.pageWord p o true with
    | some (_, v) => v % 2 ^ (8 * width)
    | none =>
      if o % 8 = 4 ∧ width = 4 then
        match s.pageWord p (o - 4) true with
        | some (8, v) => v / 2 ^ 32
        | _ => 0
      else 0
  if 0x202000 ≤ off ∧ off < 0x2B3000 then (if off % 0x1000 < 0x800 then page ((off - 0x200000) / 0x1000) (off % 0x1000) else 0)
  else if 0x200400 ≤ off ∧ off < 0x201E00 then
    let b := (off - 0x200400) / 0x40
    let o := (off - 0x200400) % 0x40
    if 0x20 ≤ o then page (if b < 96 then b + 2 else b + 74) (o + 0x20) else 0
  else if 0x1000000 ≤ off ∧ off < 0x2000000 then
    let e := (off - 0x1000000) / 0x40000
    let o := off % 0x40000
    if 0x34000 ≤ o ∧ o < 0x34008 then page (pageEngine e) (0x80 + (o - 0x34000))
    else if 0x34040 ≤ o ∧ o < 0x34060 then page (pageEngine e) (o - 0x34000)
    else 0
  else 0

end Sys2Proof.Machine
end

