-- ==== Sys2Proof/Machine/Rake.lean ====
section
/-! DEFINITION. The rake (10_rake_dma.md): channel programs and their checks, bursts, arbitration and pacing, peripheral
requests, chains, fences, bus errors, disable, and remote accesses (12_deleth_fabric.md R387). -/

namespace Sys2Proof.Machine

def State.chan (s : State) (c : Nat) : RakeChan := smGet RakeChan.reset s.chans (c, 0)
def State.setChan (s : State) (c : Nat) (x : RakeChan) : State := { s with chans := smSet RakeChan.reset s.chans (c, 0) x }

/-! ### Programs (R315, R316, R318, R327) -/

/-- The program in a channel's registers. -/
def State.regProg (s : State) (c : Nat) : RakeProg :=
  { src := s.rd F.DMA_CHn_SRC.ADDR c, dst := s.rd F.DMA_CHn_DST.ADDR c,
    s0 := s.rdS F.DMA_CHn_S0.STEP c, d0 := s.rdS F.DMA_CHn_D0.STEP c, s1 := s.rdS F.DMA_CHn_S1.STEP c,
    d1 := s.rdS F.DMA_CHn_D1.STEP c, s2 := s.rdS F.DMA_CHn_S2.STEP c, d2 := s.rdS F.DMA_CHn_D2.STEP c,
    c0 := s.rd F.DMA_CHn_CNT01.C0 c, c1 := s.rd F.DMA_CHn_CNT01.C1 c, c2 := s.rd F.DMA_CHn_CNT2.C2 c,
    dctl := s.rd F.DMA_CHn_CNT2.DCTL c, link := s.rd F.DMA_CHn_LINK.LINK c }

/-- The program of a 64-byte descriptor. -/
def progOf (b : List Byte) : RakeProg :=
  { src := leAt b 0 8, dst := leAt b 8 8, s0 := toSigned 32 (leAt b 16 4), d0 := toSigned 32 (leAt b 20 4),
    s1 := toSigned 32 (leAt b 24 4), d1 := toSigned 32 (leAt b 28 4), s2 := toSigned 32 (leAt b 32 4),
    d2 := toSigned 32 (leAt b 36 4), c0 := leAt b 40 2, c1 := leAt b 42 2, c2 := leAt b 44 2, dctl := leAt b 46 2,
    link := leAt b 56 8 }

/-- During a chain the registers show the current descriptor. -/
def State.showProg (s : State) (c : Nat) (p : RakeProg) : State :=
  let s1 := ((s.wr F.DMA_CHn_SRC.ADDR c p.src).wr F.DMA_CHn_DST.ADDR c p.dst).wr F.DMA_CHn_LINK.LINK c p.link
  let s2 := [(F.DMA_CHn_S0.STEP, p.s0), (F.DMA_CHn_D0.STEP, p.d0), (F.DMA_CHn_S1.STEP, p.s1), (F.DMA_CHn_D1.STEP, p.d1),
    (F.DMA_CHn_S2.STEP, p.s2), (F.DMA_CHn_D2.STEP, p.d2)].foldl
      (fun (s : State) (e : Fld × Int) => s.wr e.1 c (ofSigned 32 e.2)) s1
  (((s2.wr F.DMA_CHn_CNT01.C0 c p.c0).wr F.DMA_CHn_CNT01.C1 c p.c1).wr F.DMA_CHn_CNT2.C2 c p.c2).wr F.DMA_CHn_CNT2.DCTL c p.dctl

/-- Element size. -/
def RakeProg.elem (p : RakeProg) : Nat := 2 ^ bits p.dctl 0 4
/-- Bytes the program moves. -/
def RakeProg.total (p : RakeProg) : Nat := p.elem * p.c0 * p.c1 * p.c2
/-- Space and offset of an address. -/
def spaceOf (a : Nat) : Nat := a / 2 ^ 60
def offOf (a : Nat) : Nat := a % 2 ^ 60

/-- Lowest and highest byte offset of one side, before any wrap. -/
def extent (a e : Nat) (x y z : Int) (p : RakeProg) : Int × Int :=
  let steps : List Int := [x * (p.c0 - 1 : Nat), y * (p.c1 - 1 : Nat), z * (p.c2 - 1 : Nat)]
  ((offOf a : Int) + steps.foldl (fun n k => n + min 0 k) 0, (offOf a : Int) + steps.foldl (fun n k => n + max 0 k) 0 + (e - 1 : Nat))

/-- Whether a scratch or remote side stays in the range of R315. -/
def inRange (a : Nat) (ex : Int × Int) : Bool :=
  if spaceOf a = 3 then
    let base : Int := (bits a 34 1) * 2 ^ 34
    decide (bits a 35 25 = 0 ∧ base ≤ ex.1 ∧ ex.2 < base + 15 * 2 ^ 30)
  else if spaceOf a = 5 then
    let base : Int := (offOf a / 2 ^ 48) * 2 ^ 48
    decide (bits a 58 2 = 0 ∧ base ≤ ex.1 ∧ ex.2 < base + 2 ^ 48)
  else true

/-- The first check of R318, by code, that a program fails with a sampled REQ; `resv` says that a reserved byte of a
descriptor is not 0. -/
def RakeProg.check (p : RakeProg) (req : Nat) (resv : Bool) : Option Nat :=
  let e := p.elem
  let sp := spaceOf p.src
  let dp := spaceOf p.dst
  let periph := (if sp = 4 then 1 else 0) + (if dp = 4 then 1 else 0)
  let xs := extent p.src e p.s0 p.s1 p.s2 p
  let xd := extent p.dst e p.d0 p.d1 p.d2 p
  if p.c0 = 0 ∨ p.c1 = 0 ∨ p.c2 = 0 then some 1
  else if bits p.dctl 0 4 > 9 ∨ bits p.dctl 6 10 ≠ 0 ∨ bits p.link 1 5 ≠ 0 ∨ resv then some 2
  else if sp > 5 ∨ dp ∉ [0, 3, 4, 5] ∨ (sp = 5 ∧ bits p.src 48 4 ∉ [2, 3]) ∨ (dp = 5 ∧ bits p.dst 48 4 ≠ 3) then some 3
  else if (sp = 1 ∨ sp = 2) ∧ ((e ≠ 4 ∧ e ≠ 8) ∨ offOf p.src % e ≠ 0 ∨
      [(p.c0, p.s0), (p.c1, p.s1), (p.c2, p.s2)].any (fun k => decide (k.1 > 1 ∧ k.2 % (e : Int) ≠ 0))) then some 4
  else if (periph = 1 ∧ req = 0) ∨ (periph = 0 ∧ req ≠ 0) ∨ periph = 2 ∨ req > 97 then some 5
  else if !inRange p.src xs || !inRange p.dst xd then some 6
  else none

/-- The offset of an element on one side, within the space's 60 bits (R316). -/
def elemOff (a : Nat) (x y z : Int) (p : RakeProg) (n o : Nat) : Nat :=
  let i0 : Int := (n % p.c0 : Nat)
  let i1 : Int := (n / p.c0 % p.c1 : Nat)
  let i2 : Int := (n / p.c0 / p.c1 : Nat)
  (((offOf a : Int) + i2 * z + i1 * y + i0 * x + o) % (2 ^ 60 : Nat)).toNat

/-- Bytes to the next 4 KiB boundary of a host, scratch or remote address (R317). -/
def toPage (sp off : Nat) : Nat := if sp = 0 ∨ sp = 3 ∨ sp = 5 then 4096 - off % 4096 else 512

/-- A burst: source and destination address with their space bits, and its length. -/
structure Burst where
  src : Nat
  dst : Nat
  len : Nat

/-- The burst at a position of a program (R317): the longest run contiguous on both sides within the limits, of whole elements;
an element that a limit cuts goes in parts of its own. -/
def RakeProg.burst (p : RakeProg) (pos : Nat) : Burst :=
  let e := p.elem
  let n := pos / e
  let o := pos % e
  let a := elemOff p.src p.s0 p.s1 p.s2 p n o
  let b := elemOff p.dst p.d0 p.d1 p.d2 p n o
  let run := if p.s0 = e ∧ p.d0 = e ∧ o = 0 then (p.c0 - n % p.c0) * e else e - o
  let len := min (min run 512) (min (toPage (spaceOf p.src) a) (toPage (spaceOf p.dst) b))
  ⟨spaceOf p.src * 2 ^ 60 + a, spaceOf p.dst * 2 ^ 60 + b, if o = 0 ∧ len ≥ e then len - len % e else len⟩

/-- Where a channel stands in its program: REMAIN and IDX (R317, R336). -/
def State.setPos (s : State) (c pos : Nat) : State :=
  let x := s.chan c
  let n := pos / x.prog.elem
  let idx := n % x.prog.c0 + n / x.prog.c0 % x.prog.c1 * 2 ^ 16 + n / x.prog.c0 / x.prog.c1 * 2 ^ 32
  ((s.setChan c { x with pos := pos }).wr F.DMA_CHn_REMAIN.BYTES c (x.prog.total - pos)).wr F.DMA_CHn_IDX.IDX c idx

/-! ### Halting, requests -/

/-- The channel halts (R332). -/
def State.rakeHalt (s : State) (c cause addr : Nat) : State :=
  let s1 := ((s.wr F.DMA_CHn_STATUS.STATE c chHALTED).wr F.DMA_CHn_STATUS.ERR_CAUSE c cause).wr F.DMA_CHn_ERR_ADDR.ADDR c addr
  (s1.setChan c { s1.chan c with remoteRead := [], fails := 0 }).chEvent c F.DMA_CHn_EVENT.HALTED

/-- A failure of the present burst: issued again up to DMA_RETRY times, else the channel halts (R332). -/
def State.burstFail (s : State) (c cause addr : Nat) : State :=
  let x := s.chan c
  if x.fails + 1 > s.rd F.DMA_RETRY.COUNT 0 then s.rakeHalt c cause addr
  else
    let s1 := s.setChan c { x with fails := x.fails + 1, remoteRead := [] }
    (s1.incSat F.DMA_CHn_STATUS.RETRIES c 1).blockEvent 101 0x06 1

/-- Whether the channel's request is high for its next burst (R324): a tree engine holds its telemetry (R461) for a
peripheral source and takes nothing as a destination; the table engine asks for no software program. -/
def State.reqHigh (s : State) (c : Nat) : Bool :=
  let x := s.chan c
  if x.req = 0 then true
  else if x.req ≤ 96 ∧ spaceOf x.prog.src = 4 then
    decide (x.kept.length + (if s.on (pairOf (x.req - 1)) then 16 * (s.telOf (x.req - 1)).length else 0) ≥ (x.prog.burst x.pos).len)
  else false

/-- A started channel runs, or waits for its request (R319). -/
def State.rakeRun (s : State) (c : Nat) : State :=
  s.wr F.DMA_CHn_STATUS.STATE c (if s.reqHigh c then chRUNNING else chWAIT)

/-! ### Chains and the end of a program (R327 to R331) -/

/-- The next descriptor is fetched and checked (R318, R328). -/
def State.fetchDesc (s : State) (c addr : Nat) : State :=
  let b := s.hostRead addr 64
  let p := progOf b
  let s1 := (s.wr F.DMA_CHn_TAIL.ADDR c addr).showProg c p
  let s2 := s1.setChan c { s1.chan c with prog := p, run := (s1.chan c).run + 1, pos := 0, kept := [] }
  match p.check (s2.chan c).req (!zeroAt b 48 8) with
  | some _ => s2.rakeHalt c 5 addr
  | none => s2.setPos c 0

/-- The LINK word is read afresh and acted on; `kick` says that a kick asked for it (R328). Its reads that end in an error are
repeated, up to DMA_RETRY times (R332). -/
def State.followLink (s : State) (c : Nat) (kick : Bool) : State :=
  let x := s.chan c
  let s0 := (s.setChan c { x with badLinks := 0 }).incSat F.DMA_CHn_STATUS.RETRIES c (min x.badLinks (s.rd F.DMA_RETRY.COUNT 0))
  let at_ := s.rd F.DMA_CHn_TAIL.ADDR c + 56
  let l := leAt (s.hostRead at_ 8) 0 8
  if x.badLinks > s.rd F.DMA_RETRY.COUNT 0 then s0.rakeHalt c 3 at_
  else if bit l 0 then
    if kick then s0.incSat F.DMA_CHn_KICK_IGN.COUNT c 1
    else (s0.wr F.DMA_CHn_STATUS.STATE c chAT_END).chEvent c F.DMA_CHn_EVENT.DONE
  else (if kick then s0.wr F.DMA_CHn_STATUS.STATE c chRUNNING else s0).fetchDesc c (l / 64 * 64)

/-- A fence over every write not fenced yet; with none it is done at once (R331). -/
def State.openFence (s : State) (c : Nat) (desc : Bool) : State :=
  let x := s.chan c
  if x.unfenced = [] then s.chEvent c F.DMA_CHn_EVENT.FENCED
  else s.setChan c { x with fences := x.fences ++ [⟨x.serial, desc⟩] }

/-- The last burst of a program is done (R319, R328, R330). -/
def State.programDone (s : State) (c : Nat) : State :=
  let x := s.chan c
  let s1 := if bit x.prog.dctl 5 then s.chEvent c F.DMA_CHn_EVENT.DESC else s
  if x.chain then
    let s2 := s1.incSat F.DMA_CHn_DESCS.COUNT c 1
    if bit x.prog.dctl 4 ∧ x.unfenced ≠ [] then s2.openFence c true
    else (if bit x.prog.dctl 4 then s2.openFence c true else s2).followLink c false
  else
    let s2 := (s1.wr F.DMA_CHn_STATUS.STATE c chIDLE).chEvent c F.DMA_CHn_EVENT.DONE
    if bit x.prog.dctl 4 then s2.openFence c false else s2

/-! ### Bursts -/

/-- A burst's write has left the engine: it is counted as done (R317). -/
def State.burstDone (s : State) (c len : Nat) : State :=
  let x := s.chan c
  let s1 := ((s.setChan c { x with fails := 0 }).setPos c (x.pos + len)).incSat F.DMA_CHn_BYTES.BYTES c len
  let s2 := s1.blockEvent 101 0x05 1
  if x.pos + len ≥ x.prog.total then s2.programDone c else s2

/-- Scratch bytes: stack [34] above offset [33:0] (R315, log entry 34). -/
def scratchKey (a : Nat) : Nat := a % 2 ^ 35

/-- The device, remote space and offset of a space 5 address. -/
def remoteParts (a : Nat) : Nat × Nat × Nat := (bits a 52 7, bits a 48 4, bits a 0 48)

/-- The cells of a remote access: up to 224 bytes each (R387). -/
def remoteChunks : Nat → Nat → List (Nat × Nat)
  | 0, _ => []
  | n + 1, len => if len = 0 then [] else (if len ≤ 224 then [(0, len)] else (0, 224) :: (remoteChunks n (len - 224)).map (fun p => (p.1 + 224, p.2)))

/-- Whether a remote device can be reached (R332). -/
def State.canReach (s : State) (a : Nat) : Bool := s.on 55 && (s.hopFor (remoteParts a).1 s.fabAddr 3).isSome

/-- A burst's write is handed on: it takes the channel's next number, and its data are kept where a peripheral gave them. -/
def State.burstIssued (s : State) (c : Nat) (b : Burst) (data : List Byte) : State :=
  let x := s.chan c
  s.setChan c { x with
    serial := x.serial + 1,
    unfenced := x.unfenced ++ [⟨x.serial, b.dst, x.pos, x.run, if spaceOf b.src = 4 then data else []⟩] }

/-- The cells of a remote write leave, each with a tag of its own (R387). -/
def State.sendWrite (s : State) (c : Nat) (b : Burst) (data : List Byte) : State :=
  let (dev, sp, off) := remoteParts b.dst
  (remoteChunks 3 b.len).foldl (fun s q =>
    let x := s.chan c
    let d := (data.drop q.1).take q.2
    (s.setChan c { x with tag := x.tag + 1, remoteWrites := x.remoteWrites ++ [⟨x.tag, x.serial - 1, b.dst + q.1, d, 0⟩] }).sendTo dev
      s.fabAddr (.remoteReq dev ⟨true, x.tag, s.fabAddr, c, sp, off + q.1, q.2, d⟩)) s

/-- The cells of a remote read leave (R387). -/
def State.sendRead (s : State) (c : Nat) (b : Burst) : State :=
  let (dev, sp, off) := remoteParts b.src
  (remoteChunks 3 b.len).foldl (fun s q =>
    let x := s.chan c
    (s.setChan c { x with tag := x.tag + 1, remoteRead := x.remoteRead ++ [⟨x.tag, none⟩] }).sendTo dev
      s.fabAddr (.remoteReq dev ⟨false, x.tag, s.fabAddr, c, sp, off + q.1, q.2, []⟩)) s

/-- The data of a burst goes to its destination (R315, R331); what a window or a peripheral gave is kept where it cannot be. -/
def State.burstWrite (s : State) (c : Nat) (b : Burst) (data : List Byte) : State :=
  let s1 := s.burstIssued c b data
  match spaceOf b.dst with
  | 0 => (s1.hostWrite (offOf b.dst) data).burstDone c b.len
  | 3 => ({ s1 with scratch := memPutAll s1.scratch (scratchKey b.dst) data }).burstDone c b.len
  | 5 =>
    if !s.canReach b.dst then
      let x := s.chan c
      (if spaceOf b.src ∈ [1, 2, 4] then s.setChan c { x with kept := data ++ x.kept } else s).burstFail c 2 b.dst
    else (s1.sendWrite c b data).burstDone c b.len
  | _ => s

/-- Read `n` elements of a window or the shadows, of e bytes each. -/
def State.readElems (s : State) (sp port e : Nat) : Nat → Nat → List Byte × State
  | 0, _ => ([], s)
  | n + 1, off =>
    let (v, s1) := if sp = 1 then s.windowRead port off e false true else (s.shadowRead off e, s)
    let (rest, s2) := State.readElems s1 sp port e n (off + e)
    (leBytes e v ++ rest, s2)

/-- A tree engine's telemetry, `n` bytes, records being taken whole (R461). -/
def State.takeTel (s : State) (c n : Nat) : List Byte × State :=
  let x := s.chan c
  let t := x.req - 1
  let recs := if x.kept.length ≥ n then 0 else ceilDiv (n - x.kept.length) 16
  let l := s.telOf t
  let all := x.kept ++ (l.take recs).flatten
  (all.take n, (if recs = 0 then s else s.setTel t (l.drop recs)).setChan c { x with kept := all.drop n })

/-- A burst's data from a window or the shadows: whole elements are read, once each, and the rest of one that the burst cuts is
kept (R315, R317). -/
def State.takeElems (s : State) (c : Nat) (b : Burst) : List Byte × State :=
  let x := s.chan c
  let e := x.prog.elem
  let o := x.pos % e
  if x.kept.length ≥ b.len then (x.kept.take b.len, s.setChan c { x with kept := x.kept.drop b.len })
  else
    let (d, s1) := s.readElems (spaceOf b.src) x.port e (ceilDiv (o + b.len) e) (offOf b.src - o)
    ((d.drop o).take b.len, s1.setChan c { s1.chan c with kept := d.drop (o + b.len) })

/-- A burst is issued (R315, R317): its data are read and written, or a remote read is asked for. -/
def State.issueBurst (s : State) (c : Nat) : State :=
  let x := s.chan c
  let b := x.prog.burst x.pos
  let s1 := s.setChan c { x with lastBurst := some (s.mon.cycles, b.len) }
  match spaceOf b.src with
  | 0 => s1.burstWrite c b (s1.hostRead (offOf b.src) b.len)
  | 3 => s1.burstWrite c b (memBytes s1.scratch (scratchKey b.src) b.len)
  | 4 => let (d, s2) := s1.takeTel c b.len
    s2.burstWrite c b d
  | 5 => if !s1.canReach b.src then s1.burstFail c 1 b.src else s1.sendRead c b
  | _ => let (d, s2) := s1.takeElems c b
    s2.burstWrite c b d

/-- Bursts whose remote writes are not answered yet. -/
def RakeChan.unanswered (x : RakeChan) : Nat :=
  (x.unfenced.filter (fun i => x.remoteWrites.any (fun w => w.serial == i.serial))).length

/-- A channel that may begin a burst now (R317, R321, R322): RUNNING on this port, not held by a command, waiting for no fence of
its descriptor and no remote read, fewer than 8 bursts unanswered, and its pacing over. -/
def State.mayBurst (s : State) (port c : Nat) : Bool :=
  let x := s.chan c
  decide (s.chState c = chRUNNING) && !s.flag F.DMA_CHn_STATUS.OWNED c && decide (x.port = port) && !x.fences.any (fun f => f.desc) &&
  decide (x.remoteRead = []) && decide (x.unanswered < 8) &&
  (match x.lastBurst with
  | none => true
  | some (at_, b) =>
    let r := s.rd F.DMA_CHn_CTL.RATE c
    decide (r = 0 ∨ (s.mon.cycles - at_) * r ≥ ceilDiv b 64 * 256))

/-- The channel chosen on a port (R321): the highest priority, and within it the first after the one served last. -/
def State.nextChan (s : State) (port : Nat) : Option Nat :=
  let ready := (List.range 64).filter (fun c => s.mayBurst port c)
  ([3, 2, 1, 0].find? (fun p => ready.any (fun c => s.rd F.DMA_CHn_CTL.PRIO c == p))).bind (fun p =>
    let l := ready.filter (fun c => s.rd F.DMA_CHn_CTL.PRIO c == p)
    let last := smGet 0 s.rakeLast (port, p)
    (l.filter (fun c => decide (c + 1 > last)) ++ l).head?)

/-! ### Control bits (R319, R323, R328, R331, R333) -/

/-- START is ignored or refused. -/
def State.startRefused (s : State) (c : Nat) (code : Option Nat) : State :=
  (match code with
  | some k => s.wr F.DMA_CHn_STATUS.CFG_ERR c k
  | none => s).chEvent c F.DMA_CHn_EVENT.START_REFUSED

/-- START (R318, R319, R323). -/
def State.rakeStart (s : State) (c : Nat) : State :=
  let st := s.chState c
  if s.flag F.DMA_CHn_STATUS.OWNED c then s.startRefused c (some 9)
  else if st = chARMED ∨ st = chRUNNING ∨ st = chWAIT then s.startRefused c none
  else
    let chain := s.flag F.DMA_CHn_CTL.CHAIN c
    let req := s.rd F.DMA_CHn_CTL.REQ c
    let p := s.regProg c
    let at_ := s.flag F.DMA_CHn_CTL.AT c
    let inst := s.shortTuple (s.rd F.DMA_CHn_START_AT.TUPLE c)
    let first := s.rd F.DMA_CHn_FIRST.ADDR c
    let bad := if chain then (if first % 64 ≠ 0 then some 7 else none) else p.check req false
    match bad, (if at_ ∧ inst.isNone then some 8 else none) with
    | some k, _ => s.startRefused c (some k)
    | none, some k => s.startRefused c (some k)
    | none, none =>
      let late := at_ && inst.any (fun t => decide (t ≤ s.tide))
      let s1 := ((s.wr F.DMA_CHn_STATUS.CFG_ERR c 0).wr F.DMA_CHn_STATUS.RETRIES c 0).wrB F.DMA_CHn_STATUS.LATE c late
      let s2 := (s1.wr F.DMA_CHn_BYTES.BYTES c 0).wr F.DMA_CHn_DESCS.COUNT c 0
      let s3 := s2.setChan c { s2.chan c with
        prog := p, run := (s2.chan c).run + 1, chain := chain, req := req, port := s.rd F.DMA_CHn_CTL.PORT c, pos := 0,
        startAt := if at_ then inst else none, fails := 0, remoteRead := [], kept := [], badLinks := 0,
        fences := (s2.chan c).fences.filter (fun f => !f.desc) }
      let s4 := if chain then (s3.wr F.DMA_CHn_STATUS.STATE c chRUNNING).fetchDesc c first else s3.setPos c 0
      if s4.chState c = chHALTED ∧ chain then s4
      else if at_ ∧ !late then s4.wr F.DMA_CHn_STATUS.STATE c chARMED
      else s4.rakeRun c

/-- RESUME (R332): from the failing burst; a descriptor that could not be read or failed its check, or a link, is read again. A
program with nothing left to write goes on with its link, or ends. -/
def State.rakeResume (s : State) (c : Nat) : State :=
  if s.chState c ≠ chHALTED then s
  else
    let cause := s.rd F.DMA_CHn_STATUS.ERR_CAUSE c
    let addr := s.rd F.DMA_CHn_ERR_ADDR.ADDR c
    let run := s.wr F.DMA_CHn_STATUS.STATE c chRUNNING
    if cause = 5 ∨ (cause = 3 ∧ addr % 64 = 0) then
      let s1 := run.fetchDesc c addr
      if s1.chState c = chHALTED then s1 else s1.rakeRun c
    else if (s.chan c).pos < (s.chan c).prog.total then s.rakeRun c
    else if (s.chan c).chain then run.followLink c false
    else s.wr F.DMA_CHn_STATUS.STATE c chIDLE

/-- CTL.FENCE (R331): in RUNNING, IDLE, AT_END and HALTED. -/
def State.rakeFence (s : State) (c : Nat) : State :=
  let st := s.chState c
  if st = chARMED ∨ st = chWAIT then s else s.openFence c false

/-- DISABLE (R333): IDLE at once; an armed start, fences and the chain are abandoned; the counts become undefined. A
command that held the channel ends (R326, R455). -/
def State.rakeDisable (s : State) (c : Nat) : State :=
  let s0 := s.abortHeld c
  let hv := s0.mon.harvests.filter (fun h => byteAt h.p 1 == c)
  let s1 := hv.foldl (fun s h => (s.answerLater h.src (refuse stINTERNAL 0x40)).pumpAll)
    (s0.setMon (fun m => { m with harvests := m.harvests.filter (fun h => byteAt h.p 1 ≠ c) }))
  let s2 := (s1.wr F.DMA_CHn_STATUS.STATE c chIDLE).wr F.DMA_CHn_STATUS.OWNED c 0
  let s3 := s2.setChan c { s2.chan c with startAt := none, fences := [], remoteRead := [], remoteWrites := [], kept := [], fails := 0, badLinks := 0 }
  [F.DMA_CHn_REMAIN.BYTES, F.DMA_CHn_IDX.IDX, F.DMA_CHn_BYTES.BYTES, F.DMA_CHn_DESCS.COUNT].foldl (fun s f => s.wrFree f c) s3

/-- A write of DMA_CHn_CTL (R319, R326, R334). -/
def State.writeDmaCtl (s : State) (c v : Nat) : State :=
  let owned := s.flag F.DMA_CHn_STATUS.OWNED c
  let s1 := if owned then s
    else s.writeFields [F.DMA_CHn_CTL.PRIO, F.DMA_CHn_CTL.PORT, F.DMA_CHn_CTL.CHAIN, F.DMA_CHn_CTL.AT, F.DMA_CHn_CTL.REQ, F.DMA_CHn_CTL.RATE] c v
  if bit v 31 then s1.rakeDisable c
  else if owned then (if bit v 28 then s1.rakeStart c else s1)
  else
    let s2 := if bit v 30 then s1.rakeFence c else s1
    let s3 := if bit v 28 then s2.rakeStart c else s2
    if bit v 29 then s3.rakeResume c else s3

/-- A kick (R328). -/
def State.rakeKick (s : State) (c : Nat) : State :=
  if s.flag F.DMA_CHn_STATUS.OWNED c then s
  else if s.chState c = chAT_END then s.followLink c true
  else s.incSat F.DMA_CHn_KICK_IGN.COUNT c 1

/-- The offset of a channel's CTL register. -/
def dmaCtlOff (c : Nat) : Nat := 0x50040 + c * 0x100

/-! ### Remote answers (R387) -/

/-- The channel halts at a burst whose write failed: REMAIN, IDX and BYTES go back to it where it is of the program loaded; it and
the bursts after it will be written again, a peripheral's data among what is kept for that (R332). -/
def State.haltAt (s : State) (c cause : Nat) (i : RakeIssued) : State :=
  let x := s.chan c
  if i.run ≠ x.run then s.rakeHalt c cause i.addr
  else
    let again := x.unfenced.filter (fun j => decide (i.serial ≤ j.serial))
    let s1 := (s.setChan c { x with
      unfenced := x.unfenced.filter (fun j => decide (j.serial < i.serial)),
      remoteWrites := x.remoteWrites.filter (fun w => decide (w.serial < i.serial)),
      kept := if spaceOf x.prog.src = 4 then (again.map RakeIssued.data).flatten ++ x.kept else [] }).setPos c i.pos
    (s1.wr F.DMA_CHn_BYTES.BYTES c (s.rd F.DMA_CHn_BYTES.BYTES c - (x.pos - i.pos))).rakeHalt c cause i.addr

/-- A remote write fails: it is sent again up to DMA_RETRY times, then the channel halts at its burst (R332). Of a program no
longer running it stays unacknowledged, and only a fence over it shows that (R331). -/
def State.remoteWriteFail (s : State) (c : Nat) (w : RemoteWrite) : State :=
  let x := s.chan c
  if w.fails + 1 > s.rd F.DMA_RETRY.COUNT 0 then
    match x.unfenced.find? (fun i => i.serial == w.serial) with
    | some i =>
      if i.run = x.run ∧ (s.chState c = chRUNNING ∨ s.chState c = chWAIT) then s.haltAt c 2 i
      else s.setChan c { x with remoteWrites := x.remoteWrites.map (fun v => if v.tag = w.tag then { v with tag := 0 } else v) }
    | none => s
  else
    let (dev, sp, off) := remoteParts w.addr
    let s1 := s.setChan c { x with
      tag := x.tag + 1,
      remoteWrites := x.remoteWrites.map (fun v => if v.tag = w.tag then { v with tag := x.tag, fails := v.fails + 1 } else v) }
    ((s1.incSat F.DMA_CHn_STATUS.RETRIES c 1).blockEvent 101 0x06 1).sendTo dev s.fabAddr
      (.remoteReq dev ⟨true, x.tag, s.fabAddr, c, sp, off, w.data.length, w.data⟩)

/-- A remote write is acknowledged; with its last part its burst is (R331). -/
def State.remoteWritten (s : State) (c : Nat) (w : RemoteWrite) : State :=
  let x := s.chan c
  let left := x.remoteWrites.filter (fun v => v.tag != w.tag)
  s.setChan c { x with
    remoteWrites := left,
    unfenced := if left.any (fun v => v.serial == w.serial) then x.unfenced else x.unfenced.filter (fun i => i.serial != w.serial) }

/-- The answer to a remote access (R387); one to an access that the channel no longer waits for changes nothing (R333). -/
def State.remoteAnswer (s : State) (m : RemoteRsp) : State :=
  let c := m.ch
  let x := s.chan c
  if m.write then
    match x.remoteWrites.find? (fun w => decide (w.tag = m.tag ∧ m.tag ≠ 0)) with
    | none => s
    | some w => if m.refused then s.remoteWriteFail c w else s.remoteWritten c w
  else if !x.remoteRead.any (fun q => q.tag == m.tag && q.got.isNone) then s
  else
    let b := x.prog.burst x.pos
    let l := x.remoteRead.map (fun q => if q.tag = m.tag then { q with got := some m.data } else q)
    if m.refused then s.burstFail c 1 b.src
    else if l.any (fun q => q.got.isNone) then s.setChan c { x with remoteRead := l }
    else (s.setChan c { x with remoteRead := [] }).burstWrite c b ((l.flatMap (fun q => q.got.getD [])).take b.len)

/-! ### Rows -/

/-- DMA_START (R318, R319, R323): a write of CTL with START. -/
def execDmaStart (port : PortId) (ch : ChId) (v : BitVec 32) (s : State) : Res :=
  .next (s.winWrite port (dmaCtlOff ch) (s.on 53) (fun s => s.writeDmaCtl ch (v.toNat ||| 2 ^ 28)))

/-- DMA_RESUME (R332): a write of CTL with RESUME. -/
def execDmaResume (port : PortId) (ch : ChId) (v : BitVec 32) (s : State) : Res :=
  .next (s.winWrite port (dmaCtlOff ch) (s.on 53) (fun s => s.writeDmaCtl ch (v.toNat ||| 2 ^ 29)))

/-- DMA_FENCE (R331): a write of CTL with FENCE. -/
def execDmaFence (port : PortId) (ch : ChId) (v : BitVec 32) (s : State) : Res :=
  .next (s.winWrite port (dmaCtlOff ch) (s.on 53) (fun s => s.writeDmaCtl ch (v.toNat ||| 2 ^ 30)))

/-- DMA_DISABLE (R333, R334): a write of CTL with DISABLE. -/
def execDmaDisable (port : PortId) (ch : ChId) (v : BitVec 32) (s : State) : Res :=
  .next (s.winWrite port (dmaCtlOff ch) (s.on 53) (fun s => s.writeDmaCtl ch (v.toNat ||| 2 ^ 31)))

/-- DMA_KICK (R328): any value kicks. -/
def execDmaKick (port : PortId) (ch : ChId) (_v : BitVec 32) (s : State) : Res :=
  .next (s.winWrite port (0x50080 + ch * 0x100) (s.on 53) (fun s => s.rakeKick ch))

/-- RAKE_BURST (R317, R321, R325): the chosen channel samples its request; low, it waits; high, its burst is issued. -/
def execRakeBurst (port : PortId) (s : State) : Res :=
  .next (if !s.on 53 then s
  else
    match s.nextChan port with
    | none => s
    | some c =>
      if !s.reqHigh c then s.wr F.DMA_CHn_STATUS.STATE c chWAIT
      else ({ s with rakeLast := smSet 0 s.rakeLast (port, s.rd F.DMA_CHn_CTL.PRIO c) (c + 1) }).issueBurst c)

/-- RAKE_BURST_ERROR (R332): cause 0 the source and 1 the destination of the present burst, an answer that a remote write waits
for in vain among them; 2 the read of the descriptor not begun yet, or, once it is begun, of its link, which the channel meets
at its end. -/
def execRakeBurstError (ch : ChId) (cause : Fin 3) (s : State) : Res :=
  .next (let x := s.chan ch
  let st := s.chState ch
  let b := x.prog.burst x.pos
  if !s.on 53 ∨ s.flag F.DMA_CHn_STATUS.OWNED ch then s
  else if cause = 1 ∧ x.remoteWrites.any (fun w => w.tag != 0) then
    (match x.remoteWrites.find? (fun w => w.tag != 0) with
    | some w => s.remoteWriteFail ch w
    | none => s)
  else if st = chAT_END ∧ cause = 2 then s.setChan ch { x with badLinks := x.badLinks + 1 }
  else if st ≠ chRUNNING ∧ st ≠ chWAIT then s
  else if cause = 0 then s.burstFail ch 1 b.src
  else if cause = 1 then s.burstFail ch 2 b.dst
  else if !x.chain then s
  else if x.pos = 0 then s.burstFail ch 3 (s.rd F.DMA_CHn_TAIL.ADDR ch)
  else s.setChan ch { x with badLinks := x.badLinks + 1 })

/-- RAKE_ARMED_START (R323): the tide reaches START_AT (R50, R72). -/
def execRakeArmedStart (ch : ChId) (s : State) : Res :=
  .next (if s.on 53 ∧ s.chState ch = chARMED ∧ (s.chan ch).startAt.any (fun a => s.tideDue a) then (s.setChan ch { s.chan ch with startAt := none }).rakeRun ch else s)

/-- PERIPHERAL_REQUEST_RISE (R324, R325). -/
def execPeripheralRequestRise (ch : ChId) (s : State) : Res :=
  .next (if s.on 53 ∧ s.chState ch = chWAIT ∧ s.reqHigh ch then s.wr F.DMA_CHn_STATUS.STATE ch chRUNNING else s)

/-- FENCE_DONE (R331): the oldest fence's writes are acknowledged; not while a remote write among them is unanswered. -/
def execFenceDone (ch : ChId) (s : State) : Res :=
  .next (let x := s.chan ch
  match x.fences with
  | [] => s
  | f :: rest =>
    if !s.on 53 ∨ x.remoteWrites.any (fun w => decide (w.serial < f.below)) then s
    else
      let s1 := (s.setChan ch { x with unfenced := x.unfenced.filter (fun i => decide (f.below ≤ i.serial)), fences := rest }).chEvent
        ch F.DMA_CHn_EVENT.FENCED
      if f.desc ∧ s.chState ch = chRUNNING then s1.followLink ch false else s1)

/-- FENCE_TIMEOUT (R331, R332): `acked` of the writes before the fence, the oldest ones, have been acknowledged; the channel halts
at the burst of the oldest that has not, and its fences are over. -/
def execFenceTimeout (ch : ChId) (acked : Nat) (s : State) : Res :=
  .next (let x := s.chan ch
  match x.fences with
  | [] => s
  | f :: _ =>
    let l := x.unfenced.filter (fun i => decide (i.serial < f.below))
    let s1 := s.setChan ch { x with fences := [] }
    if !s.on 53 then s
    else
      match (l.drop acked).head?.or l.head? with
      | some i => s1.haltAt ch 4 i
      | none => s1.rakeHalt ch 4 0)

end Sys2Proof.Machine
end

