-- ==== Sys2Proof/Machine/Fabric.lean ====
section
/-! DEFINITION. The Deleth fabric: its rows (12_deleth_fabric.md R371 to R390). -/

namespace Sys2Proof.Machine

/-! ### Lanes, codewords and hellos (R371 to R374) -/

/-- A device whose links carry cells: its fabric domain ON, or leaving ON with the withdrawal of R388 still running. -/
def State.fabOn (s : State) : Bool := s.on 55 || (s.pw 55 == pwFALLING && s.fab.leaveAt.isSome)

/-- A lane hunts the headers of more blocks (R371): LOCK0 or LOCK1 follows, and a lane that loses block lock takes its link
out of codeword lock. -/
def State.laneHunt (s : State) (l role : Nat) (vs : List Bool) (prev : Nat) : State :=
  let x := s.link l
  if role = 0 then
    let h := hunt (s.flag F.FAB_LINKn_STATUS.LOCK0 l, false, x.hunt0) vs
    let s1 := (s.setLink l { x with hunt0 := h.2.2, prev0 := prev }).wrB F.FAB_LINKn_STATUS.LOCK0 l h.1
    if h.2.1 then s1.lockLost l else s1
  else
    let h := hunt (s.flag F.FAB_LINKn_STATUS.LOCK1 l, false, x.hunt1) vs
    let s1 := (s.setLink l { x with hunt1 := h.2.2, prev1 := prev }).wrB F.FAB_LINKn_STATUS.LOCK1 l h.1
    if h.2.1 then s1.lockLost l else s1

/-- The lane macro reports loss of signal (R371): block lock is lost at once. -/
def State.laneLos (s : State) (l role : Nat) : State :=
  let x := s.link l
  if role = 0 then ((s.setLink l { x with hunt0 := [] }).wrB F.FAB_LINKn_STATUS.LOCK0 l false).lockLost l
  else ((s.setLink l { x with hunt1 := [] }).wrB F.FAB_LINKn_STATUS.LOCK1 l false).lockLost l

/-- BLOCK_LOCK_CHANGE (R371): blocks received on a lane outside a codeword in lock, and whether its macro reports loss of
signal after them. -/
def execBlockLockChange (lane : Fin 16) (blocks : List LaneBlock) (los : Bool) (s : State) : Res :=
  .next (let l := lane.val / 2
  let role := lane.val % 2
  if !s.fabOn ∨ s.lkState l = lkDOWN then s
  else
    let x := s.link l
    let s1 := s.laneHunt l role (blocks.map (blkValid false)) (lastPayload (if role = 0 then x.prev0 else x.prev1) blocks)
    if los then s1.laneLos l role else s1)

/-- The blocks of a codeword restored by the lanes' descramblers (R368). -/
def State.wordContent (s : State) (l : Nat) (bs : List LaneBlock) : List LaneBlock :=
  descrambleWord ((s.link l).prev0, (s.link l).prev1) bs

/-- Both lanes hunt the headers of a codeword's blocks (R371). -/
def State.hearWord (s : State) (l : Nat) (typed : Bool) (bs : List LaneBlock) : State :=
  let x := s.link l
  let vs := wordValid typed (s.wordContent l bs)
  (s.laneHunt l 0 (laneBlocks 0 vs) (lastPayload x.prev0 (laneBlocks 0 bs))).laneHunt l 1 (laneBlocks 1 vs) (lastPayload x.prev1 (laneBlocks 1 bs))

/-- Codewords heard in order, and whether each began with START blocks that agree (R371). -/
def State.hearWords (s : State) (l : Nat) : List (List LaneBlock) → State × Bool
  | [] => (s, true)
  | w :: r =>
    let bs := eighty w
    let p := State.hearWords (s.hearWord l false bs) l r
    (p.1, (startsAgree (s.wordContent l bs)).isSome && p.2)

/-- Send this device's hello on a link (R374). -/
def State.sendHello (s : State) (l : Nat) : State :=
  let s1 := s.setLink l { s.link l with helloAt := s.tb.ctc }
  s1.linkSend l (.hello ⟨Config.serial, s.fabAddr, l, (s.link l).serial⟩)

/-- Codeword lock is gained (R374, R376): 64 credits a class, and a hello goes. -/
def State.gainLock (s : State) (l skew : Nat) : State :=
  let s1 := (s.linkState l lkALIGNED).wr F.FAB_LINKn_STATUS.SKEW l skew
  (s1.setLink l { s1.link l with credits := [64, 64, 64, 64] }).sendHello l

/-- CODEWORD_LOCK (R371): four consecutive codewords on a link in LOCKING, deskewed. It gains codeword lock where both lanes
are block-locked, their START blocks agree in all four, and the skew is at most 32 blocks. -/
def execCodewordLock (link : LinkId) (skew : Nat) (words : List (List LaneBlock)) (s : State) : Res :=
  .next (let l : Nat := link
  if s.fabOn ∧ s.lkState l = lkLOCKING then
    let p := s.hearWords l words
    if p.2 ∧ words.length = 4 ∧ p.1.flag F.FAB_LINKn_STATUS.LOCK0 l ∧ p.1.flag F.FAB_LINKn_STATUS.LOCK1 l ∧ skew ≤ 32 then
      (p.1.gainLock l skew).sendCodeword l
    else p.1.sendCodeword l
  else s)

/-- A codeword that cannot be corrected (R372). -/
def State.codewordBad (s : State) (l : Nat) : State :=
  let s1 := (s.incSat F.FAB_LINKn_FEC_UNCORR.COUNT l 1)
  let ues := ((s.link l).ues.filter (fun c => decide (s.since c < usCtc 1000))) ++ [s.tb.ctc]
  let s2 := s1.setLink l { s1.link l with ues := ues }
  if ues.length ≥ max 1 (s.rd F.FAB_TIMING.UE_LIMIT 0) then (s2.fabEvent F.FAB_EVENT.UE_LIMIT).lockLost l else s2

/-- A codeword decoded (R372, R373, R376): the symbols corrected are counted, its cells wait for the cell layer, the credits
it returns let waiting cells go. -/
def State.codewordGood (s : State) (l corrected : Nat) (bs : List LaneBlock) : State :=
  let s1 := s.incSat F.FAB_LINKn_FEC_CORR.COUNT l corrected
  let x := s1.link l
  let got := payloadRead none (bs.drop 2)
  let cr := (List.range 4).map (fun k => x.credits.getD k 0 + ((got.2.filter (fun c => c.1 == k)).map (fun c => c.2)).sum)
  State.linkPump x.txq.length (s1.setLink l { x with credits := cr, rx := x.rx ++ got.1 }) l

/-- What the receiver makes of a codeword in lock: one that cannot be corrected loses its payload, and with it every cell
that has a block in it, since no cell crosses a codeword (R370, R372). -/
def State.codewordIn (s : State) (l : Nat) (d : List LaneBlock) : State :=
  match codewordRead d with
  | none => s.codewordBad l
  | some (n, w) => s.codewordGood l n w

/-- CODEWORD_RECEIVED (R369 to R373): 80 blocks in block order on a link in codeword lock. In the same codeword period the
link's own transmitter sends one. -/
def execCodewordReceived (link : LinkId) (blocks : List LaneBlock) (s : State) : Res :=
  .next (let l : Nat := link
  if !s.fabOn ∨ s.lkState l < lkALIGNED then s
  else
    let bs := eighty blocks
    let d := s.wordContent l bs
    let s1 := s.hearWord l true bs
    (if s1.lkState l < lkALIGNED then s1 else s1.codewordIn l d).sendCodeword l)

/-- HELLO_SEND (R374): a hello interval after the last one, on a link in codeword lock. -/
def execHelloSend (link : LinkId) (s : State) : Res :=
  .next (if s.fabOn ∧ s.lkState link ≥ lkALIGNED ∧ s.since (s.link link).helloAt ≥ s.helloTicks then s.sendHello link else s)

/-- The first waiting cell of a class leaves the receive buffer. -/
def dropCell (k : Nat) : List (List Byte) → List (List Byte)
  | [] => []
  | c :: r => if bits (leAt c 0 4) 16 2 = k then r else c :: dropCell k r

/-- The cell layer takes a cell of class k from a link; its place is free again and its credit is owed (R376). -/
def State.cellSeen (s : State) (l k : Nat) : State :=
  let s1 := (s.incWrap F.FAB_LINKn_CELLS_RX.COUNT l 1).blockEvent 102 0x02 1
  let x := s1.link l
  s1.setLink l { x with rx := dropCell k x.rx, owed := (List.range 4).map (fun j => x.owed.getD j 0 + b2n (decide (j = k))) }

/-- A neighbour's hello (R374). -/
def State.helloIn (s : State) (l : Nat) (h : Hello) : State :=
  if h.serial = Config.serial then
    let s1 := if s.adjacent l then s.adjRemove l lkALIGNED else s
    (s1.wr F.FAB_LINKn_STATUS.LOOP l 1).fabEvent F.FAB_EVENT.LOOP
  else
    let s0 := s.wr F.FAB_LINKn_STATUS.LOOP l 0
    if s0.adjacent l then
      if (s0.link l).serial = some h.serial then
        let moved := decide (s0.rd F.FAB_LINKn_STATUS.NEIGHBOUR l ≠ h.addr ∨ s0.rd F.FAB_LINKn_STATUS.NLINK l ≠ h.link)
        let s1 := s0.setLink l { s0.link l with lastHello := s.tb.ctc }
        if moved then ((s1.wr F.FAB_LINKn_STATUS.NEIGHBOUR l h.addr).wr F.FAB_LINKn_STATUS.NLINK l h.link).adjChanged else s1
      else (s0.adjRemove l lkALIGNED).adjForm l h
    else
      let s1 := s0.setLink l { s0.link l with serial := some h.serial, lastHello := s.tb.ctc }
      if h.heard = some Config.serial then s1.adjForm l h else s1

/-- HELLO_RECEIVED (R374). -/
def execHelloReceived (link : LinkId) (h : Hello) (s : State) : Res :=
  .next (if s.fabOn ∧ s.lkState link ≥ lkALIGNED then (s.cellSeen link 0).helloIn link h else s)

/-- HELLO_DEAD (R374): no hello for HELLO_DEAD intervals. -/
def execHelloDead (link : LinkId) (s : State) : Res :=
  .next (if s.fabOn ∧ s.adjacent link ∧
      s.since (s.link link).lastHello ≥ max 1 (s.rd F.FAB_TIMING.HELLO_DEAD 0) * s.helloTicks then s.adjRemove link lkALIGNED
  else s)

/-! ### Cells (R375 to R379) -/

/-- Fields of a cell's header. -/
def cellHdr (c : List Byte) : Nat := leAt c 0 16
def cellDst (c : List Byte) : Nat := bits (cellHdr c) 0 7
def cellSrc (c : List Byte) : Nat := bits (cellHdr c) 8 7
def cellLocal (c : List Byte) : Bool := bit (cellHdr c) 15
def cellClass (c : List Byte) : Nat := bits (cellHdr c) 16 2
def cellType (c : List Byte) : Nat := bits (cellHdr c) 18 4
def cellHops (c : List Byte) : Nat := bits (cellHdr c) 22 6
def cellLen (c : List Byte) : Nat := bits (cellHdr c) 32 8

/-- The first check of R377: CRC, LEN, reserved bits and type. -/
def fabCellBad (c : List Byte) : Bool :=
  let h := cellHdr c
  c.length != 256 || crc32 (c.take 252) != leAt c 252 4 || cellLen c == 0 || decide (cellLen c > 236) ||
  bit h 7 || bits h 28 4 != 0 || bits h 42 6 != 0 || bits h 96 32 != 0 || decide (cellType c ≥ 10)

/-- The cell with one hop fewer, its CRC computed afresh. -/
def cellHop (c : List Byte) : List Byte :=
  let b := leBytes 16 (cellHdr c - 2 ^ 22) ++ (c.drop 16).take 236
  b ++ leBytes 4 (crc32 b)

/-- A cell is dropped and counted. -/
def State.cellDrop (s : State) (f : Fld) : State := (s.incSat f 0 1).blockEvent 102 0x04 1

/-- A cell is passed on towards its destination. -/
def State.cellForward (s : State) (c : List Byte) : State :=
  let n := cellHop c
  (if (s.hopFor (cellDst c) (cellSrc c) (cellClass c)).isSome then s.blockEvent 102 0x03 1 else s).sendTo (cellDst c) (cellSrc c) (.raw n)

/-- A received cell is checked, and delivered, forwarded or dropped (R377, R379); what a delivered cell does is its own
row. CLAIM and ROUTE cells are passed on by theirs. -/
def State.cellIn (s : State) (l : Nat) (c : List Byte) : State :=
  if fabCellBad c then s.cellDrop F.FAB_DROP_CRC.COUNT
  else if cellLocal c then s
  else if cellDst c = s.fabAddr ∧ cellDst c < 64 then s
  else if 64 ≤ cellDst c ∧ cellDst c ≤ 126 then s.cellDrop F.FAB_DROP_ROUTE.COUNT
  else if cellDst c = 127 then
    if cellType c = 1 ∨ cellType c = 2 ∨ !(s.nextHops (cellSrc c)).contains l then s
    else (s.flood (some l) (.raw c)).blockEvent 102 0x03 (s.floodLinks (some l)).length
  else if cellHops c = 0 then s.cellDrop F.FAB_DROP_HOPS.COUNT
  else s.cellForward c

/-- CELL_RECEIVED (R377). -/
def execCellReceived (link : LinkId) (cell : List Byte) (s : State) : Res :=
  .next (if s.fabOn ∧ s.lkState link ≥ lkALIGNED then (s.cellSeen link (cellClass cell)).cellIn link cell else s)

/-- Whether a cell is a flooded one of a type that passes its checks. -/
def floodedCell (c : List Byte) (ty : Nat) : Bool := !fabCellBad c && cellDst c == 127 && !cellLocal c && cellType c == ty

/-- A flooded cell goes on to the other ADJACENT links (R379). -/
def State.floodOn (s : State) (l : Nat) (c : List Byte) : State :=
  (s.flood (some l) (.raw c)).blockEvent 102 0x03 (s.floodLinks (some l)).length

/-! ### Addresses (R380) -/

/-- A CLAIM's payload: serial, address, SEQ. -/
def State.claimIn (s : State) (l : Nat) (c : List Byte) : State :=
  let serial := leAt c 16 8
  let addr := leAt c 24 1
  if serial = Config.serial then s
  else
    match s.floodNew serial 1 (leAt c 25 4) with
    | none => s
    | some (s1 : State) =>
      let s2 := s1.putFab { s1.fab with claims := s1.fab.claims.filter (fun (x : ClaimRec) => decide (x.serial ≠ serial)) ++ [ClaimRec.mk serial addr s.tb.ctc] }
      (s2.floodOn l c).rivalClaim serial addr

/-- CLAIM_RECEIVED (R379, R380). -/
def execClaimReceived (link : LinkId) (cell : List Byte) (s : State) : Res :=
  .next (if !s.fabOn ∨ s.lkState link < lkALIGNED then s
  else
    let s1 := s.cellSeen link (cellClass cell)
    if floodedCell cell 1 then s1.claimIn link cell else s1.cellIn link cell)

/-- CLAIM_REPEAT (R380): every 500 µs while CLAIMING. -/
def execClaimRepeat (s : State) : Res :=
  .next (if s.fabOn ∧ s.fdState = fdCLAIMING ∧ s.since s.fab.lastClaim ≥ usCtc 500 then
    match s.fab.cand with
    | some a => s.floodClaim a
    | none => s
  else s)

/-- The candidate is held: ADDRESSED, a ROUTE flooded (R380). -/
def State.holdAddr (s : State) (a : Nat) : State :=
  let s1 := ((s.wr F.FAB_STATE.ADDR 0 a).wr F.FAB_STATE.DSTATE 0 fdADDRESSED).fabEvent F.FAB_EVENT.ADDR_GAINED
  s1.adjChanged

/-- CLAIM_TIMER (R380): 2 ms of CLAIMING. -/
def execClaimTimer (s : State) : Res :=
  .next (if s.fabOn ∧ s.fdState = fdCLAIMING ∧ s.since s.fab.since ≥ usCtc 2000 then
    match s.fab.cand with
    | some a => s.holdAddr a
    | none => s
  else s)

/-- UNADDRESSED_TIMER (R380): 10 ms of UNADDRESSED. -/
def execUnaddressedTimer (s : State) : Res :=
  .next (if s.fabOn ∧ s.fdState = fdUNADDRESSED ∧ s.since s.fab.since ≥ usCtc 10000 then s.claim else s)

/-- FAB_RECLAIM (R380): a write of FAB_CTL with RECLAIM. -/
def execFabReclaim (port : PortId) (_v : BitVec 32) (s : State) : Res :=
  .next (s.winWrite port 0x60008 (s.on 55) (fun s => if s.fdState = fdADDRESSED then s.releaseAddr false else s))

/-! ### Routes (R381, R382) -/

/-- The adjacencies of a ROUTE's payload: link and neighbour's address. -/
def routeAdj : Nat → List Byte → List (Nat × Nat)
  | 0, _ => []
  | n + 1, p => (byteAt p 0, byteAt p 1) :: routeAdj n (p.drop 2)

/-- A ROUTE's payload: serial, address, flags, SEQ, adjacencies. -/
def State.routeIn (s : State) (l : Nat) (c : List Byte) : State :=
  let serial := leAt c 16 8
  let addr := leAt c 24 1
  if serial = Config.serial then s
  else
    match s.floodNew serial 2 (leAt c 26 4) with
    | none => s
    | some (s1 : State) =>
      let r : RouteRec := ⟨serial, addr, bit (leAt c 25 1) 0, leAt c 26 4, routeAdj ((cellLen c - 14) / 2) (c.drop 30), s.tb.ctc⟩
      let s2 := s1.putFab { s1.fab with db := s1.fab.db.filter (fun (x : RouteRec) => decide (x.serial ≠ serial)) ++ [r], dirty := true }
      (s2.floodOn l c).rivalClaim serial addr

/-- ROUTE_RECEIVED (R379, R380, R381). -/
def execRouteReceived (link : LinkId) (cell : List Byte) (s : State) : Res :=
  .next (if !s.fabOn ∨ s.lkState link < lkALIGNED then s
  else
    let s1 := s.cellSeen link (cellClass cell)
    if floodedCell cell 2 then s1.routeIn link cell else s1.cellIn link cell)

/-- ROUTE_PERIODIC (R381): every 10 ms. -/
def execRoutePeriodic (s : State) : Res :=
  .next (if s.fabOn ∧ s.fdState = fdADDRESSED ∧ s.since s.fab.lastRoute ≥ usCtc 10000 then s.floodRouteOf s.ownAdj else s)

/-- ROUTE_AGE_OUT (R381): ROUTEs 40 ms old leave the database. -/
def execRouteAgeOut (s : State) : Res :=
  .next (let db := s.fab.db.filter (fun r => decide (s.since r.at_ < usCtc 40000))
  if !s.fabOn ∨ db.length = s.fab.db.length then s
  else s.putFab { s.fab with db := db, dirty := true })

/-- ROUTE_RECOMPUTE (R382, R383). -/
def execRouteRecompute (s : State) : Res := .next (if s.fabOn ∧ s.fab.dirty then s.recompute else s)

/-- A write of FAB_LINKn_CFG (R374). -/
def State.writeLinkEn (s : State) (l v : Nat) : State :=
  let s1 := s.wr F.FAB_LINKn_CFG.EN l v
  if bit v 0 then s1.linkUp l else s1.linkDown l

/-- FAB_LINK_EN_WRITE (R374). -/
def execFabLinkEnWrite (port : PortId) (link : LinkId) (v : BitVec 32) (s : State) : Res :=
  .next (s.winWrite port (0x60100 + link * 0x20) (s.on 55) (fun s => s.writeLinkEn link v.toNat))

/-! ### Leases (R384) -/

/-- A CTC reading has passed. -/
def State.past (s : State) (c : Nat) : Bool := decide (s.since c < 2 ^ 95)

/-- What the keeper decides on a request: a holder's renewal is granted; another's once the lease has ended at least 1 ms
ago; in the first 5 ms of office only a requester that carries an unexpired lease (R384). -/
def State.leaseDecide (s : State) (m : LeaseReq) : LeaseAns × State :=
  let l := smFind s.fab.leases (m.pair, 0)
  let free : Bool := match l with
    | none => true
    | some x => x.holder == m.from_ || (s.past x.ends && decide (s.since x.ends ≥ usCtc 1000))
  let young := s.fab.keeperSince.any (fun k => decide (s.since k < usCtc 5000))
  if free ∧ (!young ∨ m.holds) then
    (⟨m.pair, true, 0⟩, (s.putFab { s.fab with leases := smPut s.fab.leases (m.pair, 0) ⟨m.from_, (s.tb.ctc + usCtc 4000) % 2 ^ 96⟩ }))
  else
    let left := match l with
      | some x => if s.past x.ends then 0 else (x.ends + 2 ^ 96 - s.tb.ctc) % 2 ^ 96 / usCtc 1
      | none => 0
    (⟨m.pair, false, left⟩, s)

/-- LEASE_REQUEST_RECEIVED (R384): the keeper answers; a device that is not keeper does not. -/
def execLeaseRequestReceived (m : LeaseReq) (s : State) : Res :=
  .next (if s.fabOn ∧ s.fab.keeperSince.isSome then
    let (a, s1) := s.leaseDecide m
    s1.sendTo m.from_ s.fabAddr (.leaseAns m.from_ a)
  else s)

/-! ### Tide between devices (R385, R386) -/

/-- Addresses asked of this device, by link, at most 4 distinct (R386). -/
def State.askedAddrs (s : State) : List Nat :=
  (((List.range 8).filterMap (fun l => if s.adjacent l then (s.link l).asked else none)).eraseDups).take 4

/-- Addresses this device wants to know through a link: its own peer and those asked of it whose first next hop the link
is, but for the neighbour itself. -/
def State.wantsVia (s : State) (l : Nat) : List Nat :=
  ((s.rd F.TIDE_CTL.PEER 0 :: s.askedAddrs).eraseDups).filter (fun a =>
    decide (a ≠ s.fabAddr) && decide ((s.nextHops a).head? = some l) && decide (s.rd F.FAB_LINKn_STATUS.NEIGHBOUR l ≠ a))

/-- The answer to a query (R386): an address, the offset to it and its hops. -/
def State.tideAnswer (s : State) (a : Nat) : Option (Nat × Int × Nat) :=
  if a = s.fabAddr then some (a, 0, 0)
  else if !s.askedAddrs.contains a then none
  else (s.tideOffset a).map (fun o => (a, o, s.rd F.FAB_ROUTEd.HOPS a))

/-- TIDE_CELL_SEND (R385): on an ADJACENT link, 1 ms after the last one; the query addresses take turns. -/
def execTideCellSend (link : LinkId) (s : State) : Res :=
  .next (let l : Nat := link
  if s.fabOn ∧ s.adjacent l ∧ !(s.link l).tideAt.any (fun c => decide (s.since c < usCtc 1000)) then
    let w := s.wantsVia l
    let q := w.getD ((s.link l).exch % max 1 w.length) 0x7F
    (s.setLink l { s.link l with tideAt := some s.tb.ctc }).linkSend l
      (.tide ⟨s.tide, (s.link l).lastRx, q, (s.link l).asked.bind (fun a => s.tideAnswer a)⟩)
  else s)

/-- A TIDE cell arrives (R385): offset and delay of the link, valid after 4 exchanges; the query and the answer are kept. -/
def State.tideIn (s : State) (l : Nat) (c : TideCell) : State :=
  let t4 := s.tide
  let x := s.link l
  let exch := if c.last.isSome then x.exch + 1 else x.exch
  let answers := match c.answer with
    | some (a, o, h) => smPut x.answers (a, 0) (o, h)
    | none => []
  let s1 := s.setLink l { x with exch := exch, lastRx := some (t4, c.dep), asked := if c.query < 64 then some c.query else none, answers := answers }
  let s2 := match c.last with
    | some (t2, t1) =>
      if exch ≥ 4 then
        (s1.wr F.FAB_LINKn_TIDE_OFS.THETA l (ofSigned 32 (satSigned 32 (((t2 - t1) - (t4 - c.dep)) / 2)))).wr
          F.FAB_LINKn_TIDE_DLY.DELAY l (ofSigned 32 (satSigned 32 (((t4 - t1) - (c.dep - t2)) / 2)))
      else s1
    | none => s1
  s2.peerTide

/-- TIDE_CELL_RECEIVED (R385, R386). -/
def execTideCellReceived (link : LinkId) (c : TideCell) (s : State) : Res :=
  .next (if s.fabOn ∧ s.adjacent link then (s.cellSeen link 0).tideIn link c else s)

/-! ### Remote access (R387) -/

/-- Bytes of the counter shadows. -/
def State.shadowBytes (s : State) (off len : Nat) : List Byte :=
  (List.range len).map (fun i => BitVec.ofNat 8 (bits (s.shadowRead ((off + i) / 4 * 4) 4) (8 * ((off + i) % 4)) 8))

/-- Whether a remote access is served: its enable, its space, and the range of the scratch areas. -/
def State.remoteServed (s : State) (m : RemoteReq) : Bool :=
  if m.write then
    s.flag F.FAB_CFG.REMOTE_WR_EN 0 && m.space == 3 && decide (m.off < 2 ^ 35 ∧ m.off % 2 ^ 34 + m.len ≤ 15 * 2 ^ 30)
  else if m.space = 3 then s.flag F.FAB_CFG.REMOTE_RD_EN 0 && decide (m.off < 2 ^ 35 ∧ m.off % 2 ^ 34 + m.len ≤ 15 * 2 ^ 30)
  else s.flag F.FAB_CFG.REMOTE_RD_EN 0 && m.space == 2 && s.on 54

/-- REMOTE_ACCESS_RECEIVED (R387). -/
def execRemoteAccessReceived (m : RemoteReq) (s : State) : Res :=
  .next (if !s.fabOn then s
  else if !s.remoteServed m then s.sendTo m.from_ s.fabAddr (.remoteRsp m.from_ ⟨m.ch, m.tag, m.write, true, []⟩)
  else if m.write then
    ({ s with scratch := memPutAll s.scratch (scratchKey m.off) (m.data.take m.len) }).sendTo m.from_ s.fabAddr
      (.remoteRsp m.from_ ⟨m.ch, m.tag, true, false, []⟩)
  else
    s.sendTo m.from_ s.fabAddr (.remoteRsp m.from_ ⟨m.ch, m.tag, false, false,
      if m.space = 2 then s.shadowBytes m.off m.len else memBytes s.scratch (scratchKey m.off) m.len⟩))

/-- REMOTE_RSP_RECEIVED (R387). -/
def execRemoteRspReceived (m : RemoteRsp) (s : State) : Res :=
  .next (if s.fabOn ∧ s.on 53 ∧ m.ch < 64 then s.remoteAnswer m else s)

/-! ### Status (R389) -/

/-- Serial of the keeper, 0 for none. -/
def State.keeperSerial (s : State) : Nat :=
  let k := s.rd F.FAB_STATE.KEEPER 0
  if k ≥ 64 then 0
  else if k = s.fabAddr then Config.serial
  else ((s.fab.db.find? (fun r => r.addr == k)).map (fun r => r.serial)).getD 0

/-- The payload of FAB_STATUS. -/
def State.fabStatusPayload (s : State) : List Byte :=
  if !s.on 55 then zeros 56
  else
    let k := s.rd F.FAB_STATE.KEEPER 0
    let flags := s.rd F.FAB_STATE.QUORUM 0 + b2n (decide (k = s.fabAddr ∧ k < 64)) * 2 + s.rd F.FAB_CFG.REMOTE_RD_EN 0 * 4 +
      s.rd F.FAB_CFG.REMOTE_WR_EN 0 * 8
    leBytes 1 s.fabAddr ++ leBytes 1 s.fdState ++ leBytes 1 k ++ leBytes 1 flags ++ leBytes 1 (s.rd F.FAB_STATE.MEMBERS_N 0) ++ zeros 3 ++
    leBytes 8 (s.rd F.FAB_MEMBERS.MEMBERS 0) ++
    (List.range 8).flatMap (fun l => leBytes 1 (s.lkState l + s.rd F.FAB_LINKn_STATUS.LOOP l * 4) ++ leBytes 1 (s.rd F.FAB_LINKn_STATUS.NEIGHBOUR l)) ++
    leBytes 4 (s.rd F.FAB_ROUTE_GEN.COUNT 0) ++ leBytes 8 s.keeperSerial ++ zeros 12

/-- FAB_STATUS (R389). -/
def execFabStatus (src : Src) (s : State) : Res :=
  .next (s.calvan src 0x0710 false true (atOnce (fun s _ => (s, okWith s.fabStatusPayload))))

end Sys2Proof.Machine
end

