-- ==== Sys2Proof/Machine/Protection.lean ====
section
/-! DEFINITION. Protection (13_protection.md): pairing and its handshake (R393 to R395), what a partner's messages do
(R397 to R413), leases (R409), planned and forced switches (R413) and PROT_STATUS (R417). -/

namespace Sys2Proof.Machine

/-! ### Pairing (R393, R394, R395, R414) -/

/-- The response payload of PROT_PAIR (R394). -/
def State.pairPayload (s : State) (t : Nat) : List Byte :=
  leBytes 1 t ++ leBytes 1 (s.ps t) ++ leBytes 1 (s.tstate t) ++ leBytes 1 (s.rd F.PROT_Tt_STATE.PARTNER t) ++
  leBytes 2 (s.rd F.PROT_Tt_STATE.PAIR_ID t) ++ zeros 2 ++ leBytes 4 (s.rd F.PROT_Tt_DELTA.DELTA t)

/-- The defined burst profiles of a tree as a HANDSHAKE names them (R393). -/
def State.profsOf (s : State) (t : Nat) : List ProfContents :=
  (s.bprofs.filter (fun e => e.1.1 == t && e.2.now.defined)).map (fun e =>
    ⟨e.1.2, e.2.now.fec, e.2.now.preLen, e.2.now.preRepeat, e.2.now.prePattern, e.2.now.delimLen, e.2.now.delimPattern⟩)

/-- The HANDSHAKE this device sends for a tree (R393). -/
def State.announcement (s : State) (t pairId partner role key : Nat) : Handshake :=
  { pairId := pairId, from_ := s.fabAddr, to_ := partner, role := role, kcv := Config.keyCheck key,
    profile := s.rd F.TRE_STATE.PROFILE t, usRates := (s.tree t).usRates, maxFrame := s.rd F.TRE_CFG.MAX_FRAME t,
    ploamMax := s.rd F.TRE_CFG.PLOAM_MAX t, ponId := s.rd F.TRE_PON_ID.PON_ID t, teqd := s.rd F.TRE_US_TEQD.NS t,
    profs := s.profsOf t }

/-- A PROT_PAIR's own announcement. -/
def State.ownAnnouncement (s : State) (t : Nat) (h : ProtHs) : Handshake := s.announcement t h.pairId h.partner h.role h.key

/-- Whether a tree is in the pair a request names. -/
def State.samePair (s : State) (t pairId partner : Nat) : Bool :=
  decide (s.ps t ≠ psNONE) && s.rd F.PROT_Tt_STATE.PAIR_ID t == pairId && s.rd F.PROT_Tt_STATE.PARTNER t == partner

/-- Check 2 of R393: the tree's state suits its role. -/
def State.pairState (s : State) (t role pairId partner : Nat) : Bool :=
  if role = 1 then s.tstate t == trACTIVE
  else (s.tstate t == trDISABLED && s.flag F.TRE_STATE.CONFIGURED t) ||
    (s.tstate t == trSTANDBY && s.ps t == psYIELDED && s.samePair t pairId partner)

/-- Checks 1 to 5 of R393. -/
def State.pairFault (s : State) (p : List Byte) : Option Resp :=
  let t := byteAt p 0
  let role := byteAt p 1
  let id := leAt p 2 2
  let partner := byteAt p 4
  let base := leAt p 8 4
  let est := toSigned 32 (leAt p 12 4)
  firstFault [
    (decide (id = 0), badArg 2), (decide (partner > 63), badArg 4), (decide (byteAt p 5 > 1), badArg 5), resv p 6 2,
    (if role = 2 then decide (base ≥ 2 ^ 17 ∨ base % 1024 ≠ 0) else decide (base ≠ 0xFFFFFFFF), badArg 8),
    (if role = 2 then decide (est.natAbs > 50000) else decide (est ≠ 0), badArg 12), resv p 32 24,
    (!s.pairState t role id partner, conflict (0x80 + s.tstate t)),
    (decide (s.ps t ≠ psNONE) && !s.samePair t id partner, conflict 0x05),
    (!s.on 55 || !s.member partner, conflict 0x01),
    (decide (role = 2) && (List.range 1024).any (fun n => (s.slot (base + n)).bound), conflict 0x06)]

/-- PROT_PAIR (R393): dissolve, or begin the handshake. -/
def State.protPair : Body := fun s src p =>
  let t := byteAt p 0
  let role := byteAt p 1
  match firstFault [(decide (t > 95), badArg 0), (decide (role > 2), badArg 1)] with
  | some r => (s, some r)
  | none =>
    if role = 0 then
      match firstFault [(decide (byteAt p 5 > 1), badArg 5), resv p 6 2, resv p 32 24] with
      | some r => (s, some r)
      | none =>
      if s.ps t = psNONE then (s, some (conflict (s.tstate t)))
      else
        let s1 := (s.protMsg t 6 (s.frame t) (leBytes 1 1)).dissolve t 0
        (s1, some (okWith (s1.pairPayload t)))
    else
      match s.pairFault p with
      | some r => (s, some r)
      | none =>
        if (s.prot t).hs.isSome then (s, some (refuse stBUSY 0))
        else
          let h : ProtHs := { src := some src, role := role, pairId := leAt p 2 2, partner := byteAt p 4,
                              tableSync := bit (byteAt p 5) 0, slotBase := leAt p 8 4, deltaEst := toSigned 32 (leAt p 12 4) * 256,
                              key := beAt p 16 16, at_ := s.tb.ctc, theirs := none }
          let s1 := s.setProt t { s.prot t with hs := some h }
          (s1.sendTo h.partner s.fabAddr (.handshake h.partner (s1.ownAnnouncement t h)), none)

/-- PROT_PAIR (R393). -/
def execProtPair (src : Src) (s : State) : Res := .next (s.calvanKey src 0x0701 false false State.protPair)

/-- HANDSHAKE_RECEIVED (R393, R414): the partner's announcement is kept and the own one sent again for a partner that
asked later; a tree in ALONE of the same pair answers a standby itself. -/
def execHandshakeReceived (t : TreeId) (h : Handshake) (s : State) : Res :=
  .next (if !s.on 54 ∨ !s.on 55 then s
  else
    match (s.prot t).hs with
    | some x =>
      if x.theirs.isSome then s
      else
        let s1 := s.setProt t { s.prot t with hs := some { x with theirs := some h } }
        s1.sendTo x.partner s.fabAddr (.handshake x.partner (s1.ownAnnouncement t x))
    | none =>
      let partner := s.rd F.PROT_Tt_STATE.PARTNER t
      if s.ps t = psALONE ∧ h.role = 2 ∧ h.from_ = partner ∧ h.pairId = s.rd F.PROT_Tt_STATE.PAIR_ID t then
        s.sendTo partner s.fabAddr (.handshake partner (s.announcement t h.pairId partner 1 (s.prot t).key))
      else s)

/-- How two announcements compare (R393 check 6): none where they agree. -/
def State.handshakeFault (s : State) (t : Nat) (x : ProtHs) (h : Handshake) : Option Resp :=
  let own := s.ownAnnouncement t x
  let offset := s.tideOffset x.partner
  firstFault [
    (decide (h.pairId ≠ own.pairId ∨ h.from_ ≠ own.to_ ∨ h.to_ ≠ own.from_ ∨ h.kcv ≠ own.kcv ∨ h.role + own.role ≠ 3), conflict 0x04),
    (decide (h.profile ≠ own.profile ∨ h.usRates ≠ own.usRates ∨ h.maxFrame ≠ own.maxFrame ∨ h.ploamMax ≠ own.ploamMax ∨
      h.ponId ≠ own.ponId ∨ h.teqd ≠ own.teqd ∨ h.profs ≠ own.profs), conflict 0x03),
    (!offset.any (fun d => decide (d.natAbs ≤ 8 * 256)), conflict 0x02)]

/-- The slots of a standby are bound: SLOT_BASE + n to terminal n, the last as the tree's broadcast slot (R393). -/
def State.bindStandby (s : State) (t base : Nat) : State :=
  let s1 := (List.range 1024).foldl
    (fun s n => s.setSlot (base + n) { s.slot (base + n) with bound := true, kind := if n = 1023 then 1 else 0, tree := t, term := if n = 1023 then 0 else n }) s
  (s1.wr F.TRE_BCAST_SLOT.VALID t 1).wr F.TRE_BCAST_SLOT.SLOT t (base + 1023)

/-- A pair forms (R393): the sender's tree stays ACTIVE, the standby's passes to PROT_STANDBY. -/
def State.formPair (s : State) (t : Nat) (x : ProtHs) : State :=
  let s1 := (s.wr F.PROT_Tt_STATE.PARTNER t x.partner).wr F.PROT_Tt_STATE.PAIR_ID t x.pairId
  if x.role = 1 then
    let s2 := s1.setProt t { ProtTree.reset with role := 1, key := x.key, tableSync := x.tableSync, pState := psSYNCING,
                                                 statusAt := some s.tide }
    let s3 := if (s2.tree t).leaving = some trDORMANT then s2.setTree t { s2.tree t with leaving := none, emptyRun := 0 } else s2
    s3.protSet t psSENDING 1
  else
    let s2 := s1.setProt t { ProtTree.reset with role := 2, key := x.key, tableSync := x.tableSync, slotBase := some x.slotBase,
                                                 deltaEst := x.deltaEst }
    ((((s2.bindStandby t x.slotBase).wr F.PROT_Tt_DELTA.DELTA t 0).treeState t trSTANDBY).takeImage t).enterSyncing t 1

/-- A response to PROT_PAIR given after the handshake: the key bytes of the request are zeroed (R393). -/
def State.answerKey (s : State) (src : Src) (r : Resp) : State :=
  let addr := match (s.ring 0).tx with
    | x :: _ => leAt (s.hostRead (s.entryAddr 0 x.idx) 32) 0 8
    | [] => 0
  (s.answerLater src r).scrubKey src addr

/-- PROT_HANDSHAKE_DONE (R393): agreement, mismatch, or 100 ms without an announcement. -/
def execProtHandshakeDone (t : TreeId) (timedOut : Bool) (s : State) : Res :=
  .next (match (s.prot t).hs with
  | none => s
  | some x =>
    if x.theirs.isNone ∧ !(timedOut && decide (s.since x.at_ ≥ usCtc 100000)) then s
    else
      let s1 := s.setProt t { s.prot t with hs := none }
      let bad : Option Resp := match x.theirs with
        | none => some (refuse stTIMEOUT 0)
        | some h => if !s.pairState t x.role x.pairId x.partner then some (conflict (0x80 + s.tstate t)) else s.handshakeFault t x h
      let s2 := if bad.isNone then s1.formPair t x else s1
      match x.src with
      | some src => s2.answerKey src (bad.getD (okWith (s2.pairPayload t)))
      | none => s2)

/-- LEAVE_RECEIVED (R395): the pair is dissolved here too, or a transmitting side keeps it in ALONE. -/
def execLeaveReceived (t : TreeId) (_f : BitVec 64) (dissolve : Bool) (s : State) : Res :=
  .next (if s.ps t = psNONE then s
  else if dissolve then s.dissolve t 15
  else if psSends (s.ps t) ∧ s.ps t ≠ psALONE then (s.switchAnswer t (refuse stINTERNAL 0x41)).protSet t psALONE 15
  else s)

/-! ### Messages of the partner (R397 to R404, R407 to R412) -/

/-- A burst of a DIGEST (R399): StartTime, end, terminal, rate, burst profile. -/
def digestBurst (body : List Byte) (n : Nat) : Nat × Nat × Nat × Nat × Nat :=
  let w := leAt body (24 + 8 * n) 8
  (bits w 0 16, bits w 16 16, bits w 32 10, bits w 42 2, bits w 44 2)

/-- The bursts a DIGEST makes expected, at the sender's instants (R112, R401). -/
def State.digestBursts (s : State) (t : Nat) (fr : Int) (body : List Byte) : List Expected :=
  let ref := boundary t fr + (s.rd F.TRE_US_TEQD.NS t * 256 : Nat)
  (List.range (leAt body 4 2)).map (fun n =>
    let (start, stop, k, rate, prof) := digestBurst body n
    { term := k, grants := [⟨0, 0, k, start, 0, false, false, prof, rate, 0⟩], rate := rate, bprof := prof, f := fr,
      start := ref + unitTicks (s.f50 t) rate start (s.profAt t rate prof fr).psbu,
      stop := ref + unitTicks (s.f50 t) rate stop 0, pulsed := false, hunted := false })

/-- A DIGEST that counts as arrived: by its map's latch instant, and not NO_MAP (R403, R404). -/
def State.digestArrives (s : State) (t : Nat) (fr : Int) (body : List Byte) : Bool :=
  decide (s.latchFrame t < fr) && !bit (byteAt body 6) 0

/-- What the sender last reported of an upstream frame (R404): the newest report of each frame, at most 8. -/
def addReport (l : List UsCount) (u : UsCount) : List UsCount := (u :: l.filter (fun x => x.f ≠ u.f)).take 8

/-- DIGEST_RECEIVED (R399, R401, R403, R404, R412). -/
def execDigestReceived (t : TreeId) (f : BitVec 64) (body : List Byte) (s : State) : Res :=
  .next (let fr : Int := f.toNat
  if !psListens (s.ps t) ∨ s.tstate t ≠ trSTANDBY then s
  else
    let s1 := s.setProt t { s.prot t with reps := addReport (s.prot t).reps ⟨(leAt body 16 8 : Nat), leAt body 10 2, leAt body 8 2⟩ }
    if !s1.digestArrives t fr body then s1
    else
      let s2 := if s1.ps t = psCLAIMING then s1.enterSyncing t 0 else s1
      let s3 := s2.setProt t { s2.prot t with digests := (s2.prot t).digests ++ [(fr, body)] }
      if (s3.prot t).copyEnd then
        s3.setTreeU t { s3.treeU t with expected := (s3.treeU t).expected ++ s3.digestBursts t fr body }
      else s3)

/-- A STATUS body (R399). -/
structure StatusMsg where
  ps : Nat
  takeover : Bool
  lease : Bool
  fault : Bool
  switch : Bool
  cause : Nat
  delta : Int
  switchF : Nat

def statusOf (b : List Byte) : StatusMsg :=
  { ps := byteAt b 0, takeover := bit (byteAt b 2) 0, lease := bit (byteAt b 2) 1, fault := bit (byteAt b 2) 2,
    switch := bit (byteAt b 2) 3, cause := byteAt b 3, delta := toSigned 32 (leAt b 4 4), switchF := leAt b 16 8 }

/-- What a STATUS leaves on record (R399, R407): a partner that enters SYNCING is sent the whole copy again. -/
def State.noteStatus (s : State) (t : Nat) (fr : Int) (m : StatusMsg) : State :=
  let p := s.prot t
  let again := decide (m.ps = psSYNCING) && (decide (p.pState ≠ psSYNCING) || p.pF == some fr)
  (s.wr F.PROT_Tt_OBS.ACK_GAP t 0).setProt t
    { p with pState := m.ps, pLease := m.lease, pDelta := m.delta, pF := some fr, statusAt := some s.tide, heard := true,
             snap := if again then none else p.snap }

/-- Both sides transmit (R411): the side whose last STATUS carried no lease yields, of two such the higher address. A side
in TAKING counts as transmitting once it sends frames; a TAKEOVER to a SENDING side is R407's. -/
def State.dual (s : State) (t : Nat) (m : StatusMsg) : Bool :=
  psSends m.ps && psSends (s.ps t) && !(m.takeover && s.ps t == psSENDING) &&
  (decide (s.ps t ≠ psTAKING) || decide ((s.prot t).takeF ≤ s.frame t))

/-- A side's answer to finding its partner transmitting (R411). -/
def State.dualYield (s : State) (t : Nat) (m : StatusMsg) : State :=
  let s1 := s.protEvent F.PROT_EVENT.DUAL
  let mine := (s.prot t).sentLease
  if (!mine && m.lease) || (!mine && !m.lease && decide (s.fabAddr > s.rd F.PROT_Tt_STATE.PARTNER t)) then s1.yieldNext t 0 else s1

/-- A planned switch the partner announces is held and echoed; one no longer announced is dropped (R413). -/
def State.standbySwitch (s : State) (t : Nat) (m : StatusMsg) : State :=
  if m.switch then
    if (s.prot t).sw.any (fun w => decide (w.at_ = (m.switchF : Int))) then s
    else (s.setProt t { s.prot t with sw := some ⟨m.switchF, none, true, false⟩ }).sendStatus t
  else s.setProt t { s.prot t with sw := (s.prot t).sw.filter (fun w => w.forced) }

/-- A STATUS at a SENDING side (R407, R413). -/
def State.sendingStatus (s : State) (t : Nat) (m : StatusMsg) : State :=
  let planned := (s.prot t).sw.filter (fun w => !w.forced)
  if m.takeover then
    if m.cause = 10 ∧ planned.any (fun w => w.echoed) then s else s.yieldNext t 5
  else
    match planned with
    | some w => if m.switch ∧ (m.switchF : Int) = w.at_ then s.setProt t { s.prot t with sw := some { w with echoed := true } } else s
    | none => s

/-- A partner STATUS moves the protection state (R407 to R412). -/
def State.statusMoves (s : State) (t : Nat) (m : StatusMsg) : State :=
  let ps := s.ps t
  if s.dual t m then s.dualYield t m
  else if ps = psSENDING then s.sendingStatus t m
  else if ps = psALONE then if m.ps = psSYNCING then s.protSet t psSENDING 0 else s
  else if ps = psTAKING then
    if m.ps = psHELD ∨ m.ps = psYIELDED ∨ m.fault ∨ (m.ps = psSYNCING ∧ s.rd F.PROT_Tt_STATE.CAUSE t = 10) then
      s.protSet t psSENDING 0
    else s
  else if ps = psHELD then
    if psSends m.ps then s.protSet t psYIELDED (if m.takeover then 5 else 0) else s
  else if ps = psREADY then if m.fault then s.takeover t 4 else s.standbySwitch t m
  else s

/-- STATUS_RECEIVED (R404, R407 to R413). -/
def execStatusReceived (t : TreeId) (f : BitVec 64) (body : List Byte) (s : State) : Res :=
  .next (if s.ps t = psNONE then s else (s.noteStatus t f.toNat (statusOf body)).statusMoves t (statusOf body))

/-- DELTA_RECEIVED (R397, R398): a listening side applies the records; after a gap it asks for a copy. -/
def execDeltaReceived (t : TreeId) (f : BitVec 64) (body : List Byte) (gap : Bool) (s : State) : Res :=
  .next (if !psListens (s.ps t) then s
  else if gap then s.mirrorError t
  else s.applyRecords t f.toNat body.length body)

/-- The types of the records in a message, in order. -/
def recordTypes : Nat → List Byte → List Nat
  | 0, _ => []
  | n + 1, b => if b.length < 4 then [] else byteAt b 0 :: recordTypes n (b.drop (4 + leAt b 2 2))

/-- COPY_RECEIVED (R398, R399): the records of a copy are applied, ending with END, which counts them. -/
def execCopyReceived (t : TreeId) (f : BitVec 64) (body : List Byte) (gap : Bool) (s : State) : Res :=
  .next (if !psListens (s.ps t) then s
  else if gap ∨ (recordTypes body.length body).length ≠ leAt body (body.length - 4) 4 + 1 then s.mirrorError t
  else (s.copyDrop t body).applyRecords t f.toNat body.length body)

/-- One entry of a TABLE_SYNC cell (R400): a refused one is counted. -/
def State.syncEntry (s : State) (t op : Nat) (b : List Byte) : State :=
  let w := leAt b 0 32
  let refused := fun (s : State) => s.incSat F.PROT_Tt_MIRROR_ERR.COUNT t 1
  if s.tblState ≠ 2 then refused s
  else if op = 1 then
    let s0 := s.readPlaces (bits w 0 112) 0
    match s0.findKey (bits w 0 112) with
    | some (p, _) => s0.delEntry p
    | none => s0
  else if (entryFault w).isSome then refused s
  else
    let (r, s1) := s.insert (TblEntry.ofWord w) true 3
    if r.code ≤ 1 then s1 else refused s1

/-- A TABLE_SYNC cell at one listening tree (R398, R400). -/
def State.tableSync (s : State) (t : Nat) (p : List Byte) (gap : Bool) : State :=
  if gap then s.mirrorError t
  else (List.range (min 7 (byteAt p 0))).foldl (fun s n => s.syncEntry t (byteAt p 1) (slice p (12 + 32 * n) 32)) s

/-- TABLE_SYNC_RECEIVED (R400). -/
def execTableSyncReceived (pair : BitVec 16) (payload : List Byte) (gap : Bool) (s : State) : Res :=
  .next (match (List.range 96).find? (fun t => psListens (s.ps t) && s.rd F.PROT_Tt_STATE.PAIR_ID t == pair.toNat) with
  | some t => s.tableSync t payload gap
  | none => s)

/-- QUENCH_FROM_PARTNER (R396): the transmitting side applies it and sends the response back; at the standby the response
answers the first QUENCH passed on. -/
def execQuenchFromPartner (t : TreeId) (body : List Byte) (s : State) : Res :=
  .next (match (s.prot t).quench with
  | src :: rest =>
    (s.setProt t { s.prot t with quench := rest }).answerLater src ⟨byteAt body 0, byteAt body 1, body.drop 2⟩
  | [] =>
    if s.ps t = psNONE then s
    else
      let (s1, r) := if psSends (s.ps t) then s.applyQuench body else (s, conflict 0x83)
      s1.protMsg t 7 (s.frame t) (leBytes 1 r.status ++ leBytes 1 r.detail ++ r.payload))

/-! ### Leases (R408, R409) -/

/-- An answer to a lease request (R408, R409): the own count runs 4 ms from the request. -/
def State.leaseAnswer (s : State) (t : Nat) (m : LeaseAns) : State :=
  let p := s.prot t
  if m.pair ≠ s.rd F.PROT_Tt_STATE.PAIR_ID t ∨ p.asked.isNone then s
  else if m.granted then
    let s1 := s.setLease t (p.asked.map (fun c => (c + usCtc 4000) % 2 ^ 96))
    if s1.ps t = psTAKING then s1.protSet t psSENDING 7
    else if s1.ps t = psHELD then s1.setProt t { s1.prot t with silentLease := true }
    else s1
  else
    (s.incSat F.PROT_Tt_LEASE_REFUSED.COUNT t 1).setProt t { p with askFrom := (s.tb.ctc + usCtc m.left) % 2 ^ 96 }

/-- LEASE_ANSWER_RECEIVED (R408, R409). -/
def execLeaseAnswerReceived (t : TreeId) (m : LeaseAns) (s : State) : Res :=
  .next (if s.ps t = psNONE ∨ !s.fabOn then s else s.leaseAnswer t m)

/-- Whether a side requests the lease now (R409). -/
def State.leaseDue (s : State) (t : Nat) : Bool :=
  let p := s.prot t
  if s.ps t = psCLAIMING then s.past p.askFrom
  else (psSends (s.ps t) || s.ps t == psHELD) && !p.asked.any (fun c => decide (s.since c < usCtc 1000))

/-- LEASE_REQUEST_TIMER (R409): the request goes to the keeper, which may be this device itself. -/
def execLeaseRequestTimer (t : TreeId) (s : State) : Res :=
  .next (if !s.fabOn ∨ !s.leaseDue t then s
  else if s.fab.keeperSince.isSome then
    let s1 := s.setProt t { s.prot t with asked := some s.tb.ctc }
    let (a, s2) := s1.leaseDecide ⟨s.rd F.PROT_Tt_STATE.PAIR_ID t, s.fabAddr, s.leaseHeld t⟩
    s2.leaseAnswer t a
  else s.askLease t)

/-- LEASE_EXPIRE (R409): the own count has run out; a side in ALONE goes dark at once into HELD. -/
def execLeaseExpire (t : TreeId) (s : State) : Res :=
  .next (if s.ps t = psNONE then s
  else
    let s1 := if (s.prot t).leaseEnds.any (fun c => s.past c) then s.setLease t none else s
    if s1.ps t = psALONE ∧ !s1.leaseHeld t then ((s1.goStandby t).enterDark t psHELD 8).protEvent F.PROT_EVENT.LEASE_LOST
    else s1)

/-- TAKING_TIMEOUT (R408): at the boundary that ends its second frame without confirmation or lease. -/
def execTakingTimeout (t : TreeId) (s : State) : Res :=
  .next (if s.ps t = psTAKING ∧ (s.prot t).takeF + 2 ≤ s.frame t then (s.goStandby t).enterDark t psCLAIMING 9 else s)

/-! ### Switches and status (R413, R417) -/

/-- PROT_SWITCH (R413). -/
def State.protSwitch : Body := fun s src p =>
  let t := byteAt p 0
  let mode := byteAt p 1
  let at_ := leAt p 8 8
  let f : Int := if at_ = 0 then s.frame t + 4 else at_
  let ps := s.ps t
  let bad := firstFault [
    (decide (t > 95), badArg 0), (decide (mode > 1), badArg 1), resv p 2 6,
    (decide (mode = 0) && decide (at_ ≥ 2 ^ 51 ∨ f < s.frame t + 4), badArg 8),
    (if mode = 0 then decide (ps ≠ psSENDING) else decide (ps ≠ psREADY ∧ ps ≠ psCLAIMING), conflict (0x40 + ps)),
    (decide (mode = 0) && decide ((s.prot t).pState ≠ psREADY), conflict 0x4F),
    ((s.prot t).sw.any (fun w => w.src.isSome), refuse stBUSY 0)]
  match bad with
  | some r => (s, some r)
  | none =>
    if mode = 0 then ((s.setProt t { s.prot t with sw := some ⟨f, some src, false, false⟩ }).sendStatus t, none)
    else ((s.setProt t { s.prot t with sw := some ⟨0, some src, true, true⟩ }).takeover t 11, none)

def execProtSwitch (src : Src) (s : State) : Res := .next (s.calvan src 0x0702 false false State.protSwitch)

/-- PROT_STATUS (R417). -/
def State.protStatus (s : State) (p : List Byte) : State × Resp :=
  let t := byteAt p 0
  match firstFault [(decide (t > 95), badArg 0)] with
  | some r => (s, r)
  | none =>
    let x := s.prot t
    let flags := b2n (s.leaseHeld t) + b2n x.copyEnd * 2 + b2n x.deltaOk * 4
    let left := (x.leaseEnds.map (fun c => if s.past c then 0 else (c + 2 ^ 96 - s.tb.ctc) % 2 ^ 96 / usCtc 1)).getD 0
    (s, okWith (leBytes 1 t ++ leBytes 1 (s.ps t) ++ leBytes 1 (s.tstate t) ++ leBytes 1 (s.rd F.PROT_Tt_STATE.CAUSE t) ++
      leBytes 1 (s.rd F.PROT_Tt_STATE.PARTNER t) ++ leBytes 1 flags ++ leBytes 2 (s.rd F.PROT_Tt_STATE.PAIR_ID t) ++
      leBytes 4 (s.rd F.PROT_Tt_DELTA.DELTA t) ++ leBytes 4 (s.rd F.PROT_Tt_TIDE_ERR.ERR t) ++
      leBytes 8 (s.rd F.PROT_Tt_SINCE_F.F t) ++ leBytes 1 (s.rd F.PROT_Tt_OBS.CLEAN t) ++ leBytes 1 (s.rd F.PROT_Tt_OBS.ACK_GAP t) ++
      leBytes 1 (s.rd F.PROT_Tt_OBS.DIGEST_GAP t) ++ zeros 1 ++ leBytes 4 (s.rd F.PROT_Tt_TAKEOVERS.COUNT t) ++ leBytes 4 left))

def execProtStatus (src : Src) (s : State) : Res := .next (s.calvan src 0x0703 false true (atOnce State.protStatus))

end Sys2Proof.Machine
end

