-- ==== Sys2Proof/Machine/Calvan.lean ====
section
/-! DEFINITION. The control processor (11_calvan_firmware.md): mailboxes (R339), service states (R352, R353), images and
their compatibility (R354 to R364), the firmware commands, restart after a lockstep mismatch (R366), and TIME_SELECT
(R47). -/

namespace Sys2Proof.Machine

/-! ### Service states (R352, R353) -/

/-- The service state changes; RESTRICTED is 1 in BOOT and RESTRICTED and keeps its value in RESTARTING and HALTED. -/
def State.setService (s : State) (st : Nat) : State :=
  let s1 := if s.service = st then s else (s.wr F.MBX_DEVSTATE.STATE 0 st).mbxEvent F.MBX_EVENT.STATE
  if st ≥ svRESTARTING then s1 else s1.wrB F.GLB_STATUS.RESTRICTED 0 (decide (st ≠ svSERVICE))

def State.imageSlots (s : State) (kind : Nat) : ImageSlots := smGet ImageSlots.empty s.cp.slots (kind, 0)
def State.setSlots (s : State) (kind : Nat) (x : ImageSlots) : State :=
  { s with cp := { s.cp with slots := smSet ImageSlots.empty s.cp.slots (kind, 0) x } }

/-- The running control image. -/
def State.control (s : State) : Option Image := (s.imageSlots 1).current

/-- SERVICE or RESTRICTED, as R353's conditions decide. -/
def State.serviceDue (s : State) : Nat :=
  if s.control.isSome ∧ s.rd F.GLB_STATUS.SITE_OK 0 = 15 ∧ s.cp.heldKinds = [] then svSERVICE else svRESTRICTED

/-- RESTRICTED and SERVICE follow R353's conditions. -/
def State.evalService (s : State) : State :=
  if s.service = svRESTRICTED ∨ s.service = svSERVICE then s.setService s.serviceDue else s

/-- An untested refusal of a kind is held, or no longer (R352, R359). -/
def State.holdUntested (s : State) (kind : Nat) (held : Bool) : State :=
  let l := s.cp.heldKinds.filter (· ≠ kind)
  let l1 := if held then l ++ [kind] else l
  ((s.putCp { s.cp with heldKinds := l1 }).wrB F.MBX_DEVSTATE.UNTESTED_HELD 0 (decide (l1 ≠ []))).evalService

/-! ### Mailboxes (R339, R341, R37) -/

/-- A GO: BUSY sets and the request is latched, or it is rejected (R339). -/
def State.mailboxGo (s : State) (n : Nat) : State :=
  if s.flag F.MBX_n_STATUS.BUSY n ∨ s.flag F.MBX_n_STATUS.DONE n then s.wr F.MBX_n_STATUS.REJECTED n 1
  else (s.wr F.MBX_n_STATUS.BUSY n 1).pumpAll

/-- MBX_GO (R339, R341), with words of the mailbox that hold errors by now (R251). -/
def execMbxGo (port : PortId) (n : MbxId) (errs : List Upset) (s : State) : Res :=
  .next ((s.upset errs).winWrite port (0x20080 + n * 0x100) (s.on 54) (fun s => s.mailboxGo n))

/-- MBX_READY (R37, R87): the boot code runs; every key slot was erased and freed at the reset. -/
def execMbxReady (s : State) : Res :=
  .next (if s.on 54 ∧ !s.bnd.cplxRst ∧ !s.bnd.softRst ∧ !s.flag F.GLB_STATUS.MBX_READY 0 ∧ s.service = svBOOT then
    (s.wr F.GLB_STATUS.MBX_READY 0 1).pumpAll
  else s)

/-- Both table sites trained and the engine's domain ON: INIT begins, which clears both copies and the flow counter pairs
(R242, R454). -/
def State.tableInit (s : State) : State :=
  if s.on 50 ∧ s.tabs.st = 0 ∧ bit (s.rd F.GLB_STATUS.SITE_OK 0) 0 ∧ bit (s.rd F.GLB_STATUS.SITE_OK 0) 1 then
    (s.setTabs (fun x => { x with st := 1, entries := [], cache := [], lastHit := none, pairs := [] })).rewrite (fun u => u.mem == 2 || u.mem == 3 || u.mem == 4)
  else s

/-- SITE_TRAINED (R29): after the release of the complex reset. -/
def execSiteTrained (site : Fin 4) (s : State) : Res :=
  .next (if s.bnd.cplxRst ∨ s.bnd.softRst ∨ !s.on 54 then s
  else ((s.wr F.GLB_STATUS.SITE_OK 0 (s.rd F.GLB_STATUS.SITE_OK 0 ||| 2 ^ site.val)).evalService).tableInit)

/-! ### Images (R354 to R359) -/

/-- The largest image of a kind (R354). -/
def imageLimit (kind : Nat) : Nat := if kind = 1 then 655360 else if kind = 4 then 262144 else 131072

/-- ABI as responses give it. -/
def abiOf (i : Option Image) : Nat := (i.map (fun x => x.major * 65536 + x.minor)).getD 0
def buildOf (i : Option Image) : Nat := (i.map (fun x => x.build)).getD 0

/-- The tested-with entries of an image (R356). -/
def twEntries (img : List Byte) (at_ n : Nat) : List (List Byte) := (List.range n).map (fun k => (img.drop (at_ + 8 * k)).take 8)

def twOf (b : List Byte) : TwEntry := ⟨byteAt b 0, leAt b 2 2, leAt b 4 2, leAt b 6 2⟩

/-- Checks 5 to 8 of R360 on an image read for a kind. -/
def imageFault (kind : Nat) (img : List Byte) : Option Resp :=
  let len := leAt img 12 4
  let n := leAt img 24 2
  let tw := twEntries img (256 + len) n
  let body := (img.drop 256).take len
  if leAt img 0 4 ≠ 0x4B544331 ∨ byteAt img 4 ≠ 1 ∨ byteAt img 5 = 0 ∨ byteAt img 5 > 4 then some (refuse stUNSUPPORTED 0x38)
  else if byteAt img 5 ≠ kind then some (badArg 0x39)
  else if img.length ≠ 256 + len + 8 * n ∨ len % 16 ≠ 0 then some (badArg 0x3A)
  else if n = 0 ∨ n > 64 ∨ byteAt img 6 > 3 ∨ byteAt img 7 ≠ 0 ∨ !zeroAt img 26 6 ∨ !zeroAt img 129 31
      ∨ tw.any (fun b => decide (byteAt b 0 > 4) || decide (byteAt b 1 ≠ 0) || decide (leAt b 4 2 > leAt b 6 2)) then some (badArg 0x3B)
  else
    let signed := img.take 160 ++ zeros 96 ++ img.drop 256
    match notAuthentic (byteAt img 6) (slice img 32 97) signed (slice img 160 96) with
    | some d => some (refuse stDENIED d)
    | none => if kind = 1 then none else (imageCheck kind body).map badArg

/-- The image of a checked file. -/
def imageOf (kind : Nat) (img : List Byte) : Image :=
  let len := leAt img 12 4
  { kind := kind, major := leAt img 8 2, minor := leAt img 10 2, build := leAt img 16 8,
    tw := (twEntries img (256 + len) (leAt img 24 2)).map twOf, body := (img.drop 256).take len, untested := false }

/-- A side of a compatibility check (R358): kind, major, minor, table. -/
structure Side where
  kind : Nat
  major : Nat
  minor : Nat
  tw : List TwEntry

def Image.side (i : Image) : Side := ⟨i.kind, i.major, i.minor, i.tw⟩

/-- The silicon as a counterpart (R356). -/
def State.silicon (s : State) : Side := ⟨0, s.rd F.GLB_ID.STEP 0 / 16, s.rd F.GLB_ID.STEP 0 % 16, []⟩

/-- The counterparts of an image that starts, in order of examination (R358). -/
def State.counterparts (s : State) (kind : Nat) : List Side :=
  let imgs : List (Option Image) :=
    if kind = 1 then []
    else if kind = 4 then [s.control, (s.imageSlots 2).current, (s.imageSlots 2).retained, (s.imageSlots 3).current, (s.imageSlots 3).retained]
    else [s.control, (s.imageSlots 4).current]
  s.silicon :: (imgs.filterMap id).map Image.side

/-- A table's entry names a side's kind and major. -/
def TwEntry.names (e : TwEntry) (x : Side) : Bool := e.kind == x.kind && e.major == x.major

def majorsMatch (a b : Side) : Bool := a.tw.any (fun e => e.names b) || b.tw.any (fun e => e.names a)

def pairTested (a b : Side) : Bool :=
  a.tw.any (fun e => e.names b && decide (e.lo ≤ b.minor ∧ b.minor ≤ e.hi)) ||
  b.tw.any (fun e => e.names a && decide (e.lo ≤ a.minor ∧ a.minor ≤ e.hi))

/-! ### FW_LOAD (R360) -/

/-- A source address: host space, or scratch within a stack's 15 GiB (R315). -/
def loadSrcOk (a len : Nat) : Bool :=
  decide (a % 16 = 0) &&
  (decide (bits a 60 4 = 0) || (decide (bits a 60 4 = 3) && decide (bits a 35 25 = 0) && decide (bits a 0 34 + len ≤ 15 * 2 ^ 30)))

/-- Whether FW_LOAD and FW_START of a kind are accepted in the service state (R360, R361). -/
def State.fwStateOk (s : State) (kind : Nat) : Bool := decide (kind = 1) == decide (s.service = svBOOT)

def State.fwLoad : Body := fun s src p =>
  let kind := byteAt p 0
  let fl := byteAt p 1
  let len := leAt p 4 4
  let discard := bit fl 0
  let bad := firstFault [
    (decide (kind = 0 ∨ kind > 4), badArg 0), (decide (fl > 1), badArg 1), (!discard && (resv p 2 2).1, (resv p 2 2).2),
    (!discard && decide (len > imageLimit kind), badArg 4), (!discard && !loadSrcOk (leAt p 8 8) len, badArg 8),
    (!discard && (resv p 16 40).1, (resv p 16 40).2),
    (!s.fwStateOk kind, conflict (0xE0 + s.service)),
    (s.cp.loads.any (fun l => l.kind == kind), refuse stBUSY 0)]
  match bad with
  | some r => (s, some r)
  | none =>
    if discard then
      ((s.setSlots kind { s.imageSlots kind with staged := none }).holdUntested kind false, some (okWith (leBytes 1 kind)))
    else ((s.putCp { s.cp with loads := s.cp.loads ++ [⟨src, kind, len, leAt p 8 8⟩] }), none)

/-- FW_LOAD (R360). -/
def execFwLoad (src : Src) (s : State) : Res := .next (s.calvan src 0x0801 true true State.fwLoad)

/-- The bytes of an image where its source says. -/
def State.imageBytes (s : State) (addr len : Nat) : List Byte :=
  if bits addr 60 4 = 0 then s.hostRead addr len else memBytes s.scratch (bits addr 0 35) len

/-- The response payload of a load (R360). -/
def loadPayload (i : Image) : List Byte :=
  leBytes 1 i.kind ++ zeros 3 ++ leBytes 4 (i.major * 65536 + i.minor) ++ leBytes 8 i.build ++ leBytes 2 i.tw.length

/-- FW_LOAD_READ_DONE (R360): the image is staged or refused. -/
def execFwLoadReadDone (src : Src) (timedOut : Bool) (s : State) : Res :=
  .next (match s.cp.loads.find? (fun l => l.src == src) with
  | none => s
  | some l =>
    if !s.on 54 then s
    else
    let s1 := s.putCp { s.cp with loads := s.cp.loads.filter (fun x => x.src ≠ src) }
    if timedOut then s1.answerLater src (refuse stTIMEOUT 0)
    else
      let img := s1.imageBytes l.addr l.length
      match imageFault l.kind img with
      | some r => s1.answerLater src r
      | none =>
        let i := imageOf l.kind img
        ((s1.setSlots l.kind { s1.imageSlots l.kind with staged := some i }).holdUntested l.kind false).answerLater src
          (okWith (loadPayload i)))

/-! ### FW_START (R361) -/

/-- The lowest tree that keeps an image of a kind from starting (R361). -/
def State.blockingTree (s : State) (kind : Nat) : Option Nat :=
  if kind = 4 then (List.range 96).find? (fun t => s.running t)
  else if kind = 1 then none
  else
    match (s.imageSlots kind).retained with
    | some i => (List.range 96).find? (fun t => (s.tree t).image == some (kind, i.build))
    | none => none

/-- The response payload of FW_START (R361). -/
def startPayload (kind result counterpart : Nat) (i : Option Image) : List Byte :=
  leBytes 1 kind ++ leBytes 1 result ++ leBytes 1 counterpart ++ zeros 1 ++ leBytes 4 (abiOf i) ++ leBytes 8 (buildOf i)

/-- What an image that starts does, by kind (R361, R364). -/
def State.startImage (s : State) (kind : Nat) (i : Image) : State :=
  let x := s.imageSlots kind
  let retained : Option Image := if kind = 2 ∨ kind = 3 then x.current.filter (fun c => s.imageRuns kind c.build) else none
  let s1 := (s.setSlots kind ⟨none, some i, retained⟩).flagUntested
  let s2 := if i.untested then s1.mbxEvent F.MBX_EVENT.UNTESTED else s1
  let s3 :=
    if kind = 1 then s2.setService s2.serviceDue
    else if kind = 4 then
      let s4 := (s2.wake 48 5 127).wake 49 5 127
      ((List.range 16).foldl (fun s n => s.beginLoad (48 + n) ⟨none, i.build, i.body⟩) s4).sluiceStart
    else s2
  s3.holdUntested kind false

/-- A refusal of FW_START before its images are compared: it shows the image staged (R361). -/
def startRefusal (status detail : Nat) (staged : Option Image) : Resp :=
  ⟨status, detail, zeros 4 ++ leBytes 4 (abiOf staged) ++ leBytes 8 (buildOf staged)⟩

def State.fwStart (s : State) (p : List Byte) : State × Resp :=
  let kind := byteAt p 0
  let fl := byteAt p 1
  let x := s.imageSlots kind
  let bad := firstFault [
    (decide (kind = 0 ∨ kind > 4), refuse stBAD_ARG 0), (decide (fl > 1) || !zeroAt p 2 54, startRefusal stBAD_ARG 0 x.staged),
    (x.staged.isNone, conflict 0), (!s.fwStateOk kind, startRefusal stSTATE_CONFLICT (0xE0 + s.service) x.staged),
    ((s.blockingTree kind).isSome, startRefusal stSTATE_CONFLICT (0x80 + s.tstate ((s.blockingTree kind).getD 0)) x.staged)]
  match bad, x.staged with
  | some r, _ => (s, r)
  | none, none => (s, conflict 0)
  | none, some i =>
    let others := s.counterparts kind
    match others.find? (fun o => !majorsMatch i.side o), others.find? (fun o => !pairTested i.side o) with
    | some o, _ => (s, ⟨stUNSUPPORTED, o.kind, startPayload kind 0 o.kind (some i)⟩)
    | none, some o =>
      if bit fl 0 then
        let s1 := s.startImage kind { i with untested := true }
        (s1, okWith (startPayload kind 1 o.kind (some i)))
      else (s.holdUntested kind true, ⟨stVERSION_UNTESTED, o.kind, startPayload kind 0 o.kind (some i)⟩)
    | none, none =>
      let s1 := s.startImage kind { i with untested := false }
      (s1, okWith (startPayload kind 0 0xFF (some i)))

/-- FW_START (R361). -/
def execFwStart (src : Src) (s : State) : Res := .next (s.calvan src 0x0802 true true (atOnce State.fwStart))

/-! ### FW_STATUS, DEV_INFO, TIME_SELECT (R362, R363, R47) -/

/-- Trees running an image of a kind. -/
def State.treesRunning (s : State) (kind : Nat) (i : Option Image) : Nat :=
  match i with
  | some x => ((List.range 96).filter (fun t => (s.tree t).image == some (kind, x.build))).length
  | none => 0

def State.fwStatus (s : State) (p : List Byte) : State × Resp :=
  let kind := byteAt p 0
  match firstFault [(decide (kind = 0 ∨ kind > 4), badArg 0)] with
  | some r => (s, r)
  | none =>
    let x := s.imageSlots kind
    let slots := b2n x.staged.isSome + b2n x.current.isSome * 2 + b2n x.retained.isSome * 4 +
      b2n (s.cp.heldKinds.contains kind) * 8 + b2n (x.current.any (fun i => i.untested)) * 16
    (s, okWith (leBytes 1 kind ++ leBytes 1 slots ++ leBytes 1 (s.treesRunning kind x.current) ++
      leBytes 1 (s.treesRunning kind x.retained) ++ leBytes 4 (abiOf x.staged) ++ leBytes 8 (buildOf x.staged) ++
      leBytes 4 (abiOf x.current) ++ leBytes 8 (buildOf x.current) ++ leBytes 4 (abiOf x.retained) ++ leBytes 8 (buildOf x.retained)))

/-- FW_STATUS (R362). -/
def execFwStatus (src : Src) (s : State) : Res := .next (s.calvan src 0x0803 true true (atOnce State.fwStatus))

def State.devInfo (s : State) (_ : List Byte) : State × Resp :=
  let flags := b2n (s.flag F.GLB_STATUS.UNTESTED 0) + b2n s.dbgLock * 2 + b2n (s.rd F.GLB_STATUS.SITE_OK 0 == 15) * 4 +
    b2n (s.flag F.MBX_DEVSTATE.UNTESTED_HELD 0) * 8
  (s, okWith (leBytes 2 (s.rd F.GLB_ID.PART 0) ++ leBytes 1 (s.rd F.GLB_ID.STEP 0) ++ leBytes 1 s.service ++
    leBytes 8 Config.serial ++ leBytes 2 Config.bootVer ++ leBytes 1 (Config.revoked % 16) ++ leBytes 1 flags ++
    leBytes 4 (abiOf s.control) ++ leBytes 8 (buildOf s.control) ++ leBytes 4 (abiOf (s.imageSlots 2).current) ++
    leBytes 4 (abiOf (s.imageSlots 3).current) ++ leBytes 4 (abiOf (s.imageSlots 4).current) ++
    leBytes 2 (s.rd F.MBX_DEVSTATE.RESTARTS 0)))

/-- DEV_INFO (R363). -/
def execDevInfo (src : Src) (s : State) : Res := .next (s.calvan src 0x0001 true true (atOnce State.devInfo))

/-- The switch of the selected domain (R46). -/
def State.timeSelect (s : State) (p : List Byte) : State × Resp :=
  let d := byteAt p 0
  let prev := s.sel
  let valid := if d = 0 then s.flag F.TB_STATUS.A_VALID 0 else s.flag F.TB_STATUS.B_VALID 0
  match firstFault [(decide (d > 1), badArg 0), resv p 1 7, (!s.on 56, conflict (s.pw 56)), (!valid, conflict 0)] with
  | some r => (s, r)
  | none =>
    let s1 := if d = prev then s else (s.wr F.TB_STATUS.SEL 0 d).checkFar.ppsBack
    (s1, okWith (leBytes 1 prev ++ zeros 3 ++ leBytes 4 s1.tideDiffReg))

/-- TIME_SELECT (R47). -/
def execTimeSelect (src : Src) (s : State) : Res := .next (s.calvan src 0x0501 false false (atOnce State.timeSelect))

/-! ### Restart (R366, R367) -/

/-- The control processor is halted (R352, R367). -/
def State.cpHalt (s : State) : State := (s.setService svHALTED).wr F.GLB_STATUS.MBX_READY 0 0

/-- LOCKSTEP_MISMATCH (R366): both cores are reset; a second mismatch within 1 s of the first halts them. -/
def execLockstepMismatch (s : State) : Res :=
  .next (if !s.on 54 ∨ s.service = svHALTED ∨ s.bnd.cplxRst ∨ s.bnd.softRst then s
  else
    let now := s.rd F.TB_LEDGER.TICKS 0
    if s.cp.mismatch.any (fun m => decide ((now + 2 ^ 64 - m.1) % 2 ^ 64 < ledgerSec)) then s.cpHalt
    else
      let before := if s.service = svRESTARTING then (s.cp.mismatch.map (fun m => m.2)).getD svBOOT else s.service
      (s.putCp { s.cp with mismatch := some (now, before) }).setService svRESTARTING)

/-- CP_RESTART_DONE (R366): service resumes with the responses owed, or a wrong digest halts the processor. -/
def execCpRestartDone (digestOk : Bool) (s : State) : Res :=
  .next (if s.service ≠ svRESTARTING then s
  else
    let boot := decide ((s.cp.mismatch.map (fun m => m.2)).getD svBOOT = svBOOT)
    if !boot ∧ !digestOk then s.cpHalt
    else
      let s1 := (s.setService (if boot then svBOOT else s.serviceDue)).incSat F.MBX_DEVSTATE.RESTARTS 0 1
      let s2 := s1.mbxEvent F.MBX_EVENT.CP_RESTART
      s2.payOwed)

end Sys2Proof.Machine
end

