-- ==== Sys2Proof/Machine/ResetOps.lean ====
section
/-! DEFINITION. What a domain loses at OFF and what every reset clears (01_boundary.md R35, 14_power_domains.md R421, R422):
the registers of a domain, and the management buses (R19, R20) that start again when a domain is ON. -/

namespace Sys2Proof.Machine

/-- Every register of the window, counter pages and engine memories apart (R30). -/
def allRegs : List RegInfo :=
  glbRegs ++ tbRegs ++ mbxRegs ++ irqRegs ++ pwrRegs ++ dmaRegs ++ fabRegs ++ protRegs ++ sluRegs ++ treRegs ++ dbRegs ++
  pmcRegs ++ peRegs ++ tmxRegs

/-- The power domain that holds a register (R32, R419). -/
def RegInfo.holder (r : RegInfo) (i : Nat) : Nat :=
  match r.dom with
  | .island => 57
  | .fixed d => d
  | .pair => pairOf i
  | .engine => engDom (i / r.n2)
  | .block => blockDom (i / r.n2)

/-- The power domain that holds a field, by its number and index. -/
def fieldHolder (k : Key) : Nat :=
  match allRegs.find? (fun r => r.flds.any (fun f => f.num == k.1)) with
  | some r => r.holder k.2
  | none => 57

/-- Fields of TREE_CONFIG, which outlive the tree pair's domain: the control processor keeps a tree's configuration
(R102) and writes it again (DESIGN CHOICE, log entry 40). -/
def configField (n : Nat) : Bool :=
  [F.TRE_CFG.MAX_FRAME, F.TRE_CFG.PLOAM_MAX, F.TRE_CFG.WARM_FRAMES, F.TRE_PON_ID.PON_ID, F.TRE_DS_CAP.BYTES,
   F.TRE_BCAST_SLOT.SLOT, F.TRE_BCAST_SLOT.VALID].any (fun f => f.num == n)

/-- Fields that show what the host chip's clock block does, whatever is reset (R40, R42; DEDUCED, log entry 41). -/
def clockField (n : Nat) : Bool :=
  [F.TB_CLK.CODE, F.TB_STEP.NS, F.TB_STEP.FRAC, F.TB_STATUS.FREQ_HOLDOVER].any (fun f => f.num == n)

/-- The registers of a domain return to their reset values (R35, R421). -/
def State.clearDom (s : State) (d : Nat) : State :=
  { s with fields := s.fields.filter (fun (e : Key × Nat) => fieldHolder e.1 ≠ d || configField e.1.1) }

/-! ### Module management (R19 to R22) -/

/-- The transactions waiting on a bus, the running one first. -/
def State.busQ (s : State) (b : Nat) : List ModTx := smGet [] s.bnd.modQ (b, 0)
def State.setBusQ (s : State) (b : Nat) (l : List ModTx) : State :=
  { s with bnd := { s.bnd with modQ := smSet [] s.bnd.modQ (b, 0) l } }

/-- The oldest waiting transaction of a tree whose pair domain is ON begins on a free bus: at the switch's address its
control byte, then the transaction (R19, R20, R39). -/
def State.busNext (s : State) (b : Nat) : State :=
  let q := s.busQ b
  if q.any (fun x => x.started) then s
  else
    match q.find? (fun x => s.on (pairOf x.tree)) with
    | none => s
    | some x =>
      let s1 := s.setBusQ b ({ x with started := true } :: q.erase x)
      s1.emit (.modBus b (s.rd F.GLB_MM_CFG.SWADDR 0) (2 ^ (x.tree % 8)) x.tree x.dev x.off x.count x.write
        (if x.write then leBytes x.count x.data else []))

/-- A transaction joins its bus (R20). -/
def State.busAdd (s : State) (x : ModTx) : State :=
  let b := x.tree / 8
  (s.setBusQ b (s.busQ b ++ [x])).busNext b

/-- The running transaction of a bus, and the bus without it. -/
def State.busEnd (s : State) (b : Nat) : Option (ModTx × State) :=
  match (s.busQ b).find? (fun x => x.started) with
  | none => none
  | some x => some (x, s.setBusQ b ((s.busQ b).erase x))

/-- A pair domain leaves ON: a transaction of its trees that runs is released and waits again at the front of its bus, which
goes on with the next (R39; DESIGN CHOICE, log entry 19). -/
def State.busRelease (s : State) (d : Nat) : State :=
  let b := d / 4
  if (s.busQ b).any (fun x => x.started && pairOf x.tree == d) then
    ((s.setBusQ b ((s.busQ b).map (fun x => { x with started := false }))).emit (.modBusFree b)).busNext b
  else s

/-! ### Rails (R439) -/

/-- Whether a rail is switched on: by its domain when linked, else by EN. -/
def State.railOn (s : State) (k : Nat) : Bool :=
  let d := s.rd F.PWR_POLk.DOMAIN k
  if d < 57 then
    s.pw d != pwOFF && !(s.pw d == pwRISING && (s.dom d).from_ == pwOFF && s.rd F.PWR_Dd_STATE.STAGE d == 0)
  else s.flag F.PWR_POLk.EN k

/-- A domain's linked rails are switched off. -/
def State.railsOff (s : State) (d : Nat) : State := (s.railsOf d).foldl (fun s k => s.railSet k false) s

end Sys2Proof.Machine
end

