-- ==== Sys2Proof/Machine/Power.lean ====
section
/-! DEFINITION. Power domains and wake (14_power_domains.md): entry into RET and OFF (R428), rises (R429), requests
(R423 to R426), idle timers (R427), power loss (R430), wake sources (R431 to R434), the board bus (R437, R438) and the rails
(R439). -/

namespace Sys2Proof.Machine

/-! ### Leaving ON (R428) -/

/-- The engines of a domain (R419). -/
def domEngines (d : Nat) : List Nat :=
  if d < 48 then [d]
  else if d = 48 then (List.range 8).map (· + 48)
  else if d = 49 then (List.range 8).map (· + 56)
  else []

/-- PE_CYCLES of the domain's engines stop (R450). -/
def State.stopCycles (s : State) (d : Nat) : State :=
  (domEngines d).foldl (fun s e => s.wr F.PE_CYCLES.COUNT e (s.peCycles e)) s

/-- What other chapters do as a domain leaves ON, requested or not (R39, R180, R209, R71). -/
def State.leaveOn (s : State) (d : Nat) : State :=
  let s1 := s.stopCycles d
  if d < 48 then s1.busRelease d
  else if d = 48 ∨ d = 49 then s1.sluDomainLeft (d - 48)
  else if d = 56 then s1.tbLeave
  else s1

/-- The fabric is withdrawn before its domain leaves ON: a ROUTE with no adjacencies, then a wait of 200 µs (R388). -/
def State.fabWithdraw (s : State) : State :=
  let s1 := if s.fdState = fdADDRESSED then s.floodRouteOf [] else s
  (s1.putFab { s1.fab with leaveAt := some s1.tb.ctc })

/-- FALLING begins towards RET or OFF with number n (R425, R428). -/
def State.beginFall (s : State) (d target n : Nat) : State :=
  let from_ := s.pw d
  let s0 := if from_ = pwON ∧ d = 55 then s.fabWithdraw else s
  let s1 := if from_ = pwON then s0.leaveOn d else s0
  let s2 := s1.setDom d { s1.dom d with curSeq := n, from_ := from_, waitFor := [] }
  (((s2.wr F.PWR_Dd_STATE.STATE d pwFALLING).wr F.PWR_Dd_STATE.TARGET d target).wr F.PWR_Dd_STATE.STAGE d 5).wr
    F.PWR_Dd_SEQ.PEND_SEQ d n

/-- Entry may complete: the domain's engines have stopped fetching (R209), and the fabric's 200 µs have passed (R388). -/
def State.entryReady (s : State) (d : Nat) : Bool :=
  (domEngines d).all (fun e => !s.engAwake e) &&
  (if d = 55 then s.fab.leaveAt.all (fun c => !s.on 56 || decide (s.since c ≥ usCtc 200)) else true)

/-! ### What a domain that is not ON has lost -/

/-- The fabric's links go down and the device is DOWN (R380, R388). -/
def State.fabDown (s : State) : State :=
  let s0 := (s.wr F.FAB_STATE.DSTATE 0 fdDOWN).wr F.FAB_STATE.ADDR 0 0x7F
  let s1 := (List.range 8).foldl (fun s l => s.linkDown l) s0
  let s2 := (List.range 64).foldl (fun s d => s.setRoute d [] 0) s1
  let s3 := ((s2.wr F.FAB_STATE.KEEPER 0 0x7F).wr F.FAB_STATE.QUORUM 0 0).wr F.FAB_MEMBERS.MEMBERS 0 0
  let s4 := s3.wr F.FAB_STATE.MEMBERS_N 0 0
  let f := s4.fab
  (s4.putFab { Fabric.reset with claimSeq := f.claimSeq, routeSeq := f.routeSeq, seqs := f.seqs }).peerTide

/-- A channel that a command held is free again. -/
def State.unholdChannel (s : State) (c : Nat) : State := (s.wr F.DMA_CHn_STATUS.STATE c chIDLE).wr F.DMA_CHn_STATUS.OWNED c 0

/-- Table commands a test names end without having been carried out (R349). -/
def State.failTable (s : State) (which : TblCmd → Bool) : State :=
  let gone := s.tabs.cmds.filter which
  let s1 := s.setTabs (fun x => { x with cmds := x.cmds.filter (fun c => !which c) })
  let s2 := gone.foldl (fun (s : State) (c : TblCmd) => if c.begun then (c.channel.toList).foldl (fun s ch => s.unholdChannel ch) s else s) s1
  State.tblNext 64 (gone.foldl (fun (s : State) (c : TblCmd) => s.answerFailed c.src) s2)

/-- Harvests of flow counters end without having been carried out (R455). -/
def State.failHarvests (s : State) : State :=
  let gone := s.mon.harvests
  let s1 := s.setMon (fun m => { m with harvests := [] })
  gone.foldl (fun (s : State) (h : Harvest) => (s.unholdChannel (byteAt h.p 1)).answerFailed h.src) s1

/-- What each kind of domain loses at OFF beside its registers (R421, R422). -/
def State.loseHeld (s : State) (d : Nat) : State :=
  if d < 48 then
    let s1 := s.setEng d Engine.reset
    [2 * d, 2 * d + 1].foldl
      (fun s t =>
        let s2 := (s.setTree t { s.tree t with deficit := [], rrLast := 0 }).setTreeU t TreeUs.reset
        (s2.putTel (smDel s2.tel (t, 0)))) s1
  else if d = 48 ∨ d = 49 then
    let u := d - 48
    let s1 := (domEngines d).foldl (fun s e => s.setEng e Engine.reset) s
    let s2 := s1.putSluTrees (s1.sluTrees.filter (fun (e : Key × SluTree) => e.1.1 ≠ u))
    (s2.setSluUnit u { s2.sluUnit u with forecasts := [] }).countForecasts
  else if d = 50 then
    let s1 := (s.failTable (fun _ => true)).failHarvests
    s1.setTabs (fun _ => Tables.reset)
  else if d = 51 then
    { s with
      trees := s.trees.map (fun (e : Key × Tree) => (e.1, { e.2 with staged := [], inFlight := none })),
      reasms := [],
      rings := s.rings.map (fun (e : Key × Ring) => (e.1, { e.2 with rx := [] })),
      buf := { Buffers.reset with feReady := s.buf.feReady } }
  else if d = 52 then
    let s1 := (s.buf.ingress.filter (fun i => i.origin == .trunk)).foldl (fun (s : State) (i : Ingress) => s.freeCells i.cell) s
    s1.setBuf (fun b => { b with ingress := b.ingress.filter (fun i => i.origin != .trunk), credits := [], dsGiven := [], dsOwed := [], dsStarted := false })
  else if d = 53 then
    let s1 := (s.failTable (fun c => c.channel.isSome)).failHarvests
    let s2 := s1.rings.foldl (fun (s : State) (e : Key × Ring) => s.disown e.1.1) s1
    { s2 with rings := [], evqs := [], chans := [], rakeLast := [] }
  else if d = 54 then
    let s1 := ((s.wr F.GLB_STATUS.MBX_READY 0 0).wr F.GLB_STATUS.RESTRICTED 0 1).wr F.GLB_STATUS.UNTESTED 0 0
    let s2 := s1.wr F.GLB_STATUS.SITE_OK 0 0
    { s2 with cp := CpState.reset, prots := [], sluTrees := [], sluUnits := [], sluShared := [], slu := Sluice.reset,
              errLog := [], errOvf := false,
              mon := { s2.mon with namedSh := [], countSh := [], seqSh := [], snapAt := none, harvests := [], legBase := [],
                                   corrAt := [], challenge := none } }
  else if d = 55 then { s with fab := Fabric.reset, fabLinks := [] }
  else s

/-- The memories a domain holds, by the codes of R251 (R421). -/
def lostWord (d : Nat) (u : Upset) : Bool :=
  if d = 50 then u.mem == 2 || u.mem == 3 || u.mem == 4
  else if d = 51 then u.mem == 1 || u.mem == 5 || u.mem == 6 || u.mem == 7
  else if d = 53 then u.mem == 10
  else if d = 54 then u.mem == 11
  else (u.mem == 8 || u.mem == 9) && engDom u.inst == d

/-- A domain goes OFF: what it held is lost, its memories' words with it. -/
def State.loseDomain (s : State) (d : Nat) : State := (s.loseHeld d).rewrite (lostWord d)

/-- The tree pair's wake settings are taken into force at its entry to RET (R433). -/
def State.takeSentinel (s : State) (t : Nat) : State :=
  let rate := s.rd F.PWR_Tt_WAKE.LISTEN_RATE t
  let x : Sentinel :=
    { mustBeDark := (s.sent t).mustBeDark, sdEn := s.flag F.PWR_Tt_WAKE.SD_EN t, delimEn := s.flag F.PWR_Tt_WAKE.DELIM_EN t,
      rate := if rate = 3 then 0 else rate, maxErr := s.rd F.PWR_Tt_WAKE.MAX_ERR t,
      len := max 16 (min 64 (s.rd F.PWR_Tt_WAKE.DELIM_LEN t)), pattern := s.rd F.PWR_Tt_DELIM.PATTERN t }
  (s.putSents (smSet Sentinel.reset s.sents (t, 0) x))

/-- A domain reached RET. -/
def State.enterRet (s : State) (d : Nat) : State :=
  if d < 48 then (s.takeSentinel (2 * d)).takeSentinel (2 * d + 1)
  else if d = 55 then s.fabDown
  else s

/-- A domain reached OFF: its registers and contents are lost and its rails are switched off; the timebase acts as for RET
(R71, R421, R422, R439). -/
def State.enterOff (s : State) (d : Nat) : State :=
  let s1 := s.railsOff d
  if d = 56 then s1
  else
    let s2 := if d = 55 then s1.fabDown else s1
    (domEngines d).foldl (fun s e => s.wr F.PE_STATUS.STATE e esOFF) ((s2.loseDomain d).clearDom d)

/-! ### Reaching ON (R429) -/

/-- An engine whose domain came ON from OFF is HALTED; its general registers, work memory and control store are undefined
(R208). -/
def State.engFromOff (s : State) (e : Nat) : State :=
  let regs := (List.range 32).map (fun k => Config.freeNat (s.freeCtr + k) % 2 ^ 64)
  (({ s with freeCtr := s.freeCtr + 32 }).setEng e { Engine.reset with regs := regs, undef := [0, 1, 2, 3] }).wr F.PE_STATUS.STATE e esHALTED

/-- Events lost since an engine stopped fetching are counted as it resumes (R210). -/
def State.engFromRet (s : State) (e : Nat) : State :=
  let n := (s.eng e).lost
  if n = 0 then s
  else
    ((((s.setEng e { s.eng e with lost := 0 }).incSat F.PE_EVT_LOST.COUNT e n).peEvent e F.PE_EVENT.EVT_LOST).engCount e 0x108 n)

/-- A tree's half is loaded with the image the tree runs, where it does not hold it; a pending start loads it itself (R209,
R364). -/
def State.reloadHalf (s : State) (t : Nat) : State := if (s.tree t).start.isSome then s else s.loadHalf t

/-- What follows when a tree pair is ON: reloads, starts fixed, woken trees ACTIVE (R102, R104, R209). -/
def State.pairOn (s : State) (d : Nat) (off : Bool) : State :=
  let s1 := ((if off then s.engFromOff d else s.engFromRet d).reloadHalf (2 * d)).reloadHalf (2 * d + 1)
  let s2 := (s1.fixStart (2 * d)).fixStart (2 * d + 1)
  ((s2.riseTree (2 * d)).riseTree (2 * d + 1)).busNext (d / 4)

/-- What follows when a Sluice unit's domain is ON (R180, R209). -/
def State.sluOn (s : State) (d : Nat) (off : Bool) : State :=
  let s1 := (domEngines d).foldl (fun s e => if off then s.engFromOff e else s.engFromRet e) s
  let s2 := if off ∧ s1.slu.started then
      match (s1.imageSlots 4).current with
      | some i => (domEngines d).foldl (fun s e => s.beginLoad e ⟨none, i.build, i.body⟩) s1
      | none => s1
    else s1
  s2.sluDomainOn (d - 48)

/-- What other chapters do once a domain is ON (R71, R180, R242, R271, R286, R380). -/
def State.enterOn (s : State) (d : Nat) (off : Bool) : State :=
  let s1 := s.putBnd { s.bnd with wakeOut := s.bnd.wakeOut.filter (· ≠ d) }
  let s2 := if domEngines d = [] then s1 else s1.setMon (fun m => { m with onAt := smSet 0 m.onAt (d, 0) m.cycles })
  if d < 48 then s2.pairOn d off
  else if d = 48 ∨ d = 49 then s2.sluOn d off
  else if d = 50 then s2.tableInit
  else if d = 51 ∨ d = 52 then s2.startCredits
  else if d = 53 then s2.replayDoorbells
  else if d = 54 then s2.payOwed
  else if d = 55 then
    let s3 := s2.putFab { s2.fab with since := s2.tb.ctc, leaveAt := none }
    (List.range 8).foldl (fun s l => s.linkUp l) (s3.wr F.FAB_STATE.DSTATE 0 fdUNADDRESSED)
  else if d = 56 then s2.tbResume
  else s2

/-! ### The end of a transition (R425) -/

/-- The transition ends in a state: its number, if it has one, becomes DONE_SEQ (R425). -/
def State.settled (s : State) (d st : Nat) : State :=
  let n := (s.dom d).curSeq
  let s1 := ((s.wr F.PWR_Dd_STATE.STATE d st).wr F.PWR_Dd_STATE.TARGET d st).wr F.PWR_Dd_STATE.STAGE d 0
  let s2 := if n = 0 then s1 else s1.wr F.PWR_Dd_SEQ.DONE_SEQ d n
  let s3 := s2.setDom d { s2.dom d with curSeq := 0, waitFor := [] }
  let s4 := if s3.flag F.PWR_Dd_STATE.PENDING d then s3 else s3.wr F.PWR_Dd_SEQ.PEND_SEQ d 0
  s4.pwrEvent F.PWR_EVENT.STATE_CHANGE

/-- A request refused or dropped when it was to be applied (R425, R426, R430). -/
def State.dropRequest (s : State) (d : Nat) : State := (s.countRefused d).pwrEvent F.PWR_EVENT.REQ_DROPPED

/-- A latched or pending request for ON is replayed with its own number; the domains needed act in the same event (R420,
R425, R435). -/
def State.replayOn (s : State) (d n : Nat) : State :=
  let ev := s.wakeSet d
  let s1 := (ev.filter (· ≠ d)).foldl (fun s e => s.wakeOne ev e) s
  (s1.startRise d n (ev.filter (fun e => layer e < layer d))).advanceRises

/-- The pending request is applied after a transition (R425). -/
def State.applyPending (s : State) (d : Nat) : State :=
  if !s.flag F.PWR_Dd_STATE.PENDING d then s
  else
    let target := s.rd F.PWR_Dd_STATE.PEND_TARGET d
    let n := s.rd F.PWR_Dd_SEQ.PEND_SEQ d
    let s1 := s.unpend d
    if s.pw d = target ∨ (target = pwRET ∧ s.pw d = pwOFF) then s1.wr F.PWR_Dd_SEQ.DONE_SEQ d n
    else if target = pwON then s1.replayOn d n
    else if (s1.pwrRefusal d target).isSome then s1.dropRequest d
    else s1.beginFall d target n

/-- A transition ends: the state is entered, other chapters act, the pending request is applied (R425, R429). -/
def State.reach (s : State) (d st : Nat) : State :=
  let off := decide ((s.dom d).from_ = pwOFF)
  let s1 := s.settled d st
  let s2 :=
    if st = pwON then s1.enterOn d off
    else if st = pwRET then s1.enterRet d
    else s1.enterOff d
  (s2.applyPending d).advanceRises

/-! ### Requests (R425) -/

/-- A request for RET or OFF that is not refused: the state, its RESULT and its SEQ (R421, R425). -/
def State.requestFall (s : State) (d target : Nat) : State × Nat × Nat :=
  if !s.moving d then
    if s.pw d = target ∨ (target = pwRET ∧ s.pw d = pwOFF) then (s, 3, s.rd F.PWR_Dd_SEQ.DONE_SEQ d)
    else
      let n := nextSeq (s.dom d).lastSeq
      ((s.setDom d { s.dom d with lastSeq := n }).beginFall d target n, 0, n)
  else if s.rd F.PWR_Dd_STATE.TARGET d = target then
    (if s.flag F.PWR_Dd_STATE.PENDING d then s.unpend d else s, 2, (s.dom d).curSeq)
  else
    let s1 := s.pend d target false
    (s1, 1, (s1.dom d).lastSeq)

/-- A command's request for ON (R425, R431). -/
def State.requestRise (s : State) (d : Nat) : State × Nat × Nat :=
  let s1 := s.wake d 5 127
  if s.pw d = pwON then (s1, 3, s.rd F.PWR_Dd_SEQ.DONE_SEQ d)
  else if s.pw d = pwRISING then (s1, 2, (s.dom d).curSeq)
  else (s1, if s.pw d = pwFALLING then 1 else 0, (s1.dom d).lastSeq)

/-- A scheduled request is applied (R426). -/
def State.applySched (s : State) (d target : Nat) : State :=
  if target = pwON then s.wake d 6 127
  else if (s.pwrRefusal d target).isSome then s.dropRequest d
  else (s.requestFall d target).1

/-- A domain's scheduled request is taken away. -/
def State.unsched (s : State) (d : Nat) : State := s.setDom d { s.dom d with sched := none, schedLedger := none }

/-- Schedule a request; an instant already passed applies it at once (R426). While the timebase is not ON the island counts
to it by the ledger (R72). -/
def State.schedule (s : State) (d target : Nat) (at_ : Int) : State :=
  let led := s.tb.sleptAt.getD (s.rd F.TB_LEDGER.TICKS 0) + s.ticksUntil at_
  let past := if s.on 56 then decide (at_ ≤ s.tide) else decide (led ≤ s.rd F.TB_LEDGER.TICKS 0)
  if past then (s.unsched d).applySched d target
  else s.setDom d { s.dom d with sched := some (target, at_.toNat), schedLedger := if s.on 56 then none else some led }

/-- The scheduled instant as responses and PWR_Dd_SCHED give it. -/
def State.schedTuple (s : State) (d : Nat) : Nat := ((s.dom d).sched.map (fun x => toShort x.2)).getD 0

/-- Offsets 0 to 15 of the response of PWR_REQUEST (R423). -/
def State.pwrPayload (s : State) (d result seq : Nat) : List Byte :=
  leBytes 1 d ++ leBytes 1 (s.pw d) ++ leBytes 1 result ++ zeros 1 ++ leBytes 2 seq ++
  leBytes 2 (s.rd F.PWR_Dd_SEQ.DONE_SEQ d) ++ leBytes 8 (s.schedTuple d)

/-- PWR_REQUEST's own rule (R423 to R426). -/
def State.pwrRequest (s : State) (p : List Byte) : State × Resp :=
  let d := byteAt p 0
  let target := byteAt p 1
  let fl := byteAt p 2
  let at_ := bit fl 0
  let cancel := bit fl 1
  match firstFault [
    (decide (d > 56), badArg 0), (decide (target > 2) && !cancel, badArg 1), (decide (fl > 2), badArg 2),
    (at_ && (s.shortTuple (leAt p 8 8)).isNone, badArg 8), resv p 3 5, resv p 16 40,
    (decide (target ≠ 0) && !at_ && !cancel && (s.pwrRefusal d target).isSome, conflict ((s.pwrRefusal d target).getD 0))] with
  | some r => (s, r)
  | none =>
    if cancel then
      let s1 := s.unsched d
      (s1, okWith (s1.pwrPayload d 5 0))
    else if at_ then
      let s1 := s.schedule d target ((s.shortTuple (leAt p 8 8)).getD 0)
      (s1, okWith (s1.pwrPayload d 4 0))
    else
      let (s1, result, seq) := if target = 0 then s.requestRise d else s.requestFall d target
      (s1, okWith (s1.pwrPayload d result seq))

/-- PWR_REQUEST (R423). -/
def execPwrRequest (src : Src) (s : State) : Res := .next (s.calvan src 0x0601 false false (atOnce State.pwrRequest))

/-- PWR_STATUS's own rule (R440). -/
def State.pwrStatus (s : State) (p : List Byte) : State × Resp :=
  let d := byteAt p 0
  match firstFault [(decide (d > 56), badArg 0)] with
  | some r => (s, r)
  | none =>
    let pending := s.flag F.PWR_Dd_STATE.PENDING d
    (s, okWith (s.pwrPayload d 3 (if pending then s.rd F.PWR_Dd_SEQ.PEND_SEQ d else 0) ++
      leBytes 1 (s.rd F.PWR_Dd_STATE.TARGET d) ++ leBytes 1 (if pending then s.rd F.PWR_Dd_STATE.PEND_TARGET d else 0xFF) ++
      leBytes 1 (s.rd F.PWR_Dd_STATE.STAGE d) ++ zeros 1 ++ leBytes 4 (s.dom d).wakes ++ leBytes 4 (s.dom d).refused))

/-- PWR_STATUS (R440). -/
def execPwrStatus (src : Src) (s : State) : Res := .next (s.calvan src 0x0602 true true (atOnce State.pwrStatus))

/-! ### Transitions -/

/-- DOMAIN_ENTRY_DONE (R428, R435). -/
def execDomainEntryDone (d : DomId) (s : State) : Res :=
  .next (if s.pw d = pwFALLING ∧ s.entryReady d then
    s.reach d (if s.rd F.PWR_Dd_STATE.TARGET d = pwRET then pwRET else pwOFF)
  else s)

/-- DOMAIN_STAGE_READY (R429): the next stage begins, or the domain is ON; step 1 from OFF waits for every linked rail. -/
def execDomainStageReady (d : DomId) (s : State) : Res :=
  .next (let st := s.rd F.PWR_Dd_STATE.STAGE d
  if s.pw d ≠ pwRISING ∨ st = 0 ∨ st > 4 then s
  else if st = 1 ∧ (s.dom d).from_ = pwOFF ∧ (s.railsOf d).any (fun k => !s.flag F.PWR_POLk.READY k) then s
  else if st < 4 then s.wr F.PWR_Dd_STATE.STAGE d (st + 1)
  else s.reach d pwON)

/-- DOMAIN_POWER_LOSS (R430): the domain passes to OFF, a running transition ends there, a pending request is dropped; the
trees of a pair fault with cause 3 (R103). -/
def execDomainPowerLoss (d : DomId) (s : State) : Res :=
  .next (if s.pw d = pwOFF then s
  else
    let s1 := if s.on d then s.leaveOn d else s
    let s2 := if s1.flag F.PWR_Dd_STATE.PENDING d then (s1.unpend d).dropRequest d else s1
    let s3 := (s2.pwrEvent F.PWR_EVENT.LOSS).settled d pwOFF
    let s4 := if d.val < 48 then (s3.faultTree (2 * d) 3).faultTree (2 * d + 1) 3 else s3
    (s4.enterOff d).advanceRises)

/-! ### Idle timers and schedules -/

/-- A domain's idle condition (R427). -/
def State.idleNow (s : State) (d : Nat) : Bool :=
  let quiet := fun (t : Nat) => decide (s.tstate t = trDISABLED ∨ s.tstate t = trDORMANT)
  if d < 48 then quiet (2 * d) && quiet (2 * d + 1)
  else if d = 48 ∨ d = 49 then decide (s.unitState (d - 48) ≠ 0)
  else if d = 50 then !s.anyRunning && decide (s.tabs.cmds = [])
  else if d = 51 ∨ d = 52 then !s.anyRunning
  else if d = 53 then
    !s.rakeBusy && s.rings.all (fun (e : Key × Ring) =>
      (if e.2.typ = rtTX ∨ e.2.typ = rtFORECAST ∨ e.2.typ = rtADMIN then
        decide (s.rstate e.1.1 = rgUNCREATED ∨ s.rd F.DB_HEAD.HEAD e.1.1 = s.rd F.DB_HEAD.TAIL e.1.1) else true) && decide (e.2.rx = []))
  else if d = 55 then (List.range 8).all (fun l => decide (s.lkState l < lkALIGNED))
  else if d = 56 then !s.anyRunning && (List.range 4).all (fun n => decide (s.rd F.TIDE_TODn_CTL.STATE n ≠ 1))
  else false

/-- IDLE_TIMER (R427): a request for IDLE_TARGET; a refusal restarts the timer and counts. -/
def execIdleTimer (d : DomId) (s : State) : Res :=
  .next (if s.rd F.PWR_Dd_IDLE.IDLE_US d = 0 ∨ !s.on d ∨ s.flag F.PWR_Dd_STATE.PENDING d ∨ !s.idleNow d then s
  else
    let target := if s.rd F.PWR_Dd_IDLE.IDLE_TARGET d = 2 then pwOFF else pwRET
    if (s.pwrRefusal d target).isSome then s.countRefused d else (s.requestFall d target).1)

/-- A domain's scheduled request is to act: the tide is at its instant, or, while the timebase is not ON, the ledger at
the count the instant was converted to (R72, R426). -/
def State.schedDue (s : State) (d : Nat) : Bool :=
  match (s.dom d).sched with
  | none => false
  | some (_, at_) =>
    if s.on 56 then s.tideDue at_ else (s.dom d).schedLedger.any (fun l => decide (l ≤ s.rd F.TB_LEDGER.TICKS 0))

/-- SCHEDULED_REQUEST (R426, R72): the instant, or the ledger count, is reached. -/
def execScheduledRequest (d : DomId) (s : State) : Res :=
  .next (match (s.dom d).sched with
  | none => s
  | some (target, _) => if s.schedDue d then (s.unsched d).applySched d target else s)

/-! ### Wake sources (R431 to R434) -/

/-- A write of PWR_WAKE (R431). -/
def State.pwrWake (s : State) (v : Nat) : State :=
  let d := bits v 0 6
  if bit v 31 ∧ d ≤ 56 then s.wake d 8 127 else s

/-- PWR_WAKE (R431). -/
def execPwrWake (port : PortId) (v : BitVec 32) (s : State) : Res :=
  .next (s.winWrite port 0x40008 true (fun s => s.pwrWake v.toNat))

/-- LIGHT_ACCEPTED (R432, R105): an armed sentinel wakes its pair; SD shows the light (R17). -/
def execLightAccepted (t : TreeId) (s : State) : Res :=
  .next (let s1 := s.sdShows t true
  if s.armed t then s1.wakeTree t 1 else s1)

/-- SENTINEL_REARM (R432): the receiver has been dark for 1 ms since the tree's return to DORMANT. -/
def execSentinelRearm (t : TreeId) (s : State) : Res :=
  .next (let s1 := s.sdShows t false
  if s.tstate t = trDORMANT then
    s1.putSents (smMod Sentinel.reset s1.sents (t.val, 0) (fun (x : Sentinel) => { x with mustBeDark := false }))
  else s1)

/-- WAKE_DELIMITER_MATCH (R433): the last DELIM_LEN bits received differ from the pattern in at most MAX_ERR bits. -/
def execWakeDelimiterMatch (t : TreeId) (rx : BitVec 64) (s : State) : Res :=
  .next (let x := s.sent t
  if s.listens t ∧ popCount (bits rx.toNat 0 x.len ^^^ bits x.pattern 0 x.len) 64 ≤ x.maxErr then s.wakeTree t 2 else s)

/-- FABRIC_ACTIVITY_WAKE (R388): in RET or OFF. -/
def execFabricActivityWake (s : State) : Res :=
  .next (if s.pw 55 = pwRET ∨ s.pw 55 = pwOFF then s.wake 55 3 127 else s)

/-- STARTUP_POWER_REQUEST (R434): the control image runs and every site is trained. -/
def execStartupPowerRequest (s : State) : Res :=
  .next (if s.cpRuns ∧ s.control.isSome ∧ s.rd F.GLB_STATUS.SITE_OK 0 = 15 ∧ s.service ≠ svBOOT then
    ((s.wake 50 5 127).wake 52 5 127).wake 51 5 127
  else s)

/-! ### Board bus (R437, R438) -/

/-- The bus measured in 10 mV units (R437). -/
def State.setMv (s : State) (mv : Nat) : State :=
  (s.wr F.PWR_BB_STATUS.MV 0 (min mv 65535)).wrB F.PWR_BB_STATUS.OVER 0 (decide (mv > 6300))

/-- BROWN_OUT_WARNING (R15, R103, R438): every laser off, every tree outside DISABLED into FAULT, the event's vector fired
whatever its settings. -/
def execBrownOutWarning (mv : Nat) (s : State) : Res :=
  .next (let s1 := s.setMv mv
  if !s.bnd.oscOk ∨ mv ≥ s.rd F.PWR_BB_CFG.WARN 0 ∨ s.flag F.PWR_BB_STATUS.WARN 0 then s1
  else
    let s2 := s1.wr F.PWR_BB_STATUS.WARN 0 1
    let s3 := (List.range 96).foldl (fun s t => s.faultTree t 4) s2
    (s3.wr F.PWR_EVENT.BROWNOUT 0 1).fire (s3.rd F.IRQ_SRC_MAP.VECTOR 226))

/-- BROWN_OUT_CLEAR (R437, R438): above WARN + 3 %. -/
def execBrownOutClear (mv : Nat) (s : State) : Res :=
  .next (let s1 := s.setMv mv
  if s.flag F.PWR_BB_STATUS.WARN 0 ∧ mv * 100 > s.rd F.PWR_BB_CFG.WARN 0 * 103 then
    (s1.wr F.PWR_BB_STATUS.WARN 0 0).pwrEvent F.PWR_EVENT.BB_OK
  else s1)

/-- BB_OVER (R437). -/
def execBbOver (mv : Nat) (s : State) : Res :=
  .next (let s1 := s.setMv mv
  if mv > 6300 ∧ s.bnd.oscOk then s1.pwrEvent F.PWR_EVENT.BB_OVER else s1)

/-! ### Rails (R439) -/

/-- POL_RAIL_READY (R439). -/
def execPolRailReady (k : Fin 16) (s : State) : Res := .next (if s.railOn k then s.wr F.PWR_POLk.READY k 1 else s)

/-- POL_RAIL_TIMEOUT (R439): the rails not ready fault, and the rise ends in OFF. -/
def execPolRailTimeout (d : DomId) (s : State) : Res :=
  .next (let late := (s.railsOf d).filter (fun k => !s.flag F.PWR_POLk.READY k)
  if s.pw d ≠ pwRISING ∨ s.rd F.PWR_Dd_STATE.STAGE d ≠ 1 ∨ (s.dom d).from_ ≠ pwOFF ∨ late = [] then s
  else
    let s1 := (late.foldl (fun s k => s.wr F.PWR_POLk.FAULT k 1) s).pwrEvent F.PWR_EVENT.POL_FAULT
    let s2 := (s1.settled d pwOFF).railsOff d
    (s2.applyPending d).advanceRises)

/-- A write of PWR_POLk (R439, R442): an unlinked rail follows EN; a changed setpoint is sent at once. -/
def State.writePol (s : State) (k v : Nat) : State :=
  let was := s.railOn k
  let old := s.rd F.PWR_POLk.SETPOINT k
  let s1 := s.writeFields [F.PWR_POLk.BUS_ADDR, F.PWR_POLk.EN, F.PWR_POLk.DOMAIN, F.PWR_POLk.SETPOINT, F.PWR_POLk.FAULT] k v
  if s1.railOn k ≠ was ∨ s1.rd F.PWR_POLk.SETPOINT k ≠ old then s1.railSet k (s1.railOn k) else s1

/-- POL_RAIL_WRITE (R439). -/
def execPolRailWrite (port : PortId) (k : Fin 16) (v : BitVec 32) (s : State) : Res :=
  .next (s.winWrite port (0x40F00 + k * 4) true (fun s => s.writePol k v.toNat))

end Sys2Proof.Machine
end

