-- ==== Sys2Proof/Machine/Reset.lean ====
section
/-! DEFINITION. Resets and start-up (01_boundary.md R34 to R37): the island cold reset, the complex and the soft reset, their
release, and the writes of GLB_CTL. -/

namespace Sys2Proof.Machine

/-- Island registers that a complex or soft reset clears (R35, R37, R87, R102, R419); the island's others are kept. A module
transaction that the reset ends leaves BUSY 0 and ERR as it was (DESIGN CHOICE, log entry 19). -/
def resetField (n : Nat) : Bool :=
  [F.GLB_STATUS.MBX_READY, F.GLB_STATUS.RESTRICTED, F.GLB_STATUS.UNTESTED, F.GLB_STATUS.SITE_OK, F.TRE_STATE.STATE,
   F.TRE_STATE.FAULT_CAUSE, F.TRE_STATE.CONFIGURED, F.TRE_STATE.PROFILE, F.TRE_STATE.OPER_TERMS, F.TRE_MOD_CMD.BUSY,
   F.PWR_Dd_STATE.STATE, F.PWR_Dd_STATE.TARGET, F.PWR_Dd_STATE.PENDING, F.PWR_Dd_STATE.PEND_TARGET, F.PWR_Dd_STATE.STAGE,
   F.PWR_Dd_SEQ.PEND_SEQ, F.TMX_STATUS.UNLOCKED].any (fun f => f.num == n)

/-- A register field that a complex or soft reset keeps. -/
def keptField (k : Key) : Bool := clockField k.1 || (fieldHolder k == 57 && !resetField k.1)

/-- Every linked rail of a domain not yet OFF is switched off as a reset takes the domain to OFF (R35, R439). -/
def State.railsDrop (s : State) : State :=
  (List.range 57).foldl (fun s d => if s.pw d = pwOFF then s else s.railsOff d) s

/-- What a complex or soft reset leaves of the machine (R35, R36, R41): the island's registers, the sleep ledger, the
last-wake record and the straps stay, the number of each domain's last request with its counts, what the forwarding engine
reports of itself (R270), and memory words that fail whatever is written. -/
def State.cleared (s : State) : State :=
  { State.reset with
    pending := s.pending, freeCtr := s.freeCtr, out := s.out, hostMem := s.hostMem, scratch := s.scratch,
    upsets := s.upsets.filter (fun u => u.stuck), buf := { Buffers.reset with feReady := s.buf.feReady },
    fields := s.fields.filter (fun (e : Key × Nat) => keptField e.1),
    bnd := { s.bnd with
      modQ := [], wakeOut := [],
      holds := (s.bnd.holds.map (fun (e : Key × PortHold) => (e.1, { PortHold.reset with high := e.2.high }))).filter
        (fun e => decide (e.2 ≠ PortHold.reset)) },
    tb := { Timebase.reset with ledgerSub := s.tb.ledgerSub },
    doms := (s.doms.map (fun (e : Key × PowerDom) =>
      (e.1, { PowerDom.reset with lastSeq := e.2.lastSeq, wakes := e.2.wakes, refused := e.2.refused }))).filter
        (fun e => decide (e.2 ≠ PowerDom.reset)),
    sents := s.sents,
    mon := { Monitor.reset with cycles := s.mon.cycles, wear := s.mon.wear, optics := s.mon.optics, failAt := s.mon.failAt } }

/-- A complex or soft reset (R35, R36, R41): every switched domain goes OFF and loses all it held, transitions end, pending
and scheduled requests are discarded, the wake latch and WAKE_OUT are cleared, every key slot is erased and freed, the CTC
restarts from 0 and TB_EPOCH increments. -/
def State.resetComplex (s : State) : State := s.railsDrop.cleared.incWrap F.TB_EPOCH.COUNT 0 1

/-- The release of a reset (R37 step 5): the control processor and the timebase go ON, then the brine pool and queue
manager, then the host rings and rake, in layers; these rises are no requests and take no number. -/
def State.startUp (s : State) : State :=
  ((((s.startRise 54 0 []).startRise 56 0 []).startRise 51 0 [54, 56]).startRise 53 0 [54, 56, 51]).advanceRises

/-- A write of GLB_CTL (R34 to R36): TXDIS_ALL always acts; SOFT_RESET acts with the key, and not while a reset is
held. -/
def State.writeGlbCtl (s : State) (v : Nat) : State :=
  let s1 := s.wr F.GLB_CTL.TXDIS_ALL 0 (bits v 16 1)
  if bit v 8 ∧ bits v 0 8 = 0xA5 ∧ !s.bnd.cplxRst ∧ !s.bnd.softRst then
    let s2 := s1.resetComplex
    (s2.putBnd { s2.bnd with softRst := true }).wr F.GLB_RST_CAUSE.SOFT 0 1
  else s1

/-- SOFT_RESET (R35, R36). -/
def execSoftReset (port : PortId) (v : BitVec 32) (s : State) : Res :=
  .next (s.winWrite port 0x8 true (fun s => s.writeGlbCtl v.toNat))

/-- TXDIS_ALL (R14, R34). -/
def execTxdisAll (port : PortId) (v : BitVec 32) (s : State) : Res :=
  .next (s.winWrite port 0x8 true (fun s => s.writeGlbCtl v.toNat))

/-- What an island cold reset leaves (R35, R37 step 1): everything is reset, the island included; host memory and the table
stacks' scratch areas keep their bytes (log entry 43), and the clock block's signals stay. -/
def State.coldCleared (s : State) (byPin : Bool) : State :=
  { State.reset with
    pending := s.pending, freeCtr := s.freeCtr, out := s.out, hostMem := s.hostMem, scratch := s.scratch,
    upsets := s.upsets.filter (fun u => u.stuck), buf := { Buffers.reset with feReady := s.buf.feReady },
    fields := s.fields.filter (fun (e : Key × Nat) => clockField e.1.1),
    bnd := { Boundary.reset with
      supplyOk := byPin, aonRstN := !byPin, islandUp := false, oscOk := false, cplxRst := s.bnd.cplxRst, sd := s.bnd.sd } }

/-- ISLAND_COLD_RESET (R35, R37 step 1), by the supply's fall or by AON_RST_N; GLB_RST_CAUSE shows which. -/
def execIslandColdReset (byPin : Bool) (s : State) : Res :=
  .next (let s1 := s.coldCleared byPin
  if byPin then (s1.wr F.GLB_RST_CAUSE.COLD 0 0).wr F.GLB_RST_CAUSE.AON_PIN 0 1 else s1)

/-- ISLAND_RESET_RELEASE (R37 step 2): the island leaves reset and the oscillator is enabled. -/
def execIslandResetRelease (s : State) : Res :=
  .next (s.putBnd { s.bnd with supplyOk := true, aonRstN := true, islandUp := true })

/-- The reset value of the brown-out threshold, in 10 mV units, by the bus strap (R26). -/
def warnOf (bus : Nat) : Nat := if bus = 0 then 1020 else if bus = 1 then 2040 else if bus = 2 then 4080 else 4000

/-- OSCILLATOR_STABLE (R26, R37 step 3): the straps are sampled; a complex reset already released ends here. -/
def execOscillatorStable (bus : BitVec 2) (dbgLock : Bool) (s : State) : Res :=
  .next (if !s.bnd.islandUp ∨ s.bnd.oscOk then s
  else
    let s1 := (s.putBnd { s.bnd with oscOk := true }).wr F.GLB_STRAP.BUS 0 bus.toNat
    let s2 := (s1.wrB F.GLB_STRAP.DBGLOCK 0 dbgLock).wr F.PWR_BB_CFG.WARN 0 (warnOf bus.toNat)
    if s.bnd.cplxRst then s2 else s2.startUp)

/-- COMPLEX_RESET (R35, R36): asserted by the host chip's reset controller. -/
def execComplexReset (s : State) : Res :=
  .next (if s.bnd.cplxRst then s
  else if !s.bnd.oscOk then s.putBnd { s.bnd with cplxRst := true }
  else
    let s1 := if s.bnd.softRst then s else s.resetComplex
    (s1.putBnd { s1.bnd with cplxRst := true, softRst := false }).wr F.GLB_RST_CAUSE.COMPLEX 0 1)

/-- COMPLEX_RESET_RELEASE (R37 step 5): the complex reset, or the soft reset held, ends. -/
def execComplexResetRelease (s : State) : Res :=
  .next (if !s.bnd.cplxRst ∧ !s.bnd.softRst then s
  else
    let s1 := s.putBnd { s.bnd with cplxRst := false, softRst := false }
    if s.bnd.oscOk then s1.startUp else s1)

end Sys2Proof.Machine
end

