-- ==== Sys2Proof/Machine/Boundary.lean ====
section
/-! DEFINITION. Module management (01_boundary.md R19 to R22): transactions on the twelve buses and the firmware's polls. -/

namespace Sys2Proof.Machine

/-- A write of TRE_MOD_CMD (R21): START queues the transaction the registers describe, unless one is BUSY. -/
def State.writeModCmd (s : State) (t v : Nat) : State :=
  let s1 := s.writeFields [F.TRE_MOD_CMD.OFFSET, F.TRE_MOD_CMD.DEVADDR, F.TRE_MOD_CMD.WRITE, F.TRE_MOD_CMD.COUNT, F.TRE_MOD_CMD.FAST] t v
  if !bit v 29 ∨ s.flag F.TRE_MOD_CMD.BUSY t then s1
  else
    let s2 := (s1.wr F.TRE_MOD_CMD.BUSY t 1).wr F.TRE_MOD_CMD.ERR t 0
    s2.busAdd ⟨t, false, s2.rd F.TRE_MOD_CMD.DEVADDR t, s2.rd F.TRE_MOD_CMD.OFFSET t, s2.flag F.TRE_MOD_CMD.WRITE t,
      s2.rd F.TRE_MOD_CMD.COUNT t + 1, s2.rd F.TRE_MOD_DATA.DATA t, false, 0, 0⟩

/-- TRE_MOD_CMD_START (R21). -/
def execTreModCmdStart (port : PortId) (t : TreeId) (v : BitVec 32) (s : State) : Res :=
  .next (s.winWrite port (0x80384 + t * 0x400) true (fun s => s.writeModCmd t v.toNat))

/-- A transaction of TRE_MOD_CMD ends (R20, R21): BUSY falls, ERR shows the outcome, read data lands. -/
def State.modDone (s : State) (x : ModTx) (ok : Bool) (data : Nat) : State :=
  let s1 := (s.wr F.TRE_MOD_CMD.BUSY x.tree 0).wrB F.TRE_MOD_CMD.ERR x.tree (!ok)
  if ok ∧ !x.write then
    let old := s.rd F.TRE_MOD_DATA.DATA x.tree
    s1.wr F.TRE_MOD_DATA.DATA x.tree (old / 2 ^ (8 * x.count) * 2 ^ (8 * x.count) + data % 2 ^ (8 * x.count))
  else s1

/-! ### Firmware polls (R22) -/

/-- One transaction of a poll: the module's address, the offset, whether it writes, how many bytes, and what it writes. -/
structure PollStep where
  dev : Nat
  off : Nat
  write : Bool
  count : Nat
  data : Nat
  deriving DecidableEq, Repr

/-- The transactions of a poll, by the standard its module follows (R22): identity first; then, of SFF-8472, page 0 of 0x51
by byte 127, the calibration constants, the monitors and the flags; of CMIS, lower memory and pages 00h, 01h, 02h and 11h of
bank 0 by bytes 126 and 127. The offsets are the module standards' (PRESUMED, log entry 45). -/
def pollSteps (std : Nat) : List PollStep :=
  ⟨0x50, 0, false, 128, 0⟩ ::
  (if std = 1 then
    [⟨0x51, 127, true, 1, 0⟩, ⟨0x51, 56, false, 36, 0⟩, ⟨0x51, 96, false, 10, 0⟩, ⟨0x51, 112, false, 6, 0⟩]
  else if std = 2 then
    [0x00, 0x01, 0x02, 0x11].flatMap (fun page => [⟨0x50, 126, true, 2, page * 256⟩, ⟨0x50, 128, false, 128, 0⟩])
  else [])

/-- The transaction at a place of a poll joins its bus. -/
def State.pollAdd (s : State) (t std place : Nat) (p : PollStep) : State :=
  s.busAdd ⟨t, true, p.dev, p.off, p.write, p.count, p.data, false, std, place⟩

/-- A poll's monitors are kept with the frame of the poll (R22, R465). -/
def State.modPolled (s : State) (t : Nat) (o : Optics) : State :=
  s.setMon (fun m => { m with optics := smMod Optic.none_ m.optics (t, 0) (fun (x : Optic) =>
    { x with std := o.std, flags := o.flags.toNat, temp := o.temp.toNat, supply := o.volt.toNat, bias := o.bias.toNat,
             tx := o.txPower.toNat, rx := o.rxPower.toNat, lastF := s.frame t }) })

/-- A transaction of a poll is acknowledged: the next of its sequence joins the bus, and after the last the monitors read
are kept (R22). The module's standard is known from the identity read first; one of neither standard ends the poll there. -/
def State.pollNext (s : State) (x : ModTx) (o : Optics) : State :=
  let std := if x.place = 0 then o.std.val else x.std
  match (pollSteps std)[x.place + 1]? with
  | some p => s.pollAdd x.tree std (x.place + 1) p
  | none => s.modPolled x.tree { o with std := ⟨std % 3, Nat.mod_lt _ (by decide)⟩ }

/-- MOD_TRANSACTION_DONE (R20): the bus's transaction ends and the next begins. A poll not acknowledged ends there and
leaves TRE_MOD_CMD.ERR as it is, which shows the outcome of transactions started there (DESIGN CHOICE, log entry 19: R20
sets ERR on any missing acknowledge, R21 calls it the outcome of the last transaction). -/
def execModTransactionDone (bus : Fin 12) (ack : Bool) (data : BitVec 32) (optics : Optics) (s : State) : Res :=
  .next (match s.busEnd bus with
  | none => s
  | some (x, s1) =>
    let s2 := if x.poll then (if ack then s1.pollNext x optics else s1) else s1.modDone x ack data.toNat
    s2.busNext bus)

/-- CLOCK_STRETCH_TIMEOUT (R20): the transaction is abandoned, ERR sets, and nine clocks and a stop free the bus. A poll so
abandoned leaves ERR as it is (DESIGN CHOICE, log entry 19). -/
def execClockStretchTimeout (bus : Fin 12) (s : State) : Res :=
  .next (match s.busEnd bus with
  | none => s
  | some (x, s1) =>
    let s2 := if x.poll then s1 else s1.modDone x false 0
    (s2.emit (.modBusFree bus)).busNext bus)

/-- MODULE_POLL (R22): a poll begins for every tree not DISABLED whose pair domain is ON, unless its last poll still
waits. -/
def execModulePoll (s : State) : Res :=
  .next (if !s.cpRuns ∨ s.control.isNone then s
  else
    (List.range 96).foldl
      (fun s t =>
        if s.tstate t ≠ trDISABLED ∧ s.on (pairOf t) ∧ !(s.busQ (t / 8)).any (fun x => x.poll && x.tree == t) then
          s.pollAdd t 0 0 ⟨0x50, 0, false, 128, 0⟩
        else s) s)

end Sys2Proof.Machine
end

