-- ==== Sys2Proof/Machine/Monitor.lean ====
section
/-! DEFINITION. Counters, health and debug access: the commands and rows (15_monitoring_debug.md R451 to R470). -/

namespace Sys2Proof.Machine

/-! ### Snapshots and the flow harvest (R451 to R455) -/

/-- COUNTER_SNAPSHOT's ranges (R455); a range that passes the last pair is reported at COUNT (log entry 35). -/
def State.snapFault (s : State) (p : List Byte) : Option Resp :=
  let fl := byteAt p 0
  let flows := bit fl 1
  firstFault
    [(fl ≥ 16, badArg 0), (flows && decide (byteAt p 1 > 63), badArg 1), resv p 2 2,
     (flows && decide (leAt p 4 4 = 0 ∨ leAt p 4 4 > 16777215), badArg 4),
     (bit fl 0 && (s.shortTuple (leAt p 8 8)).isNone, badArg 8),
     (flows && decide (leAt p 16 8 % 16 ≠ 0), badArg 16),
     (flows && decide (leAt p 24 4 = 0 ∨ leAt p 24 4 > 16777215), badArg 24),
     resv p 28 28,
     (flows && decide (leAt p 24 4 + leAt p 4 4 > 16777216), badArg 4)]

/-- The response of COUNTER_SNAPSHOT. -/
def snapRsp (seq records at_ : Nat) : Resp := okWith (leBytes 4 seq ++ leBytes 4 records ++ leBytes 8 at_)

/-- COUNTER_SNAPSHOT's own rule (R455). -/
def State.counterSnapshot (s : State) (src : Src) (p : List Byte) : State × Option Resp :=
  let fl := byteAt p 0
  match s.snapFault p with
  | some r => (s, some r)
  | none =>
    if bit fl 1 then
      if !s.on 50 ∨ s.tabs.st ≠ 2 then (s, some (conflict (if s.on 50 then s.tabs.st else 0)))
      else if !s.chFree (byteAt p 1) then (s, some (refuse stBUSY 0))
      else
        let total := 16 * leAt p 4 4
        ((s.holdChannel (byteAt p 1) (4 * 2 ^ 60) (leAt p 16 8) 4 total).setMon (fun m => { m with harvests := m.harvests ++ [⟨src, p⟩] }), none)
    else
      let s1 := if bit fl 3 then s.setMon (fun m => { m with snapAt := none }) else s
      let seq := fun (s : State) => s.rd F.PMC_SNAP_SEQ.SEQ 0
      if bit fl 0 then
        let s2 := s1.armSnap ((s1.shortTuple (leAt p 8 8)).getD 0)
        if s2.mon.snapAt.isSome then (s2, some (snapRsp ((seq s2 + 1) % 2 ^ 32) 0 (leAt p 8 8)))
        else (s2, some (snapRsp (seq s2) 0 0))
      else if bit fl 3 then (s1, some (snapRsp (seq s1) 0 0))
      else
        let s2 := s1.snapshot
        (s2, some (snapRsp (seq s2) 0 0))

/-- COUNTER_SNAPSHOT (R455). -/
def execCounterSnapshot (src : Src) (s : State) : Res :=
  .next (s.calvan src 0x0902 false true (fun s src p => s.counterSnapshot src p))

/-- The pairs of a harvest go to the host, each zeroed as it is read with CLEAR_FLOWS (R455). -/
def State.harvestPairs (s : State) (dest : Nat) (clear : Bool) : Nat → Nat → State
  | 0, _ => s
  | n + 1, c =>
    let x := smGet (⟨0, 0⟩ : FlowPair) s.tabs.pairs (c, 0)
    let s1 := s.hostWrite dest (leBytes 8 x.bytes ++ leBytes 8 x.frames)
    let s2 := if clear then s1.putTabs { s1.tabs with pairs := smDel s1.tabs.pairs (c, 0) } else s1
    State.harvestPairs s2 (dest + 16) clear n (c + 1)

/-- FLOW_HARVEST_DONE (R455): the pairs have moved, the channel is released and the response written. -/
def execFlowHarvestDone (s : State) : Res :=
  .next (match s.mon.harvests with
  | [] => s
  | h :: rest =>
    if !s.on 53 ∨ !s.on 50 then s
    else
      let n := leAt h.p 4 4
      let s1 := (s.setMon (fun m => { m with harvests := rest })).harvestPairs (leAt h.p 16 8) (bit (byteAt h.p 0) 2) n (leAt h.p 24 4)
      let s2 := s1.releaseChannel (byteAt h.p 1) (16 * n)
      (s2.answerLater h.src (snapRsp (s2.rd F.PMC_SNAP_SEQ.SEQ 0) n 0)).pumpAll)

/-- SNAP_NOW (R453). -/
def execSnapNow (port : PortId) (v : BitVec 32) (s : State) : Res :=
  .next (s.winWrite port 0x200010 (s.on 54) (fun s => s.writeSnapCtl (v.toNat ||| 1)))

/-- SNAP_ARM (R453). -/
def execSnapArm (port : PortId) (v : BitVec 32) (s : State) : Res :=
  .next (s.winWrite port 0x200010 (s.on 54) (fun s => s.writeSnapCtl (v.toNat ||| 2)))

/-- SNAP_DISARM (R453). -/
def execSnapDisarm (port : PortId) (v : BitVec 32) (s : State) : Res :=
  .next (s.winWrite port 0x200010 (s.on 54) (fun s => s.writeSnapCtl (v.toNat ||| 4)))

/-- SNAPSHOT_AT (R453): the armed instant is reached (R50). -/
def execSnapshotAt (s : State) : Res :=
  .next (if s.on 54 ∧ s.mon.snapAt.any (fun a => s.tideDue a) then (s.setMon (fun m => { m with snapAt := none })).snapshot else s)

/-- LEGACY_READ (R462): a read of PMC_LEG_DATA. -/
def execLegacyRead (port : PortId) (s : State) : Res := .next (s.hostReadWindow port 0x20002C 4 false)

/-! ### Windows of bandwidth and telemetry (R458, R461) -/

/-- A write of PMC_BW_CFG discards every window in progress (R458). -/
def State.writeBwFrames (s : State) (v : Nat) : State :=
  (List.range 96).foldl (fun s t => s.setCnt (bwGroup t) 0 0) (s.wr F.PMC_BW_CFG.FRAMES 0 v)

/-- BW_FRAMES_WRITE (R458). -/
def execBwFramesWrite (port : PortId) (v : BitVec 32) (s : State) : Res :=
  .next (s.winWrite port 0x200020 (s.on 54) (fun s => s.writeBwFrames v.toNat))

/-- A write of PMC_TEL_Tt: clearing EN discards the buffer (R461). -/
def State.writeTelEn (s : State) (t v : Nat) : State :=
  let s1 := s.wr F.PMC_TEL_Tt.EN t v
  if bit v 0 then s1 else s1.setTel t []

/-- TELEMETRY_EN_WRITE (R461). -/
def execTelemetryEnWrite (port : PortId) (t : TreeId) (v : BitVec 32) (s : State) : Res :=
  .next (s.winWrite port (0x201E00 + t * 4) (s.on (pairOf t)) (fun s => s.writeTelEn t v.toNat))

/-! ### Wear and health (R463 to R465) -/

/-- One domain's measurement: `ratio` is r ÷ r0 in parts per 10^9. -/
def State.measure (s : State) (d ratio : Nat) : State :=
  if !s.on d then s
  else
    let ix := min 4095 ((1000000000 - ratio) / 10000)
    let warn := s.rd F.PMC_HEALTH_CFG.WEAR_WARN 0
    let was := s.flag F.PMC_WEAR_d.VALID d && decide (s.rd F.PMC_WEAR_d.INDEX d ≥ warn)
    let s1 := (s.wr F.PMC_WEAR_d.INDEX d ix).wr F.PMC_WEAR_d.VALID d 1
    if ix ≥ warn ∧ !was then s1.pmcEvent F.PMC_EVENT.WEAR else s1

/-- WEAR_MEASURE (R463): the island measures every domain that is ON; the ratios by domain. -/
def execWearMeasure (ratios : List Nat) (s : State) : Res :=
  .next ((ratios.take 58).zipIdx.foldl (fun (s : State) (e : Nat × Nat) => s.measure e.2 e.1) s)

/-- The newest 64 of a list of points. -/
def lastPoints (l : List Nat) : List Nat := l.drop (l.length - 64)

/-- A point joins each measured domain's and each polled module's points (R464). -/
def State.addPoints (s : State) : State :=
  let s1 := (List.range 58).foldl
    (fun (s : State) d =>
      if s.flag F.PMC_WEAR_d.VALID d then
        s.setMon (fun m => { m with wear := smSet [] m.wear (d, 0) (lastPoints (smGet [] m.wear (d, 0) ++ [s.rd F.PMC_WEAR_d.INDEX d])) })
      else s) s
  s1.setMon (fun m => { m with optics := m.optics.map (fun (e : Key × Optic) =>
    (e.1, { e.2 with first := some (e.2.first.getD e.2.bias), points := lastPoints (e.2.points ++ [e.2.bias]) })) })

/-- Whether some prediction warns (R464). -/
def State.anyWarn (s : State) : List Bool :=
  (List.range 58).map (fun d => s.warns (s.wearPredict d)) ++ s.mon.optics.map (fun e => s.warns (s.opticPredict e.1.1))

/-- HEALTH_POINT (R464): HEALTH sets when a prediction that did not warn does now. -/
def execHealthPoint (s : State) : Res :=
  .next (let before := s.anyWarn
  let s1 := s.addPoints
  (if (before.zip s1.anyWarn).any (fun w => !w.1 && w.2) then s1.pmcEvent F.PMC_EVENT.HEALTH else s1).tickPredict)

/-- The first of a list with the least hours. -/
def leastHours : List (Nat × Nat × Nat) → Option (Nat × Nat × Nat)
  | [] => none
  | x :: r =>
    match leastHours r with
    | none => some x
    | some y => some (if y.2.1 < x.2.1 then y else x)

/-- Corrected errors of the last 24 h at a place of the memory page (R465). -/
def State.corr24 (s : State) (i : Nat) : Nat :=
  (s.mon.corrAt.filter (fun e => decide (e.1 = i ∧ s.rd F.TB_LEDGER.TICKS 0 < e.2 + 86400 * 25000000))).length

/-- HEALTH_REPORT section 0 (R465). -/
def State.healthSummary (s : State) : List Byte :=
  let doms := (List.range 58).map (fun d => (d, s.wearPredict d))
  let opt := (s.mon.optics.filter (fun e => decide (e.2.std ≠ 0))).map (fun (e : Key × Optic) => (e.1.1, s.opticPredict e.1.1))
  let w := (leastHours doms).getD (0, 0xFFFFFFFF, 0)
  let o := (leastHours opt).getD (0xFF, 0xFFFFFFFF, 0)
  let unknown := doms.any (fun (x : Nat × Nat × Nat) => x.2.1 == 0xFFFFFFFF) || opt.any (fun (x : Nat × Nat × Nat) => x.2.1 == 0xFFFFFFFF)
  let wear := (List.range 58).any (fun d => s.flag F.PMC_WEAR_d.VALID d && decide (s.rd F.PMC_WEAR_d.INDEX d ≥ s.rd F.PMC_HEALTH_CFG.WEAR_WARN 0))
  let flags := b2n unknown + b2n s.errOvf * 2 + b2n wear * 4 + b2n (s.anyWarn.any id) * 8
  leBytes 1 w.1 ++ leBytes 1 flags ++ leBytes 1 s.errLog.length ++ zeros 1 ++ leBytes 4 w.2.1 ++ leBytes 1 w.2.2 ++
  leBytes 1 o.1 ++ zeros 2 ++ leBytes 4 o.2.1 ++ [2, 3, 4, 5].flatMap (fun i => leBytes 4 (min (2 ^ 32 - 1) (s.corr24 i))) ++ leBytes 2 s.buf.retired

/-- HEALTH_REPORT section 1: one domain's 8 bytes. -/
def State.healthDomain (s : State) (d : Nat) : List Byte :=
  if d > 57 then zeros 8
  else
    let p := s.wearPredict d
    leBytes 2 (s.rd F.PMC_WEAR_d.INDEX d + s.rd F.PMC_WEAR_d.VALID d * 2 ^ 15) ++ leBytes 4 p.1 ++ leBytes 1 p.2 ++
    leBytes 1 (smGet [] s.mon.wear (d, 0)).length

/-- HEALTH_REPORT section 3. -/
def State.healthOptics (s : State) (t : Nat) : List Byte :=
  let x := s.optic t
  let p := s.opticPredict t
  leBytes 1 t ++ leBytes 1 x.std ++ leBytes 1 x.flags ++ zeros 1 ++ leBytes 2 x.temp ++ leBytes 2 x.supply ++ leBytes 2 x.bias ++
  leBytes 2 x.tx ++ leBytes 2 x.rx ++ zeros 2 ++ leBytes 4 p.1 ++ leBytes 1 p.2 ++ zeros 3 ++ leBytes 8 (f51 x.lastF)

/-- A response padded to 56 bytes. -/
def pad56 (b : List Byte) : List Byte := slice b 0 56

/-- HEALTH_REPORT's own rule (R465). -/
def State.healthReport (s : State) (p : List Byte) : State × Resp :=
  let sec := byteAt p 0
  let ix := byteAt p 1
  if sec > 3 then (s, badArg 0)
  else if (sec = 1 ∧ ix > 57) ∨ (sec = 3 ∧ ix > 95) then (s, badArg 1)
  else if byteAt p 2 > 1 then (s, badArg 2)
  else
    match sec with
    | 0 => (s.tickPredict, okWith (pad56 s.healthSummary))
    | 1 => (s.tickPredict, okWith (pad56 ((List.range 7).flatMap (fun k => s.healthDomain (ix + k)))))
    | 2 =>
      let recs := s.errLog.take 3
      let rest := s.errLog.drop 3
      let b := leBytes 1 recs.length ++ leBytes 1 rest.length ++ leBytes 1 (b2n s.errOvf) ++ zeros 5 ++ recs.flatMap (fun r => slice r 0 16)
      (if bit (byteAt p 2) 0 then { s with errLog := rest, errOvf := s.errOvf && decide (rest ≠ []) } else s, okWith (pad56 b))
    | _ => (s.tickPredict, okWith (pad56 (s.healthOptics ix)))

/-- HEALTH_REPORT (R465). -/
def execHealthReport (src : Src) (s : State) : Res :=
  .next (s.calvan src 0x0901 false true (atOnce (fun s p => s.healthReport p)))

/-! ### Debug (R467 to R470) -/

/-- An unlock fails: the failure counts, and the fourth in a row starts the minute of R468. -/
def State.unlockFail (s : State) (r : Resp) : State × Resp :=
  let n := satAdd 8 (s.rd F.TMX_STATUS.FAILS 0) 1
  let s1 := s.wr F.TMX_STATUS.FAILS 0 n
  (if n = 4 then s1.setMon (fun m => { m with failAt := some (s.rd F.TB_LEDGER.TICKS 0) }) else s1, r)

/-- MODE 1 of DEBUG_UNLOCK (R468, R469): every attempt uses up the nonce. -/
def State.unlock (s : State) (token : Nat) (timely : Bool) : State × Resp :=
  let ch := s.mon.challenge
  let s1 := s.setMon (fun m => { m with challenge := none })
  let now := s.rd F.TB_LEDGER.TICKS 0
  let b := s.hostRead token 256
  if s.dbgLock then s1.unlockFail (refuse stDENIED 4)
  else if s.mon.failAt.any (fun t => decide (now < t + 60 * ledgerSec)) then s1.unlockFail (refuse stDENIED 7)
  else
    match ch with
    | none => s1.unlockFail (conflict 0)
    | some c =>
      if c.expired ∨ now ≥ c.at_ + 60 * ledgerSec then s1.unlockFail (conflict 1)
      else if !timely then s1.unlockFail (refuse stTIMEOUT 0)
      else if leAt b 0 4 ≠ 0x4B544455 then s1.unlockFail (badArg 0x38)
      else if leAt b 8 8 ≠ Config.serial ∨ leAt b 16 16 ≠ c.nonce then s1.unlockFail (refuse stDENIED 5)
      else
        match notAuthentic (byteAt b 4) (slice b 32 97) (slice b 0 160) (slice b 160 96) with
        | some d => s1.unlockFail (refuse stDENIED d)
        | none =>
          let hours := leAt b 6 2
          let ends := (now + hours * 3600 * ledgerSec) % 2 ^ 64
          let s2 := ((s1.wr F.TMX_STATUS.FAILS 0 0).wr F.TMX_STATUS.UNLOCKED 0 1).wr F.TMX_EXPIRY.TICKS 0 ends
          ((s2.setMon (fun m => { m with failAt := none })).pmcEvent F.PMC_EVENT.TMX,
            okWith (slice b 5 1 ++ zeros 1 ++ leBytes 2 hours ++ zeros 4 ++ leBytes 8 ends))

/-- DEBUG_UNLOCK's own rule (R468). -/
def State.debugUnlock (s : State) (p : List Byte) (timely : Bool) : State × Resp :=
  match byteAt p 0 with
  | 0 =>
    let n := s.free 128
    ((s.tickFree).setMon (fun m => { m with challenge := some ⟨n, false, s.rd F.TB_LEDGER.TICKS 0⟩ }), okWith (leBytes 8 Config.serial ++ leBytes 16 n ++ leBytes 2 60))
  | 1 => if leAt p 8 8 % 16 ≠ 0 then (s, badArg 8) else s.unlock (leAt p 8 8) timely
  | 2 => (s.tmxLock, okWith [])
  | _ => (s, badArg 0)

/-- DEBUG_UNLOCK (R468). -/
def execDebugUnlock (src : Src) (timely : Bool) (s : State) : Res :=
  .next (s.calvan src 0x0903 false true (atOnce (fun s p => s.debugUnlock p timely)))

/-- NONCE_EXPIRY (R468): 60 s after the challenge. -/
def execNonceExpiry (s : State) : Res :=
  .next (s.setMon (fun m => { m with challenge := m.challenge.map (fun c =>
    if s.rd F.TB_LEDGER.TICKS 0 ≥ c.at_ + 60 * ledgerSec then { c with expired := true } else c) }))

/-- TMX_UNLOCK_EXPIRY (R468): the ledger has reached TMX_EXPIRY. -/
def execTmxUnlockExpiry (s : State) : Res :=
  .next (if s.rd F.TMX_EXPIRY.TICKS 0 ≤ s.rd F.TB_LEDGER.TICKS 0 then s.tmxLock else s)

end Sys2Proof.Machine
end

