-- ==== Sys2Proof/Machine/Window.lean ====
section
/-! DEFINITION. Accesses to the register window by the host ports (01_boundary.md R30 to R34): a write dispatched to the
register it names, and the reads. A register without behaviour of its own takes its RW, W1C and W1S fields (R8). -/

namespace Sys2Proof.Machine

/-- Whether a rake channel's program registers take a write: IDLE or HALTED, and not held by the control processor
(R326, R336). -/
def State.progOpen (s : State) (c : Nat) : Bool :=
  !s.flag F.DMA_CHn_STATUS.OWNED c && (s.chState c == chIDLE || s.chState c == chHALTED)

/-- A write of a register that takes a short tuple is ignored where its phase is invalid (R56). -/
def State.writeTuple (s : State) (r : RegInfo) (i v : Nat) : State :=
  if (phaseWord (bits v 0 25)).isNone then s else s.writeFields r.flds i v

/-- A write of a rake channel's block (R56, R326, R328, R336). -/
def State.writeDma (s : State) (r : RegInfo) (c o v : Nat) : State :=
  if o = 0x40 then s.writeDmaCtl c v
  else if o = 0x80 then s.rakeKick c
  else if o < 0x40 then (if s.progOpen c then s.writeFields r.flds c v else s)
  else if s.flag F.DMA_CHn_STATUS.OWNED c then s
  else if o = 0x60 then s.writeTuple r c v
  else s.writeFields r.flds c v

/-- A write of TRE_US_REACH (R130): in DISABLED only; TRE_US_TEQD follows it. -/
def State.writeReach (s : State) (t v : Nat) : State :=
  if s.tstate t ≠ trDISABLED then s
  else
    let s1 := s.writeFields [F.TRE_US_REACH.MIN_KM, F.TRE_US_REACH.DIFF_KM] t v
    s1.wr F.TRE_US_TEQD.NS t (10000 * (s1.minKm t + s1.diffKm t) + 40000)

/-- A write of TIDE_CTL (R48, R51, R53): the source's offset and the FAR limit act at once. -/
def State.writeTideCtl (s : State) (v : Nat) : State :=
  ((s.writeFields [F.TIDE_CTL.SRC, F.TIDE_CTL.PEER, F.TIDE_CTL.FAR_LIMIT] 0 v).peerTide).checkFar

/-- A write of MBX_n_REQ (R339): ignored while BUSY. -/
def State.writeMbxReq (s : State) (i v : Nat) : State :=
  if s.flag F.MBX_n_STATUS.BUSY (i / 16) then s.wr F.MBX_n_STATUS.REJECTED (i / 16) 1 else s.wr F.MBX_n_REQ.DATA i v

/-- A write of TMX_CTL (R467): ignored while the multiplexer is locked. -/
def State.writeTmxCtl (s : State) (r : RegInfo) (v : Nat) : State :=
  if s.flag F.TMX_STATUS.UNLOCKED 0 then s.writeFields r.flds 0 v else s

/-- The bits a write of a register may carry: CHAIN of an even counter (R448) and the grants of the control pages (R459)
stay 0. -/
def writable (base i v : Nat) : Nat :=
  if (base = 0x200400 ∨ base = 0x1034020) ∧ i % 2 = 0 then v &&& (2 ^ 32 - 1 - 2 ^ 13)
  else if base = 0x200040 ∧ i = 0 then v &&& (2 ^ 32 - 4)
  else v

/-- A write of a register outside the rake and fabric blocks, by the register it names. -/
def State.writeNamed (s : State) (r : RegInfo) (i v : Nat) : State :=
  match r.base with
  | 0x8 => s.writeGlbCtl v
  | 0x1001C => (s.writeFields r.flds i v).ppsBack
  | 0x10050 => s.tbSet i v
  | 0x10058 => s.tbAdj i v
  | 0x10060 => s.tbRate i v
  | 0x10100 => s.tideOrigin v
  | 0x10118 => s.writeTideCtl v
  | 0x10148 => s.todCtl i v
  | 0x20000 => s.writeMbxReq i v
  | 0x20080 => if bit v 0 then s.mailboxGo i else s
  | 0x38000 => s.writeVecCfg i v
  | 0x40008 => s.pwrWake v
  | 0x40F00 => s.writePol i v
  | 0x60008 => if bit v 0 ∧ s.fdState = fdADDRESSED then s.releaseAddr false else s
  | 0x60100 => s.writeLinkEn i v
  | 0x68004 => s.writeSluCtl v
  | 0x80104 => s.writeReach i v
  | 0x80128 => s.writeSnInfo i v
  | 0x80384 => s.writeModCmd i v
  | 0x200010 => s.writeSnapCtl v
  | 0x200018 => s.writeTuple r i v
  | 0x200020 => s.writeBwFrames v
  | 0x201E00 => s.writeTelEn i v
  | 0x2000000 => s.writeTmxCtl r v
  | _ => s.writeFields r.flds i (writable r.base i v)

/-- A write of the right width to a register whose domain is ON. -/
def State.writeReg (s : State) (r : RegInfo) (i off v : Nat) : State :=
  if 0x50000 ≤ off ∧ off < 0x54000 then s.writeDma r i (off % 0x100) v else s.writeNamed r i v

/-- A write that no register takes at its offset: the high half of a 64-bit register is a width error, anything else a
reserved offset (R31). -/
def State.writeNowhere (s : State) (off port width : Nat) (half : Bool) : State :=
  s.accessErr (if half && width == 4 && off % 8 == 4 then 1 else 0) off port

/-- A write of a group page is ignored (R444); its errors are those of R31 and R32. -/
def State.writeGroup (s : State) (off port width : Nat) : State :=
  let p := (off - 0x200000) / 0x1000
  let o := off % 0x1000
  match s.groupWord p o with
  | some (bytes, _, on) => if width ≠ bytes then s.accessErr 1 off port else if on then s else s.accessErr 2 off port
  | none => s.writeNowhere off port width (o % 8 == 4 && (s.groupWord p (o - 4)).any (fun w => w.1 == 8))

/-- A write at an offset of the register space, by the register found there. -/
def State.writeAt (s : State) (off port width v : Nat) : State :=
  match regAt off with
  | some (r, i) =>
    if width ≠ r.bytes then s.accessErr 1 off port
    else if r.base = 0x100000 then s.writeDoorbell i v 0
    else if !s.regOn r i then s.accessErr 2 off port
    else s.writeReg r i off v
  | none => s.writeNowhere off port width ((regAt (off - 4)).any (fun x => x.1.bytes == 8))

/-- A write of an engine's control store, work memory or tables from outside: they are read-only (R216). -/
def State.writeEngWindow (s : State) (off port width : Nat) : State :=
  if width = 8 then s.accessErr 1 off port
  else if !s.on (engDom ((off - 0x1000000) / 0x40000)) then s.accessErr 2 off port
  else s

/-- A write of the window by a host port (R31, R32, R459). While the island is in reset nothing answers (R37). -/
def State.windowWrite (s : State) (port off width v : Nat) (user : Bool) : State :=
  if !s.bnd.oscOk then s
  else if (width ≠ 4 ∧ width ≠ 8) ∨ off % width ≠ 0 then s.accessErr 1 off port
  else if off ≥ 0x4000000 then s.accessErr 0 off port
  else if user && inPmc off && s.on 54 then s.denyUser off
  else if 0x202000 ≤ off ∧ off < 0x2B3000 then s.writeGroup off port width
  else if 0x1000000 ≤ off ∧ off < 0x2000000 ∧ inEngWindow (off % 0x40000) then s.writeEngWindow off port width
  else s.writeAt off port width (v % 2 ^ (8 * width))

/-- REGISTER_WRITE (R8, R31, R32): a write of the window; at a register with a row of its own it has that row's effect. -/
def execRegisterWrite (port : PortId) (off width : Nat) (v : BitVec 64) (user : Bool) (s : State) : Res :=
  .next (s.windowWrite port off width v.toNat user)

/-- HALF_READ_LATCH (R31): a 32-bit read; at the low half of a 64-bit register it latches the high half for the port. -/
def execHalfReadLatch (port : PortId) (off : Nat) (user : Bool) (s : State) : Res :=
  .next (s.hostReadWindow port off 4 user)

/-- READ_CLEAR (R8): a read of the window; RC fields read clear. -/
def execReadClear (port : PortId) (off width : Nat) (user : Bool) (s : State) : Res :=
  .next (s.hostReadWindow port off width user)

end Sys2Proof.Machine
end

