-- ==== Sys2Proof/Machine/Dispatch.lean ====
section
/-! DEFINITION. One arm per command: each is one direct call of its meaning. -/

namespace Sys2Proof.Machine

/-- What a command does to everything but the queue. -/
def exec (i : Instr) (s : State) : Host.Outcome State Fault Refusal :=
  match i with
  | .devInfo src => Sys2Proof.Machine.execDevInfo src s
  | .hostSleepNotice src => Sys2Proof.Machine.execHostSleepNotice src s
  | .ringCreate src => Sys2Proof.Machine.execRingCreate src s
  | .ringDestroy src => Sys2Proof.Machine.execRingDestroy src s
  | .ringDisable src => Sys2Proof.Machine.execRingDisable src s
  | .evqCreate src => Sys2Proof.Machine.execEvqCreate src s
  | .bufferConfig src => Sys2Proof.Machine.execBufferConfig src s
  | .bufferStatus src => Sys2Proof.Machine.execBufferStatus src s
  | .queueProfile src => Sys2Proof.Machine.execQueueProfile src s
  | .queueSet src => Sys2Proof.Machine.execQueueSet src s
  | .queueStatus src => Sys2Proof.Machine.execQueueStatus src s
  | .treeConfig src => Sys2Proof.Machine.execTreeConfig src s
  | .treeEnable src => Sys2Proof.Machine.execTreeEnable src s
  | .burstProfile src => Sys2Proof.Machine.execBurstProfile src s
  | .terminalAdd src => Sys2Proof.Machine.execTerminalAdd src s
  | .terminalSet src => Sys2Proof.Machine.execTerminalSet src s
  | .terminalRemove src => Sys2Proof.Machine.execTerminalRemove src s
  | .terminalStatus src => Sys2Proof.Machine.execTerminalStatus src s
  | .flowSet src => Sys2Proof.Machine.execFlowSet src s
  | .quench src => Sys2Proof.Machine.execQuench src s
  | .allocSet src => Sys2Proof.Machine.execAllocSet src s
  | .tableInsert src => Sys2Proof.Machine.execTableInsert src s
  | .tableDelete src => Sys2Proof.Machine.execTableDelete src s
  | .tableDump src => Sys2Proof.Machine.execTableDump src s
  | .tableProfile src => Sys2Proof.Machine.execTableProfile src s
  | .tableConfig src => Sys2Proof.Machine.execTableConfig src s
  | .tableStatus src => Sys2Proof.Machine.execTableStatus src s
  | .filterSet src => Sys2Proof.Machine.execFilterSet src s
  | .timeSelect src => Sys2Proof.Machine.execTimeSelect src s
  | .pwrRequest src => Sys2Proof.Machine.execPwrRequest src s
  | .pwrStatus src => Sys2Proof.Machine.execPwrStatus src s
  | .protPair src => Sys2Proof.Machine.execProtPair src s
  | .protSwitch src => Sys2Proof.Machine.execProtSwitch src s
  | .protStatus src => Sys2Proof.Machine.execProtStatus src s
  | .fabStatus src => Sys2Proof.Machine.execFabStatus src s
  | .fwLoad src => Sys2Proof.Machine.execFwLoad src s
  | .fwStart src => Sys2Proof.Machine.execFwStart src s
  | .fwStatus src => Sys2Proof.Machine.execFwStatus src s
  | .healthReport src => Sys2Proof.Machine.execHealthReport src s
  | .counterSnapshot src => Sys2Proof.Machine.execCounterSnapshot src s
  | .debugUnlock src timely => Sys2Proof.Machine.execDebugUnlock src timely s
  | .keyStage src => Sys2Proof.Machine.execKeyStage src s
  | .keySwitchAt src => Sys2Proof.Machine.execKeySwitchAt src s
  | .keyErase src => Sys2Proof.Machine.execKeyErase src s
  | .tableBulkInsertDone => Sys2Proof.Machine.execTableBulkInsertDone s
  | .tableDumpDone => Sys2Proof.Machine.execTableDumpDone s
  | .patternDeleteDone => Sys2Proof.Machine.execPatternDeleteDone s
  | .fwLoadReadDone src timedOut => Sys2Proof.Machine.execFwLoadReadDone src timedOut s
  | .flowHarvestDone => Sys2Proof.Machine.execFlowHarvestDone s
  | .protHandshakeDone t timedOut => Sys2Proof.Machine.execProtHandshakeDone t timedOut s
  | .engineRecoveryDone e pass => Sys2Proof.Machine.execEngineRecoveryDone e pass s
  | .mbxGo port n errs => Sys2Proof.Machine.execMbxGo port n errs s
  | .softReset port v => Sys2Proof.Machine.execSoftReset port v s
  | .txdisAll port v => Sys2Proof.Machine.execTxdisAll port v s
  | .treModCmdStart port t v => Sys2Proof.Machine.execTreModCmdStart port t v s
  | .modTransactionDone bus ack data optics => Sys2Proof.Machine.execModTransactionDone bus ack data optics s
  | .clockStretchTimeout bus => Sys2Proof.Machine.execClockStretchTimeout bus s
  | .modulePoll => Sys2Proof.Machine.execModulePoll s
  | .treUsSnPop port t v => Sys2Proof.Machine.execTreUsSnPop port t v s
  | .tbSet port x v => Sys2Proof.Machine.execTbSet port x v s
  | .tbAdj port x v => Sys2Proof.Machine.execTbAdj port x v s
  | .tbRateWrite port x v => Sys2Proof.Machine.execTbRateWrite port x v s
  | .tideOriginWrite port v => Sys2Proof.Machine.execTideOriginWrite port v s
  | .todArm port slot v => Sys2Proof.Machine.execTodArm port slot v s
  | .doorbell port ring v bus => Sys2Proof.Machine.execDoorbell port ring v bus s
  | .dmaStart port ch v => Sys2Proof.Machine.execDmaStart port ch v s
  | .dmaResume port ch v => Sys2Proof.Machine.execDmaResume port ch v s
  | .dmaFence port ch v => Sys2Proof.Machine.execDmaFence port ch v s
  | .dmaDisable port ch v => Sys2Proof.Machine.execDmaDisable port ch v s
  | .dmaKick port ch v => Sys2Proof.Machine.execDmaKick port ch v s
  | .sluSwap port v => Sys2Proof.Machine.execSluSwap port v s
  | .sluRetest port v => Sys2Proof.Machine.execSluRetest port v s
  | .fabReclaim port v => Sys2Proof.Machine.execFabReclaim port v s
  | .pwrWake port v => Sys2Proof.Machine.execPwrWake port v s
  | .snapNow port v => Sys2Proof.Machine.execSnapNow port v s
  | .snapArm port v => Sys2Proof.Machine.execSnapArm port v s
  | .snapDisarm port v => Sys2Proof.Machine.execSnapDisarm port v s
  | .vectorUnmask port vec v => Sys2Proof.Machine.execVectorUnmask port vec v s
  | .eqOverflowClear port q v => Sys2Proof.Machine.execEqOverflowClear port q v s
  | .registerWrite port off width v user => Sys2Proof.Machine.execRegisterWrite port off width v user s
  | .halfReadLatch port off user => Sys2Proof.Machine.execHalfReadLatch port off user s
  | .readClear port off width user => Sys2Proof.Machine.execReadClear port off width user s
  | .legacyRead port => Sys2Proof.Machine.execLegacyRead port s
  | .csWindowRead port e off errs => Sys2Proof.Machine.execCsWindowRead port e off errs s
  | .islandColdReset byPin => Sys2Proof.Machine.execIslandColdReset byPin s
  | .islandResetRelease => Sys2Proof.Machine.execIslandResetRelease s
  | .oscillatorStable bus dbgLock => Sys2Proof.Machine.execOscillatorStable bus dbgLock s
  | .complexReset => Sys2Proof.Machine.execComplexReset s
  | .complexResetRelease => Sys2Proof.Machine.execComplexResetRelease s
  | .mbxReady => Sys2Proof.Machine.execMbxReady s
  | .siteTrained site => Sys2Proof.Machine.execSiteTrained site s
  | .tableEngineInitDone => Sys2Proof.Machine.execTableEngineInitDone s
  | .ppsInEdge x => Sys2Proof.Machine.execPpsInEdge x s
  | .ppsOutEdge => Sys2Proof.Machine.execPpsOutEdge s
  | .coreClockChange code => Sys2Proof.Machine.execCoreClockChange code s
  | .freqHoldoverChange on => Sys2Proof.Machine.execFreqHoldoverChange on s
  | .tideJump => Sys2Proof.Machine.execTideJump s
  | .ledgerCalibration => Sys2Proof.Machine.execLedgerCalibration s
  | .lightAccepted t => Sys2Proof.Machine.execLightAccepted t s
  | .sentinelRearm t => Sys2Proof.Machine.execSentinelRearm t s
  | .wakeDelimiterMatch t rx => Sys2Proof.Machine.execWakeDelimiterMatch t rx s
  | .fabricActivityWake => Sys2Proof.Machine.execFabricActivityWake s
  | .brownOutWarning mv => Sys2Proof.Machine.execBrownOutWarning mv s
  | .brownOutClear mv => Sys2Proof.Machine.execBrownOutClear mv s
  | .bbOver mv => Sys2Proof.Machine.execBbOver mv s
  | .laneLockLost t => Sys2Proof.Machine.execLaneLockLost t s
  | .domainPowerLoss d => Sys2Proof.Machine.execDomainPowerLoss d s
  | .polRailReady k => Sys2Proof.Machine.execPolRailReady k s
  | .polRailTimeout d => Sys2Proof.Machine.execPolRailTimeout d s
  | .lockstepMismatch => Sys2Proof.Machine.execLockstepMismatch s
  | .cpRestartDone digestOk => Sys2Proof.Machine.execCpRestartDone digestOk s
  | .cipherEraseNotice slots => Sys2Proof.Machine.execCipherEraseNotice slots s
  | .dsFrameStart t => Sys2Proof.Machine.execDsFrameStart t s
  | .mapLatch t => Sys2Proof.Machine.execMapLatch t s
  | .drawFrame t cell => Sys2Proof.Machine.execDrawFrame t cell s
  | .keySwap slot => Sys2Proof.Machine.execKeySwap slot s
  | .retiredBankExpire slot => Sys2Proof.Machine.execRetiredBankExpire slot s
  | .treeStart t => Sys2Proof.Machine.execTreeStart t s
  | .treeDormant t => Sys2Proof.Machine.execTreeDormant t s
  | .surveyWake t => Sys2Proof.Machine.execSurveyWake t s
  | .surveyEnd t => Sys2Proof.Machine.execSurveyEnd t s
  | .ploamHeldQueued t => Sys2Proof.Machine.execPloamHeldQueued t s
  | .burstProfileAnnounce t => Sys2Proof.Machine.execBurstProfileAnnounce t s
  | .stagingRefill t term cls errs => Sys2Proof.Machine.execStagingRefill t term cls errs s
  | .orphanReclaim => Sys2Proof.Machine.execOrphanReclaim s
  | .rxrstPulse t => Sys2Proof.Machine.execRxrstPulse t s
  | .burstHunt t seen => Sys2Proof.Machine.execBurstHunt t seen s
  | .reassemblyTimeout t alloc => Sys2Proof.Machine.execReassemblyTimeout t alloc s
  | .serialNumberReceived t serial rates => Sys2Proof.Machine.execSerialNumberReceived t serial rates s
  | .rangingResponse t term rtd => Sys2Proof.Machine.execRangingResponse t term rtd s
  | .rangingFailed t term => Sys2Proof.Machine.execRangingFailed t term s
  | .terminalOperation t term => Sys2Proof.Machine.execTerminalOperation t term s
  | .registrationIdReceived t term regId => Sys2Proof.Machine.execRegistrationIdReceived t term regId s
  | .terminalLost t term => Sys2Proof.Machine.execTerminalLost t term s
  | .lostLimit t term => Sys2Proof.Machine.execLostLimit t term s
  | .recordUnused t term => Sys2Proof.Machine.execRecordUnused t term s
  | .upstreamPloamReceived t term msg micOk => Sys2Proof.Machine.execUpstreamPloamReceived t term msg micOk s
  | .sleepRequest t term mode => Sys2Proof.Machine.execSleepRequest t term mode s
  | .sleepWindowBoundary t term => Sys2Proof.Machine.execSleepWindowBoundary t term s
  | .rogueFrame t light => Sys2Proof.Machine.execRogueFrame t light s
  | .isolationSweepStep t => Sys2Proof.Machine.execIsolationSweepStep t s
  | .mapBuild t wrong => Sys2Proof.Machine.execMapBuild t wrong s
  | .mapRelease t => Sys2Proof.Machine.execMapRelease t s
  | .sluiceUnitFault u cause => Sys2Proof.Machine.execSluiceUnitFault u cause s
  | .sluiceSelfTestDone u pass => Sys2Proof.Machine.execSluiceSelfTestDone u pass s
  | .sluiceRetestTimer u => Sys2Proof.Machine.execSluiceRetestTimer u s
  | .sluiceHot u => Sys2Proof.Machine.execSluiceHot u s
  | .forecastRecord ring => Sys2Proof.Machine.execForecastRecord ring s
  | .trunkIngress lane hdr frame => Sys2Proof.Machine.execTrunkIngress lane hdr frame s
  | .lookupDownstream reads => Sys2Proof.Machine.execLookupDownstream reads s
  | .lookupUpstream reads => Sys2Proof.Machine.execLookupUpstream reads s
  | .learnApply => Sys2Proof.Machine.execLearnApply s
  | .ageingSweep => Sys2Proof.Machine.execAgeingSweep s
  | .tableScrub mem bucket slot obs => Sys2Proof.Machine.execTableScrub mem bucket slot obs s
  | .trunkSend lane => Sys2Proof.Machine.execTrunkSend lane s
  | .creditReturn lane cls count => Sys2Proof.Machine.execCreditReturn lane cls count s
  | .feNotReady => Sys2Proof.Machine.execFeNotReady s
  | .feReady => Sys2Proof.Machine.execFeReady s
  | .spillWrite lane cls => Sys2Proof.Machine.execSpillWrite lane cls s
  | .spillReadback lane cls => Sys2Proof.Machine.execSpillReadback lane cls s
  | .txDescriptor ring bus errs => Sys2Proof.Machine.execTxDescriptor ring bus errs s
  | .txWaitResume ring busErr => Sys2Proof.Machine.execTxWaitResume ring busErr s
  | .rxDeliver ring busErr cell => Sys2Proof.Machine.execRxDeliver ring busErr cell s
  | .rxHoldExpire ring => Sys2Proof.Machine.execRxHoldExpire ring s
  | .ringIdle ring => Sys2Proof.Machine.execRingIdle ring s
  | .eventPost q busErr => Sys2Proof.Machine.execEventPost q busErr s
  | .vectorTimer vec => Sys2Proof.Machine.execVectorTimer vec s
  | .rakeBurst port => Sys2Proof.Machine.execRakeBurst port s
  | .rakeBurstError ch cause => Sys2Proof.Machine.execRakeBurstError ch cause s
  | .rakeArmedStart ch => Sys2Proof.Machine.execRakeArmedStart ch s
  | .peripheralRequestRise ch => Sys2Proof.Machine.execPeripheralRequestRise ch s
  | .fenceDone ch => Sys2Proof.Machine.execFenceDone ch s
  | .fenceTimeout ch acked => Sys2Proof.Machine.execFenceTimeout ch acked s
  | .engineEvent e line payload => Sys2Proof.Machine.execEngineEvent e line payload s
  | .routineEntry e => Sys2Proof.Machine.execRoutineEntry e s
  | .next e obs => Sys2Proof.Machine.execNext e obs s
  | .jump e obs => Sys2Proof.Machine.execJump e obs s
  | .brt e obs => Sys2Proof.Machine.execBrt e obs s
  | .brf e obs => Sys2Proof.Machine.execBrf e obs s
  | .call e obs => Sys2Proof.Machine.execCall e obs s
  | .ret e obs => Sys2Proof.Machine.execRet e obs s
  | .wait e obs => Sys2Proof.Machine.execWait e obs s
  | .commit e obs => Sys2Proof.Machine.execCommit e obs s
  | .end_ e obs => Sys2Proof.Machine.execEnd e obs s
  | .halt e obs => Sys2Proof.Machine.execHalt e obs s
  | .mopResult e reg value errs err => Sys2Proof.Machine.execMopResult e reg value errs err s
  | .portTimeout e => Sys2Proof.Machine.execPortTimeout e s
  | .routineWatchdog e => Sys2Proof.Machine.execRoutineWatchdog e s
  | .dispatchOpcode e => Sys2Proof.Machine.execDispatchOpcode e s
  | .engineStart e => Sys2Proof.Machine.execEngineStart e s
  | .engineStop e => Sys2Proof.Machine.execEngineStop e s
  | .engineLoadDone e ok => Sys2Proof.Machine.execEngineLoadDone e ok s
  | .csScrub e word obs => Sys2Proof.Machine.execCsScrub e word obs s
  | .samplerFire e => Sys2Proof.Machine.execSamplerFire e s
  | .domainEntryDone d => Sys2Proof.Machine.execDomainEntryDone d s
  | .domainStageReady d => Sys2Proof.Machine.execDomainStageReady d s
  | .idleTimer d => Sys2Proof.Machine.execIdleTimer d s
  | .scheduledRequest d => Sys2Proof.Machine.execScheduledRequest d s
  | .startupPowerRequest => Sys2Proof.Machine.execStartupPowerRequest s
  | .blockLockChange lane blocks los => Sys2Proof.Machine.execBlockLockChange lane blocks los s
  | .codewordLock link skew words => Sys2Proof.Machine.execCodewordLock link skew words s
  | .codewordReceived link blocks => Sys2Proof.Machine.execCodewordReceived link blocks s
  | .helloSend link => Sys2Proof.Machine.execHelloSend link s
  | .helloReceived link h => Sys2Proof.Machine.execHelloReceived link h s
  | .helloDead link => Sys2Proof.Machine.execHelloDead link s
  | .cellReceived link cell => Sys2Proof.Machine.execCellReceived link cell s
  | .claimReceived link cell => Sys2Proof.Machine.execClaimReceived link cell s
  | .claimRepeat => Sys2Proof.Machine.execClaimRepeat s
  | .claimTimer => Sys2Proof.Machine.execClaimTimer s
  | .unaddressedTimer => Sys2Proof.Machine.execUnaddressedTimer s
  | .routeReceived link cell => Sys2Proof.Machine.execRouteReceived link cell s
  | .routePeriodic => Sys2Proof.Machine.execRoutePeriodic s
  | .routeAgeOut => Sys2Proof.Machine.execRouteAgeOut s
  | .routeRecompute => Sys2Proof.Machine.execRouteRecompute s
  | .leaseRequestReceived m => Sys2Proof.Machine.execLeaseRequestReceived m s
  | .leaseAnswerReceived t m => Sys2Proof.Machine.execLeaseAnswerReceived t m s
  | .tideCellSend link => Sys2Proof.Machine.execTideCellSend link s
  | .tideCellReceived link c => Sys2Proof.Machine.execTideCellReceived link c s
  | .remoteAccessReceived m => Sys2Proof.Machine.execRemoteAccessReceived m s
  | .remoteRspReceived m => Sys2Proof.Machine.execRemoteRspReceived m s
  | .digestReceived t f body => Sys2Proof.Machine.execDigestReceived t f body s
  | .statusReceived t f body => Sys2Proof.Machine.execStatusReceived t f body s
  | .deltaReceived t f body gap => Sys2Proof.Machine.execDeltaReceived t f body gap s
  | .copyReceived t f body gap => Sys2Proof.Machine.execCopyReceived t f body gap s
  | .handshakeReceived t h => Sys2Proof.Machine.execHandshakeReceived t h s
  | .leaveReceived t f dissolve => Sys2Proof.Machine.execLeaveReceived t f dissolve s
  | .tableSyncReceived pair payload gap => Sys2Proof.Machine.execTableSyncReceived pair payload gap s
  | .leaseRequestTimer t => Sys2Proof.Machine.execLeaseRequestTimer t s
  | .leaseExpire t => Sys2Proof.Machine.execLeaseExpire t s
  | .takingTimeout t => Sys2Proof.Machine.execTakingTimeout t s
  | .snapshotAt => Sys2Proof.Machine.execSnapshotAt s
  | .wearMeasure ratios => Sys2Proof.Machine.execWearMeasure ratios s
  | .healthPoint => Sys2Proof.Machine.execHealthPoint s
  | .nonceExpiry => Sys2Proof.Machine.execNonceExpiry s
  | .tmxUnlockExpiry => Sys2Proof.Machine.execTmxUnlockExpiry s
  | .fabLinkEnWrite port link v => Sys2Proof.Machine.execFabLinkEnWrite port link v s
  | .polRailWrite port k v => Sys2Proof.Machine.execPolRailWrite port k v s
  | .bwFramesWrite port v => Sys2Proof.Machine.execBwFramesWrite port v s
  | .telemetryEnWrite port t v => Sys2Proof.Machine.execTelemetryEnWrite port t v s
  | .quenchFromPartner t body => Sys2Proof.Machine.execQuenchFromPartner t body s

end Sys2Proof.Machine
end

