-- ==== Sys2Proof/Safety.lean ====
section
/-! DEFINITION. The terms the claims use: a command that completes with a property, what a command leaves as it was, a
Calvan command that is carried out, and a well-kept state. -/

namespace Sys2Proof.Machine

/-- The command completes: it answers a next state, and that state has the property. -/
def Runs (c : Instr) (s : State) (P : State → Prop) : Prop := ∃ t, exec c s = .next t ∧ P t

/-- Every register field that is none of `L`, at every index, reads in `t` as in `s`. The fields are numbered below 1000
(Machine/RegTable.lean). -/
def Leaves (L : List Fld) (s t : State) : Prop :=
  ∀ (f : Fld) (i : Nat), f.num < 1000 → (∀ g ∈ L, f.num ≠ g.num) → t.rd f i = s.rd f i

/-- Both byte memories are the same in `t` as in `s`. -/
def SameMemory (s t : State) : Prop := t.hostMem = s.hostMem ∧ t.scratch = s.scratch

/-- The command writes no register field but those of `L`, and neither memory. -/
def Frames (L : List Fld) (c : Instr) (s : State) : Prop := ∀ t, exec c s = .next t → Leaves L s t ∧ SameMemory s t

/-- The command writes no register field but those of `L`; it may store to memory. -/
def FramesRegs (L : List Fld) (c : Instr) (s : State) : Prop := ∀ t, exec c s = .next t → Leaves L s t

/-- The fields an interrupt event may write: the vector's count, timer and pending bit, the mask AUTOMASK sets (R305), and
the programmable counters with their overflow bits (R446, R466). -/
def eventFields : List Fld :=
  [F.IRQ_VEC_STATE.EVENTS, F.IRQ_VEC_STATE.TIMING, F.IRQ_VEC_STATE.PEND, F.IRQ_VEC_CFG.MASK, F.PMC_CNTk.COUNT,
   F.PMC_SELk.OVF, F.PMC_EVENT.CNT_OVF]

/-- The fields an erroneous window access may write (R31, R32, R34). -/
def windowFields : List Fld :=
  [F.GLB_STATUS.STRAY, F.GLB_STATUS.BADACC, F.GLB_STATUS.DOMACC, F.GLB_WIN_ERR.OFFSET, F.GLB_WIN_ERR.KIND,
   F.GLB_WIN_ERR.PORT, F.GLB_WIN_ERR.VALID]

/-- The fields an answered command may write: the response and status of its mailbox, or the ADMIN ring's head, counts and
summary (R285, R293, R302, R339). -/
def answerFields : List Fld :=
  [F.MBX_n_RSP.DATA, F.MBX_n_STATUS.BUSY, F.MBX_n_STATUS.DONE, F.MBX_n_STATUS.REPLAYED, F.MBX_EVENT.DONE,
   F.DB_HEAD.HEAD, F.DB_EARLY.COUNT, F.DB_DONE.COUNT, F.IRQ_RING_SUMMARY.RINGS]

/-- A Calvan request of this code waits at the source whose turn it is, is no replay, and passes the checks before the
command's own (R342, R348, R350); `p` is its payload, zeros past LENGTH (R345). `boot` and `restricted` say whether R351
marks the command for those service states. -/
def Given (s : State) (src : Src) (code : Nat) (boot restricted : Bool) (p : List Byte) : Prop :=
  ∃ req, s.takes src code req = true ∧ s.replayOf src req = none ∧ s.headerCheck req boot restricted = none ∧
    payloadOf req = p

/-- The command is taken and answered `r` at once: `u`, with the property, is the state its rule leaves when the response
is written; the commands without a row that are then next are answered too (R342, R346, R348). -/
def Serves (c : Instr) (s : State) (src : Src) (r : Resp) (P : State → Prop) : Prop :=
  ∃ u, exec c s = .next (u.answer src r).pumpAll ∧ P u

/-- The same of a command that carries a key: once it is answered, its key bytes are zeroed where the request stands (R89). -/
def ServesKey (c : Instr) (s : State) (src : Src) (r : Resp) (P : State → Prop) : Prop :=
  ∃ u, exec c s = .next ((u.answer src r).pumpAll.scrubKey src s.admReq) ∧ P u

/-- The command is taken and its work goes on; its response comes with a later row. -/
def Begins (c : Instr) (s : State) (P : State → Prop) : Prop := ∃ u, exec c s = .next u.pumpAll ∧ P u

/-- Both memories are in their canonical form. -/
def State.memInv (s : State) : Prop := Memory.wf s = true

/-- The registers that hold a mode or state, with the highest code the spec gives each: power states (R421), tree states
(R101), rings (R282), rake channels (R319), the service state (R352), Sluice units (R177), engines (R208), protection (R412). -/
def modeFields : List (Fld × Nat) :=
  [(F.PWR_Dd_STATE.STATE, 4), (F.TRE_STATE.STATE, 4), (F.DB_STATUS.STATE, 5), (F.DMA_CHn_STATUS.STATE, 5),
   (F.MBX_DEVSTATE.STATE, 4), (F.SLU_STATUS.A_STATE, 4), (F.SLU_STATUS.B_STATE, 4), (F.PE_STATUS.STATE, 5),
   (F.PROT_Tt_STATE.PSTATE, 8)]

/-- Every mode register holds a code the spec gives it. -/
def State.modes (s : State) : Prop := ∀ e ∈ modeFields, ∀ i, s.rd e.1 i ≤ e.2

end Sys2Proof.Machine
end

