-- ==== Sys2Proof/Certificates/Slice0/Obligations.lean ====
section
/-! DEFINITION. The statements for the provers, in the order of the chapters of the spec. `Runs`, `Serves` and `Begins`
say that a command answers a next state; `Frames` and `FramesRegs` say what it leaves alone (Safety.lean). -/

open Sys2Proof Sys2Proof.Machine

/-! ### The machine as a whole -/

/-- A step takes the command at the front of the queue: it is that command's effect, with the queue's rest left waiting
(accesses are served in order of arrival, R33). -/
def Obligations.StepTakesFrontCommand : Prop :=
  ∀ (c : Instr) (rest : List Instr) (s : State), step { s with pending := c :: rest } = exec c { s with pending := rest }

/-- With no command waiting a step is one core cycle (DESIGN CHOICE, log entry 5): nothing while the oscillator does not run;
else the CTC advances by TB_STEP modulo 2^96 while the timebase is ON, and stands while it is not (R41), the ledger counts
whole 40 ns periods of core-clock time (R70; the model's choice of log entry 56), and neither memory changes. -/
def Obligations.IdleStepIsOneCycle : Prop :=
  ∀ s : State, s.pending = [] →
    step s = .next s.tick ∧
    (s.bnd.oscOk = false → s.tick = s) ∧
    (s.bnd.oscOk = true → s.on 56 = true → s.tick.tb.ctc = (s.tb.ctc + s.tbStep) % 2 ^ 96) ∧
    (s.bnd.oscOk = true → s.on 56 = false → s.tick.tb.ctc = s.tb.ctc) ∧
    (s.bnd.oscOk = true → s.tick.rd F.TB_LEDGER.TICKS 0 =
      (s.rd F.TB_LEDGER.TICKS 0 + (s.tb.ledgerSub + s.tbStep) / (40 * 2 ^ 32)) % 2 ^ 64) ∧
    SameMemory s s.tick

/-- No command is refused and none faults: every command answers a next state in every state. -/
def Obligations.EveryCommandCompletes : Prop := ∀ (c : Instr) (s : State), ∃ t, exec c s = .next t

/-- A command leaves the waiting commands alone and only adds to what has left the complex. -/
def Obligations.CommandsKeepQueueAndOutputs : Prop :=
  ∀ (c : Instr) (s t : State), exec c s = .next t → t.pending = s.pending ∧ s.out <:+ t.out

/-- Host memory and scratch memory keep their canonical form at every step, from every state. -/
def Obligations.EveryStepKeepsMemoryForm : Prop :=
  ∀ s t : State, step s = .next t → s.memInv → t.memInv

/-- Power domains, trees, rings, rake channels, the service state, Sluice units, engines and protection sides keep one of
the codes the spec gives them at every step, from every state that holds such codes. -/
def Obligations.EveryStepKeepsLegalModes : Prop :=
  ∀ s t : State, step s = .next t → s.modes → t.modes

/-- The machine right after reset is well kept: memory in canonical form and a legal code in every mode register. -/
def Obligations.ResetIsWellKept : Prop := State.reset.memInv ∧ State.reset.modes

/-- After reset the complex reset is held, every switched domain is OFF and the island ON, every tree DISABLED, every ring
UNCREATED, every rake channel IDLE, every key slot FREE, every terminal record UNUSED, no mailbox is BUSY and MBX_READY is 0;
no command waits and host memory lists no byte (the model's choices, log entries 4 and 3). -/
def Obligations.ResetState : Prop :=
  State.reset.pending = [] ∧ State.reset.hostMem = [] ∧ State.reset.bnd.cplxRst = true ∧ State.reset.pw 57 = pwON ∧
  (∀ d, d < 57 → State.reset.pw d = pwOFF) ∧ (∀ t, State.reset.tstate t = trDISABLED) ∧
  (∀ r, State.reset.rstate r = 0) ∧ (∀ c, State.reset.chState c = 0) ∧ (∀ h, State.reset.slot h = KeySlot.free) ∧
  (∀ t k, (State.reset.term t k) = Term.unused) ∧ (∀ n, State.reset.flag F.MBX_n_STATUS.BUSY n = false) ∧
  State.reset.flag F.GLB_STATUS.MBX_READY 0 = false

/-! ### The register window (chapter 01) -/

/-- What an erroneous access of a kind at an offset by a port leaves: its GLB_STATUS bit set, and GLB_WIN_ERR filled
unless it held a capture (R31, R32, R34). -/
def winErrLeft (s t : State) (f : Fld) (kind off port : Nat) : Prop :=
  t.flag f 0 = true ∧ Leaves windowFields s t ∧ SameMemory s t ∧
  (s.flag F.GLB_WIN_ERR.VALID 0 = true → ∀ g ∈ [F.GLB_WIN_ERR.OFFSET, F.GLB_WIN_ERR.KIND, F.GLB_WIN_ERR.PORT, F.GLB_WIN_ERR.VALID],
    t.rd g 0 = s.rd g 0) ∧
  (s.flag F.GLB_WIN_ERR.VALID 0 = false → t.rd F.GLB_WIN_ERR.OFFSET 0 = off % 2 ^ 26 ∧ t.rd F.GLB_WIN_ERR.KIND 0 = kind ∧
    t.rd F.GLB_WIN_ERR.PORT 0 = port ∧ t.flag F.GLB_WIN_ERR.VALID 0 = true)


/-- An offset of the register space that is neither a counter group page nor a pan engine's memory window. -/
def plainOffset (off : Nat) : Prop :=
  off < 0x4000000 ∧ ¬(0x202000 ≤ off ∧ off < 0x2B3000) ∧ ¬(0x1000000 ≤ off ∧ off < 0x2000000 ∧ inEngWindow (off % 0x40000) = true)

/-- REGISTER_WRITE of a width or alignment that no register takes sets BADACC, and past the end of the window STRAY; of a
register's offset with a width not its own it sets BADACC, and of one whose domain is not ON, the doorbell page apart, DOMACC.
In each case the first such access is captured, and no register field but those of the error capture changes (R31, R32). While
the island is in reset the write is lost (R37). A user write anywhere in PMC_, while its domain is ON, is ignored: DENIED
sets and the first is captured (R459). -/
def Obligations.WindowWriteErrorCapture : Prop :=
  ((∀ (p : PortId) (off w : Nat) (v : BitVec 64) (u : Bool) (s : State), s.bnd.oscOk = true →
      ((w ≠ 4 ∧ w ≠ 8) ∨ off % w ≠ 0) →
      Runs (.registerWrite p off w v u) s (fun t => winErrLeft s t F.GLB_STATUS.BADACC 1 off p.val)) ∧
    (∀ (p : PortId) (off w : Nat) (v : BitVec 64) (u : Bool) (s : State), s.bnd.oscOk = true →
      (w = 4 ∨ w = 8) → off % w = 0 → 0x4000000 ≤ off →
      Runs (.registerWrite p off w v u) s (fun t => winErrLeft s t F.GLB_STATUS.STRAY 0 off p.val)) ∧
    (∀ (p : PortId) (off w : Nat) (v : BitVec 64) (u : Bool) (s : State), s.bnd.oscOk = false →
      Runs (.registerWrite p off w v u) s (fun t => t = s))) ∧
  (∀ (p : PortId) (off w : Nat) (v : BitVec 64) (u : Bool) (s : State) (r : RegInfo) (i : Nat), s.bnd.oscOk = true →
      plainOffset off → (w = 4 ∨ w = 8) → off % w = 0 → regAt off = some (r, i) → (u = true → inPmc off = false) →
      (w ≠ r.bytes → Runs (.registerWrite p off w v u) s (fun t => winErrLeft s t F.GLB_STATUS.BADACC 1 off p.val)) ∧
      (w = r.bytes → r.base ≠ 0x100000 → s.regOn r i = false →
        Runs (.registerWrite p off w v u) s (fun t => winErrLeft s t F.GLB_STATUS.DOMACC 2 off p.val))) ∧
  (∀ (p : PortId) (off w : Nat) (v : BitVec 64) (s : State), s.bnd.oscOk = true → (w = 4 ∨ w = 8) → off % w = 0 →
      inPmc off = true → s.on 54 = true →
      Runs (.registerWrite p off w v true) s (fun t => t.flag F.PMC_STATUS.DENIED 0 = true ∧ t.flag F.PMC_EVENT.DENIED 0 = true ∧
        (s.flag F.PMC_DENY_ADDR.VALID 0 = false →
          t.rd F.PMC_DENY_ADDR.OFFSET 0 = (off - 0x200000) % 2 ^ F.PMC_DENY_ADDR.OFFSET.w ∧ t.flag F.PMC_DENY_ADDR.VALID 0 = true) ∧
        (s.flag F.PMC_DENY_ADDR.VALID 0 = true → t.rd F.PMC_DENY_ADDR.OFFSET 0 = s.rd F.PMC_DENY_ADDR.OFFSET 0) ∧
        Leaves (eventFields ++ [F.PMC_STATUS.DENIED, F.PMC_EVENT.DENIED, F.PMC_DENY_ADDR.OFFSET, F.PMC_DENY_ADDR.VALID]) s t ∧
        SameMemory s t))

/-- The registers with a behaviour of their own under a write, by offset of the first (each has a row of its own, or its
rule says what a write does). -/
def ownBehaviour : List Nat :=
  [0x8, 0x1001C, 0x10050, 0x10058, 0x10060, 0x10100, 0x10118, 0x10148, 0x20000, 0x20080, 0x38000, 0x40008, 0x40F00, 0x60008, 0x60100,
   0x68004, 0x80104, 0x80128, 0x80384, 0x100000, 0x200010, 0x200018, 0x200020, 0x201E00, 0x2000000]

/-- REGISTER_WRITE to a register without behaviour of its own and outside the rake channels' blocks, of its width and with
its domain ON, by an access R459 does not deny: an RW field takes its bits, a 1 clears a W1C bit and sets a W1S bit, any other
field keeps its value (R8); no other register field, no other index and neither memory changes. `writable` holds back the
bits R448 and R459 fix at 0. -/
def Obligations.PlainRegisterWrite : Prop :=
  ∀ (p : PortId) (off w : Nat) (v : BitVec 64) (u : Bool) (s : State) (r : RegInfo) (i : Nat), s.bnd.oscOk = true →
    plainOffset off → (w = 4 ∨ w = 8) → off % w = 0 → regAt off = some (r, i) → w = r.bytes → s.regOn r i = true →
    (u = true → inPmc off = false) → r.base ∉ ownBehaviour → ¬(0x50000 ≤ off ∧ off < 0x54000) →
    Runs (.registerWrite p off w v u) s (fun t =>
      (∀ f ∈ r.flds,
        let x := bits (writable r.base i (v.toNat % 2 ^ (8 * w))) f.lo f.w
        (f.acc = .rw → t.rd f i = x) ∧
        (f.acc = .w1c → t.rd f i = s.rd f i &&& (2 ^ f.w - 1 - x)) ∧
        (f.acc = .w1s → t.rd f i = (s.rd f i ||| x) % 2 ^ f.w) ∧
        (f.acc ≠ .rw → f.acc ≠ .w1c → f.acc ≠ .w1s → t.rd f i = s.rd f i % 2 ^ f.w)) ∧
      (∀ (f : Fld) (j : Nat), ((∀ g ∈ r.flds, f.num ≠ g.num) ∨ j ≠ i) → t.rd f j = s.rd f j) ∧ SameMemory s t)


/-- HALF_READ_LATCH: a privileged 32-bit read of the low half of a 64-bit register of an ON domain, one without RC fields and
no programmable counter, returns its low 32 bits and holds the high 32 bits for that port, so that the port's next read of
the high half returns the other half of the same value (R31); no register field and neither memory changes.
READ_CLEAR: a privileged read of a register of an ON domain at its own width, of none of the counters that R447 and R462 read
otherwise, returns its value, and then each of its RC fields is 0 (R8); no other register field and neither memory changes.
LEGACY_READ: the count of the addressed legacy counter of an ON domain since its last legacy read is returned, saturating, and
the next read counts from here (R462). -/
def Obligations.WindowReads : Prop :=
  (∀ (p : PortId) (off : Nat) (s : State) (r : RegInfo) (i : Nat), s.bnd.oscOk = true → plainOffset off →
      plainOffset (off + 4) → off % 8 = 0 → regAt off = some (r, i) → r.bytes = 8 → (∀ f ∈ r.flds, f.acc ≠ .rc) →
      regAt (off + 4) = none → s.regOn r i = true →
      r.flds.contains F.PMC_CNTk.COUNT = false → r.flds.contains F.PE_CNTk.COUNT = false →
      Runs (.halfReadLatch p off false) s (fun t =>
        t.out.head? = some (.readData p.val (s.regValue r i p.val % 2 ^ 32)) ∧ Leaves [] s t ∧ SameMemory s t ∧
        (t.windowRead p.val (off + 4) 4 false false).1 = s.regValue r i p.val / 2 ^ 32 % 2 ^ 32)) ∧
  ((∀ (p : PortId) (off w : Nat) (s : State) (r : RegInfo) (i : Nat), s.bnd.oscOk = true → plainOffset off →
      (w = 4 ∨ w = 8) → off % w = 0 → regAt off = some (r, i) → w = r.bytes → s.regOn r i = true →
      (∀ g ∈ [F.PMC_LEG_DATA.COUNT, F.PMC_CNTk.COUNT, F.PE_CNTk.COUNT], r.flds.contains g = false) →
      Runs (.readClear p off w false) s (fun t =>
        t.out.head? = some (.readData p.val (s.regValue r i p.val)) ∧
        (∀ f ∈ r.flds, f.acc = .rc → t.rd f i = 0) ∧
        (∀ (f : Fld) (j : Nat), ((∀ g ∈ r.flds, g.acc = .rc → f.num ≠ g.num) ∨ j ≠ i) → t.rd f j = s.rd f j) ∧ SameMemory s t)) ∧
    (∀ (p : PortId) (s : State) (n d : Nat), s.bnd.oscOk = true → s.on 54 = true →
      s.legTotal (s.rd F.PMC_LEG_BANK.BANK 0) (bits (s.rd F.PMC_LEG_ADDR.ADDR 0) 10 6) (bits (s.rd F.PMC_LEG_ADDR.ADDR 0) 2 8) = some (n, d) →
      s.on d = true →
      Runs (.legacyRead p) s (fun t =>
        let k : Key := (bits (s.rd F.PMC_LEG_ADDR.ADDR 0) 10 6 +
          (if bits (s.rd F.PMC_LEG_ADDR.ADDR 0) 10 6 < 32 then 64 * min 2 (s.rd F.PMC_LEG_BANK.BANK 0) else 0), bits (s.rd F.PMC_LEG_ADDR.ADDR 0) 2 8)
        t.out.head? = some (.readData p.val (min (2 ^ 32 - 1) (n - smGet 0 s.mon.legBase k))) ∧
        smGet 0 t.mon.legBase k = n ∧ Leaves [] s t ∧ SameMemory s t)))

/-- CS_WINDOW_READ: a 32-bit read of an engine whose domain is ON returns the part addressed of the word the control store
or the work memory holds, unless its contents are undefined or it holds an error that cannot be corrected, where the value
is free (R208, R216, R250). A control-store read that finds a word without error writes no register field but the counts
of the fetch slot it takes from the engine. A read of an engine whose domain is not ON returns ones and sets DOMACC
(R32). -/
def Obligations.ControlStoreWindowRead : Prop :=
  ∀ (p : PortId) (e : EngId) (off : Nat) (errs : List Upset) (s : State), s.bnd.oscOk = true → off % 4 = 0 → off < 0x30000 →
    (s.on (engDom e.val) = true → (s.upset errs).windowOpen e.val off = false →
      Runs (.csWindowRead p e off errs) s (fun t =>
        (off < 0x20000 → t.out.head? = some (.readData p.val (bits (smGet 0 (s.eng e.val).cs (off / 16, 0)) (32 * (off / 4 % 4)) 32))) ∧
        (0x20000 ≤ off → t.out.head? = some (.readData p.val
          (bits (smGet 0 (s.eng e.val).wm ((off - 0x20000) / 8, 0)) (32 * (off / 4 % 2)) 32))) ∧
        (off < 0x20000 → (s.upset errs).wordSeen 8 e.val (off / 32) = .clean →
          Leaves (eventFields ++ [F.PE_CNTk.COUNT, F.PE_SELk.OVF]) s t) ∧ SameMemory s t)) ∧
    (s.on (engDom e.val) = true → (s.upset errs).windowOpen e.val off = true →
      Runs (.csWindowRead p e off errs) s (fun t => t.out.head? = some (.readData p.val (s.free 32)) ∧ SameMemory s t)) ∧
    (s.on (engDom e.val) = false →
      Runs (.csWindowRead p e off errs) s (fun t =>
        t.out.head? = some (.readData p.val 0xFFFFFFFF) ∧ winErrLeft s t F.GLB_STATUS.DOMACC 2 (0x1000000 + e.val * 0x40000 + off) p.val))


/-! ### Resets and start-up (chapter 01) -/

/-- What a complex or a soft reset leaves: every switched domain OFF, every tree DISABLED, every key slot free, the CTC at 0,
TB_EPOCH one more, the wake latch clear; the sleep ledger and memory stay (R35, R36, R41, R70). -/
def resetLeft (s t : State) : Prop :=
  (∀ d, d < 57 → t.pw d = pwOFF) ∧ (∀ n, t.tstate n = trDISABLED) ∧ (∀ h, t.slot h = KeySlot.free) ∧
  t.tb.ctc = 0 ∧ t.rd F.TB_EPOCH.COUNT 0 = (s.rd F.TB_EPOCH.COUNT 0 + 1) % 2 ^ 32 ∧ t.bnd.wakeOut = [] ∧
  t.rd F.TB_LEDGER.TICKS 0 = s.rd F.TB_LEDGER.TICKS 0 ∧ SameMemory s t

/-- SOFT_RESET with its key, while no reset is held, holds the complex in reset and sets GLB_RST_CAUSE.SOFT; COMPLEX_RESET
does the same with COMPLEX, and while a soft reset is held only takes its place. A write of GLB_CTL that sets no SOFT_RESET or
lacks the key (SOFT_RESET, TXDIS_ALL) stores TXDIS_ALL and leaves every other register field as it was (R34, R35, R36). -/
def Obligations.ResetsClearTheComplex : Prop :=
  (∀ (p : PortId) (v : BitVec 32) (s : State), s.bnd.oscOk = true → s.bnd.cplxRst = false → s.bnd.softRst = false →
    bit v.toNat 8 = true → bits v.toNat 0 8 = 0xA5 →
    Runs (.softReset p v) s (fun t => t.bnd.softRst = true ∧ t.flag F.GLB_RST_CAUSE.SOFT 0 = true ∧ resetLeft s t)) ∧
  (∀ s : State, s.bnd.oscOk = true → s.bnd.cplxRst = false → s.bnd.softRst = false →
    Runs .complexReset s (fun t => t.bnd.cplxRst = true ∧ t.flag F.GLB_RST_CAUSE.COMPLEX 0 = true ∧ resetLeft s t)) ∧
  (∀ s : State, s.bnd.oscOk = true → s.bnd.cplxRst = false → s.bnd.softRst = true →
    Runs .complexReset s (fun t => t.bnd.cplxRst = true ∧ t.bnd.softRst = false ∧ t.flag F.GLB_RST_CAUSE.COMPLEX 0 = true ∧
      Leaves [F.GLB_RST_CAUSE.COMPLEX] s t ∧ SameMemory s t)) ∧
  (∀ (p : PortId) (v : BitVec 32) (s : State), s.bnd.oscOk = true → (bit v.toNat 8 = false ∨ bits v.toNat 0 8 ≠ 0xA5) →
    ∀ c ∈ [Instr.softReset p v, Instr.txdisAll p v],
    Runs c s (fun t => t.rd F.GLB_CTL.TXDIS_ALL 0 = bits v.toNat 16 1 ∧ Leaves [F.GLB_CTL.TXDIS_ALL] s t ∧ SameMemory s t))

/-- ISLAND_COLD_RESET returns every register field to its reset value but for the clock block's signals (DEDUCED, log
entry 41) and the recorded cause, and holds the island; both memories keep their bytes (the model's choice, log entry 43)
(R35, R37). ISLAND_RESET_RELEASE lets the island out of reset. OSCILLATOR_STABLE samples the straps and sets the brown-out
threshold's reset value (R26); with the complex reset already released it starts up, as COMPLEX_RESET_RELEASE does from every
domain OFF: the control processor and the timebase begin to rise, the brine pool and the host rings wait for them, and the
other domains stay OFF (R37, R420). -/
def Obligations.StartUp : Prop :=
  (∀ (byPin : Bool) (s : State), Runs (.islandColdReset byPin) s (fun t =>
    t.bnd.islandUp = false ∧ t.bnd.oscOk = false ∧ t.flag F.GLB_RST_CAUSE.AON_PIN 0 = byPin ∧
    t.flag F.GLB_RST_CAUSE.COLD 0 = !byPin ∧ SameMemory s t ∧
    (∀ (f : Fld) (i : Nat), clockField f.num = false → f.num ≠ F.GLB_RST_CAUSE.AON_PIN.num →
      f.num ≠ F.GLB_RST_CAUSE.COLD.num → t.rd f i = f.resetAt i))) ∧
  (∀ s : State, Runs .islandResetRelease s (fun t => t.bnd.islandUp = true ∧ t.bnd.aonRstN = true ∧ t.bnd.supplyOk = true ∧
    Leaves [] s t ∧ SameMemory s t)) ∧
  (∀ (bus : BitVec 2) (lock : Bool) (s : State), s.bnd.islandUp = true → s.bnd.oscOk = false → s.bnd.cplxRst = true →
    Runs (.oscillatorStable bus lock) s (fun t => t.bnd.oscOk = true ∧ t.rd F.GLB_STRAP.BUS 0 = bus.toNat ∧
      t.flag F.GLB_STRAP.DBGLOCK 0 = lock ∧ t.rd F.PWR_BB_CFG.WARN 0 = warnOf bus.toNat ∧
      Leaves [F.GLB_STRAP.BUS, F.GLB_STRAP.DBGLOCK, F.PWR_BB_CFG.WARN] s t ∧ SameMemory s t)) ∧
  (∀ (s : State) (c : Instr), (∀ d, d < 57 → s.pw d = pwOFF) →
    (c = .complexResetRelease ∧ s.bnd.oscOk = true ∧ (s.bnd.cplxRst = true ∨ s.bnd.softRst = true) ∨
     ∃ (bus : BitVec 2) (lock : Bool), c = .oscillatorStable bus lock ∧ s.bnd.islandUp = true ∧ s.bnd.oscOk = false ∧ s.bnd.cplxRst = false) →
    Runs c s (fun t => t.bnd.oscOk = true ∧ t.bnd.cplxRst = false ∧
      (∀ d ∈ [54, 56], t.pw d = pwRISING ∧ t.rd F.PWR_Dd_STATE.STAGE d = 1) ∧
      (∀ d ∈ [51, 53], t.pw d = pwRISING ∧ t.rd F.PWR_Dd_STATE.STAGE d = 0) ∧
      (∀ d, d < 57 → d ∉ [51, 53, 54, 56] → t.pw d = pwOFF)))

/-! ### Module management (chapter 01) -/


/-- TRE_MOD_CMD_START stores OFFSET, DEVADDR, WRITE, COUNT and FAST; with START and while no transaction is BUSY it clears ERR,
shows BUSY and queues the transaction the registers describe on the bus of the tree's group of eight; else nothing more
(R20, R21). MOD_TRANSACTION_DONE ends the running transaction: BUSY falls, ERR shows a missing acknowledge, and the bytes of
an acknowledged read land in TRE_MOD_DATA (R20, R21). CLOCK_STRETCH_TIMEOUT ends it with ERR and frees the bus with nine clocks
and a stop (R20).
MODULE_POLL puts a poll of every tree not DISABLED whose pair domain is ON on that tree's bus, where none of it waits yet,
and touches no register (R22). A poll's transaction that is acknowledged is followed by the next of its sequence, and the last
keeps the monitors with the frame of the poll (R22, R465; the sequence is PRESUMED, log entry 45). One that is not
acknowledged or is stretched out ends the poll and leaves TRE_MOD_CMD as it was (the model's choice, log entry 19). -/
def Obligations.ModuleManagement : Prop :=
  ((∀ (p : PortId) (t : TreeId) (v : BitVec 32) (s : State), s.bnd.oscOk = true →
      Runs (.treModCmdStart p t v) s (fun u =>
        (∀ f ∈ [F.TRE_MOD_CMD.OFFSET, F.TRE_MOD_CMD.DEVADDR, F.TRE_MOD_CMD.WRITE, F.TRE_MOD_CMD.COUNT, F.TRE_MOD_CMD.FAST],
          u.rd f t = bits v.toNat f.lo f.w) ∧
        Leaves [F.TRE_MOD_CMD.OFFSET, F.TRE_MOD_CMD.DEVADDR, F.TRE_MOD_CMD.WRITE, F.TRE_MOD_CMD.COUNT, F.TRE_MOD_CMD.FAST,
          F.TRE_MOD_CMD.BUSY, F.TRE_MOD_CMD.ERR] s u ∧ SameMemory s u ∧
        (bit v.toNat 29 = false ∨ s.flag F.TRE_MOD_CMD.BUSY t = true → u.bnd = s.bnd ∧
          u.rd F.TRE_MOD_CMD.BUSY t = s.rd F.TRE_MOD_CMD.BUSY t ∧ u.rd F.TRE_MOD_CMD.ERR t = s.rd F.TRE_MOD_CMD.ERR t) ∧
        (bit v.toNat 29 = true → s.flag F.TRE_MOD_CMD.BUSY t = false → u.flag F.TRE_MOD_CMD.BUSY t = true ∧
          u.flag F.TRE_MOD_CMD.ERR t = false ∧
          ∃ x ∈ u.busQ (t / 8), x.tree = t ∧ x.poll = false ∧ x.dev = u.rd F.TRE_MOD_CMD.DEVADDR t ∧
            x.off = u.rd F.TRE_MOD_CMD.OFFSET t ∧ x.write = u.flag F.TRE_MOD_CMD.WRITE t ∧
            x.count = u.rd F.TRE_MOD_CMD.COUNT t + 1 ∧ x.data = s.rd F.TRE_MOD_DATA.DATA t))) ∧
    (∀ (bus : Fin 12) (ack : Bool) (data : BitVec 32) (o : Optics) (s : State) (x : ModTx),
      (s.busQ bus).find? (fun x => x.started) = some x → x.poll = false →
      Runs (.modTransactionDone bus ack data o) s (fun u =>
        u.flag F.TRE_MOD_CMD.BUSY x.tree = false ∧ u.flag F.TRE_MOD_CMD.ERR x.tree = !ack ∧
        (x.write = true ∨ ack = false → u.rd F.TRE_MOD_DATA.DATA x.tree = s.rd F.TRE_MOD_DATA.DATA x.tree) ∧
        (x.write = false → ack = true → x.count ≤ 4 →
          u.rd F.TRE_MOD_DATA.DATA x.tree % 2 ^ (8 * x.count) = data.toNat % 2 ^ (8 * x.count)) ∧
        Leaves [F.TRE_MOD_CMD.BUSY, F.TRE_MOD_CMD.ERR, F.TRE_MOD_DATA.DATA] s u ∧ SameMemory s u)) ∧
    (∀ (bus : Fin 12) (s : State) (x : ModTx), (s.busQ bus).find? (fun x => x.started) = some x → x.poll = false →
      Runs (.clockStretchTimeout bus) s (fun u =>
        u.flag F.TRE_MOD_CMD.BUSY x.tree = false ∧ u.flag F.TRE_MOD_CMD.ERR x.tree = true ∧ Output.modBusFree bus ∈ u.out ∧
        Leaves [F.TRE_MOD_CMD.BUSY, F.TRE_MOD_CMD.ERR] s u ∧ SameMemory s u))) ∧
  ((∀ (s : State) (t : Nat), t < 96 → s.cpRuns = true → s.control.isNone = false → s.tstate t ≠ trDISABLED →
      s.on (pairOf t) = true →
      Runs .modulePoll s (fun u => (∃ x ∈ u.busQ (t / 8), x.poll = true ∧ x.tree = t) ∧ Leaves [] s u ∧ SameMemory s u)) ∧
    (∀ (bus : Fin 12) (data : BitVec 32) (o : Optics) (s : State) (x : ModTx),
      (s.busQ bus).find? (fun x => x.started) = some x → x.poll = true →
      let std := if x.place = 0 then o.std.val else x.std
      (∀ p, (pollSteps std)[x.place + 1]? = some p →
        Runs (.modTransactionDone bus true data o) s (fun u =>
          (∃ y ∈ u.busQ (x.tree / 8), y.poll = true ∧ y.tree = x.tree ∧ y.dev = p.dev ∧ y.off = p.off ∧ y.write = p.write ∧
            y.count = p.count ∧ y.std = std ∧ y.place = x.place + 1) ∧ Leaves [] s u ∧ SameMemory s u)) ∧
      ((pollSteps std)[x.place + 1]? = none →
        Runs (.modTransactionDone bus true data o) s (fun u =>
          (smGet Optic.none_ u.mon.optics (x.tree, 0)).temp = o.temp.toNat ∧
          (smGet Optic.none_ u.mon.optics (x.tree, 0)).supply = o.volt.toNat ∧
          (smGet Optic.none_ u.mon.optics (x.tree, 0)).bias = o.bias.toNat ∧
          (smGet Optic.none_ u.mon.optics (x.tree, 0)).tx = o.txPower.toNat ∧
          (smGet Optic.none_ u.mon.optics (x.tree, 0)).rx = o.rxPower.toNat ∧
          (smGet Optic.none_ u.mon.optics (x.tree, 0)).lastF = s.frame x.tree ∧ Leaves [] s u ∧ SameMemory s u)) ∧
      (∀ c ∈ [Instr.modTransactionDone bus false data o, Instr.clockStretchTimeout bus],
        Runs c s (fun u => u.mon = s.mon ∧ Leaves [] s u ∧ SameMemory s u))))

/-! ### Tide and timebase (chapter 02) -/

/-- TB_SET sets D_x to the written whole ns with a zero fraction and x_VALID; TB_ADJ adds its signed value, in 2^-16 ns, to
D_x modulo 2^80; TB_RATE_WRITE sets B_x to D_x and C_x to the CTC, so that D_x is continuous, and stores the new rate. The
other domain's time and the CTC stay (R43, R44). -/
def Obligations.TimeDomainWrites : Prop :=
  (∀ (p : PortId) (x : Fin 2) (v : BitVec 64) (s : State), s.bnd.oscOk = true → s.on 56 = true →
    Runs (.tbSet p x v) s (fun t => t.domTime x = v.toNat * 2 ^ 16 ∧ t.domTime (1 - x) = s.domTime (1 - x) ∧
      t.flag (if x = 0 then F.TB_STATUS.A_VALID else F.TB_STATUS.B_VALID) 0 = true ∧ t.tb.ctc = s.tb.ctc)) ∧
  (∀ (p : PortId) (x : Fin 2) (v : BitVec 64) (s : State), s.bnd.oscOk = true → s.on 56 = true →
    Runs (.tbAdj p x v) s (fun t => t.domTime x = ofSigned 80 ((s.domTime x : Int) + toSigned 64 v.toNat) ∧
      t.domTime (1 - x) = s.domTime (1 - x) ∧ t.tb.ctc = s.tb.ctc)) ∧
  (∀ (p : PortId) (x : Fin 2) (v : BitVec 32) (s : State), s.bnd.oscOk = true → s.on 56 = true →
    Runs (.tbRateWrite p x v) s (fun t => t.domTime x = s.domTime x ∧ t.rd F.TB_x_RATE.RATE x = v.toNat ∧
      t.base x = ⟨s.domTime x, s.tb.ctc⟩ ∧ Leaves [F.TB_x_RATE.RATE] s t ∧ SameMemory s t))

/-- R52: a write of TIDE_ORIGIN is ignored, with ORIGIN_REFUSED set, while any tree is ACTIVE or PROT_STANDBY in the cycle
of the write; else it is stored. -/
def Obligations.TideOriginRefusedWhileRunning : Prop :=
  ∀ (p : PortId) (v : BitVec 64) (s : State), s.bnd.oscOk = true → s.on 56 = true →
    ((∃ t, t < 96 ∧ s.running t = true) → Runs (.tideOriginWrite p v) s (fun u =>
      u.flag F.TIDE_STATUS.ORIGIN_REFUSED 0 = true ∧ Leaves [F.TIDE_STATUS.ORIGIN_REFUSED] s u ∧ SameMemory s u)) ∧
    ((∀ t, t < 96 → s.running t = false) → Runs (.tideOriginWrite p v) s (fun u =>
      u.rd F.TIDE_ORIGIN.NS 0 = v.toNat % 2 ^ F.TIDE_ORIGIN.NS.w ∧ Leaves [F.TIDE_ORIGIN.NS] s u ∧ SameMemory s u))

/-- TOD_ARM stores TREE and, with ARM, arms the slot, or marks it MISSED when the boundary has passed (R69) or TREE names no
tree (DEDUCED, log entry 10); without ARM the slot's state stays. PPS_IN_EDGE captures D_x and the CTC's whole ns, counts the
edge and sets its status bit (R45). PPS_OUT_EDGE, once the selected domain's time less the offset has crossed a whole second,
gives an edge, and gives none within 500 ms of the last (R68; the 500 ms run on the CTC, the model's choice of log entry
56). -/
def Obligations.PulsesAndCaptures : Prop :=
  (∀ (p : PortId) (n : Fin 4) (v : BitVec 32) (s : State), s.bnd.oscOk = true → s.on 56 = true →
    Runs (.todArm p n v) s (fun t => t.rd F.TIDE_TODn_CTL.TREE n = bits v.toNat 0 7 ∧
      (bit v.toNat 8 = true → bits v.toNat 0 7 < 96 → boundary (bits v.toNat 0 7) (s.rd F.TIDE_TODn_F.F n) ≥ s.tide →
        t.rd F.TIDE_TODn_CTL.STATE n = 1) ∧
      (bit v.toNat 8 = true → boundary (bits v.toNat 0 7) (s.rd F.TIDE_TODn_F.F n) < s.tide → t.rd F.TIDE_TODn_CTL.STATE n = 3) ∧
      (bit v.toNat 8 = true → bits v.toNat 0 7 > 95 → t.rd F.TIDE_TODn_CTL.STATE n = 3) ∧
      (bit v.toNat 8 = false → t.rd F.TIDE_TODn_CTL.STATE n = s.rd F.TIDE_TODn_CTL.STATE n) ∧
      Leaves [F.TIDE_TODn_CTL.TREE, F.TIDE_TODn_CTL.STATE] s t ∧ SameMemory s t)) ∧
  (∀ (x : Fin 2) (s : State), s.on 56 = true →
    Runs (.ppsInEdge x) s (fun t => t.rd F.TB_x_PPS_TIME.NS x = s.domNs x % 2 ^ F.TB_x_PPS_TIME.NS.w ∧
      t.rd F.TB_x_PPS_CTC.NS x = s.tb.ctc / 2 ^ 32 % 2 ^ F.TB_x_PPS_CTC.NS.w ∧
      t.rd F.TB_x_PPS_CNT.COUNT x = (s.rd F.TB_x_PPS_CNT.COUNT x + 1) % 2 ^ F.TB_x_PPS_CNT.COUNT.w ∧
      t.flag (if x = 0 then F.TB_STATUS.A_PPS else F.TB_STATUS.B_PPS) 0 = true)) ∧
  (∀ s : State, s.on 56 = true → s.tb.ppsSec < s.ppsSecond →
    ((∀ c, s.tb.lastPps = some c → 500000000 * 2 ^ 32 ≤ (s.tb.ctc : Int) - c) →
      Runs .ppsOutEdge s (fun t => t.out = .ppsOut :: s.out ∧ t.tb.lastPps = some s.tb.ctc ∧ t.tb.ppsSec = s.ppsSecond ∧
        Leaves [] s t ∧ SameMemory s t)) ∧
    (∀ c, s.tb.lastPps = some c → (s.tb.ctc : Int) - c < 500000000 * 2 ^ 32 →
      Runs .ppsOutEdge s (fun t => t.out = s.out ∧ t.tb.lastPps = some c ∧ t.tb.ppsSec = s.ppsSecond ∧ Leaves [] s t ∧
        SameMemory s t)))

/-- CORE_CLOCK_CHANGE shows its code and step (R42), FREQ_HOLDOVER_CHANGE its signal (R40). TIDE_JUMP sets N to N* while no
tree runs, with JUMPED set when that changes N in 1/256 ns (R50). LEDGER_CALIBRATION, at the end of a window of 2^24 ledger
ticks, writes the CTC's advance over it divided by 2^24, and the next window begins where this one ended (R70). -/
def Obligations.ClockAndTide : Prop :=
  (∀ (code : Fin 4) (s : State), Runs (.coreClockChange code) s (fun t =>
    t.rd F.TB_CLK.CODE 0 = code ∧ t.tbStep = stepOf code ∧ Leaves [F.TB_CLK.CODE, F.TB_STEP.NS, F.TB_STEP.FRAC] s t ∧
    SameMemory s t)) ∧
  (∀ (on : Bool) (s : State), Runs (.freqHoldoverChange on) s (fun t =>
    t.flag F.TB_STATUS.FREQ_HOLDOVER 0 = on ∧ Leaves [F.TB_STATUS.FREQ_HOLDOVER] s t ∧ SameMemory s t)) ∧
  (∀ (s : State) (n : Int), s.on 56 = true → s.anyRunning = false → s.tideTarget = some n →
    Runs .tideJump s (fun t => t.tb.tideQ = n ∧ t.tb.ctc = s.tb.ctc ∧
      (s.tide ≠ n / (2 ^ 68 : Nat) → t.flag F.TIDE_STATUS.JUMPED 0 = true) ∧
      (s.tide = n / (2 ^ 68 : Nat) → Leaves [F.TIDE_STATUS.RATE_CLAMP] s t))) ∧
  (∀ (s : State) (l0 c0 c : Nat) (rest : List Nat), s.tb.calStart = some (l0, c0) → s.on 56 = true → s.tb.calEnds = c :: rest →
    Runs .ledgerCalibration s (fun t =>
      t.rd F.TB_LEDGER_RATIO.RATIO 0 = (c + 2 ^ 96 - c0) % 2 ^ 96 / 2 ^ 24 % 2 ^ F.TB_LEDGER_RATIO.RATIO.w ∧
      t.tb.calStart = some (l0 + 2 ^ 24, c) ∧ t.tb.calEnds = rest ∧ Leaves [F.TB_LEDGER_RATIO.RATIO] s t ∧ SameMemory s t))

/-! ### The control processor and Calvan (chapter 11) -/

/-- The commands of R351 with their codes, and whether they are accepted in BOOT and in RESTRICTED; the two commands that
carry a key stand apart. -/
def commandTable : List ((Src → Instr) × Nat × Bool × Bool) :=
  [(.devInfo, 0x0001, true, true), (.hostSleepNotice, 0x0002, false, false), (.ringCreate, 0x0101, false, false),
   (.ringDestroy, 0x0102, false, false), (.ringDisable, 0x0103, false, false), (.evqCreate, 0x0104, false, false),
   (.bufferConfig, 0x0110, false, false), (.bufferStatus, 0x0111, true, true), (.queueProfile, 0x0112, false, false),
   (.queueSet, 0x0113, false, false), (.queueStatus, 0x0114, false, true), (.treeConfig, 0x0201, false, false),
   (.treeEnable, 0x0202, false, false), (.burstProfile, 0x0203, false, false), (.terminalAdd, 0x0301, false, false),
   (.terminalSet, 0x0302, false, false), (.terminalRemove, 0x0303, false, false),
   (.terminalStatus, 0x0304, true, true), (.flowSet, 0x0305, false, false), (.quench, 0x0306, true, true),
   (.allocSet, 0x0307, false, false), (.tableInsert, 0x0401, false, false), (.tableDelete, 0x0402, false, false),
   (.tableDump, 0x0403, false, false), (.tableProfile, 0x0404, false, false), (.tableConfig, 0x0405, false, false),
   (.tableStatus, 0x0406, false, true), (.filterSet, 0x0407, false, false), (.timeSelect, 0x0501, false, false),
   (.pwrRequest, 0x0601, false, false), (.pwrStatus, 0x0602, true, true), (.protSwitch, 0x0702, false, false),
   (.protStatus, 0x0703, false, true), (.fabStatus, 0x0710, false, true), (.fwLoad, 0x0801, true, true),
   (.fwStart, 0x0802, true, true), (.fwStatus, 0x0803, true, true), (.healthReport, 0x0901, false, true),
   (.counterSnapshot, 0x0902, false, true), (fun x => .debugUnlock x true, 0x0903, false, true),
   (fun x => .debugUnlock x false, 0x0903, false, true), (.keySwitchAt, 0x0A02, false, false),
   (.keyErase, 0x0A03, true, true)]

/-- The refusal the common checks give a request, in their order (R345, R348): FLAGS bits 1 to 15, LENGTH above 56, a
service state R351 does not mark for the command. -/
def headerRefusal (s : State) (req : List Byte) (boot restricted : Bool) (r : Resp) : Prop :=
  (2 ≤ leAt req 4 2 ∧ r = refuse stBAD_ARG 0xF4) ∨
  (leAt req 4 2 < 2 ∧ 56 < leAt req 6 2 ∧ r = refuse stBAD_ARG 0xF6) ∨
  (leAt req 4 2 < 2 ∧ leAt req 6 2 ≤ 56 ∧ s.service = svBOOT ∧ boot = false ∧ r = refuse stSTATE_CONFLICT 0xE0) ∨
  (leAt req 4 2 < 2 ∧ leAt req 6 2 ≤ 56 ∧ s.service = svRESTRICTED ∧ restricted = false ∧ r = refuse stSTATE_CONFLICT 0xE1)

/-- A request that is next and no replay, and fails a common check, is taken and answered with that refusal, with nothing of
its command's own effect; the key bytes of a refused KEY_STAGE or PROT_PAIR are zeroed as well (R89, R348, R351). -/
def Obligations.CalvanHeaderChecks : Prop :=
  (∀ (s : State) (src : Src) (req : List Byte) (r : Resp), ∀ e ∈ commandTable, s.takes src e.2.1 req = true →
    s.replayOf src req = none → headerRefusal s req e.2.2.1 e.2.2.2 r → Serves (e.1 src) s src r (fun u => u = s.take src)) ∧
  (∀ (s : State) (src : Src) (req : List Byte) (r : Resp),
    ∀ e ∈ [(Instr.protPair src, 0x0701), (Instr.keyStage src, 0x0A01)], s.takes src e.2 req = true →
    s.replayOf src req = none → headerRefusal s req false false r → ServesKey e.1 s src r (fun u => u = s.take src))


/-- An answer given to a mailbox stands in its sixteen response words, with BUSY 0 and DONE 1, whatever requests of unknown
codes are dealt with after it (R339, R346, R348).
A request of a command of the table whose tag a record of its mailbox holds, equal in all 64 bytes and not marked fresh, is
answered with the record's bytes and REPLAYED set; the command's own effect is not repeated: up to that answer only the
response, the mailbox's status and its event change (R350). -/
def Obligations.AnswersAndReplays : Prop :=
  (∀ (s : State) (n : MbxId) (r : Resp) (m k : Nat), k < 16 →
      let u := (s.answer (.mbx n) r).pump m
      u.rd F.MBX_n_RSP.DATA (n * 16 + k) = leAt (response (s.mbxRequest n) r false) (4 * k) 4 ∧
      u.flag F.MBX_n_STATUS.BUSY n = false ∧ u.flag F.MBX_n_STATUS.DONE n = true) ∧
  (∀ (s : State) (n : MbxId) (req : List Byte) (t : TagRec), ∀ e ∈ commandTable, s.takes (.mbx n) e.2.1 req = true →
      s.replayOf (.mbx n) req = some t → t.rsp.length = 64 →
      Runs (e.1 (.mbx n)) s (fun u => u.rd F.MBX_n_STATUS.REPLAYED n = 1 ∧ u.flag F.MBX_n_STATUS.BUSY n = false ∧
        (∀ k, k < 16 → k ≠ 1 → u.rd F.MBX_n_RSP.DATA (n * 16 + k) = leAt t.rsp (4 * k) 4)) ∧
      Begins (e.1 (.mbx n)) s (fun u => u = (s.take (.mbx n)).replayed (.mbx n) t ∧
        Leaves (answerFields ++ eventFields) s u ∧ SameMemory s u))


/-- DEV_INFO gives the fields of R363: the part and its step, the service state, the serial number, the boot version, the
revoked keys, the four flags, the control image's ABI and build, the current images' ABIs and the restarts, each cut to its
field's width, and changes nothing. TIME_SELECT of a valid domain other than the selected one, with the timebase ON, selects
it; of the selected domain it changes nothing; it gives the domain before and the tide's difference; with the timebase not ON,
or a domain not valid, it is a STATE_CONFLICT (R46, R47). FW_STATUS gives for a kind which slots hold an image and what R362 says
of each, and changes nothing. -/
def Obligations.DeviceInformation : Prop :=
  (∀ (s : State) (src : Src) (p : List Byte), Given s src 0x0001 true true p → ∃ pl,
    Serves (.devInfo src) s src (okWith pl) (fun u => u = s.take src) ∧ leAt pl 0 2 = s.rd F.GLB_ID.PART 0 % 2 ^ 16 ∧
    byteAt pl 2 = s.rd F.GLB_ID.STEP 0 % 2 ^ 8 ∧ byteAt pl 3 = s.service % 2 ^ 8 ∧ leAt pl 4 8 = Config.serial % 2 ^ 64 ∧
    leAt pl 12 2 = Config.bootVer % 2 ^ 16 ∧ byteAt pl 14 = Config.revoked % 16 ∧
    bit (byteAt pl 15) 0 = s.flag F.GLB_STATUS.UNTESTED 0 ∧ bit (byteAt pl 15) 1 = s.dbgLock ∧
    bit (byteAt pl 15) 2 = (s.rd F.GLB_STATUS.SITE_OK 0 == 15) ∧ bit (byteAt pl 15) 3 = s.flag F.MBX_DEVSTATE.UNTESTED_HELD 0 ∧
    leAt pl 16 4 = abiOf s.control % 2 ^ 32 ∧ leAt pl 20 8 = buildOf s.control % 2 ^ 64 ∧
    leAt pl 28 4 = abiOf (s.imageSlots 2).current % 2 ^ 32 ∧ leAt pl 32 4 = abiOf (s.imageSlots 3).current % 2 ^ 32 ∧
    leAt pl 36 4 = abiOf (s.imageSlots 4).current % 2 ^ 32 ∧ leAt pl 40 2 = s.rd F.MBX_DEVSTATE.RESTARTS 0 % 2 ^ 16) ∧
  (∀ (s : State) (src : Src) (p : List Byte), Given s src 0x0501 false false p → byteAt p 0 ≤ 1 → zeroAt p 1 7 = true →
    (s.on 56 = true → s.flag (if byteAt p 0 = 0 then F.TB_STATUS.A_VALID else F.TB_STATUS.B_VALID) 0 = true → ∃ pl,
      Serves (.timeSelect src) s src (okWith pl) (fun u => u.sel = byteAt p 0 ∧ (∀ x, u.domTime x = s.domTime x) ∧
        (byteAt p 0 = s.sel → u = s.take src) ∧ leAt pl 4 4 = u.tideDiffReg) ∧ byteAt pl 0 = s.sel % 2 ^ 8) ∧
    (s.on 56 = true → s.flag (if byteAt p 0 = 0 then F.TB_STATUS.A_VALID else F.TB_STATUS.B_VALID) 0 = false →
      Serves (.timeSelect src) s src (conflict 0) (fun u => u = s.take src)) ∧
    (s.on 56 = false → Serves (.timeSelect src) s src (conflict (s.pw 56)) (fun u => u = s.take src))) ∧
  (∀ (s : State) (src : Src) (p : List Byte), Given s src 0x0803 true true p → 1 ≤ byteAt p 0 → byteAt p 0 ≤ 4 → ∃ pl,
    Serves (.fwStatus src) s src (okWith pl) (fun u => u = s.take src) ∧ byteAt pl 0 = byteAt p 0 ∧
    (let x := s.imageSlots (byteAt p 0)
    bit (byteAt pl 1) 0 = x.staged.isSome ∧ bit (byteAt pl 1) 1 = x.current.isSome ∧ bit (byteAt pl 1) 2 = x.retained.isSome ∧
    bit (byteAt pl 1) 3 = s.cp.heldKinds.contains (byteAt p 0) ∧ bit (byteAt pl 1) 4 = x.current.any (fun i => i.untested) ∧
    (∀ i, x.current = some i → byteAt pl 2 = ((List.range 96).filter (fun t => (s.tree t).image == some (byteAt p 0, i.build))).length) ∧
    (∀ i, x.retained = some i → byteAt pl 3 = ((List.range 96).filter (fun t => (s.tree t).image == some (byteAt p 0, i.build))).length) ∧
    leAt pl 4 4 = abiOf x.staged % 2 ^ 32 ∧ leAt pl 8 8 = buildOf x.staged % 2 ^ 64 ∧
    leAt pl 16 4 = abiOf x.current % 2 ^ 32 ∧ leAt pl 20 8 = buildOf x.current % 2 ^ 64 ∧
    leAt pl 28 4 = abiOf x.retained % 2 ^ 32 ∧ leAt pl 32 8 = buildOf x.retained % 2 ^ 64))

/-- FW_LOAD with DISCARD empties the staging slot of its kind; without it, with its checks passed, the read begins and no answer
is given yet. FW_LOAD_READ_DONE answers it: the image is staged when it passes its checks, the fault found is the answer when
it does not, and TIMEOUT when the read did not finish (R360). FW_START of a staged image of any kind, with no tree in its way and
every counterpart tested with it, makes it the current one and answers its build (R358, R361). -/
def Obligations.FirmwareCommands : Prop :=
  (∀ (s : State) (src : Src) (p : List Byte), Given s src 0x0801 true true p → 1 ≤ byteAt p 0 → byteAt p 0 ≤ 4 →
    s.fwStateOk (byteAt p 0) = true → s.cp.loads.any (fun l => l.kind == byteAt p 0) = false →
    (byteAt p 1 = 1 → Serves (.fwLoad src) s src (okWith (leBytes 1 (byteAt p 0))) (fun u =>
      (u.imageSlots (byteAt p 0)).staged = none ∧ (u.imageSlots (byteAt p 0)).current = (s.imageSlots (byteAt p 0)).current)) ∧
    (byteAt p 1 = 0 → zeroAt p 2 2 = true → zeroAt p 16 40 = true → leAt p 4 4 ≤ imageLimit (byteAt p 0) →
      loadSrcOk (leAt p 8 8) (leAt p 4 4) = true →
      Begins (.fwLoad src) s (fun u => u.cp.loads = s.cp.loads ++ [⟨src, byteAt p 0, leAt p 4 4, leAt p 8 8⟩]))) ∧
  (∀ (s : State) (src : Src) (l : FwLoad), s.cp.loads.find? (fun l => l.src == src) = some l → s.on 54 = true → s.cpRuns = true →
    Serves (.fwLoadReadDone src true) s src (refuse stTIMEOUT 0) (fun u => u.imageSlots l.kind = s.imageSlots l.kind) ∧
    (∀ r, imageFault l.kind (s.imageBytes l.addr l.length) = some r →
      Serves (.fwLoadReadDone src false) s src r (fun u => u.imageSlots l.kind = s.imageSlots l.kind)) ∧
    (imageFault l.kind (s.imageBytes l.addr l.length) = none →
      Serves (.fwLoadReadDone src false) s src (okWith (loadPayload (imageOf l.kind (s.imageBytes l.addr l.length)))) (fun u =>
        (u.imageSlots l.kind).staged = some (imageOf l.kind (s.imageBytes l.addr l.length)) ∧
        (u.imageSlots l.kind).current = (s.imageSlots l.kind).current))) ∧
  (∀ (s : State) (src : Src) (p : List Byte) (i : Image), Given s src 0x0802 true true p → 1 ≤ byteAt p 0 → byteAt p 0 ≤ 4 →
    byteAt p 1 ≤ 1 → zeroAt p 2 54 = true → (s.imageSlots (byteAt p 0)).staged = some i → s.fwStateOk (byteAt p 0) = true →
    s.blockingTree (byteAt p 0) = none →
    (s.counterparts (byteAt p 0)).find? (fun o => !majorsMatch i.side o) = none →
    (s.counterparts (byteAt p 0)).find? (fun o => !pairTested i.side o) = none →
    Serves (.fwStart src) s src (okWith (startPayload (byteAt p 0) 0 0xFF (some i))) (fun u =>
      (u.imageSlots (byteAt p 0)).staged = none ∧ (u.imageSlots (byteAt p 0)).current = some { i with untested := false }))

/-- MBX_GO: a mailbox that is BUSY or DONE rejects the request, else BUSY sets (R339). MBX_READY: the boot code runs and
MBX_READY sets (R37, R87). SITE_TRAINED sets the site's bit of SITE_OK (R29).
LOCKSTEP_MISMATCH restarts the control processor, and halts it with MBX_READY 0 for a second within 1 s of the first;
CP_RESTART_DONE with a wrong digest halts it; else the service state becomes BOOT again where it was BOOT, or follows R353, the
restart is counted, and the responses owed are given (R352, R366, R367). -/
def Obligations.MailboxesBootAndRestarts : Prop :=
  ((∀ (p : PortId) (n : MbxId) (errs : List Upset) (s : State), s.bnd.oscOk = true → s.on 54 = true →
      ((s.flag F.MBX_n_STATUS.BUSY n = true ∨ s.flag F.MBX_n_STATUS.DONE n = true) →
        Runs (.mbxGo p n errs) s (fun t => t.flag F.MBX_n_STATUS.REJECTED n = true ∧ Leaves [F.MBX_n_STATUS.REJECTED] s t ∧
          SameMemory s t)) ∧
      (s.flag F.MBX_n_STATUS.BUSY n = false → s.flag F.MBX_n_STATUS.DONE n = false →
        Begins (.mbxGo p n errs) s (fun u => u.flag F.MBX_n_STATUS.BUSY n = true ∧ Leaves [F.MBX_n_STATUS.BUSY] s u ∧
          SameMemory s u))) ∧
    (∀ s : State, s.on 54 = true → s.bnd.cplxRst = false → s.bnd.softRst = false → s.flag F.GLB_STATUS.MBX_READY 0 = false →
      s.service = svBOOT →
      Begins .mbxReady s (fun u => u.flag F.GLB_STATUS.MBX_READY 0 = true ∧ Leaves [F.GLB_STATUS.MBX_READY] s u ∧ SameMemory s u)) ∧
    (∀ (site : Fin 4) (s : State), s.on 54 = true → s.bnd.cplxRst = false → s.bnd.softRst = false →
      Runs (.siteTrained site) s (fun u =>
        u.rd F.GLB_STATUS.SITE_OK 0 = (s.rd F.GLB_STATUS.SITE_OK 0 ||| 2 ^ site.val) % 16 ∧ SameMemory s u))) ∧
  ((∀ s : State, s.on 54 = true → s.service < svHALTED → s.bnd.cplxRst = false → s.bnd.softRst = false →
      (s.cp.mismatch.all (fun m => decide (ledgerSec ≤ (s.rd F.TB_LEDGER.TICKS 0 + 2 ^ 64 - m.1) % 2 ^ 64)) = true →
        Runs .lockstepMismatch s (fun t => t.service = svRESTARTING ∧ t.rd F.GLB_STATUS.MBX_READY 0 = s.rd F.GLB_STATUS.MBX_READY 0 ∧
          t.cp.mismatch.map (fun m => m.1) = some (s.rd F.TB_LEDGER.TICKS 0))) ∧
      (∀ m, s.cp.mismatch = some m → (s.rd F.TB_LEDGER.TICKS 0 + 2 ^ 64 - m.1) % 2 ^ 64 < ledgerSec →
        Runs .lockstepMismatch s (fun t => t.service = svHALTED ∧ t.flag F.GLB_STATUS.MBX_READY 0 = false))) ∧
    (∀ (s : State) (l b : Nat), s.service = svRESTARTING → s.cp.mismatch = some (l, b) →
      (b ≠ svBOOT → Runs (.cpRestartDone false) s (fun t => t.service = svHALTED ∧ t.flag F.GLB_STATUS.MBX_READY 0 = false)) ∧
      (∀ d : Bool, d = true ∨ b = svBOOT → ∃ u : State, exec (.cpRestartDone d) s = .next u.payOwed ∧
        u.service = (if b = svBOOT then svBOOT else s.serviceDue) ∧ u.cp.owed = s.cp.owed ∧
        u.rd F.MBX_DEVSTATE.RESTARTS 0 = satAdd 8 (s.rd F.MBX_DEVSTATE.RESTARTS 0) 1)))


/-! ### Host rings, completions and interrupts (chapter 09) -/

/-- RING_CREATE, with its fields in range, the ring UNCREATED, its queue created and no binding asked for twice, stores the ring's
fields, clears its head, tail and counts, and makes it READY, or RUNNING with START (R309). RING_DISABLE MODE 0 takes a READY
ring to IDLE and a RUNNING one, or one in ERROR, to DRAINING, with the tail of that moment; MODE 1 takes a READY or IDLE
ring to RUNNING (R282, R310, R311; of a ring whose error was a failed read the model's choice is log entry 63 and it is left
out). RING_DESTROY returns a READY, IDLE or ERROR ring to UNCREATED and forgets it (R310). -/
def Obligations.RingCommands : Prop :=
  (∀ (s : State) (src : Src) (p : List Byte), Given s src 0x0101 false false p → ringCreateFault p = none → s.on 53 = true →
    s.rstate (leAt p 0 2) = rgUNCREATED →
    (leAt p 6 2 = 0xFFFF ∨ s.flag F.IRQ_EQ_STATUS.CREATED (leAt p 6 2) = true) →
    ((decide (byteAt p 2 = rtBITTERN) || bit (byteAt p 3) 3) = true →
      s.bindingHeld (decide (byteAt p 2 = rtBITTERN)) (leAt p 20 12) = false) →
    Serves (.ringCreate src) s src
      (okWith (leBytes 2 (leAt p 0 2) ++ leBytes 1 (if bit (byteAt p 3) 0 then rgRUNNING else rgREADY) ++ zeros 1 ++
        leBytes 4 (dbOffset (leAt p 0 2)))) (fun u =>
      u.rstate (leAt p 0 2) = (if bit (byteAt p 3) 0 then rgRUNNING else rgREADY) ∧
      (u.ring (leAt p 0 2)).typ = byteAt p 2 ∧ (u.ring (leAt p 0 2)).base = leAt p 8 8 ∧
      (u.ring (leAt p 0 2)).cutThrough = bit (byteAt p 3) 1 ∧ (u.ring (leAt p 0 2)).eventAll = bit (byteAt p 3) 2 ∧
      (u.ring (leAt p 0 2)).omci = bit (byteAt p 3) 3 ∧ (u.ring (leAt p 0 2)).bufCode = byteAt p 5 ∧
      (u.ring (leAt p 0 2)).evq = leAt p 6 2 ∧ (u.ring (leAt p 0 2)).rxHold = leAt p 16 2 ∧
      (u.ring (leAt p 0 2)).reasons = leAt p 18 2 ∧ (u.ring (leAt p 0 2)).trees = leAt p 20 12 ∧
      u.rsize (leAt p 0 2) = 2 ^ byteAt p 4 ∧ (u.ring (leAt p 0 2)).rx = [] ∧ (u.ring (leAt p 0 2)).tx = [] ∧
      ∀ f ∈ [F.DB_HEAD.HEAD, F.DB_HEAD.TAIL, F.DB_STATUS.IDLE, F.DB_STATUS.ERR_CAUSE, F.DB_STATUS.HOLDING, F.DB_NO_DESC.COUNT,
          F.DB_NO_FIT.COUNT, F.DB_PARTIAL.COUNT, F.DB_NOCELL.COUNT, F.DB_DISABLE_DROP.COUNT, F.DB_EARLY.COUNT, F.DB_DONE.COUNT],
        u.rd f (leAt p 0 2) = 0)) ∧
  (∀ (s : State) (src : Src) (p : List Byte), Given s src 0x0103 false false p → leAt p 0 2 ≤ 4095 →
    (src ≠ .admin ∨ leAt p 0 2 ≠ 0) → byteAt p 2 ≤ 1 →
    zeroAt p 3 53 = true → s.on 53 = true → ∀ (st : Nat), s.rstate (leAt p 0 2) = st →
    ((byteAt p 2 = 0 ∧ st = rgREADY) ∨ (byteAt p 2 = 0 ∧ (st = rgRUNNING ∨ st = rgERROR) ∧ (s.ring (leAt p 0 2)).failed = none) ∨
      (byteAt p 2 = 1 ∧ (st = rgREADY ∨ st = rgIDLE))) →
    ∃ st', st' = (if byteAt p 2 = 1 then rgRUNNING else if st = rgREADY then rgIDLE else rgDRAINING) ∧
    Serves (.ringDisable src) s src (okWith (leBytes 1 st' ++ zeros 1 ++ leBytes 2 (s.rd F.DB_HEAD.HEAD (leAt p 0 2)))) (fun u =>
      u.rstate (leAt p 0 2) = st' ∧ (st' = rgIDLE → u.flag F.DB_STATUS.IDLE (leAt p 0 2) = true) ∧
      (st' = rgDRAINING → (u.ring (leAt p 0 2)).drainTail = some (s.rd F.DB_HEAD.TAIL (leAt p 0 2))) ∧
      SameMemory s u)) ∧
  (∀ (s : State) (src : Src) (p : List Byte), Given s src 0x0102 false false p → leAt p 0 2 ≤ 4095 →
    (src ≠ .admin ∨ leAt p 0 2 ≠ 0) →
    zeroAt p 2 54 = true → s.on 53 = true → s.rstate (leAt p 0 2) ∈ [rgREADY, rgIDLE, rgERROR] →
    Serves (.ringDestroy src) s src
      (okWith (leBytes 1 rgUNCREATED ++ zeros 1 ++ leBytes 2 (s.rd F.DB_HEAD.HEAD (leAt p 0 2)))) (fun u =>
      u.rstate (leAt p 0 2) = rgUNCREATED ∧ u.ring (leAt p 0 2) = Ring.reset ∧ SameMemory s u))


/-- EVQ_CREATE makes an empty queue with its size, vector and base, or deletes one that no ring is bound to (R301, R308).
HOST_SLEEP_NOTICE keeps whether the host sleeps and gives the number of wake vectors (R306).
DOORBELL: an in-range tail is recorded; one out of range puts a RUNNING or DRAINING ring in ERROR with cause 1 and sets
RING_ERROR; a ring that is UNCREATED sets DB_STRAY; while the host rings domain is not ON the doorbell waits (R283, R284, R286).
RING_IDLE: a DRAINING ring with nothing outstanding goes IDLE and shows it (R282, R311). -/
def Obligations.DoorbellsQueuesAndIdle : Prop :=
  ((∀ (s : State) (src : Src) (p : List Byte), Given s src 0x0104 false false p → s.on 53 = true → zeroAt p 3 1 = true →
      zeroAt p 6 2 = true → zeroAt p 16 40 = true →
      (byteAt p 1 = 0 → 4 ≤ byteAt p 2 → byteAt p 2 ≤ 16 → leAt p 4 2 ≤ 2047 → leAt p 8 8 % 4096 = 0 →
        s.flag F.IRQ_EQ_STATUS.CREATED (byteAt p 0) = false →
        Serves (.evqCreate src) s src (okWith (leBytes 1 (byteAt p 0) ++ zeros 3 ++ leBytes 2 (leAt p 4 2))) (fun u =>
          u.flag F.IRQ_EQ_STATUS.CREATED (byteAt p 0) = true ∧ u.flag F.IRQ_EQ_STATUS.OVERFLOW (byteAt p 0) = false ∧
          u.evq (byteAt p 0) = ⟨byteAt p 2, leAt p 4 2, leAt p 8 8, []⟩ ∧ u.rd F.IRQ_EQ_HEAD.HEAD (byteAt p 0) = 0 ∧
          u.rd F.IRQ_EQ_TAIL.TAIL (byteAt p 0) = 0 ∧ u.rd F.IRQ_EQ_TAIL.PHASE (byteAt p 0) = 1)) ∧
      (byteAt p 1 = 1 → s.rings.any (fun e => s.rstate e.1.1 != rgUNCREATED && e.2.evq == byteAt p 0) = false →
        Serves (.evqCreate src) s src (okWith (leBytes 1 (byteAt p 0) ++ zeros 3 ++ leBytes 2 (leAt p 4 2))) (fun u =>
          u.flag F.IRQ_EQ_STATUS.CREATED (byteAt p 0) = false ∧ u.evq (byteAt p 0) = EvQueue.reset))) ∧
    (∀ (s : State) (src : Src) (p : List Byte), Given s src 0x0002 false false p → byteAt p 0 ≤ 1 → zeroAt p 1 55 = true →
      Serves (.hostSleepNotice src) s src
        (okWith (leBytes 2 ((List.range 2048).filter (fun v => s.flag F.IRQ_VEC_CFG.WAKE v)).length)) (fun u =>
        u.hostSleep = decide (byteAt p 0 = 1)))) ∧
  ((∀ (p : PortId) (r : RingId) (v : BitVec 32) (b : Fin 4) (s : State), s.bnd.oscOk = true → s.on 53 = true →
      (s.rstate r = rgUNCREATED → Runs (.doorbell p r v b) s (fun t =>
        t.flag F.IRQ_STATUS.DB_STRAY 0 = true ∧ Leaves (F.IRQ_STATUS.DB_STRAY :: eventFields) s t ∧ SameMemory s t)) ∧
      (s.rstate r ∈ [rgRUNNING, rgDRAINING] → s.rsize r ≤ bits v.toNat 0 16 → Runs (.doorbell p r v b) s (fun t =>
        t.rstate r = rgERROR ∧ t.rd F.DB_STATUS.ERR_CAUSE r = 1 ∧ t.flag F.IRQ_STATUS.RING_ERROR 0 = true ∧
        t.rd F.DB_HEAD.TAIL r = s.rd F.DB_HEAD.TAIL r ∧ SameMemory s t)) ∧
      (s.rstate r ≠ rgUNCREATED → bits v.toNat 0 16 < s.rsize r → r.val ≠ 0 → Runs (.doorbell p r v b) s (fun t =>
        t.rd F.DB_HEAD.TAIL r = bits v.toNat 0 16 ∧ (t.ring r).early = none ∧
        Leaves [F.DB_HEAD.TAIL] s t ∧ SameMemory s t)) ∧
      (s.rstate r ≠ rgUNCREATED → bits v.toNat 0 16 < s.rsize r → r.val = 0 → Begins (.doorbell p r v b) s (fun t =>
        t.rd F.DB_HEAD.TAIL r = bits v.toNat 0 16 ∧ Leaves [F.DB_HEAD.TAIL] s t ∧ SameMemory s t))) ∧
    (∀ (p : PortId) (r : RingId) (v : BitVec 32) (b : Fin 4) (s : State), s.bnd.oscOk = true → s.on 53 = false →
      Runs (.doorbell p r v b) s (fun t => t.doorbells = s.doorbells ++ [⟨r, bits v.toNat 0 16, bit b 0, bit b 1⟩] ∧
        t.rd F.DB_HEAD.TAIL r = s.rd F.DB_HEAD.TAIL r ∧ SameMemory s t)) ∧
    (∀ (r : RingId) (s : State), s.on 53 = true → s.rstate r = rgDRAINING → (s.ring r).tx = [] → (s.ring r).rx = [] →
      s.rd F.DB_HEAD.HEAD r = s.ringEnd r →
      Runs (.ringIdle r) s (fun t => t.rstate r = rgIDLE ∧ t.flag F.DB_STATUS.IDLE r = true ∧ SameMemory s t)))


/-- TX_DESCRIPTOR: an entry given with OWN 1 is taken, so the head moves on; a refused one with nothing before it completes
in place with its status, one whose payload cannot be read with BUS_ERR, and no other byte of memory changes; an accepted one
goes to the lookup (DEST 1) or its tree's staging (DEST 0 and 3) with the frame its fragments make, where its cells, and for a
launch frame one of the tree's 256 places, can be had; an entry found with OWN 0 stops the ring there and counts in DB_EARLY;
an entry, or a fragment table, that cannot be read puts the ring in ERROR with cause 2. TX_WAIT_RESUME sends a waiting entry
for the lookup on once its cells can be had (R67, R283, R285, R287 to R290, R295, R296, R299).
RX_DELIVER: a frame that fits one buffer and can be claimed is written there, then its completion in its entry, and no
other byte of memory changes; the head moves on and the frame waits no more; a frame whose cells hold an error that cannot be
corrected is dropped before any byte is written (R251, R291, R295, R298). RX_HOLD_EXPIRE drops a frame that still cannot be
claimed RX_HOLD microseconds after its first try and counts it in DB_NO_DESC (R298). -/
def Obligations.TransmittedAndReceivedFrames : Prop :=
  ((∀ (r : RingId) (errs : List Upset) (s : State) (i : Nat), (s.ring r).typ = rtTX → s.on 53 = true →
      (s.ring r).tx.any (fun y => y.waits || y.held) = false → s.nextEntry r = some i →
      ∀ d, d = s.hostRead (s.entryAddr r i) 32 →
      Runs (.txDescriptor r 1 errs) s (fun t => t.rstate r = rgERROR ∧ t.rd F.DB_STATUS.ERR_CAUSE r = 2 ∧ SameMemory s t) ∧
      ((s.ring r).badRead = false →
      (bit (byteAt d 31) 7 = true → (txDesc d).indirect = true → Runs (.txDescriptor r 3 errs) s (fun t =>
        t.rstate r = rgERROR ∧ t.rd F.DB_STATUS.ERR_CAUSE r = 2 ∧ SameMemory s t)) ∧
      (bit (byteAt d 31) 7 = false → Runs (.txDescriptor r 0 errs) s (fun t =>
        t.rd F.DB_EARLY.COUNT r = (s.rd F.DB_EARLY.COUNT r + 1) % 2 ^ F.DB_EARLY.COUNT.w ∧
        t.rd F.DB_HEAD.HEAD r = s.rd F.DB_HEAD.HEAD r ∧ (t.ring r).early = some i ∧ SameMemory s t)) ∧
      (bit (byteAt d 31) 7 = true → (s.ring r).sizeLog2 ≤ 16 → Runs (.txDescriptor r 0 errs) s (fun t =>
        t.rd F.DB_HEAD.HEAD r = (s.rd F.DB_HEAD.HEAD r + 1) % s.rsize r)) ∧
      (∀ (b : Fin 4) (st : Nat), bit (byteAt d 31) 7 = true → (s.ring r).tx = [] → (s.ring r).badWrite = false → s.memInv →
        (b = 0 ∧ s.txRefusal d (txDesc d) = some st ∨ b = 2 ∧ s.txRefusal d (txDesc d) = none ∧ st = txBUS_ERR) →
        Runs (.txDescriptor r b errs) s (fun t =>
          t.hostRead (s.entryAddr r i) 32 = txCompletion d noStamp st 0 0 ∧
          t.rd F.DB_DONE.COUNT r = (s.rd F.DB_DONE.COUNT r + 1) % 2 ^ F.DB_DONE.COUNT.w ∧ (t.ring r).tx = [] ∧
          ∀ a, (a < s.entryAddr r i ∨ s.entryAddr r i + 32 ≤ a) → memByte t.hostMem a = memByte s.hostMem a)) ∧
      (bit (byteAt d 31) 7 = true → s.txRefusal d (txDesc d) = none →
        ((txDesc d).launch = true → s.launchHeld (txDesc d).tree < 256) →
        (s.takeCells 2 (cellsOf (s.txFrame (txDesc d)).1.length)).isSome = true →
        Runs (.txDescriptor r 0 errs) s (fun t =>
          ((txDesc d).dest = 1 → ∃ g ∈ t.buf.ingress, g.origin = .host r i ∧ g.bytes = (s.txFrame (txDesc d)).1 ∧
            g.tree = (txDesc d).tree) ∧
          ((txDesc d).dest = 0 ∨ (txDesc d).dest = 3 → ∃ g ∈ (t.tree (txDesc d).tree).staged, g.origin = .host r i ∧
            g.bytes = (s.txFrame (txDesc d)).1 ∧ g.term = (txDesc d).term ∧ g.omci = ((txDesc d).dest == 3) ∧
            g.launch = (if (txDesc d).launch then s.shortTuple (txDesc d).aux else none)) ∧ SameMemory s t)))) ∧
    (∀ (r : RingId) (s : State) (y : TxOut), s.on 53 = true → (s.ring r).tx = [y] → y.waits = true → y.done = none →
      ∀ d, d = s.hostRead (s.entryAddr r y.idx) 32 → (txDesc d).dest = 1 → (txDesc d).launch = false →
      (s.takeCells 2 (cellsOf (s.txFrame (txDesc d)).1.length)).isSome = true →
      Runs (.txWaitResume r false) s (fun t => (t.ring r).tx = [{ y with waits := false, held := false }] ∧
        (∃ g ∈ t.buf.ingress, g.origin = .host r y.idx ∧ g.bytes = (s.txFrame (txDesc d)).1) ∧ SameMemory s t))) ∧
  ((∀ (r : RingId) (errs : List Upset) (s : State) (f : RxFrame) (rest : List RxFrame), s.on 53 = true →
      s.rstate r = rgRUNNING → (s.ring r).rx = f :: rest → (s.ring r).cutThrough = false →
      (((s.upset errs).cellRead f.cell).1 = true →
        Runs (.rxDeliver r false errs) s (fun t => (t.ring r).rx = rest ∧ t.rd F.DB_HEAD.HEAD r = s.rd F.DB_HEAD.HEAD r ∧
          SameMemory s t)) ∧
      (((s.upset errs).cellRead f.cell).1 = false → s.memInv → (s.ring r).early ≠ some (s.rd F.DB_HEAD.HEAD r) →
        (s.ring r).badWrite = false → 4 ≤ (s.ring r).sizeLog2 →
        (s.ring r).sizeLog2 ≤ 16 → s.rd F.DB_HEAD.HEAD r ≠ s.ringEnd r → s.owned r (s.rd F.DB_HEAD.HEAD r) = true →
        s.rxNeeds r f.bytes.length = 1 → f.bytes.length ≤ (s.ring r).bufSize →
        ∀ e b, e = s.entryAddr r (s.rd F.DB_HEAD.HEAD r) → b = leAt (s.hostRead e 8) 0 8 →
        (b + f.bytes.length ≤ e ∨ e + 32 ≤ b) →
        Runs (.rxDeliver r false errs) s (fun t =>
          t.hostRead b f.bytes.length = f.bytes ∧ t.hostRead e 32 = rxCompletion f f.bytes.length txOK true true ∧
          (∀ a, (a < b ∨ b + f.bytes.length ≤ a) → (a < e ∨ e + 32 ≤ a) → memByte t.hostMem a = memByte s.hostMem a) ∧
          t.rd F.DB_HEAD.HEAD r = (s.rd F.DB_HEAD.HEAD r + 1) % s.rsize r ∧ (t.ring r).rx = rest))) ∧
    (∀ (r : RingId) (s : State) (f : RxFrame) (rest : List RxFrame) (c : Nat), (s.ring r).rx = f :: rest → f.tried = some c →
      (s.ring r).rxHold * 1000 * 2 ^ 32 ≤ (s.tb.ctc + 2 ^ 96 - c) % 2 ^ 96 →
      (s.rxClaim r (s.rxNeeds r f.bytes.length)).1 = false →
      Runs (.rxHoldExpire r) s (fun t => (t.ring r).rx = rest ∧
        t.rd F.DB_NO_DESC.COUNT r = (s.rd F.DB_NO_DESC.COUNT r + 1) % 2 ^ F.DB_NO_DESC.COUNT.w ∧ SameMemory s t)))


/-- A counter of vector fires stands at its last value and its overflow event can set and count on a vector (R304, R446). -/
def wrapEvent (s : State) : Prop :=
  (∃ k, k < 8 ∧ s.rd F.PMC_CNTk.COUNT (101 * 8 + k) + 1 ≥ 2 ^ 32) ∧ s.flag F.PMC_EVENT.CNT_OVF 0 = false ∧
    bit (s.rd F.PMC_EVENT_EN.EN 0) F.PMC_EVENT.CNT_OVF.lo = true ∧ s.flag F.IRQ_SRC_MAP.EN 229 = true

/-- EVENT_POST writes the entry waiting longest at the queue's tail, 16 bytes, and no other byte of memory; the tail moves
on and the phase turns at the wrap (R301). With the queue full it sets OVERFLOW and writes nothing (R302). VECTOR_TIMER: a
running timer that expires fires its vector: the count and timer return to 0, and the message is sent, or PEND sets while
the vector is masked (R305). VECTOR_UNMASK of a pending vector stores the configuration and sends the message at once
(R305). Where a counter of vector fires may wrap and its event is enabled, the message is sent all the same, and that event
follows (R446). EQ_OVERFLOW_CLEAR: a 1 clears a queue's OVERFLOW, a 0 leaves it (R302). -/
def Obligations.EventsVectorsAndOverflow : Prop :=
  (∀ (q : EvqId) (s : State) (e : EvEntry) (rest : List EvEntry), s.on 53 = true → (s.evq q).waiting = e :: rest →
      s.flag F.IRQ_EQ_STATUS.OVERFLOW q = false → (s.evq q).sizeLog2 ≤ 16 →
      ∀ tail size, tail = s.rd F.IRQ_EQ_TAIL.TAIL q → size = 2 ^ (s.evq q).sizeLog2 →
      ((tail + 1) % size ≠ s.rd F.IRQ_EQ_HEAD.HEAD q → s.memInv → Runs (.eventPost q false) s (fun t =>
        t.hostRead ((s.evq q).base + tail * 16) 16 = e.bytes (s.rd F.IRQ_EQ_TAIL.PHASE q) s.stamp ∧
        (∀ a, (a < (s.evq q).base + tail * 16 ∨ (s.evq q).base + tail * 16 + 16 ≤ a) →
          memByte t.hostMem a = memByte s.hostMem a) ∧
        t.rd F.IRQ_EQ_TAIL.TAIL q = (tail + 1) % size ∧ (t.evq q).waiting = rest ∧
        t.rd F.IRQ_EQ_TAIL.PHASE q = (if tail + 1 = size then 1 - s.rd F.IRQ_EQ_TAIL.PHASE q else s.rd F.IRQ_EQ_TAIL.PHASE q))) ∧
      ((tail + 1) % size = s.rd F.IRQ_EQ_HEAD.HEAD q → Runs (.eventPost q false) s (fun t =>
        t.flag F.IRQ_EQ_STATUS.OVERFLOW q = true ∧ t.rd F.IRQ_EQ_TAIL.TAIL q = tail ∧ SameMemory s t))) ∧
  ((∀ (vec : VecId) (s : State), s.flag F.IRQ_VEC_STATE.TIMING vec = true →
      Runs (.vectorTimer vec) s (fun t =>
        (s.flag F.IRQ_VEC_CFG.MASK vec = true → t.flag F.IRQ_VEC_STATE.PEND vec = true ∧ t.out = s.out ∧
          t.rd F.IRQ_VEC_STATE.EVENTS vec = 0 ∧ t.flag F.IRQ_VEC_STATE.TIMING vec = false) ∧
        (s.flag F.IRQ_VEC_CFG.MASK vec = false → t.out = .irq vec :: s.out ∧ t.rd F.IRQ_VEC_STATE.EVENTS vec = 0 ∧
          t.flag F.IRQ_VEC_STATE.TIMING vec = false ∧ t.flag F.IRQ_VEC_CFG.MASK vec = s.flag F.IRQ_VEC_CFG.AUTOMASK vec ∨
          wrapEvent s ∧ ∃ l, t.out = l ++ .irq vec :: s.out) ∧
        Leaves eventFields s t ∧ SameMemory s t)) ∧
    (∀ (p : PortId) (vec : VecId) (v : BitVec 32) (s : State), s.bnd.oscOk = true → s.flag F.IRQ_VEC_CFG.MASK vec = true →
      bits v.toNat F.IRQ_VEC_CFG.MASK.lo 1 = 0 → s.flag F.IRQ_VEC_STATE.PEND vec = true →
      Runs (.vectorUnmask p vec v) s (fun t =>
        (t.out = .irq vec :: s.out ∧ t.flag F.IRQ_VEC_STATE.PEND vec = false ∨ wrapEvent s ∧ ∃ l, t.out = l ++ .irq vec :: s.out) ∧
        t.rd F.IRQ_VEC_CFG.CNT vec = bits v.toNat F.IRQ_VEC_CFG.CNT.lo F.IRQ_VEC_CFG.CNT.w ∧
        t.rd F.IRQ_VEC_CFG.TMR vec = bits v.toNat F.IRQ_VEC_CFG.TMR.lo F.IRQ_VEC_CFG.TMR.w ∧ SameMemory s t)) ∧
    (∀ (p : PortId) (q : EvqId) (v : BitVec 32) (s : State), s.bnd.oscOk = true → s.on 53 = true →
      Runs (.eqOverflowClear p q v) s (fun t =>
        (bit v.toNat 0 = true → t.flag F.IRQ_EQ_STATUS.OVERFLOW q = false) ∧
        (bit v.toNat 0 = false → t.rd F.IRQ_EQ_STATUS.OVERFLOW q = s.rd F.IRQ_EQ_STATUS.OVERFLOW q % 2) ∧
        Leaves [F.IRQ_EQ_STATUS.OVERFLOW] s t ∧ SameMemory s t)))
/-! ### Brine pool, buffer stacks and the trunk stream (chapter 08) -/

/-- Whether a number lies in a range. -/
def withinRange (x lo hi : Nat) : Prop := lo ≤ x ∧ x ≤ hi

/-- BUFFER_CONFIG within the ranges of R276 stores its settings (the regions only with REGIONS, with every tree DISABLED and
no ring active) and answers them. QUEUE_PROFILE stores a profile whose reserve fits (R261); QUEUE_SET gives it to the queues of
its range and classes and to no other (R262). BUFFER_STATUS and QUEUE_STATUS change nothing; the first shows the free cells,
the free, reserved, spilled and orphan pages and the retired cells, the second a queue's depth, pages, drops, staged bytes
and profile, each cut to its field's width (R277). -/
def Obligations.BufferCommands : Prop :=
  (∀ (s : State) (src : Src) (p : List Byte) (c : BufConfig), Given s src 0x0110 false false p → c = BufConfig.ofBytes s.buf.cfg p →
    byteAt p 0 ≤ 7 → zeroAt p 3 1 = true → zeroAt p 36 20 = true →
    (bit (byteAt p 0) 0 = true → 16384 ≤ c.usCells ∧ 16384 ≤ c.dsCells ∧ 4096 ≤ c.hostCells ∧
      c.usCells + c.dsCells + c.hostCells + s.buf.retired ≤ 393216 ∧ (∀ t, t < 96 → s.tstate t = trDISABLED) ∧
      s.ringActive = false) →
    withinRange c.spillOn 256 65536 → c.spillMax ≤ 4194304 → withinRange c.dsCredit 256 65535 → 2 * creditCells c.dsCredit ≤ c.dsCells →
    withinRange c.stageTree 64 4096 → c.stageTree * 96 ≤ c.dsCells - creditCells c.dsCredit → withinRange c.stageQ 2048 262144 →
    ∃ pl, Serves (.bufferConfig src) s src (okWith pl) (fun u => u.buf.cfg = c) ∧ leAt pl 16 4 = c.spillOn ∧
      leAt pl 20 4 = c.spillMax ∧ leAt pl 24 4 = c.dsCredit ∧ leAt pl 28 4 = c.stageTree ∧ leAt pl 32 4 = c.stageQ) ∧
  (∀ (s : State) (src : Src) (p : List Byte), Given s src 0x0111 true true p → ∃ pl,
    Serves (.bufferStatus src) s src (okWith pl) (fun u => u = s.take src) ∧ leAt pl 0 4 = s.freeCellsAll % 2 ^ 32 ∧
    leAt pl 4 4 = s.sharedFree % 2 ^ 32 ∧ leAt pl 8 4 = s.freePages % 2 ^ 32 ∧ leAt pl 12 4 = s.reservePages % 2 ^ 32 ∧
    leAt pl 16 4 = s.spillPages % 2 ^ 32 ∧ leAt pl 20 4 = s.orphans % 2 ^ 32 ∧ leAt pl 40 2 = s.buf.retired % 2 ^ 16) ∧
  (∀ (s : State) (src : Src) (p : List Byte) (q : QProf), Given s src 0x0112 false false p →
    q = ⟨bit (byteAt p 1) 0, byteAt p 2, byteAt p 3, leAt p 4 4, leAt p 8 4, leAt p 12 4⟩ → byteAt p 0 ≤ 63 → byteAt p 1 ≤ 1 →
    (q.alpha ≤ 7 ∨ q.alpha = 0xFF) → q.minBytes ≤ 16777216 → 16384 ≤ q.maxBytes → q.maxBytes ≤ 2147483648 →
    q.minBytes ≤ q.maxBytes → (q.early = true → q.earlyBytes < q.maxBytes) → zeroAt p 16 40 = true →
    s.reserveFits (s.reserveWith (fun i => if i = byteAt p 0 then q.minBytes else (s.qprof i).minBytes)) = true →
    Serves (.queueProfile src) s src (okWith (slice p 0 16)) (fun u => u.qprof (byteAt p 0) = q ∧
      ∀ n, n ≠ byteAt p 0 → u.qprof n = s.qprof n)) ∧
  (∀ (s : State) (src : Src) (p : List Byte), Given s src 0x0113 false false p → byteAt p 0 ≤ 95 → leAt p 4 2 ≤ 1023 →
    leAt p 2 2 ≤ leAt p 4 2 → byteAt p 6 ≤ 63 → zeroAt p 7 49 = true → s.tstate (byteAt p 0) ≠ trFAULT →
    (let b := s.bindQueues (byteAt p 0) (byteAt p 1) (leAt p 2 2) (leAt p 4 2 + 1 - leAt p 2 2) (byteAt p 6)
     b.reserveFits b.reserveBytes = true) →
    ∃ pl, Serves (.queueSet src) s src (okWith pl) (fun u => ∀ (t k c : Nat), c < 8 → k < 1024 →
      u.deepQ t k c = if t = byteAt p 0 ∧ leAt p 2 2 ≤ k ∧ k ≤ leAt p 4 2 ∧ bit (byteAt p 1) c = true then
        { s.deepQ t k c with profile := byteAt p 6 } else s.deepQ t k c)) ∧
  (∀ (s : State) (src : Src) (p : List Byte), Given s src 0x0114 false true p → byteAt p 0 ≤ 95 → byteAt p 1 ≤ 7 →
    leAt p 2 2 ≤ 1023 → ∃ pl, Serves (.queueStatus src) s src (okWith pl) (fun u => u = s.take src) ∧
    leAt pl 0 4 = (s.deepQ (byteAt p 0) (leAt p 2 2) (byteAt p 1)).depth % 2 ^ 32 ∧
    leAt pl 4 4 = (s.deepQ (byteAt p 0) (leAt p 2 2) (byteAt p 1)).pages.length % 2 ^ 32 ∧
    leAt pl 8 4 = (s.deepQ (byteAt p 0) (leAt p 2 2) (byteAt p 1)).drops % 2 ^ 32 ∧
    leAt pl 12 4 = s.stagedBytes (byteAt p 0) (leAt p 2 2) (byteAt p 1) % 2 ^ 32 ∧
    byteAt pl 16 = (s.deepQ (byteAt p 0) (leAt p 2 2) (byteAt p 1)).profile % 2 ^ 8)

/-- TRUNK_INGRESS: a frame for a tree, not marked, that its lane and class hold credits for and the brine pool has cells
for, goes to the lookup with at most its first 16,384 bytes, and takes its segments' credits; one without credits counts in
DS_NOCREDIT and goes nowhere (R265, R267, R271). TRUNK_SEND, with the forwarding engine ready, sends the head frame of the
highest class whose credits cover it, with its header, takes its credits and counts its segments, where no cell of it holds an
error that cannot be corrected (R266, R269, R270). -/
def Obligations.TrunkFrames : Prop :=
  (∀ (lane : LaneId) (hdr frame : List Byte) (s : State), s.on 52 = true → bits (byteAt hdr 0) 0 7 ≤ 95 →
    (segsOf frame.length ≤ smGet 0 s.buf.dsGiven (creditKey lane (bits (byteAt hdr 7) 0 3)) →
      bit (byteAt hdr 7) 3 = false → bit (byteAt hdr 7) 4 = false →
      (s.takeCells 1 (cellsOf (frame.take 16384).length)).isSome = true →
      Runs (.trunkIngress lane hdr frame) s (fun t =>
        (∃ g, t.buf.ingress = s.buf.ingress ++ [g] ∧ g.bytes = frame.take 16384 ∧ g.tree = bits (byteAt hdr 0) 0 7 ∧
          g.lane = lane.val ∧ g.cls = bits (byteAt hdr 7) 0 3 ∧ g.origin = .trunk) ∧
        smGet 0 t.buf.dsGiven (creditKey lane (bits (byteAt hdr 7) 0 3)) =
          smGet 0 s.buf.dsGiven (creditKey lane (bits (byteAt hdr 7) 0 3)) - segsOf frame.length ∧ SameMemory s t)) ∧
    (smGet 0 s.buf.dsGiven (creditKey lane (bits (byteAt hdr 7) 0 3)) < segsOf frame.length →
      Runs (.trunkIngress lane hdr frame) s (fun t => t.cnt (pageLane lane) 0x98 = satAdd 64 (s.cnt (pageLane lane) 0x98) 1 ∧
        t.buf = s.buf ∧ SameMemory s t))) ∧
  (∀ (lane : LaneId) (s : State) (c : Nat) (f : UsFrame), s.on 52 = true → s.buf.feReady = true →
    s.sendClass lane = some (c, f) → (s.cellRead f.cell).1 = false →
    Runs (.trunkSend lane) s (fun t => Output.trunk lane c f.header f.bytes ∈ t.out ∧
      smGet 0 t.buf.credits (creditKey lane c) = smGet 0 s.buf.credits (creditKey lane c) - segsOf f.bytes.length ∧
      t.cnt (pageLane lane) 0xA8 = satAdd 64 (s.cnt (pageLane lane) 0xA8) (segsOf f.bytes.length)))


/-- No word of the buffer stacks and of their links holds an error. -/
def stacksClean (l : List Upset) : Prop := ∀ u ∈ l, u.mem ≠ 5 ∧ u.mem ≠ 6 ∧ u.mem ≠ 7

/-- CREDIT_RETURN, with the forwarding engine ready, adds credits up to 1,048,575, past which it counts (R268). FE_NOT_READY and
FE_READY show whether it is; the counters restart at 0 when it becomes ready (R270). ORPHAN_RECLAIM frees the pages of the cut
first in line, those its link entries name (R259). STAGING_REFILL of a queue whose share is half empty, with no other refill
asked for and no error in the stacks, moves its head frame to its tree's staging (R264).
SPILL_WRITE moves the frame first in line to the tail of its spill queue, and counts it, where its cells hold no error that
cannot be corrected and there is room (R273); SPILL_READBACK, with the brine queue sent and no error in the stacks, brings the
spill queue's head back into brine (R272). -/
def Obligations.CreditsStagingAndSpill : Prop :=
  ((∀ (lane : LaneId) (cls : Fin 8) (n : Nat) (s : State), s.on 52 = true → s.buf.feReady = true →
      Runs (.creditReturn lane cls n) s (fun t =>
        smGet 0 t.buf.credits (creditKey lane cls) = min 1048575 (smGet 0 s.buf.credits (creditKey lane cls) + n) ∧
        (1048575 < smGet 0 s.buf.credits (creditKey lane cls) + n →
          t.cnt (pageLane lane) 0xA0 = satAdd 64 (s.cnt (pageLane lane) 0xA0) 1) ∧ SameMemory s t)) ∧
    (∀ s : State, Runs .feNotReady s (fun t => t.buf.feReady = false ∧ Leaves [] s t ∧ SameMemory s t)) ∧
    (∀ s : State, s.buf.feReady = false → Runs .feReady s (fun t => t.buf.feReady = true ∧ t.buf.credits = [] ∧
      Leaves [] s t ∧ SameMemory s t)) ∧
    (∀ (s : State) (c : Cut) (rest : List Cut), s.buf.cuts = c :: rest →
      Runs .orphanReclaim s (fun t => t.buf.cuts = rest ∧ t.freePages = s.freePages + (s.cutLost c).length ∧
        (∀ p ∈ s.cutLost c, p ∈ t.buf.freed0 ∨ p ∈ t.buf.freed1) ∧ Leaves [] s t ∧ SameMemory s t)) ∧
    (∀ (t : TreeId) (k : TermId) (cls : Fin 8) (errs : List Upset) (s : State) (f : DeepFrame) (rest : List DeepFrame),
      s.tstate t = trACTIVE → s.on 51 = true → s.buf.refills = [] → stacksClean (s.upset errs).upsets →
      (s.deepQ t k cls).frames = f :: rest → s.stagedBytes t k cls ≤ s.buf.cfg.stageQ / 2 →
      s.stagedBytes t k cls < s.buf.cfg.stageQ → s.stageCells t + cellsOf f.bytes.length ≤ s.buf.cfg.stageTree →
      (s.takeCells 1 (cellsOf f.bytes.length)).isSome = true →
      Runs (.stagingRefill t k cls errs) s (fun u =>
        (∃ g ∈ (u.tree t).staged, g.term = k.val ∧ g.cls = cls.val ∧ g.bytes = f.bytes ∧ g.port = f.port ∧ g.origin = f.origin) ∧
        SameMemory s u))) ∧
  ((∀ (lane : LaneId) (cls : Fin 8) (s : State) (f : UsFrame) (rest : List UsFrame) (q : EgressQ), q = s.egressQ lane cls →
      q.toSpill = f :: rest → q.st = 1 → s.on 51 = true → (s.cellRead f.cell).1 = false →
      ∀ need, need = pagesNeeded q.headOff ((q.spill ++ [f]).map (fun g => g.bytes.length)) - q.pages.length →
      s.spillRoom need = true → (State.takePages (spillNo lane cls) need q.seq s q.pages).isSome = true →
      Runs (.spillWrite lane cls) s (fun t => (t.egressQ lane cls).spill = q.spill ++ [{ f with cell := 0 }] ∧
        t.cnt (pageLane lane) (0xC0 + 8 * cls) = satAdd 64 (s.cnt (pageLane lane) (0xC0 + 8 * cls)) 1 ∧ SameMemory s t)) ∧
    (∀ (lane : LaneId) (cls : Fin 8) (s : State) (f : UsFrame) (rest : List UsFrame) (id : Nat) (s1 : State),
      (s.egressQ lane cls).brine = [] → (s.egressQ lane cls).spill = f :: rest → s.on 51 = true → stacksClean s.upsets →
      s.takeCells 0 (cellsOf f.bytes.length) = some (id, s1) →
      Runs (.spillReadback lane cls) s (fun t => (t.egressQ lane cls).brine.head? = some { f with cell := id } ∧
        (t.egressQ lane cls).spill = rest ∧ SameMemory s t)))

/-! ### Tree engines, downstream (chapter 03) -/

/-- R101: the codes of the tree states, and TRE_STATE, which shows the code and answers a read (R32) in every state of the tree-pair
domain, with no error recorded. -/
def Obligations.TreeStateCodes : Prop :=
  (trDISABLED = 0 ∧ trDORMANT = 1 ∧ trACTIVE = 2 ∧ trSTANDBY = 3 ∧ trFAULT = 4) ∧
  ∀ (p : PortId) (t : TreeId) (s : State), s.bnd.oscOk = true → s.tstate t ≤ 4 → Runs (.readClear p (0x80000 + t * 0x400) 4 false) s (fun u =>
    (∃ v, u.out.head? = some (.readData p.val v) ∧ bits v 0 3 = s.tstate t) ∧ Leaves [] s u ∧ SameMemory s u)

/-- TREE_CONFIG within its ranges, without MODIFY on a DISABLED tree or with MODIFY on one that is not in FAULT, stores its
fields (R106, R107); outside DISABLED changed dormancy and survey times wait for the next frame. TREE_ENABLE MODE 1 on an
ACTIVE tree changes nothing; in a state other than these two, and where a precondition of R104 is missing, it is refused;
on a DISABLED tree that meets R104 it fixes the start frame, AT or the first boundary 20 µs on, or first wakes the tree-pair
domain, and it refuses an AT less than 20 µs away. MODE 0 with no start pending, no pair, and the pair's engine not FAULTED
leaves the tree DISABLED (R102, R104, R108); FAULT_CAUSE 0 then is the model's choice (log entry 59). -/
def Obligations.TreeCommands : Prop :=
  (∀ (s : State) (src : Src) (p : List Byte) (t : Nat), Given s src 0x0201 false false p → t = byteAt p 0 → t ≤ 95 →
    byteAt p 1 ≤ 1 → byteAt p 2 ≤ 1 → (if byteAt p 2 = 1 then withinRange (byteAt p 3) 1 7 else byteAt p 3 = 0) →
    withinRange (leAt p 4 2) 1518 16000 → withinRange (byteAt p 6) 1 16 → byteAt p 7 ≤ 8 → (leAt p 10 2 = 0 ∨ 8 ≤ leAt p 10 2) →
    withinRange (leAt p 12 2) 1 1024 → zeroAt p 14 2 = true → zeroAt p 24 32 = true →
    (leAt p 20 4 = 0xFFFFFFFF ∨ (leAt p 20 4 < 2 ^ 17 ∧ s.bcastBound (leAt p 20 4) t = true)) →
    (byteAt p 1 = 0 → s.tstate t = trDISABLED) →
    (byteAt p 1 = 1 → s.tstate t ≠ trFAULT ∧ (s.tstate t = trSTANDBY → s.paired t = false) ∧
      byteAt p 2 = s.rd F.TRE_STATE.PROFILE t ∧ byteAt p 3 = (s.tree t).usRates ∧ byteAt p 7 = s.rd F.TRE_CFG.WARM_FRAMES t ∧
      leAt p 16 4 = s.rd F.TRE_PON_ID.PON_ID t) →
    Serves (.treeConfig src) s src
      (okWith (leBytes 1 t ++ leBytes 1 (s.tstate t) ++ zeros 2 ++ leBytes 4 (fsCap (byteAt p 2 == 1)))) (fun u =>
      u.tstate t = s.tstate t ∧ (byteAt p 1 = 0 → u.rd F.TRE_STATE.CONFIGURED t = 1) ∧
      u.rd F.TRE_STATE.PROFILE t = byteAt p 2 ∧ (u.tree t).usRates = byteAt p 3 ∧ u.rd F.TRE_CFG.MAX_FRAME t = leAt p 4 2 ∧
      u.rd F.TRE_CFG.PLOAM_MAX t = byteAt p 6 ∧ u.rd F.TRE_CFG.WARM_FRAMES t = byteAt p 7 ∧
      (u.tree t).dormantFrames = leAt p 8 2 ∧ (u.tree t).surveyPeriod = leAt p 10 2 ∧ (u.tree t).surveyLen = leAt p 12 2 ∧
      u.rd F.TRE_PON_ID.PON_ID t = leAt p 16 4 ∧
      u.times t = (if s.tstate t = trDISABLED then (leAt p 8 2, leAt p 10 2, leAt p 12 2) else s.times t) ∧
      (if leAt p 20 4 = 0xFFFFFFFF then u.flag F.TRE_BCAST_SLOT.VALID t = false
       else u.flag F.TRE_BCAST_SLOT.VALID t = true ∧ u.rd F.TRE_BCAST_SLOT.SLOT t = leAt p 20 4) ∧ SameMemory s u)) ∧
  (∀ (s : State) (src : Src) (p : List Byte) (t : Nat), Given s src 0x0202 false false p → t = byteAt p 0 → t ≤ 95 →
    zeroAt p 2 6 = true → leAt p 8 8 < 2 ^ 51 →
    (byteAt p 1 = 1 → s.tstate t = trACTIVE →
      Serves (.treeEnable src) s src (okWith (enablePayload trACTIVE 0 0)) (fun u => u = s.take src)) ∧
    (byteAt p 1 = 1 → s.tstate t ≠ trACTIVE → s.tstate t ≠ trDISABLED →
      Serves (.treeEnable src) s src (conflict (s.tstate t)) (fun u => u = s.take src)) ∧
    (∀ r, byteAt p 1 = 1 → s.tstate t = trDISABLED → s.enableLack t = some r →
      Serves (.treeEnable src) s src r (fun u => u = s.take src)) ∧
    (byteAt p 1 = 1 → s.tstate t = trDISABLED → s.enableLack t = none → leAt p 8 8 ≠ 0 →
      boundary t (leAt p 8 8) < s.tide + 20000 * 256 → Serves (.treeEnable src) s src (badArg 8) (fun u => u = s.take src)) ∧
    (byteAt p 1 = 1 → s.tstate t = trDISABLED → s.enableLack t = none → (s.tree t).start = none →
      (leAt p 8 8 ≠ 0 → s.tide + 20000 * 256 ≤ boundary t (leAt p 8 8)) →
      (s.on (pairOf t) = true → ∀ f : Int, f = (if leAt p 8 8 = 0 then frameFrom t (s.tide + 20000 * 256) else (leAt p 8 8 : Int)) →
        Serves (.treeEnable src) s src (okWith (enablePayload trDISABLED 0 f)) (fun u =>
          (u.tree t).start = some ⟨some f, s.tide + 20000 * 256, none⟩ ∧ u.tstate t = trDISABLED)) ∧
      (s.on (pairOf t) = false → Begins (.treeEnable src) s (fun u =>
        (u.tree t).start = some ⟨if leAt p 8 8 = 0 then none else some (leAt p 8 8), s.tide + 20000 * 256, some src⟩ ∧
        u.tstate t = trDISABLED))) ∧
    (byteAt p 1 = 0 → s.tstate t = trDISABLED → (s.tree t).start = none → s.est (pairOf t) ≠ esFAULTED →
      Serves (.treeEnable src) s src (okWith (enablePayload trDISABLED 0 0)) (fun u => u = s.take src)) ∧
    (byteAt p 1 = 0 → s.tstate t ≠ trDISABLED → s.ps t = psNONE → (s.tree t).start = none → s.est (pairOf t) ≠ esFAULTED →
      Serves (.treeEnable src) s src (okWith (enablePayload trDISABLED 0 0)) (fun u =>
        u.tstate t = trDISABLED ∧ u.rd F.TRE_STATE.FAULT_CAUSE t = 0 ∧ (u.tree t).staged = [] ∧ (u.tree t).inFlight = none ∧
        (u.tree t).txOn = false)))

/-- TREE_START makes the tree ACTIVE at its start frame, warm frames first (R102, R104). TREE_DORMANT takes an ACTIVE tree in
no pair to DORMANT after DORMANT_FRAMES empty frames, its laser off, outside the minimum stay (R102, R105). SURVEY_WAKE, at a
frame that SURVEY_PERIOD divides, wakes a DORMANT tree: with its domain ON it sends from its first boundary after the wake, at
which DS_FRAME_START makes it ACTIVE, for at least SURVEY_LEN frames (R105); else its domain is woken. SURVEY_END ends the
stay, in DORMANT where no terminal is in OPERATION. LANE_LOCK_LOST puts the tree into FAULT with cause 1 (R102, R103). -/
def Obligations.TreeStateChanges : Prop :=
  (∀ (t : TreeId) (s : State) (x : Start) (f : Int), (s.tree t).start = some x → x.at_ = some f → s.tstate t = trDISABLED →
    s.on (pairOf t) = true → f ≤ s.frame t →
    Runs (.treeStart t) s (fun u => u.tstate t = trACTIVE ∧ (u.tree t).firstF = some (s.frame t) ∧ (u.tree t).start = none ∧
      (u.tree t).warm = s.rd F.TRE_CFG.WARM_FRAMES t ∧ u.flag F.TRE_EVENT.STATE_CHANGE t = true ∧ SameMemory s u)) ∧
  (∀ (t : TreeId) (s : State), s.tstate t = trACTIVE → (s.times t).1 ≠ 0 → s.paired t = false →
    s.rd F.TRE_STATE.OPER_TERMS t = 0 → (s.times t).1 ≤ (s.tree t).emptyRun →
    (∀ f, (s.tree t).stayUntil = some f → f ≤ s.frame t) →
    Runs (.treeDormant t) s (fun u => u.tstate t = trDORMANT ∧ (u.tree t).txOn = false ∧ (u.tree t).inFlight = none ∧
      u.txdis t = true)) ∧
  (∀ (t : TreeId) (s : State), s.tstate t = trDORMANT → (s.times t).2.1 ≠ 0 → s.frame t % ((s.times t).2.1 : Int) = 0 →
    (s.on (pairOf t) = true → Runs (.surveyWake t) s (fun u => u.tstate t = trDORMANT ∧ (u.tree t).woken = true ∧
      (u.tree t).survey = true ∧ (u.tree t).firstF = some (frameFrom t (s.tide + 1)))) ∧
    (s.on (pairOf t) = false → Runs (.surveyWake t) s (fun u => u.tstate t = trDORMANT ∧ (u.tree t).woken = true ∧
      (u.tree t).survey = true))) ∧
  (∀ (t : TreeId) (s : State) (f : Int), s.tstate t = trDORMANT → (s.tree t).woken = true → s.on (pairOf t) = true →
    s.ps t = psNONE → (s.tree t).firstF = some f → f ≤ s.frame t → (∀ g, (s.tree t).begun = some g → g < s.frame t) →
    Runs (.dsFrameStart t) s (fun u => u.tstate t = trACTIVE ∧ (u.tree t).firstF = some (s.frame t) ∧
      (u.tree t).stayUntil = (if (s.tree t).survey then some (s.frame t + ((s.times t).2.2 : Int)) else none) ∧
      (u.tree t).woken = false ∧ (u.tree t).txOn = true)) ∧
  (∀ (t : TreeId) (s : State) (f : Int), s.tstate t = trACTIVE → (s.tree t).stayUntil = some f → f ≤ s.frame t →
    (s.rd F.TRE_STATE.OPER_TERMS t = 0 → s.paired t = false → Runs (.surveyEnd t) s (fun u => u.tstate t = trDORMANT)) ∧
    ((s.rd F.TRE_STATE.OPER_TERMS t ≠ 0 ∨ s.paired t = true) →
      Runs (.surveyEnd t) s (fun u => u = s.setTree t { s.tree t with stayUntil := none }))) ∧
  (∀ (t : TreeId) (s : State), (s.tstate t = trACTIVE ∨ s.tstate t = trDORMANT ∨ s.tstate t = trSTANDBY) →
    Runs (.laneLockLost t) s (fun u => u.tstate t = trFAULT ∧ u.rd F.TRE_STATE.FAULT_CAUSE t = 1 ∧ u.txdis t = true))

/-- KEY_STAGE, with the checks of R89 passed, writes the bank it names and leaves the other; its key bytes are zeroed.
KEY_SWITCH_AT arms the switch and answers the frame it replaces (R91), KEY_SWAP carries it out, RETIRED_BANK_EXPIRE ends the
RETIRED bank after RETIRE_HOLD frames, 0 acting as 1 (R91, R124, R147). KEY_ERASE, with UNBIND returning the slot to FREE, and
CIPHER_ERASE_NOTICE empty both banks and cancel the switch (R93). -/
def Obligations.KeySlots : Prop :=
  (∀ (s : State) (src : Src) (p : List Byte) (h : Nat) (x : KeySlot) (b : Bank), Given s src 0x0A01 false false p →
    h = leAt p 0 4 → x = s.slot h → b = ⟨beAt p 16 16, byteAt p 5, 1, 0⟩ → h < 2 ^ 17 → byteAt p 4 ≤ 3 →
    withinRange (byteAt p 5) 1 2 →
    (bit (byteAt p 4) 1 = true → byteAt p 6 ≤ 95 ∧ byteAt p 7 ≤ 1 ∧ (byteAt p 7 = 0 → leAt p 8 2 ≤ 1022) ∧
      (x.bound = true → x.kind = byteAt p 7 ∧ x.tree = byteAt p 6 ∧ (byteAt p 7 = 1 ∨ x.term = leAt p 8 2))) →
    (bit (byteAt p 4) 1 = false → x.bound = true) → zeroAt p 10 6 = true → zeroAt p 32 24 = true →
    s.standbySlot h = false → (bit (byteAt p 4) 0 = true → s.slotInUse h = false) → x.switchF = none →
    (let other := if bit (byteAt p 4) 0 then x.next else x.cur
     other.state = 1 → other.index ≠ byteAt p 5) → ∃ pl,
    ServesKey (.keyStage src) s src (okWith pl) (fun u => (u.slot h).bound = true ∧ (u.slot h).switchF = none ∧
      (u.slot h).cur = (if bit (byteAt p 4) 0 then b else x.cur) ∧ (u.slot h).next = (if bit (byteAt p 4) 0 then x.next else b) ∧
      (bit (byteAt p 4) 1 = true → (u.slot h).kind = byteAt p 7 ∧ (u.slot h).tree = byteAt p 6 ∧
        (byteAt p 7 = 0 → (u.slot h).term = leAt p 8 2))) ∧ leAt pl 0 4 = h ∧ byteAt pl 4 = 1) ∧
  (∀ (s : State) (src : Src) (p : List Byte) (h : Nat), Given s src 0x0A02 false false p → h = leAt p 0 4 → h < 2 ^ 17 →
    zeroAt p 4 4 = true → leAt p 8 8 < 2 ^ 51 → s.standbySlot h = false → (s.slot h).bound = true → (s.slot h).next.state = 1 →
    s.frame (s.slot h).tree + 2 ≤ (leAt p 8 8 : Int) →
    Serves (.keySwitchAt src) s src (okWith ((s.setSlot h { s.slot h with switchF := some (leAt p 8 8 : Int) }).keyPayload h
        ((s.slot h).switchF.getD 0)))
      (fun u => u.slot h = { s.slot h with switchF := some (leAt p 8 8 : Int) })) ∧
  (∀ (s : State) (src : Src) (p : List Byte) (h : Nat), Given s src 0x0A03 true true p → h = leAt p 0 4 → h < 2 ^ 17 →
    byteAt p 4 ≤ 1 → zeroAt p 5 3 = true → ∃ pl, Serves (.keyErase src) s src (okWith pl) (fun u =>
      (u.slot h).cur.state = 0 ∧ (u.slot h).next.state = 0 ∧ (u.slot h).switchF = none ∧
      (u.slot h).bound = (if byteAt p 4 = 1 then false else (s.slot h).bound))) ∧
  (∀ (slots : List SlotId) (s : State), Runs (.cipherEraseNotice slots) s (fun u => ∀ h ∈ slots,
    (u.slot h).cur.state = 0 ∧ (u.slot h).next.state = 0 ∧ (u.slot h).switchF = none)) ∧
  (∀ (slot : SlotId) (s : State) (f : Int), (s.slot slot).switchF = some f → f ≤ s.frame (s.slot slot).tree →
    Runs (.keySwap slot) s (fun u => (u.slot slot).cur = (s.slot slot).next ∧ (u.slot slot).switchF = none ∧
      (u.slot slot).next = (if (s.slot slot).cur.state = 0 then (s.slot slot).cur
        else { (s.slot slot).cur with state := 2, retiredF := f }) ∧ Leaves [] s u ∧ SameMemory s u)) ∧
  (∀ (slot : SlotId) (s : State), (s.slot slot).next.state = 2 →
    (s.slot slot).next.retiredF + (max 1 (s.rd F.TRE_US_CTL.RETIRE_HOLD (s.slot slot).tree) : Nat) ≤ s.frame (s.slot slot).tree →
    Runs (.retiredBankExpire slot) s (fun u => u.slot slot = { s.slot slot with next := Bank.empty } ∧
      Leaves [] s u ∧ SameMemory s u))

/-- MAP_LATCH takes the released map, else the hold map of the frame before, else an empty map, and an empty map for a warm
frame (R78, R79). DS_FRAME_START ends the frame before with its trailer and sends frame F with the map latched for it and the
messages chosen for it, at most PLOAM_MAX, URGENT first (R77, R80), and a warm frame with no map and no message (R79).
PLOAM_HELD_QUEUED queues the message held longest once a queue of its own has room (R81). DRAW_FRAME fills a warm frame's space,
or space too small for a fragment, with one idle XGEM frame (R79, R84), goes on with the frame partly sent as far as the space
goes (R84), and else sends an idle XGEM frame, or the one frame staged whole and in clear (R82, R85). -/
def Obligations.DownstreamFrames : Prop :=
  (∀ (t : TreeId) (s : State) (f0 : Int), s.tstate t = trACTIVE → (s.tree t).firstF = some f0 → f0 ≤ s.latchFrame t →
    (∀ m, (s.tree t).latched = some m → m.f < s.latchFrame t) →
    (0 < (s.tree t).warm → Runs (.mapLatch t) s (fun u => (u.tree t).latched = some ⟨s.latchFrame t, []⟩ ∧ (u.tree t).mapKind = 2 ∧
      Leaves [] s u)) ∧
    ((s.tree t).warm = 0 →
      (∀ m, (s.tree t).relMap = some m → m.f = s.latchFrame t →
        Runs (.mapLatch t) s (fun u => (u.tree t).latched = some m ∧ (u.tree t).mapKind = 0)) ∧
      ((∀ m, (s.tree t).relMap = some m → m.f ≠ s.latchFrame t) →
        (∀ m, (s.tree t).latched = some m → m.f = s.latchFrame t - 1 → (s.tree t).mapKind = 0 →
          Runs (.mapLatch t) s (fun u => (u.tree t).latched = some ⟨s.latchFrame t, m.grants.filter (fun g => g.kind == 0)⟩ ∧
            (u.tree t).mapKind = 1 ∧
            u.rd F.TRE_DS_HOLDMAP.COUNT t = satAdd F.TRE_DS_HOLDMAP.COUNT.w (s.rd F.TRE_DS_HOLDMAP.COUNT t) 1 %
              2 ^ F.TRE_DS_HOLDMAP.COUNT.w ∧ u.flag F.TRE_EVENT.MAP_HOLD t = true)) ∧
        ((∀ m, (s.tree t).latched = some m → m.f = s.latchFrame t - 1 → (s.tree t).mapKind ≠ 0) →
          Runs (.mapLatch t) s (fun u => (u.tree t).latched = some ⟨s.latchFrame t, []⟩ ∧ (u.tree t).mapKind = 2 ∧
            u.flag F.TRE_EVENT.MAP_EMPTY t = true))))) ∧
  (∀ (t : TreeId) (s : State) (f0 fr : Int), fr = s.frame t → s.tstate t = trACTIVE → s.ps t = psNONE →
    s.on (pairOf t) = true → (s.tree t).firstF = some f0 → f0 ≤ fr → (∀ f, (s.tree t).begun = some f → f < fr) →
    (0 < (s.tree t).warm → Runs (.dsFrameStart t) s (fun u =>
      Output.dsFrame t (f51 fr) (s.rd F.TRE_PON_ID.PON_ID t) 0 0 2 [] [] ∈ u.out ∧ (u.tree t).warmNow = true ∧
      (u.tree t).warm + 1 = (s.tree t).warm ∧ SameMemory s u)) ∧
    (∀ m l, (s.tree t).warm = 0 → (s.tree t).latched = some m → m.f = fr →
      l = (pickPloam ((s.tree t).ploamMax.getD (s.rd F.TRE_CFG.PLOAM_MAX t)) (boundary t fr - 500 * 256)
        (s.tree t).urgent (s.tree t).normal).1 →
      Runs (.dsFrameStart t) s (fun u => u.rd F.TRE_DS_FRAME.F t = f51 fr % 2 ^ F.TRE_DS_FRAME.F.w ∧
        Output.dsFrame t (f51 fr) (s.rd F.TRE_PON_ID.PON_ID t) m.grants.length l.length (s.tree t).mapKind m.grants l ∈ u.out ∧
        l.length ≤ ((s.tree t).ploamMax.getD (s.rd F.TRE_CFG.PLOAM_MAX t)) ∧
        ((s.tree t).txOn = true → Output.dsTrailer t ∈ u.out) ∧ SameMemory s u))) ∧
  (∀ (t : TreeId) (s : State) (p : Ploam) (rest : List Ploam), (s.tree t).held = p :: rest → (s.tree t).ploamRoom p = true →
    (p.term < 1023 → (s.term t p.term).rxClosed = false) →
    Runs (.ploamHeldQueued t) s (fun u => { p with at_ := s.tide } ∈ (u.tree t).urgent ++ (u.tree t).normal ∧
      Leaves [] s u ∧ SameMemory s u)) ∧
  (∀ (t : TreeId) (errs : List Upset) (s : State) (h : Nat), s.tstate t = trACTIVE → s.on (pairOf t) = true →
    h = Config.xgemHeader (s.f50 t) → (s.tree t).xgemLeft ≠ 0 →
    (((s.tree t).warmNow = true ∨ (s.tree t).xgemLeft < h + 8) → Runs (.drawFrame t errs) s (fun u =>
      u.tree t = { s.tree t with xgemLeft := 0 } ∧ Output.xgemIdle t (s.tree t).xgemLeft ∈ u.out ∧ SameMemory s u)) ∧
    ((s.tree t).warmNow = false → h + 8 ≤ (s.tree t).xgemLeft →
      (∀ w n, (s.tree t).inFlight = some w → n = (s.tree t).xgemLeft - h →
        (s.tree t).xgemLeft < h + Config.xgemPad (s.f50 t) w.left → Runs (.drawFrame t errs) s (fun u =>
          (u.tree t).inFlight = some { w with left := w.left - n, fragF := s.frame t, frag := n } ∧ (u.tree t).xgemLeft = 0 ∧
          SameMemory s u)) ∧
      ((s.tree t).inFlight = none → (s.tree t).staged = [] → Runs (.drawFrame t errs) s (fun u =>
        u.tree t = { s.tree t with xgemLeft := (s.tree t).xgemLeft - h } ∧ Output.xgemIdle t h ∈ u.out ∧ SameMemory s u)) ∧
      (∀ f : Staged, (s.tree t).inFlight = none → (s.tree t).staged = [f] → f.origin = .trunk → f.launch = none → f.omci = false →
        f.term ≤ 1023 → f.cls ≤ 7 → 64 ≤ f.bytes.length → f.bytes.length ≤ s.rd F.TRE_CFG.MAX_FRAME t → s.portKey t f = none →
        s.noTerm t f = false → s.eligible t f.term = true → ((s.upset errs).cellRead f.cell).1 = false →
        h + Config.xgemPad (s.f50 t) f.bytes.length ≤ (s.tree t).xgemLeft →
        Runs (.drawFrame t errs) s (fun u => Output.xgem t f.port none true true f.bytes ∈ u.out ∧ (u.tree t).staged = [] ∧
          (u.tree t).inFlight = none ∧ SameMemory s u))))

/-! ### Tree engines, upstream (chapter 04) -/

/-- BURST_PROFILE, with its fields good, in any state but FAULT and at a permitted rate, sets or deletes a profile (R113, R114).
TERMINAL_ADD, at a free index it names or the lowest, TERMINAL_SET, TERMINAL_REMOVE and TERMINAL_STATUS, with their fields good
and the tree's state allowing it, act on a terminal's record and answer with it (R140 to R143, R146); FLOW_SET adds, changes or
deletes a flow port and answers how many the tree has (R144); QUENCH stops or releases one terminal or all, and is passed on by
a standby in a pair (R145, R396). -/
def Obligations.TerminalCommands : Prop :=
  (∀ (s : State) (src : Src) (p : List Byte) (t : Nat), Given s src 0x0203 false false p → t = byteAt p 0 →
    burstProfileFault (s.f50 t) p = none → s.tstate t ≠ trFAULT → s.rateOk t (byteAt p 2) = true → ∃ pl,
    Serves (.burstProfile src) s src (okWith pl) (fun u =>
      let now := (smGet BurstSlot.none_ u.bprofs (t, byteAt p 2 * 4 + byteAt p 3)).now
      (bit (byteAt p 1) 0 = true → now.defined = false) ∧
      (bit (byteAt p 1) 0 = false →
        now = ⟨true, bit (byteAt p 1) 1, leAt p 4 2, leAt p 6 2, leAt p 8 8, byteAt p 16, leAt p 24 8⟩))) ∧
  (∀ (s : State) (src : Src) (p : List Byte) (t k : Nat), Given s src 0x0301 false false p → t = byteAt p 0 → t ≤ 95 →
    byteAt p 1 ≤ 1 →
    (leAt p 2 2 = k ∨ (leAt p 2 2 = 0xFFFF ∧ (List.range 1023).find? (fun i => (s.term t i).state == tmUNUSED) = some k)) →
    k ≤ 1022 → (s.term t k).state = tmUNUSED →
    (∀ e ∈ s.termsOf t, e.2.state = tmUNUSED ∨ e.2.serial ≠ beAt p 4 8) →
    (if s.f50 t then byteAt p 12 ≤ 7 ∧ byteAt p 12 &&& (s.tree t).usRates ≠ 0 else byteAt p 12 = 0) → zeroAt p 13 3 = true →
    (leAt p 16 4 = 0xFFFFFFFF ∨ (leAt p 16 4 < 2 ^ 17 ∧ s.unicastBound (leAt p 16 4) t k = true)) →
    (s.treeRefuses t).1 = false → ∃ pl,
    Serves (.terminalAdd src) s src (okWith pl) (fun u => pl = u.termHead t k ++ zeros 24 ∧ (u.term t k).state = tmEXPECTED ∧ (u.term t k).serial = beAt p 4 8 ∧
      (u.term t k).rates = byteAt p 12 ∧ (u.term t k).slot = slotField (leAt p 16 4) ∧ (u.term t k).regId = slice p 20 36 ∧
      u.alloc t k = some (defaultAlloc k)) ∧ leAt pl 2 2 = k ∧ byteAt pl 1 = tmEXPECTED) ∧
  (∀ (s : State) (src : Src) (p : List Byte) (t k : Nat), Given s src 0x0302 false false p → t = byteAt p 0 → t ≤ 95 →
    k = leAt p 2 2 → k ≤ 1022 → byteAt p 1 ≤ 7 → leAt p 4 2 ≠ 0 → withinRange (leAt p 6 2) 1 1024 → leAt p 8 2 ≠ 0 → byteAt p 10 ≤ 1 →
    zeroAt p 11 1 = true → zeroAt p 16 40 = true → (s.treeRefuses t).1 = false → (s.term t k).state ≠ tmUNUSED →
    (byteAt p 10 = 1 → leAt p 12 4 = 0xFFFFFFFF ∨ (leAt p 12 4 < 2 ^ 17 ∧ s.unicastBound (leAt p 12 4) t k = true)) → ∃ pl,
    Serves (.terminalSet src) s src (okWith pl) (fun u => pl = u.termHead t k ++ zeros 24 ∧ (u.term t k).sleepModes = byteAt p 1 ∧
      (u.term t k).lowpower = leAt p 4 2 ∧ (u.term t k).aware = leAt p 6 2 ∧ (u.term t k).wakeKib = leAt p 8 2 ∧
      (u.term t k).slot = (if byteAt p 10 = 1 then slotField (leAt p 12 4) else (s.term t k).slot) ∧
      (u.term t k).state = (s.term t k).state)) ∧
  (∀ (s : State) (src : Src) (p : List Byte) (t k : Nat), Given s src 0x0303 false false p → t = byteAt p 0 → t ≤ 95 →
    k = leAt p 2 2 → k ≤ 1022 → byteAt p 1 ≤ 1 → zeroAt p 4 52 = true → (s.tstate t = trSTANDBY → s.paired t = false) →
    (s.term t k).state ≠ tmUNUSED → ∃ pl,
    Serves (.terminalRemove src) s src (okWith pl) (fun u => pl = u.termHead t k ++ zeros 24 ∧
      (if s.tstate t = trACTIVE ∧ ((s.term t k).state = tmRANGING ∨ (s.term t k).state = tmOPERATION ∨ (s.term t k).state = tmLOST)
        then (u.term t k).removing = true else u.term t k = Term.unused) ∧
      ∀ e ∈ u.flows, ¬(e.1.1 = t ∧ e.2.term = k))) ∧
  (∀ (s : State) (src : Src) (p : List Byte) (t k : Nat), Given s src 0x0304 true true p → t = byteAt p 0 → t ≤ 95 →
    k = leAt p 2 2 → k ≤ 1022 → ∀ pl, pl = s.termHead t k ++ (s.term t k).countBytes ++ zeros 2 →
    Serves (.terminalStatus src) s src (okWith pl) (fun u => u = s.take src) ∧
    byteAt pl 1 = (s.term t k).state % 2 ^ 8 ∧ leAt pl 24 4 = (s.term t k).bursts % 2 ^ 32) ∧
  (∀ (s : State) (src : Src) (p : List Byte) (t : Nat), Given s src 0x0305 false false p → t = byteAt p 0 → t ≤ 95 →
    byteAt p 1 ≤ 7 → leAt p 2 2 ≠ 0xFFFF → leAt p 4 2 ≤ 1023 → zeroAt p 8 48 = true → (s.treeRefuses t).1 = false →
    (bit (byteAt p 1) 0 = true → (leAt p 6 2 = 0xFFFF ∨ leAt p 6 2 ≤ 4095) → ∃ pl,
      Serves (.flowSet src) s src (okWith pl) (fun u => u.flow t (leAt p 2 2) = none ∧
        pl = leBytes 1 t ++ leBytes 1 0 ++ leBytes 2 (leAt p 2 2) ++ leBytes 2 (u.portsUsed t))) ∧
    (bit (byteAt p 1) 0 = false → (leAt p 6 2 = 0xFFFF ∨ (leAt p 6 2 ≤ 4095 ∧ leAt p 4 2 ≠ 1023)) →
      (leAt p 4 2 = 1023 ∨ (s.term t (leAt p 4 2)).state ≠ tmUNUSED) →
      (∀ x, s.flow t (leAt p 2 2) = some x → x.term = leAt p 4 2) →
      ((s.flow t (leAt p 2 2)).isSome = true ∨ s.portsUsed t < 16384) → ∃ pl,
      Serves (.flowSet src) s src (okWith pl) (fun u => u.flow t (leAt p 2 2) =
        some ⟨leAt p 4 2, if leAt p 6 2 = 0xFFFF then none else some (leAt p 6 2), bit (byteAt p 1) 1, bit (byteAt p 1) 2⟩ ∧
        pl = leBytes 1 t ++ leBytes 1 (byteAt p 1) ++ leBytes 2 (leAt p 2 2) ++ leBytes 2 (u.portsUsed t)))) ∧
  (∀ (s : State) (src : Src) (p : List Byte) (t k : Nat), Given s src 0x0306 true true p → t = byteAt p 0 → t ≤ 95 →
    k = leAt p 2 2 → byteAt p 1 ≤ 1 → zeroAt p 4 52 = true →
    ((s.tstate t = trSTANDBY → s.paired t = false) →
      (k ≤ 1022 → byteAt p 1 = 0 → (s.term t k).stoppable = true → ∃ pl,
        Serves (.quench src) s src (okWith pl) (fun u => pl = u.termHead t k ++ zeros 24 ∧ (u.term t k).state = tmSTOPPED ∧
          (u.term t k).cause = 0)) ∧
      (k ≤ 1022 → byteAt p 1 = 0 → (s.term t k).state = tmSTOPPED →
        Serves (.quench src) s src (okWith (s.termHead t k ++ zeros 24)) (fun u => u = s.take src)) ∧
      (k ≤ 1022 → byteAt p 1 = 0 → (s.term t k).state = tmUNUSED →
        Serves (.quench src) s src (conflict 0) (fun u => u = s.take src)) ∧
      (k ≤ 1022 → byteAt p 1 = 1 → (s.term t k).state ≠ tmSTOPPED →
        Serves (.quench src) s src (conflict (s.term t k).state) (fun u => u = s.take src)) ∧
      (k ≤ 1022 → byteAt p 1 = 1 → (s.term t k).state = tmSTOPPED → ∃ pl,
        Serves (.quench src) s src (okWith pl) (fun u => pl = u.termHead t k ++ zeros 24 ∧ (u.term t k).state = tmEXPECTED)) ∧
      (k = 1023 → byteAt p 1 = 1 → Serves (.quench src) s src (quenchAll t tmEXPECTED) (fun u =>
        ∀ e ∈ s.termsOf t, e.2.state = tmSTOPPED → (u.term t e.1).state = tmEXPECTED)) ∧
      (k = 1023 → byteAt p 1 = 0 → Serves (.quench src) s src (quenchAll t tmSTOPPED) (fun u =>
        ∀ e ∈ s.termsOf t, e.2.stoppable = true → (u.term t e.1).state = tmSTOPPED))) ∧
    (k ≤ 1023 → s.tstate t = trSTANDBY → s.paired t = true → Begins (.quench src) s (fun u =>
      (u.prot t).quench = (s.prot t).quench ++ [src])))

/-- The life of a terminal's record on a tree that receives: a serial number joins the discovery queue, finds it full, starts
the ranging of the record it matches, or counts as a duplicate (R129); a valid round-trip delay gives the equalisation delay
(R131), RANGE_TRIES grants without one end ranging, and the frame after its ranging-time message brings OPERATION (R128); a
registration ID is compared or passed on (R132; the path it takes is the model's choice, log entry 58); LOB_FRAMES and LIMIT
bring loss and its end (R128, R133); removal ends with the deregistration message (R143); a message with a good MIC answers
what firmware asked (R160; the model's choice of log entry 60), a bad one counts (R127). -/
def Obligations.TerminalLife : Prop :=
  (∀ (t : TreeId) (serial : BitVec 64) (rates : BitVec 3) (s : State), s.receives t = true →
    ((s.termsOf t).find? (fun e => e.2.state != tmUNUSED && e.2.serial == serial.toNat) = none →
      (∀ d ∈ (s.treeU t).discovery, d.1 ≠ serial.toNat) → (s.treeU t).discovery.length < 16 →
      Runs (.serialNumberReceived t serial rates) s (fun u =>
        (u.treeU t).discovery = (s.treeU t).discovery ++ [(serial.toNat, rates.toNat)] ∧
        u.flag F.TRE_US_EVENT.SN_NEW t = true ∧ SameMemory s u)) ∧
    ((s.termsOf t).find? (fun e => e.2.state != tmUNUSED && e.2.serial == serial.toNat) = none →
      (∀ d ∈ (s.treeU t).discovery, d.1 ≠ serial.toNat) → 16 ≤ (s.treeU t).discovery.length →
      Runs (.serialNumberReceived t serial rates) s (fun u => (u.treeU t).discovery = (s.treeU t).discovery ∧
        u.flag F.TRE_US_EVENT.SN_OVERFLOW t = true ∧ SameMemory s u)) ∧
    (∀ k x, (s.termsOf t).find? (fun e => e.2.state != tmUNUSED && e.2.serial == serial.toNat) = some (k, x) →
      x.state = tmSTOPPED → Runs (.serialNumberReceived t serial rates) s (fun u => u = s)) ∧
    (∀ k x, (s.termsOf t).find? (fun e => e.2.state != tmUNUSED && e.2.serial == serial.toNat) = some (k, x) →
      (x.state = tmRANGING ∨ x.state = tmOPERATION ∨ x.state = tmLOST) →
      Runs (.serialNumberReceived t serial rates) s (fun u => u.terms = s.terms ∧ u.flag F.TRE_US_EVENT.SN_DUP t = true ∧
        u.rd F.TRE_US_SN_DUP.COUNT t = satAdd F.TRE_US_SN_DUP.COUNT.w (s.rd F.TRE_US_SN_DUP.COUNT t) 1 % 2 ^ F.TRE_US_SN_DUP.COUNT.w ∧
        SameMemory s u)) ∧
    (∀ k x, (s.termsOf t).find? (fun e => e.2.state != tmUNUSED && e.2.serial == serial.toNat) = some (k, x) →
      x.state = tmEXPECTED → s.serialMeets t x rates.toNat = true →
      Runs (.serialNumberReceived t serial rates) s (fun u => (u.term t k).state = tmRANGING ∧ SameMemory s u))) ∧
  (∀ (t : TreeId) (term : TermId) (rtd : Nat) (s : State), s.receives t = true → (s.term t term).state = tmRANGING →
    (s.term t term).ranged = false → (s.term t term).removing = false →
    withinRange rtd ((10000 * s.minKm t + 34000) * 256) ((10000 * (s.minKm t + s.diffKm t) + 36000) * 256) →
    Runs (.rangingResponse t term rtd) s (fun u => (u.term t term).ranged = true ∧ (u.term t term).eqd = s.teqd t - rtd ∧
      (u.term t term).rtd = (rtd : Int) - 2 * s.delta t ∧ SameMemory s u)) ∧
  (∀ (t : TreeId) (term : TermId) (s : State), (s.term t term).state = tmRANGING →
    ((s.term t term).ranged = false → max 1 (s.rd F.TRE_US_CTL.RANGE_TRIES t) ≤ (s.term t term).tries →
      Runs (.rangingFailed t term) s (fun u => (u.term t term).state = tmEXPECTED ∧
        u.flag F.TRE_US_EVENT.RANGE_FAIL t = true ∧ SameMemory s u)) ∧
    (∀ f, (s.term t term).ranged = true → (s.term t term).removing = false → (s.term t term).rangedF = some f → f < s.frame t →
      Runs (.terminalOperation t term) s (fun u => (u.term t term).state = tmOPERATION ∧
        u.flag F.TRE_US_EVENT.TERM_STATE t = true ∧ SameMemory s u))) ∧
  (∀ (t : TreeId) (term : TermId) (regId : List Byte) (s : State), s.receives t = true → (s.term t term).state = tmOPERATION →
    (s.term t term).regCheck = true → slice regId 0 36 ≠ slice (s.term t term).regId 0 36 →
    Runs (.registrationIdReceived t term regId) s (fun u => (u.term t term).state = tmEXPECTED ∧
      u.flag F.TRE_US_EVENT.REG_FAIL t = true ∧ SameMemory s u)) ∧
  (∀ (t : TreeId) (term : TermId) (regId : List Byte) (s : State), s.receives t = true → (s.term t term).regCheck = false →
    (s.term t term).state ≠ tmUNUSED → Runs (.registrationIdReceived t term regId) s (fun u =>
      Output.hostPloam t term (slice regId 0 36) ∈ u.out ∧ u.terms = s.terms ∧ Leaves [] s u ∧ SameMemory s u)) ∧
  (∀ (t : TreeId) (term : TermId) (s : State), s.tstate t = trACTIVE →
    ((s.term t term).state = tmOPERATION → max 1 (s.rd F.TRE_US_CTL.LOB_FRAMES t) ≤ (s.term t term).lob →
      Runs (.terminalLost t term) s (fun u => (u.term t term).state = tmLOST ∧ (u.term t term).lostF = s.frame t ∧
        u.flag F.TRE_US_EVENT.TERM_LOST t = true ∧ SameMemory s u)) ∧
    ((s.term t term).state = tmLOST → (s.term t term).lostF + (max 1 (s.rd F.TRE_US_LOST.LIMIT t) : Nat) ≤ s.frame t →
      Runs (.lostLimit t term) s (fun u => (u.term t term).state = tmEXPECTED ∧ u.flag F.TRE_US_EVENT.TERM_LOST t = true ∧
        SameMemory s u))) ∧
  (∀ (t : TreeId) (term : TermId) (f : Int) (s : State), (s.term t term).removing = true → (s.term t term).rangedF = some f →
    f < s.frame t → Runs (.recordUnused t term) s (fun u => u.term t term = Term.unused ∧
      u.flag F.TRE_US_EVENT.TERM_STATE t = true ∧ SameMemory s u)) ∧
  (∀ (t : TreeId) (term : TermId) (msg : List Byte) (s : State), s.receives t = true →
    Runs (.upstreamPloamReceived t term msg true) s (fun u => (term : Nat) ∉ (u.shared t).askPloamu ∧ SameMemory s u) ∧
    Runs (.upstreamPloamReceived t term msg false) s (fun u =>
      u.rd F.TRE_US_MIC_FAIL.COUNT t = satAdd F.TRE_US_MIC_FAIL.COUNT.w (s.rd F.TRE_US_MIC_FAIL.COUNT t) 1 %
        2 ^ F.TRE_US_MIC_FAIL.COUNT.w ∧ SameMemory s u))

/-- Bursts: RXRST_PULSE gives the next burst its reset pulse at the polarity set, shortened by the burst before, or skips it
below 3.2 ns (R16, R18); BURST_HUNT, on a tree that transmits, counts a burst found or missed against its terminal, and one
whose header names another as missed and as evidence against that one (R115, R116); REASSEMBLY_TIMEOUT ends an open reassembly
(R120). BURST_PROFILE_ANNOUNCE queues each defined profile again after 1,000 frames (R113). TRE_US_SN_POP removes the head of
the discovery queue (R129). A sleep request in frame F_r opens the windows at F_r + 2 or closes them, and LOWPOWER frames asleep
alternate with AWARE frames awake, until the terminal is treated as awake (R137, R138). -/
def Obligations.UpstreamBursts : Prop :=
  (∀ (t : TreeId) (s : State) (e : Expected) (trail lead : Int), s.on (pairOf t) = true →
    (s.treeU t).expected.find? (fun e => !e.pulsed) = some e →
    trail = 5 * (e.start + s.huntShift t) - (s.rd F.TRE_OPTIC.RXRST_LEAD t * 256 : Nat) →
    lead = (let l := trail - (max 4 (s.rd F.TRE_OPTIC.RXRST_WIDTH t) * 1024 : Nat)
      match (s.tree t).lastBurstEnd with
      | some b => max l (5 * b)
      | none => l) →
    (4096 ≤ trail - lead → Runs (.rxrstPulse t) s (fun u => Output.rxrst t (lead / 5) (trail / 5) (!s.flag F.TRE_OPTIC.RXRST_POL t) ∈ u.out ∧
      (u.tree t).lastBurstEnd = some (e.stop + s.huntShift t) ∧ Leaves [] s u ∧ SameMemory s u)) ∧
    (trail - lead < 4096 → Runs (.rxrstPulse t) s (fun u => u.out = s.out ∧
      u.rd F.TRE_OPTIC.RXRST_SKIP t = satAdd F.TRE_OPTIC.RXRST_SKIP.w (s.rd F.TRE_OPTIC.RXRST_SKIP t) 1 %
        2 ^ F.TRE_OPTIC.RXRST_SKIP.w ∧ SameMemory s u))) ∧
  (∀ (t : TreeId) (s : State) (e : Expected), s.receives t = true → psListens (s.ps t) = false →
    (s.treeU t).expected.find? (fun e => !e.hunted) = some e →
    Runs (.burstHunt t none) s (fun u => (u.term t e.term).missed = satAdd 32 (s.term t e.term).missed 1 ∧
      (u.term t e.term).bursts = (s.term t e.term).bursts) ∧
    (∀ b : BurstSeen, b.onuId = e.term → b.drift.natAbs ≤ s.huntHalf t → Runs (.burstHunt t (some b)) s (fun u =>
      (u.term t e.term).bursts = satAdd 32 (s.term t e.term).bursts 1 ∧
      (u.term t e.term).missed = (s.term t e.term).missed ∧
      (u.term t e.term).bipErr = satAdd 32 (s.term t e.term).bipErr b.bip)) ∧
    (∀ b : BurstSeen, b.onuId ≠ e.term → b.onuId < 1023 → (s.term t b.onuId).state ≠ tmUNUSED → b.drift.natAbs ≤ s.huntHalf t →
      Runs (.burstHunt t (some b)) s (fun u => (u.term t e.term).missed = satAdd 32 (s.term t e.term).missed 1 ∧
        (u.term t b.onuId).evidence = some s.tide))) ∧
  (∀ (t : TreeId) (alloc : Fin 4096) (s : State) (r : Reasm), smFind s.reasms (t, alloc) = some r →
    r.lastF + (max 1 (s.rd F.TRE_US_CTL.REASM_TIMEOUT t) : Nat) ≤ s.frame t →
    Runs (.reassemblyTimeout t alloc) s (fun u => smFind u.reasms (t, alloc) = none ∧
      Leaves [F.TRE_US_REASM_ABORT.COUNT] s u ∧ SameMemory s u)) ∧
  (∀ (t : TreeId) (s : State), s.tstate t = trACTIVE → (s.treeU t).announceF + 1000 ≤ s.frame t →
    Runs (.burstProfileAnnounce t) s (fun u => (u.treeU t).announceF = s.frame t ∧
      (∀ e ∈ s.bprofs, e.1.1 = t → e.2.now.defined = true →
        ∃ m ∈ (u.tree t).normal ++ (u.tree t).held, m.msg = .burstProfile (e.1.2 / 4) (e.1.2 % 4) true) ∧
      Leaves [] s u ∧ SameMemory s u)) ∧
  (∀ (p : PortId) (t : TreeId) (v : BitVec 32) (s : State), s.bnd.oscOk = true → s.on (pairOf t) = true →
    Runs (.treUsSnPop p t v) s (fun u =>
      (u.treeU t).discovery = (if bit v.toNat 31 then (s.treeU t).discovery.drop 1 else (s.treeU t).discovery) ∧
      Leaves [F.TRE_US_SN_INFO.OVERFLOW] s u ∧ SameMemory s u)) ∧
  (∀ (t : TreeId) (term : TermId) (mode : Fin 4) (s : State), s.receives t = true → (s.term t term).state = tmOPERATION →
    (s.term t term).removing = false →
    (mode = 0 → Runs (.sleepRequest t term mode) s (fun u => (∀ w, (u.term t term).win = some w → w.closing = true) ∧
      Leaves [] s u ∧ SameMemory s u)) ∧
    (mode ≠ 0 → bit (s.term t term).sleepModes (mode - 1) = true → Runs (.sleepRequest t term mode) s (fun u =>
      (u.term t term).win = some ⟨mode, s.frame t + 2, false, false, 0, false, (s.term t term).lowpower, (s.term t term).aware⟩ ∧
      Leaves [] s u ∧ SameMemory s u))) ∧
  (∀ (t : TreeId) (term : TermId) (s : State) (w : SleepWin), (s.term t term).win = some w →
    (w.closing = true → Runs (.sleepWindowBoundary t term) s (fun u => (u.term t term).win = none ∧ Leaves [] s u ∧ SameMemory s u)) ∧
    (w.closing = false → w.opened = false → w.fromF ≤ s.frame t →
      Runs (.sleepWindowBoundary t term) s (fun u => (u.term t term).win = some { w with opened := true, asleep := true, sinceF := s.frame t } ∧
        Leaves [] s u ∧ SameMemory s u)) ∧
    (w.closing = false → w.opened = true → w.asleep = true → w.sinceF + w.lp ≤ s.frame t →
      Runs (.sleepWindowBoundary t term) s (fun u => (u.term t term).win =
          (if (s.term t term).forceAwake then none else some { w with asleep := false, sinceF := s.frame t }) ∧
        (u.term t term).forceAwake = false ∧ Leaves [] s u ∧ SameMemory s u)) ∧
    (w.closing = false → w.opened = true → w.asleep = false → w.sinceF + w.aw ≤ s.frame t →
      Runs (.sleepWindowBoundary t term) s (fun u => (u.term t term).win = some { w with asleep := true, sinceF := s.frame t } ∧
        Leaves [] s u ∧ SameMemory s u)))

/-- ROGUE_FRAME adds up the light outside the expected-light set (R134), counts a frame with MIN_NS of it and keeps the run
of such frames, of which FRAMES bring the ROGUE event. ISOLATION_SWEEP_STEP, once the frames of a silenced terminal have ended,
quenches it if its silence ended the light, or goes on to the next in OPERATION (R136). -/
def Obligations.RogueLight : Prop :=
  (∀ (t : TreeId) (light out : List (Int × Int)) (s : State) (fr total : Int), s.receives t = true → fr = s.frame t - 1 →
    out = (s.expectedLight t).foldl (fun l c => cutSpan c l)
      ((light.map (fun x => (max x.1 (boundary t fr), min x.2 (boundary t (fr + 1))))).filter (fun x => decide (x.1 < x.2))) →
    total = out.foldl (fun n x => n + (x.2 - x.1)) 0 →
    ((total < ((s.rd F.TRE_US_ROGUE.MIN_NS t * 256 : Nat) : Int) ∨ total ≤ 0) →
      Runs (.rogueFrame t light) s (fun u => (u.treeU t).rogueRun = 0 ∧ Leaves [] s u ∧ SameMemory s u)) ∧
    (((s.rd F.TRE_US_ROGUE.MIN_NS t * 256 : Nat) : Int) ≤ total → 0 < total →
      (s.treeU t).rogueRun + 1 < max 1 (s.rd F.TRE_US_ROGUE.FRAMES t) →
      Runs (.rogueFrame t light) s (fun u => (u.treeU t).rogueRun = (s.treeU t).rogueRun + 1 ∧
        u.rd F.TRE_US_ROGUE_CNT.COUNT t = satAdd F.TRE_US_ROGUE_CNT.COUNT.w (s.rd F.TRE_US_ROGUE_CNT.COUNT t) 1 %
          2 ^ F.TRE_US_ROGUE_CNT.COUNT.w ∧ Leaves [F.TRE_US_ROGUE_CNT.COUNT] s u ∧ SameMemory s u)) ∧
    (((s.rd F.TRE_US_ROGUE.MIN_NS t * 256 : Nat) : Int) ≤ total → 0 < total →
      max 1 (s.rd F.TRE_US_ROGUE.FRAMES t) ≤ (s.treeU t).rogueRun + 1 →
      Runs (.rogueFrame t light) s (fun u => (u.treeU t).rogueRun = 0 ∧ u.flag F.TRE_US_EVENT.ROGUE t = true ∧ SameMemory s u))) ∧
  (∀ (t : TreeId) (s : State) (w : Sweep), (s.treeU t).sweep = some w →
    s.usRef t (w.fromF + (max 1 (s.rd F.TRE_US_ROGUE.FRAMES t) : Nat)) ≤ s.tide →
    (w.rogue = false → (s.term t w.term).stoppable = true → Runs (.isolationSweepStep t) s (fun u =>
      (u.term t w.term).state = tmSTOPPED ∧ (u.term t w.term).cause = 1 ∧ (u.treeU t).sweep = none ∧
      u.flag F.TRE_US_EVENT.ROGUE_QUENCH t = true ∧ SameMemory s u)) ∧
    ((w.rogue = true ∨ (s.term t w.term).stoppable = false) → Runs (.isolationSweepStep t) s (fun u => ((u.treeU t).sweep.map (fun x => x.term)) =
      (w.rest.filter (fun k => (s.term t k).state == tmOPERATION)).head? ∧ Leaves [] s u ∧ SameMemory s u)))

/-! ### Sluice (chapter 05) -/


/-- ALLOC_SET with its fields good sets or deletes an allocation of a terminal that is not UNUSED or STOPPED, where the capacity
committed allows it, and answers the tree's commitment (R183, R184). MAP_BUILD has each unit that builds the tree's maps build
one of the frame whose cutoff has come; what a faulty unit builds is its row's (R155; log entry 60). MAP_RELEASE releases the
ACTIVE unit's map: unchecked where the other unit has none to compare (R175), with the run of mismatches at 0 where the CRCs
agree, and where they differ as the units' self-checks decide, in the four cases of R174 (R169, R174, R177). FORECAST_RECORD
installs or cancels an accepted record in every unit that hears the tree, and a record that fails a check changes no unit (R172).
SLU_SWAP hands the maps to a HOT unit, or is refused; SLU_RETEST and SLUICE_RETEST_TIMER send a FAILED unit whose domain is ON
to TESTING, three failed tests holding the timer; SLUICE_SELF_TEST_DONE, SLUICE_HOT and SLUICE_UNIT_FAULT take the units through
their states with the cause codes of R177 (R177, R180, R185, R206). -/
def Obligations.SchedulingMapsAndUnits : Prop :=
  ((∀ (s : State) (src : Src) (p : List Byte) (t i : Nat), Given s src 0x0307 false false p → t = byteAt p 0 → i = leAt p 2 2 →
      allocFault (s.f50 t) p = none → (s.treeRefuses t).1 = false →
      (bit (byteAt p 1) 0 = false → (s.term t (leAt p 6 2)).state ≠ tmUNUSED → (s.term t (leAt p 6 2)).state ≠ tmSTOPPED →
        (∀ e ∈ s.allocsOf t, e.1 = i ∨ e.2.allocId ≠ leAt p 4 2) → s.allocLack t i (allocOfBytes p) = false → ∃ r,
        Serves (.allocSet src) s src r (fun u => r = u.allocResponse t i ∧ u.alloc t i = some (allocOfBytes p))) ∧
      (bit (byteAt p 1) 0 = true → (∀ a, s.alloc t i = some a → (s.term t a.term).state ≠ tmUNUSED ∧ (s.term t a.term).state ≠ tmSTOPPED) →
        ∃ r, Serves (.allocSet src) s src r (fun u => r = u.allocResponse t i ∧ u.alloc t i = none ∧
          smFind u.reasms (t, i) = none))) ∧
    (∀ (t : TreeId) (wrong : List (Fin 2 × List Grant)) (u : Fin 2) (s : State), s.tstate t = trACTIVE → s.on (48 + u) = true →
      s.unitState u ≤ 1 → (∀ (v : Fin 2) (m : BwMap), (s.sluTree v t).built = some m → m.f < s.cutFrame t) →
      Runs (.mapBuild t wrong) s (fun v => ∃ m, (v.sluTree u t).built = some m ∧ m.f = s.cutFrame t ∧
        ∀ w, wrong.find? (fun w => w.1.val == u.val) = some w → m.grants = w.2)) ∧
    (∀ (t : TreeId) (s : State) (a o : Nat) (m : BwMap), s.activeUnit = some a → o = 1 - a → (s.sluTree a t).built = some m →
      m.f = s.cutFrame t → s.tstate t = trACTIVE → s.heldBack t m.f = false → (∀ r, (s.tree t).relMap = some r → r.f < m.f) →
      (∀ l, (s.tree t).latched = some l → l.f < m.f) →
      ((s.comparesMaps o t = false ∨ ∀ m2, (s.sluTree o t).built = some m2 → m2.f ≠ m.f) → Runs (.mapRelease t) s (fun u =>
        (u.tree t).relMap = some m ∧
        u.rd F.SLU_UNCHECKED.COUNT 0 = satAdd F.SLU_UNCHECKED.COUNT.w (s.rd F.SLU_UNCHECKED.COUNT 0) 1 % 2 ^ F.SLU_UNCHECKED.COUNT.w ∧
        (s.slu.compared = true → u.flag F.SLU_EVENT.UNCHECKED 0 = true) ∧
        u.rd F.SLU_TREE_MAP.GRANTS t = m.grants.length % 2 ^ F.SLU_TREE_MAP.GRANTS.w ∧
        u.rd F.SLU_TREE_CRC.CRC t = s.mapCrc t m.grants % 2 ^ F.SLU_TREE_CRC.CRC.w)) ∧
      (∀ m2, (s.sluTree o t).built = some m2 → m2.f = m.f → s.comparesMaps o t = true →
        (s.mapCrc t m.grants = s.mapCrc t m2.grants → Runs (.mapRelease t) s (fun u => (u.tree t).relMap = some m ∧
          u.rd F.SLU_STATUS.MISMATCH_RUN 0 = 0 ∧ u.rd F.SLU_MISMATCH.COUNT 0 = s.rd F.SLU_MISMATCH.COUNT 0)) ∧
        (s.mapCrc t m.grants ≠ s.mapCrc t m2.grants → Runs (.mapRelease t) s (fun u =>
          u.flag F.SLU_EVENT.MISMATCH 0 = true ∧
          u.rd F.SLU_MISMATCH.COUNT 0 = satAdd F.SLU_MISMATCH.COUNT.w (s.rd F.SLU_MISMATCH.COUNT 0) 1 % 2 ^ F.SLU_MISMATCH.COUNT.w ∧
          ((s.sluTree a t).ok = true → (u.tree t).relMap = some m) ∧
          ((s.sluTree a t).ok = true → (s.sluTree o t).ok = true → s.unitState o = 1 →
            u.unitState o = (if 4 ≤ satAdd 8 (s.rd F.SLU_STATUS.MISMATCH_RUN 0) 1 then 3 else 1)) ∧
          ((s.sluTree a t).ok = true → (s.sluTree o t).ok = false → u.unitState o = 4 ∧ u.flag F.SLU_EVENT.SELFCHECK_FAIL 0 = true) ∧
          ((s.sluTree a t).ok = false → (u.tree t).relMap = (s.tree t).relMap ∧ u.unitState a = 4 ∧
            u.flag F.SLU_EVENT.SELFCHECK_FAIL 0 = true ∧
            ((s.sluTree o t).ok = true → s.unitState o = 1 → u.unitState o = 0 ∧ u.flag F.SLU_EVENT.SWITCHOVER 0 = true) ∧
            ((s.sluTree o t).ok = false → u.unitState o = 4 ∧ u.flag F.SLU_EVENT.NO_SCHEDULER 0 = true)))))) ∧
    (∀ (ring : RingId) (s : State) (i t : Nat) (b : List Byte) (key : Key), (s.ring ring).typ = 3 → s.on 53 = true →
      s.nextEntry ring = some i → (s.ring ring).badRead = false → b = s.hostRead (s.entryAddr ring i) 32 → bit (byteAt b 31) 7 = true →
      t = byteAt b 0 → key = (t * 4096 + leAt b 2 2, leAt b 8 8) →
      (s.forecastOutcome b = 0 → Runs (.forecastRecord ring) s (fun u => ∀ v : Fin 2, s.unitHears v t = true →
        smFind (u.sluUnit v).forecasts key = (if bit (byteAt b 1) 0 then none else some (leAt b 4 4)))) ∧
      (s.forecastOutcome b ≠ 0 → Runs (.forecastRecord ring) s (fun u => u.sluUnits = s.sluUnits)))) ∧
  ((∀ (p : PortId) (v : BitVec 32) (s : State), s.bnd.oscOk = true → s.on 54 = true → bit v.toNat 0 = true → bit v.toNat 1 = false →
      (∀ a, s.activeUnit = some a → s.unitState (1 - a) = 1 → Runs (.sluSwap p v) s (fun u => u.unitState (1 - a) = 0 ∧
        u.unitState a = 1 ∧ u.flag F.SLU_EVENT.SWITCHOVER 0 = true)) ∧
      ((∀ a, s.activeUnit = some a → s.unitState (1 - a) ≠ 1) → Runs (.sluSwap p v) s (fun u =>
        u.flag F.SLU_EVENT.SWAP_REFUSED 0 = true ∧ u.unitState 0 = s.unitState 0 ∧ u.unitState 1 = s.unitState 1))) ∧
    (∀ (p : PortId) (v : BitVec 32) (s : State), s.bnd.oscOk = true → s.on 54 = true → bit v.toNat 0 = false → bit v.toNat 1 = true →
      s.slu.started = true → Runs (.sluRetest p v) s (fun u => ∀ w : Fin 2,
        u.unitState w = (if s.unitState w = 4 ∧ s.on (48 + w) = true then 3 else s.unitState w))) ∧
    (∀ (u : Fin 2) (s : State), s.unitState u = 4 → s.slu.started = true → s.on (48 + u) = true → s.rd F.SLU_CTL.RETEST_MS 0 ≠ 0 →
      ((s.sluUnit u).failedTests < 3 → Runs (.sluiceRetestTimer u) s (fun v => v.unitState u = 3 ∧ SameMemory s v)) ∧
      (3 ≤ (s.sluUnit u).failedTests → Runs (.sluiceRetestTimer u) s (fun v => v = s))) ∧
    (∀ (u : Fin 2) (n : Fin 8) (cause : Fin 16) (s : State), s.on (48 + u) = true → s.unitState u ≠ 4 →
      Runs (.sluiceUnitFault u (some (n, cause))) s (fun v => v.unitState u = 4 ∧ v.est (48 + 8 * u + n) = esFAULTED ∧
        v.flag F.SLU_EVENT.UNIT_FAILED 0 = true ∧
        v.rd (if u = 0 then F.SLU_FAIL_CAUSE.A_CAUSE else F.SLU_FAIL_CAUSE.B_CAUSE) 0 =
          (if s.unitState u = 3 then 4 else if cause = 1 ∨ cause = 8 then 1 else 2) ∧
        (s.unitState u = 0 → s.unitState (1 - u.val) = 1 → v.unitState (1 - u.val) = 0 ∧ v.flag F.SLU_EVENT.SWITCHOVER 0 = true))) ∧
    (∀ (u : Fin 2) (s : State), Runs (.sluiceUnitFault u none) s (fun v => v.unitState u = 4 ∧ (v.sluUnit u).heldRetest = true ∧
      v.rd (if u = 0 then F.SLU_FAIL_CAUSE.A_CAUSE else F.SLU_FAIL_CAUSE.B_CAUSE) 0 = 5)) ∧
    (∀ (u : Fin 2) (s : State), s.unitState u = 3 →
      Runs (.sluiceSelfTestDone u false) s (fun v => v.unitState u = 4 ∧
        v.rd (if u = 0 then F.SLU_FAIL_CAUSE.A_CAUSE else F.SLU_FAIL_CAUSE.B_CAUSE) 0 = 4) ∧
      (s.activeUnit.isSome = true → Runs (.sluiceSelfTestDone u true) s (fun v => v.unitState u = 2)) ∧
      (s.activeUnit = none → Runs (.sluiceSelfTestDone u true) s (fun v => v.unitState u = 0 ∧
        v.rd F.SLU_EVENT.NO_SCHEDULER 0 = 0))) ∧
    (∀ (u : Fin 2) (s : State) (f : Int), s.unitState u = 2 → (s.sluUnit u).cleanFrom = some f → (f + 64) * frameTicks ≤ s.tide →
      Runs (.sluiceHot u) s (fun v => v.unitState u = 1 ∧ v.flag F.SLU_EVENT.HOT 0 = true ∧ SameMemory s v)))

/-! ### Pan engines and microcode (chapter 06) -/

/-- The ALU of R192 on two 64-bit operands, `old` in DST: every operation's result, an atom's position being 0 to 4; the carry
or borrow, the signed overflow, Z and N of sums and differences, and of the atom comparison; C and V clear and Z and N from the
result after a logical operation; V of the saturated 40-bit sum (its C is free: R192 states none). After CMP the conditions of
R193 compare the operands. -/
def Obligations.EngineArithmetic : Prop :=
  ∀ (a b d : BitVec 64) (pos c p w : Nat), pos ≤ 4 → p = b.toNat % 64 →
    w = min (if b.toNat / 256 % 64 = 0 then 64 else b.toNat / 256 % 64) (64 - p) →
    (let v (op : Nat) : Option Nat := (alu op pos a.toNat b.toNat d.toNat c).val
     let f (op : Nat) : Nat := (alu op pos a.toNat b.toNat d.toNat c).flags
     let at_ := a.toNat / 2 ^ (12 * pos) % 2 ^ 12
     let bt := b.toNat % 2 ^ 12
     v 0x01 = some b.toNat ∧
     v 0x02 = some (a + b).toNat ∧ bit (f 0x02) 2 = decide (2 ^ 64 ≤ a.toNat + b.toNat) ∧ bit (f 0x02) 3 = a.saddOverflow b ∧
     bit (f 0x02) 0 = decide (a + b = 0) ∧ bit (f 0x02) 1 = (a + b).msb ∧
     v 0x03 = some (a - b).toNat ∧ bit (f 0x03) 2 = decide (a.toNat < b.toNat) ∧ bit (f 0x03) 3 = a.ssubOverflow b ∧
     bit (f 0x03) 0 = decide (a = b) ∧ bit (f 0x03) 1 = (a - b).msb ∧
     v 0x04 = some (a &&& b).toNat ∧ v 0x05 = some (a ||| b).toNat ∧ v 0x06 = some (a ^^^ b).toNat ∧
     v 0x07 = some (a &&& ~~~b).toNat ∧ v 0x08 = some (a <<< (b.toNat % 64)).toNat ∧ v 0x09 = some (a >>> (b.toNat % 64)).toNat ∧
     v 0x0A = some (a.sshiftRight (b.toNat % 64)).toNat ∧ v 0x0B = some (a.rotateLeft (b.toNat % 64)).toNat ∧
     v 0x0C = none ∧ f 0x0C = f 0x03 ∧ v 0x0D = some (if a.sle b then a else b).toNat ∧
     v 0x0E = some (if b.sle a then a else b).toNat ∧ v 0x0F = some ((a.toNat % 2 ^ 32) * (b.toNat % 2 ^ 32)) ∧
     v 0x10 = some at_ ∧
     (∃ n, v 0x11 = some n ∧ n < 2 ^ 64 ∧
       ∀ i < 64, bit n i = (if 12 * pos ≤ i ∧ i < 12 * pos + 12 then b.getLsbD (i - 12 * pos) else a.getLsbD i)) ∧
     v 0x12 = none ∧ bit (f 0x12) 0 = decide (at_ = bt) ∧ bit (f 0x12) 2 = decide (at_ < bt) ∧ bit (f 0x12) 1 = decide (at_ < bt) ∧
     v 0x13 = some ((List.range 64).filter (fun i => a.getLsbD i)).length ∧
     (∃ n, v 0x14 = some n ∧ n ≤ 64 ∧ (∀ i, 64 - n ≤ i → i < 64 → a.getLsbD i = false) ∧ (n < 64 → a.getLsbD (63 - n) = true)) ∧
     (∃ n, v 0x15 = some n ∧ ∀ i, bit n i = (decide (i < w) && a.getLsbD (p + i))) ∧
     (∃ n, v 0x16 = some n ∧ n < 2 ^ 64 ∧ ∀ i < 64, bit n i = (if p ≤ i ∧ i < p + w then d.getLsbD (i - p) else a.getLsbD i)) ∧
     v 0x17 = some (BitVec.ofInt 64 (max (-2 ^ 39) (min (2 ^ 39 - 1) (a.toInt + b.toInt)))).toNat ∧
     bit (f 0x17) 3 = decide (a.toInt + b.toInt < -2 ^ 39 ∨ 2 ^ 39 ≤ a.toInt + b.toInt) ∧
     (∀ op ∈ [0x01, 0x04, 0x05, 0x06, 0x07, 0x08, 0x09, 0x0A, 0x0B, 0x0D, 0x0E, 0x0F, 0x10, 0x11, 0x13, 0x14, 0x15, 0x16],
       ∀ r, v op = some r → f op = b2n (r == 0) + 2 * b2n (bit r 63)) ∧
     condHolds 1 (f 0x0C) 0 false = decide (a = b) ∧ condHolds 5 (f 0x0C) 0 false = a.ult b ∧
     condHolds 8 (f 0x0C) 0 false = a.slt b ∧ condHolds 10 (f 0x0C) 0 false = a.sle b)

/-- A microword with one of the sequencing codes runs to its effect: the engine executes routine `r`, of an image, `w` stands at
its microaddress, and neither the fetch, nor a row that its stores read, an operand's parity, a busy register, the watchdog, an
illegal code or a full staging buffer stops it (R189 to R200, R214). -/
def Executes (s : State) (e : Nat) (obs : PeObs) (r : Routine) (w code : Nat) : Prop :=
  s.engRuns e = true ∧ (s.eng e).run = some r ∧ r.mode ≠ 2 ∧ w = smGet 0 (s.eng e).cs (r.uaddr, 0) ∧ mwSEQ w = code ∧
  (s.upset obs.errs).wordSeen 8 e (r.uaddr / 2) ≠ .uncorrectable ∧
  (∀ row ∈ s.mwRows e r w, (s.upset obs.errs).wordSeen 9 e row ≠ .uncorrectable) ∧ obs.parity = false ∧ r.dist < 4096 ∧
  mwIllegal w = false ∧ (mwMOP w ∈ [2, 4, 5, 6] → r.tail = false → r.staged.length < 16) ∧
  (∀ k ∈ mwUses w, ∀ m ∈ (s.eng e).busy, m.reg ≠ k)

/-- After the command the routine goes on at `a` with return stack `st`; the engine keeps its state. -/
def GoesTo (c : Instr) (s : State) (e a : Nat) (st : List Nat) : Prop :=
  Runs c s (fun u => u.est e = s.est e ∧ ∃ r, (u.eng e).run = some r ∧ r.uaddr = a ∧ r.stack = st)

/-- The ten sequencing operations of R191: where each goes next, with its return stack; COMMIT applies a staged store and begins
the tail (R199), END applies it too and ends the routine, which halts the engine where a STOP waits (R208), and HALT halts an
engine in DISPATCH. A NEXT writes its ALU result to DST and sets the flags where the microword says so (R192), stages its store,
and makes the register of its LD busy with the word it found (R194). The END of a test-ROM routine leaves the control store or
the work memory cleared (R207; when its cycles pass is the model's choice, log entry 31). -/
def Obligations.Microwords : Prop :=
  (∀ (e : EngId) (obs : PeObs) (s : State) (r : Routine) (w a b tgt : Nat) (holds : Bool),
    tgt = placeOf r.half (mwTARGET w) → holds = condHolds (mwCOND w) (s.eng e).flags r.staged.length obs.port →
    b = (if mwBIMM w then mwIMM w else (s.eng e).reg (mwSRCB w)) →
    (addrAfter r.half r.uaddr = some a →
      (Executes s e obs r w 0 → GoesTo (.next e obs) s e a r.stack ∧
        Runs (.next e obs) s (fun u =>
          let out := alu (mwALU w) (mwAPOS w) ((s.eng e).reg (mwSRCA w)) b ((s.eng e).reg (mwDST w)) (s.free 1)
          let addr := memAddr r.half (mwMOFF w + bits b 0 15)
          (mwALU w ≠ 0 → mwFLAGS w = true → (u.eng e).flags = out.flags) ∧
          (∀ v, mwALU w ≠ 0 → mwWB w = true → out.val = some v → (u.eng e).reg (mwDST w) = v % 2 ^ 64) ∧
          (mwMOP w = 1 → (u.eng e).busy = (s.eng e).busy ++ [⟨mwMREG w, 1, addr, loadWord (s.eng e) r.staged addr⟩]) ∧
          (mwMOP w = 2 → r.tail = false → ∃ r', (u.eng e).run = some r' ∧
            r'.staged = r.staged ++ [.st addr ((s.eng e).reg (mwMREG w))]))) ∧
      (Executes s e obs r w 6 → holds = true → GoesTo (.wait e obs) s e a r.stack) ∧
      (Executes s e obs r w 2 → holds = false → GoesTo (.brt e obs) s e a r.stack) ∧
      (Executes s e obs r w 3 → holds = true → GoesTo (.brf e obs) s e a r.stack) ∧
      (Executes s e obs r w 4 → r.stack.length < 8 → GoesTo (.call e obs) s e tgt (a :: r.stack)) ∧
      (Executes s e obs r w 7 → r.tail = false → GoesTo (.commit e obs) s e a r.stack ∧
        Runs (.commit e obs) s (fun u => (∃ r', (u.eng e).run = some r' ∧ r'.tail = true ∧ r'.staged = []) ∧
          ∀ x v, mwMOP w = 0 → r.staged = [.st x v] → smGet 0 (u.eng e).wm (x, 0) = v))) ∧
    (Executes s e obs r w 1 → GoesTo (.jump e obs) s e tgt r.stack) ∧
    (Executes s e obs r w 2 → holds = true → GoesTo (.brt e obs) s e tgt r.stack) ∧
    (Executes s e obs r w 3 → holds = false → GoesTo (.brf e obs) s e tgt r.stack) ∧
    (∀ x rest, Executes s e obs r w 5 → r.stack = x :: rest → GoesTo (.ret e obs) s e x rest) ∧
    (Executes s e obs r w 8 → Runs (.end_ e obs) s (fun u => (u.eng e).run = none ∧
      u.est e = (if (s.eng e).stop then esHALTED else s.est e) ∧
      ∀ x v, mwMOP w = 0 → r.tail = false → r.staged = [.st x v] → smGet 0 (u.eng e).wm (x, 0) = v)) ∧
    (Executes s e obs r w 9 → s.est e = esDISPATCH →
      Runs (.halt e obs) s (fun u => (u.eng e).run = none ∧ u.est e = esHALTED))) ∧
  (∀ (e : EngId) (obs : PeObs) (s : State) (r : Routine), s.engRuns e = true → (s.eng e).run = some r → r.mode = 2 →
    Runs (.end_ e obs) s (fun u => (u.eng e).run = none ∧
      (r.line = 0xF1 → (u.eng e).cs = [] ∧ u.flag F.PE_STATUS.CS_VALID e = false) ∧ (r.line = 0xF2 → (u.eng e).wm = [])))

/-- An event joins its line, is lost and counted where the line is full, is discarded on a line that is off, and interrupts a
routine of lower priority in its staged part (R196, R197, R202); the free engine starts its highest line's routine (R197). A
result that a register awaits lands where its word can be corrected and its port answered without error (R189, R194); a port
that does not answer restarts a routine in its staged part from its checkpoint, up to RESTART_MAX (R195, R202, R203); at commit
distance 4,096 the watchdog is an engine fault (R200, R206). A free engine takes the head of its dispatch queue, and START and
STOP in their turn (R207, R208); a load leaves its engine HALTED, with CS_VALID 1 and the build named where it verifies (R208,
R212). A scrub counts a corrected word and faults on one that is not (R214). The sampler writes its record (R215, R460), and
the end of a recovery leaves the engine in SERVICE or FAULTED (R209). -/
def Obligations.EngineSequencing : Prop :=
  (∀ (e : EngId) (line : Fin 64) (payload : BitVec 64) (s : State) (q : List PendEvent), s.engAwake e = true → s.est e = esSERVICE →
    q = smGet [] (s.eng e).lines (line.val, 0) →
    (s.lineEn e line = false → Runs (.engineEvent e line payload) s (fun u => u = s)) ∧
    (s.lineEn e line = true →
      ((q.filter (fun v => !v.rearmed)).length < 8 → (s.eng e).run = none → Runs (.engineEvent e line payload) s (fun u =>
        ∃ v, smGet [] (u.eng e).lines (line.val, 0) = q ++ [v] ∧ v.payload = payload.toNat ∧ Leaves [] s u ∧ SameMemory s u)) ∧
      (∀ r, (q.filter (fun v => !v.rearmed)).length < 8 → (s.eng e).run = some r → r.mode = 0 → r.tail = false → r.prot = false →
        (s.eng e).stop = false → r.prio < bits (smGet 0 (s.eng e).entries (line.val, 0)) 13 2 →
        Runs (.engineEvent e line payload) s (fun u => (u.eng e).run = none ∧ (u.eng e).regs = r.ckRegs ∧
          (u.eng e).flags = r.ckFlags ∧
          u.rd F.PE_ABANDON.COUNT e = satAdd F.PE_ABANDON.COUNT.w (s.rd F.PE_ABANDON.COUNT e) 1 % 2 ^ F.PE_ABANDON.COUNT.w)) ∧
      (8 ≤ (q.filter (fun v => !v.rearmed)).length → Runs (.engineEvent e line payload) s (fun u => (u.eng e).lines = (s.eng e).lines ∧
        u.rd F.PE_EVT_LOST.COUNT e = satAdd F.PE_EVT_LOST.COUNT.w (s.rd F.PE_EVT_LOST.COUNT e) 1 % 2 ^ F.PE_EVT_LOST.COUNT.w ∧
        u.flag F.PE_EVENT.EVT_LOST e = true)))) ∧
  (∀ (e : EngId) (s : State) (l w : Nat) (v : PendEvent) (rest : List PendEvent), s.engAwake e = true → s.est e = esSERVICE →
    (s.eng e).run = none → (s.eng e).stop = false → s.nextLine e = some l → smGet [] (s.eng e).lines (l, 0) = v :: rest →
    w = smGet 0 (s.eng e).entries (l, 0) →
    Runs (.routineEntry e) s (fun u => smGet [] (u.eng e).lines (l, 0) = rest ∧ (u.eng e).reg 0 = v.payload ∧
      (u.eng e).reg 1 = v.tuple ∧ ∃ r, (u.eng e).run = some r ∧ r.line = l ∧ r.tail = false ∧ r.staged = [] ∧
        r.uaddr = placeOf (if e.val < 48 then some (l / 32) else none) (bits w 0 13))) ∧
  (∀ (e : EngId) (reg : Fin 32) (value : BitVec 64) (errs : List Upset) (err : Bool) (s : State) (r : Routine) (m : MopPend),
    s.engRuns e = true → (s.eng e).run = some r → (s.eng e).busy.find? (fun m => m.reg == reg.val) = some m →
    (m.op = 1 → (s.upset errs).wordSeen 9 e (m.port / 4) ≠ .uncorrectable) → (m.op ≠ 1 → err = false) →
    Runs (.mopResult e reg value errs err) s (fun u => (u.eng e).busy = (s.eng e).busy.filter (fun y => y.reg != m.reg) ∧
      (u.eng e).run = some r ∧ (u.eng e).reg reg = (if m.op = 1 then m.val else value.toNat) % 2 ^ 64 ∧
      (m.op ≠ 1 → Leaves [] s u) ∧ SameMemory s u)) ∧
  (∀ (e : EngId) (s : State) (r : Routine) (m : MopPend), s.engRuns e = true → (s.eng e).run = some r → m ∈ (s.eng e).busy →
    m.op ≠ 1 →
    (r.tail = false → r.restarts + 1 ≤ max 1 (s.rd F.PE_CTL.RESTART_MAX e) →
      Runs (.portTimeout e) s (fun u => (u.eng e).regs = r.ckRegs ∧ (u.eng e).busy = [] ∧
        (∃ r', (u.eng e).run = some r' ∧ r'.uaddr = placeOf r.half r.entry ∧ r'.staged = [] ∧ r'.restarts = r.restarts + 1) ∧
        u.rd F.PE_RESTART.COUNT e = satAdd F.PE_RESTART.COUNT.w (s.rd F.PE_RESTART.COUNT e) 1 % 2 ^ F.PE_RESTART.COUNT.w)) ∧
    ((r.tail = true ∨ max 1 (s.rd F.PE_CTL.RESTART_MAX e) < r.restarts + 1) →
      Runs (.portTimeout e) s (fun u => u.est e = esFAULTED ∧ (u.eng e).run = none ∧
        (r.tail = false → s.flag F.PE_FAULT.VALID e = false → u.rd F.PE_FAULT.CAUSE e = 7)))) ∧
  (∀ (e : EngId) (s : State) (r : Routine), s.engRuns e = true → (s.eng e).run = some r → r.mode ≠ 2 → 4096 ≤ r.dist →
    s.flag F.PE_FAULT.VALID e = false →
    Runs (.routineWatchdog e) s (fun u => u.est e = esFAULTED ∧ (u.eng e).run = none ∧ u.rd F.PE_FAULT.CAUSE e = 2 ∧
      u.flag F.PE_FAULT.VALID e = true)) ∧
  (∀ (e : EngId) (s : State), s.takesOps e = true →
    (∀ op arg rest, (s.eng e).dq = (op, arg) :: rest → (s.eng e).todo = [] →
      (op < 0xF0 → bit (smGet 0 (s.eng e).disp (op, 0)) 15 = true → Runs (.dispatchOpcode e) s (fun u => u.est e = esDISPATCH ∧
        (u.eng e).dq = rest ∧ (u.eng e).reg 0 = arg ∧ ∃ r, (u.eng e).run = some r ∧ r.mode = 1 ∧ r.line = op)) ∧
      (0xF0 ≤ op → op ≤ 0xF3 → Runs (.dispatchOpcode e) s (fun u => u.est e = esDISPATCH ∧ (u.eng e).dq = rest ∧
        ∃ r, (u.eng e).run = some r ∧ r.mode = 2 ∧ r.line = op))) ∧
    ((∀ x, (s.eng e).dq.head? = some x → x.1 = 0xFE) → Runs (.engineStart e) s (fun u =>
      u.est e = (if s.flag F.PE_STATUS.CS_VALID e then esSERVICE else esDISPATCH) ∧ SameMemory s u)) ∧
    (∀ x, (s.eng e).dq.head? = some x → x.1 ≠ 0xFE → Runs (.engineStart e) s (fun u => u.est e = s.est e ∧
      (0xFE, 0) ∈ (u.eng e).dq ++ (u.eng e).todo ∧ Leaves [] s u ∧ SameMemory s u))) ∧
  (∀ (e : EngId) (s : State), s.on (engDom e) = true →
    (s.est e = esDISPATCH → (s.eng e).run = none → (∀ x, (s.eng e).dq.head? = some x → x.1 = 0xFF) →
      Runs (.engineStop e) s (fun u => u.est e = esHALTED ∧ SameMemory s u)) ∧
    (s.est e = esSERVICE → (s.eng e).run = none → Runs (.engineStop e) s (fun u => u.est e = esHALTED ∧ SameMemory s u)) ∧
    (s.est e = esSERVICE → (s.eng e).run ≠ none →
      Runs (.engineStop e) s (fun u => (u.eng e).stop = true ∧ u.est e = esSERVICE ∧ (u.eng e).run = (s.eng e).run))) ∧
  (∀ (e : EngId) (s : State) (l : EngLoad), s.on (engDom e) = true → (s.eng e).loads = [l] → s.est e = esLOADING →
    Runs (.engineLoadDone e true) s (fun u => u.est e = esHALTED ∧ u.flag F.PE_STATUS.CS_VALID e = true ∧ (u.eng e).loads = [] ∧
      u.rd (if l.half = some 1 then F.PE_BUILD1.ID else F.PE_BUILD0.ID) e = l.build % 2 ^ 64 ∧
      (u.eng e).cs = ((s.eng e).load l.half l.body).cs ∧ (u.eng e).wm = ((s.eng e).load l.half l.body).wm) ∧
    Runs (.engineLoadDone e false) s (fun u => u.est e = esHALTED ∧ u.flag F.PE_STATUS.CS_VALID e = false ∧ (u.eng e).loads = [] ∧
      ∀ p ∈ l.places, p < 2 → p ∈ (u.eng e).undef)) ∧
  (∀ (e : EngId) (word : Fin 4096) (errs : List Upset) (s : State), s.on (engDom e) = true →
    ((s.upset errs).wordSeen 8 e word = .clean → Runs (.csScrub e word errs) s (fun u => u = s.upset errs)) ∧
    ((s.upset errs).wordSeen 8 e word = .corrected → Runs (.csScrub e word errs) s (fun u => u.est e = s.est e ∧
      u.rd F.PE_CS_CORR.COUNT e = satAdd F.PE_CS_CORR.COUNT.w (s.rd F.PE_CS_CORR.COUNT e) 1 % 2 ^ F.PE_CS_CORR.COUNT.w)) ∧
    ((s.upset errs).wordSeen 8 e word = .uncorrectable → Runs (.csScrub e word errs) s (fun u => u.est e = esFAULTED))) ∧
  (∀ (e : EngId) (s : State) (r : Routine) (n : Nat), s.on (engDom e) = true → s.rd F.PE_SAMPLE_CFG.MODE e = 1 →
    (s.eng e).run = some r → n = s.rd F.PE_SAMPLE_PTR.NEXT e →
    (s.flag F.PE_SAMPLE_CFG.FREEZE e = false ∨ s.flag F.PE_SAMPLE_PTR.WRAPPED e = false) →
    Runs (.samplerFire e) s (fun u => smGet 0 (u.eng e).samples (n, 0) = s.sampleRec e 0 r ∧
      u.rd F.PE_SAMPLE_PTR.NEXT e = (n + 1) % 2 ^ F.PE_SAMPLE_PTR.NEXT.w ∧ SameMemory s u)) ∧
  (∀ (e : Fin 48) (s : State), (s.eng e).recovering = true →
    ((s.eng e).reload ≠ [] → Runs (.engineRecoveryDone e true) s (fun u => (u.eng e).recovering = false ∧ u.est e = esSERVICE ∧
      u.flag F.PE_STATUS.CS_VALID e = true)) ∧
    ((s.eng e).reload = [] → Runs (.engineRecoveryDone e true) s (fun u => (u.eng e).recovering = false ∧ u.est e = esDISPATCH ∧
      u.flag F.PE_STATUS.CS_VALID e = false)) ∧
    Runs (.engineRecoveryDone e false) s (fun u => (u.eng e).recovering = false ∧ u.est e = esFAULTED))

/-! ### Classification and the terminal-resolution table (chapter 07) -/

/-- No word of the lookup cache and of the two table copies holds an error. -/
def tablesClean (l : List Upset) : Prop := ∀ u ∈ l, u.mem ≠ 2 ∧ u.mem ≠ 3 ∧ u.mem ≠ 4

/-- A table command that passes its checks in READY waits its turn behind one under way (R242). With none before it, and with no
word of the tables in error, it runs: TABLE_INSERT writes an entry whose key is new at the first place found, with the bucket,
the displacements and the entries in its answer, refuses one that finds no place, and replaces a present key only with REPLACE
(R240, R243). TABLE_DELETE takes one key out, or all that a pattern names (R244). TABLE_DUMP begins and holds its rake channel
(R245). TABLE_PROFILE and TABLE_CONFIG set their values (R222, R246). TABLE_STATUS answers the state and the counts of R247, and
zeroes the counts with CLEAR alone; FILTER_SET sets a slot (R224). -/
def Obligations.TableCommands : Prop :=
  (∀ (s : State) (src : Src) (p : List Byte) (c : TblCmd) (rest : List TblCmd),
    ∀ row ∈ [(Instr.tableInsert src, 0x0401, insertFault s p), (.tableDelete src, 0x0402, deleteFault s p),
      (.tableDump src, 0x0403, dumpFault s p), (.tableProfile src, 0x0404, (profileFault s p).or (profileState s p)),
      (.tableConfig src, 0x0405, configFault s p)],
    Given s src row.2.1 false false p → row.2.2 = none → s.tblState = 2 → s.tabs.cmds = c :: rest → c.begun = true →
    rest.length < 63 → (∀ ch, (TblCmd.mk src row.2.1 p false 0).channel = some ch → s.chFree ch = true) →
    Begins row.1 s (fun u => u.tabs = { s.tabs with cmds := c :: rest ++ [⟨src, row.2.1, p, false, 0⟩] })) ∧
  (∀ (s : State) (src : Src) (p : List Byte) (e : TblEntry), Given s src 0x0401 false false p → insertFault s p = none →
    s.tblState = 2 → s.tabs.cmds = [] → tablesClean s.upsets → bit (byteAt p 0) 1 = false → e = TblEntry.ofWord (leAt p 8 32) →
    (∀ at_ old, s.findKey e.tkey = some (at_, old) → bit (byteAt p 0) 0 = false →
      Serves (.tableInsert src) s src (conflict (1 + old.kind)) (fun u => u.tabs.entries = s.tabs.entries)) ∧
    (s.findKey e.tkey = none → e.kind = 2 → s.pinRoom e.tkey = false →
      Serves (.tableInsert src) s src (refuse stNO_RESOURCE 2) (fun u => u.tabs.entries = s.tabs.entries)) ∧
    ((e.kind = 2 → s.pinRoom e.tkey = true) →
      (∀ at_ l, s.findKey e.tkey = none → s.findPlace e.tkey 3 = some (at_, l) → ∃ pl,
        Serves (.tableInsert src) s src (okWith pl) (fun u => smFind u.tabs.entries at_ = some e ∧
          leAt pl 16 4 = u.tblEntries % 2 ^ 32) ∧
        leAt pl 0 4 = 1 ∧ leAt pl 4 4 = 0 ∧ leAt pl 8 4 = at_.1 % 2 ^ 32 ∧ byteAt pl 12 = 0 ∧ byteAt pl 13 = l.length % 2 ^ 8) ∧
      (s.findKey e.tkey = none → s.findPlace e.tkey 3 = none →
        Serves (.tableInsert src) s src (refuse stNO_RESOURCE 1) (fun u => u.tabs.entries = s.tabs.entries)) ∧
      (∀ at_ old, s.findKey e.tkey = some (at_, old) → bit (byteAt p 0) 0 = true → ∃ pl,
        Serves (.tableInsert src) s src (okWith pl) (fun u => smFind u.tabs.entries at_ = some e ∧
          leAt pl 16 4 = u.tblEntries % 2 ^ 32) ∧
        leAt pl 0 4 = 1 ∧ leAt pl 4 4 = 0 ∧ leAt pl 8 4 = at_.1 % 2 ^ 32 ∧ byteAt pl 12 = 1 ∧ byteAt pl 13 = 0))) ∧
  (∀ (s : State) (src : Src) (p : List Byte), Given s src 0x0402 false false p → deleteFault s p = none → s.tblState = 2 →
    s.tabs.cmds = [] → tablesClean s.upsets →
    (bit (byteAt p 0) 0 = false →
      (s.findKey (leAt p 8 14) = none → ∃ pl, Serves (.tableDelete src) s src (okWith pl) (fun u => u = s.take src) ∧
        leAt pl 0 4 = 0 ∧ leAt pl 4 4 = s.tblEntries % 2 ^ 32) ∧
      (∀ at_ e, s.findKey (leAt p 8 14) = some (at_, e) → ∃ pl,
        Serves (.tableDelete src) s src (okWith pl) (fun u => smFind u.tabs.entries at_ = none ∧
          leAt pl 4 4 = u.tblEntries % 2 ^ 32) ∧ leAt pl 0 4 = 1)) ∧
    (bit (byteAt p 0) 0 = true → Begins (.tableDelete src) s (fun u => (∀ e ∈ u.tabs.entries, patternMatch p e.2 = false) ∧
      ∀ e ∈ s.tabs.entries, patternMatch p e.2 = false → (∀ g ∈ s.tabs.entries, g.1 = e.1 → g = e) → e ∈ u.tabs.entries))) ∧
  (∀ (s : State) (src : Src) (p : List Byte), Given s src 0x0403 false false p → dumpFault s p = none → s.tblState = 2 →
    s.tabs.cmds = [] → s.chFree (byteAt p 3) = true → Begins (.tableDump src) s (fun u =>
      u.tabs.cmds = [⟨src, 0x0403, p, true, 0⟩] ∧ u.chState (byteAt p 3) = chRUNNING ∧
      u.rd F.DMA_CHn_STATUS.OWNED (byteAt p 3) = 1 ∧ u.tabs.entries = s.tabs.entries)) ∧
  (∀ (s : State) (src : Src) (p : List Byte), Given s src 0x0404 false false p → profileFault s p = none → s.tblState = 2 →
    s.tabs.cmds = [] → s.tstate (byteAt p 0) = trDISABLED → Serves (.tableProfile src) s src (okWith []) (fun u =>
      smFind u.tabs.profiles (byteAt p 0 * 2 + byteAt p 1, byteAt p 2) = (if bit (byteAt p 3) 1 then none else
        some { learn := bit (byteAt p 3) 0, natoms := byteAt p 4, miss := byteAt p 5, partner := byteAt p 6, defCls := byteAt p 7,
               atoms := (slice p 8 8).map (fun b => b.toNat), select := leAt p 16 2, missRing := leAt p 18 2,
               defHandle := leAt p 20 4, bcastPort := leAt p 24 2 }))) ∧
  (∀ (s : State) (src : Src) (p : List Byte), Given s src 0x0405 false false p → configFault s p = none → s.tblState = 2 →
    s.tabs.cmds = [] → ∃ pl, Serves (.tableConfig src) s src (okWith pl) (fun u =>
      u.tabs = { s.tabs with learnEn := bit (byteAt p 0) 0, ageLimit := byteAt p 1, sweepMs := leAt p 4 4 }) ∧
    byteAt pl 0 = byteAt p 0 ∧ byteAt pl 1 = byteAt p 1 ∧ leAt pl 4 4 = leAt p 4 4) ∧
  (∀ (s : State) (src : Src) (p : List Byte), Given s src 0x0406 false true p → byteAt p 0 ≤ 1 → ∃ pl,
    Serves (.tableStatus src) s src (okWith pl) (fun u =>
      (byteAt p 0 = 0 → u = s.take src) ∧
      (byteAt p 0 = 1 → u.tabs = { s.tabs with learned := 0, learnDrop := 0, aged := 0, moved := 0, conflicts := 0, hits := 0,
                                               misses := 0, ueOne := 0, ueBoth := 0, noProfile := 0, noPort := 0 })) ∧
    byteAt pl 0 = s.tblState % 2 ^ 8 ∧ leAt pl 4 4 = s.tblEntries % 2 ^ 32 ∧
    leAt pl 8 4 = (s.tabs.entries.filter (fun e => e.2.kind == 2)).length % 2 ^ 32 ∧
    ∀ row ∈ [(12, s.tabs.learned), (16, s.tabs.learnDrop), (20, s.tabs.aged), (24, s.tabs.moved), (28, s.tabs.conflicts),
        (32, s.tabs.hits / 1024), (36, s.tabs.misses / 1024), (40, s.tabs.ueOne), (44, s.tabs.ueBoth), (48, s.tabs.noProfile),
        (52, s.tabs.noPort)], leAt pl row.1 4 = min (2 ^ 32 - 1) row.2) ∧
  (∀ (s : State) (src : Src) (p : List Byte), Given s src 0x0407 false false p → byteAt p 0 ≤ 95 → byteAt p 1 ≤ 15 → byteAt p 2 ≤ 3 →
    zeroAt p 3 1 = true → leAt p 4 2 ≤ 4095 → leAt p 6 2 ≤ 4095 → zeroAt p 14 2 = true → leAt p 22 2 ≤ 4095 → zeroAt p 24 32 = true →
    s.tstate (byteAt p 0) ≠ trFAULT → Serves (.filterSet src) s src (okWith (slice p 0 24)) (fun u =>
      smGet Filter.off u.tabs.filters (byteAt p 0, byteAt p 1) =
        ⟨byteAt p 2, leAt p 4 2, leAt p 6 2, beAt p 8 6, beAt p 16 6, leAt p 22 2⟩))


/-- The rows that end long commands, with nothing behind them: a bulk insert has placed its records in order (R243), a dump
has written its records (R245), a pattern delete is over (R244); TABLE_ENGINE_INIT_DONE makes the engine READY (R242). With no
word of the tables in error, LEARN_APPLY writes the request at the head of the learn queue or drops it (R236, R237), and
AGEING_SWEEP ages the two entries of the next bucket, but for one whose deletion a refreshing hit of the same core cycle meets
(R238, R239). TABLE_SCRUB reads a word with the errors planted: one in error in a copy alone counts in UE_ONE, a bucket in error
in both is cleared but for pinned entries and counts in UE_BOTH (R251).
LOOKUP_DOWNSTREAM and LOOKUP_UPSTREAM, with the tables read without error: a frame without a profile counts and is dropped
downstream, passed with handle 0 upstream (R221); a hit that neither drops, copies nor goes to the host queues the frame with the
entry's class, terminal and port, or passes it to its egress queue with the entry's handle and class; a downstream hit with DROP
and a miss of MISS 0 queue nothing (R229, R233, R234). A miss under a LEARN profile with learning enabled asks for a learn and
passes the frame with its values (R235, R236); a filter of action 3 drops (R223). -/
def Obligations.TableUpkeepAndLookups : Prop :=
  ((∀ (s : State) (c : TblCmd), s.tabs.cmds = [c] → c.begun = true →
      (c.code = 0x0401 → Runs .tableBulkInsertDone s (fun u => u.tabs.cmds = [] ∧
        u.tabs.entries = (s.bulkInsert (leAt c.p 8 8) (leAt c.p 16 8) (bit (byteAt c.p 0) 0) (leAt c.p 4 4) 0).2.tabs.entries ∧
        u.chState (byteAt c.p 1) = chIDLE)) ∧
      (∀ (n : MbxId) (part : List (Key × TblEntry)), c.code = 0x0403 → c.src = .mbx n → tablesClean s.upsets →
        part = (s.tabs.entries.filter (fun e => decide (leAt c.p 16 8 ≤ e.1.1) && kindMatch (byteAt c.p 1) (byteAt c.p 2) e.2)).take (leAt c.p 4 4) →
        Runs .tableDumpDone s (fun u => u.tabs.cmds = [] ∧ u.tabs.entries = s.tabs.entries ∧
          u.hostMem = (s.hostWrite (leAt c.p 8 8) (part.flatMap (fun e => (s.entryNow e.2).bytes))).hostMem ∧
          u.chState (byteAt c.p 3) = chIDLE)) ∧
      (c.code = 0x0402 → Runs .patternDeleteDone s (fun u => u.tabs = { s.tabs with cmds := [] }))) ∧
    (∀ s : State, s.on 50 = true → s.tabs.st = 1 →
      Runs .tableEngineInitDone s (fun u => u.tblState = 2 ∧ u.tabs.entries = s.tabs.entries ∧ Leaves [] s u ∧ SameMemory s u)) ∧
    (∀ (s : State) (r : LearnReq) (rest : List LearnReq), s.tblState = 2 → s.tabs.learnQ = r :: rest → tablesClean s.upsets →
      (∀ at_ e, s.findKey r.tkey = some (at_, e) →
        (e.kind = 0 → Runs .learnApply s (fun u => u.tabs.learnQ = rest ∧
          smFind u.tabs.entries at_ = some r.entry ∧ (r.move = true → u.tabs.moved = satAdd 32 s.tabs.moved 1) ∧ SameMemory s u)) ∧
        (e.kind ≠ 0 → Runs .learnApply s (fun u => u.tabs.learnQ = rest ∧ u.tabs.entries = s.tabs.entries ∧ SameMemory s u))) ∧
      (s.findKey r.tkey = none →
        (r.move = true → Runs .learnApply s (fun u => u.tabs.learnQ = rest ∧ u.tabs.entries = s.tabs.entries ∧ SameMemory s u)) ∧
        (r.move = false →
          (∀ at_ l, s.findPlace r.tkey 1 = some (at_, l) → Runs .learnApply s (fun u => u.tabs.learnQ = rest ∧
            smFind u.tabs.entries at_ = some r.entry ∧ u.tabs.learned = satAdd 32 s.tabs.learned 1 ∧ SameMemory s u)) ∧
          (s.findPlace r.tkey 1 = none → Runs .learnApply s (fun u => u.tabs.learnQ = rest ∧ u.tabs.entries = s.tabs.entries ∧
            u.tabs.learnDrop = satAdd 32 s.tabs.learnDrop 1 ∧ SameMemory s u))))) ∧
    (∀ s : State, s.tblState = 2 → s.tabs.sweepMs ≠ 0 → tablesClean s.upsets →
      (∀ a b, smFind s.tabs.entries (s.tabs.sweepPos, 0) = some a → smFind s.tabs.entries (s.tabs.sweepPos, 1) = some b → a.tkey ≠ b.tkey) →
      Runs .ageingSweep s (fun u => u.tabs.sweepPos = (s.tabs.sweepPos + 1) % 8388608 ∧ SameMemory s u ∧
        ∀ (k : Fin 2) (e0 e : TblEntry), smFind s.tabs.entries (s.tabs.sweepPos, k.val) = some e0 → e = s.entryNow e0 →
          smFind u.tabs.entries (s.tabs.sweepPos, k.val) =
            (if e.kind ≠ 0 ∨ (e.hit = true ∧ s.tabs.ageLimit ≤ e.age + 1 ∧ s.tabs.lastHit = some (e.tkey, s.tb.ctc)) then some e0
             else if e.hit then some { e with hit := false, age := 0 }
             else if s.tabs.ageLimit ≤ e.age + 1 then none else some { e with age := e.age + 1 }))) ∧
    (∀ (mem : Fin 3) (bucket : Fin 8388608) (slot : Fin 2) (errs : List Upset) (s : State) (c : Nat), s.on 50 = true → c = mem.val - 1 →
      (mem = 0 → Runs (.tableScrub mem bucket slot errs) s (fun u => u.tabs.entries = s.tabs.entries)) ∧
      (mem ≠ 0 → (s.upset errs).wordSeen (3 + c) c (2 * bucket.val + slot.val) = .clean →
        Runs (.tableScrub mem bucket slot errs) s (fun u => u = s.upset errs)) ∧
      (mem ≠ 0 → (s.upset errs).wordSeen (3 + c) c (2 * bucket.val + slot.val) = .uncorrectable →
        ((∀ k, k < 2 → (s.upset errs).wordSeen (4 - c) (1 - c) (2 * bucket.val + k) = .clean) →
          Runs (.tableScrub mem bucket slot errs) s (fun u => u.tabs.entries = s.tabs.entries ∧
            u.tabs.ueOne = satAdd 32 s.tabs.ueOne 1)) ∧
        ((∃ k, k < 2 ∧ (s.upset errs).wordSeen (4 - c) (1 - c) (2 * bucket.val + k) = .uncorrectable) →
          Runs (.tableScrub mem bucket slot errs) s (fun u => u.tabs.ueBoth = satAdd 32 s.tabs.ueBoth 1 ∧
            ∀ (k : Fin 2) (e : TblEntry), smFind s.tabs.entries (bucket.val, k.val) = some e →
              smFind u.tabs.entries (bucket.val, k.val) = (if e.kind = 2 then some e else none)))))) ∧
  ((∀ (errs : List Upset) (s : State) (i : Ingress) (rest : List Ingress), s.tblState = 2 → s.buf.ingress = i :: rest →
      (s.profileFor i.tree 1 (shapeOf i.bytes) = none → Runs (.lookupDownstream errs) s (fun u => u.buf.ingress = rest ∧
        u.tabs.noProfile = satAdd 32 s.tabs.noProfile 1 ∧ u.tabs.entries = s.tabs.entries ∧
        ∀ t, u.tree t = s.tree t)) ∧
      (tablesClean (s.upset errs).upsets →
        ∀ n q k, s.profileFor i.tree 1 (shapeOf i.bytes) = some (n, q) →
        k = tkeyOf ((KeySrc.mk i.bytes 1 0 0 0).key (q.atoms.take q.natoms)) i.tree 1 n q.natoms →
        (s.findKey k = none → q.miss = 0 → Runs (.lookupDownstream errs) s (fun u => u.buf.ingress = rest ∧
          u.buf.queues = s.buf.queues ∧ ∀ t, u.tree t = s.tree t)) ∧
        (∀ at_ e, s.findKey k = some (at_, e) →
          (e.drop = true → Runs (.lookupDownstream errs) s (fun u => u.buf.ingress = rest ∧
            u.buf.queues = s.buf.queues ∧ ∀ t, u.tree t = s.tree t)) ∧
          (e.drop = false → e.host = false → (s.flow i.tree e.port).any (fun f => f.term == e.term) = false →
            Runs (.lookupDownstream errs) s (fun u => u.buf.ingress = rest ∧ u.buf.queues = s.buf.queues ∧
              u.tabs.noPort = satAdd 32 s.tabs.noPort 1 ∧ ∀ t, u.tree t = s.tree t)) ∧
          (e.drop = false → e.host = false → e.copy = false → (s.flow i.tree e.port).any (fun f => f.term == e.term) = true →
            (∀ l, i.launch = some l → s.tstate i.tree = trACTIVE → Runs (.lookupDownstream errs) s (fun u => u.buf.ingress = rest ∧
              ∃ g ∈ (u.tree i.tree).staged, g.term = e.term ∧ g.cls = e.cls ∧ g.port = e.port ∧ g.bytes = i.bytes ∧ g.launch = some l)) ∧
            (i.launch = none → ((s.upset errs).cellRead i.cell).1 = false →
              s.admitFault i.tree e.term e.cls i.bytes.length (lfsrNext s.buf.lfsr) = none →
              (let d := s.deepQ i.tree e.term e.cls
               (State.takePages (queueNo i.tree e.term e.cls) (pagesNeeded d.headOff (d.frames.map (fun f => f.bytes.length) ++
                 [i.bytes.length]) - d.pages.length) d.seq s d.pages).isSome = true) →
              Runs (.lookupDownstream errs) s (fun u => u.buf.ingress = rest ∧ (u.deepQ i.tree e.term e.cls).frames =
                (s.deepQ i.tree e.term e.cls).frames ++ [⟨e.port, i.bytes, i.origin, i.flags, i.tsNs, i.tsInfo⟩])))))) ∧
    (∀ (errs : List Upset) (s : State) (f : UsFrame) (rest : List UsFrame), s.tblState = 2 → s.buf.lookupUs = f :: rest →
      ((∀ e ∈ s.tabs.filters, e.1.1 = f.tree → e.2.matches f.bytes = false) →
        (s.profileFor f.tree 0 (shapeOf f.bytes) = none → Runs (.lookupUpstream errs) s (fun u => u.buf.lookupUs = rest ∧
          u.tabs.noProfile = satAdd 32 s.tabs.noProfile 1 ∧
          { f with flow := 0, cls := 0 } ∈ (u.egressQ (laneOf f.tree) 0).brine ++ (u.egressQ (laneOf f.tree) 0).toSpill)) ∧
        (tablesClean (s.upset errs).upsets → ∀ n q, s.profileFor f.tree 0 (shapeOf f.bytes) = some (n, q) →
          (∀ at_ e k, q.learn = false →
            k = tkeyOf ((KeySrc.mk f.bytes 0 f.term f.alloc f.port).key (q.atoms.take q.natoms)) f.tree 0 n q.natoms →
            s.findKey k = some (at_, e) → e.drop = false → e.host = false → e.copy = false →
            Runs (.lookupUpstream errs) s (fun u => u.buf.lookupUs = rest ∧
              { f with flow := e.handle, cls := e.cls } ∈ (u.egressQ (laneOf f.tree) e.cls).brine ++ (u.egressQ (laneOf f.tree) e.cls).toSpill)) ∧
          (∀ pq codes k, q.learn = true → smFind s.tabs.profiles (f.tree * 2 + 1, q.partner) = some pq →
            codes = (pq.atoms.take pq.natoms).map (fun c => if 8 ≤ c ∧ c ≤ 11 then c + 4 else c) →
            k = tkeyOf ((KeySrc.mk f.bytes 1 f.term f.alloc f.port).key codes) f.tree 1 q.partner pq.natoms →
            s.findKey k = none → s.tabs.learnEn = true → f.fcsBad = false → f.trunc = false → bit (byteAt f.bytes 6) 0 = false →
            s.tabs.learnQ.length < 4096 → (∀ x ∈ s.tabs.learnQ, x.tkey ≠ k) →
            Runs (.lookupUpstream errs) s (fun u => u.buf.lookupUs = rest ∧
              u.tabs.learnQ = s.tabs.learnQ ++ [⟨k, f.term, f.port, f.alloc, q.defCls, q.defHandle / 4096 * 4096 + f.term, false⟩] ∧
              { f with flow := q.defHandle / 4096 * 4096 + f.term, cls := q.defCls } ∈
                (u.egressQ (laneOf f.tree) q.defCls).brine ++ (u.egressQ (laneOf f.tree) q.defCls).toSpill)))) ∧
      (∀ x m, (s.filtersHit f.tree f.bytes).head? = some (x, m) → m.action = 3 →
        Runs (.lookupUpstream errs) s (fun u => u.buf.lookupUs = rest ∧ ∀ l c, u.egressQ l c = s.egressQ l c))))

/-! ### The rake (chapter 10) -/

/-- The present burst of a channel's program. -/
def burstOf (s : State) (c : Nat) : Burst := (s.chan c).prog.burst (s.chan c).pos

/-- The LINK word of the descriptor a channel stands at, as host memory has it. -/
def linkOf (s : State) (c : Nat) : Nat := leAt (s.hostRead (s.rd F.DMA_CHn_TAIL.ADDR c + 56) 8) 0 8

/-- Writes of a channel's control bits (R318, R319, R323, R326, R328, R331, R332). START in IDLE, AT_END and HALTED: a program
that fails a check of R318 is refused with the check's code; one that passes runs or waits for its request, at once or, with AT and
a later instant, once armed, and with an instant already passed at once with LATE; a chain begins with the descriptor at FIRST, or
halts there. START in ARMED, RUNNING and WAIT_REQ, and of a held channel, is refused. RESUME goes on from the failing burst of a
channel that has bytes left; FENCE is done at once or waits; DISABLE ends the channel; a kick at the end of a chain follows the link
and is counted as ignored otherwise.
RAKE_BURST moves the chosen channel's present burst from host or scratch memory to host memory, and counts its bytes; after the last
one a register program is done, and a chain follows its link (R315, R317, R319, R328). RAKE_BURST_ERROR issues a burst again or
halts the channel (R332). The rows of armed starts, peripheral requests and fences (R323, R325, R331). -/
def Obligations.RakeChannels : Prop :=
  ((∀ (p : PortId) (ch : ChId) (v : BitVec 32) (s : State) (req : Nat), s.bnd.oscOk = true → s.on 53 = true → bits v.toNat 29 3 = 0 →
      req = bits v.toNat 8 8 →
      (s.flag F.DMA_CHn_STATUS.OWNED ch = true → Runs (.dmaStart p ch v) s (fun u => u.chState ch = s.chState ch ∧
        u.rd F.DMA_CHn_STATUS.CFG_ERR ch = 9 ∧ u.flag F.DMA_CHn_EVENT.START_REFUSED ch = true ∧ u.chan ch = s.chan ch ∧ SameMemory s u)) ∧
      (s.flag F.DMA_CHn_STATUS.OWNED ch = false → (s.chState ch = chARMED ∨ s.chState ch = chRUNNING ∨ s.chState ch = chWAIT) →
        Runs (.dmaStart p ch v) s (fun u => u.chState ch = s.chState ch ∧
          u.flag F.DMA_CHn_EVENT.START_REFUSED ch = true ∧ u.chan ch = s.chan ch ∧ SameMemory s u)) ∧
      (s.flag F.DMA_CHn_STATUS.OWNED ch = false → (s.chState ch = chIDLE ∨ s.chState ch = chAT_END ∨ s.chState ch = chHALTED) →
        (∀ k, bit v.toNat 3 = false → (s.regProg ch).check req false = some k → Runs (.dmaStart p ch v) s (fun u =>
          u.chState ch = s.chState ch ∧ u.rd F.DMA_CHn_STATUS.CFG_ERR ch = k ∧ u.flag F.DMA_CHn_EVENT.START_REFUSED ch = true ∧
          SameMemory s u)) ∧
        (bit v.toNat 3 = true → s.rd F.DMA_CHn_FIRST.ADDR ch % 64 ≠ 0 → Runs (.dmaStart p ch v) s (fun u =>
          u.chState ch = s.chState ch ∧ u.rd F.DMA_CHn_STATUS.CFG_ERR ch = 7 ∧ u.flag F.DMA_CHn_EVENT.START_REFUSED ch = true ∧
          SameMemory s u)) ∧
        (∀ b, bit v.toNat 3 = true → bit v.toNat 4 = false → s.rd F.DMA_CHn_FIRST.ADDR ch % 64 = 0 →
          b = s.hostRead (s.rd F.DMA_CHn_FIRST.ADDR ch) 64 →
          ((progOf b).check req (!zeroAt b 48 8) = none → Runs (.dmaStart p ch v) s (fun u => (u.chan ch).prog = progOf b ∧
            (u.chan ch).pos = 0 ∧ (u.chan ch).chain = true ∧ u.chState ch = (if u.reqHigh ch then chRUNNING else chWAIT) ∧
            u.rd F.DMA_CHn_TAIL.ADDR ch = s.rd F.DMA_CHn_FIRST.ADDR ch % 2 ^ 64 ∧ SameMemory s u)) ∧
          ((progOf b).check req (!zeroAt b 48 8) ≠ none → Runs (.dmaStart p ch v) s (fun u => u.chState ch = chHALTED ∧
            u.rd F.DMA_CHn_STATUS.ERR_CAUSE ch = 5 ∧ u.rd F.DMA_CHn_ERR_ADDR.ADDR ch = s.rd F.DMA_CHn_FIRST.ADDR ch % 2 ^ 64 ∧
            SameMemory s u))) ∧
        (bit v.toNat 3 = false → (s.regProg ch).check req false = none →
          (bit v.toNat 4 = false → Runs (.dmaStart p ch v) s (fun u => (u.chan ch).prog = s.regProg ch ∧ (u.chan ch).pos = 0 ∧
            (u.chan ch).chain = false ∧ (u.chan ch).req = req ∧ u.rd F.DMA_CHn_BYTES.BYTES ch = 0 ∧
            u.rd F.DMA_CHn_STATUS.CFG_ERR ch = 0 ∧ (req = 0 → u.chState ch = chRUNNING) ∧
            u.chState ch = (if u.reqHigh ch then chRUNNING else chWAIT) ∧ SameMemory s u)) ∧
          (bit v.toNat 4 = true → s.shortTuple (s.rd F.DMA_CHn_START_AT.TUPLE ch) = none → Runs (.dmaStart p ch v) s (fun u =>
            u.chState ch = s.chState ch ∧ u.rd F.DMA_CHn_STATUS.CFG_ERR ch = 8 ∧ u.flag F.DMA_CHn_EVENT.START_REFUSED ch = true ∧
            SameMemory s u)) ∧
          (∀ i, bit v.toNat 4 = true → s.shortTuple (s.rd F.DMA_CHn_START_AT.TUPLE ch) = some i →
            (s.tide < i → Runs (.dmaStart p ch v) s (fun u => u.chState ch = chARMED ∧ (u.chan ch).startAt = some i ∧
              (u.chan ch).prog = s.regProg ch ∧ SameMemory s u)) ∧
            (i ≤ s.tide → Runs (.dmaStart p ch v) s (fun u => u.chState ch = (if u.reqHigh ch then chRUNNING else chWAIT) ∧
              u.flag F.DMA_CHn_STATUS.LATE ch = true ∧ (u.chan ch).prog = s.regProg ch ∧ SameMemory s u)))))) ∧
    (∀ (p : PortId) (ch : ChId) (v : BitVec 32) (s : State), s.bnd.oscOk = true → s.on 53 = true →
      (s.flag F.DMA_CHn_STATUS.OWNED ch = false → s.chState ch = chHALTED → bit v.toNat 28 = false → bits v.toNat 30 2 = 0 →
        s.rd F.DMA_CHn_STATUS.ERR_CAUSE ch ≠ 3 → s.rd F.DMA_CHn_STATUS.ERR_CAUSE ch ≠ 5 → (s.chan ch).pos < (s.chan ch).prog.total →
        Runs (.dmaResume p ch v) s (fun u => u.chState ch = (if s.reqHigh ch then chRUNNING else chWAIT) ∧ u.chan ch = s.chan ch ∧
          SameMemory s u)) ∧
      (s.flag F.DMA_CHn_STATUS.OWNED ch = false → s.chState ch ≠ chARMED → s.chState ch ≠ chWAIT → bits v.toNat 28 2 = 0 →
        bit v.toNat 31 = false →
        ((s.chan ch).unfenced = [] → Runs (.dmaFence p ch v) s (fun u => u.flag F.DMA_CHn_EVENT.FENCED ch = true ∧ SameMemory s u)) ∧
        ((s.chan ch).unfenced ≠ [] → Runs (.dmaFence p ch v) s (fun u =>
          (u.chan ch).fences = (s.chan ch).fences ++ [⟨(s.chan ch).serial, false⟩] ∧ SameMemory s u))) ∧
      Runs (.dmaDisable p ch v) s (fun u => u.chState ch = chIDLE ∧ u.flag F.DMA_CHn_STATUS.OWNED ch = false ∧
        (u.chan ch).startAt = none ∧ (u.chan ch).fences = []) ∧
      (s.flag F.DMA_CHn_STATUS.OWNED ch = false → (s.chan ch).badLinks = 0 →
        (s.chState ch ≠ chAT_END → Runs (.dmaKick p ch v) s (fun u => u.chState ch = s.chState ch ∧
          u.rd F.DMA_CHn_KICK_IGN.COUNT ch = satAdd F.DMA_CHn_KICK_IGN.COUNT.w (s.rd F.DMA_CHn_KICK_IGN.COUNT ch) 1 %
            2 ^ F.DMA_CHn_KICK_IGN.COUNT.w ∧ Leaves [F.DMA_CHn_KICK_IGN.COUNT] s u ∧ SameMemory s u)) ∧
        (s.chState ch = chAT_END → bit (linkOf s ch) 0 = true → Runs (.dmaKick p ch v) s (fun u => u.chState ch = chAT_END ∧
          u.rd F.DMA_CHn_KICK_IGN.COUNT ch = satAdd F.DMA_CHn_KICK_IGN.COUNT.w (s.rd F.DMA_CHn_KICK_IGN.COUNT ch) 1 %
            2 ^ F.DMA_CHn_KICK_IGN.COUNT.w ∧ SameMemory s u)) ∧
        (∀ b, s.chState ch = chAT_END → bit (linkOf s ch) 0 = false → b = s.hostRead (linkOf s ch / 64 * 64) 64 →
          (progOf b).check (s.chan ch).req (!zeroAt b 48 8) = none → Runs (.dmaKick p ch v) s (fun u => u.chState ch = chRUNNING ∧
            (u.chan ch).prog = progOf b ∧ (u.chan ch).pos = 0 ∧
            u.rd F.DMA_CHn_TAIL.ADDR ch = (linkOf s ch / 64 * 64) % 2 ^ 64 ∧ SameMemory s u))))) ∧
  ((∀ (p : PortId) (s : State) (c : Nat) (b : Burst), s.on 53 = true → s.nextChan p = some c → b = burstOf s c →
      (s.reqHigh c = false → Runs (.rakeBurst p) s (fun u => u.chState c = chWAIT ∧ SameMemory s u)) ∧
      (s.reqHigh c = true → spaceOf b.src = 0 → spaceOf b.dst = 0 →
        ((s.chan c).pos + b.len < (s.chan c).prog.total → Runs (.rakeBurst p) s (fun u =>
          u.hostMem = (s.hostWrite (offOf b.dst) (s.hostRead (offOf b.src) b.len)).hostMem ∧ u.scratch = s.scratch ∧
          (u.chan c).pos = (s.chan c).pos + b.len ∧ (u.chan c).serial = (s.chan c).serial + 1 ∧
          (u.chan c).unfenced = (s.chan c).unfenced ++ [⟨(s.chan c).serial, b.dst, (s.chan c).pos, (s.chan c).run, []⟩] ∧
          u.rd F.DMA_CHn_BYTES.BYTES c = satAdd F.DMA_CHn_BYTES.BYTES.w (s.rd F.DMA_CHn_BYTES.BYTES c) b.len % 2 ^ F.DMA_CHn_BYTES.BYTES.w)) ∧
        ((s.chan c).prog.total ≤ (s.chan c).pos + b.len → (s.chan c).chain = false → Runs (.rakeBurst p) s (fun u =>
          u.hostMem = (s.hostWrite (offOf b.dst) (s.hostRead (offOf b.src) b.len)).hostMem ∧ u.chState c = chIDLE ∧
          u.flag F.DMA_CHn_EVENT.DONE c = true)) ∧
        (∀ h, (s.chan c).prog.total ≤ (s.chan c).pos + b.len → (s.chan c).chain = true → bit (s.chan c).prog.dctl 4 = false →
          (s.chan c).badLinks = 0 → h = s.hostWrite (offOf b.dst) (s.hostRead (offOf b.src) b.len) →
          (bit (linkOf h c) 0 = true → Runs (.rakeBurst p) s (fun u => u.hostMem = h.hostMem ∧ u.chState c = chAT_END ∧
            u.flag F.DMA_CHn_EVENT.DONE c = true)) ∧
          (∀ d, bit (linkOf h c) 0 = false → d = h.hostRead (linkOf h c / 64 * 64) 64 →
            (progOf d).check (s.chan c).req (!zeroAt d 48 8) = none → Runs (.rakeBurst p) s (fun u => u.hostMem = h.hostMem ∧
              u.chState c = chRUNNING ∧ (u.chan c).prog = progOf d ∧ (u.chan c).pos = 0)))) ∧
      (s.reqHigh c = true → spaceOf b.src = 3 → spaceOf b.dst = 0 → Runs (.rakeBurst p) s (fun u =>
        u.hostMem = (s.hostWrite (offOf b.dst) (memBytes s.scratch (scratchKey b.src) b.len)).hostMem ∧ u.scratch = s.scratch))) ∧
    (∀ (ch : ChId) (cause : Fin 3) (s : State) (addr : Nat), s.on 53 = true → (s.chState ch = chRUNNING ∨ s.chState ch = chWAIT) →
      s.flag F.DMA_CHn_STATUS.OWNED ch = false → (cause = 1 → ∀ w ∈ (s.chan ch).remoteWrites, w.tag = 0) →
      (cause = 2 → (s.chan ch).chain = true ∧ (s.chan ch).pos = 0) →
      addr = (if cause = 0 then (burstOf s ch).src else if cause = 1 then (burstOf s ch).dst else s.rd F.DMA_CHn_TAIL.ADDR ch) →
      ((s.chan ch).fails < s.rd F.DMA_RETRY.COUNT 0 → Runs (.rakeBurstError ch cause) s (fun u => u.chState ch = s.chState ch ∧
        (u.chan ch).fails = (s.chan ch).fails + 1 ∧ (u.chan ch).pos = (s.chan ch).pos ∧ SameMemory s u)) ∧
      (s.rd F.DMA_RETRY.COUNT 0 ≤ (s.chan ch).fails → Runs (.rakeBurstError ch cause) s (fun u => u.chState ch = chHALTED ∧
        u.rd F.DMA_CHn_STATUS.ERR_CAUSE ch = cause.val + 1 ∧ u.rd F.DMA_CHn_ERR_ADDR.ADDR ch = addr % 2 ^ 64 ∧
        u.flag F.DMA_CHn_EVENT.HALTED ch = true ∧ (u.chan ch).pos = (s.chan ch).pos ∧ SameMemory s u))) ∧
    (∀ (ch : ChId) (s : State), s.on 53 = true →
      (∀ a, s.chState ch = chARMED → (s.chan ch).startAt = some a →
        (s.tideDue a = true → Runs (.rakeArmedStart ch) s (fun u => u.chState ch = (if u.reqHigh ch then chRUNNING else chWAIT) ∧
          (u.chan ch).startAt = none ∧ Leaves [F.DMA_CHn_STATUS.STATE] s u ∧ SameMemory s u)) ∧
        (s.tideDue a = false → Runs (.rakeArmedStart ch) s (fun u => u = s))) ∧
      (s.chState ch = chWAIT → s.reqHigh ch = true → Runs (.peripheralRequestRise ch) s (fun u => u.chState ch = chRUNNING ∧
        Leaves [F.DMA_CHn_STATUS.STATE] s u ∧ SameMemory s u)) ∧
      (∀ f rest, (s.chan ch).fences = f :: rest →
        ((∃ w ∈ (s.chan ch).remoteWrites, w.serial < f.below) → Runs (.fenceDone ch) s (fun u => u = s)) ∧
        (f.desc = false → (∀ w ∈ (s.chan ch).remoteWrites, f.below ≤ w.serial) → Runs (.fenceDone ch) s (fun u =>
          (u.chan ch).unfenced = (s.chan ch).unfenced.filter (fun i => decide (f.below ≤ i.serial)) ∧ (u.chan ch).fences = rest ∧
          u.flag F.DMA_CHn_EVENT.FENCED ch = true ∧ u.chState ch = s.chState ch ∧ SameMemory s u)) ∧
        (∀ acked, Runs (.fenceTimeout ch acked) s (fun u => u.chState ch = chHALTED ∧
          u.rd F.DMA_CHn_STATUS.ERR_CAUSE ch = 4 ∧ u.flag F.DMA_CHn_EVENT.HALTED ch = true ∧ (u.chan ch).fences = [] ∧
          (∀ i, (((s.chan ch).unfenced.filter (fun i => decide (i.serial < f.below))).drop acked).head? = some i →
            u.rd F.DMA_CHn_ERR_ADDR.ADDR ch = i.addr % 2 ^ 64) ∧ SameMemory s u)))))

/-- DISABLE (R333) ends a channel that no command of the control processor holds (R326) in whatever state it is: IDLE at once, no
further burst from any port, data in flight discarded, an armed start and the fences abandoned, no event. REMAIN, IDX, BYTES and DESCS
are undefined until the next START: nothing is said of them. -/
def Obligations.DisableEndsAChannel : Prop :=
  ∀ (p : PortId) (ch : ChId) (v : BitVec 32) (s : State), s.bnd.oscOk = true → s.on 53 = true → s.flag F.DMA_CHn_STATUS.OWNED ch = false →
    (∀ h ∈ s.mon.harvests, byteAt h.p 1 ≠ ch.val) → (∀ c ∈ s.tabs.cmds, c.channel ≠ some ch.val) →
    Runs (.dmaDisable p ch v) s (fun u => u.chState ch = chIDLE ∧ (∀ q, u.nextChan q ≠ some ch.val) ∧ (u.chan ch).remoteRead = [] ∧
      (u.chan ch).kept = [] ∧ (u.chan ch).startAt = none ∧ (u.chan ch).fences = [] ∧
      (∀ f ∈ [F.DMA_CHn_EVENT.DONE, F.DMA_CHn_EVENT.DESC, F.DMA_CHn_EVENT.FENCED, F.DMA_CHn_EVENT.HALTED, F.DMA_CHn_EVENT.START_REFUSED],
        u.rd f ch = s.rd f ch) ∧ SameMemory s u)

/-! ### The fabric (chapter 12) -/

/-- A link out of DOWN that has no cell waiting and holds a credit of a class (R376). -/
def linkReady (s : State) (l k : Nat) : Prop := lkALIGNED ≤ s.lkState l ∧ (s.link l).txq = [] ∧ 0 < (s.link l).credits.getD k 0

/-- What a lane's block lock comes to under more blocks: locked, lock lost on the way, the last 64 headers (R371). -/
def laneAfter (s : State) (l role : Nat) (blocks : List LaneBlock) : Bool × Bool × List Bool :=
  hunt (s.flag (if role = 0 then F.FAB_LINKn_STATUS.LOCK0 else F.FAB_LINKn_STATUS.LOCK1) l, false,
    if role = 0 then (s.link l).hunt0 else (s.link l).hunt1) (blocks.map (blkValid false))

/-- The block layer (R368, R369, R371): a codeword built of 75 blocks is read back without a symbol corrected, blocks scrambled on
the two lanes are restored, 64 valid headers in a row bring block lock, 15 invalid ones after valid ones do not lose it, 16 do.
BLOCK_LOCK_CHANGE follows the headers, and a lane that loses block lock takes its link out of codeword lock (R371, R374).
CODEWORD_LOCK brings a link in LOCKING to ALIGNED, with 64 credits a class and a hello sent, exactly where both lanes are locked, the
START blocks agree in four codewords and the skew is at most 32 (R371, R374, R376). CODEWORD_RECEIVED, block lock kept, counts the
corrected symbols, hands up the cells and adds the credits of a codeword that can be read; one that cannot counts and hands up
nothing, and UE_LIMIT of them within 1 ms lose lock (R372, R376); a codeword is sent in turn. Hellos sent and received, the adjacency
they form, renew, replace or find to be a loop, and its end, which takes the link out of every routing entry (R374, R381). A write of a
link's EN opens and closes it (R374). -/
def Obligations.FabricLinks : Prop :=
  ((∀ bs : List LaneBlock, bs.length = 75 → codewordRead (codewordOf bs) = some (0, bs)) ∧
    (∀ (prev : Nat × Nat) (bs : List LaneBlock), bs.length = 80 → descrambleWord prev (scrambleWord prev bs).1 = bs) ∧
    (∀ last : List Bool, (hunt (false, false, last) (List.replicate 64 true)).1 = true ∧
      (hunt (true, false, last) (List.replicate 16 false)).2.1 = true ∧
      ((∀ v ∈ last, v = true) → (hunt (true, false, last) (List.replicate 15 false)).1 = true ∧
        (hunt (true, false, last) (List.replicate 15 false)).2.1 = false))) ∧
  (∀ (lane : Fin 16) (blocks : List LaneBlock) (s : State) (l role : Nat), s.fabOn = true → l = lane.val / 2 → role = lane.val % 2 →
    s.lkState l ≠ lkDOWN →
    ((laneAfter s l role blocks).2.1 = false → Runs (.blockLockChange lane blocks false) s (fun u => u.lkState l = s.lkState l ∧ SameMemory s u ∧
      u.flag (if role = 0 then F.FAB_LINKn_STATUS.LOCK0 else F.FAB_LINKn_STATUS.LOCK1) l = (laneAfter s l role blocks).1 ∧
      Leaves [F.FAB_LINKn_STATUS.LOCK0, F.FAB_LINKn_STATUS.LOCK1] s u)) ∧
    ((laneAfter s l role blocks).2.1 = true → Runs (.blockLockChange lane blocks false) s (fun u => u.lkState l = lkLOCKING ∧
      (u.link l).txq = [] ∧ (u.link l).credits = [0, 0, 0, 0] ∧ SameMemory s u ∧
      u.flag (if role = 0 then F.FAB_LINKn_STATUS.LOCK0 else F.FAB_LINKn_STATUS.LOCK1) l = (laneAfter s l role blocks).1)) ∧
    Runs (.blockLockChange lane blocks true) s (fun u => u.lkState l = lkLOCKING ∧ (u.link l).txq = [] ∧ (u.link l).credits = [0, 0, 0, 0] ∧
      u.flag (if role = 0 then F.FAB_LINKn_STATUS.LOCK0 else F.FAB_LINKn_STATUS.LOCK1) l = false ∧ SameMemory s u)) ∧
  (∀ (link : LinkId) (s : State), s.fabOn = true →
    (∀ (skew : Nat) (words : List (List LaneBlock)) (p : State × Bool), s.lkState link = lkLOCKING → p = s.hearWords link words →
      (p.2 = true → words.length = 4 → p.1.flag F.FAB_LINKn_STATUS.LOCK0 link = true → p.1.flag F.FAB_LINKn_STATUS.LOCK1 link = true →
        skew ≤ 32 → (p.1.link link).txq = [] → Runs (.codewordLock link skew words) s (fun u => u.lkState link = lkALIGNED ∧
          u.rd F.FAB_LINKn_STATUS.SKEW link = skew ∧ (u.link link).credits = [63, 64, 64, 64] ∧ u.flag F.FAB_EVENT.LINK_CHANGE 0 = true ∧
          Output.cell link (.hello ⟨Config.serial, s.fabAddr, link, (p.1.link link).serial⟩) ∈ u.out ∧ SameMemory s u)) ∧
      ((p.2 = false ∨ words.length ≠ 4 ∨ p.1.flag F.FAB_LINKn_STATUS.LOCK0 link = false ∨
          p.1.flag F.FAB_LINKn_STATUS.LOCK1 link = false ∨ 32 < skew) →
        Runs (.codewordLock link skew words) s (fun u => u.lkState link = lkLOCKING ∧ SameMemory s u))) ∧
    (∀ (blocks : List LaneBlock) (d : List LaneBlock), lkALIGNED ≤ s.lkState link → d = s.wordContent link (eighty blocks) →
      lkALIGNED ≤ (s.hearWord link true (eighty blocks)).lkState link →
      (∀ n w, codewordRead d = some (n, w) → (s.link link).txq = [] → Runs (.codewordReceived link blocks) s (fun u => SameMemory s u ∧
        u.lkState link = s.lkState link ∧ (∃ b, Output.codeword link b ∈ u.out) ∧
        u.rd F.FAB_LINKn_FEC_CORR.COUNT link = satAdd 32 (s.rd F.FAB_LINKn_FEC_CORR.COUNT link) n ∧
        (u.link link).rx = (s.link link).rx ++ (payloadRead none (w.drop 2)).1 ∧
        ∀ k < 4, (u.link link).credits.getD k 0 = (s.link link).credits.getD k 0 +
          (((payloadRead none (w.drop 2)).2.filter (fun c => c.1 == k)).map (fun c => c.2)).sum)) ∧
      (codewordRead d = none → ∀ n, n = ((s.link link).ues.filter (fun c => decide (s.since c < usCtc 1000))).length + 1 →
        Runs (.codewordReceived link blocks) s (fun u => SameMemory s u ∧ (∃ b, Output.codeword link b ∈ u.out) ∧
          u.rd F.FAB_LINKn_FEC_UNCORR.COUNT link = satAdd 32 (s.rd F.FAB_LINKn_FEC_UNCORR.COUNT link) 1 ∧
          (n < max 1 (s.rd F.FAB_TIMING.UE_LIMIT 0) → u.lkState link = s.lkState link ∧ (u.link link).credits = (s.link link).credits ∧
            (u.link link).rx = (s.link link).rx) ∧
          (max 1 (s.rd F.FAB_TIMING.UE_LIMIT 0) ≤ n → u.lkState link = lkLOCKING ∧ (u.link link).credits = [0, 0, 0, 0] ∧
            u.flag F.FAB_EVENT.UE_LIMIT 0 = true))))) ∧
  (∀ (link : LinkId) (s : State), s.fabOn = true →
    (linkReady s link 0 → s.helloTicks ≤ s.since (s.link link).helloAt → Runs (.helloSend link) s (fun u => SameMemory s u ∧
      Output.cell link (.hello ⟨Config.serial, s.fabAddr, link, (s.link link).serial⟩) ∈ u.out ∧ (u.link link).txq = [] ∧
      (u.link link).credits.getD 0 0 + 1 = (s.link link).credits.getD 0 0 ∧ u.lkState link = s.lkState link)) ∧
    (s.since (s.link link).helloAt < s.helloTicks → Runs (.helloSend link) s (fun u => u = s))) ∧
  (∀ (link : LinkId) (h : Hello) (s : State), s.fabOn = true → lkALIGNED ≤ s.lkState link →
    (h.serial = Config.serial → Runs (.helloReceived link h) s (fun u => u.flag F.FAB_LINKn_STATUS.LOOP link = true ∧
      u.flag F.FAB_EVENT.LOOP 0 = true ∧ u.lkState link = (if s.adjacent link then lkALIGNED else s.lkState link) ∧ SameMemory s u)) ∧
    (h.serial ≠ Config.serial → s.adjacent link = false → h.heard ≠ some Config.serial → Runs (.helloReceived link h) s (fun u =>
      (u.link link).serial = some h.serial ∧ u.lkState link = s.lkState link ∧ SameMemory s u)) ∧
    (h.serial ≠ Config.serial → s.adjacent link = false → h.heard = some Config.serial → Runs (.helloReceived link h) s (fun u =>
      u.lkState link = lkADJACENT ∧ u.rd F.FAB_LINKn_STATUS.NEIGHBOUR link = h.addr % 2 ^ 7 ∧ u.rd F.FAB_LINKn_STATUS.NLINK link = h.link % 2 ^ 3 ∧
      (u.link link).serial = some h.serial ∧ u.flag F.FAB_EVENT.LINK_CHANGE 0 = true ∧ u.flag F.FAB_EVENT.ADJ_CHANGE 0 = true ∧
      u.fab.dirty = true ∧ SameMemory s u)) ∧
    (h.serial ≠ Config.serial → s.adjacent link = true → (s.link link).serial = some h.serial → Runs (.helloReceived link h) s (fun u =>
      u.lkState link = lkADJACENT ∧ (u.link link).lastHello = s.tb.ctc ∧ SameMemory s u)) ∧
    (h.serial ≠ Config.serial → s.adjacent link = true → (s.link link).serial ≠ some h.serial → Runs (.helloReceived link h) s (fun u =>
      u.lkState link = lkADJACENT ∧ (u.link link).serial = some h.serial ∧ u.rd F.FAB_LINKn_STATUS.NEIGHBOUR link = h.addr % 2 ^ 7 ∧
      u.flag F.FAB_EVENT.ADJ_CHANGE 0 = true ∧ u.fab.dirty = true ∧ SameMemory s u))) ∧
  (∀ (link : LinkId) (s : State) (dead : Nat), s.fabOn = true → s.adjacent link = true →
    dead = max 1 (s.rd F.FAB_TIMING.HELLO_DEAD 0) * s.helloTicks →
    (dead ≤ s.since (s.link link).lastHello → (∀ d, ∀ k ∈ s.nextHops d, k < 8) →
      Runs (.helloDead link) s (fun u => u.lkState link = lkALIGNED ∧ (u.link link).serial = none ∧
        u.rd F.FAB_LINKn_STATUS.NEIGHBOUR link = 0x7F ∧ (∀ d < 64, link.val ∉ u.nextHops d) ∧ u.flag F.FAB_EVENT.ADJ_CHANGE 0 = true ∧
        u.fab.dirty = true ∧ SameMemory s u)) ∧
    (s.since (s.link link).lastHello < dead → Runs (.helloDead link) s (fun u => u = s))) ∧
  (∀ (p : PortId) (link : LinkId) (v : BitVec 32) (s : State), s.bnd.oscOk = true → s.on 55 = true →
    Runs (.fabLinkEnWrite p link v) s (fun u => u.rd F.FAB_LINKn_CFG.EN link = v.toNat % 2 ∧ SameMemory s u ∧
      (bit v.toNat 0 = true → u.lkState link = if s.lkState link = lkDOWN then lkLOCKING else s.lkState link) ∧
      (bit v.toNat 0 = false → u.lkState link = lkDOWN ∧ (s.lkState link ≠ lkDOWN → (u.link link).txq = [] ∧
        (u.link link).credits = [0, 0, 0, 0]))))

/-- Cells (R377 to R379): the checks in their order, a cell sent on with one hop fewer, and a flooded cell on every other ADJACENT
link. Addresses (R380): claims and routes of other devices, the claim timers once they have run out, RECLAIM. Routes (R381, R382): the
periodic ROUTE once 10 ms are over, the age-out, and
the table computed afresh, with hop counts of shortest paths, members, generation and keeper (R383). -/
def Obligations.FabricAddressesAndRoutes : Prop :=
  (∀ (link : LinkId) (c : List Byte) (s : State), s.fabOn = true → lkALIGNED ≤ s.lkState link →
    (fabCellBad c = true → Runs (.cellReceived link c) s (fun u => SameMemory s u ∧
      u.rd F.FAB_DROP_CRC.COUNT 0 = satAdd 32 (s.rd F.FAB_DROP_CRC.COUNT 0) 1)) ∧
    (fabCellBad c = false → (cellLocal c = true ∨ cellDst c = s.fabAddr ∧ cellDst c < 64) → Runs (.cellReceived link c) s (fun u =>
      SameMemory s u ∧ u.rd F.FAB_LINKn_CELLS_RX.COUNT link = (s.rd F.FAB_LINKn_CELLS_RX.COUNT link + 1) % 2 ^ 32 ∧
      Leaves (F.FAB_LINKn_CELLS_RX.COUNT :: eventFields) s u)) ∧
    (fabCellBad c = false → cellLocal c = false → cellDst c ≠ s.fabAddr →
      (64 ≤ cellDst c → cellDst c ≤ 126 → Runs (.cellReceived link c) s (fun u => SameMemory s u ∧
        u.rd F.FAB_DROP_ROUTE.COUNT 0 = satAdd 32 (s.rd F.FAB_DROP_ROUTE.COUNT 0) 1)) ∧
      (cellDst c < 64 → cellHops c = 0 → Runs (.cellReceived link c) s (fun u => SameMemory s u ∧
        u.rd F.FAB_DROP_HOPS.COUNT 0 = satAdd 32 (s.rd F.FAB_DROP_HOPS.COUNT 0) 1)) ∧
      (cellDst c < 64 → 0 < cellHops c → ∀ l, s.hopFor (cellDst c) (cellSrc c) (cellClass c) = some l → linkReady s l (cellClass c) →
        Runs (.cellReceived link c) s (fun u => Output.cell l (.raw (cellHop c)) ∈ u.out ∧ SameMemory s u)) ∧
      (cellDst c = 127 → cellType c ≠ 1 → cellType c ≠ 2 → link.val ∈ s.nextHops (cellSrc c) →
        (∀ l ∈ s.floodLinks (some link.val), linkReady s l (cellClass c)) → Runs (.cellReceived link c) s (fun u => SameMemory s u ∧
          ∀ l ∈ s.floodLinks (some link.val), Output.cell l (.raw c) ∈ u.out)))) ∧
  (∀ (link : LinkId) (c : List Byte) (s : State) (serial addr : Nat), s.fabOn = true → lkALIGNED ≤ s.lkState link → serial = leAt c 16 8 →
    addr = leAt c 24 1 → serial ≠ Config.serial →
    (floodedCell c 1 = true → (s.floodNew serial 1 (leAt c 25 4)).isSome = true → Runs (.claimReceived link c) s (fun u => SameMemory s u ∧
      ⟨serial, addr, s.tb.ctc⟩ ∈ u.fab.claims ∧ smFind u.fab.seen (serial, 1) = some (leAt c 25 4) ∧
      (s.fdState = fdADDRESSED → s.fabAddr = addr → Config.serial < serial →
        u.fabAddr = addr ∧ u.fab.claimSeq = (s.fab.claimSeq + 1) % 2 ^ 32) ∧
      (s.fdState = fdADDRESSED → s.fabAddr = addr → serial < Config.serial →
        u.fabAddr = 0x7F ∧ u.fdState ≠ fdADDRESSED ∧ u.flag F.FAB_EVENT.ADDR_LOST 0 = true))) ∧
    (floodedCell c 2 = true → (s.floodNew serial 2 (leAt c 26 4)).isSome = true → Runs (.routeReceived link c) s (fun u => SameMemory s u ∧
      ⟨serial, addr, bit (leAt c 25 1) 0, leAt c 26 4, routeAdj ((cellLen c - 14) / 2) (c.drop 30), s.tb.ctc⟩ ∈ u.fab.db ∧
      u.fab.dirty = true ∧ smFind u.fab.seen (serial, 2) = some (leAt c 26 4)))) ∧
  (∀ s : State, s.fabOn = true →
    (∀ a, s.fdState = fdCLAIMING → s.fab.cand = some a →
      (usCtc 500 ≤ s.since s.fab.lastClaim → Runs .claimRepeat s (fun u => u.fab.claimSeq = (s.fab.claimSeq + 1) % 2 ^ 32 ∧ u.fab.lastClaim = s.tb.ctc ∧ u.fdState = fdCLAIMING ∧
        SameMemory s u)) ∧
      (s.since s.fab.lastClaim < usCtc 500 → Runs .claimRepeat s (fun u => u = s)) ∧
      (s.since s.fab.since < usCtc 2000 → Runs .claimTimer s (fun u => u = s)) ∧
      (usCtc 2000 ≤ s.since s.fab.since → Runs .claimTimer s (fun u => u.fdState = fdADDRESSED ∧ u.fabAddr = a % 2 ^ 7 ∧ u.flag F.FAB_EVENT.ADDR_GAINED 0 = true ∧
        u.fab.routeSeq = (s.fab.routeSeq + 1) % 2 ^ 32 ∧ SameMemory s u))) ∧
    (s.fdState = fdUNADDRESSED → usCtc 10000 ≤ s.since s.fab.since → Runs .unaddressedTimer s (fun u => u.fab.cand = s.candidate ∧ SameMemory s u ∧
      (s.candidate.isSome = true → u.fdState = fdCLAIMING) ∧
      (s.candidate = none → u.fdState = fdUNADDRESSED ∧ u.flag F.FAB_EVENT.NO_ADDR 0 = true))) ∧
    (s.fdState = fdADDRESSED → usCtc 10000 ≤ s.since s.fab.lastRoute → Runs .routePeriodic s (fun u => u.fab.routeSeq = (s.fab.routeSeq + 1) % 2 ^ 32 ∧
      u.fab.lastRoute = s.tb.ctc ∧ SameMemory s u)) ∧
    (∀ r ∈ s.fab.db, usCtc 40000 ≤ s.since r.at_ → Runs .routeAgeOut s (fun u => u.fab.dirty = true ∧ r ∉ u.fab.db ∧
      (∀ q ∈ s.fab.db, s.since q.at_ < usCtc 40000 → q ∈ u.fab.db) ∧ Leaves [] s u ∧ SameMemory s u)) ∧
    (s.fab.dirty = true → Runs .routeRecompute s (fun u => u.fab.dirty = false ∧ SameMemory s u ∧
      u.rd F.FAB_ROUTE_GEN.COUNT 0 = (s.rd F.FAB_ROUTE_GEN.COUNT 0 + 1) % 2 ^ 32 ∧
      (s.fdState ≠ fdADDRESSED → u.rd F.FAB_MEMBERS.MEMBERS 0 = 0 ∧ ∀ d < 64, u.nextHops d = []) ∧
      (s.fdState = fdADDRESSED → ∀ d < 64, ∀ k, (hopsFrom s.fabEdges s.fabAddr).find? (fun p => p.1 == d) = some (d, k) →
        u.member d = true ∧ u.rd F.FAB_ROUTEd.HOPS d = k % 2 ^ 6) ∧
      (∀ can : List Nat, can = (List.range 64).filter (fun d => u.member d && u.keeperEn d) →
        (u.flag F.FAB_STATE.QUORUM 0 = true ↔ max 1 (s.rd F.FAB_CFG.VOTERS 0) / 2 + 1 ≤ can.length) ∧
        u.rd F.FAB_STATE.KEEPER 0 = if u.flag F.FAB_STATE.QUORUM 0 then can.headD 0x7F else 0x7F)))) ∧
  (∀ (p : PortId) (v : BitVec 32) (s : State), s.bnd.oscOk = true → s.on 55 = true → s.fdState = fdADDRESSED →
    Runs (.fabReclaim p v) s (fun u => u.fabAddr = 0x7F ∧ u.fab.cand = s.candidate ∧ u.fdState ≠ fdADDRESSED ∧ SameMemory s u))

/-- What the fabric carries: leases granted or refused (R384), TIDE cells 1 ms after the last (R385, R386), remote reads and writes of
counters and scratch served or refused (R387), the answers the rake waits for, by the tag of the access (R387; the tag is the model's
choice of log entry 65), refused writes sent again (R332), and FAB_STATUS (R389). -/
def Obligations.FabricServices : Prop :=
  (∀ (m : LeaseReq) (s : State) (l : Nat), s.fabOn = true → s.fab.keeperSince.isSome = true → s.hopFor m.from_ s.fabAddr 0 = some l →
    linkReady s l 0 →
    ((smFind s.fab.leases (m.pair, 0) = none ∨ (∃ x, smFind s.fab.leases (m.pair, 0) = some x ∧ (x.holder = m.from_ ∨
        s.past x.ends = true ∧ usCtc 1000 ≤ s.since x.ends))) →
      ((∃ k, s.fab.keeperSince = some k ∧ usCtc 5000 ≤ s.since k) ∨ m.holds = true) →
      Runs (.leaseRequestReceived m) s (fun u => Output.cell l (.leaseAns m.from_ ⟨m.pair, true, 0⟩) ∈ u.out ∧ SameMemory s u ∧
        smFind u.fab.leases (m.pair, 0) = some ⟨m.from_, (s.tb.ctc + usCtc 4000) % 2 ^ 96⟩)) ∧
    (∀ x, smFind s.fab.leases (m.pair, 0) = some x → x.holder ≠ m.from_ → s.past x.ends = false →
      Runs (.leaseRequestReceived m) s (fun u => u.fab.leases = s.fab.leases ∧ SameMemory s u ∧
        Output.cell l (.leaseAns m.from_ ⟨m.pair, false, (x.ends + 2 ^ 96 - s.tb.ctc) % 2 ^ 96 / usCtc 1⟩) ∈ u.out)) ∧
    (m.holds = false → (∃ k, s.fab.keeperSince = some k ∧ s.since k < usCtc 5000) →
      Runs (.leaseRequestReceived m) s (fun u => u.fab.leases = s.fab.leases))) ∧
  (∀ (link : LinkId) (s : State), s.fabOn = true → s.adjacent link = true → linkReady s link 0 →
    (∀ c, (s.link link).tideAt = some c → usCtc 1000 ≤ s.since c) →
    Runs (.tideCellSend link) s (fun u => SameMemory s u ∧ (u.link link).tideAt = some s.tb.ctc ∧
      Output.cell link (.tide ⟨s.tide, (s.link link).lastRx,
        (s.wantsVia link).getD ((s.link link).exch % max 1 (s.wantsVia link).length) 0x7F,
        (s.link link).asked.bind (fun a => s.tideAnswer a)⟩) ∈ u.out)) ∧
  (∀ (link : LinkId) (c : TideCell) (s : State) (n : Nat), s.fabOn = true → s.adjacent link = true →
    n = (if c.last.isSome then (s.link link).exch + 1 else (s.link link).exch) →
    Runs (.tideCellReceived link c) s (fun u => (u.link link).lastRx = some (s.tide, c.dep) ∧ (u.link link).exch = n ∧
      (u.link link).asked = (if c.query < 64 then some c.query else none) ∧ SameMemory s u ∧
      (n < 4 → u.rd F.FAB_LINKn_TIDE_OFS.THETA link = s.rd F.FAB_LINKn_TIDE_OFS.THETA link) ∧
      (∀ t1 t2, c.last = some (t2, t1) → 4 ≤ n →
        u.rd F.FAB_LINKn_TIDE_OFS.THETA link = ofSigned 32 (satSigned 32 (((t2 - t1) - (s.tide - c.dep)) / 2)) ∧
        u.rd F.FAB_LINKn_TIDE_DLY.DELAY link = ofSigned 32 (satSigned 32 (((s.tide - t1) - (c.dep - t2)) / 2))))) ∧
  (∀ (m : RemoteReq) (s : State) (l : Nat), s.fabOn = true → s.hopFor m.from_ s.fabAddr 2 = some l → linkReady s l 2 →
    (s.remoteServed m = false → Runs (.remoteAccessReceived m) s (fun u => SameMemory s u ∧
      Output.cell l (.remoteRsp m.from_ ⟨m.ch, m.tag, m.write, true, []⟩) ∈ u.out)) ∧
    (s.flag F.FAB_CFG.REMOTE_WR_EN 0 = true → m.write = true → m.space = 3 → m.off < 2 ^ 35 → m.off % 2 ^ 34 + m.len ≤ 15 * 2 ^ 30 →
      Runs (.remoteAccessReceived m) s (fun u => u.hostMem = s.hostMem ∧
        u.scratch = memPutAll s.scratch (scratchKey m.off) (m.data.take m.len) ∧
        Output.cell l (.remoteRsp m.from_ ⟨m.ch, m.tag, true, false, []⟩) ∈ u.out)) ∧
    (s.flag F.FAB_CFG.REMOTE_RD_EN 0 = true → m.write = false → m.space = 3 → m.off < 2 ^ 35 → m.off % 2 ^ 34 + m.len ≤ 15 * 2 ^ 30 →
      Runs (.remoteAccessReceived m) s (fun u => SameMemory s u ∧
        Output.cell l (.remoteRsp m.from_ ⟨m.ch, m.tag, false, false, memBytes s.scratch (scratchKey m.off) m.len⟩) ∈ u.out)) ∧
    (s.flag F.FAB_CFG.REMOTE_RD_EN 0 = true → m.write = false → m.space = 2 → s.on 54 = true →
      Runs (.remoteAccessReceived m) s (fun u => SameMemory s u ∧
        Output.cell l (.remoteRsp m.from_ ⟨m.ch, m.tag, false, false, s.shadowBytes m.off m.len⟩) ∈ u.out))) ∧
  (∀ (m : RemoteRsp) (s : State) (x : RakeChan), s.fabOn = true → s.on 53 = true → m.ch < 64 → x = s.chan m.ch →
    (m.write = true → (∀ w ∈ x.remoteWrites, w.tag = m.tag → m.tag = 0) → Runs (.remoteRspReceived m) s (fun u => u = s)) ∧
    (∀ w, m.write = true → x.remoteWrites.find? (fun v => decide (v.tag = m.tag ∧ m.tag ≠ 0)) = some w →
      (m.refused = false → Runs (.remoteRspReceived m) s (fun u => SameMemory s u ∧ Leaves [] s u ∧
        (u.chan m.ch).remoteWrites = x.remoteWrites.filter (fun v => v.tag != m.tag) ∧
        ((∀ v ∈ x.remoteWrites, v.tag ≠ m.tag → v.serial ≠ w.serial) →
          (u.chan m.ch).unfenced = x.unfenced.filter (fun i => i.serial != w.serial)))) ∧
      (m.refused = true → w.fails < s.rd F.DMA_RETRY.COUNT 0 → Runs (.remoteRspReceived m) s (fun u => SameMemory s u ∧
        u.chState m.ch = s.chState m.ch ∧ (u.chan m.ch).tag = x.tag + 1 ∧ (u.chan m.ch).remoteWrites =
          x.remoteWrites.map (fun v => if v.tag = w.tag then { v with tag := x.tag, fails := v.fails + 1 } else v)))) ∧
    (m.write = false → (∀ q ∈ x.remoteRead, q.tag = m.tag → q.got ≠ none) → Runs (.remoteRspReceived m) s (fun u => u = s)) ∧
    (∀ l : List RemotePart, m.write = false → m.refused = false → (∃ q ∈ x.remoteRead, q.tag = m.tag ∧ q.got = none) →
      l = x.remoteRead.map (fun q => if q.tag = m.tag then { q with got := some m.data } else q) →
      ((∃ q ∈ l, q.got = none) → Runs (.remoteRspReceived m) s (fun u => SameMemory s u ∧ (u.chan m.ch).remoteRead = l ∧ Leaves [] s u)) ∧
      ((∀ q ∈ l, q.got ≠ none) → spaceOf (burstOf s m.ch).dst = 0 → Runs (.remoteRspReceived m) s (fun u =>
        (u.chan m.ch).remoteRead = [] ∧ u.scratch = s.scratch ∧ u.hostMem =
          (s.hostWrite (offOf (burstOf s m.ch).dst) ((l.flatMap (fun q => q.got.getD [])).take (burstOf s m.ch).len)).hostMem)))) ∧
  (∀ (src : Src) (s : State) (p : List Byte), Given s src 0x0710 false true p → ∃ pl,
    Serves (.fabStatus src) s src (okWith pl) (fun u => u = s.take src) ∧ (s.on 55 = false → pl = zeros 56) ∧
    (s.on 55 = true → byteAt pl 0 = s.fabAddr % 2 ^ 8 ∧ byteAt pl 1 = s.fdState % 2 ^ 8 ∧
      byteAt pl 2 = s.rd F.FAB_STATE.KEEPER 0 % 2 ^ 8 ∧ byteAt pl 4 = s.rd F.FAB_STATE.MEMBERS_N 0 % 2 ^ 8 ∧
      leAt pl 8 8 = s.rd F.FAB_MEMBERS.MEMBERS 0 % 2 ^ 64 ∧ leAt pl 32 4 = s.rd F.FAB_ROUTE_GEN.COUNT 0 % 2 ^ 32 ∧
      leAt pl 36 8 = s.keeperSerial % 2 ^ 64 ∧
      ∀ l < 8, byteAt pl (16 + 2 * l) = (s.lkState l + s.rd F.FAB_LINKn_STATUS.LOOP l * 4) % 2 ^ 8 ∧
        byteAt pl (17 + 2 * l) = s.rd F.FAB_LINKn_STATUS.NEIGHBOUR l % 2 ^ 8))

/-! ### Protection (chapter 13) -/


/-- What a partner's messages do: DIGEST at a PROT_STANDBY tree, which counts as arrived or not (R399, R401, R403), STATUS and the
changes of state it causes (R404, R407, R408, R411 to R413; the tree is ACTIVE from the entry to TAKING on, and TAKING entered by a
planned switch ends with a SYNCING partner, the model's choices of log entry 67), flow, tree and terminal records, copies and the gap that
sends a standby back to SYNCING (R397, R398; a record out of range is refused and counted, log entry 67), TABLE_SYNC entries, with no
word of the tables in error (R400), and a QUENCH passed on (R396). -/
def Obligations.ProtectionMessages : Prop :=
  (∀ (t : TreeId) (f : BitVec 64) (b : List Byte) (s : State), psListens (s.ps t) = true → s.tstate t = trSTANDBY →
    (s.digestArrives t f.toNat b = false → Runs (.digestReceived t f b) s (fun u => (u.prot t).digests = (s.prot t).digests ∧
      (u.prot t).reps = addReport (s.prot t).reps ⟨(leAt b 16 8 : Nat), leAt b 10 2, leAt b 8 2⟩ ∧ Leaves [] s u ∧ SameMemory s u)) ∧
    (s.digestArrives t f.toNat b = true → s.ps t ≠ psCLAIMING → Runs (.digestReceived t f b) s (fun u =>
      (u.prot t).digests = (s.prot t).digests ++ [((f.toNat : Int), b)] ∧ Leaves [] s u ∧ SameMemory s u ∧
      (u.treeU t).expected = (s.treeU t).expected ++ (if (s.prot t).copyEnd then s.digestBursts t f.toNat b else []))) ∧
    (s.digestArrives t f.toNat b = true → s.ps t = psCLAIMING → Runs (.digestReceived t f b) s (fun u => u.ps t = psSYNCING ∧
      (u.prot t).copyEnd = false ∧ u.rd F.PROT_Tt_OBS.CLEAN t = 0 ∧ u.flag F.PROT_EVENT.SYNC_LOST 0 = true ∧ SameMemory s u))) ∧
  (∀ (t : TreeId) (f : BitVec 64) (b : List Byte) (s : State) (m : StatusMsg), m = statusOf b → s.ps t ≠ psNONE →
    Runs (.statusReceived t f b) s (fun u => (u.prot t).pState = m.ps ∧
      u.rd F.PROT_Tt_OBS.ACK_GAP t = 0 ∧
      (s.ps t = psREADY → m.fault = true → s.tstate t = trSTANDBY → u.ps t = psTAKING ∧ u.rd F.PROT_Tt_STATE.CAUSE t = 4 ∧
        u.tstate t = trACTIVE ∧ (u.prot t).takeF = s.takeFrame t) ∧
      (s.ps t = psREADY → m.fault = false → m.switch = true → (s.prot t).sw = none →
        (u.prot t).sw = some ⟨m.switchF, none, true, false⟩ ∧ u.ps t = psREADY) ∧
      (s.ps t = psALONE → m.ps = psSYNCING → u.ps t = psSENDING ∧ u.tstate t = s.tstate t) ∧
      (s.ps t = psSENDING → m.takeover = true → (s.prot t).sw = none → u.ps t = psYIELDED ∧ u.rd F.PROT_Tt_STATE.CAUSE t = 5 ∧
        (u.prot t).yielding = true ∧ u.flag F.PROT_EVENT.YIELDED 0 = true) ∧
      (s.ps t = psTAKING → (m.ps = psHELD ∨ m.ps = psYIELDED ∨ m.ps = psSYNCING ∧ s.rd F.PROT_Tt_STATE.CAUSE t = 10) → u.ps t = psSENDING) ∧
      (s.ps t = psHELD → psSends m.ps = true → u.ps t = psYIELDED ∧ u.rd F.PROT_Tt_STATE.CAUSE t = if m.takeover then 5 else 0) ∧
      (s.ps t = psALONE → m.ps = psALONE → u.flag F.PROT_EVENT.DUAL 0 = true ∧
        ((s.prot t).sentLease = false → m.lease = true → u.ps t = psYIELDED) ∧
        ((s.prot t).sentLease = true → m.lease = false → u.ps t = psALONE) ∧
        ((s.prot t).sentLease = false → m.lease = false →
          u.ps t = (if s.rd F.PROT_Tt_STATE.PARTNER t < s.fabAddr then psYIELDED else psALONE))))) ∧
  (∀ (t : TreeId) (f : BitVec 64) (b : List Byte) (s : State), psListens (s.ps t) = true →
    Runs (.deltaReceived t f b true) s (fun u => u.ps t = psSYNCING ∧ u.rd F.PROT_Tt_STATE.CAUSE t = 12 ∧ SameMemory s u ∧
      u.rd F.PROT_Tt_MIRROR_ERR.COUNT t = satAdd 32 (s.rd F.PROT_Tt_MIRROR_ERR.COUNT t) 1 ∧ (u.prot t).copyEnd = false) ∧
    Runs (.copyReceived t f b true) s (fun u => u.ps t = psSYNCING ∧ u.rd F.PROT_Tt_STATE.CAUSE t = 12 ∧ SameMemory s u) ∧
    (∀ p k a, b.length = 8 → p = leAt b 2 2 → k = leAt b 4 2 → a = leAt b 6 2 →
      (p ≤ 65534 → k ≤ 1023 → (a ≤ 4095 ∨ a = 0xFFFF) →
        (bit (byteAt b 1) 0 = true → Runs (.deltaReceived t f (recBytes 2 b) false) s (fun u => u.ps t = s.ps t ∧
          smFind u.flows (t.val, p) = none ∧ Leaves [] s u ∧ SameMemory s u)) ∧
        (bit (byteAt b 1) 0 = false → ((smFind s.flows (t.val, p)).isSome = true ∨ s.portsUsed t < 16384) →
          Runs (.deltaReceived t f (recBytes 2 b) false) s (fun u => u.ps t = s.ps t ∧ smFind u.flows (t.val, p) =
            some ⟨k, if a = 0xFFFF then none else some a, bit (byteAt b 1) 1, bit (byteAt b 1) 2⟩ ∧ Leaves [] s u ∧ SameMemory s u)) ∧
        (bit (byteAt b 1) 0 = false → smFind s.flows (t.val, p) = none → 16384 ≤ s.portsUsed t →
          Runs (.deltaReceived t f (recBytes 2 b) false) s (fun u => u.flows = s.flows ∧ u.ps t = s.ps t ∧
            u.rd F.PROT_Tt_MIRROR_ERR.COUNT t = satAdd 32 (s.rd F.PROT_Tt_MIRROR_ERR.COUNT t) 1 ∧ SameMemory s u))) ∧
      ((p = 65535 ∨ 1023 < k ∨ 4095 < a ∧ a ≠ 0xFFFF) → Runs (.deltaReceived t f (recBytes 2 b) false) s (fun u =>
        u.flows = s.flows ∧ u.ps t = s.ps t ∧ u.rd F.PROT_Tt_MIRROR_ERR.COUNT t = satAdd 32 (s.rd F.PROT_Tt_MIRROR_ERR.COUNT t) 1 ∧
        SameMemory s u))) ∧
    (b.length = 24 → Runs (.deltaReceived t f (recBytes 6 b) false) s (fun u => u.rd F.TRE_CFG.MAX_FRAME t = leAt b 4 2 % 2 ^ 14 ∧
      u.rd F.TRE_CFG.PLOAM_MAX t = byteAt b 6 % 2 ^ F.TRE_CFG.PLOAM_MAX.w ∧ (u.tree t).dormantFrames = leAt b 8 2 ∧ (u.tree t).surveyPeriod = leAt b 10 2 ∧
      (u.tree t).surveyLen = leAt b 12 2 ∧ SameMemory s u ∧
      Leaves [F.TRE_CFG.MAX_FRAME, F.TRE_CFG.PLOAM_MAX] s u)) ∧
    (b.length = 104 → leAt b 2 2 ≤ 1022 → byteAt b 69 ≠ tmUNUSED → Runs (.deltaReceived t f (recBytes 1 b) false) s (fun u =>
      (u.term t (leAt b 2 2)).state = byteAt b 69 ∧ (u.term t (leAt b 2 2)).serial = beAt b 4 8 ∧
      (u.term t (leAt b 2 2)).eqd = toSigned 32 (leAt b 72 4) * 256 ∧ SameMemory s u)) ∧
    (b.length = 8 → Runs (.copyReceived t f (recBytes 2 b ++ recBytes 7 (leBytes 4 1)) false) s (fun u => (u.prot t).copyEnd = true ∧
      (u.ps t = s.ps t ∨ u.ps t = psREADY) ∧ (∀ p, p ≠ leAt b 2 2 → smFind u.flows (t.val, p) = none) ∧ SameMemory s u))) ∧
  (∀ (pair : BitVec 16) (p : List Byte) (s : State) (t : Nat),
    (List.range 96).find? (fun t => psListens (s.ps t) && s.rd F.PROT_Tt_STATE.PAIR_ID t == pair.toNat) = some t →
    Runs (.tableSyncReceived pair p true) s (fun u => u.ps t = psSYNCING ∧ u.rd F.PROT_Tt_STATE.CAUSE t = 12 ∧ SameMemory s u) ∧
    (s.tblState ≠ 2 → byteAt p 0 = 1 → Runs (.tableSyncReceived pair p false) s (fun u => Leaves [F.PROT_Tt_MIRROR_ERR.COUNT] s u ∧
      u.rd F.PROT_Tt_MIRROR_ERR.COUNT t = satAdd 32 (s.rd F.PROT_Tt_MIRROR_ERR.COUNT t) 1 ∧ SameMemory s u)) ∧
    (∀ e, s.tblState = 2 → tablesClean s.upsets → byteAt p 0 = 1 → byteAt p 1 = 1 → s.findKey (bits (leAt p 12 32) 0 112) = some e →
      exec (.tableSyncReceived pair p false) s = .next (s.delEntry e.1)) ∧
    (s.tblState = 2 → byteAt p 0 = 1 → byteAt p 1 ≠ 1 → entryFault (leAt p 12 32) = none →
      (s.insert (TblEntry.ofWord (leAt p 12 32)) true 3).1.code ≤ 1 →
      exec (.tableSyncReceived pair p false) s = .next (s.insert (TblEntry.ofWord (leAt p 12 32)) true 3).2)) ∧
  (∀ (t : TreeId) (b : List Byte) (s : State),
    (∀ src rest, (s.prot t).quench = src :: rest → ∃ u : State, exec (.quenchFromPartner t b) s =
      .next (u.answerLater src ⟨byteAt b 0, byteAt b 1, b.drop 2⟩) ∧ (u.prot t).quench = rest ∧ Leaves [] s u ∧ SameMemory s u) ∧
    (∀ k, (s.prot t).quench = [] → psSends (s.ps t) = true → byteAt b 0 = t → k = leAt b 2 2 → k < 1023 → (s.term t k).state ≠ tmUNUSED →
      bit (byteAt b 1) 0 = false → Runs (.quenchFromPartner t b) s (fun u => (u.term t k).state = tmSTOPPED)))

/-- Pairing (R393, R394, R395): PROT_PAIR that passes its checks begins the handshake, one that fails a check is refused, one with ROLE 0
dissolves the pair, or is refused with the tree's state in no pair (R102); the partner's announcement is kept, and agreement,
disagreement or 100 ms of silence ends the handshake; LEAVE dissolves a pair or leaves its transmitting side ALONE. PROT_SWITCH, planned
and forced (R413; the tree is ACTIVE from the entry to TAKING on, log entry 67), and PROT_STATUS (R417).
Leases (R384, R408, R409): the answer to a request, granted or refused; the request when it is due, to the keeper or decided by this
device as the keeper; the end of a lease, which takes a side that is ALONE dark into HELD; and the end of an unconfirmed takeover, two
frames after its first, in CLAIMING. -/
def Obligations.PairingSwitchesAndLeases : Prop :=
  ((∀ (src : Src) (s : State) (p : List Byte) (t : Nat), Given s src 0x0701 false false p → t = byteAt p 0 → t ≤ 95 →
      (byteAt p 1 = 0 → byteAt p 5 ≤ 1 → zeroAt p 6 2 = true → zeroAt p 32 24 = true → s.ps t = psNONE →
        ServesKey (.protPair src) s src (conflict (s.tstate t)) (fun u => u.prot t = s.prot t ∧ Leaves [] s u ∧ SameMemory s u)) ∧
      (byteAt p 1 = 0 → byteAt p 5 ≤ 1 → zeroAt p 6 2 = true → zeroAt p 32 24 = true → s.ps t ≠ psNONE →
        ∃ u : State, exec (.protPair src) s = .next (((u.answer src (okWith (u.pairPayload t))).pumpAll).scrubKey src s.admReq) ∧ u.ps t = psNONE ∧
        u.rd F.PROT_Tt_STATE.PARTNER t = 0x7F ∧ u.rd F.PROT_Tt_STATE.PAIR_ID t = 0 ∧ u.prot t = ProtTree.reset ∧
        u.flag F.PROT_EVENT.PAIR_LEFT 0 = true ∧ (s.tstate t = trSTANDBY → u.tstate t = trDISABLED)) ∧
      ((byteAt p 1 = 1 ∨ byteAt p 1 = 2) → s.pairFault p = none → (s.prot t).hs = none → Begins (.protPair src) s (fun u =>
        u.ps t = s.ps t ∧ u.tstate t = s.tstate t ∧ SameMemory s u ∧ (u.prot t).hs = some ⟨some src, byteAt p 1, leAt p 2 2, byteAt p 4,
          bit (byteAt p 5) 0, leAt p 8 4, toSigned 32 (leAt p 12 4) * 256, beAt p 16 16, s.tb.ctc, none⟩)) ∧
      ((byteAt p 1 = 1 ∨ byteAt p 1 = 2) → s.pairFault p = none → (s.prot t).hs ≠ none →
        ServesKey (.protPair src) s src (refuse stBUSY 0) (fun u => u.prot t = s.prot t ∧ Leaves [] s u ∧ SameMemory s u)) ∧
      (∀ r, (byteAt p 1 = 1 ∨ byteAt p 1 = 2) → s.pairFault p = some r →
        ServesKey (.protPair src) s src r (fun u => u.prot t = s.prot t ∧ Leaves [] s u ∧ SameMemory s u))) ∧
    (∀ (t : TreeId) (h : Handshake) (s : State), s.on 54 = true → s.on 55 = true →
      (∀ x, (s.prot t).hs = some x → x.theirs = none → Runs (.handshakeReceived t h) s (fun u => SameMemory s u ∧
        (u.prot t).hs = some { x with theirs := some h } ∧ u.ps t = s.ps t)) ∧
      (∀ l, (s.prot t).hs = none → s.ps t = psALONE → h.role = 2 → h.from_ = s.rd F.PROT_Tt_STATE.PARTNER t →
        h.pairId = s.rd F.PROT_Tt_STATE.PAIR_ID t → s.hopFor h.from_ s.fabAddr 1 = some l → linkReady s l 1 →
        Runs (.handshakeReceived t h) s (fun u => SameMemory s u ∧
          Output.cell l (.handshake h.from_ (s.announcement t h.pairId h.from_ 1 (s.prot t).key)) ∈ u.out))) ∧
    (∀ (t : TreeId) (s : State) (x : ProtHs) (src : Src), (s.prot t).hs = some x → x.src = some src →
      (∀ late h, x.theirs = some h → s.pairState t x.role x.pairId x.partner = true → s.handshakeFault t x h = none →
        ∃ u : State, exec (.protHandshakeDone t late) s = .next (u.answerKey src (okWith (u.pairPayload t))) ∧ (u.prot t).hs = none ∧
          u.rd F.PROT_Tt_STATE.PARTNER t = x.partner % 2 ^ 7 ∧ u.rd F.PROT_Tt_STATE.PAIR_ID t = x.pairId % 2 ^ 16 ∧
          (x.role = 1 → u.ps t = psSENDING ∧ u.tstate t = s.tstate t) ∧
          (x.role ≠ 1 → u.ps t = psSYNCING ∧ u.tstate t = trSTANDBY ∧ (u.prot t).slotBase = some x.slotBase ∧
            ∀ n < 1024, (u.slot (x.slotBase + n)).bound = true ∧ (u.slot (x.slotBase + n)).tree = t)) ∧
      (∀ late h r, x.theirs = some h → s.pairState t x.role x.pairId x.partner = true → s.handshakeFault t x h = some r →
        ∃ u : State, exec (.protHandshakeDone t late) s = .next (u.answerKey src r) ∧ (u.prot t).hs = none ∧ u.ps t = s.ps t ∧ Leaves [] s u) ∧
      (∀ late h, x.theirs = some h → s.pairState t x.role x.pairId x.partner = false → ∃ u : State,
        exec (.protHandshakeDone t late) s = .next (u.answerKey src (conflict (0x80 + s.tstate t))) ∧ (u.prot t).hs = none ∧
        u.ps t = s.ps t ∧ Leaves [] s u) ∧
      (x.theirs = none → usCtc 100000 ≤ s.since x.at_ → ∃ u : State,
        exec (.protHandshakeDone t true) s = .next (u.answerKey src (refuse stTIMEOUT 0)) ∧
        (u.prot t).hs = none ∧ u.ps t = s.ps t ∧ Leaves [] s u) ∧
      (∀ late, x.theirs = none → s.since x.at_ < usCtc 100000 → exec (.protHandshakeDone t late) s = .next s)) ∧
    (∀ (t : TreeId) (f : BitVec 64) (s : State),
      (s.ps t ≠ psNONE → Runs (.leaveReceived t f true) s (fun u => u.ps t = psNONE ∧ u.rd F.PROT_Tt_STATE.PARTNER t = 0x7F ∧
        u.rd F.PROT_Tt_STATE.CAUSE t = 15 ∧ u.flag F.PROT_EVENT.PAIR_LEFT 0 = true ∧ (s.tstate t = trSTANDBY → u.tstate t = trDISABLED))) ∧
      (psSends (s.ps t) = true → s.ps t ≠ psALONE → Runs (.leaveReceived t f false) s (fun u => u.ps t = psALONE ∧
        u.rd F.PROT_Tt_STATE.CAUSE t = 15 ∧ u.tstate t = s.tstate t ∧ (u.prot t).sw = none))) ∧
    (∀ (src : Src) (s : State) (p : List Byte) (t : Nat), Given s src 0x0702 false false p → t = byteAt p 0 → t ≤ 95 → zeroAt p 2 6 = true →
      (s.prot t).sw = none →
      (∀ f : Int, byteAt p 1 = 0 → f = (if leAt p 8 8 = 0 then s.frame t + 4 else (leAt p 8 8 : Int)) → leAt p 8 8 < 2 ^ 51 → s.frame t + 4 ≤ f →
        s.ps t = psSENDING → (s.prot t).pState = psREADY → Begins (.protSwitch src) s (fun u =>
          (u.prot t).sw = some ⟨f, some src, false, false⟩ ∧ u.ps t = psSENDING ∧ SameMemory s u)) ∧
      (byteAt p 1 = 1 → (s.ps t = psREADY ∨ s.ps t = psCLAIMING) → s.tstate t = trSTANDBY → Begins (.protSwitch src) s (fun u =>
        (u.prot t).sw = some ⟨0, some src, true, true⟩ ∧ u.ps t = psTAKING ∧ u.rd F.PROT_Tt_STATE.CAUSE t = 11 ∧ u.tstate t = trACTIVE ∧
        (u.prot t).takeF = s.takeFrame t ∧ u.flag F.PROT_EVENT.TAKEOVER 0 = true))) ∧
    (∀ (src : Src) (s : State) (p : List Byte) (t : Nat), Given s src 0x0703 false true p → t = byteAt p 0 → t ≤ 95 → ∃ pl,
      Serves (.protStatus src) s src (okWith pl) (fun u => u = s.take src) ∧ byteAt pl 0 = t ∧ byteAt pl 1 = s.ps t % 2 ^ 8 ∧
      byteAt pl 2 = s.tstate t % 2 ^ 8 ∧ byteAt pl 3 = s.rd F.PROT_Tt_STATE.CAUSE t % 2 ^ 8 ∧
      byteAt pl 4 = s.rd F.PROT_Tt_STATE.PARTNER t % 2 ^ 8 ∧
      byteAt pl 5 = b2n (s.leaseHeld t) + b2n (s.prot t).copyEnd * 2 + b2n (s.prot t).deltaOk * 4 ∧
      leAt pl 6 2 = s.rd F.PROT_Tt_STATE.PAIR_ID t % 2 ^ 16 ∧ leAt pl 8 4 = s.rd F.PROT_Tt_DELTA.DELTA t % 2 ^ 32 ∧
      leAt pl 12 4 = s.rd F.PROT_Tt_TIDE_ERR.ERR t % 2 ^ 32 ∧ leAt pl 16 8 = s.rd F.PROT_Tt_SINCE_F.F t % 2 ^ 64 ∧
      byteAt pl 24 = s.rd F.PROT_Tt_OBS.CLEAN t % 2 ^ 8 ∧ byteAt pl 25 = s.rd F.PROT_Tt_OBS.ACK_GAP t % 2 ^ 8 ∧
      byteAt pl 26 = s.rd F.PROT_Tt_OBS.DIGEST_GAP t % 2 ^ 8 ∧ leAt pl 28 4 = s.rd F.PROT_Tt_TAKEOVERS.COUNT t % 2 ^ 32 ∧
      ((s.prot t).leaseEnds = none → leAt pl 32 4 = 0) ∧
      (∀ c, (s.prot t).leaseEnds = some c → s.past c = false →
        leAt pl 32 4 = ((c + 2 ^ 96 - s.tb.ctc) % 2 ^ 96 / usCtc 1) % 2 ^ 32))) ∧
  ((∀ (t : TreeId) (m : LeaseAns) (s : State) (c : Nat), s.fabOn = true → s.ps t ≠ psNONE → m.pair = s.rd F.PROT_Tt_STATE.PAIR_ID t →
      (s.prot t).asked = some c →
      (m.granted = true → Runs (.leaseAnswerReceived t m) s (fun u => (u.prot t).leaseEnds = some ((c + usCtc 4000) % 2 ^ 96) ∧
        u.leaseHeld t = true ∧ SameMemory s u ∧ u.ps t = (if s.ps t = psTAKING then psSENDING else s.ps t) ∧
        (s.ps t = psTAKING → u.rd F.PROT_Tt_STATE.CAUSE t = 7) ∧ (s.ps t = psHELD → (u.prot t).silentLease = true))) ∧
      (m.granted = false → Runs (.leaseAnswerReceived t m) s (fun u => (u.prot t).askFrom = (s.tb.ctc + usCtc m.left) % 2 ^ 96 ∧
        u.rd F.PROT_Tt_LEASE_REFUSED.COUNT t = satAdd 32 (s.rd F.PROT_Tt_LEASE_REFUSED.COUNT t) 1 ∧
        Leaves [F.PROT_Tt_LEASE_REFUSED.COUNT] s u ∧ SameMemory s u))) ∧
    (∀ (t : TreeId) (s : State), s.leaseDue t = false → Runs (.leaseRequestTimer t) s (fun u => u = s)) ∧
    (∀ (t : TreeId) (s : State) (k : Nat), s.fabOn = true → s.leaseDue t = true →
      (∀ l, s.fab.keeperSince = none → k = s.rd F.FAB_STATE.KEEPER 0 → k < 64 → s.hopFor k s.fabAddr 0 = some l → linkReady s l 0 →
        Runs (.leaseRequestTimer t) s (fun u => (u.prot t).asked = some s.tb.ctc ∧ u.ps t = s.ps t ∧ SameMemory s u ∧
          Output.cell l (.leaseReq k ⟨s.rd F.PROT_Tt_STATE.PAIR_ID t, s.fabAddr, s.leaseHeld t⟩) ∈ u.out)) ∧
      (∀ x, s.fab.keeperSince.isSome = true → smFind s.fab.leases (s.rd F.PROT_Tt_STATE.PAIR_ID t, 0) = some x → x.holder = s.fabAddr →
        s.leaseHeld t = true → Runs (.leaseRequestTimer t) s (fun u => u.leaseHeld t = true ∧ SameMemory s u ∧
          (u.prot t).leaseEnds = some ((s.tb.ctc + usCtc 4000) % 2 ^ 96) ∧
          smFind u.fab.leases (s.rd F.PROT_Tt_STATE.PAIR_ID t, 0) = some ⟨s.fabAddr, (s.tb.ctc + usCtc 4000) % 2 ^ 96⟩))) ∧
    (∀ (t : TreeId) (s : State) (c : Nat), s.ps t ≠ psNONE → (s.prot t).leaseEnds = some c → s.past c = true →
      Runs (.leaseExpire t) s (fun u => u.leaseHeld t = false ∧ (u.prot t).leaseEnds = none ∧
        (s.ps t = psALONE → u.ps t = psHELD ∧ u.tstate t = trSTANDBY ∧ u.rd F.PROT_Tt_STATE.CAUSE t = 8 ∧
          u.flag F.PROT_EVENT.LEASE_LOST 0 = true ∧ u.flag F.PROT_EVENT.HELD 0 = true) ∧
        (s.ps t ≠ psALONE → u.ps t = s.ps t ∧ Leaves [F.PROT_Tt_STATE.LEASE] s u ∧ SameMemory s u))) ∧
    (∀ (t : TreeId) (s : State), s.ps t = psTAKING → (s.prot t).takeF + 2 ≤ s.frame t →
      Runs (.takingTimeout t) s (fun u => u.ps t = psCLAIMING ∧ u.tstate t = trSTANDBY ∧ u.rd F.PROT_Tt_STATE.CAUSE t = 9 ∧
        (u.prot t).silenced = some (s.frame t))))
/-! ### Power domains (chapter 14) -/

/-- No reset is held and the oscillator runs: the power-domain controller acts on wakes (R37, R431). -/
def outOfReset (s : State) : Prop := s.bnd.cplxRst = false ∧ s.bnd.softRst = false ∧ s.bnd.oscOk = true

/-- A domain in RET or OFF. -/
def asleep (s : State) (d : Nat) : Prop := s.pw d = pwRET ∨ s.pw d = pwOFF

/-- A rise of a domain has begun with its next number, and with it one of every domain it needs that was in RET or OFF (R419, R420, R425). -/
def Rises (s u : State) (d : Nat) : Prop :=
  u.pw d = pwRISING ∧ u.rd F.PWR_Dd_STATE.TARGET d = pwON ∧ (u.dom d).curSeq = nextSeq (s.dom d).lastSeq ∧
  u.rd F.PWR_Dd_SEQ.PEND_SEQ d = nextSeq (s.dom d).lastSeq ∧ ∀ e ∈ needs d, asleep s e → u.pw e = pwRISING

/-- A fall of a domain has begun with its next number (R425, R428). -/
def Falls (s u : State) (d target : Nat) : Prop :=
  u.pw d = pwFALLING ∧ u.rd F.PWR_Dd_STATE.TARGET d = target ∧ u.rd F.PWR_Dd_STATE.STAGE d = 5 ∧
  (u.dom d).curSeq = nextSeq (s.dom d).lastSeq ∧ u.rd F.PWR_Dd_SEQ.PEND_SEQ d = nextSeq (s.dom d).lastSeq

/-- A transition of a domain has ended in a state: its number, if it has one, is done (R425). -/
def Settles (s u : State) (d st : Nat) : Prop :=
  u.pw d = st ∧ u.rd F.PWR_Dd_STATE.TARGET d = st ∧ u.rd F.PWR_Dd_STATE.STAGE d = 0 ∧ (u.dom d).curSeq = 0 ∧
  ((s.dom d).curSeq ≠ 0 → u.rd F.PWR_Dd_SEQ.DONE_SEQ d = (s.dom d).curSeq % 2 ^ 16) ∧ u.flag F.PWR_EVENT.STATE_CHANGE 0 = true

/-- Requests (R423 to R427, R440): PWR_REQUEST for a rise of a domain in RET or OFF, or in ON; for a fall from rest, or one that waits
behind a transition under way, and its refusal; for an instant ahead, or one already passed; a cancellation; the payload of
PWR_STATUS; the idle timer once the idle condition holds, and the scheduled request once its instant, or its ledger count, is reached
(R72, R426), and not before. -/
def Obligations.PowerRequests : Prop :=
  (∀ (src : Src) (s : State) (p : List Byte) (d : Nat), Given s src 0x0601 false false p → d = byteAt p 0 → d ≤ 56 → zeroAt p 3 5 = true →
    zeroAt p 16 40 = true →
    (byteAt p 1 = 0 → byteAt p 2 = 0 → outOfReset s → asleep s d → ∃ u : State, Rises s u d ∧ u.rd F.PWR_LAST_WAKE.DOMAIN 0 = d ∧
      u.rd F.PWR_LAST_WAKE.SOURCE 0 = 5 ∧ SameMemory s u ∧
      exec (.pwrRequest src) s = .next ((u.answer src (okWith (u.pwrPayload d 0 (nextSeq (s.dom d).lastSeq)))).pumpAll)) ∧
    (byteAt p 1 = 0 → byteAt p 2 = 0 → s.pw d = pwON → Serves (.pwrRequest src) s src
      (okWith (s.pwrPayload d 3 (s.rd F.PWR_Dd_SEQ.DONE_SEQ d))) (fun u => Leaves [] s u ∧ SameMemory s u)) ∧
    (∀ tg, tg = byteAt p 1 → (tg = pwRET ∨ tg = pwOFF) → byteAt p 2 = 0 → s.pwrRefusal d tg = none → s.moving d = false → s.pw d ≠ tg →
      ¬ (tg = pwRET ∧ s.pw d = pwOFF) → ∃ u : State, Falls s u d tg ∧
      exec (.pwrRequest src) s = .next ((u.answer src (okWith (u.pwrPayload d 0 (nextSeq (s.dom d).lastSeq)))).pumpAll)) ∧
    (∀ tg, tg = byteAt p 1 → (tg = pwRET ∨ tg = pwOFF) → byteAt p 2 = 0 → s.pwrRefusal d tg = none → s.moving d = true →
      s.rd F.PWR_Dd_STATE.TARGET d ≠ tg → ∃ u : State, u.flag F.PWR_Dd_STATE.PENDING d = true ∧ u.rd F.PWR_Dd_STATE.PEND_TARGET d = tg ∧
      u.rd F.PWR_Dd_SEQ.PEND_SEQ d = nextSeq (s.dom d).lastSeq ∧ u.pw d = s.pw d ∧ SameMemory s u ∧
      exec (.pwrRequest src) s = .next ((u.answer src (okWith (u.pwrPayload d 1 (nextSeq (s.dom d).lastSeq)))).pumpAll)) ∧
    (∀ why, (byteAt p 1 = pwRET ∨ byteAt p 1 = pwOFF) → byteAt p 2 = 0 → s.pwrRefusal d (byteAt p 1) = some why →
      Serves (.pwrRequest src) s src (conflict why) (fun u => Leaves [] s u ∧ SameMemory s u)) ∧
    (∀ i, byteAt p 1 ≤ 2 → byteAt p 2 = 1 → s.shortTuple (leAt p 8 8) = some i → s.on 56 = true → s.tide < i → ∃ u : State,
      (u.dom d).sched = some (byteAt p 1, i.toNat) ∧ Leaves [] s u ∧ SameMemory s u ∧
      exec (.pwrRequest src) s = .next ((u.answer src (okWith (u.pwrPayload d 4 0))).pumpAll)) ∧
    (∀ i, byteAt p 1 = 0 → byteAt p 2 = 1 → s.shortTuple (leAt p 8 8) = some i → s.on 56 = true → i ≤ s.tide → outOfReset s → asleep s d →
      ∃ u : State, Rises s u d ∧ (u.dom d).sched = none ∧ u.rd F.PWR_LAST_WAKE.SOURCE 0 = 6 ∧ SameMemory s u ∧
      exec (.pwrRequest src) s = .next ((u.answer src (okWith (u.pwrPayload d 4 0))).pumpAll)) ∧
    (byteAt p 2 = 2 → ∃ u : State, (u.dom d).sched = none ∧ Leaves [] s u ∧ SameMemory s u ∧
      exec (.pwrRequest src) s = .next ((u.answer src (okWith (u.pwrPayload d 5 0))).pumpAll))) ∧
  (∀ (src : Src) (s : State) (p : List Byte) (d : Nat), Given s src 0x0602 true true p → d = byteAt p 0 → d ≤ 56 → ∃ pl,
    Serves (.pwrStatus src) s src (okWith pl) (fun u => u = s.take src) ∧ byteAt pl 0 = d ∧ byteAt pl 1 = s.pw d % 2 ^ 8 ∧
    byteAt pl 2 = 3 ∧ leAt pl 4 2 = (if s.flag F.PWR_Dd_STATE.PENDING d then s.rd F.PWR_Dd_SEQ.PEND_SEQ d else 0) % 2 ^ 16 ∧
    leAt pl 6 2 = s.rd F.PWR_Dd_SEQ.DONE_SEQ d % 2 ^ 16 ∧ leAt pl 8 8 = s.schedTuple d % 2 ^ 64 ∧
    byteAt pl 16 = s.rd F.PWR_Dd_STATE.TARGET d % 2 ^ 8 ∧
    byteAt pl 17 = (if s.flag F.PWR_Dd_STATE.PENDING d then s.rd F.PWR_Dd_STATE.PEND_TARGET d else 0xFF) % 2 ^ 8 ∧
    byteAt pl 18 = s.rd F.PWR_Dd_STATE.STAGE d % 2 ^ 8 ∧ leAt pl 20 4 = (s.dom d).wakes % 2 ^ 32 ∧
    leAt pl 24 4 = (s.dom d).refused % 2 ^ 32) ∧
  (∀ (d : DomId) (s : State) (tg : Nat), s.rd F.PWR_Dd_IDLE.IDLE_US d ≠ 0 → s.on d = true → s.flag F.PWR_Dd_STATE.PENDING d = false →
    s.idleNow d = true → tg = (if s.rd F.PWR_Dd_IDLE.IDLE_TARGET d = 2 then pwOFF else pwRET) →
    (s.pwrRefusal d tg = none → Runs (.idleTimer d) s (fun u => Falls s u d tg)) ∧
    (∀ why, s.pwrRefusal d tg = some why → Runs (.idleTimer d) s (fun u => u.pw d = pwON ∧ Leaves [F.PWR_Dd_REFUSED.COUNT] s u ∧
      u.rd F.PWR_Dd_REFUSED.COUNT d = satAdd 32 (s.rd F.PWR_Dd_REFUSED.COUNT d) 1 ∧ SameMemory s u))) ∧
  (∀ (d : DomId) (s : State), s.schedDue d = false → Runs (.scheduledRequest d) s (fun u => u = s)) ∧
  (∀ (d : DomId) (s : State) (tg i : Nat), (s.dom d).sched = some (tg, i) → s.schedDue d = true →
    (tg = pwON → outOfReset s → asleep s d → Runs (.scheduledRequest d) s (fun u => Rises s u d ∧ (u.dom d).sched = none ∧
      u.rd F.PWR_LAST_WAKE.SOURCE 0 = 6 ∧ SameMemory s u)) ∧
    ((tg = pwRET ∨ tg = pwOFF) → s.pwrRefusal d tg = none → s.pw d = pwON → Runs (.scheduledRequest d) s (fun u => Falls s u d tg ∧
      (u.dom d).sched = none)) ∧
    (∀ why, (tg = pwRET ∨ tg = pwOFF) → s.pwrRefusal d tg = some why → Runs (.scheduledRequest d) s (fun u => u.pw d = s.pw d ∧
      (u.dom d).sched = none ∧ u.flag F.PWR_EVENT.REQ_DROPPED 0 = true ∧
      u.rd F.PWR_Dd_REFUSED.COUNT d = satAdd 32 (s.rd F.PWR_Dd_REFUSED.COUNT d) 1 ∧ SameMemory s u)))

/-- Transitions (R422, R425, R428 to R430): the end of a fall and of each stage of a rise, with no request pending, and the pending wake that
follows a fall (R435); the loss of a domain's power, which faults the ACTIVE trees of a pair with cause 3 (R103). The sources of a wake
(R388, R431 to R434, R436); light accepted and darkness show in the tree's view of SD (R17). The board bus and the rails (R437 to
R439). -/
def Obligations.PowerTransitions : Prop :=
  (∀ (d : DomId) (s : State), s.pw d = pwFALLING → s.entryReady d = true →
    (s.flag F.PWR_Dd_STATE.PENDING d = false →
      (s.rd F.PWR_Dd_STATE.TARGET d = pwRET → Runs (.domainEntryDone d) s (fun u => Settles s u d pwRET)) ∧
      (s.rd F.PWR_Dd_STATE.TARGET d ≠ pwRET → Runs (.domainEntryDone d) s (fun u => Settles s u d pwOFF ∧
        (d.val < 48 → u.eng d = Engine.reset) ∧ (d.val = 55 → u.fab = Fabric.reset ∧ u.fabLinks = [])))) ∧
    (s.flag F.PWR_Dd_STATE.PENDING d = true → s.rd F.PWR_Dd_STATE.PEND_TARGET d = pwON → Runs (.domainEntryDone d) s (fun u =>
      u.pw d = pwRISING ∧ u.flag F.PWR_Dd_STATE.PENDING d = false ∧ (u.dom d).curSeq = s.rd F.PWR_Dd_SEQ.PEND_SEQ d ∧
      u.flag F.PWR_EVENT.STATE_CHANGE 0 = true))) ∧
  (∀ (d : DomId) (s : State) (st : Nat), s.pw d = pwRISING → st = s.rd F.PWR_Dd_STATE.STAGE d →
    (1 ≤ st → st < 4 → (st = 1 → (s.dom d).from_ = pwOFF → ∀ k ∈ s.railsOf d, s.flag F.PWR_POLk.READY k = true) →
      Runs (.domainStageReady d) s (fun u => u.rd F.PWR_Dd_STATE.STAGE d = st + 1 ∧ u.pw d = pwRISING ∧
        Leaves [F.PWR_Dd_STATE.STAGE] s u ∧ SameMemory s u)) ∧
    (st = 4 → s.flag F.PWR_Dd_STATE.PENDING d = false → Runs (.domainStageReady d) s (fun u => Settles s u d pwON ∧
      d.val ∉ u.bnd.wakeOut ∧ (d.val = 55 → u.fdState = fdUNADDRESSED)))) ∧
  (∀ (d : DomId) (s : State), s.pw d ≠ pwOFF → Runs (.domainPowerLoss d) s (fun u => Settles s u d pwOFF ∧
    u.flag F.PWR_Dd_STATE.PENDING d = false ∧ u.flag F.PWR_EVENT.LOSS 0 = true ∧
    (s.flag F.PWR_Dd_STATE.PENDING d = true → u.flag F.PWR_EVENT.REQ_DROPPED 0 = true) ∧
    ∀ t, d.val < 48 → (t = 2 * d.val ∨ t = 2 * d.val + 1) → s.tstate t = trACTIVE → u.tstate t = trFAULT ∧ u.rd F.TRE_STATE.FAULT_CAUSE t = 3)) ∧
  (∀ (p : PortId) (v : BitVec 32) (s : State) (d : Nat), outOfReset s → d = bits v.toNat 0 6 → bit v.toNat 31 = true → d ≤ 56 → asleep s d →
    Runs (.pwrWake p v) s (fun u => Rises s u d ∧ u.rd F.PWR_LAST_WAKE.DOMAIN 0 = d ∧ u.rd F.PWR_LAST_WAKE.SOURCE 0 = 8 ∧ SameMemory s u)) ∧
  (∀ (t : TreeId) (s : State) (d : Nat), outOfReset s → d = pairOf t → asleep s d →
    (s.armed t = true → Runs (.lightAccepted t) s (fun u => Rises s u d ∧ u.seesLight t = true ∧
      u.rd F.PWR_LAST_WAKE.SOURCE 0 = 1 ∧ u.rd F.PWR_LAST_WAKE.TREE 0 = t ∧ (u.tree t).woken = true ∧ SameMemory s u)) ∧
    (∀ rx : BitVec 64, s.listens t = true → popCount (bits rx.toNat 0 (s.sent t).len ^^^ bits (s.sent t).pattern 0 (s.sent t).len) 64 ≤ (s.sent t).maxErr →
      Runs (.wakeDelimiterMatch t rx) s (fun u => Rises s u d ∧ u.rd F.PWR_LAST_WAKE.SOURCE 0 = 2 ∧ u.rd F.PWR_LAST_WAKE.TREE 0 = t ∧
        SameMemory s u))) ∧
  (∀ (t : TreeId) (s : State),
    (s.armed t = false → Runs (.lightAccepted t) s (fun u => u.seesLight t = true ∧ Leaves [] s u ∧
      SameMemory s u)) ∧
    Runs (.sentinelRearm t) s (fun u => u.seesLight t = false ∧ Leaves [] s u ∧ SameMemory s u ∧
      (s.tstate t = trDORMANT → (u.sent t).mustBeDark = false))) ∧
  (∀ s : State, outOfReset s →
    (asleep s 55 → Runs .fabricActivityWake s (fun u => Rises s u 55 ∧ u.rd F.PWR_LAST_WAKE.SOURCE 0 = 3 ∧ SameMemory s u)) ∧
    (s.cpRuns = true → s.control.isSome = true → s.rd F.GLB_STATUS.SITE_OK 0 = 15 → s.service ≠ svBOOT → asleep s 50 → asleep s 51 →
      asleep s 52 → Runs .startupPowerRequest s (fun u => u.pw 50 = pwRISING ∧ u.pw 51 = pwRISING ∧ u.pw 52 = pwRISING ∧ SameMemory s u))) ∧
  (∀ (mv : Nat) (s : State), s.bnd.oscOk = true →
    (mv < s.rd F.PWR_BB_CFG.WARN 0 → s.flag F.PWR_BB_STATUS.WARN 0 = false → Runs (.brownOutWarning mv) s (fun u =>
      u.flag F.PWR_BB_STATUS.WARN 0 = true ∧ u.rd F.PWR_BB_STATUS.MV 0 = min mv 65535 ∧ u.flag F.PWR_EVENT.BROWNOUT 0 = true ∧
      ∀ t < 96, s.tstate t = trACTIVE → u.tstate t = trFAULT ∧ u.rd F.TRE_STATE.FAULT_CAUSE t = 4)) ∧
    (s.flag F.PWR_BB_STATUS.WARN 0 = true → s.rd F.PWR_BB_CFG.WARN 0 * 103 < mv * 100 → Runs (.brownOutClear mv) s (fun u =>
      u.flag F.PWR_BB_STATUS.WARN 0 = false ∧ u.rd F.PWR_BB_STATUS.MV 0 = min mv 65535 ∧ u.flag F.PWR_EVENT.BB_OK 0 = true ∧ SameMemory s u)) ∧
    (6300 < mv → Runs (.bbOver mv) s (fun u => u.flag F.PWR_BB_STATUS.OVER 0 = true ∧ u.rd F.PWR_BB_STATUS.MV 0 = min mv 65535 ∧
      u.flag F.PWR_EVENT.BB_OVER 0 = true ∧ SameMemory s u))) ∧
  (∀ (k : Fin 16) (s : State), s.railOn k = true → Runs (.polRailReady k) s (fun u => u.flag F.PWR_POLk.READY k = true ∧
    Leaves [F.PWR_POLk.READY] s u ∧ SameMemory s u)) ∧
  (∀ (d : DomId) (s : State), s.pw d = pwRISING → s.rd F.PWR_Dd_STATE.STAGE d = 1 → (s.dom d).from_ = pwOFF →
    s.flag F.PWR_Dd_STATE.PENDING d = false → (∃ k ∈ s.railsOf d, s.flag F.PWR_POLk.READY k = false) →
    Runs (.polRailTimeout d) s (fun u => Settles s u d pwOFF ∧ u.flag F.PWR_EVENT.POL_FAULT 0 = true ∧ SameMemory s u ∧
      ∀ k ∈ s.railsOf d, u.flag F.PWR_POLk.READY k = false ∧ (s.flag F.PWR_POLk.READY k = false → u.flag F.PWR_POLk.FAULT k = true))) ∧
  (∀ (p : PortId) (k : Fin 16) (v : BitVec 32) (s : State), s.bnd.oscOk = true → Runs (.polRailWrite p k v) s (fun u =>
    (∀ f ∈ [F.PWR_POLk.BUS_ADDR, F.PWR_POLk.EN, F.PWR_POLk.DOMAIN, F.PWR_POLk.SETPOINT], u.rd f k = bits v.toNat f.lo f.w) ∧
    (bit v.toNat 30 = true → u.flag F.PWR_POLk.FAULT k = false) ∧ (s.railOn k = true → u.railOn k = false → u.flag F.PWR_POLk.READY k = false) ∧
    (s.railOn k = false → u.railOn k = true → Output.rail (u.rd F.PWR_POLk.BUS_ADDR k) true (u.rd F.PWR_POLk.SETPOINT k) ∈ u.out) ∧
    (u.rd F.PWR_POLk.SETPOINT k ≠ s.rd F.PWR_POLk.SETPOINT k →
      Output.rail (u.rd F.PWR_POLk.BUS_ADDR k) (u.railOn k) (u.rd F.PWR_POLk.SETPOINT k) ∈ u.out) ∧
    Leaves [F.PWR_POLk.BUS_ADDR, F.PWR_POLk.EN, F.PWR_POLk.DOMAIN, F.PWR_POLk.SETPOINT, F.PWR_POLk.FAULT, F.PWR_POLk.READY] s u ∧ SameMemory s u))

/-! ### Counters, health and debug (chapter 15) -/

/-- A snapshot has been taken (R451): the sequence counts on, the named counts stand in their shadows; on every page whose programmable
counters' domain is ON these, PE_CYCLES and the page's shadow SNAP_SEQ too, while on one whose domain is not ON they keep what they held;
the counts themselves are untouched and SNAPSHOT is set. -/
def Snapped (s u : State) : Prop :=
  u.rd F.PMC_SNAP_SEQ.SEQ 0 = (s.rd F.PMC_SNAP_SEQ.SEQ 0 + 1) % 2 ^ 32 ∧ u.flag F.PMC_EVENT.SNAPSHOT 0 = true ∧
  (∀ p off, p < 179 → smGet 0 u.mon.namedSh (p, off) = s.cnt p off) ∧
  (∀ p d, p < 179 → pageDom p = some d →
    (s.on d = true → smGet 0 u.mon.seqSh (p, 0) = (s.rd F.PMC_SNAP_SEQ.SEQ 0 + 1) % 2 ^ 32 ∧
      (∀ k < 8, u.countShadow p (0x40 + 4 * k) = s.pageCounter p k) ∧
      (pageKind p = some 2 → u.countShadow p 0x80 = s.peCycles (p - 98))) ∧
    (s.on d = false → smGet 0 u.mon.seqSh (p, 0) = smGet 0 s.mon.seqSh (p, 0) ∧ ∀ off, u.countShadow p off = s.countShadow p off)) ∧
  (∀ p, p < 179 → pageKind p ≠ none → pageDom p = none → smGet 0 u.mon.seqSh (p, 0) = (s.rd F.PMC_SNAP_SEQ.SEQ 0 + 1) % 2 ^ 32) ∧
  u.counts = s.counts ∧ SameMemory s u

/-- Snapshots (R451, R453, R455): COUNTER_SNAPSHOT at once, at an instant (armed, or already passed), disarming; its refusals and the harvest of
flow counters it begins, which FLOW_HARVEST_DONE ends with every pair written to DEST, and zeroed with CLEAR_FLOWS; PMC_SNAP_CTL's NOW, ARM and
DISARM, alone and together; the armed instant that fires only once the tide has reached it. A write of PMC_BW_CFG discards every window in
progress (R458), and clearing PMC_TEL_Tt.EN discards the telemetry buffer (R461). -/
def Obligations.CountersAndSnapshots : Prop :=
  (∀ (src : Src) (s : State) (p : List Byte) (q fl : Nat), Given s src 0x0902 false true p → q = s.rd F.PMC_SNAP_SEQ.SEQ 0 → fl = byteAt p 0 →
    (∀ r, s.snapFault p = some r → Serves (.counterSnapshot src) s src r (fun u => u.mon = s.mon ∧ Leaves [] s u ∧ SameMemory s u)) ∧
    (s.snapFault p = none → bit fl 1 = false →
      (bit fl 0 = false → bit fl 3 = false →
        Serves (.counterSnapshot src) s src (snapRsp ((q + 1) % 2 ^ 32) 0 0) (fun u => Snapped s u ∧ u.mon.snapAt = s.mon.snapAt)) ∧
      (bit fl 0 = false → bit fl 3 = true →
        Serves (.counterSnapshot src) s src (snapRsp q 0 0) (fun u => u.mon.snapAt = none ∧ Leaves [] s u ∧ SameMemory s u)) ∧
      (∀ i, bit fl 0 = true → s.shortTuple (leAt p 8 8) = some i →
        (s.tide < i → Serves (.counterSnapshot src) s src (snapRsp ((q + 1) % 2 ^ 32) 0 (leAt p 8 8)) (fun u => u.mon.snapAt = some i ∧
          Leaves [] s u ∧ SameMemory s u)) ∧
        (i ≤ s.tide → Serves (.counterSnapshot src) s src (snapRsp ((q + 1) % 2 ^ 32) 0 0) (fun u => Snapped s u ∧ u.mon.snapAt = none)))) ∧
    (s.snapFault p = none → bit fl 1 = true →
      (s.on 50 = false → Serves (.counterSnapshot src) s src (conflict 0) (fun u => u.mon = s.mon ∧ Leaves [] s u ∧ SameMemory s u)) ∧
      (s.on 50 = true → s.tabs.st ≠ 2 →
        Serves (.counterSnapshot src) s src (conflict s.tabs.st) (fun u => u.mon = s.mon ∧ Leaves [] s u ∧ SameMemory s u)) ∧
      (s.on 50 = true → s.tabs.st = 2 → s.chFree (byteAt p 1) = false →
        Serves (.counterSnapshot src) s src (refuse stBUSY 0) (fun u => u.mon = s.mon ∧ Leaves [] s u ∧ SameMemory s u)) ∧
      (s.on 50 = true → s.tabs.st = 2 → s.chFree (byteAt p 1) = true → Begins (.counterSnapshot src) s (fun u =>
        u.mon.harvests = s.mon.harvests ++ [⟨src, p⟩] ∧ u.chState (byteAt p 1) = chRUNNING ∧
        u.flag F.DMA_CHn_STATUS.OWNED (byteAt p 1) = true ∧ SameMemory s u)))) ∧
  (∀ (s : State) (h : Harvest) (rest : List Harvest) (n : Nat), s.mon.harvests = h :: rest → s.on 53 = true → s.on 50 = true → n = leAt h.p 4 4 →
    ∃ u : State, exec .flowHarvestDone s = .next ((u.answerLater h.src (snapRsp (s.rd F.PMC_SNAP_SEQ.SEQ 0) n 0)).pumpAll) ∧
      u.mon.harvests = rest ∧ u.chState (byteAt h.p 1) = chIDLE ∧ u.flag F.DMA_CHn_EVENT.DONE (byteAt h.p 1) = true ∧ u.scratch = s.scratch ∧
      u.hostMem = (s.hostWrite (leAt h.p 16 8) ((List.range n).flatMap (fun k =>
        leBytes 8 (smGet (⟨0, 0⟩ : FlowPair) s.tabs.pairs (leAt h.p 24 4 + k, 0)).bytes ++
        leBytes 8 (smGet (⟨0, 0⟩ : FlowPair) s.tabs.pairs (leAt h.p 24 4 + k, 0)).frames))).hostMem ∧
      (bit (byteAt h.p 0) 2 = true → ∀ c, smGet (⟨0, 0⟩ : FlowPair) u.tabs.pairs (c, 0) =
        if leAt h.p 24 4 ≤ c ∧ c < leAt h.p 24 4 + n then ⟨0, 0⟩ else smGet (⟨0, 0⟩ : FlowPair) s.tabs.pairs (c, 0)) ∧
      (bit (byteAt h.p 0) 2 = false → u.tabs.pairs = s.tabs.pairs)) ∧
  (∀ (p : PortId) (v : BitVec 32) (s : State), s.bnd.oscOk = true → s.on 54 = true →
    (bit v.toNat 1 = false → Runs (.snapNow p v) s (fun u => Snapped s u ∧
      u.mon.snapAt = if bit v.toNat 2 then none else s.mon.snapAt)) ∧
    (∀ i, s.shortTuple (s.rd F.PMC_SNAP_AT.TUPLE 0) = some i →
      (s.tide < i → bit v.toNat 0 = false → Runs (.snapArm p v) s (fun u => u.mon.snapAt = some i ∧ Leaves [] s u ∧ SameMemory s u)) ∧
      (s.tide < i → bit v.toNat 0 = true → Runs (.snapArm p v) s (fun u => u.mon.snapAt = some i ∧ Snapped s u)) ∧
      (i ≤ s.tide → Runs (.snapArm p v) s (fun u => u.mon.snapAt = none ∧ Snapped s u))) ∧
    (bits v.toNat 0 2 = 0 → Runs (.snapDisarm p v) s (fun u => u.mon.snapAt = none ∧ Leaves [] s u ∧ SameMemory s u)) ∧
    Runs (.bwFramesWrite p v) s (fun u => u.rd F.PMC_BW_CFG.FRAMES 0 = v.toNat % 2 ^ 16 ∧ (∀ t < 96, u.cnt (bwGroup t) 0 = 0) ∧
      Leaves [F.PMC_BW_CFG.FRAMES] s u ∧ SameMemory s u)) ∧
  (∀ (s : State) (a : Int), s.on 54 = true → s.mon.snapAt = some a →
    (s.tideDue a = true → Runs .snapshotAt s (fun u => u.mon.snapAt = none ∧ Snapped s u)) ∧
    (s.tideDue a = false → Runs .snapshotAt s (fun u => u = s))) ∧
  (∀ (p : PortId) (t : TreeId) (v : BitVec 32) (s : State), s.bnd.oscOk = true → s.on (pairOf t) = true →
    Runs (.telemetryEnWrite p t v) s (fun u => u.rd F.PMC_TEL_Tt.EN t = v.toNat % 2 ∧ SameMemory s u ∧
      Leaves [F.PMC_TEL_Tt.EN, F.PMC_TEL_Tt.FILL] s u ∧ (v.toNat % 2 = 1 → u.telOf t = s.telOf t) ∧
      (v.toNat % 2 = 0 → u.telOf t = [] ∧ u.rd F.PMC_TEL_Tt.FILL t = 0)))

/-- HEALTH_REPORT's 56 bytes of section 0 (R465): the worst domain and its prediction, the flags, the records held, the worst polled optics, the
corrected errors of 24 h of the four stacks and the retired brine cells. -/
def SummaryShown (s : State) (b : List Byte) : Prop :=
  (∃ d < 58, byteAt b 0 = d ∧ leAt b 4 4 = (s.wearPredict d).1 ∧ byteAt b 8 = (s.wearPredict d).2 % 256 ∧
    ∀ d' < 58, (s.wearPredict d).1 ≤ (s.wearPredict d').1) ∧
  (bit (byteAt b 1) 0 = true ↔ (∃ d < 58, (s.wearPredict d).1 = 0xFFFFFFFF) ∨
    ∃ e ∈ s.mon.optics, e.2.std ≠ 0 ∧ (s.opticPredict e.1.1).1 = 0xFFFFFFFF) ∧
  bit (byteAt b 1) 1 = s.errOvf ∧
  (bit (byteAt b 1) 2 = true ↔ ∃ d < 58, s.flag F.PMC_WEAR_d.VALID d = true ∧ s.rd F.PMC_HEALTH_CFG.WEAR_WARN 0 ≤ s.rd F.PMC_WEAR_d.INDEX d) ∧
  (bit (byteAt b 1) 3 = true ↔ (∃ d < 58, s.warns (s.wearPredict d) = true) ∨ ∃ e ∈ s.mon.optics, s.warns (s.opticPredict e.1.1) = true) ∧
  byteAt b 2 = s.errLog.length % 256 ∧
  ((∀ e ∈ s.mon.optics, e.2.std = 0) → byteAt b 9 = 0xFF ∧ leAt b 12 4 = 0xFFFFFFFF) ∧
  ((∃ e ∈ s.mon.optics, e.2.std ≠ 0) → ∃ e ∈ s.mon.optics, e.2.std ≠ 0 ∧ byteAt b 9 = e.1.1 % 256 ∧
    leAt b 12 4 = (s.opticPredict e.1.1).1 ∧ ∀ e' ∈ s.mon.optics, e'.2.std ≠ 0 → (s.opticPredict e.1.1).1 ≤ (s.opticPredict e'.1.1).1) ∧
  (∀ i < 4, leAt b (16 + 4 * i) 4 = min (2 ^ 32 - 1) (s.corr24 (2 + i))) ∧ leAt b 32 2 = s.buf.retired % 2 ^ 16

/-- The bytes of section 1 from domain `ix` (R465). -/
def DomainsShown (s : State) (ix : Nat) (b : List Byte) : Prop :=
  ∀ k < 7, (57 < ix + k → leAt b (8 * k) 8 = 0) ∧
    (ix + k ≤ 57 →
      leAt b (8 * k) 2 = (s.rd F.PMC_WEAR_d.INDEX (ix + k) + s.rd F.PMC_WEAR_d.VALID (ix + k) * 2 ^ 15) % 2 ^ 16 ∧
      leAt b (8 * k + 2) 4 = (s.wearPredict (ix + k)).1 ∧ byteAt b (8 * k + 6) = (s.wearPredict (ix + k)).2 % 256 ∧
      byteAt b (8 * k + 7) = (smGet [] s.mon.wear (ix + k, 0)).length % 256)

/-- The bytes of section 2 (R465): the oldest three records of the log, how many are left, and its overflow. -/
def ErrorsShown (s : State) (b : List Byte) : Prop :=
  byteAt b 0 = min 3 s.errLog.length ∧ byteAt b 1 = (s.errLog.length - 3) % 256 ∧ byteAt b 2 = b2n s.errOvf ∧
  (∀ k < 3, slice b (8 + 16 * k) 16 = match s.errLog[k]? with | some r => slice r 0 16 | none => zeros 16)

/-- The bytes of section 3 for tree `t` (R465). -/
def OpticsShown (s : State) (t : Nat) (b : List Byte) : Prop :=
  byteAt b 0 = t ∧ byteAt b 1 = (s.optic t).std % 256 ∧ byteAt b 2 = (s.optic t).flags % 256 ∧ leAt b 4 2 = (s.optic t).temp % 2 ^ 16 ∧
  leAt b 6 2 = (s.optic t).supply % 2 ^ 16 ∧ leAt b 8 2 = (s.optic t).bias % 2 ^ 16 ∧ leAt b 10 2 = (s.optic t).tx % 2 ^ 16 ∧
  leAt b 12 2 = (s.optic t).rx % 2 ^ 16 ∧ leAt b 16 4 = (s.opticPredict t).1 ∧ byteAt b 20 = (s.opticPredict t).2 % 256 ∧
  leAt b 24 8 = f51 (s.optic t).lastF % 2 ^ 64

/-- An unlock attempt has failed (R468): the nonce is used up, FAILS counts on, and the fourth failure starts the minute of detail 7. -/
def UnlockFailed (s u : State) : Prop :=
  u.rd F.TMX_STATUS.FAILS 0 = satAdd 8 (s.rd F.TMX_STATUS.FAILS 0) 1 ∧ u.mon.challenge = none ∧
  u.mon.failAt = (if satAdd 8 (s.rd F.TMX_STATUS.FAILS 0) 1 = 4 then some (s.rd F.TB_LEDGER.TICKS 0) else s.mon.failAt) ∧
  Leaves [F.TMX_STATUS.FAILS] s u ∧ SameMemory s u

/-- Wear and health (R463 to R465): the index each second of every domain that is ON, with WEAR; the daily points, with HEALTH; what the
prediction gives for fewer than three points, for points that do not vary (its hours; the confidence is a free value, log entry 33) and for three
points in a row; the report's four sections, its refusals and the
records POP removes. Debug (R468): the challenge, MODE 1's eight outcomes in order, MODE 2, and the two expiries, each only when its time has come. -/
def Obligations.HealthAndDebug : Prop :=
  (∀ (ratios : List Nat) (s : State), Runs (.wearMeasure ratios) s (fun u => SameMemory s u ∧
    ∀ d r, d < 58 → ratios[d]? = some r →
      (s.on d = true → u.rd F.PMC_WEAR_d.INDEX d = min 4095 ((1000000000 - r) / 10000) ∧ u.flag F.PMC_WEAR_d.VALID d = true ∧
        (s.rd F.PMC_HEALTH_CFG.WEAR_WARN 0 ≤ min 4095 ((1000000000 - r) / 10000) →
          (s.flag F.PMC_WEAR_d.VALID d = false ∨ s.rd F.PMC_WEAR_d.INDEX d < s.rd F.PMC_HEALTH_CFG.WEAR_WARN 0) →
          u.flag F.PMC_EVENT.WEAR 0 = true)) ∧
      (s.on d = false → u.rd F.PMC_WEAR_d.INDEX d = s.rd F.PMC_WEAR_d.INDEX d ∧ u.flag F.PMC_WEAR_d.VALID d = s.flag F.PMC_WEAR_d.VALID d))) ∧
  (∀ s : State, Runs .healthPoint s (fun u => SameMemory s u ∧ (∀ d < 58, s.flag F.PMC_WEAR_d.VALID d = true →
    smGet [] u.mon.wear (d, 0) = lastPoints (smGet [] s.mon.wear (d, 0) ++ [s.rd F.PMC_WEAR_d.INDEX d]) ∧
    (s.warns (s.wearPredict d) = false →
      s.warns (predict (smGet [] u.mon.wear (d, 0)) 2500 (Config.freeNat (s.freeCtr + d))) = true → u.flag F.PMC_EVENT.HEALTH 0 = true)) ∧
    (∀ d < 58, s.flag F.PMC_WEAR_d.VALID d = false → smGet [] u.mon.wear (d, 0) = smGet [] s.mon.wear (d, 0)) ∧
    ∀ e ∈ s.mon.optics, ∃ x, (e.1, x) ∈ u.mon.optics ∧ x.points = lastPoints (e.2.points ++ [e.2.bias]) ∧
      x.first = some (e.2.first.getD e.2.bias))) ∧
  (∀ (p : List Nat) (e : Int) (r a n : Nat), (p.length < 3 → predict p e r = (0xFFFFFFFF, 0)) ∧
    (3 ≤ n → (predict (List.replicate n a) e r).1 = 1000000) ∧
    (a ≤ 2498 → predict [a, a + 1, a + 2] 2500 r = (24 * (2498 - a), 10)) ∧ (predict [a + 2, a + 1, a] 2500 r).1 = 1000000) ∧
  (∀ (src : Src) (s : State) (p : List Byte) (sec ix : Nat), Given s src 0x0901 false true p → sec = byteAt p 0 → ix = byteAt p 1 →
    (3 < sec → Serves (.healthReport src) s src (badArg 0) (fun u => u.errLog = s.errLog ∧ Leaves [] s u ∧ SameMemory s u)) ∧
    (((sec = 1 ∧ 57 < ix) ∨ (sec = 3 ∧ 95 < ix)) →
      Serves (.healthReport src) s src (badArg 1) (fun u => u.errLog = s.errLog ∧ Leaves [] s u ∧ SameMemory s u)) ∧
    (1 < byteAt p 2 → (sec = 0 ∨ (sec = 1 ∧ ix ≤ 57) ∨ sec = 2 ∨ (sec = 3 ∧ ix ≤ 95)) →
      Serves (.healthReport src) s src (badArg 2) (fun u => u.errLog = s.errLog ∧ Leaves [] s u ∧ SameMemory s u)) ∧
    (byteAt p 2 ≤ 1 → ∃ b, b.length = 56 ∧
      (sec = 0 → SummaryShown s b ∧ Serves (.healthReport src) s src (okWith b) (fun u => u.errLog = s.errLog ∧ Leaves [] s u ∧ SameMemory s u)) ∧
      (sec = 1 → ix ≤ 57 → DomainsShown s ix b ∧
        Serves (.healthReport src) s src (okWith b) (fun u => u.errLog = s.errLog ∧ Leaves [] s u ∧ SameMemory s u)) ∧
      (sec = 2 → ErrorsShown s b ∧ Serves (.healthReport src) s src (okWith b) (fun u => Leaves [] s u ∧ SameMemory s u ∧
        (byteAt p 2 = 0 → u.errLog = s.errLog ∧ u.errOvf = s.errOvf) ∧
        (byteAt p 2 = 1 → u.errLog = s.errLog.drop 3 ∧ u.errOvf = (s.errOvf && !(s.errLog.drop 3).isEmpty)))) ∧
      (sec = 3 → ix ≤ 95 → OpticsShown s ix b ∧
        Serves (.healthReport src) s src (okWith b) (fun u => u.errLog = s.errLog ∧ Leaves [] s u ∧ SameMemory s u)))) ∧
  (∀ (src : Src) (timely : Bool) (s : State) (p : List Byte) (now : Nat), Given s src 0x0903 false true p → now = s.rd F.TB_LEDGER.TICKS 0 →
    (byteAt p 0 = 0 → ∃ n, n < 2 ^ 128 ∧ Serves (.debugUnlock src timely) s src (okWith (leBytes 8 Config.serial ++ leBytes 16 n ++ leBytes 2 60))
      (fun u => u.mon.challenge = some ⟨n, false, now⟩ ∧ Leaves [] s u ∧ SameMemory s u)) ∧
    (byteAt p 0 = 2 → Serves (.debugUnlock src timely) s src (okWith []) (fun u => u.flag F.TMX_STATUS.UNLOCKED 0 = false ∧
      (s.flag F.TMX_STATUS.UNLOCKED 0 = true → u.flag F.PMC_EVENT.TMX 0 = true) ∧ SameMemory s u)) ∧
    (2 < byteAt p 0 → Serves (.debugUnlock src timely) s src (badArg 0) (fun u => u.mon = s.mon ∧ Leaves [] s u ∧ SameMemory s u)) ∧
    (byteAt p 0 = 1 → leAt p 8 8 % 16 ≠ 0 → Serves (.debugUnlock src timely) s src (badArg 8) (fun u => u.mon = s.mon ∧ Leaves [] s u ∧
      SameMemory s u)) ∧
    (byteAt p 0 = 1 → leAt p 8 8 % 16 = 0 →
      (s.dbgLock = true → Serves (.debugUnlock src timely) s src (refuse stDENIED 4) (UnlockFailed s)) ∧
      (s.dbgLock = false → ∀ held, held = s.mon.failAt.any (fun t => decide (now < t + 60 * ledgerSec)) →
        (held = true → Serves (.debugUnlock src timely) s src (refuse stDENIED 7) (UnlockFailed s)) ∧
        (held = false → s.mon.challenge = none → Serves (.debugUnlock src timely) s src (conflict 0) (UnlockFailed s)) ∧
        (∀ c, held = false → s.mon.challenge = some c →
          ((c.expired = true ∨ c.at_ + 60 * ledgerSec ≤ now) → Serves (.debugUnlock src timely) s src (conflict 1) (UnlockFailed s)) ∧
          (∀ b, c.expired = false → now < c.at_ + 60 * ledgerSec → b = s.hostRead (leAt p 8 8) 256 →
            (timely = false → Serves (.debugUnlock src timely) s src (refuse stTIMEOUT 0) (UnlockFailed s)) ∧
            (timely = true → leAt b 0 4 ≠ 0x4B544455 → Serves (.debugUnlock src timely) s src (badArg 0x38) (UnlockFailed s)) ∧
            (timely = true → leAt b 0 4 = 0x4B544455 → (leAt b 8 8 ≠ Config.serial ∨ leAt b 16 16 ≠ c.nonce) →
              Serves (.debugUnlock src timely) s src (refuse stDENIED 5) (UnlockFailed s)) ∧
            (timely = true → leAt b 0 4 = 0x4B544455 → leAt b 8 8 = Config.serial → leAt b 16 16 = c.nonce →
              ∀ e a, e = (now + leAt b 6 2 * 3600 * ledgerSec) % 2 ^ 64 →
              a = notAuthentic (byteAt b 4) (slice b 32 97) (slice b 0 160) (slice b 160 96) →
              (∀ why, a = some why → Serves (.debugUnlock src timely) s src (refuse stDENIED why) (UnlockFailed s)) ∧
              (a = none →
                Serves (.debugUnlock src timely) s src (okWith (slice b 5 1 ++ zeros 1 ++ leBytes 2 (leAt b 6 2) ++ zeros 4 ++ leBytes 8 e)) (fun u =>
                  u.flag F.TMX_STATUS.UNLOCKED 0 = true ∧ u.rd F.TMX_EXPIRY.TICKS 0 = e ∧ u.rd F.TMX_STATUS.FAILS 0 = 0 ∧
                  u.mon.failAt = none ∧ u.flag F.PMC_EVENT.TMX 0 = true ∧ u.mon.challenge = none ∧ SameMemory s u)))))))) ∧
  (∀ (s : State) (c : Challenge), s.mon.challenge = some c → Runs .nonceExpiry s (fun u => Leaves [] s u ∧ SameMemory s u ∧
    (c.at_ + 60 * ledgerSec ≤ s.rd F.TB_LEDGER.TICKS 0 → u.mon.challenge = some { c with expired := true }) ∧
    (s.rd F.TB_LEDGER.TICKS 0 < c.at_ + 60 * ledgerSec → u.mon.challenge = some c))) ∧
  (∀ s : State,
    (s.flag F.TMX_STATUS.UNLOCKED 0 = true → s.rd F.TMX_EXPIRY.TICKS 0 ≤ s.rd F.TB_LEDGER.TICKS 0 → Runs .tmxUnlockExpiry s (fun u =>
      u.flag F.TMX_STATUS.UNLOCKED 0 = false ∧ u.flag F.PMC_EVENT.TMX 0 = true ∧ SameMemory s u)) ∧
    ((s.flag F.TMX_STATUS.UNLOCKED 0 = false ∨ s.rd F.TB_LEDGER.TICKS 0 < s.rd F.TMX_EXPIRY.TICKS 0) → Runs .tmxUnlockExpiry s (fun u => u = s)))

/-! ### What commands leave alone -/

/-- What the commands of the boundary, the timebase, power and the monitors (chapters 01, 02, 14 and 15) leave as it was: every register field a
command is not listed with, at every index, and both memories unless it may store to them (then the list stands in `FramesRegs`). -/
def Obligations.FramesOfIslandCommands : Prop :=
  (∀ a s, FramesRegs (eventFields ++ answerFields ++ [F.TB_LEDGER_RATIO.RATIO, F.SLU_STATUS.A_STATE, F.SLU_STATUS.B_STATE,
      F.SLU_STATUS.ACTIVE, F.SLU_STATUS.NONE, F.SLU_EVENT.SWITCHOVER, F.SLU_EVENT.UNIT_FAILED, F.SLU_EVENT.NO_SCHEDULER,
      F.SLU_FAIL_CAUSE.A_CAUSE, F.SLU_FAIL_CAUSE.B_CAUSE, F.DB_STATUS.STATE, F.DB_STATUS.ERR_CAUSE, F.IRQ_STATUS.RING_ERROR,
      F.FAB_LINKn_CELLS_TX.COUNT, F.PWR_EVENT.WAKE, F.PWR_EVENT.REQ_DROPPED, F.PWR_LAST_WAKE.DOMAIN, F.PWR_LAST_WAKE.SOURCE,
      F.PWR_LAST_WAKE.TREE, F.PWR_LAST_WAKE.TIDE_VALID, F.PWR_LAST_WAKE_AT.TUPLE, F.PWR_LAST_WAKE_LEDGER.TICKS, F.PWR_Dd_STATE.STATE,
      F.PWR_Dd_STATE.TARGET, F.PWR_Dd_STATE.PENDING, F.PWR_Dd_STATE.PEND_TARGET, F.PWR_Dd_STATE.STAGE, F.PWR_Dd_SEQ.PEND_SEQ,
      F.PWR_Dd_WAKES.COUNT, F.PWR_Dd_REFUSED.COUNT, F.PWR_POLk.READY, F.PE_CYCLES.COUNT, F.PMC_EVENT.ERRLOG, F.PMC_EVENT.ERRLOG_OVF])
      (.pwrRequest a) s) ∧
  (∀ a s, FramesRegs (eventFields ++ answerFields ++ [F.DB_STATUS.STATE, F.DB_STATUS.ERR_CAUSE, F.IRQ_STATUS.RING_ERROR,
      F.PMC_EVENT.ERRLOG, F.PMC_EVENT.ERRLOG_OVF]) (.pwrStatus a) s) ∧
  (∀ a s, FramesRegs (eventFields ++ answerFields ++ [F.DB_STATUS.STATE, F.DB_STATUS.ERR_CAUSE, F.IRQ_STATUS.RING_ERROR,
      F.PMC_EVENT.ERRLOG, F.PMC_EVENT.ERRLOG_OVF]) (.healthReport a) s) ∧
  (∀ a s, FramesRegs (eventFields ++ answerFields ++ [F.DB_STATUS.STATE, F.DB_STATUS.ERR_CAUSE, F.IRQ_STATUS.RING_ERROR,
      F.DMA_CHn_CTL.REQ, F.DMA_CHn_STATUS.STATE, F.DMA_CHn_STATUS.OWNED, F.DMA_CHn_STATUS.CFG_ERR, F.DMA_CHn_REMAIN.BYTES,
      F.DMA_CHn_IDX.IDX, F.DMA_CHn_BYTES.BYTES, F.PMC_EVENT.ERRLOG, F.PMC_EVENT.ERRLOG_OVF, F.PMC_EVENT.SNAPSHOT, F.PMC_SNAP_SEQ.SEQ,
      F.DMA_CHn_SRC.ADDR, F.DMA_CHn_DST.ADDR, F.DMA_CHn_S0.STEP, F.DMA_CHn_D0.STEP, F.DMA_CHn_S1.STEP, F.DMA_CHn_D1.STEP,
      F.DMA_CHn_S2.STEP, F.DMA_CHn_D2.STEP, F.DMA_CHn_CNT01.C0, F.DMA_CHn_CNT01.C1, F.DMA_CHn_CNT2.C2, F.DMA_CHn_CNT2.DCTL])
      (.counterSnapshot a) s) ∧
  (∀ a b s, FramesRegs (eventFields ++ answerFields ++ [F.DB_STATUS.STATE, F.DB_STATUS.ERR_CAUSE, F.IRQ_STATUS.RING_ERROR,
      F.PMC_EVENT.ERRLOG, F.PMC_EVENT.ERRLOG_OVF, F.PMC_EVENT.TMX, F.TMX_STATUS.UNLOCKED, F.TMX_STATUS.FAILS, F.TMX_EXPIRY.TICKS])
      (.debugUnlock a b) s) ∧
  (∀ s, FramesRegs (eventFields ++ answerFields ++ [F.DB_STATUS.STATE, F.DB_STATUS.ERR_CAUSE, F.IRQ_STATUS.RING_ERROR,
      F.DMA_CHn_STATUS.STATE, F.DMA_CHn_STATUS.OWNED, F.DMA_CHn_EVENT.DONE, F.DMA_CHn_EVENT.FENCED, F.DMA_CHn_REMAIN.BYTES,
      F.DMA_CHn_BYTES.BYTES, F.PMC_EVENT.ERRLOG, F.PMC_EVENT.ERRLOG_OVF]) .flowHarvestDone s) ∧
  (∀ a b c s, Frames (windowFields ++ [F.TRE_MOD_CMD.OFFSET, F.TRE_MOD_CMD.DEVADDR, F.TRE_MOD_CMD.WRITE, F.TRE_MOD_CMD.COUNT,
      F.TRE_MOD_CMD.FAST, F.TRE_MOD_CMD.BUSY, F.TRE_MOD_CMD.ERR]) (.treModCmdStart a b c) s) ∧
  (∀ a b c d s, Frames [F.TRE_MOD_CMD.BUSY, F.TRE_MOD_CMD.ERR, F.TRE_MOD_DATA.DATA] (.modTransactionDone a b c d) s) ∧
  (∀ a s, Frames [F.TRE_MOD_CMD.BUSY, F.TRE_MOD_CMD.ERR, F.TRE_MOD_DATA.DATA] (.clockStretchTimeout a) s) ∧
  (∀ s, Frames [] .modulePoll s) ∧
  (∀ a b c s, Frames (eventFields ++ windowFields ++ [F.TB_STATUS.A_VALID, F.TB_STATUS.B_VALID, F.TIDE_STATUS.FAR]) (.tbSet a b c) s) ∧
  (∀ a b c s, Frames (eventFields ++ windowFields ++ [F.TIDE_STATUS.FAR]) (.tbAdj a b c) s) ∧
  (∀ a b c s, Frames (windowFields ++ [F.TB_x_RATE.RATE]) (.tbRateWrite a b c) s) ∧
  (∀ a b s, Frames (windowFields ++ [F.TIDE_ORIGIN.NS, F.TIDE_STATUS.ORIGIN_REFUSED]) (.tideOriginWrite a b) s) ∧
  (∀ a b c s, Frames (windowFields ++ [F.TIDE_TODn_CTL.TREE, F.TIDE_TODn_CTL.STATE]) (.todArm a b c) s) ∧
  (∀ a b s, Frames (eventFields ++ windowFields ++ [F.PWR_EVENT.WAKE, F.PWR_LAST_WAKE.DOMAIN, F.PWR_LAST_WAKE.SOURCE,
      F.PWR_LAST_WAKE.TREE, F.PWR_LAST_WAKE.TIDE_VALID, F.PWR_LAST_WAKE_AT.TUPLE, F.PWR_LAST_WAKE_LEDGER.TICKS, F.PWR_Dd_STATE.STATE,
      F.PWR_Dd_STATE.TARGET, F.PWR_Dd_STATE.PENDING, F.PWR_Dd_STATE.PEND_TARGET, F.PWR_Dd_STATE.STAGE, F.PWR_Dd_SEQ.PEND_SEQ,
      F.PWR_Dd_WAKES.COUNT, F.PWR_POLk.READY]) (.pwrWake a b) s) ∧
  (∀ a b s, Frames (eventFields ++ windowFields ++ [F.PMC_EVENT.SNAPSHOT, F.PMC_SNAP_SEQ.SEQ]) (.snapNow a b) s) ∧
  (∀ a b s, Frames (eventFields ++ windowFields ++ [F.PMC_EVENT.SNAPSHOT, F.PMC_SNAP_SEQ.SEQ]) (.snapArm a b) s) ∧
  (∀ a b s, Frames (eventFields ++ windowFields ++ [F.PMC_EVENT.SNAPSHOT, F.PMC_SNAP_SEQ.SEQ]) (.snapDisarm a b) s) ∧
  (∀ s, Frames [] .islandResetRelease s) ∧
  (∀ a b s, Frames [F.GLB_STRAP.BUS, F.GLB_STRAP.DBGLOCK, F.PWR_BB_CFG.WARN, F.PWR_Dd_STATE.STATE, F.PWR_Dd_STATE.TARGET,
      F.PWR_Dd_STATE.STAGE, F.PWR_Dd_SEQ.PEND_SEQ, F.PWR_Dd_WAKES.COUNT, F.PWR_POLk.READY] (.oscillatorStable a b) s) ∧
  (∀ s, Frames [F.PWR_Dd_STATE.STATE, F.PWR_Dd_STATE.TARGET, F.PWR_Dd_STATE.STAGE, F.PWR_Dd_SEQ.PEND_SEQ, F.PWR_Dd_WAKES.COUNT,
      F.PWR_POLk.READY] .complexResetRelease s) ∧
  (∀ a s, Frames (eventFields ++ [F.TB_STATUS.A_PPS, F.TB_STATUS.B_PPS, F.TB_x_PPS_TIME.NS, F.TB_x_PPS_CTC.NS, F.TB_x_PPS_CNT.COUNT])
      (.ppsInEdge a) s) ∧
  (∀ s, Frames [] .ppsOutEdge s) ∧
  (∀ a s, Frames [F.TB_STEP.NS, F.TB_STEP.FRAC, F.TB_CLK.CODE] (.coreClockChange a) s) ∧
  (∀ a s, Frames [F.TB_STATUS.FREQ_HOLDOVER] (.freqHoldoverChange a) s) ∧
  (∀ s, Frames (eventFields ++ [F.TIDE_STATUS.JUMPED, F.TIDE_STATUS.RATE_CLAMP, F.TIDE_TODn_CTL.STATE]) .tideJump s) ∧
  (∀ s, Frames [F.TB_LEDGER_RATIO.RATIO] .ledgerCalibration s) ∧
  (∀ a s, Frames (eventFields ++ [F.PWR_EVENT.WAKE, F.PWR_LAST_WAKE.DOMAIN, F.PWR_LAST_WAKE.SOURCE, F.PWR_LAST_WAKE.TREE,
      F.PWR_LAST_WAKE.TIDE_VALID, F.PWR_LAST_WAKE_AT.TUPLE, F.PWR_LAST_WAKE_LEDGER.TICKS, F.PWR_Dd_STATE.STATE, F.PWR_Dd_STATE.TARGET,
      F.PWR_Dd_STATE.PENDING, F.PWR_Dd_STATE.PEND_TARGET, F.PWR_Dd_STATE.STAGE, F.PWR_Dd_SEQ.PEND_SEQ, F.PWR_Dd_WAKES.COUNT,
      F.PWR_POLk.READY]) (.lightAccepted a) s) ∧
  (∀ a s, Frames [] (.sentinelRearm a) s) ∧
  (∀ a b s, Frames (eventFields ++ [F.PWR_EVENT.WAKE, F.PWR_LAST_WAKE.DOMAIN, F.PWR_LAST_WAKE.SOURCE, F.PWR_LAST_WAKE.TREE,
      F.PWR_LAST_WAKE.TIDE_VALID, F.PWR_LAST_WAKE_AT.TUPLE, F.PWR_LAST_WAKE_LEDGER.TICKS, F.PWR_Dd_STATE.STATE, F.PWR_Dd_STATE.TARGET,
      F.PWR_Dd_STATE.PENDING, F.PWR_Dd_STATE.PEND_TARGET, F.PWR_Dd_STATE.STAGE, F.PWR_Dd_SEQ.PEND_SEQ, F.PWR_Dd_WAKES.COUNT,
      F.PWR_POLk.READY]) (.wakeDelimiterMatch a b) s) ∧
  (∀ s, Frames (eventFields ++ [F.PWR_EVENT.WAKE, F.PWR_LAST_WAKE.DOMAIN, F.PWR_LAST_WAKE.SOURCE, F.PWR_LAST_WAKE.TREE,
      F.PWR_LAST_WAKE.TIDE_VALID, F.PWR_LAST_WAKE_AT.TUPLE, F.PWR_LAST_WAKE_LEDGER.TICKS, F.PWR_Dd_STATE.STATE, F.PWR_Dd_STATE.TARGET,
      F.PWR_Dd_STATE.PENDING, F.PWR_Dd_STATE.PEND_TARGET, F.PWR_Dd_STATE.STAGE, F.PWR_Dd_SEQ.PEND_SEQ, F.PWR_Dd_WAKES.COUNT,
      F.PWR_POLk.READY]) .fabricActivityWake s) ∧
  (∀ a s, FramesRegs (eventFields ++ answerFields ++ [F.GLB_STATUS.UNTESTED, F.TRE_STATE.STATE, F.TRE_STATE.FAULT_CAUSE,
      F.TRE_STATE.OPER_TERMS, F.TRE_EVENT.STATE_CHANGE, F.TRE_EVENT.FAULT, F.TRE_EVENT.DORMANT, F.TRE_EVENT.WAKE,
      F.TRE_US_EVENT.TERM_STATE, F.TRE_US_REASM_ABORT.COUNT, F.DB_STATUS.STATE, F.DB_STATUS.ERR_CAUSE, F.IRQ_STATUS.RING_ERROR,
      F.FAB_DROP_ROUTE.COUNT, F.FAB_LINKn_CELLS_TX.COUNT, F.PROT_EVENT.TAKEOVER, F.PROT_EVENT.YIELDED, F.PROT_EVENT.HELD,
      F.PROT_EVENT.READY, F.PROT_EVENT.SYNC_LOST, F.PROT_PAIRED.TREES, F.PROT_Tt_STATE.PSTATE, F.PROT_Tt_STATE.CAUSE,
      F.PROT_Tt_SINCE_F.F, F.PROT_Tt_TAKEOVERS.COUNT, F.PWR_EVENT.BROWNOUT, F.PWR_BB_STATUS.MV, F.PWR_BB_STATUS.WARN,
      F.PWR_BB_STATUS.OVER, F.PMC_EVENT.ERRLOG, F.PMC_EVENT.ERRLOG_OVF]) (.brownOutWarning a) s) ∧
  (∀ a s, Frames (eventFields ++ [F.PWR_EVENT.BB_OK, F.PWR_BB_STATUS.MV, F.PWR_BB_STATUS.WARN, F.PWR_BB_STATUS.OVER]) (.brownOutClear a)
      s) ∧
  (∀ a s, Frames (eventFields ++ [F.PWR_EVENT.BB_OVER, F.PWR_BB_STATUS.MV, F.PWR_BB_STATUS.OVER]) (.bbOver a) s) ∧
  (∀ a s, Frames [F.PWR_POLk.READY] (.polRailReady a) s) ∧
  (∀ a s, Frames (eventFields ++ [F.TB_LEDGER_RATIO.RATIO, F.SLU_STATUS.A_STATE, F.SLU_STATUS.B_STATE, F.SLU_STATUS.ACTIVE,
      F.SLU_STATUS.NONE, F.SLU_EVENT.SWITCHOVER, F.SLU_EVENT.UNIT_FAILED, F.SLU_EVENT.NO_SCHEDULER, F.SLU_FAIL_CAUSE.A_CAUSE,
      F.SLU_FAIL_CAUSE.B_CAUSE, F.FAB_LINKn_CELLS_TX.COUNT, F.PWR_EVENT.STATE_CHANGE, F.PWR_EVENT.WAKE, F.PWR_EVENT.REQ_DROPPED,
      F.PWR_EVENT.POL_FAULT, F.PWR_Dd_STATE.STATE, F.PWR_Dd_STATE.TARGET, F.PWR_Dd_STATE.PENDING, F.PWR_Dd_STATE.PEND_TARGET,
      F.PWR_Dd_STATE.STAGE, F.PWR_Dd_SEQ.DONE_SEQ, F.PWR_Dd_SEQ.PEND_SEQ, F.PWR_Dd_WAKES.COUNT, F.PWR_Dd_REFUSED.COUNT, F.PWR_POLk.FAULT,
      F.PWR_POLk.READY, F.PE_CYCLES.COUNT]) (.polRailTimeout a) s) ∧
  (∀ a s, Frames (eventFields ++ [F.TB_LEDGER_RATIO.RATIO, F.SLU_STATUS.A_STATE, F.SLU_STATUS.B_STATE, F.SLU_STATUS.ACTIVE,
      F.SLU_STATUS.NONE, F.SLU_EVENT.SWITCHOVER, F.SLU_EVENT.UNIT_FAILED, F.SLU_EVENT.NO_SCHEDULER, F.SLU_FAIL_CAUSE.A_CAUSE,
      F.SLU_FAIL_CAUSE.B_CAUSE, F.FAB_LINKn_CELLS_TX.COUNT, F.PWR_Dd_STATE.STATE, F.PWR_Dd_STATE.TARGET, F.PWR_Dd_STATE.PENDING,
      F.PWR_Dd_STATE.PEND_TARGET, F.PWR_Dd_STATE.STAGE, F.PWR_Dd_SEQ.PEND_SEQ, F.PWR_Dd_REFUSED.COUNT, F.PE_CYCLES.COUNT]) (.idleTimer a)
      s) ∧
  (∀ a s, Frames (eventFields ++ [F.TB_LEDGER_RATIO.RATIO, F.SLU_STATUS.A_STATE, F.SLU_STATUS.B_STATE, F.SLU_STATUS.ACTIVE,
      F.SLU_STATUS.NONE, F.SLU_EVENT.SWITCHOVER, F.SLU_EVENT.UNIT_FAILED, F.SLU_EVENT.NO_SCHEDULER, F.SLU_FAIL_CAUSE.A_CAUSE,
      F.SLU_FAIL_CAUSE.B_CAUSE, F.FAB_LINKn_CELLS_TX.COUNT, F.PWR_EVENT.WAKE, F.PWR_EVENT.REQ_DROPPED, F.PWR_LAST_WAKE.DOMAIN,
      F.PWR_LAST_WAKE.SOURCE, F.PWR_LAST_WAKE.TREE, F.PWR_LAST_WAKE.TIDE_VALID, F.PWR_LAST_WAKE_AT.TUPLE, F.PWR_LAST_WAKE_LEDGER.TICKS,
      F.PWR_Dd_STATE.STATE, F.PWR_Dd_STATE.TARGET, F.PWR_Dd_STATE.PENDING, F.PWR_Dd_STATE.PEND_TARGET, F.PWR_Dd_STATE.STAGE,
      F.PWR_Dd_SEQ.PEND_SEQ, F.PWR_Dd_WAKES.COUNT, F.PWR_Dd_REFUSED.COUNT, F.PWR_POLk.READY, F.PE_CYCLES.COUNT]) (.scheduledRequest a) s) ∧
  (∀ s, Frames (eventFields ++ [F.PWR_EVENT.WAKE, F.PWR_LAST_WAKE.DOMAIN, F.PWR_LAST_WAKE.SOURCE, F.PWR_LAST_WAKE.TREE,
      F.PWR_LAST_WAKE.TIDE_VALID, F.PWR_LAST_WAKE_AT.TUPLE, F.PWR_LAST_WAKE_LEDGER.TICKS, F.PWR_Dd_STATE.STATE, F.PWR_Dd_STATE.TARGET,
      F.PWR_Dd_STATE.PENDING, F.PWR_Dd_STATE.PEND_TARGET, F.PWR_Dd_STATE.STAGE, F.PWR_Dd_SEQ.PEND_SEQ, F.PWR_Dd_WAKES.COUNT,
      F.PWR_POLk.READY]) .startupPowerRequest s) ∧
  (∀ s, Frames (eventFields ++ [F.PMC_EVENT.SNAPSHOT, F.PMC_SNAP_SEQ.SEQ]) .snapshotAt s) ∧
  (∀ a s, Frames (eventFields ++ [F.PMC_EVENT.WEAR, F.PMC_WEAR_d.INDEX, F.PMC_WEAR_d.VALID]) (.wearMeasure a) s) ∧
  (∀ s, Frames (eventFields ++ [F.PMC_EVENT.HEALTH]) .healthPoint s) ∧
  (∀ s, Frames [] .nonceExpiry s) ∧
  (∀ s, Frames (eventFields ++ [F.PMC_EVENT.TMX, F.TMX_STATUS.UNLOCKED]) .tmxUnlockExpiry s) ∧
  (∀ a b c s, Frames (windowFields ++ [F.PWR_POLk.BUS_ADDR, F.PWR_POLk.EN, F.PWR_POLk.DOMAIN, F.PWR_POLk.SETPOINT, F.PWR_POLk.FAULT,
      F.PWR_POLk.READY]) (.polRailWrite a b c) s) ∧
  (∀ a b s, Frames (windowFields ++ [F.PMC_BW_CFG.FRAMES]) (.bwFramesWrite a b) s) ∧
  (∀ a b c s, Frames (windowFields ++ [F.PMC_TEL_Tt.EN, F.PMC_TEL_Tt.FILL]) (.telemetryEnWrite a b c) s)

/-- What the commands of the trees, Sluice, the engines, the tables and the buffers (chapters 03 to 08) leave as it was: every register field a
command is not listed with, at every index, and both memories unless it may store to them (then the list stands in `FramesRegs`). -/
def Obligations.FramesOfTrafficCommands : Prop :=
  (∀ a s, FramesRegs (eventFields ++ answerFields ++ [F.DB_STATUS.STATE, F.DB_STATUS.ERR_CAUSE, F.IRQ_STATUS.RING_ERROR,
      F.PMC_EVENT.ERRLOG, F.PMC_EVENT.ERRLOG_OVF]) (.bufferConfig a) s) ∧
  (∀ a s, FramesRegs (eventFields ++ answerFields ++ [F.DB_STATUS.STATE, F.DB_STATUS.ERR_CAUSE, F.IRQ_STATUS.RING_ERROR,
      F.PMC_EVENT.ERRLOG, F.PMC_EVENT.ERRLOG_OVF]) (.bufferStatus a) s) ∧
  (∀ a s, FramesRegs (eventFields ++ answerFields ++ [F.DB_STATUS.STATE, F.DB_STATUS.ERR_CAUSE, F.IRQ_STATUS.RING_ERROR,
      F.PMC_EVENT.ERRLOG, F.PMC_EVENT.ERRLOG_OVF]) (.queueProfile a) s) ∧
  (∀ a s, FramesRegs (eventFields ++ answerFields ++ [F.DB_STATUS.STATE, F.DB_STATUS.ERR_CAUSE, F.IRQ_STATUS.RING_ERROR,
      F.PMC_EVENT.ERRLOG, F.PMC_EVENT.ERRLOG_OVF]) (.queueSet a) s) ∧
  (∀ a s, FramesRegs (eventFields ++ answerFields ++ [F.DB_STATUS.STATE, F.DB_STATUS.ERR_CAUSE, F.IRQ_STATUS.RING_ERROR,
      F.PMC_EVENT.ERRLOG, F.PMC_EVENT.ERRLOG_OVF]) (.queueStatus a) s) ∧
  (∀ a s, FramesRegs (eventFields ++ answerFields ++ [F.TRE_STATE.CONFIGURED, F.TRE_STATE.PROFILE, F.TRE_CFG.MAX_FRAME,
      F.TRE_CFG.PLOAM_MAX, F.TRE_CFG.WARM_FRAMES, F.TRE_PON_ID.PON_ID, F.TRE_DS_CAP.BYTES, F.TRE_BCAST_SLOT.SLOT, F.TRE_BCAST_SLOT.VALID,
      F.SLU_TREE_COMMIT.PERMILLE, F.DB_STATUS.STATE, F.DB_STATUS.ERR_CAUSE, F.IRQ_STATUS.RING_ERROR, F.PMC_EVENT.ERRLOG,
      F.PMC_EVENT.ERRLOG_OVF]) (.treeConfig a) s) ∧
  (∀ a s, FramesRegs (eventFields ++ answerFields ++ [F.GLB_STATUS.UNTESTED, F.TRE_STATE.STATE, F.TRE_STATE.FAULT_CAUSE,
      F.TRE_STATE.OPER_TERMS, F.TRE_BCAST_SLOT.VALID, F.TRE_EVENT.STATE_CHANGE, F.TRE_EVENT.KEY_ERASED, F.TRE_EVENT.DORMANT,
      F.TRE_EVENT.WAKE, F.TRE_DS_ABORT.COUNT, F.TRE_US_EVENT.TERM_STATE, F.TRE_US_REASM_ABORT.COUNT, F.TRE_US_KEYLOST.COUNT,
      F.SLU_FC_USED.ENTRIES, F.PE_STATUS.STATE, F.DB_STATUS.STATE, F.DB_STATUS.ERR_CAUSE, F.IRQ_STATUS.RING_ERROR,
      F.FAB_DROP_ROUTE.COUNT, F.FAB_LINKn_CELLS_TX.COUNT, F.PROT_EVENT.TAKEOVER, F.PROT_EVENT.YIELDED, F.PROT_EVENT.HELD,
      F.PROT_EVENT.READY, F.PROT_EVENT.SYNC_LOST, F.PROT_EVENT.PAIR_LEFT, F.PROT_PAIRED.TREES, F.PROT_Tt_STATE.PSTATE,
      F.PROT_Tt_STATE.CAUSE, F.PROT_Tt_STATE.PARTNER, F.PROT_Tt_STATE.LEASE, F.PROT_Tt_STATE.PAIR_ID, F.PROT_Tt_OBS.CLEAN,
      F.PROT_Tt_OBS.DIGEST_GAP, F.PROT_Tt_OBS.ACK_GAP, F.PROT_Tt_SINCE_F.F, F.PROT_Tt_TAKEOVERS.COUNT, F.PWR_EVENT.STATE_CHANGE,
      F.PWR_EVENT.WAKE, F.PWR_LAST_WAKE.DOMAIN, F.PWR_LAST_WAKE.SOURCE, F.PWR_LAST_WAKE.TREE, F.PWR_LAST_WAKE.TIDE_VALID,
      F.PWR_LAST_WAKE_AT.TUPLE, F.PWR_LAST_WAKE_LEDGER.TICKS, F.PWR_Dd_STATE.STATE, F.PWR_Dd_STATE.TARGET, F.PWR_Dd_STATE.PENDING,
      F.PWR_Dd_STATE.PEND_TARGET, F.PWR_Dd_STATE.STAGE, F.PWR_Dd_SEQ.DONE_SEQ, F.PWR_Dd_SEQ.PEND_SEQ, F.PWR_Dd_WAKES.COUNT,
      F.PWR_POLk.READY, F.PMC_EVENT.ERRLOG, F.PMC_EVENT.ERRLOG_OVF]) (.treeEnable a) s) ∧
  (∀ a s, FramesRegs (eventFields ++ answerFields ++ [F.DB_STATUS.STATE, F.DB_STATUS.ERR_CAUSE, F.IRQ_STATUS.RING_ERROR,
      F.PMC_EVENT.ERRLOG, F.PMC_EVENT.ERRLOG_OVF]) (.burstProfile a) s) ∧
  (∀ a s, FramesRegs (eventFields ++ answerFields ++ [F.TRE_STATE.OPER_TERMS, F.TRE_US_EVENT.TERM_STATE, F.DB_STATUS.STATE,
      F.DB_STATUS.ERR_CAUSE, F.IRQ_STATUS.RING_ERROR, F.PMC_EVENT.ERRLOG, F.PMC_EVENT.ERRLOG_OVF]) (.terminalAdd a) s) ∧
  (∀ a s, FramesRegs (eventFields ++ answerFields ++ [F.DB_STATUS.STATE, F.DB_STATUS.ERR_CAUSE, F.IRQ_STATUS.RING_ERROR,
      F.PMC_EVENT.ERRLOG, F.PMC_EVENT.ERRLOG_OVF]) (.terminalSet a) s) ∧
  (∀ a s, FramesRegs (eventFields ++ answerFields ++ [F.TRE_STATE.OPER_TERMS, F.TRE_BCAST_SLOT.VALID, F.TRE_EVENT.KEY_ERASED,
      F.TRE_DS_NOTERM.COUNT, F.TRE_DS_ABORT.COUNT, F.TRE_US_EVENT.TERM_STATE, F.TRE_US_REASM_ABORT.COUNT, F.TRE_US_KEYLOST.COUNT,
      F.SLU_FC_USED.ENTRIES, F.SLU_TREE_COMMIT.PERMILLE, F.DB_STATUS.STATE, F.DB_STATUS.ERR_CAUSE, F.IRQ_STATUS.RING_ERROR,
      F.PWR_EVENT.STATE_CHANGE, F.PWR_Dd_STATE.STATE, F.PWR_Dd_STATE.TARGET, F.PWR_Dd_STATE.STAGE, F.PWR_Dd_SEQ.DONE_SEQ,
      F.PWR_Dd_SEQ.PEND_SEQ, F.PMC_EVENT.ERRLOG, F.PMC_EVENT.ERRLOG_OVF]) (.terminalRemove a) s) ∧
  (∀ a s, FramesRegs (eventFields ++ answerFields ++ [F.DB_STATUS.STATE, F.DB_STATUS.ERR_CAUSE, F.IRQ_STATUS.RING_ERROR,
      F.PMC_EVENT.ERRLOG, F.PMC_EVENT.ERRLOG_OVF]) (.terminalStatus a) s) ∧
  (∀ a s, FramesRegs (eventFields ++ answerFields ++ [F.TRE_US_REASM_ABORT.COUNT, F.DB_STATUS.STATE, F.DB_STATUS.ERR_CAUSE,
      F.IRQ_STATUS.RING_ERROR, F.PMC_EVENT.ERRLOG, F.PMC_EVENT.ERRLOG_OVF]) (.flowSet a) s) ∧
  (∀ a s, FramesRegs (eventFields ++ answerFields ++ [F.TRE_STATE.OPER_TERMS, F.TRE_US_EVENT.TERM_STATE, F.DB_STATUS.STATE,
      F.DB_STATUS.ERR_CAUSE, F.IRQ_STATUS.RING_ERROR, F.FAB_DROP_ROUTE.COUNT, F.FAB_LINKn_CELLS_TX.COUNT, F.PWR_EVENT.STATE_CHANGE,
      F.PWR_Dd_STATE.STATE, F.PWR_Dd_STATE.TARGET, F.PWR_Dd_STATE.STAGE, F.PWR_Dd_SEQ.DONE_SEQ, F.PWR_Dd_SEQ.PEND_SEQ,
      F.PMC_EVENT.ERRLOG, F.PMC_EVENT.ERRLOG_OVF]) (.quench a) s) ∧
  (∀ a s, FramesRegs (eventFields ++ answerFields ++ [F.TRE_US_REASM_ABORT.COUNT, F.SLU_EVENT.FC_DROP, F.SLU_FC_USED.ENTRIES,
      F.SLU_FC_DROP.COUNT, F.SLU_TREE_COMMIT.PERMILLE, F.DB_STATUS.STATE, F.DB_STATUS.ERR_CAUSE, F.IRQ_STATUS.RING_ERROR,
      F.PMC_EVENT.ERRLOG, F.PMC_EVENT.ERRLOG_OVF]) (.allocSet a) s) ∧
  (∀ a s, FramesRegs (eventFields ++ answerFields ++ [F.DB_STATUS.STATE, F.DB_STATUS.ERR_CAUSE, F.IRQ_STATUS.RING_ERROR,
      F.DMA_CHn_CTL.REQ, F.DMA_CHn_STATUS.STATE, F.DMA_CHn_STATUS.OWNED, F.DMA_CHn_STATUS.CFG_ERR, F.DMA_CHn_REMAIN.BYTES,
      F.DMA_CHn_IDX.IDX, F.DMA_CHn_BYTES.BYTES, F.PMC_EVENT.ERRLOG, F.PMC_EVENT.ERRLOG_OVF, F.DMA_CHn_SRC.ADDR, F.DMA_CHn_DST.ADDR,
      F.DMA_CHn_S0.STEP, F.DMA_CHn_D0.STEP, F.DMA_CHn_S1.STEP, F.DMA_CHn_D1.STEP, F.DMA_CHn_S2.STEP, F.DMA_CHn_D2.STEP,
      F.DMA_CHn_CNT01.C0, F.DMA_CHn_CNT01.C1, F.DMA_CHn_CNT2.C2, F.DMA_CHn_CNT2.DCTL]) (.tableInsert a) s) ∧
  (∀ a s, FramesRegs (eventFields ++ answerFields ++ [F.DB_STATUS.STATE, F.DB_STATUS.ERR_CAUSE, F.IRQ_STATUS.RING_ERROR,
      F.DMA_CHn_CTL.REQ, F.DMA_CHn_STATUS.STATE, F.DMA_CHn_STATUS.OWNED, F.DMA_CHn_STATUS.CFG_ERR, F.DMA_CHn_REMAIN.BYTES,
      F.DMA_CHn_IDX.IDX, F.DMA_CHn_BYTES.BYTES, F.PMC_EVENT.ERRLOG, F.PMC_EVENT.ERRLOG_OVF, F.DMA_CHn_SRC.ADDR, F.DMA_CHn_DST.ADDR,
      F.DMA_CHn_S0.STEP, F.DMA_CHn_D0.STEP, F.DMA_CHn_S1.STEP, F.DMA_CHn_D1.STEP, F.DMA_CHn_S2.STEP, F.DMA_CHn_D2.STEP,
      F.DMA_CHn_CNT01.C0, F.DMA_CHn_CNT01.C1, F.DMA_CHn_CNT2.C2, F.DMA_CHn_CNT2.DCTL]) (.tableDelete a) s) ∧
  (∀ a s, FramesRegs (eventFields ++ answerFields ++ [F.DB_STATUS.STATE, F.DB_STATUS.ERR_CAUSE, F.IRQ_STATUS.RING_ERROR,
      F.DMA_CHn_CTL.REQ, F.DMA_CHn_STATUS.STATE, F.DMA_CHn_STATUS.OWNED, F.DMA_CHn_STATUS.CFG_ERR, F.DMA_CHn_REMAIN.BYTES,
      F.DMA_CHn_IDX.IDX, F.DMA_CHn_BYTES.BYTES, F.PMC_EVENT.ERRLOG, F.PMC_EVENT.ERRLOG_OVF, F.DMA_CHn_SRC.ADDR, F.DMA_CHn_DST.ADDR,
      F.DMA_CHn_S0.STEP, F.DMA_CHn_D0.STEP, F.DMA_CHn_S1.STEP, F.DMA_CHn_D1.STEP, F.DMA_CHn_S2.STEP, F.DMA_CHn_D2.STEP,
      F.DMA_CHn_CNT01.C0, F.DMA_CHn_CNT01.C1, F.DMA_CHn_CNT2.C2, F.DMA_CHn_CNT2.DCTL]) (.tableDump a) s) ∧
  (∀ a s, FramesRegs (eventFields ++ answerFields ++ [F.DB_STATUS.STATE, F.DB_STATUS.ERR_CAUSE, F.IRQ_STATUS.RING_ERROR,
      F.DMA_CHn_CTL.REQ, F.DMA_CHn_STATUS.STATE, F.DMA_CHn_STATUS.OWNED, F.DMA_CHn_STATUS.CFG_ERR, F.DMA_CHn_REMAIN.BYTES,
      F.DMA_CHn_IDX.IDX, F.DMA_CHn_BYTES.BYTES, F.PMC_EVENT.ERRLOG, F.PMC_EVENT.ERRLOG_OVF, F.DMA_CHn_SRC.ADDR, F.DMA_CHn_DST.ADDR,
      F.DMA_CHn_S0.STEP, F.DMA_CHn_D0.STEP, F.DMA_CHn_S1.STEP, F.DMA_CHn_D1.STEP, F.DMA_CHn_S2.STEP, F.DMA_CHn_D2.STEP,
      F.DMA_CHn_CNT01.C0, F.DMA_CHn_CNT01.C1, F.DMA_CHn_CNT2.C2, F.DMA_CHn_CNT2.DCTL]) (.tableProfile a) s) ∧
  (∀ a s, FramesRegs (eventFields ++ answerFields ++ [F.DB_STATUS.STATE, F.DB_STATUS.ERR_CAUSE, F.IRQ_STATUS.RING_ERROR,
      F.DMA_CHn_CTL.REQ, F.DMA_CHn_STATUS.STATE, F.DMA_CHn_STATUS.OWNED, F.DMA_CHn_STATUS.CFG_ERR, F.DMA_CHn_REMAIN.BYTES,
      F.DMA_CHn_IDX.IDX, F.DMA_CHn_BYTES.BYTES, F.PMC_EVENT.ERRLOG, F.PMC_EVENT.ERRLOG_OVF, F.DMA_CHn_SRC.ADDR, F.DMA_CHn_DST.ADDR,
      F.DMA_CHn_S0.STEP, F.DMA_CHn_D0.STEP, F.DMA_CHn_S1.STEP, F.DMA_CHn_D1.STEP, F.DMA_CHn_S2.STEP, F.DMA_CHn_D2.STEP,
      F.DMA_CHn_CNT01.C0, F.DMA_CHn_CNT01.C1, F.DMA_CHn_CNT2.C2, F.DMA_CHn_CNT2.DCTL]) (.tableConfig a) s) ∧
  (∀ a s, FramesRegs (eventFields ++ answerFields ++ [F.DB_STATUS.STATE, F.DB_STATUS.ERR_CAUSE, F.IRQ_STATUS.RING_ERROR,
      F.PMC_EVENT.ERRLOG, F.PMC_EVENT.ERRLOG_OVF]) (.tableStatus a) s) ∧
  (∀ a s, FramesRegs (eventFields ++ answerFields ++ [F.DB_STATUS.STATE, F.DB_STATUS.ERR_CAUSE, F.IRQ_STATUS.RING_ERROR,
      F.PMC_EVENT.ERRLOG, F.PMC_EVENT.ERRLOG_OVF]) (.filterSet a) s) ∧
  (∀ a s, FramesRegs (eventFields ++ answerFields ++ [F.TRE_DS_ABORT.COUNT, F.DB_STATUS.STATE, F.DB_STATUS.ERR_CAUSE,
      F.IRQ_STATUS.RING_ERROR, F.MBX_n_REQ.DATA, F.PMC_EVENT.ERRLOG, F.PMC_EVENT.ERRLOG_OVF]) (.keyStage a) s) ∧
  (∀ a s, FramesRegs (eventFields ++ answerFields ++ [F.DB_STATUS.STATE, F.DB_STATUS.ERR_CAUSE, F.IRQ_STATUS.RING_ERROR,
      F.PMC_EVENT.ERRLOG, F.PMC_EVENT.ERRLOG_OVF]) (.keySwitchAt a) s) ∧
  (∀ a s, FramesRegs (eventFields ++ answerFields ++ [F.TRE_BCAST_SLOT.VALID, F.TRE_EVENT.KEY_ERASED, F.TRE_DS_ABORT.COUNT,
      F.TRE_US_KEYLOST.COUNT, F.DB_STATUS.STATE, F.DB_STATUS.ERR_CAUSE, F.IRQ_STATUS.RING_ERROR, F.PMC_EVENT.ERRLOG,
      F.PMC_EVENT.ERRLOG_OVF]) (.keyErase a) s) ∧
  (∀ s, FramesRegs (eventFields ++ answerFields ++ [F.DB_STATUS.STATE, F.DB_STATUS.ERR_CAUSE, F.IRQ_STATUS.RING_ERROR, F.DMA_CHn_CTL.REQ,
      F.DMA_CHn_STATUS.STATE, F.DMA_CHn_STATUS.OWNED, F.DMA_CHn_STATUS.CFG_ERR, F.DMA_CHn_EVENT.DONE, F.DMA_CHn_EVENT.FENCED,
      F.DMA_CHn_REMAIN.BYTES, F.DMA_CHn_IDX.IDX, F.DMA_CHn_BYTES.BYTES, F.PMC_EVENT.ERRLOG, F.PMC_EVENT.ERRLOG_OVF, F.DMA_CHn_SRC.ADDR,
      F.DMA_CHn_DST.ADDR, F.DMA_CHn_S0.STEP, F.DMA_CHn_D0.STEP, F.DMA_CHn_S1.STEP, F.DMA_CHn_D1.STEP, F.DMA_CHn_S2.STEP,
      F.DMA_CHn_D2.STEP, F.DMA_CHn_CNT01.C0, F.DMA_CHn_CNT01.C1, F.DMA_CHn_CNT2.C2, F.DMA_CHn_CNT2.DCTL]) .tableBulkInsertDone s) ∧
  (∀ s, FramesRegs (eventFields ++ answerFields ++ [F.DB_STATUS.STATE, F.DB_STATUS.ERR_CAUSE, F.IRQ_STATUS.RING_ERROR, F.DMA_CHn_CTL.REQ,
      F.DMA_CHn_STATUS.STATE, F.DMA_CHn_STATUS.OWNED, F.DMA_CHn_STATUS.CFG_ERR, F.DMA_CHn_EVENT.DONE, F.DMA_CHn_EVENT.FENCED,
      F.DMA_CHn_REMAIN.BYTES, F.DMA_CHn_IDX.IDX, F.DMA_CHn_BYTES.BYTES, F.PMC_EVENT.ERRLOG, F.PMC_EVENT.ERRLOG_OVF, F.DMA_CHn_SRC.ADDR,
      F.DMA_CHn_DST.ADDR, F.DMA_CHn_S0.STEP, F.DMA_CHn_D0.STEP, F.DMA_CHn_S1.STEP, F.DMA_CHn_D1.STEP, F.DMA_CHn_S2.STEP,
      F.DMA_CHn_D2.STEP, F.DMA_CHn_CNT01.C0, F.DMA_CHn_CNT01.C1, F.DMA_CHn_CNT2.C2, F.DMA_CHn_CNT2.DCTL]) .tableDumpDone s) ∧
  (∀ s, FramesRegs (eventFields ++ answerFields ++ [F.DB_STATUS.STATE, F.DB_STATUS.ERR_CAUSE, F.IRQ_STATUS.RING_ERROR, F.DMA_CHn_CTL.REQ,
      F.DMA_CHn_STATUS.STATE, F.DMA_CHn_STATUS.OWNED, F.DMA_CHn_STATUS.CFG_ERR, F.DMA_CHn_REMAIN.BYTES, F.DMA_CHn_IDX.IDX,
      F.DMA_CHn_BYTES.BYTES, F.PMC_EVENT.ERRLOG, F.PMC_EVENT.ERRLOG_OVF, F.DMA_CHn_SRC.ADDR, F.DMA_CHn_DST.ADDR, F.DMA_CHn_S0.STEP,
      F.DMA_CHn_D0.STEP, F.DMA_CHn_S1.STEP, F.DMA_CHn_D1.STEP, F.DMA_CHn_S2.STEP, F.DMA_CHn_D2.STEP, F.DMA_CHn_CNT01.C0,
      F.DMA_CHn_CNT01.C1, F.DMA_CHn_CNT2.C2, F.DMA_CHn_CNT2.DCTL]) .patternDeleteDone s) ∧
  (∀ a b s, FramesRegs (eventFields ++ answerFields ++ [F.PE_STATUS.STATE, F.PE_STATUS.CS_VALID, F.DB_STATUS.STATE,
      F.DB_STATUS.ERR_CAUSE, F.IRQ_STATUS.RING_ERROR, F.PMC_EVENT.ERRLOG, F.PMC_EVENT.ERRLOG_OVF]) (.engineRecoveryDone a b) s) ∧
  (∀ a b c s, Frames (windowFields ++ [F.TRE_US_SN_INFO.OVERFLOW]) (.treUsSnPop a b c) s) ∧
  (∀ a b s, Frames (eventFields ++ windowFields ++ [F.SLU_STATUS.A_STATE, F.SLU_STATUS.B_STATE, F.SLU_STATUS.ACTIVE, F.SLU_STATUS.NONE,
      F.SLU_CTL.RETEST_MS, F.SLU_EVENT.SWITCHOVER, F.SLU_EVENT.SWAP_REFUSED, F.PE_STATUS.STATE]) (.sluSwap a b) s) ∧
  (∀ a b s, Frames (eventFields ++ windowFields ++ [F.SLU_STATUS.A_STATE, F.SLU_STATUS.B_STATE, F.SLU_STATUS.ACTIVE, F.SLU_STATUS.NONE,
      F.SLU_CTL.RETEST_MS, F.SLU_EVENT.SWITCHOVER, F.SLU_EVENT.SWAP_REFUSED, F.PE_STATUS.STATE]) (.sluRetest a b) s) ∧
  (∀ a b c d s, FramesRegs (eventFields ++ windowFields ++ answerFields ++ [F.GLB_STATUS.UNTESTED, F.TRE_STATE.STATE,
      F.TRE_STATE.FAULT_CAUSE, F.TRE_STATE.OPER_TERMS, F.TRE_EVENT.STATE_CHANGE, F.TRE_EVENT.FAULT, F.TRE_EVENT.DORMANT,
      F.TRE_EVENT.WAKE, F.TRE_US_EVENT.TERM_STATE, F.TRE_US_REASM_ABORT.COUNT, F.SLU_STATUS.A_STATE, F.SLU_STATUS.B_STATE,
      F.SLU_STATUS.ACTIVE, F.SLU_STATUS.NONE, F.SLU_EVENT.SWITCHOVER, F.SLU_EVENT.UNIT_FAILED, F.SLU_EVENT.NO_SCHEDULER,
      F.SLU_FAIL_CAUSE.A_CAUSE, F.SLU_FAIL_CAUSE.B_CAUSE, F.PE_STATUS.STATE, F.PE_FAULT.CAUSE, F.PE_FAULT.UADDR, F.PE_FAULT.VALID,
      F.PE_EVENT.FAULT, F.PE_EVENT.CS_CORR, F.PE_EVENT.WM_CORR, F.PE_CS_CORR.COUNT, F.PE_WM_CORR.COUNT, F.PE_RESTART.COUNT,
      F.DB_STATUS.STATE, F.DB_STATUS.ERR_CAUSE, F.IRQ_STATUS.RING_ERROR, F.FAB_DROP_ROUTE.COUNT, F.FAB_LINKn_CELLS_TX.COUNT,
      F.PROT_EVENT.TAKEOVER, F.PROT_EVENT.YIELDED, F.PROT_EVENT.HELD, F.PROT_EVENT.READY, F.PROT_EVENT.SYNC_LOST, F.PROT_PAIRED.TREES,
      F.PROT_Tt_STATE.PSTATE, F.PROT_Tt_STATE.CAUSE, F.PROT_Tt_SINCE_F.F, F.PROT_Tt_TAKEOVERS.COUNT, F.PE_CNTk.COUNT, F.PMC_EVENT.ERRLOG,
      F.PMC_EVENT.ERRLOG_OVF, F.PE_SELk.OVF]) (.csWindowRead a b c d) s) ∧
  (∀ s, Frames [] .tableEngineInitDone s) ∧
  (∀ a s, FramesRegs (eventFields ++ answerFields ++ [F.GLB_STATUS.UNTESTED, F.TRE_STATE.STATE, F.TRE_STATE.FAULT_CAUSE,
      F.TRE_STATE.OPER_TERMS, F.TRE_EVENT.STATE_CHANGE, F.TRE_EVENT.FAULT, F.TRE_EVENT.DORMANT, F.TRE_EVENT.WAKE,
      F.TRE_US_EVENT.TERM_STATE, F.TRE_US_REASM_ABORT.COUNT, F.DB_STATUS.STATE, F.DB_STATUS.ERR_CAUSE, F.IRQ_STATUS.RING_ERROR,
      F.FAB_DROP_ROUTE.COUNT, F.FAB_LINKn_CELLS_TX.COUNT, F.PROT_EVENT.TAKEOVER, F.PROT_EVENT.YIELDED, F.PROT_EVENT.HELD,
      F.PROT_EVENT.READY, F.PROT_EVENT.SYNC_LOST, F.PROT_PAIRED.TREES, F.PROT_Tt_STATE.PSTATE, F.PROT_Tt_STATE.CAUSE,
      F.PROT_Tt_SINCE_F.F, F.PROT_Tt_TAKEOVERS.COUNT, F.PMC_EVENT.ERRLOG, F.PMC_EVENT.ERRLOG_OVF]) (.laneLockLost a) s) ∧
  (∀ a s, FramesRegs (eventFields ++ [F.TRE_EVENT.KEY_ERASED, F.TRE_DS_ABORT.COUNT, F.TRE_US_KEYLOST.COUNT, F.DB_STATUS.STATE,
      F.DB_STATUS.ERR_CAUSE, F.DB_DONE.COUNT, F.IRQ_STATUS.RING_ERROR, F.IRQ_RING_SUMMARY.RINGS, F.FAB_DROP_ROUTE.COUNT,
      F.FAB_LINKn_CELLS_TX.COUNT, F.PROT_EVENT.TAKEOVER, F.PROT_EVENT.YIELDED, F.PROT_EVENT.HELD, F.PROT_EVENT.READY,
      F.PROT_EVENT.SYNC_LOST, F.PROT_PAIRED.TREES, F.PROT_Tt_STATE.PSTATE, F.PROT_Tt_STATE.CAUSE, F.PROT_Tt_OBS.CLEAN,
      F.PROT_Tt_SINCE_F.F, F.PROT_Tt_TAKEOVERS.COUNT]) (.cipherEraseNotice a) s) ∧
  (∀ a s, FramesRegs (eventFields ++ answerFields ++ [F.GLB_STATUS.UNTESTED, F.TIDE_TODn_CTL.STATE, F.TIDE_TODn_CTL.DOM,
      F.TIDE_TODn_CTL.EPOCH, F.TIDE_TODn_TIME.NS, F.TIDE_TODn_FRAC.FRAC, F.TRE_STATE.STATE, F.TRE_STATE.OPER_TERMS, F.TRE_DS_FRAME.F,
      F.TRE_EVENT.STATE_CHANGE, F.TRE_EVENT.DORMANT, F.TRE_EVENT.WAKE, F.TRE_US_EVENT.TERM_STATE, F.PE_STATUS.STATE, F.DB_STATUS.STATE,
      F.DB_STATUS.ERR_CAUSE, F.IRQ_STATUS.RING_ERROR, F.FAB_DROP_ROUTE.COUNT, F.FAB_LINKn_CELLS_TX.COUNT, F.PROT_EVENT.TAKEOVER,
      F.PROT_EVENT.YIELDED, F.PROT_EVENT.HELD, F.PROT_EVENT.READY, F.PROT_EVENT.SYNC_LOST, F.PROT_EVENT.SWITCHED, F.PROT_PAIRED.TREES,
      F.PROT_Tt_STATE.PSTATE, F.PROT_Tt_STATE.CAUSE, F.PROT_Tt_DELTA.DELTA, F.PROT_Tt_TIDE_ERR.ERR, F.PROT_Tt_OBS.CLEAN,
      F.PROT_Tt_OBS.ACK_GAP, F.PROT_Tt_OBS.MISS_PCT, F.PROT_Tt_SINCE_F.F, F.PROT_Tt_MISS_FRAMES.COUNT, F.PROT_Tt_TAKEOVERS.COUNT,
      F.PROT_Tt_MIRROR_ERR.COUNT, F.PWR_EVENT.STATE_CHANGE, F.PWR_Dd_STATE.STATE, F.PWR_Dd_STATE.TARGET, F.PWR_Dd_STATE.STAGE,
      F.PWR_Dd_SEQ.DONE_SEQ, F.PWR_Dd_SEQ.PEND_SEQ, F.PMC_EVENT.ERRLOG, F.PMC_EVENT.ERRLOG_OVF]) (.dsFrameStart a) s) ∧
  (∀ a s, Frames (eventFields ++ [F.TRE_STATE.STATE, F.TRE_EVENT.STATE_CHANGE, F.TRE_EVENT.MAP_HOLD, F.TRE_EVENT.MAP_EMPTY,
      F.TRE_EVENT.DORMANT, F.TRE_EVENT.WAKE, F.TRE_DS_HOLDMAP.COUNT, F.FAB_DROP_ROUTE.COUNT, F.FAB_LINKn_CELLS_TX.COUNT,
      F.PROT_EVENT.TAKEOVER, F.PROT_EVENT.YIELDED, F.PROT_EVENT.HELD, F.PROT_EVENT.READY, F.PROT_EVENT.SYNC_LOST, F.PROT_PAIRED.TREES,
      F.PROT_Tt_STATE.PSTATE, F.PROT_Tt_STATE.CAUSE, F.PROT_Tt_OBS.DIGEST_GAP, F.PROT_Tt_SINCE_F.F, F.PROT_Tt_DIGEST_LOST.COUNT,
      F.PROT_Tt_TAKEOVERS.COUNT]) (.mapLatch a) s) ∧
  (∀ a b s, FramesRegs (eventFields ++ [F.TRE_DS_RUNT.COUNT, F.TRE_DS_OVERSIZE.COUNT, F.TRE_DS_KEYDROP.COUNT, F.TRE_DS_NOTERM.COUNT,
      F.DB_HEAD.HEAD, F.DB_STATUS.STATE, F.DB_STATUS.ERR_CAUSE, F.DB_NO_DESC.COUNT, F.DB_NO_FIT.COUNT, F.DB_EARLY.COUNT, F.DB_DONE.COUNT,
      F.IRQ_STATUS.RING_ERROR, F.IRQ_RING_SUMMARY.RINGS, F.PMC_EVENT.ERRLOG, F.PMC_EVENT.ERRLOG_OVF]) (.drawFrame a b) s) ∧
  (∀ a s, Frames [] (.keySwap a) s) ∧
  (∀ a s, Frames [] (.retiredBankExpire a) s) ∧
  (∀ a s, Frames (eventFields ++ [F.TRE_STATE.STATE, F.TRE_EVENT.STATE_CHANGE, F.TRE_EVENT.DORMANT, F.TRE_EVENT.WAKE]) (.treeStart a) s) ∧
  (∀ a s, FramesRegs (eventFields ++ [F.TRE_STATE.STATE, F.TRE_STATE.OPER_TERMS, F.TRE_EVENT.STATE_CHANGE, F.TRE_EVENT.DORMANT,
      F.TRE_EVENT.WAKE, F.TRE_US_EVENT.TERM_STATE, F.TRE_US_REASM_ABORT.COUNT, F.DB_STATUS.STATE, F.DB_STATUS.ERR_CAUSE, F.DB_DONE.COUNT,
      F.IRQ_STATUS.RING_ERROR, F.IRQ_RING_SUMMARY.RINGS]) (.treeDormant a) s) ∧
  (∀ a s, Frames (eventFields ++ [F.PWR_EVENT.WAKE, F.PWR_LAST_WAKE.DOMAIN, F.PWR_LAST_WAKE.SOURCE, F.PWR_LAST_WAKE.TREE,
      F.PWR_LAST_WAKE.TIDE_VALID, F.PWR_LAST_WAKE_AT.TUPLE, F.PWR_LAST_WAKE_LEDGER.TICKS, F.PWR_Dd_STATE.STATE, F.PWR_Dd_STATE.TARGET,
      F.PWR_Dd_STATE.PENDING, F.PWR_Dd_STATE.PEND_TARGET, F.PWR_Dd_STATE.STAGE, F.PWR_Dd_SEQ.PEND_SEQ, F.PWR_Dd_WAKES.COUNT,
      F.PWR_POLk.READY]) (.surveyWake a) s) ∧
  (∀ a s, FramesRegs (eventFields ++ [F.TRE_STATE.STATE, F.TRE_STATE.OPER_TERMS, F.TRE_EVENT.STATE_CHANGE, F.TRE_EVENT.DORMANT,
      F.TRE_EVENT.WAKE, F.TRE_US_EVENT.TERM_STATE, F.TRE_US_REASM_ABORT.COUNT, F.DB_STATUS.STATE, F.DB_STATUS.ERR_CAUSE, F.DB_DONE.COUNT,
      F.IRQ_STATUS.RING_ERROR, F.IRQ_RING_SUMMARY.RINGS]) (.surveyEnd a) s) ∧
  (∀ a s, Frames [] (.ploamHeldQueued a) s) ∧
  (∀ a s, Frames [] (.burstProfileAnnounce a) s) ∧
  (∀ a b c d s, FramesRegs (eventFields ++ [F.DB_STATUS.STATE, F.DB_STATUS.ERR_CAUSE, F.DB_DONE.COUNT, F.IRQ_STATUS.RING_ERROR,
      F.IRQ_RING_SUMMARY.RINGS, F.PMC_EVENT.ERRLOG, F.PMC_EVENT.ERRLOG_OVF]) (.stagingRefill a b c d) s) ∧
  (∀ s, Frames [] .orphanReclaim s) ∧
  (∀ a s, Frames [F.TRE_OPTIC.RXRST_SKIP] (.rxrstPulse a) s) ∧
  (∀ a b s, FramesRegs (eventFields ++ [F.TRE_STATE.STATE, F.TRE_STATE.OPER_TERMS, F.TRE_EVENT.STATE_CHANGE, F.TRE_EVENT.DORMANT,
      F.TRE_EVENT.WAKE, F.TRE_US_EVENT.TERM_STATE, F.TRE_US_EVENT.DRIFT, F.TRE_US_RUNT.COUNT, F.TRE_US_OVERSIZE.COUNT,
      F.TRE_US_FCS_ERR.COUNT, F.TRE_US_HEC_LOSS.COUNT, F.TRE_US_REASM_ABORT.COUNT, F.TRE_US_KEYMISS.COUNT, F.TRE_US_BURST_MISS.COUNT,
      F.TRE_US_REPORT_BAD.COUNT, F.TRE_US_NOCELL.COUNT, F.DB_HEAD.HEAD, F.DB_STATUS.STATE, F.DB_STATUS.ERR_CAUSE, F.DB_NO_DESC.COUNT,
      F.DB_NO_FIT.COUNT, F.DB_NOCELL.COUNT, F.DB_EARLY.COUNT, F.DB_DONE.COUNT, F.IRQ_STATUS.RING_ERROR, F.IRQ_RING_DROP.COUNT,
      F.IRQ_RING_SUMMARY.RINGS, F.FAB_DROP_ROUTE.COUNT, F.FAB_LINKn_CELLS_TX.COUNT, F.PROT_EVENT.TAKEOVER, F.PROT_EVENT.YIELDED,
      F.PROT_EVENT.HELD, F.PROT_EVENT.READY, F.PROT_EVENT.SYNC_LOST, F.PROT_PAIRED.TREES, F.PROT_Tt_STATE.PSTATE, F.PROT_Tt_STATE.CAUSE,
      F.PROT_Tt_DELTA.DELTA, F.PROT_Tt_OBS.CLEAN, F.PROT_Tt_OBS.MISS_PCT, F.PROT_Tt_SINCE_F.F, F.PROT_Tt_MISS_FRAMES.COUNT,
      F.PROT_Tt_TAKEOVERS.COUNT, F.PMC_EVENT.ERRLOG, F.PMC_EVENT.ERRLOG_OVF, F.PMC_TEL_Tt.FILL, F.PMC_TEL_Tt.LOST]) (.burstHunt a b) s) ∧
  (∀ a b s, Frames [F.TRE_US_REASM_ABORT.COUNT] (.reassemblyTimeout a b) s) ∧
  (∀ a b c s, Frames (eventFields ++ [F.TRE_STATE.OPER_TERMS, F.TRE_US_EVENT.SN_NEW, F.TRE_US_EVENT.SN_OVERFLOW,
      F.TRE_US_EVENT.TERM_STATE, F.TRE_US_EVENT.SN_DUP, F.TRE_US_SN_INFO.OVERFLOW, F.TRE_US_SN_DUP.COUNT, F.PWR_EVENT.STATE_CHANGE,
      F.PWR_Dd_STATE.STATE, F.PWR_Dd_STATE.TARGET, F.PWR_Dd_STATE.STAGE, F.PWR_Dd_SEQ.DONE_SEQ, F.PWR_Dd_SEQ.PEND_SEQ])
      (.serialNumberReceived a b c) s) ∧
  (∀ a b c s, Frames [] (.rangingResponse a b c) s) ∧
  (∀ a b s, Frames (eventFields ++ [F.TRE_STATE.OPER_TERMS, F.TRE_US_EVENT.TERM_STATE, F.TRE_US_EVENT.RANGE_FAIL,
      F.PWR_EVENT.STATE_CHANGE, F.PWR_Dd_STATE.STATE, F.PWR_Dd_STATE.TARGET, F.PWR_Dd_STATE.STAGE, F.PWR_Dd_SEQ.DONE_SEQ,
      F.PWR_Dd_SEQ.PEND_SEQ]) (.rangingFailed a b) s) ∧
  (∀ a b s, Frames (eventFields ++ [F.TRE_STATE.OPER_TERMS, F.TRE_US_EVENT.TERM_STATE, F.PWR_EVENT.STATE_CHANGE, F.PWR_Dd_STATE.STATE,
      F.PWR_Dd_STATE.TARGET, F.PWR_Dd_STATE.STAGE, F.PWR_Dd_SEQ.DONE_SEQ, F.PWR_Dd_SEQ.PEND_SEQ]) (.terminalOperation a b) s) ∧
  (∀ a b c s, Frames (eventFields ++ [F.TRE_STATE.OPER_TERMS, F.TRE_US_EVENT.TERM_STATE, F.TRE_US_EVENT.REG_FAIL,
      F.PWR_EVENT.STATE_CHANGE, F.PWR_Dd_STATE.STATE, F.PWR_Dd_STATE.TARGET, F.PWR_Dd_STATE.STAGE, F.PWR_Dd_SEQ.DONE_SEQ,
      F.PWR_Dd_SEQ.PEND_SEQ]) (.registrationIdReceived a b c) s) ∧
  (∀ a b s, Frames (eventFields ++ [F.TRE_STATE.OPER_TERMS, F.TRE_US_EVENT.TERM_STATE, F.TRE_US_EVENT.TERM_LOST]) (.terminalLost a b) s) ∧
  (∀ a b s, Frames (eventFields ++ [F.TRE_STATE.OPER_TERMS, F.TRE_US_EVENT.TERM_STATE, F.TRE_US_EVENT.TERM_LOST,
      F.PWR_EVENT.STATE_CHANGE, F.PWR_Dd_STATE.STATE, F.PWR_Dd_STATE.TARGET, F.PWR_Dd_STATE.STAGE, F.PWR_Dd_SEQ.DONE_SEQ,
      F.PWR_Dd_SEQ.PEND_SEQ]) (.lostLimit a b) s) ∧
  (∀ a b s, Frames (eventFields ++ [F.TRE_STATE.OPER_TERMS, F.TRE_US_EVENT.TERM_STATE]) (.recordUnused a b) s) ∧
  (∀ a b c d s, Frames (eventFields ++ [F.TRE_US_MIC_FAIL.COUNT]) (.upstreamPloamReceived a b c d) s) ∧
  (∀ a b c s, Frames [] (.sleepRequest a b c) s) ∧
  (∀ a b s, Frames [] (.sleepWindowBoundary a b) s) ∧
  (∀ a b s, Frames (eventFields ++ [F.TRE_STATE.OPER_TERMS, F.TRE_US_EVENT.TERM_STATE, F.TRE_US_EVENT.ROGUE, F.TRE_US_EVENT.ROGUE_QUENCH,
      F.TRE_US_ROGUE_CNT.COUNT, F.PWR_EVENT.STATE_CHANGE, F.PWR_Dd_STATE.STATE, F.PWR_Dd_STATE.TARGET, F.PWR_Dd_STATE.STAGE,
      F.PWR_Dd_SEQ.DONE_SEQ, F.PWR_Dd_SEQ.PEND_SEQ]) (.rogueFrame a b) s) ∧
  (∀ a s, Frames (eventFields ++ [F.TRE_STATE.OPER_TERMS, F.TRE_US_EVENT.TERM_STATE, F.TRE_US_EVENT.ROGUE_QUENCH,
      F.PWR_EVENT.STATE_CHANGE, F.PWR_Dd_STATE.STATE, F.PWR_Dd_STATE.TARGET, F.PWR_Dd_STATE.STAGE, F.PWR_Dd_SEQ.DONE_SEQ,
      F.PWR_Dd_SEQ.PEND_SEQ]) (.isolationSweepStep a) s) ∧
  (∀ a b s, Frames (eventFields ++ [F.SLU_EVENT.GRANT_LIMIT, F.SLU_EVENT.FC_DROP, F.SLU_FC_USED.ENTRIES, F.SLU_FC_DROP.COUNT,
      F.SLU_TREE_OVER.COUNT]) (.mapBuild a b) s) ∧
  (∀ a s, Frames (eventFields ++ [F.SLU_STATUS.A_STATE, F.SLU_STATUS.B_STATE, F.SLU_STATUS.ACTIVE, F.SLU_STATUS.NONE,
      F.SLU_STATUS.MISMATCH_RUN, F.SLU_EVENT.SWITCHOVER, F.SLU_EVENT.MISMATCH, F.SLU_EVENT.UNIT_FAILED, F.SLU_EVENT.NO_SCHEDULER,
      F.SLU_EVENT.SELFCHECK_FAIL, F.SLU_EVENT.UNCHECKED, F.SLU_MISMATCH.COUNT, F.SLU_UNCHECKED.COUNT, F.SLU_FAIL_CAUSE.A_CAUSE,
      F.SLU_FAIL_CAUSE.B_CAUSE, F.SLU_TREE_MAP.GRANTS, F.SLU_TREE_MAP.IDLE_UNITS, F.SLU_TREE_CRC.CRC, F.PE_STATUS.STATE,
      F.FAB_DROP_ROUTE.COUNT, F.FAB_LINKn_CELLS_TX.COUNT]) (.mapRelease a) s) ∧
  (∀ a b s, FramesRegs (eventFields ++ answerFields ++ [F.GLB_STATUS.UNTESTED, F.TRE_STATE.STATE, F.TRE_STATE.FAULT_CAUSE,
      F.TRE_STATE.OPER_TERMS, F.TRE_EVENT.STATE_CHANGE, F.TRE_EVENT.FAULT, F.TRE_EVENT.DORMANT, F.TRE_EVENT.WAKE,
      F.TRE_US_EVENT.TERM_STATE, F.TRE_US_REASM_ABORT.COUNT, F.SLU_STATUS.A_STATE, F.SLU_STATUS.B_STATE, F.SLU_STATUS.ACTIVE,
      F.SLU_STATUS.NONE, F.SLU_EVENT.SWITCHOVER, F.SLU_EVENT.UNIT_FAILED, F.SLU_EVENT.NO_SCHEDULER, F.SLU_FAIL_CAUSE.A_CAUSE,
      F.SLU_FAIL_CAUSE.B_CAUSE, F.PE_STATUS.STATE, F.PE_FAULT.CAUSE, F.PE_FAULT.UADDR, F.PE_FAULT.VALID, F.PE_EVENT.FAULT,
      F.DB_STATUS.STATE, F.DB_STATUS.ERR_CAUSE, F.IRQ_STATUS.RING_ERROR, F.FAB_DROP_ROUTE.COUNT, F.FAB_LINKn_CELLS_TX.COUNT,
      F.PROT_EVENT.TAKEOVER, F.PROT_EVENT.YIELDED, F.PROT_EVENT.HELD, F.PROT_EVENT.READY, F.PROT_EVENT.SYNC_LOST, F.PROT_PAIRED.TREES,
      F.PROT_Tt_STATE.PSTATE, F.PROT_Tt_STATE.CAUSE, F.PROT_Tt_SINCE_F.F, F.PROT_Tt_TAKEOVERS.COUNT, F.PMC_EVENT.ERRLOG,
      F.PMC_EVENT.ERRLOG_OVF]) (.sluiceUnitFault a b) s) ∧
  (∀ a b s, Frames (eventFields ++ [F.SLU_STATUS.A_STATE, F.SLU_STATUS.B_STATE, F.SLU_STATUS.ACTIVE, F.SLU_STATUS.NONE,
      F.SLU_EVENT.SWITCHOVER, F.SLU_EVENT.UNIT_FAILED, F.SLU_EVENT.NO_SCHEDULER, F.SLU_FC_USED.ENTRIES, F.SLU_FC_DROP.COUNT,
      F.SLU_FAIL_CAUSE.A_CAUSE, F.SLU_FAIL_CAUSE.B_CAUSE, F.PE_STATUS.STATE, F.PE_STATUS.CS_VALID]) (.sluiceSelfTestDone a b) s) ∧
  (∀ a s, Frames [F.SLU_STATUS.A_STATE, F.SLU_STATUS.B_STATE, F.SLU_STATUS.ACTIVE, F.SLU_STATUS.NONE, F.PE_STATUS.STATE]
      (.sluiceRetestTimer a) s) ∧
  (∀ a s, Frames (eventFields ++ [F.SLU_STATUS.A_STATE, F.SLU_STATUS.B_STATE, F.SLU_STATUS.ACTIVE, F.SLU_STATUS.NONE, F.SLU_EVENT.HOT])
      (.sluiceHot a) s) ∧
  (∀ a s, FramesRegs (eventFields ++ [F.SLU_FC_USED.ENTRIES, F.DB_HEAD.HEAD, F.DB_STATUS.STATE, F.DB_STATUS.ERR_CAUSE, F.DB_EARLY.COUNT,
      F.DB_DONE.COUNT, F.IRQ_STATUS.RING_ERROR, F.IRQ_RING_SUMMARY.RINGS]) (.forecastRecord a) s) ∧
  (∀ a b c s, Frames eventFields (.trunkIngress a b c) s) ∧
  (∀ a s, FramesRegs (eventFields ++ [F.DB_STATUS.STATE, F.DB_STATUS.ERR_CAUSE, F.DB_NOCELL.COUNT, F.DB_DONE.COUNT,
      F.IRQ_STATUS.RING_ERROR, F.IRQ_RING_DROP.COUNT, F.IRQ_RING_SUMMARY.RINGS, F.PMC_EVENT.ERRLOG, F.PMC_EVENT.ERRLOG_OVF])
      (.lookupDownstream a) s) ∧
  (∀ a s, Frames (eventFields ++ [F.DB_NOCELL.COUNT, F.IRQ_RING_DROP.COUNT, F.PMC_EVENT.ERRLOG, F.PMC_EVENT.ERRLOG_OVF]) (.lookupUpstream
      a) s) ∧
  (∀ s, Frames (eventFields ++ [F.PMC_EVENT.ERRLOG, F.PMC_EVENT.ERRLOG_OVF]) .learnApply s) ∧
  (∀ s, Frames (eventFields ++ [F.PMC_EVENT.ERRLOG, F.PMC_EVENT.ERRLOG_OVF]) .ageingSweep s) ∧
  (∀ a b c d s, Frames (eventFields ++ [F.PMC_EVENT.ERRLOG, F.PMC_EVENT.ERRLOG_OVF]) (.tableScrub a b c d) s) ∧
  (∀ a s, FramesRegs (eventFields ++ [F.DB_STATUS.STATE, F.DB_STATUS.ERR_CAUSE, F.DB_DONE.COUNT, F.IRQ_STATUS.RING_ERROR,
      F.IRQ_RING_SUMMARY.RINGS, F.PMC_EVENT.ERRLOG, F.PMC_EVENT.ERRLOG_OVF]) (.trunkSend a) s) ∧
  (∀ a b c s, Frames eventFields (.creditReturn a b c) s) ∧
  (∀ s, Frames [] .feNotReady s) ∧
  (∀ s, Frames [] .feReady s) ∧
  (∀ a b s, FramesRegs (eventFields ++ [F.DB_STATUS.STATE, F.DB_STATUS.ERR_CAUSE, F.DB_DONE.COUNT, F.IRQ_STATUS.RING_ERROR,
      F.IRQ_RING_SUMMARY.RINGS, F.PMC_EVENT.ERRLOG, F.PMC_EVENT.ERRLOG_OVF]) (.spillWrite a b) s) ∧
  (∀ a b s, FramesRegs (eventFields ++ [F.DB_STATUS.STATE, F.DB_STATUS.ERR_CAUSE, F.DB_DONE.COUNT, F.IRQ_STATUS.RING_ERROR,
      F.IRQ_RING_SUMMARY.RINGS, F.PMC_EVENT.ERRLOG, F.PMC_EVENT.ERRLOG_OVF]) (.spillReadback a b) s) ∧
  (∀ a b c s, Frames (eventFields ++ [F.PE_EVENT.EVT_LOST, F.PE_ABANDON.COUNT, F.PE_EVT_LOST.COUNT, F.PE_CNTk.COUNT, F.PE_SELk.OVF])
      (.engineEvent a b c) s) ∧
  (∀ a s, Frames (eventFields ++ [F.PE_MAX_WAIT.CYCLES, F.PE_CNTk.COUNT, F.PE_SELk.OVF]) (.routineEntry a) s) ∧
  (∀ a b s, FramesRegs (eventFields ++ answerFields ++ [F.GLB_STATUS.UNTESTED, F.TRE_STATE.STATE, F.TRE_STATE.FAULT_CAUSE,
      F.TRE_STATE.OPER_TERMS, F.TRE_EVENT.STATE_CHANGE, F.TRE_EVENT.FAULT, F.TRE_EVENT.DORMANT, F.TRE_EVENT.WAKE,
      F.TRE_US_EVENT.TERM_STATE, F.TRE_US_REASM_ABORT.COUNT, F.SLU_STATUS.A_STATE, F.SLU_STATUS.B_STATE, F.SLU_STATUS.ACTIVE,
      F.SLU_STATUS.NONE, F.SLU_EVENT.SWITCHOVER, F.SLU_EVENT.UNIT_FAILED, F.SLU_EVENT.NO_SCHEDULER, F.SLU_FAIL_CAUSE.A_CAUSE,
      F.SLU_FAIL_CAUSE.B_CAUSE, F.PE_STATUS.STATE, F.PE_STATUS.CS_VALID, F.PE_FAULT.CAUSE, F.PE_FAULT.UADDR, F.PE_FAULT.VALID,
      F.PE_EVENT.FAULT, F.PE_EVENT.CS_CORR, F.PE_EVENT.WM_CORR, F.PE_CS_CORR.COUNT, F.PE_WM_CORR.COUNT, F.PE_RESTART.COUNT,
      F.PE_SAMPLE_PTR.NEXT, F.PE_SAMPLE_PTR.WRAPPED, F.DB_STATUS.STATE, F.DB_STATUS.ERR_CAUSE, F.IRQ_STATUS.RING_ERROR,
      F.FAB_DROP_ROUTE.COUNT, F.FAB_LINKn_CELLS_TX.COUNT, F.PROT_EVENT.TAKEOVER, F.PROT_EVENT.YIELDED, F.PROT_EVENT.HELD,
      F.PROT_EVENT.READY, F.PROT_EVENT.SYNC_LOST, F.PROT_PAIRED.TREES, F.PROT_Tt_STATE.PSTATE, F.PROT_Tt_STATE.CAUSE,
      F.PROT_Tt_SINCE_F.F, F.PROT_Tt_TAKEOVERS.COUNT, F.PE_SAMPLE_SKIP.COUNT, F.PE_CNTk.COUNT, F.PMC_EVENT.ERRLOG,
      F.PMC_EVENT.ERRLOG_OVF, F.PE_SELk.OVF]) (.next a b) s) ∧
  (∀ a b s, FramesRegs (eventFields ++ answerFields ++ [F.GLB_STATUS.UNTESTED, F.TRE_STATE.STATE, F.TRE_STATE.FAULT_CAUSE,
      F.TRE_STATE.OPER_TERMS, F.TRE_EVENT.STATE_CHANGE, F.TRE_EVENT.FAULT, F.TRE_EVENT.DORMANT, F.TRE_EVENT.WAKE,
      F.TRE_US_EVENT.TERM_STATE, F.TRE_US_REASM_ABORT.COUNT, F.SLU_STATUS.A_STATE, F.SLU_STATUS.B_STATE, F.SLU_STATUS.ACTIVE,
      F.SLU_STATUS.NONE, F.SLU_EVENT.SWITCHOVER, F.SLU_EVENT.UNIT_FAILED, F.SLU_EVENT.NO_SCHEDULER, F.SLU_FAIL_CAUSE.A_CAUSE,
      F.SLU_FAIL_CAUSE.B_CAUSE, F.PE_STATUS.STATE, F.PE_STATUS.CS_VALID, F.PE_FAULT.CAUSE, F.PE_FAULT.UADDR, F.PE_FAULT.VALID,
      F.PE_EVENT.FAULT, F.PE_EVENT.CS_CORR, F.PE_EVENT.WM_CORR, F.PE_CS_CORR.COUNT, F.PE_WM_CORR.COUNT, F.PE_RESTART.COUNT,
      F.PE_SAMPLE_PTR.NEXT, F.PE_SAMPLE_PTR.WRAPPED, F.DB_STATUS.STATE, F.DB_STATUS.ERR_CAUSE, F.IRQ_STATUS.RING_ERROR,
      F.FAB_DROP_ROUTE.COUNT, F.FAB_LINKn_CELLS_TX.COUNT, F.PROT_EVENT.TAKEOVER, F.PROT_EVENT.YIELDED, F.PROT_EVENT.HELD,
      F.PROT_EVENT.READY, F.PROT_EVENT.SYNC_LOST, F.PROT_PAIRED.TREES, F.PROT_Tt_STATE.PSTATE, F.PROT_Tt_STATE.CAUSE,
      F.PROT_Tt_SINCE_F.F, F.PROT_Tt_TAKEOVERS.COUNT, F.PE_SAMPLE_SKIP.COUNT, F.PE_CNTk.COUNT, F.PMC_EVENT.ERRLOG,
      F.PMC_EVENT.ERRLOG_OVF, F.PE_SELk.OVF]) (.jump a b) s) ∧
  (∀ a b s, FramesRegs (eventFields ++ answerFields ++ [F.GLB_STATUS.UNTESTED, F.TRE_STATE.STATE, F.TRE_STATE.FAULT_CAUSE,
      F.TRE_STATE.OPER_TERMS, F.TRE_EVENT.STATE_CHANGE, F.TRE_EVENT.FAULT, F.TRE_EVENT.DORMANT, F.TRE_EVENT.WAKE,
      F.TRE_US_EVENT.TERM_STATE, F.TRE_US_REASM_ABORT.COUNT, F.SLU_STATUS.A_STATE, F.SLU_STATUS.B_STATE, F.SLU_STATUS.ACTIVE,
      F.SLU_STATUS.NONE, F.SLU_EVENT.SWITCHOVER, F.SLU_EVENT.UNIT_FAILED, F.SLU_EVENT.NO_SCHEDULER, F.SLU_FAIL_CAUSE.A_CAUSE,
      F.SLU_FAIL_CAUSE.B_CAUSE, F.PE_STATUS.STATE, F.PE_STATUS.CS_VALID, F.PE_FAULT.CAUSE, F.PE_FAULT.UADDR, F.PE_FAULT.VALID,
      F.PE_EVENT.FAULT, F.PE_EVENT.CS_CORR, F.PE_EVENT.WM_CORR, F.PE_CS_CORR.COUNT, F.PE_WM_CORR.COUNT, F.PE_RESTART.COUNT,
      F.PE_SAMPLE_PTR.NEXT, F.PE_SAMPLE_PTR.WRAPPED, F.DB_STATUS.STATE, F.DB_STATUS.ERR_CAUSE, F.IRQ_STATUS.RING_ERROR,
      F.FAB_DROP_ROUTE.COUNT, F.FAB_LINKn_CELLS_TX.COUNT, F.PROT_EVENT.TAKEOVER, F.PROT_EVENT.YIELDED, F.PROT_EVENT.HELD,
      F.PROT_EVENT.READY, F.PROT_EVENT.SYNC_LOST, F.PROT_PAIRED.TREES, F.PROT_Tt_STATE.PSTATE, F.PROT_Tt_STATE.CAUSE,
      F.PROT_Tt_SINCE_F.F, F.PROT_Tt_TAKEOVERS.COUNT, F.PE_SAMPLE_SKIP.COUNT, F.PE_CNTk.COUNT, F.PMC_EVENT.ERRLOG,
      F.PMC_EVENT.ERRLOG_OVF, F.PE_SELk.OVF]) (.brt a b) s) ∧
  (∀ a b s, FramesRegs (eventFields ++ answerFields ++ [F.GLB_STATUS.UNTESTED, F.TRE_STATE.STATE, F.TRE_STATE.FAULT_CAUSE,
      F.TRE_STATE.OPER_TERMS, F.TRE_EVENT.STATE_CHANGE, F.TRE_EVENT.FAULT, F.TRE_EVENT.DORMANT, F.TRE_EVENT.WAKE,
      F.TRE_US_EVENT.TERM_STATE, F.TRE_US_REASM_ABORT.COUNT, F.SLU_STATUS.A_STATE, F.SLU_STATUS.B_STATE, F.SLU_STATUS.ACTIVE,
      F.SLU_STATUS.NONE, F.SLU_EVENT.SWITCHOVER, F.SLU_EVENT.UNIT_FAILED, F.SLU_EVENT.NO_SCHEDULER, F.SLU_FAIL_CAUSE.A_CAUSE,
      F.SLU_FAIL_CAUSE.B_CAUSE, F.PE_STATUS.STATE, F.PE_STATUS.CS_VALID, F.PE_FAULT.CAUSE, F.PE_FAULT.UADDR, F.PE_FAULT.VALID,
      F.PE_EVENT.FAULT, F.PE_EVENT.CS_CORR, F.PE_EVENT.WM_CORR, F.PE_CS_CORR.COUNT, F.PE_WM_CORR.COUNT, F.PE_RESTART.COUNT,
      F.PE_SAMPLE_PTR.NEXT, F.PE_SAMPLE_PTR.WRAPPED, F.DB_STATUS.STATE, F.DB_STATUS.ERR_CAUSE, F.IRQ_STATUS.RING_ERROR,
      F.FAB_DROP_ROUTE.COUNT, F.FAB_LINKn_CELLS_TX.COUNT, F.PROT_EVENT.TAKEOVER, F.PROT_EVENT.YIELDED, F.PROT_EVENT.HELD,
      F.PROT_EVENT.READY, F.PROT_EVENT.SYNC_LOST, F.PROT_PAIRED.TREES, F.PROT_Tt_STATE.PSTATE, F.PROT_Tt_STATE.CAUSE,
      F.PROT_Tt_SINCE_F.F, F.PROT_Tt_TAKEOVERS.COUNT, F.PE_SAMPLE_SKIP.COUNT, F.PE_CNTk.COUNT, F.PMC_EVENT.ERRLOG,
      F.PMC_EVENT.ERRLOG_OVF, F.PE_SELk.OVF]) (.brf a b) s) ∧
  (∀ a b s, FramesRegs (eventFields ++ answerFields ++ [F.GLB_STATUS.UNTESTED, F.TRE_STATE.STATE, F.TRE_STATE.FAULT_CAUSE,
      F.TRE_STATE.OPER_TERMS, F.TRE_EVENT.STATE_CHANGE, F.TRE_EVENT.FAULT, F.TRE_EVENT.DORMANT, F.TRE_EVENT.WAKE,
      F.TRE_US_EVENT.TERM_STATE, F.TRE_US_REASM_ABORT.COUNT, F.SLU_STATUS.A_STATE, F.SLU_STATUS.B_STATE, F.SLU_STATUS.ACTIVE,
      F.SLU_STATUS.NONE, F.SLU_EVENT.SWITCHOVER, F.SLU_EVENT.UNIT_FAILED, F.SLU_EVENT.NO_SCHEDULER, F.SLU_FAIL_CAUSE.A_CAUSE,
      F.SLU_FAIL_CAUSE.B_CAUSE, F.PE_STATUS.STATE, F.PE_STATUS.CS_VALID, F.PE_FAULT.CAUSE, F.PE_FAULT.UADDR, F.PE_FAULT.VALID,
      F.PE_EVENT.FAULT, F.PE_EVENT.CS_CORR, F.PE_EVENT.WM_CORR, F.PE_CS_CORR.COUNT, F.PE_WM_CORR.COUNT, F.PE_RESTART.COUNT,
      F.PE_SAMPLE_PTR.NEXT, F.PE_SAMPLE_PTR.WRAPPED, F.DB_STATUS.STATE, F.DB_STATUS.ERR_CAUSE, F.IRQ_STATUS.RING_ERROR,
      F.FAB_DROP_ROUTE.COUNT, F.FAB_LINKn_CELLS_TX.COUNT, F.PROT_EVENT.TAKEOVER, F.PROT_EVENT.YIELDED, F.PROT_EVENT.HELD,
      F.PROT_EVENT.READY, F.PROT_EVENT.SYNC_LOST, F.PROT_PAIRED.TREES, F.PROT_Tt_STATE.PSTATE, F.PROT_Tt_STATE.CAUSE,
      F.PROT_Tt_SINCE_F.F, F.PROT_Tt_TAKEOVERS.COUNT, F.PE_SAMPLE_SKIP.COUNT, F.PE_CNTk.COUNT, F.PMC_EVENT.ERRLOG,
      F.PMC_EVENT.ERRLOG_OVF, F.PE_SELk.OVF]) (.call a b) s) ∧
  (∀ a b s, FramesRegs (eventFields ++ answerFields ++ [F.GLB_STATUS.UNTESTED, F.TRE_STATE.STATE, F.TRE_STATE.FAULT_CAUSE,
      F.TRE_STATE.OPER_TERMS, F.TRE_EVENT.STATE_CHANGE, F.TRE_EVENT.FAULT, F.TRE_EVENT.DORMANT, F.TRE_EVENT.WAKE,
      F.TRE_US_EVENT.TERM_STATE, F.TRE_US_REASM_ABORT.COUNT, F.SLU_STATUS.A_STATE, F.SLU_STATUS.B_STATE, F.SLU_STATUS.ACTIVE,
      F.SLU_STATUS.NONE, F.SLU_EVENT.SWITCHOVER, F.SLU_EVENT.UNIT_FAILED, F.SLU_EVENT.NO_SCHEDULER, F.SLU_FAIL_CAUSE.A_CAUSE,
      F.SLU_FAIL_CAUSE.B_CAUSE, F.PE_STATUS.STATE, F.PE_STATUS.CS_VALID, F.PE_FAULT.CAUSE, F.PE_FAULT.UADDR, F.PE_FAULT.VALID,
      F.PE_EVENT.FAULT, F.PE_EVENT.CS_CORR, F.PE_EVENT.WM_CORR, F.PE_CS_CORR.COUNT, F.PE_WM_CORR.COUNT, F.PE_RESTART.COUNT,
      F.PE_SAMPLE_PTR.NEXT, F.PE_SAMPLE_PTR.WRAPPED, F.DB_STATUS.STATE, F.DB_STATUS.ERR_CAUSE, F.IRQ_STATUS.RING_ERROR,
      F.FAB_DROP_ROUTE.COUNT, F.FAB_LINKn_CELLS_TX.COUNT, F.PROT_EVENT.TAKEOVER, F.PROT_EVENT.YIELDED, F.PROT_EVENT.HELD,
      F.PROT_EVENT.READY, F.PROT_EVENT.SYNC_LOST, F.PROT_PAIRED.TREES, F.PROT_Tt_STATE.PSTATE, F.PROT_Tt_STATE.CAUSE,
      F.PROT_Tt_SINCE_F.F, F.PROT_Tt_TAKEOVERS.COUNT, F.PE_SAMPLE_SKIP.COUNT, F.PE_CNTk.COUNT, F.PMC_EVENT.ERRLOG,
      F.PMC_EVENT.ERRLOG_OVF, F.PE_SELk.OVF]) (.ret a b) s) ∧
  (∀ a b s, FramesRegs (eventFields ++ answerFields ++ [F.GLB_STATUS.UNTESTED, F.TRE_STATE.STATE, F.TRE_STATE.FAULT_CAUSE,
      F.TRE_STATE.OPER_TERMS, F.TRE_EVENT.STATE_CHANGE, F.TRE_EVENT.FAULT, F.TRE_EVENT.DORMANT, F.TRE_EVENT.WAKE,
      F.TRE_US_EVENT.TERM_STATE, F.TRE_US_REASM_ABORT.COUNT, F.SLU_STATUS.A_STATE, F.SLU_STATUS.B_STATE, F.SLU_STATUS.ACTIVE,
      F.SLU_STATUS.NONE, F.SLU_EVENT.SWITCHOVER, F.SLU_EVENT.UNIT_FAILED, F.SLU_EVENT.NO_SCHEDULER, F.SLU_FAIL_CAUSE.A_CAUSE,
      F.SLU_FAIL_CAUSE.B_CAUSE, F.PE_STATUS.STATE, F.PE_STATUS.CS_VALID, F.PE_FAULT.CAUSE, F.PE_FAULT.UADDR, F.PE_FAULT.VALID,
      F.PE_EVENT.FAULT, F.PE_EVENT.CS_CORR, F.PE_EVENT.WM_CORR, F.PE_CS_CORR.COUNT, F.PE_WM_CORR.COUNT, F.PE_RESTART.COUNT,
      F.PE_SAMPLE_PTR.NEXT, F.PE_SAMPLE_PTR.WRAPPED, F.DB_STATUS.STATE, F.DB_STATUS.ERR_CAUSE, F.IRQ_STATUS.RING_ERROR,
      F.FAB_DROP_ROUTE.COUNT, F.FAB_LINKn_CELLS_TX.COUNT, F.PROT_EVENT.TAKEOVER, F.PROT_EVENT.YIELDED, F.PROT_EVENT.HELD,
      F.PROT_EVENT.READY, F.PROT_EVENT.SYNC_LOST, F.PROT_PAIRED.TREES, F.PROT_Tt_STATE.PSTATE, F.PROT_Tt_STATE.CAUSE,
      F.PROT_Tt_SINCE_F.F, F.PROT_Tt_TAKEOVERS.COUNT, F.PE_SAMPLE_SKIP.COUNT, F.PE_CNTk.COUNT, F.PMC_EVENT.ERRLOG,
      F.PMC_EVENT.ERRLOG_OVF, F.PE_SELk.OVF]) (.wait a b) s) ∧
  (∀ a b s, FramesRegs (eventFields ++ answerFields ++ [F.GLB_STATUS.UNTESTED, F.TRE_STATE.STATE, F.TRE_STATE.FAULT_CAUSE,
      F.TRE_STATE.OPER_TERMS, F.TRE_EVENT.STATE_CHANGE, F.TRE_EVENT.FAULT, F.TRE_EVENT.DORMANT, F.TRE_EVENT.WAKE,
      F.TRE_US_EVENT.TERM_STATE, F.TRE_US_REASM_ABORT.COUNT, F.SLU_STATUS.A_STATE, F.SLU_STATUS.B_STATE, F.SLU_STATUS.ACTIVE,
      F.SLU_STATUS.NONE, F.SLU_EVENT.SWITCHOVER, F.SLU_EVENT.UNIT_FAILED, F.SLU_EVENT.NO_SCHEDULER, F.SLU_FAIL_CAUSE.A_CAUSE,
      F.SLU_FAIL_CAUSE.B_CAUSE, F.PE_STATUS.STATE, F.PE_STATUS.CS_VALID, F.PE_FAULT.CAUSE, F.PE_FAULT.UADDR, F.PE_FAULT.VALID,
      F.PE_EVENT.FAULT, F.PE_EVENT.CS_CORR, F.PE_EVENT.WM_CORR, F.PE_CS_CORR.COUNT, F.PE_WM_CORR.COUNT, F.PE_RESTART.COUNT,
      F.PE_SAMPLE_PTR.NEXT, F.PE_SAMPLE_PTR.WRAPPED, F.DB_STATUS.STATE, F.DB_STATUS.ERR_CAUSE, F.IRQ_STATUS.RING_ERROR,
      F.FAB_DROP_ROUTE.COUNT, F.FAB_LINKn_CELLS_TX.COUNT, F.PROT_EVENT.TAKEOVER, F.PROT_EVENT.YIELDED, F.PROT_EVENT.HELD,
      F.PROT_EVENT.READY, F.PROT_EVENT.SYNC_LOST, F.PROT_PAIRED.TREES, F.PROT_Tt_STATE.PSTATE, F.PROT_Tt_STATE.CAUSE,
      F.PROT_Tt_SINCE_F.F, F.PROT_Tt_TAKEOVERS.COUNT, F.PE_SAMPLE_SKIP.COUNT, F.PE_CNTk.COUNT, F.PMC_EVENT.ERRLOG,
      F.PMC_EVENT.ERRLOG_OVF, F.PE_SELk.OVF]) (.commit a b) s) ∧
  (∀ a b s, FramesRegs (eventFields ++ answerFields ++ [F.GLB_STATUS.UNTESTED, F.TRE_STATE.STATE, F.TRE_STATE.FAULT_CAUSE,
      F.TRE_STATE.OPER_TERMS, F.TRE_EVENT.STATE_CHANGE, F.TRE_EVENT.FAULT, F.TRE_EVENT.DORMANT, F.TRE_EVENT.WAKE,
      F.TRE_US_EVENT.TERM_STATE, F.TRE_US_REASM_ABORT.COUNT, F.SLU_STATUS.A_STATE, F.SLU_STATUS.B_STATE, F.SLU_STATUS.ACTIVE,
      F.SLU_STATUS.NONE, F.SLU_EVENT.SWITCHOVER, F.SLU_EVENT.UNIT_FAILED, F.SLU_EVENT.NO_SCHEDULER, F.SLU_FAIL_CAUSE.A_CAUSE,
      F.SLU_FAIL_CAUSE.B_CAUSE, F.PE_STATUS.STATE, F.PE_STATUS.CS_VALID, F.PE_FAULT.CAUSE, F.PE_FAULT.UADDR, F.PE_FAULT.VALID,
      F.PE_EVENT.FAULT, F.PE_EVENT.CS_CORR, F.PE_EVENT.WM_CORR, F.PE_CS_CORR.COUNT, F.PE_WM_CORR.COUNT, F.PE_RESTART.COUNT,
      F.PE_SAMPLE_PTR.NEXT, F.PE_SAMPLE_PTR.WRAPPED, F.DB_STATUS.STATE, F.DB_STATUS.ERR_CAUSE, F.IRQ_STATUS.RING_ERROR,
      F.FAB_DROP_ROUTE.COUNT, F.FAB_LINKn_CELLS_TX.COUNT, F.PROT_EVENT.TAKEOVER, F.PROT_EVENT.YIELDED, F.PROT_EVENT.HELD,
      F.PROT_EVENT.READY, F.PROT_EVENT.SYNC_LOST, F.PROT_PAIRED.TREES, F.PROT_Tt_STATE.PSTATE, F.PROT_Tt_STATE.CAUSE,
      F.PROT_Tt_SINCE_F.F, F.PROT_Tt_TAKEOVERS.COUNT, F.PE_SAMPLE_SKIP.COUNT, F.PE_CNTk.COUNT, F.PMC_EVENT.ERRLOG,
      F.PMC_EVENT.ERRLOG_OVF, F.PE_SELk.OVF]) (.end_ a b) s) ∧
  (∀ a b s, FramesRegs (eventFields ++ answerFields ++ [F.GLB_STATUS.UNTESTED, F.TRE_STATE.STATE, F.TRE_STATE.FAULT_CAUSE,
      F.TRE_STATE.OPER_TERMS, F.TRE_EVENT.STATE_CHANGE, F.TRE_EVENT.FAULT, F.TRE_EVENT.DORMANT, F.TRE_EVENT.WAKE,
      F.TRE_US_EVENT.TERM_STATE, F.TRE_US_REASM_ABORT.COUNT, F.SLU_STATUS.A_STATE, F.SLU_STATUS.B_STATE, F.SLU_STATUS.ACTIVE,
      F.SLU_STATUS.NONE, F.SLU_EVENT.SWITCHOVER, F.SLU_EVENT.UNIT_FAILED, F.SLU_EVENT.NO_SCHEDULER, F.SLU_FAIL_CAUSE.A_CAUSE,
      F.SLU_FAIL_CAUSE.B_CAUSE, F.PE_STATUS.STATE, F.PE_STATUS.CS_VALID, F.PE_FAULT.CAUSE, F.PE_FAULT.UADDR, F.PE_FAULT.VALID,
      F.PE_EVENT.FAULT, F.PE_EVENT.CS_CORR, F.PE_EVENT.WM_CORR, F.PE_CS_CORR.COUNT, F.PE_WM_CORR.COUNT, F.PE_RESTART.COUNT,
      F.PE_SAMPLE_PTR.NEXT, F.PE_SAMPLE_PTR.WRAPPED, F.DB_STATUS.STATE, F.DB_STATUS.ERR_CAUSE, F.IRQ_STATUS.RING_ERROR,
      F.FAB_DROP_ROUTE.COUNT, F.FAB_LINKn_CELLS_TX.COUNT, F.PROT_EVENT.TAKEOVER, F.PROT_EVENT.YIELDED, F.PROT_EVENT.HELD,
      F.PROT_EVENT.READY, F.PROT_EVENT.SYNC_LOST, F.PROT_PAIRED.TREES, F.PROT_Tt_STATE.PSTATE, F.PROT_Tt_STATE.CAUSE,
      F.PROT_Tt_SINCE_F.F, F.PROT_Tt_TAKEOVERS.COUNT, F.PE_SAMPLE_SKIP.COUNT, F.PE_CNTk.COUNT, F.PMC_EVENT.ERRLOG,
      F.PMC_EVENT.ERRLOG_OVF, F.PE_SELk.OVF]) (.halt a b) s) ∧
  (∀ a b c d e s, FramesRegs (eventFields ++ answerFields ++ [F.GLB_STATUS.UNTESTED, F.TRE_STATE.STATE, F.TRE_STATE.FAULT_CAUSE,
      F.TRE_STATE.OPER_TERMS, F.TRE_EVENT.STATE_CHANGE, F.TRE_EVENT.FAULT, F.TRE_EVENT.DORMANT, F.TRE_EVENT.WAKE,
      F.TRE_US_EVENT.TERM_STATE, F.TRE_US_REASM_ABORT.COUNT, F.SLU_STATUS.A_STATE, F.SLU_STATUS.B_STATE, F.SLU_STATUS.ACTIVE,
      F.SLU_STATUS.NONE, F.SLU_EVENT.SWITCHOVER, F.SLU_EVENT.UNIT_FAILED, F.SLU_EVENT.NO_SCHEDULER, F.SLU_FAIL_CAUSE.A_CAUSE,
      F.SLU_FAIL_CAUSE.B_CAUSE, F.PE_STATUS.STATE, F.PE_FAULT.CAUSE, F.PE_FAULT.UADDR, F.PE_FAULT.VALID, F.PE_EVENT.FAULT,
      F.PE_EVENT.WM_CORR, F.PE_WM_CORR.COUNT, F.PE_RESTART.COUNT, F.DB_STATUS.STATE, F.DB_STATUS.ERR_CAUSE, F.IRQ_STATUS.RING_ERROR,
      F.FAB_DROP_ROUTE.COUNT, F.FAB_LINKn_CELLS_TX.COUNT, F.PROT_EVENT.TAKEOVER, F.PROT_EVENT.YIELDED, F.PROT_EVENT.HELD,
      F.PROT_EVENT.READY, F.PROT_EVENT.SYNC_LOST, F.PROT_PAIRED.TREES, F.PROT_Tt_STATE.PSTATE, F.PROT_Tt_STATE.CAUSE,
      F.PROT_Tt_SINCE_F.F, F.PROT_Tt_TAKEOVERS.COUNT, F.PE_CNTk.COUNT, F.PMC_EVENT.ERRLOG, F.PMC_EVENT.ERRLOG_OVF, F.PE_SELk.OVF])
      (.mopResult a b c d e) s) ∧
  (∀ a s, FramesRegs (eventFields ++ answerFields ++ [F.GLB_STATUS.UNTESTED, F.TRE_STATE.STATE, F.TRE_STATE.FAULT_CAUSE,
      F.TRE_STATE.OPER_TERMS, F.TRE_EVENT.STATE_CHANGE, F.TRE_EVENT.FAULT, F.TRE_EVENT.DORMANT, F.TRE_EVENT.WAKE,
      F.TRE_US_EVENT.TERM_STATE, F.TRE_US_REASM_ABORT.COUNT, F.SLU_STATUS.A_STATE, F.SLU_STATUS.B_STATE, F.SLU_STATUS.ACTIVE,
      F.SLU_STATUS.NONE, F.SLU_EVENT.SWITCHOVER, F.SLU_EVENT.UNIT_FAILED, F.SLU_EVENT.NO_SCHEDULER, F.SLU_FAIL_CAUSE.A_CAUSE,
      F.SLU_FAIL_CAUSE.B_CAUSE, F.PE_STATUS.STATE, F.PE_FAULT.CAUSE, F.PE_FAULT.UADDR, F.PE_FAULT.VALID, F.PE_EVENT.FAULT,
      F.PE_RESTART.COUNT, F.DB_STATUS.STATE, F.DB_STATUS.ERR_CAUSE, F.IRQ_STATUS.RING_ERROR, F.FAB_DROP_ROUTE.COUNT,
      F.FAB_LINKn_CELLS_TX.COUNT, F.PROT_EVENT.TAKEOVER, F.PROT_EVENT.YIELDED, F.PROT_EVENT.HELD, F.PROT_EVENT.READY,
      F.PROT_EVENT.SYNC_LOST, F.PROT_PAIRED.TREES, F.PROT_Tt_STATE.PSTATE, F.PROT_Tt_STATE.CAUSE, F.PROT_Tt_SINCE_F.F,
      F.PROT_Tt_TAKEOVERS.COUNT, F.PE_CNTk.COUNT, F.PMC_EVENT.ERRLOG, F.PMC_EVENT.ERRLOG_OVF, F.PE_SELk.OVF]) (.portTimeout a) s) ∧
  (∀ a s, FramesRegs (eventFields ++ answerFields ++ [F.GLB_STATUS.UNTESTED, F.TRE_STATE.STATE, F.TRE_STATE.FAULT_CAUSE,
      F.TRE_STATE.OPER_TERMS, F.TRE_EVENT.STATE_CHANGE, F.TRE_EVENT.FAULT, F.TRE_EVENT.DORMANT, F.TRE_EVENT.WAKE,
      F.TRE_US_EVENT.TERM_STATE, F.TRE_US_REASM_ABORT.COUNT, F.SLU_STATUS.A_STATE, F.SLU_STATUS.B_STATE, F.SLU_STATUS.ACTIVE,
      F.SLU_STATUS.NONE, F.SLU_EVENT.SWITCHOVER, F.SLU_EVENT.UNIT_FAILED, F.SLU_EVENT.NO_SCHEDULER, F.SLU_FAIL_CAUSE.A_CAUSE,
      F.SLU_FAIL_CAUSE.B_CAUSE, F.PE_STATUS.STATE, F.PE_FAULT.CAUSE, F.PE_FAULT.UADDR, F.PE_FAULT.VALID, F.PE_EVENT.FAULT,
      F.DB_STATUS.STATE, F.DB_STATUS.ERR_CAUSE, F.IRQ_STATUS.RING_ERROR, F.FAB_DROP_ROUTE.COUNT, F.FAB_LINKn_CELLS_TX.COUNT,
      F.PROT_EVENT.TAKEOVER, F.PROT_EVENT.YIELDED, F.PROT_EVENT.HELD, F.PROT_EVENT.READY, F.PROT_EVENT.SYNC_LOST, F.PROT_PAIRED.TREES,
      F.PROT_Tt_STATE.PSTATE, F.PROT_Tt_STATE.CAUSE, F.PROT_Tt_SINCE_F.F, F.PROT_Tt_TAKEOVERS.COUNT, F.PMC_EVENT.ERRLOG,
      F.PMC_EVENT.ERRLOG_OVF]) (.routineWatchdog a) s) ∧
  (∀ a s, FramesRegs (eventFields ++ answerFields ++ [F.GLB_STATUS.UNTESTED, F.TRE_STATE.STATE, F.TRE_STATE.FAULT_CAUSE,
      F.TRE_STATE.OPER_TERMS, F.TRE_EVENT.STATE_CHANGE, F.TRE_EVENT.FAULT, F.TRE_EVENT.DORMANT, F.TRE_EVENT.WAKE,
      F.TRE_US_EVENT.TERM_STATE, F.TRE_US_REASM_ABORT.COUNT, F.SLU_STATUS.A_STATE, F.SLU_STATUS.B_STATE, F.SLU_STATUS.ACTIVE,
      F.SLU_STATUS.NONE, F.SLU_EVENT.SWITCHOVER, F.SLU_EVENT.UNIT_FAILED, F.SLU_EVENT.NO_SCHEDULER, F.SLU_FAIL_CAUSE.A_CAUSE,
      F.SLU_FAIL_CAUSE.B_CAUSE, F.PE_STATUS.STATE, F.PE_FAULT.CAUSE, F.PE_FAULT.UADDR, F.PE_FAULT.VALID, F.PE_EVENT.FAULT,
      F.DB_STATUS.STATE, F.DB_STATUS.ERR_CAUSE, F.IRQ_STATUS.RING_ERROR, F.FAB_DROP_ROUTE.COUNT, F.FAB_LINKn_CELLS_TX.COUNT,
      F.PROT_EVENT.TAKEOVER, F.PROT_EVENT.YIELDED, F.PROT_EVENT.HELD, F.PROT_EVENT.READY, F.PROT_EVENT.SYNC_LOST, F.PROT_PAIRED.TREES,
      F.PROT_Tt_STATE.PSTATE, F.PROT_Tt_STATE.CAUSE, F.PROT_Tt_SINCE_F.F, F.PROT_Tt_TAKEOVERS.COUNT, F.PE_CNTk.COUNT, F.PMC_EVENT.ERRLOG,
      F.PMC_EVENT.ERRLOG_OVF, F.PE_SELk.OVF]) (.dispatchOpcode a) s) ∧
  (∀ a s, Frames [F.PE_STATUS.STATE] (.engineStart a) s) ∧
  (∀ a s, Frames [F.PE_STATUS.STATE] (.engineStop a) s) ∧
  (∀ a b s, Frames [F.PE_STATUS.STATE, F.PE_STATUS.CS_VALID, F.PE_BUILD0.ID, F.PE_BUILD1.ID] (.engineLoadDone a b) s) ∧
  (∀ a b c s, FramesRegs (eventFields ++ answerFields ++ [F.GLB_STATUS.UNTESTED, F.TRE_STATE.STATE, F.TRE_STATE.FAULT_CAUSE,
      F.TRE_STATE.OPER_TERMS, F.TRE_EVENT.STATE_CHANGE, F.TRE_EVENT.FAULT, F.TRE_EVENT.DORMANT, F.TRE_EVENT.WAKE,
      F.TRE_US_EVENT.TERM_STATE, F.TRE_US_REASM_ABORT.COUNT, F.SLU_STATUS.A_STATE, F.SLU_STATUS.B_STATE, F.SLU_STATUS.ACTIVE,
      F.SLU_STATUS.NONE, F.SLU_EVENT.SWITCHOVER, F.SLU_EVENT.UNIT_FAILED, F.SLU_EVENT.NO_SCHEDULER, F.SLU_FAIL_CAUSE.A_CAUSE,
      F.SLU_FAIL_CAUSE.B_CAUSE, F.PE_STATUS.STATE, F.PE_FAULT.CAUSE, F.PE_FAULT.UADDR, F.PE_FAULT.VALID, F.PE_EVENT.FAULT,
      F.PE_EVENT.CS_CORR, F.PE_CS_CORR.COUNT, F.DB_STATUS.STATE, F.DB_STATUS.ERR_CAUSE, F.IRQ_STATUS.RING_ERROR, F.FAB_DROP_ROUTE.COUNT,
      F.FAB_LINKn_CELLS_TX.COUNT, F.PROT_EVENT.TAKEOVER, F.PROT_EVENT.YIELDED, F.PROT_EVENT.HELD, F.PROT_EVENT.READY,
      F.PROT_EVENT.SYNC_LOST, F.PROT_PAIRED.TREES, F.PROT_Tt_STATE.PSTATE, F.PROT_Tt_STATE.CAUSE, F.PROT_Tt_SINCE_F.F,
      F.PROT_Tt_TAKEOVERS.COUNT, F.PMC_EVENT.ERRLOG, F.PMC_EVENT.ERRLOG_OVF]) (.csScrub a b c) s) ∧
  (∀ a s, Frames [F.PE_SAMPLE_PTR.NEXT, F.PE_SAMPLE_PTR.WRAPPED, F.PE_SAMPLE_SKIP.COUNT] (.samplerFire a) s)

/-- What the commands of the host rings, the rake, Calvan, the fabric and protection (chapters 09 to 13) leave as it was: every register field a
command is not listed with, at every index, and both memories unless it may store to them (then the list stands in `FramesRegs`). -/
def Obligations.FramesOfHostAndFabricCommands : Prop :=
  (∀ a s, FramesRegs (eventFields ++ answerFields ++ [F.DB_STATUS.STATE, F.DB_STATUS.ERR_CAUSE, F.IRQ_STATUS.RING_ERROR,
      F.PMC_EVENT.ERRLOG, F.PMC_EVENT.ERRLOG_OVF]) (.devInfo a) s) ∧
  (∀ a s, FramesRegs (eventFields ++ answerFields ++ [F.DB_STATUS.STATE, F.DB_STATUS.ERR_CAUSE, F.IRQ_STATUS.RING_ERROR,
      F.PMC_EVENT.ERRLOG, F.PMC_EVENT.ERRLOG_OVF]) (.hostSleepNotice a) s) ∧
  (∀ a s, FramesRegs (eventFields ++ answerFields ++ [F.DB_HEAD.TAIL, F.DB_STATUS.STATE, F.DB_STATUS.IDLE, F.DB_STATUS.ERR_CAUSE,
      F.DB_STATUS.HOLDING, F.DB_NO_DESC.COUNT, F.DB_NO_FIT.COUNT, F.DB_PARTIAL.COUNT, F.DB_NOCELL.COUNT, F.DB_DISABLE_DROP.COUNT,
      F.IRQ_STATUS.RING_ERROR, F.PMC_EVENT.ERRLOG, F.PMC_EVENT.ERRLOG_OVF]) (.ringCreate a) s) ∧
  (∀ a s, FramesRegs (eventFields ++ answerFields ++ [F.DB_STATUS.STATE, F.DB_STATUS.IDLE, F.DB_STATUS.ERR_CAUSE, F.DB_STATUS.HOLDING,
      F.DB_DISABLE_DROP.COUNT, F.IRQ_STATUS.RING_ERROR, F.PMC_EVENT.ERRLOG, F.PMC_EVENT.ERRLOG_OVF]) (.ringDestroy a) s) ∧
  (∀ a s, FramesRegs (eventFields ++ answerFields ++ [F.DB_STATUS.STATE, F.DB_STATUS.IDLE, F.DB_STATUS.ERR_CAUSE, F.DB_STATUS.HOLDING,
      F.DB_DISABLE_DROP.COUNT, F.IRQ_STATUS.RING_ERROR, F.PMC_EVENT.ERRLOG, F.PMC_EVENT.ERRLOG_OVF]) (.ringDisable a) s) ∧
  (∀ a s, FramesRegs (eventFields ++ answerFields ++ [F.DB_STATUS.STATE, F.DB_STATUS.ERR_CAUSE, F.IRQ_STATUS.RING_ERROR,
      F.IRQ_EQ_HEAD.HEAD, F.IRQ_EQ_TAIL.TAIL, F.IRQ_EQ_TAIL.PHASE, F.IRQ_EQ_STATUS.OVERFLOW, F.IRQ_EQ_STATUS.CREATED, F.PMC_EVENT.ERRLOG,
      F.PMC_EVENT.ERRLOG_OVF]) (.evqCreate a) s) ∧
  (∀ a s, FramesRegs (eventFields ++ answerFields ++ [F.TB_STATUS.SEL, F.TIDE_STATUS.FAR, F.DB_STATUS.STATE, F.DB_STATUS.ERR_CAUSE,
      F.IRQ_STATUS.RING_ERROR, F.PMC_EVENT.ERRLOG, F.PMC_EVENT.ERRLOG_OVF]) (.timeSelect a) s) ∧
  (∀ a s, FramesRegs (eventFields ++ answerFields ++ [F.GLB_STATUS.UNTESTED, F.TRE_STATE.STATE, F.TRE_STATE.FAULT_CAUSE,
      F.TRE_STATE.OPER_TERMS, F.TRE_BCAST_SLOT.VALID, F.TRE_EVENT.STATE_CHANGE, F.TRE_EVENT.KEY_ERASED, F.TRE_EVENT.DORMANT,
      F.TRE_EVENT.WAKE, F.TRE_DS_ABORT.COUNT, F.TRE_US_EVENT.TERM_STATE, F.TRE_US_REASM_ABORT.COUNT, F.TRE_US_KEYLOST.COUNT,
      F.SLU_FC_USED.ENTRIES, F.DB_STATUS.STATE, F.DB_STATUS.ERR_CAUSE, F.IRQ_STATUS.RING_ERROR, F.MBX_n_REQ.DATA, F.FAB_DROP_ROUTE.COUNT,
      F.FAB_LINKn_CELLS_TX.COUNT, F.PROT_EVENT.TAKEOVER, F.PROT_EVENT.YIELDED, F.PROT_EVENT.HELD, F.PROT_EVENT.READY,
      F.PROT_EVENT.SYNC_LOST, F.PROT_EVENT.PAIR_LEFT, F.PROT_PAIRED.TREES, F.PROT_Tt_STATE.PSTATE, F.PROT_Tt_STATE.CAUSE,
      F.PROT_Tt_STATE.PARTNER, F.PROT_Tt_STATE.LEASE, F.PROT_Tt_STATE.PAIR_ID, F.PROT_Tt_DELTA.DELTA, F.PROT_Tt_OBS.CLEAN,
      F.PROT_Tt_OBS.DIGEST_GAP, F.PROT_Tt_OBS.ACK_GAP, F.PROT_Tt_SINCE_F.F, F.PROT_Tt_TAKEOVERS.COUNT, F.PWR_EVENT.STATE_CHANGE,
      F.PWR_Dd_STATE.STATE, F.PWR_Dd_STATE.TARGET, F.PWR_Dd_STATE.STAGE, F.PWR_Dd_SEQ.DONE_SEQ, F.PWR_Dd_SEQ.PEND_SEQ,
      F.PMC_EVENT.ERRLOG, F.PMC_EVENT.ERRLOG_OVF]) (.protPair a) s) ∧
  (∀ a s, FramesRegs (eventFields ++ answerFields ++ [F.TRE_STATE.STATE, F.TRE_EVENT.STATE_CHANGE, F.TRE_EVENT.DORMANT, F.TRE_EVENT.WAKE,
      F.DB_STATUS.STATE, F.DB_STATUS.ERR_CAUSE, F.IRQ_STATUS.RING_ERROR, F.FAB_DROP_ROUTE.COUNT, F.FAB_LINKn_CELLS_TX.COUNT,
      F.PROT_EVENT.TAKEOVER, F.PROT_EVENT.YIELDED, F.PROT_EVENT.HELD, F.PROT_EVENT.READY, F.PROT_EVENT.SYNC_LOST, F.PROT_PAIRED.TREES,
      F.PROT_Tt_STATE.PSTATE, F.PROT_Tt_STATE.CAUSE, F.PROT_Tt_SINCE_F.F, F.PROT_Tt_TAKEOVERS.COUNT, F.PMC_EVENT.ERRLOG,
      F.PMC_EVENT.ERRLOG_OVF]) (.protSwitch a) s) ∧
  (∀ a s, FramesRegs (eventFields ++ answerFields ++ [F.DB_STATUS.STATE, F.DB_STATUS.ERR_CAUSE, F.IRQ_STATUS.RING_ERROR,
      F.PMC_EVENT.ERRLOG, F.PMC_EVENT.ERRLOG_OVF]) (.protStatus a) s) ∧
  (∀ a s, FramesRegs (eventFields ++ answerFields ++ [F.DB_STATUS.STATE, F.DB_STATUS.ERR_CAUSE, F.IRQ_STATUS.RING_ERROR,
      F.PMC_EVENT.ERRLOG, F.PMC_EVENT.ERRLOG_OVF]) (.fabStatus a) s) ∧
  (∀ a s, FramesRegs (eventFields ++ answerFields ++ [F.GLB_STATUS.RESTRICTED, F.DB_STATUS.STATE, F.DB_STATUS.ERR_CAUSE,
      F.IRQ_STATUS.RING_ERROR, F.MBX_DEVSTATE.STATE, F.MBX_DEVSTATE.UNTESTED_HELD, F.MBX_EVENT.STATE, F.PMC_EVENT.ERRLOG,
      F.PMC_EVENT.ERRLOG_OVF]) (.fwLoad a) s) ∧
  (∀ a s, FramesRegs (eventFields ++ answerFields ++ [F.GLB_STATUS.RESTRICTED, F.GLB_STATUS.UNTESTED, F.SLU_STATUS.A_STATE,
      F.SLU_STATUS.B_STATE, F.SLU_STATUS.ACTIVE, F.SLU_STATUS.NONE, F.SLU_FC_USED.ENTRIES, F.SLU_FC_DROP.COUNT, F.PE_STATUS.STATE,
      F.DB_STATUS.STATE, F.DB_STATUS.ERR_CAUSE, F.IRQ_STATUS.RING_ERROR, F.MBX_DEVSTATE.STATE, F.MBX_DEVSTATE.UNTESTED_HELD,
      F.MBX_EVENT.STATE, F.MBX_EVENT.UNTESTED, F.PWR_EVENT.WAKE, F.PWR_LAST_WAKE.DOMAIN, F.PWR_LAST_WAKE.SOURCE, F.PWR_LAST_WAKE.TREE,
      F.PWR_LAST_WAKE.TIDE_VALID, F.PWR_LAST_WAKE_AT.TUPLE, F.PWR_LAST_WAKE_LEDGER.TICKS, F.PWR_Dd_STATE.STATE, F.PWR_Dd_STATE.TARGET,
      F.PWR_Dd_STATE.PENDING, F.PWR_Dd_STATE.PEND_TARGET, F.PWR_Dd_STATE.STAGE, F.PWR_Dd_SEQ.PEND_SEQ, F.PWR_Dd_WAKES.COUNT,
      F.PWR_POLk.READY, F.PMC_EVENT.ERRLOG, F.PMC_EVENT.ERRLOG_OVF]) (.fwStart a) s) ∧
  (∀ a s, FramesRegs (eventFields ++ answerFields ++ [F.DB_STATUS.STATE, F.DB_STATUS.ERR_CAUSE, F.IRQ_STATUS.RING_ERROR,
      F.PMC_EVENT.ERRLOG, F.PMC_EVENT.ERRLOG_OVF]) (.fwStatus a) s) ∧
  (∀ a b s, FramesRegs (eventFields ++ answerFields ++ [F.GLB_STATUS.RESTRICTED, F.DB_STATUS.STATE, F.DB_STATUS.ERR_CAUSE,
      F.IRQ_STATUS.RING_ERROR, F.MBX_DEVSTATE.STATE, F.MBX_DEVSTATE.UNTESTED_HELD, F.MBX_EVENT.STATE, F.PMC_EVENT.ERRLOG,
      F.PMC_EVENT.ERRLOG_OVF]) (.fwLoadReadDone a b) s) ∧
  (∀ a b s, FramesRegs (eventFields ++ answerFields ++ [F.GLB_STATUS.UNTESTED, F.TRE_STATE.STATE, F.TRE_BCAST_SLOT.SLOT,
      F.TRE_BCAST_SLOT.VALID, F.TRE_EVENT.STATE_CHANGE, F.TRE_EVENT.DORMANT, F.TRE_EVENT.WAKE, F.PE_STATUS.STATE, F.DB_STATUS.STATE,
      F.DB_STATUS.ERR_CAUSE, F.IRQ_STATUS.RING_ERROR, F.MBX_n_REQ.DATA, F.FAB_DROP_ROUTE.COUNT, F.FAB_LINKn_CELLS_TX.COUNT,
      F.PROT_EVENT.TAKEOVER, F.PROT_EVENT.YIELDED, F.PROT_EVENT.HELD, F.PROT_EVENT.READY, F.PROT_EVENT.SYNC_LOST, F.PROT_PAIRED.TREES,
      F.PROT_Tt_STATE.PSTATE, F.PROT_Tt_STATE.CAUSE, F.PROT_Tt_STATE.PARTNER, F.PROT_Tt_STATE.PAIR_ID, F.PROT_Tt_DELTA.DELTA,
      F.PROT_Tt_OBS.CLEAN, F.PROT_Tt_SINCE_F.F, F.PROT_Tt_TAKEOVERS.COUNT, F.PROT_Tt_MIRROR_ERR.COUNT, F.PMC_EVENT.ERRLOG,
      F.PMC_EVENT.ERRLOG_OVF]) (.protHandshakeDone a b) s) ∧
  (∀ a b c s, FramesRegs (eventFields ++ windowFields ++ answerFields ++ [F.DB_STATUS.STATE, F.DB_STATUS.ERR_CAUSE,
      F.IRQ_STATUS.RING_ERROR, F.MBX_n_STATUS.REJECTED, F.PMC_EVENT.ERRLOG, F.PMC_EVENT.ERRLOG_OVF]) (.mbxGo a b c) s) ∧
  (∀ a b c d s, FramesRegs (eventFields ++ windowFields ++ answerFields ++ [F.DB_HEAD.TAIL, F.DB_STATUS.STATE, F.DB_STATUS.ERR_CAUSE,
      F.IRQ_STATUS.DB_STRAY, F.IRQ_STATUS.RING_ERROR, F.PWR_EVENT.WAKE, F.PWR_LAST_WAKE.DOMAIN, F.PWR_LAST_WAKE.SOURCE,
      F.PWR_LAST_WAKE.TREE, F.PWR_LAST_WAKE.TIDE_VALID, F.PWR_LAST_WAKE_AT.TUPLE, F.PWR_LAST_WAKE_LEDGER.TICKS, F.PWR_Dd_STATE.STATE,
      F.PWR_Dd_STATE.TARGET, F.PWR_Dd_STATE.PENDING, F.PWR_Dd_STATE.PEND_TARGET, F.PWR_Dd_STATE.STAGE, F.PWR_Dd_SEQ.PEND_SEQ,
      F.PWR_Dd_WAKES.COUNT, F.PWR_POLk.READY, F.PMC_EVENT.ERRLOG, F.PMC_EVENT.ERRLOG_OVF]) (.doorbell a b c d) s) ∧
  (∀ a b c s, FramesRegs (eventFields ++ windowFields ++ answerFields ++ [F.DB_STATUS.STATE, F.DB_STATUS.ERR_CAUSE,
      F.IRQ_STATUS.RING_ERROR, F.DMA_CHn_CTL.PRIO, F.DMA_CHn_CTL.PORT, F.DMA_CHn_CTL.CHAIN, F.DMA_CHn_CTL.AT, F.DMA_CHn_CTL.REQ,
      F.DMA_CHn_CTL.RATE, F.DMA_CHn_STATUS.STATE, F.DMA_CHn_STATUS.OWNED, F.DMA_CHn_STATUS.CFG_ERR, F.DMA_CHn_STATUS.ERR_CAUSE,
      F.DMA_CHn_STATUS.LATE, F.DMA_CHn_STATUS.RETRIES, F.DMA_CHn_EVENT.DONE, F.DMA_CHn_EVENT.FENCED, F.DMA_CHn_EVENT.HALTED,
      F.DMA_CHn_EVENT.START_REFUSED, F.DMA_CHn_REMAIN.BYTES, F.DMA_CHn_IDX.IDX, F.DMA_CHn_TAIL.ADDR, F.DMA_CHn_ERR_ADDR.ADDR,
      F.DMA_CHn_KICK_IGN.COUNT, F.DMA_CHn_BYTES.BYTES, F.DMA_CHn_DESCS.COUNT, F.PMC_EVENT.ERRLOG, F.PMC_EVENT.ERRLOG_OVF,
      F.DMA_CHn_SRC.ADDR, F.DMA_CHn_DST.ADDR, F.DMA_CHn_S0.STEP, F.DMA_CHn_D0.STEP, F.DMA_CHn_S1.STEP, F.DMA_CHn_D1.STEP,
      F.DMA_CHn_S2.STEP, F.DMA_CHn_D2.STEP, F.DMA_CHn_CNT01.C0, F.DMA_CHn_CNT01.C1, F.DMA_CHn_CNT2.C2, F.DMA_CHn_CNT2.DCTL,
      F.DMA_CHn_LINK.LINK]) (.dmaStart a b c) s) ∧
  (∀ a b c s, FramesRegs (eventFields ++ windowFields ++ answerFields ++ [F.DB_STATUS.STATE, F.DB_STATUS.ERR_CAUSE,
      F.IRQ_STATUS.RING_ERROR, F.DMA_CHn_CTL.PRIO, F.DMA_CHn_CTL.PORT, F.DMA_CHn_CTL.CHAIN, F.DMA_CHn_CTL.AT, F.DMA_CHn_CTL.REQ,
      F.DMA_CHn_CTL.RATE, F.DMA_CHn_STATUS.STATE, F.DMA_CHn_STATUS.OWNED, F.DMA_CHn_STATUS.CFG_ERR, F.DMA_CHn_STATUS.ERR_CAUSE,
      F.DMA_CHn_STATUS.LATE, F.DMA_CHn_STATUS.RETRIES, F.DMA_CHn_EVENT.DONE, F.DMA_CHn_EVENT.FENCED, F.DMA_CHn_EVENT.HALTED,
      F.DMA_CHn_EVENT.START_REFUSED, F.DMA_CHn_REMAIN.BYTES, F.DMA_CHn_IDX.IDX, F.DMA_CHn_TAIL.ADDR, F.DMA_CHn_ERR_ADDR.ADDR,
      F.DMA_CHn_KICK_IGN.COUNT, F.DMA_CHn_BYTES.BYTES, F.DMA_CHn_DESCS.COUNT, F.PMC_EVENT.ERRLOG, F.PMC_EVENT.ERRLOG_OVF,
      F.DMA_CHn_SRC.ADDR, F.DMA_CHn_DST.ADDR, F.DMA_CHn_S0.STEP, F.DMA_CHn_D0.STEP, F.DMA_CHn_S1.STEP, F.DMA_CHn_D1.STEP,
      F.DMA_CHn_S2.STEP, F.DMA_CHn_D2.STEP, F.DMA_CHn_CNT01.C0, F.DMA_CHn_CNT01.C1, F.DMA_CHn_CNT2.C2, F.DMA_CHn_CNT2.DCTL,
      F.DMA_CHn_LINK.LINK]) (.dmaResume a b c) s) ∧
  (∀ a b c s, FramesRegs (eventFields ++ windowFields ++ answerFields ++ [F.DB_STATUS.STATE, F.DB_STATUS.ERR_CAUSE,
      F.IRQ_STATUS.RING_ERROR, F.DMA_CHn_CTL.PRIO, F.DMA_CHn_CTL.PORT, F.DMA_CHn_CTL.CHAIN, F.DMA_CHn_CTL.AT, F.DMA_CHn_CTL.REQ,
      F.DMA_CHn_CTL.RATE, F.DMA_CHn_STATUS.STATE, F.DMA_CHn_STATUS.OWNED, F.DMA_CHn_STATUS.CFG_ERR, F.DMA_CHn_STATUS.ERR_CAUSE,
      F.DMA_CHn_STATUS.LATE, F.DMA_CHn_STATUS.RETRIES, F.DMA_CHn_EVENT.DONE, F.DMA_CHn_EVENT.FENCED, F.DMA_CHn_EVENT.HALTED,
      F.DMA_CHn_EVENT.START_REFUSED, F.DMA_CHn_REMAIN.BYTES, F.DMA_CHn_IDX.IDX, F.DMA_CHn_TAIL.ADDR, F.DMA_CHn_ERR_ADDR.ADDR,
      F.DMA_CHn_KICK_IGN.COUNT, F.DMA_CHn_BYTES.BYTES, F.DMA_CHn_DESCS.COUNT, F.PMC_EVENT.ERRLOG, F.PMC_EVENT.ERRLOG_OVF,
      F.DMA_CHn_SRC.ADDR, F.DMA_CHn_DST.ADDR, F.DMA_CHn_S0.STEP, F.DMA_CHn_D0.STEP, F.DMA_CHn_S1.STEP, F.DMA_CHn_D1.STEP,
      F.DMA_CHn_S2.STEP, F.DMA_CHn_D2.STEP, F.DMA_CHn_CNT01.C0, F.DMA_CHn_CNT01.C1, F.DMA_CHn_CNT2.C2, F.DMA_CHn_CNT2.DCTL,
      F.DMA_CHn_LINK.LINK]) (.dmaFence a b c) s) ∧
  (∀ a b c s, FramesRegs (eventFields ++ windowFields ++ answerFields ++ [F.DB_STATUS.STATE, F.DB_STATUS.ERR_CAUSE,
      F.IRQ_STATUS.RING_ERROR, F.DMA_CHn_CTL.PRIO, F.DMA_CHn_CTL.PORT, F.DMA_CHn_CTL.CHAIN, F.DMA_CHn_CTL.AT, F.DMA_CHn_CTL.REQ,
      F.DMA_CHn_CTL.RATE, F.DMA_CHn_STATUS.STATE, F.DMA_CHn_STATUS.OWNED, F.DMA_CHn_STATUS.CFG_ERR, F.DMA_CHn_STATUS.ERR_CAUSE,
      F.DMA_CHn_STATUS.LATE, F.DMA_CHn_STATUS.RETRIES, F.DMA_CHn_EVENT.DONE, F.DMA_CHn_EVENT.FENCED, F.DMA_CHn_EVENT.HALTED,
      F.DMA_CHn_EVENT.START_REFUSED, F.DMA_CHn_REMAIN.BYTES, F.DMA_CHn_IDX.IDX, F.DMA_CHn_TAIL.ADDR, F.DMA_CHn_ERR_ADDR.ADDR,
      F.DMA_CHn_KICK_IGN.COUNT, F.DMA_CHn_BYTES.BYTES, F.DMA_CHn_DESCS.COUNT, F.PMC_EVENT.ERRLOG, F.PMC_EVENT.ERRLOG_OVF,
      F.DMA_CHn_SRC.ADDR, F.DMA_CHn_DST.ADDR, F.DMA_CHn_S0.STEP, F.DMA_CHn_D0.STEP, F.DMA_CHn_S1.STEP, F.DMA_CHn_D1.STEP,
      F.DMA_CHn_S2.STEP, F.DMA_CHn_D2.STEP, F.DMA_CHn_CNT01.C0, F.DMA_CHn_CNT01.C1, F.DMA_CHn_CNT2.C2, F.DMA_CHn_CNT2.DCTL,
      F.DMA_CHn_LINK.LINK]) (.dmaDisable a b c) s) ∧
  (∀ a b c s, Frames (eventFields ++ windowFields ++ [F.DMA_CHn_STATUS.STATE, F.DMA_CHn_STATUS.ERR_CAUSE, F.DMA_CHn_STATUS.RETRIES,
      F.DMA_CHn_EVENT.DONE, F.DMA_CHn_EVENT.HALTED, F.DMA_CHn_REMAIN.BYTES, F.DMA_CHn_IDX.IDX, F.DMA_CHn_TAIL.ADDR,
      F.DMA_CHn_ERR_ADDR.ADDR, F.DMA_CHn_KICK_IGN.COUNT, F.DMA_CHn_SRC.ADDR, F.DMA_CHn_DST.ADDR, F.DMA_CHn_S0.STEP, F.DMA_CHn_D0.STEP,
      F.DMA_CHn_S1.STEP, F.DMA_CHn_D1.STEP, F.DMA_CHn_S2.STEP, F.DMA_CHn_D2.STEP, F.DMA_CHn_CNT01.C0, F.DMA_CHn_CNT01.C1,
      F.DMA_CHn_CNT2.C2, F.DMA_CHn_CNT2.DCTL, F.DMA_CHn_LINK.LINK]) (.dmaKick a b c) s) ∧
  (∀ a b s, Frames (eventFields ++ windowFields ++ [F.FAB_STATE.ADDR, F.FAB_STATE.DSTATE, F.FAB_EVENT.ADDR_LOST, F.FAB_EVENT.NO_ADDR,
      F.FAB_LINKn_CELLS_TX.COUNT]) (.fabReclaim a b) s) ∧
  (∀ a b c s, Frames (eventFields ++ windowFields ++ [F.IRQ_VEC_CFG.CNT, F.IRQ_VEC_CFG.TMR, F.IRQ_VEC_CFG.AUTOMASK, F.IRQ_VEC_CFG.WAKE])
      (.vectorUnmask a b c) s) ∧
  (∀ a b c s, Frames (windowFields ++ [F.IRQ_EQ_STATUS.OVERFLOW]) (.eqOverflowClear a b c) s) ∧
  (∀ s, FramesRegs (eventFields ++ answerFields ++ [F.GLB_STATUS.MBX_READY, F.DB_STATUS.STATE, F.DB_STATUS.ERR_CAUSE,
      F.IRQ_STATUS.RING_ERROR, F.PMC_EVENT.ERRLOG, F.PMC_EVENT.ERRLOG_OVF]) .mbxReady s) ∧
  (∀ a s, Frames (eventFields ++ [F.GLB_STATUS.RESTRICTED, F.GLB_STATUS.SITE_OK, F.MBX_DEVSTATE.STATE, F.MBX_EVENT.STATE]) (.siteTrained
      a) s) ∧
  (∀ s, Frames (eventFields ++ [F.GLB_STATUS.MBX_READY, F.GLB_STATUS.RESTRICTED, F.MBX_DEVSTATE.STATE, F.MBX_EVENT.STATE])
      .lockstepMismatch s) ∧
  (∀ a s, FramesRegs (eventFields ++ answerFields ++ [F.GLB_STATUS.MBX_READY, F.GLB_STATUS.RESTRICTED, F.DB_STATUS.STATE,
      F.DB_STATUS.ERR_CAUSE, F.IRQ_STATUS.RING_ERROR, F.MBX_DEVSTATE.STATE, F.MBX_DEVSTATE.RESTARTS, F.MBX_EVENT.STATE,
      F.MBX_EVENT.CP_RESTART, F.PMC_EVENT.ERRLOG, F.PMC_EVENT.ERRLOG_OVF]) (.cpRestartDone a) s) ∧
  (∀ a b c s, FramesRegs (eventFields ++ [F.DB_HEAD.HEAD, F.DB_STATUS.STATE, F.DB_STATUS.ERR_CAUSE, F.DB_EARLY.COUNT, F.DB_DONE.COUNT,
      F.IRQ_STATUS.RING_ERROR, F.IRQ_RING_SUMMARY.RINGS, F.PMC_EVENT.ERRLOG, F.PMC_EVENT.ERRLOG_OVF]) (.txDescriptor a b c) s) ∧
  (∀ a b s, FramesRegs (eventFields ++ [F.DB_STATUS.STATE, F.DB_STATUS.ERR_CAUSE, F.DB_DONE.COUNT, F.IRQ_STATUS.RING_ERROR,
      F.IRQ_RING_SUMMARY.RINGS]) (.txWaitResume a b) s) ∧
  (∀ a b c s, FramesRegs (eventFields ++ [F.DB_HEAD.HEAD, F.DB_STATUS.STATE, F.DB_STATUS.ERR_CAUSE, F.DB_STATUS.HOLDING,
      F.DB_NO_DESC.COUNT, F.DB_NO_FIT.COUNT, F.DB_PARTIAL.COUNT, F.DB_EARLY.COUNT, F.DB_DONE.COUNT, F.IRQ_STATUS.RING_ERROR,
      F.IRQ_RING_SUMMARY.RINGS, F.PMC_EVENT.ERRLOG, F.PMC_EVENT.ERRLOG_OVF]) (.rxDeliver a b c) s) ∧
  (∀ a s, Frames [F.DB_STATUS.HOLDING, F.DB_NO_DESC.COUNT, F.DB_EARLY.COUNT] (.rxHoldExpire a) s) ∧
  (∀ a s, Frames [F.DB_STATUS.STATE, F.DB_STATUS.IDLE, F.IRQ_RING_SUMMARY.RINGS] (.ringIdle a) s) ∧
  (∀ a b s, FramesRegs (eventFields ++ [F.IRQ_EQ_TAIL.TAIL, F.IRQ_EQ_TAIL.PHASE, F.IRQ_EQ_STATUS.OVERFLOW, F.IRQ_RING_SUMMARY.RINGS])
      (.eventPost a b) s) ∧
  (∀ a s, Frames eventFields (.vectorTimer a) s) ∧
  (∀ a b s, Frames (eventFields ++ [F.DMA_CHn_STATUS.STATE, F.DMA_CHn_STATUS.ERR_CAUSE, F.DMA_CHn_STATUS.RETRIES, F.DMA_CHn_EVENT.HALTED,
      F.DMA_CHn_REMAIN.BYTES, F.DMA_CHn_IDX.IDX, F.DMA_CHn_ERR_ADDR.ADDR, F.DMA_CHn_BYTES.BYTES, F.FAB_DROP_ROUTE.COUNT,
      F.FAB_LINKn_CELLS_TX.COUNT]) (.rakeBurstError a b) s) ∧
  (∀ a s, Frames [F.DMA_CHn_STATUS.STATE] (.rakeArmedStart a) s) ∧
  (∀ a s, Frames [F.DMA_CHn_STATUS.STATE] (.peripheralRequestRise a) s) ∧
  (∀ a s, Frames (eventFields ++ [F.DMA_CHn_STATUS.STATE, F.DMA_CHn_STATUS.ERR_CAUSE, F.DMA_CHn_STATUS.RETRIES, F.DMA_CHn_EVENT.DONE,
      F.DMA_CHn_EVENT.FENCED, F.DMA_CHn_EVENT.HALTED, F.DMA_CHn_REMAIN.BYTES, F.DMA_CHn_IDX.IDX, F.DMA_CHn_TAIL.ADDR,
      F.DMA_CHn_ERR_ADDR.ADDR, F.DMA_CHn_KICK_IGN.COUNT, F.DMA_CHn_SRC.ADDR, F.DMA_CHn_DST.ADDR, F.DMA_CHn_S0.STEP, F.DMA_CHn_D0.STEP,
      F.DMA_CHn_S1.STEP, F.DMA_CHn_D1.STEP, F.DMA_CHn_S2.STEP, F.DMA_CHn_D2.STEP, F.DMA_CHn_CNT01.C0, F.DMA_CHn_CNT01.C1,
      F.DMA_CHn_CNT2.C2, F.DMA_CHn_CNT2.DCTL, F.DMA_CHn_LINK.LINK]) (.fenceDone a) s) ∧
  (∀ a b s, Frames (eventFields ++ [F.DMA_CHn_STATUS.STATE, F.DMA_CHn_STATUS.ERR_CAUSE, F.DMA_CHn_EVENT.HALTED, F.DMA_CHn_REMAIN.BYTES,
      F.DMA_CHn_IDX.IDX, F.DMA_CHn_ERR_ADDR.ADDR, F.DMA_CHn_BYTES.BYTES]) (.fenceTimeout a b) s) ∧
  (∀ a b c s, Frames (eventFields ++ [F.FAB_EVENT.LINK_CHANGE, F.FAB_EVENT.ADJ_CHANGE, F.FAB_LINKn_STATUS.STATE,
      F.FAB_LINKn_STATUS.LOCK0, F.FAB_LINKn_STATUS.LOCK1, F.FAB_LINKn_STATUS.LOOP, F.FAB_LINKn_STATUS.NEIGHBOUR,
      F.FAB_LINKn_STATUS.NLINK, F.FAB_LINKn_CELLS_TX.COUNT, F.FAB_ROUTEd.NH0, F.FAB_ROUTEd.V0, F.FAB_ROUTEd.NH1, F.FAB_ROUTEd.V1,
      F.FAB_ROUTEd.NH2, F.FAB_ROUTEd.V2, F.FAB_ROUTEd.NH3, F.FAB_ROUTEd.V3, F.FAB_ROUTEd.HOPS]) (.blockLockChange a b c) s) ∧
  (∀ a b c s, Frames (eventFields ++ [F.FAB_EVENT.LINK_CHANGE, F.FAB_EVENT.ADJ_CHANGE, F.FAB_LINKn_STATUS.STATE,
      F.FAB_LINKn_STATUS.LOCK0, F.FAB_LINKn_STATUS.LOCK1, F.FAB_LINKn_STATUS.LOOP, F.FAB_LINKn_STATUS.SKEW, F.FAB_LINKn_STATUS.NEIGHBOUR,
      F.FAB_LINKn_STATUS.NLINK, F.FAB_LINKn_CELLS_TX.COUNT, F.FAB_ROUTEd.NH0, F.FAB_ROUTEd.V0, F.FAB_ROUTEd.NH1, F.FAB_ROUTEd.V1,
      F.FAB_ROUTEd.NH2, F.FAB_ROUTEd.V2, F.FAB_ROUTEd.NH3, F.FAB_ROUTEd.V3, F.FAB_ROUTEd.HOPS]) (.codewordLock a b c) s) ∧
  (∀ a b s, Frames (eventFields ++ [F.FAB_EVENT.LINK_CHANGE, F.FAB_EVENT.ADJ_CHANGE, F.FAB_EVENT.UE_LIMIT, F.FAB_LINKn_STATUS.STATE,
      F.FAB_LINKn_STATUS.LOCK0, F.FAB_LINKn_STATUS.LOCK1, F.FAB_LINKn_STATUS.LOOP, F.FAB_LINKn_STATUS.NEIGHBOUR,
      F.FAB_LINKn_STATUS.NLINK, F.FAB_LINKn_FEC_CORR.COUNT, F.FAB_LINKn_FEC_UNCORR.COUNT, F.FAB_LINKn_CELLS_TX.COUNT, F.FAB_ROUTEd.NH0,
      F.FAB_ROUTEd.V0, F.FAB_ROUTEd.NH1, F.FAB_ROUTEd.V1, F.FAB_ROUTEd.NH2, F.FAB_ROUTEd.V2, F.FAB_ROUTEd.NH3, F.FAB_ROUTEd.V3,
      F.FAB_ROUTEd.HOPS]) (.codewordReceived a b) s) ∧
  (∀ a s, Frames (eventFields ++ [F.FAB_LINKn_CELLS_TX.COUNT]) (.helloSend a) s) ∧
  (∀ a b s, Frames (eventFields ++ [F.FAB_STATE.DSTATE, F.FAB_EVENT.LINK_CHANGE, F.FAB_EVENT.ADJ_CHANGE, F.FAB_EVENT.NO_ADDR,
      F.FAB_EVENT.LOOP, F.FAB_LINKn_STATUS.STATE, F.FAB_LINKn_STATUS.LOOP, F.FAB_LINKn_STATUS.NEIGHBOUR, F.FAB_LINKn_STATUS.NLINK,
      F.FAB_LINKn_CELLS_TX.COUNT, F.FAB_LINKn_CELLS_RX.COUNT, F.FAB_ROUTEd.NH0, F.FAB_ROUTEd.V0, F.FAB_ROUTEd.NH1, F.FAB_ROUTEd.V1,
      F.FAB_ROUTEd.NH2, F.FAB_ROUTEd.V2, F.FAB_ROUTEd.NH3, F.FAB_ROUTEd.V3, F.FAB_ROUTEd.HOPS]) (.helloReceived a b) s) ∧
  (∀ a s, Frames (eventFields ++ [F.FAB_EVENT.LINK_CHANGE, F.FAB_EVENT.ADJ_CHANGE, F.FAB_LINKn_STATUS.STATE,
      F.FAB_LINKn_STATUS.NEIGHBOUR, F.FAB_LINKn_STATUS.NLINK, F.FAB_LINKn_CELLS_TX.COUNT, F.FAB_ROUTEd.NH0, F.FAB_ROUTEd.V0,
      F.FAB_ROUTEd.NH1, F.FAB_ROUTEd.V1, F.FAB_ROUTEd.NH2, F.FAB_ROUTEd.V2, F.FAB_ROUTEd.NH3, F.FAB_ROUTEd.V3, F.FAB_ROUTEd.HOPS])
      (.helloDead a) s) ∧
  (∀ a b s, Frames (eventFields ++ [F.FAB_DROP_ROUTE.COUNT, F.FAB_DROP_HOPS.COUNT, F.FAB_DROP_CRC.COUNT, F.FAB_LINKn_CELLS_TX.COUNT,
      F.FAB_LINKn_CELLS_RX.COUNT]) (.cellReceived a b) s) ∧
  (∀ a b s, Frames (eventFields ++ [F.FAB_STATE.ADDR, F.FAB_STATE.DSTATE, F.FAB_EVENT.ADDR_LOST, F.FAB_EVENT.NO_ADDR,
      F.FAB_DROP_ROUTE.COUNT, F.FAB_DROP_HOPS.COUNT, F.FAB_DROP_CRC.COUNT, F.FAB_LINKn_CELLS_TX.COUNT, F.FAB_LINKn_CELLS_RX.COUNT])
      (.claimReceived a b) s) ∧
  (∀ s, Frames (eventFields ++ [F.FAB_LINKn_CELLS_TX.COUNT]) .claimRepeat s) ∧
  (∀ s, Frames (eventFields ++ [F.FAB_STATE.ADDR, F.FAB_STATE.DSTATE, F.FAB_EVENT.ADDR_GAINED, F.FAB_LINKn_CELLS_TX.COUNT]) .claimTimer s) ∧
  (∀ s, Frames (eventFields ++ [F.FAB_STATE.DSTATE, F.FAB_EVENT.NO_ADDR, F.FAB_LINKn_CELLS_TX.COUNT]) .unaddressedTimer s) ∧
  (∀ a b s, Frames (eventFields ++ [F.FAB_STATE.ADDR, F.FAB_STATE.DSTATE, F.FAB_EVENT.ADDR_LOST, F.FAB_EVENT.NO_ADDR,
      F.FAB_DROP_ROUTE.COUNT, F.FAB_DROP_HOPS.COUNT, F.FAB_DROP_CRC.COUNT, F.FAB_LINKn_CELLS_TX.COUNT, F.FAB_LINKn_CELLS_RX.COUNT])
      (.routeReceived a b) s) ∧
  (∀ s, Frames (eventFields ++ [F.FAB_LINKn_CELLS_TX.COUNT]) .routePeriodic s) ∧
  (∀ s, Frames [] .routeAgeOut s) ∧
  (∀ s, Frames (eventFields ++ [F.TIDE_STATUS.PEER_LOST, F.FAB_STATE.KEEPER, F.FAB_STATE.QUORUM, F.FAB_STATE.MEMBERS_N,
      F.FAB_MEMBERS.MEMBERS, F.FAB_EVENT.KEEPER_CHANGE, F.FAB_EVENT.QUORUM_LOST, F.FAB_EVENT.ROUTE_CHANGE, F.FAB_ROUTE_GEN.COUNT,
      F.FAB_ROUTEd.NH0, F.FAB_ROUTEd.V0, F.FAB_ROUTEd.NH1, F.FAB_ROUTEd.V1, F.FAB_ROUTEd.NH2, F.FAB_ROUTEd.V2, F.FAB_ROUTEd.NH3,
      F.FAB_ROUTEd.V3, F.FAB_ROUTEd.HOPS]) .routeRecompute s) ∧
  (∀ a s, Frames (eventFields ++ [F.FAB_DROP_ROUTE.COUNT, F.FAB_LINKn_CELLS_TX.COUNT]) (.leaseRequestReceived a) s) ∧
  (∀ a b s, Frames (eventFields ++ [F.FAB_DROP_ROUTE.COUNT, F.FAB_LINKn_CELLS_TX.COUNT, F.PROT_EVENT.TAKEOVER, F.PROT_EVENT.YIELDED,
      F.PROT_EVENT.HELD, F.PROT_EVENT.READY, F.PROT_EVENT.SYNC_LOST, F.PROT_PAIRED.TREES, F.PROT_Tt_STATE.PSTATE, F.PROT_Tt_STATE.CAUSE,
      F.PROT_Tt_STATE.LEASE, F.PROT_Tt_SINCE_F.F, F.PROT_Tt_TAKEOVERS.COUNT, F.PROT_Tt_LEASE_REFUSED.COUNT]) (.leaseAnswerReceived a b) s) ∧
  (∀ a s, Frames (eventFields ++ [F.FAB_LINKn_CELLS_TX.COUNT]) (.tideCellSend a) s) ∧
  (∀ a b s, FramesRegs (eventFields ++ answerFields ++ [F.TIDE_STATUS.PEER_LOST, F.DB_STATUS.STATE, F.DB_STATUS.ERR_CAUSE,
      F.IRQ_STATUS.RING_ERROR, F.FAB_LINKn_CELLS_RX.COUNT, F.FAB_LINKn_TIDE_OFS.THETA, F.FAB_LINKn_TIDE_DLY.DELAY]) (.tideCellReceived a
      b) s) ∧
  (∀ a s, FramesRegs (eventFields ++ [F.FAB_DROP_ROUTE.COUNT, F.FAB_LINKn_CELLS_TX.COUNT]) (.remoteAccessReceived a) s) ∧
  (∀ a s, FramesRegs (eventFields ++ [F.DMA_CHn_STATUS.STATE, F.DMA_CHn_STATUS.ERR_CAUSE, F.DMA_CHn_STATUS.RETRIES, F.DMA_CHn_EVENT.DONE,
      F.DMA_CHn_EVENT.DESC, F.DMA_CHn_EVENT.FENCED, F.DMA_CHn_EVENT.HALTED, F.DMA_CHn_REMAIN.BYTES, F.DMA_CHn_IDX.IDX,
      F.DMA_CHn_TAIL.ADDR, F.DMA_CHn_ERR_ADDR.ADDR, F.DMA_CHn_KICK_IGN.COUNT, F.DMA_CHn_BYTES.BYTES, F.DMA_CHn_DESCS.COUNT,
      F.FAB_DROP_ROUTE.COUNT, F.FAB_LINKn_CELLS_TX.COUNT, F.DMA_CHn_SRC.ADDR, F.DMA_CHn_DST.ADDR, F.DMA_CHn_S0.STEP, F.DMA_CHn_D0.STEP,
      F.DMA_CHn_S1.STEP, F.DMA_CHn_D1.STEP, F.DMA_CHn_S2.STEP, F.DMA_CHn_D2.STEP, F.DMA_CHn_CNT01.C0, F.DMA_CHn_CNT01.C1,
      F.DMA_CHn_CNT2.C2, F.DMA_CHn_CNT2.DCTL, F.DMA_CHn_LINK.LINK]) (.remoteRspReceived a) s) ∧
  (∀ a b c s, Frames (eventFields ++ [F.FAB_DROP_ROUTE.COUNT, F.FAB_LINKn_CELLS_TX.COUNT, F.PROT_EVENT.TAKEOVER, F.PROT_EVENT.YIELDED,
      F.PROT_EVENT.HELD, F.PROT_EVENT.READY, F.PROT_EVENT.SYNC_LOST, F.PROT_PAIRED.TREES, F.PROT_Tt_STATE.PSTATE, F.PROT_Tt_STATE.CAUSE,
      F.PROT_Tt_OBS.CLEAN, F.PROT_Tt_SINCE_F.F, F.PROT_Tt_TAKEOVERS.COUNT]) (.digestReceived a b c) s) ∧
  (∀ a b c s, Frames (eventFields ++ [F.TRE_STATE.STATE, F.TRE_EVENT.STATE_CHANGE, F.TRE_EVENT.DORMANT, F.TRE_EVENT.WAKE,
      F.FAB_DROP_ROUTE.COUNT, F.FAB_LINKn_CELLS_TX.COUNT, F.PROT_EVENT.TAKEOVER, F.PROT_EVENT.YIELDED, F.PROT_EVENT.HELD,
      F.PROT_EVENT.READY, F.PROT_EVENT.SYNC_LOST, F.PROT_EVENT.DUAL, F.PROT_PAIRED.TREES, F.PROT_Tt_STATE.PSTATE, F.PROT_Tt_STATE.CAUSE,
      F.PROT_Tt_OBS.ACK_GAP, F.PROT_Tt_SINCE_F.F, F.PROT_Tt_TAKEOVERS.COUNT]) (.statusReceived a b c) s) ∧
  (∀ a b c d s, Frames (eventFields ++ [F.TRE_STATE.OPER_TERMS, F.TRE_CFG.MAX_FRAME, F.TRE_CFG.PLOAM_MAX, F.SLU_EVENT.FC_DROP,
      F.SLU_FC_USED.ENTRIES, F.SLU_FC_DROP.COUNT, F.SLU_TREE_COMMIT.PERMILLE, F.FAB_DROP_ROUTE.COUNT, F.FAB_LINKn_CELLS_TX.COUNT,
      F.PROT_EVENT.TAKEOVER, F.PROT_EVENT.YIELDED, F.PROT_EVENT.HELD, F.PROT_EVENT.READY, F.PROT_EVENT.SYNC_LOST, F.PROT_PAIRED.TREES,
      F.PROT_Tt_STATE.PSTATE, F.PROT_Tt_STATE.CAUSE, F.PROT_Tt_OBS.CLEAN, F.PROT_Tt_SINCE_F.F, F.PROT_Tt_TAKEOVERS.COUNT,
      F.PROT_Tt_MIRROR_ERR.COUNT]) (.deltaReceived a b c d) s) ∧
  (∀ a b c d s, Frames (eventFields ++ [F.TRE_STATE.OPER_TERMS, F.TRE_CFG.MAX_FRAME, F.TRE_CFG.PLOAM_MAX, F.SLU_EVENT.FC_DROP,
      F.SLU_FC_USED.ENTRIES, F.SLU_FC_DROP.COUNT, F.SLU_TREE_COMMIT.PERMILLE, F.FAB_DROP_ROUTE.COUNT, F.FAB_LINKn_CELLS_TX.COUNT,
      F.PROT_EVENT.TAKEOVER, F.PROT_EVENT.YIELDED, F.PROT_EVENT.HELD, F.PROT_EVENT.READY, F.PROT_EVENT.SYNC_LOST, F.PROT_PAIRED.TREES,
      F.PROT_Tt_STATE.PSTATE, F.PROT_Tt_STATE.CAUSE, F.PROT_Tt_OBS.CLEAN, F.PROT_Tt_SINCE_F.F, F.PROT_Tt_TAKEOVERS.COUNT,
      F.PROT_Tt_MIRROR_ERR.COUNT]) (.copyReceived a b c d) s) ∧
  (∀ a b s, Frames (eventFields ++ [F.FAB_DROP_ROUTE.COUNT, F.FAB_LINKn_CELLS_TX.COUNT]) (.handshakeReceived a b) s) ∧
  (∀ a b c s, FramesRegs (eventFields ++ answerFields ++ [F.GLB_STATUS.UNTESTED, F.TRE_STATE.STATE, F.TRE_STATE.FAULT_CAUSE,
      F.TRE_STATE.OPER_TERMS, F.TRE_BCAST_SLOT.VALID, F.TRE_EVENT.STATE_CHANGE, F.TRE_EVENT.KEY_ERASED, F.TRE_EVENT.DORMANT,
      F.TRE_EVENT.WAKE, F.TRE_DS_ABORT.COUNT, F.TRE_US_EVENT.TERM_STATE, F.TRE_US_REASM_ABORT.COUNT, F.TRE_US_KEYLOST.COUNT,
      F.SLU_FC_USED.ENTRIES, F.DB_STATUS.STATE, F.DB_STATUS.ERR_CAUSE, F.IRQ_STATUS.RING_ERROR, F.FAB_DROP_ROUTE.COUNT,
      F.FAB_LINKn_CELLS_TX.COUNT, F.PROT_EVENT.TAKEOVER, F.PROT_EVENT.YIELDED, F.PROT_EVENT.HELD, F.PROT_EVENT.READY,
      F.PROT_EVENT.SYNC_LOST, F.PROT_EVENT.PAIR_LEFT, F.PROT_PAIRED.TREES, F.PROT_Tt_STATE.PSTATE, F.PROT_Tt_STATE.CAUSE,
      F.PROT_Tt_STATE.PARTNER, F.PROT_Tt_STATE.LEASE, F.PROT_Tt_STATE.PAIR_ID, F.PROT_Tt_DELTA.DELTA, F.PROT_Tt_OBS.CLEAN,
      F.PROT_Tt_OBS.DIGEST_GAP, F.PROT_Tt_OBS.ACK_GAP, F.PROT_Tt_SINCE_F.F, F.PROT_Tt_TAKEOVERS.COUNT, F.PWR_EVENT.STATE_CHANGE,
      F.PWR_Dd_STATE.STATE, F.PWR_Dd_STATE.TARGET, F.PWR_Dd_STATE.STAGE, F.PWR_Dd_SEQ.DONE_SEQ, F.PWR_Dd_SEQ.PEND_SEQ,
      F.PMC_EVENT.ERRLOG, F.PMC_EVENT.ERRLOG_OVF]) (.leaveReceived a b c) s) ∧
  (∀ a b c s, Frames (eventFields ++ [F.FAB_DROP_ROUTE.COUNT, F.FAB_LINKn_CELLS_TX.COUNT, F.PROT_EVENT.TAKEOVER, F.PROT_EVENT.YIELDED,
      F.PROT_EVENT.HELD, F.PROT_EVENT.READY, F.PROT_EVENT.SYNC_LOST, F.PROT_PAIRED.TREES, F.PROT_Tt_STATE.PSTATE, F.PROT_Tt_STATE.CAUSE,
      F.PROT_Tt_OBS.CLEAN, F.PROT_Tt_SINCE_F.F, F.PROT_Tt_TAKEOVERS.COUNT, F.PROT_Tt_MIRROR_ERR.COUNT, F.PMC_EVENT.ERRLOG,
      F.PMC_EVENT.ERRLOG_OVF]) (.tableSyncReceived a b c) s) ∧
  (∀ a s, Frames (eventFields ++ [F.FAB_DROP_ROUTE.COUNT, F.FAB_LINKn_CELLS_TX.COUNT, F.PROT_EVENT.TAKEOVER, F.PROT_EVENT.YIELDED,
      F.PROT_EVENT.HELD, F.PROT_EVENT.READY, F.PROT_EVENT.SYNC_LOST, F.PROT_PAIRED.TREES, F.PROT_Tt_STATE.PSTATE, F.PROT_Tt_STATE.CAUSE,
      F.PROT_Tt_STATE.LEASE, F.PROT_Tt_SINCE_F.F, F.PROT_Tt_TAKEOVERS.COUNT, F.PROT_Tt_LEASE_REFUSED.COUNT]) (.leaseRequestTimer a) s) ∧
  (∀ a s, FramesRegs (eventFields ++ [F.TRE_STATE.STATE, F.TRE_STATE.OPER_TERMS, F.TRE_EVENT.STATE_CHANGE, F.TRE_EVENT.DORMANT,
      F.TRE_EVENT.WAKE, F.TRE_US_EVENT.TERM_STATE, F.DB_STATUS.STATE, F.DB_STATUS.ERR_CAUSE, F.DB_DONE.COUNT, F.IRQ_STATUS.RING_ERROR,
      F.IRQ_RING_SUMMARY.RINGS, F.FAB_DROP_ROUTE.COUNT, F.FAB_LINKn_CELLS_TX.COUNT, F.PROT_EVENT.TAKEOVER, F.PROT_EVENT.YIELDED,
      F.PROT_EVENT.HELD, F.PROT_EVENT.READY, F.PROT_EVENT.SYNC_LOST, F.PROT_EVENT.LEASE_LOST, F.PROT_PAIRED.TREES,
      F.PROT_Tt_STATE.PSTATE, F.PROT_Tt_STATE.CAUSE, F.PROT_Tt_STATE.LEASE, F.PROT_Tt_SINCE_F.F, F.PROT_Tt_TAKEOVERS.COUNT])
      (.leaseExpire a) s) ∧
  (∀ a s, FramesRegs (eventFields ++ [F.TRE_STATE.STATE, F.TRE_STATE.OPER_TERMS, F.TRE_EVENT.STATE_CHANGE, F.TRE_EVENT.DORMANT,
      F.TRE_EVENT.WAKE, F.TRE_US_EVENT.TERM_STATE, F.DB_STATUS.STATE, F.DB_STATUS.ERR_CAUSE, F.DB_DONE.COUNT, F.IRQ_STATUS.RING_ERROR,
      F.IRQ_RING_SUMMARY.RINGS, F.FAB_DROP_ROUTE.COUNT, F.FAB_LINKn_CELLS_TX.COUNT, F.PROT_EVENT.TAKEOVER, F.PROT_EVENT.YIELDED,
      F.PROT_EVENT.HELD, F.PROT_EVENT.READY, F.PROT_EVENT.SYNC_LOST, F.PROT_PAIRED.TREES, F.PROT_Tt_STATE.PSTATE, F.PROT_Tt_STATE.CAUSE,
      F.PROT_Tt_SINCE_F.F, F.PROT_Tt_TAKEOVERS.COUNT]) (.takingTimeout a) s) ∧
  (∀ a b c s, Frames (eventFields ++ windowFields ++ [F.FAB_EVENT.LINK_CHANGE, F.FAB_EVENT.ADJ_CHANGE, F.FAB_LINKn_CFG.EN,
      F.FAB_LINKn_STATUS.STATE, F.FAB_LINKn_STATUS.LOCK0, F.FAB_LINKn_STATUS.LOCK1, F.FAB_LINKn_STATUS.LOOP,
      F.FAB_LINKn_STATUS.NEIGHBOUR, F.FAB_LINKn_STATUS.NLINK, F.FAB_LINKn_CELLS_TX.COUNT, F.FAB_ROUTEd.NH0, F.FAB_ROUTEd.V0,
      F.FAB_ROUTEd.NH1, F.FAB_ROUTEd.V1, F.FAB_ROUTEd.NH2, F.FAB_ROUTEd.V2, F.FAB_ROUTEd.NH3, F.FAB_ROUTEd.V3, F.FAB_ROUTEd.HOPS])
      (.fabLinkEnWrite a b c) s) ∧
  (∀ a b s, FramesRegs (eventFields ++ answerFields ++ [F.TRE_STATE.OPER_TERMS, F.TRE_US_EVENT.TERM_STATE, F.DB_STATUS.STATE,
      F.DB_STATUS.ERR_CAUSE, F.IRQ_STATUS.RING_ERROR, F.FAB_DROP_ROUTE.COUNT, F.FAB_LINKn_CELLS_TX.COUNT, F.PWR_EVENT.STATE_CHANGE,
      F.PWR_Dd_STATE.STATE, F.PWR_Dd_STATE.TARGET, F.PWR_Dd_STATE.STAGE, F.PWR_Dd_SEQ.DONE_SEQ, F.PWR_Dd_SEQ.PEND_SEQ,
      F.PMC_EVENT.ERRLOG, F.PMC_EVENT.ERRLOG_OVF]) (.quenchFromPartner a b) s)
end

