-- ==== Sys2Proof/Laws/Maps.lean ====
section
/-! SUPPORT. What the sparse maps and the byte memories do: a read after a write, the other places, and that every
operation keeps the canonical form. -/

namespace Sys2Proof.Machine

set_option Elab.async false
set_option linter.all false

/-! ### Sparse maps -/

variable {α : Type}

theorem keyLt_irrefl (k : Key) : keyLt k k = false := by simp [keyLt]

theorem keyLt_trans {a b c : Key} (h1 : keyLt a b = true) (h2 : keyLt b c = true) : keyLt a c = true := by
  simp only [keyLt, Bool.or_eq_true, decide_eq_true_eq, Bool.and_eq_true, beq_iff_eq] at *
  omega

theorem keyLt_total {a b : Key} (h1 : a ≠ b) (h2 : keyLt b a = false) : keyLt a b = true := by
  obtain ⟨a1, a2⟩ := a
  obtain ⟨b1, b2⟩ := b
  simp only [keyLt, Bool.or_eq_true, decide_eq_true_eq, Bool.and_eq_true, beq_iff_eq, ne_eq, Prod.mk.injEq,
    Bool.or_eq_false_iff, decide_eq_false_iff_not, Bool.and_eq_false_iff, beq_eq_false_iff_ne] at *
  omega

theorem smFind_smPut_same (m : SMap α) (k : Key) (v : α) : smFind (smPut m k v) k = some v := by
  induction m with
  | nil => simp [smPut, smFind]
  | cons e r ih =>
    obtain ⟨k', v'⟩ := e
    simp only [smPut]
    split
    · simp [smFind]
    · split
      · simp [smFind]
      · simp [smFind, *]

theorem smFind_smPut_other (m : SMap α) {k k2 : Key} (v : α) (h : k ≠ k2) :
    smFind (smPut m k v) k2 = smFind m k2 := by
  induction m with
  | nil => simp [smPut, smFind, h]
  | cons e r ih =>
    obtain ⟨k', v'⟩ := e
    simp only [smPut]
    split
    · subst_vars; simp [smFind, h]
    · split
      · simp [smFind, h]
      · simp only [smFind, ih]

theorem smFind_smDel_same (m : SMap α) (k : Key) : smFind (smDel m k) k = none := by
  induction m with
  | nil => rfl
  | cons e r ih =>
    obtain ⟨k', v'⟩ := e
    by_cases h : k' = k
    · simpa [smDel, h] using ih
    · simpa [smDel, h, smFind] using ih

theorem smFind_smDel_other (m : SMap α) {k k2 : Key} (h : k ≠ k2) : smFind (smDel m k) k2 = smFind m k2 := by
  induction m with
  | nil => rfl
  | cons e r ih =>
    obtain ⟨k', v'⟩ := e
    by_cases h' : k' = k
    · subst h'; simpa [smDel, smFind, h] using ih
    · by_cases h2 : k' = k2
      · subst h2
        simp [smDel, smFind, h']
      · simpa [smDel, h', smFind, h2] using ih

/-- A read of the place written gives the value written. -/
@[simp] theorem smGet_smSet_same [DecidableEq α] (d : α) (m : SMap α) (k : Key) (v : α) :
    smGet d (smSet d m k v) k = v := by
  unfold smSet smGet
  split
  · simp [smFind_smDel_same, *]
  · simp [smFind_smPut_same]

/-- A write leaves every other place alone. -/
theorem smGet_smSet_other [DecidableEq α] (d d2 : α) (m : SMap α) {k k2 : Key} (v : α) (h : k ≠ k2) :
    smGet d2 (smSet d m k v) k2 = smGet d2 m k2 := by
  unfold smSet smGet
  split
  · rw [smFind_smDel_other m h]
  · rw [smFind_smPut_other m v h]

theorem smSorted_cons {e : Key × α} {r : SMap α} (h : smSorted (e :: r) = true) :
    smSorted r = true ∧ ∀ x ∈ r, keyLt e.1 x.1 = true := by
  induction r generalizing e with
  | nil => simp [smSorted]
  | cons b r ih =>
    simp only [smSorted, Bool.and_eq_true] at h
    refine ⟨h.2, ?_⟩
    intro x hx
    rcases List.mem_cons.1 hx with rfl | hx
    · exact h.1
    · exact keyLt_trans h.1 ((ih h.2).2 x hx)

theorem smSorted_of {e : Key × α} {r : SMap α} (h1 : smSorted r = true) (h2 : ∀ x ∈ r, keyLt e.1 x.1 = true) :
    smSorted (e :: r) = true := by
  cases r with
  | nil => rfl
  | cons b r => simp [smSorted, h1, h2 b (by simp)]

theorem smDel_sorted {m : SMap α} (k : Key) (h : smSorted m = true) : smSorted (smDel m k) = true := by
  induction m with
  | nil => rfl
  | cons e r ih =>
    have hc := smSorted_cons h
    by_cases h' : e.1 = k
    · simpa [smDel, h'] using ih hc.1
    · have : smDel (e :: r) k = e :: smDel r k := by simp [smDel, h']
      rw [this]
      exact smSorted_of (ih hc.1) (fun x hx => hc.2 x ((List.mem_filter.1 hx).1))

theorem smPut_mem {m : SMap α} {k : Key} {v : α} {x : Key × α} (h : x ∈ smPut m k v) : x = (k, v) ∨ x ∈ m := by
  induction m with
  | nil => simpa [smPut] using h
  | cons e r ih =>
    obtain ⟨k', v'⟩ := e
    simp only [smPut] at h
    split at h
    · rcases List.mem_cons.1 h with h | h
      · exact .inl h
      · exact .inr (List.mem_cons_of_mem _ h)
    · split at h
      · rcases List.mem_cons.1 h with h | h
        · exact .inl h
        · exact .inr h
      · rcases List.mem_cons.1 h with h | h
        · exact .inr (by simp [h])
        · rcases ih h with h | h
          · exact .inl h
          · exact .inr (List.mem_cons_of_mem _ h)

theorem smPut_sorted {m : SMap α} (k : Key) (v : α) (h : smSorted m = true) : smSorted (smPut m k v) = true := by
  induction m with
  | nil => rfl
  | cons e r ih =>
    obtain ⟨k', v'⟩ := e
    have hc := smSorted_cons h
    simp only [smPut]
    split
    · rename_i hk; subst hk
      exact smSorted_of hc.1 hc.2
    · split
      · rename_i hlt
        exact smSorted_of h (by
          intro x hx
          rcases List.mem_cons.1 hx with rfl | hx
          · exact hlt
          · exact keyLt_trans hlt (hc.2 x hx))
      · rename_i hne hlt
        refine smSorted_of (ih hc.1) ?_
        intro x hx
        rcases smPut_mem hx with rfl | hx
        · exact keyLt_total hne (by simpa using hlt)
        · exact hc.2 x hx

/-- Every map operation keeps the canonical form. -/
theorem smSet_wf [DecidableEq α] (d : α) (m : SMap α) (k : Key) (v : α) (h : smWf d m = true) :
    smWf d (smSet d m k v) = true := by
  simp only [smWf, Bool.and_eq_true, List.all_eq_true, decide_eq_true_eq] at *
  unfold smSet
  split
  · exact ⟨smDel_sorted k h.1, fun x hx => h.2 x ((List.mem_filter.1 hx).1)⟩
  · rename_i hv
    refine ⟨smPut_sorted k v h.1, fun x hx => ?_⟩
    rcases smPut_mem hx with rfl | hx
    · exact hv
    · exact h.2 x hx

/-- A map cut down to the keys a test keeps. -/
theorem smFind_filter (m : SMap α) (p : Key → Bool) (k : Key) :
    smFind (m.filter (fun e => p e.1)) k = if p k then smFind m k else none := by
  induction m with
  | nil => simp [smFind]
  | cons e r ih =>
    obtain ⟨k', v'⟩ := e
    by_cases hp : p k' = true
    · by_cases h : k' = k
      · subst h; simp [hp, smFind]
      · simp [hp, smFind, h, ih]
    · by_cases h : k' = k
      · subst h; simp [hp, ih]
      · simp [hp, smFind, h, ih]

/-! ### Byte memories -/

/-- The canonical form, said of every cell: addresses rise and no byte is 0. -/
theorem memWf_cons {e : Nat × Byte} {r : Mem} :
    memWf (e :: r) = true ↔ e.2 ≠ 0#8 ∧ memWf r = true ∧ ∀ x ∈ r, e.1 < x.1 := by
  induction r generalizing e with
  | nil => simp [memWf, bne_iff_ne]
  | cons b r ih =>
    have hb := @ih b
    simp only [memWf, Bool.and_eq_true, bne_iff_ne, decide_eq_true_eq]
    constructor
    · rintro ⟨⟨h1, h2⟩, h3⟩
      refine ⟨h1, h3, ?_⟩
      intro x hx
      rcases List.mem_cons.1 hx with rfl | hx
      · exact h2
      · exact Nat.lt_trans h2 ((hb.1 h3).2.2 x hx)
    · rintro ⟨h1, h2, h3⟩
      exact ⟨⟨h1, h3 b (by simp)⟩, h2⟩

theorem memPut_mem {m : Mem} {a : Nat} {b : Byte} {x : Nat × Byte} (h : x ∈ memPut m a b) : x = (a, b) ∨ x ∈ m := by
  induction m with
  | nil =>
    simp only [memPut] at h
    split at h
    · simp at h
    · simpa using h
  | cons e r ih =>
    obtain ⟨a', b'⟩ := e
    simp only [memPut] at h
    split at h
    · split at h
      · exact .inr (List.mem_cons_of_mem _ h)
      · rcases List.mem_cons.1 h with h | h
        · exact .inl h
        · exact .inr (List.mem_cons_of_mem _ h)
    · split at h
      · split at h
        · exact .inr h
        · rcases List.mem_cons.1 h with h | h
          · exact .inl h
          · exact .inr h
      · rcases List.mem_cons.1 h with h | h
        · exact .inr (by simp [h])
        · rcases ih h with h | h
          · exact .inl h
          · exact .inr (List.mem_cons_of_mem _ h)

/-- A byte write keeps the canonical form. -/
theorem memPut_wf {m : Mem} (a : Nat) (b : Byte) (h : memWf m = true) : memWf (memPut m a b) = true := by
  induction m with
  | nil =>
    simp only [memPut]
    split
    · rfl
    · simp [memWf, bne_iff_ne, *]
  | cons e r ih =>
    obtain ⟨a', b'⟩ := e
    have hc := memWf_cons.1 h
    simp only [memPut]
    split
    · rename_i ha; subst ha
      split
      · exact hc.2.1
      · exact memWf_cons.2 ⟨by simpa, hc.2.1, hc.2.2⟩
    · split
      · rename_i hlt
        split
        · exact h
        · refine memWf_cons.2 ⟨by simpa, h, ?_⟩
          intro x hx
          rcases List.mem_cons.1 hx with rfl | hx
          · exact hlt
          · exact Nat.lt_trans hlt (hc.2.2 x hx)
      · rename_i hne hlt
        refine memWf_cons.2 ⟨hc.1, ih hc.2.1, ?_⟩
        intro x hx
        rcases memPut_mem hx with rfl | hx
        · simp only; omega
        · exact hc.2.2 x hx

/-- Every write of bytes keeps the canonical form. -/
theorem memPutAll_wf {m : Mem} (a : Nat) (p : List Byte) (h : memWf m = true) : memWf (memPutAll m a p) = true := by
  induction p generalizing m a with
  | nil => exact h
  | cons b r ih => exact ih _ (memPut_wf a b h)

theorem memByte_below {m : Mem} {a : Nat} (h : ∀ x ∈ m, a < x.1) : memByte m a = 0#8 := by
  induction m with
  | nil => rfl
  | cons e r ih =>
    obtain ⟨a', b'⟩ := e
    have : a < a' := h (a', b') (by simp)
    rw [memByte, if_neg (by omega)]
    exact ih (fun x hx => h x (List.mem_cons_of_mem _ hx))

/-- The byte at the address written is the byte written. -/
theorem memByte_memPut_same {m : Mem} (a : Nat) (b : Byte) (h : memWf m = true) : memByte (memPut m a b) a = b := by
  induction m with
  | nil =>
    simp only [memPut]
    split <;> simp_all [memByte]
  | cons e r ih =>
    obtain ⟨a', b'⟩ := e
    have hc := memWf_cons.1 h
    simp only [memPut]
    split
    · rename_i ha; subst ha
      split
      · rename_i hb; rw [hb]; exact memByte_below hc.2.2
      · simp [memByte]
    · split
      · rename_i hne hlt
        split
        · rename_i hb
          rw [hb, memByte, if_neg (by omega)]
          exact memByte_below (fun x hx => Nat.lt_trans hlt (hc.2.2 x hx))
        · simp [memByte]
      · rename_i hne hlt
        rw [memByte, if_neg hne]
        exact ih hc.2.1

/-- A byte write leaves every other address alone. -/
theorem memByte_memPut_other {m : Mem} {a a2 : Nat} (b : Byte) (hne : a ≠ a2) : memByte (memPut m a b) a2 = memByte m a2 := by
  induction m with
  | nil =>
    simp only [memPut]
    split <;> simp [memByte, hne]
  | cons e r ih =>
    obtain ⟨a', b'⟩ := e
    simp only [memPut]
    split
    · rename_i ha; subst ha
      split <;> simp [memByte, hne]
    · split
      · split <;> simp [memByte, hne]
      · simp only [memByte, ih]

/-- Bytes outside those written are unchanged. -/
theorem memByte_memPutAll_other {m : Mem} {a a2 : Nat} (p : List Byte) (h : a2 < a ∨ a + p.length ≤ a2) :
    memByte (memPutAll m a p) a2 = memByte m a2 := by
  induction p generalizing m a with
  | nil => rfl
  | cons b r ih =>
    simp only [List.length_cons] at h
    rw [memPutAll, ih (by omega), memByte_memPut_other b (by omega)]

/-- Bytes written read back. -/
theorem memByte_memPutAll_same {m : Mem} {a : Nat} (p : List Byte) (i : Nat) (hi : i < p.length) (h : memWf m = true) :
    memByte (memPutAll m a p) (a + i) = p[i] := by
  induction p generalizing m a i with
  | nil => simp at hi
  | cons b r ih =>
    cases i with
    | zero =>
      rw [memPutAll, memByte_memPutAll_other r (by omega)]
      simpa using memByte_memPut_same a b h
    | succ i =>
      have := @ih (memPut m a b) (a + 1) i (by simpa using hi) (memPut_wf a b h)
      rw [memPutAll]
      simpa [Nat.add_assoc, Nat.add_comm 1 i] using this

end Sys2Proof.Machine
end

