-- ==== Sys2Proof/Laws/Kept.lean ====
section
/-! SUPPORT. What every operation of the complex keeps, whatever it does: the queue of waiting commands, the canonical
form of the byte memories, legal codes in the registers that hold a mode, and the log of outputs, which only grows. One
lemma per operation stands in the files beside this one; each says that the operation may follow any history. -/

namespace Sys2Proof.Machine

set_option Elab.async false
set_option linter.all false

/-- The numbers of the fields that hold a mode. -/
def modeNums : List Nat := [428, 93, 239, 281, 314, 168, 169, 207, 389]

theorem modeNums_eq : modeFields.map (fun e => e.1.num) = modeNums := by decide

/-- Whatever led from `s` to `t`: the queue is the same, outputs were only added, free values only used up, and the
invariants carried over. -/
structure Kept (s t : State) : Prop where
  pending : t.pending = s.pending
  out : s.out <:+ t.out
  free : s.freeCtr ≤ t.freeCtr
  mem : Memory.wf s = true → Memory.wf t = true
  modes : s.modes → t.modes

namespace Kept

@[simp] theorem refl (s : State) : Kept s s := ⟨rfl, List.suffix_refl _, Nat.le_refl _, id, id⟩

theorem trans {s t u : State} (h1 : Kept s t) (h2 : Kept t u) : Kept s u :=
  ⟨h2.pending.trans h1.pending, h1.out.trans h2.out, Nat.le_trans h1.free h2.free, fun h => h2.mem (h1.mem h),
    fun h => h2.modes (h1.modes h)⟩

/-- A state that agrees in the queue, the outputs, the free values, the memories and the register fields. -/
theorem other {s t u : State} (h : Kept s t) (h1 : u.pending = t.pending) (h2 : u.out = t.out) (h3 : u.freeCtr = t.freeCtr)
    (h4 : u.hostMem = t.hostMem) (h5 : u.scratch = t.scratch) (h6 : u.fields = t.fields) : Kept s u := by
  refine h.trans ⟨h1, by simp [h2], by simp [h3], ?_, ?_⟩
  · intro w; simpa [Memory.wf, h4, h5] using w
  · intro w e he i; simpa [State.rd, h6] using w e he i

theorem ite {s a b : State} {c : Prop} [Decidable c] (h1 : c → Kept s a) (h2 : ¬c → Kept s b) : Kept s (if c then a else b) := by
  split
  · exact h1 ‹_›
  · exact h2 ‹_›

theorem foldl {α : Type} {s t : State} {l : List α} {f : State → α → State} (h : Kept s t)
    (hf : ∀ u, Kept s u → ∀ x ∈ l, Kept s (f u x)) : Kept s (l.foldl f t) := by
  induction l generalizing t with
  | nil => exact h
  | cons a r ih =>
    exact ih (hf _ h a (by simp)) (fun u hu x hx => hf u hu x (List.mem_cons_of_mem _ hx))

/-- The first part of a pair. -/
theorem fst {α : Type} {s : State} {p : State × α} {t : State} {a : α} (h : Kept s p.1) (e : p = (t, a)) : Kept s t := by
  rw [e] at h; exact h

theorem snd {α : Type} {s : State} {p : α × State} {t : State} {a : α} (h : Kept s p.2) (e : p = (a, t)) : Kept s t := by
  rw [e] at h; exact h

theorem modeNum_mem {e : Fld × Nat} (h : e ∈ modeFields) : e.1.num ∈ modeNums := by
  rw [← modeNums_eq]; exact List.mem_map_of_mem (f := fun (e : Fld × Nat) => e.1.num) h

theorem mode_unique : ∀ a ∈ modeFields, ∀ b ∈ modeFields, a.1.num = b.1.num → a = b := by decide

/-- A write of a register field that holds no mode. -/
theorem wr {s t : State} (h : Kept s t) {f : Fld} {i v : Nat} (hf : f.num ∉ modeNums) : Kept s (t.wr f i v) := by
  refine h.trans ⟨rfl, List.suffix_refl _, Nat.le_refl _, id, ?_⟩
  intro w e he j
  have hk : (f.num, i) ≠ (e.1.num, j) := fun hk => hf (by
    rw [show f.num = e.1.num from congrArg Prod.fst hk]; exact modeNum_mem he)
  have : (t.wr f i v).rd e.1 j = t.rd e.1 j := smGet_smSet_other _ _ _ _ hk
  rw [this]; exact w e he j

/-- A write of a mode's register with a legal code. -/
theorem wrMode {s t : State} (h : Kept s t) {f : Fld} {i v : Nat} (b : Nat) (hf : (f, b) ∈ modeFields) (hv : v ≤ b) :
    Kept s (t.wr f i v) := by
  refine h.trans ⟨rfl, List.suffix_refl _, Nat.le_refl _, id, ?_⟩
  intro w e he j
  by_cases hk : (f.num, i) = (e.1.num, j)
  · have hfe := mode_unique _ hf _ he (congrArg Prod.fst hk)
    subst hfe
    have hij : i = j := congrArg Prod.snd hk
    subst hij
    have : (t.wr f i v).rd f i = v % 2 ^ f.w := smGet_smSet_same _ _ _ _
    rw [this]
    exact Nat.le_trans (Nat.mod_le _ _) hv
  · have : (t.wr f i v).rd e.1 j = t.rd e.1 j := smGet_smSet_other _ _ _ _ hk
    rw [this]; exact w e he j

/-- A write of the value a mode's register holds. -/
theorem wrSame {s t : State} (h : Kept s t) {f : Fld} {i : Nat} (b : Nat) (hf : (f, b) ∈ modeFields) :
    Kept s (t.wr f i (t.rd f i)) := by
  refine h.trans ⟨rfl, List.suffix_refl _, Nat.le_refl _, id, ?_⟩
  intro w
  exact (wrMode (refl t) (f := f) (i := i) b hf (w _ hf i)).modes w

/-- Outputs are added. -/
theorem emit {s t : State} (h : Kept s t) (o : Output) : Kept s (t.emit o) :=
  h.trans ⟨rfl, ⟨[o], rfl⟩, Nat.le_refl _, id, id⟩

theorem tickFree {s t : State} (h : Kept s t) : Kept s t.tickFree :=
  h.trans ⟨rfl, List.suffix_refl _, Nat.le_succ _, id, id⟩

/-- Host memory keeps its canonical form under every write. -/
theorem hostWrite {s t : State} (h : Kept s t) (a : Nat) (p : List Byte) : Kept s (t.hostWrite a p) := by
  refine h.trans ⟨rfl, List.suffix_refl _, Nat.le_refl _, ?_, id⟩
  intro w
  simp only [Memory.wf, Bool.and_eq_true] at *
  exact ⟨memPutAll_wf a p w.1, w.2⟩

/-- Scratch memory keeps its canonical form under every write. -/
theorem scratchWrite {s t u : State} (h : Kept s t) {a : Nat} {p : List Byte} (h1 : u.pending = t.pending)
    (h2 : u.out = t.out) (h3 : u.freeCtr = t.freeCtr) (h4 : u.hostMem = t.hostMem)
    (h5 : u.scratch = memPutAll t.scratch a p) (h6 : u.fields = t.fields) : Kept s u := by
  refine h.trans ⟨h1, by simp [h2], by simp [h3], ?_, ?_⟩
  · intro w
    simp only [Memory.wf, Bool.and_eq_true, h4, h5] at *
    exact ⟨w.1, memPutAll_wf a p w.2⟩
  · intro w e he i; simpa [State.rd, h6] using w e he i

/-- Free values used up, nothing else of these changed. -/
theorem freeStep {s t u : State} (h : Kept s t) (h1 : u.pending = t.pending) (h2 : u.out = t.out) (h3 : t.freeCtr ≤ u.freeCtr)
    (h4 : u.hostMem = t.hostMem) (h5 : u.scratch = t.scratch) (h6 : u.fields = t.fields) : Kept s u := by
  refine h.trans ⟨h1, by simp [h2], h3, ?_, ?_⟩
  · intro w; simpa [Memory.wf, h4, h5] using w
  · intro w e he i; simpa [State.rd, h6] using w e he i

/-- An update of components that are none of these. -/
theorem mk_other {s t : State} (h : Kept s t) {x0 x1 x2 x3 x4 x5 x6 x7 x8 x9 x10 x11 x12 x13 x14 x15 x16 x17 x18 x19
      x20 x21 x22 x23 x24 x25 x26 x27 x28 x29 x30 x31 x32 x33 x34} :
    Kept s {
      pending := t.pending, freeCtr := t.freeCtr, out := t.out, hostMem := t.hostMem, scratch := t.scratch,
      fields := t.fields, bnd := x0, tb := x1, doms := x2, sents := x3, hostSleep := x4, trees := x5, slots := x6,
      rings := x7, evqs := x8, doorbells := x9, cp := x10, terms := x11, flows := x12, reasms := x13, bprofs := x14,
      treeUs := x15, allocs := x16, sluTrees := x17, sluUnits := x18, sluShared := x19, slu := x20, buf := x21,
      tabs := x22, counts := x23, fabLinks := x24, fab := x25, prots := x26, engs := x27, tel := x28, errLog := x29,
      errOvf := x30, upsets := x34, chans := x31, rakeLast := x32, mon := x33 } :=
  other h rfl rfl rfl rfl rfl rfl

/-- Such an update that also uses up free values. -/
theorem mk_free {s t : State} (h : Kept s t) {n x0 x1 x2 x3 x4 x5 x6 x7 x8 x9 x10 x11 x12 x13 x14 x15 x16 x17 x18 x19
      x20 x21 x22 x23 x24 x25 x26 x27 x28 x29 x30 x31 x32 x33 x34} :
    Kept s {
      pending := t.pending, freeCtr := t.freeCtr + n, out := t.out, hostMem := t.hostMem, scratch := t.scratch,
      fields := t.fields, bnd := x0, tb := x1, doms := x2, sents := x3, hostSleep := x4, trees := x5, slots := x6,
      rings := x7, evqs := x8, doorbells := x9, cp := x10, terms := x11, flows := x12, reasms := x13, bprofs := x14,
      treeUs := x15, allocs := x16, sluTrees := x17, sluUnits := x18, sluShared := x19, slu := x20, buf := x21,
      tabs := x22, counts := x23, fabLinks := x24, fab := x25, prots := x26, engs := x27, tel := x28, errLog := x29,
      errOvf := x30, upsets := x34, chans := x31, rakeLast := x32, mon := x33 } :=
  freeStep h rfl rfl (Nat.le_add_right _ _) rfl rfl rfl

/-- Such an update that also writes scratch memory. -/
theorem mk_scratch {s t : State} (h : Kept s t) {a p x0 x1 x2 x3 x4 x5 x6 x7 x8 x9 x10 x11 x12 x13 x14 x15 x16 x17 x18 x19
      x20 x21 x22 x23 x24 x25 x26 x27 x28 x29 x30 x31 x32 x33 x34} :
    Kept s {
      pending := t.pending, freeCtr := t.freeCtr, out := t.out, hostMem := t.hostMem, scratch := memPutAll t.scratch a p,
      fields := t.fields, bnd := x0, tb := x1, doms := x2, sents := x3, hostSleep := x4, trees := x5, slots := x6,
      rings := x7, evqs := x8, doorbells := x9, cp := x10, terms := x11, flows := x12, reasms := x13, bprofs := x14,
      treeUs := x15, allocs := x16, sluTrees := x17, sluUnits := x18, sluShared := x19, slu := x20, buf := x21,
      tabs := x22, counts := x23, fabLinks := x24, fab := x25, prots := x26, engs := x27, tel := x28, errLog := x29,
      errOvf := x30, upsets := x34, chans := x31, rakeLast := x32, mon := x33 } :=
  scratchWrite h rfl rfl rfl rfl rfl rfl

theorem mode_reset : ∀ e ∈ modeFields, ∀ i, e.1.resetAt i ≤ e.2 := by
  intro e he i
  have h1 : ∀ e ∈ modeFields, e.1.num ≠ F.DMA_CHn_CTL.PORT.num ∧ e.1.num ≠ F.PWR_Dd_IDLE.IDLE_US.num ∧ e.1.reset ≤ e.2 := by
    decide
  have h2 := h1 e he
  rw [Fld.resetAt, if_neg h2.1, if_neg h2.2.1]
  exact h2.2.2

/-- Registers that go back to their reset values keep legal modes. -/
theorem modes_cut {s : State} {p : Key → Bool} (h : s.modes) :
    ∀ e ∈ modeFields, ∀ i, smGet (e.1.resetAt i) (s.fields.filter (fun x => p x.1)) (e.1.num, i) ≤ e.2 := by
  intro e he i
  unfold smGet
  rw [smFind_filter]
  split
  · exact h e he i
  · exact mode_reset e he i

/-- Some registers go back to their reset values; anything else but the memories, the queue and the outputs may change. -/
theorem cutFields {s t u : State} (h : Kept s t) (p : Key → Bool) (h1 : u.pending = t.pending) (h2 : u.out = t.out)
    (h3 : u.freeCtr = t.freeCtr) (h4 : u.hostMem = t.hostMem) (h5 : u.scratch = t.scratch)
    (h6 : u.fields = t.fields.filter (fun x => p x.1)) : Kept s u := by
  refine h.trans ⟨h1, by simp [h2], by simp [h3], ?_, ?_⟩
  · intro w; simpa [Memory.wf, h4, h5] using w
  · intro w e he i
    have := modes_cut (p := p) w e he i
    simpa [State.rd, h6] using this

theorem notMode_of_mem_fst {α : Type} {l : List (Fld × α)} {e : Fld × α} (hm : e ∈ l)
    (hl : (l.map Prod.fst).all (fun f => decide (f.num ∉ modeNums)) = true) : e.1.num ∉ modeNums := by
  simpa using List.all_eq_true.1 hl e.1 (List.mem_map_of_mem hm)

theorem notMode_of_mem {l : List Fld} {f : Fld} (hm : f ∈ l) (hl : l.all (fun f => decide (f.num ∉ modeNums)) = true) :
    f.num ∉ modeNums := by
  simpa using List.all_eq_true.1 hl f hm

end Kept

end Sys2Proof.Machine
end

