-- ==== Sys2Proof/Laws/KeptOps.lean ====
section
/-! SUPPORT. What the operations of Ops keep (Laws/Kept.lean). -/

namespace Sys2Proof.Machine

set_option Elab.async false
set_option linter.all false

theorem Kept.wrB {s0 s : State} {f : Fld} {i : Nat} {b : Bool} (hk0 : Kept s0 s) (hf : f.num ∉ modeNums) :
    Kept s0 (State.wrB s f i b) := by
  unfold State.wrB
  try dsimp only
  repeat' first
    | (with_reducible assumption)
    | (split)
    | (with_reducible refine Kept.foldl ?_ ?_)
    | decide
    | (intro u hu x hx)
    | (intro u hu)
    | (refine Kept.notMode_of_mem (by with_reducible assumption) (by decide))
    | (with_reducible refine Kept.wr ?_ (by first | decide | with_reducible assumption | exact Kept.notMode_of_mem (by with_reducible assumption) (by decide) | exact Kept.notMode_of_mem_fst (by with_reducible assumption) (by with_unfolding_all rfl)))
    | (with_reducible refine Kept.wrMode ?_ 4 (by decide) (by first | decide | with_reducible assumption))
    | (with_reducible refine Kept.wrMode ?_ 5 (by decide) (by first | decide | with_reducible assumption))
    | (with_reducible refine Kept.wrMode ?_ 8 (by decide) (by first | decide | with_reducible assumption))
    | (with_reducible apply Kept.emit)
    | decide

theorem Kept.incSat {s0 s : State} {f : Fld} {i : Nat} {n : Nat} (hk0 : Kept s0 s) (hf : f.num ∉ modeNums) :
    Kept s0 (State.incSat s f i n) := by
  unfold State.incSat
  try dsimp only
  repeat' first
    | (with_reducible assumption)
    | (split)
    | (with_reducible refine Kept.foldl ?_ ?_)
    | decide
    | (intro u hu x hx)
    | (intro u hu)
    | (refine Kept.notMode_of_mem (by with_reducible assumption) (by decide))
    | (with_reducible refine Kept.wr ?_ (by first | decide | with_reducible assumption | exact Kept.notMode_of_mem (by with_reducible assumption) (by decide) | exact Kept.notMode_of_mem_fst (by with_reducible assumption) (by with_unfolding_all rfl)))
    | (with_reducible refine Kept.wrMode ?_ 4 (by decide) (by first | decide | with_reducible assumption))
    | (with_reducible refine Kept.wrMode ?_ 5 (by decide) (by first | decide | with_reducible assumption))
    | (with_reducible refine Kept.wrMode ?_ 8 (by decide) (by first | decide | with_reducible assumption))
    | (with_reducible apply Kept.emit)
    | decide

theorem Kept.incWrap {s0 s : State} {f : Fld} {i : Nat} {n : Nat} (hk0 : Kept s0 s) (hf : f.num ∉ modeNums) :
    Kept s0 (State.incWrap s f i n) := by
  unfold State.incWrap
  try dsimp only
  repeat' first
    | (with_reducible assumption)
    | (split)
    | (with_reducible refine Kept.foldl ?_ ?_)
    | decide
    | (intro u hu x hx)
    | (intro u hu)
    | (refine Kept.notMode_of_mem (by with_reducible assumption) (by decide))
    | (with_reducible refine Kept.wr ?_ (by first | decide | with_reducible assumption | exact Kept.notMode_of_mem (by with_reducible assumption) (by decide) | exact Kept.notMode_of_mem_fst (by with_reducible assumption) (by with_unfolding_all rfl)))
    | (with_reducible refine Kept.wrMode ?_ 4 (by decide) (by first | decide | with_reducible assumption))
    | (with_reducible refine Kept.wrMode ?_ 5 (by decide) (by first | decide | with_reducible assumption))
    | (with_reducible refine Kept.wrMode ?_ 8 (by decide) (by first | decide | with_reducible assumption))
    | (with_reducible apply Kept.emit)
    | decide

theorem Kept.putBnd {s0 s : State} {x : Boundary} (hk0 : Kept s0 s) :
    Kept s0 (State.putBnd s x) := by
  unfold State.putBnd
  try dsimp only
  repeat' first
    | (with_reducible assumption)
    | (split)
    | (with_reducible refine Kept.foldl ?_ ?_)
    | decide
    | (intro u hu x hx)
    | (intro u hu)
    | (refine Kept.notMode_of_mem (by with_reducible assumption) (by decide))
    | (with_reducible apply Kept.emit)
    | (with_reducible refine Kept.mk_other ?_)
    | decide

theorem Kept.putTb {s0 s : State} {x : Timebase} (hk0 : Kept s0 s) :
    Kept s0 (State.putTb s x) := by
  unfold State.putTb
  try dsimp only
  repeat' first
    | (with_reducible assumption)
    | (split)
    | (with_reducible refine Kept.foldl ?_ ?_)
    | decide
    | (intro u hu x hx)
    | (intro u hu)
    | (refine Kept.notMode_of_mem (by with_reducible assumption) (by decide))
    | (with_reducible apply Kept.emit)
    | (with_reducible refine Kept.mk_other ?_)
    | decide

theorem Kept.putDoms {s0 s : State} {x : SMap PowerDom} (hk0 : Kept s0 s) :
    Kept s0 (State.putDoms s x) := by
  unfold State.putDoms
  try dsimp only
  repeat' first
    | (with_reducible assumption)
    | (split)
    | (with_reducible refine Kept.foldl ?_ ?_)
    | decide
    | (intro u hu x hx)
    | (intro u hu)
    | (refine Kept.notMode_of_mem (by with_reducible assumption) (by decide))
    | (with_reducible apply Kept.emit)
    | (with_reducible refine Kept.mk_other ?_)
    | decide

theorem Kept.putSents {s0 s : State} {x : SMap Sentinel} (hk0 : Kept s0 s) :
    Kept s0 (State.putSents s x) := by
  unfold State.putSents
  try dsimp only
  repeat' first
    | (with_reducible assumption)
    | (split)
    | (with_reducible refine Kept.foldl ?_ ?_)
    | decide
    | (intro u hu x hx)
    | (intro u hu)
    | (refine Kept.notMode_of_mem (by with_reducible assumption) (by decide))
    | (with_reducible apply Kept.emit)
    | (with_reducible refine Kept.mk_other ?_)
    | decide

theorem Kept.putDoorbells {s0 s : State} {x : List PendingDb} (hk0 : Kept s0 s) :
    Kept s0 (State.putDoorbells s x) := by
  unfold State.putDoorbells
  try dsimp only
  repeat' first
    | (with_reducible assumption)
    | (split)
    | (with_reducible refine Kept.foldl ?_ ?_)
    | decide
    | (intro u hu x hx)
    | (intro u hu)
    | (refine Kept.notMode_of_mem (by with_reducible assumption) (by decide))
    | (with_reducible apply Kept.emit)
    | (with_reducible refine Kept.mk_other ?_)
    | decide

theorem Kept.putCp {s0 s : State} {x : CpState} (hk0 : Kept s0 s) :
    Kept s0 (State.putCp s x) := by
  unfold State.putCp
  try dsimp only
  repeat' first
    | (with_reducible assumption)
    | (split)
    | (with_reducible refine Kept.foldl ?_ ?_)
    | decide
    | (intro u hu x hx)
    | (intro u hu)
    | (refine Kept.notMode_of_mem (by with_reducible assumption) (by decide))
    | (with_reducible apply Kept.emit)
    | (with_reducible refine Kept.mk_other ?_)
    | decide

theorem Kept.putTerms {s0 s : State} {x : SMap Term} (hk0 : Kept s0 s) :
    Kept s0 (State.putTerms s x) := by
  unfold State.putTerms
  try dsimp only
  repeat' first
    | (with_reducible assumption)
    | (split)
    | (with_reducible refine Kept.foldl ?_ ?_)
    | decide
    | (intro u hu x hx)
    | (intro u hu)
    | (refine Kept.notMode_of_mem (by with_reducible assumption) (by decide))
    | (with_reducible apply Kept.emit)
    | (with_reducible refine Kept.mk_other ?_)
    | decide

theorem Kept.putFlows {s0 s : State} {x : SMap Flow} (hk0 : Kept s0 s) :
    Kept s0 (State.putFlows s x) := by
  unfold State.putFlows
  try dsimp only
  repeat' first
    | (with_reducible assumption)
    | (split)
    | (with_reducible refine Kept.foldl ?_ ?_)
    | decide
    | (intro u hu x hx)
    | (intro u hu)
    | (refine Kept.notMode_of_mem (by with_reducible assumption) (by decide))
    | (with_reducible apply Kept.emit)
    | (with_reducible refine Kept.mk_other ?_)
    | decide

theorem Kept.putReasms {s0 s : State} {x : SMap Reasm} (hk0 : Kept s0 s) :
    Kept s0 (State.putReasms s x) := by
  unfold State.putReasms
  try dsimp only
  repeat' first
    | (with_reducible assumption)
    | (split)
    | (with_reducible refine Kept.foldl ?_ ?_)
    | decide
    | (intro u hu x hx)
    | (intro u hu)
    | (refine Kept.notMode_of_mem (by with_reducible assumption) (by decide))
    | (with_reducible apply Kept.emit)
    | (with_reducible refine Kept.mk_other ?_)
    | decide

theorem Kept.putBprofs {s0 s : State} {x : SMap BurstSlot} (hk0 : Kept s0 s) :
    Kept s0 (State.putBprofs s x) := by
  unfold State.putBprofs
  try dsimp only
  repeat' first
    | (with_reducible assumption)
    | (split)
    | (with_reducible refine Kept.foldl ?_ ?_)
    | decide
    | (intro u hu x hx)
    | (intro u hu)
    | (refine Kept.notMode_of_mem (by with_reducible assumption) (by decide))
    | (with_reducible apply Kept.emit)
    | (with_reducible refine Kept.mk_other ?_)
    | decide

theorem Kept.putAllocs {s0 s : State} {x : SMap Alloc} (hk0 : Kept s0 s) :
    Kept s0 (State.putAllocs s x) := by
  unfold State.putAllocs
  try dsimp only
  repeat' first
    | (with_reducible assumption)
    | (split)
    | (with_reducible refine Kept.foldl ?_ ?_)
    | decide
    | (intro u hu x hx)
    | (intro u hu)
    | (refine Kept.notMode_of_mem (by with_reducible assumption) (by decide))
    | (with_reducible apply Kept.emit)
    | (with_reducible refine Kept.mk_other ?_)
    | decide

theorem Kept.putSluTrees {s0 s : State} {x : SMap SluTree} (hk0 : Kept s0 s) :
    Kept s0 (State.putSluTrees s x) := by
  unfold State.putSluTrees
  try dsimp only
  repeat' first
    | (with_reducible assumption)
    | (split)
    | (with_reducible refine Kept.foldl ?_ ?_)
    | decide
    | (intro u hu x hx)
    | (intro u hu)
    | (refine Kept.notMode_of_mem (by with_reducible assumption) (by decide))
    | (with_reducible apply Kept.emit)
    | (with_reducible refine Kept.mk_other ?_)
    | decide

theorem Kept.putSluUnits {s0 s : State} {x : SMap SluUnit} (hk0 : Kept s0 s) :
    Kept s0 (State.putSluUnits s x) := by
  unfold State.putSluUnits
  try dsimp only
  repeat' first
    | (with_reducible assumption)
    | (split)
    | (with_reducible refine Kept.foldl ?_ ?_)
    | decide
    | (intro u hu x hx)
    | (intro u hu)
    | (refine Kept.notMode_of_mem (by with_reducible assumption) (by decide))
    | (with_reducible apply Kept.emit)
    | (with_reducible refine Kept.mk_other ?_)
    | decide

theorem Kept.putSlu {s0 s : State} {x : Sluice} (hk0 : Kept s0 s) :
    Kept s0 (State.putSlu s x) := by
  unfold State.putSlu
  try dsimp only
  repeat' first
    | (with_reducible assumption)
    | (split)
    | (with_reducible refine Kept.foldl ?_ ?_)
    | decide
    | (intro u hu x hx)
    | (intro u hu)
    | (refine Kept.notMode_of_mem (by with_reducible assumption) (by decide))
    | (with_reducible apply Kept.emit)
    | (with_reducible refine Kept.mk_other ?_)
    | decide

theorem Kept.putBuf {s0 s : State} {x : Buffers} (hk0 : Kept s0 s) :
    Kept s0 (State.putBuf s x) := by
  unfold State.putBuf
  try dsimp only
  repeat' first
    | (with_reducible assumption)
    | (split)
    | (with_reducible refine Kept.foldl ?_ ?_)
    | decide
    | (intro u hu x hx)
    | (intro u hu)
    | (refine Kept.notMode_of_mem (by with_reducible assumption) (by decide))
    | (with_reducible apply Kept.emit)
    | (with_reducible refine Kept.mk_other ?_)
    | decide

theorem Kept.putTabs {s0 s : State} {x : Tables} (hk0 : Kept s0 s) :
    Kept s0 (State.putTabs s x) := by
  unfold State.putTabs
  try dsimp only
  repeat' first
    | (with_reducible assumption)
    | (split)
    | (with_reducible refine Kept.foldl ?_ ?_)
    | decide
    | (intro u hu x hx)
    | (intro u hu)
    | (refine Kept.notMode_of_mem (by with_reducible assumption) (by decide))
    | (with_reducible apply Kept.emit)
    | (with_reducible refine Kept.mk_other ?_)
    | decide

theorem Kept.putFab {s0 s : State} {x : Fabric} (hk0 : Kept s0 s) :
    Kept s0 (State.putFab s x) := by
  unfold State.putFab
  try dsimp only
  repeat' first
    | (with_reducible assumption)
    | (split)
    | (with_reducible refine Kept.foldl ?_ ?_)
    | decide
    | (intro u hu x hx)
    | (intro u hu)
    | (refine Kept.notMode_of_mem (by with_reducible assumption) (by decide))
    | (with_reducible apply Kept.emit)
    | (with_reducible refine Kept.mk_other ?_)
    | decide

theorem Kept.putTel {s0 s : State} {x : SMap (List (List Byte))} (hk0 : Kept s0 s) :
    Kept s0 (State.putTel s x) := by
  unfold State.putTel
  try dsimp only
  repeat' first
    | (with_reducible assumption)
    | (split)
    | (with_reducible refine Kept.foldl ?_ ?_)
    | decide
    | (intro u hu x hx)
    | (intro u hu)
    | (refine Kept.notMode_of_mem (by with_reducible assumption) (by decide))
    | (with_reducible apply Kept.emit)
    | (with_reducible refine Kept.mk_other ?_)
    | decide

theorem Kept.putMon {s0 s : State} {x : Monitor} (hk0 : Kept s0 s) :
    Kept s0 (State.putMon s x) := by
  unfold State.putMon
  try dsimp only
  repeat' first
    | (with_reducible assumption)
    | (split)
    | (with_reducible refine Kept.foldl ?_ ?_)
    | decide
    | (intro u hu x hx)
    | (intro u hu)
    | (refine Kept.notMode_of_mem (by with_reducible assumption) (by decide))
    | (with_reducible apply Kept.emit)
    | (with_reducible refine Kept.mk_other ?_)
    | decide

theorem Kept.putUpsets {s0 s : State} {x : List Upset} (hk0 : Kept s0 s) :
    Kept s0 (State.putUpsets s x) := by
  unfold State.putUpsets
  try dsimp only
  repeat' first
    | (with_reducible assumption)
    | (split)
    | (with_reducible refine Kept.foldl ?_ ?_)
    | decide
    | (intro u hu x hx)
    | (intro u hu)
    | (refine Kept.notMode_of_mem (by with_reducible assumption) (by decide))
    | (with_reducible apply Kept.emit)
    | (with_reducible refine Kept.mk_other ?_)
    | decide

theorem Kept.upset {s0 s : State} {l : List Upset} (hk0 : Kept s0 s) :
    Kept s0 (State.upset s l) := by
  unfold State.upset
  try dsimp only
  repeat' first
    | (with_reducible assumption)
    | (split)
    | (with_reducible refine Kept.foldl ?_ ?_)
    | decide
    | (intro u hu x hx)
    | (intro u hu)
    | (refine Kept.notMode_of_mem (by with_reducible assumption) (by decide))
    | (with_reducible apply Kept.emit)
    | (with_reducible apply Kept.putUpsets)
    | decide

theorem Kept.rewrite {s0 s : State} {which : Upset → Bool} (hk0 : Kept s0 s) :
    Kept s0 (State.rewrite s which) := by
  unfold State.rewrite
  try dsimp only
  repeat' first
    | (with_reducible assumption)
    | (split)
    | (with_reducible refine Kept.foldl ?_ ?_)
    | decide
    | (intro u hu x hx)
    | (intro u hu)
    | (refine Kept.notMode_of_mem (by with_reducible assumption) (by decide))
    | (with_reducible apply Kept.emit)
    | (with_reducible apply Kept.putUpsets)
    | decide

theorem Kept.rewriteWord {s0 s : State} {mem : Nat} {inst : Nat} {addr : Nat} (hk0 : Kept s0 s) :
    Kept s0 (State.rewriteWord s mem inst addr) := by
  unfold State.rewriteWord
  try dsimp only
  repeat' first
    | (with_reducible assumption)
    | (split)
    | (with_reducible refine Kept.foldl ?_ ?_)
    | decide
    | (intro u hu x hx)
    | (intro u hu)
    | (refine Kept.notMode_of_mem (by with_reducible assumption) (by decide))
    | (with_reducible apply Kept.emit)
    | (with_reducible apply Kept.rewrite)
    | decide

end Sys2Proof.Machine
end

