-- ==== Sys2Proof/Laws/KeptFlags.lean ====
section
/-! SUPPORT. What the operations of Flags keep (Laws/Kept.lean). -/

namespace Sys2Proof.Machine

set_option Elab.async false
set_option linter.all false

theorem Kept.countFire {s0 s : State} (hk0 : Kept s0 s) :
    Kept s0 (State.countFire s) := by
  unfold State.countFire
  try dsimp only
  repeat' first
    | (with_reducible assumption)
    | (split)
    | (with_reducible refine Kept.foldl ?_ ?_)
    | decide
    | (intro u hu x hx)
    | (intro u hu)
    | (refine Kept.notMode_of_mem (by with_reducible assumption) (by decide))
    | (with_reducible refine Kept.wr ?_ (by first | decide | with_reducible assumption | exact Kept.notMode_of_mem (by with_reducible assumption) (by decide) | exact Kept.notMode_of_mem_fst (by with_reducible assumption) (by with_unfolding_all rfl)))
    | (with_reducible refine Kept.wrMode ?_ 4 (by decide) (by first | decide | with_reducible assumption))
    | (with_reducible refine Kept.wrMode ?_ 5 (by decide) (by first | decide | with_reducible assumption))
    | (with_reducible refine Kept.wrMode ?_ 8 (by decide) (by first | decide | with_reducible assumption))
    | decide

theorem Kept.fired {s0 s : State} {v : Nat} (hk0 : Kept s0 s) :
    Kept s0 (State.fired s v) := by
  unfold State.fired
  try dsimp only
  repeat' first
    | (with_reducible assumption)
    | (split)
    | (with_reducible refine Kept.foldl ?_ ?_)
    | decide
    | (intro u hu x hx)
    | (intro u hu)
    | (refine Kept.notMode_of_mem (by with_reducible assumption) (by decide))
    | (with_reducible refine Kept.wr ?_ (by first | decide | with_reducible assumption | exact Kept.notMode_of_mem (by with_reducible assumption) (by decide) | exact Kept.notMode_of_mem_fst (by with_reducible assumption) (by with_unfolding_all rfl)))
    | (with_reducible refine Kept.wrMode ?_ 4 (by decide) (by first | decide | with_reducible assumption))
    | (with_reducible refine Kept.wrMode ?_ 5 (by decide) (by first | decide | with_reducible assumption))
    | (with_reducible refine Kept.wrMode ?_ 8 (by decide) (by first | decide | with_reducible assumption))
    | (with_reducible apply Kept.emit)
    | (with_reducible apply Kept.countFire)
    | decide

theorem Kept.fireOnly {s0 s : State} {v : Nat} (hk0 : Kept s0 s) :
    Kept s0 (State.fireOnly s v) := by
  unfold State.fireOnly
  try dsimp only
  repeat' first
    | (with_reducible assumption)
    | (split)
    | (with_reducible refine Kept.foldl ?_ ?_)
    | decide
    | (intro u hu x hx)
    | (intro u hu)
    | (refine Kept.notMode_of_mem (by with_reducible assumption) (by decide))
    | (with_reducible refine Kept.wr ?_ (by first | decide | with_reducible assumption | exact Kept.notMode_of_mem (by with_reducible assumption) (by decide) | exact Kept.notMode_of_mem_fst (by with_reducible assumption) (by with_unfolding_all rfl)))
    | (with_reducible refine Kept.wrMode ?_ 4 (by decide) (by first | decide | with_reducible assumption))
    | (with_reducible refine Kept.wrMode ?_ 5 (by decide) (by first | decide | with_reducible assumption))
    | (with_reducible refine Kept.wrMode ?_ 8 (by decide) (by first | decide | with_reducible assumption))
    | (with_reducible apply Kept.emit)
    | (with_reducible apply Kept.fired)
    | decide

theorem Kept.eventBy {s0 s : State} {v : Nat} {g : State → Nat → State} (hk0 : Kept s0 s) (hg : ∀ u k, Kept s0 u → Kept s0 (g u k)) :
    Kept s0 (State.eventBy g s v) := by
  unfold State.eventBy
  try dsimp only
  repeat' first
    | (with_reducible assumption)
    | (split)
    | (with_reducible refine Kept.foldl ?_ ?_)
    | decide
    | (intro u hu x hx)
    | (intro u hu)
    | (refine Kept.notMode_of_mem (by with_reducible assumption) (by decide))
    | (with_reducible refine Kept.wr ?_ (by first | decide | with_reducible assumption | exact Kept.notMode_of_mem (by with_reducible assumption) (by decide) | exact Kept.notMode_of_mem_fst (by with_reducible assumption) (by with_unfolding_all rfl)))
    | (with_reducible refine Kept.wrMode ?_ 4 (by decide) (by first | decide | with_reducible assumption))
    | (with_reducible refine Kept.wrMode ?_ 5 (by decide) (by first | decide | with_reducible assumption))
    | (with_reducible refine Kept.wrMode ?_ 8 (by decide) (by first | decide | with_reducible assumption))
    | (with_reducible apply hg)
    | decide

theorem Kept.overflowEvent {s0 s : State} {was : Bool} (hk0 : Kept s0 s) :
    Kept s0 (State.overflowEvent s was) := by
  unfold State.overflowEvent
  try dsimp only
  repeat' first
    | (with_reducible assumption)
    | (split)
    | (with_reducible refine Kept.foldl ?_ ?_)
    | decide
    | (intro u k hu; with_reducible apply Kept.fireOnly)
    | (intro u hu x hx)
    | (intro u hu)
    | (refine Kept.notMode_of_mem (by with_reducible assumption) (by decide))
    | (with_reducible refine Kept.wr ?_ (by first | decide | with_reducible assumption | exact Kept.notMode_of_mem (by with_reducible assumption) (by decide) | exact Kept.notMode_of_mem_fst (by with_reducible assumption) (by with_unfolding_all rfl)))
    | (with_reducible refine Kept.wrMode ?_ 4 (by decide) (by first | decide | with_reducible assumption))
    | (with_reducible refine Kept.wrMode ?_ 5 (by decide) (by first | decide | with_reducible assumption))
    | (with_reducible refine Kept.wrMode ?_ 8 (by decide) (by first | decide | with_reducible assumption))
    | (with_reducible apply Kept.emit)
    | (with_reducible apply Kept.eventBy)
    | decide

theorem Kept.fire {s0 s : State} {v : Nat} (hk0 : Kept s0 s) :
    Kept s0 (State.fire s v) := by
  unfold State.fire
  try dsimp only
  repeat' first
    | (with_reducible assumption)
    | (split)
    | (with_reducible refine Kept.foldl ?_ ?_)
    | decide
    | (intro u hu x hx)
    | (intro u hu)
    | (refine Kept.notMode_of_mem (by with_reducible assumption) (by decide))
    | (with_reducible refine Kept.wr ?_ (by first | decide | with_reducible assumption | exact Kept.notMode_of_mem (by with_reducible assumption) (by decide) | exact Kept.notMode_of_mem_fst (by with_reducible assumption) (by with_unfolding_all rfl)))
    | (with_reducible refine Kept.wrMode ?_ 4 (by decide) (by first | decide | with_reducible assumption))
    | (with_reducible refine Kept.wrMode ?_ 5 (by decide) (by first | decide | with_reducible assumption))
    | (with_reducible refine Kept.wrMode ?_ 8 (by decide) (by first | decide | with_reducible assumption))
    | (with_reducible apply Kept.emit)
    | (with_reducible apply Kept.overflowEvent)
    | (with_reducible apply Kept.fireOnly)
    | decide

theorem Kept.vecEvent {s0 s : State} {v : Nat} (hk0 : Kept s0 s) :
    Kept s0 (State.vecEvent s v) := by
  unfold State.vecEvent
  try dsimp only
  repeat' first
    | (with_reducible assumption)
    | (split)
    | (with_reducible refine Kept.foldl ?_ ?_)
    | decide
    | (intro u k hu; with_reducible apply Kept.fire)
    | (intro u hu x hx)
    | (intro u hu)
    | (refine Kept.notMode_of_mem (by with_reducible assumption) (by decide))
    | (with_reducible refine Kept.wr ?_ (by first | decide | with_reducible assumption | exact Kept.notMode_of_mem (by with_reducible assumption) (by decide) | exact Kept.notMode_of_mem_fst (by with_reducible assumption) (by with_unfolding_all rfl)))
    | (with_reducible refine Kept.wrMode ?_ 4 (by decide) (by first | decide | with_reducible assumption))
    | (with_reducible refine Kept.wrMode ?_ 5 (by decide) (by first | decide | with_reducible assumption))
    | (with_reducible refine Kept.wrMode ?_ 8 (by decide) (by first | decide | with_reducible assumption))
    | (with_reducible apply Kept.eventBy)
    | decide

theorem Kept.srcEvent {s0 s : State} {src : Nat} (hk0 : Kept s0 s) :
    Kept s0 (State.srcEvent s src) := by
  unfold State.srcEvent
  try dsimp only
  repeat' first
    | (with_reducible assumption)
    | (split)
    | (with_reducible refine Kept.foldl ?_ ?_)
    | decide
    | (intro u hu x hx)
    | (intro u hu)
    | (refine Kept.notMode_of_mem (by with_reducible assumption) (by decide))
    | (with_reducible apply Kept.vecEvent)
    | decide

theorem Kept.raise {s0 s : State} {f : Fld} {i : Nat} {enabled : Bool} {src : Nat} (hk0 : Kept s0 s) (hf : f.num ∉ modeNums) :
    Kept s0 (State.raise s f i enabled src) := by
  unfold State.raise
  try dsimp only
  repeat' first
    | (with_reducible assumption)
    | (split)
    | (with_reducible refine Kept.foldl ?_ ?_)
    | decide
    | (intro u hu x hx)
    | (intro u hu)
    | (refine Kept.notMode_of_mem (by with_reducible assumption) (by decide))
    | (with_reducible refine Kept.wr ?_ (by first | decide | with_reducible assumption | exact Kept.notMode_of_mem (by with_reducible assumption) (by decide) | exact Kept.notMode_of_mem_fst (by with_reducible assumption) (by with_unfolding_all rfl)))
    | (with_reducible refine Kept.wrMode ?_ 4 (by decide) (by first | decide | with_reducible assumption))
    | (with_reducible refine Kept.wrMode ?_ 5 (by decide) (by first | decide | with_reducible assumption))
    | (with_reducible refine Kept.wrMode ?_ 8 (by decide) (by first | decide | with_reducible assumption))
    | (with_reducible apply Kept.srcEvent)
    | decide

theorem Kept.raiseEn {s0 s : State} {f : Fld} {i : Nat} {en : Fld} {src : Nat} (hk0 : Kept s0 s) (hf : f.num ∉ modeNums) (hen : en.num ∉ modeNums) :
    Kept s0 (State.raiseEn s f i en src) := by
  unfold State.raiseEn
  try dsimp only
  repeat' first
    | (with_reducible assumption)
    | (split)
    | (with_reducible refine Kept.foldl ?_ ?_)
    | decide
    | (intro u hu x hx)
    | (intro u hu)
    | (refine Kept.notMode_of_mem (by with_reducible assumption) (by decide))
    | (with_reducible apply Kept.raise)
    | decide

theorem Kept.treEvent {s0 s : State} {t : Nat} {f : Fld} (hk0 : Kept s0 s) (hf : f.num ∉ modeNums) :
    Kept s0 (State.treEvent s t f) := by
  unfold State.treEvent
  try dsimp only
  repeat' first
    | (with_reducible assumption)
    | (split)
    | (with_reducible refine Kept.foldl ?_ ?_)
    | decide
    | (intro u hu x hx)
    | (intro u hu)
    | (refine Kept.notMode_of_mem (by with_reducible assumption) (by decide))
    | (with_reducible apply Kept.raiseEn)
    | decide

theorem Kept.treUsEvent {s0 s : State} {t : Nat} {f : Fld} (hk0 : Kept s0 s) (hf : f.num ∉ modeNums) :
    Kept s0 (State.treUsEvent s t f) := by
  unfold State.treUsEvent
  try dsimp only
  repeat' first
    | (with_reducible assumption)
    | (split)
    | (with_reducible refine Kept.foldl ?_ ?_)
    | decide
    | (intro u hu x hx)
    | (intro u hu)
    | (refine Kept.notMode_of_mem (by with_reducible assumption) (by decide))
    | (with_reducible apply Kept.raiseEn)
    | decide

theorem Kept.tbEvent {s0 s : State} {f : Fld} (hk0 : Kept s0 s) (hf : f.num ∉ modeNums) :
    Kept s0 (State.tbEvent s f) := by
  unfold State.tbEvent
  try dsimp only
  repeat' first
    | (with_reducible assumption)
    | (split)
    | (with_reducible refine Kept.foldl ?_ ?_)
    | decide
    | (intro u hu x hx)
    | (intro u hu)
    | (refine Kept.notMode_of_mem (by with_reducible assumption) (by decide))
    | (with_reducible apply Kept.raise)
    | decide

theorem Kept.sluEvent {s0 s : State} {f : Fld} (hk0 : Kept s0 s) (hf : f.num ∉ modeNums) :
    Kept s0 (State.sluEvent s f) := by
  unfold State.sluEvent
  try dsimp only
  repeat' first
    | (with_reducible assumption)
    | (split)
    | (with_reducible refine Kept.foldl ?_ ?_)
    | decide
    | (intro u hu x hx)
    | (intro u hu)
    | (refine Kept.notMode_of_mem (by with_reducible assumption) (by decide))
    | (with_reducible apply Kept.raiseEn)
    | decide

theorem Kept.pwrEvent {s0 s : State} {f : Fld} (hk0 : Kept s0 s) (hf : f.num ∉ modeNums) :
    Kept s0 (State.pwrEvent s f) := by
  unfold State.pwrEvent
  try dsimp only
  repeat' first
    | (with_reducible assumption)
    | (split)
    | (with_reducible refine Kept.foldl ?_ ?_)
    | decide
    | (intro u hu x hx)
    | (intro u hu)
    | (refine Kept.notMode_of_mem (by with_reducible assumption) (by decide))
    | (with_reducible apply Kept.raiseEn)
    | decide

theorem Kept.fabEvent {s0 s : State} {f : Fld} (hk0 : Kept s0 s) (hf : f.num ∉ modeNums) :
    Kept s0 (State.fabEvent s f) := by
  unfold State.fabEvent
  try dsimp only
  repeat' first
    | (with_reducible assumption)
    | (split)
    | (with_reducible refine Kept.foldl ?_ ?_)
    | decide
    | (intro u hu x hx)
    | (intro u hu)
    | (refine Kept.notMode_of_mem (by with_reducible assumption) (by decide))
    | (with_reducible apply Kept.raiseEn)
    | decide

theorem Kept.protEvent {s0 s : State} {f : Fld} (hk0 : Kept s0 s) (hf : f.num ∉ modeNums) :
    Kept s0 (State.protEvent s f) := by
  unfold State.protEvent
  try dsimp only
  repeat' first
    | (with_reducible assumption)
    | (split)
    | (with_reducible refine Kept.foldl ?_ ?_)
    | decide
    | (intro u hu x hx)
    | (intro u hu)
    | (refine Kept.notMode_of_mem (by with_reducible assumption) (by decide))
    | (with_reducible apply Kept.raiseEn)
    | decide

theorem Kept.pmcEvent {s0 s : State} {f : Fld} (hk0 : Kept s0 s) (hf : f.num ∉ modeNums) :
    Kept s0 (State.pmcEvent s f) := by
  unfold State.pmcEvent
  try dsimp only
  repeat' first
    | (with_reducible assumption)
    | (split)
    | (with_reducible refine Kept.foldl ?_ ?_)
    | decide
    | (intro u hu x hx)
    | (intro u hu)
    | (refine Kept.notMode_of_mem (by with_reducible assumption) (by decide))
    | (with_reducible apply Kept.raiseEn)
    | decide

theorem Kept.mbxEvent {s0 s : State} {f : Fld} (hk0 : Kept s0 s) (hf : f.num ∉ modeNums) :
    Kept s0 (State.mbxEvent s f) := by
  unfold State.mbxEvent
  try dsimp only
  repeat' first
    | (with_reducible assumption)
    | (split)
    | (with_reducible refine Kept.foldl ?_ ?_)
    | decide
    | (intro u hu x hx)
    | (intro u hu)
    | (refine Kept.notMode_of_mem (by with_reducible assumption) (by decide))
    | (with_reducible apply Kept.raiseEn)
    | decide

theorem Kept.irqStatus {s0 s : State} {f : Fld} (hk0 : Kept s0 s) (hf : f.num ∉ modeNums) :
    Kept s0 (State.irqStatus s f) := by
  unfold State.irqStatus
  try dsimp only
  repeat' first
    | (with_reducible assumption)
    | (split)
    | (with_reducible refine Kept.foldl ?_ ?_)
    | decide
    | (intro u hu x hx)
    | (intro u hu)
    | (refine Kept.notMode_of_mem (by with_reducible assumption) (by decide))
    | (with_reducible apply Kept.raise)
    | decide

end Sys2Proof.Machine
end

