-- ==== Sys2Proof/Laws/KeptPowerSeq.lean ====
section
/-! SUPPORT. What the operations of PowerSeq keep (Laws/Kept.lean). -/

namespace Sys2Proof.Machine

set_option Elab.async false
set_option linter.all false

theorem Kept.setDom {s0 s : State} {d : Nat} {p : PowerDom} (hk0 : Kept s0 s) :
    Kept s0 (State.setDom s d p) := by
  unfold State.setDom
  try dsimp only
  repeat' first
    | (with_reducible assumption)
    | (split)
    | (with_reducible refine Kept.foldl ?_ ?_)
    | decide
    | (intro u hu x hx)
    | (intro u hu)
    | (refine Kept.notMode_of_mem (by with_reducible assumption) (by decide))
    | (with_reducible apply Kept.emit)
    | (with_reducible refine Kept.mk_other ?_)
    | decide

theorem Kept.pend {s0 s : State} {d : Nat} {target : Nat} {latched : Bool} (hk0 : Kept s0 s) :
    Kept s0 (State.pend s d target latched) := by
  unfold State.pend
  try dsimp only
  repeat' first
    | (with_reducible assumption)
    | (split)
    | (with_reducible refine Kept.foldl ?_ ?_)
    | decide
    | (intro u hu x hx)
    | (intro u hu)
    | (refine Kept.notMode_of_mem (by with_reducible assumption) (by decide))
    | (with_reducible refine Kept.wr ?_ (by first | decide | with_reducible assumption | exact Kept.notMode_of_mem (by with_reducible assumption) (by decide) | exact Kept.notMode_of_mem_fst (by with_reducible assumption) (by with_unfolding_all rfl)))
    | (with_reducible refine Kept.wrMode ?_ 4 (by decide) (by first | decide | with_reducible assumption))
    | (with_reducible refine Kept.wrMode ?_ 5 (by decide) (by first | decide | with_reducible assumption))
    | (with_reducible refine Kept.wrMode ?_ 8 (by decide) (by first | decide | with_reducible assumption))
    | (with_reducible apply Kept.emit)
    | (with_reducible apply Kept.setDom)
    | (with_reducible refine Kept.mk_other ?_)
    | decide

theorem Kept.unpend {s0 s : State} {d : Nat} (hk0 : Kept s0 s) :
    Kept s0 (State.unpend s d) := by
  unfold State.unpend
  try dsimp only
  repeat' first
    | (with_reducible assumption)
    | (split)
    | (with_reducible refine Kept.foldl ?_ ?_)
    | decide
    | (intro u hu x hx)
    | (intro u hu)
    | (refine Kept.notMode_of_mem (by with_reducible assumption) (by decide))
    | (with_reducible refine Kept.wr ?_ (by first | decide | with_reducible assumption | exact Kept.notMode_of_mem (by with_reducible assumption) (by decide) | exact Kept.notMode_of_mem_fst (by with_reducible assumption) (by with_unfolding_all rfl)))
    | (with_reducible refine Kept.wrMode ?_ 4 (by decide) (by first | decide | with_reducible assumption))
    | (with_reducible refine Kept.wrMode ?_ 5 (by decide) (by first | decide | with_reducible assumption))
    | (with_reducible refine Kept.wrMode ?_ 8 (by decide) (by first | decide | with_reducible assumption))
    | (with_reducible apply Kept.emit)
    | decide

theorem Kept.railSet {s0 s : State} {k : Nat} {on : Bool} (hk0 : Kept s0 s) :
    Kept s0 (State.railSet s k on) := by
  unfold State.railSet
  try dsimp only
  repeat' first
    | (with_reducible assumption)
    | (split)
    | (with_reducible refine Kept.foldl ?_ ?_)
    | decide
    | (intro u hu x hx)
    | (intro u hu)
    | (refine Kept.notMode_of_mem (by with_reducible assumption) (by decide))
    | (with_reducible refine Kept.wr ?_ (by first | decide | with_reducible assumption | exact Kept.notMode_of_mem (by with_reducible assumption) (by decide) | exact Kept.notMode_of_mem_fst (by with_reducible assumption) (by with_unfolding_all rfl)))
    | (with_reducible refine Kept.wrMode ?_ 4 (by decide) (by first | decide | with_reducible assumption))
    | (with_reducible refine Kept.wrMode ?_ 5 (by decide) (by first | decide | with_reducible assumption))
    | (with_reducible refine Kept.wrMode ?_ 8 (by decide) (by first | decide | with_reducible assumption))
    | (with_reducible apply Kept.emit)
    | decide

theorem Kept.beginRegulator {s0 s : State} {d : Nat} (hk0 : Kept s0 s) :
    Kept s0 (State.beginRegulator s d) := by
  unfold State.beginRegulator
  try dsimp only
  repeat' first
    | (with_reducible assumption)
    | (split)
    | (with_reducible refine Kept.foldl ?_ ?_)
    | decide
    | (intro u hu x hx)
    | (intro u hu)
    | (refine Kept.notMode_of_mem (by with_reducible assumption) (by decide))
    | (with_reducible refine Kept.wr ?_ (by first | decide | with_reducible assumption | exact Kept.notMode_of_mem (by with_reducible assumption) (by decide) | exact Kept.notMode_of_mem_fst (by with_reducible assumption) (by with_unfolding_all rfl)))
    | (with_reducible refine Kept.wrMode ?_ 4 (by decide) (by first | decide | with_reducible assumption))
    | (with_reducible refine Kept.wrMode ?_ 5 (by decide) (by first | decide | with_reducible assumption))
    | (with_reducible refine Kept.wrMode ?_ 8 (by decide) (by first | decide | with_reducible assumption))
    | (with_reducible apply Kept.emit)
    | (with_reducible apply Kept.railSet)
    | decide

theorem Kept.advanceRises {s0 s : State} (hk0 : Kept s0 s) :
    Kept s0 (State.advanceRises s) := by
  unfold State.advanceRises
  try dsimp only
  repeat' first
    | (with_reducible assumption)
    | (split)
    | (with_reducible refine Kept.foldl ?_ ?_)
    | decide
    | (intro u hu x hx)
    | (intro u hu)
    | (refine Kept.notMode_of_mem (by with_reducible assumption) (by decide))
    | (with_reducible apply Kept.emit)
    | (with_reducible apply Kept.beginRegulator)
    | decide

theorem Kept.startRise {s0 s : State} {d : Nat} {n : Nat} {lower : List Nat} (hk0 : Kept s0 s) :
    Kept s0 (State.startRise s d n lower) := by
  unfold State.startRise
  try dsimp only
  repeat' first
    | (with_reducible assumption)
    | (split)
    | (with_reducible refine Kept.foldl ?_ ?_)
    | decide
    | (intro u hu x hx)
    | (intro u hu)
    | (refine Kept.notMode_of_mem (by with_reducible assumption) (by decide))
    | (with_reducible refine Kept.wr ?_ (by first | decide | with_reducible assumption | exact Kept.notMode_of_mem (by with_reducible assumption) (by decide) | exact Kept.notMode_of_mem_fst (by with_reducible assumption) (by with_unfolding_all rfl)))
    | (with_reducible refine Kept.wrMode ?_ 4 (by decide) (by first | decide | with_reducible assumption))
    | (with_reducible refine Kept.wrMode ?_ 5 (by decide) (by first | decide | with_reducible assumption))
    | (with_reducible refine Kept.wrMode ?_ 8 (by decide) (by first | decide | with_reducible assumption))
    | (with_reducible apply Kept.emit)
    | (with_reducible apply Kept.setDom)
    | (with_reducible apply Kept.incSat)
    | (with_reducible refine Kept.mk_other ?_)
    | decide

theorem Kept.wakeOne {s0 s : State} {event : List Nat} {d : Nat} (hk0 : Kept s0 s) :
    Kept s0 (State.wakeOne s event d) := by
  unfold State.wakeOne
  try dsimp only
  repeat' first
    | (with_reducible assumption)
    | (split)
    | (with_reducible refine Kept.foldl ?_ ?_)
    | decide
    | (intro u hu x hx)
    | (intro u hu)
    | (refine Kept.notMode_of_mem (by with_reducible assumption) (by decide))
    | (with_reducible apply Kept.emit)
    | (with_reducible apply Kept.unpend)
    | (with_reducible apply Kept.pend)
    | (with_reducible apply Kept.pwrEvent)
    | (with_reducible apply Kept.setDom)
    | (with_reducible apply Kept.startRise)
    | (with_reducible refine Kept.mk_other ?_)
    | decide

theorem Kept.requestOn {s0 s : State} {d : Nat} (hk0 : Kept s0 s) :
    Kept s0 (State.requestOn s d) := by
  unfold State.requestOn
  try dsimp only
  repeat' first
    | (with_reducible assumption)
    | (split)
    | (with_reducible refine Kept.foldl ?_ ?_)
    | decide
    | (intro u hu x hx)
    | (intro u hu)
    | (refine Kept.notMode_of_mem (by with_reducible assumption) (by decide))
    | (with_reducible apply Kept.emit)
    | (with_reducible apply Kept.wakeOne)
    | (with_reducible apply Kept.advanceRises)
    | decide

theorem Kept.recordWake {s0 s : State} {d : Nat} {src : Nat} {tree : Nat} (hk0 : Kept s0 s) :
    Kept s0 (State.recordWake s d src tree) := by
  unfold State.recordWake
  try dsimp only
  repeat' first
    | (with_reducible assumption)
    | (split)
    | (with_reducible refine Kept.foldl ?_ ?_)
    | decide
    | (intro u hu x hx)
    | (intro u hu)
    | (refine Kept.notMode_of_mem (by with_reducible assumption) (by decide))
    | (with_reducible refine Kept.wr ?_ (by first | decide | with_reducible assumption | exact Kept.notMode_of_mem (by with_reducible assumption) (by decide) | exact Kept.notMode_of_mem_fst (by with_reducible assumption) (by with_unfolding_all rfl)))
    | (with_reducible refine Kept.wrMode ?_ 4 (by decide) (by first | decide | with_reducible assumption))
    | (with_reducible refine Kept.wrMode ?_ 5 (by decide) (by first | decide | with_reducible assumption))
    | (with_reducible refine Kept.wrMode ?_ 8 (by decide) (by first | decide | with_reducible assumption))
    | (with_reducible apply Kept.emit)
    | (with_reducible apply Kept.putBnd)
    | (with_reducible refine Kept.mk_other ?_)
    | decide

theorem Kept.wake {s0 s : State} {d : Nat} {src : Nat} {tree : Nat} (hk0 : Kept s0 s) :
    Kept s0 (State.wake s d src tree) := by
  unfold State.wake
  try dsimp only
  repeat' first
    | (with_reducible assumption)
    | (split)
    | (with_reducible refine Kept.foldl ?_ ?_)
    | decide
    | (intro u hu x hx)
    | (intro u hu)
    | (refine Kept.notMode_of_mem (by with_reducible assumption) (by decide))
    | (with_reducible apply Kept.emit)
    | (with_reducible apply Kept.requestOn)
    | (with_reducible apply Kept.recordWake)
    | decide

theorem Kept.countRefused {s0 s : State} {d : Nat} (hk0 : Kept s0 s) :
    Kept s0 (State.countRefused s d) := by
  unfold State.countRefused
  try dsimp only
  repeat' first
    | (with_reducible assumption)
    | (split)
    | (with_reducible refine Kept.foldl ?_ ?_)
    | decide
    | (intro u hu x hx)
    | (intro u hu)
    | (refine Kept.notMode_of_mem (by with_reducible assumption) (by decide))
    | (with_reducible apply Kept.emit)
    | (with_reducible apply Kept.setDom)
    | (with_reducible apply Kept.incSat)
    | (with_reducible refine Kept.mk_other ?_)
    | decide

end Sys2Proof.Machine
end

