-- ==== Sys2Proof/Laws/KeptWindowOps.lean ====
section
/-! SUPPORT. What the operations of WindowOps keep (Laws/Kept.lean). -/

namespace Sys2Proof.Machine

set_option Elab.async false
set_option linter.all false

theorem Kept.accessErr {s0 s : State} {kind : Nat} {off : Nat} {port : Nat} (hk0 : Kept s0 s) :
    Kept s0 (State.accessErr s kind off port) := by
  unfold State.accessErr
  try dsimp only
  repeat' first
    | (with_reducible assumption)
    | (split)
    | (with_reducible refine Kept.foldl ?_ ?_)
    | decide
    | (intro u hu x hx)
    | (intro u hu)
    | (refine Kept.notMode_of_mem (by with_reducible assumption) (by decide))
    | (with_reducible refine Kept.wr ?_ (by first | decide | with_reducible assumption | exact Kept.notMode_of_mem (by with_reducible assumption) (by decide) | exact Kept.notMode_of_mem_fst (by with_reducible assumption) (by with_unfolding_all rfl)))
    | (with_reducible refine Kept.wrMode ?_ 4 (by decide) (by first | decide | with_reducible assumption))
    | (with_reducible refine Kept.wrMode ?_ 5 (by decide) (by first | decide | with_reducible assumption))
    | (with_reducible refine Kept.wrMode ?_ 8 (by decide) (by first | decide | with_reducible assumption))
    | (with_reducible apply Kept.emit)
    | decide

theorem Kept.winWrite {s0 s : State} {port : Nat} {off : Nat} {on : Bool} {act : State → State} (hk0 : Kept s0 s) (hact : ∀ u, Kept s0 u → Kept s0 (act u)) :
    Kept s0 (State.winWrite s port off on act) := by
  unfold State.winWrite
  try dsimp only
  repeat' first
    | (with_reducible assumption)
    | (split)
    | (with_reducible refine Kept.foldl ?_ ?_)
    | decide
    | (intro u hu x hx)
    | (intro u hu)
    | (refine Kept.notMode_of_mem (by with_reducible assumption) (by decide))
    | (refine hact _ ?_)
    | (refine hact _ _ ?_)
    | (refine hact _ _ _ ?_)
    | (with_reducible apply Kept.emit)
    | (with_reducible apply Kept.accessErr)
    | decide

/-- Whether writes of a register may touch a field: it holds no mode, or is one of the mode fields and read-only. -/
def plainFld (f : Fld) : Bool :=
  decide (f.num ∉ modeNums) || (decide (f.acc = .ro) && modeFields.any (fun e => decide (e.1 = f)))

theorem Kept.writeFields {s0 s : State} {fs : List Fld} {i v : Nat} (h : Kept s0 s) (hfs : ∀ f ∈ fs, plainFld f = true) :
    Kept s0 (State.writeFields s fs i v) := by
  unfold State.writeFields
  refine Kept.foldl h ?_
  intro u hu x hx
  have hp := hfs x hx
  simp only [plainFld, Bool.or_eq_true, decide_eq_true_eq, Bool.and_eq_true, List.any_eq_true] at hp
  rcases hp with hp | ⟨hacc, e, he, rfl⟩
  · exact Kept.wr hu hp
  · have : Fld.written e.1 (u.rd e.1 i) v = u.rd e.1 i := by simp [Fld.written, hacc]
    simp only [this]
    exact Kept.wrSame hu e.2 he

end Sys2Proof.Machine
end

