-- ==== Sys2Proof/Laws/KeptCountOps.lean ====
section
/-! SUPPORT. What the operations of CountOps keep (Laws/Kept.lean). -/

namespace Sys2Proof.Machine

set_option Elab.async false
set_option linter.all false

theorem Kept.addCnt {s0 s : State} {page : Nat} {off : Nat} {n : Nat} (hk0 : Kept s0 s) :
    Kept s0 (State.addCnt s page off n) := by
  unfold State.addCnt
  try dsimp only
  repeat' first
    | (with_reducible assumption)
    | (split)
    | (with_reducible refine Kept.foldl ?_ ?_)
    | decide
    | (intro u hu x hx)
    | (intro u hu)
    | (refine Kept.notMode_of_mem (by with_reducible assumption) (by decide))
    | (with_reducible refine Kept.mk_other ?_)
    | decide

theorem Kept.addFrames {s0 s : State} {page : Nat} {off : Nat} {bytes : Nat} (hk0 : Kept s0 s) :
    Kept s0 (State.addFrames s page off bytes) := by
  unfold State.addFrames
  try dsimp only
  repeat' first
    | (with_reducible assumption)
    | (split)
    | (with_reducible refine Kept.foldl ?_ ?_)
    | decide
    | (intro u hu x hx)
    | (intro u hu)
    | (refine Kept.notMode_of_mem (by with_reducible assumption) (by decide))
    | (with_reducible apply Kept.addCnt)
    | decide

theorem Kept.addPc {s0 s : State} {sel : List Fld} {cnt_ : Fld} {ovf : Fld} {i : Nat} {k : Nat} {n : Nat} (hk0 : Kept s0 s) (hcnt_ : cnt_.num ∉ modeNums) (hovf : ovf.num ∉ modeNums) :
    Kept s0 (State.addPc s sel cnt_ ovf i k n) := by
  unfold State.addPc
  try dsimp only
  repeat' first
    | (with_reducible assumption)
    | (split)
    | (with_reducible refine Kept.foldl ?_ ?_)
    | decide
    | (intro u hu x hx)
    | (intro u hu)
    | (refine Kept.notMode_of_mem (by with_reducible assumption) (by decide))
    | (with_reducible refine Kept.wr ?_ (by first | decide | with_reducible assumption | exact Kept.notMode_of_mem (by with_reducible assumption) (by decide) | exact Kept.notMode_of_mem_fst (by with_reducible assumption) (by with_unfolding_all rfl)))
    | (with_reducible refine Kept.wrMode ?_ 4 (by decide) (by first | decide | with_reducible assumption))
    | (with_reducible refine Kept.wrMode ?_ 5 (by decide) (by first | decide | with_reducible assumption))
    | (with_reducible refine Kept.wrMode ?_ 8 (by decide) (by first | decide | with_reducible assumption))
    | (with_reducible apply Kept.pmcEvent)
    | decide

theorem Kept.blockEvent {s0 s : State} {b : Nat} {code : Nat} {n : Nat} (hk0 : Kept s0 s) :
    Kept s0 (State.blockEvent s b code n) := by
  unfold State.blockEvent
  try dsimp only
  repeat' first
    | (with_reducible assumption)
    | (split)
    | (with_reducible refine Kept.foldl ?_ ?_)
    | decide
    | (intro u hu x hx)
    | (intro u hu)
    | (refine Kept.notMode_of_mem (by with_reducible assumption) (by decide))
    | (with_reducible apply Kept.addCnt)
    | (with_reducible apply Kept.addPc)
    | (with_reducible refine Kept.fst ?_ (by with_reducible assumption))
    | (with_reducible refine Kept.snd ?_ (by with_reducible assumption))
    | (with_reducible refine Kept.mk_other ?_)
    | decide

theorem Kept.engCount {s0 s : State} {e : Nat} {code : Nat} {n : Nat} (hk0 : Kept s0 s) :
    Kept s0 (State.engCount s e code n) := by
  unfold State.engCount
  try dsimp only
  repeat' first
    | (with_reducible assumption)
    | (split)
    | (with_reducible refine Kept.foldl ?_ ?_)
    | decide
    | (intro u hu x hx)
    | (intro u hu)
    | (refine Kept.notMode_of_mem (by with_reducible assumption) (by decide))
    | (with_reducible apply Kept.addPc)
    | decide

theorem Kept.corrected {s0 s : State} {i : Nat} (hk0 : Kept s0 s) :
    Kept s0 (State.corrected s i) := by
  unfold State.corrected
  try dsimp only
  repeat' first
    | (with_reducible assumption)
    | (split)
    | (with_reducible refine Kept.foldl ?_ ?_)
    | decide
    | (intro u hu x hx)
    | (intro u hu)
    | (refine Kept.notMode_of_mem (by with_reducible assumption) (by decide))
    | (with_reducible apply Kept.addCnt)
    | (with_reducible apply Kept.putMon)
    | (with_reducible refine Kept.mk_other ?_)
    | decide

theorem Kept.logUe {s0 s : State} {mem : Nat} {inst : Nat} {outcome : Nat} {addr : Nat} (hk0 : Kept s0 s) :
    Kept s0 (State.logUe s mem inst outcome addr) := by
  unfold State.logUe
  try dsimp only
  repeat' first
    | (with_reducible assumption)
    | (split)
    | (with_reducible refine Kept.foldl ?_ ?_)
    | decide
    | (intro u hu x hx)
    | (intro u hu)
    | (refine Kept.notMode_of_mem (by with_reducible assumption) (by decide))
    | (with_reducible apply Kept.pmcEvent)
    | (with_reducible refine Kept.mk_other ?_)
    | decide

end Sys2Proof.Machine
end

