-- ==== Sys2Proof/Laws/KeptTimebase.lean ====
section
/-! SUPPORT. What the operations of Timebase keep (Laws/Kept.lean). -/

namespace Sys2Proof.Machine

set_option Elab.async false
set_option linter.all false

theorem Kept.setBase {s0 s : State} {x : Nat} {b : DomainBase} (hk0 : Kept s0 s) :
    Kept s0 (State.setBase s x b) := by
  unfold State.setBase
  try dsimp only
  repeat' first
    | (with_reducible assumption)
    | (split)
    | (with_reducible refine Kept.foldl ?_ ?_)
    | decide
    | (intro u hu x hx)
    | (intro u hu)
    | (refine Kept.notMode_of_mem (by with_reducible assumption) (by decide))
    | (with_reducible apply Kept.emit)
    | (with_reducible refine Kept.mk_other ?_)
    | decide

theorem Kept.setDomTime {s0 s : State} {x : Nat} {d : Nat} (hk0 : Kept s0 s) :
    Kept s0 (State.setDomTime s x d) := by
  unfold State.setDomTime
  try dsimp only
  repeat' first
    | (with_reducible assumption)
    | (split)
    | (with_reducible refine Kept.foldl ?_ ?_)
    | decide
    | (intro u hu x hx)
    | (intro u hu)
    | (refine Kept.notMode_of_mem (by with_reducible assumption) (by decide))
    | (with_reducible apply Kept.emit)
    | (with_reducible apply Kept.setBase)
    | decide

theorem Kept.checkFar {s0 s : State} (hk0 : Kept s0 s) :
    Kept s0 (State.checkFar s) := by
  unfold State.checkFar
  try dsimp only
  repeat' first
    | (with_reducible assumption)
    | (split)
    | (with_reducible refine Kept.foldl ?_ ?_)
    | decide
    | (intro u hu x hx)
    | (intro u hu)
    | (refine Kept.notMode_of_mem (by with_reducible assumption) (by decide))
    | (with_reducible apply Kept.emit)
    | (with_reducible apply Kept.tbEvent)
    | decide

theorem Kept.missSlots {s0 s : State} (hk0 : Kept s0 s) :
    Kept s0 (State.missSlots s) := by
  unfold State.missSlots
  try dsimp only
  repeat' first
    | (with_reducible assumption)
    | (split)
    | (with_reducible refine Kept.foldl ?_ ?_)
    | decide
    | (intro u hu x hx)
    | (intro u hu)
    | (refine Kept.notMode_of_mem (by with_reducible assumption) (by decide))
    | (with_reducible refine Kept.wr ?_ (by first | decide | with_reducible assumption | exact Kept.notMode_of_mem (by with_reducible assumption) (by decide) | exact Kept.notMode_of_mem_fst (by with_reducible assumption) (by with_unfolding_all rfl)))
    | (with_reducible refine Kept.wrMode ?_ 4 (by decide) (by first | decide | with_reducible assumption))
    | (with_reducible refine Kept.wrMode ?_ 5 (by decide) (by first | decide | with_reducible assumption))
    | (with_reducible refine Kept.wrMode ?_ 8 (by decide) (by first | decide | with_reducible assumption))
    | (with_reducible apply Kept.emit)
    | decide

theorem Kept.strobe {s0 s : State} {was : Int} (hk0 : Kept s0 s) :
    Kept s0 (State.strobe s was) := by
  unfold State.strobe
  try dsimp only
  repeat' first
    | (with_reducible assumption)
    | (split)
    | (with_reducible refine Kept.foldl ?_ ?_)
    | decide
    | (intro u hu x hx)
    | (intro u hu)
    | (refine Kept.notMode_of_mem (by with_reducible assumption) (by decide))
    | (with_reducible apply Kept.emit)
    | decide

theorem Kept.tideMoved {s0 s : State} {was : Int} (hk0 : Kept s0 s) :
    Kept s0 (State.tideMoved s was) := by
  unfold State.tideMoved
  try dsimp only
  repeat' first
    | (with_reducible assumption)
    | (split)
    | (with_reducible refine Kept.foldl ?_ ?_)
    | decide
    | (intro u hu x hx)
    | (intro u hu)
    | (refine Kept.notMode_of_mem (by with_reducible assumption) (by decide))
    | (with_reducible apply Kept.emit)
    | (with_reducible apply Kept.missSlots)
    | (with_reducible refine Kept.mk_other ?_)
    | decide

theorem Kept.jumpFrom {s0 s : State} {was : Int} (hk0 : Kept s0 s) :
    Kept s0 (State.jumpFrom s was) := by
  unfold State.jumpFrom
  try dsimp only
  repeat' first
    | (with_reducible assumption)
    | (split)
    | (with_reducible refine Kept.foldl ?_ ?_)
    | decide
    | (intro u hu x hx)
    | (intro u hu)
    | (refine Kept.notMode_of_mem (by with_reducible assumption) (by decide))
    | (with_reducible refine Kept.wr ?_ (by first | decide | with_reducible assumption | exact Kept.notMode_of_mem (by with_reducible assumption) (by decide) | exact Kept.notMode_of_mem_fst (by with_reducible assumption) (by with_unfolding_all rfl)))
    | (with_reducible refine Kept.wrMode ?_ 4 (by decide) (by first | decide | with_reducible assumption))
    | (with_reducible refine Kept.wrMode ?_ 5 (by decide) (by first | decide | with_reducible assumption))
    | (with_reducible refine Kept.wrMode ?_ 8 (by decide) (by first | decide | with_reducible assumption))
    | (with_reducible apply Kept.emit)
    | (with_reducible apply Kept.putTb)
    | (with_reducible apply Kept.tideMoved)
    | (with_reducible apply Kept.tbEvent)
    | (with_reducible refine Kept.fst ?_ (by with_reducible assumption))
    | (with_reducible refine Kept.snd ?_ (by with_reducible assumption))
    | (with_reducible refine Kept.mk_other ?_)
    | decide

theorem Kept.tideCycle {s0 s : State} (hk0 : Kept s0 s) :
    Kept s0 (State.tideCycle s) := by
  unfold State.tideCycle
  try dsimp only
  repeat' first
    | (with_reducible assumption)
    | (split)
    | (with_reducible refine Kept.foldl ?_ ?_)
    | decide
    | (intro u hu x hx)
    | (intro u hu)
    | (refine Kept.notMode_of_mem (by with_reducible assumption) (by decide))
    | (with_reducible refine Kept.wr ?_ (by first | decide | with_reducible assumption | exact Kept.notMode_of_mem (by with_reducible assumption) (by decide) | exact Kept.notMode_of_mem_fst (by with_reducible assumption) (by with_unfolding_all rfl)))
    | (with_reducible refine Kept.wrMode ?_ 4 (by decide) (by first | decide | with_reducible assumption))
    | (with_reducible refine Kept.wrMode ?_ 5 (by decide) (by first | decide | with_reducible assumption))
    | (with_reducible refine Kept.wrMode ?_ 8 (by decide) (by first | decide | with_reducible assumption))
    | (with_reducible apply Kept.emit)
    | (with_reducible apply Kept.jumpFrom)
    | (with_reducible apply Kept.putTb)
    | (with_reducible apply Kept.wrB)
    | (with_reducible refine Kept.fst ?_ (by with_reducible assumption))
    | (with_reducible refine Kept.snd ?_ (by with_reducible assumption))
    | (with_reducible refine Kept.mk_other ?_)
    | decide

theorem Kept.ledgerCycle {s0 s : State} (hk0 : Kept s0 s) :
    Kept s0 (State.ledgerCycle s) := by
  unfold State.ledgerCycle
  try dsimp only
  repeat' first
    | (with_reducible assumption)
    | (split)
    | (with_reducible refine Kept.foldl ?_ ?_)
    | decide
    | (intro u hu x hx)
    | (intro u hu)
    | (refine Kept.notMode_of_mem (by with_reducible assumption) (by decide))
    | (with_reducible apply Kept.emit)
    | (with_reducible apply Kept.putTb)
    | (with_reducible apply Kept.incWrap)
    | (with_reducible refine Kept.mk_other ?_)
    | decide

theorem Kept.coreCycle {s0 s : State} (hk0 : Kept s0 s) :
    Kept s0 (State.coreCycle s) := by
  unfold State.coreCycle
  try dsimp only
  repeat' first
    | (with_reducible assumption)
    | (split)
    | (with_reducible refine Kept.foldl ?_ ?_)
    | decide
    | (intro u hu x hx)
    | (intro u hu)
    | (refine Kept.notMode_of_mem (by with_reducible assumption) (by decide))
    | (with_reducible apply Kept.emit)
    | (with_reducible apply Kept.ledgerCycle)
    | (with_reducible apply Kept.putMon)
    | (with_reducible refine Kept.mk_other ?_)
    | decide

theorem Kept.advanceCtc {s0 s : State} (hk0 : Kept s0 s) :
    Kept s0 (State.advanceCtc s) := by
  unfold State.advanceCtc
  try dsimp only
  repeat' first
    | (with_reducible assumption)
    | (split)
    | (with_reducible refine Kept.foldl ?_ ?_)
    | decide
    | (intro u hu x hx)
    | (intro u hu)
    | (refine Kept.notMode_of_mem (by with_reducible assumption) (by decide))
    | (with_reducible apply Kept.emit)
    | (with_reducible apply Kept.putTb)
    | (with_reducible refine Kept.mk_other ?_)
    | decide

theorem Kept.calTick {s0 s : State} (hk0 : Kept s0 s) :
    Kept s0 (State.calTick s) := by
  unfold State.calTick
  try dsimp only
  repeat' first
    | (with_reducible assumption)
    | (split)
    | (with_reducible refine Kept.foldl ?_ ?_)
    | decide
    | (intro u hu x hx)
    | (intro u hu)
    | (refine Kept.notMode_of_mem (by with_reducible assumption) (by decide))
    | (with_reducible apply Kept.emit)
    | (with_reducible apply Kept.putTb)
    | (with_reducible refine Kept.fst ?_ (by with_reducible assumption))
    | (with_reducible refine Kept.snd ?_ (by with_reducible assumption))
    | (with_reducible refine Kept.mk_other ?_)
    | decide

theorem Kept.tideTick {s0 s : State} (hk0 : Kept s0 s) :
    Kept s0 (State.tideTick s) := by
  unfold State.tideTick
  try dsimp only
  repeat' first
    | (with_reducible assumption)
    | (split)
    | (with_reducible refine Kept.foldl ?_ ?_)
    | decide
    | (intro u hu x hx)
    | (intro u hu)
    | (refine Kept.notMode_of_mem (by with_reducible assumption) (by decide))
    | (with_reducible apply Kept.emit)
    | (with_reducible apply Kept.tideCycle)
    | (with_reducible apply Kept.strobe)
    | (with_reducible apply Kept.calTick)
    | (with_reducible apply Kept.blockEvent)
    | (with_reducible apply Kept.advanceCtc)
    | (with_reducible apply Kept.checkFar)
    | decide

theorem Kept.backlogCycles {s0 s : State} (hk0 : Kept s0 s) :
    Kept s0 (State.backlogCycles s) := by
  unfold State.backlogCycles
  try dsimp only
  repeat' first
    | (with_reducible assumption)
    | (split)
    | (with_reducible refine Kept.foldl ?_ ?_)
    | decide
    | (intro u hu x hx)
    | (intro u hu)
    | (refine Kept.notMode_of_mem (by with_reducible assumption) (by decide))
    | (with_reducible apply Kept.emit)
    | (with_reducible apply Kept.blockEvent)
    | decide

theorem Kept.tick {s0 s : State} (hk0 : Kept s0 s) :
    Kept s0 (State.tick s) := by
  unfold State.tick
  try dsimp only
  repeat' first
    | (with_reducible assumption)
    | (split)
    | (with_reducible refine Kept.foldl ?_ ?_)
    | decide
    | (intro u hu x hx)
    | (intro u hu)
    | (refine Kept.notMode_of_mem (by with_reducible assumption) (by decide))
    | (with_reducible apply Kept.emit)
    | (with_reducible apply Kept.tideTick)
    | (with_reducible apply Kept.coreCycle)
    | (with_reducible apply Kept.backlogCycles)
    | decide

theorem Kept.convertScheds {s0 s : State} (hk0 : Kept s0 s) :
    Kept s0 (State.convertScheds s) := by
  unfold State.convertScheds
  try dsimp only
  repeat' first
    | (with_reducible assumption)
    | (split)
    | (with_reducible refine Kept.foldl ?_ ?_)
    | decide
    | (intro u hu x hx)
    | (intro u hu)
    | (refine Kept.notMode_of_mem (by with_reducible assumption) (by decide))
    | (with_reducible apply Kept.emit)
    | (with_reducible apply Kept.putDoms)
    | (with_reducible refine Kept.fst ?_ (by with_reducible assumption))
    | (with_reducible refine Kept.snd ?_ (by with_reducible assumption))
    | (with_reducible refine Kept.mk_other ?_)
    | decide

theorem Kept.calibrate {s0 s : State} (hk0 : Kept s0 s) :
    Kept s0 (State.calibrate s) := by
  unfold State.calibrate
  try dsimp only
  repeat' first
    | (with_reducible assumption)
    | (split)
    | (with_reducible refine Kept.foldl ?_ ?_)
    | decide
    | (intro u hu x hx)
    | (intro u hu)
    | (refine Kept.notMode_of_mem (by with_reducible assumption) (by decide))
    | (with_reducible refine Kept.wr ?_ (by first | decide | with_reducible assumption | exact Kept.notMode_of_mem (by with_reducible assumption) (by decide) | exact Kept.notMode_of_mem_fst (by with_reducible assumption) (by with_unfolding_all rfl)))
    | (with_reducible refine Kept.wrMode ?_ 4 (by decide) (by first | decide | with_reducible assumption))
    | (with_reducible refine Kept.wrMode ?_ 5 (by decide) (by first | decide | with_reducible assumption))
    | (with_reducible refine Kept.wrMode ?_ 8 (by decide) (by first | decide | with_reducible assumption))
    | (with_reducible apply Kept.emit)
    | (with_reducible apply Kept.putTb)
    | (with_reducible refine Kept.fst ?_ (by with_reducible assumption))
    | (with_reducible refine Kept.snd ?_ (by with_reducible assumption))
    | (with_reducible refine Kept.mk_other ?_)
    | decide

theorem Kept.tbLeave {s0 s : State} (hk0 : Kept s0 s) :
    Kept s0 (State.tbLeave s) := by
  unfold State.tbLeave
  try dsimp only
  repeat' first
    | (with_reducible assumption)
    | (split)
    | (with_reducible refine Kept.foldl ?_ ?_)
    | decide
    | (intro u hu x hx)
    | (intro u hu)
    | (refine Kept.notMode_of_mem (by with_reducible assumption) (by decide))
    | (with_reducible apply Kept.emit)
    | (with_reducible apply Kept.calibrate)
    | (with_reducible apply Kept.convertScheds)
    | (with_reducible apply Kept.putTb)
    | (with_reducible refine Kept.mk_other ?_)
    | decide

theorem Kept.tbResume {s0 s : State} (hk0 : Kept s0 s) :
    Kept s0 (State.tbResume s) := by
  unfold State.tbResume
  try dsimp only
  repeat' first
    | (with_reducible assumption)
    | (split)
    | (with_reducible refine Kept.foldl ?_ ?_)
    | decide
    | (intro u hu x hx)
    | (intro u hu)
    | (refine Kept.notMode_of_mem (by with_reducible assumption) (by decide))
    | (with_reducible refine Kept.wr ?_ (by first | decide | with_reducible assumption | exact Kept.notMode_of_mem (by with_reducible assumption) (by decide) | exact Kept.notMode_of_mem_fst (by with_reducible assumption) (by with_unfolding_all rfl)))
    | (with_reducible refine Kept.wrMode ?_ 4 (by decide) (by first | decide | with_reducible assumption))
    | (with_reducible refine Kept.wrMode ?_ 5 (by decide) (by first | decide | with_reducible assumption))
    | (with_reducible refine Kept.wrMode ?_ 8 (by decide) (by first | decide | with_reducible assumption))
    | (with_reducible apply Kept.emit)
    | (with_reducible apply Kept.putTb)
    | (with_reducible apply Kept.incWrap)
    | (with_reducible apply Kept.tideMoved)
    | (with_reducible refine Kept.fst ?_ (by with_reducible assumption))
    | (with_reducible refine Kept.snd ?_ (by with_reducible assumption))
    | (with_reducible refine Kept.mk_other ?_)
    | decide

theorem Kept.ppsBack {s0 s : State} (hk0 : Kept s0 s) :
    Kept s0 (State.ppsBack s) := by
  unfold State.ppsBack
  try dsimp only
  repeat' first
    | (with_reducible assumption)
    | (split)
    | (with_reducible refine Kept.foldl ?_ ?_)
    | decide
    | (intro u hu x hx)
    | (intro u hu)
    | (refine Kept.notMode_of_mem (by with_reducible assumption) (by decide))
    | (with_reducible apply Kept.emit)
    | (with_reducible apply Kept.putTb)
    | (with_reducible refine Kept.mk_other ?_)
    | decide

theorem Kept.tbSet {s0 s : State} {x : Nat} {v : Nat} (hk0 : Kept s0 s) :
    Kept s0 (State.tbSet s x v) := by
  unfold State.tbSet
  try dsimp only
  repeat' first
    | (with_reducible assumption)
    | (split)
    | (with_reducible refine Kept.foldl ?_ ?_)
    | decide
    | (intro u hu x hx)
    | (intro u hu)
    | (refine Kept.notMode_of_mem (by with_reducible assumption) (by decide))
    | (with_reducible refine Kept.wr ?_ (by first | decide | with_reducible assumption | exact Kept.notMode_of_mem (by with_reducible assumption) (by decide) | exact Kept.notMode_of_mem_fst (by with_reducible assumption) (by with_unfolding_all rfl)))
    | (with_reducible refine Kept.wrMode ?_ 4 (by decide) (by first | decide | with_reducible assumption))
    | (with_reducible refine Kept.wrMode ?_ 5 (by decide) (by first | decide | with_reducible assumption))
    | (with_reducible refine Kept.wrMode ?_ 8 (by decide) (by first | decide | with_reducible assumption))
    | (with_reducible apply Kept.emit)
    | (with_reducible apply Kept.setDomTime)
    | (with_reducible apply Kept.ppsBack)
    | (with_reducible apply Kept.checkFar)
    | decide

theorem Kept.tbAdj {s0 s : State} {x : Nat} {v : Nat} (hk0 : Kept s0 s) :
    Kept s0 (State.tbAdj s x v) := by
  unfold State.tbAdj
  try dsimp only
  repeat' first
    | (with_reducible assumption)
    | (split)
    | (with_reducible refine Kept.foldl ?_ ?_)
    | decide
    | (intro u hu x hx)
    | (intro u hu)
    | (refine Kept.notMode_of_mem (by with_reducible assumption) (by decide))
    | (with_reducible apply Kept.emit)
    | (with_reducible apply Kept.setDomTime)
    | (with_reducible apply Kept.ppsBack)
    | (with_reducible apply Kept.checkFar)
    | decide

theorem Kept.tbRate {s0 s : State} {x : Nat} {v : Nat} (hk0 : Kept s0 s) :
    Kept s0 (State.tbRate s x v) := by
  unfold State.tbRate
  try dsimp only
  repeat' first
    | (with_reducible assumption)
    | (split)
    | (with_reducible refine Kept.foldl ?_ ?_)
    | decide
    | (intro u hu x hx)
    | (intro u hu)
    | (refine Kept.notMode_of_mem (by with_reducible assumption) (by decide))
    | (with_reducible refine Kept.wr ?_ (by first | decide | with_reducible assumption | exact Kept.notMode_of_mem (by with_reducible assumption) (by decide) | exact Kept.notMode_of_mem_fst (by with_reducible assumption) (by with_unfolding_all rfl)))
    | (with_reducible refine Kept.wrMode ?_ 4 (by decide) (by first | decide | with_reducible assumption))
    | (with_reducible refine Kept.wrMode ?_ 5 (by decide) (by first | decide | with_reducible assumption))
    | (with_reducible refine Kept.wrMode ?_ 8 (by decide) (by first | decide | with_reducible assumption))
    | (with_reducible apply Kept.emit)
    | (with_reducible apply Kept.setDomTime)
    | decide

theorem Kept.tideOrigin {s0 s : State} {v : Nat} (hk0 : Kept s0 s) :
    Kept s0 (State.tideOrigin s v) := by
  unfold State.tideOrigin
  try dsimp only
  repeat' first
    | (with_reducible assumption)
    | (split)
    | (with_reducible refine Kept.foldl ?_ ?_)
    | decide
    | (intro u hu x hx)
    | (intro u hu)
    | (refine Kept.notMode_of_mem (by with_reducible assumption) (by decide))
    | (with_reducible refine Kept.wr ?_ (by first | decide | with_reducible assumption | exact Kept.notMode_of_mem (by with_reducible assumption) (by decide) | exact Kept.notMode_of_mem_fst (by with_reducible assumption) (by with_unfolding_all rfl)))
    | (with_reducible refine Kept.wrMode ?_ 4 (by decide) (by first | decide | with_reducible assumption))
    | (with_reducible refine Kept.wrMode ?_ 5 (by decide) (by first | decide | with_reducible assumption))
    | (with_reducible refine Kept.wrMode ?_ 8 (by decide) (by first | decide | with_reducible assumption))
    | (with_reducible apply Kept.emit)
    | decide

theorem Kept.todCtl {s0 s : State} {n : Nat} {v : Nat} (hk0 : Kept s0 s) :
    Kept s0 (State.todCtl s n v) := by
  unfold State.todCtl
  try dsimp only
  repeat' first
    | (with_reducible assumption)
    | (split)
    | (with_reducible refine Kept.foldl ?_ ?_)
    | decide
    | (intro u hu x hx)
    | (intro u hu)
    | (refine Kept.notMode_of_mem (by with_reducible assumption) (by decide))
    | (with_reducible refine Kept.wr ?_ (by first | decide | with_reducible assumption | exact Kept.notMode_of_mem (by with_reducible assumption) (by decide) | exact Kept.notMode_of_mem_fst (by with_reducible assumption) (by with_unfolding_all rfl)))
    | (with_reducible refine Kept.wrMode ?_ 4 (by decide) (by first | decide | with_reducible assumption))
    | (with_reducible refine Kept.wrMode ?_ 5 (by decide) (by first | decide | with_reducible assumption))
    | (with_reducible refine Kept.wrMode ?_ 8 (by decide) (by first | decide | with_reducible assumption))
    | (with_reducible apply Kept.emit)
    | decide

theorem Kept.todCapture {s0 s : State} {t : Nat} {F_ : Int} {active : Bool} (hk0 : Kept s0 s) :
    Kept s0 (State.todCapture s t F_ active) := by
  unfold State.todCapture
  try dsimp only
  repeat' first
    | (with_reducible assumption)
    | (split)
    | (with_reducible refine Kept.foldl ?_ ?_)
    | decide
    | (intro u hu x hx)
    | (intro u hu)
    | (refine Kept.notMode_of_mem (by with_reducible assumption) (by decide))
    | (with_reducible refine Kept.wr ?_ (by first | decide | with_reducible assumption | exact Kept.notMode_of_mem (by with_reducible assumption) (by decide) | exact Kept.notMode_of_mem_fst (by with_reducible assumption) (by with_unfolding_all rfl)))
    | (with_reducible refine Kept.wrMode ?_ 4 (by decide) (by first | decide | with_reducible assumption))
    | (with_reducible refine Kept.wrMode ?_ 5 (by decide) (by first | decide | with_reducible assumption))
    | (with_reducible refine Kept.wrMode ?_ 8 (by decide) (by first | decide | with_reducible assumption))
    | (with_reducible apply Kept.emit)
    | (with_reducible apply Kept.blockEvent)
    | decide

end Sys2Proof.Machine
end

