-- ==== Sys2Proof/Laws/KeptRingOps.lean ====
section
/-! SUPPORT. What the operations of RingOps keep (Laws/Kept.lean). -/

namespace Sys2Proof.Machine

set_option Elab.async false
set_option linter.all false

theorem Kept.setRing {s0 s : State} {r : Nat} {x : Ring} (hk0 : Kept s0 s) :
    Kept s0 (State.setRing s r x) := by
  unfold State.setRing
  try dsimp only
  repeat' first
    | (with_reducible assumption)
    | (split)
    | (with_reducible refine Kept.foldl ?_ ?_)
    | decide
    | (intro u hu x hx)
    | (intro u hu)
    | (refine Kept.notMode_of_mem (by with_reducible assumption) (by decide))
    | (with_reducible apply Kept.emit)
    | (with_reducible refine Kept.mk_other ?_)
    | decide

theorem Kept.setEvq {s0 s : State} {q : Nat} {x : EvQueue} (hk0 : Kept s0 s) :
    Kept s0 (State.setEvq s q x) := by
  unfold State.setEvq
  try dsimp only
  repeat' first
    | (with_reducible assumption)
    | (split)
    | (with_reducible refine Kept.foldl ?_ ?_)
    | decide
    | (intro u hu x hx)
    | (intro u hu)
    | (refine Kept.notMode_of_mem (by with_reducible assumption) (by decide))
    | (with_reducible apply Kept.emit)
    | (with_reducible refine Kept.mk_other ?_)
    | decide

theorem Kept.advanceHead {s0 s : State} {r : Nat} (hk0 : Kept s0 s) :
    Kept s0 (State.advanceHead s r) := by
  unfold State.advanceHead
  try dsimp only
  repeat' first
    | (with_reducible assumption)
    | (split)
    | (with_reducible refine Kept.foldl ?_ ?_)
    | decide
    | (intro u hu x hx)
    | (intro u hu)
    | (refine Kept.notMode_of_mem (by with_reducible assumption) (by decide))
    | (with_reducible refine Kept.wr ?_ (by first | decide | with_reducible assumption | exact Kept.notMode_of_mem (by with_reducible assumption) (by decide) | exact Kept.notMode_of_mem_fst (by with_reducible assumption) (by with_unfolding_all rfl)))
    | (with_reducible refine Kept.wrMode ?_ 4 (by decide) (by first | decide | with_reducible assumption))
    | (with_reducible refine Kept.wrMode ?_ 5 (by decide) (by first | decide | with_reducible assumption))
    | (with_reducible refine Kept.wrMode ?_ 8 (by decide) (by first | decide | with_reducible assumption))
    | (with_reducible apply Kept.emit)
    | decide

theorem Kept.foundEarly {s0 s : State} {r : Nat} {i : Nat} (hk0 : Kept s0 s) :
    Kept s0 (State.foundEarly s r i) := by
  unfold State.foundEarly
  try dsimp only
  repeat' first
    | (with_reducible assumption)
    | (split)
    | (with_reducible refine Kept.foldl ?_ ?_)
    | decide
    | (intro u hu x hx)
    | (intro u hu)
    | (refine Kept.notMode_of_mem (by with_reducible assumption) (by decide))
    | (with_reducible apply Kept.emit)
    | (with_reducible apply Kept.setRing)
    | (with_reducible apply Kept.incWrap)
    | (with_reducible refine Kept.mk_other ?_)
    | decide

theorem Kept.setSummary {s0 s : State} {r : Nat} (hk0 : Kept s0 s) :
    Kept s0 (State.setSummary s r) := by
  unfold State.setSummary
  try dsimp only
  repeat' first
    | (with_reducible assumption)
    | (split)
    | (with_reducible refine Kept.foldl ?_ ?_)
    | decide
    | (intro u hu x hx)
    | (intro u hu)
    | (refine Kept.notMode_of_mem (by with_reducible assumption) (by decide))
    | (with_reducible refine Kept.wr ?_ (by first | decide | with_reducible assumption | exact Kept.notMode_of_mem (by with_reducible assumption) (by decide) | exact Kept.notMode_of_mem_fst (by with_reducible assumption) (by with_unfolding_all rfl)))
    | (with_reducible refine Kept.wrMode ?_ 4 (by decide) (by first | decide | with_reducible assumption))
    | (with_reducible refine Kept.wrMode ?_ 5 (by decide) (by first | decide | with_reducible assumption))
    | (with_reducible refine Kept.wrMode ?_ 8 (by decide) (by first | decide | with_reducible assumption))
    | (with_reducible apply Kept.emit)
    | decide

theorem Kept.ringEvent {s0 s : State} {r : Nat} {e : EvEntry} (hk0 : Kept s0 s) :
    Kept s0 (State.ringEvent s r e) := by
  unfold State.ringEvent
  try dsimp only
  repeat' first
    | (with_reducible assumption)
    | (split)
    | (with_reducible refine Kept.foldl ?_ ?_)
    | decide
    | (intro u hu x hx)
    | (intro u hu)
    | (refine Kept.notMode_of_mem (by with_reducible assumption) (by decide))
    | (with_reducible apply Kept.emit)
    | (with_reducible apply Kept.setSummary)
    | (with_reducible apply Kept.setEvq)
    | (with_reducible refine Kept.mk_other ?_)
    | decide

theorem Kept.ringState {s0 s : State} {r st : Nat} (h : Kept s0 s) (hst : st ≤ 5) : Kept s0 (State.ringState s r st) := by
  unfold State.ringState
  dsimp only
  have h1 : Kept s0 (s.wr F.DB_STATUS.STATE r st) := Kept.wrMode h 5 (by decide) hst
  split
  · exact Kept.ringEvent h1
  · exact h1

theorem Kept.ringError {s0 s : State} {r : Nat} {cause : Nat} (hk0 : Kept s0 s) :
    Kept s0 (State.ringError s r cause) := by
  unfold State.ringError
  try dsimp only
  repeat' first
    | (with_reducible assumption)
    | (split)
    | (with_reducible refine Kept.foldl ?_ ?_)
    | decide
    | (intro u hu x hx)
    | (intro u hu)
    | (refine Kept.notMode_of_mem (by with_reducible assumption) (by decide))
    | (with_reducible refine Kept.wr ?_ (by first | decide | with_reducible assumption | exact Kept.notMode_of_mem (by with_reducible assumption) (by decide) | exact Kept.notMode_of_mem_fst (by with_reducible assumption) (by with_unfolding_all rfl)))
    | (with_reducible refine Kept.wrMode ?_ 4 (by decide) (by first | decide | with_reducible assumption))
    | (with_reducible refine Kept.wrMode ?_ 5 (by decide) (by first | decide | with_reducible assumption))
    | (with_reducible refine Kept.wrMode ?_ 8 (by decide) (by first | decide | with_reducible assumption))
    | (with_reducible apply Kept.emit)
    | (with_reducible apply Kept.ringState)
    | (with_reducible apply Kept.irqStatus)
    | decide

theorem Kept.readFailed {s0 s : State} {r : Nat} {table : Bool} (hk0 : Kept s0 s) :
    Kept s0 (State.readFailed s r table) := by
  unfold State.readFailed
  try dsimp only
  repeat' first
    | (with_reducible assumption)
    | (split)
    | (with_reducible refine Kept.foldl ?_ ?_)
    | decide
    | (intro u hu x hx)
    | (intro u hu)
    | (refine Kept.notMode_of_mem (by with_reducible assumption) (by decide))
    | (with_reducible apply Kept.emit)
    | (with_reducible apply Kept.setRing)
    | (with_reducible apply Kept.ringError)
    | (with_reducible refine Kept.mk_other ?_)
    | decide

theorem Kept.writeFailed {s0 s : State} {r : Nat} (hk0 : Kept s0 s) :
    Kept s0 (State.writeFailed s r) := by
  unfold State.writeFailed
  try dsimp only
  repeat' first
    | (with_reducible assumption)
    | (split)
    | (with_reducible refine Kept.foldl ?_ ?_)
    | decide
    | (intro u hu x hx)
    | (intro u hu)
    | (refine Kept.notMode_of_mem (by with_reducible assumption) (by decide))
    | (with_reducible apply Kept.emit)
    | (with_reducible apply Kept.setRing)
    | (with_reducible apply Kept.ringError)
    | (with_reducible refine Kept.mk_other ?_)
    | decide

theorem Kept.completed {s0 s : State} {r : Nat} {idx : Nat} {event : Bool} (hk0 : Kept s0 s) :
    Kept s0 (State.completed s r idx event) := by
  unfold State.completed
  try dsimp only
  repeat' first
    | (with_reducible assumption)
    | (split)
    | (with_reducible refine Kept.foldl ?_ ?_)
    | decide
    | (intro u hu x hx)
    | (intro u hu)
    | (refine Kept.notMode_of_mem (by with_reducible assumption) (by decide))
    | (with_reducible apply Kept.emit)
    | (with_reducible apply Kept.setRing)
    | (with_reducible apply Kept.ringError)
    | (with_reducible apply Kept.ringEvent)
    | (with_reducible apply Kept.setSummary)
    | (with_reducible refine Kept.mk_other ?_)
    | decide

theorem Kept.writeCompletion {s0 s : State} {r : Nat} {idx : Nat} {bytes : List Byte} {event : Bool} (hk0 : Kept s0 s) :
    Kept s0 (State.writeCompletion s r idx bytes event) := by
  unfold State.writeCompletion
  try dsimp only
  repeat' first
    | (with_reducible assumption)
    | (split)
    | (with_reducible refine Kept.foldl ?_ ?_)
    | decide
    | (intro u hu x hx)
    | (intro u hu)
    | (refine Kept.notMode_of_mem (by with_reducible assumption) (by decide))
    | (with_reducible apply Kept.emit)
    | (with_reducible apply Kept.hostWrite)
    | (with_reducible apply Kept.writeFailed)
    | (with_reducible apply Kept.incWrap)
    | (with_reducible apply Kept.blockEvent)
    | (with_reducible apply Kept.completed)
    | decide

theorem Kept.flushTx {s0 s : State} {r : Nat} {l : List TxOut} (h : Kept s0 s) : Kept s0 (State.flushTx s r l) := by
  induction l generalizing s with
  | nil => exact Kept.setRing h
  | cons x rest ih =>
    unfold State.flushTx
    split
    · exact Kept.setRing h
    · exact ih (Kept.writeCompletion h)

theorem Kept.finishTx {s0 s : State} {r : Nat} {idx : Nat} {bytes : List Byte} (hk0 : Kept s0 s) :
    Kept s0 (State.finishTx s r idx bytes) := by
  unfold State.finishTx
  try dsimp only
  repeat' first
    | (with_reducible assumption)
    | (split)
    | (with_reducible refine Kept.foldl ?_ ?_)
    | decide
    | (intro u hu x hx)
    | (intro u hu)
    | (refine Kept.notMode_of_mem (by with_reducible assumption) (by decide))
    | (with_reducible apply Kept.emit)
    | (with_reducible apply Kept.flushTx)
    | (with_reducible refine Kept.mk_other ?_)
    | decide

theorem Kept.txFail {s0 s : State} {r : Nat} {idx : Nat} {status : Nat} (hk0 : Kept s0 s) :
    Kept s0 (State.txFail s r idx status) := by
  unfold State.txFail
  try dsimp only
  repeat' first
    | (with_reducible assumption)
    | (split)
    | (with_reducible refine Kept.foldl ?_ ?_)
    | decide
    | (intro u hu x hx)
    | (intro u hu)
    | (refine Kept.notMode_of_mem (by with_reducible assumption) (by decide))
    | (with_reducible apply Kept.emit)
    | (with_reducible apply Kept.finishTx)
    | decide

end Sys2Proof.Machine
end

