-- ==== Sys2Proof/Laws/KeptCalvanOps.lean ====
section
/-! SUPPORT. What the operations of CalvanOps keep (Laws/Kept.lean). -/

namespace Sys2Proof.Machine

set_option Elab.async false
set_option linter.all false

theorem Kept.writeRsp {s0 s : State} {n : Nat} {b : List Byte} (hk0 : Kept s0 s) :
    Kept s0 (State.writeRsp s n b) := by
  unfold State.writeRsp
  try dsimp only
  repeat' first
    | (with_reducible assumption)
    | (split)
    | (with_reducible refine Kept.foldl ?_ ?_)
    | decide
    | (intro u hu x hx)
    | (intro u hu)
    | (refine Kept.notMode_of_mem (by with_reducible assumption) (by decide))
    | (with_reducible refine Kept.wr ?_ (by first | decide | with_reducible assumption | exact Kept.notMode_of_mem (by with_reducible assumption) (by decide) | exact Kept.notMode_of_mem_fst (by with_reducible assumption) (by with_unfolding_all rfl)))
    | (with_reducible refine Kept.wrMode ?_ 4 (by decide) (by first | decide | with_reducible assumption))
    | (with_reducible refine Kept.wrMode ?_ 5 (by decide) (by first | decide | with_reducible assumption))
    | (with_reducible refine Kept.wrMode ?_ 8 (by decide) (by first | decide | with_reducible assumption))
    | (with_reducible apply Kept.emit)
    | decide

theorem Kept.mbxDone {s0 s : State} {n : Nat} (hk0 : Kept s0 s) :
    Kept s0 (State.mbxDone s n) := by
  unfold State.mbxDone
  try dsimp only
  repeat' first
    | (with_reducible assumption)
    | (split)
    | (with_reducible refine Kept.foldl ?_ ?_)
    | decide
    | (intro u hu x hx)
    | (intro u hu)
    | (refine Kept.notMode_of_mem (by with_reducible assumption) (by decide))
    | (with_reducible refine Kept.wr ?_ (by first | decide | with_reducible assumption | exact Kept.notMode_of_mem (by with_reducible assumption) (by decide) | exact Kept.notMode_of_mem_fst (by with_reducible assumption) (by with_unfolding_all rfl)))
    | (with_reducible refine Kept.wrMode ?_ 4 (by decide) (by first | decide | with_reducible assumption))
    | (with_reducible refine Kept.wrMode ?_ 5 (by decide) (by first | decide | with_reducible assumption))
    | (with_reducible refine Kept.wrMode ?_ 8 (by decide) (by first | decide | with_reducible assumption))
    | (with_reducible apply Kept.emit)
    | (with_reducible apply Kept.srcEvent)
    | decide

theorem Kept.deliver {s0 s : State} {src : Src} {b : List Byte} (hk0 : Kept s0 s) :
    Kept s0 (State.deliver s src b) := by
  unfold State.deliver
  try dsimp only
  repeat' first
    | (with_reducible assumption)
    | (split)
    | (with_reducible refine Kept.foldl ?_ ?_)
    | decide
    | (intro u hu x hx)
    | (intro u hu)
    | (refine Kept.notMode_of_mem (by with_reducible assumption) (by decide))
    | (with_reducible refine Kept.wr ?_ (by first | decide | with_reducible assumption | exact Kept.notMode_of_mem (by with_reducible assumption) (by decide) | exact Kept.notMode_of_mem_fst (by with_reducible assumption) (by with_unfolding_all rfl)))
    | (with_reducible refine Kept.wrMode ?_ 4 (by decide) (by first | decide | with_reducible assumption))
    | (with_reducible refine Kept.wrMode ?_ 5 (by decide) (by first | decide | with_reducible assumption))
    | (with_reducible refine Kept.wrMode ?_ 8 (by decide) (by first | decide | with_reducible assumption))
    | (with_reducible apply Kept.emit)
    | (with_reducible apply Kept.hostWrite)
    | (with_reducible apply Kept.writeRsp)
    | (with_reducible apply Kept.mbxDone)
    | (with_reducible apply Kept.setRing)
    | (with_reducible apply Kept.writeCompletion)
    | (with_reducible refine Kept.fst ?_ (by with_reducible assumption))
    | (with_reducible refine Kept.snd ?_ (by with_reducible assumption))
    | (with_reducible refine Kept.mk_other ?_)
    | decide

theorem Kept.answer {s0 s : State} {src : Src} {r : Resp} (hk0 : Kept s0 s) :
    Kept s0 (State.answer s src r) := by
  unfold State.answer
  try dsimp only
  repeat' first
    | (with_reducible assumption)
    | (split)
    | (with_reducible refine Kept.foldl ?_ ?_)
    | decide
    | (intro u hu x hx)
    | (intro u hu)
    | (refine Kept.notMode_of_mem (by with_reducible assumption) (by decide))
    | (with_reducible apply Kept.emit)
    | (with_reducible apply Kept.putCp)
    | (with_reducible apply Kept.deliver)
    | (with_reducible refine Kept.mk_other ?_)
    | decide

theorem Kept.mbxRead {s0 s : State} {n : Nat} (hk0 : Kept s0 s) :
    Kept s0 (State.mbxRead s n) := by
  unfold State.mbxRead
  try dsimp only
  repeat' first
    | (with_reducible assumption)
    | (split)
    | (with_reducible refine Kept.foldl ?_ ?_)
    | decide
    | (intro u hu x hx)
    | (intro u hu)
    | (refine Kept.notMode_of_mem (by with_reducible assumption) (by decide))
    | (with_reducible apply Kept.emit)
    | (with_reducible apply Kept.corrected)
    | (with_reducible apply Kept.rewrite)
    | decide

theorem Kept.take {s0 s : State} {src : Src} (hk0 : Kept s0 s) :
    Kept s0 (State.take s src) := by
  unfold State.take
  try dsimp only
  repeat' first
    | (with_reducible assumption)
    | (split)
    | (with_reducible refine Kept.foldl ?_ ?_)
    | decide
    | (intro u hu x hx)
    | (intro u hu)
    | (refine Kept.notMode_of_mem (by with_reducible assumption) (by decide))
    | (with_reducible apply Kept.emit)
    | (with_reducible apply Kept.putCp)
    | (with_reducible apply Kept.mbxRead)
    | (with_reducible apply Kept.setRing)
    | (with_reducible apply Kept.advanceHead)
    | (with_reducible refine Kept.fst ?_ (by with_reducible assumption))
    | (with_reducible refine Kept.snd ?_ (by with_reducible assumption))
    | (with_reducible refine Kept.mk_other ?_)
    | decide

theorem Kept.replayed {s0 s : State} {src : Src} {t : TagRec} (hk0 : Kept s0 s) :
    Kept s0 (State.replayed s src t) := by
  unfold State.replayed
  try dsimp only
  repeat' first
    | (with_reducible assumption)
    | (split)
    | (with_reducible refine Kept.foldl ?_ ?_)
    | decide
    | (intro u hu x hx)
    | (intro u hu)
    | (refine Kept.notMode_of_mem (by with_reducible assumption) (by decide))
    | (with_reducible apply Kept.emit)
    | (with_reducible apply Kept.putCp)
    | (with_reducible apply Kept.deliver)
    | (with_reducible refine Kept.mk_other ?_)
    | decide

theorem Kept.serveUnknown {s0 s : State} {src : Src} (hk0 : Kept s0 s) :
    Kept s0 (State.serveUnknown s src) := by
  unfold State.serveUnknown
  try dsimp only
  repeat' first
    | (with_reducible assumption)
    | (split)
    | (with_reducible refine Kept.foldl ?_ ?_)
    | decide
    | (intro u hu x hx)
    | (intro u hu)
    | (refine Kept.notMode_of_mem (by with_reducible assumption) (by decide))
    | (with_reducible apply Kept.emit)
    | (with_reducible apply Kept.take)
    | (with_reducible apply Kept.replayed)
    | (with_reducible apply Kept.answer)
    | (with_reducible refine Kept.fst ?_ (by with_reducible assumption))
    | (with_reducible refine Kept.snd ?_ (by with_reducible assumption))
    | (with_reducible refine Kept.mk_other ?_)
    | decide

theorem Kept.mbxLost {s0 s u : State} {src : Src} (h : Kept s0 s) (e : s.mbxLost src = some u) : Kept s0 u := by
  unfold State.mbxLost at e
  repeat' split at e
  all_goals first
    | contradiction
    | (simp only [Option.some.injEq] at e
       subst e
       exact Kept.answer (Kept.rewrite (Kept.logUe (Kept.take h))))

theorem Kept.pumpTurn {s0 s u : State} (h : Kept s0 s) (e : s.pumpTurn = some u) : Kept s0 u := by
  unfold State.pumpTurn at e
  repeat' split at e
  all_goals first
    | contradiction
    | (simp only [Option.some.injEq] at e
       subst e
       first
         | exact Kept.mbxLost h (by assumption)
         | exact Kept.serveUnknown h)

theorem Kept.pump {s0 s : State} {n : Nat} (h : Kept s0 s) : Kept s0 (State.pump n s) := by
  induction n generalizing s with
  | zero => exact h
  | succ n ih =>
    unfold State.pump
    repeat' first
      | (with_reducible assumption)
      | split
      | (with_reducible apply ih)
      | (with_reducible apply Kept.readFailed)
      | (with_reducible apply Kept.foundEarly)
      | (with_reducible apply Kept.writeCompletion)
      | (with_reducible apply Kept.advanceHead)
      | (with_reducible refine Kept.pumpTurn ?_ (by with_reducible assumption))

theorem Kept.pumpAll {s0 s : State} (hk0 : Kept s0 s) :
    Kept s0 (State.pumpAll s) := by
  unfold State.pumpAll
  try dsimp only
  repeat' first
    | (with_reducible assumption)
    | (split)
    | (with_reducible refine Kept.foldl ?_ ?_)
    | decide
    | (intro u hu x hx)
    | (intro u hu)
    | (refine Kept.notMode_of_mem (by with_reducible assumption) (by decide))
    | (with_reducible apply Kept.emit)
    | (with_reducible apply Kept.pump)
    | decide

theorem Kept.answerLater {s0 s : State} {src : Src} {r : Resp} (hk0 : Kept s0 s) :
    Kept s0 (State.answerLater s src r) := by
  unfold State.answerLater
  try dsimp only
  repeat' first
    | (with_reducible assumption)
    | (split)
    | (with_reducible refine Kept.foldl ?_ ?_)
    | decide
    | (intro u hu x hx)
    | (intro u hu)
    | (refine Kept.notMode_of_mem (by with_reducible assumption) (by decide))
    | (with_reducible apply Kept.emit)
    | (with_reducible apply Kept.answer)
    | (with_reducible apply Kept.pumpAll)
    | (with_reducible apply Kept.putCp)
    | (with_reducible refine Kept.mk_other ?_)
    | decide

theorem Kept.answerFailed {s0 s : State} {src : Src} (hk0 : Kept s0 s) :
    Kept s0 (State.answerFailed s src) := by
  unfold State.answerFailed
  try dsimp only
  repeat' first
    | (with_reducible assumption)
    | (split)
    | (with_reducible refine Kept.foldl ?_ ?_)
    | decide
    | (intro u hu x hx)
    | (intro u hu)
    | (refine Kept.notMode_of_mem (by with_reducible assumption) (by decide))
    | (with_reducible apply Kept.emit)
    | (with_reducible apply Kept.tickFree)
    | (with_reducible apply Kept.answerLater)
    | decide

theorem Kept.payOwed {s0 s : State} (hk0 : Kept s0 s) :
    Kept s0 (State.payOwed s) := by
  unfold State.payOwed
  try dsimp only
  repeat' first
    | (with_reducible assumption)
    | (split)
    | (with_reducible refine Kept.foldl ?_ ?_)
    | decide
    | (intro u hu x hx)
    | (intro u hu)
    | (refine Kept.notMode_of_mem (by with_reducible assumption) (by decide))
    | (with_reducible apply Kept.emit)
    | (with_reducible apply Kept.answerLater)
    | (with_reducible apply Kept.putCp)
    | (with_reducible apply Kept.pumpAll)
    | (with_reducible refine Kept.mk_other ?_)
    | decide

theorem Kept.calvan {s0 s : State} {src : Src} {code : Nat} {boot : Bool} {restricted : Bool} {body : Body} (hk0 : Kept s0 s) (hbody : ∀ u src p, Kept s0 u → Kept s0 (body u src p).1) :
    Kept s0 (State.calvan s src code boot restricted body) := by
  unfold State.calvan
  try dsimp only
  repeat' first
    | (with_reducible assumption)
    | (split)
    | (with_reducible refine Kept.foldl ?_ ?_)
    | decide
    | (intro u hu x hx)
    | (intro u hu)
    | (refine Kept.notMode_of_mem (by with_reducible assumption) (by decide))
    | (refine hbody _ ?_)
    | (refine hbody _ _ ?_)
    | (refine hbody _ _ _ ?_)
    | (with_reducible apply Kept.emit)
    | (with_reducible apply Kept.take)
    | (with_reducible apply Kept.replayed)
    | (with_reducible apply Kept.answer)
    | (with_reducible apply Kept.pumpAll)
    | (with_reducible refine Kept.fst ?_ (by with_reducible assumption))
    | (with_reducible refine Kept.snd ?_ (by with_reducible assumption))
    | (with_reducible refine Kept.mk_other ?_)
    | decide

theorem Kept.atOnce {s0 s : State} {f : State → List Byte → State × Resp} {src : Src} {p : List Byte} (h : Kept s0 s)
    (hf : ∀ u p, Kept s0 u → Kept s0 (f u p).1) : Kept s0 (Machine.atOnce f s src p).1 := hf s p h

end Sys2Proof.Machine
end

