-- ==== Sys2Proof/Laws/KeptMonOps.lean ====
section
/-! SUPPORT. What the operations of MonOps keep (Laws/Kept.lean). -/

namespace Sys2Proof.Machine

set_option Elab.async false
set_option linter.all false

theorem Kept.setMon {s0 s : State} {f : Monitor → Monitor} (hk0 : Kept s0 s) :
    Kept s0 (State.setMon s f) := by
  unfold State.setMon
  try dsimp only
  repeat' first
    | (with_reducible assumption)
    | (split)
    | (with_reducible refine Kept.foldl ?_ ?_)
    | decide
    | (intro u hu x hx)
    | (intro u hu)
    | (refine Kept.notMode_of_mem (by with_reducible assumption) (by decide))
    | (with_reducible apply Kept.emit)
    | (with_reducible refine Kept.mk_other ?_)
    | decide

theorem Kept.snapPage {s0 s : State} {seq : Nat} {p : Nat} (hk0 : Kept s0 s) :
    Kept s0 (State.snapPage s seq p) := by
  unfold State.snapPage
  try dsimp only
  repeat' first
    | (with_reducible assumption)
    | (split)
    | (with_reducible refine Kept.foldl ?_ ?_)
    | decide
    | (intro u hu x hx)
    | (intro u hu)
    | (refine Kept.notMode_of_mem (by with_reducible assumption) (by decide))
    | (with_reducible apply Kept.emit)
    | (with_reducible apply Kept.setMon)
    | (with_reducible refine Kept.mk_other ?_)
    | decide

theorem Kept.snapshot {s0 s : State} (hk0 : Kept s0 s) :
    Kept s0 (State.snapshot s) := by
  unfold State.snapshot
  try dsimp only
  repeat' first
    | (with_reducible assumption)
    | (split)
    | (with_reducible refine Kept.foldl ?_ ?_)
    | decide
    | (intro u hu x hx)
    | (intro u hu)
    | (refine Kept.notMode_of_mem (by with_reducible assumption) (by decide))
    | (with_reducible refine Kept.wr ?_ (by first | decide | with_reducible assumption | exact Kept.notMode_of_mem (by with_reducible assumption) (by decide) | exact Kept.notMode_of_mem_fst (by with_reducible assumption) (by with_unfolding_all rfl)))
    | (with_reducible refine Kept.wrMode ?_ 4 (by decide) (by first | decide | with_reducible assumption))
    | (with_reducible refine Kept.wrMode ?_ 5 (by decide) (by first | decide | with_reducible assumption))
    | (with_reducible refine Kept.wrMode ?_ 8 (by decide) (by first | decide | with_reducible assumption))
    | (with_reducible apply Kept.emit)
    | (with_reducible apply Kept.setMon)
    | (with_reducible apply Kept.snapPage)
    | (with_reducible apply Kept.pmcEvent)
    | (with_reducible refine Kept.fst ?_ (by with_reducible assumption))
    | (with_reducible refine Kept.snd ?_ (by with_reducible assumption))
    | (with_reducible refine Kept.mk_other ?_)
    | decide

theorem Kept.armSnap {s0 s : State} {at_ : Int} (hk0 : Kept s0 s) :
    Kept s0 (State.armSnap s at_) := by
  unfold State.armSnap
  try dsimp only
  repeat' first
    | (with_reducible assumption)
    | (split)
    | (with_reducible refine Kept.foldl ?_ ?_)
    | decide
    | (intro u hu x hx)
    | (intro u hu)
    | (refine Kept.notMode_of_mem (by with_reducible assumption) (by decide))
    | (with_reducible apply Kept.emit)
    | (with_reducible apply Kept.setMon)
    | (with_reducible apply Kept.snapshot)
    | (with_reducible refine Kept.mk_other ?_)
    | decide

theorem Kept.writeSnapCtl {s0 s : State} {v : Nat} (hk0 : Kept s0 s) :
    Kept s0 (State.writeSnapCtl s v) := by
  unfold State.writeSnapCtl
  try dsimp only
  repeat' first
    | (with_reducible assumption)
    | (split)
    | (with_reducible refine Kept.foldl ?_ ?_)
    | decide
    | (intro u hu x hx)
    | (intro u hu)
    | (refine Kept.notMode_of_mem (by with_reducible assumption) (by decide))
    | (with_reducible apply Kept.emit)
    | (with_reducible apply Kept.snapshot)
    | (with_reducible apply Kept.setMon)
    | (with_reducible apply Kept.armSnap)
    | (with_reducible refine Kept.fst ?_ (by with_reducible assumption))
    | (with_reducible refine Kept.snd ?_ (by with_reducible assumption))
    | (with_reducible refine Kept.mk_other ?_)
    | decide

theorem Kept.legRead {s0 s : State} (hk0 : Kept s0 s) :
    Kept s0 (State.legRead s).2 := by
  unfold State.legRead
  try dsimp only
  repeat' first
    | (with_reducible assumption)
    | (split)
    | (with_reducible refine Kept.foldl ?_ ?_)
    | decide
    | (intro u hu x hx)
    | (intro u hu)
    | (refine Kept.notMode_of_mem (by with_reducible assumption) (by decide))
    | (with_reducible apply Kept.emit)
    | (with_reducible apply Kept.setMon)
    | (with_reducible refine Kept.fst ?_ (by with_reducible assumption))
    | (with_reducible refine Kept.snd ?_ (by with_reducible assumption))
    | (with_reducible refine Kept.mk_other ?_)
    | decide

theorem Kept.tickPredict {s0 s : State} (hk0 : Kept s0 s) :
    Kept s0 (State.tickPredict s) := by
  unfold State.tickPredict
  try dsimp only
  repeat' first
    | (with_reducible assumption)
    | (split)
    | (with_reducible refine Kept.foldl ?_ ?_)
    | decide
    | (intro u hu x hx)
    | (intro u hu)
    | (refine Kept.notMode_of_mem (by with_reducible assumption) (by decide))
    | (with_reducible apply Kept.emit)
    | (with_reducible refine Kept.mk_free ?_)
    | (with_reducible refine Kept.mk_other ?_)
    | decide

theorem Kept.tmxLock {s0 s : State} (hk0 : Kept s0 s) :
    Kept s0 (State.tmxLock s) := by
  unfold State.tmxLock
  try dsimp only
  repeat' first
    | (with_reducible assumption)
    | (split)
    | (with_reducible refine Kept.foldl ?_ ?_)
    | decide
    | (intro u hu x hx)
    | (intro u hu)
    | (refine Kept.notMode_of_mem (by with_reducible assumption) (by decide))
    | (with_reducible refine Kept.wr ?_ (by first | decide | with_reducible assumption | exact Kept.notMode_of_mem (by with_reducible assumption) (by decide) | exact Kept.notMode_of_mem_fst (by with_reducible assumption) (by with_unfolding_all rfl)))
    | (with_reducible refine Kept.wrMode ?_ 4 (by decide) (by first | decide | with_reducible assumption))
    | (with_reducible refine Kept.wrMode ?_ 5 (by decide) (by first | decide | with_reducible assumption))
    | (with_reducible refine Kept.wrMode ?_ 8 (by decide) (by first | decide | with_reducible assumption))
    | (with_reducible apply Kept.emit)
    | (with_reducible apply Kept.pmcEvent)
    | decide

end Sys2Proof.Machine
end

