-- ==== Sys2Proof/Laws/KeptBrineOps.lean ====
section
/-! SUPPORT. What the operations of BrineOps keep (Laws/Kept.lean). -/

namespace Sys2Proof.Machine

set_option Elab.async false
set_option linter.all false

theorem Kept.takeCells {s0 s t : State} {r n id : Nat} (h : Kept s0 s) (e : s.takeCells r n = some (id, t)) :
    Kept s0 t := by
  unfold State.takeCells at e
  dsimp only at e
  repeat' split at e
  all_goals first
    | contradiction
    | (simp only [Option.some.injEq, Prod.mk.injEq] at e
       obtain ⟨_, rfl⟩ := e
       first
         | exact Kept.putBuf h
         | exact Kept.blockEvent (Kept.putBuf h))

theorem Kept.growCells {s0 s t : State} {id n : Nat} (h : Kept s0 s) (e : s.growCells id n = some t) : Kept s0 t := by
  unfold State.growCells at e
  dsimp only at e
  repeat' split at e
  all_goals first
    | contradiction
    | (simp only [Option.some.injEq] at e
       subst e
       exact Kept.putBuf h)

theorem Kept.holdCells {s0 s : State} {id : Nat} (hk0 : Kept s0 s) :
    Kept s0 (State.holdCells s id) := by
  unfold State.holdCells
  try dsimp only
  repeat' first
    | (with_reducible assumption)
    | (split)
    | (with_reducible refine Kept.foldl ?_ ?_)
    | decide
    | (intro u hu x hx)
    | (intro u hu)
    | (refine Kept.notMode_of_mem (by with_reducible assumption) (by decide))
    | (with_reducible apply Kept.emit)
    | (with_reducible apply Kept.putBuf)
    | (with_reducible refine Kept.fst ?_ (by with_reducible assumption))
    | (with_reducible refine Kept.snd ?_ (by with_reducible assumption))
    | (with_reducible refine Kept.mk_other ?_)
    | decide

theorem Kept.freeCells {s0 s : State} {id : Nat} (hk0 : Kept s0 s) :
    Kept s0 (State.freeCells s id) := by
  unfold State.freeCells
  try dsimp only
  repeat' first
    | (with_reducible assumption)
    | (split)
    | (with_reducible refine Kept.foldl ?_ ?_)
    | decide
    | (intro u hu x hx)
    | (intro u hu)
    | (refine Kept.notMode_of_mem (by with_reducible assumption) (by decide))
    | (with_reducible apply Kept.emit)
    | (with_reducible apply Kept.putBuf)
    | (with_reducible refine Kept.fst ?_ (by with_reducible assumption))
    | (with_reducible refine Kept.snd ?_ (by with_reducible assumption))
    | (with_reducible refine Kept.mk_other ?_)
    | decide

theorem Kept.cellRead {s0 s : State} {r : Nat} (h : Kept s0 s) : Kept s0 (State.cellRead s r).2 := by
  unfold State.cellRead
  dsimp only
  split
  · exact h
  · have h1 := Kept.foldl (l := (s.upsets.filter (fun u => u.mem == 1 && u.inst == r)).filter (fun u => upsetSeen u == .corrected))
      (f := fun s u => (s.rewriteWord 1 r u.addr).corrected 0) h (fun u hu x hx => Kept.corrected (Kept.rewriteWord hu))
    split
    · exact h1
    · refine Kept.putBuf (Kept.logUe (Kept.putUpsets ?_))
      split
      · exact Kept.putBuf h1
      · exact h1

theorem Kept.popPage {s0 s : State} {k : Nat} (hk0 : Kept s0 s) :
    Kept s0 (State.popPage s k).2 := by
  unfold State.popPage
  try dsimp only
  repeat' first
    | (with_reducible assumption)
    | (split)
    | (with_reducible refine Kept.foldl ?_ ?_)
    | decide
    | (intro u hu x hx)
    | (intro u hu)
    | (refine Kept.notMode_of_mem (by with_reducible assumption) (by decide))
    | (with_reducible apply Kept.emit)
    | (with_reducible apply Kept.putBuf)
    | (with_reducible refine Kept.fst ?_ (by with_reducible assumption))
    | (with_reducible refine Kept.snd ?_ (by with_reducible assumption))
    | (with_reducible refine Kept.mk_other ?_)
    | decide

theorem Kept.linkPage {s0 s : State} {q : Nat} {seq : Nat} {p : Nat} {tail : Option Nat} (hk0 : Kept s0 s) :
    Kept s0 (State.linkPage s q seq p tail) := by
  unfold State.linkPage
  try dsimp only
  repeat' first
    | (with_reducible assumption)
    | (split)
    | (with_reducible refine Kept.foldl ?_ ?_)
    | decide
    | (intro u hu x hx)
    | (intro u hu)
    | (refine Kept.notMode_of_mem (by with_reducible assumption) (by decide))
    | (with_reducible apply Kept.emit)
    | (with_reducible apply Kept.putBuf)
    | (with_reducible refine Kept.fst ?_ (by with_reducible assumption))
    | (with_reducible refine Kept.snd ?_ (by with_reducible assumption))
    | (with_reducible refine Kept.mk_other ?_)
    | decide

theorem Kept.takePage {s0 s t : State} {q seq : Nat} {pages : List Nat} {k : Nat} (h : Kept s0 s)
    (e : s.takePage q seq pages = some (k, t)) : Kept s0 t := by
  unfold State.takePage at e
  dsimp only at e
  repeat' split at e
  all_goals first
    | contradiction
    | (simp only [Option.some.injEq, Prod.mk.injEq] at e
       obtain ⟨_, rfl⟩ := e
       exact Kept.linkPage (Kept.popPage h))

theorem Kept.givePages {s0 s : State} {pages : List Nat} (hk0 : Kept s0 s) :
    Kept s0 (State.givePages s pages) := by
  unfold State.givePages
  try dsimp only
  repeat' first
    | (with_reducible assumption)
    | (split)
    | (with_reducible refine Kept.foldl ?_ ?_)
    | decide
    | (intro u hu x hx)
    | (intro u hu)
    | (refine Kept.notMode_of_mem (by with_reducible assumption) (by decide))
    | (with_reducible apply Kept.emit)
    | (with_reducible apply Kept.putBuf)
    | (with_reducible refine Kept.mk_other ?_)
    | decide

theorem Kept.takePages {s0 s t : State} {q n seq : Nat} {pages l : List Nat} (h : Kept s0 s)
    (e : State.takePages q n seq s pages = some (l, t)) : Kept s0 t := by
  induction n generalizing s pages seq with
  | zero =>
    simp only [State.takePages, Option.some.injEq, Prod.mk.injEq] at e
    rw [← e.2]; exact h
  | succ n ih =>
    simp only [State.takePages] at e
    split at e
    · cases e
    · rename_i hp
      exact ih (Kept.takePage h hp) e

theorem Kept.setDeepQ {s0 s : State} {t : Nat} {term : Nat} {cls : Nat} {q : DeepQ} (hk0 : Kept s0 s) :
    Kept s0 (State.setDeepQ s t term cls q) := by
  unfold State.setDeepQ
  try dsimp only
  repeat' first
    | (with_reducible assumption)
    | (split)
    | (with_reducible refine Kept.foldl ?_ ?_)
    | decide
    | (intro u hu x hx)
    | (intro u hu)
    | (refine Kept.notMode_of_mem (by with_reducible assumption) (by decide))
    | (with_reducible apply Kept.emit)
    | (with_reducible refine Kept.mk_other ?_)
    | decide

theorem Kept.setBuf {s0 s : State} {f : Buffers → Buffers} (hk0 : Kept s0 s) :
    Kept s0 (State.setBuf s f) := by
  unfold State.setBuf
  try dsimp only
  repeat' first
    | (with_reducible assumption)
    | (split)
    | (with_reducible refine Kept.foldl ?_ ?_)
    | decide
    | (intro u hu x hx)
    | (intro u hu)
    | (refine Kept.notMode_of_mem (by with_reducible assumption) (by decide))
    | (with_reducible apply Kept.emit)
    | (with_reducible refine Kept.mk_other ?_)
    | decide

theorem Kept.setEgressQ {s0 s : State} {lane : Nat} {cls : Nat} {q : EgressQ} (hk0 : Kept s0 s) :
    Kept s0 (State.setEgressQ s lane cls q) := by
  unfold State.setEgressQ
  try dsimp only
  repeat' first
    | (with_reducible assumption)
    | (split)
    | (with_reducible refine Kept.foldl ?_ ?_)
    | decide
    | (intro u hu x hx)
    | (intro u hu)
    | (refine Kept.notMode_of_mem (by with_reducible assumption) (by decide))
    | (with_reducible apply Kept.emit)
    | (with_reducible apply Kept.setBuf)
    | (with_reducible refine Kept.mk_other ?_)
    | decide

theorem Kept.postShrink {s0 s : State} {lane : Nat} {cls : Nat} {st : Nat} (hk0 : Kept s0 s) :
    Kept s0 (State.postShrink s lane cls st) := by
  unfold State.postShrink
  try dsimp only
  repeat' first
    | (with_reducible assumption)
    | (split)
    | (with_reducible refine Kept.foldl ?_ ?_)
    | decide
    | (intro u hu x hx)
    | (intro u hu)
    | (refine Kept.notMode_of_mem (by with_reducible assumption) (by decide))
    | (with_reducible apply Kept.emit)
    | (with_reducible apply Kept.setBuf)
    | (with_reducible refine Kept.mk_other ?_)
    | decide

theorem Kept.egressSettle {s0 s : State} {lane : Nat} {cls : Nat} (hk0 : Kept s0 s) :
    Kept s0 (State.egressSettle s lane cls) := by
  unfold State.egressSettle
  try dsimp only
  repeat' first
    | (with_reducible assumption)
    | (split)
    | (with_reducible refine Kept.foldl ?_ ?_)
    | decide
    | (intro u hu x hx)
    | (intro u hu)
    | (refine Kept.notMode_of_mem (by with_reducible assumption) (by decide))
    | (with_reducible apply Kept.emit)
    | (with_reducible apply Kept.setEgressQ)
    | (with_reducible apply Kept.postShrink)
    | (with_reducible refine Kept.mk_other ?_)
    | decide

theorem Kept.settleAll {s0 s : State} (hk0 : Kept s0 s) :
    Kept s0 (State.settleAll s) := by
  unfold State.settleAll
  try dsimp only
  repeat' first
    | (with_reducible assumption)
    | (split)
    | (with_reducible refine Kept.foldl ?_ ?_)
    | decide
    | (intro u hu x hx)
    | (intro u hu)
    | (refine Kept.notMode_of_mem (by with_reducible assumption) (by decide))
    | (with_reducible apply Kept.emit)
    | (with_reducible apply Kept.egressSettle)
    | decide

theorem Kept.toEgress {s0 s : State} {f : UsFrame} (hk0 : Kept s0 s) :
    Kept s0 (State.toEgress s f) := by
  unfold State.toEgress
  try dsimp only
  repeat' first
    | (with_reducible assumption)
    | (split)
    | (with_reducible refine Kept.foldl ?_ ?_)
    | decide
    | (intro u hu x hx)
    | (intro u hu)
    | (refine Kept.notMode_of_mem (by with_reducible assumption) (by decide))
    | (with_reducible apply Kept.emit)
    | (with_reducible apply Kept.setEgressQ)
    | (with_reducible apply Kept.egressSettle)
    | (with_reducible refine Kept.mk_other ?_)
    | decide

theorem Kept.clearQ {s0 s : State} {t : Nat} {term : Nat} {cls : Nat} (hk0 : Kept s0 s) :
    Kept s0 (State.clearQ s t term cls) := by
  unfold State.clearQ
  try dsimp only
  repeat' first
    | (with_reducible assumption)
    | (split)
    | (with_reducible refine Kept.foldl ?_ ?_)
    | decide
    | (intro u hu x hx)
    | (intro u hu)
    | (refine Kept.notMode_of_mem (by with_reducible assumption) (by decide))
    | (with_reducible apply Kept.emit)
    | (with_reducible apply Kept.givePages)
    | (with_reducible apply Kept.setDeepQ)
    | (with_reducible refine Kept.mk_other ?_)
    | decide

theorem Kept.endFrame {s0 s : State} {o : Origin} {status : Nat} (hk0 : Kept s0 s) :
    Kept s0 (State.endFrame s o status) := by
  unfold State.endFrame
  try dsimp only
  repeat' first
    | (with_reducible assumption)
    | (split)
    | (with_reducible refine Kept.foldl ?_ ?_)
    | decide
    | (intro u hu x hx)
    | (intro u hu)
    | (refine Kept.notMode_of_mem (by with_reducible assumption) (by decide))
    | (with_reducible apply Kept.emit)
    | (with_reducible apply Kept.txFail)
    | (with_reducible refine Kept.mk_other ?_)
    | decide

theorem Kept.flushQueues {s0 s : State} {which : Key → Bool} {status : Nat} (hk0 : Kept s0 s) :
    Kept s0 (State.flushQueues s which status) := by
  unfold State.flushQueues
  try dsimp only
  repeat' first
    | (with_reducible assumption)
    | (split)
    | (with_reducible refine Kept.foldl ?_ ?_)
    | decide
    | (intro u hu x hx)
    | (intro u hu)
    | (refine Kept.notMode_of_mem (by with_reducible assumption) (by decide))
    | (with_reducible apply Kept.emit)
    | (with_reducible apply Kept.clearQ)
    | (with_reducible apply Kept.addCnt)
    | (with_reducible apply Kept.endFrame)
    | (with_reducible apply Kept.settleAll)
    | decide

end Sys2Proof.Machine
end

