-- ==== Sys2Proof/Laws/KeptTreeOps.lean ====
section
/-! SUPPORT. What the operations of TreeOps keep (Laws/Kept.lean). -/

namespace Sys2Proof.Machine

set_option Elab.async false
set_option linter.all false

theorem Kept.setTree {s0 s : State} {t : Nat} {x : Tree} (hk0 : Kept s0 s) :
    Kept s0 (State.setTree s t x) := by
  unfold State.setTree
  try dsimp only
  repeat' first
    | (with_reducible assumption)
    | (split)
    | (with_reducible refine Kept.foldl ?_ ?_)
    | decide
    | (intro u hu x hx)
    | (intro u hu)
    | (refine Kept.notMode_of_mem (by with_reducible assumption) (by decide))
    | (with_reducible apply Kept.emit)
    | (with_reducible refine Kept.mk_other ?_)
    | decide

theorem Kept.setTreeU {s0 s : State} {t : Nat} {x : TreeUs} (hk0 : Kept s0 s) :
    Kept s0 (State.setTreeU s t x) := by
  unfold State.setTreeU
  try dsimp only
  repeat' first
    | (with_reducible assumption)
    | (split)
    | (with_reducible refine Kept.foldl ?_ ?_)
    | decide
    | (intro u hu x hx)
    | (intro u hu)
    | (refine Kept.notMode_of_mem (by with_reducible assumption) (by decide))
    | (with_reducible apply Kept.emit)
    | (with_reducible refine Kept.mk_other ?_)
    | decide

theorem Kept.setTerm {s0 s : State} {t : Nat} {k : Nat} {x : Term} (hk0 : Kept s0 s) :
    Kept s0 (State.setTerm s t k x) := by
  unfold State.setTerm
  try dsimp only
  repeat' first
    | (with_reducible assumption)
    | (split)
    | (with_reducible refine Kept.foldl ?_ ?_)
    | decide
    | (intro u hu x hx)
    | (intro u hu)
    | (refine Kept.notMode_of_mem (by with_reducible assumption) (by decide))
    | (with_reducible apply Kept.emit)
    | (with_reducible apply Kept.putTerms)
    | decide

theorem Kept.setSlot {s0 s : State} {h : Nat} {x : KeySlot} (hk0 : Kept s0 s) :
    Kept s0 (State.setSlot s h x) := by
  unfold State.setSlot
  try dsimp only
  repeat' first
    | (with_reducible assumption)
    | (split)
    | (with_reducible refine Kept.foldl ?_ ?_)
    | decide
    | (intro u hu x hx)
    | (intro u hu)
    | (refine Kept.notMode_of_mem (by with_reducible assumption) (by decide))
    | (with_reducible apply Kept.emit)
    | (with_reducible refine Kept.mk_other ?_)
    | decide

theorem Kept.setShared {s0 s : State} {t : Nat} {x : SluShared} (hk0 : Kept s0 s) :
    Kept s0 (State.setShared s t x) := by
  unfold State.setShared
  try dsimp only
  repeat' first
    | (with_reducible assumption)
    | (split)
    | (with_reducible refine Kept.foldl ?_ ?_)
    | decide
    | (intro u hu x hx)
    | (intro u hu)
    | (refine Kept.notMode_of_mem (by with_reducible assumption) (by decide))
    | (with_reducible apply Kept.emit)
    | (with_reducible refine Kept.mk_other ?_)
    | decide

theorem Kept.setSluTree {s0 s : State} {u : Nat} {t : Nat} {x : SluTree} (hk0 : Kept s0 s) :
    Kept s0 (State.setSluTree s u t x) := by
  unfold State.setSluTree
  try dsimp only
  repeat' first
    | (with_reducible assumption)
    | (split)
    | (with_reducible refine Kept.foldl ?_ ?_)
    | decide
    | (intro u hu x hx)
    | (intro u hu)
    | (refine Kept.notMode_of_mem (by with_reducible assumption) (by decide))
    | (with_reducible apply Kept.emit)
    | (with_reducible refine Kept.mk_other ?_)
    | decide

theorem Kept.setSluUnit {s0 s : State} {u : Nat} {x : SluUnit} (hk0 : Kept s0 s) :
    Kept s0 (State.setSluUnit s u x) := by
  unfold State.setSluUnit
  try dsimp only
  repeat' first
    | (with_reducible assumption)
    | (split)
    | (with_reducible refine Kept.foldl ?_ ?_)
    | decide
    | (intro u hu x hx)
    | (intro u hu)
    | (refine Kept.notMode_of_mem (by with_reducible assumption) (by decide))
    | (with_reducible apply Kept.emit)
    | (with_reducible refine Kept.mk_other ?_)
    | decide

theorem Kept.countForecasts {s0 s : State} (hk0 : Kept s0 s) :
    Kept s0 (State.countForecasts s) := by
  unfold State.countForecasts
  try dsimp only
  repeat' first
    | (with_reducible assumption)
    | (split)
    | (with_reducible refine Kept.foldl ?_ ?_)
    | decide
    | (intro u hu x hx)
    | (intro u hu)
    | (refine Kept.notMode_of_mem (by with_reducible assumption) (by decide))
    | (with_reducible refine Kept.wr ?_ (by first | decide | with_reducible assumption | exact Kept.notMode_of_mem (by with_reducible assumption) (by decide) | exact Kept.notMode_of_mem_fst (by with_reducible assumption) (by with_unfolding_all rfl)))
    | (with_reducible refine Kept.wrMode ?_ 4 (by decide) (by first | decide | with_reducible assumption))
    | (with_reducible refine Kept.wrMode ?_ 5 (by decide) (by first | decide | with_reducible assumption))
    | (with_reducible refine Kept.wrMode ?_ 8 (by decide) (by first | decide | with_reducible assumption))
    | (with_reducible apply Kept.emit)
    | decide

theorem Kept.ploamPut {s0 s : State} {t : Nat} {p : Ploam} (hk0 : Kept s0 s) :
    Kept s0 (State.ploamPut s t p) := by
  unfold State.ploamPut
  try dsimp only
  repeat' first
    | (with_reducible assumption)
    | (split)
    | (with_reducible refine Kept.foldl ?_ ?_)
    | decide
    | (intro u hu x hx)
    | (intro u hu)
    | (refine Kept.notMode_of_mem (by with_reducible assumption) (by decide))
    | (with_reducible apply Kept.emit)
    | (with_reducible apply Kept.setTree)
    | (with_reducible refine Kept.mk_other ?_)
    | decide

theorem Kept.ploamNormal {s0 s : State} {t : Nat} {term : Nat} {m : PloamMsg} (hk0 : Kept s0 s) :
    Kept s0 (State.ploamNormal s t term m) := by
  unfold State.ploamNormal
  try dsimp only
  repeat' first
    | (with_reducible assumption)
    | (split)
    | (with_reducible refine Kept.foldl ?_ ?_)
    | decide
    | (intro u hu x hx)
    | (intro u hu)
    | (refine Kept.notMode_of_mem (by with_reducible assumption) (by decide))
    | (with_reducible apply Kept.emit)
    | (with_reducible apply Kept.ploamPut)
    | decide

theorem Kept.ploamUrgent {s0 s : State} {t : Nat} {term : Nat} {m : PloamMsg} (hk0 : Kept s0 s) :
    Kept s0 (State.ploamUrgent s t term m) := by
  unfold State.ploamUrgent
  try dsimp only
  repeat' first
    | (with_reducible assumption)
    | (split)
    | (with_reducible refine Kept.foldl ?_ ?_)
    | decide
    | (intro u hu x hx)
    | (intro u hu)
    | (refine Kept.notMode_of_mem (by with_reducible assumption) (by decide))
    | (with_reducible apply Kept.emit)
    | (with_reducible apply Kept.ploamPut)
    | decide

theorem Kept.forceAwake {s0 s : State} {t : Nat} {k : Nat} (hk0 : Kept s0 s) :
    Kept s0 (State.forceAwake s t k) := by
  unfold State.forceAwake
  try dsimp only
  repeat' first
    | (with_reducible assumption)
    | (split)
    | (with_reducible refine Kept.foldl ?_ ?_)
    | decide
    | (intro u hu x hx)
    | (intro u hu)
    | (refine Kept.notMode_of_mem (by with_reducible assumption) (by decide))
    | (with_reducible apply Kept.emit)
    | (with_reducible apply Kept.setTerm)
    | (with_reducible apply Kept.setTree)
    | (with_reducible refine Kept.mk_other ?_)
    | decide

theorem Kept.wakeStaged {s0 s : State} {t : Nat} {term : Nat} (hk0 : Kept s0 s) :
    Kept s0 (State.wakeStaged s t term) := by
  unfold State.wakeStaged
  try dsimp only
  repeat' first
    | (with_reducible assumption)
    | (split)
    | (with_reducible refine Kept.foldl ?_ ?_)
    | decide
    | (intro u hu x hx)
    | (intro u hu)
    | (refine Kept.notMode_of_mem (by with_reducible assumption) (by decide))
    | (with_reducible apply Kept.emit)
    | (with_reducible apply Kept.forceAwake)
    | decide

theorem Kept.reannounce {s0 s : State} {t : Nat} (hk0 : Kept s0 s) :
    Kept s0 (State.reannounce s t) := by
  unfold State.reannounce
  try dsimp only
  repeat' first
    | (with_reducible assumption)
    | (split)
    | (with_reducible refine Kept.foldl ?_ ?_)
    | decide
    | (intro u hu x hx)
    | (intro u hu)
    | (refine Kept.notMode_of_mem (by with_reducible assumption) (by decide))
    | (with_reducible apply Kept.emit)
    | (with_reducible apply Kept.ploamNormal)
    | (with_reducible apply Kept.setTree)
    | (with_reducible refine Kept.mk_other ?_)
    | decide

theorem Kept.askPloamu {s0 s : State} {t : Nat} {k : Nat} (hk0 : Kept s0 s) :
    Kept s0 (State.askPloamu s t k) := by
  unfold State.askPloamu
  try dsimp only
  repeat' first
    | (with_reducible assumption)
    | (split)
    | (with_reducible refine Kept.foldl ?_ ?_)
    | decide
    | (intro u hu x hx)
    | (intro u hu)
    | (refine Kept.notMode_of_mem (by with_reducible assumption) (by decide))
    | (with_reducible apply Kept.emit)
    | (with_reducible apply Kept.setShared)
    | (with_reducible refine Kept.mk_other ?_)
    | decide

theorem Kept.ploamTo {s0 s : State} {t : Nat} {term : Nat} {m : PloamMsg} (hk0 : Kept s0 s) :
    Kept s0 (State.ploamTo s t term m) := by
  unfold State.ploamTo
  try dsimp only
  repeat' first
    | (with_reducible assumption)
    | (split)
    | (with_reducible refine Kept.foldl ?_ ?_)
    | decide
    | (intro u hu x hx)
    | (intro u hu)
    | (refine Kept.notMode_of_mem (by with_reducible assumption) (by decide))
    | (with_reducible apply Kept.emit)
    | (with_reducible apply Kept.setTree)
    | (with_reducible apply Kept.forceAwake)
    | (with_reducible apply Kept.ploamNormal)
    | (with_reducible apply Kept.askPloamu)
    | (with_reducible refine Kept.mk_other ?_)
    | decide

theorem Kept.ploamClear {s0 s : State} {t : Nat} (hk0 : Kept s0 s) :
    Kept s0 (State.ploamClear s t) := by
  unfold State.ploamClear
  try dsimp only
  repeat' first
    | (with_reducible assumption)
    | (split)
    | (with_reducible refine Kept.foldl ?_ ?_)
    | decide
    | (intro u hu x hx)
    | (intro u hu)
    | (refine Kept.notMode_of_mem (by with_reducible assumption) (by decide))
    | (with_reducible apply Kept.emit)
    | (with_reducible apply Kept.setTree)
    | (with_reducible refine Kept.mk_other ?_)
    | decide

theorem Kept.countOper {s0 s : State} {t : Nat} (hk0 : Kept s0 s) :
    Kept s0 (State.countOper s t) := by
  unfold State.countOper
  try dsimp only
  repeat' first
    | (with_reducible assumption)
    | (split)
    | (with_reducible refine Kept.foldl ?_ ?_)
    | decide
    | (intro u hu x hx)
    | (intro u hu)
    | (refine Kept.notMode_of_mem (by with_reducible assumption) (by decide))
    | (with_reducible refine Kept.wr ?_ (by first | decide | with_reducible assumption | exact Kept.notMode_of_mem (by with_reducible assumption) (by decide) | exact Kept.notMode_of_mem_fst (by with_reducible assumption) (by with_unfolding_all rfl)))
    | (with_reducible refine Kept.wrMode ?_ 4 (by decide) (by first | decide | with_reducible assumption))
    | (with_reducible refine Kept.wrMode ?_ 5 (by decide) (by first | decide | with_reducible assumption))
    | (with_reducible refine Kept.wrMode ?_ 8 (by decide) (by first | decide | with_reducible assumption))
    | (with_reducible apply Kept.emit)
    | decide

theorem Kept.zeroAccounts {s0 s : State} {t : Nat} {k : Nat} (hk0 : Kept s0 s) :
    Kept s0 (State.zeroAccounts s t k) := by
  unfold State.zeroAccounts
  try dsimp only
  repeat' first
    | (with_reducible assumption)
    | (split)
    | (with_reducible refine Kept.foldl ?_ ?_)
    | decide
    | (intro u hu x hx)
    | (intro u hu)
    | (refine Kept.notMode_of_mem (by with_reducible assumption) (by decide))
    | (with_reducible apply Kept.emit)
    | (with_reducible apply Kept.setSluTree)
    | (with_reducible refine Kept.mk_other ?_)
    | decide

theorem Kept.termState {s0 s : State} {t : Nat} {k : Nat} {st : Nat} (hk0 : Kept s0 s) :
    Kept s0 (State.termState s t k st) := by
  unfold State.termState
  try dsimp only
  repeat' first
    | (with_reducible assumption)
    | (split)
    | (with_reducible refine Kept.foldl ?_ ?_)
    | decide
    | (intro u hu x hx)
    | (intro u hu)
    | (refine Kept.notMode_of_mem (by with_reducible assumption) (by decide))
    | (with_reducible apply Kept.emit)
    | (with_reducible apply Kept.setTerm)
    | (with_reducible apply Kept.countOper)
    | (with_reducible apply Kept.treUsEvent)
    | (with_reducible refine Kept.mk_other ?_)
    | decide

theorem Kept.dropReasm {s0 s : State} {t : Nat} {which : Nat → Reasm → Bool} {count : Bool} (hk0 : Kept s0 s) :
    Kept s0 (State.dropReasm s t which count) := by
  unfold State.dropReasm
  try dsimp only
  repeat' first
    | (with_reducible assumption)
    | (split)
    | (with_reducible refine Kept.foldl ?_ ?_)
    | decide
    | (intro u hu x hx)
    | (intro u hu)
    | (refine Kept.notMode_of_mem (by with_reducible assumption) (by decide))
    | (with_reducible apply Kept.emit)
    | (with_reducible apply Kept.putReasms)
    | (with_reducible apply Kept.freeCells)
    | (with_reducible apply Kept.incSat)
    | decide

theorem Kept.askRanging {s0 s : State} {t : Nat} {k : Nat} (hk0 : Kept s0 s) :
    Kept s0 (State.askRanging s t k) := by
  unfold State.askRanging
  try dsimp only
  repeat' first
    | (with_reducible assumption)
    | (split)
    | (with_reducible refine Kept.foldl ?_ ?_)
    | decide
    | (intro u hu x hx)
    | (intro u hu)
    | (refine Kept.notMode_of_mem (by with_reducible assumption) (by decide))
    | (with_reducible apply Kept.emit)
    | (with_reducible apply Kept.setShared)
    | (with_reducible apply Kept.setTerm)
    | (with_reducible refine Kept.mk_other ?_)
    | decide

theorem Kept.fillRanging {s0 s : State} {t : Nat} (hk0 : Kept s0 s) :
    Kept s0 (State.fillRanging s t) := by
  unfold State.fillRanging
  try dsimp only
  repeat' first
    | (with_reducible assumption)
    | (split)
    | (with_reducible refine Kept.foldl ?_ ?_)
    | decide
    | (intro u hu x hx)
    | (intro u hu)
    | (refine Kept.notMode_of_mem (by with_reducible assumption) (by decide))
    | (with_reducible apply Kept.emit)
    | (with_reducible apply Kept.setTerm)
    | (with_reducible apply Kept.askRanging)
    | (with_reducible refine Kept.mk_other ?_)
    | decide

theorem Kept.dropRanging {s0 s : State} {t : Nat} {k : Nat} (hk0 : Kept s0 s) :
    Kept s0 (State.dropRanging s t k) := by
  unfold State.dropRanging
  try dsimp only
  repeat' first
    | (with_reducible assumption)
    | (split)
    | (with_reducible refine Kept.foldl ?_ ?_)
    | decide
    | (intro u hu x hx)
    | (intro u hu)
    | (refine Kept.notMode_of_mem (by with_reducible assumption) (by decide))
    | (with_reducible apply Kept.emit)
    | (with_reducible apply Kept.setShared)
    | (with_reducible apply Kept.askPloamu)
    | (with_reducible apply Kept.fillRanging)
    | (with_reducible refine Kept.mk_other ?_)
    | decide

theorem Kept.recordUnused {s0 s : State} {t : Nat} {k : Nat} (hk0 : Kept s0 s) :
    Kept s0 (State.recordUnused s t k) := by
  unfold State.recordUnused
  try dsimp only
  repeat' first
    | (with_reducible assumption)
    | (split)
    | (with_reducible refine Kept.foldl ?_ ?_)
    | decide
    | (intro u hu x hx)
    | (intro u hu)
    | (refine Kept.notMode_of_mem (by with_reducible assumption) (by decide))
    | (with_reducible apply Kept.emit)
    | (with_reducible apply Kept.setTerm)
    | (with_reducible apply Kept.countOper)
    | (with_reducible apply Kept.treUsEvent)
    | decide

theorem Kept.termsLeave {s0 s : State} {t : Nat} (hk0 : Kept s0 s) :
    Kept s0 (State.termsLeave s t) := by
  unfold State.termsLeave
  try dsimp only
  repeat' first
    | (with_reducible assumption)
    | (split)
    | (with_reducible refine Kept.foldl ?_ ?_)
    | decide
    | (intro u hu x hx)
    | (intro u hu)
    | (refine Kept.notMode_of_mem (by with_reducible assumption) (by decide))
    | (with_reducible apply Kept.emit)
    | (with_reducible apply Kept.dropReasm)
    | (with_reducible apply Kept.recordUnused)
    | (with_reducible apply Kept.setTerm)
    | (with_reducible apply Kept.forceAwake)
    | (with_reducible apply Kept.termState)
    | (with_reducible apply Kept.setShared)
    | (with_reducible apply Kept.askPloamu)
    | (with_reducible refine Kept.mk_other ?_)
    | decide

theorem Kept.dropStaged {s0 s : State} {t : Nat} {which : Staged → Bool} {status : Nat} (hk0 : Kept s0 s) :
    Kept s0 (State.dropStaged s t which status) := by
  unfold State.dropStaged
  try dsimp only
  repeat' first
    | (with_reducible assumption)
    | (split)
    | (with_reducible refine Kept.foldl ?_ ?_)
    | decide
    | (intro u hu x hx)
    | (intro u hu)
    | (refine Kept.notMode_of_mem (by with_reducible assumption) (by decide))
    | (with_reducible apply Kept.emit)
    | (with_reducible apply Kept.setTree)
    | (with_reducible apply Kept.freeCells)
    | (with_reducible apply Kept.endFrame)
    | (with_reducible refine Kept.mk_other ?_)
    | decide

theorem Kept.dropInFlight {s0 s : State} {t : Nat} {status : Nat} (hk0 : Kept s0 s) :
    Kept s0 (State.dropInFlight s t status) := by
  unfold State.dropInFlight
  try dsimp only
  repeat' first
    | (with_reducible assumption)
    | (split)
    | (with_reducible refine Kept.foldl ?_ ?_)
    | decide
    | (intro u hu x hx)
    | (intro u hu)
    | (refine Kept.notMode_of_mem (by with_reducible assumption) (by decide))
    | (with_reducible apply Kept.emit)
    | (with_reducible apply Kept.setTree)
    | (with_reducible apply Kept.freeCells)
    | (with_reducible apply Kept.endFrame)
    | (with_reducible refine Kept.fst ?_ (by with_reducible assumption))
    | (with_reducible refine Kept.snd ?_ (by with_reducible assumption))
    | (with_reducible refine Kept.mk_other ?_)
    | decide

theorem Kept.treeState {s0 s : State} {t : Nat} {st : Nat} (hk0 : Kept s0 s) (hm : st ≤ 4) :
    Kept s0 (State.treeState s t st) := by
  unfold State.treeState
  try dsimp only
  repeat' first
    | (with_reducible assumption)
    | (split)
    | (with_reducible refine Kept.foldl ?_ ?_)
    | decide
    | (intro u hu x hx)
    | (intro u hu)
    | (refine Kept.notMode_of_mem (by with_reducible assumption) (by decide))
    | (with_reducible refine Kept.wr ?_ (by first | decide | with_reducible assumption | exact Kept.notMode_of_mem (by with_reducible assumption) (by decide) | exact Kept.notMode_of_mem_fst (by with_reducible assumption) (by with_unfolding_all rfl)))
    | (with_reducible refine Kept.wrMode ?_ 4 (by decide) (by first | decide | with_reducible assumption))
    | (with_reducible refine Kept.wrMode ?_ 5 (by decide) (by first | decide | with_reducible assumption))
    | (with_reducible refine Kept.wrMode ?_ 8 (by decide) (by first | decide | with_reducible assumption))
    | (with_reducible apply Kept.emit)
    | (with_reducible apply Kept.treEvent)
    | decide

theorem Kept.flagUntested {s0 s : State} (hk0 : Kept s0 s) :
    Kept s0 (State.flagUntested s) := by
  unfold State.flagUntested
  try dsimp only
  repeat' first
    | (with_reducible assumption)
    | (split)
    | (with_reducible refine Kept.foldl ?_ ?_)
    | decide
    | (intro u hu x hx)
    | (intro u hu)
    | (refine Kept.notMode_of_mem (by with_reducible assumption) (by decide))
    | (with_reducible refine Kept.wr ?_ (by first | decide | with_reducible assumption | exact Kept.notMode_of_mem (by with_reducible assumption) (by decide) | exact Kept.notMode_of_mem_fst (by with_reducible assumption) (by with_unfolding_all rfl)))
    | (with_reducible refine Kept.wrMode ?_ 4 (by decide) (by first | decide | with_reducible assumption))
    | (with_reducible refine Kept.wrMode ?_ 5 (by decide) (by first | decide | with_reducible assumption))
    | (with_reducible refine Kept.wrMode ?_ 8 (by decide) (by first | decide | with_reducible assumption))
    | (with_reducible apply Kept.emit)
    | (with_reducible apply Kept.wrB)
    | decide

theorem Kept.freeRetained {s0 s : State} (hk0 : Kept s0 s) :
    Kept s0 (State.freeRetained s) := by
  unfold State.freeRetained
  try dsimp only
  repeat' first
    | (with_reducible assumption)
    | (split)
    | (with_reducible refine Kept.foldl ?_ ?_)
    | decide
    | (intro u hu x hx)
    | (intro u hu)
    | (refine Kept.notMode_of_mem (by with_reducible assumption) (by decide))
    | (with_reducible apply Kept.emit)
    | (with_reducible apply Kept.putCp)
    | (with_reducible apply Kept.flagUntested)
    | (with_reducible refine Kept.mk_other ?_)
    | decide

theorem Kept.cancelStart {s0 s : State} {t : Nat} (hk0 : Kept s0 s) :
    Kept s0 (State.cancelStart s t) := by
  unfold State.cancelStart
  try dsimp only
  repeat' first
    | (with_reducible assumption)
    | (split)
    | (with_reducible refine Kept.foldl ?_ ?_)
    | decide
    | (intro u hu x hx)
    | (intro u hu)
    | (refine Kept.notMode_of_mem (by with_reducible assumption) (by decide))
    | (with_reducible apply Kept.emit)
    | (with_reducible apply Kept.setTree)
    | (with_reducible apply Kept.freeRetained)
    | (with_reducible apply Kept.answerLater)
    | (with_reducible refine Kept.fst ?_ (by with_reducible assumption))
    | (with_reducible refine Kept.snd ?_ (by with_reducible assumption))
    | (with_reducible refine Kept.mk_other ?_)
    | decide

theorem Kept.idleFill {s0 s : State} {t : Nat} {n : Nat} (hk0 : Kept s0 s) :
    Kept s0 (State.idleFill s t n) := by
  unfold State.idleFill
  try dsimp only
  repeat' first
    | (with_reducible assumption)
    | (split)
    | (with_reducible refine Kept.foldl ?_ ?_)
    | decide
    | (intro u hu x hx)
    | (intro u hu)
    | (refine Kept.notMode_of_mem (by with_reducible assumption) (by decide))
    | (with_reducible apply Kept.emit)
    | (with_reducible apply Kept.setTree)
    | (with_reducible apply Kept.blockEvent)
    | (with_reducible refine Kept.mk_other ?_)
    | decide

theorem Kept.endFsFrame {s0 s : State} {t : Nat} (hk0 : Kept s0 s) :
    Kept s0 (State.endFsFrame s t) := by
  unfold State.endFsFrame
  try dsimp only
  repeat' first
    | (with_reducible assumption)
    | (split)
    | (with_reducible refine Kept.foldl ?_ ?_)
    | decide
    | (intro u hu x hx)
    | (intro u hu)
    | (refine Kept.notMode_of_mem (by with_reducible assumption) (by decide))
    | (with_reducible apply Kept.emit)
    | (with_reducible apply Kept.idleFill)
    | decide

theorem Kept.treeStop {s0 s : State} {t : Nat} (hk0 : Kept s0 s) :
    Kept s0 (State.treeStop s t) := by
  unfold State.treeStop
  try dsimp only
  repeat' first
    | (with_reducible assumption)
    | (split)
    | (with_reducible refine Kept.foldl ?_ ?_)
    | decide
    | (intro u hu x hx)
    | (intro u hu)
    | (refine Kept.notMode_of_mem (by with_reducible assumption) (by decide))
    | (with_reducible apply Kept.emit)
    | (with_reducible apply Kept.ploamClear)
    | (with_reducible apply Kept.setTree)
    | (with_reducible refine Kept.mk_other ?_)
    | decide

theorem Kept.treeFault {s0 s : State} {t : Nat} {cause : Nat} (hk0 : Kept s0 s) :
    Kept s0 (State.treeFault s t cause) := by
  unfold State.treeFault
  try dsimp only
  repeat' first
    | (with_reducible assumption)
    | (split)
    | (with_reducible refine Kept.foldl ?_ ?_)
    | decide
    | (intro u hu x hx)
    | (intro u hu)
    | (refine Kept.notMode_of_mem (by with_reducible assumption) (by decide))
    | (with_reducible refine Kept.wr ?_ (by first | decide | with_reducible assumption | exact Kept.notMode_of_mem (by with_reducible assumption) (by decide) | exact Kept.notMode_of_mem_fst (by with_reducible assumption) (by with_unfolding_all rfl)))
    | (with_reducible refine Kept.wrMode ?_ 4 (by decide) (by first | decide | with_reducible assumption))
    | (with_reducible refine Kept.wrMode ?_ 5 (by decide) (by first | decide | with_reducible assumption))
    | (with_reducible refine Kept.wrMode ?_ 8 (by decide) (by first | decide | with_reducible assumption))
    | (with_reducible apply Kept.emit)
    | (with_reducible apply Kept.cancelStart)
    | (with_reducible apply Kept.treeStop)
    | (with_reducible apply Kept.treeState)
    | (with_reducible apply Kept.treEvent)
    | (with_reducible apply Kept.termsLeave)
    | (with_reducible apply Kept.setTreeU)
    | (with_reducible refine Kept.mk_other ?_)
    | decide

theorem Kept.sdShows {s0 s : State} {t : Nat} {light : Bool} (hk0 : Kept s0 s) :
    Kept s0 (State.sdShows s t light) := by
  unfold State.sdShows
  try dsimp only
  repeat' first
    | (with_reducible assumption)
    | (split)
    | (with_reducible refine Kept.foldl ?_ ?_)
    | decide
    | (intro u hu x hx)
    | (intro u hu)
    | (refine Kept.notMode_of_mem (by with_reducible assumption) (by decide))
    | (with_reducible apply Kept.emit)
    | (with_reducible apply Kept.putBnd)
    | (with_reducible refine Kept.mk_other ?_)
    | decide

theorem Kept.zeroTail {s0 s : State} {t : Nat} {x : InFlight} (hk0 : Kept s0 s) :
    Kept s0 (State.zeroTail s t x) := by
  unfold State.zeroTail
  try dsimp only
  repeat' first
    | (with_reducible assumption)
    | (split)
    | (with_reducible refine Kept.foldl ?_ ?_)
    | decide
    | (intro u hu x hx)
    | (intro u hu)
    | (refine Kept.notMode_of_mem (by with_reducible assumption) (by decide))
    | (with_reducible apply Kept.emit)
    | (with_reducible apply Kept.tickFree)
    | decide

theorem Kept.cutInFlight {s0 s : State} {h : Nat} {which : Bool → Bool} (hk0 : Kept s0 s) :
    Kept s0 (State.cutInFlight s h which) := by
  unfold State.cutInFlight
  try dsimp only
  repeat' first
    | (with_reducible assumption)
    | (split)
    | (with_reducible refine Kept.foldl ?_ ?_)
    | decide
    | (intro u hu x hx)
    | (intro u hu)
    | (refine Kept.notMode_of_mem (by with_reducible assumption) (by decide))
    | (with_reducible apply Kept.emit)
    | (with_reducible apply Kept.zeroTail)
    | (with_reducible apply Kept.dropInFlight)
    | (with_reducible apply Kept.incSat)
    | (with_reducible refine Kept.fst ?_ (by with_reducible assumption))
    | (with_reducible refine Kept.snd ?_ (by with_reducible assumption))
    | (with_reducible refine Kept.mk_other ?_)
    | decide

theorem Kept.dropDecrypted {s0 s : State} {h : Nat} (hk0 : Kept s0 s) :
    Kept s0 (State.dropDecrypted s h) := by
  unfold State.dropDecrypted
  try dsimp only
  repeat' first
    | (with_reducible assumption)
    | (split)
    | (with_reducible refine Kept.foldl ?_ ?_)
    | decide
    | (intro u hu x hx)
    | (intro u hu)
    | (refine Kept.notMode_of_mem (by with_reducible assumption) (by decide))
    | (with_reducible apply Kept.emit)
    | (with_reducible apply Kept.putReasms)
    | (with_reducible apply Kept.freeCells)
    | (with_reducible apply Kept.incSat)
    | decide

theorem Kept.eraseSlot {s0 s : State} {h : Nat} (hk0 : Kept s0 s) :
    Kept s0 (State.eraseSlot s h) := by
  unfold State.eraseSlot
  try dsimp only
  repeat' first
    | (with_reducible assumption)
    | (split)
    | (with_reducible refine Kept.foldl ?_ ?_)
    | decide
    | (intro u hu x hx)
    | (intro u hu)
    | (refine Kept.notMode_of_mem (by with_reducible assumption) (by decide))
    | (with_reducible apply Kept.emit)
    | (with_reducible apply Kept.setSlot)
    | (with_reducible apply Kept.cutInFlight)
    | (with_reducible apply Kept.dropDecrypted)
    | (with_reducible apply Kept.treEvent)
    | (with_reducible refine Kept.mk_other ?_)
    | decide

theorem Kept.unbindSlot {s0 s : State} {h : Nat} (hk0 : Kept s0 s) :
    Kept s0 (State.unbindSlot s h) := by
  unfold State.unbindSlot
  try dsimp only
  repeat' first
    | (with_reducible assumption)
    | (split)
    | (with_reducible refine Kept.foldl ?_ ?_)
    | decide
    | (intro u hu x hx)
    | (intro u hu)
    | (refine Kept.notMode_of_mem (by with_reducible assumption) (by decide))
    | (with_reducible refine Kept.wr ?_ (by first | decide | with_reducible assumption | exact Kept.notMode_of_mem (by with_reducible assumption) (by decide) | exact Kept.notMode_of_mem_fst (by with_reducible assumption) (by with_unfolding_all rfl)))
    | (with_reducible refine Kept.wrMode ?_ 4 (by decide) (by first | decide | with_reducible assumption))
    | (with_reducible refine Kept.wrMode ?_ 5 (by decide) (by first | decide | with_reducible assumption))
    | (with_reducible refine Kept.wrMode ?_ 8 (by decide) (by first | decide | with_reducible assumption))
    | (with_reducible apply Kept.emit)
    | (with_reducible apply Kept.setSlot)
    | (with_reducible apply Kept.setTerm)
    | (with_reducible refine Kept.mk_other ?_)
    | decide

end Sys2Proof.Machine
end

