-- ==== Sys2Proof/Laws/KeptRxOps.lean ====
section
/-! SUPPORT. What the operations of RxOps keep (Laws/Kept.lean). -/

namespace Sys2Proof.Machine

set_option Elab.async false
set_option linter.all false

theorem Kept.rxWriteFrom {s0 s : State} {r : Nat} {f : RxFrame} {size n k : Nat} (h : Kept s0 s) :
    Kept s0 (State.rxWriteFrom s r f size n k) := by
  induction n generalizing s k with
  | zero => exact h
  | succ n ih =>
    unfold State.rxWriteFrom
    exact ih (Kept.writeCompletion (Kept.advanceHead (Kept.hostWrite h _ _)))

theorem Kept.rxWrite {s0 s : State} {r : Nat} {f : RxFrame} (hk0 : Kept s0 s) :
    Kept s0 (State.rxWrite s r f) := by
  unfold State.rxWrite
  try dsimp only
  repeat' first
    | (with_reducible assumption)
    | (split)
    | (with_reducible refine Kept.foldl ?_ ?_)
    | decide
    | (intro u hu x hx)
    | (intro u hu)
    | (refine Kept.notMode_of_mem (by with_reducible assumption) (by decide))
    | (with_reducible apply Kept.emit)
    | (with_reducible apply Kept.writeFailed)
    | (with_reducible apply Kept.rxWriteFrom)
    | (with_reducible apply Kept.freeCells)
    | decide

theorem Kept.rxFind {s0 s : State} {r : Nat} {need : Nat} (hk0 : Kept s0 s) :
    Kept s0 (State.rxFind s r need).2 := by
  unfold State.rxFind
  try dsimp only
  repeat' first
    | (with_reducible assumption)
    | (split)
    | (with_reducible refine Kept.foldl ?_ ?_)
    | decide
    | (intro u hu x hx)
    | (intro u hu)
    | (refine Kept.notMode_of_mem (by with_reducible assumption) (by decide))
    | (with_reducible apply Kept.emit)
    | (with_reducible apply Kept.foundEarly)
    | (with_reducible refine Kept.fst ?_ (by with_reducible assumption))
    | (with_reducible refine Kept.snd ?_ (by with_reducible assumption))
    | (with_reducible refine Kept.mk_other ?_)
    | decide

theorem Kept.rxClaim {s0 s : State} {r : Nat} {need : Nat} (hk0 : Kept s0 s) :
    Kept s0 (State.rxClaim s r need).2 := by
  unfold State.rxClaim
  try dsimp only
  repeat' first
    | (with_reducible assumption)
    | (split)
    | (with_reducible refine Kept.foldl ?_ ?_)
    | decide
    | (intro u hu x hx)
    | (intro u hu)
    | (refine Kept.notMode_of_mem (by with_reducible assumption) (by decide))
    | (with_reducible apply Kept.emit)
    | (with_reducible apply Kept.rxFind)
    | (with_reducible refine Kept.fst ?_ (by with_reducible assumption))
    | (with_reducible refine Kept.snd ?_ (by with_reducible assumption))
    | decide

theorem Kept.nextFseq {s0 s : State} {r : Nat} (hk0 : Kept s0 s) :
    Kept s0 (State.nextFseq s r).2 := by
  unfold State.nextFseq
  try dsimp only
  repeat' first
    | (with_reducible assumption)
    | (split)
    | (with_reducible refine Kept.foldl ?_ ?_)
    | decide
    | (intro u hu x hx)
    | (intro u hu)
    | (refine Kept.notMode_of_mem (by with_reducible assumption) (by decide))
    | (with_reducible apply Kept.emit)
    | (with_reducible apply Kept.setRing)
    | (with_reducible refine Kept.mk_other ?_)
    | decide

theorem Kept.copyCells {s0 s t : State} {f : RxFrame} {id : Nat} (h : Kept s0 s) (e : s.copyCells f = some (id, t)) : Kept s0 t := by
  unfold State.copyCells at e
  split at e
  · simp only [Option.some.injEq, Prod.mk.injEq] at e
    obtain ⟨_, rfl⟩ := e
    exact Kept.holdCells h
  · exact Kept.takeCells h e

theorem Kept.rxOffer {s0 s : State} {r : Nat} {f : RxFrame} (hk0 : Kept s0 s) :
    Kept s0 (State.rxOffer s r f) := by
  unfold State.rxOffer
  try dsimp only
  repeat' first
    | (with_reducible assumption)
    | (split)
    | (with_reducible refine Kept.foldl ?_ ?_)
    | decide
    | (intro u hu x hx)
    | (intro u hu)
    | (refine Kept.notMode_of_mem (by with_reducible assumption) (by decide))
    | (with_reducible apply Kept.emit)
    | (with_reducible apply Kept.incSat)
    | (with_reducible apply Kept.addCnt)
    | (with_reducible apply Kept.nextFseq)
    | (with_reducible refine Kept.copyCells ?_ (by with_reducible assumption))
    | (with_reducible apply Kept.setRing)
    | (with_reducible apply Kept.incWrap)
    | (with_reducible refine Kept.fst ?_ (by with_reducible assumption))
    | (with_reducible refine Kept.snd ?_ (by with_reducible assumption))
    | (with_reducible refine Kept.mk_other ?_)
    | decide

theorem Kept.bittern {s0 s : State} {t : Nat} {f : RxFrame} (hk0 : Kept s0 s) :
    Kept s0 (State.bittern s t f) := by
  unfold State.bittern
  try dsimp only
  repeat' first
    | (with_reducible assumption)
    | (split)
    | (with_reducible refine Kept.foldl ?_ ?_)
    | decide
    | (intro u hu x hx)
    | (intro u hu)
    | (refine Kept.notMode_of_mem (by with_reducible assumption) (by decide))
    | (with_reducible apply Kept.emit)
    | (with_reducible apply Kept.nextFseq)
    | (with_reducible apply Kept.incWrap)
    | (with_reducible apply Kept.rxClaim)
    | (with_reducible apply Kept.cellRead)
    | (with_reducible apply Kept.holdCells)
    | (with_reducible apply Kept.rxWrite)
    | (with_reducible refine Kept.fst ?_ (by with_reducible assumption))
    | (with_reducible refine Kept.snd ?_ (by with_reducible assumption))
    | (with_reducible refine Kept.mk_other ?_)
    | decide

end Sys2Proof.Machine
end

