-- ==== Sys2Proof/Laws/KeptTableOps.lean ====
section
/-! SUPPORT. What the operations of TableOps keep (Laws/Kept.lean). -/

namespace Sys2Proof.Machine

set_option Elab.async false
set_option linter.all false

theorem Kept.setTabs {s0 s : State} {f : Tables → Tables} (hk0 : Kept s0 s) :
    Kept s0 (State.setTabs s f) := by
  unfold State.setTabs
  try dsimp only
  repeat' first
    | (with_reducible assumption)
    | (split)
    | (with_reducible refine Kept.foldl ?_ ?_)
    | decide
    | (intro u hu x hx)
    | (intro u hu)
    | (refine Kept.notMode_of_mem (by with_reducible assumption) (by decide))
    | (with_reducible apply Kept.emit)
    | (with_reducible refine Kept.mk_other ?_)
    | decide

theorem Kept.putLines {s0 s : State} {k : Nat} {l : List CacheLine} (hk0 : Kept s0 s) :
    Kept s0 (State.putLines s k l) := by
  unfold State.putLines
  try dsimp only
  repeat' first
    | (with_reducible assumption)
    | (split)
    | (with_reducible refine Kept.foldl ?_ ?_)
    | decide
    | (intro u hu x hx)
    | (intro u hu)
    | (refine Kept.notMode_of_mem (by with_reducible assumption) (by decide))
    | (with_reducible apply Kept.emit)
    | (with_reducible apply Kept.setTabs)
    | (with_reducible refine Kept.mk_other ?_)
    | decide

theorem Kept.storeHit {s0 s : State} {l : CacheLine} (hk0 : Kept s0 s) :
    Kept s0 (State.storeHit s l) := by
  unfold State.storeHit
  try dsimp only
  repeat' first
    | (with_reducible assumption)
    | (split)
    | (with_reducible refine Kept.foldl ?_ ?_)
    | decide
    | (intro u hu x hx)
    | (intro u hu)
    | (refine Kept.notMode_of_mem (by with_reducible assumption) (by decide))
    | (with_reducible apply Kept.emit)
    | (with_reducible apply Kept.setTabs)
    | (with_reducible apply Kept.rewrite)
    | (with_reducible refine Kept.fst ?_ (by with_reducible assumption))
    | (with_reducible refine Kept.snd ?_ (by with_reducible assumption))
    | (with_reducible refine Kept.mk_other ?_)
    | decide

theorem Kept.cacheTouch {s0 s : State} {k : Nat} (hk0 : Kept s0 s) :
    Kept s0 (State.cacheTouch s k) := by
  unfold State.cacheTouch
  try dsimp only
  repeat' first
    | (with_reducible assumption)
    | (split)
    | (with_reducible refine Kept.foldl ?_ ?_)
    | decide
    | (intro u hu x hx)
    | (intro u hu)
    | (refine Kept.notMode_of_mem (by with_reducible assumption) (by decide))
    | (with_reducible apply Kept.emit)
    | (with_reducible apply Kept.putLines)
    | (with_reducible apply Kept.storeHit)
    | (with_reducible apply Kept.rewriteWord)
    | (with_reducible refine Kept.fst ?_ (by with_reducible assumption))
    | (with_reducible refine Kept.snd ?_ (by with_reducible assumption))
    | (with_reducible refine Kept.mk_other ?_)
    | decide

theorem Kept.cacheDrop {s0 s : State} {k : Nat} (hk0 : Kept s0 s) :
    Kept s0 (State.cacheDrop s k) := by
  unfold State.cacheDrop
  try dsimp only
  repeat' first
    | (with_reducible assumption)
    | (split)
    | (with_reducible refine Kept.foldl ?_ ?_)
    | decide
    | (intro u hu x hx)
    | (intro u hu)
    | (refine Kept.notMode_of_mem (by with_reducible assumption) (by decide))
    | (with_reducible apply Kept.emit)
    | (with_reducible apply Kept.putLines)
    | decide

theorem Kept.lineHit {s0 s : State} {k : Nat} {h : Bool} (hk0 : Kept s0 s) :
    Kept s0 (State.lineHit s k h) := by
  unfold State.lineHit
  try dsimp only
  repeat' first
    | (with_reducible assumption)
    | (split)
    | (with_reducible refine Kept.foldl ?_ ?_)
    | decide
    | (intro u hu x hx)
    | (intro u hu)
    | (refine Kept.notMode_of_mem (by with_reducible assumption) (by decide))
    | (with_reducible apply Kept.emit)
    | (with_reducible apply Kept.putLines)
    | (with_reducible refine Kept.mk_other ?_)
    | decide

theorem Kept.wordWritten {s0 s : State} {p : Key} (hk0 : Kept s0 s) :
    Kept s0 (State.wordWritten s p) := by
  unfold State.wordWritten
  try dsimp only
  repeat' first
    | (with_reducible assumption)
    | (split)
    | (with_reducible refine Kept.foldl ?_ ?_)
    | decide
    | (intro u hu x hx)
    | (intro u hu)
    | (refine Kept.notMode_of_mem (by with_reducible assumption) (by decide))
    | (with_reducible apply Kept.emit)
    | (with_reducible apply Kept.rewrite)
    | decide

theorem Kept.putEntry {s0 s : State} {p : Key} {e : TblEntry} (hk0 : Kept s0 s) :
    Kept s0 (State.putEntry s p e) := by
  unfold State.putEntry
  try dsimp only
  repeat' first
    | (with_reducible assumption)
    | (split)
    | (with_reducible refine Kept.foldl ?_ ?_)
    | decide
    | (intro u hu x hx)
    | (intro u hu)
    | (refine Kept.notMode_of_mem (by with_reducible assumption) (by decide))
    | (with_reducible apply Kept.emit)
    | (with_reducible apply Kept.setTabs)
    | (with_reducible apply Kept.wordWritten)
    | (with_reducible apply Kept.lineHit)
    | (with_reducible apply Kept.cacheTouch)
    | (with_reducible refine Kept.mk_other ?_)
    | decide

theorem Kept.delEntry {s0 s : State} {p : Key} (hk0 : Kept s0 s) :
    Kept s0 (State.delEntry s p) := by
  unfold State.delEntry
  try dsimp only
  repeat' first
    | (with_reducible assumption)
    | (split)
    | (with_reducible refine Kept.foldl ?_ ?_)
    | decide
    | (intro u hu x hx)
    | (intro u hu)
    | (refine Kept.notMode_of_mem (by with_reducible assumption) (by decide))
    | (with_reducible apply Kept.emit)
    | (with_reducible apply Kept.cacheDrop)
    | (with_reducible apply Kept.setTabs)
    | (with_reducible apply Kept.wordWritten)
    | (with_reducible refine Kept.fst ?_ (by with_reducible assumption))
    | (with_reducible refine Kept.snd ?_ (by with_reducible assumption))
    | (with_reducible refine Kept.mk_other ?_)
    | decide

theorem Kept.correctWords {s0 s : State} {c : Nat} {b : Nat} {slots : List Nat} (hk0 : Kept s0 s) :
    Kept s0 (State.correctWords s c b slots) := by
  unfold State.correctWords
  try dsimp only
  repeat' first
    | (with_reducible assumption)
    | (split)
    | (with_reducible refine Kept.foldl ?_ ?_)
    | decide
    | (intro u hu x hx)
    | (intro u hu)
    | (refine Kept.notMode_of_mem (by with_reducible assumption) (by decide))
    | (with_reducible apply Kept.emit)
    | (with_reducible apply Kept.corrected)
    | (with_reducible apply Kept.rewriteWord)
    | decide

theorem Kept.logWords {s0 s : State} {c : Nat} {b : Nat} {outcome : Nat} {bad : List Nat} (hk0 : Kept s0 s) :
    Kept s0 (State.logWords s c b outcome bad) := by
  unfold State.logWords
  try dsimp only
  repeat' first
    | (with_reducible assumption)
    | (split)
    | (with_reducible refine Kept.foldl ?_ ?_)
    | decide
    | (intro u hu x hx)
    | (intro u hu)
    | (refine Kept.notMode_of_mem (by with_reducible assumption) (by decide))
    | (with_reducible apply Kept.emit)
    | (with_reducible apply Kept.logUe)
    | (with_reducible apply Kept.rewriteWord)
    | decide

theorem Kept.copyRead {s0 s : State} {c : Nat} {b : Nat} {slots : List Nat} (hk0 : Kept s0 s) :
    Kept s0 (State.copyRead s c b slots).2 := by
  unfold State.copyRead
  try dsimp only
  repeat' first
    | (with_reducible assumption)
    | (split)
    | (with_reducible refine Kept.foldl ?_ ?_)
    | decide
    | (intro u hu x hx)
    | (intro u hu)
    | (refine Kept.notMode_of_mem (by with_reducible assumption) (by decide))
    | (with_reducible apply Kept.emit)
    | (with_reducible apply Kept.correctWords)
    | (with_reducible apply Kept.logWords)
    | (with_reducible apply Kept.setTabs)
    | (with_reducible apply Kept.wordWritten)
    | (with_reducible apply Kept.delEntry)
    | (with_reducible refine Kept.fst ?_ (by with_reducible assumption))
    | (with_reducible refine Kept.snd ?_ (by with_reducible assumption))
    | (with_reducible refine Kept.mk_other ?_)
    | decide

theorem Kept.bucketRead {s0 s : State} {b : Nat} (hk0 : Kept s0 s) :
    Kept s0 (State.bucketRead s b).2 := by
  unfold State.bucketRead
  try dsimp only
  repeat' first
    | (with_reducible assumption)
    | (split)
    | (with_reducible refine Kept.foldl ?_ ?_)
    | decide
    | (intro u hu x hx)
    | (intro u hu)
    | (refine Kept.notMode_of_mem (by with_reducible assumption) (by decide))
    | (with_reducible apply Kept.emit)
    | (with_reducible apply Kept.copyRead)
    | decide

theorem Kept.readKey {s0 s : State} {k : Nat} (hk0 : Kept s0 s) :
    Kept s0 (State.readKey s k).2 := by
  unfold State.readKey
  try dsimp only
  repeat' first
    | (with_reducible assumption)
    | (split)
    | (with_reducible refine Kept.foldl ?_ ?_)
    | decide
    | (intro u hu x hx)
    | (intro u hu)
    | (refine Kept.notMode_of_mem (by with_reducible assumption) (by decide))
    | (with_reducible apply Kept.emit)
    | (with_reducible apply Kept.bucketRead)
    | (with_reducible apply Kept.blockEvent)
    | (with_reducible refine Kept.fst ?_ (by with_reducible assumption))
    | (with_reducible refine Kept.snd ?_ (by with_reducible assumption))
    | decide

theorem Kept.readFrom {s0 s : State} {b : Nat} (hk0 : Kept s0 s) :
    Kept s0 (State.readFrom s b) := by
  unfold State.readFrom
  try dsimp only
  repeat' first
    | (with_reducible assumption)
    | (split)
    | (with_reducible refine Kept.foldl ?_ ?_)
    | decide
    | (intro u hu x hx)
    | (intro u hu)
    | (refine Kept.notMode_of_mem (by with_reducible assumption) (by decide))
    | (with_reducible apply Kept.emit)
    | (with_reducible apply Kept.bucketRead)
    | decide

theorem Kept.lineRead {s0 s : State} {l : CacheLine} (hk0 : Kept s0 s) :
    Kept s0 (State.lineRead s l).2 := by
  unfold State.lineRead
  try dsimp only
  repeat' first
    | (with_reducible assumption)
    | (split)
    | (with_reducible refine Kept.foldl ?_ ?_)
    | decide
    | (intro u hu x hx)
    | (intro u hu)
    | (refine Kept.notMode_of_mem (by with_reducible assumption) (by decide))
    | (with_reducible apply Kept.emit)
    | (with_reducible apply Kept.corrected)
    | (with_reducible apply Kept.rewriteWord)
    | (with_reducible apply Kept.logUe)
    | (with_reducible apply Kept.cacheDrop)
    | (with_reducible refine Kept.fst ?_ (by with_reducible assumption))
    | (with_reducible refine Kept.snd ?_ (by with_reducible assumption))
    | (with_reducible refine Kept.mk_other ?_)
    | decide

theorem Kept.stackLookup {s0 s : State} {k : Nat} (hk0 : Kept s0 s) :
    Kept s0 (State.stackLookup s k).2.2 := by
  unfold State.stackLookup
  try dsimp only
  repeat' first
    | (with_reducible assumption)
    | (split)
    | (with_reducible refine Kept.foldl ?_ ?_)
    | decide
    | (intro u hu x hx)
    | (intro u hu)
    | (refine Kept.notMode_of_mem (by with_reducible assumption) (by decide))
    | (with_reducible apply Kept.emit)
    | (with_reducible apply Kept.setTabs)
    | (with_reducible apply Kept.blockEvent)
    | (with_reducible apply Kept.readKey)
    | (with_reducible apply Kept.cacheTouch)
    | (with_reducible refine Kept.fst ?_ (by with_reducible assumption))
    | (with_reducible refine Kept.snd ?_ (by with_reducible assumption))
    | (with_reducible refine Kept.mk_other ?_)
    | decide

theorem Kept.lookup {s0 s t : State} {k : Nat} {o : Option (Key × TblEntry)} {b : Bool}
    (h : Kept s0 s) (e : s.lookup k = (o, b, t)) : Kept s0 t := by
  have : Kept s0 (s.lookup k).2.2 := by
    unfold State.lookup
    dsimp only
    repeat' first
      | (with_reducible assumption)
      | split
      | (with_reducible apply Kept.stackLookup)
      | (with_reducible apply Kept.lineRead)
      | (with_reducible apply Kept.blockEvent)
      | (with_reducible apply Kept.setTabs)
      | (with_reducible apply Kept.cacheTouch)
  rw [e] at this; exact this

theorem Kept.displace {s0 s : State} {l : List (Key × Key)} (hk0 : Kept s0 s) :
    Kept s0 (State.displace s l) := by
  unfold State.displace
  try dsimp only
  repeat' first
    | (with_reducible assumption)
    | (split)
    | (with_reducible refine Kept.foldl ?_ ?_)
    | decide
    | (intro u hu x hx)
    | (intro u hu)
    | (refine Kept.notMode_of_mem (by with_reducible assumption) (by decide))
    | (with_reducible apply Kept.emit)
    | (with_reducible apply Kept.cacheTouch)
    | (with_reducible apply Kept.setTabs)
    | (with_reducible apply Kept.wordWritten)
    | (with_reducible refine Kept.fst ?_ (by with_reducible assumption))
    | (with_reducible refine Kept.snd ?_ (by with_reducible assumption))
    | (with_reducible refine Kept.mk_other ?_)
    | decide

theorem Kept.readChain {s0 s : State} {n : Nat} {bs : List Nat} (h : Kept s0 s) : Kept s0 (State.readChain n bs s) := by
  induction n generalizing s bs with
  | zero => exact h
  | succ n ih =>
    unfold State.readChain
    split
    · exact h
    · exact ih (Kept.foldl h (fun u hu x hx => Kept.bucketRead hu))

theorem Kept.readPlaces {s0 s : State} {k : Nat} {most : Nat} (hk0 : Kept s0 s) :
    Kept s0 (State.readPlaces s k most) := by
  unfold State.readPlaces
  try dsimp only
  repeat' first
    | (with_reducible assumption)
    | (split)
    | (with_reducible refine Kept.foldl ?_ ?_)
    | decide
    | (intro u hu x hx)
    | (intro u hu)
    | (refine Kept.notMode_of_mem (by with_reducible assumption) (by decide))
    | (with_reducible apply Kept.emit)
    | (with_reducible apply Kept.lineRead)
    | (with_reducible apply Kept.bucketRead)
    | (with_reducible apply Kept.readChain)
    | (with_reducible refine Kept.fst ?_ (by with_reducible assumption))
    | (with_reducible refine Kept.snd ?_ (by with_reducible assumption))
    | (with_reducible refine Kept.mk_other ?_)
    | decide

theorem Kept.insert {s0 u : State} {e : TblEntry} {replace : Bool} {most : Nat} (hk0 : Kept s0 u) :
    Kept s0 (State.insert u e replace most).2 := by
  unfold State.insert
  try dsimp only
  repeat' first
    | (with_reducible assumption)
    | (split)
    | (with_reducible refine Kept.foldl ?_ ?_)
    | decide
    | (intro u hu x hx)
    | (intro u hu)
    | (refine Kept.notMode_of_mem (by with_reducible assumption) (by decide))
    | (with_reducible apply Kept.emit)
    | (with_reducible apply Kept.readPlaces)
    | (with_reducible apply Kept.putEntry)
    | (with_reducible apply Kept.displace)
    | (with_reducible refine Kept.fst ?_ (by with_reducible assumption))
    | (with_reducible refine Kept.snd ?_ (by with_reducible assumption))
    | (with_reducible refine Kept.mk_other ?_)
    | decide

theorem Kept.countFlow {s0 s : State} {c : Nat} {len : Nat} (hk0 : Kept s0 s) :
    Kept s0 (State.countFlow s c len) := by
  unfold State.countFlow
  try dsimp only
  repeat' first
    | (with_reducible assumption)
    | (split)
    | (with_reducible refine Kept.foldl ?_ ?_)
    | decide
    | (intro u hu x hx)
    | (intro u hu)
    | (refine Kept.notMode_of_mem (by with_reducible assumption) (by decide))
    | (with_reducible apply Kept.emit)
    | (with_reducible apply Kept.setTabs)
    | (with_reducible refine Kept.mk_other ?_)
    | decide

end Sys2Proof.Machine
end

