-- ==== Sys2Proof/Laws/KeptFabOps.lean ====
section
/-! SUPPORT. What the operations of FabOps keep (Laws/Kept.lean). -/

namespace Sys2Proof.Machine

set_option Elab.async false
set_option linter.all false

theorem Kept.setLink {s0 s : State} {n : Nat} {x : FabLink} (hk0 : Kept s0 s) :
    Kept s0 (State.setLink s n x) := by
  unfold State.setLink
  try dsimp only
  repeat' first
    | (with_reducible assumption)
    | (split)
    | (with_reducible refine Kept.foldl ?_ ?_)
    | decide
    | (intro u hu x hx)
    | (intro u hu)
    | (refine Kept.notMode_of_mem (by with_reducible assumption) (by decide))
    | (with_reducible apply Kept.emit)
    | (with_reducible refine Kept.mk_other ?_)
    | decide

theorem Kept.linkPump {s0 s : State} {n l : Nat} (h : Kept s0 s) : Kept s0 (State.linkPump n s l) := by
  induction n generalizing s with
  | zero => exact h
  | succ n ih =>
    unfold State.linkPump
    dsimp only
    repeat' first
      | (with_reducible assumption)
      | split
      | (with_reducible apply ih)
      | (with_reducible apply Kept.emit)
      | (with_reducible apply Kept.blockEvent)
      | (with_reducible apply Kept.incWrap)
      | (with_reducible apply Kept.setLink)
      | decide

theorem Kept.linkSend {s0 s : State} {l : Nat} {c : TxCell} (hk0 : Kept s0 s) :
    Kept s0 (State.linkSend s l c) := by
  unfold State.linkSend
  try dsimp only
  repeat' first
    | (with_reducible assumption)
    | (split)
    | (with_reducible refine Kept.foldl ?_ ?_)
    | decide
    | (intro u hu x hx)
    | (intro u hu)
    | (refine Kept.notMode_of_mem (by with_reducible assumption) (by decide))
    | (with_reducible apply Kept.emit)
    | (with_reducible apply Kept.setLink)
    | (with_reducible apply Kept.linkPump)
    | (with_reducible refine Kept.mk_other ?_)
    | decide

theorem Kept.sendTo {s0 s : State} {dst : Nat} {src : Nat} {c : TxCell} (hk0 : Kept s0 s) :
    Kept s0 (State.sendTo s dst src c) := by
  unfold State.sendTo
  try dsimp only
  repeat' first
    | (with_reducible assumption)
    | (split)
    | (with_reducible refine Kept.foldl ?_ ?_)
    | decide
    | (intro u hu x hx)
    | (intro u hu)
    | (refine Kept.notMode_of_mem (by with_reducible assumption) (by decide))
    | (with_reducible apply Kept.emit)
    | (with_reducible apply Kept.linkSend)
    | (with_reducible apply Kept.incSat)
    | (with_reducible apply Kept.blockEvent)
    | (with_reducible refine Kept.fst ?_ (by with_reducible assumption))
    | (with_reducible refine Kept.snd ?_ (by with_reducible assumption))
    | (with_reducible refine Kept.mk_other ?_)
    | decide

theorem Kept.sendChunks {s0 s : State} {n dst ty seq aux : Nat} {first : Bool} {p : List Byte} (h : Kept s0 s) :
    Kept s0 (State.sendChunks n s dst ty seq aux first p) := by
  induction n generalizing s first p with
  | zero => exact h
  | succ n ih =>
    unfold State.sendChunks
    dsimp only
    split
    · exact Kept.sendTo h
    · exact ih (Kept.sendTo h)

theorem Kept.sendMessage {s0 s : State} {dst : Nat} {ty : Nat} {aux : Nat} {p : List Byte} (hk0 : Kept s0 s) :
    Kept s0 (State.sendMessage s dst ty aux p) := by
  unfold State.sendMessage
  try dsimp only
  repeat' first
    | (with_reducible assumption)
    | (split)
    | (with_reducible refine Kept.foldl ?_ ?_)
    | decide
    | (intro u hu x hx)
    | (intro u hu)
    | (refine Kept.notMode_of_mem (by with_reducible assumption) (by decide))
    | (with_reducible apply Kept.emit)
    | (with_reducible apply Kept.putFab)
    | (with_reducible apply Kept.sendChunks)
    | (with_reducible refine Kept.mk_other ?_)
    | decide

theorem Kept.flood {s0 s : State} {from_ : Option Nat} {c : TxCell} (hk0 : Kept s0 s) :
    Kept s0 (State.flood s from_ c) := by
  unfold State.flood
  try dsimp only
  repeat' first
    | (with_reducible assumption)
    | (split)
    | (with_reducible refine Kept.foldl ?_ ?_)
    | decide
    | (intro u hu x hx)
    | (intro u hu)
    | (refine Kept.notMode_of_mem (by with_reducible assumption) (by decide))
    | (with_reducible apply Kept.emit)
    | (with_reducible apply Kept.linkSend)
    | decide

theorem Kept.floodClaim {s0 s : State} {addr : Nat} (hk0 : Kept s0 s) :
    Kept s0 (State.floodClaim s addr) := by
  unfold State.floodClaim
  try dsimp only
  repeat' first
    | (with_reducible assumption)
    | (split)
    | (with_reducible refine Kept.foldl ?_ ?_)
    | decide
    | (intro u hu x hx)
    | (intro u hu)
    | (refine Kept.notMode_of_mem (by with_reducible assumption) (by decide))
    | (with_reducible apply Kept.emit)
    | (with_reducible apply Kept.putFab)
    | (with_reducible apply Kept.flood)
    | (with_reducible refine Kept.mk_other ?_)
    | decide

theorem Kept.floodRouteOf {s0 s : State} {adj0 : List (Nat × Nat)} (hk0 : Kept s0 s) :
    Kept s0 (State.floodRouteOf s adj0) := by
  unfold State.floodRouteOf
  try dsimp only
  repeat' first
    | (with_reducible assumption)
    | (split)
    | (with_reducible refine Kept.foldl ?_ ?_)
    | decide
    | (intro u hu x hx)
    | (intro u hu)
    | (refine Kept.notMode_of_mem (by with_reducible assumption) (by decide))
    | (with_reducible apply Kept.emit)
    | (with_reducible apply Kept.putFab)
    | (with_reducible apply Kept.flood)
    | (with_reducible refine Kept.mk_other ?_)
    | decide

theorem Kept.adjChanged {s0 s : State} (hk0 : Kept s0 s) :
    Kept s0 (State.adjChanged s) := by
  unfold State.adjChanged
  try dsimp only
  repeat' first
    | (with_reducible assumption)
    | (split)
    | (with_reducible refine Kept.foldl ?_ ?_)
    | decide
    | (intro u hu x hx)
    | (intro u hu)
    | (refine Kept.notMode_of_mem (by with_reducible assumption) (by decide))
    | (with_reducible apply Kept.emit)
    | (with_reducible apply Kept.putFab)
    | (with_reducible apply Kept.floodRouteOf)
    | (with_reducible refine Kept.mk_other ?_)
    | decide

theorem Kept.setRoute {s0 s : State} {d : Nat} {nh : List Nat} {hops : Nat} (hk0 : Kept s0 s) :
    Kept s0 (State.setRoute s d nh hops) := by
  unfold State.setRoute
  try dsimp only
  repeat' first
    | (with_reducible assumption)
    | (split)
    | (with_reducible refine Kept.foldl ?_ ?_)
    | decide
    | (intro u hu x hx)
    | (intro u hu)
    | (refine Kept.notMode_of_mem (by with_reducible assumption) (by decide))
    | (with_reducible refine Kept.wr ?_ (by first | decide | with_reducible assumption | exact Kept.notMode_of_mem (by with_reducible assumption) (by decide) | exact Kept.notMode_of_mem_fst (by with_reducible assumption) (by with_unfolding_all rfl)))
    | (with_reducible refine Kept.wrMode ?_ 4 (by decide) (by first | decide | with_reducible assumption))
    | (with_reducible refine Kept.wrMode ?_ 5 (by decide) (by first | decide | with_reducible assumption))
    | (with_reducible refine Kept.wrMode ?_ 8 (by decide) (by first | decide | with_reducible assumption))
    | (with_reducible apply Kept.emit)
    | (with_reducible refine Kept.fst ?_ (by with_reducible assumption))
    | (with_reducible refine Kept.snd ?_ (by with_reducible assumption))
    | (with_reducible refine Kept.mk_other ?_)
    | decide

theorem Kept.dropLinkRoutes {s0 s : State} {l : Nat} (hk0 : Kept s0 s) :
    Kept s0 (State.dropLinkRoutes s l) := by
  unfold State.dropLinkRoutes
  try dsimp only
  repeat' first
    | (with_reducible assumption)
    | (split)
    | (with_reducible refine Kept.foldl ?_ ?_)
    | decide
    | (intro u hu x hx)
    | (intro u hu)
    | (refine Kept.notMode_of_mem (by with_reducible assumption) (by decide))
    | (with_reducible apply Kept.emit)
    | (with_reducible apply Kept.setRoute)
    | decide

theorem Kept.electKeeper {s0 s : State} (hk0 : Kept s0 s) :
    Kept s0 (State.electKeeper s) := by
  unfold State.electKeeper
  try dsimp only
  repeat' first
    | (with_reducible assumption)
    | (split)
    | (with_reducible refine Kept.foldl ?_ ?_)
    | decide
    | (intro u hu x hx)
    | (intro u hu)
    | (refine Kept.notMode_of_mem (by with_reducible assumption) (by decide))
    | (with_reducible refine Kept.wr ?_ (by first | decide | with_reducible assumption | exact Kept.notMode_of_mem (by with_reducible assumption) (by decide) | exact Kept.notMode_of_mem_fst (by with_reducible assumption) (by with_unfolding_all rfl)))
    | (with_reducible refine Kept.wrMode ?_ 4 (by decide) (by first | decide | with_reducible assumption))
    | (with_reducible refine Kept.wrMode ?_ 5 (by decide) (by first | decide | with_reducible assumption))
    | (with_reducible refine Kept.wrMode ?_ 8 (by decide) (by first | decide | with_reducible assumption))
    | (with_reducible apply Kept.emit)
    | (with_reducible apply Kept.wrB)
    | (with_reducible apply Kept.fabEvent)
    | (with_reducible apply Kept.putFab)
    | (with_reducible refine Kept.mk_other ?_)
    | decide

theorem Kept.peerTide {s0 s : State} (hk0 : Kept s0 s) :
    Kept s0 (State.peerTide s) := by
  unfold State.peerTide
  try dsimp only
  repeat' first
    | (with_reducible assumption)
    | (split)
    | (with_reducible refine Kept.foldl ?_ ?_)
    | decide
    | (intro u hu x hx)
    | (intro u hu)
    | (refine Kept.notMode_of_mem (by with_reducible assumption) (by decide))
    | (with_reducible apply Kept.emit)
    | (with_reducible apply Kept.putTb)
    | (with_reducible apply Kept.tbEvent)
    | (with_reducible refine Kept.fst ?_ (by with_reducible assumption))
    | (with_reducible refine Kept.snd ?_ (by with_reducible assumption))
    | (with_reducible refine Kept.mk_other ?_)
    | decide

theorem Kept.recompute {s0 s : State} (hk0 : Kept s0 s) :
    Kept s0 (State.recompute s) := by
  unfold State.recompute
  try dsimp only
  repeat' first
    | (with_reducible assumption)
    | (split)
    | (with_reducible refine Kept.foldl ?_ ?_)
    | decide
    | (intro u hu x hx)
    | (intro u hu)
    | (refine Kept.notMode_of_mem (by with_reducible assumption) (by decide))
    | (with_reducible refine Kept.wr ?_ (by first | decide | with_reducible assumption | exact Kept.notMode_of_mem (by with_reducible assumption) (by decide) | exact Kept.notMode_of_mem_fst (by with_reducible assumption) (by with_unfolding_all rfl)))
    | (with_reducible refine Kept.wrMode ?_ 4 (by decide) (by first | decide | with_reducible assumption))
    | (with_reducible refine Kept.wrMode ?_ 5 (by decide) (by first | decide | with_reducible assumption))
    | (with_reducible refine Kept.wrMode ?_ 8 (by decide) (by first | decide | with_reducible assumption))
    | (with_reducible apply Kept.emit)
    | (with_reducible apply Kept.setRoute)
    | (with_reducible apply Kept.take)
    | (with_reducible apply Kept.incWrap)
    | (with_reducible apply Kept.fabEvent)
    | (with_reducible apply Kept.electKeeper)
    | (with_reducible apply Kept.putFab)
    | (with_reducible apply Kept.peerTide)
    | (with_reducible refine Kept.fst ?_ (by with_reducible assumption))
    | (with_reducible refine Kept.snd ?_ (by with_reducible assumption))
    | (with_reducible refine Kept.mk_other ?_)
    | decide

theorem Kept.linkState {s0 s : State} {l : Nat} {st : Nat} (hk0 : Kept s0 s) :
    Kept s0 (State.linkState s l st) := by
  unfold State.linkState
  try dsimp only
  repeat' first
    | (with_reducible assumption)
    | (split)
    | (with_reducible refine Kept.foldl ?_ ?_)
    | decide
    | (intro u hu x hx)
    | (intro u hu)
    | (refine Kept.notMode_of_mem (by with_reducible assumption) (by decide))
    | (with_reducible refine Kept.wr ?_ (by first | decide | with_reducible assumption | exact Kept.notMode_of_mem (by with_reducible assumption) (by decide) | exact Kept.notMode_of_mem_fst (by with_reducible assumption) (by with_unfolding_all rfl)))
    | (with_reducible refine Kept.wrMode ?_ 4 (by decide) (by first | decide | with_reducible assumption))
    | (with_reducible refine Kept.wrMode ?_ 5 (by decide) (by first | decide | with_reducible assumption))
    | (with_reducible refine Kept.wrMode ?_ 8 (by decide) (by first | decide | with_reducible assumption))
    | (with_reducible apply Kept.emit)
    | (with_reducible apply Kept.fabEvent)
    | decide

theorem Kept.adjRemove {s0 s : State} {l : Nat} {st : Nat} (hk0 : Kept s0 s) :
    Kept s0 (State.adjRemove s l st) := by
  unfold State.adjRemove
  try dsimp only
  repeat' first
    | (with_reducible assumption)
    | (split)
    | (with_reducible refine Kept.foldl ?_ ?_)
    | decide
    | (intro u hu x hx)
    | (intro u hu)
    | (refine Kept.notMode_of_mem (by with_reducible assumption) (by decide))
    | (with_reducible refine Kept.wr ?_ (by first | decide | with_reducible assumption | exact Kept.notMode_of_mem (by with_reducible assumption) (by decide) | exact Kept.notMode_of_mem_fst (by with_reducible assumption) (by with_unfolding_all rfl)))
    | (with_reducible refine Kept.wrMode ?_ 4 (by decide) (by first | decide | with_reducible assumption))
    | (with_reducible refine Kept.wrMode ?_ 5 (by decide) (by first | decide | with_reducible assumption))
    | (with_reducible refine Kept.wrMode ?_ 8 (by decide) (by first | decide | with_reducible assumption))
    | (with_reducible apply Kept.emit)
    | (with_reducible apply Kept.linkState)
    | (with_reducible apply Kept.dropLinkRoutes)
    | (with_reducible apply Kept.setLink)
    | (with_reducible apply Kept.adjChanged)
    | (with_reducible refine Kept.mk_other ?_)
    | decide

theorem Kept.clearLink {s0 s : State} {l : Nat} (hk0 : Kept s0 s) :
    Kept s0 (State.clearLink s l) := by
  unfold State.clearLink
  try dsimp only
  repeat' first
    | (with_reducible assumption)
    | (split)
    | (with_reducible refine Kept.foldl ?_ ?_)
    | decide
    | (intro u hu x hx)
    | (intro u hu)
    | (refine Kept.notMode_of_mem (by with_reducible assumption) (by decide))
    | (with_reducible apply Kept.emit)
    | (with_reducible apply Kept.setLink)
    | (with_reducible refine Kept.mk_other ?_)
    | decide

theorem Kept.sendCodeword {s0 s : State} {l : Nat} (hk0 : Kept s0 s) :
    Kept s0 (State.sendCodeword s l) := by
  unfold State.sendCodeword
  try dsimp only
  repeat' first
    | (with_reducible assumption)
    | (split)
    | (with_reducible refine Kept.foldl ?_ ?_)
    | decide
    | (intro u hu x hx)
    | (intro u hu)
    | (refine Kept.notMode_of_mem (by with_reducible assumption) (by decide))
    | (with_reducible apply Kept.emit)
    | (with_reducible apply Kept.take)
    | (with_reducible apply Kept.setLink)
    | (with_reducible refine Kept.mk_other ?_)
    | decide

theorem Kept.lockLost {s0 s : State} {l : Nat} (hk0 : Kept s0 s) :
    Kept s0 (State.lockLost s l) := by
  unfold State.lockLost
  try dsimp only
  repeat' first
    | (with_reducible assumption)
    | (split)
    | (with_reducible refine Kept.foldl ?_ ?_)
    | decide
    | (intro u hu x hx)
    | (intro u hu)
    | (refine Kept.notMode_of_mem (by with_reducible assumption) (by decide))
    | (with_reducible refine Kept.wr ?_ (by first | decide | with_reducible assumption | exact Kept.notMode_of_mem (by with_reducible assumption) (by decide) | exact Kept.notMode_of_mem_fst (by with_reducible assumption) (by with_unfolding_all rfl)))
    | (with_reducible refine Kept.wrMode ?_ 4 (by decide) (by first | decide | with_reducible assumption))
    | (with_reducible refine Kept.wrMode ?_ 5 (by decide) (by first | decide | with_reducible assumption))
    | (with_reducible refine Kept.wrMode ?_ 8 (by decide) (by first | decide | with_reducible assumption))
    | (with_reducible apply Kept.emit)
    | (with_reducible apply Kept.adjRemove)
    | (with_reducible apply Kept.clearLink)
    | decide

theorem Kept.linkDown {s0 s : State} {l : Nat} (hk0 : Kept s0 s) :
    Kept s0 (State.linkDown s l) := by
  unfold State.linkDown
  try dsimp only
  repeat' first
    | (with_reducible assumption)
    | (split)
    | (with_reducible refine Kept.foldl ?_ ?_)
    | decide
    | (intro u hu x hx)
    | (intro u hu)
    | (refine Kept.notMode_of_mem (by with_reducible assumption) (by decide))
    | (with_reducible refine Kept.wr ?_ (by first | decide | with_reducible assumption | exact Kept.notMode_of_mem (by with_reducible assumption) (by decide) | exact Kept.notMode_of_mem_fst (by with_reducible assumption) (by with_unfolding_all rfl)))
    | (with_reducible refine Kept.wrMode ?_ 4 (by decide) (by first | decide | with_reducible assumption))
    | (with_reducible refine Kept.wrMode ?_ 5 (by decide) (by first | decide | with_reducible assumption))
    | (with_reducible refine Kept.wrMode ?_ 8 (by decide) (by first | decide | with_reducible assumption))
    | (with_reducible apply Kept.emit)
    | (with_reducible apply Kept.adjRemove)
    | (with_reducible apply Kept.clearLink)
    | (with_reducible apply Kept.setLink)
    | (with_reducible refine Kept.mk_other ?_)
    | decide

theorem Kept.linkUp {s0 s : State} {l : Nat} (hk0 : Kept s0 s) :
    Kept s0 (State.linkUp s l) := by
  unfold State.linkUp
  try dsimp only
  repeat' first
    | (with_reducible assumption)
    | (split)
    | (with_reducible refine Kept.foldl ?_ ?_)
    | decide
    | (intro u hu x hx)
    | (intro u hu)
    | (refine Kept.notMode_of_mem (by with_reducible assumption) (by decide))
    | (with_reducible apply Kept.emit)
    | (with_reducible apply Kept.linkState)
    | (with_reducible apply Kept.sendCodeword)
    | decide

theorem Kept.claim {s0 s : State} (hk0 : Kept s0 s) :
    Kept s0 (State.claim s) := by
  unfold State.claim
  try dsimp only
  repeat' first
    | (with_reducible assumption)
    | (split)
    | (with_reducible refine Kept.foldl ?_ ?_)
    | decide
    | (intro u hu x hx)
    | (intro u hu)
    | (refine Kept.notMode_of_mem (by with_reducible assumption) (by decide))
    | (with_reducible refine Kept.wr ?_ (by first | decide | with_reducible assumption | exact Kept.notMode_of_mem (by with_reducible assumption) (by decide) | exact Kept.notMode_of_mem_fst (by with_reducible assumption) (by with_unfolding_all rfl)))
    | (with_reducible refine Kept.wrMode ?_ 4 (by decide) (by first | decide | with_reducible assumption))
    | (with_reducible refine Kept.wrMode ?_ 5 (by decide) (by first | decide | with_reducible assumption))
    | (with_reducible refine Kept.wrMode ?_ 8 (by decide) (by first | decide | with_reducible assumption))
    | (with_reducible apply Kept.emit)
    | (with_reducible apply Kept.putFab)
    | (with_reducible apply Kept.fabEvent)
    | (with_reducible apply Kept.floodClaim)
    | (with_reducible refine Kept.fst ?_ (by with_reducible assumption))
    | (with_reducible refine Kept.snd ?_ (by with_reducible assumption))
    | (with_reducible refine Kept.mk_other ?_)
    | decide

theorem Kept.releaseAddr {s0 s : State} {lost : Bool} (hk0 : Kept s0 s) :
    Kept s0 (State.releaseAddr s lost) := by
  unfold State.releaseAddr
  try dsimp only
  repeat' first
    | (with_reducible assumption)
    | (split)
    | (with_reducible refine Kept.foldl ?_ ?_)
    | decide
    | (intro u hu x hx)
    | (intro u hu)
    | (refine Kept.notMode_of_mem (by with_reducible assumption) (by decide))
    | (with_reducible refine Kept.wr ?_ (by first | decide | with_reducible assumption | exact Kept.notMode_of_mem (by with_reducible assumption) (by decide) | exact Kept.notMode_of_mem_fst (by with_reducible assumption) (by with_unfolding_all rfl)))
    | (with_reducible refine Kept.wrMode ?_ 4 (by decide) (by first | decide | with_reducible assumption))
    | (with_reducible refine Kept.wrMode ?_ 5 (by decide) (by first | decide | with_reducible assumption))
    | (with_reducible refine Kept.wrMode ?_ 8 (by decide) (by first | decide | with_reducible assumption))
    | (with_reducible apply Kept.emit)
    | (with_reducible apply Kept.fabEvent)
    | (with_reducible apply Kept.putFab)
    | (with_reducible apply Kept.claim)
    | (with_reducible refine Kept.mk_other ?_)
    | decide

theorem Kept.rivalClaim {s0 s : State} {serial : Nat} {addr : Nat} (hk0 : Kept s0 s) :
    Kept s0 (State.rivalClaim s serial addr) := by
  unfold State.rivalClaim
  try dsimp only
  repeat' first
    | (with_reducible assumption)
    | (split)
    | (with_reducible refine Kept.foldl ?_ ?_)
    | decide
    | (intro u hu x hx)
    | (intro u hu)
    | (refine Kept.notMode_of_mem (by with_reducible assumption) (by decide))
    | (with_reducible apply Kept.emit)
    | (with_reducible apply Kept.claim)
    | (with_reducible apply Kept.floodClaim)
    | (with_reducible apply Kept.releaseAddr)
    | decide

theorem Kept.adjForm {s0 s : State} {l : Nat} {h : Hello} (hk0 : Kept s0 s) :
    Kept s0 (State.adjForm s l h) := by
  unfold State.adjForm
  try dsimp only
  repeat' first
    | (with_reducible assumption)
    | (split)
    | (with_reducible refine Kept.foldl ?_ ?_)
    | decide
    | (intro u hu x hx)
    | (intro u hu)
    | (refine Kept.notMode_of_mem (by with_reducible assumption) (by decide))
    | (with_reducible refine Kept.wr ?_ (by first | decide | with_reducible assumption | exact Kept.notMode_of_mem (by with_reducible assumption) (by decide) | exact Kept.notMode_of_mem_fst (by with_reducible assumption) (by with_unfolding_all rfl)))
    | (with_reducible refine Kept.wrMode ?_ 4 (by decide) (by first | decide | with_reducible assumption))
    | (with_reducible refine Kept.wrMode ?_ 5 (by decide) (by first | decide | with_reducible assumption))
    | (with_reducible refine Kept.wrMode ?_ 8 (by decide) (by first | decide | with_reducible assumption))
    | (with_reducible apply Kept.emit)
    | (with_reducible apply Kept.linkState)
    | (with_reducible apply Kept.setLink)
    | (with_reducible apply Kept.adjChanged)
    | (with_reducible apply Kept.claim)
    | (with_reducible refine Kept.mk_other ?_)
    | decide

theorem Kept.floodNew {s0 s t : State} {serial ty seq : Nat} (h : Kept s0 s) (e : s.floodNew serial ty seq = some t) :
    Kept s0 t := by
  unfold State.floodNew at e
  dsimp only at e
  repeat' split at e
  all_goals first
    | contradiction
    | (simp only [Option.some.injEq] at e
       subst e
       exact Kept.putFab h)

end Sys2Proof.Machine
end

