-- ==== Sys2Proof/Laws/KeptProtOps.lean ====
section
/-! SUPPORT. What the operations of ProtOps keep (Laws/Kept.lean). -/

namespace Sys2Proof.Machine

set_option Elab.async false
set_option linter.all false

theorem Kept.setProt {s0 s : State} {t : Nat} {x : ProtTree} (hk0 : Kept s0 s) :
    Kept s0 (State.setProt s t x) := by
  unfold State.setProt
  try dsimp only
  repeat' first
    | (with_reducible assumption)
    | (split)
    | (with_reducible refine Kept.foldl ?_ ?_)
    | decide
    | (intro u hu x hx)
    | (intro u hu)
    | (refine Kept.notMode_of_mem (by with_reducible assumption) (by decide))
    | (with_reducible apply Kept.emit)
    | (with_reducible refine Kept.mk_other ?_)
    | decide

theorem Kept.protMsg {s0 s : State} {t : Nat} {kind : Nat} {f : Int} {body : List Byte} (hk0 : Kept s0 s) :
    Kept s0 (State.protMsg s t kind f body) := by
  unfold State.protMsg
  try dsimp only
  repeat' first
    | (with_reducible assumption)
    | (split)
    | (with_reducible refine Kept.foldl ?_ ?_)
    | decide
    | (intro u hu x hx)
    | (intro u hu)
    | (refine Kept.notMode_of_mem (by with_reducible assumption) (by decide))
    | (with_reducible apply Kept.emit)
    | (with_reducible apply Kept.sendMessage)
    | decide

theorem Kept.sendStatus {s0 s : State} {t : Nat} (hk0 : Kept s0 s) :
    Kept s0 (State.sendStatus s t) := by
  unfold State.sendStatus
  try dsimp only
  repeat' first
    | (with_reducible assumption)
    | (split)
    | (with_reducible refine Kept.foldl ?_ ?_)
    | decide
    | (intro u hu x hx)
    | (intro u hu)
    | (refine Kept.notMode_of_mem (by with_reducible assumption) (by decide))
    | (with_reducible apply Kept.emit)
    | (with_reducible apply Kept.protMsg)
    | (with_reducible apply Kept.setProt)
    | (with_reducible refine Kept.mk_other ?_)
    | decide

theorem Kept.setPaired {s0 s : State} {t : Nat} {on : Bool} (hk0 : Kept s0 s) :
    Kept s0 (State.setPaired s t on) := by
  unfold State.setPaired
  try dsimp only
  repeat' first
    | (with_reducible assumption)
    | (split)
    | (with_reducible refine Kept.foldl ?_ ?_)
    | decide
    | (intro u hu x hx)
    | (intro u hu)
    | (refine Kept.notMode_of_mem (by with_reducible assumption) (by decide))
    | (with_reducible refine Kept.wr ?_ (by first | decide | with_reducible assumption | exact Kept.notMode_of_mem (by with_reducible assumption) (by decide) | exact Kept.notMode_of_mem_fst (by with_reducible assumption) (by with_unfolding_all rfl)))
    | (with_reducible refine Kept.wrMode ?_ 4 (by decide) (by first | decide | with_reducible assumption))
    | (with_reducible refine Kept.wrMode ?_ 5 (by decide) (by first | decide | with_reducible assumption))
    | (with_reducible refine Kept.wrMode ?_ 8 (by decide) (by first | decide | with_reducible assumption))
    | (with_reducible apply Kept.emit)
    | decide

theorem Kept.protSet {s0 s : State} {t : Nat} {ps : Nat} {cause : Nat} (hk0 : Kept s0 s) (hm : ps ≤ 8) :
    Kept s0 (State.protSet s t ps cause) := by
  unfold State.protSet
  try dsimp only
  repeat' first
    | (with_reducible assumption)
    | (split)
    | (with_reducible refine Kept.foldl ?_ ?_)
    | decide
    | (intro u hu x hx)
    | (intro u hu)
    | (refine Kept.notMode_of_mem (by with_reducible assumption) (by decide))
    | (with_reducible refine Kept.wr ?_ (by first | decide | with_reducible assumption | exact Kept.notMode_of_mem (by with_reducible assumption) (by decide) | exact Kept.notMode_of_mem_fst (by with_reducible assumption) (by with_unfolding_all rfl)))
    | (with_reducible refine Kept.wrMode ?_ 4 (by decide) (by first | decide | with_reducible assumption))
    | (with_reducible refine Kept.wrMode ?_ 5 (by decide) (by first | decide | with_reducible assumption))
    | (with_reducible refine Kept.wrMode ?_ 8 (by decide) (by first | decide | with_reducible assumption))
    | (with_reducible apply Kept.emit)
    | (with_reducible apply Kept.setPaired)
    | (with_reducible apply Kept.incWrap)
    | (with_reducible apply Kept.protEvent)
    | (with_reducible apply Kept.sendStatus)
    | decide

theorem Kept.enterSyncing {s0 s : State} {t : Nat} {cause : Nat} (hk0 : Kept s0 s) :
    Kept s0 (State.enterSyncing s t cause) := by
  unfold State.enterSyncing
  try dsimp only
  repeat' first
    | (with_reducible assumption)
    | (split)
    | (with_reducible refine Kept.foldl ?_ ?_)
    | decide
    | (intro u hu x hx)
    | (intro u hu)
    | (refine Kept.notMode_of_mem (by with_reducible assumption) (by decide))
    | (with_reducible refine Kept.wr ?_ (by first | decide | with_reducible assumption | exact Kept.notMode_of_mem (by with_reducible assumption) (by decide) | exact Kept.notMode_of_mem_fst (by with_reducible assumption) (by with_unfolding_all rfl)))
    | (with_reducible refine Kept.wrMode ?_ 4 (by decide) (by first | decide | with_reducible assumption))
    | (with_reducible refine Kept.wrMode ?_ 5 (by decide) (by first | decide | with_reducible assumption))
    | (with_reducible refine Kept.wrMode ?_ 8 (by decide) (by first | decide | with_reducible assumption))
    | (with_reducible apply Kept.emit)
    | (with_reducible apply Kept.protSet)
    | (with_reducible apply Kept.setProt)
    | (with_reducible refine Kept.mk_other ?_)
    | decide

theorem Kept.goStandby {s0 s : State} {t : Nat} (hk0 : Kept s0 s) :
    Kept s0 (State.goStandby s t) := by
  unfold State.goStandby
  try dsimp only
  repeat' first
    | (with_reducible assumption)
    | (split)
    | (with_reducible refine Kept.foldl ?_ ?_)
    | decide
    | (intro u hu x hx)
    | (intro u hu)
    | (refine Kept.notMode_of_mem (by with_reducible assumption) (by decide))
    | (with_reducible apply Kept.emit)
    | (with_reducible apply Kept.endFsFrame)
    | (with_reducible apply Kept.treeStop)
    | (with_reducible apply Kept.dropInFlight)
    | (with_reducible apply Kept.dropStaged)
    | (with_reducible apply Kept.treeState)
    | (with_reducible apply Kept.setTreeU)
    | (with_reducible apply Kept.recordUnused)
    | (with_reducible refine Kept.mk_other ?_)
    | decide

theorem Kept.goActive {s0 s : State} {t : Nat} {f : Int} (hk0 : Kept s0 s) :
    Kept s0 (State.goActive s t f) := by
  unfold State.goActive
  try dsimp only
  repeat' first
    | (with_reducible assumption)
    | (split)
    | (with_reducible refine Kept.foldl ?_ ?_)
    | decide
    | (intro u hu x hx)
    | (intro u hu)
    | (refine Kept.notMode_of_mem (by with_reducible assumption) (by decide))
    | (with_reducible apply Kept.emit)
    | (with_reducible apply Kept.treeState)
    | (with_reducible apply Kept.setTree)
    | (with_reducible apply Kept.putTerms)
    | (with_reducible apply Kept.setTreeU)
    | (with_reducible apply Kept.reannounce)
    | (with_reducible refine Kept.mk_other ?_)
    | decide

theorem Kept.switchAnswer {s0 s : State} {t : Nat} {r : Resp} (hk0 : Kept s0 s) :
    Kept s0 (State.switchAnswer s t r) := by
  unfold State.switchAnswer
  try dsimp only
  repeat' first
    | (with_reducible assumption)
    | (split)
    | (with_reducible refine Kept.foldl ?_ ?_)
    | decide
    | (intro u hu x hx)
    | (intro u hu)
    | (refine Kept.notMode_of_mem (by with_reducible assumption) (by decide))
    | (with_reducible apply Kept.emit)
    | (with_reducible apply Kept.setProt)
    | (with_reducible apply Kept.answerLater)
    | (with_reducible refine Kept.fst ?_ (by with_reducible assumption))
    | (with_reducible refine Kept.snd ?_ (by with_reducible assumption))
    | (with_reducible refine Kept.mk_other ?_)
    | decide

theorem Kept.setLease {s0 s : State} {t : Nat} {ends : Option Nat} (hk0 : Kept s0 s) :
    Kept s0 (State.setLease s t ends) := by
  unfold State.setLease
  try dsimp only
  repeat' first
    | (with_reducible assumption)
    | (split)
    | (with_reducible refine Kept.foldl ?_ ?_)
    | decide
    | (intro u hu x hx)
    | (intro u hu)
    | (refine Kept.notMode_of_mem (by with_reducible assumption) (by decide))
    | (with_reducible refine Kept.wr ?_ (by first | decide | with_reducible assumption | exact Kept.notMode_of_mem (by with_reducible assumption) (by decide) | exact Kept.notMode_of_mem_fst (by with_reducible assumption) (by with_unfolding_all rfl)))
    | (with_reducible refine Kept.wrMode ?_ 4 (by decide) (by first | decide | with_reducible assumption))
    | (with_reducible refine Kept.wrMode ?_ 5 (by decide) (by first | decide | with_reducible assumption))
    | (with_reducible refine Kept.wrMode ?_ 8 (by decide) (by first | decide | with_reducible assumption))
    | (with_reducible apply Kept.emit)
    | (with_reducible apply Kept.setProt)
    | (with_reducible apply Kept.wrB)
    | (with_reducible refine Kept.mk_other ?_)
    | decide

theorem Kept.takeover {s0 s : State} {t : Nat} {cause : Nat} (hk0 : Kept s0 s) :
    Kept s0 (State.takeover s t cause) := by
  unfold State.takeover
  try dsimp only
  repeat' first
    | (with_reducible assumption)
    | (split)
    | (with_reducible refine Kept.foldl ?_ ?_)
    | decide
    | (intro u hu x hx)
    | (intro u hu)
    | (refine Kept.notMode_of_mem (by with_reducible assumption) (by decide))
    | (with_reducible apply Kept.emit)
    | (with_reducible apply Kept.setProt)
    | (with_reducible apply Kept.protSet)
    | (with_reducible apply Kept.goActive)
    | (with_reducible refine Kept.mk_other ?_)
    | decide

theorem Kept.forgetSent {s0 s : State} {t : Nat} (hk0 : Kept s0 s) :
    Kept s0 (State.forgetSent s t) := by
  unfold State.forgetSent
  try dsimp only
  repeat' first
    | (with_reducible assumption)
    | (split)
    | (with_reducible refine Kept.foldl ?_ ?_)
    | decide
    | (intro u hu x hx)
    | (intro u hu)
    | (refine Kept.notMode_of_mem (by with_reducible assumption) (by decide))
    | (with_reducible apply Kept.emit)
    | (with_reducible apply Kept.setProt)
    | (with_reducible refine Kept.mk_other ?_)
    | decide

theorem Kept.enterDark {s0 s : State} {t : Nat} {ps : Nat} {cause : Nat} (hk0 : Kept s0 s) (hm : ps ≤ 8) :
    Kept s0 (State.enterDark s t ps cause) := by
  unfold State.enterDark
  try dsimp only
  repeat' first
    | (with_reducible assumption)
    | (split)
    | (with_reducible refine Kept.foldl ?_ ?_)
    | decide
    | (intro u hu x hx)
    | (intro u hu)
    | (refine Kept.notMode_of_mem (by with_reducible assumption) (by decide))
    | (with_reducible apply Kept.emit)
    | (with_reducible apply Kept.protSet)
    | (with_reducible apply Kept.forgetSent)
    | decide

theorem Kept.yieldNext {s0 s : State} {t : Nat} {cause : Nat} (hk0 : Kept s0 s) :
    Kept s0 (State.yieldNext s t cause) := by
  unfold State.yieldNext
  try dsimp only
  repeat' first
    | (with_reducible assumption)
    | (split)
    | (with_reducible refine Kept.foldl ?_ ?_)
    | decide
    | (intro u hu x hx)
    | (intro u hu)
    | (refine Kept.notMode_of_mem (by with_reducible assumption) (by decide))
    | (with_reducible apply Kept.emit)
    | (with_reducible apply Kept.protSet)
    | (with_reducible apply Kept.setTree)
    | (with_reducible apply Kept.setProt)
    | (with_reducible refine Kept.mk_other ?_)
    | decide

theorem Kept.freeStandbySlots {s0 s : State} {t : Nat} (hk0 : Kept s0 s) :
    Kept s0 (State.freeStandbySlots s t) := by
  unfold State.freeStandbySlots
  try dsimp only
  repeat' first
    | (with_reducible assumption)
    | (split)
    | (with_reducible refine Kept.foldl ?_ ?_)
    | decide
    | (intro u hu x hx)
    | (intro u hu)
    | (refine Kept.notMode_of_mem (by with_reducible assumption) (by decide))
    | (with_reducible apply Kept.emit)
    | (with_reducible apply Kept.eraseSlot)
    | (with_reducible apply Kept.unbindSlot)
    | (with_reducible refine Kept.fst ?_ (by with_reducible assumption))
    | (with_reducible refine Kept.snd ?_ (by with_reducible assumption))
    | (with_reducible refine Kept.mk_other ?_)
    | decide

theorem Kept.endPairWork {s0 s : State} {t : Nat} (hk0 : Kept s0 s) :
    Kept s0 (State.endPairWork s t) := by
  unfold State.endPairWork
  try dsimp only
  repeat' first
    | (with_reducible assumption)
    | (split)
    | (with_reducible refine Kept.foldl ?_ ?_)
    | decide
    | (intro u hu x hx)
    | (intro u hu)
    | (refine Kept.notMode_of_mem (by with_reducible assumption) (by decide))
    | (with_reducible apply Kept.emit)
    | (with_reducible apply Kept.switchAnswer)
    | (with_reducible apply Kept.answerFailed)
    | (with_reducible apply Kept.setProt)
    | (with_reducible refine Kept.mk_other ?_)
    | decide

theorem Kept.leavePair {s0 s : State} {t : Nat} {cause : Nat} (hk0 : Kept s0 s) :
    Kept s0 (State.leavePair s t cause) := by
  unfold State.leavePair
  try dsimp only
  repeat' first
    | (with_reducible assumption)
    | (split)
    | (with_reducible refine Kept.foldl ?_ ?_)
    | decide
    | (intro u hu x hx)
    | (intro u hu)
    | (refine Kept.notMode_of_mem (by with_reducible assumption) (by decide))
    | (with_reducible refine Kept.wr ?_ (by first | decide | with_reducible assumption | exact Kept.notMode_of_mem (by with_reducible assumption) (by decide) | exact Kept.notMode_of_mem_fst (by with_reducible assumption) (by with_unfolding_all rfl)))
    | (with_reducible refine Kept.wrMode ?_ 4 (by decide) (by first | decide | with_reducible assumption))
    | (with_reducible refine Kept.wrMode ?_ 5 (by decide) (by first | decide | with_reducible assumption))
    | (with_reducible refine Kept.wrMode ?_ 8 (by decide) (by first | decide | with_reducible assumption))
    | (with_reducible apply Kept.emit)
    | (with_reducible apply Kept.endPairWork)
    | (with_reducible apply Kept.freeStandbySlots)
    | (with_reducible apply Kept.setLease)
    | (with_reducible apply Kept.protSet)
    | (with_reducible apply Kept.protEvent)
    | (with_reducible apply Kept.setProt)
    | decide

theorem Kept.treeDisable {s0 s : State} {t : Nat} (hk0 : Kept s0 s) :
    Kept s0 (State.treeDisable s t) := by
  unfold State.treeDisable
  try dsimp only
  repeat' first
    | (with_reducible assumption)
    | (split)
    | (with_reducible refine Kept.foldl ?_ ?_)
    | decide
    | (intro u hu x hx)
    | (intro u hu)
    | (refine Kept.notMode_of_mem (by with_reducible assumption) (by decide))
    | (with_reducible refine Kept.wr ?_ (by first | decide | with_reducible assumption | exact Kept.notMode_of_mem (by with_reducible assumption) (by decide) | exact Kept.notMode_of_mem_fst (by with_reducible assumption) (by with_unfolding_all rfl)))
    | (with_reducible refine Kept.wrMode ?_ 4 (by decide) (by first | decide | with_reducible assumption))
    | (with_reducible refine Kept.wrMode ?_ 5 (by decide) (by first | decide | with_reducible assumption))
    | (with_reducible refine Kept.wrMode ?_ 8 (by decide) (by first | decide | with_reducible assumption))
    | (with_reducible apply Kept.emit)
    | (with_reducible apply Kept.cancelStart)
    | (with_reducible apply Kept.treeStop)
    | (with_reducible apply Kept.dropInFlight)
    | (with_reducible apply Kept.dropStaged)
    | (with_reducible apply Kept.flushQueues)
    | (with_reducible apply Kept.treeState)
    | (with_reducible apply Kept.termsLeave)
    | (with_reducible apply Kept.setTreeU)
    | (with_reducible apply Kept.setTree)
    | (with_reducible apply Kept.putSluUnits)
    | (with_reducible apply Kept.freeRetained)
    | (with_reducible apply Kept.countForecasts)
    | (with_reducible refine Kept.mk_other ?_)
    | decide

theorem Kept.dissolve {s0 s : State} {t : Nat} {cause : Nat} (hk0 : Kept s0 s) :
    Kept s0 (State.dissolve s t cause) := by
  unfold State.dissolve
  try dsimp only
  repeat' first
    | (with_reducible assumption)
    | (split)
    | (with_reducible refine Kept.foldl ?_ ?_)
    | decide
    | (intro u hu x hx)
    | (intro u hu)
    | (refine Kept.notMode_of_mem (by with_reducible assumption) (by decide))
    | (with_reducible refine Kept.wr ?_ (by first | decide | with_reducible assumption | exact Kept.notMode_of_mem (by with_reducible assumption) (by decide) | exact Kept.notMode_of_mem_fst (by with_reducible assumption) (by with_unfolding_all rfl)))
    | (with_reducible refine Kept.wrMode ?_ 4 (by decide) (by first | decide | with_reducible assumption))
    | (with_reducible refine Kept.wrMode ?_ 5 (by decide) (by first | decide | with_reducible assumption))
    | (with_reducible refine Kept.wrMode ?_ 8 (by decide) (by first | decide | with_reducible assumption))
    | (with_reducible apply Kept.emit)
    | (with_reducible apply Kept.leavePair)
    | (with_reducible apply Kept.treeDisable)
    | decide

theorem Kept.faultTree {s0 s : State} {t : Nat} {cause : Nat} (hk0 : Kept s0 s) :
    Kept s0 (State.faultTree s t cause) := by
  unfold State.faultTree
  try dsimp only
  repeat' first
    | (with_reducible assumption)
    | (split)
    | (with_reducible refine Kept.foldl ?_ ?_)
    | decide
    | (intro u hu x hx)
    | (intro u hu)
    | (refine Kept.notMode_of_mem (by with_reducible assumption) (by decide))
    | (with_reducible apply Kept.emit)
    | (with_reducible apply Kept.treeFault)
    | (with_reducible apply Kept.switchAnswer)
    | (with_reducible apply Kept.enterDark)
    | decide

theorem Kept.tryReady {s0 s : State} {t : Nat} (hk0 : Kept s0 s) :
    Kept s0 (State.tryReady s t) := by
  unfold State.tryReady
  try dsimp only
  repeat' first
    | (with_reducible assumption)
    | (split)
    | (with_reducible refine Kept.foldl ?_ ?_)
    | decide
    | (intro u hu x hx)
    | (intro u hu)
    | (refine Kept.notMode_of_mem (by with_reducible assumption) (by decide))
    | (with_reducible apply Kept.emit)
    | (with_reducible apply Kept.protSet)
    | decide

theorem Kept.countClean {s0 s : State} {t : Nat} {clean : Bool} (hk0 : Kept s0 s) :
    Kept s0 (State.countClean s t clean) := by
  unfold State.countClean
  try dsimp only
  repeat' first
    | (with_reducible assumption)
    | (split)
    | (with_reducible refine Kept.foldl ?_ ?_)
    | decide
    | (intro u hu x hx)
    | (intro u hu)
    | (refine Kept.notMode_of_mem (by with_reducible assumption) (by decide))
    | (with_reducible refine Kept.wr ?_ (by first | decide | with_reducible assumption | exact Kept.notMode_of_mem (by with_reducible assumption) (by decide) | exact Kept.notMode_of_mem_fst (by with_reducible assumption) (by with_unfolding_all rfl)))
    | (with_reducible refine Kept.wrMode ?_ 4 (by decide) (by first | decide | with_reducible assumption))
    | (with_reducible refine Kept.wrMode ?_ 5 (by decide) (by first | decide | with_reducible assumption))
    | (with_reducible refine Kept.wrMode ?_ 8 (by decide) (by first | decide | with_reducible assumption))
    | (with_reducible apply Kept.emit)
    | (with_reducible apply Kept.tryReady)
    | decide

theorem Kept.deltaFrame {s0 s : State} {t : Nat} (hk0 : Kept s0 s) :
    Kept s0 (State.deltaFrame s t) := by
  unfold State.deltaFrame
  try dsimp only
  repeat' first
    | (with_reducible assumption)
    | (split)
    | (with_reducible refine Kept.foldl ?_ ?_)
    | decide
    | (intro u hu x hx)
    | (intro u hu)
    | (refine Kept.notMode_of_mem (by with_reducible assumption) (by decide))
    | (with_reducible refine Kept.wr ?_ (by first | decide | with_reducible assumption | exact Kept.notMode_of_mem (by with_reducible assumption) (by decide) | exact Kept.notMode_of_mem_fst (by with_reducible assumption) (by with_unfolding_all rfl)))
    | (with_reducible refine Kept.wrMode ?_ 4 (by decide) (by first | decide | with_reducible assumption))
    | (with_reducible refine Kept.wrMode ?_ 5 (by decide) (by first | decide | with_reducible assumption))
    | (with_reducible refine Kept.wrMode ?_ 8 (by decide) (by first | decide | with_reducible assumption))
    | (with_reducible apply Kept.emit)
    | (with_reducible apply Kept.setProt)
    | (with_reducible refine Kept.mk_other ?_)
    | decide

theorem Kept.usFrameEnd {s0 s : State} {t : Nat} {c : UsCount} (hk0 : Kept s0 s) :
    Kept s0 (State.usFrameEnd s t c) := by
  unfold State.usFrameEnd
  try dsimp only
  repeat' first
    | (with_reducible assumption)
    | (split)
    | (with_reducible refine Kept.foldl ?_ ?_)
    | decide
    | (intro u hu x hx)
    | (intro u hu)
    | (refine Kept.notMode_of_mem (by with_reducible assumption) (by decide))
    | (with_reducible refine Kept.wr ?_ (by first | decide | with_reducible assumption | exact Kept.notMode_of_mem (by with_reducible assumption) (by decide) | exact Kept.notMode_of_mem_fst (by with_reducible assumption) (by with_unfolding_all rfl)))
    | (with_reducible refine Kept.wrMode ?_ 4 (by decide) (by first | decide | with_reducible assumption))
    | (with_reducible refine Kept.wrMode ?_ 5 (by decide) (by first | decide | with_reducible assumption))
    | (with_reducible refine Kept.wrMode ?_ 8 (by decide) (by first | decide | with_reducible assumption))
    | (with_reducible apply Kept.emit)
    | (with_reducible apply Kept.incSat)
    | (with_reducible apply Kept.setProt)
    | (with_reducible apply Kept.take)
    | (with_reducible apply Kept.deltaFrame)
    | (with_reducible apply Kept.countClean)
    | (with_reducible apply Kept.takeover)
    | (with_reducible refine Kept.mk_other ?_)
    | decide

theorem Kept.askLease {s0 s : State} {t : Nat} (hk0 : Kept s0 s) :
    Kept s0 (State.askLease s t) := by
  unfold State.askLease
  try dsimp only
  repeat' first
    | (with_reducible assumption)
    | (split)
    | (with_reducible refine Kept.foldl ?_ ?_)
    | decide
    | (intro u hu x hx)
    | (intro u hu)
    | (refine Kept.notMode_of_mem (by with_reducible assumption) (by decide))
    | (with_reducible apply Kept.emit)
    | (with_reducible apply Kept.setProt)
    | (with_reducible apply Kept.sendTo)
    | (with_reducible refine Kept.mk_other ?_)
    | decide

end Sys2Proof.Machine
end

