-- ==== Sys2Proof/Laws/KeptSluOps.lean ====
section
/-! SUPPORT. What the operations of SluOps keep (Laws/Kept.lean). -/

namespace Sys2Proof.Machine

set_option Elab.async false
set_option linter.all false

theorem Kept.setCommit {s0 s : State} {t : Nat} (hk0 : Kept s0 s) :
    Kept s0 (State.setCommit s t) := by
  unfold State.setCommit
  try dsimp only
  repeat' first
    | (with_reducible assumption)
    | (split)
    | (with_reducible refine Kept.foldl ?_ ?_)
    | decide
    | (intro u hu x hx)
    | (intro u hu)
    | (refine Kept.notMode_of_mem (by with_reducible assumption) (by decide))
    | (with_reducible refine Kept.wr ?_ (by first | decide | with_reducible assumption | exact Kept.notMode_of_mem (by with_reducible assumption) (by decide) | exact Kept.notMode_of_mem_fst (by with_reducible assumption) (by with_unfolding_all rfl)))
    | (with_reducible refine Kept.wrMode ?_ 4 (by decide) (by first | decide | with_reducible assumption))
    | (with_reducible refine Kept.wrMode ?_ 5 (by decide) (by first | decide | with_reducible assumption))
    | (with_reducible refine Kept.wrMode ?_ 8 (by decide) (by first | decide | with_reducible assumption))
    | (with_reducible apply Kept.emit)
    | decide

theorem Kept.postSlu {s0 s : State} {t : Nat} {f : SluTree → SluTree} (hk0 : Kept s0 s) :
    Kept s0 (State.postSlu s t f) := by
  unfold State.postSlu
  try dsimp only
  repeat' first
    | (with_reducible assumption)
    | (split)
    | (with_reducible refine Kept.foldl ?_ ?_)
    | decide
    | (intro u hu x hx)
    | (intro u hu)
    | (refine Kept.notMode_of_mem (by with_reducible assumption) (by decide))
    | (with_reducible apply Kept.emit)
    | (with_reducible apply Kept.setSluTree)
    | decide

theorem Kept.postReport {s0 s : State} {t : Nat} {a : Nat} {bytes : Nat} {mapF : Int} (hk0 : Kept s0 s) :
    Kept s0 (State.postReport s t a bytes mapF) := by
  unfold State.postReport
  try dsimp only
  repeat' first
    | (with_reducible assumption)
    | (split)
    | (with_reducible refine Kept.foldl ?_ ?_)
    | decide
    | (intro u hu x hx)
    | (intro u hu)
    | (refine Kept.notMode_of_mem (by with_reducible assumption) (by decide))
    | (with_reducible apply Kept.emit)
    | (with_reducible apply Kept.postSlu)
    | (with_reducible refine Kept.mk_other ?_)
    | decide

theorem Kept.forgetAlloc {s0 s : State} {t : Nat} {a : Nat} (hk0 : Kept s0 s) :
    Kept s0 (State.forgetAlloc s t a) := by
  unfold State.forgetAlloc
  try dsimp only
  repeat' first
    | (with_reducible assumption)
    | (split)
    | (with_reducible refine Kept.foldl ?_ ?_)
    | decide
    | (intro u hu x hx)
    | (intro u hu)
    | (refine Kept.notMode_of_mem (by with_reducible assumption) (by decide))
    | (with_reducible apply Kept.emit)
    | (with_reducible apply Kept.setSluTree)
    | (with_reducible apply Kept.putSluUnits)
    | (with_reducible refine Kept.mk_other ?_)
    | decide

theorem Kept.forecastsLost {s0 s : State} {n : Nat} (hk0 : Kept s0 s) :
    Kept s0 (State.forecastsLost s n) := by
  unfold State.forecastsLost
  try dsimp only
  repeat' first
    | (with_reducible assumption)
    | (split)
    | (with_reducible refine Kept.foldl ?_ ?_)
    | decide
    | (intro u hu x hx)
    | (intro u hu)
    | (refine Kept.notMode_of_mem (by with_reducible assumption) (by decide))
    | (with_reducible apply Kept.emit)
    | (with_reducible apply Kept.incSat)
    | (with_reducible apply Kept.sluEvent)
    | decide

theorem Kept.dropAlloc {s0 s : State} {t : Nat} {a : Nat} (hk0 : Kept s0 s) :
    Kept s0 (State.dropAlloc s t a) := by
  unfold State.dropAlloc
  try dsimp only
  repeat' first
    | (with_reducible assumption)
    | (split)
    | (with_reducible refine Kept.foldl ?_ ?_)
    | decide
    | (intro u hu x hx)
    | (intro u hu)
    | (refine Kept.notMode_of_mem (by with_reducible assumption) (by decide))
    | (with_reducible apply Kept.emit)
    | (with_reducible apply Kept.forecastsLost)
    | (with_reducible apply Kept.forgetAlloc)
    | (with_reducible apply Kept.countForecasts)
    | decide

theorem Kept.quietClose {s0 s : State} {t : Nat} (hk0 : Kept s0 s) :
    Kept s0 (State.quietClose s t) := by
  unfold State.quietClose
  try dsimp only
  repeat' first
    | (with_reducible assumption)
    | (split)
    | (with_reducible refine Kept.foldl ?_ ?_)
    | decide
    | (intro u hu x hx)
    | (intro u hu)
    | (refine Kept.notMode_of_mem (by with_reducible assumption) (by decide))
    | (with_reducible apply Kept.emit)
    | (with_reducible apply Kept.setShared)
    | (with_reducible apply Kept.setTerm)
    | (with_reducible apply Kept.askRanging)
    | (with_reducible refine Kept.fst ?_ (by with_reducible assumption))
    | (with_reducible refine Kept.snd ?_ (by with_reducible assumption))
    | (with_reducible refine Kept.mk_other ?_)
    | decide

theorem Kept.quietStep {s0 s : State} {t : Nat} {fr : Int} (hk0 : Kept s0 s) :
    Kept s0 (State.quietStep s t fr) := by
  unfold State.quietStep
  try dsimp only
  repeat' first
    | (with_reducible assumption)
    | (split)
    | (with_reducible refine Kept.foldl ?_ ?_)
    | decide
    | (intro u hu x hx)
    | (intro u hu)
    | (refine Kept.notMode_of_mem (by with_reducible assumption) (by decide))
    | (with_reducible apply Kept.emit)
    | (with_reducible apply Kept.quietClose)
    | (with_reducible apply Kept.setShared)
    | (with_reducible apply Kept.fillRanging)
    | (with_reducible apply Kept.setTreeU)
    | (with_reducible refine Kept.fst ?_ (by with_reducible assumption))
    | (with_reducible refine Kept.snd ?_ (by with_reducible assumption))
    | (with_reducible refine Kept.mk_other ?_)
    | decide

theorem Kept.setUnit {s0 s : State} {u : Nat} {st : Nat} (hk0 : Kept s0 s) (hm : st ≤ 4) :
    Kept s0 (State.setUnit s u st) := by
  unfold State.setUnit
  try dsimp only
  repeat' first
    | (with_reducible assumption)
    | (split)
    | (with_reducible refine Kept.foldl ?_ ?_)
    | decide
    | (intro u hu x hx)
    | (intro u hu)
    | (refine Kept.notMode_of_mem (by with_reducible assumption) (by decide))
    | (with_reducible refine Kept.wr ?_ (by first | decide | with_reducible assumption | exact Kept.notMode_of_mem (by with_reducible assumption) (by decide) | exact Kept.notMode_of_mem_fst (by with_reducible assumption) (by with_unfolding_all rfl)))
    | (with_reducible refine Kept.wrMode ?_ 4 (by decide) (by first | decide | with_reducible assumption))
    | (with_reducible refine Kept.wrMode ?_ 5 (by decide) (by first | decide | with_reducible assumption))
    | (with_reducible refine Kept.wrMode ?_ 8 (by decide) (by first | decide | with_reducible assumption))
    | (with_reducible apply Kept.emit)
    | (with_reducible apply Kept.wrB)
    | decide

theorem Kept.enterResync {s0 s : State} {u : Nat} {passed : Bool} (hk0 : Kept s0 s) :
    Kept s0 (State.enterResync s u passed) := by
  unfold State.enterResync
  try dsimp only
  repeat' first
    | (with_reducible assumption)
    | (split)
    | (with_reducible refine Kept.foldl ?_ ?_)
    | decide
    | (intro u hu x hx)
    | (intro u hu)
    | (refine Kept.notMode_of_mem (by with_reducible assumption) (by decide))
    | (with_reducible apply Kept.emit)
    | (with_reducible apply Kept.setSluTree)
    | (with_reducible apply Kept.setSluUnit)
    | (with_reducible apply Kept.setUnit)
    | (with_reducible refine Kept.mk_other ?_)
    | decide

theorem Kept.switchOver {s0 s : State} {unit : Nat} (hk0 : Kept s0 s) :
    Kept s0 (State.switchOver s unit) := by
  unfold State.switchOver
  try dsimp only
  repeat' first
    | (with_reducible assumption)
    | (split)
    | (with_reducible refine Kept.foldl ?_ ?_)
    | decide
    | (intro u hu x hx)
    | (intro u hu)
    | (refine Kept.notMode_of_mem (by with_reducible assumption) (by decide))
    | (with_reducible apply Kept.emit)
    | (with_reducible apply Kept.putSlu)
    | (with_reducible apply Kept.sluEvent)
    | (with_reducible apply Kept.setUnit)
    | (with_reducible refine Kept.mk_other ?_)
    | decide

theorem Kept.unitFail {s0 s : State} {u : Nat} {cause : Nat} (hk0 : Kept s0 s) :
    Kept s0 (State.unitFail s u cause) := by
  unfold State.unitFail
  try dsimp only
  repeat' first
    | (with_reducible assumption)
    | (split)
    | (with_reducible refine Kept.foldl ?_ ?_)
    | decide
    | (intro u hu x hx)
    | (intro u hu)
    | (refine Kept.notMode_of_mem (by with_reducible assumption) (by decide))
    | (with_reducible refine Kept.wr ?_ (by first | decide | with_reducible assumption | exact Kept.notMode_of_mem (by with_reducible assumption) (by decide) | exact Kept.notMode_of_mem_fst (by with_reducible assumption) (by with_unfolding_all rfl)))
    | (with_reducible refine Kept.wrMode ?_ 4 (by decide) (by first | decide | with_reducible assumption))
    | (with_reducible refine Kept.wrMode ?_ 5 (by decide) (by first | decide | with_reducible assumption))
    | (with_reducible refine Kept.wrMode ?_ 8 (by decide) (by first | decide | with_reducible assumption))
    | (with_reducible apply Kept.emit)
    | (with_reducible apply Kept.setUnit)
    | (with_reducible apply Kept.sluEvent)
    | (with_reducible apply Kept.setSluUnit)
    | (with_reducible apply Kept.switchOver)
    | (with_reducible refine Kept.mk_other ?_)
    | decide

theorem Kept.sluDomainLeft {s0 s : State} {u : Nat} (hk0 : Kept s0 s) :
    Kept s0 (State.sluDomainLeft s u) := by
  unfold State.sluDomainLeft
  try dsimp only
  repeat' first
    | (with_reducible assumption)
    | (split)
    | (with_reducible refine Kept.foldl ?_ ?_)
    | decide
    | (intro u hu x hx)
    | (intro u hu)
    | (refine Kept.notMode_of_mem (by with_reducible assumption) (by decide))
    | (with_reducible refine Kept.wr ?_ (by first | decide | with_reducible assumption | exact Kept.notMode_of_mem (by with_reducible assumption) (by decide) | exact Kept.notMode_of_mem_fst (by with_reducible assumption) (by with_unfolding_all rfl)))
    | (with_reducible refine Kept.wrMode ?_ 4 (by decide) (by first | decide | with_reducible assumption))
    | (with_reducible refine Kept.wrMode ?_ 5 (by decide) (by first | decide | with_reducible assumption))
    | (with_reducible refine Kept.wrMode ?_ 8 (by decide) (by first | decide | with_reducible assumption))
    | (with_reducible apply Kept.emit)
    | (with_reducible apply Kept.unitFail)
    | (with_reducible apply Kept.setSluUnit)
    | (with_reducible refine Kept.mk_other ?_)
    | decide

end Sys2Proof.Machine
end

