-- ==== Sys2Proof/Laws/KeptMirrorOps.lean ====
section
/-! SUPPORT. What the operations of MirrorOps keep (Laws/Kept.lean). -/

namespace Sys2Proof.Machine

set_option Elab.async false
set_option linter.all false

theorem Kept.syncCells {s0 s : State} {t op n : Nat} {l : List (List Byte)} (h : Kept s0 s) :
    Kept s0 (State.syncCells s t op n l) := by
  induction n generalizing s l with
  | zero => exact h
  | succ n ih =>
    unfold State.syncCells
    dsimp only
    split
    · exact h
    · exact ih (Kept.sendMessage h)

theorem Kept.mirrorFrame {s0 s : State} {t : Nat} {f : Int} (hk0 : Kept s0 s) :
    Kept s0 (State.mirrorFrame s t f) := by
  unfold State.mirrorFrame
  try dsimp only
  repeat' first
    | (with_reducible assumption)
    | (split)
    | (with_reducible refine Kept.foldl ?_ ?_)
    | decide
    | (intro u hu x hx)
    | (intro u hu)
    | (refine Kept.notMode_of_mem (by with_reducible assumption) (by decide))
    | (with_reducible apply Kept.emit)
    | (with_reducible apply Kept.setProt)
    | (with_reducible apply Kept.protMsg)
    | (with_reducible apply Kept.syncCells)
    | (with_reducible refine Kept.fst ?_ (by with_reducible assumption))
    | (with_reducible refine Kept.snd ?_ (by with_reducible assumption))
    | (with_reducible refine Kept.mk_other ?_)
    | decide

theorem Kept.mirrorError {s0 s : State} {t : Nat} (hk0 : Kept s0 s) :
    Kept s0 (State.mirrorError s t) := by
  unfold State.mirrorError
  try dsimp only
  repeat' first
    | (with_reducible assumption)
    | (split)
    | (with_reducible refine Kept.foldl ?_ ?_)
    | decide
    | (intro u hu x hx)
    | (intro u hu)
    | (refine Kept.notMode_of_mem (by with_reducible assumption) (by decide))
    | (with_reducible apply Kept.emit)
    | (with_reducible apply Kept.incSat)
    | (with_reducible apply Kept.enterSyncing)
    | decide

theorem Kept.mirrorRefused {s0 s : State} {t : Nat} (hk0 : Kept s0 s) :
    Kept s0 (State.mirrorRefused s t) := by
  unfold State.mirrorRefused
  try dsimp only
  repeat' first
    | (with_reducible assumption)
    | (split)
    | (with_reducible refine Kept.foldl ?_ ?_)
    | decide
    | (intro u hu x hx)
    | (intro u hu)
    | (refine Kept.notMode_of_mem (by with_reducible assumption) (by decide))
    | (with_reducible apply Kept.emit)
    | (with_reducible apply Kept.incSat)
    | decide

theorem Kept.applyTerm {s0 s : State} {t : Nat} {b : List Byte} (hk0 : Kept s0 s) :
    Kept s0 (State.applyTerm s t b) := by
  unfold State.applyTerm
  try dsimp only
  repeat' first
    | (with_reducible assumption)
    | (split)
    | (with_reducible refine Kept.foldl ?_ ?_)
    | decide
    | (intro u hu x hx)
    | (intro u hu)
    | (refine Kept.notMode_of_mem (by with_reducible assumption) (by decide))
    | (with_reducible apply Kept.emit)
    | (with_reducible apply Kept.mirrorRefused)
    | (with_reducible apply Kept.setTerm)
    | (with_reducible apply Kept.countOper)
    | (with_reducible refine Kept.mk_other ?_)
    | decide

theorem Kept.applyFlow {s0 s : State} {t : Nat} {b : List Byte} (hk0 : Kept s0 s) :
    Kept s0 (State.applyFlow s t b) := by
  unfold State.applyFlow
  try dsimp only
  repeat' first
    | (with_reducible assumption)
    | (split)
    | (with_reducible refine Kept.foldl ?_ ?_)
    | decide
    | (intro u hu x hx)
    | (intro u hu)
    | (refine Kept.notMode_of_mem (by with_reducible assumption) (by decide))
    | (with_reducible apply Kept.emit)
    | (with_reducible apply Kept.mirrorRefused)
    | (with_reducible apply Kept.putFlows)
    | decide

theorem Kept.applyAlloc {s0 s : State} {t : Nat} {b : List Byte} (hk0 : Kept s0 s) :
    Kept s0 (State.applyAlloc s t b) := by
  unfold State.applyAlloc
  try dsimp only
  repeat' first
    | (with_reducible assumption)
    | (split)
    | (with_reducible refine Kept.foldl ?_ ?_)
    | decide
    | (intro u hu x hx)
    | (intro u hu)
    | (refine Kept.notMode_of_mem (by with_reducible assumption) (by decide))
    | (with_reducible apply Kept.emit)
    | (with_reducible apply Kept.mirrorRefused)
    | (with_reducible apply Kept.putAllocs)
    | (with_reducible apply Kept.dropAlloc)
    | (with_reducible apply Kept.setCommit)
    | decide

theorem Kept.applyAccounts {s0 s : State} {t : Nat} {b : List Byte} (hk0 : Kept s0 s) :
    Kept s0 (State.applyAccounts s t b) := by
  unfold State.applyAccounts
  try dsimp only
  repeat' first
    | (with_reducible assumption)
    | (split)
    | (with_reducible refine Kept.foldl ?_ ?_)
    | decide
    | (intro u hu x hx)
    | (intro u hu)
    | (refine Kept.notMode_of_mem (by with_reducible assumption) (by decide))
    | (with_reducible apply Kept.emit)
    | (with_reducible apply Kept.setSluTree)
    | (with_reducible refine Kept.mk_other ?_)
    | decide

theorem Kept.applyKey {s0 s : State} {t : Nat} {f : Int} {b : List Byte} (hk0 : Kept s0 s) :
    Kept s0 (State.applyKey s t f b) := by
  unfold State.applyKey
  try dsimp only
  repeat' first
    | (with_reducible assumption)
    | (split)
    | (with_reducible refine Kept.foldl ?_ ?_)
    | decide
    | (intro u hu x hx)
    | (intro u hu)
    | (refine Kept.notMode_of_mem (by with_reducible assumption) (by decide))
    | (with_reducible apply Kept.emit)
    | (with_reducible apply Kept.setSlot)
    | (with_reducible apply Kept.mirrorError)
    | (with_reducible refine Kept.fst ?_ (by with_reducible assumption))
    | (with_reducible refine Kept.snd ?_ (by with_reducible assumption))
    | (with_reducible refine Kept.mk_other ?_)
    | decide

theorem Kept.applyTree {s0 s : State} {t : Nat} {b : List Byte} (hk0 : Kept s0 s) :
    Kept s0 (State.applyTree s t b) := by
  unfold State.applyTree
  try dsimp only
  repeat' first
    | (with_reducible assumption)
    | (split)
    | (with_reducible refine Kept.foldl ?_ ?_)
    | decide
    | (intro u hu x hx)
    | (intro u hu)
    | (refine Kept.notMode_of_mem (by with_reducible assumption) (by decide))
    | (with_reducible refine Kept.wr ?_ (by first | decide | with_reducible assumption | exact Kept.notMode_of_mem (by with_reducible assumption) (by decide) | exact Kept.notMode_of_mem_fst (by with_reducible assumption) (by with_unfolding_all rfl)))
    | (with_reducible refine Kept.wrMode ?_ 4 (by decide) (by first | decide | with_reducible assumption))
    | (with_reducible refine Kept.wrMode ?_ 5 (by decide) (by first | decide | with_reducible assumption))
    | (with_reducible refine Kept.wrMode ?_ 8 (by decide) (by first | decide | with_reducible assumption))
    | (with_reducible apply Kept.emit)
    | (with_reducible apply Kept.setTree)
    | (with_reducible refine Kept.mk_other ?_)
    | decide

theorem Kept.applyRecord {s0 s : State} {t : Nat} {f : Int} {ty : Nat} {b : List Byte} (hk0 : Kept s0 s) :
    Kept s0 (State.applyRecord s t f ty b) := by
  unfold State.applyRecord
  try dsimp only
  repeat' first
    | (with_reducible assumption)
    | (split)
    | (with_reducible refine Kept.foldl ?_ ?_)
    | decide
    | (intro u hu x hx)
    | (intro u hu)
    | (refine Kept.notMode_of_mem (by with_reducible assumption) (by decide))
    | (with_reducible apply Kept.emit)
    | (with_reducible apply Kept.applyTerm)
    | (with_reducible apply Kept.applyFlow)
    | (with_reducible apply Kept.applyAlloc)
    | (with_reducible apply Kept.applyAccounts)
    | (with_reducible apply Kept.applyKey)
    | (with_reducible apply Kept.applyTree)
    | (with_reducible apply Kept.setProt)
    | (with_reducible apply Kept.tryReady)
    | (with_reducible apply Kept.mirrorRefused)
    | (with_reducible refine Kept.mk_other ?_)
    | decide

theorem Kept.copyDrop {s0 s : State} {t : Nat} {body : List Byte} (hk0 : Kept s0 s) :
    Kept s0 (State.copyDrop s t body) := by
  unfold State.copyDrop
  try dsimp only
  repeat' first
    | (with_reducible assumption)
    | (split)
    | (with_reducible refine Kept.foldl ?_ ?_)
    | decide
    | (intro u hu x hx)
    | (intro u hu)
    | (refine Kept.notMode_of_mem (by with_reducible assumption) (by decide))
    | (with_reducible apply Kept.emit)
    | (with_reducible apply Kept.putFlows)
    | (with_reducible apply Kept.putTerms)
    | (with_reducible apply Kept.putAllocs)
    | (with_reducible apply Kept.dropAlloc)
    | (with_reducible apply Kept.setCommit)
    | (with_reducible apply Kept.countOper)
    | decide

theorem Kept.applyRecords {s0 s : State} {t : Nat} {f : Int} {n : Nat} {b : List Byte} (h : Kept s0 s) :
    Kept s0 (State.applyRecords s t f n b) := by
  induction n generalizing s b with
  | zero => exact h
  | succ n ih =>
    unfold State.applyRecords
    dsimp only
    split
    · exact h
    · exact ih (Kept.applyRecord h)

end Sys2Proof.Machine
end

