-- ==== Sys2Proof/Laws/KeptPanOps.lean ====
section
/-! SUPPORT. What the operations of PanOps keep (Laws/Kept.lean). -/

namespace Sys2Proof.Machine

set_option Elab.async false
set_option linter.all false

theorem Kept.setEng {s0 s : State} {e : Nat} {x : Engine} (hk0 : Kept s0 s) :
    Kept s0 (State.setEng s e x) := by
  unfold State.setEng
  try dsimp only
  repeat' first
    | (with_reducible assumption)
    | (split)
    | (with_reducible refine Kept.foldl ?_ ?_)
    | decide
    | (intro u hu x hx)
    | (intro u hu)
    | (refine Kept.notMode_of_mem (by with_reducible assumption) (by decide))
    | (with_reducible apply Kept.emit)
    | (with_reducible refine Kept.mk_other ?_)
    | decide

theorem Kept.peEvent {s0 s : State} {e : Nat} {f : Fld} (hk0 : Kept s0 s) (hf : f.num ∉ modeNums) :
    Kept s0 (State.peEvent s e f) := by
  unfold State.peEvent
  try dsimp only
  repeat' first
    | (with_reducible assumption)
    | (split)
    | (with_reducible refine Kept.foldl ?_ ?_)
    | decide
    | (intro u hu x hx)
    | (intro u hu)
    | (refine Kept.notMode_of_mem (by with_reducible assumption) (by decide))
    | (with_reducible apply Kept.emit)
    | (with_reducible apply Kept.raiseEn)
    | decide

theorem Kept.csCorrected {s0 s : State} {e : Nat} {word : Nat} (hk0 : Kept s0 s) :
    Kept s0 (State.csCorrected s e word) := by
  unfold State.csCorrected
  try dsimp only
  repeat' first
    | (with_reducible assumption)
    | (split)
    | (with_reducible refine Kept.foldl ?_ ?_)
    | decide
    | (intro u hu x hx)
    | (intro u hu)
    | (refine Kept.notMode_of_mem (by with_reducible assumption) (by decide))
    | (with_reducible apply Kept.emit)
    | (with_reducible apply Kept.rewriteWord)
    | (with_reducible apply Kept.incSat)
    | (with_reducible apply Kept.peEvent)
    | (with_reducible apply Kept.corrected)
    | decide

theorem Kept.wmCorrected {s0 s : State} {e : Nat} {row : Nat} (hk0 : Kept s0 s) :
    Kept s0 (State.wmCorrected s e row) := by
  unfold State.wmCorrected
  try dsimp only
  repeat' first
    | (with_reducible assumption)
    | (split)
    | (with_reducible refine Kept.foldl ?_ ?_)
    | decide
    | (intro u hu x hx)
    | (intro u hu)
    | (refine Kept.notMode_of_mem (by with_reducible assumption) (by decide))
    | (with_reducible apply Kept.emit)
    | (with_reducible apply Kept.rewriteWord)
    | (with_reducible apply Kept.incSat)
    | (with_reducible apply Kept.peEvent)
    | (with_reducible apply Kept.corrected)
    | decide

theorem Kept.logEng {s0 s : State} {mem : Nat} {e : Nat} {addr : Nat} (hk0 : Kept s0 s) :
    Kept s0 (State.logEng s mem e addr) := by
  unfold State.logEng
  try dsimp only
  repeat' first
    | (with_reducible assumption)
    | (split)
    | (with_reducible refine Kept.foldl ?_ ?_)
    | decide
    | (intro u hu x hx)
    | (intro u hu)
    | (refine Kept.notMode_of_mem (by with_reducible assumption) (by decide))
    | (with_reducible apply Kept.emit)
    | (with_reducible apply Kept.tickFree)
    | (with_reducible apply Kept.logUe)
    | decide

theorem Kept.engFault {s0 s : State} {e : Nat} {cause : Nat} {uaddr : Nat} (hk0 : Kept s0 s) :
    Kept s0 (State.engFault s e cause uaddr) := by
  unfold State.engFault
  try dsimp only
  repeat' first
    | (with_reducible assumption)
    | (split)
    | (with_reducible refine Kept.foldl ?_ ?_)
    | decide
    | (intro u hu x hx)
    | (intro u hu)
    | (refine Kept.notMode_of_mem (by with_reducible assumption) (by decide))
    | (with_reducible refine Kept.wr ?_ (by first | decide | with_reducible assumption | exact Kept.notMode_of_mem (by with_reducible assumption) (by decide) | exact Kept.notMode_of_mem_fst (by with_reducible assumption) (by with_unfolding_all rfl)))
    | (with_reducible refine Kept.wrMode ?_ 4 (by decide) (by first | decide | with_reducible assumption))
    | (with_reducible refine Kept.wrMode ?_ 5 (by decide) (by first | decide | with_reducible assumption))
    | (with_reducible refine Kept.wrMode ?_ 8 (by decide) (by first | decide | with_reducible assumption))
    | (with_reducible apply Kept.emit)
    | (with_reducible apply Kept.setEng)
    | (with_reducible apply Kept.peEvent)
    | (with_reducible apply Kept.faultTree)
    | (with_reducible apply Kept.unitFail)
    | (with_reducible refine Kept.mk_other ?_)
    | decide

theorem Kept.beginLoad {s0 s : State} {e : Nat} {l : EngLoad} (hk0 : Kept s0 s) :
    Kept s0 (State.beginLoad s e l) := by
  unfold State.beginLoad
  try dsimp only
  repeat' first
    | (with_reducible assumption)
    | (split)
    | (with_reducible refine Kept.foldl ?_ ?_)
    | decide
    | (intro u hu x hx)
    | (intro u hu)
    | (refine Kept.notMode_of_mem (by with_reducible assumption) (by decide))
    | (with_reducible refine Kept.wr ?_ (by first | decide | with_reducible assumption | exact Kept.notMode_of_mem (by with_reducible assumption) (by decide) | exact Kept.notMode_of_mem_fst (by with_reducible assumption) (by with_unfolding_all rfl)))
    | (with_reducible refine Kept.wrMode ?_ 4 (by decide) (by first | decide | with_reducible assumption))
    | (with_reducible refine Kept.wrMode ?_ 5 (by decide) (by first | decide | with_reducible assumption))
    | (with_reducible refine Kept.wrMode ?_ 8 (by decide) (by first | decide | with_reducible assumption))
    | (with_reducible apply Kept.emit)
    | (with_reducible apply Kept.setEng)
    | (with_reducible refine Kept.mk_other ?_)
    | decide

theorem Kept.engReload {s0 s : State} {e : Nat} {loads : List EngLoad} (hk0 : Kept s0 s) :
    Kept s0 (State.engReload s e loads) := by
  unfold State.engReload
  try dsimp only
  repeat' first
    | (with_reducible assumption)
    | (split)
    | (with_reducible refine Kept.foldl ?_ ?_)
    | decide
    | (intro u hu x hx)
    | (intro u hu)
    | (refine Kept.notMode_of_mem (by with_reducible assumption) (by decide))
    | (with_reducible refine Kept.wr ?_ (by first | decide | with_reducible assumption | exact Kept.notMode_of_mem (by with_reducible assumption) (by decide) | exact Kept.notMode_of_mem_fst (by with_reducible assumption) (by with_unfolding_all rfl)))
    | (with_reducible refine Kept.wrMode ?_ 4 (by decide) (by first | decide | with_reducible assumption))
    | (with_reducible refine Kept.wrMode ?_ 5 (by decide) (by first | decide | with_reducible assumption))
    | (with_reducible refine Kept.wrMode ?_ 8 (by decide) (by first | decide | with_reducible assumption))
    | (with_reducible apply Kept.emit)
    | (with_reducible apply Kept.setEng)
    | (with_reducible refine Kept.mk_other ?_)
    | decide

theorem Kept.endLoad {s0 s : State} {e : Nat} {ok : Bool} (hk0 : Kept s0 s) :
    Kept s0 (State.endLoad s e ok) := by
  unfold State.endLoad
  try dsimp only
  repeat' first
    | (with_reducible assumption)
    | (split)
    | (with_reducible refine Kept.foldl ?_ ?_)
    | decide
    | (intro u hu x hx)
    | (intro u hu)
    | (refine Kept.notMode_of_mem (by with_reducible assumption) (by decide))
    | (with_reducible refine Kept.wr ?_ (by first | decide | with_reducible assumption | exact Kept.notMode_of_mem (by with_reducible assumption) (by decide) | exact Kept.notMode_of_mem_fst (by with_reducible assumption) (by with_unfolding_all rfl)))
    | (with_reducible refine Kept.wrMode ?_ 4 (by decide) (by first | decide | with_reducible assumption))
    | (with_reducible refine Kept.wrMode ?_ 5 (by decide) (by first | decide | with_reducible assumption))
    | (with_reducible refine Kept.wrMode ?_ 8 (by decide) (by first | decide | with_reducible assumption))
    | (with_reducible apply Kept.emit)
    | (with_reducible apply Kept.rewrite)
    | (with_reducible apply Kept.setEng)
    | (with_reducible refine Kept.fst ?_ (by with_reducible assumption))
    | (with_reducible refine Kept.snd ?_ (by with_reducible assumption))
    | (with_reducible refine Kept.mk_other ?_)
    | decide

theorem Kept.sample {s0 s : State} {e : Nat} {evt : Nat} (hk0 : Kept s0 s) :
    Kept s0 (State.sample s e evt) := by
  unfold State.sample
  try dsimp only
  repeat' first
    | (with_reducible assumption)
    | (split)
    | (with_reducible refine Kept.foldl ?_ ?_)
    | decide
    | (intro u hu x hx)
    | (intro u hu)
    | (refine Kept.notMode_of_mem (by with_reducible assumption) (by decide))
    | (with_reducible refine Kept.wr ?_ (by first | decide | with_reducible assumption | exact Kept.notMode_of_mem (by with_reducible assumption) (by decide) | exact Kept.notMode_of_mem_fst (by with_reducible assumption) (by with_unfolding_all rfl)))
    | (with_reducible refine Kept.wrMode ?_ 4 (by decide) (by first | decide | with_reducible assumption))
    | (with_reducible refine Kept.wrMode ?_ 5 (by decide) (by first | decide | with_reducible assumption))
    | (with_reducible refine Kept.wrMode ?_ 8 (by decide) (by first | decide | with_reducible assumption))
    | (with_reducible apply Kept.emit)
    | (with_reducible apply Kept.incSat)
    | (with_reducible apply Kept.setEng)
    | (with_reducible refine Kept.fst ?_ (by with_reducible assumption))
    | (with_reducible refine Kept.snd ?_ (by with_reducible assumption))
    | (with_reducible refine Kept.mk_other ?_)
    | decide

theorem Kept.evtPulse {s0 s : State} {e : Nat} {evt : Nat} (hk0 : Kept s0 s) :
    Kept s0 (State.evtPulse s e evt) := by
  unfold State.evtPulse
  try dsimp only
  repeat' first
    | (with_reducible assumption)
    | (split)
    | (with_reducible refine Kept.foldl ?_ ?_)
    | decide
    | (intro u hu x hx)
    | (intro u hu)
    | (refine Kept.notMode_of_mem (by with_reducible assumption) (by decide))
    | (with_reducible apply Kept.emit)
    | (with_reducible apply Kept.engCount)
    | (with_reducible apply Kept.sample)
    | (with_reducible apply Kept.setEng)
    | (with_reducible refine Kept.mk_other ?_)
    | decide

theorem Kept.startRoutine {s0 s : State} {e : Nat} {mode : Nat} {line : Nat} {prio : Nat} {half : Option Nat} {entry : Nat} {ev : PendEvent} {service : Bool} (hk0 : Kept s0 s) :
    Kept s0 (State.startRoutine s e mode line prio half entry ev service) := by
  unfold State.startRoutine
  try dsimp only
  repeat' first
    | (with_reducible assumption)
    | (split)
    | (with_reducible refine Kept.foldl ?_ ?_)
    | decide
    | (intro u hu x hx)
    | (intro u hu)
    | (refine Kept.notMode_of_mem (by with_reducible assumption) (by decide))
    | (with_reducible apply Kept.emit)
    | (with_reducible apply Kept.setEng)
    | (with_reducible apply Kept.engCount)
    | (with_reducible refine Kept.mk_other ?_)
    | decide

theorem Kept.abandon {s0 s : State} {e : Nat} {r : Routine} {restarts : Nat} (hk0 : Kept s0 s) :
    Kept s0 (State.abandon s e r restarts) := by
  unfold State.abandon
  try dsimp only
  repeat' first
    | (with_reducible assumption)
    | (split)
    | (with_reducible refine Kept.foldl ?_ ?_)
    | decide
    | (intro u hu x hx)
    | (intro u hu)
    | (refine Kept.notMode_of_mem (by with_reducible assumption) (by decide))
    | (with_reducible apply Kept.emit)
    | (with_reducible apply Kept.setEng)
    | (with_reducible apply Kept.engCount)
    | (with_reducible refine Kept.mk_other ?_)
    | decide

theorem Kept.recoverable {s0 s : State} {e : Nat} {r : Routine} (hk0 : Kept s0 s) :
    Kept s0 (State.recoverable s e r) := by
  unfold State.recoverable
  try dsimp only
  repeat' first
    | (with_reducible assumption)
    | (split)
    | (with_reducible refine Kept.foldl ?_ ?_)
    | decide
    | (intro u hu x hx)
    | (intro u hu)
    | (refine Kept.notMode_of_mem (by with_reducible assumption) (by decide))
    | (with_reducible apply Kept.emit)
    | (with_reducible apply Kept.tickFree)
    | (with_reducible apply Kept.engFault)
    | (with_reducible apply Kept.setEng)
    | (with_reducible apply Kept.incSat)
    | (with_reducible apply Kept.engCount)
    | (with_reducible refine Kept.mk_other ?_)
    | decide

theorem Kept.effect {s0 s : State} {e : Nat} {x : Effect} (h : Kept s0 s) : Kept s0 (State.effect s e x) := by
  cases x
  · exact Kept.setEng h
  · exact Kept.emit h _
  · exact Kept.emit h _
  · exact Kept.emit h _

theorem Kept.readRows {s0 s : State} {e : Nat} {rows : List Nat} (hk0 : Kept s0 s) :
    Kept s0 (State.readRows s e rows).2 := by
  unfold State.readRows
  try dsimp only
  repeat' first
    | (with_reducible assumption)
    | (split)
    | (with_reducible refine Kept.foldl ?_ ?_)
    | decide
    | (intro u hu x hx)
    | (intro u hu)
    | (refine Kept.notMode_of_mem (by with_reducible assumption) (by decide))
    | (with_reducible apply Kept.emit)
    | (with_reducible apply Kept.corrected)
    | (with_reducible apply Kept.wmCorrected)
    | decide

theorem Kept.commitStaged {s0 s : State} {e : Nat} {l : List Effect} (hk0 : Kept s0 s) :
    Kept s0 (State.commitStaged s e l) := by
  unfold State.commitStaged
  try dsimp only
  repeat' first
    | (with_reducible assumption)
    | (split)
    | (with_reducible refine Kept.foldl ?_ ?_)
    | decide
    | (intro u hu x hx)
    | (intro u hu)
    | (refine Kept.notMode_of_mem (by with_reducible assumption) (by decide))
    | (with_reducible apply Kept.emit)
    | (with_reducible apply Kept.effect)
    | (with_reducible apply Kept.engCount)
    | decide

theorem Kept.endRoutine {s0 s : State} {e : Nat} (hk0 : Kept s0 s) :
    Kept s0 (State.endRoutine s e) := by
  unfold State.endRoutine
  try dsimp only
  repeat' first
    | (with_reducible assumption)
    | (split)
    | (with_reducible refine Kept.foldl ?_ ?_)
    | decide
    | (intro u hu x hx)
    | (intro u hu)
    | (refine Kept.notMode_of_mem (by with_reducible assumption) (by decide))
    | (with_reducible refine Kept.wr ?_ (by first | decide | with_reducible assumption | exact Kept.notMode_of_mem (by with_reducible assumption) (by decide) | exact Kept.notMode_of_mem_fst (by with_reducible assumption) (by with_unfolding_all rfl)))
    | (with_reducible refine Kept.wrMode ?_ 4 (by decide) (by first | decide | with_reducible assumption))
    | (with_reducible refine Kept.wrMode ?_ 5 (by decide) (by first | decide | with_reducible assumption))
    | (with_reducible refine Kept.wrMode ?_ 8 (by decide) (by first | decide | with_reducible assumption))
    | (with_reducible apply Kept.emit)
    | (with_reducible apply Kept.setEng)
    | (with_reducible refine Kept.mk_other ?_)
    | decide

theorem Kept.fetchStall {s0 s : State} {e : Nat} (hk0 : Kept s0 s) :
    Kept s0 (State.fetchStall s e) := by
  unfold State.fetchStall
  try dsimp only
  repeat' first
    | (with_reducible assumption)
    | (split)
    | (with_reducible refine Kept.foldl ?_ ?_)
    | decide
    | (intro u hu x hx)
    | (intro u hu)
    | (refine Kept.notMode_of_mem (by with_reducible assumption) (by decide))
    | (with_reducible apply Kept.emit)
    | (with_reducible apply Kept.setEng)
    | (with_reducible apply Kept.engCount)
    | (with_reducible refine Kept.mk_other ?_)
    | decide

theorem Kept.windowCheck {s0 s : State} {e : Nat} {off : Nat} (hk0 : Kept s0 s) :
    Kept s0 (State.windowCheck s e off) := by
  unfold State.windowCheck
  try dsimp only
  repeat' first
    | (with_reducible assumption)
    | (split)
    | (with_reducible refine Kept.foldl ?_ ?_)
    | decide
    | (intro u hu x hx)
    | (intro u hu)
    | (refine Kept.notMode_of_mem (by with_reducible assumption) (by decide))
    | (with_reducible apply Kept.emit)
    | (with_reducible apply Kept.corrected)
    | (with_reducible apply Kept.csCorrected)
    | (with_reducible apply Kept.logEng)
    | (with_reducible apply Kept.engFault)
    | (with_reducible apply Kept.wmCorrected)
    | (with_reducible apply Kept.recoverable)
    | (with_reducible refine Kept.fst ?_ (by with_reducible assumption))
    | (with_reducible refine Kept.snd ?_ (by with_reducible assumption))
    | (with_reducible refine Kept.mk_other ?_)
    | decide

theorem Kept.engWindowRead {s0 s : State} {port : Nat} {e : Nat} {off : Nat} (hk0 : Kept s0 s) :
    Kept s0 (State.engWindowRead s port e off).2 := by
  unfold State.engWindowRead
  try dsimp only
  repeat' first
    | (with_reducible assumption)
    | (split)
    | (with_reducible refine Kept.foldl ?_ ?_)
    | decide
    | (intro u hu x hx)
    | (intro u hu)
    | (refine Kept.notMode_of_mem (by with_reducible assumption) (by decide))
    | (with_reducible apply Kept.emit)
    | (with_reducible apply Kept.tickFree)
    | (with_reducible apply Kept.accessErr)
    | (with_reducible apply Kept.fetchStall)
    | (with_reducible apply Kept.windowCheck)
    | decide

end Sys2Proof.Machine
end

