-- ==== Sys2Proof/Laws/KeptPan.lean ====
section
/-! SUPPORT. What the operations of Pan keep (Laws/Kept.lean). -/

namespace Sys2Proof.Machine

set_option Elab.async false
set_option linter.all false

theorem Kept.microAct {s0 s : State} {e : Nat} {r : Routine} {w : Nat} {holds : Bool} (h : Kept s0 s) :
    Kept s0 (State.microAct s e r w holds) := by
  unfold State.microAct
  extract_lets x a b out u sum addr eff x1 x2 x3 ue s1 s2 staged s3 s4
  have hu : Kept s0 u := by
    unfold u
    split
    · exact Kept.tickFree h
    · exact h
  have he : Kept s0 ue := Kept.setEng hu
  have h1 : Kept s0 s1 := by
    unfold s1
    split
    · exact Kept.emit he _
    · exact he
  have h2 : Kept s0 s2 := by
    unfold s2
    clear_value eff
    split
    · cases eff
      · exact h1
      · exact Kept.effect h1
    · exact h1
  have h3 : Kept s0 s3 := Kept.evtPulse h2
  have h4 : Kept s0 s4 := Kept.commitStaged h3
  clear_value u x1 x2 x3 ue s1 s2 staged s3 s4
  split
  · exact Kept.engFault hu
  · split
    · exact Kept.engFault hu
    · split
      · split
        · exact Kept.setEng h4
        · exact Kept.setEng h3
      · split
        · exact Kept.endRoutine h3
        · exact Kept.endRoutine (Kept.commitStaged h3)
      · exact Kept.wrMode (Kept.endRoutine h3) 5 (by decide) (by decide)
      · exact Kept.engFault h3

theorem Kept.romEffect {s0 s : State} {e : Nat} {op : Nat} (hk0 : Kept s0 s) :
    Kept s0 (State.romEffect s e op) := by
  unfold State.romEffect
  try dsimp only
  repeat' first
    | (with_reducible assumption)
    | (split)
    | (with_reducible refine Kept.foldl ?_ ?_)
    | decide
    | (intro u hu x hx)
    | (intro u hu)
    | (refine Kept.notMode_of_mem (by with_reducible assumption) (by decide))
    | (with_reducible refine Kept.wr ?_ (by first | decide | with_reducible assumption | exact Kept.notMode_of_mem (by with_reducible assumption) (by decide) | exact Kept.notMode_of_mem_fst (by with_reducible assumption) (by with_unfolding_all rfl)))
    | (with_reducible refine Kept.wrMode ?_ 4 (by decide) (by first | decide | with_reducible assumption))
    | (with_reducible refine Kept.wrMode ?_ 5 (by decide) (by first | decide | with_reducible assumption))
    | (with_reducible refine Kept.wrMode ?_ 8 (by decide) (by first | decide | with_reducible assumption))
    | (with_reducible apply Kept.emit)
    | (with_reducible apply Kept.setEng)
    | (with_reducible refine Kept.mk_other ?_)
    | decide

theorem Kept.romCycle {s0 s : State} {e : Nat} {codes : List Nat} {r : Routine} (hk0 : Kept s0 s) :
    Kept s0 (State.romCycle s e codes r) := by
  unfold State.romCycle
  try dsimp only
  repeat' first
    | (with_reducible assumption)
    | (split)
    | (with_reducible refine Kept.foldl ?_ ?_)
    | decide
    | (intro u hu x hx)
    | (intro u hu)
    | (refine Kept.notMode_of_mem (by with_reducible assumption) (by decide))
    | (with_reducible apply Kept.emit)
    | (with_reducible apply Kept.setEng)
    | (with_reducible apply Kept.engCount)
    | (with_reducible apply Kept.romEffect)
    | (with_reducible apply Kept.endRoutine)
    | (with_reducible refine Kept.mk_other ?_)
    | decide

theorem Kept.micro {s0 s : State} {e : Nat} {codes : List Nat} {obs : PeObs} (hk0 : Kept s0 s) :
    Kept s0 (State.micro s e codes obs) := by
  unfold State.micro
  extract_lets
  repeat' first
    | (with_reducible assumption)
    | (split)
    | (with_reducible refine Kept.foldl ?_ ?_)
    | decide
    | (intro u hu x hx)
    | (intro u hu)
    | (refine Kept.notMode_of_mem (by with_reducible assumption) (by decide))
    | (with_reducible apply Kept.emit)
    | (with_reducible apply Kept.romCycle)
    | (with_reducible apply Kept.upset)
    | (with_reducible apply Kept.engFault)
    | (with_reducible apply Kept.logEng)
    | (with_reducible apply Kept.corrected)
    | (with_reducible apply Kept.setEng)
    | (with_reducible apply Kept.engCount)
    | (with_reducible apply Kept.csCorrected)
    | (with_reducible apply Kept.recoverable)
    | (with_reducible apply Kept.readRows)
    | (with_reducible apply Kept.microAct)
    | (with_reducible refine Kept.fst ?_ (by with_reducible assumption))
    | (with_reducible refine Kept.snd ?_ (by with_reducible assumption))
    | (with_reducible refine Kept.mk_other ?_)
    | decide

theorem Kept.lateEvent {s0 s : State} {e : Nat} (hk0 : Kept s0 s) :
    Kept s0 (State.lateEvent s e) := by
  unfold State.lateEvent
  try dsimp only
  repeat' first
    | (with_reducible assumption)
    | (split)
    | (with_reducible refine Kept.foldl ?_ ?_)
    | decide
    | (intro u hu x hx)
    | (intro u hu)
    | (refine Kept.notMode_of_mem (by with_reducible assumption) (by decide))
    | (with_reducible apply Kept.emit)
    | (with_reducible apply Kept.setEng)
    | (with_reducible refine Kept.mk_other ?_)
    | decide

theorem Kept.popDq {s0 s : State} {e : Nat} (hk0 : Kept s0 s) :
    Kept s0 (State.popDq s e) := by
  unfold State.popDq
  try dsimp only
  repeat' first
    | (with_reducible assumption)
    | (split)
    | (with_reducible refine Kept.foldl ?_ ?_)
    | decide
    | (intro u hu x hx)
    | (intro u hu)
    | (refine Kept.notMode_of_mem (by with_reducible assumption) (by decide))
    | (with_reducible apply Kept.emit)
    | (with_reducible apply Kept.setEng)
    | (with_reducible refine Kept.mk_other ?_)
    | decide

theorem Kept.queueOp {s0 s : State} {e : Nat} {op : Nat} (hk0 : Kept s0 s) :
    Kept s0 (State.queueOp s e op) := by
  unfold State.queueOp
  try dsimp only
  repeat' first
    | (with_reducible assumption)
    | (split)
    | (with_reducible refine Kept.foldl ?_ ?_)
    | decide
    | (intro u hu x hx)
    | (intro u hu)
    | (refine Kept.notMode_of_mem (by with_reducible assumption) (by decide))
    | (with_reducible apply Kept.emit)
    | (with_reducible apply Kept.setEng)
    | (with_reducible refine Kept.mk_other ?_)
    | decide

end Sys2Proof.Machine
end

