-- ==== Sys2Proof/Laws/KeptTreeDown.lean ====
section
/-! SUPPORT. What the operations of TreeDown keep (Laws/Kept.lean). -/

namespace Sys2Proof.Machine

set_option Elab.async false
set_option linter.all false

theorem Kept.treeActive {s0 s : State} {t : Nat} {f : Int} {survey : Bool} (hk0 : Kept s0 s) :
    Kept s0 (State.treeActive s t f survey) := by
  unfold State.treeActive
  try dsimp only
  repeat' first
    | (with_reducible assumption)
    | (split)
    | (with_reducible refine Kept.foldl ?_ ?_)
    | decide
    | (intro u hu x hx)
    | (intro u hu)
    | (refine Kept.notMode_of_mem (by with_reducible assumption) (by decide))
    | (with_reducible apply Kept.emit)
    | (with_reducible apply Kept.treeState)
    | (with_reducible apply Kept.setShared)
    | (with_reducible apply Kept.setTree)
    | (with_reducible apply Kept.setTreeU)
    | (with_reducible apply Kept.reannounce)
    | (with_reducible refine Kept.mk_other ?_)
    | decide

theorem Kept.riseTree {s0 s : State} {t : Nat} (hk0 : Kept s0 s) :
    Kept s0 (State.riseTree s t) := by
  unfold State.riseTree
  try dsimp only
  repeat' first
    | (with_reducible assumption)
    | (split)
    | (with_reducible refine Kept.foldl ?_ ?_)
    | decide
    | (intro u hu x hx)
    | (intro u hu)
    | (refine Kept.notMode_of_mem (by with_reducible assumption) (by decide))
    | (with_reducible apply Kept.emit)
    | (with_reducible apply Kept.setTree)
    | (with_reducible refine Kept.mk_other ?_)
    | decide

theorem Kept.wokenActive {s0 s : State} {t : Nat} {fr : Int} (hk0 : Kept s0 s) :
    Kept s0 (State.wokenActive s t fr) := by
  unfold State.wokenActive
  try dsimp only
  repeat' first
    | (with_reducible assumption)
    | (split)
    | (with_reducible refine Kept.foldl ?_ ?_)
    | decide
    | (intro u hu x hx)
    | (intro u hu)
    | (refine Kept.notMode_of_mem (by with_reducible assumption) (by decide))
    | (with_reducible apply Kept.emit)
    | (with_reducible apply Kept.treeActive)
    | decide

theorem Kept.wakeTree {s0 s : State} {t : Nat} {source : Nat} (hk0 : Kept s0 s) :
    Kept s0 (State.wakeTree s t source) := by
  unfold State.wakeTree
  try dsimp only
  repeat' first
    | (with_reducible assumption)
    | (split)
    | (with_reducible refine Kept.foldl ?_ ?_)
    | decide
    | (intro u hu x hx)
    | (intro u hu)
    | (refine Kept.notMode_of_mem (by with_reducible assumption) (by decide))
    | (with_reducible apply Kept.emit)
    | (with_reducible apply Kept.setTree)
    | (with_reducible apply Kept.riseTree)
    | (with_reducible apply Kept.wake)
    | (with_reducible refine Kept.mk_other ?_)
    | decide

theorem Kept.treeDormant {s0 s : State} {t : Nat} (hk0 : Kept s0 s) :
    Kept s0 (State.treeDormant s t) := by
  unfold State.treeDormant
  try dsimp only
  repeat' first
    | (with_reducible assumption)
    | (split)
    | (with_reducible refine Kept.foldl ?_ ?_)
    | decide
    | (intro u hu x hx)
    | (intro u hu)
    | (refine Kept.notMode_of_mem (by with_reducible assumption) (by decide))
    | (with_reducible apply Kept.emit)
    | (with_reducible apply Kept.endFsFrame)
    | (with_reducible apply Kept.treeStop)
    | (with_reducible apply Kept.dropInFlight)
    | (with_reducible apply Kept.dropStaged)
    | (with_reducible apply Kept.treeState)
    | (with_reducible apply Kept.termsLeave)
    | (with_reducible apply Kept.setTreeU)
    | (with_reducible apply Kept.putSents)
    | (with_reducible refine Kept.mk_other ?_)
    | decide

theorem Kept.loadHalf {s0 s : State} {t : Nat} (hk0 : Kept s0 s) :
    Kept s0 (State.loadHalf s t) := by
  unfold State.loadHalf
  try dsimp only
  repeat' first
    | (with_reducible assumption)
    | (split)
    | (with_reducible refine Kept.foldl ?_ ?_)
    | decide
    | (intro u hu x hx)
    | (intro u hu)
    | (refine Kept.notMode_of_mem (by with_reducible assumption) (by decide))
    | (with_reducible apply Kept.emit)
    | (with_reducible apply Kept.beginLoad)
    | (with_reducible refine Kept.fst ?_ (by with_reducible assumption))
    | (with_reducible refine Kept.snd ?_ (by with_reducible assumption))
    | (with_reducible refine Kept.mk_other ?_)
    | decide

theorem Kept.takeImage {s0 s : State} {t : Nat} (hk0 : Kept s0 s) :
    Kept s0 (State.takeImage s t) := by
  unfold State.takeImage
  try dsimp only
  repeat' first
    | (with_reducible assumption)
    | (split)
    | (with_reducible refine Kept.foldl ?_ ?_)
    | decide
    | (intro u hu x hx)
    | (intro u hu)
    | (refine Kept.notMode_of_mem (by with_reducible assumption) (by decide))
    | (with_reducible apply Kept.emit)
    | (with_reducible apply Kept.setTree)
    | (with_reducible apply Kept.freeRetained)
    | (with_reducible apply Kept.loadHalf)
    | (with_reducible refine Kept.fst ?_ (by with_reducible assumption))
    | (with_reducible refine Kept.snd ?_ (by with_reducible assumption))
    | (with_reducible refine Kept.mk_other ?_)
    | decide

theorem Kept.fixStart {s0 s : State} {t : Nat} (hk0 : Kept s0 s) :
    Kept s0 (State.fixStart s t) := by
  unfold State.fixStart
  try dsimp only
  repeat' first
    | (with_reducible assumption)
    | (split)
    | (with_reducible refine Kept.foldl ?_ ?_)
    | decide
    | (intro u hu x hx)
    | (intro u hu)
    | (refine Kept.notMode_of_mem (by with_reducible assumption) (by decide))
    | (with_reducible apply Kept.emit)
    | (with_reducible apply Kept.setTree)
    | (with_reducible apply Kept.loadHalf)
    | (with_reducible apply Kept.answerLater)
    | (with_reducible refine Kept.fst ?_ (by with_reducible assumption))
    | (with_reducible refine Kept.snd ?_ (by with_reducible assumption))
    | (with_reducible refine Kept.mk_other ?_)
    | decide

theorem Kept.resetProfiles {s0 s : State} {t : Nat} (hk0 : Kept s0 s) :
    Kept s0 (State.resetProfiles s t) := by
  unfold State.resetProfiles
  try dsimp only
  repeat' first
    | (with_reducible assumption)
    | (split)
    | (with_reducible refine Kept.foldl ?_ ?_)
    | decide
    | (intro u hu x hx)
    | (intro u hu)
    | (refine Kept.notMode_of_mem (by with_reducible assumption) (by decide))
    | (with_reducible apply Kept.emit)
    | (with_reducible apply Kept.putBprofs)
    | decide

theorem Kept.setModifiable {s0 s : State} {t : Nat} {p : List Byte} (hk0 : Kept s0 s) :
    Kept s0 (State.setModifiable s t p) := by
  unfold State.setModifiable
  try dsimp only
  repeat' first
    | (with_reducible assumption)
    | (split)
    | (with_reducible refine Kept.foldl ?_ ?_)
    | decide
    | (intro u hu x hx)
    | (intro u hu)
    | (refine Kept.notMode_of_mem (by with_reducible assumption) (by decide))
    | (with_reducible refine Kept.wr ?_ (by first | decide | with_reducible assumption | exact Kept.notMode_of_mem (by with_reducible assumption) (by decide) | exact Kept.notMode_of_mem_fst (by with_reducible assumption) (by with_unfolding_all rfl)))
    | (with_reducible refine Kept.wrMode ?_ 4 (by decide) (by first | decide | with_reducible assumption))
    | (with_reducible refine Kept.wrMode ?_ 5 (by decide) (by first | decide | with_reducible assumption))
    | (with_reducible refine Kept.wrMode ?_ 8 (by decide) (by first | decide | with_reducible assumption))
    | (with_reducible apply Kept.emit)
    | (with_reducible apply Kept.setTree)
    | (with_reducible apply Kept.wrB)
    | (with_reducible refine Kept.mk_other ?_)
    | decide

theorem Kept.treeConfig {s0 s : State} {p : List Byte} (hk0 : Kept s0 s) :
    Kept s0 (State.treeConfig s p).1 := by
  unfold State.treeConfig
  try dsimp only
  repeat' first
    | (with_reducible assumption)
    | (split)
    | (with_reducible refine Kept.foldl ?_ ?_)
    | decide
    | (intro u hu x hx)
    | (intro u hu)
    | (refine Kept.notMode_of_mem (by with_reducible assumption) (by decide))
    | (with_reducible refine Kept.wr ?_ (by first | decide | with_reducible assumption | exact Kept.notMode_of_mem (by with_reducible assumption) (by decide) | exact Kept.notMode_of_mem_fst (by with_reducible assumption) (by with_unfolding_all rfl)))
    | (with_reducible refine Kept.wrMode ?_ 4 (by decide) (by first | decide | with_reducible assumption))
    | (with_reducible refine Kept.wrMode ?_ 5 (by decide) (by first | decide | with_reducible assumption))
    | (with_reducible refine Kept.wrMode ?_ 8 (by decide) (by first | decide | with_reducible assumption))
    | (with_reducible apply Kept.emit)
    | (with_reducible apply Kept.setTree)
    | (with_reducible apply Kept.resetProfiles)
    | (with_reducible apply Kept.setModifiable)
    | (with_reducible apply Kept.setCommit)
    | (with_reducible refine Kept.fst ?_ (by with_reducible assumption))
    | (with_reducible refine Kept.snd ?_ (by with_reducible assumption))
    | (with_reducible refine Kept.mk_other ?_)
    | decide

theorem Kept.scheduleStart {s0 s : State} {t : Nat} {src : Src} {at_ : Nat} (hk0 : Kept s0 s) :
    Kept s0 (State.scheduleStart s t src at_) := by
  unfold State.scheduleStart
  try dsimp only
  repeat' first
    | (with_reducible assumption)
    | (split)
    | (with_reducible refine Kept.foldl ?_ ?_)
    | decide
    | (intro u hu x hx)
    | (intro u hu)
    | (refine Kept.notMode_of_mem (by with_reducible assumption) (by decide))
    | (with_reducible apply Kept.emit)
    | (with_reducible apply Kept.cancelStart)
    | (with_reducible apply Kept.setTree)
    | (with_reducible apply Kept.wake)
    | (with_reducible refine Kept.mk_other ?_)
    | decide

theorem Kept.recoverPair {s0 s : State} {t : Nat} {src : Src} (hk0 : Kept s0 s) :
    Kept s0 (State.recoverPair s t src).1 := by
  unfold State.recoverPair
  try dsimp only
  repeat' first
    | (with_reducible assumption)
    | (split)
    | (with_reducible refine Kept.foldl ?_ ?_)
    | decide
    | (intro u hu x hx)
    | (intro u hu)
    | (refine Kept.notMode_of_mem (by with_reducible assumption) (by decide))
    | (with_reducible apply Kept.emit)
    | (with_reducible apply Kept.engReload)
    | (with_reducible apply Kept.setEng)
    | (with_reducible refine Kept.mk_other ?_)
    | decide

theorem Kept.disableTree {s0 s : State} {t : Nat} {src : Src} (h : Kept s0 s) : Kept s0 (State.disableTree s t src).1 := by
  unfold State.disableTree
  dsimp only
  repeat' first
    | (with_reducible assumption)
    | split
    | (with_reducible apply Kept.recoverPair)
    | (with_reducible apply Kept.treeDisable)
    | (with_reducible apply Kept.leavePair)
    | (with_reducible apply Kept.protMsg)

theorem Kept.treeEnable {s0 s : State} {src : Src} {p : List Byte} (hk0 : Kept s0 s) :
    Kept s0 (State.treeEnable s src p).1 := by
  unfold State.treeEnable
  try dsimp only
  repeat' first
    | (with_reducible assumption)
    | (split)
    | (with_reducible refine Kept.foldl ?_ ?_)
    | decide
    | (intro u hu x hx)
    | (intro u hu)
    | (refine Kept.notMode_of_mem (by with_reducible assumption) (by decide))
    | (with_reducible apply Kept.emit)
    | (with_reducible apply Kept.cancelStart)
    | (with_reducible apply Kept.recoverPair)
    | (with_reducible apply Kept.disableTree)
    | (with_reducible apply Kept.scheduleStart)
    | (with_reducible apply Kept.setTree)
    | (with_reducible apply Kept.loadHalf)
    | (with_reducible refine Kept.fst ?_ (by with_reducible assumption))
    | (with_reducible refine Kept.snd ?_ (by with_reducible assumption))
    | (with_reducible refine Kept.mk_other ?_)
    | decide

theorem Kept.scrubKey {s0 s : State} {src : Src} {addr : Nat} (hk0 : Kept s0 s) :
    Kept s0 (State.scrubKey s src addr) := by
  unfold State.scrubKey
  try dsimp only
  repeat' first
    | (with_reducible assumption)
    | (split)
    | (with_reducible refine Kept.foldl ?_ ?_)
    | decide
    | (intro u hu x hx)
    | (intro u hu)
    | (refine Kept.notMode_of_mem (by with_reducible assumption) (by decide))
    | (with_reducible refine Kept.wr ?_ (by first | decide | with_reducible assumption | exact Kept.notMode_of_mem (by with_reducible assumption) (by decide) | exact Kept.notMode_of_mem_fst (by with_reducible assumption) (by with_unfolding_all rfl)))
    | (with_reducible refine Kept.wrMode ?_ 4 (by decide) (by first | decide | with_reducible assumption))
    | (with_reducible refine Kept.wrMode ?_ 5 (by decide) (by first | decide | with_reducible assumption))
    | (with_reducible refine Kept.wrMode ?_ 8 (by decide) (by first | decide | with_reducible assumption))
    | (with_reducible apply Kept.emit)
    | (with_reducible apply Kept.hostWrite)
    | (with_reducible refine Kept.fst ?_ (by with_reducible assumption))
    | (with_reducible refine Kept.snd ?_ (by with_reducible assumption))
    | (with_reducible refine Kept.mk_other ?_)
    | decide

theorem Kept.calvanKey {s0 s : State} {src : Src} {code : Nat} {boot : Bool} {restricted : Bool} {body : Body} (hk0 : Kept s0 s) (hbody : ∀ u src p, Kept s0 u → Kept s0 (body u src p).1) :
    Kept s0 (State.calvanKey s src code boot restricted body) := by
  unfold State.calvanKey
  try dsimp only
  repeat' first
    | (with_reducible assumption)
    | (split)
    | (with_reducible refine Kept.foldl ?_ ?_)
    | decide
    | (intro u hu x hx)
    | (intro u hu)
    | (refine Kept.notMode_of_mem (by with_reducible assumption) (by decide))
    | (refine hbody _ ?_)
    | (refine hbody _ _ ?_)
    | (refine hbody _ _ _ ?_)
    | (with_reducible apply Kept.emit)
    | (with_reducible apply Kept.calvan)
    | (with_reducible apply Kept.scrubKey)
    | decide

theorem Kept.retireCut {s0 s : State} {h : Nat} (hk0 : Kept s0 s) :
    Kept s0 (State.retireCut s h) := by
  unfold State.retireCut
  try dsimp only
  repeat' first
    | (with_reducible assumption)
    | (split)
    | (with_reducible refine Kept.foldl ?_ ?_)
    | decide
    | (intro u hu x hx)
    | (intro u hu)
    | (refine Kept.notMode_of_mem (by with_reducible assumption) (by decide))
    | (with_reducible apply Kept.emit)
    | (with_reducible apply Kept.cutInFlight)
    | (with_reducible apply Kept.putReasms)
    | (with_reducible refine Kept.mk_other ?_)
    | decide

theorem Kept.keyStage {s0 s : State} {p : List Byte} (hk0 : Kept s0 s) :
    Kept s0 (State.keyStage s p).1 := by
  unfold State.keyStage
  try dsimp only
  repeat' first
    | (with_reducible assumption)
    | (split)
    | (with_reducible refine Kept.foldl ?_ ?_)
    | decide
    | (intro u hu x hx)
    | (intro u hu)
    | (refine Kept.notMode_of_mem (by with_reducible assumption) (by decide))
    | (with_reducible apply Kept.emit)
    | (with_reducible apply Kept.retireCut)
    | (with_reducible apply Kept.setSlot)
    | (with_reducible refine Kept.fst ?_ (by with_reducible assumption))
    | (with_reducible refine Kept.snd ?_ (by with_reducible assumption))
    | (with_reducible refine Kept.mk_other ?_)
    | decide

theorem Kept.keySwitchAt {s0 s : State} {p : List Byte} (hk0 : Kept s0 s) :
    Kept s0 (State.keySwitchAt s p).1 := by
  unfold State.keySwitchAt
  try dsimp only
  repeat' first
    | (with_reducible assumption)
    | (split)
    | (with_reducible refine Kept.foldl ?_ ?_)
    | decide
    | (intro u hu x hx)
    | (intro u hu)
    | (refine Kept.notMode_of_mem (by with_reducible assumption) (by decide))
    | (with_reducible apply Kept.emit)
    | (with_reducible apply Kept.setSlot)
    | (with_reducible refine Kept.fst ?_ (by with_reducible assumption))
    | (with_reducible refine Kept.snd ?_ (by with_reducible assumption))
    | (with_reducible refine Kept.mk_other ?_)
    | decide

theorem Kept.keyErase {s0 s : State} {p : List Byte} (hk0 : Kept s0 s) :
    Kept s0 (State.keyErase s p).1 := by
  unfold State.keyErase
  try dsimp only
  repeat' first
    | (with_reducible assumption)
    | (split)
    | (with_reducible refine Kept.foldl ?_ ?_)
    | decide
    | (intro u hu x hx)
    | (intro u hu)
    | (refine Kept.notMode_of_mem (by with_reducible assumption) (by decide))
    | (with_reducible apply Kept.emit)
    | (with_reducible apply Kept.eraseSlot)
    | (with_reducible apply Kept.unbindSlot)
    | (with_reducible refine Kept.fst ?_ (by with_reducible assumption))
    | (with_reducible refine Kept.snd ?_ (by with_reducible assumption))
    | (with_reducible refine Kept.mk_other ?_)
    | decide

theorem Kept.alarmErase {s0 s : State} {h : Nat} (hk0 : Kept s0 s) :
    Kept s0 (State.alarmErase s h) := by
  unfold State.alarmErase
  try dsimp only
  repeat' first
    | (with_reducible assumption)
    | (split)
    | (with_reducible refine Kept.foldl ?_ ?_)
    | decide
    | (intro u hu x hx)
    | (intro u hu)
    | (refine Kept.notMode_of_mem (by with_reducible assumption) (by decide))
    | (with_reducible apply Kept.emit)
    | (with_reducible apply Kept.enterSyncing)
    | (with_reducible apply Kept.eraseSlot)
    | decide

theorem Kept.sendDigest {s0 s : State} {t : Nat} {fr : Int} {grants : List Grant} {crc : Nat} {flags : Nat} (hk0 : Kept s0 s) :
    Kept s0 (State.sendDigest s t fr grants crc flags) := by
  unfold State.sendDigest
  try dsimp only
  repeat' first
    | (with_reducible assumption)
    | (split)
    | (with_reducible refine Kept.foldl ?_ ?_)
    | decide
    | (intro u hu x hx)
    | (intro u hu)
    | (refine Kept.notMode_of_mem (by with_reducible assumption) (by decide))
    | (with_reducible apply Kept.emit)
    | (with_reducible apply Kept.protMsg)
    | decide

theorem Kept.latchMap {s0 s : State} {t : Nat} {fr : Int} (hk0 : Kept s0 s) :
    Kept s0 (State.latchMap s t fr) := by
  unfold State.latchMap
  try dsimp only
  repeat' first
    | (with_reducible assumption)
    | (split)
    | (with_reducible refine Kept.foldl ?_ ?_)
    | decide
    | (intro u hu x hx)
    | (intro u hu)
    | (refine Kept.notMode_of_mem (by with_reducible assumption) (by decide))
    | (with_reducible apply Kept.emit)
    | (with_reducible apply Kept.setTree)
    | (with_reducible apply Kept.incSat)
    | (with_reducible apply Kept.treEvent)
    | (with_reducible apply Kept.blockEvent)
    | (with_reducible apply Kept.sendDigest)
    | (with_reducible refine Kept.fst ?_ (by with_reducible assumption))
    | (with_reducible refine Kept.snd ?_ (by with_reducible assumption))
    | (with_reducible refine Kept.mk_other ?_)
    | decide

theorem Kept.latchListen {s0 s : State} {t : Nat} {fr : Int} (hk0 : Kept s0 s) :
    Kept s0 (State.latchListen s t fr) := by
  unfold State.latchListen
  try dsimp only
  repeat' first
    | (with_reducible assumption)
    | (split)
    | (with_reducible refine Kept.foldl ?_ ?_)
    | decide
    | (intro u hu x hx)
    | (intro u hu)
    | (refine Kept.notMode_of_mem (by with_reducible assumption) (by decide))
    | (with_reducible refine Kept.wr ?_ (by first | decide | with_reducible assumption | exact Kept.notMode_of_mem (by with_reducible assumption) (by decide) | exact Kept.notMode_of_mem_fst (by with_reducible assumption) (by with_unfolding_all rfl)))
    | (with_reducible refine Kept.wrMode ?_ 4 (by decide) (by first | decide | with_reducible assumption))
    | (with_reducible refine Kept.wrMode ?_ 5 (by decide) (by first | decide | with_reducible assumption))
    | (with_reducible refine Kept.wrMode ?_ 8 (by decide) (by first | decide | with_reducible assumption))
    | (with_reducible apply Kept.emit)
    | (with_reducible apply Kept.setTree)
    | (with_reducible apply Kept.incSat)
    | (with_reducible apply Kept.takeover)
    | (with_reducible apply Kept.protSet)
    | (with_reducible refine Kept.mk_other ?_)
    | decide

theorem Kept.bwAdd {s0 s : State} {t : Nat} {i : Nat} {n : Nat} (hk0 : Kept s0 s) :
    Kept s0 (State.bwAdd s t i n) := by
  unfold State.bwAdd
  try dsimp only
  repeat' first
    | (with_reducible assumption)
    | (split)
    | (with_reducible refine Kept.foldl ?_ ?_)
    | decide
    | (intro u hu x hx)
    | (intro u hu)
    | (refine Kept.notMode_of_mem (by with_reducible assumption) (by decide))
    | (with_reducible apply Kept.emit)
    | (with_reducible apply Kept.addCnt)
    | decide

theorem Kept.setCnt {s0 s : State} {page : Nat} {off : Nat} {n : Nat} (hk0 : Kept s0 s) :
    Kept s0 (State.setCnt s page off n) := by
  unfold State.setCnt
  try dsimp only
  repeat' first
    | (with_reducible assumption)
    | (split)
    | (with_reducible refine Kept.foldl ?_ ?_)
    | decide
    | (intro u hu x hx)
    | (intro u hu)
    | (refine Kept.notMode_of_mem (by with_reducible assumption) (by decide))
    | (with_reducible apply Kept.emit)
    | (with_reducible refine Kept.mk_other ?_)
    | decide

theorem Kept.bwFrame {s0 s : State} {t : Nat} {fr : Nat} (hk0 : Kept s0 s) :
    Kept s0 (State.bwFrame s t fr) := by
  unfold State.bwFrame
  try dsimp only
  repeat' first
    | (with_reducible assumption)
    | (split)
    | (with_reducible refine Kept.foldl ?_ ?_)
    | decide
    | (intro u hu x hx)
    | (intro u hu)
    | (refine Kept.notMode_of_mem (by with_reducible assumption) (by decide))
    | (with_reducible apply Kept.emit)
    | (with_reducible apply Kept.setCnt)
    | decide

theorem Kept.carried {s0 s : State} {t : Nat} {fr : Int} {p : Ploam} (hk0 : Kept s0 s) :
    Kept s0 (State.carried s t fr p) := by
  unfold State.carried
  try dsimp only
  repeat' first
    | (with_reducible assumption)
    | (split)
    | (with_reducible refine Kept.foldl ?_ ?_)
    | decide
    | (intro u hu x hx)
    | (intro u hu)
    | (refine Kept.notMode_of_mem (by with_reducible assumption) (by decide))
    | (with_reducible apply Kept.emit)
    | (with_reducible apply Kept.setTerm)
    | (with_reducible apply Kept.putBprofs)
    | (with_reducible refine Kept.fst ?_ (by with_reducible assumption))
    | (with_reducible refine Kept.snd ?_ (by with_reducible assumption))
    | (with_reducible refine Kept.mk_other ?_)
    | decide

theorem Kept.queueHeld {s0 s : State} {t : Nat} (hk0 : Kept s0 s) :
    Kept s0 (State.queueHeld s t) := by
  unfold State.queueHeld
  try dsimp only
  repeat' first
    | (with_reducible assumption)
    | (split)
    | (with_reducible refine Kept.foldl ?_ ?_)
    | decide
    | (intro u hu x hx)
    | (intro u hu)
    | (refine Kept.notMode_of_mem (by with_reducible assumption) (by decide))
    | (with_reducible apply Kept.emit)
    | (with_reducible apply Kept.setTree)
    | (with_reducible apply Kept.ploamPut)
    | (with_reducible refine Kept.mk_other ?_)
    | decide

theorem Kept.beginFrame {s0 before : State} {t : Nat} {fr : Int} (hk0 : Kept s0 before) :
    Kept s0 (State.beginFrame before t fr) := by
  unfold State.beginFrame
  try dsimp only
  repeat' first
    | (with_reducible assumption)
    | (split)
    | (with_reducible refine Kept.foldl ?_ ?_)
    | decide
    | (intro u hu x hx)
    | (intro u hu)
    | (refine Kept.notMode_of_mem (by with_reducible assumption) (by decide))
    | (with_reducible refine Kept.wr ?_ (by first | decide | with_reducible assumption | exact Kept.notMode_of_mem (by with_reducible assumption) (by decide) | exact Kept.notMode_of_mem_fst (by with_reducible assumption) (by with_unfolding_all rfl)))
    | (with_reducible refine Kept.wrMode ?_ 4 (by decide) (by first | decide | with_reducible assumption))
    | (with_reducible refine Kept.wrMode ?_ 5 (by decide) (by first | decide | with_reducible assumption))
    | (with_reducible refine Kept.wrMode ?_ 8 (by decide) (by first | decide | with_reducible assumption))
    | (with_reducible apply Kept.emit)
    | (with_reducible apply Kept.endFsFrame)
    | (with_reducible apply Kept.setTree)
    | (with_reducible apply Kept.carried)
    | (with_reducible apply Kept.blockEvent)
    | (with_reducible apply Kept.setTreeU)
    | (with_reducible apply Kept.bwAdd)
    | (with_reducible apply Kept.queueHeld)
    | (with_reducible refine Kept.fst ?_ (by with_reducible assumption))
    | (with_reducible refine Kept.snd ?_ (by with_reducible assumption))
    | (with_reducible refine Kept.mk_other ?_)
    | decide

theorem Kept.tideCheck {s0 s : State} {t : Nat} (hk0 : Kept s0 s) :
    Kept s0 (State.tideCheck s t) := by
  unfold State.tideCheck
  try dsimp only
  repeat' first
    | (with_reducible assumption)
    | (split)
    | (with_reducible refine Kept.foldl ?_ ?_)
    | decide
    | (intro u hu x hx)
    | (intro u hu)
    | (refine Kept.notMode_of_mem (by with_reducible assumption) (by decide))
    | (with_reducible refine Kept.wr ?_ (by first | decide | with_reducible assumption | exact Kept.notMode_of_mem (by with_reducible assumption) (by decide) | exact Kept.notMode_of_mem_fst (by with_reducible assumption) (by with_unfolding_all rfl)))
    | (with_reducible refine Kept.wrMode ?_ 4 (by decide) (by first | decide | with_reducible assumption))
    | (with_reducible refine Kept.wrMode ?_ 5 (by decide) (by first | decide | with_reducible assumption))
    | (with_reducible refine Kept.wrMode ?_ 8 (by decide) (by first | decide | with_reducible assumption))
    | (with_reducible apply Kept.emit)
    | (with_reducible apply Kept.setProt)
    | (with_reducible apply Kept.tryReady)
    | (with_reducible apply Kept.enterSyncing)
    | (with_reducible refine Kept.fst ?_ (by with_reducible assumption))
    | (with_reducible refine Kept.snd ?_ (by with_reducible assumption))
    | (with_reducible refine Kept.mk_other ?_)
    | decide

theorem Kept.sendingBoundary {s0 s : State} {t : Nat} {fr : Int} (hk0 : Kept s0 s) :
    Kept s0 (State.sendingBoundary s t fr) := by
  unfold State.sendingBoundary
  try dsimp only
  repeat' first
    | (with_reducible assumption)
    | (split)
    | (with_reducible refine Kept.foldl ?_ ?_)
    | decide
    | (intro u hu x hx)
    | (intro u hu)
    | (refine Kept.notMode_of_mem (by with_reducible assumption) (by decide))
    | (with_reducible apply Kept.emit)
    | (with_reducible apply Kept.goStandby)
    | (with_reducible apply Kept.takeImage)
    | (with_reducible apply Kept.enterSyncing)
    | (with_reducible apply Kept.forgetSent)
    | (with_reducible apply Kept.switchAnswer)
    | (with_reducible apply Kept.protEvent)
    | (with_reducible apply Kept.enterDark)
    | (with_reducible apply Kept.protSet)
    | (with_reducible refine Kept.fst ?_ (by with_reducible assumption))
    | (with_reducible refine Kept.snd ?_ (by with_reducible assumption))
    | (with_reducible refine Kept.mk_other ?_)
    | decide

theorem Kept.emptyUsFrames {s0 s : State} {t : Nat} (hk0 : Kept s0 s) :
    Kept s0 (State.emptyUsFrames s t) := by
  unfold State.emptyUsFrames
  try dsimp only
  repeat' first
    | (with_reducible assumption)
    | (split)
    | (with_reducible refine Kept.foldl ?_ ?_)
    | decide
    | (intro u hu x hx)
    | (intro u hu)
    | (refine Kept.notMode_of_mem (by with_reducible assumption) (by decide))
    | (with_reducible apply Kept.emit)
    | (with_reducible apply Kept.usFrameEnd)
    | decide

theorem Kept.protBoundary {s0 s : State} {t : Nat} {fr : Int} (hk0 : Kept s0 s) :
    Kept s0 (State.protBoundary s t fr) := by
  unfold State.protBoundary
  try dsimp only
  repeat' first
    | (with_reducible assumption)
    | (split)
    | (with_reducible refine Kept.foldl ?_ ?_)
    | decide
    | (intro u hu x hx)
    | (intro u hu)
    | (refine Kept.notMode_of_mem (by with_reducible assumption) (by decide))
    | (with_reducible refine Kept.wr ?_ (by first | decide | with_reducible assumption | exact Kept.notMode_of_mem (by with_reducible assumption) (by decide) | exact Kept.notMode_of_mem_fst (by with_reducible assumption) (by with_unfolding_all rfl)))
    | (with_reducible refine Kept.wrMode ?_ 4 (by decide) (by first | decide | with_reducible assumption))
    | (with_reducible refine Kept.wrMode ?_ 5 (by decide) (by first | decide | with_reducible assumption))
    | (with_reducible refine Kept.wrMode ?_ 8 (by decide) (by first | decide | with_reducible assumption))
    | (with_reducible apply Kept.emit)
    | (with_reducible apply Kept.tideCheck)
    | (with_reducible apply Kept.emptyUsFrames)
    | (with_reducible apply Kept.switchAnswer)
    | (with_reducible apply Kept.protEvent)
    | (with_reducible apply Kept.goStandby)
    | (with_reducible apply Kept.forgetSent)
    | (with_reducible apply Kept.sendingBoundary)
    | (with_reducible apply Kept.protSet)
    | (with_reducible apply Kept.goActive)
    | (with_reducible apply Kept.takeover)
    | (with_reducible apply Kept.enterDark)
    | decide

theorem Kept.nextDraw {s0 s u : State} {t : Nat} {f : Staged} (h : Kept s0 s) (e : s.nextDraw t = some (f, u)) : Kept s0 u := by
  have hm : ∀ (o : Option Staged) (v : State), Kept s0 v → o.map (fun g => (g, v)) = some (f, u) → Kept s0 u := by
    intro o v hv he
    simp only [Option.map_eq_some_iff, Prod.mk.injEq] at he
    obtain ⟨_, _, _, rfl⟩ := he
    exact hv
  have hs : ∀ (g : Staged), some (g, s) = some (f, u) → Kept s0 u := by
    intro g he
    simp only [Option.some.injEq, Prod.mk.injEq] at he
    rw [← he.2]; exact h
  unfold State.nextDraw at e
  extract_lets x ok due first plain q terms info cur at e
  clear_value first plain q terms info cur
  split at e
  · exact hs _ e
  · split at e
    · exact hs _ e
    · split at e
      · exact hs _ e
      · split at e
        · exact hm _ _ h e
        · split at e
          · contradiction
          · exact hm _ _ (Kept.setTree h) e

theorem Kept.unstage {s0 s : State} {t : Nat} {f : Staged} (hk0 : Kept s0 s) :
    Kept s0 (State.unstage s t f) := by
  unfold State.unstage
  try dsimp only
  repeat' first
    | (with_reducible assumption)
    | (split)
    | (with_reducible refine Kept.foldl ?_ ?_)
    | decide
    | (intro u hu x hx)
    | (intro u hu)
    | (refine Kept.notMode_of_mem (by with_reducible assumption) (by decide))
    | (with_reducible apply Kept.emit)
    | (with_reducible apply Kept.setTree)
    | (with_reducible refine Kept.mk_other ?_)
    | decide

theorem Kept.notSent {s0 s : State} {t : Nat} {f : Staged} {status : Nat} {count : Option Fld} (h : Kept s0 s)
    (hc : ∀ c ∈ count, c.num ∉ modeNums) : Kept s0 (State.notSent s t f status count) := by
  unfold State.notSent
  dsimp only
  have h1 := Kept.endFrame (o := f.origin) (status := status) (Kept.freeCells (id := f.cell) (Kept.unstage (t := t) (f := f) h))
  split
  · exact Kept.incSat h1 (hc _ (by simp))
  · exact h1

theorem Kept.refuseDraw {s0 s u : State} {t : Nat} {f : Staged} (h : Kept s0 s) (e : s.refuseDraw t f = some u) : Kept s0 u := by
  unfold State.refuseDraw at e
  dsimp only at e
  repeat' split at e
  all_goals first
    | contradiction
    | (simp only [Option.some.injEq] at e
       subst e
       first
         | exact Kept.notSent h (by decide)
         | exact Kept.notSent (Kept.bittern h) (by decide))

theorem Kept.emitFragment {s0 s : State} {t : Nat} {w : InFlight} {n : Nat} (hk0 : Kept s0 s) :
    Kept s0 (State.emitFragment s t w n) := by
  unfold State.emitFragment
  try dsimp only
  repeat' first
    | (with_reducible assumption)
    | (split)
    | (with_reducible refine Kept.foldl ?_ ?_)
    | decide
    | (intro u hu x hx)
    | (intro u hu)
    | (refine Kept.notMode_of_mem (by with_reducible assumption) (by decide))
    | (with_reducible apply Kept.emit)
    | (with_reducible apply Kept.take)
    | decide

theorem Kept.sendFragment {s0 s : State} {t : Nat} (hk0 : Kept s0 s) :
    Kept s0 (State.sendFragment s t) := by
  unfold State.sendFragment
  try dsimp only
  repeat' first
    | (with_reducible assumption)
    | (split)
    | (with_reducible refine Kept.foldl ?_ ?_)
    | decide
    | (intro u hu x hx)
    | (intro u hu)
    | (refine Kept.notMode_of_mem (by with_reducible assumption) (by decide))
    | (with_reducible apply Kept.emit)
    | (with_reducible apply Kept.idleFill)
    | (with_reducible apply Kept.setTree)
    | (with_reducible apply Kept.emitFragment)
    | (with_reducible apply Kept.blockEvent)
    | (with_reducible apply Kept.freeCells)
    | (with_reducible apply Kept.addFrames)
    | (with_reducible apply Kept.bwAdd)
    | (with_reducible apply Kept.finishTx)
    | (with_reducible refine Kept.fst ?_ (by with_reducible assumption))
    | (with_reducible refine Kept.snd ?_ (by with_reducible assumption))
    | (with_reducible refine Kept.mk_other ?_)
    | decide

theorem Kept.startFrame {s0 s : State} {t : Nat} {f : Staged} (hk0 : Kept s0 s) :
    Kept s0 (State.startFrame s t f) := by
  unfold State.startFrame
  try dsimp only
  repeat' first
    | (with_reducible assumption)
    | (split)
    | (with_reducible refine Kept.foldl ?_ ?_)
    | decide
    | (intro u hu x hx)
    | (intro u hu)
    | (refine Kept.notMode_of_mem (by with_reducible assumption) (by decide))
    | (with_reducible apply Kept.emit)
    | (with_reducible apply Kept.unstage)
    | (with_reducible apply Kept.setTree)
    | (with_reducible apply Kept.sendFragment)
    | (with_reducible refine Kept.fst ?_ (by with_reducible assumption))
    | (with_reducible refine Kept.snd ?_ (by with_reducible assumption))
    | (with_reducible refine Kept.mk_other ?_)
    | decide

theorem Kept.drawLoop {s0 s : State} {t n : Nat} (h : Kept s0 s) : Kept s0 (State.drawLoop t n s) := by
  induction n generalizing s with
  | zero => exact h
  | succ n ih =>
    unfold State.drawLoop
    split
    · exact Kept.idleFill h
    · rename_i hd
      have h1 := Kept.nextDraw h hd
      split
      · rename_i hr
        exact ih (Kept.refuseDraw h1 hr)
      · split
        · rename_i hc
          exact ih (Kept.notSent (Kept.snd (Kept.cellRead h1) hc) (by decide))
        · rename_i hc
          exact Kept.startFrame (Kept.snd (Kept.cellRead h1) hc)

end Sys2Proof.Machine
end

