-- ==== Sys2Proof/Laws/KeptTermOps.lean ====
section
/-! SUPPORT. What the operations of TermOps keep (Laws/Kept.lean). -/

namespace Sys2Proof.Machine

set_option Elab.async false
set_option linter.all false

theorem Kept.stopTerm {s0 s : State} {t : Nat} {k : Nat} {cause : Nat} (hk0 : Kept s0 s) :
    Kept s0 (State.stopTerm s t k cause) := by
  unfold State.stopTerm
  try dsimp only
  repeat' first
    | (with_reducible assumption)
    | (split)
    | (with_reducible refine Kept.foldl ?_ ?_)
    | decide
    | (intro u hu x hx)
    | (intro u hu)
    | (refine Kept.notMode_of_mem (by with_reducible assumption) (by decide))
    | (with_reducible apply Kept.emit)
    | (with_reducible apply Kept.setTerm)
    | (with_reducible apply Kept.termState)
    | (with_reducible apply Kept.zeroAccounts)
    | (with_reducible apply Kept.dropRanging)
    | (with_reducible refine Kept.mk_other ?_)
    | decide

theorem Kept.whileActive {s0 s : State} {t : Nat} {f : State → State} (hk0 : Kept s0 s) (hf : ∀ u, Kept s0 u → Kept s0 (f u)) :
    Kept s0 (State.whileActive s t f) := by
  unfold State.whileActive
  try dsimp only
  repeat' first
    | (with_reducible assumption)
    | (split)
    | (with_reducible refine Kept.foldl ?_ ?_)
    | decide
    | (intro u hu x hx)
    | (intro u hu)
    | (refine Kept.notMode_of_mem (by with_reducible assumption) (by decide))
    | (refine hf _ ?_)
    | (refine hf _ _ ?_)
    | (refine hf _ _ _ ?_)
    | (with_reducible apply Kept.emit)
    | decide

theorem Kept.quenchOne {s0 s : State} {t : Nat} {k : Nat} {cause : Nat} (hk0 : Kept s0 s) :
    Kept s0 (State.quenchOne s t k cause) := by
  unfold State.quenchOne
  try dsimp only
  repeat' first
    | (with_reducible assumption)
    | (split)
    | (with_reducible refine Kept.foldl ?_ ?_)
    | decide
    | (intro u hu x hx)
    | (intro u hu)
    | (refine Kept.notMode_of_mem (by with_reducible assumption) (by decide))
    | (with_reducible apply Kept.emit)
    | (with_reducible apply Kept.stopTerm)
    | (with_reducible apply Kept.whileActive)
    | (with_reducible apply Kept.ploamUrgent)
    | decide

theorem Kept.releaseTerm {s0 s : State} {t : Nat} {k : Nat} (hk0 : Kept s0 s) :
    Kept s0 (State.releaseTerm s t k) := by
  unfold State.releaseTerm
  try dsimp only
  repeat' first
    | (with_reducible assumption)
    | (split)
    | (with_reducible refine Kept.foldl ?_ ?_)
    | decide
    | (intro u hu x hx)
    | (intro u hu)
    | (refine Kept.notMode_of_mem (by with_reducible assumption) (by decide))
    | (with_reducible apply Kept.emit)
    | (with_reducible apply Kept.setTerm)
    | (with_reducible apply Kept.termState)
    | (with_reducible refine Kept.mk_other ?_)
    | decide

theorem Kept.applyQuench {s0 s : State} {p : List Byte} (hk0 : Kept s0 s) :
    Kept s0 (State.applyQuench s p).1 := by
  unfold State.applyQuench
  try dsimp only
  repeat' first
    | (with_reducible assumption)
    | (split)
    | (with_reducible refine Kept.foldl ?_ ?_)
    | decide
    | (intro u hu x hx)
    | (intro u hu)
    | (refine Kept.notMode_of_mem (by with_reducible assumption) (by decide))
    | (with_reducible apply Kept.emit)
    | (with_reducible apply Kept.releaseTerm)
    | (with_reducible apply Kept.whileActive)
    | (with_reducible apply Kept.ploamNormal)
    | (with_reducible apply Kept.ploamTo)
    | (with_reducible apply Kept.stopTerm)
    | (with_reducible apply Kept.ploamUrgent)
    | (with_reducible apply Kept.quenchOne)
    | decide

theorem Kept.sendRanging {s0 s : State} {t : Nat} {k : Nat} (hk0 : Kept s0 s) :
    Kept s0 (State.sendRanging s t k) := by
  unfold State.sendRanging
  try dsimp only
  repeat' first
    | (with_reducible assumption)
    | (split)
    | (with_reducible refine Kept.foldl ?_ ?_)
    | decide
    | (intro u hu x hx)
    | (intro u hu)
    | (refine Kept.notMode_of_mem (by with_reducible assumption) (by decide))
    | (with_reducible apply Kept.emit)
    | (with_reducible apply Kept.ploamTo)
    | decide

theorem Kept.setTel {s0 s : State} {t : Nat} {l : List (List Byte)} (hk0 : Kept s0 s) :
    Kept s0 (State.setTel s t l) := by
  unfold State.setTel
  try dsimp only
  repeat' first
    | (with_reducible assumption)
    | (split)
    | (with_reducible refine Kept.foldl ?_ ?_)
    | decide
    | (intro u hu x hx)
    | (intro u hu)
    | (refine Kept.notMode_of_mem (by with_reducible assumption) (by decide))
    | (with_reducible refine Kept.wr ?_ (by first | decide | with_reducible assumption | exact Kept.notMode_of_mem (by with_reducible assumption) (by decide) | exact Kept.notMode_of_mem_fst (by with_reducible assumption) (by with_unfolding_all rfl)))
    | (with_reducible refine Kept.wrMode ?_ 4 (by decide) (by first | decide | with_reducible assumption))
    | (with_reducible refine Kept.wrMode ?_ 5 (by decide) (by first | decide | with_reducible assumption))
    | (with_reducible refine Kept.wrMode ?_ 8 (by decide) (by first | decide | with_reducible assumption))
    | (with_reducible apply Kept.emit)
    | (with_reducible refine Kept.mk_other ?_)
    | decide

theorem Kept.telRecord {s0 s : State} {t : Nat} {e : Expected} {seen : Option BurstSeen} (hk0 : Kept s0 s) :
    Kept s0 (State.telRecord s t e seen) := by
  unfold State.telRecord
  try dsimp only
  repeat' first
    | (with_reducible assumption)
    | (split)
    | (with_reducible refine Kept.foldl ?_ ?_)
    | decide
    | (intro u hu x hx)
    | (intro u hu)
    | (refine Kept.notMode_of_mem (by with_reducible assumption) (by decide))
    | (with_reducible apply Kept.emit)
    | (with_reducible apply Kept.incSat)
    | (with_reducible apply Kept.setTel)
    | decide

theorem Kept.passOn {s0 s : State} {t : Nat} {a : Nat} {r : Reasm} {bytes : List Byte} {trunc : Bool} {bad : Bool} (hk0 : Kept s0 s) :
    Kept s0 (State.passOn s t a r bytes trunc bad) := by
  unfold State.passOn
  try dsimp only
  repeat' first
    | (with_reducible assumption)
    | (split)
    | (with_reducible refine Kept.foldl ?_ ?_)
    | decide
    | (intro u hu x hx)
    | (intro u hu)
    | (refine Kept.notMode_of_mem (by with_reducible assumption) (by decide))
    | (with_reducible apply Kept.emit)
    | (with_reducible apply Kept.addFrames)
    | (with_reducible apply Kept.bwAdd)
    | (with_reducible apply Kept.putBuf)
    | (with_reducible refine Kept.mk_other ?_)
    | decide

theorem Kept.endReasm {s0 s : State} {t : Nat} {a : Nat} {r : Reasm} (hk0 : Kept s0 s) :
    Kept s0 (State.endReasm s t a r) := by
  unfold State.endReasm
  try dsimp only
  repeat' first
    | (with_reducible assumption)
    | (split)
    | (with_reducible refine Kept.foldl ?_ ?_)
    | decide
    | (intro u hu x hx)
    | (intro u hu)
    | (refine Kept.notMode_of_mem (by with_reducible assumption) (by decide))
    | (with_reducible apply Kept.emit)
    | (with_reducible apply Kept.putReasms)
    | (with_reducible apply Kept.blockEvent)
    | (with_reducible apply Kept.freeCells)
    | (with_reducible apply Kept.rxOffer)
    | (with_reducible apply Kept.incSat)
    | (with_reducible apply Kept.addCnt)
    | (with_reducible apply Kept.bittern)
    | (with_reducible apply Kept.passOn)
    | (with_reducible refine Kept.fst ?_ (by with_reducible assumption))
    | (with_reducible refine Kept.snd ?_ (by with_reducible assumption))
    | (with_reducible refine Kept.mk_other ?_)
    | decide

theorem Kept.keyMiss {s0 s : State} {t : Nat} {a : Nat} {port : Nat} {last : Bool} (hk0 : Kept s0 s) :
    Kept s0 (State.keyMiss s t a port last) := by
  unfold State.keyMiss
  try dsimp only
  repeat' first
    | (with_reducible assumption)
    | (split)
    | (with_reducible refine Kept.foldl ?_ ?_)
    | decide
    | (intro u hu x hx)
    | (intro u hu)
    | (refine Kept.notMode_of_mem (by with_reducible assumption) (by decide))
    | (with_reducible apply Kept.emit)
    | (with_reducible apply Kept.incSat)
    | (with_reducible apply Kept.setTreeU)
    | (with_reducible refine Kept.mk_other ?_)
    | decide

theorem Kept.addFragment {s0 s : State} {t : Nat} {a : Nat} {r : Reasm} {g : FragSeen} (hk0 : Kept s0 s) :
    Kept s0 (State.addFragment s t a r g) := by
  unfold State.addFragment
  try dsimp only
  repeat' first
    | (with_reducible assumption)
    | (split)
    | (with_reducible refine Kept.foldl ?_ ?_)
    | decide
    | (intro u hu x hx)
    | (intro u hu)
    | (refine Kept.notMode_of_mem (by with_reducible assumption) (by decide))
    | (with_reducible apply Kept.emit)
    | (with_reducible apply Kept.take)
    | (with_reducible refine Kept.growCells ?_ (by with_reducible assumption))
    | (with_reducible apply Kept.putReasms)
    | (with_reducible apply Kept.freeCells)
    | (with_reducible apply Kept.incSat)
    | (with_reducible apply Kept.endReasm)
    | (with_reducible refine Kept.fst ?_ (by with_reducible assumption))
    | (with_reducible refine Kept.snd ?_ (by with_reducible assumption))
    | (with_reducible refine Kept.mk_other ?_)
    | decide

theorem Kept.openReasm {s0 s : State} {t : Nat} {a : Nat} {k : Nat} {usEnc : Bool} {g : FragSeen} (hk0 : Kept s0 s) :
    Kept s0 (State.openReasm s t a k usEnc g) := by
  unfold State.openReasm
  try dsimp only
  repeat' first
    | (with_reducible assumption)
    | (split)
    | (with_reducible refine Kept.foldl ?_ ?_)
    | decide
    | (intro u hu x hx)
    | (intro u hu)
    | (refine Kept.notMode_of_mem (by with_reducible assumption) (by decide))
    | (with_reducible apply Kept.emit)
    | (with_reducible apply Kept.keyMiss)
    | (with_reducible refine Kept.takeCells ?_ (by with_reducible assumption))
    | (with_reducible apply Kept.incSat)
    | (with_reducible apply Kept.addFragment)
    | (with_reducible refine Kept.fst ?_ (by with_reducible assumption))
    | (with_reducible refine Kept.snd ?_ (by with_reducible assumption))
    | (with_reducible refine Kept.mk_other ?_)
    | decide

theorem Kept.fragment {s0 s : State} {t : Nat} {a : Nat} {k : Nat} {g : FragSeen} (hk0 : Kept s0 s) :
    Kept s0 (State.fragment s t a k g) := by
  unfold State.fragment
  try dsimp only
  repeat' first
    | (with_reducible assumption)
    | (split)
    | (with_reducible refine Kept.foldl ?_ ?_)
    | decide
    | (intro u hu x hx)
    | (intro u hu)
    | (refine Kept.notMode_of_mem (by with_reducible assumption) (by decide))
    | (with_reducible apply Kept.emit)
    | (with_reducible apply Kept.dropReasm)
    | (with_reducible apply Kept.putReasms)
    | (with_reducible apply Kept.freeCells)
    | (with_reducible apply Kept.keyMiss)
    | (with_reducible apply Kept.addFragment)
    | (with_reducible apply Kept.setTreeU)
    | (with_reducible apply Kept.openReasm)
    | (with_reducible apply Kept.incSat)
    | (with_reducible refine Kept.fst ?_ (by with_reducible assumption))
    | (with_reducible refine Kept.snd ?_ (by with_reducible assumption))
    | (with_reducible refine Kept.mk_other ?_)
    | decide

theorem Kept.portion {s0 s : State} {t : Nat} {e : Expected} {g : Grant} {x : AllocSeen} (hk0 : Kept s0 s) :
    Kept s0 (State.portion s t e g x) := by
  unfold State.portion
  try dsimp only
  repeat' first
    | (with_reducible assumption)
    | (split)
    | (with_reducible refine Kept.foldl ?_ ?_)
    | decide
    | (intro u hu x hx)
    | (intro u hu)
    | (refine Kept.notMode_of_mem (by with_reducible assumption) (by decide))
    | (with_reducible apply Kept.emit)
    | (with_reducible apply Kept.postReport)
    | (with_reducible apply Kept.incSat)
    | (with_reducible apply Kept.fragment)
    | (with_reducible apply Kept.dropReasm)
    | decide

theorem Kept.takeDrift {s0 s : State} {t : Nat} {k : Nat} {d : Int} (hk0 : Kept s0 s) :
    Kept s0 (State.takeDrift s t k d) := by
  unfold State.takeDrift
  try dsimp only
  repeat' first
    | (with_reducible assumption)
    | (split)
    | (with_reducible refine Kept.foldl ?_ ?_)
    | decide
    | (intro u hu x hx)
    | (intro u hu)
    | (refine Kept.notMode_of_mem (by with_reducible assumption) (by decide))
    | (with_reducible apply Kept.emit)
    | (with_reducible apply Kept.setTerm)
    | (with_reducible apply Kept.sendRanging)
    | (with_reducible apply Kept.treUsEvent)
    | (with_reducible refine Kept.mk_other ?_)
    | decide

theorem Kept.missBurst {s0 s : State} {t : Nat} {k : Nat} (hk0 : Kept s0 s) :
    Kept s0 (State.missBurst s t k) := by
  unfold State.missBurst
  try dsimp only
  repeat' first
    | (with_reducible assumption)
    | (split)
    | (with_reducible refine Kept.foldl ?_ ?_)
    | decide
    | (intro u hu x hx)
    | (intro u hu)
    | (refine Kept.notMode_of_mem (by with_reducible assumption) (by decide))
    | (with_reducible apply Kept.emit)
    | (with_reducible apply Kept.setTerm)
    | (with_reducible apply Kept.incSat)
    | (with_reducible apply Kept.addCnt)
    | (with_reducible apply Kept.blockEvent)
    | (with_reducible refine Kept.mk_other ?_)
    | decide

theorem Kept.gotBurst {s0 s : State} {t : Nat} {e : Expected} {b : BurstSeen} (hk0 : Kept s0 s) :
    Kept s0 (State.gotBurst s t e b) := by
  unfold State.gotBurst
  try dsimp only
  repeat' first
    | (with_reducible assumption)
    | (split)
    | (with_reducible refine Kept.foldl ?_ ?_)
    | decide
    | (intro u hu x hx)
    | (intro u hu)
    | (refine Kept.notMode_of_mem (by with_reducible assumption) (by decide))
    | (with_reducible apply Kept.emit)
    | (with_reducible apply Kept.setTerm)
    | (with_reducible apply Kept.termState)
    | (with_reducible apply Kept.addCnt)
    | (with_reducible apply Kept.blockEvent)
    | (with_reducible apply Kept.portion)
    | (with_reducible apply Kept.takeDrift)
    | (with_reducible refine Kept.mk_other ?_)
    | decide

theorem Kept.evidence {s0 s : State} {t : Nat} {k : Nat} (hk0 : Kept s0 s) :
    Kept s0 (State.evidence s t k) := by
  unfold State.evidence
  try dsimp only
  repeat' first
    | (with_reducible assumption)
    | (split)
    | (with_reducible refine Kept.foldl ?_ ?_)
    | decide
    | (intro u hu x hx)
    | (intro u hu)
    | (refine Kept.notMode_of_mem (by with_reducible assumption) (by decide))
    | (with_reducible apply Kept.emit)
    | (with_reducible apply Kept.setTerm)
    | (with_reducible refine Kept.mk_other ?_)
    | decide

theorem Kept.lobFrame {s0 s : State} {t : Nat} {k : Nat} (hk0 : Kept s0 s) :
    Kept s0 (State.lobFrame s t k) := by
  unfold State.lobFrame
  try dsimp only
  repeat' first
    | (with_reducible assumption)
    | (split)
    | (with_reducible refine Kept.foldl ?_ ?_)
    | decide
    | (intro u hu x hx)
    | (intro u hu)
    | (refine Kept.notMode_of_mem (by with_reducible assumption) (by decide))
    | (with_reducible apply Kept.emit)
    | (with_reducible apply Kept.setTerm)
    | (with_reducible refine Kept.mk_other ?_)
    | decide

theorem Kept.listenBurst {s0 s : State} {t : Nat} {e : Expected} {seen : Option BurstSeen} (hk0 : Kept s0 s) :
    Kept s0 (State.listenBurst s t e seen) := by
  unfold State.listenBurst
  try dsimp only
  repeat' first
    | (with_reducible assumption)
    | (split)
    | (with_reducible refine Kept.foldl ?_ ?_)
    | decide
    | (intro u hu x hx)
    | (intro u hu)
    | (refine Kept.notMode_of_mem (by with_reducible assumption) (by decide))
    | (with_reducible apply Kept.emit)
    | (with_reducible apply Kept.incSat)
    | (with_reducible apply Kept.addCnt)
    | (with_reducible apply Kept.blockEvent)
    | (with_reducible apply Kept.setProt)
    | (with_reducible apply Kept.setTreeU)
    | (with_reducible apply Kept.treUsEvent)
    | (with_reducible refine Kept.fst ?_ (by with_reducible assumption))
    | (with_reducible refine Kept.snd ?_ (by with_reducible assumption))
    | (with_reducible refine Kept.mk_other ?_)
    | decide

theorem Kept.protCount {s0 s : State} {t : Nat} {fr : Int} {found : Bool} (hk0 : Kept s0 s) :
    Kept s0 (State.protCount s t fr found) := by
  unfold State.protCount
  try dsimp only
  repeat' first
    | (with_reducible assumption)
    | (split)
    | (with_reducible refine Kept.foldl ?_ ?_)
    | decide
    | (intro u hu x hx)
    | (intro u hu)
    | (refine Kept.notMode_of_mem (by with_reducible assumption) (by decide))
    | (with_reducible apply Kept.emit)
    | (with_reducible apply Kept.setProt)
    | (with_reducible refine Kept.mk_other ?_)
    | decide

end Sys2Proof.Machine
end

