-- ==== Sys2Proof/Laws/KeptTreeUp.lean ====
section
/-! SUPPORT. What the operations of TreeUp keep (Laws/Kept.lean). -/

namespace Sys2Proof.Machine

set_option Elab.async false
set_option linter.all false

theorem Kept.burstProfile {s0 s : State} {p : List Byte} (hk0 : Kept s0 s) :
    Kept s0 (State.burstProfile s p).1 := by
  unfold State.burstProfile
  try dsimp only
  repeat' first
    | (with_reducible assumption)
    | (split)
    | (with_reducible refine Kept.foldl ?_ ?_)
    | decide
    | (intro u hu x hx)
    | (intro u hu)
    | (refine Kept.notMode_of_mem (by with_reducible assumption) (by decide))
    | (with_reducible apply Kept.emit)
    | (with_reducible apply Kept.putBprofs)
    | (with_reducible apply Kept.ploamNormal)
    | (with_reducible refine Kept.fst ?_ (by with_reducible assumption))
    | (with_reducible refine Kept.snd ?_ (by with_reducible assumption))
    | (with_reducible refine Kept.mk_other ?_)
    | decide

theorem Kept.terminalAdd {s0 s : State} {p : List Byte} (hk0 : Kept s0 s) :
    Kept s0 (State.terminalAdd s p).1 := by
  unfold State.terminalAdd
  try dsimp only
  repeat' first
    | (with_reducible assumption)
    | (split)
    | (with_reducible refine Kept.foldl ?_ ?_)
    | decide
    | (intro u hu x hx)
    | (intro u hu)
    | (refine Kept.notMode_of_mem (by with_reducible assumption) (by decide))
    | (with_reducible apply Kept.emit)
    | (with_reducible apply Kept.setTerm)
    | (with_reducible apply Kept.termState)
    | (with_reducible apply Kept.putAllocs)
    | (with_reducible refine Kept.fst ?_ (by with_reducible assumption))
    | (with_reducible refine Kept.snd ?_ (by with_reducible assumption))
    | (with_reducible refine Kept.mk_other ?_)
    | decide

theorem Kept.terminalSet {s0 s : State} {p : List Byte} (hk0 : Kept s0 s) :
    Kept s0 (State.terminalSet s p).1 := by
  unfold State.terminalSet
  try dsimp only
  repeat' first
    | (with_reducible assumption)
    | (split)
    | (with_reducible refine Kept.foldl ?_ ?_)
    | decide
    | (intro u hu x hx)
    | (intro u hu)
    | (refine Kept.notMode_of_mem (by with_reducible assumption) (by decide))
    | (with_reducible apply Kept.emit)
    | (with_reducible apply Kept.setSlot)
    | (with_reducible apply Kept.setTerm)
    | (with_reducible refine Kept.fst ?_ (by with_reducible assumption))
    | (with_reducible refine Kept.snd ?_ (by with_reducible assumption))
    | (with_reducible refine Kept.mk_other ?_)
    | decide

theorem Kept.stripTerm {s0 s : State} {t : Nat} {k : Nat} (hk0 : Kept s0 s) :
    Kept s0 (State.stripTerm s t k) := by
  unfold State.stripTerm
  try dsimp only
  repeat' first
    | (with_reducible assumption)
    | (split)
    | (with_reducible refine Kept.foldl ?_ ?_)
    | decide
    | (intro u hu x hx)
    | (intro u hu)
    | (refine Kept.notMode_of_mem (by with_reducible assumption) (by decide))
    | (with_reducible apply Kept.emit)
    | (with_reducible apply Kept.setTerm)
    | (with_reducible apply Kept.dropRanging)
    | (with_reducible apply Kept.dropReasm)
    | (with_reducible apply Kept.incSat)
    | (with_reducible apply Kept.dropStaged)
    | (with_reducible apply Kept.flushQueues)
    | (with_reducible apply Kept.putFlows)
    | (with_reducible apply Kept.putAllocs)
    | (with_reducible apply Kept.forgetAlloc)
    | (with_reducible apply Kept.setCommit)
    | (with_reducible apply Kept.countForecasts)
    | (with_reducible refine Kept.mk_other ?_)
    | decide

theorem Kept.terminalRemove {s0 s : State} {p : List Byte} (hk0 : Kept s0 s) :
    Kept s0 (State.terminalRemove s p).1 := by
  unfold State.terminalRemove
  try dsimp only
  repeat' first
    | (with_reducible assumption)
    | (split)
    | (with_reducible refine Kept.foldl ?_ ?_)
    | decide
    | (intro u hu x hx)
    | (intro u hu)
    | (refine Kept.notMode_of_mem (by with_reducible assumption) (by decide))
    | (with_reducible apply Kept.emit)
    | (with_reducible apply Kept.stripTerm)
    | (with_reducible apply Kept.eraseSlot)
    | (with_reducible apply Kept.unbindSlot)
    | (with_reducible apply Kept.setTerm)
    | (with_reducible apply Kept.ploamNormal)
    | (with_reducible apply Kept.recordUnused)
    | (with_reducible refine Kept.fst ?_ (by with_reducible assumption))
    | (with_reducible refine Kept.snd ?_ (by with_reducible assumption))
    | (with_reducible refine Kept.mk_other ?_)
    | decide

theorem Kept.terminalStatus {s0 s : State} {p : List Byte} (hk0 : Kept s0 s) :
    Kept s0 (State.terminalStatus s p).1 := by
  unfold State.terminalStatus
  try dsimp only
  repeat' first
    | (with_reducible assumption)
    | (split)
    | (with_reducible refine Kept.foldl ?_ ?_)
    | decide
    | (intro u hu x hx)
    | (intro u hu)
    | (refine Kept.notMode_of_mem (by with_reducible assumption) (by decide))
    | (with_reducible apply Kept.emit)
    | (with_reducible refine Kept.fst ?_ (by with_reducible assumption))
    | (with_reducible refine Kept.snd ?_ (by with_reducible assumption))
    | (with_reducible refine Kept.mk_other ?_)
    | decide

theorem Kept.flowSet {s0 s : State} {p : List Byte} (hk0 : Kept s0 s) :
    Kept s0 (State.flowSet s p).1 := by
  unfold State.flowSet
  try dsimp only
  repeat' first
    | (with_reducible assumption)
    | (split)
    | (with_reducible refine Kept.foldl ?_ ?_)
    | decide
    | (intro u hu x hx)
    | (intro u hu)
    | (refine Kept.notMode_of_mem (by with_reducible assumption) (by decide))
    | (with_reducible apply Kept.emit)
    | (with_reducible apply Kept.putFlows)
    | (with_reducible apply Kept.dropReasm)
    | (with_reducible refine Kept.fst ?_ (by with_reducible assumption))
    | (with_reducible refine Kept.snd ?_ (by with_reducible assumption))
    | (with_reducible refine Kept.mk_other ?_)
    | decide

theorem Kept.quench {s0 s : State} {src : Src} {p : List Byte} (hk0 : Kept s0 s) :
    Kept s0 (State.quench s src p).1 := by
  unfold State.quench
  try dsimp only
  repeat' first
    | (with_reducible assumption)
    | (split)
    | (with_reducible refine Kept.foldl ?_ ?_)
    | decide
    | (intro u hu x hx)
    | (intro u hu)
    | (refine Kept.notMode_of_mem (by with_reducible assumption) (by decide))
    | (with_reducible apply Kept.emit)
    | (with_reducible apply Kept.setProt)
    | (with_reducible apply Kept.protMsg)
    | (with_reducible apply Kept.applyQuench)
    | (with_reducible refine Kept.fst ?_ (by with_reducible assumption))
    | (with_reducible refine Kept.snd ?_ (by with_reducible assumption))
    | (with_reducible refine Kept.mk_other ?_)
    | decide

theorem Kept.writeSnInfo {s0 s : State} {t : Nat} {v : Nat} (hk0 : Kept s0 s) :
    Kept s0 (State.writeSnInfo s t v) := by
  unfold State.writeSnInfo
  try dsimp only
  repeat' first
    | (with_reducible assumption)
    | (split)
    | (with_reducible refine Kept.foldl ?_ ?_)
    | decide
    | (intro u hu x hx)
    | (intro u hu)
    | (refine Kept.notMode_of_mem (by with_reducible assumption) (by decide))
    | (with_reducible apply Kept.emit)
    | (with_reducible apply Kept.writeFields)
    | (with_reducible apply Kept.setTreeU)
    | (with_reducible refine Kept.mk_other ?_)
    | decide

theorem Kept.afterHunt {s0 s : State} {t : Nat} {e : Expected} (hk0 : Kept s0 s) :
    Kept s0 (State.afterHunt s t e) := by
  unfold State.afterHunt
  try dsimp only
  repeat' first
    | (with_reducible assumption)
    | (split)
    | (with_reducible refine Kept.foldl ?_ ?_)
    | decide
    | (intro u hu x hx)
    | (intro u hu)
    | (refine Kept.notMode_of_mem (by with_reducible assumption) (by decide))
    | (with_reducible apply Kept.emit)
    | (with_reducible apply Kept.lobFrame)
    | (with_reducible apply Kept.usFrameEnd)
    | (with_reducible apply Kept.setTreeU)
    | (with_reducible refine Kept.mk_other ?_)
    | decide

theorem Kept.deregister {s0 s : State} {t : Nat} {k : Nat} (hk0 : Kept s0 s) :
    Kept s0 (State.deregister s t k) := by
  unfold State.deregister
  try dsimp only
  repeat' first
    | (with_reducible assumption)
    | (split)
    | (with_reducible refine Kept.foldl ?_ ?_)
    | decide
    | (intro u hu x hx)
    | (intro u hu)
    | (refine Kept.notMode_of_mem (by with_reducible assumption) (by decide))
    | (with_reducible apply Kept.emit)
    | (with_reducible apply Kept.setTerm)
    | (with_reducible apply Kept.ploamNormal)
    | (with_reducible apply Kept.termState)
    | (with_reducible apply Kept.dropRanging)
    | decide

theorem Kept.rogueQuench {s0 s : State} {t : Nat} {k : Nat} (hk0 : Kept s0 s) :
    Kept s0 (State.rogueQuench s t k) := by
  unfold State.rogueQuench
  try dsimp only
  repeat' first
    | (with_reducible assumption)
    | (split)
    | (with_reducible refine Kept.foldl ?_ ?_)
    | decide
    | (intro u hu x hx)
    | (intro u hu)
    | (refine Kept.notMode_of_mem (by with_reducible assumption) (by decide))
    | (with_reducible apply Kept.emit)
    | (with_reducible apply Kept.quenchOne)
    | (with_reducible apply Kept.treUsEvent)
    | (with_reducible apply Kept.setTreeU)
    | (with_reducible refine Kept.mk_other ?_)
    | decide

theorem Kept.sweepFrom {s0 s : State} {t : Nat} {l : List Nat} (hk0 : Kept s0 s) :
    Kept s0 (State.sweepFrom s t l) := by
  unfold State.sweepFrom
  try dsimp only
  repeat' first
    | (with_reducible assumption)
    | (split)
    | (with_reducible refine Kept.foldl ?_ ?_)
    | decide
    | (intro u hu x hx)
    | (intro u hu)
    | (refine Kept.notMode_of_mem (by with_reducible assumption) (by decide))
    | (with_reducible apply Kept.emit)
    | (with_reducible apply Kept.setTreeU)
    | (with_reducible refine Kept.mk_other ?_)
    | decide

theorem Kept.rogueEvent {s0 s : State} {t : Nat} (hk0 : Kept s0 s) :
    Kept s0 (State.rogueEvent s t) := by
  unfold State.rogueEvent
  try dsimp only
  repeat' first
    | (with_reducible assumption)
    | (split)
    | (with_reducible refine Kept.foldl ?_ ?_)
    | decide
    | (intro u hu x hx)
    | (intro u hu)
    | (refine Kept.notMode_of_mem (by with_reducible assumption) (by decide))
    | (with_reducible apply Kept.emit)
    | (with_reducible apply Kept.treUsEvent)
    | (with_reducible apply Kept.rogueQuench)
    | (with_reducible apply Kept.sweepFrom)
    | (with_reducible refine Kept.fst ?_ (by with_reducible assumption))
    | (with_reducible refine Kept.snd ?_ (by with_reducible assumption))
    | (with_reducible refine Kept.mk_other ?_)
    | decide

theorem Kept.lightRuns {s0 s : State} {t : Nat} {rogue : Bool} {light : List (Int × Int)} (hk0 : Kept s0 s) :
    Kept s0 (State.lightRuns s t rogue light) := by
  unfold State.lightRuns
  try dsimp only
  repeat' first
    | (with_reducible assumption)
    | (split)
    | (with_reducible refine Kept.foldl ?_ ?_)
    | decide
    | (intro u hu x hx)
    | (intro u hu)
    | (refine Kept.notMode_of_mem (by with_reducible assumption) (by decide))
    | (with_reducible apply Kept.emit)
    | (with_reducible apply Kept.setTerm)
    | (with_reducible apply Kept.evidence)
    | (with_reducible refine Kept.mk_other ?_)
    | decide

theorem Kept.judgeFrame {s0 s : State} {t : Nat} {light : List (Int × Int)} (hk0 : Kept s0 s) :
    Kept s0 (State.judgeFrame s t light) := by
  unfold State.judgeFrame
  try dsimp only
  repeat' first
    | (with_reducible assumption)
    | (split)
    | (with_reducible refine Kept.foldl ?_ ?_)
    | decide
    | (intro u hu x hx)
    | (intro u hu)
    | (refine Kept.notMode_of_mem (by with_reducible assumption) (by decide))
    | (with_reducible apply Kept.emit)
    | (with_reducible apply Kept.lightRuns)
    | (with_reducible apply Kept.setTreeU)
    | (with_reducible apply Kept.incSat)
    | (with_reducible apply Kept.rogueEvent)
    | (with_reducible refine Kept.mk_other ?_)
    | decide

end Sys2Proof.Machine
end

