-- ==== Sys2Proof/Laws/KeptSluice.lean ====
section
/-! SUPPORT. What the operations of Sluice keep (Laws/Kept.lean). -/

namespace Sys2Proof.Machine

set_option Elab.async false
set_option linter.all false

theorem Kept.deleteAlloc {s0 s : State} {t : Nat} {i : Nat} (hk0 : Kept s0 s) :
    Kept s0 (State.deleteAlloc s t i) := by
  unfold State.deleteAlloc
  try dsimp only
  repeat' first
    | (with_reducible assumption)
    | (split)
    | (with_reducible refine Kept.foldl ?_ ?_)
    | decide
    | (intro u hu x hx)
    | (intro u hu)
    | (refine Kept.notMode_of_mem (by with_reducible assumption) (by decide))
    | (with_reducible apply Kept.emit)
    | (with_reducible apply Kept.putAllocs)
    | (with_reducible apply Kept.dropAlloc)
    | (with_reducible apply Kept.dropReasm)
    | (with_reducible apply Kept.putFlows)
    | (with_reducible apply Kept.setCommit)
    | (with_reducible refine Kept.mk_other ?_)
    | decide

theorem Kept.allocSet {s0 s : State} {p : List Byte} (hk0 : Kept s0 s) :
    Kept s0 (State.allocSet s p).1 := by
  unfold State.allocSet
  try dsimp only
  repeat' first
    | (with_reducible assumption)
    | (split)
    | (with_reducible refine Kept.foldl ?_ ?_)
    | decide
    | (intro u hu x hx)
    | (intro u hu)
    | (refine Kept.notMode_of_mem (by with_reducible assumption) (by decide))
    | (with_reducible apply Kept.emit)
    | (with_reducible apply Kept.deleteAlloc)
    | (with_reducible apply Kept.putAllocs)
    | (with_reducible apply Kept.setSluTree)
    | (with_reducible apply Kept.setCommit)
    | (with_reducible refine Kept.fst ?_ (by with_reducible assumption))
    | (with_reducible refine Kept.snd ?_ (by with_reducible assumption))
    | (with_reducible refine Kept.mk_other ?_)
    | decide

theorem Kept.finishCopy {s0 s : State} {u : Nat} {t : Nat} (hk0 : Kept s0 s) :
    Kept s0 (State.finishCopy s u t) := by
  unfold State.finishCopy
  try dsimp only
  repeat' first
    | (with_reducible assumption)
    | (split)
    | (with_reducible refine Kept.foldl ?_ ?_)
    | decide
    | (intro u hu x hx)
    | (intro u hu)
    | (refine Kept.notMode_of_mem (by with_reducible assumption) (by decide))
    | (with_reducible apply Kept.emit)
    | (with_reducible apply Kept.setSluTree)
    | (with_reducible apply Kept.setSluUnit)
    | (with_reducible refine Kept.fst ?_ (by with_reducible assumption))
    | (with_reducible refine Kept.snd ?_ (by with_reducible assumption))
    | (with_reducible refine Kept.mk_other ?_)
    | decide

theorem Kept.freeForecasts {s0 s : State} {u : Nat} {t : Nat} {fr : Int} {granted : Nat → Nat} (hk0 : Kept s0 s) :
    Kept s0 (State.freeForecasts s u t fr granted).1 := by
  unfold State.freeForecasts
  try dsimp only
  repeat' first
    | (with_reducible assumption)
    | (split)
    | (with_reducible refine Kept.foldl ?_ ?_)
    | decide
    | (intro u hu x hx)
    | (intro u hu)
    | (refine Kept.notMode_of_mem (by with_reducible assumption) (by decide))
    | (with_reducible apply Kept.emit)
    | (with_reducible apply Kept.setSluUnit)
    | (with_reducible refine Kept.mk_other ?_)
    | decide

theorem Kept.buildUnit {s0 s : State} {t : Nat} {fr : Int} {wrong : List (Fin 2 × List Grant)} {u : Nat} (hk0 : Kept s0 s) :
    Kept s0 (State.buildUnit s t fr wrong u) := by
  unfold State.buildUnit
  try dsimp only
  repeat' first
    | (with_reducible assumption)
    | (split)
    | (with_reducible refine Kept.foldl ?_ ?_)
    | decide
    | (intro u hu x hx)
    | (intro u hu)
    | (refine Kept.notMode_of_mem (by with_reducible assumption) (by decide))
    | (with_reducible apply Kept.emit)
    | (with_reducible apply Kept.setSluTree)
    | (with_reducible apply Kept.freeForecasts)
    | (with_reducible apply Kept.blockEvent)
    | (with_reducible apply Kept.incSat)
    | (with_reducible apply Kept.sluEvent)
    | (with_reducible apply Kept.forecastsLost)
    | (with_reducible refine Kept.fst ?_ (by with_reducible assumption))
    | (with_reducible refine Kept.snd ?_ (by with_reducible assumption))
    | (with_reducible refine Kept.mk_other ?_)
    | decide

theorem Kept.dropForecasts {s0 s : State} {t : Nat} {fr : Int} (hk0 : Kept s0 s) :
    Kept s0 (State.dropForecasts s t fr) := by
  unfold State.dropForecasts
  try dsimp only
  repeat' first
    | (with_reducible assumption)
    | (split)
    | (with_reducible refine Kept.foldl ?_ ?_)
    | decide
    | (intro u hu x hx)
    | (intro u hu)
    | (refine Kept.notMode_of_mem (by with_reducible assumption) (by decide))
    | (with_reducible apply Kept.emit)
    | (with_reducible apply Kept.freeForecasts)
    | (with_reducible apply Kept.forecastsLost)
    | (with_reducible refine Kept.fst ?_ (by with_reducible assumption))
    | (with_reducible refine Kept.snd ?_ (by with_reducible assumption))
    | (with_reducible refine Kept.mk_other ?_)
    | decide

theorem Kept.beginTest {s0 s : State} {u : Nat} (hk0 : Kept s0 s) :
    Kept s0 (State.beginTest s u) := by
  unfold State.beginTest
  try dsimp only
  repeat' first
    | (with_reducible assumption)
    | (split)
    | (with_reducible refine Kept.foldl ?_ ?_)
    | decide
    | (intro u hu x hx)
    | (intro u hu)
    | (refine Kept.notMode_of_mem (by with_reducible assumption) (by decide))
    | (with_reducible apply Kept.emit)
    | (with_reducible apply Kept.engReload)
    | (with_reducible apply Kept.setUnit)
    | decide

theorem Kept.retest {s0 s : State} {u : Nat} (hk0 : Kept s0 s) :
    Kept s0 (State.retest s u) := by
  unfold State.retest
  try dsimp only
  repeat' first
    | (with_reducible assumption)
    | (split)
    | (with_reducible refine Kept.foldl ?_ ?_)
    | decide
    | (intro u hu x hx)
    | (intro u hu)
    | (refine Kept.notMode_of_mem (by with_reducible assumption) (by decide))
    | (with_reducible apply Kept.emit)
    | (with_reducible apply Kept.beginTest)
    | (with_reducible apply Kept.setSluUnit)
    | (with_reducible refine Kept.mk_other ?_)
    | decide

theorem Kept.sluDomainOn {s0 s : State} {u : Nat} (hk0 : Kept s0 s) :
    Kept s0 (State.sluDomainOn s u) := by
  unfold State.sluDomainOn
  try dsimp only
  repeat' first
    | (with_reducible assumption)
    | (split)
    | (with_reducible refine Kept.foldl ?_ ?_)
    | decide
    | (intro u hu x hx)
    | (intro u hu)
    | (refine Kept.notMode_of_mem (by with_reducible assumption) (by decide))
    | (with_reducible apply Kept.emit)
    | (with_reducible apply Kept.setSluUnit)
    | (with_reducible apply Kept.retest)
    | (with_reducible refine Kept.mk_other ?_)
    | decide

theorem Kept.endTest {s0 s : State} {u : Nat} {pass : Bool} (hk0 : Kept s0 s) :
    Kept s0 (State.endTest s u pass) := by
  unfold State.endTest
  try dsimp only
  repeat' first
    | (with_reducible assumption)
    | (split)
    | (with_reducible refine Kept.foldl ?_ ?_)
    | decide
    | (intro u hu x hx)
    | (intro u hu)
    | (refine Kept.notMode_of_mem (by with_reducible assumption) (by decide))
    | (with_reducible refine Kept.wr ?_ (by first | decide | with_reducible assumption | exact Kept.notMode_of_mem (by with_reducible assumption) (by decide) | exact Kept.notMode_of_mem_fst (by with_reducible assumption) (by with_unfolding_all rfl)))
    | (with_reducible refine Kept.wrMode ?_ 4 (by decide) (by first | decide | with_reducible assumption))
    | (with_reducible refine Kept.wrMode ?_ 5 (by decide) (by first | decide | with_reducible assumption))
    | (with_reducible refine Kept.wrMode ?_ 8 (by decide) (by first | decide | with_reducible assumption))
    | (with_reducible apply Kept.emit)
    | (with_reducible apply Kept.setEng)
    | (with_reducible refine Kept.mk_other ?_)
    | decide

theorem Kept.releaseMap {s0 s : State} {u : Nat} {t : Nat} {m : BwMap} (hk0 : Kept s0 s) :
    Kept s0 (State.releaseMap s u t m) := by
  unfold State.releaseMap
  try dsimp only
  repeat' first
    | (with_reducible assumption)
    | (split)
    | (with_reducible refine Kept.foldl ?_ ?_)
    | decide
    | (intro u hu x hx)
    | (intro u hu)
    | (refine Kept.notMode_of_mem (by with_reducible assumption) (by decide))
    | (with_reducible refine Kept.wr ?_ (by first | decide | with_reducible assumption | exact Kept.notMode_of_mem (by with_reducible assumption) (by decide) | exact Kept.notMode_of_mem_fst (by with_reducible assumption) (by with_unfolding_all rfl)))
    | (with_reducible refine Kept.wrMode ?_ 4 (by decide) (by first | decide | with_reducible assumption))
    | (with_reducible refine Kept.wrMode ?_ 5 (by decide) (by first | decide | with_reducible assumption))
    | (with_reducible refine Kept.wrMode ?_ 8 (by decide) (by first | decide | with_reducible assumption))
    | (with_reducible apply Kept.emit)
    | (with_reducible apply Kept.setTree)
    | (with_reducible apply Kept.postSlu)
    | (with_reducible apply Kept.blockEvent)
    | (with_reducible apply Kept.sendDigest)
    | (with_reducible refine Kept.mk_other ?_)
    | decide

theorem Kept.mapsDiffer {s0 s : State} {a : Nat} {t : Nat} {mine : BwMap} (hk0 : Kept s0 s) :
    Kept s0 (State.mapsDiffer s a t mine) := by
  unfold State.mapsDiffer
  try dsimp only
  repeat' first
    | (with_reducible assumption)
    | (split)
    | (with_reducible refine Kept.foldl ?_ ?_)
    | decide
    | (intro u hu x hx)
    | (intro u hu)
    | (refine Kept.notMode_of_mem (by with_reducible assumption) (by decide))
    | (with_reducible refine Kept.wr ?_ (by first | decide | with_reducible assumption | exact Kept.notMode_of_mem (by with_reducible assumption) (by decide) | exact Kept.notMode_of_mem_fst (by with_reducible assumption) (by with_unfolding_all rfl)))
    | (with_reducible refine Kept.wrMode ?_ 4 (by decide) (by first | decide | with_reducible assumption))
    | (with_reducible refine Kept.wrMode ?_ 5 (by decide) (by first | decide | with_reducible assumption))
    | (with_reducible refine Kept.wrMode ?_ 8 (by decide) (by first | decide | with_reducible assumption))
    | (with_reducible apply Kept.emit)
    | (with_reducible apply Kept.incSat)
    | (with_reducible apply Kept.sluEvent)
    | (with_reducible apply Kept.unitFail)
    | (with_reducible apply Kept.releaseMap)
    | (with_reducible apply Kept.beginTest)
    | (with_reducible apply Kept.setSluUnit)
    | (with_reducible apply Kept.putSlu)
    | (with_reducible apply Kept.switchOver)
    | (with_reducible refine Kept.mk_other ?_)
    | decide

theorem Kept.mapsAgree {s0 s : State} {a : Nat} {t : Nat} {mine : BwMap} (hk0 : Kept s0 s) :
    Kept s0 (State.mapsAgree s a t mine) := by
  unfold State.mapsAgree
  try dsimp only
  repeat' first
    | (with_reducible assumption)
    | (split)
    | (with_reducible refine Kept.foldl ?_ ?_)
    | decide
    | (intro u hu x hx)
    | (intro u hu)
    | (refine Kept.notMode_of_mem (by with_reducible assumption) (by decide))
    | (with_reducible refine Kept.wr ?_ (by first | decide | with_reducible assumption | exact Kept.notMode_of_mem (by with_reducible assumption) (by decide) | exact Kept.notMode_of_mem_fst (by with_reducible assumption) (by with_unfolding_all rfl)))
    | (with_reducible refine Kept.wrMode ?_ 4 (by decide) (by first | decide | with_reducible assumption))
    | (with_reducible refine Kept.wrMode ?_ 5 (by decide) (by first | decide | with_reducible assumption))
    | (with_reducible refine Kept.wrMode ?_ 8 (by decide) (by first | decide | with_reducible assumption))
    | (with_reducible apply Kept.emit)
    | (with_reducible apply Kept.setSluUnit)
    | (with_reducible apply Kept.releaseMap)
    | (with_reducible refine Kept.mk_other ?_)
    | decide

theorem Kept.writeSluCtl {s0 s : State} {v : Nat} (hk0 : Kept s0 s) :
    Kept s0 (State.writeSluCtl s v) := by
  unfold State.writeSluCtl
  try dsimp only
  repeat' first
    | (with_reducible assumption)
    | (split)
    | (with_reducible refine Kept.foldl ?_ ?_)
    | decide
    | (intro u hu x hx)
    | (intro u hu)
    | (refine Kept.notMode_of_mem (by with_reducible assumption) (by decide))
    | (with_reducible apply Kept.emit)
    | (with_reducible apply Kept.writeFields)
    | (with_reducible apply Kept.switchOver)
    | (with_reducible apply Kept.setUnit)
    | (with_reducible apply Kept.sluEvent)
    | (with_reducible apply Kept.retest)
    | (with_reducible refine Kept.fst ?_ (by with_reducible assumption))
    | (with_reducible refine Kept.snd ?_ (by with_reducible assumption))
    | (with_reducible refine Kept.mk_other ?_)
    | decide

theorem Kept.freshUnit {s0 s : State} {u : Nat} (hk0 : Kept s0 s) :
    Kept s0 (State.freshUnit s u) := by
  unfold State.freshUnit
  try dsimp only
  repeat' first
    | (with_reducible assumption)
    | (split)
    | (with_reducible refine Kept.foldl ?_ ?_)
    | decide
    | (intro u hu x hx)
    | (intro u hu)
    | (refine Kept.notMode_of_mem (by with_reducible assumption) (by decide))
    | (with_reducible apply Kept.emit)
    | (with_reducible apply Kept.setSluTree)
    | (with_reducible apply Kept.setSluUnit)
    | (with_reducible apply Kept.incSat)
    | (with_reducible apply Kept.countForecasts)
    | (with_reducible refine Kept.mk_other ?_)
    | decide

theorem Kept.sluiceStart {s0 s : State} (hk0 : Kept s0 s) :
    Kept s0 (State.sluiceStart s) := by
  unfold State.sluiceStart
  try dsimp only
  repeat' first
    | (with_reducible assumption)
    | (split)
    | (with_reducible refine Kept.foldl ?_ ?_)
    | decide
    | (intro u hu x hx)
    | (intro u hu)
    | (refine Kept.notMode_of_mem (by with_reducible assumption) (by decide))
    | (with_reducible apply Kept.emit)
    | (with_reducible apply Kept.putSlu)
    | (with_reducible apply Kept.freshUnit)
    | (with_reducible apply Kept.setSluUnit)
    | (with_reducible apply Kept.setUnit)
    | (with_reducible apply Kept.enterResync)
    | (with_reducible refine Kept.mk_other ?_)
    | decide

theorem Kept.applyForecast {s0 s : State} {b : List Byte} (hk0 : Kept s0 s) :
    Kept s0 (State.applyForecast s b) := by
  unfold State.applyForecast
  try dsimp only
  repeat' first
    | (with_reducible assumption)
    | (split)
    | (with_reducible refine Kept.foldl ?_ ?_)
    | decide
    | (intro u hu x hx)
    | (intro u hu)
    | (refine Kept.notMode_of_mem (by with_reducible assumption) (by decide))
    | (with_reducible apply Kept.emit)
    | (with_reducible apply Kept.setSluUnit)
    | (with_reducible apply Kept.blockEvent)
    | (with_reducible apply Kept.countForecasts)
    | (with_reducible refine Kept.mk_other ?_)
    | decide

end Sys2Proof.Machine
end

