-- ==== Sys2Proof/Laws/KeptBufOps.lean ====
section
/-! SUPPORT. What the operations of BufOps keep (Laws/Kept.lean). -/

namespace Sys2Proof.Machine

set_option Elab.async false
set_option linter.all false

theorem Kept.admitDrop {s0 s : State} {t : Nat} {term : Nat} {cls : Nat} {off : Nat} (hk0 : Kept s0 s) :
    Kept s0 (State.admitDrop s t term cls off) := by
  unfold State.admitDrop
  try dsimp only
  repeat' first
    | (with_reducible assumption)
    | (split)
    | (with_reducible refine Kept.foldl ?_ ?_)
    | decide
    | (intro u hu x hx)
    | (intro u hu)
    | (refine Kept.notMode_of_mem (by with_reducible assumption) (by decide))
    | (with_reducible apply Kept.emit)
    | (with_reducible apply Kept.setDeepQ)
    | (with_reducible apply Kept.addCnt)
    | (with_reducible apply Kept.blockEvent)
    | (with_reducible refine Kept.mk_other ?_)
    | decide

theorem Kept.admitDeep {s0 s : State} {t : Nat} {term : Nat} {cls : Nat} {cell : Nat} {f : DeepFrame} (hk0 : Kept s0 s) :
    Kept s0 (State.admitDeep s t term cls cell f).2 := by
  unfold State.admitDeep
  try dsimp only
  repeat' first
    | (with_reducible assumption)
    | (split)
    | (with_reducible refine Kept.foldl ?_ ?_)
    | decide
    | (intro u hu x hx)
    | (intro u hu)
    | (refine Kept.notMode_of_mem (by with_reducible assumption) (by decide))
    | (with_reducible apply Kept.emit)
    | (with_reducible apply Kept.setBuf)
    | (with_reducible apply Kept.admitDrop)
    | (with_reducible apply Kept.freeCells)
    | (with_reducible refine Kept.takePages ?_ (by with_reducible assumption))
    | (with_reducible apply Kept.setDeepQ)
    | (with_reducible apply Kept.blockEvent)
    | (with_reducible apply Kept.settleAll)
    | (with_reducible refine Kept.fst ?_ (by with_reducible assumption))
    | (with_reducible refine Kept.snd ?_ (by with_reducible assumption))
    | (with_reducible refine Kept.mk_other ?_)
    | decide

theorem Kept.stackRead {s0 s : State} {pages : List Nat} {off : Nat} {len : Nat} (hk0 : Kept s0 s) :
    Kept s0 (State.stackRead s pages off len).2 := by
  unfold State.stackRead
  try dsimp only
  repeat' first
    | (with_reducible assumption)
    | (split)
    | (with_reducible refine Kept.foldl ?_ ?_)
    | decide
    | (intro u hu x hx)
    | (intro u hu)
    | (refine Kept.notMode_of_mem (by with_reducible assumption) (by decide))
    | (with_reducible apply Kept.emit)
    | (with_reducible apply Kept.corrected)
    | (with_reducible apply Kept.rewriteWord)
    | (with_reducible apply Kept.logUe)
    | (with_reducible refine Kept.fst ?_ (by with_reducible assumption))
    | (with_reducible refine Kept.snd ?_ (by with_reducible assumption))
    | (with_reducible refine Kept.mk_other ?_)
    | decide

theorem Kept.linkRead {s0 s : State} {q : Nat} {pages : List Nat} (hk0 : Kept s0 s) :
    Kept s0 (State.linkRead s q pages).2 := by
  unfold State.linkRead
  try dsimp only
  repeat' first
    | (with_reducible assumption)
    | (split)
    | (with_reducible refine Kept.foldl ?_ ?_)
    | decide
    | (intro u hu x hx)
    | (intro u hu)
    | (refine Kept.notMode_of_mem (by with_reducible assumption) (by decide))
    | (with_reducible apply Kept.emit)
    | (with_reducible apply Kept.corrected)
    | (with_reducible apply Kept.rewriteWord)
    | (with_reducible apply Kept.logUe)
    | (with_reducible refine Kept.fst ?_ (by with_reducible assumption))
    | (with_reducible refine Kept.snd ?_ (by with_reducible assumption))
    | (with_reducible refine Kept.mk_other ?_)
    | decide

theorem Kept.cutPages {s0 s : State} {q : Nat} {seq : Nat} {n : Nat} {keep : Nat} (hk0 : Kept s0 s) :
    Kept s0 (State.cutPages s q seq n keep) := by
  unfold State.cutPages
  try dsimp only
  repeat' first
    | (with_reducible assumption)
    | (split)
    | (with_reducible refine Kept.foldl ?_ ?_)
    | decide
    | (intro u hu x hx)
    | (intro u hu)
    | (refine Kept.notMode_of_mem (by with_reducible assumption) (by decide))
    | (with_reducible apply Kept.emit)
    | (with_reducible apply Kept.putBuf)
    | (with_reducible refine Kept.mk_other ?_)
    | decide

theorem Kept.payCredits {s0 s : State} (hk0 : Kept s0 s) :
    Kept s0 (State.payCredits s) := by
  unfold State.payCredits
  try dsimp only
  repeat' first
    | (with_reducible assumption)
    | (split)
    | (with_reducible refine Kept.foldl ?_ ?_)
    | decide
    | (intro u hu x hx)
    | (intro u hu)
    | (refine Kept.notMode_of_mem (by with_reducible assumption) (by decide))
    | (with_reducible apply Kept.emit)
    | (with_reducible apply Kept.setBuf)
    | (with_reducible refine Kept.mk_other ?_)
    | decide

theorem Kept.returnCredit {s0 s : State} {lane : Nat} {cls : Nat} {n : Nat} (hk0 : Kept s0 s) :
    Kept s0 (State.returnCredit s lane cls n) := by
  unfold State.returnCredit
  try dsimp only
  repeat' first
    | (with_reducible assumption)
    | (split)
    | (with_reducible refine Kept.foldl ?_ ?_)
    | decide
    | (intro u hu x hx)
    | (intro u hu)
    | (refine Kept.notMode_of_mem (by with_reducible assumption) (by decide))
    | (with_reducible apply Kept.emit)
    | (with_reducible apply Kept.payCredits)
    | (with_reducible apply Kept.setBuf)
    | (with_reducible refine Kept.mk_other ?_)
    | decide

theorem Kept.startCredits {s0 s : State} (hk0 : Kept s0 s) :
    Kept s0 (State.startCredits s) := by
  unfold State.startCredits
  try dsimp only
  repeat' first
    | (with_reducible assumption)
    | (split)
    | (with_reducible refine Kept.foldl ?_ ?_)
    | decide
    | (intro u hu x hx)
    | (intro u hu)
    | (refine Kept.notMode_of_mem (by with_reducible assumption) (by decide))
    | (with_reducible apply Kept.emit)
    | (with_reducible apply Kept.setBuf)
    | (with_reducible refine Kept.mk_other ?_)
    | decide

end Sys2Proof.Machine
end

