-- ==== Sys2Proof/Laws/KeptRings.lean ====
section
/-! SUPPORT. What the operations of Rings keep (Laws/Kept.lean). -/

namespace Sys2Proof.Machine

set_option Elab.async false
set_option linter.all false

theorem Kept.evqCreate {s0 s : State} {p : List Byte} (hk0 : Kept s0 s) :
    Kept s0 (State.evqCreate s p).1 := by
  unfold State.evqCreate
  try dsimp only
  repeat' first
    | (with_reducible assumption)
    | (split)
    | (with_reducible refine Kept.foldl ?_ ?_)
    | decide
    | (intro u hu x hx)
    | (intro u hu)
    | (refine Kept.notMode_of_mem (by with_reducible assumption) (by decide))
    | (with_reducible refine Kept.wr ?_ (by first | decide | with_reducible assumption | exact Kept.notMode_of_mem (by with_reducible assumption) (by decide) | exact Kept.notMode_of_mem_fst (by with_reducible assumption) (by with_unfolding_all rfl)))
    | (with_reducible refine Kept.wrMode ?_ 4 (by decide) (by first | decide | with_reducible assumption))
    | (with_reducible refine Kept.wrMode ?_ 5 (by decide) (by first | decide | with_reducible assumption))
    | (with_reducible refine Kept.wrMode ?_ 8 (by decide) (by first | decide | with_reducible assumption))
    | (with_reducible apply Kept.emit)
    | (with_reducible apply Kept.setEvq)
    | (with_reducible refine Kept.fst ?_ (by with_reducible assumption))
    | (with_reducible refine Kept.snd ?_ (by with_reducible assumption))
    | (with_reducible refine Kept.mk_other ?_)
    | decide

theorem Kept.ringCreate {s0 s : State} {p : List Byte} (hk0 : Kept s0 s) :
    Kept s0 (State.ringCreate s p).1 := by
  unfold State.ringCreate
  try dsimp only
  repeat' first
    | (with_reducible assumption)
    | (split)
    | (with_reducible refine Kept.foldl ?_ ?_)
    | decide
    | (intro u hu x hx)
    | (intro u hu)
    | (refine Kept.notMode_of_mem (by with_reducible assumption) (by decide))
    | (with_reducible refine Kept.wr ?_ (by first | decide | with_reducible assumption | exact Kept.notMode_of_mem (by with_reducible assumption) (by decide) | exact Kept.notMode_of_mem_fst (by with_reducible assumption) (by with_unfolding_all rfl)))
    | (with_reducible refine Kept.wrMode ?_ 4 (by decide) (by first | decide | with_reducible assumption))
    | (with_reducible refine Kept.wrMode ?_ 5 (by decide) (by first | decide | with_reducible assumption))
    | (with_reducible refine Kept.wrMode ?_ 8 (by decide) (by first | decide | with_reducible assumption))
    | (with_reducible apply Kept.emit)
    | (with_reducible apply Kept.setRing)
    | (with_reducible apply Kept.ringState)
    | (with_reducible refine Kept.fst ?_ (by with_reducible assumption))
    | (with_reducible refine Kept.snd ?_ (by with_reducible assumption))
    | (with_reducible refine Kept.mk_other ?_)
    | decide

theorem Kept.dropWaiting {s0 s : State} {r : Nat} {count : Bool} (hk0 : Kept s0 s) :
    Kept s0 (State.dropWaiting s r count) := by
  unfold State.dropWaiting
  try dsimp only
  repeat' first
    | (with_reducible assumption)
    | (split)
    | (with_reducible refine Kept.foldl ?_ ?_)
    | decide
    | (intro u hu x hx)
    | (intro u hu)
    | (refine Kept.notMode_of_mem (by with_reducible assumption) (by decide))
    | (with_reducible refine Kept.wr ?_ (by first | decide | with_reducible assumption | exact Kept.notMode_of_mem (by with_reducible assumption) (by decide) | exact Kept.notMode_of_mem_fst (by with_reducible assumption) (by with_unfolding_all rfl)))
    | (with_reducible refine Kept.wrMode ?_ 4 (by decide) (by first | decide | with_reducible assumption))
    | (with_reducible refine Kept.wrMode ?_ 5 (by decide) (by first | decide | with_reducible assumption))
    | (with_reducible refine Kept.wrMode ?_ 8 (by decide) (by first | decide | with_reducible assumption))
    | (with_reducible apply Kept.emit)
    | (with_reducible apply Kept.freeCells)
    | (with_reducible apply Kept.setRing)
    | (with_reducible apply Kept.incWrap)
    | (with_reducible refine Kept.mk_other ?_)
    | decide

theorem Kept.ringIdle {s0 s : State} {r : Nat} (hk0 : Kept s0 s) :
    Kept s0 (State.ringIdle s r) := by
  unfold State.ringIdle
  try dsimp only
  repeat' first
    | (with_reducible assumption)
    | (split)
    | (with_reducible refine Kept.foldl ?_ ?_)
    | decide
    | (intro u hu x hx)
    | (intro u hu)
    | (refine Kept.notMode_of_mem (by with_reducible assumption) (by decide))
    | (with_reducible refine Kept.wr ?_ (by first | decide | with_reducible assumption | exact Kept.notMode_of_mem (by with_reducible assumption) (by decide) | exact Kept.notMode_of_mem_fst (by with_reducible assumption) (by with_unfolding_all rfl)))
    | (with_reducible refine Kept.wrMode ?_ 4 (by decide) (by first | decide | with_reducible assumption))
    | (with_reducible refine Kept.wrMode ?_ 5 (by decide) (by first | decide | with_reducible assumption))
    | (with_reducible refine Kept.wrMode ?_ 8 (by decide) (by first | decide | with_reducible assumption))
    | (with_reducible apply Kept.emit)
    | (with_reducible apply Kept.ringState)
    | decide

theorem Kept.settleFailed {s0 s : State} {r : Nat} (hk0 : Kept s0 s) :
    Kept s0 (State.settleFailed s r) := by
  unfold State.settleFailed
  try dsimp only
  repeat' first
    | (with_reducible assumption)
    | (split)
    | (with_reducible refine Kept.foldl ?_ ?_)
    | decide
    | (intro u hu x hx)
    | (intro u hu)
    | (refine Kept.notMode_of_mem (by with_reducible assumption) (by decide))
    | (with_reducible apply Kept.emit)
    | (with_reducible apply Kept.setRing)
    | (with_reducible apply Kept.advanceHead)
    | (with_reducible apply Kept.txFail)
    | (with_reducible refine Kept.fst ?_ (by with_reducible assumption))
    | (with_reducible refine Kept.snd ?_ (by with_reducible assumption))
    | (with_reducible refine Kept.mk_other ?_)
    | decide

theorem Kept.drain {s0 s : State} {r : Nat} (hk0 : Kept s0 s) :
    Kept s0 (State.drain s r) := by
  unfold State.drain
  try dsimp only
  repeat' first
    | (with_reducible assumption)
    | (split)
    | (with_reducible refine Kept.foldl ?_ ?_)
    | decide
    | (intro u hu x hx)
    | (intro u hu)
    | (refine Kept.notMode_of_mem (by with_reducible assumption) (by decide))
    | (with_reducible apply Kept.emit)
    | (with_reducible apply Kept.setRing)
    | (with_reducible apply Kept.ringState)
    | (with_reducible apply Kept.settleFailed)
    | (with_reducible apply Kept.dropWaiting)
    | (with_reducible refine Kept.mk_other ?_)
    | decide

theorem Kept.resume {s0 s : State} {r : Nat} (hk0 : Kept s0 s) :
    Kept s0 (State.resume s r) := by
  unfold State.resume
  try dsimp only
  repeat' first
    | (with_reducible assumption)
    | (split)
    | (with_reducible refine Kept.foldl ?_ ?_)
    | decide
    | (intro u hu x hx)
    | (intro u hu)
    | (refine Kept.notMode_of_mem (by with_reducible assumption) (by decide))
    | (with_reducible refine Kept.wr ?_ (by first | decide | with_reducible assumption | exact Kept.notMode_of_mem (by with_reducible assumption) (by decide) | exact Kept.notMode_of_mem_fst (by with_reducible assumption) (by with_unfolding_all rfl)))
    | (with_reducible refine Kept.wrMode ?_ 4 (by decide) (by first | decide | with_reducible assumption))
    | (with_reducible refine Kept.wrMode ?_ 5 (by decide) (by first | decide | with_reducible assumption))
    | (with_reducible refine Kept.wrMode ?_ 8 (by decide) (by first | decide | with_reducible assumption))
    | (with_reducible apply Kept.emit)
    | (with_reducible apply Kept.setRing)
    | (with_reducible apply Kept.ringState)
    | (with_reducible refine Kept.mk_other ?_)
    | decide

theorem Kept.ringDisable {s0 s : State} {src : Src} {p : List Byte} (hk0 : Kept s0 s) :
    Kept s0 (State.ringDisable s src p).1 := by
  unfold State.ringDisable
  try dsimp only
  repeat' first
    | (with_reducible assumption)
    | (split)
    | (with_reducible refine Kept.foldl ?_ ?_)
    | decide
    | (intro u hu x hx)
    | (intro u hu)
    | (refine Kept.notMode_of_mem (by with_reducible assumption) (by decide))
    | (with_reducible apply Kept.emit)
    | (with_reducible apply Kept.resume)
    | (with_reducible apply Kept.ringIdle)
    | (with_reducible apply Kept.drain)
    | (with_reducible refine Kept.fst ?_ (by with_reducible assumption))
    | (with_reducible refine Kept.snd ?_ (by with_reducible assumption))
    | (with_reducible refine Kept.mk_other ?_)
    | decide

theorem Kept.disown {s0 s : State} {r : Nat} (hk0 : Kept s0 s) :
    Kept s0 (State.disown s r) := by
  unfold State.disown
  try dsimp only
  repeat' first
    | (with_reducible assumption)
    | (split)
    | (with_reducible refine Kept.foldl ?_ ?_)
    | decide
    | (intro u hu x hx)
    | (intro u hu)
    | (refine Kept.notMode_of_mem (by with_reducible assumption) (by decide))
    | (with_reducible apply Kept.emit)
    | (with_reducible refine Kept.fst ?_ (by with_reducible assumption))
    | (with_reducible refine Kept.snd ?_ (by with_reducible assumption))
    | (with_reducible refine Kept.mk_other ?_)
    | decide

theorem Kept.ringDestroy {s0 s : State} {src : Src} {p : List Byte} (hk0 : Kept s0 s) :
    Kept s0 (State.ringDestroy s src p).1 := by
  unfold State.ringDestroy
  try dsimp only
  repeat' first
    | (with_reducible assumption)
    | (split)
    | (with_reducible refine Kept.foldl ?_ ?_)
    | decide
    | (intro u hu x hx)
    | (intro u hu)
    | (refine Kept.notMode_of_mem (by with_reducible assumption) (by decide))
    | (with_reducible refine Kept.wr ?_ (by first | decide | with_reducible assumption | exact Kept.notMode_of_mem (by with_reducible assumption) (by decide) | exact Kept.notMode_of_mem_fst (by with_reducible assumption) (by with_unfolding_all rfl)))
    | (with_reducible refine Kept.wrMode ?_ 4 (by decide) (by first | decide | with_reducible assumption))
    | (with_reducible refine Kept.wrMode ?_ 5 (by decide) (by first | decide | with_reducible assumption))
    | (with_reducible refine Kept.wrMode ?_ 8 (by decide) (by first | decide | with_reducible assumption))
    | (with_reducible apply Kept.emit)
    | (with_reducible apply Kept.dropWaiting)
    | (with_reducible apply Kept.disown)
    | (with_reducible apply Kept.setRing)
    | (with_reducible apply Kept.ringState)
    | (with_reducible refine Kept.fst ?_ (by with_reducible assumption))
    | (with_reducible refine Kept.snd ?_ (by with_reducible assumption))
    | (with_reducible refine Kept.mk_other ?_)
    | decide

theorem Kept.hostSleepNotice {s0 s : State} {p : List Byte} (hk0 : Kept s0 s) :
    Kept s0 (State.hostSleepNotice s p).1 := by
  unfold State.hostSleepNotice
  try dsimp only
  repeat' first
    | (with_reducible assumption)
    | (split)
    | (with_reducible refine Kept.foldl ?_ ?_)
    | decide
    | (intro u hu x hx)
    | (intro u hu)
    | (refine Kept.notMode_of_mem (by with_reducible assumption) (by decide))
    | (with_reducible apply Kept.emit)
    | (with_reducible apply Kept.wake)
    | (with_reducible apply Kept.fire)
    | (with_reducible refine Kept.fst ?_ (by with_reducible assumption))
    | (with_reducible refine Kept.snd ?_ (by with_reducible assumption))
    | (with_reducible refine Kept.mk_other ?_)
    | decide

theorem Kept.applyDoorbell {s0 s : State} {d : PendingDb} (hk0 : Kept s0 s) :
    Kept s0 (State.applyDoorbell s d) := by
  unfold State.applyDoorbell
  try dsimp only
  repeat' first
    | (with_reducible assumption)
    | (split)
    | (with_reducible refine Kept.foldl ?_ ?_)
    | decide
    | (intro u hu x hx)
    | (intro u hu)
    | (refine Kept.notMode_of_mem (by with_reducible assumption) (by decide))
    | (with_reducible refine Kept.wr ?_ (by first | decide | with_reducible assumption | exact Kept.notMode_of_mem (by with_reducible assumption) (by decide) | exact Kept.notMode_of_mem_fst (by with_reducible assumption) (by with_unfolding_all rfl)))
    | (with_reducible refine Kept.wrMode ?_ 4 (by decide) (by first | decide | with_reducible assumption))
    | (with_reducible refine Kept.wrMode ?_ 5 (by decide) (by first | decide | with_reducible assumption))
    | (with_reducible refine Kept.wrMode ?_ 8 (by decide) (by first | decide | with_reducible assumption))
    | (with_reducible apply Kept.emit)
    | (with_reducible apply Kept.irqStatus)
    | (with_reducible apply Kept.ringError)
    | (with_reducible apply Kept.setRing)
    | (with_reducible apply Kept.pumpAll)
    | (with_reducible refine Kept.mk_other ?_)
    | decide

theorem Kept.writeDoorbell {s0 s : State} {r : Nat} {v : Nat} {bus : Nat} (hk0 : Kept s0 s) :
    Kept s0 (State.writeDoorbell s r v bus) := by
  unfold State.writeDoorbell
  try dsimp only
  repeat' first
    | (with_reducible assumption)
    | (split)
    | (with_reducible refine Kept.foldl ?_ ?_)
    | decide
    | (intro u hu x hx)
    | (intro u hu)
    | (refine Kept.notMode_of_mem (by with_reducible assumption) (by decide))
    | (with_reducible apply Kept.emit)
    | (with_reducible apply Kept.applyDoorbell)
    | (with_reducible apply Kept.putDoorbells)
    | (with_reducible apply Kept.wake)
    | decide

theorem Kept.replayDoorbells {s0 s : State} (hk0 : Kept s0 s) :
    Kept s0 (State.replayDoorbells s) := by
  unfold State.replayDoorbells
  try dsimp only
  repeat' first
    | (with_reducible assumption)
    | (split)
    | (with_reducible refine Kept.foldl ?_ ?_)
    | decide
    | (intro u hu x hx)
    | (intro u hu)
    | (refine Kept.notMode_of_mem (by with_reducible assumption) (by decide))
    | (with_reducible apply Kept.emit)
    | (with_reducible apply Kept.applyDoorbell)
    | (with_reducible apply Kept.putDoorbells)
    | decide

theorem Kept.txGo {s0 s t : State} {r i : Nat} {x : TxDesc} (h : Kept s0 s) (e : s.txGo r i x = some t) : Kept s0 t := by
  unfold State.txGo at e
  split at e
  · contradiction
  · split at e
    split at e
    · contradiction
    · rename_i hc
      have h1 := Kept.takeCells h hc
      dsimp only at e
      simp only [Option.some.injEq] at e
      subst e
      repeat' first
        | (with_reducible assumption)
        | split
        | (with_reducible apply Kept.setBuf)
        | (with_reducible apply Kept.toEgress)
        | (with_reducible apply Kept.setTree)
        | (with_reducible apply Kept.setRing)

theorem Kept.txTry {s0 s : State} {r : Nat} {i : Nat} {busErr : Bool} (hk0 : Kept s0 s) :
    Kept s0 (State.txTry s r i busErr) := by
  unfold State.txTry
  try dsimp only
  repeat' first
    | (with_reducible assumption)
    | (split)
    | (with_reducible refine Kept.foldl ?_ ?_)
    | decide
    | (intro u hu x hx)
    | (intro u hu)
    | (refine Kept.notMode_of_mem (by with_reducible assumption) (by decide))
    | (with_reducible apply Kept.emit)
    | (with_reducible apply Kept.txFail)
    | (with_reducible refine Kept.txGo ?_ (by with_reducible assumption))
    | (with_reducible apply Kept.setRing)
    | (with_reducible refine Kept.fst ?_ (by with_reducible assumption))
    | (with_reducible refine Kept.snd ?_ (by with_reducible assumption))
    | (with_reducible refine Kept.mk_other ?_)
    | decide

theorem Kept.descRead {s0 s : State} (hk0 : Kept s0 s) :
    Kept s0 (State.descRead s) := by
  unfold State.descRead
  try dsimp only
  repeat' first
    | (with_reducible assumption)
    | (split)
    | (with_reducible refine Kept.foldl ?_ ?_)
    | decide
    | (intro u hu x hx)
    | (intro u hu)
    | (refine Kept.notMode_of_mem (by with_reducible assumption) (by decide))
    | (with_reducible apply Kept.emit)
    | (with_reducible apply Kept.corrected)
    | (with_reducible apply Kept.logUe)
    | (with_reducible apply Kept.rewrite)
    | decide

theorem Kept.popRx {s0 s : State} {r : Nat} (hk0 : Kept s0 s) :
    Kept s0 (State.popRx s r) := by
  unfold State.popRx
  try dsimp only
  repeat' first
    | (with_reducible assumption)
    | (split)
    | (with_reducible refine Kept.foldl ?_ ?_)
    | decide
    | (intro u hu x hx)
    | (intro u hu)
    | (refine Kept.notMode_of_mem (by with_reducible assumption) (by decide))
    | (with_reducible refine Kept.wr ?_ (by first | decide | with_reducible assumption | exact Kept.notMode_of_mem (by with_reducible assumption) (by decide) | exact Kept.notMode_of_mem_fst (by with_reducible assumption) (by with_unfolding_all rfl)))
    | (with_reducible refine Kept.wrMode ?_ 4 (by decide) (by first | decide | with_reducible assumption))
    | (with_reducible refine Kept.wrMode ?_ 5 (by decide) (by first | decide | with_reducible assumption))
    | (with_reducible refine Kept.wrMode ?_ 8 (by decide) (by first | decide | with_reducible assumption))
    | (with_reducible apply Kept.emit)
    | (with_reducible apply Kept.setRing)
    | (with_reducible refine Kept.mk_other ?_)
    | decide

theorem Kept.rxPartial {s0 s : State} {r : Nat} {f : RxFrame} {n k : Nat} (h : Kept s0 s) :
    Kept s0 (State.rxPartial s r f n k) := by
  induction n generalizing s k with
  | zero => exact h
  | succ n ih =>
    unfold State.rxPartial
    exact ih (Kept.writeCompletion (Kept.advanceHead (Kept.hostWrite h _ _)))

theorem Kept.cutThrough {s0 s : State} {r : Nat} {f : RxFrame} {bad : Bool} (hk0 : Kept s0 s) :
    Kept s0 (State.cutThrough s r f bad) := by
  unfold State.cutThrough
  try dsimp only
  repeat' first
    | (with_reducible assumption)
    | (split)
    | (with_reducible refine Kept.foldl ?_ ?_)
    | decide
    | (intro u hu x hx)
    | (intro u hu)
    | (refine Kept.notMode_of_mem (by with_reducible assumption) (by decide))
    | (with_reducible apply Kept.emit)
    | (with_reducible apply Kept.rxFind)
    | (with_reducible apply Kept.popRx)
    | (with_reducible apply Kept.freeCells)
    | (with_reducible apply Kept.incWrap)
    | (with_reducible apply Kept.rxPartial)
    | (with_reducible apply Kept.rxWrite)
    | (with_reducible refine Kept.fst ?_ (by with_reducible assumption))
    | (with_reducible refine Kept.snd ?_ (by with_reducible assumption))
    | decide

theorem Kept.evOverflow {s0 s : State} {q : Nat} {ring : Nat} (hk0 : Kept s0 s) :
    Kept s0 (State.evOverflow s q ring) := by
  unfold State.evOverflow
  try dsimp only
  repeat' first
    | (with_reducible assumption)
    | (split)
    | (with_reducible refine Kept.foldl ?_ ?_)
    | decide
    | (intro u hu x hx)
    | (intro u hu)
    | (refine Kept.notMode_of_mem (by with_reducible assumption) (by decide))
    | (with_reducible refine Kept.wr ?_ (by first | decide | with_reducible assumption | exact Kept.notMode_of_mem (by with_reducible assumption) (by decide) | exact Kept.notMode_of_mem_fst (by with_reducible assumption) (by with_unfolding_all rfl)))
    | (with_reducible refine Kept.wrMode ?_ 4 (by decide) (by first | decide | with_reducible assumption))
    | (with_reducible refine Kept.wrMode ?_ 5 (by decide) (by first | decide | with_reducible assumption))
    | (with_reducible refine Kept.wrMode ?_ 8 (by decide) (by first | decide | with_reducible assumption))
    | (with_reducible apply Kept.emit)
    | (with_reducible apply Kept.setSummary)
    | (with_reducible apply Kept.fire)
    | (with_reducible apply Kept.srcEvent)
    | decide

theorem Kept.writeVecCfg {s0 s : State} {v : Nat} {x : Nat} (hk0 : Kept s0 s) :
    Kept s0 (State.writeVecCfg s v x) := by
  unfold State.writeVecCfg
  try dsimp only
  repeat' first
    | (with_reducible assumption)
    | (split)
    | (with_reducible refine Kept.foldl ?_ ?_)
    | decide
    | (intro u hu x hx)
    | (intro u hu)
    | (refine Kept.notMode_of_mem (by with_reducible assumption) (by decide))
    | (with_reducible refine Kept.wr ?_ (by first | decide | with_reducible assumption | exact Kept.notMode_of_mem (by with_reducible assumption) (by decide) | exact Kept.notMode_of_mem_fst (by with_reducible assumption) (by with_unfolding_all rfl)))
    | (with_reducible refine Kept.wrMode ?_ 4 (by decide) (by first | decide | with_reducible assumption))
    | (with_reducible refine Kept.wrMode ?_ 5 (by decide) (by first | decide | with_reducible assumption))
    | (with_reducible refine Kept.wrMode ?_ 8 (by decide) (by first | decide | with_reducible assumption))
    | (with_reducible apply Kept.emit)
    | (with_reducible apply Kept.writeFields)
    | (with_reducible apply Kept.fired)
    | (with_reducible apply Kept.overflowEvent)
    | decide

end Sys2Proof.Machine
end

