-- ==== Sys2Proof/Laws/KeptWinRead.lean ====
section
/-! SUPPORT. What the operations of WinRead keep (Laws/Kept.lean). -/

namespace Sys2Proof.Machine

set_option Elab.async false
set_option linter.all false

theorem Kept.setHold {s0 s : State} {port : Nat} {f : PortHold → PortHold} (hk0 : Kept s0 s) :
    Kept s0 (State.setHold s port f) := by
  unfold State.setHold
  try dsimp only
  repeat' first
    | (with_reducible assumption)
    | (split)
    | (with_reducible refine Kept.foldl ?_ ?_)
    | decide
    | (intro u hu x hx)
    | (intro u hu)
    | (refine Kept.notMode_of_mem (by with_reducible assumption) (by decide))
    | (with_reducible apply Kept.emit)
    | (with_reducible refine Kept.mk_other ?_)
    | decide

theorem Kept.readLatch {s0 s : State} {r : RegInfo} {i : Nat} {port : Nat} (hk0 : Kept s0 s) (hr : ∀ f ∈ r.flds, plainFld f = true) :
    Kept s0 (State.readLatch s r i port) := by
  unfold State.readLatch
  try dsimp only
  repeat' first
    | (with_reducible assumption)
    | (split)
    | (with_reducible refine Kept.foldl ?_ ?_)
    | decide
    | (intro u hu x hx)
    | (intro u hu)
    | (refine Kept.notMode_of_mem (by with_reducible assumption) (by decide))
    | (with_reducible apply Kept.emit)
    | (with_reducible apply Kept.setHold)
    | (with_reducible refine Kept.mk_other ?_)
    | decide

def plainRegs (l : List RegInfo) : Bool := l.all (fun r => r.flds.all plainFld)

theorem glbRegs_plain : plainRegs glbRegs = true := by decide
theorem tbRegs_plain : plainRegs tbRegs = true := by decide
theorem mbxRegs_plain : plainRegs mbxRegs = true := by decide
theorem irqRegs_plain : plainRegs irqRegs = true := by decide
theorem pwrRegs_plain : plainRegs pwrRegs = true := by decide
theorem dmaRegs_plain : plainRegs dmaRegs = true := by decide
theorem fabRegs_plain : plainRegs fabRegs = true := by decide
theorem protRegs_plain : plainRegs protRegs = true := by decide
theorem sluRegs_plain : plainRegs sluRegs = true := by decide
theorem treRegs_plain : plainRegs treRegs = true := by decide
theorem dbRegs_plain : plainRegs dbRegs = true := by decide
theorem pmcRegs_plain : plainRegs pmcRegs = true := by decide
theorem peRegs_plain : plainRegs peRegs = true := by decide
theorem tmxRegs_plain : plainRegs tmxRegs = true := by decide

theorem plainRegs_ite {c : Prop} [Decidable c] {a b : List RegInfo} (ha : plainRegs a = true) (hb : plainRegs b = true) :
    plainRegs (if c then a else b) = true := by
  by_cases h : c
  · rw [if_pos h]; exact ha
  · rw [if_neg h]; exact hb

theorem blockRegs_plain (off : Nat) : plainRegs (blockRegs off) = true := by
  unfold blockRegs
  refine plainRegs_ite glbRegs_plain ?_
  refine plainRegs_ite tbRegs_plain ?_
  refine plainRegs_ite mbxRegs_plain ?_
  refine plainRegs_ite irqRegs_plain ?_
  refine plainRegs_ite pwrRegs_plain ?_
  refine plainRegs_ite dmaRegs_plain ?_
  refine plainRegs_ite fabRegs_plain ?_
  refine plainRegs_ite protRegs_plain ?_
  refine plainRegs_ite sluRegs_plain ?_
  refine plainRegs_ite treRegs_plain ?_
  refine plainRegs_ite dbRegs_plain ?_
  refine plainRegs_ite pmcRegs_plain ?_
  refine plainRegs_ite peRegs_plain ?_
  exact tmxRegs_plain

theorem findReg_mem {l : List RegInfo} {off : Nat} {x : RegInfo × Nat} (h : findReg l off = some x) : x.1 ∈ l := by
  induction l with
  | nil => simp [findReg] at h
  | cons r rs ih =>
    unfold findReg at h
    split at h
    · simp only [Option.some.injEq] at h
      subst h; simp
    · exact List.mem_cons_of_mem _ (ih h)

/-- No register of the window lets an access write a mode: the fields that hold one are read-only. -/
theorem regAt_plain {off : Nat} {r : RegInfo} {i : Nat} (h : regAt off = some (r, i)) : ∀ f ∈ r.flds, plainFld f = true :=
by
  have h1 := blockRegs_plain off
  simp only [plainRegs, List.all_eq_true] at h1
  exact h1 r (findReg_mem h)

theorem Kept.readClearFields {s0 s : State} {r : RegInfo} {i : Nat} (h : Kept s0 s) (hr : ∀ f ∈ r.flds, plainFld f = true) :
    Kept s0 (State.readClearFields s r i) := by
  unfold State.readClearFields
  refine Kept.foldl h ?_
  intro u hu x hx
  have hp := hr x hx
  split
  · rename_i hacc
    simp only [plainFld, hacc, Bool.or_eq_true, decide_eq_true_eq, Bool.and_eq_true] at hp
    rcases hp with hp | ⟨hp, _⟩
    · exact Kept.wr hu hp
    · exact absurd hp (by simp)
  · exact hu

theorem Kept.regReadAt {s0 s : State} {r : RegInfo} {i : Nat} {port : Nat} (hk0 : Kept s0 s) (hr : ∀ f ∈ r.flds, plainFld f = true) :
    Kept s0 (State.regReadAt s r i port).2 := by
  unfold State.regReadAt
  try dsimp only
  repeat' first
    | (with_reducible assumption)
    | (split)
    | (with_reducible refine Kept.foldl ?_ ?_)
    | decide
    | (intro u hu x hx)
    | (intro u hu)
    | (refine Kept.notMode_of_mem (by with_reducible assumption) (by decide))
    | (with_reducible apply Kept.emit)
    | (with_reducible apply Kept.legRead)
    | (with_reducible apply Kept.readLatch)
    | (with_reducible apply Kept.readClearFields)
    | decide

theorem Kept.latchHigh {s0 s : State} {port : Nat} {v : Nat} (hk0 : Kept s0 s) :
    Kept s0 (State.latchHigh s port v).2 := by
  unfold State.latchHigh
  try dsimp only
  repeat' first
    | (with_reducible assumption)
    | (split)
    | (with_reducible refine Kept.foldl ?_ ?_)
    | decide
    | (intro u hu x hx)
    | (intro u hu)
    | (refine Kept.notMode_of_mem (by with_reducible assumption) (by decide))
    | (with_reducible apply Kept.emit)
    | (with_reducible apply Kept.setHold)
    | (with_reducible refine Kept.mk_other ?_)
    | decide

theorem Kept.readOff {s0 s : State} {off : Nat} {port : Nat} {width : Nat} {half : Bool} {quiet : Bool} (hk0 : Kept s0 s) :
    Kept s0 (State.readOff s off port width half quiet).2 := by
  unfold State.readOff
  try dsimp only
  repeat' first
    | (with_reducible assumption)
    | (split)
    | (with_reducible refine Kept.foldl ?_ ?_)
    | decide
    | (intro u hu x hx)
    | (intro u hu)
    | (refine Kept.notMode_of_mem (by with_reducible assumption) (by decide))
    | (with_reducible apply Kept.emit)
    | (with_reducible apply Kept.accessErr)
    | (with_reducible apply Kept.setHold)
    | (with_reducible refine Kept.mk_other ?_)
    | decide

theorem Kept.readErr {s0 s : State} {kind : Nat} {off : Nat} {port : Nat} (hk0 : Kept s0 s) :
    Kept s0 (State.readErr s kind off port).2 := by
  unfold State.readErr
  try dsimp only
  repeat' first
    | (with_reducible assumption)
    | (split)
    | (with_reducible refine Kept.foldl ?_ ?_)
    | decide
    | (intro u hu x hx)
    | (intro u hu)
    | (refine Kept.notMode_of_mem (by with_reducible assumption) (by decide))
    | (with_reducible apply Kept.emit)
    | (with_reducible apply Kept.accessErr)
    | decide

theorem Kept.readWidth {s0 s : State} {off : Nat} {port : Nat} {width : Nat} {bytes : Nat} {on : Bool} {quiet : Bool} {act : State → Nat × State} (hk0 : Kept s0 s) (hact : ∀ u, Kept s0 u → Kept s0 (act u).2) :
    Kept s0 (State.readWidth s off port width bytes on quiet act).2 := by
  unfold State.readWidth
  try dsimp only
  repeat' first
    | (with_reducible assumption)
    | (split)
    | (with_reducible refine Kept.foldl ?_ ?_)
    | decide
    | (intro u hu x hx)
    | (intro u hu)
    | (refine Kept.notMode_of_mem (by with_reducible assumption) (by decide))
    | (refine hact _ ?_)
    | (refine hact _ _ ?_)
    | (refine hact _ _ _ ?_)
    | (with_reducible apply Kept.emit)
    | (with_reducible apply Kept.readErr)
    | (with_reducible apply Kept.readOff)
    | (with_reducible apply Kept.latchHigh)
    | (with_reducible refine Kept.fst ?_ (by with_reducible assumption))
    | (with_reducible refine Kept.snd ?_ (by with_reducible assumption))
    | decide

theorem Kept.readHigh {s0 s : State} {off : Nat} {port : Nat} {on : Bool} {quiet : Bool} (hk0 : Kept s0 s) :
    Kept s0 (State.readHigh s off port on quiet).2 := by
  unfold State.readHigh
  try dsimp only
  repeat' first
    | (with_reducible assumption)
    | (split)
    | (with_reducible refine Kept.foldl ?_ ?_)
    | decide
    | (intro u hu x hx)
    | (intro u hu)
    | (refine Kept.notMode_of_mem (by with_reducible assumption) (by decide))
    | (with_reducible apply Kept.emit)
    | (with_reducible apply Kept.readOff)
    | decide

theorem Kept.readGroup {s0 s : State} {off : Nat} {port : Nat} {width : Nat} {quiet : Bool} (hk0 : Kept s0 s) :
    Kept s0 (State.readGroup s off port width quiet).2 := by
  unfold State.readGroup
  try dsimp only
  repeat' first
    | (with_reducible assumption)
    | (split)
    | (with_reducible refine Kept.foldl ?_ ?_)
    | decide
    | (intro u hu x hx)
    | (intro u hu)
    | (refine Kept.notMode_of_mem (by with_reducible assumption) (by decide))
    | (with_reducible apply Kept.emit)
    | (with_reducible apply Kept.readWidth)
    | (with_reducible apply Kept.readHigh)
    | (with_reducible apply Kept.readErr)
    | (with_reducible refine Kept.fst ?_ (by with_reducible assumption))
    | (with_reducible refine Kept.snd ?_ (by with_reducible assumption))
    | (with_reducible refine Kept.mk_other ?_)
    | decide

theorem Kept.denyUser {s0 s : State} {off : Nat} (hk0 : Kept s0 s) :
    Kept s0 (State.denyUser s off) := by
  unfold State.denyUser
  try dsimp only
  repeat' first
    | (with_reducible assumption)
    | (split)
    | (with_reducible refine Kept.foldl ?_ ?_)
    | decide
    | (intro u hu x hx)
    | (intro u hu)
    | (refine Kept.notMode_of_mem (by with_reducible assumption) (by decide))
    | (with_reducible refine Kept.wr ?_ (by first | decide | with_reducible assumption | exact Kept.notMode_of_mem (by with_reducible assumption) (by decide) | exact Kept.notMode_of_mem_fst (by with_reducible assumption) (by with_unfolding_all rfl)))
    | (with_reducible refine Kept.wrMode ?_ 4 (by decide) (by first | decide | with_reducible assumption))
    | (with_reducible refine Kept.wrMode ?_ 5 (by decide) (by first | decide | with_reducible assumption))
    | (with_reducible refine Kept.wrMode ?_ 8 (by decide) (by first | decide | with_reducible assumption))
    | (with_reducible apply Kept.emit)
    | (with_reducible apply Kept.pmcEvent)
    | decide

theorem Kept.windowRead {s0 s : State} {port : Nat} {off : Nat} {width : Nat} {user : Bool} {quiet : Bool} (hk0 : Kept s0 s) :
    Kept s0 (State.windowRead s port off width user quiet).2 := by
  unfold State.windowRead
  try dsimp only
  repeat' first
    | (with_reducible assumption)
    | (split)
    | (with_reducible refine Kept.foldl ?_ ?_)
    | decide
    | (exact regAt_plain (by with_reducible assumption))
    | (intro u hu x hx)
    | (intro u hu)
    | (refine Kept.notMode_of_mem (by with_reducible assumption) (by decide))
    | (with_reducible apply Kept.emit)
    | (with_reducible apply Kept.readErr)
    | (with_reducible apply Kept.denyUser)
    | (with_reducible apply Kept.readGroup)
    | (with_reducible apply Kept.engWindowRead)
    | (with_reducible apply Kept.readHigh)
    | (with_reducible apply Kept.readWidth)
    | (with_reducible apply Kept.regReadAt)
    | (with_reducible refine Kept.fst ?_ (by with_reducible assumption))
    | (with_reducible refine Kept.snd ?_ (by with_reducible assumption))
    | (with_reducible refine Kept.mk_other ?_)
    | decide

theorem Kept.hostReadWindow {s0 s : State} {port : Nat} {off : Nat} {width : Nat} {user : Bool} (hk0 : Kept s0 s) :
    Kept s0 (State.hostReadWindow s port off width user) := by
  unfold State.hostReadWindow
  try dsimp only
  repeat' first
    | (with_reducible assumption)
    | (split)
    | (with_reducible refine Kept.foldl ?_ ?_)
    | decide
    | (intro u hu x hx)
    | (intro u hu)
    | (refine Kept.notMode_of_mem (by with_reducible assumption) (by decide))
    | (with_reducible apply Kept.emit)
    | (with_reducible apply Kept.tickFree)
    | (with_reducible apply Kept.windowRead)
    | decide

end Sys2Proof.Machine
end

