-- ==== Sys2Proof/Laws/KeptTables.lean ====
section
/-! SUPPORT. What the operations of Tables keep (Laws/Kept.lean). -/

namespace Sys2Proof.Machine

set_option Elab.async false
set_option linter.all false

theorem Kept.insertOne {s0 s : State} {p : List Byte} (hk0 : Kept s0 s) :
    Kept s0 (State.insertOne s p).1 := by
  unfold State.insertOne
  try dsimp only
  repeat' first
    | (with_reducible assumption)
    | (split)
    | (with_reducible refine Kept.foldl ?_ ?_)
    | decide
    | (intro u hu x hx)
    | (intro u hu)
    | (refine Kept.notMode_of_mem (by with_reducible assumption) (by decide))
    | (with_reducible apply Kept.emit)
    | (with_reducible apply Kept.insert)
    | (with_reducible refine Kept.fst ?_ (by with_reducible assumption))
    | (with_reducible refine Kept.snd ?_ (by with_reducible assumption))
    | decide

theorem Kept.deleteOne {s0 u : State} {p : List Byte} (hk0 : Kept s0 u) :
    Kept s0 (State.deleteOne u p).1 := by
  unfold State.deleteOne
  try dsimp only
  repeat' first
    | (with_reducible assumption)
    | (split)
    | (with_reducible refine Kept.foldl ?_ ?_)
    | decide
    | (intro u hu x hx)
    | (intro u hu)
    | (refine Kept.notMode_of_mem (by with_reducible assumption) (by decide))
    | (with_reducible apply Kept.emit)
    | (with_reducible apply Kept.readPlaces)
    | (with_reducible apply Kept.delEntry)
    | (with_reducible refine Kept.fst ?_ (by with_reducible assumption))
    | (with_reducible refine Kept.snd ?_ (by with_reducible assumption))
    | (with_reducible refine Kept.mk_other ?_)
    | decide

theorem Kept.profileRun {s0 s : State} {p : List Byte} (hk0 : Kept s0 s) :
    Kept s0 (State.profileRun s p).1 := by
  unfold State.profileRun
  try dsimp only
  repeat' first
    | (with_reducible assumption)
    | (split)
    | (with_reducible refine Kept.foldl ?_ ?_)
    | decide
    | (intro u hu x hx)
    | (intro u hu)
    | (refine Kept.notMode_of_mem (by with_reducible assumption) (by decide))
    | (with_reducible apply Kept.emit)
    | (with_reducible apply Kept.setTabs)
    | (with_reducible refine Kept.mk_other ?_)
    | decide

theorem Kept.configRun {s0 s : State} {p : List Byte} (hk0 : Kept s0 s) :
    Kept s0 (State.configRun s p).1 := by
  unfold State.configRun
  try dsimp only
  repeat' first
    | (with_reducible assumption)
    | (split)
    | (with_reducible refine Kept.foldl ?_ ?_)
    | decide
    | (intro u hu x hx)
    | (intro u hu)
    | (refine Kept.notMode_of_mem (by with_reducible assumption) (by decide))
    | (with_reducible apply Kept.emit)
    | (with_reducible apply Kept.setTabs)
    | (with_reducible refine Kept.mk_other ?_)
    | decide

theorem Kept.tblRun {s0 s : State} {c : TblCmd} (hk0 : Kept s0 s) :
    Kept s0 (State.tblRun s c).1 := by
  unfold State.tblRun
  try dsimp only
  repeat' first
    | (with_reducible assumption)
    | (split)
    | (with_reducible refine Kept.foldl ?_ ?_)
    | decide
    | (intro u hu x hx)
    | (intro u hu)
    | (refine Kept.notMode_of_mem (by with_reducible assumption) (by decide))
    | (with_reducible apply Kept.emit)
    | (with_reducible apply Kept.insertOne)
    | (with_reducible apply Kept.deleteOne)
    | (with_reducible apply Kept.profileRun)
    | (with_reducible apply Kept.configRun)
    | decide

theorem Kept.tblBegin {s0 s : State} {c : TblCmd} (h : Kept s0 s) : Kept s0 (State.tblBegin s c).1 := by
  unfold State.tblBegin
  dsimp only
  split
  · exact Kept.holdChannel h
  · split
    · exact Kept.holdChannel h
    · exact Kept.foldl (Kept.readFrom h) (fun u hu x hx => Kept.delEntry hu)

theorem Kept.tblNext {s0 s : State} {n : Nat} (h : Kept s0 s) : Kept s0 (State.tblNext n s) := by
  induction n generalizing s with
  | zero => exact h
  | succ n ih =>
    unfold State.tblNext
    split
    · exact h
    · split
      · exact h
      · split
        · split
          · exact ih (Kept.answerLater (Kept.setTabs h))
          · exact Kept.setTabs (Kept.tblBegin h)
        · exact ih (Kept.answerLater (Kept.tblRun (Kept.setTabs h)))

theorem Kept.tblEnd {s0 s : State} {src : Src} {r : Resp} (hk0 : Kept s0 s) :
    Kept s0 (State.tblEnd s src r) := by
  unfold State.tblEnd
  try dsimp only
  repeat' first
    | (with_reducible assumption)
    | (split)
    | (with_reducible refine Kept.foldl ?_ ?_)
    | decide
    | (intro u hu x hx)
    | (intro u hu)
    | (refine Kept.notMode_of_mem (by with_reducible assumption) (by decide))
    | (with_reducible apply Kept.emit)
    | (with_reducible apply Kept.tblNext)
    | (with_reducible apply Kept.setTabs)
    | (with_reducible apply Kept.answerLater)
    | (with_reducible refine Kept.mk_other ?_)
    | decide

theorem Kept.tableCommand {s0 s : State} {code : Nat} {check state : State → List Byte → Option Resp} {src : Src} {p : List Byte}
    (h : Kept s0 s) : Kept s0 (Machine.tableCommand code check state s src p).1 := by
  unfold Machine.tableCommand
  dsimp only
  repeat' first
    | (with_reducible assumption)
    | split
    | (with_reducible apply Kept.tblNext)
    | (with_reducible apply Kept.setTabs)
    | (with_reducible apply Kept.tblRun)

theorem Kept.tableStatus {s0 s : State} {p : List Byte} (hk0 : Kept s0 s) :
    Kept s0 (State.tableStatus s p).1 := by
  unfold State.tableStatus
  try dsimp only
  repeat' first
    | (with_reducible assumption)
    | (split)
    | (with_reducible refine Kept.foldl ?_ ?_)
    | decide
    | (intro u hu x hx)
    | (intro u hu)
    | (refine Kept.notMode_of_mem (by with_reducible assumption) (by decide))
    | (with_reducible apply Kept.emit)
    | (with_reducible apply Kept.setTabs)
    | (with_reducible refine Kept.mk_other ?_)
    | decide

theorem Kept.filterSet {s0 s : State} {p : List Byte} (hk0 : Kept s0 s) :
    Kept s0 (State.filterSet s p).1 := by
  unfold State.filterSet
  try dsimp only
  repeat' first
    | (with_reducible assumption)
    | (split)
    | (with_reducible refine Kept.foldl ?_ ?_)
    | decide
    | (intro u hu x hx)
    | (intro u hu)
    | (refine Kept.notMode_of_mem (by with_reducible assumption) (by decide))
    | (with_reducible apply Kept.emit)
    | (with_reducible apply Kept.setTabs)
    | (with_reducible refine Kept.fst ?_ (by with_reducible assumption))
    | (with_reducible refine Kept.snd ?_ (by with_reducible assumption))
    | (with_reducible refine Kept.mk_other ?_)
    | decide

theorem Kept.bulkOne {s0 s : State} {src : Nat} {status : Nat} {replace : Bool} {i : Nat} (hk0 : Kept s0 s) :
    Kept s0 (State.bulkOne s src status replace i).2 := by
  unfold State.bulkOne
  try dsimp only
  repeat' first
    | (with_reducible assumption)
    | (split)
    | (with_reducible refine Kept.foldl ?_ ?_)
    | decide
    | (intro u hu x hx)
    | (intro u hu)
    | (refine Kept.notMode_of_mem (by with_reducible assumption) (by decide))
    | (with_reducible apply Kept.emit)
    | (with_reducible apply Kept.hostWrite)
    | (with_reducible apply Kept.insert)
    | (with_reducible refine Kept.fst ?_ (by with_reducible assumption))
    | (with_reducible refine Kept.snd ?_ (by with_reducible assumption))
    | (with_reducible refine Kept.mk_other ?_)
    | decide

theorem Kept.bulkInsert {s0 s : State} {src status : Nat} {replace : Bool} {n i : Nat} (h : Kept s0 s) :
    Kept s0 (State.bulkInsert s src status replace n i).2 := by
  induction n generalizing s i with
  | zero => rw [State.bulkInsert]; exact h
  | succ n ih =>
    rw [State.bulkInsert]
    exact ih (Kept.bulkOne h)

theorem Kept.abortHeld {s0 s : State} {ch : Nat} (hk0 : Kept s0 s) :
    Kept s0 (State.abortHeld s ch) := by
  unfold State.abortHeld
  try dsimp only
  repeat' first
    | (with_reducible assumption)
    | (split)
    | (with_reducible refine Kept.foldl ?_ ?_)
    | decide
    | (intro u hu x hx)
    | (intro u hu)
    | (refine Kept.notMode_of_mem (by with_reducible assumption) (by decide))
    | (with_reducible apply Kept.emit)
    | (with_reducible apply Kept.tblEnd)
    | (with_reducible refine Kept.fst ?_ (by with_reducible assumption))
    | (with_reducible refine Kept.snd ?_ (by with_reducible assumption))
    | (with_reducible refine Kept.mk_other ?_)
    | decide

theorem Kept.endIngress {s0 s : State} {i : Ingress} {status : Nat} (hk0 : Kept s0 s) :
    Kept s0 (State.endIngress s i status) := by
  unfold State.endIngress
  try dsimp only
  repeat' first
    | (with_reducible assumption)
    | (split)
    | (with_reducible refine Kept.foldl ?_ ?_)
    | decide
    | (intro u hu x hx)
    | (intro u hu)
    | (refine Kept.notMode_of_mem (by with_reducible assumption) (by decide))
    | (with_reducible apply Kept.emit)
    | (with_reducible apply Kept.freeCells)
    | (with_reducible apply Kept.endFrame)
    | decide

theorem Kept.queueDown {s0 s : State} {i : Ingress} {term : Nat} {port : Nat} {cls : Nat} (hk0 : Kept s0 s) :
    Kept s0 (State.queueDown s i term port cls) := by
  unfold State.queueDown
  try dsimp only
  repeat' first
    | (with_reducible assumption)
    | (split)
    | (with_reducible refine Kept.foldl ?_ ?_)
    | decide
    | (intro u hu x hx)
    | (intro u hu)
    | (refine Kept.notMode_of_mem (by with_reducible assumption) (by decide))
    | (with_reducible apply Kept.emit)
    | (with_reducible apply Kept.endIngress)
    | (with_reducible apply Kept.setTree)
    | (with_reducible apply Kept.cellRead)
    | (with_reducible apply Kept.admitDeep)
    | (with_reducible apply Kept.endFrame)
    | (with_reducible refine Kept.fst ?_ (by with_reducible assumption))
    | (with_reducible refine Kept.snd ?_ (by with_reducible assumption))
    | (with_reducible refine Kept.mk_other ?_)
    | decide

theorem Kept.hitDown {s0 s : State} {i : Ingress} {e : TblEntry} (hk0 : Kept s0 s) :
    Kept s0 (State.hitDown s i e) := by
  unfold State.hitDown
  try dsimp only
  repeat' first
    | (with_reducible assumption)
    | (split)
    | (with_reducible refine Kept.foldl ?_ ?_)
    | decide
    | (intro u hu x hx)
    | (intro u hu)
    | (refine Kept.notMode_of_mem (by with_reducible assumption) (by decide))
    | (with_reducible apply Kept.emit)
    | (with_reducible apply Kept.countFlow)
    | (with_reducible apply Kept.endIngress)
    | (with_reducible apply Kept.rxOffer)
    | (with_reducible apply Kept.setTabs)
    | (with_reducible apply Kept.queueDown)
    | (with_reducible refine Kept.mk_other ?_)
    | decide

theorem Kept.missDown {s0 s : State} {i : Ingress} {q : KeyProfile} (hk0 : Kept s0 s) :
    Kept s0 (State.missDown s i q) := by
  unfold State.missDown
  try dsimp only
  repeat' first
    | (with_reducible assumption)
    | (split)
    | (with_reducible refine Kept.foldl ?_ ?_)
    | decide
    | (intro u hu x hx)
    | (intro u hu)
    | (refine Kept.notMode_of_mem (by with_reducible assumption) (by decide))
    | (with_reducible apply Kept.emit)
    | (with_reducible apply Kept.endIngress)
    | (with_reducible apply Kept.rxOffer)
    | (with_reducible apply Kept.queueDown)
    | decide

theorem Kept.queueLearn {s0 s : State} {r : LearnReq} (hk0 : Kept s0 s) :
    Kept s0 (State.queueLearn s r) := by
  unfold State.queueLearn
  try dsimp only
  repeat' first
    | (with_reducible assumption)
    | (split)
    | (with_reducible refine Kept.foldl ?_ ?_)
    | decide
    | (intro u hu x hx)
    | (intro u hu)
    | (refine Kept.notMode_of_mem (by with_reducible assumption) (by decide))
    | (with_reducible apply Kept.emit)
    | (with_reducible apply Kept.setTabs)
    | (with_reducible refine Kept.mk_other ?_)
    | decide

theorem Kept.refresh {s0 s : State} {e : TblEntry} (hk0 : Kept s0 s) :
    Kept s0 (State.refresh s e) := by
  unfold State.refresh
  try dsimp only
  repeat' first
    | (with_reducible assumption)
    | (split)
    | (with_reducible refine Kept.foldl ?_ ?_)
    | decide
    | (intro u hu x hx)
    | (intro u hu)
    | (refine Kept.notMode_of_mem (by with_reducible assumption) (by decide))
    | (with_reducible apply Kept.emit)
    | (with_reducible apply Kept.lineHit)
    | (with_reducible apply Kept.setTabs)
    | (with_reducible refine Kept.mk_other ?_)
    | decide

theorem Kept.learnLookup {s0 s : State} {f : UsFrame} {q : KeyProfile} {pq : KeyProfile} {keep : Bool} (hk0 : Kept s0 s) :
    Kept s0 (State.learnLookup s f q pq keep).2 := by
  unfold State.learnLookup
  try dsimp only
  repeat' first
    | (with_reducible assumption)
    | (split)
    | (with_reducible refine Kept.foldl ?_ ?_)
    | decide
    | (intro u hu x hx)
    | (intro u hu)
    | (refine Kept.notMode_of_mem (by with_reducible assumption) (by decide))
    | (with_reducible apply Kept.emit)
    | (with_reducible apply Kept.take)
    | (with_reducible refine Kept.lookup ?_ (by with_reducible assumption))
    | (with_reducible apply Kept.countFlow)
    | (with_reducible apply Kept.refresh)
    | (with_reducible apply Kept.queueLearn)
    | (with_reducible apply Kept.setTabs)
    | (with_reducible refine Kept.fst ?_ (by with_reducible assumption))
    | (with_reducible refine Kept.snd ?_ (by with_reducible assumption))
    | (with_reducible refine Kept.mk_other ?_)
    | decide

theorem Kept.classify {s0 s : State} {f : UsFrame} {keep : Bool} (hk0 : Kept s0 s) :
    Kept s0 (State.classify s f keep).2 := by
  unfold State.classify
  try dsimp only
  repeat' first
    | (with_reducible assumption)
    | (split)
    | (with_reducible refine Kept.foldl ?_ ?_)
    | decide
    | (intro u hu x hx)
    | (intro u hu)
    | (refine Kept.notMode_of_mem (by with_reducible assumption) (by decide))
    | (with_reducible apply Kept.emit)
    | (with_reducible apply Kept.setTabs)
    | (with_reducible apply Kept.learnLookup)
    | (with_reducible apply Kept.take)
    | (with_reducible refine Kept.lookup ?_ (by with_reducible assumption))
    | (with_reducible apply Kept.countFlow)
    | (with_reducible refine Kept.fst ?_ (by with_reducible assumption))
    | (with_reducible refine Kept.snd ?_ (by with_reducible assumption))
    | (with_reducible refine Kept.mk_other ?_)
    | decide

theorem Kept.disposeUp {s0 s : State} {f : UsFrame} {v : UsVerdict} (hk0 : Kept s0 s) :
    Kept s0 (State.disposeUp s f v) := by
  unfold State.disposeUp
  try dsimp only
  repeat' first
    | (with_reducible assumption)
    | (split)
    | (with_reducible refine Kept.foldl ?_ ?_)
    | decide
    | (intro u hu x hx)
    | (intro u hu)
    | (refine Kept.notMode_of_mem (by with_reducible assumption) (by decide))
    | (with_reducible apply Kept.emit)
    | (with_reducible apply Kept.rxOffer)
    | (with_reducible apply Kept.freeCells)
    | (with_reducible apply Kept.toEgress)
    | (with_reducible refine Kept.fst ?_ (by with_reducible assumption))
    | (with_reducible refine Kept.snd ?_ (by with_reducible assumption))
    | (with_reducible refine Kept.mk_other ?_)
    | decide

theorem Kept.lookupOnly {s0 s : State} {f : UsFrame} (hk0 : Kept s0 s) :
    Kept s0 (State.lookupOnly s f) := by
  unfold State.lookupOnly
  try dsimp only
  repeat' first
    | (with_reducible assumption)
    | (split)
    | (with_reducible refine Kept.foldl ?_ ?_)
    | decide
    | (intro u hu x hx)
    | (intro u hu)
    | (refine Kept.notMode_of_mem (by with_reducible assumption) (by decide))
    | (with_reducible apply Kept.emit)
    | (with_reducible apply Kept.classify)
    | decide

theorem Kept.ageSlot {s0 s : State} {p : Key} (hk0 : Kept s0 s) :
    Kept s0 (State.ageSlot s p) := by
  unfold State.ageSlot
  try dsimp only
  repeat' first
    | (with_reducible assumption)
    | (split)
    | (with_reducible refine Kept.foldl ?_ ?_)
    | decide
    | (intro u hu x hx)
    | (intro u hu)
    | (refine Kept.notMode_of_mem (by with_reducible assumption) (by decide))
    | (with_reducible apply Kept.emit)
    | (with_reducible apply Kept.putEntry)
    | (with_reducible apply Kept.delEntry)
    | (with_reducible apply Kept.setTabs)
    | (with_reducible apply Kept.blockEvent)
    | (with_reducible refine Kept.fst ?_ (by with_reducible assumption))
    | (with_reducible refine Kept.snd ?_ (by with_reducible assumption))
    | (with_reducible refine Kept.mk_other ?_)
    | decide

theorem Kept.scrubCache {s0 s : State} {line : Nat} (hk0 : Kept s0 s) :
    Kept s0 (State.scrubCache s line) := by
  unfold State.scrubCache
  try dsimp only
  repeat' first
    | (with_reducible assumption)
    | (split)
    | (with_reducible refine Kept.foldl ?_ ?_)
    | decide
    | (intro u hu x hx)
    | (intro u hu)
    | (refine Kept.notMode_of_mem (by with_reducible assumption) (by decide))
    | (with_reducible apply Kept.emit)
    | (with_reducible apply Kept.lineRead)
    | (with_reducible apply Kept.corrected)
    | (with_reducible apply Kept.rewriteWord)
    | (with_reducible apply Kept.logUe)
    | (with_reducible refine Kept.fst ?_ (by with_reducible assumption))
    | (with_reducible refine Kept.snd ?_ (by with_reducible assumption))
    | (with_reducible refine Kept.mk_other ?_)
    | decide

end Sys2Proof.Machine
end

