-- ==== Sys2Proof/Laws/KeptRake.lean ====
section
/-! SUPPORT. What the operations of Rake keep (Laws/Kept.lean). -/

namespace Sys2Proof.Machine

set_option Elab.async false
set_option linter.all false

theorem Kept.setChan {s0 s : State} {c : Nat} {x : RakeChan} (hk0 : Kept s0 s) :
    Kept s0 (State.setChan s c x) := by
  unfold State.setChan
  try dsimp only
  repeat' first
    | (with_reducible assumption)
    | (split)
    | (with_reducible refine Kept.foldl ?_ ?_)
    | decide
    | (intro u hu x hx)
    | (intro u hu)
    | (refine Kept.notMode_of_mem (by with_reducible assumption) (by decide))
    | (with_reducible apply Kept.emit)
    | (with_reducible refine Kept.mk_other ?_)
    | decide

theorem Kept.showProg {s0 s : State} {c : Nat} {p : RakeProg} (hk0 : Kept s0 s) :
    Kept s0 (State.showProg s c p) := by
  unfold State.showProg
  try dsimp only
  repeat' first
    | (with_reducible assumption)
    | (split)
    | (with_reducible refine Kept.foldl ?_ ?_)
    | decide
    | (intro u hu x hx)
    | (intro u hu)
    | (refine Kept.notMode_of_mem (by with_reducible assumption) (by decide))
    | (with_reducible refine Kept.wr ?_ (by first | decide | with_reducible assumption | exact Kept.notMode_of_mem (by with_reducible assumption) (by decide) | exact Kept.notMode_of_mem_fst (by with_reducible assumption) (by with_unfolding_all rfl)))
    | (with_reducible refine Kept.wrMode ?_ 4 (by decide) (by first | decide | with_reducible assumption))
    | (with_reducible refine Kept.wrMode ?_ 5 (by decide) (by first | decide | with_reducible assumption))
    | (with_reducible refine Kept.wrMode ?_ 8 (by decide) (by first | decide | with_reducible assumption))
    | (with_reducible apply Kept.emit)
    | decide

theorem Kept.setPos {s0 s : State} {c : Nat} {pos : Nat} (hk0 : Kept s0 s) :
    Kept s0 (State.setPos s c pos) := by
  unfold State.setPos
  try dsimp only
  repeat' first
    | (with_reducible assumption)
    | (split)
    | (with_reducible refine Kept.foldl ?_ ?_)
    | decide
    | (intro u hu x hx)
    | (intro u hu)
    | (refine Kept.notMode_of_mem (by with_reducible assumption) (by decide))
    | (with_reducible refine Kept.wr ?_ (by first | decide | with_reducible assumption | exact Kept.notMode_of_mem (by with_reducible assumption) (by decide) | exact Kept.notMode_of_mem_fst (by with_reducible assumption) (by with_unfolding_all rfl)))
    | (with_reducible refine Kept.wrMode ?_ 4 (by decide) (by first | decide | with_reducible assumption))
    | (with_reducible refine Kept.wrMode ?_ 5 (by decide) (by first | decide | with_reducible assumption))
    | (with_reducible refine Kept.wrMode ?_ 8 (by decide) (by first | decide | with_reducible assumption))
    | (with_reducible apply Kept.emit)
    | (with_reducible apply Kept.setChan)
    | (with_reducible refine Kept.mk_other ?_)
    | decide

theorem Kept.rakeHalt {s0 s : State} {c : Nat} {cause : Nat} {addr : Nat} (hk0 : Kept s0 s) :
    Kept s0 (State.rakeHalt s c cause addr) := by
  unfold State.rakeHalt
  try dsimp only
  repeat' first
    | (with_reducible assumption)
    | (split)
    | (with_reducible refine Kept.foldl ?_ ?_)
    | decide
    | (intro u hu x hx)
    | (intro u hu)
    | (refine Kept.notMode_of_mem (by with_reducible assumption) (by decide))
    | (with_reducible refine Kept.wr ?_ (by first | decide | with_reducible assumption | exact Kept.notMode_of_mem (by with_reducible assumption) (by decide) | exact Kept.notMode_of_mem_fst (by with_reducible assumption) (by with_unfolding_all rfl)))
    | (with_reducible refine Kept.wrMode ?_ 4 (by decide) (by first | decide | with_reducible assumption))
    | (with_reducible refine Kept.wrMode ?_ 5 (by decide) (by first | decide | with_reducible assumption))
    | (with_reducible refine Kept.wrMode ?_ 8 (by decide) (by first | decide | with_reducible assumption))
    | (with_reducible apply Kept.emit)
    | (with_reducible apply Kept.setChan)
    | (with_reducible apply Kept.chEvent)
    | (with_reducible refine Kept.mk_other ?_)
    | decide

theorem Kept.burstFail {s0 s : State} {c : Nat} {cause : Nat} {addr : Nat} (hk0 : Kept s0 s) :
    Kept s0 (State.burstFail s c cause addr) := by
  unfold State.burstFail
  try dsimp only
  repeat' first
    | (with_reducible assumption)
    | (split)
    | (with_reducible refine Kept.foldl ?_ ?_)
    | decide
    | (intro u hu x hx)
    | (intro u hu)
    | (refine Kept.notMode_of_mem (by with_reducible assumption) (by decide))
    | (with_reducible apply Kept.emit)
    | (with_reducible apply Kept.rakeHalt)
    | (with_reducible apply Kept.setChan)
    | (with_reducible apply Kept.incSat)
    | (with_reducible apply Kept.blockEvent)
    | (with_reducible refine Kept.mk_other ?_)
    | decide

theorem Kept.rakeRun {s0 s : State} {c : Nat} (hk0 : Kept s0 s) :
    Kept s0 (State.rakeRun s c) := by
  unfold State.rakeRun
  try dsimp only
  repeat' first
    | (with_reducible assumption)
    | (split)
    | (with_reducible refine Kept.foldl ?_ ?_)
    | decide
    | (intro u hu x hx)
    | (intro u hu)
    | (refine Kept.notMode_of_mem (by with_reducible assumption) (by decide))
    | (with_reducible refine Kept.wr ?_ (by first | decide | with_reducible assumption | exact Kept.notMode_of_mem (by with_reducible assumption) (by decide) | exact Kept.notMode_of_mem_fst (by with_reducible assumption) (by with_unfolding_all rfl)))
    | (with_reducible refine Kept.wrMode ?_ 4 (by decide) (by first | decide | with_reducible assumption))
    | (with_reducible refine Kept.wrMode ?_ 5 (by decide) (by first | decide | with_reducible assumption))
    | (with_reducible refine Kept.wrMode ?_ 8 (by decide) (by first | decide | with_reducible assumption))
    | (with_reducible apply Kept.emit)
    | decide

theorem Kept.fetchDesc {s0 s : State} {c : Nat} {addr : Nat} (hk0 : Kept s0 s) :
    Kept s0 (State.fetchDesc s c addr) := by
  unfold State.fetchDesc
  try dsimp only
  repeat' first
    | (with_reducible assumption)
    | (split)
    | (with_reducible refine Kept.foldl ?_ ?_)
    | decide
    | (intro u hu x hx)
    | (intro u hu)
    | (refine Kept.notMode_of_mem (by with_reducible assumption) (by decide))
    | (with_reducible refine Kept.wr ?_ (by first | decide | with_reducible assumption | exact Kept.notMode_of_mem (by with_reducible assumption) (by decide) | exact Kept.notMode_of_mem_fst (by with_reducible assumption) (by with_unfolding_all rfl)))
    | (with_reducible refine Kept.wrMode ?_ 4 (by decide) (by first | decide | with_reducible assumption))
    | (with_reducible refine Kept.wrMode ?_ 5 (by decide) (by first | decide | with_reducible assumption))
    | (with_reducible refine Kept.wrMode ?_ 8 (by decide) (by first | decide | with_reducible assumption))
    | (with_reducible apply Kept.emit)
    | (with_reducible apply Kept.showProg)
    | (with_reducible apply Kept.setChan)
    | (with_reducible apply Kept.rakeHalt)
    | (with_reducible apply Kept.setPos)
    | (with_reducible refine Kept.fst ?_ (by with_reducible assumption))
    | (with_reducible refine Kept.snd ?_ (by with_reducible assumption))
    | (with_reducible refine Kept.mk_other ?_)
    | decide

theorem Kept.followLink {s0 s : State} {c : Nat} {kick : Bool} (hk0 : Kept s0 s) :
    Kept s0 (State.followLink s c kick) := by
  unfold State.followLink
  try dsimp only
  repeat' first
    | (with_reducible assumption)
    | (split)
    | (with_reducible refine Kept.foldl ?_ ?_)
    | decide
    | (intro u hu x hx)
    | (intro u hu)
    | (refine Kept.notMode_of_mem (by with_reducible assumption) (by decide))
    | (with_reducible refine Kept.wr ?_ (by first | decide | with_reducible assumption | exact Kept.notMode_of_mem (by with_reducible assumption) (by decide) | exact Kept.notMode_of_mem_fst (by with_reducible assumption) (by with_unfolding_all rfl)))
    | (with_reducible refine Kept.wrMode ?_ 4 (by decide) (by first | decide | with_reducible assumption))
    | (with_reducible refine Kept.wrMode ?_ 5 (by decide) (by first | decide | with_reducible assumption))
    | (with_reducible refine Kept.wrMode ?_ 8 (by decide) (by first | decide | with_reducible assumption))
    | (with_reducible apply Kept.emit)
    | (with_reducible apply Kept.setChan)
    | (with_reducible apply Kept.incSat)
    | (with_reducible apply Kept.rakeHalt)
    | (with_reducible apply Kept.chEvent)
    | (with_reducible apply Kept.fetchDesc)
    | (with_reducible refine Kept.mk_other ?_)
    | decide

theorem Kept.openFence {s0 s : State} {c : Nat} {desc : Bool} (hk0 : Kept s0 s) :
    Kept s0 (State.openFence s c desc) := by
  unfold State.openFence
  try dsimp only
  repeat' first
    | (with_reducible assumption)
    | (split)
    | (with_reducible refine Kept.foldl ?_ ?_)
    | decide
    | (intro u hu x hx)
    | (intro u hu)
    | (refine Kept.notMode_of_mem (by with_reducible assumption) (by decide))
    | (with_reducible apply Kept.emit)
    | (with_reducible apply Kept.chEvent)
    | (with_reducible apply Kept.setChan)
    | (with_reducible refine Kept.mk_other ?_)
    | decide

theorem Kept.programDone {s0 s : State} {c : Nat} (hk0 : Kept s0 s) :
    Kept s0 (State.programDone s c) := by
  unfold State.programDone
  try dsimp only
  repeat' first
    | (with_reducible assumption)
    | (split)
    | (with_reducible refine Kept.foldl ?_ ?_)
    | decide
    | (intro u hu x hx)
    | (intro u hu)
    | (refine Kept.notMode_of_mem (by with_reducible assumption) (by decide))
    | (with_reducible refine Kept.wr ?_ (by first | decide | with_reducible assumption | exact Kept.notMode_of_mem (by with_reducible assumption) (by decide) | exact Kept.notMode_of_mem_fst (by with_reducible assumption) (by with_unfolding_all rfl)))
    | (with_reducible refine Kept.wrMode ?_ 4 (by decide) (by first | decide | with_reducible assumption))
    | (with_reducible refine Kept.wrMode ?_ 5 (by decide) (by first | decide | with_reducible assumption))
    | (with_reducible refine Kept.wrMode ?_ 8 (by decide) (by first | decide | with_reducible assumption))
    | (with_reducible apply Kept.emit)
    | (with_reducible apply Kept.chEvent)
    | (with_reducible apply Kept.incSat)
    | (with_reducible apply Kept.openFence)
    | (with_reducible apply Kept.followLink)
    | decide

theorem Kept.burstDone {s0 s : State} {c : Nat} {len : Nat} (hk0 : Kept s0 s) :
    Kept s0 (State.burstDone s c len) := by
  unfold State.burstDone
  try dsimp only
  repeat' first
    | (with_reducible assumption)
    | (split)
    | (with_reducible refine Kept.foldl ?_ ?_)
    | decide
    | (intro u hu x hx)
    | (intro u hu)
    | (refine Kept.notMode_of_mem (by with_reducible assumption) (by decide))
    | (with_reducible apply Kept.emit)
    | (with_reducible apply Kept.setChan)
    | (with_reducible apply Kept.setPos)
    | (with_reducible apply Kept.incSat)
    | (with_reducible apply Kept.blockEvent)
    | (with_reducible apply Kept.programDone)
    | (with_reducible refine Kept.mk_other ?_)
    | decide

theorem Kept.burstIssued {s0 s : State} {c : Nat} {b : Burst} {data : List Byte} (hk0 : Kept s0 s) :
    Kept s0 (State.burstIssued s c b data) := by
  unfold State.burstIssued
  try dsimp only
  repeat' first
    | (with_reducible assumption)
    | (split)
    | (with_reducible refine Kept.foldl ?_ ?_)
    | decide
    | (intro u hu x hx)
    | (intro u hu)
    | (refine Kept.notMode_of_mem (by with_reducible assumption) (by decide))
    | (with_reducible apply Kept.emit)
    | (with_reducible apply Kept.setChan)
    | (with_reducible refine Kept.mk_other ?_)
    | decide

theorem Kept.sendWrite {s0 s : State} {c : Nat} {b : Burst} {data : List Byte} (hk0 : Kept s0 s) :
    Kept s0 (State.sendWrite s c b data) := by
  unfold State.sendWrite
  try dsimp only
  repeat' first
    | (with_reducible assumption)
    | (split)
    | (with_reducible refine Kept.foldl ?_ ?_)
    | decide
    | (intro u hu x hx)
    | (intro u hu)
    | (refine Kept.notMode_of_mem (by with_reducible assumption) (by decide))
    | (with_reducible apply Kept.emit)
    | (with_reducible apply Kept.take)
    | (with_reducible apply Kept.setChan)
    | (with_reducible apply Kept.sendTo)
    | (with_reducible refine Kept.fst ?_ (by with_reducible assumption))
    | (with_reducible refine Kept.snd ?_ (by with_reducible assumption))
    | (with_reducible refine Kept.mk_other ?_)
    | decide

theorem Kept.sendRead {s0 s : State} {c : Nat} {b : Burst} (hk0 : Kept s0 s) :
    Kept s0 (State.sendRead s c b) := by
  unfold State.sendRead
  try dsimp only
  repeat' first
    | (with_reducible assumption)
    | (split)
    | (with_reducible refine Kept.foldl ?_ ?_)
    | decide
    | (intro u hu x hx)
    | (intro u hu)
    | (refine Kept.notMode_of_mem (by with_reducible assumption) (by decide))
    | (with_reducible apply Kept.emit)
    | (with_reducible apply Kept.setChan)
    | (with_reducible apply Kept.sendTo)
    | (with_reducible refine Kept.fst ?_ (by with_reducible assumption))
    | (with_reducible refine Kept.snd ?_ (by with_reducible assumption))
    | (with_reducible refine Kept.mk_other ?_)
    | decide

theorem Kept.burstWrite {s0 s : State} {c : Nat} {b : Burst} {data : List Byte} (hk0 : Kept s0 s) :
    Kept s0 (State.burstWrite s c b data) := by
  unfold State.burstWrite
  try dsimp only
  repeat' first
    | (with_reducible assumption)
    | (split)
    | (with_reducible refine Kept.foldl ?_ ?_)
    | decide
    | (intro u hu x hx)
    | (intro u hu)
    | (refine Kept.notMode_of_mem (by with_reducible assumption) (by decide))
    | (with_reducible apply Kept.emit)
    | (with_reducible apply Kept.hostWrite)
    | (with_reducible apply Kept.burstIssued)
    | (with_reducible apply Kept.burstDone)
    | (with_reducible apply Kept.setChan)
    | (with_reducible apply Kept.burstFail)
    | (with_reducible apply Kept.sendWrite)
    | (with_reducible refine Kept.fst ?_ (by with_reducible assumption))
    | (with_reducible refine Kept.snd ?_ (by with_reducible assumption))
    | (with_reducible refine Kept.mk_scratch ?_)
    | (with_reducible refine Kept.mk_other ?_)
    | decide

theorem Kept.readElems {s0 s : State} {sp port e n off : Nat} (h : Kept s0 s) :
    Kept s0 (State.readElems s sp port e n off).2 := by
  induction n generalizing s off with
  | zero => exact h
  | succ n ih =>
    unfold State.readElems
    dsimp only
    apply ih
    split
    · exact Kept.windowRead h
    · exact h

theorem Kept.takeTel {s0 s : State} {c : Nat} {n : Nat} (hk0 : Kept s0 s) :
    Kept s0 (State.takeTel s c n).2 := by
  unfold State.takeTel
  try dsimp only
  repeat' first
    | (with_reducible assumption)
    | (split)
    | (with_reducible refine Kept.foldl ?_ ?_)
    | decide
    | (intro u hu x hx)
    | (intro u hu)
    | (refine Kept.notMode_of_mem (by with_reducible assumption) (by decide))
    | (with_reducible apply Kept.emit)
    | (with_reducible apply Kept.take)
    | (with_reducible apply Kept.setTel)
    | (with_reducible apply Kept.setChan)
    | (with_reducible refine Kept.mk_other ?_)
    | decide

theorem Kept.takeElems {s0 s : State} {c : Nat} {b : Burst} (hk0 : Kept s0 s) :
    Kept s0 (State.takeElems s c b).2 := by
  unfold State.takeElems
  try dsimp only
  repeat' first
    | (with_reducible assumption)
    | (split)
    | (with_reducible refine Kept.foldl ?_ ?_)
    | decide
    | (intro u hu x hx)
    | (intro u hu)
    | (refine Kept.notMode_of_mem (by with_reducible assumption) (by decide))
    | (with_reducible apply Kept.emit)
    | (with_reducible apply Kept.take)
    | (with_reducible apply Kept.setChan)
    | (with_reducible apply Kept.readElems)
    | (with_reducible refine Kept.fst ?_ (by with_reducible assumption))
    | (with_reducible refine Kept.snd ?_ (by with_reducible assumption))
    | (with_reducible refine Kept.mk_other ?_)
    | decide

theorem Kept.issueBurst {s0 s : State} {c : Nat} (h : Kept s0 s) : Kept s0 (State.issueBurst s c) := by
  unfold State.issueBurst
  extract_lets x b s1
  have h1 : Kept s0 s1 := Kept.setChan h
  clear_value x b s1
  split
  · exact Kept.burstWrite h1
  · exact Kept.burstWrite h1
  · exact Kept.burstWrite (Kept.takeTel h1)
  · split
    · exact Kept.burstFail h1
    · exact Kept.sendRead h1
  · exact Kept.burstWrite (Kept.takeElems h1)

theorem Kept.startRefused {s0 s : State} {c : Nat} {code : Option Nat} (hk0 : Kept s0 s) :
    Kept s0 (State.startRefused s c code) := by
  unfold State.startRefused
  try dsimp only
  repeat' first
    | (with_reducible assumption)
    | (split)
    | (with_reducible refine Kept.foldl ?_ ?_)
    | decide
    | (intro u hu x hx)
    | (intro u hu)
    | (refine Kept.notMode_of_mem (by with_reducible assumption) (by decide))
    | (with_reducible refine Kept.wr ?_ (by first | decide | with_reducible assumption | exact Kept.notMode_of_mem (by with_reducible assumption) (by decide) | exact Kept.notMode_of_mem_fst (by with_reducible assumption) (by with_unfolding_all rfl)))
    | (with_reducible refine Kept.wrMode ?_ 4 (by decide) (by first | decide | with_reducible assumption))
    | (with_reducible refine Kept.wrMode ?_ 5 (by decide) (by first | decide | with_reducible assumption))
    | (with_reducible refine Kept.wrMode ?_ 8 (by decide) (by first | decide | with_reducible assumption))
    | (with_reducible apply Kept.emit)
    | (with_reducible apply Kept.chEvent)
    | (with_reducible refine Kept.fst ?_ (by with_reducible assumption))
    | (with_reducible refine Kept.snd ?_ (by with_reducible assumption))
    | (with_reducible refine Kept.mk_other ?_)
    | decide

theorem Kept.rakeStart {s0 s : State} {c : Nat} (hk0 : Kept s0 s) :
    Kept s0 (State.rakeStart s c) := by
  unfold State.rakeStart
  try dsimp only
  repeat' first
    | (with_reducible assumption)
    | (split)
    | (with_reducible refine Kept.foldl ?_ ?_)
    | decide
    | (intro u hu x hx)
    | (intro u hu)
    | (refine Kept.notMode_of_mem (by with_reducible assumption) (by decide))
    | (with_reducible refine Kept.wr ?_ (by first | decide | with_reducible assumption | exact Kept.notMode_of_mem (by with_reducible assumption) (by decide) | exact Kept.notMode_of_mem_fst (by with_reducible assumption) (by with_unfolding_all rfl)))
    | (with_reducible refine Kept.wrMode ?_ 4 (by decide) (by first | decide | with_reducible assumption))
    | (with_reducible refine Kept.wrMode ?_ 5 (by decide) (by first | decide | with_reducible assumption))
    | (with_reducible refine Kept.wrMode ?_ 8 (by decide) (by first | decide | with_reducible assumption))
    | (with_reducible apply Kept.emit)
    | (with_reducible apply Kept.startRefused)
    | (with_reducible apply Kept.wrB)
    | (with_reducible apply Kept.setChan)
    | (with_reducible apply Kept.fetchDesc)
    | (with_reducible apply Kept.setPos)
    | (with_reducible apply Kept.rakeRun)
    | (with_reducible refine Kept.fst ?_ (by with_reducible assumption))
    | (with_reducible refine Kept.snd ?_ (by with_reducible assumption))
    | (with_reducible refine Kept.mk_other ?_)
    | decide

theorem Kept.rakeResume {s0 s : State} {c : Nat} (hk0 : Kept s0 s) :
    Kept s0 (State.rakeResume s c) := by
  unfold State.rakeResume
  try dsimp only
  repeat' first
    | (with_reducible assumption)
    | (split)
    | (with_reducible refine Kept.foldl ?_ ?_)
    | decide
    | (intro u hu x hx)
    | (intro u hu)
    | (refine Kept.notMode_of_mem (by with_reducible assumption) (by decide))
    | (with_reducible refine Kept.wr ?_ (by first | decide | with_reducible assumption | exact Kept.notMode_of_mem (by with_reducible assumption) (by decide) | exact Kept.notMode_of_mem_fst (by with_reducible assumption) (by with_unfolding_all rfl)))
    | (with_reducible refine Kept.wrMode ?_ 4 (by decide) (by first | decide | with_reducible assumption))
    | (with_reducible refine Kept.wrMode ?_ 5 (by decide) (by first | decide | with_reducible assumption))
    | (with_reducible refine Kept.wrMode ?_ 8 (by decide) (by first | decide | with_reducible assumption))
    | (with_reducible apply Kept.emit)
    | (with_reducible apply Kept.fetchDesc)
    | (with_reducible apply Kept.rakeRun)
    | (with_reducible apply Kept.followLink)
    | decide

theorem Kept.rakeFence {s0 s : State} {c : Nat} (hk0 : Kept s0 s) :
    Kept s0 (State.rakeFence s c) := by
  unfold State.rakeFence
  try dsimp only
  repeat' first
    | (with_reducible assumption)
    | (split)
    | (with_reducible refine Kept.foldl ?_ ?_)
    | decide
    | (intro u hu x hx)
    | (intro u hu)
    | (refine Kept.notMode_of_mem (by with_reducible assumption) (by decide))
    | (with_reducible apply Kept.emit)
    | (with_reducible apply Kept.openFence)
    | decide

theorem Kept.rakeDisable {s0 s : State} {c : Nat} (hk0 : Kept s0 s) :
    Kept s0 (State.rakeDisable s c) := by
  unfold State.rakeDisable
  try dsimp only
  repeat' first
    | (with_reducible assumption)
    | (split)
    | (with_reducible refine Kept.foldl ?_ ?_)
    | decide
    | (intro u hu x hx)
    | (intro u hu)
    | (refine Kept.notMode_of_mem (by with_reducible assumption) (by decide))
    | (with_reducible refine Kept.wr ?_ (by first | decide | with_reducible assumption | exact Kept.notMode_of_mem (by with_reducible assumption) (by decide) | exact Kept.notMode_of_mem_fst (by with_reducible assumption) (by with_unfolding_all rfl)))
    | (with_reducible refine Kept.wrMode ?_ 4 (by decide) (by first | decide | with_reducible assumption))
    | (with_reducible refine Kept.wrMode ?_ 5 (by decide) (by first | decide | with_reducible assumption))
    | (with_reducible refine Kept.wrMode ?_ 8 (by decide) (by first | decide | with_reducible assumption))
    | (with_reducible apply Kept.emit)
    | (with_reducible apply Kept.abortHeld)
    | (with_reducible apply Kept.answerLater)
    | (with_reducible apply Kept.pumpAll)
    | (with_reducible apply Kept.setMon)
    | (with_reducible apply Kept.setChan)
    | (with_reducible apply Kept.wrFree)
    | (with_reducible refine Kept.mk_other ?_)
    | decide

theorem Kept.writeDmaCtl {s0 s : State} {c : Nat} {v : Nat} (hk0 : Kept s0 s) :
    Kept s0 (State.writeDmaCtl s c v) := by
  unfold State.writeDmaCtl
  try dsimp only
  repeat' first
    | (with_reducible assumption)
    | (split)
    | (with_reducible refine Kept.foldl ?_ ?_)
    | decide
    | (intro u hu x hx)
    | (intro u hu)
    | (refine Kept.notMode_of_mem (by with_reducible assumption) (by decide))
    | (with_reducible apply Kept.emit)
    | (with_reducible apply Kept.writeFields)
    | (with_reducible apply Kept.rakeDisable)
    | (with_reducible apply Kept.rakeStart)
    | (with_reducible apply Kept.rakeFence)
    | (with_reducible apply Kept.rakeResume)
    | decide

theorem Kept.rakeKick {s0 s : State} {c : Nat} (hk0 : Kept s0 s) :
    Kept s0 (State.rakeKick s c) := by
  unfold State.rakeKick
  try dsimp only
  repeat' first
    | (with_reducible assumption)
    | (split)
    | (with_reducible refine Kept.foldl ?_ ?_)
    | decide
    | (intro u hu x hx)
    | (intro u hu)
    | (refine Kept.notMode_of_mem (by with_reducible assumption) (by decide))
    | (with_reducible apply Kept.emit)
    | (with_reducible apply Kept.followLink)
    | (with_reducible apply Kept.incSat)
    | decide

theorem Kept.haltAt {s0 s : State} {c : Nat} {cause : Nat} {i : RakeIssued} (hk0 : Kept s0 s) :
    Kept s0 (State.haltAt s c cause i) := by
  unfold State.haltAt
  try dsimp only
  repeat' first
    | (with_reducible assumption)
    | (split)
    | (with_reducible refine Kept.foldl ?_ ?_)
    | decide
    | (intro u hu x hx)
    | (intro u hu)
    | (refine Kept.notMode_of_mem (by with_reducible assumption) (by decide))
    | (with_reducible refine Kept.wr ?_ (by first | decide | with_reducible assumption | exact Kept.notMode_of_mem (by with_reducible assumption) (by decide) | exact Kept.notMode_of_mem_fst (by with_reducible assumption) (by with_unfolding_all rfl)))
    | (with_reducible refine Kept.wrMode ?_ 4 (by decide) (by first | decide | with_reducible assumption))
    | (with_reducible refine Kept.wrMode ?_ 5 (by decide) (by first | decide | with_reducible assumption))
    | (with_reducible refine Kept.wrMode ?_ 8 (by decide) (by first | decide | with_reducible assumption))
    | (with_reducible apply Kept.emit)
    | (with_reducible apply Kept.rakeHalt)
    | (with_reducible apply Kept.setChan)
    | (with_reducible apply Kept.setPos)
    | (with_reducible refine Kept.mk_other ?_)
    | decide

theorem Kept.remoteWriteFail {s0 s : State} {c : Nat} {w : RemoteWrite} (hk0 : Kept s0 s) :
    Kept s0 (State.remoteWriteFail s c w) := by
  unfold State.remoteWriteFail
  try dsimp only
  repeat' first
    | (with_reducible assumption)
    | (split)
    | (with_reducible refine Kept.foldl ?_ ?_)
    | decide
    | (intro u hu x hx)
    | (intro u hu)
    | (refine Kept.notMode_of_mem (by with_reducible assumption) (by decide))
    | (with_reducible apply Kept.emit)
    | (with_reducible apply Kept.haltAt)
    | (with_reducible apply Kept.setChan)
    | (with_reducible apply Kept.incSat)
    | (with_reducible apply Kept.blockEvent)
    | (with_reducible apply Kept.sendTo)
    | (with_reducible refine Kept.fst ?_ (by with_reducible assumption))
    | (with_reducible refine Kept.snd ?_ (by with_reducible assumption))
    | (with_reducible refine Kept.mk_other ?_)
    | decide

theorem Kept.remoteWritten {s0 s : State} {c : Nat} {w : RemoteWrite} (hk0 : Kept s0 s) :
    Kept s0 (State.remoteWritten s c w) := by
  unfold State.remoteWritten
  try dsimp only
  repeat' first
    | (with_reducible assumption)
    | (split)
    | (with_reducible refine Kept.foldl ?_ ?_)
    | decide
    | (intro u hu x hx)
    | (intro u hu)
    | (refine Kept.notMode_of_mem (by with_reducible assumption) (by decide))
    | (with_reducible apply Kept.emit)
    | (with_reducible apply Kept.setChan)
    | (with_reducible refine Kept.mk_other ?_)
    | decide

theorem Kept.remoteAnswer {s0 s : State} {m : RemoteRsp} (hk0 : Kept s0 s) :
    Kept s0 (State.remoteAnswer s m) := by
  unfold State.remoteAnswer
  try dsimp only
  repeat' first
    | (with_reducible assumption)
    | (split)
    | (with_reducible refine Kept.foldl ?_ ?_)
    | decide
    | (intro u hu x hx)
    | (intro u hu)
    | (refine Kept.notMode_of_mem (by with_reducible assumption) (by decide))
    | (with_reducible apply Kept.emit)
    | (with_reducible apply Kept.remoteWriteFail)
    | (with_reducible apply Kept.remoteWritten)
    | (with_reducible apply Kept.burstFail)
    | (with_reducible apply Kept.setChan)
    | (with_reducible apply Kept.burstWrite)
    | (with_reducible apply Kept.take)
    | (with_reducible refine Kept.fst ?_ (by with_reducible assumption))
    | (with_reducible refine Kept.snd ?_ (by with_reducible assumption))
    | (with_reducible refine Kept.mk_other ?_)
    | decide

end Sys2Proof.Machine
end

