-- ==== Sys2Proof/Laws/KeptFabric.lean ====
section
/-! SUPPORT. What the operations of Fabric keep (Laws/Kept.lean). -/

namespace Sys2Proof.Machine

set_option Elab.async false
set_option linter.all false

theorem Kept.laneHunt {s0 s : State} {l : Nat} {role : Nat} {vs : List Bool} {prev : Nat} (hk0 : Kept s0 s) :
    Kept s0 (State.laneHunt s l role vs prev) := by
  unfold State.laneHunt
  try dsimp only
  repeat' first
    | (with_reducible assumption)
    | (split)
    | (with_reducible refine Kept.foldl ?_ ?_)
    | decide
    | (intro u hu x hx)
    | (intro u hu)
    | (refine Kept.notMode_of_mem (by with_reducible assumption) (by decide))
    | (with_reducible refine Kept.wr ?_ (by first | decide | with_reducible assumption | exact Kept.notMode_of_mem (by with_reducible assumption) (by decide) | exact Kept.notMode_of_mem_fst (by with_reducible assumption) (by with_unfolding_all rfl)))
    | (with_reducible refine Kept.wrMode ?_ 4 (by decide) (by first | decide | with_reducible assumption))
    | (with_reducible refine Kept.wrMode ?_ 5 (by decide) (by first | decide | with_reducible assumption))
    | (with_reducible refine Kept.wrMode ?_ 8 (by decide) (by first | decide | with_reducible assumption))
    | (with_reducible apply Kept.emit)
    | (with_reducible apply Kept.setLink)
    | (with_reducible apply Kept.wrB)
    | (with_reducible apply Kept.lockLost)
    | (with_reducible refine Kept.mk_other ?_)
    | decide

theorem Kept.laneLos {s0 s : State} {l : Nat} {role : Nat} (hk0 : Kept s0 s) :
    Kept s0 (State.laneLos s l role) := by
  unfold State.laneLos
  try dsimp only
  repeat' first
    | (with_reducible assumption)
    | (split)
    | (with_reducible refine Kept.foldl ?_ ?_)
    | decide
    | (intro u hu x hx)
    | (intro u hu)
    | (refine Kept.notMode_of_mem (by with_reducible assumption) (by decide))
    | (with_reducible refine Kept.wr ?_ (by first | decide | with_reducible assumption | exact Kept.notMode_of_mem (by with_reducible assumption) (by decide) | exact Kept.notMode_of_mem_fst (by with_reducible assumption) (by with_unfolding_all rfl)))
    | (with_reducible refine Kept.wrMode ?_ 4 (by decide) (by first | decide | with_reducible assumption))
    | (with_reducible refine Kept.wrMode ?_ 5 (by decide) (by first | decide | with_reducible assumption))
    | (with_reducible refine Kept.wrMode ?_ 8 (by decide) (by first | decide | with_reducible assumption))
    | (with_reducible apply Kept.emit)
    | (with_reducible apply Kept.setLink)
    | (with_reducible apply Kept.wrB)
    | (with_reducible apply Kept.lockLost)
    | (with_reducible refine Kept.mk_other ?_)
    | decide

theorem Kept.hearWord {s0 s : State} {l : Nat} {typed : Bool} {bs : List LaneBlock} (hk0 : Kept s0 s) :
    Kept s0 (State.hearWord s l typed bs) := by
  unfold State.hearWord
  try dsimp only
  repeat' first
    | (with_reducible assumption)
    | (split)
    | (with_reducible refine Kept.foldl ?_ ?_)
    | decide
    | (intro u hu x hx)
    | (intro u hu)
    | (refine Kept.notMode_of_mem (by with_reducible assumption) (by decide))
    | (with_reducible apply Kept.emit)
    | (with_reducible apply Kept.laneHunt)
    | decide

theorem Kept.hearWords {s0 s : State} {l : Nat} {ws : List (List LaneBlock)} (h : Kept s0 s) : Kept s0 (State.hearWords s l ws).1 := by
  induction ws generalizing s with
  | nil => exact h
  | cons w r ih =>
    unfold State.hearWords
    exact ih (Kept.hearWord h)

theorem Kept.sendHello {s0 s : State} {l : Nat} (hk0 : Kept s0 s) :
    Kept s0 (State.sendHello s l) := by
  unfold State.sendHello
  try dsimp only
  repeat' first
    | (with_reducible assumption)
    | (split)
    | (with_reducible refine Kept.foldl ?_ ?_)
    | decide
    | (intro u hu x hx)
    | (intro u hu)
    | (refine Kept.notMode_of_mem (by with_reducible assumption) (by decide))
    | (with_reducible apply Kept.emit)
    | (with_reducible apply Kept.setLink)
    | (with_reducible apply Kept.linkSend)
    | (with_reducible refine Kept.mk_other ?_)
    | decide

theorem Kept.gainLock {s0 s : State} {l : Nat} {skew : Nat} (hk0 : Kept s0 s) :
    Kept s0 (State.gainLock s l skew) := by
  unfold State.gainLock
  try dsimp only
  repeat' first
    | (with_reducible assumption)
    | (split)
    | (with_reducible refine Kept.foldl ?_ ?_)
    | decide
    | (intro u hu x hx)
    | (intro u hu)
    | (refine Kept.notMode_of_mem (by with_reducible assumption) (by decide))
    | (with_reducible refine Kept.wr ?_ (by first | decide | with_reducible assumption | exact Kept.notMode_of_mem (by with_reducible assumption) (by decide) | exact Kept.notMode_of_mem_fst (by with_reducible assumption) (by with_unfolding_all rfl)))
    | (with_reducible refine Kept.wrMode ?_ 4 (by decide) (by first | decide | with_reducible assumption))
    | (with_reducible refine Kept.wrMode ?_ 5 (by decide) (by first | decide | with_reducible assumption))
    | (with_reducible refine Kept.wrMode ?_ 8 (by decide) (by first | decide | with_reducible assumption))
    | (with_reducible apply Kept.emit)
    | (with_reducible apply Kept.linkState)
    | (with_reducible apply Kept.setLink)
    | (with_reducible apply Kept.sendHello)
    | (with_reducible refine Kept.mk_other ?_)
    | decide

theorem Kept.codewordBad {s0 s : State} {l : Nat} (hk0 : Kept s0 s) :
    Kept s0 (State.codewordBad s l) := by
  unfold State.codewordBad
  try dsimp only
  repeat' first
    | (with_reducible assumption)
    | (split)
    | (with_reducible refine Kept.foldl ?_ ?_)
    | decide
    | (intro u hu x hx)
    | (intro u hu)
    | (refine Kept.notMode_of_mem (by with_reducible assumption) (by decide))
    | (with_reducible apply Kept.emit)
    | (with_reducible apply Kept.incSat)
    | (with_reducible apply Kept.setLink)
    | (with_reducible apply Kept.fabEvent)
    | (with_reducible apply Kept.lockLost)
    | (with_reducible refine Kept.mk_other ?_)
    | decide

theorem Kept.codewordGood {s0 s : State} {l : Nat} {corrected : Nat} {bs : List LaneBlock} (hk0 : Kept s0 s) :
    Kept s0 (State.codewordGood s l corrected bs) := by
  unfold State.codewordGood
  try dsimp only
  repeat' first
    | (with_reducible assumption)
    | (split)
    | (with_reducible refine Kept.foldl ?_ ?_)
    | decide
    | (intro u hu x hx)
    | (intro u hu)
    | (refine Kept.notMode_of_mem (by with_reducible assumption) (by decide))
    | (with_reducible apply Kept.emit)
    | (with_reducible apply Kept.incSat)
    | (with_reducible apply Kept.corrected)
    | (with_reducible apply Kept.linkPump)
    | (with_reducible apply Kept.setLink)
    | (with_reducible refine Kept.mk_other ?_)
    | decide

theorem Kept.codewordIn {s0 s : State} {l : Nat} {d : List LaneBlock} (hk0 : Kept s0 s) :
    Kept s0 (State.codewordIn s l d) := by
  unfold State.codewordIn
  try dsimp only
  repeat' first
    | (with_reducible assumption)
    | (split)
    | (with_reducible refine Kept.foldl ?_ ?_)
    | decide
    | (intro u hu x hx)
    | (intro u hu)
    | (refine Kept.notMode_of_mem (by with_reducible assumption) (by decide))
    | (with_reducible apply Kept.emit)
    | (with_reducible apply Kept.codewordBad)
    | (with_reducible apply Kept.codewordGood)
    | (with_reducible refine Kept.fst ?_ (by with_reducible assumption))
    | (with_reducible refine Kept.snd ?_ (by with_reducible assumption))
    | (with_reducible refine Kept.mk_other ?_)
    | decide

theorem Kept.cellSeen {s0 s : State} {l : Nat} {k : Nat} (hk0 : Kept s0 s) :
    Kept s0 (State.cellSeen s l k) := by
  unfold State.cellSeen
  try dsimp only
  repeat' first
    | (with_reducible assumption)
    | (split)
    | (with_reducible refine Kept.foldl ?_ ?_)
    | decide
    | (intro u hu x hx)
    | (intro u hu)
    | (refine Kept.notMode_of_mem (by with_reducible assumption) (by decide))
    | (with_reducible apply Kept.emit)
    | (with_reducible apply Kept.incWrap)
    | (with_reducible apply Kept.blockEvent)
    | (with_reducible apply Kept.setLink)
    | (with_reducible refine Kept.mk_other ?_)
    | decide

theorem Kept.helloIn {s0 s : State} {l : Nat} {h : Hello} (hk0 : Kept s0 s) :
    Kept s0 (State.helloIn s l h) := by
  unfold State.helloIn
  try dsimp only
  repeat' first
    | (with_reducible assumption)
    | (split)
    | (with_reducible refine Kept.foldl ?_ ?_)
    | decide
    | (intro u hu x hx)
    | (intro u hu)
    | (refine Kept.notMode_of_mem (by with_reducible assumption) (by decide))
    | (with_reducible refine Kept.wr ?_ (by first | decide | with_reducible assumption | exact Kept.notMode_of_mem (by with_reducible assumption) (by decide) | exact Kept.notMode_of_mem_fst (by with_reducible assumption) (by with_unfolding_all rfl)))
    | (with_reducible refine Kept.wrMode ?_ 4 (by decide) (by first | decide | with_reducible assumption))
    | (with_reducible refine Kept.wrMode ?_ 5 (by decide) (by first | decide | with_reducible assumption))
    | (with_reducible refine Kept.wrMode ?_ 8 (by decide) (by first | decide | with_reducible assumption))
    | (with_reducible apply Kept.emit)
    | (with_reducible apply Kept.adjRemove)
    | (with_reducible apply Kept.fabEvent)
    | (with_reducible apply Kept.setLink)
    | (with_reducible apply Kept.adjChanged)
    | (with_reducible apply Kept.adjForm)
    | (with_reducible refine Kept.mk_other ?_)
    | decide

theorem Kept.cellDrop {s0 s : State} {f : Fld} (hk0 : Kept s0 s) (hf : f.num ∉ modeNums) :
    Kept s0 (State.cellDrop s f) := by
  unfold State.cellDrop
  try dsimp only
  repeat' first
    | (with_reducible assumption)
    | (split)
    | (with_reducible refine Kept.foldl ?_ ?_)
    | decide
    | (intro u hu x hx)
    | (intro u hu)
    | (refine Kept.notMode_of_mem (by with_reducible assumption) (by decide))
    | (with_reducible apply Kept.emit)
    | (with_reducible apply Kept.incSat)
    | (with_reducible apply Kept.blockEvent)
    | decide

theorem Kept.cellForward {s0 s : State} {c : List Byte} (hk0 : Kept s0 s) :
    Kept s0 (State.cellForward s c) := by
  unfold State.cellForward
  try dsimp only
  repeat' first
    | (with_reducible assumption)
    | (split)
    | (with_reducible refine Kept.foldl ?_ ?_)
    | decide
    | (intro u hu x hx)
    | (intro u hu)
    | (refine Kept.notMode_of_mem (by with_reducible assumption) (by decide))
    | (with_reducible apply Kept.emit)
    | (with_reducible apply Kept.blockEvent)
    | (with_reducible apply Kept.sendTo)
    | decide

theorem Kept.cellIn {s0 s : State} {l : Nat} {c : List Byte} (hk0 : Kept s0 s) :
    Kept s0 (State.cellIn s l c) := by
  unfold State.cellIn
  try dsimp only
  repeat' first
    | (with_reducible assumption)
    | (split)
    | (with_reducible refine Kept.foldl ?_ ?_)
    | decide
    | (intro u hu x hx)
    | (intro u hu)
    | (refine Kept.notMode_of_mem (by with_reducible assumption) (by decide))
    | (with_reducible apply Kept.emit)
    | (with_reducible apply Kept.cellDrop)
    | (with_reducible apply Kept.flood)
    | (with_reducible apply Kept.blockEvent)
    | (with_reducible apply Kept.cellForward)
    | decide

theorem Kept.floodOn {s0 s : State} {l : Nat} {c : List Byte} (hk0 : Kept s0 s) :
    Kept s0 (State.floodOn s l c) := by
  unfold State.floodOn
  try dsimp only
  repeat' first
    | (with_reducible assumption)
    | (split)
    | (with_reducible refine Kept.foldl ?_ ?_)
    | decide
    | (intro u hu x hx)
    | (intro u hu)
    | (refine Kept.notMode_of_mem (by with_reducible assumption) (by decide))
    | (with_reducible apply Kept.emit)
    | (with_reducible apply Kept.flood)
    | (with_reducible apply Kept.blockEvent)
    | decide

theorem Kept.claimIn {s0 s : State} {l : Nat} {c : List Byte} (hk0 : Kept s0 s) :
    Kept s0 (State.claimIn s l c) := by
  unfold State.claimIn
  try dsimp only
  repeat' first
    | (with_reducible assumption)
    | (split)
    | (with_reducible refine Kept.foldl ?_ ?_)
    | decide
    | (intro u hu x hx)
    | (intro u hu)
    | (refine Kept.notMode_of_mem (by with_reducible assumption) (by decide))
    | (with_reducible apply Kept.emit)
    | (with_reducible refine Kept.floodNew ?_ (by with_reducible assumption))
    | (with_reducible apply Kept.putFab)
    | (with_reducible apply Kept.floodOn)
    | (with_reducible apply Kept.rivalClaim)
    | (with_reducible refine Kept.fst ?_ (by with_reducible assumption))
    | (with_reducible refine Kept.snd ?_ (by with_reducible assumption))
    | (with_reducible refine Kept.mk_other ?_)
    | decide

theorem Kept.holdAddr {s0 s : State} {a : Nat} (hk0 : Kept s0 s) :
    Kept s0 (State.holdAddr s a) := by
  unfold State.holdAddr
  try dsimp only
  repeat' first
    | (with_reducible assumption)
    | (split)
    | (with_reducible refine Kept.foldl ?_ ?_)
    | decide
    | (intro u hu x hx)
    | (intro u hu)
    | (refine Kept.notMode_of_mem (by with_reducible assumption) (by decide))
    | (with_reducible refine Kept.wr ?_ (by first | decide | with_reducible assumption | exact Kept.notMode_of_mem (by with_reducible assumption) (by decide) | exact Kept.notMode_of_mem_fst (by with_reducible assumption) (by with_unfolding_all rfl)))
    | (with_reducible refine Kept.wrMode ?_ 4 (by decide) (by first | decide | with_reducible assumption))
    | (with_reducible refine Kept.wrMode ?_ 5 (by decide) (by first | decide | with_reducible assumption))
    | (with_reducible refine Kept.wrMode ?_ 8 (by decide) (by first | decide | with_reducible assumption))
    | (with_reducible apply Kept.emit)
    | (with_reducible apply Kept.fabEvent)
    | (with_reducible apply Kept.adjChanged)
    | decide

theorem Kept.routeIn {s0 s : State} {l : Nat} {c : List Byte} (hk0 : Kept s0 s) :
    Kept s0 (State.routeIn s l c) := by
  unfold State.routeIn
  try dsimp only
  repeat' first
    | (with_reducible assumption)
    | (split)
    | (with_reducible refine Kept.foldl ?_ ?_)
    | decide
    | (intro u hu x hx)
    | (intro u hu)
    | (refine Kept.notMode_of_mem (by with_reducible assumption) (by decide))
    | (with_reducible apply Kept.emit)
    | (with_reducible refine Kept.floodNew ?_ (by with_reducible assumption))
    | (with_reducible apply Kept.putFab)
    | (with_reducible apply Kept.floodOn)
    | (with_reducible apply Kept.rivalClaim)
    | (with_reducible refine Kept.fst ?_ (by with_reducible assumption))
    | (with_reducible refine Kept.snd ?_ (by with_reducible assumption))
    | (with_reducible refine Kept.mk_other ?_)
    | decide

theorem Kept.writeLinkEn {s0 s : State} {l : Nat} {v : Nat} (hk0 : Kept s0 s) :
    Kept s0 (State.writeLinkEn s l v) := by
  unfold State.writeLinkEn
  try dsimp only
  repeat' first
    | (with_reducible assumption)
    | (split)
    | (with_reducible refine Kept.foldl ?_ ?_)
    | decide
    | (intro u hu x hx)
    | (intro u hu)
    | (refine Kept.notMode_of_mem (by with_reducible assumption) (by decide))
    | (with_reducible refine Kept.wr ?_ (by first | decide | with_reducible assumption | exact Kept.notMode_of_mem (by with_reducible assumption) (by decide) | exact Kept.notMode_of_mem_fst (by with_reducible assumption) (by with_unfolding_all rfl)))
    | (with_reducible refine Kept.wrMode ?_ 4 (by decide) (by first | decide | with_reducible assumption))
    | (with_reducible refine Kept.wrMode ?_ 5 (by decide) (by first | decide | with_reducible assumption))
    | (with_reducible refine Kept.wrMode ?_ 8 (by decide) (by first | decide | with_reducible assumption))
    | (with_reducible apply Kept.emit)
    | (with_reducible apply Kept.linkUp)
    | (with_reducible apply Kept.linkDown)
    | decide

theorem Kept.leaseDecide {s0 s : State} {m : LeaseReq} (hk0 : Kept s0 s) :
    Kept s0 (State.leaseDecide s m).2 := by
  unfold State.leaseDecide
  try dsimp only
  repeat' first
    | (with_reducible assumption)
    | (split)
    | (with_reducible refine Kept.foldl ?_ ?_)
    | decide
    | (intro u hu x hx)
    | (intro u hu)
    | (refine Kept.notMode_of_mem (by with_reducible assumption) (by decide))
    | (with_reducible apply Kept.emit)
    | (with_reducible apply Kept.putFab)
    | (with_reducible refine Kept.fst ?_ (by with_reducible assumption))
    | (with_reducible refine Kept.snd ?_ (by with_reducible assumption))
    | (with_reducible refine Kept.mk_other ?_)
    | decide

theorem Kept.tideIn {s0 s : State} {l : Nat} {c : TideCell} (hk0 : Kept s0 s) :
    Kept s0 (State.tideIn s l c) := by
  unfold State.tideIn
  try dsimp only
  repeat' first
    | (with_reducible assumption)
    | (split)
    | (with_reducible refine Kept.foldl ?_ ?_)
    | decide
    | (intro u hu x hx)
    | (intro u hu)
    | (refine Kept.notMode_of_mem (by with_reducible assumption) (by decide))
    | (with_reducible refine Kept.wr ?_ (by first | decide | with_reducible assumption | exact Kept.notMode_of_mem (by with_reducible assumption) (by decide) | exact Kept.notMode_of_mem_fst (by with_reducible assumption) (by with_unfolding_all rfl)))
    | (with_reducible refine Kept.wrMode ?_ 4 (by decide) (by first | decide | with_reducible assumption))
    | (with_reducible refine Kept.wrMode ?_ 5 (by decide) (by first | decide | with_reducible assumption))
    | (with_reducible refine Kept.wrMode ?_ 8 (by decide) (by first | decide | with_reducible assumption))
    | (with_reducible apply Kept.emit)
    | (with_reducible apply Kept.answer)
    | (with_reducible apply Kept.setLink)
    | (with_reducible apply Kept.peerTide)
    | (with_reducible refine Kept.fst ?_ (by with_reducible assumption))
    | (with_reducible refine Kept.snd ?_ (by with_reducible assumption))
    | (with_reducible refine Kept.mk_other ?_)
    | decide

end Sys2Proof.Machine
end

