-- ==== Sys2Proof/Laws/KeptProtection.lean ====
section
/-! SUPPORT. What the operations of Protection keep (Laws/Kept.lean). -/

namespace Sys2Proof.Machine

set_option Elab.async false
set_option linter.all false

theorem Kept.protPair {s0 s : State} {src : Src} {p : List Byte} (hk0 : Kept s0 s) :
    Kept s0 (State.protPair s src p).1 := by
  unfold State.protPair
  try dsimp only
  repeat' first
    | (with_reducible assumption)
    | (split)
    | (with_reducible refine Kept.foldl ?_ ?_)
    | decide
    | (intro u hu x hx)
    | (intro u hu)
    | (refine Kept.notMode_of_mem (by with_reducible assumption) (by decide))
    | (with_reducible apply Kept.emit)
    | (with_reducible apply Kept.protMsg)
    | (with_reducible apply Kept.dissolve)
    | (with_reducible apply Kept.setProt)
    | (with_reducible apply Kept.sendTo)
    | (with_reducible refine Kept.fst ?_ (by with_reducible assumption))
    | (with_reducible refine Kept.snd ?_ (by with_reducible assumption))
    | (with_reducible refine Kept.mk_other ?_)
    | decide

theorem Kept.bindStandby {s0 s : State} {t : Nat} {base : Nat} (hk0 : Kept s0 s) :
    Kept s0 (State.bindStandby s t base) := by
  unfold State.bindStandby
  try dsimp only
  repeat' first
    | (with_reducible assumption)
    | (split)
    | (with_reducible refine Kept.foldl ?_ ?_)
    | decide
    | (intro u hu x hx)
    | (intro u hu)
    | (refine Kept.notMode_of_mem (by with_reducible assumption) (by decide))
    | (with_reducible refine Kept.wr ?_ (by first | decide | with_reducible assumption | exact Kept.notMode_of_mem (by with_reducible assumption) (by decide) | exact Kept.notMode_of_mem_fst (by with_reducible assumption) (by with_unfolding_all rfl)))
    | (with_reducible refine Kept.wrMode ?_ 4 (by decide) (by first | decide | with_reducible assumption))
    | (with_reducible refine Kept.wrMode ?_ 5 (by decide) (by first | decide | with_reducible assumption))
    | (with_reducible refine Kept.wrMode ?_ 8 (by decide) (by first | decide | with_reducible assumption))
    | (with_reducible apply Kept.emit)
    | (with_reducible apply Kept.setSlot)
    | (with_reducible refine Kept.mk_other ?_)
    | decide

theorem Kept.formPair {s0 s : State} {t : Nat} {x : ProtHs} (hk0 : Kept s0 s) :
    Kept s0 (State.formPair s t x) := by
  unfold State.formPair
  try dsimp only
  repeat' first
    | (with_reducible assumption)
    | (split)
    | (with_reducible refine Kept.foldl ?_ ?_)
    | decide
    | (intro u hu x hx)
    | (intro u hu)
    | (refine Kept.notMode_of_mem (by with_reducible assumption) (by decide))
    | (with_reducible refine Kept.wr ?_ (by first | decide | with_reducible assumption | exact Kept.notMode_of_mem (by with_reducible assumption) (by decide) | exact Kept.notMode_of_mem_fst (by with_reducible assumption) (by with_unfolding_all rfl)))
    | (with_reducible refine Kept.wrMode ?_ 4 (by decide) (by first | decide | with_reducible assumption))
    | (with_reducible refine Kept.wrMode ?_ 5 (by decide) (by first | decide | with_reducible assumption))
    | (with_reducible refine Kept.wrMode ?_ 8 (by decide) (by first | decide | with_reducible assumption))
    | (with_reducible apply Kept.emit)
    | (with_reducible apply Kept.setProt)
    | (with_reducible apply Kept.setTree)
    | (with_reducible apply Kept.protSet)
    | (with_reducible apply Kept.bindStandby)
    | (with_reducible apply Kept.treeState)
    | (with_reducible apply Kept.takeImage)
    | (with_reducible apply Kept.enterSyncing)
    | (with_reducible refine Kept.mk_other ?_)
    | decide

theorem Kept.answerKey {s0 s : State} {src : Src} {r : Resp} (hk0 : Kept s0 s) :
    Kept s0 (State.answerKey s src r) := by
  unfold State.answerKey
  try dsimp only
  repeat' first
    | (with_reducible assumption)
    | (split)
    | (with_reducible refine Kept.foldl ?_ ?_)
    | decide
    | (intro u hu x hx)
    | (intro u hu)
    | (refine Kept.notMode_of_mem (by with_reducible assumption) (by decide))
    | (with_reducible apply Kept.emit)
    | (with_reducible apply Kept.answerLater)
    | (with_reducible apply Kept.scrubKey)
    | (with_reducible refine Kept.fst ?_ (by with_reducible assumption))
    | (with_reducible refine Kept.snd ?_ (by with_reducible assumption))
    | (with_reducible refine Kept.mk_other ?_)
    | decide

theorem Kept.noteStatus {s0 s : State} {t : Nat} {fr : Int} {m : StatusMsg} (hk0 : Kept s0 s) :
    Kept s0 (State.noteStatus s t fr m) := by
  unfold State.noteStatus
  try dsimp only
  repeat' first
    | (with_reducible assumption)
    | (split)
    | (with_reducible refine Kept.foldl ?_ ?_)
    | decide
    | (intro u hu x hx)
    | (intro u hu)
    | (refine Kept.notMode_of_mem (by with_reducible assumption) (by decide))
    | (with_reducible refine Kept.wr ?_ (by first | decide | with_reducible assumption | exact Kept.notMode_of_mem (by with_reducible assumption) (by decide) | exact Kept.notMode_of_mem_fst (by with_reducible assumption) (by with_unfolding_all rfl)))
    | (with_reducible refine Kept.wrMode ?_ 4 (by decide) (by first | decide | with_reducible assumption))
    | (with_reducible refine Kept.wrMode ?_ 5 (by decide) (by first | decide | with_reducible assumption))
    | (with_reducible refine Kept.wrMode ?_ 8 (by decide) (by first | decide | with_reducible assumption))
    | (with_reducible apply Kept.emit)
    | (with_reducible apply Kept.setProt)
    | (with_reducible refine Kept.mk_other ?_)
    | decide

theorem Kept.dualYield {s0 s : State} {t : Nat} {m : StatusMsg} (hk0 : Kept s0 s) :
    Kept s0 (State.dualYield s t m) := by
  unfold State.dualYield
  try dsimp only
  repeat' first
    | (with_reducible assumption)
    | (split)
    | (with_reducible refine Kept.foldl ?_ ?_)
    | decide
    | (intro u hu x hx)
    | (intro u hu)
    | (refine Kept.notMode_of_mem (by with_reducible assumption) (by decide))
    | (with_reducible apply Kept.emit)
    | (with_reducible apply Kept.protEvent)
    | (with_reducible apply Kept.yieldNext)
    | decide

theorem Kept.standbySwitch {s0 s : State} {t : Nat} {m : StatusMsg} (hk0 : Kept s0 s) :
    Kept s0 (State.standbySwitch s t m) := by
  unfold State.standbySwitch
  try dsimp only
  repeat' first
    | (with_reducible assumption)
    | (split)
    | (with_reducible refine Kept.foldl ?_ ?_)
    | decide
    | (intro u hu x hx)
    | (intro u hu)
    | (refine Kept.notMode_of_mem (by with_reducible assumption) (by decide))
    | (with_reducible apply Kept.emit)
    | (with_reducible apply Kept.setProt)
    | (with_reducible apply Kept.sendStatus)
    | (with_reducible refine Kept.mk_other ?_)
    | decide

theorem Kept.sendingStatus {s0 s : State} {t : Nat} {m : StatusMsg} (hk0 : Kept s0 s) :
    Kept s0 (State.sendingStatus s t m) := by
  unfold State.sendingStatus
  try dsimp only
  repeat' first
    | (with_reducible assumption)
    | (split)
    | (with_reducible refine Kept.foldl ?_ ?_)
    | decide
    | (intro u hu x hx)
    | (intro u hu)
    | (refine Kept.notMode_of_mem (by with_reducible assumption) (by decide))
    | (with_reducible apply Kept.emit)
    | (with_reducible apply Kept.takeover)
    | (with_reducible apply Kept.yieldNext)
    | (with_reducible apply Kept.setProt)
    | (with_reducible refine Kept.fst ?_ (by with_reducible assumption))
    | (with_reducible refine Kept.snd ?_ (by with_reducible assumption))
    | (with_reducible refine Kept.mk_other ?_)
    | decide

theorem Kept.statusMoves {s0 s : State} {t : Nat} {m : StatusMsg} (hk0 : Kept s0 s) :
    Kept s0 (State.statusMoves s t m) := by
  unfold State.statusMoves
  try dsimp only
  repeat' first
    | (with_reducible assumption)
    | (split)
    | (with_reducible refine Kept.foldl ?_ ?_)
    | decide
    | (intro u hu x hx)
    | (intro u hu)
    | (refine Kept.notMode_of_mem (by with_reducible assumption) (by decide))
    | (with_reducible apply Kept.emit)
    | (with_reducible apply Kept.dualYield)
    | (with_reducible apply Kept.sendingStatus)
    | (with_reducible apply Kept.protSet)
    | (with_reducible apply Kept.takeover)
    | (with_reducible apply Kept.standbySwitch)
    | decide

theorem Kept.syncEntry {s0 s : State} {t : Nat} {op : Nat} {b : List Byte} (hk0 : Kept s0 s) :
    Kept s0 (State.syncEntry s t op b) := by
  unfold State.syncEntry
  try dsimp only
  repeat' first
    | (with_reducible assumption)
    | (split)
    | (with_reducible refine Kept.foldl ?_ ?_)
    | decide
    | (intro u hu x hx)
    | (intro u hu)
    | (refine Kept.notMode_of_mem (by with_reducible assumption) (by decide))
    | (with_reducible apply Kept.emit)
    | (with_reducible apply Kept.incSat)
    | (with_reducible apply Kept.readPlaces)
    | (with_reducible apply Kept.delEntry)
    | (with_reducible apply Kept.insert)
    | (with_reducible refine Kept.fst ?_ (by with_reducible assumption))
    | (with_reducible refine Kept.snd ?_ (by with_reducible assumption))
    | (with_reducible refine Kept.mk_other ?_)
    | decide

theorem Kept.tableSync {s0 s : State} {t : Nat} {p : List Byte} {gap : Bool} (hk0 : Kept s0 s) :
    Kept s0 (State.tableSync s t p gap) := by
  unfold State.tableSync
  try dsimp only
  repeat' first
    | (with_reducible assumption)
    | (split)
    | (with_reducible refine Kept.foldl ?_ ?_)
    | decide
    | (intro u hu x hx)
    | (intro u hu)
    | (refine Kept.notMode_of_mem (by with_reducible assumption) (by decide))
    | (with_reducible apply Kept.emit)
    | (with_reducible apply Kept.mirrorError)
    | (with_reducible apply Kept.syncEntry)
    | decide

theorem Kept.leaseAnswer {s0 s : State} {t : Nat} {m : LeaseAns} (hk0 : Kept s0 s) :
    Kept s0 (State.leaseAnswer s t m) := by
  unfold State.leaseAnswer
  try dsimp only
  repeat' first
    | (with_reducible assumption)
    | (split)
    | (with_reducible refine Kept.foldl ?_ ?_)
    | decide
    | (intro u hu x hx)
    | (intro u hu)
    | (refine Kept.notMode_of_mem (by with_reducible assumption) (by decide))
    | (with_reducible apply Kept.emit)
    | (with_reducible apply Kept.setLease)
    | (with_reducible apply Kept.protSet)
    | (with_reducible apply Kept.setProt)
    | (with_reducible apply Kept.incSat)
    | (with_reducible refine Kept.mk_other ?_)
    | decide

theorem Kept.protSwitch {s0 s : State} {src : Src} {p : List Byte} (hk0 : Kept s0 s) :
    Kept s0 (State.protSwitch s src p).1 := by
  unfold State.protSwitch
  try dsimp only
  repeat' first
    | (with_reducible assumption)
    | (split)
    | (with_reducible refine Kept.foldl ?_ ?_)
    | decide
    | (intro u hu x hx)
    | (intro u hu)
    | (refine Kept.notMode_of_mem (by with_reducible assumption) (by decide))
    | (with_reducible apply Kept.emit)
    | (with_reducible apply Kept.setProt)
    | (with_reducible apply Kept.sendStatus)
    | (with_reducible apply Kept.takeover)
    | (with_reducible refine Kept.fst ?_ (by with_reducible assumption))
    | (with_reducible refine Kept.snd ?_ (by with_reducible assumption))
    | (with_reducible refine Kept.mk_other ?_)
    | decide

theorem Kept.protStatus {s0 s : State} {p : List Byte} (hk0 : Kept s0 s) :
    Kept s0 (State.protStatus s p).1 := by
  unfold State.protStatus
  try dsimp only
  repeat' first
    | (with_reducible assumption)
    | (split)
    | (with_reducible refine Kept.foldl ?_ ?_)
    | decide
    | (intro u hu x hx)
    | (intro u hu)
    | (refine Kept.notMode_of_mem (by with_reducible assumption) (by decide))
    | (with_reducible apply Kept.emit)
    | (with_reducible refine Kept.fst ?_ (by with_reducible assumption))
    | (with_reducible refine Kept.snd ?_ (by with_reducible assumption))
    | (with_reducible refine Kept.mk_other ?_)
    | decide

end Sys2Proof.Machine
end

