-- ==== Sys2Proof/Laws/KeptBuffers.lean ====
section
/-! SUPPORT. What the operations of Buffers keep (Laws/Kept.lean). -/

namespace Sys2Proof.Machine

set_option Elab.async false
set_option linter.all false

theorem Kept.bufferConfig {s0 s : State} {p : List Byte} (hk0 : Kept s0 s) :
    Kept s0 (State.bufferConfig s p).1 := by
  unfold State.bufferConfig
  try dsimp only
  repeat' first
    | (with_reducible assumption)
    | (split)
    | (with_reducible refine Kept.foldl ?_ ?_)
    | decide
    | (intro u hu x hx)
    | (intro u hu)
    | (refine Kept.notMode_of_mem (by with_reducible assumption) (by decide))
    | (with_reducible apply Kept.emit)
    | (with_reducible apply Kept.setBuf)
    | (with_reducible apply Kept.settleAll)
    | (with_reducible refine Kept.fst ?_ (by with_reducible assumption))
    | (with_reducible refine Kept.snd ?_ (by with_reducible assumption))
    | (with_reducible refine Kept.mk_other ?_)
    | decide

theorem Kept.bufferStatus {s0 s : State} {x_ : List Byte} (hk0 : Kept s0 s) :
    Kept s0 (State.bufferStatus s x_).1 := by
  unfold State.bufferStatus
  try dsimp only
  repeat' first
    | (with_reducible assumption)
    | (split)
    | (with_reducible refine Kept.foldl ?_ ?_)
    | decide
    | (intro u hu x hx)
    | (intro u hu)
    | (refine Kept.notMode_of_mem (by with_reducible assumption) (by decide))
    | (with_reducible apply Kept.emit)
    | decide

theorem Kept.queueProfile {s0 s : State} {p : List Byte} (hk0 : Kept s0 s) :
    Kept s0 (State.queueProfile s p).1 := by
  unfold State.queueProfile
  try dsimp only
  repeat' first
    | (with_reducible assumption)
    | (split)
    | (with_reducible refine Kept.foldl ?_ ?_)
    | decide
    | (intro u hu x hx)
    | (intro u hu)
    | (refine Kept.notMode_of_mem (by with_reducible assumption) (by decide))
    | (with_reducible apply Kept.emit)
    | (with_reducible apply Kept.setBuf)
    | (with_reducible apply Kept.settleAll)
    | (with_reducible refine Kept.fst ?_ (by with_reducible assumption))
    | (with_reducible refine Kept.snd ?_ (by with_reducible assumption))
    | (with_reducible refine Kept.mk_other ?_)
    | decide

theorem Kept.bindQueues {s0 s : State} {t : Nat} {classes : Nat} {first : Nat} {n : Nat} {prof : Nat} (hk0 : Kept s0 s) :
    Kept s0 (State.bindQueues s t classes first n prof) := by
  unfold State.bindQueues
  try dsimp only
  repeat' first
    | (with_reducible assumption)
    | (split)
    | (with_reducible refine Kept.foldl ?_ ?_)
    | decide
    | (intro u hu x hx)
    | (intro u hu)
    | (refine Kept.notMode_of_mem (by with_reducible assumption) (by decide))
    | (with_reducible apply Kept.emit)
    | (with_reducible apply Kept.setDeepQ)
    | (with_reducible refine Kept.mk_other ?_)
    | decide

theorem Kept.queueSet {s0 s : State} {p : List Byte} (hk0 : Kept s0 s) :
    Kept s0 (State.queueSet s p).1 := by
  unfold State.queueSet
  try dsimp only
  repeat' first
    | (with_reducible assumption)
    | (split)
    | (with_reducible refine Kept.foldl ?_ ?_)
    | decide
    | (intro u hu x hx)
    | (intro u hu)
    | (refine Kept.notMode_of_mem (by with_reducible assumption) (by decide))
    | (with_reducible apply Kept.emit)
    | (with_reducible apply Kept.bindQueues)
    | (with_reducible apply Kept.settleAll)
    | (with_reducible refine Kept.fst ?_ (by with_reducible assumption))
    | (with_reducible refine Kept.snd ?_ (by with_reducible assumption))
    | (with_reducible refine Kept.mk_other ?_)
    | decide

theorem Kept.queueStatus {s0 s : State} {p : List Byte} (hk0 : Kept s0 s) :
    Kept s0 (State.queueStatus s p).1 := by
  unfold State.queueStatus
  try dsimp only
  repeat' first
    | (with_reducible assumption)
    | (split)
    | (with_reducible refine Kept.foldl ?_ ?_)
    | decide
    | (intro u hu x hx)
    | (intro u hu)
    | (refine Kept.notMode_of_mem (by with_reducible assumption) (by decide))
    | (with_reducible apply Kept.emit)
    | (with_reducible refine Kept.fst ?_ (by with_reducible assumption))
    | (with_reducible refine Kept.snd ?_ (by with_reducible assumption))
    | (with_reducible refine Kept.mk_other ?_)
    | decide

theorem Kept.ingressDrop {s0 s : State} {lane : Nat} {cls : Nat} {segs : Nat} {off : Nat} (hk0 : Kept s0 s) :
    Kept s0 (State.ingressDrop s lane cls segs off) := by
  unfold State.ingressDrop
  try dsimp only
  repeat' first
    | (with_reducible assumption)
    | (split)
    | (with_reducible refine Kept.foldl ?_ ?_)
    | decide
    | (intro u hu x hx)
    | (intro u hu)
    | (refine Kept.notMode_of_mem (by with_reducible assumption) (by decide))
    | (with_reducible apply Kept.emit)
    | (with_reducible apply Kept.addCnt)
    | (with_reducible apply Kept.returnCredit)
    | decide

theorem Kept.loseHead {s0 s : State} {lane : Nat} {cls : Nat} {f : UsFrame} (hk0 : Kept s0 s) :
    Kept s0 (State.loseHead s lane cls f) := by
  unfold State.loseHead
  try dsimp only
  repeat' first
    | (with_reducible assumption)
    | (split)
    | (with_reducible refine Kept.foldl ?_ ?_)
    | decide
    | (intro u hu x hx)
    | (intro u hu)
    | (refine Kept.notMode_of_mem (by with_reducible assumption) (by decide))
    | (with_reducible apply Kept.emit)
    | (with_reducible apply Kept.setEgressQ)
    | (with_reducible apply Kept.freeCells)
    | (with_reducible apply Kept.endFrame)
    | (with_reducible apply Kept.egressSettle)
    | (with_reducible refine Kept.mk_other ?_)
    | decide

theorem Kept.popDeep {s0 s : State} {t : Nat} {term : Nat} {cls : Nat} (hk0 : Kept s0 s) :
    Kept s0 (State.popDeep s t term cls) := by
  unfold State.popDeep
  try dsimp only
  repeat' first
    | (with_reducible assumption)
    | (split)
    | (with_reducible refine Kept.foldl ?_ ?_)
    | decide
    | (intro u hu x hx)
    | (intro u hu)
    | (refine Kept.notMode_of_mem (by with_reducible assumption) (by decide))
    | (with_reducible apply Kept.emit)
    | (with_reducible apply Kept.givePages)
    | (with_reducible apply Kept.setDeepQ)
    | (with_reducible refine Kept.fst ?_ (by with_reducible assumption))
    | (with_reducible refine Kept.snd ?_ (by with_reducible assumption))
    | (with_reducible refine Kept.mk_other ?_)
    | decide

theorem Kept.loseDeep {s0 s : State} {t : Nat} {term : Nat} {cls : Nat} {f : DeepFrame} (hk0 : Kept s0 s) :
    Kept s0 (State.loseDeep s t term cls f) := by
  unfold State.loseDeep
  try dsimp only
  repeat' first
    | (with_reducible assumption)
    | (split)
    | (with_reducible refine Kept.foldl ?_ ?_)
    | decide
    | (intro u hu x hx)
    | (intro u hu)
    | (refine Kept.notMode_of_mem (by with_reducible assumption) (by decide))
    | (with_reducible apply Kept.emit)
    | (with_reducible apply Kept.popDeep)
    | (with_reducible apply Kept.addCnt)
    | (with_reducible apply Kept.endFrame)
    | decide

theorem Kept.refillLoop {s0 s : State} {t term cls n : Nat} (h : Kept s0 s) : Kept s0 (State.refillLoop s t term cls n) := by
  induction n generalizing s with
  | zero => exact h
  | succ n ih =>
    unfold State.refillLoop
    split
    · exact h
    · dsimp only
      split
      · exact h
      · split
        · rename_i hr
          exact ih (Kept.loseDeep (Kept.snd (Kept.stackRead h) hr))
        · rename_i hr
          have h1 := Kept.snd (Kept.stackRead h) hr
          split
          · exact h1
          · rename_i hc
            exact ih (Kept.blockEvent (Kept.setTree (Kept.popDeep (Kept.takeCells h1 hc))))

theorem Kept.cutQueue {s0 s : State} {t : Nat} {term : Nat} {cls : Nat} {keep : Nat} (hk0 : Kept s0 s) :
    Kept s0 (State.cutQueue s t term cls keep) := by
  unfold State.cutQueue
  try dsimp only
  repeat' first
    | (with_reducible assumption)
    | (split)
    | (with_reducible refine Kept.foldl ?_ ?_)
    | decide
    | (intro u hu x hx)
    | (intro u hu)
    | (refine Kept.notMode_of_mem (by with_reducible assumption) (by decide))
    | (with_reducible apply Kept.emit)
    | (with_reducible apply Kept.take)
    | (with_reducible apply Kept.cutPages)
    | (with_reducible apply Kept.givePages)
    | (with_reducible apply Kept.setDeepQ)
    | (with_reducible apply Kept.endFrame)
    | (with_reducible apply Kept.addCnt)
    | (with_reducible refine Kept.mk_other ?_)
    | decide

theorem Kept.readDeep {s0 s : State} {t : Nat} {term : Nat} {cls : Nat} (hk0 : Kept s0 s) :
    Kept s0 (State.readDeep s t term cls) := by
  unfold State.readDeep
  try dsimp only
  repeat' first
    | (with_reducible assumption)
    | (split)
    | (with_reducible refine Kept.foldl ?_ ?_)
    | decide
    | (intro u hu x hx)
    | (intro u hu)
    | (refine Kept.notMode_of_mem (by with_reducible assumption) (by decide))
    | (with_reducible apply Kept.emit)
    | (with_reducible apply Kept.linkRead)
    | (with_reducible apply Kept.cutQueue)
    | (with_reducible refine Kept.fst ?_ (by with_reducible assumption))
    | (with_reducible refine Kept.snd ?_ (by with_reducible assumption))
    | (with_reducible refine Kept.mk_other ?_)
    | decide

theorem Kept.serveRefill {s0 s : State} {k : Key} (hk0 : Kept s0 s) :
    Kept s0 (State.serveRefill s k) := by
  unfold State.serveRefill
  try dsimp only
  repeat' first
    | (with_reducible assumption)
    | (split)
    | (with_reducible refine Kept.foldl ?_ ?_)
    | decide
    | (intro u hu x hx)
    | (intro u hu)
    | (refine Kept.notMode_of_mem (by with_reducible assumption) (by decide))
    | (with_reducible apply Kept.emit)
    | (with_reducible apply Kept.readDeep)
    | (with_reducible apply Kept.refillLoop)
    | (with_reducible apply Kept.setBuf)
    | (with_reducible apply Kept.wakeStaged)
    | (with_reducible apply Kept.settleAll)
    | (with_reducible refine Kept.mk_other ?_)
    | decide

theorem Kept.popSpill {s0 s : State} {lane : Nat} {cls : Nat} {brine : List UsFrame} (hk0 : Kept s0 s) :
    Kept s0 (State.popSpill s lane cls brine) := by
  unfold State.popSpill
  try dsimp only
  repeat' first
    | (with_reducible assumption)
    | (split)
    | (with_reducible refine Kept.foldl ?_ ?_)
    | decide
    | (intro u hu x hx)
    | (intro u hu)
    | (refine Kept.notMode_of_mem (by with_reducible assumption) (by decide))
    | (with_reducible apply Kept.emit)
    | (with_reducible apply Kept.givePages)
    | (with_reducible apply Kept.setEgressQ)
    | (with_reducible refine Kept.fst ?_ (by with_reducible assumption))
    | (with_reducible refine Kept.snd ?_ (by with_reducible assumption))
    | (with_reducible refine Kept.mk_other ?_)
    | decide

theorem Kept.cutSpill {s0 s : State} {lane : Nat} {cls : Nat} {keep : Nat} (hk0 : Kept s0 s) :
    Kept s0 (State.cutSpill s lane cls keep) := by
  unfold State.cutSpill
  try dsimp only
  repeat' first
    | (with_reducible assumption)
    | (split)
    | (with_reducible refine Kept.foldl ?_ ?_)
    | decide
    | (intro u hu x hx)
    | (intro u hu)
    | (refine Kept.notMode_of_mem (by with_reducible assumption) (by decide))
    | (with_reducible apply Kept.emit)
    | (with_reducible apply Kept.take)
    | (with_reducible apply Kept.cutPages)
    | (with_reducible apply Kept.givePages)
    | (with_reducible apply Kept.setEgressQ)
    | (with_reducible apply Kept.addCnt)
    | (with_reducible apply Kept.endFrame)
    | (with_reducible refine Kept.mk_other ?_)
    | decide

end Sys2Proof.Machine
end

