-- ==== Sys2Proof/Laws/KeptResetOps.lean ====
section
/-! SUPPORT. What the operations of ResetOps keep (Laws/Kept.lean). -/

namespace Sys2Proof.Machine

set_option Elab.async false
set_option linter.all false

theorem Kept.clearDom {s0 s : State} {d : Nat} (h : Kept s0 s) : Kept s0 (State.clearDom s d) :=
  Kept.cutFields h (fun k => fieldHolder k ≠ d || configField k.1) rfl rfl rfl rfl rfl rfl

theorem Kept.setBusQ {s0 s : State} {b : Nat} {l : List ModTx} (hk0 : Kept s0 s) :
    Kept s0 (State.setBusQ s b l) := by
  unfold State.setBusQ
  try dsimp only
  repeat' first
    | (with_reducible assumption)
    | (split)
    | (with_reducible refine Kept.foldl ?_ ?_)
    | decide
    | (intro u hu x hx)
    | (intro u hu)
    | (refine Kept.notMode_of_mem (by with_reducible assumption) (by decide))
    | (with_reducible apply Kept.emit)
    | (with_reducible refine Kept.mk_other ?_)
    | decide

theorem Kept.busNext {s0 s : State} {b : Nat} (hk0 : Kept s0 s) :
    Kept s0 (State.busNext s b) := by
  unfold State.busNext
  try dsimp only
  repeat' first
    | (with_reducible assumption)
    | (split)
    | (with_reducible refine Kept.foldl ?_ ?_)
    | decide
    | (intro u hu x hx)
    | (intro u hu)
    | (refine Kept.notMode_of_mem (by with_reducible assumption) (by decide))
    | (with_reducible apply Kept.emit)
    | (with_reducible apply Kept.setBusQ)
    | (with_reducible refine Kept.fst ?_ (by with_reducible assumption))
    | (with_reducible refine Kept.snd ?_ (by with_reducible assumption))
    | (with_reducible refine Kept.mk_other ?_)
    | decide

theorem Kept.busAdd {s0 s : State} {x : ModTx} (hk0 : Kept s0 s) :
    Kept s0 (State.busAdd s x) := by
  unfold State.busAdd
  try dsimp only
  repeat' first
    | (with_reducible assumption)
    | (split)
    | (with_reducible refine Kept.foldl ?_ ?_)
    | decide
    | (intro u hu x hx)
    | (intro u hu)
    | (refine Kept.notMode_of_mem (by with_reducible assumption) (by decide))
    | (with_reducible apply Kept.emit)
    | (with_reducible apply Kept.setBusQ)
    | (with_reducible apply Kept.busNext)
    | decide

theorem Kept.busEnd {s0 s t : State} {b : Nat} {x : ModTx} (h : Kept s0 s) (e : s.busEnd b = some (x, t)) : Kept s0 t := by
  unfold State.busEnd at e
  split at e
  · contradiction
  · simp only [Option.some.injEq, Prod.mk.injEq] at e
    obtain ⟨_, rfl⟩ := e
    exact Kept.setBusQ h

theorem Kept.busRelease {s0 s : State} {d : Nat} (hk0 : Kept s0 s) :
    Kept s0 (State.busRelease s d) := by
  unfold State.busRelease
  try dsimp only
  repeat' first
    | (with_reducible assumption)
    | (split)
    | (with_reducible refine Kept.foldl ?_ ?_)
    | decide
    | (intro u hu x hx)
    | (intro u hu)
    | (refine Kept.notMode_of_mem (by with_reducible assumption) (by decide))
    | (with_reducible apply Kept.emit)
    | (with_reducible apply Kept.setBusQ)
    | (with_reducible apply Kept.busNext)
    | (with_reducible refine Kept.mk_other ?_)
    | decide

theorem Kept.railsOff {s0 s : State} {d : Nat} (hk0 : Kept s0 s) :
    Kept s0 (State.railsOff s d) := by
  unfold State.railsOff
  try dsimp only
  repeat' first
    | (with_reducible assumption)
    | (split)
    | (with_reducible refine Kept.foldl ?_ ?_)
    | decide
    | (intro u hu x hx)
    | (intro u hu)
    | (refine Kept.notMode_of_mem (by with_reducible assumption) (by decide))
    | (with_reducible apply Kept.emit)
    | (with_reducible apply Kept.railSet)
    | decide

end Sys2Proof.Machine
end

