-- ==== Sys2Proof/Laws/KeptPower.lean ====
section
/-! SUPPORT. What the operations of Power keep (Laws/Kept.lean). -/

namespace Sys2Proof.Machine

set_option Elab.async false
set_option linter.all false

theorem Kept.stopCycles {s0 s : State} {d : Nat} (hk0 : Kept s0 s) :
    Kept s0 (State.stopCycles s d) := by
  unfold State.stopCycles
  try dsimp only
  repeat' first
    | (with_reducible assumption)
    | (split)
    | (with_reducible refine Kept.foldl ?_ ?_)
    | decide
    | (intro u hu x hx)
    | (intro u hu)
    | (refine Kept.notMode_of_mem (by with_reducible assumption) (by decide))
    | (with_reducible refine Kept.wr ?_ (by first | decide | with_reducible assumption | exact Kept.notMode_of_mem (by with_reducible assumption) (by decide) | exact Kept.notMode_of_mem_fst (by with_reducible assumption) (by with_unfolding_all rfl)))
    | (with_reducible refine Kept.wrMode ?_ 4 (by decide) (by first | decide | with_reducible assumption))
    | (with_reducible refine Kept.wrMode ?_ 5 (by decide) (by first | decide | with_reducible assumption))
    | (with_reducible refine Kept.wrMode ?_ 8 (by decide) (by first | decide | with_reducible assumption))
    | (with_reducible apply Kept.emit)
    | decide

theorem Kept.leaveOn {s0 s : State} {d : Nat} (hk0 : Kept s0 s) :
    Kept s0 (State.leaveOn s d) := by
  unfold State.leaveOn
  try dsimp only
  repeat' first
    | (with_reducible assumption)
    | (split)
    | (with_reducible refine Kept.foldl ?_ ?_)
    | decide
    | (intro u hu x hx)
    | (intro u hu)
    | (refine Kept.notMode_of_mem (by with_reducible assumption) (by decide))
    | (with_reducible apply Kept.emit)
    | (with_reducible apply Kept.stopCycles)
    | (with_reducible apply Kept.busRelease)
    | (with_reducible apply Kept.sluDomainLeft)
    | (with_reducible apply Kept.tbLeave)
    | decide

theorem Kept.fabWithdraw {s0 s : State} (hk0 : Kept s0 s) :
    Kept s0 (State.fabWithdraw s) := by
  unfold State.fabWithdraw
  try dsimp only
  repeat' first
    | (with_reducible assumption)
    | (split)
    | (with_reducible refine Kept.foldl ?_ ?_)
    | decide
    | (intro u hu x hx)
    | (intro u hu)
    | (refine Kept.notMode_of_mem (by with_reducible assumption) (by decide))
    | (with_reducible apply Kept.emit)
    | (with_reducible apply Kept.floodRouteOf)
    | (with_reducible apply Kept.putFab)
    | (with_reducible refine Kept.mk_other ?_)
    | decide

theorem Kept.beginFall {s0 s : State} {d : Nat} {target : Nat} {n : Nat} (hk0 : Kept s0 s) :
    Kept s0 (State.beginFall s d target n) := by
  unfold State.beginFall
  try dsimp only
  repeat' first
    | (with_reducible assumption)
    | (split)
    | (with_reducible refine Kept.foldl ?_ ?_)
    | decide
    | (intro u hu x hx)
    | (intro u hu)
    | (refine Kept.notMode_of_mem (by with_reducible assumption) (by decide))
    | (with_reducible refine Kept.wr ?_ (by first | decide | with_reducible assumption | exact Kept.notMode_of_mem (by with_reducible assumption) (by decide) | exact Kept.notMode_of_mem_fst (by with_reducible assumption) (by with_unfolding_all rfl)))
    | (with_reducible refine Kept.wrMode ?_ 4 (by decide) (by first | decide | with_reducible assumption))
    | (with_reducible refine Kept.wrMode ?_ 5 (by decide) (by first | decide | with_reducible assumption))
    | (with_reducible refine Kept.wrMode ?_ 8 (by decide) (by first | decide | with_reducible assumption))
    | (with_reducible apply Kept.emit)
    | (with_reducible apply Kept.fabWithdraw)
    | (with_reducible apply Kept.leaveOn)
    | (with_reducible apply Kept.setDom)
    | (with_reducible refine Kept.mk_other ?_)
    | decide

theorem Kept.fabDown {s0 s : State} (hk0 : Kept s0 s) :
    Kept s0 (State.fabDown s) := by
  unfold State.fabDown
  try dsimp only
  repeat' first
    | (with_reducible assumption)
    | (split)
    | (with_reducible refine Kept.foldl ?_ ?_)
    | decide
    | (intro u hu x hx)
    | (intro u hu)
    | (refine Kept.notMode_of_mem (by with_reducible assumption) (by decide))
    | (with_reducible refine Kept.wr ?_ (by first | decide | with_reducible assumption | exact Kept.notMode_of_mem (by with_reducible assumption) (by decide) | exact Kept.notMode_of_mem_fst (by with_reducible assumption) (by with_unfolding_all rfl)))
    | (with_reducible refine Kept.wrMode ?_ 4 (by decide) (by first | decide | with_reducible assumption))
    | (with_reducible refine Kept.wrMode ?_ 5 (by decide) (by first | decide | with_reducible assumption))
    | (with_reducible refine Kept.wrMode ?_ 8 (by decide) (by first | decide | with_reducible assumption))
    | (with_reducible apply Kept.emit)
    | (with_reducible apply Kept.linkDown)
    | (with_reducible apply Kept.setRoute)
    | (with_reducible apply Kept.putFab)
    | (with_reducible apply Kept.peerTide)
    | (with_reducible refine Kept.mk_other ?_)
    | decide

theorem Kept.unholdChannel {s0 s : State} {c : Nat} (hk0 : Kept s0 s) :
    Kept s0 (State.unholdChannel s c) := by
  unfold State.unholdChannel
  try dsimp only
  repeat' first
    | (with_reducible assumption)
    | (split)
    | (with_reducible refine Kept.foldl ?_ ?_)
    | decide
    | (intro u hu x hx)
    | (intro u hu)
    | (refine Kept.notMode_of_mem (by with_reducible assumption) (by decide))
    | (with_reducible refine Kept.wr ?_ (by first | decide | with_reducible assumption | exact Kept.notMode_of_mem (by with_reducible assumption) (by decide) | exact Kept.notMode_of_mem_fst (by with_reducible assumption) (by with_unfolding_all rfl)))
    | (with_reducible refine Kept.wrMode ?_ 4 (by decide) (by first | decide | with_reducible assumption))
    | (with_reducible refine Kept.wrMode ?_ 5 (by decide) (by first | decide | with_reducible assumption))
    | (with_reducible refine Kept.wrMode ?_ 8 (by decide) (by first | decide | with_reducible assumption))
    | (with_reducible apply Kept.emit)
    | decide

theorem Kept.failTable {s0 s : State} {which : TblCmd → Bool} (hk0 : Kept s0 s) :
    Kept s0 (State.failTable s which) := by
  unfold State.failTable
  try dsimp only
  repeat' first
    | (with_reducible assumption)
    | (split)
    | (with_reducible refine Kept.foldl ?_ ?_)
    | decide
    | (intro u hu x hx)
    | (intro u hu)
    | (refine Kept.notMode_of_mem (by with_reducible assumption) (by decide))
    | (with_reducible apply Kept.emit)
    | (with_reducible apply Kept.setTabs)
    | (with_reducible apply Kept.unholdChannel)
    | (with_reducible apply Kept.tblNext)
    | (with_reducible apply Kept.answerFailed)
    | (with_reducible refine Kept.mk_other ?_)
    | decide

theorem Kept.failHarvests {s0 s : State} (hk0 : Kept s0 s) :
    Kept s0 (State.failHarvests s) := by
  unfold State.failHarvests
  try dsimp only
  repeat' first
    | (with_reducible assumption)
    | (split)
    | (with_reducible refine Kept.foldl ?_ ?_)
    | decide
    | (intro u hu x hx)
    | (intro u hu)
    | (refine Kept.notMode_of_mem (by with_reducible assumption) (by decide))
    | (with_reducible apply Kept.emit)
    | (with_reducible apply Kept.setMon)
    | (with_reducible apply Kept.unholdChannel)
    | (with_reducible apply Kept.answerFailed)
    | (with_reducible refine Kept.mk_other ?_)
    | decide

theorem Kept.loseHeld {s0 s : State} {d : Nat} (hk0 : Kept s0 s) :
    Kept s0 (State.loseHeld s d) := by
  unfold State.loseHeld
  try dsimp only
  repeat' first
    | (with_reducible assumption)
    | (split)
    | (with_reducible refine Kept.foldl ?_ ?_)
    | decide
    | (intro u hu x hx)
    | (intro u hu)
    | (refine Kept.notMode_of_mem (by with_reducible assumption) (by decide))
    | (with_reducible refine Kept.wr ?_ (by first | decide | with_reducible assumption | exact Kept.notMode_of_mem (by with_reducible assumption) (by decide) | exact Kept.notMode_of_mem_fst (by with_reducible assumption) (by with_unfolding_all rfl)))
    | (with_reducible refine Kept.wrMode ?_ 4 (by decide) (by first | decide | with_reducible assumption))
    | (with_reducible refine Kept.wrMode ?_ 5 (by decide) (by first | decide | with_reducible assumption))
    | (with_reducible refine Kept.wrMode ?_ 8 (by decide) (by first | decide | with_reducible assumption))
    | (with_reducible apply Kept.emit)
    | (with_reducible apply Kept.setEng)
    | (with_reducible apply Kept.setTree)
    | (with_reducible apply Kept.setTreeU)
    | (with_reducible apply Kept.putTel)
    | (with_reducible apply Kept.putSluTrees)
    | (with_reducible apply Kept.setSluUnit)
    | (with_reducible apply Kept.countForecasts)
    | (with_reducible apply Kept.failTable)
    | (with_reducible apply Kept.failHarvests)
    | (with_reducible apply Kept.setTabs)
    | (with_reducible apply Kept.freeCells)
    | (with_reducible apply Kept.setBuf)
    | (with_reducible apply Kept.disown)
    | (with_reducible refine Kept.mk_other ?_)
    | decide

theorem Kept.loseDomain {s0 s : State} {d : Nat} (hk0 : Kept s0 s) :
    Kept s0 (State.loseDomain s d) := by
  unfold State.loseDomain
  try dsimp only
  repeat' first
    | (with_reducible assumption)
    | (split)
    | (with_reducible refine Kept.foldl ?_ ?_)
    | decide
    | (intro u hu x hx)
    | (intro u hu)
    | (refine Kept.notMode_of_mem (by with_reducible assumption) (by decide))
    | (with_reducible apply Kept.emit)
    | (with_reducible apply Kept.loseHeld)
    | (with_reducible apply Kept.rewrite)
    | decide

theorem Kept.takeSentinel {s0 s : State} {t : Nat} (hk0 : Kept s0 s) :
    Kept s0 (State.takeSentinel s t) := by
  unfold State.takeSentinel
  try dsimp only
  repeat' first
    | (with_reducible assumption)
    | (split)
    | (with_reducible refine Kept.foldl ?_ ?_)
    | decide
    | (intro u hu x hx)
    | (intro u hu)
    | (refine Kept.notMode_of_mem (by with_reducible assumption) (by decide))
    | (with_reducible apply Kept.emit)
    | (with_reducible apply Kept.putSents)
    | decide

theorem Kept.enterRet {s0 s : State} {d : Nat} (hk0 : Kept s0 s) :
    Kept s0 (State.enterRet s d) := by
  unfold State.enterRet
  try dsimp only
  repeat' first
    | (with_reducible assumption)
    | (split)
    | (with_reducible refine Kept.foldl ?_ ?_)
    | decide
    | (intro u hu x hx)
    | (intro u hu)
    | (refine Kept.notMode_of_mem (by with_reducible assumption) (by decide))
    | (with_reducible apply Kept.emit)
    | (with_reducible apply Kept.takeSentinel)
    | (with_reducible apply Kept.fabDown)
    | decide

theorem Kept.enterOff {s0 s : State} {d : Nat} (hk0 : Kept s0 s) :
    Kept s0 (State.enterOff s d) := by
  unfold State.enterOff
  try dsimp only
  repeat' first
    | (with_reducible assumption)
    | (split)
    | (with_reducible refine Kept.foldl ?_ ?_)
    | decide
    | (intro u hu x hx)
    | (intro u hu)
    | (refine Kept.notMode_of_mem (by with_reducible assumption) (by decide))
    | (with_reducible refine Kept.wr ?_ (by first | decide | with_reducible assumption | exact Kept.notMode_of_mem (by with_reducible assumption) (by decide) | exact Kept.notMode_of_mem_fst (by with_reducible assumption) (by with_unfolding_all rfl)))
    | (with_reducible refine Kept.wrMode ?_ 4 (by decide) (by first | decide | with_reducible assumption))
    | (with_reducible refine Kept.wrMode ?_ 5 (by decide) (by first | decide | with_reducible assumption))
    | (with_reducible refine Kept.wrMode ?_ 8 (by decide) (by first | decide | with_reducible assumption))
    | (with_reducible apply Kept.emit)
    | (with_reducible apply Kept.railsOff)
    | (with_reducible apply Kept.fabDown)
    | (with_reducible apply Kept.loseDomain)
    | (with_reducible apply Kept.clearDom)
    | decide

theorem Kept.engFromOff {s0 s : State} {e : Nat} (hk0 : Kept s0 s) :
    Kept s0 (State.engFromOff s e) := by
  unfold State.engFromOff
  try dsimp only
  repeat' first
    | (with_reducible assumption)
    | (split)
    | (with_reducible refine Kept.foldl ?_ ?_)
    | decide
    | (intro u hu x hx)
    | (intro u hu)
    | (refine Kept.notMode_of_mem (by with_reducible assumption) (by decide))
    | (with_reducible refine Kept.wr ?_ (by first | decide | with_reducible assumption | exact Kept.notMode_of_mem (by with_reducible assumption) (by decide) | exact Kept.notMode_of_mem_fst (by with_reducible assumption) (by with_unfolding_all rfl)))
    | (with_reducible refine Kept.wrMode ?_ 4 (by decide) (by first | decide | with_reducible assumption))
    | (with_reducible refine Kept.wrMode ?_ 5 (by decide) (by first | decide | with_reducible assumption))
    | (with_reducible refine Kept.wrMode ?_ 8 (by decide) (by first | decide | with_reducible assumption))
    | (with_reducible apply Kept.emit)
    | (with_reducible apply Kept.setEng)
    | (with_reducible refine Kept.mk_free ?_)
    | (with_reducible refine Kept.mk_other ?_)
    | decide

theorem Kept.engFromRet {s0 s : State} {e : Nat} (hk0 : Kept s0 s) :
    Kept s0 (State.engFromRet s e) := by
  unfold State.engFromRet
  try dsimp only
  repeat' first
    | (with_reducible assumption)
    | (split)
    | (with_reducible refine Kept.foldl ?_ ?_)
    | decide
    | (intro u hu x hx)
    | (intro u hu)
    | (refine Kept.notMode_of_mem (by with_reducible assumption) (by decide))
    | (with_reducible apply Kept.emit)
    | (with_reducible apply Kept.setEng)
    | (with_reducible apply Kept.incSat)
    | (with_reducible apply Kept.peEvent)
    | (with_reducible apply Kept.engCount)
    | (with_reducible refine Kept.mk_other ?_)
    | decide

theorem Kept.reloadHalf {s0 s : State} {t : Nat} (hk0 : Kept s0 s) :
    Kept s0 (State.reloadHalf s t) := by
  unfold State.reloadHalf
  try dsimp only
  repeat' first
    | (with_reducible assumption)
    | (split)
    | (with_reducible refine Kept.foldl ?_ ?_)
    | decide
    | (intro u hu x hx)
    | (intro u hu)
    | (refine Kept.notMode_of_mem (by with_reducible assumption) (by decide))
    | (with_reducible apply Kept.emit)
    | (with_reducible apply Kept.loadHalf)
    | decide

theorem Kept.pairOn {s0 s : State} {d : Nat} {off : Bool} (hk0 : Kept s0 s) :
    Kept s0 (State.pairOn s d off) := by
  unfold State.pairOn
  try dsimp only
  repeat' first
    | (with_reducible assumption)
    | (split)
    | (with_reducible refine Kept.foldl ?_ ?_)
    | decide
    | (intro u hu x hx)
    | (intro u hu)
    | (refine Kept.notMode_of_mem (by with_reducible assumption) (by decide))
    | (with_reducible apply Kept.emit)
    | (with_reducible apply Kept.engFromOff)
    | (with_reducible apply Kept.engFromRet)
    | (with_reducible apply Kept.reloadHalf)
    | (with_reducible apply Kept.fixStart)
    | (with_reducible apply Kept.riseTree)
    | (with_reducible apply Kept.busNext)
    | decide

theorem Kept.sluOn {s0 s : State} {d : Nat} {off : Bool} (hk0 : Kept s0 s) :
    Kept s0 (State.sluOn s d off) := by
  unfold State.sluOn
  try dsimp only
  repeat' first
    | (with_reducible assumption)
    | (split)
    | (with_reducible refine Kept.foldl ?_ ?_)
    | decide
    | (intro u hu x hx)
    | (intro u hu)
    | (refine Kept.notMode_of_mem (by with_reducible assumption) (by decide))
    | (with_reducible apply Kept.emit)
    | (with_reducible apply Kept.engFromOff)
    | (with_reducible apply Kept.engFromRet)
    | (with_reducible apply Kept.beginLoad)
    | (with_reducible apply Kept.sluDomainOn)
    | (with_reducible refine Kept.fst ?_ (by with_reducible assumption))
    | (with_reducible refine Kept.snd ?_ (by with_reducible assumption))
    | (with_reducible refine Kept.mk_other ?_)
    | decide

theorem Kept.enterOn {s0 s : State} {d : Nat} {off : Bool} (hk0 : Kept s0 s) :
    Kept s0 (State.enterOn s d off) := by
  unfold State.enterOn
  extract_lets
  repeat' first
    | (with_reducible assumption)
    | (split)
    | (with_reducible refine Kept.foldl ?_ ?_)
    | decide
    | (intro u hu x hx)
    | (intro u hu)
    | (refine Kept.notMode_of_mem (by with_reducible assumption) (by decide))
    | (with_reducible refine Kept.wr ?_ (by first | decide | with_reducible assumption | exact Kept.notMode_of_mem (by with_reducible assumption) (by decide) | exact Kept.notMode_of_mem_fst (by with_reducible assumption) (by with_unfolding_all rfl)))
    | (with_reducible refine Kept.wrMode ?_ 4 (by decide) (by first | decide | with_reducible assumption))
    | (with_reducible refine Kept.wrMode ?_ 5 (by decide) (by first | decide | with_reducible assumption))
    | (with_reducible refine Kept.wrMode ?_ 8 (by decide) (by first | decide | with_reducible assumption))
    | (with_reducible apply Kept.emit)
    | (with_reducible apply Kept.putBnd)
    | (with_reducible apply Kept.setMon)
    | (with_reducible apply Kept.pairOn)
    | (with_reducible apply Kept.sluOn)
    | (with_reducible apply Kept.tableInit)
    | (with_reducible apply Kept.startCredits)
    | (with_reducible apply Kept.replayDoorbells)
    | (with_reducible apply Kept.payOwed)
    | (with_reducible apply Kept.putFab)
    | (with_reducible apply Kept.linkUp)
    | (with_reducible apply Kept.tbResume)
    | (with_reducible refine Kept.mk_other ?_)
    | decide

theorem Kept.settled {s0 s : State} {d : Nat} {st : Nat} (hk0 : Kept s0 s) (hm : st ≤ 4) :
    Kept s0 (State.settled s d st) := by
  unfold State.settled
  extract_lets
  repeat' first
    | (with_reducible assumption)
    | (split)
    | (with_reducible refine Kept.foldl ?_ ?_)
    | decide
    | (intro u hu x hx)
    | (intro u hu)
    | (refine Kept.notMode_of_mem (by with_reducible assumption) (by decide))
    | (with_reducible refine Kept.wr ?_ (by first | decide | with_reducible assumption | exact Kept.notMode_of_mem (by with_reducible assumption) (by decide) | exact Kept.notMode_of_mem_fst (by with_reducible assumption) (by with_unfolding_all rfl)))
    | (with_reducible refine Kept.wrMode ?_ 4 (by decide) (by first | decide | with_reducible assumption))
    | (with_reducible refine Kept.wrMode ?_ 5 (by decide) (by first | decide | with_reducible assumption))
    | (with_reducible refine Kept.wrMode ?_ 8 (by decide) (by first | decide | with_reducible assumption))
    | (with_reducible apply Kept.emit)
    | (with_reducible apply Kept.setDom)
    | (with_reducible apply Kept.pwrEvent)
    | (with_reducible refine Kept.mk_other ?_)
    | decide

theorem Kept.dropRequest {s0 s : State} {d : Nat} (hk0 : Kept s0 s) :
    Kept s0 (State.dropRequest s d) := by
  unfold State.dropRequest
  try dsimp only
  repeat' first
    | (with_reducible assumption)
    | (split)
    | (with_reducible refine Kept.foldl ?_ ?_)
    | decide
    | (intro u hu x hx)
    | (intro u hu)
    | (refine Kept.notMode_of_mem (by with_reducible assumption) (by decide))
    | (with_reducible apply Kept.emit)
    | (with_reducible apply Kept.countRefused)
    | (with_reducible apply Kept.pwrEvent)
    | decide

theorem Kept.replayOn {s0 s : State} {d : Nat} {n : Nat} (hk0 : Kept s0 s) :
    Kept s0 (State.replayOn s d n) := by
  unfold State.replayOn
  try dsimp only
  repeat' first
    | (with_reducible assumption)
    | (split)
    | (with_reducible refine Kept.foldl ?_ ?_)
    | decide
    | (intro u hu x hx)
    | (intro u hu)
    | (refine Kept.notMode_of_mem (by with_reducible assumption) (by decide))
    | (with_reducible apply Kept.emit)
    | (with_reducible apply Kept.wakeOne)
    | (with_reducible apply Kept.startRise)
    | (with_reducible apply Kept.advanceRises)
    | decide

theorem Kept.applyPending {s0 s : State} {d : Nat} (hk0 : Kept s0 s) :
    Kept s0 (State.applyPending s d) := by
  unfold State.applyPending
  try dsimp only
  repeat' first
    | (with_reducible assumption)
    | (split)
    | (with_reducible refine Kept.foldl ?_ ?_)
    | decide
    | (intro u hu x hx)
    | (intro u hu)
    | (refine Kept.notMode_of_mem (by with_reducible assumption) (by decide))
    | (with_reducible refine Kept.wr ?_ (by first | decide | with_reducible assumption | exact Kept.notMode_of_mem (by with_reducible assumption) (by decide) | exact Kept.notMode_of_mem_fst (by with_reducible assumption) (by with_unfolding_all rfl)))
    | (with_reducible refine Kept.wrMode ?_ 4 (by decide) (by first | decide | with_reducible assumption))
    | (with_reducible refine Kept.wrMode ?_ 5 (by decide) (by first | decide | with_reducible assumption))
    | (with_reducible refine Kept.wrMode ?_ 8 (by decide) (by first | decide | with_reducible assumption))
    | (with_reducible apply Kept.emit)
    | (with_reducible apply Kept.unpend)
    | (with_reducible apply Kept.replayOn)
    | (with_reducible apply Kept.dropRequest)
    | (with_reducible apply Kept.beginFall)
    | decide

theorem Kept.reach {s0 s : State} {d : Nat} {st : Nat} (hk0 : Kept s0 s) (hm : st ≤ 4) :
    Kept s0 (State.reach s d st) := by
  unfold State.reach
  try dsimp only
  repeat' first
    | (with_reducible assumption)
    | (split)
    | (with_reducible refine Kept.foldl ?_ ?_)
    | decide
    | (intro u hu x hx)
    | (intro u hu)
    | (refine Kept.notMode_of_mem (by with_reducible assumption) (by decide))
    | (with_reducible apply Kept.emit)
    | (with_reducible apply Kept.settled)
    | (with_reducible apply Kept.enterOn)
    | (with_reducible apply Kept.enterRet)
    | (with_reducible apply Kept.enterOff)
    | (with_reducible apply Kept.applyPending)
    | (with_reducible apply Kept.advanceRises)
    | decide

theorem Kept.requestFall {s0 s : State} {d : Nat} {target : Nat} (hk0 : Kept s0 s) :
    Kept s0 (State.requestFall s d target).1 := by
  unfold State.requestFall
  try dsimp only
  repeat' first
    | (with_reducible assumption)
    | (split)
    | (with_reducible refine Kept.foldl ?_ ?_)
    | decide
    | (intro u hu x hx)
    | (intro u hu)
    | (refine Kept.notMode_of_mem (by with_reducible assumption) (by decide))
    | (with_reducible apply Kept.emit)
    | (with_reducible apply Kept.setDom)
    | (with_reducible apply Kept.beginFall)
    | (with_reducible apply Kept.unpend)
    | (with_reducible apply Kept.pend)
    | (with_reducible refine Kept.mk_other ?_)
    | decide

theorem Kept.requestRise {s0 s : State} {d : Nat} (hk0 : Kept s0 s) :
    Kept s0 (State.requestRise s d).1 := by
  unfold State.requestRise
  try dsimp only
  repeat' first
    | (with_reducible assumption)
    | (split)
    | (with_reducible refine Kept.foldl ?_ ?_)
    | decide
    | (intro u hu x hx)
    | (intro u hu)
    | (refine Kept.notMode_of_mem (by with_reducible assumption) (by decide))
    | (with_reducible apply Kept.emit)
    | (with_reducible apply Kept.wake)
    | decide

theorem Kept.applySched {s0 s : State} {d : Nat} {target : Nat} (hk0 : Kept s0 s) :
    Kept s0 (State.applySched s d target) := by
  unfold State.applySched
  try dsimp only
  repeat' first
    | (with_reducible assumption)
    | (split)
    | (with_reducible refine Kept.foldl ?_ ?_)
    | decide
    | (intro u hu x hx)
    | (intro u hu)
    | (refine Kept.notMode_of_mem (by with_reducible assumption) (by decide))
    | (with_reducible apply Kept.emit)
    | (with_reducible apply Kept.wake)
    | (with_reducible apply Kept.dropRequest)
    | (with_reducible apply Kept.requestFall)
    | decide

theorem Kept.unsched {s0 s : State} {d : Nat} (hk0 : Kept s0 s) :
    Kept s0 (State.unsched s d) := by
  unfold State.unsched
  try dsimp only
  repeat' first
    | (with_reducible assumption)
    | (split)
    | (with_reducible refine Kept.foldl ?_ ?_)
    | decide
    | (intro u hu x hx)
    | (intro u hu)
    | (refine Kept.notMode_of_mem (by with_reducible assumption) (by decide))
    | (with_reducible apply Kept.emit)
    | (with_reducible apply Kept.setDom)
    | (with_reducible refine Kept.mk_other ?_)
    | decide

theorem Kept.schedule {s0 s : State} {d : Nat} {target : Nat} {at_ : Int} (hk0 : Kept s0 s) :
    Kept s0 (State.schedule s d target at_) := by
  unfold State.schedule
  try dsimp only
  repeat' first
    | (with_reducible assumption)
    | (split)
    | (with_reducible refine Kept.foldl ?_ ?_)
    | decide
    | (intro u hu x hx)
    | (intro u hu)
    | (refine Kept.notMode_of_mem (by with_reducible assumption) (by decide))
    | (with_reducible apply Kept.emit)
    | (with_reducible apply Kept.unsched)
    | (with_reducible apply Kept.applySched)
    | (with_reducible apply Kept.setDom)
    | (with_reducible refine Kept.mk_other ?_)
    | decide

theorem Kept.pwrRequest {s0 s : State} {p : List Byte} (hk0 : Kept s0 s) :
    Kept s0 (State.pwrRequest s p).1 := by
  unfold State.pwrRequest
  try dsimp only
  repeat' first
    | (with_reducible assumption)
    | (split)
    | (with_reducible refine Kept.foldl ?_ ?_)
    | decide
    | (intro u hu x hx)
    | (intro u hu)
    | (refine Kept.notMode_of_mem (by with_reducible assumption) (by decide))
    | (with_reducible apply Kept.emit)
    | (with_reducible apply Kept.unsched)
    | (with_reducible apply Kept.schedule)
    | (with_reducible apply Kept.requestRise)
    | (with_reducible apply Kept.requestFall)
    | (with_reducible refine Kept.fst ?_ (by with_reducible assumption))
    | (with_reducible refine Kept.snd ?_ (by with_reducible assumption))
    | (with_reducible refine Kept.mk_other ?_)
    | decide

theorem Kept.pwrStatus {s0 s : State} {p : List Byte} (hk0 : Kept s0 s) :
    Kept s0 (State.pwrStatus s p).1 := by
  unfold State.pwrStatus
  try dsimp only
  repeat' first
    | (with_reducible assumption)
    | (split)
    | (with_reducible refine Kept.foldl ?_ ?_)
    | decide
    | (intro u hu x hx)
    | (intro u hu)
    | (refine Kept.notMode_of_mem (by with_reducible assumption) (by decide))
    | (with_reducible apply Kept.emit)
    | (with_reducible refine Kept.fst ?_ (by with_reducible assumption))
    | (with_reducible refine Kept.snd ?_ (by with_reducible assumption))
    | (with_reducible refine Kept.mk_other ?_)
    | decide

theorem Kept.pwrWake {s0 s : State} {v : Nat} (hk0 : Kept s0 s) :
    Kept s0 (State.pwrWake s v) := by
  unfold State.pwrWake
  try dsimp only
  repeat' first
    | (with_reducible assumption)
    | (split)
    | (with_reducible refine Kept.foldl ?_ ?_)
    | decide
    | (intro u hu x hx)
    | (intro u hu)
    | (refine Kept.notMode_of_mem (by with_reducible assumption) (by decide))
    | (with_reducible apply Kept.emit)
    | (with_reducible apply Kept.wake)
    | decide

theorem Kept.setMv {s0 s : State} {mv : Nat} (hk0 : Kept s0 s) :
    Kept s0 (State.setMv s mv) := by
  unfold State.setMv
  try dsimp only
  repeat' first
    | (with_reducible assumption)
    | (split)
    | (with_reducible refine Kept.foldl ?_ ?_)
    | decide
    | (intro u hu x hx)
    | (intro u hu)
    | (refine Kept.notMode_of_mem (by with_reducible assumption) (by decide))
    | (with_reducible refine Kept.wr ?_ (by first | decide | with_reducible assumption | exact Kept.notMode_of_mem (by with_reducible assumption) (by decide) | exact Kept.notMode_of_mem_fst (by with_reducible assumption) (by with_unfolding_all rfl)))
    | (with_reducible refine Kept.wrMode ?_ 4 (by decide) (by first | decide | with_reducible assumption))
    | (with_reducible refine Kept.wrMode ?_ 5 (by decide) (by first | decide | with_reducible assumption))
    | (with_reducible refine Kept.wrMode ?_ 8 (by decide) (by first | decide | with_reducible assumption))
    | (with_reducible apply Kept.emit)
    | (with_reducible apply Kept.wrB)
    | decide

theorem Kept.writePol {s0 s : State} {k : Nat} {v : Nat} (hk0 : Kept s0 s) :
    Kept s0 (State.writePol s k v) := by
  unfold State.writePol
  try dsimp only
  repeat' first
    | (with_reducible assumption)
    | (split)
    | (with_reducible refine Kept.foldl ?_ ?_)
    | decide
    | (intro u hu x hx)
    | (intro u hu)
    | (refine Kept.notMode_of_mem (by with_reducible assumption) (by decide))
    | (with_reducible apply Kept.emit)
    | (with_reducible apply Kept.writeFields)
    | (with_reducible apply Kept.railSet)
    | decide

end Sys2Proof.Machine
end

