-- ==== Sys2Proof/Laws/KeptReset.lean ====
section
/-! SUPPORT. What the operations of Reset keep (Laws/Kept.lean). -/

namespace Sys2Proof.Machine

set_option Elab.async false
set_option linter.all false

theorem Kept.railsDrop {s0 s : State} (hk0 : Kept s0 s) :
    Kept s0 (State.railsDrop s) := by
  unfold State.railsDrop
  try dsimp only
  repeat' first
    | (with_reducible assumption)
    | (split)
    | (with_reducible refine Kept.foldl ?_ ?_)
    | decide
    | (intro u hu x hx)
    | (intro u hu)
    | (refine Kept.notMode_of_mem (by with_reducible assumption) (by decide))
    | (with_reducible apply Kept.emit)
    | (with_reducible apply Kept.railsOff)
    | decide

theorem Kept.cleared {s0 s : State} (h : Kept s0 s) : Kept s0 (State.cleared s) :=
  Kept.cutFields h keptField rfl rfl rfl rfl rfl rfl

theorem Kept.resetComplex {s0 s : State} (hk0 : Kept s0 s) :
    Kept s0 (State.resetComplex s) := by
  unfold State.resetComplex
  try dsimp only
  repeat' first
    | (with_reducible assumption)
    | (split)
    | (with_reducible refine Kept.foldl ?_ ?_)
    | decide
    | (intro u hu x hx)
    | (intro u hu)
    | (refine Kept.notMode_of_mem (by with_reducible assumption) (by decide))
    | (with_reducible apply Kept.emit)
    | (with_reducible apply Kept.incWrap)
    | (with_reducible apply Kept.railsDrop)
    | (with_reducible apply Kept.cleared)
    | decide

theorem Kept.startUp {s0 s : State} (hk0 : Kept s0 s) :
    Kept s0 (State.startUp s) := by
  unfold State.startUp
  try dsimp only
  repeat' first
    | (with_reducible assumption)
    | (split)
    | (with_reducible refine Kept.foldl ?_ ?_)
    | decide
    | (intro u hu x hx)
    | (intro u hu)
    | (refine Kept.notMode_of_mem (by with_reducible assumption) (by decide))
    | (with_reducible apply Kept.emit)
    | (with_reducible apply Kept.startRise)
    | (with_reducible apply Kept.advanceRises)
    | decide

theorem Kept.writeGlbCtl {s0 s : State} {v : Nat} (hk0 : Kept s0 s) :
    Kept s0 (State.writeGlbCtl s v) := by
  unfold State.writeGlbCtl
  try dsimp only
  repeat' first
    | (with_reducible assumption)
    | (split)
    | (with_reducible refine Kept.foldl ?_ ?_)
    | decide
    | (intro u hu x hx)
    | (intro u hu)
    | (refine Kept.notMode_of_mem (by with_reducible assumption) (by decide))
    | (with_reducible refine Kept.wr ?_ (by first | decide | with_reducible assumption | exact Kept.notMode_of_mem (by with_reducible assumption) (by decide) | exact Kept.notMode_of_mem_fst (by with_reducible assumption) (by with_unfolding_all rfl)))
    | (with_reducible refine Kept.wrMode ?_ 4 (by decide) (by first | decide | with_reducible assumption))
    | (with_reducible refine Kept.wrMode ?_ 5 (by decide) (by first | decide | with_reducible assumption))
    | (with_reducible refine Kept.wrMode ?_ 8 (by decide) (by first | decide | with_reducible assumption))
    | (with_reducible apply Kept.emit)
    | (with_reducible apply Kept.resetComplex)
    | (with_reducible apply Kept.putBnd)
    | (with_reducible refine Kept.mk_other ?_)
    | decide

theorem Kept.coldCleared {s0 s : State} {byPin : Bool} (h : Kept s0 s) : Kept s0 (State.coldCleared s byPin) :=
  Kept.cutFields h (fun k => clockField k.1) rfl rfl rfl rfl rfl rfl

end Sys2Proof.Machine
end

