-- ==== Sys2Proof/Laws/ArmsBoundary.lean ====
section
/-! SUPPORT. What the commands of Boundary keep (Laws/Kept.lean): one lemma per command, over the lemmas of its operations. -/

namespace Sys2Proof.Machine

set_option Elab.async false
set_option linter.all false

theorem execTreModCmdStart_kept {port : PortId} {t : TreeId} {v : BitVec 32} {s : State} {nx : State} (hex : execTreModCmdStart port t v s = .next nx) : Kept s nx := by
  unfold execTreModCmdStart at hex
  rw [← Host.Outcome.next.inj hex]
  have hk0 := Kept.refl s
  try dsimp only
  repeat' first
    | (with_reducible assumption)
    | (split)
    | (with_reducible refine Kept.foldl ?_ ?_)
    | decide
    | (intro u hu x hx)
    | (intro u hu)
    | (refine Kept.notMode_of_mem (by with_reducible assumption) (by decide))
    | (with_reducible apply Kept.emit)
    | (with_reducible apply Kept.winWrite)
    | (with_reducible apply Kept.writeModCmd)
    | (with_reducible refine Kept.fst ?_ (by with_reducible assumption))
    | (with_reducible refine Kept.snd ?_ (by with_reducible assumption))
    | decide

theorem execModTransactionDone_kept {bus : Fin 12} {ack : Bool} {data : BitVec 32} {optics : Optics} {s : State} {nx : State} (hex : execModTransactionDone bus ack data optics s = .next nx) : Kept s nx := by
  unfold execModTransactionDone at hex
  rw [← Host.Outcome.next.inj hex]
  have hk0 := Kept.refl s
  try dsimp only
  repeat' first
    | (with_reducible assumption)
    | (split)
    | (with_reducible refine Kept.foldl ?_ ?_)
    | decide
    | (intro u hu x hx)
    | (intro u hu)
    | (refine Kept.notMode_of_mem (by with_reducible assumption) (by decide))
    | (with_reducible apply Kept.emit)
    | (with_reducible refine Kept.busEnd ?_ (by with_reducible assumption))
    | (with_reducible apply Kept.pollNext)
    | (with_reducible apply Kept.modDone)
    | (with_reducible apply Kept.busNext)
    | (with_reducible refine Kept.fst ?_ (by with_reducible assumption))
    | (with_reducible refine Kept.snd ?_ (by with_reducible assumption))
    | (with_reducible refine Kept.mk_other ?_)
    | decide

theorem execClockStretchTimeout_kept {bus : Fin 12} {s : State} {nx : State} (hex : execClockStretchTimeout bus s = .next nx) : Kept s nx := by
  unfold execClockStretchTimeout at hex
  rw [← Host.Outcome.next.inj hex]
  have hk0 := Kept.refl s
  try dsimp only
  repeat' first
    | (with_reducible assumption)
    | (split)
    | (with_reducible refine Kept.foldl ?_ ?_)
    | decide
    | (intro u hu x hx)
    | (intro u hu)
    | (refine Kept.notMode_of_mem (by with_reducible assumption) (by decide))
    | (with_reducible apply Kept.emit)
    | (with_reducible refine Kept.busEnd ?_ (by with_reducible assumption))
    | (with_reducible apply Kept.modDone)
    | (with_reducible apply Kept.busNext)
    | (with_reducible refine Kept.fst ?_ (by with_reducible assumption))
    | (with_reducible refine Kept.snd ?_ (by with_reducible assumption))
    | (with_reducible refine Kept.mk_other ?_)
    | decide

theorem execModulePoll_kept {s : State} {nx : State} (hex : execModulePoll s = .next nx) : Kept s nx := by
  unfold execModulePoll at hex
  rw [← Host.Outcome.next.inj hex]
  have hk0 := Kept.refl s
  try dsimp only
  repeat' first
    | (with_reducible assumption)
    | (split)
    | (with_reducible refine Kept.foldl ?_ ?_)
    | decide
    | (intro u hu x hx)
    | (intro u hu)
    | (refine Kept.notMode_of_mem (by with_reducible assumption) (by decide))
    | (with_reducible apply Kept.emit)
    | (with_reducible apply Kept.pollAdd)
    | (with_reducible refine Kept.fst ?_ (by with_reducible assumption))
    | (with_reducible refine Kept.snd ?_ (by with_reducible assumption))
    | decide

end Sys2Proof.Machine
end

