-- ==== Sys2Proof/Laws/ArmsBuffers.lean ====
section
/-! SUPPORT. What the commands of Buffers keep (Laws/Kept.lean): one lemma per command, over the lemmas of its operations. -/

namespace Sys2Proof.Machine

set_option Elab.async false
set_option linter.all false

theorem execBufferConfig_kept {src : Src} {s : State} {nx : State} (hex : execBufferConfig src s = .next nx) : Kept s nx := by
  unfold execBufferConfig at hex
  rw [← Host.Outcome.next.inj hex]
  have hk0 := Kept.refl s
  try dsimp only
  repeat' first
    | (with_reducible assumption)
    | (split)
    | (with_reducible refine Kept.foldl ?_ ?_)
    | decide
    | (intro u hu x hx)
    | (intro u hu)
    | (intro u src p hu)
    | (intro u p hu)
    | (refine Kept.notMode_of_mem (by with_reducible assumption) (by decide))
    | (with_reducible apply Kept.emit)
    | (with_reducible apply Kept.calvan)
    | (with_reducible apply Kept.atOnce)
    | (with_reducible apply Kept.bufferConfig)
    | (with_reducible refine Kept.fst ?_ (by with_reducible assumption))
    | (with_reducible refine Kept.snd ?_ (by with_reducible assumption))
    | decide

theorem execBufferStatus_kept {src : Src} {s : State} {nx : State} (hex : execBufferStatus src s = .next nx) : Kept s nx := by
  unfold execBufferStatus at hex
  rw [← Host.Outcome.next.inj hex]
  have hk0 := Kept.refl s
  try dsimp only
  repeat' first
    | (with_reducible assumption)
    | (split)
    | (with_reducible refine Kept.foldl ?_ ?_)
    | decide
    | (intro u hu x hx)
    | (intro u hu)
    | (intro u src p hu)
    | (intro u p hu)
    | (refine Kept.notMode_of_mem (by with_reducible assumption) (by decide))
    | (with_reducible apply Kept.emit)
    | (with_reducible apply Kept.calvan)
    | (with_reducible apply Kept.atOnce)
    | (with_reducible apply Kept.bufferStatus)
    | (with_reducible refine Kept.fst ?_ (by with_reducible assumption))
    | (with_reducible refine Kept.snd ?_ (by with_reducible assumption))
    | decide

theorem execQueueProfile_kept {src : Src} {s : State} {nx : State} (hex : execQueueProfile src s = .next nx) : Kept s nx := by
  unfold execQueueProfile at hex
  rw [← Host.Outcome.next.inj hex]
  have hk0 := Kept.refl s
  try dsimp only
  repeat' first
    | (with_reducible assumption)
    | (split)
    | (with_reducible refine Kept.foldl ?_ ?_)
    | decide
    | (intro u hu x hx)
    | (intro u hu)
    | (intro u src p hu)
    | (intro u p hu)
    | (refine Kept.notMode_of_mem (by with_reducible assumption) (by decide))
    | (with_reducible apply Kept.emit)
    | (with_reducible apply Kept.calvan)
    | (with_reducible apply Kept.atOnce)
    | (with_reducible apply Kept.queueProfile)
    | (with_reducible refine Kept.fst ?_ (by with_reducible assumption))
    | (with_reducible refine Kept.snd ?_ (by with_reducible assumption))
    | decide

theorem execQueueSet_kept {src : Src} {s : State} {nx : State} (hex : execQueueSet src s = .next nx) : Kept s nx := by
  unfold execQueueSet at hex
  rw [← Host.Outcome.next.inj hex]
  have hk0 := Kept.refl s
  try dsimp only
  repeat' first
    | (with_reducible assumption)
    | (split)
    | (with_reducible refine Kept.foldl ?_ ?_)
    | decide
    | (intro u hu x hx)
    | (intro u hu)
    | (intro u src p hu)
    | (intro u p hu)
    | (refine Kept.notMode_of_mem (by with_reducible assumption) (by decide))
    | (with_reducible apply Kept.emit)
    | (with_reducible apply Kept.calvan)
    | (with_reducible apply Kept.atOnce)
    | (with_reducible apply Kept.queueSet)
    | (with_reducible refine Kept.fst ?_ (by with_reducible assumption))
    | (with_reducible refine Kept.snd ?_ (by with_reducible assumption))
    | decide

theorem execQueueStatus_kept {src : Src} {s : State} {nx : State} (hex : execQueueStatus src s = .next nx) : Kept s nx := by
  unfold execQueueStatus at hex
  rw [← Host.Outcome.next.inj hex]
  have hk0 := Kept.refl s
  try dsimp only
  repeat' first
    | (with_reducible assumption)
    | (split)
    | (with_reducible refine Kept.foldl ?_ ?_)
    | decide
    | (intro u hu x hx)
    | (intro u hu)
    | (intro u src p hu)
    | (intro u p hu)
    | (refine Kept.notMode_of_mem (by with_reducible assumption) (by decide))
    | (with_reducible apply Kept.emit)
    | (with_reducible apply Kept.calvan)
    | (with_reducible apply Kept.atOnce)
    | (with_reducible apply Kept.queueStatus)
    | (with_reducible refine Kept.fst ?_ (by with_reducible assumption))
    | (with_reducible refine Kept.snd ?_ (by with_reducible assumption))
    | decide

theorem execTrunkIngress_kept {lane : LaneId} {hdr : List Byte} {frame : List Byte} {s : State} {nx : State} (hex : execTrunkIngress lane hdr frame s = .next nx) : Kept s nx := by
  unfold execTrunkIngress at hex
  rw [← Host.Outcome.next.inj hex]
  have hk0 := Kept.refl s
  try dsimp only
  repeat' first
    | (with_reducible assumption)
    | (split)
    | (with_reducible refine Kept.foldl ?_ ?_)
    | decide
    | (intro u hu x hx)
    | (intro u hu)
    | (refine Kept.notMode_of_mem (by with_reducible assumption) (by decide))
    | (with_reducible apply Kept.emit)
    | (with_reducible apply Kept.addCnt)
    | (with_reducible apply Kept.blockEvent)
    | (with_reducible apply Kept.setBuf)
    | (with_reducible apply Kept.ingressDrop)
    | (with_reducible apply Kept.take)
    | (with_reducible refine Kept.takeCells ?_ (by with_reducible assumption))
    | (with_reducible apply Kept.returnCredit)
    | (with_reducible refine Kept.fst ?_ (by with_reducible assumption))
    | (with_reducible refine Kept.snd ?_ (by with_reducible assumption))
    | (with_reducible refine Kept.mk_other ?_)
    | decide

theorem execTrunkSend_kept {lane : LaneId} {s : State} {nx : State} (hex : execTrunkSend lane s = .next nx) : Kept s nx := by
  unfold execTrunkSend at hex
  rw [← Host.Outcome.next.inj hex]
  have hk0 := Kept.refl s
  try dsimp only
  repeat' first
    | (with_reducible assumption)
    | (split)
    | (with_reducible refine Kept.foldl ?_ ?_)
    | decide
    | (intro u hu x hx)
    | (intro u hu)
    | (refine Kept.notMode_of_mem (by with_reducible assumption) (by decide))
    | (with_reducible apply Kept.emit)
    | (with_reducible apply Kept.blockEvent)
    | (with_reducible apply Kept.cellRead)
    | (with_reducible apply Kept.loseHead)
    | (with_reducible apply Kept.setEgressQ)
    | (with_reducible apply Kept.setBuf)
    | (with_reducible apply Kept.addCnt)
    | (with_reducible apply Kept.freeCells)
    | (with_reducible apply Kept.finishTx)
    | (with_reducible apply Kept.egressSettle)
    | (with_reducible refine Kept.fst ?_ (by with_reducible assumption))
    | (with_reducible refine Kept.snd ?_ (by with_reducible assumption))
    | (with_reducible refine Kept.mk_other ?_)
    | decide

theorem execCreditReturn_kept {lane : LaneId} {cls : Fin 8} {count : Nat} {s : State} {nx : State} (hex : execCreditReturn lane cls count s = .next nx) : Kept s nx := by
  unfold execCreditReturn at hex
  rw [← Host.Outcome.next.inj hex]
  have hk0 := Kept.refl s
  try dsimp only
  repeat' first
    | (with_reducible assumption)
    | (split)
    | (with_reducible refine Kept.foldl ?_ ?_)
    | decide
    | (intro u hu x hx)
    | (intro u hu)
    | (refine Kept.notMode_of_mem (by with_reducible assumption) (by decide))
    | (with_reducible apply Kept.emit)
    | (with_reducible apply Kept.setBuf)
    | (with_reducible apply Kept.blockEvent)
    | (with_reducible apply Kept.addCnt)
    | (with_reducible refine Kept.fst ?_ (by with_reducible assumption))
    | (with_reducible refine Kept.snd ?_ (by with_reducible assumption))
    | (with_reducible refine Kept.mk_other ?_)
    | decide

theorem execFeNotReady_kept {s : State} {nx : State} (hex : execFeNotReady s = .next nx) : Kept s nx := by
  unfold execFeNotReady at hex
  rw [← Host.Outcome.next.inj hex]
  have hk0 := Kept.refl s
  try dsimp only
  repeat' first
    | (with_reducible assumption)
    | (split)
    | (with_reducible refine Kept.foldl ?_ ?_)
    | decide
    | (intro u hu x hx)
    | (intro u hu)
    | (refine Kept.notMode_of_mem (by with_reducible assumption) (by decide))
    | (with_reducible apply Kept.emit)
    | (with_reducible apply Kept.setBuf)
    | (with_reducible refine Kept.fst ?_ (by with_reducible assumption))
    | (with_reducible refine Kept.snd ?_ (by with_reducible assumption))
    | (with_reducible refine Kept.mk_other ?_)
    | decide

theorem execFeReady_kept {s : State} {nx : State} (hex : execFeReady s = .next nx) : Kept s nx := by
  unfold execFeReady at hex
  rw [← Host.Outcome.next.inj hex]
  have hk0 := Kept.refl s
  try dsimp only
  repeat' first
    | (with_reducible assumption)
    | (split)
    | (with_reducible refine Kept.foldl ?_ ?_)
    | decide
    | (intro u hu x hx)
    | (intro u hu)
    | (refine Kept.notMode_of_mem (by with_reducible assumption) (by decide))
    | (with_reducible apply Kept.emit)
    | (with_reducible apply Kept.setBuf)
    | (with_reducible refine Kept.fst ?_ (by with_reducible assumption))
    | (with_reducible refine Kept.snd ?_ (by with_reducible assumption))
    | (with_reducible refine Kept.mk_other ?_)
    | decide

theorem execStagingRefill_kept {t : TreeId} {term : TermId} {cls : Fin 8} {errs : List Upset} {s : State} {nx : State} (hex : execStagingRefill t term cls errs s = .next nx) : Kept s nx := by
  unfold execStagingRefill at hex
  rw [← Host.Outcome.next.inj hex]
  have hk0 := Kept.refl s
  try dsimp only
  repeat' first
    | (with_reducible assumption)
    | (split)
    | (with_reducible refine Kept.foldl ?_ ?_)
    | decide
    | (intro u hu x hx)
    | (intro u hu)
    | (refine Kept.notMode_of_mem (by with_reducible assumption) (by decide))
    | (with_reducible apply Kept.emit)
    | (with_reducible apply Kept.upset)
    | (with_reducible apply Kept.setBuf)
    | (with_reducible apply Kept.serveRefill)
    | (with_reducible refine Kept.fst ?_ (by with_reducible assumption))
    | (with_reducible refine Kept.snd ?_ (by with_reducible assumption))
    | (with_reducible refine Kept.mk_other ?_)
    | decide

theorem execOrphanReclaim_kept {s : State} {nx : State} (hex : execOrphanReclaim s = .next nx) : Kept s nx := by
  unfold execOrphanReclaim at hex
  rw [← Host.Outcome.next.inj hex]
  have hk0 := Kept.refl s
  try dsimp only
  repeat' first
    | (with_reducible assumption)
    | (split)
    | (with_reducible refine Kept.foldl ?_ ?_)
    | decide
    | (intro u hu x hx)
    | (intro u hu)
    | (refine Kept.notMode_of_mem (by with_reducible assumption) (by decide))
    | (with_reducible apply Kept.emit)
    | (with_reducible apply Kept.setBuf)
    | (with_reducible apply Kept.givePages)
    | (with_reducible apply Kept.settleAll)
    | (with_reducible refine Kept.fst ?_ (by with_reducible assumption))
    | (with_reducible refine Kept.snd ?_ (by with_reducible assumption))
    | (with_reducible refine Kept.mk_other ?_)
    | decide

theorem execSpillWrite_kept {lane : LaneId} {cls : Fin 8} {s : State} {nx : State} (hex : execSpillWrite lane cls s = .next nx) : Kept s nx := by
  unfold execSpillWrite at hex
  rw [← Host.Outcome.next.inj hex]
  have hk0 := Kept.refl s
  try dsimp only
  repeat' first
    | (with_reducible assumption)
    | (split)
    | (with_reducible refine Kept.foldl ?_ ?_)
    | decide
    | (intro u hu x hx)
    | (intro u hu)
    | (refine Kept.notMode_of_mem (by with_reducible assumption) (by decide))
    | (with_reducible apply Kept.emit)
    | (with_reducible apply Kept.cellRead)
    | (with_reducible apply Kept.setEgressQ)
    | (with_reducible apply Kept.freeCells)
    | (with_reducible apply Kept.endFrame)
    | (with_reducible apply Kept.egressSettle)
    | (with_reducible refine Kept.takePages ?_ (by with_reducible assumption))
    | (with_reducible apply Kept.addCnt)
    | (with_reducible apply Kept.blockEvent)
    | (with_reducible apply Kept.settleAll)
    | (with_reducible refine Kept.fst ?_ (by with_reducible assumption))
    | (with_reducible refine Kept.snd ?_ (by with_reducible assumption))
    | (with_reducible refine Kept.mk_other ?_)
    | decide

theorem execSpillReadback_kept {lane : LaneId} {cls : Fin 8} {s : State} {nx : State} (hex : execSpillReadback lane cls s = .next nx) : Kept s nx := by
  unfold execSpillReadback at hex
  rw [← Host.Outcome.next.inj hex]
  have hk0 := Kept.refl s
  try dsimp only
  repeat' first
    | (with_reducible assumption)
    | (split)
    | (with_reducible refine Kept.foldl ?_ ?_)
    | decide
    | (intro u hu x hx)
    | (intro u hu)
    | (refine Kept.notMode_of_mem (by with_reducible assumption) (by decide))
    | (with_reducible apply Kept.emit)
    | (with_reducible apply Kept.linkRead)
    | (with_reducible apply Kept.cutSpill)
    | (with_reducible apply Kept.settleAll)
    | (with_reducible apply Kept.stackRead)
    | (with_reducible apply Kept.popSpill)
    | (with_reducible apply Kept.addCnt)
    | (with_reducible apply Kept.endFrame)
    | (with_reducible refine Kept.takeCells ?_ (by with_reducible assumption))
    | (with_reducible apply Kept.blockEvent)
    | (with_reducible refine Kept.fst ?_ (by with_reducible assumption))
    | (with_reducible refine Kept.snd ?_ (by with_reducible assumption))
    | (with_reducible refine Kept.mk_other ?_)
    | decide

end Sys2Proof.Machine
end

