-- ==== Sys2Proof/Laws/ArmsCalvan.lean ====
section
/-! SUPPORT. What the commands of Calvan keep (Laws/Kept.lean): one lemma per command, over the lemmas of its operations. -/

namespace Sys2Proof.Machine

set_option Elab.async false
set_option linter.all false

theorem execMbxGo_kept {port : PortId} {n : MbxId} {errs : List Upset} {s : State} {nx : State} (hex : execMbxGo port n errs s = .next nx) : Kept s nx := by
  unfold execMbxGo at hex
  rw [← Host.Outcome.next.inj hex]
  have hk0 := Kept.refl s
  try dsimp only
  repeat' first
    | (with_reducible assumption)
    | (split)
    | (with_reducible refine Kept.foldl ?_ ?_)
    | decide
    | (intro u hu x hx)
    | (intro u hu)
    | (refine Kept.notMode_of_mem (by with_reducible assumption) (by decide))
    | (with_reducible apply Kept.emit)
    | (with_reducible apply Kept.upset)
    | (with_reducible apply Kept.winWrite)
    | (with_reducible apply Kept.mailboxGo)
    | (with_reducible refine Kept.fst ?_ (by with_reducible assumption))
    | (with_reducible refine Kept.snd ?_ (by with_reducible assumption))
    | decide

theorem execMbxReady_kept {s : State} {nx : State} (hex : execMbxReady s = .next nx) : Kept s nx := by
  unfold execMbxReady at hex
  rw [← Host.Outcome.next.inj hex]
  have hk0 := Kept.refl s
  try dsimp only
  repeat' first
    | (with_reducible assumption)
    | (split)
    | (with_reducible refine Kept.foldl ?_ ?_)
    | decide
    | (intro u hu x hx)
    | (intro u hu)
    | (refine Kept.notMode_of_mem (by with_reducible assumption) (by decide))
    | (with_reducible refine Kept.wr ?_ (by first | decide | with_reducible assumption | exact Kept.notMode_of_mem (by with_reducible assumption) (by decide) | exact Kept.notMode_of_mem_fst (by with_reducible assumption) (by with_unfolding_all rfl)))
    | (with_reducible refine Kept.wrMode ?_ 4 (by decide) (by first | decide | with_reducible assumption))
    | (with_reducible refine Kept.wrMode ?_ 5 (by decide) (by first | decide | with_reducible assumption))
    | (with_reducible refine Kept.wrMode ?_ 8 (by decide) (by first | decide | with_reducible assumption))
    | (with_reducible apply Kept.emit)
    | (with_reducible apply Kept.pumpAll)
    | (with_reducible refine Kept.fst ?_ (by with_reducible assumption))
    | (with_reducible refine Kept.snd ?_ (by with_reducible assumption))
    | decide

theorem execSiteTrained_kept {site : Fin 4} {s : State} {nx : State} (hex : execSiteTrained site s = .next nx) : Kept s nx := by
  unfold execSiteTrained at hex
  rw [← Host.Outcome.next.inj hex]
  have hk0 := Kept.refl s
  try dsimp only
  repeat' first
    | (with_reducible assumption)
    | (split)
    | (with_reducible refine Kept.foldl ?_ ?_)
    | decide
    | (intro u hu x hx)
    | (intro u hu)
    | (refine Kept.notMode_of_mem (by with_reducible assumption) (by decide))
    | (with_reducible refine Kept.wr ?_ (by first | decide | with_reducible assumption | exact Kept.notMode_of_mem (by with_reducible assumption) (by decide) | exact Kept.notMode_of_mem_fst (by with_reducible assumption) (by with_unfolding_all rfl)))
    | (with_reducible refine Kept.wrMode ?_ 4 (by decide) (by first | decide | with_reducible assumption))
    | (with_reducible refine Kept.wrMode ?_ 5 (by decide) (by first | decide | with_reducible assumption))
    | (with_reducible refine Kept.wrMode ?_ 8 (by decide) (by first | decide | with_reducible assumption))
    | (with_reducible apply Kept.emit)
    | (with_reducible apply Kept.evalService)
    | (with_reducible apply Kept.tableInit)
    | (with_reducible refine Kept.fst ?_ (by with_reducible assumption))
    | (with_reducible refine Kept.snd ?_ (by with_reducible assumption))
    | decide

theorem execFwLoad_kept {src : Src} {s : State} {nx : State} (hex : execFwLoad src s = .next nx) : Kept s nx := by
  unfold execFwLoad at hex
  rw [← Host.Outcome.next.inj hex]
  have hk0 := Kept.refl s
  try dsimp only
  repeat' first
    | (with_reducible assumption)
    | (split)
    | (with_reducible refine Kept.foldl ?_ ?_)
    | decide
    | (intro u hu x hx)
    | (intro u hu)
    | (intro u src p hu)
    | (intro u p hu)
    | (refine Kept.notMode_of_mem (by with_reducible assumption) (by decide))
    | (with_reducible apply Kept.emit)
    | (with_reducible apply Kept.calvan)
    | (with_reducible apply Kept.fwLoad)
    | (with_reducible refine Kept.fst ?_ (by with_reducible assumption))
    | (with_reducible refine Kept.snd ?_ (by with_reducible assumption))
    | decide

theorem execFwLoadReadDone_kept {src : Src} {timedOut : Bool} {s : State} {nx : State} (hex : execFwLoadReadDone src timedOut s = .next nx) : Kept s nx := by
  unfold execFwLoadReadDone at hex
  rw [← Host.Outcome.next.inj hex]
  have hk0 := Kept.refl s
  try dsimp only
  repeat' first
    | (with_reducible assumption)
    | (split)
    | (with_reducible refine Kept.foldl ?_ ?_)
    | decide
    | (intro u hu x hx)
    | (intro u hu)
    | (refine Kept.notMode_of_mem (by with_reducible assumption) (by decide))
    | (with_reducible apply Kept.emit)
    | (with_reducible apply Kept.putCp)
    | (with_reducible apply Kept.answerLater)
    | (with_reducible apply Kept.setSlots)
    | (with_reducible apply Kept.holdUntested)
    | (with_reducible refine Kept.fst ?_ (by with_reducible assumption))
    | (with_reducible refine Kept.snd ?_ (by with_reducible assumption))
    | (with_reducible refine Kept.mk_other ?_)
    | decide

theorem execFwStart_kept {src : Src} {s : State} {nx : State} (hex : execFwStart src s = .next nx) : Kept s nx := by
  unfold execFwStart at hex
  rw [← Host.Outcome.next.inj hex]
  have hk0 := Kept.refl s
  try dsimp only
  repeat' first
    | (with_reducible assumption)
    | (split)
    | (with_reducible refine Kept.foldl ?_ ?_)
    | decide
    | (intro u hu x hx)
    | (intro u hu)
    | (intro u src p hu)
    | (intro u p hu)
    | (refine Kept.notMode_of_mem (by with_reducible assumption) (by decide))
    | (with_reducible apply Kept.emit)
    | (with_reducible apply Kept.calvan)
    | (with_reducible apply Kept.atOnce)
    | (with_reducible apply Kept.fwStart)
    | (with_reducible refine Kept.fst ?_ (by with_reducible assumption))
    | (with_reducible refine Kept.snd ?_ (by with_reducible assumption))
    | decide

theorem execFwStatus_kept {src : Src} {s : State} {nx : State} (hex : execFwStatus src s = .next nx) : Kept s nx := by
  unfold execFwStatus at hex
  rw [← Host.Outcome.next.inj hex]
  have hk0 := Kept.refl s
  try dsimp only
  repeat' first
    | (with_reducible assumption)
    | (split)
    | (with_reducible refine Kept.foldl ?_ ?_)
    | decide
    | (intro u hu x hx)
    | (intro u hu)
    | (intro u src p hu)
    | (intro u p hu)
    | (refine Kept.notMode_of_mem (by with_reducible assumption) (by decide))
    | (with_reducible apply Kept.emit)
    | (with_reducible apply Kept.calvan)
    | (with_reducible apply Kept.atOnce)
    | (with_reducible apply Kept.fwStatus)
    | (with_reducible refine Kept.fst ?_ (by with_reducible assumption))
    | (with_reducible refine Kept.snd ?_ (by with_reducible assumption))
    | decide

theorem execDevInfo_kept {src : Src} {s : State} {nx : State} (hex : execDevInfo src s = .next nx) : Kept s nx := by
  unfold execDevInfo at hex
  rw [← Host.Outcome.next.inj hex]
  have hk0 := Kept.refl s
  try dsimp only
  repeat' first
    | (with_reducible assumption)
    | (split)
    | (with_reducible refine Kept.foldl ?_ ?_)
    | decide
    | (intro u hu x hx)
    | (intro u hu)
    | (intro u src p hu)
    | (intro u p hu)
    | (refine Kept.notMode_of_mem (by with_reducible assumption) (by decide))
    | (with_reducible apply Kept.emit)
    | (with_reducible apply Kept.calvan)
    | (with_reducible apply Kept.atOnce)
    | (with_reducible apply Kept.devInfo)
    | (with_reducible refine Kept.fst ?_ (by with_reducible assumption))
    | (with_reducible refine Kept.snd ?_ (by with_reducible assumption))
    | decide

theorem execTimeSelect_kept {src : Src} {s : State} {nx : State} (hex : execTimeSelect src s = .next nx) : Kept s nx := by
  unfold execTimeSelect at hex
  rw [← Host.Outcome.next.inj hex]
  have hk0 := Kept.refl s
  try dsimp only
  repeat' first
    | (with_reducible assumption)
    | (split)
    | (with_reducible refine Kept.foldl ?_ ?_)
    | decide
    | (intro u hu x hx)
    | (intro u hu)
    | (intro u src p hu)
    | (intro u p hu)
    | (refine Kept.notMode_of_mem (by with_reducible assumption) (by decide))
    | (with_reducible apply Kept.emit)
    | (with_reducible apply Kept.calvan)
    | (with_reducible apply Kept.atOnce)
    | (with_reducible apply Kept.timeSelect)
    | (with_reducible refine Kept.fst ?_ (by with_reducible assumption))
    | (with_reducible refine Kept.snd ?_ (by with_reducible assumption))
    | decide

theorem execLockstepMismatch_kept {s : State} {nx : State} (hex : execLockstepMismatch s = .next nx) : Kept s nx := by
  unfold execLockstepMismatch at hex
  rw [← Host.Outcome.next.inj hex]
  have hk0 := Kept.refl s
  try dsimp only
  repeat' first
    | (with_reducible assumption)
    | (split)
    | (with_reducible refine Kept.foldl ?_ ?_)
    | decide
    | (intro u hu x hx)
    | (intro u hu)
    | (refine Kept.notMode_of_mem (by with_reducible assumption) (by decide))
    | (with_reducible apply Kept.emit)
    | (with_reducible apply Kept.cpHalt)
    | (with_reducible apply Kept.putCp)
    | (with_reducible apply Kept.setService)
    | (with_reducible refine Kept.fst ?_ (by with_reducible assumption))
    | (with_reducible refine Kept.snd ?_ (by with_reducible assumption))
    | (with_reducible refine Kept.mk_other ?_)
    | decide

theorem execCpRestartDone_kept {digestOk : Bool} {s : State} {nx : State} (hex : execCpRestartDone digestOk s = .next nx) : Kept s nx := by
  unfold execCpRestartDone at hex
  rw [← Host.Outcome.next.inj hex]
  have hk0 := Kept.refl s
  try dsimp only
  repeat' first
    | (with_reducible assumption)
    | (split)
    | (with_reducible refine Kept.foldl ?_ ?_)
    | decide
    | (intro u hu x hx)
    | (intro u hu)
    | (exact serviceDue_le _)
    | (refine Kept.notMode_of_mem (by with_reducible assumption) (by decide))
    | (with_reducible apply Kept.emit)
    | (with_reducible apply Kept.cpHalt)
    | (with_reducible apply Kept.setService)
    | (with_reducible apply Kept.incSat)
    | (with_reducible apply Kept.mbxEvent)
    | (with_reducible apply Kept.payOwed)
    | (with_reducible refine Kept.fst ?_ (by with_reducible assumption))
    | (with_reducible refine Kept.snd ?_ (by with_reducible assumption))
    | decide

end Sys2Proof.Machine
end

