-- ==== Sys2Proof/Laws/ArmsFabric.lean ====
section
/-! SUPPORT. What the commands of Fabric keep (Laws/Kept.lean): one lemma per command, over the lemmas of its operations. -/

namespace Sys2Proof.Machine

set_option Elab.async false
set_option linter.all false

theorem execBlockLockChange_kept {lane : Fin 16} {blocks : List LaneBlock} {los : Bool} {s : State} {nx : State} (hex : execBlockLockChange lane blocks los s = .next nx) : Kept s nx := by
  unfold execBlockLockChange at hex
  rw [← Host.Outcome.next.inj hex]
  have hk0 := Kept.refl s
  try dsimp only
  repeat' first
    | (with_reducible assumption)
    | (split)
    | (with_reducible refine Kept.foldl ?_ ?_)
    | decide
    | (intro u hu x hx)
    | (intro u hu)
    | (refine Kept.notMode_of_mem (by with_reducible assumption) (by decide))
    | (with_reducible apply Kept.emit)
    | (with_reducible apply Kept.laneHunt)
    | (with_reducible apply Kept.laneLos)
    | (with_reducible refine Kept.fst ?_ (by with_reducible assumption))
    | (with_reducible refine Kept.snd ?_ (by with_reducible assumption))
    | decide

theorem execCodewordLock_kept {link : LinkId} {skew : Nat} {words : List (List LaneBlock)} {s : State} {nx : State} (hex : execCodewordLock link skew words s = .next nx) : Kept s nx := by
  unfold execCodewordLock at hex
  rw [← Host.Outcome.next.inj hex]
  have hk0 := Kept.refl s
  try dsimp only
  repeat' first
    | (with_reducible assumption)
    | (split)
    | (with_reducible refine Kept.foldl ?_ ?_)
    | decide
    | (intro u hu x hx)
    | (intro u hu)
    | (refine Kept.notMode_of_mem (by with_reducible assumption) (by decide))
    | (with_reducible apply Kept.emit)
    | (with_reducible apply Kept.hearWords)
    | (with_reducible apply Kept.gainLock)
    | (with_reducible apply Kept.sendCodeword)
    | (with_reducible refine Kept.fst ?_ (by with_reducible assumption))
    | (with_reducible refine Kept.snd ?_ (by with_reducible assumption))
    | decide

theorem execCodewordReceived_kept {link : LinkId} {blocks : List LaneBlock} {s : State} {nx : State} (hex : execCodewordReceived link blocks s = .next nx) : Kept s nx := by
  unfold execCodewordReceived at hex
  rw [← Host.Outcome.next.inj hex]
  have hk0 := Kept.refl s
  try dsimp only
  repeat' first
    | (with_reducible assumption)
    | (split)
    | (with_reducible refine Kept.foldl ?_ ?_)
    | decide
    | (intro u hu x hx)
    | (intro u hu)
    | (refine Kept.notMode_of_mem (by with_reducible assumption) (by decide))
    | (with_reducible apply Kept.emit)
    | (with_reducible apply Kept.hearWord)
    | (with_reducible apply Kept.codewordIn)
    | (with_reducible apply Kept.sendCodeword)
    | (with_reducible refine Kept.fst ?_ (by with_reducible assumption))
    | (with_reducible refine Kept.snd ?_ (by with_reducible assumption))
    | decide

theorem execHelloSend_kept {link : LinkId} {s : State} {nx : State} (hex : execHelloSend link s = .next nx) : Kept s nx := by
  unfold execHelloSend at hex
  rw [← Host.Outcome.next.inj hex]
  have hk0 := Kept.refl s
  try dsimp only
  repeat' first
    | (with_reducible assumption)
    | (split)
    | (with_reducible refine Kept.foldl ?_ ?_)
    | decide
    | (intro u hu x hx)
    | (intro u hu)
    | (refine Kept.notMode_of_mem (by with_reducible assumption) (by decide))
    | (with_reducible apply Kept.emit)
    | (with_reducible apply Kept.sendHello)
    | (with_reducible refine Kept.fst ?_ (by with_reducible assumption))
    | (with_reducible refine Kept.snd ?_ (by with_reducible assumption))
    | decide

theorem execHelloReceived_kept {link : LinkId} {h : Hello} {s : State} {nx : State} (hex : execHelloReceived link h s = .next nx) : Kept s nx := by
  unfold execHelloReceived at hex
  rw [← Host.Outcome.next.inj hex]
  have hk0 := Kept.refl s
  try dsimp only
  repeat' first
    | (with_reducible assumption)
    | (split)
    | (with_reducible refine Kept.foldl ?_ ?_)
    | decide
    | (intro u hu x hx)
    | (intro u hu)
    | (refine Kept.notMode_of_mem (by with_reducible assumption) (by decide))
    | (with_reducible apply Kept.emit)
    | (with_reducible apply Kept.cellSeen)
    | (with_reducible apply Kept.helloIn)
    | (with_reducible refine Kept.fst ?_ (by with_reducible assumption))
    | (with_reducible refine Kept.snd ?_ (by with_reducible assumption))
    | decide

theorem execHelloDead_kept {link : LinkId} {s : State} {nx : State} (hex : execHelloDead link s = .next nx) : Kept s nx := by
  unfold execHelloDead at hex
  rw [← Host.Outcome.next.inj hex]
  have hk0 := Kept.refl s
  try dsimp only
  repeat' first
    | (with_reducible assumption)
    | (split)
    | (with_reducible refine Kept.foldl ?_ ?_)
    | decide
    | (intro u hu x hx)
    | (intro u hu)
    | (refine Kept.notMode_of_mem (by with_reducible assumption) (by decide))
    | (with_reducible apply Kept.emit)
    | (with_reducible apply Kept.adjRemove)
    | (with_reducible refine Kept.fst ?_ (by with_reducible assumption))
    | (with_reducible refine Kept.snd ?_ (by with_reducible assumption))
    | decide

theorem execCellReceived_kept {link : LinkId} {cell : List Byte} {s : State} {nx : State} (hex : execCellReceived link cell s = .next nx) : Kept s nx := by
  unfold execCellReceived at hex
  rw [← Host.Outcome.next.inj hex]
  have hk0 := Kept.refl s
  try dsimp only
  repeat' first
    | (with_reducible assumption)
    | (split)
    | (with_reducible refine Kept.foldl ?_ ?_)
    | decide
    | (intro u hu x hx)
    | (intro u hu)
    | (refine Kept.notMode_of_mem (by with_reducible assumption) (by decide))
    | (with_reducible apply Kept.emit)
    | (with_reducible apply Kept.cellSeen)
    | (with_reducible apply Kept.cellIn)
    | (with_reducible refine Kept.fst ?_ (by with_reducible assumption))
    | (with_reducible refine Kept.snd ?_ (by with_reducible assumption))
    | decide

theorem execClaimReceived_kept {link : LinkId} {cell : List Byte} {s : State} {nx : State} (hex : execClaimReceived link cell s = .next nx) : Kept s nx := by
  unfold execClaimReceived at hex
  rw [← Host.Outcome.next.inj hex]
  have hk0 := Kept.refl s
  try dsimp only
  repeat' first
    | (with_reducible assumption)
    | (split)
    | (with_reducible refine Kept.foldl ?_ ?_)
    | decide
    | (intro u hu x hx)
    | (intro u hu)
    | (refine Kept.notMode_of_mem (by with_reducible assumption) (by decide))
    | (with_reducible apply Kept.emit)
    | (with_reducible apply Kept.cellSeen)
    | (with_reducible apply Kept.claimIn)
    | (with_reducible apply Kept.cellIn)
    | (with_reducible refine Kept.fst ?_ (by with_reducible assumption))
    | (with_reducible refine Kept.snd ?_ (by with_reducible assumption))
    | decide

theorem execClaimRepeat_kept {s : State} {nx : State} (hex : execClaimRepeat s = .next nx) : Kept s nx := by
  unfold execClaimRepeat at hex
  rw [← Host.Outcome.next.inj hex]
  have hk0 := Kept.refl s
  try dsimp only
  repeat' first
    | (with_reducible assumption)
    | (split)
    | (with_reducible refine Kept.foldl ?_ ?_)
    | decide
    | (intro u hu x hx)
    | (intro u hu)
    | (refine Kept.notMode_of_mem (by with_reducible assumption) (by decide))
    | (with_reducible apply Kept.emit)
    | (with_reducible apply Kept.floodClaim)
    | (with_reducible refine Kept.fst ?_ (by with_reducible assumption))
    | (with_reducible refine Kept.snd ?_ (by with_reducible assumption))
    | (with_reducible refine Kept.mk_other ?_)
    | decide

theorem execClaimTimer_kept {s : State} {nx : State} (hex : execClaimTimer s = .next nx) : Kept s nx := by
  unfold execClaimTimer at hex
  rw [← Host.Outcome.next.inj hex]
  have hk0 := Kept.refl s
  try dsimp only
  repeat' first
    | (with_reducible assumption)
    | (split)
    | (with_reducible refine Kept.foldl ?_ ?_)
    | decide
    | (intro u hu x hx)
    | (intro u hu)
    | (refine Kept.notMode_of_mem (by with_reducible assumption) (by decide))
    | (with_reducible apply Kept.emit)
    | (with_reducible apply Kept.holdAddr)
    | (with_reducible refine Kept.fst ?_ (by with_reducible assumption))
    | (with_reducible refine Kept.snd ?_ (by with_reducible assumption))
    | (with_reducible refine Kept.mk_other ?_)
    | decide

theorem execUnaddressedTimer_kept {s : State} {nx : State} (hex : execUnaddressedTimer s = .next nx) : Kept s nx := by
  unfold execUnaddressedTimer at hex
  rw [← Host.Outcome.next.inj hex]
  have hk0 := Kept.refl s
  try dsimp only
  repeat' first
    | (with_reducible assumption)
    | (split)
    | (with_reducible refine Kept.foldl ?_ ?_)
    | decide
    | (intro u hu x hx)
    | (intro u hu)
    | (refine Kept.notMode_of_mem (by with_reducible assumption) (by decide))
    | (with_reducible apply Kept.emit)
    | (with_reducible apply Kept.claim)
    | (with_reducible refine Kept.fst ?_ (by with_reducible assumption))
    | (with_reducible refine Kept.snd ?_ (by with_reducible assumption))
    | decide

theorem execFabReclaim_kept {port : PortId} {_v : BitVec 32} {s : State} {nx : State} (hex : execFabReclaim port _v s = .next nx) : Kept s nx := by
  unfold execFabReclaim at hex
  rw [← Host.Outcome.next.inj hex]
  have hk0 := Kept.refl s
  try dsimp only
  repeat' first
    | (with_reducible assumption)
    | (split)
    | (with_reducible refine Kept.foldl ?_ ?_)
    | decide
    | (intro u hu x hx)
    | (intro u hu)
    | (refine Kept.notMode_of_mem (by with_reducible assumption) (by decide))
    | (with_reducible apply Kept.emit)
    | (with_reducible apply Kept.winWrite)
    | (with_reducible apply Kept.releaseAddr)
    | (with_reducible refine Kept.fst ?_ (by with_reducible assumption))
    | (with_reducible refine Kept.snd ?_ (by with_reducible assumption))
    | decide

theorem execRouteReceived_kept {link : LinkId} {cell : List Byte} {s : State} {nx : State} (hex : execRouteReceived link cell s = .next nx) : Kept s nx := by
  unfold execRouteReceived at hex
  rw [← Host.Outcome.next.inj hex]
  have hk0 := Kept.refl s
  try dsimp only
  repeat' first
    | (with_reducible assumption)
    | (split)
    | (with_reducible refine Kept.foldl ?_ ?_)
    | decide
    | (intro u hu x hx)
    | (intro u hu)
    | (refine Kept.notMode_of_mem (by with_reducible assumption) (by decide))
    | (with_reducible apply Kept.emit)
    | (with_reducible apply Kept.cellSeen)
    | (with_reducible apply Kept.routeIn)
    | (with_reducible apply Kept.cellIn)
    | (with_reducible refine Kept.fst ?_ (by with_reducible assumption))
    | (with_reducible refine Kept.snd ?_ (by with_reducible assumption))
    | decide

theorem execRoutePeriodic_kept {s : State} {nx : State} (hex : execRoutePeriodic s = .next nx) : Kept s nx := by
  unfold execRoutePeriodic at hex
  rw [← Host.Outcome.next.inj hex]
  have hk0 := Kept.refl s
  try dsimp only
  repeat' first
    | (with_reducible assumption)
    | (split)
    | (with_reducible refine Kept.foldl ?_ ?_)
    | decide
    | (intro u hu x hx)
    | (intro u hu)
    | (refine Kept.notMode_of_mem (by with_reducible assumption) (by decide))
    | (with_reducible apply Kept.emit)
    | (with_reducible apply Kept.floodRouteOf)
    | (with_reducible refine Kept.fst ?_ (by with_reducible assumption))
    | (with_reducible refine Kept.snd ?_ (by with_reducible assumption))
    | decide

theorem execRouteAgeOut_kept {s : State} {nx : State} (hex : execRouteAgeOut s = .next nx) : Kept s nx := by
  unfold execRouteAgeOut at hex
  rw [← Host.Outcome.next.inj hex]
  have hk0 := Kept.refl s
  try dsimp only
  repeat' first
    | (with_reducible assumption)
    | (split)
    | (with_reducible refine Kept.foldl ?_ ?_)
    | decide
    | (intro u hu x hx)
    | (intro u hu)
    | (refine Kept.notMode_of_mem (by with_reducible assumption) (by decide))
    | (with_reducible apply Kept.emit)
    | (with_reducible apply Kept.putFab)
    | (with_reducible refine Kept.fst ?_ (by with_reducible assumption))
    | (with_reducible refine Kept.snd ?_ (by with_reducible assumption))
    | (with_reducible refine Kept.mk_other ?_)
    | decide

theorem execRouteRecompute_kept {s : State} {nx : State} (hex : execRouteRecompute s = .next nx) : Kept s nx := by
  unfold execRouteRecompute at hex
  rw [← Host.Outcome.next.inj hex]
  have hk0 := Kept.refl s
  try dsimp only
  repeat' first
    | (with_reducible assumption)
    | (split)
    | (with_reducible refine Kept.foldl ?_ ?_)
    | decide
    | (intro u hu x hx)
    | (intro u hu)
    | (refine Kept.notMode_of_mem (by with_reducible assumption) (by decide))
    | (with_reducible apply Kept.emit)
    | (with_reducible apply Kept.recompute)
    | (with_reducible refine Kept.fst ?_ (by with_reducible assumption))
    | (with_reducible refine Kept.snd ?_ (by with_reducible assumption))
    | decide

theorem execFabLinkEnWrite_kept {port : PortId} {link : LinkId} {v : BitVec 32} {s : State} {nx : State} (hex : execFabLinkEnWrite port link v s = .next nx) : Kept s nx := by
  unfold execFabLinkEnWrite at hex
  rw [← Host.Outcome.next.inj hex]
  have hk0 := Kept.refl s
  try dsimp only
  repeat' first
    | (with_reducible assumption)
    | (split)
    | (with_reducible refine Kept.foldl ?_ ?_)
    | decide
    | (intro u hu x hx)
    | (intro u hu)
    | (refine Kept.notMode_of_mem (by with_reducible assumption) (by decide))
    | (with_reducible apply Kept.emit)
    | (with_reducible apply Kept.winWrite)
    | (with_reducible apply Kept.writeLinkEn)
    | (with_reducible refine Kept.fst ?_ (by with_reducible assumption))
    | (with_reducible refine Kept.snd ?_ (by with_reducible assumption))
    | decide

theorem execLeaseRequestReceived_kept {m : LeaseReq} {s : State} {nx : State} (hex : execLeaseRequestReceived m s = .next nx) : Kept s nx := by
  unfold execLeaseRequestReceived at hex
  rw [← Host.Outcome.next.inj hex]
  have hk0 := Kept.refl s
  try dsimp only
  repeat' first
    | (with_reducible assumption)
    | (split)
    | (with_reducible refine Kept.foldl ?_ ?_)
    | decide
    | (intro u hu x hx)
    | (intro u hu)
    | (refine Kept.notMode_of_mem (by with_reducible assumption) (by decide))
    | (with_reducible apply Kept.emit)
    | (with_reducible apply Kept.leaseDecide)
    | (with_reducible apply Kept.sendTo)
    | (with_reducible refine Kept.fst ?_ (by with_reducible assumption))
    | (with_reducible refine Kept.snd ?_ (by with_reducible assumption))
    | decide

theorem execTideCellSend_kept {link : LinkId} {s : State} {nx : State} (hex : execTideCellSend link s = .next nx) : Kept s nx := by
  unfold execTideCellSend at hex
  rw [← Host.Outcome.next.inj hex]
  have hk0 := Kept.refl s
  try dsimp only
  repeat' first
    | (with_reducible assumption)
    | (split)
    | (with_reducible refine Kept.foldl ?_ ?_)
    | decide
    | (intro u hu x hx)
    | (intro u hu)
    | (refine Kept.notMode_of_mem (by with_reducible assumption) (by decide))
    | (with_reducible apply Kept.emit)
    | (with_reducible apply Kept.setLink)
    | (with_reducible apply Kept.linkSend)
    | (with_reducible refine Kept.fst ?_ (by with_reducible assumption))
    | (with_reducible refine Kept.snd ?_ (by with_reducible assumption))
    | (with_reducible refine Kept.mk_other ?_)
    | decide

theorem execTideCellReceived_kept {link : LinkId} {c : TideCell} {s : State} {nx : State} (hex : execTideCellReceived link c s = .next nx) : Kept s nx := by
  unfold execTideCellReceived at hex
  rw [← Host.Outcome.next.inj hex]
  have hk0 := Kept.refl s
  try dsimp only
  repeat' first
    | (with_reducible assumption)
    | (split)
    | (with_reducible refine Kept.foldl ?_ ?_)
    | decide
    | (intro u hu x hx)
    | (intro u hu)
    | (refine Kept.notMode_of_mem (by with_reducible assumption) (by decide))
    | (with_reducible apply Kept.emit)
    | (with_reducible apply Kept.cellSeen)
    | (with_reducible apply Kept.tideIn)
    | (with_reducible refine Kept.fst ?_ (by with_reducible assumption))
    | (with_reducible refine Kept.snd ?_ (by with_reducible assumption))
    | decide

theorem execRemoteAccessReceived_kept {m : RemoteReq} {s : State} {nx : State} (hex : execRemoteAccessReceived m s = .next nx) : Kept s nx := by
  unfold execRemoteAccessReceived at hex
  rw [← Host.Outcome.next.inj hex]
  have hk0 := Kept.refl s
  try dsimp only
  repeat' first
    | (with_reducible assumption)
    | (split)
    | (with_reducible refine Kept.foldl ?_ ?_)
    | decide
    | (intro u hu x hx)
    | (intro u hu)
    | (refine Kept.notMode_of_mem (by with_reducible assumption) (by decide))
    | (with_reducible apply Kept.emit)
    | (with_reducible apply Kept.sendTo)
    | (with_reducible apply Kept.take)
    | (with_reducible refine Kept.fst ?_ (by with_reducible assumption))
    | (with_reducible refine Kept.snd ?_ (by with_reducible assumption))
    | (with_reducible refine Kept.mk_scratch ?_)
    | (with_reducible refine Kept.mk_other ?_)
    | decide

theorem execRemoteRspReceived_kept {m : RemoteRsp} {s : State} {nx : State} (hex : execRemoteRspReceived m s = .next nx) : Kept s nx := by
  unfold execRemoteRspReceived at hex
  rw [← Host.Outcome.next.inj hex]
  have hk0 := Kept.refl s
  try dsimp only
  repeat' first
    | (with_reducible assumption)
    | (split)
    | (with_reducible refine Kept.foldl ?_ ?_)
    | decide
    | (intro u hu x hx)
    | (intro u hu)
    | (refine Kept.notMode_of_mem (by with_reducible assumption) (by decide))
    | (with_reducible apply Kept.emit)
    | (with_reducible apply Kept.remoteAnswer)
    | (with_reducible refine Kept.fst ?_ (by with_reducible assumption))
    | (with_reducible refine Kept.snd ?_ (by with_reducible assumption))
    | decide

theorem execFabStatus_kept {src : Src} {s : State} {nx : State} (hex : execFabStatus src s = .next nx) : Kept s nx := by
  unfold execFabStatus at hex
  rw [← Host.Outcome.next.inj hex]
  have hk0 := Kept.refl s
  try dsimp only
  repeat' first
    | (intro u p hu; exact hu)
    | (with_reducible assumption)
    | (split)
    | (with_reducible refine Kept.foldl ?_ ?_)
    | decide
    | (intro u hu x hx)
    | (intro u hu)
    | (intro u src p hu)
    | (intro u p hu)
    | (refine Kept.notMode_of_mem (by with_reducible assumption) (by decide))
    | (with_reducible apply Kept.emit)
    | (with_reducible apply Kept.calvan)
    | (with_reducible apply Kept.atOnce)
    | (with_reducible refine Kept.fst ?_ (by with_reducible assumption))
    | (with_reducible refine Kept.snd ?_ (by with_reducible assumption))
    | decide

end Sys2Proof.Machine
end

