-- ==== Sys2Proof/Laws/KeptMonitor.lean ====
section
/-! SUPPORT. What the operations of Monitor keep (Laws/Kept.lean). -/

namespace Sys2Proof.Machine

set_option Elab.async false
set_option linter.all false

theorem Kept.counterSnapshot {s0 s : State} {src : Src} {p : List Byte} (h : Kept s0 s) :
    Kept s0 (State.counterSnapshot s src p).1 := by
  unfold State.counterSnapshot
  dsimp only
  repeat' first
    | (with_reducible assumption)
    | split
    | (with_reducible apply Kept.setMon)
    | (with_reducible apply Kept.holdChannel)
    | (with_reducible apply Kept.armSnap)
    | (with_reducible apply Kept.snapshot)

theorem Kept.harvestPairs {s0 s : State} {dest : Nat} {clear : Bool} {n c : Nat} (h : Kept s0 s) :
    Kept s0 (State.harvestPairs s dest clear n c) := by
  induction n generalizing s dest c with
  | zero => exact h
  | succ n ih =>
    unfold State.harvestPairs
    dsimp only
    apply ih
    split
    · exact Kept.putTabs (Kept.hostWrite h _ _)
    · exact Kept.hostWrite h _ _

theorem Kept.writeBwFrames {s0 s : State} {v : Nat} (hk0 : Kept s0 s) :
    Kept s0 (State.writeBwFrames s v) := by
  unfold State.writeBwFrames
  try dsimp only
  repeat' first
    | (with_reducible assumption)
    | (split)
    | (with_reducible refine Kept.foldl ?_ ?_)
    | decide
    | (intro u hu x hx)
    | (intro u hu)
    | (refine Kept.notMode_of_mem (by with_reducible assumption) (by decide))
    | (with_reducible refine Kept.wr ?_ (by first | decide | with_reducible assumption | exact Kept.notMode_of_mem (by with_reducible assumption) (by decide) | exact Kept.notMode_of_mem_fst (by with_reducible assumption) (by with_unfolding_all rfl)))
    | (with_reducible refine Kept.wrMode ?_ 4 (by decide) (by first | decide | with_reducible assumption))
    | (with_reducible refine Kept.wrMode ?_ 5 (by decide) (by first | decide | with_reducible assumption))
    | (with_reducible refine Kept.wrMode ?_ 8 (by decide) (by first | decide | with_reducible assumption))
    | (with_reducible apply Kept.emit)
    | (with_reducible apply Kept.setCnt)
    | decide

theorem Kept.writeTelEn {s0 s : State} {t : Nat} {v : Nat} (hk0 : Kept s0 s) :
    Kept s0 (State.writeTelEn s t v) := by
  unfold State.writeTelEn
  try dsimp only
  repeat' first
    | (with_reducible assumption)
    | (split)
    | (with_reducible refine Kept.foldl ?_ ?_)
    | decide
    | (intro u hu x hx)
    | (intro u hu)
    | (refine Kept.notMode_of_mem (by with_reducible assumption) (by decide))
    | (with_reducible refine Kept.wr ?_ (by first | decide | with_reducible assumption | exact Kept.notMode_of_mem (by with_reducible assumption) (by decide) | exact Kept.notMode_of_mem_fst (by with_reducible assumption) (by with_unfolding_all rfl)))
    | (with_reducible refine Kept.wrMode ?_ 4 (by decide) (by first | decide | with_reducible assumption))
    | (with_reducible refine Kept.wrMode ?_ 5 (by decide) (by first | decide | with_reducible assumption))
    | (with_reducible refine Kept.wrMode ?_ 8 (by decide) (by first | decide | with_reducible assumption))
    | (with_reducible apply Kept.emit)
    | (with_reducible apply Kept.setTel)
    | decide

theorem Kept.measure {s0 s : State} {d : Nat} {ratio : Nat} (hk0 : Kept s0 s) :
    Kept s0 (State.measure s d ratio) := by
  unfold State.measure
  try dsimp only
  repeat' first
    | (with_reducible assumption)
    | (split)
    | (with_reducible refine Kept.foldl ?_ ?_)
    | decide
    | (intro u hu x hx)
    | (intro u hu)
    | (refine Kept.notMode_of_mem (by with_reducible assumption) (by decide))
    | (with_reducible refine Kept.wr ?_ (by first | decide | with_reducible assumption | exact Kept.notMode_of_mem (by with_reducible assumption) (by decide) | exact Kept.notMode_of_mem_fst (by with_reducible assumption) (by with_unfolding_all rfl)))
    | (with_reducible refine Kept.wrMode ?_ 4 (by decide) (by first | decide | with_reducible assumption))
    | (with_reducible refine Kept.wrMode ?_ 5 (by decide) (by first | decide | with_reducible assumption))
    | (with_reducible refine Kept.wrMode ?_ 8 (by decide) (by first | decide | with_reducible assumption))
    | (with_reducible apply Kept.emit)
    | (with_reducible apply Kept.pmcEvent)
    | decide

theorem Kept.addPoints {s0 s : State} (hk0 : Kept s0 s) :
    Kept s0 (State.addPoints s) := by
  unfold State.addPoints
  try dsimp only
  repeat' first
    | (with_reducible assumption)
    | (split)
    | (with_reducible refine Kept.foldl ?_ ?_)
    | decide
    | (intro u hu x hx)
    | (intro u hu)
    | (refine Kept.notMode_of_mem (by with_reducible assumption) (by decide))
    | (with_reducible apply Kept.emit)
    | (with_reducible apply Kept.setMon)
    | (with_reducible refine Kept.mk_other ?_)
    | decide

theorem Kept.healthReport {s0 s : State} {p : List Byte} (hk0 : Kept s0 s) :
    Kept s0 (State.healthReport s p).1 := by
  unfold State.healthReport
  try dsimp only
  repeat' first
    | (with_reducible assumption)
    | (split)
    | (with_reducible refine Kept.foldl ?_ ?_)
    | decide
    | (intro u hu x hx)
    | (intro u hu)
    | (refine Kept.notMode_of_mem (by with_reducible assumption) (by decide))
    | (with_reducible apply Kept.emit)
    | (with_reducible apply Kept.tickPredict)
    | (with_reducible apply Kept.take)
    | (with_reducible refine Kept.fst ?_ (by with_reducible assumption))
    | (with_reducible refine Kept.snd ?_ (by with_reducible assumption))
    | (with_reducible refine Kept.mk_other ?_)
    | decide

theorem Kept.unlockFail {s0 s : State} {r : Resp} (hk0 : Kept s0 s) :
    Kept s0 (State.unlockFail s r).1 := by
  unfold State.unlockFail
  try dsimp only
  repeat' first
    | (with_reducible assumption)
    | (split)
    | (with_reducible refine Kept.foldl ?_ ?_)
    | decide
    | (intro u hu x hx)
    | (intro u hu)
    | (refine Kept.notMode_of_mem (by with_reducible assumption) (by decide))
    | (with_reducible refine Kept.wr ?_ (by first | decide | with_reducible assumption | exact Kept.notMode_of_mem (by with_reducible assumption) (by decide) | exact Kept.notMode_of_mem_fst (by with_reducible assumption) (by with_unfolding_all rfl)))
    | (with_reducible refine Kept.wrMode ?_ 4 (by decide) (by first | decide | with_reducible assumption))
    | (with_reducible refine Kept.wrMode ?_ 5 (by decide) (by first | decide | with_reducible assumption))
    | (with_reducible refine Kept.wrMode ?_ 8 (by decide) (by first | decide | with_reducible assumption))
    | (with_reducible apply Kept.emit)
    | (with_reducible apply Kept.setMon)
    | (with_reducible refine Kept.mk_other ?_)
    | decide

theorem Kept.unlock {s0 s : State} {token : Nat} {timely : Bool} (hk0 : Kept s0 s) :
    Kept s0 (State.unlock s token timely).1 := by
  unfold State.unlock
  try dsimp only
  repeat' first
    | (with_reducible assumption)
    | (split)
    | (with_reducible refine Kept.foldl ?_ ?_)
    | decide
    | (intro u hu x hx)
    | (intro u hu)
    | (refine Kept.notMode_of_mem (by with_reducible assumption) (by decide))
    | (with_reducible refine Kept.wr ?_ (by first | decide | with_reducible assumption | exact Kept.notMode_of_mem (by with_reducible assumption) (by decide) | exact Kept.notMode_of_mem_fst (by with_reducible assumption) (by with_unfolding_all rfl)))
    | (with_reducible refine Kept.wrMode ?_ 4 (by decide) (by first | decide | with_reducible assumption))
    | (with_reducible refine Kept.wrMode ?_ 5 (by decide) (by first | decide | with_reducible assumption))
    | (with_reducible refine Kept.wrMode ?_ 8 (by decide) (by first | decide | with_reducible assumption))
    | (with_reducible apply Kept.emit)
    | (with_reducible apply Kept.setMon)
    | (with_reducible apply Kept.unlockFail)
    | (with_reducible apply Kept.pmcEvent)
    | (with_reducible refine Kept.fst ?_ (by with_reducible assumption))
    | (with_reducible refine Kept.snd ?_ (by with_reducible assumption))
    | (with_reducible refine Kept.mk_other ?_)
    | decide

theorem Kept.debugUnlock {s0 s : State} {p : List Byte} {timely : Bool} (hk0 : Kept s0 s) :
    Kept s0 (State.debugUnlock s p timely).1 := by
  unfold State.debugUnlock
  try dsimp only
  repeat' first
    | (with_reducible assumption)
    | (split)
    | (with_reducible refine Kept.foldl ?_ ?_)
    | decide
    | (intro u hu x hx)
    | (intro u hu)
    | (refine Kept.notMode_of_mem (by with_reducible assumption) (by decide))
    | (with_reducible apply Kept.emit)
    | (with_reducible apply Kept.tickFree)
    | (with_reducible apply Kept.setMon)
    | (with_reducible apply Kept.unlock)
    | (with_reducible apply Kept.tmxLock)
    | (with_reducible refine Kept.fst ?_ (by with_reducible assumption))
    | (with_reducible refine Kept.snd ?_ (by with_reducible assumption))
    | (with_reducible refine Kept.mk_other ?_)
    | decide

end Sys2Proof.Machine
end

