-- ==== Sys2Proof/Laws/ArmsMonitor.lean ====
section
/-! SUPPORT. What the commands of Monitor keep (Laws/Kept.lean): one lemma per command, over the lemmas of its operations. -/

namespace Sys2Proof.Machine

set_option Elab.async false
set_option linter.all false

theorem execCounterSnapshot_kept {src : Src} {s : State} {nx : State} (hex : execCounterSnapshot src s = .next nx) : Kept s nx := by
  unfold execCounterSnapshot at hex
  rw [← Host.Outcome.next.inj hex]
  have hk0 := Kept.refl s
  try dsimp only
  repeat' first
    | (with_reducible assumption)
    | (split)
    | (with_reducible refine Kept.foldl ?_ ?_)
    | decide
    | (intro u hu x hx)
    | (intro u hu)
    | (intro u src p hu)
    | (intro u p hu)
    | (refine Kept.notMode_of_mem (by with_reducible assumption) (by decide))
    | (with_reducible apply Kept.emit)
    | (with_reducible apply Kept.calvan)
    | (with_reducible apply Kept.counterSnapshot)
    | (with_reducible refine Kept.fst ?_ (by with_reducible assumption))
    | (with_reducible refine Kept.snd ?_ (by with_reducible assumption))
    | decide

theorem execFlowHarvestDone_kept {s : State} {nx : State} (hex : execFlowHarvestDone s = .next nx) : Kept s nx := by
  unfold execFlowHarvestDone at hex
  rw [← Host.Outcome.next.inj hex]
  have hk0 := Kept.refl s
  try dsimp only
  repeat' first
    | (with_reducible assumption)
    | (split)
    | (with_reducible refine Kept.foldl ?_ ?_)
    | decide
    | (intro u hu x hx)
    | (intro u hu)
    | (refine Kept.notMode_of_mem (by with_reducible assumption) (by decide))
    | (with_reducible apply Kept.emit)
    | (with_reducible apply Kept.setMon)
    | (with_reducible apply Kept.harvestPairs)
    | (with_reducible apply Kept.releaseChannel)
    | (with_reducible apply Kept.answerLater)
    | (with_reducible apply Kept.pumpAll)
    | (with_reducible refine Kept.fst ?_ (by with_reducible assumption))
    | (with_reducible refine Kept.snd ?_ (by with_reducible assumption))
    | (with_reducible refine Kept.mk_other ?_)
    | decide

theorem execSnapNow_kept {port : PortId} {v : BitVec 32} {s : State} {nx : State} (hex : execSnapNow port v s = .next nx) : Kept s nx := by
  unfold execSnapNow at hex
  rw [← Host.Outcome.next.inj hex]
  have hk0 := Kept.refl s
  try dsimp only
  repeat' first
    | (with_reducible assumption)
    | (split)
    | (with_reducible refine Kept.foldl ?_ ?_)
    | decide
    | (intro u hu x hx)
    | (intro u hu)
    | (refine Kept.notMode_of_mem (by with_reducible assumption) (by decide))
    | (with_reducible apply Kept.emit)
    | (with_reducible apply Kept.winWrite)
    | (with_reducible apply Kept.writeSnapCtl)
    | (with_reducible refine Kept.fst ?_ (by with_reducible assumption))
    | (with_reducible refine Kept.snd ?_ (by with_reducible assumption))
    | decide

theorem execSnapArm_kept {port : PortId} {v : BitVec 32} {s : State} {nx : State} (hex : execSnapArm port v s = .next nx) : Kept s nx := by
  unfold execSnapArm at hex
  rw [← Host.Outcome.next.inj hex]
  have hk0 := Kept.refl s
  try dsimp only
  repeat' first
    | (with_reducible assumption)
    | (split)
    | (with_reducible refine Kept.foldl ?_ ?_)
    | decide
    | (intro u hu x hx)
    | (intro u hu)
    | (refine Kept.notMode_of_mem (by with_reducible assumption) (by decide))
    | (with_reducible apply Kept.emit)
    | (with_reducible apply Kept.winWrite)
    | (with_reducible apply Kept.writeSnapCtl)
    | (with_reducible refine Kept.fst ?_ (by with_reducible assumption))
    | (with_reducible refine Kept.snd ?_ (by with_reducible assumption))
    | decide

theorem execSnapDisarm_kept {port : PortId} {v : BitVec 32} {s : State} {nx : State} (hex : execSnapDisarm port v s = .next nx) : Kept s nx := by
  unfold execSnapDisarm at hex
  rw [← Host.Outcome.next.inj hex]
  have hk0 := Kept.refl s
  try dsimp only
  repeat' first
    | (with_reducible assumption)
    | (split)
    | (with_reducible refine Kept.foldl ?_ ?_)
    | decide
    | (intro u hu x hx)
    | (intro u hu)
    | (refine Kept.notMode_of_mem (by with_reducible assumption) (by decide))
    | (with_reducible apply Kept.emit)
    | (with_reducible apply Kept.winWrite)
    | (with_reducible apply Kept.writeSnapCtl)
    | (with_reducible refine Kept.fst ?_ (by with_reducible assumption))
    | (with_reducible refine Kept.snd ?_ (by with_reducible assumption))
    | decide

theorem execSnapshotAt_kept {s : State} {nx : State} (hex : execSnapshotAt s = .next nx) : Kept s nx := by
  unfold execSnapshotAt at hex
  rw [← Host.Outcome.next.inj hex]
  have hk0 := Kept.refl s
  try dsimp only
  repeat' first
    | (with_reducible assumption)
    | (split)
    | (with_reducible refine Kept.foldl ?_ ?_)
    | decide
    | (intro u hu x hx)
    | (intro u hu)
    | (refine Kept.notMode_of_mem (by with_reducible assumption) (by decide))
    | (with_reducible apply Kept.emit)
    | (with_reducible apply Kept.setMon)
    | (with_reducible apply Kept.snapshot)
    | (with_reducible refine Kept.fst ?_ (by with_reducible assumption))
    | (with_reducible refine Kept.snd ?_ (by with_reducible assumption))
    | (with_reducible refine Kept.mk_other ?_)
    | decide

theorem execLegacyRead_kept {port : PortId} {s : State} {nx : State} (hex : execLegacyRead port s = .next nx) : Kept s nx := by
  unfold execLegacyRead at hex
  rw [← Host.Outcome.next.inj hex]
  have hk0 := Kept.refl s
  try dsimp only
  repeat' first
    | (with_reducible assumption)
    | (split)
    | (with_reducible refine Kept.foldl ?_ ?_)
    | decide
    | (intro u hu x hx)
    | (intro u hu)
    | (refine Kept.notMode_of_mem (by with_reducible assumption) (by decide))
    | (with_reducible apply Kept.emit)
    | (with_reducible apply Kept.hostReadWindow)
    | (with_reducible refine Kept.fst ?_ (by with_reducible assumption))
    | (with_reducible refine Kept.snd ?_ (by with_reducible assumption))
    | decide

theorem execBwFramesWrite_kept {port : PortId} {v : BitVec 32} {s : State} {nx : State} (hex : execBwFramesWrite port v s = .next nx) : Kept s nx := by
  unfold execBwFramesWrite at hex
  rw [← Host.Outcome.next.inj hex]
  have hk0 := Kept.refl s
  try dsimp only
  repeat' first
    | (with_reducible assumption)
    | (split)
    | (with_reducible refine Kept.foldl ?_ ?_)
    | decide
    | (intro u hu x hx)
    | (intro u hu)
    | (refine Kept.notMode_of_mem (by with_reducible assumption) (by decide))
    | (with_reducible apply Kept.emit)
    | (with_reducible apply Kept.winWrite)
    | (with_reducible apply Kept.writeBwFrames)
    | (with_reducible refine Kept.fst ?_ (by with_reducible assumption))
    | (with_reducible refine Kept.snd ?_ (by with_reducible assumption))
    | decide

theorem execTelemetryEnWrite_kept {port : PortId} {t : TreeId} {v : BitVec 32} {s : State} {nx : State} (hex : execTelemetryEnWrite port t v s = .next nx) : Kept s nx := by
  unfold execTelemetryEnWrite at hex
  rw [← Host.Outcome.next.inj hex]
  have hk0 := Kept.refl s
  try dsimp only
  repeat' first
    | (with_reducible assumption)
    | (split)
    | (with_reducible refine Kept.foldl ?_ ?_)
    | decide
    | (intro u hu x hx)
    | (intro u hu)
    | (refine Kept.notMode_of_mem (by with_reducible assumption) (by decide))
    | (with_reducible apply Kept.emit)
    | (with_reducible apply Kept.winWrite)
    | (with_reducible apply Kept.writeTelEn)
    | (with_reducible refine Kept.fst ?_ (by with_reducible assumption))
    | (with_reducible refine Kept.snd ?_ (by with_reducible assumption))
    | decide

theorem execWearMeasure_kept {ratios : List Nat} {s : State} {nx : State} (hex : execWearMeasure ratios s = .next nx) : Kept s nx := by
  unfold execWearMeasure at hex
  rw [← Host.Outcome.next.inj hex]
  have hk0 := Kept.refl s
  try dsimp only
  repeat' first
    | (with_reducible assumption)
    | (split)
    | (with_reducible refine Kept.foldl ?_ ?_)
    | decide
    | (intro u hu x hx)
    | (intro u hu)
    | (refine Kept.notMode_of_mem (by with_reducible assumption) (by decide))
    | (with_reducible apply Kept.emit)
    | (with_reducible apply Kept.take)
    | (with_reducible apply Kept.measure)
    | (with_reducible refine Kept.fst ?_ (by with_reducible assumption))
    | (with_reducible refine Kept.snd ?_ (by with_reducible assumption))
    | decide

theorem execHealthPoint_kept {s : State} {nx : State} (hex : execHealthPoint s = .next nx) : Kept s nx := by
  unfold execHealthPoint at hex
  rw [← Host.Outcome.next.inj hex]
  have hk0 := Kept.refl s
  try dsimp only
  repeat' first
    | (with_reducible assumption)
    | (split)
    | (with_reducible refine Kept.foldl ?_ ?_)
    | decide
    | (intro u hu x hx)
    | (intro u hu)
    | (refine Kept.notMode_of_mem (by with_reducible assumption) (by decide))
    | (with_reducible apply Kept.emit)
    | (with_reducible apply Kept.addPoints)
    | (with_reducible apply Kept.pmcEvent)
    | (with_reducible apply Kept.tickPredict)
    | (with_reducible refine Kept.fst ?_ (by with_reducible assumption))
    | (with_reducible refine Kept.snd ?_ (by with_reducible assumption))
    | decide

theorem execHealthReport_kept {src : Src} {s : State} {nx : State} (hex : execHealthReport src s = .next nx) : Kept s nx := by
  unfold execHealthReport at hex
  rw [← Host.Outcome.next.inj hex]
  have hk0 := Kept.refl s
  try dsimp only
  repeat' first
    | (with_reducible assumption)
    | (split)
    | (with_reducible refine Kept.foldl ?_ ?_)
    | decide
    | (intro u hu x hx)
    | (intro u hu)
    | (intro u src p hu)
    | (intro u p hu)
    | (refine Kept.notMode_of_mem (by with_reducible assumption) (by decide))
    | (with_reducible apply Kept.emit)
    | (with_reducible apply Kept.calvan)
    | (with_reducible apply Kept.atOnce)
    | (with_reducible apply Kept.healthReport)
    | (with_reducible refine Kept.fst ?_ (by with_reducible assumption))
    | (with_reducible refine Kept.snd ?_ (by with_reducible assumption))
    | decide

theorem execDebugUnlock_kept {src : Src} {timely : Bool} {s : State} {nx : State} (hex : execDebugUnlock src timely s = .next nx) : Kept s nx := by
  unfold execDebugUnlock at hex
  rw [← Host.Outcome.next.inj hex]
  have hk0 := Kept.refl s
  try dsimp only
  repeat' first
    | (with_reducible assumption)
    | (split)
    | (with_reducible refine Kept.foldl ?_ ?_)
    | decide
    | (intro u hu x hx)
    | (intro u hu)
    | (intro u src p hu)
    | (intro u p hu)
    | (refine Kept.notMode_of_mem (by with_reducible assumption) (by decide))
    | (with_reducible apply Kept.emit)
    | (with_reducible apply Kept.calvan)
    | (with_reducible apply Kept.atOnce)
    | (with_reducible apply Kept.debugUnlock)
    | (with_reducible refine Kept.fst ?_ (by with_reducible assumption))
    | (with_reducible refine Kept.snd ?_ (by with_reducible assumption))
    | decide

theorem execNonceExpiry_kept {s : State} {nx : State} (hex : execNonceExpiry s = .next nx) : Kept s nx := by
  unfold execNonceExpiry at hex
  rw [← Host.Outcome.next.inj hex]
  have hk0 := Kept.refl s
  try dsimp only
  repeat' first
    | (with_reducible assumption)
    | (split)
    | (with_reducible refine Kept.foldl ?_ ?_)
    | decide
    | (intro u hu x hx)
    | (intro u hu)
    | (refine Kept.notMode_of_mem (by with_reducible assumption) (by decide))
    | (with_reducible apply Kept.emit)
    | (with_reducible apply Kept.setMon)
    | (with_reducible refine Kept.fst ?_ (by with_reducible assumption))
    | (with_reducible refine Kept.snd ?_ (by with_reducible assumption))
    | (with_reducible refine Kept.mk_other ?_)
    | decide

theorem execTmxUnlockExpiry_kept {s : State} {nx : State} (hex : execTmxUnlockExpiry s = .next nx) : Kept s nx := by
  unfold execTmxUnlockExpiry at hex
  rw [← Host.Outcome.next.inj hex]
  have hk0 := Kept.refl s
  try dsimp only
  repeat' first
    | (with_reducible assumption)
    | (split)
    | (with_reducible refine Kept.foldl ?_ ?_)
    | decide
    | (intro u hu x hx)
    | (intro u hu)
    | (refine Kept.notMode_of_mem (by with_reducible assumption) (by decide))
    | (with_reducible apply Kept.emit)
    | (with_reducible apply Kept.tmxLock)
    | (with_reducible refine Kept.fst ?_ (by with_reducible assumption))
    | (with_reducible refine Kept.snd ?_ (by with_reducible assumption))
    | decide

end Sys2Proof.Machine
end

