-- ==== Sys2Proof/Laws/KeptWindow.lean ====
section
/-! SUPPORT. What the operations of Window keep (Laws/Kept.lean). -/

namespace Sys2Proof.Machine

set_option Elab.async false
set_option linter.all false

theorem Kept.writeTuple {s0 s : State} {r : RegInfo} {i : Nat} {v : Nat} (hk0 : Kept s0 s) (hr : ∀ f ∈ r.flds, plainFld f = true) :
    Kept s0 (State.writeTuple s r i v) := by
  unfold State.writeTuple
  try dsimp only
  repeat' first
    | (with_reducible assumption)
    | (split)
    | (with_reducible refine Kept.foldl ?_ ?_)
    | decide
    | (intro u hu x hx)
    | (intro u hu)
    | (refine Kept.notMode_of_mem (by with_reducible assumption) (by decide))
    | (with_reducible apply Kept.emit)
    | (with_reducible apply Kept.writeFields)
    | decide

theorem Kept.writeDma {s0 s : State} {r : RegInfo} {c : Nat} {o : Nat} {v : Nat} (hk0 : Kept s0 s) (hr : ∀ f ∈ r.flds, plainFld f = true) :
    Kept s0 (State.writeDma s r c o v) := by
  unfold State.writeDma
  try dsimp only
  repeat' first
    | (with_reducible assumption)
    | (split)
    | (with_reducible refine Kept.foldl ?_ ?_)
    | decide
    | (intro u hu x hx)
    | (intro u hu)
    | (refine Kept.notMode_of_mem (by with_reducible assumption) (by decide))
    | (with_reducible apply Kept.emit)
    | (with_reducible apply Kept.writeDmaCtl)
    | (with_reducible apply Kept.rakeKick)
    | (with_reducible apply Kept.writeFields)
    | (with_reducible apply Kept.writeTuple)
    | decide

theorem Kept.writeReach {s0 s : State} {t : Nat} {v : Nat} (hk0 : Kept s0 s) :
    Kept s0 (State.writeReach s t v) := by
  unfold State.writeReach
  try dsimp only
  repeat' first
    | (with_reducible assumption)
    | (split)
    | (with_reducible refine Kept.foldl ?_ ?_)
    | decide
    | (intro u hu x hx)
    | (intro u hu)
    | (refine Kept.notMode_of_mem (by with_reducible assumption) (by decide))
    | (with_reducible refine Kept.wr ?_ (by first | decide | with_reducible assumption | exact Kept.notMode_of_mem (by with_reducible assumption) (by decide) | exact Kept.notMode_of_mem_fst (by with_reducible assumption) (by with_unfolding_all rfl)))
    | (with_reducible refine Kept.wrMode ?_ 4 (by decide) (by first | decide | with_reducible assumption))
    | (with_reducible refine Kept.wrMode ?_ 5 (by decide) (by first | decide | with_reducible assumption))
    | (with_reducible refine Kept.wrMode ?_ 8 (by decide) (by first | decide | with_reducible assumption))
    | (with_reducible apply Kept.emit)
    | (with_reducible apply Kept.writeFields)
    | decide

theorem Kept.writeTideCtl {s0 s : State} {v : Nat} (hk0 : Kept s0 s) :
    Kept s0 (State.writeTideCtl s v) := by
  unfold State.writeTideCtl
  try dsimp only
  repeat' first
    | (with_reducible assumption)
    | (split)
    | (with_reducible refine Kept.foldl ?_ ?_)
    | decide
    | (intro u hu x hx)
    | (intro u hu)
    | (refine Kept.notMode_of_mem (by with_reducible assumption) (by decide))
    | (with_reducible apply Kept.emit)
    | (with_reducible apply Kept.writeFields)
    | (with_reducible apply Kept.peerTide)
    | (with_reducible apply Kept.checkFar)
    | decide

theorem Kept.writeMbxReq {s0 s : State} {i : Nat} {v : Nat} (hk0 : Kept s0 s) :
    Kept s0 (State.writeMbxReq s i v) := by
  unfold State.writeMbxReq
  try dsimp only
  repeat' first
    | (with_reducible assumption)
    | (split)
    | (with_reducible refine Kept.foldl ?_ ?_)
    | decide
    | (intro u hu x hx)
    | (intro u hu)
    | (refine Kept.notMode_of_mem (by with_reducible assumption) (by decide))
    | (with_reducible refine Kept.wr ?_ (by first | decide | with_reducible assumption | exact Kept.notMode_of_mem (by with_reducible assumption) (by decide) | exact Kept.notMode_of_mem_fst (by with_reducible assumption) (by with_unfolding_all rfl)))
    | (with_reducible refine Kept.wrMode ?_ 4 (by decide) (by first | decide | with_reducible assumption))
    | (with_reducible refine Kept.wrMode ?_ 5 (by decide) (by first | decide | with_reducible assumption))
    | (with_reducible refine Kept.wrMode ?_ 8 (by decide) (by first | decide | with_reducible assumption))
    | (with_reducible apply Kept.emit)
    | decide

theorem Kept.writeTmxCtl {s0 s : State} {r : RegInfo} {v : Nat} (hk0 : Kept s0 s) (hr : ∀ f ∈ r.flds, plainFld f = true) :
    Kept s0 (State.writeTmxCtl s r v) := by
  unfold State.writeTmxCtl
  try dsimp only
  repeat' first
    | (with_reducible assumption)
    | (split)
    | (with_reducible refine Kept.foldl ?_ ?_)
    | decide
    | (intro u hu x hx)
    | (intro u hu)
    | (refine Kept.notMode_of_mem (by with_reducible assumption) (by decide))
    | (with_reducible apply Kept.emit)
    | (with_reducible apply Kept.writeFields)
    | decide

theorem Kept.writeNamed {s0 s : State} {r : RegInfo} {i : Nat} {v : Nat} (hk0 : Kept s0 s) (hr : ∀ f ∈ r.flds, plainFld f = true) :
    Kept s0 (State.writeNamed s r i v) := by
  unfold State.writeNamed
  try dsimp only
  repeat' first
    | (with_reducible assumption)
    | (split)
    | (with_reducible refine Kept.foldl ?_ ?_)
    | decide
    | (intro u hu x hx)
    | (intro u hu)
    | (refine Kept.notMode_of_mem (by with_reducible assumption) (by decide))
    | (with_reducible apply Kept.emit)
    | (with_reducible apply Kept.writeGlbCtl)
    | (with_reducible apply Kept.writeFields)
    | (with_reducible apply Kept.ppsBack)
    | (with_reducible apply Kept.tbSet)
    | (with_reducible apply Kept.tbAdj)
    | (with_reducible apply Kept.tbRate)
    | (with_reducible apply Kept.tideOrigin)
    | (with_reducible apply Kept.writeTideCtl)
    | (with_reducible apply Kept.todCtl)
    | (with_reducible apply Kept.writeMbxReq)
    | (with_reducible apply Kept.mailboxGo)
    | (with_reducible apply Kept.writeVecCfg)
    | (with_reducible apply Kept.pwrWake)
    | (with_reducible apply Kept.writePol)
    | (with_reducible apply Kept.releaseAddr)
    | (with_reducible apply Kept.writeLinkEn)
    | (with_reducible apply Kept.writeSluCtl)
    | (with_reducible apply Kept.writeReach)
    | (with_reducible apply Kept.writeSnInfo)
    | (with_reducible apply Kept.writeModCmd)
    | (with_reducible apply Kept.writeSnapCtl)
    | (with_reducible apply Kept.writeTuple)
    | (with_reducible apply Kept.writeBwFrames)
    | (with_reducible apply Kept.writeTelEn)
    | (with_reducible apply Kept.writeTmxCtl)
    | (with_reducible refine Kept.fst ?_ (by with_reducible assumption))
    | (with_reducible refine Kept.snd ?_ (by with_reducible assumption))
    | (with_reducible refine Kept.mk_other ?_)
    | decide

theorem Kept.writeReg {s0 s : State} {r : RegInfo} {i : Nat} {off : Nat} {v : Nat} (hk0 : Kept s0 s) (hr : ∀ f ∈ r.flds, plainFld f = true) :
    Kept s0 (State.writeReg s r i off v) := by
  unfold State.writeReg
  try dsimp only
  repeat' first
    | (with_reducible assumption)
    | (split)
    | (with_reducible refine Kept.foldl ?_ ?_)
    | decide
    | (intro u hu x hx)
    | (intro u hu)
    | (refine Kept.notMode_of_mem (by with_reducible assumption) (by decide))
    | (with_reducible apply Kept.emit)
    | (with_reducible apply Kept.writeDma)
    | (with_reducible apply Kept.writeNamed)
    | decide

theorem Kept.writeNowhere {s0 s : State} {off : Nat} {port : Nat} {width : Nat} {half : Bool} (hk0 : Kept s0 s) :
    Kept s0 (State.writeNowhere s off port width half) := by
  unfold State.writeNowhere
  try dsimp only
  repeat' first
    | (with_reducible assumption)
    | (split)
    | (with_reducible refine Kept.foldl ?_ ?_)
    | decide
    | (intro u hu x hx)
    | (intro u hu)
    | (refine Kept.notMode_of_mem (by with_reducible assumption) (by decide))
    | (with_reducible apply Kept.emit)
    | (with_reducible apply Kept.accessErr)
    | decide

theorem Kept.writeGroup {s0 s : State} {off : Nat} {port : Nat} {width : Nat} (hk0 : Kept s0 s) :
    Kept s0 (State.writeGroup s off port width) := by
  unfold State.writeGroup
  try dsimp only
  repeat' first
    | (with_reducible assumption)
    | (split)
    | (with_reducible refine Kept.foldl ?_ ?_)
    | decide
    | (intro u hu x hx)
    | (intro u hu)
    | (refine Kept.notMode_of_mem (by with_reducible assumption) (by decide))
    | (with_reducible apply Kept.emit)
    | (with_reducible apply Kept.accessErr)
    | (with_reducible apply Kept.writeNowhere)
    | (with_reducible refine Kept.fst ?_ (by with_reducible assumption))
    | (with_reducible refine Kept.snd ?_ (by with_reducible assumption))
    | (with_reducible refine Kept.mk_other ?_)
    | decide

theorem Kept.writeAt {s0 s : State} {off : Nat} {port : Nat} {width : Nat} {v : Nat} (hk0 : Kept s0 s) :
    Kept s0 (State.writeAt s off port width v) := by
  unfold State.writeAt
  try dsimp only
  repeat' first
    | (with_reducible assumption)
    | (split)
    | (with_reducible refine Kept.foldl ?_ ?_)
    | decide
    | (exact regAt_plain (by with_reducible assumption))
    | (intro u hu x hx)
    | (intro u hu)
    | (refine Kept.notMode_of_mem (by with_reducible assumption) (by decide))
    | (with_reducible apply Kept.emit)
    | (with_reducible apply Kept.accessErr)
    | (with_reducible apply Kept.writeDoorbell)
    | (with_reducible apply Kept.writeReg)
    | (with_reducible apply Kept.writeNowhere)
    | (with_reducible refine Kept.fst ?_ (by with_reducible assumption))
    | (with_reducible refine Kept.snd ?_ (by with_reducible assumption))
    | (with_reducible refine Kept.mk_other ?_)
    | decide

theorem Kept.writeEngWindow {s0 s : State} {off : Nat} {port : Nat} {width : Nat} (hk0 : Kept s0 s) :
    Kept s0 (State.writeEngWindow s off port width) := by
  unfold State.writeEngWindow
  try dsimp only
  repeat' first
    | (with_reducible assumption)
    | (split)
    | (with_reducible refine Kept.foldl ?_ ?_)
    | decide
    | (intro u hu x hx)
    | (intro u hu)
    | (refine Kept.notMode_of_mem (by with_reducible assumption) (by decide))
    | (with_reducible apply Kept.emit)
    | (with_reducible apply Kept.accessErr)
    | decide

theorem Kept.windowWrite {s0 s : State} {port : Nat} {off : Nat} {width : Nat} {v : Nat} {user : Bool} (hk0 : Kept s0 s) :
    Kept s0 (State.windowWrite s port off width v user) := by
  unfold State.windowWrite
  try dsimp only
  repeat' first
    | (with_reducible assumption)
    | (split)
    | (with_reducible refine Kept.foldl ?_ ?_)
    | decide
    | (intro u hu x hx)
    | (intro u hu)
    | (refine Kept.notMode_of_mem (by with_reducible assumption) (by decide))
    | (with_reducible apply Kept.emit)
    | (with_reducible apply Kept.accessErr)
    | (with_reducible apply Kept.denyUser)
    | (with_reducible apply Kept.writeGroup)
    | (with_reducible apply Kept.writeEngWindow)
    | (with_reducible apply Kept.writeAt)
    | decide

end Sys2Proof.Machine
end

