-- ==== Sys2Proof/Laws/Frame.lean ====
section
/-! SUPPORT. What every operation of the complex leaves alone: the register fields it does not name, by number, and the
byte memories unless it writes them. One lemma per operation stands in the files beside this one, over a bit mask of the
fields the operation and its callees may write; bit 1000 stands for the memories. -/

namespace Sys2Proof.Machine

set_option Elab.async false
set_option linter.all false

/-- Register fields whose bit is 0 in `M` read as before, and with bit 1000 clear both memories are as before. -/
structure Frame (M : Nat) (s t : State) : Prop where
  regs : ∀ (f : Fld) (i : Nat), M.testBit f.num = false → t.rd f i = s.rd f i
  mem : M.testBit 1000 = false → t.hostMem = s.hostMem ∧ t.scratch = s.scratch

namespace Frame

theorem refl (M : Nat) (s : State) : Frame M s s := ⟨fun _ _ _ => rfl, fun _ => ⟨rfl, rfl⟩⟩

theorem trans {M : Nat} {s t u : State} (h1 : Frame M s t) (h2 : Frame M t u) : Frame M s u :=
  ⟨fun f i h => (h2.regs f i h).trans (h1.regs f i h),
    fun h => ⟨(h2.mem h).1.trans (h1.mem h).1, (h2.mem h).2.trans (h1.mem h).2⟩⟩

theorem and_bit {A B n : Nat} (h : A &&& B = A) (hn : A.testBit n = true) : B.testBit n = true := by
  have := congrArg (fun x => Nat.testBit x n) h
  simp only [Nat.testBit_and, hn, Bool.true_and] at this
  exact this

/-- A wider mask says less. -/
theorem mono {A B : Nat} {s t : State} (h : Frame A s t) (hAB : A &&& B = A) : Frame B s t := by
  have hb : ∀ n, B.testBit n = false → A.testBit n = false := by
    intro n hn
    cases ha : A.testBit n
    · rfl
    · rw [and_bit hAB ha] at hn; exact hn
  exact ⟨fun f i hf => h.regs f i (hb _ hf), fun hm => h.mem (hb _ hm)⟩

theorem sub {A B M : Nat} (hL : B &&& M = B) (h : A &&& B = A) : A &&& M = A := by
  apply Nat.eq_of_testBit_eq
  intro i
  rw [Nat.testBit_and]
  cases ha : A.testBit i
  · rfl
  · simp [and_bit hL (and_bit h ha)]

theorem bitOf {A M n : Nat} (hL : A &&& M = A) (h : A.testBit n = true) : M.testBit n = true := and_bit hL h

theorem sub_all {A M : Nat} {l : List Fld} (hL : A &&& M = A) (h : l.all (fun f => A.testBit f.num) = true) :
    l.all (fun f => M.testBit f.num) = true := by
  rw [List.all_eq_true] at *
  exact fun f hf => and_bit hL (h f hf)

theorem bitMem {M : Nat} {l : List Fld} {f : Fld} (hm : f ∈ l) (hl : l.all (fun f => M.testBit f.num) = true) :
    M.testBit f.num = true := List.all_eq_true.1 hl f hm

theorem bitMemFst {M : Nat} {α : Type} {l : List (Fld × α)} {e : Fld × α} (hm : e ∈ l)
    (hl : (l.map Prod.fst).all (fun f => M.testBit f.num) = true) : M.testBit e.1.num = true :=
  List.all_eq_true.1 hl e.1 (List.mem_map_of_mem hm)

theorem foldl {M : Nat} {α : Type} {s t : State} {l : List α} {f : State → α → State} (h : Frame M s t)
    (hf : ∀ u, Frame M s u → ∀ x ∈ l, Frame M s (f u x)) : Frame M s (l.foldl f t) := by
  induction l generalizing t with
  | nil => exact h
  | cons a r ih => exact ih (hf _ h a (by simp)) (fun u hu x hx => hf u hu x (List.mem_cons_of_mem _ hx))

theorem fst {M : Nat} {α : Type} {s : State} {p : State × α} {t : State} {a : α} (h : Frame M s p.1) (e : p = (t, a)) :
    Frame M s t := by
  rw [e] at h; exact h

theorem snd {M : Nat} {α : Type} {s : State} {p : α × State} {t : State} {a : α} (h : Frame M s p.2) (e : p = (a, t)) :
    Frame M s t := by
  rw [e] at h; exact h

/-- A write of a register field the mask names. -/
theorem wr {M : Nat} {s t : State} (h : Frame M s t) {f : Fld} {i v : Nat} (hf : M.testBit f.num = true) :
    Frame M s (t.wr f i v) := by
  refine h.trans ⟨?_, fun _ => ⟨rfl, rfl⟩⟩
  intro g j hg
  refine smGet_smSet_other _ _ _ _ (fun e => ?_)
  rw [Prod.mk.injEq] at e
  rw [e.1, hg] at hf
  exact Bool.noConfusion hf

/-- A state that agrees in the register fields and the memories. -/
theorem other {M : Nat} {s t u : State} (h : Frame M s t) (h1 : u.fields = t.fields) (h2 : u.hostMem = t.hostMem)
    (h3 : u.scratch = t.scratch) : Frame M s u :=
  h.trans ⟨fun f i _ => by simp [State.rd, h1], fun _ => ⟨h2, h3⟩⟩

theorem emit {M : Nat} {s t : State} (h : Frame M s t) (o : Output) : Frame M s (t.emit o) := other h rfl rfl rfl
theorem tickFree {M : Nat} {s t : State} (h : Frame M s t) : Frame M s t.tickFree := other h rfl rfl rfl

theorem hostWrite {M : Nat} {s t : State} (h : Frame M s t) (a : Nat) (p : List Byte)
    (hm : M.testBit 1000 = true := by decide) :
    Frame M s (t.hostWrite a p) :=
  h.trans ⟨fun _ _ _ => rfl, fun e => by rw [hm] at e; exact Bool.noConfusion e⟩

/-- An update of components that are none of these. -/
theorem mk_other {M : Nat} {s t : State} (h : Frame M s t) {n y0 y1 x0 x1 x2 x3 x4 x5 x6 x7 x8 x9 x10 x11 x12 x13 x14 x15 x16
      x17 x18 x19 x20 x21 x22 x23 x24 x25 x26 x27 x28 x29 x30 x31 x32 x33 x34} :
    Frame M s {
      pending := y0, freeCtr := n, out := y1, hostMem := t.hostMem, scratch := t.scratch,
      fields := t.fields, bnd := x0, tb := x1, doms := x2, sents := x3, hostSleep := x4, trees := x5, slots := x6,
      rings := x7, evqs := x8, doorbells := x9, cp := x10, terms := x11, flows := x12, reasms := x13, bprofs := x14,
      treeUs := x15, allocs := x16, sluTrees := x17, sluUnits := x18, sluShared := x19, slu := x20, buf := x21,
      tabs := x22, counts := x23, fabLinks := x24, fab := x25, prots := x26, engs := x27, tel := x28, errLog := x29,
      errOvf := x30, upsets := x34, chans := x31, rakeLast := x32, mon := x33 } :=
  other h rfl rfl rfl

/-- Such an update that also writes scratch memory. -/
theorem mk_scratch {M : Nat} {s t : State} (h : Frame M s t) (hm : M.testBit 1000 = true) {n y0 y1 p x0 x1 x2 x3 x4 x5 x6
      x7 x8 x9 x10 x11 x12 x13 x14 x15 x16 x17 x18 x19 x20 x21 x22 x23 x24 x25 x26 x27 x28 x29 x30 x31 x32 x33 x34} :
    Frame M s {
      pending := y0, freeCtr := n, out := y1, hostMem := t.hostMem, scratch := p,
      fields := t.fields, bnd := x0, tb := x1, doms := x2, sents := x3, hostSleep := x4, trees := x5, slots := x6,
      rings := x7, evqs := x8, doorbells := x9, cp := x10, terms := x11, flows := x12, reasms := x13, bprofs := x14,
      treeUs := x15, allocs := x16, sluTrees := x17, sluUnits := x18, sluShared := x19, slu := x20, buf := x21,
      tabs := x22, counts := x23, fabLinks := x24, fab := x25, prots := x26, engs := x27, tel := x28, errLog := x29,
      errOvf := x30, upsets := x34, chans := x31, rakeLast := x32, mon := x33 } :=
  h.trans ⟨fun _ _ _ => rfl, fun e => by rw [hm] at e; exact Bool.noConfusion e⟩

end Frame

end Sys2Proof.Machine
end

