-- ==== Sys2Proof/Laws/FrameOps.lean ====
section
/-! SUPPORT. Which registers, and whether the memories, the operations of Ops may write (Laws/Frame.lean). -/

namespace Sys2Proof.Machine

set_option Elab.async false
set_option linter.all false

/-- What `State.wrB` may write: register fields by number, memory at 1000. -/
def W.wrB : Nat := 0x0

theorem Frame.wrB {M : Nat} {s0 s : State} {f : Fld} {i : Nat} {b : Bool} (hk0 : Frame M s0 s) (hf : M.testBit f.num = true)
    (_hL : W.wrB &&& M = W.wrB) : Frame M s0 (State.wrB s f i b) := by
  unfold State.wrB
  try dsimp only
  repeat' first
    | (with_reducible assumption)
    | (split)
    | (with_reducible refine Frame.foldl ?_ ?_)
    | (exact Nat.zero_and _)
    | (intro u hu x hx)
    | (intro u hu)
    | (refine Frame.bitMem (by with_reducible assumption) ?_)
    | (refine Frame.bitMemFst (by with_reducible assumption) ?_)
    | (with_reducible refine Frame.wr ?_ ?_)
    | (with_reducible apply Frame.emit)
    | decide

/-- What `State.incSat` may write: register fields by number, memory at 1000. -/
def W.incSat : Nat := 0x0

theorem Frame.incSat {M : Nat} {s0 s : State} {f : Fld} {i : Nat} {n : Nat} (hk0 : Frame M s0 s) (hf : M.testBit f.num = true)
    (_hL : W.incSat &&& M = W.incSat) : Frame M s0 (State.incSat s f i n) := by
  unfold State.incSat
  try dsimp only
  repeat' first
    | (with_reducible assumption)
    | (split)
    | (with_reducible refine Frame.foldl ?_ ?_)
    | (exact Nat.zero_and _)
    | (intro u hu x hx)
    | (intro u hu)
    | (refine Frame.bitMem (by with_reducible assumption) ?_)
    | (refine Frame.bitMemFst (by with_reducible assumption) ?_)
    | (with_reducible refine Frame.wr ?_ ?_)
    | (with_reducible apply Frame.emit)
    | decide

/-- What `State.incWrap` may write: register fields by number, memory at 1000. -/
def W.incWrap : Nat := 0x0

theorem Frame.incWrap {M : Nat} {s0 s : State} {f : Fld} {i : Nat} {n : Nat} (hk0 : Frame M s0 s) (hf : M.testBit f.num = true)
    (_hL : W.incWrap &&& M = W.incWrap) : Frame M s0 (State.incWrap s f i n) := by
  unfold State.incWrap
  try dsimp only
  repeat' first
    | (with_reducible assumption)
    | (split)
    | (with_reducible refine Frame.foldl ?_ ?_)
    | (exact Nat.zero_and _)
    | (intro u hu x hx)
    | (intro u hu)
    | (refine Frame.bitMem (by with_reducible assumption) ?_)
    | (refine Frame.bitMemFst (by with_reducible assumption) ?_)
    | (with_reducible refine Frame.wr ?_ ?_)
    | (with_reducible apply Frame.emit)
    | decide

/-- What `State.putBnd` may write: register fields by number, memory at 1000. -/
def W.putBnd : Nat := 0x0

theorem Frame.putBnd {M : Nat} {s0 s : State} {x : Boundary} (hk0 : Frame M s0 s)
    (_hL : W.putBnd &&& M = W.putBnd) : Frame M s0 (State.putBnd s x) := by
  unfold State.putBnd
  try dsimp only
  repeat' first
    | (with_reducible assumption)
    | (split)
    | (with_reducible refine Frame.foldl ?_ ?_)
    | (exact Nat.zero_and _)
    | (intro u hu x hx)
    | (intro u hu)
    | (refine Frame.bitMem (by with_reducible assumption) ?_)
    | (refine Frame.bitMemFst (by with_reducible assumption) ?_)
    | (with_reducible apply Frame.emit)
    | (with_reducible refine Frame.mk_other ?_)
    | decide

/-- What `State.putTb` may write: register fields by number, memory at 1000. -/
def W.putTb : Nat := 0x0

theorem Frame.putTb {M : Nat} {s0 s : State} {x : Timebase} (hk0 : Frame M s0 s)
    (_hL : W.putTb &&& M = W.putTb) : Frame M s0 (State.putTb s x) := by
  unfold State.putTb
  try dsimp only
  repeat' first
    | (with_reducible assumption)
    | (split)
    | (with_reducible refine Frame.foldl ?_ ?_)
    | (exact Nat.zero_and _)
    | (intro u hu x hx)
    | (intro u hu)
    | (refine Frame.bitMem (by with_reducible assumption) ?_)
    | (refine Frame.bitMemFst (by with_reducible assumption) ?_)
    | (with_reducible apply Frame.emit)
    | (with_reducible refine Frame.mk_other ?_)
    | decide

/-- What `State.putDoms` may write: register fields by number, memory at 1000. -/
def W.putDoms : Nat := 0x0

theorem Frame.putDoms {M : Nat} {s0 s : State} {x : SMap PowerDom} (hk0 : Frame M s0 s)
    (_hL : W.putDoms &&& M = W.putDoms) : Frame M s0 (State.putDoms s x) := by
  unfold State.putDoms
  try dsimp only
  repeat' first
    | (with_reducible assumption)
    | (split)
    | (with_reducible refine Frame.foldl ?_ ?_)
    | (exact Nat.zero_and _)
    | (intro u hu x hx)
    | (intro u hu)
    | (refine Frame.bitMem (by with_reducible assumption) ?_)
    | (refine Frame.bitMemFst (by with_reducible assumption) ?_)
    | (with_reducible apply Frame.emit)
    | (with_reducible refine Frame.mk_other ?_)
    | decide

/-- What `State.putSents` may write: register fields by number, memory at 1000. -/
def W.putSents : Nat := 0x0

theorem Frame.putSents {M : Nat} {s0 s : State} {x : SMap Sentinel} (hk0 : Frame M s0 s)
    (_hL : W.putSents &&& M = W.putSents) : Frame M s0 (State.putSents s x) := by
  unfold State.putSents
  try dsimp only
  repeat' first
    | (with_reducible assumption)
    | (split)
    | (with_reducible refine Frame.foldl ?_ ?_)
    | (exact Nat.zero_and _)
    | (intro u hu x hx)
    | (intro u hu)
    | (refine Frame.bitMem (by with_reducible assumption) ?_)
    | (refine Frame.bitMemFst (by with_reducible assumption) ?_)
    | (with_reducible apply Frame.emit)
    | (with_reducible refine Frame.mk_other ?_)
    | decide

/-- What `State.putDoorbells` may write: register fields by number, memory at 1000. -/
def W.putDoorbells : Nat := 0x0

theorem Frame.putDoorbells {M : Nat} {s0 s : State} {x : List PendingDb} (hk0 : Frame M s0 s)
    (_hL : W.putDoorbells &&& M = W.putDoorbells) : Frame M s0 (State.putDoorbells s x) := by
  unfold State.putDoorbells
  try dsimp only
  repeat' first
    | (with_reducible assumption)
    | (split)
    | (with_reducible refine Frame.foldl ?_ ?_)
    | (exact Nat.zero_and _)
    | (intro u hu x hx)
    | (intro u hu)
    | (refine Frame.bitMem (by with_reducible assumption) ?_)
    | (refine Frame.bitMemFst (by with_reducible assumption) ?_)
    | (with_reducible apply Frame.emit)
    | (with_reducible refine Frame.mk_other ?_)
    | decide

/-- What `State.putCp` may write: register fields by number, memory at 1000. -/
def W.putCp : Nat := 0x0

theorem Frame.putCp {M : Nat} {s0 s : State} {x : CpState} (hk0 : Frame M s0 s)
    (_hL : W.putCp &&& M = W.putCp) : Frame M s0 (State.putCp s x) := by
  unfold State.putCp
  try dsimp only
  repeat' first
    | (with_reducible assumption)
    | (split)
    | (with_reducible refine Frame.foldl ?_ ?_)
    | (exact Nat.zero_and _)
    | (intro u hu x hx)
    | (intro u hu)
    | (refine Frame.bitMem (by with_reducible assumption) ?_)
    | (refine Frame.bitMemFst (by with_reducible assumption) ?_)
    | (with_reducible apply Frame.emit)
    | (with_reducible refine Frame.mk_other ?_)
    | decide

/-- What `State.putTerms` may write: register fields by number, memory at 1000. -/
def W.putTerms : Nat := 0x0

theorem Frame.putTerms {M : Nat} {s0 s : State} {x : SMap Term} (hk0 : Frame M s0 s)
    (_hL : W.putTerms &&& M = W.putTerms) : Frame M s0 (State.putTerms s x) := by
  unfold State.putTerms
  try dsimp only
  repeat' first
    | (with_reducible assumption)
    | (split)
    | (with_reducible refine Frame.foldl ?_ ?_)
    | (exact Nat.zero_and _)
    | (intro u hu x hx)
    | (intro u hu)
    | (refine Frame.bitMem (by with_reducible assumption) ?_)
    | (refine Frame.bitMemFst (by with_reducible assumption) ?_)
    | (with_reducible apply Frame.emit)
    | (with_reducible refine Frame.mk_other ?_)
    | decide

/-- What `State.putFlows` may write: register fields by number, memory at 1000. -/
def W.putFlows : Nat := 0x0

theorem Frame.putFlows {M : Nat} {s0 s : State} {x : SMap Flow} (hk0 : Frame M s0 s)
    (_hL : W.putFlows &&& M = W.putFlows) : Frame M s0 (State.putFlows s x) := by
  unfold State.putFlows
  try dsimp only
  repeat' first
    | (with_reducible assumption)
    | (split)
    | (with_reducible refine Frame.foldl ?_ ?_)
    | (exact Nat.zero_and _)
    | (intro u hu x hx)
    | (intro u hu)
    | (refine Frame.bitMem (by with_reducible assumption) ?_)
    | (refine Frame.bitMemFst (by with_reducible assumption) ?_)
    | (with_reducible apply Frame.emit)
    | (with_reducible refine Frame.mk_other ?_)
    | decide

/-- What `State.putReasms` may write: register fields by number, memory at 1000. -/
def W.putReasms : Nat := 0x0

theorem Frame.putReasms {M : Nat} {s0 s : State} {x : SMap Reasm} (hk0 : Frame M s0 s)
    (_hL : W.putReasms &&& M = W.putReasms) : Frame M s0 (State.putReasms s x) := by
  unfold State.putReasms
  try dsimp only
  repeat' first
    | (with_reducible assumption)
    | (split)
    | (with_reducible refine Frame.foldl ?_ ?_)
    | (exact Nat.zero_and _)
    | (intro u hu x hx)
    | (intro u hu)
    | (refine Frame.bitMem (by with_reducible assumption) ?_)
    | (refine Frame.bitMemFst (by with_reducible assumption) ?_)
    | (with_reducible apply Frame.emit)
    | (with_reducible refine Frame.mk_other ?_)
    | decide

/-- What `State.putBprofs` may write: register fields by number, memory at 1000. -/
def W.putBprofs : Nat := 0x0

theorem Frame.putBprofs {M : Nat} {s0 s : State} {x : SMap BurstSlot} (hk0 : Frame M s0 s)
    (_hL : W.putBprofs &&& M = W.putBprofs) : Frame M s0 (State.putBprofs s x) := by
  unfold State.putBprofs
  try dsimp only
  repeat' first
    | (with_reducible assumption)
    | (split)
    | (with_reducible refine Frame.foldl ?_ ?_)
    | (exact Nat.zero_and _)
    | (intro u hu x hx)
    | (intro u hu)
    | (refine Frame.bitMem (by with_reducible assumption) ?_)
    | (refine Frame.bitMemFst (by with_reducible assumption) ?_)
    | (with_reducible apply Frame.emit)
    | (with_reducible refine Frame.mk_other ?_)
    | decide

/-- What `State.putAllocs` may write: register fields by number, memory at 1000. -/
def W.putAllocs : Nat := 0x0

theorem Frame.putAllocs {M : Nat} {s0 s : State} {x : SMap Alloc} (hk0 : Frame M s0 s)
    (_hL : W.putAllocs &&& M = W.putAllocs) : Frame M s0 (State.putAllocs s x) := by
  unfold State.putAllocs
  try dsimp only
  repeat' first
    | (with_reducible assumption)
    | (split)
    | (with_reducible refine Frame.foldl ?_ ?_)
    | (exact Nat.zero_and _)
    | (intro u hu x hx)
    | (intro u hu)
    | (refine Frame.bitMem (by with_reducible assumption) ?_)
    | (refine Frame.bitMemFst (by with_reducible assumption) ?_)
    | (with_reducible apply Frame.emit)
    | (with_reducible refine Frame.mk_other ?_)
    | decide

/-- What `State.putSluTrees` may write: register fields by number, memory at 1000. -/
def W.putSluTrees : Nat := 0x0

theorem Frame.putSluTrees {M : Nat} {s0 s : State} {x : SMap SluTree} (hk0 : Frame M s0 s)
    (_hL : W.putSluTrees &&& M = W.putSluTrees) : Frame M s0 (State.putSluTrees s x) := by
  unfold State.putSluTrees
  try dsimp only
  repeat' first
    | (with_reducible assumption)
    | (split)
    | (with_reducible refine Frame.foldl ?_ ?_)
    | (exact Nat.zero_and _)
    | (intro u hu x hx)
    | (intro u hu)
    | (refine Frame.bitMem (by with_reducible assumption) ?_)
    | (refine Frame.bitMemFst (by with_reducible assumption) ?_)
    | (with_reducible apply Frame.emit)
    | (with_reducible refine Frame.mk_other ?_)
    | decide

/-- What `State.putSluUnits` may write: register fields by number, memory at 1000. -/
def W.putSluUnits : Nat := 0x0

theorem Frame.putSluUnits {M : Nat} {s0 s : State} {x : SMap SluUnit} (hk0 : Frame M s0 s)
    (_hL : W.putSluUnits &&& M = W.putSluUnits) : Frame M s0 (State.putSluUnits s x) := by
  unfold State.putSluUnits
  try dsimp only
  repeat' first
    | (with_reducible assumption)
    | (split)
    | (with_reducible refine Frame.foldl ?_ ?_)
    | (exact Nat.zero_and _)
    | (intro u hu x hx)
    | (intro u hu)
    | (refine Frame.bitMem (by with_reducible assumption) ?_)
    | (refine Frame.bitMemFst (by with_reducible assumption) ?_)
    | (with_reducible apply Frame.emit)
    | (with_reducible refine Frame.mk_other ?_)
    | decide

/-- What `State.putSlu` may write: register fields by number, memory at 1000. -/
def W.putSlu : Nat := 0x0

theorem Frame.putSlu {M : Nat} {s0 s : State} {x : Sluice} (hk0 : Frame M s0 s)
    (_hL : W.putSlu &&& M = W.putSlu) : Frame M s0 (State.putSlu s x) := by
  unfold State.putSlu
  try dsimp only
  repeat' first
    | (with_reducible assumption)
    | (split)
    | (with_reducible refine Frame.foldl ?_ ?_)
    | (exact Nat.zero_and _)
    | (intro u hu x hx)
    | (intro u hu)
    | (refine Frame.bitMem (by with_reducible assumption) ?_)
    | (refine Frame.bitMemFst (by with_reducible assumption) ?_)
    | (with_reducible apply Frame.emit)
    | (with_reducible refine Frame.mk_other ?_)
    | decide

/-- What `State.putBuf` may write: register fields by number, memory at 1000. -/
def W.putBuf : Nat := 0x0

theorem Frame.putBuf {M : Nat} {s0 s : State} {x : Buffers} (hk0 : Frame M s0 s)
    (_hL : W.putBuf &&& M = W.putBuf) : Frame M s0 (State.putBuf s x) := by
  unfold State.putBuf
  try dsimp only
  repeat' first
    | (with_reducible assumption)
    | (split)
    | (with_reducible refine Frame.foldl ?_ ?_)
    | (exact Nat.zero_and _)
    | (intro u hu x hx)
    | (intro u hu)
    | (refine Frame.bitMem (by with_reducible assumption) ?_)
    | (refine Frame.bitMemFst (by with_reducible assumption) ?_)
    | (with_reducible apply Frame.emit)
    | (with_reducible refine Frame.mk_other ?_)
    | decide

/-- What `State.putTabs` may write: register fields by number, memory at 1000. -/
def W.putTabs : Nat := 0x0

theorem Frame.putTabs {M : Nat} {s0 s : State} {x : Tables} (hk0 : Frame M s0 s)
    (_hL : W.putTabs &&& M = W.putTabs) : Frame M s0 (State.putTabs s x) := by
  unfold State.putTabs
  try dsimp only
  repeat' first
    | (with_reducible assumption)
    | (split)
    | (with_reducible refine Frame.foldl ?_ ?_)
    | (exact Nat.zero_and _)
    | (intro u hu x hx)
    | (intro u hu)
    | (refine Frame.bitMem (by with_reducible assumption) ?_)
    | (refine Frame.bitMemFst (by with_reducible assumption) ?_)
    | (with_reducible apply Frame.emit)
    | (with_reducible refine Frame.mk_other ?_)
    | decide

/-- What `State.putFab` may write: register fields by number, memory at 1000. -/
def W.putFab : Nat := 0x0

theorem Frame.putFab {M : Nat} {s0 s : State} {x : Fabric} (hk0 : Frame M s0 s)
    (_hL : W.putFab &&& M = W.putFab) : Frame M s0 (State.putFab s x) := by
  unfold State.putFab
  try dsimp only
  repeat' first
    | (with_reducible assumption)
    | (split)
    | (with_reducible refine Frame.foldl ?_ ?_)
    | (exact Nat.zero_and _)
    | (intro u hu x hx)
    | (intro u hu)
    | (refine Frame.bitMem (by with_reducible assumption) ?_)
    | (refine Frame.bitMemFst (by with_reducible assumption) ?_)
    | (with_reducible apply Frame.emit)
    | (with_reducible refine Frame.mk_other ?_)
    | decide

/-- What `State.putTel` may write: register fields by number, memory at 1000. -/
def W.putTel : Nat := 0x0

theorem Frame.putTel {M : Nat} {s0 s : State} {x : SMap (List (List Byte))} (hk0 : Frame M s0 s)
    (_hL : W.putTel &&& M = W.putTel) : Frame M s0 (State.putTel s x) := by
  unfold State.putTel
  try dsimp only
  repeat' first
    | (with_reducible assumption)
    | (split)
    | (with_reducible refine Frame.foldl ?_ ?_)
    | (exact Nat.zero_and _)
    | (intro u hu x hx)
    | (intro u hu)
    | (refine Frame.bitMem (by with_reducible assumption) ?_)
    | (refine Frame.bitMemFst (by with_reducible assumption) ?_)
    | (with_reducible apply Frame.emit)
    | (with_reducible refine Frame.mk_other ?_)
    | decide

/-- What `State.putMon` may write: register fields by number, memory at 1000. -/
def W.putMon : Nat := 0x0

theorem Frame.putMon {M : Nat} {s0 s : State} {x : Monitor} (hk0 : Frame M s0 s)
    (_hL : W.putMon &&& M = W.putMon) : Frame M s0 (State.putMon s x) := by
  unfold State.putMon
  try dsimp only
  repeat' first
    | (with_reducible assumption)
    | (split)
    | (with_reducible refine Frame.foldl ?_ ?_)
    | (exact Nat.zero_and _)
    | (intro u hu x hx)
    | (intro u hu)
    | (refine Frame.bitMem (by with_reducible assumption) ?_)
    | (refine Frame.bitMemFst (by with_reducible assumption) ?_)
    | (with_reducible apply Frame.emit)
    | (with_reducible refine Frame.mk_other ?_)
    | decide

/-- What `State.putUpsets` may write: register fields by number, memory at 1000. -/
def W.putUpsets : Nat := 0x0

theorem Frame.putUpsets {M : Nat} {s0 s : State} {x : List Upset} (hk0 : Frame M s0 s)
    (_hL : W.putUpsets &&& M = W.putUpsets) : Frame M s0 (State.putUpsets s x) := by
  unfold State.putUpsets
  try dsimp only
  repeat' first
    | (with_reducible assumption)
    | (split)
    | (with_reducible refine Frame.foldl ?_ ?_)
    | (exact Nat.zero_and _)
    | (intro u hu x hx)
    | (intro u hu)
    | (refine Frame.bitMem (by with_reducible assumption) ?_)
    | (refine Frame.bitMemFst (by with_reducible assumption) ?_)
    | (with_reducible apply Frame.emit)
    | (with_reducible refine Frame.mk_other ?_)
    | decide

/-- What `State.upset` may write: register fields by number, memory at 1000. -/
def W.upset : Nat := 0x0

theorem Frame.upset {M : Nat} {s0 s : State} {l : List Upset} (hk0 : Frame M s0 s)
    (_hL : W.upset &&& M = W.upset) : Frame M s0 (State.upset s l) := by
  unfold State.upset
  try dsimp only
  repeat' first
    | (with_reducible assumption)
    | (split)
    | (with_reducible refine Frame.foldl ?_ ?_)
    | (exact Nat.zero_and _)
    | (intro u hu x hx)
    | (intro u hu)
    | (refine Frame.bitMem (by with_reducible assumption) ?_)
    | (refine Frame.bitMemFst (by with_reducible assumption) ?_)
    | (with_reducible apply Frame.emit)
    | (with_reducible apply Frame.putUpsets)
    | decide

/-- What `State.rewrite` may write: register fields by number, memory at 1000. -/
def W.rewrite : Nat := 0x0

theorem Frame.rewrite {M : Nat} {s0 s : State} {which : Upset → Bool} (hk0 : Frame M s0 s)
    (_hL : W.rewrite &&& M = W.rewrite) : Frame M s0 (State.rewrite s which) := by
  unfold State.rewrite
  try dsimp only
  repeat' first
    | (with_reducible assumption)
    | (split)
    | (with_reducible refine Frame.foldl ?_ ?_)
    | (exact Nat.zero_and _)
    | (intro u hu x hx)
    | (intro u hu)
    | (refine Frame.bitMem (by with_reducible assumption) ?_)
    | (refine Frame.bitMemFst (by with_reducible assumption) ?_)
    | (with_reducible apply Frame.emit)
    | (with_reducible apply Frame.putUpsets)
    | decide

/-- What `State.rewriteWord` may write: register fields by number, memory at 1000. -/
def W.rewriteWord : Nat := 0x0

theorem Frame.rewriteWord {M : Nat} {s0 s : State} {mem : Nat} {inst : Nat} {addr : Nat} (hk0 : Frame M s0 s)
    (_hL : W.rewriteWord &&& M = W.rewriteWord) : Frame M s0 (State.rewriteWord s mem inst addr) := by
  unfold State.rewriteWord
  try dsimp only
  repeat' first
    | (with_reducible assumption)
    | (split)
    | (with_reducible refine Frame.foldl ?_ ?_)
    | (exact Nat.zero_and _)
    | (intro u hu x hx)
    | (intro u hu)
    | (refine Frame.bitMem (by with_reducible assumption) ?_)
    | (refine Frame.bitMemFst (by with_reducible assumption) ?_)
    | (with_reducible apply Frame.emit)
    | (with_reducible apply Frame.rewrite)
    | decide

end Sys2Proof.Machine
end

