-- ==== Sys2Proof/Laws/FrameFlags.lean ====
section
/-! SUPPORT. Which registers, and whether the memories, the operations of Flags may write (Laws/Frame.lean). -/

namespace Sys2Proof.Machine

set_option Elab.async false
set_option linter.all false

/-- What `State.countFire` may write: register fields by number, memory at 1000. -/
def W.countFire : Nat := 0xc0000000000020000000000000000000000000000000000000000000000000000000000000000000000000000000000000000000000000000000000000000000000

theorem Frame.countFire {M : Nat} {s0 s : State} (hk0 : Frame M s0 s)
    (hL : W.countFire &&& M = W.countFire) : Frame M s0 (State.countFire s) := by
  unfold State.countFire
  try dsimp only
  repeat' first
    | (with_reducible assumption)
    | (split)
    | (with_reducible refine Frame.foldl ?_ ?_)
    | (exact Nat.zero_and _)
    | (exact Frame.sub hL (by decide))
    | (exact Frame.bitOf hL (by decide))
    | (intro u hu x hx)
    | (intro u hu)
    | (refine Frame.bitMem (by with_reducible assumption) ?_)
    | (refine Frame.sub_all hL (by first | decide | (simp only [List.map_cons, List.map_nil]; decide)))
    | (refine Frame.bitMemFst (by with_reducible assumption) ?_)
    | (with_reducible refine Frame.wr ?_ ?_)
    | decide

/-- What `State.fired` may write: register fields by number, memory at 1000. -/
def W.fired : Nat := 0xc0000000000020000000000000000000000000000000000000000000000000072000000000000000000000000000000000000000000000000000000000000000000

theorem Frame.fired {M : Nat} {s0 s : State} {v : Nat} (hk0 : Frame M s0 s)
    (hL : W.fired &&& M = W.fired) : Frame M s0 (State.fired s v) := by
  unfold State.fired
  try dsimp only
  repeat' first
    | (with_reducible assumption)
    | (split)
    | (with_reducible refine Frame.foldl ?_ ?_)
    | (exact Nat.zero_and _)
    | (exact Frame.sub hL (by decide))
    | (exact Frame.bitOf hL (by decide))
    | (intro u hu x hx)
    | (intro u hu)
    | (refine Frame.bitMem (by with_reducible assumption) ?_)
    | (refine Frame.sub_all hL (by first | decide | (simp only [List.map_cons, List.map_nil]; decide)))
    | (refine Frame.bitMemFst (by with_reducible assumption) ?_)
    | (with_reducible refine Frame.wr ?_ ?_)
    | (with_reducible apply Frame.emit)
    | (with_reducible apply Frame.countFire)
    | decide

/-- What `State.fireOnly` may write: register fields by number, memory at 1000. -/
def W.fireOnly : Nat := 0xc0000000000020000000000000000000000000000000000000000000000000072000000000000000000000000000000000000000000000000000000000000000000

theorem Frame.fireOnly {M : Nat} {s0 s : State} {v : Nat} (hk0 : Frame M s0 s)
    (hL : W.fireOnly &&& M = W.fireOnly) : Frame M s0 (State.fireOnly s v) := by
  unfold State.fireOnly
  try dsimp only
  repeat' first
    | (with_reducible assumption)
    | (split)
    | (with_reducible refine Frame.foldl ?_ ?_)
    | (exact Nat.zero_and _)
    | (exact Frame.sub hL (by decide))
    | (exact Frame.bitOf hL (by decide))
    | (intro u hu x hx)
    | (intro u hu)
    | (refine Frame.bitMem (by with_reducible assumption) ?_)
    | (refine Frame.sub_all hL (by first | decide | (simp only [List.map_cons, List.map_nil]; decide)))
    | (refine Frame.bitMemFst (by with_reducible assumption) ?_)
    | (with_reducible refine Frame.wr ?_ ?_)
    | (with_reducible apply Frame.emit)
    | (with_reducible apply Frame.fired)
    | decide

/-- What `State.eventBy` may write: register fields by number, memory at 1000. -/
def W.eventBy : Nat := 0xc0000000000020000000000000000000000000000000000000000000000000072000000000000000000000000000000000000000000000000000000000000000000

theorem Frame.eventBy {M : Nat} {s0 s : State} {v : Nat} {g : State → Nat → State} (hk0 : Frame M s0 s) (hg : ∀ u k, Frame M s0 u → Frame M s0 (g u k))
    (hL : W.eventBy &&& M = W.eventBy) : Frame M s0 (State.eventBy g s v) := by
  unfold State.eventBy
  try dsimp only
  repeat' first
    | (with_reducible assumption)
    | (split)
    | (with_reducible refine Frame.foldl ?_ ?_)
    | (exact Nat.zero_and _)
    | (exact Frame.sub hL (by decide))
    | (exact Frame.bitOf hL (by decide))
    | (intro u hu x hx)
    | (intro u hu)
    | (refine Frame.bitMem (by with_reducible assumption) ?_)
    | (refine Frame.sub_all hL (by first | decide | (simp only [List.map_cons, List.map_nil]; decide)))
    | (refine Frame.bitMemFst (by with_reducible assumption) ?_)
    | (with_reducible refine Frame.wr ?_ ?_)
    | (with_reducible apply hg)
    | decide

/-- What `State.overflowEvent` may write: register fields by number, memory at 1000. -/
def W.overflowEvent : Nat := 0xc0000000000020000000000000000000000000000000000000000000000000072000000000000000000000000000000000000000000000000000000000000000000

theorem Frame.overflowEvent {M : Nat} {s0 s : State} {was : Bool} (hk0 : Frame M s0 s)
    (hL : W.overflowEvent &&& M = W.overflowEvent) : Frame M s0 (State.overflowEvent s was) := by
  unfold State.overflowEvent
  try dsimp only
  repeat' first
    | (with_reducible assumption)
    | (split)
    | (with_reducible refine Frame.foldl ?_ ?_)
    | (exact Nat.zero_and _)
    | (exact Frame.sub hL (by decide))
    | (exact Frame.bitOf hL (by decide))
    | (intro u k hu; with_reducible apply Frame.fireOnly)
    | (intro u hu x hx)
    | (intro u hu)
    | (refine Frame.bitMem (by with_reducible assumption) ?_)
    | (refine Frame.sub_all hL (by first | decide | (simp only [List.map_cons, List.map_nil]; decide)))
    | (refine Frame.bitMemFst (by with_reducible assumption) ?_)
    | (with_reducible refine Frame.wr ?_ ?_)
    | (with_reducible apply Frame.emit)
    | (with_reducible apply Frame.eventBy)
    | decide

/-- What `State.fire` may write: register fields by number, memory at 1000. -/
def W.fire : Nat := 0xc0000000000020000000000000000000000000000000000000000000000000072000000000000000000000000000000000000000000000000000000000000000000

theorem Frame.fire {M : Nat} {s0 s : State} {v : Nat} (hk0 : Frame M s0 s)
    (hL : W.fire &&& M = W.fire) : Frame M s0 (State.fire s v) := by
  unfold State.fire
  try dsimp only
  repeat' first
    | (with_reducible assumption)
    | (split)
    | (with_reducible refine Frame.foldl ?_ ?_)
    | (exact Nat.zero_and _)
    | (exact Frame.sub hL (by decide))
    | (exact Frame.bitOf hL (by decide))
    | (intro u hu x hx)
    | (intro u hu)
    | (refine Frame.bitMem (by with_reducible assumption) ?_)
    | (refine Frame.sub_all hL (by first | decide | (simp only [List.map_cons, List.map_nil]; decide)))
    | (refine Frame.bitMemFst (by with_reducible assumption) ?_)
    | (with_reducible refine Frame.wr ?_ ?_)
    | (with_reducible apply Frame.emit)
    | (with_reducible apply Frame.overflowEvent)
    | (with_reducible apply Frame.fireOnly)
    | decide

/-- What `State.vecEvent` may write: register fields by number, memory at 1000. -/
def W.vecEvent : Nat := 0xc0000000000020000000000000000000000000000000000000000000000000072000000000000000000000000000000000000000000000000000000000000000000

theorem Frame.vecEvent {M : Nat} {s0 s : State} {v : Nat} (hk0 : Frame M s0 s)
    (hL : W.vecEvent &&& M = W.vecEvent) : Frame M s0 (State.vecEvent s v) := by
  unfold State.vecEvent
  try dsimp only
  repeat' first
    | (with_reducible assumption)
    | (split)
    | (with_reducible refine Frame.foldl ?_ ?_)
    | (exact Nat.zero_and _)
    | (exact Frame.sub hL (by decide))
    | (exact Frame.bitOf hL (by decide))
    | (intro u k hu; with_reducible apply Frame.fire)
    | (intro u hu x hx)
    | (intro u hu)
    | (refine Frame.bitMem (by with_reducible assumption) ?_)
    | (refine Frame.sub_all hL (by first | decide | (simp only [List.map_cons, List.map_nil]; decide)))
    | (refine Frame.bitMemFst (by with_reducible assumption) ?_)
    | (with_reducible refine Frame.wr ?_ ?_)
    | (with_reducible apply Frame.eventBy)
    | decide

/-- What `State.srcEvent` may write: register fields by number, memory at 1000. -/
def W.srcEvent : Nat := 0xc0000000000020000000000000000000000000000000000000000000000000072000000000000000000000000000000000000000000000000000000000000000000

theorem Frame.srcEvent {M : Nat} {s0 s : State} {src : Nat} (hk0 : Frame M s0 s)
    (hL : W.srcEvent &&& M = W.srcEvent) : Frame M s0 (State.srcEvent s src) := by
  unfold State.srcEvent
  try dsimp only
  repeat' first
    | (with_reducible assumption)
    | (split)
    | (with_reducible refine Frame.foldl ?_ ?_)
    | (exact Nat.zero_and _)
    | (exact Frame.sub hL (by decide))
    | (exact Frame.bitOf hL (by decide))
    | (intro u hu x hx)
    | (intro u hu)
    | (refine Frame.bitMem (by with_reducible assumption) ?_)
    | (refine Frame.sub_all hL (by first | decide | (simp only [List.map_cons, List.map_nil]; decide)))
    | (refine Frame.bitMemFst (by with_reducible assumption) ?_)
    | (with_reducible apply Frame.vecEvent)
    | decide

/-- What `State.raise` may write: register fields by number, memory at 1000. -/
def W.raise : Nat := 0xc0000000000020000000000000000000000000000000000000000000000000072000000000000000000000000000000000000000000000000000000000000000000

theorem Frame.raise {M : Nat} {s0 s : State} {f : Fld} {i : Nat} {enabled : Bool} {src : Nat} (hk0 : Frame M s0 s) (hf : M.testBit f.num = true)
    (hL : W.raise &&& M = W.raise) : Frame M s0 (State.raise s f i enabled src) := by
  unfold State.raise
  try dsimp only
  repeat' first
    | (with_reducible assumption)
    | (split)
    | (with_reducible refine Frame.foldl ?_ ?_)
    | (exact Nat.zero_and _)
    | (exact Frame.sub hL (by decide))
    | (exact Frame.bitOf hL (by decide))
    | (intro u hu x hx)
    | (intro u hu)
    | (refine Frame.bitMem (by with_reducible assumption) ?_)
    | (refine Frame.sub_all hL (by first | decide | (simp only [List.map_cons, List.map_nil]; decide)))
    | (refine Frame.bitMemFst (by with_reducible assumption) ?_)
    | (with_reducible refine Frame.wr ?_ ?_)
    | (with_reducible apply Frame.srcEvent)
    | decide

/-- What `State.raiseEn` may write: register fields by number, memory at 1000. -/
def W.raiseEn : Nat := 0xc0000000000020000000000000000000000000000000000000000000000000072000000000000000000000000000000000000000000000000000000000000000000

theorem Frame.raiseEn {M : Nat} {s0 s : State} {f : Fld} {i : Nat} {en : Fld} {src : Nat} (hk0 : Frame M s0 s) (hf : M.testBit f.num = true)
    (hL : W.raiseEn &&& M = W.raiseEn) : Frame M s0 (State.raiseEn s f i en src) := by
  unfold State.raiseEn
  try dsimp only
  repeat' first
    | (with_reducible assumption)
    | (split)
    | (with_reducible refine Frame.foldl ?_ ?_)
    | (exact Nat.zero_and _)
    | (exact Frame.sub hL (by decide))
    | (exact Frame.bitOf hL (by decide))
    | (intro u hu x hx)
    | (intro u hu)
    | (refine Frame.bitMem (by with_reducible assumption) ?_)
    | (refine Frame.sub_all hL (by first | decide | (simp only [List.map_cons, List.map_nil]; decide)))
    | (refine Frame.bitMemFst (by with_reducible assumption) ?_)
    | (with_reducible apply Frame.raise)
    | decide

/-- What `State.treEvent` may write: register fields by number, memory at 1000. -/
def W.treEvent : Nat := 0xc0000000000020000000000000000000000000000000000000000000000000072000000000000000000000000000000000000000000000000000000000000000000

theorem Frame.treEvent {M : Nat} {s0 s : State} {t : Nat} {f : Fld} (hk0 : Frame M s0 s) (hf : M.testBit f.num = true)
    (hL : W.treEvent &&& M = W.treEvent) : Frame M s0 (State.treEvent s t f) := by
  unfold State.treEvent
  try dsimp only
  repeat' first
    | (with_reducible assumption)
    | (split)
    | (with_reducible refine Frame.foldl ?_ ?_)
    | (exact Nat.zero_and _)
    | (exact Frame.sub hL (by decide))
    | (exact Frame.bitOf hL (by decide))
    | (intro u hu x hx)
    | (intro u hu)
    | (refine Frame.bitMem (by with_reducible assumption) ?_)
    | (refine Frame.sub_all hL (by first | decide | (simp only [List.map_cons, List.map_nil]; decide)))
    | (refine Frame.bitMemFst (by with_reducible assumption) ?_)
    | (with_reducible apply Frame.raiseEn)
    | decide

/-- What `State.treUsEvent` may write: register fields by number, memory at 1000. -/
def W.treUsEvent : Nat := 0xc0000000000020000000000000000000000000000000000000000000000000072000000000000000000000000000000000000000000000000000000000000000000

theorem Frame.treUsEvent {M : Nat} {s0 s : State} {t : Nat} {f : Fld} (hk0 : Frame M s0 s) (hf : M.testBit f.num = true)
    (hL : W.treUsEvent &&& M = W.treUsEvent) : Frame M s0 (State.treUsEvent s t f) := by
  unfold State.treUsEvent
  try dsimp only
  repeat' first
    | (with_reducible assumption)
    | (split)
    | (with_reducible refine Frame.foldl ?_ ?_)
    | (exact Nat.zero_and _)
    | (exact Frame.sub hL (by decide))
    | (exact Frame.bitOf hL (by decide))
    | (intro u hu x hx)
    | (intro u hu)
    | (refine Frame.bitMem (by with_reducible assumption) ?_)
    | (refine Frame.sub_all hL (by first | decide | (simp only [List.map_cons, List.map_nil]; decide)))
    | (refine Frame.bitMemFst (by with_reducible assumption) ?_)
    | (with_reducible apply Frame.raiseEn)
    | decide

/-- What `State.tbEvent` may write: register fields by number, memory at 1000. -/
def W.tbEvent : Nat := 0xc0000000000020000000000000000000000000000000000000000000000000072000000000000000000000000000000000000000000000000000000000000000000

theorem Frame.tbEvent {M : Nat} {s0 s : State} {f : Fld} (hk0 : Frame M s0 s) (hf : M.testBit f.num = true)
    (hL : W.tbEvent &&& M = W.tbEvent) : Frame M s0 (State.tbEvent s f) := by
  unfold State.tbEvent
  try dsimp only
  repeat' first
    | (with_reducible assumption)
    | (split)
    | (with_reducible refine Frame.foldl ?_ ?_)
    | (exact Nat.zero_and _)
    | (exact Frame.sub hL (by decide))
    | (exact Frame.bitOf hL (by decide))
    | (intro u hu x hx)
    | (intro u hu)
    | (refine Frame.bitMem (by with_reducible assumption) ?_)
    | (refine Frame.sub_all hL (by first | decide | (simp only [List.map_cons, List.map_nil]; decide)))
    | (refine Frame.bitMemFst (by with_reducible assumption) ?_)
    | (with_reducible apply Frame.raise)
    | decide

/-- What `State.sluEvent` may write: register fields by number, memory at 1000. -/
def W.sluEvent : Nat := 0xc0000000000020000000000000000000000000000000000000000000000000072000000000000000000000000000000000000000000000000000000000000000000

theorem Frame.sluEvent {M : Nat} {s0 s : State} {f : Fld} (hk0 : Frame M s0 s) (hf : M.testBit f.num = true)
    (hL : W.sluEvent &&& M = W.sluEvent) : Frame M s0 (State.sluEvent s f) := by
  unfold State.sluEvent
  try dsimp only
  repeat' first
    | (with_reducible assumption)
    | (split)
    | (with_reducible refine Frame.foldl ?_ ?_)
    | (exact Nat.zero_and _)
    | (exact Frame.sub hL (by decide))
    | (exact Frame.bitOf hL (by decide))
    | (intro u hu x hx)
    | (intro u hu)
    | (refine Frame.bitMem (by with_reducible assumption) ?_)
    | (refine Frame.sub_all hL (by first | decide | (simp only [List.map_cons, List.map_nil]; decide)))
    | (refine Frame.bitMemFst (by with_reducible assumption) ?_)
    | (with_reducible apply Frame.raiseEn)
    | decide

/-- What `State.pwrEvent` may write: register fields by number, memory at 1000. -/
def W.pwrEvent : Nat := 0xc0000000000020000000000000000000000000000000000000000000000000072000000000000000000000000000000000000000000000000000000000000000000

theorem Frame.pwrEvent {M : Nat} {s0 s : State} {f : Fld} (hk0 : Frame M s0 s) (hf : M.testBit f.num = true)
    (hL : W.pwrEvent &&& M = W.pwrEvent) : Frame M s0 (State.pwrEvent s f) := by
  unfold State.pwrEvent
  try dsimp only
  repeat' first
    | (with_reducible assumption)
    | (split)
    | (with_reducible refine Frame.foldl ?_ ?_)
    | (exact Nat.zero_and _)
    | (exact Frame.sub hL (by decide))
    | (exact Frame.bitOf hL (by decide))
    | (intro u hu x hx)
    | (intro u hu)
    | (refine Frame.bitMem (by with_reducible assumption) ?_)
    | (refine Frame.sub_all hL (by first | decide | (simp only [List.map_cons, List.map_nil]; decide)))
    | (refine Frame.bitMemFst (by with_reducible assumption) ?_)
    | (with_reducible apply Frame.raiseEn)
    | decide

/-- What `State.fabEvent` may write: register fields by number, memory at 1000. -/
def W.fabEvent : Nat := 0xc0000000000020000000000000000000000000000000000000000000000000072000000000000000000000000000000000000000000000000000000000000000000

theorem Frame.fabEvent {M : Nat} {s0 s : State} {f : Fld} (hk0 : Frame M s0 s) (hf : M.testBit f.num = true)
    (hL : W.fabEvent &&& M = W.fabEvent) : Frame M s0 (State.fabEvent s f) := by
  unfold State.fabEvent
  try dsimp only
  repeat' first
    | (with_reducible assumption)
    | (split)
    | (with_reducible refine Frame.foldl ?_ ?_)
    | (exact Nat.zero_and _)
    | (exact Frame.sub hL (by decide))
    | (exact Frame.bitOf hL (by decide))
    | (intro u hu x hx)
    | (intro u hu)
    | (refine Frame.bitMem (by with_reducible assumption) ?_)
    | (refine Frame.sub_all hL (by first | decide | (simp only [List.map_cons, List.map_nil]; decide)))
    | (refine Frame.bitMemFst (by with_reducible assumption) ?_)
    | (with_reducible apply Frame.raiseEn)
    | decide

/-- What `State.protEvent` may write: register fields by number, memory at 1000. -/
def W.protEvent : Nat := 0xc0000000000020000000000000000000000000000000000000000000000000072000000000000000000000000000000000000000000000000000000000000000000

theorem Frame.protEvent {M : Nat} {s0 s : State} {f : Fld} (hk0 : Frame M s0 s) (hf : M.testBit f.num = true)
    (hL : W.protEvent &&& M = W.protEvent) : Frame M s0 (State.protEvent s f) := by
  unfold State.protEvent
  try dsimp only
  repeat' first
    | (with_reducible assumption)
    | (split)
    | (with_reducible refine Frame.foldl ?_ ?_)
    | (exact Nat.zero_and _)
    | (exact Frame.sub hL (by decide))
    | (exact Frame.bitOf hL (by decide))
    | (intro u hu x hx)
    | (intro u hu)
    | (refine Frame.bitMem (by with_reducible assumption) ?_)
    | (refine Frame.sub_all hL (by first | decide | (simp only [List.map_cons, List.map_nil]; decide)))
    | (refine Frame.bitMemFst (by with_reducible assumption) ?_)
    | (with_reducible apply Frame.raiseEn)
    | decide

/-- What `State.pmcEvent` may write: register fields by number, memory at 1000. -/
def W.pmcEvent : Nat := 0xc0000000000020000000000000000000000000000000000000000000000000072000000000000000000000000000000000000000000000000000000000000000000

theorem Frame.pmcEvent {M : Nat} {s0 s : State} {f : Fld} (hk0 : Frame M s0 s) (hf : M.testBit f.num = true)
    (hL : W.pmcEvent &&& M = W.pmcEvent) : Frame M s0 (State.pmcEvent s f) := by
  unfold State.pmcEvent
  try dsimp only
  repeat' first
    | (with_reducible assumption)
    | (split)
    | (with_reducible refine Frame.foldl ?_ ?_)
    | (exact Nat.zero_and _)
    | (exact Frame.sub hL (by decide))
    | (exact Frame.bitOf hL (by decide))
    | (intro u hu x hx)
    | (intro u hu)
    | (refine Frame.bitMem (by with_reducible assumption) ?_)
    | (refine Frame.sub_all hL (by first | decide | (simp only [List.map_cons, List.map_nil]; decide)))
    | (refine Frame.bitMemFst (by with_reducible assumption) ?_)
    | (with_reducible apply Frame.raiseEn)
    | decide

/-- What `State.mbxEvent` may write: register fields by number, memory at 1000. -/
def W.mbxEvent : Nat := 0xc0000000000020000000000000000000000000000000000000000000000000072000000000000000000000000000000000000000000000000000000000000000000

theorem Frame.mbxEvent {M : Nat} {s0 s : State} {f : Fld} (hk0 : Frame M s0 s) (hf : M.testBit f.num = true)
    (hL : W.mbxEvent &&& M = W.mbxEvent) : Frame M s0 (State.mbxEvent s f) := by
  unfold State.mbxEvent
  try dsimp only
  repeat' first
    | (with_reducible assumption)
    | (split)
    | (with_reducible refine Frame.foldl ?_ ?_)
    | (exact Nat.zero_and _)
    | (exact Frame.sub hL (by decide))
    | (exact Frame.bitOf hL (by decide))
    | (intro u hu x hx)
    | (intro u hu)
    | (refine Frame.bitMem (by with_reducible assumption) ?_)
    | (refine Frame.sub_all hL (by first | decide | (simp only [List.map_cons, List.map_nil]; decide)))
    | (refine Frame.bitMemFst (by with_reducible assumption) ?_)
    | (with_reducible apply Frame.raiseEn)
    | decide

/-- What `State.irqStatus` may write: register fields by number, memory at 1000. -/
def W.irqStatus : Nat := 0xc0000000000020000000000000000000000000000000000000000000000000072000000000000000000000000000000000000000000000000000000000000000000

theorem Frame.irqStatus {M : Nat} {s0 s : State} {f : Fld} (hk0 : Frame M s0 s) (hf : M.testBit f.num = true)
    (hL : W.irqStatus &&& M = W.irqStatus) : Frame M s0 (State.irqStatus s f) := by
  unfold State.irqStatus
  try dsimp only
  repeat' first
    | (with_reducible assumption)
    | (split)
    | (with_reducible refine Frame.foldl ?_ ?_)
    | (exact Nat.zero_and _)
    | (exact Frame.sub hL (by decide))
    | (exact Frame.bitOf hL (by decide))
    | (intro u hu x hx)
    | (intro u hu)
    | (refine Frame.bitMem (by with_reducible assumption) ?_)
    | (refine Frame.sub_all hL (by first | decide | (simp only [List.map_cons, List.map_nil]; decide)))
    | (refine Frame.bitMemFst (by with_reducible assumption) ?_)
    | (with_reducible apply Frame.raise)
    | decide

end Sys2Proof.Machine
end

