-- ==== Sys2Proof/Laws/FramePowerSeq.lean ====
section
/-! SUPPORT. Which registers, and whether the memories, the operations of PowerSeq may write (Laws/Frame.lean). -/

namespace Sys2Proof.Machine

set_option Elab.async false
set_option linter.all false

/-- What `State.setDom` may write: register fields by number, memory at 1000. -/
def W.setDom : Nat := 0x0

theorem Frame.setDom {M : Nat} {s0 s : State} {d : Nat} {p : PowerDom} (hk0 : Frame M s0 s)
    (_hL : W.setDom &&& M = W.setDom) : Frame M s0 (State.setDom s d p) := by
  unfold State.setDom
  try dsimp only
  repeat' first
    | (with_reducible assumption)
    | (split)
    | (with_reducible refine Frame.foldl ?_ ?_)
    | (exact Nat.zero_and _)
    | (intro u hu x hx)
    | (intro u hu)
    | (refine Frame.bitMem (by with_reducible assumption) ?_)
    | (refine Frame.bitMemFst (by with_reducible assumption) ?_)
    | (with_reducible apply Frame.emit)
    | (with_reducible refine Frame.mk_other ?_)
    | decide

/-- What `State.pend` may write: register fields by number, memory at 1000. -/
def W.pend : Nat := 0x4c00000000000000000000000000000000000000000000000000000000000000000000000000000000000000000000000000000000000

theorem Frame.pend {M : Nat} {s0 s : State} {d : Nat} {target : Nat} {latched : Bool} (hk0 : Frame M s0 s)
    (hL : W.pend &&& M = W.pend) : Frame M s0 (State.pend s d target latched) := by
  unfold State.pend
  try dsimp only
  repeat' first
    | (with_reducible assumption)
    | (split)
    | (with_reducible refine Frame.foldl ?_ ?_)
    | (exact Nat.zero_and _)
    | (exact Frame.sub hL (by decide))
    | (exact Frame.bitOf hL (by decide))
    | (intro u hu x hx)
    | (intro u hu)
    | (refine Frame.bitMem (by with_reducible assumption) ?_)
    | (refine Frame.sub_all hL (by first | decide | (simp only [List.map_cons, List.map_nil]; decide)))
    | (refine Frame.bitMemFst (by with_reducible assumption) ?_)
    | (with_reducible refine Frame.wr ?_ ?_)
    | (with_reducible apply Frame.emit)
    | (with_reducible apply Frame.setDom)
    | (with_reducible refine Frame.mk_other ?_)
    | decide

/-- What `State.unpend` may write: register fields by number, memory at 1000. -/
def W.unpend : Nat := 0x4c00000000000000000000000000000000000000000000000000000000000000000000000000000000000000000000000000000000000

theorem Frame.unpend {M : Nat} {s0 s : State} {d : Nat} (hk0 : Frame M s0 s)
    (hL : W.unpend &&& M = W.unpend) : Frame M s0 (State.unpend s d) := by
  unfold State.unpend
  try dsimp only
  repeat' first
    | (with_reducible assumption)
    | (split)
    | (with_reducible refine Frame.foldl ?_ ?_)
    | (exact Nat.zero_and _)
    | (exact Frame.sub hL (by decide))
    | (exact Frame.bitOf hL (by decide))
    | (intro u hu x hx)
    | (intro u hu)
    | (refine Frame.bitMem (by with_reducible assumption) ?_)
    | (refine Frame.sub_all hL (by first | decide | (simp only [List.map_cons, List.map_nil]; decide)))
    | (refine Frame.bitMemFst (by with_reducible assumption) ?_)
    | (with_reducible refine Frame.wr ?_ ?_)
    | (with_reducible apply Frame.emit)
    | decide

/-- What `State.railSet` may write: register fields by number, memory at 1000. -/
def W.railSet : Nat := 0x200000000000000000000000000000000000000000000000000000000000000000000000000000000000000000000000000000000000000000

theorem Frame.railSet {M : Nat} {s0 s : State} {k : Nat} {on : Bool} (hk0 : Frame M s0 s)
    (hL : W.railSet &&& M = W.railSet) : Frame M s0 (State.railSet s k on) := by
  unfold State.railSet
  try dsimp only
  repeat' first
    | (with_reducible assumption)
    | (split)
    | (with_reducible refine Frame.foldl ?_ ?_)
    | (exact Nat.zero_and _)
    | (exact Frame.sub hL (by decide))
    | (exact Frame.bitOf hL (by decide))
    | (intro u hu x hx)
    | (intro u hu)
    | (refine Frame.bitMem (by with_reducible assumption) ?_)
    | (refine Frame.sub_all hL (by first | decide | (simp only [List.map_cons, List.map_nil]; decide)))
    | (refine Frame.bitMemFst (by with_reducible assumption) ?_)
    | (with_reducible refine Frame.wr ?_ ?_)
    | (with_reducible apply Frame.emit)
    | decide

/-- What `State.beginRegulator` may write: register fields by number, memory at 1000. -/
def W.beginRegulator : Nat := 0x200001000000000000000000000000000000000000000000000000000000000000000000000000000000000000000000000000000000000000

theorem Frame.beginRegulator {M : Nat} {s0 s : State} {d : Nat} (hk0 : Frame M s0 s)
    (hL : W.beginRegulator &&& M = W.beginRegulator) : Frame M s0 (State.beginRegulator s d) := by
  unfold State.beginRegulator
  try dsimp only
  repeat' first
    | (with_reducible assumption)
    | (split)
    | (with_reducible refine Frame.foldl ?_ ?_)
    | (exact Nat.zero_and _)
    | (exact Frame.sub hL (by decide))
    | (exact Frame.bitOf hL (by decide))
    | (intro u hu x hx)
    | (intro u hu)
    | (refine Frame.bitMem (by with_reducible assumption) ?_)
    | (refine Frame.sub_all hL (by first | decide | (simp only [List.map_cons, List.map_nil]; decide)))
    | (refine Frame.bitMemFst (by with_reducible assumption) ?_)
    | (with_reducible refine Frame.wr ?_ ?_)
    | (with_reducible apply Frame.emit)
    | (with_reducible apply Frame.railSet)
    | decide

/-- What `State.advanceRises` may write: register fields by number, memory at 1000. -/
def W.advanceRises : Nat := 0x200001000000000000000000000000000000000000000000000000000000000000000000000000000000000000000000000000000000000000

theorem Frame.advanceRises {M : Nat} {s0 s : State} (hk0 : Frame M s0 s)
    (hL : W.advanceRises &&& M = W.advanceRises) : Frame M s0 (State.advanceRises s) := by
  unfold State.advanceRises
  try dsimp only
  repeat' first
    | (with_reducible assumption)
    | (split)
    | (with_reducible refine Frame.foldl ?_ ?_)
    | (exact Nat.zero_and _)
    | (exact Frame.sub hL (by decide))
    | (exact Frame.bitOf hL (by decide))
    | (intro u hu x hx)
    | (intro u hu)
    | (refine Frame.bitMem (by with_reducible assumption) ?_)
    | (refine Frame.sub_all hL (by first | decide | (simp only [List.map_cons, List.map_nil]; decide)))
    | (refine Frame.bitMemFst (by with_reducible assumption) ?_)
    | (with_reducible apply Frame.emit)
    | (with_reducible apply Frame.beginRegulator)
    | decide

/-- What `State.startRise` may write: register fields by number, memory at 1000. -/
def W.startRise : Nat := 0x25300000000000000000000000000000000000000000000000000000000000000000000000000000000000000000000000000000000000

theorem Frame.startRise {M : Nat} {s0 s : State} {d : Nat} {n : Nat} {lower : List Nat} (hk0 : Frame M s0 s)
    (hL : W.startRise &&& M = W.startRise) : Frame M s0 (State.startRise s d n lower) := by
  unfold State.startRise
  try dsimp only
  repeat' first
    | (with_reducible assumption)
    | (split)
    | (with_reducible refine Frame.foldl ?_ ?_)
    | (exact Nat.zero_and _)
    | (exact Frame.sub hL (by decide))
    | (exact Frame.bitOf hL (by decide))
    | (intro u hu x hx)
    | (intro u hu)
    | (refine Frame.bitMem (by with_reducible assumption) ?_)
    | (refine Frame.sub_all hL (by first | decide | (simp only [List.map_cons, List.map_nil]; decide)))
    | (refine Frame.bitMemFst (by with_reducible assumption) ?_)
    | (with_reducible refine Frame.wr ?_ ?_)
    | (with_reducible apply Frame.emit)
    | (with_reducible apply Frame.setDom)
    | (with_reducible apply Frame.incSat)
    | (with_reducible refine Frame.mk_other ?_)
    | decide

/-- What `State.wakeOne` may write: register fields by number, memory at 1000. -/
def W.wakeOne : Nat := 0xc0000000000020000000025f00000800000000000000000000000000000000072000000000000000000000000000000000000000000000000000000000000000000

theorem Frame.wakeOne {M : Nat} {s0 s : State} {event : List Nat} {d : Nat} (hk0 : Frame M s0 s)
    (hL : W.wakeOne &&& M = W.wakeOne) : Frame M s0 (State.wakeOne s event d) := by
  unfold State.wakeOne
  try dsimp only
  repeat' first
    | (with_reducible assumption)
    | (split)
    | (with_reducible refine Frame.foldl ?_ ?_)
    | (exact Nat.zero_and _)
    | (exact Frame.sub hL (by decide))
    | (exact Frame.bitOf hL (by decide))
    | (intro u hu x hx)
    | (intro u hu)
    | (refine Frame.bitMem (by with_reducible assumption) ?_)
    | (refine Frame.sub_all hL (by first | decide | (simp only [List.map_cons, List.map_nil]; decide)))
    | (refine Frame.bitMemFst (by with_reducible assumption) ?_)
    | (with_reducible apply Frame.emit)
    | (with_reducible apply Frame.unpend)
    | (with_reducible apply Frame.pend)
    | (with_reducible apply Frame.pwrEvent)
    | (with_reducible apply Frame.setDom)
    | (with_reducible apply Frame.startRise)
    | (with_reducible refine Frame.mk_other ?_)
    | decide

/-- What `State.requestOn` may write: register fields by number, memory at 1000. -/
def W.requestOn : Nat := 0xc0000000000020000200025f00000800000000000000000000000000000000072000000000000000000000000000000000000000000000000000000000000000000

theorem Frame.requestOn {M : Nat} {s0 s : State} {d : Nat} (hk0 : Frame M s0 s)
    (hL : W.requestOn &&& M = W.requestOn) : Frame M s0 (State.requestOn s d) := by
  unfold State.requestOn
  try dsimp only
  repeat' first
    | (with_reducible assumption)
    | (split)
    | (with_reducible refine Frame.foldl ?_ ?_)
    | (exact Nat.zero_and _)
    | (exact Frame.sub hL (by decide))
    | (exact Frame.bitOf hL (by decide))
    | (intro u hu x hx)
    | (intro u hu)
    | (refine Frame.bitMem (by with_reducible assumption) ?_)
    | (refine Frame.sub_all hL (by first | decide | (simp only [List.map_cons, List.map_nil]; decide)))
    | (refine Frame.bitMemFst (by with_reducible assumption) ?_)
    | (with_reducible apply Frame.emit)
    | (with_reducible apply Frame.wakeOne)
    | (with_reducible apply Frame.advanceRises)
    | decide

/-- What `State.recordWake` may write: register fields by number, memory at 1000. -/
def W.recordWake : Nat := 0x7e00000000000000000000000000000000000000000000000000000000000000000000000000000000000000000000000000000000

theorem Frame.recordWake {M : Nat} {s0 s : State} {d : Nat} {src : Nat} {tree : Nat} (hk0 : Frame M s0 s)
    (hL : W.recordWake &&& M = W.recordWake) : Frame M s0 (State.recordWake s d src tree) := by
  unfold State.recordWake
  try dsimp only
  repeat' first
    | (with_reducible assumption)
    | (split)
    | (with_reducible refine Frame.foldl ?_ ?_)
    | (exact Nat.zero_and _)
    | (exact Frame.sub hL (by decide))
    | (exact Frame.bitOf hL (by decide))
    | (intro u hu x hx)
    | (intro u hu)
    | (refine Frame.bitMem (by with_reducible assumption) ?_)
    | (refine Frame.sub_all hL (by first | decide | (simp only [List.map_cons, List.map_nil]; decide)))
    | (refine Frame.bitMemFst (by with_reducible assumption) ?_)
    | (with_reducible refine Frame.wr ?_ ?_)
    | (with_reducible apply Frame.emit)
    | (with_reducible apply Frame.putBnd)
    | (with_reducible refine Frame.mk_other ?_)
    | decide

/-- What `State.wake` may write: register fields by number, memory at 1000. -/
def W.wake : Nat := 0xc0000000000020000200025f07e00800000000000000000000000000000000072000000000000000000000000000000000000000000000000000000000000000000

theorem Frame.wake {M : Nat} {s0 s : State} {d : Nat} {src : Nat} {tree : Nat} (hk0 : Frame M s0 s)
    (hL : W.wake &&& M = W.wake) : Frame M s0 (State.wake s d src tree) := by
  unfold State.wake
  try dsimp only
  repeat' first
    | (with_reducible assumption)
    | (split)
    | (with_reducible refine Frame.foldl ?_ ?_)
    | (exact Nat.zero_and _)
    | (exact Frame.sub hL (by decide))
    | (exact Frame.bitOf hL (by decide))
    | (intro u hu x hx)
    | (intro u hu)
    | (refine Frame.bitMem (by with_reducible assumption) ?_)
    | (refine Frame.sub_all hL (by first | decide | (simp only [List.map_cons, List.map_nil]; decide)))
    | (refine Frame.bitMemFst (by with_reducible assumption) ?_)
    | (with_reducible apply Frame.emit)
    | (with_reducible apply Frame.requestOn)
    | (with_reducible apply Frame.recordWake)
    | decide

/-- What `State.countRefused` may write: register fields by number, memory at 1000. -/
def W.countRefused : Nat := 0x80000000000000000000000000000000000000000000000000000000000000000000000000000000000000000000000000000000000000

theorem Frame.countRefused {M : Nat} {s0 s : State} {d : Nat} (hk0 : Frame M s0 s)
    (hL : W.countRefused &&& M = W.countRefused) : Frame M s0 (State.countRefused s d) := by
  unfold State.countRefused
  try dsimp only
  repeat' first
    | (with_reducible assumption)
    | (split)
    | (with_reducible refine Frame.foldl ?_ ?_)
    | (exact Nat.zero_and _)
    | (exact Frame.sub hL (by decide))
    | (exact Frame.bitOf hL (by decide))
    | (intro u hu x hx)
    | (intro u hu)
    | (refine Frame.bitMem (by with_reducible assumption) ?_)
    | (refine Frame.sub_all hL (by first | decide | (simp only [List.map_cons, List.map_nil]; decide)))
    | (refine Frame.bitMemFst (by with_reducible assumption) ?_)
    | (with_reducible apply Frame.emit)
    | (with_reducible apply Frame.setDom)
    | (with_reducible apply Frame.incSat)
    | (with_reducible refine Frame.mk_other ?_)
    | decide

end Sys2Proof.Machine
end

