-- ==== Sys2Proof/Laws/FrameWindowOps.lean ====
section
/-! SUPPORT. Which registers, and whether the memories, the operations of WindowOps may write (Laws/Frame.lean). -/

namespace Sys2Proof.Machine

set_option Elab.async false
set_option linter.all false

/-- What `State.accessErr` may write: register fields by number, memory at 1000. -/
def W.accessErr : Nat := 0xf001c00000

theorem Frame.accessErr {M : Nat} {s0 s : State} {kind : Nat} {off : Nat} {port : Nat} (hk0 : Frame M s0 s)
    (hL : W.accessErr &&& M = W.accessErr) : Frame M s0 (State.accessErr s kind off port) := by
  unfold State.accessErr
  try dsimp only
  repeat' first
    | (with_reducible assumption)
    | (split)
    | (with_reducible refine Frame.foldl ?_ ?_)
    | (exact Nat.zero_and _)
    | (exact Frame.sub hL (by decide))
    | (exact Frame.bitOf hL (by decide))
    | (intro u hu x hx)
    | (intro u hu)
    | (refine Frame.bitMem (by with_reducible assumption) ?_)
    | (refine Frame.sub_all hL (by first | decide | (simp only [List.map_cons, List.map_nil]; decide)))
    | (refine Frame.bitMemFst (by with_reducible assumption) ?_)
    | (with_reducible refine Frame.wr ?_ ?_)
    | (with_reducible apply Frame.emit)
    | decide

/-- What `State.winWrite` may write: register fields by number, memory at 1000. -/
def W.winWrite : Nat := 0xf001c00000

theorem Frame.winWrite {M : Nat} {s0 s : State} {port : Nat} {off : Nat} {on : Bool} {act : State → State} (hk0 : Frame M s0 s) (hact : ∀ u, Frame M s0 u → Frame M s0 (act u))
    (hL : W.winWrite &&& M = W.winWrite) : Frame M s0 (State.winWrite s port off on act) := by
  unfold State.winWrite
  try dsimp only
  repeat' first
    | (with_reducible assumption)
    | (split)
    | (with_reducible refine Frame.foldl ?_ ?_)
    | (exact Nat.zero_and _)
    | (exact Frame.sub hL (by decide))
    | (exact Frame.bitOf hL (by decide))
    | (intro u hu x hx)
    | (intro u hu)
    | (refine Frame.bitMem (by with_reducible assumption) ?_)
    | (refine Frame.sub_all hL (by first | decide | (simp only [List.map_cons, List.map_nil]; decide)))
    | (refine Frame.bitMemFst (by with_reducible assumption) ?_)
    | (refine hact _ ?_)
    | (refine hact _ _ ?_)
    | (refine hact _ _ _ ?_)
    | (with_reducible apply Frame.emit)
    | (with_reducible apply Frame.accessErr)
    | decide

/-- What `State.writeFields` may write: register fields by number, memory at 1000. -/
def W.writeFields : Nat := 0x0

theorem Frame.writeFields {M : Nat} {s0 s : State} {fs : List Fld} {i v : Nat} (hk0 : Frame M s0 s)
    (hfs : ∀ f ∈ fs, M.testBit f.num = true) (_hL : W.writeFields &&& M = W.writeFields) :
    Frame M s0 (State.writeFields s fs i v) := by
  unfold State.writeFields
  exact Frame.foldl hk0 (fun u hu x hx => Frame.wr hu (hfs x hx))

end Sys2Proof.Machine
end

