-- ==== Sys2Proof/Laws/FrameCountOps.lean ====
section
/-! SUPPORT. Which registers, and whether the memories, the operations of CountOps may write (Laws/Frame.lean). -/

namespace Sys2Proof.Machine

set_option Elab.async false
set_option linter.all false

/-- What `State.addCnt` may write: register fields by number, memory at 1000. -/
def W.addCnt : Nat := 0x0

theorem Frame.addCnt {M : Nat} {s0 s : State} {page : Nat} {off : Nat} {n : Nat} (hk0 : Frame M s0 s)
    (_hL : W.addCnt &&& M = W.addCnt) : Frame M s0 (State.addCnt s page off n) := by
  unfold State.addCnt
  try dsimp only
  repeat' first
    | (with_reducible assumption)
    | (split)
    | (with_reducible refine Frame.foldl ?_ ?_)
    | (exact Nat.zero_and _)
    | (intro u hu x hx)
    | (intro u hu)
    | (refine Frame.bitMem (by with_reducible assumption) ?_)
    | (refine Frame.bitMemFst (by with_reducible assumption) ?_)
    | (with_reducible refine Frame.mk_other ?_)
    | decide

/-- What `State.addFrames` may write: register fields by number, memory at 1000. -/
def W.addFrames : Nat := 0x0

theorem Frame.addFrames {M : Nat} {s0 s : State} {page : Nat} {off : Nat} {bytes : Nat} (hk0 : Frame M s0 s)
    (_hL : W.addFrames &&& M = W.addFrames) : Frame M s0 (State.addFrames s page off bytes) := by
  unfold State.addFrames
  try dsimp only
  repeat' first
    | (with_reducible assumption)
    | (split)
    | (with_reducible refine Frame.foldl ?_ ?_)
    | (exact Nat.zero_and _)
    | (intro u hu x hx)
    | (intro u hu)
    | (refine Frame.bitMem (by with_reducible assumption) ?_)
    | (refine Frame.bitMemFst (by with_reducible assumption) ?_)
    | (with_reducible apply Frame.addCnt)
    | decide

/-- What `State.addPc` may write: register fields by number, memory at 1000. -/
def W.addPc : Nat := 0xc0000000000020000000000000000000000000000000000000000000000000072000000000000000000000000000000000000000000000000000000000000000000

theorem Frame.addPc {M : Nat} {s0 s : State} {sel : List Fld} {cnt_ : Fld} {ovf : Fld} {i : Nat} {k : Nat} {n : Nat} (hk0 : Frame M s0 s) (hcnt_ : M.testBit cnt_.num = true) (hovf : M.testBit ovf.num = true)
    (hL : W.addPc &&& M = W.addPc) : Frame M s0 (State.addPc s sel cnt_ ovf i k n) := by
  unfold State.addPc
  try dsimp only
  repeat' first
    | (with_reducible assumption)
    | (split)
    | (with_reducible refine Frame.foldl ?_ ?_)
    | (exact Nat.zero_and _)
    | (exact Frame.sub hL (by decide))
    | (exact Frame.bitOf hL (by decide))
    | (intro u hu x hx)
    | (intro u hu)
    | (refine Frame.bitMem (by with_reducible assumption) ?_)
    | (refine Frame.sub_all hL (by first | decide | (simp only [List.map_cons, List.map_nil]; decide)))
    | (refine Frame.bitMemFst (by with_reducible assumption) ?_)
    | (with_reducible refine Frame.wr ?_ ?_)
    | (with_reducible apply Frame.pmcEvent)
    | decide

/-- What `State.blockEvent` may write: register fields by number, memory at 1000. -/
def W.blockEvent : Nat := 0xc0000000000020000000000000000000000000000000000000000000000000072000000000000000000000000000000000000000000000000000000000000000000

theorem Frame.blockEvent {M : Nat} {s0 s : State} {b : Nat} {code : Nat} {n : Nat} (hk0 : Frame M s0 s)
    (hL : W.blockEvent &&& M = W.blockEvent) : Frame M s0 (State.blockEvent s b code n) := by
  unfold State.blockEvent
  try dsimp only
  repeat' first
    | (with_reducible assumption)
    | (split)
    | (with_reducible refine Frame.foldl ?_ ?_)
    | (exact Nat.zero_and _)
    | (exact Frame.sub hL (by decide))
    | (exact Frame.bitOf hL (by decide))
    | (intro u hu x hx)
    | (intro u hu)
    | (refine Frame.bitMem (by with_reducible assumption) ?_)
    | (refine Frame.sub_all hL (by first | decide | (simp only [List.map_cons, List.map_nil]; decide)))
    | (refine Frame.bitMemFst (by with_reducible assumption) ?_)
    | (with_reducible apply Frame.addCnt)
    | (with_reducible apply Frame.addPc)
    | (with_reducible refine Frame.fst ?_ (by with_reducible assumption))
    | (with_reducible refine Frame.snd ?_ (by with_reducible assumption))
    | (with_reducible refine Frame.mk_other ?_)
    | decide

/-- What `State.engCount` may write: register fields by number, memory at 1000. -/
def W.engCount : Nat := 0xc4000000000020010000000000000000000000000000000000000000000000072000000000000000000000000000000000000000000000000000000000000000000

theorem Frame.engCount {M : Nat} {s0 s : State} {e : Nat} {code : Nat} {n : Nat} (hk0 : Frame M s0 s)
    (hL : W.engCount &&& M = W.engCount) : Frame M s0 (State.engCount s e code n) := by
  unfold State.engCount
  try dsimp only
  repeat' first
    | (with_reducible assumption)
    | (split)
    | (with_reducible refine Frame.foldl ?_ ?_)
    | (exact Nat.zero_and _)
    | (exact Frame.sub hL (by decide))
    | (exact Frame.bitOf hL (by decide))
    | (intro u hu x hx)
    | (intro u hu)
    | (refine Frame.bitMem (by with_reducible assumption) ?_)
    | (refine Frame.sub_all hL (by first | decide | (simp only [List.map_cons, List.map_nil]; decide)))
    | (refine Frame.bitMemFst (by with_reducible assumption) ?_)
    | (with_reducible apply Frame.addPc)
    | decide

/-- What `State.corrected` may write: register fields by number, memory at 1000. -/
def W.corrected : Nat := 0x0

theorem Frame.corrected {M : Nat} {s0 s : State} {i : Nat} (hk0 : Frame M s0 s)
    (_hL : W.corrected &&& M = W.corrected) : Frame M s0 (State.corrected s i) := by
  unfold State.corrected
  try dsimp only
  repeat' first
    | (with_reducible assumption)
    | (split)
    | (with_reducible refine Frame.foldl ?_ ?_)
    | (exact Nat.zero_and _)
    | (intro u hu x hx)
    | (intro u hu)
    | (refine Frame.bitMem (by with_reducible assumption) ?_)
    | (refine Frame.bitMemFst (by with_reducible assumption) ?_)
    | (with_reducible apply Frame.addCnt)
    | (with_reducible apply Frame.putMon)
    | (with_reducible refine Frame.mk_other ?_)
    | decide

/-- What `State.logUe` may write: register fields by number, memory at 1000. -/
def W.logUe : Nat := 0xc0000000000021800000000000000000000000000000000000000000000000072000000000000000000000000000000000000000000000000000000000000000000

theorem Frame.logUe {M : Nat} {s0 s : State} {mem : Nat} {inst : Nat} {outcome : Nat} {addr : Nat} (hk0 : Frame M s0 s)
    (hL : W.logUe &&& M = W.logUe) : Frame M s0 (State.logUe s mem inst outcome addr) := by
  unfold State.logUe
  try dsimp only
  repeat' first
    | (with_reducible assumption)
    | (split)
    | (with_reducible refine Frame.foldl ?_ ?_)
    | (exact Nat.zero_and _)
    | (exact Frame.sub hL (by decide))
    | (exact Frame.bitOf hL (by decide))
    | (intro u hu x hx)
    | (intro u hu)
    | (refine Frame.bitMem (by with_reducible assumption) ?_)
    | (refine Frame.sub_all hL (by first | decide | (simp only [List.map_cons, List.map_nil]; decide)))
    | (refine Frame.bitMemFst (by with_reducible assumption) ?_)
    | (with_reducible apply Frame.pmcEvent)
    | (with_reducible refine Frame.mk_other ?_)
    | decide

end Sys2Proof.Machine
end

