-- ==== Sys2Proof/Laws/FrameTimebase.lean ====
section
/-! SUPPORT. Which registers, and whether the memories, the operations of Timebase may write (Laws/Frame.lean). -/

namespace Sys2Proof.Machine

set_option Elab.async false
set_option linter.all false

/-- What `State.setBase` may write: register fields by number, memory at 1000. -/
def W.setBase : Nat := 0x0

theorem Frame.setBase {M : Nat} {s0 s : State} {x : Nat} {b : DomainBase} (hk0 : Frame M s0 s)
    (_hL : W.setBase &&& M = W.setBase) : Frame M s0 (State.setBase s x b) := by
  unfold State.setBase
  try dsimp only
  repeat' first
    | (with_reducible assumption)
    | (split)
    | (with_reducible refine Frame.foldl ?_ ?_)
    | (exact Nat.zero_and _)
    | (intro u hu x hx)
    | (intro u hu)
    | (refine Frame.bitMem (by with_reducible assumption) ?_)
    | (refine Frame.bitMemFst (by with_reducible assumption) ?_)
    | (with_reducible apply Frame.emit)
    | (with_reducible refine Frame.mk_other ?_)
    | decide

/-- What `State.setDomTime` may write: register fields by number, memory at 1000. -/
def W.setDomTime : Nat := 0x0

theorem Frame.setDomTime {M : Nat} {s0 s : State} {x : Nat} {d : Nat} (hk0 : Frame M s0 s)
    (_hL : W.setDomTime &&& M = W.setDomTime) : Frame M s0 (State.setDomTime s x d) := by
  unfold State.setDomTime
  try dsimp only
  repeat' first
    | (with_reducible assumption)
    | (split)
    | (with_reducible refine Frame.foldl ?_ ?_)
    | (exact Nat.zero_and _)
    | (intro u hu x hx)
    | (intro u hu)
    | (refine Frame.bitMem (by with_reducible assumption) ?_)
    | (refine Frame.bitMemFst (by with_reducible assumption) ?_)
    | (with_reducible apply Frame.emit)
    | (with_reducible apply Frame.setBase)
    | decide

/-- What `State.checkFar` may write: register fields by number, memory at 1000. -/
def W.checkFar : Nat := 0xc0000000000020000000000000000000000000000000000000000000000000072000000000000000000000000000000000000000000000100000000000000000000

theorem Frame.checkFar {M : Nat} {s0 s : State} (hk0 : Frame M s0 s)
    (hL : W.checkFar &&& M = W.checkFar) : Frame M s0 (State.checkFar s) := by
  unfold State.checkFar
  try dsimp only
  repeat' first
    | (with_reducible assumption)
    | (split)
    | (with_reducible refine Frame.foldl ?_ ?_)
    | (exact Nat.zero_and _)
    | (exact Frame.sub hL (by decide))
    | (exact Frame.bitOf hL (by decide))
    | (intro u hu x hx)
    | (intro u hu)
    | (refine Frame.bitMem (by with_reducible assumption) ?_)
    | (refine Frame.sub_all hL (by first | decide | (simp only [List.map_cons, List.map_nil]; decide)))
    | (refine Frame.bitMemFst (by with_reducible assumption) ?_)
    | (with_reducible apply Frame.emit)
    | (with_reducible apply Frame.tbEvent)
    | decide

/-- What `State.missSlots` may write: register fields by number, memory at 1000. -/
def W.missSlots : Nat := 0x10000000000000000000000

theorem Frame.missSlots {M : Nat} {s0 s : State} (hk0 : Frame M s0 s)
    (hL : W.missSlots &&& M = W.missSlots) : Frame M s0 (State.missSlots s) := by
  unfold State.missSlots
  try dsimp only
  repeat' first
    | (with_reducible assumption)
    | (split)
    | (with_reducible refine Frame.foldl ?_ ?_)
    | (exact Nat.zero_and _)
    | (exact Frame.sub hL (by decide))
    | (exact Frame.bitOf hL (by decide))
    | (intro u hu x hx)
    | (intro u hu)
    | (refine Frame.bitMem (by with_reducible assumption) ?_)
    | (refine Frame.sub_all hL (by first | decide | (simp only [List.map_cons, List.map_nil]; decide)))
    | (refine Frame.bitMemFst (by with_reducible assumption) ?_)
    | (with_reducible refine Frame.wr ?_ ?_)
    | (with_reducible apply Frame.emit)
    | decide

/-- What `State.strobe` may write: register fields by number, memory at 1000. -/
def W.strobe : Nat := 0x0

theorem Frame.strobe {M : Nat} {s0 s : State} {was : Int} (hk0 : Frame M s0 s)
    (_hL : W.strobe &&& M = W.strobe) : Frame M s0 (State.strobe s was) := by
  unfold State.strobe
  try dsimp only
  repeat' first
    | (with_reducible assumption)
    | (split)
    | (with_reducible refine Frame.foldl ?_ ?_)
    | (exact Nat.zero_and _)
    | (intro u hu x hx)
    | (intro u hu)
    | (refine Frame.bitMem (by with_reducible assumption) ?_)
    | (refine Frame.bitMemFst (by with_reducible assumption) ?_)
    | (with_reducible apply Frame.emit)
    | decide

/-- What `State.tideMoved` may write: register fields by number, memory at 1000. -/
def W.tideMoved : Nat := 0x10000000000000000000000

theorem Frame.tideMoved {M : Nat} {s0 s : State} {was : Int} (hk0 : Frame M s0 s)
    (hL : W.tideMoved &&& M = W.tideMoved) : Frame M s0 (State.tideMoved s was) := by
  unfold State.tideMoved
  try dsimp only
  repeat' first
    | (with_reducible assumption)
    | (split)
    | (with_reducible refine Frame.foldl ?_ ?_)
    | (exact Nat.zero_and _)
    | (exact Frame.sub hL (by decide))
    | (exact Frame.bitOf hL (by decide))
    | (intro u hu x hx)
    | (intro u hu)
    | (refine Frame.bitMem (by with_reducible assumption) ?_)
    | (refine Frame.sub_all hL (by first | decide | (simp only [List.map_cons, List.map_nil]; decide)))
    | (refine Frame.bitMemFst (by with_reducible assumption) ?_)
    | (with_reducible apply Frame.emit)
    | (with_reducible apply Frame.missSlots)
    | (with_reducible refine Frame.mk_other ?_)
    | decide

/-- What `State.jumpFrom` may write: register fields by number, memory at 1000. -/
def W.jumpFrom : Nat := 0xc0000000000020000000000000000000000000000000000000000000000000072000000000000000000000000000000000000000000010a00000000000000000000

theorem Frame.jumpFrom {M : Nat} {s0 s : State} {was : Int} (hk0 : Frame M s0 s)
    (hL : W.jumpFrom &&& M = W.jumpFrom) : Frame M s0 (State.jumpFrom s was) := by
  unfold State.jumpFrom
  try dsimp only
  repeat' first
    | (with_reducible assumption)
    | (split)
    | (with_reducible refine Frame.foldl ?_ ?_)
    | (exact Nat.zero_and _)
    | (exact Frame.sub hL (by decide))
    | (exact Frame.bitOf hL (by decide))
    | (intro u hu x hx)
    | (intro u hu)
    | (refine Frame.bitMem (by with_reducible assumption) ?_)
    | (refine Frame.sub_all hL (by first | decide | (simp only [List.map_cons, List.map_nil]; decide)))
    | (refine Frame.bitMemFst (by with_reducible assumption) ?_)
    | (with_reducible refine Frame.wr ?_ ?_)
    | (with_reducible apply Frame.emit)
    | (with_reducible apply Frame.putTb)
    | (with_reducible apply Frame.tideMoved)
    | (with_reducible apply Frame.tbEvent)
    | (with_reducible refine Frame.fst ?_ (by with_reducible assumption))
    | (with_reducible refine Frame.snd ?_ (by with_reducible assumption))
    | (with_reducible refine Frame.mk_other ?_)
    | decide

/-- What `State.tideCycle` may write: register fields by number, memory at 1000. -/
def W.tideCycle : Nat := 0xc0000000000020000000000000000000000000000000000000000000000000072000000000000000000000000000000000000000000010a00000000000000000000

theorem Frame.tideCycle {M : Nat} {s0 s : State} (hk0 : Frame M s0 s)
    (hL : W.tideCycle &&& M = W.tideCycle) : Frame M s0 (State.tideCycle s) := by
  unfold State.tideCycle
  try dsimp only
  repeat' first
    | (with_reducible assumption)
    | (split)
    | (with_reducible refine Frame.foldl ?_ ?_)
    | (exact Nat.zero_and _)
    | (exact Frame.sub hL (by decide))
    | (exact Frame.bitOf hL (by decide))
    | (intro u hu x hx)
    | (intro u hu)
    | (refine Frame.bitMem (by with_reducible assumption) ?_)
    | (refine Frame.sub_all hL (by first | decide | (simp only [List.map_cons, List.map_nil]; decide)))
    | (refine Frame.bitMemFst (by with_reducible assumption) ?_)
    | (with_reducible refine Frame.wr ?_ ?_)
    | (with_reducible apply Frame.emit)
    | (with_reducible apply Frame.jumpFrom)
    | (with_reducible apply Frame.putTb)
    | (with_reducible apply Frame.wrB)
    | (with_reducible refine Frame.fst ?_ (by with_reducible assumption))
    | (with_reducible refine Frame.snd ?_ (by with_reducible assumption))
    | (with_reducible refine Frame.mk_other ?_)
    | decide

/-- What `State.ledgerCycle` may write: register fields by number, memory at 1000. -/
def W.ledgerCycle : Nat := 0x100000000000000

theorem Frame.ledgerCycle {M : Nat} {s0 s : State} (hk0 : Frame M s0 s)
    (hL : W.ledgerCycle &&& M = W.ledgerCycle) : Frame M s0 (State.ledgerCycle s) := by
  unfold State.ledgerCycle
  try dsimp only
  repeat' first
    | (with_reducible assumption)
    | (split)
    | (with_reducible refine Frame.foldl ?_ ?_)
    | (exact Nat.zero_and _)
    | (exact Frame.sub hL (by decide))
    | (exact Frame.bitOf hL (by decide))
    | (intro u hu x hx)
    | (intro u hu)
    | (refine Frame.bitMem (by with_reducible assumption) ?_)
    | (refine Frame.sub_all hL (by first | decide | (simp only [List.map_cons, List.map_nil]; decide)))
    | (refine Frame.bitMemFst (by with_reducible assumption) ?_)
    | (with_reducible apply Frame.emit)
    | (with_reducible apply Frame.putTb)
    | (with_reducible apply Frame.incWrap)
    | (with_reducible refine Frame.mk_other ?_)
    | decide

/-- What `State.coreCycle` may write: register fields by number, memory at 1000. -/
def W.coreCycle : Nat := 0x100000000000000

theorem Frame.coreCycle {M : Nat} {s0 s : State} (hk0 : Frame M s0 s)
    (hL : W.coreCycle &&& M = W.coreCycle) : Frame M s0 (State.coreCycle s) := by
  unfold State.coreCycle
  try dsimp only
  repeat' first
    | (with_reducible assumption)
    | (split)
    | (with_reducible refine Frame.foldl ?_ ?_)
    | (exact Nat.zero_and _)
    | (exact Frame.sub hL (by decide))
    | (exact Frame.bitOf hL (by decide))
    | (intro u hu x hx)
    | (intro u hu)
    | (refine Frame.bitMem (by with_reducible assumption) ?_)
    | (refine Frame.sub_all hL (by first | decide | (simp only [List.map_cons, List.map_nil]; decide)))
    | (refine Frame.bitMemFst (by with_reducible assumption) ?_)
    | (with_reducible apply Frame.emit)
    | (with_reducible apply Frame.ledgerCycle)
    | (with_reducible apply Frame.putMon)
    | (with_reducible refine Frame.mk_other ?_)
    | decide

/-- What `State.advanceCtc` may write: register fields by number, memory at 1000. -/
def W.advanceCtc : Nat := 0x0

theorem Frame.advanceCtc {M : Nat} {s0 s : State} (hk0 : Frame M s0 s)
    (_hL : W.advanceCtc &&& M = W.advanceCtc) : Frame M s0 (State.advanceCtc s) := by
  unfold State.advanceCtc
  try dsimp only
  repeat' first
    | (with_reducible assumption)
    | (split)
    | (with_reducible refine Frame.foldl ?_ ?_)
    | (exact Nat.zero_and _)
    | (intro u hu x hx)
    | (intro u hu)
    | (refine Frame.bitMem (by with_reducible assumption) ?_)
    | (refine Frame.bitMemFst (by with_reducible assumption) ?_)
    | (with_reducible apply Frame.emit)
    | (with_reducible apply Frame.putTb)
    | (with_reducible refine Frame.mk_other ?_)
    | decide

/-- What `State.calTick` may write: register fields by number, memory at 1000. -/
def W.calTick : Nat := 0x0

theorem Frame.calTick {M : Nat} {s0 s : State} (hk0 : Frame M s0 s)
    (_hL : W.calTick &&& M = W.calTick) : Frame M s0 (State.calTick s) := by
  unfold State.calTick
  try dsimp only
  repeat' first
    | (with_reducible assumption)
    | (split)
    | (with_reducible refine Frame.foldl ?_ ?_)
    | (exact Nat.zero_and _)
    | (intro u hu x hx)
    | (intro u hu)
    | (refine Frame.bitMem (by with_reducible assumption) ?_)
    | (refine Frame.bitMemFst (by with_reducible assumption) ?_)
    | (with_reducible apply Frame.emit)
    | (with_reducible apply Frame.putTb)
    | (with_reducible refine Frame.fst ?_ (by with_reducible assumption))
    | (with_reducible refine Frame.snd ?_ (by with_reducible assumption))
    | (with_reducible refine Frame.mk_other ?_)
    | decide

/-- What `State.tideTick` may write: register fields by number, memory at 1000. -/
def W.tideTick : Nat := 0xc0000000000020000000000000000000000000000000000000000000000000072000000000000000000000000000000000000000000010b00000000000000000000

theorem Frame.tideTick {M : Nat} {s0 s : State} (hk0 : Frame M s0 s)
    (hL : W.tideTick &&& M = W.tideTick) : Frame M s0 (State.tideTick s) := by
  unfold State.tideTick
  try dsimp only
  repeat' first
    | (with_reducible assumption)
    | (split)
    | (with_reducible refine Frame.foldl ?_ ?_)
    | (exact Nat.zero_and _)
    | (exact Frame.sub hL (by decide))
    | (exact Frame.bitOf hL (by decide))
    | (intro u hu x hx)
    | (intro u hu)
    | (refine Frame.bitMem (by with_reducible assumption) ?_)
    | (refine Frame.sub_all hL (by first | decide | (simp only [List.map_cons, List.map_nil]; decide)))
    | (refine Frame.bitMemFst (by with_reducible assumption) ?_)
    | (with_reducible apply Frame.emit)
    | (with_reducible apply Frame.advanceCtc)
    | (with_reducible apply Frame.tideCycle)
    | (with_reducible apply Frame.strobe)
    | (with_reducible apply Frame.calTick)
    | (with_reducible apply Frame.blockEvent)
    | (with_reducible apply Frame.checkFar)
    | decide

/-- What `State.backlogCycles` may write: register fields by number, memory at 1000. -/
def W.backlogCycles : Nat := 0xc0000000000020000000000000000000000000000000000000000000000000072000000000000000000000000000000000000000000000000000000000000000000

theorem Frame.backlogCycles {M : Nat} {s0 s : State} (hk0 : Frame M s0 s)
    (hL : W.backlogCycles &&& M = W.backlogCycles) : Frame M s0 (State.backlogCycles s) := by
  unfold State.backlogCycles
  try dsimp only
  repeat' first
    | (with_reducible assumption)
    | (split)
    | (with_reducible refine Frame.foldl ?_ ?_)
    | (exact Nat.zero_and _)
    | (exact Frame.sub hL (by decide))
    | (exact Frame.bitOf hL (by decide))
    | (intro u hu x hx)
    | (intro u hu)
    | (refine Frame.bitMem (by with_reducible assumption) ?_)
    | (refine Frame.sub_all hL (by first | decide | (simp only [List.map_cons, List.map_nil]; decide)))
    | (refine Frame.bitMemFst (by with_reducible assumption) ?_)
    | (with_reducible apply Frame.emit)
    | (with_reducible apply Frame.blockEvent)
    | decide

/-- What `State.tick` may write: register fields by number, memory at 1000. -/
def W.tick : Nat := 0xc0000000000020000000000000000000000000000000000000000000000000072000000000000000000000000000000000000000000010b00000100000000000000

theorem Frame.tick {M : Nat} {s0 s : State} (hk0 : Frame M s0 s)
    (hL : W.tick &&& M = W.tick) : Frame M s0 (State.tick s) := by
  unfold State.tick
  try dsimp only
  repeat' first
    | (with_reducible assumption)
    | (split)
    | (with_reducible refine Frame.foldl ?_ ?_)
    | (exact Nat.zero_and _)
    | (exact Frame.sub hL (by decide))
    | (exact Frame.bitOf hL (by decide))
    | (intro u hu x hx)
    | (intro u hu)
    | (refine Frame.bitMem (by with_reducible assumption) ?_)
    | (refine Frame.sub_all hL (by first | decide | (simp only [List.map_cons, List.map_nil]; decide)))
    | (refine Frame.bitMemFst (by with_reducible assumption) ?_)
    | (with_reducible apply Frame.emit)
    | (with_reducible apply Frame.backlogCycles)
    | (with_reducible apply Frame.coreCycle)
    | (with_reducible apply Frame.tideTick)
    | decide

/-- What `State.convertScheds` may write: register fields by number, memory at 1000. -/
def W.convertScheds : Nat := 0x0

theorem Frame.convertScheds {M : Nat} {s0 s : State} (hk0 : Frame M s0 s)
    (_hL : W.convertScheds &&& M = W.convertScheds) : Frame M s0 (State.convertScheds s) := by
  unfold State.convertScheds
  try dsimp only
  repeat' first
    | (with_reducible assumption)
    | (split)
    | (with_reducible refine Frame.foldl ?_ ?_)
    | (exact Nat.zero_and _)
    | (intro u hu x hx)
    | (intro u hu)
    | (refine Frame.bitMem (by with_reducible assumption) ?_)
    | (refine Frame.bitMemFst (by with_reducible assumption) ?_)
    | (with_reducible apply Frame.emit)
    | (with_reducible apply Frame.putDoms)
    | (with_reducible refine Frame.fst ?_ (by with_reducible assumption))
    | (with_reducible refine Frame.snd ?_ (by with_reducible assumption))
    | (with_reducible refine Frame.mk_other ?_)
    | decide

/-- What `State.calibrate` may write: register fields by number, memory at 1000. -/
def W.calibrate : Nat := 0x200000000000000

theorem Frame.calibrate {M : Nat} {s0 s : State} (hk0 : Frame M s0 s)
    (hL : W.calibrate &&& M = W.calibrate) : Frame M s0 (State.calibrate s) := by
  unfold State.calibrate
  try dsimp only
  repeat' first
    | (with_reducible assumption)
    | (split)
    | (with_reducible refine Frame.foldl ?_ ?_)
    | (exact Nat.zero_and _)
    | (exact Frame.sub hL (by decide))
    | (exact Frame.bitOf hL (by decide))
    | (intro u hu x hx)
    | (intro u hu)
    | (refine Frame.bitMem (by with_reducible assumption) ?_)
    | (refine Frame.sub_all hL (by first | decide | (simp only [List.map_cons, List.map_nil]; decide)))
    | (refine Frame.bitMemFst (by with_reducible assumption) ?_)
    | (with_reducible refine Frame.wr ?_ ?_)
    | (with_reducible apply Frame.emit)
    | (with_reducible apply Frame.putTb)
    | (with_reducible refine Frame.fst ?_ (by with_reducible assumption))
    | (with_reducible refine Frame.snd ?_ (by with_reducible assumption))
    | (with_reducible refine Frame.mk_other ?_)
    | decide

/-- What `State.tbLeave` may write: register fields by number, memory at 1000. -/
def W.tbLeave : Nat := 0x200000000000000

theorem Frame.tbLeave {M : Nat} {s0 s : State} (hk0 : Frame M s0 s)
    (hL : W.tbLeave &&& M = W.tbLeave) : Frame M s0 (State.tbLeave s) := by
  unfold State.tbLeave
  try dsimp only
  repeat' first
    | (with_reducible assumption)
    | (split)
    | (with_reducible refine Frame.foldl ?_ ?_)
    | (exact Nat.zero_and _)
    | (exact Frame.sub hL (by decide))
    | (exact Frame.bitOf hL (by decide))
    | (intro u hu x hx)
    | (intro u hu)
    | (refine Frame.bitMem (by with_reducible assumption) ?_)
    | (refine Frame.sub_all hL (by first | decide | (simp only [List.map_cons, List.map_nil]; decide)))
    | (refine Frame.bitMemFst (by with_reducible assumption) ?_)
    | (with_reducible apply Frame.emit)
    | (with_reducible apply Frame.calibrate)
    | (with_reducible apply Frame.convertScheds)
    | (with_reducible apply Frame.putTb)
    | (with_reducible refine Frame.mk_other ?_)
    | decide

/-- What `State.tbResume` may write: register fields by number, memory at 1000. -/
def W.tbResume : Nat := 0x10000000446000000000000

theorem Frame.tbResume {M : Nat} {s0 s : State} (hk0 : Frame M s0 s)
    (hL : W.tbResume &&& M = W.tbResume) : Frame M s0 (State.tbResume s) := by
  unfold State.tbResume
  try dsimp only
  repeat' first
    | (with_reducible assumption)
    | (split)
    | (with_reducible refine Frame.foldl ?_ ?_)
    | (exact Nat.zero_and _)
    | (exact Frame.sub hL (by decide))
    | (exact Frame.bitOf hL (by decide))
    | (intro u hu x hx)
    | (intro u hu)
    | (refine Frame.bitMem (by with_reducible assumption) ?_)
    | (refine Frame.sub_all hL (by first | decide | (simp only [List.map_cons, List.map_nil]; decide)))
    | (refine Frame.bitMemFst (by with_reducible assumption) ?_)
    | (with_reducible refine Frame.wr ?_ ?_)
    | (with_reducible apply Frame.emit)
    | (with_reducible apply Frame.putTb)
    | (with_reducible apply Frame.incWrap)
    | (with_reducible apply Frame.tideMoved)
    | (with_reducible refine Frame.fst ?_ (by with_reducible assumption))
    | (with_reducible refine Frame.snd ?_ (by with_reducible assumption))
    | (with_reducible refine Frame.mk_other ?_)
    | decide

/-- What `State.ppsBack` may write: register fields by number, memory at 1000. -/
def W.ppsBack : Nat := 0x0

theorem Frame.ppsBack {M : Nat} {s0 s : State} (hk0 : Frame M s0 s)
    (_hL : W.ppsBack &&& M = W.ppsBack) : Frame M s0 (State.ppsBack s) := by
  unfold State.ppsBack
  try dsimp only
  repeat' first
    | (with_reducible assumption)
    | (split)
    | (with_reducible refine Frame.foldl ?_ ?_)
    | (exact Nat.zero_and _)
    | (intro u hu x hx)
    | (intro u hu)
    | (refine Frame.bitMem (by with_reducible assumption) ?_)
    | (refine Frame.bitMemFst (by with_reducible assumption) ?_)
    | (with_reducible apply Frame.emit)
    | (with_reducible apply Frame.putTb)
    | (with_reducible refine Frame.mk_other ?_)
    | decide

/-- What `State.tbSet` may write: register fields by number, memory at 1000. -/
def W.tbSet : Nat := 0xc0000000000020000000000000000000000000000000000000000000000000072000000000000000000000000000000000000000000000100000001800000000000

theorem Frame.tbSet {M : Nat} {s0 s : State} {x : Nat} {v : Nat} (hk0 : Frame M s0 s)
    (hL : W.tbSet &&& M = W.tbSet) : Frame M s0 (State.tbSet s x v) := by
  unfold State.tbSet
  try dsimp only
  repeat' first
    | (with_reducible assumption)
    | (split)
    | (with_reducible refine Frame.foldl ?_ ?_)
    | (exact Nat.zero_and _)
    | (exact Frame.sub hL (by decide))
    | (exact Frame.bitOf hL (by decide))
    | (intro u hu x hx)
    | (intro u hu)
    | (refine Frame.bitMem (by with_reducible assumption) ?_)
    | (refine Frame.sub_all hL (by first | decide | (simp only [List.map_cons, List.map_nil]; decide)))
    | (refine Frame.bitMemFst (by with_reducible assumption) ?_)
    | (with_reducible refine Frame.wr ?_ ?_)
    | (with_reducible apply Frame.emit)
    | (with_reducible apply Frame.setDomTime)
    | (with_reducible apply Frame.ppsBack)
    | (with_reducible apply Frame.checkFar)
    | decide

/-- What `State.tbAdj` may write: register fields by number, memory at 1000. -/
def W.tbAdj : Nat := 0xc0000000000020000000000000000000000000000000000000000000000000072000000000000000000000000000000000000000000000100000000000000000000

theorem Frame.tbAdj {M : Nat} {s0 s : State} {x : Nat} {v : Nat} (hk0 : Frame M s0 s)
    (hL : W.tbAdj &&& M = W.tbAdj) : Frame M s0 (State.tbAdj s x v) := by
  unfold State.tbAdj
  try dsimp only
  repeat' first
    | (with_reducible assumption)
    | (split)
    | (with_reducible refine Frame.foldl ?_ ?_)
    | (exact Nat.zero_and _)
    | (exact Frame.sub hL (by decide))
    | (exact Frame.bitOf hL (by decide))
    | (intro u hu x hx)
    | (intro u hu)
    | (refine Frame.bitMem (by with_reducible assumption) ?_)
    | (refine Frame.sub_all hL (by first | decide | (simp only [List.map_cons, List.map_nil]; decide)))
    | (refine Frame.bitMemFst (by with_reducible assumption) ?_)
    | (with_reducible apply Frame.emit)
    | (with_reducible apply Frame.setDomTime)
    | (with_reducible apply Frame.ppsBack)
    | (with_reducible apply Frame.checkFar)
    | decide

/-- What `State.tbRate` may write: register fields by number, memory at 1000. -/
def W.tbRate : Nat := 0x100000000000000000

theorem Frame.tbRate {M : Nat} {s0 s : State} {x : Nat} {v : Nat} (hk0 : Frame M s0 s)
    (hL : W.tbRate &&& M = W.tbRate) : Frame M s0 (State.tbRate s x v) := by
  unfold State.tbRate
  try dsimp only
  repeat' first
    | (with_reducible assumption)
    | (split)
    | (with_reducible refine Frame.foldl ?_ ?_)
    | (exact Nat.zero_and _)
    | (exact Frame.sub hL (by decide))
    | (exact Frame.bitOf hL (by decide))
    | (intro u hu x hx)
    | (intro u hu)
    | (refine Frame.bitMem (by with_reducible assumption) ?_)
    | (refine Frame.sub_all hL (by first | decide | (simp only [List.map_cons, List.map_nil]; decide)))
    | (refine Frame.bitMemFst (by with_reducible assumption) ?_)
    | (with_reducible refine Frame.wr ?_ ?_)
    | (with_reducible apply Frame.emit)
    | (with_reducible apply Frame.setDomTime)
    | decide

/-- What `State.tideOrigin` may write: register fields by number, memory at 1000. -/
def W.tideOrigin : Nat := 0x401000000000000000000

theorem Frame.tideOrigin {M : Nat} {s0 s : State} {v : Nat} (hk0 : Frame M s0 s)
    (hL : W.tideOrigin &&& M = W.tideOrigin) : Frame M s0 (State.tideOrigin s v) := by
  unfold State.tideOrigin
  try dsimp only
  repeat' first
    | (with_reducible assumption)
    | (split)
    | (with_reducible refine Frame.foldl ?_ ?_)
    | (exact Nat.zero_and _)
    | (exact Frame.sub hL (by decide))
    | (exact Frame.bitOf hL (by decide))
    | (intro u hu x hx)
    | (intro u hu)
    | (refine Frame.bitMem (by with_reducible assumption) ?_)
    | (refine Frame.sub_all hL (by first | decide | (simp only [List.map_cons, List.map_nil]; decide)))
    | (refine Frame.bitMemFst (by with_reducible assumption) ?_)
    | (with_reducible refine Frame.wr ?_ ?_)
    | (with_reducible apply Frame.emit)
    | decide

/-- What `State.todCtl` may write: register fields by number, memory at 1000. -/
def W.todCtl : Nat := 0x14000000000000000000000

theorem Frame.todCtl {M : Nat} {s0 s : State} {n : Nat} {v : Nat} (hk0 : Frame M s0 s)
    (hL : W.todCtl &&& M = W.todCtl) : Frame M s0 (State.todCtl s n v) := by
  unfold State.todCtl
  try dsimp only
  repeat' first
    | (with_reducible assumption)
    | (split)
    | (with_reducible refine Frame.foldl ?_ ?_)
    | (exact Nat.zero_and _)
    | (exact Frame.sub hL (by decide))
    | (exact Frame.bitOf hL (by decide))
    | (intro u hu x hx)
    | (intro u hu)
    | (refine Frame.bitMem (by with_reducible assumption) ?_)
    | (refine Frame.sub_all hL (by first | decide | (simp only [List.map_cons, List.map_nil]; decide)))
    | (refine Frame.bitMemFst (by with_reducible assumption) ?_)
    | (with_reducible refine Frame.wr ?_ ?_)
    | (with_reducible apply Frame.emit)
    | decide

/-- What `State.todCapture` may write: register fields by number, memory at 1000. -/
def W.todCapture : Nat := 0xc00000000000200000000000000000000000000000000000000000000000000720000000000000000000000000000000000000000001f0000000000000000000000

theorem Frame.todCapture {M : Nat} {s0 s : State} {t : Nat} {F_ : Int} {active : Bool} (hk0 : Frame M s0 s)
    (hL : W.todCapture &&& M = W.todCapture) : Frame M s0 (State.todCapture s t F_ active) := by
  unfold State.todCapture
  try dsimp only
  repeat' first
    | (with_reducible assumption)
    | (split)
    | (with_reducible refine Frame.foldl ?_ ?_)
    | (exact Nat.zero_and _)
    | (exact Frame.sub hL (by decide))
    | (exact Frame.bitOf hL (by decide))
    | (intro u hu x hx)
    | (intro u hu)
    | (refine Frame.bitMem (by with_reducible assumption) ?_)
    | (refine Frame.sub_all hL (by first | decide | (simp only [List.map_cons, List.map_nil]; decide)))
    | (refine Frame.bitMemFst (by with_reducible assumption) ?_)
    | (with_reducible refine Frame.wr ?_ ?_)
    | (with_reducible apply Frame.emit)
    | (with_reducible apply Frame.blockEvent)
    | decide

end Sys2Proof.Machine
end

