-- ==== Sys2Proof/Laws/FrameRingOps.lean ====
section
/-! SUPPORT. Which registers, and whether the memories, the operations of RingOps may write (Laws/Frame.lean). -/

namespace Sys2Proof.Machine

set_option Elab.async false
set_option linter.all false

/-- What `State.setRing` may write: register fields by number, memory at 1000. -/
def W.setRing : Nat := 0x0

theorem Frame.setRing {M : Nat} {s0 s : State} {r : Nat} {x : Ring} (hk0 : Frame M s0 s)
    (_hL : W.setRing &&& M = W.setRing) : Frame M s0 (State.setRing s r x) := by
  unfold State.setRing
  try dsimp only
  repeat' first
    | (with_reducible assumption)
    | (split)
    | (with_reducible refine Frame.foldl ?_ ?_)
    | (exact Nat.zero_and _)
    | (intro u hu x hx)
    | (intro u hu)
    | (refine Frame.bitMem (by with_reducible assumption) ?_)
    | (refine Frame.bitMemFst (by with_reducible assumption) ?_)
    | (with_reducible apply Frame.emit)
    | (with_reducible refine Frame.mk_other ?_)
    | decide

/-- What `State.setEvq` may write: register fields by number, memory at 1000. -/
def W.setEvq : Nat := 0x0

theorem Frame.setEvq {M : Nat} {s0 s : State} {q : Nat} {x : EvQueue} (hk0 : Frame M s0 s)
    (_hL : W.setEvq &&& M = W.setEvq) : Frame M s0 (State.setEvq s q x) := by
  unfold State.setEvq
  try dsimp only
  repeat' first
    | (with_reducible assumption)
    | (split)
    | (with_reducible refine Frame.foldl ?_ ?_)
    | (exact Nat.zero_and _)
    | (intro u hu x hx)
    | (intro u hu)
    | (refine Frame.bitMem (by with_reducible assumption) ?_)
    | (refine Frame.bitMemFst (by with_reducible assumption) ?_)
    | (with_reducible apply Frame.emit)
    | (with_reducible refine Frame.mk_other ?_)
    | decide

/-- What `State.advanceHead` may write: register fields by number, memory at 1000. -/
def W.advanceHead : Nat := 0x200000000000000000000000000000000000000000000000000000000000

theorem Frame.advanceHead {M : Nat} {s0 s : State} {r : Nat} (hk0 : Frame M s0 s)
    (hL : W.advanceHead &&& M = W.advanceHead) : Frame M s0 (State.advanceHead s r) := by
  unfold State.advanceHead
  try dsimp only
  repeat' first
    | (with_reducible assumption)
    | (split)
    | (with_reducible refine Frame.foldl ?_ ?_)
    | (exact Nat.zero_and _)
    | (exact Frame.sub hL (by decide))
    | (exact Frame.bitOf hL (by decide))
    | (intro u hu x hx)
    | (intro u hu)
    | (refine Frame.bitMem (by with_reducible assumption) ?_)
    | (refine Frame.sub_all hL (by first | decide | (simp only [List.map_cons, List.map_nil]; decide)))
    | (refine Frame.bitMemFst (by with_reducible assumption) ?_)
    | (with_reducible refine Frame.wr ?_ ?_)
    | (with_reducible apply Frame.emit)
    | decide

/-- What `State.foundEarly` may write: register fields by number, memory at 1000. -/
def W.foundEarly : Nat := 0x100000000000000000000000000000000000000000000000000000000000000

theorem Frame.foundEarly {M : Nat} {s0 s : State} {r : Nat} {i : Nat} (hk0 : Frame M s0 s)
    (hL : W.foundEarly &&& M = W.foundEarly) : Frame M s0 (State.foundEarly s r i) := by
  unfold State.foundEarly
  try dsimp only
  repeat' first
    | (with_reducible assumption)
    | (split)
    | (with_reducible refine Frame.foldl ?_ ?_)
    | (exact Nat.zero_and _)
    | (exact Frame.sub hL (by decide))
    | (exact Frame.bitOf hL (by decide))
    | (intro u hu x hx)
    | (intro u hu)
    | (refine Frame.bitMem (by with_reducible assumption) ?_)
    | (refine Frame.sub_all hL (by first | decide | (simp only [List.map_cons, List.map_nil]; decide)))
    | (refine Frame.bitMemFst (by with_reducible assumption) ?_)
    | (with_reducible apply Frame.emit)
    | (with_reducible apply Frame.setRing)
    | (with_reducible apply Frame.incWrap)
    | (with_reducible refine Frame.mk_other ?_)
    | decide

/-- What `State.setSummary` may write: register fields by number, memory at 1000. -/
def W.setSummary : Nat := 0x400000000000000000000000000000000000000000000000000000000000000000

theorem Frame.setSummary {M : Nat} {s0 s : State} {r : Nat} (hk0 : Frame M s0 s)
    (hL : W.setSummary &&& M = W.setSummary) : Frame M s0 (State.setSummary s r) := by
  unfold State.setSummary
  try dsimp only
  repeat' first
    | (with_reducible assumption)
    | (split)
    | (with_reducible refine Frame.foldl ?_ ?_)
    | (exact Nat.zero_and _)
    | (exact Frame.sub hL (by decide))
    | (exact Frame.bitOf hL (by decide))
    | (intro u hu x hx)
    | (intro u hu)
    | (refine Frame.bitMem (by with_reducible assumption) ?_)
    | (refine Frame.sub_all hL (by first | decide | (simp only [List.map_cons, List.map_nil]; decide)))
    | (refine Frame.bitMemFst (by with_reducible assumption) ?_)
    | (with_reducible refine Frame.wr ?_ ?_)
    | (with_reducible apply Frame.emit)
    | decide

/-- What `State.ringEvent` may write: register fields by number, memory at 1000. -/
def W.ringEvent : Nat := 0x400000000000000000000000000000000000000000000000000000000000000000

theorem Frame.ringEvent {M : Nat} {s0 s : State} {r : Nat} {e : EvEntry} (hk0 : Frame M s0 s)
    (hL : W.ringEvent &&& M = W.ringEvent) : Frame M s0 (State.ringEvent s r e) := by
  unfold State.ringEvent
  try dsimp only
  repeat' first
    | (with_reducible assumption)
    | (split)
    | (with_reducible refine Frame.foldl ?_ ?_)
    | (exact Nat.zero_and _)
    | (exact Frame.sub hL (by decide))
    | (exact Frame.bitOf hL (by decide))
    | (intro u hu x hx)
    | (intro u hu)
    | (refine Frame.bitMem (by with_reducible assumption) ?_)
    | (refine Frame.sub_all hL (by first | decide | (simp only [List.map_cons, List.map_nil]; decide)))
    | (refine Frame.bitMemFst (by with_reducible assumption) ?_)
    | (with_reducible apply Frame.emit)
    | (with_reducible apply Frame.setSummary)
    | (with_reducible apply Frame.setEvq)
    | (with_reducible refine Frame.mk_other ?_)
    | decide

/-- What `State.ringState` may write: register fields by number, memory at 1000. -/
def W.ringState : Nat := 0x400000800000000000000000000000000000000000000000000000000000000000

theorem Frame.ringState_at {s0 s : State} {r st : Nat} (h : Frame W.ringState s0 s) (hst : st ≤ 5) : Frame W.ringState s0 (State.ringState s r st) := by
  unfold State.ringState
  dsimp only
  have h1 : Frame W.ringState s0 (s.wr F.DB_STATUS.STATE r st) := Frame.wr h (by decide)
  split
  · exact Frame.ringEvent (hL := by decide) h1
  · exact h1

theorem Frame.ringState {M : Nat} {s0 s : State} {r st : Nat} (hk0 : Frame M s0 s) (hst : st ≤ 5) (hL : W.ringState &&& M = W.ringState) :
    Frame M s0 (State.ringState s r st) := hk0.trans ((Frame.ringState_at (Frame.refl _ _) hst).mono hL)

/-- What `State.ringError` may write: register fields by number, memory at 1000. -/
def W.ringError : Nat := 0xc0000000000020000000000000000000000000000000000000000000000000072401002800000000000000000000000000000000000000000000000000000000000

theorem Frame.ringError {M : Nat} {s0 s : State} {r : Nat} {cause : Nat} (hk0 : Frame M s0 s)
    (hL : W.ringError &&& M = W.ringError) : Frame M s0 (State.ringError s r cause) := by
  unfold State.ringError
  try dsimp only
  repeat' first
    | (with_reducible assumption)
    | (split)
    | (with_reducible refine Frame.foldl ?_ ?_)
    | (exact Nat.zero_and _)
    | (exact Frame.sub hL (by decide))
    | (exact Frame.bitOf hL (by decide))
    | (intro u hu x hx)
    | (intro u hu)
    | (refine Frame.bitMem (by with_reducible assumption) ?_)
    | (refine Frame.sub_all hL (by first | decide | (simp only [List.map_cons, List.map_nil]; decide)))
    | (refine Frame.bitMemFst (by with_reducible assumption) ?_)
    | (with_reducible refine Frame.wr ?_ ?_)
    | (with_reducible apply Frame.emit)
    | (with_reducible apply Frame.ringState)
    | (with_reducible apply Frame.irqStatus)
    | decide

/-- What `State.readFailed` may write: register fields by number, memory at 1000. -/
def W.readFailed : Nat := 0xc0000000000020000000000000000000000000000000000000000000000000072401002800000000000000000000000000000000000000000000000000000000000

theorem Frame.readFailed {M : Nat} {s0 s : State} {r : Nat} {table : Bool} (hk0 : Frame M s0 s)
    (hL : W.readFailed &&& M = W.readFailed) : Frame M s0 (State.readFailed s r table) := by
  unfold State.readFailed
  try dsimp only
  repeat' first
    | (with_reducible assumption)
    | (split)
    | (with_reducible refine Frame.foldl ?_ ?_)
    | (exact Nat.zero_and _)
    | (exact Frame.sub hL (by decide))
    | (exact Frame.bitOf hL (by decide))
    | (intro u hu x hx)
    | (intro u hu)
    | (refine Frame.bitMem (by with_reducible assumption) ?_)
    | (refine Frame.sub_all hL (by first | decide | (simp only [List.map_cons, List.map_nil]; decide)))
    | (refine Frame.bitMemFst (by with_reducible assumption) ?_)
    | (with_reducible apply Frame.emit)
    | (with_reducible apply Frame.setRing)
    | (with_reducible apply Frame.ringError)
    | (with_reducible refine Frame.mk_other ?_)
    | decide

/-- What `State.writeFailed` may write: register fields by number, memory at 1000. -/
def W.writeFailed : Nat := 0xc0000000000020000000000000000000000000000000000000000000000000072401002800000000000000000000000000000000000000000000000000000000000

theorem Frame.writeFailed {M : Nat} {s0 s : State} {r : Nat} (hk0 : Frame M s0 s)
    (hL : W.writeFailed &&& M = W.writeFailed) : Frame M s0 (State.writeFailed s r) := by
  unfold State.writeFailed
  try dsimp only
  repeat' first
    | (with_reducible assumption)
    | (split)
    | (with_reducible refine Frame.foldl ?_ ?_)
    | (exact Nat.zero_and _)
    | (exact Frame.sub hL (by decide))
    | (exact Frame.bitOf hL (by decide))
    | (intro u hu x hx)
    | (intro u hu)
    | (refine Frame.bitMem (by with_reducible assumption) ?_)
    | (refine Frame.sub_all hL (by first | decide | (simp only [List.map_cons, List.map_nil]; decide)))
    | (refine Frame.bitMemFst (by with_reducible assumption) ?_)
    | (with_reducible apply Frame.emit)
    | (with_reducible apply Frame.setRing)
    | (with_reducible apply Frame.ringError)
    | (with_reducible refine Frame.mk_other ?_)
    | decide

/-- What `State.completed` may write: register fields by number, memory at 1000. -/
def W.completed : Nat := 0xc0000000000020000000000000000000000000000000000000000000000000072401002800000000000000000000000000000000000000000000000000000000000

theorem Frame.completed {M : Nat} {s0 s : State} {r : Nat} {idx : Nat} {event : Bool} (hk0 : Frame M s0 s)
    (hL : W.completed &&& M = W.completed) : Frame M s0 (State.completed s r idx event) := by
  unfold State.completed
  try dsimp only
  repeat' first
    | (with_reducible assumption)
    | (split)
    | (with_reducible refine Frame.foldl ?_ ?_)
    | (exact Nat.zero_and _)
    | (exact Frame.sub hL (by decide))
    | (exact Frame.bitOf hL (by decide))
    | (intro u hu x hx)
    | (intro u hu)
    | (refine Frame.bitMem (by with_reducible assumption) ?_)
    | (refine Frame.sub_all hL (by first | decide | (simp only [List.map_cons, List.map_nil]; decide)))
    | (refine Frame.bitMemFst (by with_reducible assumption) ?_)
    | (with_reducible apply Frame.emit)
    | (with_reducible apply Frame.setRing)
    | (with_reducible apply Frame.ringError)
    | (with_reducible apply Frame.ringEvent)
    | (with_reducible apply Frame.setSummary)
    | (with_reducible refine Frame.mk_other ?_)
    | decide

/-- What `State.writeCompletion` may write: register fields by number, memory at 1000. -/
def W.writeCompletion : Nat := 0x100000000000000000000000000000000000000000000000000000000000000000000000000000000000000000000000000000000000000000000000c0000000000020000000000000000000000000000000000000000000000000072401202800000000000000000000000000000000000000000000000000000000000

theorem Frame.writeCompletion {M : Nat} {s0 s : State} {r : Nat} {idx : Nat} {bytes : List Byte} {event : Bool} (hk0 : Frame M s0 s)
    (hL : W.writeCompletion &&& M = W.writeCompletion) : Frame M s0 (State.writeCompletion s r idx bytes event) := by
  unfold State.writeCompletion
  try dsimp only
  repeat' first
    | (with_reducible assumption)
    | (split)
    | (with_reducible refine Frame.foldl ?_ ?_)
    | (exact Nat.zero_and _)
    | (exact Frame.sub hL (by decide))
    | (exact Frame.bitOf hL (by decide))
    | (intro u hu x hx)
    | (intro u hu)
    | (refine Frame.bitMem (by with_reducible assumption) ?_)
    | (refine Frame.sub_all hL (by first | decide | (simp only [List.map_cons, List.map_nil]; decide)))
    | (refine Frame.bitMemFst (by with_reducible assumption) ?_)
    | (with_reducible apply Frame.emit)
    | (with_reducible refine Frame.hostWrite ?_ _ _ ?_)
    | (with_reducible apply Frame.writeFailed)
    | (with_reducible apply Frame.incWrap)
    | (with_reducible apply Frame.blockEvent)
    | (with_reducible apply Frame.completed)
    | decide

/-- What `State.flushTx` may write: register fields by number, memory at 1000. -/
def W.flushTx : Nat := 0x100000000000000000000000000000000000000000000000000000000000000000000000000000000000000000000000000000000000000000000000c0000000000020000000000000000000000000000000000000000000000000072401202800000000000000000000000000000000000000000000000000000000000

theorem Frame.flushTx_at {s0 s : State} {r : Nat} {l : List TxOut} (h : Frame W.flushTx s0 s) : Frame W.flushTx s0 (State.flushTx s r l) := by
  induction l generalizing s with
  | nil => exact Frame.setRing (_hL := by decide) h
  | cons x rest ih =>
    unfold State.flushTx
    split
    · exact Frame.setRing (_hL := by decide) h
    · exact ih (Frame.writeCompletion (hL := by decide) h)

theorem Frame.flushTx {M : Nat} {s0 s : State} {r : Nat} {l : List TxOut} (hk0 : Frame M s0 s) (hL : W.flushTx &&& M = W.flushTx) :
    Frame M s0 (State.flushTx s r l) := hk0.trans ((Frame.flushTx_at (Frame.refl _ _) ).mono hL)

/-- What `State.finishTx` may write: register fields by number, memory at 1000. -/
def W.finishTx : Nat := 0x100000000000000000000000000000000000000000000000000000000000000000000000000000000000000000000000000000000000000000000000c0000000000020000000000000000000000000000000000000000000000000072401202800000000000000000000000000000000000000000000000000000000000

theorem Frame.finishTx {M : Nat} {s0 s : State} {r : Nat} {idx : Nat} {bytes : List Byte} (hk0 : Frame M s0 s)
    (hL : W.finishTx &&& M = W.finishTx) : Frame M s0 (State.finishTx s r idx bytes) := by
  unfold State.finishTx
  try dsimp only
  repeat' first
    | (with_reducible assumption)
    | (split)
    | (with_reducible refine Frame.foldl ?_ ?_)
    | (exact Nat.zero_and _)
    | (exact Frame.sub hL (by decide))
    | (exact Frame.bitOf hL (by decide))
    | (intro u hu x hx)
    | (intro u hu)
    | (refine Frame.bitMem (by with_reducible assumption) ?_)
    | (refine Frame.sub_all hL (by first | decide | (simp only [List.map_cons, List.map_nil]; decide)))
    | (refine Frame.bitMemFst (by with_reducible assumption) ?_)
    | (with_reducible apply Frame.emit)
    | (with_reducible apply Frame.flushTx)
    | (with_reducible refine Frame.mk_other ?_)
    | decide

/-- What `State.txFail` may write: register fields by number, memory at 1000. -/
def W.txFail : Nat := 0x100000000000000000000000000000000000000000000000000000000000000000000000000000000000000000000000000000000000000000000000c0000000000020000000000000000000000000000000000000000000000000072401202800000000000000000000000000000000000000000000000000000000000

theorem Frame.txFail {M : Nat} {s0 s : State} {r : Nat} {idx : Nat} {status : Nat} (hk0 : Frame M s0 s)
    (hL : W.txFail &&& M = W.txFail) : Frame M s0 (State.txFail s r idx status) := by
  unfold State.txFail
  try dsimp only
  repeat' first
    | (with_reducible assumption)
    | (split)
    | (with_reducible refine Frame.foldl ?_ ?_)
    | (exact Nat.zero_and _)
    | (exact Frame.sub hL (by decide))
    | (exact Frame.bitOf hL (by decide))
    | (intro u hu x hx)
    | (intro u hu)
    | (refine Frame.bitMem (by with_reducible assumption) ?_)
    | (refine Frame.sub_all hL (by first | decide | (simp only [List.map_cons, List.map_nil]; decide)))
    | (refine Frame.bitMemFst (by with_reducible assumption) ?_)
    | (with_reducible apply Frame.emit)
    | (with_reducible apply Frame.finishTx)
    | decide

end Sys2Proof.Machine
end

