-- ==== Sys2Proof/Laws/FrameCalvanOps.lean ====
section
/-! SUPPORT. Which registers, and whether the memories, the operations of CalvanOps may write (Laws/Frame.lean). -/

namespace Sys2Proof.Machine

set_option Elab.async false
set_option linter.all false

/-- What `State.writeRsp` may write: register fields by number, memory at 1000. -/
def W.writeRsp : Nat := 0x100000000000000000000000000000000000000000000000000000000000000000000000000000

theorem Frame.writeRsp {M : Nat} {s0 s : State} {n : Nat} {b : List Byte} (hk0 : Frame M s0 s)
    (hL : W.writeRsp &&& M = W.writeRsp) : Frame M s0 (State.writeRsp s n b) := by
  unfold State.writeRsp
  try dsimp only
  repeat' first
    | (with_reducible assumption)
    | (split)
    | (with_reducible refine Frame.foldl ?_ ?_)
    | (exact Nat.zero_and _)
    | (exact Frame.sub hL (by decide))
    | (exact Frame.bitOf hL (by decide))
    | (intro u hu x hx)
    | (intro u hu)
    | (refine Frame.bitMem (by with_reducible assumption) ?_)
    | (refine Frame.sub_all hL (by first | decide | (simp only [List.map_cons, List.map_nil]; decide)))
    | (refine Frame.bitMemFst (by with_reducible assumption) ?_)
    | (with_reducible refine Frame.wr ?_ ?_)
    | (with_reducible apply Frame.emit)
    | decide

/-- What `State.mbxDone` may write: register fields by number, memory at 1000. -/
def W.mbxDone : Nat := 0xc0000000000020000000000000000000000000000000000000040000000000072000000000000000000000000000000000000000000000000000000000000000000

theorem Frame.mbxDone {M : Nat} {s0 s : State} {n : Nat} (hk0 : Frame M s0 s)
    (hL : W.mbxDone &&& M = W.mbxDone) : Frame M s0 (State.mbxDone s n) := by
  unfold State.mbxDone
  try dsimp only
  repeat' first
    | (with_reducible assumption)
    | (split)
    | (with_reducible refine Frame.foldl ?_ ?_)
    | (exact Nat.zero_and _)
    | (exact Frame.sub hL (by decide))
    | (exact Frame.bitOf hL (by decide))
    | (intro u hu x hx)
    | (intro u hu)
    | (refine Frame.bitMem (by with_reducible assumption) ?_)
    | (refine Frame.sub_all hL (by first | decide | (simp only [List.map_cons, List.map_nil]; decide)))
    | (refine Frame.bitMemFst (by with_reducible assumption) ?_)
    | (with_reducible refine Frame.wr ?_ ?_)
    | (with_reducible apply Frame.emit)
    | (with_reducible apply Frame.srcEvent)
    | decide

/-- What `State.deliver` may write: register fields by number, memory at 1000. -/
def W.deliver : Nat := 0x100000000000000000000000000000000000000000000000000000000000000000000000000000000000000000000000000000000000000000000000c0000000000020000000000000000000000000000000000000042d00000000072401202800000000000000000000000000000000000000000000000000000000000

theorem Frame.deliver {M : Nat} {s0 s : State} {src : Src} {b : List Byte} (hk0 : Frame M s0 s)
    (hL : W.deliver &&& M = W.deliver) : Frame M s0 (State.deliver s src b) := by
  unfold State.deliver
  try dsimp only
  repeat' first
    | (with_reducible assumption)
    | (split)
    | (with_reducible refine Frame.foldl ?_ ?_)
    | (exact Nat.zero_and _)
    | (exact Frame.sub hL (by decide))
    | (exact Frame.bitOf hL (by decide))
    | (intro u hu x hx)
    | (intro u hu)
    | (refine Frame.bitMem (by with_reducible assumption) ?_)
    | (refine Frame.sub_all hL (by first | decide | (simp only [List.map_cons, List.map_nil]; decide)))
    | (refine Frame.bitMemFst (by with_reducible assumption) ?_)
    | (with_reducible refine Frame.wr ?_ ?_)
    | (with_reducible apply Frame.emit)
    | (with_reducible refine Frame.hostWrite ?_ _ _ ?_)
    | (with_reducible apply Frame.writeRsp)
    | (with_reducible apply Frame.mbxDone)
    | (with_reducible apply Frame.setRing)
    | (with_reducible apply Frame.writeCompletion)
    | (with_reducible refine Frame.fst ?_ (by with_reducible assumption))
    | (with_reducible refine Frame.snd ?_ (by with_reducible assumption))
    | (with_reducible refine Frame.mk_other ?_)
    | decide

/-- What `State.answer` may write: register fields by number, memory at 1000. -/
def W.answer : Nat := 0x100000000000000000000000000000000000000000000000000000000000000000000000000000000000000000000000000000000000000000000000c0000000000020000000000000000000000000000000000000042d00000000072401202800000000000000000000000000000000000000000000000000000000000

theorem Frame.answer {M : Nat} {s0 s : State} {src : Src} {r : Resp} (hk0 : Frame M s0 s)
    (hL : W.answer &&& M = W.answer) : Frame M s0 (State.answer s src r) := by
  unfold State.answer
  try dsimp only
  repeat' first
    | (with_reducible assumption)
    | (split)
    | (with_reducible refine Frame.foldl ?_ ?_)
    | (exact Nat.zero_and _)
    | (exact Frame.sub hL (by decide))
    | (exact Frame.bitOf hL (by decide))
    | (intro u hu x hx)
    | (intro u hu)
    | (refine Frame.bitMem (by with_reducible assumption) ?_)
    | (refine Frame.sub_all hL (by first | decide | (simp only [List.map_cons, List.map_nil]; decide)))
    | (refine Frame.bitMemFst (by with_reducible assumption) ?_)
    | (with_reducible apply Frame.emit)
    | (with_reducible apply Frame.putCp)
    | (with_reducible apply Frame.deliver)
    | (with_reducible refine Frame.mk_other ?_)
    | decide

/-- What `State.mbxRead` may write: register fields by number, memory at 1000. -/
def W.mbxRead : Nat := 0x0

theorem Frame.mbxRead {M : Nat} {s0 s : State} {n : Nat} (hk0 : Frame M s0 s)
    (_hL : W.mbxRead &&& M = W.mbxRead) : Frame M s0 (State.mbxRead s n) := by
  unfold State.mbxRead
  try dsimp only
  repeat' first
    | (with_reducible assumption)
    | (split)
    | (with_reducible refine Frame.foldl ?_ ?_)
    | (exact Nat.zero_and _)
    | (intro u hu x hx)
    | (intro u hu)
    | (refine Frame.bitMem (by with_reducible assumption) ?_)
    | (refine Frame.bitMemFst (by with_reducible assumption) ?_)
    | (with_reducible apply Frame.emit)
    | (with_reducible apply Frame.corrected)
    | (with_reducible apply Frame.rewrite)
    | decide

/-- What `State.take` may write: register fields by number, memory at 1000. -/
def W.take : Nat := 0x200000000000000000000000000000000000000000000000000000000000

theorem Frame.take {M : Nat} {s0 s : State} {src : Src} (hk0 : Frame M s0 s)
    (hL : W.take &&& M = W.take) : Frame M s0 (State.take s src) := by
  unfold State.take
  try dsimp only
  repeat' first
    | (with_reducible assumption)
    | (split)
    | (with_reducible refine Frame.foldl ?_ ?_)
    | (exact Nat.zero_and _)
    | (exact Frame.sub hL (by decide))
    | (exact Frame.bitOf hL (by decide))
    | (intro u hu x hx)
    | (intro u hu)
    | (refine Frame.bitMem (by with_reducible assumption) ?_)
    | (refine Frame.sub_all hL (by first | decide | (simp only [List.map_cons, List.map_nil]; decide)))
    | (refine Frame.bitMemFst (by with_reducible assumption) ?_)
    | (with_reducible apply Frame.emit)
    | (with_reducible apply Frame.putCp)
    | (with_reducible apply Frame.mbxRead)
    | (with_reducible apply Frame.setRing)
    | (with_reducible apply Frame.advanceHead)
    | (with_reducible refine Frame.fst ?_ (by with_reducible assumption))
    | (with_reducible refine Frame.snd ?_ (by with_reducible assumption))
    | (with_reducible refine Frame.mk_other ?_)
    | decide

/-- What `State.replayed` may write: register fields by number, memory at 1000. -/
def W.replayed : Nat := 0x100000000000000000000000000000000000000000000000000000000000000000000000000000000000000000000000000000000000000000000000c0000000000020000000000000000000000000000000000000042d00000000072401202800000000000000000000000000000000000000000000000000000000000

theorem Frame.replayed {M : Nat} {s0 s : State} {src : Src} {t : TagRec} (hk0 : Frame M s0 s)
    (hL : W.replayed &&& M = W.replayed) : Frame M s0 (State.replayed s src t) := by
  unfold State.replayed
  try dsimp only
  repeat' first
    | (with_reducible assumption)
    | (split)
    | (with_reducible refine Frame.foldl ?_ ?_)
    | (exact Nat.zero_and _)
    | (exact Frame.sub hL (by decide))
    | (exact Frame.bitOf hL (by decide))
    | (intro u hu x hx)
    | (intro u hu)
    | (refine Frame.bitMem (by with_reducible assumption) ?_)
    | (refine Frame.sub_all hL (by first | decide | (simp only [List.map_cons, List.map_nil]; decide)))
    | (refine Frame.bitMemFst (by with_reducible assumption) ?_)
    | (with_reducible apply Frame.emit)
    | (with_reducible apply Frame.putCp)
    | (with_reducible apply Frame.deliver)
    | (with_reducible refine Frame.mk_other ?_)
    | decide

/-- What `State.serveUnknown` may write: register fields by number, memory at 1000. -/
def W.serveUnknown : Nat := 0x100000000000000000000000000000000000000000000000000000000000000000000000000000000000000000000000000000000000000000000000c0000000000020000000000000000000000000000000000000042d00000000072401202a00000000000000000000000000000000000000000000000000000000000

theorem Frame.serveUnknown {M : Nat} {s0 s : State} {src : Src} (hk0 : Frame M s0 s)
    (hL : W.serveUnknown &&& M = W.serveUnknown) : Frame M s0 (State.serveUnknown s src) := by
  unfold State.serveUnknown
  try dsimp only
  repeat' first
    | (with_reducible assumption)
    | (split)
    | (with_reducible refine Frame.foldl ?_ ?_)
    | (exact Nat.zero_and _)
    | (exact Frame.sub hL (by decide))
    | (exact Frame.bitOf hL (by decide))
    | (intro u hu x hx)
    | (intro u hu)
    | (refine Frame.bitMem (by with_reducible assumption) ?_)
    | (refine Frame.sub_all hL (by first | decide | (simp only [List.map_cons, List.map_nil]; decide)))
    | (refine Frame.bitMemFst (by with_reducible assumption) ?_)
    | (with_reducible apply Frame.emit)
    | (with_reducible apply Frame.take)
    | (with_reducible apply Frame.replayed)
    | (with_reducible apply Frame.answer)
    | (with_reducible refine Frame.fst ?_ (by with_reducible assumption))
    | (with_reducible refine Frame.snd ?_ (by with_reducible assumption))
    | (with_reducible refine Frame.mk_other ?_)
    | decide

/-- What `State.mbxLost` may write: register fields by number, memory at 1000. -/
def W.mbxLost : Nat := 0x100000000000000000000000000000000000000000000000000000000000000000000000000000000000000000000000000000000000000000000000c0000000000021800000000000000000000000000000000000042d00000000072401202a00000000000000000000000000000000000000000000000000000000000

theorem Frame.mbxLost_at {s0 s u : State} {src : Src} (h : Frame W.mbxLost s0 s) (e : s.mbxLost src = some u) : Frame W.mbxLost s0 u := by
  unfold State.mbxLost at e
  repeat' split at e
  all_goals first
    | contradiction
    | (simp only [Option.some.injEq] at e
       subst e
       exact Frame.answer (hL := by decide) (Frame.rewrite (_hL := by decide) (Frame.logUe (hL := by decide) (Frame.take (hL := by decide) h))))

theorem Frame.mbxLost {M : Nat} {s0 s u : State} {src : Src} (hk0 : Frame M s0 s) (e : s.mbxLost src = some u) (hL : W.mbxLost &&& M = W.mbxLost) :
    Frame M s0 u := hk0.trans ((Frame.mbxLost_at (Frame.refl _ _) e).mono hL)

/-- What `State.pumpTurn` may write: register fields by number, memory at 1000. -/
def W.pumpTurn : Nat := 0x100000000000000000000000000000000000000000000000000000000000000000000000000000000000000000000000000000000000000000000000c0000000000021800000000000000000000000000000000000042d00000000072401202a00000000000000000000000000000000000000000000000000000000000

theorem Frame.pumpTurn_at {s0 s u : State} (h : Frame W.pumpTurn s0 s) (e : s.pumpTurn = some u) : Frame W.pumpTurn s0 u := by
  unfold State.pumpTurn at e
  repeat' split at e
  all_goals first
    | contradiction
    | (simp only [Option.some.injEq] at e
       subst e
       first
         | exact Frame.mbxLost (hL := by decide) h (by assumption)
         | exact Frame.serveUnknown (hL := by decide) h)

theorem Frame.pumpTurn {M : Nat} {s0 s u : State} (hk0 : Frame M s0 s) (e : s.pumpTurn = some u) (hL : W.pumpTurn &&& M = W.pumpTurn) :
    Frame M s0 u := hk0.trans ((Frame.pumpTurn_at (Frame.refl _ _) e).mono hL)

/-- What `State.pump` may write: register fields by number, memory at 1000. -/
def W.pump : Nat := 0x100000000000000000000000000000000000000000000000000000000000000000000000000000000000000000000000000000000000000000000000c0000000000021800000000000000000000000000000000000042d00000000072401302a00000000000000000000000000000000000000000000000000000000000

theorem Frame.pump_at {s0 s : State} {n : Nat} (h : Frame W.pump s0 s) : Frame W.pump s0 (State.pump n s) := by
  induction n generalizing s with
  | zero => exact h
  | succ n ih =>
    unfold State.pump
    repeat' first
      | decide
      | (with_reducible assumption)
      | split
      | (with_reducible apply ih)
      | (with_reducible apply Frame.readFailed)
      | (with_reducible apply Frame.foundEarly)
      | (with_reducible apply Frame.writeCompletion)
      | (with_reducible apply Frame.advanceHead)
      | (with_reducible refine Frame.pumpTurn (hL := by decide) ?_ (by with_reducible assumption))

theorem Frame.pump {M : Nat} {s0 s : State} {n : Nat} (hk0 : Frame M s0 s) (hL : W.pump &&& M = W.pump) :
    Frame M s0 (State.pump n s) := hk0.trans ((Frame.pump_at (Frame.refl _ _) ).mono hL)

/-- What `State.pumpAll` may write: register fields by number, memory at 1000. -/
def W.pumpAll : Nat := 0x100000000000000000000000000000000000000000000000000000000000000000000000000000000000000000000000000000000000000000000000c0000000000021800000000000000000000000000000000000042d00000000072401302a00000000000000000000000000000000000000000000000000000000000

theorem Frame.pumpAll {M : Nat} {s0 s : State} (hk0 : Frame M s0 s)
    (hL : W.pumpAll &&& M = W.pumpAll) : Frame M s0 (State.pumpAll s) := by
  unfold State.pumpAll
  try dsimp only
  repeat' first
    | (with_reducible assumption)
    | (split)
    | (with_reducible refine Frame.foldl ?_ ?_)
    | (exact Nat.zero_and _)
    | (exact Frame.sub hL (by decide))
    | (exact Frame.bitOf hL (by decide))
    | (intro u hu x hx)
    | (intro u hu)
    | (refine Frame.bitMem (by with_reducible assumption) ?_)
    | (refine Frame.sub_all hL (by first | decide | (simp only [List.map_cons, List.map_nil]; decide)))
    | (refine Frame.bitMemFst (by with_reducible assumption) ?_)
    | (with_reducible apply Frame.emit)
    | (with_reducible apply Frame.pump)
    | decide

/-- What `State.answerLater` may write: register fields by number, memory at 1000. -/
def W.answerLater : Nat := 0x100000000000000000000000000000000000000000000000000000000000000000000000000000000000000000000000000000000000000000000000c0000000000021800000000000000000000000000000000000042d00000000072401302a00000000000000000000000000000000000000000000000000000000000

theorem Frame.answerLater {M : Nat} {s0 s : State} {src : Src} {r : Resp} (hk0 : Frame M s0 s)
    (hL : W.answerLater &&& M = W.answerLater) : Frame M s0 (State.answerLater s src r) := by
  unfold State.answerLater
  try dsimp only
  repeat' first
    | (with_reducible assumption)
    | (split)
    | (with_reducible refine Frame.foldl ?_ ?_)
    | (exact Nat.zero_and _)
    | (exact Frame.sub hL (by decide))
    | (exact Frame.bitOf hL (by decide))
    | (intro u hu x hx)
    | (intro u hu)
    | (refine Frame.bitMem (by with_reducible assumption) ?_)
    | (refine Frame.sub_all hL (by first | decide | (simp only [List.map_cons, List.map_nil]; decide)))
    | (refine Frame.bitMemFst (by with_reducible assumption) ?_)
    | (with_reducible apply Frame.emit)
    | (with_reducible apply Frame.answer)
    | (with_reducible apply Frame.pumpAll)
    | (with_reducible apply Frame.putCp)
    | (with_reducible refine Frame.mk_other ?_)
    | decide

/-- What `State.answerFailed` may write: register fields by number, memory at 1000. -/
def W.answerFailed : Nat := 0x100000000000000000000000000000000000000000000000000000000000000000000000000000000000000000000000000000000000000000000000c0000000000021800000000000000000000000000000000000042d00000000072401302a00000000000000000000000000000000000000000000000000000000000

theorem Frame.answerFailed {M : Nat} {s0 s : State} {src : Src} (hk0 : Frame M s0 s)
    (hL : W.answerFailed &&& M = W.answerFailed) : Frame M s0 (State.answerFailed s src) := by
  unfold State.answerFailed
  try dsimp only
  repeat' first
    | (with_reducible assumption)
    | (split)
    | (with_reducible refine Frame.foldl ?_ ?_)
    | (exact Nat.zero_and _)
    | (exact Frame.sub hL (by decide))
    | (exact Frame.bitOf hL (by decide))
    | (intro u hu x hx)
    | (intro u hu)
    | (refine Frame.bitMem (by with_reducible assumption) ?_)
    | (refine Frame.sub_all hL (by first | decide | (simp only [List.map_cons, List.map_nil]; decide)))
    | (refine Frame.bitMemFst (by with_reducible assumption) ?_)
    | (with_reducible apply Frame.emit)
    | (with_reducible apply Frame.tickFree)
    | (with_reducible apply Frame.answerLater)
    | decide

/-- What `State.payOwed` may write: register fields by number, memory at 1000. -/
def W.payOwed : Nat := 0x100000000000000000000000000000000000000000000000000000000000000000000000000000000000000000000000000000000000000000000000c0000000000021800000000000000000000000000000000000042d00000000072401302a00000000000000000000000000000000000000000000000000000000000

theorem Frame.payOwed {M : Nat} {s0 s : State} (hk0 : Frame M s0 s)
    (hL : W.payOwed &&& M = W.payOwed) : Frame M s0 (State.payOwed s) := by
  unfold State.payOwed
  try dsimp only
  repeat' first
    | (with_reducible assumption)
    | (split)
    | (with_reducible refine Frame.foldl ?_ ?_)
    | (exact Nat.zero_and _)
    | (exact Frame.sub hL (by decide))
    | (exact Frame.bitOf hL (by decide))
    | (intro u hu x hx)
    | (intro u hu)
    | (refine Frame.bitMem (by with_reducible assumption) ?_)
    | (refine Frame.sub_all hL (by first | decide | (simp only [List.map_cons, List.map_nil]; decide)))
    | (refine Frame.bitMemFst (by with_reducible assumption) ?_)
    | (with_reducible apply Frame.emit)
    | (with_reducible apply Frame.answerLater)
    | (with_reducible apply Frame.putCp)
    | (with_reducible apply Frame.pumpAll)
    | (with_reducible refine Frame.mk_other ?_)
    | decide

/-- What `State.calvan` may write: register fields by number, memory at 1000. -/
def W.calvan : Nat := 0x100000000000000000000000000000000000000000000000000000000000000000000000000000000000000000000000000000000000000000000000c0000000000021800000000000000000000000000000000000042d00000000072401302a00000000000000000000000000000000000000000000000000000000000

theorem Frame.calvan {M : Nat} {s0 s : State} {src : Src} {code : Nat} {boot : Bool} {restricted : Bool} {body : Body} (hk0 : Frame M s0 s) (hbody : ∀ u src p, Frame M s0 u → Frame M s0 (body u src p).1)
    (hL : W.calvan &&& M = W.calvan) : Frame M s0 (State.calvan s src code boot restricted body) := by
  unfold State.calvan
  try dsimp only
  repeat' first
    | (with_reducible assumption)
    | (split)
    | (with_reducible refine Frame.foldl ?_ ?_)
    | (exact Nat.zero_and _)
    | (exact Frame.sub hL (by decide))
    | (exact Frame.bitOf hL (by decide))
    | (intro u hu x hx)
    | (intro u hu)
    | (refine Frame.bitMem (by with_reducible assumption) ?_)
    | (refine Frame.sub_all hL (by first | decide | (simp only [List.map_cons, List.map_nil]; decide)))
    | (refine Frame.bitMemFst (by with_reducible assumption) ?_)
    | (refine hbody _ ?_)
    | (refine hbody _ _ ?_)
    | (refine hbody _ _ _ ?_)
    | (with_reducible apply Frame.emit)
    | (with_reducible apply Frame.take)
    | (with_reducible apply Frame.replayed)
    | (with_reducible apply Frame.answer)
    | (with_reducible apply Frame.pumpAll)
    | (with_reducible refine Frame.fst ?_ (by with_reducible assumption))
    | (with_reducible refine Frame.snd ?_ (by with_reducible assumption))
    | (with_reducible refine Frame.mk_other ?_)
    | decide

/-- What `atOnce` may write: register fields by number, memory at 1000. -/
def W.atOnce : Nat := 0x0

theorem Frame.atOnce {M : Nat} {s0 s : State} {src : Src} {p : List Byte} {f : State → List Byte → State × Resp}
    (hk0 : Frame M s0 s) (hf : ∀ u p, Frame M s0 u → Frame M s0 (f u p).1) : Frame M s0 (atOnce f s src p).1 := hf s p hk0

end Sys2Proof.Machine
end

