-- ==== Sys2Proof/Laws/FrameRakeOps.lean ====
section
/-! SUPPORT. Which registers, and whether the memories, the operations of RakeOps may write (Laws/Frame.lean). -/

namespace Sys2Proof.Machine

set_option Elab.async false
set_option linter.all false

/-- What `State.chEvent` may write: register fields by number, memory at 1000. -/
def W.chEvent : Nat := 0xc0000000000020000000000000000000000000000000000000000000000000072000000000000000000000000000000000000000000000000000000000000000000

theorem Frame.chEvent {M : Nat} {s0 s : State} {c : Nat} {f : Fld} (hk0 : Frame M s0 s) (hf : M.testBit f.num = true)
    (hL : W.chEvent &&& M = W.chEvent) : Frame M s0 (State.chEvent s c f) := by
  unfold State.chEvent
  try dsimp only
  repeat' first
    | (with_reducible assumption)
    | (split)
    | (with_reducible refine Frame.foldl ?_ ?_)
    | (exact Nat.zero_and _)
    | (exact Frame.sub hL (by decide))
    | (exact Frame.bitOf hL (by decide))
    | (intro u hu x hx)
    | (intro u hu)
    | (refine Frame.bitMem (by with_reducible assumption) ?_)
    | (refine Frame.sub_all hL (by first | decide | (simp only [List.map_cons, List.map_nil]; decide)))
    | (refine Frame.bitMemFst (by with_reducible assumption) ?_)
    | (with_reducible apply Frame.emit)
    | (with_reducible apply Frame.raiseEn)
    | decide

/-- What `State.wrFree` may write: register fields by number, memory at 1000. -/
def W.wrFree : Nat := 0x0

theorem Frame.wrFree {M : Nat} {s0 s : State} {f : Fld} {c : Nat} (hk0 : Frame M s0 s) (hf : M.testBit f.num = true)
    (_hL : W.wrFree &&& M = W.wrFree) : Frame M s0 (State.wrFree s f c) := by
  unfold State.wrFree
  try dsimp only
  repeat' first
    | (with_reducible assumption)
    | (split)
    | (with_reducible refine Frame.foldl ?_ ?_)
    | (exact Nat.zero_and _)
    | (intro u hu x hx)
    | (intro u hu)
    | (refine Frame.bitMem (by with_reducible assumption) ?_)
    | (refine Frame.bitMemFst (by with_reducible assumption) ?_)
    | (with_reducible refine Frame.wr ?_ ?_)
    | (with_reducible apply Frame.emit)
    | (with_reducible apply Frame.tickFree)
    | decide

/-- What `State.holdChannel` may write: register fields by number, memory at 1000. -/
def W.holdChannel : Nat := 0x3ffc000000000000000000000000000000000000000000000000020600e0800000000000000000000000000000000000000000000000000000000000000000000

theorem Frame.holdChannel {M : Nat} {s0 s : State} {c : Nat} {src : Nat} {dst : Nat} {elemLog2 : Nat} {total : Nat} (hk0 : Frame M s0 s)
    (hL : W.holdChannel &&& M = W.holdChannel) : Frame M s0 (State.holdChannel s c src dst elemLog2 total) := by
  unfold State.holdChannel
  try dsimp only
  repeat' first
    | (with_reducible assumption)
    | (split)
    | (with_reducible refine Frame.foldl ?_ ?_)
    | (exact Nat.zero_and _)
    | (exact Frame.sub hL (by decide))
    | (exact Frame.bitOf hL (by decide))
    | (intro u hu x hx)
    | (intro u hu)
    | (refine Frame.bitMem (by with_reducible assumption) ?_)
    | (refine Frame.sub_all hL (by first | decide | (simp only [List.map_cons, List.map_nil]; decide)))
    | (refine Frame.bitMemFst (by with_reducible assumption) ?_)
    | (with_reducible refine Frame.wr ?_ ?_)
    | (with_reducible apply Frame.emit)
    | (with_reducible apply Frame.wrFree)
    | decide

/-- What `State.releaseChannel` may write: register fields by number, memory at 1000. -/
def W.releaseChannel : Nat := 0xc0000000000020000000000000000000000000000000000000000002022860072000000000000000000000000000000000000000000000000000000000000000000

theorem Frame.releaseChannel {M : Nat} {s0 s : State} {c : Nat} {total : Nat} (hk0 : Frame M s0 s)
    (hL : W.releaseChannel &&& M = W.releaseChannel) : Frame M s0 (State.releaseChannel s c total) := by
  unfold State.releaseChannel
  try dsimp only
  repeat' first
    | (with_reducible assumption)
    | (split)
    | (with_reducible refine Frame.foldl ?_ ?_)
    | (exact Nat.zero_and _)
    | (exact Frame.sub hL (by decide))
    | (exact Frame.bitOf hL (by decide))
    | (intro u hu x hx)
    | (intro u hu)
    | (refine Frame.bitMem (by with_reducible assumption) ?_)
    | (refine Frame.sub_all hL (by first | decide | (simp only [List.map_cons, List.map_nil]; decide)))
    | (refine Frame.bitMemFst (by with_reducible assumption) ?_)
    | (with_reducible refine Frame.wr ?_ ?_)
    | (with_reducible apply Frame.emit)
    | (with_reducible apply Frame.chEvent)
    | decide

end Sys2Proof.Machine
end

