-- ==== Sys2Proof/Laws/FrameMonOps.lean ====
section
/-! SUPPORT. Which registers, and whether the memories, the operations of MonOps may write (Laws/Frame.lean). -/

namespace Sys2Proof.Machine

set_option Elab.async false
set_option linter.all false

/-- What `State.setMon` may write: register fields by number, memory at 1000. -/
def W.setMon : Nat := 0x0

theorem Frame.setMon {M : Nat} {s0 s : State} {f : Monitor → Monitor} (hk0 : Frame M s0 s)
    (_hL : W.setMon &&& M = W.setMon) : Frame M s0 (State.setMon s f) := by
  unfold State.setMon
  try dsimp only
  repeat' first
    | (with_reducible assumption)
    | (split)
    | (with_reducible refine Frame.foldl ?_ ?_)
    | (exact Nat.zero_and _)
    | (intro u hu x hx)
    | (intro u hu)
    | (refine Frame.bitMem (by with_reducible assumption) ?_)
    | (refine Frame.bitMemFst (by with_reducible assumption) ?_)
    | (with_reducible apply Frame.emit)
    | (with_reducible refine Frame.mk_other ?_)
    | decide

/-- What `State.snapPage` may write: register fields by number, memory at 1000. -/
def W.snapPage : Nat := 0x0

theorem Frame.snapPage {M : Nat} {s0 s : State} {seq : Nat} {p : Nat} (hk0 : Frame M s0 s)
    (_hL : W.snapPage &&& M = W.snapPage) : Frame M s0 (State.snapPage s seq p) := by
  unfold State.snapPage
  try dsimp only
  repeat' first
    | (with_reducible assumption)
    | (split)
    | (with_reducible refine Frame.foldl ?_ ?_)
    | (exact Nat.zero_and _)
    | (intro u hu x hx)
    | (intro u hu)
    | (refine Frame.bitMem (by with_reducible assumption) ?_)
    | (refine Frame.bitMemFst (by with_reducible assumption) ?_)
    | (with_reducible apply Frame.emit)
    | (with_reducible apply Frame.setMon)
    | (with_reducible refine Frame.mk_other ?_)
    | decide

/-- What `State.snapshot` may write: register fields by number, memory at 1000. -/
def W.snapshot : Nat := 0xc0000000000828000000000000000000000000000000000000000000000000072000000000000000000000000000000000000000000000000000000000000000000

theorem Frame.snapshot {M : Nat} {s0 s : State} (hk0 : Frame M s0 s)
    (hL : W.snapshot &&& M = W.snapshot) : Frame M s0 (State.snapshot s) := by
  unfold State.snapshot
  try dsimp only
  repeat' first
    | (with_reducible assumption)
    | (split)
    | (with_reducible refine Frame.foldl ?_ ?_)
    | (exact Nat.zero_and _)
    | (exact Frame.sub hL (by decide))
    | (exact Frame.bitOf hL (by decide))
    | (intro u hu x hx)
    | (intro u hu)
    | (refine Frame.bitMem (by with_reducible assumption) ?_)
    | (refine Frame.sub_all hL (by first | decide | (simp only [List.map_cons, List.map_nil]; decide)))
    | (refine Frame.bitMemFst (by with_reducible assumption) ?_)
    | (with_reducible refine Frame.wr ?_ ?_)
    | (with_reducible apply Frame.emit)
    | (with_reducible apply Frame.setMon)
    | (with_reducible apply Frame.snapPage)
    | (with_reducible apply Frame.pmcEvent)
    | (with_reducible refine Frame.fst ?_ (by with_reducible assumption))
    | (with_reducible refine Frame.snd ?_ (by with_reducible assumption))
    | (with_reducible refine Frame.mk_other ?_)
    | decide

/-- What `State.armSnap` may write: register fields by number, memory at 1000. -/
def W.armSnap : Nat := 0xc0000000000828000000000000000000000000000000000000000000000000072000000000000000000000000000000000000000000000000000000000000000000

theorem Frame.armSnap {M : Nat} {s0 s : State} {at_ : Int} (hk0 : Frame M s0 s)
    (hL : W.armSnap &&& M = W.armSnap) : Frame M s0 (State.armSnap s at_) := by
  unfold State.armSnap
  try dsimp only
  repeat' first
    | (with_reducible assumption)
    | (split)
    | (with_reducible refine Frame.foldl ?_ ?_)
    | (exact Nat.zero_and _)
    | (exact Frame.sub hL (by decide))
    | (exact Frame.bitOf hL (by decide))
    | (intro u hu x hx)
    | (intro u hu)
    | (refine Frame.bitMem (by with_reducible assumption) ?_)
    | (refine Frame.sub_all hL (by first | decide | (simp only [List.map_cons, List.map_nil]; decide)))
    | (refine Frame.bitMemFst (by with_reducible assumption) ?_)
    | (with_reducible apply Frame.emit)
    | (with_reducible apply Frame.setMon)
    | (with_reducible apply Frame.snapshot)
    | (with_reducible refine Frame.mk_other ?_)
    | decide

/-- What `State.writeSnapCtl` may write: register fields by number, memory at 1000. -/
def W.writeSnapCtl : Nat := 0xc0000000000828000000000000000000000000000000000000000000000000072000000000000000000000000000000000000000000000000000000000000000000

theorem Frame.writeSnapCtl {M : Nat} {s0 s : State} {v : Nat} (hk0 : Frame M s0 s)
    (hL : W.writeSnapCtl &&& M = W.writeSnapCtl) : Frame M s0 (State.writeSnapCtl s v) := by
  unfold State.writeSnapCtl
  try dsimp only
  repeat' first
    | (with_reducible assumption)
    | (split)
    | (with_reducible refine Frame.foldl ?_ ?_)
    | (exact Nat.zero_and _)
    | (exact Frame.sub hL (by decide))
    | (exact Frame.bitOf hL (by decide))
    | (intro u hu x hx)
    | (intro u hu)
    | (refine Frame.bitMem (by with_reducible assumption) ?_)
    | (refine Frame.sub_all hL (by first | decide | (simp only [List.map_cons, List.map_nil]; decide)))
    | (refine Frame.bitMemFst (by with_reducible assumption) ?_)
    | (with_reducible apply Frame.emit)
    | (with_reducible apply Frame.snapshot)
    | (with_reducible apply Frame.setMon)
    | (with_reducible apply Frame.armSnap)
    | (with_reducible refine Frame.fst ?_ (by with_reducible assumption))
    | (with_reducible refine Frame.snd ?_ (by with_reducible assumption))
    | (with_reducible refine Frame.mk_other ?_)
    | decide

/-- What `State.legRead` may write: register fields by number, memory at 1000. -/
def W.legRead : Nat := 0x0

theorem Frame.legRead {M : Nat} {s0 s : State} (hk0 : Frame M s0 s)
    (_hL : W.legRead &&& M = W.legRead) : Frame M s0 (State.legRead s).2 := by
  unfold State.legRead
  try dsimp only
  repeat' first
    | (with_reducible assumption)
    | (split)
    | (with_reducible refine Frame.foldl ?_ ?_)
    | (exact Nat.zero_and _)
    | (intro u hu x hx)
    | (intro u hu)
    | (refine Frame.bitMem (by with_reducible assumption) ?_)
    | (refine Frame.bitMemFst (by with_reducible assumption) ?_)
    | (with_reducible apply Frame.emit)
    | (with_reducible apply Frame.setMon)
    | (with_reducible refine Frame.fst ?_ (by with_reducible assumption))
    | (with_reducible refine Frame.snd ?_ (by with_reducible assumption))
    | (with_reducible refine Frame.mk_other ?_)
    | decide

/-- What `State.tickPredict` may write: register fields by number, memory at 1000. -/
def W.tickPredict : Nat := 0x0

theorem Frame.tickPredict {M : Nat} {s0 s : State} (hk0 : Frame M s0 s)
    (_hL : W.tickPredict &&& M = W.tickPredict) : Frame M s0 (State.tickPredict s) := by
  unfold State.tickPredict
  try dsimp only
  repeat' first
    | (with_reducible assumption)
    | (split)
    | (with_reducible refine Frame.foldl ?_ ?_)
    | (exact Nat.zero_and _)
    | (intro u hu x hx)
    | (intro u hu)
    | (refine Frame.bitMem (by with_reducible assumption) ?_)
    | (refine Frame.bitMemFst (by with_reducible assumption) ?_)
    | (with_reducible apply Frame.emit)
    | (with_reducible refine Frame.mk_other ?_)
    | decide

/-- What `State.tmxLock` may write: register fields by number, memory at 1000. -/
def W.tmxLock : Nat := 0xc0000020000060000000000000000000000000000000000000000000000000072000000000000000000000000000000000000000000000000000000000000000000

theorem Frame.tmxLock {M : Nat} {s0 s : State} (hk0 : Frame M s0 s)
    (hL : W.tmxLock &&& M = W.tmxLock) : Frame M s0 (State.tmxLock s) := by
  unfold State.tmxLock
  try dsimp only
  repeat' first
    | (with_reducible assumption)
    | (split)
    | (with_reducible refine Frame.foldl ?_ ?_)
    | (exact Nat.zero_and _)
    | (exact Frame.sub hL (by decide))
    | (exact Frame.bitOf hL (by decide))
    | (intro u hu x hx)
    | (intro u hu)
    | (refine Frame.bitMem (by with_reducible assumption) ?_)
    | (refine Frame.sub_all hL (by first | decide | (simp only [List.map_cons, List.map_nil]; decide)))
    | (refine Frame.bitMemFst (by with_reducible assumption) ?_)
    | (with_reducible refine Frame.wr ?_ ?_)
    | (with_reducible apply Frame.emit)
    | (with_reducible apply Frame.pmcEvent)
    | decide

end Sys2Proof.Machine
end

