-- ==== Sys2Proof/Laws/FrameBrineOps.lean ====
section
/-! SUPPORT. Which registers, and whether the memories, the operations of BrineOps may write (Laws/Frame.lean). -/

namespace Sys2Proof.Machine

set_option Elab.async false
set_option linter.all false

/-- What `State.takeCells` may write: register fields by number, memory at 1000. -/
def W.takeCells : Nat := 0xc0000000000020000000000000000000000000000000000000000000000000072000000000000000000000000000000000000000000000000000000000000000000

theorem Frame.takeCells_at {s0 s t : State} {r n id : Nat} (h : Frame W.takeCells s0 s) (e : s.takeCells r n = some (id, t)) :
    Frame W.takeCells s0 t := by
  unfold State.takeCells at e
  dsimp only at e
  repeat' split at e
  all_goals first
    | contradiction
    | (simp only [Option.some.injEq, Prod.mk.injEq] at e
       obtain ⟨_, rfl⟩ := e
       first
         | exact Frame.putBuf (_hL := by decide) h
         | exact Frame.blockEvent (hL := by decide) (Frame.putBuf (_hL := by decide) h))

theorem Frame.takeCells {M : Nat} {s0 s t : State} {r n id : Nat} (hk0 : Frame M s0 s) (e : s.takeCells r n = some (id, t)) (hL : W.takeCells &&& M = W.takeCells) :
    Frame M s0 t := hk0.trans ((Frame.takeCells_at (Frame.refl _ _) e).mono hL)

/-- What `State.growCells` may write: register fields by number, memory at 1000. -/
def W.growCells : Nat := 0x0

theorem Frame.growCells_at {s0 s t : State} {id n : Nat} (h : Frame W.growCells s0 s) (e : s.growCells id n = some t) : Frame W.growCells s0 t := by
  unfold State.growCells at e
  dsimp only at e
  repeat' split at e
  all_goals first
    | contradiction
    | (simp only [Option.some.injEq] at e
       subst e
       exact Frame.putBuf (_hL := by decide) h)

theorem Frame.growCells {M : Nat} {s0 s t : State} {id n : Nat} (hk0 : Frame M s0 s) (e : s.growCells id n = some t) (_hL : W.growCells &&& M = W.growCells) :
    Frame M s0 t := hk0.trans ((Frame.growCells_at (Frame.refl _ _) e).mono _hL)

/-- What `State.holdCells` may write: register fields by number, memory at 1000. -/
def W.holdCells : Nat := 0x0

theorem Frame.holdCells {M : Nat} {s0 s : State} {id : Nat} (hk0 : Frame M s0 s)
    (_hL : W.holdCells &&& M = W.holdCells) : Frame M s0 (State.holdCells s id) := by
  unfold State.holdCells
  try dsimp only
  repeat' first
    | (with_reducible assumption)
    | (split)
    | (with_reducible refine Frame.foldl ?_ ?_)
    | (exact Nat.zero_and _)
    | (intro u hu x hx)
    | (intro u hu)
    | (refine Frame.bitMem (by with_reducible assumption) ?_)
    | (refine Frame.bitMemFst (by with_reducible assumption) ?_)
    | (with_reducible apply Frame.emit)
    | (with_reducible apply Frame.putBuf)
    | (with_reducible refine Frame.fst ?_ (by with_reducible assumption))
    | (with_reducible refine Frame.snd ?_ (by with_reducible assumption))
    | (with_reducible refine Frame.mk_other ?_)
    | decide

/-- What `State.freeCells` may write: register fields by number, memory at 1000. -/
def W.freeCells : Nat := 0x0

theorem Frame.freeCells {M : Nat} {s0 s : State} {id : Nat} (hk0 : Frame M s0 s)
    (_hL : W.freeCells &&& M = W.freeCells) : Frame M s0 (State.freeCells s id) := by
  unfold State.freeCells
  try dsimp only
  repeat' first
    | (with_reducible assumption)
    | (split)
    | (with_reducible refine Frame.foldl ?_ ?_)
    | (exact Nat.zero_and _)
    | (intro u hu x hx)
    | (intro u hu)
    | (refine Frame.bitMem (by with_reducible assumption) ?_)
    | (refine Frame.bitMemFst (by with_reducible assumption) ?_)
    | (with_reducible apply Frame.emit)
    | (with_reducible apply Frame.putBuf)
    | (with_reducible refine Frame.fst ?_ (by with_reducible assumption))
    | (with_reducible refine Frame.snd ?_ (by with_reducible assumption))
    | (with_reducible refine Frame.mk_other ?_)
    | decide

/-- What `State.cellRead` may write: register fields by number, memory at 1000. -/
def W.cellRead : Nat := 0xc0000000000021800000000000000000000000000000000000000000000000072000000000000000000000000000000000000000000000000000000000000000000

theorem Frame.cellRead_at {s0 s : State} {r : Nat} (h : Frame W.cellRead s0 s) : Frame W.cellRead s0 (State.cellRead s r).2 := by
  unfold State.cellRead
  dsimp only
  split
  · exact h
  · have h1 := Frame.foldl (l := (s.upsets.filter (fun u => u.mem == 1 && u.inst == r)).filter (fun u => upsetSeen u == .corrected))
      (f := fun s u => (s.rewriteWord 1 r u.addr).corrected 0) h (fun u hu x hx => Frame.corrected (_hL := by decide) (Frame.rewriteWord (_hL := by decide) hu))
    split
    · exact h1
    · refine Frame.putBuf (_hL := by decide) (Frame.logUe (hL := by decide) (Frame.putUpsets (_hL := by decide) ?_))
      split
      · exact Frame.putBuf (_hL := by decide) h1
      · exact h1

theorem Frame.cellRead {M : Nat} {s0 s : State} {r : Nat} (hk0 : Frame M s0 s) (hL : W.cellRead &&& M = W.cellRead) :
    Frame M s0 (State.cellRead s r).2 := hk0.trans ((Frame.cellRead_at (Frame.refl _ _) ).mono hL)

/-- What `State.popPage` may write: register fields by number, memory at 1000. -/
def W.popPage : Nat := 0x0

theorem Frame.popPage {M : Nat} {s0 s : State} {k : Nat} (hk0 : Frame M s0 s)
    (_hL : W.popPage &&& M = W.popPage) : Frame M s0 (State.popPage s k).2 := by
  unfold State.popPage
  try dsimp only
  repeat' first
    | (with_reducible assumption)
    | (split)
    | (with_reducible refine Frame.foldl ?_ ?_)
    | (exact Nat.zero_and _)
    | (intro u hu x hx)
    | (intro u hu)
    | (refine Frame.bitMem (by with_reducible assumption) ?_)
    | (refine Frame.bitMemFst (by with_reducible assumption) ?_)
    | (with_reducible apply Frame.emit)
    | (with_reducible apply Frame.putBuf)
    | (with_reducible refine Frame.fst ?_ (by with_reducible assumption))
    | (with_reducible refine Frame.snd ?_ (by with_reducible assumption))
    | (with_reducible refine Frame.mk_other ?_)
    | decide

/-- What `State.linkPage` may write: register fields by number, memory at 1000. -/
def W.linkPage : Nat := 0x0

theorem Frame.linkPage {M : Nat} {s0 s : State} {q : Nat} {seq : Nat} {p : Nat} {tail : Option Nat} (hk0 : Frame M s0 s)
    (_hL : W.linkPage &&& M = W.linkPage) : Frame M s0 (State.linkPage s q seq p tail) := by
  unfold State.linkPage
  try dsimp only
  repeat' first
    | (with_reducible assumption)
    | (split)
    | (with_reducible refine Frame.foldl ?_ ?_)
    | (exact Nat.zero_and _)
    | (intro u hu x hx)
    | (intro u hu)
    | (refine Frame.bitMem (by with_reducible assumption) ?_)
    | (refine Frame.bitMemFst (by with_reducible assumption) ?_)
    | (with_reducible apply Frame.emit)
    | (with_reducible apply Frame.putBuf)
    | (with_reducible refine Frame.fst ?_ (by with_reducible assumption))
    | (with_reducible refine Frame.snd ?_ (by with_reducible assumption))
    | (with_reducible refine Frame.mk_other ?_)
    | decide

/-- What `State.takePage` may write: register fields by number, memory at 1000. -/
def W.takePage : Nat := 0x0

theorem Frame.takePage_at {s0 s t : State} {q seq : Nat} {pages : List Nat} {k : Nat} (h : Frame W.takePage s0 s)
    (e : s.takePage q seq pages = some (k, t)) : Frame W.takePage s0 t := by
  unfold State.takePage at e
  dsimp only at e
  repeat' split at e
  all_goals first
    | contradiction
    | (simp only [Option.some.injEq, Prod.mk.injEq] at e
       obtain ⟨_, rfl⟩ := e
       exact Frame.linkPage (_hL := by decide) (Frame.popPage (_hL := by decide) h))

theorem Frame.takePage {M : Nat} {s0 s t : State} {q seq : Nat} {pages : List Nat} {k : Nat} (hk0 : Frame M s0 s) (e : s.takePage q seq pages = some (k, t)) (_hL : W.takePage &&& M = W.takePage) :
    Frame M s0 t := hk0.trans ((Frame.takePage_at (Frame.refl _ _) e).mono _hL)

/-- What `State.givePages` may write: register fields by number, memory at 1000. -/
def W.givePages : Nat := 0x0

theorem Frame.givePages {M : Nat} {s0 s : State} {pages : List Nat} (hk0 : Frame M s0 s)
    (_hL : W.givePages &&& M = W.givePages) : Frame M s0 (State.givePages s pages) := by
  unfold State.givePages
  try dsimp only
  repeat' first
    | (with_reducible assumption)
    | (split)
    | (with_reducible refine Frame.foldl ?_ ?_)
    | (exact Nat.zero_and _)
    | (intro u hu x hx)
    | (intro u hu)
    | (refine Frame.bitMem (by with_reducible assumption) ?_)
    | (refine Frame.bitMemFst (by with_reducible assumption) ?_)
    | (with_reducible apply Frame.emit)
    | (with_reducible apply Frame.putBuf)
    | (with_reducible refine Frame.mk_other ?_)
    | decide

/-- What `State.takePages` may write: register fields by number, memory at 1000. -/
def W.takePages : Nat := 0x0

theorem Frame.takePages_at {s0 s t : State} {q n seq : Nat} {pages l : List Nat} (h : Frame W.takePages s0 s)
    (e : State.takePages q n seq s pages = some (l, t)) : Frame W.takePages s0 t := by
  induction n generalizing s pages seq with
  | zero =>
    simp only [State.takePages, Option.some.injEq, Prod.mk.injEq] at e
    rw [← e.2]; exact h
  | succ n ih =>
    simp only [State.takePages] at e
    split at e
    · cases e
    · rename_i hp
      exact ih (Frame.takePage (_hL := by decide) h hp) e

theorem Frame.takePages {M : Nat} {s0 s t : State} {q n seq : Nat} {pages l : List Nat} (hk0 : Frame M s0 s) (e : State.takePages q n seq s pages = some (l, t)) (_hL : W.takePages &&& M = W.takePages) :
    Frame M s0 t := hk0.trans ((Frame.takePages_at (Frame.refl _ _) e).mono _hL)

/-- What `State.setDeepQ` may write: register fields by number, memory at 1000. -/
def W.setDeepQ : Nat := 0x0

theorem Frame.setDeepQ {M : Nat} {s0 s : State} {t : Nat} {term : Nat} {cls : Nat} {q : DeepQ} (hk0 : Frame M s0 s)
    (_hL : W.setDeepQ &&& M = W.setDeepQ) : Frame M s0 (State.setDeepQ s t term cls q) := by
  unfold State.setDeepQ
  try dsimp only
  repeat' first
    | (with_reducible assumption)
    | (split)
    | (with_reducible refine Frame.foldl ?_ ?_)
    | (exact Nat.zero_and _)
    | (intro u hu x hx)
    | (intro u hu)
    | (refine Frame.bitMem (by with_reducible assumption) ?_)
    | (refine Frame.bitMemFst (by with_reducible assumption) ?_)
    | (with_reducible apply Frame.emit)
    | (with_reducible refine Frame.mk_other ?_)
    | decide

/-- What `State.setBuf` may write: register fields by number, memory at 1000. -/
def W.setBuf : Nat := 0x0

theorem Frame.setBuf {M : Nat} {s0 s : State} {f : Buffers → Buffers} (hk0 : Frame M s0 s)
    (_hL : W.setBuf &&& M = W.setBuf) : Frame M s0 (State.setBuf s f) := by
  unfold State.setBuf
  try dsimp only
  repeat' first
    | (with_reducible assumption)
    | (split)
    | (with_reducible refine Frame.foldl ?_ ?_)
    | (exact Nat.zero_and _)
    | (intro u hu x hx)
    | (intro u hu)
    | (refine Frame.bitMem (by with_reducible assumption) ?_)
    | (refine Frame.bitMemFst (by with_reducible assumption) ?_)
    | (with_reducible apply Frame.emit)
    | (with_reducible refine Frame.mk_other ?_)
    | decide

/-- What `State.setEgressQ` may write: register fields by number, memory at 1000. -/
def W.setEgressQ : Nat := 0x0

theorem Frame.setEgressQ {M : Nat} {s0 s : State} {lane : Nat} {cls : Nat} {q : EgressQ} (hk0 : Frame M s0 s)
    (_hL : W.setEgressQ &&& M = W.setEgressQ) : Frame M s0 (State.setEgressQ s lane cls q) := by
  unfold State.setEgressQ
  try dsimp only
  repeat' first
    | (with_reducible assumption)
    | (split)
    | (with_reducible refine Frame.foldl ?_ ?_)
    | (exact Nat.zero_and _)
    | (intro u hu x hx)
    | (intro u hu)
    | (refine Frame.bitMem (by with_reducible assumption) ?_)
    | (refine Frame.bitMemFst (by with_reducible assumption) ?_)
    | (with_reducible apply Frame.emit)
    | (with_reducible apply Frame.setBuf)
    | (with_reducible refine Frame.mk_other ?_)
    | decide

/-- What `State.postShrink` may write: register fields by number, memory at 1000. -/
def W.postShrink : Nat := 0x0

theorem Frame.postShrink {M : Nat} {s0 s : State} {lane : Nat} {cls : Nat} {st : Nat} (hk0 : Frame M s0 s)
    (_hL : W.postShrink &&& M = W.postShrink) : Frame M s0 (State.postShrink s lane cls st) := by
  unfold State.postShrink
  try dsimp only
  repeat' first
    | (with_reducible assumption)
    | (split)
    | (with_reducible refine Frame.foldl ?_ ?_)
    | (exact Nat.zero_and _)
    | (intro u hu x hx)
    | (intro u hu)
    | (refine Frame.bitMem (by with_reducible assumption) ?_)
    | (refine Frame.bitMemFst (by with_reducible assumption) ?_)
    | (with_reducible apply Frame.emit)
    | (with_reducible apply Frame.setBuf)
    | (with_reducible refine Frame.mk_other ?_)
    | decide

/-- What `State.egressSettle` may write: register fields by number, memory at 1000. -/
def W.egressSettle : Nat := 0x0

theorem Frame.egressSettle {M : Nat} {s0 s : State} {lane : Nat} {cls : Nat} (hk0 : Frame M s0 s)
    (_hL : W.egressSettle &&& M = W.egressSettle) : Frame M s0 (State.egressSettle s lane cls) := by
  unfold State.egressSettle
  try dsimp only
  repeat' first
    | (with_reducible assumption)
    | (split)
    | (with_reducible refine Frame.foldl ?_ ?_)
    | (exact Nat.zero_and _)
    | (intro u hu x hx)
    | (intro u hu)
    | (refine Frame.bitMem (by with_reducible assumption) ?_)
    | (refine Frame.bitMemFst (by with_reducible assumption) ?_)
    | (with_reducible apply Frame.emit)
    | (with_reducible apply Frame.setEgressQ)
    | (with_reducible apply Frame.postShrink)
    | (with_reducible refine Frame.mk_other ?_)
    | decide

/-- What `State.settleAll` may write: register fields by number, memory at 1000. -/
def W.settleAll : Nat := 0x0

theorem Frame.settleAll {M : Nat} {s0 s : State} (hk0 : Frame M s0 s)
    (_hL : W.settleAll &&& M = W.settleAll) : Frame M s0 (State.settleAll s) := by
  unfold State.settleAll
  try dsimp only
  repeat' first
    | (with_reducible assumption)
    | (split)
    | (with_reducible refine Frame.foldl ?_ ?_)
    | (exact Nat.zero_and _)
    | (intro u hu x hx)
    | (intro u hu)
    | (refine Frame.bitMem (by with_reducible assumption) ?_)
    | (refine Frame.bitMemFst (by with_reducible assumption) ?_)
    | (with_reducible apply Frame.emit)
    | (with_reducible apply Frame.egressSettle)
    | decide

/-- What `State.toEgress` may write: register fields by number, memory at 1000. -/
def W.toEgress : Nat := 0x0

theorem Frame.toEgress {M : Nat} {s0 s : State} {f : UsFrame} (hk0 : Frame M s0 s)
    (_hL : W.toEgress &&& M = W.toEgress) : Frame M s0 (State.toEgress s f) := by
  unfold State.toEgress
  try dsimp only
  repeat' first
    | (with_reducible assumption)
    | (split)
    | (with_reducible refine Frame.foldl ?_ ?_)
    | (exact Nat.zero_and _)
    | (intro u hu x hx)
    | (intro u hu)
    | (refine Frame.bitMem (by with_reducible assumption) ?_)
    | (refine Frame.bitMemFst (by with_reducible assumption) ?_)
    | (with_reducible apply Frame.emit)
    | (with_reducible apply Frame.setEgressQ)
    | (with_reducible apply Frame.egressSettle)
    | (with_reducible refine Frame.mk_other ?_)
    | decide

/-- What `State.clearQ` may write: register fields by number, memory at 1000. -/
def W.clearQ : Nat := 0x0

theorem Frame.clearQ {M : Nat} {s0 s : State} {t : Nat} {term : Nat} {cls : Nat} (hk0 : Frame M s0 s)
    (_hL : W.clearQ &&& M = W.clearQ) : Frame M s0 (State.clearQ s t term cls) := by
  unfold State.clearQ
  try dsimp only
  repeat' first
    | (with_reducible assumption)
    | (split)
    | (with_reducible refine Frame.foldl ?_ ?_)
    | (exact Nat.zero_and _)
    | (intro u hu x hx)
    | (intro u hu)
    | (refine Frame.bitMem (by with_reducible assumption) ?_)
    | (refine Frame.bitMemFst (by with_reducible assumption) ?_)
    | (with_reducible apply Frame.emit)
    | (with_reducible apply Frame.givePages)
    | (with_reducible apply Frame.setDeepQ)
    | (with_reducible refine Frame.mk_other ?_)
    | decide

/-- What `State.endFrame` may write: register fields by number, memory at 1000. -/
def W.endFrame : Nat := 0x100000000000000000000000000000000000000000000000000000000000000000000000000000000000000000000000000000000000000000000000c0000000000020000000000000000000000000000000000000000000000000072401202800000000000000000000000000000000000000000000000000000000000

theorem Frame.endFrame {M : Nat} {s0 s : State} {o : Origin} {status : Nat} (hk0 : Frame M s0 s)
    (hL : W.endFrame &&& M = W.endFrame) : Frame M s0 (State.endFrame s o status) := by
  unfold State.endFrame
  try dsimp only
  repeat' first
    | (with_reducible assumption)
    | (split)
    | (with_reducible refine Frame.foldl ?_ ?_)
    | (exact Nat.zero_and _)
    | (exact Frame.sub hL (by decide))
    | (exact Frame.bitOf hL (by decide))
    | (intro u hu x hx)
    | (intro u hu)
    | (refine Frame.bitMem (by with_reducible assumption) ?_)
    | (refine Frame.sub_all hL (by first | decide | (simp only [List.map_cons, List.map_nil]; decide)))
    | (refine Frame.bitMemFst (by with_reducible assumption) ?_)
    | (with_reducible apply Frame.emit)
    | (with_reducible apply Frame.txFail)
    | (with_reducible refine Frame.mk_other ?_)
    | decide

/-- What `State.flushQueues` may write: register fields by number, memory at 1000. -/
def W.flushQueues : Nat := 0x100000000000000000000000000000000000000000000000000000000000000000000000000000000000000000000000000000000000000000000000c0000000000020000000000000000000000000000000000000000000000000072401202800000000000000000000000000000000000000000000000000000000000

theorem Frame.flushQueues {M : Nat} {s0 s : State} {which : Key → Bool} {status : Nat} (hk0 : Frame M s0 s)
    (hL : W.flushQueues &&& M = W.flushQueues) : Frame M s0 (State.flushQueues s which status) := by
  unfold State.flushQueues
  try dsimp only
  repeat' first
    | (with_reducible assumption)
    | (split)
    | (with_reducible refine Frame.foldl ?_ ?_)
    | (exact Nat.zero_and _)
    | (exact Frame.sub hL (by decide))
    | (exact Frame.bitOf hL (by decide))
    | (intro u hu x hx)
    | (intro u hu)
    | (refine Frame.bitMem (by with_reducible assumption) ?_)
    | (refine Frame.sub_all hL (by first | decide | (simp only [List.map_cons, List.map_nil]; decide)))
    | (refine Frame.bitMemFst (by with_reducible assumption) ?_)
    | (with_reducible apply Frame.emit)
    | (with_reducible apply Frame.clearQ)
    | (with_reducible apply Frame.addCnt)
    | (with_reducible apply Frame.endFrame)
    | (with_reducible apply Frame.settleAll)
    | decide

end Sys2Proof.Machine
end

