-- ==== Sys2Proof/Laws/FrameTreeOps.lean ====
section
/-! SUPPORT. Which registers, and whether the memories, the operations of TreeOps may write (Laws/Frame.lean). -/

namespace Sys2Proof.Machine

set_option Elab.async false
set_option linter.all false

/-- What `State.setTree` may write: register fields by number, memory at 1000. -/
def W.setTree : Nat := 0x0

theorem Frame.setTree {M : Nat} {s0 s : State} {t : Nat} {x : Tree} (hk0 : Frame M s0 s)
    (_hL : W.setTree &&& M = W.setTree) : Frame M s0 (State.setTree s t x) := by
  unfold State.setTree
  try dsimp only
  repeat' first
    | (with_reducible assumption)
    | (split)
    | (with_reducible refine Frame.foldl ?_ ?_)
    | (exact Nat.zero_and _)
    | (intro u hu x hx)
    | (intro u hu)
    | (refine Frame.bitMem (by with_reducible assumption) ?_)
    | (refine Frame.bitMemFst (by with_reducible assumption) ?_)
    | (with_reducible apply Frame.emit)
    | (with_reducible refine Frame.mk_other ?_)
    | decide

/-- What `State.setTreeU` may write: register fields by number, memory at 1000. -/
def W.setTreeU : Nat := 0x0

theorem Frame.setTreeU {M : Nat} {s0 s : State} {t : Nat} {x : TreeUs} (hk0 : Frame M s0 s)
    (_hL : W.setTreeU &&& M = W.setTreeU) : Frame M s0 (State.setTreeU s t x) := by
  unfold State.setTreeU
  try dsimp only
  repeat' first
    | (with_reducible assumption)
    | (split)
    | (with_reducible refine Frame.foldl ?_ ?_)
    | (exact Nat.zero_and _)
    | (intro u hu x hx)
    | (intro u hu)
    | (refine Frame.bitMem (by with_reducible assumption) ?_)
    | (refine Frame.bitMemFst (by with_reducible assumption) ?_)
    | (with_reducible apply Frame.emit)
    | (with_reducible refine Frame.mk_other ?_)
    | decide

/-- What `State.setTerm` may write: register fields by number, memory at 1000. -/
def W.setTerm : Nat := 0x0

theorem Frame.setTerm {M : Nat} {s0 s : State} {t : Nat} {k : Nat} {x : Term} (hk0 : Frame M s0 s)
    (_hL : W.setTerm &&& M = W.setTerm) : Frame M s0 (State.setTerm s t k x) := by
  unfold State.setTerm
  try dsimp only
  repeat' first
    | (with_reducible assumption)
    | (split)
    | (with_reducible refine Frame.foldl ?_ ?_)
    | (exact Nat.zero_and _)
    | (intro u hu x hx)
    | (intro u hu)
    | (refine Frame.bitMem (by with_reducible assumption) ?_)
    | (refine Frame.bitMemFst (by with_reducible assumption) ?_)
    | (with_reducible apply Frame.emit)
    | (with_reducible apply Frame.putTerms)
    | decide

/-- What `State.setSlot` may write: register fields by number, memory at 1000. -/
def W.setSlot : Nat := 0x0

theorem Frame.setSlot {M : Nat} {s0 s : State} {h : Nat} {x : KeySlot} (hk0 : Frame M s0 s)
    (_hL : W.setSlot &&& M = W.setSlot) : Frame M s0 (State.setSlot s h x) := by
  unfold State.setSlot
  try dsimp only
  repeat' first
    | (with_reducible assumption)
    | (split)
    | (with_reducible refine Frame.foldl ?_ ?_)
    | (exact Nat.zero_and _)
    | (intro u hu x hx)
    | (intro u hu)
    | (refine Frame.bitMem (by with_reducible assumption) ?_)
    | (refine Frame.bitMemFst (by with_reducible assumption) ?_)
    | (with_reducible apply Frame.emit)
    | (with_reducible refine Frame.mk_other ?_)
    | decide

/-- What `State.setShared` may write: register fields by number, memory at 1000. -/
def W.setShared : Nat := 0x0

theorem Frame.setShared {M : Nat} {s0 s : State} {t : Nat} {x : SluShared} (hk0 : Frame M s0 s)
    (_hL : W.setShared &&& M = W.setShared) : Frame M s0 (State.setShared s t x) := by
  unfold State.setShared
  try dsimp only
  repeat' first
    | (with_reducible assumption)
    | (split)
    | (with_reducible refine Frame.foldl ?_ ?_)
    | (exact Nat.zero_and _)
    | (intro u hu x hx)
    | (intro u hu)
    | (refine Frame.bitMem (by with_reducible assumption) ?_)
    | (refine Frame.bitMemFst (by with_reducible assumption) ?_)
    | (with_reducible apply Frame.emit)
    | (with_reducible refine Frame.mk_other ?_)
    | decide

/-- What `State.setSluTree` may write: register fields by number, memory at 1000. -/
def W.setSluTree : Nat := 0x0

theorem Frame.setSluTree {M : Nat} {s0 s : State} {u : Nat} {t : Nat} {x : SluTree} (hk0 : Frame M s0 s)
    (_hL : W.setSluTree &&& M = W.setSluTree) : Frame M s0 (State.setSluTree s u t x) := by
  unfold State.setSluTree
  try dsimp only
  repeat' first
    | (with_reducible assumption)
    | (split)
    | (with_reducible refine Frame.foldl ?_ ?_)
    | (exact Nat.zero_and _)
    | (intro u hu x hx)
    | (intro u hu)
    | (refine Frame.bitMem (by with_reducible assumption) ?_)
    | (refine Frame.bitMemFst (by with_reducible assumption) ?_)
    | (with_reducible apply Frame.emit)
    | (with_reducible refine Frame.mk_other ?_)
    | decide

/-- What `State.setSluUnit` may write: register fields by number, memory at 1000. -/
def W.setSluUnit : Nat := 0x0

theorem Frame.setSluUnit {M : Nat} {s0 s : State} {u : Nat} {x : SluUnit} (hk0 : Frame M s0 s)
    (_hL : W.setSluUnit &&& M = W.setSluUnit) : Frame M s0 (State.setSluUnit s u x) := by
  unfold State.setSluUnit
  try dsimp only
  repeat' first
    | (with_reducible assumption)
    | (split)
    | (with_reducible refine Frame.foldl ?_ ?_)
    | (exact Nat.zero_and _)
    | (intro u hu x hx)
    | (intro u hu)
    | (refine Frame.bitMem (by with_reducible assumption) ?_)
    | (refine Frame.bitMemFst (by with_reducible assumption) ?_)
    | (with_reducible apply Frame.emit)
    | (with_reducible refine Frame.mk_other ?_)
    | decide

/-- What `State.countForecasts` may write: register fields by number, memory at 1000. -/
def W.countForecasts : Nat := 0x1000000000000000000000000000000000000000000000000

theorem Frame.countForecasts {M : Nat} {s0 s : State} (hk0 : Frame M s0 s)
    (hL : W.countForecasts &&& M = W.countForecasts) : Frame M s0 (State.countForecasts s) := by
  unfold State.countForecasts
  try dsimp only
  repeat' first
    | (with_reducible assumption)
    | (split)
    | (with_reducible refine Frame.foldl ?_ ?_)
    | (exact Nat.zero_and _)
    | (exact Frame.sub hL (by decide))
    | (exact Frame.bitOf hL (by decide))
    | (intro u hu x hx)
    | (intro u hu)
    | (refine Frame.bitMem (by with_reducible assumption) ?_)
    | (refine Frame.sub_all hL (by first | decide | (simp only [List.map_cons, List.map_nil]; decide)))
    | (refine Frame.bitMemFst (by with_reducible assumption) ?_)
    | (with_reducible refine Frame.wr ?_ ?_)
    | (with_reducible apply Frame.emit)
    | decide

/-- What `State.ploamPut` may write: register fields by number, memory at 1000. -/
def W.ploamPut : Nat := 0x0

theorem Frame.ploamPut {M : Nat} {s0 s : State} {t : Nat} {p : Ploam} (hk0 : Frame M s0 s)
    (_hL : W.ploamPut &&& M = W.ploamPut) : Frame M s0 (State.ploamPut s t p) := by
  unfold State.ploamPut
  try dsimp only
  repeat' first
    | (with_reducible assumption)
    | (split)
    | (with_reducible refine Frame.foldl ?_ ?_)
    | (exact Nat.zero_and _)
    | (intro u hu x hx)
    | (intro u hu)
    | (refine Frame.bitMem (by with_reducible assumption) ?_)
    | (refine Frame.bitMemFst (by with_reducible assumption) ?_)
    | (with_reducible apply Frame.emit)
    | (with_reducible apply Frame.setTree)
    | (with_reducible refine Frame.mk_other ?_)
    | decide

/-- What `State.ploamNormal` may write: register fields by number, memory at 1000. -/
def W.ploamNormal : Nat := 0x0

theorem Frame.ploamNormal {M : Nat} {s0 s : State} {t : Nat} {term : Nat} {m : PloamMsg} (hk0 : Frame M s0 s)
    (_hL : W.ploamNormal &&& M = W.ploamNormal) : Frame M s0 (State.ploamNormal s t term m) := by
  unfold State.ploamNormal
  try dsimp only
  repeat' first
    | (with_reducible assumption)
    | (split)
    | (with_reducible refine Frame.foldl ?_ ?_)
    | (exact Nat.zero_and _)
    | (intro u hu x hx)
    | (intro u hu)
    | (refine Frame.bitMem (by with_reducible assumption) ?_)
    | (refine Frame.bitMemFst (by with_reducible assumption) ?_)
    | (with_reducible apply Frame.emit)
    | (with_reducible apply Frame.ploamPut)
    | decide

/-- What `State.ploamUrgent` may write: register fields by number, memory at 1000. -/
def W.ploamUrgent : Nat := 0x0

theorem Frame.ploamUrgent {M : Nat} {s0 s : State} {t : Nat} {term : Nat} {m : PloamMsg} (hk0 : Frame M s0 s)
    (_hL : W.ploamUrgent &&& M = W.ploamUrgent) : Frame M s0 (State.ploamUrgent s t term m) := by
  unfold State.ploamUrgent
  try dsimp only
  repeat' first
    | (with_reducible assumption)
    | (split)
    | (with_reducible refine Frame.foldl ?_ ?_)
    | (exact Nat.zero_and _)
    | (intro u hu x hx)
    | (intro u hu)
    | (refine Frame.bitMem (by with_reducible assumption) ?_)
    | (refine Frame.bitMemFst (by with_reducible assumption) ?_)
    | (with_reducible apply Frame.emit)
    | (with_reducible apply Frame.ploamPut)
    | decide

/-- What `State.forceAwake` may write: register fields by number, memory at 1000. -/
def W.forceAwake : Nat := 0x0

theorem Frame.forceAwake {M : Nat} {s0 s : State} {t : Nat} {k : Nat} (hk0 : Frame M s0 s)
    (_hL : W.forceAwake &&& M = W.forceAwake) : Frame M s0 (State.forceAwake s t k) := by
  unfold State.forceAwake
  try dsimp only
  repeat' first
    | (with_reducible assumption)
    | (split)
    | (with_reducible refine Frame.foldl ?_ ?_)
    | (exact Nat.zero_and _)
    | (intro u hu x hx)
    | (intro u hu)
    | (refine Frame.bitMem (by with_reducible assumption) ?_)
    | (refine Frame.bitMemFst (by with_reducible assumption) ?_)
    | (with_reducible apply Frame.emit)
    | (with_reducible apply Frame.setTerm)
    | (with_reducible apply Frame.setTree)
    | (with_reducible refine Frame.mk_other ?_)
    | decide

/-- What `State.wakeStaged` may write: register fields by number, memory at 1000. -/
def W.wakeStaged : Nat := 0x0

theorem Frame.wakeStaged {M : Nat} {s0 s : State} {t : Nat} {term : Nat} (hk0 : Frame M s0 s)
    (_hL : W.wakeStaged &&& M = W.wakeStaged) : Frame M s0 (State.wakeStaged s t term) := by
  unfold State.wakeStaged
  try dsimp only
  repeat' first
    | (with_reducible assumption)
    | (split)
    | (with_reducible refine Frame.foldl ?_ ?_)
    | (exact Nat.zero_and _)
    | (intro u hu x hx)
    | (intro u hu)
    | (refine Frame.bitMem (by with_reducible assumption) ?_)
    | (refine Frame.bitMemFst (by with_reducible assumption) ?_)
    | (with_reducible apply Frame.emit)
    | (with_reducible apply Frame.forceAwake)
    | decide

/-- What `State.reannounce` may write: register fields by number, memory at 1000. -/
def W.reannounce : Nat := 0x0

theorem Frame.reannounce {M : Nat} {s0 s : State} {t : Nat} (hk0 : Frame M s0 s)
    (_hL : W.reannounce &&& M = W.reannounce) : Frame M s0 (State.reannounce s t) := by
  unfold State.reannounce
  try dsimp only
  repeat' first
    | (with_reducible assumption)
    | (split)
    | (with_reducible refine Frame.foldl ?_ ?_)
    | (exact Nat.zero_and _)
    | (intro u hu x hx)
    | (intro u hu)
    | (refine Frame.bitMem (by with_reducible assumption) ?_)
    | (refine Frame.bitMemFst (by with_reducible assumption) ?_)
    | (with_reducible apply Frame.emit)
    | (with_reducible apply Frame.burstProfile)
    | (with_reducible apply Frame.ploamNormal)
    | (with_reducible apply Frame.setTree)
    | (with_reducible refine Frame.mk_other ?_)
    | decide

/-- What `State.askPloamu` may write: register fields by number, memory at 1000. -/
def W.askPloamu : Nat := 0x0

theorem Frame.askPloamu {M : Nat} {s0 s : State} {t : Nat} {k : Nat} (hk0 : Frame M s0 s)
    (_hL : W.askPloamu &&& M = W.askPloamu) : Frame M s0 (State.askPloamu s t k) := by
  unfold State.askPloamu
  try dsimp only
  repeat' first
    | (with_reducible assumption)
    | (split)
    | (with_reducible refine Frame.foldl ?_ ?_)
    | (exact Nat.zero_and _)
    | (intro u hu x hx)
    | (intro u hu)
    | (refine Frame.bitMem (by with_reducible assumption) ?_)
    | (refine Frame.bitMemFst (by with_reducible assumption) ?_)
    | (with_reducible apply Frame.emit)
    | (with_reducible apply Frame.setShared)
    | (with_reducible refine Frame.mk_other ?_)
    | decide

/-- What `State.ploamTo` may write: register fields by number, memory at 1000. -/
def W.ploamTo : Nat := 0x0

theorem Frame.ploamTo {M : Nat} {s0 s : State} {t : Nat} {term : Nat} {m : PloamMsg} (hk0 : Frame M s0 s)
    (_hL : W.ploamTo &&& M = W.ploamTo) : Frame M s0 (State.ploamTo s t term m) := by
  unfold State.ploamTo
  try dsimp only
  repeat' first
    | (with_reducible assumption)
    | (split)
    | (with_reducible refine Frame.foldl ?_ ?_)
    | (exact Nat.zero_and _)
    | (intro u hu x hx)
    | (intro u hu)
    | (refine Frame.bitMem (by with_reducible assumption) ?_)
    | (refine Frame.bitMemFst (by with_reducible assumption) ?_)
    | (with_reducible apply Frame.emit)
    | (with_reducible apply Frame.setTree)
    | (with_reducible apply Frame.forceAwake)
    | (with_reducible apply Frame.ploamNormal)
    | (with_reducible apply Frame.askPloamu)
    | (with_reducible refine Frame.mk_other ?_)
    | decide

/-- What `State.ploamClear` may write: register fields by number, memory at 1000. -/
def W.ploamClear : Nat := 0x0

theorem Frame.ploamClear {M : Nat} {s0 s : State} {t : Nat} (hk0 : Frame M s0 s)
    (_hL : W.ploamClear &&& M = W.ploamClear) : Frame M s0 (State.ploamClear s t) := by
  unfold State.ploamClear
  try dsimp only
  repeat' first
    | (with_reducible assumption)
    | (split)
    | (with_reducible refine Frame.foldl ?_ ?_)
    | (exact Nat.zero_and _)
    | (intro u hu x hx)
    | (intro u hu)
    | (refine Frame.bitMem (by with_reducible assumption) ?_)
    | (refine Frame.bitMemFst (by with_reducible assumption) ?_)
    | (with_reducible apply Frame.emit)
    | (with_reducible apply Frame.setTree)
    | (with_reducible refine Frame.mk_other ?_)
    | decide

/-- What `State.countOper` may write: register fields by number, memory at 1000. -/
def W.countOper : Nat := 0x2000000000000000000000000

theorem Frame.countOper {M : Nat} {s0 s : State} {t : Nat} (hk0 : Frame M s0 s)
    (hL : W.countOper &&& M = W.countOper) : Frame M s0 (State.countOper s t) := by
  unfold State.countOper
  try dsimp only
  repeat' first
    | (with_reducible assumption)
    | (split)
    | (with_reducible refine Frame.foldl ?_ ?_)
    | (exact Nat.zero_and _)
    | (exact Frame.sub hL (by decide))
    | (exact Frame.bitOf hL (by decide))
    | (intro u hu x hx)
    | (intro u hu)
    | (refine Frame.bitMem (by with_reducible assumption) ?_)
    | (refine Frame.sub_all hL (by first | decide | (simp only [List.map_cons, List.map_nil]; decide)))
    | (refine Frame.bitMemFst (by with_reducible assumption) ?_)
    | (with_reducible refine Frame.wr ?_ ?_)
    | (with_reducible apply Frame.emit)
    | decide

/-- What `State.zeroAccounts` may write: register fields by number, memory at 1000. -/
def W.zeroAccounts : Nat := 0x0

theorem Frame.zeroAccounts {M : Nat} {s0 s : State} {t : Nat} {k : Nat} (hk0 : Frame M s0 s)
    (_hL : W.zeroAccounts &&& M = W.zeroAccounts) : Frame M s0 (State.zeroAccounts s t k) := by
  unfold State.zeroAccounts
  try dsimp only
  repeat' first
    | (with_reducible assumption)
    | (split)
    | (with_reducible refine Frame.foldl ?_ ?_)
    | (exact Nat.zero_and _)
    | (intro u hu x hx)
    | (intro u hu)
    | (refine Frame.bitMem (by with_reducible assumption) ?_)
    | (refine Frame.bitMemFst (by with_reducible assumption) ?_)
    | (with_reducible apply Frame.emit)
    | (with_reducible apply Frame.setSluTree)
    | (with_reducible refine Frame.mk_other ?_)
    | decide

/-- What `State.termState` may write: register fields by number, memory at 1000. -/
def W.termState : Nat := 0xc0000000000020000000000000000000000000000000000000000000000000072000000000000000000000000000000100000000002000000000000000000000000

theorem Frame.termState {M : Nat} {s0 s : State} {t : Nat} {k : Nat} {st : Nat} (hk0 : Frame M s0 s)
    (hL : W.termState &&& M = W.termState) : Frame M s0 (State.termState s t k st) := by
  unfold State.termState
  try dsimp only
  repeat' first
    | (with_reducible assumption)
    | (split)
    | (with_reducible refine Frame.foldl ?_ ?_)
    | (exact Nat.zero_and _)
    | (exact Frame.sub hL (by decide))
    | (exact Frame.bitOf hL (by decide))
    | (intro u hu x hx)
    | (intro u hu)
    | (refine Frame.bitMem (by with_reducible assumption) ?_)
    | (refine Frame.sub_all hL (by first | decide | (simp only [List.map_cons, List.map_nil]; decide)))
    | (refine Frame.bitMemFst (by with_reducible assumption) ?_)
    | (with_reducible apply Frame.emit)
    | (with_reducible apply Frame.setTerm)
    | (with_reducible apply Frame.countOper)
    | (with_reducible apply Frame.treUsEvent)
    | (with_reducible refine Frame.mk_other ?_)
    | decide

/-- What `State.dropReasm` may write: register fields by number, memory at 1000. -/
def W.dropReasm : Nat := 0x4000000000000000000000000000000000000000

theorem Frame.dropReasm {M : Nat} {s0 s : State} {t : Nat} {which : Nat → Reasm → Bool} {count : Bool} (hk0 : Frame M s0 s)
    (hL : W.dropReasm &&& M = W.dropReasm) : Frame M s0 (State.dropReasm s t which count) := by
  unfold State.dropReasm
  try dsimp only
  repeat' first
    | (with_reducible assumption)
    | (split)
    | (with_reducible refine Frame.foldl ?_ ?_)
    | (exact Nat.zero_and _)
    | (exact Frame.sub hL (by decide))
    | (exact Frame.bitOf hL (by decide))
    | (intro u hu x hx)
    | (intro u hu)
    | (refine Frame.bitMem (by with_reducible assumption) ?_)
    | (refine Frame.sub_all hL (by first | decide | (simp only [List.map_cons, List.map_nil]; decide)))
    | (refine Frame.bitMemFst (by with_reducible assumption) ?_)
    | (with_reducible apply Frame.emit)
    | (with_reducible apply Frame.putReasms)
    | (with_reducible apply Frame.freeCells)
    | (with_reducible apply Frame.incSat)
    | decide

/-- What `State.askRanging` may write: register fields by number, memory at 1000. -/
def W.askRanging : Nat := 0x0

theorem Frame.askRanging {M : Nat} {s0 s : State} {t : Nat} {k : Nat} (hk0 : Frame M s0 s)
    (_hL : W.askRanging &&& M = W.askRanging) : Frame M s0 (State.askRanging s t k) := by
  unfold State.askRanging
  try dsimp only
  repeat' first
    | (with_reducible assumption)
    | (split)
    | (with_reducible refine Frame.foldl ?_ ?_)
    | (exact Nat.zero_and _)
    | (intro u hu x hx)
    | (intro u hu)
    | (refine Frame.bitMem (by with_reducible assumption) ?_)
    | (refine Frame.bitMemFst (by with_reducible assumption) ?_)
    | (with_reducible apply Frame.emit)
    | (with_reducible apply Frame.setShared)
    | (with_reducible apply Frame.setTerm)
    | (with_reducible refine Frame.mk_other ?_)
    | decide

/-- What `State.fillRanging` may write: register fields by number, memory at 1000. -/
def W.fillRanging : Nat := 0x0

theorem Frame.fillRanging {M : Nat} {s0 s : State} {t : Nat} (hk0 : Frame M s0 s)
    (_hL : W.fillRanging &&& M = W.fillRanging) : Frame M s0 (State.fillRanging s t) := by
  unfold State.fillRanging
  try dsimp only
  repeat' first
    | (with_reducible assumption)
    | (split)
    | (with_reducible refine Frame.foldl ?_ ?_)
    | (exact Nat.zero_and _)
    | (intro u hu x hx)
    | (intro u hu)
    | (refine Frame.bitMem (by with_reducible assumption) ?_)
    | (refine Frame.bitMemFst (by with_reducible assumption) ?_)
    | (with_reducible apply Frame.emit)
    | (with_reducible apply Frame.setTerm)
    | (with_reducible apply Frame.askRanging)
    | (with_reducible refine Frame.mk_other ?_)
    | decide

/-- What `State.dropRanging` may write: register fields by number, memory at 1000. -/
def W.dropRanging : Nat := 0x0

theorem Frame.dropRanging {M : Nat} {s0 s : State} {t : Nat} {k : Nat} (hk0 : Frame M s0 s)
    (_hL : W.dropRanging &&& M = W.dropRanging) : Frame M s0 (State.dropRanging s t k) := by
  unfold State.dropRanging
  try dsimp only
  repeat' first
    | (with_reducible assumption)
    | (split)
    | (with_reducible refine Frame.foldl ?_ ?_)
    | (exact Nat.zero_and _)
    | (intro u hu x hx)
    | (intro u hu)
    | (refine Frame.bitMem (by with_reducible assumption) ?_)
    | (refine Frame.bitMemFst (by with_reducible assumption) ?_)
    | (with_reducible apply Frame.emit)
    | (with_reducible apply Frame.setShared)
    | (with_reducible apply Frame.askPloamu)
    | (with_reducible apply Frame.fillRanging)
    | (with_reducible refine Frame.mk_other ?_)
    | decide

/-- What `State.recordUnused` may write: register fields by number, memory at 1000. -/
def W.recordUnused : Nat := 0xc0000000000020000000000000000000000000000000000000000000000000072000000000000000000000000000000100000000002000000000000000000000000

theorem Frame.recordUnused {M : Nat} {s0 s : State} {t : Nat} {k : Nat} (hk0 : Frame M s0 s)
    (hL : W.recordUnused &&& M = W.recordUnused) : Frame M s0 (State.recordUnused s t k) := by
  unfold State.recordUnused
  try dsimp only
  repeat' first
    | (with_reducible assumption)
    | (split)
    | (with_reducible refine Frame.foldl ?_ ?_)
    | (exact Nat.zero_and _)
    | (exact Frame.sub hL (by decide))
    | (exact Frame.bitOf hL (by decide))
    | (intro u hu x hx)
    | (intro u hu)
    | (refine Frame.bitMem (by with_reducible assumption) ?_)
    | (refine Frame.sub_all hL (by first | decide | (simp only [List.map_cons, List.map_nil]; decide)))
    | (refine Frame.bitMemFst (by with_reducible assumption) ?_)
    | (with_reducible apply Frame.emit)
    | (with_reducible apply Frame.setTerm)
    | (with_reducible apply Frame.countOper)
    | (with_reducible apply Frame.treUsEvent)
    | decide

/-- What `State.termsLeave` may write: register fields by number, memory at 1000. -/
def W.termsLeave : Nat := 0xc0000000000020000000000000000000000000000000000000000000000000072000000000000000000000000004000100000000002000000000000000000000000

theorem Frame.termsLeave {M : Nat} {s0 s : State} {t : Nat} (hk0 : Frame M s0 s)
    (hL : W.termsLeave &&& M = W.termsLeave) : Frame M s0 (State.termsLeave s t) := by
  unfold State.termsLeave
  try dsimp only
  repeat' first
    | (with_reducible assumption)
    | (split)
    | (with_reducible refine Frame.foldl ?_ ?_)
    | (exact Nat.zero_and _)
    | (exact Frame.sub hL (by decide))
    | (exact Frame.bitOf hL (by decide))
    | (intro u hu x hx)
    | (intro u hu)
    | (refine Frame.bitMem (by with_reducible assumption) ?_)
    | (refine Frame.sub_all hL (by first | decide | (simp only [List.map_cons, List.map_nil]; decide)))
    | (refine Frame.bitMemFst (by with_reducible assumption) ?_)
    | (with_reducible apply Frame.emit)
    | (with_reducible apply Frame.dropReasm)
    | (with_reducible apply Frame.recordUnused)
    | (with_reducible apply Frame.setTerm)
    | (with_reducible apply Frame.forceAwake)
    | (with_reducible apply Frame.termState)
    | (with_reducible apply Frame.setShared)
    | (with_reducible apply Frame.askPloamu)
    | (with_reducible refine Frame.mk_other ?_)
    | decide

/-- What `State.dropStaged` may write: register fields by number, memory at 1000. -/
def W.dropStaged : Nat := 0x100000000000000000000000000000000000000000000000000000000000000000000000000000000000000000000000000000000000000000000000c0000000000020000000000000000000000000000000000000000000000000072401202800000000000000000000000000000000000000000000000000000000000

theorem Frame.dropStaged {M : Nat} {s0 s : State} {t : Nat} {which : Staged → Bool} {status : Nat} (hk0 : Frame M s0 s)
    (hL : W.dropStaged &&& M = W.dropStaged) : Frame M s0 (State.dropStaged s t which status) := by
  unfold State.dropStaged
  try dsimp only
  repeat' first
    | (with_reducible assumption)
    | (split)
    | (with_reducible refine Frame.foldl ?_ ?_)
    | (exact Nat.zero_and _)
    | (exact Frame.sub hL (by decide))
    | (exact Frame.bitOf hL (by decide))
    | (intro u hu x hx)
    | (intro u hu)
    | (refine Frame.bitMem (by with_reducible assumption) ?_)
    | (refine Frame.sub_all hL (by first | decide | (simp only [List.map_cons, List.map_nil]; decide)))
    | (refine Frame.bitMemFst (by with_reducible assumption) ?_)
    | (with_reducible apply Frame.emit)
    | (with_reducible apply Frame.setTree)
    | (with_reducible apply Frame.freeCells)
    | (with_reducible apply Frame.endFrame)
    | (with_reducible refine Frame.mk_other ?_)
    | decide

/-- What `State.dropInFlight` may write: register fields by number, memory at 1000. -/
def W.dropInFlight : Nat := 0x100000000000000000000000000000000000000000000000000000000000000000000000000000000000000000000000000000000000000000000000c0000000000020000000000000000000000000000000000000000000000000072401202800000000000000000000000000000000000000000000000000000000000

theorem Frame.dropInFlight {M : Nat} {s0 s : State} {t : Nat} {status : Nat} (hk0 : Frame M s0 s)
    (hL : W.dropInFlight &&& M = W.dropInFlight) : Frame M s0 (State.dropInFlight s t status) := by
  unfold State.dropInFlight
  try dsimp only
  repeat' first
    | (with_reducible assumption)
    | (split)
    | (with_reducible refine Frame.foldl ?_ ?_)
    | (exact Nat.zero_and _)
    | (exact Frame.sub hL (by decide))
    | (exact Frame.bitOf hL (by decide))
    | (intro u hu x hx)
    | (intro u hu)
    | (refine Frame.bitMem (by with_reducible assumption) ?_)
    | (refine Frame.sub_all hL (by first | decide | (simp only [List.map_cons, List.map_nil]; decide)))
    | (refine Frame.bitMemFst (by with_reducible assumption) ?_)
    | (with_reducible apply Frame.emit)
    | (with_reducible apply Frame.setTree)
    | (with_reducible apply Frame.freeCells)
    | (with_reducible apply Frame.endFrame)
    | (with_reducible refine Frame.fst ?_ (by with_reducible assumption))
    | (with_reducible refine Frame.snd ?_ (by with_reducible assumption))
    | (with_reducible refine Frame.mk_other ?_)
    | decide

/-- What `State.treeState` may write: register fields by number, memory at 1000. -/
def W.treeState : Nat := 0xc00000000000200000000000000000000000000000000000000000000000000720000000000000000000000000000000000000c2000200000000000000000000000

theorem Frame.treeState {M : Nat} {s0 s : State} {t : Nat} {st : Nat} (hk0 : Frame M s0 s)
    (hL : W.treeState &&& M = W.treeState) : Frame M s0 (State.treeState s t st) := by
  unfold State.treeState
  try dsimp only
  repeat' first
    | (with_reducible assumption)
    | (split)
    | (with_reducible refine Frame.foldl ?_ ?_)
    | (exact Nat.zero_and _)
    | (exact Frame.sub hL (by decide))
    | (exact Frame.bitOf hL (by decide))
    | (intro u hu x hx)
    | (intro u hu)
    | (refine Frame.bitMem (by with_reducible assumption) ?_)
    | (refine Frame.sub_all hL (by first | decide | (simp only [List.map_cons, List.map_nil]; decide)))
    | (refine Frame.bitMemFst (by with_reducible assumption) ?_)
    | (with_reducible refine Frame.wr ?_ ?_)
    | (with_reducible apply Frame.emit)
    | (with_reducible apply Frame.treEvent)
    | decide

/-- What `State.flagUntested` may write: register fields by number, memory at 1000. -/
def W.flagUntested : Nat := 0x200000

theorem Frame.flagUntested {M : Nat} {s0 s : State} (hk0 : Frame M s0 s)
    (hL : W.flagUntested &&& M = W.flagUntested) : Frame M s0 (State.flagUntested s) := by
  unfold State.flagUntested
  try dsimp only
  repeat' first
    | (with_reducible assumption)
    | (split)
    | (with_reducible refine Frame.foldl ?_ ?_)
    | (exact Nat.zero_and _)
    | (exact Frame.sub hL (by decide))
    | (exact Frame.bitOf hL (by decide))
    | (intro u hu x hx)
    | (intro u hu)
    | (refine Frame.bitMem (by with_reducible assumption) ?_)
    | (refine Frame.sub_all hL (by first | decide | (simp only [List.map_cons, List.map_nil]; decide)))
    | (refine Frame.bitMemFst (by with_reducible assumption) ?_)
    | (with_reducible apply Frame.emit)
    | (with_reducible apply Frame.wrB)
    | decide

/-- What `State.freeRetained` may write: register fields by number, memory at 1000. -/
def W.freeRetained : Nat := 0x200000

theorem Frame.freeRetained {M : Nat} {s0 s : State} (hk0 : Frame M s0 s)
    (hL : W.freeRetained &&& M = W.freeRetained) : Frame M s0 (State.freeRetained s) := by
  unfold State.freeRetained
  try dsimp only
  repeat' first
    | (with_reducible assumption)
    | (split)
    | (with_reducible refine Frame.foldl ?_ ?_)
    | (exact Nat.zero_and _)
    | (exact Frame.sub hL (by decide))
    | (exact Frame.bitOf hL (by decide))
    | (intro u hu x hx)
    | (intro u hu)
    | (refine Frame.bitMem (by with_reducible assumption) ?_)
    | (refine Frame.sub_all hL (by first | decide | (simp only [List.map_cons, List.map_nil]; decide)))
    | (refine Frame.bitMemFst (by with_reducible assumption) ?_)
    | (with_reducible apply Frame.emit)
    | (with_reducible apply Frame.putCp)
    | (with_reducible apply Frame.flagUntested)
    | (with_reducible refine Frame.mk_other ?_)
    | decide

/-- What `State.cancelStart` may write: register fields by number, memory at 1000. -/
def W.cancelStart : Nat := 0x100000000000000000000000000000000000000000000000000000000000000000000000000000000000000000000000000000000000000000000000c0000000000021800000000000000000000000000000000000042d00000000072401302a00000000000000000000000000000000000000000000000000000200000

theorem Frame.cancelStart {M : Nat} {s0 s : State} {t : Nat} (hk0 : Frame M s0 s)
    (hL : W.cancelStart &&& M = W.cancelStart) : Frame M s0 (State.cancelStart s t) := by
  unfold State.cancelStart
  try dsimp only
  repeat' first
    | (with_reducible assumption)
    | (split)
    | (with_reducible refine Frame.foldl ?_ ?_)
    | (exact Nat.zero_and _)
    | (exact Frame.sub hL (by decide))
    | (exact Frame.bitOf hL (by decide))
    | (intro u hu x hx)
    | (intro u hu)
    | (refine Frame.bitMem (by with_reducible assumption) ?_)
    | (refine Frame.sub_all hL (by first | decide | (simp only [List.map_cons, List.map_nil]; decide)))
    | (refine Frame.bitMemFst (by with_reducible assumption) ?_)
    | (with_reducible apply Frame.emit)
    | (with_reducible apply Frame.setTree)
    | (with_reducible apply Frame.freeRetained)
    | (with_reducible apply Frame.answerLater)
    | (with_reducible refine Frame.fst ?_ (by with_reducible assumption))
    | (with_reducible refine Frame.snd ?_ (by with_reducible assumption))
    | (with_reducible refine Frame.mk_other ?_)
    | decide

/-- What `State.idleFill` may write: register fields by number, memory at 1000. -/
def W.idleFill : Nat := 0xc0000000000020000000000000000000000000000000000000000000000000072000000000000000000000000000000000000000000000000000000000000000000

theorem Frame.idleFill {M : Nat} {s0 s : State} {t : Nat} {n : Nat} (hk0 : Frame M s0 s)
    (hL : W.idleFill &&& M = W.idleFill) : Frame M s0 (State.idleFill s t n) := by
  unfold State.idleFill
  try dsimp only
  repeat' first
    | (with_reducible assumption)
    | (split)
    | (with_reducible refine Frame.foldl ?_ ?_)
    | (exact Nat.zero_and _)
    | (exact Frame.sub hL (by decide))
    | (exact Frame.bitOf hL (by decide))
    | (intro u hu x hx)
    | (intro u hu)
    | (refine Frame.bitMem (by with_reducible assumption) ?_)
    | (refine Frame.sub_all hL (by first | decide | (simp only [List.map_cons, List.map_nil]; decide)))
    | (refine Frame.bitMemFst (by with_reducible assumption) ?_)
    | (with_reducible apply Frame.emit)
    | (with_reducible apply Frame.setTree)
    | (with_reducible apply Frame.blockEvent)
    | (with_reducible refine Frame.mk_other ?_)
    | decide

/-- What `State.endFsFrame` may write: register fields by number, memory at 1000. -/
def W.endFsFrame : Nat := 0xc0000000000020000000000000000000000000000000000000000000000000072000000000000000000000000000000000000000000000000000000000000000000

theorem Frame.endFsFrame {M : Nat} {s0 s : State} {t : Nat} (hk0 : Frame M s0 s)
    (hL : W.endFsFrame &&& M = W.endFsFrame) : Frame M s0 (State.endFsFrame s t) := by
  unfold State.endFsFrame
  try dsimp only
  repeat' first
    | (with_reducible assumption)
    | (split)
    | (with_reducible refine Frame.foldl ?_ ?_)
    | (exact Nat.zero_and _)
    | (exact Frame.sub hL (by decide))
    | (exact Frame.bitOf hL (by decide))
    | (intro u hu x hx)
    | (intro u hu)
    | (refine Frame.bitMem (by with_reducible assumption) ?_)
    | (refine Frame.sub_all hL (by first | decide | (simp only [List.map_cons, List.map_nil]; decide)))
    | (refine Frame.bitMemFst (by with_reducible assumption) ?_)
    | (with_reducible apply Frame.emit)
    | (with_reducible apply Frame.idleFill)
    | decide

/-- What `State.treeStop` may write: register fields by number, memory at 1000. -/
def W.treeStop : Nat := 0x0

theorem Frame.treeStop {M : Nat} {s0 s : State} {t : Nat} (hk0 : Frame M s0 s)
    (_hL : W.treeStop &&& M = W.treeStop) : Frame M s0 (State.treeStop s t) := by
  unfold State.treeStop
  try dsimp only
  repeat' first
    | (with_reducible assumption)
    | (split)
    | (with_reducible refine Frame.foldl ?_ ?_)
    | (exact Nat.zero_and _)
    | (intro u hu x hx)
    | (intro u hu)
    | (refine Frame.bitMem (by with_reducible assumption) ?_)
    | (refine Frame.bitMemFst (by with_reducible assumption) ?_)
    | (with_reducible apply Frame.emit)
    | (with_reducible apply Frame.ploamClear)
    | (with_reducible apply Frame.setTree)
    | (with_reducible refine Frame.mk_other ?_)
    | decide

/-- What `State.treeFault` may write: register fields by number, memory at 1000. -/
def W.treeFault : Nat := 0x100000000000000000000000000000000000000000000000000000000000000000000000000000000000000000000000000000000000000000000000c0000000000021800000000000000000000000000000000000042d00000000072401302a000000000000000000040001000000c6002600000000000000000200000

theorem Frame.treeFault {M : Nat} {s0 s : State} {t : Nat} {cause : Nat} (hk0 : Frame M s0 s)
    (hL : W.treeFault &&& M = W.treeFault) : Frame M s0 (State.treeFault s t cause) := by
  unfold State.treeFault
  try dsimp only
  repeat' first
    | (with_reducible assumption)
    | (split)
    | (with_reducible refine Frame.foldl ?_ ?_)
    | (exact Nat.zero_and _)
    | (exact Frame.sub hL (by decide))
    | (exact Frame.bitOf hL (by decide))
    | (intro u hu x hx)
    | (intro u hu)
    | (refine Frame.bitMem (by with_reducible assumption) ?_)
    | (refine Frame.sub_all hL (by first | decide | (simp only [List.map_cons, List.map_nil]; decide)))
    | (refine Frame.bitMemFst (by with_reducible assumption) ?_)
    | (with_reducible refine Frame.wr ?_ ?_)
    | (with_reducible apply Frame.emit)
    | (with_reducible apply Frame.cancelStart)
    | (with_reducible apply Frame.treeStop)
    | (with_reducible apply Frame.treeState)
    | (with_reducible apply Frame.treEvent)
    | (with_reducible apply Frame.termsLeave)
    | (with_reducible apply Frame.setTreeU)
    | (with_reducible refine Frame.mk_other ?_)
    | decide

/-- What `State.sdShows` may write: register fields by number, memory at 1000. -/
def W.sdShows : Nat := 0x0

theorem Frame.sdShows {M : Nat} {s0 s : State} {t : Nat} {light : Bool} (hk0 : Frame M s0 s)
    (_hL : W.sdShows &&& M = W.sdShows) : Frame M s0 (State.sdShows s t light) := by
  unfold State.sdShows
  try dsimp only
  repeat' first
    | (with_reducible assumption)
    | (split)
    | (with_reducible refine Frame.foldl ?_ ?_)
    | (exact Nat.zero_and _)
    | (intro u hu x hx)
    | (intro u hu)
    | (refine Frame.bitMem (by with_reducible assumption) ?_)
    | (refine Frame.bitMemFst (by with_reducible assumption) ?_)
    | (with_reducible apply Frame.emit)
    | (with_reducible apply Frame.putBnd)
    | (with_reducible refine Frame.mk_other ?_)
    | decide

/-- What `State.zeroTail` may write: register fields by number, memory at 1000. -/
def W.zeroTail : Nat := 0x0

theorem Frame.zeroTail {M : Nat} {s0 s : State} {t : Nat} {x : InFlight} (hk0 : Frame M s0 s)
    (_hL : W.zeroTail &&& M = W.zeroTail) : Frame M s0 (State.zeroTail s t x) := by
  unfold State.zeroTail
  try dsimp only
  repeat' first
    | (with_reducible assumption)
    | (split)
    | (with_reducible refine Frame.foldl ?_ ?_)
    | (exact Nat.zero_and _)
    | (intro u hu x hx)
    | (intro u hu)
    | (refine Frame.bitMem (by with_reducible assumption) ?_)
    | (refine Frame.bitMemFst (by with_reducible assumption) ?_)
    | (with_reducible apply Frame.emit)
    | (with_reducible apply Frame.tickFree)
    | decide

/-- What `State.cutInFlight` may write: register fields by number, memory at 1000. -/
def W.cutInFlight : Nat := 0x100000000000000000000000000000000000000000000000000000000000000000000000000000000000000000000000000000000000000000000000c0000000000020000000000000000000000000000000000000000000000000072401202800000000000000000000000000004000000000000000000000000000000

theorem Frame.cutInFlight {M : Nat} {s0 s : State} {h : Nat} {which : Bool → Bool} (hk0 : Frame M s0 s)
    (hL : W.cutInFlight &&& M = W.cutInFlight) : Frame M s0 (State.cutInFlight s h which) := by
  unfold State.cutInFlight
  try dsimp only
  repeat' first
    | (with_reducible assumption)
    | (split)
    | (with_reducible refine Frame.foldl ?_ ?_)
    | (exact Nat.zero_and _)
    | (exact Frame.sub hL (by decide))
    | (exact Frame.bitOf hL (by decide))
    | (intro u hu x hx)
    | (intro u hu)
    | (refine Frame.bitMem (by with_reducible assumption) ?_)
    | (refine Frame.sub_all hL (by first | decide | (simp only [List.map_cons, List.map_nil]; decide)))
    | (refine Frame.bitMemFst (by with_reducible assumption) ?_)
    | (with_reducible apply Frame.emit)
    | (with_reducible apply Frame.zeroTail)
    | (with_reducible apply Frame.dropInFlight)
    | (with_reducible apply Frame.incSat)
    | (with_reducible refine Frame.fst ?_ (by with_reducible assumption))
    | (with_reducible refine Frame.snd ?_ (by with_reducible assumption))
    | (with_reducible refine Frame.mk_other ?_)
    | decide

/-- What `State.dropDecrypted` may write: register fields by number, memory at 1000. -/
def W.dropDecrypted : Nat := 0x10000000000000000000000000000000000000000

theorem Frame.dropDecrypted {M : Nat} {s0 s : State} {h : Nat} (hk0 : Frame M s0 s)
    (hL : W.dropDecrypted &&& M = W.dropDecrypted) : Frame M s0 (State.dropDecrypted s h) := by
  unfold State.dropDecrypted
  try dsimp only
  repeat' first
    | (with_reducible assumption)
    | (split)
    | (with_reducible refine Frame.foldl ?_ ?_)
    | (exact Nat.zero_and _)
    | (exact Frame.sub hL (by decide))
    | (exact Frame.bitOf hL (by decide))
    | (intro u hu x hx)
    | (intro u hu)
    | (refine Frame.bitMem (by with_reducible assumption) ?_)
    | (refine Frame.sub_all hL (by first | decide | (simp only [List.map_cons, List.map_nil]; decide)))
    | (refine Frame.bitMemFst (by with_reducible assumption) ?_)
    | (with_reducible apply Frame.emit)
    | (with_reducible apply Frame.putReasms)
    | (with_reducible apply Frame.freeCells)
    | (with_reducible apply Frame.incSat)
    | decide

/-- What `State.eraseSlot` may write: register fields by number, memory at 1000. -/
def W.eraseSlot : Nat := 0x100000000000000000000000000000000000000000000000000000000000000000000000000000000000000000000000000000000000000000000000c0000000000020000000000000000000000000000000000000000000000000072401202800000000000000000010000000004020000000000000000000000000000

theorem Frame.eraseSlot {M : Nat} {s0 s : State} {h : Nat} (hk0 : Frame M s0 s)
    (hL : W.eraseSlot &&& M = W.eraseSlot) : Frame M s0 (State.eraseSlot s h) := by
  unfold State.eraseSlot
  try dsimp only
  repeat' first
    | (with_reducible assumption)
    | (split)
    | (with_reducible refine Frame.foldl ?_ ?_)
    | (exact Nat.zero_and _)
    | (exact Frame.sub hL (by decide))
    | (exact Frame.bitOf hL (by decide))
    | (intro u hu x hx)
    | (intro u hu)
    | (refine Frame.bitMem (by with_reducible assumption) ?_)
    | (refine Frame.sub_all hL (by first | decide | (simp only [List.map_cons, List.map_nil]; decide)))
    | (refine Frame.bitMemFst (by with_reducible assumption) ?_)
    | (with_reducible apply Frame.emit)
    | (with_reducible apply Frame.setSlot)
    | (with_reducible apply Frame.cutInFlight)
    | (with_reducible apply Frame.dropDecrypted)
    | (with_reducible apply Frame.treEvent)
    | (with_reducible refine Frame.mk_other ?_)
    | decide

/-- What `State.unbindSlot` may write: register fields by number, memory at 1000. -/
def W.unbindSlot : Nat := 0x400000000000000000000000000

theorem Frame.unbindSlot {M : Nat} {s0 s : State} {h : Nat} (hk0 : Frame M s0 s)
    (hL : W.unbindSlot &&& M = W.unbindSlot) : Frame M s0 (State.unbindSlot s h) := by
  unfold State.unbindSlot
  try dsimp only
  repeat' first
    | (with_reducible assumption)
    | (split)
    | (with_reducible refine Frame.foldl ?_ ?_)
    | (exact Nat.zero_and _)
    | (exact Frame.sub hL (by decide))
    | (exact Frame.bitOf hL (by decide))
    | (intro u hu x hx)
    | (intro u hu)
    | (refine Frame.bitMem (by with_reducible assumption) ?_)
    | (refine Frame.sub_all hL (by first | decide | (simp only [List.map_cons, List.map_nil]; decide)))
    | (refine Frame.bitMemFst (by with_reducible assumption) ?_)
    | (with_reducible refine Frame.wr ?_ ?_)
    | (with_reducible apply Frame.emit)
    | (with_reducible apply Frame.setSlot)
    | (with_reducible apply Frame.setTerm)
    | (with_reducible refine Frame.mk_other ?_)
    | decide

end Sys2Proof.Machine
end

