-- ==== Sys2Proof/Laws/FrameRxOps.lean ====
section
/-! SUPPORT. Which registers, and whether the memories, the operations of RxOps may write (Laws/Frame.lean). -/

namespace Sys2Proof.Machine

set_option Elab.async false
set_option linter.all false

/-- What `State.rxWriteFrom` may write: register fields by number, memory at 1000. -/
def W.rxWriteFrom : Nat := 0x100000000000000000000000000000000000000000000000000000000000000000000000000000000000000000000000000000000000000000000000c0000000000020000000000000000000000000000000000000000000000000072401202a00000000000000000000000000000000000000000000000000000000000

theorem Frame.rxWriteFrom_at {s0 s : State} {r : Nat} {f : RxFrame} {size n k : Nat} (h : Frame W.rxWriteFrom s0 s) :
    Frame W.rxWriteFrom s0 (State.rxWriteFrom s r f size n k) := by
  induction n generalizing s k with
  | zero => exact h
  | succ n ih =>
    unfold State.rxWriteFrom
    exact ih (Frame.writeCompletion (hL := by decide) (Frame.advanceHead (hL := by decide) (Frame.hostWrite h _ _)))

theorem Frame.rxWriteFrom {M : Nat} {s0 s : State} {r : Nat} {f : RxFrame} {size n k : Nat} (hk0 : Frame M s0 s) (hL : W.rxWriteFrom &&& M = W.rxWriteFrom) :
    Frame M s0 (State.rxWriteFrom s r f size n k) := hk0.trans ((Frame.rxWriteFrom_at (Frame.refl _ _) ).mono hL)

/-- What `State.rxWrite` may write: register fields by number, memory at 1000. -/
def W.rxWrite : Nat := 0x100000000000000000000000000000000000000000000000000000000000000000000000000000000000000000000000000000000000000000000000c0000000000020000000000000000000000000000000000000000000000000072401202a00000000000000000000000000000000000000000000000000000000000

theorem Frame.rxWrite {M : Nat} {s0 s : State} {r : Nat} {f : RxFrame} (hk0 : Frame M s0 s)
    (hL : W.rxWrite &&& M = W.rxWrite) : Frame M s0 (State.rxWrite s r f) := by
  unfold State.rxWrite
  try dsimp only
  repeat' first
    | (with_reducible assumption)
    | (split)
    | (with_reducible refine Frame.foldl ?_ ?_)
    | (exact Nat.zero_and _)
    | (exact Frame.sub hL (by decide))
    | (exact Frame.bitOf hL (by decide))
    | (intro u hu x hx)
    | (intro u hu)
    | (refine Frame.bitMem (by with_reducible assumption) ?_)
    | (refine Frame.sub_all hL (by first | decide | (simp only [List.map_cons, List.map_nil]; decide)))
    | (refine Frame.bitMemFst (by with_reducible assumption) ?_)
    | (with_reducible apply Frame.emit)
    | (with_reducible apply Frame.writeFailed)
    | (with_reducible apply Frame.rxWriteFrom)
    | (with_reducible apply Frame.freeCells)
    | decide

/-- What `State.rxFind` may write: register fields by number, memory at 1000. -/
def W.rxFind : Nat := 0x100000000000000000000000000000000000000000000000000000000000000

theorem Frame.rxFind {M : Nat} {s0 s : State} {r : Nat} {need : Nat} (hk0 : Frame M s0 s)
    (hL : W.rxFind &&& M = W.rxFind) : Frame M s0 (State.rxFind s r need).2 := by
  unfold State.rxFind
  try dsimp only
  repeat' first
    | (with_reducible assumption)
    | (split)
    | (with_reducible refine Frame.foldl ?_ ?_)
    | (exact Nat.zero_and _)
    | (exact Frame.sub hL (by decide))
    | (exact Frame.bitOf hL (by decide))
    | (intro u hu x hx)
    | (intro u hu)
    | (refine Frame.bitMem (by with_reducible assumption) ?_)
    | (refine Frame.sub_all hL (by first | decide | (simp only [List.map_cons, List.map_nil]; decide)))
    | (refine Frame.bitMemFst (by with_reducible assumption) ?_)
    | (with_reducible apply Frame.emit)
    | (with_reducible apply Frame.foundEarly)
    | (with_reducible refine Frame.fst ?_ (by with_reducible assumption))
    | (with_reducible refine Frame.snd ?_ (by with_reducible assumption))
    | (with_reducible refine Frame.mk_other ?_)
    | decide

/-- What `State.rxClaim` may write: register fields by number, memory at 1000. -/
def W.rxClaim : Nat := 0x100000000000000000000000000000000000000000000000000000000000000

theorem Frame.rxClaim {M : Nat} {s0 s : State} {r : Nat} {need : Nat} (hk0 : Frame M s0 s)
    (hL : W.rxClaim &&& M = W.rxClaim) : Frame M s0 (State.rxClaim s r need).2 := by
  unfold State.rxClaim
  try dsimp only
  repeat' first
    | (with_reducible assumption)
    | (split)
    | (with_reducible refine Frame.foldl ?_ ?_)
    | (exact Nat.zero_and _)
    | (exact Frame.sub hL (by decide))
    | (exact Frame.bitOf hL (by decide))
    | (intro u hu x hx)
    | (intro u hu)
    | (refine Frame.bitMem (by with_reducible assumption) ?_)
    | (refine Frame.sub_all hL (by first | decide | (simp only [List.map_cons, List.map_nil]; decide)))
    | (refine Frame.bitMemFst (by with_reducible assumption) ?_)
    | (with_reducible apply Frame.emit)
    | (with_reducible apply Frame.rxFind)
    | (with_reducible refine Frame.fst ?_ (by with_reducible assumption))
    | (with_reducible refine Frame.snd ?_ (by with_reducible assumption))
    | decide

/-- What `State.nextFseq` may write: register fields by number, memory at 1000. -/
def W.nextFseq : Nat := 0x0

theorem Frame.nextFseq {M : Nat} {s0 s : State} {r : Nat} (hk0 : Frame M s0 s)
    (_hL : W.nextFseq &&& M = W.nextFseq) : Frame M s0 (State.nextFseq s r).2 := by
  unfold State.nextFseq
  try dsimp only
  repeat' first
    | (with_reducible assumption)
    | (split)
    | (with_reducible refine Frame.foldl ?_ ?_)
    | (exact Nat.zero_and _)
    | (intro u hu x hx)
    | (intro u hu)
    | (refine Frame.bitMem (by with_reducible assumption) ?_)
    | (refine Frame.bitMemFst (by with_reducible assumption) ?_)
    | (with_reducible apply Frame.emit)
    | (with_reducible apply Frame.setRing)
    | (with_reducible refine Frame.mk_other ?_)
    | decide

/-- What `State.copyCells` may write: register fields by number, memory at 1000. -/
def W.copyCells : Nat := 0xc0000000000020000000000000000000000000000000000000000000000000072000000000000000000000000000000000000000000000000000000000000000000

theorem Frame.copyCells_at {s0 s t : State} {f : RxFrame} {id : Nat} (h : Frame W.copyCells s0 s) (e : s.copyCells f = some (id, t)) : Frame W.copyCells s0 t := by
  unfold State.copyCells at e
  split at e
  · simp only [Option.some.injEq, Prod.mk.injEq] at e
    obtain ⟨_, rfl⟩ := e
    exact Frame.holdCells (_hL := by decide) h
  · exact Frame.takeCells (hL := by decide) h e

theorem Frame.copyCells {M : Nat} {s0 s t : State} {f : RxFrame} {id : Nat} (hk0 : Frame M s0 s) (e : s.copyCells f = some (id, t)) (hL : W.copyCells &&& M = W.copyCells) :
    Frame M s0 t := hk0.trans ((Frame.copyCells_at (Frame.refl _ _) e).mono hL)

/-- What `State.rxOffer` may write: register fields by number, memory at 1000. -/
def W.rxOffer : Nat := 0xc0000000000020000000000000000000000000000000000000000000000000072002040000000000000000000000000000000000000000000000000000000000000

theorem Frame.rxOffer {M : Nat} {s0 s : State} {r : Nat} {f : RxFrame} (hk0 : Frame M s0 s)
    (hL : W.rxOffer &&& M = W.rxOffer) : Frame M s0 (State.rxOffer s r f) := by
  unfold State.rxOffer
  try dsimp only
  repeat' first
    | (with_reducible assumption)
    | (split)
    | (with_reducible refine Frame.foldl ?_ ?_)
    | (exact Nat.zero_and _)
    | (exact Frame.sub hL (by decide))
    | (exact Frame.bitOf hL (by decide))
    | (intro u hu x hx)
    | (intro u hu)
    | (refine Frame.bitMem (by with_reducible assumption) ?_)
    | (refine Frame.sub_all hL (by first | decide | (simp only [List.map_cons, List.map_nil]; decide)))
    | (refine Frame.bitMemFst (by with_reducible assumption) ?_)
    | (with_reducible apply Frame.emit)
    | (with_reducible apply Frame.incSat)
    | (with_reducible apply Frame.addCnt)
    | (with_reducible apply Frame.nextFseq)
    | (with_reducible refine Frame.copyCells ?_ (by with_reducible assumption) ?_)
    | (with_reducible apply Frame.setRing)
    | (with_reducible apply Frame.incWrap)
    | (with_reducible refine Frame.fst ?_ (by with_reducible assumption))
    | (with_reducible refine Frame.snd ?_ (by with_reducible assumption))
    | (with_reducible refine Frame.mk_other ?_)
    | decide

/-- What `State.bittern` may write: register fields by number, memory at 1000. -/
def W.bittern : Nat := 0x100000000000000000000000000000000000000000000000000000000000000000000000000000000000000000000000000000000000000000000000c000000000002180000000000000000000000000000000000000000000000007240131aa00000000000000000000000000000000000000000000000000000000000

theorem Frame.bittern {M : Nat} {s0 s : State} {t : Nat} {f : RxFrame} (hk0 : Frame M s0 s)
    (hL : W.bittern &&& M = W.bittern) : Frame M s0 (State.bittern s t f) := by
  unfold State.bittern
  try dsimp only
  repeat' first
    | (with_reducible assumption)
    | (split)
    | (with_reducible refine Frame.foldl ?_ ?_)
    | (exact Nat.zero_and _)
    | (exact Frame.sub hL (by decide))
    | (exact Frame.bitOf hL (by decide))
    | (intro u hu x hx)
    | (intro u hu)
    | (refine Frame.bitMem (by with_reducible assumption) ?_)
    | (refine Frame.sub_all hL (by first | decide | (simp only [List.map_cons, List.map_nil]; decide)))
    | (refine Frame.bitMemFst (by with_reducible assumption) ?_)
    | (with_reducible apply Frame.emit)
    | (with_reducible apply Frame.nextFseq)
    | (with_reducible apply Frame.incWrap)
    | (with_reducible apply Frame.rxClaim)
    | (with_reducible apply Frame.cellRead)
    | (with_reducible apply Frame.holdCells)
    | (with_reducible apply Frame.rxWrite)
    | (with_reducible refine Frame.fst ?_ (by with_reducible assumption))
    | (with_reducible refine Frame.snd ?_ (by with_reducible assumption))
    | (with_reducible refine Frame.mk_other ?_)
    | decide

end Sys2Proof.Machine
end

