-- ==== Sys2Proof/Laws/FrameTableOps.lean ====
section
/-! SUPPORT. Which registers, and whether the memories, the operations of TableOps may write (Laws/Frame.lean). -/

namespace Sys2Proof.Machine

set_option Elab.async false
set_option linter.all false

/-- What `State.setTabs` may write: register fields by number, memory at 1000. -/
def W.setTabs : Nat := 0x0

theorem Frame.setTabs {M : Nat} {s0 s : State} {f : Tables → Tables} (hk0 : Frame M s0 s)
    (_hL : W.setTabs &&& M = W.setTabs) : Frame M s0 (State.setTabs s f) := by
  unfold State.setTabs
  try dsimp only
  repeat' first
    | (with_reducible assumption)
    | (split)
    | (with_reducible refine Frame.foldl ?_ ?_)
    | (exact Nat.zero_and _)
    | (intro u hu x hx)
    | (intro u hu)
    | (refine Frame.bitMem (by with_reducible assumption) ?_)
    | (refine Frame.bitMemFst (by with_reducible assumption) ?_)
    | (with_reducible apply Frame.emit)
    | (with_reducible refine Frame.mk_other ?_)
    | decide

/-- What `State.putLines` may write: register fields by number, memory at 1000. -/
def W.putLines : Nat := 0x0

theorem Frame.putLines {M : Nat} {s0 s : State} {k : Nat} {l : List CacheLine} (hk0 : Frame M s0 s)
    (_hL : W.putLines &&& M = W.putLines) : Frame M s0 (State.putLines s k l) := by
  unfold State.putLines
  try dsimp only
  repeat' first
    | (with_reducible assumption)
    | (split)
    | (with_reducible refine Frame.foldl ?_ ?_)
    | (exact Nat.zero_and _)
    | (intro u hu x hx)
    | (intro u hu)
    | (refine Frame.bitMem (by with_reducible assumption) ?_)
    | (refine Frame.bitMemFst (by with_reducible assumption) ?_)
    | (with_reducible apply Frame.emit)
    | (with_reducible apply Frame.setTabs)
    | (with_reducible refine Frame.mk_other ?_)
    | decide

/-- What `State.storeHit` may write: register fields by number, memory at 1000. -/
def W.storeHit : Nat := 0x0

theorem Frame.storeHit {M : Nat} {s0 s : State} {l : CacheLine} (hk0 : Frame M s0 s)
    (_hL : W.storeHit &&& M = W.storeHit) : Frame M s0 (State.storeHit s l) := by
  unfold State.storeHit
  try dsimp only
  repeat' first
    | (with_reducible assumption)
    | (split)
    | (with_reducible refine Frame.foldl ?_ ?_)
    | (exact Nat.zero_and _)
    | (intro u hu x hx)
    | (intro u hu)
    | (refine Frame.bitMem (by with_reducible assumption) ?_)
    | (refine Frame.bitMemFst (by with_reducible assumption) ?_)
    | (with_reducible apply Frame.emit)
    | (with_reducible apply Frame.setTabs)
    | (with_reducible apply Frame.rewrite)
    | (with_reducible refine Frame.fst ?_ (by with_reducible assumption))
    | (with_reducible refine Frame.snd ?_ (by with_reducible assumption))
    | (with_reducible refine Frame.mk_other ?_)
    | decide

/-- What `State.cacheTouch` may write: register fields by number, memory at 1000. -/
def W.cacheTouch : Nat := 0x0

theorem Frame.cacheTouch {M : Nat} {s0 s : State} {k : Nat} (hk0 : Frame M s0 s)
    (_hL : W.cacheTouch &&& M = W.cacheTouch) : Frame M s0 (State.cacheTouch s k) := by
  unfold State.cacheTouch
  try dsimp only
  repeat' first
    | (with_reducible assumption)
    | (split)
    | (with_reducible refine Frame.foldl ?_ ?_)
    | (exact Nat.zero_and _)
    | (intro u hu x hx)
    | (intro u hu)
    | (refine Frame.bitMem (by with_reducible assumption) ?_)
    | (refine Frame.bitMemFst (by with_reducible assumption) ?_)
    | (with_reducible apply Frame.emit)
    | (with_reducible apply Frame.putLines)
    | (with_reducible apply Frame.storeHit)
    | (with_reducible apply Frame.rewriteWord)
    | (with_reducible refine Frame.fst ?_ (by with_reducible assumption))
    | (with_reducible refine Frame.snd ?_ (by with_reducible assumption))
    | (with_reducible refine Frame.mk_other ?_)
    | decide

/-- What `State.cacheDrop` may write: register fields by number, memory at 1000. -/
def W.cacheDrop : Nat := 0x0

theorem Frame.cacheDrop {M : Nat} {s0 s : State} {k : Nat} (hk0 : Frame M s0 s)
    (_hL : W.cacheDrop &&& M = W.cacheDrop) : Frame M s0 (State.cacheDrop s k) := by
  unfold State.cacheDrop
  try dsimp only
  repeat' first
    | (with_reducible assumption)
    | (split)
    | (with_reducible refine Frame.foldl ?_ ?_)
    | (exact Nat.zero_and _)
    | (intro u hu x hx)
    | (intro u hu)
    | (refine Frame.bitMem (by with_reducible assumption) ?_)
    | (refine Frame.bitMemFst (by with_reducible assumption) ?_)
    | (with_reducible apply Frame.emit)
    | (with_reducible apply Frame.putLines)
    | decide

/-- What `State.lineHit` may write: register fields by number, memory at 1000. -/
def W.lineHit : Nat := 0x0

theorem Frame.lineHit {M : Nat} {s0 s : State} {k : Nat} {h : Bool} (hk0 : Frame M s0 s)
    (_hL : W.lineHit &&& M = W.lineHit) : Frame M s0 (State.lineHit s k h) := by
  unfold State.lineHit
  try dsimp only
  repeat' first
    | (with_reducible assumption)
    | (split)
    | (with_reducible refine Frame.foldl ?_ ?_)
    | (exact Nat.zero_and _)
    | (intro u hu x hx)
    | (intro u hu)
    | (refine Frame.bitMem (by with_reducible assumption) ?_)
    | (refine Frame.bitMemFst (by with_reducible assumption) ?_)
    | (with_reducible apply Frame.emit)
    | (with_reducible apply Frame.putLines)
    | (with_reducible refine Frame.mk_other ?_)
    | decide

/-- What `State.wordWritten` may write: register fields by number, memory at 1000. -/
def W.wordWritten : Nat := 0x0

theorem Frame.wordWritten {M : Nat} {s0 s : State} {p : Key} (hk0 : Frame M s0 s)
    (_hL : W.wordWritten &&& M = W.wordWritten) : Frame M s0 (State.wordWritten s p) := by
  unfold State.wordWritten
  try dsimp only
  repeat' first
    | (with_reducible assumption)
    | (split)
    | (with_reducible refine Frame.foldl ?_ ?_)
    | (exact Nat.zero_and _)
    | (intro u hu x hx)
    | (intro u hu)
    | (refine Frame.bitMem (by with_reducible assumption) ?_)
    | (refine Frame.bitMemFst (by with_reducible assumption) ?_)
    | (with_reducible apply Frame.emit)
    | (with_reducible apply Frame.rewrite)
    | decide

/-- What `State.putEntry` may write: register fields by number, memory at 1000. -/
def W.putEntry : Nat := 0x0

theorem Frame.putEntry {M : Nat} {s0 s : State} {p : Key} {e : TblEntry} (hk0 : Frame M s0 s)
    (_hL : W.putEntry &&& M = W.putEntry) : Frame M s0 (State.putEntry s p e) := by
  unfold State.putEntry
  try dsimp only
  repeat' first
    | (with_reducible assumption)
    | (split)
    | (with_reducible refine Frame.foldl ?_ ?_)
    | (exact Nat.zero_and _)
    | (intro u hu x hx)
    | (intro u hu)
    | (refine Frame.bitMem (by with_reducible assumption) ?_)
    | (refine Frame.bitMemFst (by with_reducible assumption) ?_)
    | (with_reducible apply Frame.emit)
    | (with_reducible apply Frame.setTabs)
    | (with_reducible apply Frame.wordWritten)
    | (with_reducible apply Frame.lineHit)
    | (with_reducible apply Frame.cacheTouch)
    | (with_reducible refine Frame.mk_other ?_)
    | decide

/-- What `State.delEntry` may write: register fields by number, memory at 1000. -/
def W.delEntry : Nat := 0x0

theorem Frame.delEntry {M : Nat} {s0 s : State} {p : Key} (hk0 : Frame M s0 s)
    (_hL : W.delEntry &&& M = W.delEntry) : Frame M s0 (State.delEntry s p) := by
  unfold State.delEntry
  try dsimp only
  repeat' first
    | (with_reducible assumption)
    | (split)
    | (with_reducible refine Frame.foldl ?_ ?_)
    | (exact Nat.zero_and _)
    | (intro u hu x hx)
    | (intro u hu)
    | (refine Frame.bitMem (by with_reducible assumption) ?_)
    | (refine Frame.bitMemFst (by with_reducible assumption) ?_)
    | (with_reducible apply Frame.emit)
    | (with_reducible apply Frame.cacheDrop)
    | (with_reducible apply Frame.setTabs)
    | (with_reducible apply Frame.wordWritten)
    | (with_reducible refine Frame.fst ?_ (by with_reducible assumption))
    | (with_reducible refine Frame.snd ?_ (by with_reducible assumption))
    | (with_reducible refine Frame.mk_other ?_)
    | decide

/-- What `State.correctWords` may write: register fields by number, memory at 1000. -/
def W.correctWords : Nat := 0x0

theorem Frame.correctWords {M : Nat} {s0 s : State} {c : Nat} {b : Nat} {slots : List Nat} (hk0 : Frame M s0 s)
    (_hL : W.correctWords &&& M = W.correctWords) : Frame M s0 (State.correctWords s c b slots) := by
  unfold State.correctWords
  try dsimp only
  repeat' first
    | (with_reducible assumption)
    | (split)
    | (with_reducible refine Frame.foldl ?_ ?_)
    | (exact Nat.zero_and _)
    | (intro u hu x hx)
    | (intro u hu)
    | (refine Frame.bitMem (by with_reducible assumption) ?_)
    | (refine Frame.bitMemFst (by with_reducible assumption) ?_)
    | (with_reducible apply Frame.emit)
    | (with_reducible apply Frame.corrected)
    | (with_reducible apply Frame.rewriteWord)
    | decide

/-- What `State.logWords` may write: register fields by number, memory at 1000. -/
def W.logWords : Nat := 0xc0000000000021800000000000000000000000000000000000000000000000072000000000000000000000000000000000000000000000000000000000000000000

theorem Frame.logWords {M : Nat} {s0 s : State} {c : Nat} {b : Nat} {outcome : Nat} {bad : List Nat} (hk0 : Frame M s0 s)
    (hL : W.logWords &&& M = W.logWords) : Frame M s0 (State.logWords s c b outcome bad) := by
  unfold State.logWords
  try dsimp only
  repeat' first
    | (with_reducible assumption)
    | (split)
    | (with_reducible refine Frame.foldl ?_ ?_)
    | (exact Nat.zero_and _)
    | (exact Frame.sub hL (by decide))
    | (exact Frame.bitOf hL (by decide))
    | (intro u hu x hx)
    | (intro u hu)
    | (refine Frame.bitMem (by with_reducible assumption) ?_)
    | (refine Frame.sub_all hL (by first | decide | (simp only [List.map_cons, List.map_nil]; decide)))
    | (refine Frame.bitMemFst (by with_reducible assumption) ?_)
    | (with_reducible apply Frame.emit)
    | (with_reducible apply Frame.logUe)
    | (with_reducible apply Frame.rewriteWord)
    | decide

/-- What `State.copyRead` may write: register fields by number, memory at 1000. -/
def W.copyRead : Nat := 0xc0000000000021800000000000000000000000000000000000000000000000072000000000000000000000000000000000000000000000000000000000000000000

theorem Frame.copyRead {M : Nat} {s0 s : State} {c : Nat} {b : Nat} {slots : List Nat} (hk0 : Frame M s0 s)
    (hL : W.copyRead &&& M = W.copyRead) : Frame M s0 (State.copyRead s c b slots).2 := by
  unfold State.copyRead
  try dsimp only
  repeat' first
    | (with_reducible assumption)
    | (split)
    | (with_reducible refine Frame.foldl ?_ ?_)
    | (exact Nat.zero_and _)
    | (exact Frame.sub hL (by decide))
    | (exact Frame.bitOf hL (by decide))
    | (intro u hu x hx)
    | (intro u hu)
    | (refine Frame.bitMem (by with_reducible assumption) ?_)
    | (refine Frame.sub_all hL (by first | decide | (simp only [List.map_cons, List.map_nil]; decide)))
    | (refine Frame.bitMemFst (by with_reducible assumption) ?_)
    | (with_reducible apply Frame.emit)
    | (with_reducible apply Frame.correctWords)
    | (with_reducible apply Frame.logWords)
    | (with_reducible apply Frame.setTabs)
    | (with_reducible apply Frame.wordWritten)
    | (with_reducible apply Frame.delEntry)
    | (with_reducible refine Frame.fst ?_ (by with_reducible assumption))
    | (with_reducible refine Frame.snd ?_ (by with_reducible assumption))
    | (with_reducible refine Frame.mk_other ?_)
    | decide

/-- What `State.bucketRead` may write: register fields by number, memory at 1000. -/
def W.bucketRead : Nat := 0xc0000000000021800000000000000000000000000000000000000000000000072000000000000000000000000000000000000000000000000000000000000000000

theorem Frame.bucketRead {M : Nat} {s0 s : State} {b : Nat} (hk0 : Frame M s0 s)
    (hL : W.bucketRead &&& M = W.bucketRead) : Frame M s0 (State.bucketRead s b).2 := by
  unfold State.bucketRead
  try dsimp only
  repeat' first
    | (with_reducible assumption)
    | (split)
    | (with_reducible refine Frame.foldl ?_ ?_)
    | (exact Nat.zero_and _)
    | (exact Frame.sub hL (by decide))
    | (exact Frame.bitOf hL (by decide))
    | (intro u hu x hx)
    | (intro u hu)
    | (refine Frame.bitMem (by with_reducible assumption) ?_)
    | (refine Frame.sub_all hL (by first | decide | (simp only [List.map_cons, List.map_nil]; decide)))
    | (refine Frame.bitMemFst (by with_reducible assumption) ?_)
    | (with_reducible apply Frame.emit)
    | (with_reducible apply Frame.copyRead)
    | decide

/-- What `State.readKey` may write: register fields by number, memory at 1000. -/
def W.readKey : Nat := 0xc0000000000021800000000000000000000000000000000000000000000000072000000000000000000000000000000000000000000000000000000000000000000

theorem Frame.readKey {M : Nat} {s0 s : State} {k : Nat} (hk0 : Frame M s0 s)
    (hL : W.readKey &&& M = W.readKey) : Frame M s0 (State.readKey s k).2 := by
  unfold State.readKey
  try dsimp only
  repeat' first
    | (with_reducible assumption)
    | (split)
    | (with_reducible refine Frame.foldl ?_ ?_)
    | (exact Nat.zero_and _)
    | (exact Frame.sub hL (by decide))
    | (exact Frame.bitOf hL (by decide))
    | (intro u hu x hx)
    | (intro u hu)
    | (refine Frame.bitMem (by with_reducible assumption) ?_)
    | (refine Frame.sub_all hL (by first | decide | (simp only [List.map_cons, List.map_nil]; decide)))
    | (refine Frame.bitMemFst (by with_reducible assumption) ?_)
    | (with_reducible apply Frame.emit)
    | (with_reducible apply Frame.bucketRead)
    | (with_reducible apply Frame.blockEvent)
    | (with_reducible refine Frame.fst ?_ (by with_reducible assumption))
    | (with_reducible refine Frame.snd ?_ (by with_reducible assumption))
    | decide

/-- What `State.readFrom` may write: register fields by number, memory at 1000. -/
def W.readFrom : Nat := 0xc0000000000021800000000000000000000000000000000000000000000000072000000000000000000000000000000000000000000000000000000000000000000

theorem Frame.readFrom {M : Nat} {s0 s : State} {b : Nat} (hk0 : Frame M s0 s)
    (hL : W.readFrom &&& M = W.readFrom) : Frame M s0 (State.readFrom s b) := by
  unfold State.readFrom
  try dsimp only
  repeat' first
    | (with_reducible assumption)
    | (split)
    | (with_reducible refine Frame.foldl ?_ ?_)
    | (exact Nat.zero_and _)
    | (exact Frame.sub hL (by decide))
    | (exact Frame.bitOf hL (by decide))
    | (intro u hu x hx)
    | (intro u hu)
    | (refine Frame.bitMem (by with_reducible assumption) ?_)
    | (refine Frame.sub_all hL (by first | decide | (simp only [List.map_cons, List.map_nil]; decide)))
    | (refine Frame.bitMemFst (by with_reducible assumption) ?_)
    | (with_reducible apply Frame.emit)
    | (with_reducible apply Frame.bucketRead)
    | decide

/-- What `State.lineRead` may write: register fields by number, memory at 1000. -/
def W.lineRead : Nat := 0xc0000000000021800000000000000000000000000000000000000000000000072000000000000000000000000000000000000000000000000000000000000000000

theorem Frame.lineRead {M : Nat} {s0 s : State} {l : CacheLine} (hk0 : Frame M s0 s)
    (hL : W.lineRead &&& M = W.lineRead) : Frame M s0 (State.lineRead s l).2 := by
  unfold State.lineRead
  try dsimp only
  repeat' first
    | (with_reducible assumption)
    | (split)
    | (with_reducible refine Frame.foldl ?_ ?_)
    | (exact Nat.zero_and _)
    | (exact Frame.sub hL (by decide))
    | (exact Frame.bitOf hL (by decide))
    | (intro u hu x hx)
    | (intro u hu)
    | (refine Frame.bitMem (by with_reducible assumption) ?_)
    | (refine Frame.sub_all hL (by first | decide | (simp only [List.map_cons, List.map_nil]; decide)))
    | (refine Frame.bitMemFst (by with_reducible assumption) ?_)
    | (with_reducible apply Frame.emit)
    | (with_reducible apply Frame.corrected)
    | (with_reducible apply Frame.rewriteWord)
    | (with_reducible apply Frame.logUe)
    | (with_reducible apply Frame.cacheDrop)
    | (with_reducible refine Frame.fst ?_ (by with_reducible assumption))
    | (with_reducible refine Frame.snd ?_ (by with_reducible assumption))
    | (with_reducible refine Frame.mk_other ?_)
    | decide

/-- What `State.stackLookup` may write: register fields by number, memory at 1000. -/
def W.stackLookup : Nat := 0xc0000000000021800000000000000000000000000000000000000000000000072000000000000000000000000000000000000000000000000000000000000000000

theorem Frame.stackLookup {M : Nat} {s0 s : State} {k : Nat} (hk0 : Frame M s0 s)
    (hL : W.stackLookup &&& M = W.stackLookup) : Frame M s0 (State.stackLookup s k).2.2 := by
  unfold State.stackLookup
  try dsimp only
  repeat' first
    | (with_reducible assumption)
    | (split)
    | (with_reducible refine Frame.foldl ?_ ?_)
    | (exact Nat.zero_and _)
    | (exact Frame.sub hL (by decide))
    | (exact Frame.bitOf hL (by decide))
    | (intro u hu x hx)
    | (intro u hu)
    | (refine Frame.bitMem (by with_reducible assumption) ?_)
    | (refine Frame.sub_all hL (by first | decide | (simp only [List.map_cons, List.map_nil]; decide)))
    | (refine Frame.bitMemFst (by with_reducible assumption) ?_)
    | (with_reducible apply Frame.emit)
    | (with_reducible apply Frame.setTabs)
    | (with_reducible apply Frame.blockEvent)
    | (with_reducible apply Frame.readKey)
    | (with_reducible apply Frame.cacheTouch)
    | (with_reducible refine Frame.fst ?_ (by with_reducible assumption))
    | (with_reducible refine Frame.snd ?_ (by with_reducible assumption))
    | (with_reducible refine Frame.mk_other ?_)
    | decide

/-- What `State.lookup` may write: register fields by number, memory at 1000. -/
def W.lookup : Nat := 0xc0000000000021800000000000000000000000000000000000000000000000072000000000000000000000000000000000000000000000000000000000000000000

theorem Frame.lookup_at {s0 s t : State} {k : Nat} {o : Option (Key × TblEntry)} {b : Bool}
    (h : Frame W.lookup s0 s) (e : s.lookup k = (o, b, t)) : Frame W.lookup s0 t := by
  have : Frame W.lookup s0 (s.lookup k).2.2 := by
    unfold State.lookup
    dsimp only
    repeat' first
      | decide
      | (with_reducible assumption)
      | split
      | (with_reducible apply Frame.stackLookup)
      | (with_reducible apply Frame.lineRead)
      | (with_reducible apply Frame.blockEvent)
      | (with_reducible apply Frame.setTabs)
      | (with_reducible apply Frame.cacheTouch)
  rw [e] at this; exact this

theorem Frame.lookup {M : Nat} {s0 s t : State} {k : Nat} {o : Option (Key × TblEntry)} {b : Bool} (hk0 : Frame M s0 s) (e : s.lookup k = (o, b, t)) (hL : W.lookup &&& M = W.lookup) :
    Frame M s0 t := hk0.trans ((Frame.lookup_at (Frame.refl _ _) e).mono hL)

/-- What `State.displace` may write: register fields by number, memory at 1000. -/
def W.displace : Nat := 0x0

theorem Frame.displace {M : Nat} {s0 s : State} {l : List (Key × Key)} (hk0 : Frame M s0 s)
    (_hL : W.displace &&& M = W.displace) : Frame M s0 (State.displace s l) := by
  unfold State.displace
  try dsimp only
  repeat' first
    | (with_reducible assumption)
    | (split)
    | (with_reducible refine Frame.foldl ?_ ?_)
    | (exact Nat.zero_and _)
    | (intro u hu x hx)
    | (intro u hu)
    | (refine Frame.bitMem (by with_reducible assumption) ?_)
    | (refine Frame.bitMemFst (by with_reducible assumption) ?_)
    | (with_reducible apply Frame.emit)
    | (with_reducible apply Frame.cacheTouch)
    | (with_reducible apply Frame.setTabs)
    | (with_reducible apply Frame.wordWritten)
    | (with_reducible refine Frame.fst ?_ (by with_reducible assumption))
    | (with_reducible refine Frame.snd ?_ (by with_reducible assumption))
    | (with_reducible refine Frame.mk_other ?_)
    | decide

/-- What `State.readChain` may write: register fields by number, memory at 1000. -/
def W.readChain : Nat := 0xc0000000000021800000000000000000000000000000000000000000000000072000000000000000000000000000000000000000000000000000000000000000000

theorem Frame.readChain_at {s0 s : State} {n : Nat} {bs : List Nat} (h : Frame W.readChain s0 s) : Frame W.readChain s0 (State.readChain n bs s) := by
  induction n generalizing s bs with
  | zero => exact h
  | succ n ih =>
    unfold State.readChain
    split
    · exact h
    · exact ih (Frame.foldl h (fun u hu x hx => Frame.bucketRead (hL := by decide) hu))

theorem Frame.readChain {M : Nat} {s0 s : State} {n : Nat} {bs : List Nat} (hk0 : Frame M s0 s) (hL : W.readChain &&& M = W.readChain) :
    Frame M s0 (State.readChain n bs s) := hk0.trans ((Frame.readChain_at (Frame.refl _ _) ).mono hL)

/-- What `State.readPlaces` may write: register fields by number, memory at 1000. -/
def W.readPlaces : Nat := 0xc0000000000021800000000000000000000000000000000000000000000000072000000000000000000000000000000000000000000000000000000000000000000

theorem Frame.readPlaces {M : Nat} {s0 s : State} {k : Nat} {most : Nat} (hk0 : Frame M s0 s)
    (hL : W.readPlaces &&& M = W.readPlaces) : Frame M s0 (State.readPlaces s k most) := by
  unfold State.readPlaces
  try dsimp only
  repeat' first
    | (with_reducible assumption)
    | (split)
    | (with_reducible refine Frame.foldl ?_ ?_)
    | (exact Nat.zero_and _)
    | (exact Frame.sub hL (by decide))
    | (exact Frame.bitOf hL (by decide))
    | (intro u hu x hx)
    | (intro u hu)
    | (refine Frame.bitMem (by with_reducible assumption) ?_)
    | (refine Frame.sub_all hL (by first | decide | (simp only [List.map_cons, List.map_nil]; decide)))
    | (refine Frame.bitMemFst (by with_reducible assumption) ?_)
    | (with_reducible apply Frame.emit)
    | (with_reducible apply Frame.lineRead)
    | (with_reducible apply Frame.bucketRead)
    | (with_reducible apply Frame.readChain)
    | (with_reducible refine Frame.fst ?_ (by with_reducible assumption))
    | (with_reducible refine Frame.snd ?_ (by with_reducible assumption))
    | (with_reducible refine Frame.mk_other ?_)
    | decide

/-- What `State.insert` may write: register fields by number, memory at 1000. -/
def W.insert : Nat := 0xc0000000000021800000000000000000000000000000000000000000000000072000000000000000000000000000000000000000000000000000000000000000000

theorem Frame.insert {M : Nat} {s0 u : State} {e : TblEntry} {replace : Bool} {most : Nat} (hk0 : Frame M s0 u)
    (hL : W.insert &&& M = W.insert) : Frame M s0 (State.insert u e replace most).2 := by
  unfold State.insert
  try dsimp only
  repeat' first
    | (with_reducible assumption)
    | (split)
    | (with_reducible refine Frame.foldl ?_ ?_)
    | (exact Nat.zero_and _)
    | (exact Frame.sub hL (by decide))
    | (exact Frame.bitOf hL (by decide))
    | (intro u hu x hx)
    | (intro u hu)
    | (refine Frame.bitMem (by with_reducible assumption) ?_)
    | (refine Frame.sub_all hL (by first | decide | (simp only [List.map_cons, List.map_nil]; decide)))
    | (refine Frame.bitMemFst (by with_reducible assumption) ?_)
    | (with_reducible apply Frame.emit)
    | (with_reducible apply Frame.readPlaces)
    | (with_reducible apply Frame.putEntry)
    | (with_reducible apply Frame.displace)
    | (with_reducible refine Frame.fst ?_ (by with_reducible assumption))
    | (with_reducible refine Frame.snd ?_ (by with_reducible assumption))
    | (with_reducible refine Frame.mk_other ?_)
    | decide

/-- What `State.countFlow` may write: register fields by number, memory at 1000. -/
def W.countFlow : Nat := 0x0

theorem Frame.countFlow {M : Nat} {s0 s : State} {c : Nat} {len : Nat} (hk0 : Frame M s0 s)
    (_hL : W.countFlow &&& M = W.countFlow) : Frame M s0 (State.countFlow s c len) := by
  unfold State.countFlow
  try dsimp only
  repeat' first
    | (with_reducible assumption)
    | (split)
    | (with_reducible refine Frame.foldl ?_ ?_)
    | (exact Nat.zero_and _)
    | (intro u hu x hx)
    | (intro u hu)
    | (refine Frame.bitMem (by with_reducible assumption) ?_)
    | (refine Frame.bitMemFst (by with_reducible assumption) ?_)
    | (with_reducible apply Frame.emit)
    | (with_reducible apply Frame.setTabs)
    | (with_reducible refine Frame.mk_other ?_)
    | decide

end Sys2Proof.Machine
end

