-- ==== Sys2Proof/Laws/FrameFabOps.lean ====
section
/-! SUPPORT. Which registers, and whether the memories, the operations of FabOps may write (Laws/Frame.lean). -/

namespace Sys2Proof.Machine

set_option Elab.async false
set_option linter.all false

/-- What `State.setLink` may write: register fields by number, memory at 1000. -/
def W.setLink : Nat := 0x0

theorem Frame.setLink {M : Nat} {s0 s : State} {n : Nat} {x : FabLink} (hk0 : Frame M s0 s)
    (_hL : W.setLink &&& M = W.setLink) : Frame M s0 (State.setLink s n x) := by
  unfold State.setLink
  try dsimp only
  repeat' first
    | (with_reducible assumption)
    | (split)
    | (with_reducible refine Frame.foldl ?_ ?_)
    | (exact Nat.zero_and _)
    | (intro u hu x hx)
    | (intro u hu)
    | (refine Frame.bitMem (by with_reducible assumption) ?_)
    | (refine Frame.bitMemFst (by with_reducible assumption) ?_)
    | (with_reducible apply Frame.emit)
    | (with_reducible refine Frame.mk_other ?_)
    | decide

/-- What `State.linkPump` may write: register fields by number, memory at 1000. -/
def W.linkPump : Nat := 0xc0000000000020000000000000000000000000020000000000000000000000072000000000000000000000000000000000000000000000000000000000000000000

theorem Frame.linkPump_at {s0 s : State} {n l : Nat} (h : Frame W.linkPump s0 s) : Frame W.linkPump s0 (State.linkPump n s l) := by
  induction n generalizing s with
  | zero => exact h
  | succ n ih =>
    unfold State.linkPump
    dsimp only
    repeat' first
      | decide
      | (with_reducible assumption)
      | split
      | (with_reducible apply ih)
      | (with_reducible apply Frame.emit)
      | (with_reducible apply Frame.blockEvent)
      | (with_reducible apply Frame.incWrap)
      | (with_reducible apply Frame.setLink)
      | decide

theorem Frame.linkPump {M : Nat} {s0 s : State} {n l : Nat} (hk0 : Frame M s0 s) (hL : W.linkPump &&& M = W.linkPump) :
    Frame M s0 (State.linkPump n s l) := hk0.trans ((Frame.linkPump_at (Frame.refl _ _) ).mono hL)

/-- What `State.linkSend` may write: register fields by number, memory at 1000. -/
def W.linkSend : Nat := 0xc0000000000020000000000000000000000000020000000000000000000000072000000000000000000000000000000000000000000000000000000000000000000

theorem Frame.linkSend {M : Nat} {s0 s : State} {l : Nat} {c : TxCell} (hk0 : Frame M s0 s)
    (hL : W.linkSend &&& M = W.linkSend) : Frame M s0 (State.linkSend s l c) := by
  unfold State.linkSend
  try dsimp only
  repeat' first
    | (with_reducible assumption)
    | (split)
    | (with_reducible refine Frame.foldl ?_ ?_)
    | (exact Nat.zero_and _)
    | (exact Frame.sub hL (by decide))
    | (exact Frame.bitOf hL (by decide))
    | (intro u hu x hx)
    | (intro u hu)
    | (refine Frame.bitMem (by with_reducible assumption) ?_)
    | (refine Frame.sub_all hL (by first | decide | (simp only [List.map_cons, List.map_nil]; decide)))
    | (refine Frame.bitMemFst (by with_reducible assumption) ?_)
    | (with_reducible apply Frame.emit)
    | (with_reducible apply Frame.setLink)
    | (with_reducible apply Frame.linkPump)
    | (with_reducible refine Frame.mk_other ?_)
    | decide

/-- What `State.sendTo` may write: register fields by number, memory at 1000. -/
def W.sendTo : Nat := 0xc0000000000020000000000000000000000000020010000000000000000000072000000000000000000000000000000000000000000000000000000000000000000

theorem Frame.sendTo {M : Nat} {s0 s : State} {dst : Nat} {src : Nat} {c : TxCell} (hk0 : Frame M s0 s)
    (hL : W.sendTo &&& M = W.sendTo) : Frame M s0 (State.sendTo s dst src c) := by
  unfold State.sendTo
  try dsimp only
  repeat' first
    | (with_reducible assumption)
    | (split)
    | (with_reducible refine Frame.foldl ?_ ?_)
    | (exact Nat.zero_and _)
    | (exact Frame.sub hL (by decide))
    | (exact Frame.bitOf hL (by decide))
    | (intro u hu x hx)
    | (intro u hu)
    | (refine Frame.bitMem (by with_reducible assumption) ?_)
    | (refine Frame.sub_all hL (by first | decide | (simp only [List.map_cons, List.map_nil]; decide)))
    | (refine Frame.bitMemFst (by with_reducible assumption) ?_)
    | (with_reducible apply Frame.emit)
    | (with_reducible apply Frame.linkSend)
    | (with_reducible apply Frame.incSat)
    | (with_reducible apply Frame.blockEvent)
    | (with_reducible refine Frame.fst ?_ (by with_reducible assumption))
    | (with_reducible refine Frame.snd ?_ (by with_reducible assumption))
    | (with_reducible refine Frame.mk_other ?_)
    | decide

/-- What `State.sendChunks` may write: register fields by number, memory at 1000. -/
def W.sendChunks : Nat := 0xc0000000000020000000000000000000000000020010000000000000000000072000000000000000000000000000000000000000000000000000000000000000000

theorem Frame.sendChunks_at {s0 s : State} {n dst ty seq aux : Nat} {first : Bool} {p : List Byte} (h : Frame W.sendChunks s0 s) :
    Frame W.sendChunks s0 (State.sendChunks n s dst ty seq aux first p) := by
  induction n generalizing s first p with
  | zero => exact h
  | succ n ih =>
    unfold State.sendChunks
    dsimp only
    split
    · exact Frame.sendTo (hL := by decide) h
    · exact ih (Frame.sendTo (hL := by decide) h)

theorem Frame.sendChunks {M : Nat} {s0 s : State} {n dst ty seq aux : Nat} {first : Bool} {p : List Byte} (hk0 : Frame M s0 s) (hL : W.sendChunks &&& M = W.sendChunks) :
    Frame M s0 (State.sendChunks n s dst ty seq aux first p) := hk0.trans ((Frame.sendChunks_at (Frame.refl _ _) ).mono hL)

/-- What `State.sendMessage` may write: register fields by number, memory at 1000. -/
def W.sendMessage : Nat := 0xc0000000000020000000000000000000000000020010000000000000000000072000000000000000000000000000000000000000000000000000000000000000000

theorem Frame.sendMessage {M : Nat} {s0 s : State} {dst : Nat} {ty : Nat} {aux : Nat} {p : List Byte} (hk0 : Frame M s0 s)
    (hL : W.sendMessage &&& M = W.sendMessage) : Frame M s0 (State.sendMessage s dst ty aux p) := by
  unfold State.sendMessage
  try dsimp only
  repeat' first
    | (with_reducible assumption)
    | (split)
    | (with_reducible refine Frame.foldl ?_ ?_)
    | (exact Nat.zero_and _)
    | (exact Frame.sub hL (by decide))
    | (exact Frame.bitOf hL (by decide))
    | (intro u hu x hx)
    | (intro u hu)
    | (refine Frame.bitMem (by with_reducible assumption) ?_)
    | (refine Frame.sub_all hL (by first | decide | (simp only [List.map_cons, List.map_nil]; decide)))
    | (refine Frame.bitMemFst (by with_reducible assumption) ?_)
    | (with_reducible apply Frame.emit)
    | (with_reducible apply Frame.putFab)
    | (with_reducible apply Frame.sendChunks)
    | (with_reducible refine Frame.mk_other ?_)
    | decide

/-- What `State.flood` may write: register fields by number, memory at 1000. -/
def W.flood : Nat := 0xc0000000000020000000000000000000000000020000000000000000000000072000000000000000000000000000000000000000000000000000000000000000000

theorem Frame.flood {M : Nat} {s0 s : State} {from_ : Option Nat} {c : TxCell} (hk0 : Frame M s0 s)
    (hL : W.flood &&& M = W.flood) : Frame M s0 (State.flood s from_ c) := by
  unfold State.flood
  try dsimp only
  repeat' first
    | (with_reducible assumption)
    | (split)
    | (with_reducible refine Frame.foldl ?_ ?_)
    | (exact Nat.zero_and _)
    | (exact Frame.sub hL (by decide))
    | (exact Frame.bitOf hL (by decide))
    | (intro u hu x hx)
    | (intro u hu)
    | (refine Frame.bitMem (by with_reducible assumption) ?_)
    | (refine Frame.sub_all hL (by first | decide | (simp only [List.map_cons, List.map_nil]; decide)))
    | (refine Frame.bitMemFst (by with_reducible assumption) ?_)
    | (with_reducible apply Frame.emit)
    | (with_reducible apply Frame.linkSend)
    | decide

/-- What `State.floodClaim` may write: register fields by number, memory at 1000. -/
def W.floodClaim : Nat := 0xc0000000000020000000000000000000000000020000000000000000000000072000000000000000000000000000000000000000000000000000000000000000000

theorem Frame.floodClaim {M : Nat} {s0 s : State} {addr : Nat} (hk0 : Frame M s0 s)
    (hL : W.floodClaim &&& M = W.floodClaim) : Frame M s0 (State.floodClaim s addr) := by
  unfold State.floodClaim
  try dsimp only
  repeat' first
    | (with_reducible assumption)
    | (split)
    | (with_reducible refine Frame.foldl ?_ ?_)
    | (exact Nat.zero_and _)
    | (exact Frame.sub hL (by decide))
    | (exact Frame.bitOf hL (by decide))
    | (intro u hu x hx)
    | (intro u hu)
    | (refine Frame.bitMem (by with_reducible assumption) ?_)
    | (refine Frame.sub_all hL (by first | decide | (simp only [List.map_cons, List.map_nil]; decide)))
    | (refine Frame.bitMemFst (by with_reducible assumption) ?_)
    | (with_reducible apply Frame.emit)
    | (with_reducible apply Frame.putFab)
    | (with_reducible apply Frame.flood)
    | (with_reducible refine Frame.mk_other ?_)
    | decide

/-- What `State.floodRouteOf` may write: register fields by number, memory at 1000. -/
def W.floodRouteOf : Nat := 0xc0000000000020000000000000000000000000020000000000000000000000072000000000000000000000000000000000000000000000000000000000000000000

theorem Frame.floodRouteOf {M : Nat} {s0 s : State} {adj0 : List (Nat × Nat)} (hk0 : Frame M s0 s)
    (hL : W.floodRouteOf &&& M = W.floodRouteOf) : Frame M s0 (State.floodRouteOf s adj0) := by
  unfold State.floodRouteOf
  try dsimp only
  repeat' first
    | (with_reducible assumption)
    | (split)
    | (with_reducible refine Frame.foldl ?_ ?_)
    | (exact Nat.zero_and _)
    | (exact Frame.sub hL (by decide))
    | (exact Frame.bitOf hL (by decide))
    | (intro u hu x hx)
    | (intro u hu)
    | (refine Frame.bitMem (by with_reducible assumption) ?_)
    | (refine Frame.sub_all hL (by first | decide | (simp only [List.map_cons, List.map_nil]; decide)))
    | (refine Frame.bitMemFst (by with_reducible assumption) ?_)
    | (with_reducible apply Frame.emit)
    | (with_reducible apply Frame.putFab)
    | (with_reducible apply Frame.flood)
    | (with_reducible refine Frame.mk_other ?_)
    | decide

/-- What `State.adjChanged` may write: register fields by number, memory at 1000. -/
def W.adjChanged : Nat := 0xc0000000000020000000000000000000000000020000000000000000000000072000000000000000000000000000000000000000000000000000000000000000000

theorem Frame.adjChanged {M : Nat} {s0 s : State} (hk0 : Frame M s0 s)
    (hL : W.adjChanged &&& M = W.adjChanged) : Frame M s0 (State.adjChanged s) := by
  unfold State.adjChanged
  try dsimp only
  repeat' first
    | (with_reducible assumption)
    | (split)
    | (with_reducible refine Frame.foldl ?_ ?_)
    | (exact Nat.zero_and _)
    | (exact Frame.sub hL (by decide))
    | (exact Frame.bitOf hL (by decide))
    | (intro u hu x hx)
    | (intro u hu)
    | (refine Frame.bitMem (by with_reducible assumption) ?_)
    | (refine Frame.sub_all hL (by first | decide | (simp only [List.map_cons, List.map_nil]; decide)))
    | (refine Frame.bitMemFst (by with_reducible assumption) ?_)
    | (with_reducible apply Frame.emit)
    | (with_reducible apply Frame.putFab)
    | (with_reducible apply Frame.floodRouteOf)
    | (with_reducible refine Frame.mk_other ?_)
    | decide

/-- What `State.setRoute` may write: register fields by number, memory at 1000. -/
def W.setRoute : Nat := 0x3fe00000000000000000000000000000000000000000000000000000000000000000000000000000000000000000000

theorem Frame.setRoute {M : Nat} {s0 s : State} {d : Nat} {nh : List Nat} {hops : Nat} (hk0 : Frame M s0 s)
    (hL : W.setRoute &&& M = W.setRoute) : Frame M s0 (State.setRoute s d nh hops) := by
  unfold State.setRoute
  try dsimp only
  repeat' first
    | (with_reducible assumption)
    | (split)
    | (with_reducible refine Frame.foldl ?_ ?_)
    | (exact Nat.zero_and _)
    | (exact Frame.sub hL (by decide))
    | (exact Frame.bitOf hL (by decide))
    | (intro u hu x hx)
    | (intro u hu)
    | (refine Frame.bitMem (by with_reducible assumption) ?_)
    | (refine Frame.sub_all hL (by first | decide | (simp only [List.map_cons, List.map_nil]; decide)))
    | (refine Frame.bitMemFst (by with_reducible assumption) ?_)
    | (with_reducible refine Frame.wr ?_ ?_)
    | (with_reducible apply Frame.emit)
    | (with_reducible refine Frame.fst ?_ (by with_reducible assumption))
    | (with_reducible refine Frame.snd ?_ (by with_reducible assumption))
    | (with_reducible refine Frame.mk_other ?_)
    | decide

/-- What `State.dropLinkRoutes` may write: register fields by number, memory at 1000. -/
def W.dropLinkRoutes : Nat := 0x3fe00000000000000000000000000000000000000000000000000000000000000000000000000000000000000000000

theorem Frame.dropLinkRoutes {M : Nat} {s0 s : State} {l : Nat} (hk0 : Frame M s0 s)
    (hL : W.dropLinkRoutes &&& M = W.dropLinkRoutes) : Frame M s0 (State.dropLinkRoutes s l) := by
  unfold State.dropLinkRoutes
  try dsimp only
  repeat' first
    | (with_reducible assumption)
    | (split)
    | (with_reducible refine Frame.foldl ?_ ?_)
    | (exact Nat.zero_and _)
    | (exact Frame.sub hL (by decide))
    | (exact Frame.bitOf hL (by decide))
    | (intro u hu x hx)
    | (intro u hu)
    | (refine Frame.bitMem (by with_reducible assumption) ?_)
    | (refine Frame.sub_all hL (by first | decide | (simp only [List.map_cons, List.map_nil]; decide)))
    | (refine Frame.bitMemFst (by with_reducible assumption) ?_)
    | (with_reducible apply Frame.emit)
    | (with_reducible apply Frame.setRoute)
    | decide

/-- What `State.electKeeper` may write: register fields by number, memory at 1000. -/
def W.electKeeper : Nat := 0xc0000000000020000000000000000000000000000000601800000000000000072000000000000000000000000000000000000000000000000000000000000000000

theorem Frame.electKeeper {M : Nat} {s0 s : State} (hk0 : Frame M s0 s)
    (hL : W.electKeeper &&& M = W.electKeeper) : Frame M s0 (State.electKeeper s) := by
  unfold State.electKeeper
  try dsimp only
  repeat' first
    | (with_reducible assumption)
    | (split)
    | (with_reducible refine Frame.foldl ?_ ?_)
    | (exact Nat.zero_and _)
    | (exact Frame.sub hL (by decide))
    | (exact Frame.bitOf hL (by decide))
    | (intro u hu x hx)
    | (intro u hu)
    | (refine Frame.bitMem (by with_reducible assumption) ?_)
    | (refine Frame.sub_all hL (by first | decide | (simp only [List.map_cons, List.map_nil]; decide)))
    | (refine Frame.bitMemFst (by with_reducible assumption) ?_)
    | (with_reducible refine Frame.wr ?_ ?_)
    | (with_reducible apply Frame.emit)
    | (with_reducible apply Frame.wrB)
    | (with_reducible apply Frame.fabEvent)
    | (with_reducible apply Frame.putFab)
    | (with_reducible refine Frame.mk_other ?_)
    | decide

/-- What `State.peerTide` may write: register fields by number, memory at 1000. -/
def W.peerTide : Nat := 0xc0000000000020000000000000000000000000000000000000000000000000072000000000000000000000000000000000000000000001000000000000000000000

theorem Frame.peerTide {M : Nat} {s0 s : State} (hk0 : Frame M s0 s)
    (hL : W.peerTide &&& M = W.peerTide) : Frame M s0 (State.peerTide s) := by
  unfold State.peerTide
  try dsimp only
  repeat' first
    | (with_reducible assumption)
    | (split)
    | (with_reducible refine Frame.foldl ?_ ?_)
    | (exact Nat.zero_and _)
    | (exact Frame.sub hL (by decide))
    | (exact Frame.bitOf hL (by decide))
    | (intro u hu x hx)
    | (intro u hu)
    | (refine Frame.bitMem (by with_reducible assumption) ?_)
    | (refine Frame.sub_all hL (by first | decide | (simp only [List.map_cons, List.map_nil]; decide)))
    | (refine Frame.bitMemFst (by with_reducible assumption) ?_)
    | (with_reducible apply Frame.emit)
    | (with_reducible apply Frame.putTb)
    | (with_reducible apply Frame.tbEvent)
    | (with_reducible refine Frame.fst ?_ (by with_reducible assumption))
    | (with_reducible refine Frame.snd ?_ (by with_reducible assumption))
    | (with_reducible refine Frame.mk_other ?_)
    | decide

/-- What `State.recompute` may write: register fields by number, memory at 1000. -/
def W.recompute : Nat := 0xc000000000002000000000000000000000003fe00008e0b800000000000000072000000000000000000000000000000000000000000001000000000000000000000

theorem Frame.recompute {M : Nat} {s0 s : State} (hk0 : Frame M s0 s)
    (hL : W.recompute &&& M = W.recompute) : Frame M s0 (State.recompute s) := by
  unfold State.recompute
  try dsimp only
  repeat' first
    | (with_reducible assumption)
    | (split)
    | (with_reducible refine Frame.foldl ?_ ?_)
    | (exact Nat.zero_and _)
    | (exact Frame.sub hL (by decide))
    | (exact Frame.bitOf hL (by decide))
    | (intro u hu x hx)
    | (intro u hu)
    | (refine Frame.bitMem (by with_reducible assumption) ?_)
    | (refine Frame.sub_all hL (by first | decide | (simp only [List.map_cons, List.map_nil]; decide)))
    | (refine Frame.bitMemFst (by with_reducible assumption) ?_)
    | (with_reducible refine Frame.wr ?_ ?_)
    | (with_reducible apply Frame.emit)
    | (with_reducible apply Frame.setRoute)
    | (with_reducible apply Frame.take)
    | (with_reducible apply Frame.incWrap)
    | (with_reducible apply Frame.fabEvent)
    | (with_reducible apply Frame.electKeeper)
    | (with_reducible apply Frame.putFab)
    | (with_reducible apply Frame.peerTide)
    | (with_reducible refine Frame.fst ?_ (by with_reducible assumption))
    | (with_reducible refine Frame.snd ?_ (by with_reducible assumption))
    | (with_reducible refine Frame.mk_other ?_)
    | decide

/-- What `State.linkState` may write: register fields by number, memory at 1000. -/
def W.linkState : Nat := 0xc0000000000020000000000000000000000000000100030000000000000000072000000000000000000000000000000000000000000000000000000000000000000

theorem Frame.linkState {M : Nat} {s0 s : State} {l : Nat} {st : Nat} (hk0 : Frame M s0 s)
    (hL : W.linkState &&& M = W.linkState) : Frame M s0 (State.linkState s l st) := by
  unfold State.linkState
  try dsimp only
  repeat' first
    | (with_reducible assumption)
    | (split)
    | (with_reducible refine Frame.foldl ?_ ?_)
    | (exact Nat.zero_and _)
    | (exact Frame.sub hL (by decide))
    | (exact Frame.bitOf hL (by decide))
    | (intro u hu x hx)
    | (intro u hu)
    | (refine Frame.bitMem (by with_reducible assumption) ?_)
    | (refine Frame.sub_all hL (by first | decide | (simp only [List.map_cons, List.map_nil]; decide)))
    | (refine Frame.bitMemFst (by with_reducible assumption) ?_)
    | (with_reducible refine Frame.wr ?_ ?_)
    | (with_reducible apply Frame.emit)
    | (with_reducible apply Frame.fabEvent)
    | decide

/-- What `State.adjRemove` may write: register fields by number, memory at 1000. -/
def W.adjRemove : Nat := 0xc000000000002000000000000000000000003fe26100030000000000000000072000000000000000000000000000000000000000000000000000000000000000000

theorem Frame.adjRemove {M : Nat} {s0 s : State} {l : Nat} {st : Nat} (hk0 : Frame M s0 s)
    (hL : W.adjRemove &&& M = W.adjRemove) : Frame M s0 (State.adjRemove s l st) := by
  unfold State.adjRemove
  try dsimp only
  repeat' first
    | (with_reducible assumption)
    | (split)
    | (with_reducible refine Frame.foldl ?_ ?_)
    | (exact Nat.zero_and _)
    | (exact Frame.sub hL (by decide))
    | (exact Frame.bitOf hL (by decide))
    | (intro u hu x hx)
    | (intro u hu)
    | (refine Frame.bitMem (by with_reducible assumption) ?_)
    | (refine Frame.sub_all hL (by first | decide | (simp only [List.map_cons, List.map_nil]; decide)))
    | (refine Frame.bitMemFst (by with_reducible assumption) ?_)
    | (with_reducible refine Frame.wr ?_ ?_)
    | (with_reducible apply Frame.emit)
    | (with_reducible apply Frame.linkState)
    | (with_reducible apply Frame.dropLinkRoutes)
    | (with_reducible apply Frame.setLink)
    | (with_reducible apply Frame.adjChanged)
    | (with_reducible refine Frame.mk_other ?_)
    | decide

/-- What `State.clearLink` may write: register fields by number, memory at 1000. -/
def W.clearLink : Nat := 0x0

theorem Frame.clearLink {M : Nat} {s0 s : State} {l : Nat} (hk0 : Frame M s0 s)
    (_hL : W.clearLink &&& M = W.clearLink) : Frame M s0 (State.clearLink s l) := by
  unfold State.clearLink
  try dsimp only
  repeat' first
    | (with_reducible assumption)
    | (split)
    | (with_reducible refine Frame.foldl ?_ ?_)
    | (exact Nat.zero_and _)
    | (intro u hu x hx)
    | (intro u hu)
    | (refine Frame.bitMem (by with_reducible assumption) ?_)
    | (refine Frame.bitMemFst (by with_reducible assumption) ?_)
    | (with_reducible apply Frame.emit)
    | (with_reducible apply Frame.setLink)
    | (with_reducible refine Frame.mk_other ?_)
    | decide

/-- What `State.sendCodeword` may write: register fields by number, memory at 1000. -/
def W.sendCodeword : Nat := 0x0

theorem Frame.sendCodeword {M : Nat} {s0 s : State} {l : Nat} (hk0 : Frame M s0 s)
    (_hL : W.sendCodeword &&& M = W.sendCodeword) : Frame M s0 (State.sendCodeword s l) := by
  unfold State.sendCodeword
  try dsimp only
  repeat' first
    | (with_reducible assumption)
    | (split)
    | (with_reducible refine Frame.foldl ?_ ?_)
    | (exact Nat.zero_and _)
    | (intro u hu x hx)
    | (intro u hu)
    | (refine Frame.bitMem (by with_reducible assumption) ?_)
    | (refine Frame.bitMemFst (by with_reducible assumption) ?_)
    | (with_reducible apply Frame.emit)
    | (with_reducible apply Frame.take)
    | (with_reducible apply Frame.setLink)
    | (with_reducible refine Frame.mk_other ?_)
    | decide

/-- What `State.lockLost` may write: register fields by number, memory at 1000. -/
def W.lockLost : Nat := 0xc000000000002000000000000000000000003fe26900030000000000000000072000000000000000000000000000000000000000000000000000000000000000000

theorem Frame.lockLost {M : Nat} {s0 s : State} {l : Nat} (hk0 : Frame M s0 s)
    (hL : W.lockLost &&& M = W.lockLost) : Frame M s0 (State.lockLost s l) := by
  unfold State.lockLost
  try dsimp only
  repeat' first
    | (with_reducible assumption)
    | (split)
    | (with_reducible refine Frame.foldl ?_ ?_)
    | (exact Nat.zero_and _)
    | (exact Frame.sub hL (by decide))
    | (exact Frame.bitOf hL (by decide))
    | (intro u hu x hx)
    | (intro u hu)
    | (refine Frame.bitMem (by with_reducible assumption) ?_)
    | (refine Frame.sub_all hL (by first | decide | (simp only [List.map_cons, List.map_nil]; decide)))
    | (refine Frame.bitMemFst (by with_reducible assumption) ?_)
    | (with_reducible refine Frame.wr ?_ ?_)
    | (with_reducible apply Frame.emit)
    | (with_reducible apply Frame.adjRemove)
    | (with_reducible apply Frame.clearLink)
    | decide

/-- What `State.linkDown` may write: register fields by number, memory at 1000. -/
def W.linkDown : Nat := 0xc000000000002000000000000000000000003fe26f00030000000000000000072000000000000000000000000000000000000000000000000000000000000000000

theorem Frame.linkDown {M : Nat} {s0 s : State} {l : Nat} (hk0 : Frame M s0 s)
    (hL : W.linkDown &&& M = W.linkDown) : Frame M s0 (State.linkDown s l) := by
  unfold State.linkDown
  try dsimp only
  repeat' first
    | (with_reducible assumption)
    | (split)
    | (with_reducible refine Frame.foldl ?_ ?_)
    | (exact Nat.zero_and _)
    | (exact Frame.sub hL (by decide))
    | (exact Frame.bitOf hL (by decide))
    | (intro u hu x hx)
    | (intro u hu)
    | (refine Frame.bitMem (by with_reducible assumption) ?_)
    | (refine Frame.sub_all hL (by first | decide | (simp only [List.map_cons, List.map_nil]; decide)))
    | (refine Frame.bitMemFst (by with_reducible assumption) ?_)
    | (with_reducible refine Frame.wr ?_ ?_)
    | (with_reducible apply Frame.emit)
    | (with_reducible apply Frame.adjRemove)
    | (with_reducible apply Frame.clearLink)
    | (with_reducible apply Frame.setLink)
    | (with_reducible refine Frame.mk_other ?_)
    | decide

/-- What `State.linkUp` may write: register fields by number, memory at 1000. -/
def W.linkUp : Nat := 0xc0000000000020000000000000000000000000000100030000000000000000072000000000000000000000000000000000000000000000000000000000000000000

theorem Frame.linkUp {M : Nat} {s0 s : State} {l : Nat} (hk0 : Frame M s0 s)
    (hL : W.linkUp &&& M = W.linkUp) : Frame M s0 (State.linkUp s l) := by
  unfold State.linkUp
  try dsimp only
  repeat' first
    | (with_reducible assumption)
    | (split)
    | (with_reducible refine Frame.foldl ?_ ?_)
    | (exact Nat.zero_and _)
    | (exact Frame.sub hL (by decide))
    | (exact Frame.bitOf hL (by decide))
    | (intro u hu x hx)
    | (intro u hu)
    | (refine Frame.bitMem (by with_reducible assumption) ?_)
    | (refine Frame.sub_all hL (by first | decide | (simp only [List.map_cons, List.map_nil]; decide)))
    | (refine Frame.bitMemFst (by with_reducible assumption) ?_)
    | (with_reducible apply Frame.emit)
    | (with_reducible apply Frame.linkState)
    | (with_reducible apply Frame.sendCodeword)
    | decide

/-- What `State.claim` may write: register fields by number, memory at 1000. -/
def W.claim : Nat := 0xc0000000000020000000000000000000000000020000100400000000000000072000000000000000000000000000000000000000000000000000000000000000000

theorem Frame.claim {M : Nat} {s0 s : State} (hk0 : Frame M s0 s)
    (hL : W.claim &&& M = W.claim) : Frame M s0 (State.claim s) := by
  unfold State.claim
  try dsimp only
  repeat' first
    | (with_reducible assumption)
    | (split)
    | (with_reducible refine Frame.foldl ?_ ?_)
    | (exact Nat.zero_and _)
    | (exact Frame.sub hL (by decide))
    | (exact Frame.bitOf hL (by decide))
    | (intro u hu x hx)
    | (intro u hu)
    | (refine Frame.bitMem (by with_reducible assumption) ?_)
    | (refine Frame.sub_all hL (by first | decide | (simp only [List.map_cons, List.map_nil]; decide)))
    | (refine Frame.bitMemFst (by with_reducible assumption) ?_)
    | (with_reducible refine Frame.wr ?_ ?_)
    | (with_reducible apply Frame.emit)
    | (with_reducible apply Frame.putFab)
    | (with_reducible apply Frame.fabEvent)
    | (with_reducible apply Frame.floodClaim)
    | (with_reducible refine Frame.fst ?_ (by with_reducible assumption))
    | (with_reducible refine Frame.snd ?_ (by with_reducible assumption))
    | (with_reducible refine Frame.mk_other ?_)
    | decide

/-- What `State.releaseAddr` may write: register fields by number, memory at 1000. -/
def W.releaseAddr : Nat := 0xc0000000000020000000000000000000000000020000180600000000000000072000000000000000000000000000000000000000000000000000000000000000000

theorem Frame.releaseAddr {M : Nat} {s0 s : State} {lost : Bool} (hk0 : Frame M s0 s)
    (hL : W.releaseAddr &&& M = W.releaseAddr) : Frame M s0 (State.releaseAddr s lost) := by
  unfold State.releaseAddr
  try dsimp only
  repeat' first
    | (with_reducible assumption)
    | (split)
    | (with_reducible refine Frame.foldl ?_ ?_)
    | (exact Nat.zero_and _)
    | (exact Frame.sub hL (by decide))
    | (exact Frame.bitOf hL (by decide))
    | (intro u hu x hx)
    | (intro u hu)
    | (refine Frame.bitMem (by with_reducible assumption) ?_)
    | (refine Frame.sub_all hL (by first | decide | (simp only [List.map_cons, List.map_nil]; decide)))
    | (refine Frame.bitMemFst (by with_reducible assumption) ?_)
    | (with_reducible refine Frame.wr ?_ ?_)
    | (with_reducible apply Frame.emit)
    | (with_reducible apply Frame.fabEvent)
    | (with_reducible apply Frame.putFab)
    | (with_reducible apply Frame.claim)
    | (with_reducible refine Frame.mk_other ?_)
    | decide

/-- What `State.rivalClaim` may write: register fields by number, memory at 1000. -/
def W.rivalClaim : Nat := 0xc0000000000020000000000000000000000000020000180600000000000000072000000000000000000000000000000000000000000000000000000000000000000

theorem Frame.rivalClaim {M : Nat} {s0 s : State} {serial : Nat} {addr : Nat} (hk0 : Frame M s0 s)
    (hL : W.rivalClaim &&& M = W.rivalClaim) : Frame M s0 (State.rivalClaim s serial addr) := by
  unfold State.rivalClaim
  try dsimp only
  repeat' first
    | (with_reducible assumption)
    | (split)
    | (with_reducible refine Frame.foldl ?_ ?_)
    | (exact Nat.zero_and _)
    | (exact Frame.sub hL (by decide))
    | (exact Frame.bitOf hL (by decide))
    | (intro u hu x hx)
    | (intro u hu)
    | (refine Frame.bitMem (by with_reducible assumption) ?_)
    | (refine Frame.sub_all hL (by first | decide | (simp only [List.map_cons, List.map_nil]; decide)))
    | (refine Frame.bitMemFst (by with_reducible assumption) ?_)
    | (with_reducible apply Frame.emit)
    | (with_reducible apply Frame.claim)
    | (with_reducible apply Frame.floodClaim)
    | (with_reducible apply Frame.releaseAddr)
    | decide

/-- What `State.adjForm` may write: register fields by number, memory at 1000. -/
def W.adjForm : Nat := 0xc0000000000020000000000000000000000000026100130400000000000000072000000000000000000000000000000000000000000000000000000000000000000

theorem Frame.adjForm {M : Nat} {s0 s : State} {l : Nat} {h : Hello} (hk0 : Frame M s0 s)
    (hL : W.adjForm &&& M = W.adjForm) : Frame M s0 (State.adjForm s l h) := by
  unfold State.adjForm
  try dsimp only
  repeat' first
    | (with_reducible assumption)
    | (split)
    | (with_reducible refine Frame.foldl ?_ ?_)
    | (exact Nat.zero_and _)
    | (exact Frame.sub hL (by decide))
    | (exact Frame.bitOf hL (by decide))
    | (intro u hu x hx)
    | (intro u hu)
    | (refine Frame.bitMem (by with_reducible assumption) ?_)
    | (refine Frame.sub_all hL (by first | decide | (simp only [List.map_cons, List.map_nil]; decide)))
    | (refine Frame.bitMemFst (by with_reducible assumption) ?_)
    | (with_reducible refine Frame.wr ?_ ?_)
    | (with_reducible apply Frame.emit)
    | (with_reducible apply Frame.linkState)
    | (with_reducible apply Frame.setLink)
    | (with_reducible apply Frame.adjChanged)
    | (with_reducible apply Frame.claim)
    | (with_reducible refine Frame.mk_other ?_)
    | decide

/-- What `State.floodNew` may write: register fields by number, memory at 1000. -/
def W.floodNew : Nat := 0x0

theorem Frame.floodNew_at {s0 s t : State} {serial ty seq : Nat} (h : Frame W.floodNew s0 s) (e : s.floodNew serial ty seq = some t) :
    Frame W.floodNew s0 t := by
  unfold State.floodNew at e
  dsimp only at e
  repeat' split at e
  all_goals first
    | contradiction
    | (simp only [Option.some.injEq] at e
       subst e
       exact Frame.putFab (_hL := by decide) h)

theorem Frame.floodNew {M : Nat} {s0 s t : State} {serial ty seq : Nat} (hk0 : Frame M s0 s) (e : s.floodNew serial ty seq = some t) (_hL : W.floodNew &&& M = W.floodNew) :
    Frame M s0 t := hk0.trans ((Frame.floodNew_at (Frame.refl _ _) e).mono _hL)

end Sys2Proof.Machine
end

