-- ==== Sys2Proof/Laws/FrameProtOps.lean ====
section
/-! SUPPORT. Which registers, and whether the memories, the operations of ProtOps may write (Laws/Frame.lean). -/

namespace Sys2Proof.Machine

set_option Elab.async false
set_option linter.all false

/-- What `State.setProt` may write: register fields by number, memory at 1000. -/
def W.setProt : Nat := 0x0

theorem Frame.setProt {M : Nat} {s0 s : State} {t : Nat} {x : ProtTree} (hk0 : Frame M s0 s)
    (_hL : W.setProt &&& M = W.setProt) : Frame M s0 (State.setProt s t x) := by
  unfold State.setProt
  try dsimp only
  repeat' first
    | (with_reducible assumption)
    | (split)
    | (with_reducible refine Frame.foldl ?_ ?_)
    | (exact Nat.zero_and _)
    | (intro u hu x hx)
    | (intro u hu)
    | (refine Frame.bitMem (by with_reducible assumption) ?_)
    | (refine Frame.bitMemFst (by with_reducible assumption) ?_)
    | (with_reducible apply Frame.emit)
    | (with_reducible refine Frame.mk_other ?_)
    | decide

/-- What `State.protMsg` may write: register fields by number, memory at 1000. -/
def W.protMsg : Nat := 0xc0000000000020000000000000000000000000020010000000000000000000072000000000000000000000000000000000000000000000000000000000000000000

theorem Frame.protMsg {M : Nat} {s0 s : State} {t : Nat} {kind : Nat} {f : Int} {body : List Byte} (hk0 : Frame M s0 s)
    (hL : W.protMsg &&& M = W.protMsg) : Frame M s0 (State.protMsg s t kind f body) := by
  unfold State.protMsg
  try dsimp only
  repeat' first
    | (with_reducible assumption)
    | (split)
    | (with_reducible refine Frame.foldl ?_ ?_)
    | (exact Nat.zero_and _)
    | (exact Frame.sub hL (by decide))
    | (exact Frame.bitOf hL (by decide))
    | (intro u hu x hx)
    | (intro u hu)
    | (refine Frame.bitMem (by with_reducible assumption) ?_)
    | (refine Frame.sub_all hL (by first | decide | (simp only [List.map_cons, List.map_nil]; decide)))
    | (refine Frame.bitMemFst (by with_reducible assumption) ?_)
    | (with_reducible apply Frame.emit)
    | (with_reducible apply Frame.sendMessage)
    | decide

/-- What `State.sendStatus` may write: register fields by number, memory at 1000. -/
def W.sendStatus : Nat := 0xc0000000000020000000000000000000000000020010000000000000000000072000000000000000000000000000000000000000000000000000000000000000000

theorem Frame.sendStatus {M : Nat} {s0 s : State} {t : Nat} (hk0 : Frame M s0 s)
    (hL : W.sendStatus &&& M = W.sendStatus) : Frame M s0 (State.sendStatus s t) := by
  unfold State.sendStatus
  try dsimp only
  repeat' first
    | (with_reducible assumption)
    | (split)
    | (with_reducible refine Frame.foldl ?_ ?_)
    | (exact Nat.zero_and _)
    | (exact Frame.sub hL (by decide))
    | (exact Frame.bitOf hL (by decide))
    | (intro u hu x hx)
    | (intro u hu)
    | (refine Frame.bitMem (by with_reducible assumption) ?_)
    | (refine Frame.sub_all hL (by first | decide | (simp only [List.map_cons, List.map_nil]; decide)))
    | (refine Frame.bitMemFst (by with_reducible assumption) ?_)
    | (with_reducible apply Frame.emit)
    | (with_reducible apply Frame.protMsg)
    | (with_reducible apply Frame.setProt)
    | (with_reducible refine Frame.mk_other ?_)
    | decide

/-- What `State.setPaired` may write: register fields by number, memory at 1000. -/
def W.setPaired : Nat := 0x10000000000000000000000000000000000000000000000000000000000000000000000000000000000000000000000000

theorem Frame.setPaired {M : Nat} {s0 s : State} {t : Nat} {on : Bool} (hk0 : Frame M s0 s)
    (hL : W.setPaired &&& M = W.setPaired) : Frame M s0 (State.setPaired s t on) := by
  unfold State.setPaired
  try dsimp only
  repeat' first
    | (with_reducible assumption)
    | (split)
    | (with_reducible refine Frame.foldl ?_ ?_)
    | (exact Nat.zero_and _)
    | (exact Frame.sub hL (by decide))
    | (exact Frame.bitOf hL (by decide))
    | (intro u hu x hx)
    | (intro u hu)
    | (refine Frame.bitMem (by with_reducible assumption) ?_)
    | (refine Frame.sub_all hL (by first | decide | (simp only [List.map_cons, List.map_nil]; decide)))
    | (refine Frame.bitMemFst (by with_reducible assumption) ?_)
    | (with_reducible refine Frame.wr ?_ ?_)
    | (with_reducible apply Frame.emit)
    | decide

/-- What `State.protSet` may write: register fields by number, memory at 1000. -/
def W.protSet : Nat := 0xc00000000000200000000000000000900707c0020010000000000000000000072000000000000000000000000000000000000000000000000000000000000000000

theorem Frame.protSet {M : Nat} {s0 s : State} {t : Nat} {ps : Nat} {cause : Nat} (hk0 : Frame M s0 s)
    (hL : W.protSet &&& M = W.protSet) : Frame M s0 (State.protSet s t ps cause) := by
  unfold State.protSet
  try dsimp only
  repeat' first
    | (with_reducible assumption)
    | (split)
    | (with_reducible refine Frame.foldl ?_ ?_)
    | (exact Nat.zero_and _)
    | (exact Frame.sub hL (by decide))
    | (exact Frame.bitOf hL (by decide))
    | (intro u hu x hx)
    | (intro u hu)
    | (refine Frame.bitMem (by with_reducible assumption) ?_)
    | (refine Frame.sub_all hL (by first | decide | (simp only [List.map_cons, List.map_nil]; decide)))
    | (refine Frame.bitMemFst (by with_reducible assumption) ?_)
    | (with_reducible refine Frame.wr ?_ ?_)
    | (with_reducible apply Frame.emit)
    | (with_reducible apply Frame.setPaired)
    | (with_reducible apply Frame.incWrap)
    | (with_reducible apply Frame.protEvent)
    | (with_reducible apply Frame.sendStatus)
    | decide

/-- What `State.enterSyncing` may write: register fields by number, memory at 1000. -/
def W.enterSyncing : Nat := 0xc00000000000200000000000000000910707c0020010000000000000000000072000000000000000000000000000000000000000000000000000000000000000000

theorem Frame.enterSyncing {M : Nat} {s0 s : State} {t : Nat} {cause : Nat} (hk0 : Frame M s0 s)
    (hL : W.enterSyncing &&& M = W.enterSyncing) : Frame M s0 (State.enterSyncing s t cause) := by
  unfold State.enterSyncing
  try dsimp only
  repeat' first
    | (with_reducible assumption)
    | (split)
    | (with_reducible refine Frame.foldl ?_ ?_)
    | (exact Nat.zero_and _)
    | (exact Frame.sub hL (by decide))
    | (exact Frame.bitOf hL (by decide))
    | (intro u hu x hx)
    | (intro u hu)
    | (refine Frame.bitMem (by with_reducible assumption) ?_)
    | (refine Frame.sub_all hL (by first | decide | (simp only [List.map_cons, List.map_nil]; decide)))
    | (refine Frame.bitMemFst (by with_reducible assumption) ?_)
    | (with_reducible refine Frame.wr ?_ ?_)
    | (with_reducible apply Frame.emit)
    | (with_reducible apply Frame.protSet)
    | (with_reducible apply Frame.setProt)
    | (with_reducible refine Frame.mk_other ?_)
    | decide

/-- What `State.goStandby` may write: register fields by number, memory at 1000. -/
def W.goStandby : Nat := 0x100000000000000000000000000000000000000000000000000000000000000000000000000000000000000000000000000000000000000000000000c00000000000200000000000000000000000000000000000000000000000000724012028000000000000000000000001000000c2002200000000000000000000000

theorem Frame.goStandby {M : Nat} {s0 s : State} {t : Nat} (hk0 : Frame M s0 s)
    (hL : W.goStandby &&& M = W.goStandby) : Frame M s0 (State.goStandby s t) := by
  unfold State.goStandby
  try dsimp only
  repeat' first
    | (with_reducible assumption)
    | (split)
    | (with_reducible refine Frame.foldl ?_ ?_)
    | (exact Nat.zero_and _)
    | (exact Frame.sub hL (by decide))
    | (exact Frame.bitOf hL (by decide))
    | (intro u hu x hx)
    | (intro u hu)
    | (refine Frame.bitMem (by with_reducible assumption) ?_)
    | (refine Frame.sub_all hL (by first | decide | (simp only [List.map_cons, List.map_nil]; decide)))
    | (refine Frame.bitMemFst (by with_reducible assumption) ?_)
    | (with_reducible apply Frame.emit)
    | (with_reducible apply Frame.endFsFrame)
    | (with_reducible apply Frame.treeStop)
    | (with_reducible apply Frame.dropInFlight)
    | (with_reducible apply Frame.dropStaged)
    | (with_reducible apply Frame.treeState)
    | (with_reducible apply Frame.setTreeU)
    | (with_reducible apply Frame.recordUnused)
    | (with_reducible refine Frame.mk_other ?_)
    | decide

/-- What `State.goActive` may write: register fields by number, memory at 1000. -/
def W.goActive : Nat := 0xc00000000000200000000000000000000000000000000000000000000000000720000000000000000000000000000000000000c2000200000000000000000000000

theorem Frame.goActive {M : Nat} {s0 s : State} {t : Nat} {f : Int} (hk0 : Frame M s0 s)
    (hL : W.goActive &&& M = W.goActive) : Frame M s0 (State.goActive s t f) := by
  unfold State.goActive
  try dsimp only
  repeat' first
    | (with_reducible assumption)
    | (split)
    | (with_reducible refine Frame.foldl ?_ ?_)
    | (exact Nat.zero_and _)
    | (exact Frame.sub hL (by decide))
    | (exact Frame.bitOf hL (by decide))
    | (intro u hu x hx)
    | (intro u hu)
    | (refine Frame.bitMem (by with_reducible assumption) ?_)
    | (refine Frame.sub_all hL (by first | decide | (simp only [List.map_cons, List.map_nil]; decide)))
    | (refine Frame.bitMemFst (by with_reducible assumption) ?_)
    | (with_reducible apply Frame.emit)
    | (with_reducible apply Frame.treeState)
    | (with_reducible apply Frame.setTree)
    | (with_reducible apply Frame.putTerms)
    | (with_reducible apply Frame.setTreeU)
    | (with_reducible apply Frame.reannounce)
    | (with_reducible refine Frame.mk_other ?_)
    | decide

/-- What `State.switchAnswer` may write: register fields by number, memory at 1000. -/
def W.switchAnswer : Nat := 0x100000000000000000000000000000000000000000000000000000000000000000000000000000000000000000000000000000000000000000000000c0000000000021800000000000000000000000000000000000042d00000000072401302a00000000000000000000000000000000000000000000000000000000000

theorem Frame.switchAnswer {M : Nat} {s0 s : State} {t : Nat} {r : Resp} (hk0 : Frame M s0 s)
    (hL : W.switchAnswer &&& M = W.switchAnswer) : Frame M s0 (State.switchAnswer s t r) := by
  unfold State.switchAnswer
  try dsimp only
  repeat' first
    | (with_reducible assumption)
    | (split)
    | (with_reducible refine Frame.foldl ?_ ?_)
    | (exact Nat.zero_and _)
    | (exact Frame.sub hL (by decide))
    | (exact Frame.bitOf hL (by decide))
    | (intro u hu x hx)
    | (intro u hu)
    | (refine Frame.bitMem (by with_reducible assumption) ?_)
    | (refine Frame.sub_all hL (by first | decide | (simp only [List.map_cons, List.map_nil]; decide)))
    | (refine Frame.bitMemFst (by with_reducible assumption) ?_)
    | (with_reducible apply Frame.emit)
    | (with_reducible apply Frame.setProt)
    | (with_reducible apply Frame.answerLater)
    | (with_reducible refine Frame.fst ?_ (by with_reducible assumption))
    | (with_reducible refine Frame.snd ?_ (by with_reducible assumption))
    | (with_reducible refine Frame.mk_other ?_)
    | decide

/-- What `State.setLease` may write: register fields by number, memory at 1000. -/
def W.setLease : Nat := 0x100000000000000000000000000000000000000000000000000000000000000000000000000000000000000000000000000

theorem Frame.setLease {M : Nat} {s0 s : State} {t : Nat} {ends : Option Nat} (hk0 : Frame M s0 s)
    (hL : W.setLease &&& M = W.setLease) : Frame M s0 (State.setLease s t ends) := by
  unfold State.setLease
  try dsimp only
  repeat' first
    | (with_reducible assumption)
    | (split)
    | (with_reducible refine Frame.foldl ?_ ?_)
    | (exact Nat.zero_and _)
    | (exact Frame.sub hL (by decide))
    | (exact Frame.bitOf hL (by decide))
    | (intro u hu x hx)
    | (intro u hu)
    | (refine Frame.bitMem (by with_reducible assumption) ?_)
    | (refine Frame.sub_all hL (by first | decide | (simp only [List.map_cons, List.map_nil]; decide)))
    | (refine Frame.bitMemFst (by with_reducible assumption) ?_)
    | (with_reducible apply Frame.emit)
    | (with_reducible apply Frame.setProt)
    | (with_reducible apply Frame.wrB)
    | (with_reducible refine Frame.mk_other ?_)
    | decide

/-- What `State.takeover` may write: register fields by number, memory at 1000. -/
def W.takeover : Nat := 0xc00000000000200000000000000000900707c00200100000000000000000000720000000000000000000000000000000000000c2000200000000000000000000000

theorem Frame.takeover {M : Nat} {s0 s : State} {t : Nat} {cause : Nat} (hk0 : Frame M s0 s)
    (hL : W.takeover &&& M = W.takeover) : Frame M s0 (State.takeover s t cause) := by
  unfold State.takeover
  try dsimp only
  repeat' first
    | (with_reducible assumption)
    | (split)
    | (with_reducible refine Frame.foldl ?_ ?_)
    | (exact Nat.zero_and _)
    | (exact Frame.sub hL (by decide))
    | (exact Frame.bitOf hL (by decide))
    | (intro u hu x hx)
    | (intro u hu)
    | (refine Frame.bitMem (by with_reducible assumption) ?_)
    | (refine Frame.sub_all hL (by first | decide | (simp only [List.map_cons, List.map_nil]; decide)))
    | (refine Frame.bitMemFst (by with_reducible assumption) ?_)
    | (with_reducible apply Frame.emit)
    | (with_reducible apply Frame.setProt)
    | (with_reducible apply Frame.protSet)
    | (with_reducible apply Frame.goActive)
    | (with_reducible refine Frame.mk_other ?_)
    | decide

/-- What `State.forgetSent` may write: register fields by number, memory at 1000. -/
def W.forgetSent : Nat := 0x0

theorem Frame.forgetSent {M : Nat} {s0 s : State} {t : Nat} (hk0 : Frame M s0 s)
    (_hL : W.forgetSent &&& M = W.forgetSent) : Frame M s0 (State.forgetSent s t) := by
  unfold State.forgetSent
  try dsimp only
  repeat' first
    | (with_reducible assumption)
    | (split)
    | (with_reducible refine Frame.foldl ?_ ?_)
    | (exact Nat.zero_and _)
    | (intro u hu x hx)
    | (intro u hu)
    | (refine Frame.bitMem (by with_reducible assumption) ?_)
    | (refine Frame.bitMemFst (by with_reducible assumption) ?_)
    | (with_reducible apply Frame.emit)
    | (with_reducible apply Frame.setProt)
    | (with_reducible refine Frame.mk_other ?_)
    | decide

/-- What `State.enterDark` may write: register fields by number, memory at 1000. -/
def W.enterDark : Nat := 0xc00000000000200000000000000000900707c0020010000000000000000000072000000000000000000000000000000000000000000000000000000000000000000

theorem Frame.enterDark {M : Nat} {s0 s : State} {t : Nat} {ps : Nat} {cause : Nat} (hk0 : Frame M s0 s)
    (hL : W.enterDark &&& M = W.enterDark) : Frame M s0 (State.enterDark s t ps cause) := by
  unfold State.enterDark
  try dsimp only
  repeat' first
    | (with_reducible assumption)
    | (split)
    | (with_reducible refine Frame.foldl ?_ ?_)
    | (exact Nat.zero_and _)
    | (exact Frame.sub hL (by decide))
    | (exact Frame.bitOf hL (by decide))
    | (intro u hu x hx)
    | (intro u hu)
    | (refine Frame.bitMem (by with_reducible assumption) ?_)
    | (refine Frame.sub_all hL (by first | decide | (simp only [List.map_cons, List.map_nil]; decide)))
    | (refine Frame.bitMemFst (by with_reducible assumption) ?_)
    | (with_reducible apply Frame.emit)
    | (with_reducible apply Frame.protSet)
    | (with_reducible apply Frame.forgetSent)
    | decide

/-- What `State.yieldNext` may write: register fields by number, memory at 1000. -/
def W.yieldNext : Nat := 0xc00000000000200000000000000000900707c0020010000000000000000000072000000000000000000000000000000000000000000000000000000000000000000

theorem Frame.yieldNext {M : Nat} {s0 s : State} {t : Nat} {cause : Nat} (hk0 : Frame M s0 s)
    (hL : W.yieldNext &&& M = W.yieldNext) : Frame M s0 (State.yieldNext s t cause) := by
  unfold State.yieldNext
  try dsimp only
  repeat' first
    | (with_reducible assumption)
    | (split)
    | (with_reducible refine Frame.foldl ?_ ?_)
    | (exact Nat.zero_and _)
    | (exact Frame.sub hL (by decide))
    | (exact Frame.bitOf hL (by decide))
    | (intro u hu x hx)
    | (intro u hu)
    | (refine Frame.bitMem (by with_reducible assumption) ?_)
    | (refine Frame.sub_all hL (by first | decide | (simp only [List.map_cons, List.map_nil]; decide)))
    | (refine Frame.bitMemFst (by with_reducible assumption) ?_)
    | (with_reducible apply Frame.emit)
    | (with_reducible apply Frame.protSet)
    | (with_reducible apply Frame.setTree)
    | (with_reducible apply Frame.setProt)
    | (with_reducible refine Frame.mk_other ?_)
    | decide

/-- What `State.freeStandbySlots` may write: register fields by number, memory at 1000. -/
def W.freeStandbySlots : Nat := 0x100000000000000000000000000000000000000000000000000000000000000000000000000000000000000000000000000000000000000000000000c0000000000020000000000000000000000000000000000000000000000000072401202800000000000000000010000000004020400000000000000000000000000

theorem Frame.freeStandbySlots {M : Nat} {s0 s : State} {t : Nat} (hk0 : Frame M s0 s)
    (hL : W.freeStandbySlots &&& M = W.freeStandbySlots) : Frame M s0 (State.freeStandbySlots s t) := by
  unfold State.freeStandbySlots
  try dsimp only
  repeat' first
    | (with_reducible assumption)
    | (split)
    | (with_reducible refine Frame.foldl ?_ ?_)
    | (exact Nat.zero_and _)
    | (exact Frame.sub hL (by decide))
    | (exact Frame.bitOf hL (by decide))
    | (intro u hu x hx)
    | (intro u hu)
    | (refine Frame.bitMem (by with_reducible assumption) ?_)
    | (refine Frame.sub_all hL (by first | decide | (simp only [List.map_cons, List.map_nil]; decide)))
    | (refine Frame.bitMemFst (by with_reducible assumption) ?_)
    | (with_reducible apply Frame.emit)
    | (with_reducible apply Frame.eraseSlot)
    | (with_reducible apply Frame.unbindSlot)
    | (with_reducible refine Frame.fst ?_ (by with_reducible assumption))
    | (with_reducible refine Frame.snd ?_ (by with_reducible assumption))
    | (with_reducible refine Frame.mk_other ?_)
    | decide

/-- What `State.endPairWork` may write: register fields by number, memory at 1000. -/
def W.endPairWork : Nat := 0x100000000000000000000000000000000000000000000000000000000000000000000000000000000000000000000000000000000000000000000000c0000000000021800000007300000400000000020010000000042d00000000072401302a00000000000000000000000100000000002000000000000000000000000

theorem Frame.endPairWork {M : Nat} {s0 s : State} {t : Nat} (hk0 : Frame M s0 s)
    (hL : W.endPairWork &&& M = W.endPairWork) : Frame M s0 (State.endPairWork s t) := by
  unfold State.endPairWork
  try dsimp only
  repeat' first
    | (with_reducible assumption)
    | (split)
    | (with_reducible refine Frame.foldl ?_ ?_)
    | (exact Nat.zero_and _)
    | (exact Frame.sub hL (by decide))
    | (exact Frame.bitOf hL (by decide))
    | (intro u hu x hx)
    | (intro u hu)
    | (refine Frame.bitMem (by with_reducible assumption) ?_)
    | (refine Frame.sub_all hL (by first | decide | (simp only [List.map_cons, List.map_nil]; decide)))
    | (refine Frame.bitMemFst (by with_reducible assumption) ?_)
    | (with_reducible apply Frame.emit)
    | (with_reducible apply Frame.switchAnswer)
    | (with_reducible apply Frame.answerFailed)
    | (with_reducible apply Frame.setProt)
    | (with_reducible apply Frame.quench)
    | (with_reducible refine Frame.mk_other ?_)
    | decide

/-- What `State.leavePair` may write: register fields by number, memory at 1000. -/
def W.leavePair : Nat := 0x100000000000000000000000000000000000000000000000000000000000000000000000000000000000000000000000000000000000000000000000c00000000000218000000073000004973f47c0020010000000042d00000000072401302a00000000000000000010000100004020402000000000000000000000000

theorem Frame.leavePair {M : Nat} {s0 s : State} {t : Nat} {cause : Nat} (hk0 : Frame M s0 s)
    (hL : W.leavePair &&& M = W.leavePair) : Frame M s0 (State.leavePair s t cause) := by
  unfold State.leavePair
  try dsimp only
  repeat' first
    | (with_reducible assumption)
    | (split)
    | (with_reducible refine Frame.foldl ?_ ?_)
    | (exact Nat.zero_and _)
    | (exact Frame.sub hL (by decide))
    | (exact Frame.bitOf hL (by decide))
    | (intro u hu x hx)
    | (intro u hu)
    | (refine Frame.bitMem (by with_reducible assumption) ?_)
    | (refine Frame.sub_all hL (by first | decide | (simp only [List.map_cons, List.map_nil]; decide)))
    | (refine Frame.bitMemFst (by with_reducible assumption) ?_)
    | (with_reducible refine Frame.wr ?_ ?_)
    | (with_reducible apply Frame.emit)
    | (with_reducible apply Frame.endPairWork)
    | (with_reducible apply Frame.freeStandbySlots)
    | (with_reducible apply Frame.setLease)
    | (with_reducible apply Frame.protSet)
    | (with_reducible apply Frame.protEvent)
    | (with_reducible apply Frame.setProt)
    | decide

/-- What `State.treeDisable` may write: register fields by number, memory at 1000. -/
def W.treeDisable : Nat := 0x100000000000000000000000000000000000000000000000000000000000000000000000000000000000000000000000000000000000000000000000c0000000000021800000000000000000000000000000000000042d00000000072401302a000000000010000000040001000000c2002600000000000000000200000

theorem Frame.treeDisable {M : Nat} {s0 s : State} {t : Nat} (hk0 : Frame M s0 s)
    (hL : W.treeDisable &&& M = W.treeDisable) : Frame M s0 (State.treeDisable s t) := by
  unfold State.treeDisable
  try dsimp only
  repeat' first
    | (with_reducible assumption)
    | (split)
    | (with_reducible refine Frame.foldl ?_ ?_)
    | (exact Nat.zero_and _)
    | (exact Frame.sub hL (by decide))
    | (exact Frame.bitOf hL (by decide))
    | (intro u hu x hx)
    | (intro u hu)
    | (refine Frame.bitMem (by with_reducible assumption) ?_)
    | (refine Frame.sub_all hL (by first | decide | (simp only [List.map_cons, List.map_nil]; decide)))
    | (refine Frame.bitMemFst (by with_reducible assumption) ?_)
    | (with_reducible refine Frame.wr ?_ ?_)
    | (with_reducible apply Frame.emit)
    | (with_reducible apply Frame.cancelStart)
    | (with_reducible apply Frame.treeStop)
    | (with_reducible apply Frame.dropInFlight)
    | (with_reducible apply Frame.dropStaged)
    | (with_reducible apply Frame.flushQueues)
    | (with_reducible apply Frame.treeState)
    | (with_reducible apply Frame.termsLeave)
    | (with_reducible apply Frame.setTreeU)
    | (with_reducible apply Frame.setTree)
    | (with_reducible apply Frame.putSluUnits)
    | (with_reducible apply Frame.freeRetained)
    | (with_reducible apply Frame.countForecasts)
    | (with_reducible refine Frame.mk_other ?_)
    | decide

/-- What `State.dissolve` may write: register fields by number, memory at 1000. -/
def W.dissolve : Nat := 0x100000000000000000000000000000000000000000000000000000000000000000000000000000000000000000000000000000000000000000000000c00000000000218000000073000004977f47c0020010000000042d00000000072401302a000000000010000000140001000040e2402600000000000000000200000

theorem Frame.dissolve {M : Nat} {s0 s : State} {t : Nat} {cause : Nat} (hk0 : Frame M s0 s)
    (hL : W.dissolve &&& M = W.dissolve) : Frame M s0 (State.dissolve s t cause) := by
  unfold State.dissolve
  try dsimp only
  repeat' first
    | (with_reducible assumption)
    | (split)
    | (with_reducible refine Frame.foldl ?_ ?_)
    | (exact Nat.zero_and _)
    | (exact Frame.sub hL (by decide))
    | (exact Frame.bitOf hL (by decide))
    | (intro u hu x hx)
    | (intro u hu)
    | (refine Frame.bitMem (by with_reducible assumption) ?_)
    | (refine Frame.sub_all hL (by first | decide | (simp only [List.map_cons, List.map_nil]; decide)))
    | (refine Frame.bitMemFst (by with_reducible assumption) ?_)
    | (with_reducible refine Frame.wr ?_ ?_)
    | (with_reducible apply Frame.emit)
    | (with_reducible apply Frame.leavePair)
    | (with_reducible apply Frame.treeDisable)
    | decide

/-- What `State.faultTree` may write: register fields by number, memory at 1000. -/
def W.faultTree : Nat := 0x100000000000000000000000000000000000000000000000000000000000000000000000000000000000000000000000000000000000000000000000c00000000000218000000000000000900707c0020010000000042d00000000072401302a000000000000000000040001000000c6002600000000000000000200000

theorem Frame.faultTree {M : Nat} {s0 s : State} {t : Nat} {cause : Nat} (hk0 : Frame M s0 s)
    (hL : W.faultTree &&& M = W.faultTree) : Frame M s0 (State.faultTree s t cause) := by
  unfold State.faultTree
  try dsimp only
  repeat' first
    | (with_reducible assumption)
    | (split)
    | (with_reducible refine Frame.foldl ?_ ?_)
    | (exact Nat.zero_and _)
    | (exact Frame.sub hL (by decide))
    | (exact Frame.bitOf hL (by decide))
    | (intro u hu x hx)
    | (intro u hu)
    | (refine Frame.bitMem (by with_reducible assumption) ?_)
    | (refine Frame.sub_all hL (by first | decide | (simp only [List.map_cons, List.map_nil]; decide)))
    | (refine Frame.bitMemFst (by with_reducible assumption) ?_)
    | (with_reducible apply Frame.emit)
    | (with_reducible apply Frame.treeFault)
    | (with_reducible apply Frame.switchAnswer)
    | (with_reducible apply Frame.enterDark)
    | decide

/-- What `State.tryReady` may write: register fields by number, memory at 1000. -/
def W.tryReady : Nat := 0xc00000000000200000000000000000900707c0020010000000000000000000072000000000000000000000000000000000000000000000000000000000000000000

theorem Frame.tryReady {M : Nat} {s0 s : State} {t : Nat} (hk0 : Frame M s0 s)
    (hL : W.tryReady &&& M = W.tryReady) : Frame M s0 (State.tryReady s t) := by
  unfold State.tryReady
  try dsimp only
  repeat' first
    | (with_reducible assumption)
    | (split)
    | (with_reducible refine Frame.foldl ?_ ?_)
    | (exact Nat.zero_and _)
    | (exact Frame.sub hL (by decide))
    | (exact Frame.bitOf hL (by decide))
    | (intro u hu x hx)
    | (intro u hu)
    | (refine Frame.bitMem (by with_reducible assumption) ?_)
    | (refine Frame.sub_all hL (by first | decide | (simp only [List.map_cons, List.map_nil]; decide)))
    | (refine Frame.bitMemFst (by with_reducible assumption) ?_)
    | (with_reducible apply Frame.emit)
    | (with_reducible apply Frame.protSet)
    | decide

/-- What `State.countClean` may write: register fields by number, memory at 1000. -/
def W.countClean : Nat := 0xc00000000000200000000000000000910707c0020010000000000000000000072000000000000000000000000000000000000000000000000000000000000000000

theorem Frame.countClean {M : Nat} {s0 s : State} {t : Nat} {clean : Bool} (hk0 : Frame M s0 s)
    (hL : W.countClean &&& M = W.countClean) : Frame M s0 (State.countClean s t clean) := by
  unfold State.countClean
  try dsimp only
  repeat' first
    | (with_reducible assumption)
    | (split)
    | (with_reducible refine Frame.foldl ?_ ?_)
    | (exact Nat.zero_and _)
    | (exact Frame.sub hL (by decide))
    | (exact Frame.bitOf hL (by decide))
    | (intro u hu x hx)
    | (intro u hu)
    | (refine Frame.bitMem (by with_reducible assumption) ?_)
    | (refine Frame.sub_all hL (by first | decide | (simp only [List.map_cons, List.map_nil]; decide)))
    | (refine Frame.bitMemFst (by with_reducible assumption) ?_)
    | (with_reducible refine Frame.wr ?_ ?_)
    | (with_reducible apply Frame.emit)
    | (with_reducible apply Frame.tryReady)
    | decide

/-- What `State.deltaFrame` may write: register fields by number, memory at 1000. -/
def W.deltaFrame : Nat := 0x440000000000000000000000000000000000000000000000000000000000000000000000000000000000000000000000000

theorem Frame.deltaFrame {M : Nat} {s0 s : State} {t : Nat} (hk0 : Frame M s0 s)
    (hL : W.deltaFrame &&& M = W.deltaFrame) : Frame M s0 (State.deltaFrame s t) := by
  unfold State.deltaFrame
  try dsimp only
  repeat' first
    | (with_reducible assumption)
    | (split)
    | (with_reducible refine Frame.foldl ?_ ?_)
    | (exact Nat.zero_and _)
    | (exact Frame.sub hL (by decide))
    | (exact Frame.bitOf hL (by decide))
    | (intro u hu x hx)
    | (intro u hu)
    | (refine Frame.bitMem (by with_reducible assumption) ?_)
    | (refine Frame.sub_all hL (by first | decide | (simp only [List.map_cons, List.map_nil]; decide)))
    | (refine Frame.bitMemFst (by with_reducible assumption) ?_)
    | (with_reducible refine Frame.wr ?_ ?_)
    | (with_reducible apply Frame.emit)
    | (with_reducible apply Frame.setProt)
    | (with_reducible refine Frame.mk_other ?_)
    | decide

/-- What `State.usFrameEnd` may write: register fields by number, memory at 1000. -/
def W.usFrameEnd : Nat := 0xc00000000000200000000000000000d94707c00200100000000000000000000720000000000000000000000000000000000000c2000200000000000000000000000

theorem Frame.usFrameEnd {M : Nat} {s0 s : State} {t : Nat} {c : UsCount} (hk0 : Frame M s0 s)
    (hL : W.usFrameEnd &&& M = W.usFrameEnd) : Frame M s0 (State.usFrameEnd s t c) := by
  unfold State.usFrameEnd
  try dsimp only
  repeat' first
    | (with_reducible assumption)
    | (split)
    | (with_reducible refine Frame.foldl ?_ ?_)
    | (exact Nat.zero_and _)
    | (exact Frame.sub hL (by decide))
    | (exact Frame.bitOf hL (by decide))
    | (intro u hu x hx)
    | (intro u hu)
    | (refine Frame.bitMem (by with_reducible assumption) ?_)
    | (refine Frame.sub_all hL (by first | decide | (simp only [List.map_cons, List.map_nil]; decide)))
    | (refine Frame.bitMemFst (by with_reducible assumption) ?_)
    | (with_reducible refine Frame.wr ?_ ?_)
    | (with_reducible apply Frame.emit)
    | (with_reducible apply Frame.incSat)
    | (with_reducible apply Frame.setProt)
    | (with_reducible apply Frame.take)
    | (with_reducible apply Frame.deltaFrame)
    | (with_reducible apply Frame.countClean)
    | (with_reducible apply Frame.takeover)
    | (with_reducible refine Frame.mk_other ?_)
    | decide

/-- What `State.askLease` may write: register fields by number, memory at 1000. -/
def W.askLease : Nat := 0xc0000000000020000000000000000000000000020010000000000000000000072000000000000000000000000000000000000000000000000000000000000000000

theorem Frame.askLease {M : Nat} {s0 s : State} {t : Nat} (hk0 : Frame M s0 s)
    (hL : W.askLease &&& M = W.askLease) : Frame M s0 (State.askLease s t) := by
  unfold State.askLease
  try dsimp only
  repeat' first
    | (with_reducible assumption)
    | (split)
    | (with_reducible refine Frame.foldl ?_ ?_)
    | (exact Nat.zero_and _)
    | (exact Frame.sub hL (by decide))
    | (exact Frame.bitOf hL (by decide))
    | (intro u hu x hx)
    | (intro u hu)
    | (refine Frame.bitMem (by with_reducible assumption) ?_)
    | (refine Frame.sub_all hL (by first | decide | (simp only [List.map_cons, List.map_nil]; decide)))
    | (refine Frame.bitMemFst (by with_reducible assumption) ?_)
    | (with_reducible apply Frame.emit)
    | (with_reducible apply Frame.setProt)
    | (with_reducible apply Frame.sendTo)
    | (with_reducible refine Frame.mk_other ?_)
    | decide

end Sys2Proof.Machine
end

