-- ==== Sys2Proof/Laws/FrameSluOps.lean ====
section
/-! SUPPORT. Which registers, and whether the memories, the operations of SluOps may write (Laws/Frame.lean). -/

namespace Sys2Proof.Machine

set_option Elab.async false
set_option linter.all false

/-- What `State.setCommit` may write: register fields by number, memory at 1000. -/
def W.setCommit : Nat := 0x800000000000000000000000000000000000000000000000000

theorem Frame.setCommit {M : Nat} {s0 s : State} {t : Nat} (hk0 : Frame M s0 s)
    (hL : W.setCommit &&& M = W.setCommit) : Frame M s0 (State.setCommit s t) := by
  unfold State.setCommit
  try dsimp only
  repeat' first
    | (with_reducible assumption)
    | (split)
    | (with_reducible refine Frame.foldl ?_ ?_)
    | (exact Nat.zero_and _)
    | (exact Frame.sub hL (by decide))
    | (exact Frame.bitOf hL (by decide))
    | (intro u hu x hx)
    | (intro u hu)
    | (refine Frame.bitMem (by with_reducible assumption) ?_)
    | (refine Frame.sub_all hL (by first | decide | (simp only [List.map_cons, List.map_nil]; decide)))
    | (refine Frame.bitMemFst (by with_reducible assumption) ?_)
    | (with_reducible refine Frame.wr ?_ ?_)
    | (with_reducible apply Frame.emit)
    | decide

/-- What `State.postSlu` may write: register fields by number, memory at 1000. -/
def W.postSlu : Nat := 0x0

theorem Frame.postSlu {M : Nat} {s0 s : State} {t : Nat} {f : SluTree → SluTree} (hk0 : Frame M s0 s)
    (_hL : W.postSlu &&& M = W.postSlu) : Frame M s0 (State.postSlu s t f) := by
  unfold State.postSlu
  try dsimp only
  repeat' first
    | (with_reducible assumption)
    | (split)
    | (with_reducible refine Frame.foldl ?_ ?_)
    | (exact Nat.zero_and _)
    | (intro u hu x hx)
    | (intro u hu)
    | (refine Frame.bitMem (by with_reducible assumption) ?_)
    | (refine Frame.bitMemFst (by with_reducible assumption) ?_)
    | (with_reducible apply Frame.emit)
    | (with_reducible apply Frame.setSluTree)
    | decide

/-- What `State.postReport` may write: register fields by number, memory at 1000. -/
def W.postReport : Nat := 0x0

theorem Frame.postReport {M : Nat} {s0 s : State} {t : Nat} {a : Nat} {bytes : Nat} {mapF : Int} (hk0 : Frame M s0 s)
    (_hL : W.postReport &&& M = W.postReport) : Frame M s0 (State.postReport s t a bytes mapF) := by
  unfold State.postReport
  try dsimp only
  repeat' first
    | (with_reducible assumption)
    | (split)
    | (with_reducible refine Frame.foldl ?_ ?_)
    | (exact Nat.zero_and _)
    | (intro u hu x hx)
    | (intro u hu)
    | (refine Frame.bitMem (by with_reducible assumption) ?_)
    | (refine Frame.bitMemFst (by with_reducible assumption) ?_)
    | (with_reducible apply Frame.emit)
    | (with_reducible apply Frame.postSlu)
    | (with_reducible refine Frame.mk_other ?_)
    | decide

/-- What `State.forgetAlloc` may write: register fields by number, memory at 1000. -/
def W.forgetAlloc : Nat := 0x0

theorem Frame.forgetAlloc {M : Nat} {s0 s : State} {t : Nat} {a : Nat} (hk0 : Frame M s0 s)
    (_hL : W.forgetAlloc &&& M = W.forgetAlloc) : Frame M s0 (State.forgetAlloc s t a) := by
  unfold State.forgetAlloc
  try dsimp only
  repeat' first
    | (with_reducible assumption)
    | (split)
    | (with_reducible refine Frame.foldl ?_ ?_)
    | (exact Nat.zero_and _)
    | (intro u hu x hx)
    | (intro u hu)
    | (refine Frame.bitMem (by with_reducible assumption) ?_)
    | (refine Frame.bitMemFst (by with_reducible assumption) ?_)
    | (with_reducible apply Frame.emit)
    | (with_reducible apply Frame.setSluTree)
    | (with_reducible apply Frame.putSluUnits)
    | (with_reducible refine Frame.mk_other ?_)
    | decide

/-- What `State.forecastsLost` may write: register fields by number, memory at 1000. -/
def W.forecastsLost : Nat := 0xc0000000000020000000000000000000000000000000000000000000000000072000000000000000002010000000000000000000000000000000000000000000000

theorem Frame.forecastsLost {M : Nat} {s0 s : State} {n : Nat} (hk0 : Frame M s0 s)
    (hL : W.forecastsLost &&& M = W.forecastsLost) : Frame M s0 (State.forecastsLost s n) := by
  unfold State.forecastsLost
  try dsimp only
  repeat' first
    | (with_reducible assumption)
    | (split)
    | (with_reducible refine Frame.foldl ?_ ?_)
    | (exact Nat.zero_and _)
    | (exact Frame.sub hL (by decide))
    | (exact Frame.bitOf hL (by decide))
    | (intro u hu x hx)
    | (intro u hu)
    | (refine Frame.bitMem (by with_reducible assumption) ?_)
    | (refine Frame.sub_all hL (by first | decide | (simp only [List.map_cons, List.map_nil]; decide)))
    | (refine Frame.bitMemFst (by with_reducible assumption) ?_)
    | (with_reducible apply Frame.emit)
    | (with_reducible apply Frame.incSat)
    | (with_reducible apply Frame.sluEvent)
    | decide

/-- What `State.dropAlloc` may write: register fields by number, memory at 1000. -/
def W.dropAlloc : Nat := 0xc0000000000020000000000000000000000000000000000000000000000000072000000000000000003010000000000000000000000000000000000000000000000

theorem Frame.dropAlloc {M : Nat} {s0 s : State} {t : Nat} {a : Nat} (hk0 : Frame M s0 s)
    (hL : W.dropAlloc &&& M = W.dropAlloc) : Frame M s0 (State.dropAlloc s t a) := by
  unfold State.dropAlloc
  try dsimp only
  repeat' first
    | (with_reducible assumption)
    | (split)
    | (with_reducible refine Frame.foldl ?_ ?_)
    | (exact Nat.zero_and _)
    | (exact Frame.sub hL (by decide))
    | (exact Frame.bitOf hL (by decide))
    | (intro u hu x hx)
    | (intro u hu)
    | (refine Frame.bitMem (by with_reducible assumption) ?_)
    | (refine Frame.sub_all hL (by first | decide | (simp only [List.map_cons, List.map_nil]; decide)))
    | (refine Frame.bitMemFst (by with_reducible assumption) ?_)
    | (with_reducible apply Frame.emit)
    | (with_reducible apply Frame.forecastsLost)
    | (with_reducible apply Frame.forgetAlloc)
    | (with_reducible apply Frame.countForecasts)
    | decide

/-- What `State.quietClose` may write: register fields by number, memory at 1000. -/
def W.quietClose : Nat := 0x0

theorem Frame.quietClose {M : Nat} {s0 s : State} {t : Nat} (hk0 : Frame M s0 s)
    (_hL : W.quietClose &&& M = W.quietClose) : Frame M s0 (State.quietClose s t) := by
  unfold State.quietClose
  try dsimp only
  repeat' first
    | (with_reducible assumption)
    | (split)
    | (with_reducible refine Frame.foldl ?_ ?_)
    | (exact Nat.zero_and _)
    | (intro u hu x hx)
    | (intro u hu)
    | (refine Frame.bitMem (by with_reducible assumption) ?_)
    | (refine Frame.bitMemFst (by with_reducible assumption) ?_)
    | (with_reducible apply Frame.emit)
    | (with_reducible apply Frame.setShared)
    | (with_reducible apply Frame.setTerm)
    | (with_reducible apply Frame.askRanging)
    | (with_reducible refine Frame.fst ?_ (by with_reducible assumption))
    | (with_reducible refine Frame.snd ?_ (by with_reducible assumption))
    | (with_reducible refine Frame.mk_other ?_)
    | decide

/-- What `State.quietStep` may write: register fields by number, memory at 1000. -/
def W.quietStep : Nat := 0x0

theorem Frame.quietStep {M : Nat} {s0 s : State} {t : Nat} {fr : Int} (hk0 : Frame M s0 s)
    (_hL : W.quietStep &&& M = W.quietStep) : Frame M s0 (State.quietStep s t fr) := by
  unfold State.quietStep
  try dsimp only
  repeat' first
    | (with_reducible assumption)
    | (split)
    | (with_reducible refine Frame.foldl ?_ ?_)
    | (exact Nat.zero_and _)
    | (intro u hu x hx)
    | (intro u hu)
    | (refine Frame.bitMem (by with_reducible assumption) ?_)
    | (refine Frame.bitMemFst (by with_reducible assumption) ?_)
    | (with_reducible apply Frame.emit)
    | (with_reducible apply Frame.quietClose)
    | (with_reducible apply Frame.setShared)
    | (with_reducible apply Frame.fillRanging)
    | (with_reducible apply Frame.setTreeU)
    | (with_reducible refine Frame.fst ?_ (by with_reducible assumption))
    | (with_reducible refine Frame.snd ?_ (by with_reducible assumption))
    | (with_reducible refine Frame.mk_other ?_)
    | decide

/-- What `State.setUnit` may write: register fields by number, memory at 1000. -/
def W.setUnit : Nat := 0xf000000000000000000000000000000000000000000

theorem Frame.setUnit {M : Nat} {s0 s : State} {u : Nat} {st : Nat} (hk0 : Frame M s0 s)
    (hL : W.setUnit &&& M = W.setUnit) : Frame M s0 (State.setUnit s u st) := by
  unfold State.setUnit
  try dsimp only
  repeat' first
    | (with_reducible assumption)
    | (split)
    | (with_reducible refine Frame.foldl ?_ ?_)
    | (exact Nat.zero_and _)
    | (exact Frame.sub hL (by decide))
    | (exact Frame.bitOf hL (by decide))
    | (intro u hu x hx)
    | (intro u hu)
    | (refine Frame.bitMem (by with_reducible assumption) ?_)
    | (refine Frame.sub_all hL (by first | decide | (simp only [List.map_cons, List.map_nil]; decide)))
    | (refine Frame.bitMemFst (by with_reducible assumption) ?_)
    | (with_reducible refine Frame.wr ?_ ?_)
    | (with_reducible apply Frame.emit)
    | (with_reducible apply Frame.wrB)
    | decide

/-- What `State.enterResync` may write: register fields by number, memory at 1000. -/
def W.enterResync : Nat := 0xf000000000000000000000000000000000000000000

theorem Frame.enterResync {M : Nat} {s0 s : State} {u : Nat} {passed : Bool} (hk0 : Frame M s0 s)
    (hL : W.enterResync &&& M = W.enterResync) : Frame M s0 (State.enterResync s u passed) := by
  unfold State.enterResync
  try dsimp only
  repeat' first
    | (with_reducible assumption)
    | (split)
    | (with_reducible refine Frame.foldl ?_ ?_)
    | (exact Nat.zero_and _)
    | (exact Frame.sub hL (by decide))
    | (exact Frame.bitOf hL (by decide))
    | (intro u hu x hx)
    | (intro u hu)
    | (refine Frame.bitMem (by with_reducible assumption) ?_)
    | (refine Frame.sub_all hL (by first | decide | (simp only [List.map_cons, List.map_nil]; decide)))
    | (refine Frame.bitMemFst (by with_reducible assumption) ?_)
    | (with_reducible apply Frame.emit)
    | (with_reducible apply Frame.setSluTree)
    | (with_reducible apply Frame.setSluUnit)
    | (with_reducible apply Frame.setUnit)
    | (with_reducible refine Frame.mk_other ?_)
    | decide

/-- What `State.switchOver` may write: register fields by number, memory at 1000. -/
def W.switchOver : Nat := 0xc000000000002000000000000000000000000000000000000000000000000007200000000000000000000020f000000000000000000000000000000000000000000

theorem Frame.switchOver {M : Nat} {s0 s : State} {unit : Nat} (hk0 : Frame M s0 s)
    (hL : W.switchOver &&& M = W.switchOver) : Frame M s0 (State.switchOver s unit) := by
  unfold State.switchOver
  try dsimp only
  repeat' first
    | (with_reducible assumption)
    | (split)
    | (with_reducible refine Frame.foldl ?_ ?_)
    | (exact Nat.zero_and _)
    | (exact Frame.sub hL (by decide))
    | (exact Frame.bitOf hL (by decide))
    | (intro u hu x hx)
    | (intro u hu)
    | (refine Frame.bitMem (by with_reducible assumption) ?_)
    | (refine Frame.sub_all hL (by first | decide | (simp only [List.map_cons, List.map_nil]; decide)))
    | (refine Frame.bitMemFst (by with_reducible assumption) ?_)
    | (with_reducible apply Frame.emit)
    | (with_reducible apply Frame.putSlu)
    | (with_reducible apply Frame.sluEvent)
    | (with_reducible apply Frame.setUnit)
    | (with_reducible refine Frame.mk_other ?_)
    | decide

/-- What `State.unitFail` may write: register fields by number, memory at 1000. -/
def W.unitFail : Nat := 0xc000000000002000000000000000000000000000000000000000000000000007200000000000000000c002a0f000000000000000000000000000000000000000000

theorem Frame.unitFail {M : Nat} {s0 s : State} {u : Nat} {cause : Nat} (hk0 : Frame M s0 s)
    (hL : W.unitFail &&& M = W.unitFail) : Frame M s0 (State.unitFail s u cause) := by
  unfold State.unitFail
  try dsimp only
  repeat' first
    | (with_reducible assumption)
    | (split)
    | (with_reducible refine Frame.foldl ?_ ?_)
    | (exact Nat.zero_and _)
    | (exact Frame.sub hL (by decide))
    | (exact Frame.bitOf hL (by decide))
    | (intro u hu x hx)
    | (intro u hu)
    | (refine Frame.bitMem (by with_reducible assumption) ?_)
    | (refine Frame.sub_all hL (by first | decide | (simp only [List.map_cons, List.map_nil]; decide)))
    | (refine Frame.bitMemFst (by with_reducible assumption) ?_)
    | (with_reducible refine Frame.wr ?_ ?_)
    | (with_reducible apply Frame.emit)
    | (with_reducible apply Frame.setUnit)
    | (with_reducible apply Frame.sluEvent)
    | (with_reducible apply Frame.setSluUnit)
    | (with_reducible apply Frame.switchOver)
    | (with_reducible refine Frame.mk_other ?_)
    | decide

/-- What `State.sluDomainLeft` may write: register fields by number, memory at 1000. -/
def W.sluDomainLeft : Nat := 0xc000000000002000000000000000000000000000000000000000000000000007200000000000000000c002a0f000000000000000000000000000000000000000000

theorem Frame.sluDomainLeft {M : Nat} {s0 s : State} {u : Nat} (hk0 : Frame M s0 s)
    (hL : W.sluDomainLeft &&& M = W.sluDomainLeft) : Frame M s0 (State.sluDomainLeft s u) := by
  unfold State.sluDomainLeft
  try dsimp only
  repeat' first
    | (with_reducible assumption)
    | (split)
    | (with_reducible refine Frame.foldl ?_ ?_)
    | (exact Nat.zero_and _)
    | (exact Frame.sub hL (by decide))
    | (exact Frame.bitOf hL (by decide))
    | (intro u hu x hx)
    | (intro u hu)
    | (refine Frame.bitMem (by with_reducible assumption) ?_)
    | (refine Frame.sub_all hL (by first | decide | (simp only [List.map_cons, List.map_nil]; decide)))
    | (refine Frame.bitMemFst (by with_reducible assumption) ?_)
    | (with_reducible refine Frame.wr ?_ ?_)
    | (with_reducible apply Frame.emit)
    | (with_reducible apply Frame.unitFail)
    | (with_reducible apply Frame.setSluUnit)
    | (with_reducible refine Frame.mk_other ?_)
    | decide

end Sys2Proof.Machine
end

