-- ==== Sys2Proof/Laws/FrameMirrorOps.lean ====
section
/-! SUPPORT. Which registers, and whether the memories, the operations of MirrorOps may write (Laws/Frame.lean). -/

namespace Sys2Proof.Machine

set_option Elab.async false
set_option linter.all false

/-- What `State.syncCells` may write: register fields by number, memory at 1000. -/
def W.syncCells : Nat := 0xc0000000000020000000000000000000000000020010000000000000000000072000000000000000000000000000000000000000000000000000000000000000000

theorem Frame.syncCells_at {s0 s : State} {t op n : Nat} {l : List (List Byte)} (h : Frame W.syncCells s0 s) :
    Frame W.syncCells s0 (State.syncCells s t op n l) := by
  induction n generalizing s l with
  | zero => exact h
  | succ n ih =>
    unfold State.syncCells
    dsimp only
    split
    · exact h
    · exact ih (Frame.sendMessage (hL := by decide) h)

theorem Frame.syncCells {M : Nat} {s0 s : State} {t op n : Nat} {l : List (List Byte)} (hk0 : Frame M s0 s) (hL : W.syncCells &&& M = W.syncCells) :
    Frame M s0 (State.syncCells s t op n l) := hk0.trans ((Frame.syncCells_at (Frame.refl _ _) ).mono hL)

/-- What `State.mirrorFrame` may write: register fields by number, memory at 1000. -/
def W.mirrorFrame : Nat := 0xc00000000000218000000000000002910707c0020010000000000000000000072000000000000000000000000000000000000000000000000000000000000000000

theorem Frame.mirrorFrame {M : Nat} {s0 s : State} {t : Nat} {f : Int} (hk0 : Frame M s0 s)
    (hL : W.mirrorFrame &&& M = W.mirrorFrame) : Frame M s0 (State.mirrorFrame s t f) := by
  unfold State.mirrorFrame
  try dsimp only
  repeat' first
    | (with_reducible assumption)
    | (split)
    | (with_reducible refine Frame.foldl ?_ ?_)
    | (exact Nat.zero_and _)
    | (exact Frame.sub hL (by decide))
    | (exact Frame.bitOf hL (by decide))
    | (intro u hu x hx)
    | (intro u hu)
    | (refine Frame.bitMem (by with_reducible assumption) ?_)
    | (refine Frame.sub_all hL (by first | decide | (simp only [List.map_cons, List.map_nil]; decide)))
    | (refine Frame.bitMemFst (by with_reducible assumption) ?_)
    | (with_reducible apply Frame.emit)
    | (with_reducible apply Frame.tableSync)
    | (with_reducible apply Frame.setProt)
    | (with_reducible apply Frame.protMsg)
    | (with_reducible apply Frame.syncCells)
    | (with_reducible refine Frame.fst ?_ (by with_reducible assumption))
    | (with_reducible refine Frame.snd ?_ (by with_reducible assumption))
    | (with_reducible refine Frame.mk_other ?_)
    | decide

/-- What `State.mirrorError` may write: register fields by number, memory at 1000. -/
def W.mirrorError : Nat := 0xc00000000000200000000000000002910707c0020010000000000000000000072000000000000000000000000000000000000000000000000000000000000000000

theorem Frame.mirrorError {M : Nat} {s0 s : State} {t : Nat} (hk0 : Frame M s0 s)
    (hL : W.mirrorError &&& M = W.mirrorError) : Frame M s0 (State.mirrorError s t) := by
  unfold State.mirrorError
  try dsimp only
  repeat' first
    | (with_reducible assumption)
    | (split)
    | (with_reducible refine Frame.foldl ?_ ?_)
    | (exact Nat.zero_and _)
    | (exact Frame.sub hL (by decide))
    | (exact Frame.bitOf hL (by decide))
    | (intro u hu x hx)
    | (intro u hu)
    | (refine Frame.bitMem (by with_reducible assumption) ?_)
    | (refine Frame.sub_all hL (by first | decide | (simp only [List.map_cons, List.map_nil]; decide)))
    | (refine Frame.bitMemFst (by with_reducible assumption) ?_)
    | (with_reducible apply Frame.emit)
    | (with_reducible apply Frame.incSat)
    | (with_reducible apply Frame.enterSyncing)
    | decide

/-- What `State.mirrorRefused` may write: register fields by number, memory at 1000. -/
def W.mirrorRefused : Nat := 0x200000000000000000000000000000000000000000000000000000000000000000000000000000000000000000000000000000

theorem Frame.mirrorRefused {M : Nat} {s0 s : State} {t : Nat} (hk0 : Frame M s0 s)
    (hL : W.mirrorRefused &&& M = W.mirrorRefused) : Frame M s0 (State.mirrorRefused s t) := by
  unfold State.mirrorRefused
  try dsimp only
  repeat' first
    | (with_reducible assumption)
    | (split)
    | (with_reducible refine Frame.foldl ?_ ?_)
    | (exact Nat.zero_and _)
    | (exact Frame.sub hL (by decide))
    | (exact Frame.bitOf hL (by decide))
    | (intro u hu x hx)
    | (intro u hu)
    | (refine Frame.bitMem (by with_reducible assumption) ?_)
    | (refine Frame.sub_all hL (by first | decide | (simp only [List.map_cons, List.map_nil]; decide)))
    | (refine Frame.bitMemFst (by with_reducible assumption) ?_)
    | (with_reducible apply Frame.emit)
    | (with_reducible apply Frame.incSat)
    | decide

/-- What `State.applyTerm` may write: register fields by number, memory at 1000. -/
def W.applyTerm : Nat := 0x200000000000000000000000000000000000000000000000000000000000000000000000000002000000000000000000000000

theorem Frame.applyTerm {M : Nat} {s0 s : State} {t : Nat} {b : List Byte} (hk0 : Frame M s0 s)
    (hL : W.applyTerm &&& M = W.applyTerm) : Frame M s0 (State.applyTerm s t b) := by
  unfold State.applyTerm
  try dsimp only
  repeat' first
    | (with_reducible assumption)
    | (split)
    | (with_reducible refine Frame.foldl ?_ ?_)
    | (exact Nat.zero_and _)
    | (exact Frame.sub hL (by decide))
    | (exact Frame.bitOf hL (by decide))
    | (intro u hu x hx)
    | (intro u hu)
    | (refine Frame.bitMem (by with_reducible assumption) ?_)
    | (refine Frame.sub_all hL (by first | decide | (simp only [List.map_cons, List.map_nil]; decide)))
    | (refine Frame.bitMemFst (by with_reducible assumption) ?_)
    | (with_reducible apply Frame.emit)
    | (with_reducible apply Frame.mirrorRefused)
    | (with_reducible apply Frame.setTerm)
    | (with_reducible apply Frame.countOper)
    | (with_reducible refine Frame.mk_other ?_)
    | decide

/-- What `State.applyFlow` may write: register fields by number, memory at 1000. -/
def W.applyFlow : Nat := 0x200000000000000000000000000000000000000000000000000000000000000000000000000000000000000000000000000000

theorem Frame.applyFlow {M : Nat} {s0 s : State} {t : Nat} {b : List Byte} (hk0 : Frame M s0 s)
    (hL : W.applyFlow &&& M = W.applyFlow) : Frame M s0 (State.applyFlow s t b) := by
  unfold State.applyFlow
  try dsimp only
  repeat' first
    | (with_reducible assumption)
    | (split)
    | (with_reducible refine Frame.foldl ?_ ?_)
    | (exact Nat.zero_and _)
    | (exact Frame.sub hL (by decide))
    | (exact Frame.bitOf hL (by decide))
    | (intro u hu x hx)
    | (intro u hu)
    | (refine Frame.bitMem (by with_reducible assumption) ?_)
    | (refine Frame.sub_all hL (by first | decide | (simp only [List.map_cons, List.map_nil]; decide)))
    | (refine Frame.bitMemFst (by with_reducible assumption) ?_)
    | (with_reducible apply Frame.emit)
    | (with_reducible apply Frame.mirrorRefused)
    | (with_reducible apply Frame.putFlows)
    | decide

/-- What `State.applyAlloc` may write: register fields by number, memory at 1000. -/
def W.applyAlloc : Nat := 0xc0000000000020000000000000000200000000000000000000000000000000072000000000000000803010000000000000000000000000000000000000000000000

theorem Frame.applyAlloc {M : Nat} {s0 s : State} {t : Nat} {b : List Byte} (hk0 : Frame M s0 s)
    (hL : W.applyAlloc &&& M = W.applyAlloc) : Frame M s0 (State.applyAlloc s t b) := by
  unfold State.applyAlloc
  try dsimp only
  repeat' first
    | (with_reducible assumption)
    | (split)
    | (with_reducible refine Frame.foldl ?_ ?_)
    | (exact Nat.zero_and _)
    | (exact Frame.sub hL (by decide))
    | (exact Frame.bitOf hL (by decide))
    | (intro u hu x hx)
    | (intro u hu)
    | (refine Frame.bitMem (by with_reducible assumption) ?_)
    | (refine Frame.sub_all hL (by first | decide | (simp only [List.map_cons, List.map_nil]; decide)))
    | (refine Frame.bitMemFst (by with_reducible assumption) ?_)
    | (with_reducible apply Frame.emit)
    | (with_reducible apply Frame.mirrorRefused)
    | (with_reducible apply Frame.putAllocs)
    | (with_reducible apply Frame.dropAlloc)
    | (with_reducible apply Frame.setCommit)
    | decide

/-- What `State.applyAccounts` may write: register fields by number, memory at 1000. -/
def W.applyAccounts : Nat := 0x0

theorem Frame.applyAccounts {M : Nat} {s0 s : State} {t : Nat} {b : List Byte} (hk0 : Frame M s0 s)
    (_hL : W.applyAccounts &&& M = W.applyAccounts) : Frame M s0 (State.applyAccounts s t b) := by
  unfold State.applyAccounts
  try dsimp only
  repeat' first
    | (with_reducible assumption)
    | (split)
    | (with_reducible refine Frame.foldl ?_ ?_)
    | (exact Nat.zero_and _)
    | (intro u hu x hx)
    | (intro u hu)
    | (refine Frame.bitMem (by with_reducible assumption) ?_)
    | (refine Frame.bitMemFst (by with_reducible assumption) ?_)
    | (with_reducible apply Frame.emit)
    | (with_reducible apply Frame.setSluTree)
    | (with_reducible refine Frame.mk_other ?_)
    | decide

/-- What `State.applyKey` may write: register fields by number, memory at 1000. -/
def W.applyKey : Nat := 0xc00000000000200000000000000002910707c0020010000000000000000000072000000000000000000000000000000000000000000000000000000000000000000

theorem Frame.applyKey {M : Nat} {s0 s : State} {t : Nat} {f : Int} {b : List Byte} (hk0 : Frame M s0 s)
    (hL : W.applyKey &&& M = W.applyKey) : Frame M s0 (State.applyKey s t f b) := by
  unfold State.applyKey
  try dsimp only
  repeat' first
    | (with_reducible assumption)
    | (split)
    | (with_reducible refine Frame.foldl ?_ ?_)
    | (exact Nat.zero_and _)
    | (exact Frame.sub hL (by decide))
    | (exact Frame.bitOf hL (by decide))
    | (intro u hu x hx)
    | (intro u hu)
    | (refine Frame.bitMem (by with_reducible assumption) ?_)
    | (refine Frame.sub_all hL (by first | decide | (simp only [List.map_cons, List.map_nil]; decide)))
    | (refine Frame.bitMemFst (by with_reducible assumption) ?_)
    | (with_reducible apply Frame.emit)
    | (with_reducible apply Frame.setSlot)
    | (with_reducible apply Frame.mirrorError)
    | (with_reducible refine Frame.fst ?_ (by with_reducible assumption))
    | (with_reducible refine Frame.snd ?_ (by with_reducible assumption))
    | (with_reducible refine Frame.mk_other ?_)
    | decide

/-- What `State.applyTree` may write: register fields by number, memory at 1000. -/
def W.applyTree : Nat := 0xc000000000000000000000000

theorem Frame.applyTree {M : Nat} {s0 s : State} {t : Nat} {b : List Byte} (hk0 : Frame M s0 s)
    (hL : W.applyTree &&& M = W.applyTree) : Frame M s0 (State.applyTree s t b) := by
  unfold State.applyTree
  try dsimp only
  repeat' first
    | (with_reducible assumption)
    | (split)
    | (with_reducible refine Frame.foldl ?_ ?_)
    | (exact Nat.zero_and _)
    | (exact Frame.sub hL (by decide))
    | (exact Frame.bitOf hL (by decide))
    | (intro u hu x hx)
    | (intro u hu)
    | (refine Frame.bitMem (by with_reducible assumption) ?_)
    | (refine Frame.sub_all hL (by first | decide | (simp only [List.map_cons, List.map_nil]; decide)))
    | (refine Frame.bitMemFst (by with_reducible assumption) ?_)
    | (with_reducible refine Frame.wr ?_ ?_)
    | (with_reducible apply Frame.emit)
    | (with_reducible apply Frame.setTree)
    | (with_reducible refine Frame.mk_other ?_)
    | decide

/-- What `State.applyRecord` may write: register fields by number, memory at 1000. -/
def W.applyRecord : Nat := 0xc00000000000200000000000000002910707c002001000000000000000000007200000000000000080301000000000000000000000e000000000000000000000000

theorem Frame.applyRecord {M : Nat} {s0 s : State} {t : Nat} {f : Int} {ty : Nat} {b : List Byte} (hk0 : Frame M s0 s)
    (hL : W.applyRecord &&& M = W.applyRecord) : Frame M s0 (State.applyRecord s t f ty b) := by
  unfold State.applyRecord
  try dsimp only
  repeat' first
    | (with_reducible assumption)
    | (split)
    | (with_reducible refine Frame.foldl ?_ ?_)
    | (exact Nat.zero_and _)
    | (exact Frame.sub hL (by decide))
    | (exact Frame.bitOf hL (by decide))
    | (intro u hu x hx)
    | (intro u hu)
    | (refine Frame.bitMem (by with_reducible assumption) ?_)
    | (refine Frame.sub_all hL (by first | decide | (simp only [List.map_cons, List.map_nil]; decide)))
    | (refine Frame.bitMemFst (by with_reducible assumption) ?_)
    | (with_reducible apply Frame.emit)
    | (with_reducible apply Frame.applyTerm)
    | (with_reducible apply Frame.applyFlow)
    | (with_reducible apply Frame.applyAlloc)
    | (with_reducible apply Frame.applyAccounts)
    | (with_reducible apply Frame.applyKey)
    | (with_reducible apply Frame.applyTree)
    | (with_reducible apply Frame.setProt)
    | (with_reducible apply Frame.tryReady)
    | (with_reducible apply Frame.mirrorRefused)
    | (with_reducible refine Frame.mk_other ?_)
    | decide

/-- What `State.copyDrop` may write: register fields by number, memory at 1000. -/
def W.copyDrop : Nat := 0xc0000000000020000000000000000000000000000000000000000000000000072000000000000000803010000000000000000000002000000000000000000000000

theorem Frame.copyDrop {M : Nat} {s0 s : State} {t : Nat} {body : List Byte} (hk0 : Frame M s0 s)
    (hL : W.copyDrop &&& M = W.copyDrop) : Frame M s0 (State.copyDrop s t body) := by
  unfold State.copyDrop
  try dsimp only
  repeat' first
    | (with_reducible assumption)
    | (split)
    | (with_reducible refine Frame.foldl ?_ ?_)
    | (exact Nat.zero_and _)
    | (exact Frame.sub hL (by decide))
    | (exact Frame.bitOf hL (by decide))
    | (intro u hu x hx)
    | (intro u hu)
    | (refine Frame.bitMem (by with_reducible assumption) ?_)
    | (refine Frame.sub_all hL (by first | decide | (simp only [List.map_cons, List.map_nil]; decide)))
    | (refine Frame.bitMemFst (by with_reducible assumption) ?_)
    | (with_reducible apply Frame.emit)
    | (with_reducible apply Frame.putFlows)
    | (with_reducible apply Frame.putTerms)
    | (with_reducible apply Frame.putAllocs)
    | (with_reducible apply Frame.dropAlloc)
    | (with_reducible apply Frame.setCommit)
    | (with_reducible apply Frame.countOper)
    | decide

/-- What `State.applyRecords` may write: register fields by number, memory at 1000. -/
def W.applyRecords : Nat := 0xc00000000000200000000000000002910707c002001000000000000000000007200000000000000080301000000000000000000000e000000000000000000000000

theorem Frame.applyRecords_at {s0 s : State} {t : Nat} {f : Int} {n : Nat} {b : List Byte} (h : Frame W.applyRecords s0 s) :
    Frame W.applyRecords s0 (State.applyRecords s t f n b) := by
  induction n generalizing s b with
  | zero => exact h
  | succ n ih =>
    unfold State.applyRecords
    dsimp only
    split
    · exact h
    · exact ih (Frame.applyRecord (hL := by decide) h)

theorem Frame.applyRecords {M : Nat} {s0 s : State} {t : Nat} {f : Int} {n : Nat} {b : List Byte} (hk0 : Frame M s0 s) (hL : W.applyRecords &&& M = W.applyRecords) :
    Frame M s0 (State.applyRecords s t f n b) := hk0.trans ((Frame.applyRecords_at (Frame.refl _ _) ).mono hL)

end Sys2Proof.Machine
end

