-- ==== Sys2Proof/Laws/FramePanOps.lean ====
section
/-! SUPPORT. Which registers, and whether the memories, the operations of PanOps may write (Laws/Frame.lean). -/

namespace Sys2Proof.Machine

set_option Elab.async false
set_option linter.all false

/-- What `State.setEng` may write: register fields by number, memory at 1000. -/
def W.setEng : Nat := 0x0

theorem Frame.setEng {M : Nat} {s0 s : State} {e : Nat} {x : Engine} (hk0 : Frame M s0 s)
    (_hL : W.setEng &&& M = W.setEng) : Frame M s0 (State.setEng s e x) := by
  unfold State.setEng
  try dsimp only
  repeat' first
    | (with_reducible assumption)
    | (split)
    | (with_reducible refine Frame.foldl ?_ ?_)
    | (exact Nat.zero_and _)
    | (intro u hu x hx)
    | (intro u hu)
    | (refine Frame.bitMem (by with_reducible assumption) ?_)
    | (refine Frame.bitMemFst (by with_reducible assumption) ?_)
    | (with_reducible apply Frame.emit)
    | (with_reducible refine Frame.mk_other ?_)
    | decide

/-- What `State.peEvent` may write: register fields by number, memory at 1000. -/
def W.peEvent : Nat := 0xc0000000000020000000000000000000000000000000000000000000000000072000000000000000000000000000000000000000000000000000000000000000000

theorem Frame.peEvent {M : Nat} {s0 s : State} {e : Nat} {f : Fld} (hk0 : Frame M s0 s) (hf : M.testBit f.num = true)
    (hL : W.peEvent &&& M = W.peEvent) : Frame M s0 (State.peEvent s e f) := by
  unfold State.peEvent
  try dsimp only
  repeat' first
    | (with_reducible assumption)
    | (split)
    | (with_reducible refine Frame.foldl ?_ ?_)
    | (exact Nat.zero_and _)
    | (exact Frame.sub hL (by decide))
    | (exact Frame.bitOf hL (by decide))
    | (intro u hu x hx)
    | (intro u hu)
    | (refine Frame.bitMem (by with_reducible assumption) ?_)
    | (refine Frame.sub_all hL (by first | decide | (simp only [List.map_cons, List.map_nil]; decide)))
    | (refine Frame.bitMemFst (by with_reducible assumption) ?_)
    | (with_reducible apply Frame.emit)
    | (with_reducible apply Frame.raiseEn)
    | decide

/-- What `State.csCorrected` may write: register fields by number, memory at 1000. -/
def W.csCorrected : Nat := 0xc0000000000020000000000000000000000000000000000000000000000000072000000000090000000000000000000000000000000000000000000000000000000

theorem Frame.csCorrected {M : Nat} {s0 s : State} {e : Nat} {word : Nat} (hk0 : Frame M s0 s)
    (hL : W.csCorrected &&& M = W.csCorrected) : Frame M s0 (State.csCorrected s e word) := by
  unfold State.csCorrected
  try dsimp only
  repeat' first
    | (with_reducible assumption)
    | (split)
    | (with_reducible refine Frame.foldl ?_ ?_)
    | (exact Nat.zero_and _)
    | (exact Frame.sub hL (by decide))
    | (exact Frame.bitOf hL (by decide))
    | (intro u hu x hx)
    | (intro u hu)
    | (refine Frame.bitMem (by with_reducible assumption) ?_)
    | (refine Frame.sub_all hL (by first | decide | (simp only [List.map_cons, List.map_nil]; decide)))
    | (refine Frame.bitMemFst (by with_reducible assumption) ?_)
    | (with_reducible apply Frame.emit)
    | (with_reducible apply Frame.rewriteWord)
    | (with_reducible apply Frame.incSat)
    | (with_reducible apply Frame.peEvent)
    | (with_reducible apply Frame.corrected)
    | decide

/-- What `State.wmCorrected` may write: register fields by number, memory at 1000. -/
def W.wmCorrected : Nat := 0xc0000000000020000000000000000000000000000000000000000000000000072000000000120000000000000000000000000000000000000000000000000000000

theorem Frame.wmCorrected {M : Nat} {s0 s : State} {e : Nat} {row : Nat} (hk0 : Frame M s0 s)
    (hL : W.wmCorrected &&& M = W.wmCorrected) : Frame M s0 (State.wmCorrected s e row) := by
  unfold State.wmCorrected
  try dsimp only
  repeat' first
    | (with_reducible assumption)
    | (split)
    | (with_reducible refine Frame.foldl ?_ ?_)
    | (exact Nat.zero_and _)
    | (exact Frame.sub hL (by decide))
    | (exact Frame.bitOf hL (by decide))
    | (intro u hu x hx)
    | (intro u hu)
    | (refine Frame.bitMem (by with_reducible assumption) ?_)
    | (refine Frame.sub_all hL (by first | decide | (simp only [List.map_cons, List.map_nil]; decide)))
    | (refine Frame.bitMemFst (by with_reducible assumption) ?_)
    | (with_reducible apply Frame.emit)
    | (with_reducible apply Frame.rewriteWord)
    | (with_reducible apply Frame.incSat)
    | (with_reducible apply Frame.peEvent)
    | (with_reducible apply Frame.corrected)
    | decide

/-- What `State.logEng` may write: register fields by number, memory at 1000. -/
def W.logEng : Nat := 0xc0000000000021800000000000000000000000000000000000000000000000072000000000000000000000000000000000000000000000000000000000000000000

theorem Frame.logEng {M : Nat} {s0 s : State} {mem : Nat} {e : Nat} {addr : Nat} (hk0 : Frame M s0 s)
    (hL : W.logEng &&& M = W.logEng) : Frame M s0 (State.logEng s mem e addr) := by
  unfold State.logEng
  try dsimp only
  repeat' first
    | (with_reducible assumption)
    | (split)
    | (with_reducible refine Frame.foldl ?_ ?_)
    | (exact Nat.zero_and _)
    | (exact Frame.sub hL (by decide))
    | (exact Frame.bitOf hL (by decide))
    | (intro u hu x hx)
    | (intro u hu)
    | (refine Frame.bitMem (by with_reducible assumption) ?_)
    | (refine Frame.sub_all hL (by first | decide | (simp only [List.map_cons, List.map_nil]; decide)))
    | (refine Frame.bitMemFst (by with_reducible assumption) ?_)
    | (with_reducible apply Frame.emit)
    | (with_reducible apply Frame.tickFree)
    | (with_reducible apply Frame.logUe)
    | decide

/-- What `State.engFault` may write: register fields by number, memory at 1000. -/
def W.engFault : Nat := 0x100000000000000000000000000000000000000000000000000000000000000000000000000000000000000000000000000000000000000000000000c00000000000218000000000000000900707c0020010000000042d00000000072401302a0000780800c002a0f0040001000000c6002600000000000000000200000

theorem Frame.engFault {M : Nat} {s0 s : State} {e : Nat} {cause : Nat} {uaddr : Nat} (hk0 : Frame M s0 s)
    (hL : W.engFault &&& M = W.engFault) : Frame M s0 (State.engFault s e cause uaddr) := by
  unfold State.engFault
  try dsimp only
  repeat' first
    | (with_reducible assumption)
    | (split)
    | (with_reducible refine Frame.foldl ?_ ?_)
    | (exact Nat.zero_and _)
    | (exact Frame.sub hL (by decide))
    | (exact Frame.bitOf hL (by decide))
    | (intro u hu x hx)
    | (intro u hu)
    | (refine Frame.bitMem (by with_reducible assumption) ?_)
    | (refine Frame.sub_all hL (by first | decide | (simp only [List.map_cons, List.map_nil]; decide)))
    | (refine Frame.bitMemFst (by with_reducible assumption) ?_)
    | (with_reducible refine Frame.wr ?_ ?_)
    | (with_reducible apply Frame.emit)
    | (with_reducible apply Frame.setEng)
    | (with_reducible apply Frame.peEvent)
    | (with_reducible apply Frame.faultTree)
    | (with_reducible apply Frame.unitFail)
    | (with_reducible refine Frame.mk_other ?_)
    | decide

/-- What `State.beginLoad` may write: register fields by number, memory at 1000. -/
def W.beginLoad : Nat := 0x8000000000000000000000000000000000000000000000000000

theorem Frame.beginLoad {M : Nat} {s0 s : State} {e : Nat} {l : EngLoad} (hk0 : Frame M s0 s)
    (hL : W.beginLoad &&& M = W.beginLoad) : Frame M s0 (State.beginLoad s e l) := by
  unfold State.beginLoad
  try dsimp only
  repeat' first
    | (with_reducible assumption)
    | (split)
    | (with_reducible refine Frame.foldl ?_ ?_)
    | (exact Nat.zero_and _)
    | (exact Frame.sub hL (by decide))
    | (exact Frame.bitOf hL (by decide))
    | (intro u hu x hx)
    | (intro u hu)
    | (refine Frame.bitMem (by with_reducible assumption) ?_)
    | (refine Frame.sub_all hL (by first | decide | (simp only [List.map_cons, List.map_nil]; decide)))
    | (refine Frame.bitMemFst (by with_reducible assumption) ?_)
    | (with_reducible refine Frame.wr ?_ ?_)
    | (with_reducible apply Frame.emit)
    | (with_reducible apply Frame.setEng)
    | (with_reducible refine Frame.mk_other ?_)
    | decide

/-- What `State.engReload` may write: register fields by number, memory at 1000. -/
def W.engReload : Nat := 0x8000000000000000000000000000000000000000000000000000

theorem Frame.engReload {M : Nat} {s0 s : State} {e : Nat} {loads : List EngLoad} (hk0 : Frame M s0 s)
    (hL : W.engReload &&& M = W.engReload) : Frame M s0 (State.engReload s e loads) := by
  unfold State.engReload
  try dsimp only
  repeat' first
    | (with_reducible assumption)
    | (split)
    | (with_reducible refine Frame.foldl ?_ ?_)
    | (exact Nat.zero_and _)
    | (exact Frame.sub hL (by decide))
    | (exact Frame.bitOf hL (by decide))
    | (intro u hu x hx)
    | (intro u hu)
    | (refine Frame.bitMem (by with_reducible assumption) ?_)
    | (refine Frame.sub_all hL (by first | decide | (simp only [List.map_cons, List.map_nil]; decide)))
    | (refine Frame.bitMemFst (by with_reducible assumption) ?_)
    | (with_reducible refine Frame.wr ?_ ?_)
    | (with_reducible apply Frame.emit)
    | (with_reducible apply Frame.setEng)
    | (with_reducible refine Frame.mk_other ?_)
    | decide

/-- What `State.endLoad` may write: register fields by number, memory at 1000. -/
def W.endLoad : Nat := 0x60000018000000000000000000000000000000000000000000000000000

theorem Frame.endLoad {M : Nat} {s0 s : State} {e : Nat} {ok : Bool} (hk0 : Frame M s0 s)
    (hL : W.endLoad &&& M = W.endLoad) : Frame M s0 (State.endLoad s e ok) := by
  unfold State.endLoad
  try dsimp only
  repeat' first
    | (with_reducible assumption)
    | (split)
    | (with_reducible refine Frame.foldl ?_ ?_)
    | (exact Nat.zero_and _)
    | (exact Frame.sub hL (by decide))
    | (exact Frame.bitOf hL (by decide))
    | (intro u hu x hx)
    | (intro u hu)
    | (refine Frame.bitMem (by with_reducible assumption) ?_)
    | (refine Frame.sub_all hL (by first | decide | (simp only [List.map_cons, List.map_nil]; decide)))
    | (refine Frame.bitMemFst (by with_reducible assumption) ?_)
    | (with_reducible refine Frame.wr ?_ ?_)
    | (with_reducible apply Frame.emit)
    | (with_reducible apply Frame.rewrite)
    | (with_reducible apply Frame.setEng)
    | (with_reducible refine Frame.fst ?_ (by with_reducible assumption))
    | (with_reducible refine Frame.snd ?_ (by with_reducible assumption))
    | (with_reducible refine Frame.mk_other ?_)
    | decide

/-- What `State.sample` may write: register fields by number, memory at 1000. -/
def W.sample : Nat := 0x8000000000000000000000000000000000000000000000000000000006000000000000000000000000000000000000000000000000000000000

theorem Frame.sample {M : Nat} {s0 s : State} {e : Nat} {evt : Nat} (hk0 : Frame M s0 s)
    (hL : W.sample &&& M = W.sample) : Frame M s0 (State.sample s e evt) := by
  unfold State.sample
  try dsimp only
  repeat' first
    | (with_reducible assumption)
    | (split)
    | (with_reducible refine Frame.foldl ?_ ?_)
    | (exact Nat.zero_and _)
    | (exact Frame.sub hL (by decide))
    | (exact Frame.bitOf hL (by decide))
    | (intro u hu x hx)
    | (intro u hu)
    | (refine Frame.bitMem (by with_reducible assumption) ?_)
    | (refine Frame.sub_all hL (by first | decide | (simp only [List.map_cons, List.map_nil]; decide)))
    | (refine Frame.bitMemFst (by with_reducible assumption) ?_)
    | (with_reducible refine Frame.wr ?_ ?_)
    | (with_reducible apply Frame.emit)
    | (with_reducible apply Frame.incSat)
    | (with_reducible apply Frame.setEng)
    | (with_reducible refine Frame.fst ?_ (by with_reducible assumption))
    | (with_reducible refine Frame.snd ?_ (by with_reducible assumption))
    | (with_reducible refine Frame.mk_other ?_)
    | decide

/-- What `State.evtPulse` may write: register fields by number, memory at 1000. -/
def W.evtPulse : Nat := 0xc4000000000020018000000000000000000000000000000000000000000000072000000006000000000000000000000000000000000000000000000000000000000

theorem Frame.evtPulse {M : Nat} {s0 s : State} {e : Nat} {evt : Nat} (hk0 : Frame M s0 s)
    (hL : W.evtPulse &&& M = W.evtPulse) : Frame M s0 (State.evtPulse s e evt) := by
  unfold State.evtPulse
  try dsimp only
  repeat' first
    | (with_reducible assumption)
    | (split)
    | (with_reducible refine Frame.foldl ?_ ?_)
    | (exact Nat.zero_and _)
    | (exact Frame.sub hL (by decide))
    | (exact Frame.bitOf hL (by decide))
    | (intro u hu x hx)
    | (intro u hu)
    | (refine Frame.bitMem (by with_reducible assumption) ?_)
    | (refine Frame.sub_all hL (by first | decide | (simp only [List.map_cons, List.map_nil]; decide)))
    | (refine Frame.bitMemFst (by with_reducible assumption) ?_)
    | (with_reducible apply Frame.emit)
    | (with_reducible apply Frame.engCount)
    | (with_reducible apply Frame.sample)
    | (with_reducible apply Frame.setEng)
    | (with_reducible refine Frame.mk_other ?_)
    | decide

/-- What `State.startRoutine` may write: register fields by number, memory at 1000. -/
def W.startRoutine : Nat := 0xc4000000000020010000000000000000000000000000000000000000000000072000000000000000000000000000000000000000000000000000000000000000000

theorem Frame.startRoutine {M : Nat} {s0 s : State} {e : Nat} {mode : Nat} {line : Nat} {prio : Nat} {half : Option Nat} {entry : Nat} {ev : PendEvent} {service : Bool} (hk0 : Frame M s0 s)
    (hL : W.startRoutine &&& M = W.startRoutine) : Frame M s0 (State.startRoutine s e mode line prio half entry ev service) := by
  unfold State.startRoutine
  try dsimp only
  repeat' first
    | (with_reducible assumption)
    | (split)
    | (with_reducible refine Frame.foldl ?_ ?_)
    | (exact Nat.zero_and _)
    | (exact Frame.sub hL (by decide))
    | (exact Frame.bitOf hL (by decide))
    | (intro u hu x hx)
    | (intro u hu)
    | (refine Frame.bitMem (by with_reducible assumption) ?_)
    | (refine Frame.sub_all hL (by first | decide | (simp only [List.map_cons, List.map_nil]; decide)))
    | (refine Frame.bitMemFst (by with_reducible assumption) ?_)
    | (with_reducible apply Frame.emit)
    | (with_reducible apply Frame.setEng)
    | (with_reducible apply Frame.engCount)
    | (with_reducible refine Frame.mk_other ?_)
    | decide

/-- What `State.abandon` may write: register fields by number, memory at 1000. -/
def W.abandon : Nat := 0xc4000000000020010000000000000000000000000000000000000000000000072000000000000000000000000000000000000000000000000000000000000000000

theorem Frame.abandon {M : Nat} {s0 s : State} {e : Nat} {r : Routine} {restarts : Nat} (hk0 : Frame M s0 s)
    (hL : W.abandon &&& M = W.abandon) : Frame M s0 (State.abandon s e r restarts) := by
  unfold State.abandon
  try dsimp only
  repeat' first
    | (with_reducible assumption)
    | (split)
    | (with_reducible refine Frame.foldl ?_ ?_)
    | (exact Nat.zero_and _)
    | (exact Frame.sub hL (by decide))
    | (exact Frame.bitOf hL (by decide))
    | (intro u hu x hx)
    | (intro u hu)
    | (refine Frame.bitMem (by with_reducible assumption) ?_)
    | (refine Frame.sub_all hL (by first | decide | (simp only [List.map_cons, List.map_nil]; decide)))
    | (refine Frame.bitMemFst (by with_reducible assumption) ?_)
    | (with_reducible apply Frame.emit)
    | (with_reducible apply Frame.setEng)
    | (with_reducible apply Frame.engCount)
    | (with_reducible refine Frame.mk_other ?_)
    | decide

/-- What `State.recoverable` may write: register fields by number, memory at 1000. -/
def W.recoverable : Nat := 0x100000000000000000000000000000000000000000000000000000000000000000000000000000000000000000000000000000000000000000000000c40000000000218100000000000000900707c0020010000000042d00000000072401302a0040780800c002a0f0040001000000c6002600000000000000000200000

theorem Frame.recoverable {M : Nat} {s0 s : State} {e : Nat} {r : Routine} (hk0 : Frame M s0 s)
    (hL : W.recoverable &&& M = W.recoverable) : Frame M s0 (State.recoverable s e r) := by
  unfold State.recoverable
  try dsimp only
  repeat' first
    | (with_reducible assumption)
    | (split)
    | (with_reducible refine Frame.foldl ?_ ?_)
    | (exact Nat.zero_and _)
    | (exact Frame.sub hL (by decide))
    | (exact Frame.bitOf hL (by decide))
    | (intro u hu x hx)
    | (intro u hu)
    | (refine Frame.bitMem (by with_reducible assumption) ?_)
    | (refine Frame.sub_all hL (by first | decide | (simp only [List.map_cons, List.map_nil]; decide)))
    | (refine Frame.bitMemFst (by with_reducible assumption) ?_)
    | (with_reducible apply Frame.emit)
    | (with_reducible apply Frame.tickFree)
    | (with_reducible apply Frame.engFault)
    | (with_reducible apply Frame.setEng)
    | (with_reducible apply Frame.incSat)
    | (with_reducible apply Frame.engCount)
    | (with_reducible refine Frame.mk_other ?_)
    | decide

/-- What `State.effect` may write: register fields by number, memory at 1000. -/
def W.effect : Nat := 0x0

theorem Frame.effect_at {s0 s : State} {e : Nat} {x : Effect} (h : Frame W.effect s0 s) : Frame W.effect s0 (State.effect s e x) := by
  cases x
  · exact Frame.setEng (_hL := by decide) h
  · exact Frame.emit h _
  · exact Frame.emit h _
  · exact Frame.emit h _

theorem Frame.effect {M : Nat} {s0 s : State} {e : Nat} {x : Effect} (hk0 : Frame M s0 s) (_hL : W.effect &&& M = W.effect) :
    Frame M s0 (State.effect s e x) := hk0.trans ((Frame.effect_at (Frame.refl _ _) ).mono _hL)

/-- What `State.readRows` may write: register fields by number, memory at 1000. -/
def W.readRows : Nat := 0xc0000000000020000000000000000000000000000000000000000000000000072000000000120000000000000000000000000000000000000000000000000000000

theorem Frame.readRows {M : Nat} {s0 s : State} {e : Nat} {rows : List Nat} (hk0 : Frame M s0 s)
    (hL : W.readRows &&& M = W.readRows) : Frame M s0 (State.readRows s e rows).2 := by
  unfold State.readRows
  try dsimp only
  repeat' first
    | (with_reducible assumption)
    | (split)
    | (with_reducible refine Frame.foldl ?_ ?_)
    | (exact Nat.zero_and _)
    | (exact Frame.sub hL (by decide))
    | (exact Frame.bitOf hL (by decide))
    | (intro u hu x hx)
    | (intro u hu)
    | (refine Frame.bitMem (by with_reducible assumption) ?_)
    | (refine Frame.sub_all hL (by first | decide | (simp only [List.map_cons, List.map_nil]; decide)))
    | (refine Frame.bitMemFst (by with_reducible assumption) ?_)
    | (with_reducible apply Frame.emit)
    | (with_reducible apply Frame.corrected)
    | (with_reducible apply Frame.wmCorrected)
    | decide

/-- What `State.commitStaged` may write: register fields by number, memory at 1000. -/
def W.commitStaged : Nat := 0xc4000000000020010000000000000000000000000000000000000000000000072000000000000000000000000000000000000000000000000000000000000000000

theorem Frame.commitStaged {M : Nat} {s0 s : State} {e : Nat} {l : List Effect} (hk0 : Frame M s0 s)
    (hL : W.commitStaged &&& M = W.commitStaged) : Frame M s0 (State.commitStaged s e l) := by
  unfold State.commitStaged
  try dsimp only
  repeat' first
    | (with_reducible assumption)
    | (split)
    | (with_reducible refine Frame.foldl ?_ ?_)
    | (exact Nat.zero_and _)
    | (exact Frame.sub hL (by decide))
    | (exact Frame.bitOf hL (by decide))
    | (intro u hu x hx)
    | (intro u hu)
    | (refine Frame.bitMem (by with_reducible assumption) ?_)
    | (refine Frame.sub_all hL (by first | decide | (simp only [List.map_cons, List.map_nil]; decide)))
    | (refine Frame.bitMemFst (by with_reducible assumption) ?_)
    | (with_reducible apply Frame.emit)
    | (with_reducible apply Frame.effect)
    | (with_reducible apply Frame.engCount)
    | decide

/-- What `State.endRoutine` may write: register fields by number, memory at 1000. -/
def W.endRoutine : Nat := 0x8000000000000000000000000000000000000000000000000000

theorem Frame.endRoutine {M : Nat} {s0 s : State} {e : Nat} (hk0 : Frame M s0 s)
    (hL : W.endRoutine &&& M = W.endRoutine) : Frame M s0 (State.endRoutine s e) := by
  unfold State.endRoutine
  try dsimp only
  repeat' first
    | (with_reducible assumption)
    | (split)
    | (with_reducible refine Frame.foldl ?_ ?_)
    | (exact Nat.zero_and _)
    | (exact Frame.sub hL (by decide))
    | (exact Frame.bitOf hL (by decide))
    | (intro u hu x hx)
    | (intro u hu)
    | (refine Frame.bitMem (by with_reducible assumption) ?_)
    | (refine Frame.sub_all hL (by first | decide | (simp only [List.map_cons, List.map_nil]; decide)))
    | (refine Frame.bitMemFst (by with_reducible assumption) ?_)
    | (with_reducible refine Frame.wr ?_ ?_)
    | (with_reducible apply Frame.emit)
    | (with_reducible apply Frame.setEng)
    | (with_reducible refine Frame.mk_other ?_)
    | decide

/-- What `State.fetchStall` may write: register fields by number, memory at 1000. -/
def W.fetchStall : Nat := 0xc4000000000020010000000000000000000000000000000000000000000000072000000000000000000000000000000000000000000000000000000000000000000

theorem Frame.fetchStall {M : Nat} {s0 s : State} {e : Nat} (hk0 : Frame M s0 s)
    (hL : W.fetchStall &&& M = W.fetchStall) : Frame M s0 (State.fetchStall s e) := by
  unfold State.fetchStall
  try dsimp only
  repeat' first
    | (with_reducible assumption)
    | (split)
    | (with_reducible refine Frame.foldl ?_ ?_)
    | (exact Nat.zero_and _)
    | (exact Frame.sub hL (by decide))
    | (exact Frame.bitOf hL (by decide))
    | (intro u hu x hx)
    | (intro u hu)
    | (refine Frame.bitMem (by with_reducible assumption) ?_)
    | (refine Frame.sub_all hL (by first | decide | (simp only [List.map_cons, List.map_nil]; decide)))
    | (refine Frame.bitMemFst (by with_reducible assumption) ?_)
    | (with_reducible apply Frame.emit)
    | (with_reducible apply Frame.setEng)
    | (with_reducible apply Frame.engCount)
    | (with_reducible refine Frame.mk_other ?_)
    | decide

/-- What `State.windowCheck` may write: register fields by number, memory at 1000. -/
def W.windowCheck : Nat := 0x100000000000000000000000000000000000000000000000000000000000000000000000000000000000000000000000000000000000000000000000c40000000000218100000000000000900707c0020010000000042d00000000072401302a005b780800c002a0f0040001000000c6002600000000000000000200000

theorem Frame.windowCheck {M : Nat} {s0 s : State} {e : Nat} {off : Nat} (hk0 : Frame M s0 s)
    (hL : W.windowCheck &&& M = W.windowCheck) : Frame M s0 (State.windowCheck s e off) := by
  unfold State.windowCheck
  try dsimp only
  repeat' first
    | (with_reducible assumption)
    | (split)
    | (with_reducible refine Frame.foldl ?_ ?_)
    | (exact Nat.zero_and _)
    | (exact Frame.sub hL (by decide))
    | (exact Frame.bitOf hL (by decide))
    | (intro u hu x hx)
    | (intro u hu)
    | (refine Frame.bitMem (by with_reducible assumption) ?_)
    | (refine Frame.sub_all hL (by first | decide | (simp only [List.map_cons, List.map_nil]; decide)))
    | (refine Frame.bitMemFst (by with_reducible assumption) ?_)
    | (with_reducible apply Frame.emit)
    | (with_reducible apply Frame.corrected)
    | (with_reducible apply Frame.csCorrected)
    | (with_reducible apply Frame.logEng)
    | (with_reducible apply Frame.engFault)
    | (with_reducible apply Frame.wmCorrected)
    | (with_reducible apply Frame.recoverable)
    | (with_reducible refine Frame.fst ?_ (by with_reducible assumption))
    | (with_reducible refine Frame.snd ?_ (by with_reducible assumption))
    | (with_reducible refine Frame.mk_other ?_)
    | decide

/-- What `State.engWindowRead` may write: register fields by number, memory at 1000. -/
def W.engWindowRead : Nat := 0x100000000000000000000000000000000000000000000000000000000000000000000000000000000000000000000000000000000000000000000000c40000000000218100000000000000900707c0020010000000042d00000000072401302a005b780800c002a0f0040001000000c600260000000000000f001e00000

theorem Frame.engWindowRead {M : Nat} {s0 s : State} {port : Nat} {e : Nat} {off : Nat} (hk0 : Frame M s0 s)
    (hL : W.engWindowRead &&& M = W.engWindowRead) : Frame M s0 (State.engWindowRead s port e off).2 := by
  unfold State.engWindowRead
  try dsimp only
  repeat' first
    | (with_reducible assumption)
    | (split)
    | (with_reducible refine Frame.foldl ?_ ?_)
    | (exact Nat.zero_and _)
    | (exact Frame.sub hL (by decide))
    | (exact Frame.bitOf hL (by decide))
    | (intro u hu x hx)
    | (intro u hu)
    | (refine Frame.bitMem (by with_reducible assumption) ?_)
    | (refine Frame.sub_all hL (by first | decide | (simp only [List.map_cons, List.map_nil]; decide)))
    | (refine Frame.bitMemFst (by with_reducible assumption) ?_)
    | (with_reducible apply Frame.emit)
    | (with_reducible apply Frame.tickFree)
    | (with_reducible apply Frame.accessErr)
    | (with_reducible apply Frame.fetchStall)
    | (with_reducible apply Frame.windowCheck)
    | decide

end Sys2Proof.Machine
end

