-- ==== Sys2Proof/Laws/FramePan.lean ====
section
/-! SUPPORT. Which registers, and whether the memories, the operations of Pan may write (Laws/Frame.lean). -/

namespace Sys2Proof.Machine

set_option Elab.async false
set_option linter.all false

/-- What `State.microAct` may write: register fields by number, memory at 1000. -/
def W.microAct : Nat := 0x100000000000000000000000000000000000000000000000000000000000000000000000000000000000000000000000000000000000000000000000c40000000000218180000000000000900707c0020010000000042d00000000072401302a0600780800c002a0f0040001000000c6002600000000000000000200000

theorem Frame.microAct_at {s0 s : State} {e : Nat} {r : Routine} {w : Nat} {holds : Bool} (h : Frame W.microAct s0 s) :
    Frame W.microAct s0 (State.microAct s e r w holds) := by
  unfold State.microAct
  extract_lets x a b out u sum addr eff x1 x2 x3 ue s1 s2 staged s3 s4
  have hu : Frame W.microAct s0 u := by
    unfold u
    split
    · exact Frame.tickFree h
    · exact h
  have he : Frame W.microAct s0 ue := Frame.setEng (_hL := by decide) hu
  have h1 : Frame W.microAct s0 s1 := by
    unfold s1
    split
    · exact Frame.emit he _
    · exact he
  have h2 : Frame W.microAct s0 s2 := by
    unfold s2
    clear_value eff
    split
    · cases eff
      · exact h1
      · exact Frame.effect (_hL := by decide) h1
    · exact h1
  have h3 : Frame W.microAct s0 s3 := Frame.evtPulse (hL := by decide) h2
  have h4 : Frame W.microAct s0 s4 := Frame.commitStaged (hL := by decide) h3
  clear_value u x1 x2 x3 ue s1 s2 staged s3 s4
  split
  · exact Frame.engFault (hL := by decide) hu
  · split
    · exact Frame.engFault (hL := by decide) hu
    · split
      · split
        · exact Frame.setEng (_hL := by decide) h4
        · exact Frame.setEng (_hL := by decide) h3
      · split
        · exact Frame.endRoutine (hL := by decide) h3
        · exact Frame.endRoutine (hL := by decide) (Frame.commitStaged (hL := by decide) h3)
      · exact Frame.wr (Frame.endRoutine (hL := by decide) h3) (by decide)
      · exact Frame.engFault (hL := by decide) h3

theorem Frame.microAct {M : Nat} {s0 s : State} {e : Nat} {r : Routine} {w : Nat} {holds : Bool} (hk0 : Frame M s0 s) (hL : W.microAct &&& M = W.microAct) :
    Frame M s0 (State.microAct s e r w holds) := hk0.trans ((Frame.microAct_at (Frame.refl _ _) ).mono hL)

/-- What `State.romEffect` may write: register fields by number, memory at 1000. -/
def W.romEffect : Nat := 0x10000000000000000000000000000000000000000000000000000

theorem Frame.romEffect {M : Nat} {s0 s : State} {e : Nat} {op : Nat} (hk0 : Frame M s0 s)
    (hL : W.romEffect &&& M = W.romEffect) : Frame M s0 (State.romEffect s e op) := by
  unfold State.romEffect
  try dsimp only
  repeat' first
    | (with_reducible assumption)
    | (split)
    | (with_reducible refine Frame.foldl ?_ ?_)
    | (exact Nat.zero_and _)
    | (exact Frame.sub hL (by decide))
    | (exact Frame.bitOf hL (by decide))
    | (intro u hu x hx)
    | (intro u hu)
    | (refine Frame.bitMem (by with_reducible assumption) ?_)
    | (refine Frame.sub_all hL (by first | decide | (simp only [List.map_cons, List.map_nil]; decide)))
    | (refine Frame.bitMemFst (by with_reducible assumption) ?_)
    | (with_reducible refine Frame.wr ?_ ?_)
    | (with_reducible apply Frame.emit)
    | (with_reducible apply Frame.setEng)
    | (with_reducible refine Frame.mk_other ?_)
    | decide

/-- What `State.romCycle` may write: register fields by number, memory at 1000. -/
def W.romCycle : Nat := 0xc4000000000020010000000000000000000000000000000000000000000000072000000000000018000000000000000000000000000000000000000000000000000

theorem Frame.romCycle {M : Nat} {s0 s : State} {e : Nat} {codes : List Nat} {r : Routine} (hk0 : Frame M s0 s)
    (hL : W.romCycle &&& M = W.romCycle) : Frame M s0 (State.romCycle s e codes r) := by
  unfold State.romCycle
  try dsimp only
  repeat' first
    | (with_reducible assumption)
    | (split)
    | (with_reducible refine Frame.foldl ?_ ?_)
    | (exact Nat.zero_and _)
    | (exact Frame.sub hL (by decide))
    | (exact Frame.bitOf hL (by decide))
    | (intro u hu x hx)
    | (intro u hu)
    | (refine Frame.bitMem (by with_reducible assumption) ?_)
    | (refine Frame.sub_all hL (by first | decide | (simp only [List.map_cons, List.map_nil]; decide)))
    | (refine Frame.bitMemFst (by with_reducible assumption) ?_)
    | (with_reducible apply Frame.emit)
    | (with_reducible apply Frame.setEng)
    | (with_reducible apply Frame.engCount)
    | (with_reducible apply Frame.romEffect)
    | (with_reducible apply Frame.endRoutine)
    | (with_reducible refine Frame.mk_other ?_)
    | decide

/-- What `State.micro` may write: register fields by number, memory at 1000. -/
def W.micro : Nat := 0x100000000000000000000000000000000000000000000000000000000000000000000000000000000000000000000000000000000000000000000000c40000000000218180000000000000900707c0020010000000042d00000000072401302a065b781800c002a0f0040001000000c6002600000000000000000200000

theorem Frame.micro {M : Nat} {s0 s : State} {e : Nat} {codes : List Nat} {obs : PeObs} (hk0 : Frame M s0 s)
    (hL : W.micro &&& M = W.micro) : Frame M s0 (State.micro s e codes obs) := by
  unfold State.micro
  extract_lets
  repeat' first
    | (with_reducible assumption)
    | (split)
    | (with_reducible refine Frame.foldl ?_ ?_)
    | (exact Nat.zero_and _)
    | (exact Frame.sub hL (by decide))
    | (exact Frame.bitOf hL (by decide))
    | (intro u hu x hx)
    | (intro u hu)
    | (refine Frame.bitMem (by with_reducible assumption) ?_)
    | (refine Frame.sub_all hL (by first | decide | (simp only [List.map_cons, List.map_nil]; decide)))
    | (refine Frame.bitMemFst (by with_reducible assumption) ?_)
    | (with_reducible apply Frame.emit)
    | (with_reducible apply Frame.romCycle)
    | (with_reducible apply Frame.upset)
    | (with_reducible apply Frame.engFault)
    | (with_reducible apply Frame.logEng)
    | (with_reducible apply Frame.corrected)
    | (with_reducible apply Frame.setEng)
    | (with_reducible apply Frame.engCount)
    | (with_reducible apply Frame.csCorrected)
    | (with_reducible apply Frame.recoverable)
    | (with_reducible apply Frame.readRows)
    | (with_reducible apply Frame.microAct)
    | (with_reducible refine Frame.fst ?_ (by with_reducible assumption))
    | (with_reducible refine Frame.snd ?_ (by with_reducible assumption))
    | (with_reducible refine Frame.mk_other ?_)
    | decide

/-- What `State.lateEvent` may write: register fields by number, memory at 1000. -/
def W.lateEvent : Nat := 0x0

theorem Frame.lateEvent {M : Nat} {s0 s : State} {e : Nat} (hk0 : Frame M s0 s)
    (_hL : W.lateEvent &&& M = W.lateEvent) : Frame M s0 (State.lateEvent s e) := by
  unfold State.lateEvent
  try dsimp only
  repeat' first
    | (with_reducible assumption)
    | (split)
    | (with_reducible refine Frame.foldl ?_ ?_)
    | (exact Nat.zero_and _)
    | (intro u hu x hx)
    | (intro u hu)
    | (refine Frame.bitMem (by with_reducible assumption) ?_)
    | (refine Frame.bitMemFst (by with_reducible assumption) ?_)
    | (with_reducible apply Frame.emit)
    | (with_reducible apply Frame.setEng)
    | (with_reducible refine Frame.mk_other ?_)
    | decide

/-- What `State.popDq` may write: register fields by number, memory at 1000. -/
def W.popDq : Nat := 0x0

theorem Frame.popDq {M : Nat} {s0 s : State} {e : Nat} (hk0 : Frame M s0 s)
    (_hL : W.popDq &&& M = W.popDq) : Frame M s0 (State.popDq s e) := by
  unfold State.popDq
  try dsimp only
  repeat' first
    | (with_reducible assumption)
    | (split)
    | (with_reducible refine Frame.foldl ?_ ?_)
    | (exact Nat.zero_and _)
    | (intro u hu x hx)
    | (intro u hu)
    | (refine Frame.bitMem (by with_reducible assumption) ?_)
    | (refine Frame.bitMemFst (by with_reducible assumption) ?_)
    | (with_reducible apply Frame.emit)
    | (with_reducible apply Frame.setEng)
    | (with_reducible refine Frame.mk_other ?_)
    | decide

/-- What `State.queueOp` may write: register fields by number, memory at 1000. -/
def W.queueOp : Nat := 0x0

theorem Frame.queueOp {M : Nat} {s0 s : State} {e : Nat} {op : Nat} (hk0 : Frame M s0 s)
    (_hL : W.queueOp &&& M = W.queueOp) : Frame M s0 (State.queueOp s e op) := by
  unfold State.queueOp
  try dsimp only
  repeat' first
    | (with_reducible assumption)
    | (split)
    | (with_reducible refine Frame.foldl ?_ ?_)
    | (exact Nat.zero_and _)
    | (intro u hu x hx)
    | (intro u hu)
    | (refine Frame.bitMem (by with_reducible assumption) ?_)
    | (refine Frame.bitMemFst (by with_reducible assumption) ?_)
    | (with_reducible apply Frame.emit)
    | (with_reducible apply Frame.setEng)
    | (with_reducible refine Frame.mk_other ?_)
    | decide

end Sys2Proof.Machine
end

