-- ==== Sys2Proof/Laws/FrameTreeDown.lean ====
section
/-! SUPPORT. Which registers, and whether the memories, the operations of TreeDown may write (Laws/Frame.lean). -/

namespace Sys2Proof.Machine

set_option Elab.async false
set_option linter.all false

/-- What `State.treeActive` may write: register fields by number, memory at 1000. -/
def W.treeActive : Nat := 0xc00000000000200000000000000000000000000000000000000000000000000720000000000000000000000000000000000000c2000200000000000000000000000

theorem Frame.treeActive {M : Nat} {s0 s : State} {t : Nat} {f : Int} {survey : Bool} (hk0 : Frame M s0 s)
    (hL : W.treeActive &&& M = W.treeActive) : Frame M s0 (State.treeActive s t f survey) := by
  unfold State.treeActive
  try dsimp only
  repeat' first
    | (with_reducible assumption)
    | (split)
    | (with_reducible refine Frame.foldl ?_ ?_)
    | (exact Nat.zero_and _)
    | (exact Frame.sub hL (by decide))
    | (exact Frame.bitOf hL (by decide))
    | (intro u hu x hx)
    | (intro u hu)
    | (refine Frame.bitMem (by with_reducible assumption) ?_)
    | (refine Frame.sub_all hL (by first | decide | (simp only [List.map_cons, List.map_nil]; decide)))
    | (refine Frame.bitMemFst (by with_reducible assumption) ?_)
    | (with_reducible apply Frame.emit)
    | (with_reducible apply Frame.treeState)
    | (with_reducible apply Frame.setShared)
    | (with_reducible apply Frame.setTree)
    | (with_reducible apply Frame.setTreeU)
    | (with_reducible apply Frame.reannounce)
    | (with_reducible refine Frame.mk_other ?_)
    | decide

/-- What `State.riseTree` may write: register fields by number, memory at 1000. -/
def W.riseTree : Nat := 0x0

theorem Frame.riseTree {M : Nat} {s0 s : State} {t : Nat} (hk0 : Frame M s0 s)
    (_hL : W.riseTree &&& M = W.riseTree) : Frame M s0 (State.riseTree s t) := by
  unfold State.riseTree
  try dsimp only
  repeat' first
    | (with_reducible assumption)
    | (split)
    | (with_reducible refine Frame.foldl ?_ ?_)
    | (exact Nat.zero_and _)
    | (intro u hu x hx)
    | (intro u hu)
    | (refine Frame.bitMem (by with_reducible assumption) ?_)
    | (refine Frame.bitMemFst (by with_reducible assumption) ?_)
    | (with_reducible apply Frame.emit)
    | (with_reducible apply Frame.setTree)
    | (with_reducible refine Frame.mk_other ?_)
    | decide

/-- What `State.wokenActive` may write: register fields by number, memory at 1000. -/
def W.wokenActive : Nat := 0xc00000000000200000000000000000000000000000000000000000000000000720000000000000000000000000000000000000c2000200000000000000000000000

theorem Frame.wokenActive {M : Nat} {s0 s : State} {t : Nat} {fr : Int} (hk0 : Frame M s0 s)
    (hL : W.wokenActive &&& M = W.wokenActive) : Frame M s0 (State.wokenActive s t fr) := by
  unfold State.wokenActive
  try dsimp only
  repeat' first
    | (with_reducible assumption)
    | (split)
    | (with_reducible refine Frame.foldl ?_ ?_)
    | (exact Nat.zero_and _)
    | (exact Frame.sub hL (by decide))
    | (exact Frame.bitOf hL (by decide))
    | (intro u hu x hx)
    | (intro u hu)
    | (refine Frame.bitMem (by with_reducible assumption) ?_)
    | (refine Frame.sub_all hL (by first | decide | (simp only [List.map_cons, List.map_nil]; decide)))
    | (refine Frame.bitMemFst (by with_reducible assumption) ?_)
    | (with_reducible apply Frame.emit)
    | (with_reducible apply Frame.treeActive)
    | decide

/-- What `State.wakeTree` may write: register fields by number, memory at 1000. -/
def W.wakeTree : Nat := 0xc0000000000020000200025f07e00800000000000000000000000000000000072000000000000000000000000000000000000000000000000000000000000000000

theorem Frame.wakeTree {M : Nat} {s0 s : State} {t : Nat} {source : Nat} (hk0 : Frame M s0 s)
    (hL : W.wakeTree &&& M = W.wakeTree) : Frame M s0 (State.wakeTree s t source) := by
  unfold State.wakeTree
  try dsimp only
  repeat' first
    | (with_reducible assumption)
    | (split)
    | (with_reducible refine Frame.foldl ?_ ?_)
    | (exact Nat.zero_and _)
    | (exact Frame.sub hL (by decide))
    | (exact Frame.bitOf hL (by decide))
    | (intro u hu x hx)
    | (intro u hu)
    | (refine Frame.bitMem (by with_reducible assumption) ?_)
    | (refine Frame.sub_all hL (by first | decide | (simp only [List.map_cons, List.map_nil]; decide)))
    | (refine Frame.bitMemFst (by with_reducible assumption) ?_)
    | (with_reducible apply Frame.emit)
    | (with_reducible apply Frame.setTree)
    | (with_reducible apply Frame.riseTree)
    | (with_reducible apply Frame.wake)
    | (with_reducible refine Frame.mk_other ?_)
    | decide

/-- What `State.treeDormant` may write: register fields by number, memory at 1000. -/
def W.treeDormant : Nat := 0x100000000000000000000000000000000000000000000000000000000000000000000000000000000000000000000000000000000000000000000000c00000000000200000000000000000000000000000000000000000000000000724012028000000000000000000040001000000c2002200000000000000000000000

theorem Frame.treeDormant {M : Nat} {s0 s : State} {t : Nat} (hk0 : Frame M s0 s)
    (hL : W.treeDormant &&& M = W.treeDormant) : Frame M s0 (State.treeDormant s t) := by
  unfold State.treeDormant
  try dsimp only
  repeat' first
    | (with_reducible assumption)
    | (split)
    | (with_reducible refine Frame.foldl ?_ ?_)
    | (exact Nat.zero_and _)
    | (exact Frame.sub hL (by decide))
    | (exact Frame.bitOf hL (by decide))
    | (intro u hu x hx)
    | (intro u hu)
    | (refine Frame.bitMem (by with_reducible assumption) ?_)
    | (refine Frame.sub_all hL (by first | decide | (simp only [List.map_cons, List.map_nil]; decide)))
    | (refine Frame.bitMemFst (by with_reducible assumption) ?_)
    | (with_reducible apply Frame.emit)
    | (with_reducible apply Frame.endFsFrame)
    | (with_reducible apply Frame.treeStop)
    | (with_reducible apply Frame.dropInFlight)
    | (with_reducible apply Frame.dropStaged)
    | (with_reducible apply Frame.treeState)
    | (with_reducible apply Frame.termsLeave)
    | (with_reducible apply Frame.setTreeU)
    | (with_reducible apply Frame.putSents)
    | (with_reducible refine Frame.mk_other ?_)
    | decide

/-- What `State.loadHalf` may write: register fields by number, memory at 1000. -/
def W.loadHalf : Nat := 0x8000000000000000000000000000000000000000000000000000

theorem Frame.loadHalf {M : Nat} {s0 s : State} {t : Nat} (hk0 : Frame M s0 s)
    (hL : W.loadHalf &&& M = W.loadHalf) : Frame M s0 (State.loadHalf s t) := by
  unfold State.loadHalf
  try dsimp only
  repeat' first
    | (with_reducible assumption)
    | (split)
    | (with_reducible refine Frame.foldl ?_ ?_)
    | (exact Nat.zero_and _)
    | (exact Frame.sub hL (by decide))
    | (exact Frame.bitOf hL (by decide))
    | (intro u hu x hx)
    | (intro u hu)
    | (refine Frame.bitMem (by with_reducible assumption) ?_)
    | (refine Frame.sub_all hL (by first | decide | (simp only [List.map_cons, List.map_nil]; decide)))
    | (refine Frame.bitMemFst (by with_reducible assumption) ?_)
    | (with_reducible apply Frame.emit)
    | (with_reducible apply Frame.beginLoad)
    | (with_reducible refine Frame.fst ?_ (by with_reducible assumption))
    | (with_reducible refine Frame.snd ?_ (by with_reducible assumption))
    | (with_reducible refine Frame.mk_other ?_)
    | decide

/-- What `State.takeImage` may write: register fields by number, memory at 1000. -/
def W.takeImage : Nat := 0x8000000000000000000000000000000000000000000000200000

theorem Frame.takeImage {M : Nat} {s0 s : State} {t : Nat} (hk0 : Frame M s0 s)
    (hL : W.takeImage &&& M = W.takeImage) : Frame M s0 (State.takeImage s t) := by
  unfold State.takeImage
  try dsimp only
  repeat' first
    | (with_reducible assumption)
    | (split)
    | (with_reducible refine Frame.foldl ?_ ?_)
    | (exact Nat.zero_and _)
    | (exact Frame.sub hL (by decide))
    | (exact Frame.bitOf hL (by decide))
    | (intro u hu x hx)
    | (intro u hu)
    | (refine Frame.bitMem (by with_reducible assumption) ?_)
    | (refine Frame.sub_all hL (by first | decide | (simp only [List.map_cons, List.map_nil]; decide)))
    | (refine Frame.bitMemFst (by with_reducible assumption) ?_)
    | (with_reducible apply Frame.emit)
    | (with_reducible apply Frame.setTree)
    | (with_reducible apply Frame.freeRetained)
    | (with_reducible apply Frame.loadHalf)
    | (with_reducible refine Frame.fst ?_ (by with_reducible assumption))
    | (with_reducible refine Frame.snd ?_ (by with_reducible assumption))
    | (with_reducible refine Frame.mk_other ?_)
    | decide

/-- What `State.fixStart` may write: register fields by number, memory at 1000. -/
def W.fixStart : Nat := 0x100000000000000000000000000000000000000000000000000000000000000000000000000000000000000000000000000000000000000000000000c0000000000021800000000000000000000000000000000000042d00000000072401302a00000008000000000000000000000000000000000000000000000000000

theorem Frame.fixStart {M : Nat} {s0 s : State} {t : Nat} (hk0 : Frame M s0 s)
    (hL : W.fixStart &&& M = W.fixStart) : Frame M s0 (State.fixStart s t) := by
  unfold State.fixStart
  try dsimp only
  repeat' first
    | (with_reducible assumption)
    | (split)
    | (with_reducible refine Frame.foldl ?_ ?_)
    | (exact Nat.zero_and _)
    | (exact Frame.sub hL (by decide))
    | (exact Frame.bitOf hL (by decide))
    | (intro u hu x hx)
    | (intro u hu)
    | (refine Frame.bitMem (by with_reducible assumption) ?_)
    | (refine Frame.sub_all hL (by first | decide | (simp only [List.map_cons, List.map_nil]; decide)))
    | (refine Frame.bitMemFst (by with_reducible assumption) ?_)
    | (with_reducible apply Frame.emit)
    | (with_reducible apply Frame.setTree)
    | (with_reducible apply Frame.loadHalf)
    | (with_reducible apply Frame.answerLater)
    | (with_reducible refine Frame.fst ?_ (by with_reducible assumption))
    | (with_reducible refine Frame.snd ?_ (by with_reducible assumption))
    | (with_reducible refine Frame.mk_other ?_)
    | decide

/-- What `State.resetProfiles` may write: register fields by number, memory at 1000. -/
def W.resetProfiles : Nat := 0x0

theorem Frame.resetProfiles {M : Nat} {s0 s : State} {t : Nat} (hk0 : Frame M s0 s)
    (_hL : W.resetProfiles &&& M = W.resetProfiles) : Frame M s0 (State.resetProfiles s t) := by
  unfold State.resetProfiles
  try dsimp only
  repeat' first
    | (with_reducible assumption)
    | (split)
    | (with_reducible refine Frame.foldl ?_ ?_)
    | (exact Nat.zero_and _)
    | (intro u hu x hx)
    | (intro u hu)
    | (refine Frame.bitMem (by with_reducible assumption) ?_)
    | (refine Frame.bitMemFst (by with_reducible assumption) ?_)
    | (with_reducible apply Frame.emit)
    | (with_reducible apply Frame.putBprofs)
    | decide

/-- What `State.setModifiable` may write: register fields by number, memory at 1000. -/
def W.setModifiable : Nat := 0x60c000000000000000000000000

theorem Frame.setModifiable {M : Nat} {s0 s : State} {t : Nat} {p : List Byte} (hk0 : Frame M s0 s)
    (hL : W.setModifiable &&& M = W.setModifiable) : Frame M s0 (State.setModifiable s t p) := by
  unfold State.setModifiable
  try dsimp only
  repeat' first
    | (with_reducible assumption)
    | (split)
    | (with_reducible refine Frame.foldl ?_ ?_)
    | (exact Nat.zero_and _)
    | (exact Frame.sub hL (by decide))
    | (exact Frame.bitOf hL (by decide))
    | (intro u hu x hx)
    | (intro u hu)
    | (refine Frame.bitMem (by with_reducible assumption) ?_)
    | (refine Frame.sub_all hL (by first | decide | (simp only [List.map_cons, List.map_nil]; decide)))
    | (refine Frame.bitMemFst (by with_reducible assumption) ?_)
    | (with_reducible refine Frame.wr ?_ ?_)
    | (with_reducible apply Frame.emit)
    | (with_reducible apply Frame.setTree)
    | (with_reducible apply Frame.wrB)
    | (with_reducible refine Frame.mk_other ?_)
    | decide

/-- What `State.treeConfig` may write: register fields by number, memory at 1000. -/
def W.treeConfig : Nat := 0x80000000000000000000000067d800000000000000000000000

theorem Frame.treeConfig {M : Nat} {s0 s : State} {p : List Byte} (hk0 : Frame M s0 s)
    (hL : W.treeConfig &&& M = W.treeConfig) : Frame M s0 (State.treeConfig s p).1 := by
  unfold State.treeConfig
  try dsimp only
  repeat' first
    | (with_reducible assumption)
    | (split)
    | (with_reducible refine Frame.foldl ?_ ?_)
    | (exact Nat.zero_and _)
    | (exact Frame.sub hL (by decide))
    | (exact Frame.bitOf hL (by decide))
    | (intro u hu x hx)
    | (intro u hu)
    | (refine Frame.bitMem (by with_reducible assumption) ?_)
    | (refine Frame.sub_all hL (by first | decide | (simp only [List.map_cons, List.map_nil]; decide)))
    | (refine Frame.bitMemFst (by with_reducible assumption) ?_)
    | (with_reducible refine Frame.wr ?_ ?_)
    | (with_reducible apply Frame.emit)
    | (with_reducible apply Frame.setTree)
    | (with_reducible apply Frame.resetProfiles)
    | (with_reducible apply Frame.setModifiable)
    | (with_reducible apply Frame.setCommit)
    | (with_reducible refine Frame.fst ?_ (by with_reducible assumption))
    | (with_reducible refine Frame.snd ?_ (by with_reducible assumption))
    | (with_reducible refine Frame.mk_other ?_)
    | decide

/-- What `State.scheduleStart` may write: register fields by number, memory at 1000. -/
def W.scheduleStart : Nat := 0x100000000000000000000000000000000000000000000000000000000000000000000000000000000000000000000000000000000000000000000000c0000000000021800200025f07e00800000000000000000000042d00000000072401302a00000000000000000000000000000000000000000000000000000200000

theorem Frame.scheduleStart {M : Nat} {s0 s : State} {t : Nat} {src : Src} {at_ : Nat} (hk0 : Frame M s0 s)
    (hL : W.scheduleStart &&& M = W.scheduleStart) : Frame M s0 (State.scheduleStart s t src at_) := by
  unfold State.scheduleStart
  try dsimp only
  repeat' first
    | (with_reducible assumption)
    | (split)
    | (with_reducible refine Frame.foldl ?_ ?_)
    | (exact Nat.zero_and _)
    | (exact Frame.sub hL (by decide))
    | (exact Frame.bitOf hL (by decide))
    | (intro u hu x hx)
    | (intro u hu)
    | (refine Frame.bitMem (by with_reducible assumption) ?_)
    | (refine Frame.sub_all hL (by first | decide | (simp only [List.map_cons, List.map_nil]; decide)))
    | (refine Frame.bitMemFst (by with_reducible assumption) ?_)
    | (with_reducible apply Frame.emit)
    | (with_reducible apply Frame.cancelStart)
    | (with_reducible apply Frame.setTree)
    | (with_reducible apply Frame.wake)
    | (with_reducible refine Frame.mk_other ?_)
    | decide

/-- What `State.recoverPair` may write: register fields by number, memory at 1000. -/
def W.recoverPair : Nat := 0x8000000000000000000000000000000000000000000000000000

theorem Frame.recoverPair {M : Nat} {s0 s : State} {t : Nat} {src : Src} (hk0 : Frame M s0 s)
    (hL : W.recoverPair &&& M = W.recoverPair) : Frame M s0 (State.recoverPair s t src).1 := by
  unfold State.recoverPair
  try dsimp only
  repeat' first
    | (with_reducible assumption)
    | (split)
    | (with_reducible refine Frame.foldl ?_ ?_)
    | (exact Nat.zero_and _)
    | (exact Frame.sub hL (by decide))
    | (exact Frame.bitOf hL (by decide))
    | (intro u hu x hx)
    | (intro u hu)
    | (refine Frame.bitMem (by with_reducible assumption) ?_)
    | (refine Frame.sub_all hL (by first | decide | (simp only [List.map_cons, List.map_nil]; decide)))
    | (refine Frame.bitMemFst (by with_reducible assumption) ?_)
    | (with_reducible apply Frame.emit)
    | (with_reducible apply Frame.engReload)
    | (with_reducible apply Frame.setEng)
    | (with_reducible refine Frame.mk_other ?_)
    | decide

/-- What `State.disableTree` may write: register fields by number, memory at 1000. -/
def W.disableTree : Nat := 0x100000000000000000000000000000000000000000000000000000000000000000000000000000000000000000000000000000000000000000000000c00000000000218000000073000004973f47c0020010000000042d00000000072401302a000000080010000000140001000040e2402600000000000000000200000

theorem Frame.disableTree_at {s0 s : State} {t : Nat} {src : Src} (h : Frame W.disableTree s0 s) : Frame W.disableTree s0 (State.disableTree s t src).1 := by
  unfold State.disableTree
  dsimp only
  repeat' first
    | decide
    | (with_reducible assumption)
    | split
    | (with_reducible apply Frame.recoverPair)
    | (with_reducible apply Frame.treeDisable)
    | (with_reducible apply Frame.leavePair)
    | (with_reducible apply Frame.protMsg)

theorem Frame.disableTree {M : Nat} {s0 s : State} {t : Nat} {src : Src} (hk0 : Frame M s0 s) (hL : W.disableTree &&& M = W.disableTree) :
    Frame M s0 (State.disableTree s t src).1 := hk0.trans ((Frame.disableTree_at (Frame.refl _ _) ).mono hL)

/-- What `State.treeEnable` may write: register fields by number, memory at 1000. -/
def W.treeEnable : Nat := 0x100000000000000000000000000000000000000000000000000000000000000000000000000000000000000000000000000000000000000000000000c0000000000021800200027f07e00c973f47c0020010000000042d00000000072401302a000000080010000000140001000040e2402600000000000000000200000

theorem Frame.treeEnable {M : Nat} {s0 s : State} {src : Src} {p : List Byte} (hk0 : Frame M s0 s)
    (hL : W.treeEnable &&& M = W.treeEnable) : Frame M s0 (State.treeEnable s src p).1 := by
  unfold State.treeEnable
  try dsimp only
  repeat' first
    | (with_reducible assumption)
    | (split)
    | (with_reducible refine Frame.foldl ?_ ?_)
    | (exact Nat.zero_and _)
    | (exact Frame.sub hL (by decide))
    | (exact Frame.bitOf hL (by decide))
    | (intro u hu x hx)
    | (intro u hu)
    | (refine Frame.bitMem (by with_reducible assumption) ?_)
    | (refine Frame.sub_all hL (by first | decide | (simp only [List.map_cons, List.map_nil]; decide)))
    | (refine Frame.bitMemFst (by with_reducible assumption) ?_)
    | (with_reducible apply Frame.emit)
    | (with_reducible apply Frame.cancelStart)
    | (with_reducible apply Frame.recoverPair)
    | (with_reducible apply Frame.disableTree)
    | (with_reducible apply Frame.scheduleStart)
    | (with_reducible apply Frame.setTree)
    | (with_reducible apply Frame.loadHalf)
    | (with_reducible refine Frame.fst ?_ (by with_reducible assumption))
    | (with_reducible refine Frame.snd ?_ (by with_reducible assumption))
    | (with_reducible refine Frame.mk_other ?_)
    | decide

/-- What `State.scrubKey` may write: register fields by number, memory at 1000. -/
def W.scrubKey : Nat := 0x10000000000000000000000000000000000000000000000000000000000000000000000000000000000000000000000000000000000000000000000000000000000000000000000000000000000000000000000000000080000000000000000000000000000000000000000000000000000000000000000000000000000

theorem Frame.scrubKey {M : Nat} {s0 s : State} {src : Src} {addr : Nat} (hk0 : Frame M s0 s)
    (hL : W.scrubKey &&& M = W.scrubKey) : Frame M s0 (State.scrubKey s src addr) := by
  unfold State.scrubKey
  try dsimp only
  repeat' first
    | (with_reducible assumption)
    | (split)
    | (with_reducible refine Frame.foldl ?_ ?_)
    | (exact Nat.zero_and _)
    | (exact Frame.sub hL (by decide))
    | (exact Frame.bitOf hL (by decide))
    | (intro u hu x hx)
    | (intro u hu)
    | (refine Frame.bitMem (by with_reducible assumption) ?_)
    | (refine Frame.sub_all hL (by first | decide | (simp only [List.map_cons, List.map_nil]; decide)))
    | (refine Frame.bitMemFst (by with_reducible assumption) ?_)
    | (with_reducible refine Frame.wr ?_ ?_)
    | (with_reducible apply Frame.emit)
    | (with_reducible refine Frame.hostWrite ?_ _ _ ?_)
    | (with_reducible refine Frame.fst ?_ (by with_reducible assumption))
    | (with_reducible refine Frame.snd ?_ (by with_reducible assumption))
    | (with_reducible refine Frame.mk_other ?_)
    | decide

/-- What `State.calvanKey` may write: register fields by number, memory at 1000. -/
def W.calvanKey : Nat := 0x100000000000000000000000000000000000000000000000000000000000000000000000000000000000000000000000000000000000000000000000c0000000000021800000000000000000000000000000000000042d80000000072401302a00000000000000000000000000000000000000000000000000000000000

theorem Frame.calvanKey {M : Nat} {s0 s : State} {src : Src} {code : Nat} {boot : Bool} {restricted : Bool} {body : Body} (hk0 : Frame M s0 s) (hbody : ∀ u src p, Frame M s0 u → Frame M s0 (body u src p).1)
    (hL : W.calvanKey &&& M = W.calvanKey) : Frame M s0 (State.calvanKey s src code boot restricted body) := by
  unfold State.calvanKey
  try dsimp only
  repeat' first
    | (with_reducible assumption)
    | (split)
    | (with_reducible refine Frame.foldl ?_ ?_)
    | (exact Nat.zero_and _)
    | (exact Frame.sub hL (by decide))
    | (exact Frame.bitOf hL (by decide))
    | (intro u hu x hx)
    | (intro u hu)
    | (refine Frame.bitMem (by with_reducible assumption) ?_)
    | (refine Frame.sub_all hL (by first | decide | (simp only [List.map_cons, List.map_nil]; decide)))
    | (refine Frame.bitMemFst (by with_reducible assumption) ?_)
    | (refine hbody _ ?_)
    | (refine hbody _ _ ?_)
    | (refine hbody _ _ _ ?_)
    | (with_reducible apply Frame.emit)
    | (with_reducible apply Frame.calvan)
    | (with_reducible apply Frame.scrubKey)
    | decide

/-- What `State.retireCut` may write: register fields by number, memory at 1000. -/
def W.retireCut : Nat := 0x100000000000000000000000000000000000000000000000000000000000000000000000000000000000000000000000000000000000000000000000c0000000000020000000000000000000000000000000000000000000000000072401202800000000000000000000000000004000000000000000000000000000000

theorem Frame.retireCut {M : Nat} {s0 s : State} {h : Nat} (hk0 : Frame M s0 s)
    (hL : W.retireCut &&& M = W.retireCut) : Frame M s0 (State.retireCut s h) := by
  unfold State.retireCut
  try dsimp only
  repeat' first
    | (with_reducible assumption)
    | (split)
    | (with_reducible refine Frame.foldl ?_ ?_)
    | (exact Nat.zero_and _)
    | (exact Frame.sub hL (by decide))
    | (exact Frame.bitOf hL (by decide))
    | (intro u hu x hx)
    | (intro u hu)
    | (refine Frame.bitMem (by with_reducible assumption) ?_)
    | (refine Frame.sub_all hL (by first | decide | (simp only [List.map_cons, List.map_nil]; decide)))
    | (refine Frame.bitMemFst (by with_reducible assumption) ?_)
    | (with_reducible apply Frame.emit)
    | (with_reducible apply Frame.cutInFlight)
    | (with_reducible apply Frame.putReasms)
    | (with_reducible refine Frame.mk_other ?_)
    | decide

/-- What `State.keyStage` may write: register fields by number, memory at 1000. -/
def W.keyStage : Nat := 0x100000000000000000000000000000000000000000000000000000000000000000000000000000000000000000000000000000000000000000000000c0000000000020000000000000000000000000000000000000000000000000072401202800000000000000000000000000004000000000000000000000000000000

theorem Frame.keyStage {M : Nat} {s0 s : State} {p : List Byte} (hk0 : Frame M s0 s)
    (hL : W.keyStage &&& M = W.keyStage) : Frame M s0 (State.keyStage s p).1 := by
  unfold State.keyStage
  try dsimp only
  repeat' first
    | (with_reducible assumption)
    | (split)
    | (with_reducible refine Frame.foldl ?_ ?_)
    | (exact Nat.zero_and _)
    | (exact Frame.sub hL (by decide))
    | (exact Frame.bitOf hL (by decide))
    | (intro u hu x hx)
    | (intro u hu)
    | (refine Frame.bitMem (by with_reducible assumption) ?_)
    | (refine Frame.sub_all hL (by first | decide | (simp only [List.map_cons, List.map_nil]; decide)))
    | (refine Frame.bitMemFst (by with_reducible assumption) ?_)
    | (with_reducible apply Frame.emit)
    | (with_reducible apply Frame.retireCut)
    | (with_reducible apply Frame.setSlot)
    | (with_reducible refine Frame.fst ?_ (by with_reducible assumption))
    | (with_reducible refine Frame.snd ?_ (by with_reducible assumption))
    | (with_reducible refine Frame.mk_other ?_)
    | decide

/-- What `State.keySwitchAt` may write: register fields by number, memory at 1000. -/
def W.keySwitchAt : Nat := 0x0

theorem Frame.keySwitchAt {M : Nat} {s0 s : State} {p : List Byte} (hk0 : Frame M s0 s)
    (_hL : W.keySwitchAt &&& M = W.keySwitchAt) : Frame M s0 (State.keySwitchAt s p).1 := by
  unfold State.keySwitchAt
  try dsimp only
  repeat' first
    | (with_reducible assumption)
    | (split)
    | (with_reducible refine Frame.foldl ?_ ?_)
    | (exact Nat.zero_and _)
    | (intro u hu x hx)
    | (intro u hu)
    | (refine Frame.bitMem (by with_reducible assumption) ?_)
    | (refine Frame.bitMemFst (by with_reducible assumption) ?_)
    | (with_reducible apply Frame.emit)
    | (with_reducible apply Frame.setSlot)
    | (with_reducible refine Frame.fst ?_ (by with_reducible assumption))
    | (with_reducible refine Frame.snd ?_ (by with_reducible assumption))
    | (with_reducible refine Frame.mk_other ?_)
    | decide

/-- What `State.keyErase` may write: register fields by number, memory at 1000. -/
def W.keyErase : Nat := 0x100000000000000000000000000000000000000000000000000000000000000000000000000000000000000000000000000000000000000000000000c0000000000020000000000000000000000000000000000000000000000000072401202800000000000000000010000000004020400000000000000000000000000

theorem Frame.keyErase {M : Nat} {s0 s : State} {p : List Byte} (hk0 : Frame M s0 s)
    (hL : W.keyErase &&& M = W.keyErase) : Frame M s0 (State.keyErase s p).1 := by
  unfold State.keyErase
  try dsimp only
  repeat' first
    | (with_reducible assumption)
    | (split)
    | (with_reducible refine Frame.foldl ?_ ?_)
    | (exact Nat.zero_and _)
    | (exact Frame.sub hL (by decide))
    | (exact Frame.bitOf hL (by decide))
    | (intro u hu x hx)
    | (intro u hu)
    | (refine Frame.bitMem (by with_reducible assumption) ?_)
    | (refine Frame.sub_all hL (by first | decide | (simp only [List.map_cons, List.map_nil]; decide)))
    | (refine Frame.bitMemFst (by with_reducible assumption) ?_)
    | (with_reducible apply Frame.emit)
    | (with_reducible apply Frame.eraseSlot)
    | (with_reducible apply Frame.unbindSlot)
    | (with_reducible refine Frame.fst ?_ (by with_reducible assumption))
    | (with_reducible refine Frame.snd ?_ (by with_reducible assumption))
    | (with_reducible refine Frame.mk_other ?_)
    | decide

/-- What `State.alarmErase` may write: register fields by number, memory at 1000. -/
def W.alarmErase : Nat := 0x100000000000000000000000000000000000000000000000000000000000000000000000000000000000000000000000000000000000000000000000c00000000000200000000000000000910707c0020010000000000000000000072401202800000000000000000010000000004020000000000000000000000000000

theorem Frame.alarmErase {M : Nat} {s0 s : State} {h : Nat} (hk0 : Frame M s0 s)
    (hL : W.alarmErase &&& M = W.alarmErase) : Frame M s0 (State.alarmErase s h) := by
  unfold State.alarmErase
  try dsimp only
  repeat' first
    | (with_reducible assumption)
    | (split)
    | (with_reducible refine Frame.foldl ?_ ?_)
    | (exact Nat.zero_and _)
    | (exact Frame.sub hL (by decide))
    | (exact Frame.bitOf hL (by decide))
    | (intro u hu x hx)
    | (intro u hu)
    | (refine Frame.bitMem (by with_reducible assumption) ?_)
    | (refine Frame.sub_all hL (by first | decide | (simp only [List.map_cons, List.map_nil]; decide)))
    | (refine Frame.bitMemFst (by with_reducible assumption) ?_)
    | (with_reducible apply Frame.emit)
    | (with_reducible apply Frame.enterSyncing)
    | (with_reducible apply Frame.eraseSlot)
    | decide

/-- What `State.sendDigest` may write: register fields by number, memory at 1000. -/
def W.sendDigest : Nat := 0xc0000000000020000000000000000000000000020010000000000000000000072000000000000000000000000000000000000000000000000000000000000000000

theorem Frame.sendDigest {M : Nat} {s0 s : State} {t : Nat} {fr : Int} {grants : List Grant} {crc : Nat} {flags : Nat} (hk0 : Frame M s0 s)
    (hL : W.sendDigest &&& M = W.sendDigest) : Frame M s0 (State.sendDigest s t fr grants crc flags) := by
  unfold State.sendDigest
  try dsimp only
  repeat' first
    | (with_reducible assumption)
    | (split)
    | (with_reducible refine Frame.foldl ?_ ?_)
    | (exact Nat.zero_and _)
    | (exact Frame.sub hL (by decide))
    | (exact Frame.bitOf hL (by decide))
    | (intro u hu x hx)
    | (intro u hu)
    | (refine Frame.bitMem (by with_reducible assumption) ?_)
    | (refine Frame.sub_all hL (by first | decide | (simp only [List.map_cons, List.map_nil]; decide)))
    | (refine Frame.bitMemFst (by with_reducible assumption) ?_)
    | (with_reducible apply Frame.emit)
    | (with_reducible apply Frame.protMsg)
    | decide

/-- What `State.latchMap` may write: register fields by number, memory at 1000. -/
def W.latchMap : Nat := 0xc0000000000020000000000000000000000000020010000000000000000000072000000000000000000000000000000000002018000000000000000000000000000

theorem Frame.latchMap {M : Nat} {s0 s : State} {t : Nat} {fr : Int} (hk0 : Frame M s0 s)
    (hL : W.latchMap &&& M = W.latchMap) : Frame M s0 (State.latchMap s t fr) := by
  unfold State.latchMap
  try dsimp only
  repeat' first
    | (with_reducible assumption)
    | (split)
    | (with_reducible refine Frame.foldl ?_ ?_)
    | (exact Nat.zero_and _)
    | (exact Frame.sub hL (by decide))
    | (exact Frame.bitOf hL (by decide))
    | (intro u hu x hx)
    | (intro u hu)
    | (refine Frame.bitMem (by with_reducible assumption) ?_)
    | (refine Frame.sub_all hL (by first | decide | (simp only [List.map_cons, List.map_nil]; decide)))
    | (refine Frame.bitMemFst (by with_reducible assumption) ?_)
    | (with_reducible apply Frame.emit)
    | (with_reducible apply Frame.setTree)
    | (with_reducible apply Frame.incSat)
    | (with_reducible apply Frame.treEvent)
    | (with_reducible apply Frame.blockEvent)
    | (with_reducible apply Frame.sendDigest)
    | (with_reducible refine Frame.fst ?_ (by with_reducible assumption))
    | (with_reducible refine Frame.snd ?_ (by with_reducible assumption))
    | (with_reducible refine Frame.mk_other ?_)
    | decide

/-- What `State.latchListen` may write: register fields by number, memory at 1000. -/
def W.latchListen : Nat := 0xc00000000000200000000000000000b20707c00200100000000000000000000720000000000000000000000000000000000000c2000200000000000000000000000

theorem Frame.latchListen {M : Nat} {s0 s : State} {t : Nat} {fr : Int} (hk0 : Frame M s0 s)
    (hL : W.latchListen &&& M = W.latchListen) : Frame M s0 (State.latchListen s t fr) := by
  unfold State.latchListen
  try dsimp only
  repeat' first
    | (with_reducible assumption)
    | (split)
    | (with_reducible refine Frame.foldl ?_ ?_)
    | (exact Nat.zero_and _)
    | (exact Frame.sub hL (by decide))
    | (exact Frame.bitOf hL (by decide))
    | (intro u hu x hx)
    | (intro u hu)
    | (refine Frame.bitMem (by with_reducible assumption) ?_)
    | (refine Frame.sub_all hL (by first | decide | (simp only [List.map_cons, List.map_nil]; decide)))
    | (refine Frame.bitMemFst (by with_reducible assumption) ?_)
    | (with_reducible refine Frame.wr ?_ ?_)
    | (with_reducible apply Frame.emit)
    | (with_reducible apply Frame.setTree)
    | (with_reducible apply Frame.incSat)
    | (with_reducible apply Frame.takeover)
    | (with_reducible apply Frame.protSet)
    | (with_reducible refine Frame.mk_other ?_)
    | decide

/-- What `State.bwAdd` may write: register fields by number, memory at 1000. -/
def W.bwAdd : Nat := 0x0

theorem Frame.bwAdd {M : Nat} {s0 s : State} {t : Nat} {i : Nat} {n : Nat} (hk0 : Frame M s0 s)
    (_hL : W.bwAdd &&& M = W.bwAdd) : Frame M s0 (State.bwAdd s t i n) := by
  unfold State.bwAdd
  try dsimp only
  repeat' first
    | (with_reducible assumption)
    | (split)
    | (with_reducible refine Frame.foldl ?_ ?_)
    | (exact Nat.zero_and _)
    | (intro u hu x hx)
    | (intro u hu)
    | (refine Frame.bitMem (by with_reducible assumption) ?_)
    | (refine Frame.bitMemFst (by with_reducible assumption) ?_)
    | (with_reducible apply Frame.emit)
    | (with_reducible apply Frame.addCnt)
    | decide

/-- What `State.setCnt` may write: register fields by number, memory at 1000. -/
def W.setCnt : Nat := 0x0

theorem Frame.setCnt {M : Nat} {s0 s : State} {page : Nat} {off : Nat} {n : Nat} (hk0 : Frame M s0 s)
    (_hL : W.setCnt &&& M = W.setCnt) : Frame M s0 (State.setCnt s page off n) := by
  unfold State.setCnt
  try dsimp only
  repeat' first
    | (with_reducible assumption)
    | (split)
    | (with_reducible refine Frame.foldl ?_ ?_)
    | (exact Nat.zero_and _)
    | (intro u hu x hx)
    | (intro u hu)
    | (refine Frame.bitMem (by with_reducible assumption) ?_)
    | (refine Frame.bitMemFst (by with_reducible assumption) ?_)
    | (with_reducible apply Frame.emit)
    | (with_reducible refine Frame.mk_other ?_)
    | decide

/-- What `State.bwFrame` may write: register fields by number, memory at 1000. -/
def W.bwFrame : Nat := 0x0

theorem Frame.bwFrame {M : Nat} {s0 s : State} {t : Nat} {fr : Nat} (hk0 : Frame M s0 s)
    (_hL : W.bwFrame &&& M = W.bwFrame) : Frame M s0 (State.bwFrame s t fr) := by
  unfold State.bwFrame
  try dsimp only
  repeat' first
    | (with_reducible assumption)
    | (split)
    | (with_reducible refine Frame.foldl ?_ ?_)
    | (exact Nat.zero_and _)
    | (intro u hu x hx)
    | (intro u hu)
    | (refine Frame.bitMem (by with_reducible assumption) ?_)
    | (refine Frame.bitMemFst (by with_reducible assumption) ?_)
    | (with_reducible apply Frame.emit)
    | (with_reducible apply Frame.setCnt)
    | decide

/-- What `State.carried` may write: register fields by number, memory at 1000. -/
def W.carried : Nat := 0xc0000000000020000000007300000400000000000000000000000000000000072000000000000000000000000000000100000000002000000000000000000000000

theorem Frame.carried {M : Nat} {s0 s : State} {t : Nat} {fr : Int} {p : Ploam} (hk0 : Frame M s0 s)
    (hL : W.carried &&& M = W.carried) : Frame M s0 (State.carried s t fr p) := by
  unfold State.carried
  try dsimp only
  repeat' first
    | (with_reducible assumption)
    | (split)
    | (with_reducible refine Frame.foldl ?_ ?_)
    | (exact Nat.zero_and _)
    | (exact Frame.sub hL (by decide))
    | (exact Frame.bitOf hL (by decide))
    | (intro u hu x hx)
    | (intro u hu)
    | (refine Frame.bitMem (by with_reducible assumption) ?_)
    | (refine Frame.sub_all hL (by first | decide | (simp only [List.map_cons, List.map_nil]; decide)))
    | (refine Frame.bitMemFst (by with_reducible assumption) ?_)
    | (with_reducible apply Frame.emit)
    | (with_reducible apply Frame.setTerm)
    | (with_reducible apply Frame.deregister)
    | (with_reducible apply Frame.burstProfile)
    | (with_reducible apply Frame.putBprofs)
    | (with_reducible refine Frame.fst ?_ (by with_reducible assumption))
    | (with_reducible refine Frame.snd ?_ (by with_reducible assumption))
    | (with_reducible refine Frame.mk_other ?_)
    | decide

/-- What `State.queueHeld` may write: register fields by number, memory at 1000. -/
def W.queueHeld : Nat := 0x0

theorem Frame.queueHeld {M : Nat} {s0 s : State} {t : Nat} (hk0 : Frame M s0 s)
    (_hL : W.queueHeld &&& M = W.queueHeld) : Frame M s0 (State.queueHeld s t) := by
  unfold State.queueHeld
  try dsimp only
  repeat' first
    | (with_reducible assumption)
    | (split)
    | (with_reducible refine Frame.foldl ?_ ?_)
    | (exact Nat.zero_and _)
    | (intro u hu x hx)
    | (intro u hu)
    | (refine Frame.bitMem (by with_reducible assumption) ?_)
    | (refine Frame.bitMemFst (by with_reducible assumption) ?_)
    | (with_reducible apply Frame.emit)
    | (with_reducible apply Frame.setTree)
    | (with_reducible apply Frame.ploamPut)
    | (with_reducible refine Frame.mk_other ?_)
    | decide

/-- What `State.beginFrame` may write: register fields by number, memory at 1000. -/
def W.beginFrame : Nat := 0xc0000000000020000000007300000400000000000000000000000000000000072000000000000000000000000000000100000000082000000000000000000000000

theorem Frame.beginFrame {M : Nat} {s0 before : State} {t : Nat} {fr : Int} (hk0 : Frame M s0 before)
    (hL : W.beginFrame &&& M = W.beginFrame) : Frame M s0 (State.beginFrame before t fr) := by
  unfold State.beginFrame
  try dsimp only
  repeat' first
    | (with_reducible assumption)
    | (split)
    | (with_reducible refine Frame.foldl ?_ ?_)
    | (exact Nat.zero_and _)
    | (exact Frame.sub hL (by decide))
    | (exact Frame.bitOf hL (by decide))
    | (intro u hu x hx)
    | (intro u hu)
    | (refine Frame.bitMem (by with_reducible assumption) ?_)
    | (refine Frame.sub_all hL (by first | decide | (simp only [List.map_cons, List.map_nil]; decide)))
    | (refine Frame.bitMemFst (by with_reducible assumption) ?_)
    | (with_reducible refine Frame.wr ?_ ?_)
    | (with_reducible apply Frame.emit)
    | (with_reducible apply Frame.endFsFrame)
    | (with_reducible apply Frame.setTree)
    | (with_reducible apply Frame.carried)
    | (with_reducible apply Frame.blockEvent)
    | (with_reducible apply Frame.setTreeU)
    | (with_reducible apply Frame.bwAdd)
    | (with_reducible apply Frame.queueHeld)
    | (with_reducible refine Frame.fst ?_ (by with_reducible assumption))
    | (with_reducible refine Frame.snd ?_ (by with_reducible assumption))
    | (with_reducible refine Frame.mk_other ?_)
    | decide

/-- What `State.tideCheck` may write: register fields by number, memory at 1000. -/
def W.tideCheck : Nat := 0xc00000000000200000000000000000918707c0020010000000000000000000072000000000000000000000000000000000000000000000000000000000000000000

theorem Frame.tideCheck {M : Nat} {s0 s : State} {t : Nat} (hk0 : Frame M s0 s)
    (hL : W.tideCheck &&& M = W.tideCheck) : Frame M s0 (State.tideCheck s t) := by
  unfold State.tideCheck
  try dsimp only
  repeat' first
    | (with_reducible assumption)
    | (split)
    | (with_reducible refine Frame.foldl ?_ ?_)
    | (exact Nat.zero_and _)
    | (exact Frame.sub hL (by decide))
    | (exact Frame.bitOf hL (by decide))
    | (intro u hu x hx)
    | (intro u hu)
    | (refine Frame.bitMem (by with_reducible assumption) ?_)
    | (refine Frame.sub_all hL (by first | decide | (simp only [List.map_cons, List.map_nil]; decide)))
    | (refine Frame.bitMemFst (by with_reducible assumption) ?_)
    | (with_reducible refine Frame.wr ?_ ?_)
    | (with_reducible apply Frame.emit)
    | (with_reducible apply Frame.setProt)
    | (with_reducible apply Frame.tryReady)
    | (with_reducible apply Frame.enterSyncing)
    | (with_reducible refine Frame.fst ?_ (by with_reducible assumption))
    | (with_reducible refine Frame.snd ?_ (by with_reducible assumption))
    | (with_reducible refine Frame.mk_other ?_)
    | decide

/-- What `State.sendingBoundary` may write: register fields by number, memory at 1000. -/
def W.sendingBoundary : Nat := 0x100000000000000000000000000000000000000000000000000000000000000000000000000000000000000000000000000000000000000000000000c00000000000218000000000000000910727c0020010000000042d00000000072401302a000000080000000000000001000000c2002200000000000000000200000

theorem Frame.sendingBoundary {M : Nat} {s0 s : State} {t : Nat} {fr : Int} (hk0 : Frame M s0 s)
    (hL : W.sendingBoundary &&& M = W.sendingBoundary) : Frame M s0 (State.sendingBoundary s t fr) := by
  unfold State.sendingBoundary
  try dsimp only
  repeat' first
    | (with_reducible assumption)
    | (split)
    | (with_reducible refine Frame.foldl ?_ ?_)
    | (exact Nat.zero_and _)
    | (exact Frame.sub hL (by decide))
    | (exact Frame.bitOf hL (by decide))
    | (intro u hu x hx)
    | (intro u hu)
    | (refine Frame.bitMem (by with_reducible assumption) ?_)
    | (refine Frame.sub_all hL (by first | decide | (simp only [List.map_cons, List.map_nil]; decide)))
    | (refine Frame.bitMemFst (by with_reducible assumption) ?_)
    | (with_reducible apply Frame.emit)
    | (with_reducible apply Frame.goStandby)
    | (with_reducible apply Frame.takeImage)
    | (with_reducible apply Frame.enterSyncing)
    | (with_reducible apply Frame.forgetSent)
    | (with_reducible apply Frame.switchAnswer)
    | (with_reducible apply Frame.protEvent)
    | (with_reducible apply Frame.enterDark)
    | (with_reducible apply Frame.protSet)
    | (with_reducible refine Frame.fst ?_ (by with_reducible assumption))
    | (with_reducible refine Frame.snd ?_ (by with_reducible assumption))
    | (with_reducible refine Frame.mk_other ?_)
    | decide

/-- What `State.emptyUsFrames` may write: register fields by number, memory at 1000. -/
def W.emptyUsFrames : Nat := 0xc00000000000200000000000000000d94707c00200100000000000000000000720000000000000000000000000000000000000c2000200000000000000000000000

theorem Frame.emptyUsFrames {M : Nat} {s0 s : State} {t : Nat} (hk0 : Frame M s0 s)
    (hL : W.emptyUsFrames &&& M = W.emptyUsFrames) : Frame M s0 (State.emptyUsFrames s t) := by
  unfold State.emptyUsFrames
  try dsimp only
  repeat' first
    | (with_reducible assumption)
    | (split)
    | (with_reducible refine Frame.foldl ?_ ?_)
    | (exact Nat.zero_and _)
    | (exact Frame.sub hL (by decide))
    | (exact Frame.bitOf hL (by decide))
    | (intro u hu x hx)
    | (intro u hu)
    | (refine Frame.bitMem (by with_reducible assumption) ?_)
    | (refine Frame.sub_all hL (by first | decide | (simp only [List.map_cons, List.map_nil]; decide)))
    | (refine Frame.bitMemFst (by with_reducible assumption) ?_)
    | (with_reducible apply Frame.emit)
    | (with_reducible apply Frame.usFrameEnd)
    | decide

/-- What `State.protBoundary` may write: register fields by number, memory at 1000. -/
def W.protBoundary : Nat := 0x100000000000000000000000000000000000000000000000000000000000000000000000000000000000000000000000000000000000000000000000c00000000000218000000000000000ddc727c0020010000000042d00000000072401302a000000080000000000000001000000c2002200000000000000000200000

theorem Frame.protBoundary {M : Nat} {s0 s : State} {t : Nat} {fr : Int} (hk0 : Frame M s0 s)
    (hL : W.protBoundary &&& M = W.protBoundary) : Frame M s0 (State.protBoundary s t fr) := by
  unfold State.protBoundary
  try dsimp only
  repeat' first
    | (with_reducible assumption)
    | (split)
    | (with_reducible refine Frame.foldl ?_ ?_)
    | (exact Nat.zero_and _)
    | (exact Frame.sub hL (by decide))
    | (exact Frame.bitOf hL (by decide))
    | (intro u hu x hx)
    | (intro u hu)
    | (refine Frame.bitMem (by with_reducible assumption) ?_)
    | (refine Frame.sub_all hL (by first | decide | (simp only [List.map_cons, List.map_nil]; decide)))
    | (refine Frame.bitMemFst (by with_reducible assumption) ?_)
    | (with_reducible refine Frame.wr ?_ ?_)
    | (with_reducible apply Frame.emit)
    | (with_reducible apply Frame.tideCheck)
    | (with_reducible apply Frame.emptyUsFrames)
    | (with_reducible apply Frame.switchAnswer)
    | (with_reducible apply Frame.protEvent)
    | (with_reducible apply Frame.goStandby)
    | (with_reducible apply Frame.forgetSent)
    | (with_reducible apply Frame.sendingBoundary)
    | (with_reducible apply Frame.protSet)
    | (with_reducible apply Frame.goActive)
    | (with_reducible apply Frame.takeover)
    | (with_reducible apply Frame.enterDark)
    | decide

/-- What `State.nextDraw` may write: register fields by number, memory at 1000. -/
def W.nextDraw : Nat := 0x0

theorem Frame.nextDraw_at {s0 s u : State} {t : Nat} {f : Staged} (h : Frame W.nextDraw s0 s) (e : s.nextDraw t = some (f, u)) : Frame W.nextDraw s0 u := by
  have hm : ∀ (o : Option Staged) (v : State), Frame W.nextDraw s0 v → o.map (fun g => (g, v)) = some (f, u) → Frame W.nextDraw s0 u := by
    intro o v hv he
    simp only [Option.map_eq_some_iff, Prod.mk.injEq] at he
    obtain ⟨_, _, _, rfl⟩ := he
    exact hv
  have hs : ∀ (g : Staged), some (g, s) = some (f, u) → Frame W.nextDraw s0 u := by
    intro g he
    simp only [Option.some.injEq, Prod.mk.injEq] at he
    rw [← he.2]; exact h
  unfold State.nextDraw at e
  extract_lets x ok due first plain q terms info cur at e
  clear_value first plain q terms info cur
  split at e
  · exact hs _ e
  · split at e
    · exact hs _ e
    · split at e
      · exact hs _ e
      · split at e
        · exact hm _ _ h e
        · split at e
          · contradiction
          · exact hm _ _ (Frame.setTree (_hL := by decide) h) e

theorem Frame.nextDraw {M : Nat} {s0 s u : State} {t : Nat} {f : Staged} (hk0 : Frame M s0 s) (e : s.nextDraw t = some (f, u)) (_hL : W.nextDraw &&& M = W.nextDraw) :
    Frame M s0 u := hk0.trans ((Frame.nextDraw_at (Frame.refl _ _) e).mono _hL)

/-- What `State.unstage` may write: register fields by number, memory at 1000. -/
def W.unstage : Nat := 0x0

theorem Frame.unstage {M : Nat} {s0 s : State} {t : Nat} {f : Staged} (hk0 : Frame M s0 s)
    (_hL : W.unstage &&& M = W.unstage) : Frame M s0 (State.unstage s t f) := by
  unfold State.unstage
  try dsimp only
  repeat' first
    | (with_reducible assumption)
    | (split)
    | (with_reducible refine Frame.foldl ?_ ?_)
    | (exact Nat.zero_and _)
    | (intro u hu x hx)
    | (intro u hu)
    | (refine Frame.bitMem (by with_reducible assumption) ?_)
    | (refine Frame.bitMemFst (by with_reducible assumption) ?_)
    | (with_reducible apply Frame.emit)
    | (with_reducible apply Frame.setTree)
    | (with_reducible refine Frame.mk_other ?_)
    | decide

/-- What `State.notSent` may write: register fields by number, memory at 1000. -/
def W.notSent : Nat := 0x100000000000000000000000000000000000000000000000000000000000000000000000000000000000000000000000000000000000000000000000c0000000000020000000000000000000000000000000000000000000000000072401202800000000000000000000000000000000000000000000000000000000000

theorem Frame.notSent {M : Nat} {s0 s : State} {t : Nat} {f : Staged} {status : Nat} {count : Option Fld} (hk0 : Frame M s0 s)
    (hL : W.notSent &&& M = W.notSent) (hc : ∀ c ∈ count, M.testBit c.num = true := by simp; try decide) :
    Frame M s0 (State.notSent s t f status count) := by
  unfold State.notSent
  dsimp only
  have h1 : Frame M s0 (((s.unstage t f).freeCells f.cell).endFrame f.origin status) := by
    repeat' first
      | (with_reducible assumption)
      | (exact Nat.zero_and _)
      | (exact Frame.sub hL (by decide))
      | (with_reducible apply Frame.endFrame)
      | (with_reducible apply Frame.freeCells)
      | (with_reducible apply Frame.unstage)
  split
  · refine Frame.incSat h1 (hc _ (by simp)) (Frame.sub hL (by decide))
  · exact h1

/-- What `State.refuseDraw` may write: register fields by number, memory at 1000. -/
def W.refuseDraw : Nat := 0x100000000000000000000000000000000000000000000000000000000000000000000000000000000000000000000000000000000000000000000000c000000000002180000000000000000000000000000000000000000000000007240131aa00000000000000000000000000001e00000000000000000000000000000

theorem Frame.refuseDraw_at {s0 s u : State} {t : Nat} {f : Staged} (h : Frame W.refuseDraw s0 s) (e : s.refuseDraw t f = some u) : Frame W.refuseDraw s0 u := by
  unfold State.refuseDraw at e
  dsimp only at e
  repeat' split at e
  all_goals first
    | contradiction
    | (simp only [Option.some.injEq] at e
       subst e
       first
         | exact Frame.notSent (hL := by decide) h (by decide)
         | exact Frame.notSent (hL := by decide) (Frame.bittern (hL := by decide) h) (by decide))

theorem Frame.refuseDraw {M : Nat} {s0 s u : State} {t : Nat} {f : Staged} (hk0 : Frame M s0 s) (e : s.refuseDraw t f = some u) (hL : W.refuseDraw &&& M = W.refuseDraw) :
    Frame M s0 u := hk0.trans ((Frame.refuseDraw_at (Frame.refl _ _) e).mono hL)

/-- What `State.emitFragment` may write: register fields by number, memory at 1000. -/
def W.emitFragment : Nat := 0x0

theorem Frame.emitFragment {M : Nat} {s0 s : State} {t : Nat} {w : InFlight} {n : Nat} (hk0 : Frame M s0 s)
    (_hL : W.emitFragment &&& M = W.emitFragment) : Frame M s0 (State.emitFragment s t w n) := by
  unfold State.emitFragment
  try dsimp only
  repeat' first
    | (with_reducible assumption)
    | (split)
    | (with_reducible refine Frame.foldl ?_ ?_)
    | (exact Nat.zero_and _)
    | (intro u hu x hx)
    | (intro u hu)
    | (refine Frame.bitMem (by with_reducible assumption) ?_)
    | (refine Frame.bitMemFst (by with_reducible assumption) ?_)
    | (with_reducible apply Frame.emit)
    | (with_reducible apply Frame.take)
    | decide

/-- What `State.sendFragment` may write: register fields by number, memory at 1000. -/
def W.sendFragment : Nat := 0x100000000000000000000000000000000000000000000000000000000000000000000000000000000000000000000000000000000000000000000000c0000000000020000000000000000000000000000000000000000000000000072401202800000000000000000000000000000000000000000000000000000000000

theorem Frame.sendFragment {M : Nat} {s0 s : State} {t : Nat} (hk0 : Frame M s0 s)
    (hL : W.sendFragment &&& M = W.sendFragment) : Frame M s0 (State.sendFragment s t) := by
  unfold State.sendFragment
  try dsimp only
  repeat' first
    | (with_reducible assumption)
    | (split)
    | (with_reducible refine Frame.foldl ?_ ?_)
    | (exact Nat.zero_and _)
    | (exact Frame.sub hL (by decide))
    | (exact Frame.bitOf hL (by decide))
    | (intro u hu x hx)
    | (intro u hu)
    | (refine Frame.bitMem (by with_reducible assumption) ?_)
    | (refine Frame.sub_all hL (by first | decide | (simp only [List.map_cons, List.map_nil]; decide)))
    | (refine Frame.bitMemFst (by with_reducible assumption) ?_)
    | (with_reducible apply Frame.emit)
    | (with_reducible apply Frame.idleFill)
    | (with_reducible apply Frame.setTree)
    | (with_reducible apply Frame.emitFragment)
    | (with_reducible apply Frame.blockEvent)
    | (with_reducible apply Frame.freeCells)
    | (with_reducible apply Frame.addFrames)
    | (with_reducible apply Frame.bwAdd)
    | (with_reducible apply Frame.finishTx)
    | (with_reducible refine Frame.fst ?_ (by with_reducible assumption))
    | (with_reducible refine Frame.snd ?_ (by with_reducible assumption))
    | (with_reducible refine Frame.mk_other ?_)
    | decide

/-- What `State.startFrame` may write: register fields by number, memory at 1000. -/
def W.startFrame : Nat := 0x100000000000000000000000000000000000000000000000000000000000000000000000000000000000000000000000000000000000000000000000c0000000000020000000000000000000000000000000000000000000000000072401202800000000000000000000000000000000000000000000000000000000000

theorem Frame.startFrame {M : Nat} {s0 s : State} {t : Nat} {f : Staged} (hk0 : Frame M s0 s)
    (hL : W.startFrame &&& M = W.startFrame) : Frame M s0 (State.startFrame s t f) := by
  unfold State.startFrame
  try dsimp only
  repeat' first
    | (with_reducible assumption)
    | (split)
    | (with_reducible refine Frame.foldl ?_ ?_)
    | (exact Nat.zero_and _)
    | (exact Frame.sub hL (by decide))
    | (exact Frame.bitOf hL (by decide))
    | (intro u hu x hx)
    | (intro u hu)
    | (refine Frame.bitMem (by with_reducible assumption) ?_)
    | (refine Frame.sub_all hL (by first | decide | (simp only [List.map_cons, List.map_nil]; decide)))
    | (refine Frame.bitMemFst (by with_reducible assumption) ?_)
    | (with_reducible apply Frame.emit)
    | (with_reducible apply Frame.unstage)
    | (with_reducible apply Frame.setTree)
    | (with_reducible apply Frame.sendFragment)
    | (with_reducible refine Frame.fst ?_ (by with_reducible assumption))
    | (with_reducible refine Frame.snd ?_ (by with_reducible assumption))
    | (with_reducible refine Frame.mk_other ?_)
    | decide

/-- What `State.drawLoop` may write: register fields by number, memory at 1000. -/
def W.drawLoop : Nat := 0x100000000000000000000000000000000000000000000000000000000000000000000000000000000000000000000000000000000000000000000000c000000000002180000000000000000000000000000000000000000000000007240131aa00000000000000000000000000001e00000000000000000000000000000

theorem Frame.drawLoop_at {s0 s : State} {t n : Nat} (h : Frame W.drawLoop s0 s) : Frame W.drawLoop s0 (State.drawLoop t n s) := by
  induction n generalizing s with
  | zero => exact h
  | succ n ih =>
    unfold State.drawLoop
    split
    · exact Frame.idleFill (hL := by decide) h
    · rename_i hd
      have h1 := Frame.nextDraw (_hL := by decide) h hd
      split
      · rename_i hr
        exact ih (Frame.refuseDraw (hL := by decide) h1 hr)
      · split
        · rename_i hc
          exact ih (Frame.notSent (hL := by decide) (Frame.snd (Frame.cellRead (hL := by decide) h1) hc) (by decide))
        · rename_i hc
          exact Frame.startFrame (hL := by decide) (Frame.snd (Frame.cellRead (hL := by decide) h1) hc)

theorem Frame.drawLoop {M : Nat} {s0 s : State} {t n : Nat} (hk0 : Frame M s0 s) (hL : W.drawLoop &&& M = W.drawLoop) :
    Frame M s0 (State.drawLoop t n s) := hk0.trans ((Frame.drawLoop_at (Frame.refl _ _) ).mono hL)

end Sys2Proof.Machine
end

