-- ==== Sys2Proof/Laws/State.lean ====
section
/-! SUPPORT. What each named update of the state leaves in every field, and what the accessors read after it: one lemma
per field and update, true by definition, so that no later proof unfolds a record update. -/

namespace Sys2Proof.Machine

/-! ### Register fields -/

@[simp] theorem State.rd_wr_same (s : State) (f : Fld) (i v : Nat) : (s.wr f i v).rd f i = v % 2 ^ f.w := by
  simp [State.rd, State.wr]

theorem State.rd_wr_other (s : State) {f g : Fld} {i j : Nat} (v : Nat) (h : f.num ≠ g.num ∨ i ≠ j) :
    (s.wr f i v).rd g j = s.rd g j := by
  unfold State.rd State.wr
  refine smGet_smSet_other _ _ _ _ ?_
  intro e
  rw [Prod.mk.injEq] at e
  rcases h with h | h
  · exact h e.1
  · exact h e.2

theorem State.rd_wr_fld (s : State) {f g : Fld} {i j : Nat} (v : Nat) (h : f.num ≠ g.num) : (s.wr f i v).rd g j = s.rd g j :=
  s.rd_wr_other v (.inl h)

theorem State.flag_wr_other (s : State) {f g : Fld} {i j : Nat} (v : Nat) (h : f.num ≠ g.num ∨ i ≠ j) :
    (s.wr f i v).flag g j = s.flag g j := by
  unfold State.flag
  rw [State.rd_wr_other s v h]

theorem State.pw_wr (s : State) {f : Fld} {i d : Nat} (v : Nat) (h : f.num ≠ F.PWR_Dd_STATE.STATE.num) :
    (s.wr f i v).pw d = s.pw d := by
  unfold State.pw
  rw [State.rd_wr_fld s v h]

theorem State.on_wr (s : State) {f : Fld} {i d : Nat} (v : Nat) (h : f.num ≠ F.PWR_Dd_STATE.STATE.num) :
    (s.wr f i v).on d = s.on d := by
  unfold State.on
  rw [State.pw_wr s v h]

theorem State.tstate_wr (s : State) {f : Fld} {i t : Nat} (v : Nat) (h : f.num ≠ F.TRE_STATE.STATE.num) :
    (s.wr f i v).tstate t = s.tstate t := State.rd_wr_fld s v h

theorem State.rd_cutoff (s : State) (f : Fld) (i v : Nat) (h : v < 2 ^ f.w) : (s.wr f i v).rd f i = v := by
  rw [State.rd_wr_same, Nat.mod_eq_of_lt h]

/-! ### wr -/

@[simp] theorem State.wr_pending (s : State) (f : Fld) (i v : Nat) : (s.wr f i v).pending = s.pending := rfl
@[simp] theorem State.wr_freeCtr (s : State) (f : Fld) (i v : Nat) : (s.wr f i v).freeCtr = s.freeCtr := rfl
@[simp] theorem State.wr_out (s : State) (f : Fld) (i v : Nat) : (s.wr f i v).out = s.out := rfl
@[simp] theorem State.wr_hostMem (s : State) (f : Fld) (i v : Nat) : (s.wr f i v).hostMem = s.hostMem := rfl
@[simp] theorem State.wr_scratch (s : State) (f : Fld) (i v : Nat) : (s.wr f i v).scratch = s.scratch := rfl
@[simp] theorem State.wr_bnd (s : State) (f : Fld) (i v : Nat) : (s.wr f i v).bnd = s.bnd := rfl
@[simp] theorem State.wr_tb (s : State) (f : Fld) (i v : Nat) : (s.wr f i v).tb = s.tb := rfl
@[simp] theorem State.wr_doms (s : State) (f : Fld) (i v : Nat) : (s.wr f i v).doms = s.doms := rfl
@[simp] theorem State.wr_sents (s : State) (f : Fld) (i v : Nat) : (s.wr f i v).sents = s.sents := rfl
@[simp] theorem State.wr_hostSleep (s : State) (f : Fld) (i v : Nat) : (s.wr f i v).hostSleep = s.hostSleep := rfl
@[simp] theorem State.wr_trees (s : State) (f : Fld) (i v : Nat) : (s.wr f i v).trees = s.trees := rfl
@[simp] theorem State.wr_slots (s : State) (f : Fld) (i v : Nat) : (s.wr f i v).slots = s.slots := rfl
@[simp] theorem State.wr_rings (s : State) (f : Fld) (i v : Nat) : (s.wr f i v).rings = s.rings := rfl
@[simp] theorem State.wr_evqs (s : State) (f : Fld) (i v : Nat) : (s.wr f i v).evqs = s.evqs := rfl
@[simp] theorem State.wr_doorbells (s : State) (f : Fld) (i v : Nat) : (s.wr f i v).doorbells = s.doorbells := rfl
@[simp] theorem State.wr_cp (s : State) (f : Fld) (i v : Nat) : (s.wr f i v).cp = s.cp := rfl
@[simp] theorem State.wr_terms (s : State) (f : Fld) (i v : Nat) : (s.wr f i v).terms = s.terms := rfl
@[simp] theorem State.wr_flows (s : State) (f : Fld) (i v : Nat) : (s.wr f i v).flows = s.flows := rfl
@[simp] theorem State.wr_reasms (s : State) (f : Fld) (i v : Nat) : (s.wr f i v).reasms = s.reasms := rfl
@[simp] theorem State.wr_bprofs (s : State) (f : Fld) (i v : Nat) : (s.wr f i v).bprofs = s.bprofs := rfl
@[simp] theorem State.wr_treeUs (s : State) (f : Fld) (i v : Nat) : (s.wr f i v).treeUs = s.treeUs := rfl
@[simp] theorem State.wr_allocs (s : State) (f : Fld) (i v : Nat) : (s.wr f i v).allocs = s.allocs := rfl
@[simp] theorem State.wr_sluTrees (s : State) (f : Fld) (i v : Nat) : (s.wr f i v).sluTrees = s.sluTrees := rfl
@[simp] theorem State.wr_sluUnits (s : State) (f : Fld) (i v : Nat) : (s.wr f i v).sluUnits = s.sluUnits := rfl
@[simp] theorem State.wr_sluShared (s : State) (f : Fld) (i v : Nat) : (s.wr f i v).sluShared = s.sluShared := rfl
@[simp] theorem State.wr_slu (s : State) (f : Fld) (i v : Nat) : (s.wr f i v).slu = s.slu := rfl
@[simp] theorem State.wr_buf (s : State) (f : Fld) (i v : Nat) : (s.wr f i v).buf = s.buf := rfl
@[simp] theorem State.wr_tabs (s : State) (f : Fld) (i v : Nat) : (s.wr f i v).tabs = s.tabs := rfl
@[simp] theorem State.wr_counts (s : State) (f : Fld) (i v : Nat) : (s.wr f i v).counts = s.counts := rfl
@[simp] theorem State.wr_fabLinks (s : State) (f : Fld) (i v : Nat) : (s.wr f i v).fabLinks = s.fabLinks := rfl
@[simp] theorem State.wr_fab (s : State) (f : Fld) (i v : Nat) : (s.wr f i v).fab = s.fab := rfl
@[simp] theorem State.wr_prots (s : State) (f : Fld) (i v : Nat) : (s.wr f i v).prots = s.prots := rfl
@[simp] theorem State.wr_engs (s : State) (f : Fld) (i v : Nat) : (s.wr f i v).engs = s.engs := rfl
@[simp] theorem State.wr_tel (s : State) (f : Fld) (i v : Nat) : (s.wr f i v).tel = s.tel := rfl
@[simp] theorem State.wr_errLog (s : State) (f : Fld) (i v : Nat) : (s.wr f i v).errLog = s.errLog := rfl
@[simp] theorem State.wr_errOvf (s : State) (f : Fld) (i v : Nat) : (s.wr f i v).errOvf = s.errOvf := rfl
@[simp] theorem State.wr_chans (s : State) (f : Fld) (i v : Nat) : (s.wr f i v).chans = s.chans := rfl
@[simp] theorem State.wr_rakeLast (s : State) (f : Fld) (i v : Nat) : (s.wr f i v).rakeLast = s.rakeLast := rfl
@[simp] theorem State.wr_mon (s : State) (f : Fld) (i v : Nat) : (s.wr f i v).mon = s.mon := rfl
@[simp] theorem State.wr_dom (s : State) (f : Fld) (i v : Nat) (k0 : Nat) : (s.wr f i v).dom k0 = s.dom k0 := rfl
@[simp] theorem State.wr_ring (s : State) (f : Fld) (i v : Nat) (k0 : Nat) : (s.wr f i v).ring k0 = s.ring k0 := rfl
@[simp] theorem State.wr_evq (s : State) (f : Fld) (i v : Nat) (k0 : Nat) : (s.wr f i v).evq k0 = s.evq k0 := rfl
@[simp] theorem State.wr_tree (s : State) (f : Fld) (i v : Nat) (k0 : Nat) : (s.wr f i v).tree k0 = s.tree k0 := rfl
@[simp] theorem State.wr_treeU (s : State) (f : Fld) (i v : Nat) (k0 : Nat) : (s.wr f i v).treeU k0 = s.treeU k0 := rfl
@[simp] theorem State.wr_slot (s : State) (f : Fld) (i v : Nat) (k0 : Nat) : (s.wr f i v).slot k0 = s.slot k0 := rfl
@[simp] theorem State.wr_shared (s : State) (f : Fld) (i v : Nat) (k0 : Nat) : (s.wr f i v).shared k0 = s.shared k0 := rfl
@[simp] theorem State.wr_sluUnit (s : State) (f : Fld) (i v : Nat) (k0 : Nat) : (s.wr f i v).sluUnit k0 = s.sluUnit k0 := rfl
@[simp] theorem State.wr_eng (s : State) (f : Fld) (i v : Nat) (k0 : Nat) : (s.wr f i v).eng k0 = s.eng k0 := rfl
@[simp] theorem State.wr_chan (s : State) (f : Fld) (i v : Nat) (k0 : Nat) : (s.wr f i v).chan k0 = s.chan k0 := rfl
@[simp] theorem State.wr_prot (s : State) (f : Fld) (i v : Nat) (k0 : Nat) : (s.wr f i v).prot k0 = s.prot k0 := rfl
@[simp] theorem State.wr_link (s : State) (f : Fld) (i v : Nat) (k0 : Nat) : (s.wr f i v).link k0 = s.link k0 := rfl
@[simp] theorem State.wr_term (s : State) (f : Fld) (i v : Nat) (k0 j0 : Nat) : (s.wr f i v).term k0 j0 = s.term k0 j0 := rfl

/-! ### emit -/

@[simp] theorem State.emit_pending (s : State) (o : Output) : (s.emit o).pending = s.pending := rfl
@[simp] theorem State.emit_freeCtr (s : State) (o : Output) : (s.emit o).freeCtr = s.freeCtr := rfl
@[simp] theorem State.emit_hostMem (s : State) (o : Output) : (s.emit o).hostMem = s.hostMem := rfl
@[simp] theorem State.emit_scratch (s : State) (o : Output) : (s.emit o).scratch = s.scratch := rfl
@[simp] theorem State.emit_fields (s : State) (o : Output) : (s.emit o).fields = s.fields := rfl
@[simp] theorem State.emit_bnd (s : State) (o : Output) : (s.emit o).bnd = s.bnd := rfl
@[simp] theorem State.emit_tb (s : State) (o : Output) : (s.emit o).tb = s.tb := rfl
@[simp] theorem State.emit_doms (s : State) (o : Output) : (s.emit o).doms = s.doms := rfl
@[simp] theorem State.emit_sents (s : State) (o : Output) : (s.emit o).sents = s.sents := rfl
@[simp] theorem State.emit_hostSleep (s : State) (o : Output) : (s.emit o).hostSleep = s.hostSleep := rfl
@[simp] theorem State.emit_trees (s : State) (o : Output) : (s.emit o).trees = s.trees := rfl
@[simp] theorem State.emit_slots (s : State) (o : Output) : (s.emit o).slots = s.slots := rfl
@[simp] theorem State.emit_rings (s : State) (o : Output) : (s.emit o).rings = s.rings := rfl
@[simp] theorem State.emit_evqs (s : State) (o : Output) : (s.emit o).evqs = s.evqs := rfl
@[simp] theorem State.emit_doorbells (s : State) (o : Output) : (s.emit o).doorbells = s.doorbells := rfl
@[simp] theorem State.emit_cp (s : State) (o : Output) : (s.emit o).cp = s.cp := rfl
@[simp] theorem State.emit_terms (s : State) (o : Output) : (s.emit o).terms = s.terms := rfl
@[simp] theorem State.emit_flows (s : State) (o : Output) : (s.emit o).flows = s.flows := rfl
@[simp] theorem State.emit_reasms (s : State) (o : Output) : (s.emit o).reasms = s.reasms := rfl
@[simp] theorem State.emit_bprofs (s : State) (o : Output) : (s.emit o).bprofs = s.bprofs := rfl
@[simp] theorem State.emit_treeUs (s : State) (o : Output) : (s.emit o).treeUs = s.treeUs := rfl
@[simp] theorem State.emit_allocs (s : State) (o : Output) : (s.emit o).allocs = s.allocs := rfl
@[simp] theorem State.emit_sluTrees (s : State) (o : Output) : (s.emit o).sluTrees = s.sluTrees := rfl
@[simp] theorem State.emit_sluUnits (s : State) (o : Output) : (s.emit o).sluUnits = s.sluUnits := rfl
@[simp] theorem State.emit_sluShared (s : State) (o : Output) : (s.emit o).sluShared = s.sluShared := rfl
@[simp] theorem State.emit_slu (s : State) (o : Output) : (s.emit o).slu = s.slu := rfl
@[simp] theorem State.emit_buf (s : State) (o : Output) : (s.emit o).buf = s.buf := rfl
@[simp] theorem State.emit_tabs (s : State) (o : Output) : (s.emit o).tabs = s.tabs := rfl
@[simp] theorem State.emit_counts (s : State) (o : Output) : (s.emit o).counts = s.counts := rfl
@[simp] theorem State.emit_fabLinks (s : State) (o : Output) : (s.emit o).fabLinks = s.fabLinks := rfl
@[simp] theorem State.emit_fab (s : State) (o : Output) : (s.emit o).fab = s.fab := rfl
@[simp] theorem State.emit_prots (s : State) (o : Output) : (s.emit o).prots = s.prots := rfl
@[simp] theorem State.emit_engs (s : State) (o : Output) : (s.emit o).engs = s.engs := rfl
@[simp] theorem State.emit_tel (s : State) (o : Output) : (s.emit o).tel = s.tel := rfl
@[simp] theorem State.emit_errLog (s : State) (o : Output) : (s.emit o).errLog = s.errLog := rfl
@[simp] theorem State.emit_errOvf (s : State) (o : Output) : (s.emit o).errOvf = s.errOvf := rfl
@[simp] theorem State.emit_chans (s : State) (o : Output) : (s.emit o).chans = s.chans := rfl
@[simp] theorem State.emit_rakeLast (s : State) (o : Output) : (s.emit o).rakeLast = s.rakeLast := rfl
@[simp] theorem State.emit_mon (s : State) (o : Output) : (s.emit o).mon = s.mon := rfl
@[simp] theorem State.emit_rd (s : State) (o : Output) (f0 : Fld) (i0 : Nat) : (s.emit o).rd f0 i0 = s.rd f0 i0 := rfl
@[simp] theorem State.emit_flag (s : State) (o : Output) (f0 : Fld) (i0 : Nat) : (s.emit o).flag f0 i0 = s.flag f0 i0 := rfl
@[simp] theorem State.emit_pw (s : State) (o : Output) (d0 : Nat) : (s.emit o).pw d0 = s.pw d0 := rfl
@[simp] theorem State.emit_on (s : State) (o : Output) (d0 : Nat) : (s.emit o).on d0 = s.on d0 := rfl
@[simp] theorem State.emit_tstate (s : State) (o : Output) (t0 : Nat) : (s.emit o).tstate t0 = s.tstate t0 := rfl
@[simp] theorem State.emit_dom (s : State) (o : Output) (k0 : Nat) : (s.emit o).dom k0 = s.dom k0 := rfl
@[simp] theorem State.emit_ring (s : State) (o : Output) (k0 : Nat) : (s.emit o).ring k0 = s.ring k0 := rfl
@[simp] theorem State.emit_evq (s : State) (o : Output) (k0 : Nat) : (s.emit o).evq k0 = s.evq k0 := rfl
@[simp] theorem State.emit_tree (s : State) (o : Output) (k0 : Nat) : (s.emit o).tree k0 = s.tree k0 := rfl
@[simp] theorem State.emit_treeU (s : State) (o : Output) (k0 : Nat) : (s.emit o).treeU k0 = s.treeU k0 := rfl
@[simp] theorem State.emit_slot (s : State) (o : Output) (k0 : Nat) : (s.emit o).slot k0 = s.slot k0 := rfl
@[simp] theorem State.emit_shared (s : State) (o : Output) (k0 : Nat) : (s.emit o).shared k0 = s.shared k0 := rfl
@[simp] theorem State.emit_sluUnit (s : State) (o : Output) (k0 : Nat) : (s.emit o).sluUnit k0 = s.sluUnit k0 := rfl
@[simp] theorem State.emit_eng (s : State) (o : Output) (k0 : Nat) : (s.emit o).eng k0 = s.eng k0 := rfl
@[simp] theorem State.emit_chan (s : State) (o : Output) (k0 : Nat) : (s.emit o).chan k0 = s.chan k0 := rfl
@[simp] theorem State.emit_prot (s : State) (o : Output) (k0 : Nat) : (s.emit o).prot k0 = s.prot k0 := rfl
@[simp] theorem State.emit_link (s : State) (o : Output) (k0 : Nat) : (s.emit o).link k0 = s.link k0 := rfl
@[simp] theorem State.emit_term (s : State) (o : Output) (k0 j0 : Nat) : (s.emit o).term k0 j0 = s.term k0 j0 := rfl

/-! ### tickFree -/

@[simp] theorem State.tickFree_pending (s : State) : (s.tickFree).pending = s.pending := rfl
@[simp] theorem State.tickFree_out (s : State) : (s.tickFree).out = s.out := rfl
@[simp] theorem State.tickFree_hostMem (s : State) : (s.tickFree).hostMem = s.hostMem := rfl
@[simp] theorem State.tickFree_scratch (s : State) : (s.tickFree).scratch = s.scratch := rfl
@[simp] theorem State.tickFree_fields (s : State) : (s.tickFree).fields = s.fields := rfl
@[simp] theorem State.tickFree_bnd (s : State) : (s.tickFree).bnd = s.bnd := rfl
@[simp] theorem State.tickFree_tb (s : State) : (s.tickFree).tb = s.tb := rfl
@[simp] theorem State.tickFree_doms (s : State) : (s.tickFree).doms = s.doms := rfl
@[simp] theorem State.tickFree_sents (s : State) : (s.tickFree).sents = s.sents := rfl
@[simp] theorem State.tickFree_hostSleep (s : State) : (s.tickFree).hostSleep = s.hostSleep := rfl
@[simp] theorem State.tickFree_trees (s : State) : (s.tickFree).trees = s.trees := rfl
@[simp] theorem State.tickFree_slots (s : State) : (s.tickFree).slots = s.slots := rfl
@[simp] theorem State.tickFree_rings (s : State) : (s.tickFree).rings = s.rings := rfl
@[simp] theorem State.tickFree_evqs (s : State) : (s.tickFree).evqs = s.evqs := rfl
@[simp] theorem State.tickFree_doorbells (s : State) : (s.tickFree).doorbells = s.doorbells := rfl
@[simp] theorem State.tickFree_cp (s : State) : (s.tickFree).cp = s.cp := rfl
@[simp] theorem State.tickFree_terms (s : State) : (s.tickFree).terms = s.terms := rfl
@[simp] theorem State.tickFree_flows (s : State) : (s.tickFree).flows = s.flows := rfl
@[simp] theorem State.tickFree_reasms (s : State) : (s.tickFree).reasms = s.reasms := rfl
@[simp] theorem State.tickFree_bprofs (s : State) : (s.tickFree).bprofs = s.bprofs := rfl
@[simp] theorem State.tickFree_treeUs (s : State) : (s.tickFree).treeUs = s.treeUs := rfl
@[simp] theorem State.tickFree_allocs (s : State) : (s.tickFree).allocs = s.allocs := rfl
@[simp] theorem State.tickFree_sluTrees (s : State) : (s.tickFree).sluTrees = s.sluTrees := rfl
@[simp] theorem State.tickFree_sluUnits (s : State) : (s.tickFree).sluUnits = s.sluUnits := rfl
@[simp] theorem State.tickFree_sluShared (s : State) : (s.tickFree).sluShared = s.sluShared := rfl
@[simp] theorem State.tickFree_slu (s : State) : (s.tickFree).slu = s.slu := rfl
@[simp] theorem State.tickFree_buf (s : State) : (s.tickFree).buf = s.buf := rfl
@[simp] theorem State.tickFree_tabs (s : State) : (s.tickFree).tabs = s.tabs := rfl
@[simp] theorem State.tickFree_counts (s : State) : (s.tickFree).counts = s.counts := rfl
@[simp] theorem State.tickFree_fabLinks (s : State) : (s.tickFree).fabLinks = s.fabLinks := rfl
@[simp] theorem State.tickFree_fab (s : State) : (s.tickFree).fab = s.fab := rfl
@[simp] theorem State.tickFree_prots (s : State) : (s.tickFree).prots = s.prots := rfl
@[simp] theorem State.tickFree_engs (s : State) : (s.tickFree).engs = s.engs := rfl
@[simp] theorem State.tickFree_tel (s : State) : (s.tickFree).tel = s.tel := rfl
@[simp] theorem State.tickFree_errLog (s : State) : (s.tickFree).errLog = s.errLog := rfl
@[simp] theorem State.tickFree_errOvf (s : State) : (s.tickFree).errOvf = s.errOvf := rfl
@[simp] theorem State.tickFree_chans (s : State) : (s.tickFree).chans = s.chans := rfl
@[simp] theorem State.tickFree_rakeLast (s : State) : (s.tickFree).rakeLast = s.rakeLast := rfl
@[simp] theorem State.tickFree_mon (s : State) : (s.tickFree).mon = s.mon := rfl
@[simp] theorem State.tickFree_rd (s : State) (f0 : Fld) (i0 : Nat) : (s.tickFree).rd f0 i0 = s.rd f0 i0 := rfl
@[simp] theorem State.tickFree_flag (s : State) (f0 : Fld) (i0 : Nat) : (s.tickFree).flag f0 i0 = s.flag f0 i0 := rfl
@[simp] theorem State.tickFree_pw (s : State) (d0 : Nat) : (s.tickFree).pw d0 = s.pw d0 := rfl
@[simp] theorem State.tickFree_on (s : State) (d0 : Nat) : (s.tickFree).on d0 = s.on d0 := rfl
@[simp] theorem State.tickFree_tstate (s : State) (t0 : Nat) : (s.tickFree).tstate t0 = s.tstate t0 := rfl
@[simp] theorem State.tickFree_dom (s : State) (k0 : Nat) : (s.tickFree).dom k0 = s.dom k0 := rfl
@[simp] theorem State.tickFree_ring (s : State) (k0 : Nat) : (s.tickFree).ring k0 = s.ring k0 := rfl
@[simp] theorem State.tickFree_evq (s : State) (k0 : Nat) : (s.tickFree).evq k0 = s.evq k0 := rfl
@[simp] theorem State.tickFree_tree (s : State) (k0 : Nat) : (s.tickFree).tree k0 = s.tree k0 := rfl
@[simp] theorem State.tickFree_treeU (s : State) (k0 : Nat) : (s.tickFree).treeU k0 = s.treeU k0 := rfl
@[simp] theorem State.tickFree_slot (s : State) (k0 : Nat) : (s.tickFree).slot k0 = s.slot k0 := rfl
@[simp] theorem State.tickFree_shared (s : State) (k0 : Nat) : (s.tickFree).shared k0 = s.shared k0 := rfl
@[simp] theorem State.tickFree_sluUnit (s : State) (k0 : Nat) : (s.tickFree).sluUnit k0 = s.sluUnit k0 := rfl
@[simp] theorem State.tickFree_eng (s : State) (k0 : Nat) : (s.tickFree).eng k0 = s.eng k0 := rfl
@[simp] theorem State.tickFree_chan (s : State) (k0 : Nat) : (s.tickFree).chan k0 = s.chan k0 := rfl
@[simp] theorem State.tickFree_prot (s : State) (k0 : Nat) : (s.tickFree).prot k0 = s.prot k0 := rfl
@[simp] theorem State.tickFree_link (s : State) (k0 : Nat) : (s.tickFree).link k0 = s.link k0 := rfl
@[simp] theorem State.tickFree_term (s : State) (k0 j0 : Nat) : (s.tickFree).term k0 j0 = s.term k0 j0 := rfl

/-! ### hostWrite -/

@[simp] theorem State.hostWrite_pending (s : State) (a : Nat) (p : List Byte) : (s.hostWrite a p).pending = s.pending := rfl
@[simp] theorem State.hostWrite_freeCtr (s : State) (a : Nat) (p : List Byte) : (s.hostWrite a p).freeCtr = s.freeCtr := rfl
@[simp] theorem State.hostWrite_out (s : State) (a : Nat) (p : List Byte) : (s.hostWrite a p).out = s.out := rfl
@[simp] theorem State.hostWrite_scratch (s : State) (a : Nat) (p : List Byte) : (s.hostWrite a p).scratch = s.scratch := rfl
@[simp] theorem State.hostWrite_fields (s : State) (a : Nat) (p : List Byte) : (s.hostWrite a p).fields = s.fields := rfl
@[simp] theorem State.hostWrite_bnd (s : State) (a : Nat) (p : List Byte) : (s.hostWrite a p).bnd = s.bnd := rfl
@[simp] theorem State.hostWrite_tb (s : State) (a : Nat) (p : List Byte) : (s.hostWrite a p).tb = s.tb := rfl
@[simp] theorem State.hostWrite_doms (s : State) (a : Nat) (p : List Byte) : (s.hostWrite a p).doms = s.doms := rfl
@[simp] theorem State.hostWrite_sents (s : State) (a : Nat) (p : List Byte) : (s.hostWrite a p).sents = s.sents := rfl
@[simp] theorem State.hostWrite_hostSleep (s : State) (a : Nat) (p : List Byte) : (s.hostWrite a p).hostSleep = s.hostSleep := rfl
@[simp] theorem State.hostWrite_trees (s : State) (a : Nat) (p : List Byte) : (s.hostWrite a p).trees = s.trees := rfl
@[simp] theorem State.hostWrite_slots (s : State) (a : Nat) (p : List Byte) : (s.hostWrite a p).slots = s.slots := rfl
@[simp] theorem State.hostWrite_rings (s : State) (a : Nat) (p : List Byte) : (s.hostWrite a p).rings = s.rings := rfl
@[simp] theorem State.hostWrite_evqs (s : State) (a : Nat) (p : List Byte) : (s.hostWrite a p).evqs = s.evqs := rfl
@[simp] theorem State.hostWrite_doorbells (s : State) (a : Nat) (p : List Byte) : (s.hostWrite a p).doorbells = s.doorbells := rfl
@[simp] theorem State.hostWrite_cp (s : State) (a : Nat) (p : List Byte) : (s.hostWrite a p).cp = s.cp := rfl
@[simp] theorem State.hostWrite_terms (s : State) (a : Nat) (p : List Byte) : (s.hostWrite a p).terms = s.terms := rfl
@[simp] theorem State.hostWrite_flows (s : State) (a : Nat) (p : List Byte) : (s.hostWrite a p).flows = s.flows := rfl
@[simp] theorem State.hostWrite_reasms (s : State) (a : Nat) (p : List Byte) : (s.hostWrite a p).reasms = s.reasms := rfl
@[simp] theorem State.hostWrite_bprofs (s : State) (a : Nat) (p : List Byte) : (s.hostWrite a p).bprofs = s.bprofs := rfl
@[simp] theorem State.hostWrite_treeUs (s : State) (a : Nat) (p : List Byte) : (s.hostWrite a p).treeUs = s.treeUs := rfl
@[simp] theorem State.hostWrite_allocs (s : State) (a : Nat) (p : List Byte) : (s.hostWrite a p).allocs = s.allocs := rfl
@[simp] theorem State.hostWrite_sluTrees (s : State) (a : Nat) (p : List Byte) : (s.hostWrite a p).sluTrees = s.sluTrees := rfl
@[simp] theorem State.hostWrite_sluUnits (s : State) (a : Nat) (p : List Byte) : (s.hostWrite a p).sluUnits = s.sluUnits := rfl
@[simp] theorem State.hostWrite_sluShared (s : State) (a : Nat) (p : List Byte) : (s.hostWrite a p).sluShared = s.sluShared := rfl
@[simp] theorem State.hostWrite_slu (s : State) (a : Nat) (p : List Byte) : (s.hostWrite a p).slu = s.slu := rfl
@[simp] theorem State.hostWrite_buf (s : State) (a : Nat) (p : List Byte) : (s.hostWrite a p).buf = s.buf := rfl
@[simp] theorem State.hostWrite_tabs (s : State) (a : Nat) (p : List Byte) : (s.hostWrite a p).tabs = s.tabs := rfl
@[simp] theorem State.hostWrite_counts (s : State) (a : Nat) (p : List Byte) : (s.hostWrite a p).counts = s.counts := rfl
@[simp] theorem State.hostWrite_fabLinks (s : State) (a : Nat) (p : List Byte) : (s.hostWrite a p).fabLinks = s.fabLinks := rfl
@[simp] theorem State.hostWrite_fab (s : State) (a : Nat) (p : List Byte) : (s.hostWrite a p).fab = s.fab := rfl
@[simp] theorem State.hostWrite_prots (s : State) (a : Nat) (p : List Byte) : (s.hostWrite a p).prots = s.prots := rfl
@[simp] theorem State.hostWrite_engs (s : State) (a : Nat) (p : List Byte) : (s.hostWrite a p).engs = s.engs := rfl
@[simp] theorem State.hostWrite_tel (s : State) (a : Nat) (p : List Byte) : (s.hostWrite a p).tel = s.tel := rfl
@[simp] theorem State.hostWrite_errLog (s : State) (a : Nat) (p : List Byte) : (s.hostWrite a p).errLog = s.errLog := rfl
@[simp] theorem State.hostWrite_errOvf (s : State) (a : Nat) (p : List Byte) : (s.hostWrite a p).errOvf = s.errOvf := rfl
@[simp] theorem State.hostWrite_chans (s : State) (a : Nat) (p : List Byte) : (s.hostWrite a p).chans = s.chans := rfl
@[simp] theorem State.hostWrite_rakeLast (s : State) (a : Nat) (p : List Byte) : (s.hostWrite a p).rakeLast = s.rakeLast := rfl
@[simp] theorem State.hostWrite_mon (s : State) (a : Nat) (p : List Byte) : (s.hostWrite a p).mon = s.mon := rfl
@[simp] theorem State.hostWrite_rd (s : State) (a : Nat) (p : List Byte) (f0 : Fld) (i0 : Nat) :
    (s.hostWrite a p).rd f0 i0 = s.rd f0 i0 := rfl
@[simp] theorem State.hostWrite_flag (s : State) (a : Nat) (p : List Byte) (f0 : Fld) (i0 : Nat) :
    (s.hostWrite a p).flag f0 i0 = s.flag f0 i0 := rfl
@[simp] theorem State.hostWrite_pw (s : State) (a : Nat) (p : List Byte) (d0 : Nat) : (s.hostWrite a p).pw d0 = s.pw d0 := rfl
@[simp] theorem State.hostWrite_on (s : State) (a : Nat) (p : List Byte) (d0 : Nat) : (s.hostWrite a p).on d0 = s.on d0 := rfl
@[simp] theorem State.hostWrite_tstate (s : State) (a : Nat) (p : List Byte) (t0 : Nat) :
    (s.hostWrite a p).tstate t0 = s.tstate t0 := rfl
@[simp] theorem State.hostWrite_dom (s : State) (a : Nat) (p : List Byte) (k0 : Nat) : (s.hostWrite a p).dom k0 = s.dom k0 := rfl
@[simp] theorem State.hostWrite_ring (s : State) (a : Nat) (p : List Byte) (k0 : Nat) :
    (s.hostWrite a p).ring k0 = s.ring k0 := rfl
@[simp] theorem State.hostWrite_evq (s : State) (a : Nat) (p : List Byte) (k0 : Nat) : (s.hostWrite a p).evq k0 = s.evq k0 := rfl
@[simp] theorem State.hostWrite_tree (s : State) (a : Nat) (p : List Byte) (k0 : Nat) :
    (s.hostWrite a p).tree k0 = s.tree k0 := rfl
@[simp] theorem State.hostWrite_treeU (s : State) (a : Nat) (p : List Byte) (k0 : Nat) :
    (s.hostWrite a p).treeU k0 = s.treeU k0 := rfl
@[simp] theorem State.hostWrite_slot (s : State) (a : Nat) (p : List Byte) (k0 : Nat) :
    (s.hostWrite a p).slot k0 = s.slot k0 := rfl
@[simp] theorem State.hostWrite_shared (s : State) (a : Nat) (p : List Byte) (k0 : Nat) :
    (s.hostWrite a p).shared k0 = s.shared k0 := rfl
@[simp] theorem State.hostWrite_sluUnit (s : State) (a : Nat) (p : List Byte) (k0 : Nat) :
    (s.hostWrite a p).sluUnit k0 = s.sluUnit k0 := rfl
@[simp] theorem State.hostWrite_eng (s : State) (a : Nat) (p : List Byte) (k0 : Nat) : (s.hostWrite a p).eng k0 = s.eng k0 := rfl
@[simp] theorem State.hostWrite_chan (s : State) (a : Nat) (p : List Byte) (k0 : Nat) :
    (s.hostWrite a p).chan k0 = s.chan k0 := rfl
@[simp] theorem State.hostWrite_prot (s : State) (a : Nat) (p : List Byte) (k0 : Nat) :
    (s.hostWrite a p).prot k0 = s.prot k0 := rfl
@[simp] theorem State.hostWrite_link (s : State) (a : Nat) (p : List Byte) (k0 : Nat) :
    (s.hostWrite a p).link k0 = s.link k0 := rfl
@[simp] theorem State.hostWrite_term (s : State) (a : Nat) (p : List Byte) (k0 j0 : Nat) :
    (s.hostWrite a p).term k0 j0 = s.term k0 j0 := rfl

/-! ### setDom -/

@[simp] theorem State.setDom_pending (s : State) (d : Nat) (x : PowerDom) : (s.setDom d x).pending = s.pending := rfl
@[simp] theorem State.setDom_freeCtr (s : State) (d : Nat) (x : PowerDom) : (s.setDom d x).freeCtr = s.freeCtr := rfl
@[simp] theorem State.setDom_out (s : State) (d : Nat) (x : PowerDom) : (s.setDom d x).out = s.out := rfl
@[simp] theorem State.setDom_hostMem (s : State) (d : Nat) (x : PowerDom) : (s.setDom d x).hostMem = s.hostMem := rfl
@[simp] theorem State.setDom_scratch (s : State) (d : Nat) (x : PowerDom) : (s.setDom d x).scratch = s.scratch := rfl
@[simp] theorem State.setDom_fields (s : State) (d : Nat) (x : PowerDom) : (s.setDom d x).fields = s.fields := rfl
@[simp] theorem State.setDom_bnd (s : State) (d : Nat) (x : PowerDom) : (s.setDom d x).bnd = s.bnd := rfl
@[simp] theorem State.setDom_tb (s : State) (d : Nat) (x : PowerDom) : (s.setDom d x).tb = s.tb := rfl
@[simp] theorem State.setDom_sents (s : State) (d : Nat) (x : PowerDom) : (s.setDom d x).sents = s.sents := rfl
@[simp] theorem State.setDom_hostSleep (s : State) (d : Nat) (x : PowerDom) : (s.setDom d x).hostSleep = s.hostSleep := rfl
@[simp] theorem State.setDom_trees (s : State) (d : Nat) (x : PowerDom) : (s.setDom d x).trees = s.trees := rfl
@[simp] theorem State.setDom_slots (s : State) (d : Nat) (x : PowerDom) : (s.setDom d x).slots = s.slots := rfl
@[simp] theorem State.setDom_rings (s : State) (d : Nat) (x : PowerDom) : (s.setDom d x).rings = s.rings := rfl
@[simp] theorem State.setDom_evqs (s : State) (d : Nat) (x : PowerDom) : (s.setDom d x).evqs = s.evqs := rfl
@[simp] theorem State.setDom_doorbells (s : State) (d : Nat) (x : PowerDom) : (s.setDom d x).doorbells = s.doorbells := rfl
@[simp] theorem State.setDom_cp (s : State) (d : Nat) (x : PowerDom) : (s.setDom d x).cp = s.cp := rfl
@[simp] theorem State.setDom_terms (s : State) (d : Nat) (x : PowerDom) : (s.setDom d x).terms = s.terms := rfl
@[simp] theorem State.setDom_flows (s : State) (d : Nat) (x : PowerDom) : (s.setDom d x).flows = s.flows := rfl
@[simp] theorem State.setDom_reasms (s : State) (d : Nat) (x : PowerDom) : (s.setDom d x).reasms = s.reasms := rfl
@[simp] theorem State.setDom_bprofs (s : State) (d : Nat) (x : PowerDom) : (s.setDom d x).bprofs = s.bprofs := rfl
@[simp] theorem State.setDom_treeUs (s : State) (d : Nat) (x : PowerDom) : (s.setDom d x).treeUs = s.treeUs := rfl
@[simp] theorem State.setDom_allocs (s : State) (d : Nat) (x : PowerDom) : (s.setDom d x).allocs = s.allocs := rfl
@[simp] theorem State.setDom_sluTrees (s : State) (d : Nat) (x : PowerDom) : (s.setDom d x).sluTrees = s.sluTrees := rfl
@[simp] theorem State.setDom_sluUnits (s : State) (d : Nat) (x : PowerDom) : (s.setDom d x).sluUnits = s.sluUnits := rfl
@[simp] theorem State.setDom_sluShared (s : State) (d : Nat) (x : PowerDom) : (s.setDom d x).sluShared = s.sluShared := rfl
@[simp] theorem State.setDom_slu (s : State) (d : Nat) (x : PowerDom) : (s.setDom d x).slu = s.slu := rfl
@[simp] theorem State.setDom_buf (s : State) (d : Nat) (x : PowerDom) : (s.setDom d x).buf = s.buf := rfl
@[simp] theorem State.setDom_tabs (s : State) (d : Nat) (x : PowerDom) : (s.setDom d x).tabs = s.tabs := rfl
@[simp] theorem State.setDom_counts (s : State) (d : Nat) (x : PowerDom) : (s.setDom d x).counts = s.counts := rfl
@[simp] theorem State.setDom_fabLinks (s : State) (d : Nat) (x : PowerDom) : (s.setDom d x).fabLinks = s.fabLinks := rfl
@[simp] theorem State.setDom_fab (s : State) (d : Nat) (x : PowerDom) : (s.setDom d x).fab = s.fab := rfl
@[simp] theorem State.setDom_prots (s : State) (d : Nat) (x : PowerDom) : (s.setDom d x).prots = s.prots := rfl
@[simp] theorem State.setDom_engs (s : State) (d : Nat) (x : PowerDom) : (s.setDom d x).engs = s.engs := rfl
@[simp] theorem State.setDom_tel (s : State) (d : Nat) (x : PowerDom) : (s.setDom d x).tel = s.tel := rfl
@[simp] theorem State.setDom_errLog (s : State) (d : Nat) (x : PowerDom) : (s.setDom d x).errLog = s.errLog := rfl
@[simp] theorem State.setDom_errOvf (s : State) (d : Nat) (x : PowerDom) : (s.setDom d x).errOvf = s.errOvf := rfl
@[simp] theorem State.setDom_chans (s : State) (d : Nat) (x : PowerDom) : (s.setDom d x).chans = s.chans := rfl
@[simp] theorem State.setDom_rakeLast (s : State) (d : Nat) (x : PowerDom) : (s.setDom d x).rakeLast = s.rakeLast := rfl
@[simp] theorem State.setDom_mon (s : State) (d : Nat) (x : PowerDom) : (s.setDom d x).mon = s.mon := rfl
@[simp] theorem State.setDom_rd (s : State) (d : Nat) (x : PowerDom) (f0 : Fld) (i0 : Nat) :
    (s.setDom d x).rd f0 i0 = s.rd f0 i0 := rfl
@[simp] theorem State.setDom_flag (s : State) (d : Nat) (x : PowerDom) (f0 : Fld) (i0 : Nat) :
    (s.setDom d x).flag f0 i0 = s.flag f0 i0 := rfl
@[simp] theorem State.setDom_pw (s : State) (d : Nat) (x : PowerDom) (d0 : Nat) : (s.setDom d x).pw d0 = s.pw d0 := rfl
@[simp] theorem State.setDom_on (s : State) (d : Nat) (x : PowerDom) (d0 : Nat) : (s.setDom d x).on d0 = s.on d0 := rfl
@[simp] theorem State.setDom_tstate (s : State) (d : Nat) (x : PowerDom) (t0 : Nat) :
    (s.setDom d x).tstate t0 = s.tstate t0 := rfl
@[simp] theorem State.setDom_ring (s : State) (d : Nat) (x : PowerDom) (k0 : Nat) : (s.setDom d x).ring k0 = s.ring k0 := rfl
@[simp] theorem State.setDom_evq (s : State) (d : Nat) (x : PowerDom) (k0 : Nat) : (s.setDom d x).evq k0 = s.evq k0 := rfl
@[simp] theorem State.setDom_tree (s : State) (d : Nat) (x : PowerDom) (k0 : Nat) : (s.setDom d x).tree k0 = s.tree k0 := rfl
@[simp] theorem State.setDom_treeU (s : State) (d : Nat) (x : PowerDom) (k0 : Nat) : (s.setDom d x).treeU k0 = s.treeU k0 := rfl
@[simp] theorem State.setDom_slot (s : State) (d : Nat) (x : PowerDom) (k0 : Nat) : (s.setDom d x).slot k0 = s.slot k0 := rfl
@[simp] theorem State.setDom_shared (s : State) (d : Nat) (x : PowerDom) (k0 : Nat) :
    (s.setDom d x).shared k0 = s.shared k0 := rfl
@[simp] theorem State.setDom_sluUnit (s : State) (d : Nat) (x : PowerDom) (k0 : Nat) :
    (s.setDom d x).sluUnit k0 = s.sluUnit k0 := rfl
@[simp] theorem State.setDom_eng (s : State) (d : Nat) (x : PowerDom) (k0 : Nat) : (s.setDom d x).eng k0 = s.eng k0 := rfl
@[simp] theorem State.setDom_chan (s : State) (d : Nat) (x : PowerDom) (k0 : Nat) : (s.setDom d x).chan k0 = s.chan k0 := rfl
@[simp] theorem State.setDom_prot (s : State) (d : Nat) (x : PowerDom) (k0 : Nat) : (s.setDom d x).prot k0 = s.prot k0 := rfl
@[simp] theorem State.setDom_link (s : State) (d : Nat) (x : PowerDom) (k0 : Nat) : (s.setDom d x).link k0 = s.link k0 := rfl
@[simp] theorem State.setDom_dom_same (s : State) (k0 : Nat) (x : PowerDom) : (s.setDom k0 x).dom k0 = x := by
  simp [State.dom, State.setDom]
theorem State.setDom_dom_other (s : State) {k0 k1 : Nat} (x : PowerDom) (h : k0 ≠ k1) : (s.setDom k0 x).dom k1 = s.dom k1 :=
  smGet_smSet_other _ _ _ _ (fun e => h (Prod.mk.inj e).1)
@[simp] theorem State.setDom_term (s : State) (d : Nat) (x : PowerDom) (k0 j0 : Nat) :
    (s.setDom d x).term k0 j0 = s.term k0 j0 := rfl

/-! ### setRing -/

@[simp] theorem State.setRing_pending (s : State) (r : Nat) (x : Ring) : (s.setRing r x).pending = s.pending := rfl
@[simp] theorem State.setRing_freeCtr (s : State) (r : Nat) (x : Ring) : (s.setRing r x).freeCtr = s.freeCtr := rfl
@[simp] theorem State.setRing_out (s : State) (r : Nat) (x : Ring) : (s.setRing r x).out = s.out := rfl
@[simp] theorem State.setRing_hostMem (s : State) (r : Nat) (x : Ring) : (s.setRing r x).hostMem = s.hostMem := rfl
@[simp] theorem State.setRing_scratch (s : State) (r : Nat) (x : Ring) : (s.setRing r x).scratch = s.scratch := rfl
@[simp] theorem State.setRing_fields (s : State) (r : Nat) (x : Ring) : (s.setRing r x).fields = s.fields := rfl
@[simp] theorem State.setRing_bnd (s : State) (r : Nat) (x : Ring) : (s.setRing r x).bnd = s.bnd := rfl
@[simp] theorem State.setRing_tb (s : State) (r : Nat) (x : Ring) : (s.setRing r x).tb = s.tb := rfl
@[simp] theorem State.setRing_doms (s : State) (r : Nat) (x : Ring) : (s.setRing r x).doms = s.doms := rfl
@[simp] theorem State.setRing_sents (s : State) (r : Nat) (x : Ring) : (s.setRing r x).sents = s.sents := rfl
@[simp] theorem State.setRing_hostSleep (s : State) (r : Nat) (x : Ring) : (s.setRing r x).hostSleep = s.hostSleep := rfl
@[simp] theorem State.setRing_trees (s : State) (r : Nat) (x : Ring) : (s.setRing r x).trees = s.trees := rfl
@[simp] theorem State.setRing_slots (s : State) (r : Nat) (x : Ring) : (s.setRing r x).slots = s.slots := rfl
@[simp] theorem State.setRing_evqs (s : State) (r : Nat) (x : Ring) : (s.setRing r x).evqs = s.evqs := rfl
@[simp] theorem State.setRing_doorbells (s : State) (r : Nat) (x : Ring) : (s.setRing r x).doorbells = s.doorbells := rfl
@[simp] theorem State.setRing_cp (s : State) (r : Nat) (x : Ring) : (s.setRing r x).cp = s.cp := rfl
@[simp] theorem State.setRing_terms (s : State) (r : Nat) (x : Ring) : (s.setRing r x).terms = s.terms := rfl
@[simp] theorem State.setRing_flows (s : State) (r : Nat) (x : Ring) : (s.setRing r x).flows = s.flows := rfl
@[simp] theorem State.setRing_reasms (s : State) (r : Nat) (x : Ring) : (s.setRing r x).reasms = s.reasms := rfl
@[simp] theorem State.setRing_bprofs (s : State) (r : Nat) (x : Ring) : (s.setRing r x).bprofs = s.bprofs := rfl
@[simp] theorem State.setRing_treeUs (s : State) (r : Nat) (x : Ring) : (s.setRing r x).treeUs = s.treeUs := rfl
@[simp] theorem State.setRing_allocs (s : State) (r : Nat) (x : Ring) : (s.setRing r x).allocs = s.allocs := rfl
@[simp] theorem State.setRing_sluTrees (s : State) (r : Nat) (x : Ring) : (s.setRing r x).sluTrees = s.sluTrees := rfl
@[simp] theorem State.setRing_sluUnits (s : State) (r : Nat) (x : Ring) : (s.setRing r x).sluUnits = s.sluUnits := rfl
@[simp] theorem State.setRing_sluShared (s : State) (r : Nat) (x : Ring) : (s.setRing r x).sluShared = s.sluShared := rfl
@[simp] theorem State.setRing_slu (s : State) (r : Nat) (x : Ring) : (s.setRing r x).slu = s.slu := rfl
@[simp] theorem State.setRing_buf (s : State) (r : Nat) (x : Ring) : (s.setRing r x).buf = s.buf := rfl
@[simp] theorem State.setRing_tabs (s : State) (r : Nat) (x : Ring) : (s.setRing r x).tabs = s.tabs := rfl
@[simp] theorem State.setRing_counts (s : State) (r : Nat) (x : Ring) : (s.setRing r x).counts = s.counts := rfl
@[simp] theorem State.setRing_fabLinks (s : State) (r : Nat) (x : Ring) : (s.setRing r x).fabLinks = s.fabLinks := rfl
@[simp] theorem State.setRing_fab (s : State) (r : Nat) (x : Ring) : (s.setRing r x).fab = s.fab := rfl
@[simp] theorem State.setRing_prots (s : State) (r : Nat) (x : Ring) : (s.setRing r x).prots = s.prots := rfl
@[simp] theorem State.setRing_engs (s : State) (r : Nat) (x : Ring) : (s.setRing r x).engs = s.engs := rfl
@[simp] theorem State.setRing_tel (s : State) (r : Nat) (x : Ring) : (s.setRing r x).tel = s.tel := rfl
@[simp] theorem State.setRing_errLog (s : State) (r : Nat) (x : Ring) : (s.setRing r x).errLog = s.errLog := rfl
@[simp] theorem State.setRing_errOvf (s : State) (r : Nat) (x : Ring) : (s.setRing r x).errOvf = s.errOvf := rfl
@[simp] theorem State.setRing_chans (s : State) (r : Nat) (x : Ring) : (s.setRing r x).chans = s.chans := rfl
@[simp] theorem State.setRing_rakeLast (s : State) (r : Nat) (x : Ring) : (s.setRing r x).rakeLast = s.rakeLast := rfl
@[simp] theorem State.setRing_mon (s : State) (r : Nat) (x : Ring) : (s.setRing r x).mon = s.mon := rfl
@[simp] theorem State.setRing_rd (s : State) (r : Nat) (x : Ring) (f0 : Fld) (i0 : Nat) :
    (s.setRing r x).rd f0 i0 = s.rd f0 i0 := rfl
@[simp] theorem State.setRing_flag (s : State) (r : Nat) (x : Ring) (f0 : Fld) (i0 : Nat) :
    (s.setRing r x).flag f0 i0 = s.flag f0 i0 := rfl
@[simp] theorem State.setRing_pw (s : State) (r : Nat) (x : Ring) (d0 : Nat) : (s.setRing r x).pw d0 = s.pw d0 := rfl
@[simp] theorem State.setRing_on (s : State) (r : Nat) (x : Ring) (d0 : Nat) : (s.setRing r x).on d0 = s.on d0 := rfl
@[simp] theorem State.setRing_tstate (s : State) (r : Nat) (x : Ring) (t0 : Nat) : (s.setRing r x).tstate t0 = s.tstate t0 := rfl
@[simp] theorem State.setRing_dom (s : State) (r : Nat) (x : Ring) (k0 : Nat) : (s.setRing r x).dom k0 = s.dom k0 := rfl
@[simp] theorem State.setRing_evq (s : State) (r : Nat) (x : Ring) (k0 : Nat) : (s.setRing r x).evq k0 = s.evq k0 := rfl
@[simp] theorem State.setRing_tree (s : State) (r : Nat) (x : Ring) (k0 : Nat) : (s.setRing r x).tree k0 = s.tree k0 := rfl
@[simp] theorem State.setRing_treeU (s : State) (r : Nat) (x : Ring) (k0 : Nat) : (s.setRing r x).treeU k0 = s.treeU k0 := rfl
@[simp] theorem State.setRing_slot (s : State) (r : Nat) (x : Ring) (k0 : Nat) : (s.setRing r x).slot k0 = s.slot k0 := rfl
@[simp] theorem State.setRing_shared (s : State) (r : Nat) (x : Ring) (k0 : Nat) : (s.setRing r x).shared k0 = s.shared k0 := rfl
@[simp] theorem State.setRing_sluUnit (s : State) (r : Nat) (x : Ring) (k0 : Nat) :
    (s.setRing r x).sluUnit k0 = s.sluUnit k0 := rfl
@[simp] theorem State.setRing_eng (s : State) (r : Nat) (x : Ring) (k0 : Nat) : (s.setRing r x).eng k0 = s.eng k0 := rfl
@[simp] theorem State.setRing_chan (s : State) (r : Nat) (x : Ring) (k0 : Nat) : (s.setRing r x).chan k0 = s.chan k0 := rfl
@[simp] theorem State.setRing_prot (s : State) (r : Nat) (x : Ring) (k0 : Nat) : (s.setRing r x).prot k0 = s.prot k0 := rfl
@[simp] theorem State.setRing_link (s : State) (r : Nat) (x : Ring) (k0 : Nat) : (s.setRing r x).link k0 = s.link k0 := rfl
@[simp] theorem State.setRing_ring_same (s : State) (k0 : Nat) (x : Ring) : (s.setRing k0 x).ring k0 = x := by
  simp [State.ring, State.setRing]
theorem State.setRing_ring_other (s : State) {k0 k1 : Nat} (x : Ring) (h : k0 ≠ k1) : (s.setRing k0 x).ring k1 = s.ring k1 :=
  smGet_smSet_other _ _ _ _ (fun e => h (Prod.mk.inj e).1)
@[simp] theorem State.setRing_term (s : State) (r : Nat) (x : Ring) (k0 j0 : Nat) :
    (s.setRing r x).term k0 j0 = s.term k0 j0 := rfl

/-! ### setEvq -/

@[simp] theorem State.setEvq_pending (s : State) (q : Nat) (x : EvQueue) : (s.setEvq q x).pending = s.pending := rfl
@[simp] theorem State.setEvq_freeCtr (s : State) (q : Nat) (x : EvQueue) : (s.setEvq q x).freeCtr = s.freeCtr := rfl
@[simp] theorem State.setEvq_out (s : State) (q : Nat) (x : EvQueue) : (s.setEvq q x).out = s.out := rfl
@[simp] theorem State.setEvq_hostMem (s : State) (q : Nat) (x : EvQueue) : (s.setEvq q x).hostMem = s.hostMem := rfl
@[simp] theorem State.setEvq_scratch (s : State) (q : Nat) (x : EvQueue) : (s.setEvq q x).scratch = s.scratch := rfl
@[simp] theorem State.setEvq_fields (s : State) (q : Nat) (x : EvQueue) : (s.setEvq q x).fields = s.fields := rfl
@[simp] theorem State.setEvq_bnd (s : State) (q : Nat) (x : EvQueue) : (s.setEvq q x).bnd = s.bnd := rfl
@[simp] theorem State.setEvq_tb (s : State) (q : Nat) (x : EvQueue) : (s.setEvq q x).tb = s.tb := rfl
@[simp] theorem State.setEvq_doms (s : State) (q : Nat) (x : EvQueue) : (s.setEvq q x).doms = s.doms := rfl
@[simp] theorem State.setEvq_sents (s : State) (q : Nat) (x : EvQueue) : (s.setEvq q x).sents = s.sents := rfl
@[simp] theorem State.setEvq_hostSleep (s : State) (q : Nat) (x : EvQueue) : (s.setEvq q x).hostSleep = s.hostSleep := rfl
@[simp] theorem State.setEvq_trees (s : State) (q : Nat) (x : EvQueue) : (s.setEvq q x).trees = s.trees := rfl
@[simp] theorem State.setEvq_slots (s : State) (q : Nat) (x : EvQueue) : (s.setEvq q x).slots = s.slots := rfl
@[simp] theorem State.setEvq_rings (s : State) (q : Nat) (x : EvQueue) : (s.setEvq q x).rings = s.rings := rfl
@[simp] theorem State.setEvq_doorbells (s : State) (q : Nat) (x : EvQueue) : (s.setEvq q x).doorbells = s.doorbells := rfl
@[simp] theorem State.setEvq_cp (s : State) (q : Nat) (x : EvQueue) : (s.setEvq q x).cp = s.cp := rfl
@[simp] theorem State.setEvq_terms (s : State) (q : Nat) (x : EvQueue) : (s.setEvq q x).terms = s.terms := rfl
@[simp] theorem State.setEvq_flows (s : State) (q : Nat) (x : EvQueue) : (s.setEvq q x).flows = s.flows := rfl
@[simp] theorem State.setEvq_reasms (s : State) (q : Nat) (x : EvQueue) : (s.setEvq q x).reasms = s.reasms := rfl
@[simp] theorem State.setEvq_bprofs (s : State) (q : Nat) (x : EvQueue) : (s.setEvq q x).bprofs = s.bprofs := rfl
@[simp] theorem State.setEvq_treeUs (s : State) (q : Nat) (x : EvQueue) : (s.setEvq q x).treeUs = s.treeUs := rfl
@[simp] theorem State.setEvq_allocs (s : State) (q : Nat) (x : EvQueue) : (s.setEvq q x).allocs = s.allocs := rfl
@[simp] theorem State.setEvq_sluTrees (s : State) (q : Nat) (x : EvQueue) : (s.setEvq q x).sluTrees = s.sluTrees := rfl
@[simp] theorem State.setEvq_sluUnits (s : State) (q : Nat) (x : EvQueue) : (s.setEvq q x).sluUnits = s.sluUnits := rfl
@[simp] theorem State.setEvq_sluShared (s : State) (q : Nat) (x : EvQueue) : (s.setEvq q x).sluShared = s.sluShared := rfl
@[simp] theorem State.setEvq_slu (s : State) (q : Nat) (x : EvQueue) : (s.setEvq q x).slu = s.slu := rfl
@[simp] theorem State.setEvq_buf (s : State) (q : Nat) (x : EvQueue) : (s.setEvq q x).buf = s.buf := rfl
@[simp] theorem State.setEvq_tabs (s : State) (q : Nat) (x : EvQueue) : (s.setEvq q x).tabs = s.tabs := rfl
@[simp] theorem State.setEvq_counts (s : State) (q : Nat) (x : EvQueue) : (s.setEvq q x).counts = s.counts := rfl
@[simp] theorem State.setEvq_fabLinks (s : State) (q : Nat) (x : EvQueue) : (s.setEvq q x).fabLinks = s.fabLinks := rfl
@[simp] theorem State.setEvq_fab (s : State) (q : Nat) (x : EvQueue) : (s.setEvq q x).fab = s.fab := rfl
@[simp] theorem State.setEvq_prots (s : State) (q : Nat) (x : EvQueue) : (s.setEvq q x).prots = s.prots := rfl
@[simp] theorem State.setEvq_engs (s : State) (q : Nat) (x : EvQueue) : (s.setEvq q x).engs = s.engs := rfl
@[simp] theorem State.setEvq_tel (s : State) (q : Nat) (x : EvQueue) : (s.setEvq q x).tel = s.tel := rfl
@[simp] theorem State.setEvq_errLog (s : State) (q : Nat) (x : EvQueue) : (s.setEvq q x).errLog = s.errLog := rfl
@[simp] theorem State.setEvq_errOvf (s : State) (q : Nat) (x : EvQueue) : (s.setEvq q x).errOvf = s.errOvf := rfl
@[simp] theorem State.setEvq_chans (s : State) (q : Nat) (x : EvQueue) : (s.setEvq q x).chans = s.chans := rfl
@[simp] theorem State.setEvq_rakeLast (s : State) (q : Nat) (x : EvQueue) : (s.setEvq q x).rakeLast = s.rakeLast := rfl
@[simp] theorem State.setEvq_mon (s : State) (q : Nat) (x : EvQueue) : (s.setEvq q x).mon = s.mon := rfl
@[simp] theorem State.setEvq_rd (s : State) (q : Nat) (x : EvQueue) (f0 : Fld) (i0 : Nat) :
    (s.setEvq q x).rd f0 i0 = s.rd f0 i0 := rfl
@[simp] theorem State.setEvq_flag (s : State) (q : Nat) (x : EvQueue) (f0 : Fld) (i0 : Nat) :
    (s.setEvq q x).flag f0 i0 = s.flag f0 i0 := rfl
@[simp] theorem State.setEvq_pw (s : State) (q : Nat) (x : EvQueue) (d0 : Nat) : (s.setEvq q x).pw d0 = s.pw d0 := rfl
@[simp] theorem State.setEvq_on (s : State) (q : Nat) (x : EvQueue) (d0 : Nat) : (s.setEvq q x).on d0 = s.on d0 := rfl
@[simp] theorem State.setEvq_tstate (s : State) (q : Nat) (x : EvQueue) (t0 : Nat) : (s.setEvq q x).tstate t0 = s.tstate t0 := rfl
@[simp] theorem State.setEvq_dom (s : State) (q : Nat) (x : EvQueue) (k0 : Nat) : (s.setEvq q x).dom k0 = s.dom k0 := rfl
@[simp] theorem State.setEvq_ring (s : State) (q : Nat) (x : EvQueue) (k0 : Nat) : (s.setEvq q x).ring k0 = s.ring k0 := rfl
@[simp] theorem State.setEvq_tree (s : State) (q : Nat) (x : EvQueue) (k0 : Nat) : (s.setEvq q x).tree k0 = s.tree k0 := rfl
@[simp] theorem State.setEvq_treeU (s : State) (q : Nat) (x : EvQueue) (k0 : Nat) : (s.setEvq q x).treeU k0 = s.treeU k0 := rfl
@[simp] theorem State.setEvq_slot (s : State) (q : Nat) (x : EvQueue) (k0 : Nat) : (s.setEvq q x).slot k0 = s.slot k0 := rfl
@[simp] theorem State.setEvq_shared (s : State) (q : Nat) (x : EvQueue) (k0 : Nat) : (s.setEvq q x).shared k0 = s.shared k0 := rfl
@[simp] theorem State.setEvq_sluUnit (s : State) (q : Nat) (x : EvQueue) (k0 : Nat) :
    (s.setEvq q x).sluUnit k0 = s.sluUnit k0 := rfl
@[simp] theorem State.setEvq_eng (s : State) (q : Nat) (x : EvQueue) (k0 : Nat) : (s.setEvq q x).eng k0 = s.eng k0 := rfl
@[simp] theorem State.setEvq_chan (s : State) (q : Nat) (x : EvQueue) (k0 : Nat) : (s.setEvq q x).chan k0 = s.chan k0 := rfl
@[simp] theorem State.setEvq_prot (s : State) (q : Nat) (x : EvQueue) (k0 : Nat) : (s.setEvq q x).prot k0 = s.prot k0 := rfl
@[simp] theorem State.setEvq_link (s : State) (q : Nat) (x : EvQueue) (k0 : Nat) : (s.setEvq q x).link k0 = s.link k0 := rfl
@[simp] theorem State.setEvq_evq_same (s : State) (k0 : Nat) (x : EvQueue) : (s.setEvq k0 x).evq k0 = x := by
  simp [State.evq, State.setEvq]
theorem State.setEvq_evq_other (s : State) {k0 k1 : Nat} (x : EvQueue) (h : k0 ≠ k1) : (s.setEvq k0 x).evq k1 = s.evq k1 :=
  smGet_smSet_other _ _ _ _ (fun e => h (Prod.mk.inj e).1)
@[simp] theorem State.setEvq_term (s : State) (q : Nat) (x : EvQueue) (k0 j0 : Nat) :
    (s.setEvq q x).term k0 j0 = s.term k0 j0 := rfl

/-! ### setTree -/

@[simp] theorem State.setTree_pending (s : State) (k : Nat) (x : Tree) : (s.setTree k x).pending = s.pending := rfl
@[simp] theorem State.setTree_freeCtr (s : State) (k : Nat) (x : Tree) : (s.setTree k x).freeCtr = s.freeCtr := rfl
@[simp] theorem State.setTree_out (s : State) (k : Nat) (x : Tree) : (s.setTree k x).out = s.out := rfl
@[simp] theorem State.setTree_hostMem (s : State) (k : Nat) (x : Tree) : (s.setTree k x).hostMem = s.hostMem := rfl
@[simp] theorem State.setTree_scratch (s : State) (k : Nat) (x : Tree) : (s.setTree k x).scratch = s.scratch := rfl
@[simp] theorem State.setTree_fields (s : State) (k : Nat) (x : Tree) : (s.setTree k x).fields = s.fields := rfl
@[simp] theorem State.setTree_bnd (s : State) (k : Nat) (x : Tree) : (s.setTree k x).bnd = s.bnd := rfl
@[simp] theorem State.setTree_tb (s : State) (k : Nat) (x : Tree) : (s.setTree k x).tb = s.tb := rfl
@[simp] theorem State.setTree_doms (s : State) (k : Nat) (x : Tree) : (s.setTree k x).doms = s.doms := rfl
@[simp] theorem State.setTree_sents (s : State) (k : Nat) (x : Tree) : (s.setTree k x).sents = s.sents := rfl
@[simp] theorem State.setTree_hostSleep (s : State) (k : Nat) (x : Tree) : (s.setTree k x).hostSleep = s.hostSleep := rfl
@[simp] theorem State.setTree_slots (s : State) (k : Nat) (x : Tree) : (s.setTree k x).slots = s.slots := rfl
@[simp] theorem State.setTree_rings (s : State) (k : Nat) (x : Tree) : (s.setTree k x).rings = s.rings := rfl
@[simp] theorem State.setTree_evqs (s : State) (k : Nat) (x : Tree) : (s.setTree k x).evqs = s.evqs := rfl
@[simp] theorem State.setTree_doorbells (s : State) (k : Nat) (x : Tree) : (s.setTree k x).doorbells = s.doorbells := rfl
@[simp] theorem State.setTree_cp (s : State) (k : Nat) (x : Tree) : (s.setTree k x).cp = s.cp := rfl
@[simp] theorem State.setTree_terms (s : State) (k : Nat) (x : Tree) : (s.setTree k x).terms = s.terms := rfl
@[simp] theorem State.setTree_flows (s : State) (k : Nat) (x : Tree) : (s.setTree k x).flows = s.flows := rfl
@[simp] theorem State.setTree_reasms (s : State) (k : Nat) (x : Tree) : (s.setTree k x).reasms = s.reasms := rfl
@[simp] theorem State.setTree_bprofs (s : State) (k : Nat) (x : Tree) : (s.setTree k x).bprofs = s.bprofs := rfl
@[simp] theorem State.setTree_treeUs (s : State) (k : Nat) (x : Tree) : (s.setTree k x).treeUs = s.treeUs := rfl
@[simp] theorem State.setTree_allocs (s : State) (k : Nat) (x : Tree) : (s.setTree k x).allocs = s.allocs := rfl
@[simp] theorem State.setTree_sluTrees (s : State) (k : Nat) (x : Tree) : (s.setTree k x).sluTrees = s.sluTrees := rfl
@[simp] theorem State.setTree_sluUnits (s : State) (k : Nat) (x : Tree) : (s.setTree k x).sluUnits = s.sluUnits := rfl
@[simp] theorem State.setTree_sluShared (s : State) (k : Nat) (x : Tree) : (s.setTree k x).sluShared = s.sluShared := rfl
@[simp] theorem State.setTree_slu (s : State) (k : Nat) (x : Tree) : (s.setTree k x).slu = s.slu := rfl
@[simp] theorem State.setTree_buf (s : State) (k : Nat) (x : Tree) : (s.setTree k x).buf = s.buf := rfl
@[simp] theorem State.setTree_tabs (s : State) (k : Nat) (x : Tree) : (s.setTree k x).tabs = s.tabs := rfl
@[simp] theorem State.setTree_counts (s : State) (k : Nat) (x : Tree) : (s.setTree k x).counts = s.counts := rfl
@[simp] theorem State.setTree_fabLinks (s : State) (k : Nat) (x : Tree) : (s.setTree k x).fabLinks = s.fabLinks := rfl
@[simp] theorem State.setTree_fab (s : State) (k : Nat) (x : Tree) : (s.setTree k x).fab = s.fab := rfl
@[simp] theorem State.setTree_prots (s : State) (k : Nat) (x : Tree) : (s.setTree k x).prots = s.prots := rfl
@[simp] theorem State.setTree_engs (s : State) (k : Nat) (x : Tree) : (s.setTree k x).engs = s.engs := rfl
@[simp] theorem State.setTree_tel (s : State) (k : Nat) (x : Tree) : (s.setTree k x).tel = s.tel := rfl
@[simp] theorem State.setTree_errLog (s : State) (k : Nat) (x : Tree) : (s.setTree k x).errLog = s.errLog := rfl
@[simp] theorem State.setTree_errOvf (s : State) (k : Nat) (x : Tree) : (s.setTree k x).errOvf = s.errOvf := rfl
@[simp] theorem State.setTree_chans (s : State) (k : Nat) (x : Tree) : (s.setTree k x).chans = s.chans := rfl
@[simp] theorem State.setTree_rakeLast (s : State) (k : Nat) (x : Tree) : (s.setTree k x).rakeLast = s.rakeLast := rfl
@[simp] theorem State.setTree_mon (s : State) (k : Nat) (x : Tree) : (s.setTree k x).mon = s.mon := rfl
@[simp] theorem State.setTree_rd (s : State) (k : Nat) (x : Tree) (f0 : Fld) (i0 : Nat) :
    (s.setTree k x).rd f0 i0 = s.rd f0 i0 := rfl
@[simp] theorem State.setTree_flag (s : State) (k : Nat) (x : Tree) (f0 : Fld) (i0 : Nat) :
    (s.setTree k x).flag f0 i0 = s.flag f0 i0 := rfl
@[simp] theorem State.setTree_pw (s : State) (k : Nat) (x : Tree) (d0 : Nat) : (s.setTree k x).pw d0 = s.pw d0 := rfl
@[simp] theorem State.setTree_on (s : State) (k : Nat) (x : Tree) (d0 : Nat) : (s.setTree k x).on d0 = s.on d0 := rfl
@[simp] theorem State.setTree_tstate (s : State) (k : Nat) (x : Tree) (t0 : Nat) : (s.setTree k x).tstate t0 = s.tstate t0 := rfl
@[simp] theorem State.setTree_dom (s : State) (k : Nat) (x : Tree) (k0 : Nat) : (s.setTree k x).dom k0 = s.dom k0 := rfl
@[simp] theorem State.setTree_ring (s : State) (k : Nat) (x : Tree) (k0 : Nat) : (s.setTree k x).ring k0 = s.ring k0 := rfl
@[simp] theorem State.setTree_evq (s : State) (k : Nat) (x : Tree) (k0 : Nat) : (s.setTree k x).evq k0 = s.evq k0 := rfl
@[simp] theorem State.setTree_treeU (s : State) (k : Nat) (x : Tree) (k0 : Nat) : (s.setTree k x).treeU k0 = s.treeU k0 := rfl
@[simp] theorem State.setTree_slot (s : State) (k : Nat) (x : Tree) (k0 : Nat) : (s.setTree k x).slot k0 = s.slot k0 := rfl
@[simp] theorem State.setTree_shared (s : State) (k : Nat) (x : Tree) (k0 : Nat) : (s.setTree k x).shared k0 = s.shared k0 := rfl
@[simp] theorem State.setTree_sluUnit (s : State) (k : Nat) (x : Tree) (k0 : Nat) :
    (s.setTree k x).sluUnit k0 = s.sluUnit k0 := rfl
@[simp] theorem State.setTree_eng (s : State) (k : Nat) (x : Tree) (k0 : Nat) : (s.setTree k x).eng k0 = s.eng k0 := rfl
@[simp] theorem State.setTree_chan (s : State) (k : Nat) (x : Tree) (k0 : Nat) : (s.setTree k x).chan k0 = s.chan k0 := rfl
@[simp] theorem State.setTree_prot (s : State) (k : Nat) (x : Tree) (k0 : Nat) : (s.setTree k x).prot k0 = s.prot k0 := rfl
@[simp] theorem State.setTree_link (s : State) (k : Nat) (x : Tree) (k0 : Nat) : (s.setTree k x).link k0 = s.link k0 := rfl
@[simp] theorem State.setTree_tree_same (s : State) (k0 : Nat) (x : Tree) : (s.setTree k0 x).tree k0 = x := by
  simp [State.tree, State.setTree]
theorem State.setTree_tree_other (s : State) {k0 k1 : Nat} (x : Tree) (h : k0 ≠ k1) : (s.setTree k0 x).tree k1 = s.tree k1 :=
  smGet_smSet_other _ _ _ _ (fun e => h (Prod.mk.inj e).1)
@[simp] theorem State.setTree_term (s : State) (k : Nat) (x : Tree) (k0 j0 : Nat) :
    (s.setTree k x).term k0 j0 = s.term k0 j0 := rfl

/-! ### setTreeU -/

@[simp] theorem State.setTreeU_pending (s : State) (k : Nat) (x : TreeUs) : (s.setTreeU k x).pending = s.pending := rfl
@[simp] theorem State.setTreeU_freeCtr (s : State) (k : Nat) (x : TreeUs) : (s.setTreeU k x).freeCtr = s.freeCtr := rfl
@[simp] theorem State.setTreeU_out (s : State) (k : Nat) (x : TreeUs) : (s.setTreeU k x).out = s.out := rfl
@[simp] theorem State.setTreeU_hostMem (s : State) (k : Nat) (x : TreeUs) : (s.setTreeU k x).hostMem = s.hostMem := rfl
@[simp] theorem State.setTreeU_scratch (s : State) (k : Nat) (x : TreeUs) : (s.setTreeU k x).scratch = s.scratch := rfl
@[simp] theorem State.setTreeU_fields (s : State) (k : Nat) (x : TreeUs) : (s.setTreeU k x).fields = s.fields := rfl
@[simp] theorem State.setTreeU_bnd (s : State) (k : Nat) (x : TreeUs) : (s.setTreeU k x).bnd = s.bnd := rfl
@[simp] theorem State.setTreeU_tb (s : State) (k : Nat) (x : TreeUs) : (s.setTreeU k x).tb = s.tb := rfl
@[simp] theorem State.setTreeU_doms (s : State) (k : Nat) (x : TreeUs) : (s.setTreeU k x).doms = s.doms := rfl
@[simp] theorem State.setTreeU_sents (s : State) (k : Nat) (x : TreeUs) : (s.setTreeU k x).sents = s.sents := rfl
@[simp] theorem State.setTreeU_hostSleep (s : State) (k : Nat) (x : TreeUs) : (s.setTreeU k x).hostSleep = s.hostSleep := rfl
@[simp] theorem State.setTreeU_trees (s : State) (k : Nat) (x : TreeUs) : (s.setTreeU k x).trees = s.trees := rfl
@[simp] theorem State.setTreeU_slots (s : State) (k : Nat) (x : TreeUs) : (s.setTreeU k x).slots = s.slots := rfl
@[simp] theorem State.setTreeU_rings (s : State) (k : Nat) (x : TreeUs) : (s.setTreeU k x).rings = s.rings := rfl
@[simp] theorem State.setTreeU_evqs (s : State) (k : Nat) (x : TreeUs) : (s.setTreeU k x).evqs = s.evqs := rfl
@[simp] theorem State.setTreeU_doorbells (s : State) (k : Nat) (x : TreeUs) : (s.setTreeU k x).doorbells = s.doorbells := rfl
@[simp] theorem State.setTreeU_cp (s : State) (k : Nat) (x : TreeUs) : (s.setTreeU k x).cp = s.cp := rfl
@[simp] theorem State.setTreeU_terms (s : State) (k : Nat) (x : TreeUs) : (s.setTreeU k x).terms = s.terms := rfl
@[simp] theorem State.setTreeU_flows (s : State) (k : Nat) (x : TreeUs) : (s.setTreeU k x).flows = s.flows := rfl
@[simp] theorem State.setTreeU_reasms (s : State) (k : Nat) (x : TreeUs) : (s.setTreeU k x).reasms = s.reasms := rfl
@[simp] theorem State.setTreeU_bprofs (s : State) (k : Nat) (x : TreeUs) : (s.setTreeU k x).bprofs = s.bprofs := rfl
@[simp] theorem State.setTreeU_allocs (s : State) (k : Nat) (x : TreeUs) : (s.setTreeU k x).allocs = s.allocs := rfl
@[simp] theorem State.setTreeU_sluTrees (s : State) (k : Nat) (x : TreeUs) : (s.setTreeU k x).sluTrees = s.sluTrees := rfl
@[simp] theorem State.setTreeU_sluUnits (s : State) (k : Nat) (x : TreeUs) : (s.setTreeU k x).sluUnits = s.sluUnits := rfl
@[simp] theorem State.setTreeU_sluShared (s : State) (k : Nat) (x : TreeUs) : (s.setTreeU k x).sluShared = s.sluShared := rfl
@[simp] theorem State.setTreeU_slu (s : State) (k : Nat) (x : TreeUs) : (s.setTreeU k x).slu = s.slu := rfl
@[simp] theorem State.setTreeU_buf (s : State) (k : Nat) (x : TreeUs) : (s.setTreeU k x).buf = s.buf := rfl
@[simp] theorem State.setTreeU_tabs (s : State) (k : Nat) (x : TreeUs) : (s.setTreeU k x).tabs = s.tabs := rfl
@[simp] theorem State.setTreeU_counts (s : State) (k : Nat) (x : TreeUs) : (s.setTreeU k x).counts = s.counts := rfl
@[simp] theorem State.setTreeU_fabLinks (s : State) (k : Nat) (x : TreeUs) : (s.setTreeU k x).fabLinks = s.fabLinks := rfl
@[simp] theorem State.setTreeU_fab (s : State) (k : Nat) (x : TreeUs) : (s.setTreeU k x).fab = s.fab := rfl
@[simp] theorem State.setTreeU_prots (s : State) (k : Nat) (x : TreeUs) : (s.setTreeU k x).prots = s.prots := rfl
@[simp] theorem State.setTreeU_engs (s : State) (k : Nat) (x : TreeUs) : (s.setTreeU k x).engs = s.engs := rfl
@[simp] theorem State.setTreeU_tel (s : State) (k : Nat) (x : TreeUs) : (s.setTreeU k x).tel = s.tel := rfl
@[simp] theorem State.setTreeU_errLog (s : State) (k : Nat) (x : TreeUs) : (s.setTreeU k x).errLog = s.errLog := rfl
@[simp] theorem State.setTreeU_errOvf (s : State) (k : Nat) (x : TreeUs) : (s.setTreeU k x).errOvf = s.errOvf := rfl
@[simp] theorem State.setTreeU_chans (s : State) (k : Nat) (x : TreeUs) : (s.setTreeU k x).chans = s.chans := rfl
@[simp] theorem State.setTreeU_rakeLast (s : State) (k : Nat) (x : TreeUs) : (s.setTreeU k x).rakeLast = s.rakeLast := rfl
@[simp] theorem State.setTreeU_mon (s : State) (k : Nat) (x : TreeUs) : (s.setTreeU k x).mon = s.mon := rfl
@[simp] theorem State.setTreeU_rd (s : State) (k : Nat) (x : TreeUs) (f0 : Fld) (i0 : Nat) :
    (s.setTreeU k x).rd f0 i0 = s.rd f0 i0 := rfl
@[simp] theorem State.setTreeU_flag (s : State) (k : Nat) (x : TreeUs) (f0 : Fld) (i0 : Nat) :
    (s.setTreeU k x).flag f0 i0 = s.flag f0 i0 := rfl
@[simp] theorem State.setTreeU_pw (s : State) (k : Nat) (x : TreeUs) (d0 : Nat) : (s.setTreeU k x).pw d0 = s.pw d0 := rfl
@[simp] theorem State.setTreeU_on (s : State) (k : Nat) (x : TreeUs) (d0 : Nat) : (s.setTreeU k x).on d0 = s.on d0 := rfl
@[simp] theorem State.setTreeU_tstate (s : State) (k : Nat) (x : TreeUs) (t0 : Nat) :
    (s.setTreeU k x).tstate t0 = s.tstate t0 := rfl
@[simp] theorem State.setTreeU_dom (s : State) (k : Nat) (x : TreeUs) (k0 : Nat) : (s.setTreeU k x).dom k0 = s.dom k0 := rfl
@[simp] theorem State.setTreeU_ring (s : State) (k : Nat) (x : TreeUs) (k0 : Nat) : (s.setTreeU k x).ring k0 = s.ring k0 := rfl
@[simp] theorem State.setTreeU_evq (s : State) (k : Nat) (x : TreeUs) (k0 : Nat) : (s.setTreeU k x).evq k0 = s.evq k0 := rfl
@[simp] theorem State.setTreeU_tree (s : State) (k : Nat) (x : TreeUs) (k0 : Nat) : (s.setTreeU k x).tree k0 = s.tree k0 := rfl
@[simp] theorem State.setTreeU_slot (s : State) (k : Nat) (x : TreeUs) (k0 : Nat) : (s.setTreeU k x).slot k0 = s.slot k0 := rfl
@[simp] theorem State.setTreeU_shared (s : State) (k : Nat) (x : TreeUs) (k0 : Nat) :
    (s.setTreeU k x).shared k0 = s.shared k0 := rfl
@[simp] theorem State.setTreeU_sluUnit (s : State) (k : Nat) (x : TreeUs) (k0 : Nat) :
    (s.setTreeU k x).sluUnit k0 = s.sluUnit k0 := rfl
@[simp] theorem State.setTreeU_eng (s : State) (k : Nat) (x : TreeUs) (k0 : Nat) : (s.setTreeU k x).eng k0 = s.eng k0 := rfl
@[simp] theorem State.setTreeU_chan (s : State) (k : Nat) (x : TreeUs) (k0 : Nat) : (s.setTreeU k x).chan k0 = s.chan k0 := rfl
@[simp] theorem State.setTreeU_prot (s : State) (k : Nat) (x : TreeUs) (k0 : Nat) : (s.setTreeU k x).prot k0 = s.prot k0 := rfl
@[simp] theorem State.setTreeU_link (s : State) (k : Nat) (x : TreeUs) (k0 : Nat) : (s.setTreeU k x).link k0 = s.link k0 := rfl
@[simp] theorem State.setTreeU_treeU_same (s : State) (k0 : Nat) (x : TreeUs) : (s.setTreeU k0 x).treeU k0 = x := by
  simp [State.treeU, State.setTreeU]
theorem State.setTreeU_treeU_other (s : State) {k0 k1 : Nat} (x : TreeUs) (h : k0 ≠ k1) : (s.setTreeU k0 x).treeU k1 = s.treeU k1 :=
  smGet_smSet_other _ _ _ _ (fun e => h (Prod.mk.inj e).1)
@[simp] theorem State.setTreeU_term (s : State) (k : Nat) (x : TreeUs) (k0 j0 : Nat) :
    (s.setTreeU k x).term k0 j0 = s.term k0 j0 := rfl

/-! ### setTerm -/

@[simp] theorem State.setTerm_pending (s : State) (k j : Nat) (x : Term) : (s.setTerm k j x).pending = s.pending := rfl
@[simp] theorem State.setTerm_freeCtr (s : State) (k j : Nat) (x : Term) : (s.setTerm k j x).freeCtr = s.freeCtr := rfl
@[simp] theorem State.setTerm_out (s : State) (k j : Nat) (x : Term) : (s.setTerm k j x).out = s.out := rfl
@[simp] theorem State.setTerm_hostMem (s : State) (k j : Nat) (x : Term) : (s.setTerm k j x).hostMem = s.hostMem := rfl
@[simp] theorem State.setTerm_scratch (s : State) (k j : Nat) (x : Term) : (s.setTerm k j x).scratch = s.scratch := rfl
@[simp] theorem State.setTerm_fields (s : State) (k j : Nat) (x : Term) : (s.setTerm k j x).fields = s.fields := rfl
@[simp] theorem State.setTerm_bnd (s : State) (k j : Nat) (x : Term) : (s.setTerm k j x).bnd = s.bnd := rfl
@[simp] theorem State.setTerm_tb (s : State) (k j : Nat) (x : Term) : (s.setTerm k j x).tb = s.tb := rfl
@[simp] theorem State.setTerm_doms (s : State) (k j : Nat) (x : Term) : (s.setTerm k j x).doms = s.doms := rfl
@[simp] theorem State.setTerm_sents (s : State) (k j : Nat) (x : Term) : (s.setTerm k j x).sents = s.sents := rfl
@[simp] theorem State.setTerm_hostSleep (s : State) (k j : Nat) (x : Term) : (s.setTerm k j x).hostSleep = s.hostSleep := rfl
@[simp] theorem State.setTerm_trees (s : State) (k j : Nat) (x : Term) : (s.setTerm k j x).trees = s.trees := rfl
@[simp] theorem State.setTerm_slots (s : State) (k j : Nat) (x : Term) : (s.setTerm k j x).slots = s.slots := rfl
@[simp] theorem State.setTerm_rings (s : State) (k j : Nat) (x : Term) : (s.setTerm k j x).rings = s.rings := rfl
@[simp] theorem State.setTerm_evqs (s : State) (k j : Nat) (x : Term) : (s.setTerm k j x).evqs = s.evqs := rfl
@[simp] theorem State.setTerm_doorbells (s : State) (k j : Nat) (x : Term) : (s.setTerm k j x).doorbells = s.doorbells := rfl
@[simp] theorem State.setTerm_cp (s : State) (k j : Nat) (x : Term) : (s.setTerm k j x).cp = s.cp := rfl
@[simp] theorem State.setTerm_flows (s : State) (k j : Nat) (x : Term) : (s.setTerm k j x).flows = s.flows := rfl
@[simp] theorem State.setTerm_reasms (s : State) (k j : Nat) (x : Term) : (s.setTerm k j x).reasms = s.reasms := rfl
@[simp] theorem State.setTerm_bprofs (s : State) (k j : Nat) (x : Term) : (s.setTerm k j x).bprofs = s.bprofs := rfl
@[simp] theorem State.setTerm_treeUs (s : State) (k j : Nat) (x : Term) : (s.setTerm k j x).treeUs = s.treeUs := rfl
@[simp] theorem State.setTerm_allocs (s : State) (k j : Nat) (x : Term) : (s.setTerm k j x).allocs = s.allocs := rfl
@[simp] theorem State.setTerm_sluTrees (s : State) (k j : Nat) (x : Term) : (s.setTerm k j x).sluTrees = s.sluTrees := rfl
@[simp] theorem State.setTerm_sluUnits (s : State) (k j : Nat) (x : Term) : (s.setTerm k j x).sluUnits = s.sluUnits := rfl
@[simp] theorem State.setTerm_sluShared (s : State) (k j : Nat) (x : Term) : (s.setTerm k j x).sluShared = s.sluShared := rfl
@[simp] theorem State.setTerm_slu (s : State) (k j : Nat) (x : Term) : (s.setTerm k j x).slu = s.slu := rfl
@[simp] theorem State.setTerm_buf (s : State) (k j : Nat) (x : Term) : (s.setTerm k j x).buf = s.buf := rfl
@[simp] theorem State.setTerm_tabs (s : State) (k j : Nat) (x : Term) : (s.setTerm k j x).tabs = s.tabs := rfl
@[simp] theorem State.setTerm_counts (s : State) (k j : Nat) (x : Term) : (s.setTerm k j x).counts = s.counts := rfl
@[simp] theorem State.setTerm_fabLinks (s : State) (k j : Nat) (x : Term) : (s.setTerm k j x).fabLinks = s.fabLinks := rfl
@[simp] theorem State.setTerm_fab (s : State) (k j : Nat) (x : Term) : (s.setTerm k j x).fab = s.fab := rfl
@[simp] theorem State.setTerm_prots (s : State) (k j : Nat) (x : Term) : (s.setTerm k j x).prots = s.prots := rfl
@[simp] theorem State.setTerm_engs (s : State) (k j : Nat) (x : Term) : (s.setTerm k j x).engs = s.engs := rfl
@[simp] theorem State.setTerm_tel (s : State) (k j : Nat) (x : Term) : (s.setTerm k j x).tel = s.tel := rfl
@[simp] theorem State.setTerm_errLog (s : State) (k j : Nat) (x : Term) : (s.setTerm k j x).errLog = s.errLog := rfl
@[simp] theorem State.setTerm_errOvf (s : State) (k j : Nat) (x : Term) : (s.setTerm k j x).errOvf = s.errOvf := rfl
@[simp] theorem State.setTerm_chans (s : State) (k j : Nat) (x : Term) : (s.setTerm k j x).chans = s.chans := rfl
@[simp] theorem State.setTerm_rakeLast (s : State) (k j : Nat) (x : Term) : (s.setTerm k j x).rakeLast = s.rakeLast := rfl
@[simp] theorem State.setTerm_mon (s : State) (k j : Nat) (x : Term) : (s.setTerm k j x).mon = s.mon := rfl
@[simp] theorem State.setTerm_rd (s : State) (k j : Nat) (x : Term) (f0 : Fld) (i0 : Nat) :
    (s.setTerm k j x).rd f0 i0 = s.rd f0 i0 := rfl
@[simp] theorem State.setTerm_flag (s : State) (k j : Nat) (x : Term) (f0 : Fld) (i0 : Nat) :
    (s.setTerm k j x).flag f0 i0 = s.flag f0 i0 := rfl
@[simp] theorem State.setTerm_pw (s : State) (k j : Nat) (x : Term) (d0 : Nat) : (s.setTerm k j x).pw d0 = s.pw d0 := rfl
@[simp] theorem State.setTerm_on (s : State) (k j : Nat) (x : Term) (d0 : Nat) : (s.setTerm k j x).on d0 = s.on d0 := rfl
@[simp] theorem State.setTerm_tstate (s : State) (k j : Nat) (x : Term) (t0 : Nat) :
    (s.setTerm k j x).tstate t0 = s.tstate t0 := rfl
@[simp] theorem State.setTerm_dom (s : State) (k j : Nat) (x : Term) (k0 : Nat) : (s.setTerm k j x).dom k0 = s.dom k0 := rfl
@[simp] theorem State.setTerm_ring (s : State) (k j : Nat) (x : Term) (k0 : Nat) : (s.setTerm k j x).ring k0 = s.ring k0 := rfl
@[simp] theorem State.setTerm_evq (s : State) (k j : Nat) (x : Term) (k0 : Nat) : (s.setTerm k j x).evq k0 = s.evq k0 := rfl
@[simp] theorem State.setTerm_tree (s : State) (k j : Nat) (x : Term) (k0 : Nat) : (s.setTerm k j x).tree k0 = s.tree k0 := rfl
@[simp] theorem State.setTerm_treeU (s : State) (k j : Nat) (x : Term) (k0 : Nat) : (s.setTerm k j x).treeU k0 = s.treeU k0 := rfl
@[simp] theorem State.setTerm_slot (s : State) (k j : Nat) (x : Term) (k0 : Nat) : (s.setTerm k j x).slot k0 = s.slot k0 := rfl
@[simp] theorem State.setTerm_shared (s : State) (k j : Nat) (x : Term) (k0 : Nat) :
    (s.setTerm k j x).shared k0 = s.shared k0 := rfl
@[simp] theorem State.setTerm_sluUnit (s : State) (k j : Nat) (x : Term) (k0 : Nat) :
    (s.setTerm k j x).sluUnit k0 = s.sluUnit k0 := rfl
@[simp] theorem State.setTerm_eng (s : State) (k j : Nat) (x : Term) (k0 : Nat) : (s.setTerm k j x).eng k0 = s.eng k0 := rfl
@[simp] theorem State.setTerm_chan (s : State) (k j : Nat) (x : Term) (k0 : Nat) : (s.setTerm k j x).chan k0 = s.chan k0 := rfl
@[simp] theorem State.setTerm_prot (s : State) (k j : Nat) (x : Term) (k0 : Nat) : (s.setTerm k j x).prot k0 = s.prot k0 := rfl
@[simp] theorem State.setTerm_link (s : State) (k j : Nat) (x : Term) (k0 : Nat) : (s.setTerm k j x).link k0 = s.link k0 := rfl
@[simp] theorem State.setTerm_term_same (s : State) (k j : Nat) (x : Term) : (s.setTerm k j x).term k j = x := by
  simp [State.term, State.setTerm, State.putTerms]

/-! ### setSlot -/

@[simp] theorem State.setSlot_pending (s : State) (h : Nat) (x : KeySlot) : (s.setSlot h x).pending = s.pending := rfl
@[simp] theorem State.setSlot_freeCtr (s : State) (h : Nat) (x : KeySlot) : (s.setSlot h x).freeCtr = s.freeCtr := rfl
@[simp] theorem State.setSlot_out (s : State) (h : Nat) (x : KeySlot) : (s.setSlot h x).out = s.out := rfl
@[simp] theorem State.setSlot_hostMem (s : State) (h : Nat) (x : KeySlot) : (s.setSlot h x).hostMem = s.hostMem := rfl
@[simp] theorem State.setSlot_scratch (s : State) (h : Nat) (x : KeySlot) : (s.setSlot h x).scratch = s.scratch := rfl
@[simp] theorem State.setSlot_fields (s : State) (h : Nat) (x : KeySlot) : (s.setSlot h x).fields = s.fields := rfl
@[simp] theorem State.setSlot_bnd (s : State) (h : Nat) (x : KeySlot) : (s.setSlot h x).bnd = s.bnd := rfl
@[simp] theorem State.setSlot_tb (s : State) (h : Nat) (x : KeySlot) : (s.setSlot h x).tb = s.tb := rfl
@[simp] theorem State.setSlot_doms (s : State) (h : Nat) (x : KeySlot) : (s.setSlot h x).doms = s.doms := rfl
@[simp] theorem State.setSlot_sents (s : State) (h : Nat) (x : KeySlot) : (s.setSlot h x).sents = s.sents := rfl
@[simp] theorem State.setSlot_hostSleep (s : State) (h : Nat) (x : KeySlot) : (s.setSlot h x).hostSleep = s.hostSleep := rfl
@[simp] theorem State.setSlot_trees (s : State) (h : Nat) (x : KeySlot) : (s.setSlot h x).trees = s.trees := rfl
@[simp] theorem State.setSlot_rings (s : State) (h : Nat) (x : KeySlot) : (s.setSlot h x).rings = s.rings := rfl
@[simp] theorem State.setSlot_evqs (s : State) (h : Nat) (x : KeySlot) : (s.setSlot h x).evqs = s.evqs := rfl
@[simp] theorem State.setSlot_doorbells (s : State) (h : Nat) (x : KeySlot) : (s.setSlot h x).doorbells = s.doorbells := rfl
@[simp] theorem State.setSlot_cp (s : State) (h : Nat) (x : KeySlot) : (s.setSlot h x).cp = s.cp := rfl
@[simp] theorem State.setSlot_terms (s : State) (h : Nat) (x : KeySlot) : (s.setSlot h x).terms = s.terms := rfl
@[simp] theorem State.setSlot_flows (s : State) (h : Nat) (x : KeySlot) : (s.setSlot h x).flows = s.flows := rfl
@[simp] theorem State.setSlot_reasms (s : State) (h : Nat) (x : KeySlot) : (s.setSlot h x).reasms = s.reasms := rfl
@[simp] theorem State.setSlot_bprofs (s : State) (h : Nat) (x : KeySlot) : (s.setSlot h x).bprofs = s.bprofs := rfl
@[simp] theorem State.setSlot_treeUs (s : State) (h : Nat) (x : KeySlot) : (s.setSlot h x).treeUs = s.treeUs := rfl
@[simp] theorem State.setSlot_allocs (s : State) (h : Nat) (x : KeySlot) : (s.setSlot h x).allocs = s.allocs := rfl
@[simp] theorem State.setSlot_sluTrees (s : State) (h : Nat) (x : KeySlot) : (s.setSlot h x).sluTrees = s.sluTrees := rfl
@[simp] theorem State.setSlot_sluUnits (s : State) (h : Nat) (x : KeySlot) : (s.setSlot h x).sluUnits = s.sluUnits := rfl
@[simp] theorem State.setSlot_sluShared (s : State) (h : Nat) (x : KeySlot) : (s.setSlot h x).sluShared = s.sluShared := rfl
@[simp] theorem State.setSlot_slu (s : State) (h : Nat) (x : KeySlot) : (s.setSlot h x).slu = s.slu := rfl
@[simp] theorem State.setSlot_buf (s : State) (h : Nat) (x : KeySlot) : (s.setSlot h x).buf = s.buf := rfl
@[simp] theorem State.setSlot_tabs (s : State) (h : Nat) (x : KeySlot) : (s.setSlot h x).tabs = s.tabs := rfl
@[simp] theorem State.setSlot_counts (s : State) (h : Nat) (x : KeySlot) : (s.setSlot h x).counts = s.counts := rfl
@[simp] theorem State.setSlot_fabLinks (s : State) (h : Nat) (x : KeySlot) : (s.setSlot h x).fabLinks = s.fabLinks := rfl
@[simp] theorem State.setSlot_fab (s : State) (h : Nat) (x : KeySlot) : (s.setSlot h x).fab = s.fab := rfl
@[simp] theorem State.setSlot_prots (s : State) (h : Nat) (x : KeySlot) : (s.setSlot h x).prots = s.prots := rfl
@[simp] theorem State.setSlot_engs (s : State) (h : Nat) (x : KeySlot) : (s.setSlot h x).engs = s.engs := rfl
@[simp] theorem State.setSlot_tel (s : State) (h : Nat) (x : KeySlot) : (s.setSlot h x).tel = s.tel := rfl
@[simp] theorem State.setSlot_errLog (s : State) (h : Nat) (x : KeySlot) : (s.setSlot h x).errLog = s.errLog := rfl
@[simp] theorem State.setSlot_errOvf (s : State) (h : Nat) (x : KeySlot) : (s.setSlot h x).errOvf = s.errOvf := rfl
@[simp] theorem State.setSlot_chans (s : State) (h : Nat) (x : KeySlot) : (s.setSlot h x).chans = s.chans := rfl
@[simp] theorem State.setSlot_rakeLast (s : State) (h : Nat) (x : KeySlot) : (s.setSlot h x).rakeLast = s.rakeLast := rfl
@[simp] theorem State.setSlot_mon (s : State) (h : Nat) (x : KeySlot) : (s.setSlot h x).mon = s.mon := rfl
@[simp] theorem State.setSlot_rd (s : State) (h : Nat) (x : KeySlot) (f0 : Fld) (i0 : Nat) :
    (s.setSlot h x).rd f0 i0 = s.rd f0 i0 := rfl
@[simp] theorem State.setSlot_flag (s : State) (h : Nat) (x : KeySlot) (f0 : Fld) (i0 : Nat) :
    (s.setSlot h x).flag f0 i0 = s.flag f0 i0 := rfl
@[simp] theorem State.setSlot_pw (s : State) (h : Nat) (x : KeySlot) (d0 : Nat) : (s.setSlot h x).pw d0 = s.pw d0 := rfl
@[simp] theorem State.setSlot_on (s : State) (h : Nat) (x : KeySlot) (d0 : Nat) : (s.setSlot h x).on d0 = s.on d0 := rfl
@[simp] theorem State.setSlot_tstate (s : State) (h : Nat) (x : KeySlot) (t0 : Nat) :
    (s.setSlot h x).tstate t0 = s.tstate t0 := rfl
@[simp] theorem State.setSlot_dom (s : State) (h : Nat) (x : KeySlot) (k0 : Nat) : (s.setSlot h x).dom k0 = s.dom k0 := rfl
@[simp] theorem State.setSlot_ring (s : State) (h : Nat) (x : KeySlot) (k0 : Nat) : (s.setSlot h x).ring k0 = s.ring k0 := rfl
@[simp] theorem State.setSlot_evq (s : State) (h : Nat) (x : KeySlot) (k0 : Nat) : (s.setSlot h x).evq k0 = s.evq k0 := rfl
@[simp] theorem State.setSlot_tree (s : State) (h : Nat) (x : KeySlot) (k0 : Nat) : (s.setSlot h x).tree k0 = s.tree k0 := rfl
@[simp] theorem State.setSlot_treeU (s : State) (h : Nat) (x : KeySlot) (k0 : Nat) : (s.setSlot h x).treeU k0 = s.treeU k0 := rfl
@[simp] theorem State.setSlot_shared (s : State) (h : Nat) (x : KeySlot) (k0 : Nat) :
    (s.setSlot h x).shared k0 = s.shared k0 := rfl
@[simp] theorem State.setSlot_sluUnit (s : State) (h : Nat) (x : KeySlot) (k0 : Nat) :
    (s.setSlot h x).sluUnit k0 = s.sluUnit k0 := rfl
@[simp] theorem State.setSlot_eng (s : State) (h : Nat) (x : KeySlot) (k0 : Nat) : (s.setSlot h x).eng k0 = s.eng k0 := rfl
@[simp] theorem State.setSlot_chan (s : State) (h : Nat) (x : KeySlot) (k0 : Nat) : (s.setSlot h x).chan k0 = s.chan k0 := rfl
@[simp] theorem State.setSlot_prot (s : State) (h : Nat) (x : KeySlot) (k0 : Nat) : (s.setSlot h x).prot k0 = s.prot k0 := rfl
@[simp] theorem State.setSlot_link (s : State) (h : Nat) (x : KeySlot) (k0 : Nat) : (s.setSlot h x).link k0 = s.link k0 := rfl
@[simp] theorem State.setSlot_slot_same (s : State) (k0 : Nat) (x : KeySlot) : (s.setSlot k0 x).slot k0 = x := by
  simp [State.slot, State.setSlot]
theorem State.setSlot_slot_other (s : State) {k0 k1 : Nat} (x : KeySlot) (h : k0 ≠ k1) : (s.setSlot k0 x).slot k1 = s.slot k1 :=
  smGet_smSet_other _ _ _ _ (fun e => h (Prod.mk.inj e).1)
@[simp] theorem State.setSlot_term (s : State) (h : Nat) (x : KeySlot) (k0 j0 : Nat) :
    (s.setSlot h x).term k0 j0 = s.term k0 j0 := rfl

/-! ### setShared -/

@[simp] theorem State.setShared_pending (s : State) (k : Nat) (x : SluShared) : (s.setShared k x).pending = s.pending := rfl
@[simp] theorem State.setShared_freeCtr (s : State) (k : Nat) (x : SluShared) : (s.setShared k x).freeCtr = s.freeCtr := rfl
@[simp] theorem State.setShared_out (s : State) (k : Nat) (x : SluShared) : (s.setShared k x).out = s.out := rfl
@[simp] theorem State.setShared_hostMem (s : State) (k : Nat) (x : SluShared) : (s.setShared k x).hostMem = s.hostMem := rfl
@[simp] theorem State.setShared_scratch (s : State) (k : Nat) (x : SluShared) : (s.setShared k x).scratch = s.scratch := rfl
@[simp] theorem State.setShared_fields (s : State) (k : Nat) (x : SluShared) : (s.setShared k x).fields = s.fields := rfl
@[simp] theorem State.setShared_bnd (s : State) (k : Nat) (x : SluShared) : (s.setShared k x).bnd = s.bnd := rfl
@[simp] theorem State.setShared_tb (s : State) (k : Nat) (x : SluShared) : (s.setShared k x).tb = s.tb := rfl
@[simp] theorem State.setShared_doms (s : State) (k : Nat) (x : SluShared) : (s.setShared k x).doms = s.doms := rfl
@[simp] theorem State.setShared_sents (s : State) (k : Nat) (x : SluShared) : (s.setShared k x).sents = s.sents := rfl
@[simp] theorem State.setShared_hostSleep (s : State) (k : Nat) (x : SluShared) : (s.setShared k x).hostSleep = s.hostSleep := rfl
@[simp] theorem State.setShared_trees (s : State) (k : Nat) (x : SluShared) : (s.setShared k x).trees = s.trees := rfl
@[simp] theorem State.setShared_slots (s : State) (k : Nat) (x : SluShared) : (s.setShared k x).slots = s.slots := rfl
@[simp] theorem State.setShared_rings (s : State) (k : Nat) (x : SluShared) : (s.setShared k x).rings = s.rings := rfl
@[simp] theorem State.setShared_evqs (s : State) (k : Nat) (x : SluShared) : (s.setShared k x).evqs = s.evqs := rfl
@[simp] theorem State.setShared_doorbells (s : State) (k : Nat) (x : SluShared) : (s.setShared k x).doorbells = s.doorbells := rfl
@[simp] theorem State.setShared_cp (s : State) (k : Nat) (x : SluShared) : (s.setShared k x).cp = s.cp := rfl
@[simp] theorem State.setShared_terms (s : State) (k : Nat) (x : SluShared) : (s.setShared k x).terms = s.terms := rfl
@[simp] theorem State.setShared_flows (s : State) (k : Nat) (x : SluShared) : (s.setShared k x).flows = s.flows := rfl
@[simp] theorem State.setShared_reasms (s : State) (k : Nat) (x : SluShared) : (s.setShared k x).reasms = s.reasms := rfl
@[simp] theorem State.setShared_bprofs (s : State) (k : Nat) (x : SluShared) : (s.setShared k x).bprofs = s.bprofs := rfl
@[simp] theorem State.setShared_treeUs (s : State) (k : Nat) (x : SluShared) : (s.setShared k x).treeUs = s.treeUs := rfl
@[simp] theorem State.setShared_allocs (s : State) (k : Nat) (x : SluShared) : (s.setShared k x).allocs = s.allocs := rfl
@[simp] theorem State.setShared_sluTrees (s : State) (k : Nat) (x : SluShared) : (s.setShared k x).sluTrees = s.sluTrees := rfl
@[simp] theorem State.setShared_sluUnits (s : State) (k : Nat) (x : SluShared) : (s.setShared k x).sluUnits = s.sluUnits := rfl
@[simp] theorem State.setShared_slu (s : State) (k : Nat) (x : SluShared) : (s.setShared k x).slu = s.slu := rfl
@[simp] theorem State.setShared_buf (s : State) (k : Nat) (x : SluShared) : (s.setShared k x).buf = s.buf := rfl
@[simp] theorem State.setShared_tabs (s : State) (k : Nat) (x : SluShared) : (s.setShared k x).tabs = s.tabs := rfl
@[simp] theorem State.setShared_counts (s : State) (k : Nat) (x : SluShared) : (s.setShared k x).counts = s.counts := rfl
@[simp] theorem State.setShared_fabLinks (s : State) (k : Nat) (x : SluShared) : (s.setShared k x).fabLinks = s.fabLinks := rfl
@[simp] theorem State.setShared_fab (s : State) (k : Nat) (x : SluShared) : (s.setShared k x).fab = s.fab := rfl
@[simp] theorem State.setShared_prots (s : State) (k : Nat) (x : SluShared) : (s.setShared k x).prots = s.prots := rfl
@[simp] theorem State.setShared_engs (s : State) (k : Nat) (x : SluShared) : (s.setShared k x).engs = s.engs := rfl
@[simp] theorem State.setShared_tel (s : State) (k : Nat) (x : SluShared) : (s.setShared k x).tel = s.tel := rfl
@[simp] theorem State.setShared_errLog (s : State) (k : Nat) (x : SluShared) : (s.setShared k x).errLog = s.errLog := rfl
@[simp] theorem State.setShared_errOvf (s : State) (k : Nat) (x : SluShared) : (s.setShared k x).errOvf = s.errOvf := rfl
@[simp] theorem State.setShared_chans (s : State) (k : Nat) (x : SluShared) : (s.setShared k x).chans = s.chans := rfl
@[simp] theorem State.setShared_rakeLast (s : State) (k : Nat) (x : SluShared) : (s.setShared k x).rakeLast = s.rakeLast := rfl
@[simp] theorem State.setShared_mon (s : State) (k : Nat) (x : SluShared) : (s.setShared k x).mon = s.mon := rfl
@[simp] theorem State.setShared_rd (s : State) (k : Nat) (x : SluShared) (f0 : Fld) (i0 : Nat) :
    (s.setShared k x).rd f0 i0 = s.rd f0 i0 := rfl
@[simp] theorem State.setShared_flag (s : State) (k : Nat) (x : SluShared) (f0 : Fld) (i0 : Nat) :
    (s.setShared k x).flag f0 i0 = s.flag f0 i0 := rfl
@[simp] theorem State.setShared_pw (s : State) (k : Nat) (x : SluShared) (d0 : Nat) : (s.setShared k x).pw d0 = s.pw d0 := rfl
@[simp] theorem State.setShared_on (s : State) (k : Nat) (x : SluShared) (d0 : Nat) : (s.setShared k x).on d0 = s.on d0 := rfl
@[simp] theorem State.setShared_tstate (s : State) (k : Nat) (x : SluShared) (t0 : Nat) :
    (s.setShared k x).tstate t0 = s.tstate t0 := rfl
@[simp] theorem State.setShared_dom (s : State) (k : Nat) (x : SluShared) (k0 : Nat) : (s.setShared k x).dom k0 = s.dom k0 := rfl
@[simp] theorem State.setShared_ring (s : State) (k : Nat) (x : SluShared) (k0 : Nat) :
    (s.setShared k x).ring k0 = s.ring k0 := rfl
@[simp] theorem State.setShared_evq (s : State) (k : Nat) (x : SluShared) (k0 : Nat) : (s.setShared k x).evq k0 = s.evq k0 := rfl
@[simp] theorem State.setShared_tree (s : State) (k : Nat) (x : SluShared) (k0 : Nat) :
    (s.setShared k x).tree k0 = s.tree k0 := rfl
@[simp] theorem State.setShared_treeU (s : State) (k : Nat) (x : SluShared) (k0 : Nat) :
    (s.setShared k x).treeU k0 = s.treeU k0 := rfl
@[simp] theorem State.setShared_slot (s : State) (k : Nat) (x : SluShared) (k0 : Nat) :
    (s.setShared k x).slot k0 = s.slot k0 := rfl
@[simp] theorem State.setShared_sluUnit (s : State) (k : Nat) (x : SluShared) (k0 : Nat) :
    (s.setShared k x).sluUnit k0 = s.sluUnit k0 := rfl
@[simp] theorem State.setShared_eng (s : State) (k : Nat) (x : SluShared) (k0 : Nat) : (s.setShared k x).eng k0 = s.eng k0 := rfl
@[simp] theorem State.setShared_chan (s : State) (k : Nat) (x : SluShared) (k0 : Nat) :
    (s.setShared k x).chan k0 = s.chan k0 := rfl
@[simp] theorem State.setShared_prot (s : State) (k : Nat) (x : SluShared) (k0 : Nat) :
    (s.setShared k x).prot k0 = s.prot k0 := rfl
@[simp] theorem State.setShared_link (s : State) (k : Nat) (x : SluShared) (k0 : Nat) :
    (s.setShared k x).link k0 = s.link k0 := rfl
@[simp] theorem State.setShared_shared_same (s : State) (k0 : Nat) (x : SluShared) : (s.setShared k0 x).shared k0 = x := by
  simp [State.shared, State.setShared]
theorem State.setShared_shared_other (s : State) {k0 k1 : Nat} (x : SluShared) (h : k0 ≠ k1) : (s.setShared k0 x).shared k1 = s.shared k1 :=
  smGet_smSet_other _ _ _ _ (fun e => h (Prod.mk.inj e).1)
@[simp] theorem State.setShared_term (s : State) (k : Nat) (x : SluShared) (k0 j0 : Nat) :
    (s.setShared k x).term k0 j0 = s.term k0 j0 := rfl

/-! ### setSluTree -/

@[simp] theorem State.setSluTree_pending (s : State) (u k : Nat) (x : SluTree) : (s.setSluTree u k x).pending = s.pending := rfl
@[simp] theorem State.setSluTree_freeCtr (s : State) (u k : Nat) (x : SluTree) : (s.setSluTree u k x).freeCtr = s.freeCtr := rfl
@[simp] theorem State.setSluTree_out (s : State) (u k : Nat) (x : SluTree) : (s.setSluTree u k x).out = s.out := rfl
@[simp] theorem State.setSluTree_hostMem (s : State) (u k : Nat) (x : SluTree) : (s.setSluTree u k x).hostMem = s.hostMem := rfl
@[simp] theorem State.setSluTree_scratch (s : State) (u k : Nat) (x : SluTree) : (s.setSluTree u k x).scratch = s.scratch := rfl
@[simp] theorem State.setSluTree_fields (s : State) (u k : Nat) (x : SluTree) : (s.setSluTree u k x).fields = s.fields := rfl
@[simp] theorem State.setSluTree_bnd (s : State) (u k : Nat) (x : SluTree) : (s.setSluTree u k x).bnd = s.bnd := rfl
@[simp] theorem State.setSluTree_tb (s : State) (u k : Nat) (x : SluTree) : (s.setSluTree u k x).tb = s.tb := rfl
@[simp] theorem State.setSluTree_doms (s : State) (u k : Nat) (x : SluTree) : (s.setSluTree u k x).doms = s.doms := rfl
@[simp] theorem State.setSluTree_sents (s : State) (u k : Nat) (x : SluTree) : (s.setSluTree u k x).sents = s.sents := rfl
@[simp] theorem State.setSluTree_hostSleep (s : State) (u k : Nat) (x : SluTree) :
    (s.setSluTree u k x).hostSleep = s.hostSleep := rfl
@[simp] theorem State.setSluTree_trees (s : State) (u k : Nat) (x : SluTree) : (s.setSluTree u k x).trees = s.trees := rfl
@[simp] theorem State.setSluTree_slots (s : State) (u k : Nat) (x : SluTree) : (s.setSluTree u k x).slots = s.slots := rfl
@[simp] theorem State.setSluTree_rings (s : State) (u k : Nat) (x : SluTree) : (s.setSluTree u k x).rings = s.rings := rfl
@[simp] theorem State.setSluTree_evqs (s : State) (u k : Nat) (x : SluTree) : (s.setSluTree u k x).evqs = s.evqs := rfl
@[simp] theorem State.setSluTree_doorbells (s : State) (u k : Nat) (x : SluTree) :
    (s.setSluTree u k x).doorbells = s.doorbells := rfl
@[simp] theorem State.setSluTree_cp (s : State) (u k : Nat) (x : SluTree) : (s.setSluTree u k x).cp = s.cp := rfl
@[simp] theorem State.setSluTree_terms (s : State) (u k : Nat) (x : SluTree) : (s.setSluTree u k x).terms = s.terms := rfl
@[simp] theorem State.setSluTree_flows (s : State) (u k : Nat) (x : SluTree) : (s.setSluTree u k x).flows = s.flows := rfl
@[simp] theorem State.setSluTree_reasms (s : State) (u k : Nat) (x : SluTree) : (s.setSluTree u k x).reasms = s.reasms := rfl
@[simp] theorem State.setSluTree_bprofs (s : State) (u k : Nat) (x : SluTree) : (s.setSluTree u k x).bprofs = s.bprofs := rfl
@[simp] theorem State.setSluTree_treeUs (s : State) (u k : Nat) (x : SluTree) : (s.setSluTree u k x).treeUs = s.treeUs := rfl
@[simp] theorem State.setSluTree_allocs (s : State) (u k : Nat) (x : SluTree) : (s.setSluTree u k x).allocs = s.allocs := rfl
@[simp] theorem State.setSluTree_sluUnits (s : State) (u k : Nat) (x : SluTree) :
    (s.setSluTree u k x).sluUnits = s.sluUnits := rfl
@[simp] theorem State.setSluTree_sluShared (s : State) (u k : Nat) (x : SluTree) :
    (s.setSluTree u k x).sluShared = s.sluShared := rfl
@[simp] theorem State.setSluTree_slu (s : State) (u k : Nat) (x : SluTree) : (s.setSluTree u k x).slu = s.slu := rfl
@[simp] theorem State.setSluTree_buf (s : State) (u k : Nat) (x : SluTree) : (s.setSluTree u k x).buf = s.buf := rfl
@[simp] theorem State.setSluTree_tabs (s : State) (u k : Nat) (x : SluTree) : (s.setSluTree u k x).tabs = s.tabs := rfl
@[simp] theorem State.setSluTree_counts (s : State) (u k : Nat) (x : SluTree) : (s.setSluTree u k x).counts = s.counts := rfl
@[simp] theorem State.setSluTree_fabLinks (s : State) (u k : Nat) (x : SluTree) :
    (s.setSluTree u k x).fabLinks = s.fabLinks := rfl
@[simp] theorem State.setSluTree_fab (s : State) (u k : Nat) (x : SluTree) : (s.setSluTree u k x).fab = s.fab := rfl
@[simp] theorem State.setSluTree_prots (s : State) (u k : Nat) (x : SluTree) : (s.setSluTree u k x).prots = s.prots := rfl
@[simp] theorem State.setSluTree_engs (s : State) (u k : Nat) (x : SluTree) : (s.setSluTree u k x).engs = s.engs := rfl
@[simp] theorem State.setSluTree_tel (s : State) (u k : Nat) (x : SluTree) : (s.setSluTree u k x).tel = s.tel := rfl
@[simp] theorem State.setSluTree_errLog (s : State) (u k : Nat) (x : SluTree) : (s.setSluTree u k x).errLog = s.errLog := rfl
@[simp] theorem State.setSluTree_errOvf (s : State) (u k : Nat) (x : SluTree) : (s.setSluTree u k x).errOvf = s.errOvf := rfl
@[simp] theorem State.setSluTree_chans (s : State) (u k : Nat) (x : SluTree) : (s.setSluTree u k x).chans = s.chans := rfl
@[simp] theorem State.setSluTree_rakeLast (s : State) (u k : Nat) (x : SluTree) :
    (s.setSluTree u k x).rakeLast = s.rakeLast := rfl
@[simp] theorem State.setSluTree_mon (s : State) (u k : Nat) (x : SluTree) : (s.setSluTree u k x).mon = s.mon := rfl
@[simp] theorem State.setSluTree_rd (s : State) (u k : Nat) (x : SluTree) (f0 : Fld) (i0 : Nat) :
    (s.setSluTree u k x).rd f0 i0 = s.rd f0 i0 := rfl
@[simp] theorem State.setSluTree_flag (s : State) (u k : Nat) (x : SluTree) (f0 : Fld) (i0 : Nat) :
    (s.setSluTree u k x).flag f0 i0 = s.flag f0 i0 := rfl
@[simp] theorem State.setSluTree_pw (s : State) (u k : Nat) (x : SluTree) (d0 : Nat) : (s.setSluTree u k x).pw d0 = s.pw d0 := rfl
@[simp] theorem State.setSluTree_on (s : State) (u k : Nat) (x : SluTree) (d0 : Nat) : (s.setSluTree u k x).on d0 = s.on d0 := rfl
@[simp] theorem State.setSluTree_tstate (s : State) (u k : Nat) (x : SluTree) (t0 : Nat) :
    (s.setSluTree u k x).tstate t0 = s.tstate t0 := rfl
@[simp] theorem State.setSluTree_dom (s : State) (u k : Nat) (x : SluTree) (k0 : Nat) :
    (s.setSluTree u k x).dom k0 = s.dom k0 := rfl
@[simp] theorem State.setSluTree_ring (s : State) (u k : Nat) (x : SluTree) (k0 : Nat) :
    (s.setSluTree u k x).ring k0 = s.ring k0 := rfl
@[simp] theorem State.setSluTree_evq (s : State) (u k : Nat) (x : SluTree) (k0 : Nat) :
    (s.setSluTree u k x).evq k0 = s.evq k0 := rfl
@[simp] theorem State.setSluTree_tree (s : State) (u k : Nat) (x : SluTree) (k0 : Nat) :
    (s.setSluTree u k x).tree k0 = s.tree k0 := rfl
@[simp] theorem State.setSluTree_treeU (s : State) (u k : Nat) (x : SluTree) (k0 : Nat) :
    (s.setSluTree u k x).treeU k0 = s.treeU k0 := rfl
@[simp] theorem State.setSluTree_slot (s : State) (u k : Nat) (x : SluTree) (k0 : Nat) :
    (s.setSluTree u k x).slot k0 = s.slot k0 := rfl
@[simp] theorem State.setSluTree_shared (s : State) (u k : Nat) (x : SluTree) (k0 : Nat) :
    (s.setSluTree u k x).shared k0 = s.shared k0 := rfl
@[simp] theorem State.setSluTree_sluUnit (s : State) (u k : Nat) (x : SluTree) (k0 : Nat) :
    (s.setSluTree u k x).sluUnit k0 = s.sluUnit k0 := rfl
@[simp] theorem State.setSluTree_eng (s : State) (u k : Nat) (x : SluTree) (k0 : Nat) :
    (s.setSluTree u k x).eng k0 = s.eng k0 := rfl
@[simp] theorem State.setSluTree_chan (s : State) (u k : Nat) (x : SluTree) (k0 : Nat) :
    (s.setSluTree u k x).chan k0 = s.chan k0 := rfl
@[simp] theorem State.setSluTree_prot (s : State) (u k : Nat) (x : SluTree) (k0 : Nat) :
    (s.setSluTree u k x).prot k0 = s.prot k0 := rfl
@[simp] theorem State.setSluTree_link (s : State) (u k : Nat) (x : SluTree) (k0 : Nat) :
    (s.setSluTree u k x).link k0 = s.link k0 := rfl
@[simp] theorem State.setSluTree_term (s : State) (u k : Nat) (x : SluTree) (k0 j0 : Nat) :
    (s.setSluTree u k x).term k0 j0 = s.term k0 j0 := rfl

/-! ### setSluUnit -/

@[simp] theorem State.setSluUnit_pending (s : State) (u : Nat) (x : SluUnit) : (s.setSluUnit u x).pending = s.pending := rfl
@[simp] theorem State.setSluUnit_freeCtr (s : State) (u : Nat) (x : SluUnit) : (s.setSluUnit u x).freeCtr = s.freeCtr := rfl
@[simp] theorem State.setSluUnit_out (s : State) (u : Nat) (x : SluUnit) : (s.setSluUnit u x).out = s.out := rfl
@[simp] theorem State.setSluUnit_hostMem (s : State) (u : Nat) (x : SluUnit) : (s.setSluUnit u x).hostMem = s.hostMem := rfl
@[simp] theorem State.setSluUnit_scratch (s : State) (u : Nat) (x : SluUnit) : (s.setSluUnit u x).scratch = s.scratch := rfl
@[simp] theorem State.setSluUnit_fields (s : State) (u : Nat) (x : SluUnit) : (s.setSluUnit u x).fields = s.fields := rfl
@[simp] theorem State.setSluUnit_bnd (s : State) (u : Nat) (x : SluUnit) : (s.setSluUnit u x).bnd = s.bnd := rfl
@[simp] theorem State.setSluUnit_tb (s : State) (u : Nat) (x : SluUnit) : (s.setSluUnit u x).tb = s.tb := rfl
@[simp] theorem State.setSluUnit_doms (s : State) (u : Nat) (x : SluUnit) : (s.setSluUnit u x).doms = s.doms := rfl
@[simp] theorem State.setSluUnit_sents (s : State) (u : Nat) (x : SluUnit) : (s.setSluUnit u x).sents = s.sents := rfl
@[simp] theorem State.setSluUnit_hostSleep (s : State) (u : Nat) (x : SluUnit) : (s.setSluUnit u x).hostSleep = s.hostSleep := rfl
@[simp] theorem State.setSluUnit_trees (s : State) (u : Nat) (x : SluUnit) : (s.setSluUnit u x).trees = s.trees := rfl
@[simp] theorem State.setSluUnit_slots (s : State) (u : Nat) (x : SluUnit) : (s.setSluUnit u x).slots = s.slots := rfl
@[simp] theorem State.setSluUnit_rings (s : State) (u : Nat) (x : SluUnit) : (s.setSluUnit u x).rings = s.rings := rfl
@[simp] theorem State.setSluUnit_evqs (s : State) (u : Nat) (x : SluUnit) : (s.setSluUnit u x).evqs = s.evqs := rfl
@[simp] theorem State.setSluUnit_doorbells (s : State) (u : Nat) (x : SluUnit) : (s.setSluUnit u x).doorbells = s.doorbells := rfl
@[simp] theorem State.setSluUnit_cp (s : State) (u : Nat) (x : SluUnit) : (s.setSluUnit u x).cp = s.cp := rfl
@[simp] theorem State.setSluUnit_terms (s : State) (u : Nat) (x : SluUnit) : (s.setSluUnit u x).terms = s.terms := rfl
@[simp] theorem State.setSluUnit_flows (s : State) (u : Nat) (x : SluUnit) : (s.setSluUnit u x).flows = s.flows := rfl
@[simp] theorem State.setSluUnit_reasms (s : State) (u : Nat) (x : SluUnit) : (s.setSluUnit u x).reasms = s.reasms := rfl
@[simp] theorem State.setSluUnit_bprofs (s : State) (u : Nat) (x : SluUnit) : (s.setSluUnit u x).bprofs = s.bprofs := rfl
@[simp] theorem State.setSluUnit_treeUs (s : State) (u : Nat) (x : SluUnit) : (s.setSluUnit u x).treeUs = s.treeUs := rfl
@[simp] theorem State.setSluUnit_allocs (s : State) (u : Nat) (x : SluUnit) : (s.setSluUnit u x).allocs = s.allocs := rfl
@[simp] theorem State.setSluUnit_sluTrees (s : State) (u : Nat) (x : SluUnit) : (s.setSluUnit u x).sluTrees = s.sluTrees := rfl
@[simp] theorem State.setSluUnit_sluShared (s : State) (u : Nat) (x : SluUnit) : (s.setSluUnit u x).sluShared = s.sluShared := rfl
@[simp] theorem State.setSluUnit_slu (s : State) (u : Nat) (x : SluUnit) : (s.setSluUnit u x).slu = s.slu := rfl
@[simp] theorem State.setSluUnit_buf (s : State) (u : Nat) (x : SluUnit) : (s.setSluUnit u x).buf = s.buf := rfl
@[simp] theorem State.setSluUnit_tabs (s : State) (u : Nat) (x : SluUnit) : (s.setSluUnit u x).tabs = s.tabs := rfl
@[simp] theorem State.setSluUnit_counts (s : State) (u : Nat) (x : SluUnit) : (s.setSluUnit u x).counts = s.counts := rfl
@[simp] theorem State.setSluUnit_fabLinks (s : State) (u : Nat) (x : SluUnit) : (s.setSluUnit u x).fabLinks = s.fabLinks := rfl
@[simp] theorem State.setSluUnit_fab (s : State) (u : Nat) (x : SluUnit) : (s.setSluUnit u x).fab = s.fab := rfl
@[simp] theorem State.setSluUnit_prots (s : State) (u : Nat) (x : SluUnit) : (s.setSluUnit u x).prots = s.prots := rfl
@[simp] theorem State.setSluUnit_engs (s : State) (u : Nat) (x : SluUnit) : (s.setSluUnit u x).engs = s.engs := rfl
@[simp] theorem State.setSluUnit_tel (s : State) (u : Nat) (x : SluUnit) : (s.setSluUnit u x).tel = s.tel := rfl
@[simp] theorem State.setSluUnit_errLog (s : State) (u : Nat) (x : SluUnit) : (s.setSluUnit u x).errLog = s.errLog := rfl
@[simp] theorem State.setSluUnit_errOvf (s : State) (u : Nat) (x : SluUnit) : (s.setSluUnit u x).errOvf = s.errOvf := rfl
@[simp] theorem State.setSluUnit_chans (s : State) (u : Nat) (x : SluUnit) : (s.setSluUnit u x).chans = s.chans := rfl
@[simp] theorem State.setSluUnit_rakeLast (s : State) (u : Nat) (x : SluUnit) : (s.setSluUnit u x).rakeLast = s.rakeLast := rfl
@[simp] theorem State.setSluUnit_mon (s : State) (u : Nat) (x : SluUnit) : (s.setSluUnit u x).mon = s.mon := rfl
@[simp] theorem State.setSluUnit_rd (s : State) (u : Nat) (x : SluUnit) (f0 : Fld) (i0 : Nat) :
    (s.setSluUnit u x).rd f0 i0 = s.rd f0 i0 := rfl
@[simp] theorem State.setSluUnit_flag (s : State) (u : Nat) (x : SluUnit) (f0 : Fld) (i0 : Nat) :
    (s.setSluUnit u x).flag f0 i0 = s.flag f0 i0 := rfl
@[simp] theorem State.setSluUnit_pw (s : State) (u : Nat) (x : SluUnit) (d0 : Nat) : (s.setSluUnit u x).pw d0 = s.pw d0 := rfl
@[simp] theorem State.setSluUnit_on (s : State) (u : Nat) (x : SluUnit) (d0 : Nat) : (s.setSluUnit u x).on d0 = s.on d0 := rfl
@[simp] theorem State.setSluUnit_tstate (s : State) (u : Nat) (x : SluUnit) (t0 : Nat) :
    (s.setSluUnit u x).tstate t0 = s.tstate t0 := rfl
@[simp] theorem State.setSluUnit_dom (s : State) (u : Nat) (x : SluUnit) (k0 : Nat) : (s.setSluUnit u x).dom k0 = s.dom k0 := rfl
@[simp] theorem State.setSluUnit_ring (s : State) (u : Nat) (x : SluUnit) (k0 : Nat) :
    (s.setSluUnit u x).ring k0 = s.ring k0 := rfl
@[simp] theorem State.setSluUnit_evq (s : State) (u : Nat) (x : SluUnit) (k0 : Nat) : (s.setSluUnit u x).evq k0 = s.evq k0 := rfl
@[simp] theorem State.setSluUnit_tree (s : State) (u : Nat) (x : SluUnit) (k0 : Nat) :
    (s.setSluUnit u x).tree k0 = s.tree k0 := rfl
@[simp] theorem State.setSluUnit_treeU (s : State) (u : Nat) (x : SluUnit) (k0 : Nat) :
    (s.setSluUnit u x).treeU k0 = s.treeU k0 := rfl
@[simp] theorem State.setSluUnit_slot (s : State) (u : Nat) (x : SluUnit) (k0 : Nat) :
    (s.setSluUnit u x).slot k0 = s.slot k0 := rfl
@[simp] theorem State.setSluUnit_shared (s : State) (u : Nat) (x : SluUnit) (k0 : Nat) :
    (s.setSluUnit u x).shared k0 = s.shared k0 := rfl
@[simp] theorem State.setSluUnit_eng (s : State) (u : Nat) (x : SluUnit) (k0 : Nat) : (s.setSluUnit u x).eng k0 = s.eng k0 := rfl
@[simp] theorem State.setSluUnit_chan (s : State) (u : Nat) (x : SluUnit) (k0 : Nat) :
    (s.setSluUnit u x).chan k0 = s.chan k0 := rfl
@[simp] theorem State.setSluUnit_prot (s : State) (u : Nat) (x : SluUnit) (k0 : Nat) :
    (s.setSluUnit u x).prot k0 = s.prot k0 := rfl
@[simp] theorem State.setSluUnit_link (s : State) (u : Nat) (x : SluUnit) (k0 : Nat) :
    (s.setSluUnit u x).link k0 = s.link k0 := rfl
@[simp] theorem State.setSluUnit_sluUnit_same (s : State) (k0 : Nat) (x : SluUnit) : (s.setSluUnit k0 x).sluUnit k0 = x := by
  simp [State.sluUnit, State.setSluUnit]
theorem State.setSluUnit_sluUnit_other (s : State) {k0 k1 : Nat} (x : SluUnit) (h : k0 ≠ k1) : (s.setSluUnit k0 x).sluUnit k1 = s.sluUnit k1 :=
  smGet_smSet_other _ _ _ _ (fun e => h (Prod.mk.inj e).1)
@[simp] theorem State.setSluUnit_term (s : State) (u : Nat) (x : SluUnit) (k0 j0 : Nat) :
    (s.setSluUnit u x).term k0 j0 = s.term k0 j0 := rfl

/-! ### setEng -/

@[simp] theorem State.setEng_pending (s : State) (e : Nat) (x : Engine) : (s.setEng e x).pending = s.pending := rfl
@[simp] theorem State.setEng_freeCtr (s : State) (e : Nat) (x : Engine) : (s.setEng e x).freeCtr = s.freeCtr := rfl
@[simp] theorem State.setEng_out (s : State) (e : Nat) (x : Engine) : (s.setEng e x).out = s.out := rfl
@[simp] theorem State.setEng_hostMem (s : State) (e : Nat) (x : Engine) : (s.setEng e x).hostMem = s.hostMem := rfl
@[simp] theorem State.setEng_scratch (s : State) (e : Nat) (x : Engine) : (s.setEng e x).scratch = s.scratch := rfl
@[simp] theorem State.setEng_fields (s : State) (e : Nat) (x : Engine) : (s.setEng e x).fields = s.fields := rfl
@[simp] theorem State.setEng_bnd (s : State) (e : Nat) (x : Engine) : (s.setEng e x).bnd = s.bnd := rfl
@[simp] theorem State.setEng_tb (s : State) (e : Nat) (x : Engine) : (s.setEng e x).tb = s.tb := rfl
@[simp] theorem State.setEng_doms (s : State) (e : Nat) (x : Engine) : (s.setEng e x).doms = s.doms := rfl
@[simp] theorem State.setEng_sents (s : State) (e : Nat) (x : Engine) : (s.setEng e x).sents = s.sents := rfl
@[simp] theorem State.setEng_hostSleep (s : State) (e : Nat) (x : Engine) : (s.setEng e x).hostSleep = s.hostSleep := rfl
@[simp] theorem State.setEng_trees (s : State) (e : Nat) (x : Engine) : (s.setEng e x).trees = s.trees := rfl
@[simp] theorem State.setEng_slots (s : State) (e : Nat) (x : Engine) : (s.setEng e x).slots = s.slots := rfl
@[simp] theorem State.setEng_rings (s : State) (e : Nat) (x : Engine) : (s.setEng e x).rings = s.rings := rfl
@[simp] theorem State.setEng_evqs (s : State) (e : Nat) (x : Engine) : (s.setEng e x).evqs = s.evqs := rfl
@[simp] theorem State.setEng_doorbells (s : State) (e : Nat) (x : Engine) : (s.setEng e x).doorbells = s.doorbells := rfl
@[simp] theorem State.setEng_cp (s : State) (e : Nat) (x : Engine) : (s.setEng e x).cp = s.cp := rfl
@[simp] theorem State.setEng_terms (s : State) (e : Nat) (x : Engine) : (s.setEng e x).terms = s.terms := rfl
@[simp] theorem State.setEng_flows (s : State) (e : Nat) (x : Engine) : (s.setEng e x).flows = s.flows := rfl
@[simp] theorem State.setEng_reasms (s : State) (e : Nat) (x : Engine) : (s.setEng e x).reasms = s.reasms := rfl
@[simp] theorem State.setEng_bprofs (s : State) (e : Nat) (x : Engine) : (s.setEng e x).bprofs = s.bprofs := rfl
@[simp] theorem State.setEng_treeUs (s : State) (e : Nat) (x : Engine) : (s.setEng e x).treeUs = s.treeUs := rfl
@[simp] theorem State.setEng_allocs (s : State) (e : Nat) (x : Engine) : (s.setEng e x).allocs = s.allocs := rfl
@[simp] theorem State.setEng_sluTrees (s : State) (e : Nat) (x : Engine) : (s.setEng e x).sluTrees = s.sluTrees := rfl
@[simp] theorem State.setEng_sluUnits (s : State) (e : Nat) (x : Engine) : (s.setEng e x).sluUnits = s.sluUnits := rfl
@[simp] theorem State.setEng_sluShared (s : State) (e : Nat) (x : Engine) : (s.setEng e x).sluShared = s.sluShared := rfl
@[simp] theorem State.setEng_slu (s : State) (e : Nat) (x : Engine) : (s.setEng e x).slu = s.slu := rfl
@[simp] theorem State.setEng_buf (s : State) (e : Nat) (x : Engine) : (s.setEng e x).buf = s.buf := rfl
@[simp] theorem State.setEng_tabs (s : State) (e : Nat) (x : Engine) : (s.setEng e x).tabs = s.tabs := rfl
@[simp] theorem State.setEng_counts (s : State) (e : Nat) (x : Engine) : (s.setEng e x).counts = s.counts := rfl
@[simp] theorem State.setEng_fabLinks (s : State) (e : Nat) (x : Engine) : (s.setEng e x).fabLinks = s.fabLinks := rfl
@[simp] theorem State.setEng_fab (s : State) (e : Nat) (x : Engine) : (s.setEng e x).fab = s.fab := rfl
@[simp] theorem State.setEng_prots (s : State) (e : Nat) (x : Engine) : (s.setEng e x).prots = s.prots := rfl
@[simp] theorem State.setEng_tel (s : State) (e : Nat) (x : Engine) : (s.setEng e x).tel = s.tel := rfl
@[simp] theorem State.setEng_errLog (s : State) (e : Nat) (x : Engine) : (s.setEng e x).errLog = s.errLog := rfl
@[simp] theorem State.setEng_errOvf (s : State) (e : Nat) (x : Engine) : (s.setEng e x).errOvf = s.errOvf := rfl
@[simp] theorem State.setEng_chans (s : State) (e : Nat) (x : Engine) : (s.setEng e x).chans = s.chans := rfl
@[simp] theorem State.setEng_rakeLast (s : State) (e : Nat) (x : Engine) : (s.setEng e x).rakeLast = s.rakeLast := rfl
@[simp] theorem State.setEng_mon (s : State) (e : Nat) (x : Engine) : (s.setEng e x).mon = s.mon := rfl
@[simp] theorem State.setEng_rd (s : State) (e : Nat) (x : Engine) (f0 : Fld) (i0 : Nat) :
    (s.setEng e x).rd f0 i0 = s.rd f0 i0 := rfl
@[simp] theorem State.setEng_flag (s : State) (e : Nat) (x : Engine) (f0 : Fld) (i0 : Nat) :
    (s.setEng e x).flag f0 i0 = s.flag f0 i0 := rfl
@[simp] theorem State.setEng_pw (s : State) (e : Nat) (x : Engine) (d0 : Nat) : (s.setEng e x).pw d0 = s.pw d0 := rfl
@[simp] theorem State.setEng_on (s : State) (e : Nat) (x : Engine) (d0 : Nat) : (s.setEng e x).on d0 = s.on d0 := rfl
@[simp] theorem State.setEng_tstate (s : State) (e : Nat) (x : Engine) (t0 : Nat) : (s.setEng e x).tstate t0 = s.tstate t0 := rfl
@[simp] theorem State.setEng_dom (s : State) (e : Nat) (x : Engine) (k0 : Nat) : (s.setEng e x).dom k0 = s.dom k0 := rfl
@[simp] theorem State.setEng_ring (s : State) (e : Nat) (x : Engine) (k0 : Nat) : (s.setEng e x).ring k0 = s.ring k0 := rfl
@[simp] theorem State.setEng_evq (s : State) (e : Nat) (x : Engine) (k0 : Nat) : (s.setEng e x).evq k0 = s.evq k0 := rfl
@[simp] theorem State.setEng_tree (s : State) (e : Nat) (x : Engine) (k0 : Nat) : (s.setEng e x).tree k0 = s.tree k0 := rfl
@[simp] theorem State.setEng_treeU (s : State) (e : Nat) (x : Engine) (k0 : Nat) : (s.setEng e x).treeU k0 = s.treeU k0 := rfl
@[simp] theorem State.setEng_slot (s : State) (e : Nat) (x : Engine) (k0 : Nat) : (s.setEng e x).slot k0 = s.slot k0 := rfl
@[simp] theorem State.setEng_shared (s : State) (e : Nat) (x : Engine) (k0 : Nat) : (s.setEng e x).shared k0 = s.shared k0 := rfl
@[simp] theorem State.setEng_sluUnit (s : State) (e : Nat) (x : Engine) (k0 : Nat) :
    (s.setEng e x).sluUnit k0 = s.sluUnit k0 := rfl
@[simp] theorem State.setEng_chan (s : State) (e : Nat) (x : Engine) (k0 : Nat) : (s.setEng e x).chan k0 = s.chan k0 := rfl
@[simp] theorem State.setEng_prot (s : State) (e : Nat) (x : Engine) (k0 : Nat) : (s.setEng e x).prot k0 = s.prot k0 := rfl
@[simp] theorem State.setEng_link (s : State) (e : Nat) (x : Engine) (k0 : Nat) : (s.setEng e x).link k0 = s.link k0 := rfl
@[simp] theorem State.setEng_eng_same (s : State) (k0 : Nat) (x : Engine) : (s.setEng k0 x).eng k0 = x := by
  simp [State.eng, State.setEng]
theorem State.setEng_eng_other (s : State) {k0 k1 : Nat} (x : Engine) (h : k0 ≠ k1) : (s.setEng k0 x).eng k1 = s.eng k1 :=
  smGet_smSet_other _ _ _ _ (fun e => h (Prod.mk.inj e).1)
@[simp] theorem State.setEng_term (s : State) (e : Nat) (x : Engine) (k0 j0 : Nat) :
    (s.setEng e x).term k0 j0 = s.term k0 j0 := rfl

/-! ### setChan -/

@[simp] theorem State.setChan_pending (s : State) (c : Nat) (x : RakeChan) : (s.setChan c x).pending = s.pending := rfl
@[simp] theorem State.setChan_freeCtr (s : State) (c : Nat) (x : RakeChan) : (s.setChan c x).freeCtr = s.freeCtr := rfl
@[simp] theorem State.setChan_out (s : State) (c : Nat) (x : RakeChan) : (s.setChan c x).out = s.out := rfl
@[simp] theorem State.setChan_hostMem (s : State) (c : Nat) (x : RakeChan) : (s.setChan c x).hostMem = s.hostMem := rfl
@[simp] theorem State.setChan_scratch (s : State) (c : Nat) (x : RakeChan) : (s.setChan c x).scratch = s.scratch := rfl
@[simp] theorem State.setChan_fields (s : State) (c : Nat) (x : RakeChan) : (s.setChan c x).fields = s.fields := rfl
@[simp] theorem State.setChan_bnd (s : State) (c : Nat) (x : RakeChan) : (s.setChan c x).bnd = s.bnd := rfl
@[simp] theorem State.setChan_tb (s : State) (c : Nat) (x : RakeChan) : (s.setChan c x).tb = s.tb := rfl
@[simp] theorem State.setChan_doms (s : State) (c : Nat) (x : RakeChan) : (s.setChan c x).doms = s.doms := rfl
@[simp] theorem State.setChan_sents (s : State) (c : Nat) (x : RakeChan) : (s.setChan c x).sents = s.sents := rfl
@[simp] theorem State.setChan_hostSleep (s : State) (c : Nat) (x : RakeChan) : (s.setChan c x).hostSleep = s.hostSleep := rfl
@[simp] theorem State.setChan_trees (s : State) (c : Nat) (x : RakeChan) : (s.setChan c x).trees = s.trees := rfl
@[simp] theorem State.setChan_slots (s : State) (c : Nat) (x : RakeChan) : (s.setChan c x).slots = s.slots := rfl
@[simp] theorem State.setChan_rings (s : State) (c : Nat) (x : RakeChan) : (s.setChan c x).rings = s.rings := rfl
@[simp] theorem State.setChan_evqs (s : State) (c : Nat) (x : RakeChan) : (s.setChan c x).evqs = s.evqs := rfl
@[simp] theorem State.setChan_doorbells (s : State) (c : Nat) (x : RakeChan) : (s.setChan c x).doorbells = s.doorbells := rfl
@[simp] theorem State.setChan_cp (s : State) (c : Nat) (x : RakeChan) : (s.setChan c x).cp = s.cp := rfl
@[simp] theorem State.setChan_terms (s : State) (c : Nat) (x : RakeChan) : (s.setChan c x).terms = s.terms := rfl
@[simp] theorem State.setChan_flows (s : State) (c : Nat) (x : RakeChan) : (s.setChan c x).flows = s.flows := rfl
@[simp] theorem State.setChan_reasms (s : State) (c : Nat) (x : RakeChan) : (s.setChan c x).reasms = s.reasms := rfl
@[simp] theorem State.setChan_bprofs (s : State) (c : Nat) (x : RakeChan) : (s.setChan c x).bprofs = s.bprofs := rfl
@[simp] theorem State.setChan_treeUs (s : State) (c : Nat) (x : RakeChan) : (s.setChan c x).treeUs = s.treeUs := rfl
@[simp] theorem State.setChan_allocs (s : State) (c : Nat) (x : RakeChan) : (s.setChan c x).allocs = s.allocs := rfl
@[simp] theorem State.setChan_sluTrees (s : State) (c : Nat) (x : RakeChan) : (s.setChan c x).sluTrees = s.sluTrees := rfl
@[simp] theorem State.setChan_sluUnits (s : State) (c : Nat) (x : RakeChan) : (s.setChan c x).sluUnits = s.sluUnits := rfl
@[simp] theorem State.setChan_sluShared (s : State) (c : Nat) (x : RakeChan) : (s.setChan c x).sluShared = s.sluShared := rfl
@[simp] theorem State.setChan_slu (s : State) (c : Nat) (x : RakeChan) : (s.setChan c x).slu = s.slu := rfl
@[simp] theorem State.setChan_buf (s : State) (c : Nat) (x : RakeChan) : (s.setChan c x).buf = s.buf := rfl
@[simp] theorem State.setChan_tabs (s : State) (c : Nat) (x : RakeChan) : (s.setChan c x).tabs = s.tabs := rfl
@[simp] theorem State.setChan_counts (s : State) (c : Nat) (x : RakeChan) : (s.setChan c x).counts = s.counts := rfl
@[simp] theorem State.setChan_fabLinks (s : State) (c : Nat) (x : RakeChan) : (s.setChan c x).fabLinks = s.fabLinks := rfl
@[simp] theorem State.setChan_fab (s : State) (c : Nat) (x : RakeChan) : (s.setChan c x).fab = s.fab := rfl
@[simp] theorem State.setChan_prots (s : State) (c : Nat) (x : RakeChan) : (s.setChan c x).prots = s.prots := rfl
@[simp] theorem State.setChan_engs (s : State) (c : Nat) (x : RakeChan) : (s.setChan c x).engs = s.engs := rfl
@[simp] theorem State.setChan_tel (s : State) (c : Nat) (x : RakeChan) : (s.setChan c x).tel = s.tel := rfl
@[simp] theorem State.setChan_errLog (s : State) (c : Nat) (x : RakeChan) : (s.setChan c x).errLog = s.errLog := rfl
@[simp] theorem State.setChan_errOvf (s : State) (c : Nat) (x : RakeChan) : (s.setChan c x).errOvf = s.errOvf := rfl
@[simp] theorem State.setChan_rakeLast (s : State) (c : Nat) (x : RakeChan) : (s.setChan c x).rakeLast = s.rakeLast := rfl
@[simp] theorem State.setChan_mon (s : State) (c : Nat) (x : RakeChan) : (s.setChan c x).mon = s.mon := rfl
@[simp] theorem State.setChan_rd (s : State) (c : Nat) (x : RakeChan) (f0 : Fld) (i0 : Nat) :
    (s.setChan c x).rd f0 i0 = s.rd f0 i0 := rfl
@[simp] theorem State.setChan_flag (s : State) (c : Nat) (x : RakeChan) (f0 : Fld) (i0 : Nat) :
    (s.setChan c x).flag f0 i0 = s.flag f0 i0 := rfl
@[simp] theorem State.setChan_pw (s : State) (c : Nat) (x : RakeChan) (d0 : Nat) : (s.setChan c x).pw d0 = s.pw d0 := rfl
@[simp] theorem State.setChan_on (s : State) (c : Nat) (x : RakeChan) (d0 : Nat) : (s.setChan c x).on d0 = s.on d0 := rfl
@[simp] theorem State.setChan_tstate (s : State) (c : Nat) (x : RakeChan) (t0 : Nat) :
    (s.setChan c x).tstate t0 = s.tstate t0 := rfl
@[simp] theorem State.setChan_dom (s : State) (c : Nat) (x : RakeChan) (k0 : Nat) : (s.setChan c x).dom k0 = s.dom k0 := rfl
@[simp] theorem State.setChan_ring (s : State) (c : Nat) (x : RakeChan) (k0 : Nat) : (s.setChan c x).ring k0 = s.ring k0 := rfl
@[simp] theorem State.setChan_evq (s : State) (c : Nat) (x : RakeChan) (k0 : Nat) : (s.setChan c x).evq k0 = s.evq k0 := rfl
@[simp] theorem State.setChan_tree (s : State) (c : Nat) (x : RakeChan) (k0 : Nat) : (s.setChan c x).tree k0 = s.tree k0 := rfl
@[simp] theorem State.setChan_treeU (s : State) (c : Nat) (x : RakeChan) (k0 : Nat) : (s.setChan c x).treeU k0 = s.treeU k0 := rfl
@[simp] theorem State.setChan_slot (s : State) (c : Nat) (x : RakeChan) (k0 : Nat) : (s.setChan c x).slot k0 = s.slot k0 := rfl
@[simp] theorem State.setChan_shared (s : State) (c : Nat) (x : RakeChan) (k0 : Nat) :
    (s.setChan c x).shared k0 = s.shared k0 := rfl
@[simp] theorem State.setChan_sluUnit (s : State) (c : Nat) (x : RakeChan) (k0 : Nat) :
    (s.setChan c x).sluUnit k0 = s.sluUnit k0 := rfl
@[simp] theorem State.setChan_eng (s : State) (c : Nat) (x : RakeChan) (k0 : Nat) : (s.setChan c x).eng k0 = s.eng k0 := rfl
@[simp] theorem State.setChan_prot (s : State) (c : Nat) (x : RakeChan) (k0 : Nat) : (s.setChan c x).prot k0 = s.prot k0 := rfl
@[simp] theorem State.setChan_link (s : State) (c : Nat) (x : RakeChan) (k0 : Nat) : (s.setChan c x).link k0 = s.link k0 := rfl
@[simp] theorem State.setChan_chan_same (s : State) (k0 : Nat) (x : RakeChan) : (s.setChan k0 x).chan k0 = x := by
  simp [State.chan, State.setChan]
theorem State.setChan_chan_other (s : State) {k0 k1 : Nat} (x : RakeChan) (h : k0 ≠ k1) : (s.setChan k0 x).chan k1 = s.chan k1 :=
  smGet_smSet_other _ _ _ _ (fun e => h (Prod.mk.inj e).1)
@[simp] theorem State.setChan_term (s : State) (c : Nat) (x : RakeChan) (k0 j0 : Nat) :
    (s.setChan c x).term k0 j0 = s.term k0 j0 := rfl

/-! ### setProt -/

@[simp] theorem State.setProt_pending (s : State) (k : Nat) (x : ProtTree) : (s.setProt k x).pending = s.pending := rfl
@[simp] theorem State.setProt_freeCtr (s : State) (k : Nat) (x : ProtTree) : (s.setProt k x).freeCtr = s.freeCtr := rfl
@[simp] theorem State.setProt_out (s : State) (k : Nat) (x : ProtTree) : (s.setProt k x).out = s.out := rfl
@[simp] theorem State.setProt_hostMem (s : State) (k : Nat) (x : ProtTree) : (s.setProt k x).hostMem = s.hostMem := rfl
@[simp] theorem State.setProt_scratch (s : State) (k : Nat) (x : ProtTree) : (s.setProt k x).scratch = s.scratch := rfl
@[simp] theorem State.setProt_fields (s : State) (k : Nat) (x : ProtTree) : (s.setProt k x).fields = s.fields := rfl
@[simp] theorem State.setProt_bnd (s : State) (k : Nat) (x : ProtTree) : (s.setProt k x).bnd = s.bnd := rfl
@[simp] theorem State.setProt_tb (s : State) (k : Nat) (x : ProtTree) : (s.setProt k x).tb = s.tb := rfl
@[simp] theorem State.setProt_doms (s : State) (k : Nat) (x : ProtTree) : (s.setProt k x).doms = s.doms := rfl
@[simp] theorem State.setProt_sents (s : State) (k : Nat) (x : ProtTree) : (s.setProt k x).sents = s.sents := rfl
@[simp] theorem State.setProt_hostSleep (s : State) (k : Nat) (x : ProtTree) : (s.setProt k x).hostSleep = s.hostSleep := rfl
@[simp] theorem State.setProt_trees (s : State) (k : Nat) (x : ProtTree) : (s.setProt k x).trees = s.trees := rfl
@[simp] theorem State.setProt_slots (s : State) (k : Nat) (x : ProtTree) : (s.setProt k x).slots = s.slots := rfl
@[simp] theorem State.setProt_rings (s : State) (k : Nat) (x : ProtTree) : (s.setProt k x).rings = s.rings := rfl
@[simp] theorem State.setProt_evqs (s : State) (k : Nat) (x : ProtTree) : (s.setProt k x).evqs = s.evqs := rfl
@[simp] theorem State.setProt_doorbells (s : State) (k : Nat) (x : ProtTree) : (s.setProt k x).doorbells = s.doorbells := rfl
@[simp] theorem State.setProt_cp (s : State) (k : Nat) (x : ProtTree) : (s.setProt k x).cp = s.cp := rfl
@[simp] theorem State.setProt_terms (s : State) (k : Nat) (x : ProtTree) : (s.setProt k x).terms = s.terms := rfl
@[simp] theorem State.setProt_flows (s : State) (k : Nat) (x : ProtTree) : (s.setProt k x).flows = s.flows := rfl
@[simp] theorem State.setProt_reasms (s : State) (k : Nat) (x : ProtTree) : (s.setProt k x).reasms = s.reasms := rfl
@[simp] theorem State.setProt_bprofs (s : State) (k : Nat) (x : ProtTree) : (s.setProt k x).bprofs = s.bprofs := rfl
@[simp] theorem State.setProt_treeUs (s : State) (k : Nat) (x : ProtTree) : (s.setProt k x).treeUs = s.treeUs := rfl
@[simp] theorem State.setProt_allocs (s : State) (k : Nat) (x : ProtTree) : (s.setProt k x).allocs = s.allocs := rfl
@[simp] theorem State.setProt_sluTrees (s : State) (k : Nat) (x : ProtTree) : (s.setProt k x).sluTrees = s.sluTrees := rfl
@[simp] theorem State.setProt_sluUnits (s : State) (k : Nat) (x : ProtTree) : (s.setProt k x).sluUnits = s.sluUnits := rfl
@[simp] theorem State.setProt_sluShared (s : State) (k : Nat) (x : ProtTree) : (s.setProt k x).sluShared = s.sluShared := rfl
@[simp] theorem State.setProt_slu (s : State) (k : Nat) (x : ProtTree) : (s.setProt k x).slu = s.slu := rfl
@[simp] theorem State.setProt_buf (s : State) (k : Nat) (x : ProtTree) : (s.setProt k x).buf = s.buf := rfl
@[simp] theorem State.setProt_tabs (s : State) (k : Nat) (x : ProtTree) : (s.setProt k x).tabs = s.tabs := rfl
@[simp] theorem State.setProt_counts (s : State) (k : Nat) (x : ProtTree) : (s.setProt k x).counts = s.counts := rfl
@[simp] theorem State.setProt_fabLinks (s : State) (k : Nat) (x : ProtTree) : (s.setProt k x).fabLinks = s.fabLinks := rfl
@[simp] theorem State.setProt_fab (s : State) (k : Nat) (x : ProtTree) : (s.setProt k x).fab = s.fab := rfl
@[simp] theorem State.setProt_engs (s : State) (k : Nat) (x : ProtTree) : (s.setProt k x).engs = s.engs := rfl
@[simp] theorem State.setProt_tel (s : State) (k : Nat) (x : ProtTree) : (s.setProt k x).tel = s.tel := rfl
@[simp] theorem State.setProt_errLog (s : State) (k : Nat) (x : ProtTree) : (s.setProt k x).errLog = s.errLog := rfl
@[simp] theorem State.setProt_errOvf (s : State) (k : Nat) (x : ProtTree) : (s.setProt k x).errOvf = s.errOvf := rfl
@[simp] theorem State.setProt_chans (s : State) (k : Nat) (x : ProtTree) : (s.setProt k x).chans = s.chans := rfl
@[simp] theorem State.setProt_rakeLast (s : State) (k : Nat) (x : ProtTree) : (s.setProt k x).rakeLast = s.rakeLast := rfl
@[simp] theorem State.setProt_mon (s : State) (k : Nat) (x : ProtTree) : (s.setProt k x).mon = s.mon := rfl
@[simp] theorem State.setProt_rd (s : State) (k : Nat) (x : ProtTree) (f0 : Fld) (i0 : Nat) :
    (s.setProt k x).rd f0 i0 = s.rd f0 i0 := rfl
@[simp] theorem State.setProt_flag (s : State) (k : Nat) (x : ProtTree) (f0 : Fld) (i0 : Nat) :
    (s.setProt k x).flag f0 i0 = s.flag f0 i0 := rfl
@[simp] theorem State.setProt_pw (s : State) (k : Nat) (x : ProtTree) (d0 : Nat) : (s.setProt k x).pw d0 = s.pw d0 := rfl
@[simp] theorem State.setProt_on (s : State) (k : Nat) (x : ProtTree) (d0 : Nat) : (s.setProt k x).on d0 = s.on d0 := rfl
@[simp] theorem State.setProt_tstate (s : State) (k : Nat) (x : ProtTree) (t0 : Nat) :
    (s.setProt k x).tstate t0 = s.tstate t0 := rfl
@[simp] theorem State.setProt_dom (s : State) (k : Nat) (x : ProtTree) (k0 : Nat) : (s.setProt k x).dom k0 = s.dom k0 := rfl
@[simp] theorem State.setProt_ring (s : State) (k : Nat) (x : ProtTree) (k0 : Nat) : (s.setProt k x).ring k0 = s.ring k0 := rfl
@[simp] theorem State.setProt_evq (s : State) (k : Nat) (x : ProtTree) (k0 : Nat) : (s.setProt k x).evq k0 = s.evq k0 := rfl
@[simp] theorem State.setProt_tree (s : State) (k : Nat) (x : ProtTree) (k0 : Nat) : (s.setProt k x).tree k0 = s.tree k0 := rfl
@[simp] theorem State.setProt_treeU (s : State) (k : Nat) (x : ProtTree) (k0 : Nat) : (s.setProt k x).treeU k0 = s.treeU k0 := rfl
@[simp] theorem State.setProt_slot (s : State) (k : Nat) (x : ProtTree) (k0 : Nat) : (s.setProt k x).slot k0 = s.slot k0 := rfl
@[simp] theorem State.setProt_shared (s : State) (k : Nat) (x : ProtTree) (k0 : Nat) :
    (s.setProt k x).shared k0 = s.shared k0 := rfl
@[simp] theorem State.setProt_sluUnit (s : State) (k : Nat) (x : ProtTree) (k0 : Nat) :
    (s.setProt k x).sluUnit k0 = s.sluUnit k0 := rfl
@[simp] theorem State.setProt_eng (s : State) (k : Nat) (x : ProtTree) (k0 : Nat) : (s.setProt k x).eng k0 = s.eng k0 := rfl
@[simp] theorem State.setProt_chan (s : State) (k : Nat) (x : ProtTree) (k0 : Nat) : (s.setProt k x).chan k0 = s.chan k0 := rfl
@[simp] theorem State.setProt_link (s : State) (k : Nat) (x : ProtTree) (k0 : Nat) : (s.setProt k x).link k0 = s.link k0 := rfl
@[simp] theorem State.setProt_prot_same (s : State) (k0 : Nat) (x : ProtTree) : (s.setProt k0 x).prot k0 = x := by
  simp [State.prot, State.setProt]
theorem State.setProt_prot_other (s : State) {k0 k1 : Nat} (x : ProtTree) (h : k0 ≠ k1) : (s.setProt k0 x).prot k1 = s.prot k1 :=
  smGet_smSet_other _ _ _ _ (fun e => h (Prod.mk.inj e).1)
@[simp] theorem State.setProt_term (s : State) (k : Nat) (x : ProtTree) (k0 j0 : Nat) :
    (s.setProt k x).term k0 j0 = s.term k0 j0 := rfl

/-! ### setLink -/

@[simp] theorem State.setLink_pending (s : State) (n : Nat) (x : FabLink) : (s.setLink n x).pending = s.pending := rfl
@[simp] theorem State.setLink_freeCtr (s : State) (n : Nat) (x : FabLink) : (s.setLink n x).freeCtr = s.freeCtr := rfl
@[simp] theorem State.setLink_out (s : State) (n : Nat) (x : FabLink) : (s.setLink n x).out = s.out := rfl
@[simp] theorem State.setLink_hostMem (s : State) (n : Nat) (x : FabLink) : (s.setLink n x).hostMem = s.hostMem := rfl
@[simp] theorem State.setLink_scratch (s : State) (n : Nat) (x : FabLink) : (s.setLink n x).scratch = s.scratch := rfl
@[simp] theorem State.setLink_fields (s : State) (n : Nat) (x : FabLink) : (s.setLink n x).fields = s.fields := rfl
@[simp] theorem State.setLink_bnd (s : State) (n : Nat) (x : FabLink) : (s.setLink n x).bnd = s.bnd := rfl
@[simp] theorem State.setLink_tb (s : State) (n : Nat) (x : FabLink) : (s.setLink n x).tb = s.tb := rfl
@[simp] theorem State.setLink_doms (s : State) (n : Nat) (x : FabLink) : (s.setLink n x).doms = s.doms := rfl
@[simp] theorem State.setLink_sents (s : State) (n : Nat) (x : FabLink) : (s.setLink n x).sents = s.sents := rfl
@[simp] theorem State.setLink_hostSleep (s : State) (n : Nat) (x : FabLink) : (s.setLink n x).hostSleep = s.hostSleep := rfl
@[simp] theorem State.setLink_trees (s : State) (n : Nat) (x : FabLink) : (s.setLink n x).trees = s.trees := rfl
@[simp] theorem State.setLink_slots (s : State) (n : Nat) (x : FabLink) : (s.setLink n x).slots = s.slots := rfl
@[simp] theorem State.setLink_rings (s : State) (n : Nat) (x : FabLink) : (s.setLink n x).rings = s.rings := rfl
@[simp] theorem State.setLink_evqs (s : State) (n : Nat) (x : FabLink) : (s.setLink n x).evqs = s.evqs := rfl
@[simp] theorem State.setLink_doorbells (s : State) (n : Nat) (x : FabLink) : (s.setLink n x).doorbells = s.doorbells := rfl
@[simp] theorem State.setLink_cp (s : State) (n : Nat) (x : FabLink) : (s.setLink n x).cp = s.cp := rfl
@[simp] theorem State.setLink_terms (s : State) (n : Nat) (x : FabLink) : (s.setLink n x).terms = s.terms := rfl
@[simp] theorem State.setLink_flows (s : State) (n : Nat) (x : FabLink) : (s.setLink n x).flows = s.flows := rfl
@[simp] theorem State.setLink_reasms (s : State) (n : Nat) (x : FabLink) : (s.setLink n x).reasms = s.reasms := rfl
@[simp] theorem State.setLink_bprofs (s : State) (n : Nat) (x : FabLink) : (s.setLink n x).bprofs = s.bprofs := rfl
@[simp] theorem State.setLink_treeUs (s : State) (n : Nat) (x : FabLink) : (s.setLink n x).treeUs = s.treeUs := rfl
@[simp] theorem State.setLink_allocs (s : State) (n : Nat) (x : FabLink) : (s.setLink n x).allocs = s.allocs := rfl
@[simp] theorem State.setLink_sluTrees (s : State) (n : Nat) (x : FabLink) : (s.setLink n x).sluTrees = s.sluTrees := rfl
@[simp] theorem State.setLink_sluUnits (s : State) (n : Nat) (x : FabLink) : (s.setLink n x).sluUnits = s.sluUnits := rfl
@[simp] theorem State.setLink_sluShared (s : State) (n : Nat) (x : FabLink) : (s.setLink n x).sluShared = s.sluShared := rfl
@[simp] theorem State.setLink_slu (s : State) (n : Nat) (x : FabLink) : (s.setLink n x).slu = s.slu := rfl
@[simp] theorem State.setLink_buf (s : State) (n : Nat) (x : FabLink) : (s.setLink n x).buf = s.buf := rfl
@[simp] theorem State.setLink_tabs (s : State) (n : Nat) (x : FabLink) : (s.setLink n x).tabs = s.tabs := rfl
@[simp] theorem State.setLink_counts (s : State) (n : Nat) (x : FabLink) : (s.setLink n x).counts = s.counts := rfl
@[simp] theorem State.setLink_fab (s : State) (n : Nat) (x : FabLink) : (s.setLink n x).fab = s.fab := rfl
@[simp] theorem State.setLink_prots (s : State) (n : Nat) (x : FabLink) : (s.setLink n x).prots = s.prots := rfl
@[simp] theorem State.setLink_engs (s : State) (n : Nat) (x : FabLink) : (s.setLink n x).engs = s.engs := rfl
@[simp] theorem State.setLink_tel (s : State) (n : Nat) (x : FabLink) : (s.setLink n x).tel = s.tel := rfl
@[simp] theorem State.setLink_errLog (s : State) (n : Nat) (x : FabLink) : (s.setLink n x).errLog = s.errLog := rfl
@[simp] theorem State.setLink_errOvf (s : State) (n : Nat) (x : FabLink) : (s.setLink n x).errOvf = s.errOvf := rfl
@[simp] theorem State.setLink_chans (s : State) (n : Nat) (x : FabLink) : (s.setLink n x).chans = s.chans := rfl
@[simp] theorem State.setLink_rakeLast (s : State) (n : Nat) (x : FabLink) : (s.setLink n x).rakeLast = s.rakeLast := rfl
@[simp] theorem State.setLink_mon (s : State) (n : Nat) (x : FabLink) : (s.setLink n x).mon = s.mon := rfl
@[simp] theorem State.setLink_rd (s : State) (n : Nat) (x : FabLink) (f0 : Fld) (i0 : Nat) :
    (s.setLink n x).rd f0 i0 = s.rd f0 i0 := rfl
@[simp] theorem State.setLink_flag (s : State) (n : Nat) (x : FabLink) (f0 : Fld) (i0 : Nat) :
    (s.setLink n x).flag f0 i0 = s.flag f0 i0 := rfl
@[simp] theorem State.setLink_pw (s : State) (n : Nat) (x : FabLink) (d0 : Nat) : (s.setLink n x).pw d0 = s.pw d0 := rfl
@[simp] theorem State.setLink_on (s : State) (n : Nat) (x : FabLink) (d0 : Nat) : (s.setLink n x).on d0 = s.on d0 := rfl
@[simp] theorem State.setLink_tstate (s : State) (n : Nat) (x : FabLink) (t0 : Nat) :
    (s.setLink n x).tstate t0 = s.tstate t0 := rfl
@[simp] theorem State.setLink_dom (s : State) (n : Nat) (x : FabLink) (k0 : Nat) : (s.setLink n x).dom k0 = s.dom k0 := rfl
@[simp] theorem State.setLink_ring (s : State) (n : Nat) (x : FabLink) (k0 : Nat) : (s.setLink n x).ring k0 = s.ring k0 := rfl
@[simp] theorem State.setLink_evq (s : State) (n : Nat) (x : FabLink) (k0 : Nat) : (s.setLink n x).evq k0 = s.evq k0 := rfl
@[simp] theorem State.setLink_tree (s : State) (n : Nat) (x : FabLink) (k0 : Nat) : (s.setLink n x).tree k0 = s.tree k0 := rfl
@[simp] theorem State.setLink_treeU (s : State) (n : Nat) (x : FabLink) (k0 : Nat) : (s.setLink n x).treeU k0 = s.treeU k0 := rfl
@[simp] theorem State.setLink_slot (s : State) (n : Nat) (x : FabLink) (k0 : Nat) : (s.setLink n x).slot k0 = s.slot k0 := rfl
@[simp] theorem State.setLink_shared (s : State) (n : Nat) (x : FabLink) (k0 : Nat) :
    (s.setLink n x).shared k0 = s.shared k0 := rfl
@[simp] theorem State.setLink_sluUnit (s : State) (n : Nat) (x : FabLink) (k0 : Nat) :
    (s.setLink n x).sluUnit k0 = s.sluUnit k0 := rfl
@[simp] theorem State.setLink_eng (s : State) (n : Nat) (x : FabLink) (k0 : Nat) : (s.setLink n x).eng k0 = s.eng k0 := rfl
@[simp] theorem State.setLink_chan (s : State) (n : Nat) (x : FabLink) (k0 : Nat) : (s.setLink n x).chan k0 = s.chan k0 := rfl
@[simp] theorem State.setLink_prot (s : State) (n : Nat) (x : FabLink) (k0 : Nat) : (s.setLink n x).prot k0 = s.prot k0 := rfl
@[simp] theorem State.setLink_link_same (s : State) (k0 : Nat) (x : FabLink) : (s.setLink k0 x).link k0 = x := by
  simp [State.link, State.setLink]
theorem State.setLink_link_other (s : State) {k0 k1 : Nat} (x : FabLink) (h : k0 ≠ k1) : (s.setLink k0 x).link k1 = s.link k1 :=
  smGet_smSet_other _ _ _ _ (fun e => h (Prod.mk.inj e).1)
@[simp] theorem State.setLink_term (s : State) (n : Nat) (x : FabLink) (k0 j0 : Nat) :
    (s.setLink n x).term k0 j0 = s.term k0 j0 := rfl

/-! ### setBuf -/

@[simp] theorem State.setBuf_pending (s : State) (g : Buffers → Buffers) : (s.setBuf g).pending = s.pending := rfl
@[simp] theorem State.setBuf_freeCtr (s : State) (g : Buffers → Buffers) : (s.setBuf g).freeCtr = s.freeCtr := rfl
@[simp] theorem State.setBuf_out (s : State) (g : Buffers → Buffers) : (s.setBuf g).out = s.out := rfl
@[simp] theorem State.setBuf_hostMem (s : State) (g : Buffers → Buffers) : (s.setBuf g).hostMem = s.hostMem := rfl
@[simp] theorem State.setBuf_scratch (s : State) (g : Buffers → Buffers) : (s.setBuf g).scratch = s.scratch := rfl
@[simp] theorem State.setBuf_fields (s : State) (g : Buffers → Buffers) : (s.setBuf g).fields = s.fields := rfl
@[simp] theorem State.setBuf_bnd (s : State) (g : Buffers → Buffers) : (s.setBuf g).bnd = s.bnd := rfl
@[simp] theorem State.setBuf_tb (s : State) (g : Buffers → Buffers) : (s.setBuf g).tb = s.tb := rfl
@[simp] theorem State.setBuf_doms (s : State) (g : Buffers → Buffers) : (s.setBuf g).doms = s.doms := rfl
@[simp] theorem State.setBuf_sents (s : State) (g : Buffers → Buffers) : (s.setBuf g).sents = s.sents := rfl
@[simp] theorem State.setBuf_hostSleep (s : State) (g : Buffers → Buffers) : (s.setBuf g).hostSleep = s.hostSleep := rfl
@[simp] theorem State.setBuf_trees (s : State) (g : Buffers → Buffers) : (s.setBuf g).trees = s.trees := rfl
@[simp] theorem State.setBuf_slots (s : State) (g : Buffers → Buffers) : (s.setBuf g).slots = s.slots := rfl
@[simp] theorem State.setBuf_rings (s : State) (g : Buffers → Buffers) : (s.setBuf g).rings = s.rings := rfl
@[simp] theorem State.setBuf_evqs (s : State) (g : Buffers → Buffers) : (s.setBuf g).evqs = s.evqs := rfl
@[simp] theorem State.setBuf_doorbells (s : State) (g : Buffers → Buffers) : (s.setBuf g).doorbells = s.doorbells := rfl
@[simp] theorem State.setBuf_cp (s : State) (g : Buffers → Buffers) : (s.setBuf g).cp = s.cp := rfl
@[simp] theorem State.setBuf_terms (s : State) (g : Buffers → Buffers) : (s.setBuf g).terms = s.terms := rfl
@[simp] theorem State.setBuf_flows (s : State) (g : Buffers → Buffers) : (s.setBuf g).flows = s.flows := rfl
@[simp] theorem State.setBuf_reasms (s : State) (g : Buffers → Buffers) : (s.setBuf g).reasms = s.reasms := rfl
@[simp] theorem State.setBuf_bprofs (s : State) (g : Buffers → Buffers) : (s.setBuf g).bprofs = s.bprofs := rfl
@[simp] theorem State.setBuf_treeUs (s : State) (g : Buffers → Buffers) : (s.setBuf g).treeUs = s.treeUs := rfl
@[simp] theorem State.setBuf_allocs (s : State) (g : Buffers → Buffers) : (s.setBuf g).allocs = s.allocs := rfl
@[simp] theorem State.setBuf_sluTrees (s : State) (g : Buffers → Buffers) : (s.setBuf g).sluTrees = s.sluTrees := rfl
@[simp] theorem State.setBuf_sluUnits (s : State) (g : Buffers → Buffers) : (s.setBuf g).sluUnits = s.sluUnits := rfl
@[simp] theorem State.setBuf_sluShared (s : State) (g : Buffers → Buffers) : (s.setBuf g).sluShared = s.sluShared := rfl
@[simp] theorem State.setBuf_slu (s : State) (g : Buffers → Buffers) : (s.setBuf g).slu = s.slu := rfl
@[simp] theorem State.setBuf_tabs (s : State) (g : Buffers → Buffers) : (s.setBuf g).tabs = s.tabs := rfl
@[simp] theorem State.setBuf_counts (s : State) (g : Buffers → Buffers) : (s.setBuf g).counts = s.counts := rfl
@[simp] theorem State.setBuf_fabLinks (s : State) (g : Buffers → Buffers) : (s.setBuf g).fabLinks = s.fabLinks := rfl
@[simp] theorem State.setBuf_fab (s : State) (g : Buffers → Buffers) : (s.setBuf g).fab = s.fab := rfl
@[simp] theorem State.setBuf_prots (s : State) (g : Buffers → Buffers) : (s.setBuf g).prots = s.prots := rfl
@[simp] theorem State.setBuf_engs (s : State) (g : Buffers → Buffers) : (s.setBuf g).engs = s.engs := rfl
@[simp] theorem State.setBuf_tel (s : State) (g : Buffers → Buffers) : (s.setBuf g).tel = s.tel := rfl
@[simp] theorem State.setBuf_errLog (s : State) (g : Buffers → Buffers) : (s.setBuf g).errLog = s.errLog := rfl
@[simp] theorem State.setBuf_errOvf (s : State) (g : Buffers → Buffers) : (s.setBuf g).errOvf = s.errOvf := rfl
@[simp] theorem State.setBuf_chans (s : State) (g : Buffers → Buffers) : (s.setBuf g).chans = s.chans := rfl
@[simp] theorem State.setBuf_rakeLast (s : State) (g : Buffers → Buffers) : (s.setBuf g).rakeLast = s.rakeLast := rfl
@[simp] theorem State.setBuf_mon (s : State) (g : Buffers → Buffers) : (s.setBuf g).mon = s.mon := rfl
@[simp] theorem State.setBuf_rd (s : State) (g : Buffers → Buffers) (f0 : Fld) (i0 : Nat) :
    (s.setBuf g).rd f0 i0 = s.rd f0 i0 := rfl
@[simp] theorem State.setBuf_flag (s : State) (g : Buffers → Buffers) (f0 : Fld) (i0 : Nat) :
    (s.setBuf g).flag f0 i0 = s.flag f0 i0 := rfl
@[simp] theorem State.setBuf_pw (s : State) (g : Buffers → Buffers) (d0 : Nat) : (s.setBuf g).pw d0 = s.pw d0 := rfl
@[simp] theorem State.setBuf_on (s : State) (g : Buffers → Buffers) (d0 : Nat) : (s.setBuf g).on d0 = s.on d0 := rfl
@[simp] theorem State.setBuf_tstate (s : State) (g : Buffers → Buffers) (t0 : Nat) : (s.setBuf g).tstate t0 = s.tstate t0 := rfl
@[simp] theorem State.setBuf_dom (s : State) (g : Buffers → Buffers) (k0 : Nat) : (s.setBuf g).dom k0 = s.dom k0 := rfl
@[simp] theorem State.setBuf_ring (s : State) (g : Buffers → Buffers) (k0 : Nat) : (s.setBuf g).ring k0 = s.ring k0 := rfl
@[simp] theorem State.setBuf_evq (s : State) (g : Buffers → Buffers) (k0 : Nat) : (s.setBuf g).evq k0 = s.evq k0 := rfl
@[simp] theorem State.setBuf_tree (s : State) (g : Buffers → Buffers) (k0 : Nat) : (s.setBuf g).tree k0 = s.tree k0 := rfl
@[simp] theorem State.setBuf_treeU (s : State) (g : Buffers → Buffers) (k0 : Nat) : (s.setBuf g).treeU k0 = s.treeU k0 := rfl
@[simp] theorem State.setBuf_slot (s : State) (g : Buffers → Buffers) (k0 : Nat) : (s.setBuf g).slot k0 = s.slot k0 := rfl
@[simp] theorem State.setBuf_shared (s : State) (g : Buffers → Buffers) (k0 : Nat) : (s.setBuf g).shared k0 = s.shared k0 := rfl
@[simp] theorem State.setBuf_sluUnit (s : State) (g : Buffers → Buffers) (k0 : Nat) :
    (s.setBuf g).sluUnit k0 = s.sluUnit k0 := rfl
@[simp] theorem State.setBuf_eng (s : State) (g : Buffers → Buffers) (k0 : Nat) : (s.setBuf g).eng k0 = s.eng k0 := rfl
@[simp] theorem State.setBuf_chan (s : State) (g : Buffers → Buffers) (k0 : Nat) : (s.setBuf g).chan k0 = s.chan k0 := rfl
@[simp] theorem State.setBuf_prot (s : State) (g : Buffers → Buffers) (k0 : Nat) : (s.setBuf g).prot k0 = s.prot k0 := rfl
@[simp] theorem State.setBuf_link (s : State) (g : Buffers → Buffers) (k0 : Nat) : (s.setBuf g).link k0 = s.link k0 := rfl
@[simp] theorem State.setBuf_term (s : State) (g : Buffers → Buffers) (k0 j0 : Nat) :
    (s.setBuf g).term k0 j0 = s.term k0 j0 := rfl

/-! ### setTabs -/

@[simp] theorem State.setTabs_pending (s : State) (g : Tables → Tables) : (s.setTabs g).pending = s.pending := rfl
@[simp] theorem State.setTabs_freeCtr (s : State) (g : Tables → Tables) : (s.setTabs g).freeCtr = s.freeCtr := rfl
@[simp] theorem State.setTabs_out (s : State) (g : Tables → Tables) : (s.setTabs g).out = s.out := rfl
@[simp] theorem State.setTabs_hostMem (s : State) (g : Tables → Tables) : (s.setTabs g).hostMem = s.hostMem := rfl
@[simp] theorem State.setTabs_scratch (s : State) (g : Tables → Tables) : (s.setTabs g).scratch = s.scratch := rfl
@[simp] theorem State.setTabs_fields (s : State) (g : Tables → Tables) : (s.setTabs g).fields = s.fields := rfl
@[simp] theorem State.setTabs_bnd (s : State) (g : Tables → Tables) : (s.setTabs g).bnd = s.bnd := rfl
@[simp] theorem State.setTabs_tb (s : State) (g : Tables → Tables) : (s.setTabs g).tb = s.tb := rfl
@[simp] theorem State.setTabs_doms (s : State) (g : Tables → Tables) : (s.setTabs g).doms = s.doms := rfl
@[simp] theorem State.setTabs_sents (s : State) (g : Tables → Tables) : (s.setTabs g).sents = s.sents := rfl
@[simp] theorem State.setTabs_hostSleep (s : State) (g : Tables → Tables) : (s.setTabs g).hostSleep = s.hostSleep := rfl
@[simp] theorem State.setTabs_trees (s : State) (g : Tables → Tables) : (s.setTabs g).trees = s.trees := rfl
@[simp] theorem State.setTabs_slots (s : State) (g : Tables → Tables) : (s.setTabs g).slots = s.slots := rfl
@[simp] theorem State.setTabs_rings (s : State) (g : Tables → Tables) : (s.setTabs g).rings = s.rings := rfl
@[simp] theorem State.setTabs_evqs (s : State) (g : Tables → Tables) : (s.setTabs g).evqs = s.evqs := rfl
@[simp] theorem State.setTabs_doorbells (s : State) (g : Tables → Tables) : (s.setTabs g).doorbells = s.doorbells := rfl
@[simp] theorem State.setTabs_cp (s : State) (g : Tables → Tables) : (s.setTabs g).cp = s.cp := rfl
@[simp] theorem State.setTabs_terms (s : State) (g : Tables → Tables) : (s.setTabs g).terms = s.terms := rfl
@[simp] theorem State.setTabs_flows (s : State) (g : Tables → Tables) : (s.setTabs g).flows = s.flows := rfl
@[simp] theorem State.setTabs_reasms (s : State) (g : Tables → Tables) : (s.setTabs g).reasms = s.reasms := rfl
@[simp] theorem State.setTabs_bprofs (s : State) (g : Tables → Tables) : (s.setTabs g).bprofs = s.bprofs := rfl
@[simp] theorem State.setTabs_treeUs (s : State) (g : Tables → Tables) : (s.setTabs g).treeUs = s.treeUs := rfl
@[simp] theorem State.setTabs_allocs (s : State) (g : Tables → Tables) : (s.setTabs g).allocs = s.allocs := rfl
@[simp] theorem State.setTabs_sluTrees (s : State) (g : Tables → Tables) : (s.setTabs g).sluTrees = s.sluTrees := rfl
@[simp] theorem State.setTabs_sluUnits (s : State) (g : Tables → Tables) : (s.setTabs g).sluUnits = s.sluUnits := rfl
@[simp] theorem State.setTabs_sluShared (s : State) (g : Tables → Tables) : (s.setTabs g).sluShared = s.sluShared := rfl
@[simp] theorem State.setTabs_slu (s : State) (g : Tables → Tables) : (s.setTabs g).slu = s.slu := rfl
@[simp] theorem State.setTabs_buf (s : State) (g : Tables → Tables) : (s.setTabs g).buf = s.buf := rfl
@[simp] theorem State.setTabs_counts (s : State) (g : Tables → Tables) : (s.setTabs g).counts = s.counts := rfl
@[simp] theorem State.setTabs_fabLinks (s : State) (g : Tables → Tables) : (s.setTabs g).fabLinks = s.fabLinks := rfl
@[simp] theorem State.setTabs_fab (s : State) (g : Tables → Tables) : (s.setTabs g).fab = s.fab := rfl
@[simp] theorem State.setTabs_prots (s : State) (g : Tables → Tables) : (s.setTabs g).prots = s.prots := rfl
@[simp] theorem State.setTabs_engs (s : State) (g : Tables → Tables) : (s.setTabs g).engs = s.engs := rfl
@[simp] theorem State.setTabs_tel (s : State) (g : Tables → Tables) : (s.setTabs g).tel = s.tel := rfl
@[simp] theorem State.setTabs_errLog (s : State) (g : Tables → Tables) : (s.setTabs g).errLog = s.errLog := rfl
@[simp] theorem State.setTabs_errOvf (s : State) (g : Tables → Tables) : (s.setTabs g).errOvf = s.errOvf := rfl
@[simp] theorem State.setTabs_chans (s : State) (g : Tables → Tables) : (s.setTabs g).chans = s.chans := rfl
@[simp] theorem State.setTabs_rakeLast (s : State) (g : Tables → Tables) : (s.setTabs g).rakeLast = s.rakeLast := rfl
@[simp] theorem State.setTabs_mon (s : State) (g : Tables → Tables) : (s.setTabs g).mon = s.mon := rfl
@[simp] theorem State.setTabs_rd (s : State) (g : Tables → Tables) (f0 : Fld) (i0 : Nat) :
    (s.setTabs g).rd f0 i0 = s.rd f0 i0 := rfl
@[simp] theorem State.setTabs_flag (s : State) (g : Tables → Tables) (f0 : Fld) (i0 : Nat) :
    (s.setTabs g).flag f0 i0 = s.flag f0 i0 := rfl
@[simp] theorem State.setTabs_pw (s : State) (g : Tables → Tables) (d0 : Nat) : (s.setTabs g).pw d0 = s.pw d0 := rfl
@[simp] theorem State.setTabs_on (s : State) (g : Tables → Tables) (d0 : Nat) : (s.setTabs g).on d0 = s.on d0 := rfl
@[simp] theorem State.setTabs_tstate (s : State) (g : Tables → Tables) (t0 : Nat) : (s.setTabs g).tstate t0 = s.tstate t0 := rfl
@[simp] theorem State.setTabs_dom (s : State) (g : Tables → Tables) (k0 : Nat) : (s.setTabs g).dom k0 = s.dom k0 := rfl
@[simp] theorem State.setTabs_ring (s : State) (g : Tables → Tables) (k0 : Nat) : (s.setTabs g).ring k0 = s.ring k0 := rfl
@[simp] theorem State.setTabs_evq (s : State) (g : Tables → Tables) (k0 : Nat) : (s.setTabs g).evq k0 = s.evq k0 := rfl
@[simp] theorem State.setTabs_tree (s : State) (g : Tables → Tables) (k0 : Nat) : (s.setTabs g).tree k0 = s.tree k0 := rfl
@[simp] theorem State.setTabs_treeU (s : State) (g : Tables → Tables) (k0 : Nat) : (s.setTabs g).treeU k0 = s.treeU k0 := rfl
@[simp] theorem State.setTabs_slot (s : State) (g : Tables → Tables) (k0 : Nat) : (s.setTabs g).slot k0 = s.slot k0 := rfl
@[simp] theorem State.setTabs_shared (s : State) (g : Tables → Tables) (k0 : Nat) : (s.setTabs g).shared k0 = s.shared k0 := rfl
@[simp] theorem State.setTabs_sluUnit (s : State) (g : Tables → Tables) (k0 : Nat) :
    (s.setTabs g).sluUnit k0 = s.sluUnit k0 := rfl
@[simp] theorem State.setTabs_eng (s : State) (g : Tables → Tables) (k0 : Nat) : (s.setTabs g).eng k0 = s.eng k0 := rfl
@[simp] theorem State.setTabs_chan (s : State) (g : Tables → Tables) (k0 : Nat) : (s.setTabs g).chan k0 = s.chan k0 := rfl
@[simp] theorem State.setTabs_prot (s : State) (g : Tables → Tables) (k0 : Nat) : (s.setTabs g).prot k0 = s.prot k0 := rfl
@[simp] theorem State.setTabs_link (s : State) (g : Tables → Tables) (k0 : Nat) : (s.setTabs g).link k0 = s.link k0 := rfl
@[simp] theorem State.setTabs_term (s : State) (g : Tables → Tables) (k0 j0 : Nat) :
    (s.setTabs g).term k0 j0 = s.term k0 j0 := rfl

/-! ### setMon -/

@[simp] theorem State.setMon_pending (s : State) (g : Monitor → Monitor) : (s.setMon g).pending = s.pending := rfl
@[simp] theorem State.setMon_freeCtr (s : State) (g : Monitor → Monitor) : (s.setMon g).freeCtr = s.freeCtr := rfl
@[simp] theorem State.setMon_out (s : State) (g : Monitor → Monitor) : (s.setMon g).out = s.out := rfl
@[simp] theorem State.setMon_hostMem (s : State) (g : Monitor → Monitor) : (s.setMon g).hostMem = s.hostMem := rfl
@[simp] theorem State.setMon_scratch (s : State) (g : Monitor → Monitor) : (s.setMon g).scratch = s.scratch := rfl
@[simp] theorem State.setMon_fields (s : State) (g : Monitor → Monitor) : (s.setMon g).fields = s.fields := rfl
@[simp] theorem State.setMon_bnd (s : State) (g : Monitor → Monitor) : (s.setMon g).bnd = s.bnd := rfl
@[simp] theorem State.setMon_tb (s : State) (g : Monitor → Monitor) : (s.setMon g).tb = s.tb := rfl
@[simp] theorem State.setMon_doms (s : State) (g : Monitor → Monitor) : (s.setMon g).doms = s.doms := rfl
@[simp] theorem State.setMon_sents (s : State) (g : Monitor → Monitor) : (s.setMon g).sents = s.sents := rfl
@[simp] theorem State.setMon_hostSleep (s : State) (g : Monitor → Monitor) : (s.setMon g).hostSleep = s.hostSleep := rfl
@[simp] theorem State.setMon_trees (s : State) (g : Monitor → Monitor) : (s.setMon g).trees = s.trees := rfl
@[simp] theorem State.setMon_slots (s : State) (g : Monitor → Monitor) : (s.setMon g).slots = s.slots := rfl
@[simp] theorem State.setMon_rings (s : State) (g : Monitor → Monitor) : (s.setMon g).rings = s.rings := rfl
@[simp] theorem State.setMon_evqs (s : State) (g : Monitor → Monitor) : (s.setMon g).evqs = s.evqs := rfl
@[simp] theorem State.setMon_doorbells (s : State) (g : Monitor → Monitor) : (s.setMon g).doorbells = s.doorbells := rfl
@[simp] theorem State.setMon_cp (s : State) (g : Monitor → Monitor) : (s.setMon g).cp = s.cp := rfl
@[simp] theorem State.setMon_terms (s : State) (g : Monitor → Monitor) : (s.setMon g).terms = s.terms := rfl
@[simp] theorem State.setMon_flows (s : State) (g : Monitor → Monitor) : (s.setMon g).flows = s.flows := rfl
@[simp] theorem State.setMon_reasms (s : State) (g : Monitor → Monitor) : (s.setMon g).reasms = s.reasms := rfl
@[simp] theorem State.setMon_bprofs (s : State) (g : Monitor → Monitor) : (s.setMon g).bprofs = s.bprofs := rfl
@[simp] theorem State.setMon_treeUs (s : State) (g : Monitor → Monitor) : (s.setMon g).treeUs = s.treeUs := rfl
@[simp] theorem State.setMon_allocs (s : State) (g : Monitor → Monitor) : (s.setMon g).allocs = s.allocs := rfl
@[simp] theorem State.setMon_sluTrees (s : State) (g : Monitor → Monitor) : (s.setMon g).sluTrees = s.sluTrees := rfl
@[simp] theorem State.setMon_sluUnits (s : State) (g : Monitor → Monitor) : (s.setMon g).sluUnits = s.sluUnits := rfl
@[simp] theorem State.setMon_sluShared (s : State) (g : Monitor → Monitor) : (s.setMon g).sluShared = s.sluShared := rfl
@[simp] theorem State.setMon_slu (s : State) (g : Monitor → Monitor) : (s.setMon g).slu = s.slu := rfl
@[simp] theorem State.setMon_buf (s : State) (g : Monitor → Monitor) : (s.setMon g).buf = s.buf := rfl
@[simp] theorem State.setMon_tabs (s : State) (g : Monitor → Monitor) : (s.setMon g).tabs = s.tabs := rfl
@[simp] theorem State.setMon_counts (s : State) (g : Monitor → Monitor) : (s.setMon g).counts = s.counts := rfl
@[simp] theorem State.setMon_fabLinks (s : State) (g : Monitor → Monitor) : (s.setMon g).fabLinks = s.fabLinks := rfl
@[simp] theorem State.setMon_fab (s : State) (g : Monitor → Monitor) : (s.setMon g).fab = s.fab := rfl
@[simp] theorem State.setMon_prots (s : State) (g : Monitor → Monitor) : (s.setMon g).prots = s.prots := rfl
@[simp] theorem State.setMon_engs (s : State) (g : Monitor → Monitor) : (s.setMon g).engs = s.engs := rfl
@[simp] theorem State.setMon_tel (s : State) (g : Monitor → Monitor) : (s.setMon g).tel = s.tel := rfl
@[simp] theorem State.setMon_errLog (s : State) (g : Monitor → Monitor) : (s.setMon g).errLog = s.errLog := rfl
@[simp] theorem State.setMon_errOvf (s : State) (g : Monitor → Monitor) : (s.setMon g).errOvf = s.errOvf := rfl
@[simp] theorem State.setMon_chans (s : State) (g : Monitor → Monitor) : (s.setMon g).chans = s.chans := rfl
@[simp] theorem State.setMon_rakeLast (s : State) (g : Monitor → Monitor) : (s.setMon g).rakeLast = s.rakeLast := rfl
@[simp] theorem State.setMon_rd (s : State) (g : Monitor → Monitor) (f0 : Fld) (i0 : Nat) :
    (s.setMon g).rd f0 i0 = s.rd f0 i0 := rfl
@[simp] theorem State.setMon_flag (s : State) (g : Monitor → Monitor) (f0 : Fld) (i0 : Nat) :
    (s.setMon g).flag f0 i0 = s.flag f0 i0 := rfl
@[simp] theorem State.setMon_pw (s : State) (g : Monitor → Monitor) (d0 : Nat) : (s.setMon g).pw d0 = s.pw d0 := rfl
@[simp] theorem State.setMon_on (s : State) (g : Monitor → Monitor) (d0 : Nat) : (s.setMon g).on d0 = s.on d0 := rfl
@[simp] theorem State.setMon_tstate (s : State) (g : Monitor → Monitor) (t0 : Nat) : (s.setMon g).tstate t0 = s.tstate t0 := rfl
@[simp] theorem State.setMon_dom (s : State) (g : Monitor → Monitor) (k0 : Nat) : (s.setMon g).dom k0 = s.dom k0 := rfl
@[simp] theorem State.setMon_ring (s : State) (g : Monitor → Monitor) (k0 : Nat) : (s.setMon g).ring k0 = s.ring k0 := rfl
@[simp] theorem State.setMon_evq (s : State) (g : Monitor → Monitor) (k0 : Nat) : (s.setMon g).evq k0 = s.evq k0 := rfl
@[simp] theorem State.setMon_tree (s : State) (g : Monitor → Monitor) (k0 : Nat) : (s.setMon g).tree k0 = s.tree k0 := rfl
@[simp] theorem State.setMon_treeU (s : State) (g : Monitor → Monitor) (k0 : Nat) : (s.setMon g).treeU k0 = s.treeU k0 := rfl
@[simp] theorem State.setMon_slot (s : State) (g : Monitor → Monitor) (k0 : Nat) : (s.setMon g).slot k0 = s.slot k0 := rfl
@[simp] theorem State.setMon_shared (s : State) (g : Monitor → Monitor) (k0 : Nat) : (s.setMon g).shared k0 = s.shared k0 := rfl
@[simp] theorem State.setMon_sluUnit (s : State) (g : Monitor → Monitor) (k0 : Nat) :
    (s.setMon g).sluUnit k0 = s.sluUnit k0 := rfl
@[simp] theorem State.setMon_eng (s : State) (g : Monitor → Monitor) (k0 : Nat) : (s.setMon g).eng k0 = s.eng k0 := rfl
@[simp] theorem State.setMon_chan (s : State) (g : Monitor → Monitor) (k0 : Nat) : (s.setMon g).chan k0 = s.chan k0 := rfl
@[simp] theorem State.setMon_prot (s : State) (g : Monitor → Monitor) (k0 : Nat) : (s.setMon g).prot k0 = s.prot k0 := rfl
@[simp] theorem State.setMon_link (s : State) (g : Monitor → Monitor) (k0 : Nat) : (s.setMon g).link k0 = s.link k0 := rfl
@[simp] theorem State.setMon_term (s : State) (g : Monitor → Monitor) (k0 j0 : Nat) :
    (s.setMon g).term k0 j0 = s.term k0 j0 := rfl

/-! ### setCnt -/

@[simp] theorem State.setCnt_pending (s : State) (p o n : Nat) : (s.setCnt p o n).pending = s.pending := rfl
@[simp] theorem State.setCnt_freeCtr (s : State) (p o n : Nat) : (s.setCnt p o n).freeCtr = s.freeCtr := rfl
@[simp] theorem State.setCnt_out (s : State) (p o n : Nat) : (s.setCnt p o n).out = s.out := rfl
@[simp] theorem State.setCnt_hostMem (s : State) (p o n : Nat) : (s.setCnt p o n).hostMem = s.hostMem := rfl
@[simp] theorem State.setCnt_scratch (s : State) (p o n : Nat) : (s.setCnt p o n).scratch = s.scratch := rfl
@[simp] theorem State.setCnt_fields (s : State) (p o n : Nat) : (s.setCnt p o n).fields = s.fields := rfl
@[simp] theorem State.setCnt_bnd (s : State) (p o n : Nat) : (s.setCnt p o n).bnd = s.bnd := rfl
@[simp] theorem State.setCnt_tb (s : State) (p o n : Nat) : (s.setCnt p o n).tb = s.tb := rfl
@[simp] theorem State.setCnt_doms (s : State) (p o n : Nat) : (s.setCnt p o n).doms = s.doms := rfl
@[simp] theorem State.setCnt_sents (s : State) (p o n : Nat) : (s.setCnt p o n).sents = s.sents := rfl
@[simp] theorem State.setCnt_hostSleep (s : State) (p o n : Nat) : (s.setCnt p o n).hostSleep = s.hostSleep := rfl
@[simp] theorem State.setCnt_trees (s : State) (p o n : Nat) : (s.setCnt p o n).trees = s.trees := rfl
@[simp] theorem State.setCnt_slots (s : State) (p o n : Nat) : (s.setCnt p o n).slots = s.slots := rfl
@[simp] theorem State.setCnt_rings (s : State) (p o n : Nat) : (s.setCnt p o n).rings = s.rings := rfl
@[simp] theorem State.setCnt_evqs (s : State) (p o n : Nat) : (s.setCnt p o n).evqs = s.evqs := rfl
@[simp] theorem State.setCnt_doorbells (s : State) (p o n : Nat) : (s.setCnt p o n).doorbells = s.doorbells := rfl
@[simp] theorem State.setCnt_cp (s : State) (p o n : Nat) : (s.setCnt p o n).cp = s.cp := rfl
@[simp] theorem State.setCnt_terms (s : State) (p o n : Nat) : (s.setCnt p o n).terms = s.terms := rfl
@[simp] theorem State.setCnt_flows (s : State) (p o n : Nat) : (s.setCnt p o n).flows = s.flows := rfl
@[simp] theorem State.setCnt_reasms (s : State) (p o n : Nat) : (s.setCnt p o n).reasms = s.reasms := rfl
@[simp] theorem State.setCnt_bprofs (s : State) (p o n : Nat) : (s.setCnt p o n).bprofs = s.bprofs := rfl
@[simp] theorem State.setCnt_treeUs (s : State) (p o n : Nat) : (s.setCnt p o n).treeUs = s.treeUs := rfl
@[simp] theorem State.setCnt_allocs (s : State) (p o n : Nat) : (s.setCnt p o n).allocs = s.allocs := rfl
@[simp] theorem State.setCnt_sluTrees (s : State) (p o n : Nat) : (s.setCnt p o n).sluTrees = s.sluTrees := rfl
@[simp] theorem State.setCnt_sluUnits (s : State) (p o n : Nat) : (s.setCnt p o n).sluUnits = s.sluUnits := rfl
@[simp] theorem State.setCnt_sluShared (s : State) (p o n : Nat) : (s.setCnt p o n).sluShared = s.sluShared := rfl
@[simp] theorem State.setCnt_slu (s : State) (p o n : Nat) : (s.setCnt p o n).slu = s.slu := rfl
@[simp] theorem State.setCnt_buf (s : State) (p o n : Nat) : (s.setCnt p o n).buf = s.buf := rfl
@[simp] theorem State.setCnt_tabs (s : State) (p o n : Nat) : (s.setCnt p o n).tabs = s.tabs := rfl
@[simp] theorem State.setCnt_fabLinks (s : State) (p o n : Nat) : (s.setCnt p o n).fabLinks = s.fabLinks := rfl
@[simp] theorem State.setCnt_fab (s : State) (p o n : Nat) : (s.setCnt p o n).fab = s.fab := rfl
@[simp] theorem State.setCnt_prots (s : State) (p o n : Nat) : (s.setCnt p o n).prots = s.prots := rfl
@[simp] theorem State.setCnt_engs (s : State) (p o n : Nat) : (s.setCnt p o n).engs = s.engs := rfl
@[simp] theorem State.setCnt_tel (s : State) (p o n : Nat) : (s.setCnt p o n).tel = s.tel := rfl
@[simp] theorem State.setCnt_errLog (s : State) (p o n : Nat) : (s.setCnt p o n).errLog = s.errLog := rfl
@[simp] theorem State.setCnt_errOvf (s : State) (p o n : Nat) : (s.setCnt p o n).errOvf = s.errOvf := rfl
@[simp] theorem State.setCnt_chans (s : State) (p o n : Nat) : (s.setCnt p o n).chans = s.chans := rfl
@[simp] theorem State.setCnt_rakeLast (s : State) (p o n : Nat) : (s.setCnt p o n).rakeLast = s.rakeLast := rfl
@[simp] theorem State.setCnt_mon (s : State) (p o n : Nat) : (s.setCnt p o n).mon = s.mon := rfl
@[simp] theorem State.setCnt_rd (s : State) (p o n : Nat) (f0 : Fld) (i0 : Nat) : (s.setCnt p o n).rd f0 i0 = s.rd f0 i0 := rfl
@[simp] theorem State.setCnt_flag (s : State) (p o n : Nat) (f0 : Fld) (i0 : Nat) :
    (s.setCnt p o n).flag f0 i0 = s.flag f0 i0 := rfl
@[simp] theorem State.setCnt_pw (s : State) (p o n : Nat) (d0 : Nat) : (s.setCnt p o n).pw d0 = s.pw d0 := rfl
@[simp] theorem State.setCnt_on (s : State) (p o n : Nat) (d0 : Nat) : (s.setCnt p o n).on d0 = s.on d0 := rfl
@[simp] theorem State.setCnt_tstate (s : State) (p o n : Nat) (t0 : Nat) : (s.setCnt p o n).tstate t0 = s.tstate t0 := rfl
@[simp] theorem State.setCnt_dom (s : State) (p o n : Nat) (k0 : Nat) : (s.setCnt p o n).dom k0 = s.dom k0 := rfl
@[simp] theorem State.setCnt_ring (s : State) (p o n : Nat) (k0 : Nat) : (s.setCnt p o n).ring k0 = s.ring k0 := rfl
@[simp] theorem State.setCnt_evq (s : State) (p o n : Nat) (k0 : Nat) : (s.setCnt p o n).evq k0 = s.evq k0 := rfl
@[simp] theorem State.setCnt_tree (s : State) (p o n : Nat) (k0 : Nat) : (s.setCnt p o n).tree k0 = s.tree k0 := rfl
@[simp] theorem State.setCnt_treeU (s : State) (p o n : Nat) (k0 : Nat) : (s.setCnt p o n).treeU k0 = s.treeU k0 := rfl
@[simp] theorem State.setCnt_slot (s : State) (p o n : Nat) (k0 : Nat) : (s.setCnt p o n).slot k0 = s.slot k0 := rfl
@[simp] theorem State.setCnt_shared (s : State) (p o n : Nat) (k0 : Nat) : (s.setCnt p o n).shared k0 = s.shared k0 := rfl
@[simp] theorem State.setCnt_sluUnit (s : State) (p o n : Nat) (k0 : Nat) : (s.setCnt p o n).sluUnit k0 = s.sluUnit k0 := rfl
@[simp] theorem State.setCnt_eng (s : State) (p o n : Nat) (k0 : Nat) : (s.setCnt p o n).eng k0 = s.eng k0 := rfl
@[simp] theorem State.setCnt_chan (s : State) (p o n : Nat) (k0 : Nat) : (s.setCnt p o n).chan k0 = s.chan k0 := rfl
@[simp] theorem State.setCnt_prot (s : State) (p o n : Nat) (k0 : Nat) : (s.setCnt p o n).prot k0 = s.prot k0 := rfl
@[simp] theorem State.setCnt_link (s : State) (p o n : Nat) (k0 : Nat) : (s.setCnt p o n).link k0 = s.link k0 := rfl
@[simp] theorem State.setCnt_term (s : State) (p o n : Nat) (k0 j0 : Nat) : (s.setCnt p o n).term k0 j0 = s.term k0 j0 := rfl

/-! ### setDeepQ -/

@[simp] theorem State.setDeepQ_pending (s : State) (k m c : Nat) (q : DeepQ) : (s.setDeepQ k m c q).pending = s.pending := rfl
@[simp] theorem State.setDeepQ_freeCtr (s : State) (k m c : Nat) (q : DeepQ) : (s.setDeepQ k m c q).freeCtr = s.freeCtr := rfl
@[simp] theorem State.setDeepQ_out (s : State) (k m c : Nat) (q : DeepQ) : (s.setDeepQ k m c q).out = s.out := rfl
@[simp] theorem State.setDeepQ_hostMem (s : State) (k m c : Nat) (q : DeepQ) : (s.setDeepQ k m c q).hostMem = s.hostMem := rfl
@[simp] theorem State.setDeepQ_scratch (s : State) (k m c : Nat) (q : DeepQ) : (s.setDeepQ k m c q).scratch = s.scratch := rfl
@[simp] theorem State.setDeepQ_fields (s : State) (k m c : Nat) (q : DeepQ) : (s.setDeepQ k m c q).fields = s.fields := rfl
@[simp] theorem State.setDeepQ_bnd (s : State) (k m c : Nat) (q : DeepQ) : (s.setDeepQ k m c q).bnd = s.bnd := rfl
@[simp] theorem State.setDeepQ_tb (s : State) (k m c : Nat) (q : DeepQ) : (s.setDeepQ k m c q).tb = s.tb := rfl
@[simp] theorem State.setDeepQ_doms (s : State) (k m c : Nat) (q : DeepQ) : (s.setDeepQ k m c q).doms = s.doms := rfl
@[simp] theorem State.setDeepQ_sents (s : State) (k m c : Nat) (q : DeepQ) : (s.setDeepQ k m c q).sents = s.sents := rfl
@[simp] theorem State.setDeepQ_hostSleep (s : State) (k m c : Nat) (q : DeepQ) :
    (s.setDeepQ k m c q).hostSleep = s.hostSleep := rfl
@[simp] theorem State.setDeepQ_trees (s : State) (k m c : Nat) (q : DeepQ) : (s.setDeepQ k m c q).trees = s.trees := rfl
@[simp] theorem State.setDeepQ_slots (s : State) (k m c : Nat) (q : DeepQ) : (s.setDeepQ k m c q).slots = s.slots := rfl
@[simp] theorem State.setDeepQ_rings (s : State) (k m c : Nat) (q : DeepQ) : (s.setDeepQ k m c q).rings = s.rings := rfl
@[simp] theorem State.setDeepQ_evqs (s : State) (k m c : Nat) (q : DeepQ) : (s.setDeepQ k m c q).evqs = s.evqs := rfl
@[simp] theorem State.setDeepQ_doorbells (s : State) (k m c : Nat) (q : DeepQ) :
    (s.setDeepQ k m c q).doorbells = s.doorbells := rfl
@[simp] theorem State.setDeepQ_cp (s : State) (k m c : Nat) (q : DeepQ) : (s.setDeepQ k m c q).cp = s.cp := rfl
@[simp] theorem State.setDeepQ_terms (s : State) (k m c : Nat) (q : DeepQ) : (s.setDeepQ k m c q).terms = s.terms := rfl
@[simp] theorem State.setDeepQ_flows (s : State) (k m c : Nat) (q : DeepQ) : (s.setDeepQ k m c q).flows = s.flows := rfl
@[simp] theorem State.setDeepQ_reasms (s : State) (k m c : Nat) (q : DeepQ) : (s.setDeepQ k m c q).reasms = s.reasms := rfl
@[simp] theorem State.setDeepQ_bprofs (s : State) (k m c : Nat) (q : DeepQ) : (s.setDeepQ k m c q).bprofs = s.bprofs := rfl
@[simp] theorem State.setDeepQ_treeUs (s : State) (k m c : Nat) (q : DeepQ) : (s.setDeepQ k m c q).treeUs = s.treeUs := rfl
@[simp] theorem State.setDeepQ_allocs (s : State) (k m c : Nat) (q : DeepQ) : (s.setDeepQ k m c q).allocs = s.allocs := rfl
@[simp] theorem State.setDeepQ_sluTrees (s : State) (k m c : Nat) (q : DeepQ) : (s.setDeepQ k m c q).sluTrees = s.sluTrees := rfl
@[simp] theorem State.setDeepQ_sluUnits (s : State) (k m c : Nat) (q : DeepQ) : (s.setDeepQ k m c q).sluUnits = s.sluUnits := rfl
@[simp] theorem State.setDeepQ_sluShared (s : State) (k m c : Nat) (q : DeepQ) :
    (s.setDeepQ k m c q).sluShared = s.sluShared := rfl
@[simp] theorem State.setDeepQ_slu (s : State) (k m c : Nat) (q : DeepQ) : (s.setDeepQ k m c q).slu = s.slu := rfl
@[simp] theorem State.setDeepQ_tabs (s : State) (k m c : Nat) (q : DeepQ) : (s.setDeepQ k m c q).tabs = s.tabs := rfl
@[simp] theorem State.setDeepQ_counts (s : State) (k m c : Nat) (q : DeepQ) : (s.setDeepQ k m c q).counts = s.counts := rfl
@[simp] theorem State.setDeepQ_fabLinks (s : State) (k m c : Nat) (q : DeepQ) : (s.setDeepQ k m c q).fabLinks = s.fabLinks := rfl
@[simp] theorem State.setDeepQ_fab (s : State) (k m c : Nat) (q : DeepQ) : (s.setDeepQ k m c q).fab = s.fab := rfl
@[simp] theorem State.setDeepQ_prots (s : State) (k m c : Nat) (q : DeepQ) : (s.setDeepQ k m c q).prots = s.prots := rfl
@[simp] theorem State.setDeepQ_engs (s : State) (k m c : Nat) (q : DeepQ) : (s.setDeepQ k m c q).engs = s.engs := rfl
@[simp] theorem State.setDeepQ_tel (s : State) (k m c : Nat) (q : DeepQ) : (s.setDeepQ k m c q).tel = s.tel := rfl
@[simp] theorem State.setDeepQ_errLog (s : State) (k m c : Nat) (q : DeepQ) : (s.setDeepQ k m c q).errLog = s.errLog := rfl
@[simp] theorem State.setDeepQ_errOvf (s : State) (k m c : Nat) (q : DeepQ) : (s.setDeepQ k m c q).errOvf = s.errOvf := rfl
@[simp] theorem State.setDeepQ_chans (s : State) (k m c : Nat) (q : DeepQ) : (s.setDeepQ k m c q).chans = s.chans := rfl
@[simp] theorem State.setDeepQ_rakeLast (s : State) (k m c : Nat) (q : DeepQ) : (s.setDeepQ k m c q).rakeLast = s.rakeLast := rfl
@[simp] theorem State.setDeepQ_mon (s : State) (k m c : Nat) (q : DeepQ) : (s.setDeepQ k m c q).mon = s.mon := rfl
@[simp] theorem State.setDeepQ_rd (s : State) (k m c : Nat) (q : DeepQ) (f0 : Fld) (i0 : Nat) :
    (s.setDeepQ k m c q).rd f0 i0 = s.rd f0 i0 := rfl
@[simp] theorem State.setDeepQ_flag (s : State) (k m c : Nat) (q : DeepQ) (f0 : Fld) (i0 : Nat) :
    (s.setDeepQ k m c q).flag f0 i0 = s.flag f0 i0 := rfl
@[simp] theorem State.setDeepQ_pw (s : State) (k m c : Nat) (q : DeepQ) (d0 : Nat) : (s.setDeepQ k m c q).pw d0 = s.pw d0 := rfl
@[simp] theorem State.setDeepQ_on (s : State) (k m c : Nat) (q : DeepQ) (d0 : Nat) : (s.setDeepQ k m c q).on d0 = s.on d0 := rfl
@[simp] theorem State.setDeepQ_tstate (s : State) (k m c : Nat) (q : DeepQ) (t0 : Nat) :
    (s.setDeepQ k m c q).tstate t0 = s.tstate t0 := rfl
@[simp] theorem State.setDeepQ_dom (s : State) (k m c : Nat) (q : DeepQ) (k0 : Nat) :
    (s.setDeepQ k m c q).dom k0 = s.dom k0 := rfl
@[simp] theorem State.setDeepQ_ring (s : State) (k m c : Nat) (q : DeepQ) (k0 : Nat) :
    (s.setDeepQ k m c q).ring k0 = s.ring k0 := rfl
@[simp] theorem State.setDeepQ_evq (s : State) (k m c : Nat) (q : DeepQ) (k0 : Nat) :
    (s.setDeepQ k m c q).evq k0 = s.evq k0 := rfl
@[simp] theorem State.setDeepQ_tree (s : State) (k m c : Nat) (q : DeepQ) (k0 : Nat) :
    (s.setDeepQ k m c q).tree k0 = s.tree k0 := rfl
@[simp] theorem State.setDeepQ_treeU (s : State) (k m c : Nat) (q : DeepQ) (k0 : Nat) :
    (s.setDeepQ k m c q).treeU k0 = s.treeU k0 := rfl
@[simp] theorem State.setDeepQ_slot (s : State) (k m c : Nat) (q : DeepQ) (k0 : Nat) :
    (s.setDeepQ k m c q).slot k0 = s.slot k0 := rfl
@[simp] theorem State.setDeepQ_shared (s : State) (k m c : Nat) (q : DeepQ) (k0 : Nat) :
    (s.setDeepQ k m c q).shared k0 = s.shared k0 := rfl
@[simp] theorem State.setDeepQ_sluUnit (s : State) (k m c : Nat) (q : DeepQ) (k0 : Nat) :
    (s.setDeepQ k m c q).sluUnit k0 = s.sluUnit k0 := rfl
@[simp] theorem State.setDeepQ_eng (s : State) (k m c : Nat) (q : DeepQ) (k0 : Nat) :
    (s.setDeepQ k m c q).eng k0 = s.eng k0 := rfl
@[simp] theorem State.setDeepQ_chan (s : State) (k m c : Nat) (q : DeepQ) (k0 : Nat) :
    (s.setDeepQ k m c q).chan k0 = s.chan k0 := rfl
@[simp] theorem State.setDeepQ_prot (s : State) (k m c : Nat) (q : DeepQ) (k0 : Nat) :
    (s.setDeepQ k m c q).prot k0 = s.prot k0 := rfl
@[simp] theorem State.setDeepQ_link (s : State) (k m c : Nat) (q : DeepQ) (k0 : Nat) :
    (s.setDeepQ k m c q).link k0 = s.link k0 := rfl
@[simp] theorem State.setDeepQ_term (s : State) (k m c : Nat) (q : DeepQ) (k0 j0 : Nat) :
    (s.setDeepQ k m c q).term k0 j0 = s.term k0 j0 := rfl

/-! ### setEgressQ -/

@[simp] theorem State.setEgressQ_pending (s : State) (l c : Nat) (q : EgressQ) : (s.setEgressQ l c q).pending = s.pending := rfl
@[simp] theorem State.setEgressQ_freeCtr (s : State) (l c : Nat) (q : EgressQ) : (s.setEgressQ l c q).freeCtr = s.freeCtr := rfl
@[simp] theorem State.setEgressQ_out (s : State) (l c : Nat) (q : EgressQ) : (s.setEgressQ l c q).out = s.out := rfl
@[simp] theorem State.setEgressQ_hostMem (s : State) (l c : Nat) (q : EgressQ) : (s.setEgressQ l c q).hostMem = s.hostMem := rfl
@[simp] theorem State.setEgressQ_scratch (s : State) (l c : Nat) (q : EgressQ) : (s.setEgressQ l c q).scratch = s.scratch := rfl
@[simp] theorem State.setEgressQ_fields (s : State) (l c : Nat) (q : EgressQ) : (s.setEgressQ l c q).fields = s.fields := rfl
@[simp] theorem State.setEgressQ_bnd (s : State) (l c : Nat) (q : EgressQ) : (s.setEgressQ l c q).bnd = s.bnd := rfl
@[simp] theorem State.setEgressQ_tb (s : State) (l c : Nat) (q : EgressQ) : (s.setEgressQ l c q).tb = s.tb := rfl
@[simp] theorem State.setEgressQ_doms (s : State) (l c : Nat) (q : EgressQ) : (s.setEgressQ l c q).doms = s.doms := rfl
@[simp] theorem State.setEgressQ_sents (s : State) (l c : Nat) (q : EgressQ) : (s.setEgressQ l c q).sents = s.sents := rfl
@[simp] theorem State.setEgressQ_hostSleep (s : State) (l c : Nat) (q : EgressQ) :
    (s.setEgressQ l c q).hostSleep = s.hostSleep := rfl
@[simp] theorem State.setEgressQ_trees (s : State) (l c : Nat) (q : EgressQ) : (s.setEgressQ l c q).trees = s.trees := rfl
@[simp] theorem State.setEgressQ_slots (s : State) (l c : Nat) (q : EgressQ) : (s.setEgressQ l c q).slots = s.slots := rfl
@[simp] theorem State.setEgressQ_rings (s : State) (l c : Nat) (q : EgressQ) : (s.setEgressQ l c q).rings = s.rings := rfl
@[simp] theorem State.setEgressQ_evqs (s : State) (l c : Nat) (q : EgressQ) : (s.setEgressQ l c q).evqs = s.evqs := rfl
@[simp] theorem State.setEgressQ_doorbells (s : State) (l c : Nat) (q : EgressQ) :
    (s.setEgressQ l c q).doorbells = s.doorbells := rfl
@[simp] theorem State.setEgressQ_cp (s : State) (l c : Nat) (q : EgressQ) : (s.setEgressQ l c q).cp = s.cp := rfl
@[simp] theorem State.setEgressQ_terms (s : State) (l c : Nat) (q : EgressQ) : (s.setEgressQ l c q).terms = s.terms := rfl
@[simp] theorem State.setEgressQ_flows (s : State) (l c : Nat) (q : EgressQ) : (s.setEgressQ l c q).flows = s.flows := rfl
@[simp] theorem State.setEgressQ_reasms (s : State) (l c : Nat) (q : EgressQ) : (s.setEgressQ l c q).reasms = s.reasms := rfl
@[simp] theorem State.setEgressQ_bprofs (s : State) (l c : Nat) (q : EgressQ) : (s.setEgressQ l c q).bprofs = s.bprofs := rfl
@[simp] theorem State.setEgressQ_treeUs (s : State) (l c : Nat) (q : EgressQ) : (s.setEgressQ l c q).treeUs = s.treeUs := rfl
@[simp] theorem State.setEgressQ_allocs (s : State) (l c : Nat) (q : EgressQ) : (s.setEgressQ l c q).allocs = s.allocs := rfl
@[simp] theorem State.setEgressQ_sluTrees (s : State) (l c : Nat) (q : EgressQ) :
    (s.setEgressQ l c q).sluTrees = s.sluTrees := rfl
@[simp] theorem State.setEgressQ_sluUnits (s : State) (l c : Nat) (q : EgressQ) :
    (s.setEgressQ l c q).sluUnits = s.sluUnits := rfl
@[simp] theorem State.setEgressQ_sluShared (s : State) (l c : Nat) (q : EgressQ) :
    (s.setEgressQ l c q).sluShared = s.sluShared := rfl
@[simp] theorem State.setEgressQ_slu (s : State) (l c : Nat) (q : EgressQ) : (s.setEgressQ l c q).slu = s.slu := rfl
@[simp] theorem State.setEgressQ_tabs (s : State) (l c : Nat) (q : EgressQ) : (s.setEgressQ l c q).tabs = s.tabs := rfl
@[simp] theorem State.setEgressQ_counts (s : State) (l c : Nat) (q : EgressQ) : (s.setEgressQ l c q).counts = s.counts := rfl
@[simp] theorem State.setEgressQ_fabLinks (s : State) (l c : Nat) (q : EgressQ) :
    (s.setEgressQ l c q).fabLinks = s.fabLinks := rfl
@[simp] theorem State.setEgressQ_fab (s : State) (l c : Nat) (q : EgressQ) : (s.setEgressQ l c q).fab = s.fab := rfl
@[simp] theorem State.setEgressQ_prots (s : State) (l c : Nat) (q : EgressQ) : (s.setEgressQ l c q).prots = s.prots := rfl
@[simp] theorem State.setEgressQ_engs (s : State) (l c : Nat) (q : EgressQ) : (s.setEgressQ l c q).engs = s.engs := rfl
@[simp] theorem State.setEgressQ_tel (s : State) (l c : Nat) (q : EgressQ) : (s.setEgressQ l c q).tel = s.tel := rfl
@[simp] theorem State.setEgressQ_errLog (s : State) (l c : Nat) (q : EgressQ) : (s.setEgressQ l c q).errLog = s.errLog := rfl
@[simp] theorem State.setEgressQ_errOvf (s : State) (l c : Nat) (q : EgressQ) : (s.setEgressQ l c q).errOvf = s.errOvf := rfl
@[simp] theorem State.setEgressQ_chans (s : State) (l c : Nat) (q : EgressQ) : (s.setEgressQ l c q).chans = s.chans := rfl
@[simp] theorem State.setEgressQ_rakeLast (s : State) (l c : Nat) (q : EgressQ) :
    (s.setEgressQ l c q).rakeLast = s.rakeLast := rfl
@[simp] theorem State.setEgressQ_mon (s : State) (l c : Nat) (q : EgressQ) : (s.setEgressQ l c q).mon = s.mon := rfl
@[simp] theorem State.setEgressQ_rd (s : State) (l c : Nat) (q : EgressQ) (f0 : Fld) (i0 : Nat) :
    (s.setEgressQ l c q).rd f0 i0 = s.rd f0 i0 := rfl
@[simp] theorem State.setEgressQ_flag (s : State) (l c : Nat) (q : EgressQ) (f0 : Fld) (i0 : Nat) :
    (s.setEgressQ l c q).flag f0 i0 = s.flag f0 i0 := rfl
@[simp] theorem State.setEgressQ_pw (s : State) (l c : Nat) (q : EgressQ) (d0 : Nat) : (s.setEgressQ l c q).pw d0 = s.pw d0 := rfl
@[simp] theorem State.setEgressQ_on (s : State) (l c : Nat) (q : EgressQ) (d0 : Nat) : (s.setEgressQ l c q).on d0 = s.on d0 := rfl
@[simp] theorem State.setEgressQ_tstate (s : State) (l c : Nat) (q : EgressQ) (t0 : Nat) :
    (s.setEgressQ l c q).tstate t0 = s.tstate t0 := rfl
@[simp] theorem State.setEgressQ_dom (s : State) (l c : Nat) (q : EgressQ) (k0 : Nat) :
    (s.setEgressQ l c q).dom k0 = s.dom k0 := rfl
@[simp] theorem State.setEgressQ_ring (s : State) (l c : Nat) (q : EgressQ) (k0 : Nat) :
    (s.setEgressQ l c q).ring k0 = s.ring k0 := rfl
@[simp] theorem State.setEgressQ_evq (s : State) (l c : Nat) (q : EgressQ) (k0 : Nat) :
    (s.setEgressQ l c q).evq k0 = s.evq k0 := rfl
@[simp] theorem State.setEgressQ_tree (s : State) (l c : Nat) (q : EgressQ) (k0 : Nat) :
    (s.setEgressQ l c q).tree k0 = s.tree k0 := rfl
@[simp] theorem State.setEgressQ_treeU (s : State) (l c : Nat) (q : EgressQ) (k0 : Nat) :
    (s.setEgressQ l c q).treeU k0 = s.treeU k0 := rfl
@[simp] theorem State.setEgressQ_slot (s : State) (l c : Nat) (q : EgressQ) (k0 : Nat) :
    (s.setEgressQ l c q).slot k0 = s.slot k0 := rfl
@[simp] theorem State.setEgressQ_shared (s : State) (l c : Nat) (q : EgressQ) (k0 : Nat) :
    (s.setEgressQ l c q).shared k0 = s.shared k0 := rfl
@[simp] theorem State.setEgressQ_sluUnit (s : State) (l c : Nat) (q : EgressQ) (k0 : Nat) :
    (s.setEgressQ l c q).sluUnit k0 = s.sluUnit k0 := rfl
@[simp] theorem State.setEgressQ_eng (s : State) (l c : Nat) (q : EgressQ) (k0 : Nat) :
    (s.setEgressQ l c q).eng k0 = s.eng k0 := rfl
@[simp] theorem State.setEgressQ_chan (s : State) (l c : Nat) (q : EgressQ) (k0 : Nat) :
    (s.setEgressQ l c q).chan k0 = s.chan k0 := rfl
@[simp] theorem State.setEgressQ_prot (s : State) (l c : Nat) (q : EgressQ) (k0 : Nat) :
    (s.setEgressQ l c q).prot k0 = s.prot k0 := rfl
@[simp] theorem State.setEgressQ_link (s : State) (l c : Nat) (q : EgressQ) (k0 : Nat) :
    (s.setEgressQ l c q).link k0 = s.link k0 := rfl
@[simp] theorem State.setEgressQ_term (s : State) (l c : Nat) (q : EgressQ) (k0 j0 : Nat) :
    (s.setEgressQ l c q).term k0 j0 = s.term k0 j0 := rfl

/-! ### setBusQ -/

@[simp] theorem State.setBusQ_pending (s : State) (b : Nat) (l : List ModTx) : (s.setBusQ b l).pending = s.pending := rfl
@[simp] theorem State.setBusQ_freeCtr (s : State) (b : Nat) (l : List ModTx) : (s.setBusQ b l).freeCtr = s.freeCtr := rfl
@[simp] theorem State.setBusQ_out (s : State) (b : Nat) (l : List ModTx) : (s.setBusQ b l).out = s.out := rfl
@[simp] theorem State.setBusQ_hostMem (s : State) (b : Nat) (l : List ModTx) : (s.setBusQ b l).hostMem = s.hostMem := rfl
@[simp] theorem State.setBusQ_scratch (s : State) (b : Nat) (l : List ModTx) : (s.setBusQ b l).scratch = s.scratch := rfl
@[simp] theorem State.setBusQ_fields (s : State) (b : Nat) (l : List ModTx) : (s.setBusQ b l).fields = s.fields := rfl
@[simp] theorem State.setBusQ_tb (s : State) (b : Nat) (l : List ModTx) : (s.setBusQ b l).tb = s.tb := rfl
@[simp] theorem State.setBusQ_doms (s : State) (b : Nat) (l : List ModTx) : (s.setBusQ b l).doms = s.doms := rfl
@[simp] theorem State.setBusQ_sents (s : State) (b : Nat) (l : List ModTx) : (s.setBusQ b l).sents = s.sents := rfl
@[simp] theorem State.setBusQ_hostSleep (s : State) (b : Nat) (l : List ModTx) : (s.setBusQ b l).hostSleep = s.hostSleep := rfl
@[simp] theorem State.setBusQ_trees (s : State) (b : Nat) (l : List ModTx) : (s.setBusQ b l).trees = s.trees := rfl
@[simp] theorem State.setBusQ_slots (s : State) (b : Nat) (l : List ModTx) : (s.setBusQ b l).slots = s.slots := rfl
@[simp] theorem State.setBusQ_rings (s : State) (b : Nat) (l : List ModTx) : (s.setBusQ b l).rings = s.rings := rfl
@[simp] theorem State.setBusQ_evqs (s : State) (b : Nat) (l : List ModTx) : (s.setBusQ b l).evqs = s.evqs := rfl
@[simp] theorem State.setBusQ_doorbells (s : State) (b : Nat) (l : List ModTx) : (s.setBusQ b l).doorbells = s.doorbells := rfl
@[simp] theorem State.setBusQ_cp (s : State) (b : Nat) (l : List ModTx) : (s.setBusQ b l).cp = s.cp := rfl
@[simp] theorem State.setBusQ_terms (s : State) (b : Nat) (l : List ModTx) : (s.setBusQ b l).terms = s.terms := rfl
@[simp] theorem State.setBusQ_flows (s : State) (b : Nat) (l : List ModTx) : (s.setBusQ b l).flows = s.flows := rfl
@[simp] theorem State.setBusQ_reasms (s : State) (b : Nat) (l : List ModTx) : (s.setBusQ b l).reasms = s.reasms := rfl
@[simp] theorem State.setBusQ_bprofs (s : State) (b : Nat) (l : List ModTx) : (s.setBusQ b l).bprofs = s.bprofs := rfl
@[simp] theorem State.setBusQ_treeUs (s : State) (b : Nat) (l : List ModTx) : (s.setBusQ b l).treeUs = s.treeUs := rfl
@[simp] theorem State.setBusQ_allocs (s : State) (b : Nat) (l : List ModTx) : (s.setBusQ b l).allocs = s.allocs := rfl
@[simp] theorem State.setBusQ_sluTrees (s : State) (b : Nat) (l : List ModTx) : (s.setBusQ b l).sluTrees = s.sluTrees := rfl
@[simp] theorem State.setBusQ_sluUnits (s : State) (b : Nat) (l : List ModTx) : (s.setBusQ b l).sluUnits = s.sluUnits := rfl
@[simp] theorem State.setBusQ_sluShared (s : State) (b : Nat) (l : List ModTx) : (s.setBusQ b l).sluShared = s.sluShared := rfl
@[simp] theorem State.setBusQ_slu (s : State) (b : Nat) (l : List ModTx) : (s.setBusQ b l).slu = s.slu := rfl
@[simp] theorem State.setBusQ_buf (s : State) (b : Nat) (l : List ModTx) : (s.setBusQ b l).buf = s.buf := rfl
@[simp] theorem State.setBusQ_tabs (s : State) (b : Nat) (l : List ModTx) : (s.setBusQ b l).tabs = s.tabs := rfl
@[simp] theorem State.setBusQ_counts (s : State) (b : Nat) (l : List ModTx) : (s.setBusQ b l).counts = s.counts := rfl
@[simp] theorem State.setBusQ_fabLinks (s : State) (b : Nat) (l : List ModTx) : (s.setBusQ b l).fabLinks = s.fabLinks := rfl
@[simp] theorem State.setBusQ_fab (s : State) (b : Nat) (l : List ModTx) : (s.setBusQ b l).fab = s.fab := rfl
@[simp] theorem State.setBusQ_prots (s : State) (b : Nat) (l : List ModTx) : (s.setBusQ b l).prots = s.prots := rfl
@[simp] theorem State.setBusQ_engs (s : State) (b : Nat) (l : List ModTx) : (s.setBusQ b l).engs = s.engs := rfl
@[simp] theorem State.setBusQ_tel (s : State) (b : Nat) (l : List ModTx) : (s.setBusQ b l).tel = s.tel := rfl
@[simp] theorem State.setBusQ_errLog (s : State) (b : Nat) (l : List ModTx) : (s.setBusQ b l).errLog = s.errLog := rfl
@[simp] theorem State.setBusQ_errOvf (s : State) (b : Nat) (l : List ModTx) : (s.setBusQ b l).errOvf = s.errOvf := rfl
@[simp] theorem State.setBusQ_chans (s : State) (b : Nat) (l : List ModTx) : (s.setBusQ b l).chans = s.chans := rfl
@[simp] theorem State.setBusQ_rakeLast (s : State) (b : Nat) (l : List ModTx) : (s.setBusQ b l).rakeLast = s.rakeLast := rfl
@[simp] theorem State.setBusQ_mon (s : State) (b : Nat) (l : List ModTx) : (s.setBusQ b l).mon = s.mon := rfl
@[simp] theorem State.setBusQ_rd (s : State) (b : Nat) (l : List ModTx) (f0 : Fld) (i0 : Nat) :
    (s.setBusQ b l).rd f0 i0 = s.rd f0 i0 := rfl
@[simp] theorem State.setBusQ_flag (s : State) (b : Nat) (l : List ModTx) (f0 : Fld) (i0 : Nat) :
    (s.setBusQ b l).flag f0 i0 = s.flag f0 i0 := rfl
@[simp] theorem State.setBusQ_pw (s : State) (b : Nat) (l : List ModTx) (d0 : Nat) : (s.setBusQ b l).pw d0 = s.pw d0 := rfl
@[simp] theorem State.setBusQ_on (s : State) (b : Nat) (l : List ModTx) (d0 : Nat) : (s.setBusQ b l).on d0 = s.on d0 := rfl
@[simp] theorem State.setBusQ_tstate (s : State) (b : Nat) (l : List ModTx) (t0 : Nat) :
    (s.setBusQ b l).tstate t0 = s.tstate t0 := rfl
@[simp] theorem State.setBusQ_dom (s : State) (b : Nat) (l : List ModTx) (k0 : Nat) : (s.setBusQ b l).dom k0 = s.dom k0 := rfl
@[simp] theorem State.setBusQ_ring (s : State) (b : Nat) (l : List ModTx) (k0 : Nat) : (s.setBusQ b l).ring k0 = s.ring k0 := rfl
@[simp] theorem State.setBusQ_evq (s : State) (b : Nat) (l : List ModTx) (k0 : Nat) : (s.setBusQ b l).evq k0 = s.evq k0 := rfl
@[simp] theorem State.setBusQ_tree (s : State) (b : Nat) (l : List ModTx) (k0 : Nat) : (s.setBusQ b l).tree k0 = s.tree k0 := rfl
@[simp] theorem State.setBusQ_treeU (s : State) (b : Nat) (l : List ModTx) (k0 : Nat) :
    (s.setBusQ b l).treeU k0 = s.treeU k0 := rfl
@[simp] theorem State.setBusQ_slot (s : State) (b : Nat) (l : List ModTx) (k0 : Nat) : (s.setBusQ b l).slot k0 = s.slot k0 := rfl
@[simp] theorem State.setBusQ_shared (s : State) (b : Nat) (l : List ModTx) (k0 : Nat) :
    (s.setBusQ b l).shared k0 = s.shared k0 := rfl
@[simp] theorem State.setBusQ_sluUnit (s : State) (b : Nat) (l : List ModTx) (k0 : Nat) :
    (s.setBusQ b l).sluUnit k0 = s.sluUnit k0 := rfl
@[simp] theorem State.setBusQ_eng (s : State) (b : Nat) (l : List ModTx) (k0 : Nat) : (s.setBusQ b l).eng k0 = s.eng k0 := rfl
@[simp] theorem State.setBusQ_chan (s : State) (b : Nat) (l : List ModTx) (k0 : Nat) : (s.setBusQ b l).chan k0 = s.chan k0 := rfl
@[simp] theorem State.setBusQ_prot (s : State) (b : Nat) (l : List ModTx) (k0 : Nat) : (s.setBusQ b l).prot k0 = s.prot k0 := rfl
@[simp] theorem State.setBusQ_link (s : State) (b : Nat) (l : List ModTx) (k0 : Nat) : (s.setBusQ b l).link k0 = s.link k0 := rfl
@[simp] theorem State.setBusQ_term (s : State) (b : Nat) (l : List ModTx) (k0 j0 : Nat) :
    (s.setBusQ b l).term k0 j0 = s.term k0 j0 := rfl

/-! ### setHold -/

@[simp] theorem State.setHold_pending (s : State) (p : Nat) (g : PortHold → PortHold) : (s.setHold p g).pending = s.pending := rfl
@[simp] theorem State.setHold_freeCtr (s : State) (p : Nat) (g : PortHold → PortHold) : (s.setHold p g).freeCtr = s.freeCtr := rfl
@[simp] theorem State.setHold_out (s : State) (p : Nat) (g : PortHold → PortHold) : (s.setHold p g).out = s.out := rfl
@[simp] theorem State.setHold_hostMem (s : State) (p : Nat) (g : PortHold → PortHold) : (s.setHold p g).hostMem = s.hostMem := rfl
@[simp] theorem State.setHold_scratch (s : State) (p : Nat) (g : PortHold → PortHold) : (s.setHold p g).scratch = s.scratch := rfl
@[simp] theorem State.setHold_fields (s : State) (p : Nat) (g : PortHold → PortHold) : (s.setHold p g).fields = s.fields := rfl
@[simp] theorem State.setHold_tb (s : State) (p : Nat) (g : PortHold → PortHold) : (s.setHold p g).tb = s.tb := rfl
@[simp] theorem State.setHold_doms (s : State) (p : Nat) (g : PortHold → PortHold) : (s.setHold p g).doms = s.doms := rfl
@[simp] theorem State.setHold_sents (s : State) (p : Nat) (g : PortHold → PortHold) : (s.setHold p g).sents = s.sents := rfl
@[simp] theorem State.setHold_hostSleep (s : State) (p : Nat) (g : PortHold → PortHold) :
    (s.setHold p g).hostSleep = s.hostSleep := rfl
@[simp] theorem State.setHold_trees (s : State) (p : Nat) (g : PortHold → PortHold) : (s.setHold p g).trees = s.trees := rfl
@[simp] theorem State.setHold_slots (s : State) (p : Nat) (g : PortHold → PortHold) : (s.setHold p g).slots = s.slots := rfl
@[simp] theorem State.setHold_rings (s : State) (p : Nat) (g : PortHold → PortHold) : (s.setHold p g).rings = s.rings := rfl
@[simp] theorem State.setHold_evqs (s : State) (p : Nat) (g : PortHold → PortHold) : (s.setHold p g).evqs = s.evqs := rfl
@[simp] theorem State.setHold_doorbells (s : State) (p : Nat) (g : PortHold → PortHold) :
    (s.setHold p g).doorbells = s.doorbells := rfl
@[simp] theorem State.setHold_cp (s : State) (p : Nat) (g : PortHold → PortHold) : (s.setHold p g).cp = s.cp := rfl
@[simp] theorem State.setHold_terms (s : State) (p : Nat) (g : PortHold → PortHold) : (s.setHold p g).terms = s.terms := rfl
@[simp] theorem State.setHold_flows (s : State) (p : Nat) (g : PortHold → PortHold) : (s.setHold p g).flows = s.flows := rfl
@[simp] theorem State.setHold_reasms (s : State) (p : Nat) (g : PortHold → PortHold) : (s.setHold p g).reasms = s.reasms := rfl
@[simp] theorem State.setHold_bprofs (s : State) (p : Nat) (g : PortHold → PortHold) : (s.setHold p g).bprofs = s.bprofs := rfl
@[simp] theorem State.setHold_treeUs (s : State) (p : Nat) (g : PortHold → PortHold) : (s.setHold p g).treeUs = s.treeUs := rfl
@[simp] theorem State.setHold_allocs (s : State) (p : Nat) (g : PortHold → PortHold) : (s.setHold p g).allocs = s.allocs := rfl
@[simp] theorem State.setHold_sluTrees (s : State) (p : Nat) (g : PortHold → PortHold) :
    (s.setHold p g).sluTrees = s.sluTrees := rfl
@[simp] theorem State.setHold_sluUnits (s : State) (p : Nat) (g : PortHold → PortHold) :
    (s.setHold p g).sluUnits = s.sluUnits := rfl
@[simp] theorem State.setHold_sluShared (s : State) (p : Nat) (g : PortHold → PortHold) :
    (s.setHold p g).sluShared = s.sluShared := rfl
@[simp] theorem State.setHold_slu (s : State) (p : Nat) (g : PortHold → PortHold) : (s.setHold p g).slu = s.slu := rfl
@[simp] theorem State.setHold_buf (s : State) (p : Nat) (g : PortHold → PortHold) : (s.setHold p g).buf = s.buf := rfl
@[simp] theorem State.setHold_tabs (s : State) (p : Nat) (g : PortHold → PortHold) : (s.setHold p g).tabs = s.tabs := rfl
@[simp] theorem State.setHold_counts (s : State) (p : Nat) (g : PortHold → PortHold) : (s.setHold p g).counts = s.counts := rfl
@[simp] theorem State.setHold_fabLinks (s : State) (p : Nat) (g : PortHold → PortHold) :
    (s.setHold p g).fabLinks = s.fabLinks := rfl
@[simp] theorem State.setHold_fab (s : State) (p : Nat) (g : PortHold → PortHold) : (s.setHold p g).fab = s.fab := rfl
@[simp] theorem State.setHold_prots (s : State) (p : Nat) (g : PortHold → PortHold) : (s.setHold p g).prots = s.prots := rfl
@[simp] theorem State.setHold_engs (s : State) (p : Nat) (g : PortHold → PortHold) : (s.setHold p g).engs = s.engs := rfl
@[simp] theorem State.setHold_tel (s : State) (p : Nat) (g : PortHold → PortHold) : (s.setHold p g).tel = s.tel := rfl
@[simp] theorem State.setHold_errLog (s : State) (p : Nat) (g : PortHold → PortHold) : (s.setHold p g).errLog = s.errLog := rfl
@[simp] theorem State.setHold_errOvf (s : State) (p : Nat) (g : PortHold → PortHold) : (s.setHold p g).errOvf = s.errOvf := rfl
@[simp] theorem State.setHold_chans (s : State) (p : Nat) (g : PortHold → PortHold) : (s.setHold p g).chans = s.chans := rfl
@[simp] theorem State.setHold_rakeLast (s : State) (p : Nat) (g : PortHold → PortHold) :
    (s.setHold p g).rakeLast = s.rakeLast := rfl
@[simp] theorem State.setHold_mon (s : State) (p : Nat) (g : PortHold → PortHold) : (s.setHold p g).mon = s.mon := rfl
@[simp] theorem State.setHold_rd (s : State) (p : Nat) (g : PortHold → PortHold) (f0 : Fld) (i0 : Nat) :
    (s.setHold p g).rd f0 i0 = s.rd f0 i0 := rfl
@[simp] theorem State.setHold_flag (s : State) (p : Nat) (g : PortHold → PortHold) (f0 : Fld) (i0 : Nat) :
    (s.setHold p g).flag f0 i0 = s.flag f0 i0 := rfl
@[simp] theorem State.setHold_pw (s : State) (p : Nat) (g : PortHold → PortHold) (d0 : Nat) :
    (s.setHold p g).pw d0 = s.pw d0 := rfl
@[simp] theorem State.setHold_on (s : State) (p : Nat) (g : PortHold → PortHold) (d0 : Nat) :
    (s.setHold p g).on d0 = s.on d0 := rfl
@[simp] theorem State.setHold_tstate (s : State) (p : Nat) (g : PortHold → PortHold) (t0 : Nat) :
    (s.setHold p g).tstate t0 = s.tstate t0 := rfl
@[simp] theorem State.setHold_dom (s : State) (p : Nat) (g : PortHold → PortHold) (k0 : Nat) :
    (s.setHold p g).dom k0 = s.dom k0 := rfl
@[simp] theorem State.setHold_ring (s : State) (p : Nat) (g : PortHold → PortHold) (k0 : Nat) :
    (s.setHold p g).ring k0 = s.ring k0 := rfl
@[simp] theorem State.setHold_evq (s : State) (p : Nat) (g : PortHold → PortHold) (k0 : Nat) :
    (s.setHold p g).evq k0 = s.evq k0 := rfl
@[simp] theorem State.setHold_tree (s : State) (p : Nat) (g : PortHold → PortHold) (k0 : Nat) :
    (s.setHold p g).tree k0 = s.tree k0 := rfl
@[simp] theorem State.setHold_treeU (s : State) (p : Nat) (g : PortHold → PortHold) (k0 : Nat) :
    (s.setHold p g).treeU k0 = s.treeU k0 := rfl
@[simp] theorem State.setHold_slot (s : State) (p : Nat) (g : PortHold → PortHold) (k0 : Nat) :
    (s.setHold p g).slot k0 = s.slot k0 := rfl
@[simp] theorem State.setHold_shared (s : State) (p : Nat) (g : PortHold → PortHold) (k0 : Nat) :
    (s.setHold p g).shared k0 = s.shared k0 := rfl
@[simp] theorem State.setHold_sluUnit (s : State) (p : Nat) (g : PortHold → PortHold) (k0 : Nat) :
    (s.setHold p g).sluUnit k0 = s.sluUnit k0 := rfl
@[simp] theorem State.setHold_eng (s : State) (p : Nat) (g : PortHold → PortHold) (k0 : Nat) :
    (s.setHold p g).eng k0 = s.eng k0 := rfl
@[simp] theorem State.setHold_chan (s : State) (p : Nat) (g : PortHold → PortHold) (k0 : Nat) :
    (s.setHold p g).chan k0 = s.chan k0 := rfl
@[simp] theorem State.setHold_prot (s : State) (p : Nat) (g : PortHold → PortHold) (k0 : Nat) :
    (s.setHold p g).prot k0 = s.prot k0 := rfl
@[simp] theorem State.setHold_link (s : State) (p : Nat) (g : PortHold → PortHold) (k0 : Nat) :
    (s.setHold p g).link k0 = s.link k0 := rfl
@[simp] theorem State.setHold_term (s : State) (p : Nat) (g : PortHold → PortHold) (k0 j0 : Nat) :
    (s.setHold p g).term k0 j0 = s.term k0 j0 := rfl

/-! ### setSlots -/

@[simp] theorem State.setSlots_pending (s : State) (k : Nat) (x : ImageSlots) : (s.setSlots k x).pending = s.pending := rfl
@[simp] theorem State.setSlots_freeCtr (s : State) (k : Nat) (x : ImageSlots) : (s.setSlots k x).freeCtr = s.freeCtr := rfl
@[simp] theorem State.setSlots_out (s : State) (k : Nat) (x : ImageSlots) : (s.setSlots k x).out = s.out := rfl
@[simp] theorem State.setSlots_hostMem (s : State) (k : Nat) (x : ImageSlots) : (s.setSlots k x).hostMem = s.hostMem := rfl
@[simp] theorem State.setSlots_scratch (s : State) (k : Nat) (x : ImageSlots) : (s.setSlots k x).scratch = s.scratch := rfl
@[simp] theorem State.setSlots_fields (s : State) (k : Nat) (x : ImageSlots) : (s.setSlots k x).fields = s.fields := rfl
@[simp] theorem State.setSlots_bnd (s : State) (k : Nat) (x : ImageSlots) : (s.setSlots k x).bnd = s.bnd := rfl
@[simp] theorem State.setSlots_tb (s : State) (k : Nat) (x : ImageSlots) : (s.setSlots k x).tb = s.tb := rfl
@[simp] theorem State.setSlots_doms (s : State) (k : Nat) (x : ImageSlots) : (s.setSlots k x).doms = s.doms := rfl
@[simp] theorem State.setSlots_sents (s : State) (k : Nat) (x : ImageSlots) : (s.setSlots k x).sents = s.sents := rfl
@[simp] theorem State.setSlots_hostSleep (s : State) (k : Nat) (x : ImageSlots) : (s.setSlots k x).hostSleep = s.hostSleep := rfl
@[simp] theorem State.setSlots_trees (s : State) (k : Nat) (x : ImageSlots) : (s.setSlots k x).trees = s.trees := rfl
@[simp] theorem State.setSlots_slots (s : State) (k : Nat) (x : ImageSlots) : (s.setSlots k x).slots = s.slots := rfl
@[simp] theorem State.setSlots_rings (s : State) (k : Nat) (x : ImageSlots) : (s.setSlots k x).rings = s.rings := rfl
@[simp] theorem State.setSlots_evqs (s : State) (k : Nat) (x : ImageSlots) : (s.setSlots k x).evqs = s.evqs := rfl
@[simp] theorem State.setSlots_doorbells (s : State) (k : Nat) (x : ImageSlots) : (s.setSlots k x).doorbells = s.doorbells := rfl
@[simp] theorem State.setSlots_terms (s : State) (k : Nat) (x : ImageSlots) : (s.setSlots k x).terms = s.terms := rfl
@[simp] theorem State.setSlots_flows (s : State) (k : Nat) (x : ImageSlots) : (s.setSlots k x).flows = s.flows := rfl
@[simp] theorem State.setSlots_reasms (s : State) (k : Nat) (x : ImageSlots) : (s.setSlots k x).reasms = s.reasms := rfl
@[simp] theorem State.setSlots_bprofs (s : State) (k : Nat) (x : ImageSlots) : (s.setSlots k x).bprofs = s.bprofs := rfl
@[simp] theorem State.setSlots_treeUs (s : State) (k : Nat) (x : ImageSlots) : (s.setSlots k x).treeUs = s.treeUs := rfl
@[simp] theorem State.setSlots_allocs (s : State) (k : Nat) (x : ImageSlots) : (s.setSlots k x).allocs = s.allocs := rfl
@[simp] theorem State.setSlots_sluTrees (s : State) (k : Nat) (x : ImageSlots) : (s.setSlots k x).sluTrees = s.sluTrees := rfl
@[simp] theorem State.setSlots_sluUnits (s : State) (k : Nat) (x : ImageSlots) : (s.setSlots k x).sluUnits = s.sluUnits := rfl
@[simp] theorem State.setSlots_sluShared (s : State) (k : Nat) (x : ImageSlots) : (s.setSlots k x).sluShared = s.sluShared := rfl
@[simp] theorem State.setSlots_slu (s : State) (k : Nat) (x : ImageSlots) : (s.setSlots k x).slu = s.slu := rfl
@[simp] theorem State.setSlots_buf (s : State) (k : Nat) (x : ImageSlots) : (s.setSlots k x).buf = s.buf := rfl
@[simp] theorem State.setSlots_tabs (s : State) (k : Nat) (x : ImageSlots) : (s.setSlots k x).tabs = s.tabs := rfl
@[simp] theorem State.setSlots_counts (s : State) (k : Nat) (x : ImageSlots) : (s.setSlots k x).counts = s.counts := rfl
@[simp] theorem State.setSlots_fabLinks (s : State) (k : Nat) (x : ImageSlots) : (s.setSlots k x).fabLinks = s.fabLinks := rfl
@[simp] theorem State.setSlots_fab (s : State) (k : Nat) (x : ImageSlots) : (s.setSlots k x).fab = s.fab := rfl
@[simp] theorem State.setSlots_prots (s : State) (k : Nat) (x : ImageSlots) : (s.setSlots k x).prots = s.prots := rfl
@[simp] theorem State.setSlots_engs (s : State) (k : Nat) (x : ImageSlots) : (s.setSlots k x).engs = s.engs := rfl
@[simp] theorem State.setSlots_tel (s : State) (k : Nat) (x : ImageSlots) : (s.setSlots k x).tel = s.tel := rfl
@[simp] theorem State.setSlots_errLog (s : State) (k : Nat) (x : ImageSlots) : (s.setSlots k x).errLog = s.errLog := rfl
@[simp] theorem State.setSlots_errOvf (s : State) (k : Nat) (x : ImageSlots) : (s.setSlots k x).errOvf = s.errOvf := rfl
@[simp] theorem State.setSlots_chans (s : State) (k : Nat) (x : ImageSlots) : (s.setSlots k x).chans = s.chans := rfl
@[simp] theorem State.setSlots_rakeLast (s : State) (k : Nat) (x : ImageSlots) : (s.setSlots k x).rakeLast = s.rakeLast := rfl
@[simp] theorem State.setSlots_mon (s : State) (k : Nat) (x : ImageSlots) : (s.setSlots k x).mon = s.mon := rfl
@[simp] theorem State.setSlots_rd (s : State) (k : Nat) (x : ImageSlots) (f0 : Fld) (i0 : Nat) :
    (s.setSlots k x).rd f0 i0 = s.rd f0 i0 := rfl
@[simp] theorem State.setSlots_flag (s : State) (k : Nat) (x : ImageSlots) (f0 : Fld) (i0 : Nat) :
    (s.setSlots k x).flag f0 i0 = s.flag f0 i0 := rfl
@[simp] theorem State.setSlots_pw (s : State) (k : Nat) (x : ImageSlots) (d0 : Nat) : (s.setSlots k x).pw d0 = s.pw d0 := rfl
@[simp] theorem State.setSlots_on (s : State) (k : Nat) (x : ImageSlots) (d0 : Nat) : (s.setSlots k x).on d0 = s.on d0 := rfl
@[simp] theorem State.setSlots_tstate (s : State) (k : Nat) (x : ImageSlots) (t0 : Nat) :
    (s.setSlots k x).tstate t0 = s.tstate t0 := rfl
@[simp] theorem State.setSlots_dom (s : State) (k : Nat) (x : ImageSlots) (k0 : Nat) : (s.setSlots k x).dom k0 = s.dom k0 := rfl
@[simp] theorem State.setSlots_ring (s : State) (k : Nat) (x : ImageSlots) (k0 : Nat) :
    (s.setSlots k x).ring k0 = s.ring k0 := rfl
@[simp] theorem State.setSlots_evq (s : State) (k : Nat) (x : ImageSlots) (k0 : Nat) : (s.setSlots k x).evq k0 = s.evq k0 := rfl
@[simp] theorem State.setSlots_tree (s : State) (k : Nat) (x : ImageSlots) (k0 : Nat) :
    (s.setSlots k x).tree k0 = s.tree k0 := rfl
@[simp] theorem State.setSlots_treeU (s : State) (k : Nat) (x : ImageSlots) (k0 : Nat) :
    (s.setSlots k x).treeU k0 = s.treeU k0 := rfl
@[simp] theorem State.setSlots_slot (s : State) (k : Nat) (x : ImageSlots) (k0 : Nat) :
    (s.setSlots k x).slot k0 = s.slot k0 := rfl
@[simp] theorem State.setSlots_shared (s : State) (k : Nat) (x : ImageSlots) (k0 : Nat) :
    (s.setSlots k x).shared k0 = s.shared k0 := rfl
@[simp] theorem State.setSlots_sluUnit (s : State) (k : Nat) (x : ImageSlots) (k0 : Nat) :
    (s.setSlots k x).sluUnit k0 = s.sluUnit k0 := rfl
@[simp] theorem State.setSlots_eng (s : State) (k : Nat) (x : ImageSlots) (k0 : Nat) : (s.setSlots k x).eng k0 = s.eng k0 := rfl
@[simp] theorem State.setSlots_chan (s : State) (k : Nat) (x : ImageSlots) (k0 : Nat) :
    (s.setSlots k x).chan k0 = s.chan k0 := rfl
@[simp] theorem State.setSlots_prot (s : State) (k : Nat) (x : ImageSlots) (k0 : Nat) :
    (s.setSlots k x).prot k0 = s.prot k0 := rfl
@[simp] theorem State.setSlots_link (s : State) (k : Nat) (x : ImageSlots) (k0 : Nat) :
    (s.setSlots k x).link k0 = s.link k0 := rfl
@[simp] theorem State.setSlots_term (s : State) (k : Nat) (x : ImageSlots) (k0 j0 : Nat) :
    (s.setSlots k x).term k0 j0 = s.term k0 j0 := rfl

/-! ### putBnd -/

@[simp] theorem State.putBnd_pending (s : State) (x : Boundary) : (s.putBnd x).pending = s.pending := rfl
@[simp] theorem State.putBnd_freeCtr (s : State) (x : Boundary) : (s.putBnd x).freeCtr = s.freeCtr := rfl
@[simp] theorem State.putBnd_out (s : State) (x : Boundary) : (s.putBnd x).out = s.out := rfl
@[simp] theorem State.putBnd_hostMem (s : State) (x : Boundary) : (s.putBnd x).hostMem = s.hostMem := rfl
@[simp] theorem State.putBnd_scratch (s : State) (x : Boundary) : (s.putBnd x).scratch = s.scratch := rfl
@[simp] theorem State.putBnd_fields (s : State) (x : Boundary) : (s.putBnd x).fields = s.fields := rfl
@[simp] theorem State.putBnd_tb (s : State) (x : Boundary) : (s.putBnd x).tb = s.tb := rfl
@[simp] theorem State.putBnd_doms (s : State) (x : Boundary) : (s.putBnd x).doms = s.doms := rfl
@[simp] theorem State.putBnd_sents (s : State) (x : Boundary) : (s.putBnd x).sents = s.sents := rfl
@[simp] theorem State.putBnd_hostSleep (s : State) (x : Boundary) : (s.putBnd x).hostSleep = s.hostSleep := rfl
@[simp] theorem State.putBnd_trees (s : State) (x : Boundary) : (s.putBnd x).trees = s.trees := rfl
@[simp] theorem State.putBnd_slots (s : State) (x : Boundary) : (s.putBnd x).slots = s.slots := rfl
@[simp] theorem State.putBnd_rings (s : State) (x : Boundary) : (s.putBnd x).rings = s.rings := rfl
@[simp] theorem State.putBnd_evqs (s : State) (x : Boundary) : (s.putBnd x).evqs = s.evqs := rfl
@[simp] theorem State.putBnd_doorbells (s : State) (x : Boundary) : (s.putBnd x).doorbells = s.doorbells := rfl
@[simp] theorem State.putBnd_cp (s : State) (x : Boundary) : (s.putBnd x).cp = s.cp := rfl
@[simp] theorem State.putBnd_terms (s : State) (x : Boundary) : (s.putBnd x).terms = s.terms := rfl
@[simp] theorem State.putBnd_flows (s : State) (x : Boundary) : (s.putBnd x).flows = s.flows := rfl
@[simp] theorem State.putBnd_reasms (s : State) (x : Boundary) : (s.putBnd x).reasms = s.reasms := rfl
@[simp] theorem State.putBnd_bprofs (s : State) (x : Boundary) : (s.putBnd x).bprofs = s.bprofs := rfl
@[simp] theorem State.putBnd_treeUs (s : State) (x : Boundary) : (s.putBnd x).treeUs = s.treeUs := rfl
@[simp] theorem State.putBnd_allocs (s : State) (x : Boundary) : (s.putBnd x).allocs = s.allocs := rfl
@[simp] theorem State.putBnd_sluTrees (s : State) (x : Boundary) : (s.putBnd x).sluTrees = s.sluTrees := rfl
@[simp] theorem State.putBnd_sluUnits (s : State) (x : Boundary) : (s.putBnd x).sluUnits = s.sluUnits := rfl
@[simp] theorem State.putBnd_sluShared (s : State) (x : Boundary) : (s.putBnd x).sluShared = s.sluShared := rfl
@[simp] theorem State.putBnd_slu (s : State) (x : Boundary) : (s.putBnd x).slu = s.slu := rfl
@[simp] theorem State.putBnd_buf (s : State) (x : Boundary) : (s.putBnd x).buf = s.buf := rfl
@[simp] theorem State.putBnd_tabs (s : State) (x : Boundary) : (s.putBnd x).tabs = s.tabs := rfl
@[simp] theorem State.putBnd_counts (s : State) (x : Boundary) : (s.putBnd x).counts = s.counts := rfl
@[simp] theorem State.putBnd_fabLinks (s : State) (x : Boundary) : (s.putBnd x).fabLinks = s.fabLinks := rfl
@[simp] theorem State.putBnd_fab (s : State) (x : Boundary) : (s.putBnd x).fab = s.fab := rfl
@[simp] theorem State.putBnd_prots (s : State) (x : Boundary) : (s.putBnd x).prots = s.prots := rfl
@[simp] theorem State.putBnd_engs (s : State) (x : Boundary) : (s.putBnd x).engs = s.engs := rfl
@[simp] theorem State.putBnd_tel (s : State) (x : Boundary) : (s.putBnd x).tel = s.tel := rfl
@[simp] theorem State.putBnd_errLog (s : State) (x : Boundary) : (s.putBnd x).errLog = s.errLog := rfl
@[simp] theorem State.putBnd_errOvf (s : State) (x : Boundary) : (s.putBnd x).errOvf = s.errOvf := rfl
@[simp] theorem State.putBnd_chans (s : State) (x : Boundary) : (s.putBnd x).chans = s.chans := rfl
@[simp] theorem State.putBnd_rakeLast (s : State) (x : Boundary) : (s.putBnd x).rakeLast = s.rakeLast := rfl
@[simp] theorem State.putBnd_mon (s : State) (x : Boundary) : (s.putBnd x).mon = s.mon := rfl
@[simp] theorem State.putBnd_rd (s : State) (x : Boundary) (f0 : Fld) (i0 : Nat) : (s.putBnd x).rd f0 i0 = s.rd f0 i0 := rfl
@[simp] theorem State.putBnd_flag (s : State) (x : Boundary) (f0 : Fld) (i0 : Nat) : (s.putBnd x).flag f0 i0 = s.flag f0 i0 := rfl
@[simp] theorem State.putBnd_pw (s : State) (x : Boundary) (d0 : Nat) : (s.putBnd x).pw d0 = s.pw d0 := rfl
@[simp] theorem State.putBnd_on (s : State) (x : Boundary) (d0 : Nat) : (s.putBnd x).on d0 = s.on d0 := rfl
@[simp] theorem State.putBnd_tstate (s : State) (x : Boundary) (t0 : Nat) : (s.putBnd x).tstate t0 = s.tstate t0 := rfl
@[simp] theorem State.putBnd_dom (s : State) (x : Boundary) (k0 : Nat) : (s.putBnd x).dom k0 = s.dom k0 := rfl
@[simp] theorem State.putBnd_ring (s : State) (x : Boundary) (k0 : Nat) : (s.putBnd x).ring k0 = s.ring k0 := rfl
@[simp] theorem State.putBnd_evq (s : State) (x : Boundary) (k0 : Nat) : (s.putBnd x).evq k0 = s.evq k0 := rfl
@[simp] theorem State.putBnd_tree (s : State) (x : Boundary) (k0 : Nat) : (s.putBnd x).tree k0 = s.tree k0 := rfl
@[simp] theorem State.putBnd_treeU (s : State) (x : Boundary) (k0 : Nat) : (s.putBnd x).treeU k0 = s.treeU k0 := rfl
@[simp] theorem State.putBnd_slot (s : State) (x : Boundary) (k0 : Nat) : (s.putBnd x).slot k0 = s.slot k0 := rfl
@[simp] theorem State.putBnd_shared (s : State) (x : Boundary) (k0 : Nat) : (s.putBnd x).shared k0 = s.shared k0 := rfl
@[simp] theorem State.putBnd_sluUnit (s : State) (x : Boundary) (k0 : Nat) : (s.putBnd x).sluUnit k0 = s.sluUnit k0 := rfl
@[simp] theorem State.putBnd_eng (s : State) (x : Boundary) (k0 : Nat) : (s.putBnd x).eng k0 = s.eng k0 := rfl
@[simp] theorem State.putBnd_chan (s : State) (x : Boundary) (k0 : Nat) : (s.putBnd x).chan k0 = s.chan k0 := rfl
@[simp] theorem State.putBnd_prot (s : State) (x : Boundary) (k0 : Nat) : (s.putBnd x).prot k0 = s.prot k0 := rfl
@[simp] theorem State.putBnd_link (s : State) (x : Boundary) (k0 : Nat) : (s.putBnd x).link k0 = s.link k0 := rfl
@[simp] theorem State.putBnd_term (s : State) (x : Boundary) (k0 j0 : Nat) : (s.putBnd x).term k0 j0 = s.term k0 j0 := rfl
@[simp] theorem State.putBnd_bnd (s : State) (x : Boundary) : (s.putBnd x).bnd = x := rfl

/-! ### putTb -/

@[simp] theorem State.putTb_pending (s : State) (x : Timebase) : (s.putTb x).pending = s.pending := rfl
@[simp] theorem State.putTb_freeCtr (s : State) (x : Timebase) : (s.putTb x).freeCtr = s.freeCtr := rfl
@[simp] theorem State.putTb_out (s : State) (x : Timebase) : (s.putTb x).out = s.out := rfl
@[simp] theorem State.putTb_hostMem (s : State) (x : Timebase) : (s.putTb x).hostMem = s.hostMem := rfl
@[simp] theorem State.putTb_scratch (s : State) (x : Timebase) : (s.putTb x).scratch = s.scratch := rfl
@[simp] theorem State.putTb_fields (s : State) (x : Timebase) : (s.putTb x).fields = s.fields := rfl
@[simp] theorem State.putTb_bnd (s : State) (x : Timebase) : (s.putTb x).bnd = s.bnd := rfl
@[simp] theorem State.putTb_doms (s : State) (x : Timebase) : (s.putTb x).doms = s.doms := rfl
@[simp] theorem State.putTb_sents (s : State) (x : Timebase) : (s.putTb x).sents = s.sents := rfl
@[simp] theorem State.putTb_hostSleep (s : State) (x : Timebase) : (s.putTb x).hostSleep = s.hostSleep := rfl
@[simp] theorem State.putTb_trees (s : State) (x : Timebase) : (s.putTb x).trees = s.trees := rfl
@[simp] theorem State.putTb_slots (s : State) (x : Timebase) : (s.putTb x).slots = s.slots := rfl
@[simp] theorem State.putTb_rings (s : State) (x : Timebase) : (s.putTb x).rings = s.rings := rfl
@[simp] theorem State.putTb_evqs (s : State) (x : Timebase) : (s.putTb x).evqs = s.evqs := rfl
@[simp] theorem State.putTb_doorbells (s : State) (x : Timebase) : (s.putTb x).doorbells = s.doorbells := rfl
@[simp] theorem State.putTb_cp (s : State) (x : Timebase) : (s.putTb x).cp = s.cp := rfl
@[simp] theorem State.putTb_terms (s : State) (x : Timebase) : (s.putTb x).terms = s.terms := rfl
@[simp] theorem State.putTb_flows (s : State) (x : Timebase) : (s.putTb x).flows = s.flows := rfl
@[simp] theorem State.putTb_reasms (s : State) (x : Timebase) : (s.putTb x).reasms = s.reasms := rfl
@[simp] theorem State.putTb_bprofs (s : State) (x : Timebase) : (s.putTb x).bprofs = s.bprofs := rfl
@[simp] theorem State.putTb_treeUs (s : State) (x : Timebase) : (s.putTb x).treeUs = s.treeUs := rfl
@[simp] theorem State.putTb_allocs (s : State) (x : Timebase) : (s.putTb x).allocs = s.allocs := rfl
@[simp] theorem State.putTb_sluTrees (s : State) (x : Timebase) : (s.putTb x).sluTrees = s.sluTrees := rfl
@[simp] theorem State.putTb_sluUnits (s : State) (x : Timebase) : (s.putTb x).sluUnits = s.sluUnits := rfl
@[simp] theorem State.putTb_sluShared (s : State) (x : Timebase) : (s.putTb x).sluShared = s.sluShared := rfl
@[simp] theorem State.putTb_slu (s : State) (x : Timebase) : (s.putTb x).slu = s.slu := rfl
@[simp] theorem State.putTb_buf (s : State) (x : Timebase) : (s.putTb x).buf = s.buf := rfl
@[simp] theorem State.putTb_tabs (s : State) (x : Timebase) : (s.putTb x).tabs = s.tabs := rfl
@[simp] theorem State.putTb_counts (s : State) (x : Timebase) : (s.putTb x).counts = s.counts := rfl
@[simp] theorem State.putTb_fabLinks (s : State) (x : Timebase) : (s.putTb x).fabLinks = s.fabLinks := rfl
@[simp] theorem State.putTb_fab (s : State) (x : Timebase) : (s.putTb x).fab = s.fab := rfl
@[simp] theorem State.putTb_prots (s : State) (x : Timebase) : (s.putTb x).prots = s.prots := rfl
@[simp] theorem State.putTb_engs (s : State) (x : Timebase) : (s.putTb x).engs = s.engs := rfl
@[simp] theorem State.putTb_tel (s : State) (x : Timebase) : (s.putTb x).tel = s.tel := rfl
@[simp] theorem State.putTb_errLog (s : State) (x : Timebase) : (s.putTb x).errLog = s.errLog := rfl
@[simp] theorem State.putTb_errOvf (s : State) (x : Timebase) : (s.putTb x).errOvf = s.errOvf := rfl
@[simp] theorem State.putTb_chans (s : State) (x : Timebase) : (s.putTb x).chans = s.chans := rfl
@[simp] theorem State.putTb_rakeLast (s : State) (x : Timebase) : (s.putTb x).rakeLast = s.rakeLast := rfl
@[simp] theorem State.putTb_mon (s : State) (x : Timebase) : (s.putTb x).mon = s.mon := rfl
@[simp] theorem State.putTb_rd (s : State) (x : Timebase) (f0 : Fld) (i0 : Nat) : (s.putTb x).rd f0 i0 = s.rd f0 i0 := rfl
@[simp] theorem State.putTb_flag (s : State) (x : Timebase) (f0 : Fld) (i0 : Nat) : (s.putTb x).flag f0 i0 = s.flag f0 i0 := rfl
@[simp] theorem State.putTb_pw (s : State) (x : Timebase) (d0 : Nat) : (s.putTb x).pw d0 = s.pw d0 := rfl
@[simp] theorem State.putTb_on (s : State) (x : Timebase) (d0 : Nat) : (s.putTb x).on d0 = s.on d0 := rfl
@[simp] theorem State.putTb_tstate (s : State) (x : Timebase) (t0 : Nat) : (s.putTb x).tstate t0 = s.tstate t0 := rfl
@[simp] theorem State.putTb_dom (s : State) (x : Timebase) (k0 : Nat) : (s.putTb x).dom k0 = s.dom k0 := rfl
@[simp] theorem State.putTb_ring (s : State) (x : Timebase) (k0 : Nat) : (s.putTb x).ring k0 = s.ring k0 := rfl
@[simp] theorem State.putTb_evq (s : State) (x : Timebase) (k0 : Nat) : (s.putTb x).evq k0 = s.evq k0 := rfl
@[simp] theorem State.putTb_tree (s : State) (x : Timebase) (k0 : Nat) : (s.putTb x).tree k0 = s.tree k0 := rfl
@[simp] theorem State.putTb_treeU (s : State) (x : Timebase) (k0 : Nat) : (s.putTb x).treeU k0 = s.treeU k0 := rfl
@[simp] theorem State.putTb_slot (s : State) (x : Timebase) (k0 : Nat) : (s.putTb x).slot k0 = s.slot k0 := rfl
@[simp] theorem State.putTb_shared (s : State) (x : Timebase) (k0 : Nat) : (s.putTb x).shared k0 = s.shared k0 := rfl
@[simp] theorem State.putTb_sluUnit (s : State) (x : Timebase) (k0 : Nat) : (s.putTb x).sluUnit k0 = s.sluUnit k0 := rfl
@[simp] theorem State.putTb_eng (s : State) (x : Timebase) (k0 : Nat) : (s.putTb x).eng k0 = s.eng k0 := rfl
@[simp] theorem State.putTb_chan (s : State) (x : Timebase) (k0 : Nat) : (s.putTb x).chan k0 = s.chan k0 := rfl
@[simp] theorem State.putTb_prot (s : State) (x : Timebase) (k0 : Nat) : (s.putTb x).prot k0 = s.prot k0 := rfl
@[simp] theorem State.putTb_link (s : State) (x : Timebase) (k0 : Nat) : (s.putTb x).link k0 = s.link k0 := rfl
@[simp] theorem State.putTb_term (s : State) (x : Timebase) (k0 j0 : Nat) : (s.putTb x).term k0 j0 = s.term k0 j0 := rfl
@[simp] theorem State.putTb_tb (s : State) (x : Timebase) : (s.putTb x).tb = x := rfl

/-! ### putDoms -/

@[simp] theorem State.putDoms_pending (s : State) (x : SMap PowerDom) : (s.putDoms x).pending = s.pending := rfl
@[simp] theorem State.putDoms_freeCtr (s : State) (x : SMap PowerDom) : (s.putDoms x).freeCtr = s.freeCtr := rfl
@[simp] theorem State.putDoms_out (s : State) (x : SMap PowerDom) : (s.putDoms x).out = s.out := rfl
@[simp] theorem State.putDoms_hostMem (s : State) (x : SMap PowerDom) : (s.putDoms x).hostMem = s.hostMem := rfl
@[simp] theorem State.putDoms_scratch (s : State) (x : SMap PowerDom) : (s.putDoms x).scratch = s.scratch := rfl
@[simp] theorem State.putDoms_fields (s : State) (x : SMap PowerDom) : (s.putDoms x).fields = s.fields := rfl
@[simp] theorem State.putDoms_bnd (s : State) (x : SMap PowerDom) : (s.putDoms x).bnd = s.bnd := rfl
@[simp] theorem State.putDoms_tb (s : State) (x : SMap PowerDom) : (s.putDoms x).tb = s.tb := rfl
@[simp] theorem State.putDoms_sents (s : State) (x : SMap PowerDom) : (s.putDoms x).sents = s.sents := rfl
@[simp] theorem State.putDoms_hostSleep (s : State) (x : SMap PowerDom) : (s.putDoms x).hostSleep = s.hostSleep := rfl
@[simp] theorem State.putDoms_trees (s : State) (x : SMap PowerDom) : (s.putDoms x).trees = s.trees := rfl
@[simp] theorem State.putDoms_slots (s : State) (x : SMap PowerDom) : (s.putDoms x).slots = s.slots := rfl
@[simp] theorem State.putDoms_rings (s : State) (x : SMap PowerDom) : (s.putDoms x).rings = s.rings := rfl
@[simp] theorem State.putDoms_evqs (s : State) (x : SMap PowerDom) : (s.putDoms x).evqs = s.evqs := rfl
@[simp] theorem State.putDoms_doorbells (s : State) (x : SMap PowerDom) : (s.putDoms x).doorbells = s.doorbells := rfl
@[simp] theorem State.putDoms_cp (s : State) (x : SMap PowerDom) : (s.putDoms x).cp = s.cp := rfl
@[simp] theorem State.putDoms_terms (s : State) (x : SMap PowerDom) : (s.putDoms x).terms = s.terms := rfl
@[simp] theorem State.putDoms_flows (s : State) (x : SMap PowerDom) : (s.putDoms x).flows = s.flows := rfl
@[simp] theorem State.putDoms_reasms (s : State) (x : SMap PowerDom) : (s.putDoms x).reasms = s.reasms := rfl
@[simp] theorem State.putDoms_bprofs (s : State) (x : SMap PowerDom) : (s.putDoms x).bprofs = s.bprofs := rfl
@[simp] theorem State.putDoms_treeUs (s : State) (x : SMap PowerDom) : (s.putDoms x).treeUs = s.treeUs := rfl
@[simp] theorem State.putDoms_allocs (s : State) (x : SMap PowerDom) : (s.putDoms x).allocs = s.allocs := rfl
@[simp] theorem State.putDoms_sluTrees (s : State) (x : SMap PowerDom) : (s.putDoms x).sluTrees = s.sluTrees := rfl
@[simp] theorem State.putDoms_sluUnits (s : State) (x : SMap PowerDom) : (s.putDoms x).sluUnits = s.sluUnits := rfl
@[simp] theorem State.putDoms_sluShared (s : State) (x : SMap PowerDom) : (s.putDoms x).sluShared = s.sluShared := rfl
@[simp] theorem State.putDoms_slu (s : State) (x : SMap PowerDom) : (s.putDoms x).slu = s.slu := rfl
@[simp] theorem State.putDoms_buf (s : State) (x : SMap PowerDom) : (s.putDoms x).buf = s.buf := rfl
@[simp] theorem State.putDoms_tabs (s : State) (x : SMap PowerDom) : (s.putDoms x).tabs = s.tabs := rfl
@[simp] theorem State.putDoms_counts (s : State) (x : SMap PowerDom) : (s.putDoms x).counts = s.counts := rfl
@[simp] theorem State.putDoms_fabLinks (s : State) (x : SMap PowerDom) : (s.putDoms x).fabLinks = s.fabLinks := rfl
@[simp] theorem State.putDoms_fab (s : State) (x : SMap PowerDom) : (s.putDoms x).fab = s.fab := rfl
@[simp] theorem State.putDoms_prots (s : State) (x : SMap PowerDom) : (s.putDoms x).prots = s.prots := rfl
@[simp] theorem State.putDoms_engs (s : State) (x : SMap PowerDom) : (s.putDoms x).engs = s.engs := rfl
@[simp] theorem State.putDoms_tel (s : State) (x : SMap PowerDom) : (s.putDoms x).tel = s.tel := rfl
@[simp] theorem State.putDoms_errLog (s : State) (x : SMap PowerDom) : (s.putDoms x).errLog = s.errLog := rfl
@[simp] theorem State.putDoms_errOvf (s : State) (x : SMap PowerDom) : (s.putDoms x).errOvf = s.errOvf := rfl
@[simp] theorem State.putDoms_chans (s : State) (x : SMap PowerDom) : (s.putDoms x).chans = s.chans := rfl
@[simp] theorem State.putDoms_rakeLast (s : State) (x : SMap PowerDom) : (s.putDoms x).rakeLast = s.rakeLast := rfl
@[simp] theorem State.putDoms_mon (s : State) (x : SMap PowerDom) : (s.putDoms x).mon = s.mon := rfl
@[simp] theorem State.putDoms_rd (s : State) (x : SMap PowerDom) (f0 : Fld) (i0 : Nat) :
    (s.putDoms x).rd f0 i0 = s.rd f0 i0 := rfl
@[simp] theorem State.putDoms_flag (s : State) (x : SMap PowerDom) (f0 : Fld) (i0 : Nat) :
    (s.putDoms x).flag f0 i0 = s.flag f0 i0 := rfl
@[simp] theorem State.putDoms_pw (s : State) (x : SMap PowerDom) (d0 : Nat) : (s.putDoms x).pw d0 = s.pw d0 := rfl
@[simp] theorem State.putDoms_on (s : State) (x : SMap PowerDom) (d0 : Nat) : (s.putDoms x).on d0 = s.on d0 := rfl
@[simp] theorem State.putDoms_tstate (s : State) (x : SMap PowerDom) (t0 : Nat) : (s.putDoms x).tstate t0 = s.tstate t0 := rfl
@[simp] theorem State.putDoms_ring (s : State) (x : SMap PowerDom) (k0 : Nat) : (s.putDoms x).ring k0 = s.ring k0 := rfl
@[simp] theorem State.putDoms_evq (s : State) (x : SMap PowerDom) (k0 : Nat) : (s.putDoms x).evq k0 = s.evq k0 := rfl
@[simp] theorem State.putDoms_tree (s : State) (x : SMap PowerDom) (k0 : Nat) : (s.putDoms x).tree k0 = s.tree k0 := rfl
@[simp] theorem State.putDoms_treeU (s : State) (x : SMap PowerDom) (k0 : Nat) : (s.putDoms x).treeU k0 = s.treeU k0 := rfl
@[simp] theorem State.putDoms_slot (s : State) (x : SMap PowerDom) (k0 : Nat) : (s.putDoms x).slot k0 = s.slot k0 := rfl
@[simp] theorem State.putDoms_shared (s : State) (x : SMap PowerDom) (k0 : Nat) : (s.putDoms x).shared k0 = s.shared k0 := rfl
@[simp] theorem State.putDoms_sluUnit (s : State) (x : SMap PowerDom) (k0 : Nat) : (s.putDoms x).sluUnit k0 = s.sluUnit k0 := rfl
@[simp] theorem State.putDoms_eng (s : State) (x : SMap PowerDom) (k0 : Nat) : (s.putDoms x).eng k0 = s.eng k0 := rfl
@[simp] theorem State.putDoms_chan (s : State) (x : SMap PowerDom) (k0 : Nat) : (s.putDoms x).chan k0 = s.chan k0 := rfl
@[simp] theorem State.putDoms_prot (s : State) (x : SMap PowerDom) (k0 : Nat) : (s.putDoms x).prot k0 = s.prot k0 := rfl
@[simp] theorem State.putDoms_link (s : State) (x : SMap PowerDom) (k0 : Nat) : (s.putDoms x).link k0 = s.link k0 := rfl
@[simp] theorem State.putDoms_term (s : State) (x : SMap PowerDom) (k0 j0 : Nat) : (s.putDoms x).term k0 j0 = s.term k0 j0 := rfl
@[simp] theorem State.putDoms_doms (s : State) (x : SMap PowerDom) : (s.putDoms x).doms = x := rfl

/-! ### putSents -/

@[simp] theorem State.putSents_pending (s : State) (x : SMap Sentinel) : (s.putSents x).pending = s.pending := rfl
@[simp] theorem State.putSents_freeCtr (s : State) (x : SMap Sentinel) : (s.putSents x).freeCtr = s.freeCtr := rfl
@[simp] theorem State.putSents_out (s : State) (x : SMap Sentinel) : (s.putSents x).out = s.out := rfl
@[simp] theorem State.putSents_hostMem (s : State) (x : SMap Sentinel) : (s.putSents x).hostMem = s.hostMem := rfl
@[simp] theorem State.putSents_scratch (s : State) (x : SMap Sentinel) : (s.putSents x).scratch = s.scratch := rfl
@[simp] theorem State.putSents_fields (s : State) (x : SMap Sentinel) : (s.putSents x).fields = s.fields := rfl
@[simp] theorem State.putSents_bnd (s : State) (x : SMap Sentinel) : (s.putSents x).bnd = s.bnd := rfl
@[simp] theorem State.putSents_tb (s : State) (x : SMap Sentinel) : (s.putSents x).tb = s.tb := rfl
@[simp] theorem State.putSents_doms (s : State) (x : SMap Sentinel) : (s.putSents x).doms = s.doms := rfl
@[simp] theorem State.putSents_hostSleep (s : State) (x : SMap Sentinel) : (s.putSents x).hostSleep = s.hostSleep := rfl
@[simp] theorem State.putSents_trees (s : State) (x : SMap Sentinel) : (s.putSents x).trees = s.trees := rfl
@[simp] theorem State.putSents_slots (s : State) (x : SMap Sentinel) : (s.putSents x).slots = s.slots := rfl
@[simp] theorem State.putSents_rings (s : State) (x : SMap Sentinel) : (s.putSents x).rings = s.rings := rfl
@[simp] theorem State.putSents_evqs (s : State) (x : SMap Sentinel) : (s.putSents x).evqs = s.evqs := rfl
@[simp] theorem State.putSents_doorbells (s : State) (x : SMap Sentinel) : (s.putSents x).doorbells = s.doorbells := rfl
@[simp] theorem State.putSents_cp (s : State) (x : SMap Sentinel) : (s.putSents x).cp = s.cp := rfl
@[simp] theorem State.putSents_terms (s : State) (x : SMap Sentinel) : (s.putSents x).terms = s.terms := rfl
@[simp] theorem State.putSents_flows (s : State) (x : SMap Sentinel) : (s.putSents x).flows = s.flows := rfl
@[simp] theorem State.putSents_reasms (s : State) (x : SMap Sentinel) : (s.putSents x).reasms = s.reasms := rfl
@[simp] theorem State.putSents_bprofs (s : State) (x : SMap Sentinel) : (s.putSents x).bprofs = s.bprofs := rfl
@[simp] theorem State.putSents_treeUs (s : State) (x : SMap Sentinel) : (s.putSents x).treeUs = s.treeUs := rfl
@[simp] theorem State.putSents_allocs (s : State) (x : SMap Sentinel) : (s.putSents x).allocs = s.allocs := rfl
@[simp] theorem State.putSents_sluTrees (s : State) (x : SMap Sentinel) : (s.putSents x).sluTrees = s.sluTrees := rfl
@[simp] theorem State.putSents_sluUnits (s : State) (x : SMap Sentinel) : (s.putSents x).sluUnits = s.sluUnits := rfl
@[simp] theorem State.putSents_sluShared (s : State) (x : SMap Sentinel) : (s.putSents x).sluShared = s.sluShared := rfl
@[simp] theorem State.putSents_slu (s : State) (x : SMap Sentinel) : (s.putSents x).slu = s.slu := rfl
@[simp] theorem State.putSents_buf (s : State) (x : SMap Sentinel) : (s.putSents x).buf = s.buf := rfl
@[simp] theorem State.putSents_tabs (s : State) (x : SMap Sentinel) : (s.putSents x).tabs = s.tabs := rfl
@[simp] theorem State.putSents_counts (s : State) (x : SMap Sentinel) : (s.putSents x).counts = s.counts := rfl
@[simp] theorem State.putSents_fabLinks (s : State) (x : SMap Sentinel) : (s.putSents x).fabLinks = s.fabLinks := rfl
@[simp] theorem State.putSents_fab (s : State) (x : SMap Sentinel) : (s.putSents x).fab = s.fab := rfl
@[simp] theorem State.putSents_prots (s : State) (x : SMap Sentinel) : (s.putSents x).prots = s.prots := rfl
@[simp] theorem State.putSents_engs (s : State) (x : SMap Sentinel) : (s.putSents x).engs = s.engs := rfl
@[simp] theorem State.putSents_tel (s : State) (x : SMap Sentinel) : (s.putSents x).tel = s.tel := rfl
@[simp] theorem State.putSents_errLog (s : State) (x : SMap Sentinel) : (s.putSents x).errLog = s.errLog := rfl
@[simp] theorem State.putSents_errOvf (s : State) (x : SMap Sentinel) : (s.putSents x).errOvf = s.errOvf := rfl
@[simp] theorem State.putSents_chans (s : State) (x : SMap Sentinel) : (s.putSents x).chans = s.chans := rfl
@[simp] theorem State.putSents_rakeLast (s : State) (x : SMap Sentinel) : (s.putSents x).rakeLast = s.rakeLast := rfl
@[simp] theorem State.putSents_mon (s : State) (x : SMap Sentinel) : (s.putSents x).mon = s.mon := rfl
@[simp] theorem State.putSents_rd (s : State) (x : SMap Sentinel) (f0 : Fld) (i0 : Nat) :
    (s.putSents x).rd f0 i0 = s.rd f0 i0 := rfl
@[simp] theorem State.putSents_flag (s : State) (x : SMap Sentinel) (f0 : Fld) (i0 : Nat) :
    (s.putSents x).flag f0 i0 = s.flag f0 i0 := rfl
@[simp] theorem State.putSents_pw (s : State) (x : SMap Sentinel) (d0 : Nat) : (s.putSents x).pw d0 = s.pw d0 := rfl
@[simp] theorem State.putSents_on (s : State) (x : SMap Sentinel) (d0 : Nat) : (s.putSents x).on d0 = s.on d0 := rfl
@[simp] theorem State.putSents_tstate (s : State) (x : SMap Sentinel) (t0 : Nat) : (s.putSents x).tstate t0 = s.tstate t0 := rfl
@[simp] theorem State.putSents_dom (s : State) (x : SMap Sentinel) (k0 : Nat) : (s.putSents x).dom k0 = s.dom k0 := rfl
@[simp] theorem State.putSents_ring (s : State) (x : SMap Sentinel) (k0 : Nat) : (s.putSents x).ring k0 = s.ring k0 := rfl
@[simp] theorem State.putSents_evq (s : State) (x : SMap Sentinel) (k0 : Nat) : (s.putSents x).evq k0 = s.evq k0 := rfl
@[simp] theorem State.putSents_tree (s : State) (x : SMap Sentinel) (k0 : Nat) : (s.putSents x).tree k0 = s.tree k0 := rfl
@[simp] theorem State.putSents_treeU (s : State) (x : SMap Sentinel) (k0 : Nat) : (s.putSents x).treeU k0 = s.treeU k0 := rfl
@[simp] theorem State.putSents_slot (s : State) (x : SMap Sentinel) (k0 : Nat) : (s.putSents x).slot k0 = s.slot k0 := rfl
@[simp] theorem State.putSents_shared (s : State) (x : SMap Sentinel) (k0 : Nat) : (s.putSents x).shared k0 = s.shared k0 := rfl
@[simp] theorem State.putSents_sluUnit (s : State) (x : SMap Sentinel) (k0 : Nat) :
    (s.putSents x).sluUnit k0 = s.sluUnit k0 := rfl
@[simp] theorem State.putSents_eng (s : State) (x : SMap Sentinel) (k0 : Nat) : (s.putSents x).eng k0 = s.eng k0 := rfl
@[simp] theorem State.putSents_chan (s : State) (x : SMap Sentinel) (k0 : Nat) : (s.putSents x).chan k0 = s.chan k0 := rfl
@[simp] theorem State.putSents_prot (s : State) (x : SMap Sentinel) (k0 : Nat) : (s.putSents x).prot k0 = s.prot k0 := rfl
@[simp] theorem State.putSents_link (s : State) (x : SMap Sentinel) (k0 : Nat) : (s.putSents x).link k0 = s.link k0 := rfl
@[simp] theorem State.putSents_term (s : State) (x : SMap Sentinel) (k0 j0 : Nat) :
    (s.putSents x).term k0 j0 = s.term k0 j0 := rfl
@[simp] theorem State.putSents_sents (s : State) (x : SMap Sentinel) : (s.putSents x).sents = x := rfl

/-! ### putDoorbells -/

@[simp] theorem State.putDoorbells_pending (s : State) (x : List PendingDb) : (s.putDoorbells x).pending = s.pending := rfl
@[simp] theorem State.putDoorbells_freeCtr (s : State) (x : List PendingDb) : (s.putDoorbells x).freeCtr = s.freeCtr := rfl
@[simp] theorem State.putDoorbells_out (s : State) (x : List PendingDb) : (s.putDoorbells x).out = s.out := rfl
@[simp] theorem State.putDoorbells_hostMem (s : State) (x : List PendingDb) : (s.putDoorbells x).hostMem = s.hostMem := rfl
@[simp] theorem State.putDoorbells_scratch (s : State) (x : List PendingDb) : (s.putDoorbells x).scratch = s.scratch := rfl
@[simp] theorem State.putDoorbells_fields (s : State) (x : List PendingDb) : (s.putDoorbells x).fields = s.fields := rfl
@[simp] theorem State.putDoorbells_bnd (s : State) (x : List PendingDb) : (s.putDoorbells x).bnd = s.bnd := rfl
@[simp] theorem State.putDoorbells_tb (s : State) (x : List PendingDb) : (s.putDoorbells x).tb = s.tb := rfl
@[simp] theorem State.putDoorbells_doms (s : State) (x : List PendingDb) : (s.putDoorbells x).doms = s.doms := rfl
@[simp] theorem State.putDoorbells_sents (s : State) (x : List PendingDb) : (s.putDoorbells x).sents = s.sents := rfl
@[simp] theorem State.putDoorbells_hostSleep (s : State) (x : List PendingDb) : (s.putDoorbells x).hostSleep = s.hostSleep := rfl
@[simp] theorem State.putDoorbells_trees (s : State) (x : List PendingDb) : (s.putDoorbells x).trees = s.trees := rfl
@[simp] theorem State.putDoorbells_slots (s : State) (x : List PendingDb) : (s.putDoorbells x).slots = s.slots := rfl
@[simp] theorem State.putDoorbells_rings (s : State) (x : List PendingDb) : (s.putDoorbells x).rings = s.rings := rfl
@[simp] theorem State.putDoorbells_evqs (s : State) (x : List PendingDb) : (s.putDoorbells x).evqs = s.evqs := rfl
@[simp] theorem State.putDoorbells_cp (s : State) (x : List PendingDb) : (s.putDoorbells x).cp = s.cp := rfl
@[simp] theorem State.putDoorbells_terms (s : State) (x : List PendingDb) : (s.putDoorbells x).terms = s.terms := rfl
@[simp] theorem State.putDoorbells_flows (s : State) (x : List PendingDb) : (s.putDoorbells x).flows = s.flows := rfl
@[simp] theorem State.putDoorbells_reasms (s : State) (x : List PendingDb) : (s.putDoorbells x).reasms = s.reasms := rfl
@[simp] theorem State.putDoorbells_bprofs (s : State) (x : List PendingDb) : (s.putDoorbells x).bprofs = s.bprofs := rfl
@[simp] theorem State.putDoorbells_treeUs (s : State) (x : List PendingDb) : (s.putDoorbells x).treeUs = s.treeUs := rfl
@[simp] theorem State.putDoorbells_allocs (s : State) (x : List PendingDb) : (s.putDoorbells x).allocs = s.allocs := rfl
@[simp] theorem State.putDoorbells_sluTrees (s : State) (x : List PendingDb) : (s.putDoorbells x).sluTrees = s.sluTrees := rfl
@[simp] theorem State.putDoorbells_sluUnits (s : State) (x : List PendingDb) : (s.putDoorbells x).sluUnits = s.sluUnits := rfl
@[simp] theorem State.putDoorbells_sluShared (s : State) (x : List PendingDb) : (s.putDoorbells x).sluShared = s.sluShared := rfl
@[simp] theorem State.putDoorbells_slu (s : State) (x : List PendingDb) : (s.putDoorbells x).slu = s.slu := rfl
@[simp] theorem State.putDoorbells_buf (s : State) (x : List PendingDb) : (s.putDoorbells x).buf = s.buf := rfl
@[simp] theorem State.putDoorbells_tabs (s : State) (x : List PendingDb) : (s.putDoorbells x).tabs = s.tabs := rfl
@[simp] theorem State.putDoorbells_counts (s : State) (x : List PendingDb) : (s.putDoorbells x).counts = s.counts := rfl
@[simp] theorem State.putDoorbells_fabLinks (s : State) (x : List PendingDb) : (s.putDoorbells x).fabLinks = s.fabLinks := rfl
@[simp] theorem State.putDoorbells_fab (s : State) (x : List PendingDb) : (s.putDoorbells x).fab = s.fab := rfl
@[simp] theorem State.putDoorbells_prots (s : State) (x : List PendingDb) : (s.putDoorbells x).prots = s.prots := rfl
@[simp] theorem State.putDoorbells_engs (s : State) (x : List PendingDb) : (s.putDoorbells x).engs = s.engs := rfl
@[simp] theorem State.putDoorbells_tel (s : State) (x : List PendingDb) : (s.putDoorbells x).tel = s.tel := rfl
@[simp] theorem State.putDoorbells_errLog (s : State) (x : List PendingDb) : (s.putDoorbells x).errLog = s.errLog := rfl
@[simp] theorem State.putDoorbells_errOvf (s : State) (x : List PendingDb) : (s.putDoorbells x).errOvf = s.errOvf := rfl
@[simp] theorem State.putDoorbells_chans (s : State) (x : List PendingDb) : (s.putDoorbells x).chans = s.chans := rfl
@[simp] theorem State.putDoorbells_rakeLast (s : State) (x : List PendingDb) : (s.putDoorbells x).rakeLast = s.rakeLast := rfl
@[simp] theorem State.putDoorbells_mon (s : State) (x : List PendingDb) : (s.putDoorbells x).mon = s.mon := rfl
@[simp] theorem State.putDoorbells_rd (s : State) (x : List PendingDb) (f0 : Fld) (i0 : Nat) :
    (s.putDoorbells x).rd f0 i0 = s.rd f0 i0 := rfl
@[simp] theorem State.putDoorbells_flag (s : State) (x : List PendingDb) (f0 : Fld) (i0 : Nat) :
    (s.putDoorbells x).flag f0 i0 = s.flag f0 i0 := rfl
@[simp] theorem State.putDoorbells_pw (s : State) (x : List PendingDb) (d0 : Nat) : (s.putDoorbells x).pw d0 = s.pw d0 := rfl
@[simp] theorem State.putDoorbells_on (s : State) (x : List PendingDb) (d0 : Nat) : (s.putDoorbells x).on d0 = s.on d0 := rfl
@[simp] theorem State.putDoorbells_tstate (s : State) (x : List PendingDb) (t0 : Nat) :
    (s.putDoorbells x).tstate t0 = s.tstate t0 := rfl
@[simp] theorem State.putDoorbells_dom (s : State) (x : List PendingDb) (k0 : Nat) : (s.putDoorbells x).dom k0 = s.dom k0 := rfl
@[simp] theorem State.putDoorbells_ring (s : State) (x : List PendingDb) (k0 : Nat) :
    (s.putDoorbells x).ring k0 = s.ring k0 := rfl
@[simp] theorem State.putDoorbells_evq (s : State) (x : List PendingDb) (k0 : Nat) : (s.putDoorbells x).evq k0 = s.evq k0 := rfl
@[simp] theorem State.putDoorbells_tree (s : State) (x : List PendingDb) (k0 : Nat) :
    (s.putDoorbells x).tree k0 = s.tree k0 := rfl
@[simp] theorem State.putDoorbells_treeU (s : State) (x : List PendingDb) (k0 : Nat) :
    (s.putDoorbells x).treeU k0 = s.treeU k0 := rfl
@[simp] theorem State.putDoorbells_slot (s : State) (x : List PendingDb) (k0 : Nat) :
    (s.putDoorbells x).slot k0 = s.slot k0 := rfl
@[simp] theorem State.putDoorbells_shared (s : State) (x : List PendingDb) (k0 : Nat) :
    (s.putDoorbells x).shared k0 = s.shared k0 := rfl
@[simp] theorem State.putDoorbells_sluUnit (s : State) (x : List PendingDb) (k0 : Nat) :
    (s.putDoorbells x).sluUnit k0 = s.sluUnit k0 := rfl
@[simp] theorem State.putDoorbells_eng (s : State) (x : List PendingDb) (k0 : Nat) : (s.putDoorbells x).eng k0 = s.eng k0 := rfl
@[simp] theorem State.putDoorbells_chan (s : State) (x : List PendingDb) (k0 : Nat) :
    (s.putDoorbells x).chan k0 = s.chan k0 := rfl
@[simp] theorem State.putDoorbells_prot (s : State) (x : List PendingDb) (k0 : Nat) :
    (s.putDoorbells x).prot k0 = s.prot k0 := rfl
@[simp] theorem State.putDoorbells_link (s : State) (x : List PendingDb) (k0 : Nat) :
    (s.putDoorbells x).link k0 = s.link k0 := rfl
@[simp] theorem State.putDoorbells_term (s : State) (x : List PendingDb) (k0 j0 : Nat) :
    (s.putDoorbells x).term k0 j0 = s.term k0 j0 := rfl
@[simp] theorem State.putDoorbells_doorbells (s : State) (x : List PendingDb) : (s.putDoorbells x).doorbells = x := rfl

/-! ### putCp -/

@[simp] theorem State.putCp_pending (s : State) (x : CpState) : (s.putCp x).pending = s.pending := rfl
@[simp] theorem State.putCp_freeCtr (s : State) (x : CpState) : (s.putCp x).freeCtr = s.freeCtr := rfl
@[simp] theorem State.putCp_out (s : State) (x : CpState) : (s.putCp x).out = s.out := rfl
@[simp] theorem State.putCp_hostMem (s : State) (x : CpState) : (s.putCp x).hostMem = s.hostMem := rfl
@[simp] theorem State.putCp_scratch (s : State) (x : CpState) : (s.putCp x).scratch = s.scratch := rfl
@[simp] theorem State.putCp_fields (s : State) (x : CpState) : (s.putCp x).fields = s.fields := rfl
@[simp] theorem State.putCp_bnd (s : State) (x : CpState) : (s.putCp x).bnd = s.bnd := rfl
@[simp] theorem State.putCp_tb (s : State) (x : CpState) : (s.putCp x).tb = s.tb := rfl
@[simp] theorem State.putCp_doms (s : State) (x : CpState) : (s.putCp x).doms = s.doms := rfl
@[simp] theorem State.putCp_sents (s : State) (x : CpState) : (s.putCp x).sents = s.sents := rfl
@[simp] theorem State.putCp_hostSleep (s : State) (x : CpState) : (s.putCp x).hostSleep = s.hostSleep := rfl
@[simp] theorem State.putCp_trees (s : State) (x : CpState) : (s.putCp x).trees = s.trees := rfl
@[simp] theorem State.putCp_slots (s : State) (x : CpState) : (s.putCp x).slots = s.slots := rfl
@[simp] theorem State.putCp_rings (s : State) (x : CpState) : (s.putCp x).rings = s.rings := rfl
@[simp] theorem State.putCp_evqs (s : State) (x : CpState) : (s.putCp x).evqs = s.evqs := rfl
@[simp] theorem State.putCp_doorbells (s : State) (x : CpState) : (s.putCp x).doorbells = s.doorbells := rfl
@[simp] theorem State.putCp_terms (s : State) (x : CpState) : (s.putCp x).terms = s.terms := rfl
@[simp] theorem State.putCp_flows (s : State) (x : CpState) : (s.putCp x).flows = s.flows := rfl
@[simp] theorem State.putCp_reasms (s : State) (x : CpState) : (s.putCp x).reasms = s.reasms := rfl
@[simp] theorem State.putCp_bprofs (s : State) (x : CpState) : (s.putCp x).bprofs = s.bprofs := rfl
@[simp] theorem State.putCp_treeUs (s : State) (x : CpState) : (s.putCp x).treeUs = s.treeUs := rfl
@[simp] theorem State.putCp_allocs (s : State) (x : CpState) : (s.putCp x).allocs = s.allocs := rfl
@[simp] theorem State.putCp_sluTrees (s : State) (x : CpState) : (s.putCp x).sluTrees = s.sluTrees := rfl
@[simp] theorem State.putCp_sluUnits (s : State) (x : CpState) : (s.putCp x).sluUnits = s.sluUnits := rfl
@[simp] theorem State.putCp_sluShared (s : State) (x : CpState) : (s.putCp x).sluShared = s.sluShared := rfl
@[simp] theorem State.putCp_slu (s : State) (x : CpState) : (s.putCp x).slu = s.slu := rfl
@[simp] theorem State.putCp_buf (s : State) (x : CpState) : (s.putCp x).buf = s.buf := rfl
@[simp] theorem State.putCp_tabs (s : State) (x : CpState) : (s.putCp x).tabs = s.tabs := rfl
@[simp] theorem State.putCp_counts (s : State) (x : CpState) : (s.putCp x).counts = s.counts := rfl
@[simp] theorem State.putCp_fabLinks (s : State) (x : CpState) : (s.putCp x).fabLinks = s.fabLinks := rfl
@[simp] theorem State.putCp_fab (s : State) (x : CpState) : (s.putCp x).fab = s.fab := rfl
@[simp] theorem State.putCp_prots (s : State) (x : CpState) : (s.putCp x).prots = s.prots := rfl
@[simp] theorem State.putCp_engs (s : State) (x : CpState) : (s.putCp x).engs = s.engs := rfl
@[simp] theorem State.putCp_tel (s : State) (x : CpState) : (s.putCp x).tel = s.tel := rfl
@[simp] theorem State.putCp_errLog (s : State) (x : CpState) : (s.putCp x).errLog = s.errLog := rfl
@[simp] theorem State.putCp_errOvf (s : State) (x : CpState) : (s.putCp x).errOvf = s.errOvf := rfl
@[simp] theorem State.putCp_chans (s : State) (x : CpState) : (s.putCp x).chans = s.chans := rfl
@[simp] theorem State.putCp_rakeLast (s : State) (x : CpState) : (s.putCp x).rakeLast = s.rakeLast := rfl
@[simp] theorem State.putCp_mon (s : State) (x : CpState) : (s.putCp x).mon = s.mon := rfl
@[simp] theorem State.putCp_rd (s : State) (x : CpState) (f0 : Fld) (i0 : Nat) : (s.putCp x).rd f0 i0 = s.rd f0 i0 := rfl
@[simp] theorem State.putCp_flag (s : State) (x : CpState) (f0 : Fld) (i0 : Nat) : (s.putCp x).flag f0 i0 = s.flag f0 i0 := rfl
@[simp] theorem State.putCp_pw (s : State) (x : CpState) (d0 : Nat) : (s.putCp x).pw d0 = s.pw d0 := rfl
@[simp] theorem State.putCp_on (s : State) (x : CpState) (d0 : Nat) : (s.putCp x).on d0 = s.on d0 := rfl
@[simp] theorem State.putCp_tstate (s : State) (x : CpState) (t0 : Nat) : (s.putCp x).tstate t0 = s.tstate t0 := rfl
@[simp] theorem State.putCp_dom (s : State) (x : CpState) (k0 : Nat) : (s.putCp x).dom k0 = s.dom k0 := rfl
@[simp] theorem State.putCp_ring (s : State) (x : CpState) (k0 : Nat) : (s.putCp x).ring k0 = s.ring k0 := rfl
@[simp] theorem State.putCp_evq (s : State) (x : CpState) (k0 : Nat) : (s.putCp x).evq k0 = s.evq k0 := rfl
@[simp] theorem State.putCp_tree (s : State) (x : CpState) (k0 : Nat) : (s.putCp x).tree k0 = s.tree k0 := rfl
@[simp] theorem State.putCp_treeU (s : State) (x : CpState) (k0 : Nat) : (s.putCp x).treeU k0 = s.treeU k0 := rfl
@[simp] theorem State.putCp_slot (s : State) (x : CpState) (k0 : Nat) : (s.putCp x).slot k0 = s.slot k0 := rfl
@[simp] theorem State.putCp_shared (s : State) (x : CpState) (k0 : Nat) : (s.putCp x).shared k0 = s.shared k0 := rfl
@[simp] theorem State.putCp_sluUnit (s : State) (x : CpState) (k0 : Nat) : (s.putCp x).sluUnit k0 = s.sluUnit k0 := rfl
@[simp] theorem State.putCp_eng (s : State) (x : CpState) (k0 : Nat) : (s.putCp x).eng k0 = s.eng k0 := rfl
@[simp] theorem State.putCp_chan (s : State) (x : CpState) (k0 : Nat) : (s.putCp x).chan k0 = s.chan k0 := rfl
@[simp] theorem State.putCp_prot (s : State) (x : CpState) (k0 : Nat) : (s.putCp x).prot k0 = s.prot k0 := rfl
@[simp] theorem State.putCp_link (s : State) (x : CpState) (k0 : Nat) : (s.putCp x).link k0 = s.link k0 := rfl
@[simp] theorem State.putCp_term (s : State) (x : CpState) (k0 j0 : Nat) : (s.putCp x).term k0 j0 = s.term k0 j0 := rfl
@[simp] theorem State.putCp_cp (s : State) (x : CpState) : (s.putCp x).cp = x := rfl

/-! ### putTerms -/

@[simp] theorem State.putTerms_pending (s : State) (x : SMap Term) : (s.putTerms x).pending = s.pending := rfl
@[simp] theorem State.putTerms_freeCtr (s : State) (x : SMap Term) : (s.putTerms x).freeCtr = s.freeCtr := rfl
@[simp] theorem State.putTerms_out (s : State) (x : SMap Term) : (s.putTerms x).out = s.out := rfl
@[simp] theorem State.putTerms_hostMem (s : State) (x : SMap Term) : (s.putTerms x).hostMem = s.hostMem := rfl
@[simp] theorem State.putTerms_scratch (s : State) (x : SMap Term) : (s.putTerms x).scratch = s.scratch := rfl
@[simp] theorem State.putTerms_fields (s : State) (x : SMap Term) : (s.putTerms x).fields = s.fields := rfl
@[simp] theorem State.putTerms_bnd (s : State) (x : SMap Term) : (s.putTerms x).bnd = s.bnd := rfl
@[simp] theorem State.putTerms_tb (s : State) (x : SMap Term) : (s.putTerms x).tb = s.tb := rfl
@[simp] theorem State.putTerms_doms (s : State) (x : SMap Term) : (s.putTerms x).doms = s.doms := rfl
@[simp] theorem State.putTerms_sents (s : State) (x : SMap Term) : (s.putTerms x).sents = s.sents := rfl
@[simp] theorem State.putTerms_hostSleep (s : State) (x : SMap Term) : (s.putTerms x).hostSleep = s.hostSleep := rfl
@[simp] theorem State.putTerms_trees (s : State) (x : SMap Term) : (s.putTerms x).trees = s.trees := rfl
@[simp] theorem State.putTerms_slots (s : State) (x : SMap Term) : (s.putTerms x).slots = s.slots := rfl
@[simp] theorem State.putTerms_rings (s : State) (x : SMap Term) : (s.putTerms x).rings = s.rings := rfl
@[simp] theorem State.putTerms_evqs (s : State) (x : SMap Term) : (s.putTerms x).evqs = s.evqs := rfl
@[simp] theorem State.putTerms_doorbells (s : State) (x : SMap Term) : (s.putTerms x).doorbells = s.doorbells := rfl
@[simp] theorem State.putTerms_cp (s : State) (x : SMap Term) : (s.putTerms x).cp = s.cp := rfl
@[simp] theorem State.putTerms_flows (s : State) (x : SMap Term) : (s.putTerms x).flows = s.flows := rfl
@[simp] theorem State.putTerms_reasms (s : State) (x : SMap Term) : (s.putTerms x).reasms = s.reasms := rfl
@[simp] theorem State.putTerms_bprofs (s : State) (x : SMap Term) : (s.putTerms x).bprofs = s.bprofs := rfl
@[simp] theorem State.putTerms_treeUs (s : State) (x : SMap Term) : (s.putTerms x).treeUs = s.treeUs := rfl
@[simp] theorem State.putTerms_allocs (s : State) (x : SMap Term) : (s.putTerms x).allocs = s.allocs := rfl
@[simp] theorem State.putTerms_sluTrees (s : State) (x : SMap Term) : (s.putTerms x).sluTrees = s.sluTrees := rfl
@[simp] theorem State.putTerms_sluUnits (s : State) (x : SMap Term) : (s.putTerms x).sluUnits = s.sluUnits := rfl
@[simp] theorem State.putTerms_sluShared (s : State) (x : SMap Term) : (s.putTerms x).sluShared = s.sluShared := rfl
@[simp] theorem State.putTerms_slu (s : State) (x : SMap Term) : (s.putTerms x).slu = s.slu := rfl
@[simp] theorem State.putTerms_buf (s : State) (x : SMap Term) : (s.putTerms x).buf = s.buf := rfl
@[simp] theorem State.putTerms_tabs (s : State) (x : SMap Term) : (s.putTerms x).tabs = s.tabs := rfl
@[simp] theorem State.putTerms_counts (s : State) (x : SMap Term) : (s.putTerms x).counts = s.counts := rfl
@[simp] theorem State.putTerms_fabLinks (s : State) (x : SMap Term) : (s.putTerms x).fabLinks = s.fabLinks := rfl
@[simp] theorem State.putTerms_fab (s : State) (x : SMap Term) : (s.putTerms x).fab = s.fab := rfl
@[simp] theorem State.putTerms_prots (s : State) (x : SMap Term) : (s.putTerms x).prots = s.prots := rfl
@[simp] theorem State.putTerms_engs (s : State) (x : SMap Term) : (s.putTerms x).engs = s.engs := rfl
@[simp] theorem State.putTerms_tel (s : State) (x : SMap Term) : (s.putTerms x).tel = s.tel := rfl
@[simp] theorem State.putTerms_errLog (s : State) (x : SMap Term) : (s.putTerms x).errLog = s.errLog := rfl
@[simp] theorem State.putTerms_errOvf (s : State) (x : SMap Term) : (s.putTerms x).errOvf = s.errOvf := rfl
@[simp] theorem State.putTerms_chans (s : State) (x : SMap Term) : (s.putTerms x).chans = s.chans := rfl
@[simp] theorem State.putTerms_rakeLast (s : State) (x : SMap Term) : (s.putTerms x).rakeLast = s.rakeLast := rfl
@[simp] theorem State.putTerms_mon (s : State) (x : SMap Term) : (s.putTerms x).mon = s.mon := rfl
@[simp] theorem State.putTerms_rd (s : State) (x : SMap Term) (f0 : Fld) (i0 : Nat) : (s.putTerms x).rd f0 i0 = s.rd f0 i0 := rfl
@[simp] theorem State.putTerms_flag (s : State) (x : SMap Term) (f0 : Fld) (i0 : Nat) :
    (s.putTerms x).flag f0 i0 = s.flag f0 i0 := rfl
@[simp] theorem State.putTerms_pw (s : State) (x : SMap Term) (d0 : Nat) : (s.putTerms x).pw d0 = s.pw d0 := rfl
@[simp] theorem State.putTerms_on (s : State) (x : SMap Term) (d0 : Nat) : (s.putTerms x).on d0 = s.on d0 := rfl
@[simp] theorem State.putTerms_tstate (s : State) (x : SMap Term) (t0 : Nat) : (s.putTerms x).tstate t0 = s.tstate t0 := rfl
@[simp] theorem State.putTerms_dom (s : State) (x : SMap Term) (k0 : Nat) : (s.putTerms x).dom k0 = s.dom k0 := rfl
@[simp] theorem State.putTerms_ring (s : State) (x : SMap Term) (k0 : Nat) : (s.putTerms x).ring k0 = s.ring k0 := rfl
@[simp] theorem State.putTerms_evq (s : State) (x : SMap Term) (k0 : Nat) : (s.putTerms x).evq k0 = s.evq k0 := rfl
@[simp] theorem State.putTerms_tree (s : State) (x : SMap Term) (k0 : Nat) : (s.putTerms x).tree k0 = s.tree k0 := rfl
@[simp] theorem State.putTerms_treeU (s : State) (x : SMap Term) (k0 : Nat) : (s.putTerms x).treeU k0 = s.treeU k0 := rfl
@[simp] theorem State.putTerms_slot (s : State) (x : SMap Term) (k0 : Nat) : (s.putTerms x).slot k0 = s.slot k0 := rfl
@[simp] theorem State.putTerms_shared (s : State) (x : SMap Term) (k0 : Nat) : (s.putTerms x).shared k0 = s.shared k0 := rfl
@[simp] theorem State.putTerms_sluUnit (s : State) (x : SMap Term) (k0 : Nat) : (s.putTerms x).sluUnit k0 = s.sluUnit k0 := rfl
@[simp] theorem State.putTerms_eng (s : State) (x : SMap Term) (k0 : Nat) : (s.putTerms x).eng k0 = s.eng k0 := rfl
@[simp] theorem State.putTerms_chan (s : State) (x : SMap Term) (k0 : Nat) : (s.putTerms x).chan k0 = s.chan k0 := rfl
@[simp] theorem State.putTerms_prot (s : State) (x : SMap Term) (k0 : Nat) : (s.putTerms x).prot k0 = s.prot k0 := rfl
@[simp] theorem State.putTerms_link (s : State) (x : SMap Term) (k0 : Nat) : (s.putTerms x).link k0 = s.link k0 := rfl
@[simp] theorem State.putTerms_terms (s : State) (x : SMap Term) : (s.putTerms x).terms = x := rfl

/-! ### putFlows -/

@[simp] theorem State.putFlows_pending (s : State) (x : SMap Flow) : (s.putFlows x).pending = s.pending := rfl
@[simp] theorem State.putFlows_freeCtr (s : State) (x : SMap Flow) : (s.putFlows x).freeCtr = s.freeCtr := rfl
@[simp] theorem State.putFlows_out (s : State) (x : SMap Flow) : (s.putFlows x).out = s.out := rfl
@[simp] theorem State.putFlows_hostMem (s : State) (x : SMap Flow) : (s.putFlows x).hostMem = s.hostMem := rfl
@[simp] theorem State.putFlows_scratch (s : State) (x : SMap Flow) : (s.putFlows x).scratch = s.scratch := rfl
@[simp] theorem State.putFlows_fields (s : State) (x : SMap Flow) : (s.putFlows x).fields = s.fields := rfl
@[simp] theorem State.putFlows_bnd (s : State) (x : SMap Flow) : (s.putFlows x).bnd = s.bnd := rfl
@[simp] theorem State.putFlows_tb (s : State) (x : SMap Flow) : (s.putFlows x).tb = s.tb := rfl
@[simp] theorem State.putFlows_doms (s : State) (x : SMap Flow) : (s.putFlows x).doms = s.doms := rfl
@[simp] theorem State.putFlows_sents (s : State) (x : SMap Flow) : (s.putFlows x).sents = s.sents := rfl
@[simp] theorem State.putFlows_hostSleep (s : State) (x : SMap Flow) : (s.putFlows x).hostSleep = s.hostSleep := rfl
@[simp] theorem State.putFlows_trees (s : State) (x : SMap Flow) : (s.putFlows x).trees = s.trees := rfl
@[simp] theorem State.putFlows_slots (s : State) (x : SMap Flow) : (s.putFlows x).slots = s.slots := rfl
@[simp] theorem State.putFlows_rings (s : State) (x : SMap Flow) : (s.putFlows x).rings = s.rings := rfl
@[simp] theorem State.putFlows_evqs (s : State) (x : SMap Flow) : (s.putFlows x).evqs = s.evqs := rfl
@[simp] theorem State.putFlows_doorbells (s : State) (x : SMap Flow) : (s.putFlows x).doorbells = s.doorbells := rfl
@[simp] theorem State.putFlows_cp (s : State) (x : SMap Flow) : (s.putFlows x).cp = s.cp := rfl
@[simp] theorem State.putFlows_terms (s : State) (x : SMap Flow) : (s.putFlows x).terms = s.terms := rfl
@[simp] theorem State.putFlows_reasms (s : State) (x : SMap Flow) : (s.putFlows x).reasms = s.reasms := rfl
@[simp] theorem State.putFlows_bprofs (s : State) (x : SMap Flow) : (s.putFlows x).bprofs = s.bprofs := rfl
@[simp] theorem State.putFlows_treeUs (s : State) (x : SMap Flow) : (s.putFlows x).treeUs = s.treeUs := rfl
@[simp] theorem State.putFlows_allocs (s : State) (x : SMap Flow) : (s.putFlows x).allocs = s.allocs := rfl
@[simp] theorem State.putFlows_sluTrees (s : State) (x : SMap Flow) : (s.putFlows x).sluTrees = s.sluTrees := rfl
@[simp] theorem State.putFlows_sluUnits (s : State) (x : SMap Flow) : (s.putFlows x).sluUnits = s.sluUnits := rfl
@[simp] theorem State.putFlows_sluShared (s : State) (x : SMap Flow) : (s.putFlows x).sluShared = s.sluShared := rfl
@[simp] theorem State.putFlows_slu (s : State) (x : SMap Flow) : (s.putFlows x).slu = s.slu := rfl
@[simp] theorem State.putFlows_buf (s : State) (x : SMap Flow) : (s.putFlows x).buf = s.buf := rfl
@[simp] theorem State.putFlows_tabs (s : State) (x : SMap Flow) : (s.putFlows x).tabs = s.tabs := rfl
@[simp] theorem State.putFlows_counts (s : State) (x : SMap Flow) : (s.putFlows x).counts = s.counts := rfl
@[simp] theorem State.putFlows_fabLinks (s : State) (x : SMap Flow) : (s.putFlows x).fabLinks = s.fabLinks := rfl
@[simp] theorem State.putFlows_fab (s : State) (x : SMap Flow) : (s.putFlows x).fab = s.fab := rfl
@[simp] theorem State.putFlows_prots (s : State) (x : SMap Flow) : (s.putFlows x).prots = s.prots := rfl
@[simp] theorem State.putFlows_engs (s : State) (x : SMap Flow) : (s.putFlows x).engs = s.engs := rfl
@[simp] theorem State.putFlows_tel (s : State) (x : SMap Flow) : (s.putFlows x).tel = s.tel := rfl
@[simp] theorem State.putFlows_errLog (s : State) (x : SMap Flow) : (s.putFlows x).errLog = s.errLog := rfl
@[simp] theorem State.putFlows_errOvf (s : State) (x : SMap Flow) : (s.putFlows x).errOvf = s.errOvf := rfl
@[simp] theorem State.putFlows_chans (s : State) (x : SMap Flow) : (s.putFlows x).chans = s.chans := rfl
@[simp] theorem State.putFlows_rakeLast (s : State) (x : SMap Flow) : (s.putFlows x).rakeLast = s.rakeLast := rfl
@[simp] theorem State.putFlows_mon (s : State) (x : SMap Flow) : (s.putFlows x).mon = s.mon := rfl
@[simp] theorem State.putFlows_rd (s : State) (x : SMap Flow) (f0 : Fld) (i0 : Nat) : (s.putFlows x).rd f0 i0 = s.rd f0 i0 := rfl
@[simp] theorem State.putFlows_flag (s : State) (x : SMap Flow) (f0 : Fld) (i0 : Nat) :
    (s.putFlows x).flag f0 i0 = s.flag f0 i0 := rfl
@[simp] theorem State.putFlows_pw (s : State) (x : SMap Flow) (d0 : Nat) : (s.putFlows x).pw d0 = s.pw d0 := rfl
@[simp] theorem State.putFlows_on (s : State) (x : SMap Flow) (d0 : Nat) : (s.putFlows x).on d0 = s.on d0 := rfl
@[simp] theorem State.putFlows_tstate (s : State) (x : SMap Flow) (t0 : Nat) : (s.putFlows x).tstate t0 = s.tstate t0 := rfl
@[simp] theorem State.putFlows_dom (s : State) (x : SMap Flow) (k0 : Nat) : (s.putFlows x).dom k0 = s.dom k0 := rfl
@[simp] theorem State.putFlows_ring (s : State) (x : SMap Flow) (k0 : Nat) : (s.putFlows x).ring k0 = s.ring k0 := rfl
@[simp] theorem State.putFlows_evq (s : State) (x : SMap Flow) (k0 : Nat) : (s.putFlows x).evq k0 = s.evq k0 := rfl
@[simp] theorem State.putFlows_tree (s : State) (x : SMap Flow) (k0 : Nat) : (s.putFlows x).tree k0 = s.tree k0 := rfl
@[simp] theorem State.putFlows_treeU (s : State) (x : SMap Flow) (k0 : Nat) : (s.putFlows x).treeU k0 = s.treeU k0 := rfl
@[simp] theorem State.putFlows_slot (s : State) (x : SMap Flow) (k0 : Nat) : (s.putFlows x).slot k0 = s.slot k0 := rfl
@[simp] theorem State.putFlows_shared (s : State) (x : SMap Flow) (k0 : Nat) : (s.putFlows x).shared k0 = s.shared k0 := rfl
@[simp] theorem State.putFlows_sluUnit (s : State) (x : SMap Flow) (k0 : Nat) : (s.putFlows x).sluUnit k0 = s.sluUnit k0 := rfl
@[simp] theorem State.putFlows_eng (s : State) (x : SMap Flow) (k0 : Nat) : (s.putFlows x).eng k0 = s.eng k0 := rfl
@[simp] theorem State.putFlows_chan (s : State) (x : SMap Flow) (k0 : Nat) : (s.putFlows x).chan k0 = s.chan k0 := rfl
@[simp] theorem State.putFlows_prot (s : State) (x : SMap Flow) (k0 : Nat) : (s.putFlows x).prot k0 = s.prot k0 := rfl
@[simp] theorem State.putFlows_link (s : State) (x : SMap Flow) (k0 : Nat) : (s.putFlows x).link k0 = s.link k0 := rfl
@[simp] theorem State.putFlows_term (s : State) (x : SMap Flow) (k0 j0 : Nat) : (s.putFlows x).term k0 j0 = s.term k0 j0 := rfl
@[simp] theorem State.putFlows_flows (s : State) (x : SMap Flow) : (s.putFlows x).flows = x := rfl

/-! ### putReasms -/

@[simp] theorem State.putReasms_pending (s : State) (x : SMap Reasm) : (s.putReasms x).pending = s.pending := rfl
@[simp] theorem State.putReasms_freeCtr (s : State) (x : SMap Reasm) : (s.putReasms x).freeCtr = s.freeCtr := rfl
@[simp] theorem State.putReasms_out (s : State) (x : SMap Reasm) : (s.putReasms x).out = s.out := rfl
@[simp] theorem State.putReasms_hostMem (s : State) (x : SMap Reasm) : (s.putReasms x).hostMem = s.hostMem := rfl
@[simp] theorem State.putReasms_scratch (s : State) (x : SMap Reasm) : (s.putReasms x).scratch = s.scratch := rfl
@[simp] theorem State.putReasms_fields (s : State) (x : SMap Reasm) : (s.putReasms x).fields = s.fields := rfl
@[simp] theorem State.putReasms_bnd (s : State) (x : SMap Reasm) : (s.putReasms x).bnd = s.bnd := rfl
@[simp] theorem State.putReasms_tb (s : State) (x : SMap Reasm) : (s.putReasms x).tb = s.tb := rfl
@[simp] theorem State.putReasms_doms (s : State) (x : SMap Reasm) : (s.putReasms x).doms = s.doms := rfl
@[simp] theorem State.putReasms_sents (s : State) (x : SMap Reasm) : (s.putReasms x).sents = s.sents := rfl
@[simp] theorem State.putReasms_hostSleep (s : State) (x : SMap Reasm) : (s.putReasms x).hostSleep = s.hostSleep := rfl
@[simp] theorem State.putReasms_trees (s : State) (x : SMap Reasm) : (s.putReasms x).trees = s.trees := rfl
@[simp] theorem State.putReasms_slots (s : State) (x : SMap Reasm) : (s.putReasms x).slots = s.slots := rfl
@[simp] theorem State.putReasms_rings (s : State) (x : SMap Reasm) : (s.putReasms x).rings = s.rings := rfl
@[simp] theorem State.putReasms_evqs (s : State) (x : SMap Reasm) : (s.putReasms x).evqs = s.evqs := rfl
@[simp] theorem State.putReasms_doorbells (s : State) (x : SMap Reasm) : (s.putReasms x).doorbells = s.doorbells := rfl
@[simp] theorem State.putReasms_cp (s : State) (x : SMap Reasm) : (s.putReasms x).cp = s.cp := rfl
@[simp] theorem State.putReasms_terms (s : State) (x : SMap Reasm) : (s.putReasms x).terms = s.terms := rfl
@[simp] theorem State.putReasms_flows (s : State) (x : SMap Reasm) : (s.putReasms x).flows = s.flows := rfl
@[simp] theorem State.putReasms_bprofs (s : State) (x : SMap Reasm) : (s.putReasms x).bprofs = s.bprofs := rfl
@[simp] theorem State.putReasms_treeUs (s : State) (x : SMap Reasm) : (s.putReasms x).treeUs = s.treeUs := rfl
@[simp] theorem State.putReasms_allocs (s : State) (x : SMap Reasm) : (s.putReasms x).allocs = s.allocs := rfl
@[simp] theorem State.putReasms_sluTrees (s : State) (x : SMap Reasm) : (s.putReasms x).sluTrees = s.sluTrees := rfl
@[simp] theorem State.putReasms_sluUnits (s : State) (x : SMap Reasm) : (s.putReasms x).sluUnits = s.sluUnits := rfl
@[simp] theorem State.putReasms_sluShared (s : State) (x : SMap Reasm) : (s.putReasms x).sluShared = s.sluShared := rfl
@[simp] theorem State.putReasms_slu (s : State) (x : SMap Reasm) : (s.putReasms x).slu = s.slu := rfl
@[simp] theorem State.putReasms_buf (s : State) (x : SMap Reasm) : (s.putReasms x).buf = s.buf := rfl
@[simp] theorem State.putReasms_tabs (s : State) (x : SMap Reasm) : (s.putReasms x).tabs = s.tabs := rfl
@[simp] theorem State.putReasms_counts (s : State) (x : SMap Reasm) : (s.putReasms x).counts = s.counts := rfl
@[simp] theorem State.putReasms_fabLinks (s : State) (x : SMap Reasm) : (s.putReasms x).fabLinks = s.fabLinks := rfl
@[simp] theorem State.putReasms_fab (s : State) (x : SMap Reasm) : (s.putReasms x).fab = s.fab := rfl
@[simp] theorem State.putReasms_prots (s : State) (x : SMap Reasm) : (s.putReasms x).prots = s.prots := rfl
@[simp] theorem State.putReasms_engs (s : State) (x : SMap Reasm) : (s.putReasms x).engs = s.engs := rfl
@[simp] theorem State.putReasms_tel (s : State) (x : SMap Reasm) : (s.putReasms x).tel = s.tel := rfl
@[simp] theorem State.putReasms_errLog (s : State) (x : SMap Reasm) : (s.putReasms x).errLog = s.errLog := rfl
@[simp] theorem State.putReasms_errOvf (s : State) (x : SMap Reasm) : (s.putReasms x).errOvf = s.errOvf := rfl
@[simp] theorem State.putReasms_chans (s : State) (x : SMap Reasm) : (s.putReasms x).chans = s.chans := rfl
@[simp] theorem State.putReasms_rakeLast (s : State) (x : SMap Reasm) : (s.putReasms x).rakeLast = s.rakeLast := rfl
@[simp] theorem State.putReasms_mon (s : State) (x : SMap Reasm) : (s.putReasms x).mon = s.mon := rfl
@[simp] theorem State.putReasms_rd (s : State) (x : SMap Reasm) (f0 : Fld) (i0 : Nat) :
    (s.putReasms x).rd f0 i0 = s.rd f0 i0 := rfl
@[simp] theorem State.putReasms_flag (s : State) (x : SMap Reasm) (f0 : Fld) (i0 : Nat) :
    (s.putReasms x).flag f0 i0 = s.flag f0 i0 := rfl
@[simp] theorem State.putReasms_pw (s : State) (x : SMap Reasm) (d0 : Nat) : (s.putReasms x).pw d0 = s.pw d0 := rfl
@[simp] theorem State.putReasms_on (s : State) (x : SMap Reasm) (d0 : Nat) : (s.putReasms x).on d0 = s.on d0 := rfl
@[simp] theorem State.putReasms_tstate (s : State) (x : SMap Reasm) (t0 : Nat) : (s.putReasms x).tstate t0 = s.tstate t0 := rfl
@[simp] theorem State.putReasms_dom (s : State) (x : SMap Reasm) (k0 : Nat) : (s.putReasms x).dom k0 = s.dom k0 := rfl
@[simp] theorem State.putReasms_ring (s : State) (x : SMap Reasm) (k0 : Nat) : (s.putReasms x).ring k0 = s.ring k0 := rfl
@[simp] theorem State.putReasms_evq (s : State) (x : SMap Reasm) (k0 : Nat) : (s.putReasms x).evq k0 = s.evq k0 := rfl
@[simp] theorem State.putReasms_tree (s : State) (x : SMap Reasm) (k0 : Nat) : (s.putReasms x).tree k0 = s.tree k0 := rfl
@[simp] theorem State.putReasms_treeU (s : State) (x : SMap Reasm) (k0 : Nat) : (s.putReasms x).treeU k0 = s.treeU k0 := rfl
@[simp] theorem State.putReasms_slot (s : State) (x : SMap Reasm) (k0 : Nat) : (s.putReasms x).slot k0 = s.slot k0 := rfl
@[simp] theorem State.putReasms_shared (s : State) (x : SMap Reasm) (k0 : Nat) : (s.putReasms x).shared k0 = s.shared k0 := rfl
@[simp] theorem State.putReasms_sluUnit (s : State) (x : SMap Reasm) (k0 : Nat) : (s.putReasms x).sluUnit k0 = s.sluUnit k0 := rfl
@[simp] theorem State.putReasms_eng (s : State) (x : SMap Reasm) (k0 : Nat) : (s.putReasms x).eng k0 = s.eng k0 := rfl
@[simp] theorem State.putReasms_chan (s : State) (x : SMap Reasm) (k0 : Nat) : (s.putReasms x).chan k0 = s.chan k0 := rfl
@[simp] theorem State.putReasms_prot (s : State) (x : SMap Reasm) (k0 : Nat) : (s.putReasms x).prot k0 = s.prot k0 := rfl
@[simp] theorem State.putReasms_link (s : State) (x : SMap Reasm) (k0 : Nat) : (s.putReasms x).link k0 = s.link k0 := rfl
@[simp] theorem State.putReasms_term (s : State) (x : SMap Reasm) (k0 j0 : Nat) : (s.putReasms x).term k0 j0 = s.term k0 j0 := rfl
@[simp] theorem State.putReasms_reasms (s : State) (x : SMap Reasm) : (s.putReasms x).reasms = x := rfl

/-! ### putBprofs -/

@[simp] theorem State.putBprofs_pending (s : State) (x : SMap BurstSlot) : (s.putBprofs x).pending = s.pending := rfl
@[simp] theorem State.putBprofs_freeCtr (s : State) (x : SMap BurstSlot) : (s.putBprofs x).freeCtr = s.freeCtr := rfl
@[simp] theorem State.putBprofs_out (s : State) (x : SMap BurstSlot) : (s.putBprofs x).out = s.out := rfl
@[simp] theorem State.putBprofs_hostMem (s : State) (x : SMap BurstSlot) : (s.putBprofs x).hostMem = s.hostMem := rfl
@[simp] theorem State.putBprofs_scratch (s : State) (x : SMap BurstSlot) : (s.putBprofs x).scratch = s.scratch := rfl
@[simp] theorem State.putBprofs_fields (s : State) (x : SMap BurstSlot) : (s.putBprofs x).fields = s.fields := rfl
@[simp] theorem State.putBprofs_bnd (s : State) (x : SMap BurstSlot) : (s.putBprofs x).bnd = s.bnd := rfl
@[simp] theorem State.putBprofs_tb (s : State) (x : SMap BurstSlot) : (s.putBprofs x).tb = s.tb := rfl
@[simp] theorem State.putBprofs_doms (s : State) (x : SMap BurstSlot) : (s.putBprofs x).doms = s.doms := rfl
@[simp] theorem State.putBprofs_sents (s : State) (x : SMap BurstSlot) : (s.putBprofs x).sents = s.sents := rfl
@[simp] theorem State.putBprofs_hostSleep (s : State) (x : SMap BurstSlot) : (s.putBprofs x).hostSleep = s.hostSleep := rfl
@[simp] theorem State.putBprofs_trees (s : State) (x : SMap BurstSlot) : (s.putBprofs x).trees = s.trees := rfl
@[simp] theorem State.putBprofs_slots (s : State) (x : SMap BurstSlot) : (s.putBprofs x).slots = s.slots := rfl
@[simp] theorem State.putBprofs_rings (s : State) (x : SMap BurstSlot) : (s.putBprofs x).rings = s.rings := rfl
@[simp] theorem State.putBprofs_evqs (s : State) (x : SMap BurstSlot) : (s.putBprofs x).evqs = s.evqs := rfl
@[simp] theorem State.putBprofs_doorbells (s : State) (x : SMap BurstSlot) : (s.putBprofs x).doorbells = s.doorbells := rfl
@[simp] theorem State.putBprofs_cp (s : State) (x : SMap BurstSlot) : (s.putBprofs x).cp = s.cp := rfl
@[simp] theorem State.putBprofs_terms (s : State) (x : SMap BurstSlot) : (s.putBprofs x).terms = s.terms := rfl
@[simp] theorem State.putBprofs_flows (s : State) (x : SMap BurstSlot) : (s.putBprofs x).flows = s.flows := rfl
@[simp] theorem State.putBprofs_reasms (s : State) (x : SMap BurstSlot) : (s.putBprofs x).reasms = s.reasms := rfl
@[simp] theorem State.putBprofs_treeUs (s : State) (x : SMap BurstSlot) : (s.putBprofs x).treeUs = s.treeUs := rfl
@[simp] theorem State.putBprofs_allocs (s : State) (x : SMap BurstSlot) : (s.putBprofs x).allocs = s.allocs := rfl
@[simp] theorem State.putBprofs_sluTrees (s : State) (x : SMap BurstSlot) : (s.putBprofs x).sluTrees = s.sluTrees := rfl
@[simp] theorem State.putBprofs_sluUnits (s : State) (x : SMap BurstSlot) : (s.putBprofs x).sluUnits = s.sluUnits := rfl
@[simp] theorem State.putBprofs_sluShared (s : State) (x : SMap BurstSlot) : (s.putBprofs x).sluShared = s.sluShared := rfl
@[simp] theorem State.putBprofs_slu (s : State) (x : SMap BurstSlot) : (s.putBprofs x).slu = s.slu := rfl
@[simp] theorem State.putBprofs_buf (s : State) (x : SMap BurstSlot) : (s.putBprofs x).buf = s.buf := rfl
@[simp] theorem State.putBprofs_tabs (s : State) (x : SMap BurstSlot) : (s.putBprofs x).tabs = s.tabs := rfl
@[simp] theorem State.putBprofs_counts (s : State) (x : SMap BurstSlot) : (s.putBprofs x).counts = s.counts := rfl
@[simp] theorem State.putBprofs_fabLinks (s : State) (x : SMap BurstSlot) : (s.putBprofs x).fabLinks = s.fabLinks := rfl
@[simp] theorem State.putBprofs_fab (s : State) (x : SMap BurstSlot) : (s.putBprofs x).fab = s.fab := rfl
@[simp] theorem State.putBprofs_prots (s : State) (x : SMap BurstSlot) : (s.putBprofs x).prots = s.prots := rfl
@[simp] theorem State.putBprofs_engs (s : State) (x : SMap BurstSlot) : (s.putBprofs x).engs = s.engs := rfl
@[simp] theorem State.putBprofs_tel (s : State) (x : SMap BurstSlot) : (s.putBprofs x).tel = s.tel := rfl
@[simp] theorem State.putBprofs_errLog (s : State) (x : SMap BurstSlot) : (s.putBprofs x).errLog = s.errLog := rfl
@[simp] theorem State.putBprofs_errOvf (s : State) (x : SMap BurstSlot) : (s.putBprofs x).errOvf = s.errOvf := rfl
@[simp] theorem State.putBprofs_chans (s : State) (x : SMap BurstSlot) : (s.putBprofs x).chans = s.chans := rfl
@[simp] theorem State.putBprofs_rakeLast (s : State) (x : SMap BurstSlot) : (s.putBprofs x).rakeLast = s.rakeLast := rfl
@[simp] theorem State.putBprofs_mon (s : State) (x : SMap BurstSlot) : (s.putBprofs x).mon = s.mon := rfl
@[simp] theorem State.putBprofs_rd (s : State) (x : SMap BurstSlot) (f0 : Fld) (i0 : Nat) :
    (s.putBprofs x).rd f0 i0 = s.rd f0 i0 := rfl
@[simp] theorem State.putBprofs_flag (s : State) (x : SMap BurstSlot) (f0 : Fld) (i0 : Nat) :
    (s.putBprofs x).flag f0 i0 = s.flag f0 i0 := rfl
@[simp] theorem State.putBprofs_pw (s : State) (x : SMap BurstSlot) (d0 : Nat) : (s.putBprofs x).pw d0 = s.pw d0 := rfl
@[simp] theorem State.putBprofs_on (s : State) (x : SMap BurstSlot) (d0 : Nat) : (s.putBprofs x).on d0 = s.on d0 := rfl
@[simp] theorem State.putBprofs_tstate (s : State) (x : SMap BurstSlot) (t0 : Nat) :
    (s.putBprofs x).tstate t0 = s.tstate t0 := rfl
@[simp] theorem State.putBprofs_dom (s : State) (x : SMap BurstSlot) (k0 : Nat) : (s.putBprofs x).dom k0 = s.dom k0 := rfl
@[simp] theorem State.putBprofs_ring (s : State) (x : SMap BurstSlot) (k0 : Nat) : (s.putBprofs x).ring k0 = s.ring k0 := rfl
@[simp] theorem State.putBprofs_evq (s : State) (x : SMap BurstSlot) (k0 : Nat) : (s.putBprofs x).evq k0 = s.evq k0 := rfl
@[simp] theorem State.putBprofs_tree (s : State) (x : SMap BurstSlot) (k0 : Nat) : (s.putBprofs x).tree k0 = s.tree k0 := rfl
@[simp] theorem State.putBprofs_treeU (s : State) (x : SMap BurstSlot) (k0 : Nat) : (s.putBprofs x).treeU k0 = s.treeU k0 := rfl
@[simp] theorem State.putBprofs_slot (s : State) (x : SMap BurstSlot) (k0 : Nat) : (s.putBprofs x).slot k0 = s.slot k0 := rfl
@[simp] theorem State.putBprofs_shared (s : State) (x : SMap BurstSlot) (k0 : Nat) :
    (s.putBprofs x).shared k0 = s.shared k0 := rfl
@[simp] theorem State.putBprofs_sluUnit (s : State) (x : SMap BurstSlot) (k0 : Nat) :
    (s.putBprofs x).sluUnit k0 = s.sluUnit k0 := rfl
@[simp] theorem State.putBprofs_eng (s : State) (x : SMap BurstSlot) (k0 : Nat) : (s.putBprofs x).eng k0 = s.eng k0 := rfl
@[simp] theorem State.putBprofs_chan (s : State) (x : SMap BurstSlot) (k0 : Nat) : (s.putBprofs x).chan k0 = s.chan k0 := rfl
@[simp] theorem State.putBprofs_prot (s : State) (x : SMap BurstSlot) (k0 : Nat) : (s.putBprofs x).prot k0 = s.prot k0 := rfl
@[simp] theorem State.putBprofs_link (s : State) (x : SMap BurstSlot) (k0 : Nat) : (s.putBprofs x).link k0 = s.link k0 := rfl
@[simp] theorem State.putBprofs_term (s : State) (x : SMap BurstSlot) (k0 j0 : Nat) :
    (s.putBprofs x).term k0 j0 = s.term k0 j0 := rfl
@[simp] theorem State.putBprofs_bprofs (s : State) (x : SMap BurstSlot) : (s.putBprofs x).bprofs = x := rfl

/-! ### putAllocs -/

@[simp] theorem State.putAllocs_pending (s : State) (x : SMap Alloc) : (s.putAllocs x).pending = s.pending := rfl
@[simp] theorem State.putAllocs_freeCtr (s : State) (x : SMap Alloc) : (s.putAllocs x).freeCtr = s.freeCtr := rfl
@[simp] theorem State.putAllocs_out (s : State) (x : SMap Alloc) : (s.putAllocs x).out = s.out := rfl
@[simp] theorem State.putAllocs_hostMem (s : State) (x : SMap Alloc) : (s.putAllocs x).hostMem = s.hostMem := rfl
@[simp] theorem State.putAllocs_scratch (s : State) (x : SMap Alloc) : (s.putAllocs x).scratch = s.scratch := rfl
@[simp] theorem State.putAllocs_fields (s : State) (x : SMap Alloc) : (s.putAllocs x).fields = s.fields := rfl
@[simp] theorem State.putAllocs_bnd (s : State) (x : SMap Alloc) : (s.putAllocs x).bnd = s.bnd := rfl
@[simp] theorem State.putAllocs_tb (s : State) (x : SMap Alloc) : (s.putAllocs x).tb = s.tb := rfl
@[simp] theorem State.putAllocs_doms (s : State) (x : SMap Alloc) : (s.putAllocs x).doms = s.doms := rfl
@[simp] theorem State.putAllocs_sents (s : State) (x : SMap Alloc) : (s.putAllocs x).sents = s.sents := rfl
@[simp] theorem State.putAllocs_hostSleep (s : State) (x : SMap Alloc) : (s.putAllocs x).hostSleep = s.hostSleep := rfl
@[simp] theorem State.putAllocs_trees (s : State) (x : SMap Alloc) : (s.putAllocs x).trees = s.trees := rfl
@[simp] theorem State.putAllocs_slots (s : State) (x : SMap Alloc) : (s.putAllocs x).slots = s.slots := rfl
@[simp] theorem State.putAllocs_rings (s : State) (x : SMap Alloc) : (s.putAllocs x).rings = s.rings := rfl
@[simp] theorem State.putAllocs_evqs (s : State) (x : SMap Alloc) : (s.putAllocs x).evqs = s.evqs := rfl
@[simp] theorem State.putAllocs_doorbells (s : State) (x : SMap Alloc) : (s.putAllocs x).doorbells = s.doorbells := rfl
@[simp] theorem State.putAllocs_cp (s : State) (x : SMap Alloc) : (s.putAllocs x).cp = s.cp := rfl
@[simp] theorem State.putAllocs_terms (s : State) (x : SMap Alloc) : (s.putAllocs x).terms = s.terms := rfl
@[simp] theorem State.putAllocs_flows (s : State) (x : SMap Alloc) : (s.putAllocs x).flows = s.flows := rfl
@[simp] theorem State.putAllocs_reasms (s : State) (x : SMap Alloc) : (s.putAllocs x).reasms = s.reasms := rfl
@[simp] theorem State.putAllocs_bprofs (s : State) (x : SMap Alloc) : (s.putAllocs x).bprofs = s.bprofs := rfl
@[simp] theorem State.putAllocs_treeUs (s : State) (x : SMap Alloc) : (s.putAllocs x).treeUs = s.treeUs := rfl
@[simp] theorem State.putAllocs_sluTrees (s : State) (x : SMap Alloc) : (s.putAllocs x).sluTrees = s.sluTrees := rfl
@[simp] theorem State.putAllocs_sluUnits (s : State) (x : SMap Alloc) : (s.putAllocs x).sluUnits = s.sluUnits := rfl
@[simp] theorem State.putAllocs_sluShared (s : State) (x : SMap Alloc) : (s.putAllocs x).sluShared = s.sluShared := rfl
@[simp] theorem State.putAllocs_slu (s : State) (x : SMap Alloc) : (s.putAllocs x).slu = s.slu := rfl
@[simp] theorem State.putAllocs_buf (s : State) (x : SMap Alloc) : (s.putAllocs x).buf = s.buf := rfl
@[simp] theorem State.putAllocs_tabs (s : State) (x : SMap Alloc) : (s.putAllocs x).tabs = s.tabs := rfl
@[simp] theorem State.putAllocs_counts (s : State) (x : SMap Alloc) : (s.putAllocs x).counts = s.counts := rfl
@[simp] theorem State.putAllocs_fabLinks (s : State) (x : SMap Alloc) : (s.putAllocs x).fabLinks = s.fabLinks := rfl
@[simp] theorem State.putAllocs_fab (s : State) (x : SMap Alloc) : (s.putAllocs x).fab = s.fab := rfl
@[simp] theorem State.putAllocs_prots (s : State) (x : SMap Alloc) : (s.putAllocs x).prots = s.prots := rfl
@[simp] theorem State.putAllocs_engs (s : State) (x : SMap Alloc) : (s.putAllocs x).engs = s.engs := rfl
@[simp] theorem State.putAllocs_tel (s : State) (x : SMap Alloc) : (s.putAllocs x).tel = s.tel := rfl
@[simp] theorem State.putAllocs_errLog (s : State) (x : SMap Alloc) : (s.putAllocs x).errLog = s.errLog := rfl
@[simp] theorem State.putAllocs_errOvf (s : State) (x : SMap Alloc) : (s.putAllocs x).errOvf = s.errOvf := rfl
@[simp] theorem State.putAllocs_chans (s : State) (x : SMap Alloc) : (s.putAllocs x).chans = s.chans := rfl
@[simp] theorem State.putAllocs_rakeLast (s : State) (x : SMap Alloc) : (s.putAllocs x).rakeLast = s.rakeLast := rfl
@[simp] theorem State.putAllocs_mon (s : State) (x : SMap Alloc) : (s.putAllocs x).mon = s.mon := rfl
@[simp] theorem State.putAllocs_rd (s : State) (x : SMap Alloc) (f0 : Fld) (i0 : Nat) :
    (s.putAllocs x).rd f0 i0 = s.rd f0 i0 := rfl
@[simp] theorem State.putAllocs_flag (s : State) (x : SMap Alloc) (f0 : Fld) (i0 : Nat) :
    (s.putAllocs x).flag f0 i0 = s.flag f0 i0 := rfl
@[simp] theorem State.putAllocs_pw (s : State) (x : SMap Alloc) (d0 : Nat) : (s.putAllocs x).pw d0 = s.pw d0 := rfl
@[simp] theorem State.putAllocs_on (s : State) (x : SMap Alloc) (d0 : Nat) : (s.putAllocs x).on d0 = s.on d0 := rfl
@[simp] theorem State.putAllocs_tstate (s : State) (x : SMap Alloc) (t0 : Nat) : (s.putAllocs x).tstate t0 = s.tstate t0 := rfl
@[simp] theorem State.putAllocs_dom (s : State) (x : SMap Alloc) (k0 : Nat) : (s.putAllocs x).dom k0 = s.dom k0 := rfl
@[simp] theorem State.putAllocs_ring (s : State) (x : SMap Alloc) (k0 : Nat) : (s.putAllocs x).ring k0 = s.ring k0 := rfl
@[simp] theorem State.putAllocs_evq (s : State) (x : SMap Alloc) (k0 : Nat) : (s.putAllocs x).evq k0 = s.evq k0 := rfl
@[simp] theorem State.putAllocs_tree (s : State) (x : SMap Alloc) (k0 : Nat) : (s.putAllocs x).tree k0 = s.tree k0 := rfl
@[simp] theorem State.putAllocs_treeU (s : State) (x : SMap Alloc) (k0 : Nat) : (s.putAllocs x).treeU k0 = s.treeU k0 := rfl
@[simp] theorem State.putAllocs_slot (s : State) (x : SMap Alloc) (k0 : Nat) : (s.putAllocs x).slot k0 = s.slot k0 := rfl
@[simp] theorem State.putAllocs_shared (s : State) (x : SMap Alloc) (k0 : Nat) : (s.putAllocs x).shared k0 = s.shared k0 := rfl
@[simp] theorem State.putAllocs_sluUnit (s : State) (x : SMap Alloc) (k0 : Nat) : (s.putAllocs x).sluUnit k0 = s.sluUnit k0 := rfl
@[simp] theorem State.putAllocs_eng (s : State) (x : SMap Alloc) (k0 : Nat) : (s.putAllocs x).eng k0 = s.eng k0 := rfl
@[simp] theorem State.putAllocs_chan (s : State) (x : SMap Alloc) (k0 : Nat) : (s.putAllocs x).chan k0 = s.chan k0 := rfl
@[simp] theorem State.putAllocs_prot (s : State) (x : SMap Alloc) (k0 : Nat) : (s.putAllocs x).prot k0 = s.prot k0 := rfl
@[simp] theorem State.putAllocs_link (s : State) (x : SMap Alloc) (k0 : Nat) : (s.putAllocs x).link k0 = s.link k0 := rfl
@[simp] theorem State.putAllocs_term (s : State) (x : SMap Alloc) (k0 j0 : Nat) : (s.putAllocs x).term k0 j0 = s.term k0 j0 := rfl
@[simp] theorem State.putAllocs_allocs (s : State) (x : SMap Alloc) : (s.putAllocs x).allocs = x := rfl

/-! ### putSluTrees -/

@[simp] theorem State.putSluTrees_pending (s : State) (x : SMap SluTree) : (s.putSluTrees x).pending = s.pending := rfl
@[simp] theorem State.putSluTrees_freeCtr (s : State) (x : SMap SluTree) : (s.putSluTrees x).freeCtr = s.freeCtr := rfl
@[simp] theorem State.putSluTrees_out (s : State) (x : SMap SluTree) : (s.putSluTrees x).out = s.out := rfl
@[simp] theorem State.putSluTrees_hostMem (s : State) (x : SMap SluTree) : (s.putSluTrees x).hostMem = s.hostMem := rfl
@[simp] theorem State.putSluTrees_scratch (s : State) (x : SMap SluTree) : (s.putSluTrees x).scratch = s.scratch := rfl
@[simp] theorem State.putSluTrees_fields (s : State) (x : SMap SluTree) : (s.putSluTrees x).fields = s.fields := rfl
@[simp] theorem State.putSluTrees_bnd (s : State) (x : SMap SluTree) : (s.putSluTrees x).bnd = s.bnd := rfl
@[simp] theorem State.putSluTrees_tb (s : State) (x : SMap SluTree) : (s.putSluTrees x).tb = s.tb := rfl
@[simp] theorem State.putSluTrees_doms (s : State) (x : SMap SluTree) : (s.putSluTrees x).doms = s.doms := rfl
@[simp] theorem State.putSluTrees_sents (s : State) (x : SMap SluTree) : (s.putSluTrees x).sents = s.sents := rfl
@[simp] theorem State.putSluTrees_hostSleep (s : State) (x : SMap SluTree) : (s.putSluTrees x).hostSleep = s.hostSleep := rfl
@[simp] theorem State.putSluTrees_trees (s : State) (x : SMap SluTree) : (s.putSluTrees x).trees = s.trees := rfl
@[simp] theorem State.putSluTrees_slots (s : State) (x : SMap SluTree) : (s.putSluTrees x).slots = s.slots := rfl
@[simp] theorem State.putSluTrees_rings (s : State) (x : SMap SluTree) : (s.putSluTrees x).rings = s.rings := rfl
@[simp] theorem State.putSluTrees_evqs (s : State) (x : SMap SluTree) : (s.putSluTrees x).evqs = s.evqs := rfl
@[simp] theorem State.putSluTrees_doorbells (s : State) (x : SMap SluTree) : (s.putSluTrees x).doorbells = s.doorbells := rfl
@[simp] theorem State.putSluTrees_cp (s : State) (x : SMap SluTree) : (s.putSluTrees x).cp = s.cp := rfl
@[simp] theorem State.putSluTrees_terms (s : State) (x : SMap SluTree) : (s.putSluTrees x).terms = s.terms := rfl
@[simp] theorem State.putSluTrees_flows (s : State) (x : SMap SluTree) : (s.putSluTrees x).flows = s.flows := rfl
@[simp] theorem State.putSluTrees_reasms (s : State) (x : SMap SluTree) : (s.putSluTrees x).reasms = s.reasms := rfl
@[simp] theorem State.putSluTrees_bprofs (s : State) (x : SMap SluTree) : (s.putSluTrees x).bprofs = s.bprofs := rfl
@[simp] theorem State.putSluTrees_treeUs (s : State) (x : SMap SluTree) : (s.putSluTrees x).treeUs = s.treeUs := rfl
@[simp] theorem State.putSluTrees_allocs (s : State) (x : SMap SluTree) : (s.putSluTrees x).allocs = s.allocs := rfl
@[simp] theorem State.putSluTrees_sluUnits (s : State) (x : SMap SluTree) : (s.putSluTrees x).sluUnits = s.sluUnits := rfl
@[simp] theorem State.putSluTrees_sluShared (s : State) (x : SMap SluTree) : (s.putSluTrees x).sluShared = s.sluShared := rfl
@[simp] theorem State.putSluTrees_slu (s : State) (x : SMap SluTree) : (s.putSluTrees x).slu = s.slu := rfl
@[simp] theorem State.putSluTrees_buf (s : State) (x : SMap SluTree) : (s.putSluTrees x).buf = s.buf := rfl
@[simp] theorem State.putSluTrees_tabs (s : State) (x : SMap SluTree) : (s.putSluTrees x).tabs = s.tabs := rfl
@[simp] theorem State.putSluTrees_counts (s : State) (x : SMap SluTree) : (s.putSluTrees x).counts = s.counts := rfl
@[simp] theorem State.putSluTrees_fabLinks (s : State) (x : SMap SluTree) : (s.putSluTrees x).fabLinks = s.fabLinks := rfl
@[simp] theorem State.putSluTrees_fab (s : State) (x : SMap SluTree) : (s.putSluTrees x).fab = s.fab := rfl
@[simp] theorem State.putSluTrees_prots (s : State) (x : SMap SluTree) : (s.putSluTrees x).prots = s.prots := rfl
@[simp] theorem State.putSluTrees_engs (s : State) (x : SMap SluTree) : (s.putSluTrees x).engs = s.engs := rfl
@[simp] theorem State.putSluTrees_tel (s : State) (x : SMap SluTree) : (s.putSluTrees x).tel = s.tel := rfl
@[simp] theorem State.putSluTrees_errLog (s : State) (x : SMap SluTree) : (s.putSluTrees x).errLog = s.errLog := rfl
@[simp] theorem State.putSluTrees_errOvf (s : State) (x : SMap SluTree) : (s.putSluTrees x).errOvf = s.errOvf := rfl
@[simp] theorem State.putSluTrees_chans (s : State) (x : SMap SluTree) : (s.putSluTrees x).chans = s.chans := rfl
@[simp] theorem State.putSluTrees_rakeLast (s : State) (x : SMap SluTree) : (s.putSluTrees x).rakeLast = s.rakeLast := rfl
@[simp] theorem State.putSluTrees_mon (s : State) (x : SMap SluTree) : (s.putSluTrees x).mon = s.mon := rfl
@[simp] theorem State.putSluTrees_rd (s : State) (x : SMap SluTree) (f0 : Fld) (i0 : Nat) :
    (s.putSluTrees x).rd f0 i0 = s.rd f0 i0 := rfl
@[simp] theorem State.putSluTrees_flag (s : State) (x : SMap SluTree) (f0 : Fld) (i0 : Nat) :
    (s.putSluTrees x).flag f0 i0 = s.flag f0 i0 := rfl
@[simp] theorem State.putSluTrees_pw (s : State) (x : SMap SluTree) (d0 : Nat) : (s.putSluTrees x).pw d0 = s.pw d0 := rfl
@[simp] theorem State.putSluTrees_on (s : State) (x : SMap SluTree) (d0 : Nat) : (s.putSluTrees x).on d0 = s.on d0 := rfl
@[simp] theorem State.putSluTrees_tstate (s : State) (x : SMap SluTree) (t0 : Nat) :
    (s.putSluTrees x).tstate t0 = s.tstate t0 := rfl
@[simp] theorem State.putSluTrees_dom (s : State) (x : SMap SluTree) (k0 : Nat) : (s.putSluTrees x).dom k0 = s.dom k0 := rfl
@[simp] theorem State.putSluTrees_ring (s : State) (x : SMap SluTree) (k0 : Nat) : (s.putSluTrees x).ring k0 = s.ring k0 := rfl
@[simp] theorem State.putSluTrees_evq (s : State) (x : SMap SluTree) (k0 : Nat) : (s.putSluTrees x).evq k0 = s.evq k0 := rfl
@[simp] theorem State.putSluTrees_tree (s : State) (x : SMap SluTree) (k0 : Nat) : (s.putSluTrees x).tree k0 = s.tree k0 := rfl
@[simp] theorem State.putSluTrees_treeU (s : State) (x : SMap SluTree) (k0 : Nat) : (s.putSluTrees x).treeU k0 = s.treeU k0 := rfl
@[simp] theorem State.putSluTrees_slot (s : State) (x : SMap SluTree) (k0 : Nat) : (s.putSluTrees x).slot k0 = s.slot k0 := rfl
@[simp] theorem State.putSluTrees_shared (s : State) (x : SMap SluTree) (k0 : Nat) :
    (s.putSluTrees x).shared k0 = s.shared k0 := rfl
@[simp] theorem State.putSluTrees_sluUnit (s : State) (x : SMap SluTree) (k0 : Nat) :
    (s.putSluTrees x).sluUnit k0 = s.sluUnit k0 := rfl
@[simp] theorem State.putSluTrees_eng (s : State) (x : SMap SluTree) (k0 : Nat) : (s.putSluTrees x).eng k0 = s.eng k0 := rfl
@[simp] theorem State.putSluTrees_chan (s : State) (x : SMap SluTree) (k0 : Nat) : (s.putSluTrees x).chan k0 = s.chan k0 := rfl
@[simp] theorem State.putSluTrees_prot (s : State) (x : SMap SluTree) (k0 : Nat) : (s.putSluTrees x).prot k0 = s.prot k0 := rfl
@[simp] theorem State.putSluTrees_link (s : State) (x : SMap SluTree) (k0 : Nat) : (s.putSluTrees x).link k0 = s.link k0 := rfl
@[simp] theorem State.putSluTrees_term (s : State) (x : SMap SluTree) (k0 j0 : Nat) :
    (s.putSluTrees x).term k0 j0 = s.term k0 j0 := rfl
@[simp] theorem State.putSluTrees_sluTrees (s : State) (x : SMap SluTree) : (s.putSluTrees x).sluTrees = x := rfl

/-! ### putSluUnits -/

@[simp] theorem State.putSluUnits_pending (s : State) (x : SMap SluUnit) : (s.putSluUnits x).pending = s.pending := rfl
@[simp] theorem State.putSluUnits_freeCtr (s : State) (x : SMap SluUnit) : (s.putSluUnits x).freeCtr = s.freeCtr := rfl
@[simp] theorem State.putSluUnits_out (s : State) (x : SMap SluUnit) : (s.putSluUnits x).out = s.out := rfl
@[simp] theorem State.putSluUnits_hostMem (s : State) (x : SMap SluUnit) : (s.putSluUnits x).hostMem = s.hostMem := rfl
@[simp] theorem State.putSluUnits_scratch (s : State) (x : SMap SluUnit) : (s.putSluUnits x).scratch = s.scratch := rfl
@[simp] theorem State.putSluUnits_fields (s : State) (x : SMap SluUnit) : (s.putSluUnits x).fields = s.fields := rfl
@[simp] theorem State.putSluUnits_bnd (s : State) (x : SMap SluUnit) : (s.putSluUnits x).bnd = s.bnd := rfl
@[simp] theorem State.putSluUnits_tb (s : State) (x : SMap SluUnit) : (s.putSluUnits x).tb = s.tb := rfl
@[simp] theorem State.putSluUnits_doms (s : State) (x : SMap SluUnit) : (s.putSluUnits x).doms = s.doms := rfl
@[simp] theorem State.putSluUnits_sents (s : State) (x : SMap SluUnit) : (s.putSluUnits x).sents = s.sents := rfl
@[simp] theorem State.putSluUnits_hostSleep (s : State) (x : SMap SluUnit) : (s.putSluUnits x).hostSleep = s.hostSleep := rfl
@[simp] theorem State.putSluUnits_trees (s : State) (x : SMap SluUnit) : (s.putSluUnits x).trees = s.trees := rfl
@[simp] theorem State.putSluUnits_slots (s : State) (x : SMap SluUnit) : (s.putSluUnits x).slots = s.slots := rfl
@[simp] theorem State.putSluUnits_rings (s : State) (x : SMap SluUnit) : (s.putSluUnits x).rings = s.rings := rfl
@[simp] theorem State.putSluUnits_evqs (s : State) (x : SMap SluUnit) : (s.putSluUnits x).evqs = s.evqs := rfl
@[simp] theorem State.putSluUnits_doorbells (s : State) (x : SMap SluUnit) : (s.putSluUnits x).doorbells = s.doorbells := rfl
@[simp] theorem State.putSluUnits_cp (s : State) (x : SMap SluUnit) : (s.putSluUnits x).cp = s.cp := rfl
@[simp] theorem State.putSluUnits_terms (s : State) (x : SMap SluUnit) : (s.putSluUnits x).terms = s.terms := rfl
@[simp] theorem State.putSluUnits_flows (s : State) (x : SMap SluUnit) : (s.putSluUnits x).flows = s.flows := rfl
@[simp] theorem State.putSluUnits_reasms (s : State) (x : SMap SluUnit) : (s.putSluUnits x).reasms = s.reasms := rfl
@[simp] theorem State.putSluUnits_bprofs (s : State) (x : SMap SluUnit) : (s.putSluUnits x).bprofs = s.bprofs := rfl
@[simp] theorem State.putSluUnits_treeUs (s : State) (x : SMap SluUnit) : (s.putSluUnits x).treeUs = s.treeUs := rfl
@[simp] theorem State.putSluUnits_allocs (s : State) (x : SMap SluUnit) : (s.putSluUnits x).allocs = s.allocs := rfl
@[simp] theorem State.putSluUnits_sluTrees (s : State) (x : SMap SluUnit) : (s.putSluUnits x).sluTrees = s.sluTrees := rfl
@[simp] theorem State.putSluUnits_sluShared (s : State) (x : SMap SluUnit) : (s.putSluUnits x).sluShared = s.sluShared := rfl
@[simp] theorem State.putSluUnits_slu (s : State) (x : SMap SluUnit) : (s.putSluUnits x).slu = s.slu := rfl
@[simp] theorem State.putSluUnits_buf (s : State) (x : SMap SluUnit) : (s.putSluUnits x).buf = s.buf := rfl
@[simp] theorem State.putSluUnits_tabs (s : State) (x : SMap SluUnit) : (s.putSluUnits x).tabs = s.tabs := rfl
@[simp] theorem State.putSluUnits_counts (s : State) (x : SMap SluUnit) : (s.putSluUnits x).counts = s.counts := rfl
@[simp] theorem State.putSluUnits_fabLinks (s : State) (x : SMap SluUnit) : (s.putSluUnits x).fabLinks = s.fabLinks := rfl
@[simp] theorem State.putSluUnits_fab (s : State) (x : SMap SluUnit) : (s.putSluUnits x).fab = s.fab := rfl
@[simp] theorem State.putSluUnits_prots (s : State) (x : SMap SluUnit) : (s.putSluUnits x).prots = s.prots := rfl
@[simp] theorem State.putSluUnits_engs (s : State) (x : SMap SluUnit) : (s.putSluUnits x).engs = s.engs := rfl
@[simp] theorem State.putSluUnits_tel (s : State) (x : SMap SluUnit) : (s.putSluUnits x).tel = s.tel := rfl
@[simp] theorem State.putSluUnits_errLog (s : State) (x : SMap SluUnit) : (s.putSluUnits x).errLog = s.errLog := rfl
@[simp] theorem State.putSluUnits_errOvf (s : State) (x : SMap SluUnit) : (s.putSluUnits x).errOvf = s.errOvf := rfl
@[simp] theorem State.putSluUnits_chans (s : State) (x : SMap SluUnit) : (s.putSluUnits x).chans = s.chans := rfl
@[simp] theorem State.putSluUnits_rakeLast (s : State) (x : SMap SluUnit) : (s.putSluUnits x).rakeLast = s.rakeLast := rfl
@[simp] theorem State.putSluUnits_mon (s : State) (x : SMap SluUnit) : (s.putSluUnits x).mon = s.mon := rfl
@[simp] theorem State.putSluUnits_rd (s : State) (x : SMap SluUnit) (f0 : Fld) (i0 : Nat) :
    (s.putSluUnits x).rd f0 i0 = s.rd f0 i0 := rfl
@[simp] theorem State.putSluUnits_flag (s : State) (x : SMap SluUnit) (f0 : Fld) (i0 : Nat) :
    (s.putSluUnits x).flag f0 i0 = s.flag f0 i0 := rfl
@[simp] theorem State.putSluUnits_pw (s : State) (x : SMap SluUnit) (d0 : Nat) : (s.putSluUnits x).pw d0 = s.pw d0 := rfl
@[simp] theorem State.putSluUnits_on (s : State) (x : SMap SluUnit) (d0 : Nat) : (s.putSluUnits x).on d0 = s.on d0 := rfl
@[simp] theorem State.putSluUnits_tstate (s : State) (x : SMap SluUnit) (t0 : Nat) :
    (s.putSluUnits x).tstate t0 = s.tstate t0 := rfl
@[simp] theorem State.putSluUnits_dom (s : State) (x : SMap SluUnit) (k0 : Nat) : (s.putSluUnits x).dom k0 = s.dom k0 := rfl
@[simp] theorem State.putSluUnits_ring (s : State) (x : SMap SluUnit) (k0 : Nat) : (s.putSluUnits x).ring k0 = s.ring k0 := rfl
@[simp] theorem State.putSluUnits_evq (s : State) (x : SMap SluUnit) (k0 : Nat) : (s.putSluUnits x).evq k0 = s.evq k0 := rfl
@[simp] theorem State.putSluUnits_tree (s : State) (x : SMap SluUnit) (k0 : Nat) : (s.putSluUnits x).tree k0 = s.tree k0 := rfl
@[simp] theorem State.putSluUnits_treeU (s : State) (x : SMap SluUnit) (k0 : Nat) : (s.putSluUnits x).treeU k0 = s.treeU k0 := rfl
@[simp] theorem State.putSluUnits_slot (s : State) (x : SMap SluUnit) (k0 : Nat) : (s.putSluUnits x).slot k0 = s.slot k0 := rfl
@[simp] theorem State.putSluUnits_shared (s : State) (x : SMap SluUnit) (k0 : Nat) :
    (s.putSluUnits x).shared k0 = s.shared k0 := rfl
@[simp] theorem State.putSluUnits_eng (s : State) (x : SMap SluUnit) (k0 : Nat) : (s.putSluUnits x).eng k0 = s.eng k0 := rfl
@[simp] theorem State.putSluUnits_chan (s : State) (x : SMap SluUnit) (k0 : Nat) : (s.putSluUnits x).chan k0 = s.chan k0 := rfl
@[simp] theorem State.putSluUnits_prot (s : State) (x : SMap SluUnit) (k0 : Nat) : (s.putSluUnits x).prot k0 = s.prot k0 := rfl
@[simp] theorem State.putSluUnits_link (s : State) (x : SMap SluUnit) (k0 : Nat) : (s.putSluUnits x).link k0 = s.link k0 := rfl
@[simp] theorem State.putSluUnits_term (s : State) (x : SMap SluUnit) (k0 j0 : Nat) :
    (s.putSluUnits x).term k0 j0 = s.term k0 j0 := rfl
@[simp] theorem State.putSluUnits_sluUnits (s : State) (x : SMap SluUnit) : (s.putSluUnits x).sluUnits = x := rfl

/-! ### putSlu -/

@[simp] theorem State.putSlu_pending (s : State) (x : Sluice) : (s.putSlu x).pending = s.pending := rfl
@[simp] theorem State.putSlu_freeCtr (s : State) (x : Sluice) : (s.putSlu x).freeCtr = s.freeCtr := rfl
@[simp] theorem State.putSlu_out (s : State) (x : Sluice) : (s.putSlu x).out = s.out := rfl
@[simp] theorem State.putSlu_hostMem (s : State) (x : Sluice) : (s.putSlu x).hostMem = s.hostMem := rfl
@[simp] theorem State.putSlu_scratch (s : State) (x : Sluice) : (s.putSlu x).scratch = s.scratch := rfl
@[simp] theorem State.putSlu_fields (s : State) (x : Sluice) : (s.putSlu x).fields = s.fields := rfl
@[simp] theorem State.putSlu_bnd (s : State) (x : Sluice) : (s.putSlu x).bnd = s.bnd := rfl
@[simp] theorem State.putSlu_tb (s : State) (x : Sluice) : (s.putSlu x).tb = s.tb := rfl
@[simp] theorem State.putSlu_doms (s : State) (x : Sluice) : (s.putSlu x).doms = s.doms := rfl
@[simp] theorem State.putSlu_sents (s : State) (x : Sluice) : (s.putSlu x).sents = s.sents := rfl
@[simp] theorem State.putSlu_hostSleep (s : State) (x : Sluice) : (s.putSlu x).hostSleep = s.hostSleep := rfl
@[simp] theorem State.putSlu_trees (s : State) (x : Sluice) : (s.putSlu x).trees = s.trees := rfl
@[simp] theorem State.putSlu_slots (s : State) (x : Sluice) : (s.putSlu x).slots = s.slots := rfl
@[simp] theorem State.putSlu_rings (s : State) (x : Sluice) : (s.putSlu x).rings = s.rings := rfl
@[simp] theorem State.putSlu_evqs (s : State) (x : Sluice) : (s.putSlu x).evqs = s.evqs := rfl
@[simp] theorem State.putSlu_doorbells (s : State) (x : Sluice) : (s.putSlu x).doorbells = s.doorbells := rfl
@[simp] theorem State.putSlu_cp (s : State) (x : Sluice) : (s.putSlu x).cp = s.cp := rfl
@[simp] theorem State.putSlu_terms (s : State) (x : Sluice) : (s.putSlu x).terms = s.terms := rfl
@[simp] theorem State.putSlu_flows (s : State) (x : Sluice) : (s.putSlu x).flows = s.flows := rfl
@[simp] theorem State.putSlu_reasms (s : State) (x : Sluice) : (s.putSlu x).reasms = s.reasms := rfl
@[simp] theorem State.putSlu_bprofs (s : State) (x : Sluice) : (s.putSlu x).bprofs = s.bprofs := rfl
@[simp] theorem State.putSlu_treeUs (s : State) (x : Sluice) : (s.putSlu x).treeUs = s.treeUs := rfl
@[simp] theorem State.putSlu_allocs (s : State) (x : Sluice) : (s.putSlu x).allocs = s.allocs := rfl
@[simp] theorem State.putSlu_sluTrees (s : State) (x : Sluice) : (s.putSlu x).sluTrees = s.sluTrees := rfl
@[simp] theorem State.putSlu_sluUnits (s : State) (x : Sluice) : (s.putSlu x).sluUnits = s.sluUnits := rfl
@[simp] theorem State.putSlu_sluShared (s : State) (x : Sluice) : (s.putSlu x).sluShared = s.sluShared := rfl
@[simp] theorem State.putSlu_buf (s : State) (x : Sluice) : (s.putSlu x).buf = s.buf := rfl
@[simp] theorem State.putSlu_tabs (s : State) (x : Sluice) : (s.putSlu x).tabs = s.tabs := rfl
@[simp] theorem State.putSlu_counts (s : State) (x : Sluice) : (s.putSlu x).counts = s.counts := rfl
@[simp] theorem State.putSlu_fabLinks (s : State) (x : Sluice) : (s.putSlu x).fabLinks = s.fabLinks := rfl
@[simp] theorem State.putSlu_fab (s : State) (x : Sluice) : (s.putSlu x).fab = s.fab := rfl
@[simp] theorem State.putSlu_prots (s : State) (x : Sluice) : (s.putSlu x).prots = s.prots := rfl
@[simp] theorem State.putSlu_engs (s : State) (x : Sluice) : (s.putSlu x).engs = s.engs := rfl
@[simp] theorem State.putSlu_tel (s : State) (x : Sluice) : (s.putSlu x).tel = s.tel := rfl
@[simp] theorem State.putSlu_errLog (s : State) (x : Sluice) : (s.putSlu x).errLog = s.errLog := rfl
@[simp] theorem State.putSlu_errOvf (s : State) (x : Sluice) : (s.putSlu x).errOvf = s.errOvf := rfl
@[simp] theorem State.putSlu_chans (s : State) (x : Sluice) : (s.putSlu x).chans = s.chans := rfl
@[simp] theorem State.putSlu_rakeLast (s : State) (x : Sluice) : (s.putSlu x).rakeLast = s.rakeLast := rfl
@[simp] theorem State.putSlu_mon (s : State) (x : Sluice) : (s.putSlu x).mon = s.mon := rfl
@[simp] theorem State.putSlu_rd (s : State) (x : Sluice) (f0 : Fld) (i0 : Nat) : (s.putSlu x).rd f0 i0 = s.rd f0 i0 := rfl
@[simp] theorem State.putSlu_flag (s : State) (x : Sluice) (f0 : Fld) (i0 : Nat) : (s.putSlu x).flag f0 i0 = s.flag f0 i0 := rfl
@[simp] theorem State.putSlu_pw (s : State) (x : Sluice) (d0 : Nat) : (s.putSlu x).pw d0 = s.pw d0 := rfl
@[simp] theorem State.putSlu_on (s : State) (x : Sluice) (d0 : Nat) : (s.putSlu x).on d0 = s.on d0 := rfl
@[simp] theorem State.putSlu_tstate (s : State) (x : Sluice) (t0 : Nat) : (s.putSlu x).tstate t0 = s.tstate t0 := rfl
@[simp] theorem State.putSlu_dom (s : State) (x : Sluice) (k0 : Nat) : (s.putSlu x).dom k0 = s.dom k0 := rfl
@[simp] theorem State.putSlu_ring (s : State) (x : Sluice) (k0 : Nat) : (s.putSlu x).ring k0 = s.ring k0 := rfl
@[simp] theorem State.putSlu_evq (s : State) (x : Sluice) (k0 : Nat) : (s.putSlu x).evq k0 = s.evq k0 := rfl
@[simp] theorem State.putSlu_tree (s : State) (x : Sluice) (k0 : Nat) : (s.putSlu x).tree k0 = s.tree k0 := rfl
@[simp] theorem State.putSlu_treeU (s : State) (x : Sluice) (k0 : Nat) : (s.putSlu x).treeU k0 = s.treeU k0 := rfl
@[simp] theorem State.putSlu_slot (s : State) (x : Sluice) (k0 : Nat) : (s.putSlu x).slot k0 = s.slot k0 := rfl
@[simp] theorem State.putSlu_shared (s : State) (x : Sluice) (k0 : Nat) : (s.putSlu x).shared k0 = s.shared k0 := rfl
@[simp] theorem State.putSlu_sluUnit (s : State) (x : Sluice) (k0 : Nat) : (s.putSlu x).sluUnit k0 = s.sluUnit k0 := rfl
@[simp] theorem State.putSlu_eng (s : State) (x : Sluice) (k0 : Nat) : (s.putSlu x).eng k0 = s.eng k0 := rfl
@[simp] theorem State.putSlu_chan (s : State) (x : Sluice) (k0 : Nat) : (s.putSlu x).chan k0 = s.chan k0 := rfl
@[simp] theorem State.putSlu_prot (s : State) (x : Sluice) (k0 : Nat) : (s.putSlu x).prot k0 = s.prot k0 := rfl
@[simp] theorem State.putSlu_link (s : State) (x : Sluice) (k0 : Nat) : (s.putSlu x).link k0 = s.link k0 := rfl
@[simp] theorem State.putSlu_term (s : State) (x : Sluice) (k0 j0 : Nat) : (s.putSlu x).term k0 j0 = s.term k0 j0 := rfl
@[simp] theorem State.putSlu_slu (s : State) (x : Sluice) : (s.putSlu x).slu = x := rfl

/-! ### putBuf -/

@[simp] theorem State.putBuf_pending (s : State) (x : Buffers) : (s.putBuf x).pending = s.pending := rfl
@[simp] theorem State.putBuf_freeCtr (s : State) (x : Buffers) : (s.putBuf x).freeCtr = s.freeCtr := rfl
@[simp] theorem State.putBuf_out (s : State) (x : Buffers) : (s.putBuf x).out = s.out := rfl
@[simp] theorem State.putBuf_hostMem (s : State) (x : Buffers) : (s.putBuf x).hostMem = s.hostMem := rfl
@[simp] theorem State.putBuf_scratch (s : State) (x : Buffers) : (s.putBuf x).scratch = s.scratch := rfl
@[simp] theorem State.putBuf_fields (s : State) (x : Buffers) : (s.putBuf x).fields = s.fields := rfl
@[simp] theorem State.putBuf_bnd (s : State) (x : Buffers) : (s.putBuf x).bnd = s.bnd := rfl
@[simp] theorem State.putBuf_tb (s : State) (x : Buffers) : (s.putBuf x).tb = s.tb := rfl
@[simp] theorem State.putBuf_doms (s : State) (x : Buffers) : (s.putBuf x).doms = s.doms := rfl
@[simp] theorem State.putBuf_sents (s : State) (x : Buffers) : (s.putBuf x).sents = s.sents := rfl
@[simp] theorem State.putBuf_hostSleep (s : State) (x : Buffers) : (s.putBuf x).hostSleep = s.hostSleep := rfl
@[simp] theorem State.putBuf_trees (s : State) (x : Buffers) : (s.putBuf x).trees = s.trees := rfl
@[simp] theorem State.putBuf_slots (s : State) (x : Buffers) : (s.putBuf x).slots = s.slots := rfl
@[simp] theorem State.putBuf_rings (s : State) (x : Buffers) : (s.putBuf x).rings = s.rings := rfl
@[simp] theorem State.putBuf_evqs (s : State) (x : Buffers) : (s.putBuf x).evqs = s.evqs := rfl
@[simp] theorem State.putBuf_doorbells (s : State) (x : Buffers) : (s.putBuf x).doorbells = s.doorbells := rfl
@[simp] theorem State.putBuf_cp (s : State) (x : Buffers) : (s.putBuf x).cp = s.cp := rfl
@[simp] theorem State.putBuf_terms (s : State) (x : Buffers) : (s.putBuf x).terms = s.terms := rfl
@[simp] theorem State.putBuf_flows (s : State) (x : Buffers) : (s.putBuf x).flows = s.flows := rfl
@[simp] theorem State.putBuf_reasms (s : State) (x : Buffers) : (s.putBuf x).reasms = s.reasms := rfl
@[simp] theorem State.putBuf_bprofs (s : State) (x : Buffers) : (s.putBuf x).bprofs = s.bprofs := rfl
@[simp] theorem State.putBuf_treeUs (s : State) (x : Buffers) : (s.putBuf x).treeUs = s.treeUs := rfl
@[simp] theorem State.putBuf_allocs (s : State) (x : Buffers) : (s.putBuf x).allocs = s.allocs := rfl
@[simp] theorem State.putBuf_sluTrees (s : State) (x : Buffers) : (s.putBuf x).sluTrees = s.sluTrees := rfl
@[simp] theorem State.putBuf_sluUnits (s : State) (x : Buffers) : (s.putBuf x).sluUnits = s.sluUnits := rfl
@[simp] theorem State.putBuf_sluShared (s : State) (x : Buffers) : (s.putBuf x).sluShared = s.sluShared := rfl
@[simp] theorem State.putBuf_slu (s : State) (x : Buffers) : (s.putBuf x).slu = s.slu := rfl
@[simp] theorem State.putBuf_tabs (s : State) (x : Buffers) : (s.putBuf x).tabs = s.tabs := rfl
@[simp] theorem State.putBuf_counts (s : State) (x : Buffers) : (s.putBuf x).counts = s.counts := rfl
@[simp] theorem State.putBuf_fabLinks (s : State) (x : Buffers) : (s.putBuf x).fabLinks = s.fabLinks := rfl
@[simp] theorem State.putBuf_fab (s : State) (x : Buffers) : (s.putBuf x).fab = s.fab := rfl
@[simp] theorem State.putBuf_prots (s : State) (x : Buffers) : (s.putBuf x).prots = s.prots := rfl
@[simp] theorem State.putBuf_engs (s : State) (x : Buffers) : (s.putBuf x).engs = s.engs := rfl
@[simp] theorem State.putBuf_tel (s : State) (x : Buffers) : (s.putBuf x).tel = s.tel := rfl
@[simp] theorem State.putBuf_errLog (s : State) (x : Buffers) : (s.putBuf x).errLog = s.errLog := rfl
@[simp] theorem State.putBuf_errOvf (s : State) (x : Buffers) : (s.putBuf x).errOvf = s.errOvf := rfl
@[simp] theorem State.putBuf_chans (s : State) (x : Buffers) : (s.putBuf x).chans = s.chans := rfl
@[simp] theorem State.putBuf_rakeLast (s : State) (x : Buffers) : (s.putBuf x).rakeLast = s.rakeLast := rfl
@[simp] theorem State.putBuf_mon (s : State) (x : Buffers) : (s.putBuf x).mon = s.mon := rfl
@[simp] theorem State.putBuf_rd (s : State) (x : Buffers) (f0 : Fld) (i0 : Nat) : (s.putBuf x).rd f0 i0 = s.rd f0 i0 := rfl
@[simp] theorem State.putBuf_flag (s : State) (x : Buffers) (f0 : Fld) (i0 : Nat) : (s.putBuf x).flag f0 i0 = s.flag f0 i0 := rfl
@[simp] theorem State.putBuf_pw (s : State) (x : Buffers) (d0 : Nat) : (s.putBuf x).pw d0 = s.pw d0 := rfl
@[simp] theorem State.putBuf_on (s : State) (x : Buffers) (d0 : Nat) : (s.putBuf x).on d0 = s.on d0 := rfl
@[simp] theorem State.putBuf_tstate (s : State) (x : Buffers) (t0 : Nat) : (s.putBuf x).tstate t0 = s.tstate t0 := rfl
@[simp] theorem State.putBuf_dom (s : State) (x : Buffers) (k0 : Nat) : (s.putBuf x).dom k0 = s.dom k0 := rfl
@[simp] theorem State.putBuf_ring (s : State) (x : Buffers) (k0 : Nat) : (s.putBuf x).ring k0 = s.ring k0 := rfl
@[simp] theorem State.putBuf_evq (s : State) (x : Buffers) (k0 : Nat) : (s.putBuf x).evq k0 = s.evq k0 := rfl
@[simp] theorem State.putBuf_tree (s : State) (x : Buffers) (k0 : Nat) : (s.putBuf x).tree k0 = s.tree k0 := rfl
@[simp] theorem State.putBuf_treeU (s : State) (x : Buffers) (k0 : Nat) : (s.putBuf x).treeU k0 = s.treeU k0 := rfl
@[simp] theorem State.putBuf_slot (s : State) (x : Buffers) (k0 : Nat) : (s.putBuf x).slot k0 = s.slot k0 := rfl
@[simp] theorem State.putBuf_shared (s : State) (x : Buffers) (k0 : Nat) : (s.putBuf x).shared k0 = s.shared k0 := rfl
@[simp] theorem State.putBuf_sluUnit (s : State) (x : Buffers) (k0 : Nat) : (s.putBuf x).sluUnit k0 = s.sluUnit k0 := rfl
@[simp] theorem State.putBuf_eng (s : State) (x : Buffers) (k0 : Nat) : (s.putBuf x).eng k0 = s.eng k0 := rfl
@[simp] theorem State.putBuf_chan (s : State) (x : Buffers) (k0 : Nat) : (s.putBuf x).chan k0 = s.chan k0 := rfl
@[simp] theorem State.putBuf_prot (s : State) (x : Buffers) (k0 : Nat) : (s.putBuf x).prot k0 = s.prot k0 := rfl
@[simp] theorem State.putBuf_link (s : State) (x : Buffers) (k0 : Nat) : (s.putBuf x).link k0 = s.link k0 := rfl
@[simp] theorem State.putBuf_term (s : State) (x : Buffers) (k0 j0 : Nat) : (s.putBuf x).term k0 j0 = s.term k0 j0 := rfl
@[simp] theorem State.putBuf_buf (s : State) (x : Buffers) : (s.putBuf x).buf = x := rfl

/-! ### putTabs -/

@[simp] theorem State.putTabs_pending (s : State) (x : Tables) : (s.putTabs x).pending = s.pending := rfl
@[simp] theorem State.putTabs_freeCtr (s : State) (x : Tables) : (s.putTabs x).freeCtr = s.freeCtr := rfl
@[simp] theorem State.putTabs_out (s : State) (x : Tables) : (s.putTabs x).out = s.out := rfl
@[simp] theorem State.putTabs_hostMem (s : State) (x : Tables) : (s.putTabs x).hostMem = s.hostMem := rfl
@[simp] theorem State.putTabs_scratch (s : State) (x : Tables) : (s.putTabs x).scratch = s.scratch := rfl
@[simp] theorem State.putTabs_fields (s : State) (x : Tables) : (s.putTabs x).fields = s.fields := rfl
@[simp] theorem State.putTabs_bnd (s : State) (x : Tables) : (s.putTabs x).bnd = s.bnd := rfl
@[simp] theorem State.putTabs_tb (s : State) (x : Tables) : (s.putTabs x).tb = s.tb := rfl
@[simp] theorem State.putTabs_doms (s : State) (x : Tables) : (s.putTabs x).doms = s.doms := rfl
@[simp] theorem State.putTabs_sents (s : State) (x : Tables) : (s.putTabs x).sents = s.sents := rfl
@[simp] theorem State.putTabs_hostSleep (s : State) (x : Tables) : (s.putTabs x).hostSleep = s.hostSleep := rfl
@[simp] theorem State.putTabs_trees (s : State) (x : Tables) : (s.putTabs x).trees = s.trees := rfl
@[simp] theorem State.putTabs_slots (s : State) (x : Tables) : (s.putTabs x).slots = s.slots := rfl
@[simp] theorem State.putTabs_rings (s : State) (x : Tables) : (s.putTabs x).rings = s.rings := rfl
@[simp] theorem State.putTabs_evqs (s : State) (x : Tables) : (s.putTabs x).evqs = s.evqs := rfl
@[simp] theorem State.putTabs_doorbells (s : State) (x : Tables) : (s.putTabs x).doorbells = s.doorbells := rfl
@[simp] theorem State.putTabs_cp (s : State) (x : Tables) : (s.putTabs x).cp = s.cp := rfl
@[simp] theorem State.putTabs_terms (s : State) (x : Tables) : (s.putTabs x).terms = s.terms := rfl
@[simp] theorem State.putTabs_flows (s : State) (x : Tables) : (s.putTabs x).flows = s.flows := rfl
@[simp] theorem State.putTabs_reasms (s : State) (x : Tables) : (s.putTabs x).reasms = s.reasms := rfl
@[simp] theorem State.putTabs_bprofs (s : State) (x : Tables) : (s.putTabs x).bprofs = s.bprofs := rfl
@[simp] theorem State.putTabs_treeUs (s : State) (x : Tables) : (s.putTabs x).treeUs = s.treeUs := rfl
@[simp] theorem State.putTabs_allocs (s : State) (x : Tables) : (s.putTabs x).allocs = s.allocs := rfl
@[simp] theorem State.putTabs_sluTrees (s : State) (x : Tables) : (s.putTabs x).sluTrees = s.sluTrees := rfl
@[simp] theorem State.putTabs_sluUnits (s : State) (x : Tables) : (s.putTabs x).sluUnits = s.sluUnits := rfl
@[simp] theorem State.putTabs_sluShared (s : State) (x : Tables) : (s.putTabs x).sluShared = s.sluShared := rfl
@[simp] theorem State.putTabs_slu (s : State) (x : Tables) : (s.putTabs x).slu = s.slu := rfl
@[simp] theorem State.putTabs_buf (s : State) (x : Tables) : (s.putTabs x).buf = s.buf := rfl
@[simp] theorem State.putTabs_counts (s : State) (x : Tables) : (s.putTabs x).counts = s.counts := rfl
@[simp] theorem State.putTabs_fabLinks (s : State) (x : Tables) : (s.putTabs x).fabLinks = s.fabLinks := rfl
@[simp] theorem State.putTabs_fab (s : State) (x : Tables) : (s.putTabs x).fab = s.fab := rfl
@[simp] theorem State.putTabs_prots (s : State) (x : Tables) : (s.putTabs x).prots = s.prots := rfl
@[simp] theorem State.putTabs_engs (s : State) (x : Tables) : (s.putTabs x).engs = s.engs := rfl
@[simp] theorem State.putTabs_tel (s : State) (x : Tables) : (s.putTabs x).tel = s.tel := rfl
@[simp] theorem State.putTabs_errLog (s : State) (x : Tables) : (s.putTabs x).errLog = s.errLog := rfl
@[simp] theorem State.putTabs_errOvf (s : State) (x : Tables) : (s.putTabs x).errOvf = s.errOvf := rfl
@[simp] theorem State.putTabs_chans (s : State) (x : Tables) : (s.putTabs x).chans = s.chans := rfl
@[simp] theorem State.putTabs_rakeLast (s : State) (x : Tables) : (s.putTabs x).rakeLast = s.rakeLast := rfl
@[simp] theorem State.putTabs_mon (s : State) (x : Tables) : (s.putTabs x).mon = s.mon := rfl
@[simp] theorem State.putTabs_rd (s : State) (x : Tables) (f0 : Fld) (i0 : Nat) : (s.putTabs x).rd f0 i0 = s.rd f0 i0 := rfl
@[simp] theorem State.putTabs_flag (s : State) (x : Tables) (f0 : Fld) (i0 : Nat) : (s.putTabs x).flag f0 i0 = s.flag f0 i0 := rfl
@[simp] theorem State.putTabs_pw (s : State) (x : Tables) (d0 : Nat) : (s.putTabs x).pw d0 = s.pw d0 := rfl
@[simp] theorem State.putTabs_on (s : State) (x : Tables) (d0 : Nat) : (s.putTabs x).on d0 = s.on d0 := rfl
@[simp] theorem State.putTabs_tstate (s : State) (x : Tables) (t0 : Nat) : (s.putTabs x).tstate t0 = s.tstate t0 := rfl
@[simp] theorem State.putTabs_dom (s : State) (x : Tables) (k0 : Nat) : (s.putTabs x).dom k0 = s.dom k0 := rfl
@[simp] theorem State.putTabs_ring (s : State) (x : Tables) (k0 : Nat) : (s.putTabs x).ring k0 = s.ring k0 := rfl
@[simp] theorem State.putTabs_evq (s : State) (x : Tables) (k0 : Nat) : (s.putTabs x).evq k0 = s.evq k0 := rfl
@[simp] theorem State.putTabs_tree (s : State) (x : Tables) (k0 : Nat) : (s.putTabs x).tree k0 = s.tree k0 := rfl
@[simp] theorem State.putTabs_treeU (s : State) (x : Tables) (k0 : Nat) : (s.putTabs x).treeU k0 = s.treeU k0 := rfl
@[simp] theorem State.putTabs_slot (s : State) (x : Tables) (k0 : Nat) : (s.putTabs x).slot k0 = s.slot k0 := rfl
@[simp] theorem State.putTabs_shared (s : State) (x : Tables) (k0 : Nat) : (s.putTabs x).shared k0 = s.shared k0 := rfl
@[simp] theorem State.putTabs_sluUnit (s : State) (x : Tables) (k0 : Nat) : (s.putTabs x).sluUnit k0 = s.sluUnit k0 := rfl
@[simp] theorem State.putTabs_eng (s : State) (x : Tables) (k0 : Nat) : (s.putTabs x).eng k0 = s.eng k0 := rfl
@[simp] theorem State.putTabs_chan (s : State) (x : Tables) (k0 : Nat) : (s.putTabs x).chan k0 = s.chan k0 := rfl
@[simp] theorem State.putTabs_prot (s : State) (x : Tables) (k0 : Nat) : (s.putTabs x).prot k0 = s.prot k0 := rfl
@[simp] theorem State.putTabs_link (s : State) (x : Tables) (k0 : Nat) : (s.putTabs x).link k0 = s.link k0 := rfl
@[simp] theorem State.putTabs_term (s : State) (x : Tables) (k0 j0 : Nat) : (s.putTabs x).term k0 j0 = s.term k0 j0 := rfl
@[simp] theorem State.putTabs_tabs (s : State) (x : Tables) : (s.putTabs x).tabs = x := rfl

/-! ### putFab -/

@[simp] theorem State.putFab_pending (s : State) (x : Fabric) : (s.putFab x).pending = s.pending := rfl
@[simp] theorem State.putFab_freeCtr (s : State) (x : Fabric) : (s.putFab x).freeCtr = s.freeCtr := rfl
@[simp] theorem State.putFab_out (s : State) (x : Fabric) : (s.putFab x).out = s.out := rfl
@[simp] theorem State.putFab_hostMem (s : State) (x : Fabric) : (s.putFab x).hostMem = s.hostMem := rfl
@[simp] theorem State.putFab_scratch (s : State) (x : Fabric) : (s.putFab x).scratch = s.scratch := rfl
@[simp] theorem State.putFab_fields (s : State) (x : Fabric) : (s.putFab x).fields = s.fields := rfl
@[simp] theorem State.putFab_bnd (s : State) (x : Fabric) : (s.putFab x).bnd = s.bnd := rfl
@[simp] theorem State.putFab_tb (s : State) (x : Fabric) : (s.putFab x).tb = s.tb := rfl
@[simp] theorem State.putFab_doms (s : State) (x : Fabric) : (s.putFab x).doms = s.doms := rfl
@[simp] theorem State.putFab_sents (s : State) (x : Fabric) : (s.putFab x).sents = s.sents := rfl
@[simp] theorem State.putFab_hostSleep (s : State) (x : Fabric) : (s.putFab x).hostSleep = s.hostSleep := rfl
@[simp] theorem State.putFab_trees (s : State) (x : Fabric) : (s.putFab x).trees = s.trees := rfl
@[simp] theorem State.putFab_slots (s : State) (x : Fabric) : (s.putFab x).slots = s.slots := rfl
@[simp] theorem State.putFab_rings (s : State) (x : Fabric) : (s.putFab x).rings = s.rings := rfl
@[simp] theorem State.putFab_evqs (s : State) (x : Fabric) : (s.putFab x).evqs = s.evqs := rfl
@[simp] theorem State.putFab_doorbells (s : State) (x : Fabric) : (s.putFab x).doorbells = s.doorbells := rfl
@[simp] theorem State.putFab_cp (s : State) (x : Fabric) : (s.putFab x).cp = s.cp := rfl
@[simp] theorem State.putFab_terms (s : State) (x : Fabric) : (s.putFab x).terms = s.terms := rfl
@[simp] theorem State.putFab_flows (s : State) (x : Fabric) : (s.putFab x).flows = s.flows := rfl
@[simp] theorem State.putFab_reasms (s : State) (x : Fabric) : (s.putFab x).reasms = s.reasms := rfl
@[simp] theorem State.putFab_bprofs (s : State) (x : Fabric) : (s.putFab x).bprofs = s.bprofs := rfl
@[simp] theorem State.putFab_treeUs (s : State) (x : Fabric) : (s.putFab x).treeUs = s.treeUs := rfl
@[simp] theorem State.putFab_allocs (s : State) (x : Fabric) : (s.putFab x).allocs = s.allocs := rfl
@[simp] theorem State.putFab_sluTrees (s : State) (x : Fabric) : (s.putFab x).sluTrees = s.sluTrees := rfl
@[simp] theorem State.putFab_sluUnits (s : State) (x : Fabric) : (s.putFab x).sluUnits = s.sluUnits := rfl
@[simp] theorem State.putFab_sluShared (s : State) (x : Fabric) : (s.putFab x).sluShared = s.sluShared := rfl
@[simp] theorem State.putFab_slu (s : State) (x : Fabric) : (s.putFab x).slu = s.slu := rfl
@[simp] theorem State.putFab_buf (s : State) (x : Fabric) : (s.putFab x).buf = s.buf := rfl
@[simp] theorem State.putFab_tabs (s : State) (x : Fabric) : (s.putFab x).tabs = s.tabs := rfl
@[simp] theorem State.putFab_counts (s : State) (x : Fabric) : (s.putFab x).counts = s.counts := rfl
@[simp] theorem State.putFab_fabLinks (s : State) (x : Fabric) : (s.putFab x).fabLinks = s.fabLinks := rfl
@[simp] theorem State.putFab_prots (s : State) (x : Fabric) : (s.putFab x).prots = s.prots := rfl
@[simp] theorem State.putFab_engs (s : State) (x : Fabric) : (s.putFab x).engs = s.engs := rfl
@[simp] theorem State.putFab_tel (s : State) (x : Fabric) : (s.putFab x).tel = s.tel := rfl
@[simp] theorem State.putFab_errLog (s : State) (x : Fabric) : (s.putFab x).errLog = s.errLog := rfl
@[simp] theorem State.putFab_errOvf (s : State) (x : Fabric) : (s.putFab x).errOvf = s.errOvf := rfl
@[simp] theorem State.putFab_chans (s : State) (x : Fabric) : (s.putFab x).chans = s.chans := rfl
@[simp] theorem State.putFab_rakeLast (s : State) (x : Fabric) : (s.putFab x).rakeLast = s.rakeLast := rfl
@[simp] theorem State.putFab_mon (s : State) (x : Fabric) : (s.putFab x).mon = s.mon := rfl
@[simp] theorem State.putFab_rd (s : State) (x : Fabric) (f0 : Fld) (i0 : Nat) : (s.putFab x).rd f0 i0 = s.rd f0 i0 := rfl
@[simp] theorem State.putFab_flag (s : State) (x : Fabric) (f0 : Fld) (i0 : Nat) : (s.putFab x).flag f0 i0 = s.flag f0 i0 := rfl
@[simp] theorem State.putFab_pw (s : State) (x : Fabric) (d0 : Nat) : (s.putFab x).pw d0 = s.pw d0 := rfl
@[simp] theorem State.putFab_on (s : State) (x : Fabric) (d0 : Nat) : (s.putFab x).on d0 = s.on d0 := rfl
@[simp] theorem State.putFab_tstate (s : State) (x : Fabric) (t0 : Nat) : (s.putFab x).tstate t0 = s.tstate t0 := rfl
@[simp] theorem State.putFab_dom (s : State) (x : Fabric) (k0 : Nat) : (s.putFab x).dom k0 = s.dom k0 := rfl
@[simp] theorem State.putFab_ring (s : State) (x : Fabric) (k0 : Nat) : (s.putFab x).ring k0 = s.ring k0 := rfl
@[simp] theorem State.putFab_evq (s : State) (x : Fabric) (k0 : Nat) : (s.putFab x).evq k0 = s.evq k0 := rfl
@[simp] theorem State.putFab_tree (s : State) (x : Fabric) (k0 : Nat) : (s.putFab x).tree k0 = s.tree k0 := rfl
@[simp] theorem State.putFab_treeU (s : State) (x : Fabric) (k0 : Nat) : (s.putFab x).treeU k0 = s.treeU k0 := rfl
@[simp] theorem State.putFab_slot (s : State) (x : Fabric) (k0 : Nat) : (s.putFab x).slot k0 = s.slot k0 := rfl
@[simp] theorem State.putFab_shared (s : State) (x : Fabric) (k0 : Nat) : (s.putFab x).shared k0 = s.shared k0 := rfl
@[simp] theorem State.putFab_sluUnit (s : State) (x : Fabric) (k0 : Nat) : (s.putFab x).sluUnit k0 = s.sluUnit k0 := rfl
@[simp] theorem State.putFab_eng (s : State) (x : Fabric) (k0 : Nat) : (s.putFab x).eng k0 = s.eng k0 := rfl
@[simp] theorem State.putFab_chan (s : State) (x : Fabric) (k0 : Nat) : (s.putFab x).chan k0 = s.chan k0 := rfl
@[simp] theorem State.putFab_prot (s : State) (x : Fabric) (k0 : Nat) : (s.putFab x).prot k0 = s.prot k0 := rfl
@[simp] theorem State.putFab_link (s : State) (x : Fabric) (k0 : Nat) : (s.putFab x).link k0 = s.link k0 := rfl
@[simp] theorem State.putFab_term (s : State) (x : Fabric) (k0 j0 : Nat) : (s.putFab x).term k0 j0 = s.term k0 j0 := rfl
@[simp] theorem State.putFab_fab (s : State) (x : Fabric) : (s.putFab x).fab = x := rfl

/-! ### putTel -/

@[simp] theorem State.putTel_pending (s : State) (x : SMap (List (List Byte))) : (s.putTel x).pending = s.pending := rfl
@[simp] theorem State.putTel_freeCtr (s : State) (x : SMap (List (List Byte))) : (s.putTel x).freeCtr = s.freeCtr := rfl
@[simp] theorem State.putTel_out (s : State) (x : SMap (List (List Byte))) : (s.putTel x).out = s.out := rfl
@[simp] theorem State.putTel_hostMem (s : State) (x : SMap (List (List Byte))) : (s.putTel x).hostMem = s.hostMem := rfl
@[simp] theorem State.putTel_scratch (s : State) (x : SMap (List (List Byte))) : (s.putTel x).scratch = s.scratch := rfl
@[simp] theorem State.putTel_fields (s : State) (x : SMap (List (List Byte))) : (s.putTel x).fields = s.fields := rfl
@[simp] theorem State.putTel_bnd (s : State) (x : SMap (List (List Byte))) : (s.putTel x).bnd = s.bnd := rfl
@[simp] theorem State.putTel_tb (s : State) (x : SMap (List (List Byte))) : (s.putTel x).tb = s.tb := rfl
@[simp] theorem State.putTel_doms (s : State) (x : SMap (List (List Byte))) : (s.putTel x).doms = s.doms := rfl
@[simp] theorem State.putTel_sents (s : State) (x : SMap (List (List Byte))) : (s.putTel x).sents = s.sents := rfl
@[simp] theorem State.putTel_hostSleep (s : State) (x : SMap (List (List Byte))) : (s.putTel x).hostSleep = s.hostSleep := rfl
@[simp] theorem State.putTel_trees (s : State) (x : SMap (List (List Byte))) : (s.putTel x).trees = s.trees := rfl
@[simp] theorem State.putTel_slots (s : State) (x : SMap (List (List Byte))) : (s.putTel x).slots = s.slots := rfl
@[simp] theorem State.putTel_rings (s : State) (x : SMap (List (List Byte))) : (s.putTel x).rings = s.rings := rfl
@[simp] theorem State.putTel_evqs (s : State) (x : SMap (List (List Byte))) : (s.putTel x).evqs = s.evqs := rfl
@[simp] theorem State.putTel_doorbells (s : State) (x : SMap (List (List Byte))) : (s.putTel x).doorbells = s.doorbells := rfl
@[simp] theorem State.putTel_cp (s : State) (x : SMap (List (List Byte))) : (s.putTel x).cp = s.cp := rfl
@[simp] theorem State.putTel_terms (s : State) (x : SMap (List (List Byte))) : (s.putTel x).terms = s.terms := rfl
@[simp] theorem State.putTel_flows (s : State) (x : SMap (List (List Byte))) : (s.putTel x).flows = s.flows := rfl
@[simp] theorem State.putTel_reasms (s : State) (x : SMap (List (List Byte))) : (s.putTel x).reasms = s.reasms := rfl
@[simp] theorem State.putTel_bprofs (s : State) (x : SMap (List (List Byte))) : (s.putTel x).bprofs = s.bprofs := rfl
@[simp] theorem State.putTel_treeUs (s : State) (x : SMap (List (List Byte))) : (s.putTel x).treeUs = s.treeUs := rfl
@[simp] theorem State.putTel_allocs (s : State) (x : SMap (List (List Byte))) : (s.putTel x).allocs = s.allocs := rfl
@[simp] theorem State.putTel_sluTrees (s : State) (x : SMap (List (List Byte))) : (s.putTel x).sluTrees = s.sluTrees := rfl
@[simp] theorem State.putTel_sluUnits (s : State) (x : SMap (List (List Byte))) : (s.putTel x).sluUnits = s.sluUnits := rfl
@[simp] theorem State.putTel_sluShared (s : State) (x : SMap (List (List Byte))) : (s.putTel x).sluShared = s.sluShared := rfl
@[simp] theorem State.putTel_slu (s : State) (x : SMap (List (List Byte))) : (s.putTel x).slu = s.slu := rfl
@[simp] theorem State.putTel_buf (s : State) (x : SMap (List (List Byte))) : (s.putTel x).buf = s.buf := rfl
@[simp] theorem State.putTel_tabs (s : State) (x : SMap (List (List Byte))) : (s.putTel x).tabs = s.tabs := rfl
@[simp] theorem State.putTel_counts (s : State) (x : SMap (List (List Byte))) : (s.putTel x).counts = s.counts := rfl
@[simp] theorem State.putTel_fabLinks (s : State) (x : SMap (List (List Byte))) : (s.putTel x).fabLinks = s.fabLinks := rfl
@[simp] theorem State.putTel_fab (s : State) (x : SMap (List (List Byte))) : (s.putTel x).fab = s.fab := rfl
@[simp] theorem State.putTel_prots (s : State) (x : SMap (List (List Byte))) : (s.putTel x).prots = s.prots := rfl
@[simp] theorem State.putTel_engs (s : State) (x : SMap (List (List Byte))) : (s.putTel x).engs = s.engs := rfl
@[simp] theorem State.putTel_errLog (s : State) (x : SMap (List (List Byte))) : (s.putTel x).errLog = s.errLog := rfl
@[simp] theorem State.putTel_errOvf (s : State) (x : SMap (List (List Byte))) : (s.putTel x).errOvf = s.errOvf := rfl
@[simp] theorem State.putTel_chans (s : State) (x : SMap (List (List Byte))) : (s.putTel x).chans = s.chans := rfl
@[simp] theorem State.putTel_rakeLast (s : State) (x : SMap (List (List Byte))) : (s.putTel x).rakeLast = s.rakeLast := rfl
@[simp] theorem State.putTel_mon (s : State) (x : SMap (List (List Byte))) : (s.putTel x).mon = s.mon := rfl
@[simp] theorem State.putTel_rd (s : State) (x : SMap (List (List Byte))) (f0 : Fld) (i0 : Nat) :
    (s.putTel x).rd f0 i0 = s.rd f0 i0 := rfl
@[simp] theorem State.putTel_flag (s : State) (x : SMap (List (List Byte))) (f0 : Fld) (i0 : Nat) :
    (s.putTel x).flag f0 i0 = s.flag f0 i0 := rfl
@[simp] theorem State.putTel_pw (s : State) (x : SMap (List (List Byte))) (d0 : Nat) : (s.putTel x).pw d0 = s.pw d0 := rfl
@[simp] theorem State.putTel_on (s : State) (x : SMap (List (List Byte))) (d0 : Nat) : (s.putTel x).on d0 = s.on d0 := rfl
@[simp] theorem State.putTel_tstate (s : State) (x : SMap (List (List Byte))) (t0 : Nat) :
    (s.putTel x).tstate t0 = s.tstate t0 := rfl
@[simp] theorem State.putTel_dom (s : State) (x : SMap (List (List Byte))) (k0 : Nat) : (s.putTel x).dom k0 = s.dom k0 := rfl
@[simp] theorem State.putTel_ring (s : State) (x : SMap (List (List Byte))) (k0 : Nat) : (s.putTel x).ring k0 = s.ring k0 := rfl
@[simp] theorem State.putTel_evq (s : State) (x : SMap (List (List Byte))) (k0 : Nat) : (s.putTel x).evq k0 = s.evq k0 := rfl
@[simp] theorem State.putTel_tree (s : State) (x : SMap (List (List Byte))) (k0 : Nat) : (s.putTel x).tree k0 = s.tree k0 := rfl
@[simp] theorem State.putTel_treeU (s : State) (x : SMap (List (List Byte))) (k0 : Nat) :
    (s.putTel x).treeU k0 = s.treeU k0 := rfl
@[simp] theorem State.putTel_slot (s : State) (x : SMap (List (List Byte))) (k0 : Nat) : (s.putTel x).slot k0 = s.slot k0 := rfl
@[simp] theorem State.putTel_shared (s : State) (x : SMap (List (List Byte))) (k0 : Nat) :
    (s.putTel x).shared k0 = s.shared k0 := rfl
@[simp] theorem State.putTel_sluUnit (s : State) (x : SMap (List (List Byte))) (k0 : Nat) :
    (s.putTel x).sluUnit k0 = s.sluUnit k0 := rfl
@[simp] theorem State.putTel_eng (s : State) (x : SMap (List (List Byte))) (k0 : Nat) : (s.putTel x).eng k0 = s.eng k0 := rfl
@[simp] theorem State.putTel_chan (s : State) (x : SMap (List (List Byte))) (k0 : Nat) : (s.putTel x).chan k0 = s.chan k0 := rfl
@[simp] theorem State.putTel_prot (s : State) (x : SMap (List (List Byte))) (k0 : Nat) : (s.putTel x).prot k0 = s.prot k0 := rfl
@[simp] theorem State.putTel_link (s : State) (x : SMap (List (List Byte))) (k0 : Nat) : (s.putTel x).link k0 = s.link k0 := rfl
@[simp] theorem State.putTel_term (s : State) (x : SMap (List (List Byte))) (k0 j0 : Nat) :
    (s.putTel x).term k0 j0 = s.term k0 j0 := rfl
@[simp] theorem State.putTel_tel (s : State) (x : SMap (List (List Byte))) : (s.putTel x).tel = x := rfl

/-! ### putMon -/

@[simp] theorem State.putMon_pending (s : State) (x : Monitor) : (s.putMon x).pending = s.pending := rfl
@[simp] theorem State.putMon_freeCtr (s : State) (x : Monitor) : (s.putMon x).freeCtr = s.freeCtr := rfl
@[simp] theorem State.putMon_out (s : State) (x : Monitor) : (s.putMon x).out = s.out := rfl
@[simp] theorem State.putMon_hostMem (s : State) (x : Monitor) : (s.putMon x).hostMem = s.hostMem := rfl
@[simp] theorem State.putMon_scratch (s : State) (x : Monitor) : (s.putMon x).scratch = s.scratch := rfl
@[simp] theorem State.putMon_fields (s : State) (x : Monitor) : (s.putMon x).fields = s.fields := rfl
@[simp] theorem State.putMon_bnd (s : State) (x : Monitor) : (s.putMon x).bnd = s.bnd := rfl
@[simp] theorem State.putMon_tb (s : State) (x : Monitor) : (s.putMon x).tb = s.tb := rfl
@[simp] theorem State.putMon_doms (s : State) (x : Monitor) : (s.putMon x).doms = s.doms := rfl
@[simp] theorem State.putMon_sents (s : State) (x : Monitor) : (s.putMon x).sents = s.sents := rfl
@[simp] theorem State.putMon_hostSleep (s : State) (x : Monitor) : (s.putMon x).hostSleep = s.hostSleep := rfl
@[simp] theorem State.putMon_trees (s : State) (x : Monitor) : (s.putMon x).trees = s.trees := rfl
@[simp] theorem State.putMon_slots (s : State) (x : Monitor) : (s.putMon x).slots = s.slots := rfl
@[simp] theorem State.putMon_rings (s : State) (x : Monitor) : (s.putMon x).rings = s.rings := rfl
@[simp] theorem State.putMon_evqs (s : State) (x : Monitor) : (s.putMon x).evqs = s.evqs := rfl
@[simp] theorem State.putMon_doorbells (s : State) (x : Monitor) : (s.putMon x).doorbells = s.doorbells := rfl
@[simp] theorem State.putMon_cp (s : State) (x : Monitor) : (s.putMon x).cp = s.cp := rfl
@[simp] theorem State.putMon_terms (s : State) (x : Monitor) : (s.putMon x).terms = s.terms := rfl
@[simp] theorem State.putMon_flows (s : State) (x : Monitor) : (s.putMon x).flows = s.flows := rfl
@[simp] theorem State.putMon_reasms (s : State) (x : Monitor) : (s.putMon x).reasms = s.reasms := rfl
@[simp] theorem State.putMon_bprofs (s : State) (x : Monitor) : (s.putMon x).bprofs = s.bprofs := rfl
@[simp] theorem State.putMon_treeUs (s : State) (x : Monitor) : (s.putMon x).treeUs = s.treeUs := rfl
@[simp] theorem State.putMon_allocs (s : State) (x : Monitor) : (s.putMon x).allocs = s.allocs := rfl
@[simp] theorem State.putMon_sluTrees (s : State) (x : Monitor) : (s.putMon x).sluTrees = s.sluTrees := rfl
@[simp] theorem State.putMon_sluUnits (s : State) (x : Monitor) : (s.putMon x).sluUnits = s.sluUnits := rfl
@[simp] theorem State.putMon_sluShared (s : State) (x : Monitor) : (s.putMon x).sluShared = s.sluShared := rfl
@[simp] theorem State.putMon_slu (s : State) (x : Monitor) : (s.putMon x).slu = s.slu := rfl
@[simp] theorem State.putMon_buf (s : State) (x : Monitor) : (s.putMon x).buf = s.buf := rfl
@[simp] theorem State.putMon_tabs (s : State) (x : Monitor) : (s.putMon x).tabs = s.tabs := rfl
@[simp] theorem State.putMon_counts (s : State) (x : Monitor) : (s.putMon x).counts = s.counts := rfl
@[simp] theorem State.putMon_fabLinks (s : State) (x : Monitor) : (s.putMon x).fabLinks = s.fabLinks := rfl
@[simp] theorem State.putMon_fab (s : State) (x : Monitor) : (s.putMon x).fab = s.fab := rfl
@[simp] theorem State.putMon_prots (s : State) (x : Monitor) : (s.putMon x).prots = s.prots := rfl
@[simp] theorem State.putMon_engs (s : State) (x : Monitor) : (s.putMon x).engs = s.engs := rfl
@[simp] theorem State.putMon_tel (s : State) (x : Monitor) : (s.putMon x).tel = s.tel := rfl
@[simp] theorem State.putMon_errLog (s : State) (x : Monitor) : (s.putMon x).errLog = s.errLog := rfl
@[simp] theorem State.putMon_errOvf (s : State) (x : Monitor) : (s.putMon x).errOvf = s.errOvf := rfl
@[simp] theorem State.putMon_chans (s : State) (x : Monitor) : (s.putMon x).chans = s.chans := rfl
@[simp] theorem State.putMon_rakeLast (s : State) (x : Monitor) : (s.putMon x).rakeLast = s.rakeLast := rfl
@[simp] theorem State.putMon_rd (s : State) (x : Monitor) (f0 : Fld) (i0 : Nat) : (s.putMon x).rd f0 i0 = s.rd f0 i0 := rfl
@[simp] theorem State.putMon_flag (s : State) (x : Monitor) (f0 : Fld) (i0 : Nat) : (s.putMon x).flag f0 i0 = s.flag f0 i0 := rfl
@[simp] theorem State.putMon_pw (s : State) (x : Monitor) (d0 : Nat) : (s.putMon x).pw d0 = s.pw d0 := rfl
@[simp] theorem State.putMon_on (s : State) (x : Monitor) (d0 : Nat) : (s.putMon x).on d0 = s.on d0 := rfl
@[simp] theorem State.putMon_tstate (s : State) (x : Monitor) (t0 : Nat) : (s.putMon x).tstate t0 = s.tstate t0 := rfl
@[simp] theorem State.putMon_dom (s : State) (x : Monitor) (k0 : Nat) : (s.putMon x).dom k0 = s.dom k0 := rfl
@[simp] theorem State.putMon_ring (s : State) (x : Monitor) (k0 : Nat) : (s.putMon x).ring k0 = s.ring k0 := rfl
@[simp] theorem State.putMon_evq (s : State) (x : Monitor) (k0 : Nat) : (s.putMon x).evq k0 = s.evq k0 := rfl
@[simp] theorem State.putMon_tree (s : State) (x : Monitor) (k0 : Nat) : (s.putMon x).tree k0 = s.tree k0 := rfl
@[simp] theorem State.putMon_treeU (s : State) (x : Monitor) (k0 : Nat) : (s.putMon x).treeU k0 = s.treeU k0 := rfl
@[simp] theorem State.putMon_slot (s : State) (x : Monitor) (k0 : Nat) : (s.putMon x).slot k0 = s.slot k0 := rfl
@[simp] theorem State.putMon_shared (s : State) (x : Monitor) (k0 : Nat) : (s.putMon x).shared k0 = s.shared k0 := rfl
@[simp] theorem State.putMon_sluUnit (s : State) (x : Monitor) (k0 : Nat) : (s.putMon x).sluUnit k0 = s.sluUnit k0 := rfl
@[simp] theorem State.putMon_eng (s : State) (x : Monitor) (k0 : Nat) : (s.putMon x).eng k0 = s.eng k0 := rfl
@[simp] theorem State.putMon_chan (s : State) (x : Monitor) (k0 : Nat) : (s.putMon x).chan k0 = s.chan k0 := rfl
@[simp] theorem State.putMon_prot (s : State) (x : Monitor) (k0 : Nat) : (s.putMon x).prot k0 = s.prot k0 := rfl
@[simp] theorem State.putMon_link (s : State) (x : Monitor) (k0 : Nat) : (s.putMon x).link k0 = s.link k0 := rfl
@[simp] theorem State.putMon_term (s : State) (x : Monitor) (k0 j0 : Nat) : (s.putMon x).term k0 j0 = s.term k0 j0 := rfl
@[simp] theorem State.putMon_mon (s : State) (x : Monitor) : (s.putMon x).mon = x := rfl

/-! ### putUpsets -/

@[simp] theorem State.putUpsets_pending (s : State) (x : List Upset) : (s.putUpsets x).pending = s.pending := rfl
@[simp] theorem State.putUpsets_freeCtr (s : State) (x : List Upset) : (s.putUpsets x).freeCtr = s.freeCtr := rfl
@[simp] theorem State.putUpsets_out (s : State) (x : List Upset) : (s.putUpsets x).out = s.out := rfl
@[simp] theorem State.putUpsets_hostMem (s : State) (x : List Upset) : (s.putUpsets x).hostMem = s.hostMem := rfl
@[simp] theorem State.putUpsets_scratch (s : State) (x : List Upset) : (s.putUpsets x).scratch = s.scratch := rfl
@[simp] theorem State.putUpsets_fields (s : State) (x : List Upset) : (s.putUpsets x).fields = s.fields := rfl
@[simp] theorem State.putUpsets_bnd (s : State) (x : List Upset) : (s.putUpsets x).bnd = s.bnd := rfl
@[simp] theorem State.putUpsets_tb (s : State) (x : List Upset) : (s.putUpsets x).tb = s.tb := rfl
@[simp] theorem State.putUpsets_doms (s : State) (x : List Upset) : (s.putUpsets x).doms = s.doms := rfl
@[simp] theorem State.putUpsets_sents (s : State) (x : List Upset) : (s.putUpsets x).sents = s.sents := rfl
@[simp] theorem State.putUpsets_hostSleep (s : State) (x : List Upset) : (s.putUpsets x).hostSleep = s.hostSleep := rfl
@[simp] theorem State.putUpsets_trees (s : State) (x : List Upset) : (s.putUpsets x).trees = s.trees := rfl
@[simp] theorem State.putUpsets_slots (s : State) (x : List Upset) : (s.putUpsets x).slots = s.slots := rfl
@[simp] theorem State.putUpsets_rings (s : State) (x : List Upset) : (s.putUpsets x).rings = s.rings := rfl
@[simp] theorem State.putUpsets_evqs (s : State) (x : List Upset) : (s.putUpsets x).evqs = s.evqs := rfl
@[simp] theorem State.putUpsets_doorbells (s : State) (x : List Upset) : (s.putUpsets x).doorbells = s.doorbells := rfl
@[simp] theorem State.putUpsets_cp (s : State) (x : List Upset) : (s.putUpsets x).cp = s.cp := rfl
@[simp] theorem State.putUpsets_terms (s : State) (x : List Upset) : (s.putUpsets x).terms = s.terms := rfl
@[simp] theorem State.putUpsets_flows (s : State) (x : List Upset) : (s.putUpsets x).flows = s.flows := rfl
@[simp] theorem State.putUpsets_reasms (s : State) (x : List Upset) : (s.putUpsets x).reasms = s.reasms := rfl
@[simp] theorem State.putUpsets_bprofs (s : State) (x : List Upset) : (s.putUpsets x).bprofs = s.bprofs := rfl
@[simp] theorem State.putUpsets_treeUs (s : State) (x : List Upset) : (s.putUpsets x).treeUs = s.treeUs := rfl
@[simp] theorem State.putUpsets_allocs (s : State) (x : List Upset) : (s.putUpsets x).allocs = s.allocs := rfl
@[simp] theorem State.putUpsets_sluTrees (s : State) (x : List Upset) : (s.putUpsets x).sluTrees = s.sluTrees := rfl
@[simp] theorem State.putUpsets_sluUnits (s : State) (x : List Upset) : (s.putUpsets x).sluUnits = s.sluUnits := rfl
@[simp] theorem State.putUpsets_sluShared (s : State) (x : List Upset) : (s.putUpsets x).sluShared = s.sluShared := rfl
@[simp] theorem State.putUpsets_slu (s : State) (x : List Upset) : (s.putUpsets x).slu = s.slu := rfl
@[simp] theorem State.putUpsets_buf (s : State) (x : List Upset) : (s.putUpsets x).buf = s.buf := rfl
@[simp] theorem State.putUpsets_tabs (s : State) (x : List Upset) : (s.putUpsets x).tabs = s.tabs := rfl
@[simp] theorem State.putUpsets_counts (s : State) (x : List Upset) : (s.putUpsets x).counts = s.counts := rfl
@[simp] theorem State.putUpsets_fabLinks (s : State) (x : List Upset) : (s.putUpsets x).fabLinks = s.fabLinks := rfl
@[simp] theorem State.putUpsets_fab (s : State) (x : List Upset) : (s.putUpsets x).fab = s.fab := rfl
@[simp] theorem State.putUpsets_prots (s : State) (x : List Upset) : (s.putUpsets x).prots = s.prots := rfl
@[simp] theorem State.putUpsets_engs (s : State) (x : List Upset) : (s.putUpsets x).engs = s.engs := rfl
@[simp] theorem State.putUpsets_tel (s : State) (x : List Upset) : (s.putUpsets x).tel = s.tel := rfl
@[simp] theorem State.putUpsets_errLog (s : State) (x : List Upset) : (s.putUpsets x).errLog = s.errLog := rfl
@[simp] theorem State.putUpsets_errOvf (s : State) (x : List Upset) : (s.putUpsets x).errOvf = s.errOvf := rfl
@[simp] theorem State.putUpsets_chans (s : State) (x : List Upset) : (s.putUpsets x).chans = s.chans := rfl
@[simp] theorem State.putUpsets_rakeLast (s : State) (x : List Upset) : (s.putUpsets x).rakeLast = s.rakeLast := rfl
@[simp] theorem State.putUpsets_mon (s : State) (x : List Upset) : (s.putUpsets x).mon = s.mon := rfl
@[simp] theorem State.putUpsets_rd (s : State) (x : List Upset) (f0 : Fld) (i0 : Nat) :
    (s.putUpsets x).rd f0 i0 = s.rd f0 i0 := rfl
@[simp] theorem State.putUpsets_flag (s : State) (x : List Upset) (f0 : Fld) (i0 : Nat) :
    (s.putUpsets x).flag f0 i0 = s.flag f0 i0 := rfl
@[simp] theorem State.putUpsets_pw (s : State) (x : List Upset) (d0 : Nat) : (s.putUpsets x).pw d0 = s.pw d0 := rfl
@[simp] theorem State.putUpsets_on (s : State) (x : List Upset) (d0 : Nat) : (s.putUpsets x).on d0 = s.on d0 := rfl
@[simp] theorem State.putUpsets_tstate (s : State) (x : List Upset) (t0 : Nat) : (s.putUpsets x).tstate t0 = s.tstate t0 := rfl
@[simp] theorem State.putUpsets_dom (s : State) (x : List Upset) (k0 : Nat) : (s.putUpsets x).dom k0 = s.dom k0 := rfl
@[simp] theorem State.putUpsets_ring (s : State) (x : List Upset) (k0 : Nat) : (s.putUpsets x).ring k0 = s.ring k0 := rfl
@[simp] theorem State.putUpsets_evq (s : State) (x : List Upset) (k0 : Nat) : (s.putUpsets x).evq k0 = s.evq k0 := rfl
@[simp] theorem State.putUpsets_tree (s : State) (x : List Upset) (k0 : Nat) : (s.putUpsets x).tree k0 = s.tree k0 := rfl
@[simp] theorem State.putUpsets_treeU (s : State) (x : List Upset) (k0 : Nat) : (s.putUpsets x).treeU k0 = s.treeU k0 := rfl
@[simp] theorem State.putUpsets_slot (s : State) (x : List Upset) (k0 : Nat) : (s.putUpsets x).slot k0 = s.slot k0 := rfl
@[simp] theorem State.putUpsets_shared (s : State) (x : List Upset) (k0 : Nat) : (s.putUpsets x).shared k0 = s.shared k0 := rfl
@[simp] theorem State.putUpsets_sluUnit (s : State) (x : List Upset) (k0 : Nat) : (s.putUpsets x).sluUnit k0 = s.sluUnit k0 := rfl
@[simp] theorem State.putUpsets_eng (s : State) (x : List Upset) (k0 : Nat) : (s.putUpsets x).eng k0 = s.eng k0 := rfl
@[simp] theorem State.putUpsets_chan (s : State) (x : List Upset) (k0 : Nat) : (s.putUpsets x).chan k0 = s.chan k0 := rfl
@[simp] theorem State.putUpsets_prot (s : State) (x : List Upset) (k0 : Nat) : (s.putUpsets x).prot k0 = s.prot k0 := rfl
@[simp] theorem State.putUpsets_link (s : State) (x : List Upset) (k0 : Nat) : (s.putUpsets x).link k0 = s.link k0 := rfl
@[simp] theorem State.putUpsets_term (s : State) (x : List Upset) (k0 j0 : Nat) : (s.putUpsets x).term k0 j0 = s.term k0 j0 := rfl
@[simp] theorem State.putUpsets_upsets (s : State) (x : List Upset) : (s.putUpsets x).upsets = x := rfl

/-! ### The updates at the fields they are for -/

@[simp] theorem State.emit_out (s : State) (o : Output) : (s.emit o).out = o :: s.out := rfl
@[simp] theorem State.tickFree_freeCtr (s : State) : s.tickFree.freeCtr = s.freeCtr + 1 := rfl
@[simp] theorem State.setBuf_buf (s : State) (g : Buffers → Buffers) : (s.setBuf g).buf = g s.buf := rfl
@[simp] theorem State.setTabs_tabs (s : State) (g : Tables → Tables) : (s.setTabs g).tabs = g s.tabs := rfl
@[simp] theorem State.setMon_mon (s : State) (g : Monitor → Monitor) : (s.setMon g).mon = g s.mon := rfl

end Sys2Proof.Machine
end

