-- ==== Sys2Proof/Laws/Calvan.lean ====
section
/-! SUPPORT. How a Calvan command runs: once its request is next and passes the common checks, its state is what its body
leaves of the state with the request taken, answered and followed by the requests no command has (R342 to R350). -/

namespace Sys2Proof.Machine

set_option Elab.async false
set_option linter.all false

theorem State.takes_waiting {s : State} {src : Src} {code : Nat} {req : List Byte} (h : s.takes src code req = true) :
    (s.waiting src).getD [] = req := by
  unfold State.takes at h
  simp only [Bool.and_eq_true, decide_eq_true_eq] at h
  rw [h.1.2]
  rfl

/-- A command whose header is refused. -/
theorem State.calvan_refused {s : State} {src : Src} {code : Nat} {req : List Byte} {boot restricted : Bool} {r : Resp}
    (body : Body) (h : s.takes src code req = true) (h2 : s.replayOf src req = none)
    (h3 : s.headerCheck req boot restricted = some r) :
    s.calvan src code boot restricted body = ((s.take src).answer src r).pumpAll := by
  unfold State.calvan
  simp only [State.takes_waiting h, h, h2, h3, Bool.not_true, Bool.false_eq_true, if_false]

/-- A command carried out: its body answers at once. -/
theorem State.calvan_given {s u : State} {src : Src} {code : Nat} {boot restricted : Bool} {p : List Byte} {r : Resp}
    {body : Body} (h : Given s src code boot restricted p) (hb : body (s.take src) src p = (u, some r)) :
    s.calvan src code boot restricted body = (u.answer src r).pumpAll := by
  obtain ⟨req, h1, h2, h3, h4⟩ := h
  unfold State.calvan
  simp only [State.takes_waiting h1, h1, h2, h3, h4, hb, Bool.not_true, Bool.false_eq_true, if_false]

/-- A command carried out: its work goes on. -/
theorem State.calvan_begun {s u : State} {src : Src} {code : Nat} {boot restricted : Bool} {p : List Byte}
    {body : Body} (h : Given s src code boot restricted p) (hb : body (s.take src) src p = (u, none)) :
    s.calvan src code boot restricted body = u.pumpAll := by
  obtain ⟨req, h1, h2, h3, h4⟩ := h
  unfold State.calvan
  simp only [State.takes_waiting h1, h1, h2, h3, h4, hb, Bool.not_true, Bool.false_eq_true, if_false]

theorem serves_of {c : Instr} {s u : State} {src : Src} {r : Resp} {P : State → Prop}
    (h : exec c s = .next ((u.answer src r).pumpAll)) (hp : P u) : Serves c s src r P := ⟨u, h, hp⟩

/-- Taking a request changes no register but the ADMIN ring's head. -/
theorem State.take_rd (s : State) (src : Src) {f : Fld} {i : Nat} (h : F.DB_HEAD.HEAD.num ≠ f.num) :
    (s.take src).rd f i = s.rd f i := by
  refine (Frame.take (M := W.take) (Frame.refl _ s) (Nat.and_self _)).regs f i ?_
  have e : W.take = 2 ^ F.DB_HEAD.HEAD.num := by decide +kernel
  rw [e, Nat.testBit_two_pow]
  exact decide_eq_false h

end Sys2Proof.Machine
end

