-- ==== Sys2Proof/Laws/FrameTermOps.lean ====
section
/-! SUPPORT. Which registers, and whether the memories, the operations of TermOps may write (Laws/Frame.lean). -/

namespace Sys2Proof.Machine

set_option Elab.async false
set_option linter.all false

/-- What `State.stopTerm` may write: register fields by number, memory at 1000. -/
def W.stopTerm : Nat := 0xc0000000000020000000007300000400000000000000000000000000000000072000000000000000000000000000000100000000002000000000000000000000000

theorem Frame.stopTerm {M : Nat} {s0 s : State} {t : Nat} {k : Nat} {cause : Nat} (hk0 : Frame M s0 s)
    (hL : W.stopTerm &&& M = W.stopTerm) : Frame M s0 (State.stopTerm s t k cause) := by
  unfold State.stopTerm
  try dsimp only
  repeat' first
    | (with_reducible assumption)
    | (split)
    | (with_reducible refine Frame.foldl ?_ ?_)
    | (exact Nat.zero_and _)
    | (exact Frame.sub hL (by decide))
    | (exact Frame.bitOf hL (by decide))
    | (intro u hu x hx)
    | (intro u hu)
    | (refine Frame.bitMem (by with_reducible assumption) ?_)
    | (refine Frame.sub_all hL (by first | decide | (simp only [List.map_cons, List.map_nil]; decide)))
    | (refine Frame.bitMemFst (by with_reducible assumption) ?_)
    | (with_reducible apply Frame.emit)
    | (with_reducible apply Frame.setTerm)
    | (with_reducible apply Frame.settled)
    | (with_reducible apply Frame.evidence)
    | (with_reducible apply Frame.termState)
    | (with_reducible apply Frame.zeroAccounts)
    | (with_reducible apply Frame.dropRanging)
    | (with_reducible refine Frame.mk_other ?_)
    | decide

/-- What `State.whileActive` may write: register fields by number, memory at 1000. -/
def W.whileActive : Nat := 0x0

theorem Frame.whileActive {M : Nat} {s0 s : State} {t : Nat} {f : State → State} (hk0 : Frame M s0 s) (hf : ∀ u, Frame M s0 u → Frame M s0 (f u))
    (_hL : W.whileActive &&& M = W.whileActive) : Frame M s0 (State.whileActive s t f) := by
  unfold State.whileActive
  try dsimp only
  repeat' first
    | (with_reducible assumption)
    | (split)
    | (with_reducible refine Frame.foldl ?_ ?_)
    | (exact Nat.zero_and _)
    | (intro u hu x hx)
    | (intro u hu)
    | (refine Frame.bitMem (by with_reducible assumption) ?_)
    | (refine Frame.bitMemFst (by with_reducible assumption) ?_)
    | (refine hf _ ?_)
    | (refine hf _ _ ?_)
    | (refine hf _ _ _ ?_)
    | (with_reducible apply Frame.emit)
    | decide

/-- What `State.quenchOne` may write: register fields by number, memory at 1000. -/
def W.quenchOne : Nat := 0xc0000000000020000000007300000400000000000000000000000000000000072000000000000000000000000000000100000000002000000000000000000000000

theorem Frame.quenchOne {M : Nat} {s0 s : State} {t : Nat} {k : Nat} {cause : Nat} (hk0 : Frame M s0 s)
    (hL : W.quenchOne &&& M = W.quenchOne) : Frame M s0 (State.quenchOne s t k cause) := by
  unfold State.quenchOne
  try dsimp only
  repeat' first
    | (with_reducible assumption)
    | (split)
    | (with_reducible refine Frame.foldl ?_ ?_)
    | (exact Nat.zero_and _)
    | (exact Frame.sub hL (by decide))
    | (exact Frame.bitOf hL (by decide))
    | (intro u hu x hx)
    | (intro u hu)
    | (refine Frame.bitMem (by with_reducible assumption) ?_)
    | (refine Frame.sub_all hL (by first | decide | (simp only [List.map_cons, List.map_nil]; decide)))
    | (refine Frame.bitMemFst (by with_reducible assumption) ?_)
    | (with_reducible apply Frame.emit)
    | (with_reducible apply Frame.stopTerm)
    | (with_reducible apply Frame.whileActive)
    | (with_reducible apply Frame.ploamUrgent)
    | decide

/-- What `State.releaseTerm` may write: register fields by number, memory at 1000. -/
def W.releaseTerm : Nat := 0xc0000000000020000000000000000000000000000000000000000000000000072000000000000000000000000000000100000000002000000000000000000000000

theorem Frame.releaseTerm {M : Nat} {s0 s : State} {t : Nat} {k : Nat} (hk0 : Frame M s0 s)
    (hL : W.releaseTerm &&& M = W.releaseTerm) : Frame M s0 (State.releaseTerm s t k) := by
  unfold State.releaseTerm
  try dsimp only
  repeat' first
    | (with_reducible assumption)
    | (split)
    | (with_reducible refine Frame.foldl ?_ ?_)
    | (exact Nat.zero_and _)
    | (exact Frame.sub hL (by decide))
    | (exact Frame.bitOf hL (by decide))
    | (intro u hu x hx)
    | (intro u hu)
    | (refine Frame.bitMem (by with_reducible assumption) ?_)
    | (refine Frame.sub_all hL (by first | decide | (simp only [List.map_cons, List.map_nil]; decide)))
    | (refine Frame.bitMemFst (by with_reducible assumption) ?_)
    | (with_reducible apply Frame.emit)
    | (with_reducible apply Frame.setTerm)
    | (with_reducible apply Frame.termState)
    | (with_reducible refine Frame.mk_other ?_)
    | decide

/-- What `State.applyQuench` may write: register fields by number, memory at 1000. -/
def W.applyQuench : Nat := 0xc0000000000020000000007300000400000000000000000000000000000000072000000000000000000000000000000100000000002000000000000000000000000

theorem Frame.applyQuench {M : Nat} {s0 s : State} {p : List Byte} (hk0 : Frame M s0 s)
    (hL : W.applyQuench &&& M = W.applyQuench) : Frame M s0 (State.applyQuench s p).1 := by
  unfold State.applyQuench
  try dsimp only
  repeat' first
    | (with_reducible assumption)
    | (split)
    | (with_reducible refine Frame.foldl ?_ ?_)
    | (exact Nat.zero_and _)
    | (exact Frame.sub hL (by decide))
    | (exact Frame.bitOf hL (by decide))
    | (intro u hu x hx)
    | (intro u hu)
    | (refine Frame.bitMem (by with_reducible assumption) ?_)
    | (refine Frame.sub_all hL (by first | decide | (simp only [List.map_cons, List.map_nil]; decide)))
    | (refine Frame.bitMemFst (by with_reducible assumption) ?_)
    | (with_reducible apply Frame.emit)
    | (with_reducible apply Frame.releaseTerm)
    | (with_reducible apply Frame.whileActive)
    | (with_reducible apply Frame.ploamNormal)
    | (with_reducible apply Frame.ploamTo)
    | (with_reducible apply Frame.stopTerm)
    | (with_reducible apply Frame.ploamUrgent)
    | (with_reducible apply Frame.quenchOne)
    | decide

/-- What `State.sendRanging` may write: register fields by number, memory at 1000. -/
def W.sendRanging : Nat := 0x0

theorem Frame.sendRanging {M : Nat} {s0 s : State} {t : Nat} {k : Nat} (hk0 : Frame M s0 s)
    (_hL : W.sendRanging &&& M = W.sendRanging) : Frame M s0 (State.sendRanging s t k) := by
  unfold State.sendRanging
  try dsimp only
  repeat' first
    | (with_reducible assumption)
    | (split)
    | (with_reducible refine Frame.foldl ?_ ?_)
    | (exact Nat.zero_and _)
    | (intro u hu x hx)
    | (intro u hu)
    | (refine Frame.bitMem (by with_reducible assumption) ?_)
    | (refine Frame.bitMemFst (by with_reducible assumption) ?_)
    | (with_reducible apply Frame.emit)
    | (with_reducible apply Frame.ploamTo)
    | decide

/-- What `State.setTel` may write: register fields by number, memory at 1000. -/
def W.setTel : Nat := 0x800000000000000000000000000000000000000000000000000000000000000000000000000000000000000000000000000000000000000000000000000

theorem Frame.setTel {M : Nat} {s0 s : State} {t : Nat} {l : List (List Byte)} (hk0 : Frame M s0 s)
    (hL : W.setTel &&& M = W.setTel) : Frame M s0 (State.setTel s t l) := by
  unfold State.setTel
  try dsimp only
  repeat' first
    | (with_reducible assumption)
    | (split)
    | (with_reducible refine Frame.foldl ?_ ?_)
    | (exact Nat.zero_and _)
    | (exact Frame.sub hL (by decide))
    | (exact Frame.bitOf hL (by decide))
    | (intro u hu x hx)
    | (intro u hu)
    | (refine Frame.bitMem (by with_reducible assumption) ?_)
    | (refine Frame.sub_all hL (by first | decide | (simp only [List.map_cons, List.map_nil]; decide)))
    | (refine Frame.bitMemFst (by with_reducible assumption) ?_)
    | (with_reducible refine Frame.wr ?_ ?_)
    | (with_reducible apply Frame.emit)
    | (with_reducible refine Frame.mk_other ?_)
    | decide

/-- What `State.telRecord` may write: register fields by number, memory at 1000. -/
def W.telRecord : Nat := 0x1800000000000000000000000000000000000000000000000000000000000000000000000000000000000000000000000000000000000000000000000000

theorem Frame.telRecord {M : Nat} {s0 s : State} {t : Nat} {e : Expected} {seen : Option BurstSeen} (hk0 : Frame M s0 s)
    (hL : W.telRecord &&& M = W.telRecord) : Frame M s0 (State.telRecord s t e seen) := by
  unfold State.telRecord
  try dsimp only
  repeat' first
    | (with_reducible assumption)
    | (split)
    | (with_reducible refine Frame.foldl ?_ ?_)
    | (exact Nat.zero_and _)
    | (exact Frame.sub hL (by decide))
    | (exact Frame.bitOf hL (by decide))
    | (intro u hu x hx)
    | (intro u hu)
    | (refine Frame.bitMem (by with_reducible assumption) ?_)
    | (refine Frame.sub_all hL (by first | decide | (simp only [List.map_cons, List.map_nil]; decide)))
    | (refine Frame.bitMemFst (by with_reducible assumption) ?_)
    | (with_reducible apply Frame.emit)
    | (with_reducible apply Frame.incSat)
    | (with_reducible apply Frame.setTel)
    | decide

/-- What `State.passOn` may write: register fields by number, memory at 1000. -/
def W.passOn : Nat := 0x0

theorem Frame.passOn {M : Nat} {s0 s : State} {t : Nat} {a : Nat} {r : Reasm} {bytes : List Byte} {trunc : Bool} {bad : Bool} (hk0 : Frame M s0 s)
    (_hL : W.passOn &&& M = W.passOn) : Frame M s0 (State.passOn s t a r bytes trunc bad) := by
  unfold State.passOn
  try dsimp only
  repeat' first
    | (with_reducible assumption)
    | (split)
    | (with_reducible refine Frame.foldl ?_ ?_)
    | (exact Nat.zero_and _)
    | (intro u hu x hx)
    | (intro u hu)
    | (refine Frame.bitMem (by with_reducible assumption) ?_)
    | (refine Frame.bitMemFst (by with_reducible assumption) ?_)
    | (with_reducible apply Frame.emit)
    | (with_reducible apply Frame.addFrames)
    | (with_reducible apply Frame.bwAdd)
    | (with_reducible apply Frame.putBuf)
    | (with_reducible refine Frame.mk_other ?_)
    | decide

/-- What `State.endReasm` may write: register fields by number, memory at 1000. -/
def W.endReasm : Nat := 0x100000000000000000000000000000000000000000000000000000000000000000000000000000000000000000000000000000000000000000000000c000000000002180000000000000000000000000000000000000000000000007240335aa00000000000000000001c00000000000000000000000000000000000000

theorem Frame.endReasm {M : Nat} {s0 s : State} {t : Nat} {a : Nat} {r : Reasm} (hk0 : Frame M s0 s)
    (hL : W.endReasm &&& M = W.endReasm) : Frame M s0 (State.endReasm s t a r) := by
  unfold State.endReasm
  try dsimp only
  repeat' first
    | (with_reducible assumption)
    | (split)
    | (with_reducible refine Frame.foldl ?_ ?_)
    | (exact Nat.zero_and _)
    | (exact Frame.sub hL (by decide))
    | (exact Frame.bitOf hL (by decide))
    | (intro u hu x hx)
    | (intro u hu)
    | (refine Frame.bitMem (by with_reducible assumption) ?_)
    | (refine Frame.sub_all hL (by first | decide | (simp only [List.map_cons, List.map_nil]; decide)))
    | (refine Frame.bitMemFst (by with_reducible assumption) ?_)
    | (with_reducible apply Frame.emit)
    | (with_reducible apply Frame.putReasms)
    | (with_reducible apply Frame.blockEvent)
    | (with_reducible apply Frame.freeCells)
    | (with_reducible apply Frame.rxOffer)
    | (with_reducible apply Frame.incSat)
    | (with_reducible apply Frame.addCnt)
    | (with_reducible apply Frame.bittern)
    | (with_reducible apply Frame.passOn)
    | (with_reducible refine Frame.fst ?_ (by with_reducible assumption))
    | (with_reducible refine Frame.snd ?_ (by with_reducible assumption))
    | (with_reducible refine Frame.mk_other ?_)
    | decide

/-- What `State.keyMiss` may write: register fields by number, memory at 1000. -/
def W.keyMiss : Nat := 0x8000000000000000000000000000000000000000

theorem Frame.keyMiss {M : Nat} {s0 s : State} {t : Nat} {a : Nat} {port : Nat} {last : Bool} (hk0 : Frame M s0 s)
    (hL : W.keyMiss &&& M = W.keyMiss) : Frame M s0 (State.keyMiss s t a port last) := by
  unfold State.keyMiss
  try dsimp only
  repeat' first
    | (with_reducible assumption)
    | (split)
    | (with_reducible refine Frame.foldl ?_ ?_)
    | (exact Nat.zero_and _)
    | (exact Frame.sub hL (by decide))
    | (exact Frame.bitOf hL (by decide))
    | (intro u hu x hx)
    | (intro u hu)
    | (refine Frame.bitMem (by with_reducible assumption) ?_)
    | (refine Frame.sub_all hL (by first | decide | (simp only [List.map_cons, List.map_nil]; decide)))
    | (refine Frame.bitMemFst (by with_reducible assumption) ?_)
    | (with_reducible apply Frame.emit)
    | (with_reducible apply Frame.incSat)
    | (with_reducible apply Frame.setTreeU)
    | (with_reducible refine Frame.mk_other ?_)
    | decide

/-- What `State.addFragment` may write: register fields by number, memory at 1000. -/
def W.addFragment : Nat := 0x100000000000000000000000000000000000000000000000000000000000000000000000000000000000000000000000000000000000000000000000c000000000002180000000000000000000000000000000000000000000000007240335aa00000000000000000401c00000000000000000000000000000000000000

theorem Frame.addFragment {M : Nat} {s0 s : State} {t : Nat} {a : Nat} {r : Reasm} {g : FragSeen} (hk0 : Frame M s0 s)
    (hL : W.addFragment &&& M = W.addFragment) : Frame M s0 (State.addFragment s t a r g) := by
  unfold State.addFragment
  try dsimp only
  repeat' first
    | (with_reducible assumption)
    | (split)
    | (with_reducible refine Frame.foldl ?_ ?_)
    | (exact Nat.zero_and _)
    | (exact Frame.sub hL (by decide))
    | (exact Frame.bitOf hL (by decide))
    | (intro u hu x hx)
    | (intro u hu)
    | (refine Frame.bitMem (by with_reducible assumption) ?_)
    | (refine Frame.sub_all hL (by first | decide | (simp only [List.map_cons, List.map_nil]; decide)))
    | (refine Frame.bitMemFst (by with_reducible assumption) ?_)
    | (with_reducible apply Frame.emit)
    | (with_reducible apply Frame.take)
    | (with_reducible refine Frame.growCells ?_ (by with_reducible assumption) ?_)
    | (with_reducible apply Frame.putReasms)
    | (with_reducible apply Frame.freeCells)
    | (with_reducible apply Frame.incSat)
    | (with_reducible apply Frame.endReasm)
    | (with_reducible refine Frame.fst ?_ (by with_reducible assumption))
    | (with_reducible refine Frame.snd ?_ (by with_reducible assumption))
    | (with_reducible refine Frame.mk_other ?_)
    | decide

/-- What `State.openReasm` may write: register fields by number, memory at 1000. -/
def W.openReasm : Nat := 0x100000000000000000000000000000000000000000000000000000000000000000000000000000000000000000000000000000000000000000000000c000000000002180000000000000000000000000000000000000000000000007240335aa00000000000000000409c00000000000000000000000000000000000000

theorem Frame.openReasm {M : Nat} {s0 s : State} {t : Nat} {a : Nat} {k : Nat} {usEnc : Bool} {g : FragSeen} (hk0 : Frame M s0 s)
    (hL : W.openReasm &&& M = W.openReasm) : Frame M s0 (State.openReasm s t a k usEnc g) := by
  unfold State.openReasm
  try dsimp only
  repeat' first
    | (with_reducible assumption)
    | (split)
    | (with_reducible refine Frame.foldl ?_ ?_)
    | (exact Nat.zero_and _)
    | (exact Frame.sub hL (by decide))
    | (exact Frame.bitOf hL (by decide))
    | (intro u hu x hx)
    | (intro u hu)
    | (refine Frame.bitMem (by with_reducible assumption) ?_)
    | (refine Frame.sub_all hL (by first | decide | (simp only [List.map_cons, List.map_nil]; decide)))
    | (refine Frame.bitMemFst (by with_reducible assumption) ?_)
    | (with_reducible apply Frame.emit)
    | (with_reducible apply Frame.keyMiss)
    | (with_reducible refine Frame.takeCells ?_ (by with_reducible assumption) ?_)
    | (with_reducible apply Frame.incSat)
    | (with_reducible apply Frame.addFragment)
    | (with_reducible refine Frame.fst ?_ (by with_reducible assumption))
    | (with_reducible refine Frame.snd ?_ (by with_reducible assumption))
    | (with_reducible refine Frame.mk_other ?_)
    | decide

/-- What `State.fragment` may write: register fields by number, memory at 1000. -/
def W.fragment : Nat := 0x100000000000000000000000000000000000000000000000000000000000000000000000000000000000000000000000000000000000000000000000c000000000002180000000000000000000000000000000000000000000000007240335aa0000000000000000040dc00000000000000000000000000000000000000

theorem Frame.fragment {M : Nat} {s0 s : State} {t : Nat} {a : Nat} {k : Nat} {g : FragSeen} (hk0 : Frame M s0 s)
    (hL : W.fragment &&& M = W.fragment) : Frame M s0 (State.fragment s t a k g) := by
  unfold State.fragment
  try dsimp only
  repeat' first
    | (with_reducible assumption)
    | (split)
    | (with_reducible refine Frame.foldl ?_ ?_)
    | (exact Nat.zero_and _)
    | (exact Frame.sub hL (by decide))
    | (exact Frame.bitOf hL (by decide))
    | (intro u hu x hx)
    | (intro u hu)
    | (refine Frame.bitMem (by with_reducible assumption) ?_)
    | (refine Frame.sub_all hL (by first | decide | (simp only [List.map_cons, List.map_nil]; decide)))
    | (refine Frame.bitMemFst (by with_reducible assumption) ?_)
    | (with_reducible apply Frame.emit)
    | (with_reducible apply Frame.dropReasm)
    | (with_reducible apply Frame.putReasms)
    | (with_reducible apply Frame.freeCells)
    | (with_reducible apply Frame.keyMiss)
    | (with_reducible apply Frame.addFragment)
    | (with_reducible apply Frame.setTreeU)
    | (with_reducible apply Frame.openReasm)
    | (with_reducible apply Frame.incSat)
    | (with_reducible refine Frame.fst ?_ (by with_reducible assumption))
    | (with_reducible refine Frame.snd ?_ (by with_reducible assumption))
    | (with_reducible refine Frame.mk_other ?_)
    | decide

/-- What `State.portion` may write: register fields by number, memory at 1000. -/
def W.portion : Nat := 0x100000000000000000000000000000000000000000000000000000000000000000000000000000000000000000000000000000000000000000000000c000000000002180000000000000000000000000000000000000000000000007240335aa0000000000000000060fc00000000000000000000000000000000000000

theorem Frame.portion {M : Nat} {s0 s : State} {t : Nat} {e : Expected} {g : Grant} {x : AllocSeen} (hk0 : Frame M s0 s)
    (hL : W.portion &&& M = W.portion) : Frame M s0 (State.portion s t e g x) := by
  unfold State.portion
  try dsimp only
  repeat' first
    | (with_reducible assumption)
    | (split)
    | (with_reducible refine Frame.foldl ?_ ?_)
    | (exact Nat.zero_and _)
    | (exact Frame.sub hL (by decide))
    | (exact Frame.bitOf hL (by decide))
    | (intro u hu x hx)
    | (intro u hu)
    | (refine Frame.bitMem (by with_reducible assumption) ?_)
    | (refine Frame.sub_all hL (by first | decide | (simp only [List.map_cons, List.map_nil]; decide)))
    | (refine Frame.bitMemFst (by with_reducible assumption) ?_)
    | (with_reducible apply Frame.emit)
    | (with_reducible apply Frame.postReport)
    | (with_reducible apply Frame.incSat)
    | (with_reducible apply Frame.fragment)
    | (with_reducible apply Frame.dropReasm)
    | decide

/-- What `State.takeDrift` may write: register fields by number, memory at 1000. -/
def W.takeDrift : Nat := 0xc0000000000020000000000000000000000000000000000000000000000000072000000000000000000000000000001000000000000000000000000000000000000

theorem Frame.takeDrift {M : Nat} {s0 s : State} {t : Nat} {k : Nat} {d : Int} (hk0 : Frame M s0 s)
    (hL : W.takeDrift &&& M = W.takeDrift) : Frame M s0 (State.takeDrift s t k d) := by
  unfold State.takeDrift
  try dsimp only
  repeat' first
    | (with_reducible assumption)
    | (split)
    | (with_reducible refine Frame.foldl ?_ ?_)
    | (exact Nat.zero_and _)
    | (exact Frame.sub hL (by decide))
    | (exact Frame.bitOf hL (by decide))
    | (intro u hu x hx)
    | (intro u hu)
    | (refine Frame.bitMem (by with_reducible assumption) ?_)
    | (refine Frame.sub_all hL (by first | decide | (simp only [List.map_cons, List.map_nil]; decide)))
    | (refine Frame.bitMemFst (by with_reducible assumption) ?_)
    | (with_reducible apply Frame.emit)
    | (with_reducible apply Frame.setTerm)
    | (with_reducible apply Frame.sendRanging)
    | (with_reducible apply Frame.treUsEvent)
    | (with_reducible refine Frame.mk_other ?_)
    | decide

/-- What `State.missBurst` may write: register fields by number, memory at 1000. -/
def W.missBurst : Nat := 0xc0000000000020000000000000000000000000000000000000000000000000072000000000000000000000000040000000000000000000000000000000000000000

theorem Frame.missBurst {M : Nat} {s0 s : State} {t : Nat} {k : Nat} (hk0 : Frame M s0 s)
    (hL : W.missBurst &&& M = W.missBurst) : Frame M s0 (State.missBurst s t k) := by
  unfold State.missBurst
  try dsimp only
  repeat' first
    | (with_reducible assumption)
    | (split)
    | (with_reducible refine Frame.foldl ?_ ?_)
    | (exact Nat.zero_and _)
    | (exact Frame.sub hL (by decide))
    | (exact Frame.bitOf hL (by decide))
    | (intro u hu x hx)
    | (intro u hu)
    | (refine Frame.bitMem (by with_reducible assumption) ?_)
    | (refine Frame.sub_all hL (by first | decide | (simp only [List.map_cons, List.map_nil]; decide)))
    | (refine Frame.bitMemFst (by with_reducible assumption) ?_)
    | (with_reducible apply Frame.emit)
    | (with_reducible apply Frame.setTerm)
    | (with_reducible apply Frame.incSat)
    | (with_reducible apply Frame.addCnt)
    | (with_reducible apply Frame.blockEvent)
    | (with_reducible refine Frame.mk_other ?_)
    | decide

/-- What `State.gotBurst` may write: register fields by number, memory at 1000. -/
def W.gotBurst : Nat := 0x100000000000000000000000000000000000000000000000000000000000000000000000000000000000000000000000000000000000000000000000c000000000002180000000000000000000000000000000000000000000000007240335aa0000000000000000060fc01100000000002000000000000000000000000

theorem Frame.gotBurst {M : Nat} {s0 s : State} {t : Nat} {e : Expected} {b : BurstSeen} (hk0 : Frame M s0 s)
    (hL : W.gotBurst &&& M = W.gotBurst) : Frame M s0 (State.gotBurst s t e b) := by
  unfold State.gotBurst
  try dsimp only
  repeat' first
    | (with_reducible assumption)
    | (split)
    | (with_reducible refine Frame.foldl ?_ ?_)
    | (exact Nat.zero_and _)
    | (exact Frame.sub hL (by decide))
    | (exact Frame.bitOf hL (by decide))
    | (intro u hu x hx)
    | (intro u hu)
    | (refine Frame.bitMem (by with_reducible assumption) ?_)
    | (refine Frame.sub_all hL (by first | decide | (simp only [List.map_cons, List.map_nil]; decide)))
    | (refine Frame.bitMemFst (by with_reducible assumption) ?_)
    | (with_reducible apply Frame.emit)
    | (with_reducible apply Frame.setTerm)
    | (with_reducible apply Frame.termState)
    | (with_reducible apply Frame.addCnt)
    | (with_reducible apply Frame.blockEvent)
    | (with_reducible apply Frame.portion)
    | (with_reducible apply Frame.takeDrift)
    | (with_reducible refine Frame.mk_other ?_)
    | decide

/-- What `State.evidence` may write: register fields by number, memory at 1000. -/
def W.evidence : Nat := 0x0

theorem Frame.evidence {M : Nat} {s0 s : State} {t : Nat} {k : Nat} (hk0 : Frame M s0 s)
    (_hL : W.evidence &&& M = W.evidence) : Frame M s0 (State.evidence s t k) := by
  unfold State.evidence
  try dsimp only
  repeat' first
    | (with_reducible assumption)
    | (split)
    | (with_reducible refine Frame.foldl ?_ ?_)
    | (exact Nat.zero_and _)
    | (intro u hu x hx)
    | (intro u hu)
    | (refine Frame.bitMem (by with_reducible assumption) ?_)
    | (refine Frame.bitMemFst (by with_reducible assumption) ?_)
    | (with_reducible apply Frame.emit)
    | (with_reducible apply Frame.setTerm)
    | (with_reducible refine Frame.mk_other ?_)
    | decide

/-- What `State.lobFrame` may write: register fields by number, memory at 1000. -/
def W.lobFrame : Nat := 0x0

theorem Frame.lobFrame {M : Nat} {s0 s : State} {t : Nat} {k : Nat} (hk0 : Frame M s0 s)
    (_hL : W.lobFrame &&& M = W.lobFrame) : Frame M s0 (State.lobFrame s t k) := by
  unfold State.lobFrame
  try dsimp only
  repeat' first
    | (with_reducible assumption)
    | (split)
    | (with_reducible refine Frame.foldl ?_ ?_)
    | (exact Nat.zero_and _)
    | (intro u hu x hx)
    | (intro u hu)
    | (refine Frame.bitMem (by with_reducible assumption) ?_)
    | (refine Frame.bitMemFst (by with_reducible assumption) ?_)
    | (with_reducible apply Frame.emit)
    | (with_reducible apply Frame.setTerm)
    | (with_reducible refine Frame.mk_other ?_)
    | decide

/-- What `State.listenBurst` may write: register fields by number, memory at 1000. -/
def W.listenBurst : Nat := 0xc0000000000020000000000000000000000000000000000000000000000000072000000000000000000000000040001000000000000000000000000000000000000

theorem Frame.listenBurst {M : Nat} {s0 s : State} {t : Nat} {e : Expected} {seen : Option BurstSeen} (hk0 : Frame M s0 s)
    (hL : W.listenBurst &&& M = W.listenBurst) : Frame M s0 (State.listenBurst s t e seen) := by
  unfold State.listenBurst
  try dsimp only
  repeat' first
    | (with_reducible assumption)
    | (split)
    | (with_reducible refine Frame.foldl ?_ ?_)
    | (exact Nat.zero_and _)
    | (exact Frame.sub hL (by decide))
    | (exact Frame.bitOf hL (by decide))
    | (intro u hu x hx)
    | (intro u hu)
    | (refine Frame.bitMem (by with_reducible assumption) ?_)
    | (refine Frame.sub_all hL (by first | decide | (simp only [List.map_cons, List.map_nil]; decide)))
    | (refine Frame.bitMemFst (by with_reducible assumption) ?_)
    | (with_reducible apply Frame.emit)
    | (with_reducible apply Frame.incSat)
    | (with_reducible apply Frame.addCnt)
    | (with_reducible apply Frame.blockEvent)
    | (with_reducible apply Frame.setProt)
    | (with_reducible apply Frame.setTreeU)
    | (with_reducible apply Frame.treUsEvent)
    | (with_reducible refine Frame.fst ?_ (by with_reducible assumption))
    | (with_reducible refine Frame.snd ?_ (by with_reducible assumption))
    | (with_reducible refine Frame.mk_other ?_)
    | decide

/-- What `State.protCount` may write: register fields by number, memory at 1000. -/
def W.protCount : Nat := 0x0

theorem Frame.protCount {M : Nat} {s0 s : State} {t : Nat} {fr : Int} {found : Bool} (hk0 : Frame M s0 s)
    (_hL : W.protCount &&& M = W.protCount) : Frame M s0 (State.protCount s t fr found) := by
  unfold State.protCount
  try dsimp only
  repeat' first
    | (with_reducible assumption)
    | (split)
    | (with_reducible refine Frame.foldl ?_ ?_)
    | (exact Nat.zero_and _)
    | (intro u hu x hx)
    | (intro u hu)
    | (refine Frame.bitMem (by with_reducible assumption) ?_)
    | (refine Frame.bitMemFst (by with_reducible assumption) ?_)
    | (with_reducible apply Frame.emit)
    | (with_reducible apply Frame.setProt)
    | (with_reducible refine Frame.mk_other ?_)
    | decide

end Sys2Proof.Machine
end

