-- ==== Sys2Proof/Laws/FrameTreeUp.lean ====
section
/-! SUPPORT. Which registers, and whether the memories, the operations of TreeUp may write (Laws/Frame.lean). -/

namespace Sys2Proof.Machine

set_option Elab.async false
set_option linter.all false

/-- What `State.burstProfile` may write: register fields by number, memory at 1000. -/
def W.burstProfile : Nat := 0x0

theorem Frame.burstProfile {M : Nat} {s0 s : State} {p : List Byte} (hk0 : Frame M s0 s)
    (_hL : W.burstProfile &&& M = W.burstProfile) : Frame M s0 (State.burstProfile s p).1 := by
  unfold State.burstProfile
  try dsimp only
  repeat' first
    | (with_reducible assumption)
    | (split)
    | (with_reducible refine Frame.foldl ?_ ?_)
    | (exact Nat.zero_and _)
    | (intro u hu x hx)
    | (intro u hu)
    | (refine Frame.bitMem (by with_reducible assumption) ?_)
    | (refine Frame.bitMemFst (by with_reducible assumption) ?_)
    | (with_reducible apply Frame.emit)
    | (with_reducible apply Frame.putBprofs)
    | (with_reducible apply Frame.ploamNormal)
    | (with_reducible refine Frame.fst ?_ (by with_reducible assumption))
    | (with_reducible refine Frame.snd ?_ (by with_reducible assumption))
    | (with_reducible refine Frame.mk_other ?_)
    | decide

/-- What `State.terminalAdd` may write: register fields by number, memory at 1000. -/
def W.terminalAdd : Nat := 0xc0000000000020000000000000000000000000000000000000000000000000072000000000000000000000000000000100000000002000000000000000000000000

theorem Frame.terminalAdd {M : Nat} {s0 s : State} {p : List Byte} (hk0 : Frame M s0 s)
    (hL : W.terminalAdd &&& M = W.terminalAdd) : Frame M s0 (State.terminalAdd s p).1 := by
  unfold State.terminalAdd
  try dsimp only
  repeat' first
    | (with_reducible assumption)
    | (split)
    | (with_reducible refine Frame.foldl ?_ ?_)
    | (exact Nat.zero_and _)
    | (exact Frame.sub hL (by decide))
    | (exact Frame.bitOf hL (by decide))
    | (intro u hu x hx)
    | (intro u hu)
    | (refine Frame.bitMem (by with_reducible assumption) ?_)
    | (refine Frame.sub_all hL (by first | decide | (simp only [List.map_cons, List.map_nil]; decide)))
    | (refine Frame.bitMemFst (by with_reducible assumption) ?_)
    | (with_reducible apply Frame.emit)
    | (with_reducible apply Frame.setTerm)
    | (with_reducible apply Frame.termState)
    | (with_reducible apply Frame.putAllocs)
    | (with_reducible refine Frame.fst ?_ (by with_reducible assumption))
    | (with_reducible refine Frame.snd ?_ (by with_reducible assumption))
    | (with_reducible refine Frame.mk_other ?_)
    | decide

/-- What `State.terminalSet` may write: register fields by number, memory at 1000. -/
def W.terminalSet : Nat := 0x0

theorem Frame.terminalSet {M : Nat} {s0 s : State} {p : List Byte} (hk0 : Frame M s0 s)
    (_hL : W.terminalSet &&& M = W.terminalSet) : Frame M s0 (State.terminalSet s p).1 := by
  unfold State.terminalSet
  try dsimp only
  repeat' first
    | (with_reducible assumption)
    | (split)
    | (with_reducible refine Frame.foldl ?_ ?_)
    | (exact Nat.zero_and _)
    | (intro u hu x hx)
    | (intro u hu)
    | (refine Frame.bitMem (by with_reducible assumption) ?_)
    | (refine Frame.bitMemFst (by with_reducible assumption) ?_)
    | (with_reducible apply Frame.emit)
    | (with_reducible apply Frame.setSlot)
    | (with_reducible apply Frame.setTerm)
    | (with_reducible refine Frame.fst ?_ (by with_reducible assumption))
    | (with_reducible refine Frame.snd ?_ (by with_reducible assumption))
    | (with_reducible refine Frame.mk_other ?_)
    | decide

/-- What `State.stripTerm` may write: register fields by number, memory at 1000. -/
def W.stripTerm : Nat := 0x100000000000000000000000000000000000000000000000000000000000000000000000000000000000000000000000000000000000000000000000c0000000000020000000007300000400000000000000000000000000000000072401202800000000801000000004000000001000000000000000000000000000000

theorem Frame.stripTerm {M : Nat} {s0 s : State} {t : Nat} {k : Nat} (hk0 : Frame M s0 s)
    (hL : W.stripTerm &&& M = W.stripTerm) : Frame M s0 (State.stripTerm s t k) := by
  unfold State.stripTerm
  try dsimp only
  repeat' first
    | (with_reducible assumption)
    | (split)
    | (with_reducible refine Frame.foldl ?_ ?_)
    | (exact Nat.zero_and _)
    | (exact Frame.sub hL (by decide))
    | (exact Frame.bitOf hL (by decide))
    | (intro u hu x hx)
    | (intro u hu)
    | (refine Frame.bitMem (by with_reducible assumption) ?_)
    | (refine Frame.sub_all hL (by first | decide | (simp only [List.map_cons, List.map_nil]; decide)))
    | (refine Frame.bitMemFst (by with_reducible assumption) ?_)
    | (with_reducible apply Frame.emit)
    | (with_reducible apply Frame.setTerm)
    | (with_reducible apply Frame.settled)
    | (with_reducible apply Frame.dropRanging)
    | (with_reducible apply Frame.dropReasm)
    | (with_reducible apply Frame.incSat)
    | (with_reducible apply Frame.dropStaged)
    | (with_reducible apply Frame.flushQueues)
    | (with_reducible apply Frame.putFlows)
    | (with_reducible apply Frame.putAllocs)
    | (with_reducible apply Frame.forgetAlloc)
    | (with_reducible apply Frame.setCommit)
    | (with_reducible apply Frame.countForecasts)
    | (with_reducible refine Frame.mk_other ?_)
    | decide

/-- What `State.terminalRemove` may write: register fields by number, memory at 1000. -/
def W.terminalRemove : Nat := 0x100000000000000000000000000000000000000000000000000000000000000000000000000000000000000000000000000000000000000000000000c0000000000020000000007300000400000000000000000000000000000000072401202800000000801000000014000100005020402000000000000000000000000

theorem Frame.terminalRemove {M : Nat} {s0 s : State} {p : List Byte} (hk0 : Frame M s0 s)
    (hL : W.terminalRemove &&& M = W.terminalRemove) : Frame M s0 (State.terminalRemove s p).1 := by
  unfold State.terminalRemove
  try dsimp only
  repeat' first
    | (with_reducible assumption)
    | (split)
    | (with_reducible refine Frame.foldl ?_ ?_)
    | (exact Nat.zero_and _)
    | (exact Frame.sub hL (by decide))
    | (exact Frame.bitOf hL (by decide))
    | (intro u hu x hx)
    | (intro u hu)
    | (refine Frame.bitMem (by with_reducible assumption) ?_)
    | (refine Frame.sub_all hL (by first | decide | (simp only [List.map_cons, List.map_nil]; decide)))
    | (refine Frame.bitMemFst (by with_reducible assumption) ?_)
    | (with_reducible apply Frame.emit)
    | (with_reducible apply Frame.stripTerm)
    | (with_reducible apply Frame.eraseSlot)
    | (with_reducible apply Frame.unbindSlot)
    | (with_reducible apply Frame.setTerm)
    | (with_reducible apply Frame.ploamNormal)
    | (with_reducible apply Frame.deregister)
    | (with_reducible apply Frame.recordUnused)
    | (with_reducible refine Frame.fst ?_ (by with_reducible assumption))
    | (with_reducible refine Frame.snd ?_ (by with_reducible assumption))
    | (with_reducible refine Frame.mk_other ?_)
    | decide

/-- What `State.terminalStatus` may write: register fields by number, memory at 1000. -/
def W.terminalStatus : Nat := 0x0

theorem Frame.terminalStatus {M : Nat} {s0 s : State} {p : List Byte} (hk0 : Frame M s0 s)
    (_hL : W.terminalStatus &&& M = W.terminalStatus) : Frame M s0 (State.terminalStatus s p).1 := by
  unfold State.terminalStatus
  try dsimp only
  repeat' first
    | (with_reducible assumption)
    | (split)
    | (with_reducible refine Frame.foldl ?_ ?_)
    | (exact Nat.zero_and _)
    | (intro u hu x hx)
    | (intro u hu)
    | (refine Frame.bitMem (by with_reducible assumption) ?_)
    | (refine Frame.bitMemFst (by with_reducible assumption) ?_)
    | (with_reducible apply Frame.emit)
    | (with_reducible refine Frame.fst ?_ (by with_reducible assumption))
    | (with_reducible refine Frame.snd ?_ (by with_reducible assumption))
    | (with_reducible refine Frame.mk_other ?_)
    | decide

/-- What `State.flowSet` may write: register fields by number, memory at 1000. -/
def W.flowSet : Nat := 0x4000000000000000000000000000000000000000

theorem Frame.flowSet {M : Nat} {s0 s : State} {p : List Byte} (hk0 : Frame M s0 s)
    (hL : W.flowSet &&& M = W.flowSet) : Frame M s0 (State.flowSet s p).1 := by
  unfold State.flowSet
  try dsimp only
  repeat' first
    | (with_reducible assumption)
    | (split)
    | (with_reducible refine Frame.foldl ?_ ?_)
    | (exact Nat.zero_and _)
    | (exact Frame.sub hL (by decide))
    | (exact Frame.bitOf hL (by decide))
    | (intro u hu x hx)
    | (intro u hu)
    | (refine Frame.bitMem (by with_reducible assumption) ?_)
    | (refine Frame.sub_all hL (by first | decide | (simp only [List.map_cons, List.map_nil]; decide)))
    | (refine Frame.bitMemFst (by with_reducible assumption) ?_)
    | (with_reducible apply Frame.emit)
    | (with_reducible apply Frame.putFlows)
    | (with_reducible apply Frame.dropReasm)
    | (with_reducible refine Frame.fst ?_ (by with_reducible assumption))
    | (with_reducible refine Frame.snd ?_ (by with_reducible assumption))
    | (with_reducible refine Frame.mk_other ?_)
    | decide

/-- What `State.quench` may write: register fields by number, memory at 1000. -/
def W.quench : Nat := 0xc0000000000020000000007300000400000000020010000000000000000000072000000000000000000000000000000100000000002000000000000000000000000

theorem Frame.quench {M : Nat} {s0 s : State} {src : Src} {p : List Byte} (hk0 : Frame M s0 s)
    (hL : W.quench &&& M = W.quench) : Frame M s0 (State.quench s src p).1 := by
  unfold State.quench
  try dsimp only
  repeat' first
    | (with_reducible assumption)
    | (split)
    | (with_reducible refine Frame.foldl ?_ ?_)
    | (exact Nat.zero_and _)
    | (exact Frame.sub hL (by decide))
    | (exact Frame.bitOf hL (by decide))
    | (intro u hu x hx)
    | (intro u hu)
    | (refine Frame.bitMem (by with_reducible assumption) ?_)
    | (refine Frame.sub_all hL (by first | decide | (simp only [List.map_cons, List.map_nil]; decide)))
    | (refine Frame.bitMemFst (by with_reducible assumption) ?_)
    | (with_reducible apply Frame.emit)
    | (with_reducible apply Frame.setProt)
    | (with_reducible apply Frame.protMsg)
    | (with_reducible apply Frame.applyQuench)
    | (with_reducible refine Frame.fst ?_ (by with_reducible assumption))
    | (with_reducible refine Frame.snd ?_ (by with_reducible assumption))
    | (with_reducible refine Frame.mk_other ?_)
    | decide

/-- What `State.writeSnInfo` may write: register fields by number, memory at 1000. -/
def W.writeSnInfo : Nat := 0x100000000000000000000000000000000000000

theorem Frame.writeSnInfo {M : Nat} {s0 s : State} {t : Nat} {v : Nat} (hk0 : Frame M s0 s)
    (hL : W.writeSnInfo &&& M = W.writeSnInfo) : Frame M s0 (State.writeSnInfo s t v) := by
  unfold State.writeSnInfo
  try dsimp only
  repeat' first
    | (with_reducible assumption)
    | (split)
    | (with_reducible refine Frame.foldl ?_ ?_)
    | (exact Nat.zero_and _)
    | (exact Frame.sub hL (by decide))
    | (exact Frame.bitOf hL (by decide))
    | (intro u hu x hx)
    | (intro u hu)
    | (refine Frame.bitMem (by with_reducible assumption) ?_)
    | (refine Frame.sub_all hL (by first | decide | (simp only [List.map_cons, List.map_nil]; decide)))
    | (refine Frame.bitMemFst (by with_reducible assumption) ?_)
    | (with_reducible apply Frame.emit)
    | (with_reducible apply Frame.writeFields)
    | (with_reducible apply Frame.setTreeU)
    | (with_reducible refine Frame.mk_other ?_)
    | decide

/-- What `State.afterHunt` may write: register fields by number, memory at 1000. -/
def W.afterHunt : Nat := 0xc00000000000200000000000000000d94707c00200100000000000000000000720000000000000000000000000000000000000c2000200000000000000000000000

theorem Frame.afterHunt {M : Nat} {s0 s : State} {t : Nat} {e : Expected} (hk0 : Frame M s0 s)
    (hL : W.afterHunt &&& M = W.afterHunt) : Frame M s0 (State.afterHunt s t e) := by
  unfold State.afterHunt
  try dsimp only
  repeat' first
    | (with_reducible assumption)
    | (split)
    | (with_reducible refine Frame.foldl ?_ ?_)
    | (exact Nat.zero_and _)
    | (exact Frame.sub hL (by decide))
    | (exact Frame.bitOf hL (by decide))
    | (intro u hu x hx)
    | (intro u hu)
    | (refine Frame.bitMem (by with_reducible assumption) ?_)
    | (refine Frame.sub_all hL (by first | decide | (simp only [List.map_cons, List.map_nil]; decide)))
    | (refine Frame.bitMemFst (by with_reducible assumption) ?_)
    | (with_reducible apply Frame.emit)
    | (with_reducible apply Frame.lobFrame)
    | (with_reducible apply Frame.usFrameEnd)
    | (with_reducible apply Frame.setTreeU)
    | (with_reducible refine Frame.mk_other ?_)
    | decide

/-- What `State.deregister` may write: register fields by number, memory at 1000. -/
def W.deregister : Nat := 0xc0000000000020000000007300000400000000000000000000000000000000072000000000000000000000000000000100000000002000000000000000000000000

theorem Frame.deregister {M : Nat} {s0 s : State} {t : Nat} {k : Nat} (hk0 : Frame M s0 s)
    (hL : W.deregister &&& M = W.deregister) : Frame M s0 (State.deregister s t k) := by
  unfold State.deregister
  try dsimp only
  repeat' first
    | (with_reducible assumption)
    | (split)
    | (with_reducible refine Frame.foldl ?_ ?_)
    | (exact Nat.zero_and _)
    | (exact Frame.sub hL (by decide))
    | (exact Frame.bitOf hL (by decide))
    | (intro u hu x hx)
    | (intro u hu)
    | (refine Frame.bitMem (by with_reducible assumption) ?_)
    | (refine Frame.sub_all hL (by first | decide | (simp only [List.map_cons, List.map_nil]; decide)))
    | (refine Frame.bitMemFst (by with_reducible assumption) ?_)
    | (with_reducible apply Frame.emit)
    | (with_reducible apply Frame.setTerm)
    | (with_reducible apply Frame.settled)
    | (with_reducible apply Frame.ploamNormal)
    | (with_reducible apply Frame.termState)
    | (with_reducible apply Frame.dropRanging)
    | decide

/-- What `State.rogueQuench` may write: register fields by number, memory at 1000. -/
def W.rogueQuench : Nat := 0xc0000000000020000000007300000400000000000000000000000000000000072000000000000000000000000000004100000000002000000000000000000000000

theorem Frame.rogueQuench {M : Nat} {s0 s : State} {t : Nat} {k : Nat} (hk0 : Frame M s0 s)
    (hL : W.rogueQuench &&& M = W.rogueQuench) : Frame M s0 (State.rogueQuench s t k) := by
  unfold State.rogueQuench
  try dsimp only
  repeat' first
    | (with_reducible assumption)
    | (split)
    | (with_reducible refine Frame.foldl ?_ ?_)
    | (exact Nat.zero_and _)
    | (exact Frame.sub hL (by decide))
    | (exact Frame.bitOf hL (by decide))
    | (intro u hu x hx)
    | (intro u hu)
    | (refine Frame.bitMem (by with_reducible assumption) ?_)
    | (refine Frame.sub_all hL (by first | decide | (simp only [List.map_cons, List.map_nil]; decide)))
    | (refine Frame.bitMemFst (by with_reducible assumption) ?_)
    | (with_reducible apply Frame.emit)
    | (with_reducible apply Frame.quenchOne)
    | (with_reducible apply Frame.treUsEvent)
    | (with_reducible apply Frame.setTreeU)
    | (with_reducible refine Frame.mk_other ?_)
    | decide

/-- What `State.sweepFrom` may write: register fields by number, memory at 1000. -/
def W.sweepFrom : Nat := 0x0

theorem Frame.sweepFrom {M : Nat} {s0 s : State} {t : Nat} {l : List Nat} (hk0 : Frame M s0 s)
    (_hL : W.sweepFrom &&& M = W.sweepFrom) : Frame M s0 (State.sweepFrom s t l) := by
  unfold State.sweepFrom
  try dsimp only
  repeat' first
    | (with_reducible assumption)
    | (split)
    | (with_reducible refine Frame.foldl ?_ ?_)
    | (exact Nat.zero_and _)
    | (intro u hu x hx)
    | (intro u hu)
    | (refine Frame.bitMem (by with_reducible assumption) ?_)
    | (refine Frame.bitMemFst (by with_reducible assumption) ?_)
    | (with_reducible apply Frame.emit)
    | (with_reducible apply Frame.setTreeU)
    | (with_reducible refine Frame.mk_other ?_)
    | decide

/-- What `State.rogueEvent` may write: register fields by number, memory at 1000. -/
def W.rogueEvent : Nat := 0xc0000000000020000000007300000400000000000000000000000000000000072000000000000000000000000000006100000000002000000000000000000000000

theorem Frame.rogueEvent {M : Nat} {s0 s : State} {t : Nat} (hk0 : Frame M s0 s)
    (hL : W.rogueEvent &&& M = W.rogueEvent) : Frame M s0 (State.rogueEvent s t) := by
  unfold State.rogueEvent
  try dsimp only
  repeat' first
    | (with_reducible assumption)
    | (split)
    | (with_reducible refine Frame.foldl ?_ ?_)
    | (exact Nat.zero_and _)
    | (exact Frame.sub hL (by decide))
    | (exact Frame.bitOf hL (by decide))
    | (intro u hu x hx)
    | (intro u hu)
    | (refine Frame.bitMem (by with_reducible assumption) ?_)
    | (refine Frame.sub_all hL (by first | decide | (simp only [List.map_cons, List.map_nil]; decide)))
    | (refine Frame.bitMemFst (by with_reducible assumption) ?_)
    | (with_reducible apply Frame.emit)
    | (with_reducible apply Frame.treUsEvent)
    | (with_reducible apply Frame.rogueQuench)
    | (with_reducible apply Frame.sweepFrom)
    | (with_reducible refine Frame.fst ?_ (by with_reducible assumption))
    | (with_reducible refine Frame.snd ?_ (by with_reducible assumption))
    | (with_reducible refine Frame.mk_other ?_)
    | decide

/-- What `State.lightRuns` may write: register fields by number, memory at 1000. -/
def W.lightRuns : Nat := 0x0

theorem Frame.lightRuns {M : Nat} {s0 s : State} {t : Nat} {rogue : Bool} {light : List (Int × Int)} (hk0 : Frame M s0 s)
    (_hL : W.lightRuns &&& M = W.lightRuns) : Frame M s0 (State.lightRuns s t rogue light) := by
  unfold State.lightRuns
  try dsimp only
  repeat' first
    | (with_reducible assumption)
    | (split)
    | (with_reducible refine Frame.foldl ?_ ?_)
    | (exact Nat.zero_and _)
    | (intro u hu x hx)
    | (intro u hu)
    | (refine Frame.bitMem (by with_reducible assumption) ?_)
    | (refine Frame.bitMemFst (by with_reducible assumption) ?_)
    | (with_reducible apply Frame.emit)
    | (with_reducible apply Frame.setTerm)
    | (with_reducible apply Frame.evidence)
    | (with_reducible refine Frame.mk_other ?_)
    | decide

/-- What `State.judgeFrame` may write: register fields by number, memory at 1000. -/
def W.judgeFrame : Nat := 0xc0000000000020000000007300000400000000000000000000000000000000072000000000000000000000000080006100000000002000000000000000000000000

theorem Frame.judgeFrame {M : Nat} {s0 s : State} {t : Nat} {light : List (Int × Int)} (hk0 : Frame M s0 s)
    (hL : W.judgeFrame &&& M = W.judgeFrame) : Frame M s0 (State.judgeFrame s t light) := by
  unfold State.judgeFrame
  try dsimp only
  repeat' first
    | (with_reducible assumption)
    | (split)
    | (with_reducible refine Frame.foldl ?_ ?_)
    | (exact Nat.zero_and _)
    | (exact Frame.sub hL (by decide))
    | (exact Frame.bitOf hL (by decide))
    | (intro u hu x hx)
    | (intro u hu)
    | (refine Frame.bitMem (by with_reducible assumption) ?_)
    | (refine Frame.sub_all hL (by first | decide | (simp only [List.map_cons, List.map_nil]; decide)))
    | (refine Frame.bitMemFst (by with_reducible assumption) ?_)
    | (with_reducible apply Frame.emit)
    | (with_reducible apply Frame.lightRuns)
    | (with_reducible apply Frame.setTreeU)
    | (with_reducible apply Frame.incSat)
    | (with_reducible apply Frame.rogueEvent)
    | (with_reducible refine Frame.mk_other ?_)
    | decide

end Sys2Proof.Machine
end

