-- ==== Sys2Proof/Laws/FrameSluice.lean ====
section
/-! SUPPORT. Which registers, and whether the memories, the operations of Sluice may write (Laws/Frame.lean). -/

namespace Sys2Proof.Machine

set_option Elab.async false
set_option linter.all false

/-- What `State.deleteAlloc` may write: register fields by number, memory at 1000. -/
def W.deleteAlloc : Nat := 0xc0000000000020000000000000000000000000000000000000000000000000072000000000000000803010000004000000000000000000000000000000000000000

theorem Frame.deleteAlloc {M : Nat} {s0 s : State} {t : Nat} {i : Nat} (hk0 : Frame M s0 s)
    (hL : W.deleteAlloc &&& M = W.deleteAlloc) : Frame M s0 (State.deleteAlloc s t i) := by
  unfold State.deleteAlloc
  try dsimp only
  repeat' first
    | (with_reducible assumption)
    | (split)
    | (with_reducible refine Frame.foldl ?_ ?_)
    | (exact Nat.zero_and _)
    | (exact Frame.sub hL (by decide))
    | (exact Frame.bitOf hL (by decide))
    | (intro u hu x hx)
    | (intro u hu)
    | (refine Frame.bitMem (by with_reducible assumption) ?_)
    | (refine Frame.sub_all hL (by first | decide | (simp only [List.map_cons, List.map_nil]; decide)))
    | (refine Frame.bitMemFst (by with_reducible assumption) ?_)
    | (with_reducible apply Frame.emit)
    | (with_reducible apply Frame.putAllocs)
    | (with_reducible apply Frame.dropAlloc)
    | (with_reducible apply Frame.dropReasm)
    | (with_reducible apply Frame.putFlows)
    | (with_reducible apply Frame.setCommit)
    | (with_reducible refine Frame.mk_other ?_)
    | decide

/-- What `State.allocSet` may write: register fields by number, memory at 1000. -/
def W.allocSet : Nat := 0xc0000000000020000000000000000000000000000000000000000000000000072000000000000000803010000004000000000000000000000000000000000000000

theorem Frame.allocSet {M : Nat} {s0 s : State} {p : List Byte} (hk0 : Frame M s0 s)
    (hL : W.allocSet &&& M = W.allocSet) : Frame M s0 (State.allocSet s p).1 := by
  unfold State.allocSet
  try dsimp only
  repeat' first
    | (with_reducible assumption)
    | (split)
    | (with_reducible refine Frame.foldl ?_ ?_)
    | (exact Nat.zero_and _)
    | (exact Frame.sub hL (by decide))
    | (exact Frame.bitOf hL (by decide))
    | (intro u hu x hx)
    | (intro u hu)
    | (refine Frame.bitMem (by with_reducible assumption) ?_)
    | (refine Frame.sub_all hL (by first | decide | (simp only [List.map_cons, List.map_nil]; decide)))
    | (refine Frame.bitMemFst (by with_reducible assumption) ?_)
    | (with_reducible apply Frame.emit)
    | (with_reducible apply Frame.deleteAlloc)
    | (with_reducible apply Frame.putAllocs)
    | (with_reducible apply Frame.setSluTree)
    | (with_reducible apply Frame.setCommit)
    | (with_reducible refine Frame.fst ?_ (by with_reducible assumption))
    | (with_reducible refine Frame.snd ?_ (by with_reducible assumption))
    | (with_reducible refine Frame.mk_other ?_)
    | decide

/-- What `State.finishCopy` may write: register fields by number, memory at 1000. -/
def W.finishCopy : Nat := 0x0

theorem Frame.finishCopy {M : Nat} {s0 s : State} {u : Nat} {t : Nat} (hk0 : Frame M s0 s)
    (_hL : W.finishCopy &&& M = W.finishCopy) : Frame M s0 (State.finishCopy s u t) := by
  unfold State.finishCopy
  try dsimp only
  repeat' first
    | (with_reducible assumption)
    | (split)
    | (with_reducible refine Frame.foldl ?_ ?_)
    | (exact Nat.zero_and _)
    | (intro u hu x hx)
    | (intro u hu)
    | (refine Frame.bitMem (by with_reducible assumption) ?_)
    | (refine Frame.bitMemFst (by with_reducible assumption) ?_)
    | (with_reducible apply Frame.emit)
    | (with_reducible apply Frame.setSluTree)
    | (with_reducible apply Frame.setSluUnit)
    | (with_reducible refine Frame.fst ?_ (by with_reducible assumption))
    | (with_reducible refine Frame.snd ?_ (by with_reducible assumption))
    | (with_reducible refine Frame.mk_other ?_)
    | decide

/-- What `State.freeForecasts` may write: register fields by number, memory at 1000. -/
def W.freeForecasts : Nat := 0x0

theorem Frame.freeForecasts {M : Nat} {s0 s : State} {u : Nat} {t : Nat} {fr : Int} {granted : Nat → Nat} (hk0 : Frame M s0 s)
    (_hL : W.freeForecasts &&& M = W.freeForecasts) : Frame M s0 (State.freeForecasts s u t fr granted).1 := by
  unfold State.freeForecasts
  try dsimp only
  repeat' first
    | (with_reducible assumption)
    | (split)
    | (with_reducible refine Frame.foldl ?_ ?_)
    | (exact Nat.zero_and _)
    | (intro u hu x hx)
    | (intro u hu)
    | (refine Frame.bitMem (by with_reducible assumption) ?_)
    | (refine Frame.bitMemFst (by with_reducible assumption) ?_)
    | (with_reducible apply Frame.emit)
    | (with_reducible apply Frame.setSluUnit)
    | (with_reducible refine Frame.mk_other ?_)
    | decide

/-- What `State.buildUnit` may write: register fields by number, memory at 1000. -/
def W.buildUnit : Nat := 0xc0000000000020000000000000000000000000000000000000000000000000072000000000000000402018000000000000000000000000000000000000000000000

theorem Frame.buildUnit {M : Nat} {s0 s : State} {t : Nat} {fr : Int} {wrong : List (Fin 2 × List Grant)} {u : Nat} (hk0 : Frame M s0 s)
    (hL : W.buildUnit &&& M = W.buildUnit) : Frame M s0 (State.buildUnit s t fr wrong u) := by
  unfold State.buildUnit
  try dsimp only
  repeat' first
    | (with_reducible assumption)
    | (split)
    | (with_reducible refine Frame.foldl ?_ ?_)
    | (exact Nat.zero_and _)
    | (exact Frame.sub hL (by decide))
    | (exact Frame.bitOf hL (by decide))
    | (intro u hu x hx)
    | (intro u hu)
    | (refine Frame.bitMem (by with_reducible assumption) ?_)
    | (refine Frame.sub_all hL (by first | decide | (simp only [List.map_cons, List.map_nil]; decide)))
    | (refine Frame.bitMemFst (by with_reducible assumption) ?_)
    | (with_reducible apply Frame.emit)
    | (with_reducible apply Frame.setSluTree)
    | (with_reducible apply Frame.freeForecasts)
    | (with_reducible apply Frame.blockEvent)
    | (with_reducible apply Frame.incSat)
    | (with_reducible apply Frame.sluEvent)
    | (with_reducible apply Frame.forecastsLost)
    | (with_reducible refine Frame.fst ?_ (by with_reducible assumption))
    | (with_reducible refine Frame.snd ?_ (by with_reducible assumption))
    | (with_reducible refine Frame.mk_other ?_)
    | decide

/-- What `State.dropForecasts` may write: register fields by number, memory at 1000. -/
def W.dropForecasts : Nat := 0xc0000000000020000000000000000000000000000000000000000000000000072000000000000000002010000000000000000000000000000000000000000000000

theorem Frame.dropForecasts {M : Nat} {s0 s : State} {t : Nat} {fr : Int} (hk0 : Frame M s0 s)
    (hL : W.dropForecasts &&& M = W.dropForecasts) : Frame M s0 (State.dropForecasts s t fr) := by
  unfold State.dropForecasts
  try dsimp only
  repeat' first
    | (with_reducible assumption)
    | (split)
    | (with_reducible refine Frame.foldl ?_ ?_)
    | (exact Nat.zero_and _)
    | (exact Frame.sub hL (by decide))
    | (exact Frame.bitOf hL (by decide))
    | (intro u hu x hx)
    | (intro u hu)
    | (refine Frame.bitMem (by with_reducible assumption) ?_)
    | (refine Frame.sub_all hL (by first | decide | (simp only [List.map_cons, List.map_nil]; decide)))
    | (refine Frame.bitMemFst (by with_reducible assumption) ?_)
    | (with_reducible apply Frame.emit)
    | (with_reducible apply Frame.freeForecasts)
    | (with_reducible apply Frame.forecastsLost)
    | (with_reducible refine Frame.fst ?_ (by with_reducible assumption))
    | (with_reducible refine Frame.snd ?_ (by with_reducible assumption))
    | (with_reducible refine Frame.mk_other ?_)
    | decide

/-- What `State.beginTest` may write: register fields by number, memory at 1000. -/
def W.beginTest : Nat := 0x800000000f000000000000000000000000000000000000000000

theorem Frame.beginTest {M : Nat} {s0 s : State} {u : Nat} (hk0 : Frame M s0 s)
    (hL : W.beginTest &&& M = W.beginTest) : Frame M s0 (State.beginTest s u) := by
  unfold State.beginTest
  try dsimp only
  repeat' first
    | (with_reducible assumption)
    | (split)
    | (with_reducible refine Frame.foldl ?_ ?_)
    | (exact Nat.zero_and _)
    | (exact Frame.sub hL (by decide))
    | (exact Frame.bitOf hL (by decide))
    | (intro u hu x hx)
    | (intro u hu)
    | (refine Frame.bitMem (by with_reducible assumption) ?_)
    | (refine Frame.sub_all hL (by first | decide | (simp only [List.map_cons, List.map_nil]; decide)))
    | (refine Frame.bitMemFst (by with_reducible assumption) ?_)
    | (with_reducible apply Frame.emit)
    | (with_reducible apply Frame.engReload)
    | (with_reducible apply Frame.setUnit)
    | decide

/-- What `State.retest` may write: register fields by number, memory at 1000. -/
def W.retest : Nat := 0x800000000f000000000000000000000000000000000000000000

theorem Frame.retest {M : Nat} {s0 s : State} {u : Nat} (hk0 : Frame M s0 s)
    (hL : W.retest &&& M = W.retest) : Frame M s0 (State.retest s u) := by
  unfold State.retest
  try dsimp only
  repeat' first
    | (with_reducible assumption)
    | (split)
    | (with_reducible refine Frame.foldl ?_ ?_)
    | (exact Nat.zero_and _)
    | (exact Frame.sub hL (by decide))
    | (exact Frame.bitOf hL (by decide))
    | (intro u hu x hx)
    | (intro u hu)
    | (refine Frame.bitMem (by with_reducible assumption) ?_)
    | (refine Frame.sub_all hL (by first | decide | (simp only [List.map_cons, List.map_nil]; decide)))
    | (refine Frame.bitMemFst (by with_reducible assumption) ?_)
    | (with_reducible apply Frame.emit)
    | (with_reducible apply Frame.beginTest)
    | (with_reducible apply Frame.setSluUnit)
    | (with_reducible refine Frame.mk_other ?_)
    | decide

/-- What `State.sluDomainOn` may write: register fields by number, memory at 1000. -/
def W.sluDomainOn : Nat := 0x800000000f000000000000000000000000000000000000000000

theorem Frame.sluDomainOn {M : Nat} {s0 s : State} {u : Nat} (hk0 : Frame M s0 s)
    (hL : W.sluDomainOn &&& M = W.sluDomainOn) : Frame M s0 (State.sluDomainOn s u) := by
  unfold State.sluDomainOn
  try dsimp only
  repeat' first
    | (with_reducible assumption)
    | (split)
    | (with_reducible refine Frame.foldl ?_ ?_)
    | (exact Nat.zero_and _)
    | (exact Frame.sub hL (by decide))
    | (exact Frame.bitOf hL (by decide))
    | (intro u hu x hx)
    | (intro u hu)
    | (refine Frame.bitMem (by with_reducible assumption) ?_)
    | (refine Frame.sub_all hL (by first | decide | (simp only [List.map_cons, List.map_nil]; decide)))
    | (refine Frame.bitMemFst (by with_reducible assumption) ?_)
    | (with_reducible apply Frame.emit)
    | (with_reducible apply Frame.setSluUnit)
    | (with_reducible apply Frame.retest)
    | (with_reducible refine Frame.mk_other ?_)
    | decide

/-- What `State.endTest` may write: register fields by number, memory at 1000. -/
def W.endTest : Nat := 0x18000000000000000000000000000000000000000000000000000

theorem Frame.endTest {M : Nat} {s0 s : State} {u : Nat} {pass : Bool} (hk0 : Frame M s0 s)
    (hL : W.endTest &&& M = W.endTest) : Frame M s0 (State.endTest s u pass) := by
  unfold State.endTest
  try dsimp only
  repeat' first
    | (with_reducible assumption)
    | (split)
    | (with_reducible refine Frame.foldl ?_ ?_)
    | (exact Nat.zero_and _)
    | (exact Frame.sub hL (by decide))
    | (exact Frame.bitOf hL (by decide))
    | (intro u hu x hx)
    | (intro u hu)
    | (refine Frame.bitMem (by with_reducible assumption) ?_)
    | (refine Frame.sub_all hL (by first | decide | (simp only [List.map_cons, List.map_nil]; decide)))
    | (refine Frame.bitMemFst (by with_reducible assumption) ?_)
    | (with_reducible refine Frame.wr ?_ ?_)
    | (with_reducible apply Frame.emit)
    | (with_reducible apply Frame.setEng)
    | (with_reducible refine Frame.mk_other ?_)
    | decide

/-- What `State.releaseMap` may write: register fields by number, memory at 1000. -/
def W.releaseMap : Nat := 0xc0000000000020000000000000000000000000020010000000000000000000072000000000000000380000000000000000000000000000000000000000000000000

theorem Frame.releaseMap {M : Nat} {s0 s : State} {u : Nat} {t : Nat} {m : BwMap} (hk0 : Frame M s0 s)
    (hL : W.releaseMap &&& M = W.releaseMap) : Frame M s0 (State.releaseMap s u t m) := by
  unfold State.releaseMap
  try dsimp only
  repeat' first
    | (with_reducible assumption)
    | (split)
    | (with_reducible refine Frame.foldl ?_ ?_)
    | (exact Nat.zero_and _)
    | (exact Frame.sub hL (by decide))
    | (exact Frame.bitOf hL (by decide))
    | (intro u hu x hx)
    | (intro u hu)
    | (refine Frame.bitMem (by with_reducible assumption) ?_)
    | (refine Frame.sub_all hL (by first | decide | (simp only [List.map_cons, List.map_nil]; decide)))
    | (refine Frame.bitMemFst (by with_reducible assumption) ?_)
    | (with_reducible refine Frame.wr ?_ ?_)
    | (with_reducible apply Frame.emit)
    | (with_reducible apply Frame.setTree)
    | (with_reducible apply Frame.postSlu)
    | (with_reducible apply Frame.blockEvent)
    | (with_reducible apply Frame.sendDigest)
    | (with_reducible refine Frame.mk_other ?_)
    | decide

/-- What `State.mapsDiffer` may write: register fields by number, memory at 1000. -/
def W.mapsDiffer : Nat := 0xc000000000002000000000000000000000000002001000000000000000000007200000000000000838c106e1f000000000000000000000000000000000000000000

theorem Frame.mapsDiffer {M : Nat} {s0 s : State} {a : Nat} {t : Nat} {mine : BwMap} (hk0 : Frame M s0 s)
    (hL : W.mapsDiffer &&& M = W.mapsDiffer) : Frame M s0 (State.mapsDiffer s a t mine) := by
  unfold State.mapsDiffer
  try dsimp only
  repeat' first
    | (with_reducible assumption)
    | (split)
    | (with_reducible refine Frame.foldl ?_ ?_)
    | (exact Nat.zero_and _)
    | (exact Frame.sub hL (by decide))
    | (exact Frame.bitOf hL (by decide))
    | (intro u hu x hx)
    | (intro u hu)
    | (refine Frame.bitMem (by with_reducible assumption) ?_)
    | (refine Frame.sub_all hL (by first | decide | (simp only [List.map_cons, List.map_nil]; decide)))
    | (refine Frame.bitMemFst (by with_reducible assumption) ?_)
    | (with_reducible refine Frame.wr ?_ ?_)
    | (with_reducible apply Frame.emit)
    | (with_reducible apply Frame.incSat)
    | (with_reducible apply Frame.sluEvent)
    | (with_reducible apply Frame.unitFail)
    | (with_reducible apply Frame.releaseMap)
    | (with_reducible apply Frame.beginTest)
    | (with_reducible apply Frame.setSluUnit)
    | (with_reducible apply Frame.putSlu)
    | (with_reducible apply Frame.switchOver)
    | (with_reducible refine Frame.mk_other ?_)
    | decide

/-- What `State.mapsAgree` may write: register fields by number, memory at 1000. -/
def W.mapsAgree : Nat := 0xc0000000000020000000000000000000000000020010000000000000000000072000000000000000380000010000000000000000000000000000000000000000000

theorem Frame.mapsAgree {M : Nat} {s0 s : State} {a : Nat} {t : Nat} {mine : BwMap} (hk0 : Frame M s0 s)
    (hL : W.mapsAgree &&& M = W.mapsAgree) : Frame M s0 (State.mapsAgree s a t mine) := by
  unfold State.mapsAgree
  try dsimp only
  repeat' first
    | (with_reducible assumption)
    | (split)
    | (with_reducible refine Frame.foldl ?_ ?_)
    | (exact Nat.zero_and _)
    | (exact Frame.sub hL (by decide))
    | (exact Frame.bitOf hL (by decide))
    | (intro u hu x hx)
    | (intro u hu)
    | (refine Frame.bitMem (by with_reducible assumption) ?_)
    | (refine Frame.sub_all hL (by first | decide | (simp only [List.map_cons, List.map_nil]; decide)))
    | (refine Frame.bitMemFst (by with_reducible assumption) ?_)
    | (with_reducible refine Frame.wr ?_ ?_)
    | (with_reducible apply Frame.emit)
    | (with_reducible apply Frame.setSluUnit)
    | (with_reducible apply Frame.releaseMap)
    | (with_reducible refine Frame.mk_other ?_)
    | decide

/-- What `State.writeSluCtl` may write: register fields by number, memory at 1000. -/
def W.writeSluCtl : Nat := 0xc000000000002000000000000000000000000000000000000000000000000007200000000000000800002030f000000000000000000000000000000000000000000

theorem Frame.writeSluCtl {M : Nat} {s0 s : State} {v : Nat} (hk0 : Frame M s0 s)
    (hL : W.writeSluCtl &&& M = W.writeSluCtl) : Frame M s0 (State.writeSluCtl s v) := by
  unfold State.writeSluCtl
  try dsimp only
  repeat' first
    | (with_reducible assumption)
    | (split)
    | (with_reducible refine Frame.foldl ?_ ?_)
    | (exact Nat.zero_and _)
    | (exact Frame.sub hL (by decide))
    | (exact Frame.bitOf hL (by decide))
    | (intro u hu x hx)
    | (intro u hu)
    | (refine Frame.bitMem (by with_reducible assumption) ?_)
    | (refine Frame.sub_all hL (by first | decide | (simp only [List.map_cons, List.map_nil]; decide)))
    | (refine Frame.bitMemFst (by with_reducible assumption) ?_)
    | (with_reducible apply Frame.emit)
    | (with_reducible apply Frame.writeFields)
    | (with_reducible apply Frame.switchOver)
    | (with_reducible apply Frame.setUnit)
    | (with_reducible apply Frame.sluEvent)
    | (with_reducible apply Frame.retest)
    | (with_reducible refine Frame.fst ?_ (by with_reducible assumption))
    | (with_reducible refine Frame.snd ?_ (by with_reducible assumption))
    | (with_reducible refine Frame.mk_other ?_)
    | decide

/-- What `State.freshUnit` may write: register fields by number, memory at 1000. -/
def W.freshUnit : Nat := 0x3000000000000000000000000000000000000000000000000

theorem Frame.freshUnit {M : Nat} {s0 s : State} {u : Nat} (hk0 : Frame M s0 s)
    (hL : W.freshUnit &&& M = W.freshUnit) : Frame M s0 (State.freshUnit s u) := by
  unfold State.freshUnit
  try dsimp only
  repeat' first
    | (with_reducible assumption)
    | (split)
    | (with_reducible refine Frame.foldl ?_ ?_)
    | (exact Nat.zero_and _)
    | (exact Frame.sub hL (by decide))
    | (exact Frame.bitOf hL (by decide))
    | (intro u hu x hx)
    | (intro u hu)
    | (refine Frame.bitMem (by with_reducible assumption) ?_)
    | (refine Frame.sub_all hL (by first | decide | (simp only [List.map_cons, List.map_nil]; decide)))
    | (refine Frame.bitMemFst (by with_reducible assumption) ?_)
    | (with_reducible apply Frame.emit)
    | (with_reducible apply Frame.setSluTree)
    | (with_reducible apply Frame.setSluUnit)
    | (with_reducible apply Frame.incSat)
    | (with_reducible apply Frame.countForecasts)
    | (with_reducible refine Frame.mk_other ?_)
    | decide

/-- What `State.sluiceStart` may write: register fields by number, memory at 1000. -/
def W.sluiceStart : Nat := 0x300000f000000000000000000000000000000000000000000

theorem Frame.sluiceStart {M : Nat} {s0 s : State} (hk0 : Frame M s0 s)
    (hL : W.sluiceStart &&& M = W.sluiceStart) : Frame M s0 (State.sluiceStart s) := by
  unfold State.sluiceStart
  try dsimp only
  repeat' first
    | (with_reducible assumption)
    | (split)
    | (with_reducible refine Frame.foldl ?_ ?_)
    | (exact Nat.zero_and _)
    | (exact Frame.sub hL (by decide))
    | (exact Frame.bitOf hL (by decide))
    | (intro u hu x hx)
    | (intro u hu)
    | (refine Frame.bitMem (by with_reducible assumption) ?_)
    | (refine Frame.sub_all hL (by first | decide | (simp only [List.map_cons, List.map_nil]; decide)))
    | (refine Frame.bitMemFst (by with_reducible assumption) ?_)
    | (with_reducible apply Frame.emit)
    | (with_reducible apply Frame.putSlu)
    | (with_reducible apply Frame.freshUnit)
    | (with_reducible apply Frame.setSluUnit)
    | (with_reducible apply Frame.setUnit)
    | (with_reducible apply Frame.enterResync)
    | (with_reducible refine Frame.mk_other ?_)
    | decide

/-- What `State.applyForecast` may write: register fields by number, memory at 1000. -/
def W.applyForecast : Nat := 0xc0000000000020000000000000000000000000000000000000000000000000072000000000000000001000000000000000000000000000000000000000000000000

theorem Frame.applyForecast {M : Nat} {s0 s : State} {b : List Byte} (hk0 : Frame M s0 s)
    (hL : W.applyForecast &&& M = W.applyForecast) : Frame M s0 (State.applyForecast s b) := by
  unfold State.applyForecast
  try dsimp only
  repeat' first
    | (with_reducible assumption)
    | (split)
    | (with_reducible refine Frame.foldl ?_ ?_)
    | (exact Nat.zero_and _)
    | (exact Frame.sub hL (by decide))
    | (exact Frame.bitOf hL (by decide))
    | (intro u hu x hx)
    | (intro u hu)
    | (refine Frame.bitMem (by with_reducible assumption) ?_)
    | (refine Frame.sub_all hL (by first | decide | (simp only [List.map_cons, List.map_nil]; decide)))
    | (refine Frame.bitMemFst (by with_reducible assumption) ?_)
    | (with_reducible apply Frame.emit)
    | (with_reducible apply Frame.setSluUnit)
    | (with_reducible apply Frame.blockEvent)
    | (with_reducible apply Frame.countForecasts)
    | (with_reducible refine Frame.mk_other ?_)
    | decide

end Sys2Proof.Machine
end

