-- ==== Sys2Proof/Laws/FrameBufOps.lean ====
section
/-! SUPPORT. Which registers, and whether the memories, the operations of BufOps may write (Laws/Frame.lean). -/

namespace Sys2Proof.Machine

set_option Elab.async false
set_option linter.all false

/-- What `State.admitDrop` may write: register fields by number, memory at 1000. -/
def W.admitDrop : Nat := 0xc0000000000020000000000000000000000000000000000000000000000000072000000000000000000000000000000000000000000000000000000000000000000

theorem Frame.admitDrop {M : Nat} {s0 s : State} {t : Nat} {term : Nat} {cls : Nat} {off : Nat} (hk0 : Frame M s0 s)
    (hL : W.admitDrop &&& M = W.admitDrop) : Frame M s0 (State.admitDrop s t term cls off) := by
  unfold State.admitDrop
  try dsimp only
  repeat' first
    | (with_reducible assumption)
    | (split)
    | (with_reducible refine Frame.foldl ?_ ?_)
    | (exact Nat.zero_and _)
    | (exact Frame.sub hL (by decide))
    | (exact Frame.bitOf hL (by decide))
    | (intro u hu x hx)
    | (intro u hu)
    | (refine Frame.bitMem (by with_reducible assumption) ?_)
    | (refine Frame.sub_all hL (by first | decide | (simp only [List.map_cons, List.map_nil]; decide)))
    | (refine Frame.bitMemFst (by with_reducible assumption) ?_)
    | (with_reducible apply Frame.emit)
    | (with_reducible apply Frame.setDeepQ)
    | (with_reducible apply Frame.addCnt)
    | (with_reducible apply Frame.blockEvent)
    | (with_reducible refine Frame.mk_other ?_)
    | decide

/-- What `State.admitDeep` may write: register fields by number, memory at 1000. -/
def W.admitDeep : Nat := 0xc0000000000020000000000000000000000000000000000000000000000000072000000000000000000000000000000000000000000000000000000000000000000

theorem Frame.admitDeep {M : Nat} {s0 s : State} {t : Nat} {term : Nat} {cls : Nat} {cell : Nat} {f : DeepFrame} (hk0 : Frame M s0 s)
    (hL : W.admitDeep &&& M = W.admitDeep) : Frame M s0 (State.admitDeep s t term cls cell f).2 := by
  unfold State.admitDeep
  try dsimp only
  repeat' first
    | (with_reducible assumption)
    | (split)
    | (with_reducible refine Frame.foldl ?_ ?_)
    | (exact Nat.zero_and _)
    | (exact Frame.sub hL (by decide))
    | (exact Frame.bitOf hL (by decide))
    | (intro u hu x hx)
    | (intro u hu)
    | (refine Frame.bitMem (by with_reducible assumption) ?_)
    | (refine Frame.sub_all hL (by first | decide | (simp only [List.map_cons, List.map_nil]; decide)))
    | (refine Frame.bitMemFst (by with_reducible assumption) ?_)
    | (with_reducible apply Frame.emit)
    | (with_reducible apply Frame.setBuf)
    | (with_reducible apply Frame.admitDrop)
    | (with_reducible apply Frame.freeCells)
    | (with_reducible refine Frame.takePages ?_ (by with_reducible assumption) ?_)
    | (with_reducible apply Frame.setDeepQ)
    | (with_reducible apply Frame.blockEvent)
    | (with_reducible apply Frame.settleAll)
    | (with_reducible refine Frame.fst ?_ (by with_reducible assumption))
    | (with_reducible refine Frame.snd ?_ (by with_reducible assumption))
    | (with_reducible refine Frame.mk_other ?_)
    | decide

/-- What `State.stackRead` may write: register fields by number, memory at 1000. -/
def W.stackRead : Nat := 0xc0000000000021800000000000000000000000000000000000000000000000072000000000000000000000000000000000000000000000000000000000000000000

theorem Frame.stackRead {M : Nat} {s0 s : State} {pages : List Nat} {off : Nat} {len : Nat} (hk0 : Frame M s0 s)
    (hL : W.stackRead &&& M = W.stackRead) : Frame M s0 (State.stackRead s pages off len).2 := by
  unfold State.stackRead
  try dsimp only
  repeat' first
    | (with_reducible assumption)
    | (split)
    | (with_reducible refine Frame.foldl ?_ ?_)
    | (exact Nat.zero_and _)
    | (exact Frame.sub hL (by decide))
    | (exact Frame.bitOf hL (by decide))
    | (intro u hu x hx)
    | (intro u hu)
    | (refine Frame.bitMem (by with_reducible assumption) ?_)
    | (refine Frame.sub_all hL (by first | decide | (simp only [List.map_cons, List.map_nil]; decide)))
    | (refine Frame.bitMemFst (by with_reducible assumption) ?_)
    | (with_reducible apply Frame.emit)
    | (with_reducible apply Frame.corrected)
    | (with_reducible apply Frame.rewriteWord)
    | (with_reducible apply Frame.logUe)
    | (with_reducible refine Frame.fst ?_ (by with_reducible assumption))
    | (with_reducible refine Frame.snd ?_ (by with_reducible assumption))
    | (with_reducible refine Frame.mk_other ?_)
    | decide

/-- What `State.linkRead` may write: register fields by number, memory at 1000. -/
def W.linkRead : Nat := 0xc0000000000021800000000000000000000000000000000000000000000000072000000000000000000000000000000000000000000000000000000000000000000

theorem Frame.linkRead {M : Nat} {s0 s : State} {q : Nat} {pages : List Nat} (hk0 : Frame M s0 s)
    (hL : W.linkRead &&& M = W.linkRead) : Frame M s0 (State.linkRead s q pages).2 := by
  unfold State.linkRead
  try dsimp only
  repeat' first
    | (with_reducible assumption)
    | (split)
    | (with_reducible refine Frame.foldl ?_ ?_)
    | (exact Nat.zero_and _)
    | (exact Frame.sub hL (by decide))
    | (exact Frame.bitOf hL (by decide))
    | (intro u hu x hx)
    | (intro u hu)
    | (refine Frame.bitMem (by with_reducible assumption) ?_)
    | (refine Frame.sub_all hL (by first | decide | (simp only [List.map_cons, List.map_nil]; decide)))
    | (refine Frame.bitMemFst (by with_reducible assumption) ?_)
    | (with_reducible apply Frame.emit)
    | (with_reducible apply Frame.corrected)
    | (with_reducible apply Frame.rewriteWord)
    | (with_reducible apply Frame.logUe)
    | (with_reducible refine Frame.fst ?_ (by with_reducible assumption))
    | (with_reducible refine Frame.snd ?_ (by with_reducible assumption))
    | (with_reducible refine Frame.mk_other ?_)
    | decide

/-- What `State.cutPages` may write: register fields by number, memory at 1000. -/
def W.cutPages : Nat := 0x0

theorem Frame.cutPages {M : Nat} {s0 s : State} {q : Nat} {seq : Nat} {n : Nat} {keep : Nat} (hk0 : Frame M s0 s)
    (_hL : W.cutPages &&& M = W.cutPages) : Frame M s0 (State.cutPages s q seq n keep) := by
  unfold State.cutPages
  try dsimp only
  repeat' first
    | (with_reducible assumption)
    | (split)
    | (with_reducible refine Frame.foldl ?_ ?_)
    | (exact Nat.zero_and _)
    | (intro u hu x hx)
    | (intro u hu)
    | (refine Frame.bitMem (by with_reducible assumption) ?_)
    | (refine Frame.bitMemFst (by with_reducible assumption) ?_)
    | (with_reducible apply Frame.emit)
    | (with_reducible apply Frame.putBuf)
    | (with_reducible refine Frame.mk_other ?_)
    | decide

/-- What `State.payCredits` may write: register fields by number, memory at 1000. -/
def W.payCredits : Nat := 0x0

theorem Frame.payCredits {M : Nat} {s0 s : State} (hk0 : Frame M s0 s)
    (_hL : W.payCredits &&& M = W.payCredits) : Frame M s0 (State.payCredits s) := by
  unfold State.payCredits
  try dsimp only
  repeat' first
    | (with_reducible assumption)
    | (split)
    | (with_reducible refine Frame.foldl ?_ ?_)
    | (exact Nat.zero_and _)
    | (intro u hu x hx)
    | (intro u hu)
    | (refine Frame.bitMem (by with_reducible assumption) ?_)
    | (refine Frame.bitMemFst (by with_reducible assumption) ?_)
    | (with_reducible apply Frame.emit)
    | (with_reducible apply Frame.setBuf)
    | (with_reducible refine Frame.mk_other ?_)
    | decide

/-- What `State.returnCredit` may write: register fields by number, memory at 1000. -/
def W.returnCredit : Nat := 0x0

theorem Frame.returnCredit {M : Nat} {s0 s : State} {lane : Nat} {cls : Nat} {n : Nat} (hk0 : Frame M s0 s)
    (_hL : W.returnCredit &&& M = W.returnCredit) : Frame M s0 (State.returnCredit s lane cls n) := by
  unfold State.returnCredit
  try dsimp only
  repeat' first
    | (with_reducible assumption)
    | (split)
    | (with_reducible refine Frame.foldl ?_ ?_)
    | (exact Nat.zero_and _)
    | (intro u hu x hx)
    | (intro u hu)
    | (refine Frame.bitMem (by with_reducible assumption) ?_)
    | (refine Frame.bitMemFst (by with_reducible assumption) ?_)
    | (with_reducible apply Frame.emit)
    | (with_reducible apply Frame.payCredits)
    | (with_reducible apply Frame.setBuf)
    | (with_reducible refine Frame.mk_other ?_)
    | decide

/-- What `State.startCredits` may write: register fields by number, memory at 1000. -/
def W.startCredits : Nat := 0x0

theorem Frame.startCredits {M : Nat} {s0 s : State} (hk0 : Frame M s0 s)
    (_hL : W.startCredits &&& M = W.startCredits) : Frame M s0 (State.startCredits s) := by
  unfold State.startCredits
  try dsimp only
  repeat' first
    | (with_reducible assumption)
    | (split)
    | (with_reducible refine Frame.foldl ?_ ?_)
    | (exact Nat.zero_and _)
    | (intro u hu x hx)
    | (intro u hu)
    | (refine Frame.bitMem (by with_reducible assumption) ?_)
    | (refine Frame.bitMemFst (by with_reducible assumption) ?_)
    | (with_reducible apply Frame.emit)
    | (with_reducible apply Frame.setBuf)
    | (with_reducible refine Frame.mk_other ?_)
    | decide

end Sys2Proof.Machine
end

