-- ==== Sys2Proof/Laws/FrameRings.lean ====
section
/-! SUPPORT. Which registers, and whether the memories, the operations of Rings may write (Laws/Frame.lean). -/

namespace Sys2Proof.Machine

set_option Elab.async false
set_option linter.all false

/-- What `State.evqCreate` may write: register fields by number, memory at 1000. -/
def W.evqCreate : Nat := 0x3e0000000000000000000000000000000000000000000000000000000000000000

theorem Frame.evqCreate {M : Nat} {s0 s : State} {p : List Byte} (hk0 : Frame M s0 s)
    (hL : W.evqCreate &&& M = W.evqCreate) : Frame M s0 (State.evqCreate s p).1 := by
  unfold State.evqCreate
  try dsimp only
  repeat' first
    | (with_reducible assumption)
    | (split)
    | (with_reducible refine Frame.foldl ?_ ?_)
    | (exact Nat.zero_and _)
    | (exact Frame.sub hL (by decide))
    | (exact Frame.bitOf hL (by decide))
    | (intro u hu x hx)
    | (intro u hu)
    | (refine Frame.bitMem (by with_reducible assumption) ?_)
    | (refine Frame.sub_all hL (by first | decide | (simp only [List.map_cons, List.map_nil]; decide)))
    | (refine Frame.bitMemFst (by with_reducible assumption) ?_)
    | (with_reducible refine Frame.wr ?_ ?_)
    | (with_reducible apply Frame.emit)
    | (with_reducible apply Frame.setEvq)
    | (with_reducible refine Frame.fst ?_ (by with_reducible assumption))
    | (with_reducible refine Frame.snd ?_ (by with_reducible assumption))
    | (with_reducible refine Frame.mk_other ?_)
    | decide

/-- What `State.ringCreate` may write: register fields by number, memory at 1000. -/
def W.ringCreate : Nat := 0x4003ffe00000000000000000000000000000000000000000000000000000000000

theorem Frame.ringCreate {M : Nat} {s0 s : State} {p : List Byte} (hk0 : Frame M s0 s)
    (hL : W.ringCreate &&& M = W.ringCreate) : Frame M s0 (State.ringCreate s p).1 := by
  unfold State.ringCreate
  try dsimp only
  repeat' first
    | (with_reducible assumption)
    | (split)
    | (with_reducible refine Frame.foldl ?_ ?_)
    | (exact Nat.zero_and _)
    | (exact Frame.sub hL (by decide))
    | (exact Frame.bitOf hL (by decide))
    | (intro u hu x hx)
    | (intro u hu)
    | (refine Frame.bitMem (by with_reducible assumption) ?_)
    | (refine Frame.sub_all hL (by first | decide | (simp only [List.map_cons, List.map_nil]; decide)))
    | (refine Frame.bitMemFst (by with_reducible assumption) ?_)
    | (with_reducible refine Frame.wr ?_ ?_)
    | (with_reducible apply Frame.emit)
    | (with_reducible apply Frame.cutThrough)
    | (with_reducible apply Frame.setRing)
    | (with_reducible apply Frame.ringState)
    | (with_reducible refine Frame.fst ?_ (by with_reducible assumption))
    | (with_reducible refine Frame.snd ?_ (by with_reducible assumption))
    | (with_reducible refine Frame.mk_other ?_)
    | decide

/-- What `State.dropWaiting` may write: register fields by number, memory at 1000. -/
def W.dropWaiting : Nat := 0x84000000000000000000000000000000000000000000000000000000000000

theorem Frame.dropWaiting {M : Nat} {s0 s : State} {r : Nat} {count : Bool} (hk0 : Frame M s0 s)
    (hL : W.dropWaiting &&& M = W.dropWaiting) : Frame M s0 (State.dropWaiting s r count) := by
  unfold State.dropWaiting
  try dsimp only
  repeat' first
    | (with_reducible assumption)
    | (split)
    | (with_reducible refine Frame.foldl ?_ ?_)
    | (exact Nat.zero_and _)
    | (exact Frame.sub hL (by decide))
    | (exact Frame.bitOf hL (by decide))
    | (intro u hu x hx)
    | (intro u hu)
    | (refine Frame.bitMem (by with_reducible assumption) ?_)
    | (refine Frame.sub_all hL (by first | decide | (simp only [List.map_cons, List.map_nil]; decide)))
    | (refine Frame.bitMemFst (by with_reducible assumption) ?_)
    | (with_reducible refine Frame.wr ?_ ?_)
    | (with_reducible apply Frame.emit)
    | (with_reducible apply Frame.freeCells)
    | (with_reducible apply Frame.setRing)
    | (with_reducible apply Frame.incWrap)
    | (with_reducible refine Frame.mk_other ?_)
    | decide

/-- What `State.ringIdle` may write: register fields by number, memory at 1000. -/
def W.ringIdle : Nat := 0x400001800000000000000000000000000000000000000000000000000000000000

theorem Frame.ringIdle {M : Nat} {s0 s : State} {r : Nat} (hk0 : Frame M s0 s)
    (hL : W.ringIdle &&& M = W.ringIdle) : Frame M s0 (State.ringIdle s r) := by
  unfold State.ringIdle
  try dsimp only
  repeat' first
    | (with_reducible assumption)
    | (split)
    | (with_reducible refine Frame.foldl ?_ ?_)
    | (exact Nat.zero_and _)
    | (exact Frame.sub hL (by decide))
    | (exact Frame.bitOf hL (by decide))
    | (intro u hu x hx)
    | (intro u hu)
    | (refine Frame.bitMem (by with_reducible assumption) ?_)
    | (refine Frame.sub_all hL (by first | decide | (simp only [List.map_cons, List.map_nil]; decide)))
    | (refine Frame.bitMemFst (by with_reducible assumption) ?_)
    | (with_reducible refine Frame.wr ?_ ?_)
    | (with_reducible apply Frame.emit)
    | (with_reducible apply Frame.ringState)
    | decide

/-- What `State.settleFailed` may write: register fields by number, memory at 1000. -/
def W.settleFailed : Nat := 0x100000000000000000000000000000000000000000000000000000000000000000000000000000000000000000000000000000000000000000000000c0000000000020000000000000000000000000000000000000000000000000072401202a00000000000000000000000000000000000000000000000000000000000

theorem Frame.settleFailed {M : Nat} {s0 s : State} {r : Nat} (hk0 : Frame M s0 s)
    (hL : W.settleFailed &&& M = W.settleFailed) : Frame M s0 (State.settleFailed s r) := by
  unfold State.settleFailed
  try dsimp only
  repeat' first
    | (with_reducible assumption)
    | (split)
    | (with_reducible refine Frame.foldl ?_ ?_)
    | (exact Nat.zero_and _)
    | (exact Frame.sub hL (by decide))
    | (exact Frame.bitOf hL (by decide))
    | (intro u hu x hx)
    | (intro u hu)
    | (refine Frame.bitMem (by with_reducible assumption) ?_)
    | (refine Frame.sub_all hL (by first | decide | (simp only [List.map_cons, List.map_nil]; decide)))
    | (refine Frame.bitMemFst (by with_reducible assumption) ?_)
    | (with_reducible apply Frame.emit)
    | (with_reducible apply Frame.setRing)
    | (with_reducible apply Frame.advanceHead)
    | (with_reducible apply Frame.txFail)
    | (with_reducible refine Frame.fst ?_ (by with_reducible assumption))
    | (with_reducible refine Frame.snd ?_ (by with_reducible assumption))
    | (with_reducible refine Frame.mk_other ?_)
    | decide

/-- What `State.drain` may write: register fields by number, memory at 1000. -/
def W.drain : Nat := 0x100000000000000000000000000000000000000000000000000000000000000000000000000000000000000000000000000000000000000000000000c0000000000020000000000000000000000000000000000000000000000000072401286a00000000000000000000000000000000000000000000000000000000000

theorem Frame.drain {M : Nat} {s0 s : State} {r : Nat} (hk0 : Frame M s0 s)
    (hL : W.drain &&& M = W.drain) : Frame M s0 (State.drain s r) := by
  unfold State.drain
  try dsimp only
  repeat' first
    | (with_reducible assumption)
    | (split)
    | (with_reducible refine Frame.foldl ?_ ?_)
    | (exact Nat.zero_and _)
    | (exact Frame.sub hL (by decide))
    | (exact Frame.bitOf hL (by decide))
    | (intro u hu x hx)
    | (intro u hu)
    | (refine Frame.bitMem (by with_reducible assumption) ?_)
    | (refine Frame.sub_all hL (by first | decide | (simp only [List.map_cons, List.map_nil]; decide)))
    | (refine Frame.bitMemFst (by with_reducible assumption) ?_)
    | (with_reducible apply Frame.emit)
    | (with_reducible apply Frame.setRing)
    | (with_reducible apply Frame.ringState)
    | (with_reducible apply Frame.settleFailed)
    | (with_reducible apply Frame.dropWaiting)
    | (with_reducible refine Frame.mk_other ?_)
    | decide

/-- What `State.resume` may write: register fields by number, memory at 1000. -/
def W.resume : Nat := 0x400001800000000000000000000000000000000000000000000000000000000000

theorem Frame.resume {M : Nat} {s0 s : State} {r : Nat} (hk0 : Frame M s0 s)
    (hL : W.resume &&& M = W.resume) : Frame M s0 (State.resume s r) := by
  unfold State.resume
  try dsimp only
  repeat' first
    | (with_reducible assumption)
    | (split)
    | (with_reducible refine Frame.foldl ?_ ?_)
    | (exact Nat.zero_and _)
    | (exact Frame.sub hL (by decide))
    | (exact Frame.bitOf hL (by decide))
    | (intro u hu x hx)
    | (intro u hu)
    | (refine Frame.bitMem (by with_reducible assumption) ?_)
    | (refine Frame.sub_all hL (by first | decide | (simp only [List.map_cons, List.map_nil]; decide)))
    | (refine Frame.bitMemFst (by with_reducible assumption) ?_)
    | (with_reducible refine Frame.wr ?_ ?_)
    | (with_reducible apply Frame.emit)
    | (with_reducible apply Frame.setRing)
    | (with_reducible apply Frame.ringState)
    | (with_reducible refine Frame.mk_other ?_)
    | decide

/-- What `State.ringDisable` may write: register fields by number, memory at 1000. -/
def W.ringDisable : Nat := 0x100000000000000000000000000000000000000000000000000000000000000000000000000000000000000000000000000000000000000000000000c0000000000020000000000000000000000000000000000000000000000000072401287a00000000000000000000000000000000000000000000000000000000000

theorem Frame.ringDisable {M : Nat} {s0 s : State} {src : Src} {p : List Byte} (hk0 : Frame M s0 s)
    (hL : W.ringDisable &&& M = W.ringDisable) : Frame M s0 (State.ringDisable s src p).1 := by
  unfold State.ringDisable
  try dsimp only
  repeat' first
    | (with_reducible assumption)
    | (split)
    | (with_reducible refine Frame.foldl ?_ ?_)
    | (exact Nat.zero_and _)
    | (exact Frame.sub hL (by decide))
    | (exact Frame.bitOf hL (by decide))
    | (intro u hu x hx)
    | (intro u hu)
    | (refine Frame.bitMem (by with_reducible assumption) ?_)
    | (refine Frame.sub_all hL (by first | decide | (simp only [List.map_cons, List.map_nil]; decide)))
    | (refine Frame.bitMemFst (by with_reducible assumption) ?_)
    | (with_reducible apply Frame.emit)
    | (with_reducible apply Frame.resume)
    | (with_reducible apply Frame.ringIdle)
    | (with_reducible apply Frame.drain)
    | (with_reducible refine Frame.fst ?_ (by with_reducible assumption))
    | (with_reducible refine Frame.snd ?_ (by with_reducible assumption))
    | (with_reducible refine Frame.mk_other ?_)
    | decide

/-- What `State.disown` may write: register fields by number, memory at 1000. -/
def W.disown : Nat := 0x0

theorem Frame.disown {M : Nat} {s0 s : State} {r : Nat} (hk0 : Frame M s0 s)
    (_hL : W.disown &&& M = W.disown) : Frame M s0 (State.disown s r) := by
  unfold State.disown
  try dsimp only
  repeat' first
    | (with_reducible assumption)
    | (split)
    | (with_reducible refine Frame.foldl ?_ ?_)
    | (exact Nat.zero_and _)
    | (intro u hu x hx)
    | (intro u hu)
    | (refine Frame.bitMem (by with_reducible assumption) ?_)
    | (refine Frame.bitMemFst (by with_reducible assumption) ?_)
    | (with_reducible apply Frame.emit)
    | (with_reducible refine Frame.fst ?_ (by with_reducible assumption))
    | (with_reducible refine Frame.snd ?_ (by with_reducible assumption))
    | (with_reducible refine Frame.mk_other ?_)
    | decide

/-- What `State.ringDestroy` may write: register fields by number, memory at 1000. -/
def W.ringDestroy : Nat := 0x400087800000000000000000000000000000000000000000000000000000000000

theorem Frame.ringDestroy {M : Nat} {s0 s : State} {src : Src} {p : List Byte} (hk0 : Frame M s0 s)
    (hL : W.ringDestroy &&& M = W.ringDestroy) : Frame M s0 (State.ringDestroy s src p).1 := by
  unfold State.ringDestroy
  try dsimp only
  repeat' first
    | (with_reducible assumption)
    | (split)
    | (with_reducible refine Frame.foldl ?_ ?_)
    | (exact Nat.zero_and _)
    | (exact Frame.sub hL (by decide))
    | (exact Frame.bitOf hL (by decide))
    | (intro u hu x hx)
    | (intro u hu)
    | (refine Frame.bitMem (by with_reducible assumption) ?_)
    | (refine Frame.sub_all hL (by first | decide | (simp only [List.map_cons, List.map_nil]; decide)))
    | (refine Frame.bitMemFst (by with_reducible assumption) ?_)
    | (with_reducible refine Frame.wr ?_ ?_)
    | (with_reducible apply Frame.emit)
    | (with_reducible apply Frame.dropWaiting)
    | (with_reducible apply Frame.disown)
    | (with_reducible apply Frame.setRing)
    | (with_reducible apply Frame.ringState)
    | (with_reducible refine Frame.fst ?_ (by with_reducible assumption))
    | (with_reducible refine Frame.snd ?_ (by with_reducible assumption))
    | (with_reducible refine Frame.mk_other ?_)
    | decide

/-- What `State.hostSleepNotice` may write: register fields by number, memory at 1000. -/
def W.hostSleepNotice : Nat := 0xc0000000000020000000000000000000000000000000000000000000000000072000000000000000000000000000000000000000000000000000000000000000000

theorem Frame.hostSleepNotice {M : Nat} {s0 s : State} {p : List Byte} (hk0 : Frame M s0 s)
    (hL : W.hostSleepNotice &&& M = W.hostSleepNotice) : Frame M s0 (State.hostSleepNotice s p).1 := by
  unfold State.hostSleepNotice
  try dsimp only
  repeat' first
    | (with_reducible assumption)
    | (split)
    | (with_reducible refine Frame.foldl ?_ ?_)
    | (exact Nat.zero_and _)
    | (exact Frame.sub hL (by decide))
    | (exact Frame.bitOf hL (by decide))
    | (intro u hu x hx)
    | (intro u hu)
    | (refine Frame.bitMem (by with_reducible assumption) ?_)
    | (refine Frame.sub_all hL (by first | decide | (simp only [List.map_cons, List.map_nil]; decide)))
    | (refine Frame.bitMemFst (by with_reducible assumption) ?_)
    | (with_reducible apply Frame.emit)
    | (with_reducible apply Frame.wake)
    | (with_reducible apply Frame.fire)
    | (with_reducible refine Frame.fst ?_ (by with_reducible assumption))
    | (with_reducible refine Frame.snd ?_ (by with_reducible assumption))
    | (with_reducible refine Frame.mk_other ?_)
    | decide

/-- What `State.applyDoorbell` may write: register fields by number, memory at 1000. -/
def W.applyDoorbell : Nat := 0x100000000000000000000000000000000000000000000000000000000000000000000000000000000000000000000000000000000000000000000000c0000000000021800000000000000000000000000000000000042d00000000072401702e00000000000000000000000000000000000000000000000000000000000

theorem Frame.applyDoorbell {M : Nat} {s0 s : State} {d : PendingDb} (hk0 : Frame M s0 s)
    (hL : W.applyDoorbell &&& M = W.applyDoorbell) : Frame M s0 (State.applyDoorbell s d) := by
  unfold State.applyDoorbell
  try dsimp only
  repeat' first
    | (with_reducible assumption)
    | (split)
    | (with_reducible refine Frame.foldl ?_ ?_)
    | (exact Nat.zero_and _)
    | (exact Frame.sub hL (by decide))
    | (exact Frame.bitOf hL (by decide))
    | (intro u hu x hx)
    | (intro u hu)
    | (refine Frame.bitMem (by with_reducible assumption) ?_)
    | (refine Frame.sub_all hL (by first | decide | (simp only [List.map_cons, List.map_nil]; decide)))
    | (refine Frame.bitMemFst (by with_reducible assumption) ?_)
    | (with_reducible refine Frame.wr ?_ ?_)
    | (with_reducible apply Frame.emit)
    | (with_reducible apply Frame.irqStatus)
    | (with_reducible apply Frame.ringError)
    | (with_reducible apply Frame.setRing)
    | (with_reducible apply Frame.pumpAll)
    | (with_reducible refine Frame.mk_other ?_)
    | decide

/-- What `State.writeDoorbell` may write: register fields by number, memory at 1000. -/
def W.writeDoorbell : Nat := 0x100000000000000000000000000000000000000000000000000000000000000000000000000000000000000000000000000000000000000000000000c0000000000021800200025f07e00800000000000000000000042d00000000072401702e00000000000000000000000000000000000000000000000000000000000

theorem Frame.writeDoorbell {M : Nat} {s0 s : State} {r : Nat} {v : Nat} {bus : Nat} (hk0 : Frame M s0 s)
    (hL : W.writeDoorbell &&& M = W.writeDoorbell) : Frame M s0 (State.writeDoorbell s r v bus) := by
  unfold State.writeDoorbell
  try dsimp only
  repeat' first
    | (with_reducible assumption)
    | (split)
    | (with_reducible refine Frame.foldl ?_ ?_)
    | (exact Nat.zero_and _)
    | (exact Frame.sub hL (by decide))
    | (exact Frame.bitOf hL (by decide))
    | (intro u hu x hx)
    | (intro u hu)
    | (refine Frame.bitMem (by with_reducible assumption) ?_)
    | (refine Frame.sub_all hL (by first | decide | (simp only [List.map_cons, List.map_nil]; decide)))
    | (refine Frame.bitMemFst (by with_reducible assumption) ?_)
    | (with_reducible apply Frame.emit)
    | (with_reducible apply Frame.applyDoorbell)
    | (with_reducible apply Frame.putDoorbells)
    | (with_reducible apply Frame.wake)
    | decide

/-- What `State.replayDoorbells` may write: register fields by number, memory at 1000. -/
def W.replayDoorbells : Nat := 0x100000000000000000000000000000000000000000000000000000000000000000000000000000000000000000000000000000000000000000000000c0000000000021800000000000000000000000000000000000042d00000000072401702e00000000000000000000000000000000000000000000000000000000000

theorem Frame.replayDoorbells {M : Nat} {s0 s : State} (hk0 : Frame M s0 s)
    (hL : W.replayDoorbells &&& M = W.replayDoorbells) : Frame M s0 (State.replayDoorbells s) := by
  unfold State.replayDoorbells
  try dsimp only
  repeat' first
    | (with_reducible assumption)
    | (split)
    | (with_reducible refine Frame.foldl ?_ ?_)
    | (exact Nat.zero_and _)
    | (exact Frame.sub hL (by decide))
    | (exact Frame.bitOf hL (by decide))
    | (intro u hu x hx)
    | (intro u hu)
    | (refine Frame.bitMem (by with_reducible assumption) ?_)
    | (refine Frame.sub_all hL (by first | decide | (simp only [List.map_cons, List.map_nil]; decide)))
    | (refine Frame.bitMemFst (by with_reducible assumption) ?_)
    | (with_reducible apply Frame.emit)
    | (with_reducible apply Frame.applyDoorbell)
    | (with_reducible apply Frame.putDoorbells)
    | decide

/-- What `State.txGo` may write: register fields by number, memory at 1000. -/
def W.txGo : Nat := 0xc0000000000020000000000000000000000000000000000000000000000000072000000000000000000000000000000000000000000000000000000000000000000

theorem Frame.txGo_at {s0 s t : State} {r i : Nat} {x : TxDesc} (h : Frame W.txGo s0 s) (e : s.txGo r i x = some t) : Frame W.txGo s0 t := by
  unfold State.txGo at e
  split at e
  · contradiction
  · split at e
    split at e
    · contradiction
    · rename_i hc
      have h1 := Frame.takeCells (hL := by decide) h hc
      dsimp only at e
      simp only [Option.some.injEq] at e
      subst e
      repeat' first
        | decide
        | (with_reducible assumption)
        | split
        | (with_reducible apply Frame.setBuf)
        | (with_reducible apply Frame.toEgress)
        | (with_reducible apply Frame.setTree)
        | (with_reducible apply Frame.setRing)

theorem Frame.txGo {M : Nat} {s0 s t : State} {r i : Nat} {x : TxDesc} (hk0 : Frame M s0 s) (e : s.txGo r i x = some t) (hL : W.txGo &&& M = W.txGo) :
    Frame M s0 t := hk0.trans ((Frame.txGo_at (Frame.refl _ _) e).mono hL)

/-- What `State.txTry` may write: register fields by number, memory at 1000. -/
def W.txTry : Nat := 0x100000000000000000000000000000000000000000000000000000000000000000000000000000000000000000000000000000000000000000000000c0000000000020000000000000000000000000000000000000000000000000072401202800000000000000000000000000000000000000000000000000000000000

theorem Frame.txTry {M : Nat} {s0 s : State} {r : Nat} {i : Nat} {busErr : Bool} (hk0 : Frame M s0 s)
    (hL : W.txTry &&& M = W.txTry) : Frame M s0 (State.txTry s r i busErr) := by
  unfold State.txTry
  try dsimp only
  repeat' first
    | (with_reducible assumption)
    | (split)
    | (with_reducible refine Frame.foldl ?_ ?_)
    | (exact Nat.zero_and _)
    | (exact Frame.sub hL (by decide))
    | (exact Frame.bitOf hL (by decide))
    | (intro u hu x hx)
    | (intro u hu)
    | (refine Frame.bitMem (by with_reducible assumption) ?_)
    | (refine Frame.sub_all hL (by first | decide | (simp only [List.map_cons, List.map_nil]; decide)))
    | (refine Frame.bitMemFst (by with_reducible assumption) ?_)
    | (with_reducible apply Frame.emit)
    | (with_reducible apply Frame.txFail)
    | (with_reducible refine Frame.txGo ?_ (by with_reducible assumption) ?_)
    | (with_reducible apply Frame.setRing)
    | (with_reducible refine Frame.fst ?_ (by with_reducible assumption))
    | (with_reducible refine Frame.snd ?_ (by with_reducible assumption))
    | (with_reducible refine Frame.mk_other ?_)
    | decide

/-- What `State.descRead` may write: register fields by number, memory at 1000. -/
def W.descRead : Nat := 0xc0000000000021800000000000000000000000000000000000000000000000072000000000000000000000000000000000000000000000000000000000000000000

theorem Frame.descRead {M : Nat} {s0 s : State} (hk0 : Frame M s0 s)
    (hL : W.descRead &&& M = W.descRead) : Frame M s0 (State.descRead s) := by
  unfold State.descRead
  try dsimp only
  repeat' first
    | (with_reducible assumption)
    | (split)
    | (with_reducible refine Frame.foldl ?_ ?_)
    | (exact Nat.zero_and _)
    | (exact Frame.sub hL (by decide))
    | (exact Frame.bitOf hL (by decide))
    | (intro u hu x hx)
    | (intro u hu)
    | (refine Frame.bitMem (by with_reducible assumption) ?_)
    | (refine Frame.sub_all hL (by first | decide | (simp only [List.map_cons, List.map_nil]; decide)))
    | (refine Frame.bitMemFst (by with_reducible assumption) ?_)
    | (with_reducible apply Frame.emit)
    | (with_reducible apply Frame.corrected)
    | (with_reducible apply Frame.logUe)
    | (with_reducible apply Frame.rewrite)
    | decide

/-- What `State.popRx` may write: register fields by number, memory at 1000. -/
def W.popRx : Nat := 0x4000000000000000000000000000000000000000000000000000000000000

theorem Frame.popRx {M : Nat} {s0 s : State} {r : Nat} (hk0 : Frame M s0 s)
    (hL : W.popRx &&& M = W.popRx) : Frame M s0 (State.popRx s r) := by
  unfold State.popRx
  try dsimp only
  repeat' first
    | (with_reducible assumption)
    | (split)
    | (with_reducible refine Frame.foldl ?_ ?_)
    | (exact Nat.zero_and _)
    | (exact Frame.sub hL (by decide))
    | (exact Frame.bitOf hL (by decide))
    | (intro u hu x hx)
    | (intro u hu)
    | (refine Frame.bitMem (by with_reducible assumption) ?_)
    | (refine Frame.sub_all hL (by first | decide | (simp only [List.map_cons, List.map_nil]; decide)))
    | (refine Frame.bitMemFst (by with_reducible assumption) ?_)
    | (with_reducible refine Frame.wr ?_ ?_)
    | (with_reducible apply Frame.emit)
    | (with_reducible apply Frame.setRing)
    | (with_reducible refine Frame.mk_other ?_)
    | decide

/-- What `State.rxPartial` may write: register fields by number, memory at 1000. -/
def W.rxPartial : Nat := 0x100000000000000000000000000000000000000000000000000000000000000000000000000000000000000000000000000000000000000000000000c0000000000020000000000000000000000000000000000000000000000000072401202a00000000000000000000000000000000000000000000000000000000000

theorem Frame.rxPartial_at {s0 s : State} {r : Nat} {f : RxFrame} {n k : Nat} (h : Frame W.rxPartial s0 s) :
    Frame W.rxPartial s0 (State.rxPartial s r f n k) := by
  induction n generalizing s k with
  | zero => exact h
  | succ n ih =>
    unfold State.rxPartial
    exact ih (Frame.writeCompletion (hL := by decide) (Frame.advanceHead (hL := by decide) (Frame.hostWrite h _ _)))

theorem Frame.rxPartial {M : Nat} {s0 s : State} {r : Nat} {f : RxFrame} {n k : Nat} (hk0 : Frame M s0 s) (hL : W.rxPartial &&& M = W.rxPartial) :
    Frame M s0 (State.rxPartial s r f n k) := hk0.trans ((Frame.rxPartial_at (Frame.refl _ _) ).mono hL)

/-- What `State.cutThrough` may write: register fields by number, memory at 1000. -/
def W.cutThrough : Nat := 0x100000000000000000000000000000000000000000000000000000000000000000000000000000000000000000000000000000000000000000000000c000000000002000000000000000000000000000000000000000000000000007240132ea00000000000000000000000000000000000000000000000000000000000

theorem Frame.cutThrough {M : Nat} {s0 s : State} {r : Nat} {f : RxFrame} {bad : Bool} (hk0 : Frame M s0 s)
    (hL : W.cutThrough &&& M = W.cutThrough) : Frame M s0 (State.cutThrough s r f bad) := by
  unfold State.cutThrough
  try dsimp only
  repeat' first
    | (with_reducible assumption)
    | (split)
    | (with_reducible refine Frame.foldl ?_ ?_)
    | (exact Nat.zero_and _)
    | (exact Frame.sub hL (by decide))
    | (exact Frame.bitOf hL (by decide))
    | (intro u hu x hx)
    | (intro u hu)
    | (refine Frame.bitMem (by with_reducible assumption) ?_)
    | (refine Frame.sub_all hL (by first | decide | (simp only [List.map_cons, List.map_nil]; decide)))
    | (refine Frame.bitMemFst (by with_reducible assumption) ?_)
    | (with_reducible apply Frame.emit)
    | (with_reducible apply Frame.rxFind)
    | (with_reducible apply Frame.popRx)
    | (with_reducible apply Frame.freeCells)
    | (with_reducible apply Frame.incWrap)
    | (with_reducible apply Frame.rxPartial)
    | (with_reducible apply Frame.rxWrite)
    | (with_reducible refine Frame.fst ?_ (by with_reducible assumption))
    | (with_reducible refine Frame.snd ?_ (by with_reducible assumption))
    | decide

/-- What `State.evOverflow` may write: register fields by number, memory at 1000. -/
def W.evOverflow : Nat := 0xc0000000000020000000000000000000000000000000000000000000000000072500000000000000000000000000000000000000000000000000000000000000000

theorem Frame.evOverflow {M : Nat} {s0 s : State} {q : Nat} {ring : Nat} (hk0 : Frame M s0 s)
    (hL : W.evOverflow &&& M = W.evOverflow) : Frame M s0 (State.evOverflow s q ring) := by
  unfold State.evOverflow
  try dsimp only
  repeat' first
    | (with_reducible assumption)
    | (split)
    | (with_reducible refine Frame.foldl ?_ ?_)
    | (exact Nat.zero_and _)
    | (exact Frame.sub hL (by decide))
    | (exact Frame.bitOf hL (by decide))
    | (intro u hu x hx)
    | (intro u hu)
    | (refine Frame.bitMem (by with_reducible assumption) ?_)
    | (refine Frame.sub_all hL (by first | decide | (simp only [List.map_cons, List.map_nil]; decide)))
    | (refine Frame.bitMemFst (by with_reducible assumption) ?_)
    | (with_reducible refine Frame.wr ?_ ?_)
    | (with_reducible apply Frame.emit)
    | (with_reducible apply Frame.setSummary)
    | (with_reducible apply Frame.fire)
    | (with_reducible apply Frame.srcEvent)
    | decide

/-- What `State.writeVecCfg` may write: register fields by number, memory at 1000. -/
def W.writeVecCfg : Nat := 0xc000000000002000000000000000000000000000000000000000000000000007f800000000000000000000000000000000000000000000000000000000000000000

theorem Frame.writeVecCfg {M : Nat} {s0 s : State} {v : Nat} {x : Nat} (hk0 : Frame M s0 s)
    (hL : W.writeVecCfg &&& M = W.writeVecCfg) : Frame M s0 (State.writeVecCfg s v x) := by
  unfold State.writeVecCfg
  try dsimp only
  repeat' first
    | (with_reducible assumption)
    | (split)
    | (with_reducible refine Frame.foldl ?_ ?_)
    | (exact Nat.zero_and _)
    | (exact Frame.sub hL (by decide))
    | (exact Frame.bitOf hL (by decide))
    | (intro u hu x hx)
    | (intro u hu)
    | (refine Frame.bitMem (by with_reducible assumption) ?_)
    | (refine Frame.sub_all hL (by first | decide | (simp only [List.map_cons, List.map_nil]; decide)))
    | (refine Frame.bitMemFst (by with_reducible assumption) ?_)
    | (with_reducible refine Frame.wr ?_ ?_)
    | (with_reducible apply Frame.emit)
    | (with_reducible apply Frame.writeFields)
    | (with_reducible apply Frame.fired)
    | (with_reducible apply Frame.overflowEvent)
    | decide

end Sys2Proof.Machine
end

