-- ==== Sys2Proof/Laws/FrameWinRead.lean ====
section
/-! SUPPORT. Which registers, and whether the memories, the operations of WinRead may write (Laws/Frame.lean). -/

namespace Sys2Proof.Machine

set_option Elab.async false
set_option linter.all false

/-- What `State.setHold` may write: register fields by number, memory at 1000. -/
def W.setHold : Nat := 0x0

theorem Frame.setHold {M : Nat} {s0 s : State} {port : Nat} {f : PortHold → PortHold} (hk0 : Frame M s0 s)
    (_hL : W.setHold &&& M = W.setHold) : Frame M s0 (State.setHold s port f) := by
  unfold State.setHold
  try dsimp only
  repeat' first
    | (with_reducible assumption)
    | (split)
    | (with_reducible refine Frame.foldl ?_ ?_)
    | (exact Nat.zero_and _)
    | (intro u hu x hx)
    | (intro u hu)
    | (refine Frame.bitMem (by with_reducible assumption) ?_)
    | (refine Frame.bitMemFst (by with_reducible assumption) ?_)
    | (with_reducible apply Frame.emit)
    | (with_reducible refine Frame.mk_other ?_)
    | decide

/-- What `State.readLatch` may write: register fields by number, memory at 1000. -/
def W.readLatch : Nat := 0x2004000000000000000

theorem Frame.readLatch {M : Nat} {s0 s : State} {r : RegInfo} {i : Nat} {port : Nat} (hk0 : Frame M s0 s) (hr : ∀ f ∈ r.flds, M.testBit f.num = true)
    (hL : W.readLatch &&& M = W.readLatch) : Frame M s0 (State.readLatch s r i port) := by
  unfold State.readLatch
  try dsimp only
  repeat' first
    | (with_reducible assumption)
    | (split)
    | (with_reducible refine Frame.foldl ?_ ?_)
    | (exact Nat.zero_and _)
    | (exact Frame.sub hL (by decide))
    | (exact Frame.bitOf hL (by decide))
    | (intro u hu x hx)
    | (intro u hu)
    | (refine Frame.bitMem (by with_reducible assumption) ?_)
    | (refine Frame.sub_all hL (by first | decide | (simp only [List.map_cons, List.map_nil]; decide)))
    | (refine Frame.bitMemFst (by with_reducible assumption) ?_)
    | (refine hr _ (by with_reducible assumption))
    | (with_reducible apply Frame.emit)
    | (with_reducible apply Frame.setHold)
    | (with_reducible refine Frame.mk_other ?_)
    | decide

/-- What `State.readClearFields` may write: register fields by number, memory at 1000. -/
def W.readClearFields : Nat := 0x0

theorem Frame.readClearFields {M : Nat} {s0 s : State} {r : RegInfo} {i : Nat} (hk0 : Frame M s0 s)
    (hr : ∀ f ∈ r.flds, M.testBit f.num = true) (_hL : W.readClearFields &&& M = W.readClearFields) :
    Frame M s0 (State.readClearFields s r i) := by
  unfold State.readClearFields
  refine Frame.foldl hk0 ?_
  intro u hu x hx
  split
  · exact Frame.wr hu (hr x hx)
  · exact hu

/-- What `State.regReadAt` may write: register fields by number, memory at 1000. -/
def W.regReadAt : Nat := 0x10000000000000000000000000000000000000000000000000000000000000000000000000000000000000000000000000000002004000000000000000

theorem Frame.regReadAt {M : Nat} {s0 s : State} {r : RegInfo} {i : Nat} {port : Nat} (hk0 : Frame M s0 s) (hr : ∀ f ∈ r.flds, M.testBit f.num = true)
    (hL : W.regReadAt &&& M = W.regReadAt) : Frame M s0 (State.regReadAt s r i port).2 := by
  unfold State.regReadAt
  try dsimp only
  repeat' first
    | (with_reducible assumption)
    | (split)
    | (with_reducible refine Frame.foldl ?_ ?_)
    | (exact Nat.zero_and _)
    | (exact Frame.sub hL (by decide))
    | (exact Frame.bitOf hL (by decide))
    | (intro u hu x hx)
    | (intro u hu)
    | (refine Frame.bitMem (by with_reducible assumption) ?_)
    | (refine Frame.sub_all hL (by first | decide | (simp only [List.map_cons, List.map_nil]; decide)))
    | (refine Frame.bitMemFst (by with_reducible assumption) ?_)
    | (refine hr _ (by with_reducible assumption))
    | (with_reducible apply Frame.emit)
    | (with_reducible apply Frame.legRead)
    | (with_reducible apply Frame.readLatch)
    | (with_reducible apply Frame.readClearFields)
    | decide

/-- What `State.latchHigh` may write: register fields by number, memory at 1000. -/
def W.latchHigh : Nat := 0x0

theorem Frame.latchHigh {M : Nat} {s0 s : State} {port : Nat} {v : Nat} (hk0 : Frame M s0 s)
    (_hL : W.latchHigh &&& M = W.latchHigh) : Frame M s0 (State.latchHigh s port v).2 := by
  unfold State.latchHigh
  try dsimp only
  repeat' first
    | (with_reducible assumption)
    | (split)
    | (with_reducible refine Frame.foldl ?_ ?_)
    | (exact Nat.zero_and _)
    | (intro u hu x hx)
    | (intro u hu)
    | (refine Frame.bitMem (by with_reducible assumption) ?_)
    | (refine Frame.bitMemFst (by with_reducible assumption) ?_)
    | (with_reducible apply Frame.emit)
    | (with_reducible apply Frame.setHold)
    | (with_reducible refine Frame.mk_other ?_)
    | decide

/-- What `State.readOff` may write: register fields by number, memory at 1000. -/
def W.readOff : Nat := 0xf001c00000

theorem Frame.readOff {M : Nat} {s0 s : State} {off : Nat} {port : Nat} {width : Nat} {half : Bool} {quiet : Bool} (hk0 : Frame M s0 s)
    (hL : W.readOff &&& M = W.readOff) : Frame M s0 (State.readOff s off port width half quiet).2 := by
  unfold State.readOff
  try dsimp only
  repeat' first
    | (with_reducible assumption)
    | (split)
    | (with_reducible refine Frame.foldl ?_ ?_)
    | (exact Nat.zero_and _)
    | (exact Frame.sub hL (by decide))
    | (exact Frame.bitOf hL (by decide))
    | (intro u hu x hx)
    | (intro u hu)
    | (refine Frame.bitMem (by with_reducible assumption) ?_)
    | (refine Frame.sub_all hL (by first | decide | (simp only [List.map_cons, List.map_nil]; decide)))
    | (refine Frame.bitMemFst (by with_reducible assumption) ?_)
    | (with_reducible apply Frame.emit)
    | (with_reducible apply Frame.accessErr)
    | (with_reducible apply Frame.setHold)
    | (with_reducible refine Frame.mk_other ?_)
    | decide

/-- What `State.readErr` may write: register fields by number, memory at 1000. -/
def W.readErr : Nat := 0xf001c00000

theorem Frame.readErr {M : Nat} {s0 s : State} {kind : Nat} {off : Nat} {port : Nat} (hk0 : Frame M s0 s)
    (hL : W.readErr &&& M = W.readErr) : Frame M s0 (State.readErr s kind off port).2 := by
  unfold State.readErr
  try dsimp only
  repeat' first
    | (with_reducible assumption)
    | (split)
    | (with_reducible refine Frame.foldl ?_ ?_)
    | (exact Nat.zero_and _)
    | (exact Frame.sub hL (by decide))
    | (exact Frame.bitOf hL (by decide))
    | (intro u hu x hx)
    | (intro u hu)
    | (refine Frame.bitMem (by with_reducible assumption) ?_)
    | (refine Frame.sub_all hL (by first | decide | (simp only [List.map_cons, List.map_nil]; decide)))
    | (refine Frame.bitMemFst (by with_reducible assumption) ?_)
    | (with_reducible apply Frame.emit)
    | (with_reducible apply Frame.accessErr)
    | decide

/-- What `State.readWidth` may write: register fields by number, memory at 1000. -/
def W.readWidth : Nat := 0xf001c00000

theorem Frame.readWidth {M : Nat} {s0 s : State} {off : Nat} {port : Nat} {width : Nat} {bytes : Nat} {on : Bool} {quiet : Bool} {act : State → Nat × State} (hk0 : Frame M s0 s) (hact : ∀ u, Frame M s0 u → Frame M s0 (act u).2)
    (hL : W.readWidth &&& M = W.readWidth) : Frame M s0 (State.readWidth s off port width bytes on quiet act).2 := by
  unfold State.readWidth
  try dsimp only
  repeat' first
    | (with_reducible assumption)
    | (split)
    | (with_reducible refine Frame.foldl ?_ ?_)
    | (exact Nat.zero_and _)
    | (exact Frame.sub hL (by decide))
    | (exact Frame.bitOf hL (by decide))
    | (intro u hu x hx)
    | (intro u hu)
    | (refine Frame.bitMem (by with_reducible assumption) ?_)
    | (refine Frame.sub_all hL (by first | decide | (simp only [List.map_cons, List.map_nil]; decide)))
    | (refine Frame.bitMemFst (by with_reducible assumption) ?_)
    | (refine hact _ ?_)
    | (refine hact _ _ ?_)
    | (refine hact _ _ _ ?_)
    | (with_reducible apply Frame.emit)
    | (with_reducible apply Frame.readErr)
    | (with_reducible apply Frame.readOff)
    | (with_reducible apply Frame.latchHigh)
    | (with_reducible refine Frame.fst ?_ (by with_reducible assumption))
    | (with_reducible refine Frame.snd ?_ (by with_reducible assumption))
    | decide

/-- What `State.readHigh` may write: register fields by number, memory at 1000. -/
def W.readHigh : Nat := 0xf001c00000

theorem Frame.readHigh {M : Nat} {s0 s : State} {off : Nat} {port : Nat} {on : Bool} {quiet : Bool} (hk0 : Frame M s0 s)
    (hL : W.readHigh &&& M = W.readHigh) : Frame M s0 (State.readHigh s off port on quiet).2 := by
  unfold State.readHigh
  try dsimp only
  repeat' first
    | (with_reducible assumption)
    | (split)
    | (with_reducible refine Frame.foldl ?_ ?_)
    | (exact Nat.zero_and _)
    | (exact Frame.sub hL (by decide))
    | (exact Frame.bitOf hL (by decide))
    | (intro u hu x hx)
    | (intro u hu)
    | (refine Frame.bitMem (by with_reducible assumption) ?_)
    | (refine Frame.sub_all hL (by first | decide | (simp only [List.map_cons, List.map_nil]; decide)))
    | (refine Frame.bitMemFst (by with_reducible assumption) ?_)
    | (with_reducible apply Frame.emit)
    | (with_reducible apply Frame.readOff)
    | decide

/-- What `State.readGroup` may write: register fields by number, memory at 1000. -/
def W.readGroup : Nat := 0xf001c00000

theorem Frame.readGroup {M : Nat} {s0 s : State} {off : Nat} {port : Nat} {width : Nat} {quiet : Bool} (hk0 : Frame M s0 s)
    (hL : W.readGroup &&& M = W.readGroup) : Frame M s0 (State.readGroup s off port width quiet).2 := by
  unfold State.readGroup
  try dsimp only
  repeat' first
    | (with_reducible assumption)
    | (split)
    | (with_reducible refine Frame.foldl ?_ ?_)
    | (exact Nat.zero_and _)
    | (exact Frame.sub hL (by decide))
    | (exact Frame.bitOf hL (by decide))
    | (intro u hu x hx)
    | (intro u hu)
    | (refine Frame.bitMem (by with_reducible assumption) ?_)
    | (refine Frame.sub_all hL (by first | decide | (simp only [List.map_cons, List.map_nil]; decide)))
    | (refine Frame.bitMemFst (by with_reducible assumption) ?_)
    | (with_reducible apply Frame.emit)
    | (with_reducible apply Frame.readWidth)
    | (with_reducible apply Frame.readHigh)
    | (with_reducible apply Frame.readErr)
    | (with_reducible refine Frame.fst ?_ (by with_reducible assumption))
    | (with_reducible refine Frame.snd ?_ (by with_reducible assumption))
    | (with_reducible refine Frame.mk_other ?_)
    | decide

/-- What `State.denyUser` may write: register fields by number, memory at 1000. -/
def W.denyUser : Nat := 0xc0000000000030680000000000000000000000000000000000000000000000072000000000000000000000000000000000000000000000000000000000000000000

theorem Frame.denyUser {M : Nat} {s0 s : State} {off : Nat} (hk0 : Frame M s0 s)
    (hL : W.denyUser &&& M = W.denyUser) : Frame M s0 (State.denyUser s off) := by
  unfold State.denyUser
  try dsimp only
  repeat' first
    | (with_reducible assumption)
    | (split)
    | (with_reducible refine Frame.foldl ?_ ?_)
    | (exact Nat.zero_and _)
    | (exact Frame.sub hL (by decide))
    | (exact Frame.bitOf hL (by decide))
    | (intro u hu x hx)
    | (intro u hu)
    | (refine Frame.bitMem (by with_reducible assumption) ?_)
    | (refine Frame.sub_all hL (by first | decide | (simp only [List.map_cons, List.map_nil]; decide)))
    | (refine Frame.bitMemFst (by with_reducible assumption) ?_)
    | (with_reducible refine Frame.wr ?_ ?_)
    | (with_reducible apply Frame.emit)
    | (with_reducible apply Frame.pmcEvent)
    | decide

end Sys2Proof.Machine
end

