-- ==== Sys2Proof/Laws/FrameTables.lean ====
section
/-! SUPPORT. Which registers, and whether the memories, the operations of Tables may write (Laws/Frame.lean). -/

namespace Sys2Proof.Machine

set_option Elab.async false
set_option linter.all false

/-- What `State.insertOne` may write: register fields by number, memory at 1000. -/
def W.insertOne : Nat := 0xc0000000000021800000000000000000000000000000000000000000000000072000000000000000000000000000000000000000000000000000000000000000000

theorem Frame.insertOne {M : Nat} {s0 s : State} {p : List Byte} (hk0 : Frame M s0 s)
    (hL : W.insertOne &&& M = W.insertOne) : Frame M s0 (State.insertOne s p).1 := by
  unfold State.insertOne
  try dsimp only
  repeat' first
    | (with_reducible assumption)
    | (split)
    | (with_reducible refine Frame.foldl ?_ ?_)
    | (exact Nat.zero_and _)
    | (exact Frame.sub hL (by decide))
    | (exact Frame.bitOf hL (by decide))
    | (intro u hu x hx)
    | (intro u hu)
    | (refine Frame.bitMem (by with_reducible assumption) ?_)
    | (refine Frame.sub_all hL (by first | decide | (simp only [List.map_cons, List.map_nil]; decide)))
    | (refine Frame.bitMemFst (by with_reducible assumption) ?_)
    | (with_reducible apply Frame.emit)
    | (with_reducible apply Frame.insert)
    | (with_reducible refine Frame.fst ?_ (by with_reducible assumption))
    | (with_reducible refine Frame.snd ?_ (by with_reducible assumption))
    | decide

/-- What `State.deleteOne` may write: register fields by number, memory at 1000. -/
def W.deleteOne : Nat := 0xc0000000000021800000000000000000000000000000000000000000000000072000000000000000000000000000000000000000000000000000000000000000000

theorem Frame.deleteOne {M : Nat} {s0 u : State} {p : List Byte} (hk0 : Frame M s0 u)
    (hL : W.deleteOne &&& M = W.deleteOne) : Frame M s0 (State.deleteOne u p).1 := by
  unfold State.deleteOne
  try dsimp only
  repeat' first
    | (with_reducible assumption)
    | (split)
    | (with_reducible refine Frame.foldl ?_ ?_)
    | (exact Nat.zero_and _)
    | (exact Frame.sub hL (by decide))
    | (exact Frame.bitOf hL (by decide))
    | (intro u hu x hx)
    | (intro u hu)
    | (refine Frame.bitMem (by with_reducible assumption) ?_)
    | (refine Frame.sub_all hL (by first | decide | (simp only [List.map_cons, List.map_nil]; decide)))
    | (refine Frame.bitMemFst (by with_reducible assumption) ?_)
    | (with_reducible apply Frame.emit)
    | (with_reducible apply Frame.readPlaces)
    | (with_reducible apply Frame.delEntry)
    | (with_reducible refine Frame.fst ?_ (by with_reducible assumption))
    | (with_reducible refine Frame.snd ?_ (by with_reducible assumption))
    | (with_reducible refine Frame.mk_other ?_)
    | decide

/-- What `State.profileRun` may write: register fields by number, memory at 1000. -/
def W.profileRun : Nat := 0x0

theorem Frame.profileRun {M : Nat} {s0 s : State} {p : List Byte} (hk0 : Frame M s0 s)
    (_hL : W.profileRun &&& M = W.profileRun) : Frame M s0 (State.profileRun s p).1 := by
  unfold State.profileRun
  try dsimp only
  repeat' first
    | (with_reducible assumption)
    | (split)
    | (with_reducible refine Frame.foldl ?_ ?_)
    | (exact Nat.zero_and _)
    | (intro u hu x hx)
    | (intro u hu)
    | (refine Frame.bitMem (by with_reducible assumption) ?_)
    | (refine Frame.bitMemFst (by with_reducible assumption) ?_)
    | (with_reducible apply Frame.emit)
    | (with_reducible apply Frame.setTabs)
    | (with_reducible refine Frame.mk_other ?_)
    | decide

/-- What `State.configRun` may write: register fields by number, memory at 1000. -/
def W.configRun : Nat := 0x0

theorem Frame.configRun {M : Nat} {s0 s : State} {p : List Byte} (hk0 : Frame M s0 s)
    (_hL : W.configRun &&& M = W.configRun) : Frame M s0 (State.configRun s p).1 := by
  unfold State.configRun
  try dsimp only
  repeat' first
    | (with_reducible assumption)
    | (split)
    | (with_reducible refine Frame.foldl ?_ ?_)
    | (exact Nat.zero_and _)
    | (intro u hu x hx)
    | (intro u hu)
    | (refine Frame.bitMem (by with_reducible assumption) ?_)
    | (refine Frame.bitMemFst (by with_reducible assumption) ?_)
    | (with_reducible apply Frame.emit)
    | (with_reducible apply Frame.setTabs)
    | (with_reducible refine Frame.mk_other ?_)
    | decide

/-- What `State.tblRun` may write: register fields by number, memory at 1000. -/
def W.tblRun : Nat := 0xc0000000000021800000000000000000000000000000000000000000000000072000000000000000000000000000000000000000000000000000000000000000000

theorem Frame.tblRun {M : Nat} {s0 s : State} {c : TblCmd} (hk0 : Frame M s0 s)
    (hL : W.tblRun &&& M = W.tblRun) : Frame M s0 (State.tblRun s c).1 := by
  unfold State.tblRun
  try dsimp only
  repeat' first
    | (with_reducible assumption)
    | (split)
    | (with_reducible refine Frame.foldl ?_ ?_)
    | (exact Nat.zero_and _)
    | (exact Frame.sub hL (by decide))
    | (exact Frame.bitOf hL (by decide))
    | (intro u hu x hx)
    | (intro u hu)
    | (refine Frame.bitMem (by with_reducible assumption) ?_)
    | (refine Frame.sub_all hL (by first | decide | (simp only [List.map_cons, List.map_nil]; decide)))
    | (refine Frame.bitMemFst (by with_reducible assumption) ?_)
    | (with_reducible apply Frame.emit)
    | (with_reducible apply Frame.insertOne)
    | (with_reducible apply Frame.deleteOne)
    | (with_reducible apply Frame.profileRun)
    | (with_reducible apply Frame.configRun)
    | decide

/-- What `State.tblBegin` may write: register fields by number, memory at 1000. -/
def W.tblBegin : Nat := 0xc03ffc000000218000000000000000000000000000000000000000020600e0872000000000000000000000000000000000000000000000000000000000000000000

theorem Frame.tblBegin_at {s0 s : State} {c : TblCmd} (h : Frame W.tblBegin s0 s) : Frame W.tblBegin s0 (State.tblBegin s c).1 := by
  unfold State.tblBegin
  dsimp only
  split
  · exact Frame.holdChannel (hL := by decide) h
  · split
    · exact Frame.holdChannel (hL := by decide) h
    · exact Frame.foldl (Frame.readFrom (hL := by decide) h) (fun u hu x hx => Frame.delEntry (_hL := by decide) hu)

theorem Frame.tblBegin {M : Nat} {s0 s : State} {c : TblCmd} (hk0 : Frame M s0 s) (hL : W.tblBegin &&& M = W.tblBegin) :
    Frame M s0 (State.tblBegin s c).1 := hk0.trans ((Frame.tblBegin_at (Frame.refl _ _) ).mono hL)

/-- What `State.tblNext` may write: register fields by number, memory at 1000. -/
def W.tblNext : Nat := 0x100000000000000000000000000000000000000000000000000000000000000000000000000000000000000000000000000000000000000000000000c03ffc00000021800000000000000000000000000000000000042d020600e0872401302a00000000000000000000000000000000000000000000000000000000000

theorem Frame.tblNext_at {s0 s : State} {n : Nat} (h : Frame W.tblNext s0 s) : Frame W.tblNext s0 (State.tblNext n s) := by
  induction n generalizing s with
  | zero => exact h
  | succ n ih =>
    unfold State.tblNext
    split
    · exact h
    · split
      · exact h
      · split
        · split
          · exact ih (Frame.answerLater (hL := by decide) (Frame.setTabs (_hL := by decide) h))
          · exact Frame.setTabs (_hL := by decide) (Frame.tblBegin (hL := by decide) h)
        · exact ih (Frame.answerLater (hL := by decide) (Frame.tblRun (hL := by decide) (Frame.setTabs (_hL := by decide) h)))

theorem Frame.tblNext {M : Nat} {s0 s : State} {n : Nat} (hk0 : Frame M s0 s) (hL : W.tblNext &&& M = W.tblNext) :
    Frame M s0 (State.tblNext n s) := hk0.trans ((Frame.tblNext_at (Frame.refl _ _) ).mono hL)

/-- What `State.tblEnd` may write: register fields by number, memory at 1000. -/
def W.tblEnd : Nat := 0x100000000000000000000000000000000000000000000000000000000000000000000000000000000000000000000000000000000000000000000000c03ffc00000021800000000000000000000000000000000000042d020600e0872401302a00000000000000000000000000000000000000000000000000000000000

theorem Frame.tblEnd {M : Nat} {s0 s : State} {src : Src} {r : Resp} (hk0 : Frame M s0 s)
    (hL : W.tblEnd &&& M = W.tblEnd) : Frame M s0 (State.tblEnd s src r) := by
  unfold State.tblEnd
  try dsimp only
  repeat' first
    | (with_reducible assumption)
    | (split)
    | (with_reducible refine Frame.foldl ?_ ?_)
    | (exact Nat.zero_and _)
    | (exact Frame.sub hL (by decide))
    | (exact Frame.bitOf hL (by decide))
    | (intro u hu x hx)
    | (intro u hu)
    | (refine Frame.bitMem (by with_reducible assumption) ?_)
    | (refine Frame.sub_all hL (by first | decide | (simp only [List.map_cons, List.map_nil]; decide)))
    | (refine Frame.bitMemFst (by with_reducible assumption) ?_)
    | (with_reducible apply Frame.emit)
    | (with_reducible apply Frame.tblNext)
    | (with_reducible apply Frame.setTabs)
    | (with_reducible apply Frame.answerLater)
    | (with_reducible refine Frame.mk_other ?_)
    | decide

/-- What `tableCommand` may write: register fields by number, memory at 1000. -/
def W.tableCommand : Nat := 0x100000000000000000000000000000000000000000000000000000000000000000000000000000000000000000000000000000000000000000000000c03ffc00000021800000000000000000000000000000000000042d020600e0872401302a00000000000000000000000000000000000000000000000000000000000

theorem Frame.tableCommand_at {s0 s : State} {code : Nat} {check state : State → List Byte → Option Resp} {src : Src} {p : List Byte}
    (h : Frame W.tableCommand s0 s) : Frame W.tableCommand s0 (Machine.tableCommand code check state s src p).1 := by
  unfold Machine.tableCommand
  dsimp only
  repeat' first
    | decide
    | (with_reducible assumption)
    | split
    | (with_reducible apply Frame.tblNext)
    | (with_reducible apply Frame.setTabs)
    | (with_reducible apply Frame.tblRun)

theorem Frame.tableCommand {M : Nat} {s0 s : State} {code : Nat} {check state : State → List Byte → Option Resp} {src : Src} {p : List Byte} (hk0 : Frame M s0 s) (hL : W.tableCommand &&& M = W.tableCommand) :
    Frame M s0 (Machine.tableCommand code check state s src p).1 := hk0.trans ((Frame.tableCommand_at (Frame.refl _ _) ).mono hL)

/-- What `State.tableStatus` may write: register fields by number, memory at 1000. -/
def W.tableStatus : Nat := 0x0

theorem Frame.tableStatus {M : Nat} {s0 s : State} {p : List Byte} (hk0 : Frame M s0 s)
    (_hL : W.tableStatus &&& M = W.tableStatus) : Frame M s0 (State.tableStatus s p).1 := by
  unfold State.tableStatus
  try dsimp only
  repeat' first
    | (with_reducible assumption)
    | (split)
    | (with_reducible refine Frame.foldl ?_ ?_)
    | (exact Nat.zero_and _)
    | (intro u hu x hx)
    | (intro u hu)
    | (refine Frame.bitMem (by with_reducible assumption) ?_)
    | (refine Frame.bitMemFst (by with_reducible assumption) ?_)
    | (with_reducible apply Frame.emit)
    | (with_reducible apply Frame.setTabs)
    | (with_reducible refine Frame.mk_other ?_)
    | decide

/-- What `State.filterSet` may write: register fields by number, memory at 1000. -/
def W.filterSet : Nat := 0x0

theorem Frame.filterSet {M : Nat} {s0 s : State} {p : List Byte} (hk0 : Frame M s0 s)
    (_hL : W.filterSet &&& M = W.filterSet) : Frame M s0 (State.filterSet s p).1 := by
  unfold State.filterSet
  try dsimp only
  repeat' first
    | (with_reducible assumption)
    | (split)
    | (with_reducible refine Frame.foldl ?_ ?_)
    | (exact Nat.zero_and _)
    | (intro u hu x hx)
    | (intro u hu)
    | (refine Frame.bitMem (by with_reducible assumption) ?_)
    | (refine Frame.bitMemFst (by with_reducible assumption) ?_)
    | (with_reducible apply Frame.emit)
    | (with_reducible apply Frame.setTabs)
    | (with_reducible refine Frame.fst ?_ (by with_reducible assumption))
    | (with_reducible refine Frame.snd ?_ (by with_reducible assumption))
    | (with_reducible refine Frame.mk_other ?_)
    | decide

/-- What `State.bulkOne` may write: register fields by number, memory at 1000. -/
def W.bulkOne : Nat := 0x100000000000000000000000000000000000000000000000000000000000000000000000000000000000000000000000000000000000000000000000c0000000000021800000000000000000000000000000000000000000000000072000000000000000000000000000000000000000000000000000000000000000000

theorem Frame.bulkOne {M : Nat} {s0 s : State} {src : Nat} {status : Nat} {replace : Bool} {i : Nat} (hk0 : Frame M s0 s)
    (hL : W.bulkOne &&& M = W.bulkOne) : Frame M s0 (State.bulkOne s src status replace i).2 := by
  unfold State.bulkOne
  try dsimp only
  repeat' first
    | (with_reducible assumption)
    | (split)
    | (with_reducible refine Frame.foldl ?_ ?_)
    | (exact Nat.zero_and _)
    | (exact Frame.sub hL (by decide))
    | (exact Frame.bitOf hL (by decide))
    | (intro u hu x hx)
    | (intro u hu)
    | (refine Frame.bitMem (by with_reducible assumption) ?_)
    | (refine Frame.sub_all hL (by first | decide | (simp only [List.map_cons, List.map_nil]; decide)))
    | (refine Frame.bitMemFst (by with_reducible assumption) ?_)
    | (with_reducible apply Frame.emit)
    | (with_reducible refine Frame.hostWrite ?_ _ _ ?_)
    | (with_reducible apply Frame.insert)
    | (with_reducible refine Frame.fst ?_ (by with_reducible assumption))
    | (with_reducible refine Frame.snd ?_ (by with_reducible assumption))
    | (with_reducible refine Frame.mk_other ?_)
    | decide

/-- What `State.bulkInsert` may write: register fields by number, memory at 1000. -/
def W.bulkInsert : Nat := 0x100000000000000000000000000000000000000000000000000000000000000000000000000000000000000000000000000000000000000000000000c0000000000021800000000000000000000000000000000000000000000000072000000000000000000000000000000000000000000000000000000000000000000

theorem Frame.bulkInsert_at {s0 s : State} {src status : Nat} {replace : Bool} {n i : Nat} (h : Frame W.bulkInsert s0 s) :
    Frame W.bulkInsert s0 (State.bulkInsert s src status replace n i).2 := by
  induction n generalizing s i with
  | zero => rw [State.bulkInsert]; exact h
  | succ n ih =>
    rw [State.bulkInsert]
    exact ih (Frame.bulkOne (hL := by decide) h)

theorem Frame.bulkInsert {M : Nat} {s0 s : State} {src status : Nat} {replace : Bool} {n i : Nat} (hk0 : Frame M s0 s) (hL : W.bulkInsert &&& M = W.bulkInsert) :
    Frame M s0 (State.bulkInsert s src status replace n i).2 := hk0.trans ((Frame.bulkInsert_at (Frame.refl _ _) ).mono hL)

/-- What `State.abortHeld` may write: register fields by number, memory at 1000. -/
def W.abortHeld : Nat := 0x100000000000000000000000000000000000000000000000000000000000000000000000000000000000000000000000000000000000000000000000c03ffc00000021800000000000000000000000000000000000042d020600e0872401302a00000000000000000000000000000000000000000000000000000000000

theorem Frame.abortHeld {M : Nat} {s0 s : State} {ch : Nat} (hk0 : Frame M s0 s)
    (hL : W.abortHeld &&& M = W.abortHeld) : Frame M s0 (State.abortHeld s ch) := by
  unfold State.abortHeld
  try dsimp only
  repeat' first
    | (with_reducible assumption)
    | (split)
    | (with_reducible refine Frame.foldl ?_ ?_)
    | (exact Nat.zero_and _)
    | (exact Frame.sub hL (by decide))
    | (exact Frame.bitOf hL (by decide))
    | (intro u hu x hx)
    | (intro u hu)
    | (refine Frame.bitMem (by with_reducible assumption) ?_)
    | (refine Frame.sub_all hL (by first | decide | (simp only [List.map_cons, List.map_nil]; decide)))
    | (refine Frame.bitMemFst (by with_reducible assumption) ?_)
    | (with_reducible apply Frame.emit)
    | (with_reducible apply Frame.tblEnd)
    | (with_reducible refine Frame.fst ?_ (by with_reducible assumption))
    | (with_reducible refine Frame.snd ?_ (by with_reducible assumption))
    | (with_reducible refine Frame.mk_other ?_)
    | decide

/-- What `State.endIngress` may write: register fields by number, memory at 1000. -/
def W.endIngress : Nat := 0x100000000000000000000000000000000000000000000000000000000000000000000000000000000000000000000000000000000000000000000000c0000000000020000000000000000000000000000000000000000000000000072401202800000000000000000000000000000000000000000000000000000000000

theorem Frame.endIngress {M : Nat} {s0 s : State} {i : Ingress} {status : Nat} (hk0 : Frame M s0 s)
    (hL : W.endIngress &&& M = W.endIngress) : Frame M s0 (State.endIngress s i status) := by
  unfold State.endIngress
  try dsimp only
  repeat' first
    | (with_reducible assumption)
    | (split)
    | (with_reducible refine Frame.foldl ?_ ?_)
    | (exact Nat.zero_and _)
    | (exact Frame.sub hL (by decide))
    | (exact Frame.bitOf hL (by decide))
    | (intro u hu x hx)
    | (intro u hu)
    | (refine Frame.bitMem (by with_reducible assumption) ?_)
    | (refine Frame.sub_all hL (by first | decide | (simp only [List.map_cons, List.map_nil]; decide)))
    | (refine Frame.bitMemFst (by with_reducible assumption) ?_)
    | (with_reducible apply Frame.emit)
    | (with_reducible apply Frame.freeCells)
    | (with_reducible apply Frame.endFrame)
    | decide

/-- What `State.queueDown` may write: register fields by number, memory at 1000. -/
def W.queueDown : Nat := 0x100000000000000000000000000000000000000000000000000000000000000000000000000000000000000000000000000000000000000000000000c0000000000021800000000000000000000000000000000000000000000000072401202800000000000000000000000000000000000000000000000000000000000

theorem Frame.queueDown {M : Nat} {s0 s : State} {i : Ingress} {term : Nat} {port : Nat} {cls : Nat} (hk0 : Frame M s0 s)
    (hL : W.queueDown &&& M = W.queueDown) : Frame M s0 (State.queueDown s i term port cls) := by
  unfold State.queueDown
  try dsimp only
  repeat' first
    | (with_reducible assumption)
    | (split)
    | (with_reducible refine Frame.foldl ?_ ?_)
    | (exact Nat.zero_and _)
    | (exact Frame.sub hL (by decide))
    | (exact Frame.bitOf hL (by decide))
    | (intro u hu x hx)
    | (intro u hu)
    | (refine Frame.bitMem (by with_reducible assumption) ?_)
    | (refine Frame.sub_all hL (by first | decide | (simp only [List.map_cons, List.map_nil]; decide)))
    | (refine Frame.bitMemFst (by with_reducible assumption) ?_)
    | (with_reducible apply Frame.emit)
    | (with_reducible apply Frame.endIngress)
    | (with_reducible apply Frame.setTree)
    | (with_reducible apply Frame.cellRead)
    | (with_reducible apply Frame.admitDeep)
    | (with_reducible apply Frame.endFrame)
    | (with_reducible refine Frame.fst ?_ (by with_reducible assumption))
    | (with_reducible refine Frame.snd ?_ (by with_reducible assumption))
    | (with_reducible refine Frame.mk_other ?_)
    | decide

/-- What `State.hitDown` may write: register fields by number, memory at 1000. -/
def W.hitDown : Nat := 0x100000000000000000000000000000000000000000000000000000000000000000000000000000000000000000000000000000000000000000000000c0000000000021800000000000000000000000000000000000000000000000072403242800000000000000000000000000000000000000000000000000000000000

theorem Frame.hitDown {M : Nat} {s0 s : State} {i : Ingress} {e : TblEntry} (hk0 : Frame M s0 s)
    (hL : W.hitDown &&& M = W.hitDown) : Frame M s0 (State.hitDown s i e) := by
  unfold State.hitDown
  try dsimp only
  repeat' first
    | (with_reducible assumption)
    | (split)
    | (with_reducible refine Frame.foldl ?_ ?_)
    | (exact Nat.zero_and _)
    | (exact Frame.sub hL (by decide))
    | (exact Frame.bitOf hL (by decide))
    | (intro u hu x hx)
    | (intro u hu)
    | (refine Frame.bitMem (by with_reducible assumption) ?_)
    | (refine Frame.sub_all hL (by first | decide | (simp only [List.map_cons, List.map_nil]; decide)))
    | (refine Frame.bitMemFst (by with_reducible assumption) ?_)
    | (with_reducible apply Frame.emit)
    | (with_reducible apply Frame.countFlow)
    | (with_reducible apply Frame.endIngress)
    | (with_reducible apply Frame.rxOffer)
    | (with_reducible apply Frame.setTabs)
    | (with_reducible apply Frame.queueDown)
    | (with_reducible refine Frame.mk_other ?_)
    | decide

/-- What `State.missDown` may write: register fields by number, memory at 1000. -/
def W.missDown : Nat := 0x100000000000000000000000000000000000000000000000000000000000000000000000000000000000000000000000000000000000000000000000c0000000000021800000000000000000000000000000000000000000000000072403242800000000000000000000000000000000000000000000000000000000000

theorem Frame.missDown {M : Nat} {s0 s : State} {i : Ingress} {q : KeyProfile} (hk0 : Frame M s0 s)
    (hL : W.missDown &&& M = W.missDown) : Frame M s0 (State.missDown s i q) := by
  unfold State.missDown
  try dsimp only
  repeat' first
    | (with_reducible assumption)
    | (split)
    | (with_reducible refine Frame.foldl ?_ ?_)
    | (exact Nat.zero_and _)
    | (exact Frame.sub hL (by decide))
    | (exact Frame.bitOf hL (by decide))
    | (intro u hu x hx)
    | (intro u hu)
    | (refine Frame.bitMem (by with_reducible assumption) ?_)
    | (refine Frame.sub_all hL (by first | decide | (simp only [List.map_cons, List.map_nil]; decide)))
    | (refine Frame.bitMemFst (by with_reducible assumption) ?_)
    | (with_reducible apply Frame.emit)
    | (with_reducible apply Frame.endIngress)
    | (with_reducible apply Frame.rxOffer)
    | (with_reducible apply Frame.queueDown)
    | decide

/-- What `State.queueLearn` may write: register fields by number, memory at 1000. -/
def W.queueLearn : Nat := 0x0

theorem Frame.queueLearn {M : Nat} {s0 s : State} {r : LearnReq} (hk0 : Frame M s0 s)
    (_hL : W.queueLearn &&& M = W.queueLearn) : Frame M s0 (State.queueLearn s r) := by
  unfold State.queueLearn
  try dsimp only
  repeat' first
    | (with_reducible assumption)
    | (split)
    | (with_reducible refine Frame.foldl ?_ ?_)
    | (exact Nat.zero_and _)
    | (intro u hu x hx)
    | (intro u hu)
    | (refine Frame.bitMem (by with_reducible assumption) ?_)
    | (refine Frame.bitMemFst (by with_reducible assumption) ?_)
    | (with_reducible apply Frame.emit)
    | (with_reducible apply Frame.setTabs)
    | (with_reducible refine Frame.mk_other ?_)
    | decide

/-- What `State.refresh` may write: register fields by number, memory at 1000. -/
def W.refresh : Nat := 0x0

theorem Frame.refresh {M : Nat} {s0 s : State} {e : TblEntry} (hk0 : Frame M s0 s)
    (_hL : W.refresh &&& M = W.refresh) : Frame M s0 (State.refresh s e) := by
  unfold State.refresh
  try dsimp only
  repeat' first
    | (with_reducible assumption)
    | (split)
    | (with_reducible refine Frame.foldl ?_ ?_)
    | (exact Nat.zero_and _)
    | (intro u hu x hx)
    | (intro u hu)
    | (refine Frame.bitMem (by with_reducible assumption) ?_)
    | (refine Frame.bitMemFst (by with_reducible assumption) ?_)
    | (with_reducible apply Frame.emit)
    | (with_reducible apply Frame.lineHit)
    | (with_reducible apply Frame.setTabs)
    | (with_reducible refine Frame.mk_other ?_)
    | decide

/-- What `State.learnLookup` may write: register fields by number, memory at 1000. -/
def W.learnLookup : Nat := 0xc0000000000021800000000000000000000000000000000000000000000000072000000000000000000000000000000000000000000000000000000000000000000

theorem Frame.learnLookup {M : Nat} {s0 s : State} {f : UsFrame} {q : KeyProfile} {pq : KeyProfile} {keep : Bool} (hk0 : Frame M s0 s)
    (hL : W.learnLookup &&& M = W.learnLookup) : Frame M s0 (State.learnLookup s f q pq keep).2 := by
  unfold State.learnLookup
  try dsimp only
  repeat' first
    | (with_reducible assumption)
    | (split)
    | (with_reducible refine Frame.foldl ?_ ?_)
    | (exact Nat.zero_and _)
    | (exact Frame.sub hL (by decide))
    | (exact Frame.bitOf hL (by decide))
    | (intro u hu x hx)
    | (intro u hu)
    | (refine Frame.bitMem (by with_reducible assumption) ?_)
    | (refine Frame.sub_all hL (by first | decide | (simp only [List.map_cons, List.map_nil]; decide)))
    | (refine Frame.bitMemFst (by with_reducible assumption) ?_)
    | (with_reducible apply Frame.emit)
    | (with_reducible apply Frame.take)
    | (with_reducible refine Frame.lookup ?_ (by with_reducible assumption) ?_)
    | (with_reducible apply Frame.countFlow)
    | (with_reducible apply Frame.refresh)
    | (with_reducible apply Frame.queueLearn)
    | (with_reducible apply Frame.setTabs)
    | (with_reducible refine Frame.fst ?_ (by with_reducible assumption))
    | (with_reducible refine Frame.snd ?_ (by with_reducible assumption))
    | (with_reducible refine Frame.mk_other ?_)
    | decide

/-- What `State.classify` may write: register fields by number, memory at 1000. -/
def W.classify : Nat := 0xc0000000000021800000000000000000000000000000000000000000000000072000000000000000000000000000000000000000000000000000000000000000000

theorem Frame.classify {M : Nat} {s0 s : State} {f : UsFrame} {keep : Bool} (hk0 : Frame M s0 s)
    (hL : W.classify &&& M = W.classify) : Frame M s0 (State.classify s f keep).2 := by
  unfold State.classify
  try dsimp only
  repeat' first
    | (with_reducible assumption)
    | (split)
    | (with_reducible refine Frame.foldl ?_ ?_)
    | (exact Nat.zero_and _)
    | (exact Frame.sub hL (by decide))
    | (exact Frame.bitOf hL (by decide))
    | (intro u hu x hx)
    | (intro u hu)
    | (refine Frame.bitMem (by with_reducible assumption) ?_)
    | (refine Frame.sub_all hL (by first | decide | (simp only [List.map_cons, List.map_nil]; decide)))
    | (refine Frame.bitMemFst (by with_reducible assumption) ?_)
    | (with_reducible apply Frame.emit)
    | (with_reducible apply Frame.setTabs)
    | (with_reducible apply Frame.learnLookup)
    | (with_reducible apply Frame.take)
    | (with_reducible refine Frame.lookup ?_ (by with_reducible assumption) ?_)
    | (with_reducible apply Frame.countFlow)
    | (with_reducible refine Frame.fst ?_ (by with_reducible assumption))
    | (with_reducible refine Frame.snd ?_ (by with_reducible assumption))
    | (with_reducible refine Frame.mk_other ?_)
    | decide

/-- What `State.disposeUp` may write: register fields by number, memory at 1000. -/
def W.disposeUp : Nat := 0xc0000000000020000000000000000000000000000000000000000000000000072002040000000000000000000000000000000000000000000000000000000000000

theorem Frame.disposeUp {M : Nat} {s0 s : State} {f : UsFrame} {v : UsVerdict} (hk0 : Frame M s0 s)
    (hL : W.disposeUp &&& M = W.disposeUp) : Frame M s0 (State.disposeUp s f v) := by
  unfold State.disposeUp
  try dsimp only
  repeat' first
    | (with_reducible assumption)
    | (split)
    | (with_reducible refine Frame.foldl ?_ ?_)
    | (exact Nat.zero_and _)
    | (exact Frame.sub hL (by decide))
    | (exact Frame.bitOf hL (by decide))
    | (intro u hu x hx)
    | (intro u hu)
    | (refine Frame.bitMem (by with_reducible assumption) ?_)
    | (refine Frame.sub_all hL (by first | decide | (simp only [List.map_cons, List.map_nil]; decide)))
    | (refine Frame.bitMemFst (by with_reducible assumption) ?_)
    | (with_reducible apply Frame.emit)
    | (with_reducible apply Frame.rxOffer)
    | (with_reducible apply Frame.freeCells)
    | (with_reducible apply Frame.toEgress)
    | (with_reducible refine Frame.fst ?_ (by with_reducible assumption))
    | (with_reducible refine Frame.snd ?_ (by with_reducible assumption))
    | (with_reducible refine Frame.mk_other ?_)
    | decide

/-- What `State.lookupOnly` may write: register fields by number, memory at 1000. -/
def W.lookupOnly : Nat := 0xc0000000000021800000000000000000000000000000000000000000000000072000000000000000000000000000000000000000000000000000000000000000000

theorem Frame.lookupOnly {M : Nat} {s0 s : State} {f : UsFrame} (hk0 : Frame M s0 s)
    (hL : W.lookupOnly &&& M = W.lookupOnly) : Frame M s0 (State.lookupOnly s f) := by
  unfold State.lookupOnly
  try dsimp only
  repeat' first
    | (with_reducible assumption)
    | (split)
    | (with_reducible refine Frame.foldl ?_ ?_)
    | (exact Nat.zero_and _)
    | (exact Frame.sub hL (by decide))
    | (exact Frame.bitOf hL (by decide))
    | (intro u hu x hx)
    | (intro u hu)
    | (refine Frame.bitMem (by with_reducible assumption) ?_)
    | (refine Frame.sub_all hL (by first | decide | (simp only [List.map_cons, List.map_nil]; decide)))
    | (refine Frame.bitMemFst (by with_reducible assumption) ?_)
    | (with_reducible apply Frame.emit)
    | (with_reducible apply Frame.classify)
    | decide

/-- What `State.ageSlot` may write: register fields by number, memory at 1000. -/
def W.ageSlot : Nat := 0xc0000000000020000000000000000000000000000000000000000000000000072000000000000000000000000000000000000000000000000000000000000000000

theorem Frame.ageSlot {M : Nat} {s0 s : State} {p : Key} (hk0 : Frame M s0 s)
    (hL : W.ageSlot &&& M = W.ageSlot) : Frame M s0 (State.ageSlot s p) := by
  unfold State.ageSlot
  try dsimp only
  repeat' first
    | (with_reducible assumption)
    | (split)
    | (with_reducible refine Frame.foldl ?_ ?_)
    | (exact Nat.zero_and _)
    | (exact Frame.sub hL (by decide))
    | (exact Frame.bitOf hL (by decide))
    | (intro u hu x hx)
    | (intro u hu)
    | (refine Frame.bitMem (by with_reducible assumption) ?_)
    | (refine Frame.sub_all hL (by first | decide | (simp only [List.map_cons, List.map_nil]; decide)))
    | (refine Frame.bitMemFst (by with_reducible assumption) ?_)
    | (with_reducible apply Frame.emit)
    | (with_reducible apply Frame.putEntry)
    | (with_reducible apply Frame.delEntry)
    | (with_reducible apply Frame.setTabs)
    | (with_reducible apply Frame.blockEvent)
    | (with_reducible refine Frame.fst ?_ (by with_reducible assumption))
    | (with_reducible refine Frame.snd ?_ (by with_reducible assumption))
    | (with_reducible refine Frame.mk_other ?_)
    | decide

/-- What `State.scrubCache` may write: register fields by number, memory at 1000. -/
def W.scrubCache : Nat := 0xc0000000000021800000000000000000000000000000000000000000000000072000000000000000000000000000000000000000000000000000000000000000000

theorem Frame.scrubCache {M : Nat} {s0 s : State} {line : Nat} (hk0 : Frame M s0 s)
    (hL : W.scrubCache &&& M = W.scrubCache) : Frame M s0 (State.scrubCache s line) := by
  unfold State.scrubCache
  try dsimp only
  repeat' first
    | (with_reducible assumption)
    | (split)
    | (with_reducible refine Frame.foldl ?_ ?_)
    | (exact Nat.zero_and _)
    | (exact Frame.sub hL (by decide))
    | (exact Frame.bitOf hL (by decide))
    | (intro u hu x hx)
    | (intro u hu)
    | (refine Frame.bitMem (by with_reducible assumption) ?_)
    | (refine Frame.sub_all hL (by first | decide | (simp only [List.map_cons, List.map_nil]; decide)))
    | (refine Frame.bitMemFst (by with_reducible assumption) ?_)
    | (with_reducible apply Frame.emit)
    | (with_reducible apply Frame.lineRead)
    | (with_reducible apply Frame.corrected)
    | (with_reducible apply Frame.rewriteWord)
    | (with_reducible apply Frame.logUe)
    | (with_reducible refine Frame.fst ?_ (by with_reducible assumption))
    | (with_reducible refine Frame.snd ?_ (by with_reducible assumption))
    | (with_reducible refine Frame.mk_other ?_)
    | decide

end Sys2Proof.Machine
end

