-- ==== Sys2Proof/Laws/FrameRake.lean ====
section
/-! SUPPORT. Which registers, and whether the memories, the operations of Rake may write (Laws/Frame.lean). -/

namespace Sys2Proof.Machine

set_option Elab.async false
set_option linter.all false

/-- What `State.setChan` may write: register fields by number, memory at 1000. -/
def W.setChan : Nat := 0x0

theorem Frame.setChan {M : Nat} {s0 s : State} {c : Nat} {x : RakeChan} (hk0 : Frame M s0 s)
    (_hL : W.setChan &&& M = W.setChan) : Frame M s0 (State.setChan s c x) := by
  unfold State.setChan
  try dsimp only
  repeat' first
    | (with_reducible assumption)
    | (split)
    | (with_reducible refine Frame.foldl ?_ ?_)
    | (exact Nat.zero_and _)
    | (intro u hu x hx)
    | (intro u hu)
    | (refine Frame.bitMem (by with_reducible assumption) ?_)
    | (refine Frame.bitMemFst (by with_reducible assumption) ?_)
    | (with_reducible apply Frame.emit)
    | (with_reducible refine Frame.mk_other ?_)
    | decide

/-- What `State.showProg` may write: register fields by number, memory at 1000. -/
def W.showProg : Nat := 0x7ffc00000000000000000000000000000000000000000000000000000000000000000000000000000000000000000000000000000000000000000000000000000

theorem Frame.showProg {M : Nat} {s0 s : State} {c : Nat} {p : RakeProg} (hk0 : Frame M s0 s)
    (hL : W.showProg &&& M = W.showProg) : Frame M s0 (State.showProg s c p) := by
  unfold State.showProg
  try dsimp only
  repeat' first
    | (with_reducible assumption)
    | (split)
    | (with_reducible refine Frame.foldl ?_ ?_)
    | (exact Nat.zero_and _)
    | (exact Frame.sub hL (by decide))
    | (exact Frame.bitOf hL (by decide))
    | (intro u hu x hx)
    | (intro u hu)
    | (refine Frame.bitMem (by with_reducible assumption) ?_)
    | (refine Frame.sub_all hL (by first | decide | (simp only [List.map_cons, List.map_nil]; decide)))
    | (refine Frame.bitMemFst (by with_reducible assumption) ?_)
    | (with_reducible refine Frame.wr ?_ ?_)
    | (with_reducible apply Frame.emit)
    | decide

/-- What `State.setPos` may write: register fields by number, memory at 1000. -/
def W.setPos : Nat := 0x60000000000000000000000000000000000000000000000000000000000000000000000000

theorem Frame.setPos {M : Nat} {s0 s : State} {c : Nat} {pos : Nat} (hk0 : Frame M s0 s)
    (hL : W.setPos &&& M = W.setPos) : Frame M s0 (State.setPos s c pos) := by
  unfold State.setPos
  try dsimp only
  repeat' first
    | (with_reducible assumption)
    | (split)
    | (with_reducible refine Frame.foldl ?_ ?_)
    | (exact Nat.zero_and _)
    | (exact Frame.sub hL (by decide))
    | (exact Frame.bitOf hL (by decide))
    | (intro u hu x hx)
    | (intro u hu)
    | (refine Frame.bitMem (by with_reducible assumption) ?_)
    | (refine Frame.sub_all hL (by first | decide | (simp only [List.map_cons, List.map_nil]; decide)))
    | (refine Frame.bitMemFst (by with_reducible assumption) ?_)
    | (with_reducible refine Frame.wr ?_ ?_)
    | (with_reducible apply Frame.emit)
    | (with_reducible apply Frame.setChan)
    | (with_reducible refine Frame.mk_other ?_)
    | decide

/-- What `State.rakeHalt` may write: register fields by number, memory at 1000. -/
def W.rakeHalt : Nat := 0xc0000000000020000000000000000000000000000000000000000000404120072000000000000000000000000000000000000000000000000000000000000000000

theorem Frame.rakeHalt {M : Nat} {s0 s : State} {c : Nat} {cause : Nat} {addr : Nat} (hk0 : Frame M s0 s)
    (hL : W.rakeHalt &&& M = W.rakeHalt) : Frame M s0 (State.rakeHalt s c cause addr) := by
  unfold State.rakeHalt
  try dsimp only
  repeat' first
    | (with_reducible assumption)
    | (split)
    | (with_reducible refine Frame.foldl ?_ ?_)
    | (exact Nat.zero_and _)
    | (exact Frame.sub hL (by decide))
    | (exact Frame.bitOf hL (by decide))
    | (intro u hu x hx)
    | (intro u hu)
    | (refine Frame.bitMem (by with_reducible assumption) ?_)
    | (refine Frame.sub_all hL (by first | decide | (simp only [List.map_cons, List.map_nil]; decide)))
    | (refine Frame.bitMemFst (by with_reducible assumption) ?_)
    | (with_reducible refine Frame.wr ?_ ?_)
    | (with_reducible apply Frame.emit)
    | (with_reducible apply Frame.setChan)
    | (with_reducible apply Frame.chEvent)
    | (with_reducible refine Frame.mk_other ?_)
    | decide

/-- What `State.burstFail` may write: register fields by number, memory at 1000. -/
def W.burstFail : Nat := 0xc0000000000020000000000000000000000000000000000000000000404520072000000000000000000000000000000000000000000000000000000000000000000

theorem Frame.burstFail {M : Nat} {s0 s : State} {c : Nat} {cause : Nat} {addr : Nat} (hk0 : Frame M s0 s)
    (hL : W.burstFail &&& M = W.burstFail) : Frame M s0 (State.burstFail s c cause addr) := by
  unfold State.burstFail
  try dsimp only
  repeat' first
    | (with_reducible assumption)
    | (split)
    | (with_reducible refine Frame.foldl ?_ ?_)
    | (exact Nat.zero_and _)
    | (exact Frame.sub hL (by decide))
    | (exact Frame.bitOf hL (by decide))
    | (intro u hu x hx)
    | (intro u hu)
    | (refine Frame.bitMem (by with_reducible assumption) ?_)
    | (refine Frame.sub_all hL (by first | decide | (simp only [List.map_cons, List.map_nil]; decide)))
    | (refine Frame.bitMemFst (by with_reducible assumption) ?_)
    | (with_reducible apply Frame.emit)
    | (with_reducible apply Frame.rakeHalt)
    | (with_reducible apply Frame.setChan)
    | (with_reducible apply Frame.incSat)
    | (with_reducible apply Frame.blockEvent)
    | (with_reducible refine Frame.mk_other ?_)
    | decide

/-- What `State.rakeRun` may write: register fields by number, memory at 1000. -/
def W.rakeRun : Nat := 0x20000000000000000000000000000000000000000000000000000000000000000000000

theorem Frame.rakeRun {M : Nat} {s0 s : State} {c : Nat} (hk0 : Frame M s0 s)
    (hL : W.rakeRun &&& M = W.rakeRun) : Frame M s0 (State.rakeRun s c) := by
  unfold State.rakeRun
  try dsimp only
  repeat' first
    | (with_reducible assumption)
    | (split)
    | (with_reducible refine Frame.foldl ?_ ?_)
    | (exact Nat.zero_and _)
    | (exact Frame.sub hL (by decide))
    | (exact Frame.bitOf hL (by decide))
    | (intro u hu x hx)
    | (intro u hu)
    | (refine Frame.bitMem (by with_reducible assumption) ?_)
    | (refine Frame.sub_all hL (by first | decide | (simp only [List.map_cons, List.map_nil]; decide)))
    | (refine Frame.bitMemFst (by with_reducible assumption) ?_)
    | (with_reducible refine Frame.wr ?_ ?_)
    | (with_reducible apply Frame.emit)
    | decide

/-- What `State.fetchDesc` may write: register fields by number, memory at 1000. -/
def W.fetchDesc : Nat := 0xc07ffc00000020000000000000000000000000000000000000000000664120072000000000000000000000000000000000000000000000000000000000000000000

theorem Frame.fetchDesc {M : Nat} {s0 s : State} {c : Nat} {addr : Nat} (hk0 : Frame M s0 s)
    (hL : W.fetchDesc &&& M = W.fetchDesc) : Frame M s0 (State.fetchDesc s c addr) := by
  unfold State.fetchDesc
  try dsimp only
  repeat' first
    | (with_reducible assumption)
    | (split)
    | (with_reducible refine Frame.foldl ?_ ?_)
    | (exact Nat.zero_and _)
    | (exact Frame.sub hL (by decide))
    | (exact Frame.bitOf hL (by decide))
    | (intro u hu x hx)
    | (intro u hu)
    | (refine Frame.bitMem (by with_reducible assumption) ?_)
    | (refine Frame.sub_all hL (by first | decide | (simp only [List.map_cons, List.map_nil]; decide)))
    | (refine Frame.bitMemFst (by with_reducible assumption) ?_)
    | (with_reducible refine Frame.wr ?_ ?_)
    | (with_reducible apply Frame.emit)
    | (with_reducible apply Frame.showProg)
    | (with_reducible apply Frame.setChan)
    | (with_reducible apply Frame.rakeHalt)
    | (with_reducible apply Frame.setPos)
    | (with_reducible refine Frame.fst ?_ (by with_reducible assumption))
    | (with_reducible refine Frame.snd ?_ (by with_reducible assumption))
    | (with_reducible refine Frame.mk_other ?_)
    | decide

/-- What `State.followLink` may write: register fields by number, memory at 1000. -/
def W.followLink : Nat := 0xc07ffc00000020000000000000000000000000000000000000000001664d20072000000000000000000000000000000000000000000000000000000000000000000

theorem Frame.followLink {M : Nat} {s0 s : State} {c : Nat} {kick : Bool} (hk0 : Frame M s0 s)
    (hL : W.followLink &&& M = W.followLink) : Frame M s0 (State.followLink s c kick) := by
  unfold State.followLink
  try dsimp only
  repeat' first
    | (with_reducible assumption)
    | (split)
    | (with_reducible refine Frame.foldl ?_ ?_)
    | (exact Nat.zero_and _)
    | (exact Frame.sub hL (by decide))
    | (exact Frame.bitOf hL (by decide))
    | (intro u hu x hx)
    | (intro u hu)
    | (refine Frame.bitMem (by with_reducible assumption) ?_)
    | (refine Frame.sub_all hL (by first | decide | (simp only [List.map_cons, List.map_nil]; decide)))
    | (refine Frame.bitMemFst (by with_reducible assumption) ?_)
    | (with_reducible refine Frame.wr ?_ ?_)
    | (with_reducible apply Frame.emit)
    | (with_reducible apply Frame.setChan)
    | (with_reducible apply Frame.incSat)
    | (with_reducible apply Frame.rakeHalt)
    | (with_reducible apply Frame.chEvent)
    | (with_reducible apply Frame.fetchDesc)
    | (with_reducible refine Frame.mk_other ?_)
    | decide

/-- What `State.openFence` may write: register fields by number, memory at 1000. -/
def W.openFence : Nat := 0xc0000000000020000000000000000000000000000000000000000000002000072000000000000000000000000000000000000000000000000000000000000000000

theorem Frame.openFence {M : Nat} {s0 s : State} {c : Nat} {desc : Bool} (hk0 : Frame M s0 s)
    (hL : W.openFence &&& M = W.openFence) : Frame M s0 (State.openFence s c desc) := by
  unfold State.openFence
  try dsimp only
  repeat' first
    | (with_reducible assumption)
    | (split)
    | (with_reducible refine Frame.foldl ?_ ?_)
    | (exact Nat.zero_and _)
    | (exact Frame.sub hL (by decide))
    | (exact Frame.bitOf hL (by decide))
    | (intro u hu x hx)
    | (intro u hu)
    | (refine Frame.bitMem (by with_reducible assumption) ?_)
    | (refine Frame.sub_all hL (by first | decide | (simp only [List.map_cons, List.map_nil]; decide)))
    | (refine Frame.bitMemFst (by with_reducible assumption) ?_)
    | (with_reducible apply Frame.emit)
    | (with_reducible apply Frame.chEvent)
    | (with_reducible apply Frame.setChan)
    | (with_reducible refine Frame.mk_other ?_)
    | decide

/-- What `State.programDone` may write: register fields by number, memory at 1000. -/
def W.programDone : Nat := 0xc07ffc00000020000000000000000000000000000000000000000005667d20072000000000000000000000000000000000000000000000000000000000000000000

theorem Frame.programDone {M : Nat} {s0 s : State} {c : Nat} (hk0 : Frame M s0 s)
    (hL : W.programDone &&& M = W.programDone) : Frame M s0 (State.programDone s c) := by
  unfold State.programDone
  try dsimp only
  repeat' first
    | (with_reducible assumption)
    | (split)
    | (with_reducible refine Frame.foldl ?_ ?_)
    | (exact Nat.zero_and _)
    | (exact Frame.sub hL (by decide))
    | (exact Frame.bitOf hL (by decide))
    | (intro u hu x hx)
    | (intro u hu)
    | (refine Frame.bitMem (by with_reducible assumption) ?_)
    | (refine Frame.sub_all hL (by first | decide | (simp only [List.map_cons, List.map_nil]; decide)))
    | (refine Frame.bitMemFst (by with_reducible assumption) ?_)
    | (with_reducible refine Frame.wr ?_ ?_)
    | (with_reducible apply Frame.emit)
    | (with_reducible apply Frame.chEvent)
    | (with_reducible apply Frame.incSat)
    | (with_reducible apply Frame.openFence)
    | (with_reducible apply Frame.followLink)
    | decide

/-- What `State.burstDone` may write: register fields by number, memory at 1000. -/
def W.burstDone : Nat := 0xc07ffc00000020000000000000000000000000000000000000000007667d20072000000000000000000000000000000000000000000000000000000000000000000

theorem Frame.burstDone {M : Nat} {s0 s : State} {c : Nat} {len : Nat} (hk0 : Frame M s0 s)
    (hL : W.burstDone &&& M = W.burstDone) : Frame M s0 (State.burstDone s c len) := by
  unfold State.burstDone
  try dsimp only
  repeat' first
    | (with_reducible assumption)
    | (split)
    | (with_reducible refine Frame.foldl ?_ ?_)
    | (exact Nat.zero_and _)
    | (exact Frame.sub hL (by decide))
    | (exact Frame.bitOf hL (by decide))
    | (intro u hu x hx)
    | (intro u hu)
    | (refine Frame.bitMem (by with_reducible assumption) ?_)
    | (refine Frame.sub_all hL (by first | decide | (simp only [List.map_cons, List.map_nil]; decide)))
    | (refine Frame.bitMemFst (by with_reducible assumption) ?_)
    | (with_reducible apply Frame.emit)
    | (with_reducible apply Frame.setChan)
    | (with_reducible apply Frame.setPos)
    | (with_reducible apply Frame.incSat)
    | (with_reducible apply Frame.blockEvent)
    | (with_reducible apply Frame.programDone)
    | (with_reducible refine Frame.mk_other ?_)
    | decide

/-- What `State.burstIssued` may write: register fields by number, memory at 1000. -/
def W.burstIssued : Nat := 0x0

theorem Frame.burstIssued {M : Nat} {s0 s : State} {c : Nat} {b : Burst} {data : List Byte} (hk0 : Frame M s0 s)
    (_hL : W.burstIssued &&& M = W.burstIssued) : Frame M s0 (State.burstIssued s c b data) := by
  unfold State.burstIssued
  try dsimp only
  repeat' first
    | (with_reducible assumption)
    | (split)
    | (with_reducible refine Frame.foldl ?_ ?_)
    | (exact Nat.zero_and _)
    | (intro u hu x hx)
    | (intro u hu)
    | (refine Frame.bitMem (by with_reducible assumption) ?_)
    | (refine Frame.bitMemFst (by with_reducible assumption) ?_)
    | (with_reducible apply Frame.emit)
    | (with_reducible apply Frame.setChan)
    | (with_reducible refine Frame.mk_other ?_)
    | decide

/-- What `State.sendWrite` may write: register fields by number, memory at 1000. -/
def W.sendWrite : Nat := 0xc0000000000020000000000000000000000000020010000000000000000000072000000000000000000000000000000000000000000000000000000000000000000

theorem Frame.sendWrite {M : Nat} {s0 s : State} {c : Nat} {b : Burst} {data : List Byte} (hk0 : Frame M s0 s)
    (hL : W.sendWrite &&& M = W.sendWrite) : Frame M s0 (State.sendWrite s c b data) := by
  unfold State.sendWrite
  try dsimp only
  repeat' first
    | (with_reducible assumption)
    | (split)
    | (with_reducible refine Frame.foldl ?_ ?_)
    | (exact Nat.zero_and _)
    | (exact Frame.sub hL (by decide))
    | (exact Frame.bitOf hL (by decide))
    | (intro u hu x hx)
    | (intro u hu)
    | (refine Frame.bitMem (by with_reducible assumption) ?_)
    | (refine Frame.sub_all hL (by first | decide | (simp only [List.map_cons, List.map_nil]; decide)))
    | (refine Frame.bitMemFst (by with_reducible assumption) ?_)
    | (with_reducible apply Frame.emit)
    | (with_reducible apply Frame.take)
    | (with_reducible apply Frame.setChan)
    | (with_reducible apply Frame.sendTo)
    | (with_reducible refine Frame.fst ?_ (by with_reducible assumption))
    | (with_reducible refine Frame.snd ?_ (by with_reducible assumption))
    | (with_reducible refine Frame.mk_other ?_)
    | decide

/-- What `State.sendRead` may write: register fields by number, memory at 1000. -/
def W.sendRead : Nat := 0xc0000000000020000000000000000000000000020010000000000000000000072000000000000000000000000000000000000000000000000000000000000000000

theorem Frame.sendRead {M : Nat} {s0 s : State} {c : Nat} {b : Burst} (hk0 : Frame M s0 s)
    (hL : W.sendRead &&& M = W.sendRead) : Frame M s0 (State.sendRead s c b) := by
  unfold State.sendRead
  try dsimp only
  repeat' first
    | (with_reducible assumption)
    | (split)
    | (with_reducible refine Frame.foldl ?_ ?_)
    | (exact Nat.zero_and _)
    | (exact Frame.sub hL (by decide))
    | (exact Frame.bitOf hL (by decide))
    | (intro u hu x hx)
    | (intro u hu)
    | (refine Frame.bitMem (by with_reducible assumption) ?_)
    | (refine Frame.sub_all hL (by first | decide | (simp only [List.map_cons, List.map_nil]; decide)))
    | (refine Frame.bitMemFst (by with_reducible assumption) ?_)
    | (with_reducible apply Frame.emit)
    | (with_reducible apply Frame.setChan)
    | (with_reducible apply Frame.sendTo)
    | (with_reducible refine Frame.fst ?_ (by with_reducible assumption))
    | (with_reducible refine Frame.snd ?_ (by with_reducible assumption))
    | (with_reducible refine Frame.mk_other ?_)
    | decide

/-- What `State.burstWrite` may write: register fields by number, memory at 1000. -/
def W.burstWrite : Nat := 0x100000000000000000000000000000000000000000000000000000000000000000000000000000000000000000000000000000000000000000000000c07ffc00000020000000000000000000000000020010000000000007667d20072000000000000000000000000000000000000000000000000000000000000000000

theorem Frame.burstWrite {M : Nat} {s0 s : State} {c : Nat} {b : Burst} {data : List Byte} (hk0 : Frame M s0 s)
    (hL : W.burstWrite &&& M = W.burstWrite) : Frame M s0 (State.burstWrite s c b data) := by
  unfold State.burstWrite
  try dsimp only
  repeat' first
    | (with_reducible assumption)
    | (split)
    | (with_reducible refine Frame.foldl ?_ ?_)
    | (exact Nat.zero_and _)
    | (exact Frame.sub hL (by decide))
    | (exact Frame.bitOf hL (by decide))
    | (intro u hu x hx)
    | (intro u hu)
    | (refine Frame.bitMem (by with_reducible assumption) ?_)
    | (refine Frame.sub_all hL (by first | decide | (simp only [List.map_cons, List.map_nil]; decide)))
    | (refine Frame.bitMemFst (by with_reducible assumption) ?_)
    | (with_reducible apply Frame.emit)
    | (with_reducible refine Frame.hostWrite ?_ _ _ ?_)
    | (with_reducible apply Frame.burstIssued)
    | (with_reducible apply Frame.burstDone)
    | (with_reducible apply Frame.setChan)
    | (with_reducible apply Frame.burstFail)
    | (with_reducible apply Frame.sendWrite)
    | (with_reducible refine Frame.fst ?_ (by with_reducible assumption))
    | (with_reducible refine Frame.snd ?_ (by with_reducible assumption))
    | (with_reducible refine Frame.mk_scratch ?_ ?_)
    | (with_reducible refine Frame.mk_other ?_)
    | decide

/-- What `State.takeTel` may write: register fields by number, memory at 1000. -/
def W.takeTel : Nat := 0x800000000000000000000000000000000000000000000000000000000000000000000000000000000000000000000000000000000000000000000000000

theorem Frame.takeTel {M : Nat} {s0 s : State} {c : Nat} {n : Nat} (hk0 : Frame M s0 s)
    (hL : W.takeTel &&& M = W.takeTel) : Frame M s0 (State.takeTel s c n).2 := by
  unfold State.takeTel
  try dsimp only
  repeat' first
    | (with_reducible assumption)
    | (split)
    | (with_reducible refine Frame.foldl ?_ ?_)
    | (exact Nat.zero_and _)
    | (exact Frame.sub hL (by decide))
    | (exact Frame.bitOf hL (by decide))
    | (intro u hu x hx)
    | (intro u hu)
    | (refine Frame.bitMem (by with_reducible assumption) ?_)
    | (refine Frame.sub_all hL (by first | decide | (simp only [List.map_cons, List.map_nil]; decide)))
    | (refine Frame.bitMemFst (by with_reducible assumption) ?_)
    | (with_reducible apply Frame.emit)
    | (with_reducible apply Frame.take)
    | (with_reducible apply Frame.setTel)
    | (with_reducible apply Frame.setChan)
    | (with_reducible refine Frame.mk_other ?_)
    | decide

/-- What `State.startRefused` may write: register fields by number, memory at 1000. -/
def W.startRefused : Nat := 0xc0000000000020000000000000000000000000000000000000000000008080072000000000000000000000000000000000000000000000000000000000000000000

theorem Frame.startRefused {M : Nat} {s0 s : State} {c : Nat} {code : Option Nat} (hk0 : Frame M s0 s)
    (hL : W.startRefused &&& M = W.startRefused) : Frame M s0 (State.startRefused s c code) := by
  unfold State.startRefused
  try dsimp only
  repeat' first
    | (with_reducible assumption)
    | (split)
    | (with_reducible refine Frame.foldl ?_ ?_)
    | (exact Nat.zero_and _)
    | (exact Frame.sub hL (by decide))
    | (exact Frame.bitOf hL (by decide))
    | (intro u hu x hx)
    | (intro u hu)
    | (refine Frame.bitMem (by with_reducible assumption) ?_)
    | (refine Frame.sub_all hL (by first | decide | (simp only [List.map_cons, List.map_nil]; decide)))
    | (refine Frame.bitMemFst (by with_reducible assumption) ?_)
    | (with_reducible refine Frame.wr ?_ ?_)
    | (with_reducible apply Frame.emit)
    | (with_reducible apply Frame.chEvent)
    | (with_reducible refine Frame.fst ?_ (by with_reducible assumption))
    | (with_reducible refine Frame.snd ?_ (by with_reducible assumption))
    | (with_reducible refine Frame.mk_other ?_)
    | decide

/-- What `State.rakeStart` may write: register fields by number, memory at 1000. -/
def W.rakeStart : Nat := 0xc07ffc0000002000000000000000000000000000000000000000000666c7a0072000000000000000000000000000000000000000000000000000000000000000000

theorem Frame.rakeStart {M : Nat} {s0 s : State} {c : Nat} (hk0 : Frame M s0 s)
    (hL : W.rakeStart &&& M = W.rakeStart) : Frame M s0 (State.rakeStart s c) := by
  unfold State.rakeStart
  try dsimp only
  repeat' first
    | (with_reducible assumption)
    | (split)
    | (with_reducible refine Frame.foldl ?_ ?_)
    | (exact Nat.zero_and _)
    | (exact Frame.sub hL (by decide))
    | (exact Frame.bitOf hL (by decide))
    | (intro u hu x hx)
    | (intro u hu)
    | (refine Frame.bitMem (by with_reducible assumption) ?_)
    | (refine Frame.sub_all hL (by first | decide | (simp only [List.map_cons, List.map_nil]; decide)))
    | (refine Frame.bitMemFst (by with_reducible assumption) ?_)
    | (with_reducible refine Frame.wr ?_ ?_)
    | (with_reducible apply Frame.emit)
    | (with_reducible apply Frame.startRefused)
    | (with_reducible apply Frame.wrB)
    | (with_reducible apply Frame.setChan)
    | (with_reducible apply Frame.fetchDesc)
    | (with_reducible apply Frame.setPos)
    | (with_reducible apply Frame.rakeRun)
    | (with_reducible refine Frame.fst ?_ (by with_reducible assumption))
    | (with_reducible refine Frame.snd ?_ (by with_reducible assumption))
    | (with_reducible refine Frame.mk_other ?_)
    | decide

/-- What `State.rakeResume` may write: register fields by number, memory at 1000. -/
def W.rakeResume : Nat := 0xc07ffc00000020000000000000000000000000000000000000000001664d20072000000000000000000000000000000000000000000000000000000000000000000

theorem Frame.rakeResume {M : Nat} {s0 s : State} {c : Nat} (hk0 : Frame M s0 s)
    (hL : W.rakeResume &&& M = W.rakeResume) : Frame M s0 (State.rakeResume s c) := by
  unfold State.rakeResume
  try dsimp only
  repeat' first
    | (with_reducible assumption)
    | (split)
    | (with_reducible refine Frame.foldl ?_ ?_)
    | (exact Nat.zero_and _)
    | (exact Frame.sub hL (by decide))
    | (exact Frame.bitOf hL (by decide))
    | (intro u hu x hx)
    | (intro u hu)
    | (refine Frame.bitMem (by with_reducible assumption) ?_)
    | (refine Frame.sub_all hL (by first | decide | (simp only [List.map_cons, List.map_nil]; decide)))
    | (refine Frame.bitMemFst (by with_reducible assumption) ?_)
    | (with_reducible refine Frame.wr ?_ ?_)
    | (with_reducible apply Frame.emit)
    | (with_reducible apply Frame.fetchDesc)
    | (with_reducible apply Frame.rakeRun)
    | (with_reducible apply Frame.followLink)
    | decide

/-- What `State.rakeFence` may write: register fields by number, memory at 1000. -/
def W.rakeFence : Nat := 0xc0000000000020000000000000000000000000000000000000000000002000072000000000000000000000000000000000000000000000000000000000000000000

theorem Frame.rakeFence {M : Nat} {s0 s : State} {c : Nat} (hk0 : Frame M s0 s)
    (hL : W.rakeFence &&& M = W.rakeFence) : Frame M s0 (State.rakeFence s c) := by
  unfold State.rakeFence
  try dsimp only
  repeat' first
    | (with_reducible assumption)
    | (split)
    | (with_reducible refine Frame.foldl ?_ ?_)
    | (exact Nat.zero_and _)
    | (exact Frame.sub hL (by decide))
    | (exact Frame.bitOf hL (by decide))
    | (intro u hu x hx)
    | (intro u hu)
    | (refine Frame.bitMem (by with_reducible assumption) ?_)
    | (refine Frame.sub_all hL (by first | decide | (simp only [List.map_cons, List.map_nil]; decide)))
    | (refine Frame.bitMemFst (by with_reducible assumption) ?_)
    | (with_reducible apply Frame.emit)
    | (with_reducible apply Frame.openFence)
    | decide

/-- What `State.rakeDisable` may write: register fields by number, memory at 1000. -/
def W.rakeDisable : Nat := 0x100000000000000000000000000000000000000000000000000000000000000000000000000000000000000000000000000000000000000000000000c03ffc00000021800000000000000000000000000000000000042d060600e0872401302a00000000000000000000000000000000000000000000000000000000000

theorem Frame.rakeDisable {M : Nat} {s0 s : State} {c : Nat} (hk0 : Frame M s0 s)
    (hL : W.rakeDisable &&& M = W.rakeDisable) : Frame M s0 (State.rakeDisable s c) := by
  unfold State.rakeDisable
  try dsimp only
  repeat' first
    | (with_reducible assumption)
    | (split)
    | (with_reducible refine Frame.foldl ?_ ?_)
    | (exact Nat.zero_and _)
    | (exact Frame.sub hL (by decide))
    | (exact Frame.bitOf hL (by decide))
    | (intro u hu x hx)
    | (intro u hu)
    | (refine Frame.bitMem (by with_reducible assumption) ?_)
    | (refine Frame.sub_all hL (by first | decide | (simp only [List.map_cons, List.map_nil]; decide)))
    | (refine Frame.bitMemFst (by with_reducible assumption) ?_)
    | (with_reducible refine Frame.wr ?_ ?_)
    | (with_reducible apply Frame.emit)
    | (with_reducible apply Frame.abortHeld)
    | (with_reducible apply Frame.answerLater)
    | (with_reducible apply Frame.pumpAll)
    | (with_reducible apply Frame.setMon)
    | (with_reducible apply Frame.setChan)
    | (with_reducible apply Frame.wrFree)
    | (with_reducible refine Frame.mk_other ?_)
    | decide

/-- What `State.writeDmaCtl` may write: register fields by number, memory at 1000. -/
def W.writeDmaCtl : Nat := 0x100000000000000000000000000000000000000000000000000000000000000000000000000000000000000000000000000000000000000000000000c07ffc00000021800000000000000000000000000000000000042d0766efe1ff2401302a00000000000000000000000000000000000000000000000000000000000

theorem Frame.writeDmaCtl {M : Nat} {s0 s : State} {c : Nat} {v : Nat} (hk0 : Frame M s0 s)
    (hL : W.writeDmaCtl &&& M = W.writeDmaCtl) : Frame M s0 (State.writeDmaCtl s c v) := by
  unfold State.writeDmaCtl
  try dsimp only
  repeat' first
    | (with_reducible assumption)
    | (split)
    | (with_reducible refine Frame.foldl ?_ ?_)
    | (exact Nat.zero_and _)
    | (exact Frame.sub hL (by decide))
    | (exact Frame.bitOf hL (by decide))
    | (intro u hu x hx)
    | (intro u hu)
    | (refine Frame.bitMem (by with_reducible assumption) ?_)
    | (refine Frame.sub_all hL (by first | decide | (simp only [List.map_cons, List.map_nil]; decide)))
    | (refine Frame.bitMemFst (by with_reducible assumption) ?_)
    | (with_reducible apply Frame.emit)
    | (with_reducible apply Frame.writeFields)
    | (with_reducible apply Frame.rakeDisable)
    | (with_reducible apply Frame.rakeStart)
    | (with_reducible apply Frame.rakeFence)
    | (with_reducible apply Frame.rakeResume)
    | decide

/-- What `State.rakeKick` may write: register fields by number, memory at 1000. -/
def W.rakeKick : Nat := 0xc07ffc00000020000000000000000000000000000000000000000001664d20072000000000000000000000000000000000000000000000000000000000000000000

theorem Frame.rakeKick {M : Nat} {s0 s : State} {c : Nat} (hk0 : Frame M s0 s)
    (hL : W.rakeKick &&& M = W.rakeKick) : Frame M s0 (State.rakeKick s c) := by
  unfold State.rakeKick
  try dsimp only
  repeat' first
    | (with_reducible assumption)
    | (split)
    | (with_reducible refine Frame.foldl ?_ ?_)
    | (exact Nat.zero_and _)
    | (exact Frame.sub hL (by decide))
    | (exact Frame.bitOf hL (by decide))
    | (intro u hu x hx)
    | (intro u hu)
    | (refine Frame.bitMem (by with_reducible assumption) ?_)
    | (refine Frame.sub_all hL (by first | decide | (simp only [List.map_cons, List.map_nil]; decide)))
    | (refine Frame.bitMemFst (by with_reducible assumption) ?_)
    | (with_reducible apply Frame.emit)
    | (with_reducible apply Frame.followLink)
    | (with_reducible apply Frame.incSat)
    | decide

/-- What `State.haltAt` may write: register fields by number, memory at 1000. -/
def W.haltAt : Nat := 0xc0000000000020000000000000000000000000000000000000000002464120072000000000000000000000000000000000000000000000000000000000000000000

theorem Frame.haltAt {M : Nat} {s0 s : State} {c : Nat} {cause : Nat} {i : RakeIssued} (hk0 : Frame M s0 s)
    (hL : W.haltAt &&& M = W.haltAt) : Frame M s0 (State.haltAt s c cause i) := by
  unfold State.haltAt
  try dsimp only
  repeat' first
    | (with_reducible assumption)
    | (split)
    | (with_reducible refine Frame.foldl ?_ ?_)
    | (exact Nat.zero_and _)
    | (exact Frame.sub hL (by decide))
    | (exact Frame.bitOf hL (by decide))
    | (intro u hu x hx)
    | (intro u hu)
    | (refine Frame.bitMem (by with_reducible assumption) ?_)
    | (refine Frame.sub_all hL (by first | decide | (simp only [List.map_cons, List.map_nil]; decide)))
    | (refine Frame.bitMemFst (by with_reducible assumption) ?_)
    | (with_reducible refine Frame.wr ?_ ?_)
    | (with_reducible apply Frame.emit)
    | (with_reducible apply Frame.rakeHalt)
    | (with_reducible apply Frame.setChan)
    | (with_reducible apply Frame.setPos)
    | (with_reducible refine Frame.mk_other ?_)
    | decide

/-- What `State.remoteWriteFail` may write: register fields by number, memory at 1000. -/
def W.remoteWriteFail : Nat := 0xc0000000000020000000000000000000000000020010000000000002464520072000000000000000000000000000000000000000000000000000000000000000000

theorem Frame.remoteWriteFail {M : Nat} {s0 s : State} {c : Nat} {w : RemoteWrite} (hk0 : Frame M s0 s)
    (hL : W.remoteWriteFail &&& M = W.remoteWriteFail) : Frame M s0 (State.remoteWriteFail s c w) := by
  unfold State.remoteWriteFail
  try dsimp only
  repeat' first
    | (with_reducible assumption)
    | (split)
    | (with_reducible refine Frame.foldl ?_ ?_)
    | (exact Nat.zero_and _)
    | (exact Frame.sub hL (by decide))
    | (exact Frame.bitOf hL (by decide))
    | (intro u hu x hx)
    | (intro u hu)
    | (refine Frame.bitMem (by with_reducible assumption) ?_)
    | (refine Frame.sub_all hL (by first | decide | (simp only [List.map_cons, List.map_nil]; decide)))
    | (refine Frame.bitMemFst (by with_reducible assumption) ?_)
    | (with_reducible apply Frame.emit)
    | (with_reducible apply Frame.haltAt)
    | (with_reducible apply Frame.setChan)
    | (with_reducible apply Frame.incSat)
    | (with_reducible apply Frame.blockEvent)
    | (with_reducible apply Frame.sendTo)
    | (with_reducible refine Frame.fst ?_ (by with_reducible assumption))
    | (with_reducible refine Frame.snd ?_ (by with_reducible assumption))
    | (with_reducible refine Frame.mk_other ?_)
    | decide

/-- What `State.remoteWritten` may write: register fields by number, memory at 1000. -/
def W.remoteWritten : Nat := 0x0

theorem Frame.remoteWritten {M : Nat} {s0 s : State} {c : Nat} {w : RemoteWrite} (hk0 : Frame M s0 s)
    (_hL : W.remoteWritten &&& M = W.remoteWritten) : Frame M s0 (State.remoteWritten s c w) := by
  unfold State.remoteWritten
  try dsimp only
  repeat' first
    | (with_reducible assumption)
    | (split)
    | (with_reducible refine Frame.foldl ?_ ?_)
    | (exact Nat.zero_and _)
    | (intro u hu x hx)
    | (intro u hu)
    | (refine Frame.bitMem (by with_reducible assumption) ?_)
    | (refine Frame.bitMemFst (by with_reducible assumption) ?_)
    | (with_reducible apply Frame.emit)
    | (with_reducible apply Frame.setChan)
    | (with_reducible refine Frame.mk_other ?_)
    | decide

/-- What `State.remoteAnswer` may write: register fields by number, memory at 1000. -/
def W.remoteAnswer : Nat := 0x100000000000000000000000000000000000000000000000000000000000000000000000000000000000000000000000000000000000000000000000c07ffc00000020000000000000000000000000020010000000000007667d20072000000000000000000000000000000000000000000000000000000000000000000

theorem Frame.remoteAnswer {M : Nat} {s0 s : State} {m : RemoteRsp} (hk0 : Frame M s0 s)
    (hL : W.remoteAnswer &&& M = W.remoteAnswer) : Frame M s0 (State.remoteAnswer s m) := by
  unfold State.remoteAnswer
  try dsimp only
  repeat' first
    | (with_reducible assumption)
    | (split)
    | (with_reducible refine Frame.foldl ?_ ?_)
    | (exact Nat.zero_and _)
    | (exact Frame.sub hL (by decide))
    | (exact Frame.bitOf hL (by decide))
    | (intro u hu x hx)
    | (intro u hu)
    | (refine Frame.bitMem (by with_reducible assumption) ?_)
    | (refine Frame.sub_all hL (by first | decide | (simp only [List.map_cons, List.map_nil]; decide)))
    | (refine Frame.bitMemFst (by with_reducible assumption) ?_)
    | (with_reducible apply Frame.emit)
    | (with_reducible apply Frame.remoteWriteFail)
    | (with_reducible apply Frame.remoteWritten)
    | (with_reducible apply Frame.burstFail)
    | (with_reducible apply Frame.setChan)
    | (with_reducible apply Frame.burstWrite)
    | (with_reducible apply Frame.take)
    | (with_reducible refine Frame.fst ?_ (by with_reducible assumption))
    | (with_reducible refine Frame.snd ?_ (by with_reducible assumption))
    | (with_reducible refine Frame.mk_other ?_)
    | decide

end Sys2Proof.Machine
end

