-- ==== Sys2Proof/Laws/FrameFabric.lean ====
section
/-! SUPPORT. Which registers, and whether the memories, the operations of Fabric may write (Laws/Frame.lean). -/

namespace Sys2Proof.Machine

set_option Elab.async false
set_option linter.all false

/-- What `State.laneHunt` may write: register fields by number, memory at 1000. -/
def W.laneHunt : Nat := 0xc000000000002000000000000000000000003fe26f00030000000000000000072000000000000000000000000000000000000000000000000000000000000000000

theorem Frame.laneHunt {M : Nat} {s0 s : State} {l : Nat} {role : Nat} {vs : List Bool} {prev : Nat} (hk0 : Frame M s0 s)
    (hL : W.laneHunt &&& M = W.laneHunt) : Frame M s0 (State.laneHunt s l role vs prev) := by
  unfold State.laneHunt
  try dsimp only
  repeat' first
    | (with_reducible assumption)
    | (split)
    | (with_reducible refine Frame.foldl ?_ ?_)
    | (exact Nat.zero_and _)
    | (exact Frame.sub hL (by decide))
    | (exact Frame.bitOf hL (by decide))
    | (intro u hu x hx)
    | (intro u hu)
    | (refine Frame.bitMem (by with_reducible assumption) ?_)
    | (refine Frame.sub_all hL (by first | decide | (simp only [List.map_cons, List.map_nil]; decide)))
    | (refine Frame.bitMemFst (by with_reducible assumption) ?_)
    | (with_reducible apply Frame.emit)
    | (with_reducible apply Frame.setLink)
    | (with_reducible apply Frame.wrB)
    | (with_reducible apply Frame.lockLost)
    | (with_reducible refine Frame.mk_other ?_)
    | decide

/-- What `State.laneLos` may write: register fields by number, memory at 1000. -/
def W.laneLos : Nat := 0xc000000000002000000000000000000000003fe26f00030000000000000000072000000000000000000000000000000000000000000000000000000000000000000

theorem Frame.laneLos {M : Nat} {s0 s : State} {l : Nat} {role : Nat} (hk0 : Frame M s0 s)
    (hL : W.laneLos &&& M = W.laneLos) : Frame M s0 (State.laneLos s l role) := by
  unfold State.laneLos
  try dsimp only
  repeat' first
    | (with_reducible assumption)
    | (split)
    | (with_reducible refine Frame.foldl ?_ ?_)
    | (exact Nat.zero_and _)
    | (exact Frame.sub hL (by decide))
    | (exact Frame.bitOf hL (by decide))
    | (intro u hu x hx)
    | (intro u hu)
    | (refine Frame.bitMem (by with_reducible assumption) ?_)
    | (refine Frame.sub_all hL (by first | decide | (simp only [List.map_cons, List.map_nil]; decide)))
    | (refine Frame.bitMemFst (by with_reducible assumption) ?_)
    | (with_reducible apply Frame.emit)
    | (with_reducible apply Frame.setLink)
    | (with_reducible apply Frame.wrB)
    | (with_reducible apply Frame.lockLost)
    | (with_reducible refine Frame.mk_other ?_)
    | decide

/-- What `State.hearWord` may write: register fields by number, memory at 1000. -/
def W.hearWord : Nat := 0xc000000000002000000000000000000000003fe26f00030000000000000000072000000000000000000000000000000000000000000000000000000000000000000

theorem Frame.hearWord {M : Nat} {s0 s : State} {l : Nat} {typed : Bool} {bs : List LaneBlock} (hk0 : Frame M s0 s)
    (hL : W.hearWord &&& M = W.hearWord) : Frame M s0 (State.hearWord s l typed bs) := by
  unfold State.hearWord
  try dsimp only
  repeat' first
    | (with_reducible assumption)
    | (split)
    | (with_reducible refine Frame.foldl ?_ ?_)
    | (exact Nat.zero_and _)
    | (exact Frame.sub hL (by decide))
    | (exact Frame.bitOf hL (by decide))
    | (intro u hu x hx)
    | (intro u hu)
    | (refine Frame.bitMem (by with_reducible assumption) ?_)
    | (refine Frame.sub_all hL (by first | decide | (simp only [List.map_cons, List.map_nil]; decide)))
    | (refine Frame.bitMemFst (by with_reducible assumption) ?_)
    | (with_reducible apply Frame.emit)
    | (with_reducible apply Frame.laneHunt)
    | decide

/-- What `State.hearWords` may write: register fields by number, memory at 1000. -/
def W.hearWords : Nat := 0xc000000000002000000000000000000000003fe26f00030000000000000000072000000000000000000000000000000000000000000000000000000000000000000

theorem Frame.hearWords_at {s0 s : State} {l : Nat} {ws : List (List LaneBlock)} (h : Frame W.hearWords s0 s) : Frame W.hearWords s0 (State.hearWords s l ws).1 := by
  induction ws generalizing s with
  | nil => exact h
  | cons w r ih =>
    unfold State.hearWords
    exact ih (Frame.hearWord (hL := by decide) h)

theorem Frame.hearWords {M : Nat} {s0 s : State} {l : Nat} {ws : List (List LaneBlock)} (hk0 : Frame M s0 s) (hL : W.hearWords &&& M = W.hearWords) :
    Frame M s0 (State.hearWords s l ws).1 := hk0.trans ((Frame.hearWords_at (Frame.refl _ _) ).mono hL)

/-- What `State.sendHello` may write: register fields by number, memory at 1000. -/
def W.sendHello : Nat := 0xc0000000000020000000000000000000000000020000000000000000000000072000000000000000000000000000000000000000000000000000000000000000000

theorem Frame.sendHello {M : Nat} {s0 s : State} {l : Nat} (hk0 : Frame M s0 s)
    (hL : W.sendHello &&& M = W.sendHello) : Frame M s0 (State.sendHello s l) := by
  unfold State.sendHello
  try dsimp only
  repeat' first
    | (with_reducible assumption)
    | (split)
    | (with_reducible refine Frame.foldl ?_ ?_)
    | (exact Nat.zero_and _)
    | (exact Frame.sub hL (by decide))
    | (exact Frame.bitOf hL (by decide))
    | (intro u hu x hx)
    | (intro u hu)
    | (refine Frame.bitMem (by with_reducible assumption) ?_)
    | (refine Frame.sub_all hL (by first | decide | (simp only [List.map_cons, List.map_nil]; decide)))
    | (refine Frame.bitMemFst (by with_reducible assumption) ?_)
    | (with_reducible apply Frame.emit)
    | (with_reducible apply Frame.setLink)
    | (with_reducible apply Frame.linkSend)
    | (with_reducible refine Frame.mk_other ?_)
    | decide

/-- What `State.gainLock` may write: register fields by number, memory at 1000. -/
def W.gainLock : Nat := 0xc0000000000020000000000000000000000000021100030000000000000000072000000000000000000000000000000000000000000000000000000000000000000

theorem Frame.gainLock {M : Nat} {s0 s : State} {l : Nat} {skew : Nat} (hk0 : Frame M s0 s)
    (hL : W.gainLock &&& M = W.gainLock) : Frame M s0 (State.gainLock s l skew) := by
  unfold State.gainLock
  try dsimp only
  repeat' first
    | (with_reducible assumption)
    | (split)
    | (with_reducible refine Frame.foldl ?_ ?_)
    | (exact Nat.zero_and _)
    | (exact Frame.sub hL (by decide))
    | (exact Frame.bitOf hL (by decide))
    | (intro u hu x hx)
    | (intro u hu)
    | (refine Frame.bitMem (by with_reducible assumption) ?_)
    | (refine Frame.sub_all hL (by first | decide | (simp only [List.map_cons, List.map_nil]; decide)))
    | (refine Frame.bitMemFst (by with_reducible assumption) ?_)
    | (with_reducible refine Frame.wr ?_ ?_)
    | (with_reducible apply Frame.emit)
    | (with_reducible apply Frame.linkState)
    | (with_reducible apply Frame.setLink)
    | (with_reducible apply Frame.sendHello)
    | (with_reducible refine Frame.mk_other ?_)
    | decide

/-- What `State.codewordBad` may write: register fields by number, memory at 1000. -/
def W.codewordBad : Nat := 0xc000000000002000000000000000000000003fe36902030000000000000000072000000000000000000000000000000000000000000000000000000000000000000

theorem Frame.codewordBad {M : Nat} {s0 s : State} {l : Nat} (hk0 : Frame M s0 s)
    (hL : W.codewordBad &&& M = W.codewordBad) : Frame M s0 (State.codewordBad s l) := by
  unfold State.codewordBad
  try dsimp only
  repeat' first
    | (with_reducible assumption)
    | (split)
    | (with_reducible refine Frame.foldl ?_ ?_)
    | (exact Nat.zero_and _)
    | (exact Frame.sub hL (by decide))
    | (exact Frame.bitOf hL (by decide))
    | (intro u hu x hx)
    | (intro u hu)
    | (refine Frame.bitMem (by with_reducible assumption) ?_)
    | (refine Frame.sub_all hL (by first | decide | (simp only [List.map_cons, List.map_nil]; decide)))
    | (refine Frame.bitMemFst (by with_reducible assumption) ?_)
    | (with_reducible apply Frame.emit)
    | (with_reducible apply Frame.incSat)
    | (with_reducible apply Frame.setLink)
    | (with_reducible apply Frame.fabEvent)
    | (with_reducible apply Frame.lockLost)
    | (with_reducible refine Frame.mk_other ?_)
    | decide

/-- What `State.codewordGood` may write: register fields by number, memory at 1000. -/
def W.codewordGood : Nat := 0xc0000000000020000000000000000000000000028000000000000000000000072000000000000000000000000000000000000000000000000000000000000000000

theorem Frame.codewordGood {M : Nat} {s0 s : State} {l : Nat} {corrected : Nat} {bs : List LaneBlock} (hk0 : Frame M s0 s)
    (hL : W.codewordGood &&& M = W.codewordGood) : Frame M s0 (State.codewordGood s l corrected bs) := by
  unfold State.codewordGood
  try dsimp only
  repeat' first
    | (with_reducible assumption)
    | (split)
    | (with_reducible refine Frame.foldl ?_ ?_)
    | (exact Nat.zero_and _)
    | (exact Frame.sub hL (by decide))
    | (exact Frame.bitOf hL (by decide))
    | (intro u hu x hx)
    | (intro u hu)
    | (refine Frame.bitMem (by with_reducible assumption) ?_)
    | (refine Frame.sub_all hL (by first | decide | (simp only [List.map_cons, List.map_nil]; decide)))
    | (refine Frame.bitMemFst (by with_reducible assumption) ?_)
    | (with_reducible apply Frame.emit)
    | (with_reducible apply Frame.incSat)
    | (with_reducible apply Frame.corrected)
    | (with_reducible apply Frame.linkPump)
    | (with_reducible apply Frame.setLink)
    | (with_reducible refine Frame.mk_other ?_)
    | decide

/-- What `State.codewordIn` may write: register fields by number, memory at 1000. -/
def W.codewordIn : Nat := 0xc000000000002000000000000000000000003fe3e902030000000000000000072000000000000000000000000000000000000000000000000000000000000000000

theorem Frame.codewordIn {M : Nat} {s0 s : State} {l : Nat} {d : List LaneBlock} (hk0 : Frame M s0 s)
    (hL : W.codewordIn &&& M = W.codewordIn) : Frame M s0 (State.codewordIn s l d) := by
  unfold State.codewordIn
  try dsimp only
  repeat' first
    | (with_reducible assumption)
    | (split)
    | (with_reducible refine Frame.foldl ?_ ?_)
    | (exact Nat.zero_and _)
    | (exact Frame.sub hL (by decide))
    | (exact Frame.bitOf hL (by decide))
    | (intro u hu x hx)
    | (intro u hu)
    | (refine Frame.bitMem (by with_reducible assumption) ?_)
    | (refine Frame.sub_all hL (by first | decide | (simp only [List.map_cons, List.map_nil]; decide)))
    | (refine Frame.bitMemFst (by with_reducible assumption) ?_)
    | (with_reducible apply Frame.emit)
    | (with_reducible apply Frame.codewordBad)
    | (with_reducible apply Frame.codewordGood)
    | (with_reducible refine Frame.fst ?_ (by with_reducible assumption))
    | (with_reducible refine Frame.snd ?_ (by with_reducible assumption))
    | (with_reducible refine Frame.mk_other ?_)
    | decide

/-- What `State.cellSeen` may write: register fields by number, memory at 1000. -/
def W.cellSeen : Nat := 0xc0000000000020000000000000000000000000040000000000000000000000072000000000000000000000000000000000000000000000000000000000000000000

theorem Frame.cellSeen {M : Nat} {s0 s : State} {l : Nat} {k : Nat} (hk0 : Frame M s0 s)
    (hL : W.cellSeen &&& M = W.cellSeen) : Frame M s0 (State.cellSeen s l k) := by
  unfold State.cellSeen
  try dsimp only
  repeat' first
    | (with_reducible assumption)
    | (split)
    | (with_reducible refine Frame.foldl ?_ ?_)
    | (exact Nat.zero_and _)
    | (exact Frame.sub hL (by decide))
    | (exact Frame.bitOf hL (by decide))
    | (intro u hu x hx)
    | (intro u hu)
    | (refine Frame.bitMem (by with_reducible assumption) ?_)
    | (refine Frame.sub_all hL (by first | decide | (simp only [List.map_cons, List.map_nil]; decide)))
    | (refine Frame.bitMemFst (by with_reducible assumption) ?_)
    | (with_reducible apply Frame.emit)
    | (with_reducible apply Frame.incWrap)
    | (with_reducible apply Frame.blockEvent)
    | (with_reducible apply Frame.setLink)
    | (with_reducible refine Frame.mk_other ?_)
    | decide

/-- What `State.helloIn` may write: register fields by number, memory at 1000. -/
def W.helloIn : Nat := 0xc000000000002000000000000000000000003fe26901130400000000000000072000000000000000000000000000000000000000000000000000000000000000000

theorem Frame.helloIn {M : Nat} {s0 s : State} {l : Nat} {h : Hello} (hk0 : Frame M s0 s)
    (hL : W.helloIn &&& M = W.helloIn) : Frame M s0 (State.helloIn s l h) := by
  unfold State.helloIn
  try dsimp only
  repeat' first
    | (with_reducible assumption)
    | (split)
    | (with_reducible refine Frame.foldl ?_ ?_)
    | (exact Nat.zero_and _)
    | (exact Frame.sub hL (by decide))
    | (exact Frame.bitOf hL (by decide))
    | (intro u hu x hx)
    | (intro u hu)
    | (refine Frame.bitMem (by with_reducible assumption) ?_)
    | (refine Frame.sub_all hL (by first | decide | (simp only [List.map_cons, List.map_nil]; decide)))
    | (refine Frame.bitMemFst (by with_reducible assumption) ?_)
    | (with_reducible refine Frame.wr ?_ ?_)
    | (with_reducible apply Frame.emit)
    | (with_reducible apply Frame.adjRemove)
    | (with_reducible apply Frame.fabEvent)
    | (with_reducible apply Frame.setLink)
    | (with_reducible apply Frame.adjChanged)
    | (with_reducible apply Frame.adjForm)
    | (with_reducible refine Frame.mk_other ?_)
    | decide

/-- What `State.cellDrop` may write: register fields by number, memory at 1000. -/
def W.cellDrop : Nat := 0xc0000000000020000000000000000000000000000000000000000000000000072000000000000000000000000000000000000000000000000000000000000000000

theorem Frame.cellDrop {M : Nat} {s0 s : State} {f : Fld} (hk0 : Frame M s0 s) (hf : M.testBit f.num = true)
    (hL : W.cellDrop &&& M = W.cellDrop) : Frame M s0 (State.cellDrop s f) := by
  unfold State.cellDrop
  try dsimp only
  repeat' first
    | (with_reducible assumption)
    | (split)
    | (with_reducible refine Frame.foldl ?_ ?_)
    | (exact Nat.zero_and _)
    | (exact Frame.sub hL (by decide))
    | (exact Frame.bitOf hL (by decide))
    | (intro u hu x hx)
    | (intro u hu)
    | (refine Frame.bitMem (by with_reducible assumption) ?_)
    | (refine Frame.sub_all hL (by first | decide | (simp only [List.map_cons, List.map_nil]; decide)))
    | (refine Frame.bitMemFst (by with_reducible assumption) ?_)
    | (with_reducible apply Frame.emit)
    | (with_reducible apply Frame.incSat)
    | (with_reducible apply Frame.blockEvent)
    | decide

/-- What `State.cellForward` may write: register fields by number, memory at 1000. -/
def W.cellForward : Nat := 0xc0000000000020000000000000000000000000020010000000000000000000072000000000000000000000000000000000000000000000000000000000000000000

theorem Frame.cellForward {M : Nat} {s0 s : State} {c : List Byte} (hk0 : Frame M s0 s)
    (hL : W.cellForward &&& M = W.cellForward) : Frame M s0 (State.cellForward s c) := by
  unfold State.cellForward
  try dsimp only
  repeat' first
    | (with_reducible assumption)
    | (split)
    | (with_reducible refine Frame.foldl ?_ ?_)
    | (exact Nat.zero_and _)
    | (exact Frame.sub hL (by decide))
    | (exact Frame.bitOf hL (by decide))
    | (intro u hu x hx)
    | (intro u hu)
    | (refine Frame.bitMem (by with_reducible assumption) ?_)
    | (refine Frame.sub_all hL (by first | decide | (simp only [List.map_cons, List.map_nil]; decide)))
    | (refine Frame.bitMemFst (by with_reducible assumption) ?_)
    | (with_reducible apply Frame.emit)
    | (with_reducible apply Frame.blockEvent)
    | (with_reducible apply Frame.sendTo)
    | decide

/-- What `State.cellIn` may write: register fields by number, memory at 1000. -/
def W.cellIn : Nat := 0xc0000000000020000000000000000000000000020070000000000000000000072000000000000000000000000000000000000000000000000000000000000000000

theorem Frame.cellIn {M : Nat} {s0 s : State} {l : Nat} {c : List Byte} (hk0 : Frame M s0 s)
    (hL : W.cellIn &&& M = W.cellIn) : Frame M s0 (State.cellIn s l c) := by
  unfold State.cellIn
  try dsimp only
  repeat' first
    | (with_reducible assumption)
    | (split)
    | (with_reducible refine Frame.foldl ?_ ?_)
    | (exact Nat.zero_and _)
    | (exact Frame.sub hL (by decide))
    | (exact Frame.bitOf hL (by decide))
    | (intro u hu x hx)
    | (intro u hu)
    | (refine Frame.bitMem (by with_reducible assumption) ?_)
    | (refine Frame.sub_all hL (by first | decide | (simp only [List.map_cons, List.map_nil]; decide)))
    | (refine Frame.bitMemFst (by with_reducible assumption) ?_)
    | (with_reducible apply Frame.emit)
    | (with_reducible apply Frame.cellDrop)
    | (with_reducible apply Frame.flood)
    | (with_reducible apply Frame.blockEvent)
    | (with_reducible apply Frame.cellForward)
    | decide

/-- What `State.floodOn` may write: register fields by number, memory at 1000. -/
def W.floodOn : Nat := 0xc0000000000020000000000000000000000000020000000000000000000000072000000000000000000000000000000000000000000000000000000000000000000

theorem Frame.floodOn {M : Nat} {s0 s : State} {l : Nat} {c : List Byte} (hk0 : Frame M s0 s)
    (hL : W.floodOn &&& M = W.floodOn) : Frame M s0 (State.floodOn s l c) := by
  unfold State.floodOn
  try dsimp only
  repeat' first
    | (with_reducible assumption)
    | (split)
    | (with_reducible refine Frame.foldl ?_ ?_)
    | (exact Nat.zero_and _)
    | (exact Frame.sub hL (by decide))
    | (exact Frame.bitOf hL (by decide))
    | (intro u hu x hx)
    | (intro u hu)
    | (refine Frame.bitMem (by with_reducible assumption) ?_)
    | (refine Frame.sub_all hL (by first | decide | (simp only [List.map_cons, List.map_nil]; decide)))
    | (refine Frame.bitMemFst (by with_reducible assumption) ?_)
    | (with_reducible apply Frame.emit)
    | (with_reducible apply Frame.flood)
    | (with_reducible apply Frame.blockEvent)
    | decide

/-- What `State.claimIn` may write: register fields by number, memory at 1000. -/
def W.claimIn : Nat := 0xc0000000000020000000000000000000000000020000180600000000000000072000000000000000000000000000000000000000000000000000000000000000000

theorem Frame.claimIn {M : Nat} {s0 s : State} {l : Nat} {c : List Byte} (hk0 : Frame M s0 s)
    (hL : W.claimIn &&& M = W.claimIn) : Frame M s0 (State.claimIn s l c) := by
  unfold State.claimIn
  try dsimp only
  repeat' first
    | (with_reducible assumption)
    | (split)
    | (with_reducible refine Frame.foldl ?_ ?_)
    | (exact Nat.zero_and _)
    | (exact Frame.sub hL (by decide))
    | (exact Frame.bitOf hL (by decide))
    | (intro u hu x hx)
    | (intro u hu)
    | (refine Frame.bitMem (by with_reducible assumption) ?_)
    | (refine Frame.sub_all hL (by first | decide | (simp only [List.map_cons, List.map_nil]; decide)))
    | (refine Frame.bitMemFst (by with_reducible assumption) ?_)
    | (with_reducible apply Frame.emit)
    | (with_reducible refine Frame.floodNew ?_ (by with_reducible assumption) ?_)
    | (with_reducible apply Frame.putFab)
    | (with_reducible apply Frame.floodOn)
    | (with_reducible apply Frame.rivalClaim)
    | (with_reducible refine Frame.fst ?_ (by with_reducible assumption))
    | (with_reducible refine Frame.snd ?_ (by with_reducible assumption))
    | (with_reducible refine Frame.mk_other ?_)
    | decide

/-- What `State.holdAddr` may write: register fields by number, memory at 1000. -/
def W.holdAddr : Nat := 0xc0000000000020000000000000000000000000020000040600000000000000072000000000000000000000000000000000000000000000000000000000000000000

theorem Frame.holdAddr {M : Nat} {s0 s : State} {a : Nat} (hk0 : Frame M s0 s)
    (hL : W.holdAddr &&& M = W.holdAddr) : Frame M s0 (State.holdAddr s a) := by
  unfold State.holdAddr
  try dsimp only
  repeat' first
    | (with_reducible assumption)
    | (split)
    | (with_reducible refine Frame.foldl ?_ ?_)
    | (exact Nat.zero_and _)
    | (exact Frame.sub hL (by decide))
    | (exact Frame.bitOf hL (by decide))
    | (intro u hu x hx)
    | (intro u hu)
    | (refine Frame.bitMem (by with_reducible assumption) ?_)
    | (refine Frame.sub_all hL (by first | decide | (simp only [List.map_cons, List.map_nil]; decide)))
    | (refine Frame.bitMemFst (by with_reducible assumption) ?_)
    | (with_reducible refine Frame.wr ?_ ?_)
    | (with_reducible apply Frame.emit)
    | (with_reducible apply Frame.fabEvent)
    | (with_reducible apply Frame.adjChanged)
    | decide

/-- What `State.routeIn` may write: register fields by number, memory at 1000. -/
def W.routeIn : Nat := 0xc0000000000020000000000000000000000000020000180600000000000000072000000000000000000000000000000000000000000000000000000000000000000

theorem Frame.routeIn {M : Nat} {s0 s : State} {l : Nat} {c : List Byte} (hk0 : Frame M s0 s)
    (hL : W.routeIn &&& M = W.routeIn) : Frame M s0 (State.routeIn s l c) := by
  unfold State.routeIn
  try dsimp only
  repeat' first
    | (with_reducible assumption)
    | (split)
    | (with_reducible refine Frame.foldl ?_ ?_)
    | (exact Nat.zero_and _)
    | (exact Frame.sub hL (by decide))
    | (exact Frame.bitOf hL (by decide))
    | (intro u hu x hx)
    | (intro u hu)
    | (refine Frame.bitMem (by with_reducible assumption) ?_)
    | (refine Frame.sub_all hL (by first | decide | (simp only [List.map_cons, List.map_nil]; decide)))
    | (refine Frame.bitMemFst (by with_reducible assumption) ?_)
    | (with_reducible apply Frame.emit)
    | (with_reducible refine Frame.floodNew ?_ (by with_reducible assumption) ?_)
    | (with_reducible apply Frame.putFab)
    | (with_reducible apply Frame.floodOn)
    | (with_reducible apply Frame.rivalClaim)
    | (with_reducible refine Frame.fst ?_ (by with_reducible assumption))
    | (with_reducible refine Frame.snd ?_ (by with_reducible assumption))
    | (with_reducible refine Frame.mk_other ?_)
    | decide

/-- What `State.writeLinkEn` may write: register fields by number, memory at 1000. -/
def W.writeLinkEn : Nat := 0xc000000000002000000000000000000000003fe26f80030000000000000000072000000000000000000000000000000000000000000000000000000000000000000

theorem Frame.writeLinkEn {M : Nat} {s0 s : State} {l : Nat} {v : Nat} (hk0 : Frame M s0 s)
    (hL : W.writeLinkEn &&& M = W.writeLinkEn) : Frame M s0 (State.writeLinkEn s l v) := by
  unfold State.writeLinkEn
  try dsimp only
  repeat' first
    | (with_reducible assumption)
    | (split)
    | (with_reducible refine Frame.foldl ?_ ?_)
    | (exact Nat.zero_and _)
    | (exact Frame.sub hL (by decide))
    | (exact Frame.bitOf hL (by decide))
    | (intro u hu x hx)
    | (intro u hu)
    | (refine Frame.bitMem (by with_reducible assumption) ?_)
    | (refine Frame.sub_all hL (by first | decide | (simp only [List.map_cons, List.map_nil]; decide)))
    | (refine Frame.bitMemFst (by with_reducible assumption) ?_)
    | (with_reducible refine Frame.wr ?_ ?_)
    | (with_reducible apply Frame.emit)
    | (with_reducible apply Frame.linkUp)
    | (with_reducible apply Frame.linkDown)
    | decide

/-- What `State.leaseDecide` may write: register fields by number, memory at 1000. -/
def W.leaseDecide : Nat := 0x0

theorem Frame.leaseDecide {M : Nat} {s0 s : State} {m : LeaseReq} (hk0 : Frame M s0 s)
    (_hL : W.leaseDecide &&& M = W.leaseDecide) : Frame M s0 (State.leaseDecide s m).2 := by
  unfold State.leaseDecide
  try dsimp only
  repeat' first
    | (with_reducible assumption)
    | (split)
    | (with_reducible refine Frame.foldl ?_ ?_)
    | (exact Nat.zero_and _)
    | (intro u hu x hx)
    | (intro u hu)
    | (refine Frame.bitMem (by with_reducible assumption) ?_)
    | (refine Frame.bitMemFst (by with_reducible assumption) ?_)
    | (with_reducible apply Frame.emit)
    | (with_reducible apply Frame.putFab)
    | (with_reducible refine Frame.fst ?_ (by with_reducible assumption))
    | (with_reducible refine Frame.snd ?_ (by with_reducible assumption))
    | (with_reducible refine Frame.mk_other ?_)
    | decide

/-- What `State.tideIn` may write: register fields by number, memory at 1000. -/
def W.tideIn : Nat := 0x100000000000000000000000000000000000000000000000000000000000000000000000000000000000000000000000000000000000000000000000c0000000000020000000000000000000000000180000000000042d00000000072401202800000000000000000000000000000000000001000000000000000000000

theorem Frame.tideIn {M : Nat} {s0 s : State} {l : Nat} {c : TideCell} (hk0 : Frame M s0 s)
    (hL : W.tideIn &&& M = W.tideIn) : Frame M s0 (State.tideIn s l c) := by
  unfold State.tideIn
  try dsimp only
  repeat' first
    | (with_reducible assumption)
    | (split)
    | (with_reducible refine Frame.foldl ?_ ?_)
    | (exact Nat.zero_and _)
    | (exact Frame.sub hL (by decide))
    | (exact Frame.bitOf hL (by decide))
    | (intro u hu x hx)
    | (intro u hu)
    | (refine Frame.bitMem (by with_reducible assumption) ?_)
    | (refine Frame.sub_all hL (by first | decide | (simp only [List.map_cons, List.map_nil]; decide)))
    | (refine Frame.bitMemFst (by with_reducible assumption) ?_)
    | (with_reducible refine Frame.wr ?_ ?_)
    | (with_reducible apply Frame.emit)
    | (with_reducible apply Frame.answer)
    | (with_reducible apply Frame.setLink)
    | (with_reducible apply Frame.peerTide)
    | (with_reducible refine Frame.fst ?_ (by with_reducible assumption))
    | (with_reducible refine Frame.snd ?_ (by with_reducible assumption))
    | (with_reducible refine Frame.mk_other ?_)
    | decide

end Sys2Proof.Machine
end

