-- ==== Sys2Proof/Laws/FrameProtection.lean ====
section
/-! SUPPORT. Which registers, and whether the memories, the operations of Protection may write (Laws/Frame.lean). -/

namespace Sys2Proof.Machine

set_option Elab.async false
set_option linter.all false

/-- What `State.protPair` may write: register fields by number, memory at 1000. -/
def W.protPair : Nat := 0x100000000000000000000000000000000000000000000000000000000000000000000000000000000000000000000000000000000000000000000000c00000000000218000000073000004977f47c0020010000000042d00000000072401302a000000000010000000140001000040e2402600000000000000000200000

theorem Frame.protPair {M : Nat} {s0 s : State} {src : Src} {p : List Byte} (hk0 : Frame M s0 s)
    (hL : W.protPair &&& M = W.protPair) : Frame M s0 (State.protPair s src p).1 := by
  unfold State.protPair
  try dsimp only
  repeat' first
    | (with_reducible assumption)
    | (split)
    | (with_reducible refine Frame.foldl ?_ ?_)
    | (exact Nat.zero_and _)
    | (exact Frame.sub hL (by decide))
    | (exact Frame.bitOf hL (by decide))
    | (intro u hu x hx)
    | (intro u hu)
    | (refine Frame.bitMem (by with_reducible assumption) ?_)
    | (refine Frame.sub_all hL (by first | decide | (simp only [List.map_cons, List.map_nil]; decide)))
    | (refine Frame.bitMemFst (by with_reducible assumption) ?_)
    | (with_reducible apply Frame.emit)
    | (with_reducible apply Frame.protMsg)
    | (with_reducible apply Frame.dissolve)
    | (with_reducible apply Frame.tableSync)
    | (with_reducible apply Frame.setProt)
    | (with_reducible apply Frame.sendTo)
    | (with_reducible refine Frame.fst ?_ (by with_reducible assumption))
    | (with_reducible refine Frame.snd ?_ (by with_reducible assumption))
    | (with_reducible refine Frame.mk_other ?_)
    | decide

/-- What `State.bindStandby` may write: register fields by number, memory at 1000. -/
def W.bindStandby : Nat := 0x600000000000000000000000000

theorem Frame.bindStandby {M : Nat} {s0 s : State} {t : Nat} {base : Nat} (hk0 : Frame M s0 s)
    (hL : W.bindStandby &&& M = W.bindStandby) : Frame M s0 (State.bindStandby s t base) := by
  unfold State.bindStandby
  try dsimp only
  repeat' first
    | (with_reducible assumption)
    | (split)
    | (with_reducible refine Frame.foldl ?_ ?_)
    | (exact Nat.zero_and _)
    | (exact Frame.sub hL (by decide))
    | (exact Frame.bitOf hL (by decide))
    | (intro u hu x hx)
    | (intro u hu)
    | (refine Frame.bitMem (by with_reducible assumption) ?_)
    | (refine Frame.sub_all hL (by first | decide | (simp only [List.map_cons, List.map_nil]; decide)))
    | (refine Frame.bitMemFst (by with_reducible assumption) ?_)
    | (with_reducible refine Frame.wr ?_ ?_)
    | (with_reducible apply Frame.emit)
    | (with_reducible apply Frame.setSlot)
    | (with_reducible refine Frame.mk_other ?_)
    | decide

/-- What `State.formPair` may write: register fields by number, memory at 1000. -/
def W.formPair : Nat := 0xc00000000000218000000000000002916f07c00200100000000000000000000720000000000000080000000000000000000000c2600200000000000000000200000

theorem Frame.formPair {M : Nat} {s0 s : State} {t : Nat} {x : ProtHs} (hk0 : Frame M s0 s)
    (hL : W.formPair &&& M = W.formPair) : Frame M s0 (State.formPair s t x) := by
  unfold State.formPair
  try dsimp only
  repeat' first
    | (with_reducible assumption)
    | (split)
    | (with_reducible refine Frame.foldl ?_ ?_)
    | (exact Nat.zero_and _)
    | (exact Frame.sub hL (by decide))
    | (exact Frame.bitOf hL (by decide))
    | (intro u hu x hx)
    | (intro u hu)
    | (refine Frame.bitMem (by with_reducible assumption) ?_)
    | (refine Frame.sub_all hL (by first | decide | (simp only [List.map_cons, List.map_nil]; decide)))
    | (refine Frame.bitMemFst (by with_reducible assumption) ?_)
    | (with_reducible refine Frame.wr ?_ ?_)
    | (with_reducible apply Frame.emit)
    | (with_reducible apply Frame.setProt)
    | (with_reducible apply Frame.tableSync)
    | (with_reducible apply Frame.setTree)
    | (with_reducible apply Frame.protSet)
    | (with_reducible apply Frame.bindStandby)
    | (with_reducible apply Frame.treeState)
    | (with_reducible apply Frame.takeImage)
    | (with_reducible apply Frame.enterSyncing)
    | (with_reducible refine Frame.mk_other ?_)
    | decide

/-- What `State.answerKey` may write: register fields by number, memory at 1000. -/
def W.answerKey : Nat := 0x100000000000000000000000000000000000000000000000000000000000000000000000000000000000000000000000000000000000000000000000c0000000000021800000000000000000000000000000000000042d80000000072401302a00000000000000000000000000000000000000000000000000000000000

theorem Frame.answerKey {M : Nat} {s0 s : State} {src : Src} {r : Resp} (hk0 : Frame M s0 s)
    (hL : W.answerKey &&& M = W.answerKey) : Frame M s0 (State.answerKey s src r) := by
  unfold State.answerKey
  try dsimp only
  repeat' first
    | (with_reducible assumption)
    | (split)
    | (with_reducible refine Frame.foldl ?_ ?_)
    | (exact Nat.zero_and _)
    | (exact Frame.sub hL (by decide))
    | (exact Frame.bitOf hL (by decide))
    | (intro u hu x hx)
    | (intro u hu)
    | (refine Frame.bitMem (by with_reducible assumption) ?_)
    | (refine Frame.sub_all hL (by first | decide | (simp only [List.map_cons, List.map_nil]; decide)))
    | (refine Frame.bitMemFst (by with_reducible assumption) ?_)
    | (with_reducible apply Frame.emit)
    | (with_reducible apply Frame.answerLater)
    | (with_reducible apply Frame.scrubKey)
    | (with_reducible refine Frame.fst ?_ (by with_reducible assumption))
    | (with_reducible refine Frame.snd ?_ (by with_reducible assumption))
    | (with_reducible refine Frame.mk_other ?_)
    | decide

/-- What `State.noteStatus` may write: register fields by number, memory at 1000. -/
def W.noteStatus : Nat := 0x4000000000000000000000000000000000000000000000000000000000000000000000000000000000000000000000000000

theorem Frame.noteStatus {M : Nat} {s0 s : State} {t : Nat} {fr : Int} {m : StatusMsg} (hk0 : Frame M s0 s)
    (hL : W.noteStatus &&& M = W.noteStatus) : Frame M s0 (State.noteStatus s t fr m) := by
  unfold State.noteStatus
  try dsimp only
  repeat' first
    | (with_reducible assumption)
    | (split)
    | (with_reducible refine Frame.foldl ?_ ?_)
    | (exact Nat.zero_and _)
    | (exact Frame.sub hL (by decide))
    | (exact Frame.bitOf hL (by decide))
    | (intro u hu x hx)
    | (intro u hu)
    | (refine Frame.bitMem (by with_reducible assumption) ?_)
    | (refine Frame.sub_all hL (by first | decide | (simp only [List.map_cons, List.map_nil]; decide)))
    | (refine Frame.bitMemFst (by with_reducible assumption) ?_)
    | (with_reducible refine Frame.wr ?_ ?_)
    | (with_reducible apply Frame.emit)
    | (with_reducible apply Frame.setProt)
    | (with_reducible refine Frame.mk_other ?_)
    | decide

/-- What `State.dualYield` may write: register fields by number, memory at 1000. -/
def W.dualYield : Nat := 0xc00000000000200000000000000000900717c0020010000000000000000000072000000000000000000000000000000000000000000000000000000000000000000

theorem Frame.dualYield {M : Nat} {s0 s : State} {t : Nat} {m : StatusMsg} (hk0 : Frame M s0 s)
    (hL : W.dualYield &&& M = W.dualYield) : Frame M s0 (State.dualYield s t m) := by
  unfold State.dualYield
  try dsimp only
  repeat' first
    | (with_reducible assumption)
    | (split)
    | (with_reducible refine Frame.foldl ?_ ?_)
    | (exact Nat.zero_and _)
    | (exact Frame.sub hL (by decide))
    | (exact Frame.bitOf hL (by decide))
    | (intro u hu x hx)
    | (intro u hu)
    | (refine Frame.bitMem (by with_reducible assumption) ?_)
    | (refine Frame.sub_all hL (by first | decide | (simp only [List.map_cons, List.map_nil]; decide)))
    | (refine Frame.bitMemFst (by with_reducible assumption) ?_)
    | (with_reducible apply Frame.emit)
    | (with_reducible apply Frame.protEvent)
    | (with_reducible apply Frame.yieldNext)
    | decide

/-- What `State.standbySwitch` may write: register fields by number, memory at 1000. -/
def W.standbySwitch : Nat := 0xc0000000000020000000000000000000000000020010000000000000000000072000000000000000000000000000000000000000000000000000000000000000000

theorem Frame.standbySwitch {M : Nat} {s0 s : State} {t : Nat} {m : StatusMsg} (hk0 : Frame M s0 s)
    (hL : W.standbySwitch &&& M = W.standbySwitch) : Frame M s0 (State.standbySwitch s t m) := by
  unfold State.standbySwitch
  try dsimp only
  repeat' first
    | (with_reducible assumption)
    | (split)
    | (with_reducible refine Frame.foldl ?_ ?_)
    | (exact Nat.zero_and _)
    | (exact Frame.sub hL (by decide))
    | (exact Frame.bitOf hL (by decide))
    | (intro u hu x hx)
    | (intro u hu)
    | (refine Frame.bitMem (by with_reducible assumption) ?_)
    | (refine Frame.sub_all hL (by first | decide | (simp only [List.map_cons, List.map_nil]; decide)))
    | (refine Frame.bitMemFst (by with_reducible assumption) ?_)
    | (with_reducible apply Frame.emit)
    | (with_reducible apply Frame.setProt)
    | (with_reducible apply Frame.sendStatus)
    | (with_reducible refine Frame.mk_other ?_)
    | decide

/-- What `State.sendingStatus` may write: register fields by number, memory at 1000. -/
def W.sendingStatus : Nat := 0xc00000000000200000000000000000900707c00200100000000000000000000720000000000000000000000000000000000000c2000200000000000000000000000

theorem Frame.sendingStatus {M : Nat} {s0 s : State} {t : Nat} {m : StatusMsg} (hk0 : Frame M s0 s)
    (hL : W.sendingStatus &&& M = W.sendingStatus) : Frame M s0 (State.sendingStatus s t m) := by
  unfold State.sendingStatus
  try dsimp only
  repeat' first
    | (with_reducible assumption)
    | (split)
    | (with_reducible refine Frame.foldl ?_ ?_)
    | (exact Nat.zero_and _)
    | (exact Frame.sub hL (by decide))
    | (exact Frame.bitOf hL (by decide))
    | (intro u hu x hx)
    | (intro u hu)
    | (refine Frame.bitMem (by with_reducible assumption) ?_)
    | (refine Frame.sub_all hL (by first | decide | (simp only [List.map_cons, List.map_nil]; decide)))
    | (refine Frame.bitMemFst (by with_reducible assumption) ?_)
    | (with_reducible apply Frame.emit)
    | (with_reducible apply Frame.takeover)
    | (with_reducible apply Frame.yieldNext)
    | (with_reducible apply Frame.setProt)
    | (with_reducible refine Frame.fst ?_ (by with_reducible assumption))
    | (with_reducible refine Frame.snd ?_ (by with_reducible assumption))
    | (with_reducible refine Frame.mk_other ?_)
    | decide

/-- What `State.statusMoves` may write: register fields by number, memory at 1000. -/
def W.statusMoves : Nat := 0xc00000000000200000000000000000900717c00200100000000000000000000720000000000000000000000000000000000000c2000200000000000000000000000

theorem Frame.statusMoves {M : Nat} {s0 s : State} {t : Nat} {m : StatusMsg} (hk0 : Frame M s0 s)
    (hL : W.statusMoves &&& M = W.statusMoves) : Frame M s0 (State.statusMoves s t m) := by
  unfold State.statusMoves
  try dsimp only
  repeat' first
    | (with_reducible assumption)
    | (split)
    | (with_reducible refine Frame.foldl ?_ ?_)
    | (exact Nat.zero_and _)
    | (exact Frame.sub hL (by decide))
    | (exact Frame.bitOf hL (by decide))
    | (intro u hu x hx)
    | (intro u hu)
    | (refine Frame.bitMem (by with_reducible assumption) ?_)
    | (refine Frame.sub_all hL (by first | decide | (simp only [List.map_cons, List.map_nil]; decide)))
    | (refine Frame.bitMemFst (by with_reducible assumption) ?_)
    | (with_reducible apply Frame.emit)
    | (with_reducible apply Frame.dualYield)
    | (with_reducible apply Frame.sendingStatus)
    | (with_reducible apply Frame.protSet)
    | (with_reducible apply Frame.takeover)
    | (with_reducible apply Frame.standbySwitch)
    | decide

/-- What `State.syncEntry` may write: register fields by number, memory at 1000. -/
def W.syncEntry : Nat := 0xc0000000000021800000000000000200000000000000000000000000000000072000000000000000000000000000000000000000000000000000000000000000000

theorem Frame.syncEntry {M : Nat} {s0 s : State} {t : Nat} {op : Nat} {b : List Byte} (hk0 : Frame M s0 s)
    (hL : W.syncEntry &&& M = W.syncEntry) : Frame M s0 (State.syncEntry s t op b) := by
  unfold State.syncEntry
  try dsimp only
  repeat' first
    | (with_reducible assumption)
    | (split)
    | (with_reducible refine Frame.foldl ?_ ?_)
    | (exact Nat.zero_and _)
    | (exact Frame.sub hL (by decide))
    | (exact Frame.bitOf hL (by decide))
    | (intro u hu x hx)
    | (intro u hu)
    | (refine Frame.bitMem (by with_reducible assumption) ?_)
    | (refine Frame.sub_all hL (by first | decide | (simp only [List.map_cons, List.map_nil]; decide)))
    | (refine Frame.bitMemFst (by with_reducible assumption) ?_)
    | (with_reducible apply Frame.emit)
    | (with_reducible apply Frame.incSat)
    | (with_reducible apply Frame.readPlaces)
    | (with_reducible apply Frame.delEntry)
    | (with_reducible apply Frame.insert)
    | (with_reducible refine Frame.fst ?_ (by with_reducible assumption))
    | (with_reducible refine Frame.snd ?_ (by with_reducible assumption))
    | (with_reducible refine Frame.mk_other ?_)
    | decide

/-- What `State.tableSync` may write: register fields by number, memory at 1000. -/
def W.tableSync : Nat := 0xc00000000000218000000000000002910707c0020010000000000000000000072000000000000000000000000000000000000000000000000000000000000000000

theorem Frame.tableSync {M : Nat} {s0 s : State} {t : Nat} {p : List Byte} {gap : Bool} (hk0 : Frame M s0 s)
    (hL : W.tableSync &&& M = W.tableSync) : Frame M s0 (State.tableSync s t p gap) := by
  unfold State.tableSync
  try dsimp only
  repeat' first
    | (with_reducible assumption)
    | (split)
    | (with_reducible refine Frame.foldl ?_ ?_)
    | (exact Nat.zero_and _)
    | (exact Frame.sub hL (by decide))
    | (exact Frame.bitOf hL (by decide))
    | (intro u hu x hx)
    | (intro u hu)
    | (refine Frame.bitMem (by with_reducible assumption) ?_)
    | (refine Frame.sub_all hL (by first | decide | (simp only [List.map_cons, List.map_nil]; decide)))
    | (refine Frame.bitMemFst (by with_reducible assumption) ?_)
    | (with_reducible apply Frame.emit)
    | (with_reducible apply Frame.mirrorError)
    | (with_reducible apply Frame.syncEntry)
    | decide

/-- What `State.leaseAnswer` may write: register fields by number, memory at 1000. -/
def W.leaseAnswer : Nat := 0xc00000000000200000000000000001901707c0020010000000000000000000072000000000000000000000000000000000000000000000000000000000000000000

theorem Frame.leaseAnswer {M : Nat} {s0 s : State} {t : Nat} {m : LeaseAns} (hk0 : Frame M s0 s)
    (hL : W.leaseAnswer &&& M = W.leaseAnswer) : Frame M s0 (State.leaseAnswer s t m) := by
  unfold State.leaseAnswer
  try dsimp only
  repeat' first
    | (with_reducible assumption)
    | (split)
    | (with_reducible refine Frame.foldl ?_ ?_)
    | (exact Nat.zero_and _)
    | (exact Frame.sub hL (by decide))
    | (exact Frame.bitOf hL (by decide))
    | (intro u hu x hx)
    | (intro u hu)
    | (refine Frame.bitMem (by with_reducible assumption) ?_)
    | (refine Frame.sub_all hL (by first | decide | (simp only [List.map_cons, List.map_nil]; decide)))
    | (refine Frame.bitMemFst (by with_reducible assumption) ?_)
    | (with_reducible apply Frame.emit)
    | (with_reducible apply Frame.setLease)
    | (with_reducible apply Frame.protSet)
    | (with_reducible apply Frame.setProt)
    | (with_reducible apply Frame.incSat)
    | (with_reducible refine Frame.mk_other ?_)
    | decide

/-- What `State.protSwitch` may write: register fields by number, memory at 1000. -/
def W.protSwitch : Nat := 0xc00000000000200000000000000000900707c00200100000000000000000000720000000000000000000000000000000000000c2000200000000000000000000000

theorem Frame.protSwitch {M : Nat} {s0 s : State} {src : Src} {p : List Byte} (hk0 : Frame M s0 s)
    (hL : W.protSwitch &&& M = W.protSwitch) : Frame M s0 (State.protSwitch s src p).1 := by
  unfold State.protSwitch
  try dsimp only
  repeat' first
    | (with_reducible assumption)
    | (split)
    | (with_reducible refine Frame.foldl ?_ ?_)
    | (exact Nat.zero_and _)
    | (exact Frame.sub hL (by decide))
    | (exact Frame.bitOf hL (by decide))
    | (intro u hu x hx)
    | (intro u hu)
    | (refine Frame.bitMem (by with_reducible assumption) ?_)
    | (refine Frame.sub_all hL (by first | decide | (simp only [List.map_cons, List.map_nil]; decide)))
    | (refine Frame.bitMemFst (by with_reducible assumption) ?_)
    | (with_reducible apply Frame.emit)
    | (with_reducible apply Frame.setProt)
    | (with_reducible apply Frame.sendStatus)
    | (with_reducible apply Frame.takeover)
    | (with_reducible refine Frame.fst ?_ (by with_reducible assumption))
    | (with_reducible refine Frame.snd ?_ (by with_reducible assumption))
    | (with_reducible refine Frame.mk_other ?_)
    | decide

/-- What `State.protStatus` may write: register fields by number, memory at 1000. -/
def W.protStatus : Nat := 0x0

theorem Frame.protStatus {M : Nat} {s0 s : State} {p : List Byte} (hk0 : Frame M s0 s)
    (_hL : W.protStatus &&& M = W.protStatus) : Frame M s0 (State.protStatus s p).1 := by
  unfold State.protStatus
  try dsimp only
  repeat' first
    | (with_reducible assumption)
    | (split)
    | (with_reducible refine Frame.foldl ?_ ?_)
    | (exact Nat.zero_and _)
    | (intro u hu x hx)
    | (intro u hu)
    | (refine Frame.bitMem (by with_reducible assumption) ?_)
    | (refine Frame.bitMemFst (by with_reducible assumption) ?_)
    | (with_reducible apply Frame.emit)
    | (with_reducible refine Frame.fst ?_ (by with_reducible assumption))
    | (with_reducible refine Frame.snd ?_ (by with_reducible assumption))
    | (with_reducible refine Frame.mk_other ?_)
    | decide

end Sys2Proof.Machine
end

