-- ==== Sys2Proof/Laws/FrameCalvan.lean ====
section
/-! SUPPORT. Which registers, and whether the memories, the operations of Calvan may write (Laws/Frame.lean). -/

namespace Sys2Proof.Machine

set_option Elab.async false
set_option linter.all false

/-- What `State.setService` may write: register fields by number, memory at 1000. -/
def W.setService : Nat := 0xc0000000000020000000000000000000000000000000000000084000000000072000000000000000000000000000000000000000000000000000000000000100000

theorem Frame.setService {M : Nat} {s0 s : State} {st : Nat} (hk0 : Frame M s0 s)
    (hL : W.setService &&& M = W.setService) : Frame M s0 (State.setService s st) := by
  unfold State.setService
  try dsimp only
  repeat' first
    | (with_reducible assumption)
    | (split)
    | (with_reducible refine Frame.foldl ?_ ?_)
    | (exact Nat.zero_and _)
    | (exact Frame.sub hL (by decide))
    | (exact Frame.bitOf hL (by decide))
    | (intro u hu x hx)
    | (intro u hu)
    | (refine Frame.bitMem (by with_reducible assumption) ?_)
    | (refine Frame.sub_all hL (by first | decide | (simp only [List.map_cons, List.map_nil]; decide)))
    | (refine Frame.bitMemFst (by with_reducible assumption) ?_)
    | (with_reducible refine Frame.wr ?_ ?_)
    | (with_reducible apply Frame.emit)
    | (with_reducible apply Frame.mbxEvent)
    | (with_reducible apply Frame.wrB)
    | decide

/-- What `State.setSlots` may write: register fields by number, memory at 1000. -/
def W.setSlots : Nat := 0x0

theorem Frame.setSlots {M : Nat} {s0 s : State} {kind : Nat} {x : ImageSlots} (hk0 : Frame M s0 s)
    (_hL : W.setSlots &&& M = W.setSlots) : Frame M s0 (State.setSlots s kind x) := by
  unfold State.setSlots
  try dsimp only
  repeat' first
    | (with_reducible assumption)
    | (split)
    | (with_reducible refine Frame.foldl ?_ ?_)
    | (exact Nat.zero_and _)
    | (intro u hu x hx)
    | (intro u hu)
    | (refine Frame.bitMem (by with_reducible assumption) ?_)
    | (refine Frame.bitMemFst (by with_reducible assumption) ?_)
    | (with_reducible apply Frame.emit)
    | (with_reducible refine Frame.mk_other ?_)
    | decide

/-- What `State.evalService` may write: register fields by number, memory at 1000. -/
def W.evalService : Nat := 0xc0000000000020000000000000000000000000000000000000084000000000072000000000000000000000000000000000000000000000000000000000000100000

theorem Frame.evalService {M : Nat} {s0 s : State} (hk0 : Frame M s0 s) (hL : W.evalService &&& M = W.evalService) :
    Frame M s0 (State.evalService s) := by
  unfold State.evalService
  split
  · exact Frame.setService hk0 (Frame.sub hL (by decide))
  · exact hk0

/-- What `State.holdUntested` may write: register fields by number, memory at 1000. -/
def W.holdUntested : Nat := 0xc000000000002000000000000000000000000000000000000008c000000000072000000000000000000000000000000000000000000000000000000000000100000

theorem Frame.holdUntested {M : Nat} {s0 s : State} {kind : Nat} {held : Bool} (hk0 : Frame M s0 s)
    (hL : W.holdUntested &&& M = W.holdUntested) : Frame M s0 (State.holdUntested s kind held) := by
  unfold State.holdUntested
  try dsimp only
  repeat' first
    | (with_reducible assumption)
    | (split)
    | (with_reducible refine Frame.foldl ?_ ?_)
    | (exact Nat.zero_and _)
    | (exact Frame.sub hL (by decide))
    | (exact Frame.bitOf hL (by decide))
    | (intro u hu x hx)
    | (intro u hu)
    | (refine Frame.bitMem (by with_reducible assumption) ?_)
    | (refine Frame.sub_all hL (by first | decide | (simp only [List.map_cons, List.map_nil]; decide)))
    | (refine Frame.bitMemFst (by with_reducible assumption) ?_)
    | (with_reducible apply Frame.emit)
    | (with_reducible apply Frame.putCp)
    | (with_reducible apply Frame.wrB)
    | (with_reducible apply Frame.evalService)
    | (with_reducible refine Frame.mk_other ?_)
    | decide

/-- What `State.mailboxGo` may write: register fields by number, memory at 1000. -/
def W.mailboxGo : Nat := 0x100000000000000000000000000000000000000000000000000000000000000000000000000000000000000000000000000000000000000000000000c0000000000021800000000000000000000000000000000000043d00000000072401302a00000000000000000000000000000000000000000000000000000000000

theorem Frame.mailboxGo {M : Nat} {s0 s : State} {n : Nat} (hk0 : Frame M s0 s)
    (hL : W.mailboxGo &&& M = W.mailboxGo) : Frame M s0 (State.mailboxGo s n) := by
  unfold State.mailboxGo
  try dsimp only
  repeat' first
    | (with_reducible assumption)
    | (split)
    | (with_reducible refine Frame.foldl ?_ ?_)
    | (exact Nat.zero_and _)
    | (exact Frame.sub hL (by decide))
    | (exact Frame.bitOf hL (by decide))
    | (intro u hu x hx)
    | (intro u hu)
    | (refine Frame.bitMem (by with_reducible assumption) ?_)
    | (refine Frame.sub_all hL (by first | decide | (simp only [List.map_cons, List.map_nil]; decide)))
    | (refine Frame.bitMemFst (by with_reducible assumption) ?_)
    | (with_reducible refine Frame.wr ?_ ?_)
    | (with_reducible apply Frame.emit)
    | (with_reducible apply Frame.pumpAll)
    | decide

/-- What `State.tableInit` may write: register fields by number, memory at 1000. -/
def W.tableInit : Nat := 0x0

theorem Frame.tableInit {M : Nat} {s0 s : State} (hk0 : Frame M s0 s)
    (_hL : W.tableInit &&& M = W.tableInit) : Frame M s0 (State.tableInit s) := by
  unfold State.tableInit
  try dsimp only
  repeat' first
    | (with_reducible assumption)
    | (split)
    | (with_reducible refine Frame.foldl ?_ ?_)
    | (exact Nat.zero_and _)
    | (intro u hu x hx)
    | (intro u hu)
    | (refine Frame.bitMem (by with_reducible assumption) ?_)
    | (refine Frame.bitMemFst (by with_reducible assumption) ?_)
    | (with_reducible apply Frame.emit)
    | (with_reducible apply Frame.setTabs)
    | (with_reducible apply Frame.rewrite)
    | (with_reducible refine Frame.mk_other ?_)
    | decide

/-- What `State.fwLoad` may write: register fields by number, memory at 1000. -/
def W.fwLoad : Nat := 0xc000000000002000000000000000000000000000000000000008c000000000072000000000000000000000000000000000000000000000000000000000000100000

theorem Frame.fwLoad {M : Nat} {s0 s : State} {src : Src} {p : List Byte} (hk0 : Frame M s0 s)
    (hL : W.fwLoad &&& M = W.fwLoad) : Frame M s0 (State.fwLoad s src p).1 := by
  unfold State.fwLoad
  try dsimp only
  repeat' first
    | (with_reducible assumption)
    | (split)
    | (with_reducible refine Frame.foldl ?_ ?_)
    | (exact Nat.zero_and _)
    | (exact Frame.sub hL (by decide))
    | (exact Frame.bitOf hL (by decide))
    | (intro u hu x hx)
    | (intro u hu)
    | (refine Frame.bitMem (by with_reducible assumption) ?_)
    | (refine Frame.sub_all hL (by first | decide | (simp only [List.map_cons, List.map_nil]; decide)))
    | (refine Frame.bitMemFst (by with_reducible assumption) ?_)
    | (with_reducible apply Frame.emit)
    | (with_reducible apply Frame.setSlots)
    | (with_reducible apply Frame.holdUntested)
    | (with_reducible apply Frame.putCp)
    | (with_reducible refine Frame.fst ?_ (by with_reducible assumption))
    | (with_reducible refine Frame.snd ?_ (by with_reducible assumption))
    | (with_reducible refine Frame.mk_other ?_)
    | decide

/-- What `State.startImage` may write: register fields by number, memory at 1000. -/
def W.startImage : Nat := 0xc0000000000020000200025f07e0080000000000000000000018c00000000007200000000000000800300000f000000000000000000000000000000000000300000

theorem Frame.startImage {M : Nat} {s0 s : State} {kind : Nat} {i : Image} (hk0 : Frame M s0 s)
    (hL : W.startImage &&& M = W.startImage) : Frame M s0 (State.startImage s kind i) := by
  unfold State.startImage
  try dsimp only
  repeat' first
    | (with_reducible assumption)
    | (split)
    | (with_reducible refine Frame.foldl ?_ ?_)
    | (exact Nat.zero_and _)
    | (exact Frame.sub hL (by decide))
    | (exact Frame.bitOf hL (by decide))
    | (intro u hu x hx)
    | (intro u hu)
    | (refine Frame.bitMem (by with_reducible assumption) ?_)
    | (refine Frame.sub_all hL (by first | decide | (simp only [List.map_cons, List.map_nil]; decide)))
    | (refine Frame.bitMemFst (by with_reducible assumption) ?_)
    | (with_reducible apply Frame.emit)
    | (with_reducible apply Frame.setSlots)
    | (with_reducible apply Frame.flagUntested)
    | (with_reducible apply Frame.mbxEvent)
    | (with_reducible apply Frame.setService)
    | (with_reducible apply Frame.wake)
    | (with_reducible apply Frame.beginLoad)
    | (with_reducible apply Frame.sluiceStart)
    | (with_reducible apply Frame.holdUntested)
    | decide

/-- What `State.fwStart` may write: register fields by number, memory at 1000. -/
def W.fwStart : Nat := 0xc0000000000020000200025f07e0080000000000000000000018c00000000007200000000000000800300000f000000000000000000000000000000000000300000

theorem Frame.fwStart {M : Nat} {s0 s : State} {p : List Byte} (hk0 : Frame M s0 s)
    (hL : W.fwStart &&& M = W.fwStart) : Frame M s0 (State.fwStart s p).1 := by
  unfold State.fwStart
  try dsimp only
  repeat' first
    | (with_reducible assumption)
    | (split)
    | (with_reducible refine Frame.foldl ?_ ?_)
    | (exact Nat.zero_and _)
    | (exact Frame.sub hL (by decide))
    | (exact Frame.bitOf hL (by decide))
    | (intro u hu x hx)
    | (intro u hu)
    | (refine Frame.bitMem (by with_reducible assumption) ?_)
    | (refine Frame.sub_all hL (by first | decide | (simp only [List.map_cons, List.map_nil]; decide)))
    | (refine Frame.bitMemFst (by with_reducible assumption) ?_)
    | (with_reducible apply Frame.emit)
    | (with_reducible apply Frame.startImage)
    | (with_reducible apply Frame.holdUntested)
    | (with_reducible refine Frame.fst ?_ (by with_reducible assumption))
    | (with_reducible refine Frame.snd ?_ (by with_reducible assumption))
    | (with_reducible refine Frame.mk_other ?_)
    | decide

/-- What `State.fwStatus` may write: register fields by number, memory at 1000. -/
def W.fwStatus : Nat := 0x0

theorem Frame.fwStatus {M : Nat} {s0 s : State} {p : List Byte} (hk0 : Frame M s0 s)
    (_hL : W.fwStatus &&& M = W.fwStatus) : Frame M s0 (State.fwStatus s p).1 := by
  unfold State.fwStatus
  try dsimp only
  repeat' first
    | (with_reducible assumption)
    | (split)
    | (with_reducible refine Frame.foldl ?_ ?_)
    | (exact Nat.zero_and _)
    | (intro u hu x hx)
    | (intro u hu)
    | (refine Frame.bitMem (by with_reducible assumption) ?_)
    | (refine Frame.bitMemFst (by with_reducible assumption) ?_)
    | (with_reducible apply Frame.emit)
    | (with_reducible refine Frame.fst ?_ (by with_reducible assumption))
    | (with_reducible refine Frame.snd ?_ (by with_reducible assumption))
    | (with_reducible refine Frame.mk_other ?_)
    | decide

/-- What `State.devInfo` may write: register fields by number, memory at 1000. -/
def W.devInfo : Nat := 0x0

theorem Frame.devInfo {M : Nat} {s0 s : State} {x_ : List Byte} (hk0 : Frame M s0 s)
    (_hL : W.devInfo &&& M = W.devInfo) : Frame M s0 (State.devInfo s x_).1 := by
  unfold State.devInfo
  try dsimp only
  repeat' first
    | (with_reducible assumption)
    | (split)
    | (with_reducible refine Frame.foldl ?_ ?_)
    | (exact Nat.zero_and _)
    | (intro u hu x hx)
    | (intro u hu)
    | (refine Frame.bitMem (by with_reducible assumption) ?_)
    | (refine Frame.bitMemFst (by with_reducible assumption) ?_)
    | (with_reducible apply Frame.emit)
    | decide

/-- What `State.timeSelect` may write: register fields by number, memory at 1000. -/
def W.timeSelect : Nat := 0xc0000000000020000000000000000000000000000000000000000000000000072000000000000000000000000000000000000000000000100000000400000000000

theorem Frame.timeSelect {M : Nat} {s0 s : State} {p : List Byte} (hk0 : Frame M s0 s)
    (hL : W.timeSelect &&& M = W.timeSelect) : Frame M s0 (State.timeSelect s p).1 := by
  unfold State.timeSelect
  try dsimp only
  repeat' first
    | (with_reducible assumption)
    | (split)
    | (with_reducible refine Frame.foldl ?_ ?_)
    | (exact Nat.zero_and _)
    | (exact Frame.sub hL (by decide))
    | (exact Frame.bitOf hL (by decide))
    | (intro u hu x hx)
    | (intro u hu)
    | (refine Frame.bitMem (by with_reducible assumption) ?_)
    | (refine Frame.sub_all hL (by first | decide | (simp only [List.map_cons, List.map_nil]; decide)))
    | (refine Frame.bitMemFst (by with_reducible assumption) ?_)
    | (with_reducible refine Frame.wr ?_ ?_)
    | (with_reducible apply Frame.emit)
    | (with_reducible apply Frame.ppsBack)
    | (with_reducible apply Frame.checkFar)
    | (with_reducible refine Frame.fst ?_ (by with_reducible assumption))
    | (with_reducible refine Frame.snd ?_ (by with_reducible assumption))
    | (with_reducible refine Frame.mk_other ?_)
    | decide

/-- What `State.cpHalt` may write: register fields by number, memory at 1000. -/
def W.cpHalt : Nat := 0xc0000000000020000000000000000000000000000000000000084000000000072000000000000000000000000000000000000000000000000000000000000180000

theorem Frame.cpHalt {M : Nat} {s0 s : State} (hk0 : Frame M s0 s)
    (hL : W.cpHalt &&& M = W.cpHalt) : Frame M s0 (State.cpHalt s) := by
  unfold State.cpHalt
  try dsimp only
  repeat' first
    | (with_reducible assumption)
    | (split)
    | (with_reducible refine Frame.foldl ?_ ?_)
    | (exact Nat.zero_and _)
    | (exact Frame.sub hL (by decide))
    | (exact Frame.bitOf hL (by decide))
    | (intro u hu x hx)
    | (intro u hu)
    | (refine Frame.bitMem (by with_reducible assumption) ?_)
    | (refine Frame.sub_all hL (by first | decide | (simp only [List.map_cons, List.map_nil]; decide)))
    | (refine Frame.bitMemFst (by with_reducible assumption) ?_)
    | (with_reducible refine Frame.wr ?_ ?_)
    | (with_reducible apply Frame.emit)
    | (with_reducible apply Frame.setService)
    | decide

end Sys2Proof.Machine
end

