-- ==== Sys2Proof/Laws/FrameBuffers.lean ====
section
/-! SUPPORT. Which registers, and whether the memories, the operations of Buffers may write (Laws/Frame.lean). -/

namespace Sys2Proof.Machine

set_option Elab.async false
set_option linter.all false

/-- What `State.bufferConfig` may write: register fields by number, memory at 1000. -/
def W.bufferConfig : Nat := 0x0

theorem Frame.bufferConfig {M : Nat} {s0 s : State} {p : List Byte} (hk0 : Frame M s0 s)
    (_hL : W.bufferConfig &&& M = W.bufferConfig) : Frame M s0 (State.bufferConfig s p).1 := by
  unfold State.bufferConfig
  try dsimp only
  repeat' first
    | (with_reducible assumption)
    | (split)
    | (with_reducible refine Frame.foldl ?_ ?_)
    | (exact Nat.zero_and _)
    | (intro u hu x hx)
    | (intro u hu)
    | (refine Frame.bitMem (by with_reducible assumption) ?_)
    | (refine Frame.bitMemFst (by with_reducible assumption) ?_)
    | (with_reducible apply Frame.emit)
    | (with_reducible apply Frame.setBuf)
    | (with_reducible apply Frame.settleAll)
    | (with_reducible refine Frame.fst ?_ (by with_reducible assumption))
    | (with_reducible refine Frame.snd ?_ (by with_reducible assumption))
    | (with_reducible refine Frame.mk_other ?_)
    | decide

/-- What `State.bufferStatus` may write: register fields by number, memory at 1000. -/
def W.bufferStatus : Nat := 0x0

theorem Frame.bufferStatus {M : Nat} {s0 s : State} {x_ : List Byte} (hk0 : Frame M s0 s)
    (_hL : W.bufferStatus &&& M = W.bufferStatus) : Frame M s0 (State.bufferStatus s x_).1 := by
  unfold State.bufferStatus
  try dsimp only
  repeat' first
    | (with_reducible assumption)
    | (split)
    | (with_reducible refine Frame.foldl ?_ ?_)
    | (exact Nat.zero_and _)
    | (intro u hu x hx)
    | (intro u hu)
    | (refine Frame.bitMem (by with_reducible assumption) ?_)
    | (refine Frame.bitMemFst (by with_reducible assumption) ?_)
    | (with_reducible apply Frame.emit)
    | decide

/-- What `State.queueProfile` may write: register fields by number, memory at 1000. -/
def W.queueProfile : Nat := 0x0

theorem Frame.queueProfile {M : Nat} {s0 s : State} {p : List Byte} (hk0 : Frame M s0 s)
    (_hL : W.queueProfile &&& M = W.queueProfile) : Frame M s0 (State.queueProfile s p).1 := by
  unfold State.queueProfile
  try dsimp only
  repeat' first
    | (with_reducible assumption)
    | (split)
    | (with_reducible refine Frame.foldl ?_ ?_)
    | (exact Nat.zero_and _)
    | (intro u hu x hx)
    | (intro u hu)
    | (refine Frame.bitMem (by with_reducible assumption) ?_)
    | (refine Frame.bitMemFst (by with_reducible assumption) ?_)
    | (with_reducible apply Frame.emit)
    | (with_reducible apply Frame.setBuf)
    | (with_reducible apply Frame.settleAll)
    | (with_reducible refine Frame.fst ?_ (by with_reducible assumption))
    | (with_reducible refine Frame.snd ?_ (by with_reducible assumption))
    | (with_reducible refine Frame.mk_other ?_)
    | decide

/-- What `State.bindQueues` may write: register fields by number, memory at 1000. -/
def W.bindQueues : Nat := 0x0

theorem Frame.bindQueues {M : Nat} {s0 s : State} {t : Nat} {classes : Nat} {first : Nat} {n : Nat} {prof : Nat} (hk0 : Frame M s0 s)
    (_hL : W.bindQueues &&& M = W.bindQueues) : Frame M s0 (State.bindQueues s t classes first n prof) := by
  unfold State.bindQueues
  try dsimp only
  repeat' first
    | (with_reducible assumption)
    | (split)
    | (with_reducible refine Frame.foldl ?_ ?_)
    | (exact Nat.zero_and _)
    | (intro u hu x hx)
    | (intro u hu)
    | (refine Frame.bitMem (by with_reducible assumption) ?_)
    | (refine Frame.bitMemFst (by with_reducible assumption) ?_)
    | (with_reducible apply Frame.emit)
    | (with_reducible apply Frame.setDeepQ)
    | (with_reducible refine Frame.mk_other ?_)
    | decide

/-- What `State.queueSet` may write: register fields by number, memory at 1000. -/
def W.queueSet : Nat := 0x0

theorem Frame.queueSet {M : Nat} {s0 s : State} {p : List Byte} (hk0 : Frame M s0 s)
    (_hL : W.queueSet &&& M = W.queueSet) : Frame M s0 (State.queueSet s p).1 := by
  unfold State.queueSet
  try dsimp only
  repeat' first
    | (with_reducible assumption)
    | (split)
    | (with_reducible refine Frame.foldl ?_ ?_)
    | (exact Nat.zero_and _)
    | (intro u hu x hx)
    | (intro u hu)
    | (refine Frame.bitMem (by with_reducible assumption) ?_)
    | (refine Frame.bitMemFst (by with_reducible assumption) ?_)
    | (with_reducible apply Frame.emit)
    | (with_reducible apply Frame.bindQueues)
    | (with_reducible apply Frame.settleAll)
    | (with_reducible refine Frame.fst ?_ (by with_reducible assumption))
    | (with_reducible refine Frame.snd ?_ (by with_reducible assumption))
    | (with_reducible refine Frame.mk_other ?_)
    | decide

/-- What `State.queueStatus` may write: register fields by number, memory at 1000. -/
def W.queueStatus : Nat := 0x0

theorem Frame.queueStatus {M : Nat} {s0 s : State} {p : List Byte} (hk0 : Frame M s0 s)
    (_hL : W.queueStatus &&& M = W.queueStatus) : Frame M s0 (State.queueStatus s p).1 := by
  unfold State.queueStatus
  try dsimp only
  repeat' first
    | (with_reducible assumption)
    | (split)
    | (with_reducible refine Frame.foldl ?_ ?_)
    | (exact Nat.zero_and _)
    | (intro u hu x hx)
    | (intro u hu)
    | (refine Frame.bitMem (by with_reducible assumption) ?_)
    | (refine Frame.bitMemFst (by with_reducible assumption) ?_)
    | (with_reducible apply Frame.emit)
    | (with_reducible refine Frame.fst ?_ (by with_reducible assumption))
    | (with_reducible refine Frame.snd ?_ (by with_reducible assumption))
    | (with_reducible refine Frame.mk_other ?_)
    | decide

/-- What `State.ingressDrop` may write: register fields by number, memory at 1000. -/
def W.ingressDrop : Nat := 0x0

theorem Frame.ingressDrop {M : Nat} {s0 s : State} {lane : Nat} {cls : Nat} {segs : Nat} {off : Nat} (hk0 : Frame M s0 s)
    (_hL : W.ingressDrop &&& M = W.ingressDrop) : Frame M s0 (State.ingressDrop s lane cls segs off) := by
  unfold State.ingressDrop
  try dsimp only
  repeat' first
    | (with_reducible assumption)
    | (split)
    | (with_reducible refine Frame.foldl ?_ ?_)
    | (exact Nat.zero_and _)
    | (intro u hu x hx)
    | (intro u hu)
    | (refine Frame.bitMem (by with_reducible assumption) ?_)
    | (refine Frame.bitMemFst (by with_reducible assumption) ?_)
    | (with_reducible apply Frame.emit)
    | (with_reducible apply Frame.addCnt)
    | (with_reducible apply Frame.returnCredit)
    | decide

/-- What `State.loseHead` may write: register fields by number, memory at 1000. -/
def W.loseHead : Nat := 0x100000000000000000000000000000000000000000000000000000000000000000000000000000000000000000000000000000000000000000000000c0000000000020000000000000000000000000000000000000000000000000072401202800000000000000000000000000000000000000000000000000000000000

theorem Frame.loseHead {M : Nat} {s0 s : State} {lane : Nat} {cls : Nat} {f : UsFrame} (hk0 : Frame M s0 s)
    (hL : W.loseHead &&& M = W.loseHead) : Frame M s0 (State.loseHead s lane cls f) := by
  unfold State.loseHead
  try dsimp only
  repeat' first
    | (with_reducible assumption)
    | (split)
    | (with_reducible refine Frame.foldl ?_ ?_)
    | (exact Nat.zero_and _)
    | (exact Frame.sub hL (by decide))
    | (exact Frame.bitOf hL (by decide))
    | (intro u hu x hx)
    | (intro u hu)
    | (refine Frame.bitMem (by with_reducible assumption) ?_)
    | (refine Frame.sub_all hL (by first | decide | (simp only [List.map_cons, List.map_nil]; decide)))
    | (refine Frame.bitMemFst (by with_reducible assumption) ?_)
    | (with_reducible apply Frame.emit)
    | (with_reducible apply Frame.setEgressQ)
    | (with_reducible apply Frame.freeCells)
    | (with_reducible apply Frame.endFrame)
    | (with_reducible apply Frame.egressSettle)
    | (with_reducible refine Frame.mk_other ?_)
    | decide

/-- What `State.popDeep` may write: register fields by number, memory at 1000. -/
def W.popDeep : Nat := 0x0

theorem Frame.popDeep {M : Nat} {s0 s : State} {t : Nat} {term : Nat} {cls : Nat} (hk0 : Frame M s0 s)
    (_hL : W.popDeep &&& M = W.popDeep) : Frame M s0 (State.popDeep s t term cls) := by
  unfold State.popDeep
  try dsimp only
  repeat' first
    | (with_reducible assumption)
    | (split)
    | (with_reducible refine Frame.foldl ?_ ?_)
    | (exact Nat.zero_and _)
    | (intro u hu x hx)
    | (intro u hu)
    | (refine Frame.bitMem (by with_reducible assumption) ?_)
    | (refine Frame.bitMemFst (by with_reducible assumption) ?_)
    | (with_reducible apply Frame.emit)
    | (with_reducible apply Frame.givePages)
    | (with_reducible apply Frame.setDeepQ)
    | (with_reducible refine Frame.fst ?_ (by with_reducible assumption))
    | (with_reducible refine Frame.snd ?_ (by with_reducible assumption))
    | (with_reducible refine Frame.mk_other ?_)
    | decide

/-- What `State.loseDeep` may write: register fields by number, memory at 1000. -/
def W.loseDeep : Nat := 0x100000000000000000000000000000000000000000000000000000000000000000000000000000000000000000000000000000000000000000000000c0000000000020000000000000000000000000000000000000000000000000072401202800000000000000000000000000000000000000000000000000000000000

theorem Frame.loseDeep {M : Nat} {s0 s : State} {t : Nat} {term : Nat} {cls : Nat} {f : DeepFrame} (hk0 : Frame M s0 s)
    (hL : W.loseDeep &&& M = W.loseDeep) : Frame M s0 (State.loseDeep s t term cls f) := by
  unfold State.loseDeep
  try dsimp only
  repeat' first
    | (with_reducible assumption)
    | (split)
    | (with_reducible refine Frame.foldl ?_ ?_)
    | (exact Nat.zero_and _)
    | (exact Frame.sub hL (by decide))
    | (exact Frame.bitOf hL (by decide))
    | (intro u hu x hx)
    | (intro u hu)
    | (refine Frame.bitMem (by with_reducible assumption) ?_)
    | (refine Frame.sub_all hL (by first | decide | (simp only [List.map_cons, List.map_nil]; decide)))
    | (refine Frame.bitMemFst (by with_reducible assumption) ?_)
    | (with_reducible apply Frame.emit)
    | (with_reducible apply Frame.popDeep)
    | (with_reducible apply Frame.addCnt)
    | (with_reducible apply Frame.endFrame)
    | decide

/-- What `State.refillLoop` may write: register fields by number, memory at 1000. -/
def W.refillLoop : Nat := 0x100000000000000000000000000000000000000000000000000000000000000000000000000000000000000000000000000000000000000000000000c0000000000021800000000000000000000000000000000000000000000000072401202800000000000000000000000000000000000000000000000000000000000

theorem Frame.refillLoop_at {s0 s : State} {t term cls n : Nat} (h : Frame W.refillLoop s0 s) : Frame W.refillLoop s0 (State.refillLoop s t term cls n) := by
  induction n generalizing s with
  | zero => exact h
  | succ n ih =>
    unfold State.refillLoop
    split
    · exact h
    · dsimp only
      split
      · exact h
      · split
        · rename_i hr
          exact ih (Frame.loseDeep (hL := by decide) (Frame.snd (Frame.stackRead (hL := by decide) h) hr))
        · rename_i hr
          have h1 := Frame.snd (Frame.stackRead (hL := by decide) h) hr
          split
          · exact h1
          · rename_i hc
            exact ih (Frame.blockEvent (hL := by decide) (Frame.setTree (_hL := by decide) (Frame.popDeep (_hL := by decide) (Frame.takeCells (hL := by decide) h1 hc))))

theorem Frame.refillLoop {M : Nat} {s0 s : State} {t term cls n : Nat} (hk0 : Frame M s0 s) (hL : W.refillLoop &&& M = W.refillLoop) :
    Frame M s0 (State.refillLoop s t term cls n) := hk0.trans ((Frame.refillLoop_at (Frame.refl _ _) ).mono hL)

/-- What `State.cutQueue` may write: register fields by number, memory at 1000. -/
def W.cutQueue : Nat := 0x100000000000000000000000000000000000000000000000000000000000000000000000000000000000000000000000000000000000000000000000c0000000000020000000000000000000000000000000000000000000000000072401202800000000000000000000000000000000000000000000000000000000000

theorem Frame.cutQueue {M : Nat} {s0 s : State} {t : Nat} {term : Nat} {cls : Nat} {keep : Nat} (hk0 : Frame M s0 s)
    (hL : W.cutQueue &&& M = W.cutQueue) : Frame M s0 (State.cutQueue s t term cls keep) := by
  unfold State.cutQueue
  try dsimp only
  repeat' first
    | (with_reducible assumption)
    | (split)
    | (with_reducible refine Frame.foldl ?_ ?_)
    | (exact Nat.zero_and _)
    | (exact Frame.sub hL (by decide))
    | (exact Frame.bitOf hL (by decide))
    | (intro u hu x hx)
    | (intro u hu)
    | (refine Frame.bitMem (by with_reducible assumption) ?_)
    | (refine Frame.sub_all hL (by first | decide | (simp only [List.map_cons, List.map_nil]; decide)))
    | (refine Frame.bitMemFst (by with_reducible assumption) ?_)
    | (with_reducible apply Frame.emit)
    | (with_reducible apply Frame.take)
    | (with_reducible apply Frame.cutPages)
    | (with_reducible apply Frame.givePages)
    | (with_reducible apply Frame.setDeepQ)
    | (with_reducible apply Frame.endFrame)
    | (with_reducible apply Frame.addCnt)
    | (with_reducible refine Frame.mk_other ?_)
    | decide

/-- What `State.readDeep` may write: register fields by number, memory at 1000. -/
def W.readDeep : Nat := 0x100000000000000000000000000000000000000000000000000000000000000000000000000000000000000000000000000000000000000000000000c0000000000021800000000000000000000000000000000000000000000000072401202800000000000000000000000000000000000000000000000000000000000

theorem Frame.readDeep {M : Nat} {s0 s : State} {t : Nat} {term : Nat} {cls : Nat} (hk0 : Frame M s0 s)
    (hL : W.readDeep &&& M = W.readDeep) : Frame M s0 (State.readDeep s t term cls) := by
  unfold State.readDeep
  try dsimp only
  repeat' first
    | (with_reducible assumption)
    | (split)
    | (with_reducible refine Frame.foldl ?_ ?_)
    | (exact Nat.zero_and _)
    | (exact Frame.sub hL (by decide))
    | (exact Frame.bitOf hL (by decide))
    | (intro u hu x hx)
    | (intro u hu)
    | (refine Frame.bitMem (by with_reducible assumption) ?_)
    | (refine Frame.sub_all hL (by first | decide | (simp only [List.map_cons, List.map_nil]; decide)))
    | (refine Frame.bitMemFst (by with_reducible assumption) ?_)
    | (with_reducible apply Frame.emit)
    | (with_reducible apply Frame.linkRead)
    | (with_reducible apply Frame.cutQueue)
    | (with_reducible refine Frame.fst ?_ (by with_reducible assumption))
    | (with_reducible refine Frame.snd ?_ (by with_reducible assumption))
    | (with_reducible refine Frame.mk_other ?_)
    | decide

/-- What `State.serveRefill` may write: register fields by number, memory at 1000. -/
def W.serveRefill : Nat := 0x100000000000000000000000000000000000000000000000000000000000000000000000000000000000000000000000000000000000000000000000c0000000000021800000000000000000000000000000000000000000000000072401202800000000000000000000000000000000000000000000000000000000000

theorem Frame.serveRefill {M : Nat} {s0 s : State} {k : Key} (hk0 : Frame M s0 s)
    (hL : W.serveRefill &&& M = W.serveRefill) : Frame M s0 (State.serveRefill s k) := by
  unfold State.serveRefill
  try dsimp only
  repeat' first
    | (with_reducible assumption)
    | (split)
    | (with_reducible refine Frame.foldl ?_ ?_)
    | (exact Nat.zero_and _)
    | (exact Frame.sub hL (by decide))
    | (exact Frame.bitOf hL (by decide))
    | (intro u hu x hx)
    | (intro u hu)
    | (refine Frame.bitMem (by with_reducible assumption) ?_)
    | (refine Frame.sub_all hL (by first | decide | (simp only [List.map_cons, List.map_nil]; decide)))
    | (refine Frame.bitMemFst (by with_reducible assumption) ?_)
    | (with_reducible apply Frame.emit)
    | (with_reducible apply Frame.readDeep)
    | (with_reducible apply Frame.refillLoop)
    | (with_reducible apply Frame.setBuf)
    | (with_reducible apply Frame.wakeStaged)
    | (with_reducible apply Frame.settleAll)
    | (with_reducible refine Frame.mk_other ?_)
    | decide

/-- What `State.popSpill` may write: register fields by number, memory at 1000. -/
def W.popSpill : Nat := 0x0

theorem Frame.popSpill {M : Nat} {s0 s : State} {lane : Nat} {cls : Nat} {brine : List UsFrame} (hk0 : Frame M s0 s)
    (_hL : W.popSpill &&& M = W.popSpill) : Frame M s0 (State.popSpill s lane cls brine) := by
  unfold State.popSpill
  try dsimp only
  repeat' first
    | (with_reducible assumption)
    | (split)
    | (with_reducible refine Frame.foldl ?_ ?_)
    | (exact Nat.zero_and _)
    | (intro u hu x hx)
    | (intro u hu)
    | (refine Frame.bitMem (by with_reducible assumption) ?_)
    | (refine Frame.bitMemFst (by with_reducible assumption) ?_)
    | (with_reducible apply Frame.emit)
    | (with_reducible apply Frame.givePages)
    | (with_reducible apply Frame.setEgressQ)
    | (with_reducible refine Frame.fst ?_ (by with_reducible assumption))
    | (with_reducible refine Frame.snd ?_ (by with_reducible assumption))
    | (with_reducible refine Frame.mk_other ?_)
    | decide

/-- What `State.cutSpill` may write: register fields by number, memory at 1000. -/
def W.cutSpill : Nat := 0x100000000000000000000000000000000000000000000000000000000000000000000000000000000000000000000000000000000000000000000000c0000000000020000000000000000000000000000000000000000000000000072401202800000000000000000000000000000000000000000000000000000000000

theorem Frame.cutSpill {M : Nat} {s0 s : State} {lane : Nat} {cls : Nat} {keep : Nat} (hk0 : Frame M s0 s)
    (hL : W.cutSpill &&& M = W.cutSpill) : Frame M s0 (State.cutSpill s lane cls keep) := by
  unfold State.cutSpill
  try dsimp only
  repeat' first
    | (with_reducible assumption)
    | (split)
    | (with_reducible refine Frame.foldl ?_ ?_)
    | (exact Nat.zero_and _)
    | (exact Frame.sub hL (by decide))
    | (exact Frame.bitOf hL (by decide))
    | (intro u hu x hx)
    | (intro u hu)
    | (refine Frame.bitMem (by with_reducible assumption) ?_)
    | (refine Frame.sub_all hL (by first | decide | (simp only [List.map_cons, List.map_nil]; decide)))
    | (refine Frame.bitMemFst (by with_reducible assumption) ?_)
    | (with_reducible apply Frame.emit)
    | (with_reducible apply Frame.take)
    | (with_reducible apply Frame.cutPages)
    | (with_reducible apply Frame.givePages)
    | (with_reducible apply Frame.setEgressQ)
    | (with_reducible apply Frame.addCnt)
    | (with_reducible apply Frame.endFrame)
    | (with_reducible refine Frame.mk_other ?_)
    | decide

end Sys2Proof.Machine
end

