-- ==== Sys2Proof/Laws/FrameResetOps.lean ====
section
/-! SUPPORT. Which registers, and whether the memories, the operations of ResetOps may write (Laws/Frame.lean). -/

namespace Sys2Proof.Machine

set_option Elab.async false
set_option linter.all false

/-- What `State.setBusQ` may write: register fields by number, memory at 1000. -/
def W.setBusQ : Nat := 0x0

theorem Frame.setBusQ {M : Nat} {s0 s : State} {b : Nat} {l : List ModTx} (hk0 : Frame M s0 s)
    (_hL : W.setBusQ &&& M = W.setBusQ) : Frame M s0 (State.setBusQ s b l) := by
  unfold State.setBusQ
  try dsimp only
  repeat' first
    | (with_reducible assumption)
    | (split)
    | (with_reducible refine Frame.foldl ?_ ?_)
    | (exact Nat.zero_and _)
    | (intro u hu x hx)
    | (intro u hu)
    | (refine Frame.bitMem (by with_reducible assumption) ?_)
    | (refine Frame.bitMemFst (by with_reducible assumption) ?_)
    | (with_reducible apply Frame.emit)
    | (with_reducible refine Frame.mk_other ?_)
    | decide

/-- What `State.busNext` may write: register fields by number, memory at 1000. -/
def W.busNext : Nat := 0x0

theorem Frame.busNext {M : Nat} {s0 s : State} {b : Nat} (hk0 : Frame M s0 s)
    (_hL : W.busNext &&& M = W.busNext) : Frame M s0 (State.busNext s b) := by
  unfold State.busNext
  try dsimp only
  repeat' first
    | (with_reducible assumption)
    | (split)
    | (with_reducible refine Frame.foldl ?_ ?_)
    | (exact Nat.zero_and _)
    | (intro u hu x hx)
    | (intro u hu)
    | (refine Frame.bitMem (by with_reducible assumption) ?_)
    | (refine Frame.bitMemFst (by with_reducible assumption) ?_)
    | (with_reducible apply Frame.emit)
    | (with_reducible apply Frame.setBusQ)
    | (with_reducible refine Frame.fst ?_ (by with_reducible assumption))
    | (with_reducible refine Frame.snd ?_ (by with_reducible assumption))
    | (with_reducible refine Frame.mk_other ?_)
    | decide

/-- What `State.busAdd` may write: register fields by number, memory at 1000. -/
def W.busAdd : Nat := 0x0

theorem Frame.busAdd {M : Nat} {s0 s : State} {x : ModTx} (hk0 : Frame M s0 s)
    (_hL : W.busAdd &&& M = W.busAdd) : Frame M s0 (State.busAdd s x) := by
  unfold State.busAdd
  try dsimp only
  repeat' first
    | (with_reducible assumption)
    | (split)
    | (with_reducible refine Frame.foldl ?_ ?_)
    | (exact Nat.zero_and _)
    | (intro u hu x hx)
    | (intro u hu)
    | (refine Frame.bitMem (by with_reducible assumption) ?_)
    | (refine Frame.bitMemFst (by with_reducible assumption) ?_)
    | (with_reducible apply Frame.emit)
    | (with_reducible apply Frame.setBusQ)
    | (with_reducible apply Frame.busNext)
    | decide

/-- What `State.busEnd` may write: register fields by number, memory at 1000. -/
def W.busEnd : Nat := 0x0

theorem Frame.busEnd_at {s0 s t : State} {b : Nat} {x : ModTx} (h : Frame W.busEnd s0 s) (e : s.busEnd b = some (x, t)) : Frame W.busEnd s0 t := by
  unfold State.busEnd at e
  split at e
  · contradiction
  · simp only [Option.some.injEq, Prod.mk.injEq] at e
    obtain ⟨_, rfl⟩ := e
    exact Frame.setBusQ (_hL := by decide) h

theorem Frame.busEnd {M : Nat} {s0 s t : State} {b : Nat} {x : ModTx} (hk0 : Frame M s0 s) (e : s.busEnd b = some (x, t)) (_hL : W.busEnd &&& M = W.busEnd) :
    Frame M s0 t := hk0.trans ((Frame.busEnd_at (Frame.refl _ _) e).mono _hL)

/-- What `State.busRelease` may write: register fields by number, memory at 1000. -/
def W.busRelease : Nat := 0x0

theorem Frame.busRelease {M : Nat} {s0 s : State} {d : Nat} (hk0 : Frame M s0 s)
    (_hL : W.busRelease &&& M = W.busRelease) : Frame M s0 (State.busRelease s d) := by
  unfold State.busRelease
  try dsimp only
  repeat' first
    | (with_reducible assumption)
    | (split)
    | (with_reducible refine Frame.foldl ?_ ?_)
    | (exact Nat.zero_and _)
    | (intro u hu x hx)
    | (intro u hu)
    | (refine Frame.bitMem (by with_reducible assumption) ?_)
    | (refine Frame.bitMemFst (by with_reducible assumption) ?_)
    | (with_reducible apply Frame.emit)
    | (with_reducible apply Frame.setBusQ)
    | (with_reducible apply Frame.busNext)
    | (with_reducible refine Frame.mk_other ?_)
    | decide

/-- What `State.railsOff` may write: register fields by number, memory at 1000. -/
def W.railsOff : Nat := 0x200000000000000000000000000000000000000000000000000000000000000000000000000000000000000000000000000000000000000000

theorem Frame.railsOff {M : Nat} {s0 s : State} {d : Nat} (hk0 : Frame M s0 s)
    (hL : W.railsOff &&& M = W.railsOff) : Frame M s0 (State.railsOff s d) := by
  unfold State.railsOff
  try dsimp only
  repeat' first
    | (with_reducible assumption)
    | (split)
    | (with_reducible refine Frame.foldl ?_ ?_)
    | (exact Nat.zero_and _)
    | (exact Frame.sub hL (by decide))
    | (exact Frame.bitOf hL (by decide))
    | (intro u hu x hx)
    | (intro u hu)
    | (refine Frame.bitMem (by with_reducible assumption) ?_)
    | (refine Frame.sub_all hL (by first | decide | (simp only [List.map_cons, List.map_nil]; decide)))
    | (refine Frame.bitMemFst (by with_reducible assumption) ?_)
    | (with_reducible apply Frame.emit)
    | (with_reducible apply Frame.railSet)
    | decide

end Sys2Proof.Machine
end

