-- ==== Sys2Proof/Laws/FramePower.lean ====
section
/-! SUPPORT. Which registers, and whether the memories, the operations of Power may write (Laws/Frame.lean). -/

namespace Sys2Proof.Machine

set_option Elab.async false
set_option linter.all false

/-- What `State.stopCycles` may write: register fields by number, memory at 1000. -/
def W.stopCycles : Nat := 0x400000000000000000000000000000000000000000000000000000000000000000000000000000000000000000000000000000000000000000

theorem Frame.stopCycles {M : Nat} {s0 s : State} {d : Nat} (hk0 : Frame M s0 s)
    (hL : W.stopCycles &&& M = W.stopCycles) : Frame M s0 (State.stopCycles s d) := by
  unfold State.stopCycles
  try dsimp only
  repeat' first
    | (with_reducible assumption)
    | (split)
    | (with_reducible refine Frame.foldl ?_ ?_)
    | (exact Nat.zero_and _)
    | (exact Frame.sub hL (by decide))
    | (exact Frame.bitOf hL (by decide))
    | (intro u hu x hx)
    | (intro u hu)
    | (refine Frame.bitMem (by with_reducible assumption) ?_)
    | (refine Frame.sub_all hL (by first | decide | (simp only [List.map_cons, List.map_nil]; decide)))
    | (refine Frame.bitMemFst (by with_reducible assumption) ?_)
    | (with_reducible refine Frame.wr ?_ ?_)
    | (with_reducible apply Frame.emit)
    | decide

/-- What `State.leaveOn` may write: register fields by number, memory at 1000. -/
def W.leaveOn : Nat := 0xc000000000002000040000000000000000000000000000000000000000000007200000000000000000c002a0f000000000000000000000000000200000000000000

theorem Frame.leaveOn {M : Nat} {s0 s : State} {d : Nat} (hk0 : Frame M s0 s)
    (hL : W.leaveOn &&& M = W.leaveOn) : Frame M s0 (State.leaveOn s d) := by
  unfold State.leaveOn
  try dsimp only
  repeat' first
    | (with_reducible assumption)
    | (split)
    | (with_reducible refine Frame.foldl ?_ ?_)
    | (exact Nat.zero_and _)
    | (exact Frame.sub hL (by decide))
    | (exact Frame.bitOf hL (by decide))
    | (intro u hu x hx)
    | (intro u hu)
    | (refine Frame.bitMem (by with_reducible assumption) ?_)
    | (refine Frame.sub_all hL (by first | decide | (simp only [List.map_cons, List.map_nil]; decide)))
    | (refine Frame.bitMemFst (by with_reducible assumption) ?_)
    | (with_reducible apply Frame.emit)
    | (with_reducible apply Frame.stopCycles)
    | (with_reducible apply Frame.busRelease)
    | (with_reducible apply Frame.sluDomainLeft)
    | (with_reducible apply Frame.tbLeave)
    | decide

/-- What `State.fabWithdraw` may write: register fields by number, memory at 1000. -/
def W.fabWithdraw : Nat := 0xc0000000000020000000000000000000000000020000000000000000000000072000000000000000000000000000000000000000000000000000000000000000000

theorem Frame.fabWithdraw {M : Nat} {s0 s : State} (hk0 : Frame M s0 s)
    (hL : W.fabWithdraw &&& M = W.fabWithdraw) : Frame M s0 (State.fabWithdraw s) := by
  unfold State.fabWithdraw
  try dsimp only
  repeat' first
    | (with_reducible assumption)
    | (split)
    | (with_reducible refine Frame.foldl ?_ ?_)
    | (exact Nat.zero_and _)
    | (exact Frame.sub hL (by decide))
    | (exact Frame.bitOf hL (by decide))
    | (intro u hu x hx)
    | (intro u hu)
    | (refine Frame.bitMem (by with_reducible assumption) ?_)
    | (refine Frame.sub_all hL (by first | decide | (simp only [List.map_cons, List.map_nil]; decide)))
    | (refine Frame.bitMemFst (by with_reducible assumption) ?_)
    | (with_reducible apply Frame.emit)
    | (with_reducible apply Frame.floodRouteOf)
    | (with_reducible apply Frame.putFab)
    | (with_reducible refine Frame.mk_other ?_)
    | decide

/-- What `State.beginFall` may write: register fields by number, memory at 1000. -/
def W.beginFall : Nat := 0xc000000000002000040000530000000000000002000000000000000000000007200000000000000000c002a0f000000000000000000000000000200000000000000

theorem Frame.beginFall {M : Nat} {s0 s : State} {d : Nat} {target : Nat} {n : Nat} (hk0 : Frame M s0 s)
    (hL : W.beginFall &&& M = W.beginFall) : Frame M s0 (State.beginFall s d target n) := by
  unfold State.beginFall
  try dsimp only
  repeat' first
    | (with_reducible assumption)
    | (split)
    | (with_reducible refine Frame.foldl ?_ ?_)
    | (exact Nat.zero_and _)
    | (exact Frame.sub hL (by decide))
    | (exact Frame.bitOf hL (by decide))
    | (intro u hu x hx)
    | (intro u hu)
    | (refine Frame.bitMem (by with_reducible assumption) ?_)
    | (refine Frame.sub_all hL (by first | decide | (simp only [List.map_cons, List.map_nil]; decide)))
    | (refine Frame.bitMemFst (by with_reducible assumption) ?_)
    | (with_reducible refine Frame.wr ?_ ?_)
    | (with_reducible apply Frame.emit)
    | (with_reducible apply Frame.fabWithdraw)
    | (with_reducible apply Frame.leaveOn)
    | (with_reducible apply Frame.setDom)
    | (with_reducible refine Frame.mk_other ?_)
    | decide

/-- What `State.fabDown` may write: register fields by number, memory at 1000. -/
def W.fabDown : Nat := 0xc000000000002000000000000000000000003fe26f0003be00000000000000072000000000000000000000000000000000000000000001000000000000000000000

theorem Frame.fabDown {M : Nat} {s0 s : State} (hk0 : Frame M s0 s)
    (hL : W.fabDown &&& M = W.fabDown) : Frame M s0 (State.fabDown s) := by
  unfold State.fabDown
  try dsimp only
  repeat' first
    | (with_reducible assumption)
    | (split)
    | (with_reducible refine Frame.foldl ?_ ?_)
    | (exact Nat.zero_and _)
    | (exact Frame.sub hL (by decide))
    | (exact Frame.bitOf hL (by decide))
    | (intro u hu x hx)
    | (intro u hu)
    | (refine Frame.bitMem (by with_reducible assumption) ?_)
    | (refine Frame.sub_all hL (by first | decide | (simp only [List.map_cons, List.map_nil]; decide)))
    | (refine Frame.bitMemFst (by with_reducible assumption) ?_)
    | (with_reducible refine Frame.wr ?_ ?_)
    | (with_reducible apply Frame.emit)
    | (with_reducible apply Frame.linkDown)
    | (with_reducible apply Frame.setRoute)
    | (with_reducible apply Frame.putFab)
    | (with_reducible apply Frame.peerTide)
    | (with_reducible refine Frame.mk_other ?_)
    | decide

/-- What `State.unholdChannel` may write: register fields by number, memory at 1000. -/
def W.unholdChannel : Nat := 0x60000000000000000000000000000000000000000000000000000000000000000000000

theorem Frame.unholdChannel {M : Nat} {s0 s : State} {c : Nat} (hk0 : Frame M s0 s)
    (hL : W.unholdChannel &&& M = W.unholdChannel) : Frame M s0 (State.unholdChannel s c) := by
  unfold State.unholdChannel
  try dsimp only
  repeat' first
    | (with_reducible assumption)
    | (split)
    | (with_reducible refine Frame.foldl ?_ ?_)
    | (exact Nat.zero_and _)
    | (exact Frame.sub hL (by decide))
    | (exact Frame.bitOf hL (by decide))
    | (intro u hu x hx)
    | (intro u hu)
    | (refine Frame.bitMem (by with_reducible assumption) ?_)
    | (refine Frame.sub_all hL (by first | decide | (simp only [List.map_cons, List.map_nil]; decide)))
    | (refine Frame.bitMemFst (by with_reducible assumption) ?_)
    | (with_reducible refine Frame.wr ?_ ?_)
    | (with_reducible apply Frame.emit)
    | decide

/-- What `State.failTable` may write: register fields by number, memory at 1000. -/
def W.failTable : Nat := 0x100000000000000000000000000000000000000000000000000000000000000000000000000000000000000000000000000000000000000000000000c03ffc00000021800000000000000000000000000000000000042d020600e0872401302a00000000000000000000000000000000000000000000000000000000000

theorem Frame.failTable {M : Nat} {s0 s : State} {which : TblCmd → Bool} (hk0 : Frame M s0 s)
    (hL : W.failTable &&& M = W.failTable) : Frame M s0 (State.failTable s which) := by
  unfold State.failTable
  try dsimp only
  repeat' first
    | (with_reducible assumption)
    | (split)
    | (with_reducible refine Frame.foldl ?_ ?_)
    | (exact Nat.zero_and _)
    | (exact Frame.sub hL (by decide))
    | (exact Frame.bitOf hL (by decide))
    | (intro u hu x hx)
    | (intro u hu)
    | (refine Frame.bitMem (by with_reducible assumption) ?_)
    | (refine Frame.sub_all hL (by first | decide | (simp only [List.map_cons, List.map_nil]; decide)))
    | (refine Frame.bitMemFst (by with_reducible assumption) ?_)
    | (with_reducible apply Frame.emit)
    | (with_reducible apply Frame.setTabs)
    | (with_reducible apply Frame.unholdChannel)
    | (with_reducible apply Frame.tblNext)
    | (with_reducible apply Frame.answerFailed)
    | (with_reducible refine Frame.mk_other ?_)
    | decide

/-- What `State.failHarvests` may write: register fields by number, memory at 1000. -/
def W.failHarvests : Nat := 0x100000000000000000000000000000000000000000000000000000000000000000000000000000000000000000000000000000000000000000000000c0000000000021800000000000000000000000000000000000042d00000060072401302a00000000000000000000000000000000000000000000000000000000000

theorem Frame.failHarvests {M : Nat} {s0 s : State} (hk0 : Frame M s0 s)
    (hL : W.failHarvests &&& M = W.failHarvests) : Frame M s0 (State.failHarvests s) := by
  unfold State.failHarvests
  try dsimp only
  repeat' first
    | (with_reducible assumption)
    | (split)
    | (with_reducible refine Frame.foldl ?_ ?_)
    | (exact Nat.zero_and _)
    | (exact Frame.sub hL (by decide))
    | (exact Frame.bitOf hL (by decide))
    | (intro u hu x hx)
    | (intro u hu)
    | (refine Frame.bitMem (by with_reducible assumption) ?_)
    | (refine Frame.sub_all hL (by first | decide | (simp only [List.map_cons, List.map_nil]; decide)))
    | (refine Frame.bitMemFst (by with_reducible assumption) ?_)
    | (with_reducible apply Frame.emit)
    | (with_reducible apply Frame.setMon)
    | (with_reducible apply Frame.unholdChannel)
    | (with_reducible apply Frame.answerFailed)
    | (with_reducible refine Frame.mk_other ?_)
    | decide

/-- What `State.loseHeld` may write: register fields by number, memory at 1000. -/
def W.loseHeld : Nat := 0x100000000000000000000000000000000000000000000000000000000000000000000000000000000000000000000000000000000000000000000000c03ffc00000021800000000000000000000000000000000000042d020600e0872401302a00000000001000000000000000000000000000000000000000004380000

theorem Frame.loseHeld {M : Nat} {s0 s : State} {d : Nat} (hk0 : Frame M s0 s)
    (hL : W.loseHeld &&& M = W.loseHeld) : Frame M s0 (State.loseHeld s d) := by
  unfold State.loseHeld
  try dsimp only
  repeat' first
    | (with_reducible assumption)
    | (split)
    | (with_reducible refine Frame.foldl ?_ ?_)
    | (exact Nat.zero_and _)
    | (exact Frame.sub hL (by decide))
    | (exact Frame.bitOf hL (by decide))
    | (intro u hu x hx)
    | (intro u hu)
    | (refine Frame.bitMem (by with_reducible assumption) ?_)
    | (refine Frame.sub_all hL (by first | decide | (simp only [List.map_cons, List.map_nil]; decide)))
    | (refine Frame.bitMemFst (by with_reducible assumption) ?_)
    | (with_reducible refine Frame.wr ?_ ?_)
    | (with_reducible apply Frame.emit)
    | (with_reducible apply Frame.setEng)
    | (with_reducible apply Frame.setTree)
    | (with_reducible apply Frame.setTreeU)
    | (with_reducible apply Frame.putTel)
    | (with_reducible apply Frame.putSluTrees)
    | (with_reducible apply Frame.setSluUnit)
    | (with_reducible apply Frame.countForecasts)
    | (with_reducible apply Frame.failTable)
    | (with_reducible apply Frame.failHarvests)
    | (with_reducible apply Frame.setTabs)
    | (with_reducible apply Frame.freeCells)
    | (with_reducible apply Frame.setBuf)
    | (with_reducible apply Frame.disown)
    | (with_reducible refine Frame.mk_other ?_)
    | decide

/-- What `State.loseDomain` may write: register fields by number, memory at 1000. -/
def W.loseDomain : Nat := 0x100000000000000000000000000000000000000000000000000000000000000000000000000000000000000000000000000000000000000000000000c03ffc00000021800000000000000000000000000000000000042d020600e0872401302a00000000001000000000000000000000000000000000000000004380000

theorem Frame.loseDomain {M : Nat} {s0 s : State} {d : Nat} (hk0 : Frame M s0 s)
    (hL : W.loseDomain &&& M = W.loseDomain) : Frame M s0 (State.loseDomain s d) := by
  unfold State.loseDomain
  try dsimp only
  repeat' first
    | (with_reducible assumption)
    | (split)
    | (with_reducible refine Frame.foldl ?_ ?_)
    | (exact Nat.zero_and _)
    | (exact Frame.sub hL (by decide))
    | (exact Frame.bitOf hL (by decide))
    | (intro u hu x hx)
    | (intro u hu)
    | (refine Frame.bitMem (by with_reducible assumption) ?_)
    | (refine Frame.sub_all hL (by first | decide | (simp only [List.map_cons, List.map_nil]; decide)))
    | (refine Frame.bitMemFst (by with_reducible assumption) ?_)
    | (with_reducible apply Frame.emit)
    | (with_reducible apply Frame.loseHeld)
    | (with_reducible apply Frame.rewrite)
    | decide

/-- What `State.takeSentinel` may write: register fields by number, memory at 1000. -/
def W.takeSentinel : Nat := 0x0

theorem Frame.takeSentinel {M : Nat} {s0 s : State} {t : Nat} (hk0 : Frame M s0 s)
    (_hL : W.takeSentinel &&& M = W.takeSentinel) : Frame M s0 (State.takeSentinel s t) := by
  unfold State.takeSentinel
  try dsimp only
  repeat' first
    | (with_reducible assumption)
    | (split)
    | (with_reducible refine Frame.foldl ?_ ?_)
    | (exact Nat.zero_and _)
    | (intro u hu x hx)
    | (intro u hu)
    | (refine Frame.bitMem (by with_reducible assumption) ?_)
    | (refine Frame.bitMemFst (by with_reducible assumption) ?_)
    | (with_reducible apply Frame.emit)
    | (with_reducible apply Frame.putSents)
    | decide

/-- What `State.enterRet` may write: register fields by number, memory at 1000. -/
def W.enterRet : Nat := 0xc000000000002000000000000000000000003fe26f0003be00000000000000072000000000000000000000000000000000000000000001000000000000000000000

theorem Frame.enterRet {M : Nat} {s0 s : State} {d : Nat} (hk0 : Frame M s0 s)
    (hL : W.enterRet &&& M = W.enterRet) : Frame M s0 (State.enterRet s d) := by
  unfold State.enterRet
  try dsimp only
  repeat' first
    | (with_reducible assumption)
    | (split)
    | (with_reducible refine Frame.foldl ?_ ?_)
    | (exact Nat.zero_and _)
    | (exact Frame.sub hL (by decide))
    | (exact Frame.bitOf hL (by decide))
    | (intro u hu x hx)
    | (intro u hu)
    | (refine Frame.bitMem (by with_reducible assumption) ?_)
    | (refine Frame.sub_all hL (by first | decide | (simp only [List.map_cons, List.map_nil]; decide)))
    | (refine Frame.bitMemFst (by with_reducible assumption) ?_)
    | (with_reducible apply Frame.emit)
    | (with_reducible apply Frame.takeSentinel)
    | (with_reducible apply Frame.fabDown)
    | decide

/-- What `State.engFromOff` may write: register fields by number, memory at 1000. -/
def W.engFromOff : Nat := 0x8000000000000000000000000000000000000000000000000000

theorem Frame.engFromOff {M : Nat} {s0 s : State} {e : Nat} (hk0 : Frame M s0 s)
    (hL : W.engFromOff &&& M = W.engFromOff) : Frame M s0 (State.engFromOff s e) := by
  unfold State.engFromOff
  try dsimp only
  repeat' first
    | (with_reducible assumption)
    | (split)
    | (with_reducible refine Frame.foldl ?_ ?_)
    | (exact Nat.zero_and _)
    | (exact Frame.sub hL (by decide))
    | (exact Frame.bitOf hL (by decide))
    | (intro u hu x hx)
    | (intro u hu)
    | (refine Frame.bitMem (by with_reducible assumption) ?_)
    | (refine Frame.sub_all hL (by first | decide | (simp only [List.map_cons, List.map_nil]; decide)))
    | (refine Frame.bitMemFst (by with_reducible assumption) ?_)
    | (with_reducible refine Frame.wr ?_ ?_)
    | (with_reducible apply Frame.emit)
    | (with_reducible apply Frame.setEng)
    | (with_reducible refine Frame.mk_other ?_)
    | decide

/-- What `State.engFromRet` may write: register fields by number, memory at 1000. -/
def W.engFromRet : Nat := 0xc4000000000020010000000000000000000000000000000000000000000000072000000000808000000000000000000000000000000000000000000000000000000

theorem Frame.engFromRet {M : Nat} {s0 s : State} {e : Nat} (hk0 : Frame M s0 s)
    (hL : W.engFromRet &&& M = W.engFromRet) : Frame M s0 (State.engFromRet s e) := by
  unfold State.engFromRet
  try dsimp only
  repeat' first
    | (with_reducible assumption)
    | (split)
    | (with_reducible refine Frame.foldl ?_ ?_)
    | (exact Nat.zero_and _)
    | (exact Frame.sub hL (by decide))
    | (exact Frame.bitOf hL (by decide))
    | (intro u hu x hx)
    | (intro u hu)
    | (refine Frame.bitMem (by with_reducible assumption) ?_)
    | (refine Frame.sub_all hL (by first | decide | (simp only [List.map_cons, List.map_nil]; decide)))
    | (refine Frame.bitMemFst (by with_reducible assumption) ?_)
    | (with_reducible apply Frame.emit)
    | (with_reducible apply Frame.setEng)
    | (with_reducible apply Frame.incSat)
    | (with_reducible apply Frame.peEvent)
    | (with_reducible apply Frame.engCount)
    | (with_reducible refine Frame.mk_other ?_)
    | decide

/-- What `State.reloadHalf` may write: register fields by number, memory at 1000. -/
def W.reloadHalf : Nat := 0x8000000000000000000000000000000000000000000000000000

theorem Frame.reloadHalf {M : Nat} {s0 s : State} {t : Nat} (hk0 : Frame M s0 s)
    (hL : W.reloadHalf &&& M = W.reloadHalf) : Frame M s0 (State.reloadHalf s t) := by
  unfold State.reloadHalf
  try dsimp only
  repeat' first
    | (with_reducible assumption)
    | (split)
    | (with_reducible refine Frame.foldl ?_ ?_)
    | (exact Nat.zero_and _)
    | (exact Frame.sub hL (by decide))
    | (exact Frame.bitOf hL (by decide))
    | (intro u hu x hx)
    | (intro u hu)
    | (refine Frame.bitMem (by with_reducible assumption) ?_)
    | (refine Frame.sub_all hL (by first | decide | (simp only [List.map_cons, List.map_nil]; decide)))
    | (refine Frame.bitMemFst (by with_reducible assumption) ?_)
    | (with_reducible apply Frame.emit)
    | (with_reducible apply Frame.loadHalf)
    | decide

/-- What `State.pairOn` may write: register fields by number, memory at 1000. -/
def W.pairOn : Nat := 0x100000000000000000000000000000000000000000000000000000000000000000000000000000000000000000000000000000000000000000000000c4000000000021810000000000000000000000000000000000042d00000000072401302a00808008000000000000000000000000000000000000000000000000000

theorem Frame.pairOn {M : Nat} {s0 s : State} {d : Nat} {off : Bool} (hk0 : Frame M s0 s)
    (hL : W.pairOn &&& M = W.pairOn) : Frame M s0 (State.pairOn s d off) := by
  unfold State.pairOn
  try dsimp only
  repeat' first
    | (with_reducible assumption)
    | (split)
    | (with_reducible refine Frame.foldl ?_ ?_)
    | (exact Nat.zero_and _)
    | (exact Frame.sub hL (by decide))
    | (exact Frame.bitOf hL (by decide))
    | (intro u hu x hx)
    | (intro u hu)
    | (refine Frame.bitMem (by with_reducible assumption) ?_)
    | (refine Frame.sub_all hL (by first | decide | (simp only [List.map_cons, List.map_nil]; decide)))
    | (refine Frame.bitMemFst (by with_reducible assumption) ?_)
    | (with_reducible apply Frame.emit)
    | (with_reducible apply Frame.engFromOff)
    | (with_reducible apply Frame.engFromRet)
    | (with_reducible apply Frame.reloadHalf)
    | (with_reducible apply Frame.fixStart)
    | (with_reducible apply Frame.riseTree)
    | (with_reducible apply Frame.busNext)
    | decide

/-- What `State.sluOn` may write: register fields by number, memory at 1000. -/
def W.sluOn : Nat := 0xc400000000002001000000000000000000000000000000000000000000000007200000000080800800000000f000000000000000000000000000000000000000000

theorem Frame.sluOn {M : Nat} {s0 s : State} {d : Nat} {off : Bool} (hk0 : Frame M s0 s)
    (hL : W.sluOn &&& M = W.sluOn) : Frame M s0 (State.sluOn s d off) := by
  unfold State.sluOn
  try dsimp only
  repeat' first
    | (with_reducible assumption)
    | (split)
    | (with_reducible refine Frame.foldl ?_ ?_)
    | (exact Nat.zero_and _)
    | (exact Frame.sub hL (by decide))
    | (exact Frame.bitOf hL (by decide))
    | (intro u hu x hx)
    | (intro u hu)
    | (refine Frame.bitMem (by with_reducible assumption) ?_)
    | (refine Frame.sub_all hL (by first | decide | (simp only [List.map_cons, List.map_nil]; decide)))
    | (refine Frame.bitMemFst (by with_reducible assumption) ?_)
    | (with_reducible apply Frame.emit)
    | (with_reducible apply Frame.engFromOff)
    | (with_reducible apply Frame.engFromRet)
    | (with_reducible apply Frame.beginLoad)
    | (with_reducible apply Frame.sluDomainOn)
    | (with_reducible refine Frame.fst ?_ (by with_reducible assumption))
    | (with_reducible refine Frame.snd ?_ (by with_reducible assumption))
    | (with_reducible refine Frame.mk_other ?_)
    | decide

/-- What `State.enterOn` may write: register fields by number, memory at 1000. -/
def W.enterOn : Nat := 0x100000000000000000000000000000000000000000000000000000000000000000000000000000000000000000000000000000000000000000000000c4000000000021810000000000000000000000000100030400042d00000000072401702e0080800800000000f000000000000000000010000000446000000000000

theorem Frame.enterOn {M : Nat} {s0 s : State} {d : Nat} {off : Bool} (hk0 : Frame M s0 s)
    (hL : W.enterOn &&& M = W.enterOn) : Frame M s0 (State.enterOn s d off) := by
  unfold State.enterOn
  extract_lets
  repeat' first
    | (with_reducible assumption)
    | (split)
    | (with_reducible refine Frame.foldl ?_ ?_)
    | (exact Nat.zero_and _)
    | (exact Frame.sub hL (by decide))
    | (exact Frame.bitOf hL (by decide))
    | (intro u hu x hx)
    | (intro u hu)
    | (refine Frame.bitMem (by with_reducible assumption) ?_)
    | (refine Frame.sub_all hL (by first | decide | (simp only [List.map_cons, List.map_nil]; decide)))
    | (refine Frame.bitMemFst (by with_reducible assumption) ?_)
    | (with_reducible refine Frame.wr ?_ ?_)
    | (with_reducible apply Frame.emit)
    | (with_reducible apply Frame.putBnd)
    | (with_reducible apply Frame.setMon)
    | (with_reducible apply Frame.pairOn)
    | (with_reducible apply Frame.sluOn)
    | (with_reducible apply Frame.tableInit)
    | (with_reducible apply Frame.startCredits)
    | (with_reducible apply Frame.replayDoorbells)
    | (with_reducible apply Frame.payOwed)
    | (with_reducible apply Frame.putFab)
    | (with_reducible apply Frame.linkUp)
    | (with_reducible apply Frame.tbResume)
    | (with_reducible refine Frame.mk_other ?_)
    | decide

/-- What `State.settled` may write: register fields by number, memory at 1000. -/
def W.settled : Nat := 0xc0000000000020000000007300000400000000000000000000000000000000072000000000000000000000000000000000000000000000000000000000000000000

theorem Frame.settled {M : Nat} {s0 s : State} {d : Nat} {st : Nat} (hk0 : Frame M s0 s)
    (hL : W.settled &&& M = W.settled) : Frame M s0 (State.settled s d st) := by
  unfold State.settled
  extract_lets
  repeat' first
    | (with_reducible assumption)
    | (split)
    | (with_reducible refine Frame.foldl ?_ ?_)
    | (exact Nat.zero_and _)
    | (exact Frame.sub hL (by decide))
    | (exact Frame.bitOf hL (by decide))
    | (intro u hu x hx)
    | (intro u hu)
    | (refine Frame.bitMem (by with_reducible assumption) ?_)
    | (refine Frame.sub_all hL (by first | decide | (simp only [List.map_cons, List.map_nil]; decide)))
    | (refine Frame.bitMemFst (by with_reducible assumption) ?_)
    | (with_reducible refine Frame.wr ?_ ?_)
    | (with_reducible apply Frame.emit)
    | (with_reducible apply Frame.setDom)
    | (with_reducible apply Frame.pwrEvent)
    | (with_reducible refine Frame.mk_other ?_)
    | decide

/-- What `State.dropRequest` may write: register fields by number, memory at 1000. -/
def W.dropRequest : Nat := 0xc0000000000020000000080000001000000000000000000000000000000000072000000000000000000000000000000000000000000000000000000000000000000

theorem Frame.dropRequest {M : Nat} {s0 s : State} {d : Nat} (hk0 : Frame M s0 s)
    (hL : W.dropRequest &&& M = W.dropRequest) : Frame M s0 (State.dropRequest s d) := by
  unfold State.dropRequest
  try dsimp only
  repeat' first
    | (with_reducible assumption)
    | (split)
    | (with_reducible refine Frame.foldl ?_ ?_)
    | (exact Nat.zero_and _)
    | (exact Frame.sub hL (by decide))
    | (exact Frame.bitOf hL (by decide))
    | (intro u hu x hx)
    | (intro u hu)
    | (refine Frame.bitMem (by with_reducible assumption) ?_)
    | (refine Frame.sub_all hL (by first | decide | (simp only [List.map_cons, List.map_nil]; decide)))
    | (refine Frame.bitMemFst (by with_reducible assumption) ?_)
    | (with_reducible apply Frame.emit)
    | (with_reducible apply Frame.countRefused)
    | (with_reducible apply Frame.pwrEvent)
    | decide

/-- What `State.replayOn` may write: register fields by number, memory at 1000. -/
def W.replayOn : Nat := 0xc0000000000020000200025f00000800000000000000000000000000000000072000000000000000000000000000000000000000000000000000000000000000000

theorem Frame.replayOn {M : Nat} {s0 s : State} {d : Nat} {n : Nat} (hk0 : Frame M s0 s)
    (hL : W.replayOn &&& M = W.replayOn) : Frame M s0 (State.replayOn s d n) := by
  unfold State.replayOn
  try dsimp only
  repeat' first
    | (with_reducible assumption)
    | (split)
    | (with_reducible refine Frame.foldl ?_ ?_)
    | (exact Nat.zero_and _)
    | (exact Frame.sub hL (by decide))
    | (exact Frame.bitOf hL (by decide))
    | (intro u hu x hx)
    | (intro u hu)
    | (refine Frame.bitMem (by with_reducible assumption) ?_)
    | (refine Frame.sub_all hL (by first | decide | (simp only [List.map_cons, List.map_nil]; decide)))
    | (refine Frame.bitMemFst (by with_reducible assumption) ?_)
    | (with_reducible apply Frame.emit)
    | (with_reducible apply Frame.wakeOne)
    | (with_reducible apply Frame.startRise)
    | (with_reducible apply Frame.advanceRises)
    | decide

/-- What `State.applyPending` may write: register fields by number, memory at 1000. -/
def W.applyPending : Nat := 0xc00000000000200006000a7f0000180000000002000000000000000000000007200000000000000000c002a0f000000000000000000000000000200000000000000

theorem Frame.applyPending {M : Nat} {s0 s : State} {d : Nat} (hk0 : Frame M s0 s)
    (hL : W.applyPending &&& M = W.applyPending) : Frame M s0 (State.applyPending s d) := by
  unfold State.applyPending
  try dsimp only
  repeat' first
    | (with_reducible assumption)
    | (split)
    | (with_reducible refine Frame.foldl ?_ ?_)
    | (exact Nat.zero_and _)
    | (exact Frame.sub hL (by decide))
    | (exact Frame.bitOf hL (by decide))
    | (intro u hu x hx)
    | (intro u hu)
    | (refine Frame.bitMem (by with_reducible assumption) ?_)
    | (refine Frame.sub_all hL (by first | decide | (simp only [List.map_cons, List.map_nil]; decide)))
    | (refine Frame.bitMemFst (by with_reducible assumption) ?_)
    | (with_reducible refine Frame.wr ?_ ?_)
    | (with_reducible apply Frame.emit)
    | (with_reducible apply Frame.unpend)
    | (with_reducible apply Frame.replayOn)
    | (with_reducible apply Frame.dropRequest)
    | (with_reducible apply Frame.beginFall)
    | decide

/-- What `State.requestFall` may write: register fields by number, memory at 1000. -/
def W.requestFall : Nat := 0xc0000000000020000400005f0000000000000002000000000000000000000007200000000000000000c002a0f000000000000000000000000000200000000000000

theorem Frame.requestFall {M : Nat} {s0 s : State} {d : Nat} {target : Nat} (hk0 : Frame M s0 s)
    (hL : W.requestFall &&& M = W.requestFall) : Frame M s0 (State.requestFall s d target).1 := by
  unfold State.requestFall
  try dsimp only
  repeat' first
    | (with_reducible assumption)
    | (split)
    | (with_reducible refine Frame.foldl ?_ ?_)
    | (exact Nat.zero_and _)
    | (exact Frame.sub hL (by decide))
    | (exact Frame.bitOf hL (by decide))
    | (intro u hu x hx)
    | (intro u hu)
    | (refine Frame.bitMem (by with_reducible assumption) ?_)
    | (refine Frame.sub_all hL (by first | decide | (simp only [List.map_cons, List.map_nil]; decide)))
    | (refine Frame.bitMemFst (by with_reducible assumption) ?_)
    | (with_reducible apply Frame.emit)
    | (with_reducible apply Frame.setDom)
    | (with_reducible apply Frame.beginFall)
    | (with_reducible apply Frame.unpend)
    | (with_reducible apply Frame.pend)
    | (with_reducible refine Frame.mk_other ?_)
    | decide

/-- What `State.requestRise` may write: register fields by number, memory at 1000. -/
def W.requestRise : Nat := 0xc0000000000020000200025f07e00800000000000000000000000000000000072000000000000000000000000000000000000000000000000000000000000000000

theorem Frame.requestRise {M : Nat} {s0 s : State} {d : Nat} (hk0 : Frame M s0 s)
    (hL : W.requestRise &&& M = W.requestRise) : Frame M s0 (State.requestRise s d).1 := by
  unfold State.requestRise
  try dsimp only
  repeat' first
    | (with_reducible assumption)
    | (split)
    | (with_reducible refine Frame.foldl ?_ ?_)
    | (exact Nat.zero_and _)
    | (exact Frame.sub hL (by decide))
    | (exact Frame.bitOf hL (by decide))
    | (intro u hu x hx)
    | (intro u hu)
    | (refine Frame.bitMem (by with_reducible assumption) ?_)
    | (refine Frame.sub_all hL (by first | decide | (simp only [List.map_cons, List.map_nil]; decide)))
    | (refine Frame.bitMemFst (by with_reducible assumption) ?_)
    | (with_reducible apply Frame.emit)
    | (with_reducible apply Frame.wake)
    | decide

/-- What `State.applySched` may write: register fields by number, memory at 1000. -/
def W.applySched : Nat := 0xc00000000000200006000a5f07e0180000000002000000000000000000000007200000000000000000c002a0f000000000000000000000000000200000000000000

theorem Frame.applySched {M : Nat} {s0 s : State} {d : Nat} {target : Nat} (hk0 : Frame M s0 s)
    (hL : W.applySched &&& M = W.applySched) : Frame M s0 (State.applySched s d target) := by
  unfold State.applySched
  try dsimp only
  repeat' first
    | (with_reducible assumption)
    | (split)
    | (with_reducible refine Frame.foldl ?_ ?_)
    | (exact Nat.zero_and _)
    | (exact Frame.sub hL (by decide))
    | (exact Frame.bitOf hL (by decide))
    | (intro u hu x hx)
    | (intro u hu)
    | (refine Frame.bitMem (by with_reducible assumption) ?_)
    | (refine Frame.sub_all hL (by first | decide | (simp only [List.map_cons, List.map_nil]; decide)))
    | (refine Frame.bitMemFst (by with_reducible assumption) ?_)
    | (with_reducible apply Frame.emit)
    | (with_reducible apply Frame.wake)
    | (with_reducible apply Frame.dropRequest)
    | (with_reducible apply Frame.requestFall)
    | decide

/-- What `State.unsched` may write: register fields by number, memory at 1000. -/
def W.unsched : Nat := 0x0

theorem Frame.unsched {M : Nat} {s0 s : State} {d : Nat} (hk0 : Frame M s0 s)
    (_hL : W.unsched &&& M = W.unsched) : Frame M s0 (State.unsched s d) := by
  unfold State.unsched
  try dsimp only
  repeat' first
    | (with_reducible assumption)
    | (split)
    | (with_reducible refine Frame.foldl ?_ ?_)
    | (exact Nat.zero_and _)
    | (intro u hu x hx)
    | (intro u hu)
    | (refine Frame.bitMem (by with_reducible assumption) ?_)
    | (refine Frame.bitMemFst (by with_reducible assumption) ?_)
    | (with_reducible apply Frame.emit)
    | (with_reducible apply Frame.setDom)
    | (with_reducible refine Frame.mk_other ?_)
    | decide

/-- What `State.schedule` may write: register fields by number, memory at 1000. -/
def W.schedule : Nat := 0xc00000000000200006000a5f07e0180000000002000000000000000000000007200000000000000000c002a0f000000000000000000000000000200000000000000

theorem Frame.schedule {M : Nat} {s0 s : State} {d : Nat} {target : Nat} {at_ : Int} (hk0 : Frame M s0 s)
    (hL : W.schedule &&& M = W.schedule) : Frame M s0 (State.schedule s d target at_) := by
  unfold State.schedule
  try dsimp only
  repeat' first
    | (with_reducible assumption)
    | (split)
    | (with_reducible refine Frame.foldl ?_ ?_)
    | (exact Nat.zero_and _)
    | (exact Frame.sub hL (by decide))
    | (exact Frame.bitOf hL (by decide))
    | (intro u hu x hx)
    | (intro u hu)
    | (refine Frame.bitMem (by with_reducible assumption) ?_)
    | (refine Frame.sub_all hL (by first | decide | (simp only [List.map_cons, List.map_nil]; decide)))
    | (refine Frame.bitMemFst (by with_reducible assumption) ?_)
    | (with_reducible apply Frame.emit)
    | (with_reducible apply Frame.unsched)
    | (with_reducible apply Frame.applySched)
    | (with_reducible apply Frame.setDom)
    | (with_reducible refine Frame.mk_other ?_)
    | decide

/-- What `State.pwrRequest` may write: register fields by number, memory at 1000. -/
def W.pwrRequest : Nat := 0xc00000000000200006000a5f07e0180000000002000000000000000000000007200000000000000000c002a0f000000000000000000000000000200000000000000

theorem Frame.pwrRequest {M : Nat} {s0 s : State} {p : List Byte} (hk0 : Frame M s0 s)
    (hL : W.pwrRequest &&& M = W.pwrRequest) : Frame M s0 (State.pwrRequest s p).1 := by
  unfold State.pwrRequest
  try dsimp only
  repeat' first
    | (with_reducible assumption)
    | (split)
    | (with_reducible refine Frame.foldl ?_ ?_)
    | (exact Nat.zero_and _)
    | (exact Frame.sub hL (by decide))
    | (exact Frame.bitOf hL (by decide))
    | (intro u hu x hx)
    | (intro u hu)
    | (refine Frame.bitMem (by with_reducible assumption) ?_)
    | (refine Frame.sub_all hL (by first | decide | (simp only [List.map_cons, List.map_nil]; decide)))
    | (refine Frame.bitMemFst (by with_reducible assumption) ?_)
    | (with_reducible apply Frame.emit)
    | (with_reducible apply Frame.unsched)
    | (with_reducible apply Frame.schedule)
    | (with_reducible apply Frame.requestRise)
    | (with_reducible apply Frame.requestFall)
    | (with_reducible refine Frame.fst ?_ (by with_reducible assumption))
    | (with_reducible refine Frame.snd ?_ (by with_reducible assumption))
    | (with_reducible refine Frame.mk_other ?_)
    | decide

/-- What `State.pwrStatus` may write: register fields by number, memory at 1000. -/
def W.pwrStatus : Nat := 0x0

theorem Frame.pwrStatus {M : Nat} {s0 s : State} {p : List Byte} (hk0 : Frame M s0 s)
    (_hL : W.pwrStatus &&& M = W.pwrStatus) : Frame M s0 (State.pwrStatus s p).1 := by
  unfold State.pwrStatus
  try dsimp only
  repeat' first
    | (with_reducible assumption)
    | (split)
    | (with_reducible refine Frame.foldl ?_ ?_)
    | (exact Nat.zero_and _)
    | (intro u hu x hx)
    | (intro u hu)
    | (refine Frame.bitMem (by with_reducible assumption) ?_)
    | (refine Frame.bitMemFst (by with_reducible assumption) ?_)
    | (with_reducible apply Frame.emit)
    | (with_reducible refine Frame.fst ?_ (by with_reducible assumption))
    | (with_reducible refine Frame.snd ?_ (by with_reducible assumption))
    | (with_reducible refine Frame.mk_other ?_)
    | decide

/-- What `State.pwrWake` may write: register fields by number, memory at 1000. -/
def W.pwrWake : Nat := 0xc0000000000020000200025f07e00800000000000000000000000000000000072000000000000000000000000000000000000000000000000000000000000000000

theorem Frame.pwrWake {M : Nat} {s0 s : State} {v : Nat} (hk0 : Frame M s0 s)
    (hL : W.pwrWake &&& M = W.pwrWake) : Frame M s0 (State.pwrWake s v) := by
  unfold State.pwrWake
  try dsimp only
  repeat' first
    | (with_reducible assumption)
    | (split)
    | (with_reducible refine Frame.foldl ?_ ?_)
    | (exact Nat.zero_and _)
    | (exact Frame.sub hL (by decide))
    | (exact Frame.bitOf hL (by decide))
    | (intro u hu x hx)
    | (intro u hu)
    | (refine Frame.bitMem (by with_reducible assumption) ?_)
    | (refine Frame.sub_all hL (by first | decide | (simp only [List.map_cons, List.map_nil]; decide)))
    | (refine Frame.bitMemFst (by with_reducible assumption) ?_)
    | (with_reducible apply Frame.emit)
    | (with_reducible apply Frame.wake)
    | decide

/-- What `State.setMv` may write: register fields by number, memory at 1000. -/
def W.setMv : Nat := 0x50000000000000000000000000000000000000000000000000000000000000000000000000000000000000000000000000000000000

theorem Frame.setMv {M : Nat} {s0 s : State} {mv : Nat} (hk0 : Frame M s0 s)
    (hL : W.setMv &&& M = W.setMv) : Frame M s0 (State.setMv s mv) := by
  unfold State.setMv
  try dsimp only
  repeat' first
    | (with_reducible assumption)
    | (split)
    | (with_reducible refine Frame.foldl ?_ ?_)
    | (exact Nat.zero_and _)
    | (exact Frame.sub hL (by decide))
    | (exact Frame.bitOf hL (by decide))
    | (intro u hu x hx)
    | (intro u hu)
    | (refine Frame.bitMem (by with_reducible assumption) ?_)
    | (refine Frame.sub_all hL (by first | decide | (simp only [List.map_cons, List.map_nil]; decide)))
    | (refine Frame.bitMemFst (by with_reducible assumption) ?_)
    | (with_reducible refine Frame.wr ?_ ?_)
    | (with_reducible apply Frame.emit)
    | (with_reducible apply Frame.wrB)
    | decide

/-- What `State.writePol` may write: register fields by number, memory at 1000. -/
def W.writePol : Nat := 0x3f0000000000000000000000000000000000000000000000000000000000000000000000000000000000000000000000000000000000000000

theorem Frame.writePol {M : Nat} {s0 s : State} {k : Nat} {v : Nat} (hk0 : Frame M s0 s)
    (hL : W.writePol &&& M = W.writePol) : Frame M s0 (State.writePol s k v) := by
  unfold State.writePol
  try dsimp only
  repeat' first
    | (with_reducible assumption)
    | (split)
    | (with_reducible refine Frame.foldl ?_ ?_)
    | (exact Nat.zero_and _)
    | (exact Frame.sub hL (by decide))
    | (exact Frame.bitOf hL (by decide))
    | (intro u hu x hx)
    | (intro u hu)
    | (refine Frame.bitMem (by with_reducible assumption) ?_)
    | (refine Frame.sub_all hL (by first | decide | (simp only [List.map_cons, List.map_nil]; decide)))
    | (refine Frame.bitMemFst (by with_reducible assumption) ?_)
    | (with_reducible apply Frame.emit)
    | (with_reducible apply Frame.writeFields)
    | (with_reducible apply Frame.railSet)
    | decide

end Sys2Proof.Machine
end

