-- ==== Sys2Proof/Laws/FrameReset.lean ====
section
/-! SUPPORT. Which registers, and whether the memories, the operations of Reset may write (Laws/Frame.lean). -/

namespace Sys2Proof.Machine

set_option Elab.async false
set_option linter.all false

/-- What `State.railsDrop` may write: register fields by number, memory at 1000. -/
def W.railsDrop : Nat := 0x200000000000000000000000000000000000000000000000000000000000000000000000000000000000000000000000000000000000000000

theorem Frame.railsDrop {M : Nat} {s0 s : State} (hk0 : Frame M s0 s)
    (hL : W.railsDrop &&& M = W.railsDrop) : Frame M s0 (State.railsDrop s) := by
  unfold State.railsDrop
  try dsimp only
  repeat' first
    | (with_reducible assumption)
    | (split)
    | (with_reducible refine Frame.foldl ?_ ?_)
    | (exact Nat.zero_and _)
    | (exact Frame.sub hL (by decide))
    | (exact Frame.bitOf hL (by decide))
    | (intro u hu x hx)
    | (intro u hu)
    | (refine Frame.bitMem (by with_reducible assumption) ?_)
    | (refine Frame.sub_all hL (by first | decide | (simp only [List.map_cons, List.map_nil]; decide)))
    | (refine Frame.bitMemFst (by with_reducible assumption) ?_)
    | (with_reducible apply Frame.emit)
    | (with_reducible apply Frame.railsOff)
    | decide

/-- What `State.startUp` may write: register fields by number, memory at 1000. -/
def W.startUp : Nat := 0x200025300000000000000000000000000000000000000000000000000000000000000000000000000000000000000000000000000000000000

theorem Frame.startUp {M : Nat} {s0 s : State} (hk0 : Frame M s0 s)
    (hL : W.startUp &&& M = W.startUp) : Frame M s0 (State.startUp s) := by
  unfold State.startUp
  try dsimp only
  repeat' first
    | (with_reducible assumption)
    | (split)
    | (with_reducible refine Frame.foldl ?_ ?_)
    | (exact Nat.zero_and _)
    | (exact Frame.sub hL (by decide))
    | (exact Frame.bitOf hL (by decide))
    | (intro u hu x hx)
    | (intro u hu)
    | (refine Frame.bitMem (by with_reducible assumption) ?_)
    | (refine Frame.sub_all hL (by first | decide | (simp only [List.map_cons, List.map_nil]; decide)))
    | (refine Frame.bitMemFst (by with_reducible assumption) ?_)
    | (with_reducible apply Frame.emit)
    | (with_reducible apply Frame.startRise)
    | (with_reducible apply Frame.advanceRises)
    | decide

end Sys2Proof.Machine
end

