-- ==== Sys2Proof/Laws/FrameBoundary.lean ====
section
/-! SUPPORT. Which registers, and whether the memories, the operations of Boundary may write (Laws/Frame.lean). -/

namespace Sys2Proof.Machine

set_option Elab.async false
set_option linter.all false

/-- What `State.writeModCmd` may write: register fields by number, memory at 1000. -/
def W.writeModCmd : Nat := 0x6f80

theorem Frame.writeModCmd {M : Nat} {s0 s : State} {t : Nat} {v : Nat} (hk0 : Frame M s0 s)
    (hL : W.writeModCmd &&& M = W.writeModCmd) : Frame M s0 (State.writeModCmd s t v) := by
  unfold State.writeModCmd
  try dsimp only
  repeat' first
    | (with_reducible assumption)
    | (split)
    | (with_reducible refine Frame.foldl ?_ ?_)
    | (exact Nat.zero_and _)
    | (exact Frame.sub hL (by decide))
    | (exact Frame.bitOf hL (by decide))
    | (intro u hu x hx)
    | (intro u hu)
    | (refine Frame.bitMem (by with_reducible assumption) ?_)
    | (refine Frame.sub_all hL (by first | decide | (simp only [List.map_cons, List.map_nil]; decide)))
    | (refine Frame.bitMemFst (by with_reducible assumption) ?_)
    | (with_reducible refine Frame.wr ?_ ?_)
    | (with_reducible apply Frame.emit)
    | (with_reducible apply Frame.writeFields)
    | (with_reducible apply Frame.busAdd)
    | decide

/-- What `State.modDone` may write: register fields by number, memory at 1000. -/
def W.modDone : Nat := 0xe000

theorem Frame.modDone {M : Nat} {s0 s : State} {x : ModTx} {ok : Bool} {data : Nat} (hk0 : Frame M s0 s)
    (hL : W.modDone &&& M = W.modDone) : Frame M s0 (State.modDone s x ok data) := by
  unfold State.modDone
  try dsimp only
  repeat' first
    | (with_reducible assumption)
    | (split)
    | (with_reducible refine Frame.foldl ?_ ?_)
    | (exact Nat.zero_and _)
    | (exact Frame.sub hL (by decide))
    | (exact Frame.bitOf hL (by decide))
    | (intro u hu x hx)
    | (intro u hu)
    | (refine Frame.bitMem (by with_reducible assumption) ?_)
    | (refine Frame.sub_all hL (by first | decide | (simp only [List.map_cons, List.map_nil]; decide)))
    | (refine Frame.bitMemFst (by with_reducible assumption) ?_)
    | (with_reducible refine Frame.wr ?_ ?_)
    | (with_reducible apply Frame.emit)
    | (with_reducible apply Frame.wrB)
    | decide

/-- What `State.pollAdd` may write: register fields by number, memory at 1000. -/
def W.pollAdd : Nat := 0x0

theorem Frame.pollAdd {M : Nat} {s0 s : State} {t : Nat} {std : Nat} {place : Nat} {p : PollStep} (hk0 : Frame M s0 s)
    (_hL : W.pollAdd &&& M = W.pollAdd) : Frame M s0 (State.pollAdd s t std place p) := by
  unfold State.pollAdd
  try dsimp only
  repeat' first
    | (with_reducible assumption)
    | (split)
    | (with_reducible refine Frame.foldl ?_ ?_)
    | (exact Nat.zero_and _)
    | (intro u hu x hx)
    | (intro u hu)
    | (refine Frame.bitMem (by with_reducible assumption) ?_)
    | (refine Frame.bitMemFst (by with_reducible assumption) ?_)
    | (with_reducible apply Frame.emit)
    | (with_reducible apply Frame.busAdd)
    | decide

/-- What `State.modPolled` may write: register fields by number, memory at 1000. -/
def W.modPolled : Nat := 0x0

theorem Frame.modPolled {M : Nat} {s0 s : State} {t : Nat} {o : Optics} (hk0 : Frame M s0 s)
    (_hL : W.modPolled &&& M = W.modPolled) : Frame M s0 (State.modPolled s t o) := by
  unfold State.modPolled
  try dsimp only
  repeat' first
    | (with_reducible assumption)
    | (split)
    | (with_reducible refine Frame.foldl ?_ ?_)
    | (exact Nat.zero_and _)
    | (intro u hu x hx)
    | (intro u hu)
    | (refine Frame.bitMem (by with_reducible assumption) ?_)
    | (refine Frame.bitMemFst (by with_reducible assumption) ?_)
    | (with_reducible apply Frame.emit)
    | (with_reducible apply Frame.setMon)
    | (with_reducible refine Frame.mk_other ?_)
    | decide

/-- What `State.pollNext` may write: register fields by number, memory at 1000. -/
def W.pollNext : Nat := 0x0

theorem Frame.pollNext {M : Nat} {s0 s : State} {x : ModTx} {o : Optics} (hk0 : Frame M s0 s)
    (_hL : W.pollNext &&& M = W.pollNext) : Frame M s0 (State.pollNext s x o) := by
  unfold State.pollNext
  try dsimp only
  repeat' first
    | (with_reducible assumption)
    | (split)
    | (with_reducible refine Frame.foldl ?_ ?_)
    | (exact Nat.zero_and _)
    | (intro u hu x hx)
    | (intro u hu)
    | (refine Frame.bitMem (by with_reducible assumption) ?_)
    | (refine Frame.bitMemFst (by with_reducible assumption) ?_)
    | (with_reducible apply Frame.emit)
    | (with_reducible apply Frame.pollAdd)
    | (with_reducible apply Frame.modPolled)
    | (with_reducible refine Frame.fst ?_ (by with_reducible assumption))
    | (with_reducible refine Frame.snd ?_ (by with_reducible assumption))
    | (with_reducible refine Frame.mk_other ?_)
    | decide

end Sys2Proof.Machine
end

