-- ==== Sys2Proof/Laws/DoesBoundary.lean ====
section
/-! SUPPORT. For each command of Boundary, a mask of the registers it may write, and of the memories (Laws/Frame.lean). -/

namespace Sys2Proof.Machine

set_option Elab.async false
set_option linter.all false

theorem execTreModCmdStart_frame {port : PortId} {t : TreeId} {v : BitVec 32} {s : State} {nx : State} (hex : execTreModCmdStart port t v s = .next nx) :
    Frame 0xf001c06f80 s nx := by
  unfold execTreModCmdStart at hex
  rw [← Host.Outcome.next.inj hex]
  have hk0 := Frame.refl 0xf001c06f80 s
  try dsimp only
  repeat' first
    | (with_reducible assumption)
    | (split)
    | (with_reducible refine Frame.foldl ?_ ?_)
    | decide
    | (intro u hu x hx)
    | (intro u hu)
    | (refine Frame.bitMem (by with_reducible assumption) (by decide))
    | (refine Frame.bitMemFst (by with_reducible assumption) (by (simp only [List.map_cons, List.map_nil]; decide)))
    | (with_reducible apply Frame.emit)
    | (with_reducible apply Frame.winWrite)
    | (with_reducible apply Frame.writeModCmd)
    | (with_reducible refine Frame.fst ?_ (by with_reducible assumption))
    | (with_reducible refine Frame.snd ?_ (by with_reducible assumption))
    | decide

theorem execModTransactionDone_frame {bus : Fin 12} {ack : Bool} {data : BitVec 32} {optics : Optics} {s : State} {nx : State} (hex : execModTransactionDone bus ack data optics s = .next nx) :
    Frame 0xe000 s nx := by
  unfold execModTransactionDone at hex
  rw [← Host.Outcome.next.inj hex]
  have hk0 := Frame.refl 0xe000 s
  try dsimp only
  repeat' first
    | (with_reducible assumption)
    | (split)
    | (with_reducible refine Frame.foldl ?_ ?_)
    | decide
    | (intro u hu x hx)
    | (intro u hu)
    | (refine Frame.bitMem (by with_reducible assumption) (by decide))
    | (refine Frame.bitMemFst (by with_reducible assumption) (by (simp only [List.map_cons, List.map_nil]; decide)))
    | (with_reducible apply Frame.emit)
    | (with_reducible refine Frame.busEnd ?_ (by with_reducible assumption) ?_)
    | (with_reducible apply Frame.pollNext)
    | (with_reducible apply Frame.modDone)
    | (with_reducible apply Frame.busNext)
    | (with_reducible refine Frame.fst ?_ (by with_reducible assumption))
    | (with_reducible refine Frame.snd ?_ (by with_reducible assumption))
    | (with_reducible refine Frame.mk_other ?_)
    | decide

theorem execClockStretchTimeout_frame {bus : Fin 12} {s : State} {nx : State} (hex : execClockStretchTimeout bus s = .next nx) :
    Frame 0xe000 s nx := by
  unfold execClockStretchTimeout at hex
  rw [← Host.Outcome.next.inj hex]
  have hk0 := Frame.refl 0xe000 s
  try dsimp only
  repeat' first
    | (with_reducible assumption)
    | (split)
    | (with_reducible refine Frame.foldl ?_ ?_)
    | decide
    | (intro u hu x hx)
    | (intro u hu)
    | (refine Frame.bitMem (by with_reducible assumption) (by decide))
    | (refine Frame.bitMemFst (by with_reducible assumption) (by (simp only [List.map_cons, List.map_nil]; decide)))
    | (with_reducible apply Frame.emit)
    | (with_reducible refine Frame.busEnd ?_ (by with_reducible assumption) ?_)
    | (with_reducible apply Frame.modDone)
    | (with_reducible apply Frame.busNext)
    | (with_reducible refine Frame.fst ?_ (by with_reducible assumption))
    | (with_reducible refine Frame.snd ?_ (by with_reducible assumption))
    | (with_reducible refine Frame.mk_other ?_)
    | decide

theorem execModulePoll_frame {s : State} {nx : State} (hex : execModulePoll s = .next nx) :
    Frame 0x0 s nx := by
  unfold execModulePoll at hex
  rw [← Host.Outcome.next.inj hex]
  have hk0 := Frame.refl 0x0 s
  try dsimp only
  repeat' first
    | (with_reducible assumption)
    | (split)
    | (with_reducible refine Frame.foldl ?_ ?_)
    | decide
    | (intro u hu x hx)
    | (intro u hu)
    | (refine Frame.bitMem (by with_reducible assumption) (by decide))
    | (refine Frame.bitMemFst (by with_reducible assumption) (by (simp only [List.map_cons, List.map_nil]; decide)))
    | (with_reducible apply Frame.emit)
    | (with_reducible apply Frame.pollAdd)
    | (with_reducible refine Frame.fst ?_ (by with_reducible assumption))
    | (with_reducible refine Frame.snd ?_ (by with_reducible assumption))
    | decide

end Sys2Proof.Machine
end

