-- ==== Sys2Proof/Laws/DoesBuffers.lean ====
section
/-! SUPPORT. For each command of Buffers, a mask of the registers it may write, and of the memories (Laws/Frame.lean). -/

namespace Sys2Proof.Machine

set_option Elab.async false
set_option linter.all false

theorem execBufferConfig_frame {src : Src} {s : State} {nx : State} (hex : execBufferConfig src s = .next nx) :
    Frame 0x100000000000000000000000000000000000000000000000000000000000000000000000000000000000000000000000000000000000000000000000c0000000000021800000000000000000000000000000000000042d00000000072401302a00000000000000000000000000000000000000000000000000000000000 s nx := by
  unfold execBufferConfig at hex
  rw [← Host.Outcome.next.inj hex]
  have hk0 := Frame.refl 0x100000000000000000000000000000000000000000000000000000000000000000000000000000000000000000000000000000000000000000000000c0000000000021800000000000000000000000000000000000042d00000000072401302a00000000000000000000000000000000000000000000000000000000000 s
  try dsimp only
  repeat' first
    | (with_reducible assumption)
    | (split)
    | (with_reducible refine Frame.foldl ?_ ?_)
    | (intro hu)
    | decide
    | (intro u hu x hx)
    | (intro u hu)
    | (refine Frame.bitMem (by with_reducible assumption) (by decide))
    | (refine Frame.bitMemFst (by with_reducible assumption) (by (simp only [List.map_cons, List.map_nil]; decide)))
    | (with_reducible apply Frame.emit)
    | (with_reducible apply Frame.calvan)
    | (with_reducible apply Frame.atOnce)
    | (with_reducible apply Frame.bufferConfig)
    | (with_reducible refine Frame.fst ?_ (by with_reducible assumption))
    | (with_reducible refine Frame.snd ?_ (by with_reducible assumption))
    | decide

theorem execBufferStatus_frame {src : Src} {s : State} {nx : State} (hex : execBufferStatus src s = .next nx) :
    Frame 0x100000000000000000000000000000000000000000000000000000000000000000000000000000000000000000000000000000000000000000000000c0000000000021800000000000000000000000000000000000042d00000000072401302a00000000000000000000000000000000000000000000000000000000000 s nx := by
  unfold execBufferStatus at hex
  rw [← Host.Outcome.next.inj hex]
  have hk0 := Frame.refl 0x100000000000000000000000000000000000000000000000000000000000000000000000000000000000000000000000000000000000000000000000c0000000000021800000000000000000000000000000000000042d00000000072401302a00000000000000000000000000000000000000000000000000000000000 s
  try dsimp only
  repeat' first
    | (with_reducible assumption)
    | (split)
    | (with_reducible refine Frame.foldl ?_ ?_)
    | (intro hu)
    | decide
    | (intro u hu x hx)
    | (intro u hu)
    | (refine Frame.bitMem (by with_reducible assumption) (by decide))
    | (refine Frame.bitMemFst (by with_reducible assumption) (by (simp only [List.map_cons, List.map_nil]; decide)))
    | (with_reducible apply Frame.emit)
    | (with_reducible apply Frame.calvan)
    | (with_reducible apply Frame.atOnce)
    | (with_reducible apply Frame.bufferStatus)
    | (with_reducible refine Frame.fst ?_ (by with_reducible assumption))
    | (with_reducible refine Frame.snd ?_ (by with_reducible assumption))
    | decide

theorem execQueueProfile_frame {src : Src} {s : State} {nx : State} (hex : execQueueProfile src s = .next nx) :
    Frame 0x100000000000000000000000000000000000000000000000000000000000000000000000000000000000000000000000000000000000000000000000c0000000000021800000000000000000000000000000000000042d00000000072401302a00000000000000000000000000000000000000000000000000000000000 s nx := by
  unfold execQueueProfile at hex
  rw [← Host.Outcome.next.inj hex]
  have hk0 := Frame.refl 0x100000000000000000000000000000000000000000000000000000000000000000000000000000000000000000000000000000000000000000000000c0000000000021800000000000000000000000000000000000042d00000000072401302a00000000000000000000000000000000000000000000000000000000000 s
  try dsimp only
  repeat' first
    | (with_reducible assumption)
    | (split)
    | (with_reducible refine Frame.foldl ?_ ?_)
    | (intro hu)
    | decide
    | (intro u hu x hx)
    | (intro u hu)
    | (refine Frame.bitMem (by with_reducible assumption) (by decide))
    | (refine Frame.bitMemFst (by with_reducible assumption) (by (simp only [List.map_cons, List.map_nil]; decide)))
    | (with_reducible apply Frame.emit)
    | (with_reducible apply Frame.calvan)
    | (with_reducible apply Frame.atOnce)
    | (with_reducible apply Frame.queueProfile)
    | (with_reducible refine Frame.fst ?_ (by with_reducible assumption))
    | (with_reducible refine Frame.snd ?_ (by with_reducible assumption))
    | decide

theorem execQueueSet_frame {src : Src} {s : State} {nx : State} (hex : execQueueSet src s = .next nx) :
    Frame 0x100000000000000000000000000000000000000000000000000000000000000000000000000000000000000000000000000000000000000000000000c0000000000021800000000000000000000000000000000000042d00000000072401302a00000000000000000000000000000000000000000000000000000000000 s nx := by
  unfold execQueueSet at hex
  rw [← Host.Outcome.next.inj hex]
  have hk0 := Frame.refl 0x100000000000000000000000000000000000000000000000000000000000000000000000000000000000000000000000000000000000000000000000c0000000000021800000000000000000000000000000000000042d00000000072401302a00000000000000000000000000000000000000000000000000000000000 s
  try dsimp only
  repeat' first
    | (with_reducible assumption)
    | (split)
    | (with_reducible refine Frame.foldl ?_ ?_)
    | (intro hu)
    | decide
    | (intro u hu x hx)
    | (intro u hu)
    | (refine Frame.bitMem (by with_reducible assumption) (by decide))
    | (refine Frame.bitMemFst (by with_reducible assumption) (by (simp only [List.map_cons, List.map_nil]; decide)))
    | (with_reducible apply Frame.emit)
    | (with_reducible apply Frame.calvan)
    | (with_reducible apply Frame.atOnce)
    | (with_reducible apply Frame.queueSet)
    | (with_reducible refine Frame.fst ?_ (by with_reducible assumption))
    | (with_reducible refine Frame.snd ?_ (by with_reducible assumption))
    | decide

theorem execQueueStatus_frame {src : Src} {s : State} {nx : State} (hex : execQueueStatus src s = .next nx) :
    Frame 0x100000000000000000000000000000000000000000000000000000000000000000000000000000000000000000000000000000000000000000000000c0000000000021800000000000000000000000000000000000042d00000000072401302a00000000000000000000000000000000000000000000000000000000000 s nx := by
  unfold execQueueStatus at hex
  rw [← Host.Outcome.next.inj hex]
  have hk0 := Frame.refl 0x100000000000000000000000000000000000000000000000000000000000000000000000000000000000000000000000000000000000000000000000c0000000000021800000000000000000000000000000000000042d00000000072401302a00000000000000000000000000000000000000000000000000000000000 s
  try dsimp only
  repeat' first
    | (with_reducible assumption)
    | (split)
    | (with_reducible refine Frame.foldl ?_ ?_)
    | (intro hu)
    | decide
    | (intro u hu x hx)
    | (intro u hu)
    | (refine Frame.bitMem (by with_reducible assumption) (by decide))
    | (refine Frame.bitMemFst (by with_reducible assumption) (by (simp only [List.map_cons, List.map_nil]; decide)))
    | (with_reducible apply Frame.emit)
    | (with_reducible apply Frame.calvan)
    | (with_reducible apply Frame.atOnce)
    | (with_reducible apply Frame.queueStatus)
    | (with_reducible refine Frame.fst ?_ (by with_reducible assumption))
    | (with_reducible refine Frame.snd ?_ (by with_reducible assumption))
    | decide

theorem execTrunkIngress_frame {lane : LaneId} {hdr : List Byte} {frame : List Byte} {s : State} {nx : State} (hex : execTrunkIngress lane hdr frame s = .next nx) :
    Frame 0xc0000000000020000000000000000000000000000000000000000000000000072000000000000000000000000000000000000000000000000000000000000000000 s nx := by
  unfold execTrunkIngress at hex
  rw [← Host.Outcome.next.inj hex]
  have hk0 := Frame.refl 0xc0000000000020000000000000000000000000000000000000000000000000072000000000000000000000000000000000000000000000000000000000000000000 s
  try dsimp only
  repeat' first
    | (with_reducible assumption)
    | (split)
    | (with_reducible refine Frame.foldl ?_ ?_)
    | decide
    | (intro u hu x hx)
    | (intro u hu)
    | (refine Frame.bitMem (by with_reducible assumption) (by decide))
    | (refine Frame.bitMemFst (by with_reducible assumption) (by (simp only [List.map_cons, List.map_nil]; decide)))
    | (with_reducible apply Frame.emit)
    | (with_reducible apply Frame.addCnt)
    | (with_reducible apply Frame.blockEvent)
    | (with_reducible apply Frame.setBuf)
    | (with_reducible apply Frame.ingressDrop)
    | (with_reducible apply Frame.take)
    | (with_reducible refine Frame.takeCells ?_ (by with_reducible assumption) ?_)
    | (with_reducible apply Frame.returnCredit)
    | (with_reducible refine Frame.fst ?_ (by with_reducible assumption))
    | (with_reducible refine Frame.snd ?_ (by with_reducible assumption))
    | (with_reducible refine Frame.mk_other ?_)
    | decide

theorem execTrunkSend_frame {lane : LaneId} {s : State} {nx : State} (hex : execTrunkSend lane s = .next nx) :
    Frame 0x100000000000000000000000000000000000000000000000000000000000000000000000000000000000000000000000000000000000000000000000c0000000000021800000000000000000000000000000000000000000000000072401202800000000000000000000000000000000000000000000000000000000000 s nx := by
  unfold execTrunkSend at hex
  rw [← Host.Outcome.next.inj hex]
  have hk0 := Frame.refl 0x100000000000000000000000000000000000000000000000000000000000000000000000000000000000000000000000000000000000000000000000c0000000000021800000000000000000000000000000000000000000000000072401202800000000000000000000000000000000000000000000000000000000000 s
  try dsimp only
  repeat' first
    | (with_reducible assumption)
    | (split)
    | (with_reducible refine Frame.foldl ?_ ?_)
    | decide
    | (intro u hu x hx)
    | (intro u hu)
    | (refine Frame.bitMem (by with_reducible assumption) (by decide))
    | (refine Frame.bitMemFst (by with_reducible assumption) (by (simp only [List.map_cons, List.map_nil]; decide)))
    | (with_reducible apply Frame.emit)
    | (with_reducible apply Frame.blockEvent)
    | (with_reducible apply Frame.cellRead)
    | (with_reducible apply Frame.loseHead)
    | (with_reducible apply Frame.setEgressQ)
    | (with_reducible apply Frame.setBuf)
    | (with_reducible apply Frame.addCnt)
    | (with_reducible apply Frame.freeCells)
    | (with_reducible apply Frame.finishTx)
    | (with_reducible apply Frame.egressSettle)
    | (with_reducible refine Frame.fst ?_ (by with_reducible assumption))
    | (with_reducible refine Frame.snd ?_ (by with_reducible assumption))
    | (with_reducible refine Frame.mk_other ?_)
    | decide

theorem execCreditReturn_frame {lane : LaneId} {cls : Fin 8} {count : Nat} {s : State} {nx : State} (hex : execCreditReturn lane cls count s = .next nx) :
    Frame 0xc0000000000020000000000000000000000000000000000000000000000000072000000000000000000000000000000000000000000000000000000000000000000 s nx := by
  unfold execCreditReturn at hex
  rw [← Host.Outcome.next.inj hex]
  have hk0 := Frame.refl 0xc0000000000020000000000000000000000000000000000000000000000000072000000000000000000000000000000000000000000000000000000000000000000 s
  try dsimp only
  repeat' first
    | (with_reducible assumption)
    | (split)
    | (with_reducible refine Frame.foldl ?_ ?_)
    | decide
    | (intro u hu x hx)
    | (intro u hu)
    | (refine Frame.bitMem (by with_reducible assumption) (by decide))
    | (refine Frame.bitMemFst (by with_reducible assumption) (by (simp only [List.map_cons, List.map_nil]; decide)))
    | (with_reducible apply Frame.emit)
    | (with_reducible apply Frame.setBuf)
    | (with_reducible apply Frame.blockEvent)
    | (with_reducible apply Frame.addCnt)
    | (with_reducible refine Frame.fst ?_ (by with_reducible assumption))
    | (with_reducible refine Frame.snd ?_ (by with_reducible assumption))
    | (with_reducible refine Frame.mk_other ?_)
    | decide

theorem execFeNotReady_frame {s : State} {nx : State} (hex : execFeNotReady s = .next nx) :
    Frame 0x0 s nx := by
  unfold execFeNotReady at hex
  rw [← Host.Outcome.next.inj hex]
  have hk0 := Frame.refl 0x0 s
  try dsimp only
  repeat' first
    | (with_reducible assumption)
    | (split)
    | (with_reducible refine Frame.foldl ?_ ?_)
    | decide
    | (intro u hu x hx)
    | (intro u hu)
    | (refine Frame.bitMem (by with_reducible assumption) (by decide))
    | (refine Frame.bitMemFst (by with_reducible assumption) (by (simp only [List.map_cons, List.map_nil]; decide)))
    | (with_reducible apply Frame.emit)
    | (with_reducible apply Frame.setBuf)
    | (with_reducible refine Frame.fst ?_ (by with_reducible assumption))
    | (with_reducible refine Frame.snd ?_ (by with_reducible assumption))
    | (with_reducible refine Frame.mk_other ?_)
    | decide

theorem execFeReady_frame {s : State} {nx : State} (hex : execFeReady s = .next nx) :
    Frame 0x0 s nx := by
  unfold execFeReady at hex
  rw [← Host.Outcome.next.inj hex]
  have hk0 := Frame.refl 0x0 s
  try dsimp only
  repeat' first
    | (with_reducible assumption)
    | (split)
    | (with_reducible refine Frame.foldl ?_ ?_)
    | decide
    | (intro u hu x hx)
    | (intro u hu)
    | (refine Frame.bitMem (by with_reducible assumption) (by decide))
    | (refine Frame.bitMemFst (by with_reducible assumption) (by (simp only [List.map_cons, List.map_nil]; decide)))
    | (with_reducible apply Frame.emit)
    | (with_reducible apply Frame.setBuf)
    | (with_reducible refine Frame.fst ?_ (by with_reducible assumption))
    | (with_reducible refine Frame.snd ?_ (by with_reducible assumption))
    | (with_reducible refine Frame.mk_other ?_)
    | decide

theorem execStagingRefill_frame {t : TreeId} {term : TermId} {cls : Fin 8} {errs : List Upset} {s : State} {nx : State} (hex : execStagingRefill t term cls errs s = .next nx) :
    Frame 0x100000000000000000000000000000000000000000000000000000000000000000000000000000000000000000000000000000000000000000000000c0000000000021800000000000000000000000000000000000000000000000072401202800000000000000000000000000000000000000000000000000000000000 s nx := by
  unfold execStagingRefill at hex
  rw [← Host.Outcome.next.inj hex]
  have hk0 := Frame.refl 0x100000000000000000000000000000000000000000000000000000000000000000000000000000000000000000000000000000000000000000000000c0000000000021800000000000000000000000000000000000000000000000072401202800000000000000000000000000000000000000000000000000000000000 s
  try dsimp only
  repeat' first
    | (with_reducible assumption)
    | (split)
    | (with_reducible refine Frame.foldl ?_ ?_)
    | decide
    | (intro u hu x hx)
    | (intro u hu)
    | (refine Frame.bitMem (by with_reducible assumption) (by decide))
    | (refine Frame.bitMemFst (by with_reducible assumption) (by (simp only [List.map_cons, List.map_nil]; decide)))
    | (with_reducible apply Frame.emit)
    | (with_reducible apply Frame.upset)
    | (with_reducible apply Frame.setBuf)
    | (with_reducible apply Frame.serveRefill)
    | (with_reducible refine Frame.fst ?_ (by with_reducible assumption))
    | (with_reducible refine Frame.snd ?_ (by with_reducible assumption))
    | (with_reducible refine Frame.mk_other ?_)
    | decide

theorem execOrphanReclaim_frame {s : State} {nx : State} (hex : execOrphanReclaim s = .next nx) :
    Frame 0x0 s nx := by
  unfold execOrphanReclaim at hex
  rw [← Host.Outcome.next.inj hex]
  have hk0 := Frame.refl 0x0 s
  try dsimp only
  repeat' first
    | (with_reducible assumption)
    | (split)
    | (with_reducible refine Frame.foldl ?_ ?_)
    | decide
    | (intro u hu x hx)
    | (intro u hu)
    | (refine Frame.bitMem (by with_reducible assumption) (by decide))
    | (refine Frame.bitMemFst (by with_reducible assumption) (by (simp only [List.map_cons, List.map_nil]; decide)))
    | (with_reducible apply Frame.emit)
    | (with_reducible apply Frame.setBuf)
    | (with_reducible apply Frame.givePages)
    | (with_reducible apply Frame.settleAll)
    | (with_reducible refine Frame.fst ?_ (by with_reducible assumption))
    | (with_reducible refine Frame.snd ?_ (by with_reducible assumption))
    | (with_reducible refine Frame.mk_other ?_)
    | decide

theorem execSpillWrite_frame {lane : LaneId} {cls : Fin 8} {s : State} {nx : State} (hex : execSpillWrite lane cls s = .next nx) :
    Frame 0x100000000000000000000000000000000000000000000000000000000000000000000000000000000000000000000000000000000000000000000000c0000000000021800000000000000000000000000000000000000000000000072401202800000000000000000000000000000000000000000000000000000000000 s nx := by
  unfold execSpillWrite at hex
  rw [← Host.Outcome.next.inj hex]
  have hk0 := Frame.refl 0x100000000000000000000000000000000000000000000000000000000000000000000000000000000000000000000000000000000000000000000000c0000000000021800000000000000000000000000000000000000000000000072401202800000000000000000000000000000000000000000000000000000000000 s
  try dsimp only
  repeat' first
    | (with_reducible assumption)
    | (split)
    | (with_reducible refine Frame.foldl ?_ ?_)
    | decide
    | (intro u hu x hx)
    | (intro u hu)
    | (refine Frame.bitMem (by with_reducible assumption) (by decide))
    | (refine Frame.bitMemFst (by with_reducible assumption) (by (simp only [List.map_cons, List.map_nil]; decide)))
    | (with_reducible apply Frame.emit)
    | (with_reducible apply Frame.cellRead)
    | (with_reducible apply Frame.setEgressQ)
    | (with_reducible apply Frame.freeCells)
    | (with_reducible apply Frame.endFrame)
    | (with_reducible apply Frame.egressSettle)
    | (with_reducible refine Frame.takePages ?_ (by with_reducible assumption) ?_)
    | (with_reducible apply Frame.addCnt)
    | (with_reducible apply Frame.blockEvent)
    | (with_reducible apply Frame.settleAll)
    | (with_reducible refine Frame.fst ?_ (by with_reducible assumption))
    | (with_reducible refine Frame.snd ?_ (by with_reducible assumption))
    | (with_reducible refine Frame.mk_other ?_)
    | decide

theorem execSpillReadback_frame {lane : LaneId} {cls : Fin 8} {s : State} {nx : State} (hex : execSpillReadback lane cls s = .next nx) :
    Frame 0x100000000000000000000000000000000000000000000000000000000000000000000000000000000000000000000000000000000000000000000000c0000000000021800000000000000000000000000000000000000000000000072401202800000000000000000000000000000000000000000000000000000000000 s nx := by
  unfold execSpillReadback at hex
  rw [← Host.Outcome.next.inj hex]
  have hk0 := Frame.refl 0x100000000000000000000000000000000000000000000000000000000000000000000000000000000000000000000000000000000000000000000000c0000000000021800000000000000000000000000000000000000000000000072401202800000000000000000000000000000000000000000000000000000000000 s
  try dsimp only
  repeat' first
    | (with_reducible assumption)
    | (split)
    | (with_reducible refine Frame.foldl ?_ ?_)
    | decide
    | (intro u hu x hx)
    | (intro u hu)
    | (refine Frame.bitMem (by with_reducible assumption) (by decide))
    | (refine Frame.bitMemFst (by with_reducible assumption) (by (simp only [List.map_cons, List.map_nil]; decide)))
    | (with_reducible apply Frame.emit)
    | (with_reducible apply Frame.linkRead)
    | (with_reducible apply Frame.cutSpill)
    | (with_reducible apply Frame.settleAll)
    | (with_reducible apply Frame.stackRead)
    | (with_reducible apply Frame.popSpill)
    | (with_reducible apply Frame.addCnt)
    | (with_reducible apply Frame.endFrame)
    | (with_reducible refine Frame.takeCells ?_ (by with_reducible assumption) ?_)
    | (with_reducible apply Frame.blockEvent)
    | (with_reducible refine Frame.fst ?_ (by with_reducible assumption))
    | (with_reducible refine Frame.snd ?_ (by with_reducible assumption))
    | (with_reducible refine Frame.mk_other ?_)
    | decide

end Sys2Proof.Machine
end

