-- ==== Sys2Proof/Laws/DoesCalvan.lean ====
section
/-! SUPPORT. For each command of Calvan, a mask of the registers it may write, and of the memories (Laws/Frame.lean). -/

namespace Sys2Proof.Machine

set_option Elab.async false
set_option linter.all false

theorem execMbxGo_frame {port : PortId} {n : MbxId} {errs : List Upset} {s : State} {nx : State} (hex : execMbxGo port n errs s = .next nx) :
    Frame 0x100000000000000000000000000000000000000000000000000000000000000000000000000000000000000000000000000000000000000000000000c0000000000021800000000000000000000000000000000000043d00000000072401302a0000000000000000000000000000000000000000000000000f001c00000 s nx := by
  unfold execMbxGo at hex
  rw [← Host.Outcome.next.inj hex]
  have hk0 := Frame.refl 0x100000000000000000000000000000000000000000000000000000000000000000000000000000000000000000000000000000000000000000000000c0000000000021800000000000000000000000000000000000043d00000000072401302a0000000000000000000000000000000000000000000000000f001c00000 s
  try dsimp only
  repeat' first
    | (with_reducible assumption)
    | (split)
    | (with_reducible refine Frame.foldl ?_ ?_)
    | decide
    | (intro u hu x hx)
    | (intro u hu)
    | (refine Frame.bitMem (by with_reducible assumption) (by decide))
    | (refine Frame.bitMemFst (by with_reducible assumption) (by (simp only [List.map_cons, List.map_nil]; decide)))
    | (with_reducible apply Frame.emit)
    | (with_reducible apply Frame.upset)
    | (with_reducible apply Frame.winWrite)
    | (with_reducible apply Frame.mailboxGo)
    | (with_reducible refine Frame.fst ?_ (by with_reducible assumption))
    | (with_reducible refine Frame.snd ?_ (by with_reducible assumption))
    | decide

theorem execMbxReady_frame {s : State} {nx : State} (hex : execMbxReady s = .next nx) :
    Frame 0x100000000000000000000000000000000000000000000000000000000000000000000000000000000000000000000000000000000000000000000000c0000000000021800000000000000000000000000000000000042d00000000072401302a00000000000000000000000000000000000000000000000000000080000 s nx := by
  unfold execMbxReady at hex
  rw [← Host.Outcome.next.inj hex]
  have hk0 := Frame.refl 0x100000000000000000000000000000000000000000000000000000000000000000000000000000000000000000000000000000000000000000000000c0000000000021800000000000000000000000000000000000042d00000000072401302a00000000000000000000000000000000000000000000000000000080000 s
  try dsimp only
  repeat' first
    | (with_reducible assumption)
    | (split)
    | (with_reducible refine Frame.foldl ?_ ?_)
    | decide
    | (intro u hu x hx)
    | (intro u hu)
    | (refine Frame.bitMem (by with_reducible assumption) (by decide))
    | (refine Frame.bitMemFst (by with_reducible assumption) (by (simp only [List.map_cons, List.map_nil]; decide)))
    | (with_reducible refine Frame.wr ?_ ?_)
    | (with_reducible apply Frame.emit)
    | (with_reducible apply Frame.pumpAll)
    | (with_reducible refine Frame.fst ?_ (by with_reducible assumption))
    | (with_reducible refine Frame.snd ?_ (by with_reducible assumption))
    | decide

theorem execSiteTrained_frame {site : Fin 4} {s : State} {nx : State} (hex : execSiteTrained site s = .next nx) :
    Frame 0xc0000000000020000000000000000000000000000000000000084000000000072000000000000000000000000000000000000000000000000000000000004100000 s nx := by
  unfold execSiteTrained at hex
  rw [← Host.Outcome.next.inj hex]
  have hk0 := Frame.refl 0xc0000000000020000000000000000000000000000000000000084000000000072000000000000000000000000000000000000000000000000000000000004100000 s
  try dsimp only
  repeat' first
    | (with_reducible assumption)
    | (split)
    | (with_reducible refine Frame.foldl ?_ ?_)
    | decide
    | (intro u hu x hx)
    | (intro u hu)
    | (refine Frame.bitMem (by with_reducible assumption) (by decide))
    | (refine Frame.bitMemFst (by with_reducible assumption) (by (simp only [List.map_cons, List.map_nil]; decide)))
    | (with_reducible refine Frame.wr ?_ ?_)
    | (with_reducible apply Frame.emit)
    | (with_reducible apply Frame.evalService)
    | (with_reducible apply Frame.tableInit)
    | (with_reducible refine Frame.fst ?_ (by with_reducible assumption))
    | (with_reducible refine Frame.snd ?_ (by with_reducible assumption))
    | decide

theorem execFwLoad_frame {src : Src} {s : State} {nx : State} (hex : execFwLoad src s = .next nx) :
    Frame 0x100000000000000000000000000000000000000000000000000000000000000000000000000000000000000000000000000000000000000000000000c00000000000218000000000000000000000000000000000000ced00000000072401302a00000000000000000000000000000000000000000000000000000100000 s nx := by
  unfold execFwLoad at hex
  rw [← Host.Outcome.next.inj hex]
  have hk0 := Frame.refl 0x100000000000000000000000000000000000000000000000000000000000000000000000000000000000000000000000000000000000000000000000c00000000000218000000000000000000000000000000000000ced00000000072401302a00000000000000000000000000000000000000000000000000000100000 s
  try dsimp only
  repeat' first
    | (with_reducible assumption)
    | (split)
    | (with_reducible refine Frame.foldl ?_ ?_)
    | (intro hu)
    | decide
    | (intro u hu x hx)
    | (intro u hu)
    | (refine Frame.bitMem (by with_reducible assumption) (by decide))
    | (refine Frame.bitMemFst (by with_reducible assumption) (by (simp only [List.map_cons, List.map_nil]; decide)))
    | (with_reducible apply Frame.emit)
    | (with_reducible apply Frame.calvan)
    | (with_reducible apply Frame.fwLoad)
    | (with_reducible refine Frame.fst ?_ (by with_reducible assumption))
    | (with_reducible refine Frame.snd ?_ (by with_reducible assumption))
    | decide

theorem execFwLoadReadDone_frame {src : Src} {timedOut : Bool} {s : State} {nx : State} (hex : execFwLoadReadDone src timedOut s = .next nx) :
    Frame 0x100000000000000000000000000000000000000000000000000000000000000000000000000000000000000000000000000000000000000000000000c00000000000218000000000000000000000000000000000000ced00000000072401302a00000000000000000000000000000000000000000000000000000100000 s nx := by
  unfold execFwLoadReadDone at hex
  rw [← Host.Outcome.next.inj hex]
  have hk0 := Frame.refl 0x100000000000000000000000000000000000000000000000000000000000000000000000000000000000000000000000000000000000000000000000c00000000000218000000000000000000000000000000000000ced00000000072401302a00000000000000000000000000000000000000000000000000000100000 s
  try dsimp only
  repeat' first
    | (with_reducible assumption)
    | (split)
    | (with_reducible refine Frame.foldl ?_ ?_)
    | decide
    | (intro u hu x hx)
    | (intro u hu)
    | (refine Frame.bitMem (by with_reducible assumption) (by decide))
    | (refine Frame.bitMemFst (by with_reducible assumption) (by (simp only [List.map_cons, List.map_nil]; decide)))
    | (with_reducible apply Frame.emit)
    | (with_reducible apply Frame.putCp)
    | (with_reducible apply Frame.answerLater)
    | (with_reducible apply Frame.setSlots)
    | (with_reducible apply Frame.holdUntested)
    | (with_reducible refine Frame.fst ?_ (by with_reducible assumption))
    | (with_reducible refine Frame.snd ?_ (by with_reducible assumption))
    | (with_reducible refine Frame.mk_other ?_)
    | decide

theorem execFwStart_frame {src : Src} {s : State} {nx : State} (hex : execFwStart src s = .next nx) :
    Frame 0x100000000000000000000000000000000000000000000000000000000000000000000000000000000000000000000000000000000000000000000000c0000000000021800200025f07e008000000000000000000001ced00000000072401302a0000000800300000f000000000000000000000000000000000000300000 s nx := by
  unfold execFwStart at hex
  rw [← Host.Outcome.next.inj hex]
  have hk0 := Frame.refl 0x100000000000000000000000000000000000000000000000000000000000000000000000000000000000000000000000000000000000000000000000c0000000000021800200025f07e008000000000000000000001ced00000000072401302a0000000800300000f000000000000000000000000000000000000300000 s
  try dsimp only
  repeat' first
    | (with_reducible assumption)
    | (split)
    | (with_reducible refine Frame.foldl ?_ ?_)
    | (intro hu)
    | decide
    | (intro u hu x hx)
    | (intro u hu)
    | (refine Frame.bitMem (by with_reducible assumption) (by decide))
    | (refine Frame.bitMemFst (by with_reducible assumption) (by (simp only [List.map_cons, List.map_nil]; decide)))
    | (with_reducible apply Frame.emit)
    | (with_reducible apply Frame.calvan)
    | (with_reducible apply Frame.atOnce)
    | (with_reducible apply Frame.fwStart)
    | (with_reducible refine Frame.fst ?_ (by with_reducible assumption))
    | (with_reducible refine Frame.snd ?_ (by with_reducible assumption))
    | decide

theorem execFwStatus_frame {src : Src} {s : State} {nx : State} (hex : execFwStatus src s = .next nx) :
    Frame 0x100000000000000000000000000000000000000000000000000000000000000000000000000000000000000000000000000000000000000000000000c0000000000021800000000000000000000000000000000000042d00000000072401302a00000000000000000000000000000000000000000000000000000000000 s nx := by
  unfold execFwStatus at hex
  rw [← Host.Outcome.next.inj hex]
  have hk0 := Frame.refl 0x100000000000000000000000000000000000000000000000000000000000000000000000000000000000000000000000000000000000000000000000c0000000000021800000000000000000000000000000000000042d00000000072401302a00000000000000000000000000000000000000000000000000000000000 s
  try dsimp only
  repeat' first
    | (with_reducible assumption)
    | (split)
    | (with_reducible refine Frame.foldl ?_ ?_)
    | (intro hu)
    | decide
    | (intro u hu x hx)
    | (intro u hu)
    | (refine Frame.bitMem (by with_reducible assumption) (by decide))
    | (refine Frame.bitMemFst (by with_reducible assumption) (by (simp only [List.map_cons, List.map_nil]; decide)))
    | (with_reducible apply Frame.emit)
    | (with_reducible apply Frame.calvan)
    | (with_reducible apply Frame.atOnce)
    | (with_reducible apply Frame.fwStatus)
    | (with_reducible refine Frame.fst ?_ (by with_reducible assumption))
    | (with_reducible refine Frame.snd ?_ (by with_reducible assumption))
    | decide

theorem execDevInfo_frame {src : Src} {s : State} {nx : State} (hex : execDevInfo src s = .next nx) :
    Frame 0x100000000000000000000000000000000000000000000000000000000000000000000000000000000000000000000000000000000000000000000000c0000000000021800000000000000000000000000000000000042d00000000072401302a00000000000000000000000000000000000000000000000000000000000 s nx := by
  unfold execDevInfo at hex
  rw [← Host.Outcome.next.inj hex]
  have hk0 := Frame.refl 0x100000000000000000000000000000000000000000000000000000000000000000000000000000000000000000000000000000000000000000000000c0000000000021800000000000000000000000000000000000042d00000000072401302a00000000000000000000000000000000000000000000000000000000000 s
  try dsimp only
  repeat' first
    | (with_reducible assumption)
    | (split)
    | (with_reducible refine Frame.foldl ?_ ?_)
    | (intro hu)
    | decide
    | (intro u hu x hx)
    | (intro u hu)
    | (refine Frame.bitMem (by with_reducible assumption) (by decide))
    | (refine Frame.bitMemFst (by with_reducible assumption) (by (simp only [List.map_cons, List.map_nil]; decide)))
    | (with_reducible apply Frame.emit)
    | (with_reducible apply Frame.calvan)
    | (with_reducible apply Frame.atOnce)
    | (with_reducible apply Frame.devInfo)
    | (with_reducible refine Frame.fst ?_ (by with_reducible assumption))
    | (with_reducible refine Frame.snd ?_ (by with_reducible assumption))
    | decide

theorem execTimeSelect_frame {src : Src} {s : State} {nx : State} (hex : execTimeSelect src s = .next nx) :
    Frame 0x100000000000000000000000000000000000000000000000000000000000000000000000000000000000000000000000000000000000000000000000c0000000000021800000000000000000000000000000000000042d00000000072401302a00000000000000000000000000000000000000100000000400000000000 s nx := by
  unfold execTimeSelect at hex
  rw [← Host.Outcome.next.inj hex]
  have hk0 := Frame.refl 0x100000000000000000000000000000000000000000000000000000000000000000000000000000000000000000000000000000000000000000000000c0000000000021800000000000000000000000000000000000042d00000000072401302a00000000000000000000000000000000000000100000000400000000000 s
  try dsimp only
  repeat' first
    | (with_reducible assumption)
    | (split)
    | (with_reducible refine Frame.foldl ?_ ?_)
    | (intro hu)
    | decide
    | (intro u hu x hx)
    | (intro u hu)
    | (refine Frame.bitMem (by with_reducible assumption) (by decide))
    | (refine Frame.bitMemFst (by with_reducible assumption) (by (simp only [List.map_cons, List.map_nil]; decide)))
    | (with_reducible apply Frame.emit)
    | (with_reducible apply Frame.calvan)
    | (with_reducible apply Frame.atOnce)
    | (with_reducible apply Frame.timeSelect)
    | (with_reducible refine Frame.fst ?_ (by with_reducible assumption))
    | (with_reducible refine Frame.snd ?_ (by with_reducible assumption))
    | decide

theorem execLockstepMismatch_frame {s : State} {nx : State} (hex : execLockstepMismatch s = .next nx) :
    Frame 0xc0000000000020000000000000000000000000000000000000084000000000072000000000000000000000000000000000000000000000000000000000000180000 s nx := by
  unfold execLockstepMismatch at hex
  rw [← Host.Outcome.next.inj hex]
  have hk0 := Frame.refl 0xc0000000000020000000000000000000000000000000000000084000000000072000000000000000000000000000000000000000000000000000000000000180000 s
  try dsimp only
  repeat' first
    | (with_reducible assumption)
    | (split)
    | (with_reducible refine Frame.foldl ?_ ?_)
    | decide
    | (intro u hu x hx)
    | (intro u hu)
    | (refine Frame.bitMem (by with_reducible assumption) (by decide))
    | (refine Frame.bitMemFst (by with_reducible assumption) (by (simp only [List.map_cons, List.map_nil]; decide)))
    | (with_reducible apply Frame.emit)
    | (with_reducible apply Frame.cpHalt)
    | (with_reducible apply Frame.putCp)
    | (with_reducible apply Frame.setService)
    | (with_reducible refine Frame.fst ?_ (by with_reducible assumption))
    | (with_reducible refine Frame.snd ?_ (by with_reducible assumption))
    | (with_reducible refine Frame.mk_other ?_)
    | decide

theorem execCpRestartDone_frame {digestOk : Bool} {s : State} {nx : State} (hex : execCpRestartDone digestOk s = .next nx) :
    Frame 0x100000000000000000000000000000000000000000000000000000000000000000000000000000000000000000000000000000000000000000000000c00000000000218000000000000000000000000000000000002d6d00000000072401302a00000000000000000000000000000000000000000000000000000180000 s nx := by
  unfold execCpRestartDone at hex
  rw [← Host.Outcome.next.inj hex]
  have hk0 := Frame.refl 0x100000000000000000000000000000000000000000000000000000000000000000000000000000000000000000000000000000000000000000000000c00000000000218000000000000000000000000000000000002d6d00000000072401302a00000000000000000000000000000000000000000000000000000180000 s
  try dsimp only
  repeat' first
    | (with_reducible assumption)
    | (split)
    | (with_reducible refine Frame.foldl ?_ ?_)
    | decide
    | (intro u hu x hx)
    | (intro u hu)
    | (refine Frame.bitMem (by with_reducible assumption) (by decide))
    | (refine Frame.bitMemFst (by with_reducible assumption) (by (simp only [List.map_cons, List.map_nil]; decide)))
    | (with_reducible apply Frame.emit)
    | (with_reducible apply Frame.cpHalt)
    | (with_reducible apply Frame.setService)
    | (with_reducible apply Frame.incSat)
    | (with_reducible apply Frame.mbxEvent)
    | (with_reducible apply Frame.payOwed)
    | (with_reducible refine Frame.fst ?_ (by with_reducible assumption))
    | (with_reducible refine Frame.snd ?_ (by with_reducible assumption))
    | decide

end Sys2Proof.Machine
end

