-- ==== Sys2Proof/Laws/DoesFabric.lean ====
section
/-! SUPPORT. For each command of Fabric, a mask of the registers it may write, and of the memories (Laws/Frame.lean). -/

namespace Sys2Proof.Machine

set_option Elab.async false
set_option linter.all false

theorem execBlockLockChange_frame {lane : Fin 16} {blocks : List LaneBlock} {los : Bool} {s : State} {nx : State} (hex : execBlockLockChange lane blocks los s = .next nx) :
    Frame 0xc000000000002000000000000000000000003fe26f00030000000000000000072000000000000000000000000000000000000000000000000000000000000000000 s nx := by
  unfold execBlockLockChange at hex
  rw [← Host.Outcome.next.inj hex]
  have hk0 := Frame.refl 0xc000000000002000000000000000000000003fe26f00030000000000000000072000000000000000000000000000000000000000000000000000000000000000000 s
  try dsimp only
  repeat' first
    | (with_reducible assumption)
    | (split)
    | (with_reducible refine Frame.foldl ?_ ?_)
    | decide
    | (intro u hu x hx)
    | (intro u hu)
    | (refine Frame.bitMem (by with_reducible assumption) (by decide))
    | (refine Frame.bitMemFst (by with_reducible assumption) (by (simp only [List.map_cons, List.map_nil]; decide)))
    | (with_reducible apply Frame.emit)
    | (with_reducible apply Frame.laneHunt)
    | (with_reducible apply Frame.laneLos)
    | (with_reducible refine Frame.fst ?_ (by with_reducible assumption))
    | (with_reducible refine Frame.snd ?_ (by with_reducible assumption))
    | decide

theorem execCodewordLock_frame {link : LinkId} {skew : Nat} {words : List (List LaneBlock)} {s : State} {nx : State} (hex : execCodewordLock link skew words s = .next nx) :
    Frame 0xc000000000002000000000000000000000003fe27f00030000000000000000072000000000000000000000000000000000000000000000000000000000000000000 s nx := by
  unfold execCodewordLock at hex
  rw [← Host.Outcome.next.inj hex]
  have hk0 := Frame.refl 0xc000000000002000000000000000000000003fe27f00030000000000000000072000000000000000000000000000000000000000000000000000000000000000000 s
  try dsimp only
  repeat' first
    | (with_reducible assumption)
    | (split)
    | (with_reducible refine Frame.foldl ?_ ?_)
    | decide
    | (intro u hu x hx)
    | (intro u hu)
    | (refine Frame.bitMem (by with_reducible assumption) (by decide))
    | (refine Frame.bitMemFst (by with_reducible assumption) (by (simp only [List.map_cons, List.map_nil]; decide)))
    | (with_reducible apply Frame.emit)
    | (with_reducible apply Frame.hearWords)
    | (with_reducible apply Frame.gainLock)
    | (with_reducible apply Frame.sendCodeword)
    | (with_reducible refine Frame.fst ?_ (by with_reducible assumption))
    | (with_reducible refine Frame.snd ?_ (by with_reducible assumption))
    | decide

theorem execCodewordReceived_frame {link : LinkId} {blocks : List LaneBlock} {s : State} {nx : State} (hex : execCodewordReceived link blocks s = .next nx) :
    Frame 0xc000000000002000000000000000000000003fe3ef02030000000000000000072000000000000000000000000000000000000000000000000000000000000000000 s nx := by
  unfold execCodewordReceived at hex
  rw [← Host.Outcome.next.inj hex]
  have hk0 := Frame.refl 0xc000000000002000000000000000000000003fe3ef02030000000000000000072000000000000000000000000000000000000000000000000000000000000000000 s
  try dsimp only
  repeat' first
    | (with_reducible assumption)
    | (split)
    | (with_reducible refine Frame.foldl ?_ ?_)
    | decide
    | (intro u hu x hx)
    | (intro u hu)
    | (refine Frame.bitMem (by with_reducible assumption) (by decide))
    | (refine Frame.bitMemFst (by with_reducible assumption) (by (simp only [List.map_cons, List.map_nil]; decide)))
    | (with_reducible apply Frame.emit)
    | (with_reducible apply Frame.hearWord)
    | (with_reducible apply Frame.codewordIn)
    | (with_reducible apply Frame.sendCodeword)
    | (with_reducible refine Frame.fst ?_ (by with_reducible assumption))
    | (with_reducible refine Frame.snd ?_ (by with_reducible assumption))
    | decide

theorem execHelloSend_frame {link : LinkId} {s : State} {nx : State} (hex : execHelloSend link s = .next nx) :
    Frame 0xc0000000000020000000000000000000000000020000000000000000000000072000000000000000000000000000000000000000000000000000000000000000000 s nx := by
  unfold execHelloSend at hex
  rw [← Host.Outcome.next.inj hex]
  have hk0 := Frame.refl 0xc0000000000020000000000000000000000000020000000000000000000000072000000000000000000000000000000000000000000000000000000000000000000 s
  try dsimp only
  repeat' first
    | (with_reducible assumption)
    | (split)
    | (with_reducible refine Frame.foldl ?_ ?_)
    | decide
    | (intro u hu x hx)
    | (intro u hu)
    | (refine Frame.bitMem (by with_reducible assumption) (by decide))
    | (refine Frame.bitMemFst (by with_reducible assumption) (by (simp only [List.map_cons, List.map_nil]; decide)))
    | (with_reducible apply Frame.emit)
    | (with_reducible apply Frame.sendHello)
    | (with_reducible refine Frame.fst ?_ (by with_reducible assumption))
    | (with_reducible refine Frame.snd ?_ (by with_reducible assumption))
    | decide

theorem execHelloReceived_frame {link : LinkId} {h : Hello} {s : State} {nx : State} (hex : execHelloReceived link h s = .next nx) :
    Frame 0xc000000000002000000000000000000000003fe66901130400000000000000072000000000000000000000000000000000000000000000000000000000000000000 s nx := by
  unfold execHelloReceived at hex
  rw [← Host.Outcome.next.inj hex]
  have hk0 := Frame.refl 0xc000000000002000000000000000000000003fe66901130400000000000000072000000000000000000000000000000000000000000000000000000000000000000 s
  try dsimp only
  repeat' first
    | (with_reducible assumption)
    | (split)
    | (with_reducible refine Frame.foldl ?_ ?_)
    | decide
    | (intro u hu x hx)
    | (intro u hu)
    | (refine Frame.bitMem (by with_reducible assumption) (by decide))
    | (refine Frame.bitMemFst (by with_reducible assumption) (by (simp only [List.map_cons, List.map_nil]; decide)))
    | (with_reducible apply Frame.emit)
    | (with_reducible apply Frame.cellSeen)
    | (with_reducible apply Frame.helloIn)
    | (with_reducible refine Frame.fst ?_ (by with_reducible assumption))
    | (with_reducible refine Frame.snd ?_ (by with_reducible assumption))
    | decide

theorem execHelloDead_frame {link : LinkId} {s : State} {nx : State} (hex : execHelloDead link s = .next nx) :
    Frame 0xc000000000002000000000000000000000003fe26100030000000000000000072000000000000000000000000000000000000000000000000000000000000000000 s nx := by
  unfold execHelloDead at hex
  rw [← Host.Outcome.next.inj hex]
  have hk0 := Frame.refl 0xc000000000002000000000000000000000003fe26100030000000000000000072000000000000000000000000000000000000000000000000000000000000000000 s
  try dsimp only
  repeat' first
    | (with_reducible assumption)
    | (split)
    | (with_reducible refine Frame.foldl ?_ ?_)
    | decide
    | (intro u hu x hx)
    | (intro u hu)
    | (refine Frame.bitMem (by with_reducible assumption) (by decide))
    | (refine Frame.bitMemFst (by with_reducible assumption) (by (simp only [List.map_cons, List.map_nil]; decide)))
    | (with_reducible apply Frame.emit)
    | (with_reducible apply Frame.adjRemove)
    | (with_reducible refine Frame.fst ?_ (by with_reducible assumption))
    | (with_reducible refine Frame.snd ?_ (by with_reducible assumption))
    | decide

theorem execCellReceived_frame {link : LinkId} {cell : List Byte} {s : State} {nx : State} (hex : execCellReceived link cell s = .next nx) :
    Frame 0xc0000000000020000000000000000000000000060070000000000000000000072000000000000000000000000000000000000000000000000000000000000000000 s nx := by
  unfold execCellReceived at hex
  rw [← Host.Outcome.next.inj hex]
  have hk0 := Frame.refl 0xc0000000000020000000000000000000000000060070000000000000000000072000000000000000000000000000000000000000000000000000000000000000000 s
  try dsimp only
  repeat' first
    | (with_reducible assumption)
    | (split)
    | (with_reducible refine Frame.foldl ?_ ?_)
    | decide
    | (intro u hu x hx)
    | (intro u hu)
    | (refine Frame.bitMem (by with_reducible assumption) (by decide))
    | (refine Frame.bitMemFst (by with_reducible assumption) (by (simp only [List.map_cons, List.map_nil]; decide)))
    | (with_reducible apply Frame.emit)
    | (with_reducible apply Frame.cellSeen)
    | (with_reducible apply Frame.cellIn)
    | (with_reducible refine Frame.fst ?_ (by with_reducible assumption))
    | (with_reducible refine Frame.snd ?_ (by with_reducible assumption))
    | decide

theorem execClaimReceived_frame {link : LinkId} {cell : List Byte} {s : State} {nx : State} (hex : execClaimReceived link cell s = .next nx) :
    Frame 0xc0000000000020000000000000000000000000060070180600000000000000072000000000000000000000000000000000000000000000000000000000000000000 s nx := by
  unfold execClaimReceived at hex
  rw [← Host.Outcome.next.inj hex]
  have hk0 := Frame.refl 0xc0000000000020000000000000000000000000060070180600000000000000072000000000000000000000000000000000000000000000000000000000000000000 s
  try dsimp only
  repeat' first
    | (with_reducible assumption)
    | (split)
    | (with_reducible refine Frame.foldl ?_ ?_)
    | decide
    | (intro u hu x hx)
    | (intro u hu)
    | (refine Frame.bitMem (by with_reducible assumption) (by decide))
    | (refine Frame.bitMemFst (by with_reducible assumption) (by (simp only [List.map_cons, List.map_nil]; decide)))
    | (with_reducible apply Frame.emit)
    | (with_reducible apply Frame.cellSeen)
    | (with_reducible apply Frame.claimIn)
    | (with_reducible apply Frame.cellIn)
    | (with_reducible refine Frame.fst ?_ (by with_reducible assumption))
    | (with_reducible refine Frame.snd ?_ (by with_reducible assumption))
    | decide

theorem execClaimRepeat_frame {s : State} {nx : State} (hex : execClaimRepeat s = .next nx) :
    Frame 0xc0000000000020000000000000000000000000020000000000000000000000072000000000000000000000000000000000000000000000000000000000000000000 s nx := by
  unfold execClaimRepeat at hex
  rw [← Host.Outcome.next.inj hex]
  have hk0 := Frame.refl 0xc0000000000020000000000000000000000000020000000000000000000000072000000000000000000000000000000000000000000000000000000000000000000 s
  try dsimp only
  repeat' first
    | (with_reducible assumption)
    | (split)
    | (with_reducible refine Frame.foldl ?_ ?_)
    | decide
    | (intro u hu x hx)
    | (intro u hu)
    | (refine Frame.bitMem (by with_reducible assumption) (by decide))
    | (refine Frame.bitMemFst (by with_reducible assumption) (by (simp only [List.map_cons, List.map_nil]; decide)))
    | (with_reducible apply Frame.emit)
    | (with_reducible apply Frame.floodClaim)
    | (with_reducible refine Frame.fst ?_ (by with_reducible assumption))
    | (with_reducible refine Frame.snd ?_ (by with_reducible assumption))
    | (with_reducible refine Frame.mk_other ?_)
    | decide

theorem execClaimTimer_frame {s : State} {nx : State} (hex : execClaimTimer s = .next nx) :
    Frame 0xc0000000000020000000000000000000000000020000040600000000000000072000000000000000000000000000000000000000000000000000000000000000000 s nx := by
  unfold execClaimTimer at hex
  rw [← Host.Outcome.next.inj hex]
  have hk0 := Frame.refl 0xc0000000000020000000000000000000000000020000040600000000000000072000000000000000000000000000000000000000000000000000000000000000000 s
  try dsimp only
  repeat' first
    | (with_reducible assumption)
    | (split)
    | (with_reducible refine Frame.foldl ?_ ?_)
    | decide
    | (intro u hu x hx)
    | (intro u hu)
    | (refine Frame.bitMem (by with_reducible assumption) (by decide))
    | (refine Frame.bitMemFst (by with_reducible assumption) (by (simp only [List.map_cons, List.map_nil]; decide)))
    | (with_reducible apply Frame.emit)
    | (with_reducible apply Frame.holdAddr)
    | (with_reducible refine Frame.fst ?_ (by with_reducible assumption))
    | (with_reducible refine Frame.snd ?_ (by with_reducible assumption))
    | (with_reducible refine Frame.mk_other ?_)
    | decide

theorem execUnaddressedTimer_frame {s : State} {nx : State} (hex : execUnaddressedTimer s = .next nx) :
    Frame 0xc0000000000020000000000000000000000000020000100400000000000000072000000000000000000000000000000000000000000000000000000000000000000 s nx := by
  unfold execUnaddressedTimer at hex
  rw [← Host.Outcome.next.inj hex]
  have hk0 := Frame.refl 0xc0000000000020000000000000000000000000020000100400000000000000072000000000000000000000000000000000000000000000000000000000000000000 s
  try dsimp only
  repeat' first
    | (with_reducible assumption)
    | (split)
    | (with_reducible refine Frame.foldl ?_ ?_)
    | decide
    | (intro u hu x hx)
    | (intro u hu)
    | (refine Frame.bitMem (by with_reducible assumption) (by decide))
    | (refine Frame.bitMemFst (by with_reducible assumption) (by (simp only [List.map_cons, List.map_nil]; decide)))
    | (with_reducible apply Frame.emit)
    | (with_reducible apply Frame.claim)
    | (with_reducible refine Frame.fst ?_ (by with_reducible assumption))
    | (with_reducible refine Frame.snd ?_ (by with_reducible assumption))
    | decide

theorem execFabReclaim_frame {port : PortId} {_v : BitVec 32} {s : State} {nx : State} (hex : execFabReclaim port _v s = .next nx) :
    Frame 0xc000000000002000000000000000000000000002000018060000000000000007200000000000000000000000000000000000000000000000000000000f001c00000 s nx := by
  unfold execFabReclaim at hex
  rw [← Host.Outcome.next.inj hex]
  have hk0 := Frame.refl 0xc000000000002000000000000000000000000002000018060000000000000007200000000000000000000000000000000000000000000000000000000f001c00000 s
  try dsimp only
  repeat' first
    | (with_reducible assumption)
    | (split)
    | (with_reducible refine Frame.foldl ?_ ?_)
    | decide
    | (intro u hu x hx)
    | (intro u hu)
    | (refine Frame.bitMem (by with_reducible assumption) (by decide))
    | (refine Frame.bitMemFst (by with_reducible assumption) (by (simp only [List.map_cons, List.map_nil]; decide)))
    | (with_reducible apply Frame.emit)
    | (with_reducible apply Frame.winWrite)
    | (with_reducible apply Frame.releaseAddr)
    | (with_reducible refine Frame.fst ?_ (by with_reducible assumption))
    | (with_reducible refine Frame.snd ?_ (by with_reducible assumption))
    | decide

theorem execRouteReceived_frame {link : LinkId} {cell : List Byte} {s : State} {nx : State} (hex : execRouteReceived link cell s = .next nx) :
    Frame 0xc0000000000020000000000000000000000000060070180600000000000000072000000000000000000000000000000000000000000000000000000000000000000 s nx := by
  unfold execRouteReceived at hex
  rw [← Host.Outcome.next.inj hex]
  have hk0 := Frame.refl 0xc0000000000020000000000000000000000000060070180600000000000000072000000000000000000000000000000000000000000000000000000000000000000 s
  try dsimp only
  repeat' first
    | (with_reducible assumption)
    | (split)
    | (with_reducible refine Frame.foldl ?_ ?_)
    | decide
    | (intro u hu x hx)
    | (intro u hu)
    | (refine Frame.bitMem (by with_reducible assumption) (by decide))
    | (refine Frame.bitMemFst (by with_reducible assumption) (by (simp only [List.map_cons, List.map_nil]; decide)))
    | (with_reducible apply Frame.emit)
    | (with_reducible apply Frame.cellSeen)
    | (with_reducible apply Frame.routeIn)
    | (with_reducible apply Frame.cellIn)
    | (with_reducible refine Frame.fst ?_ (by with_reducible assumption))
    | (with_reducible refine Frame.snd ?_ (by with_reducible assumption))
    | decide

theorem execRoutePeriodic_frame {s : State} {nx : State} (hex : execRoutePeriodic s = .next nx) :
    Frame 0xc0000000000020000000000000000000000000020000000000000000000000072000000000000000000000000000000000000000000000000000000000000000000 s nx := by
  unfold execRoutePeriodic at hex
  rw [← Host.Outcome.next.inj hex]
  have hk0 := Frame.refl 0xc0000000000020000000000000000000000000020000000000000000000000072000000000000000000000000000000000000000000000000000000000000000000 s
  try dsimp only
  repeat' first
    | (with_reducible assumption)
    | (split)
    | (with_reducible refine Frame.foldl ?_ ?_)
    | decide
    | (intro u hu x hx)
    | (intro u hu)
    | (refine Frame.bitMem (by with_reducible assumption) (by decide))
    | (refine Frame.bitMemFst (by with_reducible assumption) (by (simp only [List.map_cons, List.map_nil]; decide)))
    | (with_reducible apply Frame.emit)
    | (with_reducible apply Frame.floodRouteOf)
    | (with_reducible refine Frame.fst ?_ (by with_reducible assumption))
    | (with_reducible refine Frame.snd ?_ (by with_reducible assumption))
    | decide

theorem execRouteAgeOut_frame {s : State} {nx : State} (hex : execRouteAgeOut s = .next nx) :
    Frame 0x0 s nx := by
  unfold execRouteAgeOut at hex
  rw [← Host.Outcome.next.inj hex]
  have hk0 := Frame.refl 0x0 s
  try dsimp only
  repeat' first
    | (with_reducible assumption)
    | (split)
    | (with_reducible refine Frame.foldl ?_ ?_)
    | decide
    | (intro u hu x hx)
    | (intro u hu)
    | (refine Frame.bitMem (by with_reducible assumption) (by decide))
    | (refine Frame.bitMemFst (by with_reducible assumption) (by (simp only [List.map_cons, List.map_nil]; decide)))
    | (with_reducible apply Frame.emit)
    | (with_reducible apply Frame.putFab)
    | (with_reducible refine Frame.fst ?_ (by with_reducible assumption))
    | (with_reducible refine Frame.snd ?_ (by with_reducible assumption))
    | (with_reducible refine Frame.mk_other ?_)
    | decide

theorem execRouteRecompute_frame {s : State} {nx : State} (hex : execRouteRecompute s = .next nx) :
    Frame 0xc000000000002000000000000000000000003fe00008e0b800000000000000072000000000000000000000000000000000000000000001000000000000000000000 s nx := by
  unfold execRouteRecompute at hex
  rw [← Host.Outcome.next.inj hex]
  have hk0 := Frame.refl 0xc000000000002000000000000000000000003fe00008e0b800000000000000072000000000000000000000000000000000000000000001000000000000000000000 s
  try dsimp only
  repeat' first
    | (with_reducible assumption)
    | (split)
    | (with_reducible refine Frame.foldl ?_ ?_)
    | decide
    | (intro u hu x hx)
    | (intro u hu)
    | (refine Frame.bitMem (by with_reducible assumption) (by decide))
    | (refine Frame.bitMemFst (by with_reducible assumption) (by (simp only [List.map_cons, List.map_nil]; decide)))
    | (with_reducible apply Frame.emit)
    | (with_reducible apply Frame.recompute)
    | (with_reducible refine Frame.fst ?_ (by with_reducible assumption))
    | (with_reducible refine Frame.snd ?_ (by with_reducible assumption))
    | decide

theorem execFabLinkEnWrite_frame {port : PortId} {link : LinkId} {v : BitVec 32} {s : State} {nx : State} (hex : execFabLinkEnWrite port link v s = .next nx) :
    Frame 0xc000000000002000000000000000000000003fe26f8003000000000000000007200000000000000000000000000000000000000000000000000000000f001c00000 s nx := by
  unfold execFabLinkEnWrite at hex
  rw [← Host.Outcome.next.inj hex]
  have hk0 := Frame.refl 0xc000000000002000000000000000000000003fe26f8003000000000000000007200000000000000000000000000000000000000000000000000000000f001c00000 s
  try dsimp only
  repeat' first
    | (with_reducible assumption)
    | (split)
    | (with_reducible refine Frame.foldl ?_ ?_)
    | decide
    | (intro u hu x hx)
    | (intro u hu)
    | (refine Frame.bitMem (by with_reducible assumption) (by decide))
    | (refine Frame.bitMemFst (by with_reducible assumption) (by (simp only [List.map_cons, List.map_nil]; decide)))
    | (with_reducible apply Frame.emit)
    | (with_reducible apply Frame.winWrite)
    | (with_reducible apply Frame.writeLinkEn)
    | (with_reducible refine Frame.fst ?_ (by with_reducible assumption))
    | (with_reducible refine Frame.snd ?_ (by with_reducible assumption))
    | decide

theorem execLeaseRequestReceived_frame {m : LeaseReq} {s : State} {nx : State} (hex : execLeaseRequestReceived m s = .next nx) :
    Frame 0xc0000000000020000000000000000000000000020010000000000000000000072000000000000000000000000000000000000000000000000000000000000000000 s nx := by
  unfold execLeaseRequestReceived at hex
  rw [← Host.Outcome.next.inj hex]
  have hk0 := Frame.refl 0xc0000000000020000000000000000000000000020010000000000000000000072000000000000000000000000000000000000000000000000000000000000000000 s
  try dsimp only
  repeat' first
    | (with_reducible assumption)
    | (split)
    | (with_reducible refine Frame.foldl ?_ ?_)
    | decide
    | (intro u hu x hx)
    | (intro u hu)
    | (refine Frame.bitMem (by with_reducible assumption) (by decide))
    | (refine Frame.bitMemFst (by with_reducible assumption) (by (simp only [List.map_cons, List.map_nil]; decide)))
    | (with_reducible apply Frame.emit)
    | (with_reducible apply Frame.leaseDecide)
    | (with_reducible apply Frame.sendTo)
    | (with_reducible refine Frame.fst ?_ (by with_reducible assumption))
    | (with_reducible refine Frame.snd ?_ (by with_reducible assumption))
    | decide

theorem execTideCellSend_frame {link : LinkId} {s : State} {nx : State} (hex : execTideCellSend link s = .next nx) :
    Frame 0xc0000000000020000000000000000000000000020000000000000000000000072000000000000000000000000000000000000000000000000000000000000000000 s nx := by
  unfold execTideCellSend at hex
  rw [← Host.Outcome.next.inj hex]
  have hk0 := Frame.refl 0xc0000000000020000000000000000000000000020000000000000000000000072000000000000000000000000000000000000000000000000000000000000000000 s
  try dsimp only
  repeat' first
    | (with_reducible assumption)
    | (split)
    | (with_reducible refine Frame.foldl ?_ ?_)
    | decide
    | (intro u hu x hx)
    | (intro u hu)
    | (refine Frame.bitMem (by with_reducible assumption) (by decide))
    | (refine Frame.bitMemFst (by with_reducible assumption) (by (simp only [List.map_cons, List.map_nil]; decide)))
    | (with_reducible apply Frame.emit)
    | (with_reducible apply Frame.setLink)
    | (with_reducible apply Frame.linkSend)
    | (with_reducible refine Frame.fst ?_ (by with_reducible assumption))
    | (with_reducible refine Frame.snd ?_ (by with_reducible assumption))
    | (with_reducible refine Frame.mk_other ?_)
    | decide

theorem execTideCellReceived_frame {link : LinkId} {c : TideCell} {s : State} {nx : State} (hex : execTideCellReceived link c s = .next nx) :
    Frame 0x100000000000000000000000000000000000000000000000000000000000000000000000000000000000000000000000000000000000000000000000c00000000000200000000000000000000000001c0000000000042d00000000072401202800000000000000000000000000000000000001000000000000000000000 s nx := by
  unfold execTideCellReceived at hex
  rw [← Host.Outcome.next.inj hex]
  have hk0 := Frame.refl 0x100000000000000000000000000000000000000000000000000000000000000000000000000000000000000000000000000000000000000000000000c00000000000200000000000000000000000001c0000000000042d00000000072401202800000000000000000000000000000000000001000000000000000000000 s
  try dsimp only
  repeat' first
    | (with_reducible assumption)
    | (split)
    | (with_reducible refine Frame.foldl ?_ ?_)
    | decide
    | (intro u hu x hx)
    | (intro u hu)
    | (refine Frame.bitMem (by with_reducible assumption) (by decide))
    | (refine Frame.bitMemFst (by with_reducible assumption) (by (simp only [List.map_cons, List.map_nil]; decide)))
    | (with_reducible apply Frame.emit)
    | (with_reducible apply Frame.cellSeen)
    | (with_reducible apply Frame.tideIn)
    | (with_reducible refine Frame.fst ?_ (by with_reducible assumption))
    | (with_reducible refine Frame.snd ?_ (by with_reducible assumption))
    | decide

theorem execRemoteAccessReceived_frame {m : RemoteReq} {s : State} {nx : State} (hex : execRemoteAccessReceived m s = .next nx) :
    Frame 0x100000000000000000000000000000000000000000000000000000000000000000000000000000000000000000000000000000000000000000000000c0000000000020000000000000000000000000020010000000000000000000072000000000000000000000000000000000000000000000000000000000000000000 s nx := by
  unfold execRemoteAccessReceived at hex
  rw [← Host.Outcome.next.inj hex]
  have hk0 := Frame.refl 0x100000000000000000000000000000000000000000000000000000000000000000000000000000000000000000000000000000000000000000000000c0000000000020000000000000000000000000020010000000000000000000072000000000000000000000000000000000000000000000000000000000000000000 s
  try dsimp only
  repeat' first
    | (with_reducible assumption)
    | (split)
    | (with_reducible refine Frame.foldl ?_ ?_)
    | decide
    | (intro u hu x hx)
    | (intro u hu)
    | (refine Frame.bitMem (by with_reducible assumption) (by decide))
    | (refine Frame.bitMemFst (by with_reducible assumption) (by (simp only [List.map_cons, List.map_nil]; decide)))
    | (with_reducible apply Frame.emit)
    | (with_reducible apply Frame.sendTo)
    | (with_reducible apply Frame.take)
    | (with_reducible refine Frame.fst ?_ (by with_reducible assumption))
    | (with_reducible refine Frame.snd ?_ (by with_reducible assumption))
    | (with_reducible refine Frame.mk_scratch ?_ ?_)
    | (with_reducible refine Frame.mk_other ?_)
    | decide

theorem execRemoteRspReceived_frame {m : RemoteRsp} {s : State} {nx : State} (hex : execRemoteRspReceived m s = .next nx) :
    Frame 0x100000000000000000000000000000000000000000000000000000000000000000000000000000000000000000000000000000000000000000000000c07ffc00000020000000000000000000000000020010000000000007667d20072000000000000000000000000000000000000000000000000000000000000000000 s nx := by
  unfold execRemoteRspReceived at hex
  rw [← Host.Outcome.next.inj hex]
  have hk0 := Frame.refl 0x100000000000000000000000000000000000000000000000000000000000000000000000000000000000000000000000000000000000000000000000c07ffc00000020000000000000000000000000020010000000000007667d20072000000000000000000000000000000000000000000000000000000000000000000 s
  try dsimp only
  repeat' first
    | (with_reducible assumption)
    | (split)
    | (with_reducible refine Frame.foldl ?_ ?_)
    | decide
    | (intro u hu x hx)
    | (intro u hu)
    | (refine Frame.bitMem (by with_reducible assumption) (by decide))
    | (refine Frame.bitMemFst (by with_reducible assumption) (by (simp only [List.map_cons, List.map_nil]; decide)))
    | (with_reducible apply Frame.emit)
    | (with_reducible apply Frame.remoteAnswer)
    | (with_reducible refine Frame.fst ?_ (by with_reducible assumption))
    | (with_reducible refine Frame.snd ?_ (by with_reducible assumption))
    | decide

theorem execFabStatus_frame {src : Src} {s : State} {nx : State} (hex : execFabStatus src s = .next nx) :
    Frame 0x100000000000000000000000000000000000000000000000000000000000000000000000000000000000000000000000000000000000000000000000c0000000000021800000000000000000000000000000000000042d00000000072401302a00000000000000000000000000000000000000000000000000000000000 s nx := by
  unfold execFabStatus at hex
  rw [← Host.Outcome.next.inj hex]
  have hk0 := Frame.refl 0x100000000000000000000000000000000000000000000000000000000000000000000000000000000000000000000000000000000000000000000000c0000000000021800000000000000000000000000000000000042d00000000072401302a00000000000000000000000000000000000000000000000000000000000 s
  try dsimp only
  repeat' first
    | (intro u p hu; exact hu)
    | (with_reducible assumption)
    | (split)
    | (with_reducible refine Frame.foldl ?_ ?_)
    | (intro hu)
    | decide
    | (intro u hu x hx)
    | (intro u hu)
    | (refine Frame.bitMem (by with_reducible assumption) (by decide))
    | (refine Frame.bitMemFst (by with_reducible assumption) (by (simp only [List.map_cons, List.map_nil]; decide)))
    | (with_reducible apply Frame.emit)
    | (with_reducible apply Frame.calvan)
    | (with_reducible apply Frame.atOnce)
    | (with_reducible refine Frame.fst ?_ (by with_reducible assumption))
    | (with_reducible refine Frame.snd ?_ (by with_reducible assumption))
    | decide

end Sys2Proof.Machine
end

