-- ==== Sys2Proof/Laws/FrameMonitor.lean ====
section
/-! SUPPORT. Which registers, and whether the memories, the operations of Monitor may write (Laws/Frame.lean). -/

namespace Sys2Proof.Machine

set_option Elab.async false
set_option linter.all false

/-- What `State.counterSnapshot` may write: register fields by number, memory at 1000. -/
def W.counterSnapshot : Nat := 0xc03ffc000008280000000000000000000000000000000000000000020600e0872000000000000000000000000000000000000000000000000000000000000000000

theorem Frame.counterSnapshot_at {s0 s : State} {src : Src} {p : List Byte} (h : Frame W.counterSnapshot s0 s) :
    Frame W.counterSnapshot s0 (State.counterSnapshot s src p).1 := by
  unfold State.counterSnapshot
  dsimp only
  repeat' first
    | decide
    | (with_reducible assumption)
    | split
    | (with_reducible apply Frame.setMon)
    | (with_reducible apply Frame.holdChannel)
    | (with_reducible apply Frame.armSnap)
    | (with_reducible apply Frame.snapshot)

theorem Frame.counterSnapshot {M : Nat} {s0 s : State} {src : Src} {p : List Byte} (hk0 : Frame M s0 s) (hL : W.counterSnapshot &&& M = W.counterSnapshot) :
    Frame M s0 (State.counterSnapshot s src p).1 := hk0.trans ((Frame.counterSnapshot_at (Frame.refl _ _) ).mono hL)

/-- What `State.harvestPairs` may write: register fields by number, memory at 1000. -/
def W.harvestPairs : Nat := 0x10000000000000000000000000000000000000000000000000000000000000000000000000000000000000000000000000000000000000000000000000000000000000000000000000000000000000000000000000000000000000000000000000000000000000000000000000000000000000000000000000000000000

theorem Frame.harvestPairs_at {s0 s : State} {dest : Nat} {clear : Bool} {n c : Nat} (h : Frame W.harvestPairs s0 s) :
    Frame W.harvestPairs s0 (State.harvestPairs s dest clear n c) := by
  induction n generalizing s dest c with
  | zero => exact h
  | succ n ih =>
    unfold State.harvestPairs
    dsimp only
    apply ih
    split
    · exact Frame.putTabs (_hL := by decide) (Frame.hostWrite h _ _)
    · exact Frame.hostWrite h _ _

theorem Frame.harvestPairs {M : Nat} {s0 s : State} {dest : Nat} {clear : Bool} {n c : Nat} (hk0 : Frame M s0 s) (hL : W.harvestPairs &&& M = W.harvestPairs) :
    Frame M s0 (State.harvestPairs s dest clear n c) := hk0.trans ((Frame.harvestPairs_at (Frame.refl _ _) ).mono hL)

/-- What `State.writeBwFrames` may write: register fields by number, memory at 1000. -/
def W.writeBwFrames : Nat := 0x2000000000000000000000000000000000000000000000000000000000000000000000000000000000000000000000000000000000000000000000000

theorem Frame.writeBwFrames {M : Nat} {s0 s : State} {v : Nat} (hk0 : Frame M s0 s)
    (hL : W.writeBwFrames &&& M = W.writeBwFrames) : Frame M s0 (State.writeBwFrames s v) := by
  unfold State.writeBwFrames
  try dsimp only
  repeat' first
    | (with_reducible assumption)
    | (split)
    | (with_reducible refine Frame.foldl ?_ ?_)
    | (exact Nat.zero_and _)
    | (exact Frame.sub hL (by decide))
    | (exact Frame.bitOf hL (by decide))
    | (intro u hu x hx)
    | (intro u hu)
    | (refine Frame.bitMem (by with_reducible assumption) ?_)
    | (refine Frame.sub_all hL (by first | decide | (simp only [List.map_cons, List.map_nil]; decide)))
    | (refine Frame.bitMemFst (by with_reducible assumption) ?_)
    | (with_reducible refine Frame.wr ?_ ?_)
    | (with_reducible apply Frame.emit)
    | (with_reducible apply Frame.setCnt)
    | decide

/-- What `State.writeTelEn` may write: register fields by number, memory at 1000. -/
def W.writeTelEn : Nat := 0xc00000000000000000000000000000000000000000000000000000000000000000000000000000000000000000000000000000000000000000000000000

theorem Frame.writeTelEn {M : Nat} {s0 s : State} {t : Nat} {v : Nat} (hk0 : Frame M s0 s)
    (hL : W.writeTelEn &&& M = W.writeTelEn) : Frame M s0 (State.writeTelEn s t v) := by
  unfold State.writeTelEn
  try dsimp only
  repeat' first
    | (with_reducible assumption)
    | (split)
    | (with_reducible refine Frame.foldl ?_ ?_)
    | (exact Nat.zero_and _)
    | (exact Frame.sub hL (by decide))
    | (exact Frame.bitOf hL (by decide))
    | (intro u hu x hx)
    | (intro u hu)
    | (refine Frame.bitMem (by with_reducible assumption) ?_)
    | (refine Frame.sub_all hL (by first | decide | (simp only [List.map_cons, List.map_nil]; decide)))
    | (refine Frame.bitMemFst (by with_reducible assumption) ?_)
    | (with_reducible refine Frame.wr ?_ ?_)
    | (with_reducible apply Frame.emit)
    | (with_reducible apply Frame.setTel)
    | decide

/-- What `State.measure` may write: register fields by number, memory at 1000. -/
def W.measure : Nat := 0xc0000000300022000000000000000000000000000000000000000000000000072000000000000000000000000000000000000000000000000000000000000000000

theorem Frame.measure {M : Nat} {s0 s : State} {d : Nat} {ratio : Nat} (hk0 : Frame M s0 s)
    (hL : W.measure &&& M = W.measure) : Frame M s0 (State.measure s d ratio) := by
  unfold State.measure
  try dsimp only
  repeat' first
    | (with_reducible assumption)
    | (split)
    | (with_reducible refine Frame.foldl ?_ ?_)
    | (exact Nat.zero_and _)
    | (exact Frame.sub hL (by decide))
    | (exact Frame.bitOf hL (by decide))
    | (intro u hu x hx)
    | (intro u hu)
    | (refine Frame.bitMem (by with_reducible assumption) ?_)
    | (refine Frame.sub_all hL (by first | decide | (simp only [List.map_cons, List.map_nil]; decide)))
    | (refine Frame.bitMemFst (by with_reducible assumption) ?_)
    | (with_reducible refine Frame.wr ?_ ?_)
    | (with_reducible apply Frame.emit)
    | (with_reducible apply Frame.pmcEvent)
    | decide

/-- What `State.addPoints` may write: register fields by number, memory at 1000. -/
def W.addPoints : Nat := 0x0

theorem Frame.addPoints {M : Nat} {s0 s : State} (hk0 : Frame M s0 s)
    (_hL : W.addPoints &&& M = W.addPoints) : Frame M s0 (State.addPoints s) := by
  unfold State.addPoints
  try dsimp only
  repeat' first
    | (with_reducible assumption)
    | (split)
    | (with_reducible refine Frame.foldl ?_ ?_)
    | (exact Nat.zero_and _)
    | (intro u hu x hx)
    | (intro u hu)
    | (refine Frame.bitMem (by with_reducible assumption) ?_)
    | (refine Frame.bitMemFst (by with_reducible assumption) ?_)
    | (with_reducible apply Frame.emit)
    | (with_reducible apply Frame.setMon)
    | (with_reducible refine Frame.mk_other ?_)
    | decide

/-- What `State.healthReport` may write: register fields by number, memory at 1000. -/
def W.healthReport : Nat := 0x0

theorem Frame.healthReport {M : Nat} {s0 s : State} {p : List Byte} (hk0 : Frame M s0 s)
    (_hL : W.healthReport &&& M = W.healthReport) : Frame M s0 (State.healthReport s p).1 := by
  unfold State.healthReport
  try dsimp only
  repeat' first
    | (with_reducible assumption)
    | (split)
    | (with_reducible refine Frame.foldl ?_ ?_)
    | (exact Nat.zero_and _)
    | (intro u hu x hx)
    | (intro u hu)
    | (refine Frame.bitMem (by with_reducible assumption) ?_)
    | (refine Frame.bitMemFst (by with_reducible assumption) ?_)
    | (with_reducible apply Frame.emit)
    | (with_reducible apply Frame.tickPredict)
    | (with_reducible apply Frame.take)
    | (with_reducible refine Frame.fst ?_ (by with_reducible assumption))
    | (with_reducible refine Frame.snd ?_ (by with_reducible assumption))
    | (with_reducible refine Frame.mk_other ?_)
    | decide

/-- What `State.unlockFail` may write: register fields by number, memory at 1000. -/
def W.unlockFail : Nat := 0x100000000000000000000000000000000000000000000000000000000000000000000000000000000000000000000000000000000000000000000000000000

theorem Frame.unlockFail {M : Nat} {s0 s : State} {r : Resp} (hk0 : Frame M s0 s)
    (hL : W.unlockFail &&& M = W.unlockFail) : Frame M s0 (State.unlockFail s r).1 := by
  unfold State.unlockFail
  try dsimp only
  repeat' first
    | (with_reducible assumption)
    | (split)
    | (with_reducible refine Frame.foldl ?_ ?_)
    | (exact Nat.zero_and _)
    | (exact Frame.sub hL (by decide))
    | (exact Frame.bitOf hL (by decide))
    | (intro u hu x hx)
    | (intro u hu)
    | (refine Frame.bitMem (by with_reducible assumption) ?_)
    | (refine Frame.sub_all hL (by first | decide | (simp only [List.map_cons, List.map_nil]; decide)))
    | (refine Frame.bitMemFst (by with_reducible assumption) ?_)
    | (with_reducible refine Frame.wr ?_ ?_)
    | (with_reducible apply Frame.emit)
    | (with_reducible apply Frame.setMon)
    | (with_reducible refine Frame.mk_other ?_)
    | decide

/-- What `State.unlock` may write: register fields by number, memory at 1000. -/
def W.unlock : Nat := 0xc0000320000060000000000000000000000000000000000000000000000000072000000000000000000000000000000000000000000000000000000000000000000

theorem Frame.unlock {M : Nat} {s0 s : State} {token : Nat} {timely : Bool} (hk0 : Frame M s0 s)
    (hL : W.unlock &&& M = W.unlock) : Frame M s0 (State.unlock s token timely).1 := by
  unfold State.unlock
  try dsimp only
  repeat' first
    | (with_reducible assumption)
    | (split)
    | (with_reducible refine Frame.foldl ?_ ?_)
    | (exact Nat.zero_and _)
    | (exact Frame.sub hL (by decide))
    | (exact Frame.bitOf hL (by decide))
    | (intro u hu x hx)
    | (intro u hu)
    | (refine Frame.bitMem (by with_reducible assumption) ?_)
    | (refine Frame.sub_all hL (by first | decide | (simp only [List.map_cons, List.map_nil]; decide)))
    | (refine Frame.bitMemFst (by with_reducible assumption) ?_)
    | (with_reducible refine Frame.wr ?_ ?_)
    | (with_reducible apply Frame.emit)
    | (with_reducible apply Frame.setMon)
    | (with_reducible apply Frame.unlockFail)
    | (with_reducible apply Frame.pmcEvent)
    | (with_reducible refine Frame.fst ?_ (by with_reducible assumption))
    | (with_reducible refine Frame.snd ?_ (by with_reducible assumption))
    | (with_reducible refine Frame.mk_other ?_)
    | decide

/-- What `State.debugUnlock` may write: register fields by number, memory at 1000. -/
def W.debugUnlock : Nat := 0xc0000320000060000000000000000000000000000000000000000000000000072000000000000000000000000000000000000000000000000000000000000000000

theorem Frame.debugUnlock {M : Nat} {s0 s : State} {p : List Byte} {timely : Bool} (hk0 : Frame M s0 s)
    (hL : W.debugUnlock &&& M = W.debugUnlock) : Frame M s0 (State.debugUnlock s p timely).1 := by
  unfold State.debugUnlock
  try dsimp only
  repeat' first
    | (with_reducible assumption)
    | (split)
    | (with_reducible refine Frame.foldl ?_ ?_)
    | (exact Nat.zero_and _)
    | (exact Frame.sub hL (by decide))
    | (exact Frame.bitOf hL (by decide))
    | (intro u hu x hx)
    | (intro u hu)
    | (refine Frame.bitMem (by with_reducible assumption) ?_)
    | (refine Frame.sub_all hL (by first | decide | (simp only [List.map_cons, List.map_nil]; decide)))
    | (refine Frame.bitMemFst (by with_reducible assumption) ?_)
    | (with_reducible apply Frame.emit)
    | (with_reducible apply Frame.tickFree)
    | (with_reducible apply Frame.setMon)
    | (with_reducible apply Frame.unlock)
    | (with_reducible apply Frame.tmxLock)
    | (with_reducible refine Frame.fst ?_ (by with_reducible assumption))
    | (with_reducible refine Frame.snd ?_ (by with_reducible assumption))
    | (with_reducible refine Frame.mk_other ?_)
    | decide

end Sys2Proof.Machine
end

