-- ==== Sys2Proof/Laws/DoesMonitor.lean ====
section
/-! SUPPORT. For each command of Monitor, a mask of the registers it may write, and of the memories (Laws/Frame.lean). -/

namespace Sys2Proof.Machine

set_option Elab.async false
set_option linter.all false

theorem execCounterSnapshot_frame {src : Src} {s : State} {nx : State} (hex : execCounterSnapshot src s = .next nx) :
    Frame 0x100000000000000000000000000000000000000000000000000000000000000000000000000000000000000000000000000000000000000000000000c03ffc00000829800000000000000000000000000000000000042d020600e0872401302a00000000000000000000000000000000000000000000000000000000000 s nx := by
  unfold execCounterSnapshot at hex
  rw [← Host.Outcome.next.inj hex]
  have hk0 := Frame.refl 0x100000000000000000000000000000000000000000000000000000000000000000000000000000000000000000000000000000000000000000000000c03ffc00000829800000000000000000000000000000000000042d020600e0872401302a00000000000000000000000000000000000000000000000000000000000 s
  try dsimp only
  repeat' first
    | (with_reducible assumption)
    | (split)
    | (with_reducible refine Frame.foldl ?_ ?_)
    | (intro hu)
    | decide
    | (intro u hu x hx)
    | (intro u hu)
    | (refine Frame.bitMem (by with_reducible assumption) (by decide))
    | (refine Frame.bitMemFst (by with_reducible assumption) (by (simp only [List.map_cons, List.map_nil]; decide)))
    | (with_reducible apply Frame.emit)
    | (with_reducible apply Frame.calvan)
    | (with_reducible apply Frame.counterSnapshot)
    | (with_reducible refine Frame.fst ?_ (by with_reducible assumption))
    | (with_reducible refine Frame.snd ?_ (by with_reducible assumption))
    | decide

theorem execFlowHarvestDone_frame {s : State} {nx : State} (hex : execFlowHarvestDone s = .next nx) :
    Frame 0x100000000000000000000000000000000000000000000000000000000000000000000000000000000000000000000000000000000000000000000000c0000000000021800000000000000000000000000000000000042d02022860072401302a00000000000000000000000000000000000000000000000000000000000 s nx := by
  unfold execFlowHarvestDone at hex
  rw [← Host.Outcome.next.inj hex]
  have hk0 := Frame.refl 0x100000000000000000000000000000000000000000000000000000000000000000000000000000000000000000000000000000000000000000000000c0000000000021800000000000000000000000000000000000042d02022860072401302a00000000000000000000000000000000000000000000000000000000000 s
  try dsimp only
  repeat' first
    | (with_reducible assumption)
    | (split)
    | (with_reducible refine Frame.foldl ?_ ?_)
    | decide
    | (intro u hu x hx)
    | (intro u hu)
    | (refine Frame.bitMem (by with_reducible assumption) (by decide))
    | (refine Frame.bitMemFst (by with_reducible assumption) (by (simp only [List.map_cons, List.map_nil]; decide)))
    | (with_reducible apply Frame.emit)
    | (with_reducible apply Frame.setMon)
    | (with_reducible apply Frame.harvestPairs)
    | (with_reducible apply Frame.releaseChannel)
    | (with_reducible apply Frame.answerLater)
    | (with_reducible apply Frame.pumpAll)
    | (with_reducible refine Frame.fst ?_ (by with_reducible assumption))
    | (with_reducible refine Frame.snd ?_ (by with_reducible assumption))
    | (with_reducible refine Frame.mk_other ?_)
    | decide

theorem execSnapNow_frame {port : PortId} {v : BitVec 32} {s : State} {nx : State} (hex : execSnapNow port v s = .next nx) :
    Frame 0xc000000000082800000000000000000000000000000000000000000000000007200000000000000000000000000000000000000000000000000000000f001c00000 s nx := by
  unfold execSnapNow at hex
  rw [← Host.Outcome.next.inj hex]
  have hk0 := Frame.refl 0xc000000000082800000000000000000000000000000000000000000000000007200000000000000000000000000000000000000000000000000000000f001c00000 s
  try dsimp only
  repeat' first
    | (with_reducible assumption)
    | (split)
    | (with_reducible refine Frame.foldl ?_ ?_)
    | decide
    | (intro u hu x hx)
    | (intro u hu)
    | (refine Frame.bitMem (by with_reducible assumption) (by decide))
    | (refine Frame.bitMemFst (by with_reducible assumption) (by (simp only [List.map_cons, List.map_nil]; decide)))
    | (with_reducible apply Frame.emit)
    | (with_reducible apply Frame.winWrite)
    | (with_reducible apply Frame.writeSnapCtl)
    | (with_reducible refine Frame.fst ?_ (by with_reducible assumption))
    | (with_reducible refine Frame.snd ?_ (by with_reducible assumption))
    | decide

theorem execSnapArm_frame {port : PortId} {v : BitVec 32} {s : State} {nx : State} (hex : execSnapArm port v s = .next nx) :
    Frame 0xc000000000082800000000000000000000000000000000000000000000000007200000000000000000000000000000000000000000000000000000000f001c00000 s nx := by
  unfold execSnapArm at hex
  rw [← Host.Outcome.next.inj hex]
  have hk0 := Frame.refl 0xc000000000082800000000000000000000000000000000000000000000000007200000000000000000000000000000000000000000000000000000000f001c00000 s
  try dsimp only
  repeat' first
    | (with_reducible assumption)
    | (split)
    | (with_reducible refine Frame.foldl ?_ ?_)
    | decide
    | (intro u hu x hx)
    | (intro u hu)
    | (refine Frame.bitMem (by with_reducible assumption) (by decide))
    | (refine Frame.bitMemFst (by with_reducible assumption) (by (simp only [List.map_cons, List.map_nil]; decide)))
    | (with_reducible apply Frame.emit)
    | (with_reducible apply Frame.winWrite)
    | (with_reducible apply Frame.writeSnapCtl)
    | (with_reducible refine Frame.fst ?_ (by with_reducible assumption))
    | (with_reducible refine Frame.snd ?_ (by with_reducible assumption))
    | decide

theorem execSnapDisarm_frame {port : PortId} {v : BitVec 32} {s : State} {nx : State} (hex : execSnapDisarm port v s = .next nx) :
    Frame 0xc000000000082800000000000000000000000000000000000000000000000007200000000000000000000000000000000000000000000000000000000f001c00000 s nx := by
  unfold execSnapDisarm at hex
  rw [← Host.Outcome.next.inj hex]
  have hk0 := Frame.refl 0xc000000000082800000000000000000000000000000000000000000000000007200000000000000000000000000000000000000000000000000000000f001c00000 s
  try dsimp only
  repeat' first
    | (with_reducible assumption)
    | (split)
    | (with_reducible refine Frame.foldl ?_ ?_)
    | decide
    | (intro u hu x hx)
    | (intro u hu)
    | (refine Frame.bitMem (by with_reducible assumption) (by decide))
    | (refine Frame.bitMemFst (by with_reducible assumption) (by (simp only [List.map_cons, List.map_nil]; decide)))
    | (with_reducible apply Frame.emit)
    | (with_reducible apply Frame.winWrite)
    | (with_reducible apply Frame.writeSnapCtl)
    | (with_reducible refine Frame.fst ?_ (by with_reducible assumption))
    | (with_reducible refine Frame.snd ?_ (by with_reducible assumption))
    | decide

theorem execSnapshotAt_frame {s : State} {nx : State} (hex : execSnapshotAt s = .next nx) :
    Frame 0xc0000000000828000000000000000000000000000000000000000000000000072000000000000000000000000000000000000000000000000000000000000000000 s nx := by
  unfold execSnapshotAt at hex
  rw [← Host.Outcome.next.inj hex]
  have hk0 := Frame.refl 0xc0000000000828000000000000000000000000000000000000000000000000072000000000000000000000000000000000000000000000000000000000000000000 s
  try dsimp only
  repeat' first
    | (with_reducible assumption)
    | (split)
    | (with_reducible refine Frame.foldl ?_ ?_)
    | decide
    | (intro u hu x hx)
    | (intro u hu)
    | (refine Frame.bitMem (by with_reducible assumption) (by decide))
    | (refine Frame.bitMemFst (by with_reducible assumption) (by (simp only [List.map_cons, List.map_nil]; decide)))
    | (with_reducible apply Frame.emit)
    | (with_reducible apply Frame.setMon)
    | (with_reducible apply Frame.snapshot)
    | (with_reducible refine Frame.fst ?_ (by with_reducible assumption))
    | (with_reducible refine Frame.snd ?_ (by with_reducible assumption))
    | (with_reducible refine Frame.mk_other ?_)
    | decide

theorem execBwFramesWrite_frame {port : PortId} {v : BitVec 32} {s : State} {nx : State} (hex : execBwFramesWrite port v s = .next nx) :
    Frame 0x200000000000000000000000000000000000000000000000000000000000000000000000000000000000000000000000000000000000000f001c00000 s nx := by
  unfold execBwFramesWrite at hex
  rw [← Host.Outcome.next.inj hex]
  have hk0 := Frame.refl 0x200000000000000000000000000000000000000000000000000000000000000000000000000000000000000000000000000000000000000f001c00000 s
  try dsimp only
  repeat' first
    | (with_reducible assumption)
    | (split)
    | (with_reducible refine Frame.foldl ?_ ?_)
    | decide
    | (intro u hu x hx)
    | (intro u hu)
    | (refine Frame.bitMem (by with_reducible assumption) (by decide))
    | (refine Frame.bitMemFst (by with_reducible assumption) (by (simp only [List.map_cons, List.map_nil]; decide)))
    | (with_reducible apply Frame.emit)
    | (with_reducible apply Frame.winWrite)
    | (with_reducible apply Frame.writeBwFrames)
    | (with_reducible refine Frame.fst ?_ (by with_reducible assumption))
    | (with_reducible refine Frame.snd ?_ (by with_reducible assumption))
    | decide

theorem execTelemetryEnWrite_frame {port : PortId} {t : TreeId} {v : BitVec 32} {s : State} {nx : State} (hex : execTelemetryEnWrite port t v s = .next nx) :
    Frame 0xc0000000000000000000000000000000000000000000000000000000000000000000000000000000000000000000000000000000000000000f001c00000 s nx := by
  unfold execTelemetryEnWrite at hex
  rw [← Host.Outcome.next.inj hex]
  have hk0 := Frame.refl 0xc0000000000000000000000000000000000000000000000000000000000000000000000000000000000000000000000000000000000000000f001c00000 s
  try dsimp only
  repeat' first
    | (with_reducible assumption)
    | (split)
    | (with_reducible refine Frame.foldl ?_ ?_)
    | decide
    | (intro u hu x hx)
    | (intro u hu)
    | (refine Frame.bitMem (by with_reducible assumption) (by decide))
    | (refine Frame.bitMemFst (by with_reducible assumption) (by (simp only [List.map_cons, List.map_nil]; decide)))
    | (with_reducible apply Frame.emit)
    | (with_reducible apply Frame.winWrite)
    | (with_reducible apply Frame.writeTelEn)
    | (with_reducible refine Frame.fst ?_ (by with_reducible assumption))
    | (with_reducible refine Frame.snd ?_ (by with_reducible assumption))
    | decide

theorem execWearMeasure_frame {ratios : List Nat} {s : State} {nx : State} (hex : execWearMeasure ratios s = .next nx) :
    Frame 0xc0000000300022000000000000000000000000000000000000000000000000072000000000000000000000000000000000000000000000000000000000000000000 s nx := by
  unfold execWearMeasure at hex
  rw [← Host.Outcome.next.inj hex]
  have hk0 := Frame.refl 0xc0000000300022000000000000000000000000000000000000000000000000072000000000000000000000000000000000000000000000000000000000000000000 s
  try dsimp only
  repeat' first
    | (with_reducible assumption)
    | (split)
    | (with_reducible refine Frame.foldl ?_ ?_)
    | decide
    | (intro u hu x hx)
    | (intro u hu)
    | (refine Frame.bitMem (by with_reducible assumption) (by decide))
    | (refine Frame.bitMemFst (by with_reducible assumption) (by (simp only [List.map_cons, List.map_nil]; decide)))
    | (with_reducible apply Frame.emit)
    | (with_reducible apply Frame.take)
    | (with_reducible apply Frame.measure)
    | (with_reducible refine Frame.fst ?_ (by with_reducible assumption))
    | (with_reducible refine Frame.snd ?_ (by with_reducible assumption))
    | decide

theorem execHealthPoint_frame {s : State} {nx : State} (hex : execHealthPoint s = .next nx) :
    Frame 0xc0000000000024000000000000000000000000000000000000000000000000072000000000000000000000000000000000000000000000000000000000000000000 s nx := by
  unfold execHealthPoint at hex
  rw [← Host.Outcome.next.inj hex]
  have hk0 := Frame.refl 0xc0000000000024000000000000000000000000000000000000000000000000072000000000000000000000000000000000000000000000000000000000000000000 s
  try dsimp only
  repeat' first
    | (with_reducible assumption)
    | (split)
    | (with_reducible refine Frame.foldl ?_ ?_)
    | decide
    | (intro u hu x hx)
    | (intro u hu)
    | (refine Frame.bitMem (by with_reducible assumption) (by decide))
    | (refine Frame.bitMemFst (by with_reducible assumption) (by (simp only [List.map_cons, List.map_nil]; decide)))
    | (with_reducible apply Frame.emit)
    | (with_reducible apply Frame.addPoints)
    | (with_reducible apply Frame.pmcEvent)
    | (with_reducible apply Frame.tickPredict)
    | (with_reducible refine Frame.fst ?_ (by with_reducible assumption))
    | (with_reducible refine Frame.snd ?_ (by with_reducible assumption))
    | decide

theorem execHealthReport_frame {src : Src} {s : State} {nx : State} (hex : execHealthReport src s = .next nx) :
    Frame 0x100000000000000000000000000000000000000000000000000000000000000000000000000000000000000000000000000000000000000000000000c0000000000021800000000000000000000000000000000000042d00000000072401302a00000000000000000000000000000000000000000000000000000000000 s nx := by
  unfold execHealthReport at hex
  rw [← Host.Outcome.next.inj hex]
  have hk0 := Frame.refl 0x100000000000000000000000000000000000000000000000000000000000000000000000000000000000000000000000000000000000000000000000c0000000000021800000000000000000000000000000000000042d00000000072401302a00000000000000000000000000000000000000000000000000000000000 s
  try dsimp only
  repeat' first
    | (with_reducible assumption)
    | (split)
    | (with_reducible refine Frame.foldl ?_ ?_)
    | (intro hu)
    | decide
    | (intro u hu x hx)
    | (intro u hu)
    | (refine Frame.bitMem (by with_reducible assumption) (by decide))
    | (refine Frame.bitMemFst (by with_reducible assumption) (by (simp only [List.map_cons, List.map_nil]; decide)))
    | (with_reducible apply Frame.emit)
    | (with_reducible apply Frame.calvan)
    | (with_reducible apply Frame.atOnce)
    | (with_reducible apply Frame.healthReport)
    | (with_reducible refine Frame.fst ?_ (by with_reducible assumption))
    | (with_reducible refine Frame.snd ?_ (by with_reducible assumption))
    | decide

theorem execDebugUnlock_frame {src : Src} {timely : Bool} {s : State} {nx : State} (hex : execDebugUnlock src timely s = .next nx) :
    Frame 0x100000000000000000000000000000000000000000000000000000000000000000000000000000000000000000000000000000000000000000000000c0000320000061800000000000000000000000000000000000042d00000000072401302a00000000000000000000000000000000000000000000000000000000000 s nx := by
  unfold execDebugUnlock at hex
  rw [← Host.Outcome.next.inj hex]
  have hk0 := Frame.refl 0x100000000000000000000000000000000000000000000000000000000000000000000000000000000000000000000000000000000000000000000000c0000320000061800000000000000000000000000000000000042d00000000072401302a00000000000000000000000000000000000000000000000000000000000 s
  try dsimp only
  repeat' first
    | (with_reducible assumption)
    | (split)
    | (with_reducible refine Frame.foldl ?_ ?_)
    | (intro hu)
    | decide
    | (intro u hu x hx)
    | (intro u hu)
    | (refine Frame.bitMem (by with_reducible assumption) (by decide))
    | (refine Frame.bitMemFst (by with_reducible assumption) (by (simp only [List.map_cons, List.map_nil]; decide)))
    | (with_reducible apply Frame.emit)
    | (with_reducible apply Frame.calvan)
    | (with_reducible apply Frame.atOnce)
    | (with_reducible apply Frame.debugUnlock)
    | (with_reducible refine Frame.fst ?_ (by with_reducible assumption))
    | (with_reducible refine Frame.snd ?_ (by with_reducible assumption))
    | decide

theorem execNonceExpiry_frame {s : State} {nx : State} (hex : execNonceExpiry s = .next nx) :
    Frame 0x0 s nx := by
  unfold execNonceExpiry at hex
  rw [← Host.Outcome.next.inj hex]
  have hk0 := Frame.refl 0x0 s
  try dsimp only
  repeat' first
    | (with_reducible assumption)
    | (split)
    | (with_reducible refine Frame.foldl ?_ ?_)
    | decide
    | (intro u hu x hx)
    | (intro u hu)
    | (refine Frame.bitMem (by with_reducible assumption) (by decide))
    | (refine Frame.bitMemFst (by with_reducible assumption) (by (simp only [List.map_cons, List.map_nil]; decide)))
    | (with_reducible apply Frame.emit)
    | (with_reducible apply Frame.setMon)
    | (with_reducible refine Frame.fst ?_ (by with_reducible assumption))
    | (with_reducible refine Frame.snd ?_ (by with_reducible assumption))
    | (with_reducible refine Frame.mk_other ?_)
    | decide

theorem execTmxUnlockExpiry_frame {s : State} {nx : State} (hex : execTmxUnlockExpiry s = .next nx) :
    Frame 0xc0000020000060000000000000000000000000000000000000000000000000072000000000000000000000000000000000000000000000000000000000000000000 s nx := by
  unfold execTmxUnlockExpiry at hex
  rw [← Host.Outcome.next.inj hex]
  have hk0 := Frame.refl 0xc0000020000060000000000000000000000000000000000000000000000000072000000000000000000000000000000000000000000000000000000000000000000 s
  try dsimp only
  repeat' first
    | (with_reducible assumption)
    | (split)
    | (with_reducible refine Frame.foldl ?_ ?_)
    | decide
    | (intro u hu x hx)
    | (intro u hu)
    | (refine Frame.bitMem (by with_reducible assumption) (by decide))
    | (refine Frame.bitMemFst (by with_reducible assumption) (by (simp only [List.map_cons, List.map_nil]; decide)))
    | (with_reducible apply Frame.emit)
    | (with_reducible apply Frame.tmxLock)
    | (with_reducible refine Frame.fst ?_ (by with_reducible assumption))
    | (with_reducible refine Frame.snd ?_ (by with_reducible assumption))
    | decide

end Sys2Proof.Machine
end

