-- ==== Sys2Proof/Laws/DoesPan.lean ====
section
/-! SUPPORT. For each command of Pan, a mask of the registers it may write, and of the memories (Laws/Frame.lean). -/

namespace Sys2Proof.Machine

set_option Elab.async false
set_option linter.all false

theorem execNext_frame {e : EngId} {obs : PeObs} {s : State} {nx : State} (hex : execNext e obs s = .next nx) :
    Frame 0x100000000000000000000000000000000000000000000000000000000000000000000000000000000000000000000000000000000000000000000000c40000000000218180000000000000900707c0020010000000042d00000000072401302a065b781800c002a0f0040001000000c6002600000000000000000200000 s nx := by
  unfold execNext at hex
  rw [← Host.Outcome.next.inj hex]
  have hk0 := Frame.refl 0x100000000000000000000000000000000000000000000000000000000000000000000000000000000000000000000000000000000000000000000000c40000000000218180000000000000900707c0020010000000042d00000000072401302a065b781800c002a0f0040001000000c6002600000000000000000200000 s
  try dsimp only
  repeat' first
    | (with_reducible assumption)
    | (split)
    | (with_reducible refine Frame.foldl ?_ ?_)
    | decide
    | (intro u hu x hx)
    | (intro u hu)
    | (refine Frame.bitMem (by with_reducible assumption) (by decide))
    | (refine Frame.bitMemFst (by with_reducible assumption) (by (simp only [List.map_cons, List.map_nil]; decide)))
    | (with_reducible apply Frame.emit)
    | (with_reducible apply Frame.micro)
    | (with_reducible refine Frame.fst ?_ (by with_reducible assumption))
    | (with_reducible refine Frame.snd ?_ (by with_reducible assumption))
    | decide

theorem execJump_frame {e : EngId} {obs : PeObs} {s : State} {nx : State} (hex : execJump e obs s = .next nx) :
    Frame 0x100000000000000000000000000000000000000000000000000000000000000000000000000000000000000000000000000000000000000000000000c40000000000218180000000000000900707c0020010000000042d00000000072401302a065b781800c002a0f0040001000000c6002600000000000000000200000 s nx := by
  unfold execJump at hex
  rw [← Host.Outcome.next.inj hex]
  have hk0 := Frame.refl 0x100000000000000000000000000000000000000000000000000000000000000000000000000000000000000000000000000000000000000000000000c40000000000218180000000000000900707c0020010000000042d00000000072401302a065b781800c002a0f0040001000000c6002600000000000000000200000 s
  try dsimp only
  repeat' first
    | (with_reducible assumption)
    | (split)
    | (with_reducible refine Frame.foldl ?_ ?_)
    | decide
    | (intro u hu x hx)
    | (intro u hu)
    | (refine Frame.bitMem (by with_reducible assumption) (by decide))
    | (refine Frame.bitMemFst (by with_reducible assumption) (by (simp only [List.map_cons, List.map_nil]; decide)))
    | (with_reducible apply Frame.emit)
    | (with_reducible apply Frame.micro)
    | (with_reducible refine Frame.fst ?_ (by with_reducible assumption))
    | (with_reducible refine Frame.snd ?_ (by with_reducible assumption))
    | decide

theorem execBrt_frame {e : EngId} {obs : PeObs} {s : State} {nx : State} (hex : execBrt e obs s = .next nx) :
    Frame 0x100000000000000000000000000000000000000000000000000000000000000000000000000000000000000000000000000000000000000000000000c40000000000218180000000000000900707c0020010000000042d00000000072401302a065b781800c002a0f0040001000000c6002600000000000000000200000 s nx := by
  unfold execBrt at hex
  rw [← Host.Outcome.next.inj hex]
  have hk0 := Frame.refl 0x100000000000000000000000000000000000000000000000000000000000000000000000000000000000000000000000000000000000000000000000c40000000000218180000000000000900707c0020010000000042d00000000072401302a065b781800c002a0f0040001000000c6002600000000000000000200000 s
  try dsimp only
  repeat' first
    | (with_reducible assumption)
    | (split)
    | (with_reducible refine Frame.foldl ?_ ?_)
    | decide
    | (intro u hu x hx)
    | (intro u hu)
    | (refine Frame.bitMem (by with_reducible assumption) (by decide))
    | (refine Frame.bitMemFst (by with_reducible assumption) (by (simp only [List.map_cons, List.map_nil]; decide)))
    | (with_reducible apply Frame.emit)
    | (with_reducible apply Frame.micro)
    | (with_reducible refine Frame.fst ?_ (by with_reducible assumption))
    | (with_reducible refine Frame.snd ?_ (by with_reducible assumption))
    | decide

theorem execBrf_frame {e : EngId} {obs : PeObs} {s : State} {nx : State} (hex : execBrf e obs s = .next nx) :
    Frame 0x100000000000000000000000000000000000000000000000000000000000000000000000000000000000000000000000000000000000000000000000c40000000000218180000000000000900707c0020010000000042d00000000072401302a065b781800c002a0f0040001000000c6002600000000000000000200000 s nx := by
  unfold execBrf at hex
  rw [← Host.Outcome.next.inj hex]
  have hk0 := Frame.refl 0x100000000000000000000000000000000000000000000000000000000000000000000000000000000000000000000000000000000000000000000000c40000000000218180000000000000900707c0020010000000042d00000000072401302a065b781800c002a0f0040001000000c6002600000000000000000200000 s
  try dsimp only
  repeat' first
    | (with_reducible assumption)
    | (split)
    | (with_reducible refine Frame.foldl ?_ ?_)
    | decide
    | (intro u hu x hx)
    | (intro u hu)
    | (refine Frame.bitMem (by with_reducible assumption) (by decide))
    | (refine Frame.bitMemFst (by with_reducible assumption) (by (simp only [List.map_cons, List.map_nil]; decide)))
    | (with_reducible apply Frame.emit)
    | (with_reducible apply Frame.micro)
    | (with_reducible refine Frame.fst ?_ (by with_reducible assumption))
    | (with_reducible refine Frame.snd ?_ (by with_reducible assumption))
    | decide

theorem execCall_frame {e : EngId} {obs : PeObs} {s : State} {nx : State} (hex : execCall e obs s = .next nx) :
    Frame 0x100000000000000000000000000000000000000000000000000000000000000000000000000000000000000000000000000000000000000000000000c40000000000218180000000000000900707c0020010000000042d00000000072401302a065b781800c002a0f0040001000000c6002600000000000000000200000 s nx := by
  unfold execCall at hex
  rw [← Host.Outcome.next.inj hex]
  have hk0 := Frame.refl 0x100000000000000000000000000000000000000000000000000000000000000000000000000000000000000000000000000000000000000000000000c40000000000218180000000000000900707c0020010000000042d00000000072401302a065b781800c002a0f0040001000000c6002600000000000000000200000 s
  try dsimp only
  repeat' first
    | (with_reducible assumption)
    | (split)
    | (with_reducible refine Frame.foldl ?_ ?_)
    | decide
    | (intro u hu x hx)
    | (intro u hu)
    | (refine Frame.bitMem (by with_reducible assumption) (by decide))
    | (refine Frame.bitMemFst (by with_reducible assumption) (by (simp only [List.map_cons, List.map_nil]; decide)))
    | (with_reducible apply Frame.emit)
    | (with_reducible apply Frame.micro)
    | (with_reducible refine Frame.fst ?_ (by with_reducible assumption))
    | (with_reducible refine Frame.snd ?_ (by with_reducible assumption))
    | decide

theorem execRet_frame {e : EngId} {obs : PeObs} {s : State} {nx : State} (hex : execRet e obs s = .next nx) :
    Frame 0x100000000000000000000000000000000000000000000000000000000000000000000000000000000000000000000000000000000000000000000000c40000000000218180000000000000900707c0020010000000042d00000000072401302a065b781800c002a0f0040001000000c6002600000000000000000200000 s nx := by
  unfold execRet at hex
  rw [← Host.Outcome.next.inj hex]
  have hk0 := Frame.refl 0x100000000000000000000000000000000000000000000000000000000000000000000000000000000000000000000000000000000000000000000000c40000000000218180000000000000900707c0020010000000042d00000000072401302a065b781800c002a0f0040001000000c6002600000000000000000200000 s
  try dsimp only
  repeat' first
    | (with_reducible assumption)
    | (split)
    | (with_reducible refine Frame.foldl ?_ ?_)
    | decide
    | (intro u hu x hx)
    | (intro u hu)
    | (refine Frame.bitMem (by with_reducible assumption) (by decide))
    | (refine Frame.bitMemFst (by with_reducible assumption) (by (simp only [List.map_cons, List.map_nil]; decide)))
    | (with_reducible apply Frame.emit)
    | (with_reducible apply Frame.micro)
    | (with_reducible refine Frame.fst ?_ (by with_reducible assumption))
    | (with_reducible refine Frame.snd ?_ (by with_reducible assumption))
    | decide

theorem execWait_frame {e : EngId} {obs : PeObs} {s : State} {nx : State} (hex : execWait e obs s = .next nx) :
    Frame 0x100000000000000000000000000000000000000000000000000000000000000000000000000000000000000000000000000000000000000000000000c40000000000218180000000000000900707c0020010000000042d00000000072401302a065b781800c002a0f0040001000000c6002600000000000000000200000 s nx := by
  unfold execWait at hex
  rw [← Host.Outcome.next.inj hex]
  have hk0 := Frame.refl 0x100000000000000000000000000000000000000000000000000000000000000000000000000000000000000000000000000000000000000000000000c40000000000218180000000000000900707c0020010000000042d00000000072401302a065b781800c002a0f0040001000000c6002600000000000000000200000 s
  try dsimp only
  repeat' first
    | (with_reducible assumption)
    | (split)
    | (with_reducible refine Frame.foldl ?_ ?_)
    | decide
    | (intro u hu x hx)
    | (intro u hu)
    | (refine Frame.bitMem (by with_reducible assumption) (by decide))
    | (refine Frame.bitMemFst (by with_reducible assumption) (by (simp only [List.map_cons, List.map_nil]; decide)))
    | (with_reducible apply Frame.emit)
    | (with_reducible apply Frame.micro)
    | (with_reducible refine Frame.fst ?_ (by with_reducible assumption))
    | (with_reducible refine Frame.snd ?_ (by with_reducible assumption))
    | decide

theorem execCommit_frame {e : EngId} {obs : PeObs} {s : State} {nx : State} (hex : execCommit e obs s = .next nx) :
    Frame 0x100000000000000000000000000000000000000000000000000000000000000000000000000000000000000000000000000000000000000000000000c40000000000218180000000000000900707c0020010000000042d00000000072401302a065b781800c002a0f0040001000000c6002600000000000000000200000 s nx := by
  unfold execCommit at hex
  rw [← Host.Outcome.next.inj hex]
  have hk0 := Frame.refl 0x100000000000000000000000000000000000000000000000000000000000000000000000000000000000000000000000000000000000000000000000c40000000000218180000000000000900707c0020010000000042d00000000072401302a065b781800c002a0f0040001000000c6002600000000000000000200000 s
  try dsimp only
  repeat' first
    | (with_reducible assumption)
    | (split)
    | (with_reducible refine Frame.foldl ?_ ?_)
    | decide
    | (intro u hu x hx)
    | (intro u hu)
    | (refine Frame.bitMem (by with_reducible assumption) (by decide))
    | (refine Frame.bitMemFst (by with_reducible assumption) (by (simp only [List.map_cons, List.map_nil]; decide)))
    | (with_reducible apply Frame.emit)
    | (with_reducible apply Frame.micro)
    | (with_reducible refine Frame.fst ?_ (by with_reducible assumption))
    | (with_reducible refine Frame.snd ?_ (by with_reducible assumption))
    | decide

theorem execEnd_frame {e : EngId} {obs : PeObs} {s : State} {nx : State} (hex : execEnd e obs s = .next nx) :
    Frame 0x100000000000000000000000000000000000000000000000000000000000000000000000000000000000000000000000000000000000000000000000c40000000000218180000000000000900707c0020010000000042d00000000072401302a065b781800c002a0f0040001000000c6002600000000000000000200000 s nx := by
  unfold execEnd at hex
  rw [← Host.Outcome.next.inj hex]
  have hk0 := Frame.refl 0x100000000000000000000000000000000000000000000000000000000000000000000000000000000000000000000000000000000000000000000000c40000000000218180000000000000900707c0020010000000042d00000000072401302a065b781800c002a0f0040001000000c6002600000000000000000200000 s
  try dsimp only
  repeat' first
    | (with_reducible assumption)
    | (split)
    | (with_reducible refine Frame.foldl ?_ ?_)
    | decide
    | (intro u hu x hx)
    | (intro u hu)
    | (refine Frame.bitMem (by with_reducible assumption) (by decide))
    | (refine Frame.bitMemFst (by with_reducible assumption) (by (simp only [List.map_cons, List.map_nil]; decide)))
    | (with_reducible apply Frame.emit)
    | (with_reducible apply Frame.micro)
    | (with_reducible refine Frame.fst ?_ (by with_reducible assumption))
    | (with_reducible refine Frame.snd ?_ (by with_reducible assumption))
    | decide

theorem execHalt_frame {e : EngId} {obs : PeObs} {s : State} {nx : State} (hex : execHalt e obs s = .next nx) :
    Frame 0x100000000000000000000000000000000000000000000000000000000000000000000000000000000000000000000000000000000000000000000000c40000000000218180000000000000900707c0020010000000042d00000000072401302a065b781800c002a0f0040001000000c6002600000000000000000200000 s nx := by
  unfold execHalt at hex
  rw [← Host.Outcome.next.inj hex]
  have hk0 := Frame.refl 0x100000000000000000000000000000000000000000000000000000000000000000000000000000000000000000000000000000000000000000000000c40000000000218180000000000000900707c0020010000000042d00000000072401302a065b781800c002a0f0040001000000c6002600000000000000000200000 s
  try dsimp only
  repeat' first
    | (with_reducible assumption)
    | (split)
    | (with_reducible refine Frame.foldl ?_ ?_)
    | decide
    | (intro u hu x hx)
    | (intro u hu)
    | (refine Frame.bitMem (by with_reducible assumption) (by decide))
    | (refine Frame.bitMemFst (by with_reducible assumption) (by (simp only [List.map_cons, List.map_nil]; decide)))
    | (with_reducible apply Frame.emit)
    | (with_reducible apply Frame.micro)
    | (with_reducible refine Frame.fst ?_ (by with_reducible assumption))
    | (with_reducible refine Frame.snd ?_ (by with_reducible assumption))
    | decide

theorem execEngineEvent_frame {e : EngId} {line : Fin 64} {payload : BitVec 64} {s : State} {nx : State} (hex : execEngineEvent e line payload s = .next nx) :
    Frame 0xc4000000000020010000000000000000000000000000000000000000000000072000000000a08000000000000000000000000000000000000000000000000000000 s nx := by
  unfold execEngineEvent at hex
  rw [← Host.Outcome.next.inj hex]
  have hk0 := Frame.refl 0xc4000000000020010000000000000000000000000000000000000000000000072000000000a08000000000000000000000000000000000000000000000000000000 s
  try dsimp only
  repeat' first
    | (with_reducible assumption)
    | (split)
    | (with_reducible refine Frame.foldl ?_ ?_)
    | decide
    | (intro u hu x hx)
    | (intro u hu)
    | (refine Frame.bitMem (by with_reducible assumption) (by decide))
    | (refine Frame.bitMemFst (by with_reducible assumption) (by (simp only [List.map_cons, List.map_nil]; decide)))
    | (with_reducible apply Frame.emit)
    | (with_reducible apply Frame.lateEvent)
    | (with_reducible apply Frame.incSat)
    | (with_reducible apply Frame.peEvent)
    | (with_reducible apply Frame.engCount)
    | (with_reducible apply Frame.setEng)
    | (with_reducible apply Frame.abandon)
    | (with_reducible refine Frame.fst ?_ (by with_reducible assumption))
    | (with_reducible refine Frame.snd ?_ (by with_reducible assumption))
    | (with_reducible refine Frame.mk_other ?_)
    | decide

theorem execRoutineEntry_frame {e : EngId} {s : State} {nx : State} (hex : execRoutineEntry e s = .next nx) :
    Frame 0xc4000000000020010000000000000000000000000000000000000000000000072000000001000000000000000000000000000000000000000000000000000000000 s nx := by
  unfold execRoutineEntry at hex
  rw [← Host.Outcome.next.inj hex]
  have hk0 := Frame.refl 0xc4000000000020010000000000000000000000000000000000000000000000072000000001000000000000000000000000000000000000000000000000000000000 s
  try dsimp only
  repeat' first
    | (with_reducible assumption)
    | (split)
    | (with_reducible refine Frame.foldl ?_ ?_)
    | decide
    | (intro u hu x hx)
    | (intro u hu)
    | (refine Frame.bitMem (by with_reducible assumption) (by decide))
    | (refine Frame.bitMemFst (by with_reducible assumption) (by (simp only [List.map_cons, List.map_nil]; decide)))
    | (with_reducible refine Frame.wr ?_ ?_)
    | (with_reducible apply Frame.emit)
    | (with_reducible apply Frame.setEng)
    | (with_reducible apply Frame.startRoutine)
    | (with_reducible refine Frame.fst ?_ (by with_reducible assumption))
    | (with_reducible refine Frame.snd ?_ (by with_reducible assumption))
    | (with_reducible refine Frame.mk_other ?_)
    | decide

theorem execMopResult_frame {e : EngId} {reg : Fin 32} {value : BitVec 64} {errs : List Upset} {err : Bool} {s : State} {nx : State} (hex : execMopResult e reg value errs err s = .next nx) :
    Frame 0x100000000000000000000000000000000000000000000000000000000000000000000000000000000000000000000000000000000000000000000000c40000000000218100000000000000900707c0020010000000042d00000000072401302a0052780800c002a0f0040001000000c6002600000000000000000200000 s nx := by
  unfold execMopResult at hex
  rw [← Host.Outcome.next.inj hex]
  have hk0 := Frame.refl 0x100000000000000000000000000000000000000000000000000000000000000000000000000000000000000000000000000000000000000000000000c40000000000218100000000000000900707c0020010000000042d00000000072401302a0052780800c002a0f0040001000000c6002600000000000000000200000 s
  try dsimp only
  repeat' first
    | (with_reducible assumption)
    | (split)
    | (with_reducible refine Frame.foldl ?_ ?_)
    | decide
    | (intro u hu x hx)
    | (intro u hu)
    | (refine Frame.bitMem (by with_reducible assumption) (by decide))
    | (refine Frame.bitMemFst (by with_reducible assumption) (by (simp only [List.map_cons, List.map_nil]; decide)))
    | (with_reducible apply Frame.emit)
    | (with_reducible apply Frame.upset)
    | (with_reducible apply Frame.logEng)
    | (with_reducible apply Frame.recoverable)
    | (with_reducible apply Frame.corrected)
    | (with_reducible apply Frame.wmCorrected)
    | (with_reducible apply Frame.setEng)
    | (with_reducible refine Frame.fst ?_ (by with_reducible assumption))
    | (with_reducible refine Frame.snd ?_ (by with_reducible assumption))
    | (with_reducible refine Frame.mk_other ?_)
    | decide

theorem execPortTimeout_frame {e : EngId} {s : State} {nx : State} (hex : execPortTimeout e s = .next nx) :
    Frame 0x100000000000000000000000000000000000000000000000000000000000000000000000000000000000000000000000000000000000000000000000c40000000000218100000000000000900707c0020010000000042d00000000072401302a0040780800c002a0f0040001000000c6002600000000000000000200000 s nx := by
  unfold execPortTimeout at hex
  rw [← Host.Outcome.next.inj hex]
  have hk0 := Frame.refl 0x100000000000000000000000000000000000000000000000000000000000000000000000000000000000000000000000000000000000000000000000c40000000000218100000000000000900707c0020010000000042d00000000072401302a0040780800c002a0f0040001000000c6002600000000000000000200000 s
  try dsimp only
  repeat' first
    | (with_reducible assumption)
    | (split)
    | (with_reducible refine Frame.foldl ?_ ?_)
    | decide
    | (intro u hu x hx)
    | (intro u hu)
    | (refine Frame.bitMem (by with_reducible assumption) (by decide))
    | (refine Frame.bitMemFst (by with_reducible assumption) (by (simp only [List.map_cons, List.map_nil]; decide)))
    | (with_reducible apply Frame.emit)
    | (with_reducible apply Frame.recoverable)
    | (with_reducible refine Frame.fst ?_ (by with_reducible assumption))
    | (with_reducible refine Frame.snd ?_ (by with_reducible assumption))
    | (with_reducible refine Frame.mk_other ?_)
    | decide

theorem execRoutineWatchdog_frame {e : EngId} {s : State} {nx : State} (hex : execRoutineWatchdog e s = .next nx) :
    Frame 0x100000000000000000000000000000000000000000000000000000000000000000000000000000000000000000000000000000000000000000000000c00000000000218000000000000000900707c0020010000000042d00000000072401302a0000780800c002a0f0040001000000c6002600000000000000000200000 s nx := by
  unfold execRoutineWatchdog at hex
  rw [← Host.Outcome.next.inj hex]
  have hk0 := Frame.refl 0x100000000000000000000000000000000000000000000000000000000000000000000000000000000000000000000000000000000000000000000000c00000000000218000000000000000900707c0020010000000042d00000000072401302a0000780800c002a0f0040001000000c6002600000000000000000200000 s
  try dsimp only
  repeat' first
    | (with_reducible assumption)
    | (split)
    | (with_reducible refine Frame.foldl ?_ ?_)
    | decide
    | (intro u hu x hx)
    | (intro u hu)
    | (refine Frame.bitMem (by with_reducible assumption) (by decide))
    | (refine Frame.bitMemFst (by with_reducible assumption) (by (simp only [List.map_cons, List.map_nil]; decide)))
    | (with_reducible apply Frame.emit)
    | (with_reducible apply Frame.engFault)
    | (with_reducible refine Frame.fst ?_ (by with_reducible assumption))
    | (with_reducible refine Frame.snd ?_ (by with_reducible assumption))
    | (with_reducible refine Frame.mk_other ?_)
    | decide

theorem execDispatchOpcode_frame {e : EngId} {s : State} {nx : State} (hex : execDispatchOpcode e s = .next nx) :
    Frame 0x100000000000000000000000000000000000000000000000000000000000000000000000000000000000000000000000000000000000000000000000c40000000000218100000000000000900707c0020010000000042d00000000072401302a0000780800c002a0f0040001000000c6002600000000000000000200000 s nx := by
  unfold execDispatchOpcode at hex
  rw [← Host.Outcome.next.inj hex]
  have hk0 := Frame.refl 0x100000000000000000000000000000000000000000000000000000000000000000000000000000000000000000000000000000000000000000000000c40000000000218100000000000000900707c0020010000000042d00000000072401302a0000780800c002a0f0040001000000c6002600000000000000000200000 s
  try dsimp only
  repeat' first
    | (with_reducible assumption)
    | (split)
    | (with_reducible refine Frame.foldl ?_ ?_)
    | decide
    | (intro u hu x hx)
    | (intro u hu)
    | (refine Frame.bitMem (by with_reducible assumption) (by decide))
    | (refine Frame.bitMemFst (by with_reducible assumption) (by (simp only [List.map_cons, List.map_nil]; decide)))
    | (with_reducible refine Frame.wr ?_ ?_)
    | (with_reducible apply Frame.emit)
    | (with_reducible apply Frame.popDq)
    | (with_reducible apply Frame.engFault)
    | (with_reducible apply Frame.startRoutine)
    | (with_reducible refine Frame.fst ?_ (by with_reducible assumption))
    | (with_reducible refine Frame.snd ?_ (by with_reducible assumption))
    | (with_reducible refine Frame.mk_other ?_)
    | decide

theorem execEngineStart_frame {e : EngId} {s : State} {nx : State} (hex : execEngineStart e s = .next nx) :
    Frame 0x8000000000000000000000000000000000000000000000000000 s nx := by
  unfold execEngineStart at hex
  rw [← Host.Outcome.next.inj hex]
  have hk0 := Frame.refl 0x8000000000000000000000000000000000000000000000000000 s
  try dsimp only
  repeat' first
    | (with_reducible assumption)
    | (split)
    | (with_reducible refine Frame.foldl ?_ ?_)
    | decide
    | (intro u hu x hx)
    | (intro u hu)
    | (refine Frame.bitMem (by with_reducible assumption) (by decide))
    | (refine Frame.bitMemFst (by with_reducible assumption) (by (simp only [List.map_cons, List.map_nil]; decide)))
    | (with_reducible refine Frame.wr ?_ ?_)
    | (with_reducible apply Frame.emit)
    | (with_reducible apply Frame.queueOp)
    | (with_reducible apply Frame.popDq)
    | (with_reducible apply Frame.setEng)
    | (with_reducible refine Frame.fst ?_ (by with_reducible assumption))
    | (with_reducible refine Frame.snd ?_ (by with_reducible assumption))
    | (with_reducible refine Frame.mk_other ?_)
    | decide

theorem execEngineStop_frame {e : EngId} {s : State} {nx : State} (hex : execEngineStop e s = .next nx) :
    Frame 0x8000000000000000000000000000000000000000000000000000 s nx := by
  unfold execEngineStop at hex
  rw [← Host.Outcome.next.inj hex]
  have hk0 := Frame.refl 0x8000000000000000000000000000000000000000000000000000 s
  try dsimp only
  repeat' first
    | (with_reducible assumption)
    | (split)
    | (with_reducible refine Frame.foldl ?_ ?_)
    | decide
    | (intro u hu x hx)
    | (intro u hu)
    | (refine Frame.bitMem (by with_reducible assumption) (by decide))
    | (refine Frame.bitMemFst (by with_reducible assumption) (by (simp only [List.map_cons, List.map_nil]; decide)))
    | (with_reducible refine Frame.wr ?_ ?_)
    | (with_reducible apply Frame.emit)
    | (with_reducible apply Frame.queueOp)
    | (with_reducible apply Frame.popDq)
    | (with_reducible apply Frame.setEng)
    | (with_reducible refine Frame.fst ?_ (by with_reducible assumption))
    | (with_reducible refine Frame.snd ?_ (by with_reducible assumption))
    | (with_reducible refine Frame.mk_other ?_)
    | decide

theorem execEngineLoadDone_frame {e : EngId} {ok : Bool} {s : State} {nx : State} (hex : execEngineLoadDone e ok s = .next nx) :
    Frame 0x60000018000000000000000000000000000000000000000000000000000 s nx := by
  unfold execEngineLoadDone at hex
  rw [← Host.Outcome.next.inj hex]
  have hk0 := Frame.refl 0x60000018000000000000000000000000000000000000000000000000000 s
  try dsimp only
  repeat' first
    | (with_reducible assumption)
    | (split)
    | (with_reducible refine Frame.foldl ?_ ?_)
    | decide
    | (intro u hu x hx)
    | (intro u hu)
    | (refine Frame.bitMem (by with_reducible assumption) (by decide))
    | (refine Frame.bitMemFst (by with_reducible assumption) (by (simp only [List.map_cons, List.map_nil]; decide)))
    | (with_reducible apply Frame.emit)
    | (with_reducible apply Frame.endLoad)
    | (with_reducible refine Frame.fst ?_ (by with_reducible assumption))
    | (with_reducible refine Frame.snd ?_ (by with_reducible assumption))
    | decide

theorem execCsScrub_frame {e : EngId} {word : Fin 4096} {errs : List Upset} {s : State} {nx : State} (hex : execCsScrub e word errs s = .next nx) :
    Frame 0x100000000000000000000000000000000000000000000000000000000000000000000000000000000000000000000000000000000000000000000000c00000000000218000000000000000900707c0020010000000042d00000000072401302a0009780800c002a0f0040001000000c6002600000000000000000200000 s nx := by
  unfold execCsScrub at hex
  rw [← Host.Outcome.next.inj hex]
  have hk0 := Frame.refl 0x100000000000000000000000000000000000000000000000000000000000000000000000000000000000000000000000000000000000000000000000c00000000000218000000000000000900707c0020010000000042d00000000072401302a0009780800c002a0f0040001000000c6002600000000000000000200000 s
  try dsimp only
  repeat' first
    | (with_reducible assumption)
    | (split)
    | (with_reducible refine Frame.foldl ?_ ?_)
    | decide
    | (intro u hu x hx)
    | (intro u hu)
    | (refine Frame.bitMem (by with_reducible assumption) (by decide))
    | (refine Frame.bitMemFst (by with_reducible assumption) (by (simp only [List.map_cons, List.map_nil]; decide)))
    | (with_reducible apply Frame.emit)
    | (with_reducible apply Frame.upset)
    | (with_reducible apply Frame.corrected)
    | (with_reducible apply Frame.csCorrected)
    | (with_reducible apply Frame.logEng)
    | (with_reducible apply Frame.engFault)
    | (with_reducible refine Frame.fst ?_ (by with_reducible assumption))
    | (with_reducible refine Frame.snd ?_ (by with_reducible assumption))
    | (with_reducible refine Frame.mk_other ?_)
    | decide

theorem execSamplerFire_frame {e : EngId} {s : State} {nx : State} (hex : execSamplerFire e s = .next nx) :
    Frame 0x8000000000000000000000000000000000000000000000000000000006000000000000000000000000000000000000000000000000000000000 s nx := by
  unfold execSamplerFire at hex
  rw [← Host.Outcome.next.inj hex]
  have hk0 := Frame.refl 0x8000000000000000000000000000000000000000000000000000000006000000000000000000000000000000000000000000000000000000000 s
  try dsimp only
  repeat' first
    | (with_reducible assumption)
    | (split)
    | (with_reducible refine Frame.foldl ?_ ?_)
    | decide
    | (intro u hu x hx)
    | (intro u hu)
    | (refine Frame.bitMem (by with_reducible assumption) (by decide))
    | (refine Frame.bitMemFst (by with_reducible assumption) (by (simp only [List.map_cons, List.map_nil]; decide)))
    | (with_reducible apply Frame.emit)
    | (with_reducible apply Frame.sample)
    | (with_reducible refine Frame.fst ?_ (by with_reducible assumption))
    | (with_reducible refine Frame.snd ?_ (by with_reducible assumption))
    | decide

theorem execCsWindowRead_frame {port : PortId} {e : EngId} {off : Nat} {errs : List Upset} {s : State} {nx : State} (hex : execCsWindowRead port e off errs s = .next nx) :
    Frame 0x100000000000000000000000000000000000000000000000000000000000000000000000000000000000000000000000000000000000000000000000c40000000000218100000000000000900707c0020010000000042d00000000072401302a005b780800c002a0f0040001000000c600260000000000000f001e00000 s nx := by
  unfold execCsWindowRead at hex
  rw [← Host.Outcome.next.inj hex]
  have hk0 := Frame.refl 0x100000000000000000000000000000000000000000000000000000000000000000000000000000000000000000000000000000000000000000000000c40000000000218100000000000000900707c0020010000000042d00000000072401302a005b780800c002a0f0040001000000c600260000000000000f001e00000 s
  try dsimp only
  repeat' first
    | (with_reducible assumption)
    | (split)
    | (with_reducible refine Frame.foldl ?_ ?_)
    | decide
    | (intro u hu x hx)
    | (intro u hu)
    | (refine Frame.bitMem (by with_reducible assumption) (by decide))
    | (refine Frame.bitMemFst (by with_reducible assumption) (by (simp only [List.map_cons, List.map_nil]; decide)))
    | (with_reducible apply Frame.emit)
    | (with_reducible apply Frame.tickFree)
    | (with_reducible apply Frame.upset)
    | (with_reducible apply Frame.engWindowRead)
    | (with_reducible refine Frame.fst ?_ (by with_reducible assumption))
    | (with_reducible refine Frame.snd ?_ (by with_reducible assumption))
    | decide

theorem execEngineRecoveryDone_frame {e : Fin 48} {pass : Bool} {s : State} {nx : State} (hex : execEngineRecoveryDone e pass s = .next nx) :
    Frame 0x100000000000000000000000000000000000000000000000000000000000000000000000000000000000000000000000000000000000000000000000c0000000000021800000000000000000000000000000000000042d00000000072401302a00000018000000000000000000000000000000000000000000000000000 s nx := by
  unfold execEngineRecoveryDone at hex
  rw [← Host.Outcome.next.inj hex]
  have hk0 := Frame.refl 0x100000000000000000000000000000000000000000000000000000000000000000000000000000000000000000000000000000000000000000000000c0000000000021800000000000000000000000000000000000042d00000000072401302a00000018000000000000000000000000000000000000000000000000000 s
  try dsimp only
  repeat' first
    | (with_reducible assumption)
    | (split)
    | (with_reducible refine Frame.foldl ?_ ?_)
    | decide
    | (intro u hu x hx)
    | (intro u hu)
    | (refine Frame.bitMem (by with_reducible assumption) (by decide))
    | (refine Frame.bitMemFst (by with_reducible assumption) (by (simp only [List.map_cons, List.map_nil]; decide)))
    | (with_reducible refine Frame.wr ?_ ?_)
    | (with_reducible apply Frame.emit)
    | (with_reducible apply Frame.setEng)
    | (with_reducible apply Frame.answerLater)
    | (with_reducible apply Frame.pumpAll)
    | (with_reducible refine Frame.fst ?_ (by with_reducible assumption))
    | (with_reducible refine Frame.snd ?_ (by with_reducible assumption))
    | (with_reducible refine Frame.mk_other ?_)
    | decide

end Sys2Proof.Machine
end

