-- ==== Sys2Proof/Laws/DoesPower.lean ====
section
/-! SUPPORT. For each command of Power, a mask of the registers it may write, and of the memories (Laws/Frame.lean). -/

namespace Sys2Proof.Machine

set_option Elab.async false
set_option linter.all false

theorem execPwrRequest_frame {src : Src} {s : State} {nx : State} (hex : execPwrRequest src s = .next nx) :
    Frame 0x100000000000000000000000000000000000000000000000000000000000000000000000000000000000000000000000000000000000000000000000c00000000000218006000a5f07e01800000000020000000000042d00000000072401302a0000000000c002a0f000000000000000000000000000200000000000000 s nx := by
  unfold execPwrRequest at hex
  rw [← Host.Outcome.next.inj hex]
  have hk0 := Frame.refl 0x100000000000000000000000000000000000000000000000000000000000000000000000000000000000000000000000000000000000000000000000c00000000000218006000a5f07e01800000000020000000000042d00000000072401302a0000000000c002a0f000000000000000000000000000200000000000000 s
  try dsimp only
  repeat' first
    | (with_reducible assumption)
    | (split)
    | (with_reducible refine Frame.foldl ?_ ?_)
    | (intro hu)
    | decide
    | (intro u hu x hx)
    | (intro u hu)
    | (refine Frame.bitMem (by with_reducible assumption) (by decide))
    | (refine Frame.bitMemFst (by with_reducible assumption) (by (simp only [List.map_cons, List.map_nil]; decide)))
    | (with_reducible apply Frame.emit)
    | (with_reducible apply Frame.calvan)
    | (with_reducible apply Frame.atOnce)
    | (with_reducible apply Frame.pwrRequest)
    | (with_reducible refine Frame.fst ?_ (by with_reducible assumption))
    | (with_reducible refine Frame.snd ?_ (by with_reducible assumption))
    | decide

theorem execPwrStatus_frame {src : Src} {s : State} {nx : State} (hex : execPwrStatus src s = .next nx) :
    Frame 0x100000000000000000000000000000000000000000000000000000000000000000000000000000000000000000000000000000000000000000000000c0000000000021800000000000000000000000000000000000042d00000000072401302a00000000000000000000000000000000000000000000000000000000000 s nx := by
  unfold execPwrStatus at hex
  rw [← Host.Outcome.next.inj hex]
  have hk0 := Frame.refl 0x100000000000000000000000000000000000000000000000000000000000000000000000000000000000000000000000000000000000000000000000c0000000000021800000000000000000000000000000000000042d00000000072401302a00000000000000000000000000000000000000000000000000000000000 s
  try dsimp only
  repeat' first
    | (with_reducible assumption)
    | (split)
    | (with_reducible refine Frame.foldl ?_ ?_)
    | (intro hu)
    | decide
    | (intro u hu x hx)
    | (intro u hu)
    | (refine Frame.bitMem (by with_reducible assumption) (by decide))
    | (refine Frame.bitMemFst (by with_reducible assumption) (by (simp only [List.map_cons, List.map_nil]; decide)))
    | (with_reducible apply Frame.emit)
    | (with_reducible apply Frame.calvan)
    | (with_reducible apply Frame.atOnce)
    | (with_reducible apply Frame.pwrStatus)
    | (with_reducible refine Frame.fst ?_ (by with_reducible assumption))
    | (with_reducible refine Frame.snd ?_ (by with_reducible assumption))
    | decide

theorem execIdleTimer_frame {d : DomId} {s : State} {nx : State} (hex : execIdleTimer d s = .next nx) :
    Frame 0xc0000000000020000400085f0000000000000002000000000000000000000007200000000000000000c002a0f000000000000000000000000000200000000000000 s nx := by
  unfold execIdleTimer at hex
  rw [← Host.Outcome.next.inj hex]
  have hk0 := Frame.refl 0xc0000000000020000400085f0000000000000002000000000000000000000007200000000000000000c002a0f000000000000000000000000000200000000000000 s
  try dsimp only
  repeat' first
    | (with_reducible assumption)
    | (split)
    | (with_reducible refine Frame.foldl ?_ ?_)
    | decide
    | (intro u hu x hx)
    | (intro u hu)
    | (refine Frame.bitMem (by with_reducible assumption) (by decide))
    | (refine Frame.bitMemFst (by with_reducible assumption) (by (simp only [List.map_cons, List.map_nil]; decide)))
    | (with_reducible apply Frame.emit)
    | (with_reducible apply Frame.countRefused)
    | (with_reducible apply Frame.requestFall)
    | (with_reducible refine Frame.fst ?_ (by with_reducible assumption))
    | (with_reducible refine Frame.snd ?_ (by with_reducible assumption))
    | decide

theorem execScheduledRequest_frame {d : DomId} {s : State} {nx : State} (hex : execScheduledRequest d s = .next nx) :
    Frame 0xc00000000000200006000a5f07e0180000000002000000000000000000000007200000000000000000c002a0f000000000000000000000000000200000000000000 s nx := by
  unfold execScheduledRequest at hex
  rw [← Host.Outcome.next.inj hex]
  have hk0 := Frame.refl 0xc00000000000200006000a5f07e0180000000002000000000000000000000007200000000000000000c002a0f000000000000000000000000000200000000000000 s
  try dsimp only
  repeat' first
    | (with_reducible assumption)
    | (split)
    | (with_reducible refine Frame.foldl ?_ ?_)
    | decide
    | (intro u hu x hx)
    | (intro u hu)
    | (refine Frame.bitMem (by with_reducible assumption) (by decide))
    | (refine Frame.bitMemFst (by with_reducible assumption) (by (simp only [List.map_cons, List.map_nil]; decide)))
    | (with_reducible apply Frame.emit)
    | (with_reducible apply Frame.unsched)
    | (with_reducible apply Frame.applySched)
    | (with_reducible refine Frame.fst ?_ (by with_reducible assumption))
    | (with_reducible refine Frame.snd ?_ (by with_reducible assumption))
    | (with_reducible refine Frame.mk_other ?_)
    | decide

theorem execPwrWake_frame {port : PortId} {v : BitVec 32} {s : State} {nx : State} (hex : execPwrWake port v s = .next nx) :
    Frame 0xc0000000000020000200025f07e0080000000000000000000000000000000007200000000000000000000000000000000000000000000000000000000f001c00000 s nx := by
  unfold execPwrWake at hex
  rw [← Host.Outcome.next.inj hex]
  have hk0 := Frame.refl 0xc0000000000020000200025f07e0080000000000000000000000000000000007200000000000000000000000000000000000000000000000000000000f001c00000 s
  try dsimp only
  repeat' first
    | (with_reducible assumption)
    | (split)
    | (with_reducible refine Frame.foldl ?_ ?_)
    | decide
    | (intro u hu x hx)
    | (intro u hu)
    | (refine Frame.bitMem (by with_reducible assumption) (by decide))
    | (refine Frame.bitMemFst (by with_reducible assumption) (by (simp only [List.map_cons, List.map_nil]; decide)))
    | (with_reducible apply Frame.emit)
    | (with_reducible apply Frame.winWrite)
    | (with_reducible apply Frame.pwrWake)
    | (with_reducible refine Frame.fst ?_ (by with_reducible assumption))
    | (with_reducible refine Frame.snd ?_ (by with_reducible assumption))
    | decide

theorem execLightAccepted_frame {t : TreeId} {s : State} {nx : State} (hex : execLightAccepted t s = .next nx) :
    Frame 0xc0000000000020000200025f07e00800000000000000000000000000000000072000000000000000000000000000000000000000000000000000000000000000000 s nx := by
  unfold execLightAccepted at hex
  rw [← Host.Outcome.next.inj hex]
  have hk0 := Frame.refl 0xc0000000000020000200025f07e00800000000000000000000000000000000072000000000000000000000000000000000000000000000000000000000000000000 s
  try dsimp only
  repeat' first
    | (with_reducible assumption)
    | (split)
    | (with_reducible refine Frame.foldl ?_ ?_)
    | decide
    | (intro u hu x hx)
    | (intro u hu)
    | (refine Frame.bitMem (by with_reducible assumption) (by decide))
    | (refine Frame.bitMemFst (by with_reducible assumption) (by (simp only [List.map_cons, List.map_nil]; decide)))
    | (with_reducible apply Frame.emit)
    | (with_reducible apply Frame.sdShows)
    | (with_reducible apply Frame.wakeTree)
    | (with_reducible refine Frame.fst ?_ (by with_reducible assumption))
    | (with_reducible refine Frame.snd ?_ (by with_reducible assumption))
    | decide

theorem execSentinelRearm_frame {t : TreeId} {s : State} {nx : State} (hex : execSentinelRearm t s = .next nx) :
    Frame 0x0 s nx := by
  unfold execSentinelRearm at hex
  rw [← Host.Outcome.next.inj hex]
  have hk0 := Frame.refl 0x0 s
  try dsimp only
  repeat' first
    | (with_reducible assumption)
    | (split)
    | (with_reducible refine Frame.foldl ?_ ?_)
    | decide
    | (intro u hu x hx)
    | (intro u hu)
    | (refine Frame.bitMem (by with_reducible assumption) (by decide))
    | (refine Frame.bitMemFst (by with_reducible assumption) (by (simp only [List.map_cons, List.map_nil]; decide)))
    | (with_reducible apply Frame.emit)
    | (with_reducible apply Frame.sdShows)
    | (with_reducible apply Frame.putSents)
    | (with_reducible refine Frame.fst ?_ (by with_reducible assumption))
    | (with_reducible refine Frame.snd ?_ (by with_reducible assumption))
    | (with_reducible refine Frame.mk_other ?_)
    | decide

theorem execWakeDelimiterMatch_frame {t : TreeId} {rx : BitVec 64} {s : State} {nx : State} (hex : execWakeDelimiterMatch t rx s = .next nx) :
    Frame 0xc0000000000020000200025f07e00800000000000000000000000000000000072000000000000000000000000000000000000000000000000000000000000000000 s nx := by
  unfold execWakeDelimiterMatch at hex
  rw [← Host.Outcome.next.inj hex]
  have hk0 := Frame.refl 0xc0000000000020000200025f07e00800000000000000000000000000000000072000000000000000000000000000000000000000000000000000000000000000000 s
  try dsimp only
  repeat' first
    | (with_reducible assumption)
    | (split)
    | (with_reducible refine Frame.foldl ?_ ?_)
    | decide
    | (intro u hu x hx)
    | (intro u hu)
    | (refine Frame.bitMem (by with_reducible assumption) (by decide))
    | (refine Frame.bitMemFst (by with_reducible assumption) (by (simp only [List.map_cons, List.map_nil]; decide)))
    | (with_reducible apply Frame.emit)
    | (with_reducible apply Frame.wakeTree)
    | (with_reducible refine Frame.fst ?_ (by with_reducible assumption))
    | (with_reducible refine Frame.snd ?_ (by with_reducible assumption))
    | decide

theorem execFabricActivityWake_frame {s : State} {nx : State} (hex : execFabricActivityWake s = .next nx) :
    Frame 0xc0000000000020000200025f07e00800000000000000000000000000000000072000000000000000000000000000000000000000000000000000000000000000000 s nx := by
  unfold execFabricActivityWake at hex
  rw [← Host.Outcome.next.inj hex]
  have hk0 := Frame.refl 0xc0000000000020000200025f07e00800000000000000000000000000000000072000000000000000000000000000000000000000000000000000000000000000000 s
  try dsimp only
  repeat' first
    | (with_reducible assumption)
    | (split)
    | (with_reducible refine Frame.foldl ?_ ?_)
    | decide
    | (intro u hu x hx)
    | (intro u hu)
    | (refine Frame.bitMem (by with_reducible assumption) (by decide))
    | (refine Frame.bitMemFst (by with_reducible assumption) (by (simp only [List.map_cons, List.map_nil]; decide)))
    | (with_reducible apply Frame.emit)
    | (with_reducible apply Frame.wake)
    | (with_reducible refine Frame.fst ?_ (by with_reducible assumption))
    | (with_reducible refine Frame.snd ?_ (by with_reducible assumption))
    | decide

theorem execStartupPowerRequest_frame {s : State} {nx : State} (hex : execStartupPowerRequest s = .next nx) :
    Frame 0xc0000000000020000200025f07e00800000000000000000000000000000000072000000000000000000000000000000000000000000000000000000000000000000 s nx := by
  unfold execStartupPowerRequest at hex
  rw [← Host.Outcome.next.inj hex]
  have hk0 := Frame.refl 0xc0000000000020000200025f07e00800000000000000000000000000000000072000000000000000000000000000000000000000000000000000000000000000000 s
  try dsimp only
  repeat' first
    | (with_reducible assumption)
    | (split)
    | (with_reducible refine Frame.foldl ?_ ?_)
    | decide
    | (intro u hu x hx)
    | (intro u hu)
    | (refine Frame.bitMem (by with_reducible assumption) (by decide))
    | (refine Frame.bitMemFst (by with_reducible assumption) (by (simp only [List.map_cons, List.map_nil]; decide)))
    | (with_reducible apply Frame.emit)
    | (with_reducible apply Frame.wake)
    | (with_reducible refine Frame.fst ?_ (by with_reducible assumption))
    | (with_reducible refine Frame.snd ?_ (by with_reducible assumption))
    | decide

theorem execBrownOutWarning_frame {mv : Nat} {s : State} {nx : State} (hex : execBrownOutWarning mv s = .next nx) :
    Frame 0x100000000000000000000000000000000000000000000000000000000000000000000000000000000000000000000000000000000000000000000000c00000000000218000000000700040900707c0020010000000042d00000000072401302a000000000000000000040001000000c6002600000000000000000200000 s nx := by
  unfold execBrownOutWarning at hex
  rw [← Host.Outcome.next.inj hex]
  have hk0 := Frame.refl 0x100000000000000000000000000000000000000000000000000000000000000000000000000000000000000000000000000000000000000000000000c00000000000218000000000700040900707c0020010000000042d00000000072401302a000000000000000000040001000000c6002600000000000000000200000 s
  try dsimp only
  repeat' first
    | (with_reducible assumption)
    | (split)
    | (with_reducible refine Frame.foldl ?_ ?_)
    | decide
    | (intro u hu x hx)
    | (intro u hu)
    | (refine Frame.bitMem (by with_reducible assumption) (by decide))
    | (refine Frame.bitMemFst (by with_reducible assumption) (by (simp only [List.map_cons, List.map_nil]; decide)))
    | (with_reducible refine Frame.wr ?_ ?_)
    | (with_reducible apply Frame.emit)
    | (with_reducible apply Frame.setMv)
    | (with_reducible apply Frame.faultTree)
    | (with_reducible apply Frame.fire)
    | (with_reducible refine Frame.fst ?_ (by with_reducible assumption))
    | (with_reducible refine Frame.snd ?_ (by with_reducible assumption))
    | decide

theorem execBrownOutClear_frame {mv : Nat} {s : State} {nx : State} (hex : execBrownOutClear mv s = .next nx) :
    Frame 0xc0000000000020000000000070008000000000000000000000000000000000072000000000000000000000000000000000000000000000000000000000000000000 s nx := by
  unfold execBrownOutClear at hex
  rw [← Host.Outcome.next.inj hex]
  have hk0 := Frame.refl 0xc0000000000020000000000070008000000000000000000000000000000000072000000000000000000000000000000000000000000000000000000000000000000 s
  try dsimp only
  repeat' first
    | (with_reducible assumption)
    | (split)
    | (with_reducible refine Frame.foldl ?_ ?_)
    | decide
    | (intro u hu x hx)
    | (intro u hu)
    | (refine Frame.bitMem (by with_reducible assumption) (by decide))
    | (refine Frame.bitMemFst (by with_reducible assumption) (by (simp only [List.map_cons, List.map_nil]; decide)))
    | (with_reducible refine Frame.wr ?_ ?_)
    | (with_reducible apply Frame.emit)
    | (with_reducible apply Frame.setMv)
    | (with_reducible apply Frame.pwrEvent)
    | (with_reducible refine Frame.fst ?_ (by with_reducible assumption))
    | (with_reducible refine Frame.snd ?_ (by with_reducible assumption))
    | decide

theorem execBbOver_frame {mv : Nat} {s : State} {nx : State} (hex : execBbOver mv s = .next nx) :
    Frame 0xc0000000000020000000000050010000000000000000000000000000000000072000000000000000000000000000000000000000000000000000000000000000000 s nx := by
  unfold execBbOver at hex
  rw [← Host.Outcome.next.inj hex]
  have hk0 := Frame.refl 0xc0000000000020000000000050010000000000000000000000000000000000072000000000000000000000000000000000000000000000000000000000000000000 s
  try dsimp only
  repeat' first
    | (with_reducible assumption)
    | (split)
    | (with_reducible refine Frame.foldl ?_ ?_)
    | decide
    | (intro u hu x hx)
    | (intro u hu)
    | (refine Frame.bitMem (by with_reducible assumption) (by decide))
    | (refine Frame.bitMemFst (by with_reducible assumption) (by (simp only [List.map_cons, List.map_nil]; decide)))
    | (with_reducible apply Frame.emit)
    | (with_reducible apply Frame.setMv)
    | (with_reducible apply Frame.pwrEvent)
    | (with_reducible refine Frame.fst ?_ (by with_reducible assumption))
    | (with_reducible refine Frame.snd ?_ (by with_reducible assumption))
    | decide

theorem execPolRailReady_frame {k : Fin 16} {s : State} {nx : State} (hex : execPolRailReady k s = .next nx) :
    Frame 0x200000000000000000000000000000000000000000000000000000000000000000000000000000000000000000000000000000000000000000 s nx := by
  unfold execPolRailReady at hex
  rw [← Host.Outcome.next.inj hex]
  have hk0 := Frame.refl 0x200000000000000000000000000000000000000000000000000000000000000000000000000000000000000000000000000000000000000000 s
  try dsimp only
  repeat' first
    | (with_reducible assumption)
    | (split)
    | (with_reducible refine Frame.foldl ?_ ?_)
    | decide
    | (intro u hu x hx)
    | (intro u hu)
    | (refine Frame.bitMem (by with_reducible assumption) (by decide))
    | (refine Frame.bitMemFst (by with_reducible assumption) (by (simp only [List.map_cons, List.map_nil]; decide)))
    | (with_reducible refine Frame.wr ?_ ?_)
    | (with_reducible apply Frame.emit)
    | (with_reducible refine Frame.fst ?_ (by with_reducible assumption))
    | (with_reducible refine Frame.snd ?_ (by with_reducible assumption))
    | decide

theorem execPolRailTimeout_frame {d : DomId} {s : State} {nx : State} (hex : execPolRailTimeout d s = .next nx) :
    Frame 0xc00000000000200007000a7f00021c0000000002000000000000000000000007200000000000000000c002a0f000000000000000000000000000200000000000000 s nx := by
  unfold execPolRailTimeout at hex
  rw [← Host.Outcome.next.inj hex]
  have hk0 := Frame.refl 0xc00000000000200007000a7f00021c0000000002000000000000000000000007200000000000000000c002a0f000000000000000000000000000200000000000000 s
  try dsimp only
  repeat' first
    | (with_reducible assumption)
    | (split)
    | (with_reducible refine Frame.foldl ?_ ?_)
    | decide
    | (intro u hu x hx)
    | (intro u hu)
    | (refine Frame.bitMem (by with_reducible assumption) (by decide))
    | (refine Frame.bitMemFst (by with_reducible assumption) (by (simp only [List.map_cons, List.map_nil]; decide)))
    | (with_reducible refine Frame.wr ?_ ?_)
    | (with_reducible apply Frame.emit)
    | (with_reducible apply Frame.pwrEvent)
    | (with_reducible apply Frame.settled)
    | (with_reducible apply Frame.railsOff)
    | (with_reducible apply Frame.applyPending)
    | (with_reducible apply Frame.advanceRises)
    | (with_reducible refine Frame.fst ?_ (by with_reducible assumption))
    | (with_reducible refine Frame.snd ?_ (by with_reducible assumption))
    | decide

theorem execPolRailWrite_frame {port : PortId} {k : Fin 16} {v : BitVec 32} {s : State} {nx : State} (hex : execPolRailWrite port k v s = .next nx) :
    Frame 0x3f000000000000000000000000000000000000000000000000000000000000000000000000000000000000000000000000000000f001c00000 s nx := by
  unfold execPolRailWrite at hex
  rw [← Host.Outcome.next.inj hex]
  have hk0 := Frame.refl 0x3f000000000000000000000000000000000000000000000000000000000000000000000000000000000000000000000000000000f001c00000 s
  try dsimp only
  repeat' first
    | (with_reducible assumption)
    | (split)
    | (with_reducible refine Frame.foldl ?_ ?_)
    | decide
    | (intro u hu x hx)
    | (intro u hu)
    | (refine Frame.bitMem (by with_reducible assumption) (by decide))
    | (refine Frame.bitMemFst (by with_reducible assumption) (by (simp only [List.map_cons, List.map_nil]; decide)))
    | (with_reducible apply Frame.emit)
    | (with_reducible apply Frame.winWrite)
    | (with_reducible apply Frame.writePol)
    | (with_reducible refine Frame.fst ?_ (by with_reducible assumption))
    | (with_reducible refine Frame.snd ?_ (by with_reducible assumption))
    | decide

end Sys2Proof.Machine
end

