-- ==== Sys2Proof/Laws/DoesProtection.lean ====
section
/-! SUPPORT. For each command of Protection, a mask of the registers it may write, and of the memories (Laws/Frame.lean). -/

namespace Sys2Proof.Machine

set_option Elab.async false
set_option linter.all false

theorem execProtPair_frame {src : Src} {s : State} {nx : State} (hex : execProtPair src s = .next nx) :
    Frame 0x100000000000000000000000000000000000000000000000000000000000000000000000000000000000000000000000000000000000000000000000c00000000000218000000073000004977f47c0020010000000042d80000000072401302a000000000010000000140001000040e2402600000000000000000200000 s nx := by
  unfold execProtPair at hex
  rw [← Host.Outcome.next.inj hex]
  have hk0 := Frame.refl 0x100000000000000000000000000000000000000000000000000000000000000000000000000000000000000000000000000000000000000000000000c00000000000218000000073000004977f47c0020010000000042d80000000072401302a000000000010000000140001000040e2402600000000000000000200000 s
  try dsimp only
  repeat' first
    | (with_reducible assumption)
    | (split)
    | (with_reducible refine Frame.foldl ?_ ?_)
    | (intro hu)
    | decide
    | (intro u hu x hx)
    | (intro u hu)
    | (refine Frame.bitMem (by with_reducible assumption) (by decide))
    | (refine Frame.bitMemFst (by with_reducible assumption) (by (simp only [List.map_cons, List.map_nil]; decide)))
    | (with_reducible apply Frame.emit)
    | (with_reducible apply Frame.calvanKey)
    | (with_reducible apply Frame.protPair)
    | (with_reducible refine Frame.fst ?_ (by with_reducible assumption))
    | (with_reducible refine Frame.snd ?_ (by with_reducible assumption))
    | decide

theorem execHandshakeReceived_frame {t : TreeId} {h : Handshake} {s : State} {nx : State} (hex : execHandshakeReceived t h s = .next nx) :
    Frame 0xc0000000000020000000000000000000000000020010000000000000000000072000000000000000000000000000000000000000000000000000000000000000000 s nx := by
  unfold execHandshakeReceived at hex
  rw [← Host.Outcome.next.inj hex]
  have hk0 := Frame.refl 0xc0000000000020000000000000000000000000020010000000000000000000072000000000000000000000000000000000000000000000000000000000000000000 s
  try dsimp only
  repeat' first
    | (with_reducible assumption)
    | (split)
    | (with_reducible refine Frame.foldl ?_ ?_)
    | decide
    | (intro u hu x hx)
    | (intro u hu)
    | (refine Frame.bitMem (by with_reducible assumption) (by decide))
    | (refine Frame.bitMemFst (by with_reducible assumption) (by (simp only [List.map_cons, List.map_nil]; decide)))
    | (with_reducible apply Frame.emit)
    | (with_reducible apply Frame.setProt)
    | (with_reducible apply Frame.sendTo)
    | (with_reducible refine Frame.fst ?_ (by with_reducible assumption))
    | (with_reducible refine Frame.snd ?_ (by with_reducible assumption))
    | (with_reducible refine Frame.mk_other ?_)
    | decide

theorem execProtHandshakeDone_frame {t : TreeId} {timedOut : Bool} {s : State} {nx : State} (hex : execProtHandshakeDone t timedOut s = .next nx) :
    Frame 0x100000000000000000000000000000000000000000000000000000000000000000000000000000000000000000000000000000000000000000000000c00000000000218000000000000002916f07c0020010000000042d80000000072401302a000000080000000000000000000000c2600200000000000000000200000 s nx := by
  unfold execProtHandshakeDone at hex
  rw [← Host.Outcome.next.inj hex]
  have hk0 := Frame.refl 0x100000000000000000000000000000000000000000000000000000000000000000000000000000000000000000000000000000000000000000000000c00000000000218000000000000002916f07c0020010000000042d80000000072401302a000000080000000000000000000000c2600200000000000000000200000 s
  try dsimp only
  repeat' first
    | (with_reducible assumption)
    | (split)
    | (with_reducible refine Frame.foldl ?_ ?_)
    | decide
    | (intro u hu x hx)
    | (intro u hu)
    | (refine Frame.bitMem (by with_reducible assumption) (by decide))
    | (refine Frame.bitMemFst (by with_reducible assumption) (by (simp only [List.map_cons, List.map_nil]; decide)))
    | (with_reducible apply Frame.emit)
    | (with_reducible apply Frame.setProt)
    | (with_reducible apply Frame.formPair)
    | (with_reducible apply Frame.answerKey)
    | (with_reducible refine Frame.fst ?_ (by with_reducible assumption))
    | (with_reducible refine Frame.snd ?_ (by with_reducible assumption))
    | (with_reducible refine Frame.mk_other ?_)
    | decide

theorem execLeaveReceived_frame {t : TreeId} {_f : BitVec 64} {dissolve : Bool} {s : State} {nx : State} (hex : execLeaveReceived t _f dissolve s = .next nx) :
    Frame 0x100000000000000000000000000000000000000000000000000000000000000000000000000000000000000000000000000000000000000000000000c00000000000218000000073000004977f47c0020010000000042d00000000072401302a000000000010000000140001000040e2402600000000000000000200000 s nx := by
  unfold execLeaveReceived at hex
  rw [← Host.Outcome.next.inj hex]
  have hk0 := Frame.refl 0x100000000000000000000000000000000000000000000000000000000000000000000000000000000000000000000000000000000000000000000000c00000000000218000000073000004977f47c0020010000000042d00000000072401302a000000000010000000140001000040e2402600000000000000000200000 s
  try dsimp only
  repeat' first
    | (with_reducible assumption)
    | (split)
    | (with_reducible refine Frame.foldl ?_ ?_)
    | decide
    | (intro u hu x hx)
    | (intro u hu)
    | (refine Frame.bitMem (by with_reducible assumption) (by decide))
    | (refine Frame.bitMemFst (by with_reducible assumption) (by (simp only [List.map_cons, List.map_nil]; decide)))
    | (with_reducible apply Frame.emit)
    | (with_reducible apply Frame.dissolve)
    | (with_reducible apply Frame.switchAnswer)
    | (with_reducible apply Frame.protSet)
    | (with_reducible refine Frame.fst ?_ (by with_reducible assumption))
    | (with_reducible refine Frame.snd ?_ (by with_reducible assumption))
    | decide

theorem execDigestReceived_frame {t : TreeId} {f : BitVec 64} {body : List Byte} {s : State} {nx : State} (hex : execDigestReceived t f body s = .next nx) :
    Frame 0xc00000000000200000000000000000910707c0020010000000000000000000072000000000000000000000000000000000000000000000000000000000000000000 s nx := by
  unfold execDigestReceived at hex
  rw [← Host.Outcome.next.inj hex]
  have hk0 := Frame.refl 0xc00000000000200000000000000000910707c0020010000000000000000000072000000000000000000000000000000000000000000000000000000000000000000 s
  try dsimp only
  repeat' first
    | (with_reducible assumption)
    | (split)
    | (with_reducible refine Frame.foldl ?_ ?_)
    | decide
    | (intro u hu x hx)
    | (intro u hu)
    | (refine Frame.bitMem (by with_reducible assumption) (by decide))
    | (refine Frame.bitMemFst (by with_reducible assumption) (by (simp only [List.map_cons, List.map_nil]; decide)))
    | (with_reducible apply Frame.emit)
    | (with_reducible apply Frame.setProt)
    | (with_reducible apply Frame.enterSyncing)
    | (with_reducible apply Frame.setTreeU)
    | (with_reducible refine Frame.fst ?_ (by with_reducible assumption))
    | (with_reducible refine Frame.snd ?_ (by with_reducible assumption))
    | (with_reducible refine Frame.mk_other ?_)
    | decide

theorem execStatusReceived_frame {t : TreeId} {f : BitVec 64} {body : List Byte} {s : State} {nx : State} (hex : execStatusReceived t f body s = .next nx) :
    Frame 0xc00000000000200000000000000000940717c00200100000000000000000000720000000000000000000000000000000000000c2000200000000000000000000000 s nx := by
  unfold execStatusReceived at hex
  rw [← Host.Outcome.next.inj hex]
  have hk0 := Frame.refl 0xc00000000000200000000000000000940717c00200100000000000000000000720000000000000000000000000000000000000c2000200000000000000000000000 s
  try dsimp only
  repeat' first
    | (with_reducible assumption)
    | (split)
    | (with_reducible refine Frame.foldl ?_ ?_)
    | decide
    | (intro u hu x hx)
    | (intro u hu)
    | (refine Frame.bitMem (by with_reducible assumption) (by decide))
    | (refine Frame.bitMemFst (by with_reducible assumption) (by (simp only [List.map_cons, List.map_nil]; decide)))
    | (with_reducible apply Frame.emit)
    | (with_reducible apply Frame.noteStatus)
    | (with_reducible apply Frame.statusMoves)
    | (with_reducible refine Frame.fst ?_ (by with_reducible assumption))
    | (with_reducible refine Frame.snd ?_ (by with_reducible assumption))
    | decide

theorem execDeltaReceived_frame {t : TreeId} {f : BitVec 64} {body : List Byte} {gap : Bool} {s : State} {nx : State} (hex : execDeltaReceived t f body gap s = .next nx) :
    Frame 0xc00000000000200000000000000002910707c002001000000000000000000007200000000000000080301000000000000000000000e000000000000000000000000 s nx := by
  unfold execDeltaReceived at hex
  rw [← Host.Outcome.next.inj hex]
  have hk0 := Frame.refl 0xc00000000000200000000000000002910707c002001000000000000000000007200000000000000080301000000000000000000000e000000000000000000000000 s
  try dsimp only
  repeat' first
    | (with_reducible assumption)
    | (split)
    | (with_reducible refine Frame.foldl ?_ ?_)
    | decide
    | (intro u hu x hx)
    | (intro u hu)
    | (refine Frame.bitMem (by with_reducible assumption) (by decide))
    | (refine Frame.bitMemFst (by with_reducible assumption) (by (simp only [List.map_cons, List.map_nil]; decide)))
    | (with_reducible apply Frame.emit)
    | (with_reducible apply Frame.mirrorError)
    | (with_reducible apply Frame.applyRecords)
    | (with_reducible refine Frame.fst ?_ (by with_reducible assumption))
    | (with_reducible refine Frame.snd ?_ (by with_reducible assumption))
    | decide

theorem execCopyReceived_frame {t : TreeId} {f : BitVec 64} {body : List Byte} {gap : Bool} {s : State} {nx : State} (hex : execCopyReceived t f body gap s = .next nx) :
    Frame 0xc00000000000200000000000000002910707c002001000000000000000000007200000000000000080301000000000000000000000e000000000000000000000000 s nx := by
  unfold execCopyReceived at hex
  rw [← Host.Outcome.next.inj hex]
  have hk0 := Frame.refl 0xc00000000000200000000000000002910707c002001000000000000000000007200000000000000080301000000000000000000000e000000000000000000000000 s
  try dsimp only
  repeat' first
    | (with_reducible assumption)
    | (split)
    | (with_reducible refine Frame.foldl ?_ ?_)
    | decide
    | (intro u hu x hx)
    | (intro u hu)
    | (refine Frame.bitMem (by with_reducible assumption) (by decide))
    | (refine Frame.bitMemFst (by with_reducible assumption) (by (simp only [List.map_cons, List.map_nil]; decide)))
    | (with_reducible apply Frame.emit)
    | (with_reducible apply Frame.mirrorError)
    | (with_reducible apply Frame.copyDrop)
    | (with_reducible apply Frame.applyRecords)
    | (with_reducible refine Frame.fst ?_ (by with_reducible assumption))
    | (with_reducible refine Frame.snd ?_ (by with_reducible assumption))
    | decide

theorem execTableSyncReceived_frame {pair : BitVec 16} {payload : List Byte} {gap : Bool} {s : State} {nx : State} (hex : execTableSyncReceived pair payload gap s = .next nx) :
    Frame 0xc00000000000218000000000000002910707c0020010000000000000000000072000000000000000000000000000000000000000000000000000000000000000000 s nx := by
  unfold execTableSyncReceived at hex
  rw [← Host.Outcome.next.inj hex]
  have hk0 := Frame.refl 0xc00000000000218000000000000002910707c0020010000000000000000000072000000000000000000000000000000000000000000000000000000000000000000 s
  try dsimp only
  repeat' first
    | (with_reducible assumption)
    | (split)
    | (with_reducible refine Frame.foldl ?_ ?_)
    | decide
    | (intro u hu x hx)
    | (intro u hu)
    | (refine Frame.bitMem (by with_reducible assumption) (by decide))
    | (refine Frame.bitMemFst (by with_reducible assumption) (by (simp only [List.map_cons, List.map_nil]; decide)))
    | (with_reducible apply Frame.emit)
    | (with_reducible apply Frame.tableSync)
    | (with_reducible refine Frame.fst ?_ (by with_reducible assumption))
    | (with_reducible refine Frame.snd ?_ (by with_reducible assumption))
    | (with_reducible refine Frame.mk_other ?_)
    | decide

theorem execQuenchFromPartner_frame {t : TreeId} {body : List Byte} {s : State} {nx : State} (hex : execQuenchFromPartner t body s = .next nx) :
    Frame 0x100000000000000000000000000000000000000000000000000000000000000000000000000000000000000000000000000000000000000000000000c0000000000021800000007300000400000000020010000000042d00000000072401302a00000000000000000000000100000000002000000000000000000000000 s nx := by
  unfold execQuenchFromPartner at hex
  rw [← Host.Outcome.next.inj hex]
  have hk0 := Frame.refl 0x100000000000000000000000000000000000000000000000000000000000000000000000000000000000000000000000000000000000000000000000c0000000000021800000007300000400000000020010000000042d00000000072401302a00000000000000000000000100000000002000000000000000000000000 s
  try dsimp only
  repeat' first
    | (with_reducible assumption)
    | (split)
    | (with_reducible refine Frame.foldl ?_ ?_)
    | decide
    | (intro u hu x hx)
    | (intro u hu)
    | (refine Frame.bitMem (by with_reducible assumption) (by decide))
    | (refine Frame.bitMemFst (by with_reducible assumption) (by (simp only [List.map_cons, List.map_nil]; decide)))
    | (with_reducible apply Frame.emit)
    | (with_reducible apply Frame.quench)
    | (with_reducible apply Frame.setProt)
    | (with_reducible apply Frame.answerLater)
    | (with_reducible apply Frame.applyQuench)
    | (with_reducible apply Frame.protMsg)
    | (with_reducible refine Frame.fst ?_ (by with_reducible assumption))
    | (with_reducible refine Frame.snd ?_ (by with_reducible assumption))
    | (with_reducible refine Frame.mk_other ?_)
    | decide

theorem execLeaseAnswerReceived_frame {t : TreeId} {m : LeaseAns} {s : State} {nx : State} (hex : execLeaseAnswerReceived t m s = .next nx) :
    Frame 0xc00000000000200000000000000001901707c0020010000000000000000000072000000000000000000000000000000000000000000000000000000000000000000 s nx := by
  unfold execLeaseAnswerReceived at hex
  rw [← Host.Outcome.next.inj hex]
  have hk0 := Frame.refl 0xc00000000000200000000000000001901707c0020010000000000000000000072000000000000000000000000000000000000000000000000000000000000000000 s
  try dsimp only
  repeat' first
    | (with_reducible assumption)
    | (split)
    | (with_reducible refine Frame.foldl ?_ ?_)
    | decide
    | (intro u hu x hx)
    | (intro u hu)
    | (refine Frame.bitMem (by with_reducible assumption) (by decide))
    | (refine Frame.bitMemFst (by with_reducible assumption) (by (simp only [List.map_cons, List.map_nil]; decide)))
    | (with_reducible apply Frame.emit)
    | (with_reducible apply Frame.leaseAnswer)
    | (with_reducible refine Frame.fst ?_ (by with_reducible assumption))
    | (with_reducible refine Frame.snd ?_ (by with_reducible assumption))
    | decide

theorem execLeaseRequestTimer_frame {t : TreeId} {s : State} {nx : State} (hex : execLeaseRequestTimer t s = .next nx) :
    Frame 0xc00000000000200000000000000001901707c0020010000000000000000000072000000000000000000000000000000000000000000000000000000000000000000 s nx := by
  unfold execLeaseRequestTimer at hex
  rw [← Host.Outcome.next.inj hex]
  have hk0 := Frame.refl 0xc00000000000200000000000000001901707c0020010000000000000000000072000000000000000000000000000000000000000000000000000000000000000000 s
  try dsimp only
  repeat' first
    | (with_reducible assumption)
    | (split)
    | (with_reducible refine Frame.foldl ?_ ?_)
    | decide
    | (intro u hu x hx)
    | (intro u hu)
    | (refine Frame.bitMem (by with_reducible assumption) (by decide))
    | (refine Frame.bitMemFst (by with_reducible assumption) (by (simp only [List.map_cons, List.map_nil]; decide)))
    | (with_reducible apply Frame.emit)
    | (with_reducible apply Frame.setProt)
    | (with_reducible apply Frame.leaseDecide)
    | (with_reducible apply Frame.leaseAnswer)
    | (with_reducible apply Frame.askLease)
    | (with_reducible refine Frame.fst ?_ (by with_reducible assumption))
    | (with_reducible refine Frame.snd ?_ (by with_reducible assumption))
    | (with_reducible refine Frame.mk_other ?_)
    | decide

theorem execLeaseExpire_frame {t : TreeId} {s : State} {nx : State} (hex : execLeaseExpire t s = .next nx) :
    Frame 0x100000000000000000000000000000000000000000000000000000000000000000000000000000000000000000000000000000000000000000000000c0000000000020000000000000000090170fc00200100000000000000000000724012028000000000000000000000001000000c2002200000000000000000000000 s nx := by
  unfold execLeaseExpire at hex
  rw [← Host.Outcome.next.inj hex]
  have hk0 := Frame.refl 0x100000000000000000000000000000000000000000000000000000000000000000000000000000000000000000000000000000000000000000000000c0000000000020000000000000000090170fc00200100000000000000000000724012028000000000000000000000001000000c2002200000000000000000000000 s
  try dsimp only
  repeat' first
    | (with_reducible assumption)
    | (split)
    | (with_reducible refine Frame.foldl ?_ ?_)
    | decide
    | (intro u hu x hx)
    | (intro u hu)
    | (refine Frame.bitMem (by with_reducible assumption) (by decide))
    | (refine Frame.bitMemFst (by with_reducible assumption) (by (simp only [List.map_cons, List.map_nil]; decide)))
    | (with_reducible apply Frame.emit)
    | (with_reducible apply Frame.setLease)
    | (with_reducible apply Frame.goStandby)
    | (with_reducible apply Frame.enterDark)
    | (with_reducible apply Frame.protEvent)
    | (with_reducible refine Frame.fst ?_ (by with_reducible assumption))
    | (with_reducible refine Frame.snd ?_ (by with_reducible assumption))
    | decide

theorem execTakingTimeout_frame {t : TreeId} {s : State} {nx : State} (hex : execTakingTimeout t s = .next nx) :
    Frame 0x100000000000000000000000000000000000000000000000000000000000000000000000000000000000000000000000000000000000000000000000c00000000000200000000000000000900707c00200100000000000000000000724012028000000000000000000000001000000c2002200000000000000000000000 s nx := by
  unfold execTakingTimeout at hex
  rw [← Host.Outcome.next.inj hex]
  have hk0 := Frame.refl 0x100000000000000000000000000000000000000000000000000000000000000000000000000000000000000000000000000000000000000000000000c00000000000200000000000000000900707c00200100000000000000000000724012028000000000000000000000001000000c2002200000000000000000000000 s
  try dsimp only
  repeat' first
    | (with_reducible assumption)
    | (split)
    | (with_reducible refine Frame.foldl ?_ ?_)
    | decide
    | (intro u hu x hx)
    | (intro u hu)
    | (refine Frame.bitMem (by with_reducible assumption) (by decide))
    | (refine Frame.bitMemFst (by with_reducible assumption) (by (simp only [List.map_cons, List.map_nil]; decide)))
    | (with_reducible apply Frame.emit)
    | (with_reducible apply Frame.goStandby)
    | (with_reducible apply Frame.enterDark)
    | (with_reducible refine Frame.fst ?_ (by with_reducible assumption))
    | (with_reducible refine Frame.snd ?_ (by with_reducible assumption))
    | decide

theorem execProtSwitch_frame {src : Src} {s : State} {nx : State} (hex : execProtSwitch src s = .next nx) :
    Frame 0x100000000000000000000000000000000000000000000000000000000000000000000000000000000000000000000000000000000000000000000000c00000000000218000000000000000900707c0020010000000042d00000000072401302a000000000000000000000000000000c2000200000000000000000000000 s nx := by
  unfold execProtSwitch at hex
  rw [← Host.Outcome.next.inj hex]
  have hk0 := Frame.refl 0x100000000000000000000000000000000000000000000000000000000000000000000000000000000000000000000000000000000000000000000000c00000000000218000000000000000900707c0020010000000042d00000000072401302a000000000000000000000000000000c2000200000000000000000000000 s
  try dsimp only
  repeat' first
    | (with_reducible assumption)
    | (split)
    | (with_reducible refine Frame.foldl ?_ ?_)
    | (intro hu)
    | decide
    | (intro u hu x hx)
    | (intro u hu)
    | (refine Frame.bitMem (by with_reducible assumption) (by decide))
    | (refine Frame.bitMemFst (by with_reducible assumption) (by (simp only [List.map_cons, List.map_nil]; decide)))
    | (with_reducible apply Frame.emit)
    | (with_reducible apply Frame.calvan)
    | (with_reducible apply Frame.protSwitch)
    | (with_reducible refine Frame.fst ?_ (by with_reducible assumption))
    | (with_reducible refine Frame.snd ?_ (by with_reducible assumption))
    | decide

theorem execProtStatus_frame {src : Src} {s : State} {nx : State} (hex : execProtStatus src s = .next nx) :
    Frame 0x100000000000000000000000000000000000000000000000000000000000000000000000000000000000000000000000000000000000000000000000c0000000000021800000000000000000000000000000000000042d00000000072401302a00000000000000000000000000000000000000000000000000000000000 s nx := by
  unfold execProtStatus at hex
  rw [← Host.Outcome.next.inj hex]
  have hk0 := Frame.refl 0x100000000000000000000000000000000000000000000000000000000000000000000000000000000000000000000000000000000000000000000000c0000000000021800000000000000000000000000000000000042d00000000072401302a00000000000000000000000000000000000000000000000000000000000 s
  try dsimp only
  repeat' first
    | (with_reducible assumption)
    | (split)
    | (with_reducible refine Frame.foldl ?_ ?_)
    | (intro hu)
    | decide
    | (intro u hu x hx)
    | (intro u hu)
    | (refine Frame.bitMem (by with_reducible assumption) (by decide))
    | (refine Frame.bitMemFst (by with_reducible assumption) (by (simp only [List.map_cons, List.map_nil]; decide)))
    | (with_reducible apply Frame.emit)
    | (with_reducible apply Frame.calvan)
    | (with_reducible apply Frame.atOnce)
    | (with_reducible apply Frame.protStatus)
    | (with_reducible refine Frame.fst ?_ (by with_reducible assumption))
    | (with_reducible refine Frame.snd ?_ (by with_reducible assumption))
    | decide

end Sys2Proof.Machine
end

