-- ==== Sys2Proof/Laws/DoesRake.lean ====
section
/-! SUPPORT. For each command of Rake, a mask of the registers it may write, and of the memories (Laws/Frame.lean). -/

namespace Sys2Proof.Machine

set_option Elab.async false
set_option linter.all false

theorem execDmaStart_frame {port : PortId} {ch : ChId} {v : BitVec 32} {s : State} {nx : State} (hex : execDmaStart port ch v s = .next nx) :
    Frame 0x100000000000000000000000000000000000000000000000000000000000000000000000000000000000000000000000000000000000000000000000c07ffc00000021800000000000000000000000000000000000042d0766efe1ff2401302a0000000000000000000000000000000000000000000000000f001c00000 s nx := by
  unfold execDmaStart at hex
  rw [← Host.Outcome.next.inj hex]
  have hk0 := Frame.refl 0x100000000000000000000000000000000000000000000000000000000000000000000000000000000000000000000000000000000000000000000000c07ffc00000021800000000000000000000000000000000000042d0766efe1ff2401302a0000000000000000000000000000000000000000000000000f001c00000 s
  try dsimp only
  repeat' first
    | (with_reducible assumption)
    | (split)
    | (with_reducible refine Frame.foldl ?_ ?_)
    | decide
    | (intro u hu x hx)
    | (intro u hu)
    | (refine Frame.bitMem (by with_reducible assumption) (by decide))
    | (refine Frame.bitMemFst (by with_reducible assumption) (by (simp only [List.map_cons, List.map_nil]; decide)))
    | (with_reducible apply Frame.emit)
    | (with_reducible apply Frame.winWrite)
    | (with_reducible apply Frame.writeDmaCtl)
    | (with_reducible refine Frame.fst ?_ (by with_reducible assumption))
    | (with_reducible refine Frame.snd ?_ (by with_reducible assumption))
    | decide

theorem execDmaResume_frame {port : PortId} {ch : ChId} {v : BitVec 32} {s : State} {nx : State} (hex : execDmaResume port ch v s = .next nx) :
    Frame 0x100000000000000000000000000000000000000000000000000000000000000000000000000000000000000000000000000000000000000000000000c07ffc00000021800000000000000000000000000000000000042d0766efe1ff2401302a0000000000000000000000000000000000000000000000000f001c00000 s nx := by
  unfold execDmaResume at hex
  rw [← Host.Outcome.next.inj hex]
  have hk0 := Frame.refl 0x100000000000000000000000000000000000000000000000000000000000000000000000000000000000000000000000000000000000000000000000c07ffc00000021800000000000000000000000000000000000042d0766efe1ff2401302a0000000000000000000000000000000000000000000000000f001c00000 s
  try dsimp only
  repeat' first
    | (with_reducible assumption)
    | (split)
    | (with_reducible refine Frame.foldl ?_ ?_)
    | decide
    | (intro u hu x hx)
    | (intro u hu)
    | (refine Frame.bitMem (by with_reducible assumption) (by decide))
    | (refine Frame.bitMemFst (by with_reducible assumption) (by (simp only [List.map_cons, List.map_nil]; decide)))
    | (with_reducible apply Frame.emit)
    | (with_reducible apply Frame.winWrite)
    | (with_reducible apply Frame.writeDmaCtl)
    | (with_reducible refine Frame.fst ?_ (by with_reducible assumption))
    | (with_reducible refine Frame.snd ?_ (by with_reducible assumption))
    | decide

theorem execDmaFence_frame {port : PortId} {ch : ChId} {v : BitVec 32} {s : State} {nx : State} (hex : execDmaFence port ch v s = .next nx) :
    Frame 0x100000000000000000000000000000000000000000000000000000000000000000000000000000000000000000000000000000000000000000000000c07ffc00000021800000000000000000000000000000000000042d0766efe1ff2401302a0000000000000000000000000000000000000000000000000f001c00000 s nx := by
  unfold execDmaFence at hex
  rw [← Host.Outcome.next.inj hex]
  have hk0 := Frame.refl 0x100000000000000000000000000000000000000000000000000000000000000000000000000000000000000000000000000000000000000000000000c07ffc00000021800000000000000000000000000000000000042d0766efe1ff2401302a0000000000000000000000000000000000000000000000000f001c00000 s
  try dsimp only
  repeat' first
    | (with_reducible assumption)
    | (split)
    | (with_reducible refine Frame.foldl ?_ ?_)
    | decide
    | (intro u hu x hx)
    | (intro u hu)
    | (refine Frame.bitMem (by with_reducible assumption) (by decide))
    | (refine Frame.bitMemFst (by with_reducible assumption) (by (simp only [List.map_cons, List.map_nil]; decide)))
    | (with_reducible apply Frame.emit)
    | (with_reducible apply Frame.winWrite)
    | (with_reducible apply Frame.writeDmaCtl)
    | (with_reducible refine Frame.fst ?_ (by with_reducible assumption))
    | (with_reducible refine Frame.snd ?_ (by with_reducible assumption))
    | decide

theorem execDmaDisable_frame {port : PortId} {ch : ChId} {v : BitVec 32} {s : State} {nx : State} (hex : execDmaDisable port ch v s = .next nx) :
    Frame 0x100000000000000000000000000000000000000000000000000000000000000000000000000000000000000000000000000000000000000000000000c07ffc00000021800000000000000000000000000000000000042d0766efe1ff2401302a0000000000000000000000000000000000000000000000000f001c00000 s nx := by
  unfold execDmaDisable at hex
  rw [← Host.Outcome.next.inj hex]
  have hk0 := Frame.refl 0x100000000000000000000000000000000000000000000000000000000000000000000000000000000000000000000000000000000000000000000000c07ffc00000021800000000000000000000000000000000000042d0766efe1ff2401302a0000000000000000000000000000000000000000000000000f001c00000 s
  try dsimp only
  repeat' first
    | (with_reducible assumption)
    | (split)
    | (with_reducible refine Frame.foldl ?_ ?_)
    | decide
    | (intro u hu x hx)
    | (intro u hu)
    | (refine Frame.bitMem (by with_reducible assumption) (by decide))
    | (refine Frame.bitMemFst (by with_reducible assumption) (by (simp only [List.map_cons, List.map_nil]; decide)))
    | (with_reducible apply Frame.emit)
    | (with_reducible apply Frame.winWrite)
    | (with_reducible apply Frame.writeDmaCtl)
    | (with_reducible refine Frame.fst ?_ (by with_reducible assumption))
    | (with_reducible refine Frame.snd ?_ (by with_reducible assumption))
    | decide

theorem execDmaKick_frame {port : PortId} {ch : ChId} {_v : BitVec 32} {s : State} {nx : State} (hex : execDmaKick port ch _v s = .next nx) :
    Frame 0xc07ffc00000020000000000000000000000000000000000000000001664d2007200000000000000000000000000000000000000000000000000000000f001c00000 s nx := by
  unfold execDmaKick at hex
  rw [← Host.Outcome.next.inj hex]
  have hk0 := Frame.refl 0xc07ffc00000020000000000000000000000000000000000000000001664d2007200000000000000000000000000000000000000000000000000000000f001c00000 s
  try dsimp only
  repeat' first
    | (with_reducible assumption)
    | (split)
    | (with_reducible refine Frame.foldl ?_ ?_)
    | decide
    | (intro u hu x hx)
    | (intro u hu)
    | (refine Frame.bitMem (by with_reducible assumption) (by decide))
    | (refine Frame.bitMemFst (by with_reducible assumption) (by (simp only [List.map_cons, List.map_nil]; decide)))
    | (with_reducible apply Frame.emit)
    | (with_reducible apply Frame.winWrite)
    | (with_reducible apply Frame.rakeKick)
    | (with_reducible refine Frame.fst ?_ (by with_reducible assumption))
    | (with_reducible refine Frame.snd ?_ (by with_reducible assumption))
    | decide

theorem execRakeBurstError_frame {ch : ChId} {cause : Fin 3} {s : State} {nx : State} (hex : execRakeBurstError ch cause s = .next nx) :
    Frame 0xc0000000000020000000000000000000000000020010000000000002464520072000000000000000000000000000000000000000000000000000000000000000000 s nx := by
  unfold execRakeBurstError at hex
  rw [← Host.Outcome.next.inj hex]
  have hk0 := Frame.refl 0xc0000000000020000000000000000000000000020010000000000002464520072000000000000000000000000000000000000000000000000000000000000000000 s
  try dsimp only
  repeat' first
    | (with_reducible assumption)
    | (split)
    | (with_reducible refine Frame.foldl ?_ ?_)
    | decide
    | (intro u hu x hx)
    | (intro u hu)
    | (refine Frame.bitMem (by with_reducible assumption) (by decide))
    | (refine Frame.bitMemFst (by with_reducible assumption) (by (simp only [List.map_cons, List.map_nil]; decide)))
    | (with_reducible apply Frame.emit)
    | (with_reducible apply Frame.remoteWriteFail)
    | (with_reducible apply Frame.setChan)
    | (with_reducible apply Frame.burstFail)
    | (with_reducible refine Frame.fst ?_ (by with_reducible assumption))
    | (with_reducible refine Frame.snd ?_ (by with_reducible assumption))
    | (with_reducible refine Frame.mk_other ?_)
    | decide

theorem execRakeArmedStart_frame {ch : ChId} {s : State} {nx : State} (hex : execRakeArmedStart ch s = .next nx) :
    Frame 0x20000000000000000000000000000000000000000000000000000000000000000000000 s nx := by
  unfold execRakeArmedStart at hex
  rw [← Host.Outcome.next.inj hex]
  have hk0 := Frame.refl 0x20000000000000000000000000000000000000000000000000000000000000000000000 s
  try dsimp only
  repeat' first
    | (with_reducible assumption)
    | (split)
    | (with_reducible refine Frame.foldl ?_ ?_)
    | decide
    | (intro u hu x hx)
    | (intro u hu)
    | (refine Frame.bitMem (by with_reducible assumption) (by decide))
    | (refine Frame.bitMemFst (by with_reducible assumption) (by (simp only [List.map_cons, List.map_nil]; decide)))
    | (with_reducible apply Frame.emit)
    | (with_reducible apply Frame.setChan)
    | (with_reducible apply Frame.rakeRun)
    | (with_reducible refine Frame.fst ?_ (by with_reducible assumption))
    | (with_reducible refine Frame.snd ?_ (by with_reducible assumption))
    | (with_reducible refine Frame.mk_other ?_)
    | decide

theorem execPeripheralRequestRise_frame {ch : ChId} {s : State} {nx : State} (hex : execPeripheralRequestRise ch s = .next nx) :
    Frame 0x20000000000000000000000000000000000000000000000000000000000000000000000 s nx := by
  unfold execPeripheralRequestRise at hex
  rw [← Host.Outcome.next.inj hex]
  have hk0 := Frame.refl 0x20000000000000000000000000000000000000000000000000000000000000000000000 s
  try dsimp only
  repeat' first
    | (with_reducible assumption)
    | (split)
    | (with_reducible refine Frame.foldl ?_ ?_)
    | decide
    | (intro u hu x hx)
    | (intro u hu)
    | (refine Frame.bitMem (by with_reducible assumption) (by decide))
    | (refine Frame.bitMemFst (by with_reducible assumption) (by (simp only [List.map_cons, List.map_nil]; decide)))
    | (with_reducible refine Frame.wr ?_ ?_)
    | (with_reducible apply Frame.emit)
    | (with_reducible refine Frame.fst ?_ (by with_reducible assumption))
    | (with_reducible refine Frame.snd ?_ (by with_reducible assumption))
    | decide

theorem execFenceDone_frame {ch : ChId} {s : State} {nx : State} (hex : execFenceDone ch s = .next nx) :
    Frame 0xc07ffc00000020000000000000000000000000000000000000000001666d20072000000000000000000000000000000000000000000000000000000000000000000 s nx := by
  unfold execFenceDone at hex
  rw [← Host.Outcome.next.inj hex]
  have hk0 := Frame.refl 0xc07ffc00000020000000000000000000000000000000000000000001666d20072000000000000000000000000000000000000000000000000000000000000000000 s
  try dsimp only
  repeat' first
    | (with_reducible assumption)
    | (split)
    | (with_reducible refine Frame.foldl ?_ ?_)
    | decide
    | (intro u hu x hx)
    | (intro u hu)
    | (refine Frame.bitMem (by with_reducible assumption) (by decide))
    | (refine Frame.bitMemFst (by with_reducible assumption) (by (simp only [List.map_cons, List.map_nil]; decide)))
    | (with_reducible apply Frame.emit)
    | (with_reducible apply Frame.setChan)
    | (with_reducible apply Frame.chEvent)
    | (with_reducible apply Frame.followLink)
    | (with_reducible refine Frame.fst ?_ (by with_reducible assumption))
    | (with_reducible refine Frame.snd ?_ (by with_reducible assumption))
    | (with_reducible refine Frame.mk_other ?_)
    | decide

theorem execFenceTimeout_frame {ch : ChId} {acked : Nat} {s : State} {nx : State} (hex : execFenceTimeout ch acked s = .next nx) :
    Frame 0xc0000000000020000000000000000000000000000000000000000002464120072000000000000000000000000000000000000000000000000000000000000000000 s nx := by
  unfold execFenceTimeout at hex
  rw [← Host.Outcome.next.inj hex]
  have hk0 := Frame.refl 0xc0000000000020000000000000000000000000000000000000000002464120072000000000000000000000000000000000000000000000000000000000000000000 s
  try dsimp only
  repeat' first
    | (with_reducible assumption)
    | (split)
    | (with_reducible refine Frame.foldl ?_ ?_)
    | decide
    | (intro u hu x hx)
    | (intro u hu)
    | (refine Frame.bitMem (by with_reducible assumption) (by decide))
    | (refine Frame.bitMemFst (by with_reducible assumption) (by (simp only [List.map_cons, List.map_nil]; decide)))
    | (with_reducible apply Frame.emit)
    | (with_reducible apply Frame.setChan)
    | (with_reducible apply Frame.haltAt)
    | (with_reducible apply Frame.rakeHalt)
    | (with_reducible refine Frame.fst ?_ (by with_reducible assumption))
    | (with_reducible refine Frame.snd ?_ (by with_reducible assumption))
    | (with_reducible refine Frame.mk_other ?_)
    | decide

end Sys2Proof.Machine
end

