-- ==== Sys2Proof/Laws/DoesReset.lean ====
section
/-! SUPPORT. For each command of Reset, a mask of the registers it may write, and of the memories (Laws/Frame.lean). -/

namespace Sys2Proof.Machine

set_option Elab.async false
set_option linter.all false

theorem execIslandResetRelease_frame {s : State} {nx : State} (hex : execIslandResetRelease s = .next nx) :
    Frame 0x0 s nx := by
  unfold execIslandResetRelease at hex
  rw [← Host.Outcome.next.inj hex]
  have hk0 := Frame.refl 0x0 s
  try dsimp only
  repeat' first
    | (with_reducible assumption)
    | (split)
    | (with_reducible refine Frame.foldl ?_ ?_)
    | decide
    | (intro u hu x hx)
    | (intro u hu)
    | (refine Frame.bitMem (by with_reducible assumption) (by decide))
    | (refine Frame.bitMemFst (by with_reducible assumption) (by (simp only [List.map_cons, List.map_nil]; decide)))
    | (with_reducible apply Frame.emit)
    | (with_reducible apply Frame.putBnd)
    | (with_reducible refine Frame.fst ?_ (by with_reducible assumption))
    | (with_reducible refine Frame.snd ?_ (by with_reducible assumption))
    | (with_reducible refine Frame.mk_other ?_)
    | decide

theorem execOscillatorStable_frame {bus : BitVec 2} {dbgLock : Bool} {s : State} {nx : State} (hex : execOscillatorStable bus dbgLock s = .next nx) :
    Frame 0x2000253080000000000000000000000000000000000000000000000000000000000000000000000000000000000000000000000000c0000000 s nx := by
  unfold execOscillatorStable at hex
  rw [← Host.Outcome.next.inj hex]
  have hk0 := Frame.refl 0x2000253080000000000000000000000000000000000000000000000000000000000000000000000000000000000000000000000000c0000000 s
  try dsimp only
  repeat' first
    | (with_reducible assumption)
    | (split)
    | (with_reducible refine Frame.foldl ?_ ?_)
    | decide
    | (intro u hu x hx)
    | (intro u hu)
    | (refine Frame.bitMem (by with_reducible assumption) (by decide))
    | (refine Frame.bitMemFst (by with_reducible assumption) (by (simp only [List.map_cons, List.map_nil]; decide)))
    | (with_reducible refine Frame.wr ?_ ?_)
    | (with_reducible apply Frame.emit)
    | (with_reducible apply Frame.putBnd)
    | (with_reducible apply Frame.wrB)
    | (with_reducible apply Frame.startUp)
    | (with_reducible refine Frame.fst ?_ (by with_reducible assumption))
    | (with_reducible refine Frame.snd ?_ (by with_reducible assumption))
    | (with_reducible refine Frame.mk_other ?_)
    | decide

theorem execComplexResetRelease_frame {s : State} {nx : State} (hex : execComplexResetRelease s = .next nx) :
    Frame 0x200025300000000000000000000000000000000000000000000000000000000000000000000000000000000000000000000000000000000000 s nx := by
  unfold execComplexResetRelease at hex
  rw [← Host.Outcome.next.inj hex]
  have hk0 := Frame.refl 0x200025300000000000000000000000000000000000000000000000000000000000000000000000000000000000000000000000000000000000 s
  try dsimp only
  repeat' first
    | (with_reducible assumption)
    | (split)
    | (with_reducible refine Frame.foldl ?_ ?_)
    | decide
    | (intro u hu x hx)
    | (intro u hu)
    | (refine Frame.bitMem (by with_reducible assumption) (by decide))
    | (refine Frame.bitMemFst (by with_reducible assumption) (by (simp only [List.map_cons, List.map_nil]; decide)))
    | (with_reducible apply Frame.emit)
    | (with_reducible apply Frame.putBnd)
    | (with_reducible apply Frame.startUp)
    | (with_reducible refine Frame.fst ?_ (by with_reducible assumption))
    | (with_reducible refine Frame.snd ?_ (by with_reducible assumption))
    | (with_reducible refine Frame.mk_other ?_)
    | decide

end Sys2Proof.Machine
end

