-- ==== Sys2Proof/Laws/DoesSluice.lean ====
section
/-! SUPPORT. For each command of Sluice, a mask of the registers it may write, and of the memories (Laws/Frame.lean). -/

namespace Sys2Proof.Machine

set_option Elab.async false
set_option linter.all false

theorem execAllocSet_frame {src : Src} {s : State} {nx : State} (hex : execAllocSet src s = .next nx) :
    Frame 0x100000000000000000000000000000000000000000000000000000000000000000000000000000000000000000000000000000000000000000000000c0000000000021800000000000000000000000000000000000042d00000000072401302a00000000803010000004000000000000000000000000000000000000000 s nx := by
  unfold execAllocSet at hex
  rw [← Host.Outcome.next.inj hex]
  have hk0 := Frame.refl 0x100000000000000000000000000000000000000000000000000000000000000000000000000000000000000000000000000000000000000000000000c0000000000021800000000000000000000000000000000000042d00000000072401302a00000000803010000004000000000000000000000000000000000000000 s
  try dsimp only
  repeat' first
    | (with_reducible assumption)
    | (split)
    | (with_reducible refine Frame.foldl ?_ ?_)
    | (intro hu)
    | decide
    | (intro u hu x hx)
    | (intro u hu)
    | (refine Frame.bitMem (by with_reducible assumption) (by decide))
    | (refine Frame.bitMemFst (by with_reducible assumption) (by (simp only [List.map_cons, List.map_nil]; decide)))
    | (with_reducible apply Frame.emit)
    | (with_reducible apply Frame.calvan)
    | (with_reducible apply Frame.atOnce)
    | (with_reducible apply Frame.allocSet)
    | (with_reducible refine Frame.fst ?_ (by with_reducible assumption))
    | (with_reducible refine Frame.snd ?_ (by with_reducible assumption))
    | decide

theorem execMapBuild_frame {t : TreeId} {wrong : List (Fin 2 × List Grant)} {s : State} {nx : State} (hex : execMapBuild t wrong s = .next nx) :
    Frame 0xc0000000000020000000000000000000000000000000000000000000000000072000000000000000403018000000000000000000000000000000000000000000000 s nx := by
  unfold execMapBuild at hex
  rw [← Host.Outcome.next.inj hex]
  have hk0 := Frame.refl 0xc0000000000020000000000000000000000000000000000000000000000000072000000000000000403018000000000000000000000000000000000000000000000 s
  try dsimp only
  repeat' first
    | (with_reducible assumption)
    | (split)
    | (with_reducible refine Frame.foldl ?_ ?_)
    | decide
    | (intro u hu x hx)
    | (intro u hu)
    | (refine Frame.bitMem (by with_reducible assumption) (by decide))
    | (refine Frame.bitMemFst (by with_reducible assumption) (by (simp only [List.map_cons, List.map_nil]; decide)))
    | (with_reducible apply Frame.emit)
    | (with_reducible apply Frame.finishCopy)
    | (with_reducible apply Frame.quietStep)
    | (with_reducible apply Frame.buildUnit)
    | (with_reducible apply Frame.countForecasts)
    | (with_reducible apply Frame.dropForecasts)
    | (with_reducible refine Frame.fst ?_ (by with_reducible assumption))
    | (with_reducible refine Frame.snd ?_ (by with_reducible assumption))
    | decide

theorem execMapRelease_frame {t : TreeId} {s : State} {nx : State} (hex : execMapRelease t s = .next nx) :
    Frame 0xc000000000002000000000000000000000000002001000000000000000000007200000000000000838c346e1f000000000000000000000000000000000000000000 s nx := by
  unfold execMapRelease at hex
  rw [← Host.Outcome.next.inj hex]
  have hk0 := Frame.refl 0xc000000000002000000000000000000000000002001000000000000000000007200000000000000838c346e1f000000000000000000000000000000000000000000 s
  try dsimp only
  repeat' first
    | (with_reducible assumption)
    | (split)
    | (with_reducible refine Frame.foldl ?_ ?_)
    | decide
    | (intro u hu x hx)
    | (intro u hu)
    | (refine Frame.bitMem (by with_reducible assumption) (by decide))
    | (refine Frame.bitMemFst (by with_reducible assumption) (by (simp only [List.map_cons, List.map_nil]; decide)))
    | (with_reducible apply Frame.emit)
    | (with_reducible apply Frame.setSluTree)
    | (with_reducible apply Frame.incSat)
    | (with_reducible apply Frame.putSlu)
    | (with_reducible apply Frame.sluEvent)
    | (with_reducible apply Frame.releaseMap)
    | (with_reducible apply Frame.blockEvent)
    | (with_reducible apply Frame.mapsAgree)
    | (with_reducible apply Frame.mapsDiffer)
    | (with_reducible refine Frame.fst ?_ (by with_reducible assumption))
    | (with_reducible refine Frame.snd ?_ (by with_reducible assumption))
    | (with_reducible refine Frame.mk_other ?_)
    | decide

theorem execSluSwap_frame {port : PortId} {v : BitVec 32} {s : State} {nx : State} (hex : execSluSwap port v s = .next nx) :
    Frame 0xc000000000002000000000000000000000000000000000000000000000000007200000000000000800002030f00000000000000000000000000000000f001c00000 s nx := by
  unfold execSluSwap at hex
  rw [← Host.Outcome.next.inj hex]
  have hk0 := Frame.refl 0xc000000000002000000000000000000000000000000000000000000000000007200000000000000800002030f00000000000000000000000000000000f001c00000 s
  try dsimp only
  repeat' first
    | (with_reducible assumption)
    | (split)
    | (with_reducible refine Frame.foldl ?_ ?_)
    | decide
    | (intro u hu x hx)
    | (intro u hu)
    | (refine Frame.bitMem (by with_reducible assumption) (by decide))
    | (refine Frame.bitMemFst (by with_reducible assumption) (by (simp only [List.map_cons, List.map_nil]; decide)))
    | (with_reducible apply Frame.emit)
    | (with_reducible apply Frame.winWrite)
    | (with_reducible apply Frame.writeSluCtl)
    | (with_reducible refine Frame.fst ?_ (by with_reducible assumption))
    | (with_reducible refine Frame.snd ?_ (by with_reducible assumption))
    | decide

theorem execSluRetest_frame {port : PortId} {v : BitVec 32} {s : State} {nx : State} (hex : execSluRetest port v s = .next nx) :
    Frame 0xc000000000002000000000000000000000000000000000000000000000000007200000000000000800002030f00000000000000000000000000000000f001c00000 s nx := by
  unfold execSluRetest at hex
  rw [← Host.Outcome.next.inj hex]
  have hk0 := Frame.refl 0xc000000000002000000000000000000000000000000000000000000000000007200000000000000800002030f00000000000000000000000000000000f001c00000 s
  try dsimp only
  repeat' first
    | (with_reducible assumption)
    | (split)
    | (with_reducible refine Frame.foldl ?_ ?_)
    | decide
    | (intro u hu x hx)
    | (intro u hu)
    | (refine Frame.bitMem (by with_reducible assumption) (by decide))
    | (refine Frame.bitMemFst (by with_reducible assumption) (by (simp only [List.map_cons, List.map_nil]; decide)))
    | (with_reducible apply Frame.emit)
    | (with_reducible apply Frame.winWrite)
    | (with_reducible apply Frame.writeSluCtl)
    | (with_reducible refine Frame.fst ?_ (by with_reducible assumption))
    | (with_reducible refine Frame.snd ?_ (by with_reducible assumption))
    | decide

theorem execSluiceUnitFault_frame {u : Fin 2} {fault : Option (Fin 8 × Fin 16)} {s : State} {nx : State} (hex : execSluiceUnitFault u fault s = .next nx) :
    Frame 0x100000000000000000000000000000000000000000000000000000000000000000000000000000000000000000000000000000000000000000000000c00000000000218000000000000000900707c0020010000000042d00000000072401302a0000780800c002a0f0040001000000c6002600000000000000000200000 s nx := by
  unfold execSluiceUnitFault at hex
  rw [← Host.Outcome.next.inj hex]
  have hk0 := Frame.refl 0x100000000000000000000000000000000000000000000000000000000000000000000000000000000000000000000000000000000000000000000000c00000000000218000000000000000900707c0020010000000042d00000000072401302a0000780800c002a0f0040001000000c6002600000000000000000200000 s
  try dsimp only
  repeat' first
    | (with_reducible assumption)
    | (split)
    | (with_reducible refine Frame.foldl ?_ ?_)
    | decide
    | (intro u hu x hx)
    | (intro u hu)
    | (refine Frame.bitMem (by with_reducible assumption) (by decide))
    | (refine Frame.bitMemFst (by with_reducible assumption) (by (simp only [List.map_cons, List.map_nil]; decide)))
    | (with_reducible apply Frame.emit)
    | (with_reducible apply Frame.engFault)
    | (with_reducible apply Frame.sluDomainLeft)
    | (with_reducible refine Frame.fst ?_ (by with_reducible assumption))
    | (with_reducible refine Frame.snd ?_ (by with_reducible assumption))
    | (with_reducible refine Frame.mk_other ?_)
    | decide

theorem execSluiceSelfTestDone_frame {u : Fin 2} {pass : Bool} {s : State} {nx : State} (hex : execSluiceSelfTestDone u pass s = .next nx) :
    Frame 0xc000000000002000000000000000000000000000000000000000000000000007200000000000001800f002a0f000000000000000000000000000000000000000000 s nx := by
  unfold execSluiceSelfTestDone at hex
  rw [← Host.Outcome.next.inj hex]
  have hk0 := Frame.refl 0xc000000000002000000000000000000000000000000000000000000000000007200000000000001800f002a0f000000000000000000000000000000000000000000 s
  try dsimp only
  repeat' first
    | (with_reducible assumption)
    | (split)
    | (with_reducible refine Frame.foldl ?_ ?_)
    | decide
    | (intro u hu x hx)
    | (intro u hu)
    | (refine Frame.bitMem (by with_reducible assumption) (by decide))
    | (refine Frame.bitMemFst (by with_reducible assumption) (by (simp only [List.map_cons, List.map_nil]; decide)))
    | (with_reducible refine Frame.wr ?_ ?_)
    | (with_reducible apply Frame.emit)
    | (with_reducible apply Frame.endTest)
    | (with_reducible apply Frame.unitFail)
    | (with_reducible apply Frame.setSluUnit)
    | (with_reducible apply Frame.enterResync)
    | (with_reducible apply Frame.freshUnit)
    | (with_reducible apply Frame.setUnit)
    | (with_reducible refine Frame.fst ?_ (by with_reducible assumption))
    | (with_reducible refine Frame.snd ?_ (by with_reducible assumption))
    | (with_reducible refine Frame.mk_other ?_)
    | decide

theorem execSluiceRetestTimer_frame {u : Fin 2} {s : State} {nx : State} (hex : execSluiceRetestTimer u s = .next nx) :
    Frame 0x800000000f000000000000000000000000000000000000000000 s nx := by
  unfold execSluiceRetestTimer at hex
  rw [← Host.Outcome.next.inj hex]
  have hk0 := Frame.refl 0x800000000f000000000000000000000000000000000000000000 s
  try dsimp only
  repeat' first
    | (with_reducible assumption)
    | (split)
    | (with_reducible refine Frame.foldl ?_ ?_)
    | decide
    | (intro u hu x hx)
    | (intro u hu)
    | (refine Frame.bitMem (by with_reducible assumption) (by decide))
    | (refine Frame.bitMemFst (by with_reducible assumption) (by (simp only [List.map_cons, List.map_nil]; decide)))
    | (with_reducible apply Frame.emit)
    | (with_reducible apply Frame.retest)
    | (with_reducible refine Frame.fst ?_ (by with_reducible assumption))
    | (with_reducible refine Frame.snd ?_ (by with_reducible assumption))
    | decide

theorem execSluiceHot_frame {u : Fin 2} {s : State} {nx : State} (hex : execSluiceHot u s = .next nx) :
    Frame 0xc000000000002000000000000000000000000000000000000000000000000007200000000000000000000100f000000000000000000000000000000000000000000 s nx := by
  unfold execSluiceHot at hex
  rw [← Host.Outcome.next.inj hex]
  have hk0 := Frame.refl 0xc000000000002000000000000000000000000000000000000000000000000007200000000000000000000100f000000000000000000000000000000000000000000 s
  try dsimp only
  repeat' first
    | (with_reducible assumption)
    | (split)
    | (with_reducible refine Frame.foldl ?_ ?_)
    | decide
    | (intro u hu x hx)
    | (intro u hu)
    | (refine Frame.bitMem (by with_reducible assumption) (by decide))
    | (refine Frame.bitMemFst (by with_reducible assumption) (by (simp only [List.map_cons, List.map_nil]; decide)))
    | (with_reducible apply Frame.emit)
    | (with_reducible apply Frame.putSlu)
    | (with_reducible apply Frame.setUnit)
    | (with_reducible apply Frame.sluEvent)
    | (with_reducible refine Frame.fst ?_ (by with_reducible assumption))
    | (with_reducible refine Frame.snd ?_ (by with_reducible assumption))
    | (with_reducible refine Frame.mk_other ?_)
    | decide

theorem execForecastRecord_frame {ring : RingId} {s : State} {nx : State} (hex : execForecastRecord ring s = .next nx) :
    Frame 0x100000000000000000000000000000000000000000000000000000000000000000000000000000000000000000000000000000000000000000000000c0000000000020000000000000000000000000000000000000000000000000072401302a00000000001000000000000000000000000000000000000000000000000 s nx := by
  unfold execForecastRecord at hex
  rw [← Host.Outcome.next.inj hex]
  have hk0 := Frame.refl 0x100000000000000000000000000000000000000000000000000000000000000000000000000000000000000000000000000000000000000000000000c0000000000020000000000000000000000000000000000000000000000000072401302a00000000001000000000000000000000000000000000000000000000000 s
  try dsimp only
  repeat' first
    | (with_reducible assumption)
    | (split)
    | (with_reducible refine Frame.foldl ?_ ?_)
    | decide
    | (intro u hu x hx)
    | (intro u hu)
    | (refine Frame.bitMem (by with_reducible assumption) (by decide))
    | (refine Frame.bitMemFst (by with_reducible assumption) (by (simp only [List.map_cons, List.map_nil]; decide)))
    | (with_reducible apply Frame.emit)
    | (with_reducible apply Frame.blockEvent)
    | (with_reducible apply Frame.readFailed)
    | (with_reducible apply Frame.foundEarly)
    | (with_reducible apply Frame.applyForecast)
    | (with_reducible apply Frame.advanceHead)
    | (with_reducible apply Frame.writeCompletion)
    | (with_reducible refine Frame.fst ?_ (by with_reducible assumption))
    | (with_reducible refine Frame.snd ?_ (by with_reducible assumption))
    | (with_reducible refine Frame.mk_other ?_)
    | decide

end Sys2Proof.Machine
end

