-- ==== Sys2Proof/Laws/DoesTimebase.lean ====
section
/-! SUPPORT. For each command of Timebase, a mask of the registers it may write, and of the memories (Laws/Frame.lean). -/

namespace Sys2Proof.Machine

set_option Elab.async false
set_option linter.all false

theorem execTbSet_frame {port : PortId} {x : Fin 2} {v : BitVec 64} {s : State} {nx : State} (hex : execTbSet port x v s = .next nx) :
    Frame 0xc000000000002000000000000000000000000000000000000000000000000007200000000000000000000000000000000000000000000010000000180f001c00000 s nx := by
  unfold execTbSet at hex
  rw [← Host.Outcome.next.inj hex]
  have hk0 := Frame.refl 0xc000000000002000000000000000000000000000000000000000000000000007200000000000000000000000000000000000000000000010000000180f001c00000 s
  try dsimp only
  repeat' first
    | (with_reducible assumption)
    | (split)
    | (with_reducible refine Frame.foldl ?_ ?_)
    | decide
    | (intro u hu x hx)
    | (intro u hu)
    | (refine Frame.bitMem (by with_reducible assumption) (by decide))
    | (refine Frame.bitMemFst (by with_reducible assumption) (by (simp only [List.map_cons, List.map_nil]; decide)))
    | (with_reducible apply Frame.emit)
    | (with_reducible apply Frame.winWrite)
    | (with_reducible apply Frame.tbSet)
    | (with_reducible refine Frame.fst ?_ (by with_reducible assumption))
    | (with_reducible refine Frame.snd ?_ (by with_reducible assumption))
    | decide

theorem execTbAdj_frame {port : PortId} {x : Fin 2} {v : BitVec 64} {s : State} {nx : State} (hex : execTbAdj port x v s = .next nx) :
    Frame 0xc000000000002000000000000000000000000000000000000000000000000007200000000000000000000000000000000000000000000010000000000f001c00000 s nx := by
  unfold execTbAdj at hex
  rw [← Host.Outcome.next.inj hex]
  have hk0 := Frame.refl 0xc000000000002000000000000000000000000000000000000000000000000007200000000000000000000000000000000000000000000010000000000f001c00000 s
  try dsimp only
  repeat' first
    | (with_reducible assumption)
    | (split)
    | (with_reducible refine Frame.foldl ?_ ?_)
    | decide
    | (intro u hu x hx)
    | (intro u hu)
    | (refine Frame.bitMem (by with_reducible assumption) (by decide))
    | (refine Frame.bitMemFst (by with_reducible assumption) (by (simp only [List.map_cons, List.map_nil]; decide)))
    | (with_reducible apply Frame.emit)
    | (with_reducible apply Frame.winWrite)
    | (with_reducible apply Frame.tbAdj)
    | (with_reducible refine Frame.fst ?_ (by with_reducible assumption))
    | (with_reducible refine Frame.snd ?_ (by with_reducible assumption))
    | decide

theorem execTbRateWrite_frame {port : PortId} {x : Fin 2} {v : BitVec 32} {s : State} {nx : State} (hex : execTbRateWrite port x v s = .next nx) :
    Frame 0x10000000f001c00000 s nx := by
  unfold execTbRateWrite at hex
  rw [← Host.Outcome.next.inj hex]
  have hk0 := Frame.refl 0x10000000f001c00000 s
  try dsimp only
  repeat' first
    | (with_reducible assumption)
    | (split)
    | (with_reducible refine Frame.foldl ?_ ?_)
    | decide
    | (intro u hu x hx)
    | (intro u hu)
    | (refine Frame.bitMem (by with_reducible assumption) (by decide))
    | (refine Frame.bitMemFst (by with_reducible assumption) (by (simp only [List.map_cons, List.map_nil]; decide)))
    | (with_reducible apply Frame.emit)
    | (with_reducible apply Frame.winWrite)
    | (with_reducible apply Frame.tbRate)
    | (with_reducible refine Frame.fst ?_ (by with_reducible assumption))
    | (with_reducible refine Frame.snd ?_ (by with_reducible assumption))
    | decide

theorem execTideOriginWrite_frame {port : PortId} {v : BitVec 64} {s : State} {nx : State} (hex : execTideOriginWrite port v s = .next nx) :
    Frame 0x40100000000f001c00000 s nx := by
  unfold execTideOriginWrite at hex
  rw [← Host.Outcome.next.inj hex]
  have hk0 := Frame.refl 0x40100000000f001c00000 s
  try dsimp only
  repeat' first
    | (with_reducible assumption)
    | (split)
    | (with_reducible refine Frame.foldl ?_ ?_)
    | decide
    | (intro u hu x hx)
    | (intro u hu)
    | (refine Frame.bitMem (by with_reducible assumption) (by decide))
    | (refine Frame.bitMemFst (by with_reducible assumption) (by (simp only [List.map_cons, List.map_nil]; decide)))
    | (with_reducible apply Frame.emit)
    | (with_reducible apply Frame.winWrite)
    | (with_reducible apply Frame.tideOrigin)
    | (with_reducible refine Frame.fst ?_ (by with_reducible assumption))
    | (with_reducible refine Frame.snd ?_ (by with_reducible assumption))
    | decide

theorem execTodArm_frame {port : PortId} {slot : Fin 4} {v : BitVec 32} {s : State} {nx : State} (hex : execTodArm port slot v s = .next nx) :
    Frame 0x1400000000000f001c00000 s nx := by
  unfold execTodArm at hex
  rw [← Host.Outcome.next.inj hex]
  have hk0 := Frame.refl 0x1400000000000f001c00000 s
  try dsimp only
  repeat' first
    | (with_reducible assumption)
    | (split)
    | (with_reducible refine Frame.foldl ?_ ?_)
    | decide
    | (intro u hu x hx)
    | (intro u hu)
    | (refine Frame.bitMem (by with_reducible assumption) (by decide))
    | (refine Frame.bitMemFst (by with_reducible assumption) (by (simp only [List.map_cons, List.map_nil]; decide)))
    | (with_reducible apply Frame.emit)
    | (with_reducible apply Frame.winWrite)
    | (with_reducible apply Frame.todCtl)
    | (with_reducible refine Frame.fst ?_ (by with_reducible assumption))
    | (with_reducible refine Frame.snd ?_ (by with_reducible assumption))
    | decide

theorem execPpsInEdge_frame {x : Fin 2} {s : State} {nx : State} (hex : execPpsInEdge x s = .next nx) :
    Frame 0xc0000000000020000000000000000000000000000000000000000000000000072000000000000000000000000000000000000000000000000e00030000000000000 s nx := by
  unfold execPpsInEdge at hex
  rw [← Host.Outcome.next.inj hex]
  have hk0 := Frame.refl 0xc0000000000020000000000000000000000000000000000000000000000000072000000000000000000000000000000000000000000000000e00030000000000000 s
  try dsimp only
  repeat' first
    | (with_reducible assumption)
    | (split)
    | (with_reducible refine Frame.foldl ?_ ?_)
    | decide
    | (intro u hu x hx)
    | (intro u hu)
    | (refine Frame.bitMem (by with_reducible assumption) (by decide))
    | (refine Frame.bitMemFst (by with_reducible assumption) (by (simp only [List.map_cons, List.map_nil]; decide)))
    | (with_reducible refine Frame.wr ?_ ?_)
    | (with_reducible apply Frame.emit)
    | (with_reducible apply Frame.incWrap)
    | (with_reducible apply Frame.tbEvent)
    | (with_reducible apply Frame.blockEvent)
    | (with_reducible refine Frame.fst ?_ (by with_reducible assumption))
    | (with_reducible refine Frame.snd ?_ (by with_reducible assumption))
    | decide

theorem execPpsOutEdge_frame {s : State} {nx : State} (hex : execPpsOutEdge s = .next nx) :
    Frame 0x0 s nx := by
  unfold execPpsOutEdge at hex
  rw [← Host.Outcome.next.inj hex]
  have hk0 := Frame.refl 0x0 s
  try dsimp only
  repeat' first
    | (with_reducible assumption)
    | (split)
    | (with_reducible refine Frame.foldl ?_ ?_)
    | decide
    | (intro u hu x hx)
    | (intro u hu)
    | (refine Frame.bitMem (by with_reducible assumption) (by decide))
    | (refine Frame.bitMemFst (by with_reducible assumption) (by (simp only [List.map_cons, List.map_nil]; decide)))
    | (with_reducible apply Frame.emit)
    | (with_reducible apply Frame.putTb)
    | (with_reducible refine Frame.fst ?_ (by with_reducible assumption))
    | (with_reducible refine Frame.snd ?_ (by with_reducible assumption))
    | (with_reducible refine Frame.mk_other ?_)
    | decide

theorem execCoreClockChange_frame {code : Fin 4} {s : State} {nx : State} (hex : execCoreClockChange code s = .next nx) :
    Frame 0x380000000000 s nx := by
  unfold execCoreClockChange at hex
  rw [← Host.Outcome.next.inj hex]
  have hk0 := Frame.refl 0x380000000000 s
  try dsimp only
  repeat' first
    | (with_reducible assumption)
    | (split)
    | (with_reducible refine Frame.foldl ?_ ?_)
    | decide
    | (intro u hu x hx)
    | (intro u hu)
    | (refine Frame.bitMem (by with_reducible assumption) (by decide))
    | (refine Frame.bitMemFst (by with_reducible assumption) (by (simp only [List.map_cons, List.map_nil]; decide)))
    | (with_reducible refine Frame.wr ?_ ?_)
    | (with_reducible apply Frame.emit)
    | (with_reducible refine Frame.fst ?_ (by with_reducible assumption))
    | (with_reducible refine Frame.snd ?_ (by with_reducible assumption))
    | decide

theorem execFreqHoldoverChange_frame {on : Bool} {s : State} {nx : State} (hex : execFreqHoldoverChange on s = .next nx) :
    Frame 0x8000000000000 s nx := by
  unfold execFreqHoldoverChange at hex
  rw [← Host.Outcome.next.inj hex]
  have hk0 := Frame.refl 0x8000000000000 s
  try dsimp only
  repeat' first
    | (with_reducible assumption)
    | (split)
    | (with_reducible refine Frame.foldl ?_ ?_)
    | decide
    | (intro u hu x hx)
    | (intro u hu)
    | (refine Frame.bitMem (by with_reducible assumption) (by decide))
    | (refine Frame.bitMemFst (by with_reducible assumption) (by (simp only [List.map_cons, List.map_nil]; decide)))
    | (with_reducible apply Frame.emit)
    | (with_reducible apply Frame.wrB)
    | (with_reducible refine Frame.fst ?_ (by with_reducible assumption))
    | (with_reducible refine Frame.snd ?_ (by with_reducible assumption))
    | decide

theorem execTideJump_frame {s : State} {nx : State} (hex : execTideJump s = .next nx) :
    Frame 0xc0000000000020000000000000000000000000000000000000000000000000072000000000000000000000000000000000000000000010a00000000000000000000 s nx := by
  unfold execTideJump at hex
  rw [← Host.Outcome.next.inj hex]
  have hk0 := Frame.refl 0xc0000000000020000000000000000000000000000000000000000000000000072000000000000000000000000000000000000000000010a00000000000000000000 s
  try dsimp only
  repeat' first
    | (with_reducible assumption)
    | (split)
    | (with_reducible refine Frame.foldl ?_ ?_)
    | decide
    | (intro u hu x hx)
    | (intro u hu)
    | (refine Frame.bitMem (by with_reducible assumption) (by decide))
    | (refine Frame.bitMemFst (by with_reducible assumption) (by (simp only [List.map_cons, List.map_nil]; decide)))
    | (with_reducible apply Frame.emit)
    | (with_reducible apply Frame.jumpFrom)
    | (with_reducible apply Frame.strobe)
    | (with_reducible refine Frame.fst ?_ (by with_reducible assumption))
    | (with_reducible refine Frame.snd ?_ (by with_reducible assumption))
    | decide

theorem execLedgerCalibration_frame {s : State} {nx : State} (hex : execLedgerCalibration s = .next nx) :
    Frame 0x200000000000000 s nx := by
  unfold execLedgerCalibration at hex
  rw [← Host.Outcome.next.inj hex]
  have hk0 := Frame.refl 0x200000000000000 s
  try dsimp only
  repeat' first
    | (with_reducible assumption)
    | (split)
    | (with_reducible refine Frame.foldl ?_ ?_)
    | decide
    | (intro u hu x hx)
    | (intro u hu)
    | (refine Frame.bitMem (by with_reducible assumption) (by decide))
    | (refine Frame.bitMemFst (by with_reducible assumption) (by (simp only [List.map_cons, List.map_nil]; decide)))
    | (with_reducible apply Frame.emit)
    | (with_reducible apply Frame.calibrate)
    | (with_reducible refine Frame.fst ?_ (by with_reducible assumption))
    | (with_reducible refine Frame.snd ?_ (by with_reducible assumption))
    | decide

end Sys2Proof.Machine
end

