-- ==== Sys2Proof/Laws/Events.lean ====
section
/-! SUPPORT. What an event can do: it may write register fields, add to named counts and send messages, and it leaves every
other component of the state as it was (R304, R305, R446). -/

namespace Sys2Proof.Machine

set_option Elab.async false
set_option linter.all false

/-- Only register fields, outputs and named counts differ. -/
def EventOnly (s t : State) : Prop := t = { s with fields := t.fields, out := t.out, counts := t.counts }

namespace EventOnly

theorem refl (s : State) : EventOnly s s := rfl

theorem trans {s t u : State} (h1 : EventOnly s t) (h2 : EventOnly t u) : EventOnly s u := by
  unfold EventOnly at *
  rw [h2, h1]

theorem wr {s t : State} (h : EventOnly s t) {f : Fld} {i v : Nat} : EventOnly s (t.wr f i v) := h.trans rfl
theorem emit {s t : State} (h : EventOnly s t) {o : Output} : EventOnly s (t.emit o) := h.trans rfl
theorem addCnt {s t : State} (h : EventOnly s t) {p o n : Nat} : EventOnly s (t.addCnt p o n) := h.trans rfl

theorem foldl {α : Type} {s t : State} {l : List α} {f : State → α → State} (h : EventOnly s t)
    (hf : ∀ u, EventOnly s u → ∀ x ∈ l, EventOnly s (f u x)) : EventOnly s (l.foldl f t) := by
  induction l generalizing t with
  | nil => exact h
  | cons a r ih => exact ih (hf _ h a (by simp)) (fun u hu x hx => hf u hu x (List.mem_cons_of_mem _ hx))

theorem countFire {s t : State} (h : EventOnly s t) : EventOnly s t.countFire := by
  unfold State.countFire
  split
  · exact h
  · refine foldl h (fun u hu x _ => ?_)
    dsimp only
    repeat' first
      | with_reducible exact hu
      | split
      | with_reducible refine wr ?_

theorem fired {s t : State} {v : Nat} (h : EventOnly s t) : EventOnly s (t.fired v) := by
  unfold State.fired
  dsimp only
  split
  · exact wr (emit (countFire h))
  · exact emit (countFire h)

theorem fireOnly {s t : State} {v : Nat} (h : EventOnly s t) : EventOnly s (t.fireOnly v) := by
  unfold State.fireOnly
  dsimp only
  split
  · exact wr (wr (wr h))
  · exact fired (wr (wr h))

theorem eventBy {s t : State} {v : Nat} {g : State → Nat → State} (h : EventOnly s t)
    (hg : ∀ u k, EventOnly s u → EventOnly s (g u k)) : EventOnly s (t.eventBy g v) := by
  unfold State.eventBy
  dsimp only
  split
  · exact hg _ _ h
  · exact wr (wr h)

theorem overflowEvent {s t : State} {w : Bool} (h : EventOnly s t) : EventOnly s (t.overflowEvent w) := by
  unfold State.overflowEvent
  split
  · exact eventBy h (fun _ _ hu => fireOnly hu)
  · exact h

theorem fire {s t : State} {v : Nat} (h : EventOnly s t) : EventOnly s (t.fire v) := overflowEvent (fireOnly h)

theorem vecEvent {s t : State} {v : Nat} (h : EventOnly s t) : EventOnly s (t.vecEvent v) :=
  eventBy h (fun _ _ hu => fire hu)

theorem srcEvent {s t : State} {k : Nat} (h : EventOnly s t) : EventOnly s (t.srcEvent k) := by
  unfold State.srcEvent
  split
  · exact vecEvent h
  · exact h

theorem raise {s t : State} {f : Fld} {i k : Nat} {e : Bool} (h : EventOnly s t) : EventOnly s (t.raise f i e k) := by
  unfold State.raise
  dsimp only
  repeat' first
    | with_reducible assumption
    | split
    | with_reducible refine srcEvent ?_
    | with_reducible refine wr ?_

theorem raiseEn {s t : State} {f en : Fld} {i k : Nat} (h : EventOnly s t) : EventOnly s (t.raiseEn f i en k) := raise h
theorem treEvent {s t : State} {k : Nat} {f : Fld} (h : EventOnly s t) : EventOnly s (t.treEvent k f) := raise h
theorem treUsEvent {s t : State} {k : Nat} {f : Fld} (h : EventOnly s t) : EventOnly s (t.treUsEvent k f) := raise h
theorem tbEvent {s t : State} {f : Fld} (h : EventOnly s t) : EventOnly s (t.tbEvent f) := raise h
theorem sluEvent {s t : State} {f : Fld} (h : EventOnly s t) : EventOnly s (t.sluEvent f) := raise h
theorem pwrEvent {s t : State} {f : Fld} (h : EventOnly s t) : EventOnly s (t.pwrEvent f) := raise h
theorem fabEvent {s t : State} {f : Fld} (h : EventOnly s t) : EventOnly s (t.fabEvent f) := raise h
theorem protEvent {s t : State} {f : Fld} (h : EventOnly s t) : EventOnly s (t.protEvent f) := raise h
theorem pmcEvent {s t : State} {f : Fld} (h : EventOnly s t) : EventOnly s (t.pmcEvent f) := raise h
theorem mbxEvent {s t : State} {f : Fld} (h : EventOnly s t) : EventOnly s (t.mbxEvent f) := raise h
theorem irqStatus {s t : State} {f : Fld} (h : EventOnly s t) : EventOnly s (t.irqStatus f) := raise h

theorem addPc {s t : State} {sel : List Fld} {c o : Fld} {i k n : Nat} (h : EventOnly s t) : EventOnly s (t.addPc sel c o i k n) := by
  unfold State.addPc
  dsimp only
  repeat' first
    | with_reducible assumption
    | split
    | with_reducible refine pmcEvent ?_
    | with_reducible refine wr ?_

theorem blockEvent {s t : State} {b c n : Nat} (h : EventOnly s t) : EventOnly s (t.blockEvent b c n) := by
  unfold State.blockEvent
  dsimp only
  split
  · exact h
  · refine foldl ?_ (fun u hu x _ => ?_)
    · repeat' first
        | with_reducible assumption
        | split
        | with_reducible refine addCnt ?_
    · split
      · exact addPc hu
      · exact hu

theorem checkFar {s t : State} (h : EventOnly s t) : EventOnly s t.checkFar := by
  unfold State.checkFar
  split
  · exact tbEvent h
  · exact h

theorem tb {s t : State} (h : EventOnly s t) : t.tb = s.tb := by rw [h]
theorem bnd {s t : State} (h : EventOnly s t) : t.bnd = s.bnd := by rw [h]
theorem doms {s t : State} (h : EventOnly s t) : t.doms = s.doms := by rw [h]
theorem rings {s t : State} (h : EventOnly s t) : t.rings = s.rings := by rw [h]
theorem evqs {s t : State} (h : EventOnly s t) : t.evqs = s.evqs := by rw [h]
theorem trees {s t : State} (h : EventOnly s t) : t.trees = s.trees := by rw [h]
theorem treeUs {s t : State} (h : EventOnly s t) : t.treeUs = s.treeUs := by rw [h]
theorem terms {s t : State} (h : EventOnly s t) : t.terms = s.terms := by rw [h]
theorem flows {s t : State} (h : EventOnly s t) : t.flows = s.flows := by rw [h]
theorem slots {s t : State} (h : EventOnly s t) : t.slots = s.slots := by rw [h]
theorem allocs {s t : State} (h : EventOnly s t) : t.allocs = s.allocs := by rw [h]
theorem sluUnits {s t : State} (h : EventOnly s t) : t.sluUnits = s.sluUnits := by rw [h]
theorem slu {s t : State} (h : EventOnly s t) : t.slu = s.slu := by rw [h]
theorem buf {s t : State} (h : EventOnly s t) : t.buf = s.buf := by rw [h]
theorem tabs {s t : State} (h : EventOnly s t) : t.tabs = s.tabs := by rw [h]
theorem fab {s t : State} (h : EventOnly s t) : t.fab = s.fab := by rw [h]
theorem fabLinks {s t : State} (h : EventOnly s t) : t.fabLinks = s.fabLinks := by rw [h]
theorem prots {s t : State} (h : EventOnly s t) : t.prots = s.prots := by rw [h]
theorem engs {s t : State} (h : EventOnly s t) : t.engs = s.engs := by rw [h]
theorem chans {s t : State} (h : EventOnly s t) : t.chans = s.chans := by rw [h]
theorem mon {s t : State} (h : EventOnly s t) : t.mon = s.mon := by rw [h]
theorem cp {s t : State} (h : EventOnly s t) : t.cp = s.cp := by rw [h]
theorem hostMem {s t : State} (h : EventOnly s t) : t.hostMem = s.hostMem := by rw [h]
theorem scratch {s t : State} (h : EventOnly s t) : t.scratch = s.scratch := by rw [h]
theorem pending {s t : State} (h : EventOnly s t) : t.pending = s.pending := by rw [h]
theorem freeCtr {s t : State} (h : EventOnly s t) : t.freeCtr = s.freeCtr := by rw [h]

end EventOnly

end Sys2Proof.Machine
end

