-- ==== Sys2Proof/Laws/FrameUse.lean ====
section
/-! SUPPORT. From a mask of registers (Laws/Frame.lean) to a list of them (Safety.lean). -/

namespace Sys2Proof.Machine

set_option Elab.async false
set_option linter.all false

/-- The mask of a list of fields. -/
def maskFields (L : List Fld) : Nat := L.foldl (fun m f => m ||| 2 ^ f.num) 0

theorem testBit_foldl_fields (L : List Fld) (m n : Nat) (h : (L.foldl (fun m f => m ||| 2 ^ f.num) m).testBit n = true) :
    m.testBit n = true ∨ ∃ f ∈ L, f.num = n := by
  induction L generalizing m with
  | nil => exact .inl h
  | cons f r ih =>
    rcases ih _ h with h1 | ⟨g, hg, e⟩
    · rw [Nat.testBit_or, Bool.or_eq_true] at h1
      rcases h1 with h1 | h1
      · exact .inl h1
      · rw [Nat.testBit_two_pow] at h1
        exact .inr ⟨f, by simp, by simpa using h1⟩
    · exact .inr ⟨g, by simp [hg], e⟩

/-- A frame over a mask of the fields of a list, bit 1000 of the memories aside, leaves every other field alone. -/
theorem Frame.leaves {M : Nat} {L : List Fld} {s t : State} (h : Frame M s t)
    (hM : M % 2 ^ 1000 &&& maskFields L = M % 2 ^ 1000) : Leaves L s t := by
  intro f i hn hf
  refine h.regs f i ?_
  cases hb : M.testBit f.num
  · rfl
  · have hb2 : (M % 2 ^ 1000).testBit f.num = true := by rw [Nat.testBit_mod_two_pow, hb]; simpa using hn
    rcases testBit_foldl_fields L 0 _ (Frame.and_bit hM hb2) with h3 | ⟨g, hg, e⟩
    · simp at h3
    · exact absurd e.symm (hf g hg)

/-- A frame whose mask lacks the memory bit leaves both memories alone. -/
theorem Frame.sameMemory {M : Nat} {s t : State} (h : Frame M s t) (hM : M.testBit 1000 = false) : SameMemory s t := h.mem hM

end Sys2Proof.Machine
end

