-- ==== Sys2Proof/Laws/FrameWindow.lean ====
section
/-! SUPPORT. Which registers, and whether the memories, the operations of Window may write (Laws/Frame.lean). -/

namespace Sys2Proof.Machine

set_option Elab.async false
set_option linter.all false

/-- What `State.writeTuple` may write: register fields by number, memory at 1000. -/
def W.writeTuple : Nat := 0x0

theorem Frame.writeTuple {M : Nat} {s0 s : State} {r : RegInfo} {i : Nat} {v : Nat} (hk0 : Frame M s0 s) (hr : ∀ f ∈ r.flds, M.testBit f.num = true)
    (_hL : W.writeTuple &&& M = W.writeTuple) : Frame M s0 (State.writeTuple s r i v) := by
  unfold State.writeTuple
  try dsimp only
  repeat' first
    | (with_reducible assumption)
    | (split)
    | (with_reducible refine Frame.foldl ?_ ?_)
    | (exact Nat.zero_and _)
    | (intro u hu x hx)
    | (intro u hu)
    | (refine Frame.bitMem (by with_reducible assumption) ?_)
    | (refine Frame.bitMemFst (by with_reducible assumption) ?_)
    | (refine hr _ (by with_reducible assumption))
    | (with_reducible apply Frame.emit)
    | (with_reducible apply Frame.writeFields)
    | decide

/-- What `State.writeDma` may write: register fields by number, memory at 1000. -/
def W.writeDma : Nat := 0x100000000000000000000000000000000000000000000000000000000000000000000000000000000000000000000000000000000000000000000000c07ffc00000021800000000000000000000000000000000000042d0766efe1ff2401302a00000000000000000000000000000000000000000000000000000000000

theorem Frame.writeDma {M : Nat} {s0 s : State} {r : RegInfo} {c : Nat} {o : Nat} {v : Nat} (hk0 : Frame M s0 s) (hr : ∀ f ∈ r.flds, M.testBit f.num = true)
    (hL : W.writeDma &&& M = W.writeDma) : Frame M s0 (State.writeDma s r c o v) := by
  unfold State.writeDma
  try dsimp only
  repeat' first
    | (with_reducible assumption)
    | (split)
    | (with_reducible refine Frame.foldl ?_ ?_)
    | (exact Nat.zero_and _)
    | (exact Frame.sub hL (by decide))
    | (exact Frame.bitOf hL (by decide))
    | (intro u hu x hx)
    | (intro u hu)
    | (refine Frame.bitMem (by with_reducible assumption) ?_)
    | (refine Frame.sub_all hL (by first | decide | (simp only [List.map_cons, List.map_nil]; decide)))
    | (refine Frame.bitMemFst (by with_reducible assumption) ?_)
    | (refine hr _ (by with_reducible assumption))
    | (with_reducible apply Frame.emit)
    | (with_reducible apply Frame.writeDmaCtl)
    | (with_reducible apply Frame.rakeKick)
    | (with_reducible apply Frame.writeFields)
    | (with_reducible apply Frame.writeTuple)
    | decide

/-- What `State.writeReach` may write: register fields by number, memory at 1000. -/
def W.writeReach : Nat := 0xe00000000000000000000000000000000

theorem Frame.writeReach {M : Nat} {s0 s : State} {t : Nat} {v : Nat} (hk0 : Frame M s0 s)
    (hL : W.writeReach &&& M = W.writeReach) : Frame M s0 (State.writeReach s t v) := by
  unfold State.writeReach
  try dsimp only
  repeat' first
    | (with_reducible assumption)
    | (split)
    | (with_reducible refine Frame.foldl ?_ ?_)
    | (exact Nat.zero_and _)
    | (exact Frame.sub hL (by decide))
    | (exact Frame.bitOf hL (by decide))
    | (intro u hu x hx)
    | (intro u hu)
    | (refine Frame.bitMem (by with_reducible assumption) ?_)
    | (refine Frame.sub_all hL (by first | decide | (simp only [List.map_cons, List.map_nil]; decide)))
    | (refine Frame.bitMemFst (by with_reducible assumption) ?_)
    | (with_reducible refine Frame.wr ?_ ?_)
    | (with_reducible apply Frame.emit)
    | (with_reducible apply Frame.writeFields)
    | decide

/-- What `State.writeTideCtl` may write: register fields by number, memory at 1000. -/
def W.writeTideCtl : Nat := 0xc0000000000020000000000000000000000000000000000000000000000000072000000000000000000000000000000000000000000001170000000000000000000

theorem Frame.writeTideCtl {M : Nat} {s0 s : State} {v : Nat} (hk0 : Frame M s0 s)
    (hL : W.writeTideCtl &&& M = W.writeTideCtl) : Frame M s0 (State.writeTideCtl s v) := by
  unfold State.writeTideCtl
  try dsimp only
  repeat' first
    | (with_reducible assumption)
    | (split)
    | (with_reducible refine Frame.foldl ?_ ?_)
    | (exact Nat.zero_and _)
    | (exact Frame.sub hL (by decide))
    | (exact Frame.bitOf hL (by decide))
    | (intro u hu x hx)
    | (intro u hu)
    | (refine Frame.bitMem (by with_reducible assumption) ?_)
    | (refine Frame.sub_all hL (by first | decide | (simp only [List.map_cons, List.map_nil]; decide)))
    | (refine Frame.bitMemFst (by with_reducible assumption) ?_)
    | (with_reducible apply Frame.emit)
    | (with_reducible apply Frame.writeFields)
    | (with_reducible apply Frame.peerTide)
    | (with_reducible apply Frame.checkFar)
    | decide

/-- What `State.writeMbxReq` may write: register fields by number, memory at 1000. -/
def W.writeMbxReq : Nat := 0x1080000000000000000000000000000000000000000000000000000000000000000000000000000

theorem Frame.writeMbxReq {M : Nat} {s0 s : State} {i : Nat} {v : Nat} (hk0 : Frame M s0 s)
    (hL : W.writeMbxReq &&& M = W.writeMbxReq) : Frame M s0 (State.writeMbxReq s i v) := by
  unfold State.writeMbxReq
  try dsimp only
  repeat' first
    | (with_reducible assumption)
    | (split)
    | (with_reducible refine Frame.foldl ?_ ?_)
    | (exact Nat.zero_and _)
    | (exact Frame.sub hL (by decide))
    | (exact Frame.bitOf hL (by decide))
    | (intro u hu x hx)
    | (intro u hu)
    | (refine Frame.bitMem (by with_reducible assumption) ?_)
    | (refine Frame.sub_all hL (by first | decide | (simp only [List.map_cons, List.map_nil]; decide)))
    | (refine Frame.bitMemFst (by with_reducible assumption) ?_)
    | (with_reducible refine Frame.wr ?_ ?_)
    | (with_reducible apply Frame.emit)
    | decide

/-- What `State.writeTmxCtl` may write: register fields by number, memory at 1000. -/
def W.writeTmxCtl : Nat := 0x0

theorem Frame.writeTmxCtl {M : Nat} {s0 s : State} {r : RegInfo} {v : Nat} (hk0 : Frame M s0 s) (hr : ∀ f ∈ r.flds, M.testBit f.num = true)
    (_hL : W.writeTmxCtl &&& M = W.writeTmxCtl) : Frame M s0 (State.writeTmxCtl s r v) := by
  unfold State.writeTmxCtl
  try dsimp only
  repeat' first
    | (with_reducible assumption)
    | (split)
    | (with_reducible refine Frame.foldl ?_ ?_)
    | (exact Nat.zero_and _)
    | (intro u hu x hx)
    | (intro u hu)
    | (refine Frame.bitMem (by with_reducible assumption) ?_)
    | (refine Frame.bitMemFst (by with_reducible assumption) ?_)
    | (refine hr _ (by with_reducible assumption))
    | (with_reducible apply Frame.emit)
    | (with_reducible apply Frame.writeFields)
    | decide

/-- What `State.writeNowhere` may write: register fields by number, memory at 1000. -/
def W.writeNowhere : Nat := 0xf001c00000

theorem Frame.writeNowhere {M : Nat} {s0 s : State} {off : Nat} {port : Nat} {width : Nat} {half : Bool} (hk0 : Frame M s0 s)
    (hL : W.writeNowhere &&& M = W.writeNowhere) : Frame M s0 (State.writeNowhere s off port width half) := by
  unfold State.writeNowhere
  try dsimp only
  repeat' first
    | (with_reducible assumption)
    | (split)
    | (with_reducible refine Frame.foldl ?_ ?_)
    | (exact Nat.zero_and _)
    | (exact Frame.sub hL (by decide))
    | (exact Frame.bitOf hL (by decide))
    | (intro u hu x hx)
    | (intro u hu)
    | (refine Frame.bitMem (by with_reducible assumption) ?_)
    | (refine Frame.sub_all hL (by first | decide | (simp only [List.map_cons, List.map_nil]; decide)))
    | (refine Frame.bitMemFst (by with_reducible assumption) ?_)
    | (with_reducible apply Frame.emit)
    | (with_reducible apply Frame.accessErr)
    | decide

/-- What `State.writeGroup` may write: register fields by number, memory at 1000. -/
def W.writeGroup : Nat := 0xf001c00000

theorem Frame.writeGroup {M : Nat} {s0 s : State} {off : Nat} {port : Nat} {width : Nat} (hk0 : Frame M s0 s)
    (hL : W.writeGroup &&& M = W.writeGroup) : Frame M s0 (State.writeGroup s off port width) := by
  unfold State.writeGroup
  try dsimp only
  repeat' first
    | (with_reducible assumption)
    | (split)
    | (with_reducible refine Frame.foldl ?_ ?_)
    | (exact Nat.zero_and _)
    | (exact Frame.sub hL (by decide))
    | (exact Frame.bitOf hL (by decide))
    | (intro u hu x hx)
    | (intro u hu)
    | (refine Frame.bitMem (by with_reducible assumption) ?_)
    | (refine Frame.sub_all hL (by first | decide | (simp only [List.map_cons, List.map_nil]; decide)))
    | (refine Frame.bitMemFst (by with_reducible assumption) ?_)
    | (with_reducible apply Frame.emit)
    | (with_reducible apply Frame.accessErr)
    | (with_reducible apply Frame.writeNowhere)
    | (with_reducible refine Frame.fst ?_ (by with_reducible assumption))
    | (with_reducible refine Frame.snd ?_ (by with_reducible assumption))
    | (with_reducible refine Frame.mk_other ?_)
    | decide

/-- What `State.writeEngWindow` may write: register fields by number, memory at 1000. -/
def W.writeEngWindow : Nat := 0xf001c00000

theorem Frame.writeEngWindow {M : Nat} {s0 s : State} {off : Nat} {port : Nat} {width : Nat} (hk0 : Frame M s0 s)
    (hL : W.writeEngWindow &&& M = W.writeEngWindow) : Frame M s0 (State.writeEngWindow s off port width) := by
  unfold State.writeEngWindow
  try dsimp only
  repeat' first
    | (with_reducible assumption)
    | (split)
    | (with_reducible refine Frame.foldl ?_ ?_)
    | (exact Nat.zero_and _)
    | (exact Frame.sub hL (by decide))
    | (exact Frame.bitOf hL (by decide))
    | (intro u hu x hx)
    | (intro u hu)
    | (refine Frame.bitMem (by with_reducible assumption) ?_)
    | (refine Frame.sub_all hL (by first | decide | (simp only [List.map_cons, List.map_nil]; decide)))
    | (refine Frame.bitMemFst (by with_reducible assumption) ?_)
    | (with_reducible apply Frame.emit)
    | (with_reducible apply Frame.accessErr)
    | decide

end Sys2Proof.Machine
end

