-- ==== Sys2Proof/Laws/Power.lean ====
section
/-! SUPPORT. The rises of power domains (R420, R429): what the pass over the rising domains does to each of them. -/

namespace Sys2Proof.Machine

set_option Elab.async false
set_option linter.all false

theorem State.dom_wr (s : State) (f : Fld) (i v d : Nat) : (s.wr f i v).dom d = s.dom d := rfl

theorem State.railSet_rd (s : State) {k : Nat} {on : Bool} {f : Fld} {i : Nat} (h : F.PWR_POLk.READY.num ≠ f.num) :
    (s.railSet k on).rd f i = s.rd f i := by
  unfold State.railSet
  cases on
  · simp only [Bool.false_eq_true, if_false]
    rw [State.rd_wr_fld _ _ h, State.emit_rd]
  · simp only [if_true, State.emit_rd]

theorem State.railSet_doms (s : State) (k : Nat) (on : Bool) : (s.railSet k on).doms = s.doms := by
  unfold State.railSet
  cases on <;> rfl

theorem State.rails_rd (l : List Nat) (on : Bool) (s : State) {f : Fld} {i : Nat} (h : F.PWR_POLk.READY.num ≠ f.num) :
    (l.foldl (fun s k => s.railSet k on) s).rd f i = s.rd f i := by
  induction l generalizing s with
  | nil => rfl
  | cons a r ih => rw [List.foldl_cons, ih, State.railSet_rd _ h]

theorem State.rails_doms (l : List Nat) (on : Bool) (s : State) : (l.foldl (fun s k => s.railSet k on) s).doms = s.doms := by
  induction l generalizing s with
  | nil => rfl
  | cons a r ih => rw [List.foldl_cons, ih, State.railSet_doms]

theorem State.beginRegulator_stage (s : State) (d : Nat) : (s.beginRegulator d).rd F.PWR_Dd_STATE.STAGE d = 1 := by
  unfold State.beginRegulator
  dsimp only
  split
  · rw [State.rails_rd _ _ _ (by decide), State.rd_wr_same]; rfl
  · rw [State.rd_wr_same]; rfl

theorem State.beginRegulator_rd (s : State) {d : Nat} {f : Fld} {i : Nat} (h : F.PWR_POLk.READY.num ≠ f.num)
    (h2 : F.PWR_Dd_STATE.STAGE.num ≠ f.num ∨ d ≠ i) : (s.beginRegulator d).rd f i = s.rd f i := by
  unfold State.beginRegulator
  dsimp only
  split
  · rw [State.rails_rd _ _ _ h, State.rd_wr_other _ _ h2]
  · rw [State.rd_wr_other _ _ h2]

theorem State.beginRegulator_doms (s : State) (d : Nat) : (s.beginRegulator d).doms = s.doms := by
  unfold State.beginRegulator
  dsimp only
  split
  · rw [State.rails_doms]; rfl
  · rfl

/-- A rising domain at the start of its rise whose lower layers are ON. -/
def State.ready (s : State) (d : Nat) : Bool :=
  decide (s.pw d = pwRISING ∧ s.rd F.PWR_Dd_STATE.STAGE d = 0 ∧ s.layersOn d)

def State.riseStep (s : State) (d : Nat) : State :=
  if s.pw d = pwRISING ∧ s.rd F.PWR_Dd_STATE.STAGE d = 0 ∧ s.layersOn d then s.beginRegulator d else s

theorem State.advanceRises_eq (s : State) : s.advanceRises = (List.range 57).foldl State.riseStep s := rfl

theorem State.riseStep_rd (s : State) {d : Nat} {f : Fld} {i : Nat} (h : F.PWR_POLk.READY.num ≠ f.num)
    (h2 : F.PWR_Dd_STATE.STAGE.num ≠ f.num ∨ d ≠ i) : (s.riseStep d).rd f i = s.rd f i := by
  unfold State.riseStep
  split
  · exact State.beginRegulator_rd _ h h2
  · rfl

theorem State.riseStep_doms (s : State) (d : Nat) : (s.riseStep d).doms = s.doms := by
  unfold State.riseStep
  split
  · exact State.beginRegulator_doms _ _
  · rfl

theorem State.riseStep_pw (s : State) (d e : Nat) : (s.riseStep d).pw e = s.pw e := by
  unfold State.pw
  rw [State.riseStep_rd _ (by decide) (.inl (by decide))]

theorem State.riseStep_layersOn (s : State) (d e : Nat) : (s.riseStep d).layersOn e = s.layersOn e := by
  unfold State.layersOn State.dom State.on
  rw [State.riseStep_doms]
  congr 1
  funext x
  rw [State.riseStep_pw]

theorem State.riseSteps_rd (l : List Nat) (s : State) {f : Fld} {i : Nat} (h : F.PWR_POLk.READY.num ≠ f.num)
    (h2 : F.PWR_Dd_STATE.STAGE.num ≠ f.num ∨ i ∉ l) : (l.foldl State.riseStep s).rd f i = s.rd f i := by
  induction l generalizing s with
  | nil => rfl
  | cons a r ih =>
    rw [List.foldl_cons, ih _ (h2.imp id (fun hm hr => hm (List.mem_cons_of_mem _ hr))), State.riseStep_rd _ h
      (h2.imp id (fun hm e => hm (by rw [e]; exact List.mem_cons_self)))]

theorem State.riseSteps_stage (l : List Nat) (hl : l.Nodup) (s : State) (d : Nat) (hd : d ∈ l) :
    (l.foldl State.riseStep s).rd F.PWR_Dd_STATE.STAGE d =
      if s.pw d = pwRISING ∧ s.rd F.PWR_Dd_STATE.STAGE d = 0 ∧ s.layersOn d then 1 else s.rd F.PWR_Dd_STATE.STAGE d := by
  induction l generalizing s with
  | nil => cases hd
  | cons a r ih =>
    rw [List.nodup_cons] at hl
    rw [List.foldl_cons]
    by_cases e : a = d
    · subst e
      rw [State.riseSteps_rd _ _ (by decide) (.inr hl.1)]
      unfold State.riseStep
      split
      · exact State.beginRegulator_stage _ _
      · rfl
    · have hr : d ∈ r := by
        rcases List.mem_cons.1 hd with h | h
        · exact absurd h.symm e
        · exact h
      rw [ih hl.2 _ hr, State.riseStep_pw, State.riseStep_layersOn, State.riseStep_rd _ (by decide) (.inr e)]

/-- The pass over the rising domains: each one at the start of its rise with its lower layers ON begins step 1. -/
theorem State.advanceRises_stage (s : State) {d : Nat} (hd : d < 57) : s.advanceRises.rd F.PWR_Dd_STATE.STAGE d =
    if s.pw d = pwRISING ∧ s.rd F.PWR_Dd_STATE.STAGE d = 0 ∧ s.layersOn d then 1 else s.rd F.PWR_Dd_STATE.STAGE d := by
  rw [State.advanceRises_eq]
  exact State.riseSteps_stage _ List.nodup_range s d (List.mem_range.2 hd)

theorem State.advanceRises_rd (s : State) {f : Fld} {i : Nat} (h : F.PWR_POLk.READY.num ≠ f.num)
    (h2 : F.PWR_Dd_STATE.STAGE.num ≠ f.num) : s.advanceRises.rd f i = s.rd f i := by
  rw [State.advanceRises_eq, State.riseSteps_rd _ _ h (.inl h2)]

theorem State.advanceRises_pw (s : State) (d : Nat) : s.advanceRises.pw d = s.pw d := by
  unfold State.pw
  rw [State.advanceRises_rd _ (by decide) (by decide)]

theorem State.riseSteps_doms (l : List Nat) (s : State) : (l.foldl State.riseStep s).doms = s.doms := by
  induction l generalizing s with
  | nil => rfl
  | cons a r ih => rw [List.foldl_cons, ih, State.riseStep_doms]

theorem State.advanceRises_dom (s : State) (d : Nat) : s.advanceRises.dom d = s.dom d := by
  unfold State.dom
  rw [State.advanceRises_eq, State.riseSteps_doms]

/-- A rise of a domain: its state, stage, record and counts. -/
theorem State.startRise_pw (s : State) {d n : Nat} {l : List Nat} (hd : d < 57) (e : Nat) :
    (s.startRise d n l).pw e = if e = d then pwRISING else s.pw e := by
  unfold State.startRise State.incSat
  dsimp only
  unfold State.pw
  split
  · rw [State.rd_wr_fld _ _ (by decide), State.rd_wr_fld _ _ (by decide), State.rd_wr_fld _ _ (by decide),
      State.rd_wr_fld _ _ (by decide)]
    by_cases h : e = d
    · subst h; rw [State.rd_wr_same, if_pos rfl]; decide
    · rw [State.rd_wr_other _ _ (.inr (Ne.symm h)), if_neg h, State.setDom_rd]
  · rename_i h
    rw [if_neg (by omega)]

theorem State.startRise_stage (s : State) {d n : Nat} {l : List Nat} (e : Nat) :
    (s.startRise d n l).rd F.PWR_Dd_STATE.STAGE e = if e = d then 0 else s.rd F.PWR_Dd_STATE.STAGE e := by
  unfold State.startRise State.incSat
  dsimp only
  rw [State.rd_wr_fld _ _ (by decide), State.rd_wr_fld _ _ (by decide)]
  by_cases h : e = d
  · subst h; rw [State.rd_wr_same, if_pos rfl]; decide
  · rw [State.rd_wr_other _ _ (.inr (Ne.symm h)), if_neg h, State.rd_wr_fld _ _ (by decide), State.rd_wr_fld _ _ (by decide),
      State.setDom_rd]

theorem State.startRise_waitFor (s : State) {d n : Nat} {l : List Nat} (e : Nat) :
    ((s.startRise d n l).dom e).waitFor = if e = d then l else (s.dom e).waitFor := by
  unfold State.startRise State.incSat
  dsimp only
  simp only [State.wr_dom]
  by_cases h : e = d
  · subst h; rw [State.setDom_dom_same, if_pos rfl]
  · rw [State.setDom_dom_other _ _ (Ne.symm h), if_neg h]

end Sys2Proof.Machine
end

