-- ==== Sys2Proof/Laws/Reset.lean ====
section
/-! SUPPORT. What a complex or soft reset leaves (R35, R36), register by register. -/

namespace Sys2Proof.Machine

set_option Elab.async false
set_option linter.all false

/-- The registers after the clearing of a reset: the kept ones as they were, the others at their reset values. -/
theorem State.cleared_rd (s : State) (f : Fld) (i : Nat) :
    s.cleared.rd f i = if keptField (f.num, i) then s.rd f i else f.resetAt i := by
  have h : s.cleared.fields = s.fields.filter (fun (e : Key × Nat) => keptField e.1) := rfl
  unfold State.rd smGet
  rw [h, smFind_filter]
  split <;> rfl

/-- Switching rails off changes no register but the rails' READY bits. -/
theorem State.railsDrop_rd (s : State) {f : Fld} (i : Nat) (h : F.PWR_POLk.READY.num ≠ f.num) :
    s.railsDrop.rd f i = s.rd f i := by
  refine (Frame.railsDrop (M := W.railsDrop) (Frame.refl _ s) (Nat.and_self _)).regs f i ?_
  have e : W.railsDrop = 2 ^ F.PWR_POLk.READY.num := by decide +kernel
  rw [e, Nat.testBit_two_pow]
  exact decide_eq_false h

theorem State.railsDrop_mem (s : State) : s.railsDrop.hostMem = s.hostMem ∧ s.railsDrop.scratch = s.scratch :=
  (Frame.railsDrop (Frame.refl W.railsDrop s) (by decide)).mem (by decide)

/-- The registers after a complex or soft reset. -/
theorem State.resetComplex_rd (s : State) {f : Fld} (i : Nat) (h : F.TB_EPOCH.COUNT.num ≠ f.num)
    (h2 : F.PWR_POLk.READY.num ≠ f.num) :
    s.resetComplex.rd f i = if keptField (f.num, i) then s.rd f i else f.resetAt i := by
  unfold State.resetComplex State.incWrap
  rw [State.rd_wr_fld _ _ h, State.cleared_rd, State.railsDrop_rd _ _ h2]

/-- A reset keeps both memories (log entry 43). -/
theorem State.resetComplex_mem (s : State) : s.resetComplex.hostMem = s.hostMem ∧ s.resetComplex.scratch = s.scratch := by
  have h1 : ∀ u : State, u.cleared.hostMem = u.hostMem := fun _ => rfl
  have h2 : ∀ u : State, u.cleared.scratch = u.scratch := fun _ => rfl
  unfold State.resetComplex State.incWrap
  rw [State.wr_hostMem, State.wr_scratch, h1, h2]
  exact State.railsDrop_mem s

/-- TB_EPOCH increments (R41). -/
theorem State.resetComplex_epoch (s : State) :
    s.resetComplex.rd F.TB_EPOCH.COUNT 0 = (s.rd F.TB_EPOCH.COUNT 0 + 1) % 2 ^ 32 := by
  unfold State.resetComplex State.incWrap
  rw [State.rd_wr_same, State.cleared_rd, if_pos (by decide), State.railsDrop_rd _ _ (by decide)]
  rfl

/-- The sleep ledger outlives a complex or soft reset (R35, R70). -/
theorem keptField_ledger : keptField (F.TB_LEDGER.TICKS.num, 0) = true := by decide +kernel

/-- The registers after an island cold reset: the clock block's signals as they were, the others at their reset values. -/
theorem State.coldCleared_rd (s : State) (byPin : Bool) (f : Fld) (i : Nat) :
    (s.coldCleared byPin).rd f i = if clockField f.num then s.rd f i else f.resetAt i := by
  have h : (s.coldCleared byPin).fields = s.fields.filter (fun (e : Key × Nat) => (fun k : Key => clockField k.1) e.1) := rfl
  unfold State.rd smGet
  rw [h, smFind_filter s.fields (fun k => clockField k.1)]
  split <;> rfl

end Sys2Proof.Machine
end

