-- ==== Sys2Proof/Laws/Timebase.lean ====
section
/-! SUPPORT. What one core cycle does to the counters (R41, R49, R70). -/

namespace Sys2Proof.Machine

set_option Elab.async false
set_option linter.all false

theorem State.ledgerCycle_eq (s : State) : s.ledgerCycle =
    (s.putTb { s.tb with ledgerSub := (s.tb.ledgerSub + s.tbStep) % (40 * 2 ^ 32) }).incWrap
      F.TB_LEDGER.TICKS 0 ((s.tb.ledgerSub + s.tbStep) / (40 * 2 ^ 32)) := rfl

theorem Timebase.ledgerSub_ctc (b : Timebase) (n : Nat) : ({ b with ledgerSub := n } : Timebase).ctc = b.ctc := rfl

theorem State.coreCycle_eq (s : State) :
    s.coreCycle = s.ledgerCycle.putMon { s.ledgerCycle.mon with cycles := s.ledgerCycle.mon.cycles + 1 } := rfl

theorem State.coreCycle_rd (s : State) {f : Fld} {i : Nat} (h : F.TB_LEDGER.TICKS.num ≠ f.num) :
    s.coreCycle.rd f i = s.rd f i := by
  rw [State.coreCycle_eq, State.putMon_rd, State.ledgerCycle_eq, State.incWrap, State.rd_wr_fld _ _ h, State.putTb_rd]

theorem State.coreCycle_ledger (s : State) : s.coreCycle.rd F.TB_LEDGER.TICKS 0 =
    (s.rd F.TB_LEDGER.TICKS 0 + (s.tb.ledgerSub + s.tbStep) / (40 * 2 ^ 32)) % 2 ^ 64 := by
  rw [State.coreCycle_eq, State.putMon_rd, State.ledgerCycle_eq, State.incWrap, State.rd_wr_same, State.putTb_rd,
    show F.TB_LEDGER.TICKS.w = 64 from rfl]

@[simp] theorem State.coreCycle_ctc (s : State) : s.coreCycle.tb.ctc = s.tb.ctc := by
  rw [State.coreCycle_eq, State.putMon_tb, State.ledgerCycle_eq, State.incWrap, State.wr_tb, State.putTb_tb,
    Timebase.ledgerSub_ctc]

theorem State.coreCycle_tbStep (s : State) : s.coreCycle.tbStep = s.tbStep := by
  unfold State.tbStep
  rw [State.coreCycle_rd _ (by decide), State.coreCycle_rd _ (by decide)]

theorem State.missSlots_ctc (s : State) : s.missSlots.tb.ctc = s.tb.ctc := by
  unfold State.missSlots
  exact congrArg Timebase.ctc (EventOnly.tb (EventOnly.foldl (EventOnly.refl s) (fun u hu x _ => by
    split
    · exact EventOnly.wr hu
    · exact hu)))

theorem State.tideMoved_ctc (s : State) (w : Int) : (s.tideMoved w).tb.ctc = s.tb.ctc := by
  unfold State.tideMoved
  split
  · exact State.missSlots_ctc s
  · rfl

/-- A jump of the tide leaves the CTC alone. -/
theorem State.jumpFrom_ctc (s : State) (w : Int) : (s.jumpFrom w).tb.ctc = s.tb.ctc := by
  unfold State.jumpFrom
  split
  · rfl
  · dsimp only
    split
    · rfl
    · rw [EventOnly.tb (EventOnly.tbEvent (EventOnly.refl _)), State.tideMoved_ctc, State.wr_tb, State.putTb_tb]

/-- The tide's cycle leaves the CTC alone. -/
theorem State.tideCycle_ctc (s : State) : s.tideCycle.tb.ctc = s.tb.ctc := by
  unfold State.tideCycle
  dsimp only
  split
  · exact State.jumpFrom_ctc _ _
  · split <;> rfl

theorem State.strobe_ctc (s : State) (w : Int) : (s.strobe w).tb.ctc = s.tb.ctc := by
  unfold State.strobe
  split <;> rfl

theorem State.checkFar_ctc (s : State) : s.checkFar.tb.ctc = s.tb.ctc := by
  unfold State.checkFar
  split
  · rw [EventOnly.tb (EventOnly.tbEvent (EventOnly.refl _))]
  · rfl

theorem State.calTick_ctc (s : State) : s.calTick.tb.ctc = s.tb.ctc := by
  unfold State.calTick
  split
  · split <;> rfl
  · rfl

theorem State.tideTick_ctc (s : State) : s.tideTick.tb.ctc = (s.tb.ctc + s.tbStep) % 2 ^ 96 := by
  have h : (((s.advanceCtc.tideCycle).strobe s.tide).checkFar.calTick).tb.ctc = (s.tb.ctc + s.tbStep) % 2 ^ 96 := by
    rw [State.calTick_ctc, State.checkFar_ctc, State.strobe_ctc, State.tideCycle_ctc]; rfl
  unfold State.tideTick
  dsimp only
  split
  · exact h
  · rw [EventOnly.tb (EventOnly.blockEvent (EventOnly.refl _)), h]

/-- Cycles counted as backlog are events only. -/
theorem State.backlogCycles_only (s : State) : EventOnly s s.backlogCycles := by
  unfold State.backlogCycles
  dsimp only
  repeat' first
    | exact EventOnly.refl s
    | split
    | refine EventOnly.blockEvent ?_

@[simp] theorem State.backlogCycles_ctc (s : State) : s.backlogCycles.tb.ctc = s.tb.ctc := by
  rw [EventOnly.tb s.backlogCycles_only]

theorem State.backlogCycles_rd (s : State) {f : Fld} {i : Nat} (h : W.backlogCycles.testBit f.num = false) :
    s.backlogCycles.rd f i = s.rd f i :=
  (Frame.backlogCycles (Frame.refl W.backlogCycles s) (Nat.and_self _)).1 f i h

theorem State.tick_on (s : State) (h1 : s.bnd.oscOk = true) (h2 : s.on 56 = true) :
    s.tick = s.backlogCycles.coreCycle.tideTick := by
  simp [State.tick, h1, h2]

theorem State.tick_off (s : State) (h1 : s.bnd.oscOk = true) (h2 : s.on 56 = false) :
    s.tick = s.backlogCycles.coreCycle := by
  simp [State.tick, h1, h2]

end Sys2Proof.Machine
end

