-- ==== Sys2Proof/Machine/Balls.lean ====
section
/-! DEFINITION. The balls the complex drives: their levels in every state of the machine (01_boundary.md R13 to R18, R23,
R25, R37 to R39). Voltages, currents and edge times are electrical and stand outside the model. -/

namespace Sys2Proof.Machine

/-- The balls the complex drives, the serial pairs, data of the management buses and of the test multiplexer apart. -/
inductive Ball where
  | txdis (tree : Nat)
  | rxrst (tree : Nat)
  | ppsOut
  | fstrobeOut
  | pwrGoodOut
  | wakeOut
  deriving DecidableEq, Repr

/-- The island is out of reset, its supply within limits and its oscillator stable (R37 step 3). -/
def State.islandLive (s : State) : Bool := s.bnd.supplyOk && s.bnd.islandUp && s.bnd.oscOk

/-- The complex is held in reset. -/
def State.held (s : State) : Bool := s.bnd.cplxRst || s.bnd.softRst

/-- The level a ball idles at or shows now, none while it is high-impedance (R39). TXDIS is R14's; RXRST idles opposite to
its pulse, low while the complex is in reset (its pulses are `Output.rxrst`); PPS_OUT stays high 100 µs from its edge and
FSTROBE_OUT 1,024 ns from ⟨F, 0⟩ (R13), low while the timebase is not ON (R23); PWR_GOOD_OUT is high while the island is out
of reset with its supply within limits (R25); WAKE_OUT until every domain woken is ON (R25). -/
def State.ball (s : State) : Ball → Option Bool
  | .txdis t => if s.islandLive then some (s.txdis t) else none
  | .rxrst t => if s.islandLive then some (!s.held && s.flag F.TRE_OPTIC.RXRST_POL t) else none
  | .ppsOut =>
    if s.islandLive then
      some (s.on 56 && !s.held && s.tb.lastPps.any (fun c => decide ((s.tb.ctc : Int) - c < 100000 * 2 ^ 32)))
    else none
  | .fstrobeOut => if s.islandLive then some (s.on 56 && !s.held && decide (phaseOf s.tide < 1024 * 256)) else none
  | .pwrGoodOut => if s.bnd.supplyOk then some s.islandLive else none
  | .wakeOut => if s.bnd.supplyOk then some (s.islandLive && decide (s.bnd.wakeOut ≠ [])) else none

/-- A tree's downstream pair is electrically idle: its pair domain is not ON or the complex is in reset (R39). -/
def State.dsIdle (s : State) (t : Nat) : Bool := s.held || !s.on (pairOf t)

/-- The fabric pairs are electrically idle: the fabric domain is not ON or the complex is in reset (R39). -/
def State.fabIdle (s : State) : Bool := s.held || !s.on 55

/-- Channel t mod 8 of the switch on bus t / 8 leads to tree t's module, and bus b serves trees 8b to 8b + 7 (R11, R19). -/
def moduleOf (bus channel : Nat) : Nat := 8 * bus + channel

/-- The reference pair that clocks a tree's lanes, and the one that clocks a fabric lane (R11). -/
def trefOf (t : Nat) : Nat := t / 16
def frefOf (lane : Nat) : Nat := lane / 8

/-- The lanes of a fabric link (R11). -/
def linkLanes (n : Nat) : Nat × Nat := (2 * n, 2 * n + 1)

end Sys2Proof.Machine
end

