-- ==== Sys2Proof/WellFormed.lean ====
section
/-! DEFINITION. Which commands are well formed: the operands are ones a host, a line, a link or the complex itself can
bring. The meanings take any operand; a claim about commands as they really come may ask for a well-formed one. -/

namespace Sys2Proof

/-- A fragment's size field holds at most 16,383 bytes (R84). -/
def fragOk (f : FragSeen) : Bool := decide (f.bytes.length ≤ 16383)

/-- A burst's header names one of 1,024 ONU-IDs, and a DBRu reports 24 bits (R116, R118). -/
def burstOk (b : BurstSeen) : Bool :=
  decide (b.onuId < 1024) && b.parts.all (fun p => p.frags.all fragOk)

/-- An allocation structure's fields fit the map (R164, R169). -/
def grantOk (g : Grant) : Bool :=
  decide (g.alloc ≤ 4096) && decide (g.term < 1024) && decide (g.bprof < 4) && decide (g.rate < 3) && decide (g.kind < 3)

/-- A well-formed command. -/
def Instr.wf : Instr → Bool
  | .registerWrite _ off width v _ => (width == 1 || width == 2 || width == 4 || width == 8) && decide (off < 2 ^ 32) && decide (v.toNat < 2 ^ (8 * width))
  | .halfReadLatch _ off _ => decide (off < 2 ^ 32)
  | .readClear _ off width _ => (width == 1 || width == 2 || width == 4 || width == 8) && decide (off < 2 ^ 32)
  | .csWindowRead _ _ off _ => decide (off < 0x40000)
  | .brownOutWarning mv => decide (mv < 2 ^ 16)
  | .brownOutClear mv => decide (mv < 2 ^ 16)
  | .bbOver mv => decide (mv < 2 ^ 16)
  | .burstHunt _ seen => seen.all burstOk
  | .registrationIdReceived _ _ regId => regId.length == 36
  | .upstreamPloamReceived _ _ msg _ => msg.length == 48
  | .sluiceUnitFault _ fault => fault.all (fun x => decide (1 ≤ x.2.val) && decide (x.2.val ≤ 8))
  | .trunkIngress _ hdr frame => hdr.length == 16 && !frame.isEmpty
  | .codewordLock _ _ words => words.length == 4 && words.all (fun w => w.length == 80)
  | .codewordReceived _ blocks => blocks.length == 80
  | .helloReceived _ h => decide (h.serial < 2 ^ 64) && decide (h.addr < 128) && decide (h.link < 8)
  | .cellReceived _ cell => cell.length == 256
  | .claimReceived _ cell => cell.length == 256
  | .routeReceived _ cell => cell.length == 256
  | .leaseRequestReceived m => decide (m.pair < 2 ^ 16) && decide (m.from_ < 64)
  | .leaseAnswerReceived _ m => decide (m.pair < 2 ^ 16)
  | .tideCellReceived _ c => decide (c.query < 128)
  | .remoteAccessReceived m => decide (m.ch < 64) && decide (m.from_ < 64) && (!m.write || m.data.length == m.len)
  | .remoteRspReceived m => decide (m.ch < 64)
  | .handshakeReceived _ h => decide (h.role < 3) && decide (h.pairId < 2 ^ 16)
  | .tableSyncReceived _ payload _ => decide (payload.length ≤ 236)
  | .wearMeasure ratios => decide (ratios.length ≤ 58)
  | .rogueFrame _ light => light.all (fun x => decide (x.1 ≤ x.2))
  | .mapBuild _ wrong => wrong.all (fun w => w.2.all grantOk)
  | .devInfo _ | .hostSleepNotice _ | .ringCreate _ | .ringDestroy _ | .ringDisable _ | .evqCreate _
  | .bufferConfig _ | .bufferStatus _ | .queueProfile _ | .queueSet _ | .queueStatus _ | .treeConfig _
  | .treeEnable _ | .burstProfile _ | .terminalAdd _ | .terminalSet _ | .terminalRemove _ | .terminalStatus _
  | .flowSet _ | .quench _ | .allocSet _ | .tableInsert _ | .tableDelete _ | .tableDump _ | .tableProfile _
  | .tableConfig _ | .tableStatus _ | .filterSet _ | .timeSelect _ | .pwrRequest _ | .pwrStatus _ | .protPair _
  | .protSwitch _ | .protStatus _ | .fabStatus _ | .fwLoad _ | .fwStart _ | .fwStatus _ | .healthReport _
  | .counterSnapshot _ | .debugUnlock _ _ | .keyStage _ | .keySwitchAt _ | .keyErase _ | .tableBulkInsertDone
  | .tableDumpDone | .patternDeleteDone | .fwLoadReadDone _ _ | .flowHarvestDone | .protHandshakeDone _ _
  | .engineRecoveryDone _ _ | .mbxGo _ _ _ | .softReset _ _ | .txdisAll _ _ | .treModCmdStart _ _ _
  | .modTransactionDone _ _ _ _ | .clockStretchTimeout _ | .modulePoll | .treUsSnPop _ _ _ | .tbSet _ _ _
  | .tbAdj _ _ _ | .tbRateWrite _ _ _ | .tideOriginWrite _ _ | .todArm _ _ _ | .doorbell _ _ _ _ | .dmaStart _ _ _
  | .dmaResume _ _ _ | .dmaFence _ _ _ | .dmaDisable _ _ _ | .dmaKick _ _ _ | .sluSwap _ _ | .sluRetest _ _
  | .fabReclaim _ _ | .pwrWake _ _ | .snapNow _ _ | .snapArm _ _ | .snapDisarm _ _ | .vectorUnmask _ _ _
  | .eqOverflowClear _ _ _ | .legacyRead _ | .islandColdReset _ | .islandResetRelease | .oscillatorStable _ _
  | .complexReset | .complexResetRelease | .mbxReady | .siteTrained _ | .tableEngineInitDone | .ppsInEdge _
  | .ppsOutEdge | .coreClockChange _ | .freqHoldoverChange _ | .tideJump | .ledgerCalibration | .lightAccepted _
  | .sentinelRearm _ | .wakeDelimiterMatch _ _ | .fabricActivityWake | .laneLockLost _ | .domainPowerLoss _
  | .polRailReady _ | .polRailTimeout _ | .lockstepMismatch | .cpRestartDone _ | .cipherEraseNotice _
  | .dsFrameStart _ | .mapLatch _ | .drawFrame _ _ | .keySwap _ | .retiredBankExpire _ | .treeStart _
  | .treeDormant _ | .surveyWake _ | .surveyEnd _ | .ploamHeldQueued _ | .burstProfileAnnounce _
  | .stagingRefill _ _ _ _ | .orphanReclaim | .rxrstPulse _ | .reassemblyTimeout _ _ | .serialNumberReceived _ _ _
  | .rangingResponse _ _ _ | .rangingFailed _ _ | .terminalOperation _ _ | .terminalLost _ _ | .lostLimit _ _
  | .recordUnused _ _ | .sleepRequest _ _ _ | .sleepWindowBoundary _ _ | .isolationSweepStep _ | .mapRelease _
  | .sluiceSelfTestDone _ _ | .sluiceRetestTimer _ | .sluiceHot _ | .forecastRecord _ | .lookupDownstream _
  | .lookupUpstream _ | .learnApply | .ageingSweep | .tableScrub _ _ _ _ | .trunkSend _ | .creditReturn _ _ _
  | .feNotReady | .feReady | .spillWrite _ _ | .spillReadback _ _ | .txDescriptor _ _ _ | .txWaitResume _ _
  | .rxDeliver _ _ _ | .rxHoldExpire _ | .ringIdle _ | .eventPost _ _ | .vectorTimer _ | .rakeBurst _
  | .rakeBurstError _ _ | .rakeArmedStart _ | .peripheralRequestRise _ | .fenceDone _ | .fenceTimeout _ _
  | .engineEvent _ _ _ | .routineEntry _ | .next _ _ | .jump _ _ | .brt _ _ | .brf _ _ | .call _ _ | .ret _ _
  | .wait _ _ | .commit _ _ | .end_ _ _ | .halt _ _ | .mopResult _ _ _ _ _ | .portTimeout _ | .routineWatchdog _
  | .dispatchOpcode _ | .engineStart _ | .engineStop _ | .engineLoadDone _ _ | .csScrub _ _ _ | .samplerFire _
  | .domainEntryDone _ | .domainStageReady _ | .idleTimer _ | .scheduledRequest _ | .startupPowerRequest
  | .blockLockChange _ _ _ | .helloSend _ | .helloDead _ | .claimRepeat | .claimTimer | .unaddressedTimer
  | .routePeriodic | .routeAgeOut | .routeRecompute | .tideCellSend _ | .digestReceived _ _ _ | .statusReceived _ _ _
  | .deltaReceived _ _ _ _ | .copyReceived _ _ _ _ | .leaveReceived _ _ _ | .leaseRequestTimer _ | .leaseExpire _
  | .takingTimeout _ | .snapshotAt | .healthPoint | .nonceExpiry | .tmxUnlockExpiry | .fabLinkEnWrite _ _ _
  | .polRailWrite _ _ _ | .bwFramesWrite _ _ | .telemetryEnWrite _ _ _ | .quenchFromPartner _ _ => true

end Sys2Proof
end

