-- ==== Sys2Proof/Tests/Slice0.lean ====
section
/-! SUPPORT. Tests: what WellFormed refuses, one small check per group of commands, and for every statement with hypotheses
a state and operands that meet them. -/

namespace Sys2Proof.Tests
open Sys2Proof Sys2Proof.Machine

set_option Elab.async false

/-- The machine with the complex out of reset and every power domain ON. -/
def up : State :=
  { State.reset with
    bnd := { State.reset.bnd with cplxRst := false },
    fields := (List.range 57).map (fun d => ((F.PWR_Dd_STATE.STATE.num, d), pwON)) }

/-- The next state of a command that completes. -/
def after (c : Instr) (s : State) : State :=
  match exec c s with
  | .next t => t
  | _ => s

/-- A control image. -/
def ctl : Image := ⟨1, 1, 0, 7, [⟨0, 1, 0, 9⟩], [], false⟩

/-- `up` with the control image running, every site trained and the control processor in service. -/
def served : State :=
  (((up.setSlots 1 ⟨none, some ctl, none⟩).wr F.GLB_STATUS.MBX_READY 0 1).wr F.GLB_STATUS.SITE_OK 0 15).wr
    F.MBX_DEVSTATE.STATE 0 svSERVICE

/-- The 64 bytes of a request. -/
def request (code tag flags : Nat) (p : List Byte) : List Byte :=
  leBytes 2 code ++ leBytes 2 tag ++ leBytes 2 flags ++ leBytes 2 p.length ++ p ++ zeros (56 - p.length)

/-- A request stands in mailbox 3 of a state, with GO. -/
def ask (code : Nat) (p : List Byte) (s : State) : State :=
  ((List.range 16).foldl (fun s k => s.wr F.MBX_n_REQ.DATA (48 + k) (leAt (request code 5 0 p) (4 * k) 4)) s).wr
    F.MBX_n_STATUS.BUSY 3 1

/-- Whether a request in mailbox 3 is next, no replay, and passes the common checks with the payload it was given. -/
def given (s : State) (code : Nat) (boot restricted : Bool) (p : List Byte) : Bool :=
  s.takes (.mbx 3) code (s.mbxRequest 3) && (s.replayOf (.mbx 3) (s.mbxRequest 3)).isNone &&
    (s.headerCheck (s.mbxRequest 3) boot restricted).isNone && decide (payloadOf (s.mbxRequest 3) = p ++ zeros (56 - p.length))

theorem given_of {s : State} {code : Nat} {boot restricted : Bool} {p : List Byte} (h : given s code boot restricted p = true) :
    Given s (.mbx 3) code boot restricted (p ++ zeros (56 - p.length)) := by
  unfold given at h
  simp only [Bool.and_eq_true, Option.isNone_iff_eq_none, decide_eq_true_eq] at h
  exact ⟨_, h.1.1.1, h.1.1.2, h.1.2, h.2⟩

/-- The status, detail and payload that stand in mailbox 3. -/
def rsp (s : State) : List Byte := (List.range 16).flatMap (fun k => leBytes 4 (s.rd F.MBX_n_RSP.DATA (48 + k)))
def status (s : State) : Nat := byteAt (rsp s) 0

/-! ### Calvan and the control processor -/

theorem test_devInfo : given (ask 1 [] served) 1 true true [] = true := by decide +kernel
theorem test_header : (ask 0x0202 [] (served.wr F.MBX_DEVSTATE.STATE 0 svRESTRICTED)).takes (.mbx 3) 0x0202
      ((ask 0x0202 [] (served.wr F.MBX_DEVSTATE.STATE 0 svRESTRICTED)).mbxRequest 3) = true ∧
    byteAt (rsp (after (.treeEnable (.mbx 3)) (ask 0x0202 [] (served.wr F.MBX_DEVSTATE.STATE 0 svRESTRICTED)))) 1 = 0xE1 := by
  decide +kernel

/-- `served` after FW_STATUS was answered and asked again with the same tag. -/
def again : State := (after (.fwStatus (.mbx 3)) (ask 0x0803 [1#8] served)).wr F.MBX_n_STATUS.BUSY 3 1

theorem test_replay : ((again.replayOf (.mbx 3) (again.mbxRequest 3)).map (fun t => t.rsp.length)) = some 64 ∧
    again.takes (.mbx 3) 0x0803 (again.mbxRequest 3) = true ∧
    (after (.fwStatus (.mbx 3)) again).flag F.MBX_n_STATUS.REPLAYED 3 = true := by decide +kernel
theorem test_mbxGo : served.flag F.MBX_n_STATUS.BUSY 3 = false ∧
    (after (.mbxGo 0 3 []) (served.wr F.MBX_n_REQ.DATA 48 1)).flag F.MBX_n_STATUS.BUSY 3 = true := by decide +kernel
theorem test_mbxGo_rejected : (after (.mbxGo 0 3 []) (ask 1 [] served)).flag F.MBX_n_STATUS.REJECTED 3 = true := by decide +kernel
theorem test_mbxReady : up.service = svBOOT ∧ (after .mbxReady up).flag F.GLB_STATUS.MBX_READY 0 = true := by decide +kernel
theorem test_siteTrained : (after (.siteTrained 2) up).rd F.GLB_STATUS.SITE_OK 0 = 4 := by decide +kernel

/-- `served` with domain B valid, asked to select it. -/
def selB : State := ask 0x0501 (1#8 :: zeros 7) (after (.tbSet 0 1 9) served)

theorem test_timeSelect_refused : status (after (.timeSelect (.mbx 3)) (ask 0x0501 (1#8 :: zeros 7) served)) = stSTATE_CONFLICT ∧
    given (ask 0x0501 (1#8 :: zeros 7) (served.wr F.PWR_Dd_STATE.STATE 56 pwOFF)) 0x0501 false false (1#8 :: zeros 7) = true := by decide +kernel
theorem test_timeSelect : given selB 0x0501 false false (1#8 :: zeros 7) = true ∧ selB.flag F.TB_STATUS.B_VALID 0 = true ∧
    (after (.timeSelect (.mbx 3)) selB).sel = 1 := by decide +kernel
theorem test_fwStatus : given (ask 0x0803 [1#8] served) 0x0803 true true [1#8] = true ∧
    byteAt (rsp (after (.fwStatus (.mbx 3)) (ask 0x0803 [1#8] served))) 9 = 2 := by decide +kernel

/-- The payload of an FW_LOAD of a tree image from host memory. -/
def loadP : List Byte := leBytes 1 2 ++ zeros 3 ++ leBytes 4 272 ++ leBytes 8 0x1000

theorem test_fwLoad : given (ask 0x0801 loadP served) 0x0801 true true loadP = true ∧
    (after (.fwLoad (.mbx 3)) (ask 0x0801 loadP served)).cp.loads = [⟨.mbx 3, 2, 272, 0x1000⟩] ∧
    status (after (.fwLoadReadDone (.mbx 3) true) (after (.fwLoad (.mbx 3)) (ask 0x0801 loadP served))) = stTIMEOUT := by
  decide +kernel

/-- `served` with a staged image of kind 2 tested with the silicon and the control image. -/
def staged2 : State := ask 0x0802 [2#8] (served.setSlots 2 ⟨some ⟨2, 1, 0, 9, [⟨0, 1, 0, 9⟩, ⟨1, 1, 0, 9⟩], [], false⟩, none, none⟩)

theorem test_fwStart : given staged2 0x0802 true true [2#8] = true ∧ staged2.blockingTree 2 = none ∧
    status (after (.fwStart (.mbx 3)) staged2) = stOK ∧
    ((after (.fwStart (.mbx 3)) staged2).imageSlots 2).current = some ⟨2, 1, 0, 9, [⟨0, 1, 0, 9⟩, ⟨1, 1, 0, 9⟩], [], false⟩ := by
  decide +kernel
theorem test_fwLoad_discard : given (ask 0x0801 [2#8, 1#8] staged2) 0x0801 true true [2#8, 1#8] = true ∧ staged2.fwStateOk 2 = true ∧
    ((after (.fwLoad (.mbx 3)) (ask 0x0801 [2#8, 1#8] staged2)).imageSlots 2).staged = none := by decide +kernel
theorem test_lockstep : served.cp.mismatch = none ∧ (after .lockstepMismatch served).service = svRESTARTING ∧
    (after .lockstepMismatch (after .lockstepMismatch served)).service = svHALTED := by decide +kernel
theorem test_cpRestartDone : (after (.cpRestartDone true) (after .lockstepMismatch served)).service = svSERVICE ∧
    (after (.cpRestartDone false) (after .lockstepMismatch served)).service = svHALTED := by decide +kernel

theorem test_modulePoll : (served.wr F.TRE_STATE.STATE 9 trDORMANT).control.isNone = false ∧
    ((after .modulePoll (served.wr F.TRE_STATE.STATE 9 trDORMANT)).busQ 1).map (fun x => x.tree) = [9] := by decide +kernel

/-! ### The register window and resets -/

theorem test_window_errors : up.bnd.oscOk = true ∧ (after (.registerWrite 0 2 4 0 false) up).flag F.GLB_STATUS.BADACC 0 = true ∧
    (after (.registerWrite 1 0x4000000 8 0 false) up).flag F.GLB_STATUS.STRAY 0 = true ∧
    (after (.registerWrite 1 0x4000000 8 0 false) up).rd F.GLB_WIN_ERR.PORT 0 = 1 ∧
    (after (.registerWrite 0 2 4 0 false) (after (.islandColdReset true) State.reset)).flag F.GLB_STATUS.BADACC 0 = false ∧
    (after (.islandColdReset true) State.reset).bnd.oscOk = false := by decide +kernel
theorem test_window_register : plainOffset 0x60004 ∧ ((regAt 0x60004).map (fun r => (r.1.bytes, r.2))) = some (4, 0) ∧
    (after (.registerWrite 0 0x60000 8 0 false) up).flag F.GLB_STATUS.BADACC 0 = true ∧
    (after (.registerWrite 0 0x60004 4 0 false) (up.wr F.PWR_Dd_STATE.STATE 55 pwOFF)).flag F.GLB_STATUS.DOMACC 0 = true ∧
    (after (.registerWrite 0 0x60004 4 0x7F090205 false) up).rd F.FAB_TIMING.HELLO_DEAD 0 = 2 ∧
    (after (.registerWrite 0 0x60020 4 3 false) (up.wr F.FAB_EVENT.LINK_CHANGE 0 1)).flag F.FAB_EVENT.LINK_CHANGE 0 = false := by
  unfold plainOffset
  decide +kernel
theorem test_window_reads : ((regAt 0x60018).map (fun r => (r.1.bytes, r.2))) = some (8, 0) ∧ (regAt 0x6001C).isNone = true ∧
    (after (.halfReadLatch 0 0x60018 false) (up.wr F.FAB_MEMBERS.MEMBERS 0 0x900000005)).out = [.readData 0 5] ∧
    ((after (.halfReadLatch 0 0x60018 false) (up.wr F.FAB_MEMBERS.MEMBERS 0 0x900000005)).windowRead 0 0x6001C 4 false false).1 = 9 ∧
    (after (.readClear 0 0x6002C 4 false) (up.wr F.FAB_DROP_ROUTE.COUNT 0 6)).out = [.readData 0 6] ∧
    (after (.readClear 0 0x6002C 4 false) (up.wr F.FAB_DROP_ROUTE.COUNT 0 6)).rd F.FAB_DROP_ROUTE.COUNT 0 = 0 := by decide +kernel
theorem test_legacyRead : (up.setCnt (pageTree 3) 0x80 41).legTotal 0 3 0 = some (41, 1) ∧
    (after (.legacyRead 0) ((up.setCnt (pageTree 3) 0x80 41).wr F.PMC_LEG_ADDR.ADDR 0 (3 * 2 ^ 10))).out = [.readData 0 41] := by decide +kernel
theorem test_csWindow : ((up.wr F.PE_STATUS.CS_VALID 5 1).on (engDom 5)) = true ∧
    (after (.csWindowRead 0 5 0 []) (up.wr F.PWR_Dd_STATE.STATE 5 pwOFF)).out = [.readData 0 0xFFFFFFFF] ∧
    (after (.csWindowRead 0 5 0 []) (up.wr F.PE_STATUS.CS_VALID 5 1)).out.length = 1 := by decide +kernel
theorem test_csWindow_open : (up.wr F.PE_STATUS.CS_VALID 5 1).windowOpen 5 0 = false ∧ (up.setEng 5 { (up.eng 5) with undef := [windowPlace 0] }).windowOpen 5 0 = true ∧
    ((up.wr F.PE_STATUS.CS_VALID 5 1).upset []).wordSeen 8 5 0 = .clean := by decide +kernel
theorem test_denied : inPmc 0x200010 = true ∧ (after (.registerWrite 2 0x200010 4 1 true) up).flag F.PMC_STATUS.DENIED 0 = true ∧
    (after (.registerWrite 2 0x200010 4 1 true) up).rd F.PMC_DENY_ADDR.OFFSET 0 = 0x10 := by decide +kernel
theorem test_treeState : (after (.readClear 0 (0x80000 + 9 * 0x400) 4 false) ((up.wr F.PWR_Dd_STATE.STATE 4 pwOFF).wr F.TRE_STATE.STATE 9 trFAULT)).out =
    [.readData 0 4] := by decide +kernel
theorem test_softReset : (after (.softReset 0 0x1A5) up).bnd.softRst = true ∧ (after (.softReset 0 0x1A5) up).pw 55 = pwOFF ∧
    (after (.txdisAll 0 0x10000) up).rd F.GLB_CTL.TXDIS_ALL 0 = 1 ∧ (after .complexReset up).flag F.GLB_RST_CAUSE.COMPLEX 0 = true := by decide +kernel

/-- The island released from its reset, the complex still held; and its oscillator stable. -/
def waiting : State := after .islandResetRelease (after (.islandColdReset true) State.reset)
def stable : State := after (.oscillatorStable 1 false) waiting

theorem test_startUp : (after (.islandColdReset true) up).bnd.islandUp = false ∧ waiting.bnd.islandUp = true ∧ waiting.bnd.oscOk = false ∧
    waiting.bnd.cplxRst = true ∧ stable.bnd.oscOk = true ∧ stable.rd F.GLB_STRAP.BUS 0 = 1 ∧ (after .complexResetRelease stable).pw 54 = pwRISING ∧
    (after .complexResetRelease stable).pw 53 = pwRISING ∧ (after .complexResetRelease stable).pw 55 = pwOFF := by decide +kernel
theorem test_startUp_released : ({ waiting with bnd := { waiting.bnd with cplxRst := false } }).bnd.islandUp = true ∧
    (after (.oscillatorStable 1 false) { waiting with bnd := { waiting.bnd with cplxRst := false } }).pw 56 = pwRISING := by decide +kernel

/-! ### Module management, tide and timebase -/

/-- A write of TRE_MOD_CMD for tree 9 starts on a free bus. -/
theorem test_treModCmdStart : up.bnd.oscOk = true ∧ bit (0x20035011#32).toNat 29 = true ∧
    (after (.treModCmdStart 0 9 0x20035011#32) up).busQ 1 = [⟨9, false, 0x50, 0x11, false, 4, 0, true, 0, 0⟩] := by decide +kernel

def modRuns : State := after (.treModCmdStart 0 9 0x20005011#32) up

theorem test_modTransactionDone :
    (modRuns.busQ 1).find? (fun x => x.started) = some ⟨9, false, 0x50, 0x11, false, 1, 0, true, 0, 0⟩ ∧
    (after (.modTransactionDone 1 true 0xAB#32 ⟨0, 0, 0, 0, 0, 0, 0⟩) modRuns).rd F.TRE_MOD_DATA.DATA 9 = 0xAB := by decide +kernel

theorem test_clockStretchTimeout : (after (.clockStretchTimeout 1) modRuns).flag F.TRE_MOD_CMD.ERR 9 = true := by decide +kernel

theorem test_tbSet : up.on 56 = true ∧ (after (.tbSet 0 0 5) up).domTime 0 = 5 * 2 ^ 16 := by decide +kernel
theorem test_tbAdj : (after (.tbAdj 0 0 (-1)) (after (.tbSet 0 0 5) up)).domTime 0 = 5 * 2 ^ 16 - 1 := by decide +kernel
theorem test_tbRateWrite : (after (.tbRateWrite 0 1 7) up).rd F.TB_x_RATE.RATE 1 = 7 := by decide +kernel

/-- `up` with tree 3 ACTIVE. -/
def running3 : State := up.wr F.TRE_STATE.STATE 3 trACTIVE

theorem test_tideOrigin_refused : running3.running 3 = true ∧
    (after (.tideOriginWrite 0 9) running3).flag F.TIDE_STATUS.ORIGIN_REFUSED 0 = true := by decide +kernel
theorem test_tideOrigin_stored : (∀ t, t < 96 → up.running t = false) ∧
    (after (.tideOriginWrite 0 9) up).rd F.TIDE_ORIGIN.NS 0 = 9 := by decide +kernel
theorem test_todArm_late : boundary 3 (up.rd F.TIDE_TODn_F.F 0) ≥ up.tide ∧ bit (0x103#32).toNat 8 = true ∧
    (after (.todArm 0 0 0x103) up).rd F.TIDE_TODn_CTL.STATE 0 = 1 := by decide +kernel
theorem test_todArm_missed :
    boundary 3 0 < (up.putTb { up.tb with tideQ := 2 ^ 100 }).tide ∧
    (after (.todArm 0 0 0x103) (up.putTb { up.tb with tideQ := 2 ^ 100 })).rd F.TIDE_TODn_CTL.STATE 0 = 3 := by decide +kernel
theorem test_ppsInEdge : (after (.ppsInEdge 0) up).flag F.TB_STATUS.A_PPS 0 = true := by decide +kernel
/-- `up` with domain A one second on. -/
def second : State := after (.tbSet 0 0 1000000000) up

theorem test_ppsOutEdge : second.tb.ppsSec < second.ppsSecond ∧ second.tb.lastPps = none ∧ (after .ppsOutEdge second).out = [.ppsOut] ∧
    (after .ppsOutEdge up).out = [] := by decide +kernel
theorem test_ppsOutEdge_early : (after .ppsOutEdge (second.putTb { second.tb with lastPps := some 0 })).out = [] ∧
    (second.tb.ctc : Int) - 0 < 500000000 * 2 ^ 32 := by decide +kernel
theorem test_coreClockChange : (after (.coreClockChange 3) up).rd F.TB_STEP.FRAC 0 = 0x33333333 := by decide +kernel
theorem test_freqHoldover : (after (.freqHoldoverChange true) up).flag F.TB_STATUS.FREQ_HOLDOVER 0 = true := by decide +kernel

/-- `up` with the tide's target moved by a second. -/
def tideFar : State := after (.tbSet 0 0 1000000000) up

theorem test_tideJump : tideFar.on 56 = true ∧ tideFar.anyRunning = false ∧ tideFar.tideTarget = some (1000000000 * 2 ^ 76) ∧
    tideFar.tide ≠ 1000000000 * 2 ^ 76 / (2 ^ 68 : Nat) ∧
    (after .tideJump tideFar).flag F.TIDE_STATUS.JUMPED 0 = true := by decide +kernel

def calibrating : State := (up.putTb { up.tb with calStart := some (0, 0), calEnds := [40 * 2 ^ 56] }).wr F.TB_LEDGER.TICKS 0 (2 ^ 24)

theorem test_ledgerCalibration : calibrating.tb.calStart = some (0, 0) ∧ calibrating.tb.calEnds = [40 * 2 ^ 56] ∧
    (after .ledgerCalibration calibrating).rd F.TB_LEDGER_RATIO.RATIO 0 = 0x2800000000 := by decide +kernel


/-- A poll's first transaction of tree 9 runs on bus 1. -/
def polls : State :=
  after .modulePoll ((served.wr F.TRE_STATE.STATE 9 trDORMANT).wr F.PWR_Dd_STATE.STATE 4 pwON)

theorem test_poll_follows : ((polls.busQ 1).find? (fun x => x.started)).map (fun x => (x.tree, x.poll, x.place)) = some (9, true, 0) ∧
    ((after (.modTransactionDone 1 true 0 ⟨1, 0, 0, 0, 0, 0, 0⟩) polls).busQ 1).map (fun x => (x.dev, x.off, x.std, x.place)) = [(0x51, 127, 1, 1)] ∧
    (after (.modTransactionDone 1 false 0 ⟨1, 0, 0, 0, 0, 0, 0⟩) polls).busQ 1 = [] := by decide +kernel
theorem test_poll_ends : (smGet Optic.none_ (after (.modTransactionDone 1 true 0 ⟨0, 0, 0x1900, 33000, 0, 0, 0⟩) polls).mon.optics (9, 0)).temp = 0x1900 := by
  decide +kernel

/-! ### Host rings -/

/-- The payload of RING_CREATE for TX ring 5: START, 16 entries, no queue, base 0x10000. -/
def ringP : List Byte := leBytes 2 5 ++ [0#8, 1#8, 4#8, 0#8] ++ leBytes 2 0xFFFF ++ leBytes 8 0x10000

/-- Ring 5 RUNNING as a TX ring. -/
def tx5 : State := (served.setRing 5 { Ring.reset with typ := 0, sizeLog2 := 4, base := 0x10000 }).wr F.DB_STATUS.STATE 5 rgRUNNING

theorem test_ringCreate : given (ask 0x0101 ringP served) 0x0101 false false ringP = true ∧
    ringCreateFault (ringP ++ zeros 40) = none ∧
    (after (.ringCreate (.mbx 3)) (ask 0x0101 ringP served)).rstate 5 = rgRUNNING := by decide +kernel
theorem test_ringDisable : given (ask 0x0103 [5#8] tx5) 0x0103 false false [5#8] = true ∧
    (after (.ringDisable (.mbx 3)) (ask 0x0103 [5#8] tx5)).rstate 5 = rgDRAINING := by decide +kernel
theorem test_ringDisable_ready : (after (.ringDisable (.mbx 3)) (ask 0x0103 [5#8] (tx5.wr F.DB_STATUS.STATE 5 rgREADY))).rstate 5 = rgIDLE ∧
    (after (.ringDisable (.mbx 3)) (ask 0x0103 [5#8, 0#8, 1#8] (tx5.wr F.DB_STATUS.STATE 5 rgIDLE))).rstate 5 = rgRUNNING := by
  decide +kernel
theorem test_ringDestroy : given (ask 0x0102 [5#8] (tx5.wr F.DB_STATUS.STATE 5 rgIDLE)) 0x0102 false false [5#8] = true ∧
    (after (.ringDestroy (.mbx 3)) (ask 0x0102 [5#8] (tx5.wr F.DB_STATUS.STATE 5 rgIDLE))).rstate 5 = rgUNCREATED := by
  decide +kernel

/-- The payload of EVQ_CREATE for queue 2: 16 entries, vector 9, base 0x20000. -/
def evqP : List Byte := [2#8, 0#8, 4#8, 0#8] ++ leBytes 2 9 ++ zeros 2 ++ leBytes 8 0x20000

theorem test_evqCreate : given (ask 0x0104 evqP served) 0x0104 false false evqP = true ∧
    (after (.evqCreate (.mbx 3)) (ask 0x0104 evqP served)).evq 2 = ⟨4, 9, 0x20000, []⟩ := by decide +kernel
theorem test_evqDelete : given (ask 0x0104 [2#8, 1#8] served) 0x0104 false false [2#8, 1#8] = true ∧
    (after (.evqCreate (.mbx 3)) (ask 0x0104 [2#8, 1#8] (served.wr F.IRQ_EQ_STATUS.CREATED 2 1))).flag F.IRQ_EQ_STATUS.CREATED 2 = false := by
  decide +kernel
theorem test_hostSleepNotice : given (ask 0x0002 [1#8] served) 0x0002 false false [1#8] = true := by decide +kernel

theorem test_doorbell : tx5.rsize 5 = 16 ∧ (after (.doorbell 0 5 3 0) tx5).rd F.DB_HEAD.TAIL 5 = 3 ∧
    (after (.doorbell 0 5 16 0) tx5).rd F.DB_STATUS.ERR_CAUSE 5 = 1 ∧
    (after (.doorbell 0 6 1 0) tx5).flag F.IRQ_STATUS.DB_STRAY 0 = true ∧
    (after (.doorbell 0 0 1 0) (tx5.wr F.DB_STATUS.STATE 0 rgREADY)).rd F.DB_HEAD.TAIL 0 = 0 ∧
    (tx5.wr F.PWR_Dd_STATE.STATE 53 pwOFF).on 53 = false ∧
    (after (.doorbell 0 5 3 0) (tx5.wr F.PWR_Dd_STATE.STATE 53 pwOFF)).doorbells = [⟨5, 3, false, false⟩] := by decide +kernel
theorem test_ringIdle : (after (.ringIdle 5) (tx5.wr F.DB_STATUS.STATE 5 rgDRAINING)).rstate 5 = rgIDLE := by decide +kernel

/-- `tx5` with the tail at 1 and an entry of 32 bytes at the head. -/
def given5 (d : List Byte) : State := (tx5.wr F.DB_HEAD.TAIL 5 1).hostWrite 0x10000 d

/-- A descriptor of DEST 1: 64 bytes at 0x30000 for tree 9. -/
def descUp : List Byte := leBytes 8 0x30000 ++ leBytes 4 64 ++ zeros 12 ++ [9#8, 1#8] ++ zeros 5 ++ [0x80#8]

theorem test_txDescriptor : (given5 descUp).nextEntry 5 = some 0 ∧ bit (byteAt ((given5 descUp).hostRead 0x10000 32) 31) 7 = true ∧
    (after (.txDescriptor 5 1 []) (given5 descUp)).rd F.DB_STATUS.ERR_CAUSE 5 = 2 ∧
    (after (.txDescriptor 5 0 []) (given5 (zeros 32))).rd F.DB_EARLY.COUNT 5 = 1 ∧
    (after (.txDescriptor 5 0 []) (given5 descUp)).rd F.DB_HEAD.HEAD 5 = 1 := by decide +kernel

/-- A descriptor without length is refused. -/
def descBad : List Byte := zeros 31 ++ [0x80#8]

/-- `descUp` with a table of fragments. -/
def descTable : List Byte := leBytes 8 0x30000 ++ leBytes 4 64 ++ leBytes 2 2 ++ leBytes 2 1 ++ zeros 8 ++ [9#8, 1#8] ++ zeros 5 ++ [0x80#8]

theorem test_txDescriptor_refused : (given5 descBad).memInv ∧
    (given5 descBad).txRefusal descBad (txDesc descBad) = some txBAD_DESC ∧
    ((after (.txDescriptor 5 0 []) (given5 descBad)).hostRead 0x10000 32).take 8 = [0#8, 0#8, 0#8, 0#8, 0#8, 0#8, 0#8, 0x0C#8] := by
  unfold State.memInv
  decide +kernel

/-- Tree 9 ACTIVE and a host region of cells, with the descriptor of the lookup. -/
def lookup5 : State :=
  ((given5 descUp).wr F.TRE_STATE.STATE 9 trACTIVE).setBuf (fun b => { b with cfg := { b.cfg with hostCells := 8 } })

theorem test_txDescriptor_lookup : lookup5.txRefusal descUp (txDesc descUp) = none ∧
    (lookup5.takeCells 2 (cellsOf (lookup5.txFrame (txDesc descUp)).1.length)).isSome = true ∧
    (after (.txDescriptor 5 0 []) lookup5).buf.ingress.map (fun g => g.tree) = [9] := by decide +kernel

/-- `lookup5` with its entry taken and waiting. -/
def waits5 : State := lookup5.setRing 5 { lookup5.ring 5 with tx := [⟨0, none, true, false⟩] }

theorem test_txDescriptor_table : (txDesc descTable).indirect = true ∧
    (after (.txDescriptor 5 3 []) (given5 descTable)).rd F.DB_STATUS.ERR_CAUSE 5 = 2 := by decide +kernel

theorem test_txDescriptor_busErr : lookup5.memInv ∧ (lookup5.ring 5).badRead = false ∧ (lookup5.ring 5).badWrite = false ∧
    ((after (.txDescriptor 5 2 []) lookup5).hostRead 0x10000 32).getD 7 0#8 = 0x0D#8 := by
  unfold State.memInv
  decide +kernel

theorem test_txWaitResume : (waits5.takeCells 2 (cellsOf (waits5.txFrame (txDesc descUp)).1.length)).isSome = true ∧
    ((after (.txWaitResume 5 false) waits5).ring 5).tx = [⟨0, none, false, false⟩] := by decide +kernel

/-- A frame of two bytes. -/
def fr2 : RxFrame := ⟨[1#8, 2#8], 1, 0, 0, 0, 0, 0, 0, 0, 0, 0, 0, 1, none, 0⟩

/-- RX ring 6 with a buffer at 0x40000 given and a frame ready. -/
def rx6 : State :=
  (((served.setRing 6 { Ring.reset with typ := 1, sizeLog2 := 4, base := 0x11000, bufCode := 1, rx := [fr2] }).wr
    F.DB_STATUS.STATE 6 rgRUNNING).wr F.DB_HEAD.TAIL 6 1).hostWrite 0x11000 (leBytes 8 0x40000 ++ zeros 23 ++ [0x80#8])

theorem test_rxDeliver : rx6.memInv ∧ rx6.owned 6 0 = true ∧ rx6.rxNeeds 6 2 = 1 ∧
    (after (.rxDeliver 6 false []) rx6).hostRead 0x40000 2 = [1#8, 2#8] ∧
    ((after (.rxDeliver 6 false []) rx6).ring 6).rx = [] := by
  unfold State.memInv
  decide +kernel

/-- `rx6` with its frame's cells in object 7, of which a word holds two errors. -/
def rx6bad : State :=
  (rx6.setRing 6 { rx6.ring 6 with rx := [{ fr2 with cell := 7 }] }).setBuf (fun b => { b with brine := [((7, 0), ⟨2, 1, 0, 1, false⟩)] })
def twoErrs : List Upset := [⟨1, 7, 0, [(0, 1#8), (1, 1#8)], false⟩]

theorem test_rxDeliver_lost : ((rx6bad.upset twoErrs).cellRead 7).1 = true ∧ ((after (.rxDeliver 6 false twoErrs) rx6bad).ring 6).rx = [] ∧
    (after (.rxDeliver 6 false twoErrs) rx6bad).hostRead 0x40000 2 = [0#8, 0#8] := by decide +kernel

/-- `rx6` with no entry given and its frame tried. -/
def rx6full : State := (rx6.wr F.DB_HEAD.TAIL 6 0).setRing 6 { rx6.ring 6 with rx := [{ fr2 with tried := some 0 }] }

theorem test_rxHoldExpire : (rx6full.rxClaim 6 1).1 = false ∧
    (after (.rxHoldExpire 6) rx6full).rd F.DB_NO_DESC.COUNT 6 = 1 := by decide +kernel

/-- Queue 2 created with one event waiting. -/
def evq2 : State := (served.setEvq 2 ⟨4, 9, 0x20000, [⟨5, 3, 1, none⟩]⟩).wr F.IRQ_EQ_STATUS.CREATED 2 1

theorem test_eventPost : evq2.memInv ∧ (0 + 1) % 16 ≠ evq2.rd F.IRQ_EQ_HEAD.HEAD 2 ∧
    (after (.eventPost 2 false) evq2).hostRead 0x20000 8 = [5#8, 0#8, 3#8, 0#8, 1#8, 0#8, 0#8, 1#8] ∧
    (after (.eventPost 2 false) (evq2.wr F.IRQ_EQ_HEAD.HEAD 2 1)).flag F.IRQ_EQ_STATUS.OVERFLOW 2 = true := by
  unfold State.memInv
  decide +kernel
theorem test_vectorTimer : (served.wr F.IRQ_VEC_STATE.TIMING 9 1).flag F.IRQ_VEC_CFG.MASK 9 = true ∧
    (after (.vectorTimer 9) (served.wr F.IRQ_VEC_STATE.TIMING 9 1)).flag F.IRQ_VEC_STATE.PEND 9 = true ∧
    (after (.vectorTimer 9) ((served.wr F.IRQ_VEC_STATE.TIMING 9 1).wr F.IRQ_VEC_CFG.MASK 9 0)).out = [.irq 9] := by decide +kernel
/-- R304, R446, R449: the counter of vector fires wraps on vector 9's message, and its event fires vector 5. -/
def wrapping : State :=
  [(F.IRQ_VEC_STATE.TIMING, 9, 1), (F.IRQ_VEC_CFG.MASK, 9, 0), (F.IRQ_VEC_CFG.MASK, 5, 0), (F.PMC_SELk.EN, 808, 1),
   (F.PMC_SELk.EVENT, 808, 4), (F.PMC_CNTk.COUNT, 808, 2 ^ 32 - 1), (F.PMC_EVENT_EN.EN, 0, 0x40), (F.IRQ_SRC_MAP.EN, 229, 1),
   (F.IRQ_SRC_MAP.VECTOR, 229, 5)].foldl (fun s x => s.wr x.1 x.2.1 x.2.2) served
theorem test_counterWrap : (after (.vectorTimer 9) wrapping).out = [.irq 5, .irq 9] ∧
    (after (.vectorTimer 9) wrapping).rd F.PMC_CNTk.COUNT 808 = 1 ∧
    (after (.vectorTimer 9) wrapping).flag F.PMC_EVENT.CNT_OVF 0 = true := by decide +kernel
theorem test_vectorUnmask : (after (.vectorUnmask 0 9 0x2) (served.wr F.IRQ_VEC_STATE.PEND 9 1)).out = [.irq 9] := by decide +kernel
theorem test_eqOverflowClear : (after (.eqOverflowClear 0 2 1) (served.wr F.IRQ_EQ_STATUS.OVERFLOW 2 1)).flag F.IRQ_EQ_STATUS.OVERFLOW 2 = false := by
  decide +kernel

/-! ### Brine pool, buffer stacks and the trunk stream -/

/-- The payload of BUFFER_CONFIG without REGIONS, with the reset values. -/
def bufP : List Byte := zeros 16 ++ leBytes 4 4096 ++ leBytes 4 786432 ++ leBytes 4 4096 ++ leBytes 4 1024 ++ leBytes 4 16384

theorem test_bufferConfig : given (ask 0x0110 bufP served) 0x0110 false false bufP = true ∧
    (after (.bufferConfig (.mbx 3)) (ask 0x0110 bufP served)).buf.cfg.spillEn = false := by decide +kernel
theorem test_bufferConfig_regions : (served.ringActive = false ∧ ∀ t, t < 96 → served.tstate t = trDISABLED) := by decide +kernel
theorem test_bufferStatus : given (ask 0x0111 [] served) 0x0111 true true [] = true ∧
    leAt (rsp (after (.bufferStatus (.mbx 3)) (ask 0x0111 [] served))) 16 4 = 12582912 := by decide +kernel

/-- The payload of QUEUE_PROFILE 7: at most 65,536 bytes, 4,096 of them guaranteed. -/
def profP : List Byte := [7#8, 0#8, 3#8, 0#8] ++ leBytes 4 4096 ++ leBytes 4 65536

theorem test_queueProfile : given (ask 0x0112 profP served) 0x0112 false false profP = true ∧
    (after (.queueProfile (.mbx 3)) (ask 0x0112 profP served)).qprof 7 = ⟨false, 3, 0, 4096, 65536, 0⟩ := by decide +kernel
theorem test_queueSet : given (ask 0x0113 [9#8, 2#8, 4#8, 0#8, 5#8, 0#8, 7#8] served) 0x0113 false false [9#8, 2#8, 4#8, 0#8, 5#8, 0#8, 7#8] = true ∧
    ((after (.queueSet (.mbx 3)) (ask 0x0113 [9#8, 2#8, 4#8, 0#8, 5#8, 0#8, 7#8] served)).deepQ 9 5 1).profile = 7 := by decide +kernel
theorem test_queueStatus : given (ask 0x0114 [9#8] served) 0x0114 false true [9#8] = true ∧
    status (after (.queueStatus (.mbx 3)) (ask 0x0114 [9#8] served)) = stOK := by decide +kernel

/-- A trunk header for tree 9, class 2. -/
def trunkHdr : List Byte := [9#8] ++ zeros 6 ++ [2#8] ++ zeros 8

/-- `served` with ten credits of the forwarding engine for lane 1, class 2. -/
def credited : State := served.setBuf (fun b => { b with dsGiven := [(creditKey 1 2, 10)] })

theorem test_trunkIngress : segsOf 64 ≤ smGet 0 credited.buf.dsGiven (creditKey 1 2) ∧
    (credited.takeCells 1 (cellsOf 64)).isSome = true ∧
    (after (.trunkIngress 1 trunkHdr (zeros 64)) credited).buf.ingress.map (fun g => (g.tree, g.bytes.length)) = [(9, 64)] ∧
    (after (.trunkIngress 1 trunkHdr (zeros 64)) served).cnt (pageLane 1) 0x98 = 1 := by decide +kernel

/-- An upstream frame of 64 bytes of tree 13, class 3. -/
def upFrame : UsFrame := ⟨13, 2, 5, 7, 0, 3, false, false, false, 0, 0, zeros 64, 0, .trunk⟩

/-- `served` with that frame in lane 1's queue and credits for it. -/
def sending : State :=
  (served.setEgressQ 1 3 { EgressQ.reset with brine := [upFrame] }).setBuf (fun b => { b with credits := [(creditKey 1 3, 9)] })

theorem test_trunkSend : sending.sendClass 1 = some (3, upFrame) ∧
    smGet 0 (after (.trunkSend 1) sending).buf.credits (creditKey 1 3) = 4 ∧
    (after (.trunkSend 1) sending).out = [.trunk 1 3 upFrame.header (zeros 64)] := by decide +kernel
theorem test_creditReturn : smGet 0 (after (.creditReturn 1 3 2000000) sending).buf.credits (creditKey 1 3) = 1048575 ∧
    (after (.creditReturn 1 3 2000000) sending).cnt (pageLane 1) 0xA0 = 1 := by decide +kernel
theorem test_feReady : (after .feNotReady sending).buf.feReady = false ∧
    (after .feReady (after .feNotReady sending)).buf.credits = [] := by decide +kernel
/-- Queue 1,234 had three pages and was cut after the first. -/
def cut : State :=
  (((State.takePages 1234 3 0 served []).map (fun x => x.2)).getD served).setBuf (fun b => { b with cuts := [⟨1234, 0, 2⟩] })

theorem test_orphanReclaim : cut.buf.cuts = [⟨1234, 0, 2⟩] ∧ (cut.cutLost ⟨1234, 0, 2⟩).length = 2 ∧ cut.freePages + 3 = served.freePages ∧
    (after .orphanReclaim cut).freePages = cut.freePages + 2 := by decide +kernel

/-- Tree 9 ACTIVE with a frame waiting for terminal 2, class 0. -/
def queued : State :=
  (served.wr F.TRE_STATE.STATE 9 trACTIVE).setDeepQ 9 2 0 { DeepQ.reset with frames := [⟨7, zeros 64, .trunk, 0, 0, 0⟩], pages := [0] }

theorem test_stagingRefill : (queued.deepQ 9 2 0).frames = [⟨7, zeros 64, .trunk, 0, 0, 0⟩] ∧
    queued.buf.refills = [] ∧ queued.stagedBytes 9 2 0 ≤ queued.buf.cfg.stageQ / 2 ∧ queued.buf.cfg.stageQ / 2 < queued.buf.cfg.stageQ ∧ queued.stageCells 9 + cellsOf 64 ≤ queued.buf.cfg.stageTree ∧
    (queued.takeCells 1 (cellsOf 64)).isSome = true ∧
    ((after (.stagingRefill 9 2 0 []) queued).tree 9).staged.map (fun g => g.port) = [7] := by decide +kernel

/-- A frame of lane 1 waits for its spill write. -/
def spilling : State := served.setEgressQ 1 3 { EgressQ.reset with toSpill := [upFrame], st := 1 }

theorem test_spillWrite : spilling.spillRoom 1 = true ∧ (State.takePages (spillNo 1 3) 1 0 spilling []).isSome = true ∧
    pagesNeeded 0 [64] = 1 ∧ (after (.spillWrite 1 3) spilling).cnt (pageLane 1) 0xD8 = 1 := by decide +kernel

def spilled : State := served.setEgressQ 1 3 { EgressQ.reset with spill := [upFrame], pages := [0], st := 1 }

theorem test_spillReadback : (spilled.takeCells 0 (cellsOf 64)).isSome = true ∧
    ((after (.spillReadback 1 3) spilled).egressQ 1 3).brine.map (fun f => f.tree) = [13] := by decide +kernel

/-! ### Tree engines, downstream -/

/-- A TREE_CONFIG of tree 9 as XGS, 2,000-byte frames, 4 messages, 2 warm frames, a survey every 80 frames for 16. -/
def treeP : List Byte := [9#8, 0#8, 0#8, 0#8] ++ leBytes 2 2000 ++ [4#8, 2#8] ++ leBytes 2 100 ++ leBytes 2 80 ++ leBytes 2 16 ++
  zeros 2 ++ leBytes 4 77 ++ leBytes 4 0xFFFFFFFF

theorem test_treeConfig : given (ask 0x0201 treeP served) 0x0201 false false treeP = true ∧
    status (after (.treeConfig (.mbx 3)) (ask 0x0201 treeP served)) = stOK ∧
    (after (.treeConfig (.mbx 3)) (ask 0x0201 treeP served)).rd F.TRE_CFG.MAX_FRAME 9 = 2000 ∧
    (after (.treeConfig (.mbx 3)) (ask 0x0201 treeP served)).rd F.TRE_PON_ID.PON_ID 9 = 77 ∧
    ((after (.treeConfig (.mbx 3)) (ask 0x0201 treeP served)).tree 9).surveyPeriod = 80 := by decide +kernel

/-- `served` with a tree image, tree 9 configured and domain A valid. -/
def lit : State :=
  ((((served.setSlots 2 ⟨none, some ⟨2, 1, 0, 9, [], [], false⟩, none⟩).wr F.TRE_STATE.CONFIGURED 9 1).wr F.TB_STATUS.A_VALID 0 1).wr
    F.TRE_CFG.MAX_FRAME 9 2000).wr F.GLB_STATUS.RESTRICTED 0 0

def enableP (mode : Nat) : List Byte := [9#8] ++ leBytes 1 mode ++ zeros 14

theorem test_treeEnable : given (ask 0x0202 (enableP 1) lit) 0x0202 false false (enableP 1) = true ∧
    (ask 0x0202 (enableP 1) lit).enableLack 9 = none ∧
    status (after (.treeEnable (.mbx 3)) (ask 0x0202 (enableP 1) lit)) = stOK ∧
    ((after (.treeEnable (.mbx 3)) (ask 0x0202 (enableP 1) lit)).tree 9).start =
      some ⟨some (frameFrom 9 (lit.tide + 20000 * 256)), lit.tide + 20000 * 256, none⟩ := by decide +kernel
theorem test_treeEnable_off : (ask 0x0202 (enableP 1) (lit.wr F.PWR_Dd_STATE.STATE 4 pwOFF)).on (pairOf 9) = false ∧
    given (ask 0x0202 (enableP 1) (lit.wr F.PWR_Dd_STATE.STATE 4 pwOFF)) 0x0202 false false (enableP 1) = true ∧
    ((after (.treeEnable (.mbx 3)) (ask 0x0202 (enableP 1) (lit.wr F.PWR_Dd_STATE.STATE 4 pwOFF))).tree 9).start =
      some ⟨none, lit.tide + 20000 * 256, some (.mbx 3)⟩ := by decide +kernel

/-- Tree 9 ACTIVE since frame −1. -/
def act : State := (lit.wr F.TRE_STATE.STATE 9 trACTIVE).setTree 9 { Tree.reset with firstF := some (-1), txOn := true }

theorem test_treeEnable_mode0 : given (ask 0x0202 (enableP 0) act) 0x0202 false false (enableP 0) = true ∧
    act.ps 9 = psNONE ∧ act.est (pairOf 9) ≠ esFAULTED ∧
    (after (.treeEnable (.mbx 3)) (ask 0x0202 (enableP 0) act)).tstate 9 = trDISABLED := by decide +kernel

/-- Tree 9 with a start frame fixed. -/
def starting : State := lit.setTree 9 { Tree.reset with start := some ⟨some (-1), 0, none⟩ }

theorem test_treeEnable_refused :
    status (after (.treeEnable (.mbx 3)) (ask 0x0202 (enableP 1) (act.wr F.TRE_STATE.STATE 9 trDORMANT))) = stSTATE_CONFLICT ∧
    ((ask 0x0202 (enableP 1) served).enableLack 9).isSome = true ∧
    boundary 9 1 < (lit.putTb { lit.tb with tideQ := 130000 * 2 ^ 76 }).tide + 20000 * 256 := by decide +kernel

theorem test_treeStart : (-1 ≤ starting.frame 9) ∧ (after (.treeStart 9) starting).tstate 9 = trACTIVE ∧
    ((after (.treeStart 9) starting).tree 9).firstF = some (starting.frame 9) := by decide +kernel

/-- Tree 9 ACTIVE with no terminal for as long as it takes. -/
def bare : State := act.setTree 9 { act.tree 9 with dormantFrames := 5, emptyRun := 5 }

theorem test_treeDormant : bare.paired 9 = false ∧ bare.rd F.TRE_STATE.OPER_TERMS 9 = 0 ∧
    (after (.treeDormant 9) bare).tstate 9 = trDORMANT := by decide +kernel

/-- Tree 9 DORMANT with a survey due at each frame. -/
def due : State := (lit.wr F.TRE_STATE.STATE 9 trDORMANT).setTree 9 { Tree.reset with surveyPeriod := 1, surveyLen := 16 }

theorem test_surveyWake : due.frame 9 % ((due.times 9).2.1 : Int) = 0 ∧ (after (.surveyWake 9) due).tstate 9 = trDORMANT ∧
    ((after (.surveyWake 9) due).tree 9).firstF = some (frameFrom 9 (due.tide + 1)) ∧
    ((after (.surveyWake 9) (due.wr F.PWR_Dd_STATE.STATE 4 pwOFF)).tree 9).woken = true := by decide +kernel

/-- A woken tree's first frame boundary has come. -/
def woken : State := (after (.surveyWake 9) due).setTree 9 { ((after (.surveyWake 9) due).tree 9) with firstF := some (due.frame 9) }

theorem test_dsFrameStart_wakes : woken.ps 9 = psNONE ∧ (woken.tree 9).begun = none ∧ (after (.dsFrameStart 9) woken).tstate 9 = trACTIVE ∧
    ((after (.dsFrameStart 9) woken).tree 9).stayUntil = some (due.frame 9 + 16) := by decide +kernel

def staying : State := act.setTree 9 { act.tree 9 with stayUntil := some (-1) }

theorem test_surveyEnd : (-1 ≤ staying.frame 9) ∧ (after (.surveyEnd 9) staying).tstate 9 = trDORMANT ∧
    ((after (.surveyEnd 9) (staying.wr F.TRE_STATE.OPER_TERMS 9 1)).tree 9).stayUntil = none := by decide +kernel
theorem test_laneLockLost : (after (.laneLockLost 9) act).tstate 9 = trFAULT ∧
    (after (.laneLockLost 9) act).rd F.TRE_STATE.FAULT_CAUSE 9 = 1 := by decide +kernel

/-- KEY_STAGE of slot 5: bind it to terminal 2 of tree 9, bank index 1. -/
def keyP : List Byte := leBytes 4 5 ++ [2#8, 1#8, 9#8, 0#8] ++ leBytes 2 2 ++ zeros 6 ++ beBytes 16 0x0123456789ABCDEF

theorem test_keyStage : given (ask 0x0A01 keyP lit) 0x0A01 false false keyP = true ∧
    ((after (.keyStage (.mbx 3)) (ask 0x0A01 keyP lit)).slot 5).next = ⟨0x0123456789ABCDEF, 1, 1, 0⟩ ∧
    ((after (.keyStage (.mbx 3)) (ask 0x0A01 keyP lit)).slot 5).tree = 9 ∧
    (after (.keyStage (.mbx 3)) (ask 0x0A01 keyP lit)).rd F.MBX_n_REQ.DATA 55 = 0 := by decide +kernel

/-- `lit` with a key waiting in slot 5. -/
def keyed : State := lit.setSlot 5 ⟨true, 0, 9, 2, ⟨11, 2, 1, 0⟩, ⟨12, 1, 1, 0⟩, false, none⟩

def switchP : List Byte := leBytes 4 5 ++ zeros 4 ++ leBytes 8 3

theorem test_keySwitchAt : given (ask 0x0A02 switchP keyed) 0x0A02 false false switchP = true ∧
    (keyed.frame 9 + 2 ≤ 3) ∧
    ((after (.keySwitchAt (.mbx 3)) (ask 0x0A02 switchP keyed)).slot 5).switchF = some 3 := by decide +kernel

def eraseP : List Byte := leBytes 4 5 ++ [1#8]

theorem test_keyErase : given (ask 0x0A03 eraseP keyed) 0x0A03 true true eraseP = true ∧
    (after (.keyErase (.mbx 3)) (ask 0x0A03 eraseP keyed)).slot 5 = KeySlot.free := by decide +kernel
theorem test_cipherErase : ((after (.cipherEraseNotice [5]) keyed).slot 5).cur.state = 0 := by decide +kernel

/-- The switch of slot 5 is due. -/
def swapping : State := keyed.setSlot 5 { keyed.slot 5 with switchF := some (-3) }

theorem test_keySwap : (-3 ≤ swapping.frame 9) ∧ ((after (.keySwap 5) swapping).slot 5).cur.key = 12 ∧
    ((after (.keySwap 5) swapping).slot 5).next = ⟨11, 2, 2, -3⟩ := by decide +kernel
theorem test_retiredBankExpire :
    ((after (.retiredBankExpire 5) (keyed.setSlot 5 { keyed.slot 5 with next := ⟨11, 2, 2, -99⟩ })).slot 5).next = Bank.empty := by
  decide +kernel

/-- A released map for the frame the next latch is for. -/
def grantMap : BwMap := ⟨act.latchFrame 9, [⟨0, 5, 2, 100, 20, false, false, 0, 0, 0⟩]⟩

theorem test_mapLatch : (-1 ≤ act.latchFrame 9) ∧
    ((after (.mapLatch 9) (act.setTree 9 { act.tree 9 with relMap := some grantMap })).tree 9).latched = some grantMap ∧
    ((after (.mapLatch 9) (act.setTree 9 { act.tree 9 with mapKind := 0, latched := some { grantMap with f := grantMap.f - 1 } })).tree 9).mapKind = 1 ∧
    ((after (.mapLatch 9) act).tree 9).mapKind = 2 := by decide +kernel

theorem test_dsFrameStart : (-1 ≤ act.frame 9) ∧
    ((after (.dsFrameStart 9) (act.setTree 9 { act.tree 9 with latched := some { grantMap with f := act.frame 9 }, mapKind := 0 })).out.map
      (fun (o : Output) => match o with
        | .dsFrame t f _ m l k _ _ => (t, f, k, m, l)
        | _ => (0, 0, 0, 0, 0))).contains (9, f51 (act.frame 9), 0, 1, 0) = true := by decide +kernel
theorem test_ploamHeldQueued :
    ((after (.ploamHeldQueued 9) (act.setTree 9 { act.tree 9 with held := [⟨1023, .sleepAllow false, 0, false⟩] })).tree 9).normal.length = 1 := by
  decide +kernel

/-- A clear 64-byte frame of terminal 2 is staged, which is in OPERATION. -/
def drawing : State :=
  (act.setTerm 9 2 { Term.unused with state := tmOPERATION }).setTree 9
    { act.tree 9 with xgemLeft := 5000, staged := [⟨2, 0, 7, zeros 64, .trunk, 0, none, false, 0, 0, 0⟩] }

theorem test_drawFrame : drawing.portKey 9 ⟨2, 0, 7, zeros 64, .trunk, 0, none, false, 0, 0, 0⟩ = none ∧
    drawing.noTerm 9 ⟨2, 0, 7, zeros 64, .trunk, 0, none, false, 0, 0, 0⟩ = false ∧ drawing.eligible 9 2 = true := by
  decide +kernel
theorem test_drawFrame_warm : ((after (.drawFrame 9 []) (act.setTree 9 { act.tree 9 with xgemLeft := 40, warmNow := true })).tree 9).xgemLeft = 0 ∧
    Output.xgemIdle 9 40 ∈ (after (.drawFrame 9 []) (act.setTree 9 { act.tree 9 with xgemLeft := 40, warmNow := true })).out := by decide +kernel
theorem test_dsFrameStart_warm : ((after (.dsFrameStart 9) (act.setTree 9 { act.tree 9 with warm := 2 })).tree 9).warm = 1 := by decide +kernel

/-! ### Tree engines, upstream -/

/-- BURST_PROFILE of tree 9, rate 0, index 1: 64 bits of preamble 20 times and a 32-bit delimiter. -/
def profileP : List Byte := [9#8, 2#8, 0#8, 1#8] ++ leBytes 2 64 ++ leBytes 2 20 ++ leBytes 8 0xAA ++ [32#8] ++ zeros 7 ++ leBytes 8 0x55

theorem test_burstProfile : given (ask 0x0203 profileP act) 0x0203 false false profileP = true ∧
    burstProfileFault false profileP = none ∧ act.rateOk 9 0 = true ∧
    (smGet BurstSlot.none_ (after (.burstProfile (.mbx 3)) (ask 0x0203 profileP act)).bprofs (9, 1)).now =
      ⟨true, true, 64, 20, 0xAA, 32, 0x55⟩ := by decide +kernel

/-- TERMINAL_ADD of serial 0x4142 at the lowest free index of tree 9. -/
def addP : List Byte := [9#8, 0#8] ++ leBytes 2 0xFFFF ++ beBytes 8 0x4142 ++ zeros 4 ++ leBytes 4 0xFFFFFFFF

/-- Tree 9 with terminal 0 in OPERATION, heard from in frame −9. -/
def oper : State := act.setTerm 9 0 { Term.unused with state := tmOPERATION, serial := 7, sleepModes := 2, lowpower := 9, aware := 3 }

theorem test_terminalAdd : given (ask 0x0301 addP oper) 0x0301 false false addP = true ∧ (oper.treeRefuses 9).1 = false ∧
    ((after (.terminalAdd (.mbx 3)) (ask 0x0301 addP oper)).term 9 1).serial = 0x4142 ∧
    (after (.terminalAdd (.mbx 3)) (ask 0x0301 addP oper)).alloc 9 1 = some (defaultAlloc 1) := by decide +kernel

def setP : List Byte := [9#8, 3#8, 0#8, 0#8] ++ leBytes 2 40 ++ leBytes 2 8 ++ leBytes 2 16

theorem test_terminalSet : given (ask 0x0302 setP oper) 0x0302 false false setP = true ∧
    ((after (.terminalSet (.mbx 3)) (ask 0x0302 setP oper)).term 9 0).lowpower = 40 := by decide +kernel
theorem test_terminalRemove : given (ask 0x0303 [9#8] oper) 0x0303 false false [9#8] = true ∧
    ((after (.terminalRemove (.mbx 3)) (ask 0x0303 [9#8] oper)).term 9 0).removing = true ∧
    ((after (.terminalRemove (.mbx 3)) (ask 0x0303 [9#8] (oper.wr F.TRE_STATE.STATE 9 trDISABLED))).term 9 0) = Term.unused := by
  decide +kernel
theorem test_terminalStatus : given (ask 0x0304 [9#8] oper) 0x0304 true true [9#8] = true ∧
    byteAt (rsp (after (.terminalStatus (.mbx 3)) (ask 0x0304 [9#8] oper))) 9 = tmOPERATION := by decide +kernel

/-- FLOW_SET of port 7 of tree 9 to terminal 0, no allocation, encrypted downstream. -/
def flowP (fl : Nat) : List Byte := [9#8] ++ leBytes 1 fl ++ leBytes 2 7 ++ leBytes 2 0 ++ leBytes 2 0xFFFF

theorem test_flowSet : given (ask 0x0305 (flowP 2) oper) 0x0305 false false (flowP 2) = true ∧
    (after (.flowSet (.mbx 3)) (ask 0x0305 (flowP 2) oper)).flow 9 7 = some ⟨0, none, true, false⟩ ∧
    given (ask 0x0305 (flowP 1) oper) 0x0305 false false (flowP 1) = true ∧
    (after (.flowSet (.mbx 3)) (ask 0x0305 (flowP 1) (oper.putFlows [((9, 7), ⟨0, none, true, false⟩)]))).flow 9 7 = none := by
  decide +kernel

def quenchP (fl k : Nat) : List Byte := [9#8] ++ leBytes 1 fl ++ leBytes 2 k

/-- Tree 9 listens for its partner. -/
def standby : State := (lit.wr F.TRE_STATE.STATE 9 trSTANDBY).wr F.PROT_Tt_STATE.PSTATE 9 psREADY

theorem test_quench : given (ask 0x0306 (quenchP 0 0) oper) 0x0306 true true (quenchP 0 0) = true ∧
    ((after (.quench (.mbx 3)) (ask 0x0306 (quenchP 0 0) oper)).term 9 0).state = tmSTOPPED ∧
    ((after (.quench (.mbx 3)) (ask 0x0306 (quenchP 0 1023) oper)).term 9 0).state = tmSTOPPED ∧
    ((after (.quench (.mbx 3)) (ask 0x0306 (quenchP 1 0) (oper.setTerm 9 0 { oper.term 9 0 with state := tmSTOPPED }))).term 9 0).state = tmEXPECTED := by
  decide +kernel
theorem test_quench_standby : given (ask 0x0306 (quenchP 0 0) standby) 0x0306 true true (quenchP 0 0) = true ∧
    standby.paired 9 = true ∧
    ((after (.quench (.mbx 3)) (ask 0x0306 (quenchP 0 0) standby)).prot 9).quench = [.mbx 3] := by decide +kernel

theorem test_serialNumber : act.receives 9 = true ∧
    ((after (.serialNumberReceived 9 0x4142 0) act).treeU 9).discovery = [(0x4142, 0)] ∧
    act.serialMeets 9 { Term.unused with state := tmEXPECTED, serial := 0x4142 } 0 = true ∧
    ((after (.serialNumberReceived 9 0x4142 0) (act.setTerm 9 4 { Term.unused with state := tmEXPECTED, serial := 0x4142 })).term 9 4).state = tmRANGING := by
  decide +kernel

/-- Terminal 4 of tree 9 is being ranged. -/
def ranging : State := act.setTerm 9 4 { Term.unused with state := tmRANGING, tries := 99 }

theorem test_rangingResponse : 10000 * act.minKm 9 + 34000 ≤ 10000 * (act.minKm 9 + act.diffKm 9) + 36000 ∧
    ((after (.rangingResponse 9 4 ((10000 * act.minKm 9 + 34000) * 256)) ranging).term 9 4).ranged = true := by decide +kernel
theorem test_registrationId_passed : (oper.term 9 0).regCheck = false ∧
    (after (.registrationIdReceived 9 0 [1#8]) oper).out = [.hostPloam 9 0 (1#8 :: zeros 35)] := by decide +kernel
theorem test_rangingFailed : max 1 (ranging.rd F.TRE_US_CTL.RANGE_TRIES 9) ≤ 99 ∧
    ((after (.rangingFailed 9 4) ranging).term 9 4).state = tmEXPECTED := by decide +kernel

/-- The ranging-time message of terminal 4 went with frame −9. -/
def ranged : State := act.setTerm 9 4 { Term.unused with state := tmRANGING, ranged := true, rangedF := some (-9) }

theorem test_terminalOperation : (-9 < ranged.frame 9) ∧ ((after (.terminalOperation 9 4) ranged).term 9 4).state = tmOPERATION := by
  decide +kernel
theorem test_registrationId : ((after (.registrationIdReceived 9 0 [1#8]) (oper.setTerm 9 0 { oper.term 9 0 with regCheck := true, regId := [2#8] })).term 9 0).state = tmEXPECTED := by
  decide +kernel

/-- Terminal 0 with a run of lost frames past any limit; and lost since long ago. -/
def silent : State := oper.setTerm 9 0 { oper.term 9 0 with lob := 999 }
def lost : State := oper.setTerm 9 0 { oper.term 9 0 with state := tmLOST, lostF := -999999 }

theorem test_terminalLost : max 1 (silent.rd F.TRE_US_CTL.LOB_FRAMES 9) ≤ 999 ∧
    ((after (.terminalLost 9 0) silent).term 9 0).state = tmLOST ∧
    ((after (.lostLimit 9 0) lost).term 9 0).state = tmEXPECTED := by decide +kernel
theorem test_recordUnused :
    (after (.recordUnused 9 0) (oper.setTerm 9 0 { oper.term 9 0 with removing := true, rangedF := some (-9) })).term 9 0 = Term.unused := by
  decide +kernel
theorem test_upstreamPloam : (after (.upstreamPloamReceived 9 0 [] false) oper).rd F.TRE_US_MIC_FAIL.COUNT 9 = 1 ∧
    ((after (.upstreamPloamReceived 9 0 [] true) (oper.setShared 9 { oper.shared 9 with askPloamu := [0] })).shared 9).askPloamu = [] := by
  decide +kernel

/-- A burst of terminal 0 is expected. -/
def expecting : State := oper.setTreeU 9 { oper.treeU 9 with expected := [⟨0, [], 0, 0, 0, 1000000, 2000000, false, false⟩] }

theorem test_rxrstPulse : ((after (.rxrstPulse 9) expecting).out.length = 1) ∧
    ((after (.rxrstPulse 9) (expecting.setTree 9 { expecting.tree 9 with lastBurstEnd := some 1000000 })).rd F.TRE_OPTIC.RXRST_SKIP 9 = 1) := by
  decide +kernel
theorem test_serialNumber_overflow :
    (after (.serialNumberReceived 9 5 0) (act.setTreeU 9 { act.treeU 9 with discovery := List.replicate 16 (1, 0) })).flag F.TRE_US_EVENT.SN_OVERFLOW 9 = true ∧
    (after (.serialNumberReceived 9 7 0) oper).rd F.TRE_US_SN_DUP.COUNT 9 = 1 := by decide +kernel
theorem test_burstHunt : psListens (expecting.ps 9) = false ∧ ((after (.burstHunt 9 none) expecting).term 9 0).missed = 1 ∧
    ((after (.burstHunt 9 (some ⟨0, 0, 0, 0, 0, 3, []⟩)) expecting).term 9 0).bursts = 1 ∧
    ((after (.burstHunt 9 (some ⟨0, 0, 0, 0, 0, 3, []⟩)) expecting).term 9 0).bipErr = 3 := by decide +kernel
theorem test_burstHunt_foreign : (oper.setTerm 9 4 { Term.unused with state := tmOPERATION }).receives 9 = true ∧
    ((after (.burstHunt 9 (some ⟨0, 4, 0, 0, 0, 3, []⟩)) (expecting.setTerm 9 4 { Term.unused with state := tmOPERATION })).term 9 4).evidence = some oper.tide := by
  decide +kernel
theorem test_reassemblyTimeout : smFind (after (.reassemblyTimeout 9 5)
    (oper.putReasms [((9, 5), ⟨7, 0, 0, none, false, [], 2000, false, false, 0, 0, -99999, 0⟩)])).reasms (9, 5) = none := by decide +kernel
theorem test_burstProfileAnnounce : ((after (.burstProfileAnnounce 9)
    ((oper.putBprofs [((9, 1), ⟨⟨true, true, 64, 20, 0xAA, 32, 0x55⟩, BurstProf.none_, none, false⟩)]).setTreeU 9 { oper.treeU 9 with announceF := -2000 })).tree 9).normal.map (fun m => m.msg) =
      [.burstProfile 0 1 true] := by decide +kernel
theorem test_treUsSnPop : oper.bnd.oscOk = true ∧
    ((after (.treUsSnPop 0 9 0x80000000) (oper.setTreeU 9 { oper.treeU 9 with discovery := [(1, 0), (2, 0)] })).treeU 9).discovery = [(2, 0)] := by
  decide +kernel
theorem test_sleepRequest : bit (oper.term 9 0).sleepModes 1 = true ∧
    ((after (.sleepRequest 9 0 2) oper).term 9 0).win = some ⟨2, oper.frame 9 + 2, false, false, 0, false, 9, 3⟩ := by decide +kernel

/-- Terminal 0 in an interval of a window since frame −99. -/
def napping (asleep : Bool) : State := oper.setTerm 9 0 { oper.term 9 0 with win := some ⟨2, -99, true, asleep, -99, false, 9, 3⟩ }

theorem test_sleepWindow : ((after (.sleepWindowBoundary 9 0) (napping true)).term 9 0).win = some ⟨2, -99, true, false, -1, false, 9, 3⟩ ∧
    ((after (.sleepWindowBoundary 9 0) (napping false)).term 9 0).win = some ⟨2, -99, true, true, -1, false, 9, 3⟩ ∧
    ((after (.sleepWindowBoundary 9 0) (oper.setTerm 9 0 { oper.term 9 0 with win := some ⟨2, -9, false, false, 0, false, 9, 3⟩ })).term 9 0).win =
      some ⟨2, -9, true, true, -1, false, 9, 3⟩ := by decide +kernel

/-- Light through the whole of the last frame, where none is expected. -/
def glow : List (Int × Int) := [(boundary 9 (oper.frame 9 - 1), boundary 9 (oper.frame 9))]

theorem test_rogueFrame : 1 < max 1 (oper.rd F.TRE_US_ROGUE.FRAMES 9) ∧ ((after (.rogueFrame 9 glow) oper).treeU 9).rogueRun = 1 ∧
    (after (.rogueFrame 9 glow) oper).rd F.TRE_US_ROGUE_CNT.COUNT 9 = 1 ∧
    ((after (.rogueFrame 9 []) oper).treeU 9).rogueRun = 0 ∧
    (after (.rogueFrame 9 glow) (oper.setTreeU 9 { oper.treeU 9 with rogueRun := 9999 })).flag F.TRE_US_EVENT.ROGUE 9 = true := by
  decide +kernel

/-- A sweep has silenced terminal 0 for long enough. -/
def sweeping (rogue : Bool) : State := oper.setTreeU 9 { oper.treeU 9 with sweep := some ⟨0, [0], -99999, rogue⟩ }

theorem test_isolationSweep : ((after (.isolationSweepStep 9) (sweeping false)).term 9 0).state = tmSTOPPED ∧
    ((after (.isolationSweepStep 9) (sweeping true)).treeU 9).sweep.map (fun x => x.term) = some 0 := by decide +kernel

/-! ### Sluice -/

/-- ALLOC_SET of allocation 1,024 of tree 9, terminal 0, FIXED with 8 bytes. -/
def allocP (fl : Nat) : List Byte := [9#8] ++ leBytes 1 fl ++ leBytes 2 1024 ++ leBytes 2 2000 ++ zeros 2 ++ zeros 4 ++ leBytes 4 8

theorem test_allocSet : given (ask 0x0307 (allocP 0) oper) 0x0307 false false (allocP 0) = true ∧
    allocFault false (allocP 0 ++ zeros 40) = none ∧ oper.allocLack 9 1024 (allocOfBytes (allocP 0 ++ zeros 40)) = false ∧
    ((after (.allocSet (.mbx 3)) (ask 0x0307 (allocP 0) oper)).alloc 9 1024).map (fun a => (a.allocId, a.fixed)) = some (2000, 8) := by
  decide +kernel
theorem test_allocSet_delete : given (ask 0x0307 (allocP 1) oper) 0x0307 false false (allocP 1) = true ∧
    (after (.allocSet (.mbx 3)) (ask 0x0307 (allocP 1) (oper.putAllocs [((9, 1024), allocOfBytes (allocP 0 ++ zeros 40))]))).alloc 9 1024 = none := by
  decide +kernel

/-- Tree 9 with unit A ACTIVE and unit B HOT. -/
def hot : State := ((oper.setUnit 0 0).setUnit 1 1).putSlu { oper.slu with started := true }

theorem test_mapBuild : hot.on 48 = true ∧ hot.unitState 0 ≤ 1 ∧ (hot.sluTree 0 9).built = none ∧ (hot.sluTree 1 9).built = none := by
  decide +kernel

/-- Both units built maps of the frame whose cutoff has come; unit B's differs by a grant where `d`. -/
def built (d : Bool) : State :=
  (hot.setSluTree 0 9 { SluTree.reset with built := some ⟨hot.cutFrame 9, []⟩ }).setSluTree 1 9
    { SluTree.reset with built := some ⟨hot.cutFrame 9, if d then [⟨5, 5, 5, 100, 20, false, false, 0, 0, 0⟩] else []⟩ }

theorem test_mapRelease : (built false).activeUnit = some 0 ∧ (built false).heldBack 9 (hot.cutFrame 9) = false ∧
    ((after (.mapRelease 9) (built false)).tree 9).relMap = some ⟨hot.cutFrame 9, []⟩ ∧
    ((after (.mapRelease 9) ((built false).setUnit 1 4)).rd F.SLU_UNCHECKED.COUNT 0) = 1 := by decide +kernel
/-- Whether two maps differ rests on the words of the standards, which are free (log entry 6); that they are compared does not. -/
theorem test_mapRelease_compares : (built true).comparesMaps 1 9 = true ∧ ((built true).sluTree 1 9).ok = false ∧ (built true).unitState 1 = 1 := by
  decide +kernel
theorem test_mapBuild_wrong : ((after (.mapBuild 9 [(1, [⟨5, 5, 5, 100, 20, false, false, 0, 0, 0⟩])]) hot).sluTree 1 9).built =
    some ⟨hot.cutFrame 9, [⟨5, 5, 5, 100, 20, false, false, 0, 0, 0⟩]⟩ := by decide +kernel
theorem test_mapRelease_self : (built false).mapOk 9 ⟨hot.cutFrame 9, []⟩ = true := by decide +kernel
theorem test_sluSwap : (after (.sluSwap 0 1) hot).unitState 1 = 0 ∧ (after (.sluSwap 0 1) hot).unitState 0 = 1 ∧
    (after (.sluSwap 0 1) (hot.setUnit 1 4)).flag F.SLU_EVENT.SWAP_REFUSED 0 = true := by decide +kernel
theorem test_sluRetest : hot.on 49 = true ∧ (after (.sluRetest 0 2) (hot.setUnit 1 4)).unitState 1 = 3 ∧
    hot.rd F.SLU_CTL.RETEST_MS 0 ≠ 0 ∧ (after (.sluiceRetestTimer 1) (hot.setUnit 1 4)).unitState 1 = 3 := by decide +kernel
theorem test_sluiceUnitFault : (after (.sluiceUnitFault 0 (some (3, 2))) hot).unitState 0 = 4 ∧ (after (.sluiceUnitFault 0 (some (3, 2))) hot).unitState 1 = 0 ∧
    (after (.sluiceUnitFault 0 (some (3, 2))) hot).rd F.SLU_FAIL_CAUSE.A_CAUSE 0 = 2 := by decide +kernel
theorem test_sluiceUnitFault_domain : (after (.sluiceUnitFault 1 none) hot).rd F.SLU_FAIL_CAUSE.B_CAUSE 0 = 5 ∧
    ((after (.sluiceUnitFault 1 none) hot).sluUnit 1).heldRetest = true := by decide +kernel
theorem test_sluiceSelfTest : (after (.sluiceSelfTestDone 1 false) (hot.setUnit 1 3)).unitState 1 = 4 ∧
    (after (.sluiceSelfTestDone 1 true) (hot.setUnit 1 3)).unitState 1 = 2 ∧
    (after (.sluiceSelfTestDone 1 true) ((hot.setUnit 0 4).setUnit 1 3)).unitState 1 = 0 := by decide +kernel
theorem test_sluiceHot : ((-100 + 64) * frameTicks ≤ hot.tide) ∧
    (after (.sluiceHot 1) ((hot.setUnit 1 2).setSluUnit 1 { hot.sluUnit 1 with cleanFrom := some (-100) })).unitState 1 = 1 := by decide +kernel

/-- A FORECAST record that cancels the one for allocation 1,030 of tree 9, frame 1. -/
def forecast : List Byte := [9#8, 1#8] ++ leBytes 2 1030 ++ leBytes 4 64 ++ leBytes 8 1 ++ zeros 15 ++ [0x80#8]

/-- Ring 7 is a FORECAST ring with that record; the allocation is of class FORECAST. -/
def foretold : State :=
  (((((hot.setSluUnit 0 { hot.sluUnit 0 with forecasts := [((9 * 4096 + 1030, 1), 64)] }).putAllocs [((9, 1030), { allocOfBytes [] with cls := 5 })]).setRing 7 { hot.ring 7 with typ := 3, base := 0x10000, sizeLog2 := 4 }).wr
    F.DB_STATUS.STATE 7 rgRUNNING).wr F.DB_HEAD.TAIL 7 1).hostWrite 0x10000 forecast

theorem test_forecast : foretold.nextEntry 7 = some 0 ∧ foretold.hostRead (foretold.entryAddr 7 0) 32 = forecast ∧
    foretold.forecastOutcome forecast = 0 ∧ foretold.unitHears 1 9 = true := by decide +kernel

/-! ### Pan engines -/

/-- A microword: sequencing code, condition, target. -/
def mw (sq cond tgt : Nat) : Nat := sq * 2 ^ 124 + cond * 2 ^ 119 + tgt * 2 ^ 106

/-- Engine 4 in a state, running the routine of line 1 at address 8 of its even half, `w` there, with a return stack. -/
def running (st w : Nat) (stack : List Nat) : State :=
  (lit.wr F.PE_STATUS.STATE 4 st).setEng 4 { Engine.reset with
    cs := [((8, 0), w)],
    run := some ⟨0, 1, 0, some 0, 8, ⟨0, 0, 0, false, 0, 0⟩, [], 0, false, false, 0, 0, 0, 0, stack, 8, []⟩ }

def fine : PeObs := ⟨[], false, false⟩

/-- Where the routine is after a command, and its return stack. -/
def place (c : Instr) (s : State) : Option (Nat × List Nat) := (((after c s).eng 4).run).map (fun r => (r.uaddr, r.stack))

theorem test_microwords : (running esSERVICE (mw 0 0 0) []).engRuns 4 = true ∧ mwIllegal (mw 0 0 0) = false ∧ mwSEQ (mw 7 0 0) = 7 ∧
    place (.next 4 fine) (running esSERVICE (mw 0 0 0) []) = some (9, []) ∧
    place (.jump 4 fine) (running esSERVICE (mw 1 0 77) []) = some (77, []) ∧
    place (.brt 4 fine) (running esSERVICE (mw 2 0 77) []) = some (77, []) ∧
    place (.brt 4 fine) (running esSERVICE (mw 2 1 77) []) = some (9, []) ∧
    place (.brf 4 fine) (running esSERVICE (mw 3 1 77) []) = some (77, []) ∧
    place (.brf 4 fine) (running esSERVICE (mw 3 0 77) []) = some (9, []) ∧
    place (.call 4 fine) (running esSERVICE (mw 4 0 77) []) = some (77, [9]) ∧
    place (.ret 4 fine) (running esSERVICE (mw 5 0 0) [55, 3]) = some (55, [3]) ∧
    place (.wait 4 fine) (running esSERVICE (mw 6 0 0) []) = some (9, []) ∧
    place (.commit 4 fine) (running esSERVICE (mw 7 0 0) []) = some (9, []) := by decide +kernel
theorem test_end_halt : place (.end_ 4 fine) (running esSERVICE (mw 8 0 0) []) = none ∧
    (after (.halt 4 fine) (running esDISPATCH (mw 9 0 0) [])).est 4 = esHALTED := by decide +kernel

/-- ADD of the immediate 5 to g1 into g2, with flags. -/
def addW : Nat := 2 * 2 ^ 100 + 2 * 2 ^ 95 + 1 * 2 ^ 90 + 2 ^ 84 + 2 ^ 83 + 2 ^ 82 + 5

theorem test_add : ((after (.next 4 fine) (running esSERVICE addW [])).eng 4).reg 2 = 5 := by decide +kernel

/-- Engine 4 in SERVICE with line 1 enabled at address 8. -/
def serving : State :=
  ((lit.wr F.PE_STATUS.STATE 4 esSERVICE).setTree 8 { Tree.reset with image := some (2, 9) }).setEng 4
    { Engine.reset with entries := [((1, 0), 8 + 2 ^ 15)] }

theorem test_engineEvent : serving.engAwake 4 = true ∧ serving.lineEn 4 1 = true ∧
    (smGet [] ((after (.engineEvent 4 1 7) serving).eng 4).lines (1, 0)).map (fun v => v.payload) = [7] ∧
    (after (.engineEvent 4 1 7) (serving.setEng 4 { serving.eng 4 with lines := [((1, 0), List.replicate 8 ⟨0, 0, 0, false, 0, 0⟩)] })).rd F.PE_EVT_LOST.COUNT 4 = 1 := by
  decide +kernel
theorem test_routineEntry : (after (.engineEvent 4 1 7) serving).nextLine 4 = some 1 ∧
    place (.routineEntry 4) (after (.engineEvent 4 1 7) serving) = some (8, []) ∧
    ((after (.routineEntry 4) (after (.engineEvent 4 1 7) serving)).eng 4).reg 0 = 7 := by decide +kernel

/-- A routine with a port's answer outstanding for g3. -/
def asking : State :=
  let s := running esSERVICE (mw 0 0 0) []
  s.setEng 4 { s.eng 4 with busy := [⟨3, 3, 0, 0⟩] }

theorem test_mopResult : ((after (.mopResult 4 3 99 [] false) asking).eng 4).reg 3 = 99 ∧
    ((after (.mopResult 4 3 99 [] false) asking).eng 4).busy = [] ∧
    (after (.portTimeout 4) asking).rd F.PE_RESTART.COUNT 4 = 1 ∧
    ((after (.portTimeout 4) asking).eng 4).busy = [] := by decide +kernel
theorem test_engineEvent_interrupts :
    ((after (.engineEvent 4 2 7) ((asking.setTree 8 { Tree.reset with image := some (2, 9) }).setEng 4
      { asking.eng 4 with entries := [((2, 0), 8 + 2 ^ 13 + 2 ^ 15)] })).eng 4).run = none := by decide +kernel
/-- The same at commit distance 4,096. -/
def late : State := asking.setEng 4 { asking.eng 4 with run := (asking.eng 4).run.map (fun r => { r with dist := 4096 }) }

theorem test_watchdog : asking.flag F.PE_FAULT.VALID 4 = false ∧ (after (.routineWatchdog 4) late).est 4 = esFAULTED ∧
    (after (.routineWatchdog 4) late).rd F.PE_FAULT.CAUSE 4 = 2 := by decide +kernel

/-- Engine 4 HALTED with an opcode in its dispatch queue. -/
def queuedOp (op : Nat) : State :=
  (lit.wr F.PE_STATUS.STATE 4 esHALTED).setEng 4 { Engine.reset with dq := [(op, 42)], disp := [((5, 0), 8 + 2 ^ 15)], wm := [((1, 0), 1)] }

theorem test_dispatch : (queuedOp 5).takesOps 4 = true ∧ place (.dispatchOpcode 4) (queuedOp 5) = some (8, []) ∧
    (after (.dispatchOpcode 4) (queuedOp 5)).est 4 = esDISPATCH ∧
    ((((after (.dispatchOpcode 4) (queuedOp 0xF2)).eng 4).run).map (fun r => (r.mode, r.line))) = some (2, 0xF2) ∧
    (after (.engineStart 4) ((queuedOp 0xFE).wr F.PE_STATUS.CS_VALID 4 1)).est 4 = esSERVICE ∧
    (after (.engineStart 4) (queuedOp 0xFE)).est 4 = esDISPATCH ∧ (after (.engineStart 4) (queuedOp 5)).est 4 = esHALTED := by decide +kernel
theorem test_testRom : ((after (.end_ 4 fine) (after (.dispatchOpcode 4) (queuedOp 0xF2))).eng 4).wm = [] ∧
    (after (.end_ 4 fine) (after (.dispatchOpcode 4) (queuedOp 0xF1))).flag F.PE_STATUS.CS_VALID 4 = false := by decide +kernel
theorem test_engineStop : (after (.engineStop 4) serving).est 4 = esHALTED ∧ ((after (.engineStop 4) asking).eng 4).stop = true := by
  decide +kernel

/-- Engine 4 LOADING a body of no sections into its odd half. -/
def loading : State := (lit.wr F.PE_STATUS.STATE 4 esLOADING).setEng 4 { Engine.reset with loads := [⟨some 1, 9, []⟩] }

theorem test_engineLoadDone : (after (.engineLoadDone 4 true) loading).flag F.PE_STATUS.CS_VALID 4 = true ∧
    (after (.engineLoadDone 4 true) loading).est 4 = esHALTED ∧
    (after (.engineLoadDone 4 false) loading).flag F.PE_STATUS.CS_VALID 4 = false := by decide +kernel
theorem test_csScrub : (after (.csScrub 4 0 [⟨8, 4, 0, [(2, 5#8)], false⟩]) serving).rd F.PE_CS_CORR.COUNT 4 = 1 ∧
    (after (.csScrub 4 0 [⟨8, 4, 0, [(2, 5#8), (3, 1#8)], false⟩]) serving).est 4 = esFAULTED := by decide +kernel
theorem test_sampler : (after (.samplerFire 4) (asking.wr F.PE_SAMPLE_CFG.MODE 4 1)).rd F.PE_SAMPLE_PTR.NEXT 4 = 1 := by decide +kernel
theorem test_recovery :
    (after (.engineRecoveryDone 4 true) (serving.setEng 4 { serving.eng 4 with recovering := true, reload := [⟨some 0, 9, []⟩] })).est 4 = esSERVICE ∧
    (after (.engineRecoveryDone 4 true) (serving.setEng 4 { serving.eng 4 with recovering := true })).est 4 = esDISPATCH ∧
    (after (.engineRecoveryDone 4 false) (serving.setEng 4 { serving.eng 4 with recovering := true })).est 4 = esFAULTED := by decide +kernel

/-! ### Classification and the table -/

/-- `oper` with the table engine READY. -/
def ready : State := oper.setTabs (fun x => { x with st := 2 })

/-- An entry of tree 9, upstream, profile 1, one atom of value 5: handle 77, class 2, terminal 0, port 7. -/
def entW : Nat := 5 + 9 * 2 ^ 96 + 1 * 2 ^ 104 + 1 * 2 ^ 108 + 2 ^ 112 + 1 * 2 ^ 113 + 2 * 2 ^ 116 + 7 * 2 ^ 140 + 77 * 2 ^ 156

def insP : List Byte := zeros 8 ++ leBytes 32 entW

theorem test_tableInsert : given (ask 0x0401 insP ready) 0x0401 false false insP = true ∧ insertFault ready (insP ++ zeros 16) = none ∧
    ready.findKey (TblEntry.ofWord entW).tkey = none ∧
    ready.findPlace (TblEntry.ofWord entW).tkey 3 = some ((hash0 (TblEntry.ofWord entW).tkey, 0), []) ∧
    ((after (.tableInsert (.mbx 3)) (ask 0x0401 insP ready)).findKey (TblEntry.ofWord entW).tkey).map (fun x => x.2.handle) = some 77 := by
  decide +kernel

/-- `ready` with that entry in its first slot. -/
def filled : State :=
  ready.setTabs (fun x => { x with entries := [((hash0 (TblEntry.ofWord entW).tkey, 0), TblEntry.ofWord entW)] })

theorem test_tableInsert_replace :
    status (after (.tableInsert (.mbx 3)) (ask 0x0401 (1#8 :: insP.drop 1) filled)) = stOK ∧
    given (ask 0x0401 (1#8 :: insP.drop 1) filled) 0x0401 false false (1#8 :: insP.drop 1) = true ∧
    status (after (.tableInsert (.mbx 3)) (ask 0x0401 insP filled)) = stSTATE_CONFLICT := by decide +kernel

/-- TABLE_DELETE of the entry's key, and of all static entries of tree 9, upstream. -/
def delP : List Byte := zeros 8 ++ leBytes 14 (entW % 2 ^ 112)
def patP : List Byte := [1#8, 9#8, 2#8, 0x80#8] ++ leBytes 2 0xFFFF

theorem test_tableDelete : given (ask 0x0402 delP filled) 0x0402 false false delP = true ∧ deleteFault filled (delP ++ zeros 34) = none ∧
    (after (.tableDelete (.mbx 3)) (ask 0x0402 delP filled)).tabs.entries = [] ∧
    given (ask 0x0402 patP filled) 0x0402 false false patP = true ∧ deleteFault filled (patP ++ zeros 50) = none ∧
    (after (.tableDelete (.mbx 3)) (ask 0x0402 patP filled)).tabs.entries = [] ∧
    status (after .patternDeleteDone (after (.tableDelete (.mbx 3)) (ask 0x0402 patP filled))) = stOK := by decide +kernel

/-- TABLE_DUMP of at most 4 entries of all trees and kinds on channel 6 to 0x20000. -/
def dumpP : List Byte := [0#8, 0xFF#8, 7#8, 6#8] ++ leBytes 4 4 ++ leBytes 8 0x20000

theorem test_tableDump : given (ask 0x0403 dumpP filled) 0x0403 false false dumpP = true ∧ dumpFault filled (dumpP ++ zeros 40) = none ∧
    filled.chFree 6 = true ∧
    (after .tableDumpDone (filled.setTabs (fun x => { x with cmds := [⟨.mbx 3, 0x0403, dumpP, true, 0⟩] }))).hostRead 0x20000 32 = (TblEntry.ofWord entW).bytes := by
  decide +kernel

/-- A bulk insert of one record at 0x20000 on channel 6. -/
def bulkP : List Byte := [2#8, 6#8, 0#8, 0#8] ++ leBytes 4 1 ++ leBytes 8 0x20000

theorem test_tableBulkInsert : given (ask 0x0401 bulkP ready) 0x0401 false false bulkP = true ∧ insertFault ready (bulkP ++ zeros 40) = none ∧
    ((after .tableBulkInsertDone ((ready.setTabs (fun x => { x with cmds := [⟨.mbx 3, 0x0401, bulkP, true, 0⟩] })).hostWrite 0x20000 (leBytes 32 entW))).tabs.entries.map (fun e => e.2.handle)) = [77] := by
  decide +kernel

/-- TABLE_PROFILE 1 of tree 9, upstream: one atom, the terminal; a miss passes with handle 3; untagged IPv4 frames. -/
def kpP : List Byte := [9#8, 0#8, 1#8, 0#8, 1#8, 2#8, 0#8, 0#8] ++ (4#8 :: zeros 7) ++ leBytes 2 1 ++ leBytes 2 0 ++ leBytes 4 3

theorem test_tableProfile : given (ask 0x0404 kpP (ready.wr F.TRE_STATE.STATE 9 trDISABLED)) 0x0404 false false kpP = true ∧
    profileFault (ready.wr F.TRE_STATE.STATE 9 trDISABLED) (kpP ++ zeros 32) = none ∧
    (smFind (after (.tableProfile (.mbx 3)) (ask 0x0404 kpP (ready.wr F.TRE_STATE.STATE 9 trDISABLED))).tabs.profiles (18, 1)).map (fun q => q.defHandle) = some 3 := by
  decide +kernel

def cfgP : List Byte := [1#8, 5#8, 0#8, 0#8] ++ leBytes 4 2000

theorem test_tableConfig : given (ask 0x0405 cfgP ready) 0x0405 false false cfgP = true ∧ configFault ready (cfgP ++ zeros 48) = none ∧
    (after (.tableConfig (.mbx 3)) (ask 0x0405 cfgP ready)).tabs.ageLimit = 5 := by decide +kernel
theorem test_tableStatus : given (ask 0x0406 [1#8] filled) 0x0406 false true [1#8] = true ∧
    leAt (rsp (after (.tableStatus (.mbx 3)) (ask 0x0406 [1#8] filled))) 12 4 = 1 := by decide +kernel

/-- FILTER_SET of slot 2 of tree 9: drop what goes to one address. -/
def filterP : List Byte := [9#8, 2#8, 3#8, 0#8, 0#8, 0#8, 0#8, 0#8] ++ beBytes 6 0x010203040506 ++ zeros 2 ++ beBytes 6 (2 ^ 48 - 1)

theorem test_filterSet : given (ask 0x0407 filterP ready) 0x0407 false false filterP = true ∧
    (smGet Filter.off (after (.filterSet (.mbx 3)) (ask 0x0407 filterP ready)).tabs.filters (9, 2)).action = 3 := by decide +kernel
theorem test_queue : (ready.setTabs (fun x => { x with cmds := [⟨.mbx 1, 0x0403, [], true, 0⟩] })).tblState = 2 ∧
    ((after (.tableConfig (.mbx 3)) (ask 0x0405 cfgP (ready.setTabs (fun x => { x with cmds := [⟨.mbx 1, 0x0403, [], true, 0⟩] })))).tabs.cmds.length) = 2 := by
  decide +kernel
theorem test_tableEngineInitDone : (after .tableEngineInitDone (ready.setTabs (fun x => { x with st := 1 }))).tblState = 2 := by decide +kernel

def learnt : LearnReq := ⟨entW % 2 ^ 112, 0, 7, 1024, 2, 77, false⟩

theorem test_learnApply : (after .learnApply (ready.setTabs (fun x => { x with learnQ := [learnt] }))).tabs.learned = 1 ∧
    ((after .learnApply (ready.setTabs (fun x => { x with learnQ := [learnt] }))).findKey learnt.tkey).map (fun x => x.2) = some learnt.entry ∧
    (after .learnApply (ready.setTabs (fun x => { x with entries := [((hash0 learnt.tkey, 0), learnt.entry)], learnQ := [{ learnt with move := true }] }))).tabs.moved = 1 := by
  decide +kernel

/-- The sweeper stands before a bucket whose entry was not hit and is of age 1. -/
def sweep : State := ready.setTabs (fun x => { x with sweepPos := 4, entries := [((4, 1), { learnt.entry with hit := false, age := 1 })] })

theorem test_ageingSweep : (smFind (after .ageingSweep sweep).tabs.entries (4, 1)).map (fun e => e.age) = some 2 ∧
    (after .ageingSweep (sweep.setTabs (fun x => { x with ageLimit := 2 }))).tabs.entries = [] := by decide +kernel
theorem test_ageingSweep_hit :
    (smFind (after .ageingSweep (sweep.setTabs (fun x => { x with entries := [((4, 1), { learnt.entry with hit := true, age := 1 })] }))).tabs.entries (4, 1)).map
      (fun e => (e.hit, e.age)) = some (false, 0) ∧
    (smFind (after .ageingSweep (sweep.setTabs (fun x => { x with ageLimit := 2, lastHit := some (learnt.tkey, sweep.tb.ctc), entries := [((4, 1), { learnt.entry with hit := true, age := 1 })] }))).tabs.entries (4, 1)).map
      (fun e => e.hit) = some true := by decide +kernel

/-- Two symbols in error in slot 1 of bucket 4 of a copy. -/
def bad (mem inst : Nat) : Upset := ⟨mem, inst, 9, [(0, 1#8), (1, 1#8)], false⟩

theorem test_tableScrub : (after (.tableScrub 1 4 1 [bad 3 0, bad 4 1]) sweep).tabs.entries = [] ∧
    (after (.tableScrub 1 4 1 [bad 3 0, bad 4 1]) sweep).tabs.ueBoth = 1 ∧ (after (.tableScrub 1 4 1 [bad 3 0]) sweep).tabs.ueOne = 1 ∧
    (after (.tableScrub 1 4 1 []) sweep).tabs = sweep.tabs := by decide +kernel

/-- An upstream frame of terminal 0 waits; its tree keys untagged IPv4 frames by terminal, and terminal 0 has an entry. -/
def ipFrame : List Byte := zeros 12 ++ [8#8, 0#8] ++ zeros 50
def upKey : Nat := tkeyOf 0 9 0 1 1
def wanted : State :=
  (ready.setTabs (fun x => { x with
    profiles := [((18, 1), ⟨false, 1, 2, 0, 0, [4, 0, 0, 0, 0, 0, 0, 0], 1, 0, 3, 0⟩), ((19, 1), ⟨false, 1, 2, 0, 0, [1, 0, 0, 0, 0, 0, 0, 0], 1, 0, 3, 0⟩)],
    entries := [((hash0 upKey, 0), { learnt.entry with tkey := upKey })] })).setBuf (fun b => { b with
      lookupUs := [⟨9, 0, 1024, 7, 0, 0, false, false, false, 0, 0, ipFrame, 0, .trunk⟩] })

theorem test_lookupUpstream : (wanted.profileFor 9 0 (shapeOf ipFrame)).isSome = true ∧ (wanted.findKey upKey).isSome = true ∧
    ((after (.lookupUpstream []) wanted).egressQ (laneOf 9) 2).brine.map (fun f => f.flow) = [77] ∧
    ((after (.lookupUpstream []) (wanted.setTabs (fun x => { x with profiles := [] }))).egressQ (laneOf 9) 0).brine.map (fun f => f.flow) = [0] := by
  decide +kernel
theorem test_filter_drop : ((after (.lookupUpstream []) (wanted.setTabs (fun x => { x with filters := [((9, 2), ⟨3, 0, 0, 0, 0, 0⟩)] }))).egressQ (laneOf 9) 2).brine = [] := by
  decide +kernel

/-- A downstream frame waits whose key, its VLAN, has an entry to port 7 of terminal 0. -/
def downKey : Nat := tkeyOf 0xFFF 9 1 1 1
def incoming (l : Option Int) : State :=
  ((wanted.setTabs (fun x => { x with entries := [((hash0 downKey, 0), { learnt.entry with tkey := downKey })] })).putFlows
    [((9, 7), ⟨0, none, false, false⟩)]).setBuf (fun b => { b with ingress := [⟨1, 2, 0, 9, ipFrame, 0, .trunk, 0, l, 0, 0⟩] })

theorem test_lookupDownstream : ((incoming none).findKey downKey).isSome = true ∧
    (incoming none).admitFault 9 0 2 64 (lfsrNext (incoming none).buf.lfsr) = none ∧
    (State.takePages (queueNo 9 0 2) 1 0 (incoming none) []).isSome = true ∧
    ((after (.lookupDownstream []) (incoming none)).deepQ 9 0 2).frames.map (fun f => f.port) = [7] ∧
    ((after (.lookupDownstream []) (incoming (some 5))).tree 9).staged.map (fun f => f.launch) = [some 5] ∧
    (after (.lookupDownstream []) ((incoming none).setTabs (fun x => { x with profiles := [] }))).tabs.noProfile = 1 := by decide +kernel
theorem test_lookupDownstream_drops : (after (.lookupDownstream []) ((incoming none).putFlows [])).tabs.noPort = 1 ∧
    (after (.lookupDownstream []) ((incoming none).setTabs (fun x => { x with entries := [] }))).buf.ingress = [] := by decide +kernel

/-- The upstream profile of tree 9 learns into the downstream one, by source address. -/
def learning : State :=
  wanted.setTabs (fun x => { x with
    learnEn := true, entries := [],
    profiles := [((18, 1), ⟨true, 1, 2, 1, 3, [4, 0, 0, 0, 0, 0, 0, 0], 1, 0, 0x5000, 0⟩), ((19, 1), ⟨false, 1, 2, 0, 0, [8, 0, 0, 0, 0, 0, 0, 0], 1, 0, 3, 0⟩)] })

theorem test_lookupUpstream_learn : ((after (.lookupUpstream []) learning).tabs.learnQ).map (fun x => (x.term, x.port, x.handle, x.move)) = [(0, 7, 0x5000, false)] ∧
    ((after (.lookupUpstream []) learning).egressQ (laneOf 9) 3).brine.map (fun f => f.flow) = [0x5000] := by decide +kernel

/-! ### The rake -/

/-- Channel 6 programmed to copy 100 bytes from 0x1000 to 0x2000 in host memory, the first of them 0x5A. -/
def programmed : State :=
  (((((((lit.wr F.DMA_CHn_SRC.ADDR 6 0x1000).wr F.DMA_CHn_DST.ADDR 6 0x2000).wr F.DMA_CHn_S0.STEP 6 1).wr F.DMA_CHn_D0.STEP 6 1).wr
    F.DMA_CHn_CNT01.C0 6 100).wr F.DMA_CHn_CNT01.C1 6 1).wr F.DMA_CHn_CNT2.C2 6 1).hostWrite 0x1000 [0x5A#8]

def copying : State := after (.dmaStart 0 6 0) programmed

theorem test_dmaStart : (programmed.regProg 6).check 0 false = none ∧ copying.chState 6 = chRUNNING ∧
    (after (.dmaStart 0 6 0) (programmed.wr F.DMA_CHn_CNT2.C2 6 0)).rd F.DMA_CHn_STATUS.CFG_ERR 6 = 1 ∧
    (after (.dmaStart 0 6 0) (programmed.wr F.DMA_CHn_CNT2.C2 6 0)).flag F.DMA_CHn_EVENT.START_REFUSED 6 = true := by decide +kernel
/-- Channel 6 armed for frame 2. -/
def armed6 : State := after (.dmaStart 0 6 0x10) (programmed.wr F.DMA_CHn_START_AT.TUPLE 6 (2 * 2 ^ 25))

theorem test_dmaStart_armed : ((programmed.shortTuple (2 * 2 ^ 25)).any (fun t => decide (programmed.tide < t))) = true ∧
    armed6.chState 6 = chARMED ∧ (after (.rakeArmedStart 6) armed6).chState 6 = chARMED ∧
    (after (.rakeArmedStart 6) (armed6.putTb { armed6.tb with tideQ := 250000 * 2 ^ 76 })).chState 6 = chRUNNING ∧
    (after (.dmaStart 0 6 0x10) programmed).flag F.DMA_CHn_STATUS.LATE 6 = true := by decide +kernel
theorem test_dmaStart_refused : (after (.dmaStart 0 6 0) copying).flag F.DMA_CHn_EVENT.START_REFUSED 6 = true ∧
    (after (.dmaStart 0 6 0) (programmed.wr F.DMA_CHn_STATUS.OWNED 6 1)).rd F.DMA_CHn_STATUS.CFG_ERR 6 = 9 ∧
    (after (.dmaStart 0 6 8) (programmed.wr F.DMA_CHn_FIRST.ADDR 6 8)).rd F.DMA_CHn_STATUS.CFG_ERR 6 = 7 ∧
    (after (.dmaStart 0 6 8) (programmed.wr F.DMA_CHn_FIRST.ADDR 6 0x8000)).rd F.DMA_CHn_STATUS.ERR_CAUSE 6 = 5 := by decide +kernel
theorem test_rakeBurst : copying.nextChan 0 = some 6 ∧ copying.reqHigh 6 = true ∧ (burstOf copying 6).len = 100 ∧
    (after (.rakeBurst 0) copying).hostRead 0x2000 1 = [0x5A#8] ∧ (after (.rakeBurst 0) copying).chState 6 = chIDLE ∧
    (after (.rakeBurst 0) copying).rd F.DMA_CHn_BYTES.BYTES 6 = 100 := by decide +kernel

/-- A run of two bursts; from the scratch; and waiting for a peripheral. -/
theorem test_rakeBurst_part : (burstOf (after (.dmaStart 0 6 0) (programmed.wr F.DMA_CHn_CNT01.C0 6 900)) 6).len = 512 ∧
    ((after (.rakeBurst 0) (after (.dmaStart 0 6 0) (programmed.wr F.DMA_CHn_CNT01.C0 6 900))).chan 6).pos = 512 := by decide +kernel
theorem test_rakeBurst_scratch : ((programmed.wr F.DMA_CHn_SRC.ADDR 6 (3 * 2 ^ 60)).regProg 6).check 0 false = none ∧
    spaceOf (burstOf (after (.dmaStart 0 6 0) (programmed.wr F.DMA_CHn_SRC.ADDR 6 (3 * 2 ^ 60))) 6).src = 3 := by decide +kernel

def telemetry : State := after (.dmaStart 0 6 0x500) (programmed.wr F.DMA_CHn_SRC.ADDR 6 (4 * 2 ^ 60))

theorem test_wait : telemetry.chState 6 = chWAIT ∧ telemetry.reqHigh 6 = false ∧
    (telemetry.setTel 4 (List.replicate 7 (zeros 16))).reqHigh 6 = true ∧
    (after (.peripheralRequestRise 6) (telemetry.setTel 4 (List.replicate 7 (zeros 16)))).chState 6 = chRUNNING ∧
    (after (.rakeBurst 0) (telemetry.wr F.DMA_CHn_STATUS.STATE 6 chRUNNING)).chState 6 = chWAIT := by decide +kernel
theorem test_rakeBurstError : ((after (.rakeBurstError 6 0) (copying.wr F.DMA_RETRY.COUNT 0 2)).chan 6).fails = 1 ∧
    (after (.rakeBurstError 6 1) (copying.wr F.DMA_RETRY.COUNT 0 0)).chState 6 = chHALTED ∧
    (after (.rakeBurstError 6 1) (copying.wr F.DMA_RETRY.COUNT 0 0)).rd F.DMA_CHn_STATUS.ERR_CAUSE 6 = 2 ∧
    (after (.dmaResume 0 6 0) (after (.rakeBurstError 6 1) (copying.wr F.DMA_RETRY.COUNT 0 0))).chState 6 = chRUNNING := by decide +kernel

/-- Channel 6 with a write not acknowledged yet. -/
def unfenced : State := copying.setChan 6 { copying.chan 6 with unfenced := [⟨0, 0x2000, 0, 1, []⟩], serial := 1 }

theorem test_fence : (after (.dmaFence 0 6 0) copying).flag F.DMA_CHn_EVENT.FENCED 6 = true ∧
    ((after (.dmaFence 0 6 0) unfenced).chan 6).fences = [⟨1, false⟩] ∧
    (copying.chan 6).badLinks = 0 ∧ ((after (.fenceDone 6) (after (.dmaFence 0 6 0) unfenced)).chan 6).unfenced = [] ∧
    (after (.fenceTimeout 6 0) (after (.dmaFence 0 6 0) unfenced)).rd F.DMA_CHn_STATUS.ERR_CAUSE 6 = 4 := by decide +kernel

/-- Channel 6 at the end of a chain whose last descriptor, at 0x3000, links to 0x4000. -/
def desc : List Byte := leBytes 8 0x1000 ++ leBytes 8 0x2000 ++ leBytes 4 1 ++ leBytes 4 1 ++ zeros 16 ++ leBytes 2 8 ++ leBytes 2 1 ++ leBytes 2 1 ++ zeros 18
def ended : State :=
  (((copying.wr F.DMA_CHn_STATUS.STATE 6 chAT_END).wr F.DMA_CHn_TAIL.ADDR 6 0x3000).hostWrite 0x3038 (leBytes 8 0x4000)).hostWrite 0x4000 desc

theorem test_dmaKick : desc.length = 64 ∧ (progOf desc).check 0 (!zeroAt desc 48 8) = none ∧ (after (.dmaKick 0 6 0) ended).chState 6 = chRUNNING ∧
    ((after (.dmaKick 0 6 0) ended).chan 6).prog.c0 = 8 ∧ (after (.dmaKick 0 6 0) copying).rd F.DMA_CHn_KICK_IGN.COUNT 6 = 1 := by decide +kernel
theorem test_dmaStart_chain : (after (.dmaStart 0 6 8) (ended.wr F.DMA_CHn_FIRST.ADDR 6 0x4000)).chState 6 = chRUNNING ∧
    (after (.dmaKick 0 6 0) (ended.hostWrite 0x3038 [1#8])).chState 6 = chAT_END := by decide +kernel
theorem test_dmaDisable : copying.flag F.DMA_CHn_STATUS.OWNED 6 = false ∧ copying.mon.harvests = [] ∧ copying.tabs.cmds = [] ∧ copying.nextChan 0 = some 6 := by
  decide +kernel

/-! ### The fabric -/

/-- Link 2 of a device with its lanes locked; in codeword lock; and ADJACENT to device 9, the device itself holding address 5. -/
def laned : State := (((up.wr F.FAB_LINKn_STATUS.STATE 2 lkLOCKING).wr F.FAB_LINKn_STATUS.LOCK0 2 1).wr F.FAB_LINKn_STATUS.LOCK1 2 1)
def aligned : State := (laned.wr F.FAB_LINKn_STATUS.STATE 2 lkALIGNED).setLink 2 { FabLink.reset with credits := [64, 64, 64, 64] }
def joined : State :=
  (((((aligned.wr F.FAB_LINKn_STATUS.STATE 2 lkADJACENT).wr F.FAB_LINKn_STATUS.NEIGHBOUR 2 9).wr F.FAB_STATE.ADDR 0 5).wr
    F.FAB_STATE.DSTATE 0 fdADDRESSED).setRoute 9 [2] 1).setLink 2
    { FabLink.reset with credits := [64, 64, 64, 64], serial := some (Config.serial + 1), exch := 3, asked := some 5 }

/-- Blocks 0 to 74 of a codeword: the START blocks, an IDLE block that returns two credits of class 1, and data. -/
def content (seq : Nat) : List LaneBlock :=
  startBlock seq 0 :: startBlock seq 1 :: creditBlock ctIDLE (1, 2) :: List.replicate 72 (dataBlock 7)

/-- Codewords as the two lanes carry them, from a scrambler state on. -/
def carried : Nat × Nat → List (List LaneBlock) → List (List LaneBlock)
  | _, [] => []
  | p, w :: r => let x := scrambleWord p (codewordOf w); x.1 :: carried x.2 r

/-- Four codewords in a row; one alone; and that with four of its blocks muddled. -/
def four : List (List LaneBlock) := carried (0, 0) [content 0, content 1, content 2, content 3]
def heard : List LaneBlock := (scrambleWord (0, 0) (codewordOf (content 9))).1
def muddled : List LaneBlock := heard.take 10 ++ List.replicate 4 ⟨1, 0x123456789ABCDEF0#64⟩ ++ heard.drop 14

/-- A state, µs after reset; `joined` then. -/
def atUs (s : State) (us : Nat) : State := s.putTb { s.tb with ctc := usCtc us }
def later (us : Nat) : State := atUs joined us

theorem test_blockLock : up.fabOn = true ∧ laned.lkState 2 ≠ lkDOWN ∧
    (after (.blockLockChange 4 (List.replicate 64 ⟨1, 0#64⟩) false) (laned.wr F.FAB_LINKn_STATUS.LOCK0 2 0)).flag F.FAB_LINKn_STATUS.LOCK0 2 = true ∧
    (after (.blockLockChange 5 (List.replicate 16 ⟨0, 0#64⟩) false) aligned).lkState 2 = lkLOCKING ∧
    (after (.blockLockChange 5 (List.replicate 15 ⟨3, 0#64⟩) false) aligned).lkState 2 = lkALIGNED ∧
    (after (.blockLockChange 5 [] true) aligned).lkState 2 = lkLOCKING := by decide +kernel
theorem test_codewordOf : (content 9).length = 75 ∧ codewordRead (codewordOf (content 9)) = some (0, content 9) := by decide +kernel
theorem test_codewordLock : (laned.hearWords 2 four).2 = true ∧ ((after (.codewordLock 2 32 four) laned).link 2).credits = [63, 64, 64, 64] ∧
    (after (.codewordLock 2 33 four) laned).lkState 2 = lkLOCKING := by decide +kernel
theorem test_codeword : lkALIGNED ≤ (aligned.hearWord 2 true (eighty heard)).lkState 2 ∧
    ((after (.codewordReceived 2 heard) aligned).link 2).credits = [64, 66, 64, 64] := by decide +kernel
theorem test_codeword_bad : (after (.codewordReceived 2 muddled) aligned).rd F.FAB_LINKn_FEC_UNCORR.COUNT 2 = 1 := by decide +kernel
theorem test_helloSend : linkReady aligned 2 0 ∧ aligned.since (aligned.link 2).helloAt < aligned.helloTicks ∧
    aligned.helloTicks ≤ (atUs aligned 1000).since ((atUs aligned 1000).link 2).helloAt := by
  unfold linkReady
  decide +kernel
theorem test_hello_own : ∃ h : Hello, h.serial = Config.serial := ⟨⟨Config.serial, 0, 0, none⟩, rfl⟩
theorem test_hello_other : ∃ h : Hello, h.serial ≠ Config.serial ∧ h.heard = some Config.serial :=
  ⟨⟨Config.serial + 1, 9, 4, some Config.serial⟩, by simp, rfl⟩
theorem test_hello_oneWay : ∃ h : Hello, h.serial ≠ Config.serial ∧ h.heard ≠ some Config.serial :=
  ⟨⟨Config.serial + 1, 9, 4, none⟩, by simp, by simp⟩

theorem test_helloDead : joined.adjacent 2 = true ∧ joined.nextHops 9 = [2] ∧ (after (.helloDead 2) (later 10000)).lkState 2 = lkALIGNED ∧
    (after (.helloDead 2) (later 10000)).nextHops 9 = [] ∧
    (after (.helloDead 2) (later 10000)).rd F.FAB_LINKn_STATUS.NEIGHBOUR 2 = 0x7F := by decide +kernel
theorem test_fabLinkEn : (after (.fabLinkEnWrite 0 2 1) up).lkState 2 = lkLOCKING ∧ (after (.fabLinkEnWrite 0 2 0) aligned).lkState 2 = lkDOWN := by
  decide +kernel

/-- A TABLE_SYNC cell from 7 to 9 with 12 hops left; the same with a bit wrong, with no hop left, for 5, and for an address that no
device holds; and a CLAIM that is flooded. -/
def passing : List Byte := cellBytes 9 7 false 2 6 12 4 true true 1 0 (zeros 4)
def broken : List Byte := passing.set 20 1#8
def spent : List Byte := cellBytes 9 7 false 2 6 0 4 true true 1 0 (zeros 4)
def mine : List Byte := cellBytes 5 7 false 2 6 12 4 true true 1 0 (zeros 4)
def nowhere : List Byte := cellBytes 64 7 false 2 6 12 4 true true 1 0 (zeros 4)
def everywhere : List Byte := cellBytes 127 9 false 2 6 12 4 true true 1 0 (zeros 4)

theorem test_cell_bad : fabCellBad broken = true ∧ (after (.cellReceived 2 broken) joined).rd F.FAB_DROP_CRC.COUNT 0 = 1 := by decide +kernel
theorem test_cell_checks : fabCellBad passing = false ∧ cellDst passing = 9 ∧ cellHops passing = 12 ∧ cellHops spent = 0 ∧ cellDst mine = joined.fabAddr ∧
    fabCellBad (cellHop passing) = false ∧ cellHops (cellHop passing) = 11 := by decide +kernel
theorem test_cell_drops : (after (.cellReceived 2 spent) joined).rd F.FAB_DROP_HOPS.COUNT 0 = 1 ∧
    (after (.cellReceived 2 nowhere) joined).rd F.FAB_DROP_ROUTE.COUNT 0 = 1 ∧
    (after (.cellReceived 2 mine) joined).rd F.FAB_LINKn_CELLS_RX.COUNT 2 = 1 := by decide +kernel
theorem test_cell_forward : joined.hopFor 9 7 2 = some 2 ∧ (joined.link 2).txq = [] ∧
    (after (.cellReceived 2 passing) joined).out.length = 1 ∧ (joined.link 2).credits.getD 2 0 = 64 := by decide +kernel
theorem test_cell_broadcast : cellDst everywhere = 127 ∧ 2 ∈ joined.nextHops (cellSrc everywhere) ∧
    (joined.wr F.FAB_LINKn_STATUS.STATE 3 lkADJACENT).floodLinks (some 2) = [3] := by decide +kernel
theorem test_flooded : ∃ serial, serial ≠ Config.serial ∧ serial < 2 ^ 64 ∧ (joined.floodNew serial 1 4).isSome = true :=
  ⟨if Config.serial = 3 then 4 else 3, by split <;> omega, by split <;> omega, by split <;> decide +kernel⟩
theorem test_claimCell : floodedCell (cellBytes 127 9 false 0 1 63 13 true true 4 0 (leBytes 8 3 ++ leBytes 1 5 ++ leBytes 4 4)) 1 = true ∧
    leAt (cellBytes 127 9 false 0 1 63 13 true true 4 0 (leBytes 8 3 ++ leBytes 1 5 ++ leBytes 4 4)) 16 8 = 3 ∧
    leAt (cellBytes 127 9 false 0 1 63 13 true true 4 0 (leBytes 8 3 ++ leBytes 1 5 ++ leBytes 4 4)) 24 1 = 5 ∧
    floodedCell (cellBytes 127 9 false 0 2 63 18 true true 4 0 (leBytes 8 3 ++ [9#8, 1#8] ++ leBytes 4 4 ++ [1#8, 5#8, 2#8, 7#8])) 2 = true ∧
    routeAdj 2 ((cellBytes 127 9 false 0 2 63 18 true true 4 0 (leBytes 8 3 ++ [9#8, 1#8] ++ leBytes 4 4 ++ [1#8, 5#8, 2#8, 7#8])).drop 30) =
      [(1, 5), (2, 7)] := by decide +kernel

/-- A device that claims address 6; and one whose database holds device 9, a keeper, joined to it by link 2 and to device 11. -/
def claiming : State := (joined.wr F.FAB_STATE.DSTATE 0 fdCLAIMING).putFab { joined.fab with cand := some 6 }
def mapped : State :=
  (joined.wr F.FAB_LINKn_STATUS.NLINK 2 4).putFab { joined.fab with dirty := true, db := [⟨77, 9, true, 1, [(4, 5), (1, 11)], 0⟩, ⟨78, 11, false, 1, [(0, 9)], 0⟩] }

theorem test_claims : claiming.fab.cand = some 6 ∧ (after .claimTimer (atUs claiming 2000)).fabAddr = 6 ∧ (after .claimTimer (atUs claiming 1999)).fdState = fdCLAIMING ∧
    (after .claimRepeat (atUs claiming 500)).fab.claimSeq = 1 ∧ (after .claimRepeat (atUs claiming 499)).fab.claimSeq = 0 ∧
    (after .routePeriodic (later 10000)).fab.routeSeq = 1 := by decide +kernel
theorem test_unaddressed : (up.wr F.FAB_STATE.DSTATE 0 fdUNADDRESSED).candidate = some 0 ∧
    (after .unaddressedTimer (atUs (up.wr F.FAB_STATE.DSTATE 0 fdUNADDRESSED) 10000)).fdState = fdCLAIMING ∧
    (after (.fabReclaim 0 1) joined).fabAddr = 0x7F := by decide +kernel
theorem test_ageOut : (after .routeAgeOut (mapped.putTb { mapped.tb with ctc := usCtc 40000 })).fab.db = [] ∧
    (after .routeAgeOut (mapped.putTb { mapped.tb with ctc := usCtc 39999 })).fab.db.length = 2 := by decide +kernel
theorem test_recompute : hopsFrom mapped.fabEdges 5 = [(5, 0), (9, 1), (11, 2)] ∧
    (after .routeRecompute mapped).rd F.FAB_ROUTEd.HOPS 11 + 256 * (after .routeRecompute mapped).rd F.FAB_STATE.KEEPER 0 = 2 + 256 * 9 := by decide +kernel

/-- A keeper of 6 ms' standing, at CTC 10 ms, that granted device 9 the lease of pair 40. -/
def keeping : State :=
  (joined.putTb { joined.tb with ctc := usCtc 10000 }).putFab { joined.fab with keeperSince := some (usCtc 4000), leases := [((40, 0), ⟨9, usCtc 12000⟩)] }

theorem test_lease : keeping.hopFor 9 5 0 = some 2 ∧ (after (.leaseRequestReceived ⟨40, 9, true⟩) keeping).out = [.cell 2 (.leaseAns 9 ⟨40, true, 0⟩)] ∧
    smFind (after (.leaseRequestReceived ⟨40, 9, true⟩) keeping).fab.leases (40, 0) = some ⟨9, usCtc 14000⟩ ∧
    (after (.leaseRequestReceived ⟨40, 9, false⟩) (keeping.putFab { keeping.fab with keeperSince := some (usCtc 6000) })).out =
      [.cell 2 (.leaseAns 9 ⟨40, false, 2000⟩)] ∧
    (keeping.setRoute 11 [2] 2).hopFor 11 5 0 = some 2 ∧
    (after (.leaseRequestReceived ⟨40, 11, false⟩) (keeping.setRoute 11 [2] 2)).out = [.cell 2 (.leaseAns 11 ⟨40, false, 2000⟩)] := by decide +kernel
theorem test_tideCells : (after (.tideCellSend 2) joined).out = [.cell 2 (.tide ⟨joined.tide, none, 0x7F, some (5, 0, 0)⟩)] ∧
    (after (.tideCellReceived 2 ⟨1000, some (400, 100), 9, none⟩) joined).rd F.FAB_LINKn_TIDE_OFS.THETA 2 = 650 - (joined.tide.toNat / 2) := by
  decide +kernel
theorem test_remote : (joined.wr F.FAB_CFG.REMOTE_RD_EN 0 0).remoteServed ⟨false, 5, 9, 1, 3, 0, 8, []⟩ = false ∧ joined.hopFor 9 5 2 = some 2 ∧
    joined.flag F.FAB_CFG.REMOTE_RD_EN 0 = true ∧
    ((after (.remoteAccessReceived ⟨true, 5, 9, 1, 3, 0x100, 2, [1#8, 2#8]⟩) (joined.wr F.FAB_CFG.REMOTE_WR_EN 0 1)).scratch.map (fun c => c.2)) =
      [1#8, 2#8] ∧
    (after (.remoteAccessReceived ⟨false, 5, 9, 1, 3, 0x100, 2, []⟩) joined).out = [.cell 2 (.remoteRsp 9 ⟨1, 5, false, false, zeros 2⟩)] ∧
    (after (.remoteAccessReceived ⟨false, 5, 9, 1, 2, 0x10, 4, []⟩) joined).out = [.cell 2 (.remoteRsp 9 ⟨1, 5, false, false, zeros 4⟩)] := by
  decide +kernel

/-- Channel 6 reading 4 bytes of a remote device, two of which have come. -/
def remoteReading : State :=
  after (.dmaStart 0 6 0) (((programmed.wr F.DMA_CHn_CNT01.C0 6 4)).wr F.DMA_CHn_DST.ADDR 6 0x2000)
def halfRead : State :=
  remoteReading.setChan 6 { remoteReading.chan 6 with tag := 7, remoteRead := [⟨4, some [7#8, 8#8]⟩, ⟨5, none⟩], remoteWrites := [⟨6, 0, 0, [], 0⟩] }

theorem test_remoteRsp : halfRead.chState 6 = chRUNNING ∧ spaceOf (burstOf halfRead 6).dst = 0 ∧
    (after (.remoteRspReceived ⟨6, 5, false, false, [9#8, 1#8]⟩) halfRead).hostRead 0x2000 4 = [7#8, 8#8, 9#8, 1#8] ∧
    (after (.remoteRspReceived ⟨6, 4, false, false, [9#8, 1#8]⟩) halfRead).hostRead 0x2000 4 = zeros 4 ∧
    ((after (.remoteRspReceived ⟨6, 6, true, false, []⟩) halfRead).chan 6).remoteWrites = [] ∧ 0 < halfRead.rd F.DMA_RETRY.COUNT 0 ∧
    ((after (.remoteRspReceived ⟨6, 6, true, true, []⟩) halfRead).chan 6).remoteWrites = [⟨7, 0, 0, [], 1⟩] := by decide +kernel
theorem test_fabStatus : given (ask 0x0710 [] served) 0x0710 false true [] = true ∧ status (after (.fabStatus (.mbx 3)) (ask 0x0710 [] served)) = stOK := by
  decide +kernel

/-! ### Protection -/

/-- A device that serves commands, is joined to device 9 by link 2 and measures its tide; tree 9 configured. -/
def linked : State :=
  (((((((({ lit with fabLinks := joined.fabLinks }).wr F.FAB_LINKn_STATUS.STATE 2 lkADJACENT).wr F.FAB_LINKn_STATUS.NEIGHBOUR 2 9).wr
    F.FAB_STATE.ADDR 0 5).wr F.FAB_STATE.DSTATE 0 fdADDRESSED).setRoute 9 [2] 1).wr F.FAB_MEMBERS.MEMBERS 0 0x220).setLink 2
      { joined.link 2 with exch := 4 }).wr F.TRE_STATE.CONFIGURED 9 1

/-- Tree 9 in pair 40 with device 9, in a tree state and a protection state. -/
def paired (st ps : Nat) (p : ProtTree) : State :=
  ((((linked.wr F.TRE_STATE.STATE 9 st).wr F.PROT_Tt_STATE.PSTATE 9 ps).wr F.PROT_Tt_STATE.PARTNER 9 9).wr F.PROT_Tt_STATE.PAIR_ID 9 40).setProt 9 p
def standing (ps : Nat) : State := paired trSTANDBY ps { ProtTree.reset with role := 2, slotBase := some 2048 }
def sender (ps : Nat) : State := paired trACTIVE ps { ProtTree.reset with role := 1, pState := psREADY }

def pairP (role : Nat) : List Byte :=
  [9#8] ++ leBytes 1 role ++ leBytes 2 40 ++ [9#8, 0#8, 0#8, 0#8] ++ leBytes 4 (if role = 2 then 2048 else if role = 1 then 0xFFFFFFFF else 0) ++
    zeros 4 ++ (if role = 0 then [] else beBytes 16 0x33) ++ zeros 24

def able : State := linked.wr F.TRE_STATE.STATE 9 trACTIVE

theorem test_protPair : given (ask 0x0701 (pairP 1) able) 0x0701 false false (pairP 1) = true ∧ (able.pairFault (pairP 1)).isNone = true ∧
    (able.prot 9).hs = none ∧
    (((after (.protPair (.mbx 3)) (ask 0x0701 (pairP 1) able)).prot 9).hs.map (fun h => (h.pairId, h.partner, h.key))) = some (40, 9, 0x33) := by
  decide +kernel
theorem test_protPair_refused : given (ask 0x0701 ((pairP 1).set 4 8#8) able) 0x0701 false false ((pairP 1).set 4 8#8) = true ∧
    byteAt (rsp (after (.protPair (.mbx 3)) (ask 0x0701 ((pairP 1).set 4 8#8) able))) 1 = 1 := by decide +kernel
theorem test_protPair_busy : (able.setProt 9 { ProtTree.reset with hs := some ⟨none, 1, 40, 9, false, 0, 0, 0, 0, none⟩ }).pairFault (pairP 1) = none ∧
    status (after (.protPair (.mbx 3)) (ask 0x0701 (pairP 1) (able.setProt 9 { ProtTree.reset with hs := some ⟨none, 1, 40, 9, false, 0, 0, 0, 0, none⟩ }))) =
      stBUSY := by decide +kernel
theorem test_dissolve_none : able.ps 9 = psNONE ∧ given (ask 0x0701 (pairP 0) able) 0x0701 false false (pairP 0) = true ∧
    byteAt (rsp (after (.protPair (.mbx 3)) (ask 0x0701 (pairP 0) able))) 1 = trACTIVE := by decide +kernel
theorem test_dissolve : given (ask 0x0701 (pairP 0) (sender psALONE)) 0x0701 false false (pairP 0) = true ∧
    (after (.protPair (.mbx 3)) (ask 0x0701 (pairP 0) (sender psALONE))).ps 9 = psNONE ∧
    status (after (.protPair (.mbx 3)) (ask 0x0701 (pairP 0) (sender psALONE))) = stOK := by decide +kernel
theorem test_leave : (after (.leaveReceived 9 0 true) (sender psSENDING)).ps 9 = psNONE ∧
    (after (.leaveReceived 9 0 false) (sender psSENDING)).ps 9 = psALONE ∧
    (after (.leaveReceived 9 0 true) (paired trSTANDBY psREADY ProtTree.reset)).tstate 9 = trDISABLED := by decide +kernel

/-- The handshake of a standby under way, and its partner's matching announcement. -/
def hsOf (theirs : Option Handshake) : ProtHs := ⟨some (.mbx 3), 2, 40, 9, false, 2048, 0, 0x33, 0, theirs⟩
def shaking (theirs : Option Handshake) : State := linked.setProt 9 { ProtTree.reset with hs := some (hsOf theirs) }
def matching : Handshake :=
  { linked.ownAnnouncement 9 (hsOf none) with from_ := 9, to_ := 5, role := 1 }

theorem test_handshake_linked : linked.pairState 9 2 40 9 = true ∧ linked.tideOffset 9 = some 0 ∧ linked.fabAddr = 5 ∧
    (linked.ownAnnouncement 9 (hsOf none)).ponId = 0 := by decide +kernel
theorem test_handshake : ∀ theirs, ((shaking theirs).prot 9).hs = some (hsOf theirs) ∧ (shaking theirs).pairState 9 2 40 9 = true ∧
    (shaking theirs).tideOffset 9 = some 0 ∧ (shaking theirs).ownAnnouncement 9 (hsOf theirs) = linked.ownAnnouncement 9 (hsOf none) :=
  fun _ => ⟨rfl, test_handshake_linked.1, test_handshake_linked.2.1, rfl⟩
theorem test_handshake_alone : (sender psALONE).hopFor 9 5 1 = some 2 ∧ ((sender psALONE).link 2).credits.getD 1 0 = 64 ∧
    ((sender psALONE).prot 9).hs = none ∧ (after (.handshakeReceived 9 { matching with role := 2, pairId := 40 }) (sender psALONE)).out.length = 1 := by
  decide +kernel
theorem test_handshake_kept : (((after (.handshakeReceived 9 matching) (shaking none)).prot 9).hs.map (fun x => x.theirs.isSome)) = some true := by
  decide +kernel
theorem test_handshake_agrees : (shaking (some matching)).handshakeFault 9 (hsOf (some matching)) matching = none := by
  have h := test_handshake (some matching)
  have m : matching.from_ = 9 ∧ matching.to_ = linked.fabAddr ∧ matching.role = 1 := ⟨rfl, test_handshake_linked.2.2.1.symm, rfl⟩
  have o : (hsOf (some matching)).partner = 9 := rfl
  simp only [State.handshakeFault, h.2.2.2, o, h.2.2.1, m.1, m.2.1, m.2.2]
  simp [firstFault, matching, State.ownAnnouncement, State.announcement, hsOf]
theorem test_handshake_differs : ((shaking (some { matching with ponId := 7 })).handshakeFault 9 (hsOf (some { matching with ponId := 7 }))
    { matching with ponId := 7 }).isSome = true := by
  have h := test_handshake (some { matching with ponId := 7 })
  have b := test_handshake_linked.2.2.2
  simp only [State.handshakeFault, h.2.2.2, b, firstFault]
  split <;> simp
theorem test_handshake_late : (after (.protHandshakeDone 9 true) (atUs (shaking none) 100000)).prot 9 = ProtTree.reset ∧
    status (after (.protHandshakeDone 9 true) (atUs (shaking none) 100000)) = stTIMEOUT ∧
    ((after (.protHandshakeDone 9 true) (atUs (shaking none) 99999)).prot 9).hs.isSome = true := by decide +kernel
theorem test_handshake_conflict : ((shaking (some matching)).wr F.TRE_STATE.STATE 9 trACTIVE).pairState 9 2 40 9 = false ∧
    byteAt (rsp (after (.protHandshakeDone 9 false) ((shaking (some matching)).wr F.TRE_STATE.STATE 9 trACTIVE))) 1 = 0x80 + trACTIVE := by
  decide +kernel

def switchReq (mode : Nat) : List Byte := [9#8] ++ leBytes 1 mode ++ zeros 6 ++ zeros 8
theorem test_protSwitch : given (ask 0x0702 (switchReq 0) (sender psSENDING)) 0x0702 false false (switchReq 0) = true ∧
    (((after (.protSwitch (.mbx 3)) (ask 0x0702 (switchReq 0) (sender psSENDING))).prot 9).sw.map (fun w => w.at_)) = some (linked.frame 9 + 4) ∧
    given (ask 0x0702 (switchReq 1) (standing psREADY)) 0x0702 false false (switchReq 1) = true ∧
    (after (.protSwitch (.mbx 3)) (ask 0x0702 (switchReq 1) (standing psREADY))).ps 9 = psTAKING ∧
    (after (.protSwitch (.mbx 3)) (ask 0x0702 (switchReq 1) (standing psREADY))).tstate 9 = trACTIVE := by decide +kernel
theorem test_protStatus : given (ask 0x0703 [9#8] (sender psALONE)) 0x0703 false true [9#8] = true ∧
    (slice (rsp (after (.protStatus (.mbx 3)) (ask 0x0703 [9#8] (sender psALONE)))) 8 3) = [9#8, 2#8, 2#8] := by decide +kernel

/-- A DIGEST without bursts; STATUS bodies. -/
def digestBody : List Byte := leBytes 4 7 ++ zeros 20
def statusP (ps flags : Nat) : List Byte := leBytes 1 ps ++ [2#8] ++ leBytes 1 flags ++ [0#8] ++ zeros 12 ++ leBytes 8 77

theorem test_digest : (standing psREADY).digestArrives 9 5 digestBody = true ∧ (standing psREADY).digestArrives 9 5 (digestBody.set 6 1#8) = false ∧
    (((after (.digestReceived 9 5 digestBody) (standing psREADY)).prot 9).digests.map (fun d => d.1)) = [5] ∧
    ((after (.digestReceived 9 5 (digestBody.set 6 1#8)) (standing psREADY)).prot 9).digests = [] ∧
    (after (.digestReceived 9 5 digestBody) (standing psCLAIMING)).ps 9 = psSYNCING := by decide +kernel
theorem test_status_standby : (after (.statusReceived 9 3 (statusP psSENDING 4)) (standing psREADY)).ps 9 = psTAKING ∧
    (((after (.statusReceived 9 3 (statusP psSENDING 8)) (standing psREADY)).prot 9).sw.map (fun w => w.at_)) = some 77 ∧
    (after (.statusReceived 9 3 (statusP psSENDING 1)) (standing psHELD)).ps 9 = psYIELDED := by decide +kernel
theorem test_status_sender : (after (.statusReceived 9 3 (statusP psSYNCING 0)) (sender psALONE)).ps 9 = psSENDING ∧
    (after (.statusReceived 9 3 (statusP psTAKING 1)) (sender psSENDING)).ps 9 = psYIELDED ∧
    (after (.statusReceived 9 3 (statusP psHELD 0)) (sender psTAKING)).ps 9 = psSENDING ∧
    (after (.statusReceived 9 3 (statusP psSYNCING 0)) ((sender psTAKING).wr F.PROT_Tt_STATE.CAUSE 9 10)).ps 9 = psSENDING ∧
    (after (.statusReceived 9 3 (statusP psSYNCING 0)) (sender psTAKING)).ps 9 = psTAKING ∧
    (after (.statusReceived 9 3 (statusP psALONE 2)) (sender psALONE)).ps 9 = psYIELDED ∧
    (after (.statusReceived 9 3 (statusP psALONE 2)) (sender psALONE)).flag F.PROT_EVENT.DUAL 0 = true := by decide +kernel

def flowRec : List Byte := [9#8, 4#8] ++ leBytes 2 7 ++ leBytes 2 0 ++ leBytes 2 0xFFFF
theorem test_delta : flowRec.length = 8 ∧ smFind (after (.deltaReceived 9 3 (recBytes 2 flowRec) false) (standing psREADY)).flows (9, 7) = some ⟨0, none, false, true⟩ ∧
    (after (.deltaReceived 9 3 [] true) (standing psREADY)).ps 9 = psSYNCING ∧
    (after (.deltaReceived 9 3 (recBytes 6 (zeros 4 ++ leBytes 2 3000 ++ zeros 18)) false) (standing psREADY)).rd F.TRE_CFG.MAX_FRAME 9 = 3000 ∧
    ((after (.deltaReceived 9 3 (recBytes 1 (zeros 2 ++ leBytes 2 6 ++ beBytes 8 0x4142 ++ zeros 57 ++ leBytes 1 tmOPERATION ++ zeros 34)) false)
      (standing psREADY)).term 9 6).serial = 0x4142 := by decide +kernel
theorem test_delta_flows : (after (.deltaReceived 9 3 (recBytes 2 (flowRec.set 5 4#8)) false) (standing psREADY)).rd F.PROT_Tt_MIRROR_ERR.COUNT 9 = 1 ∧
    smFind (after (.deltaReceived 9 3 (recBytes 2 (flowRec.set 1 1#8)) false) { standing psREADY with flows := [((9, 7), ⟨0, none, false, true⟩)] }).flows (9, 7) = none := by
  decide +kernel
theorem ports_absent (l : List Nat) : smFind (l.map (fun p => (((9, p + 8) : Key), (⟨0, none, false, true⟩ : Flow)))) (9, 7) = none := by
  induction l with
  | nil => rfl
  | cons a l ih => simp only [List.map_cons, smFind, ih]; simp
theorem ports_count (l : List Nat) :
    ((l.map (fun p => (((9, p + 8) : Key), (⟨0, none, false, true⟩ : Flow)))).filter (fun e => e.1.1 == 9)).length = l.length := by
  induction l with
  | nil => rfl
  | cons a l ih => simp [List.map_cons, ih]
theorem test_delta_full : ∃ s : State, smFind s.flows (9, 7) = none ∧ 16384 ≤ s.portsUsed 9 ∧ psListens (s.ps 9) = true := by
  obtain ⟨l, hl⟩ : ∃ l : List Nat, l.length = 16384 := ⟨List.range 16384, List.length_range⟩
  have h : psListens ((standing psREADY).ps 9) = true := by decide +kernel
  exact ⟨{ standing psREADY with flows := l.map (fun p => ((9, p + 8), ⟨0, none, false, true⟩)) }, ports_absent l,
    Nat.le_of_eq ((ports_count l).trans hl).symm, h⟩
theorem test_copy : ((after (.copyReceived 9 3 (recBytes 2 flowRec ++ recBytes 7 (leBytes 4 1)) false) (standing psSYNCING)).prot 9).copyEnd = true ∧
    (after (.copyReceived 9 3 (recBytes 2 flowRec ++ recBytes 7 (leBytes 4 2)) false) (standing psSYNCING)).rd F.PROT_Tt_STATE.CAUSE 9 = 12 := by decide +kernel
theorem test_tableSync : (List.range 96).find? (fun t => psListens ((standing psREADY).ps t) && (standing psREADY).rd F.PROT_Tt_STATE.PAIR_ID t == 40) = some 9 ∧
    (standing psREADY).tblState ≠ 2 ∧ (after (.tableSyncReceived 40 (1#8 :: zeros 43) false) (standing psREADY)).rd F.PROT_Tt_MIRROR_ERR.COUNT 9 = 1 ∧
    (after (.tableSyncReceived 40 [] true) (standing psREADY)).ps 9 = psSYNCING := by decide +kernel
theorem test_quenchPassed : ((after (.quenchFromPartner 9 (quenchP 0 0)) ((sender psSENDING).setTerm 9 0 (oper.term 9 0))).term 9 0).state = tmSTOPPED ∧
    byteAt (quenchP 0 0) 0 = 9 ∧ ((sender psSENDING).prot 9).quench = [] := by decide +kernel
theorem test_quenchAnswered : ∃ s : State, ∃ rest, (s.prot 9).quench = .mbx 3 :: rest := ⟨linked.setProt 9 { ProtTree.reset with quench := [.mbx 3] }, [], rfl⟩

/-- A side that asked for its lease at CTC 0, in a protection state. -/
def leaseAsked (ps : Nat) : State := paired trACTIVE ps { ProtTree.reset with role := 1, asked := some 0 }
theorem test_leaseAnswer : (after (.leaseAnswerReceived 9 ⟨40, true, 0⟩) (leaseAsked psTAKING)).ps 9 = psSENDING ∧
    ((after (.leaseAnswerReceived 9 ⟨40, true, 0⟩) (leaseAsked psALONE)).prot 9).leaseEnds = some (usCtc 4000) ∧
    (after (.leaseAnswerReceived 9 ⟨40, false, 5⟩) (leaseAsked psALONE)).rd F.PROT_Tt_LEASE_REFUSED.COUNT 9 = 1 := by decide +kernel

def seated : State := ((sender psALONE).wr F.FAB_STATE.KEEPER 0 5).wr F.PROT_Tt_STATE.LEASE 9 1
theorem test_leaseRequest : (sender psALONE).leaseDue 9 = true ∧ able.leaseDue 9 = false ∧ ((sender psALONE).wr F.FAB_STATE.KEEPER 0 9).hopFor 9 5 0 = some 2 ∧
    (after (.leaseRequestTimer 9) ((sender psALONE).wr F.FAB_STATE.KEEPER 0 9)).out.length = 1 ∧
    ((after (.leaseRequestTimer 9) (seated.putFab { seated.fab with keeperSince := some 0, leases := [((40, 0), ⟨5, 0⟩)] })).prot 9).leaseEnds =
      some (usCtc 4000) := by decide +kernel

/-- A side whose lease ends at CTC 0, a moment later. -/
def lapsed (ps : Nat) : State := paired trACTIVE ps { ProtTree.reset with role := 1, leaseEnds := some 0 }
theorem test_leaseExpire : (lapsed psALONE).past 0 = true ∧ (after (.leaseExpire 9) (lapsed psALONE)).ps 9 = psHELD ∧
    (after (.leaseExpire 9) (lapsed psALONE)).tstate 9 = trSTANDBY ∧ (after (.leaseExpire 9) (lapsed psSENDING)).ps 9 = psSENDING := by decide +kernel
theorem test_takingTimeout : (after (.takingTimeout 9) (paired trACTIVE psTAKING { ProtTree.reset with takeF := -9 })).ps 9 = psCLAIMING ∧
    (-9 : Int) + 2 ≤ linked.frame 9 := by decide +kernel

/-! ### Power domains -/

def powerP (d target fl : Nat) (at_ : List Byte) : List Byte := leBytes 1 d ++ leBytes 1 target ++ leBytes 1 fl ++ zeros 5 ++ at_

/-- `lit` with a domain in a state. -/
def dom (d st : Nat) : State := lit.wr F.PWR_Dd_STATE.STATE d st

theorem test_pwrRequest_on : given (ask 0x0601 (powerP 55 0 0 []) (dom 55 pwRET)) 0x0601 false false (powerP 55 0 0 []) = true ∧
    (after (.pwrRequest (.mbx 3)) (ask 0x0601 (powerP 55 0 0 []) (dom 55 pwRET))).pw 55 = pwRISING ∧
    slice (rsp (after (.pwrRequest (.mbx 3)) (ask 0x0601 (powerP 55 0 0 []) (dom 55 pwRET)))) 8 6 = [55#8, 3#8, 0#8, 0#8, 1#8, 0#8] := by decide +kernel
theorem test_pwrRequest_fall : lit.pwrRefusal 55 pwRET = none ∧ lit.pwrRefusal 54 pwOFF = some 6 ∧
    byteAt (rsp (after (.pwrRequest (.mbx 3)) (ask 0x0601 (powerP 54 2 0 []) lit))) 1 = 6 ∧
    byteAt (rsp (after (.pwrRequest (.mbx 3)) (ask 0x0601 (powerP 55 0 0 []) lit))) 10 = 3 := by decide +kernel
theorem test_pwrRequest_at : (lit.shortTuple (3 * 2 ^ 25)).any (fun i => decide (lit.tide < i)) = true ∧
    ((after (.pwrRequest (.mbx 3)) (ask 0x0601 (powerP 55 1 1 (leBytes 8 (3 * 2 ^ 25))) lit)).dom 55).sched.map (fun x => x.1) = some pwRET ∧
    byteAt (rsp (after (.pwrRequest (.mbx 3)) (ask 0x0601 (powerP 55 1 2 []) lit))) 10 = 5 := by decide +kernel
theorem test_pwrStatus : given (ask 0x0602 [55#8] lit) 0x0602 true true [55#8] = true ∧
    status (after (.pwrStatus (.mbx 3)) (ask 0x0602 [55#8] lit)) = stOK := by decide +kernel
theorem test_idleTimer : (lit.wr F.PWR_Dd_IDLE.IDLE_US 55 9).idleNow 55 = true ∧
    (after (.idleTimer 55) (lit.wr F.PWR_Dd_IDLE.IDLE_US 55 9)).pw 55 = pwFALLING ∧ (lit.pwrRefusal 50 pwRET).isSome = true ∧
    (lit.wr F.PWR_Dd_IDLE.IDLE_US 52 9).idleNow 52 = true ∧ (lit.pwrRefusal 52 pwRET).isSome = true ∧
    (after (.idleTimer 52) (lit.wr F.PWR_Dd_IDLE.IDLE_US 52 9)).rd F.PWR_Dd_REFUSED.COUNT 52 = 1 := by decide +kernel

def planned (d st tg : Nat) : State := (dom d st).setDom d { PowerDom.reset with sched := some (tg, 0) }

theorem test_scheduled : (after (.scheduledRequest 55) (planned 55 pwOFF pwON)).pw 55 = pwRISING ∧
    (after (.scheduledRequest 55) (planned 55 pwON pwRET)).pw 55 = pwFALLING ∧
    (after (.scheduledRequest 54) (planned 54 pwON pwOFF)).flag F.PWR_EVENT.REQ_DROPPED 0 = true := by decide +kernel

/-- A Sluice unit's domain falling towards a target, and with a wake latched; the fabric's domain rising at a stage. -/
def falling (tg : Nat) : State := ((dom 49 pwFALLING).wr F.PWR_Dd_STATE.TARGET 49 tg).setDom 49 { PowerDom.reset with curSeq := 7 }
def rising (st : Nat) : State := ((dom 55 pwRISING).wr F.PWR_Dd_STATE.STAGE 55 st).setDom 55 { PowerDom.reset with curSeq := 7, from_ := pwOFF }
def rewoken : State := (((falling pwRET).wr F.PWR_Dd_STATE.PENDING 49 1).wr F.PWR_Dd_STATE.PEND_TARGET 49 pwON).wr F.PWR_Dd_SEQ.PEND_SEQ 49 8

theorem test_entryDone : (falling pwRET).entryReady 49 = true ∧ (after (.domainEntryDone 49) (falling pwRET)).pw 49 = pwRET ∧
    (after (.domainEntryDone 49) (falling pwOFF)).pw 49 = pwOFF := by decide +kernel
theorem test_entryPending : (after (.domainEntryDone 49) rewoken).pw 49 = pwRISING := by decide +kernel
theorem test_stageReady : (rising 1).railsOf 55 = [] ∧ (after (.domainStageReady 55) (rising 1)).rd F.PWR_Dd_STATE.STAGE 55 = 2 ∧
    (after (.domainStageReady 55) (rising 4)).pw 55 = pwON ∧ (after (.domainStageReady 55) (rising 4)).fdState = fdUNADDRESSED := by decide +kernel
theorem test_powerLoss : act.pw 4 = pwON ∧ (after (.domainPowerLoss 4) act).pw 4 = pwOFF ∧ (after (.domainPowerLoss 4) act).tstate 9 = trFAULT ∧
    (after (.domainPowerLoss 4) act).rd F.TRE_STATE.FAULT_CAUSE 9 = 3 := by decide +kernel

/-- Tree 9 asleep, its pair in RET, its sentinel armed and its delimiter listened for. -/
def dozing : State :=
  ((dom 4 pwRET).wr F.TRE_STATE.STATE 9 trDORMANT).putSents (smSet Sentinel.reset lit.sents (9, 0) ⟨false, true, true, 0, 1, 16, 0xB5E9⟩)

theorem test_wakes : outOfReset (dom 55 pwOFF) ∧ (after (.pwrWake 0 0x80000037) (dom 55 pwOFF)).pw 55 = pwRISING ∧
    (after (.pwrWake 0 0x80000037) (dom 55 pwOFF)).rd F.PWR_LAST_WAKE.SOURCE 0 = 8 ∧
    (after .fabricActivityWake (dom 55 pwRET)).pw 55 = pwRISING := by
  unfold outOfReset
  decide +kernel
theorem test_light : dozing.armed 9 = true ∧ (after (.lightAccepted 9) dozing).pw 4 = pwRISING ∧
    (after (.lightAccepted 9) dozing).rd F.PWR_LAST_WAKE.TREE 0 = 9 ∧ lit.armed 9 = false ∧
    (after (.sentinelRearm 9) (dozing.putSents (smSet Sentinel.reset dozing.sents (9, 0) ⟨true, true, true, 0, 1, 16, 0⟩))).armed 9 = true := by
  decide +kernel
theorem test_delimiter : dozing.listens 9 = true ∧ (after (.wakeDelimiterMatch 9 0xFFFFB5E8) dozing).pw 4 = pwRISING ∧
    (after (.wakeDelimiterMatch 9 0xFFFFB5EA) dozing).pw 4 = pwRET := by decide +kernel

def cold : State := ((lit.wr F.PWR_Dd_STATE.STATE 50 pwOFF).wr F.PWR_Dd_STATE.STATE 51 pwOFF).wr F.PWR_Dd_STATE.STATE 52 pwOFF
theorem test_startup : cold.cpRuns = true ∧ cold.control.isSome = true ∧ cold.service ≠ svBOOT ∧
    (after .startupPowerRequest cold).pw 50 = pwRISING ∧ (after .startupPowerRequest cold).pw 52 = pwRISING := by decide +kernel
theorem test_brownOut : (after (.brownOutWarning 1019) act).tstate 9 = trFAULT ∧ (after (.brownOutWarning 1019) act).flag F.PWR_EVENT.BROWNOUT 0 = true ∧
    (after (.brownOutClear 1051) (act.wr F.PWR_BB_STATUS.WARN 0 1)).flag F.PWR_BB_STATUS.WARN 0 = false ∧
    (after (.brownOutClear 1050) (act.wr F.PWR_BB_STATUS.WARN 0 1)).flag F.PWR_BB_STATUS.WARN 0 = true ∧
    (after (.bbOver 6301) act).flag F.PWR_EVENT.BB_OVER 0 = true := by decide +kernel

/-- Rail 3, linked to the fabric's domain, which rises from OFF; and a rail of its own. -/
def railed : State := ((rising 1).wr F.PWR_POLk.DOMAIN 3 55)
theorem test_rails : railed.railOn 3 = true ∧ (after (.polRailReady 3) railed).flag F.PWR_POLk.READY 3 = true ∧ railed.railsOf 55 = [3] ∧
    (after (.polRailTimeout 55) railed).pw 55 = pwOFF ∧ (after (.polRailTimeout 55) railed).flag F.PWR_POLk.FAULT 3 = true ∧
    (after (.domainStageReady 55) railed).rd F.PWR_Dd_STATE.STAGE 55 = 1 := by decide +kernel
theorem test_polWrite : (after (.polRailWrite 0 3 0x01237F85) lit).out = [.rail 5 true 0x123] ∧
    (after (.polRailWrite 0 3 0x40007F05) (lit.wr F.PWR_POLk.FAULT 3 1)).flag F.PWR_POLk.FAULT 3 = false := by decide +kernel

/-! ### Counters, health and debug -/

def snapP (fl : Nat) (at_ : Nat) : List Byte := leBytes 1 fl ++ [6#8, 0#8, 0#8] ++ leBytes 4 1 ++ leBytes 8 at_ ++ leBytes 8 0x2000 ++ leBytes 4 5

/-- A harvest of flow pair 5 into host memory at 0x2000, with the table ready. -/
def flowed : State := (lit.setTabs (fun x => { x with st := 2, pairs := [((5, 0), ⟨300, 4⟩)] }))

theorem test_snapshot : given (ask 0x0902 (snapP 0 0) lit) 0x0902 false true (snapP 0 0) = true ∧ (lit.snapFault (payloadOf (request 0x0902 5 0 (snapP 0 0)))).isNone = true ∧
    (after (.snapNow 0 0) (lit.wr F.PMC_CNTk.COUNT 9 77)).countShadow 3 0x44 = 77 := by decide +kernel
theorem test_snapshot_at : ((after (.counterSnapshot (.mbx 3)) (ask 0x0902 (snapP 1 (3 * 2 ^ 25)) lit)).mon.snapAt).isSome = true ∧
    ((after (.snapArm 0 0) (lit.wr F.PMC_SNAP_AT.TUPLE 0 (3 * 2 ^ 25))).mon.snapAt).isSome = true ∧
    (lit.shortTuple (lit.rd F.PMC_SNAP_AT.TUPLE 0)).any (fun i => decide (i ≤ lit.tide)) = true ∧
    (after (.snapDisarm 0 0) (after (.snapArm 0 0) (lit.wr F.PMC_SNAP_AT.TUPLE 0 (3 * 2 ^ 25)))).mon.snapAt = none ∧
    (after (.counterSnapshot (.mbx 3)) (ask 0x0902 (snapP 8 0) lit)).mon.snapAt = none ∧
    (lit.shortTuple 0).any (fun i => decide (i ≤ lit.tide)) = true ∧
    (after (.counterSnapshot (.mbx 3)) (ask 0x0902 (snapP 1 0) lit)).rd F.PMC_SNAP_SEQ.SEQ 0 = 1 := by decide +kernel
/-- A snapshot armed for an instant that has come, and for one ahead. -/
def arming (at_ : Int) : State := lit.setMon (fun m => { m with snapAt := some at_ })
theorem test_snapshotAt : (arming 0).tideDue 0 = true ∧ (after .snapshotAt (arming 0)).rd F.PMC_SNAP_SEQ.SEQ 0 = 1 ∧
    (arming (2 ^ 60)).tideDue (2 ^ 60) = false ∧ (after .snapshotAt (arming (2 ^ 60))).rd F.PMC_SNAP_SEQ.SEQ 0 = 0 := by decide +kernel
theorem test_snapshot_refused : (lit.snapFault (payloadOf (request 0x0902 5 0 (snapP 16 0)))).isSome = true ∧ lit.tabs.st ≠ 2 ∧
    (lit.snapFault (payloadOf (request 0x0902 5 0 (snapP 2 0)))).isNone = true ∧
    (lit.wr F.PWR_Dd_STATE.STATE 50 pwRET).on 50 = false := by decide +kernel
theorem test_harvest : (flowed.snapFault (payloadOf (request 0x0902 5 0 (snapP 2 0)))).isNone = true ∧ flowed.chFree 6 = true := by decide +kernel
theorem test_harvest_busy : (flowed.wr F.DMA_CHn_STATUS.STATE 6 chRUNNING).chFree 6 = false ∧
    status (after (.counterSnapshot (.mbx 3)) (ask 0x0902 (snapP 2 0) (flowed.wr F.DMA_CHn_STATUS.STATE 6 chRUNNING))) = stBUSY := by decide +kernel

def harvested : State := flowed.setMon (fun m => { m with harvests := [⟨.mbx 3, snapP 6 0⟩] })

theorem test_harvestDone : (after .flowHarvestDone harvested).hostRead 0x2000 16 = leBytes 8 300 ++ leBytes 8 4 ∧
    (after .flowHarvestDone harvested).tabs.pairs = [] ∧ (after .flowHarvestDone harvested).chState 6 = chIDLE := by decide +kernel
theorem test_bwFrames : (after (.bwFramesWrite 0 500) lit).rd F.PMC_BW_CFG.FRAMES 0 = 500 := by decide +kernel
theorem test_telemetryEn : (after (.telemetryEnWrite 0 9 0) (lit.setTel 9 [zeros 16])).telOf 9 = [] ∧
    (after (.telemetryEnWrite 0 9 1) (lit.setTel 9 [zeros 16])).telOf 9 = [zeros 16] := by decide +kernel
theorem test_wear : (after (.wearMeasure [1000000000, 983990000]) lit).rd F.PMC_WEAR_d.INDEX 1 = 1601 ∧
    (after (.wearMeasure [1000000000, 983990000]) lit).flag F.PMC_EVENT.WEAR 0 = true := by decide +kernel
theorem test_healthPoint : smGet [] (lit.wr F.PMC_WEAR_d.VALID 1 1).addPoints.mon.wear (1, 0) = [0] := by decide +kernel
theorem test_predict : predict [5, 5] 2500 0 = (0xFFFFFFFF, 0) ∧ (predict [5, 5, 5] 2500 0).1 = 1000000 ∧
    predict [2498, 2499, 2500] 2500 0 = (0, 10) ∧ (predict [7, 6, 5] 2500 0).1 = 1000000 := by decide +kernel
theorem test_health_refused : given (ask 0x0901 [4#8] lit) 0x0901 false true [4#8] = true ∧
    rsp (after (.healthReport (.mbx 3)) (ask 0x0901 [1#8, 58#8] lit)) = rsp (after (.healthReport (.mbx 3)) (ask 0x0901 [3#8, 96#8] lit)) ∧
    byteAt (rsp (after (.healthReport (.mbx 3)) (ask 0x0901 [4#8] lit))) 1 = 0 ∧
    byteAt (rsp (after (.healthReport (.mbx 3)) (ask 0x0901 [1#8, 58#8] lit))) 1 = 1 ∧
    byteAt (rsp (after (.healthReport (.mbx 3)) (ask 0x0901 [1#8, 57#8, 2#8] lit))) 1 = 2 := by decide +kernel
theorem test_health_sections : given (ask 0x0901 [0#8, 0#8, 0#8] lit) 0x0901 false true [0#8, 0#8, 0#8] = true ∧
    given (ask 0x0901 [1#8, 57#8, 0#8] lit) 0x0901 false true [1#8, 57#8, 0#8] = true ∧
    given (ask 0x0901 [3#8, 95#8, 0#8] lit) 0x0901 false true [3#8, 95#8, 0#8] = true := by decide +kernel
theorem test_health : given (ask 0x0901 [2#8, 0#8, 1#8] lit) 0x0901 false true [2#8, 0#8, 1#8] = true ∧
    byteAt (rsp (after (.healthReport (.mbx 3)) (ask 0x0901 [2#8, 0#8, 1#8] { lit with errLog := [zeros 16, zeros 16, zeros 16, zeros 16] }))) 8 = 3 ∧
    (after (.healthReport (.mbx 3)) (ask 0x0901 [2#8, 0#8, 1#8] { lit with errLog := [zeros 16, zeros 16, zeros 16, zeros 16] })).errLog.length = 1 := by
  decide +kernel

/-- A token's first bytes at 0x4000, and a challenge outstanding. -/
def tokened : State := (lit.setMon (fun m => { m with challenge := some ⟨5, false, 0⟩ })).hostWrite 0x4000 (leBytes 4 0x4B544455)
def unlockP : List Byte := [1#8] ++ zeros 7 ++ leBytes 8 0x4000

theorem test_unlock : given (ask 0x0903 unlockP tokened) 0x0903 false true unlockP = true ∧ tokened.dbgLock = false ∧ tokened.mon.failAt = none ∧
    leAt (tokened.hostRead 0x4000 256) 0 4 = 0x4B544455 ∧
    status (after (.debugUnlock (.mbx 3) false) (ask 0x0903 unlockP tokened)) = stTIMEOUT ∧
    (after (.debugUnlock (.mbx 3) false) (ask 0x0903 unlockP tokened)).rd F.TMX_STATUS.FAILS 0 = 1 ∧
    byteAt (rsp (after (.debugUnlock (.mbx 3) true) (ask 0x0903 unlockP (tokened.wr F.GLB_STRAP.DBGLOCK 0 1)))) 1 = 4 := by decide +kernel
/-- `tokened` some ledger seconds after the challenge; and with a token that is none. -/
def aged (sec : Nat) : State := tokened.wr F.TB_LEDGER.TICKS 0 (sec * ledgerSec)
def junk : State := tokened.hostWrite 0x4000 [0#8]
theorem test_unlock_refused :
    byteAt (rsp (after (.debugUnlock (.mbx 3) true) (ask 0x0903 unlockP (aged 60)))) 1 = 1 ∧ 60 * ledgerSec ≤ (aged 60).rd F.TB_LEDGER.TICKS 0 ∧
    (aged 59).rd F.TB_LEDGER.TICKS 0 < 60 * ledgerSec ∧
    byteAt (rsp (after (.debugUnlock (.mbx 3) true) (ask 0x0903 unlockP lit))) 1 = 0 ∧
    byteAt (rsp (after (.debugUnlock (.mbx 3) true) (ask 0x0903 unlockP ((aged 59).setMon (fun m => { m with failAt := some 0 }))))) 1 = 7 ∧
    byteAt (rsp (after (.debugUnlock (.mbx 3) true) (ask 0x0903 unlockP junk))) 1 = 0x38 ∧
    byteAt (rsp (after (.debugUnlock (.mbx 3) true) (ask 0x0903 (unlockP.set 8 8#8) tokened))) 1 = 8 := by decide +kernel
theorem test_lock : given (ask 0x0903 [2#8] lit) 0x0903 false true [2#8] = true ∧
    (after (.debugUnlock (.mbx 3) true) (ask 0x0903 [2#8] (lit.wr F.TMX_STATUS.UNLOCKED 0 1))).flag F.TMX_STATUS.UNLOCKED 0 = false ∧
    given (ask 0x0903 [0#8] lit) 0x0903 false true [0#8] = true := by decide +kernel
theorem test_expiries : (after .nonceExpiry (aged 60)).mon.challenge = some ⟨5, true, 0⟩ ∧ (after .nonceExpiry (aged 59)).mon.challenge = some ⟨5, false, 0⟩ ∧
    (after .tmxUnlockExpiry (lit.wr F.TMX_STATUS.UNLOCKED 0 1)).flag F.TMX_STATUS.UNLOCKED 0 = false ∧
    (after .tmxUnlockExpiry ((lit.wr F.TMX_STATUS.UNLOCKED 0 1).wr F.TMX_EXPIRY.TICKS 0 1)).flag F.TMX_STATUS.UNLOCKED 0 = true := by decide +kernel

/-! ### WellFormed: for each check a command it refuses, and commands it takes -/

def grantBad : Grant := ⟨4097, 0, 0, 0, 0, false, false, 0, 0, 0⟩

theorem test_illFormed_accesses : ([.registerWrite 0 0 3 0 false, .registerWrite 0 (2 ^ 32) 4 0 false, .registerWrite 0 0 4 (2 ^ 32) false,
    .halfReadLatch 0 (2 ^ 32) false, .readClear 0 0 5 false, .readClear 0 (2 ^ 32) 4 false, .csWindowRead 0 0 0x40000 [], .brownOutWarning (2 ^ 16),
    .brownOutClear (2 ^ 16), .bbOver (2 ^ 16)] : List Instr).map Instr.wf = List.replicate 10 false := by decide +kernel
theorem test_illFormed_lines : ([.burstHunt 0 (some ⟨0, 1024, 0, 0, 0, 0, []⟩),
    .burstHunt 0 (some ⟨0, 1, 0, 0, 0, 0, [⟨true, 0, [⟨0, 0, true, true, 0, false, zeros 16384⟩], false⟩]⟩), .registrationIdReceived 0 0 (zeros 35),
    .upstreamPloamReceived 0 0 (zeros 47) true, .rogueFrame 0 [(5, 4)], .trunkIngress 0 (zeros 15) [0#8], .trunkIngress 0 (zeros 16) []] :
    List Instr).map Instr.wf = List.replicate 7 false := by decide +kernel
theorem test_illFormed_maps : ([.sluiceUnitFault 0 (some (0, 0)), .sluiceUnitFault 0 (some (7, 9)), .mapBuild 0 [(0, [grantBad])], .mapBuild 0 [(0, [{ grantBad with alloc := 0, term := 1024 }])],
    .mapBuild 0 [(0, [{ grantBad with alloc := 0, bprof := 4 }])], .mapBuild 0 [(0, [{ grantBad with alloc := 0, rate := 3 }])],
    .mapBuild 0 [(0, [{ grantBad with alloc := 0, kind := 3 }])], .wearMeasure (List.replicate 59 0)] : List Instr).map Instr.wf =
    List.replicate 8 false := by decide +kernel
theorem test_illFormed_fabric : ([.codewordReceived 0 [], .codewordLock 0 0 four.tail, .codewordLock 0 0 [[], [], [], []], .helloReceived 0 ⟨2 ^ 64, 0, 0, none⟩, .helloReceived 0 ⟨0, 128, 0, none⟩,
    .helloReceived 0 ⟨0, 0, 8, none⟩, .cellReceived 0 [], .claimReceived 0 [], .routeReceived 0 [], .leaseRequestReceived ⟨2 ^ 16, 0, false⟩,
    .leaseRequestReceived ⟨0, 64, false⟩, .leaseAnswerReceived 0 ⟨2 ^ 16, true, 0⟩, .tideCellReceived 0 ⟨0, none, 128, none⟩,
    .remoteAccessReceived ⟨false, 0, 0, 64, 0, 0, 0, []⟩, .remoteAccessReceived ⟨false, 0, 64, 0, 0, 0, 0, []⟩,
    .remoteAccessReceived ⟨true, 0, 0, 0, 0, 0, 1, []⟩, .remoteRspReceived ⟨64, 0, true, true, []⟩,
    .handshakeReceived 0 { matching with role := 3 }, .tableSyncReceived 0 (zeros 237) false] : List Instr).map Instr.wf =
    List.replicate 19 false := by decide +kernel
theorem test_wellFormed : ([.registerWrite 0 0 4 1 false, .csWindowRead 0 0 4 [], .burstHunt 0 none, .sluiceUnitFault 0 (some (7, 5)), .trunkIngress 0 (zeros 16) [0#8],
    .mapBuild 0 [(0, [{ grantBad with alloc := 4096 }])], .cellReceived 0 passing, .wearMeasure [0], .claimTimer] : List Instr).map Instr.wf =
    List.replicate 9 true := by decide +kernel

/-! ### The queue -/

theorem test_step : step { up with pending := [.snapNow 0 0, .bbOver 0] } = exec (.snapNow 0 0) { up with pending := [.bbOver 0] } := rfl
theorem test_idle : step up = .next up.tick := rfl
theorem test_noWords : decodeTableWord 32 0 = none ∧ up.withFetchWord 32 0 = up := ⟨rfl, rfl⟩

end Sys2Proof.Tests
end

/-! PROOFS. The scope: every command completes, plain writes and reads of the register window, and what each command leaves
alone. -/

namespace Sys2Proof.Machine

/-! ### Completion -/

/-- Settles O3: the meaning of every command is a `.next` on all its paths. -/
theorem everyCommandCompletes : Obligations.EveryCommandCompletes := by
  unfold Obligations.EveryCommandCompletes
  intro c s
  cases c <;> exact ⟨_, rfl⟩

/-! ### The register tables -/

/-- No register of the list has two fields of one number. -/
def DistinctFields (l : List RegInfo) : Prop := ∀ r ∈ l, (r.flds.map Fld.num).Nodup

theorem distinctFields_ite {c : Prop} [Decidable c] {l m : List RegInfo} (hl : DistinctFields l) (hm : DistinctFields m) :
    DistinctFields (if c then l else m) := by
  split <;> assumption

theorem blockRegs_distinctFields (off : Nat) : DistinctFields (blockRegs off) := by
  unfold blockRegs
  repeat' refine distinctFields_ite ?_ ?_
  all_goals
    unfold DistinctFields
    decide +kernel

theorem regAt_nodup_nums {off i : Nat} {r : RegInfo} (h : regAt off = some (r, i)) : (r.flds.map Fld.num).Nodup :=
  blockRegs_distinctFields off r (findReg_mem h)

/-! ### Accesses that meet a register -/

/-- An access of a width at an offset outside the counter pages and the engine windows meets register `r` at index `i`, and
the register's domain answers (R30 to R32). -/
structure Meets (s : State) (off w : Nat) (r : RegInfo) (i : Nat) : Prop where
  osc : s.bnd.oscOk = true
  plain : plainOffset off
  width : w = 4 ∨ w = 8
  aligned : off % w = 0
  reg : regAt off = some (r, i)
  on : s.regOn r i = true

/-- Width and alignment are good (R31). -/
theorem Meets.wellPlaced {s : State} {off w i : Nat} {r : RegInfo} (h : Meets s off w r i) :
    ¬((w ≠ 4 ∧ w ≠ 8) ∨ off % w ≠ 0) := by
  have hwidth := h.width
  have haligned := h.aligned
  omega

/-! ### Folds over the fields of a register -/

theorem State.rd_foldl_other {step : State → Fld → State} {fs : List Fld} {s : State} {f : Fld} {j : Nat}
    (h : ∀ t, ∀ g ∈ fs, (step t g).rd f j = t.rd f j) : (fs.foldl step s).rd f j = s.rd f j :=
  List.foldlRecOn (motive := fun t => t.rd f j = s.rd f j) fs step rfl fun t ht g hg => (h t g hg).trans ht

/-- Where the fields have distinct numbers, only the step of a field itself matters to it; `φ` is what that step makes of its
value. -/
theorem State.rd_foldl_mem {step : State → Fld → State} {fs : List Fld} (hfs : (fs.map Fld.num).Nodup) {f : Fld} (hf : f ∈ fs)
    {i : Nat} {φ : Nat → Nat} (hself : ∀ t, (step t f).rd f i = φ (t.rd f i))
    (hother : ∀ t g, f.num ≠ g.num → (step t g).rd f i = t.rd f i) (s : State) :
    (fs.foldl step s).rd f i = φ (s.rd f i) := by
  induction fs generalizing s with
  | nil => cases hf
  | cons g fs ih =>
    obtain ⟨hg, hfs⟩ := List.nodup_cons.1 (List.map_cons ▸ hfs)
    have hne : ∀ e ∈ fs, g.num ≠ e.num := fun e he hn => hg (hn ▸ List.mem_map_of_mem he)
    rw [List.foldl_cons]
    rcases List.mem_cons.1 hf with rfl | hf
    · rw [State.rd_foldl_other fun t e he => hother t e (hne e he), hself]
    · rw [ih hfs hf, hother s g (hne f hf).symm]

theorem SameMemory.foldl {step : State → Fld → State} (h : ∀ t g, SameMemory t (step t g)) (fs : List Fld) (s : State) :
    SameMemory s (fs.foldl step s) :=
  List.foldlRecOn (motive := SameMemory s) fs step ⟨rfl, rfl⟩ fun t ht g _ =>
    ⟨(h t g).1.trans ht.1, (h t g).2.trans ht.2⟩

/-! ### A plain write (R8) -/

theorem Fld.written_rw {f : Fld} (h : f.acc = .rw) (old v : Nat) : f.written old v = bits v f.lo f.w := by
  simp [Fld.written, h]

theorem Fld.written_w1c {f : Fld} (h : f.acc = .w1c) (old v : Nat) :
    f.written old v = old &&& (2 ^ f.w - 1 - bits v f.lo f.w) := by
  simp [Fld.written, h]

theorem Fld.written_w1s {f : Fld} (h : f.acc = .w1s) (old v : Nat) : f.written old v = old ||| bits v f.lo f.w := by
  simp [Fld.written, h]

theorem Fld.written_held {f : Fld} (hrw : f.acc ≠ .rw) (hw1c : f.acc ≠ .w1c) (hw1s : f.acc ≠ .w1s) (old v : Nat) :
    f.written old v = old := by
  unfold Fld.written
  split
  · contradiction
  · contradiction
  · contradiction
  · rfl

theorem Fld.written_w1c_lt {f : Fld} (h : f.acc = .w1c) (old v : Nat) : f.written old v < 2 ^ f.w := by
  rw [Fld.written_w1c h]
  have hpos := Nat.two_pow_pos f.w
  exact Nat.and_lt_two_pow _ (by omega)

theorem State.rd_writeFields_other (s : State) {fs : List Fld} {i j : Nat} (v : Nat) {f : Fld}
    (h : (∀ g ∈ fs, f.num ≠ g.num) ∨ j ≠ i) : (s.writeFields fs i v).rd f j = s.rd f j :=
  State.rd_foldl_other fun t g hg => t.rd_wr_other _ (h.imp (fun h => (h g hg).symm) Ne.symm)

theorem State.rd_writeFields_mem (s : State) {fs : List Fld} (hfs : (fs.map Fld.num).Nodup) (i v : Nat) {f : Fld}
    (hf : f ∈ fs) : (s.writeFields fs i v).rd f i = f.written (s.rd f i) v % 2 ^ f.w :=
  State.rd_foldl_mem (φ := fun old => f.written old v % 2 ^ f.w) hfs hf (fun t => t.rd_wr_same f i _)
    (fun t _ hne => t.rd_wr_fld _ hne.symm) s

theorem SameMemory.writeFields (s : State) (fs : List Fld) (i v : Nat) : SameMemory s (s.writeFields fs i v) :=
  SameMemory.foldl (step := fun t f => t.wr f i (f.written (t.rd f i) v)) (fun _ _ => ⟨rfl, rfl⟩) fs s

theorem Meets.windowWrite {s : State} {off w i : Nat} {r : RegInfo} (h : Meets s off w r i) {u : Bool} (hw : w = r.bytes)
    (hu : u = true → inPmc off = false) (hdb : r.base ≠ 0x100000) (port v : Nat) :
    s.windowWrite port off w v u = s.writeReg r i off (v % 2 ^ (8 * w)) := by
  obtain ⟨hend, hgroup, heng⟩ := h.plain
  have huser : (u && inPmc off && s.on 54) = false := by
    cases u
    case false => rfl
    case true => simp [hu rfl]
  have hat : s.writeAt off port w (v % 2 ^ (8 * w)) = s.writeReg r i off (v % 2 ^ (8 * w)) := by
    simp [State.writeAt, h.reg, hw, hdb, h.on]
  simp only [State.windowWrite, h.osc, Bool.not_true, Bool.false_eq_true, if_false, h.wellPlaced, ge_iff_le, Nat.not_le.2 hend,
    huser, hgroup, heng, hat]

theorem State.writeReg_plain {r : RegInfo} {off : Nat} (hr : r.base ∉ ownBehaviour) (hoff : ¬(0x50000 ≤ off ∧ off < 0x54000))
    (s : State) (i v : Nat) : s.writeReg r i off v = s.writeFields r.flds i (writable r.base i v) := by
  rw [State.writeReg, if_neg hoff]
  unfold State.writeNamed
  split
  case h_25 => rfl
  all_goals
    rename_i hbase
    exact absurd (by rw [hbase]; decide) hr

/-- Settles O10: such a write is `writeFields` of the register, whose fields have distinct numbers. -/
theorem plainRegisterWrite : Obligations.PlainRegisterWrite := by
  unfold Obligations.PlainRegisterWrite
  intro p off w v u s r i hosc hplain hwidth haligned hreg hw hon hu hown hdma
  have hdb : r.base ≠ 0x100000 := fun e => hown (by rw [e]; decide)
  have hwrite := ((Meets.mk hosc hplain hwidth haligned hreg hon).windowWrite hw hu hdb p.val v.toNat).trans
    (State.writeReg_plain hown hdma s i _)
  refine ⟨_, congrArg Host.Outcome.next hwrite, ?_, ?_, SameMemory.writeFields _ _ _ _⟩
  · intro f hf x
    rw [State.rd_writeFields_mem s (regAt_nodup_nums hreg) i _ hf]
    refine ⟨fun hrw => ?_, fun hw1c => ?_, fun hw1s => ?_, fun hrw hw1c hw1s => ?_⟩
    · rw [Fld.written_rw hrw]
      exact Nat.mod_mod _ _
    · rw [Nat.mod_eq_of_lt (Fld.written_w1c_lt hw1c _ _), Fld.written_w1c hw1c]
    · rw [Fld.written_w1s hw1s]
    · rw [Fld.written_held hrw hw1c hw1s]
  · exact fun f j h => s.rd_writeFields_other _ h

/-! ### Reads of a register (R8, R31, R73) -/

theorem State.readLatch_eq (s : State) (r : RegInfo) (i port : Nat) :
    s.readLatch r i port = s ∨ ∃ g, s.readLatch r i port = s.setHold port g := by
  unfold State.readLatch
  split
  · exact .inr ⟨_, rfl⟩
  · split
    · exact .inr ⟨_, rfl⟩
    · exact .inl rfl

@[simp] theorem State.readLatch_rd (s : State) (r : RegInfo) (i port : Nat) (f : Fld) (j : Nat) :
    (s.readLatch r i port).rd f j = s.rd f j := by
  obtain h | ⟨g, h⟩ := s.readLatch_eq r i port <;> rw [h]
  rfl

theorem SameMemory.readLatch (s : State) (r : RegInfo) (i port : Nat) : SameMemory s (s.readLatch r i port) := by
  obtain h | ⟨g, h⟩ := s.readLatch_eq r i port <;> rw [h] <;> exact ⟨rfl, rfl⟩

theorem State.rd_readClearFields_other (s : State) {r : RegInfo} {i j : Nat} {f : Fld}
    (h : (∀ g ∈ r.flds, g.acc = .rc → f.num ≠ g.num) ∨ j ≠ i) : (s.readClearFields r i).rd f j = s.rd f j := by
  refine State.rd_foldl_other fun t g hg => ?_
  split
  case isTrue hrc => exact t.rd_wr_other _ (h.imp (fun h => (h g hg hrc).symm) Ne.symm)
  case isFalse => rfl

theorem State.rd_readClearFields_rc (s : State) {r : RegInfo} (hr : (r.flds.map Fld.num).Nodup) (i : Nat) {f : Fld}
    (hf : f ∈ r.flds) (hrc : f.acc = .rc) : (s.readClearFields r i).rd f i = 0 := by
  refine State.rd_foldl_mem (φ := fun _ => 0) hr hf (fun t => ?_) (fun t g hne => ?_) s
  · rw [if_pos hrc, State.rd_wr_same, Nat.zero_mod]
  · split
    · exact t.rd_wr_fld _ hne.symm
    · rfl

theorem SameMemory.readClearFields (s : State) (r : RegInfo) (i : Nat) : SameMemory s (s.readClearFields r i) := by
  refine SameMemory.foldl (step := fun t f => if f.acc = .rc then t.wr f i 0 else t) (fun t g => ?_) r.flds s
  split <;> exact ⟨rfl, rfl⟩

theorem SameMemory.trans {s t u : State} (h : SameMemory s t) (h' : SameMemory t u) : SameMemory s u :=
  ⟨h'.1.trans h.1, h'.2.trans h.2⟩

/-- The state a read of a register leaves: what it latches for the port, and its RC fields cleared. -/
def State.afterRead (s : State) (r : RegInfo) (i port : Nat) : State := (s.readLatch r i port).readClearFields r i

theorem State.regReadAt_eq {r : RegInfo} (h : r.flds.contains F.PMC_LEG_DATA.COUNT = false) (s : State) (i port : Nat) :
    s.regReadAt r i port = (s.regValue r i port, s.afterRead r i port) :=
  if_neg (Bool.eq_false_iff.1 h)

theorem State.rd_afterRead_other (s : State) {r : RegInfo} {i j : Nat} (port : Nat) {f : Fld}
    (h : (∀ g ∈ r.flds, g.acc = .rc → f.num ≠ g.num) ∨ j ≠ i) : (s.afterRead r i port).rd f j = s.rd f j :=
  (State.rd_readClearFields_other _ h).trans (s.readLatch_rd r i port f j)

theorem SameMemory.afterRead (s : State) (r : RegInfo) (i port : Nat) : SameMemory s (s.afterRead r i port) :=
  (SameMemory.readLatch s r i port).trans (SameMemory.readClearFields _ r i)

/-! ### Reads of the window (R31, R32) -/

theorem State.hostReadWindow_of_osc {s : State} (h : s.bnd.oscOk = true) (port off w : Nat) (u : Bool) :
    s.hostReadWindow port off w u =
      (s.windowRead port off w u false).2.emit (.readData port (s.windowRead port off w u false).1) := by
  simp [State.hostReadWindow, h]

/-- A privileged read of a register that is no programmable counter. -/
theorem Meets.windowRead {s : State} {off w i : Nat} {r : RegInfo} (h : Meets s off w r i) (hw : w ≤ r.bytes)
    (hpmc : r.flds.contains F.PMC_CNTk.COUNT = false) (hpe : r.flds.contains F.PE_CNTk.COUNT = false) (port : Nat) :
    s.windowRead port off w false false =
      if w < r.bytes then (s.regReadAt r i port).2.latchHigh port (s.regReadAt r i port).1 else s.regReadAt r i port := by
  obtain ⟨hend, hgroup, heng⟩ := h.plain
  simp only [State.windowRead, h.wellPlaced, ge_iff_le, Nat.not_le.2 hend, Bool.false_and, Bool.false_eq_true, if_false, hgroup,
    heng, h.reg, hpmc, hpe, Bool.or_self, State.readWidth, gt_iff_lt, Nat.not_lt.2 hw, h.on, Bool.not_true]

/-- A privileged read of the high half of a 64-bit register answers from the port's holding register. -/
theorem State.windowRead_highHalf {t : State} {off i : Nat} {r : RegInfo} (hplain : plainOffset (off + 4)) (haligned : off % 8 = 0)
    (hreg : regAt off = some (r, i)) (hbytes : r.bytes = 8) (hhigh : regAt (off + 4) = none) (hon : t.regOn r i = true)
    (port : Nat) : (t.windowRead port (off + 4) 4 false false).1 = (smGet PortHold.reset t.bnd.holds (port, 0)).high := by
  obtain ⟨hend, hgroup, heng⟩ := hplain
  have hplaced : ¬((4 ≠ 4 ∧ 4 ≠ 8) ∨ (off + 4) % 4 ≠ 0) := by omega
  have hhalf : (off + 4) % 8 = 4 := by omega
  simp only [State.windowRead, hplaced, ge_iff_le, Nat.not_le.2 hend, Bool.false_and, Bool.false_eq_true, if_false, hgroup, heng,
    hhigh, hhalf, and_self, if_true, Nat.add_sub_cancel, hreg, hbytes, hon, State.readHigh, Bool.not_true]

theorem State.setHold_hold (s : State) (port : Nat) (g : PortHold → PortHold) :
    smGet PortHold.reset (s.setHold port g).bnd.holds (port, 0) = g (smGet PortHold.reset s.bnd.holds (port, 0)) :=
  smGet_smSet_same _ _ _ _

theorem Leaves.on {s t : State} (h : Leaves [] s t) (d : Nat) : t.on d = s.on d := by
  have hstate : t.rd F.PWR_Dd_STATE.STATE d = s.rd F.PWR_Dd_STATE.STATE d := h _ d (by decide) (by simp)
  simp only [State.on, State.pw, hstate]

theorem Leaves.regOn {s t : State} (h : Leaves [] s t) (r : RegInfo) (i : Nat) : t.regOn r i = s.regOn r i := by
  simp only [State.regOn, h.on]

/-- HALF_READ_LATCH (R31). -/
theorem halfReadLatch_runs {p : PortId} {off : Nat} {s : State} {r : RegInfo} {i : Nat} (h : Meets s off 4 r i)
    (hplain : plainOffset (off + 4)) (haligned : off % 8 = 0) (hbytes : r.bytes = 8) (hrc : ∀ f ∈ r.flds, f.acc ≠ .rc)
    (hhigh : regAt (off + 4) = none) (hpmc : r.flds.contains F.PMC_CNTk.COUNT = false)
    (hpe : r.flds.contains F.PE_CNTk.COUNT = false) :
    Runs (.halfReadLatch p off false) s (fun t =>
      t.out.head? = some (.readData p.val (s.regValue r i p.val % 2 ^ 32)) ∧ Leaves [] s t ∧ SameMemory s t ∧
      (t.windowRead p.val (off + 4) 4 false false).1 = s.regValue r i p.val / 2 ^ 32 % 2 ^ 32) := by
  have hleg : r.flds.contains F.PMC_LEG_DATA.COUNT = false := by
    rw [Bool.eq_false_iff, ne_eq, List.contains_iff_mem]
    exact fun hmem => hrc _ hmem rfl
  have hread : s.windowRead p.val off 4 false false = (s.afterRead r i p.val).latchHigh p.val (s.regValue r i p.val) := by
    rw [h.windowRead (by omega) hpmc hpe, if_pos (by omega), State.regReadAt_eq hleg]
  have hexec := State.hostReadWindow_of_osc h.osc p.val off 4 false
  rw [hread] at hexec
  have hleaves : Leaves [] s (s.hostReadWindow p.val off 4 false) := by
    rw [hexec]
    exact fun f j _ _ => s.rd_afterRead_other p.val (.inl fun g hg hg' => absurd hg' (hrc g hg))
  refine ⟨_, rfl, ?_, hleaves, ?_, ?_⟩
  · rw [hexec]
    rfl
  · rw [hexec]
    exact SameMemory.afterRead s r i p.val
  · rw [State.windowRead_highHalf hplain haligned h.reg hbytes hhigh ((hleaves.regOn r i).trans h.on), hexec]
    exact congrArg PortHold.high (State.setHold_hold _ _ _)

/-- READ_CLEAR (R8). -/
theorem readClear_runs {p : PortId} {off w : Nat} {s : State} {r : RegInfo} {i : Nat} (h : Meets s off w r i) (hw : w = r.bytes)
    (hcount : ∀ g ∈ [F.PMC_LEG_DATA.COUNT, F.PMC_CNTk.COUNT, F.PE_CNTk.COUNT], r.flds.contains g = false) :
    Runs (.readClear p off w false) s (fun t =>
      t.out.head? = some (.readData p.val (s.regValue r i p.val)) ∧
      (∀ f ∈ r.flds, f.acc = .rc → t.rd f i = 0) ∧
      (∀ (f : Fld) (j : Nat), ((∀ g ∈ r.flds, g.acc = .rc → f.num ≠ g.num) ∨ j ≠ i) → t.rd f j = s.rd f j) ∧ SameMemory s t) := by
  have hread : s.windowRead p.val off w false false = (s.regValue r i p.val, s.afterRead r i p.val) := by
    rw [h.windowRead (Nat.le_of_eq hw) (hcount _ (by simp)) (hcount _ (by simp)), if_neg (by omega),
      State.regReadAt_eq (hcount _ (by simp))]
  have hexec := State.hostReadWindow_of_osc h.osc p.val off w false
  rw [hread] at hexec
  refine ⟨_, congrArg Host.Outcome.next hexec, rfl, ?_, ?_, SameMemory.afterRead s r i p.val⟩
  · exact fun f hf hrc => State.rd_readClearFields_rc _ (regAt_nodup_nums h.reg) i hf hrc
  · exact fun f j hother => s.rd_afterRead_other p.val hother

/-! ### The legacy view (R462) -/

/-- PMC_LEG_DATA in the register tables. -/
def legDataReg : RegInfo := ⟨0x20002C, 4, 1, 0, 1, 0, .fixed 54, [F.PMC_LEG_DATA.COUNT]⟩

theorem meets_legData {s : State} (hosc : s.bnd.oscOk = true) (hon : s.on 54 = true) : Meets s 0x20002C 4 legDataReg 0 where
  osc := hosc
  plain := by
    unfold plainOffset
    decide
  width := .inl rfl
  aligned := rfl
  reg := by decide +kernel
  on := hon

/-- The place of `legBase` that holds the base of the legacy counter PMC_LEG_ADDR and PMC_LEG_BANK name. -/
def State.legKey (s : State) : Key :=
  (bits (s.rd F.PMC_LEG_ADDR.ADDR 0) 10 6 +
    (if bits (s.rd F.PMC_LEG_ADDR.ADDR 0) 10 6 < 32 then 64 * min 2 (s.rd F.PMC_LEG_BANK.BANK 0) else 0),
   bits (s.rd F.PMC_LEG_ADDR.ADDR 0) 2 8)

theorem State.legRead_of_total {s : State} {n d : Nat}
    (htotal : s.legTotal (s.rd F.PMC_LEG_BANK.BANK 0) (bits (s.rd F.PMC_LEG_ADDR.ADDR 0) 10 6)
      (bits (s.rd F.PMC_LEG_ADDR.ADDR 0) 2 8) = some (n, d)) (hon : s.on d = true) :
    s.legRead = (min (2 ^ 32 - 1) (n - smGet 0 s.mon.legBase s.legKey),
      s.setMon (fun m => { m with legBase := smSet 0 m.legBase s.legKey n })) := by
  simp only [State.legRead, htotal, hon, Bool.not_true, Bool.false_eq_true, if_false]
  rfl

/-- LEGACY_READ (R462). -/
theorem legacyRead_runs {p : PortId} {s : State} {n d : Nat} (hosc : s.bnd.oscOk = true) (hmon : s.on 54 = true)
    (htotal : s.legTotal (s.rd F.PMC_LEG_BANK.BANK 0) (bits (s.rd F.PMC_LEG_ADDR.ADDR 0) 10 6)
      (bits (s.rd F.PMC_LEG_ADDR.ADDR 0) 2 8) = some (n, d)) (hon : s.on d = true) :
    Runs (.legacyRead p) s (fun t =>
      t.out.head? = some (.readData p.val (min (2 ^ 32 - 1) (n - smGet 0 s.mon.legBase s.legKey))) ∧
      smGet 0 t.mon.legBase s.legKey = n ∧ Leaves [] s t ∧ SameMemory s t) := by
  have hread : s.windowRead p.val 0x20002C 4 false false = s.legRead :=
    (meets_legData hosc hmon).windowRead (Nat.le_refl _) (by decide) (by decide) p.val
  have hexec := State.hostReadWindow_of_osc hosc p.val 0x20002C 4 false
  rw [hread, State.legRead_of_total htotal hon] at hexec
  exact ⟨_, congrArg Host.Outcome.next hexec, rfl, smGet_smSet_same _ _ _ _, fun _ _ _ _ => rfl, rfl, rfl⟩

/-- Settles O11: its three reads are `halfReadLatch_runs`, `readClear_runs` and `legacyRead_runs`. -/
theorem windowReads : Obligations.WindowReads := by
  unfold Obligations.WindowReads
  refine ⟨?_, ?_, ?_⟩
  · intro p off s r i hosc hplain hplain4 haligned hreg hbytes hrc hhigh hon hpmc hpe
    exact halfReadLatch_runs ⟨hosc, hplain, .inl rfl, by omega, hreg, hon⟩ hplain4 haligned hbytes hrc hhigh hpmc hpe
  · intro p off w s r i hosc hplain hwidth haligned hreg hw hon hcount
    exact readClear_runs ⟨hosc, hplain, hwidth, haligned, hreg, hon⟩ hw hcount
  · intro p s n d hosc hmon htotal hon
    exact legacyRead_runs hosc hmon htotal hon

/-! ### What commands leave alone -/

/-- A command that keeps to a mask writes no register but those of a list that holds the fields of the mask. -/
theorem framesRegs_of_frame {L : List Fld} {c : Instr} {s : State} {M : Nat} (h : ∀ {t}, exec c s = .next t → Frame M s t)
    (hfields : M % 2 ^ 1000 &&& maskFields L = M % 2 ^ 1000 := by decide +kernel) : FramesRegs L c s :=
  fun _ hex => (h hex).leaves hfields

/-- If the mask lacks the bit of the memories too, it writes neither memory. -/
theorem frames_of_frame {L : List Fld} {c : Instr} {s : State} {M : Nat} (h : ∀ {t}, exec c s = .next t → Frame M s t)
    (hfields : M % 2 ^ 1000 &&& maskFields L = M % 2 ^ 1000 := by decide +kernel)
    (hmem : M.testBit 1000 = false := by decide +kernel) : Frames L c s :=
  fun t hex => ⟨framesRegs_of_frame h hfields t hex, (h hex).sameMemory hmem⟩

/-- Settles O58: each command listed keeps to its mask (Laws/Does*.lean), whose fields are among those listed with it. -/
theorem framesOfIslandCommands : Obligations.FramesOfIslandCommands :=
  ⟨fun _ _ => framesRegs_of_frame execPwrRequest_frame,
   fun _ _ => framesRegs_of_frame execPwrStatus_frame,
   fun _ _ => framesRegs_of_frame execHealthReport_frame,
   fun _ _ => framesRegs_of_frame execCounterSnapshot_frame,
   fun _ _ _ => framesRegs_of_frame execDebugUnlock_frame,
   fun _ => framesRegs_of_frame execFlowHarvestDone_frame,
   fun _ _ _ _ => frames_of_frame execTreModCmdStart_frame,
   fun _ _ _ _ _ => frames_of_frame execModTransactionDone_frame,
   fun _ _ => frames_of_frame execClockStretchTimeout_frame,
   fun _ => frames_of_frame execModulePoll_frame,
   fun _ _ _ _ => frames_of_frame execTbSet_frame,
   fun _ _ _ _ => frames_of_frame execTbAdj_frame,
   fun _ _ _ _ => frames_of_frame execTbRateWrite_frame,
   fun _ _ _ => frames_of_frame execTideOriginWrite_frame,
   fun _ _ _ _ => frames_of_frame execTodArm_frame,
   fun _ _ _ => frames_of_frame execPwrWake_frame,
   fun _ _ _ => frames_of_frame execSnapNow_frame,
   fun _ _ _ => frames_of_frame execSnapArm_frame,
   fun _ _ _ => frames_of_frame execSnapDisarm_frame,
   fun _ => frames_of_frame execIslandResetRelease_frame,
   fun _ _ _ => frames_of_frame execOscillatorStable_frame,
   fun _ => frames_of_frame execComplexResetRelease_frame,
   fun _ _ => frames_of_frame execPpsInEdge_frame,
   fun _ => frames_of_frame execPpsOutEdge_frame,
   fun _ _ => frames_of_frame execCoreClockChange_frame,
   fun _ _ => frames_of_frame execFreqHoldoverChange_frame,
   fun _ => frames_of_frame execTideJump_frame,
   fun _ => frames_of_frame execLedgerCalibration_frame,
   fun _ _ => frames_of_frame execLightAccepted_frame,
   fun _ _ => frames_of_frame execSentinelRearm_frame,
   fun _ _ _ => frames_of_frame execWakeDelimiterMatch_frame,
   fun _ => frames_of_frame execFabricActivityWake_frame,
   fun _ _ => framesRegs_of_frame execBrownOutWarning_frame,
   fun _ _ => frames_of_frame execBrownOutClear_frame,
   fun _ _ => frames_of_frame execBbOver_frame,
   fun _ _ => frames_of_frame execPolRailReady_frame,
   fun _ _ => frames_of_frame execPolRailTimeout_frame,
   fun _ _ => frames_of_frame execIdleTimer_frame,
   fun _ _ => frames_of_frame execScheduledRequest_frame,
   fun _ => frames_of_frame execStartupPowerRequest_frame,
   fun _ => frames_of_frame execSnapshotAt_frame,
   fun _ _ => frames_of_frame execWearMeasure_frame,
   fun _ => frames_of_frame execHealthPoint_frame,
   fun _ => frames_of_frame execNonceExpiry_frame,
   fun _ => frames_of_frame execTmxUnlockExpiry_frame,
   fun _ _ _ _ => frames_of_frame execPolRailWrite_frame,
   fun _ _ _ => frames_of_frame execBwFramesWrite_frame,
   fun _ _ _ _ => frames_of_frame execTelemetryEnWrite_frame⟩

/-- Settles O59: each command listed keeps to its mask (Laws/Does*.lean), whose fields are among those listed with it. -/
theorem framesOfTrafficCommands : Obligations.FramesOfTrafficCommands :=
  ⟨fun _ _ => framesRegs_of_frame execBufferConfig_frame,
   fun _ _ => framesRegs_of_frame execBufferStatus_frame,
   fun _ _ => framesRegs_of_frame execQueueProfile_frame,
   fun _ _ => framesRegs_of_frame execQueueSet_frame,
   fun _ _ => framesRegs_of_frame execQueueStatus_frame,
   fun _ _ => framesRegs_of_frame execTreeConfig_frame,
   fun _ _ => framesRegs_of_frame execTreeEnable_frame,
   fun _ _ => framesRegs_of_frame execBurstProfile_frame,
   fun _ _ => framesRegs_of_frame execTerminalAdd_frame,
   fun _ _ => framesRegs_of_frame execTerminalSet_frame,
   fun _ _ => framesRegs_of_frame execTerminalRemove_frame,
   fun _ _ => framesRegs_of_frame execTerminalStatus_frame,
   fun _ _ => framesRegs_of_frame execFlowSet_frame,
   fun _ _ => framesRegs_of_frame execQuench_frame,
   fun _ _ => framesRegs_of_frame execAllocSet_frame,
   fun _ _ => framesRegs_of_frame execTableInsert_frame,
   fun _ _ => framesRegs_of_frame execTableDelete_frame,
   fun _ _ => framesRegs_of_frame execTableDump_frame,
   fun _ _ => framesRegs_of_frame execTableProfile_frame,
   fun _ _ => framesRegs_of_frame execTableConfig_frame,
   fun _ _ => framesRegs_of_frame execTableStatus_frame,
   fun _ _ => framesRegs_of_frame execFilterSet_frame,
   fun _ _ => framesRegs_of_frame execKeyStage_frame,
   fun _ _ => framesRegs_of_frame execKeySwitchAt_frame,
   fun _ _ => framesRegs_of_frame execKeyErase_frame,
   fun _ => framesRegs_of_frame execTableBulkInsertDone_frame,
   fun _ => framesRegs_of_frame execTableDumpDone_frame,
   fun _ => framesRegs_of_frame execPatternDeleteDone_frame,
   fun _ _ _ => framesRegs_of_frame execEngineRecoveryDone_frame,
   fun _ _ _ _ => frames_of_frame execTreUsSnPop_frame,
   fun _ _ _ => frames_of_frame execSluSwap_frame,
   fun _ _ _ => frames_of_frame execSluRetest_frame,
   fun _ _ _ _ _ => framesRegs_of_frame execCsWindowRead_frame,
   fun _ => frames_of_frame execTableEngineInitDone_frame,
   fun _ _ => framesRegs_of_frame execLaneLockLost_frame,
   fun _ _ => framesRegs_of_frame execCipherEraseNotice_frame,
   fun _ _ => framesRegs_of_frame execDsFrameStart_frame,
   fun _ _ => frames_of_frame execMapLatch_frame,
   fun _ _ _ => framesRegs_of_frame execDrawFrame_frame,
   fun _ _ => frames_of_frame execKeySwap_frame,
   fun _ _ => frames_of_frame execRetiredBankExpire_frame,
   fun _ _ => frames_of_frame execTreeStart_frame,
   fun _ _ => framesRegs_of_frame execTreeDormant_frame,
   fun _ _ => frames_of_frame execSurveyWake_frame,
   fun _ _ => framesRegs_of_frame execSurveyEnd_frame,
   fun _ _ => frames_of_frame execPloamHeldQueued_frame,
   fun _ _ => frames_of_frame execBurstProfileAnnounce_frame,
   fun _ _ _ _ _ => framesRegs_of_frame execStagingRefill_frame,
   fun _ => frames_of_frame execOrphanReclaim_frame,
   fun _ _ => frames_of_frame execRxrstPulse_frame,
   fun _ _ _ => framesRegs_of_frame execBurstHunt_frame,
   fun _ _ _ => frames_of_frame execReassemblyTimeout_frame,
   fun _ _ _ _ => frames_of_frame execSerialNumberReceived_frame,
   fun _ _ _ _ => frames_of_frame execRangingResponse_frame,
   fun _ _ _ => frames_of_frame execRangingFailed_frame,
   fun _ _ _ => frames_of_frame execTerminalOperation_frame,
   fun _ _ _ _ => frames_of_frame execRegistrationIdReceived_frame,
   fun _ _ _ => frames_of_frame execTerminalLost_frame,
   fun _ _ _ => frames_of_frame execLostLimit_frame,
   fun _ _ _ => frames_of_frame execRecordUnused_frame,
   fun _ _ msg _ _ => frames_of_frame (execUpstreamPloamReceived_frame (_msg := msg)),
   fun _ _ _ _ => frames_of_frame execSleepRequest_frame,
   fun _ _ _ => frames_of_frame execSleepWindowBoundary_frame,
   fun _ _ _ => frames_of_frame execRogueFrame_frame,
   fun _ _ => frames_of_frame execIsolationSweepStep_frame,
   fun _ _ _ => frames_of_frame execMapBuild_frame,
   fun _ _ => frames_of_frame execMapRelease_frame,
   fun _ _ _ => framesRegs_of_frame execSluiceUnitFault_frame,
   fun _ _ _ => frames_of_frame execSluiceSelfTestDone_frame,
   fun _ _ => frames_of_frame execSluiceRetestTimer_frame,
   fun _ _ => frames_of_frame execSluiceHot_frame,
   fun _ _ => framesRegs_of_frame execForecastRecord_frame,
   fun _ _ _ _ => frames_of_frame execTrunkIngress_frame,
   fun _ _ => framesRegs_of_frame execLookupDownstream_frame,
   fun _ _ => frames_of_frame execLookupUpstream_frame,
   fun _ => frames_of_frame execLearnApply_frame,
   fun _ => frames_of_frame execAgeingSweep_frame,
   fun _ _ _ _ _ => frames_of_frame execTableScrub_frame,
   fun _ _ => framesRegs_of_frame execTrunkSend_frame,
   fun _ _ _ _ => frames_of_frame execCreditReturn_frame,
   fun _ => frames_of_frame execFeNotReady_frame,
   fun _ => frames_of_frame execFeReady_frame,
   fun _ _ _ => framesRegs_of_frame execSpillWrite_frame,
   fun _ _ _ => framesRegs_of_frame execSpillReadback_frame,
   fun _ _ _ _ => frames_of_frame execEngineEvent_frame,
   fun _ _ => frames_of_frame execRoutineEntry_frame,
   fun _ _ _ => framesRegs_of_frame execNext_frame,
   fun _ _ _ => framesRegs_of_frame execJump_frame,
   fun _ _ _ => framesRegs_of_frame execBrt_frame,
   fun _ _ _ => framesRegs_of_frame execBrf_frame,
   fun _ _ _ => framesRegs_of_frame execCall_frame,
   fun _ _ _ => framesRegs_of_frame execRet_frame,
   fun _ _ _ => framesRegs_of_frame execWait_frame,
   fun _ _ _ => framesRegs_of_frame execCommit_frame,
   fun _ _ _ => framesRegs_of_frame execEnd_frame,
   fun _ _ _ => framesRegs_of_frame execHalt_frame,
   fun _ _ _ _ _ _ => framesRegs_of_frame execMopResult_frame,
   fun _ _ => framesRegs_of_frame execPortTimeout_frame,
   fun _ _ => framesRegs_of_frame execRoutineWatchdog_frame,
   fun _ _ => framesRegs_of_frame execDispatchOpcode_frame,
   fun _ _ => frames_of_frame execEngineStart_frame,
   fun _ _ => frames_of_frame execEngineStop_frame,
   fun _ _ _ => frames_of_frame execEngineLoadDone_frame,
   fun _ _ _ _ => framesRegs_of_frame execCsScrub_frame,
   fun _ _ => frames_of_frame execSamplerFire_frame⟩

/-- Settles O60: each command listed keeps to its mask (Laws/Does*.lean), whose fields are among those listed with it. -/
theorem framesOfHostAndFabricCommands : Obligations.FramesOfHostAndFabricCommands :=
  ⟨fun _ _ => framesRegs_of_frame execDevInfo_frame,
   fun _ _ => framesRegs_of_frame execHostSleepNotice_frame,
   fun _ _ => framesRegs_of_frame execRingCreate_frame,
   fun _ _ => framesRegs_of_frame execRingDestroy_frame,
   fun _ _ => framesRegs_of_frame execRingDisable_frame,
   fun _ _ => framesRegs_of_frame execEvqCreate_frame,
   fun _ _ => framesRegs_of_frame execTimeSelect_frame,
   fun _ _ => framesRegs_of_frame execProtPair_frame,
   fun _ _ => framesRegs_of_frame execProtSwitch_frame,
   fun _ _ => framesRegs_of_frame execProtStatus_frame,
   fun _ _ => framesRegs_of_frame execFabStatus_frame,
   fun _ _ => framesRegs_of_frame execFwLoad_frame,
   fun _ _ => framesRegs_of_frame execFwStart_frame,
   fun _ _ => framesRegs_of_frame execFwStatus_frame,
   fun _ _ _ => framesRegs_of_frame execFwLoadReadDone_frame,
   fun _ _ _ => framesRegs_of_frame execProtHandshakeDone_frame,
   fun _ _ _ _ => framesRegs_of_frame execMbxGo_frame,
   fun _ _ _ _ _ => framesRegs_of_frame execDoorbell_frame,
   fun _ _ _ _ => framesRegs_of_frame execDmaStart_frame,
   fun _ _ _ _ => framesRegs_of_frame execDmaResume_frame,
   fun _ _ _ _ => framesRegs_of_frame execDmaFence_frame,
   fun _ _ _ _ => framesRegs_of_frame execDmaDisable_frame,
   fun _ _ v _ => frames_of_frame (execDmaKick_frame (_v := v)),
   fun _ v _ => frames_of_frame (execFabReclaim_frame (_v := v)),
   fun _ _ _ _ => frames_of_frame execVectorUnmask_frame,
   fun _ _ _ _ => frames_of_frame execEqOverflowClear_frame,
   fun _ => framesRegs_of_frame execMbxReady_frame,
   fun _ _ => frames_of_frame execSiteTrained_frame,
   fun _ => frames_of_frame execLockstepMismatch_frame,
   fun _ _ => framesRegs_of_frame execCpRestartDone_frame,
   fun _ _ _ _ => framesRegs_of_frame execTxDescriptor_frame,
   fun _ _ _ => framesRegs_of_frame execTxWaitResume_frame,
   fun _ _ _ _ => framesRegs_of_frame execRxDeliver_frame,
   fun _ _ => frames_of_frame execRxHoldExpire_frame,
   fun _ _ => frames_of_frame execRingIdle_frame,
   fun _ _ _ => framesRegs_of_frame execEventPost_frame,
   fun _ _ => frames_of_frame execVectorTimer_frame,
   fun _ _ _ => frames_of_frame execRakeBurstError_frame,
   fun _ _ => frames_of_frame execRakeArmedStart_frame,
   fun _ _ => frames_of_frame execPeripheralRequestRise_frame,
   fun _ _ => frames_of_frame execFenceDone_frame,
   fun _ _ _ => frames_of_frame execFenceTimeout_frame,
   fun _ _ _ _ => frames_of_frame execBlockLockChange_frame,
   fun _ _ _ _ => frames_of_frame execCodewordLock_frame,
   fun _ _ _ => frames_of_frame execCodewordReceived_frame,
   fun _ _ => frames_of_frame execHelloSend_frame,
   fun _ _ _ => frames_of_frame execHelloReceived_frame,
   fun _ _ => frames_of_frame execHelloDead_frame,
   fun _ _ _ => frames_of_frame execCellReceived_frame,
   fun _ _ _ => frames_of_frame execClaimReceived_frame,
   fun _ => frames_of_frame execClaimRepeat_frame,
   fun _ => frames_of_frame execClaimTimer_frame,
   fun _ => frames_of_frame execUnaddressedTimer_frame,
   fun _ _ _ => frames_of_frame execRouteReceived_frame,
   fun _ => frames_of_frame execRoutePeriodic_frame,
   fun _ => frames_of_frame execRouteAgeOut_frame,
   fun _ => frames_of_frame execRouteRecompute_frame,
   fun _ _ => frames_of_frame execLeaseRequestReceived_frame,
   fun _ _ _ => frames_of_frame execLeaseAnswerReceived_frame,
   fun _ _ => frames_of_frame execTideCellSend_frame,
   fun _ _ _ => framesRegs_of_frame execTideCellReceived_frame,
   fun _ _ => framesRegs_of_frame execRemoteAccessReceived_frame,
   fun _ _ => framesRegs_of_frame execRemoteRspReceived_frame,
   fun _ _ _ _ => frames_of_frame execDigestReceived_frame,
   fun _ _ _ _ => frames_of_frame execStatusReceived_frame,
   fun _ _ _ _ _ => frames_of_frame execDeltaReceived_frame,
   fun _ _ _ _ _ => frames_of_frame execCopyReceived_frame,
   fun _ _ _ => frames_of_frame execHandshakeReceived_frame,
   fun _ f _ _ => framesRegs_of_frame (execLeaveReceived_frame (_f := f)),
   fun _ _ _ _ => frames_of_frame execTableSyncReceived_frame,
   fun _ _ => frames_of_frame execLeaseRequestTimer_frame,
   fun _ _ => framesRegs_of_frame execLeaseExpire_frame,
   fun _ _ => framesRegs_of_frame execTakingTimeout_frame,
   fun _ _ _ _ => frames_of_frame execFabLinkEnWrite_frame,
   fun _ _ _ => framesRegs_of_frame execQuenchFromPartner_frame⟩

end Sys2Proof.Machine

/-! PROOFS. Sluice: ALLOC_SET, the building and releasing of maps, forecast records, and the states of the two units. -/

namespace Sys2Proof.Machine

-- `decide +kernel` waits for the declarations before it: side by side, the proofs would only pile up waiting threads.
set_option Elab.async false

/-! ### What the host, the fabric and the control processor do beside Sluice -/

/-- Only register fields, outputs, counts, host memory and the records of rings, event queues, mailboxes, the monitor and the
fabric differ: no tree, terminal, allocation or Sluice unit does. -/
def HostSide (s t : State) : Prop :=
  t = { s with
    fields := t.fields, out := t.out, counts := t.counts, hostMem := t.hostMem, rings := t.rings, evqs := t.evqs, cp := t.cp,
    upsets := t.upsets, mon := t.mon, fab := t.fab, fabLinks := t.fabLinks }

namespace HostSide

theorem refl (s : State) : HostSide s s := rfl

theorem trans {s t u : State} (h1 : HostSide s t) (h2 : HostSide t u) : HostSide s u := by
  unfold HostSide at *
  rw [h2, h1]

theorem ofEvent {s t u : State} (h1 : HostSide s t) (h2 : EventOnly t u) : HostSide s u :=
  h1.trans (by unfold EventOnly at h2; unfold HostSide; rw [h2])

section
variable {s t : State} (h : HostSide s t)
include h

theorem wr {f : Fld} {i v : Nat} : HostSide s (t.wr f i v) := h.trans rfl
theorem emit {o : Output} : HostSide s (t.emit o) := h.trans rfl
theorem setRing {r : Nat} {x : Ring} : HostSide s (t.setRing r x) := h.trans rfl
theorem setEvq {q : Nat} {x : EvQueue} : HostSide s (t.setEvq q x) := h.trans rfl
theorem setLink {l : Nat} {x : FabLink} : HostSide s (t.setLink l x) := h.trans rfl
theorem putCp {x : CpState} : HostSide s (t.putCp x) := h.trans rfl
theorem putMon {x : Monitor} : HostSide s (t.putMon x) := h.trans rfl
theorem putFab {x : Fabric} : HostSide s (t.putFab x) := h.trans rfl
theorem addCnt {p o n : Nat} : HostSide s (t.addCnt p o n) := h.trans rfl
theorem rewrite {which : Upset → Bool} : HostSide s (t.rewrite which) := h.trans rfl
theorem hostWrite {a : Nat} {b : List Byte} : HostSide s (t.hostWrite a b) := h.trans rfl
theorem blockEvent {b c n : Nat} : HostSide s (t.blockEvent b c n) := h.ofEvent (EventOnly.refl t).blockEvent

theorem corrected {i : Nat} : HostSide s (t.corrected i) := by
  unfold State.corrected
  dsimp only
  split
  · exact h.addCnt.putMon
  · exact h.addCnt

/-! Taking a request (R342) -/

theorem mbxRead {n : Nat} : HostSide s (t.mbxRead n) := by
  unfold State.mbxRead
  split
  · exact h.rewrite.corrected
  · exact h

theorem take {src : Src} : HostSide s (t.take src) := by
  cases src with
  | mbx n => exact h.putCp.mbxRead
  | admin => exact h.putCp.setRing.wr

/-! Losing forecast records (R173) -/

theorem forecastsLost {n : Nat} : HostSide s (t.forecastsLost n) := by
  unfold State.forecastsLost
  split
  · exact h
  · exact h.wr.ofEvent (EventOnly.refl _).sluEvent

/-! Completing an entry (R295) -/

theorem ringEvent {r : Nat} {e : EvEntry} : HostSide s (t.ringEvent r e) := by
  unfold State.ringEvent
  dsimp only
  repeat' split
  · exact h
  · exact h.wr
  · exact h.setEvq

theorem ringState {r st : Nat} : HostSide s (t.ringState r st) := by
  unfold State.ringState
  dsimp only
  split
  · exact h.wr.ringEvent
  · exact h.wr

theorem ringError {r c : Nat} : HostSide s (t.ringError r c) := by
  unfold State.ringError
  split
  · exact h.wr.ringState.ofEvent (EventOnly.refl _).irqStatus
  · exact h

theorem advanceHead {r : Nat} : HostSide s (t.advanceHead r) := h.wr

theorem completed {r i : Nat} {e : Bool} : HostSide s (t.completed r i e) := by
  unfold State.completed
  dsimp only
  repeat' split
  · exact h.setRing.ringError
  · exact h.setRing.ringEvent
  · exact h.setRing.wr
  · exact h.setRing

theorem writeCompletion {r i : Nat} {b : List Byte} {e : Bool} : HostSide s (t.writeCompletion r i b e) := by
  unfold State.writeCompletion
  split
  · exact h.setRing.ringError
  · exact h.hostWrite.wr.blockEvent.completed

end

/-! Sending a message (R375, R376) -/

theorem linkPump {n l : Nat} {s t : State} (h : HostSide s t) : HostSide s (State.linkPump n t l) := by
  induction n generalizing t with
  | zero => exact h
  | succ n ih =>
    unfold State.linkPump
    dsimp only
    repeat' split
    · exact h
    · exact h
    · exact h
    all_goals exact ih h.setLink.wr.blockEvent.emit

theorem sendTo {dst src : Nat} {c : TxCell} {s t : State} (h : HostSide s t) : HostSide s (t.sendTo dst src c) := by
  unfold State.sendTo
  split
  · exact h.setLink.linkPump
  · exact h.wr.blockEvent

theorem sendChunks {n dst ty q aux : Nat} {first : Bool} {p : List Byte} {s t : State} (h : HostSide s t) :
    HostSide s (State.sendChunks n t dst ty q aux first p) := by
  induction n generalizing t first p with
  | zero => exact h
  | succ n ih =>
    unfold State.sendChunks
    dsimp only
    split
    · exact h.sendTo
    · exact ih h.sendTo

theorem sendDigest {k : Nat} {fr : Int} {g : List Grant} {crc flags : Nat} {s t : State} (h : HostSide s t) :
    HostSide s (t.sendDigest k fr g crc flags) := by
  unfold State.sendDigest
  split
  · exact h
  · exact h.putFab.sendChunks

section
variable {s t : State} (h : HostSide s t)
include h

theorem tb : t.tb = s.tb := by rw [h]
theorem trees : t.trees = s.trees := by rw [h]
theorem tree (k : Nat) : t.tree k = s.tree k := congrArg (smGet Tree.reset · (k, 0)) h.trees
theorem terms : t.terms = s.terms := by rw [h]
theorem bprofs : t.bprofs = s.bprofs := by rw [h]
theorem allocs : t.allocs = s.allocs := by rw [h]
theorem sluTrees : t.sluTrees = s.sluTrees := by rw [h]
theorem sluUnits : t.sluUnits = s.sluUnits := by rw [h]
theorem sluUnit (u : Nat) : t.sluUnit u = s.sluUnit u := congrArg (smGet SluUnit.reset · (u, 0)) h.sluUnits

end

end HostSide

/-! ### What the units' operations do -/

/-- A unit as it becomes FAILED, before an ACTIVE one hands over (R177). -/
def State.markFailed (s : State) (u cause : Nat) : State :=
  let s2 := ((s.setUnit u 4).wr (if u = 0 then F.SLU_FAIL_CAUSE.A_CAUSE else F.SLU_FAIL_CAUSE.B_CAUSE) 0 cause).sluEvent
    F.SLU_EVENT.UNIT_FAILED
  s2.setSluUnit u { s2.sluUnit u with
    passed := false, ownRun := 0, cleanFrom := none,
    failedTests := if cause = 4 then (s2.sluUnit u).failedTests + 1 else (s2.sluUnit u).failedTests }

theorem State.unitFail_eq (s : State) (u cause : Nat) :
    s.unitFail u cause =
      if s.unitState u = 4 then s
      else if s.unitState u = 0 then
        if s.unitState (1 - u) = 1 ∨ (s.unitState (1 - u) = 2 ∧ s.copyDone (1 - u)) then
          (s.markFailed u cause).switchOver (1 - u)
        else (s.markFailed u cause).sluEvent F.SLU_EVENT.NO_SCHEDULER
      else s.markFailed u cause := rfl

/-- Only register fields, outputs, counts and the data of Sluice and its engines differ: no tree, terminal or allocation does. -/
def UnitSide (s t : State) : Prop :=
  t = { s with
    fields := t.fields, out := t.out, counts := t.counts, sluTrees := t.sluTrees, sluUnits := t.sluUnits, slu := t.slu,
    engs := t.engs }

namespace UnitSide

theorem refl (s : State) : UnitSide s s := rfl

theorem trans {s t u : State} (h1 : UnitSide s t) (h2 : UnitSide t u) : UnitSide s u := by
  unfold UnitSide at *
  rw [h2, h1]

theorem foldl {α : Type} {s t : State} {l : List α} {f : State → α → State} (h : UnitSide s t)
    (hf : ∀ u, UnitSide s u → ∀ x, UnitSide s (f u x)) : UnitSide s (l.foldl f t) :=
  List.foldlRecOn (motive := UnitSide s) l f h fun u hu x _ => hf u hu x

section
variable {s t : State} (h : UnitSide s t)
include h

theorem ofEvent {u : State} (h2 : EventOnly t u) : UnitSide s u :=
  h.trans (by unfold EventOnly at h2; unfold UnitSide; rw [h2])

theorem wr {f : Fld} {i v : Nat} : UnitSide s (t.wr f i v) := h.trans rfl
theorem setSluTree {u k : Nat} {x : SluTree} : UnitSide s (t.setSluTree u k x) := h.trans rfl
theorem setSluUnit {u : Nat} {x : SluUnit} : UnitSide s (t.setSluUnit u x) := h.trans rfl
theorem setEng {e : Nat} {x : Engine} : UnitSide s (t.setEng e x) := h.trans rfl
theorem putSluUnits {x : SMap SluUnit} : UnitSide s (t.putSluUnits x) := h.trans rfl
theorem putSlu {x : Sluice} : UnitSide s (t.putSlu x) := h.trans rfl
theorem sluEvent {f : Fld} : UnitSide s (t.sluEvent f) := h.ofEvent (EventOnly.refl t).sluEvent
theorem blockEvent {b c n : Nat} : UnitSide s (t.blockEvent b c n) := h.ofEvent (EventOnly.refl t).blockEvent

theorem setUnit {u st : Nat} : UnitSide s (t.setUnit u st) := by
  unfold State.setUnit
  dsimp only
  repeat' split
  · exact UnitSide.wr h.wr.wr
  · exact UnitSide.wr h.wr.wr
  · exact UnitSide.wr h.wr
  · exact UnitSide.wr h.wr

theorem switchOver {u : Nat} : UnitSide s (t.switchOver u) := h.putSlu.sluEvent.setUnit

theorem markFailed {u c : Nat} : UnitSide s (t.markFailed u c) := h.setUnit.wr.sluEvent.setSluUnit

theorem unitFail {u c : Nat} : UnitSide s (t.unitFail u c) := by
  rw [State.unitFail_eq]
  repeat' split
  · exact h
  · exact h.markFailed.switchOver
  · exact h.markFailed.sluEvent
  · exact h.markFailed

theorem beginTest {u : Nat} : UnitSide s (t.beginTest u) :=
  h.setUnit.foldl fun _ hu _ => hu.setEng.wr

theorem postSlu {k : Nat} {f : SluTree → SluTree} : UnitSide s (t.postSlu k f) := by
  refine h.foldl fun v hv u => ?_
  split
  · exact hv.setSluTree
  · exact hv

theorem forgetAlloc {k a : Nat} : UnitSide s (t.forgetAlloc k a) :=
  UnitSide.putSluUnits (h.foldl fun _ hv _ => hv.setSluTree)

theorem trees : t.trees = s.trees := by rw [h]
theorem tree (k : Nat) : t.tree k = s.tree k := congrArg (smGet Tree.reset · (k, 0)) h.trees
theorem allocs : t.allocs = s.allocs := by rw [h]

end

end UnitSide

/-! ### What a frame says of the units -/

section
variable {M : Nat} {s t : State} (h : Frame M s t)
include h

theorem Frame.rd_eq (f : Fld) (i : Nat) (hf : M.testBit f.num = false := by decide +kernel) : t.rd f i = s.rd f i :=
  h.regs f i hf

theorem Frame.flag_eq (f : Fld) (i : Nat) (hf : M.testBit f.num = false := by decide +kernel) : t.flag f i = s.flag f i := by
  unfold State.flag
  rw [h.rd_eq f i hf]

theorem Frame.on_eq (d : Nat) (hf : M.testBit F.PWR_Dd_STATE.STATE.num = false := by decide +kernel) : t.on d = s.on d := by
  unfold State.on State.pw
  rw [h.rd_eq _ _ hf]

theorem Frame.tstate_eq (k : Nat) (hf : M.testBit F.TRE_STATE.STATE.num = false := by decide +kernel) :
    t.tstate k = s.tstate k := h.rd_eq _ _ hf

theorem Frame.f50_eq (k : Nat) (hf : M.testBit F.TRE_STATE.PROFILE.num = false := by decide +kernel) : t.f50 k = s.f50 k :=
  h.flag_eq _ _ hf

theorem Frame.unitState_eq (u : Nat) (hA : M.testBit F.SLU_STATUS.A_STATE.num = false := by decide +kernel)
    (hB : M.testBit F.SLU_STATUS.B_STATE.num = false := by decide +kernel) : t.unitState u = s.unitState u := by
  unfold State.unitState
  rw [h.rd_eq _ _ hA, h.rd_eq _ _ hB]

theorem Frame.activeUnit_eq (hA : M.testBit F.SLU_STATUS.A_STATE.num = false := by decide +kernel)
    (hB : M.testBit F.SLU_STATUS.B_STATE.num = false := by decide +kernel) : t.activeUnit = s.activeUnit := by
  unfold State.activeUnit
  rw [h.unitState_eq _ hA hB, h.unitState_eq _ hA hB]

end

theorem State.sluEvent_frame (s : State) (f : Fld) : Frame (W.sluEvent ||| 2 ^ f.num) s (s.sluEvent f) :=
  Frame.sluEvent (Frame.refl _ s) (by simp [Nat.testBit_or])
    (Nat.eq_of_testBit_eq fun i => by simpa using fun h => .inl h)

theorem State.blockEvent_frame (s : State) (b c n : Nat) : Frame W.blockEvent s (s.blockEvent b c n) :=
  Frame.blockEvent (Frame.refl _ s) (Nat.and_self _)

/-- An event bit of Sluice that no event of another source writes is 1 once it is raised (R304). -/
theorem State.flag_sluEvent (s : State) (f : Fld) (hw : f.w = 1 := by rfl)
    (hf : W.sluEvent.testBit f.num = false := by decide +kernel) : (s.sluEvent f).flag f 0 = true := by
  unfold State.sluEvent State.raiseEn State.raise
  have hone : (s.wr f 0 1).flag f 0 = true := by simp [State.flag, hw]
  dsimp only
  split
  · assumption
  · split
    · rw [(Frame.srcEvent (M := W.sluEvent) (Frame.refl _ _) (by decide +kernel)).flag_eq f 0 hf, hone]
    · exact hone

/-! ### The state codes of the units (R177) -/

theorem State.rd_setUnit (s : State) (u st : Nat) {f : Fld} (hactive : F.SLU_STATUS.ACTIVE.num ≠ f.num)
    (hnone : F.SLU_STATUS.NONE.num ≠ f.num) :
    (s.setUnit u st).rd f 0 =
      (if u = 0 then s.wr F.SLU_STATUS.A_STATE 0 st else s.wr F.SLU_STATUS.B_STATE 0 st).rd f 0 := by
  unfold State.setUnit State.wrB
  dsimp only
  rw [State.rd_wr_fld _ _ hnone]
  by_cases hst : st = 0
  · rw [if_pos hst, State.rd_wr_fld _ _ hactive]
  · rw [if_neg hst]

theorem State.unitState_setUnit_same (s : State) (u : Nat) {st : Nat} (h : st < 8) : (s.setUnit u st).unitState u = st := by
  unfold State.unitState
  rw [State.rd_setUnit s u st (by decide) (by decide), State.rd_setUnit s u st (by decide) (by decide)]
  by_cases hu : u = 0
  · simp only [if_pos hu]
    exact State.rd_cutoff _ _ _ _ h
  · simp only [if_neg hu]
    exact State.rd_cutoff _ _ _ _ h

theorem State.unitState_setUnit_other (s : State) {u v : Nat} (h : ¬(u = 0 ↔ v = 0)) (st : Nat) :
    (s.setUnit u st).unitState v = s.unitState v := by
  unfold State.unitState
  rw [State.rd_setUnit s u st (by decide) (by decide), State.rd_setUnit s u st (by decide) (by decide)]
  by_cases hu : u = 0
  · have hv : v ≠ 0 := fun hv => h ⟨fun _ => hv, fun _ => hu⟩
    simp only [if_pos hu, if_neg hv]
    exact State.rd_wr_fld _ _ (by decide)
  · have hv : v = 0 := by omega
    simp only [if_neg hu, if_pos hv]
    exact State.rd_wr_fld _ _ (by decide)

theorem State.setUnit_frame (s : State) (u st : Nat) : Frame W.setUnit s (s.setUnit u st) :=
  Frame.setUnit (Frame.refl _ s) (Nat.and_self _)

/-- There are two units: the other of `u` is `1 - u`. -/
theorem otherUnit (u : Nat) : ¬(u = 0 ↔ 1 - u = 0) := by omega

theorem State.unitState_of_activeUnit {s : State} {a : Nat} (h : s.activeUnit = some a) : s.unitState a = 0 := by
  unfold State.activeUnit at h
  split at h
  · exact Option.some.inj h ▸ ‹_›
  · split at h
    · exact Option.some.inj h ▸ ‹_›
    · cases h

/-! ### Handing over and failing (R176, R177) -/

/-- The switch-over before the unit takes its state. -/
theorem State.switchOver_eq (s : State) (u : Nat) : s.switchOver u =
    ((s.putSlu { s.slu with switchAt := some s.tide }).sluEvent F.SLU_EVENT.SWITCHOVER).setUnit u 0 := rfl

theorem State.switchOver_frame (s : State) (u : Nat) : Frame W.switchOver s (s.switchOver u) :=
  Frame.switchOver (Frame.refl _ s) (Nat.and_self _)

theorem State.unitState_switchOver_same (s : State) (u : Nat) : (s.switchOver u).unitState u = 0 :=
  State.unitState_setUnit_same _ _ (by decide)

theorem State.unitState_switchOver_other (s : State) {u v : Nat} (h : ¬(u = 0 ↔ v = 0)) :
    (s.switchOver u).unitState v = s.unitState v := by
  rw [State.switchOver_eq, State.unitState_setUnit_other _ h, (State.sluEvent_frame _ _).unitState_eq]
  rfl

theorem State.flag_switchOver (s : State) (u : Nat) : (s.switchOver u).flag F.SLU_EVENT.SWITCHOVER 0 = true := by
  rw [State.switchOver_eq, (State.setUnit_frame _ _ _).flag_eq F.SLU_EVENT.SWITCHOVER 0]
  exact State.flag_sluEvent _ _

/-- The field of SLU_FAIL_CAUSE that holds a unit's cause. -/
def causeFld (u : Nat) : Fld := if u = 0 then F.SLU_FAIL_CAUSE.A_CAUSE else F.SLU_FAIL_CAUSE.B_CAUSE

theorem causeFld_clear {M : Nat} (u : Nat) (hA : M.testBit F.SLU_FAIL_CAUSE.A_CAUSE.num = false)
    (hB : M.testBit F.SLU_FAIL_CAUSE.B_CAUSE.num = false) : M.testBit (causeFld u).num = false := by
  unfold causeFld
  by_cases hu : u = 0
  · exact if_pos hu ▸ hA
  · exact if_neg hu ▸ hB

theorem causeFld_width (u : Nat) : (causeFld u).w = 4 := by
  unfold causeFld
  split <;> rfl

/-- A frame that spares both causes spares a unit's. -/
theorem Frame.rd_cause_eq {M : Nat} {s t : State} (h : Frame M s t) (u : Nat)
    (hA : M.testBit F.SLU_FAIL_CAUSE.A_CAUSE.num = false := by decide +kernel)
    (hB : M.testBit F.SLU_FAIL_CAUSE.B_CAUSE.num = false := by decide +kernel) :
    t.rd (causeFld u) 0 = s.rd (causeFld u) 0 := h.rd_eq _ _ (causeFld_clear u hA hB)

section
variable (s : State) (u cause : Nat)

/-- Its registers are those after the event; only the unit's record differs. -/
theorem State.rd_markFailed (f : Fld) : (s.markFailed u cause).rd f 0 =
    (((s.setUnit u 4).wr (causeFld u) 0 cause).sluEvent F.SLU_EVENT.UNIT_FAILED).rd f 0 := rfl

theorem State.unitState_markFailed (v : Nat) : (s.markFailed u cause).unitState v = (s.setUnit u 4).unitState v := by
  change (((s.setUnit u 4).wr (causeFld u) 0 cause).sluEvent F.SLU_EVENT.UNIT_FAILED).unitState v = _
  rw [(State.sluEvent_frame _ _).unitState_eq]
  unfold State.unitState causeFld
  split <;> split <;> rw [State.rd_wr_fld _ _ (by decide)]

theorem State.unitState_markFailed_same : (s.markFailed u cause).unitState u = 4 := by
  rw [State.unitState_markFailed, State.unitState_setUnit_same _ _ (by decide)]

theorem State.unitState_markFailed_other {v : Nat} (h : ¬(u = 0 ↔ v = 0)) :
    (s.markFailed u cause).unitState v = s.unitState v := by
  rw [State.unitState_markFailed, State.unitState_setUnit_other _ h]

theorem State.flag_markFailed : (s.markFailed u cause).flag F.SLU_EVENT.UNIT_FAILED 0 = true :=
  State.flag_sluEvent _ _

theorem State.rd_markFailed_cause (h : cause < 16) : (s.markFailed u cause).rd (causeFld u) 0 = cause := by
  rw [State.rd_markFailed, (State.sluEvent_frame _ _).rd_cause_eq, State.rd_cutoff]
  rw [causeFld_width]
  exact h

theorem State.unitFail_frame : Frame W.unitFail s (s.unitFail u cause) := Frame.unitFail (Frame.refl _ s) (Nat.and_self _)

theorem State.unitState_unitFail_same : (s.unitFail u cause).unitState u = 4 := by
  have ho : ¬(1 - u = 0 ↔ u = 0) := fun h => otherUnit u h.symm
  rw [State.unitFail_eq]
  repeat' split
  · assumption
  · rw [State.unitState_switchOver_other _ ho, State.unitState_markFailed_same]
  · rw [(State.sluEvent_frame _ _).unitState_eq, State.unitState_markFailed_same]
  · rw [State.unitState_markFailed_same]

/-- What failing brings beside the state code: the cause and the event. -/
theorem State.unitFail_reports (h : s.unitState u ≠ 4) (hc : cause < 16) :
    (s.unitFail u cause).rd (causeFld u) 0 = cause ∧ (s.unitFail u cause).flag F.SLU_EVENT.UNIT_FAILED 0 = true := by
  have hcause := State.rd_markFailed_cause s u cause hc
  have hflag := State.flag_markFailed s u cause
  rw [State.unitFail_eq, if_neg h]
  repeat' split
  · rw [(State.switchOver_frame _ _).rd_cause_eq, (State.switchOver_frame _ _).flag_eq F.SLU_EVENT.UNIT_FAILED]
    exact ⟨hcause, hflag⟩
  · rw [(State.sluEvent_frame _ _).rd_cause_eq, (State.sluEvent_frame _ _).flag_eq F.SLU_EVENT.UNIT_FAILED]
    exact ⟨hcause, hflag⟩
  · exact ⟨hcause, hflag⟩

variable {s u}

/-- A unit that was not ACTIVE fails alone. -/
theorem State.unitState_unitFail_other (h : s.unitState u ≠ 0) {v : Nat} (hv : ¬(u = 0 ↔ v = 0)) :
    (s.unitFail u cause).unitState v = s.unitState v := by
  rw [State.unitFail_eq, if_neg h]
  split
  · rfl
  · exact State.unitState_markFailed_other s u cause hv

/-- An ACTIVE unit hands over to a HOT one. -/
theorem State.unitFail_handsOver (h : s.unitState u = 0) (ho : s.unitState (1 - u) = 1) :
    (s.unitFail u cause).unitState (1 - u) = 0 ∧ (s.unitFail u cause).flag F.SLU_EVENT.SWITCHOVER 0 = true := by
  rw [State.unitFail_eq, if_neg (by omega), if_pos h, if_pos (.inl ho)]
  exact ⟨State.unitState_switchOver_same _ _, State.flag_switchOver _ _⟩

/-- An ACTIVE unit beside a FAILED one leaves no scheduler. -/
theorem State.unitFail_noScheduler (h : s.unitState u = 0) (ho : s.unitState (1 - u) = 4) :
    (s.unitFail u cause).unitState (1 - u) = 4 ∧ (s.unitFail u cause).flag F.SLU_EVENT.NO_SCHEDULER 0 = true := by
  rw [State.unitFail_eq, if_neg (by omega), if_pos h, if_neg (by omega)]
  refine ⟨?_, State.flag_sluEvent _ _⟩
  rw [(State.sluEvent_frame _ _).unitState_eq, State.unitState_markFailed_other _ _ _ (otherUnit u), ho]

end

/-! ### Self-tests (R177) -/

/-- The engines' reloads touch no state code of a unit. -/
theorem State.beginTest_frame_setUnit (s : State) (u : Nat) : Frame W.engReload (s.setUnit u 3) (s.beginTest u) :=
  Frame.foldl (Frame.refl _ _) fun _ hv _ _ => Frame.engReload hv (Nat.and_self _)

theorem State.unitState_beginTest_same (s : State) (u : Nat) : (s.beginTest u).unitState u = 3 := by
  rw [(State.beginTest_frame_setUnit s u).unitState_eq, State.unitState_setUnit_same _ _ (by decide)]

theorem State.unitState_beginTest_other (s : State) {u v : Nat} (h : ¬(u = 0 ↔ v = 0)) :
    (s.beginTest u).unitState v = s.unitState v := by
  rw [(State.beginTest_frame_setUnit s u).unitState_eq, State.unitState_setUnit_other _ h]

/-! ### SLU_CTL (R177, R180, R185) -/

/-- A write of a register with its domain ON acts (R32). -/
theorem State.winWrite_on {s : State} (hosc : s.bnd.oscOk = true) {d : Nat} (hon : s.on d = true) (port off : Nat)
    (act : State → State) : s.winWrite port off (s.on d) act = act s := by
  simp [State.winWrite, hosc, hon]

theorem State.retestMs_frame (s : State) (v : Nat) :
    Frame (2 ^ F.SLU_CTL.RETEST_MS.num) s (s.writeFields [F.SLU_CTL.RETEST_MS] 0 v) :=
  Frame.wr (Frame.refl _ s) (by decide +kernel)

theorem State.retest_frame (s : State) (u : Nat) : Frame W.retest s (s.retest u) := Frame.retest (Frame.refl _ s) (Nat.and_self _)

theorem State.beginTest_slu (s : State) (u : Nat) : (s.beginTest u).slu = s.slu := by
  refine List.foldlRecOn (motive := fun (v : State) => v.slu = s.slu) _ _ ?_ fun v hv _ _ => hv
  unfold State.setUnit
  dsimp only
  repeat' split
  all_goals rfl

theorem State.retest_slu (s : State) (u : Nat) : (s.retest u).slu = s.slu := by
  unfold State.retest
  repeat' split
  · rfl
  · exact State.beginTest_slu s u
  · rfl

theorem State.unitState_retest_same {s : State} (h : s.slu.started = true) (u : Nat) :
    (s.retest u).unitState u = if s.unitState u = 4 ∧ s.on (48 + u) = true then 3 else s.unitState u := by
  unfold State.retest
  by_cases hfailed : s.unitState u = 4
  · by_cases hon : s.on (48 + u) = true
    · simp [hfailed, h, hon, State.unitState_beginTest_same]
    · simp only [hfailed, h, hon]
      exact hfailed
  · simp [hfailed]

theorem State.unitState_retest_other (s : State) {u v : Nat} (h : ¬(u = 0 ↔ v = 0)) :
    (s.retest u).unitState v = s.unitState v := by
  unfold State.retest
  repeat' split
  · rfl
  · exact State.unitState_beginTest_other s h
  · rfl

/-- A write of SLU_CTL with neither an error nor the island in reset. -/
theorem execSluCtl_on {s : State} (hosc : s.bnd.oscOk = true) (hon : s.on 54 = true) (p : PortId) (v : BitVec 32) :
    exec (.sluSwap p v) s = .next (s.writeSluCtl v.toNat) ∧ exec (.sluRetest p v) s = .next (s.writeSluCtl v.toNat) :=
  have h := congrArg Host.Outcome.next (State.winWrite_on hosc hon p.val 0x68004 (fun s => s.writeSluCtl v.toNat))
  ⟨h, h⟩

theorem sluSwap_handsOver {p : PortId} {v : BitVec 32} {s : State} (hosc : s.bnd.oscOk = true) (hon : s.on 54 = true)
    (hswap : bit v.toNat 0 = true) (hretest : bit v.toNat 1 = false) {a : Nat} (ha : s.activeUnit = some a)
    (ho : s.unitState (1 - a) = 1) :
    Runs (.sluSwap p v) s (fun u => u.unitState (1 - a) = 0 ∧ u.unitState a = 1 ∧ u.flag F.SLU_EVENT.SWITCHOVER 0 = true) := by
  have hms := s.retestMs_frame v.toNat
  have heq : s.writeSluCtl v.toNat = ((s.writeFields [F.SLU_CTL.RETEST_MS] 0 v.toNat).switchOver (1 - a)).setUnit a 1 := by
    simp only [State.writeSluCtl, hswap, hretest, hms.activeUnit_eq, ha, hms.unitState_eq, ho, Bool.not_true,
      Bool.false_eq_true, if_true, if_false]
  refine ⟨_, (execSluCtl_on hosc hon p v).1.trans (congrArg _ heq), ?_, State.unitState_setUnit_same _ _ (by decide), ?_⟩
  · rw [State.unitState_setUnit_other _ (otherUnit a), State.unitState_switchOver_same]
  · rw [(State.setUnit_frame _ _ _).flag_eq F.SLU_EVENT.SWITCHOVER 0, State.flag_switchOver]

theorem sluSwap_refused {p : PortId} {v : BitVec 32} {s : State} (hosc : s.bnd.oscOk = true) (hon : s.on 54 = true)
    (hswap : bit v.toNat 0 = true) (hretest : bit v.toNat 1 = false)
    (ho : ∀ a, s.activeUnit = some a → s.unitState (1 - a) ≠ 1) :
    Runs (.sluSwap p v) s (fun u => u.flag F.SLU_EVENT.SWAP_REFUSED 0 = true ∧ u.unitState 0 = s.unitState 0 ∧
      u.unitState 1 = s.unitState 1) := by
  have hms := s.retestMs_frame v.toNat
  have heq : s.writeSluCtl v.toNat = (s.writeFields [F.SLU_CTL.RETEST_MS] 0 v.toNat).sluEvent F.SLU_EVENT.SWAP_REFUSED := by
    simp only [State.writeSluCtl, hswap, hretest, hms.activeUnit_eq, hms.unitState_eq, Bool.not_true, Bool.false_eq_true, if_false]
    split
    · exact if_neg (ho _ ‹_›)
    · rfl
  refine ⟨_, (execSluCtl_on hosc hon p v).1.trans (congrArg _ heq), State.flag_sluEvent _ _, ?_, ?_⟩
  all_goals rw [(State.sluEvent_frame _ _).unitState_eq, hms.unitState_eq]

theorem sluRetest_runs {p : PortId} {v : BitVec 32} {s : State} (hosc : s.bnd.oscOk = true) (hon : s.on 54 = true)
    (hswap : bit v.toNat 0 = false) (hretest : bit v.toNat 1 = true) (hstarted : s.slu.started = true) :
    Runs (.sluRetest p v) s (fun u => ∀ w : Fin 2,
      u.unitState w = (if s.unitState w = 4 ∧ s.on (48 + w) = true then 3 else s.unitState w)) := by
  have hms := s.retestMs_frame v.toNat
  have hst : (s.writeFields [F.SLU_CTL.RETEST_MS] 0 v.toNat).slu.started = true := hstarted
  have heq : s.writeSluCtl v.toNat = ((s.writeFields [F.SLU_CTL.RETEST_MS] 0 v.toNat).retest 0).retest 1 := by
    simp only [State.writeSluCtl, hswap, hretest, Bool.not_false, if_true]
  refine ⟨_, (execSluCtl_on hosc hon p v).2.trans (congrArg _ heq), fun w => ?_⟩
  rw [← hms.unitState_eq, ← hms.on_eq]
  match w with
  | 0 =>
    rw [State.unitState_retest_other _ (by decide)]
    exact State.unitState_retest_same hst 0
  | 1 =>
    rw [Fin.val_one, State.unitState_retest_same (by rw [State.retest_slu, hst]) 1, State.unitState_retest_other _ (by decide),
      (State.retest_frame _ _).on_eq]

/-! ### The units' rows (R177, R180) -/

theorem sluiceRetestTimer_begins {u : Fin 2} {s : State} (hfailed : s.unitState u = 4) (hstarted : s.slu.started = true)
    (hon : s.on (48 + u) = true) (hms : s.rd F.SLU_CTL.RETEST_MS 0 ≠ 0) (htests : (s.sluUnit u).failedTests < 3) :
    Runs (.sluiceRetestTimer u) s (fun v => v.unitState u = 3 ∧ SameMemory s v) := by
  refine ⟨s.retest u, congrArg _ (if_neg (by omega)), ?_, (State.retest_frame s u).sameMemory (by decide +kernel)⟩
  rw [State.unitState_retest_same hstarted, if_pos ⟨hfailed, hon⟩]

theorem sluiceRetestTimer_held {u : Fin 2} {s : State} (htests : 3 ≤ (s.sluUnit u).failedTests) :
    Runs (.sluiceRetestTimer u) s (fun v => v = s) := ⟨s, congrArg _ (if_pos (.inr htests)), rfl⟩

theorem causeFld_fin (u : Fin 2) : (if u = 0 then F.SLU_FAIL_CAUSE.A_CAUSE else F.SLU_FAIL_CAUSE.B_CAUSE) = causeFld u := by
  unfold causeFld
  simp only [Fin.ext_iff, Fin.val_zero]

/-- An engine fault up to its consequences: FAULTED, with its record and its event (R206). -/
def State.engFaulted (s : State) (e cause uaddr : Nat) : State :=
  let s2 := (s.setEng e { s.eng e with run := none, busy := [], stop := false }).wr F.PE_STATUS.STATE e esFAULTED
  let s3 := if s.flag F.PE_FAULT.VALID e then s2
    else ((s2.wr F.PE_FAULT.CAUSE e cause).wr F.PE_FAULT.UADDR e uaddr).wr F.PE_FAULT.VALID e 1
  s3.peEvent e F.PE_EVENT.FAULT

/-- The registers written after the state of a faulted engine. -/
def faultMask : Nat :=
  W.peEvent ||| maskFields [F.PE_FAULT.CAUSE, F.PE_FAULT.UADDR, F.PE_FAULT.VALID, F.PE_EVENT.FAULT]

theorem State.engFaulted_frame (s : State) (e cause uaddr : Nat) :
    Frame faultMask ((s.setEng e { s.eng e with run := none, busy := [], stop := false }).wr F.PE_STATUS.STATE e esFAULTED)
      (s.engFaulted e cause uaddr) := by
  refine Frame.peEvent ?_ (by decide +kernel) (by decide +kernel)
  split
  · exact Frame.refl _ _
  · exact ((Frame.wr (Frame.refl _ _) (by decide +kernel)).wr (by decide +kernel)).wr (by decide +kernel)

theorem State.unitState_engFaulted (s : State) (e cause uaddr u : Nat) :
    (s.engFaulted e cause uaddr).unitState u = s.unitState u := by
  rw [(s.engFaulted_frame e cause uaddr).unitState_eq]
  unfold State.unitState
  rw [State.rd_wr_fld _ _ (by decide), State.rd_wr_fld _ _ (by decide)]
  rfl

theorem State.est_engFaulted (s : State) (e cause uaddr : Nat) : (s.engFaulted e cause uaddr).est e = esFAULTED :=
  ((s.engFaulted_frame e cause uaddr).rd_eq _ _).trans (State.rd_cutoff _ _ _ _ (by decide))

/-- A fault of one of a unit's engines fails the unit (R177, R206). -/
theorem State.engFault_sluice (s : State) {e u : Nat} (he : 48 ≤ e) (hu : (e - 48) / 8 = u) (cause uaddr : Nat) :
    s.engFault e cause uaddr = (s.engFaulted e cause uaddr).unitFail u
      (if s.unitState u = 3 then 4 else if cause = 1 ∨ cause = 8 then 1 else 2) := by
  rw [← s.unitState_engFaulted e cause uaddr u, ← hu]
  exact if_neg (by omega)

theorem sluiceUnitFault_engine {u : Fin 2} {n : Fin 8} {cause : Fin 16} {s : State} (hon : s.on (48 + u) = true)
    (hfailed : s.unitState u ≠ 4) :
    Runs (.sluiceUnitFault u (some (n, cause))) s (fun v => v.unitState u = 4 ∧ v.est (48 + 8 * u + n) = esFAULTED ∧
      v.flag F.SLU_EVENT.UNIT_FAILED 0 = true ∧
      v.rd (if u = 0 then F.SLU_FAIL_CAUSE.A_CAUSE else F.SLU_FAIL_CAUSE.B_CAUSE) 0 =
        (if s.unitState u = 3 then 4 else if cause = 1 ∨ cause = 8 then 1 else 2) ∧
      (s.unitState u = 0 → s.unitState (1 - u.val) = 1 → v.unitState (1 - u.val) = 0 ∧
        v.flag F.SLU_EVENT.SWITCHOVER 0 = true)) := by
  have hexec : ∃ uaddr, exec (.sluiceUnitFault u (some (n, cause))) s = .next (s.engFault (48 + 8 * u + n) cause uaddr) :=
    ⟨_, congrArg _ (if_pos hon)⟩
  obtain ⟨uaddr, hexec⟩ := hexec
  rw [s.engFault_sluice (u := u) (by omega) (by omega)] at hexec
  have hunits := s.unitState_engFaulted (48 + 8 * u + n) cause uaddr
  have hest := s.est_engFaulted (48 + 8 * u + n) cause uaddr
  generalize s.engFaulted (48 + 8 * u + n) cause uaddr = s4 at hexec hunits hest
  have hcode : (if s.unitState u = 3 then 4 else if cause.val = 1 ∨ cause.val = 8 then 1 else 2) < 16 := by
    repeat' split
    all_goals decide
  obtain ⟨hcause, hflag⟩ := s4.unitFail_reports u _ (by rwa [hunits]) hcode
  refine ⟨_, hexec, State.unitState_unitFail_same _ _ _, ((State.unitFail_frame _ _ _).rd_eq _ _).trans hest, hflag, ?_,
    fun hactive hhot => State.unitFail_handsOver _ (by rw [hunits, hactive]) (by rw [hunits, hhot])⟩
  rw [causeFld_fin, hcause]
  simp only [Fin.ext_iff]
  rfl

theorem sluiceUnitFault_domain (u : Fin 2) (s : State) :
    Runs (.sluiceUnitFault u none) s (fun v => v.unitState u = 4 ∧ (v.sluUnit u).heldRetest = true ∧
      v.rd (if u = 0 then F.SLU_FAIL_CAUSE.A_CAUSE else F.SLU_FAIL_CAUSE.B_CAUSE) 0 = 5) := by
  have hstate : (s.sluDomainLeft u).unitState u = (s.unitFail u 5).unitState u := by
    change ((s.unitFail u 5).wr (causeFld u) 0 5).unitState u = _
    unfold State.unitState causeFld
    split <;> rw [State.rd_wr_fld _ _ (by decide)]
  refine ⟨s.sluDomainLeft u, rfl, ?_, ?_, ?_⟩
  · rw [hstate, State.unitState_unitFail_same]
  · exact congrArg SluUnit.heldRetest (State.setSluUnit_sluUnit_same _ _ _)
  · rw [causeFld_fin]
    exact State.rd_cutoff (s.unitFail u 5) (causeFld u) 0 5 (by rw [causeFld_width]; decide)

theorem State.endTest_frame (s : State) (u : Nat) (pass : Bool) : Frame W.endTest s (s.endTest u pass) :=
  Frame.endTest (Frame.refl _ s) (Nat.and_self _)

theorem State.unitState_enterResync (s : State) (u : Nat) (passed : Bool) : (s.enterResync u passed).unitState u = 2 :=
  State.unitState_setUnit_same _ _ (by decide)

theorem sluiceSelfTestDone_failed {u : Fin 2} {s : State} (htesting : s.unitState u = 3) :
    Runs (.sluiceSelfTestDone u false) s (fun v => v.unitState u = 4 ∧
      v.rd (if u = 0 then F.SLU_FAIL_CAUSE.A_CAUSE else F.SLU_FAIL_CAUSE.B_CAUSE) 0 = 4) := by
  have hstate : (s.endTest u false).unitState u ≠ 4 := by
    rw [(s.endTest_frame u false).unitState_eq, htesting]
    decide
  refine ⟨(s.endTest u false).unitFail u 4, congrArg _ (if_neg (not_not_intro htesting)), State.unitState_unitFail_same _ _ _, ?_⟩
  rw [causeFld_fin]
  exact (State.unitFail_reports _ _ _ hstate (by decide)).1

/-- A unit whose self-test has passed, before its next state (R177). -/
def State.testPassed (s : State) (u : Nat) : State :=
  (s.endTest u true).setSluUnit u { (s.endTest u true).sluUnit u with failedTests := 0 }

/-- Beside an ACTIVE unit it enters RESYNC, and alone it becomes ACTIVE. -/
theorem execSluiceSelfTestDone_passed {u : Fin 2} {s : State} (htesting : s.unitState u = 3) :
    exec (.sluiceSelfTestDone u true) s =
      .next (if (s.testPassed u).activeUnit.isSome then (s.testPassed u).enterResync u true
        else (((s.testPassed u).freshUnit u).wr F.SLU_EVENT.NO_SCHEDULER 0 0).setUnit u 0) := by
  change execSluiceSelfTestDone u true s = _
  simp only [execSluiceSelfTestDone, htesting, ne_eq, not_true_eq_false, if_false, Bool.not_true, Bool.false_eq_true]
  rfl

theorem State.activeUnit_testPassed (s : State) (u : Nat) : (s.testPassed u).activeUnit = s.activeUnit :=
  Frame.activeUnit_eq (M := W.endTest) (Frame.setSluUnit (s.endTest_frame u true) (by decide +kernel))

theorem sluiceSelfTestDone_resync {u : Fin 2} {s : State} (htesting : s.unitState u = 3) (hactive : s.activeUnit.isSome = true) :
    Runs (.sluiceSelfTestDone u true) s (fun v => v.unitState u = 2) := by
  have hexec := execSluiceSelfTestDone_passed htesting
  rw [State.activeUnit_testPassed, if_pos hactive] at hexec
  exact ⟨_, hexec, State.unitState_enterResync _ _ _⟩

theorem sluiceSelfTestDone_active {u : Fin 2} {s : State} (htesting : s.unitState u = 3) (hnone : s.activeUnit = none) :
    Runs (.sluiceSelfTestDone u true) s (fun v => v.unitState u = 0 ∧ v.rd F.SLU_EVENT.NO_SCHEDULER 0 = 0) := by
  have hexec := execSluiceSelfTestDone_passed htesting
  rw [State.activeUnit_testPassed, hnone, if_neg (by decide)] at hexec
  refine ⟨_, hexec, State.unitState_setUnit_same _ _ (by decide), ?_⟩
  exact ((State.setUnit_frame _ _ _).rd_eq _ _).trans (State.rd_cutoff _ _ _ _ (by decide))

theorem sluiceHot_runs {u : Fin 2} {s : State} {f : Int} (hresync : s.unitState u = 2) (hclean : (s.sluUnit u).cleanFrom = some f)
    (hdue : (f + 64) * frameTicks ≤ s.tide) :
    Runs (.sluiceHot u) s (fun v => v.unitState u = 1 ∧ v.flag F.SLU_EVENT.HOT 0 = true ∧ SameMemory s v) := by
  have hclean' : (s.sluUnit u).cleanFrom.any (fun f => decide ((f + 64) * frameTicks ≤ s.tide)) = true := by
    simpa [hclean] using hdue
  refine ⟨((s.putSlu { s.slu with untilHot := false }).setUnit u 1).sluEvent F.SLU_EVENT.HOT,
    congrArg _ (if_pos ⟨hresync, hclean'⟩), ?_, State.flag_sluEvent _ _, ?_⟩
  · rw [(State.sluEvent_frame _ F.SLU_EVENT.HOT).unitState_eq, State.unitState_setUnit_same _ _ (by decide)]
  · exact SameMemory.trans (t := (s.putSlu { s.slu with untilHot := false }).setUnit u 1)
      ((State.setUnit_frame _ _ _).sameMemory (by decide +kernel))
      ((State.sluEvent_frame _ F.SLU_EVENT.HOT).sameMemory (by decide +kernel))

/-! ### Forecast records (R172) -/

/-- The key under which the units install a forecast record. -/
def forecastKey (b : List Byte) : Key := (byteAt b 0 * 4096 + leAt b 2 2, leAt b 8 8)

/-- One unit takes an accepted record, where it hears the record's tree. -/
def State.hearForecast (s : State) (b : List Byte) (u : Nat) : State :=
  if !s.unitHears u (byteAt b 0) then s
  else
    if bit (byteAt b 1) 0 then
      s.setSluUnit u { s.sluUnit u with forecasts := smDel (s.sluUnit u).forecasts (forecastKey b) }
    else
      (s.setSluUnit u { s.sluUnit u with forecasts := smPut (s.sluUnit u).forecasts (forecastKey b) (leAt b 4 4) }).blockEvent
        (96 + u) 0x06 1

theorem State.applyForecast_eq (s : State) (b : List Byte) :
    s.applyForecast b = ((s.hearForecast b 0).hearForecast b 1).countForecasts := rfl

theorem State.unitHears_congr {s t : State} {u : Nat} (hstate : t.unitState u = s.unitState u) (htrees : t.sluTrees = s.sluTrees)
    (k : Nat) : t.unitHears u k = s.unitHears u k := by
  unfold State.unitHears State.sluTree
  rw [hstate, htrees]

section
variable (s : State) (b : List Byte) (u : Nat)

theorem State.hearForecast_frame : Frame W.blockEvent s (s.hearForecast b u) := by
  unfold State.hearForecast
  repeat' split
  · exact Frame.refl _ s
  · exact Frame.setSluUnit (Frame.refl _ s) (by decide +kernel)
  · exact Frame.blockEvent (Frame.setSluUnit (Frame.refl _ s) (by decide +kernel)) (Nat.and_self _)

theorem State.hearForecast_sluTrees : (s.hearForecast b u).sluTrees = s.sluTrees := by
  unfold State.hearForecast
  repeat' split
  · rfl
  · rfl
  · exact (HostSide.refl _).blockEvent.sluTrees

theorem State.hearForecast_other {v : Nat} (h : u ≠ v) : (s.hearForecast b u).sluUnit v = s.sluUnit v := by
  unfold State.hearForecast
  repeat' split
  · rfl
  · exact State.setSluUnit_sluUnit_other _ _ h
  · rw [(HostSide.refl _).blockEvent.sluUnit, State.setSluUnit_sluUnit_other _ _ h]

variable {s b u}

theorem State.hearForecast_same (h : s.unitHears u (byteAt b 0) = true) :
    smFind ((s.hearForecast b u).sluUnit u).forecasts (forecastKey b) =
      if bit (byteAt b 1) 0 then none else some (leAt b 4 4) := by
  unfold State.hearForecast
  rw [h]
  simp only [Bool.not_true, Bool.false_eq_true, if_false]
  split
  · rw [State.setSluUnit_sluUnit_same, smFind_smDel_same]
  · rw [(HostSide.refl _).blockEvent.sluUnit, State.setSluUnit_sluUnit_same, smFind_smPut_same]

/-- An accepted record stands, or is gone, in each unit that hears its tree. -/
theorem State.applyForecast_heard (v : Fin 2) (h : s.unitHears v (byteAt b 0) = true) :
    smFind ((s.applyForecast b).sluUnit v).forecasts (forecastKey b) =
      if bit (byteAt b 1) 0 then none else some (leAt b 4 4) := by
  rw [State.applyForecast_eq]
  change smFind (((s.hearForecast b 0).hearForecast b 1).sluUnit v).forecasts (forecastKey b) = _
  match v with
  | 0 => rw [State.hearForecast_other _ _ _ (by decide)]; exact State.hearForecast_same h
  | 1 =>
    refine State.hearForecast_same ?_
    rw [State.unitHears_congr ((s.hearForecast_frame b 0).unitState_eq 1) (s.hearForecast_sluTrees b 0)]
    exact h

end

/-- A FORECAST entry that is taken, and completed with its outcome (R293). -/
theorem execForecastRecord_taken {ring : RingId} {s : State} {i : Nat} {b : List Byte} (htyp : (s.ring ring).typ = 3)
    (hon : s.on 53 = true) (hnext : s.nextEntry ring = some i) (hread : (s.ring ring).badRead = false)
    (hb : b = s.hostRead (s.entryAddr ring i) 32) (hown : bit (byteAt b 31) 7 = true) :
    exec (.forecastRecord ring) s =
      .next (((if s.forecastOutcome b = 0 then (s.blockEvent 101 0x01 1).applyForecast b
        else s.blockEvent 101 0x01 1).advanceHead ring).writeCompletion ring i
          (slice b 0 16 ++ leBytes 1 (s.forecastOutcome b) ++ zeros 14 ++ [0x40#8]) false) := by
  subst hb
  change execForecastRecord ring s = _
  simp only [execForecastRecord, htyp, hon, hnext, hread, hown, ne_eq, not_true_eq_false, Bool.not_true, Bool.false_eq_true,
    or_self, if_false]

theorem forecastRecord_accepted {ring : RingId} {s : State} {i : Nat} {b : List Byte} (htyp : (s.ring ring).typ = 3)
    (hon : s.on 53 = true) (hnext : s.nextEntry ring = some i) (hread : (s.ring ring).badRead = false)
    (hb : b = s.hostRead (s.entryAddr ring i) 32) (hown : bit (byteAt b 31) 7 = true) (hcode : s.forecastOutcome b = 0) :
    Runs (.forecastRecord ring) s (fun u => ∀ v : Fin 2, s.unitHears v (byteAt b 0) = true →
      smFind (u.sluUnit v).forecasts (forecastKey b) = (if bit (byteAt b 1) 0 then none else some (leAt b 4 4))) := by
  have hexec := execForecastRecord_taken htyp hon hnext hread hb hown
  rw [if_pos hcode] at hexec
  refine ⟨_, hexec, fun v hv => ?_⟩
  rw [(HostSide.refl ((s.blockEvent 101 0x01 1).applyForecast b)).advanceHead.writeCompletion.sluUnit]
  refine State.applyForecast_heard v ?_
  rwa [State.unitHears_congr ((State.blockEvent_frame _ _ _ _).unitState_eq v) (HostSide.refl s).blockEvent.sluTrees]

theorem forecastRecord_refused {ring : RingId} {s : State} {i : Nat} {b : List Byte} (htyp : (s.ring ring).typ = 3)
    (hon : s.on 53 = true) (hnext : s.nextEntry ring = some i) (hread : (s.ring ring).badRead = false)
    (hb : b = s.hostRead (s.entryAddr ring i) 32) (hown : bit (byteAt b 31) 7 = true) (hcode : s.forecastOutcome b ≠ 0) :
    Runs (.forecastRecord ring) s (fun u => u.sluUnits = s.sluUnits) := by
  have hexec := execForecastRecord_taken htyp hon hnext hread hb hown
  rw [if_neg hcode] at hexec
  exact ⟨_, hexec, (HostSide.refl s).blockEvent.advanceHead.writeCompletion.sluUnits⟩

/-! ### Building maps (R155) -/

@[simp] theorem State.setSluTree_sluTree_same (s : State) (u t : Nat) (x : SluTree) : (s.setSluTree u t x).sluTree u t = x := by
  simp [State.sluTree, State.setSluTree]

theorem State.setSluTree_sluTree_other (s : State) {u v t : Nat} (x : SluTree) (h : u ≠ v) :
    (s.setSluTree u t x).sluTree v t = s.sluTree v t :=
  smGet_smSet_other _ _ _ _ fun e => h (Prod.mk.inj e).1

theorem State.sluTree_congr {s v : State} (h : v.sluTrees = s.sluTrees) (u k : Nat) : v.sluTree u k = s.sluTree u k :=
  congrArg (smGet SluTree.reset · (u, k)) h

/-- A copy that completes brings no map. -/
theorem State.built_finishCopy {s : State} {u t v : Nat} {m : BwMap} (h : ((s.finishCopy u t).sluTree v t).built = some m) :
    (s.sluTree v t).built = some m := by
  unfold State.finishCopy at h
  split at h
  · exact h
  · split at h
    · exact h
    · rename_i a _
      by_cases hv : u = v
      · subst hv
        have hnone : ((s.setSluTree u t { s.sluTree a t with copy := 2, built := none }).sluTree u t).built = none := by
          rw [State.setSluTree_sluTree_same]
        dsimp only at h
        split at h
        · exact absurd (hnone.symm.trans h) (by simp)
        · exact absurd (hnone.symm.trans h) (by simp)
      · have hother := s.setSluTree_sluTree_other (t := t) { s.sluTree a t with copy := 2, built := none } hv
        dsimp only at h
        split at h
        · exact (congrArg SluTree.built hother).symm.trans h
        · exact (congrArg SluTree.built hother).symm.trans h

/-- The map a unit builds: its own, or, where it is faulty, the one of its row (R155; log entry 60). -/
def State.unitMap (s : State) (t : Nat) (fr : Int) (wrong : List (Fin 2 × List Grant)) (u : Nat) : BwMap :=
  match wrong.find? (fun w => w.1.val == u) with
  | some w => ⟨fr, w.2⟩
  | none => (s.compose u t fr).map

theorem State.unitMap_f (s : State) (t : Nat) (fr : Int) (wrong : List (Fin 2 × List Grant)) (u : Nat) :
    (s.unitMap t fr wrong u).f = fr := by
  unfold State.unitMap
  split <;> rfl

theorem State.unitMap_wrong (s : State) (t : Nat) (fr : Int) {wrong : List (Fin 2 × List Grant)} {u : Nat}
    {w : Fin 2 × List Grant} (h : wrong.find? (fun w => w.1.val == u) = some w) : (s.unitMap t fr wrong u).grants = w.2 := by
  unfold State.unitMap
  rw [h]

section
variable (s : State) (t : Nat) (fr : Int) (wrong : List (Fin 2 × List Grant)) (u : Nat)

theorem State.buildUnit_frame : Frame W.buildUnit s (s.buildUnit t fr wrong u) :=
  Frame.buildUnit (Frame.refl _ s) (Nat.and_self _)

/-- The unit's data of the tree once it has built its map. -/
def State.unitTree : SluTree :=
  let b := s.compose u t fr
  let m := s.unitMap t fr wrong u
  SluTree.aged { s.sluTree u t with acct := b.acct, pos6 := b.pos6, pos7 := b.pos7, firstTerm := b.firstTerm, built := some m,
                                    ok := s.mapOk t m, cutTo512 := b.cutTo512 }
    (s.allocsOf t) ((s.termsOf t).map (fun e => e.1)) m.grants

/-- Of the units' data of trees a build changes only its own of the tree. -/
theorem State.buildUnit_sluTrees (h : s.unitBuilds u t = true) :
    (s.buildUnit t fr wrong u).sluTrees = (s.setSluTree u t (s.unitTree t fr wrong u)).sluTrees := by
  unfold State.buildUnit
  rw [h]
  simp only [Bool.not_true, Bool.false_eq_true, if_false]
  have hcounts : ∀ v : State, HostSide v ((((v.blockEvent (96 + u) 0x02 (s.unitMap t fr wrong u).grants.length).blockEvent (96 + u) 0x03
      (s.compose u t fr).bursts.length).blockEvent (96 + u) 0x04 (s.compose u t fr).cut).blockEvent (96 + u) 0x05
      (s.compose u t fr).cutTo512) := fun v => (HostSide.refl v).blockEvent.blockEvent.blockEvent.blockEvent
  split
  · exact (hcounts _).sluTrees
  · split
    · exact ((hcounts _).wr.ofEvent (EventOnly.refl _).sluEvent).forecastsLost.sluTrees
    · exact (hcounts _).forecastsLost.sluTrees

variable {s u}

theorem State.built_buildUnit (h : s.unitBuilds u t = true) :
    ((s.buildUnit t fr wrong u).sluTree u t).built = some (s.unitMap t fr wrong u) := by
  rw [State.sluTree_congr (s.buildUnit_sluTrees t fr wrong u h), State.setSluTree_sluTree_same]
  rfl

theorem State.sluTree_buildUnit_other {v : Nat} (hv : u ≠ v) : (s.buildUnit t fr wrong u).sluTree v t = s.sluTree v t := by
  cases h : s.unitBuilds u t with
  | true => rw [State.sluTree_congr (s.buildUnit_sluTrees t fr wrong u h), State.setSluTree_sluTree_other _ _ hv]
  | false =>
    have hnone : s.buildUnit t fr wrong u = s := by
      unfold State.buildUnit
      rw [h]
      rfl
    rw [hnone]

/-- An ACTIVE or HOT unit whose domain is ON builds. -/
theorem State.unitBuilds_of_le (hon : s.on (48 + u) = true) (hstate : s.unitState u ≤ 1) : s.unitBuilds u t = true := by
  unfold State.unitBuilds
  rw [hon]
  rcases Nat.le_one_iff_eq_zero_or_eq_one.1 hstate with h | h <;> simp [h]

/-- A frame that spares the unit's state and its domain lets it build. -/
theorem Frame.unitBuilds {M : Nat} {s v : State} (h : Frame M s v) (hon : s.on (48 + u) = true) (hstate : s.unitState u ≤ 1)
    (hA : M.testBit F.SLU_STATUS.A_STATE.num = false := by decide +kernel)
    (hB : M.testBit F.SLU_STATUS.B_STATE.num = false := by decide +kernel)
    (hP : M.testBit F.PWR_Dd_STATE.STATE.num = false := by decide +kernel) : v.unitBuilds u t = true :=
  State.unitBuilds_of_le t (by rwa [h.on_eq _ hP]) (by rwa [h.unitState_eq _ hA hB])

end

theorem State.countForecasts_sluTree (s : State) (u k : Nat) : s.countForecasts.sluTree u k = s.sluTree u k := rfl

/-- The state in which the units build: copies that end with the cutoff are complete and the quiet window is decided. -/
def State.atCutoff (s : State) (t : Nat) : State := ((s.finishCopy 0 t).finishCopy 1 t).quietStep t (s.cutFrame t)

theorem State.atCutoff_frame (s : State) (t : Nat) : Frame W.buildUnit s (s.atCutoff t) :=
  Frame.quietStep (Frame.finishCopy (Frame.finishCopy (Frame.refl _ s) (by decide +kernel)) (by decide +kernel)) (by decide +kernel)

theorem execMapBuild_active {t : TreeId} {s : State} (hactive : s.tstate t = trACTIVE)
    (hbuilt : ∀ (v : Fin 2) (m : BwMap), (s.sluTree v t).built = some m → m.f < s.cutFrame t)
    (wrong : List (Fin 2 × List Grant)) :
    exec (.mapBuild t wrong) s = .next (((s.atCutoff t).buildUnit t (s.cutFrame t) wrong 0).buildUnit t (s.cutFrame t) wrong
      1).countForecasts := by
  have hcopied : ∀ v : Fin 2, (((s.finishCopy 0 t).finishCopy 1 t).sluTree v t).built.any
      (fun m => decide (m.f ≥ s.cutFrame t)) = false := by
    intro v
    rw [Option.any_eq_false]
    intro m hm
    have := hbuilt v m (State.built_finishCopy (State.built_finishCopy hm))
    simpa using this
  have hnone : [0, 1].any (fun u => (((s.finishCopy 0 t).finishCopy 1 t).sluTree u t).built.any
      (fun m => decide (m.f ≥ s.cutFrame t))) = false := by
    simpa using ⟨hcopied 0, hcopied 1⟩
  change execMapBuild t wrong s = _
  simp only [execMapBuild, State.atCutoff, List.foldl_cons, List.foldl_nil, hnone, hactive, true_or, if_true, Bool.false_eq_true,
    if_false]

/-- When both units have had their turn, each that may build holds its map. -/
theorem State.built_buildBoth {s : State} {u t : Nat} (fr : Int) (wrong : List (Fin 2 × List Grant)) (hu : u < 2)
    (hon : s.on (48 + u) = true) (hstate : s.unitState u ≤ 1) :
    ∃ v : State, (((s.buildUnit t fr wrong 0).buildUnit t fr wrong 1).sluTree u t).built = some (v.unitMap t fr wrong u) := by
  match u, hu with
  | 0, _ =>
    refine ⟨s, ?_⟩
    rw [State.sluTree_buildUnit_other _ _ _ (by decide), State.built_buildUnit _ _ _ (State.unitBuilds_of_le t hon hstate)]
  | 1, _ => exact ⟨_, State.built_buildUnit _ _ _ ((s.buildUnit_frame t fr wrong 0).unitBuilds t hon hstate)⟩

theorem mapBuild_runs {t : TreeId} {wrong : List (Fin 2 × List Grant)} {u : Fin 2} {s : State} (hactive : s.tstate t = trACTIVE)
    (hon : s.on (48 + u) = true) (hstate : s.unitState u ≤ 1)
    (hbuilt : ∀ (v : Fin 2) (m : BwMap), (s.sluTree v t).built = some m → m.f < s.cutFrame t) :
    Runs (.mapBuild t wrong) s (fun v => ∃ m, (v.sluTree u t).built = some m ∧ m.f = s.cutFrame t ∧
      ∀ w, wrong.find? (fun w => w.1.val == u.val) = some w → m.grants = w.2) := by
  have hcut := s.atCutoff_frame t
  obtain ⟨v, hv⟩ := State.built_buildBoth (s := s.atCutoff t) (s.cutFrame t) wrong u.isLt
    (by rwa [hcut.on_eq]) (by rwa [hcut.unitState_eq])
  exact ⟨_, execMapBuild_active hactive hbuilt wrong, _,
    (congrArg SluTree.built (State.countForecasts_sluTree _ _ _)).trans hv, State.unitMap_f _ _ _ _ _,
    fun w hw => State.unitMap_wrong _ _ _ hw⟩

/-! ### Releasing maps (R169, R174) -/

theorem Frame.mapCrc_eq {M : Nat} {s t : State} (h : Frame M s t) (k : Nat) (l : List Grant)
    (hf : M.testBit F.TRE_STATE.PROFILE.num = false := by decide +kernel) : t.mapCrc k l = s.mapCrc k l := by
  unfold State.mapCrc State.mapBytes
  rw [h.f50_eq _ hf]

/-- The copies of a tree that are to come begin at the release of its map (R178). -/
def State.startCopies (s : State) (t : Nat) : State :=
  [0, 1].foldl (fun s u =>
    if s.unitState u = 2 ∧ (s.sluTree u t).copy = 0 ∧ s.activeUnit.isSome then s.setSluTree u t { s.sluTree u t with copy := 1 }
    else s) s

theorem State.startCopies_frame (s : State) (t : Nat) : Frame W.setSluTree s (s.startCopies t) := by
  refine Frame.foldl (Frame.refl _ s) fun v hv u _ => ?_
  split
  · exact Frame.setSluTree hv (Nat.and_self _)
  · exact hv

theorem State.startCopies_side (s : State) (t : Nat) : UnitSide s (s.startCopies t) := by
  refine (UnitSide.refl s).foldl fun v hv u => ?_
  split
  · exact hv.setSluTree
  · exact hv

/-- No register changes as they begin, nor any tree. -/
@[simp] theorem State.startCopies_rd (s : State) (t : Nat) (f : Fld) (i : Nat) : (s.startCopies t).rd f i = s.rd f i :=
  (s.startCopies_frame t).rd_eq f i (Nat.zero_testBit _)

@[simp] theorem State.startCopies_flag (s : State) (t : Nat) (f : Fld) (i : Nat) : (s.startCopies t).flag f i = s.flag f i :=
  (s.startCopies_frame t).flag_eq f i (Nat.zero_testBit _)

@[simp] theorem State.startCopies_unitState (s : State) (t u : Nat) : (s.startCopies t).unitState u = s.unitState u :=
  (s.startCopies_frame t).unitState_eq u

@[simp] theorem State.startCopies_tree (s : State) (t k : Nat) : (s.startCopies t).tree k = s.tree k :=
  (s.startCopies_side t).tree k

/-- A tree may take the map of a frame: it is ACTIVE and no map of that frame or a later one is latched. -/
structure Takes (s : State) (t : Nat) (m : BwMap) : Prop where
  running : s.tstate t = trACTIVE
  latched : ∀ l, (s.tree t).latched = some l → l.f < m.f

theorem Takes.congr {s v : State} {t : Nat} {m : BwMap} (h : Takes s t m) (hstate : v.tstate t = s.tstate t)
    (htree : v.tree t = s.tree t) : Takes v t m := ⟨hstate.trans h.running, by rw [htree]; exact h.latched⟩

/-- The registers and the tree of a released map, before the units and the partner hear of it. -/
def State.mapWritten (s : State) (t : Nat) (m : BwMap) : State :=
  (((s.setTree t { s.tree t with relMap := some m }).wr F.SLU_TREE_MAP.GRANTS t m.grants.length).wr F.SLU_TREE_MAP.IDLE_UNITS t
    ((s.setTree t { s.tree t with relMap := some m }).idleUnits t m)).wr F.SLU_TREE_CRC.CRC t (s.mapCrc t m.grants)

theorem any_ge_eq_false {x : Option BwMap} {f : Int} (h : ∀ m, x = some m → m.f < f) :
    x.any (fun m => decide (m.f ≥ f)) = false := by
  rw [Option.any_eq_false]
  intro m hm
  simpa using h m hm

section
variable {s : State} {t : Nat} {m : BwMap} (h : Takes s t m)
include h

theorem Takes.releaseMap_eq (u : Nat) : ∃ f : SluTree → SluTree, s.releaseMap u t m =
    (((s.mapWritten t m).postSlu t f).blockEvent (96 + u) 0x01 1).sendDigest t m.f m.grants (s.mapCrc t m.grants) 0 := by
  have hl := any_ge_eq_false h.latched
  exact ⟨_, if_neg (not_or.2 ⟨by rw [hl]; decide, not_not_intro h.running⟩)⟩

theorem Takes.relMap_releaseMap (u : Nat) : ((s.releaseMap u t m).tree t).relMap = some m := by
  obtain ⟨f, hf⟩ := h.releaseMap_eq u
  rw [hf, ((HostSide.refl _).blockEvent.sendDigest).tree, ((UnitSide.refl _).postSlu).tree]
  exact congrArg Tree.relMap (State.setTree_tree_same s t { s.tree t with relMap := some m })

/-- The registers of a released map (R185). -/
theorem Takes.rd_releaseMap (u : Nat) :
    (s.releaseMap u t m).rd F.SLU_TREE_MAP.GRANTS t = m.grants.length % 2 ^ F.SLU_TREE_MAP.GRANTS.w ∧
    (s.releaseMap u t m).rd F.SLU_TREE_CRC.CRC t = s.mapCrc t m.grants % 2 ^ F.SLU_TREE_CRC.CRC.w := by
  obtain ⟨f, hf⟩ := h.releaseMap_eq u
  have hframe : Frame (W.blockEvent ||| W.sendDigest) (s.mapWritten t m) (s.releaseMap u t m) := by
    rw [hf]
    exact Frame.sendDigest (Frame.blockEvent (Frame.postSlu (Frame.refl _ _) (by decide +kernel)) (by decide +kernel))
      (by decide +kernel)
  rw [hframe.rd_eq F.SLU_TREE_MAP.GRANTS, hframe.rd_eq F.SLU_TREE_CRC.CRC]
  refine ⟨?_, State.rd_wr_same _ _ _ _⟩
  unfold State.mapWritten
  rw [State.rd_wr_fld _ _ (by decide), State.rd_wr_fld _ _ (by decide), State.rd_wr_same]

end

theorem State.releaseMap_frame (s : State) (u t : Nat) (m : BwMap) : Frame W.releaseMap s (s.releaseMap u t m) :=
  Frame.releaseMap (Frame.refl _ s) (Nat.and_self _)

/-! ### What a release compares (R174, R175) -/

/-- The ACTIVE unit `a` has built the map of the frame whose cutoff was the last, and nothing keeps it from its tree. -/
structure Releases (s : State) (a t : Nat) (m : BwMap) : Prop extends Takes s t m where
  active : s.activeUnit = some a
  built : (s.sluTree a t).built = some m
  frame : m.f = s.cutFrame t
  free : s.heldBack t m.f = false
  released : ∀ r, (s.tree t).relMap = some r → r.f < m.f

/-- A release that compares no maps is counted, and is an event where the last one did (R175). -/
def State.unchecked (s : State) : State :=
  let s1 := s.incSat F.SLU_UNCHECKED.COUNT 0 1
  if s.slu.compared then (s1.putSlu { s1.slu with compared := false }).sluEvent F.SLU_EVENT.UNCHECKED else s1

/-- A release that compares the units' maps is counted in both. -/
def State.comparing (s : State) : State :=
  ((s.putSlu { s.slu with compared := true }).blockEvent 96 0x07 1).blockEvent 97 0x07 1

section
variable {s : State} {a : Nat} {t : TreeId} {m : BwMap} (h : Releases s a t m)
include h

theorem Releases.exec_eq {other : Option BwMap}
    (hother : (if s.comparesMaps (1 - a) t then (s.sluTree (1 - a) t).built.filter (fun m => decide (m.f = s.cutFrame t))
      else none) = other) :
    exec (.mapRelease t) s = .next (State.startCopies (match other with
      | none => s.unchecked.releaseMap a t m
      | some m2 => if s.mapCrc t m.grants = s.mapCrc t m2.grants then s.comparing.mapsAgree a t m
        else s.comparing.mapsDiffer a t m) t) := by
  have hr := any_ge_eq_false h.released
  have hl := any_ge_eq_false h.latched
  have hheld := h.free
  rw [h.frame] at hr hl hheld
  have hmine : (some m).filter (fun m => decide (m.f = s.cutFrame t)) = some m := by simp [Option.filter, h.frame]
  change execMapRelease t s = _
  simp only [execMapRelease, h.active, h.built, hmine, hr, hl, h.running, hheld, hother, Bool.or_self, Bool.false_eq_true, ne_eq,
    not_true_eq_false, or_self, if_false]
  cases other <;> rfl

theorem Releases.exec_unchecked
    (hno : s.comparesMaps (1 - a) t = false ∨ ∀ m2, (s.sluTree (1 - a) t).built = some m2 → m2.f ≠ m.f) :
    exec (.mapRelease t) s = .next ((s.unchecked.releaseMap a t m).startCopies t) := by
  refine h.exec_eq (other := none) ?_
  rcases hno with hno | hno
  · rw [hno]
    rfl
  · have hnone : (s.sluTree (1 - a) t).built.filter (fun m => decide (m.f = s.cutFrame t)) = none := by
      rw [Option.filter_eq_none_iff]
      intro m2 hm2
      simpa [← h.frame] using hno m2 hm2
    rw [hnone, ite_self]

theorem Releases.exec_compared {m2 : BwMap} (hbuilt : (s.sluTree (1 - a) t).built = some m2) (hf : m2.f = m.f)
    (hcompares : s.comparesMaps (1 - a) t = true) :
    exec (.mapRelease t) s = .next ((if s.mapCrc t m.grants = s.mapCrc t m2.grants then s.comparing.mapsAgree a t m
      else s.comparing.mapsDiffer a t m).startCopies t) := by
  refine h.exec_eq (other := some m2) ?_
  rw [if_pos hcompares, hbuilt]
  simp [Option.filter, hf, h.frame]

end

/-! ### Releases without a comparison, and of maps that agree (R175) -/

/-- The registers a release without a comparison may write before the map's own. -/
def uncheckedMask : Nat := W.sluEvent ||| maskFields [F.SLU_UNCHECKED.COUNT, F.SLU_EVENT.UNCHECKED]

section
variable (s : State)

theorem State.unchecked_frame : Frame uncheckedMask s s.unchecked := by
  have hcount : Frame uncheckedMask s (s.incSat F.SLU_UNCHECKED.COUNT 0 1) := Frame.wr (Frame.refl _ s) (by decide +kernel)
  unfold State.unchecked
  dsimp only
  split
  · exact Frame.sluEvent (Frame.putSlu hcount (by decide +kernel)) (by decide +kernel) (by decide +kernel)
  · exact hcount

theorem State.unchecked_side : UnitSide s s.unchecked := by
  unfold State.unchecked
  dsimp only
  split
  · exact UnitSide.sluEvent (UnitSide.putSlu (UnitSide.wr (UnitSide.refl s)))
  · exact UnitSide.wr (UnitSide.refl s)

theorem State.rd_unchecked : s.unchecked.rd F.SLU_UNCHECKED.COUNT 0 =
    satAdd F.SLU_UNCHECKED.COUNT.w (s.rd F.SLU_UNCHECKED.COUNT 0) 1 % 2 ^ F.SLU_UNCHECKED.COUNT.w := by
  have hcount := s.rd_wr_same F.SLU_UNCHECKED.COUNT 0 (satAdd F.SLU_UNCHECKED.COUNT.w (s.rd F.SLU_UNCHECKED.COUNT 0) 1)
  unfold State.unchecked
  dsimp only
  split
  · exact ((State.sluEvent_frame _ F.SLU_EVENT.UNCHECKED).rd_eq _ _).trans hcount
  · exact hcount

theorem State.flag_unchecked (h : s.slu.compared = true) : s.unchecked.flag F.SLU_EVENT.UNCHECKED 0 = true := by
  unfold State.unchecked
  dsimp only
  rw [if_pos h]
  exact State.flag_sluEvent _ _

theorem State.comparing_frame : Frame W.blockEvent s s.comparing :=
  Frame.blockEvent (Frame.blockEvent (Frame.putSlu (Frame.refl _ s) (by decide +kernel)) (Nat.and_self _)) (Nat.and_self _)

theorem State.comparing_side : UnitSide s s.comparing := (UnitSide.refl s).putSlu.blockEvent.blockEvent

theorem State.comparing_sluTree (u k : Nat) : s.comparing.sluTree u k = s.sluTree u k :=
  State.sluTree_congr (HostSide.refl (s.putSlu { s.slu with compared := true })).blockEvent.blockEvent.sluTrees u k

end

/-- Maps that agree end the run of mismatches, and the ACTIVE unit's is released. -/
theorem Takes.mapsAgree {s : State} {t : Nat} {m : BwMap} (h : Takes s t m) (a : Nat) :
    ((s.mapsAgree a t m).tree t).relMap = some m ∧ (s.mapsAgree a t m).rd F.SLU_STATUS.MISMATCH_RUN 0 = 0 ∧
      (s.mapsAgree a t m).rd F.SLU_MISMATCH.COUNT 0 = s.rd F.SLU_MISMATCH.COUNT 0 := by
  unfold State.mapsAgree
  dsimp only
  generalize hv : (s.wr F.SLU_STATUS.MISMATCH_RUN 0 0).setSluUnit (1 - a)
    { (s.wr F.SLU_STATUS.MISMATCH_RUN 0 0).sluUnit (1 - a) with ownRun := 0 } = v
  have hside : UnitSide s v := hv ▸ (UnitSide.refl _).wr.setSluUnit
  have hframe : Frame (2 ^ F.SLU_STATUS.MISMATCH_RUN.num) s v :=
    hv ▸ Frame.setSluUnit (Frame.wr (Frame.refl _ _) (by decide +kernel)) (by decide +kernel)
  have hrun : v.rd F.SLU_STATUS.MISMATCH_RUN 0 = 0 := hv ▸ State.rd_wr_same s F.SLU_STATUS.MISMATCH_RUN 0 0
  have hrel := State.releaseMap_frame v a t m
  refine ⟨(h.congr (hframe.tstate_eq _) (hside.tree _)).relMap_releaseMap a, ?_, ?_⟩
  · rw [hrel.rd_eq F.SLU_STATUS.MISMATCH_RUN, hrun]
  · rw [hrel.rd_eq F.SLU_MISMATCH.COUNT, hframe.rd_eq F.SLU_MISMATCH.COUNT]

section
variable {s : State} {a : Nat} {t : TreeId} {m : BwMap} (h : Releases s a t m)
include h

theorem Releases.takes_comparing : Takes s.comparing t m :=
  h.toTakes.congr (s.comparing_frame.tstate_eq _) (s.comparing_side.tree _)

theorem Releases.unchecked_runs
    (hno : s.comparesMaps (1 - a) t = false ∨ ∀ m2, (s.sluTree (1 - a) t).built = some m2 → m2.f ≠ m.f) :
    Runs (.mapRelease t) s (fun u => (u.tree t).relMap = some m ∧
      u.rd F.SLU_UNCHECKED.COUNT 0 = satAdd F.SLU_UNCHECKED.COUNT.w (s.rd F.SLU_UNCHECKED.COUNT 0) 1 % 2 ^ F.SLU_UNCHECKED.COUNT.w ∧
      (s.slu.compared = true → u.flag F.SLU_EVENT.UNCHECKED 0 = true) ∧
      u.rd F.SLU_TREE_MAP.GRANTS t = m.grants.length % 2 ^ F.SLU_TREE_MAP.GRANTS.w ∧
      u.rd F.SLU_TREE_CRC.CRC t = s.mapCrc t m.grants % 2 ^ F.SLU_TREE_CRC.CRC.w) := by
  have htakes : Takes s.unchecked t m := h.toTakes.congr (s.unchecked_frame.tstate_eq _) (s.unchecked_side.tree _)
  obtain ⟨hgrants, hcrc⟩ := htakes.rd_releaseMap a
  have hrel := State.releaseMap_frame s.unchecked a t m
  refine ⟨_, h.exec_unchecked hno, ?_, ?_, fun hcompared => ?_, ?_, ?_⟩
  · rw [State.startCopies_tree, htakes.relMap_releaseMap]
  · rw [State.startCopies_rd, hrel.rd_eq F.SLU_UNCHECKED.COUNT, State.rd_unchecked]
  · rw [State.startCopies_flag, hrel.flag_eq F.SLU_EVENT.UNCHECKED, State.flag_unchecked _ hcompared]
  · rw [State.startCopies_rd, hgrants]
  · rw [State.startCopies_rd, hcrc, s.unchecked_frame.mapCrc_eq]

theorem Releases.agree_runs {m2 : BwMap} (hbuilt : (s.sluTree (1 - a) t).built = some m2) (hf : m2.f = m.f)
    (hcompares : s.comparesMaps (1 - a) t = true) (hcrc : s.mapCrc t m.grants = s.mapCrc t m2.grants) :
    Runs (.mapRelease t) s (fun u => (u.tree t).relMap = some m ∧ u.rd F.SLU_STATUS.MISMATCH_RUN 0 = 0 ∧
      u.rd F.SLU_MISMATCH.COUNT 0 = s.rd F.SLU_MISMATCH.COUNT 0) := by
  have hexec := h.exec_compared hbuilt hf hcompares
  rw [if_pos hcrc] at hexec
  obtain ⟨hrel, hrun, hcount⟩ := h.takes_comparing.mapsAgree a
  refine ⟨_, hexec, ?_, ?_, ?_⟩
  · rw [State.startCopies_tree, hrel]
  · rw [State.startCopies_rd, hrun]
  · rw [State.startCopies_rd, hcount, s.comparing_frame.rd_eq F.SLU_MISMATCH.COUNT]

end

/-! ### Maps that differ (R174) -/

/-- The mismatch is counted and reported. -/
def State.mismatched (s : State) : State := (s.incSat F.SLU_MISMATCH.COUNT 0 1).sluEvent F.SLU_EVENT.MISMATCH

/-- A unit whose map fails its self-check fails with cause 3 (R174, R177). -/
def State.failCheck (s : State) (u : Nat) : State := (s.sluEvent F.SLU_EVENT.SELFCHECK_FAIL).unitFail u 3

/-- The run of mismatches with this one. -/
def State.nextRun (s : State) : Nat := satAdd 8 (s.rd F.SLU_STATUS.MISMATCH_RUN 0) 1

/-- The run of mismatches of a unit in RESYNC with this one, which counts after a passed test (R179). -/
def State.nextOwnRun (s : State) (o : Nat) : Nat := if (s.sluUnit o).passed then (s.sluUnit o).ownRun + 1 else 0

/-- A RESYNC unit `o` differs from the ACTIVE unit `a` although both maps pass: at a run of four it takes over and `a` is tested
(R179). -/
def State.resyncDiffers (s : State) (tide : Int) (a o : Nat) : State :=
  let s2 := s.setSluUnit o { s.sluUnit o with
    ownRun := s.nextOwnRun o, cleanFrom := (s.sluUnit o).cleanFrom.map (fun _ => frameOf tide + 1) }
  if s.nextOwnRun o ≥ 4 then ((s2.putSlu { s2.slu with untilHot := true }).switchOver o).beginTest a else s2

/-- Both maps pass their self-checks: the ACTIVE unit's is released, and the other unit is tested after four mismatches. -/
def State.bothPass (s : State) (a t : Nat) (m : BwMap) : State :=
  let s1 := (s.mismatched.wr F.SLU_STATUS.MISMATCH_RUN 0 s.nextRun).releaseMap a t m
  if s.unitState (1 - a) = 1 then (if s.nextRun ≥ 4 then s1.beginTest (1 - a) else s1) else s1.resyncDiffers s.tide a (1 - a)

theorem State.mapsDiffer_eq (s : State) (a t : Nat) (m : BwMap) : s.mapsDiffer a t m =
    if (s.sluTree a t).ok ∧ (s.sluTree (1 - a) t).ok then s.bothPass a t m
    else if (s.sluTree a t).ok then (s.mismatched.releaseMap a t m).failCheck (1 - a)
    else if (s.sluTree (1 - a) t).ok then s.mismatched.failCheck a
    else (s.mismatched.failCheck (1 - a)).failCheck a := rfl

/-- The registers of a mismatch. -/
def mismatchMask : Nat := W.sluEvent ||| maskFields [F.SLU_MISMATCH.COUNT, F.SLU_EVENT.MISMATCH]

/-- The registers that what follows a mismatch may write. -/
def afterMismatchMask : Nat :=
  W.releaseMap ||| W.unitFail ||| W.beginTest ||| W.switchOver ||| maskFields [F.SLU_STATUS.MISMATCH_RUN, F.SLU_EVENT.SELFCHECK_FAIL]

section
variable (s : State)

theorem State.mismatched_frame : Frame mismatchMask s s.mismatched :=
  Frame.sluEvent (Frame.wr (Frame.refl _ s) (by decide +kernel)) (by decide +kernel) (by decide +kernel)

theorem State.mismatched_side : UnitSide s s.mismatched := UnitSide.sluEvent (UnitSide.wr (UnitSide.refl s))

theorem State.mismatched_reports : s.mismatched.flag F.SLU_EVENT.MISMATCH 0 = true ∧
    s.mismatched.rd F.SLU_MISMATCH.COUNT 0 =
      satAdd F.SLU_MISMATCH.COUNT.w (s.rd F.SLU_MISMATCH.COUNT 0) 1 % 2 ^ F.SLU_MISMATCH.COUNT.w :=
  ⟨State.flag_sluEvent _ _, ((State.sluEvent_frame _ F.SLU_EVENT.MISMATCH).rd_eq _ _).trans (State.rd_wr_same _ _ _ _)⟩

theorem State.failCheck_side (u : Nat) : UnitSide s (s.failCheck u) := (UnitSide.refl s).sluEvent.unitFail

theorem State.unitState_failCheck_same (u : Nat) : (s.failCheck u).unitState u = 4 := State.unitState_unitFail_same _ _ _

theorem State.flag_failCheck (u : Nat) : (s.failCheck u).flag F.SLU_EVENT.SELFCHECK_FAIL 0 = true :=
  ((State.unitFail_frame _ _ _).flag_eq _ _).trans (State.flag_sluEvent s F.SLU_EVENT.SELFCHECK_FAIL)

variable {s}

theorem State.unitState_failCheck_other {u v : Nat} (h : s.unitState u ≠ 0) (hv : ¬(u = 0 ↔ v = 0)) :
    (s.failCheck u).unitState v = s.unitState v := by
  have hev := State.sluEvent_frame s F.SLU_EVENT.SELFCHECK_FAIL
  exact (State.unitState_unitFail_other _ (by rwa [hev.unitState_eq]) hv).trans (hev.unitState_eq v)

theorem State.failCheck_handsOver {u : Nat} (h : s.unitState u = 0) (ho : s.unitState (1 - u) = 1) :
    (s.failCheck u).unitState (1 - u) = 0 ∧ (s.failCheck u).flag F.SLU_EVENT.SWITCHOVER 0 = true := by
  have hev := State.sluEvent_frame s F.SLU_EVENT.SELFCHECK_FAIL
  exact State.unitFail_handsOver _ (by rwa [hev.unitState_eq]) (by rwa [hev.unitState_eq])

theorem State.failCheck_noScheduler {u : Nat} (h : s.unitState u = 0) (ho : s.unitState (1 - u) = 4) :
    (s.failCheck u).unitState (1 - u) = 4 ∧ (s.failCheck u).flag F.SLU_EVENT.NO_SCHEDULER 0 = true := by
  have hev := State.sluEvent_frame s F.SLU_EVENT.SELFCHECK_FAIL
  exact State.unitFail_noScheduler _ (by rwa [hev.unitState_eq]) (by rwa [hev.unitState_eq])

end

theorem State.resyncDiffers_side (s : State) (tide : Int) (a o : Nat) : UnitSide s (s.resyncDiffers tide a o) := by
  unfold State.resyncDiffers
  dsimp only
  split
  · exact (UnitSide.refl s).setSluUnit.putSlu.switchOver.beginTest
  · exact (UnitSide.refl s).setSluUnit

section
variable {M : Nat} {s v : State} (h : Frame M s v) (hM : afterMismatchMask &&& M = afterMismatchMask)
include h hM

theorem Frame.failCheck {u : Nat} : Frame M s (v.failCheck u) :=
  Frame.unitFail (Frame.sluEvent h (Frame.bitOf hM (by decide +kernel)) (Frame.sub hM (by decide +kernel)))
    (Frame.sub hM (by decide +kernel))

theorem Frame.resyncDiffers {tide : Int} {a o : Nat} : Frame M s (v.resyncDiffers tide a o) := by
  have hunit : ∀ x, Frame M s (v.setSluUnit o x) := fun x => Frame.setSluUnit h (Frame.sub hM (by decide +kernel))
  unfold State.resyncDiffers
  dsimp only
  split
  · exact Frame.beginTest (Frame.switchOver (Frame.putSlu (hunit _) (Frame.sub hM (by decide +kernel)))
      (Frame.sub hM (by decide +kernel))) (Frame.sub hM (by decide +kernel))
  · exact hunit _

end

/-- What a mismatch reports stays reported. -/
theorem State.mapsDiffer_frame (s : State) (a t : Nat) (m : BwMap) : Frame afterMismatchMask s.mismatched (s.mapsDiffer a t m) := by
  have hrel : ∀ {v : State}, Frame afterMismatchMask s.mismatched v → Frame afterMismatchMask s.mismatched (v.releaseMap a t m) :=
    fun hv => Frame.releaseMap hv (by decide +kernel)
  have hself : Frame afterMismatchMask s.mismatched s.mismatched := Frame.refl _ _
  have hM : afterMismatchMask &&& afterMismatchMask = afterMismatchMask := Nat.and_self _
  rw [State.mapsDiffer_eq]
  split
  · have hboth := hrel (Frame.wr hself (f := F.SLU_STATUS.MISMATCH_RUN) (i := 0) (v := s.nextRun) (by decide +kernel))
    unfold State.bothPass
    dsimp only
    repeat' split
    · exact Frame.beginTest hboth (by decide +kernel)
    · exact hboth
    · exact hboth.resyncDiffers hM
  · split
    · exact (hrel hself).failCheck hM
    · split
      · exact hself.failCheck hM
      · exact (hself.failCheck hM).failCheck hM

section
variable {s : State} {a t : Nat} {m : BwMap}

theorem Takes.mismatched (h : Takes s t m) : Takes s.mismatched t m :=
  h.congr (s.mismatched_frame.tstate_eq _) (s.mismatched_side.tree _)

theorem Takes.relMap_bothPass (h : Takes s t m) : ((s.bothPass a t m).tree t).relMap = some m := by
  have htakes : Takes (s.mismatched.wr F.SLU_STATUS.MISMATCH_RUN 0 s.nextRun) t m :=
    h.mismatched.congr (State.tstate_wr _ _ (by decide)) rfl
  have hrel := htakes.relMap_releaseMap a
  unfold State.bothPass
  dsimp only
  repeat' split
  · rw [((UnitSide.refl _).beginTest).tree, hrel]
  · exact hrel
  · rw [(State.resyncDiffers_side _ _ _ _).tree, hrel]

/-- The ACTIVE unit's map is released where it passes its check. -/
theorem Takes.relMap_mapsDiffer (h : Takes s t m) (hok : (s.sluTree a t).ok = true) :
    ((s.mapsDiffer a t m).tree t).relMap = some m := by
  rw [State.mapsDiffer_eq, if_pos hok]
  split
  · exact h.relMap_bothPass
  · rw [(State.failCheck_side _ _).tree, h.mismatched.relMap_releaseMap]

theorem State.mapsDiffer_hot (hok : (s.sluTree a t).ok = true) (hoko : (s.sluTree (1 - a) t).ok = true)
    (hhot : s.unitState (1 - a) = 1) : (s.mapsDiffer a t m).unitState (1 - a) = if 4 ≤ s.nextRun then 3 else 1 := by
  rw [State.mapsDiffer_eq, if_pos ⟨hok, hoko⟩]
  unfold State.bothPass
  dsimp only
  rw [if_pos hhot]
  split
  · exact State.unitState_beginTest_same _ _
  · rw [(State.releaseMap_frame _ a t m).unitState_eq]
    have hrun : (s.mismatched.wr F.SLU_STATUS.MISMATCH_RUN 0 s.nextRun).unitState (1 - a) = s.mismatched.unitState (1 - a) := by
      unfold State.unitState
      rw [State.rd_wr_fld _ _ (by decide), State.rd_wr_fld _ _ (by decide)]
    rw [hrun, s.mismatched_frame.unitState_eq, hhot]

theorem State.mapsDiffer_otherFails (hok : (s.sluTree a t).ok = true) (hoko : (s.sluTree (1 - a) t).ok = false) :
    (s.mapsDiffer a t m).unitState (1 - a) = 4 ∧ (s.mapsDiffer a t m).flag F.SLU_EVENT.SELFCHECK_FAIL 0 = true := by
  rw [State.mapsDiffer_eq, if_neg (by simp [hoko]), if_pos hok]
  exact ⟨State.unitState_failCheck_same _ _, State.flag_failCheck _ _⟩

theorem State.mapsDiffer_activeFails (hok : (s.sluTree a t).ok = false) :
    (s.mapsDiffer a t m).tree t = s.tree t ∧ (s.mapsDiffer a t m).unitState a = 4 ∧
      (s.mapsDiffer a t m).flag F.SLU_EVENT.SELFCHECK_FAIL 0 = true := by
  rw [State.mapsDiffer_eq, if_neg (by simp [hok]), if_neg (by simp [hok])]
  split
  · exact ⟨(s.mismatched_side.trans (State.failCheck_side _ _)).tree t, State.unitState_failCheck_same _ _, State.flag_failCheck _ _⟩
  · exact ⟨((s.mismatched_side.trans (State.failCheck_side _ _)).trans (State.failCheck_side _ _)).tree t,
      State.unitState_failCheck_same _ _, State.flag_failCheck _ _⟩

theorem State.mapsDiffer_handsOver (hok : (s.sluTree a t).ok = false) (hoko : (s.sluTree (1 - a) t).ok = true)
    (hactive : s.unitState a = 0) (hhot : s.unitState (1 - a) = 1) :
    (s.mapsDiffer a t m).unitState (1 - a) = 0 ∧ (s.mapsDiffer a t m).flag F.SLU_EVENT.SWITCHOVER 0 = true := by
  rw [State.mapsDiffer_eq, if_neg (by simp [hok]), if_neg (by simp [hok]), if_pos hoko]
  exact State.failCheck_handsOver (by rwa [s.mismatched_frame.unitState_eq]) (by rwa [s.mismatched_frame.unitState_eq])

theorem State.mapsDiffer_noScheduler (hok : (s.sluTree a t).ok = false) (hoko : (s.sluTree (1 - a) t).ok = false)
    (hactive : s.unitState a = 0) (hother : s.unitState (1 - a) ≠ 0) :
    (s.mapsDiffer a t m).unitState (1 - a) = 4 ∧ (s.mapsDiffer a t m).flag F.SLU_EVENT.NO_SCHEDULER 0 = true := by
  rw [State.mapsDiffer_eq, if_neg (by simp [hok]), if_neg (by simp [hok]), if_neg (by simp [hoko])]
  refine State.failCheck_noScheduler ?_ (State.unitState_failCheck_same _ _)
  rw [State.unitState_failCheck_other (by rwa [s.mismatched_frame.unitState_eq]) fun h => otherUnit a h.symm,
    s.mismatched_frame.unitState_eq, hactive]

end

/-- A unit whose maps are compared is HOT or in RESYNC (R175). -/
theorem State.comparesMaps_state {s : State} {o t : Nat} (h : s.comparesMaps o t = true) : s.unitState o ≠ 0 := by
  unfold State.comparesMaps at h
  intro h0
  simp [h0] at h

section
variable {s : State} {a : Nat} {t : TreeId} {m : BwMap} (h : Releases s a t m)
include h

theorem Releases.differ_runs {m2 : BwMap} (hbuilt : (s.sluTree (1 - a) t).built = some m2) (hf : m2.f = m.f)
    (hcompares : s.comparesMaps (1 - a) t = true) (hcrc : s.mapCrc t m.grants ≠ s.mapCrc t m2.grants) :
    Runs (.mapRelease t) s (fun u =>
      u.flag F.SLU_EVENT.MISMATCH 0 = true ∧
      u.rd F.SLU_MISMATCH.COUNT 0 = satAdd F.SLU_MISMATCH.COUNT.w (s.rd F.SLU_MISMATCH.COUNT 0) 1 % 2 ^ F.SLU_MISMATCH.COUNT.w ∧
      ((s.sluTree a t).ok = true → (u.tree t).relMap = some m) ∧
      ((s.sluTree a t).ok = true → (s.sluTree (1 - a) t).ok = true → s.unitState (1 - a) = 1 →
        u.unitState (1 - a) = (if 4 ≤ satAdd 8 (s.rd F.SLU_STATUS.MISMATCH_RUN 0) 1 then 3 else 1)) ∧
      ((s.sluTree a t).ok = true → (s.sluTree (1 - a) t).ok = false →
        u.unitState (1 - a) = 4 ∧ u.flag F.SLU_EVENT.SELFCHECK_FAIL 0 = true) ∧
      ((s.sluTree a t).ok = false → (u.tree t).relMap = (s.tree t).relMap ∧ u.unitState a = 4 ∧
        u.flag F.SLU_EVENT.SELFCHECK_FAIL 0 = true ∧
        ((s.sluTree (1 - a) t).ok = true → s.unitState (1 - a) = 1 →
          u.unitState (1 - a) = 0 ∧ u.flag F.SLU_EVENT.SWITCHOVER 0 = true) ∧
        ((s.sluTree (1 - a) t).ok = false → u.unitState (1 - a) = 4 ∧ u.flag F.SLU_EVENT.NO_SCHEDULER 0 = true))) := by
  have hexec := h.exec_compared hbuilt hf hcompares
  rw [if_neg hcrc] at hexec
  have hcmp := s.comparing_frame
  have hafter := State.mapsDiffer_frame s.comparing a t m
  obtain ⟨hmismatch, hcount⟩ := s.comparing.mismatched_reports
  have hrun : s.comparing.nextRun = satAdd 8 (s.rd F.SLU_STATUS.MISMATCH_RUN 0) 1 := by
    unfold State.nextRun
    rw [hcmp.rd_eq F.SLU_STATUS.MISMATCH_RUN]
  have hactive : s.comparing.unitState a = 0 := by rw [hcmp.unitState_eq, State.unitState_of_activeUnit h.active]
  have hother : s.comparing.unitState (1 - a) ≠ 0 := by
    rw [hcmp.unitState_eq]
    exact State.comparesMaps_state hcompares
  refine ⟨_, hexec, ?_⟩
  simp only [State.startCopies_flag, State.startCopies_rd, State.startCopies_tree, State.startCopies_unitState,
    ← s.comparing_sluTree, ← hcmp.unitState_eq, ← hrun]
  refine ⟨?_, ?_, h.takes_comparing.relMap_mapsDiffer, State.mapsDiffer_hot, State.mapsDiffer_otherFails, fun hok => ?_⟩
  · rw [hafter.flag_eq F.SLU_EVENT.MISMATCH, hmismatch]
  · rw [hafter.rd_eq F.SLU_MISMATCH.COUNT, hcount, hcmp.rd_eq F.SLU_MISMATCH.COUNT]
  · obtain ⟨htree, hfailed, hcheck⟩ := State.mapsDiffer_activeFails (m := m) hok
    exact ⟨by rw [htree, s.comparing_side.tree], hfailed, hcheck, fun hoko hhot => State.mapsDiffer_handsOver hok hoko hactive hhot,
      fun hoko => State.mapsDiffer_noScheduler hok hoko hactive hother⟩

end

/-! ### What taking a command leaves of the inputs of ALLOC_SET (R154, R163) -/

section
variable (s : State) (src : Src) (t : Nat)

theorem State.take_side : HostSide s (s.take src) := (HostSide.refl s).take

theorem State.take_frame : Frame W.take s (s.take src) := Frame.take (Frame.refl _ s) (Nat.and_self _)

theorem State.take_term (k : Nat) : (s.take src).term t k = s.term t k :=
  congrArg (smGet Term.unused · (t, k)) (s.take_side src).terms

theorem State.take_alloc (i : Nat) : (s.take src).alloc t i = s.alloc t i := congrArg (smFind · (t, i)) (s.take_side src).allocs

theorem State.take_allocsOf : (s.take src).allocsOf t = s.allocsOf t := by
  unfold State.allocsOf
  rw [(s.take_side src).allocs]

theorem State.take_f50 : (s.take src).f50 t = s.f50 t := (s.take_frame src).f50_eq t

theorem State.take_treeRefuses : (s.take src).treeRefuses t = s.treeRefuses t := by
  unfold State.treeRefuses State.paired
  rw [(s.take_frame src).tstate_eq, (s.take_frame src).rd_eq F.PROT_Tt_STATE.PSTATE]

theorem State.take_allocRate (a : Alloc) : (s.take src).allocRate t a = s.allocRate t a := by
  unfold State.allocRate State.rateFor
  rw [s.take_term, s.take_f50, (s.take_side src).tree]

theorem State.take_commitSum (l : List (Nat × Alloc)) : (s.take src).commitSum t l = s.commitSum t l := by
  unfold State.commitSum State.commitOf
  simp only [s.take_allocRate, (s.take_side src).tree]

theorem State.take_topBps : (s.take src).topBps t = s.topBps t := by
  unfold State.topBps
  rw [s.take_f50]

theorem State.take_cutFrame : (s.take src).cutFrame t = s.cutFrame t := by
  unfold State.cutFrame State.tide
  rw [(s.take_side src).tb]

theorem State.take_guard : (s.take src).guard t = s.guard t := by
  unfold State.guard
  simp only [(s.take_frame src).rd_eq F.SLU_TREE_CTL.GUARD_NS, (s.take_frame src).rd_eq F.TRE_OPTIC.RXRST_LEAD,
    (s.take_frame src).rd_eq F.TRE_OPTIC.RXRST_WIDTH, s.take_f50]

theorem State.take_profAt (rate idx : Nat) (fr : Int) : (s.take src).profAt t rate idx fr = s.profAt t rate idx fr := by
  unfold State.profAt
  rw [(s.take_side src).bprofs]

theorem State.take_llSpan (a : Alloc) (fr : Int) : (s.take src).llSpan t a fr = s.llSpan t a fr := by
  unfold State.llSpan State.profFor
  simp only [s.take_allocRate, s.take_profAt, s.take_f50]

theorem State.take_allocLack (i : Nat) (a : Alloc) : (s.take src).allocLack t i a = s.allocLack t i a := by
  unfold State.allocLack
  simp only [s.take_allocsOf, s.take_commitSum, s.take_cutFrame, s.take_topBps, s.take_guard, s.take_llSpan]

end

/-! ### ALLOC_SET (R183, R184) -/

theorem firstFault_cons (c : Bool × Resp) (l : List (Bool × Resp)) :
    firstFault (c :: l) = if c.1 then some c.2 else firstFault l := rfl

/-- An allocation set: a new one, or one that changes class, starts with an account of 0 (R183). -/
def State.storeAlloc (s : State) (t i : Nat) (a : Alloc) : State :=
  let s1 := s.putAllocs (smPut s.allocs (t, i) a)
  (if (s.alloc t i).any (fun x => x.cls == a.cls) then s1
    else [0, 1].foldl (fun s u => s.setSluTree u t { s.sluTree u t with acct := smDel (s.sluTree u t).acct (i, 0) }) s1).setCommit t

theorem State.alloc_storeAlloc (s : State) (t i : Nat) (a : Alloc) : (s.storeAlloc t i a).alloc t i = some a := by
  have hallocs : (s.storeAlloc t i a).allocs = smPut s.allocs (t, i) a := by
    unfold State.storeAlloc
    dsimp only
    split <;> rfl
  unfold State.alloc
  rw [hallocs, smFind_smPut_same]

/-- ALLOC_SET whose fields are good and which no tree refuses. -/
structure Sets (s : State) (p : List Byte) : Prop where
  fields : allocFault (s.f50 (byteAt p 0)) p = none
  tree : (s.treeRefuses (byteAt p 0)).1 = false

section
variable {s : State} {p : List Byte} (h : Sets s p)
include h

theorem Sets.take (src : Src) : Sets (s.take src) p := ⟨by rw [s.take_f50, h.fields], by rw [s.take_treeRefuses, h.tree]⟩

theorem Sets.allocSet_store (hset : bit (byteAt p 1) 0 = false) (hunused : (s.term (byteAt p 0) (leAt p 6 2)).state ≠ tmUNUSED)
    (hstopped : (s.term (byteAt p 0) (leAt p 6 2)).state ≠ tmSTOPPED)
    (hid : ∀ e ∈ s.allocsOf (byteAt p 0), e.1 = leAt p 2 2 ∨ e.2.allocId ≠ leAt p 4 2)
    (hlack : s.allocLack (byteAt p 0) (leAt p 2 2) (allocOfBytes p) = false) :
    s.allocSet p = (s.storeAlloc (byteAt p 0) (leAt p 2 2) (allocOfBytes p),
      (s.storeAlloc (byteAt p 0) (leAt p 2 2) (allocOfBytes p)).allocResponse (byteAt p 0) (leAt p 2 2)) := by
  have hid' : (s.allocsOf (byteAt p 0)).any (fun e => e.1 != leAt p 2 2 && e.2.allocId == (allocOfBytes p).allocId) = false := by
    rw [List.any_eq_false]
    intro e he
    have := hid e he
    simp only [bne_iff_ne, ne_eq, Bool.and_eq_true, beq_iff_eq, not_and]
    exact fun hne heq => this.elim hne fun hne => hne heq
  have hterm : ¬((s.term (byteAt p 0) (allocOfBytes p).term).state = tmUNUSED ∨
      (s.term (byteAt p 0) (allocOfBytes p).term).state = tmSTOPPED) := not_or.2 ⟨hunused, hstopped⟩
  simp only [State.allocSet, h.fields, firstFault_cons, h.tree, hset, hid', hlack, hterm, Bool.false_eq_true, if_false,
    Bool.not_false, Bool.true_or, decide_false, Bool.and_false]
  rfl

theorem Sets.allocSet_delete (hdel : bit (byteAt p 1) 0 = true)
    (hold : ∀ a, s.alloc (byteAt p 0) (leAt p 2 2) = some a →
      (s.term (byteAt p 0) a.term).state ≠ tmUNUSED ∧ (s.term (byteAt p 0) a.term).state ≠ tmSTOPPED) :
    s.allocSet p = (s.deleteAlloc (byteAt p 0) (leAt p 2 2),
      (s.deleteAlloc (byteAt p 0) (leAt p 2 2)).allocResponse (byteAt p 0) (leAt p 2 2)) := by
  have hterm : ((s.alloc (byteAt p 0) (leAt p 2 2)).isSome && decide
      ((s.term (byteAt p 0) (((s.alloc (byteAt p 0) (leAt p 2 2)).map (fun x => x.term)).getD 0)).state = tmUNUSED ∨
      (s.term (byteAt p 0) (((s.alloc (byteAt p 0) (leAt p 2 2)).map (fun x => x.term)).getD 0)).state = tmSTOPPED)) = false := by
    cases ha : s.alloc (byteAt p 0) (leAt p 2 2) with
    | none => rfl
    | some a =>
      obtain ⟨hunused, hstopped⟩ := hold a ha
      simpa using ⟨hunused, hstopped⟩
  simp only [State.allocSet, h.fields, firstFault_cons, h.tree, hdel, hterm, Bool.false_eq_true, if_false, if_true,
    Bool.not_true, Bool.false_or, Bool.false_and]
  rfl

end

/-! ### A deleted allocation -/

/-- Keys taken out one after the other are gone. -/
theorem smFind_foldl_smDel {α β : Type} (l : List (Key × β)) (m : SMap α) {k : Key}
    (h : smFind m k = none ∨ ∃ e ∈ l, e.1 = k) : smFind (l.foldl (fun m e => smDel m e.1) m) k = none := by
  induction l generalizing m with
  | nil => simpa using h
  | cons e l ih =>
    rw [List.foldl_cons]
    by_cases hek : e.1 = k
    · exact ih _ (.inl (hek ▸ smFind_smDel_same m e.1))
    · rw [← smFind_smDel_other m hek] at h
      refine ih _ (h.imp_right ?_)
      rintro ⟨x, hx, rfl⟩
      rcases List.mem_cons.1 hx with rfl | hx
      · exact absurd rfl hek
      · exact ⟨x, hx, rfl⟩

theorem mem_of_smFind {α : Type} {m : SMap α} {k : Key} {v : α} (h : smFind m k = some v) : (k, v) ∈ m := by
  induction m with
  | nil => cases h
  | cons e r ih =>
    obtain ⟨k', v'⟩ := e
    unfold smFind at h
    split at h
    · subst_vars
      exact Option.some.inj h ▸ List.mem_cons_self
    · exact List.mem_cons_of_mem _ (ih h)

theorem State.freeCells_buf (s : State) (c : Nat) : ∃ b, s.freeCells c = s.putBuf b := by
  unfold State.freeCells
  split
  · exact ⟨s.buf, rfl⟩
  · split
    · exact ⟨_, rfl⟩
    · exact ⟨_, rfl⟩

section
variable (s : State) (t : Nat) (which : Nat → Reasm → Bool)

/-- The reassemblies of a tree that a test names. -/
def State.reasmsNamed : List (Key × Reasm) := s.reasms.filter (fun e => e.1.1 == t && which e.1.2 e.2)

/-- One of them is discarded and counted. -/
def State.dropOne (t : Nat) (s : State) (e : Key × Reasm) : State :=
  ((s.putReasms (smDel s.reasms e.1)).freeCells e.2.cell).incSat F.TRE_US_REASM_ABORT.COUNT t 1

theorem State.dropReasm_eq : s.dropReasm t which true = (s.reasmsNamed t which).foldl (State.dropOne t) s := rfl

theorem State.dropOne_eq (e : Key × Reasm) : (s.dropOne t e).allocs = s.allocs ∧ (s.dropOne t e).reasms = smDel s.reasms e.1 := by
  obtain ⟨b, hb⟩ := State.freeCells_buf (s.putReasms (smDel s.reasms e.1)) e.2.cell
  unfold State.dropOne
  rw [hb]
  exact ⟨rfl, rfl⟩

theorem State.foldl_dropOne (l : List (Key × Reasm)) : (l.foldl (State.dropOne t) s).allocs = s.allocs ∧
    (l.foldl (State.dropOne t) s).reasms = l.foldl (fun m e => smDel m e.1) s.reasms := by
  induction l generalizing s with
  | nil => exact ⟨rfl, rfl⟩
  | cons e l ih =>
    obtain ⟨hallocs, hreasms⟩ := s.dropOne_eq t e
    rw [List.foldl_cons, List.foldl_cons, (ih _).1, (ih _).2, hallocs, hreasms]
    exact ⟨rfl, rfl⟩

variable {s t which}

theorem State.dropReasm_gone {i : Nat} (h : ∀ r, which i r = true) : smFind (s.dropReasm t which true).reasms (t, i) = none := by
  rw [State.dropReasm_eq, (s.foldl_dropOne t _).2]
  refine smFind_foldl_smDel _ _ ?_
  cases hr : smFind s.reasms (t, i) with
  | none => exact .inl rfl
  | some r => exact .inr ⟨((t, i), r), List.mem_filter.2 ⟨mem_of_smFind hr, by simp [h]⟩, rfl⟩

end

theorem State.countForecasts_allocs (s : State) : s.countForecasts.allocs = s.allocs := rfl

theorem State.dropAlloc_allocs (s : State) (t i : Nat) : (s.dropAlloc t i).allocs = s.allocs := by
  unfold State.dropAlloc
  dsimp only
  rw [State.countForecasts_allocs, (UnitSide.refl _).forgetAlloc.allocs, (HostSide.refl s).forecastsLost.allocs]

theorem State.deleteAlloc_gone (s : State) (t i : Nat) :
    (s.deleteAlloc t i).alloc t i = none ∧ smFind (s.deleteAlloc t i).reasms (t, i) = none := by
  have hdrop := ((s.putAllocs (smDel s.allocs (t, i))).dropAlloc t i).foldl_dropOne t
    (((s.putAllocs (smDel s.allocs (t, i))).dropAlloc t i).reasmsNamed t (fun a _ => a == i))
  constructor
  · unfold State.alloc
    have hallocs : (s.deleteAlloc t i).allocs = smDel s.allocs (t, i) := hdrop.1.trans (State.dropAlloc_allocs _ _ _)
    rw [hallocs, smFind_smDel_same]
  · exact State.dropReasm_gone (s := (s.putAllocs (smDel s.allocs (t, i))).dropAlloc t i) (which := fun a _ => a == i)
      fun _ => beq_self_eq_true i

/-! ### ALLOC_SET as a command -/

section
variable {s : State} {src : Src} {p : List Byte} (hgiven : Given s src 0x0307 false false p) (h : Sets s p)
include hgiven h

theorem allocSet_stores (hset : bit (byteAt p 1) 0 = false) (hunused : (s.term (byteAt p 0) (leAt p 6 2)).state ≠ tmUNUSED)
    (hstopped : (s.term (byteAt p 0) (leAt p 6 2)).state ≠ tmSTOPPED)
    (hid : ∀ e ∈ s.allocsOf (byteAt p 0), e.1 = leAt p 2 2 ∨ e.2.allocId ≠ leAt p 4 2)
    (hlack : s.allocLack (byteAt p 0) (leAt p 2 2) (allocOfBytes p) = false) :
    ∃ r, Serves (.allocSet src) s src r (fun u => r = u.allocResponse (byteAt p 0) (leAt p 2 2) ∧
      u.alloc (byteAt p 0) (leAt p 2 2) = some (allocOfBytes p)) := by
  have hbody := (h.take src).allocSet_store hset (by rwa [s.take_term]) (by rwa [s.take_term]) (by rwa [s.take_allocsOf])
    (by rwa [s.take_allocLack])
  exact ⟨_, _, congrArg _ (State.calvan_given hgiven (by rw [atOnce, hbody])), rfl, State.alloc_storeAlloc _ _ _ _⟩

theorem allocSet_deletes (hdel : bit (byteAt p 1) 0 = true)
    (hold : ∀ a, s.alloc (byteAt p 0) (leAt p 2 2) = some a →
      (s.term (byteAt p 0) a.term).state ≠ tmUNUSED ∧ (s.term (byteAt p 0) a.term).state ≠ tmSTOPPED) :
    ∃ r, Serves (.allocSet src) s src r (fun u => r = u.allocResponse (byteAt p 0) (leAt p 2 2) ∧
      u.alloc (byteAt p 0) (leAt p 2 2) = none ∧ smFind u.reasms (byteAt p 0, leAt p 2 2) = none) := by
  have hbody := (h.take src).allocSet_delete hdel (by simpa only [s.take_alloc, s.take_term] using hold)
  exact ⟨_, _, congrArg _ (State.calvan_given hgiven (by rw [atOnce, hbody])), rfl, State.deleteAlloc_gone _ _ _⟩

end

/-- Settles O41: its clauses are the rules of the Sluice commands above, for ALLOC_SET, maps, forecast records and units. -/
theorem schedulingMapsAndUnits : Obligations.SchedulingMapsAndUnits := by
  unfold Obligations.SchedulingMapsAndUnits
  refine ⟨⟨?_, ?_, ?_, ?_⟩, ?_, ?_, ?_, ?_, ?_, ?_, ?_⟩
  · rintro s src p t i hgiven rfl rfl hfields htree
    exact ⟨allocSet_stores hgiven ⟨hfields, htree⟩, allocSet_deletes hgiven ⟨hfields, htree⟩⟩
  · intro t wrong u s hactive hon hstate hbuilt
    exact mapBuild_runs hactive hon hstate hbuilt
  · rintro t s a o m hactive rfl hbuilt hframe hrunning hfree hreleased hlatched
    have h : Releases s a t m := ⟨⟨hrunning, hlatched⟩, hactive, hbuilt, hframe, hfree, hreleased⟩
    exact ⟨h.unchecked_runs, fun m2 hbuilt2 hf hcompares => ⟨h.agree_runs hbuilt2 hf hcompares, h.differ_runs hbuilt2 hf hcompares⟩⟩
  · rintro ring s i t b key htyp hon hnext hread hb hown rfl rfl
    exact ⟨forecastRecord_accepted htyp hon hnext hread hb hown, forecastRecord_refused htyp hon hnext hread hb hown⟩
  · intro p v s hosc hon hswap hretest
    exact ⟨fun a => sluSwap_handsOver hosc hon hswap hretest, sluSwap_refused hosc hon hswap hretest⟩
  · intro p v s hosc hon hswap hretest hstarted
    exact sluRetest_runs hosc hon hswap hretest hstarted
  · intro u s hfailed hstarted hon hms
    exact ⟨sluiceRetestTimer_begins hfailed hstarted hon hms, sluiceRetestTimer_held⟩
  · intro u n cause s hon hfailed
    exact sluiceUnitFault_engine hon hfailed
  · exact sluiceUnitFault_domain
  · intro u s htesting
    exact ⟨sluiceSelfTestDone_failed htesting, sluiceSelfTestDone_resync htesting, sluiceSelfTestDone_active htesting⟩
  · intro u s f hresync hclean hdue
    exact sluiceHot_runs hresync hclean hdue

end Sys2Proof.Machine
